-- ==== Sys2Proof/Word.lean ====
section
/-! DEFINITION. The word types of the block: a byte, a register word and the 64-bit quantities of the host. -/

namespace Sys2Proof

/-- A byte of host memory, of DRAM or of a structure (00 R4). -/
abbrev Byte := BitVec 8

/-- A 16-bit word: a fuse word (16 R420) or a program-store word (13 R352). -/
abbrev Half := BitVec 16

/-- A 32-bit register word (18 R460). -/
abbrev Word := BitVec 32

end Sys2Proof
end

