-- ==== Sys2Proof/Machine/QuartzState.lean ====
section
/-! DEFINITION. The state of Quartz: Time Base, Cadence channels, strobes (04), the reference discipline and the time
of day (05). Times are Time Base ticks held as Nat; a tick counter wraps at 2^64 in the operation that advances it. -/

namespace Sys2Proof.Machine

/-- A capture cadence: RELOAD, DNUM, DDEN of CAD1 and the Sub-frame grid G (04 R84, R87). -/
structure Cadence where
  reload : Nat
  dnum : Nat
  dden : Nat
  grid : Nat
  deriving DecidableEq, Repr

/-- A capture cadence staged by APPLY, or by DISC for an alignment (04 R88, 05 R124). -/
structure StagedCadence where
  cad : Cadence
  /-- tick of the first CAD1 event; 0 selects the next available one -/
  align : Nat
  /-- tick at which the apply reached Quartz -/
  arrival : Nat
  /-- staged by DISC, not by the host -/
  own : Bool
  deriving DecidableEq, Repr

/-- The bridge between two capture cadences (04 R90): `count` CAD0 periods from `t0` to `align`, all but the last
`step` ticks long; `next` is the number of the next bridge CAD0 event. -/
structure Bridge where
  t0 : Nat
  align : Nat
  step : Nat
  count : Nat
  next : Nat
  deriving DecidableEq, Repr

/-- Modes of a Cadence channel from CAD2 to CAD31 (04 R93). -/
inductive ChanMode where
  | off | free | lock1 | lock0
  deriving DecidableEq, Repr

/-- A setting of a Cadence channel (04, table Cadence descriptor settings). -/
structure ChanSetting where
  mode : ChanMode
  reload : Nat
  dnum : Nat
  dden : Nat
  phase : Nat
  deriving DecidableEq, Repr

/-- A setting that waits for its effect (04 R94): `start` is the tick of a FREE channel's first event, `desc` the
linear index of the Control descriptor that asked for it. -/
structure ChanWait where
  setting : ChanSetting
  start : Nat
  desc : Nat
  deriving DecidableEq, Repr

/-- One Cadence channel from CAD2 to CAD31: the setting in force, its dither accumulator, the tick its next event is
due, and the settings that wait. `late` is the tick of a LOCK1 event whose source is the CAD1 event that opened a bridge
and which falls after the bridge (04 R93, R95). -/
structure Chan where
  setting : ChanSetting
  acc : Nat
  due : Option Nat
  late : Option Nat
  waits : List ChanWait
  deriving DecidableEq, Repr

/-- What a strobe output is doing (04 R108). -/
inductive Pulse where
  | idle
  | pending (onAt width : Nat)
  | active (offAt : Nat)
  deriving DecidableEq, Repr

/-- One STROBE_OUT driver: its pulse, the SRC and the POL in force (true: active low) and STRB_DROP (04 R108, R109, 18
R469). -/
structure Strobe where
  pulse : Pulse
  src : Nat
  pol : Bool
  drop : Nat
  deriving DecidableEq, Repr

/-- Quartz TBC, CAD and STRB. -/
structure Quartz where
  /-- the Time Base, 64 bits (R80) -/
  tb : Nat
  /-- Quartz is out of power-on reset and the Time Base runs (R80) -/
  running : Bool
  /-- TB_HI latch (R82) -/
  tbHi : Nat
  /-- CAP_STATUS.STATE, RESULT and CADENCE_SEQ (R87) -/
  capState : Nat
  capResult : Nat
  capSeq : Nat
  /-- the capture cadence in force -/
  cap : Option Cadence
  /-- dither accumulator of CAD1 (R84) -/
  capAcc : Nat
  /-- stamp of the CAD1 event that opened the period in progress, and the period's length -/
  cad1At : Nat
  capL : Nat
  /-- number of the next CAD0 event of the period in progress (R86) -/
  cadJ : Nat
  staged : Option StagedCadence
  bridge : Option Bridge
  /-- channels CAD2 to CAD31; entries 0 and 1 stay OFF -/
  chans : Vector Chan 32
  /-- events since power-up, low 16 bits, and stamp of the last event, by channel (18 R468) -/
  evCount : Vector Nat 32
  evLast : Vector Nat 32
  /-- CAD_LAST_HI latch (18 R468) -/
  cadLastHi : Nat
  strobes : Vector Strobe 4
  deriving DecidableEq, Repr

/-- Discipline states (05 R116). -/
inductive DiscState where
  | free | acquire | locked | suspect | holdover | relocking
  deriving DecidableEq, Repr

/-- Causes of a HOLDOVER event (08, table Event codes). -/
inductive HoldCause where
  | loss | glitch | window | kindNone | takeStart
  deriving DecidableEq, Repr

/-- The steps of ACQUIRE (05 R124). -/
inductive AcqStep where
  | qualifying | pulling | aligning | checking
  deriving DecidableEq, Repr

/-- A run of compare events over which DISC measures (05 R123, R124): the tick it opened, the stamps of its first and
last compare events, how many there were after the first, and the sum of CORR at them. -/
structure MeasureWindow where
  opened : Nat
  first : Option Nat
  last : Nat
  periods : Nat
  corrSum : Int
  corrCount : Nat
  deriving DecidableEq, Repr

/-- A discipline state change that waits for a CAD1 event (05 R118): the state, the cause where it is HOLDOVER, and
the tick the condition arose. -/
structure DiscPending where
  goal : DiscState
  cause : HoldCause
  since : Nat
  deriving DecidableEq, Repr

/-- REF_CFG in force (05 R122, R137). -/
structure RefCfg where
  kind : Nat
  edge : Bool
  ratio : Nat
  filt : Nat
  deriving DecidableEq, Repr

/-- A change that waits for a CAD1 event after the tick `at_` (05 R122): REF_CFG as written, whether it acts as loss, and
whether a Take was open when KIND was set to NONE (R118). -/
structure RefChange where
  at_ : Nat
  cfg : RefCfg
  loss : Bool
  take : Bool
  deriving DecidableEq, Repr

/-- Quartz DISC (05 R111 to R126). -/
structure Disc where
  state : DiscState
  /-- CORR, ppt (R113) -/
  corr : Int
  /-- the loop's accumulator (R114) -/
  acc : Int
  /-- predicted stamp of the next compare event, clock kinds (R114); none until taken from a compare event -/
  expect : Option Int
  /-- REF_IN edges since the last compare event, and the last edge's stamp -/
  edges : Nat
  lastEdge : Nat
  /-- loss has been declared and no edge has counted since (R121) -/
  lost : Bool
  /-- HOLD_CORR and HOLD_VALID (R117) -/
  hold : Int
  holdValid : Bool
  /-- REF_IN qualified since the last loss (R137) -/
  refQual : Bool
  /-- PHASE_ADOPTED and the adopted offset (R126); `adoptNext` asks for the next compare event's err -/
  phaseAdopted : Bool
  adopted : Int
  adoptNext : Bool
  /-- FSYNC_OFFSET as the last alignment took it, and as the alignment that is staged takes it (R138) -/
  offset : Int
  alignOffset : Int
  /-- the offset found at the compare event that follows the start of an FSYNC pull (R124 step 2) -/
  pullOffset : Option Int
  pending : Option DiscPending
  /-- CORR and acc frozen after loss or glitch, and the tick from which (R119) -/
  frozen : Bool
  frozenAt : Nat
  /-- REF_EVENT of the period in progress: the ticks of the first and the last detection (R121) -/
  refEvent : Option (Nat × Nat)
  step : AcqStep
  /-- tick at which the running step of ACQUIRE, or a qualification, began -/
  stepAt : Nat
  /-- tick at which the last qualification ended (R118, 20 s) -/
  qualAt : Nat
  /-- consecutive compare events inside the lock window -/
  lockRun : Nat
  /-- a compare event of the alignment check fell outside the lock window -/
  checkBad : Bool
  /-- the qualification in progress has seen a loss -/
  qualBad : Bool
  /-- the 10 s window (R123) and the 1 s measurement (R124, R126) -/
  window : Option MeasureWindow
  measure : MeasureWindow
  /-- WINDOW_OFFSET of the last window (R123), ppt -/
  winOffset : Int
  /-- latest 1 s measured offset, ppt -/
  measured : Int
  /-- MAX_SLEW of the RELOCK in progress, ppt per frame; convergence reached -/
  slew : Int
  /-- DISC_COUNTS (R137) -/
  loss : Nat
  glitch : Nat
  suspect : Nat
  ppsReject : Nat
  /-- REF_CFG in force, and the changes that wait for the next CAD1 event, oldest first (R122) -/
  cfg : RefCfg
  changes : List RefChange
  deriving DecidableEq, Repr

/-- A PPS/time-of-day pairing (05 R129, R130). -/
structure Pairing where
  /-- p_q, D_q -/
  stamp : Nat
  ticks : Nat
  seconds : Nat
  ns : Nat
  utcOffset : Int
  utcValid : Bool
  leap61 : Bool
  leap59 : Bool
  /-- unpaired: stamped with the message's arrival (R131) -/
  coarse : Bool
  deriving DecidableEq, Repr

/-- Quartz TCG and the PPS numbering (05 R128 to R135). -/
structure Tod where
  /-- number of the next edge, and the accepted edges (q, stamp), latest first -/
  ppsSeq : Nat
  pps : List (Nat × Nat)
  /-- pairing in use, and the accepted pairing that waits for the next CAD1 event with its Epoch -/
  pairing : Option Pairing
  staged : Option (Pairing × Nat)
  epoch : Nat
  gmId : Nat
  /-- PPS_CFG, TIME_CFG, LOCAL_OFFSET and STEP_TOL in force (R138) -/
  ppsCfg : Word
  timeCfg : Word
  localOffset : Word
  stepTol : Word
  /-- PRESET time code: the frame count f in force, and a preset that waits (R135) -/
  presetF : Option Nat
  presetWait : Option Word
  deriving DecidableEq, Repr

/-- The time record of a CAD1 event (05 R136). -/
structure TimeRecord where
  cad1Stamp : Nat
  refState : Nat
  refEvent : Bool
  phaseAdopted : Bool
  epoch : Nat
  todValid : Bool
  todCoarse : Bool
  todStale : Bool
  todSeconds : Nat
  todNs : Nat
  utcOffset : Int
  tc : Word
  tcIndex : Nat
  tcDf : Bool
  corr : Int
  deriving DecidableEq, Repr

end Sys2Proof.Machine
end

