-- ==== Sys2Proof/Machine/GarnetState.lean ====
section
/-! DEFINITION. The state of Garnet: the pixel array and its Clusters (02), Frame Programs, Hands and Takes (03, 04),
the drain (01 R17, 02 R54 to R56) and the messages Garnet exchanges. -/

namespace Sys2Proof.Machine

/-! ### The array -/

/-- One Cluster (02 R34 to R57): per pixel, in Cluster order j, the photodiode and floating-diffusion charge in
electrons, the stored reset code and four Slots; per Slot the overflow flag; the offset O in 1/16 DN and the trim, which is
the O that reads use (R48: a new O applies from the next Hand), the calibration sum and count; the running count of reads
and the count latched for each Slot (R57: a Tile's tally is the sum over its Clusters). -/
structure Cluster where
  pd : Vector Rat 16
  fd : Vector Rat 16
  resetCode : Vector Int 16
  slots : Vector (Vector Nat 16) 4
  flags : Vector Bool 4
  offset : Int
  trim : Int
  calSum : Int
  calCount : Nat
  tally : Nat
  latched : Vector Nat 4
  deriving DecidableEq, Repr

/-- The array: one value for every Cluster that is not listed, and the listed ones by Cluster number
cr × 4,384 + cc, rising. -/
structure PixelArray where
  rest : Cluster
  listed : List (Nat × Cluster)
  deriving DecidableEq, Repr

/-- What the outside brings to one pixel in one Sub-frame: charge collected before the partial transfer, between it
and the cut, and after the cut; floating-diffusion leakage before the probe and before the read slot; for a
first and a second read, in DN, the noise n of R47 with the converter's offset as it is before the trim; the reset codes
those reads store. -/
structure PixelIn where
  pd0 : Rat
  pd1 : Rat
  pd2 : Rat
  fd0 : Rat
  fd1 : Rat
  n0 : Rat
  n1 : Rat
  r0 : Int
  r1 : Int
  deriving DecidableEq, Repr

/-- What the outside brings to one Cluster in one Sub-frame: its pixels, and the dark double-sample. -/
structure ClusterIn where
  pix : Vector PixelIn 16
  dark : Int
  deriving DecidableEq, Repr

/-- The scene of one Sub-frame: one value for every Cluster not listed, and listed Clusters. -/
structure Scene where
  rest : ClusterIn
  listed : List (Nat × ClusterIn)
  deriving DecidableEq, Repr

/-- The Sub-frame broadcast (02 R38). -/
structure Broadcast where
  force : Bool
  prevForce : Bool
  barrier : Nat
  add : Vector Bool 4
  close : Vector Bool 4
  open_ : Vector Bool 4
  handEnd : Bool
  deriving DecidableEq, Repr

/-! ### Frame Programs -/

/-- One Plane of a Deal Table (03 R65). -/
structure PlaneDef where
  start : Nat
  end_ : Nat
  gated : Bool
  invert : Bool
  deriving DecidableEq, Repr

/-- A Frame Program (03 R65). `planeCount` is PLANES + 1; `planes` holds all four Plane words. -/
structure FrameProgram where
  gen : Nat
  n : Nat
  slotUse : Bool
  planeCount : Nat
  nMin : Nat
  barrier : Nat
  gateLen : Nat
  gatePhase : Nat
  gatePattern : Nat
  defectId : Nat
  shadingId : Nat
  darkId : Nat
  planes : List PlaneDef
  drainFirst : Nat
  drainLast : Nat
  deriving DecidableEq, Repr

/-- A staged Frame Program with the linear index of its descriptor. -/
structure StagedProgram where
  prog : FrameProgram
  desc : Nat
  deriving DecidableEq, Repr

/-- What a Plane of a Hand has gathered (03 R72): its Slot, its edges, Sub-frames taken in and exposure in ticks. -/
structure PlaneRun where
  slot : Nat
  s : Nat
  e : Nat
  wOn : Nat
  exposure : Nat
  deriving DecidableEq, Repr

/-! ### Capture modes, Takes and triggers -/

/-- MODE of a TRIGGER descriptor (04 R98). -/
inductive CapMode where
  | continuous | triggered
  deriving DecidableEq, Repr

/-- POLICY of a TRIGGER descriptor (04 R98). -/
inductive TrigPolicy where
  | queueOne | ignore
  deriving DecidableEq, Repr

/-- SOURCE of a TRIGGER descriptor (04 R98). -/
inductive TrigSource where
  | trigIn | seq | both
  deriving DecidableEq, Repr

/-- The two kinds of trigger event on the Agate → Garnet channel (04 R100, 13 R368). -/
inductive TrigKind where
  | pin | flag
  deriving DecidableEq, Repr

/-- A staged TRIGGER descriptor. -/
structure StagedTrigger where
  mode : CapMode
  policy : TrigPolicy
  source : TrigSource
  desc : Nat
  deriving DecidableEq, Repr

/-- Why a Take ends (10, table Take end reasons, codes 0 to 7; 12 R314, code 8). -/
inductive EndReason where
  | stop | count | retention | mediaFull | bandwidth | setBroken | powerLoss | shutdown | islandFault
  deriving DecidableEq, Repr

/-- An open Take (04 R96, R97): START's TAKE_ID and COUNT, Frames captured, its descriptor while that still waits (in
Triggered mode, 08 R214), and whether it will complete LATE. -/
structure GarnetTake where
  takeId : Nat
  count : Nat
  captured : Nat
  startDesc : Option Nat
  late : Bool
  deriving DecidableEq, Repr

/-- A START that waits for its start boundary; `seen` once a boundary whose latch point follows its arrival has passed
it by. -/
structure WaitingStart where
  takeId : Nat
  count : Nat
  atTb : Nat
  desc : Nat
  seen : Bool
  deriving DecidableEq, Repr

/-- A STOP that waits (04 R97, 08 R214); `seen` as for a START. -/
structure WaitingStop where
  atTb : Nat
  desc : Nat
  seen : Bool
  deriving DecidableEq, Repr

/-! ### Frames -/

/-- Flags that Garnet puts into a Frame's snapshot (09 R236). -/
structure SnapFlags where
  takeStart : Bool
  takeLast : Bool
  programStart : Bool
  triggered : Bool
  berylAbsent : Bool
  noBuffer : Bool
  truncated : Bool
  timing : Bool
  failStop : Bool
  deriving DecidableEq, Repr

/-- The snapshot of a Frame as Garnet binds it at the latch point (01 R21), and what its Hand measures (03 R72). `policy` is
the trigger policy in force. -/
structure Snapshot where
  frame : Nat
  prog : FrameProgram
  nEff : Nat
  t : Nat
  policy : TrigPolicy
  /-- cadence frame count H at the start of the Hand (03 R76) -/
  hCount : Nat
  /-- TAKE_ID when the Frame belongs to a Take -/
  take : Option Nat
  /-- TRIG_OVERRUN carried into the Frame, and the stamp of its trigger (04 R105) -/
  overrun : Nat
  trigStamp : Option Nat
  flags : SnapFlags
  /-- CADENCE_SEQ, the CAD1 stamp, L and G of the Hand's CAD1 event -/
  cadSeq : Nat
  cad1Stamp : Nat
  l : Nat
  g : Nat
  planes : List PlaneRun
  /-- reference versions bound: defect map, shading map, dark reference plane (01 R25) -/
  refs : Option Nat × Option Nat × Option Nat
  /-- RELOAD + 1 of the capture cadence under which its Hand is to run (01 R31) -/
  period : Nat
  /-- the time record of the Hand's CAD1 event (05 R136), and TIME_STEP (05 R133) -/
  time : Option TimeRecord
  timeStep : Bool
  deriving DecidableEq, Repr

/-- A Hand in progress (03 R63): its snapshot, cadence frame count h, the next Sub-frame index, the CAD0 stamps of the
Sub-frame before it and of the last one started, the profile sums P_i, latest first (07 R186), and its drain-region
address, none when the reservation failed (01 R19). -/
structure Hand where
  snap : Snapshot
  h : Nat
  i : Nat
  lastStamp : Nat
  profile : List Nat
  addr : Option Nat
  deriving DecidableEq, Repr

/-- What a Slot is doing (02 R52 to R54). -/
inductive SlotUse where
  | free
  | accumulating (frame plane : Nat)
  | draining (frame plane : Nat)
  deriving DecidableEq, Repr

/-- A Stripe or profile token of the Garnet → Jade channel (01, table Stripe token contents). -/
structure StripeToken where
  frame : Nat
  gen : Nat
  plane : Nat
  stripe : Nat
  ordinal : Nat
  addr : Nat
  len : Nat
  crc : Word
  marks : BitVec 16
  /-- the generation that Garnet holds for Jade as it sends the token (12 R315) -/
  sent : Nat := 1
  deriving DecidableEq, Repr

/-- A Frame being drained (01 R17, 02 R55 to R57): its snapshot, reservation, Planes still to drain with the next
Stripe of each (none until the Plane's Slot has closed), and whether its profile record waits. -/
structure DrainJob where
  snap : Snapshot
  addr : Nat
  /-- per Plane: the Slot, whether it has closed, and the next Stripe to drain -/
  planes : List (Nat × Bool × Nat)
  /-- the Hand has ended, with READS and the profile -/
  profile : Option (Nat × List Nat)
  deriving DecidableEq, Repr

/-- What DRN is doing (01 R17): idle, or holding a token until it is acknowledged. -/
inductive DrnState where
  | idle
  | holding
  deriving DecidableEq, Repr

/-- The CAD0 and CAD1 events Quartz sends to Garnet (04 R87). With CLOSING goes `t0In`, which of the boundaries ahead is
t0: 1 the next, 2 the one after it, 0 a later one or none (log entry 14). -/
inductive CadMsg where
  | cad1 (stamp g l seq : Nat) (time : TimeRecord)
  | cad0 (stamp : Nat) (last closing : Bool) (t0In : Nat)
  deriving DecidableEq, Repr

/-- What the Garnet status registers show, taken at the latch point of the last boundary (18 R470). -/
structure GrnView where
  frame : Nat
  gen : Nat
  take : Bool
  latched : Bool
  burst : Bool
  t : Nat
  nEff : Nat
  h : Nat
  deriving DecidableEq, Repr

/-- Garnet SEQ, CONV and DRN. -/
structure Garnet where
  /-- Sub-frames are running (18 R470) -/
  started : Bool
  /-- number of the next Frame (00 R10, 01 R12), and the GRN_FRAME_HI latch -/
  frameNo : Nat
  frameHi : Nat
  applied : Option FrameProgram
  /-- a Frame Program has been applied since power-up (18 R464) -/
  everApplied : Bool
  staged : List StagedProgram
  /-- highest GEN accepted (03 R67 row 7) -/
  maxGen : Nat
  /-- t last applied (03 R71), and the thermal step held for the next Boundary Merge (15 R409) -/
  t : Nat
  thermal : Option Nat
  /-- of the CAD1 period in progress: stamp, G, L, CADENCE_SEQ; none before the first -/
  cad : Option (Nat × Nat × Nat × Nat)
  /-- Epoch of the Frame started before (05 R133) -/
  lastEpoch : Nat
  /-- cadence frame count H (03 R76) -/
  h : Nat
  /-- CAD0 events of the period seen so far, and the D that governs the period (03 R63, R74) -/
  j : Nat
  d : Nat
  /-- stamp of the last CAD0 event received (04 R101), and the count expected next on the channel -/
  lastCad0 : Nat
  evExpect : Nat
  /-- LAST, CLOSING and the place of t0 of the last CAD0 event; the period in progress is a bridge (04 R505) -/
  last : Bool
  closing : Bool
  t0In : Nat
  inBridge : Bool
  /-- broadcast of the Sub-frame in progress; FORCE of the last one started (02 R38) -/
  bc : Option Broadcast
  lastForce : Bool
  hand : Option Hand
  /-- a Frame bound at a latch point whose CAD1 event has not come (01 R12) -/
  bound : Option Snapshot
  /-- the forced Sub-frame before the bound Frame's Hand has started (03 R74) -/
  boundReady : Bool
  /-- CAD0 stamp of the last Sub-frame started (03 R64) -/
  lastSf : Nat
  /-- Slot pair of the last Frame started: false for the pair 0 and 1 (02 R52); none after start, recovery or Burst use -/
  pair : Option Bool
  array : PixelArray
  slots : Vector SlotUse 4
  jobs : List DrainJob
  drn : DrnState
  /-- drain-region reservations (frame, address, length) (01 R19) -/
  resv : List (Nat × Nat × Nat)
  mode : CapMode
  policy : TrigPolicy
  source : TrigSource
  stagedTrigger : List StagedTrigger
  /-- latched trigger: its stamp (04 R103) -/
  latch : Option Nat
  overrun : Nat
  trigExpect : Nat
  take : Option GarnetTake
  start : Option WaitingStart
  stops : List WaitingStop
  /-- a stop request (10 R281) -/
  stopReq : Option EndReason
  /-- capture has stopped for good: main-input loss or FATAL; a shutdown lets the Hand finish (14 R394, 15 R412) -/
  stopped : Bool
  shutdown : Bool
  /-- Sub-frames to pass before the first Hand after a start or a recovery (02 R48, 12 R324); a Hand is skipped after a gap (12 R330) -/
  waitSf : Nat
  skipHand : Bool
  /-- the array's offsets are to be measured before the first Hand (02 R48) -/
  offsetFresh : Bool
  /-- GEN of the last Frame bound (09 R236) -/
  lastGen : Nat
  /-- the status registers as taken at the last latch point -/
  view : GrnView
  deriving DecidableEq, Repr

end Sys2Proof.Machine
end

