-- ==== Sys2Proof/Machine/AgateState.lean ====
section
/-! DEFINITION. The state of Agate: the Pin Sequencer engines, pins, flags, gangs and TRIG_IN qualification (13, 04 R100).
-/

namespace Sys2Proof.Machine

/-- Why an engine stalls; codes of SQn_STATUS.CAUSE (13 R376). -/
inductive StallCause where
  | none_ | pull | push | wait | flag | cad
  deriving DecidableEq, Repr

/-- ERR of SQn_STATUS (13 R356, R376). -/
inductive EngineErr where
  | none_ | badOp | badAddr
  deriving DecidableEq, Repr

/-- What an engine cycle sees: pin levels, flags, queue levels, a gang's valid bits, TRIG_IN and the Cadence latches as they stood
at its start (13 R354, R365, R370). -/
structure Sample where
  pins : Vector Bool 16
  flags : Vector Bool 8
  tx : Nat
  rx : Nat
  outValid : Bool
  inValid : Bool
  trig : Bool
  latches : Vector Bool 32
  deriving DecidableEq, Repr

/-- One engine's working state (13 R352). -/
structure Engine where
  pc : Nat
  c : Word
  v : Word
  so : Word
  soLeft : Nat
  si : Word
  siCount : Nat
  tx : List Word
  rx : List Word
  latches : Vector Bool 32
  en : Bool
  err : EngineErr
  stall : StallCause
  /-- the cycle in progress: the word fetched for it, what it sees, and that it is the first of its instruction (13 R354) -/
  word : Half
  sample : Sample
  first : Bool
  miss : Nat
  deriving DecidableEq, Repr

/-- The data registers of a gang (13 R372, R377). -/
structure GangRegs where
  out : Vector Word 4
  in_ : Vector Word 4
  outValid : Bool
  inValid : Bool
  deriving DecidableEq, Repr

/-- OP of a SEQ_TRANSFER (08, table SEQ_TRANSFER body). -/
inductive TransferOp where
  | tx | rx | program
  deriving DecidableEq, Repr

/-- A SEQ_TRANSFER in flight at Agate (08 R219): its engine, or its first address in the store; its words, those moved,
its buffer, and the data read from it so far. -/
structure Transfer where
  desc : Nat
  engine : Nat
  op : TransferOp
  words : Nat
  moved : Nat
  addr : Nat
  data : List Byte
  deriving DecidableEq, Repr

/-- Agate. -/
structure Agate where
  store : Vector Half 48
  eng : Vector Engine 8
  flags : Vector Bool 8
  gangLo : Bool
  gangHi : Bool
  gang : Vector GangRegs 2
  /-- levels and directions driven (true: output), and the filtered levels seen (13 R360 to R363) -/
  level : Vector Bool 16
  dir : Vector Bool 16
  seen : Vector Bool 16
  /-- engines whose next cycle begins as the present Agate cycle ends (13 R353) -/
  due : Vector Bool 8
  /-- of the Agate cycle in progress: levels at its start, flags raised in it, the engine whose write holds at each pin, and the
  trigger events that engines have sent in it (13 R361, R362, R367, R368) -/
  cycLevel : Vector Bool 16
  cycRaised : Vector Bool 8
  cycLevelBy : Vector (Option Nat) 16
  cycDirBy : Vector (Option Nat) 16
  cycTrigs : Nat
  /-- qualified TRIG_IN, and that the inactive level has been held (04 R100) -/
  trigLevel : Bool
  trigArmed : Bool
  transfers : List Transfer
  deriving DecidableEq, Repr

end Sys2Proof.Machine
end

