-- ==== Sys2Proof/Machine/BerylState.lean ====
section
/-! DEFINITION. The state of Beryl: thermal manager THM (15), OTP controller OTC (16), Event Recorder EVR (12). -/

namespace Sys2Proof.Machine

/-- Beryl THM (15 R404 to R419). Temperatures are in 0.1 °C; group states are codes 0 NORMAL to 3 SHUTDOWN. -/
structure Thermal where
  /-- latest samples of the 56 on-die sensors, and of THM_A and THM_B -/
  samples : Vector Int 56
  remote : Vector Int 2
  readings : Vector Int 4
  groups : Vector Nat 4
  /-- the group has had its first reading -/
  begun : Vector Bool 4
  /-- runs of remote readings out of range and within it, and REMOTE_FAULT (R405) -/
  badRun : Vector Nat 2
  goodRun : Vector Nat 2
  fault : Vector Bool 2
  device : Nat
  /-- t last sent, Frames bound at it, and whether the last change of t raised it (R408) -/
  t : Nat
  count : Nat
  rising : Bool
  /-- the group began this power-up in SHUTDOWN and has not yet left it (R414) -/
  hold : Vector Bool 4
  /-- a request for Jade's clock is due with the first Frame bound at `t` (R410) -/
  askClock : Bool
  /-- a Shutdown signal has been given (R411) -/
  signalled : Bool
  deriving DecidableEq, Repr

/-- Margins of a fuse read (16 R434, R437). -/
inductive Margin where
  | low | nominal | high
  deriving DecidableEq, Repr

/-- A host programming run (16 R433, R434): first word, data of each word, words verified, pulses given to the current
word, and what that word is to read; none between two words. -/
structure OtpRun where
  addr : Nat
  data : List Half
  done : Nat
  pulses : Nat
  want : Option Half
  deriving DecidableEq, Repr

/-- A Thermal Event Log burn (15 R416): the entry, its slot, pulses given; `latched` when it came from the Topaz
latch (R417). -/
structure TelBurn where
  entry : Half
  slot : Nat
  pulses : Nat
  latched : Bool
  deriving DecidableEq, Repr

/-- Beryl OTC (16). `fuses` lists the words that are not 0; `weak` lists bits burned that do not yet read 1 at the
high margin, `soft` bits that read 1 at the low margin though not burned, by word (16 R434). -/
structure Otc where
  fuses : List (Nat × Half)
  weak : List (Nat × Half)
  soft : List (Nat × Half)
  loaded : Bool
  result : Nat
  wordsDone : Nat
  vppMv : Nat
  vppMeasured : Bool
  run : Option OtpRun
  burn : Option TelBurn
  /-- the pulse in progress: its word and bits -/
  pulse : Option (Nat × Half)
  rdata : Half
  ready : Bool
  /-- OTP_STATUS bits and the effective policy as delivered at fuse load (R423, R437) -/
  policyOk : Bool
  idkeyOk : Bool
  plockOdd : Bool
  grade : Nat
  debugOpen : Bool
  replayOk : Bool
  keyImport : Bool
  magPorts : Nat
  locks : Nat
  deviceId : List Byte
  deriving DecidableEq, Repr

/-- One Event Recorder entry (12 R341): TYPE, SRC, payload of 16 bytes and its continuations of 32 bytes. -/
structure TraceEntry where
  stamp : Nat
  type : Nat
  src : Nat
  payload : List Byte
  cont : List (List Byte)
  deriving DecidableEq, Repr

/-- EVR_STATUS.STATE (12 R351); the codes are 0 to 5 in this order. -/
inductive EvrState where
  | off | recording | replaying | replayDone | diverged | denied
  deriving DecidableEq, Repr

/-- Beryl EVR (12 R339 to R351). -/
structure Evr where
  mode : Nat
  state : EvrState
  /-- entries logged, or the next SEQ awaited in Replay; tap entries, or the next TAP_SEQ awaited -/
  seq : Nat
  feedSeq : Nat
  diverge : Nat
  lostEntries : Nat
  lostTap : Nat
  /-- entries dropped since the trace started (R340), and by sender since its last TRACE_GAP entry (R339) -/
  lostTrace : Nat
  gaps : Vector Nat 9
  /-- block being filled: its entries, continuations included; BLOCK_SEQ; SEQ of its first entry and the
  tick it was received -/
  block : List (List Byte)
  blockSeq : Nat
  firstSeq : Nat
  openedAt : Nat
  /-- buffer fields taken when MODE left OFF (R351) -/
  traceBase : Nat
  traceBlocks : Nat
  tapBase : Nat
  tapBytes : Nat
  /-- Replay: entries read and not yet used -/
  feed : List TraceEntry
  deriving DecidableEq, Repr

/-- Beryl. -/
structure Beryl where
  thm : Thermal
  otc : Otc
  evr : Evr
  telFull : Bool
  /-- the patch area (17 R451) and whether its image runs -/
  patch : List Byte
  patched : Bool
  /-- the ROM's own CRC check failed: STAGE stays at ROM (17 R448) -/
  romBad : Bool
  deriving DecidableEq, Repr

/-- What EVR reads from the host in Replay (12 R347): the slot of the trace block awaited, the tap entry awaited, or
nothing new. -/
inductive ReplayRead where
  | block (slot : List Byte)
  | tap (header data : List Byte)
  | nothing
  deriving DecidableEq, Repr

end Sys2Proof.Machine
end

