-- ==== Sys2Proof/Machine/JadeState.lean ====
section
/-! DEFINITION. The state of Jade: reference pictures, processing settings, Frames in Jade with their Stripes, Segments
and statistics in progress (06, 07). Also the Destinations of a Frame as Opal binds them (07 R178, R179). -/

namespace Sys2Proof.Machine

/-- What DRAM ECC found in a read (12 R331): nothing, an error it corrected, or one it could not. -/
inductive Ecc where
  | ok | ce | ue
  deriving DecidableEq, Repr

/-- The three kinds of reference picture (06 R159). -/
inductive RefKind where
  | defect | shading | dark
  deriving DecidableEq, Repr

/-- A reference picture version that occupies slot `slot` of the reference region (06 R161), with the length of its
payload: `live` while it is the newest version of a loaded ID; an earlier version, or one of a removed ID, is held until no
Frame uses it (01 R25). -/
structure RefPic where
  kind : RefKind
  id : Nat
  version : Nat
  slot : Nat
  len : Nat
  live : Bool
  poisoned : Bool
  deriving DecidableEq, Repr

/-- A load that passed its checks and waits for a free slot (06 R161). -/
structure RefWait where
  kind : RefKind
  id : Nat
  payload : List Byte
  desc : Nat
  deriving DecidableEq, Repr

/-- A set of processing settings of a Context (06, table Processing settings). -/
structure ProcSet where
  ctx : Nat
  fromGen : Nat
  planeSel : Nat
  bin : Nat
  encoding : Nat
  winX0 : Nat
  winY0 : Nat
  winW : Nat
  winH : Nat
  outPed : Nat
  /-- it has applied to a Frame (08 R217) -/
  applied : Bool
  /-- first frame number whose latch point follows its completion -/
  since : Nat
  deriving DecidableEq, Repr

/-- A settings set that waits for room in Jade (08 R217). -/
structure ProcWait where
  set : ProcSet
  desc : Nat
  deriving DecidableEq, Repr

/-- One Destination of a Frame (07 R178, R179): its index, Context, whether it is the magazine set, the settings, the
first row and rows used (06 R168), SEG_LEN (07 R181), and whether the Context is KEYED. -/
structure Dest where
  index : Nat
  ctx : Nat
  magazine : Bool
  set : ProcSet
  row0 : Nat
  rows : Nat
  segLen : Nat
  keyed : Bool
  deriving DecidableEq, Repr

/-- Correction settings copied at the header token (06 R172, 07 R195). -/
structure CorrCfg where
  dynEn : Bool
  dynRel : Nat
  dynAbs : Nat
  hotThr : Nat
  obClip : Nat
  flkPeriod : Nat
  deriving DecidableEq, Repr

/-- A drained Stripe taken in (06 R141, R142): its Slot values row by row, its overflow bitmap and tallies; `data` is
none when it is missing. -/
structure JStripe where
  plane : Nat
  stripe : Nat
  marks : BitVec 16
  data : Option (Array Nat × Array Bool × Array Nat)
  deriving DecidableEq, Repr

/-- A Segment being written (07 R181 to R184): Stripes that contributed, the marks, the payload CRC so far (its running
value) and whether the header has been written. -/
structure JSeg where
  index : Nat
  stripeMap : Nat
  marks : BitVec 16
  crc : Word
  done : Bool
  deriving DecidableEq, Repr

/-- Statistics of one Plane in progress (07 R188 to R192). -/
structure PlaneStats where
  hist : Array Nat
  zoneSum : Array Int
  zoneCount : Array Nat
  sat : Array Nat
  ovf : Array Nat
  black : Array Int
  deriving DecidableEq, Repr

/-- A profile record as Jade holds it (07 R187). -/
structure Profile where
  cad1Stamp : Nat
  l : Nat
  g : Nat
  nEff : Nat
  reads : Nat
  p : Array Nat
  deriving DecidableEq, Repr

/-- A Frame in Jade. -/
structure JFrame where
  snap : Snapshot
  cfg : CorrCfg
  /-- the Destination set, once it has come -/
  dests : Option (List Dest)
  segs : List JSeg
  stripes : List JStripe
  /-- Stripes processed, as (plane, stripe) -/
  processed : List (Nat × Nat)
  stats : List PlaneStats
  marks : BitVec 16
  dynCount : Nat
  /-- the profile record, or its failure -/
  profile : Option (Option Profile)
  /-- the statistics record has been formed -/
  statsDone : Bool
  deriving DecidableEq, Repr

/-- A message of the Garnet → Jade channel. -/
inductive GarnetJade where
  | header (snap : Snapshot)
  | stripe (tok : StripeToken)
  deriving DecidableEq, Repr

/-- Jade. What a recovery clears (12 R322) is `frames`, `resv` and `destSets`; the rest is retained. -/
structure Jade where
  refs : List RefPic
  refWait : List RefWait
  /-- removals that wait for a latch point, and the version counter (model) -/
  unloads : List (RefKind × Nat)
  refVer : Nat
  settings : List ProcSet
  setWait : List ProcWait
  frames : List JFrame
  crcRetried : Nat
  crcBad : Nat
  dynCount : Nat
  /-- Jade's clock is divided; a division asked for (15 R410) -/
  divided : Bool
  divReq : Option Nat
  /-- Segment addresses received ahead of the Frame: (frame, Destination index, address, none where not produced) -/
  resv : List (Nat × Nat × Option Nat)
  destSets : List (Nat × List Dest)
  /-- the correction settings that each Frame in Jade copied when its header token came (06 R172) -/
  cfgs : List (Nat × CorrCfg)
  /-- Frames whose Segment Stripe tags have been announced to Spinel (01 R28) -/
  announced : List Nat
  /-- Replay injection buffer: (frame, address, length) of each drained Stripe and profile record that Jade has taken from
  the tap (01 R508) -/
  inject : List (Nat × Nat × Nat)
  /-- capture tap: entries produced and the buffer offset of the next (12 R344) -/
  tapSeq : Nat
  tapOff : Nat
  /-- Frames failed by Jade, whose later items are failed too (12 R327) -/
  failed : List Nat
  deriving DecidableEq, Repr

end Sys2Proof.Machine
end

