-- ==== Sys2Proof/Machine/OpalState.lean ====
section
/-! DEFINITION. The state of Opal: rings, Contexts and descriptors in flight, events, MSI-X (08, 18), and the Ledger
window (09). -/

namespace Sys2Proof.Machine

/-- States of a ring (18 R472, 08 R200). -/
inductive RingState where
  | idle | running | stopped
  deriving DecidableEq, Repr

/-- Where a descriptor in flight stands: read but not dispatched, dispatched to its owner, or finished with its
completion's STATUS, FRAME, VALUE and DETAIL (08 R209, R210). -/
inductive DescStatus where
  | fetched
  | dispatched
  | finished (status : Nat) (frame : Nat) (value : Nat) (detail : Nat)
  deriving DecidableEq, Repr

/-- A descriptor in flight: its number, which is the linear index of its entry plus 2^18 for each START of its ring
before it (08 R206, 18 R473), and its 64 bytes (R211). -/
structure Desc where
  index : Nat
  bytes : List Byte
  status : DescStatus
  /-- the generation that Opal holds for its owner's Unit as it dispatches it (12 R315) -/
  sent : Nat := 1
  deriving DecidableEq, Repr

/-- A submission ring with its completion ring (08 R196 to R199). Indices are linear, modulo twice the entries. -/
structure Ring where
  state : RingState
  /-- STARTs of this ring so far -/
  starts : Nat
  sqBase : Nat
  cqBase : Nat
  sqEntries : Nat
  cqEntries : Nat
  /-- PI last read, next entry to fetch, done index -/
  pi : Nat
  next : Nat
  done : Nat
  /-- next completion entry to write, and the head last read -/
  cqTail : Nat
  cqHead : Nat
  /-- the head last read is faulty (08 R227) -/
  headFault : Bool
  /-- a fetched entry waits to be read again: one failed read (08 R208) -/
  retried : Bool
  /-- descriptors in flight, oldest first -/
  flight : List Desc
  /-- the record of the ring's fault that waits its turn: STATUS, DESC_INDEX word and DATA[2] (08 R200, R208) -/
  faultRec : Option (Nat × Nat × Nat)
  /-- stopped by a Fundamental Reset: no record is written any more (12 R332, 18 R473) -/
  dead : Bool
  deriving DecidableEq, Repr

/-- States of a Context (08, table Context states); the codes of CTX_STATUS.STATE are 0, 1, 2 and 3. -/
inductive CtxState where
  | closed | opened | stopped | closing
  deriving DecidableEq, Repr

/-- One Context (08 R215, R216). -/
structure Ctx where
  state : CtxState
  hostRing : Bool
  magazine : Bool
  keyed : Bool
  vector : Nat
  bufWait : Nat
  inflight : Nat
  ring : Ring
  /-- highest FROM_GEN given to it (08 R217) -/
  highGen : Nat
  /-- the CONTEXT_CLOSE in progress: its descriptor, and the first frame number not bound before it -/
  closeDesc : Option Nat
  closeFrame : Nat
  /-- the close has cancelled what was left (R216) -/
  cancelled : Bool
  /-- first frame number whose latch point follows the open (R215) -/
  openFrame : Nat
  /-- the close in progress is an ABORT (R216) -/
  aborting : Bool
  deriving DecidableEq, Repr

/-- An event (08 R229): CODE, STAMP, FRAME and the six DATA bytes, and its SEQ. -/
structure Event where
  code : Nat
  seq : Nat
  stamp : Nat
  frame : Nat
  data : List Byte
  deriving DecidableEq, Repr

/-- One MSI-X vector: a message asked for, a pending bit, a holdoff that runs (08 R232, 18 R475). -/
structure Vec where
  wanted : Bool
  pending : Bool
  holdoff : Bool
  deriving DecidableEq, Repr

/-- Destination outcomes (09 R237). -/
inductive DestOutcome where
  | pending | done | partial_ | hostTimeout | oversize | stagingFull | closed | noBuffer | truncated | mediaLost
  | notRecorded | discarded | expired | failed
  deriving DecidableEq, Repr

/-- A Destination of a Frame in the Ledger window (09 R243): who it is, its outcome, the Segment header's MARKS and
STRIPE_MAP and the Stripes delivered (R249), the buffer assigned (linear index and address of the BUFFER_POST),
whether the Segment is ready for one (08 R222), and a bit for each port that holds or receives it (R252). -/
structure LedgerDest where
  dest : Dest
  outcome : DestOutcome
  marks : BitVec 16
  stripeMap : Nat
  doneMap : Nat
  ready : Bool
  buffer : Option Nat
  durability : Nat
  rehomed : Bool
  anteHeld : Bool
  ports : Nat
  deriving DecidableEq, Repr

/-- How far the record of a Frame has come (09 R251). -/
inductive RecordState where
  /-- not yet formed -/
  | forming
  /-- written to the entry with this index word -/
  | published (index : Nat)
  deriving DecidableEq, Repr

/-- A Frame in the Ledger window (09 R243) with every figure its record takes (R234 to R236). -/
structure LedgerFrame where
  frame : Nat
  snap : Snapshot
  dests : List LedgerDest
  destLimit : Bool
  ante : Bool
  takeFirst : Bool
  takeLast : Bool
  failStop : Bool
  marks : BitVec 16
  /-- REF_MISSING: bit 0 defect map, 1 shading map, 2 dark reference plane (06 R163) -/
  refMissing : Nat
  /-- DRAINED of each Plane (R249) -/
  drained : List Nat
  refEvent : Bool
  /-- Garnet's figures of the Hand are final (03 R72) -/
  measured : Bool
  /-- the CAD1 event that ends the Hand has passed, as the count of CAD1 events Opal had seen then (08 R222) -/
  handEnd : Option Nat
  record : RecordState
  deriving DecidableEq, Repr

/-- The Ledger ring (09 R241, 18 R472). -/
structure LedgerRing where
  state : RingState
  base : Nat
  entries : Nat
  tail : Nat
  head : Nat
  headFault : Bool
  deriving DecidableEq, Repr

/-- A Take's end as Opal reports it (09 R247): TAKE_ID, reason and the last Frame, if any. -/
structure TakeEnd where
  takeId : Nat
  reason : EndReason
  last : Option Nat
  /-- records of Frames below this number come first -/
  before : Nat
  /-- the clip has closed (10 R281) -/
  clipClosed : Bool
  deriving DecidableEq, Repr

/-- What MSIX_MASK_WRITE writes (18 R475). -/
inductive MsixWrite where
  | mask (v : Nat) (on : Bool)
  | function (on : Bool)
  | enable (on : Bool)
  deriving DecidableEq, Repr

/-- What Opal does at a flush or a shutdown (14 R394, 15 R412). -/
inductive OpalFlush where
  | none_ | running | reading | reported
  deriving DecidableEq, Repr

/-- Opal. -/
structure Opal where
  ctrl : Ring
  /-- Control descriptors from before the last START, that keep their effect and lose their record (18 R473) -/
  ghosts : List Desc
  ctrlResult : Nat
  dropped : Nat
  ctxs : Vector Ctx 256
  /-- bytes 0 to 43 of the Doorbell Page as last logged (12 R342) -/
  lastDoorbell : List Byte
  /-- Context served last (08 R207), and the run of failed polls (08 R205) -/
  rr : Nat
  failRun : Nat
  /-- completion records written, for the digests of the Completion Merge (12 R342) -/
  complCount : Nat
  /-- CRC-32C, not yet closed, over the completion records since the last MERGE_DIGEST (12 R342) -/
  complCrc : Word
  evSeq : Nat
  events : List Event
  evLost : Nat
  vecs : Vector Vec 64
  msixEnable : Bool
  funcMask : Bool
  ldg : LedgerRing
  ldgResult : Nat
  window : List LedgerFrame
  nextPub : Nat
  ldgLost : Nat
  /-- records since the last message under LEDGER_EVERY (09 R242) -/
  sinceMsg : Nat
  /-- a START held while a cadence is staged (04 R92): its descriptor -/
  held : Option Nat
  /-- a Take is open, or its START has been accepted (04 R88) -/
  takeOpen : Bool
  takeEnds : List TakeEnd
  /-- CAD1 events seen (08 R222), and the time records received, latest first (05 R136) -/
  cad1 : Nat
  times : List TimeRecord
  /-- Frames that Opal has failed whole (12 R327) -/
  failed : List Nat
  link : Bool
  /-- the rate (6: PCIe 6.0) and lanes that the link trained to; 0 while it is down (17 R449) -/
  linkGen : Nat
  linkWidth : Nat
  perst : Bool
  flush : OpalFlush
  deriving DecidableEq, Repr

end Sys2Proof.Machine
end

