-- ==== Sys2Proof/Machine/OnyxState.lean ====
section
/-! DEFINITION. The state of Spinel (11) and of Onyx (10): key slots, staging and moves; magazine ports, the Carith
Frame Store of each, the magazine set, retention and the Ante. -/

namespace Sys2Proof.Machine

/-! ### Spinel -/

/-- States of a key slot (11 R291). -/
inductive SlotState where
  | empty | loaded | rolling | retiring
  deriving DecidableEq, Repr

/-- One key slot: its state, the current key and the previous one, each two halves of 256 bits as 64 bytes (11 R291,
R294); `until_` is the frame number above those of the latch notices that Spinel had still to serve when the slot retired (R301). -/
structure KeySlot where
  state : SlotState
  current : List Byte
  previous : List Byte
  until_ : Nat
  deriving DecidableEq, Repr

/-- A KEY_LOAD for an open KEYED Context, accepted and waiting for the first Frame that it encrypts: one numbered `since` or above
(11 R297). -/
structure KeyOpen where
  ctx : Nat
  desc : Nat
  key : List Byte
  since : Nat
  deriving DecidableEq, Repr

/-- A KEY_LOAD that waits while its slot is ROLLING (11 R296). -/
structure KeyWait where
  ctx : Nat
  key : List Byte
  desc : Nat
  deriving DecidableEq, Repr

/-- A host-ring Segment in Spinel (08 R222 to R224): its staging address, the Stripes that have come, whether its
header has come, the buffer it moves to and how many of its Segment Stripes have been moved. -/
structure SpinelSeg where
  frame : Nat
  dest : Dest
  addr : Nat
  stripes : List (Nat × BitVec 16)
  whole : Bool
  buffer : Option Nat
  moved : List Nat
  /-- an uncorrectable DRAM error struck it (12 R331) -/
  ue : Bool
  /-- its Destination has an outcome without it: nothing of it moves any more (09 R237) -/
  dropped : Bool
  deriving DecidableEq, Repr

/-- A key bound to a Frame's Context at the latch point (11 R298). -/
structure KeyBind where
  frame : Nat
  ctx : Nat
  key : List Byte
  /-- a later KEY_LOAD made this the previous key -/
  old : Bool
  deriving DecidableEq, Repr

/-- A request of Onyx to encrypt part of a share (11 R304): port, Segment and member, Context, source in retention,
length, first LBA of the destination, and the chunk of the port's cipher area that takes the ciphertext. -/
structure EncRequest where
  port : Nat
  frame : Nat
  index : Nat
  member : Nat
  ctx : Nat
  addr : Nat
  len : Nat
  lba : Nat
  dst : Nat
  /-- the generation that Onyx holds for Spinel as it sends the request (12 R315) -/
  sent : Nat := 1
  deriving DecidableEq, Repr

/-- Segment Stripe token (07 R185): the Segment's Frame, and the Plane, Stripe (255 for STATS) and Destination index of its
sequence tag (01 R27); length in bytes and marks; whether the Destination is a magazine's. `header` marks the token that
follows the header, the last of a Segment. A token of Length 0 with the FAILSTOP mark stands for an item failed (12 R326). -/
structure SegToken where
  frame : Nat
  plane : Nat
  index : Nat
  stripe : Nat
  len : Nat
  marks : BitVec 16
  header : Bool
  magazine : Bool
  /-- the generation that its sender holds for the sink, Spinel or Onyx, as it sends the token (12 R315) -/
  sent : Nat := 1
  deriving DecidableEq, Repr

/-- Spinel. -/
structure Spinel where
  slots : Vector KeySlot 256
  kek : Option (List Byte)
  import_ : Bool
  /-- SPN_KEY_STATUS.REFUSED (11 R310) -/
  refused : Bool
  keyWait : List KeyWait
  /-- loads into slots of OPEN Contexts whose completion waits for the first Frame under the key (11 R297) -/
  keyOpen : List KeyOpen
  /-- host staging reservations (frame, Destination index, address, length) (08 R221) -/
  staging : List (Nat × Nat × Nat × Nat)
  binds : List KeyBind
  segs : List SpinelSeg
  /-- Frames failed by Spinel (12 R327) -/
  failed : List Nat
  deriving DecidableEq, Repr

/-! ### Onyx -/

/-- MAG_STATUSm.STATE (10 R289); the codes are 0 to 8 in this order. -/
inductive PortState where
  | empty | training | mounting | initialising | ready | member | standby | refused | lost
  deriving DecidableEq, Repr

/-- What a Write carries: bytes of DRAM, bytes given, or zeros; each filled with zeros to its last LBA. -/
inductive WriteData where
  | dram (addr len : Nat)
  | bytes (data : List Byte)
  | zeros (len : Nat)
  deriving DecidableEq, Repr

/-- NVMe commands (10, table NVMe commands used). -/
inductive NvmeOp where
  | identifyController
  | identifyNamespace
  /-- Number of Queues: I/O queue pairs asked for -/
  | setQueues (pairs : Nat)
  | setWriteCache
  | setEvents
  /-- Create I/O Completion Queue and Submission Queue, with their entries -/
  | createCq (entries : Nat)
  | createSq (entries : Nat)
  | getErrorLog
  | getSmart
  | asyncEvent
  | write (lba : Nat) (data : WriteData) (fua : Bool)
  | flush
  | read (lba blocks : Nat)
  | deallocate
  deriving DecidableEq, Repr

/-- Why a command was issued. -/
inductive NvmeUse where
  /-- a step of the port's serial work (mount, initialisation, clips, commits, checkpoints) -/
  | serial
  /-- a data Write of a member's share of a Segment (frame, Destination index) -/
  | share (frame index member : Nat)
  /-- a log read by itself: health, or error information -/
  | health
  | errorLog
  /-- a log read for a MAG_QUERY with this descriptor -/
  | query (desc : Nat)
  | event
  deriving DecidableEq, Repr

/-- A command outstanding at a magazine (10 R260, R261). -/
structure NvmeCmd where
  cid : Nat
  op : NvmeOp
  use : NvmeUse
  /-- it has been issued once more after an error -/
  retried : Bool
  deriving DecidableEq, Repr

/-- A clip record (10 R268), less the fields that are constant. -/
structure ClipRec where
  clipNo : Nat
  mode : Nat
  member : Nat
  rolledIn : Bool
  rolledOut : Bool
  rehomeTarget : Bool
  powerLoss : Bool
  keyed : Bool
  takeFirst : Nat
  leadClip : Nat
  takeId : Nat
  part : Nat
  firstFrame : Nat
  lastFrame : Nat
  firstEntry : Nat
  entryCount : Nat
  startStamp : Nat
  startTc : Nat
  epoch : Nat
  endReason : Nat
  cadence : Cadence
  prevMedia : List Byte
  nextMedia : List Byte
  deriving DecidableEq, Repr

/-- A clip of a Take on a port: its record, the Take it belongs to, whether its record and CLIP_OPEN are written, and
whether it is to close. -/
structure PortClip where
  rec_ : ClipRec
  takeNo : Nat
  opened : Bool
  closing : Bool
  deriving DecidableEq, Repr

/-- Where a mount stands (10 R259, R263): what the outstanding read is for. -/
inductive MountStep where
  | reset | controller | namespaceId | health | features | superA | superB | blankCheck | indexTail | clipTable | journal
  | indexScan | writing
  deriving DecidableEq, Repr

/-- A piece of serial work of a port, done in order, one command at a time (10 R263, R264, R278, R280). -/
inductive PortStep where
  | cmd (op : NvmeOp)
  /-- the reads that follow are for this stage of the mount -/
  | stage (m : MountStep)
  /-- the Asynchronous Event Request is issued (10 R260) -/
  | listen
  /-- the port is READY, with DATA[2] of the event (10 R265) -/
  | ready (how : Nat)
  | opened
  | closed
  /-- the COMMIT blocks of these shares (frame, Destination index) are formed and written: those still to be committed -/
  | commit (shares : List (Nat × Nat))
  /-- the last Write of a commit of these shares has completed -/
  | committed (shares : List (Nat × Nat))
  /-- CC.SHN is set to normal shutdown (10 R286) -/
  | shn
  deriving DecidableEq, Repr

/-- A member's share of a Segment (10 R271, R278): its port, member number, clip and length; its first extent once
issued; commands issued and completed; the commit. -/
structure Part where
  port : Nat
  member : Nat
  clip : Nat
  len : Nat
  rehomed : Bool
  extent : Option Nat
  issued : Nat
  completed : Nat
  committing : Bool
  committed : Bool
  deriving DecidableEq, Repr

/-- The Carith Frame Store of a mounted magazine (10 R266 to R270), and what its controller allows. -/
structure Media where
  uid : List Byte
  initDevice : List Byte
  nsLbas : Nat
  sbSeq : Nat
  ckptSeq : Nat
  ckptBlock : Nat
  /-- JSEQ and block of the last journal block -/
  jSeq : Nat
  jBlock : Nat
  allocNext : Nat
  indexNext : Nat
  clipNext : Nat
  /-- the index entries of the last, unfilled index LBA -/
  tail : List (List Byte)
  /-- CFS: 1 valid, 2 recovered, 3 initialised (10 R290) -/
  cfs : Nat
  deriving DecidableEq, Repr

/-- One magazine port. -/
structure Port where
  state : PortState
  detail : Nat
  linkGen : Nat
  linkWidth : Nat
  losses : Nat
  /-- the supply has been on for 20 ms; REFCLK is driven and PERST# released (19 R497) -/
  settled : Bool
  /-- REINIT has been written for the next mount; INIT and REINIT as the mount in progress took them (10 R264, R289) -/
  reinit : Bool
  mountInit : Nat
  mountReinit : Bool
  mount : MountStep
  /-- entries of the admin and the I/O queue pair (10 R260) -/
  adminEntries : Nat
  ioEntries : Nat
  /-- of the controller: MQES, MDTS as a power of two of 4 KiB, a volatile write cache -/
  mqes : Nat
  mdts : Nat
  cache : Bool
  nsLbas : Nat
  /-- what the mount has read: superblock A; journal blocks of a group not yet whole; the last
  index entry -/
  scratch : List (List Byte)
  group : List (List Byte)
  lastEntry : List Byte
  /-- the clip records of the clip table that are not all zeros, by record number -/
  clipTable : List (Nat × List Byte)
  /-- of the superblock taken: INDEX_NEXT; clips whose index entries the mount has found KEYED -/
  sbIndex : Nat
  keyedClips : List Nat
  media : Option Media
  controllerPage : List Byte
  namespacePage : List Byte
  critical : Nat
  percent : Nat
  kelvin : Nat
  timeouts : Nat
  errors : Nat
  cmds : List NvmeCmd
  /-- log pages to be read once the admin queue has room (10 R260) -/
  logWait : List (NvmeOp × NvmeUse)
  nextCid : Nat
  steps : List PortStep
  clips : List PortClip
  /-- the member whose shares must be settled first (10 R274) -/
  waitFor : Option Nat
  lastDurable : Option Nat
  /-- the 1 s window, its number since TB 0, the bytes written in it and in the one before (10 R290) -/
  window : Nat
  winBytes : Nat
  lastBytes : Nat
  slow : Bool
  /-- TB stamp of the last error, time-out or warning (10 R262) -/
  troubleAt : Option Nat
  /-- normal shutdown has been asked for; it is complete (10 R286) -/
  shn : Bool
  shutDone : Bool
  /-- Frames re-homed to this port and durable, not yet posted (10 R265) -/
  rehomed : Nat
  deriving DecidableEq, Repr

/-- MODE of a magazine set (10, table Set modes). -/
inductive SetMode where
  | single | stripe2 | stripe4 | mirror2
  deriving DecidableEq, Repr

/-- A magazine set (10 R272): its members' ports in member order, the standby and its ROLE (`target`: roll-over
target). -/
structure MagSet where
  mode : SetMode
  members : List Nat
  standby : Option Nat
  target : Bool
  deriving DecidableEq, Repr

/-- A MAG_SET that has been staged (10 R272); `skip` latch notices sent before it arrived go first. -/
structure StagedSet where
  set : MagSet
  desc : Nat
  skip : Nat
  deriving DecidableEq, Repr

/-- Destination outcomes that Onyx gives are those of 09 R237; a Segment in retention (10 R275 to R284). -/
structure OnyxSeg where
  frame : Nat
  dest : Dest
  addr : Nat
  mode : SetMode
  parts : List Part
  /-- the whole Segment, header included, is in retention; the header -/
  whole : Bool
  header : List Byte
  /-- the Take it belongs to, as Onyx counts Takes; none while held in the Ante -/
  takeNo : Option Nat
  ante : Bool
  /-- its DRAM copy has been released (10 R276) -/
  released : Bool
  rehomed : Bool
  /-- the standby bound to its Frame (01 R21), and the Stripes that R168 uses -/
  standby : Option Nat
  expected : Nat
  /-- FAILSTOP or DRAM_UE, with which it failed -/
  marks : BitVec 16
  outcome : DestOutcome
  deriving DecidableEq, Repr

/-- A roll-over that is not complete (10 R282): the old port and its clip, the target and its clip. -/
structure RollOver where
  old : Nat
  oldClip : Nat
  target : Nat
  newClip : Nat
  deriving DecidableEq, Repr

/-- A Take as Onyx sees it (10 R280, R281). -/
structure OnyxTake where
  no : Nat
  takeId : Nat
  first : Nat
  /-- SEG_LEN of each magazine Destination of the last Frame bound (10 R273) -/
  lens : List Nat
  ended : Option EndReason
  stopMade : Bool
  /-- ports for which FULL has been posted -/
  fullPosted : List Nat
  /-- the Take's last Frame, once the notice of its end has told it -/
  last : Option Nat
  leadClip : Option Nat
  part : Nat
  deriving DecidableEq, Repr

/-- A flush on power loss, shutdown or FATAL (10 R286, 15 R412, 12 R329). -/
structure OnyxFlush where
  reason : EndReason
  /-- tick of the event, and the deadline that came with it or is in force, ms (14 R380, R394; 15 R412) -/
  since : Nat
  ms : Nat
  /-- the deadline for share Writes has passed (14 R394) -/
  cut : Bool
  /-- a retained share was not committed -/
  lost : Bool
  reported : Bool
  deriving DecidableEq, Repr

/-- Onyx. -/
structure Onyx where
  ports : Vector Port 4
  set : Option MagSet
  staged : List StagedSet
  segs : List OnyxSeg
  takes : List OnyxTake
  takeCount : Nat
  rolls : List RollOver
  flush : Option OnyxFlush
  /-- chunks in use of each port's cipher area, as (address, length) (11 R304) -/
  cipher : Vector (List (Nat × Nat)) 4
  /-- Frames failed by Onyx (12 R327) -/
  failed : List Nat
  deriving DecidableEq, Repr

end Sys2Proof.Machine
end

