-- ==== Sys2Proof/Machine/TopazState.lean ====
section
/-! DEFINITION. The state of Topaz: power path and pack (14), power sequencing and boot (17), key (14 R399), watchdog,
commits and the fault registers of every Island (12, 18). -/

namespace Sys2Proof.Machine

/-- The Islands (12 R311), numbered 0 to 8 in this order. -/
inductive Island where
  | quartz | garnet | jade | spinel | opal | onyx | agate | beryl | topaz
  deriving DecidableEq, Repr

/-- Fault classes (12 R312), codes 1 to 8 in this order. -/
inductive FaultClass where
  | parity | stall | eventGap | dramUe | configLost | hostLink | dead | fatal
  deriving DecidableEq, Repr

/-- FLT_UNIT.STATE (12 R350), codes 0 to 3 in this order. -/
inductive UnitState where
  | ready | empty | asleep | frozen
  deriving DecidableEq, Repr

/-- What the fault logic holds of one Island (12 R320 to R328): frozen with the class and the detection stamp,
fail-stopped, DEAD, the stamps of its faults, its Units' generations and states, and the first Frame it failed. -/
structure IslandState where
  frozen : Option (FaultClass × Nat)
  failStop : Bool
  dead : Bool
  faultTimes : List Nat
  /-- generation of each Unit, and the one that the senders of work to it hold (12 R315, R316) -/
  gens : List Nat
  held : List Nat
  units : List UnitState
  firstFailed : Option Nat
  deriving DecidableEq, Repr

/-- FAULT_N (12 R325, R328, R329, R336; 16 R430; 17 R442, R447): released, held low, or blinking a code. -/
inductive FaultPin where
  | high | low | code (n : Nat)
  deriving DecidableEq, Repr

/-- Kinds of pack (14 R382); codes of HUP_STATUS.KIND are 0 to 3 in this order. -/
inductive PackKind where
  | absent | liIon | lic | unknown
  deriving DecidableEq, Repr

/-- Charge zones (14 R387), codes 0 to 4 in this order. -/
inductive ChargeZone where
  | cold | cool | normal | warm | hot
  deriving DecidableEq, Repr

/-- What the charger does when it may charge (14 R386). -/
inductive ChargePhase where
  | off | precharge | constantCurrent | constantVoltage | done
  deriving DecidableEq, Repr

/-- What a status lamp shows (14 R398), before inversion: dark, lit, a blink of 50 % duty of a period in ms that begins lit or
dark, or flashes of 100 ms in each period. -/
inductive LampShow where
  | off | on
  | blink (ms : Nat) (lit : Bool)
  | flash (count ms : Nat)
  deriving DecidableEq, Repr

/-- The pack (14 R382 to R391). -/
structure Pack where
  kind : PackKind
  mv : Nat
  ma : Int
  /-- temperature, 0.1 °C -/
  temp : Int
  openReads : Nat
  faultShort : Bool
  faultId : Bool
  faultNtc : Bool
  faultTimer : Bool
  /-- readings of PACK_NTC in range in a row (R385) -/
  ntcGood : Nat
  zoned : Bool
  czone : ChargeZone
  allowed : Bool
  phase : ChargePhase
  /-- safety timer, half milliseconds (R389) -/
  timer : Nat
  ready : Bool
  deriving DecidableEq, Repr

/-- PSQ (17 R440, R441): `raising k` waits for RAIL_PG[k] after its enable; `risen k` waits 1 ms after it; `lowering k`
is about to lower RAIL_EN[k]. -/
inductive Psq where
  | off
  | raising (rail : Nat)
  | risen (rail : Nat)
  | up
  | lowering (rail : Nat)
  deriving DecidableEq, Repr

/-- Why PSQ powers down, and so what follows once the rails are down. -/
inductive DropReason where
  /-- a flush, with its outcome: true for FLUSH_DONE -/
  | flush (done : Bool)
  | shutdown
  /-- a shutdown that the fall of the PWR_GOOD pin cut short (17 R445) -/
  | shutdownCut
  | keyRestart
  | ship
  | railFail
  deriving DecidableEq, Repr

/-- The hold-up registers in force since the last control step (14 R403). -/
structure HupRegs where
  cfg : Word
  volt : Word
  ctemp : Word
  dtemp : Word
  main : Word
  key : Word
  lamp : Word
  deriving DecidableEq, Repr

/-- A KEY_N action (14 R400). -/
inductive KeyAction where
  | restart | ship
  deriving DecidableEq, Repr

/-- Topaz PWR and KEY (14). -/
structure Power where
  /-- VDD_AO is up and Topaz runs -/
  on : Bool
  mainOk : Bool
  /-- the main input has been below MAIN_UV since a shutdown, ship mode or a second rail failure -/
  mainSeenLow : Bool
  gdMain : Bool
  /-- the pack switch is closed -/
  packSwitch : Bool
  pack : Pack
  magpwr : Vector Bool 4
  /-- VBUS as last sensed, mV, and the level of GD_PACK (R379) -/
  vbus : Nat
  gdPack : Bool
  /-- the charger's set current, mA, and the voltage it stops at, mV (R386, R387); 0 while it is stopped -/
  setMa : Nat
  setMv : Nat
  hup : HupRegs
  /-- hold-up state and pattern last reported, with the charge state (R402) -/
  holdState : Nat
  chargeState : Nat
  pattern : Nat
  /-- HOLD_STAT0 and HOLD_STAT1, each with its inversion (R398) -/
  lamps : Vector (LampShow × Bool) 2
  /-- a flush runs (R394); Onyx has reported, and whether every share was committed -/
  flush : Bool
  onyxReport : Option Bool
  show_ : Option Bool
  /-- the 1.0 s wait before a power-up runs (R396, R400, R442), and the cause it will record -/
  upWait : Option Nat
  keyDown : Bool
  keyShown : Option KeyAction
  keyDeferred : Option KeyAction
  ship : Bool
  deriving DecidableEq, Repr

/-- A thermal shutdown in progress (15 R411, R412): the group, its peak in 0.1 °C, whether a Take was open, and the
entry once formed. -/
structure ShutRun where
  group : Nat
  peak : Int
  inTake : Bool
  entry : Option Half
  deriving DecidableEq, Repr

/-- Topaz PSQ, WDG and the DEV, BOOT and FLT registers (12, 17, 18). -/
structure Topaz where
  pwr : Power
  psq : Psq
  enables : Vector Bool 6
  pg : Vector Bool 6
  /-- PWR_GOOD released by Topaz; the level of the pin -/
  pwrGood : Bool
  pwrPin : Bool
  drop : Option DropReason
  /-- rail failures in this period of main presence; a FAULT_N code of R430, R447; BOOT_CAUSE (R453) -/
  railFails : Nat
  faultCode : Nat
  faultPin : FaultPin
  cause : Nat
  lastFlush : Nat
  rail : Nat
  /-- reset release (R446): OTC's fuse load done, Islands released, Beryl released, DRAM ready -/
  released : Bool
  berylOut : Bool
  dramReady : Bool
  stage : Nat
  patchResult : Nat
  patchLoading : Bool
  telBurning : Bool
  telBurned : Nat
  /-- Thermal Event Log latch and the count of entries not kept (15 R417); the count is kept with the latch, log entry 58 -/
  latch : List Half
  latchLost : Nat
  shut : Option ShutRun
  /-- the shutdown event has been sent in this power-up; a FATAL fault has struck -/
  shutSent : Bool
  fatal : Bool
  commit : Vector Bool 9
  refused : Vector Bool 7
  rearm : Vector Bool 7
  isl : Vector IslandState 9
  recovered : Nat
  gaps : Nat
  ce : Nat
  ue : Nat
  absent : Bool
  /-- tick of the last watchdog report (12 R333) -/
  wdgLast : Nat
  restarts : Nat
  resetTimes : List Nat
  berylDead : Bool
  patchLost : Bool
  /-- CLK_SPREAD in force (18 R466) -/
  spread : Word
  deriving DecidableEq, Repr

end Sys2Proof.Machine
end

