-- ==== Sys2Proof/Machine/ChannelState.lean ====
section
/-! DEFINITION. What is on its way between Islands (01, table Handshake channels), and what the block has put out. Each
channel is a list, oldest message first. Descriptors that Opal has dispatched stand in Opal's own flight lists. -/

namespace Sys2Proof.Machine

/-- A latch notice (01 R21): the number bound, or that the next Frame will carry when the boundary starts no Frame; the
snapshot; the Take that starts and the Take that ends at this boundary. -/
structure LatchNotice where
  frame : Nat
  snap : Option Snapshot
  takeStart : Option Nat
  takeStop : Option (Nat × EndReason × Option Nat)
  deriving DecidableEq, Repr

/-- Power and shutdown events of Topaz (14 R394, 15 R412). -/
inductive TopazEvent where
  | loss (flushMs : Nat)
  | shutdown
  deriving DecidableEq, Repr

/-- The event is one of main-input loss. -/
def TopazEvent.isLoss : TopazEvent → Bool
  | .loss _ => true
  | .shutdown => false

/-- A host-bound Segment Stripe moved (08 R224): `stripe` is 255 for STATS; `header` marks the last token, which
follows the header and carries its STRIPE_MAP. One with an error, which its marks name, has nothing moved: `failed` (01,
table Handshake channels; 12 R326, R331). -/
structure HostMoved where
  frame : Nat
  index : Nat
  stripe : Nat
  len : Nat
  marks : BitVec 16
  header : Bool
  map : Nat
  failed : Bool
  deriving DecidableEq, Repr

/-- What Jade, Spinel and Onyx tell Opal of a Frame for its Ledger record (06 R144, R163; 08 R222; 09 R249, R252; 10 R277;
log entry 15). -/
inductive LedgerNote where
  /-- the marks of a Stripe -/
  | marks (m : BitVec 16)
  /-- Stripe `s` of Plane `p` was drained and is not missing -/
  | drained (p s : Nat)
  /-- kinds whose bound version is poisoned -/
  | refMissing (bits : Nat)
  /-- a Segment Stripe of Destination `i` is in staging or retention: its marks, the Stripes it shows, and DURABILITY -/
  | segment (i : Nat) (m : BitVec 16) (map durability : Nat)
  /-- port `p` has begun to write a share of Destination `i`, or has lost it -/
  | share (i p : Nat)
  | shareLost (i p : Nat)
  /-- Stripes of Destination `i` that every share of it holds durably -/
  | durable (i map : Nat)
  | rehomed (i : Nat)
  /-- Destination `i` is held in the Ante, or no longer -/
  | ante (i : Nat) (held : Bool)
  /-- a Frame held in the Ante joins Take `id`; the first one carries TAKE_FIRST -/
  | joined (id : Nat) (first : Bool)
  /-- the Take begins with a Frame of the Ante, so TAKE_FIRST is not on this one -/
  | notFirst
  /-- the Take ends with this Frame, which was held in the Ante -/
  | lastOfTake
  /-- staging or retention could not be reserved -/
  | outcome (i : Nat) (o : DestOutcome)
  deriving DecidableEq, Repr

/-- What Opal tells Spinel of a host-ring Segment (08 R222): the buffer assigned to it, or that it is dropped. -/
inductive SpinelNote where
  | assign (frame index addr : Nat)
  | drop (frame index : Nat)
  deriving DecidableEq, Repr

/-- A magazine Destination's outcome (09 R237), with the member's ports that hold it (09 R252), whether it was
re-homed, MARKS and STRIPE_MAP. -/
structure OutcomeMsg where
  frame : Nat
  index : Nat
  outcome : DestOutcome
  ports : Nat
  rehomed : Bool
  marks : BitVec 16
  stripeMap : Nat
  deriving DecidableEq, Repr

/-- What Garnet tells Opal of a Frame (09 R246, R249, R236): its snapshot, the outcome it gives every Destination, if any,
and whether the snapshot is final: the Hand has been measured, or is over or never comes (03 R72). -/
structure GarnetOutcome where
  frame : Nat
  snap : Snapshot
  outcome : Option DestOutcome
  marks : BitVec 16
  final : Bool
  deriving DecidableEq, Repr

/-- A Thermal Event Log burn request or result (15 R416, R417): the entry, and whether it came from the latch. -/
structure TelMsg where
  entry : Half
  latched : Bool
  ok : Bool
  deriving DecidableEq, Repr

/-- An event that Beryl, Onyx, Quartz or Topaz asks Opal to post (08 R230): CODE, FRAME and the six DATA bytes. -/
structure EventMsg where
  code : Nat
  stamp : Nat
  frame : Nat
  data : List Byte
  deriving DecidableEq, Repr

/-- Items that a sink has taken and not yet retired (12 R319): their sender keeps them, and sends them again when the sink
is recovered (12 R321). Each list holds the items of one channel, oldest first. -/
structure Kept where
  garnetJade : List GarnetJade
  opalJade : List (Nat × List Dest)
  onyxJade : List (Nat × Nat × Option Nat)
  spinelJade : List (Nat × Nat × Option Nat)
  jadeSpinel : List SegToken
  spinelOnyx : List SegToken
  /-- outcome records that Opal has taken of Frames whose Ledger record is still to be published (12 R322) -/
  garnetOpal : List GarnetOutcome
  spinelOpal : List HostMoved
  onyxOpal : List OutcomeMsg
  ledgerNotes : List (Nat × LedgerNote)
  deriving DecidableEq, Repr

/-- The channels (01, table Handshake channels). -/
structure Channels where
  quartzGarnet : List CadMsg
  quartzAgate : List Nat
  quartzOpal : List TimeRecord
  agateGarnet : List TrigKind
  garnetJade : List GarnetJade
  /-- a Stripe token has been acknowledged by Jade and DRN has not yet seen it (01 R17) -/
  drnAck : Bool
  jadeSpinel : List SegToken
  spinelOpal : List HostMoved
  spinelOnyx : List SegToken
  onyxOpal : List OutcomeMsg
  stopRequests : List EndReason
  berylGarnet : List Nat
  noticeOpal : List LatchNotice
  noticeSpinel : List LatchNotice
  noticeOnyx : List LatchNotice
  garnetOpal : List GarnetOutcome
  onyxJade : List (Nat × Nat × Option Nat)
  spinelJade : List (Nat × Nat × Option Nat)
  opalJade : List (Nat × List Dest)
  onyxSpinel : List EncRequest
  garnetBeryl : List (Nat × Nat)
  berylJade : List Nat
  berylOpal : List EventMsg
  keepPowered : List (List Nat)
  onyxReport : List Bool
  opalReport : List Bool
  /-- loss and shutdown events on their way from Topaz, and those that their sinks have acted on (12 R330) -/
  topazGarnet : List TopazEvent
  topazOnyx : List TopazEvent
  shutSignal : List (Nat × Int)
  telBurn : List TelMsg
  telResult : List TelMsg
  evr : List TraceEntry
  expiry : List (Nat × Nat)
  /-- Jade, Spinel, Onyx → Opal: notes for Ledger records, by frame number -/
  ledgerNotes : List (Nat × LedgerNote)
  /-- Opal → Spinel and Opal → Onyx: the Destination set of each Frame bound, and what Opal decides of its Segments -/
  spinelDests : List (Nat × List Dest)
  onyxDests : List (Nat × List Dest)
  opalSpinel : List SpinelNote
  opalOnyx : List (Nat × Nat)
  /-- sequence tags (frame, ordinal) of the Segment Stripe tokens that Jade has begun to produce and that have not passed the
  Egress Merge, in key order (01 R28) -/
  egressDue : List (Nat × Nat)
  topazOpal : List TopazEvent
  /-- Onyx → Opal: Takes whose clips have closed, each with its last Frame as Onyx knows it -/
  takesClosed : List (Nat × Option Nat)
  kept : Kept
  deriving DecidableEq, Repr

/-- What the block has put out: posted writes into host memory, MSI-X messages, read requests at the Doorbell Page and
descriptor rings, NVMe commands by port, and the answer to the last register read; latest first. -/
structure Outputs where
  host : List (Nat × List Byte)
  /-- MSI-X messages: vector, address and data (18 R475) -/
  msix : List (Nat × Nat × Word)
  reads : List (Nat × Nat)
  nvme : List (Nat × NvmeCmd)
  readData : Word
  deriving DecidableEq, Repr

end Sys2Proof.Machine
end

