-- ==== Sys2Proof/Syntax.lean ====
section
/-! DEFINITION. The commands of the block: one constructor per row of the opcode table, in the table's order. Operands are
what the outside brings with the command: a register word, a stamp, host or media data read, the number of a ring, port,
channel or pin. `desc` names a descriptor in flight by its number. `lost` counts messages of an event channel that were
lost before the one the command receives (12 R330). `mv` is VPP_OTP in millivolts as OTC measures it. `level` and `held` are
an edge's level and the ticks that it holds (05 R112). `posted` is the next read of a closing ring (08 R216), `bad` the
Islands whose retained configuration fails its parity check (12 R321), `since` the stamp of an Island's last progress (12 R337).
Data read from the host are absent (`none`) when the read failed. An operand left out of a term stands for the plain case: no
message lost, no bad Island, an edge to the high level held for longer than any filter. -/

namespace Sys2Proof
open Machine

/-- A command. -/
inductive Instr where
  /-- CAD0_EVENT (R86). -/
  | cad0Event
  /-- CAD1_EVENT (R87). -/
  | cad1Event
  /-- CADENCE_CHANNEL_EVENT (R93). -/
  | cadenceChannelEvent (ch : Nat)
  /-- STROBE_ON (R108). -/
  | strobeOn (k : Nat)
  /-- STROBE_OFF (R108). -/
  | strobeOff (k : Nat)
  /-- STRB_CFG_WRITE (R469). -/
  | strbCfgWrite (n : Nat) (w : Word)
  /-- TB_LO_READ (R82). -/
  | tbLoRead
  /-- CAD_LAST_LO_READ (R468). -/
  | cadLastLoRead
  /-- CAP_APPLY (R88). -/
  | capApply
  /-- REF_IN_EDGE (R112). -/
  | refInEdge (stamp : Nat) (level : Bool := true) (held : Nat := 65536)
  /-- COMPARE_EVENT (R114). -/
  | compareEvent
  /-- REF_LOSS (R121). -/
  | refLoss
  /-- QUALIFICATION_END (R124). -/
  | qualificationEnd
  /-- ACQUIRE_TIMEOUT (R118). -/
  | acquireTimeout
  /-- ALIGNMENT_STAGE (R124). -/
  | alignmentStage
  /-- ALIGNMENT_CHECK_END (R124). -/
  | alignmentCheckEnd
  /-- PPS_IN_EDGE (R128). -/
  | ppsInEdge (stamp : Nat) (level : Bool := true) (held : Nat := 65536)
  /-- TIME_OF_DAY (R129). -/
  | timeOfDay (desc : Nat)
  /-- RELOCK (R126). -/
  | relock (desc : Nat)
  /-- CADENCE (R94). -/
  | cadence (desc : Nat)
  /-- SUB_FRAME_START (R38). -/
  | subFrameStart (scene : Scene) (lost : Nat)
  /-- TRIGGER_EVENT (R101). -/
  | triggerEvent (lost : Nat)
  /-- FRAME_PROGRAM (R67). -/
  | frameProgram (desc : Nat)
  /-- TAKE_START (R96). -/
  | takeStart (desc : Nat)
  /-- TAKE_STOP (R97). -/
  | takeStop (desc : Nat)
  /-- TRIGGER (R98). -/
  | trigger (desc : Nat)
  /-- THERMAL_STEP (R409). -/
  | thermalStep
  /-- STOP_REQUEST (R281). -/
  | stopRequest
  /-- DRAIN_STRIPE_DONE (R17). -/
  | drainStripeDone
  /-- STRIPE_TOKEN_ACK (R17). -/
  | stripeTokenAck
  /-- POWER_LOSS_STOP (R394). -/
  | powerLossStop
  /-- GARNET_SHUTDOWN (R412). -/
  | garnetShutdown
  /-- FRAME_BOUND_RECORD (R409). -/
  | frameBoundRecord
  /-- FRAME_HEADER_TOKEN (R21). -/
  | frameHeaderToken
  /-- STRIPE_TOKEN (R141). -/
  | stripeToken (bad1 bad2 : Bool) (ecc : Ecc)
  /-- STRIPE_PROCESS (R145). -/
  | stripeProcess (ecc : Ecc) (kind : RefKind)
  /-- PROFILE_TOKEN (R187). -/
  | profileToken (bad1 bad2 : Bool) (ecc : Ecc)
  /-- DESTINATION_SET (R178). -/
  | destinationSet
  /-- RETENTION_RESERVATION (R275). -/
  | retentionReservation
  /-- STAGING_RESERVATION (R221). -/
  | stagingReservation
  /-- PROC_SETTINGS (R217). -/
  | procSettings (desc : Nat)
  /-- PROC_SETTINGS_RESUME (R217). -/
  | procSettingsResume
  /-- REF_LOAD (R160). -/
  | refLoad (desc : Nat) (buf : Option (List Byte))
  /-- REF_UNLOAD (R162). -/
  | refUnload (desc : Nat)
  /-- REF_SLOT_FREED (R161). -/
  | refSlotFreed
  /-- CLR_COUNTS (R171). -/
  | clrCounts
  /-- CLOCK_DIVISION_REQUEST (R410). -/
  | clockDivisionRequest
  /-- JADE_CLOCK_DIVIDE (R410). -/
  | jadeClockDivide
  /-- SEGMENT_STRIPE_TOKEN (R224). -/
  | segmentStripeToken (ecc : Ecc)
  /-- KEY_LOAD (R295). -/
  | keyLoad (desc : Nat) (buf : Option (List Byte))
  /-- KEY_RELEASE (R299). -/
  | keyRelease
  /-- ZEROISE (R308). -/
  | zeroise (w : Word)
  /-- SHARE_ENCRYPTION_REQUEST (R304). -/
  | shareEncryptionRequest
  /-- HOST_STRIPE_MOVED (R224). -/
  | hostStripeMoved
  /-- POLL (R202). -/
  | poll (page : Option (List Byte))
  /-- DESCRIPTOR_FETCHED (R209). -/
  | descriptorFetched (r : Nat) (data : Option (List (List Byte)))
  /-- NOP (R209). -/
  | nop (r desc : Nat)
  /-- CONTEXT_OPEN (R215). -/
  | contextOpen (desc : Nat)
  /-- CONTEXT_CLOSE_DRAIN (R216). -/
  | contextCloseDrain (desc : Nat)
  /-- CONTEXT_CLOSE_ABORT (R216). -/
  | contextCloseAbort (desc : Nat)
  /-- CONTEXT_CLOSE_FINISH (R216). -/
  | contextCloseFinish (c word : Nat) (posted : Option (List (List Byte)))
  /-- MAG_SET (R272). -/
  | magSet (desc : Nat)
  /-- MAG_QUERY (R290). -/
  | magQuery (desc : Nat)
  /-- SEQ_TRANSFER_TX (R219). -/
  | seqTransferTx (desc : Nat) (buf : Option (List Byte))
  /-- SEQ_TRANSFER_RX (R219). -/
  | seqTransferRx (desc : Nat)
  /-- SEQ_TRANSFER_PROGRAM (R366). -/
  | seqTransferProgram (desc : Nat) (buf : Option (List Byte)) (cycles : Nat)
  /-- SEQ_TRANSFER_TIMEOUT (R219). -/
  | seqTransferTimeout (desc : Nat)
  /-- OUTCOME_QUERY (R220). -/
  | outcomeQuery (desc : Nat)
  /-- BUFFER_POST (R222). -/
  | bufferPost (c desc : Nat)
  /-- BUF_WAIT_EXPIRY (R222). -/
  | bufWaitExpiry
  /-- TIME_RECORD (R136). -/
  | timeRecord
  /-- LATCH_NOTICE_OPAL (R179). -/
  | latchNoticeOpal (lost : Nat := 0)
  /-- LATCH_NOTICE_SPINEL (R221). -/
  | latchNoticeSpinel (lost : Nat := 0)
  /-- LATCH_NOTICE_ONYX (R275). -/
  | latchNoticeOnyx (lost : Nat := 0)
  /-- GARNET_OUTCOME (R246). -/
  | garnetOutcome
  /-- DESTINATION_OUTCOME (R237). -/
  | destinationOutcome
  /-- LEDGER_PUBLISH (R239). -/
  | ledgerPublish
  /-- BERYL_EVENT_RECORD (R230). -/
  | berylEventRecord
  /-- MSIX_HOLDOFF_EXPIRY (R232). -/
  | msixHoldoffExpiry (v : Nat)
  /-- MSIX_MASK_WRITE (R475). -/
  | msixMaskWrite (w : MsixWrite)
  /-- CTRL_RING_START (R472). -/
  | ctrlRingStart (w : Word)
  /-- LEDGER_RING_START (R473). -/
  | ledgerRingStart (w : Word)
  /-- HOST_LINK_DOWN (R332). -/
  | hostLinkDown
  /-- HOST_LINK_UP (R449). -/
  | hostLinkUp (rate : Nat := 6) (width : Nat := 8)
  /-- HOST_PERST (R449). -/
  | hostPerst
  /-- FUNDAMENTAL_RESET (R332). -/
  | fundamentalReset
  /-- GRN_FRAME_LO_READ (R470). -/
  | grnFrameLoRead
  /-- ISL_COMMIT (R463). -/
  | islCommit (w : Word)
  /-- ISL_UNCOMMIT (R464). -/
  | islUncommit (w : Word)
  /-- REGISTER_WRITE (R461). -/
  | registerWrite (off : Nat) (w : Word) (be : BitVec 4)
  /-- ONYX_FLUSH_REPORT (R394). -/
  | onyxFlushReport
  /-- FLUSH_READ_COMPLETE (R394). -/
  | flushReadComplete
  /-- OPAL_FLUSH_TIMEOUT (R394). -/
  | opalFlushTimeout
  /-- MAGAZINE_LINK_UP (R263). -/
  | magazineLinkUp (m gen width vs cap : Nat)
  /-- MAGAZINE_LINK_DOWN (R283). -/
  | magazineLinkDown (m : Nat) (also : List Nat := [])
  /-- NVME_COMPLETION (R278). -/
  | nvmeCompletion (m cid status sqhd : Nat) (data : List Byte)
  /-- CMD_TIMEOUT (R261). -/
  | cmdTimeout (m cid : Nat)
  /-- SMART_POLL (R260). -/
  | smartPoll
  /-- MAGAZINE_DMA_VIOLATION (R258). -/
  | magazineDmaViolation (m : Nat)
  /-- MAGAZINE_STRIPE_TOKEN (R278). -/
  | magazineStripeToken (ecc : Ecc)
  /-- EXPIRY_REQUEST (R244). -/
  | expiryRequest
  /-- REINIT (R264). -/
  | reinit (w : Word)
  /-- RETRAIN (R289). -/
  | retrain (w : Word)
  /-- ONYX_POWER_LOSS (R286). -/
  | onyxPowerLoss
  /-- FLUSH_WRITE_DEADLINE (R394). -/
  | flushWriteDeadline
  /-- SHUTDOWN_WAIT_TIMEOUT (R286). -/
  | shutdownWaitTimeout
  /-- ONYX_SHUTDOWN (R412). -/
  | onyxShutdown
  /-- MAGAZINE_POWER_SETTLED (R497). -/
  | magazinePowerSettled (m : Nat)
  /-- JMP (R357). -/
  | seqJmp (n : Nat) (joins : Bool)
  /-- WAIT (R357). -/
  | seqWait (n : Nat) (joins : Bool)
  /-- IN (R359). -/
  | seqIn (n : Nat) (joins : Bool)
  /-- OUT (R359). -/
  | seqOut (n : Nat) (joins : Bool)
  /-- PUSH (R357). -/
  | seqPush (n : Nat) (joins : Bool)
  /-- PULL (R357). -/
  | seqPull (n : Nat) (joins : Bool)
  /-- MOV (R358). -/
  | seqMov (n : Nat) (joins : Bool)
  /-- SET (R360). -/
  | seqSet (n : Nat) (joins : Bool)
  /-- FLAG_RAISE (R367). -/
  | flagRaise (n : Nat) (joins : Bool)
  /-- FLAG_DROP (R367). -/
  | flagDrop (n : Nat) (joins : Bool)
  /-- FLAG_TAKE (R367). -/
  | flagTake (n : Nat) (joins : Bool)
  /-- FLAG_TRIG (R368). -/
  | flagTrig (n : Nat) (joins : Bool)
  /-- CAD (R369). -/
  | seqCad (n : Nat) (joins : Bool)
  /-- ILLEGAL_OPCODE (R356). -/
  | illegalOpcode (n : Nat) (joins : Bool)
  /-- ENGINE_ENABLE (R374). -/
  | engineEnable (w : Word)
  /-- ENGINE_HALT (R374). -/
  | engineHalt (w : Word)
  /-- GANG_CHANGE (R373). -/
  | gangChange (w : Word)
  /-- SEQ_IO_EDGE (R363). -/
  | seqIoEdge (p : Nat) (level : Bool)
  /-- TRIG_IN_EDGE (R100). -/
  | trigInEdge (joins : Bool := false)
  /-- CADENCE_EVENT_AGATE (R369). -/
  | cadenceEventAgate (lost : Nat)
  /-- GANG_CTRL_WRITE (R372). -/
  | gangCtrlWrite (g : Nat) (data : List (Nat × Word)) (w : Word)
  /-- GIO_TRIG_WRITE (R477). -/
  | gioTrigWrite (w : Word)
  /-- WATCHDOG_REPORT (R333). -/
  | watchdogReport (lost : Nat := 0)
  /-- WATCHDOG_EXPIRY (R333). -/
  | watchdogExpiry
  /-- BERYL_RESTART_DONE (R335). -/
  | berylRestartDone (patchOk : Bool) (mv : Nat) (bad : List Island := []) (more : List Nat := [])
  /-- ISLAND_FAULT (R320). -/
  | islandFault (i : Island) (c : FaultClass)
  /-- ISLAND_RECOVERY (R321). -/
  | islandRecovery (i : Island) (ok configOk : Bool)
  /-- STALL (R337). -/
  | stall (i : Island) (since : Nat := 0)
  /-- SENSOR_SAMPLE (R404). -/
  | sensorSample (l : List Int)
  /-- THERMAL_READING (R406). -/
  | thermalReading (ra rb : Int)
  /-- SHUTDOWN_SIGNAL (R411). -/
  | shutdownSignal (lost : Nat := 0)
  /-- SHUTDOWN_DEADLINE (R412). -/
  | shutdownDeadline
  /-- TEL_BURN_REQUEST (R416). -/
  | telBurnRequest (mv : Nat) (more : List Nat := [])
  /-- TEL_BURN_RESULT (R416). -/
  | telBurnResult (lost : Nat := 0)
  /-- RAIL_DROP_TIMEOUT (R412). -/
  | railDropTimeout
  /-- OTP_PROGRAM (R433). -/
  | otpProgram (w : Word) (mv : Nat) (more : List Nat := [])
  /-- OTP_PULSE_DONE (R434). -/
  | otpPulseDone (fired firm : Half) (mv : Nat) (soft : Half := 0) (more : List Nat := [])
  /-- VPP_MEASURE (R437). -/
  | vppMeasure (mv : Nat)
  /-- OTP_READ (R437). -/
  | otpRead (w : Word)
  /-- FUSE_LOAD (R428). -/
  | fuseLoad (refOk : Bool)
  /-- PATCH_LOAD (R451). -/
  | patchLoad (w : Word)
  /-- PATCH_IMAGE_READ (R452). -/
  | patchImageRead (data : Option (List Byte)) (mv : Nat) (bad : List Island := []) (more : List Nat := [])
  /-- EVR_RECORD (R339). -/
  | evrRecord (w : Word)
  /-- EVR_REPLAY (R345). -/
  | evrReplay (w : Word)
  /-- EVR_OFF (R351). -/
  | evrOff (w : Word)
  /-- TRACE_ENTRY (R339). -/
  | traceEntry
  /-- TRACE_BLOCK_CLOSE (R340). -/
  | traceBlockClose (ecc : Ecc)
  /-- REPLAY_FEED (R347). -/
  | replayFeed (r : ReplayRead)
  /-- DRAM_INIT_DONE (R446). -/
  | dramInitDone (ok : Bool)
  /-- ROM_START (R448). -/
  | romStart (romOk : Bool)
  /-- MAIN_INPUT_LOSS (R380). -/
  | mainInputLoss (mv : Nat := 0)
  /-- MAIN_INPUT_RETURN (R381). -/
  | mainInputReturn (mv : Nat := 65535)
  /-- KEEP_POWERED_RECORD (R393). -/
  | keepPoweredRecord
  /-- FLUSH_REPORT (R395). -/
  | flushReport
  /-- FLUSH_DEADLINE (R395). -/
  | flushDeadline
  /-- EVENT_REPEAT (R330). -/
  | eventRepeat (i : Island) (lost : Nat)
  /-- PACK_READ (R382). -/
  | packRead (ohms : Nat) (temp : Int)
  /-- SHORT_CHECK (R384). -/
  | shortCheck
  /-- PRECHARGE_TIMEOUT (R386). -/
  | prechargeTimeout
  /-- CHARGE_DONE (R386). -/
  | chargeDone
  /-- SAFETY_TIMER_EXPIRY (R389). -/
  | safetyTimerExpiry
  /-- CONTROL_STEP (R403). -/
  | controlStep (mv : Nat) (ma : Int) (vbus : Nat := 65535)
  /-- SHOW_END (R396). -/
  | showEnd
  /-- POWER_UP_DELAY (R396). -/
  | powerUpDelay
  /-- KEY_PRESS (R399). -/
  | keyPress
  /-- KEY_RESTART_HOLD (R400). -/
  | keyRestartHold
  /-- KEY_SHIP_HOLD (R400). -/
  | keyShipHold
  /-- SHIP_MODE_ENTER (R400). -/
  | shipModeEnter
  /-- HUP_MAGPWR_WRITE (R392). -/
  | hupMagpwrWrite (w : Word)
  /-- CLR_TIMER (R389). -/
  | clrTimer (w : Word)
  /-- TOPAZ_START (R439). -/
  | topazStart (ohms : Nat) (temp : Int)
  /-- RAIL_PG_RISE (R440). -/
  | railPgRise (k : Nat)
  /-- RAIL_ENABLE_DELAY (R440). -/
  | railEnableDelay
  /-- RAIL_TIMEOUT (R440). -/
  | railTimeout
  /-- RAIL_PG_FALL (R442). -/
  | railPgFall (k : Nat)
  /-- RAIL_DOWN_STEP (R441). -/
  | railDownStep
  /-- PWR_GOOD_RISE (R444). -/
  | pwrGoodRise (tcxo : Bool)
  /-- PWR_GOOD_FALL (R445). -/
  | pwrGoodFall
  /-- KEY_N_RELEASE (R400). -/
  | keyNRelease (held : Nat)
  /-- TRIG_IN_INACTIVE (R100). -/
  | trigInInactive
  /-- CONTROLLER_STATUS_CHANGE (R286). -/
  | controllerStatusChange (m csts : Nat)
  /-- POLL_READ_TIMEOUT (R205). -/
  | pollReadTimeout
  /-- ISLAND_RESET_RELEASE (R446). -/
  | islandResetRelease
  /-- HOST_LINK_ERROR (R312). -/
  | hostLinkError
  /-- VDD_AO_LOSS (R417). -/
  | vddAoLoss
  deriving DecidableEq, Repr

end Sys2Proof
end

