-- ==== Sys2Proof/Config.lean ====
section
/-! DEFINITION. What an implementation fixes and the spec leaves open: free values. Nothing in Lean evaluates them. -/

namespace Sys2Proof.Config

/-- BOOT_ROM.VERSION: the version of the Beryl ROM, fixed at manufacture (17 R453). Free value, log entry 6. -/
opaque romVersion : BitVec 16

/-- CRC-32C of an Island's set-up registers as CONFIG entries carry it, where the byte form digested is not given
(12 R342). Free value, log entry 6. -/
opaque setupDigest : Nat → Nat → BitVec 32

/-- CRC-32C of a list of sequence tags in a MERGE entry, whose byte form the spec does not give (12 R342). Free value,
log entry 6. -/
opaque tagDigest : Nat → Nat → BitVec 32

/-- A value that the spec leaves undefined after a step that goes on: the counter `State.fresh` picks one. Free value,
log entry 6. -/
opaque freeWord : Nat → BitVec 64

/-- Where in its bounds the own clock of an Island lies, by Island number and tick (00 R504). Free value, log entry 84. -/
opaque clockDrift : Nat → Nat → Nat

end Sys2Proof.Config
end

