-- ==== Sys2Proof/Machine/Block.lean ====
section
/-! DEFINITION. The block: everything the spec gives the device, as plain data. The queue of waiting commands stands
beside it in State. -/

namespace Sys2Proof.Machine

/-- The whole device. -/
structure Block where
  quartz : Quartz
  disc : Disc
  tod : Tod
  garnet : Garnet
  jade : Jade
  spinel : Spinel
  opal : Opal
  onyx : Onyx
  agate : Agate
  beryl : Beryl
  topaz : Topaz
  /-- in-package DRAM (01 R32): bytes that are not 0, by address; after initialisation every byte is 0 (17 R446) -/
  dram : List Host.Cell
  ch : Channels
  /-- registers that hold a written value other than their reset value, by BAR0 byte offset (18) -/
  regs : List (Nat × Word)
  out : Outputs
  /-- counter that picks the next free value (the model's own; log entry 6) -/
  fresh : Nat
  deriving DecidableEq, Repr

end Sys2Proof.Machine
end

