-- ==== Sys2Proof/Machine/RegTable.lean ====
section
/-! DEFINITION. The registers of BAR0 that hold what the host writes: offset, reset value, the bits that take writes,
the bits that Island commit locks, and the owning Island (18 R462 and the register tables of every chapter). -/

namespace Sys2Proof.Machine

/-- A row of stored registers: `count` registers from `base`, `stride` bytes apart. `rw` bits always take a write,
`rwl` bits only while the Island is uncommitted (00 R7). -/
structure RegRow where
  base : Nat
  stride : Nat
  count : Nat
  reset : Word
  rw : Word
  rwl : Word
  island : Island
  deriving DecidableEq, Repr

/-- Topaz, Quartz, Garnet, Jade, Spinel, Opal rows. -/
def regRowsA : List RegRow := [
  ⟨0x0010, 4, 1, 0x1FC, 0x180, 0x7C, .topaz⟩,          -- CLK_SPREAD (R466: each RWL bit by its own Island)
  ⟨0x0014, 4, 1, 0, 0xFF, 0, .topaz⟩,                  -- PIN_SLEW
  ⟨0x010C, 4, 1, 0, 0xFFFFFFC0, 0, .topaz⟩,            -- PATCH_ADDR_LO
  ⟨0x0110, 4, 2, 0, 0xFFFFFFFF, 0, .topaz⟩,            -- PATCH_ADDR_HI, PATCH_LEN
  ⟨0x0200, 4, 1, 0x0BB80A15, 0x0FFF0F3F, 0, .topaz⟩,   -- HUP_CFG
  ⟨0x0204, 4, 1, 0, 0xFFFFFFFF, 0, .topaz⟩,            -- HUP_VOLT
  ⟨0x0208, 4, 1, 0x372D0A00, 0xFFFFFFFF, 0, .topaz⟩,   -- HUP_CTEMP
  ⟨0x020C, 4, 1, 0x00033CEC, 0x000FFFFF, 0, .topaz⟩,   -- HUP_DTEMP
  ⟨0x0210, 4, 1, 0x006E0064, 0x01FF01FF, 0, .topaz⟩,   -- HUP_MAIN
  ⟨0x0214, 4, 1, 0, 0xF, 0, .topaz⟩,                   -- HUP_MAGPWR
  ⟨0x0218, 4, 1, 0xFFFF, 0xFFFF, 0, .topaz⟩,           -- HUP_KEY
  ⟨0x021C, 4, 1, 0, 0x3, 0, .topaz⟩,                   -- HUP_LAMP
  ⟨0x0300, 4, 1, 20, 0xFF, 0, .topaz⟩,                 -- FLT_CFG
  ⟨0x0310, 4, 1, 0, 0xFF, 0, .topaz⟩,                  -- FLT_UNIT_SEL
  ⟨0x0318, 4, 1, 10, 0xFF, 0, .topaz⟩,                 -- WDG_CFG
  ⟨0x1100, 4, 1, 0, 0xFFFFFFFF, 0, .quartz⟩,           -- CAP_RELOAD
  ⟨0x1104, 4, 1, 0, 0x00FFFFFF, 0, .quartz⟩,           -- CAP_DNUM
  ⟨0x1108, 4, 1, 1, 0x00FFFFFF, 0, .quartz⟩,           -- CAP_DDEN
  ⟨0x110C, 4, 1, 1, 0x1FFF, 0, .quartz⟩,               -- CAP_GRID
  ⟨0x1110, 4, 2, 0, 0xFFFFFFFF, 0, .quartz⟩,           -- CAP_ALIGN_LO, CAP_ALIGN_HI
  ⟨0x1200, 4, 1, 0x10, 0xFFFF00FF, 0, .quartz⟩,        -- REF_CFG
  ⟨0x1204, 4, 1, 0, 0xFFFFFFFF, 0, .quartz⟩,           -- FSYNC_OFFSET
  ⟨0x1208, 4, 1, 500, 0xFFFF, 0, .quartz⟩,             -- DISC_TOL
  ⟨0x120C, 4, 1, 0, 0xFFFF0001, 0, .quartz⟩,           -- PPS_CFG
  ⟨0x1210, 4, 1, 0, 0xFF, 0, .quartz⟩,                 -- TIME_CFG
  ⟨0x1214, 4, 1, 0, 0xFFFFFFFF, 0, .quartz⟩,           -- LOCAL_OFFSET
  ⟨0x1218, 4, 1, 100000, 0xFFFFFFFF, 0, .quartz⟩,      -- STEP_TOL
  ⟨0x121C, 4, 1, 0, 0xFFFFFFFF, 0, .quartz⟩,           -- TC_PRESET
  ⟨0x1300, 16, 4, 0, 0x3F, 0xC0, .quartz⟩,             -- STRBn_CFG
  ⟨0x1304, 16, 4, 0, 0x00FFFFFF, 0, .quartz⟩,          -- STRBn_TIME
  ⟨0x130C, 16, 4, 1, 0x00FFFFFF, 0, .quartz⟩,          -- STRBn_WIDTH
  ⟨0x1400, 4, 1, 0, 0x1F, 0, .quartz⟩,                 -- CAD_SEL
  ⟨0x3000, 4, 1, 0x00402001, 0xFFFFFF01, 0, .jade⟩,    -- JADE_CORR_CFG
  ⟨0x3004, 4, 1, 16, 0x00FFFFFF, 0, .jade⟩,            -- JADE_HOT_THR
  ⟨0x3008, 4, 1, 256, 0xFFFF, 0, .jade⟩,               -- JADE_OB_CFG
  ⟨0x3100, 4, 1, 0, 0xFFFFFFFF, 0, .jade⟩,             -- STA_FLK_PERIOD
  ⟨0x5000, 4, 1, 8, 0x1FF7F, 0, .opal⟩,                -- OPAL_CFG
  ⟨0x5004, 4, 1, 0, 0x3F3F, 0, .opal⟩,                 -- OPAL_VEC
  ⟨0x5008, 4, 1, 0, 0, 0xFFFFF000, .opal⟩,             -- DBP_BASE_LO
  ⟨0x500C, 4, 1, 0, 0, 0xFFFFFFFF, .opal⟩,             -- DBP_BASE_HI
  ⟨0x5010, 8, 2, 0, 0xFFFFF000, 0, .opal⟩,             -- CTRL_SQ_LO, CTRL_CQ_LO
  ⟨0x5014, 8, 2, 0, 0xFFFFFFFF, 0, .opal⟩,             -- CTRL_SQ_HI, CTRL_CQ_HI
  ⟨0x5020, 4, 1, 0x404, 0x1F1F, 0, .opal⟩,             -- CTRL_SIZE
  ⟨0x5030, 4, 1, 0, 0xFFFFF000, 0, .opal⟩,             -- LDG_LO
  ⟨0x5034, 4, 1, 0, 0xFFFFFFFF, 0, .opal⟩,             -- LDG_HI
  ⟨0x5038, 4, 1, 4, 0x1F, 0, .opal⟩,                   -- LDG_SIZE
  ⟨0x5050, 4, 1, 0, 0xFF, 0, .opal⟩,                   -- CTX_SEL
  ⟨0x6000, 16, 64, 0, 0xFFFFFFFC, 0, .opal⟩,           -- MSI-X message address
  ⟨0x6004, 16, 64, 0, 0xFFFFFFFF, 0, .opal⟩,           -- MSI-X upper address
  ⟨0x6008, 16, 64, 0, 0xFFFFFFFF, 0, .opal⟩,           -- MSI-X message data
  ⟨0x600C, 16, 64, 1, 1, 0, .opal⟩,                    -- MSI-X vector control (mask bit)
  ⟨0x6800, 4, 64, 0, 0x3FF, 0, .opal⟩]                 -- MSIX_HOLDOFFv

/-- Onyx, Agate, Beryl rows. -/
def regRowsB : List RegRow := [
  ⟨0x7000, 4, 4, 0, 0xFF037FFF, 0, .onyx⟩,             -- MAG_PORT_CFGm
  ⟨0x7010, 4, 1, 0, 0x3F, 0, .onyx⟩,                   -- MAG_ANTE
  ⟨0x8000, 4, 1, 0, 0x3FF, 0, .agate⟩,                 -- SEQ_CTRL
  ⟨0x8100, 32, 8, 1, 0x00FFFFFF, 0, .agate⟩,           -- SQn_RATE
  ⟨0x8104, 32, 8, 0x002F0000, 0x0F3F3F3F, 0, .agate⟩,  -- SQn_FLOW
  ⟨0x8108, 32, 8, 0, 0x007FF1FF, 0, .agate⟩,           -- SQn_MAP
  ⟨0x810C, 32, 8, 0, 0xF, 0, .agate⟩,                  -- SQn_QUEUE
  ⟨0x8200, 4, 16, 0x20, 0xFFFF003F, 0, .agate⟩,        -- SEQ_IO_CFGp
  ⟨0x8400, 4, 16, 0, 0, 0xF, .agate⟩,                  -- GIO_MUXp
  ⟨0x8440, 4, 1, 0, 0xFFFF0001, 0, .agate⟩,            -- GIO_TRIG
  ⟨0x9000, 4, 1, 0x056E5F55, 0x0FFFFFFF, 0, .beryl⟩,   -- THM_THR0: 85, 95, 110, HYST 5
  ⟨0x9004, 4, 1, 0x0555463C, 0x0FFFFFFF, 0, .beryl⟩,   -- THM_THR1: 60, 70, 85, HYST 5
  ⟨0x9008, 4, 2, 0x055F5046, 0x0FFFFFFF, 0, .beryl⟩,   -- THM_THR2, THM_THR3: 70, 80, 95, HYST 5
  ⟨0x9010, 4, 1, 0, 0xF, 0, .beryl⟩,                   -- THM_REMOTE
  ⟨0x9014, 4, 1, 3000, 0x3FFF, 0, .beryl⟩,             -- THM_CFG
  ⟨0x9028, 4, 1, 0, 0x3F, 0, .beryl⟩,                  -- THM_SENSOR_SEL
  ⟨0x9118, 4, 1, 0, 0x37FF, 0, .beryl⟩,                -- OTP_RADDR
  ⟨0x9120, 4, 1, 0x10000, 0xF07FF, 0, .beryl⟩,         -- OTP_ADDR
  ⟨0x9128, 4, 4, 0, 0xFFFFFFFF, 0, .beryl⟩,            -- OTP_DATA0 to OTP_DATA3
  ⟨0x9200, 4, 1, 0, 0x7, 0, .beryl⟩,                   -- EVR_CTRL
  ⟨0x9204, 4, 1, 0, 0xFFFFF000, 0, .beryl⟩,            -- EVR_TRACE_LO
  ⟨0x9208, 4, 1, 0, 0xFFFFFFFF, 0, .beryl⟩,            -- EVR_TRACE_HI
  ⟨0x920C, 4, 1, 0, 0x1FFFF, 0, .beryl⟩,               -- EVR_TRACE_BLOCKS
  ⟨0x9210, 4, 1, 0, 0xFFFFF000, 0, .beryl⟩,            -- EVR_TAP_LO
  ⟨0x9214, 4, 2, 0, 0xFFFFFFFF, 0, .beryl⟩]            -- EVR_TAP_HI, EVR_TAP_SIZE

/-- Every row. -/
def regRows : List RegRow := regRowsA ++ regRowsB

/-- The row names this offset. -/
def RegRow.covers (r : RegRow) (off : Nat) : Bool :=
  r.base ≤ off && off < r.base + r.stride * r.count && (off - r.base) % r.stride == 0

/-- The row of a stored register. -/
def regRow (off : Nat) : Option RegRow := regRows.find? (·.covers off)

/-- Reset value of a stored register; 0 where no row names it. -/
def regReset (off : Nat) : Word :=
  match regRow off with
  | some r => r.reset
  | none => 0

end Sys2Proof.Machine
end

