-- ==== Sys2Proof/Machine/Ops.lean ====
section
/-! DEFINITION. The named operations every family uses: byte order, keyed lists in canonical form, DRAM, host memory,
registers, Islands and their gates, Event Recorder entries. -/

namespace Sys2Proof.Machine

/-! ### Numbers and bytes -/

/-- `n` bytes of `v`, least significant first (00 R4). -/
def leBytes : Nat → Nat → List Byte
  | 0, _ => []
  | n + 1, v => BitVec.ofNat 8 v :: leBytes n (v / 256)

/-- The number that bytes spell, least significant first (00 R4). -/
def leNat : List Byte → Nat
  | [] => 0
  | b :: bs => b.toNat + 256 * leNat bs

/-- Field of `n` bytes at byte offset `off`. -/
def leAt (l : List Byte) (off n : Nat) : Nat := leNat ((l.drop off).take n)

/-- `n` bytes of a signed value in two's complement. -/
def leInt (n : Nat) (v : Int) : List Byte := leBytes n (v % (2 ^ (8 * n) : Nat)).toNat

/-- A `w`-bit two's complement value read as signed. -/
def signed (w v : Nat) : Int := if v < 2 ^ (w - 1) then (v : Int) else (v : Int) - (2 ^ w : Nat)

/-- Bits [hi:lo] of a number. -/
def bitsOf (v hi lo : Nat) : Nat := v / 2 ^ lo % 2 ^ (hi + 1 - lo)

/-- Bit `n` of a number. -/
def bitOf (v n : Nat) : Bool := v.testBit n

/-- A flag as 0 or 1. -/
def bit (b : Bool) : Nat := if b then 1 else 0

/-- A list of flags as a number, the first in bit 0. -/
def flagBits : List Bool → Nat
  | [] => 0
  | b :: bs => bit b + 2 * flagBits bs

/-- Division rounded upward. -/
def ceilDiv (a b : Nat) : Nat := (a + b - 1) / b

/-- `round` of a ratio: to the nearest integer, halves away from zero (00 R9). -/
def roundDiv (a : Int) (b : Nat) : Int :=
  if 0 ≤ a then (2 * a + b) / (2 * b) else -((2 * (-a) + b) / (2 * b))

/-- `clamp` (00 R9). -/
def clampInt (x lo hi : Int) : Int := min hi (max lo x)

/-- A count that stops at its highest value. -/
def satAdd (cap v k : Nat) : Nat := min cap (v + k)

/-- `v` is a power of two. -/
def isPow2 (v : Nat) : Bool := 0 < v && (List.range 33).any (fun k => 2 ^ k == v)

/-- `a / b` is an integer power of two. -/
def ratioPow2 (a b : Nat) : Bool := 0 < b && a % b == 0 && isPow2 (a / b)

/-- One more, modulo 2^64 (the Time Base and 64-bit counts). -/
def next64 (v : Nat) : Nat := (v + 1) % 2 ^ 64

/-! ### Keyed lists: keys strictly rising, no entry equal to what an unlisted key reads as -/

/-- What key `k` reads as. -/
def mapGet {α : Type} (dflt : α) : List (Nat × α) → Nat → α
  | [], _ => dflt
  | (j, v) :: l, k => if j = k then v else mapGet dflt l k

/-- Write `v` at key `k`; the default value leaves no entry. -/
def mapSet {α : Type} [DecidableEq α] (dflt : α) : List (Nat × α) → Nat → α → List (Nat × α)
  | [], k, v => if v = dflt then [] else [(k, v)]
  | (j, w) :: l, k, v =>
    if k < j then (if v = dflt then (j, w) :: l else (k, v) :: (j, w) :: l)
    else if k = j then (if v = dflt then l else (k, v) :: l)
    else (j, w) :: mapSet dflt l k v

/-- Every key of the list is above `k`. -/
def keysAbove {α : Type} (k : Nat) (l : List (Nat × α)) : Bool := l.all (fun e => k < e.1)

/-- The canonical form of a keyed list. -/
def mapWf {α : Type} [DecidableEq α] (dflt : Nat → α) : List (Nat × α) → Bool
  | [] => true
  | (k, v) :: l => v != dflt k && keysAbove k l && mapWf dflt l

/-! ### The parts of the block -/

/-- Change Quartz alone. -/
def Block.modQuartz (b : Block) (f : Quartz → Quartz) : Block := { b with quartz := f b.quartz }

/-- Change DISC alone. -/
def Block.modDisc (b : Block) (f : Disc → Disc) : Block := { b with disc := f b.disc }

/-- Change TCG alone. -/
def Block.modTod (b : Block) (f : Tod → Tod) : Block := { b with tod := f b.tod }

/-- Change Garnet alone. -/
def Block.modGarnet (b : Block) (f : Garnet → Garnet) : Block := { b with garnet := f b.garnet }

/-- Change Jade alone. -/
def Block.modJade (b : Block) (f : Jade → Jade) : Block := { b with jade := f b.jade }

/-- Change Spinel alone. -/
def Block.modSpinel (b : Block) (f : Spinel → Spinel) : Block := { b with spinel := f b.spinel }

/-- Change Opal alone. -/
def Block.modOpal (b : Block) (f : Opal → Opal) : Block := { b with opal := f b.opal }

/-- Change Onyx alone. -/
def Block.modOnyx (b : Block) (f : Onyx → Onyx) : Block := { b with onyx := f b.onyx }

/-- Change Agate alone. -/
def Block.modAgate (b : Block) (f : Agate → Agate) : Block := { b with agate := f b.agate }

/-- Change Beryl alone. -/
def Block.modBeryl (b : Block) (f : Beryl → Beryl) : Block := { b with beryl := f b.beryl }

/-- Change Topaz alone. -/
def Block.modTopaz (b : Block) (f : Topaz → Topaz) : Block := { b with topaz := f b.topaz }

/-- Change the channels alone. -/
def Block.modCh (b : Block) (f : Channels → Channels) : Block := { b with ch := f b.ch }

/-- Change what the block puts out alone. -/
def Block.modOut (b : Block) (f : Outputs → Outputs) : Block := { b with out := f b.out }

/-! ### Islands -/

/-- Number of an Island (12 R311). -/
def Island.num : Island → Fin 9
  | .quartz => 0 | .garnet => 1 | .jade => 2 | .spinel => 3 | .opal => 4
  | .onyx => 5 | .agate => 6 | .beryl => 7 | .topaz => 8

/-- Fault state of an Island. -/
def Block.isl (b : Block) (i : Island) : IslandState := b.topaz.isl.get i.num

/-- The Island has left reset (17 R446); Topaz runs whenever VDD_AO is up, Beryl unless it is absent (12 R333). -/
def Block.inPower (b : Block) : Island → Bool
  | .topaz => b.topaz.pwr.on
  | .beryl => b.topaz.berylOut && !b.topaz.absent
  | _ => b.topaz.released

/-- The Island acts on its inputs: out of reset, not frozen, not fail-stopped (12 R320, R326). -/
def Block.alive (b : Block) (i : Island) : Bool :=
  b.inPower i && (b.isl i).frozen.isNone && !(b.isl i).failStop

/-- The Island has fail-stopped: it acknowledges its inputs and fails them (12 R327). -/
def Block.failing (b : Block) (i : Island) : Bool := b.inPower i && (b.isl i).failStop

/-- The Island is committed (18 R463). -/
def Block.committed (b : Block) (i : Island) : Bool := b.topaz.commit.get i.num

/-- A generation counter goes up by 1: after 65,535 comes 1 (12 R315). -/
def nextGen (g : Nat) : Nat := if 65535 ≤ g then 1 else g + 1

/-- Change the fault state of an Island. -/
def Block.modIsl (b : Block) (i : Island) (f : IslandState → IslandState) : Block :=
  b.modTopaz (fun t => { t with isl := t.isl.set i.num (f (t.isl.get i.num)) })

/-- Unit `k` of Island `i` is reset or wakes: its generation changes, and its senders get the new one (12 R315 to R317). -/
def wakeUnit (i : Island) (k : Nat) (b : Block) : Block :=
  b.modIsl i (fun s => { s with gens := s.gens.modify k nextGen, held := s.held.modify k nextGen })

/-- A Unit of the Island refuses work: it was left EMPTY by CONFIG_LOST, and its senders hold an older generation (12 R316). -/
def islandEmpty (b : Block) (i : Island) : Bool := (b.isl i).units.any (· == .empty) || (b.isl i).gens != (b.isl i).held

/-- The generation of Unit `k` of Island `i`, and the one that the senders of work to it hold (12 R315; log entry 85). -/
def Block.unitGen (b : Block) (i : Island) (k : Nat) : Nat := (b.isl i).gens.getD k 1
def Block.heldGen (b : Block) (i : Island) (k : Nat) : Nat := (b.isl i).held.getD k 1

/-- The Unit of an Island that its tokens, requests and descriptors are addressed to: CFS of Onyx, else the first (log entry 85). -/
def workUnit (i : Island) : Nat := if i = .onyx then 4 else 0

/-- An item that carries generation `sent` is accepted by Island `i` (12 R316). -/
def Block.accepts (b : Block) (i : Island) (sent : Nat) : Bool := sent == b.unitGen i (workUnit i)

/-- The generation that work sent now to Island `i` carries (12 R315). -/
def Block.stamp (b : Block) (i : Island) : Nat := b.heldGen i (workUnit i)

/-- The Island takes messages: it is out of reset and not frozen, or fail-stopped, and refuses none (12 R316, R320, R326). -/
def Block.takes (b : Block) (i : Island) : Bool :=
  b.inPower i && ((b.isl i).frozen.isNone || (b.isl i).failStop) && !islandEmpty b i

/-- What FAULT_N shows: low for a DEAD Island, a FATAL fault, a BERYL_DEAD or a fail-stopped Opal (12 R325, R328, R329, R336),
else the code of a failed fuse load or power-up (16 R430, 17 R447). -/
def faultSignal (b : Block) : FaultPin :=
  if b.topaz.fatal || b.topaz.berylDead || b.topaz.isl.toList.any (·.dead) || b.failing .opal then .low
  else if b.topaz.faultCode != 0 then .code b.topaz.faultCode
  else .high

/-- Topaz drives FAULT_N. -/
def settleFaultPin (b : Block) : Block := b.modTopaz (fun t => { t with faultPin := faultSignal b })

/-- The step acts only while its Island does; its occasion cannot arise otherwise (log entry 8). -/
def gated (i : Island) (f : Block → Block) (b : Block) : Block := if b.alive i then f b else b

/-- A BAR0 access reaches its block: the host endpoint is powered and its link is up (18 R509). -/
def Block.bar0 (b : Block) : Bool := b.inPower .opal && b.opal.link

/-- No Hand starts because a group began this power-up in SHUTDOWN (15 R414). -/
def Block.thermalHold (b : Block) : Bool := b.beryl.thm.hold.toList.any id

/-- BERYL_ABSENT as Garnet and Opal see it (12 R333). -/
def Block.berylAbsent (b : Block) : Bool := b.topaz.absent

/-! ### Time -/

/-- The Time Base reaches `t`; it never goes back (04 R80). -/
def Block.advance (b : Block) (t : Nat) : Block :=
  if b.quartz.running then b.modQuartz (fun q => { q with tb := max q.tb t }) else b

/-- The own clock of Island `i` may take from `lo` to `hi` millionths of a stated duration to count it (00 R504): Quartz counts
ticks, Garnet is never spread, Topaz lies within -1.5 % and +2.0 %, and any other runs up to 0.5 % long (01 R14). -/
def clockBounds : Island → Nat × Nat
  | .quartz => (1000000, 1000000)
  | .garnet => (1000000, 1000000)
  | .topaz => (985000, 1020000)
  | _ => (1000000, 1005000)

/-- Time Base ticks that go by while Island `i` counts on its own clock, from tick `since` on, a duration of `d` nominal ticks
(00 R504). Where in its bounds the clock lies is a free value of the time (log entry 84); a clock without spread counts
exactly. -/
def ownTicks (b : Block) (i : Island) (since d : Nat) : Nat :=
  let (lo, hi) := clockBounds i
  let hi := if i != .topaz && !b.topaz.spread.getLsbD i.num.val then lo else hi
  if hi = lo then ceilDiv (d * lo) 1000000
  else ceilDiv (d * (lo + Config.clockDrift i.num.val since % (hi - lo + 1))) 1000000

/-! ### Registers -/

/-- What a stored register holds. -/
def Block.reg (b : Block) (off : Nat) : Nat := (mapGet (regReset off) b.regs off).toNat

/-- Bits [hi:lo] of a stored register. -/
def Block.field (b : Block) (off hi lo : Nat) : Nat := bitsOf (b.reg off) hi lo

/-- Set a stored register whatever its access. -/
def Block.setReg (b : Block) (off v : Nat) : Block :=
  { b with regs := mapSet (regReset off) b.regs off (BitVec.ofNat 32 v) }

/-- Every stored register from `lo` to below `hi` takes its reset value. -/
def Block.resetRegs (b : Block) (lo hi : Nat) : Block :=
  { b with regs := b.regs.filter (fun e => e.1 < lo || hi ≤ e.1) }

/-! ### Memories -/

/-- A byte of DRAM. -/
def Block.dramByte (b : Block) (a : Nat) : Byte := mapGet 0 b.dram a

/-- `n` bytes from `a`, of cells in rising order none of which lies below `a`; `acc` holds those before, latest first. -/
def memTake : Nat → Nat → List Host.Cell → List Byte → List Byte
  | 0, _, _, acc => acc.reverse
  | n + 1, a, [], acc => memTake n (a + 1) [] (0 :: acc)
  | n + 1, a, (k, v) :: l, acc =>
    if k = a then memTake n (a + 1) l (v :: acc) else memTake n (a + 1) ((k, v) :: l) (0 :: acc)

/-- `n` bytes of DRAM from `a`. -/
def Block.dramRead (b : Block) (a n : Nat) : List Byte :=
  memTake n a (b.dram.filter (fun e => a ≤ e.1 && e.1 < a + n)) []

/-- Bytes from address `a` on as cells; a 0 takes none. -/
def memCells : Nat → List Byte → List Host.Cell
  | _, [] => []
  | a, v :: vs => if v = 0 then memCells (a + 1) vs else (a, v) :: memCells (a + 1) vs

/-- Bytes written from address `a` on into a keyed memory. -/
def memWrite (m : List Host.Cell) (a : Nat) (vs : List Byte) : List Host.Cell :=
  m.filter (fun e => e.1 < a) ++ (memCells a vs ++ m.filter (fun e => a + vs.length ≤ e.1))

/-- Write bytes into DRAM. -/
def Block.dramWrite (b : Block) (a : Nat) (vs : List Byte) : Block := { b with dram := memWrite b.dram a vs }

/-- A posted write into host memory. -/
def Block.hostWrite (b : Block) (a : Nat) (vs : List Byte) : Block :=
  { b with out := { b.out with host := (a, vs) :: b.out.host } }

/-- DRAM regions (01 R32): bases are the model's (log entry 11), sizes the spec's. -/
def drainBase : Nat := 22 * 2 ^ 30
def referenceBase : Nat := 24 * 2 ^ 30
def stagingBase : Nat := 26 * 2 ^ 30
def metadataBase : Nat := 30 * 2 ^ 30
def traceBase : Nat := 31 * 2 ^ 30
def retentionSize : Nat := 22 * 2 ^ 30
def drainSize : Nat := 2 * 2 ^ 30
def stagingSize : Nat := 4 * 2 ^ 30

/-- Does [a, a+n) overlap a reservation? -/
def overlaps (a n : Nat) (r : Nat × Nat) : Bool := a < r.1 + r.2 && r.1 < a + n

/-- First 64-byte aligned address in [base, base + size) that leaves `len` bytes clear of every reservation
(address, length); candidates are the base and the end of each reservation (log entry 11). -/
def allocate (base size len : Nat) (rs : List (Nat × Nat)) : Option Nat :=
  let cands := base :: rs.map (fun r => (r.1 + r.2 + 63) / 64 * 64)
  cands.find? (fun a => base ≤ a && a + len ≤ base + size && !(rs.any (overlaps a len)))

/-! ### CRC-32C (Castagnoli; reflected, all ones in and out) -/

/-- One bit of the reflected CRC. -/
def crcBit (c : Word) : Word := if c &&& 1 == 1 then (c >>> 1) ^^^ 0x82F63B78 else c >>> 1

/-- One byte. -/
def crcByte (c : Word) (v : Byte) : Word :=
  let c := c ^^^ v.setWidth 32
  crcBit (crcBit (crcBit (crcBit (crcBit (crcBit (crcBit (crcBit c)))))))

/-- CRC-32C of bytes. -/
def crc32c (l : List Byte) : Word := (l.foldl crcByte 0xFFFFFFFF) ^^^ 0xFFFFFFFF

/-! ### Event Recorder (12 R339): an entry goes to EVR's channel while MODE is RECORD; a sender holds 4,096 -/

/-- The Event Recorder takes entries. -/
def Block.recording (b : Block) : Bool := b.beryl.evr.mode == 1

/-- Entries that Replay checks against the trace (12 R346, R348): DESC, MERGE_DIGEST, BUF_ASSIGN, SHARE, LEDGER. -/
def checkedEntry (type : Nat) : Bool := [0x06, 0x13, 0x14, 0x15, 0x16].contains type

/-- In Replay the device forms such an entry and the Event Recorder compares it (12 R346). -/
def Block.replays (b : Block) (type : Nat) : Bool := b.beryl.evr.mode == 2 && checkedEntry type

/-- Log an entry of TYPE `type` from Island `src` (12 R341). -/
def Block.logEvr (b : Block) (src : Island) (type : Nat) (payload : List Byte) (cont : List (List Byte) := [])
    (stamp : Option Nat := none) : Block :=
  if b.replays type then
    { b with ch := { b.ch with evr := b.ch.evr ++ [{ stamp := stamp.getD b.quartz.tb, type, src := src.num.val, payload, cont }] } }
  else if !b.recording then b
  else
    let mk (t : Nat) (p : List Byte) (k : List (List Byte)) : TraceEntry :=
      { stamp := stamp.getD b.quartz.tb, type := t, src := src.num.val, payload := p, cont := k }
    let gap := b.beryl.evr.gaps.get src.num
    if (b.ch.evr.filter (fun x => x.src == src.num.val)).length < 4096 then
      let lead := if gap = 0 then [] else [mk 0x21 (leBytes 1 src.num.val ++ leBytes 4 gap) []]
      { b with
        ch := { b.ch with evr := b.ch.evr ++ lead ++ [mk type payload cont] }
        beryl := { b.beryl with evr := { b.beryl.evr with gaps := b.beryl.evr.gaps.set src.num 0 } } }
    else
      let evr := b.beryl.evr
      { b with beryl := { b.beryl with evr := { evr with
          lostEntries := satAdd 65535 evr.lostEntries 1
          lostTrace := satAdd (2 ^ 32 - 1) evr.lostTrace 1
          gaps := evr.gaps.set src.num (gap + 1) } } }

/-! ### Vectors -/

/-- Entry `i` of a vector replaced; out of range changes nothing. -/
def vset {α : Type} {n : Nat} (v : Vector α n) (i : Nat) (x : α) : Vector α n := v.setIfInBounds i x

/-- Entry `i` of a vector, or `d` out of range. -/
def vget {α : Type} {n : Nat} (v : Vector α n) (i : Nat) (d : α) : α := v.getD i d

/-- The numbers below `n` for which `p` holds, as bits. -/
def bitsWhere (n : Nat) (p : Nat → Bool) : Nat := flagBits ((List.range n).map p)

end Sys2Proof.Machine
end

