-- ==== Sys2Proof/Machine/Operands.lean ====
section
/-! DEFINITION. Operand forms: the fields of a descriptor (08 R211), index words (08 R198), STATUS codes (08 R228), event
codes (08 R230) and addresses that a pair of registers holds. -/

namespace Sys2Proof.Machine

/-- *none* as a FRAME (08, FRAME_PROGRAM). -/
def frameNone : Nat := 2 ^ 64 - 1

/-- TYPE of a descriptor (08 R211). -/
def descType (d : List Byte) : Nat := leAt d 0 1

/-- NOTIFY (08 R211). -/
def descNotify (d : List Byte) : Bool := bitOf (leAt d 1 1) 0

/-- FENCE (08 R211). -/
def descFence (d : List Byte) : Bool := bitOf (leAt d 1 1) 1

/-- COOKIE (08 R211). -/
def descCookie (d : List Byte) : Nat := leAt d 4 8

/-- The index word of a linear value (08 R198). -/
def indexWord (entries lin : Nat) : Nat := lin % entries + 65536 * (lin / entries % 2)

/-- The linear value of an index word (08 R198). -/
def indexLinear (entries w : Nat) : Nat := bitsOf w 16 16 * entries + bitsOf w 15 0

/-- Distance from `b` to `a`, modulo twice the entries (08 R198). -/
def indexDist (entries a b : Nat) : Nat := (a + 2 * entries - b) % (2 * entries)

/-- A producer or head index is faulty: its INDEX is outside the ring, or it is more than `entries` past `done`
(08 R200, R227). -/
def indexFaulty (entries done w : Nat) : Bool :=
  entries ≤ bitsOf w 15 0 || entries < indexDist entries (indexLinear entries w) done

/-- A length field that R213 refuses. -/
def badLength (v : Nat) : Bool := v == 0 || v == 0xFFFFFFFF

/-- A buffer address that R213 refuses. -/
def misaligned (a n : Nat) : Bool := a % n != 0

/-! STATUS codes (08 R228). -/
def stOk : Nat := 0x00
def stLate : Nat := 0x01
def stPartial : Nat := 0x02
def stMalformed : Nat := 0x10
def stBadType : Nat := 0x11
def stGenStale : Nat := 0x12
def stOffGrid : Nat := 0x13
def stOverBudget : Nat := 0x14
def stSuperseded : Nat := 0x15
def stTimePast : Nat := 0x16
def stOversize : Nat := 0x17
def stContextBusy : Nat := 0x18
def stContextClosed : Nat := 0x19
def stNoKey : Nat := 0x1A
def stKeyDisabled : Nat := 0x1B
def stKeyInvalid : Nat := 0x1C
def stTakeOpen : Nat := 0x1D
def stNoTake : Nat := 0x1E
def stNotHoldover : Nat := 0x1F
def stRefAbsent : Nat := 0x20
def stPpsUnknown : Nat := 0x21
def stRefInvalid : Nat := 0x22
def stRefFull : Nat := 0x23
def stNotInWindow : Nat := 0x24
def stCancelled : Nat := 0x25
def stTimeout : Nat := 0x26
def stStale : Nat := 0x27
def stFailed : Nat := 0x28
def stHostFault : Nat := 0x29
def stNoMedia : Nat := 0x2A
def stMagRefused : Nat := 0x2B

/-! Event codes (08 R230). -/
def evRingFault : Nat := 0x01
def evDoorbellFault : Nat := 0x02
def evTakeEnd : Nat := 0x03
def evLocked : Nat := 0x04
def evHoldover : Nat := 0x05
def evRefBad : Nat := 0x06
def evPps : Nat := 0x07
def evGmChange : Nat := 0x08
def evCadPhaseRange : Nat := 0x09
def evThermal : Nat := 0x0A
def evMagazine : Nat := 0x0B
def evHoldup : Nat := 0x0C
def evIslandFault : Nat := 0x0D
def evBerylRestart : Nat := 0x0E

/-- The ring number of the Control Ring (08 R225). -/
def ctrlRing : Nat := 256

/-- The Islands that own a descriptor TYPE, when the ring may carry it (08, table Descriptor types; R212). BUFFER_POST
belongs to Opal and Spinel; its posting is Opal's. -/
def descOwner (ring type : Nat) : Option Island :=
  if type = 0x00 then some .opal
  else if ring < 256 then (if type = 0x20 then some .opal else none)
  else match type with
    | 0x01 => some .garnet
    | 0x02 => some .garnet
    | 0x03 => some .garnet
    | 0x04 => some .quartz
    | 0x05 => some .opal
    | 0x06 => some .opal
    | 0x07 => some .jade
    | 0x08 => some .jade
    | 0x09 => some .spinel
    | 0x0A => some .onyx
    | 0x0B => some .onyx
    | 0x0C => some .agate
    | 0x0D => some .quartz
    | 0x0E => some .opal
    | 0x0F => some .quartz
    | _ => none

end Sys2Proof.Machine
end

