-- ==== Sys2Proof/Machine/Flags.lean ====
section
/-! DEFINITION. Mark and flag computations: the marks of a Stripe (06 R143, 12 R313), the flag words of a Ledger record
(09 R236), and the rules by which they are gathered. -/

namespace Sys2Proof.Machine

/-! Marks (06 R143; 12, table Fault marks). -/
def markDrainLate : BitVec 16 := 0x0001
def markCrcBad : BitVec 16 := 0x0002
def markCrcRetried : BitVec 16 := 0x0004
def markObFallback : BitVec 16 := 0x0008
def markOverflow : BitVec 16 := 0x0010
def markTiming : BitVec 16 := 0x0100
def markFailStop : BitVec 16 := 0x0200
def markDramUe : BitVec 16 := 0x0400

/-- A mark, or none. -/
def markIf (c : Bool) (m : BitVec 16) : BitVec 16 := if c then m else 0

/-- Is a mark set. -/
def hasMark (w m : BitVec 16) : Bool := w &&& m != 0

/-- Marks gathered over a list. -/
def orMarks (l : List (BitVec 16)) : BitVec 16 := l.foldl (· ||| ·) 0

end Sys2Proof.Machine
end

