-- ==== Sys2Proof/Machine/Aes.lean ====
section
/-! DEFINITION. AES-256 (FIPS 197), the key unwrap of NIST SP 800-38F (11 R294), the key check value (R297) and XTS
encryption (IEEE 1619; R302 to R305). The S-box is computed from its definition. -/

namespace Sys2Proof.Machine

/-- Multiply by x in GF(2^8). -/
def xtime (a : Byte) : Byte := if a.msb then (a <<< 1) ^^^ 0x1B else a <<< 1

/-- Product in GF(2^8), over the low `k` bits of `b`. -/
def gfMulBits : Nat → Byte → Byte → Byte
  | 0, _, _ => 0
  | k + 1, a, b => (if b &&& 1 == 1 then a else 0) ^^^ gfMulBits k (xtime a) (b >>> 1)

/-- Product in GF(2^8). -/
def gfMul (a b : Byte) : Byte := gfMulBits 8 a b

/-- `a` to the power 2^k. -/
def gfSquares : Nat → Byte → Byte
  | 0, a => a
  | k + 1, a => gfSquares k (gfMul a a)

/-- Inverse in GF(2^8), 0 for 0: a^254. -/
def gfInv (a : Byte) : Byte := ([1, 2, 3, 4, 5, 6, 7].map (fun k => gfSquares k a)).foldl gfMul 1

/-- The S-box. -/
def subByte (a : Byte) : Byte :=
  let v := gfInv a
  v ^^^ v.rotateLeft 1 ^^^ v.rotateLeft 2 ^^^ v.rotateLeft 3 ^^^ v.rotateLeft 4 ^^^ 0x63

/-! Blocks, round keys and tables are numbers, byte 0 least significant. -/

/-- Byte `i` of a number. -/
def byteAt (x i : Nat) : Nat := (x >>> (8 * i)) &&& 0xFF

/-- The number of `n` bytes whose byte `i` is `f i`. -/
def packBytes (n : Nat) (f : Nat → Nat) : Nat := (List.range n).foldr (fun i acc => f i + 256 * acc) 0

/-- The S-box and its inverse, tabulated. -/
def sboxTable : Nat := packBytes 256 (fun i => (subByte (BitVec.ofNat 8 i)).toNat)
def invSboxTable : Nat := (List.range 256).foldl (fun a i => a ||| (i <<< (8 * byteAt sboxTable i))) 0

/-- SubBytes on `n` bytes with table `t`. -/
def subBytes (t n x : Nat) : Nat := packBytes n (fun i => byteAt t (byteAt x i))

/-- ShiftRows and its inverse, on a block in column order. -/
def shiftRows (x : Nat) : Nat := packBytes 16 (fun i => byteAt x ((i + 4 * (i % 4)) % 16))
def invShiftRows (x : Nat) : Nat := packBytes 16 (fun i => byteAt x ((i + 12 * (i % 4)) % 16))

/-- Byte `v` in each of the 16 bytes of a block. -/
def everyByte (v : Nat) : Nat := v * 0x01010101010101010101010101010101

/-- Multiply every byte of a block by x in GF(2^8). -/
def xtimeBlock (x : Nat) : Nat := ((x &&& everyByte 0x7F) <<< 1) ^^^ (((x >>> 7) &&& everyByte 1) * 0x1B)

/-- In every column of a block, byte r is byte r + k, modulo 4. -/
def turnColumns (k x : Nat) : Nat :=
  let low := 0x00000001000000010000000100000001 * (2 ^ (32 - 8 * k) - 1)
  ((x >>> (8 * k)) &&& low) ||| ((x <<< (32 - 8 * k)) &&& (everyByte 0xFF - low))

/-- MixColumns, and its inverse: the circulant matrices of 2, 3, 1, 1 and of 14, 11, 13, 9. -/
def mixColumns (x : Nat) : Nat :=
  let x2 := xtimeBlock x
  x2 ^^^ turnColumns 1 (x2 ^^^ x) ^^^ turnColumns 2 x ^^^ turnColumns 3 x
def invMixColumns (x : Nat) : Nat :=
  let x2 := xtimeBlock x
  let x4 := xtimeBlock x2
  let x8 := xtimeBlock x4
  (x8 ^^^ x4 ^^^ x2) ^^^ turnColumns 1 (x8 ^^^ x2 ^^^ x) ^^^ turnColumns 2 (x8 ^^^ x4 ^^^ x) ^^^ turnColumns 3 (x8 ^^^ x)

/-- Key expansion: `k` more words of four bytes, given the words so far, latest first. -/
def expandKey : Nat → Nat → Byte → List Nat → List Nat
  | 0, _, _, ws => ws
  | k + 1, i, rcon, ws =>
    let prev := ws.headD 0
    let t :=
      if i % 8 = 0 then subBytes sboxTable 4 ((prev >>> 8) ||| ((prev &&& 0xFF) <<< 24)) ^^^ rcon.toNat
      else if i % 8 = 4 then subBytes sboxTable 4 prev
      else prev
    expandKey k (i + 1) (if i % 8 = 0 then xtime rcon else rcon) ((ws.getD 7 0 ^^^ t) :: ws)

/-- The round keys of a 256-bit key, 16 bytes each, first to last. -/
def roundKeys (key : List Byte) : List Nat :=
  let ws := (List.range 8).map (fun i => leAt key (4 * i) 4)
  let all := (expandKey 52 8 1 ws.reverse).reverse
  (List.range 15).map (fun r => ((all.drop (4 * r)).take 4).foldr (fun w acc => w + 2 ^ 32 * acc) 0)

/-- AES encryption of a block under expanded round keys. -/
def aesEncrypt (rk : List Nat) (x : Nat) : Nat :=
  let s := x ^^^ rk.headD 0
  let s := ((rk.drop 1).take 13).foldl (fun s k => mixColumns (shiftRows (subBytes sboxTable 16 s)) ^^^ k) s
  shiftRows (subBytes sboxTable 16 s) ^^^ rk.getD 14 0

/-- AES decryption of a block. -/
def aesDecrypt (rk : List Nat) (x : Nat) : Nat :=
  let s := subBytes invSboxTable 16 (invShiftRows (x ^^^ rk.getD 14 0))
  let s := (((rk.drop 1).take 13).reverse).foldl (fun s k =>
    subBytes invSboxTable 16 (invShiftRows (invMixColumns (s ^^^ k)))) s
  s ^^^ rk.headD 0

/-! ### Key unwrap (R294) -/

/-- A 64-bit count as eight bytes, most significant byte first. -/
def beBytes8 (v : Nat) : Nat := packBytes 8 (fun i => byteAt v (7 - i))

/-- One step of the unwrap: register `i` of 1 to 8 with counter `t`. -/
def unwrapStep (rk : List Nat) (st : Nat × List Nat) (i t : Nat) : Nat × List Nat :=
  let (a, rs) := st
  let blk := aesDecrypt rk ((a ^^^ beBytes8 t) + 2 ^ 64 * rs.getD (i - 1) 0)
  (blk % 2 ^ 64, rs.set (i - 1) (blk / 2 ^ 64))

/-- Unwrap 72 bytes under a key-encryption key: the 64 bytes, when the integrity check passes. -/
def unwrapKey (kek buf : List Byte) : Option (List Byte) :=
  let rk := roundKeys kek
  let rs := (List.range 8).map (fun i => leAt buf (8 + 8 * i) 8)
  let steps := ((List.range 6).flatMap (fun j => (List.range 8).map (fun i => (i + 1, 8 * j + i + 1)))).reverse
  let (a, rs) := steps.foldl (fun st (i, t) => unwrapStep rk st i t) (leAt buf 0 8, rs)
  if buf.length = 72 && a == 0xA6A6A6A6A6A6A6A6 then some (rs.flatMap (leBytes 8)) else none

/-- Key check value (R297): bytes 0 to 3 of the encryption of zeros under Key1. -/
def keyCheck (key : List Byte) : Nat := aesEncrypt (roundKeys (key.take 32)) 0 % 2 ^ 32

/-! ### XTS -/

/-- Multiply a tweak by α: the 128-bit value, byte 0 least significant, doubled modulo x^128 + x^7 + x^2 + x + 1. -/
def tweakNext (t : Nat) : Nat := if 2 * t < 2 ^ 128 then 2 * t else (2 * t % 2 ^ 128) ^^^ 0x87

/-- Encrypt whole blocks of one data unit from tweak `t` on; `n` blocks. -/
def xtsBlocks (rk : List Nat) : Nat → Nat → List Byte → List Byte
  | 0, _, _ => []
  | n + 1, t, d => leBytes 16 (aesEncrypt rk (leAt d 0 16 ^^^ t) ^^^ t) ++ xtsBlocks rk n (tweakNext t) (d.drop 16)

/-- Encrypt one data unit with this data unit sequence number. -/
def xtsUnit (rk1 rk2 : List Nat) (seq : Nat) (d : List Byte) : List Byte :=
  xtsBlocks rk1 (d.length / 16) (aesEncrypt rk2 (seq % 2 ^ 128)) d

/-- Encrypt a run of data units of `unit` bytes, numbered from `seq`; `n` of them. -/
def xtsUnits (rk1 rk2 : List Nat) (unit : Nat) : Nat → Nat → List Byte → List Byte
  | 0, _, _ => []
  | n + 1, seq, d => xtsUnit rk1 rk2 seq (d.take unit) ++ xtsUnits rk1 rk2 unit n (seq + 1) (d.drop unit)

/-- Encrypt bytes under a 64-byte key in data units of `unit` bytes, the first numbered `seq`. -/
def xtsEncrypt (key : List Byte) (unit seq : Nat) (d : List Byte) : List Byte :=
  xtsUnits (roundKeys (key.take 32)) (roundKeys (key.drop 32)) unit (d.length / unit) seq d

/-- What goes to the host at bus address `a` (R305): data units of 16 bytes, numbered a / 16. -/
def encryptHost (key : Option (List Byte)) (a : Nat) (d : List Byte) : List Byte :=
  match key with
  | some k => xtsEncrypt k 16 (a / 16) d
  | none => d

/-- What goes to a magazine from LBA `lba` on (R303): data units of 4,096 bytes. -/
def encryptMedia (key : List Byte) (lba : Nat) (d : List Byte) : List Byte := xtsEncrypt key 4096 lba d

end Sys2Proof.Machine
end

