-- ==== Sys2Proof/Machine/Rings.lean ====
section
/-! DEFINITION. Opal's writers: MSI-X messages (08 R231, R232), events (R229, R230), completion records (R225, R226),
retirement and dispatch in ring order (R209, R210). Every family completes its descriptors and posts its events here. -/

namespace Sys2Proof.Machine

/-! ### MSI-X -/

/-- A message of this vector may be sent (18 R475). -/
def vecAllowed (b : Block) (v : Nat) : Bool :=
  b.opal.msixEnable && !b.opal.funcMask && b.field (0x600C + 16 * v) 0 0 == 0

/-- Replace a vector's state. -/
def Block.setVec (b : Block) (v : Nat) (x : Vec) : Block :=
  { b with opal := { b.opal with vecs := vset b.opal.vecs v x } }

/-- A vector's state. -/
def Block.vec (b : Block) (v : Nat) : Vec := vget b.opal.vecs v ⟨false, false, false⟩

/-- The message of a vector: a write of its table entry's data to its address (18 R475). -/
def vecMessage (b : Block) (v : Nat) : Nat × Nat × Word :=
  (v, b.reg (0x6000 + 16 * v) + 2 ^ 32 * b.reg (0x6004 + 16 * v), BitVec.ofNat 32 (b.reg (0x6008 + 16 * v)))

/-- Send a vector's message; its holdoff starts again (08 R232). -/
def sendMsg (v : Nat) (b : Block) : Block :=
  let b := b.setVec v { wanted := false, pending := false, holdoff := b.field (0x6800 + 4 * v) 9 0 != 0 }
  { b with out := { b.out with msix := vecMessage b v :: b.out.msix } }

/-- Ask a vector for a message (08 R232, 18 R475): one that its mask, the Function Mask or Enable stops sets the pending bit. -/
def requestMsg (v : Nat) (b : Block) : Block :=
  let x := b.vec v
  if !vecAllowed b v then b.setVec v { x with pending := true }
  else if x.holdoff then b.setVec v { x with wanted := true }
  else sendMsg v b

/-- Send a pending message once mask, Function Mask and Enable allow it and no holdoff runs (18 R475). -/
def releaseMsg (v : Nat) (b : Block) : Block :=
  let x := b.vec v
  if x.pending && !x.holdoff && vecAllowed b v then sendMsg v b else b

/-! ### Rings -/

/-- A ring by its number: a Context's, or the Control Ring. -/
def Block.ring (b : Block) (r : Nat) : Ring :=
  if r < 256 then (vget b.opal.ctxs r b.opal.ctxs[0]).ring else b.opal.ctrl

/-- A Context. -/
def Block.ctx (b : Block) (c : Nat) : Ctx := vget b.opal.ctxs c b.opal.ctxs[0]

/-- Replace a Context. -/
def Block.setCtx (b : Block) (c : Nat) (x : Ctx) : Block :=
  { b with opal := { b.opal with ctxs := vset b.opal.ctxs c x } }

/-- Replace a ring. -/
def Block.setRing (b : Block) (r : Nat) (x : Ring) : Block :=
  if r < 256 then b.setCtx r { b.ctx r with ring := x } else { b with opal := { b.opal with ctrl := x } }

/-- The vector that signals a ring's completions (08 R231). -/
def ringVector (b : Block) (r : Nat) : Nat := if r < 256 then (b.ctx r).vector else b.field 0x5004 5 0

/-- The completion ring has a free entry, as far as the head last read shows (08 R227). -/
def Ring.room (x : Ring) : Bool := !x.headFault && !x.dead && indexDist x.cqEntries x.cqTail x.cqHead < x.cqEntries

/-- Opal can write to the host (12 R332). -/
def Block.hostUp (b : Block) : Bool := b.alive .opal && b.opal.link

/-- PHASE of the entry written next: 1 on the first pass (08 R226). -/
def phaseOf (entries tail : Nat) : Nat := if tail < entries then 1 else 0

/-- Doorbell Page address (18 R474). -/
def doorbellBase (b : Block) : Nat := b.reg 0x5008 + 2 ^ 32 * b.reg 0x500C

/-- The line of the Doorbell Page that holds a ring's head index (08 R201). -/
def headLine (b : Block) (r : Nat) : Nat := doorbellBase b + (if r < 256 then 1088 + 64 * (r / 16) else 0)

/-- A completion ring has no free entry left: Opal reads its head index, which the next poll brings (08 R227; log entry 37). -/
def readHead (r : Nat) (b : Block) : Block :=
  if (b.ring r).room then b else b.modOut (fun o => { o with reads := (headLine b r, 64) :: o.reads })

/-- Write one 32-byte record, all but its last byte given, into a completion ring (08 R225, R226). -/
def writeRecord (r : Nat) (rec_ : List Byte) (b : Block) : Block :=
  let x := b.ring r
  let b := b.hostWrite (x.cqBase + 32 * (x.cqTail % x.cqEntries))
    (rec_ ++ leBytes 1 (phaseOf x.cqEntries x.cqTail))
  readHead r (b.setRing r { x with cqTail := (x.cqTail + 1) % (2 * x.cqEntries) })

/-- A completion record without its PHASE byte (08 R225). -/
def completionRecord (status r idx cookie frame value detail type : Nat) : List Byte :=
  leBytes 1 1 ++ leBytes 1 status ++ leBytes 2 r ++ leBytes 4 idx ++ leBytes 8 cookie ++ leBytes 8 frame ++
    leBytes 4 value ++ leBytes 2 detail ++ leBytes 1 type

/-- An event record without its PHASE byte (08 R229). -/
def eventRecord (e : Event) (lost : Nat) : List Byte :=
  leBytes 1 2 ++ leBytes 1 e.code ++ leBytes 2 lost ++ leBytes 4 e.seq ++ leBytes 8 e.stamp ++ leBytes 8 e.frame ++
    (e.data ++ leBytes 6 0).take 6 ++ leBytes 1 0

/-! ### Events -/

/-- A descriptor has finished. -/
def DescStatus.past : DescStatus → Bool
  | .finished _ _ _ _ => true
  | _ => false

/-- A completion record of the Control Ring is due: no event record goes before it (08 R230). -/
def recordDue (b : Block) : Bool :=
  match b.opal.ctrl.flight with
  | d :: _ => d.status.past
  | [] => b.opal.ctrl.faultRec.isSome

/-- Write the held events while there is room that no completion record needs, in SEQ order (08 R230); each requests a message
(R232). A Control Ring that has never started has nowhere to write. -/
def flushEvents : Nat → Block → Block
  | 0, b => b
  | k + 1, b =>
    match b.opal.events with
    | [] => b
    | e :: es =>
      if b.hostUp && b.opal.ctrl.state != .idle && b.opal.ctrl.room && !recordDue b then
        let b := writeRecord ctrlRing (eventRecord e b.opal.evLost) b
        let b := { b with opal := { b.opal with events := es, evLost := 0 } }
        flushEvents k (requestMsg (ringVector b ctrlRing) b)
      else b

/-- Raise an event: SEQ counts the events raised, this one with them (08 R229); Opal writes it, holds it, or drops it when
it holds 16 (08 R230). Before Opal has left power-on reset no event is raised (log entry 64). -/
def postEventAt (stamp code frame : Nat) (data : List Byte) (b : Block) : Block :=
  if !b.inPower .opal then b
  else
    let o := b.opal
    let e : Event := { code, seq := (o.evSeq + 1) % 2 ^ 32, stamp, frame, data }
    if o.events.length < 16 then
      let b := { b with opal := { o with evSeq := (o.evSeq + 1) % 2 ^ 32, events := o.events ++ [e] } }
      flushEvents b.opal.events.length b
    else
      { b with opal := { o with evSeq := (o.evSeq + 1) % 2 ^ 32, evLost := satAdd 65535 o.evLost 1 } }

/-- Raise an event stamped now. -/
def postEvent (code frame : Nat) (data : List Byte) (b : Block) : Block :=
  postEventAt b.quartz.tb code frame data b

/-- The data bytes of an event from byte values. -/
def evData (l : List Nat) : List Byte := l.map (fun v => BitVec.ofNat 8 v)

/-! ### Completions -/

/-- A ring stops: its state, and its Context's (08, table Context states). -/
def stopRing (r : Nat) (b : Block) : Block :=
  let b := b.setRing r { b.ring r with state := .stopped }
  if r < 256 then
    let c := b.ctx r
    if c.state = .opened then b.setCtx r { c with state := .stopped } else b
  else b

/-- Completion record `rec_`, all but its last byte given, has been written: for each 64 a MERGE_DIGEST entry, with the CRC-32C
of their bytes, PHASE taken as 0 (12 R342). -/
def countRecord (rec_ : List Byte) (b : Block) : Block :=
  let n := b.opal.complCount + 1
  let crc := (rec_ ++ [0]).foldl crcByte b.opal.complCrc
  let b := b.modOpal (fun o => { o with complCount := n, complCrc := if n % 64 = 0 then 0xFFFFFFFF else crc })
  if n % 64 = 0 then
    b.logEvr .opal 0x13 (leBytes 1 4 ++ leBytes 8 (n - 64) ++ leBytes 2 64 ++ leBytes 4 (crc ^^^ 0xFFFFFFFF).toNat)
  else b

/-- Retire the oldest finished descriptors of a ring, writing their records while there is room (08 R210, R227); then
the record of the ring's own fault, RING_FAULT and the stop (R200, R208). -/
def flushRing : Nat → Nat → Block → Block
  | 0, _, b => b
  | k + 1, r, b =>
    let x := b.ring r
    if b.hostUp && x.state != .idle && x.room then
      match x.flight with
      | [] =>
        match x.faultRec with
        | some (st, w, kind) =>
          let b := writeRecord r (completionRecord st r w 0 frameNone 0 0xFFFF 0xFF) b
          let b := b.setRing r { b.ring r with faultRec := none }
          let b := requestMsg (ringVector b r) b
          stopRing r (postEvent evRingFault frameNone (evData [r % 256, r / 256, kind]) b)
        | none => b
      | d :: ds =>
        match d.status with
        | .finished st fr val det =>
          let w := indexWord x.sqEntries (d.index % 2 ^ 18)
          let v := completionRecord st r w (descCookie d.bytes) fr val det (descType d.bytes)
          let b := countRecord v (writeRecord r v b)
          let x := b.ring r
          let b := b.setRing r { x with flight := ds, done := (x.done + 1) % (2 * x.sqEntries) }
          let b := if descNotify d.bytes || 0x10 ≤ st then requestMsg (ringVector b r) b else b
          flushRing k r b
        | _ => b
    else b

/-- A SEQ_TRANSFER of this engine and direction is in hand already (08 R219), one from before a START included. A PROGRAM has no
engine (13 R366). -/
def transferBusy (b : Block) (seen : List Desc) (d : List Byte) : Bool :=
  leAt d 17 1 != 2 && (b.opal.ghosts ++ b.opal.ctrl.flight ++ seen).any (fun e => e.status == .dispatched && descType e.bytes == 0x0C &&
    leAt e.bytes 16 1 == leAt d 16 1 && leAt e.bytes 17 1 == leAt d 17 1)

/-- May Opal dispatch this fetched descriptor now: FENCE waits for every earlier completion, an uncommitted owner holds
its descriptors (08 R209, R219; 18 R463), but one left EMPTY by CONFIG_LOST refuses them (18 R465)? -/
def mayDispatch (b : Block) (r : Nat) (seen : List Desc) (d : List Byte) : Bool :=
  (!descFence d || seen.isEmpty) &&
    match descOwner r (descType d) with
    | none => true
    | some i => (b.committed i || islandEmpty b i) && !(descType d == 0x0C && transferBusy b seen d)

/-- Status of a descriptor as it is dispatched: BAD_TYPE (08 R212), STALE (12 R316) or FAILED (12 R327) at once. -/
def dispatchStatus (b : Block) (r : Nat) (d : List Byte) : DescStatus :=
  match descOwner r (descType d) with
  | none => .finished stBadType frameNone 0 0
  | some i =>
    if islandEmpty b i then .finished stStale frameNone 0 0
    else if b.failing i then .finished stFailed frameNone 0 0
    else .dispatched

/-- The generation that a descriptor carries as it is dispatched (12 R315). -/
def dispatchGen (b : Block) (r : Nat) (d : List Byte) : Nat :=
  match descOwner r (descType d) with
  | some i => b.stamp i
  | none => 1

/-- Dispatch fetched descriptors of a ring, oldest first, up to the first that has to wait (08 R209); `seen` are the
ones before. -/
def dispatchList (b : Block) (r : Nat) : List Desc → List Desc → List Desc
  | seen, [] => seen
  | seen, d :: ds =>
    match d.status with
    | .fetched =>
      if mayDispatch b r seen d.bytes then
        dispatchList b r (seen ++ [{ d with status := dispatchStatus b r d.bytes, sent := dispatchGen b r d.bytes }]) ds
      else seen ++ d :: ds
    | _ => dispatchList b r (seen ++ [d]) ds

/-- Dispatch what may be dispatched on a ring; on the Control Ring also what was fetched before its last START. -/
def dispatchRing (r : Nat) (b : Block) : Block :=
  if b.alive .opal then
    let x := b.ring r
    let b := b.setRing r { x with flight := dispatchList b r [] x.flight }
    if r < 256 then b
    else b.modOpal (fun o => { o with ghosts := (dispatchList b r [] o.ghosts).filter (fun d => !d.status.past) })
  else b

/-- Dispatch and retire on one ring until nothing moves; the Control Ring's events follow. -/
def pumpRing : Nat → Nat → Block → Block
  | 0, _, b => b
  | k + 1, r, b => pumpRing k r (flushRing ((b.ring r).flight.length + 2) r (dispatchRing r b))

/-- Everything Opal can do on one ring now. -/
def serveRing (r : Nat) (b : Block) : Block :=
  let b := pumpRing ((b.ring r).flight.length + 2) r b
  flushEvents b.opal.events.length b

/-- Mark a dispatched descriptor finished. -/
def markFinished (idx st fr val det : Nat) (l : List Desc) : List Desc :=
  l.map (fun d => if d.index = idx && d.status == .dispatched then { d with status := .finished st fr val det } else d)

/-- A descriptor finishes: its record waits its turn (08 R210). -/
def finish (r idx st fr val det : Nat) (b : Block) : Block :=
  let x := b.ring r
  let b := if r < 256 then b else b.modOpal (fun o => { o with ghosts := o.ghosts.filter (fun d => d.index != idx) })
  serveRing r (b.setRing r { x with flight := markFinished idx st fr val det x.flight })

/-- A Control descriptor finishes. -/
def finishCtrl (idx st fr val det : Nat) (b : Block) : Block := finish ctrlRing idx st fr val det b

/-- The owner of a descriptor accepts the generation that it carries (12 R316). -/
def descAccepted (b : Block) (r : Nat) (d : Desc) : Bool :=
  match descOwner r (descType d.bytes) with
  | some i => b.accepts i d.sent
  | none => true

/-- The dispatched descriptor of this TYPE and number on ring `r`, in the hands of its owner. -/
def Block.dispatched (b : Block) (r idx type : Nat) : Option (List Byte) :=
  (((if r < 256 then (b.ring r).flight else b.opal.ghosts ++ b.opal.ctrl.flight).find? (fun d =>
    d.index == idx && d.status == .dispatched && descType d.bytes == type && descAccepted b r d)).map (·.bytes))

/-- Opal gives the descriptors of an Island that it has dispatched the generation that it now holds (12 R317, R321 step 5). -/
def restampDescs (i : Island) (b : Block) : Block :=
  let again (d : Desc) : Desc :=
    if d.status == .dispatched && descOwner ctrlRing (descType d.bytes) == some i then { d with sent := b.stamp i } else d
  b.modOpal (fun o => { o with ghosts := o.ghosts.map again, ctrl := { o.ctrl with flight := o.ctrl.flight.map again } })

end Sys2Proof.Machine
end

