-- ==== Sys2Proof/Machine/Array.lean ====
section
/-! DEFINITION. The pixel array: what every Cluster does in a Sub-frame (02 R34 to R51), tallies (R57), samples for the
profile (07 R186) and the bytes of a drained Stripe (R56). Charge is in electrons, exact (Rat). -/

namespace Sys2Proof.Machine

/-- Top value of a Slot (R51). -/
def slotMax : Nat := 16777215

/-- `slot_add` on one Slot value: the new value, and whether the overflow flag is set (R51). -/
def slotAdd (v : Nat) (d : Int) : Nat × Bool :=
  if v = slotMax then (v, false)
  else
    let w : Int := v + d
    ((clampInt w 0 slotMax).toNat, (slotMax : Int) ≤ w || w < 0 || d == 8191)

/-- `round` of a rational, halves away from zero (00 R9). -/
def roundRat (x : Rat) : Int := if 0 ≤ x then (x + 1 / 2).floor else -((-x + 1 / 2).floor)

/-- What a read returns for `q` electrons with noise and residual offset `ne`, the n + e of R47, in DN. -/
def convert (q ne : Rat) : Int := min 8191 (max (-512) (roundRat (q / (5 / 4) + ne)))

/-- The broadcast of a Sub-frame that belongs to no Hand. -/
def idleBroadcast : Broadcast := {
  force := false, prevForce := false, barrier := 6144, add := .replicate 4 false, close := .replicate 4 false
  open_ := .replicate 4 false, handEnd := false }

/-- The n + e of R47: `noise` holds the noise and the converter's own offset, of which the trim takes its sixteenths of a
DN away. -/
def residual (cl : Cluster) (noise : Rat) : Rat := noise - (cl.trim : Rat) / 16

/-- One read of pixel `j` (R45): the value goes to every Slot whose ADD bit is set, the floating diffusion is reset and
its new reset code stored, the tally counts it. Answers the value as well. -/
def readPixel (j : Nat) (bc : Broadcast) (noise : Rat) (code : Int) (cl : Cluster) : Cluster × Int :=
  let d := convert (vget cl.fd j 0) (residual cl noise)
  let add (cl : Cluster) (s : Nat) : Cluster :=
    if vget bc.add s false then
      let slot := vget cl.slots s (.replicate 16 0)
      let (v, f) := slotAdd (vget slot j 0) d
      { cl with
        slots := vset cl.slots s (vset slot j v), flags := vset cl.flags s (vget cl.flags s false || f) }
    else cl
  let cl := [0, 1, 2, 3].foldl add cl
  ({ cl with fd := vset cl.fd j 0, resetCode := vset cl.resetCode j code, tally := cl.tally + 1 }, d)

/-- Pixel `j` through one Sub-frame (R41 to R43): the charge of `p` arrives between the instants of the schedule.
Answers the sum of the values read. -/
def pixelSubFrame (bc : Broadcast) (inp : ClusterIn) (acc : Cluster × Int) (j : Nat) : Cluster × Int :=
  let p := vget inp.pix j ⟨0, 0, 0, 0, 0, 0, 0, 0, 0⟩
  let (cl, sum) := acc
  let barrier : Rat := 5 / 4 * bc.barrier
  let pd := vget cl.pd j 0 + p.pd0
  let fd := vget cl.fd j 0 + p.fd0
  -- probe phase: partial transfer and comparison, but in a forced Sub-frame after a forced one (R43)
  let probe := !(bc.force && bc.prevForce)
  let spill := if probe then max 0 (pd - barrier) else 0
  let pd := pd - spill
  let fd := fd + spill
  let passed := probe && decide (80 ≤ fd)
  let cl := { cl with fd := vset cl.fd j fd }
  let (cl, d0) := if bc.force && passed then readPixel j bc p.n0 p.r0 cl else (cl, 0)
  -- the full transfer of a forced Sub-frame: the cut
  let pd := pd + p.pd1
  let moved := if bc.force then pd else 0
  let cl := { cl with
    pd := vset cl.pd j (pd - moved + p.pd2), fd := vset cl.fd j (vget cl.fd j 0 + moved + p.fd1) }
  -- read phase
  let (cl, d1) := if bc.force || passed then readPixel j bc p.n1 p.r1 cl else (cl, 0)
  (cl, sum + d0 + d1)

/-- A Cluster through one Sub-frame, its calibration slot included (R40 to R48). Answers the sum of the values read. -/
def clusterSubFrame (bc : Broadcast) (inp : ClusterIn) (cl : Cluster) : Cluster × Int :=
  let (cl, sum) := (List.range 16).foldl (pixelSubFrame bc inp) (cl, 0)
  ({ cl with calSum := cl.calSum + inp.dark, calCount := cl.calCount + 1 }, sum)

/-- CLOSE and OPEN of the Sub-frame that has ended (R38, R50, R57): a closed Slot latches the tally, an opened one takes
the pedestal and a clear flag. -/
def clusterCloseOpen (bc : Broadcast) (cl : Cluster) : Cluster :=
  let step (cl : Cluster) (s : Nat) : Cluster :=
    let cl := if vget bc.close s false then { cl with latched := vset cl.latched s cl.tally } else cl
    if vget bc.open_ s false then
      { cl with slots := vset cl.slots s (.replicate 16 1024), flags := vset cl.flags s false }
    else cl
  [0, 1, 2, 3].foldl step cl

/-- The offset update after HAND_END, and the tally cleared (R48, R57). -/
def clusterHandEnd (cl : Cluster) : Cluster :=
  let m := roundDiv (16 * cl.calSum) (max 1 cl.calCount)
  { cl with
    offset := clampInt (cl.offset + roundDiv (m - cl.offset) 4) (-1024) 1023, calSum := 0, calCount := 0, tally := 0 }

/-- A Hand starts: the O of the last update applies (R48), and the tally counts from here (R57). -/
def clusterHandStart (cl : Cluster) : Cluster := { cl with trim := cl.offset, tally := 0 }

/-- Garnet starts: the double-samples from which the first offset comes are counted from here (R48). -/
def clusterStart (cl : Cluster) : Cluster := { cl with calSum := 0, calCount := 0 }

/-- The offset as measured after a start (R48): O set to m. -/
def clusterFirstOffset (cl : Cluster) : Cluster :=
  { cl with
    offset := clampInt (roundDiv (16 * cl.calSum) (max 1 cl.calCount)) (-1024) 1023, calSum := 0, calCount := 0 }

/-! ### The whole array -/

/-- Clusters of the array (R34). -/
def clusterCount : Nat := 4384 * 2320

/-- The value of Cluster `k`. -/
def arrayGet (a : PixelArray) (k : Nat) : Cluster := mapGet a.rest a.listed k

/-- The input of Cluster `k`. -/
def sceneGet (s : Scene) (k : Nat) : ClusterIn := mapGet s.rest s.listed k

/-- Keys in rising order without repeats. -/
def insertKey (k : Nat) : List Nat → List Nat
  | [] => [k]
  | j :: l => if k < j then k :: j :: l else if k = j then j :: l else j :: insertKey k l

/-- The Clusters that have to be looked at one by one: the listed ones of the array and of the scene. -/
def arrayKeys (a : PixelArray) (s : List Nat) : List Nat :=
  (a.listed.map (·.1) ++ s).foldl (fun l k => if k < clusterCount then insertKey k l else l) []

/-- Apply `f` to every Cluster with its input. -/
def arrayMap (f : ClusterIn → Cluster → Cluster) (s : Scene) (a : PixelArray) : PixelArray :=
  let rest := f s.rest a.rest
  { rest
    listed := ((arrayKeys a (s.listed.map (·.1))).map (fun k => (k, f (sceneGet s k) (arrayGet a k)))).filter
      (fun e => e.2 != rest) }

/-- A sample Cluster of the profile (07 R186). -/
def isSample (k : Nat) : Bool := k / 4384 % 16 == 8 && k % 4384 % 16 == 8

/-- P_i of a Sub-frame (07 R186): the sum over the sample Clusters, shifted right by 4 and clamped. -/
def profileSum (bc : Broadcast) (s : Scene) (a : PixelArray) : Nat :=
  let ks := (arrayKeys a (s.listed.map (·.1))).filter isSample
  let rest : Int := ((39730 - ks.length : Nat) : Int) * (clusterSubFrame bc s.rest a.rest).2
  let sum := ks.foldl (fun t k => t + (clusterSubFrame bc (sceneGet s k) (arrayGet a k)).2) rest
  (clampInt (sum / 16) 0 0xFFFFFFFF).toNat

/-- A total over every Cluster. -/
def arrayTotal (f : Cluster → Nat) (a : PixelArray) : Nat :=
  let ks := arrayKeys a []
  (clusterCount - ks.length) * f a.rest + (ks.map (fun k => f (arrayGet a k))).sum

/-- The empty scene: nothing arrives. -/
def darkScene : Scene := { rest := { pix := .replicate 16 ⟨0, 0, 0, 0, 0, 0, 0, 0, 0⟩, dark := 0 }, listed := [] }

/-- Change every Cluster alike. -/
def arrayAll (f : Cluster → Cluster) (a : PixelArray) : PixelArray := arrayMap (fun _ c => f c) darkScene a

/-! ### A drained Stripe (R56) -/

/-- Cluster of array pixel (col, row), and its position in Cluster order (R34). -/
def pixelCluster (col row : Nat) : Nat × Nat := (row / 4 * 4384 + col / 4, 4 * (row % 4) + col % 4)

/-- Slot value of an array pixel. -/
def slotValue (a : PixelArray) (slot col row : Nat) : Nat :=
  let (k, j) := pixelCluster col row
  vget (vget (arrayGet a k).slots slot (.replicate 16 0)) j 0

/-- Pixel bytes of Stripe `s`, row-major. -/
def stripePixels (a : PixelArray) (slot s : Nat) : List Byte :=
  (List.range (64 * 17536)).flatMap (fun i => leBytes 3 (slotValue a slot (i % 17536) (64 * s + i / 17536)))

/-- Overflow bitmap of Stripe `s`. -/
def stripeFlags (a : PixelArray) (slot s : Nat) : List Byte :=
  (List.range 8768).map (fun n => BitVec.ofNat 8 (flagBits ((List.range 8).map (fun i =>
    vget (arrayGet a (16 * s * 4384 + 8 * n + i)).flags slot false))))

/-- Conversion tally of a Tile of Stripe `s`, as latched for the Slot (R57). -/
def tileTally (a : PixelArray) (slot s tc : Nat) : Nat :=
  ((List.range 256).map (fun i =>
    vget (arrayGet a ((16 * s + i / 16) * 4384 + 16 * tc + i % 16)).latched slot 0)).sum

/-- The 3,376,832 bytes of a drained Stripe. -/
def stripeBytes (a : PixelArray) (slot s : Nat) : List Byte :=
  stripePixels a slot s ++ stripeFlags a slot s ++
    (List.range 274).flatMap (fun tc => leBytes 4 (tileTally a slot s tc)) ++ leBytes 56 0

/-- Length of a drained Stripe, and of a profile record (R56, 07 R187). -/
def stripeLen : Nat := 3376832
def profileLen : Nat := 16448

end Sys2Proof.Machine
end

