-- ==== Sys2Proof/Machine/Program.lean ====
section
/-! DEFINITION. Frame Programs: the body (03 R65), its checks (R67), the drain admission test (01 R18), windows (R70),
forced Sub-frames (R73) and the broadcast of a Hand (R75). -/

namespace Sys2Proof.Machine

/-- Stripes drained by a program (03 R66). -/
def FrameProgram.stripes (p : FrameProgram) : Nat := p.drainLast + 1 - p.drainFirst

/-- Drain time of `planes` Planes of `stripes` Stripes, ticks (01 R18). -/
def drainTicks (planes stripes : Nat) : Nat := ceilDiv (planes * 17536 * 64 * stripes * 24) 1500

/-- The admission test of R18 against RELOAD of CAD1. -/
def admits (reload nMin planes stripes : Nat) : Bool :=
  drainTicks planes stripes + ceilDiv (reload + 2) nMin ≤ reload + 1

/-- One Plane word of the Deal Table (03 R65). -/
def parsePlane (w : Nat) : PlaneDef :=
  { start := bitsOf w 12 0, end_ := bitsOf w 25 13, gated := bitOf w 26, invert := bitOf w 27 }

/-- A Frame Program descriptor (03 R65); BARRIER 0 selects 6,144. -/
def parseProgram (d : List Byte) : FrameProgram :=
  let w20 := leAt d 20 2
  let bar := bitsOf (leAt d 24 2) 12 0
  let w26 := leAt d 26 2
  { gen := leAt d 16 4, n := bitsOf w20 12 0, slotUse := bitOf w20 13, planeCount := bitsOf w20 15 14 + 1
    nMin := bitsOf (leAt d 22 2) 12 0, barrier := if bar = 0 then 6144 else bar
    gateLen := bitsOf w26 6 0, gatePhase := bitsOf w26 13 8, gatePattern := leAt d 32 8
    defectId := leAt d 28 1, shadingId := leAt d 29 1, darkId := leAt d 30 1
    planes := [parsePlane (leAt d 40 4), parsePlane (leAt d 44 4), parsePlane (leAt d 48 4), parsePlane (leAt d 52 4)]
    drainFirst := leAt d 56 1, drainLast := leAt d 57 1 }

/-- The Planes in use. -/
def FrameProgram.used (p : FrameProgram) : List PlaneDef := p.planes.take p.planeCount

/-- The first Plane in use whose window is refused, by its byte offset (R67 row 4). -/
def planeFault : List PlaneDef → Nat → Option Nat
  | [], _ => none
  | w :: ws, off => if w.end_ ≤ w.start || 4096 < w.end_ then some off else planeFault ws (off + 4)

/-- Rows 1 to 6 of R67: the DETAIL of a MALFORMED refusal (08 R213). -/
def programFault (p : FrameProgram) : Option Nat :=
  if p.gen = 0 then some 16
  else if p.n = 0 || 4096 < p.n then some 20
  else if p.nMin = 0 then some 22
  else if p.n < p.nMin || !ratioPow2 p.n p.nMin then some 20
  else if p.barrier < 1024 || 7168 < p.barrier then some 24
  else if !p.slotUse && 2 < p.planeCount then some 20
  else match planeFault p.used 40 with
    | some off => some off
    | none =>
      if 64 < p.gateLen || (p.used.any (·.gated) && p.gateLen == 0) ||
          (if p.gateLen = 0 then p.gatePhase != 0 else p.gateLen ≤ p.gatePhase) then some 26
      else if p.drainLast < p.drainFirst then some 56
      else if 144 < p.drainLast then some 57
      else none

/-- Checks 8 and 9 of R67 against a cadence; none when both pass. No cadence in force is OFF_GRID (17 R457). -/
def programFit (c : Option Cadence) (p : FrameProgram) : Option Nat :=
  match c with
  | none => some stOffGrid
  | some c =>
    if !ratioPow2 c.grid p.n then some stOffGrid
    else if !admits c.reload p.nMin p.planeCount p.stripes then some stOverBudget
    else none

/-- A window's edges in Sub-frames (R70). -/
def window (a b n : Nat) : Nat × Nat :=
  let s := (a * n + 2048) / 4096
  let e := (b * n + 2048) / 4096
  if s = e then (if e < n then (s, e + 1) else (s - 1, e)) else (s, e)

/-- N_eff (R71). -/
def nEffOf (p : FrameProgram) (t : Nat) : Nat := max (p.n / 2 ^ t) p.nMin

/-- A Plane takes in Sub-frame `i` of a Hand at cadence frame `h` (R75, `plane_takes`). -/
def planeTakes (p : FrameProgram) (pl : PlaneDef) (h i nEff : Nat) : Bool :=
  if !pl.gated then true
  else
    let m := p.n / max 1 nEff
    (List.range m).all (fun u =>
      let g := (h * p.n + (i * m + u) + p.gatePhase) % max 1 p.gateLen
      p.gatePattern.testBit g != pl.invert)

/-- Sub-frame `i` of a Hand is forced (R73). -/
def forcedAt (p : FrameProgram) (nEff i : Nat) : Bool :=
  i + 1 == nEff || p.used.any (fun pl =>
    let (s, e) := window pl.start pl.end_ nEff
    i + 1 == e || i + 1 == s || (pl.gated && s ≤ i && i < e))

/-- Slot of Plane `k` (R75): the pair of R52, or Slot k in Burst use. -/
def slotOf (slotUse pair : Bool) (k : Nat) : Nat := if slotUse then k else 2 * bit pair + k

/-- The Planes of a Frame at N_eff, nothing taken in yet. -/
def planeRuns (p : FrameProgram) (nEff : Nat) (pair : Bool) : List PlaneRun :=
  (p.used.zipIdx).map (fun (pl, k) =>
    let (s, e) := window pl.start pl.end_ nEff
    { slot := slotOf p.slotUse pair k, s, e, wOn := 0, exposure := 0 })

/-- Four flags from the Slots named. -/
def slotFlags (l : List Nat) : Vector Bool 4 := l.foldl (fun v s => vset v s true) (.replicate 4 false)

/-- Slots that a Hand opens in the Sub-frame before it: those of Planes whose start edge is 0 (R75). -/
def openBefore (s : Snapshot) : List Nat := (s.planes.filter (fun r => r.s == 0)).map (·.slot)

/-- The broadcast of Sub-frame `i` of a Hand (R75); `next` are the Slots that the Hand after it opens. -/
def handBroadcast (s : Snapshot) (h i : Nat) (prevForce : Bool) (next : List Nat) : Broadcast :=
  let p := s.prog
  let runs := s.planes.zip p.used
  { force := forcedAt p s.nEff i
    prevForce, barrier := p.barrier
    add := slotFlags ((runs.filter (fun (r, pl) => r.s ≤ i && i < r.e && planeTakes p pl h i s.nEff)).map (·.1.slot))
    close := slotFlags ((s.planes.filter (fun r => i + 1 == r.e)).map (·.slot))
    open_ := slotFlags ((s.planes.filter (fun r => i + 1 == r.s)).map (·.slot) ++ (if i + 1 = s.nEff then next else []))
    handEnd := i + 1 == s.nEff }

/-- What Sub-frame `i` adds to the figures of R72: `len` is the Time Base time from the CAD0 event of the Sub-frame
before. -/
def measurePlanes (s : Snapshot) (h i len : Nat) : List PlaneRun :=
  (s.planes.zip s.prog.used).map (fun (r, pl) =>
    if r.s ≤ i && i < r.e && planeTakes s.prog pl h i s.nEff then
      { r with wOn := r.wOn + 1, exposure := r.exposure + len }
    else r)

end Sys2Proof.Machine
end

