-- ==== Sys2Proof/Machine/Pixels.lean ====
section
/-! DEFINITION. Jade's stages on one drained Stripe: black, dark reference, defects, shading, Planes, windows and binning,
and the pixel encodings (06 R139 to R170, 07 R173 to R176). -/

namespace Sys2Proof.Machine

/-! ### The working format -/

/-- SAT: the working-format maximum (R140). -/
def sat : Int := 2 ^ 35 - 1

/-- Clamp to the working format (R139). -/
def working (x : Int) : Int := clampInt x (-(2 ^ 35)) sat

/-- `mean` of R154: SAT if any value is SAT. -/
def meanOf (l : List Int) : Int := if l.contains sat then sat else roundDiv l.sum (max 1 l.length)

/-- Values of one Stripe by array pixel: 64 rows of 17,536. -/
def stripeCells : Nat := 64 * 17536

/-- Index of array pixel (col, row) within its Stripe. -/
def cellAt (col row : Nat) : Nat := row % 64 * 17536 + col

/-- Channel of a pixel (02 R35): 0 R, 1 Gr, 2 Gb, 3 B. -/
def channel (col row : Nat) : Nat := col % 2 + 2 * (row % 2)

/-! ### Defect maps (R152, R153) -/

/-- What governs each cell of Stripe `s`: 0 unmapped, else 1 + TYPE; a point entry's type governs over a COLUMN. -/
def defectGrid (entries : List Nat) (s : Nat) : Array Nat :=
  let mine := entries.filter (fun e => bitsOf e 28 15 / 64 == s)
  let col (g : Array Nat) (e : Nat) : Array Nat :=
    if bitsOf e 31 29 != 2 then g
    else
      let y := bitsOf e 28 15 % 64
      (List.range (64 - y)).foldl (fun g i => g.setIfInBounds ((y + i) * 17536 + bitsOf e 14 0) 3) g
  let point (g : Array Nat) (e : Nat) : Array Nat :=
    if bitsOf e 31 29 == 2 then g
    else g.setIfInBounds (cellAt (bitsOf e 14 0) (bitsOf e 28 15)) (bitsOf e 31 29 + 1)
  mine.foldl point (mine.foldl col (.replicate stripeCells 0))

/-! ### Black level (R147, R148) -/

/-- The columns of the sample set. -/
def blackColumns : List Nat := (List.range 48).map (· + 8) ++ (List.range 48).map (· + 17480)

/-- Samples of channel `c` in a Stripe: their sum and number (R147). -/
def blackSamples (obClip : Nat) (grid data : Array Nat) (c : Nat) : Nat × Nat :=
  (List.range 64).foldl (fun acc row =>
    blackColumns.foldl (fun (sum, n) col =>
      let k := cellAt col row
      let v := data.getD k 0
      if channel col row = c && grid.getD k 0 == 0 && v ≤ 1024 + obClip then (sum + v, n + 1) else (sum, n)) acc) (0, 0)

/-- b of a Stripe's own samples; none when fewer than 256 remain (R147, R148). -/
def ownBlack (obClip : Nat) (grid data : Array Nat) (c : Nat) : Option Int :=
  let (sum, n) := blackSamples obClip grid data c
  if n < 256 then none else some (roundDiv (16 * sum) n)

/-- What one Plane of a Frame offers the stages: the data of each Stripe that is not missing, the defect entries in use,
the dark words, the knots, k (R79) and the settings copied. -/
structure PlaneIn where
  data : Nat → Option (Array Nat)
  first : Nat
  defects : List Nat
  dark : Option (Array Byte)
  knots : Option (Array Byte)
  k : Nat
  cfg : CorrCfg

/-- b of channel `c` for Stripe `s`, and whether it comes from elsewhere (R148): the nearest Stripe before it, searched
over `fuel` Stripes, else the pedestal. -/
def blackLevel (p : PlaneIn) (c : Nat) : Nat → Nat → Int × Bool
  | 0, _ => (16384, true)
  | fuel + 1, s =>
    match (p.data s).bind (fun d => ownBlack p.cfg.obClip (defectGrid p.defects s) d c) with
    | some v => (v, false)
    | none => if s ≤ p.first then (16384, true) else ((blackLevel p c fuel (s - 1)).1, true)

/-- The four black levels of a Stripe. -/
def blackLevels (p : PlaneIn) (s : Nat) : List (Int × Bool) := [0, 1, 2, 3].map (fun c => blackLevel p c 146 s)

/-! ### Dark reference (R150, R151) -/

/-- Bytes of a reference picture as a number. -/
def refBytes (a : Array Byte) (off n : Nat) : Nat := leNat ((List.range n).map (fun i => a.getD (off + i) 0))

/-- Stages 2 and 3 on one active pixel with Slot value `v` and black `b`. -/
def drkPixel (p : PlaneIn) (x y v : Nat) (b : Int) : Int :=
  if v = 16777215 then sat
  else
    let w := working (16 * v - b)
    match p.dark with
    | none => w
    | some d =>
      let word := refBytes d ((y * 17408 + x) * 3) 3
      let ofs := signed 12 (bitsOf word 11 0)
      let dark16 := max 0 (b - 16384)
      working (w - roundDiv (p.k * ofs) 4 - roundDiv (((bitsOf word 23 12 : Nat) - 256 : Int) * dark16) 256)

/-- Stage 3 output of the active pixels of Stripe `s`, by cell; none when the Stripe is missing or not drained. -/
def drkStripe (p : PlaneIn) (s : Nat) : Option (Array Int) :=
  (p.data s).map (fun d =>
    let b := ((blackLevels p s).map (·.1)).toArray
    ((List.range stripeCells).map (fun k =>
      let col := k % 17536
      let row := 64 * s + k / 17536
      if 64 ≤ col && col < 17472 && 32 ≤ row && row < 9248 then
        drkPixel p (col - 64) (row - 32) (d.getD k 0) (b.getD (channel col row) 16384)
      else 0)).toArray)

/-! ### Defect correction (R154 to R156) -/

/-- Stripes s − 1, s and s + 1 after stage 3, and their defect grids. -/
structure Rows where
  s : Nat
  above : Option (Array Int)
  here : Array Int
  below : Option (Array Int)
  gridAbove : Array Nat
  grid : Array Nat
  gridBelow : Array Nat

/-- The value of active pixel (x, y) as a usable neighbour (R145, R153). -/
def usable (r : Rows) (x y : Int) : Option Int :=
  if x < 0 || 17408 ≤ x || y < 0 || 9216 ≤ y then none
  else
    let col := x.toNat + 64
    let row := y.toNat + 32
    let k := cellAt col row
    let (vals, grid) :=
      if row / 64 = r.s then (some r.here, r.grid)
      else if row / 64 + 1 = r.s then (r.above, r.gridAbove)
      else (r.below, r.gridBelow)
    if grid.getD k 0 != 0 then none else vals.map (fun a => a.getD k 0)

/-- `estimate` of R154. -/
def estimate (r : Rows) (x y : Int) : Option Int :=
  let h := [-2, 2].filterMap (fun d => usable r (x + d) y)
  let v := [-2, 2].filterMap (fun d => usable r x (y + d))
  match h, v with
  | [h0, h1], [v0, v1] => if (h0 - h1).natAbs ≤ (v0 - v1).natAbs then some (meanOf h) else some (meanOf v)
  | [_, _], _ => some (meanOf h)
  | _, [_, _] => some (meanOf v)
  | _, _ =>
    if !(h ++ v).isEmpty then some (meanOf (h ++ v))
    else
      let g := [-2, 2].flatMap (fun a => [-2, 2].filterMap (fun c => usable r (x + a) (y + c)))
      if g.isEmpty then none else some (meanOf g)

/-- The eight same-colour neighbours that are usable (R156). -/
def ring8 (r : Rows) (x y : Int) : List Int :=
  [(-2, -2), (0, -2), (2, -2), (-2, 0), (2, 0), (-2, 2), (0, 2), (2, 2)].filterMap
    (fun (a, c) => usable r (x + a) (y + c))

/-- Dynamic replacement of an unmapped pixel (R156). Answers the value and whether it was replaced. -/
def dynamicPixel (cfg : CorrCfg) (r : Rows) (x y w : Int) : Int × Bool :=
  let l := ring8 r x y
  if !cfg.dynEn || w == sat || l.length < 5 then (w, false)
  else
    let vmax := l.foldl max (l.headD 0)
    let vmin := l.foldl min (l.headD 0)
    let t : Int := 16 * cfg.dynAbs + (vmax.natAbs * cfg.dynRel) / 256
    if vmax = sat then (w, false)
    else if vmax + t < w || w < vmin - t then
      match estimate r x y with
      | some e => (e, true)
      | none => (w, false)
    else (w, false)

/-- DEF on one active pixel (R155, R156). -/
def defPixel (cfg : CorrCfg) (r : Rows) (x y : Nat) : Int × Bool :=
  let k := cellAt (x + 64) (y + 32)
  let w := r.here.getD k 0
  match r.grid.getD k 0 with
  | 0 => dynamicPixel cfg r x y w
  | 4 => (w, false)
  | 2 => match estimate r x y with
    | some e => (if e + 16 * cfg.hotThr < w then e else w, false)
    | none => (w, false)
  | _ => ((estimate r x y).getD w, false)

/-! ### Lens shading (R157, R158) -/

/-- The four Catmull-Rom weights of a fraction. -/
def shadeWeights (f : Int) : List Int :=
  [-(f ^ 3) + 256 * f ^ 2 - 16384 * f, 3 * f ^ 3 - 640 * f ^ 2 + 4194304, -3 * f ^ 3 + 512 * f ^ 2 + 16384 * f,
    f ^ 3 - 128 * f ^ 2]

/-- Gain of active pixel (x, y) of channel `c`, 4.12. -/
def shadeGain (knots : Array Byte) (c x y : Nat) : Int :=
  let i : Int := x / 128
  let j : Int := y / 128
  let wx := shadeWeights (x % 128)
  let wy := shadeWeights (y % 128)
  let acc := (List.range 4).foldl (fun (acc : Int) (b : Nat) =>
    (List.range 4).foldl (fun (acc : Int) (a : Nat) =>
      let ki := (clampInt (i - 1 + a) 0 136).toNat
      let kj := (clampInt (j - 1 + b) 0 72).toNat
      acc + wy.getD b 0 * wx.getD a 0 * (refBytes knots (((c * 73 + kj) * 137 + ki) * 2) 2 : Int)) acc) (0 : Int)
  clampInt (roundDiv acc (2 ^ 44)) 0 65535

/-- SHD on one pixel; SAT stays. -/
def shdPixel (knots : Option (Array Byte)) (c x y : Nat) (w : Int) : Int :=
  match knots with
  | none => w
  | some k => if w = sat then sat else working (roundDiv (w * shadeGain k c x y) 4096)

/-! ### Stages 1 to 5 of one Stripe -/

/-- A Stripe after stage 5: values by cell of its active pixels, pixels replaced dynamically, and the black levels. -/
structure Corrected where
  vals : Array Int
  replaced : Nat
  black : List (Int × Bool)

/-- Correct Stripe `s` of a Plane; none when it is missing. -/
def correctStripe (p : PlaneIn) (s : Nat) : Option Corrected :=
  (drkStripe p s).map (fun here =>
    let r : Rows := {
      s, here
      above := if s ≤ p.first then none else drkStripe p (s - 1)
      below := drkStripe p (s + 1)
      gridAbove := defectGrid p.defects (s - 1), grid := defectGrid p.defects s
      gridBelow := defectGrid p.defects (s + 1) }
    let cells := (List.range stripeCells).map (fun k =>
      let col := k % 17536
      let row := 64 * s + k / 17536
      if 64 ≤ col && col < 17472 && 32 ≤ row && row < 9248 then
        let (w, f) := defPixel p.cfg r (col - 64) (row - 32)
        (shdPixel p.knots (channel col row) (col - 64) (row - 32) w, bit f)
      else (0, 0))
    { vals := (cells.map (·.1)).toArray, replaced := (cells.map (·.2)).sum, black := blackLevels p s })

/-! ### Planes, windows and binning (R166 to R170) -/

/-- PLN on one pixel: A + B or B − A, SAT when either is SAT (R167). -/
def combine (sub : Bool) (a b : Int) : Int :=
  if a = sat || b = sat then sat else working (if sub then b - a else a + b)

/-- Planes that a selection needs (R166), and the Plane of its sequence tags (R27). -/
def planesOf (sel : Nat) : List Nat := if sel < 4 then [sel] else [0, 1]
def tagPlane (sel : Nat) : Nat := if sel < 4 then sel else 1

/-- Bytes of a row of `w` output pixels (07 R182). -/
def rowBytes (encoding w : Nat) : Nat :=
  match encoding with
  | 0 => w * 3
  | 1 => w * 5 / 2
  | 2 => w * 2
  | _ => 0

/-- First active row of Stripe `s`, and the row after its last (R168). -/
def stripeRow0 (s : Nat) : Nat := 64 * s - 32
def stripeRow1 (s : Nat) : Nat := min 9216 (64 * s + 32)

/-- The rows a Context takes, as first row and number (R168); none when the range is empty. -/
def rowsUsed (set : ProcSet) (first last : Nat) : Option (Nat × Nat) :=
  let u := 2 * set.bin
  let lo := max set.winY0 (ceilDiv (stripeRow0 first) u * u)
  let hi := min (set.winY0 + set.winH) (stripeRow1 last / u * u)
  if lo < hi then some (lo, hi - lo) else none

/-- Output rows of a Destination that come from Stripe `s`: the first and the number. -/
def outRows (d : Dest) (s : Nat) : Nat × Nat :=
  let lo := max d.row0 (stripeRow0 s)
  let hi := min (d.row0 + d.rows) (stripeRow1 s)
  if lo < hi then ((lo - d.row0) / d.set.bin, (hi - lo) / d.set.bin) else (0, 0)

/-- `binned` of R169 over a picture given by active coordinates. -/
def binned (w : Nat → Nat → Int) (x0 y0 bin ox oy : Nat) : Int :=
  let xs := (List.range bin).map (fun a => x0 + 2 * bin * (ox / 2) + ox % 2 + 2 * a)
  let ys := (List.range bin).map (fun c => y0 + 2 * bin * (oy / 2) + oy % 2 + 2 * c)
  meanOf (ys.flatMap (fun y => xs.map (fun x => w x y)))

/-- What ENC receives (R170). -/
def withPedestal (ped : Nat) (w : Int) : Int := if w = sat then sat else working (w + 16 * ped)

/-! ### Pixel encodings (07 R174 to R176) -/

/-- RAW24 code. -/
def codeRaw24 (v : Int) : Nat := if v = sat then 16777215 else (clampInt (roundDiv v 16) 0 16777215).toNat

/-- RAW20 code. -/
def codeRaw20 (v : Int) : Nat := if v = sat then 1048575 else (clampInt (roundDiv v 256) 0 1048575).toNat

/-- LOG16 code, evaluated exactly: v ≥ t(c) holds just when (v + 256)^13107 ≥ 2^(4c − 2) · 256^13107. -/
def codeLog16 (v : Int) : Nat :=
  if v = sat then 65535 else min 65535 ((Nat.log2 (((max 0 v).toNat + 256) ^ 13107) + 2 - 104856) / 4)

/-- Pairs of RAW20 codes as 40-bit words. -/
def packPairs : List Nat → List Byte
  | c0 :: c1 :: l => leBytes 5 (c0 + c1 * 2 ^ 20) ++ packPairs l
  | _ => []

/-- One output row in an encoding. -/
def encodeRow (encoding : Nat) (vs : List Int) : List Byte :=
  match encoding with
  | 0 => vs.flatMap (fun v => leBytes 3 (codeRaw24 v))
  | 1 => packPairs (vs.map codeRaw20)
  | _ => vs.flatMap (fun v => leBytes 2 (codeLog16 v))

/-- The picture of a selection over one Stripe, from the corrected Planes; none when a Plane's Stripe is missing. -/
def selectPlane (sel : Nat) (planes : Nat → Option Corrected) : Option (Array Int) :=
  if sel < 4 then (planes sel).map (·.vals)
  else match planes 0, planes 1 with
    | some a, some b =>
      some (((List.range stripeCells).map (fun k => combine (sel == 5) (a.vals.getD k 0) (b.vals.getD k 0))).toArray)
    | _, _ => none

/-- Bytes of the Segment Stripe of Stripe `s`: zeros when its data is missing (R142, R183). -/
def segmentRows (d : Dest) (s : Nat) (pic : Option (Array Int)) : List Byte :=
  let (y0, n) := outRows d s
  let w := d.set.winW / d.set.bin
  match pic with
  | none => .replicate (n * rowBytes d.set.encoding w) 0
  | some a =>
    let at_ (x y : Nat) : Int := a.getD (cellAt (x + 64) (y + 32)) 0
    (List.range n).flatMap (fun r => encodeRow d.set.encoding ((List.range w).map (fun x =>
      withPedestal d.set.outPed (binned at_ d.set.winX0 d.row0 d.set.bin x (y0 + r)))))

end Sys2Proof.Machine
end

