-- ==== Sys2Proof/Machine/Stats.lean ====
section
/-! DEFINITION. STA: histograms, zones, overflow counts and black levels of each Plane, the flicker spectrum, and the
statistics record (07 R188 to R195). -/

namespace Sys2Proof.Machine

/-- Statistics of a Plane before any Stripe. -/
def emptyStats : PlaneStats := {
  hist := .replicate 1024 0, zoneSum := .replicate 8192 0, zoneCount := .replicate 8192 0, sat := .replicate 4 0
  ovf := .replicate 145 0, black := .replicate 580 0 }

/-- Histogram bin of a value (R190): 1 + floor(log2(w^8)), evaluated exactly. -/
def histBin (w : Int) : Nat :=
  if w = sat then 255 else if w < 1 then 0 else min 254 (1 + Nat.log2 (w.toNat ^ 8))

/-- Zone of an active pixel (R191). -/
def zoneOf (x y : Nat) : Nat := y / 288 * 64 + x / 272

/-- One pixel into the statistics. -/
def addPixel (st : PlaneStats) (x y : Nat) (w : Int) : PlaneStats :=
  let c := channel x y
  let st := { st with hist := st.hist.modify (c * 256 + histBin w) (· + 1) }
  if w = sat then { st with sat := st.sat.modify c (· + 1) }
  else { st with
    zoneSum := st.zoneSum.modify (zoneOf x y * 4 + c) (· + w), zoneCount := st.zoneCount.modify (zoneOf x y * 4 + c) (· + 1) }

/-- A corrected Stripe into the statistics of its Plane, with its overflow bitmap (R188, R189). -/
def addStripe (s : Nat) (co : Corrected) (flags : Array Bool) (st : PlaneStats) : PlaneStats :=
  let st := (List.range stripeCells).foldl (fun st k =>
    let col := k % 17536
    let row := 64 * s + k / 17536
    if 64 ≤ col && col < 17472 && 32 ≤ row && row < 9248 then addPixel st (col - 64) (row - 32) (co.vals.getD k 0)
    else st) st
  { st with
    ovf := st.ovf.setIfInBounds s (flags.toList.filter (·)).length
    black := [0, 1, 2, 3].foldl (fun a c => a.setIfInBounds (s * 4 + c) (co.black.getD c (0, false)).1) st.black }

/-- Mean of a zone as the record holds it (R191). -/
def zoneMean (sum : Int) (n : Nat) : List Byte :=
  if n = 0 then leBytes 4 0x80000000 else leInt 4 (clampInt (roundDiv sum (16 * n)) (-(2 ^ 31 - 1)) (2 ^ 31 - 1))

/-- A Plane section (R189). -/
def planeSection (st : PlaneStats) : List Byte :=
  st.hist.toList.flatMap (leBytes 4) ++
    (st.zoneSum.toList.zip st.zoneCount.toList).flatMap (fun (s, n) => zoneMean s n) ++
    st.sat.toList.flatMap (leBytes 4) ++ leBytes 4 st.ovf.toList.sum ++ leBytes 12 0 ++
    st.ovf.toList.flatMap (leBytes 4) ++ st.black.toList.flatMap (leInt 4) ++ leBytes 12 0

/-! ### Flicker spectrum (R193, R194) -/

/-- 2^96 and 2π · 2^96. -/
def fixOne : Int := 2 ^ 96
def fixTwoPi : Int := 497805226624462170461043889244

/-- Terms of the series of cos or sin: from term `t` with the next index `n`, `fuel` of them. -/
def series (theta2 : Int) : Nat → Int → Int → Int
  | 0, _, _ => 0
  | k + 1, n, t => t + series theta2 k (n + 2) (-(t * theta2 / fixOne) / ((n + 1) * (n + 2)))

/-- cos and sin of 2πa / 4,096 for a ≤ 512, times 2^96. -/
def smallCos (a : Nat) : Int := let th := fixTwoPi * a / 4096; series (th * th / fixOne) 20 0 fixOne
def smallSin (a : Nat) : Int := let th := fixTwoPi * a / 4096; series (th * th / fixOne) 20 1 th

/-- COS in the first quadrant, a ≤ 1,024. -/
def quadCos (a : Nat) : Int :=
  roundDiv (32768 * (if a ≤ 512 then smallCos a else smallSin (1024 - a))) (2 ^ 96)

/-- COS[a] = round(32,768 cos(2πa / 4,096)). -/
def cosTable (a : Nat) : Int :=
  let a := a % 4096
  if a ≤ 1024 then quadCos a
  else if a ≤ 2048 then -quadCos (2048 - a)
  else if a ≤ 3072 then -quadCos (a - 2048)
  else quadCos (4096 - a)

/-- SIN[a]. -/
def sinTable (a : Nat) : Int := cosTable (a + 3072)

/-- `coef` of R193: frequency num / den cycles per tick. -/
def coef (p : Array Nat) (nEff g l num den : Nat) : Int × Int :=
  let d := g / max 1 nEff
  (List.range nEff).foldl (fun (re, im) i =>
    let s := i * d * l / max 1 g
    let a := s * num * 4096 / max 1 den % 4096
    (re + p.getD i 0 * cosTable a, im - p.getD i 0 * sinTable a)) (0, 0)

/-- Integer square root by bits, from bit `k − 1` down. -/
def sqrtBits (v : Nat) : Nat → Nat → Nat
  | 0, r => r
  | k + 1, r => let q := r + 2 ^ k; sqrtBits v k (if q * q ≤ v then q else r)

/-- `isqrt`. -/
def isqrt (v : Nat) : Nat := sqrtBits v (Nat.log2 v / 2 + 1) 0

/-- One bin of the spectrum. -/
def spectrumBin (pr : Profile) (m : Nat) : Nat :=
  if pr.nEff ≤ m then 0
  else
    let (re, im) := coef pr.p pr.nEff pr.g pr.l m (2 * pr.l)
    isqrt (re * re + im * im).toNat / 32768

/-- FLK_RE, FLK_IM and FLK_RANGE (R194). -/
def flicker (pr : Profile) (period : Nat) : Int × Int × Bool :=
  if period = 0 then (0, 0, false)
  else if period < 2 * (pr.l / max 1 pr.nEff) then (0, 0, true)
  else
    let (re, im) := coef pr.p pr.nEff pr.g pr.l 1 period
    (re / 32768, im / 32768, false)

/-! ### The record -/

/-- Tally of Tile (tc, s) (R192): from the Plane whose Slot closed latest, the lower Plane on a tie. -/
def recordTally (f : JFrame) (s tc : Nat) : Nat :=
  let have_ := f.stripes.filter (fun t => t.stripe == s && t.data.isSome)
  let edge (t : JStripe) : Nat := match f.snap.planes[t.plane]? with | some r => r.e | none => 0
  let best := have_.foldl (fun (r : Option JStripe) t =>
    match r with
    | some q => if edge q < edge t || (edge q == edge t && t.plane < q.plane) then some t else r
    | none => some t) none
  match best.bind (·.data) with
  | some (_, _, ts) => ts.getD tc 0xFFFFFFFF
  | none => 0xFFFFFFFF

/-- The statistics record but for RECORD_CRC: bytes 0 to 59, and from byte 64 on (R189). With PROFILE_BAD every flicker figure,
FLK_RANGE included, is 0 (R187; log entry 106). -/
def statsParts (f : JFrame) (pr : Option Profile) : List Byte × List Byte :=
  let flk := match pr with | some p => flicker p f.cfg.flkPeriod | none => (0, 0, false)
  let head := leBytes 4 335744 ++ leBytes 2 1 ++ leBytes 1 f.snap.prog.planeCount ++
    leBytes 1 (flagBits [pr.isNone, flk.2.2]) ++ leBytes 8 f.snap.frame ++ leBytes 4 f.snap.prog.gen ++
    leBytes 2 f.snap.nEff ++ leBytes 1 f.snap.t ++ leBytes 1 0 ++ leBytes 8 f.snap.cad1Stamp ++ leBytes 4 f.snap.l ++
    leBytes 2 f.snap.g ++ leBytes 2 0 ++ leBytes 4 f.cfg.flkPeriod ++ leBytes 2 f.marks.toNat ++
    leBytes 1 f.snap.prog.drainFirst ++ leBytes 1 f.snap.prog.drainLast ++
    leBytes 8 (match pr with | some p => p.reads | none => 0) ++ leBytes 4 0
  let profile := match pr with
    | some p => (List.range 4096).flatMap (fun i => leBytes 4 (p.p.getD i 0))
    | none => leBytes 16384 0
  let spectrum := match pr with
    | some p => (List.range 128).flatMap (fun m => leBytes 8 (spectrumBin p m))
    | none => leBytes 1024 0
  let tallies := (List.range 145).flatMap (fun s => (List.range 274).flatMap (fun tc => leBytes 4 (recordTally f s tc)))
  let sections := (List.range 4).flatMap (fun k => match f.stats[k]? with
    | some st => planeSection st
    | none => leBytes 39808 0)
  (head, profile ++ spectrum ++ leInt 8 flk.1 ++ leInt 8 flk.2.1 ++ leBytes 48 0 ++ tallies ++ leBytes 56 0 ++ sections)

/-- The statistics record, RECORD_CRC over the whole with its own bytes taken as 0. -/
def statsRecord (f : JFrame) (pr : Option Profile) : List Byte :=
  let (head, rest) := statsParts f pr
  head ++ leBytes 4 (crc32c (head ++ leBytes 4 0 ++ rest)).toNat ++ rest

/-- Length of a statistics record (R189). -/
def statsLen : Nat := 335744

end Sys2Proof.Machine
end

