-- ==== Sys2Proof/Machine/Disc.lean ====
section
/-! DEFINITION. Quartz DISC: the discipline loop, its states, loss, glitch, the 10 s window, acquisition and relocking
(05 R111 to R126). -/

namespace Sys2Proof.Machine

/-! ### Kinds (05 R111) -/

/-- REF_CFG as the register holds it, each field at the nearest value in range (R137). -/
def refCfgNow (b : Block) : RefCfg :=
  let k := b.field 0x1200 2 0
  { kind := if 4 < k then 0 else k
    edge := b.field 0x1200 3 3 == 1
    ratio := min 8 (max 1 (b.field 0x1200 7 4))
    filt := b.field 0x1200 31 16 }

/-- REF_IN edges to a compare event. -/
def edgesPerCompare : Nat → Nat
  | 1 => 10000 | 2 => 27000 | 3 => 48 | _ => 1

/-- RELOAD of CAD1 in force, 0 before any. -/
def capReload (b : Block) : Nat := match b.quartz.cap with | some c => c.reload | none => 0

/-- Expected compare period, ticks. -/
def refPeriod (b : Block) : Nat :=
  if b.disc.cfg.kind = 4 then b.disc.cfg.ratio * b.quartz.capL else 1024000

/-- Nominal ticks of one compare period as a ratio (R123): dither included for FSYNC. -/
def refNominal (b : Block) : Nat × Nat :=
  if b.disc.cfg.kind = 4 then
    match b.quartz.cap with
    | some c => (b.disc.cfg.ratio * ((c.reload + 1) * c.dden + c.dnum), c.dden)
    | none => (0, 1)
  else (1024000, 1)

/-- Loss limit, ticks. -/
def refLossLimit (b : Block) : Nat :=
  match b.disc.cfg.kind with
  | 1 => 410 | 2 => 152 | 3 => 85334 | _ => 4 * b.disc.cfg.ratio * (capReload b + 2)

/-- Phase window, ticks either way. -/
def refPhaseWindow (b : Block) : Int :=
  match b.disc.cfg.kind with
  | 1 => 12 | 2 => 4 | 3 => 2666 | _ => ((b.disc.cfg.ratio * (capReload b + 1)) / 8 : Nat)

/-- Lock window, ticks either way. -/
def refLockWindow (b : Block) : Int :=
  match b.disc.cfg.kind with
  | 1 => 3 | 2 => 2 | 3 => 666 | _ => ((b.disc.cfg.ratio * (capReload b + 1)) / 32 : Nat)

/-- FSYNC_OFFSET as the register holds it, 0 to RELOAD (R137). -/
def fsyncOffset (b : Block) : Nat := min (b.reg 0x1204) (capReload b)

/-- The offset in use: the adopted one while PHASE_ADOPTED is set (R114), in a pull the one found at its first compare
event (R124 step 2), else FSYNC_OFFSET as the last alignment took it (R138). -/
def refOffset (b : Block) : Int :=
  if b.disc.phaseAdopted then b.disc.adopted else b.disc.pullOffset.getD b.disc.offset

/-! ### Measurements (05 R123, R124) -/

/-- A measurement that opens at `t`. -/
def windowOpen (t : Nat) (first : Option Nat) : MeasureWindow :=
  { opened := t, first, last := first.getD t, periods := 0, corrSum := 0, corrCount := 0 }

/-- A compare event enters a measurement. -/
def windowStep (m : MeasureWindow) (stamp : Nat) (corr : Int) : MeasureWindow :=
  let m := { m with corrSum := m.corrSum + corr, corrCount := m.corrCount + 1 }
  match m.first with
  | none => { m with first := some stamp, last := stamp }
  | some _ => { m with last := stamp, periods := m.periods + 1 }

/-- `window_offset` (R123): round(10^12 (n_expected (1 + c_mean) / n_ticks − 1)), in ppt; c_mean in ppt. -/
def windowOffset (b : Block) (m : MeasureWindow) : Int :=
  let (num, den) := refNominal b
  let ticks := m.last - m.first.getD m.last
  let cnt := max 1 m.corrCount
  let d := den * ticks * cnt
  if d = 0 then 0
  else roundDiv ((m.periods * num : Nat) * ((10 ^ 12 * cnt : Nat) + m.corrSum) - (10 ^ 12 * d : Nat)) d

/-- Mean CORR over a measurement. -/
def windowMean (m : MeasureWindow) : Int := roundDiv m.corrSum (max 1 m.corrCount)

/-! ### Transitions (05 R118) -/

/-- Does the row that already waits stand against one to `goal`? The row to HOLDOVER wins (R118); a row to the same state
keeps its tick; a Take's start that abandons an acquisition is not undone by its lock criterion (log entry 97). -/
def pendStands (p : DiscPending) (goal : DiscState) : Bool :=
  p.goal == .holdover || p.goal == goal || (p.goal == .free && goal == .locked)

/-- A condition leads to a state at the next CAD1 event. -/
def discPend (goal : DiscState) (cause : HoldCause) (b : Block) : Block :=
  b.modDisc (fun d =>
    if d.pending.any (pendStands · goal) then d else { d with pending := some { goal, cause, since := b.quartz.tb } })

/-- REF_EVENT: a loss, glitch or window outside tolerance detected on tick `t` (R121). -/
def refMark (t : Nat) (d : Disc) : Disc := { d with refEvent := some ((d.refEvent.map (·.1)).getD t, t) }

/-- CORR and `acc` freeze at once (R119). -/
def discFreeze (t : Nat) (d : Disc) : Disc := { d with frozen := true, frozenAt := t }

/-- Qualification starts afresh at once (R124 step 1); a second that begins with the reference lost shows loss. -/
def discQualify (b : Block) : Block :=
  let t := b.quartz.tb
  b.modDisc (fun d => { d with
    step := .qualifying, stepAt := t, qualBad := d.lost, measure := windowOpen t none, lockRun := 0, checkBad := false
    expect := none, pullOffset := none })

/-- ACQUIRE is entered at once, with qualification (R118, R124). -/
def discAcquire (b : Block) : Block := discQualify (b.modDisc (fun d => { d with
  state := .acquire, pending := none, frozen := false }))

/-- A Take is open as DISC sees it: from the latch point that opens it to its end (04 R96, R97); a START that only waits
opens none (log entry 68). -/
def Block.takeRuns (b : Block) : Bool := b.garnet.take.isSome

/-- A Take is open, or its START has been accepted and it has not started (04 R88 row 1): Opal's Take state, a START that
Opal holds (04 R92) or that waits at Garnet, or a start whose latch notice is on its way. -/
def Block.takeAccepted (b : Block) : Bool :=
  b.opal.takeOpen || b.opal.held.isSome || b.garnet.start.isSome || b.ch.noticeOpal.any (·.takeStart.isSome)

/-- The rows of R118 that act at once: FREE with a KIND and no Take, HOLDOVER with a qualified reference and no Take. A
HOLDOVER that a KIND of NONE brought about stays HOLDOVER when the Take ends with KIND still NONE (log entry 69). An
accepted RELOCK that waits for its CAD1 event is not overtaken by the end of the Take (log entry 98). -/
def discSettle (b : Block) : Block :=
  if b.takeRuns then b
  else match b.disc.state with
    | .free =>
      let b := b.modDisc (fun d => { d with cfg := refCfgNow b })
      if b.disc.cfg.kind = 0 then b else discAcquire b
    | .holdover => if b.disc.refQual && b.disc.pending.isNone then discAcquire b else b
    | _ => b

/-- A failed acquisition: qualification restarts and REF_BAD is posted (R118). -/
def discRestart (b : Block) : Block :=
  postEvent evRefBad frameNone (evData [b.disc.cfg.kind]) (discQualify b)

/-- A HOLDOVER event's DATA (08, table Event codes). -/
def holdCauseCode : HoldCause → Nat
  | .loss => 0 | .glitch => 1 | .window => 2 | .kindNone => 3 | .takeStart => 4

/-- Entry into the state that was pending, at a CAD1 event stamped `t`. The first 10 s window after entry to LOCKED opens
at that event's tick (R123 names no instant for it; log entry 70). -/
def discEnter (p : DiscPending) (t : Nat) (b : Block) : Block :=
  let b := b.modDisc (fun d => { d with state := p.goal, pending := none, frozen := false })
  match p.goal with
  | .free => discQualify (b.modDisc (fun d => { d with corr := 0, acc := 0, window := none }))
  | .locked =>
    let first := b.disc.window.isNone
    let b := b.modDisc (fun d => { d with
      hold := d.corr, holdValid := true, step := if first then .pulling else d.step
      window := if first then some (windowOpen t none) else d.window })
    postEvent evLocked frameNone (evData [b.disc.cfg.kind]) b
  | .suspect => b.modDisc (fun d => { d with corr := d.hold })
  | .holdover =>
    let b := b.modDisc (fun d => { d with corr := d.hold, window := none })
    postEvent evHoldover frameNone (evData [holdCauseCode p.cause]) (discQualify b)
  | .relocking => b.modDisc (fun d => { d with window := none })
  | .acquire => discQualify b

/-- A way to LOCKED or RELOCKING that waits for its CAD1 event does not outlive the reference it rests on. -/
def discUnlock (d : Disc) : Disc :=
  match d.pending with
  | some p => if p.goal = .locked || p.goal = .relocking then { d with pending := none } else d
  | none => d

/-- What loss detected on tick `t` changes in every state (R121): counted, REF_EVENT, the reference no longer qualified. -/
def lossCount (t : Nat) (d : Disc) : Disc :=
  { refMark t d with loss := satAdd 255 d.loss 1, refQual := false, edges := 0, qualBad := true }

/-- Loss is declared (R121): counted, REF_EVENT, and the rows of R118 and R119. -/
def discLoss (b : Block) : Block :=
  let b := b.modDisc (fun d => discUnlock { lossCount b.quartz.tb d with lost := true })
  match b.disc.state with
  | .free => b
  | .acquire => discRestart b
  | .holdover => b
  | .locked | .suspect | .relocking => discPend .holdover .loss (b.modDisc (discFreeze b.quartz.tb))

/-- A glitch is declared (R121); in LOCKED, REF_SUSPECT and RELOCKING CORR freezes (R119). -/
def discGlitch (b : Block) : Block :=
  let b := b.modDisc (fun d => { refMark b.quartz.tb d with glitch := satAdd 255 d.glitch 1 })
  match b.disc.state with
  | .locked | .suspect => discPend .holdover .glitch (b.modDisc (discFreeze b.quartz.tb))
  | .relocking => b.modDisc (discFreeze b.quartz.tb)
  | _ => b

/-- The loop runs: LOCKED, ACQUIRE after qualification, RELOCKING after convergence (R114). -/
def loopRuns (d : Disc) : Bool :=
  match d.state with
  | .locked => true
  | .acquire => d.step != .qualifying
  | .relocking => match d.pending with | some p => p.goal == .locked | none => false
  | _ => false

/-- Stamp of the CAD1 event nearest to a compare event at `stamp` with an offset: the one before or the one after. -/
def nearestCad1 (b : Block) (stamp off : Int) : Int :=
  let a : Int := b.quartz.cad1At
  let z : Int := b.quartz.cad1At + b.quartz.capL
  if (stamp + off - a).natAbs ≤ (stamp + off - z).natAbs then a else z

/-- An FSYNC pull is on: its step, and that of the alignment that follows until it takes effect (R124). -/
def fsyncPull (d : Disc) : Bool :=
  d.cfg.kind == 4 && d.state == .acquire && (d.step == .pulling || d.step == .aligning)

/-- CAD1 events run at the fields in force, so that a compare event has one that matches it: not in a bridge. -/
def cad1Regular (b : Block) : Bool := b.quartz.cap.isSome && b.quartz.bridge.isNone

/-- `expect` at a compare event (R114); none where no prediction stands: in the qualification of ACQUIRE, at the first
compare event of a pull, and under FSYNC where no CAD1 event matches (log entry 19). -/
def discExpect (b : Block) (stamp : Nat) : Option Int :=
  if b.disc.state == .acquire && b.disc.step == .qualifying then none
  else if b.disc.cfg.kind = 4 then
    if !cad1Regular b || (fsyncPull b.disc && b.disc.pullOffset.isNone) then none
    else some (nearestCad1 b stamp (refOffset b) - refOffset b)
  else b.disc.expect

/-- One update of the loop (R114). -/
def loopStep (period : Nat) (err : Int) (d : Disc) : Disc :=
  let acc := d.acc + (err * period) / 1024000
  { d with acc, corr := clampInt (-(640 * err + acc / 5)) (-50000000) 50000000 }

/-- The 10 s window closes at a compare event (R123). -/
def windowClose (stamp : Nat) (b : Block) : Block :=
  match b.disc.window with
  | none => b
  | some m =>
    if stamp < m.opened + 10240000000 then b
    else
      let off := windowOffset b m
      let tol : Int := (10000 * min 5000 (max 100 (b.field 0x1208 15 0)) : Nat)
      let b := b.modDisc (fun d => { d with winOffset := off, window := some (windowOpen stamp (some stamp)) })
      if tol < (off.natAbs : Int) then
        let b := b.modDisc (fun d => { refMark b.quartz.tb d with suspect := satAdd 255 d.suspect 1 })
        match b.disc.state with
        | .locked => discPend .suspect .window b
        | .suspect => discPend .holdover .window b
        | _ => b
      else
        match b.disc.state with
        | .locked => b.modDisc (fun d => { d with hold := windowMean m })
        | .suspect => discPend .locked .window b
        | _ => b

/-- The running 1 s measurement closes at a compare event (R126). -/
def measureClose (stamp : Nat) (b : Block) : Block :=
  let m := b.disc.measure
  if m.opened + 1024000000 ≤ stamp && 0 < m.periods then
    let off := windowOffset b m
    b.modDisc (fun d => { d with measured := off, measure := windowOpen stamp (some stamp) })
  else b

/-- Lock criterion of the clock kinds, and the check after an FSYNC alignment (R124). -/
def lockStep (err : Int) (b : Block) : Block :=
  let inside := err.natAbs ≤ (refLockWindow b).natAbs
  match b.disc.state, b.disc.step with
  | .acquire, .pulling =>
    let b := b.modDisc (fun d => { d with lockRun := if inside then d.lockRun + 1 else 0 })
    if b.disc.cfg.kind != 4 && 2000 ≤ b.disc.lockRun then discPend .locked .loss b else b
  | _, .checking => if inside then b else b.modDisc (fun d => { d with checkBad := true })
  | _, _ => b

/-- The measurements and `expect` take a compare event at `stamp`: `expect` is predicted again from it where the loop
does not run, else advanced by a period (log entry 19). -/
def compareTake (stamp : Nat) (b : Block) : Block :=
  let free := !(loopRuns b.disc || b.disc.state == .suspect) || b.disc.expect.isNone
  let period := refPeriod b
  b.modDisc (fun d => { d with
    expect := some (if free then (stamp : Int) + period else d.expect.getD 0 + period)
    measure := windowStep d.measure stamp d.corr
    window := d.window.map (fun m => windowStep m stamp d.corr) })

/-- The 1 s measurement at a compare event; one that qualifies closes at QUALIFICATION_END instead. -/
def compareMeasure (stamp : Nat) (b : Block) : Block :=
  if b.disc.step == .qualifying && !b.disc.refQual then b else measureClose stamp b

/-- The first compare event of an FSYNC pull gives the pull its offset (R124). -/
def comparePull (stamp : Nat) (b : Block) : Block :=
  if fsyncPull b.disc && cad1Regular b then
    b.modDisc (fun d => { d with pullOffset := some (nearestCad1 b stamp 0 - stamp) })
  else b

/-- After convergence of RELOCKING under FSYNC the first `err` is the offset adopted (R126). -/
def compareAdopt (err : Int) (b : Block) : Block :=
  b.modDisc (fun d => { d with adoptNext := false, adopted := err, phaseAdopted := true })

/-- A compare event at `stamp` with the error `err` (R114, R121, R123, R124, R126). The event whose `err` is adopted has
no error of its own: it is neither a glitch nor an update of the loop. -/
def compareErr (stamp : Nat) (err : Int) (b : Block) : Block :=
  if b.disc.adoptNext then compareMeasure stamp (windowClose stamp (compareAdopt err b)) else
  let b := if (refPhaseWindow b).natAbs < err.natAbs then discGlitch b else b
  if b.disc.frozen then b
  else
    let period := refPeriod b
    let b := if loopRuns b.disc then b.modDisc (loopStep period err) else b
    let b := lockStep err b
    let b := windowClose stamp b
    compareMeasure stamp b

/-- A compare event at `stamp` (R114, R115, R121, R123, R124, R126). -/
def compareAt (stamp : Nat) (b : Block) : Block :=
  let err : Option Int := (discExpect b stamp).map (fun e => (stamp : Int) - e)
  let b := b.logEvr .quartz 0x01 (leBytes 1 b.disc.cfg.kind ++ leInt 4 (err.getD 0)) [] (some stamp)
  let b := compareTake stamp b
  match err with
  | none => compareMeasure stamp (windowClose stamp (comparePull stamp b))
  | some e => compareErr stamp e b

/-! ### Commands -/

/-- Filter length of REF_IN, ticks (R112): for clock kinds at most a quarter of the input period. -/
def refFilter (c : RefCfg) : Nat :=
  match c.kind with
  | 1 => min c.filt 25 | 2 => min c.filt 9 | 3 => min c.filt 5333 | _ => c.filt

/-- An input at `level` since a tick, held for `held` ticks, is an edge of the polarity EDGE selects (0: rising, 1:
falling; R137) that has passed a filter of `filt` ticks (R112). -/
def edgeCounts (edge level : Bool) (filt held : Nat) : Bool := level != edge && filt ≤ held

/-- REF_IN_EDGE (R112): the input reached `level` on tick `stamp` and held it for `held` ticks. An edge that counts is
stamped with that tick once the filter length is over; REF_IN is ignored after loss or glitch until the state changes
(R119). -/
def refInEdge (stamp : Nat) (level : Bool) (held : Nat) (b : Block) : Block :=
  let c := b.disc.cfg
  if c.kind = 0 || b.disc.frozen || !edgeCounts c.edge level (refFilter c) held then b
  else (b.advance (stamp + refFilter c)).modDisc (fun d => { d with
    edges := d.edges + 1, lastEdge := stamp, lost := false })

/-- COMPARE_EVENT (R114): the count of edges has reached a compare event. -/
def compareEvent (b : Block) : Block :=
  let n := edgesPerCompare b.disc.cfg.kind
  if b.disc.cfg.kind = 0 || b.disc.frozen || b.disc.edges < n then b
  else compareAt b.disc.lastEdge ((b.advance b.disc.lastEdge).modDisc (fun d => { d with edges := d.edges - n }))

/-- REF_LOSS (R121): no edge has counted for the loss limit. -/
def refLoss (b : Block) : Block :=
  if b.disc.cfg.kind = 0 || b.disc.lost then b
  else discLoss (b.advance (b.disc.lastEdge + refLossLimit b))

/-- QUALIFICATION_END (R124): one second of qualification has run, in ACQUIRE, or in HOLDOVER or FREE (R115). -/
def qualificationEnd (b : Block) : Block :=
  let run := b.disc.cfg.kind != 0 && b.disc.step == .qualifying &&
    (b.disc.state == .acquire || b.disc.state == .holdover || b.disc.state == .free)
  if !run then b
  else
    let b := b.advance (b.disc.stepAt + 1024000000)
    let m := b.disc.measure
    let off := windowOffset b m
    if b.disc.qualBad || m.periods = 0 || 50000000 < off.natAbs then discQualify b
    else
      let t := b.quartz.tb
      let b := b.modDisc (fun d => { d with refQual := true, measured := off })
      match b.disc.state with
      | .acquire => b.modDisc (fun d => { d with
          step := .pulling, stepAt := t, qualAt := t, corr := clampInt off (-50000000) 50000000, acc := -5 * off
          expect := none, lockRun := 0, measure := windowOpen t none })
      | _ => discSettle (discQualify b)

/-- ACQUIRE_TIMEOUT (R118): 20 s after qualification without lock. -/
def acquireTimeout (b : Block) : Block :=
  if b.disc.state == .acquire && b.disc.step != .qualifying && b.disc.pending.isNone then
    discRestart (b.advance (b.disc.qualAt + 20480000000))
  else b

/-- Stage a capture cadence apply with the fields in force whose ALIGN is a predicted FSYNC stamp plus FSYNC_OFFSET, the
first that R90 allows (R124 step 3); the prediction steps by FSYNC_RATIO times the period in progress, dither of the
periods to come left out (log entry 99). Nothing while another apply is pending or no cadence is in force. -/
def stageAlignment (b : Block) : Block :=
  match b.quartz.cap, b.quartz.staged with
  | some c, none =>
    let t := b.quartz.tb
    let p := max 1 (b.disc.cfg.ratio * b.quartz.capL)
    let bound := t + 3 * (c.reload + 2)
    let base := b.disc.lastEdge + fsyncOffset b
    let align := base + ceilDiv (bound - base) p * p
    (b.modQuartz (fun q => { q with staged := some { cad := c, align, arrival := t, own := true }, capState := 2 })).modDisc
      (fun d => { d with alignOffset := (fsyncOffset b : Int) })
  | _, _ => b

/-- ALIGNMENT_STAGE (R124): 2 s of FSYNC pull have run. -/
def alignmentStage (b : Block) : Block :=
  if b.disc.state == .acquire && b.disc.step == .pulling && b.disc.cfg.kind == 4 && b.quartz.cap.isSome &&
      b.quartz.staged.isNone then
    let b := stageAlignment (b.advance (b.disc.stepAt + 2048000000))
    b.modDisc (fun d => { d with step := .aligning })
  else b

/-- ALIGNMENT_CHECK_END (R124): the 2 s after an alignment end. After a realignment that followed a Take (R126) DISC is in
LOCKED or REF_SUSPECT already and stays there; a failed check starts qualification again (log entry 71), unless HOLDOVER
already waits (R118). -/
def alignmentCheckEnd (b : Block) : Block :=
  if b.disc.step != .checking then b
  else
    let b := b.advance (b.disc.stepAt + 2048000000)
    match b.disc.state with
    | .acquire => if b.disc.checkBad then discQualify b else discPend .locked .loss b
    | .locked | .suspect =>
      if b.disc.checkBad && !b.disc.pending.any (·.goal == .holdover) then discAcquire b
      else b.modDisc (fun d => { d with step := .pulling })
    | _ => b

/-- RELOCK (R126): completes at once. -/
def relock (desc : Nat) (b : Block) : Block :=
  match b.dispatched ctrlRing desc 0x0F with
  | none => b
  | some d =>
    let slew := leAt d 16 2
    if 100 < slew then finishCtrl desc stMalformed frameNone 0 16 b
    else if b.disc.state != .holdover then finishCtrl desc stNotHoldover frameNone 0 0 b
    else if !b.disc.refQual then finishCtrl desc stRefAbsent frameNone 0 0 b
    else
      let ppt : Int := (10000 * (if slew = 0 then 100 else slew) : Nat)
      let b := discPend .relocking .loss (b.modDisc (fun d => { d with slew := ppt }))
      finishCtrl desc stOk frameNone 0 0 b

/-- The latch point of a Take's start boundary falls in ACQUIRE with no alignment staged (R118, R125). -/
def discTakeStart (b : Block) : Block :=
  let staged := match b.quartz.staged with | some s => s.own | none => false
  if b.disc.state == .acquire && !staged then
    discPend (if b.disc.holdValid then .holdover else .free) .takeStart b
  else b

/-! ### At a CAD1 event -/

/-- Slew of RELOCKING at a CAD1 event, and convergence (R126). -/
def relockSlew (t : Nat) (b : Block) : Block :=
  if b.disc.state != .relocking || b.disc.pending.isSome || b.disc.frozen then b
  else
    let goal := clampInt b.disc.measured (-50000000) 50000000
    let diff := goal - b.disc.corr
    if (diff.natAbs : Int) ≤ b.disc.slew then
      b.modDisc (fun d => { d with
        corr := goal, acc := -5 * goal, expect := none, adoptNext := d.cfg.kind == 4
        pending := some { goal := .locked, cause := .loss, since := t } })
    else b.modDisc (fun d => { d with corr := d.corr + (if 0 < diff then d.slew else -d.slew) })

/-- A write of REF_CFG, at the tick it is made (R118, R122): it waits for the CAD1 event after it. -/
def refCfgWrite (old new : RefCfg) (b : Block) : Block :=
  let loss := old.kind != new.kind || old.edge != new.edge || old.ratio != new.ratio
  b.modDisc (fun d => { d with changes := d.changes ++ [{ at_ := b.quartz.tb, cfg := new, loss, take := b.takeRuns }] })

/-- What a change that acts as loss does to the state, at the CAD1 event at which it is handled (R118, R122). A row to
HOLDOVER that the period has brought already wins. -/
def refChangeState (c : RefChange) (b : Block) : Block :=
  let p (goal : DiscState) (cause : HoldCause) : Block :=
    b.modDisc (fun d => if d.pending.any (·.goal == .holdover) then d else
      { d with pending := some { goal, cause, since := 0 } })
  if c.cfg.kind = 0 then
    match b.disc.state with
    | .free => b
    | .holdover => if c.take then b else p .free .kindNone
    | _ => if c.take then p .holdover .kindNone else p .free .kindNone
  else match b.disc.state with
    | .locked | .suspect | .relocking => p .holdover .loss
    | .acquire => discRestart b
    | .free | .holdover => discQualify b

/-- What R122 makes of the changes that waited for the CAD1 event at `t`: those made before its tick. The loss they act as
lies in the period that ends. -/
def refCfgChange (t : Nat) (b : Block) : Block :=
  let due := b.disc.changes.filter (fun c => c.at_ < t)
  let b := b.modDisc (fun d => { d with changes := d.changes.filter (fun c => t ≤ c.at_) })
  match due.getLast? with
  | none => b
  | some last =>
    let b := b.modDisc (fun d => { d with cfg := last.cfg })
    if !due.any (·.loss) then b
    else
      let none_ := (due.filter (fun c => c.loss && c.cfg.kind == 0)).getLast?
      let b := b.modDisc (fun d => discUnlock (lossCount (t - 1) d))
      refChangeState { last with take := (none_.map (·.take)).getD last.take } b

/-- DISC at a CAD1 event stamped `t` (R116, R118, R119, R122, R126): `newCad` for the first event of a new cadence,
`own` when DISC staged it. Answers REF_EVENT of the period that ends (R136) as well. -/
def discAtCad1 (t : Nat) (newCad own : Bool) (b : Block) : Block × Bool :=
  let b := refCfgChange t b
  -- under FSYNC the first CAD1 event of a new cadence acts as loss at the event after it (R122)
  let b := if newCad && !own && b.disc.cfg.kind == 4 then
      b.modDisc (fun d => { d with changes := { at_ := t, cfg := d.cfg, loss := true, take := false } :: d.changes })
    else b
  let ev := b.disc.refEvent.any (fun e => e.1 < t)
  let b := b.modDisc (fun d => { d with refEvent := d.refEvent.bind (fun e => if e.2 < t then none else some (e.2, e.2)) })
  let b := if b.disc.frozen && b.disc.frozenAt < t then b.modDisc (fun d => { d with corr := d.hold }) else b
  let b :=
    match b.disc.pending with
    | some p => if p.since < t then discEnter p t b else b
    | none => b
  -- an alignment takes effect: its offset is in use from here on, and PHASE_ADOPTED clears (R126, R138)
  let b :=
    if newCad && own then
      b.modDisc (fun d => { d with offset := d.alignOffset, pullOffset := none, phaseAdopted := false })
    else b
  let b :=
    if newCad && own && b.disc.step == .aligning then
      b.modDisc (fun d => { d with step := .checking, stepAt := t, checkBad := false })
    else b
  let b := relockSlew t b
  let b := discSettle b
  -- with no Take open an adopted phase is given up: by an alignment in LOCKED and REF_SUSPECT, at once where ACQUIRE will
  -- align (R126)
  if !b.disc.phaseAdopted || b.takeRuns then (b, ev)
  else match b.disc.state with
    | .locked | .suspect =>
      (if b.quartz.staged.isNone then (stageAlignment b).modDisc (fun d => { d with step := .aligning }) else b, ev)
    | .relocking => (b, ev)
    | _ => (b.modDisc (fun d => { d with phaseAdopted := false }), ev)

end Sys2Proof.Machine
end

