-- ==== Sys2Proof/Machine/Tod.lean ====
section
/-! DEFINITION. Quartz TCG: PPS edges, time-of-day pairings, Epochs, time code and the time record (05 R127 to R138). -/

namespace Sys2Proof.Machine

/-- Time of day of a Time Base value under a pairing, nanoseconds of the PTP timescale (R130). -/
def todNs (p : Pairing) (t : Nat) : Int :=
  ((p.seconds * 10 ^ 9 + p.ns : Nat) : Int) + (((t : Int) - p.stamp) * (10 ^ 9 : Nat)) / (max 1 p.ticks : Nat)

/-- D_q (R130). -/
def ppsTicks (t : Tod) (q stamp : Nat) : Nat :=
  match t.pps.find? (fun e => q != 0 && e.1 == q - 1) with
  | some (_, p) =>
    let d := stamp - p
    if 1022976000 ≤ d && d ≤ 1025024000 then d else 1024000000
  | none => 1024000000

/-- The Epoch after this one (R132). -/
def nextEpoch (e : Nat) : Nat := if e = 65535 then 1 else e + 1

/-- STEP_TOL in force (R137). -/
def stepTol (t : Tod) : Nat := min 1000000000 (max 1000 t.stepTol.toNat)

/-- Does accepting this pairing open an Epoch (R132)? -/
def opensEpoch (t : Tod) (p : Pairing) (force : Bool) : Bool :=
  t.epoch == 0 || force ||
    match t.pairing with
    | some old => decide (stepTol t < (((p.seconds * 10 ^ 9 + p.ns : Nat) : Int) - todNs old p.stamp).natAbs)
    | none => true

/-- PPS_IN_EDGE (R112, R128): the input reached `level` on tick `stamp` and held it for `held` ticks. An edge of the
polarity PPS_CFG.EDGE selects that passes PPS_FILT takes the next number, and is accepted or rejected (log entry 66). -/
def ppsInEdge (stamp : Nat) (level : Bool) (held : Nat) (b : Block) : Block :=
  let filt := bitsOf b.tod.ppsCfg.toNat 31 16
  if !edgeCounts (b.tod.ppsCfg.getLsbD 0) level filt held then b else
  let b := b.advance (stamp + filt)
  let early := match b.tod.pps with | (_, p) :: _ => stamp < p + 1023000000 | [] => false
  let q := b.tod.ppsSeq
  let b := b.logEvr .quartz 0x02 (leBytes 4 q ++ leBytes 1 (bit (!early))) [] (some stamp)
  let b := b.modTod (fun t => { t with ppsSeq := (q + 1) % 2 ^ 32 })
  if early then b.modDisc (fun d => { d with ppsReject := satAdd 255 d.ppsReject 1 })
  else
    let b := b.modTod (fun t => { t with pps := ((q, stamp) :: t.pps).take 8 })
    postEventAt stamp evPps frameNone (leBytes 4 q) b

/-- TIME_OF_DAY (R129, R132). The first message since power-up changes no GM_ID: there is none to differ from (log entry
72). -/
def timeOfDay (desc : Nat) (b : Block) : Block :=
  match b.dispatched ctrlRing desc 0x0D with
  | none => b
  | some d =>
    let seq := leAt d 16 4
    let ns := bitsOf (leAt d 20 4) 29 0
    let now := b.quartz.tb
    let flags := leAt d 34 1
    if 999999999 < ns then finishCtrl desc stMalformed frameNone 0 20 b
    else
      let edge : Option (Nat × Nat) :=
        if seq = 0xFFFFFFFF then some (now, 1024000000)
        else match b.tod.pps.find? (fun e => e.1 == seq) with
          | some (q, p) => if p + 4096000000 < now then none else some (p, ppsTicks b.tod q p)
          | none => none
      match edge with
      | none => finishCtrl desc stPpsUnknown frameNone 0 0 b
      | some (stamp, ticks) =>
        let p : Pairing := {
          stamp, ticks, seconds := bitsOf (leAt d 24 8) 47 0, ns
          utcOffset := signed 16 (leAt d 32 2), utcValid := bitOf flags 0, leap61 := bitOf flags 1
          leap59 := bitOf flags 2, coarse := seq == 0xFFFFFFFF }
        let gm := leAt d 40 8
        let known := b.tod.pairing.isSome || b.tod.staged.isSome
        -- an Epoch that already waits for the CAD1 event is not lost (log entry 66)
        let waiting := match b.tod.staged with | some (_, e) => e | none => b.tod.epoch
        let epoch := if opensEpoch b.tod p (bitOf flags 3) then nextEpoch b.tod.epoch else waiting
        let change := known && gm != b.tod.gmId
        let b := b.modTod (fun t => { t with staged := some (p, epoch), gmId := gm })
        let b := b.logEvr .quartz 0x07 (leBytes 4 seq ++ leBytes 1 stOk ++ leBytes 2 epoch)
        let b := if change then postEvent evGmChange frameNone (leBytes 6 gm) b else b
        finishCtrl desc stOk frameNone epoch 0 b

/-! ### Time code (R134, R135) -/

/-- TC_BASE in force. -/
def tcBase (t : Tod) : Nat := let v := bitsOf t.timeCfg.toNat 4 2; if 5 < v then 0 else v

/-- TC_SRC in force: 0 OFF, 1 TOD, 2 PRESET. -/
def tcSrc (t : Tod) : Nat := let v := bitsOf t.timeCfg.toNat 1 0; if v = 3 then 0 else v

/-- Frames per label. -/
def tcMult (t : Tod) : Nat := 2 ^ min 5 (bitsOf t.timeCfg.toNat 7 5)

/-- Label rate as a ratio, and labels per day (table Time code bases). -/
def tcRate : Nat → Nat × Nat × Nat
  | 1 => (25, 1, 2160000) | 2 => (30, 1, 2592000) | 3 => (24000, 1001, 2073600)
  | 4 => (30000, 1001, 2592000) | 5 => (30000, 1001, 2589408) | _ => (24, 1, 2073600)

/-- Labels in a second of label time. -/
def tcFrames (base : Nat) : Nat := if base = 0 || base = 3 then 24 else if base = 1 then 25 else 30

/-- Two BCD digits. -/
def bcd (v : Nat) : Nat := v / 10 * 16 + v % 10

/-- The label of count `c`, BCD (R135). -/
def tcLabel (base c : Nat) : Nat :=
  let c :=
    if base = 5 then
      let d := c / 17982
      let m := c % 17982
      c + 18 * d + (if 2 ≤ m then 2 * ((m - 2) / 1798) else 0)
    else c
  let nb := tcFrames base
  bcd (c / (nb * 3600) % 24) * 2 ^ 24 + bcd (c / (nb * 60) % 60) * 2 ^ 16 + bcd (c / nb % 60) * 2 ^ 8 + bcd (c % nb)

/-- Two BCD digits read back; digits above 9 carry (log entry 21). -/
def unbcd (v : Nat) : Nat := v / 16 * 10 + v % 16

/-- The count of a preset label: the label itself, or the next valid one (R135). Out-of-range fields carry into the
next higher field at its start (log entry 21). -/
def tcCount (base label : Nat) : Nat :=
  let nb := tcFrames base
  let ff := unbcd (bitsOf label 7 0)
  let ss := unbcd (bitsOf label 15 8)
  let mm := unbcd (bitsOf label 23 16)
  let hh := unbcd (bitsOf label 31 24)
  if 24 ≤ hh then 0
  else
    -- label time in frames, fields in range or moved to the start of the next higher field
    let (mm, ss, ff) := if 60 ≤ mm then (60, 0, 0) else if 60 ≤ ss then (mm + 1, 0, 0)
      else if nb ≤ ff then (mm, ss + 1, 0) else (mm, ss, ff)
    let n := ((hh * 60 + mm) * 60 + ss) * nb + ff
    if base = 5 then
      let mins := n / 1800
      let f := n % 1800
      let n := if mins % 10 != 0 && f < 2 then mins * 1800 + 2 else n
      (n - 2 * (mins - mins / 10)) % 2589408
    else n % (nb * 86400)

/-- LOCAL_OFFSET in force (R137). -/
def localOffset (t : Tod) : Int := clampInt (signed 32 t.localOffset.toNat) (-86399) 86399

/-- The label and the frame within it at a CAD1 event stamped `t` (R134, R135). Under PRESET only a write of TC_PRESET
starts the count; before the first the label stands at 00:00:00:00 (log entry 74). -/
def timeCode (td : Tod) (t : Nat) : Nat × Nat :=
  let base := tcBase td
  let mult := tcMult td
  let (num, den, day) := tcRate base
  match tcSrc td with
  | 1 =>
    match td.pairing with
    | some p =>
      if td.epoch = 0 then (0, 0)
      else
        let lab := todNs p t + (localOffset td - p.utcOffset) * (10 ^ 9 : Nat)
        let f := roundDiv (lab * (num * mult : Nat)) (den * 10 ^ 9)
        (tcLabel base ((f / (mult : Int)) % (day : Int)).toNat, (f % (mult : Int)).toNat)
    | none => (0, 0)
  | 2 =>
    match td.presetF with
    | some f => (tcLabel base (f / mult % day), f % mult)
    | none => (0, 0)
  | _ => (0, 0)

/-! ### At a CAD1 event -/

/-- TCG at a CAD1 event: the staged pairing and Epoch (R132), the settings (R138), the preset count (R135). A message whose
command comes before CAD1_EVENT is accepted before that event, on the event's own tick too (log entry 100). -/
def todAtCad1 (b : Block) : Block :=
  let reg (off : Nat) : Word := BitVec.ofNat 32 (b.reg off)
  b.modTod (fun t =>
    let t := match t.staged with
      | some (p, e) => { t with pairing := some p, epoch := e, staged := none }
      | none => t
    let t := { t with ppsCfg := reg 0x120C, timeCfg := reg 0x1210, localOffset := reg 0x1214, stepTol := reg 0x1218 }
    match t.presetWait with
    | some w => { t with presetF := some (tcCount (tcBase t) w.toNat * tcMult t), presetWait := none }
    | none => { t with presetF := t.presetF.map (· + 1) })

/-- Codes of the discipline states (R116). -/
def discCode : DiscState → Nat
  | .free => 0 | .acquire => 1 | .locked => 2 | .suspect => 3 | .holdover => 4 | .relocking => 5

/-- The time record of the CAD1 event stamped `t` (R136). TC_DF is clear while TC_SRC is OFF, TC_BASE 5 included (log
entry 73). -/
def timeRecordAt (t : Nat) (refEvent : Bool) (b : Block) : TimeRecord :=
  let td := b.tod
  let (tc, idx) := timeCode td t
  let base : TimeRecord := {
    cad1Stamp := t, refState := discCode b.disc.state, refEvent, phaseAdopted := b.disc.phaseAdopted
    epoch := td.epoch, todValid := false, todCoarse := false, todStale := false, todSeconds := 0, todNs := 0
    utcOffset := 0, tc := BitVec.ofNat 32 tc, tcIndex := idx, tcDf := tcBase td == 5 && tcSrc td != 0
    corr := b.disc.corr }
  match td.pairing with
  | some p =>
    if td.epoch = 0 then base
    else
      let n := (todNs p t).toNat
      { base with
        todValid := true, todCoarse := p.coarse, todStale := p.stamp + 4096000000 < t
        todSeconds := n / 10 ^ 9 % 2 ^ 48, todNs := n % 10 ^ 9, utcOffset := p.utcOffset }
  | none => base

/-- A TIME_REC trace entry's payload and continuation: the record's fields other than CAD1_STAMP, in order (12 R342). -/
def timeRecordTrace (r : TimeRecord) : List Byte × List (List Byte) :=
  let l := leBytes 1 r.refState ++ leBytes 1 (bit r.refEvent) ++ leBytes 1 (bit r.phaseAdopted) ++ leBytes 2 r.epoch ++
    leBytes 1 (flagBits [r.todValid, r.todCoarse, r.todStale]) ++ leBytes 6 r.todSeconds ++ leBytes 4 r.todNs ++
    leInt 2 r.utcOffset ++ leBytes 4 r.tc.toNat ++ leBytes 1 r.tcIndex ++ leBytes 1 (bit r.tcDf) ++ leInt 4 r.corr
  (l.take 16, [l.drop 16])

end Sys2Proof.Machine
end

