-- ==== Sys2Proof/Machine/Quartz.lean ====
section
/-! DEFINITION. Quartz TBC, CAD and STRB: the Time Base, the capture cadence and its changeover, channels CAD2 to CAD31,
strobes (04, 18 R468, R469). -/

namespace Sys2Proof.Machine

/-! ### Dither and periods (R83 to R86) -/

/-- One decision of a dither accumulator: the new accumulator, and whether the period that follows is long (R84). -/
def ditherStep (acc dnum dden : Nat) : Nat × Bool :=
  if dden ≤ acc + dnum then (acc + dnum - dden, true) else (acc + dnum, false)

/-- Length of the period that follows an event, with the new accumulator (R83, R84). -/
def nextPeriod (acc reload dnum dden : Nat) : Nat × Nat :=
  let (a, long) := ditherStep acc dnum dden
  (a, reload + 1 + bit long)

/-- CAD0 event j of the CAD1 period of L ticks that starts at c (R86). -/
def cad0Tick (c l g j : Nat) : Nat := c + j * l / g

/-! ### Events of a channel -/

/-- Strobe output `k`. -/
def Block.strobe (b : Block) (k : Nat) : Strobe := vget b.quartz.strobes k ⟨.idle, 0, false, 0⟩

/-- A strobe output meets an event of its SRC channel stamped `t` (R108, R109): DELAY and WIDTH as they stand. -/
def strobeTrigger (k t : Nat) (b : Block) : Block :=
  let s := b.strobe k
  let s' : Strobe :=
    match s.pulse with
    | .idle =>
      { s with pulse := .pending (t + 24 + b.field (0x1304 + 16 * k) 23 0) (max 1 (b.field (0x130C + 16 * k) 23 0)) }
    | _ => { s with drop := satAdd 65535 s.drop 1 }
  b.modQuartz (fun q => { q with strobes := vset q.strobes k s' })

/-- The strobe follows channel `ch`: the SRC in force, where 1 acts as 0 (18 R469). -/
def strobeFollows (b : Block) (k ch : Nat) : Bool := 2 ≤ ch && (b.strobe k).src == ch

/-- A channel emits its event at `t`: counted and stamped (18 R468), sent to Agate and to the strobes (R95). -/
def channelEmit (ch t : Nat) (b : Block) : Block :=
  let b := b.modQuartz (fun q => { q with
    evCount := vset q.evCount ch ((vget q.evCount ch 0 + 1) % 65536), evLast := vset q.evLast ch t })
  let b := b.modCh (fun c => { c with quartzAgate := c.quartzAgate ++ [ch] })
  [0, 1, 2, 3].foldl (fun b k => if strobeFollows b k ch then strobeTrigger k t b else b) b

/-- An OFF channel. -/
def chanOff : Chan := { setting := ⟨.off, 0, 0, 0, 0⟩, acc := 0, due := none, late := none, waits := [] }

/-- Channel `ch`. -/
def Block.chan (b : Block) (ch : Nat) : Chan := vget b.quartz.chans ch chanOff

/-- Replace channel `ch`. -/
def Block.setChan (b : Block) (ch : Nat) (c : Chan) : Block :=
  b.modQuartz (fun q => { q with chans := vset q.chans ch c })

/-- At a source event of LOCK channels at `t`, settings that wait for it take effect and their descriptors complete
(R94); `base` is the source event that the first PHASE counts from. -/
def lockTake (mode : ChanMode) (ch base : Nat) (b : Block) : Block :=
  let c := b.chan ch
  let (now, later) := c.waits.partition (fun w => w.setting.mode == mode)
  match now.getLast? with
  | none => b
  | some w =>
    let b := b.setChan ch { c with setting := w.setting, acc := 0, due := none, late := none, waits := later }
    now.foldl (fun b w => finishCtrl w.desc stOk frameNone ((base + w.setting.phase) % 2 ^ 32) 0 b) b

/-- A LOCK channel's event falls PHASE ticks after its source event (R93). -/
def lockDue (mode : ChanMode) (ch t : Nat) (b : Block) : Block :=
  let c := b.chan ch
  if c.setting.mode == mode then b.setChan ch { c with due := some (t + c.setting.phase) } else b

/-- The channels a descriptor may set. -/
def freeChannels : List Nat := (List.range 32).drop 2

/-- A CAD0 event at `t` is the source of LOCK0 channels (R93). -/
def lock0Source (t : Nat) (b : Block) : Block :=
  freeChannels.foldl (fun b ch => lockDue .lock0 ch t (lockTake .lock0 ch t b)) b

/-- The LOCK1 event of the CAD1 event at `t` that opens a bridge to `align`: one that would fall inside the bridge does
not come (R95); one with PHASE 0 falls on `t` itself, a later one after the bridge (R93). -/
def lock1Bridge (ch t align : Nat) (b : Block) : Block :=
  let c := b.chan ch
  if c.setting.mode != .lock1 then b
  else if c.setting.phase = 0 then b.setChan ch { c with due := some t }
  else if align ≤ t + c.setting.phase then b.setChan ch { c with late := some (t + c.setting.phase) }
  else b

/-- A CAD1 event at `t` is the source of LOCK1 channels (R93); `align` is the end of the bridge that it opens, if any. -/
def lock1Source (t : Nat) (align : Option Nat) (b : Block) : Block :=
  freeChannels.foldl (fun b ch =>
    let b := lockTake .lock1 ch (align.getD t) b
    match align with
    | some a => lock1Bridge ch t a b
    | none => lockDue .lock1 ch t b) b

/-! ### The capture cadence -/

/-- Length of the period that would follow a CAD1 event of the cadence in force. -/
def lookPeriod (q : Quartz) : Nat :=
  match q.cap with
  | some c => (nextPeriod q.capAcc c.reload c.dnum c.dden).2
  | none => 0

/-- The CAD1 event at tick `n` is t0, the last before a bridge to the staged ALIGN (R90). -/
def isT0 (q : Quartz) (n : Nat) : Bool :=
  match q.cap, q.staged with
  | some _, some s => s.align != 0 && n + 40000 ≤ s.align && s.align < n + lookPeriod q + 40000
  | _, _ => false

/-- The staged cadence takes effect, without a bridge, at the CAD1 event at `n` (R89). -/
def takesAt (q : Quartz) (n : Nat) : Bool :=
  match q.cap, q.staged with
  | some c, some s => s.align == 0 && s.arrival + c.reload + 2 < n
  | _, _ => false

/-- What the next CAD1 event is. -/
inductive NextCad1 where
  /-- none is due -/
  | none_
  /-- an event of the cadence in force at this tick -/
  | old (at_ : Nat)
  /-- t0, from which a bridge runs -/
  | bridge (at_ : Nat)
  /-- the first event of the staged cadence -/
  | first (at_ : Nat)
  deriving DecidableEq, Repr

/-- The next CAD1 event (R86, R89, R90). -/
def nextCad1 (q : Quartz) : NextCad1 :=
  match q.bridge with
  | some br => if br.next < br.count then .none_ else .first br.align
  | none =>
    match q.cap with
    | some c =>
      if q.cadJ < c.grid then .none_
      else
        let n := q.cad1At + q.capL
        if isT0 q n then .bridge n else if takesAt q n then .first n else .old n
    | none =>
      match q.staged with
      | some s => .first (if s.align = 0 then s.arrival + 2048 else s.align)
      | none => .none_

/-- CLOSING: an aligned apply is staged and t0 has not come (R505); so the next CAD1 event that is t0 finds it set
(R87). -/
def closingNow (q : Quartz) : Bool :=
  q.bridge.isNone && q.cap.isSome && match q.staged with | some s => s.align != 0 | none => false

/-- Which of the two CAD1 events ahead is t0: 1 the next, 2 the one after it, 0 neither (log entry 14). -/
def t0Ahead (q : Quartz) : Nat :=
  match q.cap with
  | none => 0
  | some c =>
    if !closingNow q then 0
    else
      let n := q.cad1At + q.capL
      let (acc, l) := nextPeriod q.capAcc c.reload c.dnum c.dden
      if isT0 q n then 1 else if isT0 { q with capAcc := acc } (n + l) then 2 else 0

/-- A CAD0 event at `t`: counted, sent to Garnet with LAST and CLOSING (R87, R505), and the source of LOCK0 channels. -/
def cad0Emit (t : Nat) (last : Bool) (b : Block) : Block :=
  let b := channelEmit 0 t b
  let b := b.modCh (fun c => { c with
    quartzGarnet := c.quartzGarnet ++ [.cad0 t last (closingNow b.quartz) (t0Ahead b.quartz)] })
  lock0Source t b

/-- A CAD1 event at `t` is sent to Garnet, and its time record to Opal (R87, 05 R136). -/
def cad1Send (t g l : Nat) (refEvent : Bool) (b : Block) : Block :=
  let r := timeRecordAt t refEvent b
  let b := channelEmit 1 t b
  let (p, k) := timeRecordTrace r
  let b := b.logEvr .quartz 0x10 p k (some t)
  b.modCh (fun c => { c with
    quartzGarnet := c.quartzGarnet ++ [.cad1 t g l b.quartz.capSeq r], quartzOpal := c.quartzOpal ++ [r] })

/-- LOCK1 channels whose PHASE exceeds the new RELOAD are set to OFF, with CAD_PHASE_RANGE (R95). -/
def phaseRange (reload : Nat) (b : Block) : Block :=
  freeChannels.foldl (fun b ch =>
    let c := b.chan ch
    if c.setting.mode == .lock1 && reload < c.setting.phase then
      postEvent evCadPhaseRange frameNone (evData [ch])
        (b.setChan ch { c with setting := { c.setting with mode := .off }, due := none, late := none })
    else b) b

/-- A CAD1 event of a cadence at `t` (R86, R87): the period's length, CAD0 reloaded, the events sent. -/
def cad1Period (t : Nat) (c : Cadence) (refEvent : Bool) (b : Block) : Block :=
  let (acc, l) := nextPeriod b.quartz.capAcc c.reload c.dnum c.dden
  let b := b.modQuartz (fun q => { q with capAcc := acc, cad1At := t, capL := l, cadJ := 1 })
  let b := cad1Send t c.grid l refEvent b
  let b := lock1Source t none b
  cad0Emit t (c.grid == 1) b

/-- CAD1_EVENT (R87): the next CAD1 event falls. -/
def cad1Event (b : Block) : Block :=
  match nextCad1 b.quartz with
  | .none_ => b
  | .old t =>
    match b.quartz.cap with
    | some c =>
      let b := b.advance t
      let (b, ev) := discAtCad1 t false false b
      cad1Period t c ev (todAtCad1 b)
    | none => b
  | .bridge t =>
    match b.quartz.staged with
    | some s =>
      let b := b.advance t
      let (b, ev) := discAtCad1 t false false b
      let b := todAtCad1 b
      let r := s.align - t
      let step := b.quartz.capL / (match b.quartz.cap with | some c => max 1 c.grid | none => 1)
      let m := max 1 (r / max 1 step)
      let b := b.modQuartz (fun q => { q with
        bridge := some { t0 := t, align := s.align, step, count := m, next := 1 } })
      let b := cad1Send t m r ev b
      let b := lock1Source t (some s.align) b
      cad0Emit t (m == 1) b
    | none => b
  | .first t =>
    match b.quartz.staged with
    | some s =>
      let b := b.advance t
      let b := b.modQuartz (fun q => { q with
        cap := some s.cad, staged := none, bridge := none, capState := 1, capSeq := (q.capSeq + 1) % 65536, capAcc := 0 })
      let (b, ev) := discAtCad1 t true s.own b
      let b := cad1Period t s.cad ev (todAtCad1 b)
      phaseRange s.cad.reload b
    | none => b

/-- CAD0_EVENT (R86, R90): the next CAD0 event of the period, or of the bridge, after its first. -/
def cad0Event (b : Block) : Block :=
  match b.quartz.bridge with
  | some br =>
    if br.next < br.count then
      let t := br.t0 + br.next * br.step
      let b := b.advance t
      let b := b.modQuartz (fun q => { q with bridge := some { br with next := br.next + 1 } })
      cad0Emit t (br.next + 1 == br.count) b
    else b
  | none =>
    match b.quartz.cap with
    | some c =>
      let j := b.quartz.cadJ
      if j < c.grid then
        let t := cad0Tick b.quartz.cad1At b.quartz.capL c.grid j
        let b := b.advance t
        let b := b.modQuartz (fun q => { q with cadJ := j + 1 })
        cad0Emit t (j + 1 == c.grid) b
      else b
    | none => b

/-! ### Capture cadence registers (R88) -/

/-- The capture cadence fields as the registers stand. -/
def capFields (b : Block) : Cadence × Nat :=
  ({ reload := b.reg 0x1100, dnum := b.field 0x1104 23 0, dden := b.field 0x1108 23 0, grid := b.field 0x110C 12 0 },
   b.reg 0x1110 + 2 ^ 32 * b.reg 0x1114)

/-- RESULT of an APPLY that reaches Quartz at tick `t` (R88, R90); row 1 is Opal's verdict. -/
def applyResult (q : Quartz) (inTake : Bool) (t : Nat) (c : Cadence) (align : Nat) : Nat :=
  let bound := match q.cap with | some old => t + 3 * (old.reload + 2) | none => t + 2048
  if inTake then 1
  else if q.capState = 2 then 2
  else if c.reload + 1 < 1066666 then 3
  else if c.dden = 0 || c.dden ≤ c.dnum then 4
  else if c.grid = 0 || 4096 < c.grid || (c.reload + 1) / c.grid < 40000 then 5
  else if align != 0 && align < bound then 6
  else 0

/-- CAP_APPLY (R88): a write of CAP_CTRL.APPLY; ignored while Quartz is uncommitted (18 R463). -/
def capApply (b : Block) : Block :=
  if !b.bar0 || !b.committed .quartz then b
  else
    let (c, align) := capFields b
    let t := b.quartz.tb
    let res := applyResult b.quartz b.takeAccepted t c align
    if res = 0 then
      b.modQuartz (fun q => { q with
        capResult := 0, capState := 2, staged := some { cad := c, align, arrival := t, own := false } })
    else b.modQuartz (fun q => { q with capResult := res })

/-! ### Channels CAD2 to CAD31 -/

/-- The first field out of range of a CADENCE descriptor, by its byte offset (R93, 08 R213). LOCK1's PHASE has no bound
while no capture cadence is in force, as there is no RELOAD of CAD1 then (log entry 75). -/
def cadenceFault (d : List Byte) (reloadCap : Option Nat) : Option Nat :=
  let ch := leAt d 16 1
  let mode := leAt d 17 1
  let dnum := bitsOf (leAt d 24 4) 23 0
  let dden := bitsOf (leAt d 28 4) 23 0
  let phase := leAt d 32 4
  if ch < 2 || 31 < ch then some 16
  else if 3 < mode then some 17
  else if mode = 1 && leAt d 20 4 < 1023 then some 20
  else if mode = 1 && dden ≤ dnum then some 24
  else if mode = 2 && (match reloadCap with | some r => decide (r < phase) | none => false) then some 32
  else if mode = 3 && 39999 < phase then some 32
  else none

/-- CADENCE (R94): a channel's setting is taken, waits for its moment, or is refused. MODE OFF leaves settings of the
channel that still wait as they are (log entry 76). -/
def cadence (desc : Nat) (b : Block) : Block :=
  match b.dispatched ctrlRing desc 0x04 with
  | none => b
  | some d =>
    let now := b.quartz.tb
    let ch := leAt d 16 1
    let mode := leAt d 17 1
    let align := leAt d 40 8
    match cadenceFault d (b.quartz.cap.map (·.reload)) with
    | some off => finishCtrl desc stMalformed frameNone 0 off b
    | none =>
      let set (m : ChanMode) : ChanSetting := {
        mode := m, reload := leAt d 20 4, dnum := bitsOf (leAt d 24 4) 23 0, dden := bitsOf (leAt d 28 4) 23 0
        phase := leAt d 32 4 }
      let wait (m : ChanMode) (start : Nat) : Block :=
        let c := b.chan ch
        b.setChan ch { c with waits := c.waits ++ [{ setting := set m, start, desc }] }
      match mode with
      | 0 =>
        let c := b.chan ch
        finishCtrl desc stOk frameNone 0 0 (b.setChan ch { c with setting := set .off, acc := 0, due := none, late := none })
      | 1 =>
        if align != 0 && align < now + 1024 then finishCtrl desc stTimePast frameNone 0 0 b
        else wait .free (if align = 0 then now + 1024 else align)
      | 2 => wait .lock1 0
      | _ => wait .lock0 0

/-- The FREE setting that takes effect first among those that wait. -/
def firstFree (l : List ChanWait) : Option ChanWait :=
  l.foldl (fun r w =>
    if w.setting.mode != .free then r
    else match r with
      | some v => if w.start < v.start then some w else r
      | none => some w) none

/-- CADENCE_CHANNEL_EVENT (R93, R94): channel `ch` emits the event due next; a FREE setting's first event is the
moment it takes effect. -/
def cadenceChannelEvent (ch : Nat) (b : Block) : Block :=
  if ch < 2 || 31 < ch then b
  else
    let c := b.chan ch
    let emit (t : Nat) (c : Chan) : Block :=
      let (acc, l) := nextPeriod c.acc c.setting.reload c.setting.dnum c.setting.dden
      let c := if c.setting.mode == .free then { c with acc, due := some (t + l) }
        else if c.late.isSome then { c with late := none } else { c with due := none }
      channelEmit ch t ((b.advance t).setChan ch c)
    let start (w : ChanWait) : Block :=
      let b := emit w.start { c with setting := w.setting, acc := 0, late := none, waits := c.waits.erase w }
      finishCtrl w.desc stOk frameNone (w.start % 2 ^ 32) 0 b
    match firstFree c.waits, c.late.or c.due with
    | some w, some t => if w.start ≤ t then start w else emit t c
    | some w, none => start w
    | none, some t => emit t c
    | none, none => b

/-! ### Strobes -/

/-- STROBE_ON (R108): a pending pulse turns active. -/
def strobeOn (k : Nat) (b : Block) : Block :=
  let s := b.strobe k
  match s.pulse with
  | .pending t w => (b.advance t).modQuartz (fun q => { q with
      strobes := vset q.strobes k { s with pulse := .active (t + w) } })
  | _ => b

/-- SRC and POL of STRBn_CFG come into force: no pulse is pending or active (R109, 18 R469). -/
def strobeSettings (k : Nat) (s : Strobe) (b : Block) : Block :=
  b.modQuartz (fun q => { q with strobes := vset q.strobes k { s with
    pulse := .idle, src := b.field (0x1300 + 16 * k) 4 0, pol := b.field (0x1300 + 16 * k) 5 5 == 1 } })

/-- STROBE_OFF (R108): the pulse ends, and settings and a POL that waited apply from then (R109, 18 R469). -/
def strobeOff (k : Nat) (b : Block) : Block :=
  let s := b.strobe k
  match s.pulse with
  | .active t => strobeSettings k s (b.advance t)
  | _ => b

/-- After a write to STRBn_CFG: SRC and POL apply at once while no pulse is pending or active (R109, 18 R469). -/
def strobePol (k : Nat) (b : Block) : Block :=
  let s := b.strobe k
  match s.pulse with
  | .idle => strobeSettings k s b
  | _ => b

/-- Level of a STROBE_OUT driver (R108): active high or, with POL, low. -/
def strobeLevel (s : Strobe) : Bool :=
  let active := match s.pulse with | .active _ => true | _ => false
  active != s.pol

/-! ### Readouts -/

/-- TB_LO_READ (R82): the low half is read, the high half latched. -/
def tbLoRead (b : Block) : Block :=
  if !b.bar0 then b
  else
    let b := b.modQuartz (fun q => { q with tbHi := q.tb / 2 ^ 32 % 2 ^ 32 })
    b.modOut (fun o => { o with readData := BitVec.ofNat 32 b.quartz.tb })

/-- CAD_LAST_LO_READ (18 R468): the channel CAD_SEL names. -/
def cadLastLoRead (b : Block) : Block :=
  if !b.bar0 then b
  else
    let v := vget b.quartz.evLast (b.field 0x1400 4 0) 0
    let b := b.modQuartz (fun q => { q with cadLastHi := v / 2 ^ 32 % 2 ^ 32 })
    b.modOut (fun o => { o with readData := BitVec.ofNat 32 v })

end Sys2Proof.Machine
end

