-- ==== Sys2Proof/Machine/Garnet.lean ====
section
/-! DEFINITION. Garnet: Sub-frames, latch points and the Boundary Merge, Takes, triggers, Slots and the drain (01 R12 to
R24, 02 R52 to R57, 03 R62 to R78, 04 R91 to R107, 12 R324, R330, 14 R394, 15 R412). -/

namespace Sys2Proof.Machine

/-! ### Slots and the drain -/

/-- Every Slot is drained (R53, R77). -/
def slotsDrained (g : Garnet) : Bool := g.slots.toList.all (· == .free)

/-- A Stripe token (01, table Stripe token contents). -/
def stripeToken (s : Snapshot) (plane stripe addr len : Nat) (crc : Word) (marks : BitVec 16) : StripeToken :=
  { frame := s.frame, gen := s.prog.gen, plane, stripe, ordinal := plane * 2 ^ 14 + stripe * 2 ^ 6, addr, len, crc, marks }

/-- Send Stripe tokens to Jade, after the header token that went at the start of the Frame (01 R21). -/
def sendTokens (toks : List StripeToken) (b : Block) : Block :=
  b.modCh (fun c => { c with garnetJade := c.garnetJade ++ toks.map (fun t => .stripe { t with sent := b.stamp .jade }) })

/-- Send a Frame's header token to Jade; with a flag that fails the Frame, Jade drops what it holds of it. -/
def sendHeader (s : Snapshot) (b : Block) : Block :=
  b.modCh (fun c => { c with garnetJade := c.garnetJade ++ [.header s] })

/-- A Slot closes (R38): it is handed to the drain, when the Frame has drain space. -/
def closeSlot (slot : Nat) (b : Block) : Block :=
  match vget b.garnet.slots slot .free, b.garnet.hand with
  | .accumulating f p, some h =>
    match h.addr with
    | some a =>
      if h.snap.frame != f then b
      else b.modGarnet (fun g =>
        let fresh : DrainJob := {
          snap := h.snap, addr := a, profile := none
          planes := h.snap.planes.map (fun r => (r.slot, false, h.snap.prog.drainFirst)) }
        let jobs := if g.jobs.any (fun j => j.snap.frame == f) then g.jobs else g.jobs ++ [fresh]
        { g with
          slots := vset g.slots slot (.draining f p)
          jobs := jobs.map (fun j =>
            if j.snap.frame = f then
              { j with snap := h.snap, planes := j.planes.map (fun (s, c, n) => (s, c || s == slot, n)) }
            else j) })
    | none => b.modGarnet (fun g => { g with slots := vset g.slots slot .free })
  | _, _ => b

/-- A Slot opens for Plane `plane` of `frame`; Stripes not yet drained are lost, each with a Length-0 token marked
DRAIN_LATE (R54). -/
def openSlot (slot frame plane : Nat) (b : Block) : Block :=
  let b : Block :=
    match vget b.garnet.slots slot .free with
    | .draining f p =>
      match b.garnet.jobs.find? (fun j => j.snap.frame == f) with
      | some j =>
        let (_, _, next) := j.planes.getD p (0, false, 0)
        let last := j.snap.prog.drainLast
        let lost := (List.range (last + 1 - next)).map (fun k => stripeToken j.snap p (next + k) 0 0 0 markDrainLate)
        let b := sendTokens lost b
        b.modGarnet (fun g => { g with
          jobs := g.jobs.map (fun k =>
            if k.snap.frame = f then
              { k with planes := k.planes.map (fun (s, c, n) => if s = slot then (s, c, last + 1) else (s, c, n)) }
            else k) })
      | none => b
    | _ => b
  b.modGarnet (fun g => { g with slots := vset g.slots slot (.accumulating frame plane) })

/-- The Frame whose Plane takes a Slot that opens now: the bound Frame when it names the Slot with start edge 0 at the
end of a Hand or an idle gap, else the Frame of the Hand in progress. -/
def slotOwner (g : Garnet) (slot : Nat) : Option (Nat × Nat) :=
  let look (s : Snapshot) (zero : Bool) : Option (Nat × Nat) :=
    ((s.planes.zipIdx).find? (fun (r, _) => r.slot == slot && (r.s == 0) == zero)).map (fun (_, k) => (s.frame, k))
  match g.bound.bind (fun s => look s true) with
  | some x => if g.boundReady then some x else g.hand.bind (fun h => look h.snap false)
  | none => g.hand.bind (fun h => look h.snap false)

/-- The Sub-frame in progress ends with this broadcast (R38; log entry 26): CLOSE and OPEN, the calibration of R48. -/
def endSub (bc : Broadcast) (b : Block) : Block :=
  let b := b.modGarnet (fun g => { g with bc := none, array := arrayAll (clusterCloseOpen bc) g.array })
  let b := [0, 1, 2, 3].foldl (fun b s => if vget bc.close s false then closeSlot s b else b) b
  let b := [0, 1, 2, 3].foldl (fun b s =>
    if vget bc.open_ s false then
      match slotOwner b.garnet s with
      | some (f, p) => openSlot s f p b
      | none => b
    else b) b
  b.modGarnet (fun g =>
    let w := g.waitSf - 1
    if g.offsetFresh && g.array.rest.calCount = 64 then
      { g with waitSf := w, offsetFresh := false, array := arrayAll clusterFirstOffset g.array }
    else { g with waitSf := w })

/-- What HAND_END does in the Clusters (R48, R57). -/
def endHandArray (b : Block) : Block := b.modGarnet (fun g => { g with array := arrayAll clusterHandEnd g.array })

/-- The Sub-frame in progress ends, and its Frame is lost: the Clusters go through it all the same (12 R330). -/
def dropSub (b : Block) : Block :=
  match b.garnet.bc with
  | none => b
  | some bc => if bc.handEnd then endHandArray (endSub bc b) else endSub bc b

/-- The Sub-frame in progress ends; after HAND_END the offsets, READS and the profile (R48, R57, 07 R186). -/
def finishSub (b : Block) : Block :=
  match b.garnet.bc with
  | none => b
  | some bc =>
    let b := endSub bc b
    if !bc.handEnd then b
    else
      let reads := arrayTotal (·.tally) b.garnet.array
      let b := endHandArray b
      match b.garnet.hand with
      | none => b
      | some h =>
        let b := b.modGarnet (fun g => { g with
          jobs := g.jobs.map (fun j =>
            if j.snap.frame = h.snap.frame then { j with snap := h.snap, profile := some (reads, h.profile.reverse) }
            else j) })
        b.modCh (fun c => { c with
          garnetOpal := c.garnetOpal ++ [{
            frame := h.snap.frame, snap := h.snap, outcome := none, marks := 0, final := true }] })

/-! ### Whether a Hand can start -/

/-- The cadence that will be in force for the Hand started at the CAD1 event at tick `n` (R68). -/
def comingCadence (q : Quartz) (n : Nat) : Option Cadence :=
  if n ≤ q.cad1At then q.cap
  else match nextCad1 q with
    | .first t => if t ≤ n then q.staged.map (·.cad) else q.cap
    | _ =>
      match q.staged with
      | some s => if takesAt q n || (s.align != 0 && s.align ≤ n) then some s.cad else q.cap
      | none => q.cap

/-- A Hand can start at the boundary at tick `n` (R69, R91, R507; 12 R324, R330; 14 R394; 15 R412, R414; 12 R346). -/
def canStart (b : Block) (n : Nat) : Bool :=
  let g := b.garnet
  (match g.applied with
    | some p => (programFit (comingCadence b.quartz n) p).isNone
    | none => false) &&
    !g.stopped && !g.shutdown && g.waitSf ≤ 1 && !g.skipHand && !b.thermalHold && b.beryl.evr.mode != 2

/-- Burst use waits for the four Slots, and so does the first Frame after it (R53, R77, R106): `pair` is none while no
Frame in paired use has started since. -/
def burstReady (g : Garnet) : Bool :=
  match g.applied with
  | some p => (!p.slotUse && g.pair.isSome) || slotsDrained g
  | none => true

/-! ### The Boundary Merge (01 R24) -/

/-- Staged Frame Programs: the last is applied or refused, the others are SUPERSEDED (01 R23, 03 R68). They wait while
Beryl is absent (12 R334) or a group holds the first Hand back (15 R414). -/
def mergeProgram (n : Nat) (b : Block) : Block :=
  match b.garnet.staged.getLast? with
  | none => b
  | some p =>
    if b.berylAbsent || b.thermalHold then b
    else
      let olds := b.garnet.staged.dropLast
      let b := b.modGarnet (fun g => { g with staged := [] })
      let b := olds.foldl (fun b o => finishCtrl o.desc stSuperseded frameNone 0 0 b) b
      match programFit (comingCadence b.quartz n) p.prog with
      | some st => finishCtrl p.desc st frameNone 0 0 b
      | none =>
        finishCtrl p.desc stOk b.garnet.frameNo p.prog.gen 0 (b.modGarnet (fun g => { g with applied := some p.prog, everApplied := true }))

/-- The thermal step (15 R409); none is taken while Beryl is absent (12 R334). -/
def mergeThermal (b : Block) : Block :=
  if b.berylAbsent then b
  else b.modGarnet (fun g => { g with t := g.thermal.getD g.t, thermal := none })

/-- A waiting START or STOP takes effect at the boundary at tick `n` (R96, R97). -/
def dueAt (atTb n : Nat) : Bool := atTb ≤ n

/-- It completes LATE: its AT_TB is not 0 and lies before the first boundary it could meet (R96, R97). -/
def lateAt (atTb n : Nat) (seen : Bool) : Bool := !seen && atTb != 0 && atTb < n

/-- Why the open Take ends at the boundary at tick `n`, if it does; a STOP before COUNT before a stop request
(log entry 22). -/
def takeEndCause (g : Garnet) (t : GarnetTake) (n : Nat) : Option EndReason :=
  if g.stops.any (fun s => dueAt s.atTb n) then some .stop
  else if t.count != 0 && t.count ≤ t.captured then some .count
  else if g.shutdown then some .shutdown
  else g.stopReq

/-- The open Take ends (R97, 08 R214): every waiting STOP completes, and a START that has captured no Frame. -/
def endTake (n : Nat) (t : GarnetTake) (b : Block) : Block :=
  let first := b.garnet.frameNo
  let stops := b.garnet.stops
  let b := b.modGarnet (fun g => { g with take := none, stops := [], stopReq := none })
  let b := match t.startDesc with
    | some d => finishCtrl d (if t.late then stLate else stOk) frameNone 0 0 b
    | none => b
  let b := stops.foldl (fun b s =>
    finishCtrl s.desc (if lateAt s.atTb n s.seen then stLate else stOk) first 0 0 b) b
  discSettle b

/-- Take start or stop at the boundary at tick `n` (R96, R97). Answers the Take that starts and the one that ends. -/
def mergeTake (n : Nat) (b : Block) : Block × Option Nat × Option (Nat × EndReason × Option Nat) :=
  let seen (g : Garnet) : Garnet := { g with
    stops := g.stops.map (fun s => { s with seen := true }), start := g.start.map (fun w => { w with seen := true }) }
  match b.garnet.take with
  | some t =>
    match takeEndCause b.garnet t n with
    | some r =>
      let last := if t.captured = 0 then none else some (b.garnet.frameNo - 1)
      (endTake n t b, none, some (t.takeId, r, last))
    | none => (b.modGarnet seen, none, none)
  | none =>
    match b.garnet.start with
    | some w =>
      if dueAt w.atTb n && !b.garnet.shutdown then
        let b := b.modGarnet (fun g => { g with
          start := none
          take := some { takeId := w.takeId, count := w.count, captured := 0, startDesc := some w.desc
                         late := lateAt w.atTb n w.seen } })
        (discTakeStart b, some w.takeId, none)
      else (b.modGarnet seen, none, none)
    | none => (b, none, none)

/-- A START in Continuous mode completes as it takes effect, whether or not its boundary starts a Frame: its FRAME is the
number that the next Frame will carry. In Triggered mode it waits for the Take's first Frame (08 R214). -/
def completeStart (b : Block) : Block :=
  match b.garnet.mode, b.garnet.take with
  | .continuous, some t =>
    match t.startDesc with
    | some d =>
      finishCtrl d (if t.late then stLate else stOk) b.garnet.frameNo 0 0
        (b.modGarnet (fun g => { g with take := some { t with startDesc := none } }))
    | none => b
  | _, _ => b

/-- Staged TRIGGER descriptors take effect in order (R98); a change to CONTINUOUS discards a latched trigger (R99). -/
def mergeTrigger (b : Block) : Block :=
  let ts := b.garnet.stagedTrigger
  let fr := b.garnet.frameNo
  let b := b.modGarnet (fun g => { g with stagedTrigger := [] })
  ts.foldl (fun b t =>
    let b := b.modGarnet (fun g => { g with
      mode := t.mode, policy := t.policy, source := t.source
      latch := if t.mode = .continuous then none else g.latch })
    finishCtrl t.desc stOk fr 0 0 b) b

/-! ### Binding a Frame -/

/-- The newest live version of a reference picture, when the program names an ID and one is loaded (01 R25). No channel of 01
brings Jade a latch notice: the latch point reaches it in the same step (log entry 102). -/
def bindRef (b : Block) (kind : RefKind) (id : Nat) : Option Nat :=
  if id = 255 then none
  else (b.jade.refs.find? (fun r => r.kind == kind && r.id == id && r.live)).map (·.version)

/-- UNLOADs take effect at the latch point (06 R162), which reaches Jade in the same step (log entry 102). -/
def applyUnloads (b : Block) : Block :=
  let us := b.jade.unloads
  b.modJade (fun j => { j with
    unloads := []
    refs := j.refs.map (fun r => if us.contains (r.kind, r.id) then { r with live := false } else r) })

/-- The Slot pair of the next Frame (02 R52): the other pair, or {0, 1} first after a start, a recovery or Burst use. -/
def nextPair (g : Garnet) : Bool := match g.pair with | some q => !q | none => false

/-- Send a latch notice to Opal, Spinel and Onyx (01 R21). -/
def sendNotice (x : LatchNotice) (b : Block) : Block :=
  b.modCh (fun c => { c with
    noticeOpal := c.noticeOpal ++ [x], noticeSpinel := c.noticeSpinel ++ [x], noticeOnyx := c.noticeOnyx ++ [x] })

/-- The versions bound for a program: defect map, shading map, dark reference plane. -/
def bindRefs (b : Block) (p : FrameProgram) : Option Nat × Option Nat × Option Nat :=
  (bindRef b .defect p.defectId, bindRef b .shading p.shadingId, bindRef b .dark p.darkId)

/-- Reference versions as a BOUNDARY entry shows them: 2 bytes each, 0 for none bound, else the version's number and 1 (log
entry 103). -/
def refVersions (r : Option Nat × Option Nat × Option Nat) : List Byte :=
  [r.1, r.2.1, r.2.2].flatMap (fun v => leBytes 2 ((v.map (· + 1)).getD 0))

/-- BOUNDARY trace entry (12 R342), with the program whose Frame the boundary binds. -/
def logBoundary (frame : Nat) (bound : Option FrameProgram) (start stop trig : Bool) (b : Block) : Block :=
  let g := b.garnet
  let gen := match g.applied with | some p => p.gen | none => 0
  let refs := match bound with | some p => bindRefs b p | none => (none, none, none)
  b.logEvr .garnet 0x11
    (leBytes 8 frame ++ leBytes 4 gen ++ leBytes 1 g.t ++ leBytes 1 (flagBits [start, stop, trig, b.berylAbsent]) ++
      leBytes 2 g.overrun)
    [refVersions refs ++ leBytes 4 (Config.tagDigest frame 0).toNat ++ leBytes 4 (Config.tagDigest frame 1).toNat ++
      leBytes 4 (Config.tagDigest frame 2).toNat ++ leBytes 14 0]

/-- Bind the next Frame under the applied program, for the boundary at tick `n` (01 R12, R21): its number, its snapshot, its Slots; TRIG_OVERRUN is
copied and cleared (R105); a START completes with its first captured Frame (08 R214); Beryl is told (15 R409). -/
def bindFrame (n : Nat) (p : FrameProgram) (trig : Option Nat) (b : Block) : Block × Snapshot :=
  let g := b.garnet
  let nEff := nEffOf p g.t
  let pair := nextPair g
  let s : Snapshot := {
    frame := g.frameNo, prog := p, nEff, t := g.t, policy := g.policy, hCount := g.h, take := g.take.map (·.takeId)
    overrun := g.overrun, trigStamp := trig
    flags := {
      takeStart := g.take.any (fun t => t.captured == 0), takeLast := false, programStart := g.lastGen != p.gen, triggered := trig.isSome
      berylAbsent := b.berylAbsent, noBuffer := false, truncated := false, timing := false, failStop := false }
    cadSeq := 0, cad1Stamp := 0, l := 0, g := 0, planes := planeRuns p nEff pair
    refs := bindRefs b p, period := match comingCadence b.quartz n with | some c => c.reload + 1 | none => 0
    time := none, timeStep := false }
  let late := match g.take with | some t => t.startDesc.map (fun d => (d, t.late)) | none => none
  let b := b.modGarnet (fun g => { g with
    frameNo := next64 g.frameNo, bound := some s, boundReady := false, overrun := 0, lastGen := p.gen
    view := { g.view with nEff }
    take := g.take.map (fun t => { t with captured := t.captured + 1, startDesc := none }) })
  let b := b.modCh (fun c => { c with garnetBeryl := c.garnetBeryl ++ [(s.frame, g.t)] })
  let b := match late with
    | some (d, l) => finishCtrl d (if l then stLate else stOk) s.frame 0 0 b
    | none => b
  (b, s)

/-- The work of a latch point whose boundary is the CAD1 event at tick `n` (01 R22): UNLOADs, the Boundary Merge, and
the Frame bound, if any. `trig` is a trigger accepted with no Frame in progress, bound at this instant (R102). -/
def mergeAndBind (n : Nat) (trig : Option Nat) (b : Block) : Block :=
  let b := applyUnloads b
  let b := mergeProgram n b
  let b := mergeThermal b
  let (b, start, stop) := mergeTake n b
  let b := completeStart (mergeTrigger b)
  let want : Option (Option Nat) :=
    if !canStart b n then none
    else match b.garnet.mode with
      | .continuous => some none
      | .triggered => match trig with
        | some t => some (some t)
        | none => b.garnet.latch.map some
  match want, b.garnet.applied with
  | some tr, some p =>
    if burstReady b.garnet then
      let b := if trig.isNone && tr.isSome then b.modGarnet (fun g => { g with latch := none }) else b
      let b := logBoundary b.garnet.frameNo (some p) start.isSome stop.isSome tr.isSome b
      let (b, s) := bindFrame n p tr b
      sendNotice { frame := s.frame, snap := some s, takeStart := start, takeStop := stop } b
    else
      let b := if trig.isSome then b.modGarnet (fun g => { g with latch := trig }) else b
      sendNotice { frame := b.garnet.frameNo, snap := none, takeStart := start, takeStop := stop }
        (logBoundary b.garnet.frameNo none start.isSome stop.isSome false b)
  | _, _ =>
    sendNotice { frame := b.garnet.frameNo, snap := none, takeStart := start, takeStop := stop }
      (logBoundary b.garnet.frameNo none start.isSome stop.isSome false b)

/-- What the status registers show (18 R470). -/
def takeView (g : Garnet) : GrnView := {
  frame := g.frameNo, gen := match g.applied with | some p => p.gen | none => 0
  take := g.take.isSome, latched := g.latch.isSome, burst := g.bound.isNone && (g.mode == .continuous || g.latch.isSome) && !burstReady g
  t := g.t, nEff := g.view.nEff, h := g.h }

/-- A latch point (01 R22): its work, and the status registers taken. -/
def latchPoint (n : Nat) (trig : Option Nat) (b : Block) : Block :=
  (mergeAndBind n trig b).modGarnet (fun g => { g with view := takeView g })

/-! ### Sub-frames -/

/-- D of a CAD1 period in which no Hand runs (R74): G / N_eff of the applied program, or 1. Where G / N_eff is no
integer the model takes 1 (log entry 23), and so it does where CONFIG_LOST has taken the applied program away (log entry
101). -/
def idleD (g : Garnet) (grid : Nat) : Nat :=
  match g.applied with
  | some p => let n := nEffOf p g.t; if grid % n = 0 then max 1 (grid / n) else 1
  | none => 1

/-- The Frame a message of the Garnet → Jade channel belongs to. -/
def GarnetJade.frameOf : GarnetJade → Nat
  | .header s => s.frame
  | .stripe t => t.frame

/-- Drained Stripes of a Frame are still to come, on their way to Jade, or in Jade and not retired: they stay in memory
(12 R319). -/
def drainHeld (b : Block) (f : Nat) : Bool :=
  b.garnet.hand.any (fun h => h.snap.frame == f) || b.garnet.jobs.any (fun j => j.snap.frame == f) ||
    b.ch.garnetJade.any (fun m => m.frameOf == f) || b.ch.kept.garnetJade.any (fun m => m.frameOf == f)

/-- Garnet gives up the reservations whose Stripes nobody needs any more (01 R13, R19). -/
def freeDrains (b : Block) : Block :=
  b.modGarnet (fun g => { g with resv := g.resv.filter (fun r => drainHeld b r.1) })

/-- A reservation for the drained Stripes of a Frame (01 R19). -/
def reserveDrain (s : Snapshot) (g : Garnet) : Option (Nat × Nat) :=
  let len := (s.prog.planeCount * s.prog.stripes) * stripeLen + (profileLen + 63) / 64 * 64
  (allocate drainBase drainSize len (g.resv.map (fun (_, a, l) => (a, l)))).map (fun a => (a, len))

/-- Garnet tells Opal a Frame's outcome at once (09 R246); the snapshot is `final` unless a Hand still measures it. -/
def tellOutcome (s : Snapshot) (o : DestOutcome) (marks : BitVec 16) (final : Bool) (b : Block) : Block :=
  b.modCh (fun c => { c with garnetOpal := c.garnetOpal ++ [{ frame := s.frame, snap := s, outcome := some o, marks, final }] })

/-- The bound Frame starts at the CAD1 event (01 R19, R21; 05 R133): its cadence, its time record, its drain space, which
Replay does not take (01 R508); its Slot pair counts as used (02 R52). -/
def startHand (s : Snapshot) (stamp grid l seq : Nat) (time : TimeRecord) (b : Block) : Block :=
  let b := freeDrains b
  let g := b.garnet
  let replay := b.beryl.evr.mode == 2
  let r := if replay then none else reserveDrain s g
  let s := { s with
    cadSeq := seq, cad1Stamp := stamp, l, g := grid, hCount := g.h, time := some time, timeStep := time.epoch != g.lastEpoch
    flags := { s.flags with noBuffer := r.isNone && !replay } }
  let b := b.modGarnet (fun g => { g with
    hand := some { snap := s, h := g.h, i := 0, lastStamp := stamp, profile := [], addr := r.map (·.1) }
    bound := none, boundReady := false, lastEpoch := time.epoch
    pair := if s.prog.slotUse then none else some (s.planes.any (fun p => 2 ≤ p.slot))
    resv := match r with | some (a, len) => g.resv ++ [(s.frame, a, len)] | none => g.resv
    d := max 1 (grid / max 1 s.nEff) })
  let b := if s.flags.noBuffer then tellOutcome s .noBuffer 0 false b else b
  sendHeader s b

/-- Garnet drains no Stripe of a Frame any further: its Slots and its drain space are free. -/
def dropDrain (frame : Nat) (g : Garnet) : Garnet :=
  { g with
    jobs := g.jobs.filter (fun j => j.snap.frame != frame)
    resv := g.resv.filter (fun r => r.1 != frame)
    slots := g.slots.map (fun u => match u with
      | .accumulating f _ => if f = frame then .free else u
      | .draining f _ => if f = frame then .free else u
      | .free => u) }

/-- Garnet fails a Frame whole: every Destination FAILED. -/
def failFrame (s : Snapshot) (marks : BitVec 16) (b : Block) : Block :=
  tellOutcome s .failed marks true (b.modGarnet (dropDrain s.frame))

/-- What a CAD1 event changes in Garnet's count of the cadence (R76, R87, R90): a period begins, with H counted, or at t0 a
bridge, which is no CAD1 period. -/
def openPeriod (stamp grid l seq : Nat) (g : Garnet) : Garnet :=
  let old := match g.cad with | some (_, _, _, q) => q == seq | none => false
  let bridge := g.t0In == 1 && old
  { g with
    hand := none, cad := some (stamp, grid, l, seq), j := 0, inBridge := bridge, last := false, closing := false, t0In := 0
    h := if bridge then g.h else if old then g.h + 1 else 0
    skipHand := false, d := if bridge then 1 else idleD g grid }

/-- What a CAD0 event changes there. -/
def seeCad0 (stamp : Nat) (last closing : Bool) (t0In : Nat) (g : Garnet) : Garnet :=
  { g with j := g.j + 1, lastCad0 := stamp, last, closing, t0In }

/-- A CAD1 event reaches Garnet (R87): the Hand ends, H counts (R76), the bound Frame's Hand starts. At t0 a bridge
begins: no Hand starts and Sub-frames run on every event (R90, R505). A Frame that a trigger bound before a new cadence was
staged, and whose program does not fit it, never starts (R91, log entry 77). -/
def takeCad1 (stamp grid l seq : Nat) (time : TimeRecord) (b : Block) : Block :=
  let b := (finishSub b).modGarnet (openPeriod stamp grid l seq)
  match b.garnet.bound with
  | some s =>
    if !b.garnet.boundReady || b.garnet.inBridge then b
    else if (programFit b.quartz.cap s.prog).isSome then
      failFrame s 0 (sendHeader s (b.modGarnet (fun g => { g with bound := none, boundReady := false })))
    else startHand s stamp grid l seq time b
  | none => b

/-- A Sub-frame starts on the CAD0 event at `stamp` (R38, R63, R74): at the last before a boundary the latch point comes
first; then the broadcast, and every Cluster runs its schedule. A Sub-frame that belongs to no Hand takes the BARRIER of
the applied program, or 6,144 with none applied; for those that are not the last before a Hand the spec gives no BARRIER
(log entry 78). -/
def startSub (stamp : Nat) (last : Bool) (scene : Scene) (b : Block) : Block :=
  let b := finishSub b
  let g := b.garnet
  let boundary := match g.cad with | some (s, _, l, _) => s + l | none => 0
  -- the latch point of the coming boundary, unless that boundary is t0 or its Frame was bound at a trigger
  let latches := last && g.t0In != 1
  let b := if latches && g.bound.isNone then latchPoint boundary none b else b
  let b := if latches then b.modGarnet (fun g => { g with boundReady := g.bound.isSome }) else b
  let g := b.garnet
  let next := if latches then (match g.bound with | some s => openBefore s | none => []) else []
  let bar := match g.applied with | some p => p.barrier | none => 6144
  let bc : Broadcast :=
    match g.hand with
    | some h => handBroadcast h.snap h.h h.i g.lastForce next
    | none => { idleBroadcast with
        force := last && (g.boundReady || g.inBridge), prevForce := g.lastForce, barrier := bar, open_ := slotFlags next }
  let b := if g.hand.any (fun h => h.i == 0) then
      b.modGarnet (fun g => { g with array := arrayAll clusterHandStart g.array })
    else b
  let b := b.modGarnet (fun g => { g with
    bc := some bc, lastSf := stamp, lastForce := bc.force
    hand := g.hand.map (fun h =>
      { h with
        snap := { h.snap with planes := measurePlanes h.snap h.h h.i (stamp - g.lastSf) }
        i := h.i + 1, lastStamp := stamp, profile := profileSum bc scene g.array :: h.profile }) })
  b.modGarnet (fun g => { g with array := arrayMap (fun i c => (clusterSubFrame bc i c).1) scene g.array })

/-- A CAD0 event reaches Garnet: it starts a Sub-frame when D of its period says so (R63, R74). Sub-frames run once
Garnet is committed with a cadence in force (18 R463). The first 64 measure the offsets, and the first Hand follows them (02 R48). -/
def takeCad0 (stamp : Nat) (last closing : Bool) (t0In : Nat) (scene : Scene) (b : Block) : Block :=
  let g := b.garnet
  let grid := match g.cad with | some (_, n, _, _) => n | none => 0
  let j := g.j
  let b := b.modGarnet (seeCad0 stamp last closing t0In)
  if g.cad.isNone || g.stopped || b.beryl.evr.mode == 2 || !b.committed .garnet then b
  else
    let b :=
      if g.started then b
      else b.modGarnet (fun g => { g with
        started := true, waitSf := 64, offsetFresh := true, pair := none, lastForce := false
        array := arrayAll clusterStart g.array })
    if j % max 1 g.d != 0 then b
    else startSub stamp (if g.inBridge then last else grid ≤ j + g.d) scene b

/-! ### Lost events (12 R330) -/

/-- ISLAND_FAULT is posted (12 R321): Island, class, action, faults in 60 s. -/
def postFault (i : Island) (class_ action : Nat) (frame : Nat) (b : Block) : Block :=
  let b := b.logEvr i 0x22 (leBytes 1 i.num.val ++ leBytes 1 class_ ++ leBytes 1 action)
  postEvent evIslandFault frame (evData [i.num.val, class_, action, min 255 ((b.isl i).faultTimes.filter (fun t => b.quartz.tb < t + ownTicks b .topaz t 61440000000)).length]) b

/-- A gap in an event count is counted and posted with class EVENT_GAP (12 R330), with the first Frame that it fails. -/
def gapFails (sink : Island) (frame : Nat) (b : Block) : Block :=
  postFault sink 3 (if frame = frameNone then 0 else 1) frame (b.modTopaz (fun t => { t with gaps := satAdd 65535 t.gaps 1 }))

/-- A gap that fails no Frame. -/
def eventGap (sink : Island) (b : Block) : Block := gapFails sink frameNone b

/-- A gap of `lost` messages shows in the 16-bit count (01 R16). -/
def gapSeen (lost : Nat) : Bool := lost % 65536 != 0

/-- A lost event in Garnet's count of the cadence: a period that it does not see begin is taken to be as long as the one
before, and its Sub-frames are numbered from there (R74). H counts it as it counts any (R76, 12 R330). -/
def missEvent (g : Garnet) : CadMsg → Garnet
  | .cad1 _ _ _ seq _ =>
    match g.cad with
    | some (s, grid, l, _) => openPeriod (s + l) grid l seq g
    | none => { g with h := g.h + 1 }
  | .cad0 .. => { g with j := g.j + 1 }

/-- A gap on Quartz → Garnet (12 R330): the Frame in progress fails with TIMING, H advances by the CAD1 events lost, and
no Hand starts at the next CAD1 event. -/
def cadenceGap (gone : List CadMsg) (b : Block) : Block :=
  let fail (s : Snapshot) (b : Block) : Block :=
    let s := { s with flags := { s.flags with timing := true } }
    failFrame s markTiming (sendHeader s b)
  let hand := b.garnet.hand
  let bound := b.garnet.bound
  let b := (dropSub b).modGarnet (fun g => { gone.foldl missEvent g with
    skipHand := true, hand := none, bound := none, boundReady := false, bc := none })
  let b := match hand with | some h => fail h.snap b | none => b
  let b := match bound with | some s => fail s b | none => b
  gapFails .garnet (((hand.map (·.snap.frame)).or (bound.map (·.frame))).getD frameNone) b

/-- SUB_FRAME_START (R38): Garnet receives the next CAD0 event, with the CAD1 event that coincides with it, `lost`
messages before it having been lost; `scene` is what the Sub-frame brings. -/
def subFrameStart (scene : Scene) (lost : Nat) (b : Block) : Block :=
  let q := b.ch.quartzGarnet
  let gone := q.take lost
  let b := b.modCh (fun c => { c with quartzGarnet := q.drop lost })
  let b := b.modGarnet (fun g => { g with evExpect := (g.evExpect + lost) % 65536 })
  let b := if gapSeen gone.length then cadenceGap gone b else b
  match b.ch.quartzGarnet with
  | .cad1 stamp grid l seq time :: .cad0 t0 last closing t0In :: rest =>
    let b := b.modCh (fun c => { c with quartzGarnet := rest })
    let b := b.modGarnet (fun g => { g with evExpect := (g.evExpect + 2) % 65536 })
    takeCad0 t0 last closing t0In scene (takeCad1 stamp grid l seq time b)
  | .cad1 stamp grid l seq time :: rest =>
    let b := b.modCh (fun c => { c with quartzGarnet := rest })
    let b := b.modGarnet (fun g => { g with evExpect := (g.evExpect + 1) % 65536 })
    takeCad1 stamp grid l seq time b
  | .cad0 t0 last closing t0In :: rest =>
    let b := b.modCh (fun c => { c with quartzGarnet := rest })
    let b := b.modGarnet (fun g => { g with evExpect := (g.evExpect + 1) % 65536 })
    takeCad0 t0 last closing t0In scene b
  | [] => b

/-! ### Triggers -/

/-- SOURCE accepts this kind (R98, R100). -/
def sourceTakes : TrigSource → TrigKind → Bool
  | .both, _ => true
  | .trigIn, k => k == .pin
  | .seq, k => k == .flag

/-- TRIG_OVERRUN counts and stops at 65,535 (R105). -/
def addOverrun (k : Nat) (b : Block) : Block :=
  b.modGarnet (fun g => { g with overrun := satAdd 65535 g.overrun k })

/-- The last Sub-frame before the coming boundary has started. -/
def lastStarted (g : Garnet) : Bool :=
  match g.cad with
  | some (_, grid, _, _) => if g.inBridge then g.last else decide (grid < g.j + g.d)
  | none => false

/-- Length of the CAD1 period that the event at tick `n` starts: the staged cadence's first where `n` is its first event
(R89, R90), else the next of the cadence in force. -/
def periodAfter (q : Quartz) (n : Nat) : Nat :=
  match q.staged with
  | some s =>
    if takesAt q n || (s.align != 0 && s.align == n) then (nextPeriod 0 s.cad.reload s.cad.dnum s.cad.dden).2
    else lookPeriod q
  | none => lookPeriod q

/-- The tick of the first CAD1 event E for which the Sub-frame that ends at E starts after now (R102): the coming
boundary, or once its last Sub-frame has started the one after it, which after t0 is ALIGN (R505). -/
def triggerBoundary (b : Block) : Nat :=
  match b.garnet.cad with
  | some (s, _, l, _) =>
    if !lastStarted b.garnet then s + l
    else if b.garnet.t0In = 1 then (match b.quartz.staged with | some x => x.align | none => s + l)
    else s + l + periodAfter b.quartz (s + l)
  | none => 0

/-- That event E is t0, at which no Frame starts (R505, R507). -/
def meetsT0 (g : Garnet) : Bool := !g.inBridge && g.t0In == (if lastStarted g then 2 else 1)

/-- A trigger accepted now is latched whatever POLICY is in force (R507): no program applied, or one that fails R91 under the
cadence in force; a group holds the first Hand back; Garnet waits after a start or a recovery, or has not started. -/
def noStart (b : Block) : Bool :=
  (match b.garnet.applied with
    | some p => (programFit b.quartz.cap p).isSome
    | none => true) ||
    b.thermalHold || 1 < b.garnet.waitSf || b.garnet.skipHand || !b.garnet.started

/-- A trigger of this kind accepted now (R99, R101 to R106, R507): at a time of R507 it is latched; with a Frame in progress
POLICY decides (R103, R104); else it is bound, or latched where its boundary can start no Hand. -/
def acceptTrigger (kind : TrigKind) (b : Block) : Block :=
  let g := b.garnet
  let stamp := b.quartz.tb
  let log (ok : Bool) (b : Block) : Block :=
    b.logEvr .garnet 0x03 (leBytes 1 (if kind = .pin then 0 else 1) ++ leBytes 1 (bit ok) ++ leBytes 8 stamp)
  if g.mode = .continuous || !sourceTakes g.source kind then b
  else if g.latch.isSome then log false (addOverrun 1 b)
  else
    let n := triggerBoundary b
    let latch := log true (b.modGarnet (fun g => { g with latch := some stamp }))
    if noStart b then latch
    else if g.bound.isSome || g.hand.isSome then
      match g.policy with
      | .queueOne => latch
      | .ignore => log false (addOverrun 1 b)
    else if !canStart b n || meetsT0 g || !burstReady g then latch
    else latchPoint n (some stamp) (log true b)

/-- Triggers that Garnet does not accept are counted, but for CONTINUOUS, in which trigger events are not counted (R99). -/
def missTriggers (k : Nat) (b : Block) : Block := if b.garnet.mode = .continuous then b else addOverrun k b

/-- TRIGGER_EVENT (R101): the next trigger event from Agate; each lost one adds 1 to TRIG_OVERRUN (12 R330). -/
def triggerEvent (lost : Nat) (b : Block) : Block :=
  let q := b.ch.agateGarnet
  let n := min lost q.length
  let b := b.modCh (fun c => { c with agateGarnet := q.drop n })
  let b := b.modGarnet (fun g => { g with trigExpect := (g.trigExpect + n) % 65536 })
  let b := if gapSeen n then eventGap .garnet (missTriggers (n % 65536) b) else b
  match b.ch.agateGarnet with
  | [] => b
  | k :: rest =>
    let b := b.modCh (fun c => { c with agateGarnet := rest })
    acceptTrigger k (b.modGarnet (fun g => { g with trigExpect := (g.trigExpect + 1) % 65536 }))

/-! ### Descriptors -/

/-- FRAME_PROGRAM (R67): checked at arrival; staged, or completed with the refusal of the first failing row. -/
def frameProgram (desc : Nat) (b : Block) : Block :=
  match b.dispatched ctrlRing desc 0x01 with
  | none => b
  | some d =>
    let p := parseProgram d
    match programFault p with
    | some off => finishCtrl desc stMalformed frameNone 0 off b
    | none =>
      if p.gen ≤ b.garnet.maxGen then finishCtrl desc stGenStale frameNone 0 0 b
      else match programFit b.quartz.cap p with
        | some st => finishCtrl desc st frameNone 0 0 b
        | none => b.modGarnet (fun g => { g with maxGen := p.gen, staged := g.staged ++ [{ prog := p, desc }] })

/-- A START reaches Garnet (R96, 08 R214). -/
def startTake (desc : Nat) (d : List Byte) (b : Block) : Block :=
  if b.garnet.stopped || b.garnet.shutdown then finishCtrl desc stCancelled frameNone 0 0 b
  else
    let w : WaitingStart := { takeId := leAt d 32 4, count := leAt d 20 4, atTb := leAt d 24 8, desc, seen := false }
    b.modGarnet (fun g => { g with start := some w })

/-- TAKE_START (R96, R92, 08 R214). -/
def takeStart (desc : Nat) (b : Block) : Block :=
  match b.dispatched ctrlRing desc 0x02 with
  | none => b
  | some d =>
    let action := leAt d 16 1
    if action = 1 then b
    else if action != 0 then finishCtrl desc stMalformed frameNone 0 16 b
    else if leAt d 20 4 = 0xFFFFFFFF then finishCtrl desc stMalformed frameNone 0 20 b
    else if b.opal.held == some desc then b
    else if b.garnet.take.isSome || b.garnet.start.isSome || b.opal.held.isSome then
      finishCtrl desc stTakeOpen frameNone 0 0 b
    else if b.quartz.capState = 2 then b.modOpal (fun o => { o with held := some desc })
    else startTake desc d b

/-- TAKE_STOP (R97, R92, 08 R214). -/
def takeStop (desc : Nat) (b : Block) : Block :=
  match b.dispatched ctrlRing desc 0x02 with
  | none => b
  | some d =>
    if leAt d 16 1 != 1 then b
    else match b.opal.held with
      | some h =>
        let b := b.modOpal (fun o => { o with held := none })
        finishCtrl desc stOk frameNone 0 0 (finishCtrl h stCancelled frameNone 0 0 b)
      | none =>
        match b.garnet.start with
        | some w =>
          let b := b.modGarnet (fun g => { g with start := none })
          finishCtrl desc stOk frameNone 0 0 (finishCtrl w.desc stCancelled frameNone 0 0 b)
        | none =>
          if b.garnet.take.isNone then finishCtrl desc stNoTake frameNone 0 0 b
          else if b.garnet.stops.any (fun s => s.desc == desc) then b
          else if b.garnet.shutdown then finishCtrl desc stCancelled frameNone 0 0 b
          else b.modGarnet (fun g => { g with stops := g.stops ++ [{ atTb := leAt d 24 8, desc, seen := false }] })

/-- TRIGGER (R98): MODE, POLICY and SOURCE are staged for the next latch point. -/
def trigger (desc : Nat) (b : Block) : Block :=
  match b.dispatched ctrlRing desc 0x03 with
  | none => b
  | some d =>
    let mode := leAt d 16 1
    let policy := leAt d 17 1
    let source := leAt d 18 1
    if 1 < mode then finishCtrl desc stMalformed frameNone 0 16 b
    else if 1 < policy then finishCtrl desc stMalformed frameNone 0 17 b
    else if 2 < source then finishCtrl desc stMalformed frameNone 0 18 b
    else if b.garnet.stagedTrigger.any (fun t => t.desc == desc) then b
    else
      let t : StagedTrigger := {
        mode := if mode = 0 then .continuous else .triggered
        policy := if policy = 0 then .queueOne else .ignore
        source := if source = 0 then .trigIn else if source = 1 then .seq else .both
        desc }
      b.modGarnet (fun g => { g with stagedTrigger := g.stagedTrigger ++ [t] })

/-! ### Records and events -/

/-- THERMAL_STEP (15 R409): held for the next Boundary Merge. -/
def thermalStep (b : Block) : Block :=
  match b.ch.berylGarnet with
  | [] => b
  | t :: rest => (b.modCh (fun c => { c with berylGarnet := rest })).modGarnet (fun g => { g with thermal := some t })

/-- STOP_REQUEST (10 R281): acts as a STOP at the first boundary whose latch point follows; the first one counts. -/
def stopRequest (b : Block) : Block :=
  match b.ch.stopRequests with
  | [] => b
  | r :: rest =>
    let b := b.modCh (fun c => { c with stopRequests := rest })
    if b.garnet.take.isSome && b.garnet.stopReq.isNone then b.modGarnet (fun g => { g with stopReq := some r }) else b

/-- The next Stripe to drain of a job, among its closed Slots and in increasing Stripe order (02, Drained Stripes): each
Stripe of Plane A before the same Stripe of Plane B, and Plane A without waiting for Plane B to close (03, timeline of
the 24 fps example). In Burst use, Plane by Plane in the order in which they closed (04, Burst spacing; log entry 65). -/
def nextStripe (j : DrainJob) : Option (Nat × Nat) :=
  let last := j.snap.prog.drainLast
  let ps := j.planes.zipIdx
  if j.snap.prog.slotUse then
    let closed := ps.filter (fun ((_, c, n), _) => c && n ≤ last)
    let ends (k : Nat) : Nat := match j.snap.planes[k]? with | some r => r.e | none => 0
    (closed.foldl (fun (r : Option (Nat × Nat)) ((_, _, n), k) =>
      match r with
      | some (p, _) => if ends k < ends p then some (k, n) else r
      | none => some (k, n)) none)
  else
    let ready := ps.filter (fun ((_, c, n), k) => c && n ≤ last && ps.all (fun ((_, _, m), i) => k ≤ i || n < m))
    ready.foldl (fun (r : Option (Nat × Nat)) ((_, _, n), k) =>
      match r with
      | some (_, m) => if n < m then some (k, n) else r
      | none => some (k, n)) none

/-- The profile record of a Frame (07 R187). -/
def profileRecord (s : Snapshot) (reads : Nat) (p : List Nat) : List Byte :=
  leBytes 8 s.cad1Stamp ++ leBytes 4 s.l ++ leBytes 2 s.g ++ leBytes 2 s.nEff ++ leBytes 8 s.frame ++ leBytes 8 reads ++
    leBytes 32 0 ++ (List.range 4096).flatMap (fun i => leBytes 4 (p.getD i 0))

/-- Stripe `n` of Plane `k` of a job has been read out and written: its token goes to Jade (R17, R56). -/
def drainOne (j : DrainJob) (k n : Nat) (b : Block) : Block :=
  let s := j.snap
  let slot := (j.planes.getD k (0, false, 0)).1
  let bytes := stripeBytes b.garnet.array slot n
  let a := j.addr + (k * s.prog.stripes + (n - s.prog.drainFirst)) * stripeLen
  let b := b.dramWrite a bytes
  let b := sendTokens [stripeToken s k n a stripeLen (crc32c bytes) 0] b
  b.modGarnet (fun g => { g with
    drn := .holding
    slots := if n = s.prog.drainLast then vset g.slots slot .free else g.slots
    jobs := g.jobs.map (fun q =>
      if q.snap.frame = s.frame then
        { q with planes := q.planes.map (fun (sl, c, m) => if sl = slot then (sl, c, n + 1) else (sl, c, m)) }
      else q) })

/-- DRAIN_STRIPE_DONE (R17): DRN finishes the next Stripe of the oldest Frame, or its profile record once every Stripe
has gone (07 R187). Nothing while it holds a token. -/
def drainStripeDone (b : Block) : Block :=
  if b.garnet.drn == .holding then b
  else match b.garnet.jobs with
    | [] => b
    | j :: rest =>
      match nextStripe j with
      | some (k, n) => drainOne j k n b
      | none =>
        let done := j.planes.all (fun (_, c, n) => c && j.snap.prog.drainLast < n)
        match j.profile with
        | some (reads, p) =>
          if !done then b
          else
            let bytes := profileRecord j.snap reads p
            let a := j.addr + j.snap.prog.planeCount * j.snap.prog.stripes * stripeLen
            let b := b.dramWrite a bytes
            let b := sendTokens [stripeToken j.snap 0 255 a profileLen (crc32c bytes) 0] b
            b.modGarnet (fun g => { g with drn := .holding, jobs := rest })
        | none => b

/-- STRIPE_TOKEN_ACK (R17): DRN may begin its next Stripe. -/
def stripeTokenAck (b : Block) : Block :=
  if b.ch.drnAck && b.garnet.drn == .holding then
    (b.modCh (fun c => { c with drnAck := false })).modGarnet (fun g => { g with drn := .idle })
  else b

/-- A Frame stopped by main-input loss: TRUNCATED, its Planes' W_ON and EXPOSURE 0 (09 R235), no Stripe drained. -/
def truncate (s : Snapshot) (last : Bool) (b : Block) : Block :=
  let s := { s with
    flags := { s.flags with truncated := true, takeLast := last }
    planes := s.planes.map (fun r => { r with wOn := 0, exposure := 0 }) }
  tellOutcome s .truncated 0 true (sendHeader s (b.modGarnet (dropDrain s.frame)))

/-- Garnet stops for good: the open Take ends with this reason, and its last Frame is named to Opal and Onyx. -/
def stopCapture (r : EndReason) (b : Block) : Block :=
  let g := b.garnet
  let b := match g.start with
    | some w => finishCtrl w.desc stCancelled frameNone 0 0 (b.modGarnet (fun g => { g with start := none }))
    | none => b
  let b := match g.take with
    | some t =>
      let last := if t.captured = 0 then none else some (g.frameNo - 1)
      sendNotice { frame := g.frameNo, snap := none, takeStart := none, takeStop := some (t.takeId, r, last) }
        (endTake b.quartz.tb t b)
    | none => b
  b.modGarnet (fun g => { g with hand := none, bound := none, boundReady := false, bc := none, stopped := true, started := false })

/-- POWER_LOSS_STOP (14 R394 step 1): no Sub-frame after the one in progress; the Frame in progress and a bound Frame are
TRUNCATED. -/
def powerLossStop (b : Block) : Block :=
  match b.ch.topazGarnet with
  | .loss _ :: rest =>
    let b := b.modCh (fun c => { c with topazGarnet := rest })
    if b.garnet.stopped then b
    else
      let hand := b.garnet.hand
      let bound := b.garnet.bound
      let inTake := b.garnet.take.isSome
      let b := match hand with
        | some h => truncate h.snap (bound.isNone && inTake && h.snap.take.isSome) b
        | none => b
      let b := match bound with | some s => truncate s (inTake && s.take.isSome) b | none => b
      stopCapture .powerLoss b
  | _ => b

/-- A Frame bound before the shutdown event does not start (15 R412 step 1). It exists all the same (01 R12): it is TRUNCATED (log
entry 120), and the open Take ends with the Frame before it. -/
def dropBound (b : Block) : Block :=
  match b.garnet.bound with
  | none => b
  | some s =>
    let b := (truncate s false b).modGarnet (fun g => { g with bound := none, boundReady := false })
    match b.garnet.take with
    | some t =>
      let last := if t.captured ≤ 1 then none else some (s.frame - 1)
      sendNotice { frame := b.garnet.frameNo, snap := none, takeStart := none, takeStop := some (t.takeId, .shutdown, last) }
        (endTake b.quartz.tb t b)
    | none => b

/-- GARNET_SHUTDOWN (15 R412 step 1): the Frame in progress finishes; a START or STOP not yet in effect completes
CANCELLED; no Frame starts at a later boundary. -/
def garnetShutdown (b : Block) : Block :=
  match b.ch.topazGarnet with
  | .shutdown :: rest =>
    let b := b.modCh (fun c => { c with topazGarnet := rest })
    if b.garnet.shutdown then b
    else
      let start := b.garnet.start
      let stops := b.garnet.stops
      let b := b.modGarnet (fun g => { g with shutdown := true, start := none, stops := [] })
      let b := match start with
        | some w => finishCtrl w.desc stCancelled frameNone 0 0 b
        | none => b
      dropBound (stops.foldl (fun b s => finishCtrl s.desc stCancelled frameNone 0 0 b) b)
  | _ => b

/-- GRN_FRAME_LO_READ (18 R470): the next frame number's low half is read, its high half latched. -/
def grnFrameLoRead (b : Block) : Block :=
  if !b.bar0 then b
  else
    let n := b.garnet.view.frame
    let b := b.modGarnet (fun g => { g with frameHi := n / 2 ^ 32 % 2 ^ 32 })
    b.modOut (fun o => { o with readData := BitVec.ofNat 32 n })

end Sys2Proof.Machine
end

