-- ==== Sys2Proof/Machine/Window.lean ====
section
/-! DEFINITION. Frames in the Ledger window (09 R243): how Opal changes them, and the notes by which Jade, Spinel and Onyx tell
Opal what their records take (06 R144, R163; 08 R222; 09 R237, R249, R252; log entry 15). -/

namespace Sys2Proof.Machine

/-- Change a Frame of the window; a Frame outside it is not touched. -/
def winMod (frame : Nat) (f : LedgerFrame → LedgerFrame) (b : Block) : Block :=
  b.modOpal (fun o => { o with window := o.window.map (fun w => if w.frame = frame then f w else w) })

/-- A Frame of the window. -/
def winGet (b : Block) (frame : Nat) : Option LedgerFrame := b.opal.window.find? (·.frame == frame)

/-- Change Destination `index` of a Frame. -/
def onDest (index : Nat) (f : LedgerDest → LedgerDest) (w : LedgerFrame) : LedgerFrame :=
  { w with dests := w.dests.map (fun d => if d.dest.index = index then f d else d) }

/-- Change one Destination of a Frame of the window. -/
def destMod (frame index : Nat) (f : LedgerDest → LedgerDest) (b : Block) : Block := winMod frame (onDest index f) b

/-- A mark joins the record's; FAILSTOP sets FAIL_STOP (06 R144, 12 R327). -/
def markFrame (frame : Nat) (m : BitVec 16) (b : Block) : Block :=
  winMod frame (fun w => { w with marks := w.marks ||| m, failStop := w.failStop || hasMark m markFailStop }) b

/-- DURABILITY that goes with a magazine outcome (R252). -/
def durabilityOf : DestOutcome → Nat
  | .done => 4
  | .partial_ => 4
  | _ => 5

/-- A Destination's outcome is decided, once (R237); a magazine Destination's DURABILITY follows it (R252), and no port holds
a Segment that is lost. -/
def decide_ (o : DestOutcome) (d : LedgerDest) : LedgerDest :=
  if d.outcome != .pending then d
  else if d.dest.magazine then
    { d with outcome := o, durability := durabilityOf o, anteHeld := false, ports := if durabilityOf o = 4 then d.ports else 0 }
  else { d with outcome := o }

/-! ### Notes -/

/-- What a note changes in the Frame it names. -/
def takeNote (n : LedgerNote) (w : LedgerFrame) : LedgerFrame :=
  match n with
  | .marks m => { w with marks := w.marks ||| m }
  | .drained p s => { w with drained := w.drained.modify p (· ||| 2 ^ s) }
  | .refMissing bits => { w with refMissing := w.refMissing ||| bits }
  | .segment i m map dur => onDest i (fun d => { d with
      ready := true, marks := d.marks ||| m, stripeMap := d.stripeMap ||| map, durability := max d.durability dur }) w
  | .share i p => onDest i (fun d =>
      if d.durability = 5 then d else { d with durability := max 3 d.durability, ports := d.ports ||| 2 ^ p }) w
  | .shareLost i p => onDest i (fun d => { d with ports := d.ports &&& (15 - 2 ^ p) }) w
  | .durable i map => onDest i (fun d => { d with doneMap := d.doneMap ||| map, durability := max d.durability 4 }) w
  | .rehomed i => onDest i (fun d => { d with rehomed := true }) w
  | .ante i on => onDest i (fun d => if d.outcome = .pending then { d with anteHeld := on } else d) w
  | .joined id first => { w with ante := true, takeFirst := first, snap := { w.snap with take := some id } }
  | .notFirst => { w with takeFirst := false }
  | .lastOfTake => { w with takeLast := true }
  | .outcome i o => onDest i (decide_ o) w

/-- The highest frame number that the window holds. -/
def windowTop (b : Block) : Nat := (b.opal.window.map (·.frame)).foldl max 0

/-- Opal takes every note of a Frame that it has bound; those of a Frame still to be bound wait. Fail-stopped, its Ledger Merge
still runs (12 R328). -/
def takeNotes (b : Block) : Block :=
  if !b.takes .opal then b
  else
    let due (f : Nat) : Bool := (winGet b f).isSome || f < windowTop b
    let l := b.ch.ledgerNotes.filter (fun e => due e.1)
    let b := b.modCh (fun c => { c with
      ledgerNotes := c.ledgerNotes.filter (fun e => !due e.1), kept := { c.kept with ledgerNotes := c.kept.ledgerNotes ++ l } })
    l.foldl (fun b e => winMod e.1 (takeNote e.2) b) b

/-- A note goes to Opal, which takes it at once unless it withholds acknowledge (01 R16). -/
def tellOpal (frame : Nat) (n : LedgerNote) (b : Block) : Block :=
  takeNotes (b.modCh (fun c => { c with ledgerNotes := c.ledgerNotes ++ [(frame, n)] }))

/-- Decide one Destination's outcome. -/
def decideDest (frame index : Nat) (o : DestOutcome) (b : Block) : Block := destMod frame index (decide_ o) b

/-- Decide the outcome of every Destination of a Frame that `p` picks. -/
def decideAll (frame : Nat) (p : LedgerDest → Bool) (o : DestOutcome) (b : Block) : Block :=
  winMod frame (fun w => { w with dests := w.dests.map (fun d => if p d then decide_ o d else d) }) b

/-- The first Frame an Island fails in a fault (12 R321). -/
def noteFailed (i : Island) (frame : Nat) (b : Block) : Block :=
  b.modIsl i (fun s => if s.frozen.isSome then { s with firstFailed := some (min frame (s.firstFailed.getD frame)) } else s)

/-- A list of failed Frames with this one in it. -/
def withFrame (frame : Nat) (l : List Nat) : List Nat := if l.contains frame then l else frame :: l

/-- MERGE_DIGEST trace entry: a Frame leaves a Merge Point (12 R342). -/
def mergeDigest (src : Island) (point frame count : Nat) (b : Block) : Block :=
  b.logEvr src 0x13 (leBytes 1 point ++ leBytes 8 frame ++ leBytes 2 count ++ leBytes 4 (Config.tagDigest frame (8 + point)).toNat)

/-- MERGE_FAIL trace entry: a failed item passes a Merge Point (12 R342). -/
def mergeFail (src : Island) (point frame ordinal : Nat) (mark : BitVec 16) (b : Block) : Block :=
  b.logEvr src 0x12 (leBytes 1 point ++ leBytes 8 frame ++ leBytes 2 ordinal ++ leBytes 2 mark.toNat)

/-- What ECC found is counted; an uncorrectable error is posted with class DRAM_UE (12 R331). -/
def eccCount (by_ : Island) (frame : Nat) (e : Ecc) (b : Block) : Block :=
  match e with
  | .ok => b
  | .ce => b.modTopaz (fun t => { t with ce := satAdd 65535 t.ce 1 })
  | .ue => postFault by_ 4 0 frame (b.modTopaz (fun t => { t with ue := satAdd 65535 t.ue 1 }))

end Sys2Proof.Machine
end

