-- ==== Sys2Proof/Machine/Jade.lean ====
section
/-! DEFINITION. Jade: header, Stripe and profile tokens, the pass over each Stripe, Segments and the statistics record,
reference pictures, processing settings and the clock divider (01 R25, R26; 06; 07; 08 R217; 12 R331, R344; 15 R410). -/

namespace Sys2Proof.Machine

/-! ### Messages from Garnet -/

/-- A sender keeps an item once, however often it has sent it (12 R319). -/
def keepOnce {α : Type} [BEq α] (x : α) (l : List α) : List α := if l.contains x then l else l ++ [x]

/-- Jade takes the oldest message of the Garnet → Jade channel and retires it. -/
def takeToken (b : Block) : Block := b.modCh (fun c => { c with garnetJade := c.garnetJade.drop 1 })

/-- Jade takes the oldest message of the Garnet → Jade channel; Garnet keeps it until its Frame is done with (12 R319). -/
def keepToken (b : Block) : Block :=
  b.modCh (fun c => { c with
    garnetJade := c.garnetJade.drop 1
    kept := { c.kept with garnetJade := (c.garnetJade.take 1).foldl (fun l m => keepOnce m l) c.kept.garnetJade } })

/-- Jade is done with a Frame: what its senders kept of it is retired (12 R319). -/
def retireInJade (frame : Nat) (b : Block) : Block :=
  b.modCh (fun c => { c with kept := { c.kept with
    garnetJade := c.kept.garnetJade.filter (fun m => m.frameOf != frame)
    opalJade := c.kept.opalJade.filter (fun m => m.1 != frame)
    onyxJade := c.kept.onyxJade.filter (fun m => m.1 != frame)
    spinelJade := c.kept.spinelJade.filter (fun m => m.1 != frame) } })

/-- Correction settings as a header token copies them (06 R172, 07 R195). -/
def corrCfg (b : Block) : CorrCfg := {
  dynEn := b.field 0x3000 0 0 == 1, dynRel := b.field 0x3000 15 8, dynAbs := b.field 0x3000 31 16
  hotThr := b.field 0x3004 23 0, obClip := b.field 0x3008 15 0, flkPeriod := b.reg 0x3100 }

/-- A Frame whose header fails it: no Stripe of it is processed (01 R19, 12 R330, 14 R394). -/
def failedHeader (f : SnapFlags) : Bool := f.noBuffer || f.truncated || f.timing || f.failStop

/-- A header that opens no Frame in Jade: it fails its Frame, or the Frame never starts (01 R12, 04 R91). -/
def deadHeader (s : Snapshot) : Bool := failedHeader s.flags || s.time.isNone

/-- What Jade holds of a Frame goes, and what its senders kept. -/
def closeFrame (frame : Nat) (b : Block) : Block :=
  (retireInJade frame b).modJade (fun j => { j with
    frames := j.frames.filter (fun f => f.snap.frame != frame), resv := j.resv.filter (fun r => r.1 != frame)
    destSets := j.destSets.filter (fun r => r.1 != frame), cfgs := j.cfgs.filter (fun r => r.1 != frame)
    announced := j.announced.filter (· != frame), inject := j.inject.filter (fun r => r.1 != frame) })

/-- A Frame as its header token opens it in Jade. -/
def openFrame (s : Snapshot) (cfg : CorrCfg) (dests : Option (List Dest)) : JFrame := {
  snap := s, cfg, dests, segs := [], stripes := [], processed := []
  stats := .replicate s.prog.planeCount emptyStats, marks := 0, dynCount := 0, profile := none, statsDone := false }

/-- A failed item goes on to Spinel: Length 0, the mark, and the tag of the item it replaces (12 R326, R338). -/
def sendFailedItem (frame plane stripe index : Nat) (m : BitVec 16) (b : Block) : Block :=
  b.modCh (fun c => { c with jadeSpinel := c.jadeSpinel ++ [{
    frame, plane, index, stripe, len := 0, marks := m, header := false, magazine := false, sent := b.stamp .spinel }] })

/-- The item that stands for a Frame failed before Jade is done with it: its header, which belongs to no Stripe (01 R27). -/
def sendFailed (frame : Nat) (m : BitVec 16) (b : Block) : Block := sendFailedItem frame 0 255 0 m b

/-- The items of a Frame that Jade holds, as (plane, stripe) in key order: the header, and the Stripes that it has not processed
(12 R326). -/
def heldTags (b : Block) (frame : Nat) : List (Nat × Nat) :=
  let l := match b.jade.frames.find? (fun f => f.snap.frame == frame) with
    | some f => (f.stripes.map (fun t => (t.plane, t.stripe))).filter (fun t => !f.processed.contains t)
    | none => []
  ((0, 255) :: l).eraseDups.mergeSort (fun x y => x.1 < y.1 || (x.1 == y.1 && x.2 ≤ y.2))

/-- The mark that a header gives to the Frame it fails (12 R313). -/
def headerMark (f : SnapFlags) : BitVec 16 := markIf f.timing markTiming ||| markIf f.failStop markFailStop

/-- Frames before `frame` that Jade never opened will not come: what it was told of them is done with. -/
def dropUnopened (frame : Nat) (b : Block) : Block :=
  let past (f : Nat) : Bool := f < frame && !b.jade.frames.any (fun k => k.snap.frame == f)
  let fs := ((b.jade.resv.map (·.1)) ++ b.jade.destSets.map (·.1)).filter past
  fs.foldl (fun b f => closeFrame f b) b

/-- The correction settings of a Frame whose header token comes: a token sent again finds those of the first time (06 R172,
12 R323). -/
def cfgFor (b : Block) (frame : Nat) : CorrCfg :=
  match b.jade.cfgs.find? (fun r => r.1 == frame) with
  | some r => r.2
  | none => corrCfg b

/-- FRAME_HEADER_TOKEN (01 R21). What Jade still holds for Frames before this one that it never opened is dropped. -/
def frameHeaderToken (b : Block) : Block :=
  match b.ch.garnetJade with
  | .header s :: _ =>
    if b.jade.failed.contains s.frame then closeFrame s.frame (takeToken b)
    else if deadHeader s then sendFailed s.frame (headerMark s.flags) (closeFrame s.frame (takeToken b))
    else
      let cfg := cfgFor b s.frame
      let b := dropUnopened s.frame (keepToken b)
      b.modJade (fun j => { j with
        frames := j.frames.filter (fun f => f.snap.frame != s.frame) ++
          [openFrame s cfg ((j.destSets.find? (fun r => r.1 == s.frame)).map (·.2))]
        cfgs := j.cfgs.filter (fun r => r.1 != s.frame) ++ [(s.frame, cfg)]
        destSets := j.destSets.filter (fun r => r.1 != s.frame) })
  | _ => b

/-- Change a Frame in Jade. -/
def modFrame (frame : Nat) (f : JFrame → JFrame) (b : Block) : Block :=
  b.modJade (fun j => { j with frames := j.frames.map (fun k => if k.snap.frame = frame then f k else k) })

/-- The tap takes entries (12 R344). -/
def tapOn (b : Block) : Bool := bitOf (b.reg 0x9200) 2 && b.recording && b.beryl.otc.replayOk

/-- Size of the tap buffer in bytes; below 1,024 units it acts as none (12 R351). -/
def tapSize (b : Block) : Nat := if b.reg 0x9218 < 1024 then 0 else 4096 * b.reg 0x9218

/-- Header of a tap entry (12, table Tap entry header). -/
def tapHeader (len seq : Nat) (t : StripeToken) : List Byte :=
  let h := leBytes 4 0x50415443 ++ leBytes 4 len ++ leBytes 8 seq ++ leBytes 8 t.frame ++
    leBytes 2 (t.plane * 2 ^ 14 + t.stripe * 2 ^ 6) ++ leBytes 2 t.marks.toNat ++ leBytes 4 t.gen ++
    leBytes 4 t.crc.toNat ++ leBytes 24 0
  h ++ leBytes 4 (crc32c h).toNat

/-- Spinel has room for a tap entry now: the spec does not say what room it has, so that the choice is a free value (12 R344;
log entry 113). -/
def tapRoom (b : Block) : Bool := Config.freeWord b.fresh &&& 1 == 0

/-- Copy a drained Stripe or profile record to the tap buffer (12 R344); dropped and counted when it cannot move or Spinel lacks
capacity for it. -/
def tapCopy (t : StripeToken) (bytes : List Byte) (b : Block) : Block :=
  if !tapOn b || tapSize b = 0 then b
  else if !b.hostUp || !b.alive .spinel || !tapRoom b then
    { b with fresh := b.fresh + 1 }.modBeryl (fun y => { y with evr := { y.evr with lostTap := satAdd 65535 y.evr.lostTap 1 } })
  else
    let base := b.reg 0x9210 + 2 ^ 32 * b.reg 0x9214
    let len := 64 + t.len
    let seq := b.jade.tapSeq
    let wrap := tapSize b < b.jade.tapOff + len
    let b := if wrap && b.jade.tapOff < tapSize b then
      b.hostWrite (base + b.jade.tapOff) (tapHeader 0 seq { t with len := 0 }) else b
    let off := if wrap then 0 else b.jade.tapOff
    let b := b.hostWrite (base + off) (tapHeader t.len seq t ++ bytes)
    let b := { b with fresh := b.fresh + 1 }.modJade (fun j => { j with tapSeq := seq + 1, tapOff := (off + len + 63) / 64 * 64 })
    b.modBeryl (fun y => { y with evr := { y.evr with feedSeq := (y.evr.feedSeq + 1) % 2 ^ 32 } })

/-- A drained Stripe as its bytes give it (02 R56). -/
def readStripe (bytes : List Byte) : Array Nat × Array Bool × Array Nat :=
  let a := bytes.toArray
  (((List.range stripeCells).map (fun k => refBytes a (3 * k) 3)).toArray,
    ((List.range 70144).map (fun i => (a.getD (3366912 + i / 8) 0).toNat.testBit (i % 8))).toArray,
    ((List.range 274).map (fun tc => refBytes a (3375680 + 4 * tc) 4)).toArray)

/-- STRIPE_TOKEN (R141, R142): Jade reads the Stripe; `bad1` and `bad2` say that the first read, and the read again,
returned other bytes than were written; with an uncorrectable error both reads fail (12 R331).
A token of a Frame that Jade does not hold is taken and passed over (12 R327); one sent again is read again, and neither
acknowledged nor traced a second time (12 R321, R323). -/
def stripeToken_ (bad1 bad2 : Bool) (ecc : Ecc) (b : Block) : Block :=
  match b.ch.garnetJade with
  | .stripe t :: _ =>
    if t.stripe = 255 || !b.accepts .jade t.sent then b
    else
      let again := b.ch.kept.garnetJade.contains (.stripe t)
      let b := if t.len != 0 && !again then b.modCh (fun c => { c with drnAck := true }) else b
      if !b.jade.frames.any (fun f => f.snap.frame == t.frame) then takeToken b
      else
        let b := keepToken b
        let gone := t.len = 0
        let b := if gone then b else eccCount .jade t.frame ecc b
        let ue := ecc == .ue
        let bytes := if gone then [] else b.dramRead t.addr t.len
        let fail1 := bad1 || ue || crc32c bytes != t.crc
        let fail2 := bad2 || ue || crc32c bytes != t.crc
        let missing := gone || (fail1 && fail2)
        let b := if !missing && fail1 then b.modJade (fun j => { j with crcRetried := satAdd 65535 j.crcRetried 1 })
          else if !gone && fail1 && fail2 then b.modJade (fun j => { j with crcBad := satAdd 65535 j.crcBad 1 })
          else b
        let data := if missing then none else some (readStripe bytes)
        let past := match data with | some (_, fl, _) => fl.any id | none => false
        let m := t.marks ||| markIf (!missing && fail1) markCrcRetried ||| markIf (!gone && missing) markCrcBad |||
          markIf past markOverflow
        let b := modFrame t.frame (fun f => { f with
          stripes := f.stripes ++ [{ plane := t.plane, stripe := t.stripe, marks := m, data }], marks := f.marks ||| m }) b
        let b := tellOpal t.frame (.marks m) b
        let b := if missing then (if again then b else mergeFail .jade 1 t.frame t.ordinal m b)
          else tellOpal t.frame (.drained t.plane t.stripe) b
        if gone || again then b else tapCopy t bytes b
  | _ => b

/-! ### What a Frame needs before a Stripe is processed -/

/-- The reserved address of a Frame's Destination: none until Jade knows it, `some none` where no Segment is produced. -/
def segAddr (j : Jade) (frame index : Nat) : Option (Option Nat) :=
  (j.resv.find? (fun r => r.1 == frame && r.2.1 == index)).map (·.2.2)

/-- Every Destination of the Frame and its address are known. -/
def destsKnown (j : Jade) (f : JFrame) : Option (List Dest) :=
  match f.dests with
  | some l => if l.all (fun d => (segAddr j f.snap.frame d.index).isSome) then some l else none
  | none => none

/-- A Stripe of the Frame has arrived, or has been declared missing. -/
def arrived (f : JFrame) (p s : Nat) : Bool := f.stripes.any (fun t => t.plane == p && t.stripe == s)

/-- Stripe `s` of Plane `p` may be processed (R145). -/
def readyStripe (f : JFrame) (p s : Nat) : Bool :=
  arrived f p s && (s == f.snap.prog.drainLast || arrived f p (s + 1))

/-- Some Context combines Planes A and B (R146). -/
def pairs (l : List Dest) : Bool := l.any (fun d => d.set.encoding != 3 && 4 ≤ d.set.planeSel)

/-- The drained Stripes of a Frame as (plane, stripe), in order of sequence tag (01 R27). -/
def stripeTags (p : FrameProgram) : List (Nat × Nat) :=
  (List.range p.planeCount).flatMap (fun k => (List.range p.stripes).map (fun i => (k, p.drainFirst + i)))

/-- What the Drain Merge passes next (01 R28; log entry 16): the Stripe with the lowest sequence tag that has not passed,
once it may be processed; a Stripe with a higher tag waits for it. Planes A and B pass together where a Context combines
them. Answers the Planes and the Stripe. -/
def nextUnit (f : JFrame) (l : List Dest) : Option (List Nat × Nat) :=
  match (stripeTags f.snap.prog).find? (fun t => !f.processed.contains t) with
  | none => none
  | some (k, s) =>
    if pairs l && k < 2 then (if readyStripe f 0 s && readyStripe f 1 s then some ([0, 1], s) else none)
    else if readyStripe f k s then some ([k], s)
    else none

/-! ### Reference pictures in use -/

/-- Bytes of a slot of the reference region (R161), and where the slots of a kind begin: defect maps, shading maps, dark
reference planes, in this order (log entry 11). -/
def refSlotSize : RefKind → Nat
  | .defect => 1048576
  | .shading => 80008
  | .dark => 481296384
def refKindBase : RefKind → Nat
  | .defect => referenceBase
  | .shading => referenceBase + 8 * 1048576
  | .dark => referenceBase + 8 * 1048576 + 32 * 80008

/-- Address of a slot. -/
def refAddr (kind : RefKind) (slot : Nat) : Nat := refKindBase kind + slot * refSlotSize kind

/-- A bound version that is not poisoned (R163; 12 R331). -/
def boundRef (j : Jade) (kind : RefKind) (v : Option Nat) : Option RefPic :=
  v.bind (fun v => j.refs.find? (fun r => r.kind == kind && r.version == v && !r.poisoned))

/-- The payload of a bound version, as the reference region holds it. -/
def refPayload (b : Block) (kind : RefKind) (v : Option Nat) : Option (Array Byte) :=
  (boundRef b.jade kind v).map (fun r => (b.dramRead (refAddr kind r.slot) r.len).toArray)

/-- Defect entries of a map. -/
def defectEntries (a : Array Byte) : List Nat := (List.range (a.size / 4)).map (fun i => refBytes a (4 * i) 4)

/-- k of a Plane (03 R79). -/
def planeK (s : Snapshot) (k : Nat) : Nat :=
  match s.planes[k]?, s.prog.planes[k]? with
  | some r, some pl =>
    let inside := (List.range (r.e - r.s)).map (· + r.s)
    if pl.gated then (inside.filter (fun i => planeTakes s.prog pl s.hCount i s.nEff)).length
    else (inside.filter (fun i => forcedAt s.prog s.nEff i)).length
  | _, _ => 0

/-- What Plane `k` of a Frame offers the stages. -/
def planeIn (b : Block) (f : JFrame) (k : Nat) : PlaneIn := {
  data := fun s => ((f.stripes.find? (fun t => t.plane == k && t.stripe == s)).bind (·.data)).map (·.1)
  first := f.snap.prog.drainFirst
  defects := match refPayload b .defect f.snap.refs.1 with | some a => defectEntries a | none => []
  dark := refPayload b .dark f.snap.refs.2.2
  knots := refPayload b .shading f.snap.refs.2.1
  k := planeK f.snap k
  cfg := f.cfg }

/-! ### Segments -/

/-- Bytes of a Segment's payload (07 R182). -/
def payloadLen (d : Dest) : Nat :=
  if d.set.encoding = 3 then statsLen else d.rows / d.set.bin * rowBytes d.set.encoding (d.set.winW / d.set.bin)

/-- DEST byte of a Segment header (07 R182). -/
def destByte (d : Dest) : Nat := d.index + 64 * bit d.magazine

/-- Segment header (07 R182). In a STATS Segment WIN_X0, WIN_W and OUT_PED are the settings' fields, which R173 has ignored
there (log entry 105). -/
def segHeader (f : JFrame) (d : Dest) (g : JSeg) : List Byte :=
  let st := d.set.encoding = 3
  let z (v : Nat) : Nat := if st then 0 else v
  let t := f.snap.time
  let h := leBytes 4 0x5345474D ++ leBytes 1 1 ++ leBytes 1 d.set.encoding ++ leBytes 2 128 ++ leBytes 8 f.snap.frame ++
    leBytes 4 f.snap.prog.gen ++ leBytes 1 d.ctx ++ leBytes 1 (destByte d) ++ leBytes 1 (z d.set.planeSel) ++
    leBytes 1 (z d.set.bin) ++ leBytes 2 d.set.winX0 ++ leBytes 2 d.set.winW ++ leBytes 2 d.row0 ++ leBytes 2 d.rows ++
    leBytes 4 (z (d.set.winW / d.set.bin)) ++ leBytes 4 (z (d.rows / d.set.bin)) ++
    leBytes 4 (z (rowBytes d.set.encoding (d.set.winW / d.set.bin))) ++ leBytes 2 d.set.outPed ++
    leBytes 2 g.marks.toNat ++ leBytes 4 (payloadLen d) ++ leBytes 4 (g.crc ^^^ 0xFFFFFFFF).toNat ++
    leBytes 24 g.stripeMap ++ leBytes 8 f.snap.cad1Stamp ++ leBytes 2 (match t with | some t => t.epoch | none => 0) ++
    leBytes 2 f.snap.nEff ++ leBytes 4 (match t with | some t => t.tc.toNat | none => 0) ++ leBytes 28 0
  h ++ leBytes 4 (crc32c h).toNat

/-- A Segment as it begins. -/
def freshSeg (i : Nat) : JSeg := { index := i, stripeMap := 0, marks := 0, crc := 0xFFFFFFFF, done := false }

/-- The Segment of Destination `i` so far. -/
def segOf (f : JFrame) (i : Nat) : JSeg := (f.segs.find? (·.index == i)).getD (freshSeg i)

/-- Replace a Segment. -/
def putSeg (g : JSeg) (f : JFrame) : JFrame := { f with segs := f.segs.filter (·.index != g.index) ++ [g] }

/-- The last Stripe that gives a Destination rows. -/
def lastStripeOf (d : Dest) : Nat := (d.row0 + d.rows - 1 + 32) / 64

/-- Plane of the sequence tags of a Destination's Segment Stripes: 1 for a combination, 0 for STATS (R166, 07 R185). -/
def destPlane (d : Dest) : Nat := if d.set.encoding = 3 then 0 else tagPlane d.set.planeSel

/-- Ordinal of a sequence tag (01 R27). -/
def tagOrdinal (plane stripe index : Nat) : Nat := plane * 2 ^ 14 + stripe * 2 ^ 6 + index

/-- Send a Segment Stripe token (07 R185). -/
def sendSegToken (frame : Nat) (d : Dest) (stripe len : Nat) (m : BitVec 16) (header : Bool) (b : Block) : Block :=
  b.modCh (fun c => { c with jadeSpinel := c.jadeSpinel ++ [{
    frame, plane := destPlane d, index := d.index, stripe, len, marks := m, header, magazine := d.magazine
    sent := b.stamp .spinel }] })

/-- Sequence tags of the Segment Stripes that Jade will produce for a Frame. -/
def dueTags (j : Jade) (f : JFrame) (l : List Dest) : List Nat :=
  (l.filter (fun d => (segAddr j f.snap.frame d.index).any Option.isSome)).flatMap (fun d =>
    if d.set.encoding = 3 then [tagOrdinal 0 255 d.index]
    else ((List.range p.stripes).map (· + p.drainFirst)).filterMap (fun s =>
      if (outRows d s).2 = 0 then none else some (tagOrdinal (destPlane d) s d.index)))
where p : FrameProgram := f.snap.prog

/-- Two sequence tags in key order (01 R27). -/
def tagLe (a b : Nat × Nat) : Bool := a.1 < b.1 || (a.1 == b.1 && a.2 ≤ b.2)

/-- Before its first Segment Stripe token, Spinel learns which tags of the Frame are to come, so that none passes the Egress
Merge before a smaller one (01 R28; log entry 16). -/
def announce (f : JFrame) (l : List Dest) (b : Block) : Block :=
  if b.jade.announced.contains f.snap.frame then b
  else
    let tags := (dueTags b.jade f l).map (fun t => (f.snap.frame, t))
    (b.modJade (fun j => { j with announced := j.announced ++ [f.snap.frame] })).modCh (fun c => { c with
      egressDue := (c.egressDue ++ tags.filter (fun t => !c.egressDue.contains t)).mergeSort tagLe })

/-- Write one Segment Stripe of a Destination, the header after the last, and send its token (07 R183 to R185). -/
def writeSegStripe (frame s : Nat) (d : Dest) (pic : Option (Array Int)) (m : BitVec 16) (b : Block) : Block :=
  match b.jade.frames.find? (fun f => f.snap.frame == frame), segAddr b.jade frame d.index with
  | some f, some (some a) =>
    let (y0, n) := outRows d s
    if n = 0 then b
    else
      let bytes := segmentRows d s pic
      let rb := rowBytes d.set.encoding (d.set.winW / d.set.bin)
      let b := b.dramWrite (a + 128 + y0 * rb) bytes
      let g := segOf f d.index
      let last := s = lastStripeOf d
      let g := { g with
        stripeMap := if pic.isSome then g.stripeMap ||| 2 ^ s else g.stripeMap
        marks := g.marks ||| m, crc := bytes.foldl crcByte g.crc, done := last }
      let b := modFrame frame (putSeg g) b
      let b :=
        if last then
          let b := b.dramWrite (a + 128 + payloadLen d) (.replicate (d.segLen - 128 - payloadLen d) 0)
          b.dramWrite a (segHeader f d g)
        else b
      sendSegToken frame d s bytes.length m last b
  | _, _ => b

/-- Write the STATS Segment of a Destination, and its one token (07 R185). STRIPE_MAP shows a Stripe that was drained and is not
missing in any Plane: the spec does not say for a Stripe that is missing in one Plane only (R142, 07 R182; log entry 79). -/
def writeStats (frame : Nat) (rec_ : List Byte) (d : Dest) (b : Block) : Block :=
  match b.jade.frames.find? (fun f => f.snap.frame == frame), segAddr b.jade frame d.index with
  | some f, some (some a) =>
    let g : JSeg := {
      index := d.index, marks := f.marks, crc := rec_.foldl crcByte 0xFFFFFFFF, done := true
      stripeMap := (f.stripes.filter (·.data.isSome)).foldl (fun m t => m ||| 2 ^ t.stripe) 0 }
    let b := modFrame frame (putSeg g) b
    let b := b.dramWrite (a + 128) rec_
    let b := b.dramWrite (a + 128 + statsLen) (.replicate (d.segLen - 128 - statsLen) 0)
    let b := b.dramWrite a (segHeader f d g)
    sendSegToken frame d 255 statsLen f.marks true b
  | _, _ => b

/-- Every drained Stripe of the Frame has been processed. -/
def allProcessed (f : JFrame) : Bool := f.processed.length == f.snap.prog.planeCount * f.snap.prog.stripes

/-- Once every Stripe has been processed and the profile has come, the statistics record is formed and its Segments are
written; the Frame leaves Jade. JADE_DYN_COUNT takes the Frame's count (R156). -/
def finishFrame (frame : Nat) (b : Block) : Block :=
  match b.jade.frames.find? (fun f => f.snap.frame == frame) with
  | none => b
  | some f =>
    match f.profile, destsKnown b.jade f with
    | some pr, some l =>
      if !allProcessed f then b
      else
        let stats := l.filter (fun d => d.set.encoding == 3)
        let b := if stats.isEmpty then b
          else let rec_ := statsRecord f pr; stats.foldl (fun b d => writeStats frame rec_ d b) b
        let b := mergeDigest .jade 1 frame f.stripes.length b
        (closeFrame frame b).modJade (fun j => { j with dynCount := f.dynCount })
    | _, _ => b

/-- A reference version that a Frame uses is struck by an uncorrectable error: it is poisoned (12 R331). -/
def poisonRef (s : Snapshot) (kind : RefKind) (b : Block) : Block :=
  let v := match kind with | .defect => s.refs.1 | .shading => s.refs.2.1 | .dark => s.refs.2.2
  b.modJade (fun j => { j with
    refs := j.refs.map (fun r => if r.kind == kind && some r.version == v then { r with poisoned := true } else r) })

/-- The kinds whose version bound to a Frame is poisoned (12 R331). -/
def poisonBits (j : Jade) (s : Snapshot) : Nat :=
  let bad (kind : RefKind) (v : Option Nat) : Bool := v.isSome && (boundRef j kind v).isNone
  flagBits [bad .defect s.refs.1, bad .shading s.refs.2.1, bad .dark s.refs.2.2]

/-- STRIPE_PROCESS (R139, R145, R146): the next unit of the oldest Frame through stages 2 to 8; `ecc` is what ECC found
in reading its reference picture of kind `kind`. -/
def stripeProcess (ecc : Ecc) (kind : RefKind) (b : Block) : Block :=
  match b.jade.frames.find? (fun f => !allProcessed f) with
  | none => b
  | some f =>
    match destsKnown b.jade f with
    | none => b
    | some l =>
      match nextUnit f l with
      | none => b
      | some (ks, s) =>
        let frame := f.snap.frame
        let b := eccCount .jade frame ecc (announce f l b)
        let b := if ecc == .ue then poisonRef f.snap kind b else b
        let b := tellOpal frame (.refMissing (poisonBits b.jade f.snap)) b
        let done : List (Nat × Option Corrected) := ks.map (fun k => (k, correctStripe (planeIn b f k) s))
        let get (k : Nat) : Option Corrected := (done.find? (fun e => e.1 == k)).bind (·.2)
        let stripe (k : Nat) : Option JStripe := f.stripes.find? (fun t => t.plane == k && t.stripe == s)
        let marks (k : Nat) : BitVec 16 :=
          (match stripe k with | some t => t.marks | none => 0) |||
            markIf (match get k with | some c => c.black.any (·.2) | none => false) markObFallback
        let m := orMarks (ks.map marks)
        let stats := f.stats.zipIdx.map (fun (st, k) =>
          match get k, (stripe k).bind (·.data) with
          | some c, some (_, fl, _) => addStripe s c fl st
          | _, _ => st)
        let replaced := (done.map (fun e => match e.2 with | some c => c.replaced | none => 0)).sum
        let b := modFrame frame (fun f => { f with
          processed := f.processed ++ ks.map (fun k => (k, s)), stats, marks := f.marks ||| m
          dynCount := f.dynCount + replaced }) b
        let b := tellOpal frame (.marks m) b
        let mine := l.filter (fun d => d.set.encoding != 3 && (planesOf d.set.planeSel).all ks.contains)
        let b := mine.foldl (fun b d =>
          writeSegStripe frame s d (selectPlane d.set.planeSel get) (orMarks ((planesOf d.set.planeSel).map marks)) b) b
        finishFrame frame b

/-- A profile record as its bytes give it (07 R187). -/
def readProfile (bytes : List Byte) : Profile := {
  cad1Stamp := leAt bytes 0 8, l := leAt bytes 8 4, g := leAt bytes 12 2, nEff := leAt bytes 14 2
  reads := leAt bytes 24 8
  p := let a := bytes.toArray; ((List.range 4096).map (fun i => refBytes a (64 + 4 * i) 4)).toArray }

/-- PROFILE_TOKEN (07 R187): the check of R141; two failures set PROFILE_BAD. -/
def profileToken (bad1 bad2 : Bool) (ecc : Ecc) (b : Block) : Block :=
  match b.ch.garnetJade with
  | .stripe t :: _ =>
    if t.stripe != 255 || !b.accepts .jade t.sent then b
    else
      let again := b.ch.kept.garnetJade.contains (.stripe t)
      let b := if again then b else b.modCh (fun c => { c with drnAck := true })
      let bytes := b.dramRead t.addr t.len
      if !b.jade.frames.any (fun f => f.snap.frame == t.frame) then takeToken b
      else
        let b := eccCount .jade t.frame ecc (keepToken b)
        let wrong := crc32c bytes != t.crc || ecc == .ue
        let bad := (bad1 || wrong) && (bad2 || wrong)
        let b := modFrame t.frame (fun f => { f with profile := some (if bad then none else some (readProfile bytes)) }) b
        finishFrame t.frame (if again then b else tapCopy t bytes b)
  | _ => b

/-- Two sets are the same settings. -/
def sameSet (s t : ProcSet) : Bool := { s with applied := false } == { t with applied := false }

/-- The settings that a Destination set uses have applied to a Frame (08 R217). -/
def applySettings (l : List Dest) (j : Jade) : Jade :=
  { j with settings := j.settings.map (fun t => if l.any (fun d => sameSet d.set t) then { t with applied := true } else t) }

/-- Jade has opened a header at or beyond this number and has no such Frame: it is over, and nothing that comes for it is
held. -/
def frameOver (b : Block) (n : Nat) : Bool :=
  b.jade.failed.contains n ||
    (b.jade.frames.any (fun f => n < f.snap.frame) && !b.jade.frames.any (fun f => f.snap.frame == n))

/-- DESTINATION_SET (07 R178): keyed by frame number. -/
def destinationSet (b : Block) : Block :=
  match b.ch.opalJade with
  | [] => b
  | (n, l) :: rest =>
    let b := (b.modCh (fun c => { c with opalJade := rest })).modJade (applySettings l)
    if frameOver b n then b
    else
      let b := b.modCh (fun c => { c with kept := { c.kept with opalJade := keepOnce (n, l) c.kept.opalJade } })
      if b.jade.frames.any (fun f => f.snap.frame == n) then
        finishFrame n (modFrame n (fun f => { f with dests := some l }) b)
      else b.modJade (fun j => { j with destSets := j.destSets ++ [(n, l)] })

/-- A Segment address reaches Jade. -/
def takeReservation (r : Nat × Nat × Option Nat) (b : Block) : Block :=
  finishFrame r.1 (b.modJade (fun j => { j with resv := j.resv ++ [r] }))

/-- A reservation sent again, or one already taken, names no address once its space is free. -/
def forgetAddr (frame index : Nat) (l : List (Nat × Nat × Option Nat)) : List (Nat × Nat × Option Nat) :=
  l.map (fun r => if r.1 = frame ∧ r.2.1 = index then (frame, index, none) else r)

/-- Onyx withdraws a reservation whose Destination has an outcome before Jade has written its Segment (10 R275): a record that
Jade takes at once; no further Stripe of the Segment is to come. -/
def withdrawReservation (frame index : Nat) (b : Block) : Block :=
  (b.modCh (fun c => { c with
    onyxJade := forgetAddr frame index c.onyxJade
    egressDue := c.egressDue.filter (fun t => !(t.1 == frame && t.2 % 64 == index))
    kept := { c.kept with onyxJade := forgetAddr frame index c.kept.onyxJade } })).modJade (fun j => { j with
    resv := forgetAddr frame index j.resv })

/-- RETENTION_RESERVATION (10 R275). -/
def retentionReservation (b : Block) : Block :=
  match b.ch.onyxJade with
  | [] => b
  | r :: rest =>
    let b := b.modCh (fun c => { c with onyxJade := rest })
    if frameOver b r.1 then b
    else takeReservation r (b.modCh (fun c => { c with kept := { c.kept with onyxJade := keepOnce r c.kept.onyxJade } }))

/-- STAGING_RESERVATION (08 R221). -/
def stagingReservation (b : Block) : Block :=
  match b.ch.spinelJade with
  | [] => b
  | r :: rest =>
    let b := b.modCh (fun c => { c with spinelJade := rest })
    if frameOver b r.1 then b
    else takeReservation r (b.modCh (fun c => { c with kept := { c.kept with spinelJade := keepOnce r c.kept.spinelJade } }))

/-! ### Processing settings (08 R217) -/

/-- The settings of a PROC_SETTINGS descriptor. -/
def parseSettings (d : List Byte) : ProcSet := {
  ctx := leAt d 16 1, planeSel := leAt d 17 1, bin := leAt d 18 1, encoding := leAt d 19 1, fromGen := leAt d 20 4
  winX0 := leAt d 24 2, winY0 := leAt d 26 2, winW := leAt d 28 2, winH := leAt d 30 2, outPed := leAt d 32 2
  applied := false, since := 0 }

/-- R165 and the ranges of the settings: the byte offset of the first faulty field; BIN is the lowest of those in the condition that
a window lies on multiples of 2 × BIN (08 R213). STATS ignores the fields that pixel encodings use (07 R173). -/
def settingsFault (s : ProcSet) : Option Nat :=
  let px := s.encoding != 3
  let u := 2 * s.bin
  if px && 5 < s.planeSel then some 17
  else if px && (!([1, 2, 4].contains s.bin) || [s.winX0, s.winY0, s.winW, s.winH].any (fun v => v % u != 0)) then some 18
  else if 3 < s.encoding then some 19
  else if s.fromGen = 0 then some 20
  else if px && (17406 < s.winX0 || 17408 < s.winX0 + s.winW) then some 24
  else if px && (9214 < s.winY0 || 9216 < s.winY0 + s.winH) then some 26
  else if px && (s.winW < 64 || 17408 < s.winW) then some 28
  else if px && (s.winH < 64 || 9216 < s.winH) then some 30
  else none

/-- The snapshot in a header token. -/
def GarnetJade.snap? : GarnetJade → Option Snapshot
  | .header s => some s
  | .stripe _ => none

/-- Frames that an Island has not finished: bound, in a Hand, draining, on their way to Jade or in Jade. -/
def unfinished (b : Block) : List Snapshot :=
  b.garnet.bound.toList ++ (b.garnet.hand.map (·.snap)).toList ++ b.garnet.jobs.map (·.snap) ++
    b.ch.garnetJade.filterMap (·.snap?) ++ b.ch.kept.garnetJade.filterMap (·.snap?) ++ b.jade.frames.map (·.snap)

/-- An unfinished Frame uses this set. -/
def setInUse (b : Block) (s : ProcSet) : Bool :=
  let uses (l : List Dest) : Bool := l.any (fun d => sameSet d.set s)
  b.jade.frames.any (fun f => match f.dests with | some l => uses l | none => false) ||
    b.jade.destSets.any (fun e => uses e.2) || b.ch.opalJade.any (fun e => uses e.2)

/-- The sets that may be dropped (R217), given the sets from the oldest on: no unfinished Frame uses it, and a set with a
higher FROM_GEN, or a later one with an equal FROM_GEN, has applied. -/
def dropSets (b : Block) : List ProcSet → List ProcSet
  | [] => []
  | s :: l =>
    let past := b.jade.settings.any (fun t => t.ctx == s.ctx && s.fromGen < t.fromGen && t.applied) ||
      l.any (fun t => t.ctx == s.ctx && t.fromGen == s.fromGen && t.applied)
    if past && !setInUse b s then dropSets b l else s :: dropSets b l

/-- Jade holds a set. -/
def holdSet (b : Block) (s : ProcSet) (j : Jade) : Jade :=
  { j with settings := j.settings ++ [{ s with since := b.garnet.frameNo }] }

/-- Room for one more set of a Context: at most four (R217). -/
def setRoom (j : Jade) (s : ProcSet) : Bool := (j.settings.filter (·.ctx == s.ctx)).length < 4

/-- An earlier Control Ring descriptor is still to change Context state in Opal: a CONTEXT_OPEN, a CONTEXT_CLOSE whose close
has not begun, a PROC_SETTINGS that Jade has not taken up (08 R209, R217). -/
def ctxChanges (b : Block) (d : Desc) : Bool :=
  d.status == .dispatched &&
    (descType d.bytes == 0x05 ||
      (descType d.bytes == 0x06 && (b.ctx (leAt d.bytes 16 1)).closeDesc != some d.index) ||
      (descType d.bytes == 0x07 && !b.jade.setWait.any (fun w => w.desc == d.index)))

/-- No earlier Control Ring descriptor is still to change Context state in Opal. -/
def ctxOrder (b : Block) (desc : Nat) : Bool :=
  !((b.opal.ghosts ++ b.opal.ctrl.flight).takeWhile (fun d => d.index != desc)).any (ctxChanges b)

/-- PROC_SETTINGS (R217): checked, and handed to Jade; a fifth set of a Context waits. -/
def procSettings (desc : Nat) (b : Block) : Block :=
  match b.dispatched ctrlRing desc 0x07 with
  | none => b
  | some d =>
    let s := parseSettings d
    let c := b.ctx s.ctx
    if b.jade.setWait.any (fun w => w.desc == desc) || !ctxOrder b desc then b
    else match settingsFault s with
      | some off => finishCtrl desc stMalformed frameNone 0 off b
      | none =>
        if c.state != .opened then finishCtrl desc stContextClosed frameNone 0 0 b
        else if s.fromGen < c.highGen then finishCtrl desc stGenStale frameNone 0 0 b
        else
          let b := b.setCtx s.ctx { c with highGen := s.fromGen }
          if setRoom b.jade s && !b.jade.setWait.any (fun w => w.set.ctx == s.ctx) then
            finishCtrl desc stOk frameNone 0 0 (b.modJade (holdSet b s))
          else b.modJade (fun j => { j with setWait := j.setWait ++ [{ set := s, desc }] })

/-- PROC_SETTINGS_RESUME (R217): Jade drops the sets it may drop, and the oldest waiting set that finds room is held. -/
def procSettingsResume (b : Block) : Block :=
  let b0 := b
  let b := b.modJade (fun j => { j with settings := dropSets b0 j.settings })
  match b.jade.setWait.find? (fun w => setRoom b.jade w.set) with
  | none => b
  | some w =>
    let b := b.modJade (fun j => { j with setWait := j.setWait.filter (fun x => x.desc != w.desc) })
    finishCtrl w.desc stOk frameNone 0 0 (b.modJade (holdSet b w.set))

/-! ### Reference pictures (R159 to R163) -/

/-- Kinds by their code. -/
def refKind (k : Nat) : Option RefKind :=
  match k with
  | 1 => some .defect
  | 2 => some .shading
  | 3 => some .dark
  | _ => none

/-- Slots of a kind, and live IDs at most (R161). -/
def refSlots : RefKind → Nat
  | .defect => 8
  | .shading => 32
  | .dark => 4
def refLimit : RefKind → Nat
  | .defect => 4
  | .shading => 16
  | .dark => 3

/-- Defect entries in order and range (R152). -/
def defectsOk : Option Nat → List Nat → Bool
  | _, [] => true
  | prev, e :: l =>
    let key := bitsOf e 28 0
    (match prev with | some p => p < key | none => true) && bitsOf e 14 0 < 17536 && bitsOf e 28 15 < 9280 &&
      bitsOf e 31 29 < 4 && defectsOk (some key) l

/-- COUNT and PAYLOAD_LEN agree with the kind (R159). -/
def refCounts (k : RefKind) (count len : Nat) : Bool :=
  match k with
  | .defect => count ≤ 262144 && len == 4 * count
  | .shading => count == 10001 && len == 80008
  | .dark => count == 160432128 && len == 481296384

/-- The checks of R160 on a buffer. -/
def refValid (k : RefKind) (code : Nat) (buf : List Byte) : Bool :=
  let payload := buf.drop 64
  leAt buf 0 1 == code && leAt buf 1 1 == 1 && refCounts k (leAt buf 4 4) (leAt buf 8 4) &&
    buf.length == 64 + leAt buf 8 4 && (crc32c payload).toNat == leAt buf 12 4 &&
    (k != .defect || defectsOk none ((List.range (payload.length / 4)).map (fun i => leAt payload (4 * i) 4)))

/-- Versions of a kind that occupy slots. -/
def refsOf (j : Jade) (k : RefKind) : List RefPic := j.refs.filter (·.kind == k)

/-- The lowest slot of a kind that no version occupies (R161). -/
def freeSlot (j : Jade) (k : RefKind) : Nat :=
  ((List.range (refSlots k)).find? (fun n => !(refsOf j k).any (·.slot == n))).getD 0

/-- Hold a new version in a free slot of the reference region (01 R32); the earlier ones of its ID are no longer the newest
(01 R25). -/
def holdRef (k : RefKind) (id : Nat) (payload : List Byte) (b : Block) : Block :=
  let slot := freeSlot b.jade k
  (b.dramWrite (refAddr k slot) payload).modJade (fun j => { j with
    refs := j.refs.map (fun r => if r.kind == k && r.id == id then { r with live := false } else r) ++
      [{ kind := k, id, version := j.refVer, slot, len := payload.length, live := true, poisoned := false }]
    unloads := j.unloads.filter (· != (k, id))
    refVer := j.refVer + 1 })

/-- The load of a new ID finds its kind at the limit of live IDs (R161). It is judged as the load arrives, and loads of new
IDs that wait for a slot count: the spec says neither (R162 has an ID live from its load's completion; log entry 80). -/
def refFull (j : Jade) (k : RefKind) (id : Nat) : Bool :=
  let live := (refsOf j k).filter (·.live)
  let waiting := (j.refWait.filter (fun w => w.kind == k && !live.any (·.id == w.id))).map (·.id)
  !live.any (·.id == id) && !waiting.contains id && refLimit k ≤ live.length + waiting.eraseDups.length

/-- REF_LOAD with ACTION LOAD (R159 to R161): `buf` is what the two reads of the host buffer returned, none when both
failed (08 R208). -/
def refLoad (desc : Nat) (buf : Option (List Byte)) (b : Block) : Block :=
  match b.dispatched ctrlRing desc 0x08 with
  | none => b
  | some d =>
    let code := leAt d 16 1
    let id := leAt d 18 1
    let len := leAt d 20 4
    if b.jade.refWait.any (fun w => w.desc == desc) || leAt d 17 1 = 1 then b
    else match refKind code with
      | none => finishCtrl desc stMalformed frameNone 0 16 b
      | some k =>
        if 1 < leAt d 17 1 then finishCtrl desc stMalformed frameNone 0 17 b
        else if id = 255 then finishCtrl desc stMalformed frameNone 0 18 b
        else if badLength len then finishCtrl desc stMalformed frameNone 0 20 b
        else if misaligned (leAt d 24 8) 64 then finishCtrl desc stMalformed frameNone 0 24 b
        else match buf with
          | none => finishCtrl desc stHostFault frameNone 0 0 b
          | some v =>
            if v.length != len || !refValid k code v then finishCtrl desc stRefInvalid frameNone 0 0 b
            else if refFull b.jade k id then finishCtrl desc stRefFull frameNone 0 0 b
            else if (refsOf b.jade k).length < refSlots k && !b.jade.refWait.any (·.kind == k) then
              finishCtrl desc stOk frameNone 0 0 (holdRef k id (v.drop 64) b)
            else b.modJade (fun j => { j with
              refWait := j.refWait ++ [{ kind := k, id, payload := v.drop 64, desc }] })

/-- REF_UNLOAD (R162): the removal is held for the next latch point. -/
def refUnload (desc : Nat) (b : Block) : Block :=
  match b.dispatched ctrlRing desc 0x08 with
  | none => b
  | some d =>
    let id := leAt d 18 1
    if leAt d 17 1 != 1 then b
    else match refKind (leAt d 16 1) with
      | none => finishCtrl desc stMalformed frameNone 0 16 b
      | some k =>
        if id = 255 then finishCtrl desc stMalformed frameNone 0 18 b
        else
          let b := if (refsOf b.jade k).any (fun r => r.id == id && r.live) then
            b.modJade (fun j => { j with unloads := j.unloads ++ [(k, id)] }) else b
          finishCtrl desc stOk frameNone 0 0 b

/-- An unfinished Frame uses this version (01 R25). -/
def refInUse (b : Block) (r : RefPic) : Bool :=
  (unfinished b).any (fun s => match r.kind with
    | .defect => s.refs.1 == some r.version
    | .shading => s.refs.2.1 == some r.version
    | .dark => s.refs.2.2 == some r.version)

/-- REF_SLOT_FREED (R161): the slots of versions that are no longer the newest and that no Frame uses are free; the
oldest load that waits for a slot of its kind proceeds. -/
def refSlotFreed (b : Block) : Block :=
  let b0 := b
  let b := b.modJade (fun j => { j with refs := j.refs.filter (fun r => r.live || refInUse b0 r) })
  match b.jade.refWait.find? (fun w => (refsOf b.jade w.kind).length < refSlots w.kind) with
  | none => b
  | some w =>
    let b := b.modJade (fun j => { j with refWait := j.refWait.filter (fun x => x.desc != w.desc) })
    finishCtrl w.desc stOk frameNone 0 0 (holdRef w.kind w.id w.payload b)

/-! ### Registers and the clock -/

/-- CLR_COUNTS (R171). -/
def clrCounts (b : Block) : Block :=
  if b.bar0 then b.modJade (fun j => { j with crcRetried := 0, crcBad := 0 }) else b

/-- CLOCK_DIVISION_REQUEST (15 R410): a request names the Frame to divide from, or 0 for undivided at once. -/
def clockDivisionRequest (b : Block) : Block :=
  match b.ch.berylJade with
  | [] => b
  | n :: rest =>
    let b := b.modCh (fun c => { c with berylJade := rest })
    if n = 0 then b.modJade (fun j => { j with divided := false, divReq := none })
    else b.modJade (fun j => if j.divided then j else { j with divReq := some (n - 1) })

/-- Active rows of a Stripe (02, table Stripe layout: 32 in Stripes 0 and 144). -/
def activeRows (s : Nat) : Nat := min (64 * s + 32) 9216 - (64 * s - 32)

/-- Passes over the Stripes that Jade makes: Planes A and B count once where a Context combines them (06 R146). -/
def refPasses (s : Snapshot) (l : List Dest) : Nat :=
  s.prog.planeCount - (if pairs l && 2 ≤ s.prog.planeCount then 1 else 0)

/-- Bytes of the reference pictures that a Frame's passes read: the dark reference rows of each Stripe, and the defect map and
the shading map once a pass (06 R146, R152, R157). -/
def refBytesRead (j : Jade) (s : Snapshot) (l : List Dest) : Nat :=
  let rows := ((List.range s.prog.stripes).map (fun i => activeRows (s.prog.drainFirst + i))).sum
  let len (kind : RefKind) (v : Option Nat) : Nat := ((boundRef j kind v).map (·.len)).getD 0
  refPasses s l * ((if s.refs.2.2.isSome then rows * 17408 * 3 else 0) + len .defect s.refs.1 + len .shading s.refs.2.1)

/-- Bits of each Jade path that a Frame needs: its drained Stripes, its reference pictures, its Segments (01 R31). The spec does
not say what counts: here a drained Stripe counts whole, with its overflow bitmap and tallies, a Segment with its header and
padding, and the maps once a pass (log entry 81). -/
def pathBits (j : Jade) (s : Snapshot) (l : List Dest) : Nat × Nat × Nat :=
  (s.prog.planeCount * s.prog.stripes * stripeLen * 8, 8 * refBytesRead j s l, 8 * (l.map (·.segLen)).sum)

/-- A Frame needs no more than 768 Gbit/s on each path: 750 bits a tick over its period of `l` ticks (01 R31). -/
def fits768 (l : Nat) (need : Nat × Nat × Nat) : Bool :=
  need.1 ≤ 750 * l && need.2.1 ≤ 750 * l && need.2.2 ≤ 750 * l

/-- JADE_CLOCK_DIVIDE (15 R410): no older Frame in Jade needs the full rate. One whose Destination set has not come may. -/
def jadeClockDivide (b : Block) : Block :=
  match b.jade.divReq with
  | none => b
  | some n =>
    let heavy := b.jade.frames.any (fun f =>
      f.snap.frame < n && !f.dests.any (fun l => fits768 f.snap.l (pathBits b.jade f.snap l)))
    if heavy then b else b.modJade (fun j => { j with divided := true, divReq := none })

end Sys2Proof.Machine
end

