-- ==== Sys2Proof/Machine/Buffers.lean ====
section
/-! DEFINITION. Host-ring Segments between Spinel and Opal: buffers and their assignment, the moves, the outcome of a
host Destination (08 R221 to R224, R506; 09 R240, R249; 11 R302, R305). -/

namespace Sys2Proof.Machine

/-- The Stripes that a Destination's rows come from by R168; every drained Stripe for STATS. -/
def expectedMap (p : FrameProgram) (d : Dest) : Nat :=
  let ss := (List.range p.stripes).map (· + p.drainFirst)
  (if d.set.encoding = 3 then ss else ss.filter (fun s => (outRows d s).2 != 0)).foldl (fun m s => m ||| 2 ^ s) 0

/-- Marks of a missing Stripe (06 R142). -/
def isMissing (m : BitVec 16) : Bool := hasMark m (markDrainLate ||| markCrcBad)

/-- DETAIL of a MALFORMED BUFFER_POST (08, BUFFER_POST body). -/
def postFaultAt (d : List Byte) : Option Nat :=
  if misaligned (leAt d 16 8) 64 then some 16
  else if leAt d 24 4 < 64 || 0xFFFFFFC0 < leAt d 24 4 || leAt d 24 4 % 64 != 0 then some 24
  else none

/-- A Destination of the window that holds this BUFFER_POST of Context `c`. -/
def holdsPost (c i : Nat) (d : LedgerDest) : Bool :=
  d.dest.ctx == c && !d.dest.magazine && d.outcome == .pending && d.buffer == some i

/-- The oldest fetched BUFFER_POST of Context `c` that is not assigned: its index, address and length. -/
def freePost (b : Block) (c : Nat) : Option (Nat × Nat × Nat) :=
  ((b.ring c).flight.find? (fun d =>
    d.status == .dispatched && descType d.bytes == 0x20 && (postFaultAt d.bytes).isNone &&
      !b.opal.window.any (fun w => w.dests.any (holdsPost c d.index)))).map
    (fun d => (d.index, leAt d.bytes 16 8, leAt d.bytes 24 4))

/-- The earliest Segment of Context `c`'s host ring that is neither assigned nor dropped (R222). -/
def nextSegment (b : Block) (c : Nat) : Option (Nat × LedgerDest) :=
  b.opal.window.findSome? (fun w =>
    (w.dests.find? (fun d => d.dest.ctx == c && !d.dest.magazine && d.outcome == .pending && d.buffer.isNone)).map
      (fun d => (w.frame, d)))

/-- A Segment in Spinel. -/
def segGet (b : Block) (frame index : Nat) : Option SpinelSeg :=
  b.spinel.segs.find? (fun g => g.frame == frame && g.dest.index == index)

/-- Change a Segment in Spinel. -/
def segMod (frame index : Nat) (f : SpinelSeg → SpinelSeg) (b : Block) : Block :=
  b.modSpinel (fun s => { s with
    segs := s.segs.map (fun g => if g.frame = frame ∧ g.dest.index = index then f g else g) })

/-- A Segment leaves Spinel: its staging is free, and its tokens are retired (12 R319). -/
def segFree (frame index : Nat) (b : Block) : Block :=
  (b.modSpinel (fun s => { s with
    segs := s.segs.filter (fun g => !(g.frame == frame && g.dest.index == index))
    staging := s.staging.filter (fun r => !(r.1 == frame && r.2.1 == index)) })).modCh (fun c => { c with
    kept := { c.kept with
      spinelJade := forgetAddr frame index c.kept.spinelJade
      jadeSpinel := c.kept.jadeSpinel.filter (fun t => !(t.frame == frame && t.index == index)) } })

/-- A Segment is dropped: nothing of it moves any more, and its staging is free once Jade writes it no more. -/
def segDrop (frame index : Nat) (b : Block) : Block :=
  match segGet b frame index with
  | some g => if g.whole then segFree frame index b else segMod frame index (fun g => { g with dropped := true }) b
  | none => b

/-- The key bound to a Frame's Context at its latch point (11 R298). -/
def boundKey (b : Block) (frame ctx : Nat) : Option (List Byte) :=
  (b.spinel.binds.find? (fun k => k.frame == frame && k.ctx == ctx)).map (·.key)

/-- Write bytes [lo, hi) of a staged Segment to its buffer. A KEYED Segment goes in whole blocks of 16 bytes: the block
that `hi` cuts goes with the bytes that follow (11 R302, R305). -/
def moveBytes (g : SpinelSeg) (key : Option (List Byte)) (buf lo hi : Nat) (b : Block) : Block :=
  let (lo, hi) := if key.isSome then (lo / 16 * 16, hi / 16 * 16) else (lo, hi)
  if hi ≤ lo then b else b.hostWrite (buf + lo) (encryptHost key (buf + lo) (b.dramRead (g.addr + lo) (hi - lo)))

/-- Where a Segment Stripe lies in its Segment, as offset and length. -/
def stripeSpan (d : Dest) (s : Nat) : Nat × Nat :=
  if s = 255 then (128, statsLen)
  else
    let rb := rowBytes d.set.encoding (d.set.winW / d.set.bin)
    let (y0, n) := outRows d s
    (128 + y0 * rb, n * rb)

/-- Move what has come of an assigned Segment: its Segment Stripes in order, then padding and header (R224). A KEYED Segment
moves only under the key bound to its Frame (11 R302). -/
def moveSegment (frame index : Nat) (b : Block) : Block :=
  match segGet b frame index with
  | none => b
  | some g =>
    match g.buffer with
    | none => b
    | some buf =>
      let key := if g.dest.keyed then boundKey b frame g.dest.ctx else none
      if !b.hostUp || !b.alive .spinel || g.dropped || (g.dest.keyed && key.isNone) then b
      else
        let todo := g.stripes.filter (fun e => !g.moved.contains e.1)
        let final (s : Nat) : Bool := g.whole && (g.stripes.getLast?.map (·.1)) == some s
        let b := todo.foldl (fun b (s, m) =>
          let (off, len) := stripeSpan g.dest s
          let b := moveBytes g key buf off (off + len) b
          let b := if final s then
              moveBytes g key buf 0 128 (moveBytes g key buf (128 + payloadLen g.dest) g.dest.segLen b)
            else b
          let map := if final s then leNat (b.dramRead (g.addr + 56) 24) else 0
          b.modCh (fun c => { c with
            spinelOpal := c.spinelOpal ++
              [{ frame, index, stripe := s, len, marks := m, header := final s, map, failed := false }] })) b
        segMod frame index (fun g => { g with moved := g.moved ++ todo.map (·.1) }) b

/-- What a message of Opal does in Spinel. -/
def takeSpinelNote (n : SpinelNote) (b : Block) : Block :=
  match n with
  | .assign f i a => moveSegment f i (segMod f i (fun g => { g with buffer := some a }) b)
  | .drop f i => segDrop f i b

/-- The Frame that a message of Opal names. -/
def SpinelNote.frameOf : SpinelNote → Nat
  | .assign f _ _ => f
  | .drop f _ => f

/-- Spinel takes every message of Opal about a Frame whose latch notice it has served. -/
def takeSpinelNotes (b : Block) : Block :=
  if !b.takes .spinel then b
  else
    let due (n : SpinelNote) : Bool := !b.ch.spinelDests.any (fun e => e.1 == n.frameOf)
    let l := b.ch.opalSpinel.filter due
    let b := b.modCh (fun c => { c with opalSpinel := c.opalSpinel.filter (fun n => !due n) })
    l.foldl (fun b n => takeSpinelNote n b) b

/-- Opal tells Spinel of a Segment; Spinel takes it at once unless it withholds acknowledge (01 R16). -/
def tellSpinel (n : SpinelNote) (b : Block) : Block :=
  takeSpinelNotes (b.modCh (fun c => { c with opalSpinel := c.opalSpinel ++ [n] }))

/-- BUF_ASSIGN trace entry (12 R342). -/
def logAssign (c frame word : Nat) (b : Block) : Block :=
  b.logEvr .opal 0x14 (leBytes 1 c ++ leBytes 8 frame ++ leBytes 4 word)

/-- Assign Segments of Context `c` to buffers while both are there (R222, R223). -/
def assignBuffers : Nat → Nat → Block → Block
  | 0, _, b => b
  | k + 1, c, b =>
    if !b.hostUp then b
    else match nextSegment b c, freePost b c with
      | some (frame, d), some (i, addr, len) =>
        if !d.ready then b
        else
          let b := logAssign c frame (indexWord (b.ring c).sqEntries i) b
          if len < d.dest.segLen then
            let b := tellSpinel (.drop frame d.dest.index) (decideDest frame d.dest.index .oversize b)
            assignBuffers k c (finish c i stOversize frame d.dest.segLen 0 b)
          else
            let b := destMod frame d.dest.index (fun x => { x with buffer := some i }) b
            assignBuffers k c (tellSpinel (.assign frame d.dest.index addr) b)
      | _, _ => b

/-- Everything that can move on Context `c`'s host ring now. -/
def serveHost (c : Nat) (b : Block) : Block := assignBuffers ((b.ring c).flight.length + 1) c b

/-- Everything that can move on any host ring: after the link has come up or Opal or Spinel has recovered. -/
def serveAllHosts (b : Block) : Block :=
  let b := (List.range 256).foldl (fun b c => serveHost c b) b
  b.spinel.segs.foldl (fun b g => moveSegment g.frame g.dest.index b) b

/-- An assigned BUFFER_POST whose Segment fails completes with this status (09 R248). -/
def failPost (frame : Nat) (d : LedgerDest) (st : Nat) (b : Block) : Block :=
  match d.buffer with
  | some i => finish d.dest.ctx i st frame 0 0 b
  | none => b

/-- A host-ring Destination gets this outcome without its Segment: the Segment is dropped, and a buffer assigned to it
completes with `st`. -/
def dropHost (frame index : Nat) (o : DestOutcome) (st : Nat) (b : Block) : Block :=
  match (winGet b frame).bind (fun w => w.dests.find? (fun d => d.dest.index == index && d.outcome == .pending)) with
  | some d => tellSpinel (.drop frame index) (decideDest frame index o (failPost frame d st b))
  | none => b

/-- A Segment is dropped unassigned: the trace says so (12 R342), and the next takes its place in line. -/
def dropUnassigned (frame : Nat) (d : Dest) (o : DestOutcome) (b : Block) : Block :=
  tellSpinel (.drop frame d.index) (decideDest frame d.index o (logAssign d.ctx frame 0xFFFFFFFF b))

/-- The buffers assigned to Segments without an outcome, as Opal posts them again to a recovered Spinel (12 R322). -/
def repostBuffers (b : Block) : Block :=
  let addrOf (c i : Nat) : Option Nat := ((b.ring c).flight.find? (fun d => d.index == i)).map (fun d => leAt d.bytes 16 8)
  let l := b.opal.window.flatMap (fun w => w.dests.filterMap (fun d =>
    if d.dest.magazine || d.outcome != .pending then none
    else (d.buffer.bind (addrOf d.dest.ctx)).map (fun a => SpinelNote.assign w.frame d.dest.index a)))
  l.foldl (fun b n => tellSpinel n b) b

/-- The mark is one of a Frame that fails whole (12 R327, R330). -/
def wholeMark (m : BitVec 16) : Bool := hasMark m markFailStop || hasMark m markTiming

/-- Failed outcomes of these Destinations, still undecided, pass the Ledger Merge. A Frame that fails whole is one failed item there,
whichever Destination comes first (12, example Watchdog reset and Jade fail-stop). An outcome belongs to no Stripe, so its ordinal has
Stripe 255 and the Destination's index (01 R27; log entry 95). -/
def mergeDests (frame : Nat) (m : BitVec 16) (is : List Nat) (b : Block) : Block :=
  match winGet b frame with
  | none => b
  | some w =>
    let due := is.filter (fun i => w.dests.any (fun d => d.dest.index == i && d.outcome == .pending))
    let l := if !wholeMark m then due else if w.dests.any (fun d => d.outcome == .failed) then [] else due.take 1
    l.foldl (fun b i => mergeFail .opal 5 frame (tagOrdinal 0 255 i) m b) b

/-- A Segment Stripe failed before it reached the host: its Destination is FAILED (12 R326, R331). -/
def takeFailed (m : HostMoved) (b : Block) : Block :=
  let b := markFrame m.frame m.marks (destMod m.frame m.index (fun d => { d with marks := d.marks ||| m.marks }) b)
  let b := mergeDests m.frame m.marks [m.index] b
  dropHost m.frame m.index .failed stFailed b

/-- Opal fails a Frame whole: its host-ring Destinations, now and when they come (12 R327). -/
def failInOpal (frame : Nat) (b : Block) : Block :=
  let b := noteFailed .opal frame (b.modOpal (fun o => { o with failed := withFrame frame o.failed }))
  let ds : List LedgerDest := match winGet b frame with
    | some w => w.dests.filter (fun d => !d.dest.magazine && d.outcome == .pending)
    | none => []
  if ds.isEmpty then b
  else
    let b := markFrame frame markFailStop (mergeDests frame markFailStop (ds.map (·.dest.index)) b)
    ds.foldl (fun b d => dropHost frame d.dest.index .failed stFailed b) b

/-- Opal learns of a Segment Stripe moved; with the last, every write of the Segment has been issued, and the
BUFFER_POST completes OK or PARTIAL (R224, 09 R249). -/
def takeMoved (m : HostMoved) (b : Block) : Block :=
  if m.failed then takeFailed m b
  else
  let b := destMod m.frame m.index (fun d => { d with
    doneMap := if m.stripe != 255 && !isMissing m.marks then d.doneMap ||| 2 ^ m.stripe else d.doneMap }) b
  if !m.header then b
  else match winGet b m.frame with
    | none => b
    | some w =>
      match w.dests.find? (fun d => d.dest.index == m.index && d.outcome == .pending) with
      | none => b
      | some d =>
        let full := m.map == expectedMap w.snap.prog d.dest
        let b := destMod m.frame m.index (fun d => { d with
          stripeMap := m.map, doneMap := m.map, outcome := if full then .done else .partial_ }) b
        let b := tellSpinel (.drop m.frame m.index) b
        match d.buffer with
        | some i => finish d.dest.ctx i (if full then stOk else stPartial) m.frame d.dest.segLen d.marks.toNat b
        | none => b

end Sys2Proof.Machine
end

