-- ==== Sys2Proof/Machine/Spinel.lean ====
section
/-! DEFINITION. Spinel: Segment Stripe tokens, staging, key slots (08 R221 to R224; 11 R291 to R310; 12 R331). -/

namespace Sys2Proof.Machine

/-- What a slot with no key holds. -/
def emptySlot : KeySlot := { state := .empty, current := [], previous := [], until_ := 0 }

/-- Key slot `c`. -/
def slotGet (b : Block) (c : Nat) : KeySlot := vget b.spinel.slots c emptySlot

/-- Replace key slot `c`. -/
def slotSet (c : Nat) (k : KeySlot) (b : Block) : Block := b.modSpinel (fun s => { s with slots := vset s.slots c k })

/-! ### Segment Stripe tokens -/

/-- A host-ring Segment fails in Spinel: nothing of it moves any more, and Opal learns of the error (01, table Handshake
channels; 12 R326, R331). -/
def failSegment (frame index stripe : Nat) (m : BitVec 16) (b : Block) : Block :=
  (segMod frame index (fun g => { g with dropped := true }) b).modCh (fun c => { c with
    spinelOpal := c.spinelOpal ++
      [{ frame, index, stripe, len := 0, marks := m, header := false, map := 0, failed := true }] })

/-- The Stripe that a Segment Stripe token shows. -/
def tokenMap (t : SegToken) : Nat := if t.stripe != 255 && !isMissing t.marks then 2 ^ t.stripe else 0

/-- A host-ring token: the Stripe is staged, and moves when the Segment has a buffer (R222, R224). One sent again changes
nothing (12 R323). An uncorrectable error in staging fails the Destination with DRAM_UE (12 R331). -/
def hostToken (t : SegToken) (ecc : Ecc) (b : Block) : Block :=
  match segGet b t.frame t.index with
  | none => b
  | some g =>
    let b := segMod t.frame t.index (fun g => { g with whole := g.whole || t.header }) b
    if g.dropped then (if t.header then segFree t.frame t.index b else b)
    else if g.stripes.any (fun e => e.1 == t.stripe) then b
    else
      let b := eccCount .spinel t.frame ecc b
      let b := segMod t.frame t.index (fun g => { g with
        stripes := g.stripes ++ [(t.stripe, t.marks)], ue := g.ue || ecc == .ue }) b
      let b := tellOpal t.frame (.segment t.index t.marks (tokenMap t) 0) b
      if ecc == .ue then
        let b := failSegment t.frame t.index t.stripe markDramUe b
        if t.header then segFree t.frame t.index b else b
      else serveHost g.dest.ctx (moveSegment t.frame t.index b)

/-! ### The Egress Merge (01 R27, R28) -/

/-- Sequence tag of a token. -/
def SegToken.tag (t : SegToken) : Nat × Nat := (t.frame, tagOrdinal t.plane t.stripe t.index)

/-- A token that stands for a failed item (12 R326, R338). -/
def SegToken.isFailed (t : SegToken) : Bool := t.len == 0

/-- The token that the Egress Merge passes next: one sent again, which has passed before; else the one with the smallest tag
that is to come; else a failed Frame's, once no tag of an earlier Frame is to come and its latch notice has been served. -/
def egressNext (b : Block) : Option SegToken :=
  let due := b.ch.egressDue
  let l := b.ch.jadeSpinel
  ((l.find? (fun t => !t.isFailed && !due.contains t.tag)).or
    (l.find? (fun t => !t.isFailed && due.head? == some t.tag))).or
    (l.find? (fun t => t.isFailed && due.all (fun d => t.frame ≤ d.1) &&
      !b.ch.noticeSpinel.any (fun n => n.snap.any (fun s => s.frame == t.frame))))

/-- The last tag of a Frame has passed (12 R342). -/
def egressDigest (frame : Nat) (b : Block) : Block :=
  if b.ch.egressDue.any (fun d => d.1 == frame) then b else mergeDigest .spinel 2 frame 1 b

/-- A token passes: Jade keeps it until its Segment is done with (12 R319). -/
def passToken (t : SegToken) (b : Block) : Block :=
  let was := b.ch.egressDue.contains t.tag
  let b := b.modCh (fun c => { c with
    jadeSpinel := c.jadeSpinel.erase t, egressDue := c.egressDue.erase t.tag
    kept := { c.kept with jadeSpinel := c.kept.jadeSpinel.filter (fun x => x.tag != t.tag) ++ [t] } })
  if was then egressDigest t.frame b else b

/-- Spinel is done with a token (12 R319). -/
def retireToken (t : SegToken) (b : Block) : Block :=
  b.modCh (fun c => { c with kept := { c.kept with jadeSpinel := c.kept.jadeSpinel.filter (fun x => x.tag != t.tag) } })

/-- Tokens of a Frame are no longer to come, but those that stand for failed items. -/
def dropDue (frame : Nat) (b : Block) : Block :=
  b.modCh (fun c => { c with
    jadeSpinel := c.jadeSpinel.filter (fun t => t.frame != frame || t.isFailed), egressDue := c.egressDue.filter (fun d => d.1 != frame)
    kept := { c.kept with jadeSpinel := c.kept.jadeSpinel.filter (fun t => t.frame != frame) } })

/-- Host-ring Segments of a Frame in Spinel. -/
def segsOf (b : Block) (frame : Nat) : List SpinelSeg := b.spinel.segs.filter (fun g => g.frame == frame)

/-- A failed item goes on to Onyx with the tag of the item it replaces (12 R326, R338). -/
def failOnward (frame plane stripe index : Nat) (m : BitVec 16) (b : Block) : Block :=
  b.modCh (fun c => { c with spinelOnyx := c.spinelOnyx ++ [{
    frame, plane, index, stripe, len := 0, marks := m, header := false, magazine := true, sent := b.stamp .onyx }] })

/-- The Stripes of a host-ring Segment that Spinel holds and has not moved; 255 for one of which it holds none. -/
def heldStripes (g : SpinelSeg) : List Nat :=
  let l := (g.stripes.map (·.1)).filter (fun s => !g.moved.contains s)
  if l.isEmpty then [255] else l

/-- Spinel fails the host-ring Segments of a Frame, with word to Opal for each item of them that it holds (12 R326, R338). -/
def failHostSegs (frame : Nat) (m : BitVec 16) (b : Block) : Block :=
  (segsOf b frame).foldl (fun b g => segFree frame g.dest.index
    (if g.dropped then b else (heldStripes g).foldl (fun b s => failSegment frame g.dest.index s m b) b)) b

/-- Spinel fails a Frame whole, as itself at fault, with its later items (12 R326, R327); Onyx learns of it from a token that stands
for the Frame. -/
def failInSpinel (frame : Nat) (m : BitVec 16) (b : Block) : Block :=
  if b.spinel.failed.contains frame then failHostSegs frame m b
  else
    let b := noteFailed .spinel frame (b.modSpinel (fun s => { s with failed := withFrame frame s.failed }))
    failOnward frame 0 255 0 m (failHostSegs frame m (mergeFail .spinel 2 frame (tagOrdinal 0 255 0) m b))

/-- The failed item of a Frame passes (12 R326, R338): no token of the Frame is to come. With FAILSTOP the Frame fails here too;
otherwise Garnet has decided its Destinations (09 R246), and its staging is free. -/
def passFailed (t : SegToken) (b : Block) : Block :=
  let b := dropDue t.frame (b.modCh (fun c => { c with jadeSpinel := c.jadeSpinel.erase t }))
  let b := if t.marks = 0 then b else mergeFail .spinel 2 t.frame (tagOrdinal t.plane t.stripe t.index) t.marks b
  let b := if hasMark t.marks markFailStop then
      failHostSegs t.frame t.marks (noteFailed .spinel t.frame (b.modSpinel (fun s => { s with failed := withFrame t.frame s.failed })))
    else (segsOf b t.frame).foldl (fun b g => segFree t.frame g.dest.index b) b
  failOnward t.frame t.plane t.stripe t.index t.marks b

/-- SEGMENT_STRIPE_TOKEN (08 R224): the next token passes the Egress Merge. Tokens of a Frame that Spinel has failed are passed
over (12 R327); a magazine's goes on to Onyx. -/
def segmentStripeToken (ecc : Ecc) (b : Block) : Block :=
  match egressNext b with
  | none => b
  | some t =>
    if !b.accepts .spinel t.sent then b
    else if t.isFailed then passFailed t b
    else
      let b := passToken t b
      if b.spinel.failed.contains t.frame then retireToken t b
      else if t.magazine then b.modCh (fun c => { c with spinelOnyx := c.spinelOnyx ++ [{ t with sent := b.stamp .onyx }] })
      else if (segGet b t.frame t.index).isNone then retireToken t b
      else hostToken t ecc b

/-! ### The latch notice (01 R21, 08 R221, 11 R298) -/

/-- Reserve staging for a host-ring Segment and name it to Jade; without room the outcome is STAGING_FULL (R221). -/
def reserveStaging (frame : Nat) (b : Block) (d : Dest) : Block :=
  if d.magazine then b
  else
    match allocate stagingBase stagingSize d.segLen (b.spinel.staging.map (fun r => (r.2.2.1, r.2.2.2))) with
    | some a =>
      let b := b.modSpinel (fun s => { s with
        staging := s.staging ++ [(frame, d.index, a, d.segLen)]
        segs := s.segs ++ [{ frame, dest := d, addr := a, stripes := [], whole := false, buffer := none, moved := []
                             ue := false, dropped := false }] })
      b.modCh (fun c => { c with spinelJade := c.spinelJade ++ [(frame, d.index, some a)] })
    | none =>
      let b := tellOpal frame (.outcome d.index .stagingFull) b
      b.modCh (fun c => { c with spinelJade := c.spinelJade ++ [(frame, d.index, none)] })

/-- A load of Context `c` that waits for its first Frame completes with this one, if it may: the new key goes into the slot as its
current key (R297). -/
def takeKey (frame c : Nat) (b : Block) : Block :=
  match b.spinel.keyOpen.find? (fun k => k.ctx == c && k.since ≤ frame) with
  | none => b
  | some e =>
    let k := slotGet b c
    let b := b.modSpinel (fun s => { s with
      keyOpen := s.keyOpen.filter (fun x => x.desc != e.desc)
      binds := s.binds.map (fun x => if x.ctx = c then { x with old := true } else x) })
    let b := slotSet c { k with state := .rolling, current := e.key, previous := k.current } b
    finishCtrl e.desc stOk frame (keyCheck e.key) 0 b

/-- Bind the slot's current key to a KEYED Destination's Frame; a load that waited for it comes first (R297, R298). Latch notices are
served in frame order, so the key that the slot holds is the one of the Frame's latch point (01 R22). -/
def bindKey (frame : Nat) (b : Block) (d : Dest) : Block :=
  if !d.keyed || b.spinel.binds.any (fun k => k.frame == frame && k.ctx == d.ctx) then b
  else
    let b := takeKey frame d.ctx b
    b.modSpinel (fun s => { s with
      binds := s.binds ++ [{ frame, ctx := d.ctx, key := (slotGet b d.ctx).current, old := false }] })

/-- Spinel binds its items of a Frame whose Destination set is `ds`. -/
def bindInSpinel (frame : Nat) (ds : List Dest) (b : Block) : Block :=
  ds.foldl (bindKey frame) (ds.foldl (reserveStaging frame) b)

/-- No staging is reserved for a host-ring Segment whose Frame Spinel has not bound. -/
def refuseStaging (frame : Nat) (b : Block) (d : Dest) : Block :=
  if d.magazine then b
  else
    (tellOpal frame (.outcome d.index .stagingFull) b).modCh (fun c => { c with
      spinelJade := c.spinelJade ++ [(frame, d.index, none)] })

/-- The first `lost` latch notices on their way to Spinel are lost; the next one shows the gap (01 R16, 12 R330). -/
def missNoticesSpinel (lost : Nat) (b : Block) : Block :=
  if lost = 0 then b
  else
    let b := b.modCh (fun c => { c with noticeSpinel := c.noticeSpinel.drop lost })
    if gapSeen lost then eventGap .spinel b else b

/-- The Destination sets of Frames before `frame`, whose notices Spinel did not receive (log entry 90): nothing is staged. -/
def missedInSpinel (frame : Nat) (b : Block) : Block :=
  (b.ch.spinelDests.filter (fun e => e.1 < frame)).foldl (fun b e => e.2.foldl (refuseStaging e.1) b) b

/-- Spinel serves the latch notice at the front, once Opal has bound the Frame's Destination set. -/
def serveNoticeSpinel (b : Block) : Block :=
  match b.ch.noticeSpinel with
  | [] => b
  | n :: rest =>
    let pop (b : Block) : Block := b.modCh (fun c => { c with noticeSpinel := rest })
    match n.snap with
    | none => pop b
    | some s =>
      match b.ch.spinelDests.find? (fun e => e.1 == s.frame) with
      | none => if b.ch.spinelDests.any (fun e => s.frame < e.1) then pop b else b
      | some (_, ds) =>
        let b := missedInSpinel s.frame (pop b)
        let b := b.modCh (fun c => { c with spinelDests := c.spinelDests.filter (fun e => s.frame < e.1) })
        let b := takeSpinelNotes (bindInSpinel s.frame ds b)
        if b.spinel.failed.contains s.frame then failInSpinel s.frame markFailStop b else b

/-- LATCH_NOTICE_SPINEL (08 R221): Spinel binds its keys and reserves host staging. `lost` notices before this one were
lost (01 R16). -/
def latchNoticeSpinel (lost : Nat) (b : Block) : Block :=
  if b.ch.noticeSpinel.length ≤ lost then b else serveNoticeSpinel (missNoticesSpinel lost b)

/-! ### Keys -/

/-- The frame number above those of the latch notices that Spinel has still to serve: a Frame from it on latches later. -/
def nextLatch (b : Block) : Nat :=
  (b.ch.noticeSpinel.filterMap (fun n => n.snap.map (·.frame))).foldl (fun a f => max a (f + 1)) 0

/-- A load is accepted (R297). For a CLOSED Context, or one not KEYED, the key goes into its slot as the current key; for an open
KEYED one at the latch point of the first Frame that it encrypts, when the load completes. -/
def loadKey (c desc : Nat) (key : List Byte) (b : Block) : Block :=
  let x := b.ctx c
  if (x.state = .opened || x.state = .stopped) && x.keyed then
    b.modSpinel (fun s => { s with keyOpen := s.keyOpen ++ [{ ctx := c, desc, key, since := nextLatch b }] })
  else
    let k := slotGet b c
    let b := if k.state = .empty then slotSet c { k with state := .loaded, current := key, previous := [] } b
      else
        let b := b.modSpinel (fun s => { s with binds := s.binds.map (fun x => if x.ctx = c then { x with old := true } else x) })
        slotSet c { k with state := .rolling, current := key, previous := k.current } b
    finishCtrl desc stOk frameNone (keyCheck key) 0 b

/-- A load of this Context waits for its first Frame. -/
def loadOpen (b : Block) (c : Nat) : Bool := b.spinel.keyOpen.any (fun k => k.ctx == c)

/-- Rows 3, 5 and 6 of R295 on an unwrapped key; a load behind one that waits for its first Frame waits too (log entry 112). -/
def checkKey (c desc : Nat) (key : Option (List Byte)) (b : Block) : Block :=
  if (b.ctx c).state = .closing || (slotGet b c).state = .retiring then finishCtrl desc stContextBusy frameNone 0 0 b
  else match key with
    | none => finishCtrl desc stKeyInvalid frameNone 0 0 b
    | some k =>
      if k.take 32 == k.drop 32 then finishCtrl desc stKeyInvalid frameNone 0 0 b
      else if (slotGet b c).state = .rolling || loadOpen b c then
        b.modSpinel (fun s => { s with keyWait := s.keyWait ++ [{ ctx := c, key := k, desc }] })
      else loadKey c desc k b

/-- KEY_LOAD (R294 to R297): `buf` is what the two reads of the host buffer returned, none when both failed. -/
def keyLoad (desc : Nat) (buf : Option (List Byte)) (b : Block) : Block :=
  match b.dispatched ctrlRing desc 0x09 with
  | none => b
  | some d =>
    let c := leAt d 16 1
    if b.spinel.keyWait.any (fun w => w.desc == desc) || b.spinel.keyOpen.any (fun w => w.desc == desc) ||
      !ctxOrder b desc then b
    else if leAt d 20 4 != 72 then finishCtrl desc stMalformed frameNone 0 20 b
    else if misaligned (leAt d 24 8) 64 then finishCtrl desc stMalformed frameNone 0 24 b
    else if !b.spinel.import_ then finishCtrl desc stKeyDisabled frameNone 0 0 b
    else if (b.ctx c).state = .closing || (slotGet b c).state = .retiring then
      finishCtrl desc stContextBusy frameNone 0 0 b
    else match buf with
      | none => finishCtrl desc stHostFault frameNone 0 0 b
      | some v => checkKey c desc (b.spinel.kek.bind (fun k => unwrapKey k v)) b

/-- A Frame bound to a key of Context `c` still lacks an outcome at a KEYED Destination of it (R299). -/
def bindLive (b : Block) (k : KeyBind) : Bool :=
  (winGet b k.frame).any (fun w =>
    w.dests.any (fun d => d.dest.ctx == k.ctx && d.dest.keyed && d.outcome == .pending))

/-- A Frame latched before a slot retired, whose notice Spinel has not served, may still bind the slot's key (R298, R301). -/
def mayBind (b : Block) (k : KeySlot) : Bool :=
  b.ch.noticeSpinel.any (fun n => n.snap.any (fun s => s.frame < k.until_))

/-- What KEY_RELEASE leaves in a slot (R299): the previous key goes when no Frame is bound to it, a retiring slot's last key when none
is bound to it or may still be. -/
def releaseSlot (binds : List KeyBind) (c : Nat) (pend : Bool) (k : KeySlot) : KeySlot :=
  let prev := if binds.any (fun x => x.ctx == c && x.old) then k.previous else []
  match k.state with
  | .rolling => if prev.isEmpty then { k with state := .loaded, previous := [] } else k
  | .retiring =>
    let cur := if pend || binds.any (fun x => x.ctx == c && !x.old) then k.current else []
    if prev.isEmpty && cur.isEmpty then emptySlot else { k with current := cur, previous := prev }
  | _ => k

/-- KEY_RELEASE (R299, R296): keys that no Frame needs are released, and loads that waited for the release of their slot's
previous key complete as if they had just arrived. -/
def keyRelease (b : Block) : Block :=
  let live := b.spinel.binds.filter (bindLive b)
  let b0 := b
  let b := b.modSpinel (fun s => { s with
    binds := live
    slots := Vector.ofFn (fun i => releaseSlot live i.val (mayBind b0 (s.slots.get i)) (s.slots.get i)) })
  let ready (w : KeyWait) : Bool := (slotGet b w.ctx).previous.isEmpty && !loadOpen b w.ctx
  let go := b.spinel.keyWait.filter ready
  let b := b.modSpinel (fun s => { s with keyWait := s.keyWait.filter (fun w => !ready w) })
  go.foldl (fun b w => checkKey w.ctx w.desc (some w.key) b) b

/-- Zeroise one slot: cleared when its Context is CLOSED and it is not RETIRING, else REFUSED (R308). -/
def zeroiseSlot (b : Block) (c : Nat) : Block :=
  if (b.ctx c).state = .closed && (slotGet b c).state != .retiring then slotSet c emptySlot b
  else b.modSpinel (fun s => { s with refused := true })

/-- ZEROISE (R308): a write of SPN_KEY_CTRL. -/
def zeroise (w : Word) (b : Block) : Block :=
  if !b.bar0 then b
  else
    let v := w.toNat
    let b := b.modSpinel (fun s => { s with refused := false })
    if bitsOf v 23 16 != 0xA5 then b
    else if bitOf v 8 then (List.range 256).foldl zeroiseSlot b
    else zeroiseSlot b (bitsOf v 7 0)

/-- The slot of a KEYED Context whose close completes (R301): a load that still waits for a Frame completes first, and the slot
retires. -/
def retireSlot (c : Nat) (b : Block) : Block :=
  let done := b.spinel.keyOpen.filter (fun e => e.ctx == c)
  let b := done.foldl (fun b _ => takeKey frameNone c b) b
  let k := slotGet b c
  if k.state = .empty then b else slotSet c { k with state := .retiring, until_ := nextLatch b } b

/-! ### Share encryption (R304) -/

/-- The ciphertext of a part of a share: the plaintext in retention, zeros to the end of its last LBA, under the LBAs
allocated (R303, R304), with the key bound to the Frame; none while no key is (R302). -/
def encryptPart (b : Block) (r : EncRequest) : Option (List Byte) :=
  let d := b.dramRead r.addr r.len
  (boundKey b r.frame r.ctx).map (fun k =>
    encryptMedia k r.lba (d ++ .replicate ((4096 - r.len % 4096) % 4096) 0))

end Sys2Proof.Machine
end

