-- ==== Sys2Proof/Machine/Ledger.lean ====
section
/-! DEFINITION. The Frame Ledger: Destination sets, the window, the record, its publication, TAKE_END and OUTCOME_QUERY
(06 R164, R166, R168; 07 R178, R179; 09 R234 to R253). -/

namespace Sys2Proof.Machine

/-! ### Codes and records -/

/-- Codes of Destination outcomes (R237). -/
def outcomeCode : DestOutcome → Nat
  | .pending => 0x00
  | .done => 0x01
  | .partial_ => 0x02
  | .hostTimeout => 0x10
  | .oversize => 0x11
  | .stagingFull => 0x12
  | .closed => 0x13
  | .noBuffer => 0x14
  | .truncated => 0x15
  | .mediaLost => 0x16
  | .notRecorded => 0x17
  | .discarded => 0x18
  | .expired => 0x19
  | .failed => 0x1A

/-- Every Destination has an outcome. -/
def allDecided (w : LedgerFrame) : Bool := w.dests.all (·.outcome != .pending)

/-- OUTCOME of a record (R238). -/
def frameOutcome (w : LedgerFrame) : Nat :=
  if w.dests.isEmpty then 3
  else if w.dests.all (·.outcome == .done) then 0
  else if w.dests.all (fun d => 0x10 ≤ outcomeCode d.outcome) then 2
  else 1

/-- Bits of the Destinations that `p` picks, by index. -/
def destBits (w : LedgerFrame) (p : LedgerDest → Bool) : Nat :=
  (w.dests.filter p).foldl (fun m d => m ||| 2 ^ d.dest.index) 0

/-- FLAGS of a record (R236). -/
def ledgerFlags (w : LedgerFrame) : Nat :=
  let f := w.snap.flags
  flagBits [f.truncated, f.noBuffer, 0 < w.snap.t, w.snap.timeStep, w.destLimit, w.snap.take.isSome, w.ante, w.takeFirst,
    w.takeLast || f.takeLast, w.dests.any (·.rehomed), f.programStart, w.failStop || f.failStop, f.berylAbsent, f.triggered]

/-- Effective angle of a Plane in 1/4,096 of the frame period (03 R72). -/
def planeAngle (nEff : Nat) (r : PlaneRun) : Nat := (roundDiv (4096 * (r.e - r.s : Nat)) (max 1 nEff)).toNat

/-- A Plane entry (R235). -/
def planeEntry (w : LedgerFrame) (p : Nat) : List Byte :=
  match w.snap.planes[p]? with
  | some r => leBytes 4 (r.s + r.e * 2 ^ 13) ++ leBytes 4 (r.wOn + planeAngle w.snap.nEff r * 2 ^ 13) ++ leBytes 4 r.exposure
  | none => leBytes 12 0

/-- Time fields that no time record gives: those of a Frame that never starts. Free values, log entry 6. -/
def freeTime (n : Nat) : TimeRecord :=
  let v (k : Nat) : Nat := (Config.freeWord (n + k)).toNat
  { cad1Stamp := v 0, refState := v 1 % 8, refEvent := bitOf (v 2) 0, phaseAdopted := bitOf (v 2) 1
    epoch := v 3 % 65536, todValid := bitOf (v 2) 2, todCoarse := bitOf (v 2) 3, todStale := bitOf (v 2) 4
    todSeconds := v 4 % 2 ^ 48, todNs := v 5 % 2 ^ 30, utcOffset := signed 16 (v 6 % 65536)
    tc := BitVec.ofNat 32 (v 7), tcIndex := v 8 % 32, tcDf := bitOf (v 2) 5, corr := 0 }

/-- The time record of a Frame's Hand. -/
def frameTime (fresh : Nat) (w : LedgerFrame) : TimeRecord :=
  match w.snap.time with
  | some t => t
  | none => freeTime fresh

/-- A Ledger record but for its PHASE byte (R234). -/
def ledgerRecord (t : TimeRecord) (w : LedgerFrame) (lost : Nat) : List Byte :=
  leBytes 1 1 ++ leBytes 1 (frameOutcome w) ++ leBytes 2 (ledgerFlags w) ++ leBytes 4 w.snap.prog.gen ++ leBytes 8 w.frame ++
    leBytes 8 t.cad1Stamp ++ leBytes 4 (w.snap.take.getD 0) ++ leBytes 2 t.epoch ++ leBytes 2 w.snap.overrun ++
    leBytes 2 w.marks.toNat ++ leBytes 2 w.snap.nEff ++ leBytes 1 (w.snap.t % 16 + 16 * (w.refMissing % 8)) ++
    leBytes 1 (t.refState % 8 + 8 * flagBits [w.refEvent, t.phaseAdopted, t.todValid, t.todCoarse, t.todStale]) ++
    leBytes 1 (t.tcIndex % 32 + 32 * bit t.tcDf + 64 * (w.snap.prog.planeCount - 1)) ++ leBytes 1 w.dests.length ++
    leBytes 4 t.tc.toNat ++ leBytes 4 (t.todNs % 2 ^ 30) ++ leBytes 6 t.todSeconds ++ leInt 2 t.utcOffset ++
    leBytes 8 (destBits w (·.outcome == .done)) ++ leBytes 8 (destBits w (fun d => 0x10 ≤ outcomeCode d.outcome)) ++
    planeEntry w 0 ++ planeEntry w 1 ++ planeEntry w 2 ++ planeEntry w 3 ++ leBytes 2 lost ++ leBytes 5 0

/-! ### Publication (R239 to R242) -/

/-- The CAD1 event that ends the Frame's Hand has passed, or the Frame is TRUNCATED (R239); after a FATAL fault no such
event is waited for (12 R329). -/
def handPassed (b : Block) (w : LedgerFrame) : Bool := w.handEnd.isSome || w.snap.flags.truncated || (b.topaz.fatal && w.measured)

/-- Every condition of R239 but the order holds. Marks of Stripes that Jade has still to process are not waited for (06 R144;
log entry 104). -/
def publishable (b : Block) (w : LedgerFrame) : Bool := handPassed b w && allDecided w

/-- Room in the Ledger ring as far as the head last read shows (R241). -/
def ledgerRoom (r : LedgerRing) : Bool := r.state == .running && !r.headFault && indexDist r.entries r.tail r.head < r.entries

/-- LEDGER_EVERY in force (18 R471). -/
def ledgerEvery (b : Block) : Nat :=
  let v := b.field 0x5000 16 8
  if isPow2 v && v ≤ 256 then v else 0

/-- The Ledger vector (18 R471). -/
def ledgerVector (b : Block) : Nat := b.field 0x5004 13 8

/-- Write a Frame's record into the ring; the message of R242. -/
def writeLedger (w : LedgerFrame) (b : Block) : Block :=
  let lost := b.opal.ldgLost
  let body := ledgerRecord (frameTime b.fresh w) w lost
  let r := b.opal.ldg
  let b := if w.snap.time.isNone then { b with fresh := b.fresh + 9 } else b
  let b := b.logEvr .opal 0x16 (leBytes 8 w.frame ++ leBytes 1 (frameOutcome w) ++
    leBytes 4 (crc32c (body.take 120 ++ leBytes 8 0)).toNat)
  let b := mergeDigest .opal 5 w.frame w.dests.length b
  let b := b.hostWrite (r.base + 128 * (r.tail % r.entries)) (body ++ leBytes 1 (phaseOf r.entries r.tail))
  let b := b.modOpal (fun o => { o with ldg := { r with tail := (r.tail + 1) % (2 * r.entries) }, ldgLost := 0 })
  let b := if ledgerRoom b.opal.ldg then b else b.modOut (fun o => { o with reads := (headLine b ctrlRing, 64) :: o.reads })
  let b := winMod w.frame (fun x => { x with record := .published (indexWord r.entries r.tail) }) b
  let every := ledgerEvery b
  if frameOutcome w = 1 || frameOutcome w = 2 || 0 < lost || (every != 0 && w.frame % every == 0) then
    requestMsg (ledgerVector b) b
  else b

/-- The lowest frame number that the window holds unpublished. -/
def windowFrames (b : Block) : List Nat := b.opal.window.map (·.frame)

/-- Publish records in frame order while each may go (R239). A number below one the window holds, and not in it, was
dropped. -/
def publishLoop : Nat → Block → Block
  | 0, b => b
  | k + 1, b =>
    let n := b.opal.nextPub
    let step (b : Block) : Block := b.modOpal (fun o => { o with nextPub := n + 1 })
    match winGet b n with
    | none => if (windowFrames b).any (fun f => n < f) then publishLoop k (step b) else b
    | some w =>
      match w.record with
      | .published _ => publishLoop k (step b)
      | .forming =>
        if publishable b w && b.hostUp && ledgerRoom b.opal.ldg then publishLoop k (step (writeLedger w b)) else b

/-- The record of a Frame is still to be published, or the Frame to be bound. -/
def recordAwaited (b : Block) (frame : Nat) : Bool :=
  (winGet b frame).any (fun w => w.record == .forming) || windowTop b < frame

/-- Outcome records of a Frame are retired with its Ledger record (12 R319). -/
def retireRecords (b : Block) : Block :=
  b.modCh (fun c => { c with kept := { c.kept with
    garnetOpal := c.kept.garnetOpal.filter (fun m => recordAwaited b m.frame)
    spinelOpal := c.kept.spinelOpal.filter (fun m => recordAwaited b m.frame)
    onyxOpal := c.kept.onyxOpal.filter (fun m => recordAwaited b m.frame)
    ledgerNotes := c.kept.ledgerNotes.filter (fun e => recordAwaited b e.1) } })

/-- Frames that have left the window and are published leave Opal (R243). -/
def trimWindow (b : Block) : Block :=
  let top := windowTop b
  (retireRecords b).modOpal (fun o => { o with
    window := o.window.filter (fun w => top < w.frame + 4096 || w.record == .forming) })

/-- Codes of Take end reasons (10, table Take end reasons; 12 R314). -/
def reasonCode : EndReason → Nat
  | .stop => 0
  | .count => 1
  | .retention => 2
  | .mediaFull => 3
  | .bandwidth => 4
  | .setBroken => 5
  | .powerLoss => 6
  | .shutdown => 7
  | .islandFault => 8

/-- TAKE_END of each Take whose clips have closed and whose last record has gone, in order (R247, 10 R280). -/
def postTakeEnds : Nat → Block → Block
  | 0, b => b
  | k + 1, b =>
    match b.opal.takeEnds with
    | [] => b
    | e :: es =>
      if e.clipClosed && e.before ≤ b.opal.nextPub then
        postTakeEnds k (postEvent evTakeEnd (e.last.getD frameNone) (leBytes 4 e.takeId ++ leBytes 1 (reasonCode e.reason))
          (b.modOpal (fun o => { o with takeEnds := es })))
      else b

/-- Everything the Ledger Merge can do now. -/
def serveLedger (b : Block) : Block :=
  let b := trimWindow (publishLoop (2 * b.opal.window.length + 4100) b)
  postTakeEnds b.opal.takeEnds.length b

/-- LEDGER_PUBLISH (R239). -/
def ledgerPublish (b : Block) : Block := serveLedger b

/-- The first end of a Take of this TAKE_ID that still waits for its clips has them closed; none when no such end waits. -/
def closeEnd (e : Nat × Option Nat) : List TakeEnd → Option (List TakeEnd)
  | [] => none
  | t :: l =>
    if t.takeId = e.1 ∧ !t.clipClosed then some ({ t with clipClosed := true, last := t.last.or e.2 } :: l)
    else (closeEnd e l).map (t :: ·)

/-- Onyx names closed Takes in the order in which they ended, so that of two with one TAKE_ID the earlier is closed first. Answers the
ends, and the words whose Take Opal has not yet seen end. -/
def closeEnds : List (Nat × Option Nat) → List TakeEnd → List TakeEnd × List (Nat × Option Nat)
  | [], l => (l, [])
  | e :: es, l =>
    match closeEnd e l with
    | some l => closeEnds es l
    | none =>
      let (l, later) := closeEnds es l
      (l, e :: later)

/-- Opal takes Onyx's word of the Takes that it has seen end: their clips have closed on every member still present (10 R280). A
Take that captured no Frame ends with the last Frame it took from the Ante (R236). -/
def takeClosed (b : Block) : Block :=
  if !b.takes .opal then b
  else
    let (ends, later) := closeEnds b.ch.takesClosed b.opal.takeEnds
    let b := (b.modCh (fun c => { c with takesClosed := later })).modOpal (fun o => { o with takeEnds := ends })
    postTakeEnds b.opal.takeEnds.length b

/-! ### Destination sets (06 R164, R166, R168; 07 R178, R179) -/

/-- The Context is open for a Frame of this number: it opened before the Frame's latch point and had not begun to
close (08 R215, R216). -/
def ctxTakes (c : Ctx) (frame : Nat) : Bool :=
  match c.state with
  | .closed => false
  | .opened => c.openFrame ≤ frame
  | .stopped => c.openFrame ≤ frame
  | .closing => c.openFrame ≤ frame && frame < c.closeFrame

/-- Settings that apply to a Frame (06 R164): the highest FROM_GEN not above GEN, the latest of equals. -/
def settingsFor (j : Jade) (c gen frame : Nat) : Option ProcSet :=
  j.settings.foldl (fun (r : Option ProcSet) s =>
    if s.ctx != c || gen < s.fromGen || frame < s.since then r
    else match r with
      | some q => if q.fromGen ≤ s.fromGen then some s else r
      | none => some s) none

/-- The Destinations of one Context, host ring first, unnumbered. -/
def ctxDests (b : Block) (s : Snapshot) (c : Nat) : List Dest :=
  let x := b.ctx c
  if !ctxTakes x s.frame then []
  else match settingsFor b.jade c s.prog.gen s.frame with
    | none => []
    | some set =>
      let stats := set.encoding == 3
      let rows := if stats then some (0, 0) else rowsUsed set s.prog.drainFirst s.prog.drainLast
      match rows with
      | none => []
      | some (row0, n) =>
        if !stats && (planesOf set.planeSel).any (fun p => s.prog.planeCount ≤ p) then []
        else
          let d (mag : Bool) : Dest :=
            let d0 : Dest := { index := 0, ctx := c, magazine := mag, set, row0, rows := n, segLen := 0, keyed := x.keyed }
            { d0 with segLen := (128 + payloadLen d0 + 63) / 64 * 64 }
          (if x.hostRing then [d false] else []) ++ (if x.magazine then [d true] else [])

/-- The Destination set of a Frame, numbered (07 R179), and whether DEST_LIMIT is set. -/
def destSet (b : Block) (s : Snapshot) : List Dest × Bool :=
  let all := (List.range 256).flatMap (ctxDests b s)
  ((all.take 64).zipIdx.map (fun (d, i) => { d with index := i }), 64 < all.length)

/-- A Destination as it enters the window. -/
def freshDest (d : Dest) : LedgerDest := {
  dest := d, outcome := .pending, marks := 0, stripeMap := 0, doneMap := 0, ready := false, buffer := none
  durability := bit d.magazine, rehomed := false, anteHeld := false, ports := 0 }

/-- REF_MISSING of a Frame as bound (06 R163). -/
def refMissingBits (s : Snapshot) : Nat :=
  flagBits [s.prog.defectId != 255 && s.refs.1.isNone, s.prog.shadingId != 255 && s.refs.2.1.isNone,
    s.prog.darkId != 255 && s.refs.2.2.isNone]

/-- A Frame as it enters the window (R243). -/
def freshFrame (s : Snapshot) (ds : List Dest) (limit : Bool) : LedgerFrame := {
  frame := s.frame, snap := s, dests := ds.map freshDest, destLimit := limit, ante := false
  takeFirst := s.flags.takeStart, takeLast := s.flags.takeLast, failStop := s.flags.failStop, marks := 0
  refMissing := refMissingBits s, drained := [0, 0, 0, 0], refEvent := false, measured := false, handEnd := none
  record := .forming }

/-- A Frame leaves the window at this number's latch point (R243, R244): pending magazine Destinations get expiry requests; a
record that waits for the ring is dropped and counted (R241). One that waits for an earlier record keeps its turn. -/
def leaveWindow (frame : Nat) (b : Block) : Block :=
  let old := b.opal.window.filter (fun w => w.frame + 4096 ≤ frame && w.record == .forming)
  let wait := if b.hostUp && ledgerRoom b.opal.ldg then [] else old.takeWhile (publishable b)
  let asks := old.flatMap (fun w =>
    (w.dests.filter (fun d => d.dest.magazine && d.outcome == .pending && w.frame + 4096 == frame)).map
      (fun d => (w.frame, d.dest.index)))
  let b := b.modCh (fun c => { c with expiry := c.expiry ++ asks })
  let b := b.modOpal (fun o => { o with
    window := o.window.filter (fun w => !wait.any (fun x => x.frame == w.frame))
    ldgLost := satAdd 65535 o.ldgLost wait.length })
  trimWindow b

/-- A Frame bound before the ABORT of a Context, whose notice Opal serves after it: its host-ring Segments are dropped as
CLOSED (08 R216). -/
def abortLate (frame : Nat) (b : Block) : Block :=
  let late : List LedgerDest := match winGet b frame with
    | some w => w.dests.filter (fun d =>
        !d.dest.magazine && d.outcome == .pending && (b.ctx d.dest.ctx).state == .closing && (b.ctx d.dest.ctx).aborting)
    | none => []
  late.foldl (fun b d => dropUnassigned frame d.dest .closed b) b

/-- A Frame that fail-stopped Opal takes in fails there (12 R326, R327). -/
def opalFailsNew (frame : Nat) (b : Block) : Block := if b.failing .opal then failInOpal frame b else b

/-- A latch notice that Opal did not receive (log entry 90): Opal has bound no Destination for its Frame, whose number the next
notice shows to be missing. The Frame has its Ledger record (01 R12), formed from what Garnet's outcome record brings, and an empty
Destination set goes to the Islands that bind one. -/
def missNoticeOpal (b : Block) (n : LatchNotice) : Block :=
  match n.snap with
  | none => b
  | some s =>
    let b := leaveWindow s.frame (b.modOpal (fun o => { o with window := o.window ++ [freshFrame s [] false] }))
    b.modCh (fun c => { c with
      opalJade := c.opalJade ++ [(s.frame, [])], spinelDests := c.spinelDests ++ [(s.frame, [])]
      onyxDests := c.onyxDests ++ [(s.frame, [])] })

/-- The first `lost` latch notices on their way to Opal are lost; the next one shows the gap (01 R16, 12 R330). -/
def missNoticesOpal (lost : Nat) (b : Block) : Block :=
  if lost = 0 then b
  else
    let gone := b.ch.noticeOpal.take lost
    let b := b.modCh (fun c => { c with noticeOpal := c.noticeOpal.drop lost })
    let b := gone.foldl missNoticeOpal b
    if gapSeen lost then eventGap .opal b else b

/-- Opal serves the latch notice at the front. -/
def serveNoticeOpal (b : Block) : Block :=
  match b.ch.noticeOpal with
  | [] => b
  | n :: rest =>
    let b := b.modCh (fun c => { c with noticeOpal := rest })
    let b := match n.takeStop with
      | some (id, r, last) =>
        let b := match last with | some f => winMod f (fun w => { w with takeLast := true }) b | none => b
        b.modOpal (fun o => { o with
          takeOpen := false
          takeEnds := o.takeEnds ++ [{ takeId := id, reason := r, last
                                       before := (match last with | some f => f + 1 | none => n.frame), clipClosed := false }] })
      | none => b
    let b := if n.takeStart.isSome then b.modOpal (fun o => { o with takeOpen := true }) else b
    match n.snap with
    | none => takeClosed b
    | some s =>
      let (ds, limit) := destSet b s
      let b := b.modOpal (fun o => { o with window := o.window ++ [freshFrame s ds limit] })
      let b := leaveWindow s.frame b
      let b := b.modCh (fun c => { c with
        opalJade := c.opalJade ++ [(s.frame, ds)], spinelDests := c.spinelDests ++ [(s.frame, ds)]
        onyxDests := c.onyxDests ++ [(s.frame, ds)] })
      takeClosed (takeNotes (abortLate s.frame (opalFailsNew s.frame b)))

/-- LATCH_NOTICE_OPAL (07 R179, 09 R243, R244): the Destination set is bound and sent to Jade; the Take that ends is
noted, and its last Frame carries TAKE_LAST. `lost` notices before this one were lost (01 R16). -/
def latchNoticeOpal (lost : Nat) (b : Block) : Block :=
  if b.ch.noticeOpal.length ≤ lost then b else serveNoticeOpal (missNoticesOpal lost b)

/-! ### What Opal learns of a Frame -/

/-- Find the CAD1 event that ended a measured Frame's Hand among the time records (R239, 05 R136). A Frame that never starts has
none to wait for. -/
def settleFrame (o : Opal) (w : LedgerFrame) : LedgerFrame :=
  if !w.measured then w
  else match w.handEnd, w.snap.time with
  | none, none => { w with handEnd := some o.cad1 }
  | none, some t =>
    match (o.times.zipIdx).find? (fun (x, _) => x.cad1Stamp == (t.cad1Stamp + w.snap.l) % 2 ^ 64) with
    | some (x, k) => { w with handEnd := some (o.cad1 - k), refEvent := x.refEvent }
    | none => w
  | _, _ => w

/-- Settle every Frame of the window. -/
def settleEnds (b : Block) : Block := b.modOpal (fun o => { o with window := o.window.map (settleFrame o) })

/-- A START held while a cadence was staged still waits: the cadence is staged, or it was DISC's alignment, whose check has not
ended, for the acquisition completes first (04 R92, 05 R125; log entry 83). -/
def startHeld (b : Block) : Bool := b.quartz.capState == 2 || (b.disc.state == .acquire && b.disc.step == .checking)

/-- Opal takes time record `t` (05 R136, 08 R222, 04 R92): the record counts a CAD1 event; a START held while a cadence was staged
goes to Garnet. -/
def takeTimeRecord (t : TimeRecord) (b : Block) : Block :=
  let b := settleEnds (b.modOpal (fun o => { o with cad1 := o.cad1 + 1, times := (t :: o.times).take 4096 }))
  match b.opal.held with
  | some i =>
    if startHeld b then b
    else
      let b := b.modOpal (fun o => { o with held := none })
      match b.dispatched ctrlRing i 0x02 with
      | some d => startTake i d b
      | none => b
  | none => b

/-- TIME_RECORD (05 R136): Opal takes the oldest record of Quartz. -/
def timeRecord (b : Block) : Block :=
  match b.ch.quartzOpal with
  | [] => b
  | t :: rest => takeTimeRecord t (b.modCh (fun c => { c with quartzOpal := rest }))

/-- GARNET_OUTCOME (R246): what the Hand measured, and the outcome Garnet gives every Destination, if any; Spinel and Onyx
learn of it. A record sent again changes nothing (12 R323). -/
def garnetOutcome (b : Block) : Block :=
  match b.ch.garnetOpal with
  | [] => b
  | m :: rest =>
    let b := b.modCh (fun c => { c with garnetOpal := rest, kept := { c.kept with garnetOpal := c.kept.garnetOpal ++ [m] } })
    let b := winMod m.frame (fun w => if w.measured && !m.final then w else { w with
      snap := { m.snap with take := w.snap.take, flags := { m.snap.flags with takeStart := w.snap.flags.takeStart } }
      failStop := w.failStop || m.snap.flags.failStop, marks := w.marks ||| m.marks
      measured := w.measured || m.final }) b
    let b := settleEnds b
    match m.outcome, winGet b m.frame with
    | some o, some w =>
      let st := if o = .truncated then stCancelled else stFailed
      let b := if o = .failed then mergeDests m.frame m.marks (w.dests.map (·.dest.index)) b else b
      let b := (w.dests.filter (fun d => !d.dest.magazine)).foldl (fun b d => dropHost m.frame d.dest.index o st b) b
      let mags := (w.dests.filter (fun d => d.dest.magazine && d.outcome == .pending)).map (fun d => (m.frame, d.dest.index))
      decideAll m.frame (fun _ => true) o (b.modCh (fun c => { c with opalOnyx := c.opalOnyx ++ mags }))
    | _, _ => b

/-- DESTINATION_OUTCOME (R237): Onyx's decision for a magazine Destination. -/
def destinationOutcome (b : Block) : Block :=
  match b.ch.onyxOpal with
  | [] => b
  | m :: rest =>
    let b := b.modCh (fun c => { c with onyxOpal := rest, kept := { c.kept with onyxOpal := c.kept.onyxOpal ++ [m] } })
    let good := m.outcome = .done || m.outcome = .partial_
    let b := if m.outcome = .failed then mergeDests m.frame m.marks [m.index] b else b
    let b := destMod m.frame m.index (fun d =>
      if d.outcome = .pending then decide_ m.outcome { d with
        ports := m.ports, rehomed := d.rehomed || m.rehomed, marks := d.marks ||| m.marks
        stripeMap := d.stripeMap ||| m.stripeMap, doneMap := if good then m.stripeMap else d.doneMap }
      else d) b
    markFrame m.frame m.marks b

/-! ### OUTCOME_QUERY (R251 to R253) -/

/-- STATE of the answer. -/
def answerState (w : LedgerFrame) : Nat :=
  match w.record with
  | .published _ => 3
  | .forming => if w.handEnd.isNone && !w.snap.flags.truncated then 0 else if allDecided w then 2 else 1

/-- No Segment was produced: the outcome came before any Segment Stripe of it was in staging or retention (R252). -/
def noSegment (d : LedgerDest) : Bool := d.outcome != .pending && !d.ready

/-- One Destination entry of the answer (R252). -/
def answerEntry (d : LedgerDest) : List Byte :=
  leBytes 1 d.dest.ctx ++ leBytes 1 (destByte d.dest) ++ leBytes 1 (outcomeCode d.outcome) ++ leBytes 1 d.durability ++
    leBytes 1 (flagBits [d.rehomed, d.dest.keyed, d.anteHeld]) ++ leBytes 1 d.dest.set.planeSel ++
    leBytes 2 d.marks.toNat ++ leBytes 4 (if noSegment d then 0 else d.dest.segLen) ++ leBytes 1 d.ports ++
    leBytes 3 0 ++ leBytes 24 d.stripeMap ++ leBytes 24 d.doneMap

/-- The whole answer. -/
def answer (w : LedgerFrame) : List Byte :=
  let st := answerState w
  leBytes 8 w.frame ++ leBytes 4 w.snap.prog.gen ++ leBytes 1 st ++ leBytes 1 w.dests.length ++ leBytes 2 (ledgerFlags w) ++
    leBytes 1 w.snap.prog.planeCount ++ leBytes 1 (if 2 ≤ st then frameOutcome w else 0xFF) ++ leBytes 2 0 ++
    leBytes 4 (match w.record with | .published i => i | .forming => 0xFFFFFFFF) ++ leBytes 8 0 ++
    (w.drained.take 4).flatMap (leBytes 24) ++ w.dests.flatMap answerEntry

/-- OUTCOME_QUERY (08 R220). A Frame that is bound and has not started is not in the window. -/
def outcomeQuery (desc : Nat) (b : Block) : Block :=
  match b.dispatched ctrlRing desc 0x0E with
  | none => b
  | some d =>
    let f := leAt d 16 8
    let len := leAt d 24 4
    if badLength len then finishCtrl desc stMalformed frameNone 0 24 b
    else if misaligned (leAt d 32 8) 64 then finishCtrl desc stMalformed frameNone 0 32 b
    else
      let started := match b.garnet.bound with | some s => s.frame != f | none => true
      match winGet b f with
      | none => finishCtrl desc stNotInWindow frameNone 0 0 b
      | some w =>
        if !started || f + 4096 ≤ windowTop b then finishCtrl desc stNotInWindow frameNone 0 0 b
        else
          let a := answer w
          if len < a.length then finishCtrl desc stOversize frameNone a.length 0 b
          else if !b.hostUp then b
          else finishCtrl desc stOk frameNone a.length 0 (b.hostWrite (leAt d 32 8) a)

end Sys2Proof.Machine
end

