-- ==== Sys2Proof/Machine/Opal.lean ====
section
/-! DEFINITION. Opal: polls, fetch, Contexts, buffers, MSI-X, ring starts and the host link (08 R200 to R216, R222, R227,
R232; 12 R332; 17 R449; 18 R472 to R475). -/

namespace Sys2Proof.Machine

/-! ### Polls (08 R202, R205, R227) -/

/-- An index word of the Doorbell Page. -/
def pageWord (p : List Byte) (off : Nat) : Nat := leAt p off 4

/-- Opal reads the Doorbell Page: it is committed and the link is up (18 R463, 17 R456). -/
def polls (b : Block) : Bool := b.committed .opal && b.hostUp

/-- A ring whose descriptors Opal fetches: running, with no fault of its own waiting. -/
def fetching (x : Ring) : Bool := x.state == .running && x.faultRec.isNone

/-- A producer index is taken (R200, R202): checked when it differs from the one last read. -/
def takePi (r w : Nat) (b : Block) : Block :=
  let x := b.ring r
  if !fetching x then b
  else if indexFaulty x.sqEntries x.done w then b.setRing r { x with faultRec := some (stMalformed, w, 0) }
  else b.setRing r { x with pi := indexLinear x.sqEntries w }

/-- A head index is faulty: outside the ring, or further behind than the ring has entries (R227). -/
def headFaulty (entries tail w : Nat) : Bool :=
  entries ≤ bitsOf w 15 0 || entries < indexDist entries tail (indexLinear entries w)

/-- A completion ring's head is read: while it has no free entry, or its head is faulty (R227). -/
def takeHead (r w : Nat) (b : Block) : Block :=
  let x := b.ring r
  if x.state == .idle || x.room || x.dead then b
  else if headFaulty x.cqEntries x.cqTail w then
    if x.headFault then b
    else
      let b := b.setRing r { x with headFault := true }
      postEvent evRingFault frameNone (evData [r % 256, r / 256, 1]) (stopRing r b)
  else b.setRing r { x with cqHead := indexLinear x.cqEntries w, headFault := false }

/-- The Ledger ring's head (09 R241). -/
def takeLedgerHead (w : Nat) (b : Block) : Block :=
  let r := b.opal.ldg
  if r.state != .running || ledgerRoom r then b
  else if headFaulty r.entries r.tail w then
    postEvent evRingFault frameNone (evData [1, 1, 1])
      (b.modOpal (fun o => { o with ldg := { r with headFault := true, state := .stopped } }))
  else b.modOpal (fun o => { o with ldg := { r with head := indexLinear r.entries w } })

/-- An index word as it counts: reserved bits are ignored (08 R198, 00 R6). -/
def indexBits (w : Nat) : Nat := bitsOf w 16 0

/-- One Context in a poll. CTX_INDEX is logged for an index that differs (12 R342). -/
def pollCtx (p : List Byte) (b : Block) (c : Nat) : Block :=
  let x := b.ctx c
  let summary := (leAt p (c / 8) 1).testBit (c % 8)
  let piW := indexBits (pageWord p (64 + 4 * c))
  let headW := indexBits (pageWord p (1088 + 4 * c))
  let readPi := x.state = .opened && summary
  let readHead := x.state != .closed && !x.ring.room
  let changed := (readPi && piW != indexWord x.ring.sqEntries x.ring.pi) ||
    (readHead && headW != indexWord x.ring.cqEntries x.ring.cqHead)
  let b := if changed then b.logEvr .opal 0x05 (leBytes 1 c ++ leBytes 4 piW ++ leBytes 4 headW) else b
  let b := if readPi then takePi c piW b else b
  let b := if readHead then takeHead c headW b else b
  if readPi || readHead then serveRing c b else b

/-- The reads of a poll: the 64-byte header, the lines of producer indices, and the lines of heads (R202, R227). -/
def pollReads (b : Block) (p : List Byte) : List (Nat × Nat) :=
  let base := doorbellBase b
  let need (g c : Nat) : Bool :=
    let x := b.ctx (16 * g + c)
    x.state = .opened && (leAt p (2 * g + c / 8) 1).testBit (c % 8)
  let needHead (g c : Nat) : Bool :=
    let x := b.ctx (16 * g + c)
    x.state != .closed && !x.ring.room
  let lines := (List.range 16).filter (fun g => (List.range 16).any (need g))
  let heads := (List.range 16).filter (fun g => (List.range 16).any (needHead g))
  (base, 64) :: (lines.map (fun g => (base + 64 + 64 * g, 64)) ++ heads.map (fun g => (base + 1088 + 64 * g, 64)))

/-- A run of failed polls (R205). -/
def pollFailed (b : Block) : Block :=
  let n := b.opal.failRun + 1
  let b := b.modOpal (fun o => { o with failRun := n })
  if n = 8 then postEvent evDoorbellFault frameNone (evData [8, 0]) b else b

/-- DOORBELL trace entry when bytes 32 to 43 or SUMMARY differ from the last one logged (12 R342). -/
def logDoorbell (p : List Byte) (b : Block) : Block :=
  if b.opal.lastDoorbell == p.take 44 || !b.recording then b
  else (b.logEvr .opal 0x04 ((p.drop 32).take 12) [p.take 32]).modOpal (fun o => { o with lastDoorbell := p.take 44 })

/-- The Control Ring's indices and the Ledger ring's head in a Doorbell Page (R202). -/
def takeDoorbell (p : List Byte) (b : Block) : Block :=
  takeLedgerHead (pageWord p 40) (takeHead ctrlRing (pageWord p 36) (takePi ctrlRing (pageWord p 32) b))

/-- POLL (R202): `page` is what the poll's reads of the Doorbell Page returned, none when one of them failed. In
Replay its contents are ignored (12 R346). -/
def poll (page : Option (List Byte)) (b : Block) : Block :=
  if !polls b then b
  else match page with
    | none => pollFailed (b.modOut (fun o => { o with reads := (doorbellBase b, 64) :: o.reads }))
    | some p =>
      let b := b.modOut (fun o => { o with reads := pollReads b p ++ o.reads })
      let run := b.opal.failRun
      let b := b.modOpal (fun o => { o with failRun := 0 })
      let b := if 8 ≤ run then postEvent evDoorbellFault frameNone (evData [min 255 run, 1]) b else b
      let b := if b.beryl.evr.mode = 2 then b else (List.range 256).foldl (pollCtx p) (takeDoorbell p (logDoorbell p b))
      serveLedger (serveRing ctrlRing b)

/-- POLL_READ_TIMEOUT (R205): the read has not completed within 50 µs and counts as a failed poll. -/
def pollReadTimeout (b : Block) : Block := if polls b then pollFailed b else b

/-! ### Fetch (R206 to R209) -/

/-- Descriptors in flight on every Context ring. -/
def ctxInflight (b : Block) : Nat := (b.opal.ctxs.toList.map (fun c => c.ring.flight.length)).sum

/-- How many descriptors a read of ring `r` may bring (R206, R207). -/
def fetchRoom (b : Block) (r : Nat) : Nat :=
  let x := b.ring r
  let posted := indexDist x.sqEntries x.pi x.next
  let limit := if r < 256 then min ((b.ctx r).inflight - x.flight.length) (960 - ctxInflight b)
    else 64 - (b.opal.ghosts.length + x.flight.length)
  if fetching x then min 8 (min posted limit) else 0

/-- A Context waits for a fetch. -/
def wantsFetch (b : Block) (c : Nat) : Bool := (b.ctx c).state == .opened && 0 < fetchRoom b c

/-- The Context served next: the first that waits, after the one served last (R207). -/
def nextServed (b : Block) : Option Nat :=
  ((List.range 256).map (fun i => (b.opal.rr + 1 + i) % 256)).find? (wantsFetch b)

/-- Add fetched descriptors to a ring, each logged with its digest (12 R342). -/
def addFetched (r : Nat) : List (List Byte) → Block → Block
  | [], b => b
  | d :: ds, b =>
    let x := b.ring r
    let b := b.logEvr .opal 0x06 (leBytes 2 r ++ leBytes 4 (indexWord x.sqEntries x.next) ++ d.take 2 ++
      leBytes 4 (crc32c d).toNat ++ (d.drop 4).take 4)
    addFetched r ds (b.setRing r { x with
      flight := x.flight ++ [{ index := x.starts * 2 ^ 18 + x.next, bytes := d, status := .fetched }], next := (x.next + 1) % (2 * x.sqEntries)
      retried := false })

/-- The reads of `n` descriptors of a submission ring from entry `next` on, cut at the ring's end (R207). -/
def sqReads (x : Ring) (n : Nat) : List (Nat × Nat) :=
  let i := x.next % x.sqEntries
  let first := min n (x.sqEntries - i)
  (x.sqBase + 64 * i, 64 * first) :: (if first < n then [(x.sqBase, 64 * (n - first))] else [])

/-- In Replay ring `r` is fetched where the trace records it (12 R346). -/
def fetchAwaited (b : Block) (r : Nat) : Bool :=
  b.beryl.evr.mode != 2 || (match b.beryl.evr.feed with | e :: _ => e.type == 0x06 && leAt e.payload 0 2 == r | [] => false)

/-- DESCRIPTOR_FETCHED (R207 to R209): a read of ring `r` returned these descriptors, or failed: retried once, then the
ring stops as R200 states with HOST_FAULT. The fetched descriptors are dispatched in ring order. -/
def descriptorFetched (r : Nat) (data : Option (List (List Byte))) (b : Block) : Block :=
  if !polls b || ctrlRing < r || !fetchAwaited b r || (r != ctrlRing && nextServed b != some r) then b
  else
    let n := fetchRoom b r
    let x := b.ring r
    if n = 0 then b
    else
      let b := b.modOut (fun o => { o with reads := sqReads x n ++ o.reads })
      match data with
      | none =>
        if x.retried then
          serveRing r (b.setRing r { x with faultRec := some (stHostFault, indexWord x.sqEntries x.next, 2) })
        else b.setRing r { x with retried := true }
      | some ds =>
        let b := if r < 256 then b.modOpal (fun o => { o with rr := r }) else b
        serveRing r (addFetched r (ds.take n) b)

/-- NOP (R209). -/
def nop (r desc : Nat) (b : Block) : Block :=
  match b.dispatched r desc 0x00 with
  | some _ => finish r desc stOk frameNone 0 0 b
  | none => b

/-! ### Contexts (R215, R216) -/

/-- A ring as it is opened (R199). -/
def openRing (sq cq sqE cqE : Nat) : Ring := {
  state := .running, starts := 0, sqBase := sq, cqBase := cq, sqEntries := sqE, cqEntries := cqE, pi := 0, next := 0, done := 0
  cqTail := 0, cqHead := 0, headFault := false, retried := false, flight := [], faultRec := none, dead := false }

/-- A ring size that R215 takes. -/
def ringSize (n : Nat) : Bool := 16 ≤ n && n ≤ 65536 && isPow2 n

/-- Row 1 of R215: the byte offset of the first field at fault. -/
def openFault (d : List Byte) : Option Nat :=
  if leAt d 17 1 % 4 = 0 then some 17
  else if 63 < leAt d 18 1 then some 18
  else if !ringSize (leAt d 20 4) then some 20
  else if !ringSize (leAt d 24 4) then some 24
  else if 960 < leAt d 28 2 then some 28
  else if misaligned (leAt d 32 8) 4096 then some 32
  else if misaligned (leAt d 40 8) 4096 then some 40
  else none

/-- CONTEXT_OPEN (R215). -/
def contextOpen (desc : Nat) (b : Block) : Block :=
  match b.dispatched ctrlRing desc 0x05 with
  | none => b
  | some d =>
    if !ctxOrder b desc then b
    else match openFault d with
      | some off => finishCtrl desc stMalformed frameNone 0 off b
      | none =>
        let c := leAt d 16 1
        let flags := leAt d 17 1
        let keyed := bitOf flags 2
        let slot := (slotGet b c).state
        if (b.ctx c).state != .closed then finishCtrl desc stContextBusy frameNone 0 0 b
        else if keyed && !b.spinel.import_ then finishCtrl desc stKeyDisabled frameNone 0 0 b
        else if keyed && slot != .loaded && slot != .rolling then finishCtrl desc stNoKey frameNone 0 0 b
        else
          let bw := leAt d 19 1
          let inf := leAt d 28 2
          let x : Ctx := {
            state := .opened, hostRing := bitOf flags 0, magazine := bitOf flags 1, keyed, vector := leAt d 18 1
            bufWait := if bw = 0 then 8 else bw, inflight := if inf = 0 then 64 else inf, aborting := false
            ring := openRing (leAt d 32 8) (leAt d 40 8) (leAt d 20 4) (leAt d 24 4)
            highGen := 0, closeDesc := none, closeFrame := 0, cancelled := false, openFrame := b.garnet.frameNo }
          finishCtrl desc stOk frameNone 0 0 (b.setCtx c x)

/-- A close reaches Opal: the Context becomes CLOSING, or the close is refused (R216). Answers whether it began. -/
def beginClose (desc c : Nat) (b : Block) : Block × Bool :=
  let x := b.ctx c
  if x.state = .closing && x.closeDesc = some desc then (b, false)
  else if x.state = .closed || x.state = .closing then (finishCtrl desc stContextClosed frameNone 0 0 b, false)
  else (b.setCtx c { x with
    state := .closing, closeDesc := some desc, closeFrame := b.garnet.frameNo, cancelled := false, aborting := false }, true)

/-- CONTEXT_CLOSE_DRAIN (R216); a MODE that is neither DRAIN nor ABORT is MALFORMED. -/
def contextCloseDrain (desc : Nat) (b : Block) : Block :=
  match b.dispatched ctrlRing desc 0x06 with
  | none => b
  | some d =>
    if !ctxOrder b desc || leAt d 17 1 = 1 then b
    else if 1 < leAt d 17 1 then finishCtrl desc stMalformed frameNone 0 17 b
    else (beginClose desc (leAt d 16 1) b).1

/-- Host-ring Segments of Context `c` that have no buffer yet. -/
def unassigned (b : Block) (c : Nat) : List (Nat × Dest) :=
  b.opal.window.flatMap (fun w =>
    (w.dests.filter (fun d => d.dest.ctx == c && !d.dest.magazine && d.outcome == .pending && d.buffer.isNone)).map
      (fun d => (w.frame, d.dest)))

/-- CONTEXT_CLOSE_ABORT (R216): host-ring Segments with no buffer are dropped as CLOSED, those of Frames already bound whose
latch notice Opal has still to serve as it serves it. -/
def contextCloseAbort (desc : Nat) (b : Block) : Block :=
  match b.dispatched ctrlRing desc 0x06 with
  | none => b
  | some d =>
    if !ctxOrder b desc || leAt d 17 1 != 1 then b
    else
      let c := leAt d 16 1
      let (b, began) := beginClose desc c b
      if began then
        (unassigned b c).foldl (fun b (f, d) => dropUnassigned f d .closed b) (b.setCtx c { b.ctx c with aborting := true })
      else b

/-- Every host-ring Segment of a Frame bound before the close has been written or dropped (R216). -/
def hostDone (b : Block) (c : Nat) : Bool :=
  !b.opal.window.any (fun w => w.dests.any (fun d => d.dest.ctx == c && !d.dest.magazine && d.outcome == .pending)) &&
    !b.ch.noticeOpal.any (fun n => match n.snap with | some s => s.frame < (b.ctx c).closeFrame | none => false)

/-- The descriptors of a closing ring that are fetched and not used complete CANCELLED (R216). -/
def cancelFetched (c : Nat) (b : Block) : Block :=
  let x := b.ring c
  b.setRing c { x with flight := x.flight.map (fun d =>
    if d.status == .fetched || (d.status == .dispatched && descType d.bytes == 0x20) then
      { d with status := .finished stCancelled frameNone 0 0 } else d) }

/-- A closing ring has descriptors still posted, up to the PI last read, and how many a read of it may bring (R206, R207). -/
def closeRoom (b : Block) (c : Nat) : Nat :=
  let x := b.ring c
  min 8 (min (indexDist x.sqEntries x.pi x.next) (min ((b.ctx c).inflight - x.flight.length) (960 - ctxInflight b)))

/-- The final read of CTX_PI[c] (R216): a faulty word cancels nothing beyond the last PI. In Replay the recorded index holds
(12 R346). -/
def finalPi (c word : Nat) (b : Block) : Block :=
  let x := b.ring c
  let word := if b.beryl.evr.mode = 2 then indexWord x.sqEntries x.pi else indexBits word
  let b := b.modOut (fun o => { o with reads := (doorbellBase b + 64 + 64 * (c / 16), 64) :: o.reads })
  let b := if word = indexWord x.sqEntries x.pi then b
    else b.logEvr .opal 0x05 (leBytes 1 c ++ leBytes 4 word ++ leBytes 4 (indexWord x.cqEntries x.cqHead))
  let b := if indexFaulty x.sqEntries x.done word then b else b.setRing c { x with pi := indexLinear x.sqEntries word }
  b.modOpal (fun o => { o with ctxs := vset o.ctxs c { b.ctx c with cancelled := true } })

/-- A read of a closing ring brings these descriptors, which complete CANCELLED, or fails: retried once, then the ring stops as
R208 states and nothing more is cancelled. -/
def cancelPosted (c n : Nat) (posted : Option (List (List Byte))) (b : Block) : Block :=
  let x := b.ring c
  let b := b.modOut (fun o => { o with reads := sqReads x n ++ o.reads })
  match posted with
  | some ds => cancelFetched c (addFetched c (ds.take n) b)
  | none =>
    if x.retried then
      let b := b.setRing c { x with faultRec := some (stHostFault, indexWord x.sqEntries x.next, 2), pi := x.next }
      b.modOpal (fun o => { o with ctxs := vset o.ctxs c { b.ctx c with cancelled := true } })
    else b.setRing c { x with retried := true }

/-- The close is over: the Context is CLOSED, its settings are cleared, its slot retires (R216, 11 R301). A PROC_SETTINGS that
still waits for room completes CANCELLED (log entry 107). -/
def endClose (c : Nat) (b : Block) : Block :=
  let x := b.ctx c
  let waits := b.jade.setWait.filter (fun w => w.set.ctx == c)
  let b := b.modJade (fun j => { j with
    settings := j.settings.filter (·.ctx != c), setWait := j.setWait.filter (fun w => w.set.ctx != c) })
  let b := waits.foldl (fun b w => finishCtrl w.desc stCancelled frameNone 0 0 b) b
  let b := b.setCtx c { x with
    state := .closed, closeDesc := none, cancelled := false, highGen := 0, ring := { x.ring with state := .idle } }
  let b := if x.keyed then retireSlot c b else b
  match x.closeDesc with
  | some i => finishCtrl i stOk frameNone 0 0 b
  | none => b

/-- What a close does next on the ring of Context `c`: descriptors still posted are fetched to be cancelled; once none is, CTX_PI
is read for the last time. -/
def closeRing (c word : Nat) (posted : Option (List (List Byte))) (b : Block) : Block :=
  let x := b.ring c
  let n := closeRoom b c
  if x.faultRec.isSome then b
  else if 0 < n && fetchAwaited b c then cancelPosted c n posted b
  else if x.pi = x.next && !(b.ctx c).cancelled then finalPi c word b
  else b

/-- CONTEXT_CLOSE_FINISH (R216) on Context `c`: one read of its ring or of CTX_PI, whichever comes next; `posted` is what the
read of the ring returned, none where it failed, and `word` the final read of CTX_PI[c]. The close ends once nothing is left
to cancel and the last record has been written. -/
def contextCloseFinish (c word : Nat) (posted : Option (List (List Byte))) (b : Block) : Block :=
  let c := c % 256
  let x := b.ctx c
  if x.state != .closing || !hostDone b c then b
  else
    let b := serveRing c (closeRing c word posted (serveRing c (cancelFetched c b)))
    let x := b.ctx c
    if x.cancelled && x.ring.pi == x.ring.next && x.ring.flight.isEmpty && x.ring.faultRec.isNone then endClose c b else b

/-! ### Buffers (R222, R506) -/

/-- BUFFER_POST (R222, R506). -/
def bufferPost (c desc : Nat) (b : Block) : Block :=
  let c := c % 256
  match b.dispatched c desc 0x20 with
  | none => b
  | some d =>
    match postFaultAt d with
    | some off => finish c desc stMalformed frameNone 0 off b
    | none =>
      if !(b.ctx c).hostRing then finish c desc stCancelled frameNone 0 0 b
      else serveHost c b

/-- The Segment's wait for a buffer is over (R222). -/
def waitOver (b : Block) (w : LedgerFrame) (d : LedgerDest) : Bool :=
  !d.dest.magazine && d.outcome == .pending && d.buffer.isNone &&
    match w.handEnd with
    | some n => n + (b.ctx d.dest.ctx).bufWait ≤ b.opal.cad1
    | none => false

/-- BUF_WAIT_EXPIRY (R222): each Segment whose wait is over is dropped as HOST_TIMEOUT, in frame order. -/
def bufWaitExpiry (b : Block) : Block :=
  let past := b.opal.window.flatMap (fun w => (w.dests.filter (waitOver b w)).map (fun d => (w.frame, d.dest)))
  past.foldl (fun b (f, d) => serveHost d.ctx (dropUnassigned f d .hostTimeout b)) b

/-- HOST_STRIPE_MOVED (R224). -/
def hostStripeMoved (b : Block) : Block :=
  match b.ch.spinelOpal with
  | [] => b
  | m :: rest => takeMoved m (b.modCh (fun c => { c with
      spinelOpal := rest, kept := { c.kept with spinelOpal := c.kept.spinelOpal ++ [m] } }))

/-! ### Events and MSI-X -/

/-- BERYL_EVENT_RECORD (R230): an event that another Island asked Opal to post. -/
def berylEventRecord (b : Block) : Block :=
  match b.ch.berylOpal with
  | [] => b
  | e :: rest => postEventAt e.stamp e.code e.frame e.data (b.modCh (fun c => { c with berylOpal := rest }))

/-- MSIX_HOLDOFF_EXPIRY (R232) of vector `v`. -/
def msixHoldoffExpiry (v : Nat) (b : Block) : Block :=
  let x := b.vec v
  if 64 ≤ v || !x.holdoff then b
  else
    let b := b.setVec v { x with holdoff := false, wanted := false }
    if x.wanted then requestMsg v b else releaseMsg v b

/-- MSIX_MASK_WRITE (18 R475): pending messages that all three conditions now allow are sent. -/
def msixMaskWrite (w : MsixWrite) (b : Block) : Block :=
  if !b.bar0 then b
  else
    let b := match w with
      | .mask v on => if v < 64 then b.setReg (0x600C + 16 * v) (bit on) else b
      | .function on => b.modOpal (fun o => { o with funcMask := on })
      | .enable on => b.modOpal (fun o => { o with msixEnable := on })
    (List.range 64).foldl (fun b v => releaseMsg v b) b

/-! ### Ring starts (18 R472, R473) -/

/-- The Control Ring as its set-up registers give it. -/
def ctrlFromRegs (b : Block) : Ring :=
  openRing (b.reg 0x5010 + 2 ^ 32 * b.reg 0x5014) (b.reg 0x5018 + 2 ^ 32 * b.reg 0x501C)
    (2 ^ b.field 0x5020 4 0) (2 ^ b.field 0x5020 12 8)

/-- A size field outside 4 to 16. -/
def badLog2 (v : Nat) : Bool := v < 4 || 16 < v

/-- The write asks for a START (18 R474). -/
def asksStart (w : Word) : Bool := bitOf w.toNat 0 && bitsOf w.toNat 15 8 == 0xA5

/-- Descriptors still in flight at a START keep their effect and lose their record (R473). -/
def forget (b : Block) : Block :=
  let old := b.opal.ctrl.flight
  b.modOpal (fun o => { o with
    dropped := satAdd 65535 o.dropped (old.length + bit o.ctrl.faultRec.isSome)
    ghosts := o.ghosts ++ old.filter (fun d => !d.status.past) })

/-- CTRL_RING_START (R472, R473). -/
def ctrlRingStart (w : Word) (b : Block) : Block :=
  if !b.bar0 || !asksStart w then b
  else
    let set (r : Nat) : Block := b.modOpal (fun o => { o with ctrlResult := r })
    if !b.committed .opal then set 1
    else if b.opal.ctrl.state = .running then set 2
    else if badLog2 (b.field 0x5020 4 0) || badLog2 (b.field 0x5020 12 8) then set 3
    else
      let fresh := { ctrlFromRegs b with starts := b.opal.ctrl.starts + 1 }
      let b := forget b
      let b := b.modOpal (fun o => { o with ctrl := fresh, ctrlResult := 0 })
      flushEvents b.opal.events.length b

/-- LEDGER_RING_START (R472, R473): the waiting records go into the new ring, in frame order. -/
def ledgerRingStart (w : Word) (b : Block) : Block :=
  if !b.bar0 || !asksStart w then b
  else
    let set (r : Nat) : Block := b.modOpal (fun o => { o with ldgResult := r })
    if !b.committed .opal then set 1
    else if b.opal.ldg.state = .running then set 2
    else if badLog2 (b.field 0x5038 4 0) then set 3
    else
      let ring : LedgerRing := {
        state := .running, base := b.reg 0x5030 + 2 ^ 32 * b.reg 0x5034, entries := 2 ^ b.field 0x5038 4 0, tail := 0
        head := 0, headFault := false }
      serveLedger (b.modOpal (fun o => { o with ldg := ring, ldgResult := 0 }))

/-! ### The host link (12 R332, 17 R449) -/

/-- Everything Opal can do once it takes messages, or can write, again. -/
def resumeOpal (b : Block) : Block :=
  let b := takeClosed (takeNotes b)
  let b := (List.range 257).foldl (fun b r => serveRing r b) b
  serveLedger (serveAllHosts b)

/-- PCIE_EVT trace entry: port 0 is the host's (12 R342). -/
def logPcie (port event detail : Nat) (b : Block) : Block :=
  b.logEvr (if port = 0 then .opal else .onyx) 0x0A (leBytes 1 port ++ leBytes 1 event ++ leBytes 4 detail)

/-- A fault of class HOST_LINK is posted (12 R312). -/
def hostLinkFault (b : Block) : Block := postFault .opal 6 0 frameNone b

/-- HOST_LINK_DOWN (12 R332): capture continues and records wait. -/
def hostLinkDown (b : Block) : Block :=
  if !b.opal.link then b
  else hostLinkFault (logPcie 0 1 0 (b.modOpal (fun o => { o with link := false, linkGen := 0, linkWidth := 0 })))

/-- Payload capacity of the host link in bit/s at a rate and width (01 R30; 17 R449; 19 R495): 420 Gbit/s at PCIe 6.0 x8, in
proportion to the lanes, and to the rate: 64, 32, 16, 8, 5 or 2.5 GT/s. -/
def linkCapacity (gen width : Nat) : Nat :=
  width * (match gen with
    | 6 => 52500000000 | 5 => 26250000000 | 4 => 13125000000 | 3 => 6562500000 | 2 => 4101562500 | 1 => 2050781250 | _ => 0)

/-- What the host link carries now. -/
def hostCapacity (b : Block) : Nat := linkCapacity b.opal.linkGen b.opal.linkWidth

/-- HOST_LINK_UP (12 R332, 17 R449): PERST# is deasserted and the link has trained, at the lower of the host's rate and the
grade's (16 R424, 19 R495) and at x8 or narrower; Opal resumes where it stopped. -/
def hostLinkUp (rate width : Nat) (b : Block) : Block :=
  if b.opal.link || b.opal.perst then b
  else
    let gen := min rate (4 + b.beryl.otc.grade)
    let width := min width 8
    resumeOpal (logPcie 0 0 (gen + 256 * width) (b.modOpal (fun o => { o with
      link := true, linkGen := gen, linkWidth := width })))

/-- HOST_LINK_ERROR (12 R312): an uncorrectable error reported through AER. -/
def hostLinkError (b : Block) : Block := if b.opal.link then hostLinkFault (logPcie 0 2 0 b) else b

/-- FUNDAMENTAL_RESET (12 R332, 18 R475): EPT, whose generation changes (12 R315), and its configuration space are reset; the
Control and Ledger rings stop. -/
def fundamentalReset (b : Block) : Block :=
  let b := wakeUnit .opal 0 (b.resetRegs 0x6000 0x6900)
  b.modOpal (fun o => { o with
    link := false, linkGen := 0, linkWidth := 0, perst := true, msixEnable := false, funcMask := false
    vecs := .replicate 64 ⟨false, false, false⟩
    ctrl := if o.ctrl.state = .running || o.ctrl.state = .stopped then { o.ctrl with state := .stopped, dead := true } else o.ctrl
    ldg := if o.ldg.state = .running then { o.ldg with state := .stopped } else o.ldg })

/-- HOST_PERST (17 R449): PERST# is deasserted; one deasserted earlier takes effect when EPT leaves reset. -/
def hostPerst (b : Block) : Block := b.modOpal (fun o => { o with perst := false })

end Sys2Proof.Machine
end

