-- ==== Sys2Proof/Machine/Nvme.lean ====
section
/-! DEFINITION. Onyx towards a magazine: ports, NVMe commands and the byte layout of the Carith Frame Store (10 R260 to
R271, R287, R289). -/

namespace Sys2Proof.Machine

/-! ### Ports -/

/-- A port with nothing on it (10 R289). -/
def emptyPort : Port := {
  state := .empty, detail := 0, linkGen := 0, linkWidth := 0, losses := 0, settled := false, reinit := false
  mountInit := 0, mountReinit := false, adminEntries := 0, ioEntries := 0, mount := .reset, mqes := 0, mdts := 0, cache := false, nsLbas := 0, scratch := [], group := [], lastEntry := [], clipTable := []
  sbIndex := 0, keyedClips := []
  media := none, controllerPage := [], namespacePage := [], critical := 0, percent := 0, kelvin := 0, timeouts := 0
  errors := 0, cmds := [], logWait := [], nextCid := 0, steps := [], clips := [], waitFor := none, lastDurable := none, window := 0
  winBytes := 0, lastBytes := 0, slow := false, troubleAt := none, shn := false, shutDone := false, rehomed := 0 }

/-- What a port keeps when its magazine leaves. -/
def clearedPort (p : Port) : Port := { emptyPort with losses := p.losses, settled := p.settled, reinit := p.reinit }

/-- Port `m`. -/
def Block.port (b : Block) (m : Nat) : Port := vget b.onyx.ports m emptyPort

/-- Change port `m`. -/
def portMod (m : Nat) (f : Port → Port) (b : Block) : Block :=
  b.modOnyx (fun o => { o with ports := vset o.ports m (f (b.port m)) })

/-- Change what is known of the Carith Frame Store on port `m`. -/
def mediaMod (m : Nat) (f : Media → Media) (b : Block) : Block :=
  portMod m (fun p => { p with media := p.media.map f }) b

/-- Code of MAG_STATUS.STATE (R289). -/
def portCode : PortState → Nat
  | .empty => 0
  | .training => 1
  | .mounting => 2
  | .initialising => 3
  | .ready => 4
  | .member => 5
  | .standby => 6
  | .refused => 7
  | .lost => 8

/-- The magazine is mounted. -/
def isMounted (s : PortState) : Bool := s == .ready || s == .member || s == .standby

/-- A magazine whose loss R261 and R262 declare: its link is up and it has not been refused. -/
def isLive (s : PortState) : Bool := isMounted s || s == .mounting || s == .initialising

/-- RATE of a port in 0.1 Gbit/s (R289). -/
def rateOf (b : Block) (m : Nat) : Nat := min 2100 (b.field (0x7000 + 4 * m) 11 0)

/-- MAGAZINE event (R265). -/
def magEvent (m kind : Nat) (data : List Nat) (b : Block) : Block :=
  postEvent evMagazine frameNone (evData (m :: kind :: data)) b

/-- Four bytes of an event. -/
def data4 (v : Nat) : List Nat := [v % 256, v / 256 % 256, v / 65536 % 256, v / 16777216 % 256]

/-! ### Layout (R266, R267, R271) -/

/-- Extents of a namespace. -/
def extentsOf (nsLbas : Nat) : Nat := nsLbas / 256

/-- INDEX_EXT. -/
def indexExt (nsLbas : Nat) : Nat := 1 + ceilDiv (extentsOf nsLbas) 16384

/-- DATA_FIRST. -/
def dataFirst (nsLbas : Nat) : Nat := 65 + indexExt nsLbas

/-- DATA_LAST. -/
def dataLast (nsLbas : Nat) : Nat := extentsOf nsLbas - 2

/-- LBA of superblock B. -/
def superBLba (nsLbas : Nat) : Nat := 256 * (extentsOf nsLbas - 1)

/-- First LBA of the clip table, and the LBA of index entry `n`. -/
def clipTableLba : Nat := 65 * 256
def indexLba (n : Nat) : Nat := 66 * 256 + n / 64

/-- Free data extents. -/
def freeExtents (x : Media) : Nat := dataLast x.nsLbas + 1 - x.allocNext

/-- Free index entries: the index region holds 16,384 in each extent from 66 to 64 + INDEX_EXT. -/
def freeEntries (x : Media) : Nat := (indexExt x.nsLbas - 1) * 16384 - x.indexNext

/-- Members of a set whose data is cut in chunks (R271). -/
def stripeCount : SetMode → Nat
  | .single => 1
  | .stripe2 => 2
  | .stripe4 => 4
  | .mirror2 => 1

/-- Members of a set (10, table Set modes). -/
def memberCount : SetMode → Nat
  | .single => 1
  | .stripe2 => 2
  | .stripe4 => 4
  | .mirror2 => 2

/-- MODE (10, table Set modes). -/
def modeCode : SetMode → Nat
  | .single => 1
  | .stripe2 => 2
  | .stripe4 => 3
  | .mirror2 => 4

/-- Bytes of a Segment of `segLen` bytes on member `m` (R271). -/
def shareLen (mode : SetMode) (segLen m : Nat) : Nat :=
  let c := stripeCount mode
  let k := m % c
  let full := segLen / 2 ^ 20
  (full + c - 1 - k) / c * 2 ^ 20 + (if full % c = k then segLen % 2 ^ 20 else 0)

/-- Offset in the Segment of offset `off` of member `m`'s share (R271). -/
def shareOffset (mode : SetMode) (m off : Nat) : Nat :=
  let c := stripeCount mode
  (off / 2 ^ 20 * c + m % c) * 2 ^ 20 + off % 2 ^ 20

/-- Superblock (R267). -/
def superblock (x : Media) (clipOpen : Bool) (seq : Nat) : List Byte :=
  let e := extentsOf x.nsLbas
  let v := leBytes 8 0x5346485449524143 ++ leBytes 2 1 ++ leBytes 2 4096 ++ leBytes 4 (bit clipOpen) ++ x.uid ++
    x.initDevice ++ leBytes 8 x.nsLbas ++ leBytes 4 e ++ leBytes 4 (indexExt x.nsLbas) ++
    leBytes 4 (dataFirst x.nsLbas) ++ leBytes 4 (dataLast x.nsLbas) ++ leBytes 8 seq ++ leBytes 8 x.ckptSeq ++
    leBytes 4 x.ckptBlock ++ leBytes 4 x.allocNext ++ leBytes 4 x.indexNext ++ leBytes 4 x.clipNext ++ leBytes 16 0 ++
    leBytes 3972 0
  v ++ leBytes 4 (crc32c v).toNat

/-- A superblock is taken (R287). -/
def superOk (v : List Byte) : Bool :=
  leAt v 0 8 == 0x5346485449524143 && leAt v 8 2 == 1 && leAt v 4092 4 == (crc32c (v.take 4092)).toNat

/-- What a superblock says. -/
def parseSuper (v : List Byte) : Media := {
  uid := (v.drop 16).take 16, initDevice := (v.drop 32).take 16, nsLbas := leAt v 48 8, sbSeq := leAt v 72 8
  ckptSeq := leAt v 80 8, ckptBlock := leAt v 88 4 % 16384, jSeq := leAt v 80 8, jBlock := leAt v 88 4 % 16384
  allocNext := leAt v 92 4, indexNext := leAt v 96 4, clipNext := leAt v 100 4, tail := [], cfs := 1 }

/-- Clip record (R268) in STATE `state`. -/
def clipRecord (device : List Byte) (r : ClipRec) (state : Nat) : List Byte :=
  let flags := flagBits [r.rolledIn, r.rolledOut, r.rehomeTarget, r.powerLoss, r.keyed]
  let v := leBytes 4 0x50494C43 ++ leBytes 1 state ++ leBytes 1 r.mode ++ leBytes 1 r.member ++ leBytes 1 flags ++
    device ++ leBytes 8 r.takeFirst ++ leBytes 4 r.leadClip ++ leBytes 4 r.clipNo ++ leBytes 4 r.takeId ++
    leBytes 4 r.part ++ leBytes 8 r.firstFrame ++ leBytes 8 r.lastFrame ++ leBytes 4 r.firstEntry ++
    leBytes 4 r.entryCount ++ leBytes 8 r.startStamp ++ leBytes 4 r.startTc ++ leBytes 2 r.epoch ++
    leBytes 1 r.endReason ++ leBytes 1 0 ++ leBytes 4 r.cadence.reload ++ leBytes 4 r.cadence.dnum ++
    leBytes 4 r.cadence.dden ++ r.prevMedia ++ r.nextMedia ++ leBytes 120 0
  v ++ leBytes 4 (crc32c v).toNat

/-- Journal block (R270), its body at byte 64. -/
def journalBlock (x : Media) (type count : Nat) (groupEnd : Bool) (firstEntry : Nat) (body : List Byte) : List Byte :=
  let v := leBytes 4 0x4C4E524A ++ leBytes 1 type ++ leBytes 1 count ++ leBytes 1 (bit groupEnd) ++ leBytes 1 0 ++
    leBytes 8 (x.jSeq + 1) ++ x.uid.take 8 ++ leBytes 4 firstEntry ++ leBytes 4 x.allocNext ++ leBytes 32 0 ++
    (body ++ .replicate (4028 - body.length) 0)
  v ++ leBytes 4 (crc32c v).toNat

/-- A journal block is taken (R287): its magic, tag and CRC are right and its JSEQ is `seq`. -/
def journalOk (uid : List Byte) (seq : Nat) (v : List Byte) : Bool :=
  leAt v 0 4 == 0x4C4E524A && (v.drop 16).take 8 == uid.take 8 && leAt v 4092 4 == (crc32c (v.take 4092)).toNat &&
    leAt v 8 8 == seq

/-- A journal block has been written after the last one. -/
def journalNext (x : Media) : Media := { x with jSeq := x.jSeq + 1, jBlock := (x.jBlock + 1) % 16384 }

/-- LBA of the next journal block. -/
def journalLba (x : Media) : Nat := 256 + (x.jBlock + 1) % 16384

/-- Journal blocks since the last checkpoint (R280). -/
def sinceCheckpoint (x : Media) : Nat := x.jSeq - x.ckptSeq

/-! ### Commands (R260, R261) -/

/-- LBAs that a command carries at most: 1 MiB, or MDTS (R260). -/
def maxBlocks (p : Port) : Nat := if p.mdts = 0 then 256 else min 256 (2 ^ p.mdts)

/-- It goes to the I/O queue. -/
def isIo : NvmeOp → Bool
  | .write _ _ _ => true
  | .flush => true
  | .read _ _ => true
  | .deallocate => true
  | _ => false

/-- Bytes that a Write carries. -/
def dataLen : WriteData → Nat
  | .dram _ n => n
  | .bytes l => l.length
  | .zeros n => n

/-- `n` blocks cut into commands of at most `most`: (first block, blocks) of each. -/
def cuts (most n : Nat) : List (Nat × Nat) :=
  (List.range (ceilDiv n (max 1 most))).map (fun i => (i * most, min most (n - i * most)))

/-- Serial Writes of bytes from an LBA. -/
def writeSteps (most lba : Nat) (data : List Byte) (fua : Bool) : List PortStep :=
  (cuts most (ceilDiv data.length 4096)).map (fun (f, n) =>
    .cmd (.write (lba + f) (.bytes ((data.drop (4096 * f)).take (4096 * n))) fua))

/-- I/O commands outstanding on a port, with those that wait for their ciphertext. -/
def ioOut (b : Block) (m : Nat) : Nat :=
  ((b.port m).cmds.filter (fun c => isIo c.op)).length + (b.ch.onyxSpinel.filter (fun r => r.port == m)).length

/-- I/O commands that may be outstanding (R260). -/
def ioLimit (p : Port) : Nat := min 256 p.mqes

/-- Onyx sends no command in Replay (12 R346). -/
def replaying (b : Block) : Bool := b.beryl.evr.mode == 2

/-- Issue a command (R260). -/
def issueCmd (m : Nat) (op : NvmeOp) (use : NvmeUse) (retried : Bool) (b : Block) : Block :=
  let c : NvmeCmd := { cid := (b.port m).nextCid, op, use, retried }
  let b := portMod m (fun p => { p with nextCid := (p.nextCid + 1) % 65536, cmds := p.cmds ++ [c] }) b
  if replaying b then b else b.modOut (fun o => { o with nvme := (m, c) :: o.nvme })

/-- Admin commands that may be outstanding: one less than the queue's 32 entries (R260). -/
def adminLimit : Nat := 31

/-- Admin commands outstanding on a port. -/
def adminOut (p : Port) : Nat := (p.cmds.filter (fun c => !isIo c.op)).length

/-- Read a log page, at once or when the admin queue has room. -/
def readLog (m : Nat) (op : NvmeOp) (use : NvmeUse) (b : Block) : Block :=
  if adminLimit ≤ adminOut (b.port m) then portMod m (fun p => { p with logWait := p.logWait ++ [(op, use)] }) b
  else issueCmd m op use false b

/-- A command has completed: a log page that waits is read. -/
def readWaiting (m : Nat) (b : Block) : Block :=
  match (b.port m).logWait with
  | (op, use) :: rest =>
    if adminLimit ≤ adminOut (b.port m) then b else issueCmd m op use false (portMod m (fun p => { p with logWait := rest }) b)
  | [] => b

/-- A serial command is outstanding. -/
def serialBusy (p : Port) : Bool := p.cmds.any (fun c => c.use == .serial)

/-- Add serial work. -/
def addSteps (m : Nat) (l : List PortStep) (b : Block) : Block := portMod m (fun p => { p with steps := p.steps ++ l }) b

/-- Trouble on a port: what R262 looks back for. -/
def trouble (m : Nat) (b : Block) : Block := portMod m (fun p => { p with troubleAt := some b.quartz.tb }) b

/-- SMART / Health log: warning, percentage used, kelvin. -/
def takeHealth (data : List Byte) (p : Port) : Port :=
  { p with critical := leAt data 0 1, kelvin := leAt data 1 2, percent := leAt data 5 1 }

/-- HEALTH event (R265). -/
def postHealth (m : Nat) (b : Block) : Block :=
  let p := b.port m
  magEvent m 5 [p.critical, p.percent, p.kelvin % 256, p.kelvin / 256] b

/-- HEALTH after READY or REFUSED, when there is something to say (R265). -/
def mountHealth (m : Nat) (b : Block) : Block :=
  let p := b.port m
  if p.critical != 0 || 90 ≤ p.percent then postHealth m b else b

end Sys2Proof.Machine
end

