-- ==== Sys2Proof/Machine/Magazine.lean ====
section
/-! DEFINITION. Mounting a magazine: acceptance, reading or laying down the Carith Frame Store, closing clips left OPEN,
and the serial work of a port (10 R256 to R259, R263 to R265, R280, R287). -/

namespace Sys2Proof.Machine

/-! ### Checkpoints and other serial Writes -/

/-- The steps of a checkpoint (R280), computed from the Carith Frame Store as it stands: a Flush, a CHECKPOINT block with
FUA, superblock A, then superblock B. -/
def checkpointSteps (most : Nat) (clipOpen : Bool) (x : Media) : List PortStep × Media :=
  let blk := journalBlock x 4 0 true 0 []
  let lba := journalLba x
  let x := journalNext x
  let x := { x with ckptSeq := x.jSeq, ckptBlock := x.jBlock, sbSeq := x.sbSeq + 2 }
  ([.cmd .flush] ++ writeSteps most lba blk true ++
    writeSteps most 0 (superblock x clipOpen (x.sbSeq - 1)) true ++
    writeSteps most (superBLba x.nsLbas) (superblock x clipOpen x.sbSeq) true, x)

/-- One journal block with FUA, and GROUP_END: the block is a group of its own (R287; log entry 24). -/
def journalStep (most type : Nat) (body : List Byte) (x : Media) : List PortStep × Media :=
  (writeSteps most (journalLba x) (journalBlock x type 0 true 0 body) true, journalNext x)

/-- A record of the clip table. -/
def tableGet (t : List (Nat × List Byte)) (c : Nat) : List Byte := mapGet (leBytes 256 0) t c

/-- Change a record of the clip table. -/
def tableSet (t : List (Nat × List Byte)) (c : Nat) (r : List Byte) : List (Nat × List Byte) := mapSet (leBytes 256 0) t c r

/-- Write a clip record into its LBA of the clip table: the 16 records of that LBA as they stand. -/
def recordSteps (most c : Nat) (table : List (Nat × List Byte)) : List PortStep :=
  writeSteps most (clipTableLba + c / 16) ((List.range 16).flatMap (fun k => tableGet table (c / 16 * 16 + k))) false

/-! ### Refusal and readiness -/

/-- The magazine is refused (R259); on LINK the link goes down (R256). -/
def refuse (m detail : Nat) (b : Block) : Block :=
  let b := portMod m (fun p => { p with
    state := .refused, detail, steps := [], cmds := [], logWait := [], media := none
    linkGen := if detail = 1 then 0 else p.linkGen, linkWidth := if detail = 1 then 0 else p.linkWidth }) b
  mountHealth m (magEvent m 3 [detail] b)

/-- The port is READY (R263, R265). -/
def portReady (m how : Nat) (b : Block) : Block :=
  let b := portMod m (fun p => { p with state := .ready, scratch := p.scratch, media := p.media.map (fun x => { x with cfs := how }) }) b
  mountHealth m (magEvent m 2 [how] b)

/-! ### Initialisation (R264) -/

/-- A Carith Frame Store as initialisation lays it down. The numbers from which SB_SEQ and JSEQ count and the journal
block after which the journal begins are stated nowhere: free values (log entry 6). -/
def freshMedia (b : Block) (nsLbas : Nat) : Media :=
  let v (k : Nat) : Nat := (Config.freeWord (b.fresh + k)).toNat
  { uid := leBytes 8 b.quartz.tb ++ b.beryl.otc.deviceId.take 8, initDevice := b.beryl.otc.deviceId, nsLbas
    sbSeq := v 0 % 2 ^ 32, ckptSeq := v 1 % 2 ^ 32, ckptBlock := v 2 % 16384, jSeq := v 1 % 2 ^ 32, jBlock := v 2 % 16384
    allocNext := dataFirst nsLbas, indexNext := 0, clipNext := 0, tail := [], cfs := 3 }

/-- Lay down a Carith Frame Store (R264): deallocate, zeros over extent 65, superblock A, superblock B. -/
def initialise (m : Nat) (b : Block) : Block :=
  let p := b.port m
  let x := freshMedia b p.nsLbas
  let b := { b with fresh := b.fresh + 3 }
  let x := { x with sbSeq := x.sbSeq + 2 }
  let most := maxBlocks p
  let zeros := (cuts most 256).map (fun (f, n) => PortStep.cmd (.write (clipTableLba + f) (.zeros (4096 * n)) false))
  portMod m (fun p => { p with
    state := .initialising, mountReinit := false, mount := .writing, media := some x, scratch := []
    clipTable := []
    steps := [.cmd .deallocate] ++ zeros ++ writeSteps most 0 (superblock x false (x.sbSeq - 1)) true ++
      writeSteps most (superBLba x.nsLbas) (superblock x false x.sbSeq) true ++ [.ready 3] }) b

/-! ### Reading a Carith Frame Store (R287) -/

/-- Replace the bytes from `off` on. -/
def putBytes (l : List Byte) (off : Nat) (v : List Byte) : List Byte := l.take off ++ v ++ l.drop (off + v.length)

/-- A clip record is taken: its magic and CRC are right. -/
def clipOk (v : List Byte) : Bool := leAt v 0 4 == 0x50494C43 && leAt v 252 4 == (crc32c (v.take 252)).toNat

/-- Put an index entry, number `n`, behind the entries of its LBA. -/
def pushEntry (n : Nat) (v : List Byte) (tail : List (List Byte)) : List (List Byte) := if n % 64 = 0 then [v] else tail ++ [v]

/-- Clips of the KEYED entries among `es` (R269). -/
def keyedOf (es : List (List Byte)) : List Nat :=
  (es.filter (fun e => bitOf (leAt e 13 1) 0)).map (fun e => leAt e 8 4)

/-- Apply one journal block of a whole group (R287). -/
def applyBlock (p : Port) (v : List Byte) : Port :=
  let type := leAt v 4 1
  let step (f : Media → Media) : Option Media := p.media.map (fun x => f (journalNext { x with allocNext := leAt v 28 4 }))
  if type = 2 then
    let es := (List.range (leAt v 5 1)).map (fun k => (v.drop (64 + 64 * k)).take 64)
    let first := leAt v 24 4
    { p with
      media := step (fun x => { x with
        indexNext := first + es.length
        tail := (es.zipIdx).foldl (fun t (e, k) => pushEntry (first + k) e t) x.tail })
      lastEntry := es.getLast?.getD p.lastEntry, keyedClips := (keyedOf es ++ p.keyedClips).eraseDups }
  else if type = 1 || type = 3 then
    let r := (v.drop 64).take 256
    let c := leAt r 36 4
    { p with
      media := step (fun x => { x with clipNext := max x.clipNext (c + 1) })
      clipTable := tableSet p.clipTable (c % 4096) r }
  else { p with media := step id }

/-- Clips left OPEN, by record number. -/
def openClips (p : Port) : List Nat :=
  (List.range (min 4096 ((p.media.map (·.clipNext)).getD 0))).filter (fun c =>
    let r := tableGet p.clipTable c
    clipOk r && leAt r 4 1 == 1)

/-- The record of an OPEN clip closed as RECOVERED (R263): it ends at its last entry (R288), and KEYED says whether its
entries hold KEYED Segments (R268). -/
def recoveredRecord (p : Port) (x : Media) (r : List Byte) : List Byte :=
  let n := x.indexNext - leAt r 64 4
  let flags := if p.keyedClips.contains (leAt r 36 4) then leAt r 7 1 ||| 16 else leAt r 7 1
  let r := putBytes (putBytes r 4 (leBytes 1 3)) 7 (leBytes 1 flags)
  let r := putBytes r 68 (leBytes 4 n)
  let r := if n = 0 then r else putBytes r 56 (p.lastEntry.take 8)
  putBytes r 252 (leBytes 4 (crc32c (r.take 252)).toNat)

/-- Close one clip as RECOVERED: its record, a CLIP_CLOSE block, a checkpoint (R263). Entries that only the journal holds are not
written to the index region before (log entry 108). -/
def recoverClip (s : Port × List PortStep) (c : Nat) : Port × List PortStep :=
  let (p, l) := s
  match p.media with
  | none => s
  | some x =>
    let most := maxBlocks p
    let r := recoveredRecord p x (tableGet p.clipTable c)
    let table := tableSet p.clipTable c r
    let (j, x) := journalStep most 3 r x
    let (k, x) := checkpointSteps most false x
    ({ p with clipTable := table, media := some x }, l ++ recordSteps most c table ++ j ++ k)

/-- The Carith Frame Store has been read: clips left OPEN are closed, and the port becomes READY. -/
def closeOpenClips (m : Nat) (b : Block) : Block :=
  let open_ := openClips (b.port m)
  let (p, l) := open_.foldl recoverClip ({ b.port m with mount := .writing, group := [] }, [])
  portMod m (fun _ => { p with steps := l ++ [.ready (if open_.isEmpty then 1 else 2)] }) b

/-- A read of the mount. -/
def readStep (lba n : Nat) : PortStep := .cmd (.read lba n)

/-- Index LBAs, as first and number, that hold entries of clips left OPEN as the superblock counts them. -/
def openIndex (p : Port) : Nat × Nat :=
  match ((openClips p).map (fun c => leAt (tableGet p.clipTable c) 64 4)).min? with
  | some e => if e < p.sbIndex then (e / 64, (p.sbIndex - 1) / 64 + 1 - e / 64) else (0, 0)
  | none => (0, 0)

/-- The journal has been read: the index entries of clips left OPEN follow, and then the clips are closed (R263, R287). -/
def finishMount (m : Nat) (b : Block) : Block :=
  let p := b.port m
  let (first, n) := openIndex p
  if n = 0 then closeOpenClips m b
  else addSteps m (.stage .indexScan :: (cuts (maxBlocks p) n).map (fun (f, k) => readStep (66 * 256 + first + f) k)) b

/-- Read the next journal block. -/
def readJournal (p : Port) : List PortStep :=
  match p.media with
  | some x => [readStep (256 + (x.jBlock + p.group.length + 1) % 16384) 1]
  | none => []

/-- A Carith Frame Store has been found: the index LBA of its last entry, the clip table, the journal. -/
def readStore (m : Nat) (x : Media) (b : Block) : Block :=
  portMod m (fun p => { p with
    media := some x, scratch := [], clipTable := [], group := [], lastEntry := [], sbIndex := x.indexNext, keyedClips := []
    steps := (if x.indexNext = 0 then [] else [.stage .indexTail, readStep (indexLba (x.indexNext - 1)) 1]) ++
      [.stage .clipTable] ++ (cuts (maxBlocks p) 256).map (fun (f, n) => readStep (clipTableLba + f) n) }) b

/-- Both superblocks have been read (R264, R287). -/
def superRead (m : Nat) (a v : List Byte) (b : Block) : Block :=
  let p := b.port m
  let init := p.mountInit
  if p.mountReinit then initialise m b
  else
    let best := match superOk a, superOk v with
      | true, true => some (if leAt a 72 8 < leAt v 72 8 then v else a)
      | true, false => some a
      | false, true => some v
      | false, false => none
    match best with
    | some s => readStore m (parseSuper s) b
    | none =>
      if init = 2 then initialise m b
      else if init = 1 then
        portMod m (fun p => { p with scratch := [a], steps := [.stage .blankCheck, readStep 256 1] }) b
      else refuse m 6 b

/-- LBA format of namespace 1 in use (R259 row 3): active, 4,096-byte data, no metadata, protection off. -/
def formatOk (v : List Byte) : Bool :=
  let f := leAt v (128 + 4 * (leAt v 26 1 % 16)) 4
  leAt v 0 8 != 0 && bitsOf f 15 0 == 0 && bitsOf f 23 16 == 12 && leAt v 29 1 % 8 == 0

/-- Every byte is 0. -/
def allZero (v : List Byte) : Bool := v.all (· == 0)

/-- What a completed serial command of the mount brings (R259, R263). -/
def mountData (m : Nat) (op : NvmeOp) (data : List Byte) (b : Block) : Block :=
  let p := b.port m
  match p.mount, op with
  | .controller, .identifyController =>
    let mdts := leAt data 77 1
    let b := portMod m (fun p => { p with controllerPage := data.take 4096, mdts, cache := bitOf (leAt data 525 1) 0 }) b
    if mdts != 0 && mdts < 5 then refuse m 2 b
    else addSteps m [.stage .namespaceId, .cmd .identifyNamespace] b
  | .namespaceId, .identifyNamespace =>
    let n := leAt data 0 8
    let b := portMod m (fun p => { p with namespacePage := data.take 4096, nsLbas := n }) b
    if !formatOk data then refuse m 3 b
    else if n < 2 ^ 20 || 2 ^ 34 < n then refuse m 4 b
    else addSteps m [.stage .health, .cmd .getSmart] b
  | .health, .getSmart =>
    let b := portMod m (takeHealth data) b
    let p := b.port m
    let b := if p.critical != 0 then trouble m b else b
    if bitsOf p.critical 3 2 != 0 then refuse m 5 b
    else
      addSteps m ([.stage .features, .cmd (.setQueues 1)] ++ (if p.cache then [.cmd .setWriteCache] else []) ++
        [.cmd .setEvents, .cmd (.createCq p.ioEntries), .cmd (.createSq p.ioEntries), .listen, .stage .superA, readStep 0 1]) b
  | .superA, .read _ _ =>
    addSteps m [.stage .superB, readStep (superBLba p.nsLbas) 1] (portMod m (fun p => { p with scratch := [data] }) b)
  | .superB, .read _ _ => superRead m (p.scratch.headD []) data b
  | .blankCheck, .read _ _ =>
    if allZero (p.scratch.headD []) && allZero data then initialise m b else refuse m 6 b
  | .indexTail, .read _ _ =>
    portMod m (fun p =>
      match p.media with
      | some x =>
        let es := (List.range ((x.indexNext - 1) % 64 + 1)).map (fun k => (data.drop (64 * k)).take 64)
        { p with media := some { x with tail := es }, lastEntry := es.getLast?.getD [] }
      | none => p) b
  | .clipTable, .read lba n =>
    let b := portMod m (fun p => { p with
      clipTable := (List.range (16 * n)).foldl (fun t k =>
        tableSet t (16 * (lba - clipTableLba) + k) ((data.drop (256 * k)).take 256)) p.clipTable }) b
    let p := b.port m
    if p.steps.isEmpty then addSteps m ([.stage .journal] ++ readJournal p) b else b
  | .indexScan, .read _ _ =>
    let es := (List.range (data.length / 64)).map (fun k => (data.drop (64 * k)).take 64)
    let b := portMod m (fun p => { p with keyedClips := (keyedOf es ++ p.keyedClips).eraseDups }) b
    if (b.port m).steps.isEmpty then closeOpenClips m b else b
  | .journal, .read _ _ =>
    match p.media with
    | none => b
    | some x =>
      if journalOk x.uid (x.jSeq + p.group.length + 1) data then
        let b := portMod m (fun p =>
          let g := p.group ++ [data]
          if bitOf (leAt data 6 1) 0 then { g.foldl applyBlock p with group := [] } else { p with group := g }) b
        addSteps m (readJournal (b.port m)) b
      else finishMount m b
  | _, _ => b

/-! ### Link up (R256, R259) -/

/-- The highest rate a port may train to: the grade's and MAX_GEN's (16 R424). -/
def maxGen (b : Block) (m : Nat) : Nat :=
  let g := b.field (0x7000 + 4 * m) 17 16
  min (4 + b.beryl.otc.grade) (if g = 1 then 5 else if g = 2 then 4 else 6)

/-- A port may train: Onyx committed, its fuse, its supply (18 R463, 16 R424, 19 R497). -/
def mayTrain (b : Block) (m : Nat) : Bool :=
  m < 4 && b.committed .onyx && bitOf b.beryl.otc.magPorts m && (b.port m).settled &&
    ((b.port m).state == .empty || (b.port m).state == .training || (b.port m).state == .lost)

/-- VS and CAP of an acceptable controller (R259 row 2). -/
def controllerOk (vs cap : Nat) : Bool :=
  0x00010400 ≤ vs && bitOf cap 37 && bitsOf cap 51 48 == 0 && 63 ≤ bitsOf cap 15 0

/-- The link of port `m` comes up (R256, R258, R263): rate 4, 5 or 6 (below 4: slower than 16 GT/s), lanes, VS and CAP. -/
def portUp (m gen width vs cap : Nat) (b : Block) : Block :=
  if !mayTrain b m then b
  else
    let gen := min gen (maxGen b m)
    let b := if (b.port m).state = .empty then wakeUnit .onyx m b else b
    let b := logPcie (m + 1) 0 (gen + 256 * width) b
    let b := portMod m (fun p => { clearedPort p with
      state := .mounting, linkGen := gen, linkWidth := width, mqes := bitsOf cap 15 0, adminEntries := 32
      ioEntries := min 257 (bitsOf cap 15 0 + 1), reinit := false, mountReinit := p.reinit
      mountInit := b.field (0x7000 + 4 * m) 13 12 }) b
    let b := magEvent m 1 [gen, width] b
    if width != 4 || gen < 4 then refuse m 1 b
    else if !controllerOk vs cap then refuse m 2 b
    else b

/-- MAGAZINE_LINK_UP (R256). In Replay the recorded events of the ports count (12 R346). -/
def magazineLinkUp (m gen width vs cap : Nat) (b : Block) : Block := if replaying b then b else portUp m gen width vs cap b

end Sys2Proof.Machine
end

