-- ==== Sys2Proof/Machine/Recording.lean ====
section
/-! DEFINITION. Onyx at work: shares and their Writes, commits, clips, outcomes, the end of a Take, a flush (10 R271,
R276, R278 to R281, R285, R286; 09 R237, R247, R250; 11 R304). -/

namespace Sys2Proof.Machine

/-! ### Segments and shares -/

/-- A Segment in retention. -/
def osegGet (b : Block) (frame index : Nat) : Option OnyxSeg :=
  b.onyx.segs.find? (fun g => g.frame == frame && g.dest.index == index)

/-- Change a Segment in retention. -/
def osegMod (frame index : Nat) (f : OnyxSeg → OnyxSeg) (b : Block) : Block :=
  b.modOnyx (fun o => { o with segs := o.segs.map (fun g => if g.frame = frame ∧ g.dest.index = index then f g else g) })

/-- Change the share of member `k`. -/
def partMod (frame index k : Nat) (f : Part → Part) (b : Block) : Block :=
  osegMod frame index (fun g => { g with parts := g.parts.map (fun p => if p.member = k then f p else p) }) b

/-- LBAs of a share, and Writes it takes. -/
def partWrites (most : Nat) (p : Part) : Nat := ceilDiv (ceilDiv p.len 4096) (max 1 most)

/-- Every Write of the share has completed. -/
def partWritten (b : Block) (p : Part) : Bool := partWrites (maxBlocks (b.port p.port)) p ≤ p.completed

/-- Segments and shares that port `m` has still to commit, in frame order (R278). -/
def queueOf (b : Block) (m : Nat) : List (OnyxSeg × Part) :=
  b.onyx.segs.flatMap (fun g =>
    if g.outcome == .pending && g.takeNo.isSome then (g.parts.filter (fun p => p.port == m && !p.committed)).map (fun p => (g, p))
    else [])

/-- Change a Take. -/
def takeMod (no : Nat) (f : OnyxTake → OnyxTake) (b : Block) : Block :=
  b.modOnyx (fun o => { o with takes := o.takes.map (fun t => if t.no = no then f t else t) })

/-- The open Take. -/
def openTake (b : Block) : Option OnyxTake := b.onyx.takes.find? (·.ended.isNone)

/-- A Take by number. -/
def takeByNo (b : Block) (no : Nat) : Option OnyxTake := b.onyx.takes.find? (·.no == no)

/-- Make a stop request, once in a Take (R281). -/
def makeStop (r : EndReason) (b : Block) : Block :=
  match openTake b with
  | some t =>
    if t.stopMade then b
    else (takeMod t.no (fun t => { t with stopMade := true }) b).modCh (fun c => { c with stopRequests := c.stopRequests ++ [r] })
  | none => b

/-- Bytes of the cipher area that a length takes (11 R304). -/
def cipherLen (len : Nat) : Nat := (len + 4095) / 4096 * 4096

/-- Size of a port's cipher area (11 R304). -/
def cipherSize : Nat := 2 ^ 26

/-- Where port `m`'s cipher area lies: at the top of the retention region, port 0's lowest (11 R304; log entry 33). -/
def cipherBase (m : Nat) : Nat := retentionSize - (4 - m) * cipherSize

/-- A chunk of port `m`'s cipher area for `len` bytes. -/
def cipherChunk (b : Block) (m len : Nat) : Option Nat :=
  allocate (cipherBase m) cipherSize (cipherLen len) (vget b.onyx.cipher m [])

/-- The chunk at `a` of port `m` is taken, or free again. -/
def cipherTake (m a len : Nat) (b : Block) : Block :=
  b.modOnyx (fun o => { o with cipher := vset o.cipher m (vget o.cipher m [] ++ [(a, cipherLen len)]) })
def cipherFree (m a : Nat) (b : Block) : Block :=
  b.modOnyx (fun o => { o with cipher := vset o.cipher m ((vget o.cipher m []).filter (fun c => c.1 != a)) })

/-- Requests for ciphertext that is no longer to be written are withdrawn. -/
def withdrawIf (mine : EncRequest → Bool) (b : Block) : Block :=
  let gone := b.ch.onyxSpinel.filter mine
  let b := b.modCh (fun c => { c with onyxSpinel := c.onyxSpinel.filter (fun r => !mine r) })
  gone.foldl (fun b r => cipherFree r.port r.dst b) b

/-- Nothing of port `m` is written any more: its cipher area is free. -/
def cipherClear (m : Nat) (b : Block) : Block :=
  (withdrawIf (fun r => r.port == m) b).modOnyx (fun o => { o with cipher := vset o.cipher m [] })

/-- Those of one Segment. -/
def withdraw (frame index : Nat) (b : Block) : Block := withdrawIf (fun r => r.frame == frame && r.index == index) b

/-- Ports that hold or receive a Segment (09 R252). -/
def portBits (l : List Part) : Nat := (l.filter (fun p => p.extent.isSome)).foldl (fun m p => m ||| 2 ^ p.port) 0

/-- A Segment leaves retention (R275): its reservation is free, Jade is told where it still writes, and its tokens are retired
(12 R319). -/
def dropSegment (g : OnyxSeg) (b : Block) : Block :=
  let b := withdraw g.frame g.dest.index b
  let b := if g.whole then b else withdrawReservation g.frame g.dest.index b
  (b.modOnyx (fun o => { o with
    segs := o.segs.filter (fun x => !(x.frame == g.frame && x.dest.index == g.dest.index)) })).modCh (fun c => { c with
    kept := { c.kept with
      onyxJade := forgetAddr g.frame g.dest.index c.kept.onyxJade
      spinelOnyx := c.kept.spinelOnyx.filter (fun t => !(t.frame == g.frame && t.index == g.dest.index)) } })

/-- An index entry of this Frame and Context in one of these clips. -/
def entryOf (frame ctx : Nat) (clips : List Nat) (e : List Byte) : Bool :=
  leAt e 0 8 == frame && leAt e 12 1 == ctx && clips.contains (leAt e 8 4)

/-- An index entry of the Segment in bytes that are still to be written: its slot stays zero, so that the numbers of later entries hold
(log entry 111). -/
def strike (frame ctx : Nat) (clips : List Nat) (e : List Byte) : List Byte :=
  if entryOf frame ctx clips e then .replicate 64 0 else e

/-- A Write of index blocks without the Segment's entries. -/
def strikeStep (frame ctx : Nat) (clips : List Nat) : PortStep → PortStep
  | .cmd (.write lba (.bytes v) fua) =>
    if indexLba 0 ≤ lba && !fua then
      .cmd (.write lba (.bytes ((List.range (v.length / 64)).flatMap (fun k =>
        strike frame ctx clips ((v.drop (64 * k)).take 64)))) fua)
    else .cmd (.write lba (.bytes v) fua)
  | s => s

/-- A Segment that is not DONE or PARTIAL gets no further index entry on any port (09 R244, R250). -/
def strikeEntries (g : OnyxSeg) (b : Block) : Block :=
  [0, 1, 2, 3].foldl (fun b m =>
    let clips := (g.parts.filter (·.port == m)).map (·.clip)
    if clips.isEmpty then b
    else portMod m (fun p => { p with
      steps := p.steps.map (strikeStep g.frame g.dest.ctx clips)
      media := p.media.map (fun x => { x with tail := x.tail.map (strike g.frame g.dest.ctx clips) }) }) b) b

/-- Give a Segment its outcome, and tell Opal (R237); its reservation is free (R275). -/
def giveOutcome (g : OnyxSeg) (o : DestOutcome) (b : Block) : Block :=
  let good : Bool := o = .done || o = .partial_
  let map := if good then leAt g.header 56 24 else 0
  let b := dropSegment g (mergeDigest .onyx 3 g.frame 1 (if good then b else strikeEntries g b))
  let b := b.modCh (fun c => { c with onyxOpal := c.onyxOpal ++ [{
    frame := g.frame, index := g.dest.index, outcome := o, ports := if good then portBits g.parts else 0
    rehomed := g.rehomed, marks := g.marks, stripeMap := map }] })
  match b.onyx.flush with
  | some f => if o = DestOutcome.mediaLost then b.modOnyx (fun x => { x with flush := some { f with lost := true } }) else b
  | none => b

/-- A Segment fails with a mark (12 R326, R331). -/
def failShare (g : OnyxSeg) (m : BitVec 16) (b : Block) : Block := giveOutcome { g with marks := g.marks ||| m } .failed b

/-- A Segment whose Destination another Island has decided leaves retention without an outcome of Onyx's (09 R246). -/
def forgetSegment (b : Block) (k : Nat × Nat) : Block :=
  match osegGet b k.1 k.2 with
  | some g => dropSegment g (strikeEntries g b)
  | none => b

/-- Onyx takes Opal's word of the Destinations decided, of Frames whose latch notice it has served. -/
def takeDecided (b : Block) : Block :=
  if !b.takes .onyx then b
  else
    let due (k : Nat × Nat) : Bool := !b.ch.onyxDests.any (fun e => e.1 == k.1)
    let l := b.ch.opalOnyx.filter due
    if l.isEmpty then b
    else l.foldl forgetSegment (b.modCh (fun c => { c with opalOnyx := c.opalOnyx.filter (fun k => !due k) }))

/-- The Segment's every byte is durable (R279). -/
def durable (g : OnyxSeg) : Bool := !g.parts.isEmpty && g.parts.all (·.committed)

/-- DONE, or PARTIAL when STRIPE_MAP lacks Stripes (R279). -/
def durableOutcome (g : OnyxSeg) : DestOutcome := if leAt g.header 56 24 = g.expected then .done else .partial_

/-- A durable Segment of the Take may have its outcome: every earlier one has (R279, 09 R247). -/
def settleOnce : List OnyxSeg → List Nat → Block → Block
  | [], _, b => b
  | g :: gs, held, b =>
    match g.takeNo with
    | none => settleOnce gs held b
    | some no =>
      if g.outcome != .pending || held.contains no then settleOnce gs held b
      else if durable g then
        let b := giveOutcome g (durableOutcome g) b
        let b := g.parts.foldl (fun b p => portMod p.port (fun x => { x with
          lastDurable := some g.frame, rehomed := x.rehomed + bit (p.rehomed && x.lastDurable != some g.frame) }) b) b
        settleOnce gs held b
      else settleOnce gs (no :: held) b

/-- Durable Segments get their outcomes in frame order. -/
def settleSegs (b : Block) : Block := settleOnce b.onyx.segs [] b

/-! ### Writes of shares (R278, 11 R304) -/

/-- The head clip of a port is open and is the share's. -/
def clipReady (p : Port) (c : Nat) : Bool :=
  match p.clips with
  | x :: _ => x.opened && x.rec_.clipNo == c
  | [] => false

/-- Every Frame left with the member that this port has replaced is settled (R274). -/
def swapClear (b : Block) (m : Nat) : Bool :=
  match (b.port m).waitFor, queueOf b m with
  | some old, (g, _) :: _ => (queueOf b old).all (fun (x, _) => g.frame ≤ x.frame)
  | _, _ => true

/-- The next Write of a share: offset and length in the share, and its first LBA past the share's. -/
def nextPart (b : Block) (m : Nat) (p : Part) : Nat × Nat :=
  let most := maxBlocks (b.port m)
  let off := p.issued * most * 4096
  (off, min (most * 4096) (p.len - off))

/-- What Spinel is asked for to write one part of a share at `lba` (11 R304). -/
def partRequest (m : Nat) (g : OnyxSeg) (member addr len lba dst : Nat) : EncRequest :=
  { port := m, frame := g.frame, index := g.dest.index, member, ctx := g.dest.ctx, addr, len, lba, dst }

/-- The bytes of a share as its Writes put them on the media from LBA `lba` on: ciphertext for a KEYED Context. None while Spinel
does not hold the Frame's key (11 R302). -/
def shareBytes (b : Block) (m : Nat) (g : OnyxSeg) (p : Part) (lba : Nat) : Option (List Byte) :=
  let one (k : Nat) : Option (List Byte) :=
    let w := nextPart b m { p with issued := k }
    let a := g.addr + shareOffset g.mode p.member w.1
    if g.dest.keyed then encryptPart b (partRequest m g p.member a w.2 (lba + w.1 / 4096) 0) else some (b.dramRead a w.2)
  ((List.range (partWrites (maxBlocks (b.port m)) p)).map one).foldl
    (fun acc v => match acc, v with | some x, some y => some (x ++ y) | _, _ => none) (some [])

/-- SHARE trace entry (12 R342), with the digest of the bytes that will be written. Where a key that those take is still to come
the digest is a free value (log entry 6). -/
def logShare (m : Nat) (g : OnyxSeg) (p : Part) (lba : Nat) (b : Block) : Block :=
  b.logEvr .onyx 0x15 (leBytes 1 m ++ leBytes 8 g.frame ++ leBytes 1 g.dest.index ++ leBytes 1 (bit p.rehomed))
    [leBytes 8 lba ++ leBytes 4 p.len ++ leBytes 4 (match shareBytes b m g p lba with
      | some v => crc32c v
      | none => Config.tagDigest (g.frame * 64 + g.dest.index) (16 + m)).toNat]

/-- The share takes its data extents from ALLOC_NEXT upward (R278). -/
def beginShare (m : Nat) (g : OnyxSeg) (p : Part) (b : Block) : Block :=
  match (b.port m).media with
  | none => b
  | some x =>
    let b := mediaMod m (fun x => { x with allocNext := x.allocNext + ceilDiv p.len (2 ^ 20) }) b
    let b := partMod g.frame g.dest.index p.member (fun p => { p with extent := some x.allocNext }) b
    let b := tellOpal g.frame (.share g.dest.index m) b
    logShare m g p (256 * x.allocNext) b

/-- Ask Spinel for the ciphertext of a part of a share, in a chunk of the port's cipher area (11 R304). -/
def askCipher (r : EncRequest) (b : Block) : Block :=
  (cipherTake r.port r.dst r.len b).modCh (fun c => { c with onyxSpinel := c.onyxSpinel ++ [{ r with sent := b.stamp .spinel }] })

/-- Issue the Write of `len` bytes of a share, from DRAM address `addr` to `lba`, or ask for its ciphertext. -/
def issuePart (m : Nat) (g : OnyxSeg) (member addr len lba : Nat) (b : Block) : Block :=
  if !g.dest.keyed then issueCmd m (.write lba (.dram addr len) false) (.share g.frame g.dest.index member) false b
  else match cipherChunk b m len with
    | some a => askCipher (partRequest m g member addr len lba a) b
    | none => b

/-- Issue the next Write of a share (R278). -/
def issueWrite (m : Nat) (g : OnyxSeg) (p : Part) (b : Block) : Block :=
  match p.extent with
  | none => b
  | some e =>
    let w := nextPart b m p
    issuePart m g p.member (g.addr + shareOffset g.mode p.member w.1) w.2 (256 * e + w.1 / 4096)
      (partMod g.frame g.dest.index p.member (fun p => { p with issued := p.issued + 1 }) b)

/-- Room in the cipher area for the next Write of a share. -/
def cipherRoom (b : Block) (m : Nat) (p : Part) : Bool := (cipherChunk b m (nextPart b m p).2).isSome

/-- The share whose Write is next on port `m`: in frame order, each whole in retention and its clip open; a keyed one
that finds its cipher area full lets unkeyed ones pass (R278, 11 R304), which otherwise wait for the Writes of earlier keyed
shares that Spinel still encrypts. `full`: such a keyed share has been passed over. -/
def nextWrite (b : Block) (m : Nat) (full : Bool) : List (OnyxSeg × Part) → Option (OnyxSeg × Part)
  | [] => none
  | (g, p) :: l =>
    if partWrites (maxBlocks (b.port m)) p ≤ p.issued then nextWrite b m full l
    else if !g.whole || g.released || !clipReady (b.port m) p.clip then none
    else if g.dest.keyed && !cipherRoom b m p then nextWrite b m true l
    else if !g.dest.keyed && !full && b.ch.onyxSpinel.any (fun r => r.port == m) then none
    else some (g, p)

/-- Issue Writes while they may go. -/
def issueShares (m : Nat) : Nat → Block → Block
  | 0, b => b
  | k + 1, b =>
    let x := b.port m
    let cut := b.onyx.flush.any (·.cut)
    if !isMounted x.state || cut || !swapClear b m || ioLimit x ≤ ioOut b m then b
    else match nextWrite b m false (queueOf b m) with
      | none => b
      | some (g, p) =>
        if p.extent.isSome then issueShares m k (issueWrite m g p b)
        else if x.media.any (fun y => freeExtents y < ceilDiv p.len (2 ^ 20)) then
          issueShares m k (giveOutcome g .mediaLost b)
        else
          let b := beginShare m g p b
          match (osegGet b g.frame g.dest.index).bind (fun g => (g.parts.find? (·.member == p.member)).map (fun p => (g, p))) with
          | some (g, p) => issueShares m k (issueWrite m g p b)
          | none => b

/-! ### Commits (R278, R269, R270) -/

/-- Index entry of a share (R269). -/
def indexEntry (b : Block) (g : OnyxSeg) (p : Part) : List Byte :=
  let t := g.takeNo.bind (takeByNo b)
  let flags := flagBits [g.dest.keyed, p.rehomed, g.ante, durableOutcome g == .partial_, t.any (fun t => t.first == g.frame),
    t.any (fun t => t.ended.isSome && t.last == some g.frame)]
  let v := leBytes 8 g.frame ++ leBytes 4 p.clip ++ leBytes 1 g.dest.ctx ++ leBytes 1 flags ++
    leBytes 1 (if g.mode = .mirror2 then 0 else p.member) ++ leBytes 1 (modeCode g.mode) ++ leBytes 4 (p.extent.getD 0) ++ leBytes 4 p.len ++ leBytes 4 g.dest.segLen ++
    (g.header.drop 124).take 4 ++ (g.header.drop 80).take 8 ++ (g.header.drop 92).take 4 ++ (g.header.drop 88).take 2 ++
    (g.header.drop 46).take 2 ++ (g.header.drop 16).take 4 ++ (g.header.drop 52).take 4 ++ leBytes 4 0
  v ++ leBytes 4 (crc32c v).toNat

/-- The longest run of the port's oldest uncommitted shares whose Writes have all completed, within its head clip. -/
def commitRun (b : Block) (m : Nat) : List (OnyxSeg × Part) :=
  ((queueOf b m).takeWhile (fun (_, p) => partWritten b p && clipReady (b.port m) p.clip && !p.committing)).take (62 * 4096)

/-- COMMIT journal blocks for entries, the last marked GROUP_END: (LBA, bytes) of each. -/
def commitBlocks : Nat → List (List Byte) → Media → List (Nat × List Byte) × Media
  | 0, _, x => ([], x)
  | k + 1, es, x =>
    if es.isEmpty then ([], x)
    else
      let now := es.take 62
      let rest := es.drop 62
      let blk := journalBlock x 2 now.length rest.isEmpty x.indexNext now.flatten
      let lba := journalLba x
      let y := { journalNext x with
        indexNext := x.indexNext + now.length
        tail := (now.zipIdx).foldl (fun t (e, i) => pushEntry (x.indexNext + i) e t) x.tail }
      let (l, z) := commitBlocks k rest y
      ((lba, blk) :: l, z)

/-- Blocks at rising LBAs joined into one Write each run. -/
def joinBlocks (most : Nat) (l : List (Nat × List Byte)) : List PortStep :=
  let first := (l.head?.map (·.1)).getD 0
  let (a, c) := l.partition (fun e => first ≤ e.1)
  let w (l : List (Nat × List Byte)) : List PortStep :=
    match l with
    | [] => []
    | e :: _ => writeSteps most e.1 (l.flatMap (·.2)) true
  w a ++ w c

/-- Index blocks that hold entries from `from_` on: whole LBAs, filled with zeros (R280). -/
def indexSteps (most from_ : Nat) (before es : List (List Byte)) : List PortStep :=
  let old := if from_ % 64 = 0 then [] else before
  let data := (old ++ es).flatten
  writeSteps most (indexLba from_) (data ++ .replicate ((4096 - data.length % 4096) % 4096) 0) false

/-- A commit (R278): a Flush when there is a cache, then the COMMIT blocks with FUA; then the index blocks (R280). Before the
journal holds 8,192 blocks since the last checkpoint, a checkpoint comes first. -/
def startCommit (m : Nat) (run : List (OnyxSeg × Part)) (b : Block) : Block :=
  let p := b.port m
  match p.media with
  | none => b
  | some x =>
    let blocks := ceilDiv run.length 62
    let (pre, x) := if 8192 < sinceCheckpoint x + blocks + 2 then checkpointSteps (maxBlocks p) true x else ([], x)
    let b := run.foldl (fun b (g, q) => partMod g.frame g.dest.index q.member (fun q => { q with committing := true }) b) b
    portMod m (fun p => { p with
      media := some x
      steps := pre ++ (if p.cache then [.cmd .flush] else []) ++ [.commit (run.map (fun (g, _) => (g.frame, g.dest.index)))] }) b

/-- The shares of a commit that are still to be committed: a Segment that has its outcome gets no index entry (09 R250). -/
def commitShares (m : Nat) (keys : List (Nat × Nat)) (b : Block) : List (OnyxSeg × Part) :=
  keys.filterMap (fun k => (osegGet b k.1 k.2).bind (fun g =>
    (g.parts.find? (fun q => q.port == m && q.committing)).map (fun q => (g, q))))

/-- Journal blocks that one Write can hold from the next block on, before the journal's end. -/
def commitRoom (p : Port) (x : Media) : Nat := max 1 (min (maxBlocks p) (16384 - (journalLba x - 256)))

/-- The COMMIT blocks of a commit are formed, and their one Write is the port's next work; shares beyond what it holds wait for the next
commit (R278). -/
def writeCommit (m : Nat) (keys : List (Nat × Nat)) (b : Block) : Block :=
  let p := b.port m
  match p.media with
  | none => b
  | some x =>
    let all := commitShares m keys b
    let run := all.take (62 * commitRoom p x)
    let b := (all.drop run.length).foldl (fun b (g, q) =>
      partMod g.frame g.dest.index q.member (fun q => { q with committing := false }) b) b
    if run.isEmpty then b
    else
      let most := maxBlocks p
      let es := run.map (fun (g, q) => indexEntry b g q)
      let (l, y) := commitBlocks run.length es x
      portMod m (fun p => { p with
        media := some y
        steps := joinBlocks most l ++ [.committed (run.map (fun (g, _) => (g.frame, g.dest.index)))] ++
          indexSteps most x.indexNext x.tail es ++ p.steps }) b

/-- Opal learns of the Stripes of a Segment that are durable on every member that holds a share of it (09 R249). -/
def tellDurable (b : Block) (k : Nat × Nat) : Block :=
  match osegGet b k.1 k.2 with
  | some g => if durable g then tellOpal g.frame (.durable g.dest.index (leAt g.header 56 24)) b else b
  | none => b

/-- The last Write of a commit has completed: its shares are committed (R278). -/
def commitDone (m : Nat) (keys : List (Nat × Nat)) (b : Block) : Block :=
  let segs := b.onyx.segs.filter (fun g => keys.any (fun k => k.1 == g.frame && k.2 == g.dest.index))
  let b := keys.foldl (fun b (f, i) =>
    osegMod f i (fun g => { g with
      parts := g.parts.map (fun p => if p.port = m ∧ p.committing then { p with committed := true, committing := false } else p) }) b) b
  let b := keys.foldl tellDurable b
  portMod m (fun p => { p with
    clips := match p.clips with
      | c :: cs =>
        let r := c.rec_
        { c with rec_ := { r with
          lastFrame := keys.foldl (fun n k => max n k.1) r.lastFrame, entryCount := r.entryCount + keys.length
          keyed := r.keyed || segs.any (·.dest.keyed) } } :: cs
      | [] => [] }) b

/-! ### Clips (R268, R280) -/

/-- The record of a port's head clip as bytes, put into its clip table. -/
def putRecord (b : Block) (m : Nat) (r : ClipRec) (state : Nat) : List Byte × List (Nat × List Byte) :=
  let v := clipRecord b.beryl.otc.deviceId r state
  (v, tableSet (b.port m).clipTable r.clipNo v)

/-- Open the head clip for its first share (R280): its record, then a CLIP_OPEN block. -/
def startClip (m : Nat) (c : PortClip) (cs : List PortClip) (g : OnyxSeg) (b : Block) : Block :=
  let p := b.port m
  match p.media with
  | none => b
  | some x =>
    let r := { c.rec_ with
      firstFrame := g.frame, lastFrame := g.frame, firstEntry := x.indexNext, startStamp := leAt g.header 80 8
      startTc := leAt g.header 92 4, epoch := leAt g.header 88 2 }
    let (v, table) := putRecord b m { r with lastFrame := 0 } 1
    let (j, x) := journalStep (maxBlocks p) 1 v x
    portMod m (fun p => { p with
      media := some x, clipTable := table, clips := { c with rec_ := r } :: cs
      steps := recordSteps (maxBlocks p) r.clipNo table ++ j ++ [.opened] }) b

/-- Close the head clip (R280): its record as CLOSED, a CLIP_CLOSE block, a checkpoint. On main-input loss every clip still open
closes with POWER_LOSS and END_REASON 6 (R286). -/
def endClip (m : Nat) (c : PortClip) (cs : List PortClip) (b : Block) : Block :=
  let p := b.port m
  match p.media with
  | none => b
  | some x =>
    let loss := b.onyx.flush.any (fun f => f.reason == .powerLoss)
    let r := { c.rec_ with powerLoss := loss, endReason := if loss then reasonCode .powerLoss else c.rec_.endReason }
    let (v, table) := putRecord b m r 2
    let (j, x) := journalStep (maxBlocks p) 3 v x
    let (k, x) := checkpointSteps (maxBlocks p) false x
    portMod m (fun p => { p with
      media := some x, clipTable := table, clips := { c with rec_ := r } :: cs
      steps := recordSteps (maxBlocks p) r.clipNo table ++ j ++ k ++ [.closed] }) b

/-- Some Segment bound to this clip of port `m` has no outcome yet. -/
def clipBusy (b : Block) (m c : Nat) : Bool :=
  b.onyx.segs.any (fun g => g.outcome == .pending && g.takeNo.isSome && g.parts.any (fun p => p.port == m && p.clip == c))

/-- The port is a member of the set in force. -/
def isMember (b : Block) (m : Nat) : Bool := b.onyx.set.any (fun s => s.members.contains m)

/-- What the port does next when it has no serial work: commit, open or close its head clip, or its normal shutdown. -/
def nextWork (m : Nat) (b : Block) : Block :=
  let p := b.port m
  let run := commitRun b m
  if !isMounted p.state then b
  else if !run.isEmpty then startCommit m run b
  else match p.clips with
    | c :: cs =>
      if !c.opened then
        match (queueOf b m).find? (fun (g, q) => q.clip == c.rec_.clipNo && g.whole) with
        | some (g, _) =>
          if swapClear b m && !b.onyx.flush.any (·.cut) then startClip m c cs g b else b
        | none => if c.closing && !clipBusy b m c.rec_.clipNo then portMod m (fun p => { p with clips := cs }) b else b
      else if c.closing && !clipBusy b m c.rec_.clipNo then endClip m c cs b
      else b
    | [] =>
      if b.onyx.flush.isSome && isMember b m && !p.shn && (queueOf b m).isEmpty && (openTake b).isNone &&
          !b.onyx.segs.any (fun g => g.outcome == .pending && g.parts.any (fun q => q.port == m)) then
        portMod m (fun p => { p with steps := [.shn] }) b
      else b

/-- A step of serial work that needs no command. -/
def doStep (m : Nat) (s : PortStep) (b : Block) : Block :=
  match s with
  | .cmd _ => b
  | .stage k => portMod m (fun p => { p with mount := k }) b
  | .listen => issueCmd m .asyncEvent .event false b
  | .ready how => portReady m how b
  | .opened => portMod m (fun p => { p with
      clips := match p.clips with | c :: cs => { c with opened := true } :: cs | [] => [] }) b
  | .closed =>
    let no := ((b.port m).clips.head?.map (·.rec_.clipNo)).getD 0
    magEvent m 10 (data4 no) (portMod m (fun p => { p with clips := p.clips.drop 1 }) b)
  | .commit l => writeCommit m l b
  | .committed l => settleSegs (commitDone m l b)
  | .shn => portMod m (fun p => { p with shn := true }) b

/-- Run a port's serial work as far as it goes, one command at a time. -/
def pumpPort (m : Nat) : Nat → Block → Block
  | 0, b => b
  | k + 1, b =>
    let p := b.port m
    if serialBusy p || !(isLive p.state) then b
    else match p.steps with
      | .commit l :: rest =>
        if ioLimit p ≤ ioOut b m then b else pumpPort m k (doStep m (.commit l) (portMod m (fun p => { p with steps := rest }) b))
      | .cmd op :: rest =>
        if (if isIo op then ioLimit p ≤ ioOut b m else adminLimit ≤ adminOut p) then b
        else issueCmd m op .serial false (portMod m (fun p => { p with steps := rest }) b)
      | s :: rest => pumpPort m k (doStep m s (portMod m (fun p => { p with steps := rest }) b))
      | [] =>
        let b' := nextWork m b
        if (b'.port m).steps.isEmpty && (b'.port m).clips.length == p.clips.length then b' else pumpPort m k b'

/-! ### Ends -/

/-- ROLLED is posted once the old clip has closed and the target's is open (R282). -/
def postRolled (b : Block) : Block :=
  let complete (r : RollOver) : Bool :=
    !(b.port r.old).clips.any (fun c => c.rec_.clipNo == r.oldClip) &&
      !(b.port r.target).clips.any (fun c => c.rec_.clipNo == r.newClip && !c.opened)
  let l := b.onyx.rolls.filter complete
  if l.isEmpty then b
  else
    l.foldl (fun b r => magEvent r.old 7 [r.target] b)
      (b.modOnyx (fun o => { o with rolls := o.rolls.filter (fun r => !complete r) }))

/-- REHOMED is posted once every share re-homed to the port has been settled (R265). -/
def postRehomed (m : Nat) (b : Block) : Block :=
  let p := b.port m
  if 0 < p.rehomed && !(queueOf b m).any (fun (_, q) => q.rehomed) &&
      !b.onyx.segs.any (fun g => g.outcome == .pending && g.parts.any (fun q => q.port == m && q.rehomed)) then
    magEvent m 8 (data4 p.rehomed) (portMod m (fun p => { p with rehomed := 0 }) b)
  else b

/-- Takes that have ended and whose clips have closed on every member still present, named in the order in which they ended (R280). -/
def closeTakes (b : Block) : Block :=
  let live (t : OnyxTake) : Bool :=
    t.ended.isNone || b.onyx.ports.toList.any (fun p => p.clips.any (fun c => c.takeNo == t.no))
  let past := b.onyx.takes.takeWhile (fun t => !live t)
  if past.isEmpty then b
  else
    let b := b.modOnyx (fun o => { o with takes := o.takes.drop past.length })
    takeClosed (b.modCh (fun c => { c with takesClosed := c.takesClosed ++ past.map (fun t => (t.takeId, t.last)) }))

/-- The flush is over when every present member of the set in force has completed its normal shutdown; Onyx reports
(R286). `timeout`: the 500 ms have passed. -/
def tryReport (timeout : Bool) (b : Block) : Block :=
  match b.onyx.flush with
  | none => b
  | some f =>
    let members := match b.onyx.set with | some s => s.members.filter (fun m => isMounted (b.port m).state) | none => []
    if f.reported || !members.all (fun m => (b.port m).shn && (timeout || (b.port m).shutDone)) then b
    else
      (b.modOnyx (fun o => { o with flush := some { f with reported := true } })).modCh (fun c => { c with
        onyxReport := c.onyxReport ++ [!f.lost] })

/-- Uncommitted bytes on a port (R285, R290). -/
def backlog (b : Block) (m : Nat) : Nat := ((queueOf b m).map (fun (_, p) => p.len)).sum

/-- SLOW when the backlog exceeds one second of the port's RATE (R285). -/
def checkSlow (m : Nat) (b : Block) : Block :=
  let past := rateOf b m * 12500000 < backlog b m
  if past && !(b.port m).slow && isMember b m then
    magEvent m 6 (data4 (backlog b m / 2 ^ 20)) (portMod m (fun p => { p with slow := true }) b)
  else if past then b
  else portMod m (fun p => { p with slow := false }) b

/-- Everything that Onyx can do now. -/
def serveOnyx (b : Block) : Block :=
  let b := settleSegs (takeDecided b)
  if !b.alive .onyx then b
  else
  let b := [0, 1, 2, 3, 0, 1, 2, 3].foldl (fun b m =>
    let b := pumpPort m ((b.port m).steps.length + 24) b
    let b := issueShares m ((b.port m).mqes + 257) b
    postRehomed m (checkSlow m b)) b
  tryReport false (closeTakes (postRolled b))

end Sys2Proof.Machine
end

