-- ==== Sys2Proof/Machine/Onyx.lean ====
section
/-! DEFINITION. Onyx's steps: magazine sets, the latch notice with retention and the Ante, losses and re-homing, NVMe
completions, the flush (10 R258 to R290; 09 R244, R245; 12 R331; 14 R393, R394; 15 R412; 19 R497). -/

namespace Sys2Proof.Machine

/-! ### Sets (R272 to R274) -/

/-- STATE of mounted ports follows the set in force (R289). -/
def setStates (b : Block) : Block :=
  let role (m : Nat) : PortState :=
    match b.onyx.set with
    | some s => if s.members.contains m then .member else if s.standby == some m then .standby else .ready
    | none => .ready
  (List.range 4).foldl (fun b m => portMod m (fun p => if isMounted p.state then { p with state := role m } else p) b) b

/-- The set that a MAG_SET names. -/
def parseSet (d : List Byte) : Option MagSet :=
  let mode : Option SetMode := match leAt d 16 1 with
    | 1 => some .single
    | 2 => some .stripe2
    | 3 => some .stripe4
    | 4 => some .mirror2
    | _ => none
  let standby := leAt d 17 1
  mode.map (fun mode => {
    mode, members := ((List.range 4).map (fun k => leAt d (20 + k) 1)).filter (· != 255)
    standby := if standby = 255 then none else some standby, target := leAt d 18 1 == 1 })

/-- DETAIL of a MALFORMED MAG_SET (08 R213, R218): the lowest offset at fault. -/
def setFault (d : List Byte) : Option Nat :=
  match parseSet d with
  | none => some 16
  | some s =>
    let raw := (List.range 4).map (fun k => leAt d (20 + k) 1)
    if s.members.length != memberCount s.mode then some 16
    else if s.standby.any (fun p => 3 < p || s.members.contains p) then some 17
    else if 1 < leAt d 18 1 then some 18
    else if s.members.any (3 < ·) || s.members.eraseDups.length != s.members.length ||
      raw.take s.members.length != s.members then some 20
    else none

/-- A member's load of the Take's last Frame, raised by 1 %, is within its RATE (R273). -/
def loadOk (b : Block) (s : MagSet) : Bool :=
  match openTake b with
  | none => true
  | some t =>
    let l := match b.garnet.cad with | some (_, _, l, _) => l | none => 0
    (s.members.zipIdx).all (fun (p, m) =>
      !isMounted (b.port p).state ||
        ((t.lens.map (fun n => shareLen s.mode n m)).sum * 8 * 1024000000 * 101 ≤ rateOf b p * 10000000000 * l))

/-- Two lists of ports that differ in one place at most, there with `sb` in the second. -/
def oneSwap (old new : List Nat) (sb : Option Nat) : Bool :=
  let diff := (old.zip new).filter (fun (a, c) => a != c)
  old.length == new.length && (diff.isEmpty || (diff.length == 1 && diff.all (fun (_, c) => sb == some c)))

/-- The checks of R272 and R273; `busy`: a Take is open or a START waits. Answers the DETAIL code of a refusal. FULL asks of the
members, as R272 has it, and not of the standby (log entry 109). -/
def setRefusal (b : Block) (s : MagSet) (busy : Bool) : Option Nat :=
  let named := s.members ++ s.standby.toList
  if named.any (fun p => !isMounted (b.port p).state) then some 7
  else if named.any (fun p => rateOf b p == 0) then some 8
  else if s.target && s.mode != .single then some 11
  else if s.members.any (fun p => (b.port p).media.all (fun x => 4096 ≤ x.clipNext || freeExtents x < 1024)) then some 12
  else if busy && !(match b.onyx.set with
      | some o => o.mode == s.mode && oneSwap o.members s.members o.standby
      | none => false) then some 10
  else if !loadOk b s then some 9
  else none

/-- MAG_SET (08 R218; R272): checked, then staged for the next latch point. -/
def magSet (desc : Nat) (b : Block) : Block :=
  match b.dispatched ctrlRing desc 0x0A with
  | none => b
  | some d =>
    if b.onyx.staged.any (fun s => s.desc == desc) then b
    else match setFault d, parseSet d with
      | some off, _ => finishCtrl desc stMalformed frameNone 0 off b
      | none, none => b
      | none, some s =>
        match setRefusal b s b.takeAccepted with
        | some c => finishCtrl desc stMagRefused frameNone 0 c b
        | none => b.modOnyx (fun o => { o with staged := o.staged ++ [{ set := s, desc, skip := b.ch.noticeOnyx.length }] })

/-! ### The Ante (R277) -/

/-- Frames held in the Ante, oldest first. -/
def heldFrames (b : Block) : List Nat :=
  ((b.onyx.segs.filter (fun g => g.takeNo.isNone && g.outcome == .pending)).map (·.frame)).eraseDups

/-- A held Frame leaves the Ante with this outcome. -/
def dropHeld (o : DestOutcome) (b : Block) (frame : Nat) : Block :=
  (b.onyx.segs.filter (fun g => g.frame == frame && g.takeNo.isNone && g.outcome == .pending)).foldl
    (fun b g => giveOutcome g o b) b

/-- Every held Frame is DISCARDED. -/
def discardAnte (b : Block) : Block := (heldFrames b).foldl (dropHeld .discarded) b

/-- DEPTH (R289). -/
def anteDepth (b : Block) : Nat := min 32 (b.field 0x7010 5 0)

/-- The Ante is armed (R277). -/
def armed (b : Block) : Bool :=
  0 < anteDepth b && (openTake b).isNone &&
    match b.onyx.set with
    | some s => s.members.all (fun m => (b.port m).state == .member)
    | none => false

/-! ### Retention (R275, R276) -/

/-- Bytes of the retention region less the cipher areas at its top (11 R304). -/
def retentionRoom : Nat := retentionSize - 4 * cipherSize

/-- Reservations in force. -/
def retained (b : Block) : List (Nat × Nat) := (b.onyx.segs.filter (fun g => !g.released)).map (fun g => (g.addr, g.dest.segLen))

/-- Free bytes of retention. -/
def freeRetention (b : Block) : Nat := retentionRoom - ((retained b).map (·.2)).sum

/-- Reserve retention for a Destination. -/
def reserve (b : Block) (len : Nat) : Option Nat := allocate 0 retentionRoom len (retained b)

/-- Name a reservation to Jade (R275). -/
def tellJade (frame index : Nat) (a : Option Nat) (b : Block) : Block :=
  b.modCh (fun c => { c with onyxJade := c.onyxJade ++ [(frame, index, a)] })

/-- A Destination for which Onyx keeps no Segment. -/
def refuseDest (frame : Nat) (d : Dest) (o : DestOutcome) (b : Block) : Block :=
  let b := b.modCh (fun c => { c with onyxOpal := c.onyxOpal ++ [{
    frame, index := d.index, outcome := o, ports := 0, rehomed := false, stripeMap := 0
    marks := if o = .failed then markFailStop else 0 }] })
  tellJade frame d.index none b

/-- A Segment whose DRAM copy may be released: every Write has completed on every member, and it is not yet committed (R276). -/
def releasable (b : Block) (g : OnyxSeg) : Bool :=
  g.outcome == .pending && !g.released && g.whole && g.takeNo.isSome && !g.parts.isEmpty && !durable g &&
    g.parts.all (fun p => partWritten b p)

/-- Release DRAM copies, oldest first, until `need` bytes are free (R276). -/
def releaseCopies (need : Nat) : List OnyxSeg → Block → Block
  | [], b => b
  | g :: gs, b =>
    if need ≤ freeRetention b then b
    else releaseCopies need gs (if releasable b g then osegMod g.frame g.dest.index (fun g => { g with released := true }) b else b)

/-- The rule of R276 after the reservations of a Frame that took `taken` bytes. -/
def guardRetention (taken : Nat) (b : Block) : Block :=
  let b := releaseCopies (3 * taken) b.onyx.segs b
  if freeRetention b < 3 * taken then makeStop .retention b else b

/-! ### Clips of a Take -/

/-- END_REASON of a clip that closes within a Take is stated nowhere: a free value (log entry 6). -/
def freeReason (b : Block) : Nat := (Config.freeWord b.fresh).toNat % 256

/-- LEAD_CLIP when the Take's first clip is planned, as number `no` on port `m`: the number of member 0's clip, which is the next on
its port where that is another (R268). -/
def leadClip (b : Block) (m no : Nat) : Nat :=
  match b.onyx.set.bind (·.members.head?) with
  | some p => if p = m then no else ((b.port p).media.map (·.clipNext)).getD no
  | none => no

/-- The clip of Take `t` on port `m`, planned when there is none; none when no clip record is free. -/
def planClip (m member : Nat) (mode : SetMode) (rehome : Bool) (prev : Option (List Byte)) (t : OnyxTake) (b : Block) :
    Block × Option Nat :=
  let p := b.port m
  match p.clips.find? (fun c => c.takeNo == t.no && c.closing == t.ended.isSome), p.media with
  | some c, _ => (b, some c.rec_.clipNo)
  | none, none => (b, none)
  | none, some x =>
    if 4096 ≤ x.clipNext then (b, none)
    else
      let no := x.clipNext
      let lead := t.leadClip.getD (leadClip b m no)
      let r : ClipRec := {
        clipNo := no, mode := modeCode mode, member, rolledIn := prev.isSome, rolledOut := false, rehomeTarget := rehome
        powerLoss := false, keyed := false, takeFirst := t.first, leadClip := lead, takeId := t.takeId, part := t.part
        firstFrame := 0, lastFrame := 0, firstEntry := 0, entryCount := 0, startStamp := 0, startTc := 0, epoch := 0
        endReason := (t.ended.map reasonCode).getD 0, cadence := b.quartz.cap.getD ⟨0, 0, 1, 1⟩
        prevMedia := prev.getD (leBytes 16 0), nextMedia := leBytes 16 0 }
      let b := takeMod t.no (fun t => { t with leadClip := some lead }) b
      let b := mediaMod m (fun x => { x with clipNext := no + 1 }) b
      (portMod m (fun p => { p with
        clips := p.clips ++ [{ rec_ := r, takeNo := t.no, opened := false, closing := t.ended.isSome }] }) b, some no)

/-- Every clip of port `m` in Take `no` is to close, with this END_REASON. -/
def closeClips (m no reason : Nat) (f : ClipRec → ClipRec) (b : Block) : Block :=
  portMod m (fun p => { p with
    clips := p.clips.map (fun c =>
      if c.takeNo = no ∧ !c.closing then { c with closing := true, rec_ := f { c.rec_ with endReason := reason } } else c) }) b

/-- The shares of a Segment in a Take: none when a member that has to hold one is lost (R271, R283). -/
def makeParts (b : Block) (s : MagSet) (segLen : Nat) : Option (List Part) :=
  let part (p m : Nat) : Part := {
    port := p, member := m, clip := 0, len := shareLen s.mode segLen m, rehomed := false, extent := none, issued := 0
    completed := 0, committing := false, committed := false }
  let all := (s.members.zipIdx).map (fun (p, m) => part p m)
  let here := all.filter (fun q => isMounted (b.port q.port).state)
  if s.mode = .mirror2 then (if here.isEmpty then none else some here)
  else if here.length = all.length then some (here.filter (fun q => q.len != 0)) else none

/-- FULL, once for a port in a Take (R265, R282): kind 0 data extents, 1 index entries, 2 clip records. -/
def postFull (m kind : Nat) (t : OnyxTake) (b : Block) : Block :=
  if t.fullPosted.contains m then b
  else magEvent m 9 [kind] (takeMod t.no (fun t => { t with fullPosted := m :: t.fullPosted }) b)

/-- Plan the clips of the shares; FULL with kind 2 and MEDIA_FULL when a port has no clip record left (R265, R281). -/
def planParts (s : MagSet) (t : OnyxTake) : List Part → Block → Block × Option (List Part)
  | [], b => (b, some [])
  | q :: qs, b =>
    let t := (takeByNo b t.no).getD t
    let member := if s.mode = .mirror2 then 0 else q.member
    match planClip q.port member s.mode false none t b with
    | (b, none) =>
      (makeStop .mediaFull (postFull q.port 2 t b), none)
    | (b, some c) =>
      match planParts s t qs b with
      | (b, some l) => (b, some ({ q with clip := c } :: l))
      | (b, none) => (b, none)

/-- A Segment as it enters retention. -/
def freshSegment (s : Snapshot) (d : Dest) (addr : Nat) (set : MagSet) (takeNo : Option Nat) : OnyxSeg := {
  frame := s.frame, dest := d, addr, mode := set.mode, parts := [], whole := false, header := [], takeNo
  ante := takeNo.isNone, released := false, rehomed := false, standby := set.standby, expected := expectedMap s.prog d
  marks := 0, outcome := .pending }

/-- Shares of a Segment that joins a Take: it gets its clips, or MEDIA_LOST. It keeps the standby bound at its own latch point (01
R21, R277). -/
def joinTake (t : OnyxTake) (s : MagSet) (g : OnyxSeg) (b : Block) : Block :=
  match makeParts b s g.dest.segLen with
  | none => giveOutcome g .mediaLost b
  | some l =>
    match planParts s t l b with
    | (b, none) => giveOutcome g .mediaLost b
    | (b, some l) =>
      let b := osegMod g.frame g.dest.index (fun g => { g with
        mode := s.mode, parts := l, takeNo := some t.no }) b
      if g.takeNo.isNone then tellOpal g.frame (.ante g.dest.index false) b else b

/-- One magazine Destination of a Take's Frame (R275, R276). Without a set in force there is no magazine: MEDIA_LOST. -/
def bindInTake (t : OnyxTake) (s : Snapshot) (b : Block) (d : Dest) : Block :=
  match b.onyx.set with
  | none => refuseDest s.frame d .mediaLost b
  | some set =>
    match reserve b d.segLen with
    | none => makeStop .retention (refuseDest s.frame d .noBuffer b)
    | some a =>
      let g := freshSegment s d a set (some t.no)
      let b := tellJade s.frame d.index (some a) (b.modOnyx (fun o => { o with segs := o.segs ++ [g] }))
      joinTake t set g b

/-- Need of a Frame on a member: data extents and index entries (R282). -/
def needOf (s : MagSet) (lens : List Nat) (m : Nat) : Nat × Nat :=
  let l := (lens.map (fun n => shareLen s.mode n m)).filter (· != 0)
  ((l.map (fun n => ceilDiv n (2 ^ 20))).sum, l.length)

/-- Extents and entries that shares bound to port `m` will still take. -/
def promised (b : Block) (m : Nat) : Nat × Nat :=
  let q := queueOf b m
  (((q.filter (fun (_, p) => p.extent.isNone)).map (fun (_, p) => ceilDiv p.len (2 ^ 20))).sum,
    (q.filter (fun (_, p) => !p.committing)).length)

/-- The clip of a Take that is open on a port, or to be opened; a number that no clip has when there is none. -/
def clipIn (b : Block) (m no : Nat) : Nat :=
  (((b.port m).clips.find? (fun c => c.takeNo == no && !c.closing)).map (·.rec_.clipNo)).getD (2 ^ 32)

/-- The roll-over to the target (R282): the next Frame goes to it; ROLLED follows once the clips have changed. -/
def rollOver (t : OnyxTake) (s : MagSet) (old target : Nat) (b : Block) : Block :=
  let oldClip := clipIn b old t.no
  let uid (m : Nat) : List Byte := ((b.port m).media.map (·.uid)).getD (leBytes 16 0)
  let b := closeClips old t.no (freeReason b) (fun r => { r with rolledOut := true, nextMedia := uid target })
    { b with fresh := b.fresh + 1 }
  let b := takeMod t.no (fun t => { t with part := t.part + 1 }) b
  let b := (planClip target 0 s.mode false (some (uid old)) { t with part := t.part + 1 } b).1
  setStates (b.modOnyx (fun o => { o with
    set := some { s with members := [target], standby := none }
    rolls := o.rolls ++ [{ old, oldClip, target, newClip := clipIn b target t.no }] }))

/-- The members' room after a Frame of the Take (R282). -/
def checkFull (t : OnyxTake) (lens : List Nat) (b : Block) : Block :=
  match b.onyx.set with
  | none => b
  | some s =>
    (s.members.zipIdx).foldl (fun b (m, k) =>
      match (b.port m).media with
      | none => b
      | some x =>
        let (ne, nn) := needOf s lens k
        let (pe, pn) := promised b m
        let lowExt := freeExtents x < pe + 4 * ne
        let t := (takeByNo b t.no).getD t
        if !(lowExt || freeEntries x < pn + 4 * nn) then b
        else match s.mode, s.target, s.standby.filter (fun p => isMounted (b.port p).state) with
          | .single, true, some target => rollOver t s m target b
          | _, _, _ =>
            makeStop .mediaFull (postFull m (bit (!lowExt)) t b)) b

/-! ### LATCH_NOTICE_ONYX -/

/-- The last MAG_SET staged for this latch point takes effect; the others are SUPERSEDED (R272, R274, R277). -/
def applySet (frame : Nat) (b : Block) : Block :=
  let due := b.onyx.staged.filter (fun s => s.skip == 0)
  let b := b.modOnyx (fun o => { o with staged := (o.staged.filter (fun s => s.skip != 0)).map (fun s => { s with skip := s.skip - 1 }) })
  match due.getLast? with
  | none => b
  | some s =>
    let b := due.dropLast.foldl (fun b x => finishCtrl x.desc stSuperseded frameNone 0 0 b) b
    match setRefusal b s.set ((openTake b).isSome || b.opal.held.isSome || b.garnet.start.isSome) with
    | some c => finishCtrl s.desc stMagRefused frameNone 0 c b
    | none =>
      let old := b.onyx.set
      let same := old.any (fun o => o.mode == s.set.mode && o.members == s.set.members)
      let b := if same then b else if (openTake b).isNone then discardAnte b else b
      let b := b.modOnyx (fun o => { o with set := some s.set })
      let b := match old, openTake b with
        | some o, some t =>
          (o.members.zip s.set.members).foldl (fun b (a, c) =>
            if a = c then b
            else
              let b := closeClips a t.no (freeReason b) id { b with fresh := b.fresh + 1 }
              portMod c (fun p => { p with waitFor := some a }) b) b
        | _, _ => b
      finishCtrl s.desc stOk frame 0 0 (setStates b)

/-- A Take ends: its clips are to close, with its reason (R280). `last` is its last captured Frame; without one the last Frame
that it took from the Ante carries TAKE_LAST (09 R236). -/
def endOnyxTake (r : EndReason) (last : Option Nat) (b : Block) : Block :=
  match openTake b with
  | none => b
  | some t =>
    let b := match last, t.last with
      | none, some f => tellOpal f .lastOfTake b
      | _, _ => b
    let b := takeMod t.no (fun t => { t with ended := some r, last := last.or t.last }) b
    (List.range 4).foldl (fun b m => closeClips m t.no (reasonCode r) id b) b

/-- A Take starts (R277): held Frames join it before its first captured Frame, with ANTE set; the oldest carries
TAKE_FIRST. -/
def startOnyxTake (takeId frame : Nat) (b : Block) : Block :=
  let held := heldFrames b
  let t : OnyxTake := {
    no := b.onyx.takeCount, takeId, first := held.headD frame, lens := [], ended := none, stopMade := false
    fullPosted := [], last := held.getLast?, leadClip := none, part := 0 }
  let b := b.modOnyx (fun o => { o with takes := o.takes ++ [t], takeCount := o.takeCount + 1 })
  match b.onyx.set with
  | none => b
  | some s =>
    let b := held.foldl (fun b f => tellOpal f (.joined takeId (held.headD frame == f)) b) b
    (b.onyx.segs.filter (fun g => g.takeNo.isNone && g.outcome == .pending)).foldl (fun b g =>
      joinTake ((takeByNo b t.no).getD t) s g b) b

/-- Retention for every Segment of a Frame to be held, and the Segments with it; none when there is no room. -/
def tryHold (s : Snapshot) (set : MagSet) : List Dest → Block → Option Block
  | [], b => some b
  | d :: ds, b =>
    match reserve b d.segLen with
    | none => none
    | some a =>
      let b := tellOpal s.frame (.ante d.index true) (tellJade s.frame d.index (some a) b)
      tryHold s set ds (b.modOnyx (fun o => { o with segs := o.segs ++ [freshSegment s d a set none] }))

/-- No Destination of a Frame is held: NOT_RECORDED (09 R245). -/
def holdNone (s : Snapshot) (ds : List Dest) (b : Block) : Block := ds.foldl (fun b d => refuseDest s.frame d .notRecorded b) b

/-- Oldest held Frames make room for a new one, within the depth of the Ante. -/
def makeRoom (s : Snapshot) (set : MagSet) (ds : List Dest) : Nat → Block → Block
  | 0, b => holdNone s ds b
  | k + 1, b =>
    let held := heldFrames b
    let fits := held.isEmpty || held.length < anteDepth b
    match (if fits then tryHold s set ds b else none) with
    | some b => b
    | none =>
      match held with
      | f :: _ => makeRoom s set ds k (dropHeld .discarded b f)
      | [] => holdNone s ds b

/-- Hold a Frame in the Ante, or not (R277, 09 R245). -/
def holdFrame (s : Snapshot) (ds : List Dest) (b : Block) : Block :=
  match b.onyx.set with
  | some set => makeRoom s set ds 64 b
  | none => holdNone s ds b

/-- Held Frames beyond the depth are DISCARDED, all of them when the Ante is not armed (R277). -/
def trimAnte (b : Block) : Block :=
  if (openTake b).isSome then b
  else
    let keep := if armed b then anteDepth b else 0
    let l := heldFrames b
    (l.take (l.length - keep)).foldl (dropHeld .discarded) b

/-- Retention that the Segments of a Frame have taken. -/
def takenBy (b : Block) (frame : Nat) : Nat := ((b.onyx.segs.filter (fun g => g.frame == frame)).map (·.dest.segLen)).sum

/-- The magazine Destinations of a new Frame. The loads of R273 are those of the last Frame bound. -/
def bindMagazine (s : Snapshot) (ds : List Dest) (b : Block) : Block :=
  let lens := ds.map (·.segLen)
  let take := if s.take.isSome then openTake b else none
  let b := match take with | some t => takeMod t.no (fun t => { t with lens }) b | none => b
  if ds.isEmpty then b
  else if b.onyx.failed.contains s.frame then ds.foldl (fun b d => refuseDest s.frame d .failed b) b
  else match take with
    | some t =>
      let b := ds.foldl (fun b d => bindInTake ((takeByNo b t.no).getD t) s b d) b
      guardRetention (takenBy b s.frame) (checkFull t lens b)
    | none => if armed b && b.onyx.flush.isNone then holdFrame s ds b else holdNone s ds b

/-- Onyx binds its items at a latch point: the Take that ends, the set, the Take that starts, the Ante, and the magazine
Destinations `ds` of the Frame bound, if any (R272, R275 to R277, R280). -/
def bindInOnyx (n : LatchNotice) (ds : List Dest) (b : Block) : Block :=
  let b := match n.takeStop with | some (_, r, last) => endOnyxTake r last b | none => b
  let b := applySet n.frame b
  let b := match n.takeStart with | some id => startOnyxTake id n.frame b | none => b
  let b := trimAnte b
  match n.snap with
  | some s =>
    let b := if s.flags.takeStart && (openTake b).any (fun t => t.first != s.frame) then tellOpal s.frame .notFirst b else b
    bindMagazine s ds b
  | none => b

/-- The first `lost` latch notices on their way to Onyx are lost; the next one shows the gap (01 R16, 12 R330). -/
def missNoticesOnyx (lost : Nat) (b : Block) : Block :=
  if lost = 0 then b
  else
    let b := b.modCh (fun c => { c with noticeOnyx := c.noticeOnyx.drop lost })
    if gapSeen lost then eventGap .onyx b else b

/-- The Destination sets of Frames before `frame`, whose notices Onyx did not receive (log entry 90): nothing is retained. -/
def missedInOnyx (frame : Nat) (b : Block) : Block :=
  (b.ch.onyxDests.filter (fun e => e.1 < frame)).foldl
    (fun b e => (e.2.filter (·.magazine)).foldl (fun b d => refuseDest e.1 d .noBuffer b) b) b

/-- Onyx serves the latch notice at the front, once Opal has bound the Frame's Destination set. -/
def serveNoticeOnyx (b : Block) : Block :=
  match b.ch.noticeOnyx with
  | [] => b
  | n :: rest =>
    let pop (b : Block) : Block := b.modCh (fun c => { c with noticeOnyx := rest })
    match n.snap with
    | none => serveOnyx (bindInOnyx n [] (pop b))
    | some s =>
      match b.ch.onyxDests.find? (fun e => e.1 == s.frame) with
      | none => if b.ch.onyxDests.any (fun e => s.frame < e.1) then serveOnyx (bindInOnyx { n with snap := none } [] (pop b)) else b
      | some (_, ds) =>
        let b := missedInOnyx s.frame (pop b)
        let b := b.modCh (fun c => { c with onyxDests := c.onyxDests.filter (fun e => s.frame < e.1) })
        serveOnyx (bindInOnyx n (ds.filter (·.magazine)) b)

/-- LATCH_NOTICE_ONYX (R272, R275 to R277, R280). `lost` notices before this one were lost (01 R16). -/
def latchNoticeOnyx (lost : Nat) (b : Block) : Block :=
  if b.ch.noticeOnyx.length ≤ lost then b else serveNoticeOnyx (missNoticesOnyx lost b)

/-! ### Losing a magazine (R258, R261, R262, R283, R284) -/

/-- A share moves to port `c` and is written there afresh. -/
def rehomePart (g : OnyxSeg) (m c clip : Nat) (b : Block) : Block :=
  let b := osegMod g.frame g.dest.index (fun g => { g with
    rehomed := true
    parts := g.parts.map (fun p => if p.port = m ∧ !p.committed then { p with
      port := c, clip, rehomed := true, extent := none, issued := 0, completed := 0, committing := false } else p) }) b
  tellOpal g.frame (.rehomed g.dest.index) b

/-- Re-home the uncommitted share of a Segment from `m` to `c`, or give it up (R283). -/
def rehomeSeg (m c : Nat) (b : Block) (g : OnyxSeg) : Block :=
  match g.takeNo.bind (takeByNo b), g.parts.find? (fun p => p.port == m && !p.committed) with
  | some t, some p =>
    if g.released then giveOutcome g .mediaLost b
    else
      let member := if g.mode = .mirror2 then 0 else p.member
      match planClip c member g.mode true none t b with
      | (b, some clip) => rehomePart g m c clip b
      | (b, none) => giveOutcome g .mediaLost b
  | _, _ => b

/-- Segments with a share on port `m` that is not committed. -/
def lostSegs (b : Block) (m : Nat) : List OnyxSeg :=
  b.onyx.segs.filter (fun g => g.outcome == .pending && g.parts.any (fun p => p.port == m && !p.committed))

/-- A mirror's lost share is dropped; without another the Segment is MEDIA_LOST (R283). -/
def dropMirror (m : Nat) (b : Block) (g : OnyxSeg) : Block :=
  let l := g.parts.filter (fun p => !(p.port == m && !p.committed))
  if l.isEmpty then giveOutcome g .mediaLost b
  else osegMod g.frame g.dest.index (fun g => { g with parts := l }) b

/-- What becomes of a Segment whose share on the lost member `m` is not committed (R283): its own standby takes the share (01
R21; log entry 82) unless it already stands in for another, a mirror goes on without it, any other Segment is MEDIA_LOST.
`now` is the standby that takes the lost member's place. -/
def loseShare (m : Nat) (now : Option Nat) (b : Block) (g : OnyxSeg) : Block :=
  let free (c : Nat) : Bool := c != m && isMounted (b.port c).state && ((b.port c).state != .member || now == some c)
  let standby := if b.onyx.flush.isSome then none else g.standby.filter free
  match standby with
  | some c => rehomeSeg m c b g
  | none => if g.mode = .mirror2 then dropMirror m b g else giveOutcome g .mediaLost b

/-- The standby that takes a lost member's place opens a clip of the open Take with REHOME_TARGET (R283). -/
def standbyClip (m c : Nat) (s : MagSet) (b : Block) : Block :=
  match openTake b with
  | some t => (planClip c (if s.mode = .mirror2 then 0 else s.members.idxOf m) s.mode true none t b).1
  | none => b

/-- A member of the set in force is lost (R283, R284). Where nothing takes its place, member number 255 stands for it: it is
no longer present (R272). -/
def memberLost (m : Nat) (s : MagSet) (b : Block) : Block :=
  let standby := if b.onyx.flush.isSome then none else s.standby.filter (fun p => (b.port p).state == .standby)
  let hit := lostSegs b m
  match standby with
  | some c =>
    let b := standbyClip m c s b
    let s := { s with members := s.members.map (fun p => if p = m then c else p), standby := none }
    hit.foldl (loseShare m (some c)) (setStates (b.modOnyx (fun o => { o with set := some s })))
  | none =>
    let b := b.modOnyx (fun o => { o with set := some { s with members := s.members.map (fun p => if p = m then 255 else p) } })
    let left := s.mode == .mirror2 && s.members.any (fun p => p != m && isMounted (b.port p).state)
    let b := hit.foldl (loseShare m none) b
    if left then b else makeStop .setBroken b

/-- The test of R273 after a loss (R284). -/
def testLoad (b : Block) : Block :=
  match b.onyx.set with
  | some s => if loadOk b s then b else makeStop .bandwidth b
  | none => b

/-- A port outside the set in force is lost: shares of a member swapped out in the open Take go to the port now in its
place (R274); other shares left on it are lost. -/
def formerLost (m : Nat) (b : Block) : Block :=
  let b := match b.onyx.set with
    | some s => if s.standby = some m then b.modOnyx (fun o => { o with set := some { s with standby := none } }) else b
    | none => b
  (lostSegs b m).foldl (fun b g =>
    let heir := ((List.range 4).find? (fun c => (b.port c).waitFor == some m && isMounted (b.port c).state))
    if g.mode = .mirror2 && heir.isNone then dropMirror m b g
    else match heir with
      | some c => if b.onyx.flush.isNone then rehomeSeg m c b g else giveOutcome g .mediaLost b
      | none => giveOutcome g .mediaLost b) b

/-- MAG_QUERY descriptors that wait for a log page of a lost magazine complete NO_MEDIA. -/
def dropQueries (cmds : List NvmeCmd) (b : Block) : Block :=
  cmds.foldl (fun b c => match c.use with | .query d => finishCtrl d stNoMedia frameNone 0 0 b | _ => b) b

/-- The magazine on port `m` is lost: class 0 REMOVED or 1 FAILED, kind as in the table MAGAZINE event kinds. PERST# is
asserted, clock and lanes go off (19 R497). In a flush a clip open there stays open (14 R395). -/
def loseMagazine (m cls kind : Nat) (b : Block) : Block :=
  let p := b.port m
  if !isLive p.state then b
  else
    let b := cipherClear m b
    let b := portMod m (fun p => { clearedPort p with
      state := .lost, settled := false, losses := satAdd 65535 p.losses 1, timeouts := p.timeouts, errors := p.errors }) b
    let b := (b.onyx.segs.filter (fun g => g.parts.any (fun q => q.port == m && !q.committed))).foldl (fun b g =>
      tellOpal g.frame (.shareLost g.dest.index m) b) b
    let b := if p.clips.any (·.opened) then b.modOnyx (fun o => { o with flush := o.flush.map (fun f => { f with lost := true }) }) else b
    let b := magEvent m 4 [cls, kind] b
    let b := dropQueries p.cmds b
    let b := match b.onyx.set with
      | some s => if s.members.contains m then memberLost m s b else formerLost m b
      | none => formerLost m b
    serveOnyx (testLoad b)

/-- Class of a link-down (R262): REMOVED when nothing went wrong on the port in the 10 ms before. -/
def downClass (b : Block) (m : Nat) : Nat :=
  match (b.port m).troubleAt with
  | some t => if b.quartz.tb - t ≤ ownTicks b .onyx t 10240000 then 1 else 0
  | none => 0

/-- The link of port `m` goes down (R262, R283). -/
def linkDown (m : Nat) (b : Block) : Block :=
  if 4 ≤ m then b
  else
    let p := b.port m
    if isLive p.state then
      let b := logPcie (m + 1) 1 0 b
      loseMagazine m (downClass b m) 0 b
    else if p.state = .refused ∨ p.state = .training then
      portMod m (fun p => { clearedPort p with state := .empty }) (logPcie (m + 1) 1 0 b)
    else b

/-- MAGAZINE_LINK_DOWN (R262, R283): the link of port `m`, and in the same tick those of the ports in `also`; the lower port is
taken first. -/
def magazineLinkDown (m : Nat) (also : List Nat) (b : Block) : Block :=
  if replaying b then b
  else [0, 1, 2, 3].foldl (fun b k => if (m :: also).contains k then linkDown k b else b) b

/-- CMD_TIMEOUT (R261): not for the Asynchronous Event Request. -/
def cmdTimeout (m cid : Nat) (b : Block) : Block :=
  if 4 ≤ m then b
  else match (b.port m).cmds.find? (fun c => c.cid == cid) with
    | some c =>
      if c.use = .event then b
      else loseMagazine m 1 1 (trouble m (portMod m (fun p => { p with timeouts := satAdd (2 ^ 32 - 1) p.timeouts 1 }) b))
    | none => b

/-- A magazine on port `m` has violated its DMA window (R258). -/
def dmaViolation (m : Nat) (b : Block) : Block :=
  if 4 ≤ m || !isLive (b.port m).state then b else loseMagazine m 1 5 (logPcie (m + 1) 2 0 b)

/-- MAGAZINE_DMA_VIOLATION (R258). In Replay the recorded events of the ports count (12 R346). -/
def magazineDmaViolation (m : Nat) (b : Block) : Block := if replaying b then b else dmaViolation m b

/-! ### Completions (R261, R278) -/

/-- The health log of a poll or an event (R260, R265): HEALTH when the warning changes or the percentage used reaches 90
or 100, once the magazine is mounted; bits 2 and 3 lose the magazine. -/
def healthData (m : Nat) (data : List Byte) (b : Block) : Block :=
  let p := b.port m
  let b := portMod m (takeHealth data) b
  let q := b.port m
  let reach (v : Nat) : Bool := p.percent < v && v ≤ q.percent
  let b := if q.critical != p.critical && q.critical != 0 then trouble m b else b
  let b := if isMounted q.state && (q.critical != p.critical || reach 90 || reach 100) then postHealth m b else b
  if bitsOf q.critical 3 2 != 0 then loseMagazine m 1 4 b else b

/-- A MAG_QUERY ends with its page (08 R220, R290). -/
def answerQuery (desc : Nat) (page : List Byte) (b : Block) : Block :=
  match b.dispatched ctrlRing desc 0x0B with
  | some d =>
    if b.hostUp then
      finishCtrl desc stOk frameNone 0 0 (b.hostWrite (leAt d 24 8) ((page ++ leBytes 4096 0).take 4096))
    else b
  | none => b

/-- Bytes written in the 1 s window of the Time Base (R290). -/
def countBytes (tb n : Nat) (p : Port) : Port :=
  let w := tb / 1024000000
  if w = p.window then { p with winBytes := p.winBytes + n }
  else { p with window := w, lastBytes := if w = p.window + 1 then p.winBytes else 0, winBytes := n }

/-- A data Write of a share has completed. -/
def shareWritten (m f i k : Nat) (op : NvmeOp) (b : Block) : Block :=
  let n := match op with | .write _ d _ => cipherLen (dataLen d) | _ => 0
  let b := match op with | .write _ (.dram a _) _ => cipherFree m a b | _ => b
  let b := portMod m (countBytes b.quartz.tb n) b
  osegMod f i (fun g => { g with parts := g.parts.map (fun p =>
    if p.port = m ∧ p.member = k then { p with completed := p.completed + 1 } else p) }) b

/-- What a command that completed without error brings. -/
def completed (m : Nat) (c : NvmeCmd) (data : List Byte) (b : Block) : Block :=
  match c.use with
  | .serial => if (b.port m).state = .mounting then mountData m c.op data b else b
  | .share f i k => shareWritten m f i k c.op b
  | .health => healthData m data b
  | .query d => answerQuery d (data.take 512) (healthData m data b)
  | .errorLog => b
  | .event =>
    let b := trouble m b
    readLog m .getSmart .health (readLog m .getErrorLog .errorLog (issueCmd m .asyncEvent .event false b))

/-- NVME_COMPLETION (R260, R261): port, CID, status field (SC and SCT in bits 10 to 0, Do Not Retry in bit 14), SQHD
and the data returned. In Replay live completions are ignored (12 R346). -/
def takeCompletion (m cid status sqhd : Nat) (data : List Byte) (b : Block) : Block :=
  if 4 ≤ m then b
  else match (b.port m).cmds.find? (fun c => c.cid == cid) with
    | none => b
    | some c =>
      let b := b.logEvr .onyx 0x09 (leBytes 1 m ++ leBytes 1 (bit (isIo c.op)) ++ leBytes 2 cid ++ leBytes 2 status ++ leBytes 2 sqhd)
      let b := portMod m (fun p => { p with cmds := p.cmds.filter (fun c => c.cid != cid) }) b
      if status % 2048 = 0 then readWaiting m (serveOnyx (completed m c data b))
      else
        let b := trouble m (portMod m (fun p => { p with errors := satAdd (2 ^ 32 - 1) p.errors 1 }) b)
        if c.retried || bitOf status 14 then loseMagazine m 1 2 b
        else
          let b := issueCmd m c.op c.use true b
          if c.use = .errorLog then b else readLog m .getErrorLog .errorLog b

/-- NVME_COMPLETION. -/
def nvmeCompletion (m cid status sqhd : Nat) (data : List Byte) (b : Block) : Block :=
  if replaying b then b else takeCompletion m cid status sqhd data b

/-- SMART_POLL (R260): every 10 s. -/
def smartPoll (b : Block) : Block :=
  (List.range 4).foldl (fun b m =>
    if isMounted (b.port m).state && !(b.port m).cmds.any (fun c => c.use == .health) then
      readLog m .getSmart .health b
    else b) b

/-- CONTROLLER_STATUS_CHANGE (R261, R263, R286): CSTS as read. -/
def controllerStatusChange (m csts : Nat) (b : Block) : Block :=
  if 4 ≤ m || !isLive (b.port m).state then b
  else if bitOf csts 1 then loseMagazine m 1 3 (trouble m b)
  else
    let b := if bitOf csts 0 && (b.port m).state = .mounting && (b.port m).mount = .reset then
        addSteps m [.stage .controller, .cmd .identifyController] b
      else b
    let b := if bitsOf csts 3 2 = 2 && (b.port m).shn then portMod m (fun p => { p with shutDone := true }) b else b
    serveOnyx b

/-! ### MAG_QUERY (R290) -/

/-- The CFS summary page. -/
def summaryPage (b : Block) (m : Nat) : List Byte :=
  let p := b.port m
  let (role, member) := match b.onyx.set with
    | some s =>
      match s.members.zipIdx.find? (fun (q, _) => q == m) with
      | some (_, k) => (1, if s.mode = .mirror2 then 0 else k)
      | none => if s.standby = some m then (if s.target then 3 else 2, 0) else (0, 0)
    | none => (0, 0)
  let measured := if b.quartz.tb / 1024000000 = p.window then p.lastBytes
    else if b.quartz.tb / 1024000000 = p.window + 1 then p.winBytes else 0
  let store := match p.media with
    | some x => leBytes 1 x.cfs ++ leBytes 4 x.clipNext ++ x.uid ++ leBytes 8 x.nsLbas ++ leBytes 4 (freeExtents x) ++
        leBytes 4 (freeEntries x)
    | none => leBytes 37 0
  leBytes 1 (portCode p.state) ++ leBytes 1 role ++ leBytes 1 member ++ store ++
    leBytes 8 (p.lastDurable.getD frameNone) ++ leBytes 8 (backlog b m) ++ leBytes 4 (measured * 8 / 100000000) ++
    leBytes 1 p.critical ++ leBytes 1 p.percent ++ leBytes 2 p.kelvin ++ leBytes 4 p.timeouts ++ leBytes 4 p.errors ++
    leBytes 8 (match p.clips with | c :: _ => if c.opened then c.rec_.clipNo else frameNone | [] => frameNone)

/-- MAG_QUERY (08, MAG_QUERY body; R290). -/
def magQuery (desc : Nat) (b : Block) : Block :=
  match b.dispatched ctrlRing desc 0x0B with
  | none => b
  | some d =>
    let m := leAt d 16 1
    let page := leAt d 17 1
    let len := leAt d 20 4
    if 3 < m then finishCtrl desc stMalformed frameNone 0 16 b
    else if 3 < page then finishCtrl desc stMalformed frameNone 0 17 b
    else if badLength len then finishCtrl desc stMalformed frameNone 0 20 b
    else if misaligned (leAt d 24 8) 64 then finishCtrl desc stMalformed frameNone 0 24 b
    else if len < 4096 then finishCtrl desc stOversize frameNone 4096 0 b
    else
      let p := b.port m
      if p.state = .empty ∨ p.state = .training ∨ p.state = .lost then finishCtrl desc stNoMedia frameNone 0 0 b
      else if page = 2 ∧ isLive p.state then
        if p.cmds.any (fun c => c.use == .query desc) || adminLimit ≤ adminOut p then b
        else issueCmd m .getSmart (.query desc) false b
      else
        answerQuery desc (if page = 0 then p.controllerPage else if page = 1 then p.namespacePage
          else if page = 3 then summaryPage b m else []) b

/-! ### Segments (R278, 12 R331) -/

/-- Segments of a Frame in retention. -/
def osegsOf (b : Block) (frame : Nat) : List OnyxSeg := b.onyx.segs.filter (fun g => g.frame == frame)

/-- Onyx fails its share of a Frame: the magazine Destinations, now and when they come (12 R327). -/
def failInOnyx (frame : Nat) (m : BitVec 16) (b : Block) : Block :=
  let b := noteFailed .onyx frame (b.modOnyx (fun o => { o with failed := withFrame frame o.failed }))
  (osegsOf b frame).foldl (fun b g => failShare g m b) b

/-- The failed item of a Frame reaches Onyx (12 R326): with FAILSTOP its Segments fail; otherwise Garnet has decided its
Destinations, and the Segments leave retention (09 R246). -/
def failedToken (t : SegToken) (b : Block) : Block :=
  if hasMark t.marks markFailStop then failInOnyx t.frame t.marks b
  else (osegsOf b t.frame).foldl (fun b g => dropSegment g (strikeEntries g b)) b

/-- A Segment Stripe is in retention; the header comes last (R278). -/
def takeStripe (t : SegToken) (g : OnyxSeg) (ecc : Ecc) (b : Block) : Block :=
  let header := if t.header then b.dramRead g.addr 128 else g.header
  let b := b.modCh (fun c => { c with kept := { c.kept with spinelOnyx := keepOnce t c.kept.spinelOnyx } })
  let b := eccCount .onyx t.frame ecc b
  let b := osegMod t.frame t.index (fun g => { g with whole := g.whole || t.header, header }) b
  let map := if t.header then leAt header 56 24 else tokenMap t
  let b := tellOpal t.frame (.segment t.index t.marks map (if t.header then 2 else 1)) b
  match ecc, osegGet b t.frame t.index with
  | .ue, some g => failShare g markDramUe b
  | _, _ => b

/-- MAGAZINE_STRIPE_TOKEN: a Segment Stripe is in retention; `ecc` is what reading it for its Writes found. A failed item waits
until its Frame's latch notice has been served. -/
def magazineStripeToken (ecc : Ecc) (b : Block) : Block :=
  match b.ch.spinelOnyx with
  | [] => b
  | t :: rest =>
    if !b.accepts .onyx t.sent then b
    else if t.isFailed && b.ch.noticeOnyx.any (fun n => n.snap.any (fun s => s.frame == t.frame)) then b
    else
      let b := retireToken t (b.modCh (fun c => { c with spinelOnyx := rest }))
      if t.isFailed then serveOnyx (failedToken t b)
      else match osegGet b t.frame t.index with
        | none => b
        | some g => serveOnyx (takeStripe t g ecc b)

/-- SHARE_ENCRYPTION_REQUEST (11 R304): Spinel encrypts the part into its chunk of the port's cipher area, and Onyx issues its
Write from there. Without the Frame's key the request waits (11 R302). -/
def shareEncryptionRequest (b : Block) : Block :=
  match b.ch.onyxSpinel with
  | [] => b
  | r :: rest =>
    match (if b.accepts .spinel r.sent then encryptPart b r else none) with
    | none => b
    | some v =>
      let b := (b.modCh (fun c => { c with onyxSpinel := rest })).dramWrite r.dst v
      serveOnyx (issueCmd r.port (.write r.lba (.dram r.dst v.length) false) (.share r.frame r.index r.member) false b)

/-- EXPIRY_REQUEST (09 R244): DONE or PARTIAL when the Segment is durable, else EXPIRED. While a commit that holds a
share of it is outstanding the request waits (log entry 25). -/
def expiryRequest (b : Block) : Block :=
  match b.ch.expiry with
  | [] => b
  | (f, i) :: rest =>
    let pop (b : Block) : Block := b.modCh (fun c => { c with expiry := rest })
    match osegGet b f i with
    | none => if b.ch.onyxOpal.any (fun m => m.frame == f && m.index == i) then pop b else
        (pop b).modCh (fun c => { c with onyxOpal := c.onyxOpal ++ [{
          frame := f, index := i, outcome := .expired, ports := 0, rehomed := false, marks := 0, stripeMap := 0 }] })
    | some g =>
      if g.outcome != .pending then pop b
      else if durable g then serveOnyx (giveOutcome g (durableOutcome g) (pop b))
      else if g.parts.any (·.committing) then b
      else serveOnyx (giveOutcome g .expired (pop b))

/-! ### MAG_CTRL (R289) -/

/-- MAG_CTRL acts: CONFIRM is 0xA5. -/
def magConfirmed (b : Block) (w : Word) : Bool := b.bar0 && b.alive .onyx && bitsOf w.toNat 15 8 == 0xA5

/-- REINIT: the port's next mount initialises (R264). -/
def reinit (w : Word) (b : Block) : Block :=
  if magConfirmed b w && bitOf w.toNat 16 then portMod (bitsOf w.toNat 1 0) (fun p => { p with reinit := true }) b else b

/-- RETRAIN: the link goes down and the port mounts again; ignored for a member or standby in force (R289). While
Onyx is uncommitted no port trains, and the port stays EMPTY (18 R463). -/
def retrain (w : Word) (b : Block) : Block :=
  let m := bitsOf w.toNat 1 0
  let inForce := b.onyx.set.any (fun s => s.members.contains m || s.standby == some m)
  if !magConfirmed b w || !bitOf w.toNat 17 || inForce then b
  else if (b.port m).state = .empty then b
  else
    let old := (b.port m).cmds
    let b := cipherClear m b
    let b := dropQueries old (portMod m (fun p => { clearedPort p with
      state := if b.committed .onyx then .training else .empty }) b)
    serveOnyx (formerLost m b)

/-! ### Power (R286, 14 R393, R394, 15 R412, 19 R497) -/

/-- MAGAZINE_POWER_SETTLED (19 R497). -/
def magazinePowerSettled (m : Nat) (b : Block) : Block :=
  if m < 4 && vget b.topaz.pwr.magpwr m false then portMod m (fun p => { p with settled := true }) b else b

/-- A flush starts: the Ante is discarded, and Topaz is told which ports to keep powered (R286, R393, R413). -/
def startFlush (r : EndReason) (ms : Nat) (b : Block) : Block :=
  let members := match b.onyx.set with | some s => s.members.filter (fun m => isMounted (b.port m).state) | none => []
  let b := b.modCh (fun c => { c with keepPowered := c.keepPowered ++ [members] })
  if b.onyx.flush.isSome then b
  else serveOnyx ((discardAnte b).modOnyx (fun o => { o with
    flush := some { reason := r, since := b.quartz.tb, ms, cut := false, lost := false, reported := false } }))

/-- ONYX_POWER_LOSS (R286, 14 R393). A loss during a shutdown runs as one flush, whose deadline counts from the loss (15 R412;
14, table Coincidences during a flush). -/
def onyxPowerLoss (b : Block) : Block :=
  match b.ch.topazOnyx with
  | .loss ms :: rest =>
    let b := b.modCh (fun c => { c with topazOnyx := rest })
    let b := b.modOnyx (fun o => { o with
      flush := o.flush.map (fun f => { f with reason := .powerLoss, since := b.quartz.tb, ms }) })
    startFlush .powerLoss ms b
  | _ => b

/-- SHUT_MS, ms (15 R419). -/
def shutMs (b : Block) : Nat := min 10000 (max 1000 (b.field 0x9014 13 0))

/-- ONYX_SHUTDOWN (15 R412; after a FATAL fault, 12 R329). -/
def onyxShutdown (b : Block) : Block :=
  match b.ch.topazOnyx with
  | .shutdown :: rest =>
    startFlush (if b.topaz.fatal then .islandFault else .shutdown) (shutMs b) (b.modCh (fun c => { c with topazOnyx := rest }))
  | _ => b

/-- FLUSH_WRITE_DEADLINE (14 R394, 15 R412), 600 ms before the deadline: no share Write follows; Segments with a share not
committed are MEDIA_LOST, but for those whose every such share has its commit outstanding (log entry 25). -/
def flushWriteDeadline (b : Block) : Block :=
  match b.onyx.flush with
  | none => b
  | some f =>
    if f.cut then b
    else
      let b := b.advance (f.since + ownTicks b .onyx f.since (1024000 * (f.ms - 600)))
      let b := b.modOnyx (fun o => { o with flush := some { f with cut := true } })
      let b := endOnyxTake f.reason none b
      let late := b.onyx.segs.filter (fun g =>
        g.outcome == .pending && g.takeNo.isSome && !durable g && !g.parts.all (fun p => p.committed || p.committing))
      serveOnyx (late.foldl (fun b g => giveOutcome g .mediaLost b) b)

/-- What Onyx does in a flush once Opal has the outcome that Garnet gives a Frame (09 R246): the Frame's Segments leave
retention, and every port goes on to the close of its clip and its shutdown (R280, R286). Outside a flush the next latch
notice finds it. -/
def onyxGoesOn (b : Block) : Block :=
  if b.onyx.flush.isNone || !b.alive .onyx then b
  else [0, 1, 2, 3].foldl (fun b m => pumpPort m ((b.port m).steps.length + 24) b) (settleSegs (takeDecided b))

/-- GARNET_OUTCOME, with what follows from it in Onyx (09 R246, R286). -/
def garnetDecides (b : Block) : Block := if b.ch.garnetOpal.isEmpty then b else onyxGoesOn (garnetOutcome b)

/-- SHUTDOWN_WAIT_TIMEOUT (R286): 500 ms have passed since CC.SHN was set. -/
def shutdownWaitTimeout (b : Block) : Block := tryReport true b

end Sys2Proof.Machine
end

