-- ==== Sys2Proof/Machine/Agate.lean ====
section
/-! DEFINITION. The Pin Sequencers: engines and their instructions, pins, queues and transfers, flags and triggers,
Cadence waits, gangs (13 R352 to R377; 04 R100; 08 R219; 18 R476, R477). -/

namespace Sys2Proof.Machine

/-! ### Engines and their settings -/

/-- Nothing seen yet. -/
def blankSample : Sample := {
  pins := .replicate 16 false, flags := .replicate 8 false, tx := 0, rx := 0, outValid := false, inValid := false, trig := false
  latches := .replicate 32 false }

/-- A halted engine with nothing in it, as reset leaves it (R352, R374). -/
def blankEngine : Engine := {
  pc := 0, c := 0, v := 0, so := 0, soLeft := 0, si := 0, siCount := 0, tx := [], rx := [], latches := .replicate 32 false
  en := false, err := .none_, stall := .none_, word := 0, sample := blankSample, first := true, miss := 0 }

/-- Engine `n`. -/
def Block.engine (b : Block) (n : Nat) : Engine := vget b.agate.eng n blankEngine

/-- Change engine `n`. -/
def engMod (n : Nat) (f : Engine → Engine) (b : Block) : Block :=
  b.modAgate (fun a => { a with eng := vset a.eng n (f (b.engine n)) })

/-- Engine `n` is ganged (R371). -/
def ganged (b : Block) (n : Nat) : Bool := if n < 4 then b.agate.gangLo else b.agate.gangHi

/-- The engine whose settings serve engine `n`, and the engines that it leads. -/
def leader (b : Block) (n : Nat) : Nat := if ganged b n then n / 4 * 4 else n
def crew (b : Block) (n : Nat) : List Nat := if ganged b n then (List.range 4).map (· + n / 4 * 4) else [n]

/-- SQn_FLOW: START, WRAP_BOTTOM, WRAP_TOP, TEST_PIN. An address above the store acts as its top (R376). -/
def flowStart (b : Block) (n : Nat) : Nat := b.field (0x8104 + 32 * n) 5 0
def wrapBottom (b : Block) (n : Nat) : Nat := min 47 (b.field (0x8104 + 32 * n) 13 8)
def wrapTop (b : Block) (n : Nat) : Nat := min 47 (b.field (0x8104 + 32 * n) 21 16)
def testPin (b : Block) (n : Nat) : Nat := b.field (0x8104 + 32 * n) 27 24

/-- SQn_MAP: OW_BASE, OW_WIDTH, IW_BASE, SIDE_BASE, SIDE_COUNT, SIDE_MODE. -/
def owBase (b : Block) (n : Nat) : Nat := b.field (0x8108 + 32 * n) 3 0
def owWidth (b : Block) (n : Nat) : Nat := min 16 (b.field (0x8108 + 32 * n) 8 4)
def iwBase (b : Block) (n : Nat) : Nat := b.field (0x8108 + 32 * n) 15 12
def sideBase (b : Block) (n : Nat) : Nat := b.field (0x8108 + 32 * n) 19 16
def sideCount (b : Block) (n : Nat) : Nat := b.field (0x8108 + 32 * n) 21 20
def sideToggle (b : Block) (n : Nat) : Bool := b.field (0x8108 + 32 * n) 22 22 == 1

/-- SQn_QUEUE: SI_LSB, SO_LSB, and the depths that QJOIN sets (R364). -/
def siLsb (b : Block) (n : Nat) : Bool := b.field (0x810C + 32 * n) 0 0 == 1
def soLsb (b : Block) (n : Nat) : Bool := b.field (0x810C + 32 * n) 1 1 == 1
def qJoin (b : Block) (n : Nat) : Nat := b.field (0x810C + 32 * n) 3 2
def txDepth (b : Block) (n : Nat) : Nat := if qJoin b n = 1 then 8 else if qJoin b n = 2 then 0 else 4
def rxDepth (b : Block) (n : Nat) : Nat := if qJoin b n = 1 then 0 else if qJoin b n = 2 then 8 else 4

/-- Registers of a gang (R372). -/
def blankGang : GangRegs := { out := .replicate 4 0, in_ := .replicate 4 0, outValid := false, inValid := false }
def gangRegs (b : Block) (n : Nat) : GangRegs := vget b.agate.gang (n / 4) blankGang
def gangMod (g : Nat) (f : GangRegs → GangRegs) (b : Block) : Block :=
  b.modAgate (fun a => { a with gang := vset a.gang g (f (vget a.gang g blankGang)) })

/-! ### Pins (R360 to R363, 18 R476) -/

/-- GIO_MUXp.FUNC: 0 SEQ, 1 STROBE, else OFF. -/
def muxFunc (b : Block) (p : Nat) : Nat := b.field (0x8400 + 4 * p) 1 0

/-- The level that engines read at pin `p` now. -/
def pinLevel (b : Block) (p : Nat) : Bool :=
  if 2 ≤ muxFunc b p then false
  else vget b.agate.seen p false != (b.field (0x8200 + 4 * p) 2 2 == 1)

/-- The level that the block drives on pad `p`, none where it drives none (R360, R363; 18 R476): an engine's output, or for STROBE
that of STROBE_OUT[SEL], whose edge it shows 40 to 46 ticks later. -/
def padDriven (b : Block) (p : Nat) : Option Bool :=
  let inv := b.field (0x8200 + 4 * p) 3 3 == 1
  match muxFunc b p with
  | 0 => if vget b.agate.dir p false then some (vget b.agate.level p false != inv) else none
  | 1 => some (strobeLevel (b.strobe (b.field (0x8400 + 4 * p) 3 2)) != inv)
  | _ => none

/-- What the cycle in progress of engine `n` sees at pin `p` (R354). -/
def pinSeen (b : Block) (n p : Nat) : Bool := vget (b.engine n).sample.pins p false

/-- PINS through engine `n`'s input window (R358). -/
def readPins (b : Block) (n : Nat) : Word := BitVec.ofNat 32 (bitsWhere 16 (fun i => pinSeen b n ((iwBase b n + i) % 16)))

/-- Engine `n` writes a pin's level at the end of the cycle; the highest-numbered engine's value holds (R362). -/
def putLevel (n p : Nat) (v : Bool) (b : Block) : Block :=
  if muxFunc b p != 0 || (vget b.agate.cycLevelBy p none).any (fun k => n < k) then b
  else b.modAgate (fun a => { a with level := vset a.level p v, cycLevelBy := vset a.cycLevelBy p (some n) })

/-- Engine `n` writes a pin's direction. -/
def putDir (n p : Nat) (v : Bool) (b : Block) : Block :=
  if muxFunc b p != 0 || (vget b.agate.cycDirBy p none).any (fun k => n < k) then b
  else b.modAgate (fun a => { a with dir := vset a.dir p v, cycDirBy := vset a.cycDirBy p (some n) })

/-- Write `count` bits of a value to pins from a base. -/
def putBits (put : Nat → Bool → Block → Block) (base count : Nat) (v : Word) (b : Block) : Block :=
  (List.range count).foldl (fun b i => put ((base + i) % 16) (v.getLsbD i) b) b

/-- Pin writes of OUT, MOV and SET: the first `count` bits through engine `n`'s output window. -/
def writePins (n count : Nat) (v : Word) (b : Block) : Block := putBits (putLevel n) (owBase b n) (min count (owWidth b n)) v b
def writeDirs (n count : Nat) (v : Word) (b : Block) : Block := putBits (putDir n) (owBase b n) (min count (owWidth b n)) v b

/-- Side-set (R361), with the leader's settings; `by_` is the engine whose number it carries. -/
def sideSet (lead by_ side : Nat) (b : Block) : Block :=
  (List.range (sideCount b lead)).foldl (fun b i =>
    let p := (sideBase b lead + i) % 16
    if !sideToggle b lead then putLevel by_ p (bitOf side i) b
    else if bitOf side i then putLevel by_ p (!(vget b.agate.cycLevel p false)) b
    else b) b

/-! ### Decoding (R356 to R358) -/

/-- The instruction types of R357. -/
def opOf (w : Half) : Nat := bitsOf w.toNat 15 12
def sel (w : Half) : Nat := bitsOf w.toNat 11 9

/-- COUNT; 0 means 32. -/
def countOf (w : Half) : Nat := if bitsOf w.toNat 7 3 = 0 then 32 else bitsOf w.toNat 7 3

/-- A reserved opcode, or a reserved value in a selector field (R356, R358). -/
def badOp (w : Half) : Bool :=
  match opOf w with
  | 0x2 => [3, 4, 6].contains (sel w)
  | 0x3 => sel w == 5
  | 0x6 => sel w == 7 || bitsOf w.toNat 6 4 == 6
  | 0x7 => 5 ≤ sel w
  | n => 0xA ≤ n

/-- Bits in reverse order, and bytes in reverse order. -/
def revBits (v : Word) : Word := BitVec.ofNat 32 (bitsWhere 32 (fun i => v.getLsbD (31 - i)))
def revBytes (v : Word) : Word := BitVec.ofNat 32 (leNat (leBytes 4 v.toNat).reverse)

/-- MOV's operation. -/
def movOp (k : Nat) (v : Word) : Word :=
  match k with
  | 0 => v
  | 1 => ~~~v
  | 2 => revBits v
  | _ => revBytes v

/-- Flags as engine `n` saw them at the start of its cycle. -/
def flagSeen (b : Block) (n i : Nat) : Bool := vget (b.engine n).sample.flags i false

/-- TX held a word, or a gang's OUT_VALID was set, at the start of the cycle (R365, R371). -/
def txReady (b : Block) (n : Nat) : Bool :=
  let s := (b.engine n).sample
  if ganged b n then s.outValid else 0 < s.tx && txDepth b n != 0

/-- STATUS (R358, R372). -/
def statusWord (b : Block) (n : Nat) : Word :=
  let e := b.engine n
  let s := e.sample
  let q := if ganged b n then bit s.outValid + 2 * bit s.inValid else s.tx + 16 * s.rx
  BitVec.ofNat 32 (q + 256 * bitsWhere 8 (flagSeen b n) + 2 ^ 16 * e.soLeft + 2 ^ 22 * e.siCount)

/-- Source of IN (R358). -/
def inSource (b : Block) (n code : Nat) : Word :=
  let e := b.engine n
  match code with
  | 0 => e.c
  | 1 => e.v
  | 2 => readPins b n
  | 5 => e.so
  | _ => 0

/-- Source of MOV (R358). -/
def movSource (b : Block) (n code : Nat) : Word :=
  let e := b.engine n
  match code with
  | 0 => e.c
  | 1 => e.v
  | 2 => readPins b n
  | 3 => statusWord b n
  | 4 => e.si
  | 5 => e.so
  | _ => 0

/-- The low `n` bits of a word. -/
def lowBits (n : Nat) (v : Word) : Word := BitVec.ofNat 32 (v.toNat % 2 ^ n)

/-- OUT's value and what SO keeps (R359). -/
def shiftOut (lsb : Bool) (n : Nat) (so : Word) : Word × Word :=
  if lsb then (lowBits n so, so >>> n) else (so >>> (32 - n), so <<< n)

/-- IN's effect on SI (R359). -/
def shiftIn (lsb : Bool) (n : Nat) (si v : Word) : Word :=
  let v := lowBits n v
  if lsb then (si >>> n) ||| (v <<< (32 - n)) else (si <<< n) ||| v

/-! ### What an instruction does on one engine -/

/-- IN. -/
def doIn (w : Half) (n : Nat) (b : Block) : Block :=
  let v := inSource b n (sel w)
  engMod n (fun e => { e with si := shiftIn (siLsb b n) (countOf w) e.si v, siCount := min 32 (e.siCount + countOf w) }) b

/-- OUT; PC is the gang's, set by its leader. -/
def doOut (w : Half) (n : Nat) (b : Block) : Block :=
  let k := countOf w
  let e := b.engine n
  let (v, so) := shiftOut (soLsb b n) k e.so
  let b := engMod n (fun e => { e with so, soLeft := e.soLeft - k }) b
  match sel w with
  | 0 => engMod n (fun e => { e with c := v }) b
  | 1 => engMod n (fun e => { e with v }) b
  | 2 => writePins n k v b
  | 3 => writeDirs n k v b
  | 4 => engMod n (fun e => { e with si := v, siCount := k }) b
  | _ => b

/-- MOV. -/
def doMov (w : Half) (n : Nat) (b : Block) : Block :=
  let v := movOp (bitsOf w.toNat 8 7) (movSource b n (bitsOf w.toNat 6 4))
  match sel w with
  | 0 => engMod n (fun e => { e with c := v }) b
  | 1 => engMod n (fun e => { e with v }) b
  | 2 => writePins n 16 v b
  | 3 => writeDirs n 16 v b
  | 4 => engMod n (fun e => { e with si := v, siCount := 0 }) b
  | 5 => engMod n (fun e => { e with so := v, soLeft := 32 }) b
  | _ => b

/-- SET. -/
def doSet (w : Half) (lead n : Nat) (b : Block) : Block :=
  let v := BitVec.ofNat 32 (bitsOf w.toNat 8 3)
  match sel w with
  | 0 => engMod n (fun e => { e with c := v }) b
  | 1 => engMod n (fun e => { e with v }) b
  | 2 => writePins n 6 v b
  | 3 => writeDirs n 6 v b
  | 4 => putBits (putDir n) (sideBase b lead) (sideCount b lead) v b
  | _ => b

/-- PUSH of an engine with queues. -/
def doPush (n : Nat) (b : Block) : Block :=
  engMod n (fun e => { e with rx := e.rx ++ [e.si], si := 0, siCount := 0 }) b

/-- PUSH of a gang (R372). -/
def gangPush (g : Nat) (b : Block) : Block :=
  let w (m : Nat) : Word := (b.engine (4 * g + m)).si
  let b := gangMod g (fun r => { r with in_ := #v[w 0, w 1, w 2, w 3], inValid := true }) b
  (List.range 4).foldl (fun b m => engMod (4 * g + m) (fun e => { e with si := 0, siCount := 0 }) b) b

/-- PULL of an engine with queues. -/
def doPull (n : Nat) (b : Block) : Block :=
  engMod n (fun e => { e with so := e.tx.headD 0, soLeft := 32, tx := e.tx.drop 1 }) b

/-- PULL of a gang (R372). -/
def gangPull (g : Nat) (b : Block) : Block :=
  let r := vget b.agate.gang g blankGang
  let b := gangMod g (fun r => { r with outValid := false }) b
  (List.range 4).foldl (fun b m => engMod (4 * g + m) (fun e => { e with so := vget r.out m 0, soLeft := 32 }) b) b

/-- Raise or drop a flag at the end of the cycle; a raise wins (R367). -/
def raiseFlag (i : Nat) (b : Block) : Block :=
  b.modAgate (fun a => { a with flags := vset a.flags i true, cycRaised := vset a.cycRaised i true })
def dropFlag (i : Nat) (b : Block) : Block :=
  b.modAgate (fun a => if vget a.cycRaised i false then a else { a with flags := vset a.flags i false })

/-- The level that WAIT looks at. -/
def waitLevel (b : Block) (n : Nat) (w : Half) : Bool :=
  let i := bitsOf w.toNat 6 3
  match bitsOf w.toNat 10 9 with
  | 0 => pinSeen b n i
  | 1 => flagSeen b n (i % 8)
  | 2 => (b.engine n).sample.trig
  | _ => txReady b n

/-- The condition of a JMP, with C as DJNZ leaves it (R357). -/
def jumps (b : Block) (n : Nat) (w : Half) : Bool :=
  let e := b.engine n
  match sel w with
  | 0 => true
  | 1 => e.c == 0
  | 2 => e.c - 1 != 0
  | 3 => e.c == e.v
  | 4 => pinSeen b n (testPin b n)
  | 5 => !pinSeen b n (testPin b n)
  | 6 => 0 < e.soLeft
  | _ => txReady b n

/-- Why the instruction stalls, if it does (R357, R369, R371). -/
def stallOf (b : Block) (n : Nat) (w : Half) : StallCause :=
  let e := b.engine n
  match opOf w with
  | 0x1 => if waitLevel b n w == bitOf w.toNat 11 then .none_ else .wait
  | 0x4 => if (if ganged b n then e.sample.inValid else decide (rxDepth b n ≤ e.sample.rx)) then .push else .none_
  | 0x5 => if txReady b n then .none_ else .pull
  | 0x8 => if bitsOf w.toNat 11 10 = 2 && !flagSeen b n (bitsOf w.toNat 5 3) then .flag else .none_
  | 0x9 =>
    if (bitOf w.toNat 11 && e.first) || !(vget e.sample.latches (bitsOf w.toNat 7 3) false) then .cad else .none_
  | _ => .none_

/-- The address that an instruction jumps to, if it jumps (R355, R356). -/
def jumpTo (b : Block) (n : Nat) (w : Half) : Option Nat :=
  match opOf w with
  | 0x0 => if jumps b n w then some (bitsOf w.toNat 8 3) else none
  | 0x3 => if sel w = 6 then some (shiftOut (soLsb b n) (countOf w) (b.engine n).so).1.toNat else none
  | 0x6 => if sel w = 6 then some (movOp (bitsOf w.toNat 8 7) (movSource b n (bitsOf w.toNat 6 4))).toNat else none
  | _ => none

/-- What a completing instruction does before the side-set. -/
def execute (w : Half) (n : Nat) (b : Block) : Block :=
  let all := crew b n
  match opOf w with
  | 0x0 => if sel w = 2 then all.foldl (fun b m => engMod m (fun e => { e with c := e.c - 1 }) b) b else b
  | 0x2 => all.foldl (fun b m => doIn w m b) b
  | 0x3 => all.foldl (fun b m => doOut w m b) b
  | 0x4 => if ganged b n then gangPush (n / 4) b else doPush n b
  | 0x5 => if ganged b n then gangPull (n / 4) b else doPull n b
  | 0x6 => all.foldl (fun b m => doMov w m b) b
  | 0x7 => all.foldl (fun b m => doSet w n m b) b
  | 0x8 =>
    let i := bitsOf w.toNat 5 3
    match bitsOf w.toNat 11 10 with
    | 0 => raiseFlag i b
    | 1 => dropFlag i b
    | 2 => dropFlag i b
    | _ => (b.modCh (fun c => { c with agateGarnet := c.agateGarnet ++ [.flag] })).modAgate (fun a => { a with
        cycTrigs := a.cycTrigs + 1 })
  | 0x9 => engMod n (fun e => { e with latches := vset e.latches (bitsOf w.toNat 7 3) false }) b
  | _ => b

/-! ### The engine cycle (R354, R355) -/

/-- The engines halt with ERR set (R356). -/
def haltErr (n : Nat) (e : EngineErr) (b : Block) : Block :=
  (crew b n).foldl (fun b m => engMod m (fun x => { x with en := false, err := e, stall := .none_ }) b) b

/-- PC after an instruction that completed. -/
def nextPc (b : Block) (n pc : Nat) : Option Nat → Nat
  | some a => a
  | none => if pc = wrapTop b n then wrapBottom b n else (pc + 1) % 48

/-- Engine `n` runs, and is not led by another (R371). -/
def runs (b : Block) (n : Nat) : Bool := n < 8 && (b.engine n).en && leader b n == n

/-- What an engine cycle that begins now sees. -/
def takeSample (b : Block) (n : Nat) : Sample :=
  let e := b.engine n
  { pins := .ofFn (fun p => pinLevel b p.val), flags := b.agate.flags, tx := e.tx.length, rx := e.rx.length
    outValid := (gangRegs b n).outValid, inValid := (gangRegs b n).inValid, trig := b.agate.trigLevel, latches := e.latches }

/-- An engine cycle of engine `n`, or of its gang, begins (R354, R369): its word is fetched, CAD NEXT clears its latch at the start
of its first cycle, and what the cycle sees is taken. A word other than the one that stalls there is a new instruction (R366). -/
def startCycle (n : Nat) (b : Block) : Block :=
  if !runs b n then b
  else
    let w := vget b.agate.store (b.engine n).pc 0
    let first := (b.engine n).stall == .none_ || w != (b.engine n).word
    let clear (e : Engine) : Engine :=
      if first && opOf w = 9 && bitOf w.toNat 11 then { e with latches := vset e.latches (bitsOf w.toNat 7 3) false } else e
    let b := engMod n clear b
    (crew b n).foldl (fun b m => engMod m (fun e => { e with word := w, first, sample := takeSample b m }) b) b

/-- The engine cycles that were to begin as the last Agate cycle ended have begun (R353). -/
def startDue (b : Block) : Block :=
  let due := b.agate.due
  (List.range 8).foldl (fun b n => if vget due n false then startCycle n b else b)
    (b.modAgate (fun a => { a with due := .replicate 8 false }))

/-- The instruction that engine `n` executes: the word fetched for the cycle in progress, or the one that a cycle about to begin
will fetch. -/
def fetchWord (b : Block) (n : Nat) : Half :=
  if vget b.agate.due n false then vget b.agate.store (b.engine n).pc 0 else (b.engine n).word

/-- A new Agate cycle: the cycles due have begun, and nothing has yet been written in it. -/
def beginCycle (b : Block) : Block :=
  (startDue b).modAgate (fun a => { a with
    cycLevel := a.level, cycRaised := .replicate 8 false, cycLevelBy := .replicate 16 none, cycDirBy := .replicate 16 none
    cycTrigs := 0 })

/-- The Agate cycle in which a row ends: that of the engine cycle served before where it joins it, and engine `n`'s own cycle has
begun; else a new one. -/
def cycleAt (n : Nat) (joins : Bool) (b : Block) : Block :=
  if joins && !vget b.agate.due n false then b else beginCycle b

/-- One engine cycle of engine `n` ends; `joins` when it ends in the Agate cycle in which the engine cycle before ended. What it
sees was taken at its start, what it writes is written now, and the engine's next cycle is due (R353, R354). -/
def engineCycle (n : Nat) (joins : Bool) (b : Block) : Block :=
  let b := cycleAt n joins b
  let w := fetchWord b n
  let pc := (b.engine n).pc
  if badOp w then haltErr n .badOp b
  else
    let due (b : Block) : Block := b.modAgate (fun a => { a with due := vset a.due n true })
    let st := stallOf b n w
    if st != .none_ then due ((crew b n).foldl (fun b m => engMod m (fun e => { e with stall := st }) b) b)
    else
      let j := jumpTo b n w
      if j.any (fun a => 48 ≤ a) then haltErr n .badAddr b
      else
        let side := bitsOf w.toNat 2 0
        let pc := nextPc b n pc j
        let last := (crew b n).getLast?.getD n
        let b := sideSet n last side (execute w n b)
        due ((crew b n).foldl (fun b m => engMod m (fun e => { e with pc, stall := .none_ }) b) b)

/-- One engine cycle when the instruction fetched is as `kind` asks. -/
def cycleIf (kind : Half → Bool) (n : Nat) (joins : Bool) (b : Block) : Block :=
  if runs b n && kind (fetchWord b n) then engineCycle n joins b else b

/-- A legal instruction of this OP. -/
def isOp (op : Nat) (w : Half) : Bool := opOf w == op && !badOp w

/-- JMP. -/
def seqJmp (n : Nat) (joins : Bool) (b : Block) : Block := cycleIf (isOp 0) n joins b
/-- WAIT. -/
def seqWait (n : Nat) (joins : Bool) (b : Block) : Block := cycleIf (isOp 1) n joins b
/-- IN. -/
def seqIn (n : Nat) (joins : Bool) (b : Block) : Block := cycleIf (isOp 2) n joins b
/-- OUT. -/
def seqOut (n : Nat) (joins : Bool) (b : Block) : Block := cycleIf (isOp 3) n joins b
/-- PUSH. -/
def seqPush (n : Nat) (joins : Bool) (b : Block) : Block := cycleIf (isOp 4) n joins b
/-- PULL. -/
def seqPull (n : Nat) (joins : Bool) (b : Block) : Block := cycleIf (isOp 5) n joins b
/-- MOV. -/
def seqMov (n : Nat) (joins : Bool) (b : Block) : Block := cycleIf (isOp 6) n joins b
/-- SET. -/
def seqSet (n : Nat) (joins : Bool) (b : Block) : Block := cycleIf (isOp 7) n joins b
/-- FLAG of this ACTION. -/
def isFlag (k : Nat) (w : Half) : Bool := isOp 8 w && bitsOf w.toNat 11 10 == k
/-- FLAG RAISE. -/
def flagRaise (n : Nat) (joins : Bool) (b : Block) : Block := cycleIf (isFlag 0) n joins b
/-- FLAG DROP. -/
def flagDrop (n : Nat) (joins : Bool) (b : Block) : Block := cycleIf (isFlag 1) n joins b
/-- FLAG TAKE. -/
def flagTake (n : Nat) (joins : Bool) (b : Block) : Block := cycleIf (isFlag 2) n joins b
/-- FLAG TRIG (R368). -/
def flagTrig (n : Nat) (joins : Bool) (b : Block) : Block := cycleIf (isFlag 3) n joins b
/-- CAD (R369). -/
def seqCad (n : Nat) (joins : Bool) (b : Block) : Block := cycleIf (isOp 9) n joins b

/-- ILLEGAL_OPCODE (R356): a reserved opcode or selector, or a jump to 48 or above. -/
def illegalOpcode (n : Nat) (joins : Bool) (b : Block) : Block :=
  let start := cycleAt n joins b
  let w := fetchWord b n
  if runs b n && (badOp w || (stallOf start n w == .none_ && (jumpTo start n w).any (fun a => 48 ≤ a))) then
    engineCycle n joins b
  else b

/-! ### SEQ_CTRL (R352, R371 to R374) -/

/-- Enable an engine or gang (R352, R356); its first cycle begins with those of the engines enabled in the same write (R374). -/
def enableEngine (n : Nat) (b : Block) : Block :=
  let bad := 48 ≤ flowStart b n
  let b := b.modAgate (fun a => { a with due := vset a.due n (!bad) })
  (crew b n).foldl (fun b m => engMod m (fun e => { blankEngine with
    tx := e.tx, rx := e.rx, miss := e.miss, en := !bad, pc := if bad then e.pc else flowStart b n
    err := if bad then .badAddr else .none_ }) b) b

/-- Halt an engine or gang: a stalled instruction is abandoned. -/
def haltEngine (n : Nat) (b : Block) : Block :=
  (crew b n).foldl (fun b m => engMod m (fun e => { e with en := false, stall := .none_ }) b) b

/-- Members of a gang that is formed or dissolved start with empty queues and cleared registers (R373). -/
def clearGroup (g : Nat) (b : Block) : Block :=
  let b := gangMod g (fun _ => blankGang) b
  (List.range 4).foldl (fun b m => engMod (4 * g + m) (fun e => { e with tx := [], rx := [] }) b) b

/-- A GANG bit changes only when the whole group was halted before the write (R373). -/
def writeGang (g : Nat) (v : Bool) (b : Block) : Block :=
  let now := if g = 0 then b.agate.gangLo else b.agate.gangHi
  let busy := (List.range 4).any (fun m => (b.engine (4 * g + m)).en)
  if now == v || busy then b
  else clearGroup g (b.modAgate (fun a => if g = 0 then { a with gangLo := v } else { a with gangHi := v }))

/-- An engine sleeps while it is halted and no transfer serves its queues (12 R317, 13 R365). -/
def engineAsleep (b : Block) (n : Nat) : Bool :=
  !(b.engine n).en && !b.agate.transfers.any (fun t => t.op != .program && t.engine == n)

/-- Work that arrives for engine `n` wakes it if it sleeps, and the generation of SQE changes (12 R315, R317). -/
def wakeSqe (n : Nat) (b : Block) : Block := if engineAsleep b n then restampDescs .agate (wakeUnit .agate 0 b) else b

/-- A write of SEQ_CTRL: the GANG bits first, then EN (R373, R374); while Agate is uncommitted EN ignores writes
(18 R463). -/
def writeSeqCtrl (w : Word) (b : Block) : Block :=
  if !b.bar0 || !b.alive .agate then b
  else
    let b := startDue b
    let b := writeGang 1 (w.getLsbD 9) (writeGang 0 (w.getLsbD 8) b)
    if !b.committed .agate then b
    else
      (List.range 8).foldl (fun b n =>
        if leader b n != n then b
        else if w.getLsbD n && !(b.engine n).en then enableEngine n (wakeSqe n b)
        else if !w.getLsbD n && (b.engine n).en then haltEngine n b
        else b) b

/-- ENGINE_ENABLE. -/
def engineEnable (w : Word) (b : Block) : Block := writeSeqCtrl w b
/-- ENGINE_HALT. -/
def engineHalt (w : Word) (b : Block) : Block := writeSeqCtrl w b
/-- GANG_CHANGE. -/
def gangChange (w : Word) (b : Block) : Block := writeSeqCtrl w b

/-! ### Inputs -/

/-- SEQ_IO_EDGE (R363, 18 R476): a pad has held `level` for FILT ticks. An output pad, a STROBE one too, has the level it drives. -/
def seqIoEdge (p : Nat) (level : Bool) (b : Block) : Block :=
  if 16 ≤ p || (padDriven b p).any (· != level) then b
  else (startDue b).modAgate (fun a => { a with seen := vset a.seen p level })

/-- The trigger events of the engines in this Agate cycle that have not left yet stand behind TRIG_IN's (R368). -/
def putPinFirst (k : Nat) (l : List TrigKind) : List TrigKind :=
  let k := min k l.length
  l.take (l.length - k) ++ [.pin] ++ l.drop (l.length - k)

/-- TRIG_IN_EDGE (04 R100): TRIG_IN has held its active level for TRIG_FILT ticks. With `joins` it qualifies in the Agate cycle in
which the engine cycle before ended, and its event goes before those of the engines (R368). -/
def trigInEdge (joins : Bool) (b : Block) : Block :=
  let b := startDue b
  let send := b.agate.trigArmed && !b.agate.trigLevel
  let b := b.modAgate (fun a => { a with trigLevel := true, trigArmed := false })
  if send then b.modCh (fun c => { c with agateGarnet := putPinFirst (if joins then b.agate.cycTrigs else 0) c.agateGarnet })
  else b

/-- TRIG_IN_INACTIVE (04 R100): TRIG_IN has held its inactive level for TRIG_FILT ticks. -/
def trigInInactive (b : Block) : Block := (startDue b).modAgate (fun a => { a with trigLevel := false, trigArmed := true })

/-- GIO_TRIG_WRITE (18 R477): the settings change at once, and qualification restarts; after a change of EDGE the new
inactive level has to be held first. -/
def gioTrigWrite (w : Word) (b : Block) : Block :=
  if !b.bar0 then b
  else
    let edge := b.field 0x8440 0 0
    let b := b.setReg 0x8440 (w.toNat &&& 0xFFFF0001)
    if edge = w.toNat % 2 then b else b.modAgate (fun a => { a with trigLevel := false, trigArmed := false })

/-- An event of a channel reaches one running engine (R369). -/
def latchEvent (ch : Nat) (e : Engine) : Engine :=
  if !e.en then e
  else if vget e.latches ch false then { e with miss := satAdd 65535 e.miss 1 }
  else { e with latches := vset e.latches ch true }

/-- CADENCE_EVENT_AGATE (R369, R370): the next Cadence event; lost ones are counted as a gap (12 R330). -/
def cadenceEventAgate (lost : Nat) (b : Block) : Block :=
  let n := min lost b.ch.quartzAgate.length
  let b := b.modCh (fun c => { c with quartzAgate := c.quartzAgate.drop n })
  let b := if gapSeen n then eventGap .agate b else b
  match b.ch.quartzAgate with
  | [] => b
  | ch :: rest =>
    let b := startDue (b.modCh (fun c => { c with quartzAgate := rest }))
    (List.range 8).foldl (fun b n => engMod n (latchEvent ch) b) b

/-- GANG_CTRL_WRITE (R372, R377): the management core writes words of GANGg_OUTm, which OUT_VALID guards, then sets
OUT_VALID or clears IN_VALID. -/
def gangCtrlWrite (g : Nat) (data : List (Nat × Word)) (w : Word) (b : Block) : Block :=
  if 2 ≤ g || !b.alive .agate then b
  else
    gangMod g (fun r =>
      let r := if r.outValid then r else data.foldl (fun r (m, v) => { r with out := vset r.out m v }) r
      { r with outValid := r.outValid || w.getLsbD 0, inValid := r.inValid && !w.getLsbD 1 }) (startDue b)

/-! ### Transfers (R364 to R366, 08 R219) -/

/-- DETAIL of a MALFORMED SEQ_TRANSFER (08 R213, R219). -/
def transferFault (b : Block) (d : List Byte) : Option Nat :=
  let n := leAt d 16 1
  let op := leAt d 17 1
  let start := leAt d 18 1
  let len := leAt d 20 4
  let words := leAt d 32 2
  if 7 < n || (op < 2 && ganged b n) then some 16
  else if 2 < op then some 17
  else if op = 2 && (47 < start || 48 - start < words) then some 18
  else if badLength len || len < (if op = 2 then 2 else 4) * words then some 20
  else if misaligned (leAt d 24 8) 64 then some 24
  else if words = 0 || (op < 2 && 4096 < words) then some 32
  else none

/-- A transfer ends; VALUE gives the words moved unless it ends OK (08 R208, R219, R225). -/
def endTransfer (t : Transfer) (st : Nat) (b : Block) : Block :=
  let b := b.modAgate (fun a => { a with transfers := a.transfers.filter (fun x => x.desc != t.desc) })
  finishCtrl t.desc st frameNone (if st = stOk then 0 else t.moved) 0 b

/-- The transfer goes on with what it has moved, or ends OK. -/
def keepTransfer (t : Transfer) (b : Block) : Block :=
  let b := b.modAgate (fun a => { a with transfers := a.transfers.filter (fun x => x.desc != t.desc) ++ [t] })
  if t.words ≤ t.moved then endTransfer t stOk b else b

/-- Words of a buffer, `size` bytes each. -/
def wordsOf (size : Nat) (data : List Byte) (from_ n : Nat) : List Nat := (List.range n).map (fun i => leAt data (size * (from_ + i)) size)

/-- TX words that have been read go in while there is room, for cycles that begin later (R365). -/
def moveTx (t : Transfer) (b : Block) : Block :=
  if ganged b t.engine then keepTransfer t b
  else
    let b := startDue b
    let room := txDepth b t.engine - (b.engine t.engine).tx.length
    let k := min room (min t.words (t.data.length / 4) - t.moved)
    let ws := (wordsOf 4 t.data t.moved k).map (BitVec.ofNat 32)
    keepTransfer { t with moved := t.moved + k } (engMod t.engine (fun e => { e with tx := e.tx ++ ws }) b)

/-- RX words come out while there are any, and are written to the buffer; with the host link down they stay. -/
def moveRx (t : Transfer) (b : Block) : Block :=
  if ganged b t.engine || !b.hostUp then keepTransfer t b
  else
    let b := startDue b
    let ws := (b.engine t.engine).rx.take (t.words - t.moved)
    let b := engMod t.engine (fun e => { e with rx := e.rx.drop ws.length }) b
    let b := if ws.isEmpty then b else b.hostWrite (t.addr + 4 * t.moved) (ws.flatMap (fun w => leBytes 4 w.toNat))
    keepTransfer { t with moved := t.moved + ws.length } b

/-- Words go into the program store, `cycles` of them, one in an Agate cycle, in increasing address (R366): an engine cycle that
begins in the Agate cycle of the first fetches the new word. -/
def moveProgram (cycles : Nat) (t : Transfer) (b : Block) : Block :=
  let k := min cycles (min t.words (t.data.length / 2) - t.moved)
  let ws := wordsOf 2 t.data t.moved k
  let b := (ws.zipIdx).foldl (fun b (w, i) => startDue (b.modAgate (fun a => { a with
    store := vset a.store (t.engine + t.moved + i) (BitVec.ofNat 16 w) }))) b
  keepTransfer { t with moved := t.moved + k } b

/-- A SEQ_TRANSFER goes on, or begins: `buf` is what the next read of its buffer returned, from the first byte not yet read on,
none when that read and its retry both failed. It then ends HOST_FAULT, what it has moved stands (08 R208). -/
def seqTransfer (op : TransferOp) (codes : List Nat) (desc : Nat) (buf : Option (List Byte)) (move : Transfer → Block → Block)
    (b : Block) : Block :=
  match b.agate.transfers.find? (fun t => t.desc == desc && t.op == op), b.dispatched ctrlRing desc 0x0C with
  | some t, some _ =>
    match buf with
    | none => endTransfer t stHostFault b
    | some more => move { t with data := t.data ++ more } b
  | none, some d =>
    if !codes.contains (leAt d 17 1) || b.agate.transfers.any (fun t => t.desc == desc) then b
    else match transferFault b d with
      | some off => finishCtrl desc stMalformed frameNone 0 off b
      | none =>
        match buf with
        | none => finishCtrl desc stHostFault frameNone 0 0 b
        | some data =>
          move { desc, engine := if op = .program then leAt d 18 1 else leAt d 16 1, op, words := leAt d 32 2, moved := 0
                 addr := leAt d 24 8, data } (if op = .program then b else wakeSqe (leAt d 16 1) b)
  | _, none => b

/-- SEQ_TRANSFER_TX. A descriptor whose OP is none of the three is refused here. -/
def seqTransferTx (desc : Nat) (buf : Option (List Byte)) (b : Block) : Block :=
  seqTransfer .tx (0 :: (List.range 253).map (· + 3)) desc buf moveTx b

/-- SEQ_TRANSFER_RX. -/
def seqTransferRx (desc : Nat) (b : Block) : Block := seqTransfer .rx [1] desc (some []) moveRx b

/-- SEQ_TRANSFER_PROGRAM: over `cycles` Agate cycles. -/
def seqTransferProgram (desc : Nat) (buf : Option (List Byte)) (cycles : Nat) (b : Block) : Block :=
  seqTransfer .program [2] desc buf (moveProgram cycles) b

/-- SEQ_TRANSFER_TIMEOUT (08 R219): VALUE gives the words moved. -/
def seqTransferTimeout (desc : Nat) (b : Block) : Block :=
  match b.agate.transfers.find? (fun t => t.desc == desc), b.dispatched ctrlRing desc 0x0C with
  | some t, some d => if leAt d 34 2 = 0 then b else endTransfer t stTimeout b
  | none, some d =>
    if leAt d 34 2 = 0 || (transferFault b d).isSome then b else finishCtrl desc stTimeout frameNone 0 0 b
  | _, none => b

end Sys2Proof.Machine
end

