-- ==== Sys2Proof/Machine/Thermal.lean ====
section
/-! DEFINITION. Beryl THM (15): readings, group states, throttle steps, the Shutdown comparison. -/

namespace Sys2Proof.Machine

/-- A reading lies from −40 to 150 °C (15 R405). -/
def remoteInRange (r : Int) : Bool := -400 ≤ r && r ≤ 1500

/-- MODE_A or MODE_B: a remote group takes part in NTC and DIODE mode only (15 R405, R419). -/
def remoteOn (b : Block) (k : Nat) : Bool :=
  let m := bitsOf (b.reg 0x9010) (2 * k + 1) (2 * k)
  m == 1 || m == 2

/-- The group takes part in the device state (15 R405). -/
def groupOn (b : Block) (g : Nat) : Bool := g < 2 || remoteOn b (g - 2)

/-- A level of a group in 0.1 °C, from bits [8k+7:8k] of THM_THRg; SHUT of groups 0 and 1 never acts above its default
(15 R419). -/
def thermalLevel (b : Block) (g k : Nat) : Int :=
  let v := signed 8 (bitsOf (b.reg (0x9000 + 4 * g)) (8 * k + 7) (8 * k))
  10 * (if k = 2 && g = 0 then min v 110 else if k = 2 && g = 1 then min v 85 else v)

/-- HYST of a group in 0.1 °C; 0 acts as 5 (15 R419). -/
def thermalHyst (b : Block) (g : Nat) : Int :=
  let h := bitsOf (b.reg (0x9000 + 4 * g)) 27 24
  10 * (if h = 0 then 5 else (h : Int))

/-- `raw` of R406: a reading placed against the levels lowered by `h`. -/
def thermalRaw (b : Block) (g : Nat) (r h : Int) : Nat :=
  if thermalLevel b g 2 - h ≤ r then 3
  else if thermalLevel b g 1 - h ≤ r then 2
  else if thermalLevel b g 0 - h ≤ r then 1
  else 0

/-- `next_state` of R406. -/
def nextState (a b_ z : Nat) : Nat := if z < a then a else if b_ < z then b_ else z

/-- The state a group takes after a reading (15 R406); its first reading places it below the band. -/
def stateAfter (b : Block) (g : Nat) (r : Int) : Nat :=
  let low := thermalRaw b g r (thermalHyst b g)
  if vget b.beryl.thm.begun g false then nextState (thermalRaw b g r 0) low (vget b.beryl.thm.groups g 0) else low

/-- Change THM. -/
def modThm (f : Thermal → Thermal) (b : Block) : Block := b.modBeryl (fun y => { y with thm := f y.thm })

/-- An event of Beryl for Opal to post (01, table Handshake channels). -/
def berylEvent (code : Nat) (data : List Nat) (b : Block) : Block :=
  b.modCh (fun c => { c with
    berylOpal := c.berylOpal ++ [{ code, stamp := b.quartz.tb, frame := frameNone, data := evData data }] })

/-- A group's state changes: THERMAL event and trace entry (15 R407). -/
def tellThermal (g z : Nat) (r : Int) (b : Block) : Block :=
  (berylEvent evThermal [g, z] b).logEvr .beryl 0x08 (leBytes 1 g ++ leBytes 1 z ++ leInt 2 r)

/-- A group takes state `z` (15 R406, R407). -/
def setGroup (g z : Nat) (r : Int) (force : Bool) (b : Block) : Block :=
  let old := vget b.beryl.thm.groups g 0
  let b := modThm (fun t => { t with groups := vset t.groups g z, begun := vset t.begun g true }) b
  if old = z && !force then b else tellThermal g z r b

/-! ### Throttle steps (15 R408 to R410) -/

/-- A step record to Garnet, with the request for Jade's clock: an undivided one at once, a division with the first
Frame bound at the new t (15 R409, R410). -/
def sendStep (t : Nat) (b : Block) : Block :=
  let b := modThm (fun x => { x with t, count := 0, askClock := t != 0 }) b
  let b := b.modCh (fun c => { c with berylGarnet := c.berylGarnet ++ [t] })
  if t = 0 then b.modCh (fun c => { c with berylJade := c.berylJade ++ [0] }) else b

/-- t rises by 1, never above 12 (15 R408). -/
def stepUp (b : Block) : Block :=
  let b := modThm (fun x => { x with rising := true, count := 0 }) b
  if b.beryl.thm.t < 12 then sendStep (b.beryl.thm.t + 1) b else b

/-- t falls by 1, down to 0 (15 R408). -/
def stepDown (b : Block) : Block :=
  let b := modThm (fun x => { x with rising := false, count := 0 }) b
  if 0 < b.beryl.thm.t then sendStep (b.beryl.thm.t - 1) b else b

/-- The device state: the highest state of any group that takes part (15 R407). -/
def deviceState (b : Block) : Nat :=
  ((List.range 4).map (fun g => if groupOn b g then vget b.beryl.thm.groups g 0 else 0)).foldl max 0

/-- The device state is formed anew, and entering THROTTLE or SHUTDOWN from a lower state, or leaving
THROTTLE, steps t (15 R407, R408). -/
def settleDevice (b : Block) : Block :=
  let old := b.beryl.thm.device
  let new := deviceState b
  let b := modThm (fun t => { t with device := new }) b
  if old < new && 2 ≤ new then stepUp b else if 2 ≤ old && new < 2 then stepDown b else b

/-! ### Readings -/

/-- Largest of samples `lo` to below `hi`. -/
def maxSample (t : Thermal) (lo hi : Nat) : Int :=
  ((List.range (hi - lo)).map (fun i => vget t.samples (lo + i) 0)).foldl max (vget t.samples lo 0)

/-- The four readings (15 R404, R405); a remote group that is OFF reads 0. -/
def formReadings (ra rb : Int) (b : Block) : Block :=
  let on k (r : Int) := if remoteOn b k then r else 0
  modThm (fun t => { t with
    readings := vset (vset (vset (vset t.readings 0 (maxSample t 0 48)) 1 (maxSample t 48 56)) 2 (on 0 ra)) 3 (on 1 rb)
    remote := vset (vset t.remote 0 ra) 1 rb }) b

/-- An on-die group after its reading (15 R406). -/
def updateDie (g : Nat) (b : Block) : Block :=
  let r := vget b.beryl.thm.readings g 0
  setGroup g (stateAfter b g r) r false b

/-- A remote group without a state: its mode is OFF, or has just left it (15 R405, R406). -/
def forgetRemote (k : Nat) (b : Block) : Block :=
  modThm (fun t => { t with
    groups := vset t.groups (2 + k) 0, begun := vset t.begun (2 + k) false, badRun := vset t.badRun k 0
    goodRun := vset t.goodRun k 0, fault := vset t.fault k false }) b

/-- A write of THM_REMOTE (15 R405, R406): a group whose mode leaves OFF, or goes OFF, starts afresh with its next reading. `old`
is the block before the write. -/
def remoteWritten (old b : Block) : Block :=
  [0, 1].foldl (fun b k => if remoteOn old k && remoteOn b k then b else forgetRemote k b) b

/-- THM hardware follows the range of remote group 2 + k (15 R405): three readings in a row out of range fault the input, and
three within range end the fault. -/
def trackRemote (k : Nat) (b : Block) : Block :=
  if !remoteOn b k then forgetRemote k b
  else
    modThm (fun t =>
      let good := if remoteInRange (vget t.readings (2 + k) 0) then min 3 (vget t.goodRun k 0 + 1) else 0
      let bad := if remoteInRange (vget t.readings (2 + k) 0) then 0 else min 3 (vget t.badRun k 0 + 1)
      { t with
        goodRun := vset t.goodRun k good, badRun := vset t.badRun k bad
        fault := vset t.fault k (if vget t.fault k false then good < 3 else 3 ≤ bad) }) b

/-- A group that holds the first Hand back does so while its reading has not left SHUTDOWN (15 R406, R414). -/
def trackHold (g : Nat) (b : Block) : Block :=
  let low := thermalRaw b g (vget b.beryl.thm.readings g 0) (thermalHyst b g)
  modThm (fun t => { t with hold := vset t.hold g (vget t.hold g false && low == 3) }) b

/-- Remote group 2 + k after its reading (15 R405, R406): a faulted one holds WARNING and posts the event once; one that is out of
range and not yet faulted keeps its state. `was` tells whether it stood faulted before the reading. -/
def updateRemote (k : Nat) (was : Bool) (b : Block) : Block :=
  let g := 2 + k
  let r := vget b.beryl.thm.readings g 0
  if !remoteOn b k then b
  else if vget b.beryl.thm.fault k false then (if was then b else setGroup g 1 r true b)
  else if remoteInRange r then setGroup g (stateAfter b g r) r false b
  else b

/-- The Shutdown comparison of THM hardware (15 R411): the first group at or above its level signals Topaz, once. A
group that began the power-up in SHUTDOWN, and one faulted or out of range, gives no signal (R405, R414). While Beryl is absent
it goes on without the states (12 R333). -/
def compareShutdown (b : Block) : Block :=
  let t := b.beryl.thm
  let hot := (List.range 4).find? (fun g =>
    groupOn b g && (vget t.begun g false || b.topaz.absent) && !vget t.hold g false && (g < 2 || !vget t.fault (g - 2) false) &&
      (g < 2 || remoteInRange (vget t.readings g 0)) && thermalLevel b g 2 ≤ vget t.readings g 0)
  match hot with
  | some g =>
    if t.signalled then b
    else
      (modThm (fun t => { t with signalled := true }) b).modCh (fun c => { c with
        shutSignal := c.shutSignal ++ [(g, vget t.readings g 0)] })
  | none => b

/-- The peak of the group that shut the device down, until the log entry is formed (15 R415). -/
def trackPeak (b : Block) : Block :=
  b.modTopaz (fun t => { t with
    shut := t.shut.map (fun s =>
      if s.entry.isNone then { s with peak := max s.peak (vget b.beryl.thm.readings s.group s.peak) } else s) })

/-- THM samples and compares while Beryl's domain is out of reset, its firmware present or not (12 R333, 15 R411). -/
def thmRuns (b : Block) : Bool := b.topaz.berylOut

/-- Beryl's firmware runs: the ROM has started and BERYL_ABSENT is clear (17 R448, 12 R333). -/
def firmware (b : Block) : Bool := b.alive .beryl && 2 ≤ b.topaz.stage

/-- The states after a reading (15 R406 to R408), by Beryl's firmware; `was` are the faults of the remote inputs before it. -/
def updateStates (was : Vector Bool 2) (b : Block) : Block :=
  settleDevice (updateRemote 1 (vget was 1 false) (updateRemote 0 (vget was 0 false) (updateDie 1 (updateDie 0 b))))

/-- THERMAL_READING (15 R404 to R408, R411): the groups' 1 ms readings; `ra` and `rb` are those of THM_A and THM_B. -/
def thermalReading (ra rb : Int) (b : Block) : Block :=
  if !thmRuns b then b
  else
    let was := b.beryl.thm.fault
    let b := trackRemote 1 (trackRemote 0 (trackPeak (formReadings ra rb b)))
    let b := [0, 1, 2, 3].foldl (fun b g => trackHold g b) b
    compareShutdown (if firmware b then updateStates was b else b)

/-- SENSOR_SAMPLE (15 R404): the samples of the 56 on-die sensors, in 0.1 °C. -/
def sensorSample (l : List Int) (b : Block) : Block :=
  if thmRuns b && l.length == 56 then
    modThm (fun t => { t with samples := (l.zipIdx).foldl (fun v x => vset v x.2 x.1) t.samples }) b
  else b

/-- The thermal states as Beryl forms them at its start and after a restart (15 R406, 12 R335): each group below its
band. At power-up a group in SHUTDOWN holds the first Hand back and posts THERMAL (R414). -/
def formStates (powerUp : Bool) (b : Block) : Block :=
  let one (b : Block) (g : Nat) : Block :=
    let r := vget b.beryl.thm.readings g 0
    if !groupOn b g then b
    else
      let z := if 2 ≤ g && vget b.beryl.thm.fault (g - 2) false then 1 else thermalRaw b g r (thermalHyst b g)
      let b := modThm (fun t => { t with begun := vset t.begun g true }) b
      let b := if powerUp && z = 3 then modThm (fun t => { t with hold := vset t.hold g true }) b else b
      setGroup g z r false b
  [0, 1, 2, 3].foldl one b

/-- The snapshot of a Frame, as Garnet or Jade holds it or Opal has it in the window. -/
def snapOf (frame : Nat) (b : Block) : Option Snapshot :=
  (unfinished b ++ b.opal.window.map (·.snap)).find? (fun s => s.frame == frame)

/-- The Destinations of a Frame: those that Opal has bound, or would bind now. -/
def destsOf (s : Snapshot) (b : Block) : List Dest :=
  match winGet b s.frame with
  | some w => w.dests.map (·.dest)
  | none => (destSet b s).1

/-- The Frame named needs no more than 768 Gbit/s on any of Jade's paths (01 R31, 15 R410): its own snapshot, its
Destinations, over the shortest period of the capture cadence it was bound for, RELOAD + 1 (log entry 81). -/
def meetsR31 (frame : Nat) (b : Block) : Bool :=
  match snapOf frame b with
  | some s => fits768 s.period (pathBits b.jade s (destsOf s b))
  | none => false

/-- FRAME_BOUND_RECORD (15 R408, R410): Garnet has bound `frame` at t. Jade's clock is asked for with the first Frame at
a new t; 64 Frames at the current t raise it again while N >> t is above N_MIN, and 64 Frames below THROTTLE lower it. -/
def frameBoundRecord (b : Block) : Block :=
  match b.ch.garnetBeryl with
  | [] => b
  | (frame, t) :: rest =>
    let b := b.modCh (fun c => { c with garnetBeryl := rest })
    let b :=
      if b.beryl.thm.askClock && t == b.beryl.thm.t then
        (modThm (fun x => { x with askClock := false }) b).modCh (fun c => { c with
          berylJade := c.berylJade ++ [if meetsR31 frame b then frame + 1 else 0] })
      else b
    let thm := b.beryl.thm
    if 2 ≤ thm.device then
      match b.garnet.applied with
      | some p =>
        if t == thm.t && p.nMin < p.n / 2 ^ t then
          if 63 ≤ thm.count then stepUp b else modThm (fun x => { x with count := x.count + 1 }) b
        else b
      | none => b
    else if 0 < thm.t then
      if 63 ≤ thm.count then stepDown b else modThm (fun x => { x with count := x.count + 1 }) b
    else b

end Sys2Proof.Machine
end

