-- ==== Sys2Proof/Machine/Otp.lean ====
section
/-! DEFINITION. Beryl OTC (16): fuse reads, fuse load, programming runs, Thermal Event Log burns (15 R416 to R418). -/

namespace Sys2Proof.Machine

/-- Change OTC. -/
def modOtc (f : Otc → Otc) (b : Block) : Block := b.modBeryl (fun y => { y with otc := f y.otc })

/-- A fuse word at the nominal margin (16 R434). -/
def Otc.word (o : Otc) (w : Nat) : Half := mapGet 0 o.fuses w

/-- A fuse word at the low margin: bits that leak read 1 there too (16 R434). -/
def Otc.low (o : Otc) (w : Nat) : Half := o.word w ||| mapGet 0 o.soft w

/-- A fuse word at the high margin: bits not yet firm read 0 (16 R434). -/
def Otc.firm (o : Otc) (w : Nat) : Half := o.word w &&& ~~~(mapGet 0 o.weak w)

/-- OTC runs: the PWR_GOOD pin is high and fuse load has ended (17 R446). -/
def otcUp (b : Block) : Bool := b.topaz.pwrPin && b.beryl.otc.loaded

/-- VPP_OTP lies within its programming window (16 R433). -/
def vppOk (mv : Nat) : Bool := 1710 ≤ mv && mv ≤ 1890

/-- OTC measures VPP_OTP (16 R437); the field holds 12 bits. -/
def sawVpp (mv : Nat) (b : Block) : Block := modOtc (fun o => { o with vppMv := min 4095 mv, vppMeasured := true }) b

/-- VPP_MEASURE (16 R437). -/
def vppMeasure (mv : Nat) (b : Block) : Block := if otcUp b then sawVpp mv b else b

/-- BAR0 accesses of Beryl's blocks, other than EVR, reach them: not before STAGE READY and not while BERYL_ABSENT
(17 R450, 12 R334). -/
def berylRegs (b : Block) : Bool := b.bar0 && firmware b

/-- OTP_READ (16 R426, R427, R437): a write of OTP_RADDR senses the word at the chosen margin; the key reads 0. -/
def otpRead (w : Nat) (b : Block) : Block :=
  if !berylRegs b then b
  else
    let a := bitsOf w 10 0
    let o := b.beryl.otc
    let v := if 840 ≤ a && a ≤ 857 then 0 else
      match bitsOf w 13 12 with
      | 1 => o.low a
      | 2 => o.firm a
      | _ => o.word a
    modOtc (fun o => { o with rdata := v, ready := true }) (b.setReg 0x9118 (bitsOf w 13 12 * 4096 + a))

/-! ### Programming (16 R432 to R436) -/

/-- The word reads as wanted at all three margins (16 R434). -/
def wordVerified (o : Otc) (a : Nat) (want : Half) : Bool :=
  o.low a == want && o.word a == want && o.firm a == want

/-- A run ends with RESULT `res` (16 R433). -/
def endRun (res : Nat) (b : Block) : Block := modOtc (fun o => { o with run := none, result := res }) b

/-- The measurements of VPP_OTP that remain after the first; the last is kept. -/
def laterMvs (mvs : List Nat) : List Nat := if mvs.length ≤ 1 then mvs else mvs.drop 1

/-- A run goes on as far as it can without a pulse (16 R434, R435): it waits between two words while Beryl is absent
and for a Thermal Event Log burn; `mvs` are the measurements of VPP_OTP to come, the last of which stands for any after it. -/
def runGo : Nat → List Nat → Block → Block
  | 0, _, b => b
  | k + 1, mvs, b =>
    let o := b.beryl.otc
    match o.run with
    | none => b
    | some r =>
      let a := r.addr + r.done
      match r.want with
      | none =>
        if r.data.length ≤ r.done then endRun 0 b
        else if b.berylAbsent || o.burn.isSome || !b.ch.telBurn.isEmpty then b
        else
          let want := o.word a ||| (r.data.getD r.done 0)
          runGo k mvs (modOtc (fun o => { o with run := some { r with want := some want, pulses := 0 } }) b)
      | some want =>
        if 0 < r.pulses && wordVerified o a want then
          runGo k mvs (modOtc (fun o => { o with
            wordsDone := r.done + 1, run := some { r with done := r.done + 1, want := none } }) b)
        else if 8 ≤ r.pulses then endRun 4 b
        else if !vppOk (mvs.headD 0) then endRun 1 (sawVpp (mvs.headD 0) b)
        else
          let bits := want &&& ~~~(o.firm a)
          let b := modOtc (fun o => { o with run := some { r with pulses := r.pulses + 1 } }) (sawVpp (mvs.headD 0) b)
          if bits = 0 then runGo k (laterMvs mvs) b else modOtc (fun o => { o with pulse := some (a, bits) }) b

/-- A run takes up its next word, if it may. -/
def resumeRun (mvs : List Nat) (b : Block) : Block := if b.beryl.otc.pulse.isSome then b else runGo 96 mvs b

/-- A word that the host may program, with its data (16 R432): the lock words in bits [3:0], the Customer block until
CUSTOMER_LOCK. -/
def mayProgram (o : Otc) (a : Nat) (v : Half) : Bool :=
  o.policyOk && ((816 ≤ a && a ≤ 818 && v.toNat < 16) || (1024 ≤ a && a < 1536 && !bitOf o.locks 3))

/-- The data of the run that the registers name. -/
def runData (b : Block) : List Half :=
  let c := b.field 0x9120 19 16
  (List.range (if c = 0 then 1 else min 8 c)).map (fun i =>
    BitVec.ofNat 16 (b.reg (0x9128 + 4 * (i / 2)) / 65536 ^ (i % 2)))

/-- A run, a burn or fuse load is in progress (16 R437). -/
def otcBusy (o : Otc) : Bool := o.run.isSome || o.burn.isSome || !o.loaded

/-- OTP_PROGRAM (16 R432, R433): a write `w` of OTP_CTRL, at which VPP_OTP measures `mv`; the first row that fails gives RESULT.
`more` are the measurements before the pulses that follow. -/
def otpProgram (w mv : Nat) (more : List Nat) (b : Block) : Block :=
  if !berylRegs b || !bitOf w 0 || bitsOf w 15 8 != 0xA5 then b
  else
    let o := b.beryl.otc
    let addr := b.field 0x9120 10 0
    let data := runData b
    let b := sawVpp mv b
    let refuse (res : Nat) : Block :=
      modOtc (fun o => { o with result := res, wordsDone := if o.run.isSome then o.wordsDone else 0 }) b
    if !vppOk mv then refuse 1
    else if !(data.zipIdx.all (fun (v, i) => mayProgram o (addr + i) v)) then refuse 2
    else if otcBusy o then refuse 3
    else
      resumeRun (if more.isEmpty then [mv] else more) (modOtc (fun o => { o with
        result := 0, wordsDone := 0, run := some { addr, data, done := 0, pulses := 0, want := none } }) b)

/-! ### The Thermal Event Log (15 R415 to R418) -/

/-- Slots that do not read 0 (15 R415). -/
def telUsed (o : Otc) : Nat := ((List.range 128).filter (fun i => o.word (896 + i) != 0)).length

/-- The next free slot. -/
def telSlot (o : Otc) : Option Nat := (List.range 128).find? (fun i => o.word (896 + i) == 0)

/-- The burn of an entry ends (15 R416, R417). -/
def telAnswer (m : TelMsg) (ok : Bool) (b : Block) : Block :=
  b.modCh (fun c => { c with telResult := c.telResult ++ [{ m with ok }] })

/-- TEL_BURN_REQUEST (15 R416 to R418; 16 R435): a burn waits for the current word of a host run. With OTC unpowered, or
VPP_OTP outside its window, the entry is not burned; latched entries after it then stay latched too. With every slot
used it is not burned and TEL_FULL is set. `mv` is VPP_OTP before the burn's first pulse, `more` as a waiting run takes it up. -/
def telBurnRequest (mv : Nat) (more : List Nat) (b : Block) : Block :=
  let later := if more.isEmpty then [mv] else more
  match b.ch.telBurn with
  | [] => b
  | m :: rest =>
    let pop (b : Block) : Block := b.modCh (fun c => { c with telBurn := rest })
    if !otcUp b then telAnswer m false (pop b)
    else if b.beryl.otc.burn.isSome || b.beryl.otc.pulse.isSome then b
    else
      match telSlot b.beryl.otc with
      | none => resumeRun later (telAnswer m (!m.latched) ((pop b).modBeryl (fun y => { y with telFull := true })))
      | some s =>
        let b := sawVpp mv b
        if vppOk mv then
          modOtc (fun o => { o with
            burn := some { entry := m.entry, slot := s, pulses := 1, latched := m.latched }
            pulse := some (896 + s, m.entry) }) (pop b)
        else
          let b := telAnswer m false (pop b)
          resumeRun later (if m.latched then b.modCh (fun c => { c with telBurn := c.telBurn.filter (fun x => !x.latched) })
            else b)

/-- The pulse of a burn has ended: verified, given again, or failed after 8 (15 R416, 16 R434). -/
def burnPulsed (t : TelBurn) (mvs : List Nat) (b : Block) : Block :=
  let mv := mvs.headD 0
  let m : TelMsg := { entry := t.entry, latched := t.latched, ok := false }
  let done (ok : Bool) (mvs : List Nat) (b : Block) : Block := resumeRun mvs (telAnswer m ok (modOtc (fun o => { o with burn := none }) b))
  let a := 896 + t.slot
  if wordVerified b.beryl.otc a t.entry then done true mvs b
  else if 8 ≤ t.pulses then done false mvs b
  else if !vppOk mv then done false (laterMvs mvs) (sawVpp mv b)
  else
    modOtc (fun o => { o with
      burn := some { t with pulses := t.pulses + 1 }, pulse := some (a, t.entry &&& ~~~(o.firm a)) }) (sawVpp mv b)

/-- OTP_PULSE_DONE (16 R434): of the bits pulsed, `fired` now read 1 at the nominal margin and `firm` at the high one;
bits `soft` of the word read 1 at the low margin. `mv` is VPP_OTP before the next pulse, `more` before those after it. -/
def otpPulseDone (fired firm : Half) (mv : Nat) (soft : Half) (more : List Nat) (b : Block) : Block :=
  match b.beryl.otc.pulse with
  | none => b
  | some (a, bits) =>
    let b := modOtc (fun o =>
      let on := o.word a ||| (bits &&& fired)
      let weak := (mapGet 0 o.weak a ||| (bits &&& fired)) &&& ~~~(bits &&& firm)
      { o with pulse := none, fuses := mapSet 0 o.fuses a on, weak := mapSet 0 o.weak a (weak &&& on),
               soft := mapSet 0 o.soft a (mapGet 0 o.soft a ||| soft) }) b
    match b.beryl.otc.burn with
    | some t => burnPulsed t (mv :: more) b
    | none => runGo 96 (mv :: more) b

/-! ### Fuse load (16 R421 to R423, R428 to R431) -/

/-- Words `lo` to below `hi`, each as two bytes (16 R421). -/
def fuseBytes (o : Otc) (lo hi : Nat) : List Byte :=
  (List.range (hi - lo)).flatMap (fun i => leBytes 2 (o.word (lo + i)).toNat)

/-- The CRC in words `at_` and `at_` + 1 matches words `lo` to below `hi` (16 R421). -/
def fuseCrcOk (o : Otc) (lo hi at_ : Nat) : Bool :=
  (crc32c (fuseBytes o lo hi)).toNat == (o.word at_).toNat + 65536 * (o.word (at_ + 1)).toNat

/-- Copies of lock `i` that read 1 (16 R422). -/
def lockCopies (o : Otc) (i : Nat) : Nat :=
  bit ((o.word 816).getLsbD i) + bit ((o.word 817).getLsbD i) + bit ((o.word 818).getLsbD i)

/-- The effective policy and the identity, as delivered (16 R422, R423, R427). -/
def loadPolicy (o : Otc) : Otc :=
  let odd := (List.range 16).any (fun i => lockCopies o i == 1)
  let locks := bitsWhere 16 (fun i => 1 ≤ lockCopies o i)
  let policyOk := fuseCrcOk o 768 784 784 && !odd
  let idkeyOk := fuseCrcOk o 832 856 856
  let p := (o.word 768).toNat
  { o with
    loaded := true, policyOk, idkeyOk, plockOdd := odd, locks
    grade := if policyOk then min (bitsOf p 1 0) 2 else 0
    debugOpen := policyOk && bitOf p 2 && !bitOf locks 0
    replayOk := policyOk && bitOf p 3 && !bitOf locks 1
    magPorts := if policyOk then bitsOf p 7 4 else 1
    keyImport := policyOk && idkeyOk && !bitOf locks 2
    deviceId := if idkeyOk then fuseBytes o 832 840 else leBytes 16 0 }

/-- The key-encryption key, when the block passes its check (16 R427): its bytes in the order of FIPS 197, the most
significant first (log entry 67). -/
def fuseKek (o : Otc) : Option (List Byte) := if o.idkeyOk then some (fuseBytes o 840 856).reverse else none

/-- FUSE_LOAD (16 R428, R430): `refOk` tells whether the reference row reads right. A failure is signalled on FAULT_N
and holds every Island; otherwise the values are delivered. Steps 6 and 7 follow the release of the other Islands (17 R446). -/
def fuseLoad (refOk : Bool) (b : Block) : Block :=
  let o := b.beryl.otc
  let fail (code : Nat) : Block := settleFaultPin (b.modTopaz (fun t => { t with faultCode := code }))
  if !b.topaz.pwrPin || o.loaded || b.topaz.faultCode != 0 then b
  else if !refOk then fail 3
  else if o.word 0 != 0xC3A5 then fail 1
  else if !fuseCrcOk o 0 766 766 then fail 2
  else
    let o := loadPolicy o
    let b := modOtc (fun _ => o) b
    b.modSpinel (fun s => { s with kek := fuseKek o, import_ := o.keyImport })

/-- Steps 6 and 7 of fuse load (16 R428; 15 R417): Beryl leaves reset, after the other Islands (17 R446), and the entries of the
latch are to be burned. -/
def releaseBeryl (b : Block) : Block :=
  let latched := b.topaz.latch
  let b := b.modTopaz (fun t => { t with berylOut := true, stage := max t.stage 1, telBurning := !latched.isEmpty })
  b.modCh (fun c => { c with
    telBurn := c.telBurn ++ latched.map (fun e => { entry := e, latched := true, ok := false }) })

end Sys2Proof.Machine
end

