-- ==== Sys2Proof/Machine/Recorder.lean ====
section
/-! DEFINITION. Beryl EVR (12 R339 to R345, R351): trace entries, trace blocks, EVR_CTRL.MODE. -/

namespace Sys2Proof.Machine

/-- Change EVR. -/
def modEvr (f : Evr → Evr) (b : Block) : Block := b.modBeryl (fun y => { y with evr := f y.evr })

/-- BAR0 accesses of the EVR block reach it, Beryl's firmware present or not (12 R334, 17 R450). -/
def evrRegs (b : Block) : Bool := b.bar0 && b.topaz.berylOut

/-- EVR_TRACE_BLOCKS: 0, or a power of two from 16 to 65,536 (12 R351). -/
def traceBlocksOf (b : Block) : Nat :=
  let n := b.field 0x920C 16 0
  if 16 ≤ n && n ≤ 65536 && isPow2 n then n else 0

/-- Digests of every Island's set-up registers, for TRACE_START (12 R342); the byte form digested is free, log entry 6. EVR_CTRL is
no part of them: it differs between recording and Replay (R348; log entry 116). -/
def setupDigests (b : Block) : List (List Byte) :=
  let one (i : Nat) : List Byte :=
    let mine := b.regs.filter (fun e => e.1 != 0x9200 && match regRow e.1 with | some r => r.island.num.val == i | none => false)
    leBytes 4 (Config.setupDigest i (mine.foldl (fun n e => (n * 2 ^ 32 + e.1) * 2 ^ 32 + e.2.toNat) 1)).toNat
  let l := (List.range 9).flatMap one
  [l.take 32, (l.drop 32) ++ leBytes 28 0]

/-- A trace entry and its continuations as bytes (12 R341). -/
def entryBytes (seq : Nat) (e : TraceEntry) : List (List Byte) :=
  (leBytes 8 e.stamp ++ leBytes 4 seq ++ leBytes 1 e.type ++ leBytes 1 e.src ++ leBytes 1 e.cont.length ++ leBytes 1 0 ++
    (e.payload ++ leBytes 16 0).take 16) :: e.cont.map (fun c => (c ++ leBytes 32 0).take 32)

/-- A trace block (12 R340). -/
def traceBlock (id : List Byte) (y : Evr) : List Byte :=
  let h := leBytes 4 0x45435254 ++ leBytes 2 1 ++ leBytes 1 y.block.length ++ leBytes 1 0 ++ leBytes 8 y.blockSeq ++
    leBytes 8 y.firstSeq ++ id ++ leBytes 4 y.lostTrace ++ leBytes 16 0
  let body := (y.block.flatten ++ leBytes 4032 0).take 4032
  h ++ leBytes 4 (crc32c (h ++ body)).toNat ++ body

/-- The block goes to the trace region and to the host trace buffer (12 R339, R343). -/
def writeBlock (toHost : Bool) (b : Block) : Block :=
  let y := b.beryl.evr
  let bytes := traceBlock b.beryl.otc.deviceId y
  let b := b.dramWrite (traceBase + 4096 * (y.blockSeq % 262144)) bytes
  let b := if toHost && y.traceBlocks != 0 && b.hostUp then
    b.hostWrite (y.traceBase + 4096 * (y.blockSeq % y.traceBlocks)) bytes else b
  modEvr (fun y => { y with block := [], blockSeq := next64 y.blockSeq }) b

/-- Place an entry in the block, after closing one that has no room for it (12 R340, R341). TRACE_END counts every entry
of the trace, itself included. -/
def placeEntry (e : TraceEntry) (b : Block) : Block :=
  let n := 1 + e.cont.length
  let b := if 126 < b.beryl.evr.block.length + n then writeBlock true b else b
  let y := b.beryl.evr
  let e := if e.type = 0x24 then { e with payload := leBytes 8 (y.seq + n) } else e
  modEvr (fun y => { y with
    firstSeq := if y.block.isEmpty then y.seq else y.firstSeq
    openedAt := if y.block.isEmpty then b.quartz.tb else y.openedAt
    block := y.block ++ entryBytes y.seq e, seq := y.seq + n }) b

/-- TRACE_ENTRY (12 R339, R341): EVR receives the oldest entry. -/
def traceEntry (b : Block) : Block :=
  if !b.topaz.berylOut || !b.recording then b
  else match b.ch.evr with
    | [] => b
    | e :: rest => placeEntry e (b.modCh (fun c => { c with evr := rest }))

/-- TRACE_BLOCK_CLOSE (12 R340, R343): the block is full, or 1 ms has passed since its first entry. An uncorrectable
error loses the block, and TRACE_GAP follows (R331). -/
def traceBlockClose (ecc : Ecc) (b : Block) : Block :=
  let y := b.beryl.evr
  if !b.topaz.berylOut || y.block.isEmpty then b
  else
    let b := if y.block.length < 126 then b.advance (y.openedAt + ownTicks b .beryl y.openedAt 1024000) else b
    let b := eccCount .beryl frameNone ecc b
    if ecc = .ue then
      let n := y.block.length
      let b := modEvr (fun y => { y with
        lostEntries := satAdd 65535 y.lostEntries n, lostTrace := satAdd (2 ^ 32 - 1) y.lostTrace n }) (writeBlock false b)
      b.logEvr .beryl 0x21 (leBytes 1 7 ++ leBytes 4 n)
    else writeBlock true b

/-- EVR_CTRL holds MODE and TAP (12 R351). -/
def setEvrCtrl (mode : Nat) (tap : Bool) (b : Block) : Block := b.setReg 0x9200 (mode + 4 * bit tap)

/-- The buffer fields are taken as MODE leaves OFF, and the counts of a trace start at 0 (12 R351). -/
def openTrace (mode : Nat) (state : EvrState) (b : Block) : Block :=
  let b := modEvr (fun y => { y with
    mode, state, seq := 0, feedSeq := 0, diverge := 0, lostTrace := 0, gaps := .replicate 9 0, block := [], blockSeq := 0
    firstSeq := 0, openedAt := 0, feed := []
    traceBase := b.reg 0x9204 + 2 ^ 32 * b.reg 0x9208, traceBlocks := traceBlocksOf b
    tapBase := b.reg 0x9210 + 2 ^ 32 * b.reg 0x9214, tapBytes := tapSize b }) b
  (b.modJade (fun j => { j with tapSeq := 0, tapOff := 0 })).modCh (fun c => { c with evr := [] })

/-- MODE leaves RECORD: TRACE_END ends the trace (12 R342). -/
def endTrace (b : Block) : Block :=
  if b.beryl.evr.mode != 1 then b
  else
    let b := b.logEvr .beryl 0x24 []
    let es := b.ch.evr
    let b := es.foldl (fun b e => placeEntry e b) (b.modCh (fun c => { c with evr := [] }))
    modEvr (fun y => { y with mode := 0 }) (if b.beryl.evr.block.isEmpty then b else writeBlock true b)

/-- EVR_RECORD (12 R339, R351): a write `w` of EVR_CTRL with MODE 1 starts a trace. Replay lasts until power-off, and only TAP takes
the write there. -/
def evrRecord (w : Nat) (b : Block) : Block :=
  if !evrRegs b || bitsOf w 1 0 != 1 then b
  else if b.beryl.evr.mode = 2 then setEvrCtrl 2 (bitOf w 2) b
  else
    let b := setEvrCtrl 1 (bitOf w 2) b
    if b.beryl.evr.mode = 1 then modEvr (fun y => { y with state := .recording }) b
    else
      let d := setupDigests b
      (openTrace 1 .recording b).logEvr .beryl 0x20 (leBytes 1 1) d

/-- EVR_OFF (12 R342, R351): a write `w` of EVR_CTRL with MODE 0, or 3 that acts as 0 and reads back. -/
def evrOff (w : Nat) (b : Block) : Block :=
  let m := bitsOf w 1 0
  if !evrRegs b || (m != 0 && m != 3) then b
  else if b.beryl.evr.mode = 2 then setEvrCtrl 2 (bitOf w 2) b
  else modEvr (fun y => { y with state := .off }) (endTrace (setEvrCtrl m (bitOf w 2) b))

/-- EVR_REPLAY (12 R345): a write `w` of EVR_CTRL with MODE 2, taken only when the policy allows Replay, CAP_STATUS.STATE
is 0 and no Frame Program has been applied; otherwise DENIED, and nothing else changes. -/
def evrReplay (w : Nat) (b : Block) : Block :=
  if !evrRegs b || bitsOf w 1 0 != 2 then b
  else if b.beryl.evr.mode = 2 then setEvrCtrl 2 (bitOf w 2) b
  else if b.beryl.otc.replayOk && b.quartz.capState == 0 && b.garnet.applied.isNone then
    openTrace 2 .replaying (endTrace (setEvrCtrl 2 (bitOf w 2) b))
  else modEvr (fun y => { y with state := .denied }) b

end Sys2Proof.Machine
end

