-- ==== Sys2Proof/Machine/Replay.lean ====
section
/-! DEFINITION. Replay (12 R345 to R349, 01 R508): EVR reads the trace and the tap from the host, checks them and puts what
they hold in the place of the live inputs. -/

namespace Sys2Proof.Machine

/-- Replay stops (12 R349): no further Frame is injected. -/
def diverge (seq : Nat) (b : Block) : Block :=
  modEvr (fun y => { y with state := .diverged, diverge := seq % 2 ^ 32, feed := [] }) b

/-- Replay goes on. -/
def replayOn (b : Block) : Bool := b.beryl.evr.mode == 2 && b.beryl.evr.state == .replaying

/-! ### Trace blocks -/

/-- The entries of a trace block, in order, with the SEQ each must carry; none when a SEQ differs (12 R341, R349). -/
def parseEntries : Nat → Nat → List Byte → Option (List TraceEntry)
  | 0, _, _ => some []
  | k + 1, seq, l =>
    if l.length < 32 then some []
    else
      let c := leAt l 14 1
      if leAt l 8 4 != seq % 2 ^ 32 then none
      else
        let cont := (List.range c).map (fun i => (l.drop (32 + 32 * i)).take 32)
        (parseEntries k (seq + 1 + c) (l.drop (32 + 32 * c))).map (fun es =>
          { stamp := leAt l 0 8, type := leAt l 12 1, src := leAt l 13 1, payload := (l.drop 16).take 16, cont } :: es)

/-- How a slot answers for the block awaited (12 R347, R349): it is not there yet, it has been passed over, or it is
there. -/
inductive SlotCheck where
  | wait | missing | ready
  deriving DecidableEq, Repr

/-- A slot that fails its CRC or holds an older block is read again at every poll; a later block means that the one
awaited is missing (12 R347, R349). -/
def checkSlot (seq : Nat) (l : List Byte) : SlotCheck :=
  let crc := crc32c (l.take 60 ++ (l.drop 64).take 4032)
  if l.length != 4096 || leAt l 0 4 != 0x45435254 || leAt l 4 2 != 1 || leAt l 60 4 != crc.toNat || leAt l 8 8 < seq then
    .wait
  else if leAt l 8 8 = seq then .ready else .missing

/-- Entries read and not yet used take this many SEQ numbers. -/
def feedLength (l : List TraceEntry) : Nat := (l.map (fun e => 1 + e.cont.length)).sum

/-- A trace block is taken (12 R347). -/
def takeBlock (l : List Byte) (b : Block) : Block :=
  let y := b.beryl.evr
  let next := y.seq + feedLength y.feed
  match checkSlot y.blockSeq l with
  | .wait => b
  | .missing => diverge next b
  | .ready =>
    if leAt l 16 8 != next then diverge next b
    else match parseEntries (leAt l 6 1) next ((l.drop 64).take (32 * leAt l 6 1)) with
      | none => diverge next b
      | some es => modEvr (fun y => { y with feed := y.feed ++ es, blockSeq := y.blockSeq + 1 }) b

/-! ### Frames -/

/-- The stamp of the next entry of TYPE `type` in the feed. -/
def nextOf (type : Nat) (l : List TraceEntry) : Option TraceEntry := l.find? (fun e => e.type == type)

/-- The program staged with this GEN is applied, and those before it are superseded (12 R346, 03 R68). -/
def replayProgram (gen : Nat) (b : Block) : Block :=
  match b.garnet.staged.find? (fun p => p.prog.gen == gen) with
  | none => b
  | some p =>
    let olds := b.garnet.staged.takeWhile (fun q => q.prog.gen != gen)
    let b := b.modGarnet (fun g => { g with
      staged := g.staged.drop (olds.length + 1), applied := some p.prog })
    finishCtrl p.desc stOk b.garnet.frameNo gen 0
      (olds.foldl (fun b o => finishCtrl o.desc stSuperseded frameNone 0 0 b) b)

/-- The Take that the recorded boundary starts, and the one it ends (12 R346; 04 R96, R97). -/
def replayTake (start stop : Bool) (b : Block) : Block × Option Nat × Option (Nat × EndReason × Option Nat) :=
  match stop, b.garnet.take, start, b.garnet.start with
  | true, some t, _, _ =>
    let r := if !b.garnet.stops.isEmpty then .stop
      else if t.count != 0 && t.count ≤ t.captured then .count else b.garnet.stopReq.getD .stop
    let last := if t.captured = 0 then none else some (b.garnet.frameNo - 1)
    (endTake b.quartz.tb t b, none, some (t.takeId, r, last))
  | _, _, true, some w =>
    let b := b.modGarnet (fun g => { g with
      start := none
      take := some { takeId := w.takeId, count := w.count, captured := 0, startDesc := some w.desc, late := false } })
    (discTakeStart b, some w.takeId, none)
  | _, _, _, _ => (b, none, none)

/-- The reference versions that a BOUNDARY entry names (12 R342, R346; log entry 103). -/
def boundRefs (l : List Byte) : Option Nat × Option Nat × Option Nat :=
  let v (i : Nat) : Option Nat := if leAt l i 2 = 0 then none else some (leAt l i 2 - 1)
  (v 0, v 2, v 4)

/-- A BOUNDARY entry replaces the Boundary Merge (12 R346): program, t, Take, trigger, reference versions, and the Frame bound
unless the next BOUNDARY entry carries the same number. -/
def replayBoundary (e : TraceEntry) (binds : Bool) (b : Block) : Block :=
  let fl := leAt e.payload 13 1
  let b := replayProgram (leAt e.payload 8 4) (applyUnloads b)
  let b := b.modGarnet (fun g => { g with t := leAt e.payload 12 1, overrun := leAt e.payload 14 2 })
  let (b, start, stop) := replayTake (bitOf fl 0) (bitOf fl 1) b
  let b := mergeTrigger b
  match binds, b.garnet.applied with
  | true, some p =>
    let trig := if bitOf fl 2 then some (b.garnet.latch.getD 0) else none
    let b := if bitOf fl 2 then b.modGarnet (fun g => { g with latch := none }) else b
    let (b, s) := bindFrame 0 p trig b
    let s := { s with flags := { s.flags with berylAbsent := bitOf fl 3 }, refs := boundRefs (e.cont.headD []) }
    let b := b.modGarnet (fun g => { g with bound := some s })
    sendNotice { frame := s.frame, snap := some s, takeStart := start, takeStop := stop } b
  | _, _ => sendNotice { frame := b.garnet.frameNo, snap := none, takeStart := start, takeStop := stop } b

/-- A time record from its trace entry (12 R342). -/
def readTimeRecord (e : TraceEntry) : TimeRecord :=
  let l := e.payload ++ (e.cont.headD [])
  let fl := leAt l 5 1
  { cad1Stamp := e.stamp, refState := leAt l 0 1, refEvent := leAt l 1 1 != 0, phaseAdopted := leAt l 2 1 != 0
    epoch := leAt l 3 2, todValid := bitOf fl 0, todCoarse := bitOf fl 1, todStale := bitOf fl 2
    todSeconds := leAt l 6 6, todNs := leAt l 12 4, utcOffset := signed 16 (leAt l 16 2)
    tc := BitVec.ofNat 32 (leAt l 18 4), tcIndex := leAt l 22 1, tcDf := leAt l 23 1 != 0, corr := signed 32 (leAt l 24 4) }

/-- The Planes of a Frame measured over a Hand at the CAD0 times of R86 (03 R72), and the last of those times. -/
def replayPlanes (s : Snapshot) (h from_ : Nat) : List PlaneRun × Nat :=
  let d := max 1 (s.g / max 1 s.nEff)
  let r := (List.range s.nEff).foldl (fun (s, last) i =>
    let t := cad0Tick s.cad1Stamp s.l (max 1 s.g) (i * d)
    ({ s with planes := measurePlanes s h i (t - last) }, t)) (s, from_)
  (r.1.planes, r.2)

/-- A Hand as Replay runs it: no Sub-frame, its figures at once (12 R346). -/
def replayHand (b : Block) : Block :=
  match b.garnet.hand with
  | some h =>
    let (planes, last) := replayPlanes h.snap h.h b.garnet.lastSf
    let b := b.modGarnet (fun g => { g with lastSf := last })
    b.modCh (fun c => { c with
      garnetOpal := c.garnetOpal ++ [{ frame := h.snap.frame, snap := { h.snap with planes }, outcome := none, marks := 0, final := true }] })
  | none => b

/-- The grid by which a recorded Frame starts (12 R346): that of the capture pair, else TRIG_CFG.GRID. -/
def replayGrid (b : Block) : Nat := match b.quartz.cap with | some c => c.grid | none => b.field 0x110C 12 0

/-- The bound Frame starts at the stamp of TIME_REC entry `e`, its time record `r`, and `next` the stamp of the next. -/
def replayStart (stamp next : Nat) (r : TimeRecord) (b : Block) : Block :=
  match b.garnet.bound with
  | some s => replayHand (startHand s stamp (replayGrid b) (next - stamp) b.quartz.capSeq r b)
  | none => b

/-- The tick of the last Sub-frame before a CAD1 event at `stamp` (03 R72, R74), as the period before it gives it; of the first
period replayed nothing before is known, and one like itself, of length `len`, is taken (log entry 117). -/
def lastSubFrame (g : Garnet) (stamp grid len : Nat) : Nat :=
  match g.cad with
  | some (s, n, l, _) => let d := max 1 g.d; cad0Tick s l (max 1 n) ((n - 1) / d * d)
  | none =>
    let d := idleD g grid
    cad0Tick (stamp - len) len (max 1 grid) ((grid - 1) / d * d)

/-- A TIME_REC entry takes the place of Quartz's record, and starts the bound Frame at its stamp; the length of the
period is that to the next TIME_REC entry (12 R346), and H counts it (03 R76; log entry 117). -/
def replayTime (e : TraceEntry) (next : Nat) (b : Block) : Block :=
  let grid := replayGrid b
  let len := next - e.stamp
  replayStart e.stamp next (readTimeRecord e)
    ((takeTimeRecord (readTimeRecord e) b).modGarnet
      (fun g => openPeriod e.stamp grid len b.quartz.capSeq { g with lastSf := lastSubFrame g e.stamp grid len, t0In := 0 }))

/-! ### Inputs -/

/-- TOD (12 R346): the TIME_OF_DAY with this PPS_SEQ completes as recorded, and older ones were not accepted. -/
def replayTod (e : TraceEntry) (b : Block) : Block :=
  let seq := leAt e.payload 0 4
  let ds := b.opal.ctrl.flight.filter (fun d => d.status == .dispatched && descType d.bytes == 0x0D)
  let olds := ds.takeWhile (fun d => leAt d.bytes 16 4 != seq)
  match ds.find? (fun d => leAt d.bytes 16 4 == seq) with
  | some d =>
    let b := olds.foldl (fun b d => finishCtrl d.index stPpsUnknown frameNone 0 0 b) b
    finishCtrl d.index (leAt e.payload 4 1) frameNone (leAt e.payload 5 2) 0 b
  | none => b

/-- Data that a recorded NVMe completion came with, which no trace entry holds: free values, log entry 6. -/
def freeData (b : Block) : List Byte := (List.range 512).flatMap (fun i => leBytes 8 (Config.freeWord (b.fresh + i)).toNat)

/-- NVME_CPL: the recorded completion reaches Onyx (12 R346). -/
def replayNvme (e : TraceEntry) (b : Block) : Block :=
  let p := e.payload
  takeCompletion (leAt p 0 1) (leAt p 2 2) (leAt p 4 2) (leAt p 6 2) (freeData b) { b with fresh := b.fresh + 512 }

/-- DOORBELL and CTX_INDEX: the recorded indices reach Opal (12 R346). -/
def replayDoorbell (e : TraceEntry) (b : Block) : Block :=
  serveLedger (serveRing ctrlRing (takeDoorbell (e.cont.headD [] ++ e.payload) b))

/-- CTX_INDEX. -/
def replayIndex (e : TraceEntry) (b : Block) : Block :=
  let c := leAt e.payload 0 1
  serveRing c (takeHead c (leAt e.payload 5 4) (takePi c (leAt e.payload 1 4) b))

/-- A Destination outcome fails at the Ledger Merge with the recorded mark. -/
def replayOutcome (frame index : Nat) (m : BitVec 16) (b : Block) : Block :=
  let b := markFrame frame m (winMod frame (fun w => { w with failStop := w.failStop || hasMark m markFailStop }) b)
  match (winGet b frame).bind (fun w => w.dests.find? (fun d => d.dest.index == index && d.outcome == .pending)) with
  | none => b
  | some d =>
    if d.dest.magazine then
      decideDest frame index .failed (b.modCh (fun c => { c with opalOnyx := c.opalOnyx ++ [(frame, index)] }))
    else dropHost frame index .failed stFailed b

/-- Outcomes of a Frame fail at the Ledger Merge (12 R346): of a Frame that fails whole, with TIMING every Destination's, with
FAILSTOP those of the kind, magazine or host ring, of the Destination named, which one Island serves (R327); else that one alone
(log entry 95). -/
def replayOutcomes (frame index : Nat) (m : BitVec 16) (b : Block) : Block :=
  let ds := match winGet b frame with | some w => w.dests | none => []
  let kind := (ds.find? (fun d => d.dest.index == index)).map (·.dest.magazine)
  let hit (d : LedgerDest) : Bool :=
    if hasMark m markTiming then true else if hasMark m markFailStop then some d.dest.magazine == kind else d.dest.index == index
  (ds.filter hit).foldl (fun b d => replayOutcome frame d.dest.index m b) b

/-- MERGE_FAIL: the input fails at that Merge Point, named by its number in the table Merge Points, with the recorded mark
(12 R346, 01 R28): an item of Stripe 255 is its Frame's, any other a Stripe's of the Destination that its ordinal names. The BOUNDARY
entry has the outcome of the Boundary Merge; a completion that fails at the Completion Merge is that of the Destination's buffer. -/
def replayFail (e : TraceEntry) (b : Block) : Block :=
  let p := e.payload
  let frame := leAt p 1 8
  let ord := leAt p 9 2
  let whole := ord / 2 ^ 6 % 256 = 255
  let m := BitVec.ofNat 16 (leAt p 11 2)
  match leAt p 0 1 with
  | 1 =>
    match winGet b frame with
    | some w => sendTokens [{ stripeToken w.snap (ord / 2 ^ 14) (ord / 2 ^ 6 % 256) 0 0 0 m with ordinal := ord }] b
    | none => b
  | 2 =>
    if whole || hasMark m markFailStop then sendFailedItem frame (ord / 2 ^ 14) (ord / 2 ^ 6 % 256) (ord % 64) m b
    else replayOutcome frame (ord % 64) m b
  | 3 => if whole then failInOnyx frame m b else replayOutcome frame (ord % 64) m b
  | 4 => replayOutcome frame (ord % 64) m b
  | 5 => replayOutcomes frame (ord % 64) m b
  | _ => b

/-- PCIE_EVT (12 R342, R346): a recorded event of a magazine port. VS and CAP, which no trace entry holds, are free values (log
entry 6). The host port's recorded events change nothing: Replay reads the trace over that link (log entry 115). -/
def replayPcie (e : TraceEntry) (b : Block) : Block :=
  let p := e.payload
  let port := leAt p 0 1
  if port = 0 || 4 < port then b
  else match leAt p 1 1 with
    | 0 => portUp (port - 1) (leAt p 2 1) (leAt p 3 1) (Config.freeWord b.fresh).toNat (Config.freeWord (b.fresh + 1)).toNat
        { b with fresh := b.fresh + 2 }
    | 1 => linkDown (port - 1) b
    | _ => dmaViolation (port - 1) b

/-- A trigger accepted as recorded waits for its BOUNDARY entry (12 R346, 04 R103). -/
def replayTrig (e : TraceEntry) (b : Block) : Block :=
  if leAt e.payload 1 1 = 1 then b.modGarnet (fun g => { g with latch := some (leAt e.payload 2 8) }) else b

/-! ### The feed -/

/-- The fact in EVR's channel that a checked entry is compared with (12 R347). -/
def factOf (e : TraceEntry) (b : Block) : Option TraceEntry := b.ch.evr.find? (fun x => x.type == e.type && x.src == e.src)

/-- A checked entry against its fact: equal, the fact is done with; else Replay diverges (12 R347, R348). -/
def checkFact (e : TraceEntry) (b : Block) : Block :=
  match factOf e b with
  | none => b
  | some x =>
    if (x.payload ++ leBytes 16 0).take 16 = e.payload && x.cont.map (fun c => (c ++ leBytes 32 0).take 32) = e.cont then
      b.modCh (fun c => { c with evr := c.evr.erase x })
    else diverge b.beryl.evr.seq b

/-- Whether the Boundary Merge of BOUNDARY entry `e` binds its Frame; none while the feed cannot tell. -/
def replayBinds (e : TraceEntry) (rest : List TraceEntry) : Option Bool :=
  match nextOf 0x11 rest, nextOf 0x24 rest with
  | some n, _ => some (leAt n.payload 0 8 != leAt e.payload 0 8)
  | none, some _ => some (nextOf 0x10 rest).isSome
  | none, none => none

/-- The stamp at which the period of a TIME_REC entry ends: that of the next, or of TRACE_END; none while unknown. -/
def replayNext (rest : List TraceEntry) : Option Nat := ((nextOf 0x10 rest).or (nextOf 0x24 rest)).map (·.stamp)

/-- Whether the oldest entry waits: for the fact it is compared with, or for later entries of the feed. -/
def replayWaits (e : TraceEntry) (rest : List TraceEntry) (b : Block) : Bool :=
  (checkedEntry e.type && (factOf e b).isNone) || (e.type == 0x11 && (replayBinds e rest).isNone)
    || (e.type == 0x10 && (replayNext rest).isNone)

/-- What an entry that is no fact does. -/
def replayInput (e : TraceEntry) (rest : List TraceEntry) (b : Block) : Block :=
  match e.type with
  | 0x20 => if e.cont = setupDigests b then b else diverge b.beryl.evr.seq b
  | 0x21 => diverge b.beryl.evr.seq b
  | 0x24 => modEvr (fun y => { y with state := .replayDone }) b
  | 0x11 => replayBoundary e ((replayBinds e rest).getD false) b
  | 0x10 => replayTime e ((replayNext rest).getD e.stamp) b
  | 0x03 => replayTrig e b
  | 0x04 => replayDoorbell e b
  | 0x05 => replayIndex e b
  | 0x07 => replayTod e b
  | 0x09 => replayNvme e b
  | 0x0A => replayPcie e b
  | 0x12 => replayFail e b
  | _ => b

/-- What the oldest entry does. -/
def replayEntry (e : TraceEntry) (rest : List TraceEntry) (b : Block) : Block :=
  if checkedEntry e.type then checkFact e b else replayInput e rest b

/-- Use entries of the feed in order until one waits, or Replay stops. -/
def runFeed : Nat → Block → Block
  | 0, b => b
  | k + 1, b =>
    if !replayOn b then b
    else match b.beryl.evr.feed with
      | [] => b
      | e :: rest =>
        if replayWaits e rest b then b
        else
          let b := replayEntry e rest b
          if b.beryl.evr.state == .diverged then b
          else runFeed k (modEvr (fun y => { y with feed := rest, seq := y.seq + 1 + e.cont.length }) b)

/-- The snapshot of a Frame whose header Jade has been sent and which Jade has not retired. -/
def headerOf (b : Block) (frame : Nat) : Option Snapshot :=
  (b.ch.kept.garnetJade ++ b.ch.garnetJade).findSome? (fun m => match m with
    | .header s => if s.frame = frame then some s else none
    | .stripe _ => none)

/-- The lowest number of a Frame that has not started. -/
def nextStart (b : Block) : Nat := match b.garnet.bound with | some s => s.frame | none => b.garnet.frameNo

/-- A place for a tap entry in the injection buffer, which is the drain region (01 R508). -/
def injectRoom (b : Block) (n : Nat) : Option Nat := allocate drainBase drainSize ((n + 63) / 64 * 64) (b.jade.inject.map (·.2))

/-- Jade puts the bytes of a tap entry there, and issues its token. -/
def inject (s : Snapshot) (ord : Nat) (marks : BitVec 16) (data : List Byte) (a : Nat) (b : Block) : Block :=
  let b := b.modJade (fun j => { j with inject := j.inject ++ [(s.frame, a, (data.length + 63) / 64 * 64)] })
  sendTokens [stripeToken s (ord / 2 ^ 14) (ord / 2 ^ 6 % 256) a data.length (crc32c data) marks] (b.dramWrite a data)

/-- A tap entry (12 R344, R346, R347): its token goes to Jade, once the header of its Frame has gone and there is room; one of a Frame that Jade
has retired is passed over. -/
def takeTap (h data : List Byte) (b : Block) : Block :=
  let y := b.beryl.evr
  let good := h.length == 64 && leAt h 0 4 == 0x50415443 && leAt h 60 4 == (crc32c (h.take 60)).toNat
  if !good || leAt h 8 8 < y.feedSeq || leAt h 4 4 = 0 then b
  else if y.feedSeq < leAt h 8 8 then diverge y.seq b
  else
    let frame := leAt h 16 8
    let ord := leAt h 24 2
    let past (b : Block) : Block := modEvr (fun y => { y with feedSeq := y.feedSeq + 1 }) b
    match headerOf b frame with
    | none => if frame < nextStart b then past b else b
    | some s =>
      if (crc32c data).toNat != leAt h 32 4 || data.length != leAt h 4 4 then diverge y.seq b
      else match injectRoom b data.length with
        | some a => past (inject s ord (BitVec.ofNat 16 (leAt h 26 2)) data a b)
        | none => b

/-- REPLAY_FEED (12 R346, R347, R349): EVR reads the trace block or tap entry it awaits, and uses what it can. -/
def replayFeed (r : ReplayRead) (b : Block) : Block :=
  if !replayOn b || !b.topaz.berylOut || !b.hostUp then b
  else
    let b := match r with
      | .block l => takeBlock l b
      | .tap h d => takeTap h d b
      | .nothing => b
    runFeed 1024 b

end Sys2Proof.Machine
end

