-- ==== Sys2Proof/Machine/Cold.lean ====
section
/-! DEFINITION. Each Island as power-on reset leaves it (04 R80; 17 R445, R458; the reset columns of every register table).
A value that no rule gives is 0, empty or off (log entry 9). -/

namespace Sys2Proof.Machine

/-- A Cadence channel at reset (04 R93). -/
def coldChan : Chan := {
  setting := { mode := .off, reload := 0, dnum := 0, dden := 0, phase := 0 }, acc := 0, due := none, late := none, waits := [] }

/-- Quartz TBC, CAD and STRB at reset; the Time Base is held at 0 (04 R80). -/
def coldQuartz : Quartz := {
  tb := 0, running := false, tbHi := 0, capState := 0, capResult := 0, capSeq := 0, cap := none, capAcc := 0, cad1At := 0
  capL := 0, cadJ := 0, staged := none, bridge := none, chans := .replicate 32 coldChan, evCount := .replicate 32 0
  evLast := .replicate 32 0, cadLastHi := 0, strobes := .replicate 4 { pulse := .idle, src := 0, pol := false, drop := 0 } }

/-- DISC at reset: FREE, with no reference (05 R116, R137). -/
def coldDisc : Disc := {
  state := .free, corr := 0, acc := 0, expect := none, edges := 0, lastEdge := 0, lost := false, hold := 0
  holdValid := false, refQual := false, phaseAdopted := false, adopted := 0, adoptNext := false, offset := 0, alignOffset := 0
  pullOffset := none, pending := none, frozen := false, frozenAt := 0, refEvent := none, step := .qualifying, stepAt := 0, qualAt := 0, lockRun := 0, checkBad := false
  qualBad := false, window := none
  measure := { opened := 0, first := none, last := 0, periods := 0, corrSum := 0, corrCount := 0 }
  winOffset := 0, measured := 0, slew := 0, loss := 0, glitch := 0, suspect := 0, ppsReject := 0
  cfg := { kind := 0, edge := false, ratio := 1, filt := 0 }, changes := [] }

/-- TCG and the PPS numbering at reset; the Epoch is 0 (05 R132, 17 R458). -/
def coldTod : Tod := {
  ppsSeq := 0, pps := [], pairing := none, staged := none, epoch := 0, gmId := 0, ppsCfg := 0, timeCfg := 0
  localOffset := 0, stepTol := 100000, presetF := none, presetWait := none }

/-- A Cluster at reset. -/
def coldCluster : Cluster := {
  pd := .replicate 16 0, fd := .replicate 16 0, resetCode := .replicate 16 0, slots := .replicate 4 (.replicate 16 0)
  flags := .replicate 4 false, offset := 0, trim := 0, calSum := 0, calCount := 0, tally := 0, latched := .replicate 4 0 }

/-- Garnet at reset: frame numbers restart at 0, no program, CONTINUOUS (03 R69, 04 R98, 17 R458). -/
def coldGarnet : Garnet := {
  started := false, frameNo := 0, frameHi := 0, applied := none, everApplied := false, staged := [], maxGen := 0, t := 0, thermal := none
  cad := none, lastEpoch := 0, h := 0, j := 0, d := 1, lastCad0 := 0, evExpect := 0, last := false, closing := false, t0In := 0, inBridge := false
  bc := none, lastForce := false, hand := none, bound := none, boundReady := false, lastSf := 0, pair := none
  array := { rest := coldCluster, listed := [] }, slots := .replicate 4 .free, jobs := [], drn := .idle, resv := []
  mode := .continuous, policy := .queueOne, source := .trigIn, stagedTrigger := [], latch := none, overrun := 0
  trigExpect := 0, take := none, start := none, stops := [], stopReq := none, stopped := false, shutdown := false
  waitSf := 0, skipHand := false, offsetFresh := false, lastGen := 0
  view := { frame := 0, gen := 0, take := false, latched := false, burst := false, t := 0, nEff := 0, h := 0 } }

/-- Jade at reset. -/
def coldJade : Jade := {
  refs := [], refWait := [], unloads := [], refVer := 0, settings := [], setWait := [], frames := [], crcRetried := 0
  crcBad := 0, dynCount := 0, divided := false, divReq := none, resv := [], destSets := [], cfgs := [], announced := [], inject := [], tapSeq := 0, tapOff := 0
  failed := [] }

/-- Spinel at reset: every key slot EMPTY (11 R292). -/
def coldSpinel : Spinel := {
  slots := .replicate 256 emptySlot, kek := none, import_ := false, refused := false, keyWait := [], keyOpen := []
  staging := [], binds := [], segs := [], failed := [] }

/-- A ring that has never started (18 R472). -/
def coldRing : Ring := {
  state := .idle, starts := 0, sqBase := 0, cqBase := 0, sqEntries := 16, cqEntries := 16, pi := 0, next := 0, done := 0
  cqTail := 0, cqHead := 0, headFault := false, retried := false, flight := [], faultRec := none, dead := false }

/-- A CLOSED Context (08, table Context states). -/
def coldCtx : Ctx := {
  state := .closed, hostRing := false, magazine := false, keyed := false, vector := 0, bufWait := 0, inflight := 0
  ring := coldRing, highGen := 0, closeDesc := none, closeFrame := 0, cancelled := false, openFrame := 0, aborting := false }

/-- Opal at reset: link down, no ring running (17 R449). PERST# is a pin and is kept by the reset. -/
def coldOpal : Opal := {
  ctrl := coldRing, ghosts := [], ctrlResult := 0, dropped := 0, ctxs := .replicate 256 coldCtx, lastDoorbell := []
  rr := 255, failRun := 0, complCount := 0, complCrc := 0xFFFFFFFF, evSeq := 0, events := [], evLost := 0
  vecs := .replicate 64 { wanted := false, pending := false, holdoff := false }, msixEnable := false, funcMask := false
  ldg := { state := .idle, base := 0, entries := 16, tail := 0, head := 0, headFault := false }, ldgResult := 0, window := []
  nextPub := 0, ldgLost := 0, sinceMsg := 0, held := none, failed := [], takeOpen := false, takeEnds := [], cad1 := 0, times := []
  link := false, linkGen := 0, linkWidth := 0, perst := true, flush := .none_ }

/-- Onyx at reset. -/
def coldOnyx : Onyx := {
  ports := .replicate 4 emptyPort, set := none, staged := [], segs := [], takes := [], takeCount := 0, rolls := [], flush := none
  cipher := .replicate 4 [], failed := [] }

/-- Agate at reset: every pin an input (13 R363). -/
def coldAgate : Agate := {
  store := .replicate 48 0, eng := .replicate 8 blankEngine, flags := .replicate 8 false, gangLo := false, gangHi := false
  gang := .replicate 2 { out := .replicate 4 0, in_ := .replicate 4 0, outValid := false, inValid := false }
  level := .replicate 16 false, dir := .replicate 16 false, seen := .replicate 16 false, due := .replicate 8 false
  cycLevel := .replicate 16 false, cycRaised := .replicate 8 false, cycLevelBy := .replicate 16 none
  cycDirBy := .replicate 16 none, cycTrigs := 0, trigLevel := false, trigArmed := false, transfers := [] }

/-- THM at reset (15 R419). -/
def coldThermal : Thermal := {
  samples := .replicate 56 0, remote := .replicate 2 0, readings := .replicate 4 0, groups := .replicate 4 0
  begun := .replicate 4 false, badRun := .replicate 2 0, goodRun := .replicate 2 0, fault := .replicate 2 false, device := 0
  t := 0, count := 0, rising := false, signalled := false, hold := .replicate 4 false, askClock := false }

/-- OTC before fuse load, over the fuse array `fuses` with the bits `weak` and `soft` (16 R437). -/
def coldOtc (fuses weak soft : List (Nat × Half)) : Otc := {
  fuses, weak, soft, loaded := false, result := 0, wordsDone := 0, vppMv := 0, vppMeasured := false, run := none, burn := none
  pulse := none, rdata := 0, ready := false, policyOk := false, idkeyOk := false, plockOdd := false, grade := 0
  debugOpen := false, replayOk := false, keyImport := false, magPorts := 0, locks := 0, deviceId := leBytes 16 0 }

/-- EVR at reset: OFF (12 R351). -/
def coldEvr : Evr := {
  mode := 0, state := .off, seq := 0, feedSeq := 0, diverge := 0, lostEntries := 0, lostTap := 0, lostTrace := 0
  gaps := .replicate 9 0, block := [], blockSeq := 0, firstSeq := 0, openedAt := 0, traceBase := 0, traceBlocks := 0
  tapBase := 0, tapBytes := 0, feed := [] }

/-- Beryl at reset: the fuses keep what is burned, the patch area is cleared (17 R458). -/
def coldBeryl (fuses weak soft : List (Nat × Half)) (romBad : Bool) : Beryl := {
  thm := coldThermal, otc := coldOtc fuses weak soft, evr := coldEvr, telFull := false, patch := [], patched := false
  romBad }

/-- The channels hold nothing. -/
def coldChannels : Channels := {
  quartzGarnet := [], quartzAgate := [], quartzOpal := [], agateGarnet := [], garnetJade := [], drnAck := false
  jadeSpinel := [], spinelOpal := [], spinelOnyx := [], onyxOpal := [], stopRequests := [], berylGarnet := []
  noticeOpal := [], noticeSpinel := [], noticeOnyx := [], garnetOpal := [], onyxJade := [], spinelJade := []
  opalJade := [], onyxSpinel := [], garnetBeryl := [], berylJade := [], berylOpal := [], keepPowered := []
  onyxReport := [], opalReport := [], topazGarnet := [], topazOnyx := [], shutSignal := [], telBurn := [], telResult := []
  evr := [], expiry := [], ledgerNotes := [], spinelDests := [], onyxDests := [], opalSpinel := [], opalOnyx := []
  egressDue := [], topazOpal := [], takesClosed := []
  kept := { garnetJade := [], opalJade := [], onyxJade := [], spinelJade := [], jadeSpinel := [], spinelOnyx := []
            garnetOpal := [], spinelOpal := [], onyxOpal := [], ledgerNotes := [] } }

/-- Units of an Island, by number (01, table Island ownership). -/
def unitCount : Nat → Nat
  | 0 => 5 | 1 => 4 | 2 => 8 | 3 => 2 | 4 => 5 | 5 => 5 | 6 => 2 | 7 => 4 | _ => 4

/-- An Island's fault state at power-up: no fault, every generation 1 (12 R315). -/
def coldIsland (i : Nat) : IslandState := {
  frozen := none, failStop := false, dead := false, faultTimes := [], gens := .replicate (unitCount i) 1, held := .replicate (unitCount i) 1
  units := .replicate (unitCount i) .ready, firstFailed := none }

/-- Every Island's fault state at power-up. -/
def coldIslands : Vector IslandState 9 := .ofFn (fun i => coldIsland i.val)

/-- No pack (14 R382). -/
def coldPack : Pack := {
  kind := .absent, mv := 0, ma := 0, temp := 0, openReads := 0, faultShort := false, faultId := false, faultNtc := false
  faultTimer := false, ntcGood := 0, zoned := false, czone := .cold, allowed := false, phase := .off, timer := 0
  ready := false }

/-- The hold-up registers at their reset values (14 R403). -/
def coldHup : HupRegs := {
  cfg := regReset 0x200, volt := regReset 0x204, ctemp := regReset 0x208, dtemp := regReset 0x20C
  main := regReset 0x210, key := regReset 0x218, lamp := regReset 0x21C }

/-- PWR and KEY with VDD_AO down. -/
def coldPower : Power := {
  on := false, mainOk := false, mainSeenLow := true, gdMain := false, packSwitch := false, pack := coldPack
  magpwr := .replicate 4 false, vbus := 0, gdPack := false, setMa := 0, setMv := 0, hup := coldHup, holdState := 0
  chargeState := 0, pattern := 0, lamps := .replicate 2 (.off, false), flush := false
  onyxReport := none, show_ := none, upWait := none, keyDown := false, keyShown := none, keyDeferred := none, ship := false }

/-- Topaz with VDD_AO down: rails off, PWR_GOOD low, nothing latched. -/
def coldTopaz : Topaz := {
  pwr := coldPower, psq := .off, enables := .replicate 6 false, pg := .replicate 6 false, pwrGood := false, pwrPin := false
  drop := none, railFails := 0, faultCode := 0, faultPin := .high, cause := 0, lastFlush := 0, rail := 0, released := false, berylOut := false
  dramReady := false, stage := 0, patchResult := 0, patchLoading := false, telBurning := false, telBurned := 0, latch := [], latchLost := 0
  shut := none, shutSent := false, fatal := false, commit := .replicate 9 false, refused := .replicate 7 false
  rearm := .replicate 7 false, isl := coldIslands, recovered := 0, gaps := 0, ce := 0, ue := 0, absent := false, wdgLast := 0, restarts := 0
  resetTimes := [], berylDead := false, patchLost := false, spread := regReset 0x10 }

/-- Nothing put out. -/
def coldOutputs : Outputs := { host := [], msix := [], reads := [], nvme := [], readData := 0 }

/-- Registers of Topaz's own blocks: HUP, FLT and the rest below 0x1000 (18, table BAR0 map). -/
def topazRegs (l : List (Nat × Word)) : List (Nat × Word) := l.filter (fun e => e.1 < 0x1000)

/-- Every Island but Topaz enters power-on reset (17 R445, R458): nothing held in any Island survives it, DRAM included;
fuses, the PERST# pin, Topaz's own registers and what has left the block are kept. FAULT_N stays low for what lasts until
power-up (12 R325, R329). -/
def resetIslands (b : Block) : Block :=
  let o := b.beryl.otc
  { b with
    quartz := coldQuartz, disc := coldDisc, tod := coldTod, garnet := coldGarnet, jade := coldJade, spinel := coldSpinel
    opal := { coldOpal with perst := b.opal.perst }, onyx := coldOnyx, agate := coldAgate
    beryl := coldBeryl o.fuses o.weak o.soft b.beryl.romBad, dram := [], ch := coldChannels, regs := topazRegs b.regs
    topaz := { b.topaz with
      released := false, berylOut := false, dramReady := false, stage := 0, patchResult := 0, patchLoading := false
      telBurning := false, telBurned := 0, shut := none, shutSent := false, commit := .replicate 9 false
      refused := .replicate 7 false, rearm := .replicate 7 false, isl := coldIslands, recovered := 0, gaps := 0, ce := 0
      ue := 0, absent := false, wdgLast := 0, restarts := 0, resetTimes := [], berylDead := false, patchLost := false
      spread := regReset 0x10, faultPin := faultSignal (b.modTopaz (fun t => { t with released := false })) } }

/-- A power-up (17 R439, R453, R458; 14 R403; 15 R419): every register takes its reset value, those of Topaz included. -/
def resetAll (b : Block) : Block :=
  ({ resetIslands b with regs := [] }).modTopaz (fun t => { t with latchLost := 0 })

/-- The fuse array of a device as the factory ships it (log entry 10): MAGIC; grade 2, Replay permitted, four magazine
ports; no lock; identity and key all zeros; the CRC of each block (16 R420 to R423). Every other word reads 0. -/
def factoryFuses : List (Nat × Half) := [
  (0, 0xC3A5), (766, 25445), (767, 23472), (768, 0xFA), (784, 59168), (785, 33271), (856, 15033), (857, 10380)]

end Sys2Proof.Machine
end

