-- ==== Sys2Proof/Machine/Power.lean ====
section
/-! DEFINITION. Topaz PWR, KEY and the power-down side of PSQ: pack, charger, hold-up state, magazine power, lamps, the
long-press key (14), and the drop of the rails (17 R441, R442). -/

namespace Sys2Proof.Machine

/-- Change PWR and KEY. -/
def modPwr (f : Power → Power) (b : Block) : Block := b.modTopaz (fun t => { t with pwr := f t.pwr })

/-- Change what is known of the pack. -/
def modPack (f : Pack → Pack) (b : Block) : Block := modPwr (fun p => { p with pack := f p.pack }) b

/-! ### Settings in force (R403): a value outside a field's range acts as the nearest within it -/

/-- CHG_EN. -/
def chgEn (p : Power) : Bool := p.hup.cfg.getLsbD 0

/-- CHG_I, mA. -/
def chgMa (p : Power) : Nat := 100 * min 20 (max 1 (bitsOf p.hup.cfg.toNat 5 1))

/-- MAIN_UV and MAIN_OK, mV: the levels that the sense of VMAIN_SNS is held against (R380, R381). -/
def mainUvMv (p : Power) : Nat := 100 * min 300 (max 60 (bitsOf p.hup.main.toNat 8 0))
def mainOkMv (p : Power) : Nat := max (mainUvMv p + 500) (100 * bitsOf p.hup.main.toNat 24 16)

/-- FLUSH_MS, ms. -/
def flushMs (p : Power) : Nat := min 3000 (max 1000 (bitsOf p.hup.cfg.toNat 27 16))

/-- SHOW_S, seconds. -/
def showS (p : Power) : Nat := bitsOf p.hup.cfg.toNat 11 8

/-- CV voltage, recharge and precharge voltages, and the defaults of READY_MV and CUTOFF_MV of a kind, mV (R382). -/
def packFigures : PackKind → Nat × Nat × Nat × Nat × Nat
  | .liIon => (8400, 8200, 6000, 7200, 6000)
  | .lic => (7600, 7400, 4400, 6800, 4400)
  | _ => (0, 0, 0, 0, 0)

/-- CV voltage. -/
def cvMv (k : PackKind) : Nat := (packFigures k).1

/-- READY_MV in force. -/
def readyMv (p : Power) : Nat :=
  let v := bitsOf p.hup.volt.toNat 15 0
  if v = 0 then (packFigures p.pack.kind).2.2.2.1 else v

/-- CUTOFF_MV in force. -/
def cutoffMv (p : Power) : Nat := max (bitsOf p.hup.volt.toNat 31 16) (packFigures p.pack.kind).2.2.2.2

/-- HYST of the temperature zones, 0.1 °C. -/
def zoneHyst (p : Power) : Int := let h := bitsOf p.hup.dtemp.toNat 19 16; 10 * (if h = 0 then 3 else (h : Int))

/-- A signed threshold byte, 0.1 °C. -/
def tempField (w : Word) (lo : Nat) : Int := 10 * signed 8 (bitsOf w.toNat (lo + 7) lo)

/-! ### Pack state -/

/-- The pack is identified (R382). -/
def identified (k : Pack) : Bool := k.kind == .liIon || k.kind == .lic

/-- A pack fault is present. -/
def packFault (k : Pack) : Bool := k.faultShort || k.faultId || k.faultNtc || k.faultTimer

/-- The pack is CONNECTED (R379), its switch closed. -/
def connected (p : Power) : Bool :=
  p.packSwitch && identified p.pack && !packFault p.pack && p.pack.allowed && cutoffMv p < p.pack.mv

/-- Topaz charges (R386). -/
def mayCharge (p : Power) : Bool := p.mainOk && chgEn p && identified p.pack && !packFault p.pack && !p.flush

/-- Charging is suspended by the zone (R387). -/
def suspended (k : Pack) : Bool := k.czone == .cold || k.czone == .hot

/-- The charger runs. -/
def charging (p : Power) : Bool :=
  mayCharge p && !suspended p.pack &&
    (p.pack.phase == .precharge || p.pack.phase == .constantCurrent || p.pack.phase == .constantVoltage)

/-- The voltage at which the charger holds: the CV voltage, lowered 0.20 V in WARM (R387). -/
def chargeMv (k : Pack) : Nat := cvMv k.kind - (if k.czone = .warm then 200 else 0)

/-- The current that the charger is set to, mA (R386, R387). -/
def chargeMa (p : Power) : Nat :=
  if !charging p then 0
  else if p.pack.phase = .precharge then 200
  else if p.pack.czone = .normal then chgMa p else chgMa p / 2

/-- The charger's half-bridge and the ideal diode follow what is known (R379, R386): GD_PACK conducts while the pack is
CONNECTED and VBUS lies 20 mV or more below it. -/
def driveGates (p : Power) : Power :=
  { p with
    gdPack := connected p && p.vbus + 20 ≤ p.pack.mv
    setMa := chargeMa p, setMv := if charging p then chargeMv p.pack else 0 }

/-- Hold-up state code (R402). -/
def holdCode (p : Power) : Nat :=
  if p.flush then 2
  else match p.show_ with
    | some true => 3
    | some false => 4
    | none => bit p.pack.ready

/-- Charge state code: the first that applies in the order of R402. -/
def chargeCode (p : Power) : Nat :=
  let k := p.pack
  if k.kind = .absent then 0
  else if k.faultShort then 7
  else if k.faultId then 9
  else if k.faultNtc then 10
  else if k.faultTimer then 8
  else if !chgEn p || !p.mainOk || p.flush then 1
  else if suspended k then 6
  else match k.phase with
    | .off => 1
    | .precharge => 2
    | .constantCurrent => 3
    | .constantVoltage => 4
    | .done => 5

/-- HOLD_STAT pattern code of highest priority (R398). -/
def patternCode (p : Power) : Nat :=
  if p.ship then 0
  else match p.keyShown with
    | some .restart => 9
    | some .ship => 10
    | none =>
      if p.flush then 6
      else match p.show_ with
        | some true => 7
        | some false => 8
        | none =>
          if packFault p.pack then 5
          else if p.pack.kind = .absent then 4
          else if p.pack.ready then 1
          else if charging p then 2 else 3

/-- HOLD_STAT0 and HOLD_STAT1 of a pattern (R398). -/
def lampShow : Nat → LampShow × LampShow
  | 1 => (.on, .off)
  | 2 => (.blink 1000 true, .off)
  | 3 => (.off, .on)
  | 4 => (.off, .flash 1 2000)
  | 5 => (.off, .blink 1000 true)
  | 6 => (.blink 250 true, .off)
  | 7 => (.flash 2 1000, .off)
  | 8 => (.off, .blink 250 true)
  | 9 => (.blink 500 true, .blink 500 false)
  | 10 => (.on, .on)
  | _ => (.off, .off)

/-- The status lamps show the pattern, INV0 and INV1 inverting their active level (R398). -/
def driveLamps (p : Power) : Power :=
  let s := lampShow (patternCode p)
  { p with lamps := vset (vset p.lamps 0 (s.1, p.hup.lamp.getLsbD 0)) 1 (s.2, p.hup.lamp.getLsbD 1) }

/-- DATA of a HOLDUP event (R402). -/
def holdData (p : Power) : List Byte := evData [holdCode p + 8 * chargeCode p, patternCode p]

/-- The state, charge state and pattern as last reported. -/
def noteHold (p : Power) : Power :=
  { p with holdState := holdCode p, chargeState := chargeCode p, pattern := patternCode p }

/-- A HOLDUP event at each change of the hold-up state, the charge state or the pattern (R402). -/
def tellHold (b : Block) : Block :=
  let b := modPwr (fun p => driveLamps (driveGates p)) b
  let p := b.topaz.pwr
  if p.holdState = holdCode p && p.chargeState = chargeCode p && p.pattern = patternCode p then b
  else postEvent evHoldup frameNone (holdData p) (modPwr noteHold b)

/-! ### Zones (R387, R388, R390) -/

/-- `raw` of R388 for the charge zones: T_COLD and T_COOL raised by `h`, T_WARM and T_HOT lowered. -/
def chargeRaw (w : Word) (t h : Int) : ChargeZone :=
  if t < tempField w 0 + h then .cold
  else if tempField w 24 - h < t then .hot
  else if t < tempField w 8 + h then .cool
  else if tempField w 16 - h < t then .warm
  else .normal

/-- Severity of a charge zone (R387). -/
def zoneSev : ChargeZone → Nat
  | .normal => 0
  | .cool => 1
  | .warm => 1
  | .cold => 2
  | .hot => 2

/-- `next_zone` of R388. -/
def nextZone (a b_ z : ChargeZone) : ChargeZone :=
  if zoneSev z < zoneSev a then a else if zoneSev b_ < zoneSev z then b_ else z

/-- The discharge zone is ALLOWED for a temperature, its limits moved `h` toward ALLOWED (R390). -/
def dischargeRaw (w : Word) (t h : Int) : Bool := tempField w 0 + h ≤ t && t ≤ tempField w 8 - h

/-- The zones after a temperature (R388, R390): the first places it with the hysteresis. -/
def updateZones (p : Power) (t : Int) : Pack :=
  let k := p.pack
  let h := zoneHyst p
  let cw := p.hup.ctemp
  let dw := p.hup.dtemp
  if !k.zoned then { k with zoned := true, temp := t, czone := chargeRaw cw t h, allowed := dischargeRaw dw t h }
  else
    let allowed := if k.allowed then dischargeRaw dw t 0 else dischargeRaw dw t h
    { k with temp := t, czone := nextZone (chargeRaw cw t 0) (chargeRaw cw t h) k.czone, allowed }

/-! ### Readings and the control step -/

/-- The kind that a PACK_ID resistance in ohms names (R382). -/
def kindOf (ohms : Nat) : PackKind :=
  if 9000 ≤ ohms && ohms ≤ 11000 then .liIon
  else if 42300 ≤ ohms && ohms ≤ 51700 then .lic
  else .unknown

/-- The pack becomes ABSENT: its safety timer and its faults stand until one is identified again (R383, R389). -/
def packGone (k : Pack) : Pack :=
  { coldPack with
    mv := k.mv, ma := k.ma, temp := k.temp, openReads := 3, timer := k.timer, ntcGood := k.ntcGood
    faultShort := k.faultShort, faultId := k.faultId, faultNtc := k.faultNtc, faultTimer := k.faultTimer }

/-- PACK_ID as read (R382, R383): above 500 kΩ three times in a row the pack is ABSENT; a pack that appears takes one kind,
and once it is identified its safety timer and faults are cleared. -/
def readId (ohms : Nat) (k : Pack) : Pack :=
  if 500000 < ohms then
    let n := k.openReads + 1
    if 3 ≤ n then packGone k else { k with openReads := n }
  else if k.kind = .absent then
    if kindOf ohms = .unknown then { packGone k with kind := .unknown, openReads := 0, faultId := true }
    else { coldPack with kind := kindOf ohms, mv := k.mv, ma := k.ma, temp := k.temp }
  else { k with openReads := 0 }

/-- PACK_NTC as read, 0.1 °C (R385): out of range it is a fault until it has been within for 1 s, which the 11th reading in a
row shows, 100 ms apart. The zones move after each reading (R388, R390). -/
def readNtc (t : Int) (p : Power) : Pack :=
  let k := updateZones p t
  if -400 ≤ t && t ≤ 1250 then
    let n := min 11 (k.ntcGood + 1)
    { k with ntcGood := n, faultNtc := k.faultNtc && n < 11 }
  else { k with ntcGood := 0, faultNtc := true }

/-- READY, which clears 100 mV below READY_MV (R391). -/
def readyNow (p : Power) : Bool :=
  let k := p.pack
  identified k && !packFault k && k.allowed && (readyMv p ≤ k.mv || (k.ready && readyMv p ≤ k.mv + 100))

/-- READY is settled, and every change reported. -/
def settleHold (b : Block) : Block := tellHold (modPack (fun k => { k with ready := readyNow b.topaz.pwr }) b)

/-- PACK_READ (R382, R383, R385, R388): every 100 ms. -/
def packRead (ohms : Nat) (temp : Int) (b : Block) : Block :=
  if !b.topaz.pwr.on then b
  else
    let b := modPack (readId ohms) b
    settleHold (modPwr (fun p => if p.pack.kind = .absent then p else { p with pack := readNtc temp p }) b)

/-- SHORT_CHECK (R384): 10 s of precharge, still below 2.00 V. -/
def shortCheck (b : Block) : Block :=
  let k := b.topaz.pwr.pack
  if k.phase = .precharge && k.mv < 2000 then settleHold (modPack (fun k => { k with faultShort := true, phase := .off }) b)
  else b

/-- PRECHARGE_TIMEOUT (R386). -/
def prechargeTimeout (b : Block) : Block :=
  if b.topaz.pwr.pack.phase = .precharge then
    settleHold (modPack (fun k => { k with faultTimer := true, phase := .off }) b)
  else b

/-- CHARGE_DONE (R386, R389): done clears the safety timer. -/
def chargeDone (b : Block) : Block :=
  if b.topaz.pwr.pack.phase = .constantVoltage then settleHold (modPack (fun k => { k with phase := .done, timer := 0 }) b)
  else b

/-- 6 h of the safety timer, in half milliseconds (R389). -/
def safetyLimit : Nat := 43200000

/-- The count advances: constant current or constant voltage, not suspended (R389). -/
def timerRuns (k : Pack) : Bool := (k.phase == .constantCurrent || k.phase == .constantVoltage) && !suspended k

/-- The count has reached 6 h: the charger stops, with FAULT_TIMER (R389). -/
def timerOut (k : Pack) : Pack :=
  if timerRuns k && safetyLimit ≤ k.timer then { k with timer := safetyLimit, faultTimer := true, phase := .off } else k

/-- SAFETY_TIMER_EXPIRY (R389): while the count advances, the time has gone by in which it reaches 6 h. -/
def safetyTimerExpiry (b : Block) : Block :=
  settleHold (modPack (fun k => if timerRuns k then timerOut { k with timer := safetyLimit } else k) b)

/-- CLR_TIMER (R389, R403): a write `w` of HUP_CTRL. -/
def clrTimer (w : Nat) (b : Block) : Block :=
  if b.bar0 && bitOf w 0 && bitsOf w 15 8 == 0xA5 then
    settleHold (modPack (fun k => { k with timer := 0, faultTimer := false }) b)
  else b

/-! ### Magazine power (R392, R393) -/

/-- MAGPWR_EN of port `m`; with its supply gone the port is no longer settled (19 R497). -/
def setMagpwr (m : Nat) (on : Bool) (b : Block) : Block :=
  let b := modPwr (fun p => { p with magpwr := vset p.magpwr m on }) b
  if on then b else portMod m (fun p => { p with settled := false }) b

/-- Ports of the set in force, standby included. -/
def setPorts (b : Block) : List Nat :=
  match b.onyx.set with
  | some s => s.members ++ s.standby.toList
  | none => []

/-- HUP_MAGPWR_WRITE (R392; 16 R424): the bits of the set in force stay set; a port that the fuses forbid stays off. In a flush
or a shutdown the pins stay as R393 has set them (15 R413). -/
def hupMagpwrWrite (w : Nat) (b : Block) : Block :=
  if !b.bar0 then b
  else
    let old := b.field 0x214 3 0
    let want (m : Nat) : Bool := bitOf w m || (bitOf old m && (setPorts b).contains m)
    let b := b.setReg 0x214 (bitsWhere 4 want)
    if b.topaz.pwr.flush || b.topaz.shutSent || b.topaz.fatal then b
    else [0, 1, 2, 3].foldl (fun b m => setMagpwr m (want m && bitOf b.beryl.otc.magPorts m) b) b

/-- KEEP_POWERED_RECORD (R393): every port but the members named loses its supply. -/
def keepPoweredRecord (b : Block) : Block :=
  match b.ch.keepPowered with
  | [] => b
  | l :: rest =>
    let b := b.modCh (fun c => { c with keepPowered := rest })
    [0, 1, 2, 3].foldl (fun b m => if l.contains m then b else setMagpwr m false b) b

/-! ### Thermal Event Log entries (15 R415 to R417) -/

/-- A log entry: `late` for DEFERRED, `cut` for FLUSH_CUT (15 R415). -/
def telEntry (s : ShutRun) (late cut : Bool) : Half :=
  let peak : Nat := (clampInt (s.peak / 10) 0 255).toNat
  BitVec.ofNat 16 (s.group + 4 * bit late + 8 * bit s.inTake + 16 * peak + 4096 * bit cut + 32768)

/-- An entry goes into the latch, DEFERRED set; a fifth is not kept, and counted (15 R416, R417). -/
def latchEntry (e : Half) (b : Block) : Block :=
  if b.topaz.latch.length < 4 then b.modTopaz (fun t => { t with latch := t.latch ++ [e ||| 4] })
  else b.modTopaz (fun t => { t with latchLost := satAdd 255 t.latchLost 1 })

/-! ### The drop of the rails (17 R441) -/

/-- The pack switch opens, unless the Thermal Event Log latch holds an entry (R396). -/
def openSwitch (b : Block) : Block :=
  if b.topaz.latch.isEmpty then modPwr (fun p => { p with packSwitch := false }) b else b

/-- The outcome is shown for SHOW_S seconds (R396); a SHOW of 0 s ends at once, and the pack switch opens. -/
def showStarts (ok : Option Bool) (b : Block) : Block :=
  if ok.isNone then b
  else if showS b.topaz.pwr = 0 then openSwitch b
  else modPwr (fun p => { p with show_ := ok }) b

/-- What follows once the rails are down: SHOW and a power-up after a flush (R396), a restart, beside SHOW when it was deferred
from a flush, or ship mode (R400, R401; table Coincidences during a flush), a wait for the main input to have been low after a
shutdown (15 R413), one retry after a rail failure (17 R442). -/
def railsDown (b : Block) : Block :=
  let t := b.topaz
  let deferred := t.pwr.keyDeferred
  let why : DropReason := match deferred with
    | some .restart => .keyRestart
    | some .ship => .ship
    | none => t.drop.getD .shutdown
  let flushed : Option Bool := match t.drop with | some (.flush ok) => some ok | some .shutdownCut => some false | _ => none
  let last : Nat := match t.drop with | some (.flush true) => 1 | some (.flush false) => 2 | some .shutdownCut => 2 | _ => 0
  let b := b.modTopaz (fun t => { t with drop := none, lastFlush := last })
  let b := modPwr (fun p => { p with flush := false, onyxReport := none, keyDeferred := none }) b
  match why with
  | .flush ok => tellHold (showStarts (some ok) ((modPwr (fun p => { p with upWait := some 1 }) b).modTopaz (fun t =>
      { t with cause := 1 })))
  | .shutdown => tellHold (openSwitch ((modPwr (fun p => { p with mainSeenLow := !p.mainOk }) b).modTopaz (fun t =>
      { t with cause := if t.fatal then 6 else 3 })))
  | .shutdownCut => tellHold (openSwitch (showStarts (some false) ((modPwr (fun p => { p with mainSeenLow := !p.mainOk }) b).modTopaz
      (fun t => { t with cause := if t.fatal then 6 else 3 }))))
  | .keyRestart =>
    let b := modPwr (fun p => { p with packSwitch := false, upWait := some 2 }) (showStarts flushed b)
    tellHold (settleFaultPin (b.modTopaz (fun t => { t with cause := 2, faultCode := 0, railFails := 0 })))
  | .ship => tellHold (openSwitch ((modPwr (fun p => { p with ship := true, mainSeenLow := !p.mainOk, keyShown := none, upWait := none })
      b).modTopaz (fun t => { t with cause := 0 })))
  | .railFail =>
    if t.railFails < 2 then tellHold ((modPwr (fun p => { p with upWait := some 4 }) b).modTopaz (fun t => { t with cause := 4 }))
    else tellHold (modPwr (fun p => { p with mainSeenLow := !p.mainOk }) b)

/-- Highest rail whose enable is high. -/
def topRail (t : Topaz) : Option Nat := ([5, 4, 3, 2, 1, 0] : List Nat).find? (fun k => vget t.enables k false)

/-- PSQ powers down (17 R441): PWR_GOOD goes low, so every Island enters reset; a shutdown's log entry not yet burned goes
into the latch (15 R416); every MAGPWR_EN goes low. -/
def startDrop (r : DropReason) (b : Block) : Block :=
  if b.topaz.drop.isSome then b
  else
    let cut := b.topaz.pwr.onyxReport != some true
    let b := match b.topaz.shut with
      | some s => latchEntry (s.entry.getD (telEntry s true cut)) (b.modTopaz (fun t => { t with shut := none }))
      | none => b
    let b := [0, 1, 2, 3].foldl (fun b m => setMagpwr m false b) b
    let b := modPwr (fun p => { p with upWait := none }) b
    let b := resetIslands (b.modTopaz (fun t => { t with drop := some r, pwrGood := false, pwrPin := false }))
    match topRail b.topaz with
    | some k => b.modTopaz (fun t => { t with psq := .lowering k })
    | none => railsDown (b.modTopaz (fun t => { t with psq := .off }))

/-- RAIL_DOWN_STEP (17 R441): the next enable goes low. -/
def railDownStep (b : Block) : Block :=
  match b.topaz.psq with
  | .lowering k =>
    let b := b.modTopaz (fun t => { t with enables := vset t.enables k false, pg := vset t.pg k false })
    if k = 0 then railsDown (b.modTopaz (fun t => { t with psq := .off }))
    else b.modTopaz (fun t => { t with psq := .lowering (k - 1) })
  | _ => b

/-- The charger's phase for a pack voltage (R386, R387). -/
def chargePhase (p : Power) : ChargePhase :=
  let k := p.pack
  let cv := chargeMv k
  let fresh : ChargePhase := if k.mv < (packFigures k.kind).2.2.1 then .precharge
    else if cv ≤ k.mv then .constantVoltage else .constantCurrent
  if !mayCharge p then .off
  else match k.phase with
    | .done => if k.mv < (packFigures k.kind).2.1 then fresh else .done
    | .constantVoltage => if fresh = .precharge then .precharge else .constantVoltage
    | _ => fresh

/-- The safety timer over 1 ms (R389). -/
def tickTimer (k : Pack) : Nat := if timerRuns k then k.timer + (if k.czone = .normal then 2 else 1) else k.timer

/-- The flush outcome (R395): Onyx has reported every retained share committed and every open clip closed. -/
def flushOk (b : Block) : Bool := b.topaz.pwr.onyxReport == some true

/-- CONTROL_STEP (R379, R383, R384, R386, R389, R391, R395, R403): writes take effect; the pack's voltage and current and VBUS
are read; an overvoltage makes the pack ABSENT; a flush ends at once below the cutoff. -/
def controlStep (mv : Nat) (ma : Int) (vbus : Nat) (b : Block) : Block :=
  if !b.topaz.pwr.on then b
  else
    let w (off : Nat) : Word := BitVec.ofNat 32 (b.reg off)
    let b := modPwr (fun p => { p with
      hup := { cfg := w 0x200, volt := w 0x204, ctemp := w 0x208, dtemp := w 0x20C, main := w 0x210, key := w 0x218
               lamp := w 0x21C }
      vbus }) b
    let b := modPack (fun k => { k with mv, ma }) b
    let b := modPack (fun k =>
      if identified k && cvMv k.kind + 300 < mv then packGone k
      else { k with faultShort := k.faultShort || (identified k && mv < 1000) }) b
    let b := modPack (fun k => { k with phase := chargePhase b.topaz.pwr }) b
    let b := settleHold (modPack (fun k => timerOut { k with timer := min safetyLimit (tickTimer k) }) b)
    if b.topaz.pwr.flush && mv < cutoffMv b.topaz.pwr then startDrop (.flush (flushOk b)) b else b

/-! ### The long-press key (R399 to R401) -/

/-- KEY_N trace entry (12 R342). -/
def logKey (edge held : Nat) (b : Block) : Block := b.logEvr .topaz 0x0B (leBytes 1 edge ++ leBytes 4 held)

/-- KEY_PRESS (R399). In ship mode KEY_N is ignored (R401). -/
def keyPress (b : Block) : Block :=
  let p := b.topaz.pwr
  if !p.on || p.ship || p.keyDown then b else logKey 1 0 (modPwr (fun p => { p with keyDown := true }) b)

/-- KEY_RESTART_HOLD (R400): 8 s held. -/
def keyRestartHold (b : Block) : Block :=
  if b.topaz.pwr.keyDown then tellHold (modPwr (fun p => { p with keyShown := some .restart }) b) else b

/-- KEY_SHIP_HOLD (R400): 16 s held. -/
def keyShipHold (b : Block) : Block :=
  if b.topaz.pwr.keyDown then tellHold (modPwr (fun p => { p with keyShown := some .ship }) b) else b

/-- A KEY_N action: every rail drops, or the action waits for the drop in progress (R396, R400). -/
def keyAct (a : KeyAction) (b : Block) : Block :=
  let p := b.topaz.pwr
  if p.flush || b.topaz.drop.isSome then modPwr (fun p => { p with keyDeferred := some a }) b
  else startDrop (match a with | .restart => .keyRestart | .ship => .ship) b

/-- SHIP_MODE_ENTER (R400): 1.0 s after KEY_SHIP is shown. -/
def shipModeEnter (b : Block) : Block :=
  if b.topaz.pwr.keyShown = some .ship then
    keyAct .ship (modPwr (fun p => { p with keyShown := none }) b)
  else b

/-- KEY_N_RELEASE (R399, R400): `held` is the time held, ms. -/
def keyNRelease (held : Nat) (b : Block) : Block :=
  let p := b.topaz.pwr
  if !p.keyDown then b
  else
    let restart := p.keyShown = some .restart
    let b := logKey 0 held (modPwr (fun p => { p with
      keyDown := false, keyShown := if restart then none else p.keyShown }) b)
    if restart then keyAct .restart (tellHold b) else b

end Sys2Proof.Machine
end

