-- ==== Sys2Proof/Machine/Faults.lean ====
section
/-! DEFINITION. Faults, recovery and fail-stop (12 R311 to R338): freezing, Island recovery, what a fail-stopped Island does
with its inputs, FATAL, the watchdog, repeated events. -/

namespace Sys2Proof.Machine

/-- Code of a fault class (12 R312). -/
def classCode : FaultClass → Nat
  | .parity => 1 | .stall => 2 | .eventGap => 3 | .dramUe => 4 | .configLost => 5 | .hostLink => 6 | .dead => 7 | .fatal => 8

/-- Faults of an Island in the last 60 s (12 R321). -/
def recentFaults (b : Block) (i : Island) : Nat :=
  ((b.isl i).faultTimes.filter (fun t => b.quartz.tb < t + ownTicks b .topaz t 61440000000)).length

/-- ISLAND_FAULT with its detection stamp (12 R321). -/
def postIslandFault (i : Island) (c : FaultClass) (stamp action frame : Nat) (b : Block) : Block :=
  postEventAt stamp evIslandFault frame (evData [i.num.val, classCode c, action, min 255 (recentFaults b i)]) b

/-- FAULT trace entry, with its detection stamp (12 R321, R342). -/
def logFault (i : Island) (c : FaultClass) (stamp action : Nat) (b : Block) : Block :=
  b.logEvr i 0x22 (leBytes 1 i.num.val ++ leBytes 1 (classCode c) ++ leBytes 1 action) [] (some stamp)

/-! ### Failing Frames and descriptors (12 R326, R327) -/

/-- Every dispatched descriptor of an Island fails, in ring order (12 R326). -/
def failDescs (i : Island) (st : Nat) (b : Block) : Block :=
  (List.range 257).foldl (fun b r =>
    let mine := (b.ring r).flight.filter (fun d =>
      d.status == .dispatched && descOwner r (descType d.bytes) == some i)
    mine.foldl (fun b d => finish r d.index st frameNone 0 0 b) b) b

/-- The open Take ends at once with reason ISLAND_FAULT (12 R314). -/
def endTakeFault (b : Block) : Block :=
  match b.garnet.take with
  | some t =>
    let last := if t.captured = 0 then none else some (b.garnet.frameNo - 1)
    sendNotice { frame := b.garnet.frameNo, snap := none, takeStart := none, takeStop := some (t.takeId, .islandFault, last) }
      (endTake b.quartz.tb t b)
  | none => b

/-- Frames that Garnet holds: undrained, in their Hand, or bound. -/
def garnetFrames (g : Garnet) : List Snapshot :=
  let l := (g.jobs.filter (fun j => !g.hand.any (fun h => h.snap.frame == j.snap.frame))).map (·.snap)
  l ++ (g.hand.map (·.snap)).toList ++ g.bound.toList

/-- Garnet fails every Frame it holds, header and outcome, and its Take ends (12 R314, R322, R324). -/
def failGarnet (mark : BitVec 16) (b : Block) : Block :=
  let b := (garnetFrames b.garnet).foldl (fun b s =>
    let s := { s with flags := { s.flags with failStop := mark == markFailStop, timing := s.flags.timing || mark == markTiming } }
    noteFailed .garnet s.frame (failFrame s mark (sendHeader s b))) b
  endTakeFault (b.modGarnet (fun g => { g with
    hand := none, bound := none, boundReady := false, bc := none, jobs := [], resv := [], drn := .idle, slots := .replicate 4 .free }))

/-- Jade fails a Frame whole, and sends a token on to Spinel for each item of it that it holds (12 R326, R327). -/
def failInJade (frame : Nat) (b : Block) : Block :=
  if b.jade.failed.contains frame then closeFrame frame b
  else
    let tags := heldTags b frame
    let b := noteFailed .jade frame (b.modJade (fun j => { j with failed := withFrame frame j.failed }))
    tags.foldl (fun b t => sendFailedItem frame t.1 t.2 0 markFailStop b) (closeFrame frame b)

/-- Every SEQ_TRANSFER that Opal has dispatched fails; VALUE gives the words moved (13 R375, 08 R219). -/
def failTransfers (b : Block) : Block :=
  let b := b.agate.transfers.foldl (fun b t => finishCtrl t.desc stFailed frameNone t.moved 0 b) b
  failDescs .agate stFailed (b.modAgate (fun a => { a with transfers := [] }))

/-- The Frames of a list, each once, rising. -/
def framesOf (l : List Nat) : List Nat := l.eraseDups.mergeSort (· ≤ ·)

/-- The Frames of which an Island holds an item, `all` of those whose Destinations Opal serves or only those with a buffer. -/
def heldItems (i : Island) (all : Bool) (b : Block) : List Nat :=
  framesOf (match i with
    | .jade => b.jade.frames.map (·.snap.frame) ++ b.jade.resv.map (·.1) ++ b.jade.destSets.map (·.1)
    | .spinel => b.spinel.segs.map (·.frame) ++ (b.ch.spinelOnyx.filter (fun t => !t.isFailed)).map (·.frame)
    | .opal => (b.opal.window.filter (fun w =>
        w.dests.any (fun d => !d.dest.magazine && (all || d.buffer.isSome) && d.outcome == .pending))).map (·.frame)
    | .onyx => (b.onyx.segs.filter (fun g => g.outcome == .pending)).map (·.frame)
    | _ => [])

/-- An Island fails a Frame whole (12 R327). -/
def failFrameIn (i : Island) (frame : Nat) (b : Block) : Block :=
  match i with
  | .jade => failInJade frame b
  | .spinel => failInSpinel frame markFailStop b
  | .opal => failInOpal frame b
  | .onyx => failInOnyx frame markFailStop b
  | _ => b

/-- An Island fails every Frame of which it holds an item, in the order of their numbers (12 R326, R327). -/
def failHeld (i : Island) (all : Bool) (b : Block) : Block := (heldItems i all b).foldl (fun b f => failFrameIn i f b) b

/-- What each Island fails as it fail-stops (12 R326, R328). -/
def failItems (i : Island) (b : Block) : Block :=
  let b := failHeld i false (failDescs i stFailed (if i = .agate then failTransfers b else b))
  match i with
  | .garnet =>
    failGarnet markFailStop (b.modGarnet (fun g => { g with staged := [], stagedTrigger := [], start := none, stops := [] }))
  | .jade => b.modJade (fun j => { j with refWait := [], setWait := [] })
  | .spinel => b.modSpinel (fun s => { s with keyWait := [], keyOpen := [] })
  | .onyx => b.modOnyx (fun o => { o with staged := [] })
  | _ => b

/-- A data-path Island (12 R314). -/
def dataPath : Island → Bool
  | .garnet => true | .jade => true | .spinel => true | .opal => true | .onyx => true
  | _ => false

/-- An Island fail-stops (12 R325, R326); a DEAD one stays so until power-up. The FAULT trace entry of any other is
logged by its recovery (12 R321). -/
def failStopIsland (i : Island) (dead : Bool) (b : Block) : Block :=
  let (c, stamp) := (b.isl i).frozen.getD (.parity, b.quartz.tb)
  let b := b.modIsl i (fun s => { s with failStop := true, frozen := some (c, stamp), dead := s.dead || dead, firstFailed := none })
  let b := settleFaultPin (failItems i b)
  if dead then
    let b := logFault i .dead stamp 3 b
    let b := if dataPath i then endTakeFault b else b
    postIslandFault i .dead stamp 3 ((b.isl i).firstFailed.getD frameNone) b
  else b

/-! ### FATAL (12 R329) -/

/-- The shutdown event goes to Garnet, Onyx and Opal (15 R411, R412). -/
def sendShutdown (b : Block) : Block :=
  let b := b.modTopaz (fun t => { t with shutSent := true })
  b.modCh (fun c => { c with
    topazGarnet := c.topazGarnet ++ [.shutdown], topazOnyx := c.topazOnyx ++ [.shutdown], topazOpal := c.topazOpal ++ [.shutdown] })

/-- A fault in Quartz or Topaz: Garnet stops at once, the Frame in progress fails with TIMING, and the shutdown sequence
runs. -/
def fatalFault (i : Island) (b : Block) : Block :=
  if b.topaz.fatal then b
  else
    let b := settleFaultPin (b.modTopaz (fun t => { t with fatal := true }))
    let b := if i = .quartz then b.modIsl .quartz (fun s => { s with frozen := some (.fatal, b.quartz.tb) }) else b
    let b := b.modIsl i (fun s => { s with faultTimes := b.quartz.tb :: s.faultTimes })
    let first := ((garnetFrames b.garnet).head?.map (·.frame)).getD frameNone
    let b := logFault i .fatal b.quartz.tb 3 (failGarnet markTiming b)
    let b := b.modGarnet (fun g => { g with stopped := true, started := false })
    postIslandFault i .fatal b.quartz.tb 3 first (sendShutdown b)

/-! ### Freezing (12 R320, R325, R326) -/

/-- An Island detects a fault of this class in its own logic. A fault of Beryl freezes it until the watchdog acts. -/
def islandDetects (i : Island) (c : FaultClass) (b : Block) : Block :=
  if !b.alive i then b
  else match i with
    | .quartz => fatalFault i b
    | .topaz => fatalFault i b
    | _ =>
      let tb := b.quartz.tb
      let b := b.modIsl i (fun s => { s with
        frozen := some (c, tb), firstFailed := none
        faultTimes := tb :: s.faultTimes.filter (fun t => tb < t + ownTicks b .topaz t 61440000000)
        units := s.units.map (fun _ => .frozen) })
      if i = .beryl then b
      else if 4 ≤ recentFaults b i then failStopIsland i true b
      else if b.berylAbsent then failStopIsland i false b
      else b

/-- ISLAND_FAULT (12 R312, R320): parity or ECC on an Island's registers, queues and memories, or an uncorrectable error in
Onyx's or Opal's half of the metadata region, which is counted and posted and then a PARITY fault (12 R331). The other classes
are those of other steps; nothing is detected by this one. -/
def islandFault (i : Island) (c : FaultClass) (b : Block) : Block :=
  match c with
  | .parity => islandDetects i .parity b
  | .dramUe => if (i = .opal || i = .onyx) && b.alive i then islandDetects i .parity (eccCount i frameNone .ue b) else b
  | .fatal => if i = .quartz || i = .topaz then islandDetects i .parity b else b
  | _ => b

/-! ### The progress watchdog (12 R337) -/

/-- FLT_CFG.STALL_MS; 0 acts as 20 (12 R350). -/
def stallMs (b : Block) : Nat := let v := b.field 0x300 7 0; if v = 0 then 20 else v

/-- Descriptors of an Island that Opal has dispatched. -/
def hasDescs (b : Block) (i : Island) : Bool :=
  (b.opal.ghosts ++ b.opal.ctrl.flight).any (fun d => d.status == .dispatched && descOwner ctrlRing (descType d.bytes) == some i)

/-- An Island holds work (12 R337). Quartz, Beryl and Topaz always have some. -/
def holdsWork (b : Block) (i : Island) : Bool :=
  match i with
  | .garnet => !(garnetFrames b.garnet).isEmpty || hasDescs b i
  | .jade => !b.jade.frames.isEmpty || hasDescs b i
  | .spinel => !b.spinel.segs.isEmpty || !b.ch.onyxSpinel.isEmpty || hasDescs b i
  | .opal => b.opal.window.any (fun w => w.record == .forming) || hasDescs b i ||
      b.opal.ctxs.toList.any (fun c => !c.ring.flight.isEmpty)
  | .onyx => b.onyx.segs.any (·.outcome == .pending) || b.onyx.ports.toList.any (fun p => !p.steps.isEmpty) || hasDescs b i
  | .agate => !b.agate.transfers.isEmpty || b.agate.eng.toList.any (·.en)
  | _ => true

/-- What an Island waits for is another's to give: a message of its own is not taken, or the host or a magazine has the next
step (12 R337). -/
def heldBack (b : Block) (i : Island) : Bool :=
  match i with
  | .garnet => b.garnet.drn == .holding
  | .jade => !b.ch.jadeSpinel.isEmpty
  | .spinel => !b.ch.spinelOpal.isEmpty || !b.ch.spinelOnyx.isEmpty
  | .opal => !b.hostUp || !b.opal.ctrl.room || !ledgerRoom b.opal.ldg
  | .onyx => !b.ch.onyxOpal.isEmpty || b.onyx.ports.toList.any (fun p => !p.cmds.isEmpty)
  | _ => false

/-- STALL (12 R337): STALL_MS have passed since tick `since`, when the Island last made progress, with work held and no
back-pressure. -/
def stall (i : Island) (since : Nat) (b : Block) : Block :=
  if b.alive i && holdsWork b i && !heldBack b i && since ≤ b.quartz.tb then
    islandDetects i .stall (b.advance (since + ownTicks b i since (1024000 * stallMs b)))
  else b

/-! ### Recovery (12 R318 to R324) -/

/-- Events that reached frozen or fail-stopped Garnet: the cadence goes by, no Sub-frame runs (12 R322, R328). -/
def passCadence (m : CadMsg) (b : Block) : Block :=
  match m with
  | .cad1 stamp g l seq _ => b.modGarnet (fun x => { openPeriod stamp g l seq x with bc := none })
  | .cad0 t last closing t0In => b.modGarnet (seeCad0 t last closing t0In)

/-- Every event that waits in the channel goes by. -/
def passAll (b : Block) : Block :=
  b.ch.quartzGarnet.foldl (fun b m => passCadence m b) (b.modCh (fun c => { c with quartzGarnet := [] }))

/-- Engine registers and queues cleared, engines halted; pins keep their levels (12 R322). -/
def clearEngines (a : Agate) : Agate :=
  { a with
    eng := .replicate 8 blankEngine, flags := .replicate 8 false, transfers := [], due := .replicate 8 false, cycTrigs := 0
    cycRaised := .replicate 8 false, cycLevelBy := .replicate 16 none, cycDirBy := .replicate 16 none
    gang := .replicate 2 { out := .replicate 4 0, in_ := .replicate 4 0, outValid := false, inValid := false } }

/-- What a sender sends again: the items it keeps, in their order, then those that the sink has not taken (12 R319, R321). -/
def reissue {α : Type} [BEq α] (kept ch : List α) : List α := kept ++ ch.filter (fun x => !kept.contains x)

/-- The descriptors of a ring that Opal has dispatched: it reads their entries again, from the done index on, for its own fetch
buffers are cleared and their owners still have them (12 R322; log entry 114). -/
def refetchReads (x : Ring) : List (Nat × Nat) :=
  let n := (x.flight.filter (fun d => d.status != .fetched)).length
  if n = 0 || x.dead then [] else sqReads { x with next := x.done } n

/-- Descriptors that Opal had fetched and not dispatched are forgotten, and fetched again from their ring (12 R322). -/
def refetch (x : Ring) : Ring :=
  let keep := x.flight.filter (fun d => d.status != .fetched)
  { x with flight := keep, next := (x.next + 2 * x.sqEntries - (x.flight.length - keep.length)) % (2 * x.sqEntries), retried := false }

/-- Work state of an Island cleared by its recovery, what that fails, and what its senders send again (12 R322, R323). -/
def clearWork (i : Island) (b : Block) : Block :=
  match i with
  | .garnet =>
    let b := passAll (failGarnet markFailStop b)
    b.modGarnet (fun g => { g with
      waitSf := 65, offsetFresh := true, pair := none, skipHand := false, lastForce := false
      array := arrayAll (fun c => { c with slots := .replicate 4 (.replicate 16 0), flags := .replicate 4 false, offset := 0
                                           trim := 0, calSum := 0, calCount := 0 }) g.array })
  | .jade =>
    (b.modJade (fun j => { j with frames := [], resv := [], destSets := [] })).modCh (fun c => { c with
      garnetJade := reissue c.kept.garnetJade c.garnetJade, opalJade := reissue c.kept.opalJade c.opalJade
      onyxJade := reissue c.kept.onyxJade c.onyxJade, spinelJade := reissue c.kept.spinelJade c.spinelJade })
  | .spinel =>
    (b.modSpinel (fun s => { s with
      segs := s.segs.map (fun g => { g with stripes := [], whole := false, moved := [], buffer := none, ue := false }) })).modCh
      (fun c => { c with
        jadeSpinel := reissue c.kept.jadeSpinel c.jadeSpinel, spinelOnyx := c.spinelOnyx.filter (·.isFailed)
        spinelOpal := c.spinelOpal.filter (·.failed) })
  | .opal =>
    let reads := refetchReads b.opal.ctrl ++ b.opal.ctxs.toList.flatMap (fun x => refetchReads x.ring)
    ((b.modOut (fun o => { o with reads := reads ++ o.reads })).modOpal (fun o => { o with
      ctrl := refetch o.ctrl, ctxs := o.ctxs.map (fun x => { x with ring := refetch x.ring }) })).modCh (fun c => { c with
        garnetOpal := c.kept.garnetOpal ++ c.garnetOpal, spinelOpal := c.kept.spinelOpal ++ c.spinelOpal
        onyxOpal := c.kept.onyxOpal ++ c.onyxOpal, ledgerNotes := c.kept.ledgerNotes ++ c.ledgerNotes
        kept := { c.kept with garnetOpal := [], spinelOpal := [], onyxOpal := [], ledgerNotes := [] } })
  | .onyx =>
    (b.modOnyx (fun o => { o with
      segs := o.segs.map (fun g => if g.parts.all (fun p => p.extent.isNone) then { g with whole := false, header := [] } else g) })).modCh
      (fun c => { c with spinelOnyx := reissue c.kept.spinelOnyx c.spinelOnyx })
  | .agate =>
    ((failTransfers b).modAgate (fun a => { clearEngines a with trigLevel := false, trigArmed := false })).modCh (fun c => { c with
      quartzAgate := [] })
  | _ => b

/-- The retained configuration of an Island at reset (12 R321 step 3): frame numbers go on (00 R10), delivered fuse values
stay (16 R429), key slots are left unchanged (11 R292), pins keep their levels. -/
def loseConfig (i : Island) (b : Block) : Block :=
  let b := failDescs i stStale b
  let b := { b with regs := b.regs.filter (fun e => match regRow e.1 with | some r => r.island != i | none => true) }
  let b := b.modTopaz (fun t => { t with
    commit := t.commit.set i.num false, rearm := vset t.rearm i.num.val true })
  match i with
  | .garnet => b.modGarnet (fun g => { coldGarnet with
      frameNo := g.frameNo, everApplied := g.everApplied, maxGen := g.maxGen, array := g.array, cad := g.cad, h := g.h, j := g.j
      lastCad0 := g.lastCad0, d := g.d, last := g.last, closing := g.closing, t0In := g.t0In, inBridge := g.inBridge
      evExpect := g.evExpect, trigExpect := g.trigExpect, waitSf := 65, offsetFresh := true
      stopped := g.stopped, shutdown := g.shutdown })
  | .jade => b.modJade (fun j => { coldJade with refVer := j.refVer, failed := j.failed })
  | .spinel => b.modSpinel (fun s => { coldSpinel with
      kek := s.kek, import_ := s.import_, failed := s.failed, slots := s.slots, binds := s.binds, segs := s.segs, staging := s.staging })
  | .opal => b.modOpal (fun o => { coldOpal with
      perst := o.perst, link := o.link, evSeq := o.evSeq, cad1 := o.cad1, nextPub := o.nextPub, window := o.window
      takeEnds := o.takeEnds, takeOpen := o.takeOpen, failed := o.failed, times := o.times, flush := o.flush })
  | .onyx => b.modOnyx (fun o => { coldOnyx with
      ports := o.ports.map (fun p => { emptyPort with settled := p.settled }), failed := o.failed, takes := o.takes })
  | .agate => b.modAgate (fun a => { coldAgate with level := a.level, dir := a.dir, seen := a.seen })
  | _ => b

/-- What moves again once an Island is back: senders re-issue what it had not retired (12 R319, R321 step 5). -/
def resumeIsland (i : Island) (b : Block) : Block :=
  match i with
  | .opal => resumeOpal b
  | .spinel => serveAllHosts (repostBuffers b)
  | .onyx => serveOnyx b
  | _ => serveRing ctrlRing b

/-- Clearing the work state of an Island fails work: Garnet's Frames, Agate's transfers (12 R322). -/
def recoveryFails (i : Island) (b : Block) : Bool :=
  match i with
  | .garnet => !(garnetFrames b.garnet).isEmpty
  | .agate => !b.agate.transfers.isEmpty || hasDescs b .agate
  | _ => false

/-- A descriptor of the Island's is in flight, which a loss of its configuration ends STALE (12 R316). -/
def failsDescs (i : Island) (b : Block) : Bool :=
  hasDescs b i || (i = .opal && b.opal.ctxs.toList.any (fun c => c.ring.flight.any (fun d => d.status == .dispatched)))

/-- The items that senders have on the way to an Island, or keep for it, carry the generation that they now hold (12 R315, R321
step 5). -/
def restamp (i : Island) (b : Block) : Block :=
  let n := b.stamp i
  let tok (t : SegToken) : SegToken := { t with sent := n }
  let msg (m : GarnetJade) : GarnetJade := match m with | .stripe t => .stripe { t with sent := n } | .header s => .header s
  restampDescs i (match i with
    | .jade => b.modCh (fun c => { c with
        garnetJade := c.garnetJade.map msg, kept := { c.kept with garnetJade := c.kept.garnetJade.map msg } })
    | .spinel => b.modCh (fun c => { c with
        jadeSpinel := c.jadeSpinel.map tok, onyxSpinel := c.onyxSpinel.map (fun r => { r with sent := n })
        kept := { c.kept with jadeSpinel := c.kept.jadeSpinel.map tok } })
    | .onyx => b.modCh (fun c => { c with
        spinelOnyx := c.spinelOnyx.map tok, kept := { c.kept with spinelOnyx := c.kept.spinelOnyx.map tok } })
    | _ => b)

/-- Beryl recovers an Island (12 R321): `configOk` tells whether its retained configuration passes its parity check. Without it
the Frames in hand fail (12 R312), and the Units stay EMPTY: their senders are given no new generation (12 R316). -/
def recoverIsland (i : Island) (configOk : Bool) (b : Block) : Block :=
  let s := b.isl i
  let (c0, stamp) := s.frozen.getD (.parity, b.quartz.tb)
  let c : FaultClass := if configOk then c0 else .configLost
  let was := s.failStop
  let lost := !configOk && (!(heldItems i true b).isEmpty || failsDescs i b)
  let action := if was then 2 else if recoveryFails i b || lost then 1 else 0
  let b := logFault i c stamp action b
  let b := b.modIsl i (fun s => { s with
    gens := s.gens.map nextGen
    firstFailed := if was then s.firstFailed else none })
  let b := clearWork i (if configOk then b else failHeld i true b)
  let b := if configOk then b else loseConfig i b
  let b := b.modIsl i (fun s => { s with
    frozen := none, failStop := false, held := if configOk then s.gens else s.held
    units := s.units.map (fun _ => if configOk then .ready else .empty) })
  let b := restamp i b
  let b := settleFaultPin (b.modTopaz (fun t => { t with recovered := satAdd 65535 t.recovered 1 }))
  let first := (b.isl i).firstFailed
  postIslandFault i c stamp action (first.getD frameNone) (resumeIsland i b)

/-- ISLAND_RECOVERY (12 R320, R321): Beryl recovers a frozen or fail-stopped Island that is not DEAD; `ok` is false where
the recovery fails, and the Island then fail-stops. -/
def islandRecovery (i : Island) (ok configOk : Bool) (b : Block) : Block :=
  let s := b.isl i
  if !firmware b || s.frozen.isNone || s.dead || i = .quartz || i = .beryl || i = .topaz then b
  else if ok then recoverIsland i configOk b
  else if s.failStop then b
  else failStopIsland i false b

/-! ### Gates: what an Island does with an input (12 R320, R326) -/

/-- A frozen Island, or one left EMPTY, withholds its acknowledgement: the input waits. A fail-stopped one takes it and
fails it. -/
def served (i : Island) (fail f : Block → Block) (b : Block) : Block :=
  if b.failing i then fail b
  else if b.alive i && !islandEmpty b i then f b
  else b

/-- Fail-stopped Jade takes a message of Garnet: its Frame fails, a Stripe's token goes on failed, and the message is retired
(12 R326, R327). -/
def jadeFails (f : Block → Block) (b : Block) : Block :=
  match b.ch.garnetJade with
  | .stripe t :: _ => f (sendFailedItem t.frame t.plane t.stripe 0 markFailStop (failInJade t.frame b))
  | .header s :: _ => f (failInJade s.frame b)
  | [] => b

/-- Fail-stopped Spinel takes a Segment Stripe token: its Frame fails, and the token goes on failed to Onyx or to Opal (12 R326,
R338). One that has failed before goes its way. -/
def spinelFails (f : Block → Block) (b : Block) : Block :=
  match egressNext b with
  | some t =>
    let b := f (failInSpinel t.frame markFailStop b)
    if t.isFailed then b
    else
      let b := mergeFail .spinel 2 t.frame (tagOrdinal t.plane t.stripe t.index) markFailStop b
      if t.magazine then failOnward t.frame t.plane t.stripe t.index markFailStop b
      else failSegment t.frame t.index t.stripe markFailStop b
  | none => b

/-- Fail-stopped Spinel takes a share encryption request: its Frame fails (12 R326). -/
def spinelFailsShare (b : Block) : Block :=
  match b.ch.onyxSpinel with
  | r :: rest => failInSpinel r.frame markFailStop (cipherFree r.port r.dst (b.modCh (fun c => { c with onyxSpinel := rest })))
  | [] => b

/-- A fail-stopped Island takes a latch notice, the one behind `lost` others: the Frame it names fails there. -/
def noticeFails (ch : Channels → List LatchNotice) (failIn : Nat → Block → Block) (lost : Nat) (f : Block → Block) (b : Block) : Block :=
  match (ch b.ch).drop lost with
  | n :: rest =>
    let b := f b
    if (ch b.ch).length ≤ rest.length then
      match n.snap with | some s => failIn s.frame b | none => b
    else b
  | [] => b

/-- Fail-stopped Spinel takes a latch notice. -/
def spinelNoticeFails (lost : Nat) (f : Block → Block) (b : Block) : Block :=
  noticeFails (·.noticeSpinel) (fun n => failInSpinel n markFailStop) lost f b

/-- Fail-stopped Onyx takes a Segment Stripe token. -/
def onyxFails (f : Block → Block) (b : Block) : Block :=
  match b.ch.spinelOnyx with
  | t :: _ => f (failInOnyx t.frame markFailStop b)
  | [] => b

/-- Fail-stopped Onyx takes a latch notice. -/
def onyxNoticeFails (lost : Nat) (f : Block → Block) (b : Block) : Block :=
  noticeFails (·.noticeOnyx) (fun n => failInOnyx n markFailStop) lost f b

/-- Fail-stopped Opal takes a host-bound Segment Stripe: its Frame fails (12 R327). -/
def opalFails (f : Block → Block) (b : Block) : Block :=
  match b.ch.spinelOpal with
  | m :: _ => f (failInOpal m.frame b)
  | [] => b

/-- Fail-stopped Garnet: Cadence events go by. -/
def garnetPasses (b : Block) : Block :=
  match b.ch.quartzGarnet with
  | m :: rest => passCadence m (b.modCh (fun c => { c with quartzGarnet := rest }))
  | [] => b

/-- Fail-stopped Garnet: a trigger is dropped, which TRIG_OVERRUN counts (04 R105). -/
def garnetDropsTrigger (b : Block) : Block :=
  match b.ch.agateGarnet with
  | _ :: rest => missTriggers 1 (b.modCh (fun c => { c with agateGarnet := rest }))
  | [] => b

/-- Fail-stopped Garnet: a thermal step record is dropped. -/
def garnetDropsStep (b : Block) : Block := b.modCh (fun c => { c with berylGarnet := c.berylGarnet.drop 1 })

/-- Fail-stopped Agate: a Cadence event is dropped. -/
def agateDrops (b : Block) : Block := b.modCh (fun c => { c with quartzAgate := c.quartzAgate.drop 1 })

/-! ### The watchdog (12 R333 to R336) -/

/-- WATCHDOG_REPORT (12 R333): the watchdog's count starts again. `lost` reports before this one were lost (01 R16). -/
def watchdogReport (lost : Nat) (b : Block) : Block :=
  if firmware b then
    (if gapSeen lost then eventGap .topaz b else b).modTopaz (fun t => { t with wdgLast := b.quartz.tb })
  else b

/-- BERYL trace entry (12 R342): event 0 watchdog reset, 1 BERYL_ABSENT cleared. -/
def logBeryl (event : Nat) (b : Block) : Block :=
  b.logEvr .beryl 0x23 (leBytes 1 event ++ leBytes 1 b.topaz.restarts)

/-- BERYL_ABSENT rises (12 R333, R334): a data-path Island that is frozen fail-stops at once. -/
def raiseAbsent (b : Block) : Block :=
  let b := b.modTopaz (fun t => { t with absent := true })
  ([.garnet, .jade, .spinel, .opal, .onyx, .agate] : List Island).foldl (fun b i =>
    if (b.isl i).frozen.isSome && !(b.isl i).failStop then failStopIsland i false b else b) b

/-- WDG_CFG.PERIOD_MS; 0 acts as 10 (12 R350). -/
def wdgPeriod (b : Block) : Nat := let v := b.field 0x318 7 0; if v = 0 then 10 else v

/-- THM's state machine as a watchdog reset leaves it; sampling goes on, and a group that holds the first Hand back still does
(12 R333, 15 R414). The states last reported stay known, so that the restart posts each change (15 R407). -/
def resetThermal (x : Thermal) : Thermal :=
  { x with begun := .replicate 4 false, device := 0, t := 0, count := 0, rising := false, askClock := false }

/-- WATCHDOG_EXPIRY (12 R333, R336; 17 R448): a period has passed with no report, READY having come, or with the ROM's check
failed. The MCU and THM's state machine are reset; the fourth reset within 60 s leaves Beryl DEAD. -/
def watchdogExpiry (b : Block) : Block :=
  let t := b.topaz
  if !t.pwr.on || !t.berylOut || t.berylDead || !(b.beryl.romBad || (2 ≤ t.stage && !t.absent)) then b
  else
    let b := b.advance (t.wdgLast + ownTicks b .topaz t.wdgLast (1024000 * wdgPeriod b))
    let tb := b.quartz.tb
    let times := tb :: t.resetTimes.filter (fun x => tb < x + ownTicks b .topaz x 61440000000)
    let b := b.modTopaz (fun t => { t with
      restarts := satAdd 255 t.restarts 1, resetTimes := times, wdgLast := tb, berylDead := t.berylDead || 4 ≤ times.length })
    let b := b.modIsl .beryl (fun s => { s with frozen := none, units := s.units.map (fun _ => .ready) })
    let b := wakeUnit .beryl 2 (wakeUnit .beryl 0 b)
    let b := modThm resetThermal b
    logBeryl 0 (raiseAbsent (settleFaultPin b))

/-- Beryl comes back (12 R335 steps 2 to 6): its thermal states from the present readings and Garnet's divisor, fail-stopped
Islands recovered, those in `lost` with class CONFIG_LOST, BERYL_ABSENT cleared, BERYL_RESTART posted with the first Frame then bound, a waiting run resumed. -/
def berylBack (mvs : List Nat) (lost : List Island) (b : Block) : Block :=
  let t := b.garnet.t
  let b := (modThm (fun x => { x with t, count := 0 }) b).modCh (fun c => { c with garnetBeryl := [] })
  let b := modThm (fun x => { x with begun := .replicate 4 false }) b
  let b := formStates false b
  let new := deviceState b
  let b := modThm (fun x => { x with device := new, rising := 2 ≤ new }) b
  let b := if t = 0 && 2 ≤ new then stepUp b else b
  let b := ([.garnet, .jade, .spinel, .opal, .onyx, .agate] : List Island).foldl (fun b i =>
    if (b.isl i).failStop && !(b.isl i).dead then recoverIsland i (!lost.contains i) b else b) b
  let b := b.modTopaz (fun t => { t with absent := false, wdgLast := b.quartz.tb })
  let b := logBeryl 1 b
  resumeRun mvs (postEvent evBerylRestart b.garnet.frameNo (leBytes 2 b.topaz.restarts) b)

/-- BERYL_RESTART_DONE (12 R335): `patchOk` is the CRC check of the patch area; `mv` is VPP_OTP as a waiting run takes it
up; the Islands in `bad` fail the parity check of their retained configuration (12 R321). -/
def berylRestartDone (patchOk : Bool) (mv : Nat) (bad : List Island) (more : List Nat) (b : Block) : Block :=
  let t := b.topaz
  if !t.pwr.on || !t.absent || t.patchLoading || t.berylDead || b.beryl.romBad || !t.dramReady then b
  else
    let lost := b.beryl.patched && !patchOk
    let b := b.modTopaz (fun t => { t with patchLost := t.patchLost || lost, stage := 2 })
    berylBack (mv :: more) bad (b.modBeryl (fun y => { y with patched := y.patched && patchOk }))

/-! ### Repeated events (12 R330) -/

/-- Opal takes the power and shutdown events that have reached it (14 R394, 15 R412). -/
def takeTopazOpal (b : Block) : Block :=
  if !b.takes .opal then b
  else
    b.ch.topazOpal.foldl (fun b _ => b.modOpal (fun o => { o with
      flush := if o.flush = .none_ then .running else o.flush })) (b.modCh (fun c => { c with topazOpal := [] }))

/-- EVENT_REPEAT: Topaz repeats an event while its condition holds and the sink's status does not show that it has acted;
`lost` events of that channel have been lost, which is a gap. -/
def eventRepeat (i : Island) (lost : Nat) (b : Block) : Block :=
  let e : Option TopazEvent := if b.topaz.pwr.flush then some (.loss (flushMs b.topaz.pwr)) else if b.topaz.shutSent || b.topaz.fatal then some .shutdown else none
  match i, e with
  | .garnet, some e =>
    let n := min lost b.ch.topazGarnet.length
    let b := b.modCh (fun c => { c with topazGarnet := c.topazGarnet.drop n })
    let b := if gapSeen n then eventGap .garnet b else b
    let acted := b.garnet.stopped || (e == .shutdown && b.garnet.shutdown)
    if acted || b.ch.topazGarnet.contains e then b else b.modCh (fun c => { c with topazGarnet := c.topazGarnet ++ [e] })
  | .onyx, some e =>
    let n := min lost b.ch.topazOnyx.length
    let b := b.modCh (fun c => { c with topazOnyx := c.topazOnyx.drop n })
    let b := if gapSeen n then eventGap .onyx b else b
    let acted := match b.onyx.flush with
      | some f => e == .shutdown || f.reason == .powerLoss
      | none => false
    if acted || b.ch.topazOnyx.contains e then b else b.modCh (fun c => { c with topazOnyx := c.topazOnyx ++ [e] })
  | .opal, some e =>
    let n := min lost b.ch.topazOpal.length
    let b := b.modCh (fun c => { c with topazOpal := c.topazOpal.drop n })
    let b := if gapSeen n then eventGap .opal b else b
    let b := takeTopazOpal b
    if b.opal.flush != .none_ || b.ch.topazOpal.contains e then b
    else takeTopazOpal (b.modCh (fun c => { c with topazOpal := c.topazOpal ++ [e] }))
  | _, _ => b

end Sys2Proof.Machine
end

