-- ==== Sys2Proof/Machine/Startup.lean ====
section
/-! DEFINITION. Topaz PSQ and BOOT (17): power-up, reset release, patch load, and the loss of the always-on domain. -/

namespace Sys2Proof.Machine

/-! ### Rails (17 R439 to R442) -/

/-- PSQ begins power-up with RAIL_EN[0] (17 R439, R440): every register takes its reset value, a SHOW ends, the pack's
temperature and FAULT_TIMER are placed afresh (14 R388, R389, R396, R403). -/
def beginPowerUp (b : Block) : Block :=
  let b := resetAll b
  let b := modPwr (fun p => { p with
    show_ := none, upWait := none, ship := false, packSwitch := true, gdMain := true, mainSeenLow := !p.mainOk, hup := coldHup
    pack := { p.pack with faultTimer := false, zoned := false } }) b
  tellHold (settleFaultPin (b.modTopaz (fun t => { t with
    psq := .raising 0, enables := vset t.enables 0 true, faultCode := 0, fatal := false, drop := none })))

/-- TOPAZ_START (17 R439, R453, R454): VDD_AO comes up, Topaz starts afresh and reads the pack; CAUSE is COLD. -/
def topazStart (ohms : Nat) (temp : Int) (b : Block) : Block :=
  if b.topaz.pwr.on then b
  else packRead ohms temp { resetAll b with topaz := { coldTopaz with pwr := { coldPower with on := true, packSwitch := true } } }

/-- VDD_AO_LOSS (15 R417, 17 R454): both sources are gone; Topaz, its latch and BOOT_CAUSE are lost. -/
def vddAoLoss (b : Block) : Block :=
  if !b.topaz.pwr.on then b else { resetAll b with topaz := coldTopaz }

/-- RAIL_PG_RISE (17 R440): the rail that PSQ waits for is good. -/
def railPgRise (k : Nat) (b : Block) : Block :=
  if b.topaz.psq = .raising k then b.modTopaz (fun t => { t with pg := vset t.pg k true, psq := .risen k }) else b

/-- RAIL_ENABLE_DELAY (17 R440): 1 ms later the next enable rises, or PWR_GOOD is released. -/
def railEnableDelay (b : Block) : Block :=
  match b.topaz.psq with
  | .risen k =>
    if k < 5 then b.modTopaz (fun t => { t with enables := vset t.enables (k + 1) true, psq := .raising (k + 1) })
    else b.modTopaz (fun t => { t with psq := .up, pwrGood := true })
  | _ => b

/-- A rail has failed (17 R442): the rail is recorded, and PSQ powers down; a second failure in one presence of the main input is
signalled as `code`. -/
def railFailed (k code : Nat) (b : Block) : Block :=
  let n := b.topaz.railFails + bit b.topaz.pwr.mainOk
  startDrop .railFail (b.modTopaz (fun t => { t with
    railFails := n, rail := k, faultCode := if 2 ≤ n then code else t.faultCode }))

/-- RAIL_TIMEOUT (17 R440, R442). -/
def railTimeout (b : Block) : Block :=
  match b.topaz.psq with
  | .raising k => railFailed k 4 b
  | _ => b

/-- RAIL_PG_FALL (17 R442): a rail is lost after PWR_GOOD has been released; no flush runs. -/
def railPgFall (k : Nat) (b : Block) : Block :=
  if b.topaz.psq = .up && k < 6 then
    railFailed k 5 (modPwr (fun p => { p with flush := false, onyxReport := none }) (b.modTopaz (fun t => { t with
      pg := vset t.pg k false })))
  else b

/-- POWER_UP_DELAY (14 R396, R400, 17 R442): the wait of 1.0 s is over; power-up begins if the main input is present. -/
def powerUpDelay (b : Block) : Block :=
  let p := b.topaz.pwr
  if p.upWait.isNone || b.topaz.psq != .off then b
  else if p.mainOk then beginPowerUp b
  else modPwr (fun p => { p with upWait := none, packSwitch := p.packSwitch || p.upWait == some 2, mainSeenLow := true }) b

/-! ### Reset release (17 R444 to R448) -/

/-- PWR_GOOD_RISE (17 R444, R446): the pin reads high; without TCXO edges code 6 is signalled and nothing leaves reset. -/
def pwrGoodRise (tcxo : Bool) (b : Block) : Block :=
  if !b.topaz.pwrGood || b.topaz.pwrPin then b
  else settleFaultPin (b.modTopaz (fun t => { t with pwrPin := true, faultCode := if tcxo then t.faultCode else 6 }))

/-- PWR_GOOD_FALL (17 R445, R458): the board pulls the pin low; a flush or shutdown then ends FLUSH_CUT. Otherwise every register
takes its reset value, and the MAGPWR_EN pins follow HUP_MAGPWR (14 R392). -/
def pwrGoodFall (b : Block) : Block :=
  if !b.topaz.pwrGood || !b.topaz.pwrPin then b
  else if b.topaz.pwr.flush || b.topaz.shutSent then
    startDrop (if b.topaz.pwr.flush then .flush false else .shutdownCut) (modPwr (fun p => { p with onyxReport := none }) b)
  else [0, 1, 2, 3].foldl (fun b m => setMagpwr m false b) (resetAll (b.modTopaz (fun t => { t with pwrPin := false, cause := 5 })))

/-- ISLAND_RESET_RELEASE (17 R446; 04 R80): after fuse load every Island but Beryl leaves reset, and the Time Base starts
at 0; then steps 6 and 7 of fuse load release Beryl and ask for latched entries to be burned (16 R428). -/
def islandResetRelease (b : Block) : Block :=
  let t := b.topaz
  if !t.pwrPin || t.released || !b.beryl.otc.loaded || t.faultCode != 0 then b
  else releaseBeryl ((b.modTopaz (fun t => { t with released := true })).modQuartz (fun q => { q with running := true, tb := 0 }))

/-- DRAM_INIT_DONE (17 R446, R447): every word of DRAM is zero; a training failure is code 7, and the Islands go back into
reset. -/
def dramInitDone (ok : Bool) (b : Block) : Block :=
  let t := b.topaz
  if !t.released || t.dramReady then b
  else if ok then { (b.modTopaz (fun t => { t with dramReady := true })) with dram := [] }
  else resetIslands (b.modTopaz (fun t => { t with faultCode := 7 }))

/-- ROM_START (17 R448; 15 R406, R414): the ROM has checked itself, DRAM is ready, and the thermal states are formed. A
failed check holds STAGE at ROM, and the watchdog resets Beryl; the ROM then checks itself again. -/
def romStart (romOk : Bool) (b : Block) : Block :=
  let t := b.topaz
  if !t.berylOut || t.stage != 1 || t.berylDead then b
  else if t.absent then b.modBeryl (fun y => { y with romBad := !romOk })
  else if !romOk then b.modBeryl (fun y => { y with romBad := true })
  else if !t.dramReady then b
  else
    let b := b.modTopaz (fun t => { t with stage := 2, wdgLast := b.quartz.tb })
    settleDevice (formStates true (b.modBeryl (fun y => { y with romBad := false })))

/-! ### Patch load (17 R451, R452) -/

/-- PATCH_LOAD (17 R451): a write `w` of PATCH_CTRL. -/
def patchLoad (w : Nat) (b : Block) : Block :=
  if !b.bar0 || !bitOf w 0 || bitsOf w 15 8 != 0xA5 then b
  else
    let t := b.topaz
    if t.stage < 2 || t.absent || t.patchLoading then b.modTopaz (fun t => { t with patchResult := 2 })
    else
      let b := raiseAbsent (b.modTopaz (fun t => { t with patchLoading := true }))
      b.modOut (fun o => { o with reads := (b.reg 0x10C + 2 ^ 32 * b.reg 0x110, b.reg 0x114) :: o.reads })

/-- PATCH_RESULT of an image of `len` bytes (17 R452); none is a read that failed twice. -/
def patchCheck (len : Nat) (data : Option (List Byte)) : Nat :=
  match data with
  | none => 3
  | some d =>
    let n := leAt d 12 4
    let entry := leAt d 16 4
    let rom := Config.romVersion.toNat
    if len != 64 + n || n < 4 || 262080 < n || n % 4 != 0 || entry % 4 != 0 || n ≤ entry then 4
    else if leAt d 0 4 != 0x48435450 || leAt d 4 2 != 1 || leAt d 60 4 != (crc32c (d.take 60)).toNat then 5
    else if rom < leAt d 6 2 || leAt d 8 2 < rom then 6
    else if leAt d 20 4 != (crc32c ((d.drop 64).take n)).toNat then 7
    else 1

/-- PATCH_IMAGE_READ (17 R451, R452): the image as the two reads gave it; Beryl restarts with it or with the ROM alone.
`mv` and `more` are VPP_OTP as a waiting run takes it up; the Islands in `bad` fail the parity check of their retained
configuration (12 R321). -/
def patchImageRead (data : Option (List Byte)) (mv : Nat) (bad : List Island) (more : List Nat) (b : Block) : Block :=
  if !b.topaz.patchLoading then b
  else
    let r := patchCheck (b.reg 0x114) data
    let b := b.modBeryl (fun y => { y with patched := r == 1, patch := if r = 1 then data.getD [] else [] })
    berylBack (mv :: more) bad (b.modTopaz (fun t => { t with patchResult := r, patchLoading := false, patchLost := false }))

end Sys2Proof.Machine
end

