-- ==== Sys2Proof/Machine/Shutdown.lean ====
section
/-! DEFINITION. The power-loss flush (14 R380, R381, R394 to R396) and the thermal shutdown (15 R411 to R418), as Topaz and
Opal run them. -/

namespace Sys2Proof.Machine

/-- POWER trace entry (12 R342): 0 the main input is lost, 1 it is present. -/
def logPower (state : Nat) (b : Block) : Block := b.logEvr .topaz 0x0C (leBytes 1 state)

/-- The main-input loss event goes to Garnet, Onyx and Opal, with FLUSH_MS (14 R380). -/
def sendLoss (b : Block) : Block :=
  let e : TopazEvent := .loss (flushMs b.topaz.pwr)
  b.modCh (fun c => { c with
    topazGarnet := c.topazGarnet ++ [e], topazOnyx := c.topazOnyx ++ [e], topazOpal := c.topazOpal ++ [e] })

/-- MAIN_INPUT_LOSS (14 R380, R394): VMAIN_SNS has stayed at `mv` mV, below MAIN_UV, for 20 µs. GD_MAIN off, the charger
stopped, the event sent; a code signalled until the main input goes ends, and rail failures count anew (16 R430, 17 R442, R447).
In a shutdown the reports so far stand, and one flush runs (14, table Coincidences during a flush). -/
def mainInputLoss (mv : Nat) (b : Block) : Block :=
  let p := b.topaz.pwr
  if !p.on || mainUvMv p ≤ mv then b
  else
    let b := logPower 0 (modPwr (fun p => { p with
      mainOk := false, mainSeenLow := true, gdMain := false, pack := { p.pack with phase := .off } }) b)
    let b := settleFaultPin (b.modTopaz (fun t => { t with railFails := 0, faultCode := 0 }))
    if b.topaz.psq = .off || p.flush || b.topaz.drop.isSome then settleHold b
    else if b.topaz.shutSent || b.topaz.fatal then settleHold (sendLoss (modPwr (fun p => { p with flush := true }) b))
    else settleHold (sendLoss ((modPwr (fun p => { p with flush := true, onyxReport := none }) b).modCh (fun c => { c with
      onyxReport := [], opalReport := [] })))

/-- MAIN_INPUT_RETURN (14 R381, R396, R401, 15 R413, 17 R439): VMAIN_SNS has stayed at `mv` mV, at or above MAIN_OK, for
100 ms. With the rails down, power-up begins, unless a wait of 1.0 s still runs, or the main input has not been low since a
shutdown, ship mode or a second rail failure. -/
def mainInputReturn (mv : Nat) (b : Block) : Block :=
  let t := b.topaz
  if !t.pwr.on || t.pwr.mainOk || mv < mainOkMv t.pwr then b
  else
    let b := logPower 1 (modPwr (fun p => { p with mainOk := true, gdMain := p.gdMain || !p.flush })
      (b.modTopaz (fun t => { t with railFails := 0 })))
    if t.psq = .off && t.pwr.upWait.isNone && t.pwr.mainSeenLow then beginPowerUp b
    else settleHold b

/-! ### The end of the sequence in Opal (14 R394 step 4, 15 R412 step 4) -/

/-- Every host-ring Segment that has no buffer is dropped as HOST_TIMEOUT. -/
def dropUnbuffered (b : Block) : Block :=
  let l := b.opal.window.flatMap (fun w =>
    (w.dests.filter (fun d => !d.dest.magazine && d.outcome == .pending && d.buffer.isNone)).map (fun d => (w.frame, d.dest)))
  l.foldl (fun b (f, d) => dropUnassigned f d .hostTimeout b) b

/-- TAKE_END of every Take that has ended, once its last record has gone (14 R394, 09 R247): Onyx has reported, and no clip
closes any more. -/
def forceTakeEnds (b : Block) : Block :=
  let b := b.modOpal (fun o => { o with takeEnds := o.takeEnds.map (fun e => { e with clipClosed := true }) })
  postTakeEnds b.opal.takeEnds.length b

/-- The last event: HOLDUP with the flush outcome, or THERMAL for the device as a whole. -/
def lastEvent (ok : Bool) (b : Block) : Block :=
  if b.topaz.pwr.flush then
    let p := { b.topaz.pwr with flush := false, show_ := some ok }
    postEvent evHoldup frameNone (evData [holdCode p + 8 * chargeCode p, patternCode p]) b
  else if b.topaz.shutSent || b.topaz.fatal then postEvent evThermal frameNone (evData [0xFF, 3]) b
  else b

/-- ONYX_FLUSH_REPORT: Onyx reports to Topaz and Opal; Opal drops, publishes, writes the last events and then reads host
memory at the Ledger ring's base. -/
def onyxFlushReport (b : Block) : Block :=
  match b.ch.onyxReport with
  | [] => b
  | ok :: rest =>
    let b := b.modCh (fun c => { c with onyxReport := rest })
    let b := takeTopazOpal (modPwr (fun p => { p with onyxReport := some ok }) b)
    if b.opal.flush != .running || !b.hostUp then b
    else
      let b := lastEvent ok (forceTakeEnds (serveLedger (dropUnbuffered b)))
      let b := b.modOut (fun o => { o with reads := (b.reg 0x5030 + 2 ^ 32 * b.reg 0x5034, 4) :: o.reads })
      b.modOpal (fun o => { o with flush := .reading })

/-- Opal reports to Topaz. -/
def opalReports (b : Block) : Block :=
  (b.modOpal (fun o => { o with flush := .reported })).modCh (fun c => { c with opalReport := c.opalReport ++ [true] })

/-- FLUSH_READ_COMPLETE. -/
def flushReadComplete (b : Block) : Block := if b.opal.flush = .reading then opalReports b else b

/-- OPAL_FLUSH_TIMEOUT: 10 ms after Onyx's report. -/
def opalFlushTimeout (b : Block) : Block :=
  if b.topaz.pwr.onyxReport.isSome && (b.opal.flush = .reading || b.opal.flush = .running) then opalReports b else b

/-! ### The end of the sequence in Topaz (14 R394 step 5, R395; 15 R412 steps 5 and 6) -/

/-- FLUSH_REPORT (14 R395): Opal's report ends the flush. -/
def flushReport (b : Block) : Block :=
  if b.topaz.pwr.flush && !b.ch.opalReport.isEmpty then startDrop (.flush (flushOk b)) b else b

/-- FLUSH_DEADLINE (14 R395): FLUSH_MS after the declaration the rails drop. The outcome is FLUSH_CUT, but for a report of Onyx
that has come. -/
def flushDeadline (b : Block) : Block :=
  if b.topaz.pwr.flush then startDrop (.flush (flushOk b)) b else b

/-- The rails drop at the end of a shutdown; one that the main input has left runs as a flush, and ends as one (15 R412). -/
def shutDrop (b : Block) : Block := startDrop (if b.topaz.pwr.flush then .flush (flushOk b) else .shutdown) b

/-- A gap in the count of Beryl's events to Topaz: `lost` of them were lost before the one received (01 R16, 12 R330). -/
def berylGap (lost : Nat) (b : Block) : Block := if gapSeen lost then eventGap .topaz b else b

/-- Topaz acts on the Shutdown signal at the front. -/
def serveShutSignal (b : Block) : Block :=
  match b.ch.shutSignal with
  | [] => b
  | (g, r) :: rest =>
    let b := b.modCh (fun c => { c with shutSignal := rest })
    if b.topaz.shutSent || b.topaz.fatal then b
    else
      let run : ShutRun := { group := g, peak := r, inTake := b.garnet.take.isSome, entry := none }
      let b := b.modTopaz (fun t => { t with shut := some run })
      if b.topaz.pwr.flush then b.modTopaz (fun t => { t with shutSent := true }) else sendShutdown b

/-- SHUTDOWN_SIGNAL (15 R411; 14, table Coincidences during a flush): Topaz sends the shutdown event once per power-up; in
a flush that flush alone runs. `lost` signals before this one were lost. -/
def shutdownSignal (lost : Nat) (b : Block) : Block :=
  if b.ch.shutSignal.length ≤ lost then b
  else serveShutSignal (berylGap lost (b.modCh (fun c => { c with shutSignal := c.shutSignal.drop lost })))

/-- SHUTDOWN_DEADLINE (15 R412 step 5, R416): Opal has reported, or SHUT_MS has passed: the log entry is formed and its
burn asked for. After a FATAL fault no group has reached its level, and the rails drop. -/
def shutdownDeadline (b : Block) : Block :=
  if b.topaz.pwr.flush || b.topaz.drop.isSome || !(b.topaz.shutSent || b.topaz.fatal) then b
  else match b.topaz.shut with
    | some s =>
      if s.entry.isSome then b
      else
        let e := telEntry s false (!flushOk b)
        let b := b.modTopaz (fun t => { t with shut := some { s with entry := some e } })
        b.modCh (fun c => { c with opalReport := [], telBurn := c.telBurn ++ [{ entry := e, latched := false, ok := false }] })
    | none => startDrop .shutdown b

/-- Topaz acts on the burn result at the front. -/
def serveTelResult (b : Block) : Block :=
  match b.ch.telResult with
  | [] => b
  | m :: rest =>
    let b := b.modCh (fun c => { c with telResult := rest })
    if m.latched then
      let b := if m.ok then b.modTopaz (fun t => { t with latch := t.latch.erase m.entry, telBurned := t.telBurned + 1 }) else b
      let more := b.ch.telBurn.any (·.latched) || b.ch.telResult.any (·.latched) || b.beryl.otc.burn.any (·.latched)
      b.modTopaz (fun t => { t with telBurning := more })
    else
      let b := if m.ok then b else latchEntry m.entry b
      shutDrop (b.modTopaz (fun t => { t with shut := none }))

/-- TEL_BURN_RESULT (15 R412 step 6, R416, R417): a shutdown's entry is burned, or goes into the latch, and the rails drop;
a latched entry that was burned leaves the latch. `lost` results before this one were lost. -/
def telBurnResult (lost : Nat) (b : Block) : Block :=
  if b.ch.telResult.length ≤ lost then b
  else serveTelResult (berylGap lost (b.modCh (fun c => { c with telResult := c.telResult.drop lost })))

/-- RAIL_DROP_TIMEOUT (15 R412 step 6): 10 ms after the entry was formed; it goes into the latch unburned (15 R416). -/
def railDropTimeout (b : Block) : Block :=
  match b.topaz.shut with
  | some s => if s.entry.isSome then shutDrop b else b
  | none => b

/-- SHOW_END (14 R396). -/
def showEnd (b : Block) : Block :=
  if b.topaz.pwr.show_.isNone then b else tellHold (openSwitch (modPwr (fun p => { p with show_ := none }) b))

end Sys2Proof.Machine
end

