-- ==== Sys2Proof/Machine/Registers.lean ====
section
/-! DEFINITION. Writes of BAR0 registers: plain set-up fields, strobe settings, commit and uncommit of Islands (18 R460 to
R469). Every write stands for one with all byte enables set; REGISTER_WRITE alone carries its byte enables. -/

namespace Sys2Proof.Machine

/-! ### Commit (18 R463 to R466) -/

/-- The Islands that a commit names, by number. -/
def commitIslands : List Island := [.quartz, .garnet, .jade, .spinel, .opal, .onyx, .agate]

/-- A descriptor owned by Island `i` is in flight. -/
def ownsDesc (b : Block) (i : Island) : Bool :=
  (b.opal.ghosts ++ b.opal.ctrl.flight).any (fun d => descOwner ctrlRing (descType d.bytes) == some i)

/-- ISL_STATUS.IDLE of an Island (R464). -/
def islandIdle (b : Block) : Island → Bool
  | .quartz => b.quartz.capState == 0 && b.quartz.chans.toList.all (fun c => c.setting.mode == .off)
  | .garnet => !b.garnet.everApplied
  | .jade => !b.garnet.everApplied && !ownsDesc b .jade
  | .spinel => !b.garnet.everApplied && !ownsDesc b .spinel
  | .opal =>
    b.opal.ctrl.state != .running && b.opal.ldg.state != .running && b.opal.ghosts.isEmpty && b.opal.ctrl.flight.isEmpty &&
      b.opal.ctxs.toList.all (fun c => c.state == .closed && c.ring.flight.isEmpty)
  | .onyx =>
    b.onyx.ports.toList.all (fun p => p.state != .member && p.state != .standby) && !b.opal.takeOpen && b.opal.held.isNone &&
      b.garnet.start.isNone && b.onyx.takes.all (·.ended.isSome) && !ownsDesc b .onyx
  | .agate => b.agate.eng.toList.all (fun e => !e.en) && !ownsDesc b .agate
  | _ => false

/-- Island `i` becomes committed: its spread bit takes effect, an Island that lost its configuration is re-armed, its
descriptors are no longer held (R463, R465, R466). -/
def commitOne (i : Island) (b : Block) : Block :=
  let k := i.num.val
  let awaits := vget b.topaz.rearm k false
  let b := b.modTopaz (fun t => { t with commit := t.commit.set i.num true, rearm := vset t.rearm k false })
  let spread := if 2 ≤ k && k ≤ 6 then
      (b.topaz.spread &&& ~~~(BitVec.ofNat 32 (2 ^ k))) ||| BitVec.ofNat 32 (b.reg 0x0010 % 2 ^ (k + 1) / 2 ^ k * 2 ^ k)
    else b.topaz.spread
  let b := b.modTopaz (fun t => { t with spread })
  if awaits then
    restamp i (b.modIsl i (fun s => { s with held := s.gens, units := s.units.map (fun u => if u = .empty then .ready else u) }))
  else b

/-- ISL_COMMIT (R463): each 1 commits its Island; an Island already committed is left as it is. -/
def islCommit (w : Word) (b : Block) : Block :=
  if !b.bar0 then b
  else
    let l := commitIslands.filter (fun i => w.getLsbD i.num.val && !b.committed i)
    serveRing ctrlRing (l.foldl (fun b i => commitOne i b) b)

/-- Island `i` returns to the uncommitted state (R464): Garnet runs no Sub-frame any more; the rest keeps its state. -/
def uncommitOne (i : Island) (b : Block) : Block :=
  let b := b.modTopaz (fun t => { t with commit := t.commit.set i.num false })
  if i = .garnet then b.modGarnet (fun g => { g with started := false, bc := none }) else b

/-- ISL_UNCOMMIT (R464): with CONFIRM 0xA5, each Island named and idle returns to the uncommitted state; REFUSED shows
those named that are not idle. -/
def islUncommit (w : Word) (b : Block) : Block :=
  if !b.bar0 then b
  else
    let act := bitsOf w.toNat 15 8 == 0xA5
    let named (i : Island) : Bool := act && w.getLsbD i.num.val && b.committed i
    let refused : Vector Bool 7 :=
      Vector.ofFn (fun k => commitIslands.any (fun i => i.num.val == k.val && named i && !islandIdle b i))
    let b' := b.modTopaz (fun t => { t with refused })
    (commitIslands.filter (fun i => named i && islandIdle b i)).foldl (fun b i => uncommitOne i b) b'

/-! ### Plain registers -/

/-- Bits of a stored register that take a write now: RW bits, and RWL bits while their Island is uncommitted; CLK_SPREAD's
bits belong to five Islands (00 R7, 18 R466). -/
def writeMask (b : Block) (off : Nat) (r : RegRow) : Word :=
  if off = 0x0010 then
    commitIslands.foldl (fun m i => if b.committed i then m else m ||| (r.rwl &&& BitVec.ofNat 32 (2 ^ i.num.val))) r.rw
  else if b.committed r.island then r.rw else r.rw ||| r.rwl

/-- Store a write in the bits that take it; the others keep their value. -/
def storeReg (off : Nat) (w : Word) (b : Block) : Block :=
  match regRow off with
  | none => b
  | some r =>
    let m := writeMask b off r
    b.setReg off ((BitVec.ofNat 32 (b.reg off) &&& ~~~m) ||| (w &&& m)).toNat

/-- Registers whose writes have a row of their own. -/
def ownRow (off : Nat) : Bool :=
  [0x0214, 0x8000, 0x8440, 0x9118, 0x9200].contains off || (0x1300 ≤ off && off < 0x1340 && off % 16 == 0) ||
    (0x6000 ≤ off && off < 0x6400 && off % 16 == 12)

/-- The engine whose SQn_FLOW, SQn_MAP or SQn_QUEUE lies at `off`. -/
def engineAt (off : Nat) : Option Nat :=
  if 0x8100 ≤ off && off < 0x8200 && 4 ≤ off % 32 && off % 32 ≤ 12 then some ((off - 0x8100) / 32) else none

/-- The block of `off` takes a write now: Beryl's only with STAGE READY and Beryl present (12 R334, 17 R450), the trace and
tap buffer fields only with MODE OFF (12 R351), OTP_ADDR and OTP_DATA only while OTC is not busy (16 R437), SQn_FLOW,
SQn_MAP and SQn_QUEUE only while the engine is halted (13 R374). -/
def takesWrite (b : Block) (off : Nat) : Bool :=
  if 0x9200 ≤ off then evrRegs b && b.beryl.evr.mode == 0
  else if 0x9000 ≤ off then berylRegs b && !(otcBusy b.beryl.otc && 0x9120 ≤ off && off < 0x9138)
  else match engineAt off with
    | some n => !(b.engine n).en && !(b.engine (leader b n)).en
    | none => true

/-- QJOIN as it acts: 3 acts as 0 (13 R376). -/
def joinOf (v : Nat) : Nat := if v = 3 then 0 else v

/-- What a plain write does beyond storing: REF_CFG (05 R118, R122), TC_PRESET (05 R135), SQn_QUEUE (13 R364), the spread of
Beryl and Topaz (18 R466). `old` is the block before the write. -/
def afterWrite (off : Nat) (w : Word) (old b : Block) : Block :=
  if off = 0x1200 then
    let b := refCfgWrite (refCfgNow old) (refCfgNow b) b
    if b.quartz.running then discSettle b else b
  else if off = 0x9010 then remoteWritten old b
  else if off = 0x121C then b.modTod (fun t => { t with presetWait := some w })
  else if off = 0x0010 then
    b.modTopaz (fun t => { t with spread := (t.spread &&& ~~~(0x180 : Word)) ||| (w &&& 0x180) })
  else match engineAt off with
    | some n =>
      if off % 32 = 12 && joinOf (qJoin old n) != joinOf (qJoin b n) then engMod n (fun e => { e with tx := [], rx := [] }) b
      else b
    | none => b

/-- REGISTER_WRITE (R460, R461): a BAR0 word write with byte enables `be`. One without all byte enables, at an offset in no
block, or to a register that takes no write, is discarded. -/
def registerWrite (off : Nat) (w : Word) (be : BitVec 4) (b : Block) : Block :=
  if !b.bar0 || be != 0xF || ownRow off || (regRow off).isNone || !takesWrite b off then b
  else afterWrite off w b (storeReg off w b)

/-- STRB_CFG_WRITE (R469): a write of STRBn_CFG; POL moves the inactive level at once while no pulse is pending or
active. -/
def strbCfgWrite (n : Nat) (w : Word) (b : Block) : Block :=
  if !b.bar0 || 4 ≤ n then b else strobePol n (storeReg (0x1300 + 16 * n) w b)

end Sys2Proof.Machine
end

