-- ==== Sys2Proof/Machine/Readout.lean ====
section
/-! DEFINITION. What a read of BAR0 returns (18 R460 to R477 and the register tables of every chapter). A read changes no
register; the three reads that latch a high half are commands of their own and answer through the same functions. -/

namespace Sys2Proof.Machine

/-- A field of `n` bits in two's complement. -/
def bitsInt (n : Nat) (v : Int) : Nat := (v % (2 ^ n : Nat)).toNat

/-! ### Topaz -/

/-- A Unit that sleeps: the magazine port of an EMPTY port, the Pin Sequencers with every engine asleep (12 R317). -/
def unitAsleep (b : Block) (i : Island) (k : Nat) : Bool :=
  match i with
  | .onyx => k < 4 && (match b.onyx.ports.toList[k]? with | some p => p.state == .empty | none => false)
  | .agate => k == 0 && (List.range 8).all (engineAsleep b)
  | _ => false

/-- FLT_UNIT.STATE (12 R350). -/
def unitCode (b : Block) (i : Island) (k : Nat) : Nat :=
  let s := b.isl i
  if s.frozen.isSome || s.failStop then 3
  else match s.units[k]? with
    | some .empty => 1
    | some .ready => if unitAsleep b i k then 2 else 0
    | some .asleep => 2
    | some .frozen => 3
    | none => 0

/-- Every Island, by number (12 R311). -/
def allIslands : List Island := [.quartz, .garnet, .jade, .spinel, .opal, .onyx, .agate, .beryl, .topaz]

/-- DEV, BOOT (18 R467, 17 R453). -/
def readDev (b : Block) (off : Nat) : Nat :=
  match off with
  | 0x000 => 1 + 9 * 256
  | 0x004 => flagBits (commitIslands.map b.committed) + 0x180
  | 0x00C => flagBits (commitIslands.map (islandIdle b)) + 2 ^ 8 * flagBits b.topaz.rearm.toList +
      2 ^ 16 * flagBits b.topaz.refused.toList
  | 0x100 => min 2 b.topaz.stage + 4 * bit b.beryl.patched + 8 * b.topaz.patchResult + 64 * bit b.thermalHold +
      128 * bit b.topaz.telBurning + 256 * b.topaz.telBurned
  | 0x104 => b.topaz.cause + 16 * b.topaz.lastFlush + 64 * b.topaz.rail
  | 0x108 => Config.romVersion.toNat
  | _ => b.reg off

/-- HUP (14 R403). -/
def readHup (b : Block) (off : Nat) : Nat :=
  let p := b.topaz.pwr
  let k := p.pack
  match off with
  | 0x224 =>
    let cz := match k.czone with | .cold => 0 | .cool => 1 | .normal => 2 | .warm => 3 | .hot => 4
    let kind := match k.kind with | .absent => 0 | .liIon => 1 | .lic => 2 | .unknown => 3
    holdCode p + 8 * chargeCode p + 128 * bit p.mainOk + 256 * cz + 2048 * bit k.allowed + 4096 * kind +
      16384 * bit (connected p) + 2 ^ 16 * patternCode p + 2 ^ 20 * flagBits p.magpwr.toList
  | 0x228 => k.mv % 65536 + 65536 * bitsInt 16 k.ma
  | 0x22C => bitsInt 16 k.temp + 65536 * (k.timer / 120000)
  | _ => b.reg off

/-- FLT and WDG (12 R350). -/
def readFlt (b : Block) (off : Nat) : Nat :=
  let t := b.topaz
  match off with
  | 0x304 => flagBits (allIslands.map (fun i => (b.isl i).failStop)) +
      2 ^ 16 * flagBits (allIslands.map (fun i => (b.isl i).dead))
  | 0x308 => t.recovered + 65536 * t.gaps
  | 0x30C => t.ce + 65536 * t.ue
  | 0x314 =>
    match allIslands[b.field 0x310 3 0]? with
    | some i => (b.isl i).gens.getD (b.field 0x310 7 4) 0 + 65536 * unitCode b i (b.field 0x310 7 4)
    | none => 0
  | 0x31C => bit t.absent + 2 * bit t.berylDead + 4 * bit t.patchLost + 256 * t.restarts
  | _ => b.reg off

/-! ### Quartz -/

/-- The capture cadence and DISC (04 R82, R87; 05 R137). -/
def readQuartz (b : Block) (off : Nat) : Nat :=
  let q := b.quartz
  let d := b.disc
  match off with
  | 0x1000 => q.tb % 2 ^ 32
  | 0x1004 => q.tbHi
  | 0x111C => q.capState + 16 * q.capResult + 65536 * q.capSeq
  | 0x1220 => discCode d.state + 8 * bit d.refQual + 16 * bit d.holdValid + 32 * bit d.phaseAdopted + 65536 * b.tod.epoch
  | 0x1224 => bitsInt 32 d.corr
  | 0x1228 => bitsInt 32 d.winOffset
  | 0x122C => bitsInt 32 d.hold
  | 0x1230 => d.loss + 2 ^ 8 * d.glitch + 2 ^ 16 * d.suspect + 2 ^ 24 * d.ppsReject
  | 0x1234 => match b.tod.pps with | (n, _) :: _ => n | [] => 0
  | _ => b.reg off

/-- CAD_INFO.MODE and RELOAD of a channel (18 R468). -/
def chanView (b : Block) (ch : Nat) : Nat × Nat :=
  let q := b.quartz
  if ch < 2 then
    match q.cap with
    | some c => (1 + 4, if ch = 0 then q.capL / max 1 c.grid - 1 else c.reload)
    | none => (4, 0)
  else
    let s := (b.chan ch).setting
    (match s.mode with | .off => 0 | .free => 1 | .lock1 => 2 | .lock0 => 3, s.reload)

/-- STRB and the Cadence readout (18 R468, R469). -/
def readStrobe (b : Block) (off : Nat) : Nat :=
  let ch := b.field 0x1400 4 0
  match off with
  | 0x1404 => (chanView b ch).1 + 65536 * vget b.quartz.evCount ch 0
  | 0x1408 => (chanView b ch).2
  | 0x140C => vget b.quartz.evLast ch 0 % 2 ^ 32
  | 0x1410 => b.quartz.cadLastHi
  | _ =>
    if 0x1300 ≤ off && off < 0x1340 && off % 16 = 8 then
      let s := vget b.quartz.strobes ((off - 0x1300) / 16) ⟨.idle, 0, false, 0⟩
      s.drop + 65536 * bit (s.pulse != .idle)
    else b.reg off

/-! ### Garnet, Jade, Spinel -/

/-- Garnet status (18 R470). -/
def readGarnet (b : Block) (off : Nat) : Nat :=
  let g := b.garnet
  let v := g.view
  match off with
  | 0x2000 => v.frame % 2 ^ 32
  | 0x2004 => g.frameHi
  | 0x2008 => v.gen
  | 0x200C => bit g.started + 2 * bit v.take + 4 * bit v.latched + 8 * bit v.burst + 16 * v.t + 65536 * g.overrun
  | 0x2010 => v.nEff
  | 0x2014 => v.h
  | _ => b.reg off

/-- Jade and Spinel (06 R171, 07 R195, 11 R310). -/
def readJade (b : Block) (off : Nat) : Nat :=
  match off with
  | 0x300C => b.jade.crcRetried + 65536 * b.jade.crcBad
  | 0x3010 => b.jade.dynCount
  | 0x4000 => bit b.spinel.import_ + 2 * bit b.spinel.refused +
      256 * (b.spinel.slots.toList.filter (fun s => s.state != .empty)).length
  | _ => b.reg off

/-! ### Opal -/

/-- Code of a ring's STATE (18 R474). -/
def ringCode : RingState → Nat
  | .idle => 0 | .running => 1 | .stopped => 2

/-- Code of a Context's STATE (18 R474). -/
def ctxCode : CtxState → Nat
  | .closed => 0 | .opened => 1 | .stopped => 2 | .closing => 3

/-- Records that wait in the Ledger window. -/
def recordsWaiting (b : Block) : Nat :=
  (b.opal.window.filter (fun w => publishable b w && (match w.record with | .forming => true | .published _ => false))).length

/-- Opal (18 R474, R475). -/
def readOpal (b : Block) (off : Nat) : Nat :=
  let o := b.opal
  let x := b.ctx (b.field 0x5050 7 0)
  match off with
  | 0x5028 => ringCode o.ctrl.state + 16 * o.ctrlResult + 65536 * (o.ghosts.length + o.ctrl.flight.length)
  | 0x502C => o.dropped
  | 0x5040 => ringCode o.ldg.state + 16 * o.ldgResult + 65536 * recordsWaiting b
  | 0x5054 => ctxCode x.state + 4 * bit x.keyed + 8 * bit x.hostRing + 16 * bit x.magazine +
      65536 * x.ring.flight.length
  | 0x5058 => indexWord x.ring.sqEntries x.ring.done
  | 0x505C => indexWord x.ring.cqEntries x.ring.cqTail
  | 0x6400 => flagBits ((o.vecs.toList.take 32).map (·.pending))
  | 0x6404 => flagBits ((o.vecs.toList.drop 32).map (·.pending))
  | _ => b.reg off

/-! ### Onyx, Agate -/

/-- Onyx (10 R289). -/
def readOnyx (b : Block) (off : Nat) : Nat :=
  if 0x7020 ≤ off && off < 0x7030 then
    match b.onyx.ports.toList[(off - 0x7020) / 4]? with
    | some p => portCode p.state + 16 * (p.detail % 16) + 256 * p.linkGen + 2048 * p.linkWidth + 65536 * p.losses
    | none => 0
  else b.reg off

/-- Code of SQn_STATUS.CAUSE (13 R376). -/
def causeCode : StallCause → Nat
  | .none_ => 0 | .pull => 1 | .push => 2 | .wait => 3 | .flag => 4 | .cad => 5

/-- Code of SQn_STATUS.ERR (13 R376). -/
def errCode : EngineErr → Nat
  | .none_ => 0 | .badOp => 1 | .badAddr => 2

/-- Agate (13 R376). -/
def readAgate (b : Block) (off : Nat) : Nat :=
  let a := b.agate
  if off = 0x8000 then flagBits (a.eng.toList.map (·.en)) + 256 * bit a.gangLo + 512 * bit a.gangHi
  else if off = 0x8004 then flagBits a.flags.toList
  else if 0x8100 ≤ off && off < 0x8200 && off % 32 = 16 then
    let e := b.engine ((off - 0x8100) / 32)
    e.pc + 64 * bit e.en + 128 * bit (e.stall != .none_) + 256 * causeCode e.stall + 2 ^ 12 * e.tx.length +
      2 ^ 16 * e.rx.length + 2 ^ 20 * errCode e.err
  else if 0x8100 ≤ off && off < 0x8200 && off % 32 = 20 then (b.engine ((off - 0x8100) / 32)).miss
  else b.reg off

/-! ### Beryl -/

/-- THM (15 R419). -/
def readThm (b : Block) (off : Nat) : Nat :=
  let t := b.beryl.thm
  let remote (k : Nat) : Nat := if remoteOn b k then bitsInt 16 (vget t.readings (2 + k) 0) else 0
  match off with
  | 0x9018 =>
    let g := t.groups.toList
    g.getD 0 0 + 4 * g.getD 1 0 + 16 * g.getD 2 0 + 64 * g.getD 3 0 + 2 ^ 8 * t.device + 2 ^ 10 * t.t +
      2 ^ 14 * bit b.jade.divided + 2 ^ 15 * flagBits t.fault.toList + 2 ^ 17 * b.topaz.latch.length +
      2 ^ 20 * bit b.beryl.telFull
  | 0x901C => bitsInt 16 (vget t.readings 0 0) + 65536 * bitsInt 16 (vget t.readings 1 0)
  | 0x9020 => remote 0 + 65536 * remote 1
  | 0x9024 => telUsed b.beryl.otc + 256 * b.topaz.latchLost
  | 0x902C => bitsInt 16 (vget t.samples (min 55 (b.field 0x9028 5 0)) 0)
  | _ => b.reg off

/-- OTC (16 R437). -/
def readOtc (b : Block) (off : Nat) : Nat :=
  let o := b.beryl.otc
  match off with
  | 0x9100 => bit o.policyOk + 2 * bit o.idkeyOk + 4 * bit o.plockOdd + 8 * bit (o.vppMeasured && vppOk o.vppMv) +
      16 * bit (otcBusy o) + 32 * o.result + 256 * o.wordsDone
  | 0x9104 => o.grade + 4 * bit o.debugOpen + 8 * bit o.replayOk + 16 * bit o.keyImport + 256 * o.magPorts + 65536 * (o.locks % 16)
  | 0x911C => o.rdata.toNat + 2 ^ 31 * bit o.ready
  | 0x9138 => o.vppMv
  | _ => if 0x9108 ≤ off && off < 0x9118 then leAt o.deviceId (off - 0x9108) 4 else b.reg off

/-- Code of EVR_STATUS.STATE (12 R351). -/
def evrCode : EvrState → Nat
  | .off => 0 | .recording => 1 | .replaying => 2 | .replayDone => 3 | .diverged => 4 | .denied => 5

/-- EVR (12 R351). -/
def readEvr (b : Block) (off : Nat) : Nat :=
  let e := b.beryl.evr
  match off with
  | 0x9200 => e.mode + 4 * b.field 0x9200 2 2
  | 0x921C => evrCode e.state
  | 0x9220 => e.seq % 2 ^ 32
  | 0x9224 => e.feedSeq % 2 ^ 32
  | 0x9228 => e.diverge % 2 ^ 32
  | 0x922C => e.lostEntries + 65536 * e.lostTap
  | _ => b.reg off

/-! ### The whole map -/

/-- The word at an offset (18 R460, R462): an offset in no block, and a write-only register, read 0; Beryl's
blocks other than EVR read 0 until STAGE is READY and while Beryl is absent (12 R334, 17 R450). -/
def regRead (b : Block) (off : Nat) : Word :=
  BitVec.ofNat 32 (
    if off < 0x0200 then readDev b off
    else if off < 0x0300 then readHup b off
    else if off < 0x1000 then readFlt b off
    else if off < 0x1300 then readQuartz b off
    else if off < 0x2000 then readStrobe b off
    else if off < 0x3000 then readGarnet b off
    else if off < 0x5000 then readJade b off
    else if off < 0x7000 then readOpal b off
    else if off < 0x8000 then readOnyx b off
    else if off < 0x9000 then readAgate b off
    else if off < 0x9100 then (if firmware b then readThm b off else 0)
    else if off < 0x9200 then (if firmware b then readOtc b off else 0)
    else readEvr b off)

/-- A read of BAR0 at a word offset; none while no BAR0 access completes (18 R509). -/
def busRead (b : Block) (off : Nat) : Option Word := if b.bar0 then some (regRead b off) else none

/-- What is fixed in the BARs of configuration space and at the expansion ROM, as a mask of bits and their value (18 R459): BAR0 at
0x10 and 0x14 is a 64-bit, non-prefetchable memory BAR of 64 KiB, whose address bits above are the host's; no other BAR, no I/O
space and no ROM (log entry 110). -/
def configFixed (off : Nat) : Option (Word × Word) :=
  match off with
  | 0x10 => some (0x0000FFFF, 0x00000004)
  | 0x14 => some (0, 0)
  | 0x18 => some (0xFFFFFFFF, 0)
  | 0x1C => some (0xFFFFFFFF, 0)
  | 0x20 => some (0xFFFFFFFF, 0)
  | 0x24 => some (0xFFFFFFFF, 0)
  | 0x30 => some (0xFFFFFFFF, 0)
  | _ => none

/-- The MSI-X capability (18 R475): its Message Control word, 64 entries, and its Table and PBA words, both in BAR0. -/
def msixControl (b : Block) : Half :=
  BitVec.ofNat 16 (63 + 2 ^ 14 * bit b.opal.funcMask + 2 ^ 15 * bit b.opal.msixEnable)
def msixTableWord : Word := 0x6000
def msixPbaWord : Word := 0x6400

/-- What the JTAG port reaches (16 R425). -/
inductive JtagPath where
  | boundaryScan | idcode | debug
  deriving DecidableEq, Repr

/-- Boundary scan and IDCODE always; debug access into the Islands only while debug_open is true (16 R425; log entry 118). -/
def jtagOpen (b : Block) : JtagPath → Bool
  | .boundaryScan => true
  | .idcode => true
  | .debug => b.beryl.otc.debugOpen

end Sys2Proof.Machine
end

