-- ==== Sys2Proof/Machine/State.lean ====
section
/-! DEFINITION. The machine: the queue of waiting commands and the block. State.reset is the block without power: VDD_AO
is down, every Island is held at its power-on reset values, and the fuse array is as the factory ships it. -/

namespace Sys2Proof.Machine

/-- The state: commands that wait, first in first out, and the block. -/
structure State where
  pending : List Instr
  blk : Block
  deriving DecidableEq, Repr

/-- Faults of a step. The block has none: what the spec calls a fault (12) is state of the block, and a command whose
occasion has not arisen changes nothing. So no constructor is needed, and no step stops this way: safe. -/
inductive Fault where
  deriving DecidableEq, Repr

/-- Refusals of a step. -/
inductive Refusal where
  /-- A command that has no meaning yet. No arm raises it: every command of the table has its meaning. It would be safe, as a
  stop proves nothing about the hardware. -/
  | notModelled (mnemonic : String)
  deriving DecidableEq, Repr

/-- The block without power (17 R439, R445; the reset columns of every register table): every register at its reset value,
DRAM and the channels empty. -/
def coldBlock : Block := {
  quartz := coldQuartz, disc := coldDisc, tod := coldTod, garnet := coldGarnet, jade := coldJade, spinel := coldSpinel
  opal := coldOpal, onyx := coldOnyx, agate := coldAgate, beryl := coldBeryl factoryFuses [] [] false, topaz := coldTopaz
  dram := [], ch := coldChannels, regs := [], out := coldOutputs, fresh := 0 }

/-- The machine right after reset: nothing waits, the block has no power (log entry 5). -/
def State.reset : State := { pending := [], blk := coldBlock }

end Sys2Proof.Machine
end

