-- ==== Sys2Proof/Machine/Exec.lean ====
section
/-! DEFINITION. How a command acts: the form every meaning has, and the gates that stand before an Island's own operation
(12 R320, R326 to R328; 12 R346). -/

namespace Sys2Proof.Machine

/-- A command changes the block alone; every command completes. -/
def act (f : Block → Block) (s : State) : Host.Outcome State Fault Refusal := .next { s with blk := f s.blk }

/-- The Island takes the input whether it runs or has fail-stopped; frozen, it withholds its acknowledgement (12 R328). -/
def heeded (i : Island) (f : Block → Block) (b : Block) : Block := if b.alive i || b.failing i then f b else b

/-- The Island's clocks run (17 R446). -/
def powered (i : Island) (f : Block → Block) (b : Block) : Block := if b.inPower i then f b else b

/-- Beryl's firmware runs (17 R448, 12 R333). -/
def whileFirmware (f : Block → Block) (b : Block) : Block := if firmware b then f b else b

/-- A live input is ignored in Replay (12 R346). -/
def live (f : Block → Block) (b : Block) : Block := if b.beryl.evr.mode = 2 then b else f b

/-- In Replay the live message is dropped; otherwise it is served (12 R346). -/
def liveOr (drop f : Block → Block) (b : Block) : Block := if b.beryl.evr.mode = 2 then drop b else f b

/-- A Cadence event of the Quartz → Garnet channel is dropped. -/
def dropCadence (b : Block) : Block := b.modCh (fun c => { c with quartzGarnet := c.quartzGarnet.drop 1 })

/-- A live trigger event is dropped. -/
def dropTrigger (b : Block) : Block := b.modCh (fun c => { c with agateGarnet := c.agateGarnet.drop 1 })

/-- A live time record is dropped. -/
def dropTimeRecord (b : Block) : Block := b.modCh (fun c => { c with quartzOpal := c.quartzOpal.drop 1 })

/-- Fail-stopped Jade fails the Frame of a Destination set it receives (12 R327). -/
def jadeDropsSet (b : Block) : Block :=
  match b.ch.opalJade with
  | (n, _) :: rest => failInJade n (b.modCh (fun c => { c with opalJade := rest }))
  | [] => b

/-- Fail-stopped Jade fails the Frame of a retention reservation it receives. -/
def jadeDropsRetention (b : Block) : Block :=
  match b.ch.onyxJade with
  | (n, _, _) :: rest => failInJade n (b.modCh (fun c => { c with onyxJade := rest }))
  | [] => b

/-- Fail-stopped Jade fails the Frame of a staging reservation it receives. -/
def jadeDropsStaging (b : Block) : Block :=
  match b.ch.spinelJade with
  | (n, _, _) :: rest => failInJade n (b.modCh (fun c => { c with spinelJade := rest }))
  | [] => b

/-- Fail-stopped Onyx retires an expiry request: it has failed the Segments it held. -/
def onyxDropsExpiry (b : Block) : Block := b.modCh (fun c => { c with expiry := c.expiry.drop 1 })

/-- TIME_OF_DAY in Replay: a well-formed message waits for its recorded result (12 R346); a malformed one is refused as
always. -/
def todGate (desc : Nat) (b : Block) : Block :=
  match b.dispatched ctrlRing desc 0x0D with
  | some d => if b.beryl.evr.mode = 2 && bitsOf (leAt d 20 4) 29 0 ≤ 999999999 then b else timeOfDay desc b
  | none => b

end Sys2Proof.Machine
end

