-- ==== Sys2Proof/Machine/ExecAgate.lean ====
section
/-! DEFINITION. The meanings of the commands of
Agate: Pin Sequencer instructions, transfers, pins (13).
Each is the effect of the block's operation of that name, behind the gate of the Island that acts (Machine/Exec.lean). -/

namespace Sys2Proof.Machine

/-- SEQ_TRANSFER_TX (R219). -/
def execSeqTransferTx (desc : Nat) (buf : Option (List Byte)) (s : State) : Host.Outcome State Fault Refusal :=
  act (gated .agate (seqTransferTx desc buf)) s

/-- SEQ_TRANSFER_RX (R219). -/
def execSeqTransferRx (desc : Nat) (s : State) : Host.Outcome State Fault Refusal :=
  act (gated .agate (seqTransferRx desc)) s

/-- SEQ_TRANSFER_PROGRAM (R366). -/
def execSeqTransferProgram (desc : Nat) (buf : Option (List Byte)) (cycles : Nat) (s : State) : Host.Outcome State Fault Refusal :=
  act (gated .agate (seqTransferProgram desc buf cycles)) s

/-- SEQ_TRANSFER_TIMEOUT (R219). -/
def execSeqTransferTimeout (desc : Nat) (s : State) : Host.Outcome State Fault Refusal :=
  act (gated .agate (seqTransferTimeout desc)) s

/-- JMP (R357). -/
def execSeqJmp (n : Nat) (joins : Bool) (s : State) : Host.Outcome State Fault Refusal :=
  act (gated .agate (seqJmp n joins)) s

/-- WAIT (R357). -/
def execSeqWait (n : Nat) (joins : Bool) (s : State) : Host.Outcome State Fault Refusal :=
  act (gated .agate (seqWait n joins)) s

/-- IN (R359). -/
def execSeqIn (n : Nat) (joins : Bool) (s : State) : Host.Outcome State Fault Refusal :=
  act (gated .agate (seqIn n joins)) s

/-- OUT (R359). -/
def execSeqOut (n : Nat) (joins : Bool) (s : State) : Host.Outcome State Fault Refusal :=
  act (gated .agate (seqOut n joins)) s

/-- PUSH (R357). -/
def execSeqPush (n : Nat) (joins : Bool) (s : State) : Host.Outcome State Fault Refusal :=
  act (gated .agate (seqPush n joins)) s

/-- PULL (R357). -/
def execSeqPull (n : Nat) (joins : Bool) (s : State) : Host.Outcome State Fault Refusal :=
  act (gated .agate (seqPull n joins)) s

/-- MOV (R358). -/
def execSeqMov (n : Nat) (joins : Bool) (s : State) : Host.Outcome State Fault Refusal :=
  act (gated .agate (seqMov n joins)) s

/-- SET (R360). -/
def execSeqSet (n : Nat) (joins : Bool) (s : State) : Host.Outcome State Fault Refusal :=
  act (gated .agate (seqSet n joins)) s

/-- FLAG_RAISE (R367). -/
def execFlagRaise (n : Nat) (joins : Bool) (s : State) : Host.Outcome State Fault Refusal :=
  act (gated .agate (flagRaise n joins)) s

/-- FLAG_DROP (R367). -/
def execFlagDrop (n : Nat) (joins : Bool) (s : State) : Host.Outcome State Fault Refusal :=
  act (gated .agate (flagDrop n joins)) s

/-- FLAG_TAKE (R367). -/
def execFlagTake (n : Nat) (joins : Bool) (s : State) : Host.Outcome State Fault Refusal :=
  act (gated .agate (flagTake n joins)) s

/-- FLAG_TRIG (R368). -/
def execFlagTrig (n : Nat) (joins : Bool) (s : State) : Host.Outcome State Fault Refusal :=
  act (gated .agate (flagTrig n joins)) s

/-- CAD (R369). -/
def execSeqCad (n : Nat) (joins : Bool) (s : State) : Host.Outcome State Fault Refusal :=
  act (gated .agate (seqCad n joins)) s

/-- ILLEGAL_OPCODE (R356). -/
def execIllegalOpcode (n : Nat) (joins : Bool) (s : State) : Host.Outcome State Fault Refusal :=
  act (gated .agate (illegalOpcode n joins)) s

/-- ENGINE_ENABLE (R374). -/
def execEngineEnable (w : Word) (s : State) : Host.Outcome State Fault Refusal := act (engineEnable w) s

/-- ENGINE_HALT (R374). -/
def execEngineHalt (w : Word) (s : State) : Host.Outcome State Fault Refusal := act (engineHalt w) s

/-- GANG_CHANGE (R373). -/
def execGangChange (w : Word) (s : State) : Host.Outcome State Fault Refusal := act (gangChange w) s

/-- SEQ_IO_EDGE (R363). -/
def execSeqIoEdge (p : Nat) (level : Bool) (s : State) : Host.Outcome State Fault Refusal :=
  act (gated .agate (seqIoEdge p level)) s

/-- TRIG_IN_EDGE (R100). -/
def execTrigInEdge (s : State) (joins : Bool := false) : Host.Outcome State Fault Refusal := act (live (gated .agate (trigInEdge joins))) s

/-- CADENCE_EVENT_AGATE (R369). -/
def execCadenceEventAgate (lost : Nat) (s : State) : Host.Outcome State Fault Refusal :=
  act (served .agate agateDrops (cadenceEventAgate lost)) s

/-- GANG_CTRL_WRITE (R372). -/
def execGangCtrlWrite (g : Nat) (data : List (Nat × Word)) (w : Word) (s : State) : Host.Outcome State Fault Refusal :=
  act (whileFirmware (gangCtrlWrite g data w)) s

/-- GIO_TRIG_WRITE (R477). -/
def execGioTrigWrite (w : Word) (s : State) : Host.Outcome State Fault Refusal := act (gioTrigWrite w) s

/-- TRIG_IN_INACTIVE (R100). -/
def execTrigInInactive (s : State) : Host.Outcome State Fault Refusal := act (live (gated .agate trigInInactive)) s

end Sys2Proof.Machine
end

