-- ==== Sys2Proof/Machine/ExecBeryl.lean ====
section
/-! DEFINITION. The meanings of the commands of
Beryl: thermal manager, OTP controller, Event Recorder (12, 15, 16).
Each is the effect of the block's operation of that name, behind the gate of the Island that acts (Machine/Exec.lean). -/

namespace Sys2Proof.Machine

/-- FRAME_BOUND_RECORD (R409). -/
def execFrameBoundRecord (s : State) : Host.Outcome State Fault Refusal := act (whileFirmware frameBoundRecord) s

/-- SENSOR_SAMPLE (R404). -/
def execSensorSample (l : List Int) (s : State) : Host.Outcome State Fault Refusal := act (sensorSample l) s

/-- THERMAL_READING (R406). -/
def execThermalReading (ra rb : Int) (s : State) : Host.Outcome State Fault Refusal := act (thermalReading ra rb) s

/-- TEL_BURN_REQUEST (R416). -/
def execTelBurnRequest (mv : Nat) (s : State) (more : List Nat := []) : Host.Outcome State Fault Refusal := act (telBurnRequest mv more) s

/-- OTP_PROGRAM (R433). -/
def execOtpProgram (w : Word) (mv : Nat) (s : State) (more : List Nat := []) : Host.Outcome State Fault Refusal :=
  act (otpProgram w.toNat mv more) s

/-- OTP_PULSE_DONE (R434). -/
def execOtpPulseDone (fired firm : Half) (mv : Nat) (s : State) (soft : Half := 0) (more : List Nat := []) : Host.Outcome State Fault Refusal :=
  act (otpPulseDone fired firm mv soft more) s

/-- VPP_MEASURE (R437). -/
def execVppMeasure (mv : Nat) (s : State) : Host.Outcome State Fault Refusal := act (vppMeasure mv) s

/-- OTP_READ (R437). -/
def execOtpRead (w : Word) (s : State) : Host.Outcome State Fault Refusal := act (otpRead w.toNat) s

/-- FUSE_LOAD (R428). -/
def execFuseLoad (refOk : Bool) (s : State) : Host.Outcome State Fault Refusal := act (fuseLoad refOk) s

/-- EVR_RECORD (R339). -/
def execEvrRecord (w : Word) (s : State) : Host.Outcome State Fault Refusal := act (evrRecord w.toNat) s

/-- EVR_REPLAY (R345). -/
def execEvrReplay (w : Word) (s : State) : Host.Outcome State Fault Refusal := act (evrReplay w.toNat) s

/-- EVR_OFF (R351). -/
def execEvrOff (w : Word) (s : State) : Host.Outcome State Fault Refusal := act (evrOff w.toNat) s

/-- TRACE_ENTRY (R339). -/
def execTraceEntry (s : State) : Host.Outcome State Fault Refusal := act traceEntry s

/-- TRACE_BLOCK_CLOSE (R340). -/
def execTraceBlockClose (ecc : Ecc) (s : State) : Host.Outcome State Fault Refusal := act (traceBlockClose ecc) s

/-- REPLAY_FEED (R347). -/
def execReplayFeed (r : ReplayRead) (s : State) : Host.Outcome State Fault Refusal := act (replayFeed r) s

end Sys2Proof.Machine
end

