-- ==== Sys2Proof/Machine/ExecGarnet.lean ====
section
/-! DEFINITION. The meanings of the commands of
Garnet: Sub-frames, triggers, Frame Programs, Takes, the drain (02 to 04).
Each is the effect of the block's operation of that name, behind the gate of the Island that acts (Machine/Exec.lean). -/

namespace Sys2Proof.Machine

/-- SUB_FRAME_START (R38). -/
def execSubFrameStart (scene : Scene) (lost : Nat) (s : State) : Host.Outcome State Fault Refusal :=
  act (liveOr dropCadence (served .garnet garnetPasses (subFrameStart scene lost))) s

/-- TRIGGER_EVENT (R101). -/
def execTriggerEvent (lost : Nat) (s : State) : Host.Outcome State Fault Refusal :=
  act (liveOr dropTrigger (served .garnet garnetDropsTrigger (triggerEvent lost))) s

/-- FRAME_PROGRAM (R67). -/
def execFrameProgram (desc : Nat) (s : State) : Host.Outcome State Fault Refusal :=
  act (gated .garnet (frameProgram desc)) s

/-- TAKE_START (R96). -/
def execTakeStart (desc : Nat) (s : State) : Host.Outcome State Fault Refusal :=
  act (gated .garnet (takeStart desc)) s

/-- TAKE_STOP (R97). -/
def execTakeStop (desc : Nat) (s : State) : Host.Outcome State Fault Refusal := act (gated .garnet (takeStop desc)) s

/-- TRIGGER (R98). -/
def execTrigger (desc : Nat) (s : State) : Host.Outcome State Fault Refusal := act (gated .garnet (trigger desc)) s

/-- THERMAL_STEP (R409). -/
def execThermalStep (s : State) : Host.Outcome State Fault Refusal :=
  act (served .garnet garnetDropsStep thermalStep) s

/-- STOP_REQUEST (R281). -/
def execStopRequest (s : State) : Host.Outcome State Fault Refusal := act (heeded .garnet stopRequest) s

/-- DRAIN_STRIPE_DONE (R17). -/
def execDrainStripeDone (s : State) : Host.Outcome State Fault Refusal := act (gated .garnet drainStripeDone) s

/-- STRIPE_TOKEN_ACK (R17). -/
def execStripeTokenAck (s : State) : Host.Outcome State Fault Refusal := act (gated .garnet stripeTokenAck) s

/-- POWER_LOSS_STOP (R394). -/
def execPowerLossStop (s : State) : Host.Outcome State Fault Refusal := act (heeded .garnet powerLossStop) s

/-- GARNET_SHUTDOWN (R412). -/
def execGarnetShutdown (s : State) : Host.Outcome State Fault Refusal := act (heeded .garnet garnetShutdown) s

/-- GRN_FRAME_LO_READ (R470). -/
def execGrnFrameLoRead (s : State) : Host.Outcome State Fault Refusal := act grnFrameLoRead s

end Sys2Proof.Machine
end

