-- ==== Sys2Proof/Machine/ExecJade.lean ====
section
/-! DEFINITION. The meanings of the commands of
Jade: tokens, Stripes, settings, reference pictures (06, 07).
Each is the effect of the block's operation of that name, behind the gate of the Island that acts (Machine/Exec.lean). -/

namespace Sys2Proof.Machine

/-- FRAME_HEADER_TOKEN (R21). -/
def execFrameHeaderToken (s : State) : Host.Outcome State Fault Refusal :=
  act (served .jade (jadeFails frameHeaderToken) frameHeaderToken) s

/-- STRIPE_TOKEN (R141). -/
def execStripeToken (bad1 bad2 : Bool) (ecc : Ecc) (s : State) : Host.Outcome State Fault Refusal :=
  act (served .jade (jadeFails (stripeToken_ bad1 bad2 ecc)) (stripeToken_ bad1 bad2 ecc)) s

/-- STRIPE_PROCESS (R145). -/
def execStripeProcess (ecc : Ecc) (kind : RefKind) (s : State) : Host.Outcome State Fault Refusal :=
  act (gated .jade (stripeProcess ecc kind)) s

/-- PROFILE_TOKEN (R187). -/
def execProfileToken (bad1 bad2 : Bool) (ecc : Ecc) (s : State) : Host.Outcome State Fault Refusal :=
  act (served .jade (jadeFails (profileToken bad1 bad2 ecc)) (profileToken bad1 bad2 ecc)) s

/-- DESTINATION_SET (R178). -/
def execDestinationSet (s : State) : Host.Outcome State Fault Refusal :=
  act (served .jade jadeDropsSet destinationSet) s

/-- RETENTION_RESERVATION (R275). -/
def execRetentionReservation (s : State) : Host.Outcome State Fault Refusal :=
  act (served .jade jadeDropsRetention retentionReservation) s

/-- STAGING_RESERVATION (R221). -/
def execStagingReservation (s : State) : Host.Outcome State Fault Refusal :=
  act (served .jade jadeDropsStaging stagingReservation) s

/-- PROC_SETTINGS (R217). -/
def execProcSettings (desc : Nat) (s : State) : Host.Outcome State Fault Refusal :=
  act (gated .jade (procSettings desc)) s

/-- PROC_SETTINGS_RESUME (R217). -/
def execProcSettingsResume (s : State) : Host.Outcome State Fault Refusal := act (gated .jade procSettingsResume) s

/-- REF_LOAD (R160). -/
def execRefLoad (desc : Nat) (buf : Option (List Byte)) (s : State) : Host.Outcome State Fault Refusal :=
  act (gated .jade (refLoad desc buf)) s

/-- REF_UNLOAD (R162). -/
def execRefUnload (desc : Nat) (s : State) : Host.Outcome State Fault Refusal := act (gated .jade (refUnload desc)) s

/-- REF_SLOT_FREED (R161). -/
def execRefSlotFreed (s : State) : Host.Outcome State Fault Refusal := act (gated .jade refSlotFreed) s

/-- CLR_COUNTS (R171). -/
def execClrCounts (s : State) : Host.Outcome State Fault Refusal := act clrCounts s

/-- CLOCK_DIVISION_REQUEST (R410). -/
def execClockDivisionRequest (s : State) : Host.Outcome State Fault Refusal :=
  act (heeded .jade clockDivisionRequest) s

/-- JADE_CLOCK_DIVIDE (R410). -/
def execJadeClockDivide (s : State) : Host.Outcome State Fault Refusal := act (gated .jade jadeClockDivide) s

end Sys2Proof.Machine
end

