-- ==== Sys2Proof/Machine/ExecOnyx.lean ====
section
/-! DEFINITION. The meanings of the commands of
Onyx: magazine ports, sets, shares, flushes (10).
Each is the effect of the block's operation of that name, behind the gate of the Island that acts (Machine/Exec.lean). -/

namespace Sys2Proof.Machine

/-- MAG_SET (R272). -/
def execMagSet (desc : Nat) (s : State) : Host.Outcome State Fault Refusal := act (gated .onyx (magSet desc)) s

/-- MAG_QUERY (R290). -/
def execMagQuery (desc : Nat) (s : State) : Host.Outcome State Fault Refusal := act (gated .onyx (magQuery desc)) s

/-- LATCH_NOTICE_ONYX (R275). -/
def execLatchNoticeOnyx (s : State) (lost : Nat := 0) : Host.Outcome State Fault Refusal :=
  act (served .onyx (onyxNoticeFails lost (latchNoticeOnyx lost)) (latchNoticeOnyx lost)) s

/-- MAGAZINE_LINK_UP (R263). -/
def execMagazineLinkUp (m gen width vs cap : Nat) (s : State) : Host.Outcome State Fault Refusal :=
  act (gated .onyx (magazineLinkUp m gen width vs cap)) s

/-- MAGAZINE_LINK_DOWN (R283). -/
def execMagazineLinkDown (m : Nat) (s : State) (also : List Nat := []) : Host.Outcome State Fault Refusal :=
  act (gated .onyx (magazineLinkDown m also)) s

/-- NVME_COMPLETION (R278). -/
def execNvmeCompletion (m cid status sqhd : Nat) (data : List Byte) (s : State) : Host.Outcome State Fault Refusal :=
  act (gated .onyx (nvmeCompletion m cid status sqhd data)) s

/-- CMD_TIMEOUT (R261). -/
def execCmdTimeout (m cid : Nat) (s : State) : Host.Outcome State Fault Refusal :=
  act (gated .onyx (cmdTimeout m cid)) s

/-- SMART_POLL (R260). -/
def execSmartPoll (s : State) : Host.Outcome State Fault Refusal := act (gated .onyx smartPoll) s

/-- MAGAZINE_DMA_VIOLATION (R258). -/
def execMagazineDmaViolation (m : Nat) (s : State) : Host.Outcome State Fault Refusal :=
  act (gated .onyx (magazineDmaViolation m)) s

/-- MAGAZINE_STRIPE_TOKEN (R278). -/
def execMagazineStripeToken (ecc : Ecc) (s : State) : Host.Outcome State Fault Refusal :=
  act (served .onyx (onyxFails (magazineStripeToken ecc)) (magazineStripeToken ecc)) s

/-- EXPIRY_REQUEST (R244). -/
def execExpiryRequest (s : State) : Host.Outcome State Fault Refusal :=
  act (served .onyx onyxDropsExpiry expiryRequest) s

/-- REINIT (R264). -/
def execReinit (w : Word) (s : State) : Host.Outcome State Fault Refusal := act (reinit w) s

/-- RETRAIN (R289). -/
def execRetrain (w : Word) (s : State) : Host.Outcome State Fault Refusal := act (retrain w) s

/-- ONYX_POWER_LOSS (R286). -/
def execOnyxPowerLoss (s : State) : Host.Outcome State Fault Refusal := act (gated .onyx onyxPowerLoss) s

/-- FLUSH_WRITE_DEADLINE (R394). -/
def execFlushWriteDeadline (s : State) : Host.Outcome State Fault Refusal := act (gated .onyx flushWriteDeadline) s

/-- SHUTDOWN_WAIT_TIMEOUT (R286). -/
def execShutdownWaitTimeout (s : State) : Host.Outcome State Fault Refusal := act (gated .onyx shutdownWaitTimeout) s

/-- ONYX_SHUTDOWN (R412). -/
def execOnyxShutdown (s : State) : Host.Outcome State Fault Refusal := act (gated .onyx onyxShutdown) s

/-- MAGAZINE_POWER_SETTLED (R497). -/
def execMagazinePowerSettled (m : Nat) (s : State) : Host.Outcome State Fault Refusal :=
  act (powered .onyx (magazinePowerSettled m)) s

/-- CONTROLLER_STATUS_CHANGE (R286). -/
def execControllerStatusChange (m csts : Nat) (s : State) : Host.Outcome State Fault Refusal :=
  act (gated .onyx (controllerStatusChange m csts)) s

end Sys2Proof.Machine
end

