-- ==== Sys2Proof/Machine/ExecOpal.lean ====
section
/-! DEFINITION. The meanings of the commands of
Opal: polls, rings, Contexts, the Ledger, MSI-X, the host link (08, 09, 18).
Each is the effect of the block's operation of that name, behind the gate of the Island that acts (Machine/Exec.lean). -/

namespace Sys2Proof.Machine

/-- HOST_STRIPE_MOVED (R224). -/
def execHostStripeMoved (s : State) : Host.Outcome State Fault Refusal :=
  act (served .opal (opalFails hostStripeMoved) hostStripeMoved) s

/-- POLL (R202). -/
def execPoll (page : Option (List Byte)) (s : State) : Host.Outcome State Fault Refusal :=
  act (gated .opal (poll page)) s

/-- DESCRIPTOR_FETCHED (R209). -/
def execDescriptorFetched (r : Nat) (data : Option (List (List Byte))) (s : State) : Host.Outcome State Fault Refusal :=
  act (gated .opal (descriptorFetched r data)) s

/-- NOP (R209). -/
def execNop (r desc : Nat) (s : State) : Host.Outcome State Fault Refusal := act (gated .opal (nop r desc)) s

/-- CONTEXT_OPEN (R215). -/
def execContextOpen (desc : Nat) (s : State) : Host.Outcome State Fault Refusal :=
  act (gated .opal (contextOpen desc)) s

/-- CONTEXT_CLOSE_DRAIN (R216). -/
def execContextCloseDrain (desc : Nat) (s : State) : Host.Outcome State Fault Refusal :=
  act (gated .opal (contextCloseDrain desc)) s

/-- CONTEXT_CLOSE_ABORT (R216). -/
def execContextCloseAbort (desc : Nat) (s : State) : Host.Outcome State Fault Refusal :=
  act (gated .opal (contextCloseAbort desc)) s

/-- CONTEXT_CLOSE_FINISH (R216). -/
def execContextCloseFinish (c word : Nat) (posted : Option (List (List Byte))) (s : State) : Host.Outcome State Fault Refusal :=
  act (gated .opal (contextCloseFinish c word posted)) s

/-- OUTCOME_QUERY (R220). -/
def execOutcomeQuery (desc : Nat) (s : State) : Host.Outcome State Fault Refusal :=
  act (gated .opal (outcomeQuery desc)) s

/-- BUFFER_POST (R222). -/
def execBufferPost (c desc : Nat) (s : State) : Host.Outcome State Fault Refusal :=
  act (gated .opal (bufferPost c desc)) s

/-- BUF_WAIT_EXPIRY (R222). -/
def execBufWaitExpiry (s : State) : Host.Outcome State Fault Refusal := act (heeded .opal bufWaitExpiry) s

/-- TIME_RECORD (R136). -/
def execTimeRecord (s : State) : Host.Outcome State Fault Refusal :=
  act (liveOr dropTimeRecord (heeded .opal timeRecord)) s

/-- LATCH_NOTICE_OPAL (R179). -/
def execLatchNoticeOpal (s : State) (lost : Nat := 0) : Host.Outcome State Fault Refusal :=
  act (heeded .opal (latchNoticeOpal lost)) s

/-- GARNET_OUTCOME (R246). -/
def execGarnetOutcome (s : State) : Host.Outcome State Fault Refusal := act (heeded .opal garnetDecides) s

/-- DESTINATION_OUTCOME (R237). -/
def execDestinationOutcome (s : State) : Host.Outcome State Fault Refusal := act (heeded .opal destinationOutcome) s

/-- LEDGER_PUBLISH (R239). -/
def execLedgerPublish (s : State) : Host.Outcome State Fault Refusal := act (heeded .opal ledgerPublish) s

/-- BERYL_EVENT_RECORD (R230). -/
def execBerylEventRecord (s : State) : Host.Outcome State Fault Refusal := act (heeded .opal berylEventRecord) s

/-- MSIX_HOLDOFF_EXPIRY (R232). -/
def execMsixHoldoffExpiry (v : Nat) (s : State) : Host.Outcome State Fault Refusal :=
  act (gated .opal (msixHoldoffExpiry v)) s

/-- MSIX_MASK_WRITE (R475). -/
def execMsixMaskWrite (w : MsixWrite) (s : State) : Host.Outcome State Fault Refusal := act (msixMaskWrite w) s

/-- CTRL_RING_START (R472). -/
def execCtrlRingStart (w : Word) (s : State) : Host.Outcome State Fault Refusal :=
  act (gated .opal (ctrlRingStart w)) s

/-- LEDGER_RING_START (R473). -/
def execLedgerRingStart (w : Word) (s : State) : Host.Outcome State Fault Refusal :=
  act (gated .opal (ledgerRingStart w)) s

/-- HOST_LINK_DOWN (R332). -/
def execHostLinkDown (s : State) : Host.Outcome State Fault Refusal := act (powered .opal hostLinkDown) s

/-- HOST_LINK_UP (R449). -/
def execHostLinkUp (s : State) (rate : Nat := 6) (width : Nat := 8) : Host.Outcome State Fault Refusal := act (powered .opal (hostLinkUp rate width)) s

/-- HOST_PERST (R449). -/
def execHostPerst (s : State) : Host.Outcome State Fault Refusal := act hostPerst s

/-- FUNDAMENTAL_RESET (R332). -/
def execFundamentalReset (s : State) : Host.Outcome State Fault Refusal := act fundamentalReset s

/-- ONYX_FLUSH_REPORT (R394). -/
def execOnyxFlushReport (s : State) : Host.Outcome State Fault Refusal := act onyxFlushReport s

/-- FLUSH_READ_COMPLETE (R394). -/
def execFlushReadComplete (s : State) : Host.Outcome State Fault Refusal := act flushReadComplete s

/-- OPAL_FLUSH_TIMEOUT (R394). -/
def execOpalFlushTimeout (s : State) : Host.Outcome State Fault Refusal := act opalFlushTimeout s

/-- POLL_READ_TIMEOUT (R205). -/
def execPollReadTimeout (s : State) : Host.Outcome State Fault Refusal := act (gated .opal pollReadTimeout) s

/-- HOST_LINK_ERROR (R312). -/
def execHostLinkError (s : State) : Host.Outcome State Fault Refusal := act (powered .opal hostLinkError) s

end Sys2Proof.Machine
end

