-- ==== Sys2Proof/Machine/ExecQuartz.lean ====
section
/-! DEFINITION. The meanings of the commands of
Quartz: Time Base, Cadence channels, strobes, reference discipline, time of day (04, 05).
Each is the effect of the block's operation of that name, behind the gate of the Island that acts (Machine/Exec.lean). -/

namespace Sys2Proof.Machine

/-- CAD0_EVENT (R86). -/
def execCad0Event (s : State) : Host.Outcome State Fault Refusal := act (gated .quartz cad0Event) s

/-- CAD1_EVENT (R87). -/
def execCad1Event (s : State) : Host.Outcome State Fault Refusal := act (gated .quartz cad1Event) s

/-- CADENCE_CHANNEL_EVENT (R93). -/
def execCadenceChannelEvent (ch : Nat) (s : State) : Host.Outcome State Fault Refusal :=
  act (gated .quartz (cadenceChannelEvent ch)) s

/-- STROBE_ON (R108). -/
def execStrobeOn (k : Nat) (s : State) : Host.Outcome State Fault Refusal := act (gated .quartz (strobeOn k)) s

/-- STROBE_OFF (R108). -/
def execStrobeOff (k : Nat) (s : State) : Host.Outcome State Fault Refusal := act (gated .quartz (strobeOff k)) s

/-- STRB_CFG_WRITE (R469). -/
def execStrbCfgWrite (n : Nat) (w : Word) (s : State) : Host.Outcome State Fault Refusal := act (strbCfgWrite n w) s

/-- TB_LO_READ (R82). -/
def execTbLoRead (s : State) : Host.Outcome State Fault Refusal := act tbLoRead s

/-- CAD_LAST_LO_READ (R468). -/
def execCadLastLoRead (s : State) : Host.Outcome State Fault Refusal := act cadLastLoRead s

/-- CAP_APPLY (R88). -/
def execCapApply (s : State) : Host.Outcome State Fault Refusal := act capApply s

/-- REF_IN_EDGE (R112). -/
def execRefInEdge (stamp : Nat) (s : State) (level : Bool := true) (held : Nat := 65536) : Host.Outcome State Fault Refusal :=
  act (live (gated .quartz (refInEdge stamp level held))) s

/-- COMPARE_EVENT (R114). -/
def execCompareEvent (s : State) : Host.Outcome State Fault Refusal := act (gated .quartz compareEvent) s

/-- REF_LOSS (R121). -/
def execRefLoss (s : State) : Host.Outcome State Fault Refusal := act (gated .quartz refLoss) s

/-- QUALIFICATION_END (R124). -/
def execQualificationEnd (s : State) : Host.Outcome State Fault Refusal := act (gated .quartz qualificationEnd) s

/-- ACQUIRE_TIMEOUT (R118). -/
def execAcquireTimeout (s : State) : Host.Outcome State Fault Refusal := act (gated .quartz acquireTimeout) s

/-- ALIGNMENT_STAGE (R124). -/
def execAlignmentStage (s : State) : Host.Outcome State Fault Refusal := act (gated .quartz alignmentStage) s

/-- ALIGNMENT_CHECK_END (R124). -/
def execAlignmentCheckEnd (s : State) : Host.Outcome State Fault Refusal := act (gated .quartz alignmentCheckEnd) s

/-- PPS_IN_EDGE (R128). -/
def execPpsInEdge (stamp : Nat) (s : State) (level : Bool := true) (held : Nat := 65536) : Host.Outcome State Fault Refusal :=
  act (live (gated .quartz (ppsInEdge stamp level held))) s

/-- TIME_OF_DAY (R129). -/
def execTimeOfDay (desc : Nat) (s : State) : Host.Outcome State Fault Refusal := act (gated .quartz (todGate desc)) s

/-- RELOCK (R126). -/
def execRelock (desc : Nat) (s : State) : Host.Outcome State Fault Refusal := act (gated .quartz (relock desc)) s

/-- CADENCE (R94). -/
def execCadence (desc : Nat) (s : State) : Host.Outcome State Fault Refusal := act (gated .quartz (cadence desc)) s

end Sys2Proof.Machine
end

