-- ==== Sys2Proof/Machine/ExecSpinel.lean ====
section
/-! DEFINITION. The meanings of the commands of
Spinel: Segment Stripes, keys, share encryption (08, 11).
Each is the effect of the block's operation of that name, behind the gate of the Island that acts (Machine/Exec.lean). -/

namespace Sys2Proof.Machine

/-- SEGMENT_STRIPE_TOKEN (R224). -/
def execSegmentStripeToken (ecc : Ecc) (s : State) : Host.Outcome State Fault Refusal :=
  act (served .spinel (spinelFails (segmentStripeToken ecc)) (segmentStripeToken ecc)) s

/-- KEY_LOAD (R295). -/
def execKeyLoad (desc : Nat) (buf : Option (List Byte)) (s : State) : Host.Outcome State Fault Refusal :=
  act (gated .spinel (keyLoad desc buf)) s

/-- KEY_RELEASE (R299). -/
def execKeyRelease (s : State) : Host.Outcome State Fault Refusal := act (gated .spinel keyRelease) s

/-- ZEROISE (R308). -/
def execZeroise (w : Word) (s : State) : Host.Outcome State Fault Refusal := act (heeded .spinel (zeroise w)) s

/-- SHARE_ENCRYPTION_REQUEST (R304). -/
def execShareEncryptionRequest (s : State) : Host.Outcome State Fault Refusal :=
  act (served .spinel spinelFailsShare shareEncryptionRequest) s

/-- LATCH_NOTICE_SPINEL (R221). -/
def execLatchNoticeSpinel (s : State) (lost : Nat := 0) : Host.Outcome State Fault Refusal :=
  act (served .spinel (spinelNoticeFails lost (latchNoticeSpinel lost)) (latchNoticeSpinel lost)) s

end Sys2Proof.Machine
end

