-- ==== Sys2Proof/Machine/ExecTopaz.lean ====
section
/-! DEFINITION. The meanings of the commands of
Topaz: commit, registers, faults, power, start-up and shutdown (12, 14, 15, 17, 18).
Each is the effect of the block's operation of that name, behind the gate of the Island that acts (Machine/Exec.lean). -/

namespace Sys2Proof.Machine

/-- ISL_COMMIT (R463). -/
def execIslCommit (w : Word) (s : State) : Host.Outcome State Fault Refusal := act (islCommit w) s

/-- ISL_UNCOMMIT (R464). -/
def execIslUncommit (w : Word) (s : State) : Host.Outcome State Fault Refusal := act (islUncommit w) s

/-- REGISTER_WRITE (R461). -/
def execRegisterWrite (off : Nat) (w : Word) (be : BitVec 4) (s : State) : Host.Outcome State Fault Refusal :=
  act (registerWrite off w be) s

/-- WATCHDOG_REPORT (R333). -/
def execWatchdogReport (s : State) (lost : Nat := 0) : Host.Outcome State Fault Refusal := act (watchdogReport lost) s

/-- WATCHDOG_EXPIRY (R333). -/
def execWatchdogExpiry (s : State) : Host.Outcome State Fault Refusal := act watchdogExpiry s

/-- BERYL_RESTART_DONE (R335). -/
def execBerylRestartDone (patchOk : Bool) (mv : Nat) (s : State) (bad : List Island := []) (more : List Nat := []) : Host.Outcome State Fault Refusal :=
  act (berylRestartDone patchOk mv bad more) s

/-- ISLAND_FAULT (R320). -/
def execIslandFault (i : Island) (c : FaultClass) (s : State) : Host.Outcome State Fault Refusal :=
  act (islandFault i c) s

/-- ISLAND_RECOVERY (R321). -/
def execIslandRecovery (i : Island) (ok configOk : Bool) (s : State) : Host.Outcome State Fault Refusal :=
  act (islandRecovery i ok configOk) s

/-- STALL (R337). -/
def execStall (i : Island) (s : State) (since : Nat := 0) : Host.Outcome State Fault Refusal := act (stall i since) s

/-- SHUTDOWN_SIGNAL (R411). -/
def execShutdownSignal (s : State) (lost : Nat := 0) : Host.Outcome State Fault Refusal := act (shutdownSignal lost) s

/-- SHUTDOWN_DEADLINE (R412). -/
def execShutdownDeadline (s : State) : Host.Outcome State Fault Refusal := act shutdownDeadline s

/-- TEL_BURN_RESULT (R416). -/
def execTelBurnResult (s : State) (lost : Nat := 0) : Host.Outcome State Fault Refusal := act (telBurnResult lost) s

/-- RAIL_DROP_TIMEOUT (R412). -/
def execRailDropTimeout (s : State) : Host.Outcome State Fault Refusal := act railDropTimeout s

/-- PATCH_LOAD (R451). -/
def execPatchLoad (w : Word) (s : State) : Host.Outcome State Fault Refusal := act (patchLoad w.toNat) s

/-- PATCH_IMAGE_READ (R452). -/
def execPatchImageRead (data : Option (List Byte)) (mv : Nat) (s : State) (bad : List Island := []) (more : List Nat := []) : Host.Outcome State Fault Refusal :=
  act (patchImageRead data mv bad more) s

/-- DRAM_INIT_DONE (R446). -/
def execDramInitDone (ok : Bool) (s : State) : Host.Outcome State Fault Refusal := act (dramInitDone ok) s

/-- ROM_START (R448). -/
def execRomStart (romOk : Bool) (s : State) : Host.Outcome State Fault Refusal := act (romStart romOk) s

/-- MAIN_INPUT_LOSS (R380). -/
def execMainInputLoss (s : State) (mv : Nat := 0) : Host.Outcome State Fault Refusal := act (mainInputLoss mv) s

/-- MAIN_INPUT_RETURN (R381). -/
def execMainInputReturn (s : State) (mv : Nat := 65535) : Host.Outcome State Fault Refusal := act (mainInputReturn mv) s

/-- KEEP_POWERED_RECORD (R393). -/
def execKeepPoweredRecord (s : State) : Host.Outcome State Fault Refusal := act keepPoweredRecord s

/-- FLUSH_REPORT (R395). -/
def execFlushReport (s : State) : Host.Outcome State Fault Refusal := act flushReport s

/-- FLUSH_DEADLINE (R395). -/
def execFlushDeadline (s : State) : Host.Outcome State Fault Refusal := act flushDeadline s

/-- EVENT_REPEAT (R330). -/
def execEventRepeat (i : Island) (lost : Nat) (s : State) : Host.Outcome State Fault Refusal :=
  act (eventRepeat i lost) s

/-- PACK_READ (R382). -/
def execPackRead (ohms : Nat) (temp : Int) (s : State) : Host.Outcome State Fault Refusal :=
  act (packRead ohms temp) s

/-- SHORT_CHECK (R384). -/
def execShortCheck (s : State) : Host.Outcome State Fault Refusal := act shortCheck s

/-- PRECHARGE_TIMEOUT (R386). -/
def execPrechargeTimeout (s : State) : Host.Outcome State Fault Refusal := act prechargeTimeout s

/-- CHARGE_DONE (R386). -/
def execChargeDone (s : State) : Host.Outcome State Fault Refusal := act chargeDone s

/-- SAFETY_TIMER_EXPIRY (R389). -/
def execSafetyTimerExpiry (s : State) : Host.Outcome State Fault Refusal := act safetyTimerExpiry s

/-- CONTROL_STEP (R403). -/
def execControlStep (mv : Nat) (ma : Int) (s : State) (vbus : Nat := 65535) : Host.Outcome State Fault Refusal := act (controlStep mv ma vbus) s

/-- SHOW_END (R396). -/
def execShowEnd (s : State) : Host.Outcome State Fault Refusal := act showEnd s

/-- POWER_UP_DELAY (R396). -/
def execPowerUpDelay (s : State) : Host.Outcome State Fault Refusal := act powerUpDelay s

/-- KEY_PRESS (R399). -/
def execKeyPress (s : State) : Host.Outcome State Fault Refusal := act (live keyPress) s

/-- KEY_RESTART_HOLD (R400). -/
def execKeyRestartHold (s : State) : Host.Outcome State Fault Refusal := act (live keyRestartHold) s

/-- KEY_SHIP_HOLD (R400). -/
def execKeyShipHold (s : State) : Host.Outcome State Fault Refusal := act (live keyShipHold) s

/-- SHIP_MODE_ENTER (R400). -/
def execShipModeEnter (s : State) : Host.Outcome State Fault Refusal := act shipModeEnter s

/-- HUP_MAGPWR_WRITE (R392). -/
def execHupMagpwrWrite (w : Word) (s : State) : Host.Outcome State Fault Refusal := act (hupMagpwrWrite w.toNat) s

/-- CLR_TIMER (R389). -/
def execClrTimer (w : Word) (s : State) : Host.Outcome State Fault Refusal := act (clrTimer w.toNat) s

/-- TOPAZ_START (R439). -/
def execTopazStart (ohms : Nat) (temp : Int) (s : State) : Host.Outcome State Fault Refusal :=
  act (topazStart ohms temp) s

/-- RAIL_PG_RISE (R440). -/
def execRailPgRise (k : Nat) (s : State) : Host.Outcome State Fault Refusal := act (railPgRise k) s

/-- RAIL_ENABLE_DELAY (R440). -/
def execRailEnableDelay (s : State) : Host.Outcome State Fault Refusal := act railEnableDelay s

/-- RAIL_TIMEOUT (R440). -/
def execRailTimeout (s : State) : Host.Outcome State Fault Refusal := act railTimeout s

/-- RAIL_PG_FALL (R442). -/
def execRailPgFall (k : Nat) (s : State) : Host.Outcome State Fault Refusal := act (railPgFall k) s

/-- RAIL_DOWN_STEP (R441). -/
def execRailDownStep (s : State) : Host.Outcome State Fault Refusal := act railDownStep s

/-- PWR_GOOD_RISE (R444). -/
def execPwrGoodRise (tcxo : Bool) (s : State) : Host.Outcome State Fault Refusal := act (pwrGoodRise tcxo) s

/-- PWR_GOOD_FALL (R445). -/
def execPwrGoodFall (s : State) : Host.Outcome State Fault Refusal := act pwrGoodFall s

/-- KEY_N_RELEASE (R400). -/
def execKeyNRelease (held : Nat) (s : State) : Host.Outcome State Fault Refusal := act (live (keyNRelease held)) s

/-- ISLAND_RESET_RELEASE (R446). -/
def execIslandResetRelease (s : State) : Host.Outcome State Fault Refusal := act islandResetRelease s

/-- VDD_AO_LOSS (R417). -/
def execVddAoLoss (s : State) : Host.Outcome State Fault Refusal := act vddAoLoss s

end Sys2Proof.Machine
end

