-- ==== Sys2Proof/Machine/Dispatch.lean ====
section
/-! DEFINITION. Dispatch: one arm per command, each a direct call of its meaning. -/

namespace Sys2Proof.Machine

/-- What a command does to the block. -/
def exec (i : Instr) (s : State) : Host.Outcome State Fault Refusal :=
  match i with
  | .cad0Event => Sys2Proof.Machine.execCad0Event s
  | .cad1Event => Sys2Proof.Machine.execCad1Event s
  | .cadenceChannelEvent ch => Sys2Proof.Machine.execCadenceChannelEvent ch s
  | .strobeOn k => Sys2Proof.Machine.execStrobeOn k s
  | .strobeOff k => Sys2Proof.Machine.execStrobeOff k s
  | .strbCfgWrite n w => Sys2Proof.Machine.execStrbCfgWrite n w s
  | .tbLoRead => Sys2Proof.Machine.execTbLoRead s
  | .cadLastLoRead => Sys2Proof.Machine.execCadLastLoRead s
  | .capApply => Sys2Proof.Machine.execCapApply s
  | .refInEdge stamp level held => Sys2Proof.Machine.execRefInEdge stamp s level held
  | .compareEvent => Sys2Proof.Machine.execCompareEvent s
  | .refLoss => Sys2Proof.Machine.execRefLoss s
  | .qualificationEnd => Sys2Proof.Machine.execQualificationEnd s
  | .acquireTimeout => Sys2Proof.Machine.execAcquireTimeout s
  | .alignmentStage => Sys2Proof.Machine.execAlignmentStage s
  | .alignmentCheckEnd => Sys2Proof.Machine.execAlignmentCheckEnd s
  | .ppsInEdge stamp level held => Sys2Proof.Machine.execPpsInEdge stamp s level held
  | .timeOfDay desc => Sys2Proof.Machine.execTimeOfDay desc s
  | .relock desc => Sys2Proof.Machine.execRelock desc s
  | .cadence desc => Sys2Proof.Machine.execCadence desc s
  | .subFrameStart scene lost => Sys2Proof.Machine.execSubFrameStart scene lost s
  | .triggerEvent lost => Sys2Proof.Machine.execTriggerEvent lost s
  | .frameProgram desc => Sys2Proof.Machine.execFrameProgram desc s
  | .takeStart desc => Sys2Proof.Machine.execTakeStart desc s
  | .takeStop desc => Sys2Proof.Machine.execTakeStop desc s
  | .trigger desc => Sys2Proof.Machine.execTrigger desc s
  | .thermalStep => Sys2Proof.Machine.execThermalStep s
  | .stopRequest => Sys2Proof.Machine.execStopRequest s
  | .drainStripeDone => Sys2Proof.Machine.execDrainStripeDone s
  | .stripeTokenAck => Sys2Proof.Machine.execStripeTokenAck s
  | .powerLossStop => Sys2Proof.Machine.execPowerLossStop s
  | .garnetShutdown => Sys2Proof.Machine.execGarnetShutdown s
  | .frameBoundRecord => Sys2Proof.Machine.execFrameBoundRecord s
  | .frameHeaderToken => Sys2Proof.Machine.execFrameHeaderToken s
  | .stripeToken bad1 bad2 ecc => Sys2Proof.Machine.execStripeToken bad1 bad2 ecc s
  | .stripeProcess ecc kind => Sys2Proof.Machine.execStripeProcess ecc kind s
  | .profileToken bad1 bad2 ecc => Sys2Proof.Machine.execProfileToken bad1 bad2 ecc s
  | .destinationSet => Sys2Proof.Machine.execDestinationSet s
  | .retentionReservation => Sys2Proof.Machine.execRetentionReservation s
  | .stagingReservation => Sys2Proof.Machine.execStagingReservation s
  | .procSettings desc => Sys2Proof.Machine.execProcSettings desc s
  | .procSettingsResume => Sys2Proof.Machine.execProcSettingsResume s
  | .refLoad desc buf => Sys2Proof.Machine.execRefLoad desc buf s
  | .refUnload desc => Sys2Proof.Machine.execRefUnload desc s
  | .refSlotFreed => Sys2Proof.Machine.execRefSlotFreed s
  | .clrCounts => Sys2Proof.Machine.execClrCounts s
  | .clockDivisionRequest => Sys2Proof.Machine.execClockDivisionRequest s
  | .jadeClockDivide => Sys2Proof.Machine.execJadeClockDivide s
  | .segmentStripeToken ecc => Sys2Proof.Machine.execSegmentStripeToken ecc s
  | .keyLoad desc buf => Sys2Proof.Machine.execKeyLoad desc buf s
  | .keyRelease => Sys2Proof.Machine.execKeyRelease s
  | .zeroise w => Sys2Proof.Machine.execZeroise w s
  | .shareEncryptionRequest => Sys2Proof.Machine.execShareEncryptionRequest s
  | .hostStripeMoved => Sys2Proof.Machine.execHostStripeMoved s
  | .poll page => Sys2Proof.Machine.execPoll page s
  | .descriptorFetched r data => Sys2Proof.Machine.execDescriptorFetched r data s
  | .nop r desc => Sys2Proof.Machine.execNop r desc s
  | .contextOpen desc => Sys2Proof.Machine.execContextOpen desc s
  | .contextCloseDrain desc => Sys2Proof.Machine.execContextCloseDrain desc s
  | .contextCloseAbort desc => Sys2Proof.Machine.execContextCloseAbort desc s
  | .contextCloseFinish c word posted => Sys2Proof.Machine.execContextCloseFinish c word posted s
  | .magSet desc => Sys2Proof.Machine.execMagSet desc s
  | .magQuery desc => Sys2Proof.Machine.execMagQuery desc s
  | .seqTransferTx desc buf => Sys2Proof.Machine.execSeqTransferTx desc buf s
  | .seqTransferRx desc => Sys2Proof.Machine.execSeqTransferRx desc s
  | .seqTransferProgram desc buf cycles => Sys2Proof.Machine.execSeqTransferProgram desc buf cycles s
  | .seqTransferTimeout desc => Sys2Proof.Machine.execSeqTransferTimeout desc s
  | .outcomeQuery desc => Sys2Proof.Machine.execOutcomeQuery desc s
  | .bufferPost c desc => Sys2Proof.Machine.execBufferPost c desc s
  | .bufWaitExpiry => Sys2Proof.Machine.execBufWaitExpiry s
  | .timeRecord => Sys2Proof.Machine.execTimeRecord s
  | .latchNoticeOpal lost => Sys2Proof.Machine.execLatchNoticeOpal s lost
  | .latchNoticeSpinel lost => Sys2Proof.Machine.execLatchNoticeSpinel s lost
  | .latchNoticeOnyx lost => Sys2Proof.Machine.execLatchNoticeOnyx s lost
  | .garnetOutcome => Sys2Proof.Machine.execGarnetOutcome s
  | .destinationOutcome => Sys2Proof.Machine.execDestinationOutcome s
  | .ledgerPublish => Sys2Proof.Machine.execLedgerPublish s
  | .berylEventRecord => Sys2Proof.Machine.execBerylEventRecord s
  | .msixHoldoffExpiry v => Sys2Proof.Machine.execMsixHoldoffExpiry v s
  | .msixMaskWrite w => Sys2Proof.Machine.execMsixMaskWrite w s
  | .ctrlRingStart w => Sys2Proof.Machine.execCtrlRingStart w s
  | .ledgerRingStart w => Sys2Proof.Machine.execLedgerRingStart w s
  | .hostLinkDown => Sys2Proof.Machine.execHostLinkDown s
  | .hostLinkUp rate width => Sys2Proof.Machine.execHostLinkUp s rate width
  | .hostPerst => Sys2Proof.Machine.execHostPerst s
  | .fundamentalReset => Sys2Proof.Machine.execFundamentalReset s
  | .grnFrameLoRead => Sys2Proof.Machine.execGrnFrameLoRead s
  | .islCommit w => Sys2Proof.Machine.execIslCommit w s
  | .islUncommit w => Sys2Proof.Machine.execIslUncommit w s
  | .registerWrite off w be => Sys2Proof.Machine.execRegisterWrite off w be s
  | .onyxFlushReport => Sys2Proof.Machine.execOnyxFlushReport s
  | .flushReadComplete => Sys2Proof.Machine.execFlushReadComplete s
  | .opalFlushTimeout => Sys2Proof.Machine.execOpalFlushTimeout s
  | .magazineLinkUp m gen width vs cap => Sys2Proof.Machine.execMagazineLinkUp m gen width vs cap s
  | .magazineLinkDown m also => Sys2Proof.Machine.execMagazineLinkDown m s also
  | .nvmeCompletion m cid status sqhd data => Sys2Proof.Machine.execNvmeCompletion m cid status sqhd data s
  | .cmdTimeout m cid => Sys2Proof.Machine.execCmdTimeout m cid s
  | .smartPoll => Sys2Proof.Machine.execSmartPoll s
  | .magazineDmaViolation m => Sys2Proof.Machine.execMagazineDmaViolation m s
  | .magazineStripeToken ecc => Sys2Proof.Machine.execMagazineStripeToken ecc s
  | .expiryRequest => Sys2Proof.Machine.execExpiryRequest s
  | .reinit w => Sys2Proof.Machine.execReinit w s
  | .retrain w => Sys2Proof.Machine.execRetrain w s
  | .onyxPowerLoss => Sys2Proof.Machine.execOnyxPowerLoss s
  | .flushWriteDeadline => Sys2Proof.Machine.execFlushWriteDeadline s
  | .shutdownWaitTimeout => Sys2Proof.Machine.execShutdownWaitTimeout s
  | .onyxShutdown => Sys2Proof.Machine.execOnyxShutdown s
  | .magazinePowerSettled m => Sys2Proof.Machine.execMagazinePowerSettled m s
  | .seqJmp n joins => Sys2Proof.Machine.execSeqJmp n joins s
  | .seqWait n joins => Sys2Proof.Machine.execSeqWait n joins s
  | .seqIn n joins => Sys2Proof.Machine.execSeqIn n joins s
  | .seqOut n joins => Sys2Proof.Machine.execSeqOut n joins s
  | .seqPush n joins => Sys2Proof.Machine.execSeqPush n joins s
  | .seqPull n joins => Sys2Proof.Machine.execSeqPull n joins s
  | .seqMov n joins => Sys2Proof.Machine.execSeqMov n joins s
  | .seqSet n joins => Sys2Proof.Machine.execSeqSet n joins s
  | .flagRaise n joins => Sys2Proof.Machine.execFlagRaise n joins s
  | .flagDrop n joins => Sys2Proof.Machine.execFlagDrop n joins s
  | .flagTake n joins => Sys2Proof.Machine.execFlagTake n joins s
  | .flagTrig n joins => Sys2Proof.Machine.execFlagTrig n joins s
  | .seqCad n joins => Sys2Proof.Machine.execSeqCad n joins s
  | .illegalOpcode n joins => Sys2Proof.Machine.execIllegalOpcode n joins s
  | .engineEnable w => Sys2Proof.Machine.execEngineEnable w s
  | .engineHalt w => Sys2Proof.Machine.execEngineHalt w s
  | .gangChange w => Sys2Proof.Machine.execGangChange w s
  | .seqIoEdge p level => Sys2Proof.Machine.execSeqIoEdge p level s
  | .trigInEdge joins => Sys2Proof.Machine.execTrigInEdge s joins
  | .cadenceEventAgate lost => Sys2Proof.Machine.execCadenceEventAgate lost s
  | .gangCtrlWrite g data w => Sys2Proof.Machine.execGangCtrlWrite g data w s
  | .gioTrigWrite w => Sys2Proof.Machine.execGioTrigWrite w s
  | .watchdogReport lost => Sys2Proof.Machine.execWatchdogReport s lost
  | .watchdogExpiry => Sys2Proof.Machine.execWatchdogExpiry s
  | .berylRestartDone patchOk mv bad more => Sys2Proof.Machine.execBerylRestartDone patchOk mv s bad more
  | .islandFault k c => Sys2Proof.Machine.execIslandFault k c s
  | .islandRecovery k ok configOk => Sys2Proof.Machine.execIslandRecovery k ok configOk s
  | .stall k since => Sys2Proof.Machine.execStall k s since
  | .sensorSample l => Sys2Proof.Machine.execSensorSample l s
  | .thermalReading ra rb => Sys2Proof.Machine.execThermalReading ra rb s
  | .shutdownSignal lost => Sys2Proof.Machine.execShutdownSignal s lost
  | .shutdownDeadline => Sys2Proof.Machine.execShutdownDeadline s
  | .telBurnRequest mv more => Sys2Proof.Machine.execTelBurnRequest mv s more
  | .telBurnResult lost => Sys2Proof.Machine.execTelBurnResult s lost
  | .railDropTimeout => Sys2Proof.Machine.execRailDropTimeout s
  | .otpProgram w mv more => Sys2Proof.Machine.execOtpProgram w mv s more
  | .otpPulseDone fired firm mv soft more => Sys2Proof.Machine.execOtpPulseDone fired firm mv s soft more
  | .vppMeasure mv => Sys2Proof.Machine.execVppMeasure mv s
  | .otpRead w => Sys2Proof.Machine.execOtpRead w s
  | .fuseLoad refOk => Sys2Proof.Machine.execFuseLoad refOk s
  | .patchLoad w => Sys2Proof.Machine.execPatchLoad w s
  | .patchImageRead data mv bad more => Sys2Proof.Machine.execPatchImageRead data mv s bad more
  | .evrRecord w => Sys2Proof.Machine.execEvrRecord w s
  | .evrReplay w => Sys2Proof.Machine.execEvrReplay w s
  | .evrOff w => Sys2Proof.Machine.execEvrOff w s
  | .traceEntry => Sys2Proof.Machine.execTraceEntry s
  | .traceBlockClose ecc => Sys2Proof.Machine.execTraceBlockClose ecc s
  | .replayFeed r => Sys2Proof.Machine.execReplayFeed r s
  | .dramInitDone ok => Sys2Proof.Machine.execDramInitDone ok s
  | .romStart romOk => Sys2Proof.Machine.execRomStart romOk s
  | .mainInputLoss mv => Sys2Proof.Machine.execMainInputLoss s mv
  | .mainInputReturn mv => Sys2Proof.Machine.execMainInputReturn s mv
  | .keepPoweredRecord => Sys2Proof.Machine.execKeepPoweredRecord s
  | .flushReport => Sys2Proof.Machine.execFlushReport s
  | .flushDeadline => Sys2Proof.Machine.execFlushDeadline s
  | .eventRepeat k lost => Sys2Proof.Machine.execEventRepeat k lost s
  | .packRead ohms temp => Sys2Proof.Machine.execPackRead ohms temp s
  | .shortCheck => Sys2Proof.Machine.execShortCheck s
  | .prechargeTimeout => Sys2Proof.Machine.execPrechargeTimeout s
  | .chargeDone => Sys2Proof.Machine.execChargeDone s
  | .safetyTimerExpiry => Sys2Proof.Machine.execSafetyTimerExpiry s
  | .controlStep mv ma vbus => Sys2Proof.Machine.execControlStep mv ma s vbus
  | .showEnd => Sys2Proof.Machine.execShowEnd s
  | .powerUpDelay => Sys2Proof.Machine.execPowerUpDelay s
  | .keyPress => Sys2Proof.Machine.execKeyPress s
  | .keyRestartHold => Sys2Proof.Machine.execKeyRestartHold s
  | .keyShipHold => Sys2Proof.Machine.execKeyShipHold s
  | .shipModeEnter => Sys2Proof.Machine.execShipModeEnter s
  | .hupMagpwrWrite w => Sys2Proof.Machine.execHupMagpwrWrite w s
  | .clrTimer w => Sys2Proof.Machine.execClrTimer w s
  | .topazStart ohms temp => Sys2Proof.Machine.execTopazStart ohms temp s
  | .railPgRise k => Sys2Proof.Machine.execRailPgRise k s
  | .railEnableDelay => Sys2Proof.Machine.execRailEnableDelay s
  | .railTimeout => Sys2Proof.Machine.execRailTimeout s
  | .railPgFall k => Sys2Proof.Machine.execRailPgFall k s
  | .railDownStep => Sys2Proof.Machine.execRailDownStep s
  | .pwrGoodRise tcxo => Sys2Proof.Machine.execPwrGoodRise tcxo s
  | .pwrGoodFall => Sys2Proof.Machine.execPwrGoodFall s
  | .keyNRelease held => Sys2Proof.Machine.execKeyNRelease held s
  | .trigInInactive => Sys2Proof.Machine.execTrigInInactive s
  | .controllerStatusChange m csts => Sys2Proof.Machine.execControllerStatusChange m csts s
  | .pollReadTimeout => Sys2Proof.Machine.execPollReadTimeout s
  | .islandResetRelease => Sys2Proof.Machine.execIslandResetRelease s
  | .hostLinkError => Sys2Proof.Machine.execHostLinkError s
  | .vddAoLoss => Sys2Proof.Machine.execVddAoLoss s

end Sys2Proof.Machine
end

