-- ==== Sys2Proof/Machine/Tick.lean ====
section
/-! DEFINITION. What the block does while no command waits. -/

namespace Sys2Proof.Machine

/-- No command waits: the Time Base counts one tick while it runs (04 R80); nothing else changes (log entry 3). -/
def idle (s : State) : State := { s with blk := s.blk.modQuartz (fun q => if q.running then { q with tb := next64 q.tb } else q) }

end Sys2Proof.Machine
end

