-- ==== Sys2Proof/Safety.lean ====
section
/-! DEFINITION. The terms in which claims about the block are stated: completion of a command, what a command leaves
unchanged, and the invariant that every step keeps. -/

namespace Sys2Proof.Machine

/-- A command completes: `exec` answers a next state with the queue untouched, whose block meets `P`. -/
def Completes (c : Instr) (s : State) (P : Block → Prop) : Prop :=
  ∃ t, exec c s = .next t ∧ t.pending = s.pending ∧ P t.blk

/-- The parts of the block that frames name. -/
inductive Piece where
  | quartz | disc | tod | garnet | jade | spinel | opal | posts | onyx | agate | thm | otc | evr | beryl | topaz | dram | ch | trace
  | regs | out | fresh
  deriving DecidableEq, Repr

/-- `x` with what Opal's writers of completions, events and messages hold as in `y`. -/
abbrev Opal.withPosts (x y : Opal) : Opal :=
  { x with
    ctrl := y.ctrl, ghosts := y.ghosts, ctxs := y.ctxs, complCount := y.complCount, complCrc := y.complCrc, evSeq := y.evSeq
    events := y.events, evLost := y.evLost, vecs := y.vecs }

/-- The two blocks agree on a part. `posts` is what Opal's writers of completions, events and messages hold: rings and
Contexts, events, vectors; `opal` is the rest of Opal. `trace` is the channel to the Event Recorder; `ch` the others.
`beryl` is what Beryl holds beside THM, OTC and EVR. -/
def same : Piece → Block → Block → Prop
  | .quartz, a, b => b.quartz = a.quartz
  | .disc, a, b => b.disc = a.disc
  | .tod, a, b => b.tod = a.tod
  | .garnet, a, b => b.garnet = a.garnet
  | .jade, a, b => b.jade = a.jade
  | .spinel, a, b => b.spinel = a.spinel
  | .opal, a, b => b.opal.withPosts a.opal = a.opal
  | .posts, a, b =>
    b.opal.ctrl = a.opal.ctrl ∧ b.opal.ghosts = a.opal.ghosts ∧ b.opal.ctxs = a.opal.ctxs ∧
      b.opal.complCount = a.opal.complCount ∧ b.opal.complCrc = a.opal.complCrc ∧ b.opal.evSeq = a.opal.evSeq ∧
      b.opal.events = a.opal.events ∧ b.opal.evLost = a.opal.evLost ∧ b.opal.vecs = a.opal.vecs
  | .onyx, a, b => b.onyx = a.onyx
  | .agate, a, b => b.agate = a.agate
  | .thm, a, b => b.beryl.thm = a.beryl.thm
  | .otc, a, b => b.beryl.otc = a.beryl.otc
  | .evr, a, b => b.beryl.evr = a.beryl.evr
  | .beryl, a, b =>
    b.beryl.telFull = a.beryl.telFull ∧ b.beryl.patch = a.beryl.patch ∧
      b.beryl.patched = a.beryl.patched ∧ b.beryl.romBad = a.beryl.romBad
  | .topaz, a, b => b.topaz = a.topaz
  | .dram, a, b => b.dram = a.dram
  | .ch, a, b => { b.ch with evr := a.ch.evr } = a.ch
  | .trace, a, b => b.ch.evr = a.ch.evr
  | .regs, a, b => b.regs = a.regs
  | .out, a, b => b.out = a.out
  | .fresh, a, b => b.fresh = a.fresh

/-- Nothing outside these parts has changed. -/
structure onlyChanges (ps : List Piece) (a b : Block) : Prop where
  at_ : ∀ p, p ∉ ps → same p a b

/-- Bits of a register that a write may change (00 R7, 18 R462). -/
def RegRow.writable (r : RegRow) : Word := r.rw ||| r.rwl

/-- A stored register entry: its register exists, and its reserved bits are 0 (00 R6, 18 R462). -/
def regEntryOk (e : Nat × Word) : Bool :=
  match regRow e.1 with
  | some r => e.2 &&& ~~~r.writable == 0
  | none => false

/-- The invariant: DRAM, the registers, the fuses and their margins keep their canonical forms, and reserved bits of every
register read 0. -/
structure Block.Inv (b : Block) : Prop where
  dram : mapWf (fun _ => (0 : Byte)) b.dram = true
  regs : mapWf regReset b.regs = true
  reserved : b.regs.all regEntryOk = true
  fuses : mapWf (fun _ => (0 : Half)) b.beryl.otc.fuses = true
  weak : mapWf (fun _ => (0 : Half)) b.beryl.otc.weak = true
  soft : mapWf (fun _ => (0 : Half)) b.beryl.otc.soft = true

/-- No magazine port has serial work, a clip, a SLOW event or re-homed Frames to post. -/
def Block.portsIdle (b : Block) : Bool :=
  b.onyx.ports.toList.all (fun p => p.steps.isEmpty && p.clips.isEmpty && !p.slow && p.rehomed == 0)

/-- Onyx holds no Segment, knows no Take, runs no flush, no port has work, no roll-over is under way, and Opal has decided
nothing that Onyx has not taken. -/
def Block.onyxAtRest (b : Block) : Bool :=
  b.onyx.segs.isEmpty && b.onyx.takes.isEmpty && b.onyx.flush.isNone && b.portsIdle && b.onyx.rolls.isEmpty &&
    b.ch.opalOnyx.isEmpty

end Sys2Proof.Machine
end

