-- ==== Sys2Proof/Certificates/Slice0/Obligations.lean ====
section
/-! DEFINITION. The statements about the block, for the provers: each a proposition, general ones first, then Island by
Island. Each clause of a command's statement says under which conditions it completes, what the next state holds, and that
nothing outside the parts named changes. Statements rest on the model's choices only where their titles say so. -/

section
open Sys2Proof Sys2Proof.Machine

/-- A step takes the command at the front of the queue and runs exec on the queue's rest; on an empty queue it ticks the
Time Base (the model's choice, log entry 3). Rules: 95_what_each_step_holds.md. -/
def Obligations.StepRunsTheFrontCommand : Prop :=
  (∀ (c : Instr) (q : List Instr) (b : Block), step ⟨c :: q, b⟩ = exec c ⟨q, b⟩) ∧
  (∀ b : Block, step ⟨[], b⟩ =
      .next ⟨[], if b.quartz.running = true then { b with quartz := { b.quartz with tb := (b.quartz.tb + 1) % 2 ^ 64 } }
          else b⟩)

/-- After reset nothing waits, the block has no power, every register reads its reset value, and the invariant holds. Rules: R6, R439, R445, R462. -/
def Obligations.ResetHoldsTheStatedValues : Prop :=
  State.reset.pending = [] ∧
  State.reset.blk.Inv ∧
  (State.reset.blk.topaz.pwr.on = false ∧ State.reset.blk.topaz.pwrGood = false ∧
      (∀ k < 6, vget State.reset.blk.topaz.enables k true = false) ∧ (∀ i : Island, State.reset.blk.inPower i = false)) ∧
  (∀ off, State.reset.blk.reg off = (regReset off).toNat) ∧
  (State.reset.blk.reg 0x0010 = 0x1FC ∧ State.reset.blk.reg 0x0200 = 0x0BB80A15 ∧ State.reset.blk.reg 0x1200 = 0x10 ∧
      State.reset.blk.reg 0x1208 = 500 ∧ State.reset.blk.reg 0x5000 = 8 ∧ State.reset.blk.reg 0x9000 = 0x056E5F55)

/-- Every step keeps the invariant: DRAM, registers and fuses stay in canonical form, every stored register exists and
its reserved bits read 0. Rules: R6, R7, R462. -/
def Obligations.EveryStepKeepsTheInvariant : Prop :=
  (∀ s t : State, s.blk.Inv → step s = .next t → t.blk.Inv)

/-- No step, whatever its command, turns a fuse bit that reads 1 back to 0, and no command but the end of a pulse
changes a fuse. Rules: R434, R436, 16_otp_fuses.md. -/
def Obligations.NothingTurnsAFuseBackToZero : Prop :=
  (∀ s t : State, s.blk.Inv → step s = .next t →
      ∀ a, s.blk.beryl.otc.word a &&& t.blk.beryl.otc.word a = s.blk.beryl.otc.word a) ∧
  (∀ s t : State, (∀ fired firm mv soft more, s.pending.head? ≠ some (.otpPulseDone fired firm mv soft more)) → step s =
      .next t →
      t.blk.beryl.otc.fuses = s.blk.beryl.otc.fuses)

/-- Reading TB_LO returns the low half of the Time Base and latches the high half, which TB_HI returns. Rules: R82. -/
def Obligations.TimeBaseReadLatchesItsHighHalf : Prop :=
  (∀ (q : List Instr) (b : Block),
      b.bar0 = true →
      exec (.tbLoRead) ⟨q, b⟩ = .next ⟨q, { b with
        quartz := { b.quartz with tbHi := b.quartz.tb / 2 ^ 32 % 2 ^ 32 }
        out := { b.out with readData := BitVec.ofNat 32 b.quartz.tb } }⟩) ∧
  (∀ b : Block, b.bar0 = true → busRead b 0x1004 = some (BitVec.ofNat 32 b.quartz.tbHi)) ∧
  (∀ (q : List Instr) (b : Block),
      exec (.tbLoRead) ⟨q, b⟩ = .next ⟨q, tbLoRead b⟩ ∧
        onlyChanges [.quartz, .out] b (tbLoRead b))

/-- CAD_LAST_LO and GRN_FRAME_LO return their low half and latch the high half. Rules: R468, R470, 18_register_map.md. -/
def Obligations.LatchingReadsOfCadenceAndFrame : Prop :=
  (∀ (q : List Instr) (b : Block) (v : Nat),
      b.bar0 = true →
      vget b.quartz.evLast (b.field 0x1400 4 0) 0 = v →
      exec (.cadLastLoRead) ⟨q, b⟩ = .next ⟨q,
          { b with quartz := { b.quartz with cadLastHi := v / 2 ^ 32 % 2 ^ 32 }, out := { b.out with readData := BitVec.ofNat 32 v } }⟩) ∧
  (∀ (q : List Instr) (b : Block),
      b.bar0 = true →
      exec (.grnFrameLoRead) ⟨q, b⟩ = .next ⟨q,
          { b with garnet := { b.garnet with frameHi := b.garnet.view.frame / 2 ^ 32 % 2 ^ 32 }, out := { b.out with readData := BitVec.ofNat 32 b.garnet.view.frame } }⟩) ∧
  (∀ (q : List Instr) (b : Block),
      exec (.cadLastLoRead) ⟨q, b⟩ = .next ⟨q, cadLastLoRead b⟩ ∧
        onlyChanges [.quartz, .out] b (cadLastLoRead b)) ∧
  (∀ (q : List Instr) (b : Block),
      exec (.grnFrameLoRead) ⟨q, b⟩ = .next ⟨q, grnFrameLoRead b⟩ ∧
        onlyChanges [.garnet, .out] b (grnFrameLoRead b))

/-- STROBE_ON starts a pending pulse for its width, STROBE_OFF ends it and applies SRC and POL; a write of them between
pulses acts at once. Rules: R108, R109, R469. -/
def Obligations.StrobePulsesRunTheirWidth : Prop :=
  (∀ (q : List Instr) (b : Block) (k t w : Nat) (x : Strobe),
      b.alive .quartz = true →
      k < 4 →
      b.strobe k = x →
      x.pulse = .pending t w →
      exec (.strobeOn k) ⟨q, b⟩ = .next ⟨q, (b.advance t).modQuartz (fun y => { y with
        strobes := vset y.strobes k { x with pulse := .active (t + w) } })⟩) ∧
  (∀ (q : List Instr) (b : Block) (k t : Nat) (x : Strobe),
      b.alive .quartz = true →
      k < 4 →
      b.strobe k = x →
      x.pulse = .active t →
      exec (.strobeOff k) ⟨q, b⟩ = .next ⟨q, (b.advance t).modQuartz (fun y => { y with
        strobes := vset y.strobes k { x with
          pulse := .idle, src := b.field (0x1300 + 16 * k) 4 0, pol := b.field (0x1300 + 16 * k) 5 5 == 1 } })⟩) ∧
  (∀ (q : List Instr) (b : Block) (k : Nat) (w : Word) (x : Strobe),
      b.bar0 = true →
      k < 4 →
      b.strobe k = x →
      x.pulse = .idle →
      exec (.strbCfgWrite k w) ⟨q, b⟩ = .next ⟨q, (storeReg (0x1300 + 16 * k) w b).modQuartz (fun y => { y with
        strobes := vset y.strobes k { x with
          pulse := .idle, src := (storeReg (0x1300 + 16 * k) w b).field (0x1300 + 16 * k) 4 0
          pol := (storeReg (0x1300 + 16 * k) w b).field (0x1300 + 16 * k) 5 5 == 1 } })⟩) ∧
  (∀ (q : List Instr) (b : Block) (k : Nat) (w : Word) (x : Strobe),
      b.bar0 = true →
      k < 4 →
      b.strobe k = x →
      x.pulse ≠ .idle →
      exec (.strbCfgWrite k w) ⟨q, b⟩ = .next ⟨q, storeReg (0x1300 + 16 * k) w b⟩) ∧
  (∀ (q : List Instr) (b : Block) (k : Nat),
      b.alive .quartz = true →
      exec (.strobeOn k) ⟨q, b⟩ = .next ⟨q, strobeOn k b⟩ ∧
        onlyChanges [.quartz] b (strobeOn k b)) ∧
  (∀ (q : List Instr) (b : Block) (k : Nat),
      b.alive .quartz = true →
      exec (.strobeOff k) ⟨q, b⟩ = .next ⟨q, strobeOff k b⟩ ∧
        onlyChanges [.quartz] b (strobeOff k b)) ∧
  (∀ (q : List Instr) (b : Block) (n : Nat) (w : Word),
      exec (.strbCfgWrite n w) ⟨q, b⟩ = .next ⟨q, strbCfgWrite n w b⟩ ∧
        onlyChanges [.quartz, .regs] b (strbCfgWrite n w b))

/-- CAP_APPLY stages the copied fields when no row of the check fails, and otherwise records the row and stages nothing. Rules: R88, R463, 04_frame_timing_triggers.md. -/
def Obligations.CaptureCadenceApplyStagesOrRefuses : Prop :=
  (∀ (q : List Instr) (b : Block),
      b.bar0 = true →
      b.committed .quartz = true →
      applyResult b.quartz b.takeAccepted b.quartz.tb (capFields b).1 (capFields b).2 = 0 →
      exec (.capApply) ⟨q, b⟩ = .next ⟨q, b.modQuartz (fun y => { y with
        capResult := 0, capState := 2, staged := some { cad := (capFields b).1, align := (capFields b).2, arrival := b.quartz.tb, own := false } })⟩) ∧
  (∀ (q : List Instr) (b : Block) (r : Nat),
      b.bar0 = true →
      b.committed .quartz = true →
      applyResult b.quartz b.takeAccepted b.quartz.tb (capFields b).1 (capFields b).2 = r →
      r ≠ 0 →
      exec (.capApply) ⟨q, b⟩ = .next ⟨q, b.modQuartz (fun y => { y with capResult := r })⟩) ∧
  (∀ (q : List Instr) (b : Block),
      b.committed .quartz = false →
      exec (.capApply) ⟨q, b⟩ = .next ⟨q, b⟩) ∧
  (∀ (y : Quartz) (t : Nat) (c : Cadence) (a : Nat), applyResult y true t c a = 1 ∧
      (y.capState = 2 → applyResult y false t c a = 2) ∧
      (y.capState ≠ 2 → c.reload + 1 < 1066666 → applyResult y false t c a = 3)) ∧
  (∀ (q : List Instr) (b : Block),
      exec (.capApply) ⟨q, b⟩ = .next ⟨q, capApply b⟩ ∧
        onlyChanges [.quartz] b (capApply b))

/-- CAD0_EVENT and CAD1_EVENT fall at the ticks of the cadence and are sent to Garnet in order with their period length
and grid. Rules: R83, R84, R86, R87, 04_frame_timing_triggers.md. -/
def Obligations.CaptureCadenceEventsGoToGarnet : Prop :=
  (∀ (q : List Instr) (b : Block) (c : Cadence),
      b.alive .quartz = true →
      b.quartz.bridge = none →
      b.quartz.cap = some c →
      b.quartz.cadJ < c.grid →
      Completes (.cad0Event) ⟨q, b⟩ (fun t =>
        t.quartz.cadJ = b.quartz.cadJ + 1 ∧
        t.ch.quartzGarnet = b.ch.quartzGarnet ++
          [.cad0 (cad0Tick b.quartz.cad1At b.quartz.capL c.grid b.quartz.cadJ) (b.quartz.cadJ + 1 == c.grid) (closingNow b.quartz) (t0Ahead b.quartz)] ∧
        (b.quartz.running = true → cad0Tick b.quartz.cad1At b.quartz.capL c.grid b.quartz.cadJ ≤ t.quartz.tb) ∧
        onlyChanges [.quartz, .posts, .evr, .ch, .trace, .out] b t)) ∧
  (∀ (q : List Instr) (b : Block) (r : Bridge),
      b.alive .quartz = true →
      b.quartz.bridge = some r →
      r.next < r.count →
      Completes (.cad0Event) ⟨q, b⟩ (fun t =>
        t.quartz.bridge = some { r with next := r.next + 1 } ∧
        t.ch.quartzGarnet = b.ch.quartzGarnet ++ [.cad0 (r.t0 + r.next * r.step) (r.next + 1 == r.count) false 0] ∧
        (b.quartz.running = true → r.t0 + r.next * r.step ≤ t.quartz.tb) ∧
        onlyChanges [.quartz, .posts, .evr, .ch, .trace, .out] b t)) ∧
  (∀ (q : List Instr) (b : Block) (s : StagedCadence) (n : Nat),
      b.alive .quartz = true →
      nextCad1 b.quartz = .bridge n →
      b.quartz.staged = some s →
      Completes (.cad1Event) ⟨q, b⟩ (fun t =>
        (∃ m, 1 ≤ m ∧ t.quartz.bridge.map (fun r => (r.t0, r.align, r.count, r.next)) = some (n, s.align, m, 1) ∧
          ∃ (r : TimeRecord) (closing : Bool) (t0In : Nat), r.cad1Stamp = n ∧ t.ch.quartzOpal = b.ch.quartzOpal ++ [r] ∧
            t.ch.quartzGarnet = b.ch.quartzGarnet ++ [.cad1 n m (s.align - n) b.quartz.capSeq r, .cad0 n (m == 1) closing t0In]) ∧
        onlyChanges [.quartz, .disc, .tod, .posts, .evr, .ch, .trace, .out] b t)) ∧
  (∀ (q : List Instr) (b : Block) (s : StagedCadence) (n : Nat),
      b.alive .quartz = true →
      nextCad1 b.quartz = .first n →
      b.quartz.staged = some s →
      b.disc.phaseAdopted = false →
      Completes (.cad1Event) ⟨q, b⟩ (fun t =>
        t.quartz.cap = some s.cad ∧
        t.quartz.capState = 1 ∧
        t.quartz.capSeq = (b.quartz.capSeq + 1) % 65536 ∧
        t.quartz.bridge = none ∧
        t.quartz.cad1At = n ∧
        t.quartz.cadJ = 1 ∧
        t.quartz.capL = (nextPeriod 0 s.cad.reload s.cad.dnum s.cad.dden).2 ∧
        onlyChanges [.quartz, .disc, .tod, .posts, .evr, .ch, .trace, .out] b t)) ∧
  (∀ (q : List Instr) (b : Block) (c : Cadence) (n : Nat),
      b.alive .quartz = true →
      nextCad1 b.quartz = .old n →
      b.quartz.cap = some c →
      Completes (.cad1Event) ⟨q, b⟩ (fun t =>
        t.quartz.cad1At = n ∧
        t.quartz.cadJ = 1 ∧
        t.quartz.capL = (nextPeriod b.quartz.capAcc c.reload c.dnum c.dden).2 ∧
        t.quartz.capAcc = (nextPeriod b.quartz.capAcc c.reload c.dnum c.dden).1 ∧
        (∃ (r : TimeRecord) (closing : Bool) (t0In : Nat), r.cad1Stamp = n ∧ t.ch.quartzOpal = b.ch.quartzOpal ++ [r] ∧
          t.ch.quartzGarnet = b.ch.quartzGarnet ++
            [.cad1 n c.grid (nextPeriod b.quartz.capAcc c.reload c.dnum c.dden).2 b.quartz.capSeq r, .cad0 n (c.grid == 1) closing t0In]) ∧
        onlyChanges [.quartz, .disc, .tod, .posts, .evr, .ch, .trace, .out] b t)) ∧
  (∀ (q : List Instr) (b : Block),
      b.alive .quartz = true →
      exec (.cad0Event) ⟨q, b⟩ = .next ⟨q, cad0Event b⟩ ∧
        onlyChanges [.quartz, .posts, .evr, .ch, .trace, .out] b (cad0Event b)) ∧
  (∀ (q : List Instr) (b : Block),
      b.alive .quartz = true →
      exec (.cad1Event) ⟨q, b⟩ = .next ⟨q, cad1Event b⟩ ∧
        onlyChanges [.quartz, .disc, .tod, .posts, .evr, .ch, .trace, .out] b (cad1Event b))

/-- CADENCE sets a channel OFF at once, lets a FREE or LOCK setting wait, refuses fields out of range;
CADENCE_CHANNEL_EVENT emits the due event. Rules: R93, R94, R468. -/
def Obligations.CadenceChannelsTakeTheirSettings : Prop :=
  (∀ (q : List Instr) (b : Block) (i off : Nat) (d : List Byte),
      b.alive .quartz = true →
      b.dispatched ctrlRing i 0x04 = some d →
      cadenceFault d (b.quartz.cap.map (·.reload)) = some off →
      exec (.cadence i) ⟨q, b⟩ = .next ⟨q, finishCtrl i stMalformed frameNone 0 off b⟩) ∧
  (∀ (q : List Instr) (b : Block) (i : Nat) (d : List Byte),
      b.alive .quartz = true →
      b.dispatched ctrlRing i 0x04 = some d →
      cadenceFault d (b.quartz.cap.map (·.reload)) = none →
      leAt d 17 1 = 0 →
      exec (.cadence i) ⟨q, b⟩ = .next ⟨q, finishCtrl i stOk frameNone 0 0 (b.setChan (leAt d 16 1) { b.chan (leAt d 16 1) with
        setting := ⟨.off, leAt d 20 4, bitsOf (leAt d 24 4) 23 0, bitsOf (leAt d 28 4) 23 0, leAt d 32 4⟩, acc := 0, due := none, late := none })⟩) ∧
  (∀ (q : List Instr) (b : Block) (i : Nat) (d : List Byte),
      b.alive .quartz = true →
      b.dispatched ctrlRing i 0x04 = some d →
      cadenceFault d (b.quartz.cap.map (·.reload)) = none →
      leAt d 17 1 = 1 →
      leAt d 40 8 = 0 →
      exec (.cadence i) ⟨q, b⟩ = .next ⟨q, b.setChan (leAt d 16 1) { b.chan (leAt d 16 1) with waits := (b.chan (leAt d 16 1)).waits ++
        [⟨⟨.free, leAt d 20 4, bitsOf (leAt d 24 4) 23 0, bitsOf (leAt d 28 4) 23 0, leAt d 32 4⟩, b.quartz.tb + 1024, i⟩] }⟩) ∧
  (∀ (q : List Instr) (b : Block) (i : Nat) (d : List Byte),
      b.alive .quartz = true →
      b.dispatched ctrlRing i 0x04 = some d →
      cadenceFault d (b.quartz.cap.map (·.reload)) = none →
      leAt d 17 1 = 1 →
      leAt d 40 8 ≠ 0 →
      leAt d 40 8 < b.quartz.tb + 1024 →
      exec (.cadence i) ⟨q, b⟩ = .next ⟨q, finishCtrl i stTimePast frameNone 0 0 b⟩) ∧
  (∀ (q : List Instr) (b : Block) (i : Nat) (d : List Byte),
      b.alive .quartz = true →
      b.dispatched ctrlRing i 0x04 = some d →
      cadenceFault d (b.quartz.cap.map (·.reload)) = none →
      leAt d 17 1 = 2 →
      exec (.cadence i) ⟨q, b⟩ = .next ⟨q, b.setChan (leAt d 16 1) { b.chan (leAt d 16 1) with waits := (b.chan (leAt d 16 1)).waits ++
        [⟨⟨.lock1, leAt d 20 4, bitsOf (leAt d 24 4) 23 0, bitsOf (leAt d 28 4) 23 0, leAt d 32 4⟩, 0, i⟩] }⟩) ∧
  (∀ (q : List Instr) (b : Block) (k t : Nat) (c : Chan),
      b.alive .quartz = true →
      2 ≤ k →
      k < 32 →
      b.chan k = c →
      c.setting.mode = .free →
      c.waits = [] →
      c.late = none →
      c.due = some t →
      exec (.cadenceChannelEvent k) ⟨q, b⟩ = .next ⟨q, channelEmit k t ((b.advance t).setChan k { c with
        acc := (nextPeriod c.acc c.setting.reload c.setting.dnum c.setting.dden).1
        due := some (t + (nextPeriod c.acc c.setting.reload c.setting.dnum c.setting.dden).2) })⟩) ∧
  (∀ (q : List Instr) (b : Block) (desc : Nat),
      b.alive .quartz = true →
      exec (.cadence desc) ⟨q, b⟩ = .next ⟨q, cadence desc b⟩ ∧
        onlyChanges [.quartz, .posts, .evr, .trace, .out] b (cadence desc b)) ∧
  (∀ (q : List Instr) (b : Block) (ch : Nat),
      b.alive .quartz = true →
      exec (.cadenceChannelEvent ch) ⟨q, b⟩ = .next ⟨q, cadenceChannelEvent ch b⟩ ∧
        onlyChanges [.quartz, .posts, .evr, .ch, .trace, .out] b (cadenceChannelEvent ch b))

/-- REF_IN_EDGE counts an edge, COMPARE_EVENT takes the edges of one compare event, REF_LOSS declares loss and leaves
for HOLDOVER. Rules: R112, R114, R118, R119, R121. -/
def Obligations.ReferenceEdgesAndLoss : Prop :=
  (∀ (q : List Instr) (b : Block) (n held : Nat) (level : Bool),
      b.alive .quartz = true →
      b.beryl.evr.mode ≠ 2 →
      b.disc.cfg.kind ≠ 0 →
      b.disc.frozen = false →
      level ≠ b.disc.cfg.edge →
      refFilter b.disc.cfg ≤ held →
      exec (.refInEdge n level held) ⟨q, b⟩ = .next ⟨q,
          { b.advance (n + refFilter b.disc.cfg) with disc := { b.disc with edges := b.disc.edges + 1, lastEdge := n, lost := false } }⟩) ∧
  (∀ (q : List Instr) (b : Block) (n held : Nat) (level : Bool),
      b.alive .quartz = true →
      b.beryl.evr.mode ≠ 2 →
      level = b.disc.cfg.edge ∨ held < refFilter b.disc.cfg →
      exec (.refInEdge n level held) ⟨q, b⟩ = .next ⟨q, b⟩) ∧
  (∀ (q : List Instr) (b : Block),
      b.alive .quartz = true →
      b.disc.cfg.kind ≠ 0 →
      b.disc.frozen = false →
      edgesPerCompare b.disc.cfg.kind ≤ b.disc.edges →
      exec (.compareEvent) ⟨q, b⟩ = .next ⟨q, compareAt b.disc.lastEdge ((b.advance b.disc.lastEdge).modDisc (fun d =>
          { d with edges := d.edges - edgesPerCompare b.disc.cfg.kind }))⟩) ∧
  (∀ (q : List Instr) (b : Block),
      b.alive .quartz = true →
      b.disc.cfg.kind ≠ 0 →
      b.disc.lost = false →
      b.disc.state = .locked →
      b.disc.pending = none →
      Completes (.refLoss) ⟨q, b⟩ (fun t =>
        t.disc = { b.disc with
          loss := min 255 (b.disc.loss + 1), refEvent := some ((b.disc.refEvent.map (·.1)).getD t.quartz.tb, t.quartz.tb), refQual := false
          lost := true, edges := 0, qualBad := true, frozen := true, frozenAt := t.quartz.tb
          pending := some ⟨.holdover, .loss, t.quartz.tb⟩ } ∧
        t.quartz.tb = (b.advance (b.disc.lastEdge + refLossLimit b)).quartz.tb ∧
        onlyChanges [.quartz, .disc] b t)) ∧
  (∀ (q : List Instr) (b : Block) (stamp : Nat) (level : Bool := true) (held : Nat := 65536),
      b.beryl.evr.mode ≠ 2 →
      b.alive .quartz = true →
      exec (.refInEdge stamp level held) ⟨q, b⟩ = .next ⟨q, refInEdge stamp level held b⟩ ∧
        onlyChanges [.quartz, .disc] b (refInEdge stamp level held b)) ∧
  (∀ (q : List Instr) (b : Block),
      b.alive .quartz = true →
      exec (.compareEvent) ⟨q, b⟩ = .next ⟨q, compareEvent b⟩ ∧
        onlyChanges [.quartz, .disc, .evr, .trace] b (compareEvent b)) ∧
  (∀ (q : List Instr) (b : Block),
      b.alive .quartz = true →
      exec (.refLoss) ⟨q, b⟩ = .next ⟨q, refLoss b⟩ ∧
        onlyChanges [.quartz, .disc, .posts, .out] b (refLoss b))

/-- QUALIFICATION_END, ALIGNMENT_STAGE, ALIGNMENT_CHECK_END, ACQUIRE_TIMEOUT and RELOCK move the discipline through
acquisition and relocking. Rules: R118, R123, R124, R126. -/
def Obligations.AcquisitionRunsItsSteps : Prop :=
  (∀ (q : List Instr) (b : Block),
      b.alive .quartz = true →
      b.disc.cfg.kind ≠ 0 →
      b.disc.step = .qualifying →
      b.disc.state = .acquire →
      b.disc.qualBad = false →
      b.disc.measure.periods ≠ 0 →
      (windowOffset b b.disc.measure).natAbs ≤ 50000000 →
      Completes (.qualificationEnd) ⟨q, b⟩ (fun t =>
        t.disc.refQual = true ∧
        t.disc.step = .pulling ∧
        t.disc.corr = windowOffset b b.disc.measure ∧
        t.disc.acc = -5 * windowOffset b b.disc.measure ∧
        t.disc.state = .acquire ∧
        t.disc.stepAt = t.quartz.tb ∧
        onlyChanges [.quartz, .disc] b t)) ∧
  (∀ (q : List Instr) (b : Block),
      b.alive .quartz = true →
      b.disc.cfg.kind ≠ 0 →
      b.disc.step = .qualifying →
      b.disc.state = .acquire →
      b.disc.qualBad = true →
      Completes (.qualificationEnd) ⟨q, b⟩ (fun t =>
        t.disc.refQual = b.disc.refQual ∧
        t.disc.step = .qualifying ∧
        t.disc.stepAt = t.quartz.tb ∧
        t.disc.qualBad = b.disc.lost ∧
        onlyChanges [.quartz, .disc] b t)) ∧
  (∀ (q : List Instr) (b : Block) (c : Cadence),
      b.alive .quartz = true →
      b.disc.state = .acquire →
      b.disc.step = .pulling →
      b.disc.cfg.kind = 4 →
      b.quartz.cap = some c →
      b.quartz.staged = none →
      Completes (.alignmentStage) ⟨q, b⟩ (fun t =>
        t.disc = { b.disc with step := .aligning, alignOffset := (fsyncOffset b : Int) } ∧
        t.quartz.capState = 2 ∧
        (∃ a, t.quartz.staged = some ⟨c, a, t.quartz.tb, true⟩) ∧
        onlyChanges [.quartz, .disc] b t)) ∧
  (∀ (q : List Instr) (b : Block),
      b.alive .quartz = true →
      b.disc.state = .acquire →
      b.disc.step = .checking →
      b.disc.checkBad = false →
      b.disc.pending = none →
      Completes (.alignmentCheckEnd) ⟨q, b⟩ (fun t =>
        t.disc = { b.disc with pending := some ⟨.locked, .loss, t.quartz.tb⟩ } ∧
        onlyChanges [.quartz, .disc] b t)) ∧
  (∀ (q : List Instr) (b : Block),
      b.alive .quartz = true →
      b.disc.state = .acquire →
      b.disc.step = .checking →
      b.disc.checkBad = true →
      exec (.alignmentCheckEnd) ⟨q, b⟩ = .next ⟨q, discQualify (b.advance (b.disc.stepAt + 2048000000))⟩) ∧
  (∀ (q : List Instr) (b : Block),
      b.alive .quartz = true →
      b.disc.state = .acquire →
      b.disc.step ≠ .qualifying →
      b.disc.pending = none →
      exec (.acquireTimeout) ⟨q, b⟩ = .next ⟨q, postEvent evRefBad frameNone (evData [b.disc.cfg.kind]) (discQualify
          (b.advance (b.disc.qualAt + 20480000000)))⟩) ∧
  (∀ (q : List Instr) (b : Block) (i : Nat) (d : List Byte),
      b.alive .quartz = true →
      b.dispatched ctrlRing i 0x0F = some d →
      leAt d 16 2 ≤ 100 →
      leAt d 16 2 ≠ 0 →
      b.disc.state = .holdover →
      b.disc.refQual = true →
      b.disc.pending = none →
      exec (.relock i) ⟨q, b⟩ = .next ⟨q, finishCtrl i stOk frameNone 0 0 { b with disc := { b.disc with
        slew := (10000 * leAt d 16 2 : Nat), pending := some ⟨.relocking, .loss, b.quartz.tb⟩ } }⟩) ∧
  (∀ (q : List Instr) (b : Block) (i : Nat) (d : List Byte),
      b.alive .quartz = true →
      b.dispatched ctrlRing i 0x0F = some d →
      leAt d 16 2 ≤ 100 →
      b.disc.state ≠ .holdover →
      exec (.relock i) ⟨q, b⟩ = .next ⟨q, finishCtrl i stNotHoldover frameNone 0 0 b⟩) ∧
  (∀ (q : List Instr) (b : Block),
      b.alive .quartz = true →
      exec (.qualificationEnd) ⟨q, b⟩ = .next ⟨q, qualificationEnd b⟩ ∧
        onlyChanges [.quartz, .disc] b (qualificationEnd b)) ∧
  (∀ (q : List Instr) (b : Block),
      b.alive .quartz = true →
      exec (.alignmentStage) ⟨q, b⟩ = .next ⟨q, alignmentStage b⟩ ∧
        onlyChanges [.quartz, .disc] b (alignmentStage b)) ∧
  (∀ (q : List Instr) (b : Block),
      b.alive .quartz = true →
      exec (.alignmentCheckEnd) ⟨q, b⟩ = .next ⟨q, alignmentCheckEnd b⟩ ∧
        onlyChanges [.quartz, .disc] b (alignmentCheckEnd b)) ∧
  (∀ (q : List Instr) (b : Block),
      b.alive .quartz = true →
      exec (.acquireTimeout) ⟨q, b⟩ = .next ⟨q, acquireTimeout b⟩ ∧
        onlyChanges [.quartz, .disc, .posts, .out] b (acquireTimeout b)) ∧
  (∀ (q : List Instr) (b : Block) (desc : Nat),
      b.alive .quartz = true →
      exec (.relock desc) ⟨q, b⟩ = .next ⟨q, relock desc b⟩ ∧
        onlyChanges [.disc, .posts, .evr, .trace, .out] b (relock desc b))

/-- PPS edges are numbered from 0 and the number counts up; an early edge is rejected and counted; an accepted edge is
kept with its stamp and posted. Rules: R128. -/
def Obligations.PpsEdgesAreNumberedAndRejected : Prop :=
  (∀ (q : List Instr) (b : Block) (n held : Nat) (level : Bool),
      b.alive .quartz = true →
      b.beryl.evr.mode ≠ 2 →
      edgeCounts (b.tod.ppsCfg.getLsbD 0) level (bitsOf b.tod.ppsCfg.toNat 31 16) held = true →
      (∀ e ∈ b.tod.pps.head?, e.2 + 1023000000 ≤ n) →
      exec (.ppsInEdge n level held) ⟨q, b⟩ = .next ⟨q, postEventAt n evPps frameNone (leBytes 4 b.tod.ppsSeq)
        (((b.advance (n + bitsOf b.tod.ppsCfg.toNat 31 16)).logEvr .quartz 0x02 (leBytes 4 b.tod.ppsSeq ++ leBytes 1 1) [] (some n)).modTod (fun y => { y with
          ppsSeq := (b.tod.ppsSeq + 1) % 2 ^ 32, pps := ((b.tod.ppsSeq, n) :: y.pps).take 8 }))⟩) ∧
  (∀ (q : List Instr) (b : Block) (n held m k : Nat) (level : Bool) (l : List (Nat × Nat)),
      b.alive .quartz = true →
      b.beryl.evr.mode ≠ 2 →
      edgeCounts (b.tod.ppsCfg.getLsbD 0) level (bitsOf b.tod.ppsCfg.toNat 31 16) held = true →
      b.tod.pps = (k, m) :: l →
      n < m + 1023000000 →
      Completes (.ppsInEdge n level held) ⟨q, b⟩ (fun t =>
        t.disc = { b.disc with ppsReject := min 255 (b.disc.ppsReject + 1) } ∧
        t.tod = { b.tod with ppsSeq := t.tod.ppsSeq } ∧
        t.opal = b.opal ∧
        onlyChanges [.quartz, .disc, .tod, .evr, .trace] b t)) ∧
  (∀ (q : List Instr) (b : Block) (n held : Nat) (level : Bool),
      b.alive .quartz = true →
      b.beryl.evr.mode ≠ 2 →
      edgeCounts (b.tod.ppsCfg.getLsbD 0) level (bitsOf b.tod.ppsCfg.toNat 31 16) held = false →
      exec (.ppsInEdge n level held) ⟨q, b⟩ = .next ⟨q, b⟩) ∧
  (State.reset.blk.tod.ppsSeq = 0) ∧
  (∀ (q : List Instr) (b : Block) (stamp : Nat) (level : Bool := true) (held : Nat := 65536),
      b.beryl.evr.mode ≠ 2 →
      b.alive .quartz = true →
      exec (.ppsInEdge stamp level held) ⟨q, b⟩ = .next ⟨q, ppsInEdge stamp level held b⟩ ∧
        onlyChanges [.quartz, .disc, .tod, .posts, .evr, .trace, .out] b (ppsInEdge stamp level held b))

/-- TIME_OF_DAY stages the pairing of a known PPS edge, opens an Epoch on a step, and refuses an unknown edge. Rules: R129, R132, 05_reference_discipline.md. -/
def Obligations.TimeOfDayStagesItsPairing : Prop :=
  (∀ (q : List Instr) (b : Block) (i p m : Nat) (d : List Byte),
      b.alive .quartz = true →
      b.beryl.evr.mode ≠ 2 →
      b.dispatched ctrlRing i 0x0D = some d →
      bitsOf (leAt d 20 4) 29 0 ≤ 999999999 →
      leAt d 16 4 ≠ 0xFFFFFFFF →
      b.tod.pps.find? (fun e => e.1 == leAt d 16 4) = some (m, p) →
      b.quartz.tb ≤ p + 4096000000 →
      b.tod.epoch = 0 →
      b.tod.pairing = none →
      b.tod.staged = none →
      exec (.timeOfDay i) ⟨q, b⟩ = .next ⟨q, finishCtrl i stOk frameNone 1 0 ((b.modTod (fun y => { y with
        gmId := leAt d 40 8
        staged := some (⟨p, ppsTicks b.tod m p, bitsOf (leAt d 24 8) 47 0, bitsOf (leAt d 20 4) 29 0, signed 16 (leAt d 32 2),
          bitOf (leAt d 34 1) 0, bitOf (leAt d 34 1) 1, bitOf (leAt d 34 1) 2, false⟩, 1) })).logEvr .quartz 0x07
        (leBytes 4 (leAt d 16 4) ++ leBytes 1 stOk ++ leBytes 2 1))⟩) ∧
  (∀ (q : List Instr) (b : Block) (i : Nat) (d : List Byte),
      b.alive .quartz = true →
      b.beryl.evr.mode ≠ 2 →
      b.dispatched ctrlRing i 0x0D = some d →
      bitsOf (leAt d 20 4) 29 0 ≤ 999999999 →
      leAt d 16 4 ≠ 0xFFFFFFFF →
      b.tod.pps.find? (fun e => e.1 == leAt d 16 4) = none →
      exec (.timeOfDay i) ⟨q, b⟩ = .next ⟨q, finishCtrl i stPpsUnknown frameNone 0 0 b⟩) ∧
  (∀ (q : List Instr) (b : Block) (desc : Nat),
      b.alive .quartz = true →
      b.beryl.evr.mode ≠ 2 →
      exec (.timeOfDay desc) ⟨q, b⟩ = .next ⟨q, timeOfDay desc b⟩ ∧
        onlyChanges [.tod, .posts, .evr, .trace, .out] b (timeOfDay desc b))

/-- FRAME_PROGRAM refuses a faulty field, a stale GEN or a program that does not fit the cadence, and otherwise stages
the program. Rules: R65, R67, R68, R18. -/
def Obligations.FrameProgramsAreCheckedAtArrival : Prop :=
  (∀ (q : List Instr) (b : Block) (i off : Nat) (d : List Byte),
      b.alive .garnet = true →
      b.dispatched ctrlRing i 0x01 = some d →
      programFault (parseProgram d) = some off →
      exec (.frameProgram i) ⟨q, b⟩ = .next ⟨q, finishCtrl i stMalformed frameNone 0 off b⟩) ∧
  (∀ (q : List Instr) (b : Block) (i : Nat) (d : List Byte),
      b.alive .garnet = true →
      b.dispatched ctrlRing i 0x01 = some d →
      programFault (parseProgram d) = none →
      (parseProgram d).gen ≤ b.garnet.maxGen →
      exec (.frameProgram i) ⟨q, b⟩ = .next ⟨q, finishCtrl i stGenStale frameNone 0 0 b⟩) ∧
  (∀ (q : List Instr) (b : Block) (i st : Nat) (d : List Byte),
      b.alive .garnet = true →
      b.dispatched ctrlRing i 0x01 = some d →
      programFault (parseProgram d) = none →
      b.garnet.maxGen < (parseProgram d).gen →
      programFit b.quartz.cap (parseProgram d) = some st →
      exec (.frameProgram i) ⟨q, b⟩ = .next ⟨q, finishCtrl i st frameNone 0 0 b⟩) ∧
  (∀ (q : List Instr) (b : Block) (i : Nat) (d : List Byte),
      b.alive .garnet = true →
      b.dispatched ctrlRing i 0x01 = some d →
      programFault (parseProgram d) = none →
      b.garnet.maxGen < (parseProgram d).gen →
      programFit b.quartz.cap (parseProgram d) = none →
      exec (.frameProgram i) ⟨q, b⟩ = .next ⟨q, b.modGarnet (fun g => { g with
        maxGen := (parseProgram d).gen, staged := g.staged ++ [{ prog := parseProgram d, desc := i }] })⟩) ∧
  (∀ (q : List Instr) (b : Block) (desc : Nat),
      b.alive .garnet = true →
      exec (.frameProgram desc) ⟨q, b⟩ = .next ⟨q, frameProgram desc b⟩ ∧
        onlyChanges [.garnet, .posts, .evr, .trace, .out] b (frameProgram desc b))

/-- TAKE_START waits for its boundary, is held while a cadence is staged, or is refused; TAKE_STOP waits on an open
Take, cancels a waiting START, or finds no Take. Rules: R92, R96, R97, 04_frame_timing_triggers.md. -/
def Obligations.TakesStartAndStop : Prop :=
  (∀ (q : List Instr) (b : Block) (i : Nat) (d : List Byte),
      b.alive .garnet = true →
      b.dispatched ctrlRing i 0x02 = some d →
      leAt d 16 1 = 0 →
      leAt d 20 4 ≠ 0xFFFFFFFF →
      b.opal.held = none →
      b.garnet.take = none →
      b.garnet.start = none →
      b.quartz.capState ≠ 2 →
      b.garnet.stopped = false →
      b.garnet.shutdown = false →
      exec (.takeStart i) ⟨q, b⟩ = .next ⟨q, { b with
        garnet := { b.garnet with start := some { takeId := leAt d 32 4, count := leAt d 20 4, atTb := leAt d 24 8, desc := i, seen := false } } }⟩) ∧
  (∀ (q : List Instr) (b : Block) (i : Nat) (d : List Byte),
      b.alive .garnet = true →
      b.dispatched ctrlRing i 0x02 = some d →
      leAt d 16 1 = 0 →
      leAt d 20 4 ≠ 0xFFFFFFFF →
      b.opal.held = none →
      b.garnet.take = none →
      b.garnet.start = none →
      b.quartz.capState = 2 →
      exec (.takeStart i) ⟨q, b⟩ = .next ⟨q, { b with opal := { b.opal with held := some i } }⟩) ∧
  (∀ (q : List Instr) (b : Block) (i : Nat) (d : List Byte),
      b.alive .garnet = true →
      b.dispatched ctrlRing i 0x02 = some d →
      leAt d 16 1 = 0 →
      leAt d 20 4 ≠ 0xFFFFFFFF →
      b.opal.held = none →
      b.garnet.take.isSome = true →
      exec (.takeStart i) ⟨q, b⟩ = .next ⟨q, finishCtrl i stTakeOpen frameNone 0 0 b⟩) ∧
  (∀ (q : List Instr) (b : Block) (i : Nat) (d : List Byte),
      b.alive .garnet = true →
      b.dispatched ctrlRing i 0x02 = some d →
      leAt d 16 1 = 1 →
      b.opal.held = none →
      b.garnet.start = none →
      b.garnet.take.isSome = true →
      b.garnet.stops = [] →
      b.garnet.shutdown = false →
      exec (.takeStop i) ⟨q, b⟩ = .next ⟨q,
          { b with garnet := { b.garnet with stops := [{ atTb := leAt d 24 8, desc := i, seen := false }] } }⟩) ∧
  (∀ (q : List Instr) (b : Block) (i : Nat) (d : List Byte) (w : WaitingStart),
      b.alive .garnet = true →
      b.dispatched ctrlRing i 0x02 = some d →
      leAt d 16 1 = 1 →
      b.opal.held = none →
      b.garnet.start = some w →
      exec (.takeStop i) ⟨q, b⟩ = .next ⟨q, finishCtrl i stOk frameNone 0 0 (finishCtrl w.desc stCancelled frameNone 0 0
          { b with garnet := { b.garnet with start := none } })⟩) ∧
  (∀ (q : List Instr) (b : Block) (i : Nat) (d : List Byte),
      b.alive .garnet = true →
      b.dispatched ctrlRing i 0x02 = some d →
      leAt d 16 1 = 1 →
      b.opal.held = none →
      b.garnet.start = none →
      b.garnet.take = none →
      exec (.takeStop i) ⟨q, b⟩ = .next ⟨q, finishCtrl i stNoTake frameNone 0 0 b⟩) ∧
  (∀ (q : List Instr) (b : Block) (desc : Nat),
      b.alive .garnet = true →
      exec (.takeStart desc) ⟨q, b⟩ = .next ⟨q, takeStart desc b⟩ ∧
        onlyChanges [.garnet, .opal, .posts, .evr, .trace, .out] b (takeStart desc b)) ∧
  (∀ (q : List Instr) (b : Block) (desc : Nat),
      b.alive .garnet = true →
      exec (.takeStop desc) ⟨q, b⟩ = .next ⟨q, takeStop desc b⟩ ∧
        onlyChanges [.garnet, .opal, .posts, .evr, .trace, .out] b (takeStop desc b))

/-- TRIGGER stages its settings, TRIGGER_EVENT is latched, counted, ignored or bound, thermal steps and stop requests
are held, power loss and shutdown stop capture. Rules: 03_exposure_composition.md, 04_frame_timing_triggers.md, 10_magazine_storage.md, 12_faults_recovery_replay.md, 14_holdup_power_path.md, 15_thermal_management.md. -/
def Obligations.TriggersStepsAndStopsReachGarnet : Prop :=
  (∀ (q : List Instr) (b : Block) (i : Nat) (d : List Byte),
      b.alive .garnet = true →
      b.dispatched ctrlRing i 0x03 = some d →
      leAt d 16 1 ≤ 1 →
      leAt d 17 1 ≤ 1 →
      leAt d 18 1 ≤ 2 →
      b.garnet.stagedTrigger.any (fun x => x.desc == i) = false →
      exec (.trigger i) ⟨q, b⟩ = .next ⟨q, { b with garnet := { b.garnet with stagedTrigger := b.garnet.stagedTrigger ++
        [⟨if leAt d 16 1 = 0 then .continuous else .triggered, if leAt d 17 1 = 0 then .queueOne else .ignore,
          if leAt d 18 1 = 0 then .trigIn else if leAt d 18 1 = 1 then .seq else .both, i⟩] } }⟩) ∧
  (∀ (q : List Instr) (b : Block) (i : Nat) (d : List Byte),
      b.alive .garnet = true →
      b.dispatched ctrlRing i 0x03 = some d →
      leAt d 16 1 ≤ 1 →
      leAt d 17 1 ≤ 1 →
      leAt d 18 1 ≤ 2 →
      b.garnet.stagedTrigger.any (fun x => x.desc == i) = true →
      exec (.trigger i) ⟨q, b⟩ = .next ⟨q, b⟩) ∧
  (∀ (q : List Instr) (b : Block) (i : Nat) (d : List Byte),
      b.alive .garnet = true →
      b.dispatched ctrlRing i 0x03 = some d →
      1 < leAt d 16 1 →
      exec (.trigger i) ⟨q, b⟩ = .next ⟨q, finishCtrl i stMalformed frameNone 0 16 b⟩) ∧
  (∀ (q : List Instr) (b : Block) (i : Nat) (d : List Byte),
      b.alive .garnet = true →
      b.dispatched ctrlRing i 0x03 = some d →
      leAt d 16 1 ≤ 1 →
      1 < leAt d 17 1 →
      exec (.trigger i) ⟨q, b⟩ = .next ⟨q, finishCtrl i stMalformed frameNone 0 17 b⟩) ∧
  (∀ (q : List Instr) (b : Block) (i : Nat) (d : List Byte),
      b.alive .garnet = true →
      b.dispatched ctrlRing i 0x03 = some d →
      leAt d 16 1 ≤ 1 →
      leAt d 17 1 ≤ 1 →
      2 < leAt d 18 1 →
      exec (.trigger i) ⟨q, b⟩ = .next ⟨q, finishCtrl i stMalformed frameNone 0 18 b⟩) ∧
  (∀ (q : List Instr) (b : Block) (k : TrigKind) (l : List TrigKind),
      b.alive .garnet = true →
      islandEmpty b .garnet = false →
      b.beryl.evr.mode ≠ 2 →
      b.ch.agateGarnet = k :: l →
      (b.garnet.mode = .continuous ∨ sourceTakes b.garnet.source k = false) →
      Completes (.triggerEvent 0) ⟨q, b⟩ (fun t =>
        t.garnet = { b.garnet with trigExpect := (b.garnet.trigExpect + 1) % 65536 } ∧
        t.ch.agateGarnet = l ∧
        onlyChanges [.garnet, .evr, .ch, .trace] b t)) ∧
  (∀ (q : List Instr) (b : Block) (k : TrigKind) (l : List TrigKind) (x : Nat),
      b.alive .garnet = true →
      islandEmpty b .garnet = false →
      b.beryl.evr.mode ≠ 2 →
      b.ch.agateGarnet = k :: l →
      b.garnet.mode = .triggered →
      sourceTakes b.garnet.source k = true →
      b.garnet.latch = some x →
      Completes (.triggerEvent 0) ⟨q, b⟩ (fun t =>
        t.garnet = { b.garnet with trigExpect := (b.garnet.trigExpect + 1) % 65536, overrun := min 65535 (b.garnet.overrun + 1) } ∧
        t.ch.agateGarnet = l ∧
        onlyChanges [.garnet, .evr, .ch, .trace] b t)) ∧
  (∀ (q : List Instr) (b : Block) (k : TrigKind) (l : List TrigKind),
      b.alive .garnet = true →
      islandEmpty b .garnet = false →
      b.beryl.evr.mode ≠ 2 →
      b.ch.agateGarnet = k :: l →
      b.garnet.mode = .triggered →
      sourceTakes b.garnet.source k = true →
      b.garnet.latch = none →
      noStart b = true →
      Completes (.triggerEvent 0) ⟨q, b⟩ (fun t =>
        t.garnet = { b.garnet with trigExpect := (b.garnet.trigExpect + 1) % 65536, latch := some b.quartz.tb } ∧
        t.ch.agateGarnet = l ∧
        onlyChanges [.garnet, .evr, .ch, .trace] b t)) ∧
  (∀ (q : List Instr) (b : Block) (k : TrigKind) (l : List TrigKind),
      b.alive .garnet = true →
      islandEmpty b .garnet = false →
      b.beryl.evr.mode ≠ 2 →
      b.ch.agateGarnet = k :: l →
      b.garnet.mode = .triggered →
      sourceTakes b.garnet.source k = true →
      b.garnet.latch = none →
      noStart b = false →
      (b.garnet.bound.isSome || b.garnet.hand.isSome) = true →
      b.garnet.policy = .queueOne →
      Completes (.triggerEvent 0) ⟨q, b⟩ (fun t =>
        t.garnet = { b.garnet with trigExpect := (b.garnet.trigExpect + 1) % 65536, latch := some b.quartz.tb } ∧
        t.ch.agateGarnet = l ∧
        onlyChanges [.garnet, .evr, .ch, .trace] b t)) ∧
  (∀ (q : List Instr) (b : Block) (k : TrigKind) (l : List TrigKind),
      b.alive .garnet = true →
      islandEmpty b .garnet = false →
      b.beryl.evr.mode ≠ 2 →
      b.ch.agateGarnet = k :: l →
      b.garnet.mode = .triggered →
      sourceTakes b.garnet.source k = true →
      b.garnet.latch = none →
      noStart b = false →
      (b.garnet.bound.isSome || b.garnet.hand.isSome) = true →
      b.garnet.policy = .ignore →
      Completes (.triggerEvent 0) ⟨q, b⟩ (fun t =>
        t.garnet = { b.garnet with trigExpect := (b.garnet.trigExpect + 1) % 65536, overrun := min 65535 (b.garnet.overrun + 1) } ∧
        t.ch.agateGarnet = l ∧
        onlyChanges [.garnet, .evr, .ch, .trace] b t)) ∧
  (∀ (q : List Instr) (b : Block) (k : TrigKind) (l : List TrigKind),
      b.alive .garnet = true →
      islandEmpty b .garnet = false →
      b.beryl.evr.mode ≠ 2 →
      b.ch.agateGarnet = k :: l →
      b.garnet.mode = .triggered →
      sourceTakes b.garnet.source k = true →
      b.garnet.latch = none →
      noStart b = false →
      b.garnet.bound = none →
      b.garnet.hand = none →
      (!canStart b (triggerBoundary b) || meetsT0 b.garnet || !burstReady b.garnet) = true →
      Completes (.triggerEvent 0) ⟨q, b⟩ (fun t =>
        t.garnet = { b.garnet with trigExpect := (b.garnet.trigExpect + 1) % 65536, latch := some b.quartz.tb } ∧
        t.ch.agateGarnet = l ∧
        onlyChanges [.garnet, .evr, .ch, .trace] b t)) ∧
  (∀ (q : List Instr) (b : Block) (k : TrigKind) (l : List TrigKind),
      b.alive .garnet = true →
      islandEmpty b .garnet = false →
      b.beryl.evr.mode ≠ 2 →
      b.ch.agateGarnet = k :: l →
      b.garnet.mode = .triggered →
      sourceTakes b.garnet.source k = true →
      b.garnet.latch = none →
      noStart b = false →
      b.garnet.bound = none →
      b.garnet.hand = none →
      (!canStart b (triggerBoundary b) || meetsT0 b.garnet || !burstReady b.garnet) = false →
      exec (.triggerEvent 0) ⟨q, b⟩ = .next ⟨q, latchPoint (triggerBoundary b) (some b.quartz.tb) ({ b with
        garnet := { b.garnet with trigExpect := (b.garnet.trigExpect + 1) % 65536 }
        ch := { b.ch with agateGarnet := l } }.logEvr .garnet 0x03
          (leBytes 1 (if k = TrigKind.pin then 0 else 1) ++ leBytes 1 1 ++ leBytes 8 b.quartz.tb))⟩) ∧
  (∀ (q : List Instr) (b : Block) (n : Nat),
      b.alive .garnet = true →
      islandEmpty b .garnet = false →
      b.beryl.evr.mode ≠ 2 →
      b.ch.agateGarnet.length = n →
      n % 65536 ≠ 0 →
      exec (.triggerEvent n) ⟨q, b⟩ = .next ⟨q, eventGap .garnet (missTriggers (n % 65536) { b with
        garnet := { b.garnet with trigExpect := (b.garnet.trigExpect + n) % 65536 }
        ch := { b.ch with agateGarnet := [] } })⟩) ∧
  (∀ (q : List Instr) (b : Block),
      b.alive .garnet = true →
      islandEmpty b .garnet = false →
      b.beryl.evr.mode ≠ 2 →
      b.ch.agateGarnet = [] →
      Completes (.triggerEvent 0) ⟨q, b⟩ (fun t =>
        t.garnet = { b.garnet with trigExpect := b.garnet.trigExpect % 65536 } ∧
        onlyChanges [.garnet] b t)) ∧
  (∀ (q : List Instr) (b : Block) (x : Nat) (l : List Nat),
      b.alive .garnet = true →
      islandEmpty b .garnet = false →
      b.ch.berylGarnet = x :: l →
      exec (.thermalStep) ⟨q, b⟩ = .next ⟨q, { b with
        garnet := { b.garnet with thermal := some x }
        ch := { b.ch with berylGarnet := l } }⟩) ∧
  (∀ (q : List Instr) (b : Block),
      b.alive .garnet = true →
      islandEmpty b .garnet = false →
      b.ch.berylGarnet = [] →
      exec (.thermalStep) ⟨q, b⟩ = .next ⟨q, b⟩) ∧
  (∀ (q : List Instr) (b : Block) (r : EndReason) (l : List EndReason),
      b.alive .garnet = true →
      b.ch.stopRequests = r :: l →
      b.garnet.take.isSome = true →
      b.garnet.stopReq = none →
      exec (.stopRequest) ⟨q, b⟩ = .next ⟨q, { b with
        garnet := { b.garnet with stopReq := some r }
        ch := { b.ch with stopRequests := l } }⟩) ∧
  (∀ (q : List Instr) (b : Block) (r : EndReason) (l : List EndReason),
      b.alive .garnet = true →
      b.ch.stopRequests = r :: l →
      (b.garnet.take.isNone = true ∨ b.garnet.stopReq.isSome = true) →
      exec (.stopRequest) ⟨q, b⟩ = .next ⟨q, { b with ch := { b.ch with stopRequests := l } }⟩) ∧
  (∀ (q : List Instr) (b : Block),
      b.alive .garnet = true →
      b.ch.stopRequests = [] →
      exec (.stopRequest) ⟨q, b⟩ = .next ⟨q, b⟩) ∧
  (∀ (q : List Instr) (b : Block) (ms : Nat) (l : List TopazEvent),
      b.alive .garnet = true →
      b.ch.topazGarnet = .loss ms :: l →
      b.garnet.stopped = false →
      Completes (.powerLossStop) ⟨q, b⟩ (fun t =>
        t.garnet.stopped = true ∧
        t.garnet.hand = none ∧
        t.garnet.bound = none ∧
        t.garnet.bc = none ∧
        t.garnet.take = none ∧
        t.garnet.start = none ∧
        t.ch.topazGarnet = l ∧
        (∀ h, b.garnet.hand = some h → ∃ o ∈ t.ch.garnetOpal, o.frame = h.snap.frame ∧ o.outcome = some .truncated) ∧
        (∀ s, b.garnet.bound = some s → ∃ o ∈ t.ch.garnetOpal, o.frame = s.frame ∧ o.outcome = some .truncated) ∧
        onlyChanges [.disc, .garnet, .opal, .posts, .evr, .ch, .trace, .out] b t)) ∧
  (∀ (q : List Instr) (b : Block) (ms : Nat) (l : List TopazEvent),
      b.alive .garnet = true →
      b.ch.topazGarnet = .loss ms :: l →
      b.garnet.stopped = true →
      exec (.powerLossStop) ⟨q, b⟩ = .next ⟨q, { b with ch := { b.ch with topazGarnet := l } }⟩) ∧
  (∀ (q : List Instr) (b : Block),
      b.alive .garnet = true →
      (∀ ms, b.ch.topazGarnet.head? ≠ some (.loss ms)) →
      exec (.powerLossStop) ⟨q, b⟩ = .next ⟨q, b⟩) ∧
  (∀ (q : List Instr) (b : Block) (l : List TopazEvent) (w : WaitingStart),
      b.alive .garnet = true →
      b.ch.topazGarnet = .shutdown :: l →
      b.garnet.shutdown = false →
      b.garnet.bound = none →
      b.garnet.start = some w →
      exec (.garnetShutdown) ⟨q, b⟩ = .next ⟨q, b.garnet.stops.foldl (fun x s => finishCtrl s.desc stCancelled frameNone 0 0 x) (finishCtrl w.desc stCancelled frameNone 0 0 { b with
        garnet := { b.garnet with shutdown := true, start := none, stops := [] }
        ch := { b.ch with topazGarnet := l } })⟩) ∧
  (∀ (q : List Instr) (b : Block) (l : List TopazEvent),
      b.alive .garnet = true →
      b.ch.topazGarnet = .shutdown :: l →
      b.garnet.shutdown = false →
      b.garnet.bound = none →
      b.garnet.start = none →
      exec (.garnetShutdown) ⟨q, b⟩ = .next ⟨q, b.garnet.stops.foldl (fun x s => finishCtrl s.desc stCancelled frameNone 0 0 x) { b with
        garnet := { b.garnet with shutdown := true, start := none, stops := [] }
        ch := { b.ch with topazGarnet := l } }⟩) ∧
  (∀ (q : List Instr) (b : Block) (l : List TopazEvent) (s : Snapshot),
      b.alive .garnet = true →
      b.ch.topazGarnet = .shutdown :: l →
      b.garnet.shutdown = false →
      b.garnet.bound = some s →
      Completes (.garnetShutdown) ⟨q, b⟩ (fun t =>
        t.garnet.shutdown = true ∧
        t.garnet.start = none ∧
        t.garnet.stops = [] ∧
        t.garnet.bound = none ∧
        t.garnet.take = none ∧
        t.garnet.hand = b.garnet.hand ∧
        t.ch.topazGarnet = l ∧
        (∃ o ∈ t.ch.garnetOpal, o.frame = s.frame ∧ o.outcome = some .truncated) ∧
        onlyChanges [.disc, .garnet, .opal, .posts, .evr, .ch, .trace, .out] b t)) ∧
  (∀ (q : List Instr) (b : Block) (l : List TopazEvent),
      b.alive .garnet = true →
      b.ch.topazGarnet = .shutdown :: l →
      b.garnet.shutdown = true →
      exec (.garnetShutdown) ⟨q, b⟩ = .next ⟨q, { b with ch := { b.ch with topazGarnet := l } }⟩) ∧
  (∀ (q : List Instr) (b : Block),
      b.alive .garnet = true →
      b.ch.topazGarnet.head? ≠ some .shutdown →
      exec (.garnetShutdown) ⟨q, b⟩ = .next ⟨q, b⟩) ∧
  (∀ (q : List Instr) (b : Block) (desc : Nat),
      b.alive .garnet = true →
      exec (.trigger desc) ⟨q, b⟩ = .next ⟨q, trigger desc b⟩ ∧
        onlyChanges [.garnet, .posts, .evr, .trace, .out] b (trigger desc b)) ∧
  (∀ (q : List Instr) (b : Block) (lost : Nat),
      b.beryl.evr.mode ≠ 2 →
      b.alive .garnet = true →
      islandEmpty b .garnet = false →
      exec (.triggerEvent lost) ⟨q, b⟩ = .next ⟨q, triggerEvent lost b⟩ ∧
        onlyChanges [.disc, .garnet, .jade, .posts, .evr, .topaz, .ch, .trace, .out] b (triggerEvent lost b)) ∧
  (∀ (q : List Instr) (b : Block) (lost : Nat),
      b.beryl.evr.mode ≠ 2 →
      b.failing .garnet = true →
      exec (.triggerEvent lost) ⟨q, b⟩ = .next ⟨q, garnetDropsTrigger b⟩) ∧
  (∀ (q : List Instr) (b : Block) (lost : Nat),
      b.beryl.evr.mode ≠ 2 →
      b.failing .garnet = false →
      (b.alive .garnet = false ∨ islandEmpty b .garnet = true) →
      exec (.triggerEvent lost) ⟨q, b⟩ = .next ⟨q, b⟩) ∧
  (∀ (q : List Instr) (b : Block) (lost : Nat),
      b.beryl.evr.mode = 2 →
      exec (.triggerEvent lost) ⟨q, b⟩ = .next ⟨q, dropTrigger b⟩) ∧
  (∀ (q : List Instr) (b : Block),
      b.alive .garnet = true →
      islandEmpty b .garnet = false →
      exec (.thermalStep) ⟨q, b⟩ = .next ⟨q, thermalStep b⟩ ∧
        onlyChanges [.garnet, .ch, .trace] b (thermalStep b)) ∧
  (∀ (q : List Instr) (b : Block),
      b.failing .garnet = true →
      exec (.thermalStep) ⟨q, b⟩ = .next ⟨q, garnetDropsStep b⟩) ∧
  (∀ (q : List Instr) (b : Block),
      b.failing .garnet = false →
      (b.alive .garnet = false ∨ islandEmpty b .garnet = true) →
      exec (.thermalStep) ⟨q, b⟩ = .next ⟨q, b⟩) ∧
  (∀ (q : List Instr) (b : Block),
      b.alive .garnet = true →
      exec (.stopRequest) ⟨q, b⟩ = .next ⟨q, stopRequest b⟩ ∧
        onlyChanges [.garnet, .ch, .trace] b (stopRequest b)) ∧
  (∀ (q : List Instr) (b : Block),
      b.failing .garnet = true →
      exec (.stopRequest) ⟨q, b⟩ = .next ⟨q, stopRequest b⟩) ∧
  (∀ (q : List Instr) (b : Block),
      b.alive .garnet = false →
      b.failing .garnet = false →
      exec (.stopRequest) ⟨q, b⟩ = .next ⟨q, b⟩) ∧
  (∀ (q : List Instr) (b : Block),
      b.alive .garnet = true →
      exec (.powerLossStop) ⟨q, b⟩ = .next ⟨q, powerLossStop b⟩ ∧
        onlyChanges [.disc, .garnet, .opal, .posts, .evr, .ch, .trace, .out] b (powerLossStop b)) ∧
  (∀ (q : List Instr) (b : Block),
      b.failing .garnet = true →
      exec (.powerLossStop) ⟨q, b⟩ = .next ⟨q, powerLossStop b⟩) ∧
  (∀ (q : List Instr) (b : Block),
      b.alive .garnet = false →
      b.failing .garnet = false →
      exec (.powerLossStop) ⟨q, b⟩ = .next ⟨q, b⟩) ∧
  (∀ (q : List Instr) (b : Block),
      b.alive .garnet = true →
      exec (.garnetShutdown) ⟨q, b⟩ = .next ⟨q, garnetShutdown b⟩ ∧
        onlyChanges [.disc, .garnet, .opal, .posts, .evr, .ch, .trace, .out] b (garnetShutdown b)) ∧
  (∀ (q : List Instr) (b : Block),
      b.failing .garnet = true →
      exec (.garnetShutdown) ⟨q, b⟩ = .next ⟨q, garnetShutdown b⟩) ∧
  (∀ (q : List Instr) (b : Block),
      b.alive .garnet = false →
      b.failing .garnet = false →
      exec (.garnetShutdown) ⟨q, b⟩ = .next ⟨q, b⟩)

/-- SUB_FRAME_START takes the next events from Quartz: a CAD0 event starts a Sub-frame where D divides its number, a
CAD1 event opens a period and its Hand. Rules: 02_pixel_cluster_tier.md, 03_exposure_composition.md, 04_frame_timing_triggers.md, 12_faults_recovery_replay.md. -/
def Obligations.SubFramesStartOnCad0 : Prop :=
  (∀ (q : List Instr) (b : Block) (x : Scene) (t0 s g l c t0In : Nat) (u v : Bool) (rest : List CadMsg),
      b.alive .garnet = true →
      islandEmpty b .garnet = false →
      b.beryl.evr.mode ≠ 2 →
      b.ch.quartzGarnet = .cad0 t0 u v t0In :: rest →
      b.garnet.cad = some (s, g, l, c) →
      b.garnet.stopped = false →
      b.committed .garnet = true →
      b.garnet.started = true →
      b.garnet.bc = none →
      b.garnet.inBridge = false →
      b.garnet.j % max 1 b.garnet.d = 0 →
      b.garnet.hand = none →
      b.garnet.j + b.garnet.d < g →
      Completes (.subFrameStart x 0) ⟨q, b⟩ (fun t =>
        t.garnet.lastSf = t0 ∧
        t.garnet.lastCad0 = t0 ∧
        t.garnet.j = b.garnet.j + 1 ∧
        t.garnet.hand = none ∧
        t.garnet.evExpect = (b.garnet.evExpect + 1) % 65536 ∧
        t.ch.quartzGarnet = rest ∧
        (∃ m, t.garnet.bc = some m ∧ m.add = .replicate 4 false ∧ m.close = .replicate 4 false ∧ m.open_ = .replicate 4 false ∧ m.force = false ∧
          m.handEnd = false ∧ t.garnet.array = arrayMap (fun i y => (clusterSubFrame m i y).1) x b.garnet.array) ∧
        onlyChanges [.garnet, .ch, .trace] b t)) ∧
  (∀ (q : List Instr) (b : Block) (x : Scene) (t0 s g l c t0In : Nat) (u v : Bool) (rest : List CadMsg) (h : Hand),
      b.alive .garnet = true →
      islandEmpty b .garnet = false →
      b.beryl.evr.mode ≠ 2 →
      b.ch.quartzGarnet = .cad0 t0 u v t0In :: rest →
      b.garnet.cad = some (s, g, l, c) →
      b.garnet.stopped = false →
      b.committed .garnet = true →
      b.garnet.started = true →
      b.garnet.bc = none →
      b.garnet.inBridge = false →
      b.garnet.j % max 1 b.garnet.d = 0 →
      b.garnet.hand = some h →
      b.garnet.j + b.garnet.d < g →
      Completes (.subFrameStart x 0) ⟨q, b⟩ (fun t =>
        t.garnet.lastSf = t0 ∧
        t.garnet.lastCad0 = t0 ∧
        t.garnet.j = b.garnet.j + 1 ∧
        t.garnet.evExpect = (b.garnet.evExpect + 1) % 65536 ∧
        t.ch.quartzGarnet = rest ∧
        t.garnet.bc = some (handBroadcast h.snap h.h h.i b.garnet.lastForce []) ∧
        (t.garnet.hand.map (fun y => (y.snap.frame, y.i, y.lastStamp)) = some (h.snap.frame, h.i + 1, t0)) ∧
        onlyChanges [.garnet, .ch, .trace] b t)) ∧
  (∀ (q : List Instr) (b : Block) (x : Scene) (t0 s g l c t0In : Nat) (u v : Bool) (rest : List CadMsg),
      b.alive .garnet = true →
      islandEmpty b .garnet = false →
      b.beryl.evr.mode ≠ 2 →
      b.ch.quartzGarnet = .cad0 t0 u v t0In :: rest →
      b.garnet.cad = some (s, g, l, c) →
      b.garnet.stopped = false →
      b.committed .garnet = true →
      b.garnet.started = true →
      b.garnet.bc = none →
      b.garnet.inBridge = false →
      b.garnet.j % max 1 b.garnet.d = 0 →
      g ≤ b.garnet.j + b.garnet.d →
      t0In ≠ 1 →
      Completes (.subFrameStart x 0) ⟨q, b⟩ (fun t =>
        t.garnet.boundReady = t.garnet.bound.isSome ∧
        t.garnet.lastSf = t0 ∧
        t.garnet.j = b.garnet.j + 1 ∧
        t.garnet.bc.isSome = true ∧
        t.ch.quartzGarnet = rest ∧
        onlyChanges [.disc, .garnet, .jade, .posts, .evr, .topaz, .ch, .trace, .out] b t)) ∧
  (∀ (q : List Instr) (b : Block) (x : Scene) (t0 s g l c t0In : Nat) (u v : Bool) (rest : List CadMsg),
      b.alive .garnet = true →
      islandEmpty b .garnet = false →
      b.beryl.evr.mode ≠ 2 →
      b.ch.quartzGarnet = .cad0 t0 u v t0In :: rest →
      b.garnet.cad = some (s, g, l, c) →
      b.garnet.started = true →
      b.garnet.j % max 1 b.garnet.d ≠ 0 →
      Completes (.subFrameStart x 0) ⟨q, b⟩ (fun t =>
        t.garnet = { b.garnet with j := b.garnet.j + 1, lastCad0 := t0, last := u, closing := v, t0In := t0In, evExpect := (b.garnet.evExpect + 1) % 65536 } ∧
        t.ch.quartzGarnet = rest ∧
        onlyChanges [.garnet, .ch, .trace] b t)) ∧
  (∀ (q : List Instr) (b : Block) (x : Scene) (t0 g l c : Nat) (r : TimeRecord),
      b.alive .garnet = true →
      islandEmpty b .garnet = false →
      b.beryl.evr.mode ≠ 2 →
      b.ch.quartzGarnet = [.cad1 t0 g l c r] →
      b.garnet.bc = none →
      b.garnet.bound = none →
      exec (.subFrameStart x 0) ⟨q, b⟩ = .next ⟨q, { b with
        garnet := openPeriod t0 g l c { b.garnet with evExpect := (b.garnet.evExpect + 1) % 65536 }
        ch := { b.ch with quartzGarnet := [] } }⟩) ∧
  (∀ (t0 g l c : Nat) (y : Garnet), (openPeriod t0 g l c y).cad = some (t0, g, l, c) ∧ (openPeriod t0 g l c y).j = 0 ∧
      (openPeriod t0 g l c y).hand = none ∧
      (y.cad.map (fun z => z.2.2.2) = some c → y.t0In ≠ 1 → (openPeriod t0 g l c y).h = y.h + 1) ∧
      (y.cad.map (fun z => z.2.2.2) ≠ some c → (openPeriod t0 g l c y).h = 0)) ∧
  (∀ (q : List Instr) (b : Block) (x : Scene) (t0 g l c : Nat) (r : TimeRecord) (s : Snapshot),
      b.alive .garnet = true →
      islandEmpty b .garnet = false →
      b.beryl.evr.mode ≠ 2 →
      b.ch.quartzGarnet = [.cad1 t0 g l c r] →
      b.garnet.bc = none →
      b.garnet.bound = some s →
      b.garnet.boundReady = true →
      b.garnet.t0In ≠ 1 →
      programFit b.quartz.cap s.prog = none →
      Completes (.subFrameStart x 0) ⟨q, b⟩ (fun t =>
        t.garnet.bound = none ∧
        t.garnet.boundReady = false ∧
        t.garnet.j = 0 ∧
        (t.garnet.hand.map (fun y => (y.snap.frame, y.snap.cad1Stamp, y.snap.l, y.snap.g, y.i)) = some (s.frame, t0, l, g,
            0)) ∧
        t.ch.quartzGarnet = [] ∧
        onlyChanges [.disc, .garnet, .jade, .posts, .evr, .topaz, .ch, .trace, .out] b t)) ∧
  (∀ (q : List Instr) (b : Block) (x : Scene) (n : Nat),
      b.alive .garnet = true →
      islandEmpty b .garnet = false →
      b.beryl.evr.mode ≠ 2 →
      b.ch.quartzGarnet.length = n →
      n % 65536 ≠ 0 →
      Completes (.subFrameStart x n) ⟨q, b⟩ (fun t =>
        t.garnet.hand = none ∧
        t.garnet.bound = none ∧
        t.garnet.bc = none ∧
        t.garnet.skipHand = true ∧
        t.topaz.gaps = min 65535 (b.topaz.gaps + 1) ∧
        t.ch.quartzGarnet = [] ∧
        onlyChanges [.disc, .garnet, .jade, .posts, .evr, .topaz, .ch, .trace, .out] b t)) ∧
  (∀ (q : List Instr) (b : Block) (x : Scene),
      b.alive .garnet = true →
      islandEmpty b .garnet = false →
      b.beryl.evr.mode ≠ 2 →
      b.ch.quartzGarnet = [] →
      Completes (.subFrameStart x 0) ⟨q, b⟩ (fun t =>
        t.garnet = { b.garnet with evExpect := b.garnet.evExpect % 65536 } ∧
        onlyChanges [.garnet] b t)) ∧
  (∀ (q : List Instr) (b : Block) (scene : Scene) (lost : Nat),
      b.beryl.evr.mode ≠ 2 →
      b.alive .garnet = true →
      islandEmpty b .garnet = false →
      exec (.subFrameStart scene lost) ⟨q, b⟩ = .next ⟨q, subFrameStart scene lost b⟩ ∧
        onlyChanges [.disc, .garnet, .jade, .posts, .evr, .topaz, .ch, .trace, .out] b (subFrameStart scene lost b)) ∧
  (∀ (q : List Instr) (b : Block) (scene : Scene) (lost : Nat),
      b.beryl.evr.mode ≠ 2 →
      b.failing .garnet = true →
      exec (.subFrameStart scene lost) ⟨q, b⟩ = .next ⟨q, garnetPasses b⟩) ∧
  (∀ (q : List Instr) (b : Block) (scene : Scene) (lost : Nat),
      b.beryl.evr.mode ≠ 2 →
      b.failing .garnet = false →
      (b.alive .garnet = false ∨ islandEmpty b .garnet = true) →
      exec (.subFrameStart scene lost) ⟨q, b⟩ = .next ⟨q, b⟩) ∧
  (∀ (q : List Instr) (b : Block) (scene : Scene) (lost : Nat),
      b.beryl.evr.mode = 2 →
      exec (.subFrameStart scene lost) ⟨q, b⟩ = .next ⟨q, dropCadence b⟩)

/-- DRAIN_STRIPE_DONE writes the next Stripe of the oldest Frame into its drain space and sends its token; the next
begins after STRIPE_TOKEN_ACK. Rules: R17, R54, R56, 01_architecture.md. -/
def Obligations.DrainWritesStripesAndTellsJade : Prop :=
  (∀ (q : List Instr) (b : Block) (j : DrainJob) (l : List DrainJob) (k n : Nat),
      b.alive .garnet = true →
      b.garnet.drn = .idle →
      b.garnet.jobs = j :: l →
      nextStripe j = some (k, n) →
      Completes (.drainStripeDone) ⟨q, b⟩ (fun t =>
        t.garnet.drn = .holding ∧
        t.ch.garnetJade = b.ch.garnetJade ++ [.stripe { stripeToken j.snap k n
          (j.addr + (k * j.snap.prog.stripes + (n - j.snap.prog.drainFirst)) * stripeLen) stripeLen
          (crc32c (stripeBytes b.garnet.array (j.planes.getD k (0, false, 0)).1 n)) 0 with sent := b.stamp .jade }] ∧
        t.dram = memWrite b.dram (j.addr + (k * j.snap.prog.stripes + (n - j.snap.prog.drainFirst)) * stripeLen)
          (stripeBytes b.garnet.array (j.planes.getD k (0, false, 0)).1 n) ∧
        (∀ a, (a < j.addr + (k * j.snap.prog.stripes + (n - j.snap.prog.drainFirst)) * stripeLen ∨
            j.addr + (k * j.snap.prog.stripes + (n - j.snap.prog.drainFirst)) * stripeLen +
              (stripeBytes b.garnet.array (j.planes.getD k (0, false, 0)).1 n).length ≤ a) →
          t.dramByte a = b.dramByte a) ∧
        onlyChanges [.garnet, .dram, .ch, .trace] b t)) ∧
  (∀ (q : List Instr) (b : Block),
      b.alive .garnet = true →
      b.garnet.drn = .holding →
      exec (.drainStripeDone) ⟨q, b⟩ = .next ⟨q, b⟩) ∧
  (∀ (q : List Instr) (b : Block),
      b.alive .garnet = true →
      b.ch.drnAck = true →
      b.garnet.drn = .holding →
      exec (.stripeTokenAck) ⟨q, b⟩ = .next ⟨q, { b with
        garnet := { b.garnet with drn := .idle }
        ch := { b.ch with drnAck := false } }⟩) ∧
  (∀ (q : List Instr) (b : Block),
      b.alive .garnet = true →
      exec (.drainStripeDone) ⟨q, b⟩ = .next ⟨q, drainStripeDone b⟩ ∧
        onlyChanges [.garnet, .dram, .ch, .trace] b (drainStripeDone b)) ∧
  (∀ (q : List Instr) (b : Block),
      b.alive .garnet = true →
      exec (.stripeTokenAck) ⟨q, b⟩ = .next ⟨q, stripeTokenAck b⟩ ∧
        onlyChanges [.garnet, .ch, .trace] b (stripeTokenAck b))

/-- FRAME_HEADER_TOKEN opens its Frame in Jade with the settings of that moment; a header that fails its Frame drops
what Jade holds of it. Rules: 01_architecture.md, 06_correction_pipeline.md, 12_faults_recovery_replay.md. -/
def Obligations.HeadersOpenFramesInJade : Prop :=
  (∀ (q : List Instr) (b : Block) (s : Snapshot) (l : List GarnetJade),
      b.alive .jade = true →
      islandEmpty b .jade = false →
      b.ch.garnetJade = .header s :: l →
      deadHeader s = false →
      s.frame ∉ b.jade.failed →
      Completes (.frameHeaderToken) ⟨q, b⟩ (fun t =>
        (t.jade.frames = b.jade.frames.filter (fun f => f.snap.frame != s.frame) ++
          [openFrame s (cfgFor b s.frame) ((b.jade.destSets.find? (fun r => r.1 == s.frame)).map (·.2))]) ∧
        t.ch.garnetJade = l ∧
        onlyChanges [.jade, .ch, .trace] b t)) ∧
  (∀ (q : List Instr) (b : Block) (s : Snapshot) (l : List GarnetJade),
      b.alive .jade = true →
      islandEmpty b .jade = false →
      b.ch.garnetJade = .header s :: l →
      deadHeader s = true →
      s.frame ∉ b.jade.failed →
      Completes (.frameHeaderToken) ⟨q, b⟩ (fun t =>
        (t.jade.frames = b.jade.frames.filter (fun f => f.snap.frame != s.frame)) ∧
        (t.jade.resv = b.jade.resv.filter (fun r => r.1 != s.frame)) ∧
        (t.jade.destSets = b.jade.destSets.filter (fun r => r.1 != s.frame)) ∧
        t.ch.garnetJade = l ∧
        t.ch.jadeSpinel = b.ch.jadeSpinel ++ [{
          frame := s.frame, plane := 0, index := 0, stripe := 255, len := 0
          marks := markIf s.flags.timing markTiming ||| markIf s.flags.failStop markFailStop
          header := false, magazine := false, sent := b.stamp .spinel }] ∧
        onlyChanges [.jade, .ch] b t)) ∧
  (∀ (q : List Instr) (b : Block) (s : Snapshot) (l : List GarnetJade),
      b.alive .jade = true →
      islandEmpty b .jade = false →
      b.ch.garnetJade = .header s :: l →
      s.frame ∈ b.jade.failed →
      Completes (.frameHeaderToken) ⟨q, b⟩ (fun t =>
        (t.jade.frames = b.jade.frames.filter (fun f => f.snap.frame != s.frame)) ∧
        (t.jade.resv = b.jade.resv.filter (fun r => r.1 != s.frame)) ∧
        (t.jade.destSets = b.jade.destSets.filter (fun r => r.1 != s.frame)) ∧
        t.ch.garnetJade = l ∧
        t.ch.jadeSpinel = b.ch.jadeSpinel ∧
        onlyChanges [.jade, .ch] b t)) ∧
  (∀ (q : List Instr) (b : Block),
      b.alive .jade = true →
      islandEmpty b .jade = false →
      (b.ch.garnetJade.head?.bind (·.snap?)).isNone = true →
      exec (.frameHeaderToken) ⟨q, b⟩ = .next ⟨q, b⟩) ∧
  (∀ (q : List Instr) (b : Block),
      b.alive .jade = true →
      islandEmpty b .jade = false →
      exec (.frameHeaderToken) ⟨q, b⟩ = .next ⟨q, frameHeaderToken b⟩ ∧
        onlyChanges [.jade, .topaz, .ch, .trace] b (frameHeaderToken b)) ∧
  (∀ (q : List Instr) (b : Block),
      b.failing .jade = true →
      exec (.frameHeaderToken) ⟨q, b⟩ = .next ⟨q, jadeFails frameHeaderToken b⟩) ∧
  (∀ (q : List Instr) (b : Block),
      b.failing .jade = false →
      (b.alive .jade = false ∨ islandEmpty b .jade = true) →
      exec (.frameHeaderToken) ⟨q, b⟩ = .next ⟨q, b⟩)

/-- STRIPE_TOKEN takes a drained Stripe of good CRC, one lost or bad twice is missing and marked; PROFILE_TOKEN takes
the profile; each item is acknowledged once. Rules: 01_architecture.md, 06_correction_pipeline.md, 07_output_encodings_statistics.md, 12_faults_recovery_replay.md. -/
def Obligations.StripesAndProfilesAreCheckedAsTheyArrive : Prop :=
  (∀ (q : List Instr) (b : Block) (bad2 : Bool) (ecc : Ecc) (k : StripeToken) (l : List GarnetJade),
      b.alive .jade = true →
      islandEmpty b .jade = false →
      b.ch.garnetJade = .stripe k :: l →
      b.accepts .jade k.sent = true →
      k.stripe ≠ 255 →
      k.len ≠ 0 →
      b.jade.frames.any (fun f => f.snap.frame == k.frame) = true →
      ecc ≠ .ue →
      crc32c (b.dramRead k.addr k.len) = k.crc →
      Completes (.stripeToken false bad2 ecc) ⟨q, b⟩ (fun t =>
        t.ch.garnetJade = l ∧
        t.ch.drnAck = (b.ch.drnAck || !b.ch.kept.garnetJade.contains (.stripe k)) ∧
        t.jade.crcBad = b.jade.crcBad ∧
        t.jade.crcRetried = b.jade.crcRetried ∧
        (t.jade.frames = b.jade.frames.map (fun f => if f.snap.frame = k.frame then
            { f with
              stripes := f.stripes ++ [{ plane := k.plane, stripe := k.stripe, data := some (readStripe (b.dramRead k.addr k.len))
                                         marks := k.marks ||| markIf ((readStripe (b.dramRead k.addr k.len)).2.1.any id) markOverflow }]
              marks := f.marks ||| (k.marks ||| markIf ((readStripe (b.dramRead k.addr k.len)).2.1.any id) markOverflow) }
          else f)) ∧
        onlyChanges [.jade, .opal, .posts, .thm, .otc, .evr, .beryl, .topaz, .ch, .trace, .out, .fresh] b t)) ∧
  (∀ (q : List Instr) (b : Block) (ecc : Ecc) (k : StripeToken) (l : List GarnetJade),
      b.alive .jade = true →
      islandEmpty b .jade = false →
      b.ch.garnetJade = .stripe k :: l →
      b.accepts .jade k.sent = true →
      k.stripe ≠ 255 →
      k.len ≠ 0 →
      b.jade.frames.any (fun f => f.snap.frame == k.frame) = true →
      ecc ≠ .ue →
      crc32c (b.dramRead k.addr k.len) = k.crc →
      Completes (.stripeToken true false ecc) ⟨q, b⟩ (fun t =>
        t.ch.garnetJade = l ∧
        t.ch.drnAck = (b.ch.drnAck || !b.ch.kept.garnetJade.contains (.stripe k)) ∧
        t.jade.crcRetried = min 65535 (b.jade.crcRetried + 1) ∧
        t.jade.crcBad = b.jade.crcBad ∧
        (t.jade.frames = b.jade.frames.map (fun f => if f.snap.frame = k.frame then
            { f with
              stripes := f.stripes ++ [{ plane := k.plane, stripe := k.stripe, data := some (readStripe (b.dramRead k.addr k.len))
                                         marks := k.marks ||| markCrcRetried ||| markIf ((readStripe (b.dramRead k.addr k.len)).2.1.any id) markOverflow }]
              marks := f.marks ||| (k.marks ||| markCrcRetried ||| markIf ((readStripe (b.dramRead k.addr k.len)).2.1.any id) markOverflow) }
          else f)) ∧
        onlyChanges [.jade, .opal, .posts, .thm, .otc, .evr, .beryl, .topaz, .ch, .trace, .out, .fresh] b t)) ∧
  (∀ (q : List Instr) (b : Block) (bad1 bad2 : Bool) (ecc : Ecc) (k : StripeToken) (l : List GarnetJade),
      b.alive .jade = true →
      islandEmpty b .jade = false →
      b.ch.garnetJade = .stripe k :: l →
      b.accepts .jade k.sent = true →
      k.stripe ≠ 255 →
      k.len ≠ 0 →
      b.jade.frames.any (fun f => f.snap.frame == k.frame) = true →
      (bad1 && bad2 || ecc == .ue || crc32c (b.dramRead k.addr k.len) != k.crc) = true →
      Completes (.stripeToken bad1 bad2 ecc) ⟨q, b⟩ (fun t =>
        t.ch.garnetJade = l ∧
        t.ch.drnAck = (b.ch.drnAck || !b.ch.kept.garnetJade.contains (.stripe k)) ∧
        t.jade.crcBad = min 65535 (b.jade.crcBad + 1) ∧
        t.jade.crcRetried = b.jade.crcRetried ∧
        (t.jade.frames = b.jade.frames.map (fun f => if f.snap.frame = k.frame then
            { f with
              stripes := f.stripes ++ [{ plane := k.plane, stripe := k.stripe, data := none
                                         marks := k.marks ||| markCrcBad }]
              marks := f.marks ||| (k.marks ||| markCrcBad) }
          else f)) ∧
        onlyChanges [.jade, .opal, .posts, .thm, .otc, .evr, .beryl, .topaz, .ch, .trace, .out, .fresh] b t)) ∧
  (∀ (q : List Instr) (b : Block) (bad1 bad2 : Bool) (ecc : Ecc) (k : StripeToken) (l : List GarnetJade),
      b.alive .jade = true →
      islandEmpty b .jade = false →
      b.ch.garnetJade = .stripe k :: l →
      b.accepts .jade k.sent = true →
      k.stripe ≠ 255 →
      k.len = 0 →
      b.jade.frames.any (fun f => f.snap.frame == k.frame) = true →
      Completes (.stripeToken bad1 bad2 ecc) ⟨q, b⟩ (fun t =>
        t.ch.garnetJade = l ∧
        t.ch.drnAck = b.ch.drnAck ∧
        t.jade.crcBad = b.jade.crcBad ∧
        t.jade.crcRetried = b.jade.crcRetried ∧
        (t.jade.frames = b.jade.frames.map (fun f => if f.snap.frame = k.frame then
            { f with
              stripes := f.stripes ++ [{ plane := k.plane, stripe := k.stripe, data := none
                                         marks := k.marks }]
              marks := f.marks ||| (k.marks) }
          else f)) ∧
        onlyChanges [.jade, .opal, .posts, .thm, .otc, .evr, .beryl, .topaz, .ch, .trace, .out, .fresh] b t)) ∧
  (∀ (q : List Instr) (b : Block) (bad1 bad2 : Bool) (ecc : Ecc) (k : StripeToken) (l : List GarnetJade),
      b.alive .jade = true →
      islandEmpty b .jade = false →
      b.ch.garnetJade = .stripe k :: l →
      b.accepts .jade k.sent = true →
      k.stripe ≠ 255 →
      b.jade.frames.any (fun f => f.snap.frame == k.frame) = false →
      Completes (.stripeToken bad1 bad2 ecc) ⟨q, b⟩ (fun t =>
        t.ch.garnetJade = l ∧
        t.ch.drnAck = (b.ch.drnAck || (k.len != 0 && !b.ch.kept.garnetJade.contains (.stripe k))) ∧
        t.jade = b.jade ∧
        onlyChanges [.ch] b t)) ∧
  (∀ (q : List Instr) (b : Block) (bad1 bad2 : Bool) (ecc : Ecc) (k : StripeToken) (l : List GarnetJade),
      b.alive .jade = true →
      islandEmpty b .jade = false →
      b.ch.garnetJade = .stripe k :: l →
      (k.stripe = 255 ∨ b.accepts .jade k.sent = false) →
      exec (.stripeToken bad1 bad2 ecc) ⟨q, b⟩ = .next ⟨q, b⟩) ∧
  (∀ (q : List Instr) (b : Block) (bad1 bad2 : Bool) (ecc : Ecc) (k : StripeToken) (l : List GarnetJade) (f : JFrame),
      b.alive .jade = true →
      islandEmpty b .jade = false →
      b.ch.garnetJade = .stripe k :: l →
      b.accepts .jade k.sent = true →
      k.stripe = 255 →
      b.jade.frames.find? (fun g => g.snap.frame == k.frame) = some f →
      (destsKnown b.jade f = none ∨ allProcessed f = false) →
      Completes (.profileToken bad1 bad2 ecc) ⟨q, b⟩ (fun t =>
        t.ch.garnetJade = l ∧
        t.ch.drnAck = (b.ch.drnAck || !b.ch.kept.garnetJade.contains (.stripe k)) ∧
        (t.jade.frames = b.jade.frames.map (fun g => if g.snap.frame = k.frame then
            { g with profile := some (if (bad1 && bad2 || crc32c (b.dramRead k.addr k.len) != k.crc || ecc == .ue) = true then none
                                      else some (readProfile (b.dramRead k.addr k.len))) }
          else g)) ∧
        onlyChanges [.jade, .posts, .thm, .otc, .evr, .beryl, .topaz, .dram, .ch, .trace, .out, .fresh] b t)) ∧
  (∀ (q : List Instr) (b : Block) (bad1 bad2 : Bool) (ecc : Ecc) (k : StripeToken) (l : List GarnetJade) (f : JFrame) (ds :
      List Dest),
      b.alive .jade = true →
      islandEmpty b .jade = false →
      b.ch.garnetJade = .stripe k :: l →
      b.accepts .jade k.sent = true →
      k.stripe = 255 →
      b.jade.frames.find? (fun g => g.snap.frame == k.frame) = some f →
      destsKnown b.jade f = some ds →
      allProcessed f = true →
      Completes (.profileToken bad1 bad2 ecc) ⟨q, b⟩ (fun t =>
        t.ch.garnetJade = l ∧
        t.ch.drnAck = (b.ch.drnAck || !b.ch.kept.garnetJade.contains (.stripe k)) ∧
        (t.jade.frames = b.jade.frames.filter (fun g => g.snap.frame != k.frame)) ∧
        t.jade.dynCount = f.dynCount ∧
        onlyChanges [.jade, .posts, .thm, .otc, .evr, .beryl, .topaz, .dram, .ch, .trace, .out, .fresh] b t)) ∧
  (∀ (q : List Instr) (b : Block) (bad1 bad2 : Bool) (ecc : Ecc) (k : StripeToken) (l : List GarnetJade),
      b.alive .jade = true →
      islandEmpty b .jade = false →
      b.ch.garnetJade = .stripe k :: l →
      (k.stripe ≠ 255 ∨ b.accepts .jade k.sent = false) →
      exec (.profileToken bad1 bad2 ecc) ⟨q, b⟩ = .next ⟨q, b⟩) ∧
  (∀ (q : List Instr) (b : Block) (bad1 : Bool) (bad2 : Bool) (ecc : Ecc),
      b.alive .jade = true →
      islandEmpty b .jade = false →
      exec (.stripeToken bad1 bad2 ecc) ⟨q, b⟩ = .next ⟨q, stripeToken_ bad1 bad2 ecc b⟩ ∧
        onlyChanges [.jade, .opal, .posts, .thm, .otc, .evr, .beryl, .topaz, .ch, .trace, .out, .fresh] b (stripeToken_
            bad1 bad2 ecc b)) ∧
  (∀ (q : List Instr) (b : Block) (bad1 : Bool) (bad2 : Bool) (ecc : Ecc),
      b.failing .jade = true →
      exec (.stripeToken bad1 bad2 ecc) ⟨q, b⟩ = .next ⟨q, jadeFails (stripeToken_ bad1 bad2 ecc) b⟩) ∧
  (∀ (q : List Instr) (b : Block) (bad1 : Bool) (bad2 : Bool) (ecc : Ecc),
      b.failing .jade = false →
      (b.alive .jade = false ∨ islandEmpty b .jade = true) →
      exec (.stripeToken bad1 bad2 ecc) ⟨q, b⟩ = .next ⟨q, b⟩) ∧
  (∀ (q : List Instr) (b : Block) (bad1 : Bool) (bad2 : Bool) (ecc : Ecc),
      b.alive .jade = true →
      islandEmpty b .jade = false →
      exec (.profileToken bad1 bad2 ecc) ⟨q, b⟩ = .next ⟨q, profileToken bad1 bad2 ecc b⟩ ∧
        onlyChanges [.jade, .posts, .thm, .otc, .evr, .beryl, .topaz, .dram, .ch, .trace, .out, .fresh] b (profileToken
            bad1 bad2 ecc b)) ∧
  (∀ (q : List Instr) (b : Block) (bad1 : Bool) (bad2 : Bool) (ecc : Ecc),
      b.failing .jade = true →
      exec (.profileToken bad1 bad2 ecc) ⟨q, b⟩ = .next ⟨q, jadeFails (profileToken bad1 bad2 ecc) b⟩) ∧
  (∀ (q : List Instr) (b : Block) (bad1 : Bool) (bad2 : Bool) (ecc : Ecc),
      b.failing .jade = false →
      (b.alive .jade = false ∨ islandEmpty b .jade = true) →
      exec (.profileToken bad1 bad2 ecc) ⟨q, b⟩ = .next ⟨q, b⟩)

/-- STRIPE_PROCESS runs the unit with the lowest sequence tag of the oldest Frame with work left through the stages,
once. Rules: R139, R145, R146, R28. -/
def Obligations.StripeProcessTakesTheNextUnit : Prop :=
  (∀ (q : List Instr) (b : Block) (kind : RefKind) (f : JFrame) (l : List Dest) (ks : List Nat) (s : Nat),
      b.alive .jade = true →
      b.jade.frames = [f] →
      allProcessed f = false →
      destsKnown b.jade f = some l →
      nextUnit f l = some (ks, s) →
      f.profile = none →
      Completes (.stripeProcess .ok kind) ⟨q, b⟩ (fun t =>
        (t.jade.frames.map (·.processed) = [f.processed ++ ks.map (fun k => (k, s))]) ∧
        t.jade.frames.map (·.stripes) = [f.stripes] ∧
        t.jade.frames.map (·.snap) = [f.snap] ∧
        onlyChanges [.jade, .opal, .posts, .evr, .topaz, .dram, .ch, .trace, .out] b t)) ∧
  (∀ (q : List Instr) (b : Block) (ecc : Ecc) (kind : RefKind) (f : JFrame),
      b.alive .jade = true →
      b.jade.frames = [f] →
      f.dests = none →
      exec (.stripeProcess ecc kind) ⟨q, b⟩ = .next ⟨q, b⟩) ∧
  (∀ (q : List Instr) (b : Block) (ecc : Ecc) (kind : RefKind),
      b.alive .jade = true →
      exec (.stripeProcess ecc kind) ⟨q, b⟩ = .next ⟨q, stripeProcess ecc kind b⟩ ∧
        onlyChanges [.jade, .opal, .posts, .evr, .topaz, .dram, .ch, .trace, .out] b (stripeProcess ecc kind b))

/-- DESTINATION_SET gives a Frame its Destinations or waits for its header; the two reservations add a Segment address. Rules: 01_architecture.md, 07_output_encodings_statistics.md, 08_contexts_rings_doorbells.md, 10_magazine_storage.md. -/
def Obligations.DestinationsAndAddressesReachJade : Prop :=
  (∀ (q : List Instr) (b : Block) (n : Nat) (d : List Dest) (l : List (Nat × List Dest)),
      b.alive .jade = true →
      islandEmpty b .jade = false →
      b.ch.opalJade = (n, d) :: l →
      frameOver b n = false →
      b.jade.frames.any (fun f => f.snap.frame == n) = false →
      exec (.destinationSet) ⟨q, b⟩ = .next ⟨q, { b with
        jade := { applySettings d b.jade with destSets := b.jade.destSets ++ [(n, d)] }
        ch := { b.ch with opalJade := l, kept := { b.ch.kept with opalJade := keepOnce (n, d) b.ch.kept.opalJade } } }⟩) ∧
  (∀ (q : List Instr) (b : Block) (n : Nat) (d : List Dest) (l : List (Nat × List Dest)) (f : JFrame),
      b.alive .jade = true →
      islandEmpty b .jade = false →
      b.ch.opalJade = (n, d) :: l →
      frameOver b n = false →
      b.jade.frames.find? (fun g => g.snap.frame == n) = some f →
      (f.profile = none ∨ allProcessed f = false) →
      exec (.destinationSet) ⟨q, b⟩ = .next ⟨q, { b with
        jade := { applySettings d b.jade with
          frames := b.jade.frames.map (fun g => if g.snap.frame = n then { g with dests := some d } else g) }
        ch := { b.ch with opalJade := l, kept := { b.ch.kept with opalJade := keepOnce (n, d) b.ch.kept.opalJade } } }⟩) ∧
  (∀ (q : List Instr) (b : Block) (n : Nat) (d : List Dest) (l : List (Nat × List Dest)),
      b.alive .jade = true →
      islandEmpty b .jade = false →
      b.ch.opalJade = (n, d) :: l →
      frameOver b n = true →
      exec (.destinationSet) ⟨q, b⟩ = .next ⟨q, { b with
        jade := applySettings d b.jade
        ch := { b.ch with opalJade := l } }⟩) ∧
  (∀ (q : List Instr) (b : Block),
      b.alive .jade = true →
      islandEmpty b .jade = false →
      b.ch.opalJade = [] →
      exec (.destinationSet) ⟨q, b⟩ = .next ⟨q, b⟩) ∧
  (∀ (q : List Instr) (b : Block) (r : Nat × Nat × Option Nat) (l : List (Nat × Nat × Option Nat)),
      b.alive .jade = true →
      islandEmpty b .jade = false →
      b.ch.onyxJade = r :: l →
      frameOver b r.1 = false →
      (∀ f, b.jade.frames.find? (fun g => g.snap.frame == r.1) = some f → f.profile = none ∨ allProcessed f = false) →
      exec (.retentionReservation) ⟨q, b⟩ = .next ⟨q, { b with
        jade := { b.jade with resv := b.jade.resv ++ [r] }
        ch := { b.ch with onyxJade := l, kept := { b.ch.kept with onyxJade := keepOnce r b.ch.kept.onyxJade } } }⟩) ∧
  (∀ (q : List Instr) (b : Block) (r : Nat × Nat × Option Nat) (l : List (Nat × Nat × Option Nat)),
      b.alive .jade = true →
      islandEmpty b .jade = false →
      b.ch.onyxJade = r :: l →
      frameOver b r.1 = true →
      exec (.retentionReservation) ⟨q, b⟩ = .next ⟨q, { b with ch := { b.ch with onyxJade := l } }⟩) ∧
  (∀ (q : List Instr) (b : Block),
      b.alive .jade = true →
      islandEmpty b .jade = false →
      b.ch.onyxJade = [] →
      exec (.retentionReservation) ⟨q, b⟩ = .next ⟨q, b⟩) ∧
  (∀ (q : List Instr) (b : Block) (r : Nat × Nat × Option Nat) (l : List (Nat × Nat × Option Nat)),
      b.alive .jade = true →
      islandEmpty b .jade = false →
      b.ch.spinelJade = r :: l →
      frameOver b r.1 = false →
      (∀ f, b.jade.frames.find? (fun g => g.snap.frame == r.1) = some f → f.profile = none ∨ allProcessed f = false) →
      exec (.stagingReservation) ⟨q, b⟩ = .next ⟨q, { b with
        jade := { b.jade with resv := b.jade.resv ++ [r] }
        ch := { b.ch with spinelJade := l, kept := { b.ch.kept with spinelJade := keepOnce r b.ch.kept.spinelJade } } }⟩) ∧
  (∀ (q : List Instr) (b : Block) (r : Nat × Nat × Option Nat) (l : List (Nat × Nat × Option Nat)),
      b.alive .jade = true →
      islandEmpty b .jade = false →
      b.ch.spinelJade = r :: l →
      frameOver b r.1 = true →
      exec (.stagingReservation) ⟨q, b⟩ = .next ⟨q, { b with ch := { b.ch with spinelJade := l } }⟩) ∧
  (∀ (q : List Instr) (b : Block),
      b.alive .jade = true →
      islandEmpty b .jade = false →
      b.ch.spinelJade = [] →
      exec (.stagingReservation) ⟨q, b⟩ = .next ⟨q, b⟩) ∧
  (∀ (q : List Instr) (b : Block),
      b.alive .jade = true →
      islandEmpty b .jade = false →
      exec (.destinationSet) ⟨q, b⟩ = .next ⟨q, destinationSet b⟩ ∧
        onlyChanges [.jade, .evr, .topaz, .dram, .ch, .trace] b (destinationSet b)) ∧
  (∀ (q : List Instr) (b : Block),
      b.failing .jade = true →
      exec (.destinationSet) ⟨q, b⟩ = .next ⟨q, jadeDropsSet b⟩) ∧
  (∀ (q : List Instr) (b : Block),
      b.failing .jade = false →
      (b.alive .jade = false ∨ islandEmpty b .jade = true) →
      exec (.destinationSet) ⟨q, b⟩ = .next ⟨q, b⟩) ∧
  (∀ (q : List Instr) (b : Block),
      b.alive .jade = true →
      islandEmpty b .jade = false →
      exec (.retentionReservation) ⟨q, b⟩ = .next ⟨q, retentionReservation b⟩ ∧
        onlyChanges [.jade, .evr, .topaz, .dram, .ch, .trace] b (retentionReservation b)) ∧
  (∀ (q : List Instr) (b : Block),
      b.failing .jade = true →
      exec (.retentionReservation) ⟨q, b⟩ = .next ⟨q, jadeDropsRetention b⟩) ∧
  (∀ (q : List Instr) (b : Block),
      b.failing .jade = false →
      (b.alive .jade = false ∨ islandEmpty b .jade = true) →
      exec (.retentionReservation) ⟨q, b⟩ = .next ⟨q, b⟩) ∧
  (∀ (q : List Instr) (b : Block),
      b.alive .jade = true →
      islandEmpty b .jade = false →
      exec (.stagingReservation) ⟨q, b⟩ = .next ⟨q, stagingReservation b⟩ ∧
        onlyChanges [.jade, .evr, .topaz, .dram, .ch, .trace] b (stagingReservation b)) ∧
  (∀ (q : List Instr) (b : Block),
      b.failing .jade = true →
      exec (.stagingReservation) ⟨q, b⟩ = .next ⟨q, jadeDropsStaging b⟩) ∧
  (∀ (q : List Instr) (b : Block),
      b.failing .jade = false →
      (b.alive .jade = false ∨ islandEmpty b .jade = true) →
      exec (.stagingReservation) ⟨q, b⟩ = .next ⟨q, b⟩)

/-- PROC_SETTINGS is checked, held when its Context is OPEN and has room, and waits otherwise; PROC_SETTINGS_RESUME
holds the oldest that fits. Rules: R165, R217, 08_contexts_rings_doorbells.md. -/
def Obligations.ProcessingSettingsAreHeldOrWait : Prop :=
  (∀ (q : List Instr) (b : Block) (i off : Nat) (d : List Byte),
      b.alive .jade = true →
      b.dispatched ctrlRing i 0x07 = some d →
      b.jade.setWait = [] →
      ctxOrder b i = true →
      settingsFault (parseSettings d) = some off →
      exec (.procSettings i) ⟨q, b⟩ = .next ⟨q, finishCtrl i stMalformed frameNone 0 off b⟩) ∧
  (∀ (q : List Instr) (b : Block) (i : Nat) (d : List Byte),
      b.alive .jade = true →
      b.dispatched ctrlRing i 0x07 = some d →
      b.jade.setWait = [] →
      ctxOrder b i = true →
      settingsFault (parseSettings d) = none →
      (b.ctx (leAt d 16 1)).state ≠ .opened →
      exec (.procSettings i) ⟨q, b⟩ = .next ⟨q, finishCtrl i stContextClosed frameNone 0 0 b⟩) ∧
  (∀ (q : List Instr) (b : Block) (i : Nat) (d : List Byte),
      b.alive .jade = true →
      b.dispatched ctrlRing i 0x07 = some d →
      b.jade.setWait = [] →
      ctxOrder b i = true →
      settingsFault (parseSettings d) = none →
      (b.ctx (leAt d 16 1)).state = .opened →
      (b.ctx (leAt d 16 1)).highGen ≤ leAt d 20 4 →
      setRoom b.jade (parseSettings d) = true →
      exec (.procSettings i) ⟨q, b⟩ = .next ⟨q, finishCtrl i stOk frameNone 0 0 ((b.setCtx (leAt d 16 1) { b.ctx (leAt d 16 1) with highGen := leAt d 20 4 }).modJade (fun j => { j with
        settings := j.settings ++ [{ parseSettings d with since := b.garnet.frameNo }] }))⟩) ∧
  (∀ (q : List Instr) (b : Block) (i : Nat) (d : List Byte),
      b.alive .jade = true →
      b.dispatched ctrlRing i 0x07 = some d →
      b.jade.setWait = [] →
      ctxOrder b i = true →
      settingsFault (parseSettings d) = none →
      (b.ctx (leAt d 16 1)).state = .opened →
      (b.ctx (leAt d 16 1)).highGen ≤ leAt d 20 4 →
      setRoom b.jade (parseSettings d) = false →
      exec (.procSettings i) ⟨q, b⟩ = .next ⟨q, (b.setCtx (leAt d 16 1) { b.ctx (leAt d 16 1) with highGen := leAt d 20 4 }).modJade (fun j => { j with
        setWait := [{ set := parseSettings d, desc := i }] })⟩) ∧
  (∀ (q : List Instr) (b : Block) (w : ProcWait),
      b.alive .jade = true →
      b.jade.setWait = [w] →
      b.jade.settings = [] →
      exec (.procSettingsResume) ⟨q, b⟩ = .next ⟨q, finishCtrl w.desc stOk frameNone 0 0 { b with jade := { b.jade with
        setWait := [], settings := [{ w.set with since := b.garnet.frameNo }] } }⟩) ∧
  (∀ (q : List Instr) (b : Block) (desc : Nat),
      b.alive .jade = true →
      exec (.procSettings desc) ⟨q, b⟩ = .next ⟨q, procSettings desc b⟩ ∧
        onlyChanges [.jade, .posts, .evr, .trace, .out] b (procSettings desc b)) ∧
  (∀ (q : List Instr) (b : Block),
      b.alive .jade = true →
      exec (.procSettingsResume) ⟨q, b⟩ = .next ⟨q, procSettingsResume b⟩ ∧
        onlyChanges [.jade, .posts, .evr, .trace, .out] b (procSettingsResume b))

/-- REF_LOAD checks a picture and holds it in a free slot; REF_UNLOAD holds the removal for the next latch point;
REF_SLOT_FREED frees versions no longer used. Rules: R159, R160, R161, R162, R163. -/
def Obligations.ReferencePicturesLoadAndUnload : Prop :=
  (∀ (q : List Instr) (b : Block) (i : Nat) (d : List Byte) (k : RefKind),
      b.alive .jade = true →
      b.dispatched ctrlRing i 0x08 = some d →
      b.jade.refWait = [] →
      leAt d 17 1 = 0 →
      refKind (leAt d 16 1) = some k →
      leAt d 18 1 < 255 →
      badLength (leAt d 20 4) = false →
      misaligned (leAt d 24 8) 64 = false →
      exec (.refLoad i none) ⟨q, b⟩ = .next ⟨q, finishCtrl i stHostFault frameNone 0 0 b⟩) ∧
  (∀ (q : List Instr) (b : Block) (i : Nat) (d v : List Byte) (k : RefKind),
      b.alive .jade = true →
      b.dispatched ctrlRing i 0x08 = some d →
      b.jade.refWait = [] →
      leAt d 17 1 = 0 →
      refKind (leAt d 16 1) = some k →
      leAt d 18 1 < 255 →
      badLength (leAt d 20 4) = false →
      misaligned (leAt d 24 8) 64 = false →
      v.length ≠ leAt d 20 4 →
      exec (.refLoad i (some v)) ⟨q, b⟩ = .next ⟨q, finishCtrl i stRefInvalid frameNone 0 0 b⟩) ∧
  (∀ (q : List Instr) (b : Block) (i : Nat) (d v : List Byte) (k : RefKind),
      b.alive .jade = true →
      b.dispatched ctrlRing i 0x08 = some d →
      b.jade.refWait = [] →
      leAt d 17 1 = 0 →
      refKind (leAt d 16 1) = some k →
      leAt d 18 1 < 255 →
      badLength (leAt d 20 4) = false →
      misaligned (leAt d 24 8) 64 = false →
      v.length = leAt d 20 4 →
      refValid k (leAt d 16 1) v = true →
      refFull b.jade k (leAt d 18 1) = false →
      (refsOf b.jade k).length < refSlots k →
      exec (.refLoad i (some v)) ⟨q, b⟩ = .next ⟨q, finishCtrl i stOk frameNone 0 0 (holdRef k (leAt d 18 1) (v.drop 64)
          b)⟩) ∧
  (∀ (q : List Instr) (b : Block) (i : Nat) (d : List Byte) (k : RefKind),
      b.alive .jade = true →
      b.dispatched ctrlRing i 0x08 = some d →
      leAt d 17 1 = 1 →
      refKind (leAt d 16 1) = some k →
      leAt d 18 1 < 255 →
      (refsOf b.jade k).any (fun r => r.id == leAt d 18 1 && r.live) = true →
      exec (.refUnload i) ⟨q, b⟩ = .next ⟨q, finishCtrl i stOk frameNone 0 0
          { b with jade := { b.jade with unloads := b.jade.unloads ++ [(k, leAt d 18 1)] } }⟩) ∧
  (∀ (q : List Instr) (b : Block) (i : Nat) (d : List Byte) (k : RefKind),
      b.alive .jade = true →
      b.dispatched ctrlRing i 0x08 = some d →
      leAt d 17 1 = 1 →
      refKind (leAt d 16 1) = some k →
      leAt d 18 1 < 255 →
      (refsOf b.jade k).any (fun r => r.id == leAt d 18 1 && r.live) = false →
      exec (.refUnload i) ⟨q, b⟩ = .next ⟨q, finishCtrl i stOk frameNone 0 0 b⟩) ∧
  (∀ (q : List Instr) (b : Block),
      b.alive .jade = true →
      b.jade.refWait = [] →
      b.jade.refs ≠ [] →
      exec (.refSlotFreed) ⟨q, b⟩ = .next ⟨q,
          { b with jade := { b.jade with refs := b.jade.refs.filter (fun r => r.live || refInUse b r) } }⟩) ∧
  (∀ (q : List Instr) (b : Block) (desc : Nat) (buf : Option (List Byte)),
      b.alive .jade = true →
      exec (.refLoad desc buf) ⟨q, b⟩ = .next ⟨q, refLoad desc buf b⟩ ∧
        onlyChanges [.jade, .posts, .evr, .dram, .trace, .out] b (refLoad desc buf b)) ∧
  (∀ (q : List Instr) (b : Block) (desc : Nat),
      b.alive .jade = true →
      exec (.refUnload desc) ⟨q, b⟩ = .next ⟨q, refUnload desc b⟩ ∧
        onlyChanges [.jade, .posts, .evr, .trace, .out] b (refUnload desc b)) ∧
  (∀ (q : List Instr) (b : Block),
      b.alive .jade = true →
      exec (.refSlotFreed) ⟨q, b⟩ = .next ⟨q, refSlotFreed b⟩ ∧
        onlyChanges [.jade, .posts, .evr, .dram, .trace, .out] b (refSlotFreed b))

/-- CLR_COUNTS clears both CRC counts; a clock division is asked for from a Frame on, taken up when no older Frame may
need the full rate, and withdrawn at once. Rules: 06_correction_pipeline.md, 15_thermal_management.md. -/
def Obligations.JadeCountsAndClockDivision : Prop :=
  (∀ (q : List Instr) (b : Block),
      b.bar0 = true →
      exec (.clrCounts) ⟨q, b⟩ = .next ⟨q, { b with jade := { b.jade with crcRetried := 0, crcBad := 0 } }⟩) ∧
  (∀ (q : List Instr) (b : Block),
      b.bar0 = false →
      exec (.clrCounts) ⟨q, b⟩ = .next ⟨q, b⟩) ∧
  (∀ (q : List Instr) (b : Block) (l : List Nat),
      b.alive .jade = true →
      b.ch.berylJade = 0 :: l →
      exec (.clockDivisionRequest) ⟨q, b⟩ = .next ⟨q, { b with
        jade := { b.jade with divided := false, divReq := none }
        ch := { b.ch with berylJade := l } }⟩) ∧
  (∀ (q : List Instr) (b : Block) (n : Nat) (l : List Nat),
      b.alive .jade = true →
      b.ch.berylJade = (n + 1) :: l →
      b.jade.divided = false →
      exec (.clockDivisionRequest) ⟨q, b⟩ = .next ⟨q, { b with
        jade := { b.jade with divReq := some n }
        ch := { b.ch with berylJade := l } }⟩) ∧
  (∀ (q : List Instr) (b : Block) (n : Nat) (l : List Nat),
      b.alive .jade = true →
      b.ch.berylJade = (n + 1) :: l →
      b.jade.divided = true →
      exec (.clockDivisionRequest) ⟨q, b⟩ = .next ⟨q, { b with ch := { b.ch with berylJade := l } }⟩) ∧
  (∀ (q : List Instr) (b : Block),
      b.alive .jade = true →
      b.ch.berylJade = [] →
      exec (.clockDivisionRequest) ⟨q, b⟩ = .next ⟨q, b⟩) ∧
  (∀ (q : List Instr) (b : Block) (n : Nat),
      b.alive .jade = true →
      b.jade.divReq = some n →
      (∀ f ∈ b.jade.frames, f.snap.frame < n → f.dests.any (fun l => fits768 f.snap.l (pathBits b.jade f.snap l)) = true) →
      exec (.jadeClockDivide) ⟨q, b⟩ = .next ⟨q, { b with jade := { b.jade with divided := true, divReq := none } }⟩) ∧
  (∀ (q : List Instr) (b : Block) (n : Nat) (f : JFrame),
      b.alive .jade = true →
      b.jade.divReq = some n →
      f ∈ b.jade.frames →
      f.snap.frame < n →
      f.dests.any (fun l => fits768 f.snap.l (pathBits b.jade f.snap l)) = false →
      exec (.jadeClockDivide) ⟨q, b⟩ = .next ⟨q, b⟩) ∧
  (∀ (q : List Instr) (b : Block),
      b.alive .jade = true →
      b.jade.divReq = none →
      exec (.jadeClockDivide) ⟨q, b⟩ = .next ⟨q, b⟩) ∧
  (∀ (q : List Instr) (b : Block),
      exec (.clrCounts) ⟨q, b⟩ = .next ⟨q, clrCounts b⟩ ∧
        onlyChanges [.jade] b (clrCounts b)) ∧
  (∀ (q : List Instr) (b : Block),
      b.alive .jade = true →
      exec (.clockDivisionRequest) ⟨q, b⟩ = .next ⟨q, clockDivisionRequest b⟩ ∧
        onlyChanges [.jade, .ch, .trace] b (clockDivisionRequest b)) ∧
  (∀ (q : List Instr) (b : Block),
      b.failing .jade = true →
      exec (.clockDivisionRequest) ⟨q, b⟩ = .next ⟨q, clockDivisionRequest b⟩) ∧
  (∀ (q : List Instr) (b : Block),
      b.alive .jade = false →
      b.failing .jade = false →
      exec (.clockDivisionRequest) ⟨q, b⟩ = .next ⟨q, b⟩) ∧
  (∀ (q : List Instr) (b : Block),
      b.alive .jade = true →
      exec (.jadeClockDivide) ⟨q, b⟩ = .next ⟨q, jadeClockDivide b⟩ ∧
        onlyChanges [.jade] b (jadeClockDivide b))

/-- SEGMENT_STRIPE_TOKEN takes the next token of the Egress Merge: passed over if failed, to Onyx for a magazine, a
host-ring Stripe into its Segment. Rules: 01_architecture.md, 08_contexts_rings_doorbells.md, 12_faults_recovery_replay.md. -/
def Obligations.SegmentStripesAreStagedOrPassedOn : Prop :=
  (∀ (q : List Instr) (b : Block) (ecc : Ecc) (k : SegToken),
      b.alive .spinel = true →
      islandEmpty b .spinel = false →
      egressNext b = some k →
      b.accepts .spinel k.sent = true →
      k.isFailed = false →
      b.spinel.failed.contains k.frame = true →
      Completes (.segmentStripeToken ecc) ⟨q, b⟩ (fun t =>
        t.ch.jadeSpinel = b.ch.jadeSpinel.erase k ∧
        t.ch.egressDue = b.ch.egressDue.erase k.tag ∧
        t.ch.spinelOnyx = b.ch.spinelOnyx ∧
        onlyChanges [.ch, .trace] b t)) ∧
  (∀ (q : List Instr) (b : Block) (ecc : Ecc) (k : SegToken),
      b.alive .spinel = true →
      islandEmpty b .spinel = false →
      egressNext b = some k →
      b.accepts .spinel k.sent = true →
      k.isFailed = false →
      b.spinel.failed.contains k.frame = false →
      k.magazine = true →
      Completes (.segmentStripeToken ecc) ⟨q, b⟩ (fun t =>
        t.ch.jadeSpinel = b.ch.jadeSpinel.erase k ∧
        t.ch.egressDue = b.ch.egressDue.erase k.tag ∧
        t.ch.spinelOnyx = b.ch.spinelOnyx ++ [{ k with sent := b.stamp .onyx }] ∧
        onlyChanges [.ch, .trace] b t)) ∧
  (∀ (q : List Instr) (b : Block) (ecc : Ecc) (k : SegToken),
      b.alive .spinel = true →
      islandEmpty b .spinel = false →
      egressNext b = some k →
      b.accepts .spinel k.sent = true →
      k.isFailed = false →
      b.spinel.failed.contains k.frame = false →
      k.magazine = false →
      (segGet b k.frame k.index).isSome = true →
      exec (.segmentStripeToken ecc) ⟨q, b⟩ = .next ⟨q, hostToken k ecc (passToken k b)⟩) ∧
  (∀ (q : List Instr) (b : Block) (ecc : Ecc) (k : SegToken),
      b.alive .spinel = true →
      islandEmpty b .spinel = false →
      egressNext b = some k →
      b.accepts .spinel k.sent = true →
      k.isFailed = false →
      b.spinel.failed.contains k.frame = false →
      k.magazine = false →
      segGet b k.frame k.index = none →
      Completes (.segmentStripeToken ecc) ⟨q, b⟩ (fun t =>
        t.ch.jadeSpinel = b.ch.jadeSpinel.erase k ∧
        t.ch.egressDue = b.ch.egressDue.erase k.tag ∧
        t.ch.spinelOnyx = b.ch.spinelOnyx ∧
        onlyChanges [.ch, .trace] b t)) ∧
  (∀ (q : List Instr) (b : Block) (k : SegToken) (g : SpinelSeg),
      b.alive .spinel = true →
      islandEmpty b .spinel = false →
      egressNext b = some k →
      b.accepts .spinel k.sent = true →
      k.isFailed = false →
      b.spinel.failed.contains k.frame = false →
      k.magazine = false →
      b.spinel.segs = [g] →
      g.frame = k.frame →
      g.dest.index = k.index →
      g.dropped = false →
      g.stripes.any (fun e => e.1 == k.stripe) = false →
      (winGet b k.frame).isSome = true →
      b.takes .opal = true →
      b.ch.ledgerNotes = [] →
      b.hostUp = false →
      Completes (.segmentStripeToken .ok) ⟨q, b⟩ (fun t =>
        t.ch.jadeSpinel = b.ch.jadeSpinel.erase k ∧
        t.ch.spinelOnyx = b.ch.spinelOnyx ∧
        t.spinel = { b.spinel with segs := [{ g with stripes := g.stripes ++ [(k.stripe, k.marks)], whole := g.whole || k.header }] } ∧
        (t.opal.window = b.opal.window.map (fun w => if w.frame = k.frame then
            { w with dests := w.dests.map (fun d => if d.dest.index = k.index then
                { d with
                  ready := true, marks := d.marks ||| k.marks, durability := max d.durability 0
                  stripeMap := d.stripeMap ||| (if k.stripe != 255 && !isMissing k.marks then 2 ^ k.stripe else 0) }
              else d) }
          else w)) ∧
        onlyChanges [.spinel, .opal, .posts, .evr, .topaz, .ch, .trace, .out] b t)) ∧
  (∀ (q : List Instr) (b : Block) (ecc : Ecc) (k : SegToken),
      b.alive .spinel = true →
      islandEmpty b .spinel = false →
      egressNext b = some k →
      b.accepts .spinel k.sent = true →
      k.isFailed = true →
      exec (.segmentStripeToken ecc) ⟨q, b⟩ = .next ⟨q, passFailed k b⟩) ∧
  (∀ (q : List Instr) (b : Block) (ecc : Ecc) (k : SegToken),
      b.alive .spinel = true →
      islandEmpty b .spinel = false →
      egressNext b = some k →
      b.accepts .spinel k.sent = false →
      exec (.segmentStripeToken ecc) ⟨q, b⟩ = .next ⟨q, b⟩) ∧
  (∀ (q : List Instr) (b : Block) (ecc : Ecc),
      b.alive .spinel = true →
      islandEmpty b .spinel = false →
      egressNext b = none →
      exec (.segmentStripeToken ecc) ⟨q, b⟩ = .next ⟨q, b⟩) ∧
  (∀ (q : List Instr) (b : Block) (ecc : Ecc) (d : Nat × Nat) (l : List (Nat × Nat)),
      b.alive .spinel = true →
      islandEmpty b .spinel = false →
      b.ch.egressDue = d :: l →
      (∀ k ∈ b.ch.jadeSpinel, k.isFailed = false ∧ k.tag ≠ d ∧ k.tag ∈ l) →
      exec (.segmentStripeToken ecc) ⟨q, b⟩ = .next ⟨q, b⟩) ∧
  (∀ (q : List Instr) (b : Block) (ecc : Ecc),
      b.alive .spinel = true →
      islandEmpty b .spinel = false →
      exec (.segmentStripeToken ecc) ⟨q, b⟩ = .next ⟨q, segmentStripeToken ecc b⟩ ∧
        onlyChanges [.spinel, .opal, .posts, .evr, .topaz, .ch, .trace, .out] b (segmentStripeToken ecc b)) ∧
  (∀ (q : List Instr) (b : Block) (ecc : Ecc),
      b.failing .spinel = true →
      exec (.segmentStripeToken ecc) ⟨q, b⟩ = .next ⟨q, spinelFails (segmentStripeToken ecc) b⟩) ∧
  (∀ (q : List Instr) (b : Block) (ecc : Ecc),
      b.failing .spinel = false →
      (b.alive .spinel = false ∨ islandEmpty b .spinel = true) →
      exec (.segmentStripeToken ecc) ⟨q, b⟩ = .next ⟨q, b⟩)

/-- LATCH_NOTICE_SPINEL reserves staging for a host-ring Destination, or decides STAGING_FULL, and binds to the Frame of
a KEYED one the key of its latch point. Rules: 01_architecture.md, 08_contexts_rings_doorbells.md, 11_encryption_ownership.md. -/
def Obligations.LatchNoticesReserveStagingAndBindKeys : Prop :=
  (∀ (q : List Instr) (b : Block) (n : LatchNotice) (l : List LatchNotice),
      b.alive .spinel = true →
      islandEmpty b .spinel = false →
      b.ch.noticeSpinel = n :: l →
      n.snap = none →
      exec (.latchNoticeSpinel 0) ⟨q, b⟩ = .next ⟨q, { b with ch := { b.ch with noticeSpinel := l } }⟩) ∧
  (∀ (q : List Instr) (b : Block) (n : LatchNotice) (l : List LatchNotice) (s : Snapshot),
      b.alive .spinel = true →
      islandEmpty b .spinel = false →
      b.ch.noticeSpinel = n :: l →
      n.snap = some s →
      b.ch.spinelDests.any (fun e => s.frame ≤ e.1) = false →
      exec (.latchNoticeSpinel 0) ⟨q, b⟩ = .next ⟨q, b⟩) ∧
  (∀ (q : List Instr) (b : Block) (n : LatchNotice) (l : List LatchNotice) (s : Snapshot),
      b.alive .spinel = true →
      islandEmpty b .spinel = false →
      b.ch.noticeSpinel = n :: l →
      n.snap = some s →
      b.ch.spinelDests.any (fun e => e.1 == s.frame) = false →
      b.ch.spinelDests.any (fun e => s.frame < e.1) = true →
      exec (.latchNoticeSpinel 0) ⟨q, b⟩ = .next ⟨q, { b with ch := { b.ch with noticeSpinel := l } }⟩) ∧
  (∀ (q : List Instr) (b : Block) (n : LatchNotice) (l : List LatchNotice) (s : Snapshot) (m : Nat) (ds : List Dest) (y :
      Block),
      b.alive .spinel = true →
      islandEmpty b .spinel = false →
      b.ch.noticeSpinel = n :: l →
      n.snap = some s →
      b.ch.spinelDests.find? (fun e => e.1 == s.frame) = some (m, ds) →
      y = missedInSpinel s.frame { b with ch := { b.ch with noticeSpinel := l } } →
      exec (.latchNoticeSpinel 0) ⟨q, b⟩ = .next ⟨q, (fun z => if z.spinel.failed.contains s.frame then failInSpinel s.frame markFailStop z else z)
        (takeSpinelNotes (bindInSpinel s.frame ds (y.modCh (fun c => { c with spinelDests := c.spinelDests.filter (fun e => s.frame < e.1) }))))⟩) ∧
  (∀ (q : List Instr) (b : Block) (n : LatchNotice) (l : List LatchNotice) (s : Snapshot) (d : Dest) (a : Nat),
      b.alive .spinel = true →
      islandEmpty b .spinel = false →
      b.ch.noticeSpinel = n :: l →
      n.snap = some s →
      b.ch.spinelDests = [(s.frame, [d])] →
      b.spinel.failed.contains s.frame = false →
      b.ch.opalSpinel = [] →
      d.magazine = false →
      d.keyed = false →
      allocate stagingBase stagingSize d.segLen (b.spinel.staging.map (fun r => (r.2.2.1, r.2.2.2))) = some a →
      exec (.latchNoticeSpinel 0) ⟨q, b⟩ = .next ⟨q, { b with
        spinel := { b.spinel with
          staging := b.spinel.staging ++ [(s.frame, d.index, a, d.segLen)]
          segs := b.spinel.segs ++ [⟨s.frame, d, a, [], false, none, [], false, false⟩] }
        ch := { b.ch with
          noticeSpinel := l, spinelDests := [], spinelJade := b.ch.spinelJade ++ [(s.frame, d.index, some a)] } }⟩) ∧
  (∀ (q : List Instr) (b : Block) (n : LatchNotice) (l : List LatchNotice) (s : Snapshot) (d : Dest),
      b.alive .spinel = true →
      islandEmpty b .spinel = false →
      b.ch.noticeSpinel = n :: l →
      n.snap = some s →
      b.ch.spinelDests = [(s.frame, [d])] →
      b.spinel.failed.contains s.frame = false →
      b.ch.opalSpinel = [] →
      (winGet b s.frame).isSome = true →
      b.takes .opal = true →
      b.ch.ledgerNotes = [] →
      d.magazine = false →
      d.keyed = false →
      allocate stagingBase stagingSize d.segLen (b.spinel.staging.map (fun r => (r.2.2.1, r.2.2.2))) = none →
      exec (.latchNoticeSpinel 0) ⟨q, b⟩ = .next ⟨q, { b with
        opal := { b.opal with window := b.opal.window.map (fun x => if x.frame = s.frame then
          { x with dests := x.dests.map (fun e => if e.dest.index = d.index then decide_ .stagingFull e else e) } else x) }
        ch := { b.ch with
          noticeSpinel := l, spinelDests := [], spinelJade := b.ch.spinelJade ++ [(s.frame, d.index, none)]
          kept := { b.ch.kept with ledgerNotes := b.ch.kept.ledgerNotes ++ [(s.frame, .outcome d.index .stagingFull)] } } }⟩) ∧
  (∀ (q : List Instr) (b : Block) (n : LatchNotice) (l : List LatchNotice) (s : Snapshot) (d : Dest),
      b.alive .spinel = true →
      islandEmpty b .spinel = false →
      b.ch.noticeSpinel = n :: l →
      n.snap = some s →
      b.ch.spinelDests = [(s.frame, [d])] →
      b.spinel.failed.contains s.frame = false →
      b.ch.opalSpinel = [] →
      d.magazine = true →
      d.keyed = true →
      b.spinel.binds.any (fun k => k.frame == s.frame && k.ctx == d.ctx) = false →
      b.spinel.keyOpen.any (fun e => e.ctx == d.ctx && e.since ≤ s.frame) = false →
      exec (.latchNoticeSpinel 0) ⟨q, b⟩ = .next ⟨q, { b with
        spinel := { b.spinel with binds := b.spinel.binds ++ [⟨s.frame, d.ctx, (slotGet b d.ctx).current, false⟩] }
        ch := { b.ch with noticeSpinel := l, spinelDests := [] } }⟩) ∧
  (∀ (q : List Instr) (b : Block) (n : LatchNotice) (l : List LatchNotice) (s : Snapshot) (d : Dest) (e : KeyOpen),
      b.alive .spinel = true →
      islandEmpty b .spinel = false →
      b.ch.noticeSpinel = n :: l →
      n.snap = some s →
      b.ch.spinelDests = [(s.frame, [d])] →
      b.spinel.failed.contains s.frame = false →
      b.ch.opalSpinel = [] →
      d.magazine = true →
      d.keyed = true →
      b.spinel.binds = [] →
      b.spinel.keyOpen = [e] →
      e.ctx = d.ctx →
      e.since ≤ s.frame →
      d.ctx < 256 →
      exec (.latchNoticeSpinel 0) ⟨q, b⟩ = .next ⟨q, (finishCtrl e.desc stOk s.frame (keyCheck e.key) 0 (slotSet d.ctx
          { slotGet b d.ctx with state := .rolling, current := e.key, previous := (slotGet b d.ctx).current } { b with
            spinel := { b.spinel with keyOpen := [] }
            ch := { b.ch with noticeSpinel := l, spinelDests := [] } })).modSpinel (fun x => { x with
              binds := [⟨s.frame, d.ctx, e.key, false⟩] })⟩) ∧
  (∀ (q : List Instr) (b : Block) (k : Nat) (n : LatchNotice) (l : List LatchNotice),
      b.alive .spinel = true →
      islandEmpty b .spinel = false →
      k % 65536 ≠ 0 →
      b.ch.noticeSpinel.drop k = n :: l →
      n.snap = none →
      exec (.latchNoticeSpinel k) ⟨q, b⟩ = .next ⟨q, (eventGap .spinel
          { b with ch := { b.ch with noticeSpinel := n :: l } }).modCh (fun c => { c with noticeSpinel := l })⟩) ∧
  (∀ (q : List Instr) (b : Block) (k : Nat),
      b.alive .spinel = true →
      islandEmpty b .spinel = false →
      b.ch.noticeSpinel.length ≤ k →
      exec (.latchNoticeSpinel k) ⟨q, b⟩ = .next ⟨q, b⟩) ∧
  (∀ (q : List Instr) (b : Block) (lost : Nat := 0),
      b.alive .spinel = true →
      islandEmpty b .spinel = false →
      exec (.latchNoticeSpinel lost) ⟨q, b⟩ = .next ⟨q, latchNoticeSpinel lost b⟩ ∧
        onlyChanges [.spinel, .opal, .posts, .evr, .topaz, .ch, .trace, .out] b (latchNoticeSpinel lost b)) ∧
  (∀ (q : List Instr) (b : Block) (lost : Nat := 0),
      b.failing .spinel = true →
      exec (.latchNoticeSpinel lost) ⟨q, b⟩ = .next ⟨q, spinelNoticeFails lost (latchNoticeSpinel lost) b⟩) ∧
  (∀ (q : List Instr) (b : Block) (lost : Nat := 0),
      b.failing .spinel = false →
      (b.alive .spinel = false ∨ islandEmpty b .spinel = true) →
      exec (.latchNoticeSpinel lost) ⟨q, b⟩ = .next ⟨q, b⟩)

/-- KEY_LOAD is refused for its fields, for disabled import, a busy Context, an unreadable or invalid buffer, and
otherwise loads its key. Rules: R294, R295, R296, R297, R291. -/
def Obligations.KeyLoadsAreCheckedInOrder : Prop :=
  (∀ (q : List Instr) (b : Block) (i : Nat) (v : Option (List Byte)) (d : List Byte),
      b.alive .spinel = true →
      b.dispatched ctrlRing i 0x09 = some d →
      b.spinel.keyWait = [] →
      b.spinel.keyOpen = [] →
      ctxOrder b i = true →
      leAt d 20 4 ≠ 72 →
      exec (.keyLoad i v) ⟨q, b⟩ = .next ⟨q, finishCtrl i stMalformed frameNone 0 20 b⟩) ∧
  (∀ (q : List Instr) (b : Block) (i : Nat) (v : Option (List Byte)) (d : List Byte),
      b.alive .spinel = true →
      b.dispatched ctrlRing i 0x09 = some d →
      b.spinel.keyWait = [] →
      b.spinel.keyOpen = [] →
      ctxOrder b i = true →
      leAt d 20 4 = 72 →
      misaligned (leAt d 24 8) 64 = false →
      b.spinel.import_ = false →
      exec (.keyLoad i v) ⟨q, b⟩ = .next ⟨q, finishCtrl i stKeyDisabled frameNone 0 0 b⟩) ∧
  (∀ (q : List Instr) (b : Block) (i : Nat) (v : Option (List Byte)) (d : List Byte),
      b.alive .spinel = true →
      b.dispatched ctrlRing i 0x09 = some d →
      b.spinel.keyWait = [] →
      b.spinel.keyOpen = [] →
      ctxOrder b i = true →
      leAt d 20 4 = 72 →
      misaligned (leAt d 24 8) 64 = false →
      b.spinel.import_ = true →
      (b.ctx (leAt d 16 1)).state = .closing →
      exec (.keyLoad i v) ⟨q, b⟩ = .next ⟨q, finishCtrl i stContextBusy frameNone 0 0 b⟩) ∧
  (∀ (q : List Instr) (b : Block) (i : Nat) (d : List Byte),
      b.alive .spinel = true →
      b.dispatched ctrlRing i 0x09 = some d →
      b.spinel.keyWait = [] →
      b.spinel.keyOpen = [] →
      ctxOrder b i = true →
      leAt d 20 4 = 72 →
      misaligned (leAt d 24 8) 64 = false →
      b.spinel.import_ = true →
      (b.ctx (leAt d 16 1)).state ≠ .closing →
      (slotGet b (leAt d 16 1)).state ≠ .retiring →
      exec (.keyLoad i none) ⟨q, b⟩ = .next ⟨q, finishCtrl i stHostFault frameNone 0 0 b⟩) ∧
  (∀ (q : List Instr) (b : Block) (i : Nat) (d v : List Byte),
      b.alive .spinel = true →
      b.dispatched ctrlRing i 0x09 = some d →
      b.spinel.keyWait = [] →
      b.spinel.keyOpen = [] →
      ctxOrder b i = true →
      leAt d 20 4 = 72 →
      misaligned (leAt d 24 8) 64 = false →
      b.spinel.import_ = true →
      (b.ctx (leAt d 16 1)).state ≠ .closing →
      (slotGet b (leAt d 16 1)).state ≠ .retiring →
      b.spinel.kek.bind (fun k => unwrapKey k v) = none →
      exec (.keyLoad i (some v)) ⟨q, b⟩ = .next ⟨q, finishCtrl i stKeyInvalid frameNone 0 0 b⟩) ∧
  (∀ (q : List Instr) (b : Block) (i : Nat) (d v key : List Byte),
      b.alive .spinel = true →
      b.dispatched ctrlRing i 0x09 = some d →
      b.spinel.keyWait = [] →
      b.spinel.keyOpen = [] →
      ctxOrder b i = true →
      leAt d 20 4 = 72 →
      misaligned (leAt d 24 8) 64 = false →
      b.spinel.import_ = true →
      (b.ctx (leAt d 16 1)).state ≠ .closing →
      (slotGet b (leAt d 16 1)).state ≠ .retiring →
      b.spinel.kek.bind (fun k => unwrapKey k v) = some key →
      key.take 32 ≠ key.drop 32 →
      (slotGet b (leAt d 16 1)).state = .rolling →
      exec (.keyLoad i (some v)) ⟨q, b⟩ = .next ⟨q,
          { b with spinel := { b.spinel with keyWait := [⟨leAt d 16 1, key, i⟩] } }⟩) ∧
  (∀ (q : List Instr) (b : Block) (i : Nat) (d v key : List Byte),
      b.alive .spinel = true →
      b.dispatched ctrlRing i 0x09 = some d →
      b.spinel.keyWait = [] →
      b.spinel.keyOpen = [] →
      ctxOrder b i = true →
      leAt d 20 4 = 72 →
      misaligned (leAt d 24 8) 64 = false →
      b.spinel.import_ = true →
      b.spinel.kek.bind (fun k => unwrapKey k v) = some key →
      key.take 32 ≠ key.drop 32 →
      (b.ctx (leAt d 16 1)).state = .closed →
      (slotGet b (leAt d 16 1)).state = .empty →
      exec (.keyLoad i (some v)) ⟨q, b⟩ = .next ⟨q, finishCtrl i stOk frameNone (keyCheck key) 0 (slotSet (leAt d 16 1) { slotGet b (leAt d 16 1) with
        state := .loaded, current := key, previous := [] } b)⟩) ∧
  (∀ (q : List Instr) (b : Block) (i : Nat) (d v key : List Byte) (x : KeySlot),
      b.alive .spinel = true →
      b.dispatched ctrlRing i 0x09 = some d →
      b.spinel.keyWait = [] →
      b.spinel.keyOpen = [] →
      ctxOrder b i = true →
      leAt d 20 4 = 72 →
      misaligned (leAt d 24 8) 64 = false →
      b.spinel.import_ = true →
      b.spinel.kek.bind (fun k => unwrapKey k v) = some key →
      key.take 32 ≠ key.drop 32 →
      (b.ctx (leAt d 16 1)).state = .closed →
      slotGet b (leAt d 16 1) = x →
      x.state = .loaded →
      exec (.keyLoad i (some v)) ⟨q, b⟩ = .next ⟨q, finishCtrl i stOk frameNone (keyCheck key) 0 (slotSet (leAt d 16 1) { x with
        state := .rolling, current := key, previous := x.current } { b with spinel := { b.spinel with
        binds := b.spinel.binds.map (fun k => if k.ctx = leAt d 16 1 then { k with old := true } else k) } })⟩) ∧
  (∀ (q : List Instr) (b : Block) (i : Nat) (d v key : List Byte),
      b.alive .spinel = true →
      b.dispatched ctrlRing i 0x09 = some d →
      b.spinel.keyWait = [] →
      b.spinel.keyOpen = [] →
      ctxOrder b i = true →
      leAt d 20 4 = 72 →
      misaligned (leAt d 24 8) 64 = false →
      b.spinel.import_ = true →
      b.spinel.kek.bind (fun k => unwrapKey k v) = some key →
      key.take 32 ≠ key.drop 32 →
      ((b.ctx (leAt d 16 1)).state = .opened ∨ (b.ctx (leAt d 16 1)).state = .stopped) →
      (b.ctx (leAt d 16 1)).keyed = true →
      (slotGet b (leAt d 16 1)).state = .loaded →
      exec (.keyLoad i (some v)) ⟨q, b⟩ = .next ⟨q,
          { b with spinel := { b.spinel with keyOpen := [⟨leAt d 16 1, i, key, nextLatch b⟩] } }⟩) ∧
  (∀ (q : List Instr) (b : Block) (i : Nat) (d v key : List Byte) (e : KeyOpen),
      b.alive .spinel = true →
      b.dispatched ctrlRing i 0x09 = some d →
      b.spinel.keyWait = [] →
      b.spinel.keyOpen = [e] →
      e.desc ≠ i →
      e.ctx = leAt d 16 1 →
      ctxOrder b i = true →
      leAt d 20 4 = 72 →
      misaligned (leAt d 24 8) 64 = false →
      b.spinel.import_ = true →
      (b.ctx (leAt d 16 1)).state ≠ .closing →
      (slotGet b (leAt d 16 1)).state ≠ .retiring →
      b.spinel.kek.bind (fun k => unwrapKey k v) = some key →
      key.take 32 ≠ key.drop 32 →
      exec (.keyLoad i (some v)) ⟨q, b⟩ = .next ⟨q,
          { b with spinel := { b.spinel with keyWait := [⟨leAt d 16 1, key, i⟩] } }⟩) ∧
  (∀ (q : List Instr) (b : Block) (desc : Nat) (buf : Option (List Byte)),
      b.alive .spinel = true →
      exec (.keyLoad desc buf) ⟨q, b⟩ = .next ⟨q, keyLoad desc buf b⟩ ∧
        onlyChanges [.spinel, .posts, .evr, .trace, .out] b (keyLoad desc buf b))

/-- KEY_RELEASE releases each key that no Frame needs and lets loads that waited go on; ZEROISE empties a slot of a
CLOSED Context, or is refused. Rules: 08_contexts_rings_doorbells.md, 11_encryption_ownership.md. -/
def Obligations.KeysAreReleasedAndZeroised : Prop :=
  (∀ (q : List Instr) (b : Block),
      b.alive .spinel = true →
      b.spinel.keyWait = [] →
      exec (.keyRelease) ⟨q, b⟩ = .next ⟨q, { b with spinel := { b.spinel with
        binds := b.spinel.binds.filter (bindLive b)
        slots := Vector.ofFn (fun j => releaseSlot (b.spinel.binds.filter (bindLive b)) j.val (mayBind b (b.spinel.slots.get j)) (b.spinel.slots.get j)) } }⟩) ∧
  (∀ (q : List Instr) (b : Block) (y : Block),
      b.alive .spinel = true →
      y = { b with spinel := { b.spinel with
        binds := b.spinel.binds.filter (bindLive b)
        slots := Vector.ofFn (fun j => releaseSlot (b.spinel.binds.filter (bindLive b)) j.val (mayBind b
            (b.spinel.slots.get j)) (b.spinel.slots.get j)) } } →
      exec (.keyRelease) ⟨q, b⟩ = .next ⟨q, (y.spinel.keyWait.filter (fun w => (slotGet y w.ctx).previous.isEmpty && !loadOpen y w.ctx)).foldl
        (fun x w => checkKey w.ctx w.desc (some w.key) x) { y with spinel := { y.spinel with
          keyWait := y.spinel.keyWait.filter (fun w => !((slotGet y w.ctx).previous.isEmpty && !loadOpen y w.ctx)) } }⟩) ∧
  (∀ (q : List Instr) (b : Block) (c : Fin 256),
      b.alive .spinel = true →
      b.spinel.keyWait = [] →
      (b.spinel.slots.get c).state = .rolling →
      b.spinel.binds = [] →
      Completes (.keyRelease) ⟨q, b⟩ (fun t =>
        t.spinel.slots.get c = { b.spinel.slots.get c with state := .loaded, previous := [] } ∧
        t.spinel.binds = [] ∧
        onlyChanges [.spinel, .posts, .evr, .trace, .out] b t)) ∧
  (∀ (q : List Instr) (b : Block) (w : Word),
      b.alive .spinel = true →
      b.bar0 = true →
      bitsOf w.toNat 23 16 = 0xA5 →
      bitOf w.toNat 8 = false →
      (b.ctx (bitsOf w.toNat 7 0)).state = .closed →
      (slotGet b (bitsOf w.toNat 7 0)).state ≠ .retiring →
      exec (.zeroise w) ⟨q, b⟩ = .next ⟨q,
          { b with spinel := { b.spinel with refused := false, slots := vset b.spinel.slots (bitsOf w.toNat 7 0) emptySlot } }⟩) ∧
  (∀ (q : List Instr) (b : Block) (w : Word),
      b.alive .spinel = true →
      b.bar0 = true →
      bitsOf w.toNat 23 16 = 0xA5 →
      bitOf w.toNat 8 = false →
      ((b.ctx (bitsOf w.toNat 7 0)).state ≠ .closed ∨ (slotGet b (bitsOf w.toNat 7 0)).state = .retiring) →
      exec (.zeroise w) ⟨q, b⟩ = .next ⟨q, { b with spinel := { b.spinel with refused := true } }⟩) ∧
  (∀ (q : List Instr) (b : Block) (w : Word),
      b.alive .spinel = true →
      b.bar0 = true →
      bitsOf w.toNat 23 16 = 0xA5 →
      bitOf w.toNat 8 = true →
      exec (.zeroise w) ⟨q, b⟩ = .next ⟨q, (List.range 256).foldl zeroiseSlot
          { b with spinel := { b.spinel with refused := false } }⟩) ∧
  (∀ (q : List Instr) (b : Block) (w : Word),
      b.alive .spinel = true →
      b.bar0 = true →
      bitsOf w.toNat 23 16 ≠ 0xA5 →
      exec (.zeroise w) ⟨q, b⟩ = .next ⟨q, { b with spinel := { b.spinel with refused := false } }⟩) ∧
  (∀ (q : List Instr) (b : Block) (w : Word),
      b.alive .spinel = true →
      b.bar0 = false →
      exec (.zeroise w) ⟨q, b⟩ = .next ⟨q, b⟩) ∧
  (∀ (q : List Instr) (b : Block),
      b.alive .spinel = true →
      exec (.keyRelease) ⟨q, b⟩ = .next ⟨q, keyRelease b⟩ ∧
        onlyChanges [.spinel, .posts, .evr, .trace, .out] b (keyRelease b)) ∧
  (∀ (q : List Instr) (b : Block) (w : Word),
      b.alive .spinel = true →
      exec (.zeroise w) ⟨q, b⟩ = .next ⟨q, zeroise w b⟩ ∧
        onlyChanges [.spinel] b (zeroise w b)) ∧
  (∀ (q : List Instr) (b : Block) (w : Word),
      b.failing .spinel = true →
      exec (.zeroise w) ⟨q, b⟩ = .next ⟨q, zeroise w b⟩) ∧
  (∀ (q : List Instr) (b : Block) (w : Word),
      b.alive .spinel = false →
      b.failing .spinel = false →
      exec (.zeroise w) ⟨q, b⟩ = .next ⟨q, b⟩)

/-- POLL and POLL_READ_TIMEOUT count failed polls; a poll that returns takes the producer index; DESCRIPTOR_FETCHED
dispatches what it brings or tries once more. Rules: 08_contexts_rings_doorbells.md. -/
def Obligations.PollsAndFetchesReadTheHost : Prop :=
  (∀ (q : List Instr) (b : Block),
      b.alive .opal = true →
      polls b = true →
      b.opal.failRun ≠ 7 →
      exec (.poll none) ⟨q, b⟩ = .next ⟨q, { b with
        opal := { b.opal with failRun := b.opal.failRun + 1 }
        out := { b.out with reads := (doorbellBase b, 64) :: b.out.reads } }⟩) ∧
  (∀ (q : List Instr) (b : Block),
      b.alive .opal = true →
      polls b = true →
      b.opal.failRun = 7 →
      exec (.poll none) ⟨q, b⟩ = .next ⟨q, postEvent evDoorbellFault frameNone (evData [8, 0]) { b with
        opal := { b.opal with failRun := 8 }
        out := { b.out with reads := (doorbellBase b, 64) :: b.out.reads } }⟩) ∧
  (∀ (q : List Instr) (b : Block),
      b.alive .opal = true →
      polls b = true →
      b.opal.failRun ≠ 7 →
      exec (.pollReadTimeout) ⟨q, b⟩ = .next ⟨q, { b with opal := { b.opal with failRun := b.opal.failRun + 1 } }⟩) ∧
  (∀ (q : List Instr) (b : Block) (p : List Byte),
      b.alive .opal = true →
      polls b = true →
      b.beryl.evr.mode ≠ 2 →
      b.opal.failRun < 8 →
      fetching b.opal.ctrl = true →
      indexFaulty b.opal.ctrl.sqEntries b.opal.ctrl.done (pageWord p 32) = false →
      Completes (.poll (some p)) ⟨q, b⟩ (fun t =>
        t.opal.failRun = 0 ∧
        t.opal.ctrl.pi = indexLinear b.opal.ctrl.sqEntries (pageWord p 32) ∧
        pollReads b p ++ b.out.reads <:+ t.out.reads ∧
        onlyChanges [.opal, .posts, .evr, .ch, .trace, .out, .fresh] b t)) ∧
  (∀ (q : List Instr) (b : Block),
      b.alive .opal = true →
      polls b = true →
      b.beryl.evr.mode ≠ 2 →
      fetchRoom b 256 ≠ 0 →
      b.opal.ctrl.retried = false →
      exec (.descriptorFetched 256 none) ⟨q, b⟩ = .next ⟨q, { b with
        opal := { b.opal with ctrl := { b.opal.ctrl with retried := true } }
        out := { b.out with reads := sqReads b.opal.ctrl (fetchRoom b 256) ++ b.out.reads } }⟩) ∧
  (∀ (q : List Instr) (b : Block) (d : List Byte),
      b.alive .opal = true →
      polls b = true →
      b.beryl.evr.mode ≠ 2 →
      fetchRoom b 256 ≠ 0 →
      b.opal.ctrl.flight = [] →
      b.opal.ghosts = [] →
      b.opal.events = [] →
      b.opal.ctrl.faultRec = none →
      descOwner 256 (descType d) = some .opal →
      b.committed .opal = true →
      islandEmpty b .opal = false →
      Completes (.descriptorFetched 256 (some [d])) ⟨q, b⟩ (fun t =>
        t.opal.ctrl.flight = [⟨b.opal.ctrl.starts * 2 ^ 18 + b.opal.ctrl.next, d, .dispatched, dispatchGen b 256 d⟩] ∧
        t.opal.ctrl.next = (b.opal.ctrl.next + 1) % (2 * b.opal.ctrl.sqEntries) ∧
        onlyChanges [.opal, .posts, .evr, .trace, .out] b t)) ∧
  (∀ (q : List Instr) (b : Block),
      b.alive .opal = true →
      polls b = true →
      b.beryl.evr.mode ≠ 2 →
      fetchRoom b 256 ≠ 0 →
      b.opal.ctrl.retried = true →
      exec (.descriptorFetched 256 none) ⟨q, b⟩ = .next ⟨q, serveRing 256 { b with
        opal := { b.opal with ctrl := { b.opal.ctrl with faultRec := some (stHostFault, indexWord b.opal.ctrl.sqEntries b.opal.ctrl.next, 2) } }
        out := { b.out with reads := sqReads b.opal.ctrl (fetchRoom b 256) ++ b.out.reads } }⟩) ∧
  (∀ (q : List Instr) (b : Block) (x : Option (List (List Byte))),
      b.alive .opal = true →
      polls b = true →
      b.beryl.evr.mode ≠ 2 →
      fetchRoom b 256 = 0 →
      exec (.descriptorFetched 256 x) ⟨q, b⟩ = .next ⟨q, b⟩) ∧
  (∀ (q : List Instr) (b : Block) (r : Nat) (x : Option (List (List Byte))),
      b.alive .opal = true →
      r < 256 →
      nextServed b ≠ some r →
      exec (.descriptorFetched r x) ⟨q, b⟩ = .next ⟨q, b⟩) ∧
  (∀ (q : List Instr) (b : Block) (x : Option (List Byte)),
      b.alive .opal = true →
      polls b = false →
      exec (.poll x) ⟨q, b⟩ = .next ⟨q, b⟩) ∧
  (∀ (q : List Instr) (b : Block),
      b.alive .opal = true →
      polls b = false →
      exec (.pollReadTimeout) ⟨q, b⟩ = .next ⟨q, b⟩) ∧
  (∀ (q : List Instr) (b : Block) (page : Option (List Byte)),
      b.alive .opal = true →
      exec (.poll page) ⟨q, b⟩ = .next ⟨q, poll page b⟩ ∧
        onlyChanges [.opal, .posts, .evr, .ch, .trace, .out, .fresh] b (poll page b)) ∧
  (∀ (q : List Instr) (b : Block),
      b.alive .opal = true →
      exec (.pollReadTimeout) ⟨q, b⟩ = .next ⟨q, pollReadTimeout b⟩ ∧
        onlyChanges [.opal, .posts, .out] b (pollReadTimeout b)) ∧
  (∀ (q : List Instr) (b : Block) (r : Nat) (data : Option (List (List Byte))),
      b.alive .opal = true →
      exec (.descriptorFetched r data) ⟨q, b⟩ = .next ⟨q, descriptorFetched r data b⟩ ∧
        onlyChanges [.opal, .posts, .evr, .trace, .out] b (descriptorFetched r data b))

/-- A NOP completes OK; alone in flight with room in the completion ring, its 32-byte record is written there with the
phase of the pass. Rules: 08_contexts_rings_doorbells.md. -/
def Obligations.CompletionsAreWrittenInRingOrder : Prop :=
  (∀ (q : List Instr) (b : Block) (r i : Nat) (d : List Byte),
      b.alive .opal = true →
      b.dispatched r i 0x00 = some d →
      exec (.nop r i) ⟨q, b⟩ = .next ⟨q, finish r i stOk frameNone 0 0 b⟩) ∧
  (∀ (q : List Instr) (b : Block) (i g : Nat) (d : List Byte),
      b.alive .opal = true →
      b.hostUp = true →
      b.opal.ctrl.flight = [⟨i, d, .dispatched, g⟩] →
      b.accepts .opal g = true →
      b.opal.ghosts = [] →
      b.opal.events = [] →
      b.opal.ctrl.faultRec = none →
      b.opal.ctrl.state = .running →
      b.opal.ctrl.room = true →
      descType d = 0 →
      Completes (.nop 256 i) ⟨q, b⟩ (fun t =>
        t.out.host = (b.opal.ctrl.cqBase + 32 * (b.opal.ctrl.cqTail % b.opal.ctrl.cqEntries),
          completionRecord stOk 256 (indexWord b.opal.ctrl.sqEntries (i % 2 ^ 18)) (descCookie d) frameNone 0 0 0 ++
            leBytes 1 (phaseOf b.opal.ctrl.cqEntries b.opal.ctrl.cqTail)) :: b.out.host ∧
        t.opal.ctrl.flight = [] ∧
        t.opal.ctrl.done = (b.opal.ctrl.done + 1) % (2 * b.opal.ctrl.sqEntries) ∧
        t.opal.ctrl.cqTail = (b.opal.ctrl.cqTail + 1) % (2 * b.opal.ctrl.cqEntries) ∧
        onlyChanges [.posts, .evr, .trace, .out] b t)) ∧
  (∀ (q : List Instr) (b : Block) (i g : Nat) (d : List Byte),
      b.alive .opal = true →
      b.hostUp = false →
      b.opal.ctrl.flight = [⟨i, d, .dispatched, g⟩] →
      b.accepts .opal g = true →
      b.opal.ghosts = [] →
      descType d = 0 →
      Completes (.nop 256 i) ⟨q, b⟩ (fun t =>
        t.out = b.out ∧
        t.opal.ctrl.flight = [⟨i, d, .finished stOk frameNone 0 0, g⟩] ∧
        onlyChanges [.posts, .evr, .trace, .out] b t)) ∧
  (∀ (q : List Instr) (b : Block) (r i : Nat),
      b.alive .opal = true →
      b.dispatched r i 0x00 = none →
      exec (.nop r i) ⟨q, b⟩ = .next ⟨q, b⟩) ∧
  (∀ (q : List Instr) (b : Block) (r : Nat) (desc : Nat),
      b.alive .opal = true →
      exec (.nop r desc) ⟨q, b⟩ = .next ⟨q, nop r desc b⟩ ∧
        onlyChanges [.posts, .evr, .trace, .out] b (nop r desc b))

/-- CONTEXT_OPEN is refused for a field, a busy Context or a missing key, and otherwise opens the Context with its rings. Rules: 08_contexts_rings_doorbells.md. -/
def Obligations.ContextsOpenAsTheirDescriptorSays : Prop :=
  (∀ (q : List Instr) (b : Block) (i off : Nat) (d : List Byte),
      b.alive .opal = true →
      b.dispatched ctrlRing i 0x05 = some d →
      ctxOrder b i = true →
      openFault d = some off →
      exec (.contextOpen i) ⟨q, b⟩ = .next ⟨q, finishCtrl i stMalformed frameNone 0 off b⟩) ∧
  (∀ (q : List Instr) (b : Block) (i : Nat) (d : List Byte),
      b.alive .opal = true →
      b.dispatched ctrlRing i 0x05 = some d →
      ctxOrder b i = true →
      openFault d = none →
      (b.ctx (leAt d 16 1)).state ≠ .closed →
      exec (.contextOpen i) ⟨q, b⟩ = .next ⟨q, finishCtrl i stContextBusy frameNone 0 0 b⟩) ∧
  (∀ (q : List Instr) (b : Block) (i : Nat) (d : List Byte),
      b.alive .opal = true →
      b.dispatched ctrlRing i 0x05 = some d →
      ctxOrder b i = true →
      openFault d = none →
      (b.ctx (leAt d 16 1)).state = .closed →
      bitOf (leAt d 17 1) 2 = true →
      b.spinel.import_ = false →
      exec (.contextOpen i) ⟨q, b⟩ = .next ⟨q, finishCtrl i stKeyDisabled frameNone 0 0 b⟩) ∧
  (∀ (q : List Instr) (b : Block) (i : Nat) (d : List Byte),
      b.alive .opal = true →
      b.dispatched ctrlRing i 0x05 = some d →
      ctxOrder b i = true →
      openFault d = none →
      (b.ctx (leAt d 16 1)).state = .closed →
      bitOf (leAt d 17 1) 2 = true →
      b.spinel.import_ = true →
      (slotGet b (leAt d 16 1)).state ≠ .loaded →
      (slotGet b (leAt d 16 1)).state ≠ .rolling →
      exec (.contextOpen i) ⟨q, b⟩ = .next ⟨q, finishCtrl i stNoKey frameNone 0 0 b⟩) ∧
  (∀ (q : List Instr) (b : Block) (i : Nat) (d : List Byte),
      b.alive .opal = true →
      b.dispatched ctrlRing i 0x05 = some d →
      ctxOrder b i = true →
      openFault d = none →
      (b.ctx (leAt d 16 1)).state = .closed →
      (bitOf (leAt d 17 1) 2 = true →
        b.spinel.import_ = true ∧ ((slotGet b (leAt d 16 1)).state = .loaded ∨ (slotGet b (leAt d 16 1)).state = .rolling))
            →
      exec (.contextOpen i) ⟨q, b⟩ = .next ⟨q, finishCtrl i stOk frameNone 0 0 (b.setCtx (leAt d 16 1) {
          state := .opened, hostRing := bitOf (leAt d 17 1) 0, magazine := bitOf (leAt d 17 1) 1, keyed := bitOf (leAt d 17 1) 2
          vector := leAt d 18 1, bufWait := if leAt d 19 1 = 0 then 8 else leAt d 19 1
          inflight := if leAt d 28 2 = 0 then 64 else leAt d 28 2
          ring := openRing (leAt d 32 8) (leAt d 40 8) (leAt d 20 4) (leAt d 24 4)
          highGen := 0, closeDesc := none, closeFrame := 0, cancelled := false, aborting := false, openFrame := b.garnet.frameNo })⟩) ∧
  (∀ (q : List Instr) (b : Block) (i : Nat),
      b.alive .opal = true →
      b.dispatched ctrlRing i 0x05 = none →
      exec (.contextOpen i) ⟨q, b⟩ = .next ⟨q, b⟩) ∧
  (∀ (q : List Instr) (b : Block) (i : Nat) (d : List Byte),
      b.alive .opal = true →
      b.dispatched ctrlRing i 0x05 = some d →
      ctxOrder b i = false →
      exec (.contextOpen i) ⟨q, b⟩ = .next ⟨q, b⟩) ∧
  (∀ (q : List Instr) (b : Block) (desc : Nat),
      b.alive .opal = true →
      exec (.contextOpen desc) ⟨q, b⟩ = .next ⟨q, contextOpen desc b⟩ ∧
        onlyChanges [.jade, .posts, .evr, .ch, .trace, .out] b (contextOpen desc b))

/-- A close makes its Context CLOSING, ABORT dropping the Segments with no buffer as CLOSED; when its Segments and
records are done the Context is CLOSED. Rules: 08_contexts_rings_doorbells.md. -/
def Obligations.ContextsCloseInTwoSteps : Prop :=
  (∀ (q : List Instr) (b : Block) (i : Nat) (d : List Byte),
      b.alive .opal = true →
      b.dispatched ctrlRing i 0x06 = some d →
      ctxOrder b i = true →
      leAt d 17 1 = 0 →
      (b.ctx (leAt d 16 1)).state = .closed →
      exec (.contextCloseDrain i) ⟨q, b⟩ = .next ⟨q, finishCtrl i stContextClosed frameNone 0 0 b⟩) ∧
  (∀ (q : List Instr) (b : Block) (i : Nat) (d : List Byte),
      b.alive .opal = true →
      b.dispatched ctrlRing i 0x06 = some d →
      ctxOrder b i = true →
      leAt d 17 1 = 0 →
      (b.ctx (leAt d 16 1)).state = .opened ∨ (b.ctx (leAt d 16 1)).state = .stopped →
      exec (.contextCloseDrain i) ⟨q, b⟩ = .next ⟨q, b.setCtx (leAt d 16 1) { b.ctx (leAt d 16 1) with
        state := .closing, closeDesc := some i, closeFrame := b.garnet.frameNo, cancelled := false, aborting := false }⟩) ∧
  (∀ (q : List Instr) (b : Block) (i : Nat) (d : List Byte),
      b.alive .opal = true →
      b.dispatched ctrlRing i 0x06 = some d →
      ctxOrder b i = true →
      1 < leAt d 17 1 →
      exec (.contextCloseDrain i) ⟨q, b⟩ = .next ⟨q, finishCtrl i stMalformed frameNone 0 17 b⟩) ∧
  (∀ (q : List Instr) (b : Block) (i : Nat) (d : List Byte),
      b.alive .opal = true →
      b.dispatched ctrlRing i 0x06 = some d →
      ctxOrder b i = true →
      leAt d 17 1 = 1 →
      (b.ctx (leAt d 16 1)).state = .closed →
      exec (.contextCloseAbort i) ⟨q, b⟩ = .next ⟨q, finishCtrl i stContextClosed frameNone 0 0 b⟩) ∧
  (∀ (q : List Instr) (b : Block) (i : Nat) (d : List Byte),
      b.alive .opal = true →
      b.dispatched ctrlRing i 0x06 = some d →
      ctxOrder b i = true →
      leAt d 17 1 = 1 →
      (b.ctx (leAt d 16 1)).state = .opened ∨ (b.ctx (leAt d 16 1)).state = .stopped →
      unassigned b (leAt d 16 1) = [] →
      exec (.contextCloseAbort i) ⟨q, b⟩ = .next ⟨q, b.setCtx (leAt d 16 1) { b.ctx (leAt d 16 1) with
        state := .closing, closeDesc := some i, closeFrame := b.garnet.frameNo, cancelled := false, aborting := true }⟩) ∧
  (∀ (q : List Instr) (b : Block) (i : Nat) (d : List Byte) (w : LedgerFrame) (e : LedgerDest),
      b.alive .opal = true →
      b.dispatched ctrlRing i 0x06 = some d →
      ctxOrder b i = true →
      leAt d 17 1 = 1 →
      (b.ctx (leAt d 16 1)).state = .opened →
      b.opal.window = [w] →
      w.dests = [e] →
      e.dest.ctx = leAt d 16 1 →
      e.dest.magazine = false →
      e.outcome = .pending →
      e.buffer = none →
      Completes (.contextCloseAbort i) ⟨q, b⟩ (fun t =>
        t.opal.window = [{ w with dests := [{ e with outcome := .closed }] }] ∧
        (t.ctx (leAt d 16 1)).state = .closing ∧
        onlyChanges [.jade, .spinel, .opal, .posts, .evr, .ch, .trace, .out] b t)) ∧
  (∀ (q : List Instr) (b : Block) (c word : Nat) (posted : Option (List (List Byte))),
      b.alive .opal = true →
      c < 256 →
      (b.ctx c).state = .closing →
      hostDone b c = false →
      exec (.contextCloseFinish c word posted) ⟨q, b⟩ = .next ⟨q, b⟩) ∧
  (∀ (q : List Instr) (b : Block) (c word : Nat) (posted : Option (List (List Byte))),
      b.alive .opal = true →
      c < 256 →
      (b.ctx c).state = .closing →
      hostDone b c = true →
      (b.ctx c).cancelled = true →
      (b.ctx c).ring.flight = [] →
      (b.ctx c).ring.faultRec = none →
      (b.ctx c).ring.pi = (b.ctx c).ring.next →
      Completes (.contextCloseFinish c word posted) ⟨q, b⟩ (fun t =>
        (t.ctx c).state = .closed ∧
        (t.ctx c).closeDesc = none ∧
        (t.ctx c).ring.state = .idle ∧
        t.jade.settings = b.jade.settings.filter (·.ctx != c) ∧
        onlyChanges [.jade, .spinel, .opal, .posts, .evr, .ch, .trace, .out] b t)) ∧
  (∀ (q : List Instr) (b : Block) (c word : Nat) (posted : Option (List (List Byte))),
      b.alive .opal = true →
      c < 256 →
      (b.ctx c).state ≠ .closing →
      exec (.contextCloseFinish c word posted) ⟨q, b⟩ = .next ⟨q, b⟩) ∧
  (∀ (q : List Instr) (b : Block) (i : Nat),
      b.alive .opal = true →
      b.dispatched ctrlRing i 0x06 = none →
      exec (.contextCloseDrain i) ⟨q, b⟩ = .next ⟨q, b⟩) ∧
  (∀ (q : List Instr) (b : Block) (i : Nat),
      b.alive .opal = true →
      b.dispatched ctrlRing i 0x06 = none →
      exec (.contextCloseAbort i) ⟨q, b⟩ = .next ⟨q, b⟩) ∧
  (∀ (q : List Instr) (b : Block) (i : Nat) (d : List Byte),
      b.alive .opal = true →
      b.dispatched ctrlRing i 0x06 = some d →
      ctxOrder b i = false →
      exec (.contextCloseDrain i) ⟨q, b⟩ = .next ⟨q, b⟩) ∧
  (∀ (q : List Instr) (b : Block) (i : Nat) (d : List Byte),
      b.alive .opal = true →
      b.dispatched ctrlRing i 0x06 = some d →
      ctxOrder b i = false →
      exec (.contextCloseAbort i) ⟨q, b⟩ = .next ⟨q, b⟩) ∧
  (∀ (q : List Instr) (b : Block) (i : Nat) (d : List Byte),
      b.alive .opal = true →
      b.dispatched ctrlRing i 0x06 = some d →
      leAt d 17 1 = 1 →
      exec (.contextCloseDrain i) ⟨q, b⟩ = .next ⟨q, b⟩) ∧
  (∀ (q : List Instr) (b : Block) (i : Nat) (d : List Byte),
      b.alive .opal = true →
      b.dispatched ctrlRing i 0x06 = some d →
      leAt d 17 1 ≠ 1 →
      exec (.contextCloseAbort i) ⟨q, b⟩ = .next ⟨q, b⟩) ∧
  (∀ (q : List Instr) (b : Block) (desc : Nat),
      b.alive .opal = true →
      exec (.contextCloseDrain desc) ⟨q, b⟩ = .next ⟨q, contextCloseDrain desc b⟩ ∧
        onlyChanges [.jade, .posts, .evr, .ch, .trace, .out] b (contextCloseDrain desc b)) ∧
  (∀ (q : List Instr) (b : Block) (desc : Nat),
      b.alive .opal = true →
      exec (.contextCloseAbort desc) ⟨q, b⟩ = .next ⟨q, contextCloseAbort desc b⟩ ∧
        onlyChanges [.jade, .spinel, .opal, .posts, .evr, .ch, .trace, .out] b (contextCloseAbort desc b)) ∧
  (∀ (q : List Instr) (b : Block) (c : Nat) (word : Nat) (posted : Option (List (List Byte))),
      b.alive .opal = true →
      exec (.contextCloseFinish c word posted) ⟨q, b⟩ = .next ⟨q, contextCloseFinish c word posted b⟩ ∧
        onlyChanges [.jade, .spinel, .opal, .posts, .evr, .ch, .trace, .out] b (contextCloseFinish c word posted b))

/-- BUFFER_POST is refused or serves the Segment that waits; one too small completes OVERSIZE; the wait for a buffer
ends HOST_TIMEOUT; the last Stripe completes it. Rules: 08_contexts_rings_doorbells.md. -/
def Obligations.BuffersTakeHostSegments : Prop :=
  (∀ (q : List Instr) (b : Block) (c i off : Nat) (d : List Byte),
      b.alive .opal = true →
      b.dispatched (c % 256) i 0x20 = some d →
      postFaultAt d = some off →
      exec (.bufferPost c i) ⟨q, b⟩ = .next ⟨q, finish (c % 256) i stMalformed frameNone 0 off b⟩) ∧
  (∀ (q : List Instr) (b : Block) (c i : Nat) (d : List Byte),
      b.alive .opal = true →
      b.dispatched (c % 256) i 0x20 = some d →
      postFaultAt d = none →
      (b.ctx (c % 256)).hostRing = false →
      exec (.bufferPost c i) ⟨q, b⟩ = .next ⟨q, finish (c % 256) i stCancelled frameNone 0 0 b⟩) ∧
  (∀ (q : List Instr) (b : Block) (c i : Nat) (d : List Byte),
      b.alive .opal = true →
      b.dispatched (c % 256) i 0x20 = some d →
      postFaultAt d = none →
      (b.ctx (c % 256)).hostRing = true →
      nextSegment b (c % 256) = none →
      exec (.bufferPost c i) ⟨q, b⟩ = .next ⟨q, b⟩) ∧
  (∀ (q : List Instr) (b : Block) (c i a len : Nat) (d : List Byte) (w : LedgerFrame) (e : LedgerDest) (g : SpinelSeg),
      b.alive .opal = true →
      b.dispatched (c % 256) i 0x20 = some d →
      postFaultAt d = none →
      (b.ctx (c % 256)).hostRing = true →
      b.hostUp = true →
      b.opal.window = [w] →
      w.dests = [e] →
      e.dest.ctx = c % 256 →
      e.dest.magazine = false →
      e.outcome = .pending →
      e.buffer = none →
      e.ready = true →
      freePost b (c % 256) = some (i, a, len) →
      e.dest.segLen ≤ len →
      b.spinel.segs = [g] →
      g.stripes = [] →
      Completes (.bufferPost c i) ⟨q, b⟩ (fun t =>
        t.opal.window = [{ w with dests := [{ e with buffer := some i }] }] ∧
        t.out = b.out ∧
        onlyChanges [.spinel, .opal, .posts, .evr, .ch, .trace, .out] b t)) ∧
  (∀ (q : List Instr) (b : Block) (c i a len : Nat) (d : List Byte) (w : LedgerFrame) (e : LedgerDest),
      b.alive .opal = true →
      b.dispatched (c % 256) i 0x20 = some d →
      postFaultAt d = none →
      (b.ctx (c % 256)).hostRing = true →
      b.hostUp = true →
      b.opal.window = [w] →
      w.dests = [e] →
      e.dest.ctx = c % 256 →
      e.dest.magazine = false →
      e.outcome = .pending →
      e.buffer = none →
      e.ready = true →
      freePost b (c % 256) = some (i, a, len) →
      len < e.dest.segLen →
      Completes (.bufferPost c i) ⟨q, b⟩ (fun t =>
        t.opal.window = [{ w with dests := [{ e with outcome := .oversize }] }] ∧
        onlyChanges [.spinel, .opal, .posts, .evr, .ch, .trace, .out] b t)) ∧
  (∀ (q : List Instr) (b : Block),
      b.alive .opal = true →
      (∀ w ∈ b.opal.window, ∀ d ∈ w.dests, waitOver b w d = false) →
      exec (.bufWaitExpiry) ⟨q, b⟩ = .next ⟨q, b⟩) ∧
  (∀ (q : List Instr) (b : Block) (w : LedgerFrame) (e : LedgerDest),
      b.alive .opal = true →
      b.hostUp = false →
      b.opal.window = [w] →
      w.dests = [e] →
      waitOver b w e = true →
      Completes (.bufWaitExpiry) ⟨q, b⟩ (fun t =>
        t.opal.window = [{ w with dests := [{ e with outcome := .hostTimeout }] }] ∧
        onlyChanges [.spinel, .opal, .posts, .evr, .ch, .trace, .out] b t)) ∧
  (∀ (q : List Instr) (b : Block) (m : HostMoved) (l : List HostMoved) (w : LedgerFrame) (e : LedgerDest) (g : SpinelSeg),
      b.alive .opal = true →
      islandEmpty b .opal = false →
      b.ch.spinelOpal = m :: l →
      m.failed = false →
      m.header = true →
      b.opal.window = [w] →
      w.frame = m.frame →
      w.dests = [e] →
      e.dest.index = m.index →
      e.outcome = .pending →
      b.takes .spinel = true →
      b.ch.spinelDests = [] →
      b.ch.opalSpinel = [] →
      b.spinel.segs = [g] →
      g.frame = m.frame →
      g.dest.index = m.index →
      g.whole = true →
      Completes (.hostStripeMoved) ⟨q, b⟩ (fun t =>
        t.ch.spinelOpal = l ∧
        (t.opal.window = [{ w with dests := [{ e with
            stripeMap := m.map, doneMap := m.map
            outcome := if m.map == expectedMap w.snap.prog e.dest then .done else .partial_ }] }]) ∧
        t.spinel.segs = [] ∧
        onlyChanges [.spinel, .opal, .posts, .evr, .topaz, .ch, .trace, .out] b t)) ∧
  (∀ (q : List Instr) (b : Block) (c i : Nat),
      b.alive .opal = true →
      b.dispatched (c % 256) i 0x20 = none →
      exec (.bufferPost c i) ⟨q, b⟩ = .next ⟨q, b⟩) ∧
  (∀ (q : List Instr) (b : Block) (c i : Nat) (d : List Byte),
      b.alive .opal = true →
      b.dispatched (c % 256) i 0x20 = some d →
      postFaultAt d = none →
      (b.ctx (c % 256)).hostRing = true →
      exec (.bufferPost c i) ⟨q, b⟩ = .next ⟨q, serveHost (c % 256) b⟩) ∧
  (∀ (q : List Instr) (b : Block),
      b.alive .opal = true →
      islandEmpty b .opal = false →
      b.ch.spinelOpal = [] →
      exec (.hostStripeMoved) ⟨q, b⟩ = .next ⟨q, b⟩) ∧
  (∀ (q : List Instr) (b : Block) (c : Nat) (desc : Nat),
      b.alive .opal = true →
      exec (.bufferPost c desc) ⟨q, b⟩ = .next ⟨q, bufferPost c desc b⟩ ∧
        onlyChanges [.spinel, .opal, .posts, .evr, .ch, .trace, .out] b (bufferPost c desc b)) ∧
  (∀ (q : List Instr) (b : Block),
      b.alive .opal = true →
      exec (.bufWaitExpiry) ⟨q, b⟩ = .next ⟨q, bufWaitExpiry b⟩ ∧
        onlyChanges [.spinel, .opal, .posts, .evr, .ch, .trace, .out] b (bufWaitExpiry b)) ∧
  (∀ (q : List Instr) (b : Block),
      b.failing .opal = true →
      exec (.bufWaitExpiry) ⟨q, b⟩ = .next ⟨q, bufWaitExpiry b⟩) ∧
  (∀ (q : List Instr) (b : Block),
      b.alive .opal = false →
      b.failing .opal = false →
      exec (.bufWaitExpiry) ⟨q, b⟩ = .next ⟨q, b⟩) ∧
  (∀ (q : List Instr) (b : Block),
      b.alive .opal = true →
      islandEmpty b .opal = false →
      exec (.hostStripeMoved) ⟨q, b⟩ = .next ⟨q, hostStripeMoved b⟩ ∧
        onlyChanges [.spinel, .opal, .posts, .evr, .topaz, .ch, .trace, .out] b (hostStripeMoved b)) ∧
  (∀ (q : List Instr) (b : Block),
      b.failing .opal = true →
      exec (.hostStripeMoved) ⟨q, b⟩ = .next ⟨q, opalFails hostStripeMoved b⟩) ∧
  (∀ (q : List Instr) (b : Block),
      b.failing .opal = false →
      (b.alive .opal = false ∨ islandEmpty b .opal = true) →
      exec (.hostStripeMoved) ⟨q, b⟩ = .next ⟨q, b⟩)

/-- LATCH_NOTICE_OPAL binds the Destination set of the Frame and tells Jade; TIME_RECORD counts a CAD1 event and keeps
its record. Rules: 07_output_encodings_statistics.md, 09_frame_ledger_ordering.md, 05_reference_discipline.md. -/
def Obligations.LatchNoticesBindDestinations : Prop :=
  (∀ (q : List Instr) (b : Block) (n : LatchNotice) (l : List LatchNotice) (s : Snapshot) (ds : List Dest) (x : Bool),
      b.alive .opal = true →
      b.ch.noticeOpal = n :: l →
      n.takeStop = none →
      n.snap = some s →
      destSet b s = (ds, x) →
      (∀ w ∈ b.opal.window, w.frame ≤ s.frame ∧ s.frame < w.frame + 4096) →
      (∀ d ∈ ds, (b.ctx d.ctx).aborting = false) →
      b.ch.ledgerNotes = [] →
      Completes (.latchNoticeOpal 0) ⟨q, b⟩ (fun t =>
        t.ch.noticeOpal = l ∧
        t.opal.window = b.opal.window ++ [freshFrame s ds x] ∧
        t.ch.opalJade = b.ch.opalJade ++ [(s.frame, ds)] ∧
        t.ch.spinelDests = b.ch.spinelDests ++ [(s.frame, ds)] ∧
        t.ch.onyxDests = b.ch.onyxDests ++ [(s.frame, ds)] ∧
        t.ch.expiry = b.ch.expiry ∧
        onlyChanges [.garnet, .jade, .spinel, .opal, .posts, .evr, .topaz, .ch, .trace, .out] b t)) ∧
  (∀ (q : List Instr) (b : Block) (n : LatchNotice) (l : List LatchNotice) (k f : Nat) (r : EndReason),
      b.alive .opal = true →
      b.ch.noticeOpal = n :: l →
      n.takeStop = some (k, r, some f) →
      n.takeStart = none →
      n.snap = none →
      b.opal.takeEnds = [] →
      b.ch.takesClosed = [] →
      exec (.latchNoticeOpal 0) ⟨q, b⟩ = .next ⟨q, { b with
        opal := { b.opal with
          window := b.opal.window.map (fun w => if w.frame = f then { w with takeLast := true } else w)
          takeOpen := false, takeEnds := [⟨k, r, some f, f + 1, false⟩] }
        ch := { b.ch with noticeOpal := l } }⟩) ∧
  (∀ (q : List Instr) (b : Block) (x : TimeRecord) (l : List TimeRecord),
      b.alive .opal = true →
      b.beryl.evr.mode ≠ 2 →
      b.ch.quartzOpal = x :: l →
      b.opal.held = none →
      Completes (.timeRecord) ⟨q, b⟩ (fun t =>
        t.ch.quartzOpal = l ∧
        t.opal.cad1 = b.opal.cad1 + 1 ∧
        t.opal.times = (x :: b.opal.times).take 4096 ∧
        t.opal.window.map (·.frame) = b.opal.window.map (·.frame) ∧
        onlyChanges [.garnet, .opal, .posts, .evr, .ch, .trace, .out] b t)) ∧
  (∀ (q : List Instr) (b : Block) (lost : Nat),
      b.alive .opal = true →
      b.ch.noticeOpal.length ≤ lost →
      exec (.latchNoticeOpal lost) ⟨q, b⟩ = .next ⟨q, b⟩) ∧
  (∀ (q : List Instr) (b : Block) (lost : Nat),
      b.alive .opal = true →
      lost < b.ch.noticeOpal.length →
      exec (.latchNoticeOpal lost) ⟨q, b⟩ = .next ⟨q, serveNoticeOpal (missNoticesOpal lost b)⟩) ∧
  (∀ (q : List Instr) (b : Block),
      b.alive .opal = true →
      b.beryl.evr.mode ≠ 2 →
      b.ch.quartzOpal = [] →
      exec (.timeRecord) ⟨q, b⟩ = .next ⟨q, b⟩) ∧
  (∀ (q : List Instr) (b : Block) (lost : Nat := 0),
      b.alive .opal = true →
      exec (.latchNoticeOpal lost) ⟨q, b⟩ = .next ⟨q, latchNoticeOpal lost b⟩ ∧
        onlyChanges [.garnet, .jade, .spinel, .opal, .posts, .evr, .topaz, .ch, .trace, .out] b (latchNoticeOpal lost b)) ∧
  (∀ (q : List Instr) (b : Block) (lost : Nat := 0),
      b.failing .opal = true →
      exec (.latchNoticeOpal lost) ⟨q, b⟩ = .next ⟨q, latchNoticeOpal lost b⟩) ∧
  (∀ (q : List Instr) (b : Block) (lost : Nat := 0),
      b.alive .opal = false →
      b.failing .opal = false →
      exec (.latchNoticeOpal lost) ⟨q, b⟩ = .next ⟨q, b⟩) ∧
  (∀ (q : List Instr) (b : Block),
      b.beryl.evr.mode ≠ 2 →
      b.alive .opal = true →
      exec (.timeRecord) ⟨q, b⟩ = .next ⟨q, timeRecord b⟩ ∧
        onlyChanges [.garnet, .opal, .posts, .evr, .ch, .trace, .out] b (timeRecord b)) ∧
  (∀ (q : List Instr) (b : Block),
      b.beryl.evr.mode ≠ 2 →
      b.failing .opal = true →
      exec (.timeRecord) ⟨q, b⟩ = .next ⟨q, timeRecord b⟩) ∧
  (∀ (q : List Instr) (b : Block),
      b.beryl.evr.mode ≠ 2 →
      b.alive .opal = false →
      b.failing .opal = false →
      exec (.timeRecord) ⟨q, b⟩ = .next ⟨q, b⟩) ∧
  (∀ (q : List Instr) (b : Block),
      b.beryl.evr.mode = 2 →
      exec (.timeRecord) ⟨q, b⟩ = .next ⟨q, dropTimeRecord b⟩)

/-- GARNET_OUTCOME with an outcome decides every Destination of its Frame that has none; DESTINATION_OUTCOME decides one
magazine Destination, once. Rules: 09_frame_ledger_ordering.md. -/
def Obligations.OutcomesReachTheLedger : Prop :=
  (∀ (q : List Instr) (b : Block) (m : GarnetOutcome) (l : List GarnetOutcome) (o : DestOutcome),
      b.alive .opal = true →
      b.ch.garnetOpal = m :: l →
      m.outcome = some o →
      o ≠ .pending →
      b.onyx.flush = none →
      Completes (.garnetOutcome) ⟨q, b⟩ (fun t =>
        t.ch.garnetOpal = l ∧
        (∀ w ∈ t.opal.window, w.frame = m.frame → ∀ d ∈ w.dests, d.outcome ≠ .pending) ∧
        ((t.opal.window.filter (fun w => w.frame != m.frame)).map (fun w => w.dests.map (·.outcome)) =
          (b.opal.window.filter (fun w => w.frame != m.frame)).map (fun w => w.dests.map (·.outcome))) ∧
        onlyChanges [.garnet, .spinel, .opal, .posts, .evr, .ch, .trace, .out] b t)) ∧
  (∀ (q : List Instr) (b : Block) (m : GarnetOutcome) (l : List GarnetOutcome) (o : DestOutcome),
      b.alive .opal = true →
      b.ch.garnetOpal = m :: l →
      m.outcome = some o →
      o ≠ .pending →
      b.onyx.flush ≠ none →
      b.ch.ledgerNotes = [] →
      Completes (.garnetOutcome) ⟨q, b⟩ (fun t =>
        (∀ w ∈ t.opal.window, w.frame = m.frame → ∀ d ∈ w.dests, d.outcome ≠ .pending) ∧
        ((t.opal.window.filter (fun w => w.frame != m.frame)).map (fun w => w.dests.map (·.outcome)) =
          (b.opal.window.filter (fun w => w.frame != m.frame)).map (fun w => w.dests.map (·.outcome))) ∧
        onlyChanges [.quartz, .garnet, .jade, .spinel, .opal, .posts, .onyx, .evr, .ch, .trace, .out] b t)) ∧
  (∀ (q : List Instr) (b : Block) (m : OutcomeMsg) (l : List OutcomeMsg) (w : LedgerFrame) (e : LedgerDest),
      b.alive .opal = true →
      b.ch.onyxOpal = m :: l →
      b.opal.window = [w] →
      w.frame = m.frame →
      w.dests = [e] →
      e.dest.index = m.index →
      e.dest.magazine = true →
      e.outcome = .pending →
      m.outcome ≠ .failed →
      exec (.destinationOutcome) ⟨q, b⟩ = .next ⟨q, { b with
        opal := { b.opal with window := [{ w with
          marks := w.marks ||| m.marks, failStop := w.failStop || hasMark m.marks markFailStop
          dests := [{ e with
          outcome := m.outcome, ports := if m.outcome = .done ∨ m.outcome = .partial_ then m.ports else 0
          rehomed := e.rehomed || m.rehomed, marks := e.marks ||| m.marks
          stripeMap := e.stripeMap ||| m.stripeMap
          doneMap := if m.outcome = .done ∨ m.outcome = .partial_ then m.stripeMap else e.doneMap
          durability := if m.outcome = .done ∨ m.outcome = .partial_ then 4 else 5, anteHeld := false }] }] }
        ch := { b.ch with onyxOpal := l, kept := { b.ch.kept with onyxOpal := b.ch.kept.onyxOpal ++ [m] } } }⟩) ∧
  (∀ (q : List Instr) (b : Block) (m : OutcomeMsg) (l : List OutcomeMsg) (w : LedgerFrame) (e : LedgerDest),
      b.alive .opal = true →
      b.ch.onyxOpal = m :: l →
      b.opal.window = [w] →
      w.frame = m.frame →
      w.dests = [e] →
      e.dest.index = m.index →
      e.dest.magazine = true →
      e.outcome = .pending →
      m.outcome = .failed →
      Completes (.destinationOutcome) ⟨q, b⟩ (fun t =>
        t.ch.onyxOpal = l ∧
        (t.opal.window.map (fun x => x.dests.map (fun d => (d.outcome, d.ports, d.durability, d.marks))) = [[(.failed, 0,
            5, e.marks ||| m.marks)]]) ∧
        (t.opal.window.map (fun x => (x.marks, x.failStop)) = [(w.marks ||| m.marks, w.failStop || hasMark m.marks
            markFailStop)]) ∧
        onlyChanges [.opal, .posts, .evr, .ch, .trace] b t)) ∧
  (∀ (q : List Instr) (b : Block) (m : OutcomeMsg) (l : List OutcomeMsg) (w : LedgerFrame) (e : LedgerDest),
      b.alive .opal = true →
      b.ch.onyxOpal = m :: l →
      b.opal.window = [w] →
      w.frame = m.frame →
      w.dests = [e] →
      e.outcome ≠ .pending →
      m.outcome ≠ .failed →
      exec (.destinationOutcome) ⟨q, b⟩ = .next ⟨q, { b with
        opal := { b.opal with window := [{ w with
          marks := w.marks ||| m.marks, failStop := w.failStop || hasMark m.marks markFailStop }] }
        ch := { b.ch with onyxOpal := l, kept := { b.ch.kept with onyxOpal := b.ch.kept.onyxOpal ++ [m] } } }⟩) ∧
  (∀ (q : List Instr) (b : Block),
      b.alive .opal = true →
      b.ch.onyxOpal = [] →
      exec (.destinationOutcome) ⟨q, b⟩ = .next ⟨q, b⟩) ∧
  (∀ (q : List Instr) (b : Block),
      b.alive .opal = true →
      b.ch.garnetOpal = [] →
      exec (.garnetOutcome) ⟨q, b⟩ = .next ⟨q, b⟩) ∧
  (∀ (q : List Instr) (b : Block) (m : GarnetOutcome) (l : List GarnetOutcome) (w : LedgerFrame),
      b.alive .opal = true →
      b.ch.garnetOpal = m :: l →
      m.outcome = none →
      m.final = true →
      b.opal.window = [w] →
      w.frame = m.frame →
      b.onyx.flush = none →
      b.opal.takeEnds = [] →
      Completes (.garnetOutcome) ⟨q, b⟩ (fun t =>
        t.ch.garnetOpal = l ∧
        (t.opal.window.map (fun x => (x.measured, x.snap.planes, x.snap.overrun, x.marks)) = [(true, m.snap.planes,
            m.snap.overrun, w.marks ||| m.marks)]) ∧
        (t.opal.window.map (fun x => x.dests.map (·.outcome)) = [w.dests.map (·.outcome)]) ∧
        onlyChanges [.garnet, .spinel, .opal, .posts, .evr, .ch, .trace, .out] b t)) ∧
  (∀ (q : List Instr) (b : Block),
      b.alive .opal = true →
      exec (.garnetOutcome) ⟨q, b⟩ = .next ⟨q, garnetDecides b⟩ ∧
        onlyChanges [.quartz, .garnet, .jade, .spinel, .opal, .posts, .onyx, .evr, .ch, .trace, .out] b (garnetDecides b)) ∧
  (∀ (q : List Instr) (b : Block),
      b.failing .opal = true →
      exec (.garnetOutcome) ⟨q, b⟩ = .next ⟨q, garnetDecides b⟩) ∧
  (∀ (q : List Instr) (b : Block),
      b.alive .opal = false →
      b.failing .opal = false →
      exec (.garnetOutcome) ⟨q, b⟩ = .next ⟨q, b⟩) ∧
  (∀ (q : List Instr) (b : Block),
      b.alive .opal = true →
      exec (.destinationOutcome) ⟨q, b⟩ = .next ⟨q, destinationOutcome b⟩ ∧
        onlyChanges [.opal, .posts, .evr, .ch, .trace] b (destinationOutcome b)) ∧
  (∀ (q : List Instr) (b : Block),
      b.failing .opal = true →
      exec (.destinationOutcome) ⟨q, b⟩ = .next ⟨q, destinationOutcome b⟩) ∧
  (∀ (q : List Instr) (b : Block),
      b.alive .opal = false →
      b.failing .opal = false →
      exec (.destinationOutcome) ⟨q, b⟩ = .next ⟨q, b⟩)

/-- LEDGER_PUBLISH writes the record of the next Frame at the tail of the ring once it may go; OUTCOME_QUERY answers for
a Frame of the window or says why not. Rules: 09_frame_ledger_ordering.md, 08_contexts_rings_doorbells.md. -/
def Obligations.LedgerRecordsArePublishedInOrder : Prop :=
  (∀ (q : List Instr) (b : Block) (w : LedgerFrame) (x : TimeRecord),
      b.alive .opal = true →
      b.opal.window = [w] →
      w.frame = b.opal.nextPub →
      w.record = .forming →
      publishable b w = true →
      w.snap.time = some x →
      b.hostUp = true →
      ledgerRoom b.opal.ldg = true →
      b.opal.takeEnds = [] →
      Completes (.ledgerPublish) ⟨q, b⟩ (fun t =>
        t.out.host = (b.opal.ldg.base + 128 * (b.opal.ldg.tail % b.opal.ldg.entries),
          ledgerRecord x w b.opal.ldgLost ++ leBytes 1 (phaseOf b.opal.ldg.entries b.opal.ldg.tail)) :: b.out.host ∧
        t.opal.nextPub = b.opal.nextPub + 1 ∧
        t.opal.ldg.tail = (b.opal.ldg.tail + 1) % (2 * b.opal.ldg.entries) ∧
        t.opal.window = [{ w with record := .published (indexWord b.opal.ldg.entries b.opal.ldg.tail) }] ∧
        onlyChanges [.opal, .posts, .evr, .ch, .trace, .out, .fresh] b t)) ∧
  (∀ (q : List Instr) (b : Block),
      b.alive .opal = true →
      b.opal.window = [] →
      b.opal.takeEnds = [] →
      exec (.ledgerPublish) ⟨q, b⟩ = .next ⟨q, retireRecords b⟩) ∧
  (∀ (q : List Instr) (b : Block) (i : Nat) (d : List Byte),
      b.alive .opal = true →
      b.dispatched ctrlRing i 0x0E = some d →
      badLength (leAt d 24 4) = true →
      exec (.outcomeQuery i) ⟨q, b⟩ = .next ⟨q, finishCtrl i stMalformed frameNone 0 24 b⟩) ∧
  (∀ (q : List Instr) (b : Block) (i : Nat) (d : List Byte),
      b.alive .opal = true →
      b.dispatched ctrlRing i 0x0E = some d →
      badLength (leAt d 24 4) = false →
      misaligned (leAt d 32 8) 64 = false →
      winGet b (leAt d 16 8) = none →
      exec (.outcomeQuery i) ⟨q, b⟩ = .next ⟨q, finishCtrl i stNotInWindow frameNone 0 0 b⟩) ∧
  (∀ (q : List Instr) (b : Block) (i : Nat) (d : List Byte) (w : LedgerFrame),
      b.alive .opal = true →
      b.dispatched ctrlRing i 0x0E = some d →
      badLength (leAt d 24 4) = false →
      misaligned (leAt d 32 8) 64 = false →
      b.garnet.bound = none →
      winGet b (leAt d 16 8) = some w →
      windowTop b < leAt d 16 8 + 4096 →
      leAt d 24 4 < (answer w).length →
      exec (.outcomeQuery i) ⟨q, b⟩ = .next ⟨q, finishCtrl i stOversize frameNone (answer w).length 0 b⟩) ∧
  (∀ (q : List Instr) (b : Block) (i : Nat) (d : List Byte) (w : LedgerFrame),
      b.alive .opal = true →
      b.dispatched ctrlRing i 0x0E = some d →
      badLength (leAt d 24 4) = false →
      misaligned (leAt d 32 8) 64 = false →
      b.garnet.bound = none →
      winGet b (leAt d 16 8) = some w →
      windowTop b < leAt d 16 8 + 4096 →
      (answer w).length ≤ leAt d 24 4 →
      b.hostUp = true →
      exec (.outcomeQuery i) ⟨q, b⟩ = .next ⟨q, finishCtrl i stOk frameNone (answer w).length 0 (b.hostWrite (leAt d 32 8)
          (answer w))⟩) ∧
  (∀ (q : List Instr) (b : Block),
      b.alive .opal = true →
      exec (.ledgerPublish) ⟨q, b⟩ = .next ⟨q, ledgerPublish b⟩ ∧
        onlyChanges [.opal, .posts, .evr, .ch, .trace, .out, .fresh] b (ledgerPublish b)) ∧
  (∀ (q : List Instr) (b : Block),
      b.failing .opal = true →
      exec (.ledgerPublish) ⟨q, b⟩ = .next ⟨q, ledgerPublish b⟩) ∧
  (∀ (q : List Instr) (b : Block),
      b.alive .opal = false →
      b.failing .opal = false →
      exec (.ledgerPublish) ⟨q, b⟩ = .next ⟨q, b⟩) ∧
  (∀ (q : List Instr) (b : Block) (desc : Nat),
      b.alive .opal = true →
      exec (.outcomeQuery desc) ⟨q, b⟩ = .next ⟨q, outcomeQuery desc b⟩ ∧
        onlyChanges [.posts, .evr, .trace, .out] b (outcomeQuery desc b))

/-- BERYL_EVENT_RECORD numbers its event and writes, holds or drops it; MSIX_HOLDOFF_EXPIRY and MSIX_MASK_WRITE send
what waited. Rules: 08_contexts_rings_doorbells.md, 18_register_map.md. -/
def Obligations.EventsAndMessagesGoOut : Prop :=
  (∀ (q : List Instr) (b : Block) (e : EventMsg) (l : List EventMsg),
      b.alive .opal = true →
      b.inPower .opal = true →
      b.ch.berylOpal = e :: l →
      b.opal.events.length = 16 →
      exec (.berylEventRecord) ⟨q, b⟩ = .next ⟨q, { b with
        opal := { b.opal with evSeq := (b.opal.evSeq + 1) % 2 ^ 32, evLost := min 65535 (b.opal.evLost + 1) }
        ch := { b.ch with berylOpal := l } }⟩) ∧
  (∀ (q : List Instr) (b : Block) (e : EventMsg) (l : List EventMsg),
      b.alive .opal = true →
      b.inPower .opal = true →
      b.ch.berylOpal = e :: l →
      b.opal.events.length < 16 →
      b.hostUp = false →
      exec (.berylEventRecord) ⟨q, b⟩ = .next ⟨q, { b with
        opal := { b.opal with
          evSeq := (b.opal.evSeq + 1) % 2 ^ 32, events := b.opal.events ++ [⟨e.code, (b.opal.evSeq + 1) % 2 ^ 32, e.stamp, e.frame, e.data⟩] }
        ch := { b.ch with berylOpal := l } }⟩) ∧
  (∀ (q : List Instr) (b : Block) (e : EventMsg) (l : List EventMsg),
      b.alive .opal = true →
      b.inPower .opal = true →
      b.ch.berylOpal = e :: l →
      b.opal.events = [] →
      b.hostUp = true →
      b.opal.ctrl.state = .running →
      b.opal.ctrl.room = true →
      recordDue b = false →
      Completes (.berylEventRecord) ⟨q, b⟩ (fun t =>
        t.ch.berylOpal = l ∧
        t.opal.evSeq = (b.opal.evSeq + 1) % 2 ^ 32 ∧
        t.opal.events = [] ∧
        t.opal.evLost = 0 ∧
        t.opal.ctrl.cqTail = (b.opal.ctrl.cqTail + 1) % (2 * b.opal.ctrl.cqEntries) ∧
        t.out.host = (b.opal.ctrl.cqBase + 32 * (b.opal.ctrl.cqTail % b.opal.ctrl.cqEntries),
          eventRecord ⟨e.code, (b.opal.evSeq + 1) % 2 ^ 32, e.stamp, e.frame, e.data⟩ b.opal.evLost ++
            leBytes 1 (phaseOf b.opal.ctrl.cqEntries b.opal.ctrl.cqTail)) :: b.out.host ∧
        onlyChanges [.posts, .ch, .trace, .out] b t)) ∧
  (∀ (q : List Instr) (b : Block) (v : Nat),
      b.alive .opal = true →
      v < 64 →
      b.vec v = ⟨false, false, true⟩ →
      exec (.msixHoldoffExpiry v) ⟨q, b⟩ = .next ⟨q, b.setVec v ⟨false, false, false⟩⟩) ∧
  (∀ (q : List Instr) (b : Block) (v : Nat),
      b.alive .opal = true →
      v < 64 →
      b.vec v = ⟨true, false, true⟩ →
      vecAllowed b v = true →
      Completes (.msixHoldoffExpiry v) ⟨q, b⟩ (fun t =>
        t.out.msix = vecMessage b v :: b.out.msix ∧
        t.vec v = ⟨false, false, b.field (0x6800 + 4 * v) 9 0 != 0⟩ ∧
        onlyChanges [.posts, .out] b t)) ∧
  (∀ (q : List Instr) (b : Block) (v : Nat),
      b.alive .opal = true →
      v < 64 →
      b.vec v = ⟨true, false, true⟩ →
      vecAllowed b v = false →
      Completes (.msixHoldoffExpiry v) ⟨q, b⟩ (fun t =>
        t.out = b.out ∧
        t.vec v = ⟨false, true, false⟩ ∧
        onlyChanges [.posts, .out] b t)) ∧
  (∀ (q : List Instr) (b : Block) (on : Bool),
      b.bar0 = true →
      (∀ v < 64, (b.vec v).pending = false) →
      exec (.msixMaskWrite (.function on)) ⟨q, b⟩ = .next ⟨q, { b with opal := { b.opal with funcMask := on } }⟩) ∧
  (∀ (q : List Instr) (b : Block) (on : Bool),
      b.bar0 = true →
      (∀ v < 64, (b.vec v).pending = false) →
      exec (.msixMaskWrite (.enable on)) ⟨q, b⟩ = .next ⟨q, { b with opal := { b.opal with msixEnable := on } }⟩) ∧
  (∀ (q : List Instr) (b : Block) (v : Nat) (on : Bool),
      b.bar0 = true →
      v < 64 →
      (∀ v < 64, (b.vec v).pending = false) →
      exec (.msixMaskWrite (.mask v on)) ⟨q, b⟩ = .next ⟨q, b.setReg (0x600C + 16 * v) (bit on)⟩) ∧
  (∀ (q : List Instr) (b : Block) (w : MsixWrite),
      b.bar0 = false →
      exec (.msixMaskWrite w) ⟨q, b⟩ = .next ⟨q, b⟩) ∧
  (∀ (q : List Instr) (b : Block) (v : Nat),
      b.alive .opal = true →
      (b.vec v).holdoff = false →
      exec (.msixHoldoffExpiry v) ⟨q, b⟩ = .next ⟨q, b⟩) ∧
  (∀ (q : List Instr) (b : Block),
      b.alive .opal = true →
      b.ch.berylOpal = [] →
      exec (.berylEventRecord) ⟨q, b⟩ = .next ⟨q, b⟩) ∧
  (∀ (q : List Instr) (b : Block),
      b.alive .opal = true →
      exec (.berylEventRecord) ⟨q, b⟩ = .next ⟨q, berylEventRecord b⟩ ∧
        onlyChanges [.posts, .ch, .trace, .out] b (berylEventRecord b)) ∧
  (∀ (q : List Instr) (b : Block),
      b.failing .opal = true →
      exec (.berylEventRecord) ⟨q, b⟩ = .next ⟨q, berylEventRecord b⟩) ∧
  (∀ (q : List Instr) (b : Block),
      b.alive .opal = false →
      b.failing .opal = false →
      exec (.berylEventRecord) ⟨q, b⟩ = .next ⟨q, b⟩) ∧
  (∀ (q : List Instr) (b : Block) (v : Nat),
      b.alive .opal = true →
      exec (.msixHoldoffExpiry v) ⟨q, b⟩ = .next ⟨q, msixHoldoffExpiry v b⟩ ∧
        onlyChanges [.posts, .out] b (msixHoldoffExpiry v b)) ∧
  (∀ (q : List Instr) (b : Block) (w : MsixWrite),
      exec (.msixMaskWrite w) ⟨q, b⟩ = .next ⟨q, msixMaskWrite w b⟩ ∧
        onlyChanges [.opal, .posts, .regs, .out] b (msixMaskWrite w b))

/-- CTRL_RING_START and LEDGER_RING_START answer 1 uncommitted, 2 running, 3 for a bad size, and otherwise start the
ring empty. Rules: 18_register_map.md. -/
def Obligations.RingStartsAreCheckedInOrder : Prop :=
  (∀ (q : List Instr) (b : Block) (w : Word),
      b.alive .opal = true →
      b.bar0 = true →
      asksStart w = true →
      b.committed .opal = false →
      exec (.ctrlRingStart w) ⟨q, b⟩ = .next ⟨q, { b with opal := { b.opal with ctrlResult := 1 } }⟩) ∧
  (∀ (q : List Instr) (b : Block) (w : Word),
      b.alive .opal = true →
      b.bar0 = true →
      asksStart w = true →
      b.committed .opal = true →
      b.opal.ctrl.state = .running →
      exec (.ctrlRingStart w) ⟨q, b⟩ = .next ⟨q, { b with opal := { b.opal with ctrlResult := 2 } }⟩) ∧
  (∀ (q : List Instr) (b : Block) (w : Word),
      b.alive .opal = true →
      b.bar0 = true →
      asksStart w = true →
      b.committed .opal = true →
      b.opal.ctrl.state ≠ .running →
      badLog2 (b.field 0x5020 4 0) = true →
      exec (.ctrlRingStart w) ⟨q, b⟩ = .next ⟨q, { b with opal := { b.opal with ctrlResult := 3 } }⟩) ∧
  (∀ (q : List Instr) (b : Block) (w : Word),
      b.alive .opal = true →
      b.bar0 = true →
      asksStart w = true →
      b.committed .opal = false →
      exec (.ledgerRingStart w) ⟨q, b⟩ = .next ⟨q, { b with opal := { b.opal with ldgResult := 1 } }⟩) ∧
  (∀ (q : List Instr) (b : Block) (w : Word),
      b.alive .opal = true →
      b.bar0 = true →
      asksStart w = true →
      b.committed .opal = true →
      b.opal.ldg.state = .running →
      exec (.ledgerRingStart w) ⟨q, b⟩ = .next ⟨q, { b with opal := { b.opal with ldgResult := 2 } }⟩) ∧
  (∀ (q : List Instr) (b : Block) (w : Word),
      b.alive .opal = true →
      b.bar0 = true →
      asksStart w = true →
      b.committed .opal = true →
      b.opal.ldg.state ≠ .running →
      badLog2 (b.field 0x5038 4 0) = true →
      exec (.ledgerRingStart w) ⟨q, b⟩ = .next ⟨q, { b with opal := { b.opal with ldgResult := 3 } }⟩) ∧
  (∀ (q : List Instr) (b : Block) (w : Word),
      b.alive .opal = true →
      b.bar0 = true →
      asksStart w = true →
      b.committed .opal = true →
      b.opal.ctrl.state ≠ .running →
      badLog2 (b.field 0x5020 4 0) = false →
      badLog2 (b.field 0x5020 12 8) = false →
      b.opal.events = [] →
      exec (.ctrlRingStart w) ⟨q, b⟩ = .next ⟨q, { b with opal := { b.opal with
        ctrl := { openRing (b.reg 0x5010 + 2 ^ 32 * b.reg 0x5014) (b.reg 0x5018 + 2 ^ 32 * b.reg 0x501C)
            (2 ^ b.field 0x5020 4 0) (2 ^ b.field 0x5020 12 8) with starts := b.opal.ctrl.starts + 1 }
        ctrlResult := 0
        dropped := min 65535 (b.opal.dropped + (b.opal.ctrl.flight.length + bit b.opal.ctrl.faultRec.isSome))
        ghosts := b.opal.ghosts ++ b.opal.ctrl.flight.filter (fun d => !d.status.past) } }⟩) ∧
  (∀ (q : List Instr) (b : Block) (w : Word),
      b.alive .opal = true →
      b.bar0 = true →
      asksStart w = true →
      b.committed .opal = true →
      b.opal.ldg.state ≠ .running →
      badLog2 (b.field 0x5038 4 0) = false →
      b.opal.window = [] →
      b.opal.takeEnds = [] →
      exec (.ledgerRingStart w) ⟨q, b⟩ = .next ⟨q, retireRecords { b with opal := { b.opal with
        ldg := ⟨.running, b.reg 0x5030 + 2 ^ 32 * b.reg 0x5034, 2 ^ b.field 0x5038 4 0, 0, 0, false⟩
        ldgResult := 0 } }⟩) ∧
  (∀ (q : List Instr) (b : Block) (w : Word),
      b.alive .opal = true →
      (b.bar0 = false ∨ asksStart w = false) →
      exec (.ctrlRingStart w) ⟨q, b⟩ = .next ⟨q, b⟩) ∧
  (∀ (q : List Instr) (b : Block) (w : Word),
      b.alive .opal = true →
      (b.bar0 = false ∨ asksStart w = false) →
      exec (.ledgerRingStart w) ⟨q, b⟩ = .next ⟨q, b⟩) ∧
  (∀ (q : List Instr) (b : Block) (w : Word),
      b.alive .opal = true →
      exec (.ctrlRingStart w) ⟨q, b⟩ = .next ⟨q, ctrlRingStart w b⟩ ∧
        onlyChanges [.opal, .posts, .out] b (ctrlRingStart w b)) ∧
  (∀ (q : List Instr) (b : Block) (w : Word),
      b.alive .opal = true →
      exec (.ledgerRingStart w) ⟨q, b⟩ = .next ⟨q, ledgerRingStart w b⟩ ∧
        onlyChanges [.opal, .posts, .evr, .ch, .trace, .out, .fresh] b (ledgerRingStart w b))

/-- HOST_LINK_DOWN, HOST_LINK_UP, HOST_LINK_ERROR, HOST_PERST and FUNDAMENTAL_RESET move the link; the flush reads,
times out and reports. Rules: 12_faults_recovery_replay.md, 14_holdup_power_path.md, 17_startup_bringup.md. -/
def Obligations.HostLinkComesAndGoes : Prop :=
  (∀ (q : List Instr) (b : Block),
      b.inPower .opal = true →
      b.opal.link = true →
      exec (.hostLinkDown) ⟨q, b⟩ = .next ⟨q, hostLinkFault (logPcie 0 1 0
          { b with opal := { b.opal with link := false, linkGen := 0, linkWidth := 0 } })⟩) ∧
  (∀ (q : List Instr) (b : Block),
      b.opal.link = false →
      exec (.hostLinkDown) ⟨q, b⟩ = .next ⟨q, b⟩) ∧
  (∀ (q : List Instr) (b : Block) (rate width : Nat),
      b.inPower .opal = true →
      b.opal.link = false →
      b.opal.perst = false →
      Completes (.hostLinkUp rate width) ⟨q, b⟩ (fun t =>
        t.opal.link = true ∧
        t.opal.linkGen = min rate (4 + b.beryl.otc.grade) ∧
        t.opal.linkWidth = min width 8 ∧
        onlyChanges [.spinel, .opal, .posts, .evr, .ch, .trace, .out, .fresh] b t)) ∧
  (∀ (q : List Instr) (b : Block) (rate width : Nat),
      (b.opal.link = true ∨ b.opal.perst = true) →
      exec (.hostLinkUp rate width) ⟨q, b⟩ = .next ⟨q, b⟩) ∧
  (∀ (q : List Instr) (b : Block),
      b.inPower .opal = true →
      b.opal.link = true →
      exec (.hostLinkError) ⟨q, b⟩ = .next ⟨q, postFault .opal 6 0 frameNone (b.logEvr .opal 0x0A (leBytes 1 0 ++ leBytes 1
          2 ++ leBytes 4 0))⟩) ∧
  (∀ (q : List Instr) (b : Block),
      b.opal.link = false →
      exec (.hostLinkError) ⟨q, b⟩ = .next ⟨q, b⟩) ∧
  (∀ (q : List Instr) (b : Block),
      exec (.hostPerst) ⟨q, b⟩ = .next ⟨q, { b with opal := { b.opal with perst := false } }⟩) ∧
  (∀ (q : List Instr) (b : Block),
      Completes (.fundamentalReset) ⟨q, b⟩ (fun t =>
        t.opal.link = false ∧
        t.opal.perst = true ∧
        t.opal.linkGen = 0 ∧
        t.opal.linkWidth = 0 ∧
        t.opal.msixEnable = false ∧
        t.opal.funcMask = false ∧
        (t.opal.ctrl = (if b.opal.ctrl.state = .running ∨ b.opal.ctrl.state = .stopped then
            { b.opal.ctrl with state := .stopped, dead := true } else b.opal.ctrl)) ∧
        (∀ v, t.vec v = ⟨false, false, false⟩) ∧
        (t.opal.ldg = (if b.opal.ldg.state = .running then { b.opal.ldg with state := .stopped } else b.opal.ldg)) ∧
        t.opal.ctxs = b.opal.ctxs ∧
        t.opal.window = b.opal.window ∧
        onlyChanges [.opal, .posts, .topaz, .regs] b t)) ∧
  (∀ (q : List Instr) (b : Block) (x : Bool) (l : List Bool),
      b.ch.onyxReport = x :: l →
      b.opal.flush ≠ .running →
      b.ch.topazOpal = [] →
      exec (.onyxFlushReport) ⟨q, b⟩ = .next ⟨q, { b with
        topaz := { b.topaz with pwr := { b.topaz.pwr with onyxReport := some x } }
        ch := { b.ch with onyxReport := l } }⟩) ∧
  (∀ (q : List Instr) (b : Block) (x : Bool) (l : List Bool),
      b.ch.onyxReport = x :: l →
      b.opal.flush = .running →
      b.hostUp = true →
      b.ch.topazOpal = [] →
      Completes (.onyxFlushReport) ⟨q, b⟩ (fun t =>
        t.ch.onyxReport = l ∧
        t.opal.flush = .reading ∧
        t.topaz.pwr.onyxReport = some x ∧
        t.out.reads.head? = some (b.reg 0x5030 + 2 ^ 32 * b.reg 0x5034, 4) ∧
        onlyChanges [.spinel, .opal, .posts, .evr, .topaz, .ch, .trace, .out, .fresh] b t)) ∧
  (∀ (q : List Instr) (b : Block),
      b.opal.flush = .reading →
      exec (.flushReadComplete) ⟨q, b⟩ = .next ⟨q, { b with
        opal := { b.opal with flush := .reported }
        ch := { b.ch with opalReport := b.ch.opalReport ++ [true] } }⟩) ∧
  (∀ (q : List Instr) (b : Block),
      b.topaz.pwr.onyxReport.isSome = true →
      b.opal.flush = .reading ∨ b.opal.flush = .running →
      exec (.opalFlushTimeout) ⟨q, b⟩ = .next ⟨q, { b with
        opal := { b.opal with flush := .reported }
        ch := { b.ch with opalReport := b.ch.opalReport ++ [true] } }⟩) ∧
  (∀ (q : List Instr) (b : Block),
      b.ch.onyxReport = [] →
      exec (.onyxFlushReport) ⟨q, b⟩ = .next ⟨q, b⟩) ∧
  (∀ (q : List Instr) (b : Block),
      b.opal.flush ≠ .reading →
      exec (.flushReadComplete) ⟨q, b⟩ = .next ⟨q, b⟩) ∧
  (∀ (q : List Instr) (b : Block),
      b.opal.flush ≠ .reading →
      b.opal.flush ≠ .running →
      exec (.opalFlushTimeout) ⟨q, b⟩ = .next ⟨q, b⟩) ∧
  (∀ (q : List Instr) (b : Block),
      b.inPower .opal = true →
      exec (.hostLinkDown) ⟨q, b⟩ = .next ⟨q, hostLinkDown b⟩ ∧
        onlyChanges [.opal, .posts, .evr, .trace, .out] b (hostLinkDown b)) ∧
  (∀ (q : List Instr) (b : Block),
      b.inPower .opal = false →
      exec (.hostLinkDown) ⟨q, b⟩ = .next ⟨q, b⟩) ∧
  (∀ (q : List Instr) (b : Block) (rate : Nat := 6) (width : Nat := 8),
      b.inPower .opal = true →
      exec (.hostLinkUp rate width) ⟨q, b⟩ = .next ⟨q, hostLinkUp rate width b⟩ ∧
        onlyChanges [.spinel, .opal, .posts, .evr, .ch, .trace, .out, .fresh] b (hostLinkUp rate width b)) ∧
  (∀ (q : List Instr) (b : Block) (rate : Nat := 6) (width : Nat := 8),
      b.inPower .opal = false →
      exec (.hostLinkUp rate width) ⟨q, b⟩ = .next ⟨q, b⟩) ∧
  (∀ (q : List Instr) (b : Block),
      b.inPower .opal = true →
      exec (.hostLinkError) ⟨q, b⟩ = .next ⟨q, hostLinkError b⟩ ∧
        onlyChanges [.posts, .evr, .trace, .out] b (hostLinkError b)) ∧
  (∀ (q : List Instr) (b : Block),
      b.inPower .opal = false →
      exec (.hostLinkError) ⟨q, b⟩ = .next ⟨q, b⟩) ∧
  (∀ (q : List Instr) (b : Block),
      exec (.hostPerst) ⟨q, b⟩ = .next ⟨q, hostPerst b⟩ ∧
        onlyChanges [.opal, .posts] b (hostPerst b)) ∧
  (∀ (q : List Instr) (b : Block),
      exec (.fundamentalReset) ⟨q, b⟩ = .next ⟨q, fundamentalReset b⟩ ∧
        onlyChanges [.opal, .posts, .topaz, .regs] b (fundamentalReset b)) ∧
  (∀ (q : List Instr) (b : Block),
      exec (.onyxFlushReport) ⟨q, b⟩ = .next ⟨q, onyxFlushReport b⟩ ∧
        onlyChanges [.spinel, .opal, .posts, .evr, .topaz, .ch, .trace, .out, .fresh] b (onyxFlushReport b)) ∧
  (∀ (q : List Instr) (b : Block),
      exec (.flushReadComplete) ⟨q, b⟩ = .next ⟨q, flushReadComplete b⟩ ∧
        onlyChanges [.opal, .posts, .ch, .trace] b (flushReadComplete b)) ∧
  (∀ (q : List Instr) (b : Block),
      exec (.opalFlushTimeout) ⟨q, b⟩ = .next ⟨q, opalFlushTimeout b⟩ ∧
        onlyChanges [.opal, .posts, .ch, .trace] b (opalFlushTimeout b))

/-- MAG_SET is refused with its offset or DETAIL code, or staged for the next latch point; MAG_QUERY answers a page or
says why not. Rules: 08_contexts_rings_doorbells.md, 10_magazine_storage.md. -/
def Obligations.MagazineSetsAreCheckedAndStaged : Prop :=
  (∀ (q : List Instr) (b : Block) (i off : Nat) (d : List Byte),
      b.alive .onyx = true →
      b.dispatched ctrlRing i 0x0A = some d →
      b.onyx.staged = [] →
      setFault d = some off →
      exec (.magSet i) ⟨q, b⟩ = .next ⟨q, finishCtrl i stMalformed frameNone 0 off b⟩) ∧
  (∀ (q : List Instr) (b : Block) (i c : Nat) (d : List Byte) (s : MagSet),
      b.alive .onyx = true →
      b.dispatched ctrlRing i 0x0A = some d →
      b.onyx.staged = [] →
      setFault d = none →
      parseSet d = some s →
      setRefusal b s b.takeAccepted = some c →
      exec (.magSet i) ⟨q, b⟩ = .next ⟨q, finishCtrl i stMagRefused frameNone 0 c b⟩) ∧
  (∀ (q : List Instr) (b : Block) (i : Nat) (d : List Byte) (s : MagSet),
      b.alive .onyx = true →
      b.dispatched ctrlRing i 0x0A = some d →
      b.onyx.staged.any (fun x => x.desc == i) = false →
      setFault d = none →
      parseSet d = some s →
      setRefusal b s b.takeAccepted = none →
      exec (.magSet i) ⟨q, b⟩ = .next ⟨q,
          { b with onyx := { b.onyx with staged := b.onyx.staged ++ [⟨s, i, b.ch.noticeOnyx.length⟩] } }⟩) ∧
  (∀ (q : List Instr) (b : Block) (i : Nat) (d : List Byte),
      b.alive .onyx = true →
      b.dispatched ctrlRing i 0x0B = some d →
      3 < leAt d 16 1 →
      exec (.magQuery i) ⟨q, b⟩ = .next ⟨q, finishCtrl i stMalformed frameNone 0 16 b⟩) ∧
  (∀ (q : List Instr) (b : Block) (i : Nat) (d : List Byte),
      b.alive .onyx = true →
      b.dispatched ctrlRing i 0x0B = some d →
      leAt d 16 1 ≤ 3 →
      3 < leAt d 17 1 →
      exec (.magQuery i) ⟨q, b⟩ = .next ⟨q, finishCtrl i stMalformed frameNone 0 17 b⟩) ∧
  (∀ (q : List Instr) (b : Block) (i : Nat) (d : List Byte),
      b.alive .onyx = true →
      b.dispatched ctrlRing i 0x0B = some d →
      leAt d 16 1 ≤ 3 →
      leAt d 17 1 ≤ 3 →
      badLength (leAt d 20 4) = false →
      misaligned (leAt d 24 8) 64 = false →
      leAt d 20 4 < 4096 →
      exec (.magQuery i) ⟨q, b⟩ = .next ⟨q, finishCtrl i stOversize frameNone 4096 0 b⟩) ∧
  (∀ (q : List Instr) (b : Block) (i : Nat) (d : List Byte),
      b.alive .onyx = true →
      b.dispatched ctrlRing i 0x0B = some d →
      leAt d 16 1 ≤ 3 →
      leAt d 17 1 ≤ 3 →
      badLength (leAt d 20 4) = false →
      misaligned (leAt d 24 8) 64 = false →
      4096 ≤ leAt d 20 4 →
      (b.port (leAt d 16 1)).state = .empty →
      exec (.magQuery i) ⟨q, b⟩ = .next ⟨q, finishCtrl i stNoMedia frameNone 0 0 b⟩) ∧
  (∀ (q : List Instr) (b : Block) (i : Nat) (d : List Byte),
      b.alive .onyx = true →
      b.dispatched ctrlRing i 0x0B = some d →
      leAt d 16 1 ≤ 3 →
      leAt d 17 1 ≤ 3 →
      badLength (leAt d 20 4) = false →
      misaligned (leAt d 24 8) 64 = false →
      4096 ≤ leAt d 20 4 →
      (b.port (leAt d 16 1)).state = .ready →
      leAt d 17 1 = 2 →
      (b.port (leAt d 16 1)).cmds = [] →
      exec (.magQuery i) ⟨q, b⟩ = .next ⟨q, issueCmd (leAt d 16 1) .getSmart (.query i) false b⟩) ∧
  (∀ (q : List Instr) (b : Block) (i : Nat) (d : List Byte),
      b.alive .onyx = true →
      b.dispatched ctrlRing i 0x0B = some d →
      leAt d 16 1 ≤ 3 →
      leAt d 17 1 ≤ 3 →
      badLength (leAt d 20 4) = false →
      misaligned (leAt d 24 8) 64 = false →
      4096 ≤ leAt d 20 4 →
      (b.port (leAt d 16 1)).state = .ready →
      leAt d 17 1 = 0 →
      b.hostUp = true →
      exec (.magQuery i) ⟨q, b⟩ = .next ⟨q, finishCtrl i stOk frameNone 0 0
        (b.hostWrite (leAt d 24 8) (((b.port (leAt d 16 1)).controllerPage ++ leBytes 4096 0).take 4096))⟩) ∧
  (∀ (q : List Instr) (b : Block) (i : Nat) (d : List Byte),
      b.alive .onyx = true →
      b.dispatched ctrlRing i 0x0B = some d →
      leAt d 16 1 ≤ 3 →
      leAt d 17 1 ≤ 3 →
      badLength (leAt d 20 4) = false →
      misaligned (leAt d 24 8) 64 = false →
      4096 ≤ leAt d 20 4 →
      (b.port (leAt d 16 1)).state ≠ .empty →
      (b.port (leAt d 16 1)).state ≠ .training →
      (b.port (leAt d 16 1)).state ≠ .lost →
      leAt d 17 1 = 1 →
      exec (.magQuery i) ⟨q, b⟩ = .next ⟨q, answerQuery i (b.port (leAt d 16 1)).namespacePage b⟩) ∧
  (∀ (q : List Instr) (b : Block) (i : Nat) (d : List Byte),
      b.alive .onyx = true →
      b.dispatched ctrlRing i 0x0B = some d →
      leAt d 16 1 ≤ 3 →
      leAt d 17 1 ≤ 3 →
      badLength (leAt d 20 4) = false →
      misaligned (leAt d 24 8) 64 = false →
      4096 ≤ leAt d 20 4 →
      (b.port (leAt d 16 1)).state ≠ .empty →
      (b.port (leAt d 16 1)).state ≠ .training →
      (b.port (leAt d 16 1)).state ≠ .lost →
      leAt d 17 1 = 3 →
      exec (.magQuery i) ⟨q, b⟩ = .next ⟨q, answerQuery i (summaryPage b (leAt d 16 1)) b⟩) ∧
  (∀ (q : List Instr) (b : Block) (i : Nat) (d : List Byte),
      b.alive .onyx = true →
      b.dispatched ctrlRing i 0x0B = some d →
      leAt d 16 1 ≤ 3 →
      leAt d 17 1 ≤ 3 →
      badLength (leAt d 20 4) = true →
      exec (.magQuery i) ⟨q, b⟩ = .next ⟨q, finishCtrl i stMalformed frameNone 0 20 b⟩) ∧
  (∀ (q : List Instr) (b : Block) (i : Nat),
      b.alive .onyx = true →
      b.dispatched ctrlRing i 0x0B = none →
      exec (.magQuery i) ⟨q, b⟩ = .next ⟨q, b⟩) ∧
  (∀ (q : List Instr) (b : Block) (i : Nat),
      b.alive .onyx = true →
      b.dispatched ctrlRing i 0x0A = none →
      exec (.magSet i) ⟨q, b⟩ = .next ⟨q, b⟩) ∧
  (∀ (q : List Instr) (b : Block) (i : Nat) (d : List Byte),
      b.alive .onyx = true →
      b.dispatched ctrlRing i 0x0A = some d →
      b.onyx.staged.any (fun x => x.desc == i) = true →
      exec (.magSet i) ⟨q, b⟩ = .next ⟨q, b⟩) ∧
  (∀ (q : List Instr) (b : Block) (desc : Nat),
      b.alive .onyx = true →
      exec (.magSet desc) ⟨q, b⟩ = .next ⟨q, magSet desc b⟩ ∧
        onlyChanges [.posts, .onyx, .evr, .trace, .out] b (magSet desc b)) ∧
  (∀ (q : List Instr) (b : Block) (desc : Nat),
      b.alive .onyx = true →
      exec (.magQuery desc) ⟨q, b⟩ = .next ⟨q, magQuery desc b⟩ ∧
        onlyChanges [.posts, .onyx, .evr, .trace, .out] b (magQuery desc b))

/-- LATCH_NOTICE_ONYX follows Opal, puts a staged set in force, and reserves retention for a Frame held in the Ante or
answers NOT_RECORDED. Rules: 09_frame_ledger_ordering.md, 10_magazine_storage.md. -/
def Obligations.LatchNoticesBindRetention : Prop :=
  (∀ (q : List Instr) (b : Block) (n : LatchNotice) (l : List LatchNotice) (s : Snapshot),
      b.alive .onyx = true →
      islandEmpty b .onyx = false →
      b.ch.noticeOnyx = n :: l →
      n.snap = some s →
      b.ch.onyxDests = [] →
      exec (.latchNoticeOnyx 0) ⟨q, b⟩ = .next ⟨q, b⟩) ∧
  (∀ (q : List Instr) (b : Block) (n : LatchNotice) (l : List LatchNotice),
      b.alive .onyx = true →
      islandEmpty b .onyx = false →
      b.ch.noticeOnyx = n :: l →
      n.takeStart = none →
      n.takeStop = none →
      b.onyxAtRest = true →
      n.snap = none →
      b.onyx.staged = [] →
      exec (.latchNoticeOnyx 0) ⟨q, b⟩ = .next ⟨q, { b with ch := { b.ch with noticeOnyx := l } }⟩) ∧
  (∀ (q : List Instr) (b : Block) (n : LatchNotice) (l : List LatchNotice) (x : StagedSet),
      b.alive .onyx = true →
      islandEmpty b .onyx = false →
      b.ch.noticeOnyx = n :: l →
      n.takeStart = none →
      n.takeStop = none →
      b.onyxAtRest = true →
      n.snap = none →
      b.onyx.staged = [x] →
      x.skip = 0 →
      setRefusal b x.set false = none →
      b.onyx.set = none →
      b.opal.held = none →
      b.garnet.start = none →
      Completes (.latchNoticeOnyx 0) ⟨q, b⟩ (fun t =>
        t.onyx.set = some x.set ∧
        t.onyx.staged = [] ∧
        t.ch.noticeOnyx = l ∧
        onlyChanges [.quartz, .garnet, .jade, .opal, .posts, .onyx, .evr, .topaz, .ch, .trace, .out, .fresh] b t)) ∧
  (∀ (q : List Instr) (b : Block) (n : LatchNotice) (l : List LatchNotice) (s : Snapshot) (d : Dest),
      b.alive .onyx = true →
      islandEmpty b .onyx = false →
      b.ch.noticeOnyx = n :: l →
      n.takeStart = none →
      n.takeStop = none →
      b.onyxAtRest = true →
      n.snap = some s →
      b.ch.onyxDests = [(s.frame, [d])] →
      d.magazine = true →
      b.onyx.staged = [] →
      b.onyx.failed = [] →
      armed b = false →
      exec (.latchNoticeOnyx 0) ⟨q, b⟩ = .next ⟨q, { b with ch := { b.ch with
        noticeOnyx := l, onyxDests := [], onyxJade := b.ch.onyxJade ++ [(s.frame, d.index, none)]
        onyxOpal := b.ch.onyxOpal ++ [⟨s.frame, d.index, .notRecorded, 0, false, 0, 0⟩] } }⟩) ∧
  (∀ (q : List Instr) (b : Block) (n : LatchNotice) (l : List LatchNotice) (s : Snapshot) (d : Dest) (x : MagSet) (a : Nat),
      b.alive .onyx = true →
      islandEmpty b .onyx = false →
      b.ch.noticeOnyx = n :: l →
      n.takeStart = none →
      n.takeStop = none →
      b.onyxAtRest = true →
      n.snap = some s →
      b.ch.onyxDests = [(s.frame, [d])] →
      d.magazine = true →
      b.onyx.staged = [] →
      b.onyx.failed = [] →
      armed b = true →
      b.onyx.set = some x →
      reserve b d.segLen = some a →
      Completes (.latchNoticeOnyx 0) ⟨q, b⟩ (fun t =>
        t.ch.onyxJade = b.ch.onyxJade ++ [(s.frame, d.index, some a)] ∧
        t.ch.onyxOpal = b.ch.onyxOpal ∧
        t.onyx.segs = [freshSegment s d a x none] ∧
        onlyChanges [.quartz, .garnet, .jade, .opal, .posts, .onyx, .evr, .topaz, .ch, .trace, .out, .fresh] b t)) ∧
  (∀ (q : List Instr) (b : Block) (lost : Nat),
      b.alive .onyx = true →
      islandEmpty b .onyx = false →
      b.ch.noticeOnyx.length ≤ lost →
      exec (.latchNoticeOnyx lost) ⟨q, b⟩ = .next ⟨q, b⟩) ∧
  (∀ (q : List Instr) (b : Block) (lost : Nat),
      b.alive .onyx = true →
      islandEmpty b .onyx = false →
      lost < b.ch.noticeOnyx.length →
      exec (.latchNoticeOnyx lost) ⟨q, b⟩ = .next ⟨q, serveNoticeOnyx (missNoticesOnyx lost b)⟩) ∧
  (∀ (q : List Instr) (b : Block) (lost : Nat := 0),
      b.alive .onyx = true →
      islandEmpty b .onyx = false →
      exec (.latchNoticeOnyx lost) ⟨q, b⟩ = .next ⟨q, latchNoticeOnyx lost b⟩ ∧
        onlyChanges [.quartz, .garnet, .jade, .opal, .posts, .onyx, .evr, .topaz, .ch, .trace, .out, .fresh] b
            (latchNoticeOnyx lost b)) ∧
  (∀ (q : List Instr) (b : Block) (lost : Nat := 0),
      b.failing .onyx = true →
      exec (.latchNoticeOnyx lost) ⟨q, b⟩ = .next ⟨q, onyxNoticeFails lost (latchNoticeOnyx lost) b⟩) ∧
  (∀ (q : List Instr) (b : Block) (lost : Nat := 0),
      b.failing .onyx = false →
      (b.alive .onyx = false ∨ islandEmpty b .onyx = true) →
      exec (.latchNoticeOnyx lost) ⟨q, b⟩ = .next ⟨q, b⟩)

/-- Link events, time-outs, violations, controller status, REINIT, RETRAIN and the supply move a magazine port through
its states. Rules: 10_magazine_storage.md, 19_electrical_mechanical.md. -/
def Obligations.MagazinePortsComeAndGo : Prop :=
  (∀ (q : List Instr) (b : Block) (m gen width vs cap : Nat),
      b.alive .onyx = true →
      b.beryl.evr.mode ≠ 2 →
      mayTrain b m = true →
      width = 4 →
      4 ≤ min gen (maxGen b m) →
      controllerOk vs cap = true →
      Completes (.magazineLinkUp m gen width vs cap) ⟨q, b⟩ (fun t =>
        (t.port m).state = .mounting ∧
        (t.port m).linkGen = min gen (maxGen b m) ∧
        (t.port m).linkWidth = 4 ∧
        (t.port m).mqes = bitsOf cap 15 0 ∧
        (t.port m).adminEntries = 32 ∧
        (t.port m).ioEntries = min 257 (bitsOf cap 15 0 + 1) ∧
        (t.port m).losses = (b.port m).losses ∧
        onlyChanges [.posts, .onyx, .evr, .topaz, .trace, .out] b t)) ∧
  (∀ (q : List Instr) (b : Block) (m gen width vs cap : Nat),
      b.alive .onyx = true →
      b.beryl.evr.mode ≠ 2 →
      mayTrain b m = true →
      width ≠ 4 ∨ min gen (maxGen b m) < 4 →
      Completes (.magazineLinkUp m gen width vs cap) ⟨q, b⟩ (fun t =>
        (t.port m).state = .refused ∧
        (t.port m).detail = 1 ∧
        onlyChanges [.posts, .onyx, .evr, .topaz, .trace, .out] b t)) ∧
  (∀ (q : List Instr) (b : Block) (m gen width vs cap : Nat),
      b.alive .onyx = true →
      mayTrain b m = false →
      exec (.magazineLinkUp m gen width vs cap) ⟨q, b⟩ = .next ⟨q, b⟩) ∧
  (∀ (q : List Instr) (b : Block) (m : Nat) (also : List Nat),
      b.alive .onyx = true →
      b.beryl.evr.mode ≠ 2 →
      (∀ k < 4, k ∈ m :: also → isLive (b.port k).state = true) →
      b.onyxAtRest = true →
      b.onyx.set = none →
      Completes (.magazineLinkDown m also) ⟨q, b⟩ (fun t =>
        (∀ k < 4, (t.port k).state = (if k ∈ m :: also then .lost else (b.port k).state)) ∧
        (∀ k < 4, (t.port k).losses = (if k ∈ m :: also then min 65535 ((b.port k).losses + 1) else (b.port k).losses)) ∧
        onlyChanges [.quartz, .jade, .opal, .posts, .onyx, .evr, .ch, .trace, .out] b t)) ∧
  (∀ (q : List Instr) (b : Block) (m : Nat) (also : List Nat),
      b.alive .onyx = true →
      b.beryl.evr.mode = 2 →
      exec (.magazineLinkDown m also) ⟨q, b⟩ = .next ⟨q, b⟩) ∧
  (∀ (q : List Instr) (b : Block) (m : Nat),
      b.alive .onyx = true →
      b.beryl.evr.mode = 2 →
      exec (.magazineDmaViolation m) ⟨q, b⟩ = .next ⟨q, b⟩) ∧
  (∀ (q : List Instr) (b : Block) (m gen width vs cap : Nat),
      b.alive .onyx = true →
      b.beryl.evr.mode = 2 →
      exec (.magazineLinkUp m gen width vs cap) ⟨q, b⟩ = .next ⟨q, b⟩) ∧
  (∀ (q : List Instr) (b : Block) (m : Nat),
      b.alive .onyx = true →
      b.beryl.evr.mode ≠ 2 →
      m < 4 →
      (b.port m).state = .refused →
      Completes (.magazineLinkDown m) ⟨q, b⟩ (fun t =>
        (t.port m).state = .empty ∧
        (t.port m).losses = (b.port m).losses ∧
        onlyChanges [.quartz, .jade, .opal, .posts, .onyx, .evr, .ch, .trace, .out] b t)) ∧
  (∀ (q : List Instr) (b : Block) (m : Nat),
      b.alive .onyx = true →
      b.beryl.evr.mode ≠ 2 →
      m < 4 →
      isLive (b.port m).state = true →
      b.onyxAtRest = true →
      b.onyx.set = none →
      Completes (.magazineDmaViolation m) ⟨q, b⟩ (fun t =>
        (t.port m).state = .lost ∧
        (t.port m).losses = min 65535 ((b.port m).losses + 1) ∧
        onlyChanges [.quartz, .jade, .opal, .posts, .onyx, .evr, .ch, .trace, .out] b t)) ∧
  (∀ (q : List Instr) (b : Block) (m cid : Nat) (c : NvmeCmd),
      b.alive .onyx = true →
      m < 4 →
      isLive (b.port m).state = true →
      b.onyxAtRest = true →
      b.onyx.set = none →
      (b.port m).cmds.find? (fun c => c.cid == cid) = some c →
      c.use ≠ .event →
      Completes (.cmdTimeout m cid) ⟨q, b⟩ (fun t =>
        (t.port m).state = .lost ∧
        (t.port m).timeouts = min (2 ^ 32 - 1) ((b.port m).timeouts + 1) ∧
        onlyChanges [.quartz, .jade, .opal, .posts, .onyx, .evr, .ch, .trace, .out] b t)) ∧
  (∀ (q : List Instr) (b : Block) (m cid : Nat) (c : NvmeCmd),
      b.alive .onyx = true →
      m < 4 →
      (b.port m).cmds.find? (fun c => c.cid == cid) = some c →
      c.use = .event →
      exec (.cmdTimeout m cid) ⟨q, b⟩ = .next ⟨q, b⟩) ∧
  (∀ (q : List Instr) (b : Block) (m csts : Nat),
      b.alive .onyx = true →
      m < 4 →
      isLive (b.port m).state = true →
      b.onyxAtRest = true →
      b.onyx.set = none →
      bitOf csts 1 = true →
      Completes (.controllerStatusChange m csts) ⟨q, b⟩ (fun t =>
        (t.port m).state = .lost ∧
        (t.port m).losses = min 65535 ((b.port m).losses + 1) ∧
        onlyChanges [.quartz, .jade, .opal, .posts, .onyx, .evr, .ch, .trace, .out] b t)) ∧
  (∀ (q : List Instr) (b : Block) (m csts : Nat),
      b.alive .onyx = true →
      m < 4 →
      b.onyxAtRest = true →
      (b.port m).state = .mounting →
      (b.port m).mount = .reset →
      (b.port m).cmds = [] →
      csts = 1 →
      Completes (.controllerStatusChange m csts) ⟨q, b⟩ (fun t =>
        (t.port m).mount = .controller ∧
        (t.port m).cmds = [⟨(b.port m).nextCid, .identifyController, .serial, false⟩] ∧
        onlyChanges [.quartz, .jade, .opal, .posts, .onyx, .evr, .ch, .trace, .out] b t)) ∧
  (∀ (q : List Instr) (b : Block) (w : Word),
      magConfirmed b w = true →
      bitOf w.toNat 16 = true →
      exec (.reinit w) ⟨q, b⟩ = .next ⟨q, portMod (bitsOf w.toNat 1 0) (fun p => { p with reinit := true }) b⟩) ∧
  (∀ (q : List Instr) (b : Block) (w : Word),
      magConfirmed b w = false →
      exec (.reinit w) ⟨q, b⟩ = .next ⟨q, b⟩) ∧
  (∀ (q : List Instr) (b : Block) (w : Word),
      magConfirmed b w = true →
      bitOf w.toNat 17 = true →
      b.onyx.set = none →
      b.onyxAtRest = true →
      (b.port (bitsOf w.toNat 1 0)).state ≠ .empty →
      Completes (.retrain w) ⟨q, b⟩ (fun t =>
        ((t.port (bitsOf w.toNat 1 0)).state = (if b.committed .onyx = true then .training else .empty)) ∧
        onlyChanges [.quartz, .jade, .opal, .posts, .onyx, .evr, .ch, .trace, .out] b t)) ∧
  (∀ (q : List Instr) (b : Block) (w : Word) (s : MagSet),
      b.onyx.set = some s →
      bitsOf w.toNat 1 0 ∈ s.members →
      exec (.retrain w) ⟨q, b⟩ = .next ⟨q, b⟩) ∧
  (∀ (q : List Instr) (b : Block) (m : Nat),
      b.inPower .onyx = true →
      m < 4 →
      vget b.topaz.pwr.magpwr m false = true →
      exec (.magazinePowerSettled m) ⟨q, b⟩ = .next ⟨q, portMod m (fun p => { p with settled := true }) b⟩) ∧
  (∀ (q : List Instr) (b : Block) (m : Nat),
      (4 ≤ m ∨ vget b.topaz.pwr.magpwr m false = false) →
      exec (.magazinePowerSettled m) ⟨q, b⟩ = .next ⟨q, b⟩) ∧
  (∀ (q : List Instr) (b : Block) (w : Word),
      (magConfirmed b w = false ∨ bitOf w.toNat 17 = false ∨ (b.port (bitsOf w.toNat 1 0)).state = .empty) →
      exec (.retrain w) ⟨q, b⟩ = .next ⟨q, b⟩) ∧
  (∀ (q : List Instr) (b : Block) (m csts : Nat),
      b.alive .onyx = true →
      (4 ≤ m ∨ isLive (b.port m).state = false) →
      exec (.controllerStatusChange m csts) ⟨q, b⟩ = .next ⟨q, b⟩) ∧
  (∀ (q : List Instr) (b : Block) (m : Nat),
      b.alive .onyx = true →
      (4 ≤ m ∨ isLive (b.port m).state = false) →
      exec (.magazineDmaViolation m) ⟨q, b⟩ = .next ⟨q, b⟩) ∧
  (∀ (q : List Instr) (b : Block) (m cid : Nat),
      b.alive .onyx = true →
      (4 ≤ m ∨ (b.port m).cmds.find? (fun c => c.cid == cid) = none) →
      exec (.cmdTimeout m cid) ⟨q, b⟩ = .next ⟨q, b⟩) ∧
  (∀ (q : List Instr) (b : Block) (m : Nat) (gen : Nat) (width : Nat) (vs : Nat) (cap : Nat),
      b.alive .onyx = true →
      exec (.magazineLinkUp m gen width vs cap) ⟨q, b⟩ = .next ⟨q, magazineLinkUp m gen width vs cap b⟩ ∧
        onlyChanges [.posts, .onyx, .evr, .topaz, .trace, .out] b (magazineLinkUp m gen width vs cap b)) ∧
  (∀ (q : List Instr) (b : Block) (m : Nat) (also : List Nat := []),
      b.alive .onyx = true →
      exec (.magazineLinkDown m also) ⟨q, b⟩ = .next ⟨q, magazineLinkDown m also b⟩ ∧
        onlyChanges [.quartz, .jade, .opal, .posts, .onyx, .evr, .ch, .trace, .out] b (magazineLinkDown m also b)) ∧
  (∀ (q : List Instr) (b : Block) (m : Nat),
      b.alive .onyx = true →
      exec (.magazineDmaViolation m) ⟨q, b⟩ = .next ⟨q, magazineDmaViolation m b⟩ ∧
        onlyChanges [.quartz, .jade, .opal, .posts, .onyx, .evr, .ch, .trace, .out] b (magazineDmaViolation m b)) ∧
  (∀ (q : List Instr) (b : Block) (m : Nat) (cid : Nat),
      b.alive .onyx = true →
      exec (.cmdTimeout m cid) ⟨q, b⟩ = .next ⟨q, cmdTimeout m cid b⟩ ∧
        onlyChanges [.quartz, .jade, .opal, .posts, .onyx, .evr, .ch, .trace, .out] b (cmdTimeout m cid b)) ∧
  (∀ (q : List Instr) (b : Block) (m : Nat) (csts : Nat),
      b.alive .onyx = true →
      exec (.controllerStatusChange m csts) ⟨q, b⟩ = .next ⟨q, controllerStatusChange m csts b⟩ ∧
        onlyChanges [.quartz, .jade, .opal, .posts, .onyx, .evr, .ch, .trace, .out] b (controllerStatusChange m csts b)) ∧
  (∀ (q : List Instr) (b : Block) (w : Word),
      exec (.reinit w) ⟨q, b⟩ = .next ⟨q, reinit w b⟩ ∧
        onlyChanges [.onyx] b (reinit w b)) ∧
  (∀ (q : List Instr) (b : Block) (w : Word),
      exec (.retrain w) ⟨q, b⟩ = .next ⟨q, retrain w b⟩ ∧
        onlyChanges [.quartz, .jade, .opal, .posts, .onyx, .evr, .ch, .trace, .out] b (retrain w b)) ∧
  (∀ (q : List Instr) (b : Block) (m : Nat),
      b.inPower .onyx = true →
      exec (.magazinePowerSettled m) ⟨q, b⟩ = .next ⟨q, magazinePowerSettled m b⟩ ∧
        onlyChanges [.onyx] b (magazinePowerSettled m b)) ∧
  (∀ (q : List Instr) (b : Block) (m : Nat),
      b.inPower .onyx = false →
      exec (.magazinePowerSettled m) ⟨q, b⟩ = .next ⟨q, b⟩)

/-- NVME_COMPLETION ends its command, retries an error once and mounts on; SMART_POLL reads the health of every mounted
magazine; share encryption issues its Write. Rules: 10_magazine_storage.md, 11_encryption_ownership.md. -/
def Obligations.NvmeCommandsEnd : Prop :=
  (∀ (q : List Instr) (b : Block) (m cid status sqhd : Nat) (data : List Byte),
      b.alive .onyx = true →
      m < 4 →
      (b.port m).cmds.find? (fun c => c.cid == cid) = none →
      exec (.nvmeCompletion m cid status sqhd data) ⟨q, b⟩ = .next ⟨q, b⟩) ∧
  (∀ (q : List Instr) (b : Block) (m cid status sqhd : Nat) (data : List Byte),
      b.alive .onyx = true →
      b.beryl.evr.mode = 2 →
      exec (.nvmeCompletion m cid status sqhd data) ⟨q, b⟩ = .next ⟨q, b⟩) ∧
  (∀ (q : List Instr) (b : Block) (m cid status sqhd : Nat) (data : List Byte) (c : NvmeCmd),
      b.alive .onyx = true →
      b.beryl.evr.mode ≠ 2 →
      m < 4 →
      (b.port m).cmds.find? (fun c => c.cid == cid) = some c →
      status % 2048 ≠ 0 →
      bitOf status 14 = false →
      c.retried = false →
      c.use ≠ .errorLog →
      (b.port m).cmds.length < 31 →
      Completes (.nvmeCompletion m cid status sqhd data) ⟨q, b⟩ (fun t =>
        (t.port m).errors = min (2 ^ 32 - 1) ((b.port m).errors + 1) ∧
        ((t.port m).cmds = (b.port m).cmds.filter (fun x => x.cid != cid) ++
          [⟨(b.port m).nextCid, c.op, c.use, true⟩, ⟨((b.port m).nextCid + 1) % 65536, .getErrorLog, .errorLog, false⟩]) ∧
        onlyChanges [.quartz, .jade, .opal, .posts, .onyx, .evr, .ch, .trace, .out, .fresh] b t)) ∧
  (∀ (q : List Instr) (b : Block) (m cid status sqhd : Nat) (data : List Byte) (c : NvmeCmd),
      b.alive .onyx = true →
      b.beryl.evr.mode ≠ 2 →
      m < 4 →
      (b.port m).cmds.find? (fun c => c.cid == cid) = some c →
      status % 2048 = 0 →
      c.use = .errorLog →
      (b.port m).logWait = [] →
      b.onyxAtRest = true →
      Completes (.nvmeCompletion m cid status sqhd data) ⟨q, b⟩ (fun t =>
        ((t.port m).cmds = (b.port m).cmds.filter (fun x => x.cid != cid)) ∧
        (t.port m).state = (b.port m).state ∧
        t.out = b.out ∧
        onlyChanges [.quartz, .jade, .opal, .posts, .onyx, .evr, .ch, .trace, .out, .fresh] b t)) ∧
  (∀ (q : List Instr) (b : Block) (m cid status sqhd : Nat) (data : List Byte) (c : NvmeCmd),
      b.alive .onyx = true →
      b.beryl.evr.mode ≠ 2 →
      m < 4 →
      b.onyxAtRest = true →
      (b.port m).cmds = [c] →
      c.cid = cid →
      c.use = .serial →
      c.op = .identifyController →
      (b.port m).state = .mounting →
      (b.port m).mount = .controller →
      status % 2048 = 0 →
      leAt data 77 1 = 0 →
      (b.port m).logWait = [] →
      Completes (.nvmeCompletion m cid status sqhd data) ⟨q, b⟩ (fun t =>
        (t.port m).controllerPage = data.take 4096 ∧
        (t.port m).mount = .namespaceId ∧
        (t.port m).cmds = [⟨(b.port m).nextCid, .identifyNamespace, .serial, false⟩] ∧
        onlyChanges [.quartz, .jade, .opal, .posts, .onyx, .evr, .ch, .trace, .out, .fresh] b t)) ∧
  (∀ (q : List Instr) (b : Block),
      b.alive .onyx = true →
      (∀ m < 4, (b.port m).cmds.length < 31) →
      Completes (.smartPoll) ⟨q, b⟩ (fun t =>
        (∀ m < 4, (t.port m).cmds =
          if isMounted (b.port m).state && !(b.port m).cmds.any (fun c => c.use == .health) then
            (b.port m).cmds ++ [⟨(b.port m).nextCid, .getSmart, .health, false⟩]
          else (b.port m).cmds) ∧
        onlyChanges [.onyx, .out] b t)) ∧
  (∀ (q : List Instr) (b : Block) (r : EncRequest) (l : List EncRequest) (v : List Byte),
      b.alive .spinel = true →
      islandEmpty b .spinel = false →
      b.ch.onyxSpinel = r :: l →
      b.accepts .spinel r.sent = true →
      r.port < 4 →
      encryptPart b r = some v →
      b.onyxAtRest = true →
      Completes (.shareEncryptionRequest) ⟨q, b⟩ (fun t =>
        t.ch.onyxSpinel = l ∧
        t.dram = (b.dramWrite r.dst v).dram ∧
        (t.port r.port).cmds = (b.port r.port).cmds ++
          [⟨(b.port r.port).nextCid, .write r.lba (.dram r.dst v.length) false, .share r.frame r.index r.member, false⟩] ∧
        onlyChanges [.quartz, .jade, .spinel, .opal, .posts, .onyx, .evr, .topaz, .dram, .ch, .trace, .out] b t)) ∧
  (∀ (q : List Instr) (b : Block) (r : EncRequest) (l : List EncRequest),
      b.alive .spinel = true →
      islandEmpty b .spinel = false →
      b.ch.onyxSpinel = r :: l →
      (b.accepts .spinel r.sent = false ∨ encryptPart b r = none) →
      exec (.shareEncryptionRequest) ⟨q, b⟩ = .next ⟨q, b⟩) ∧
  (∀ (q : List Instr) (b : Block),
      b.alive .spinel = true →
      islandEmpty b .spinel = false →
      b.ch.onyxSpinel = [] →
      exec (.shareEncryptionRequest) ⟨q, b⟩ = .next ⟨q, b⟩) ∧
  (∀ (q : List Instr) (b : Block) (m cid status sqhd : Nat) (data : List Byte) (c : NvmeCmd),
      b.alive .onyx = true →
      b.beryl.evr.mode ≠ 2 →
      m < 4 →
      (b.port m).cmds.find? (fun c => c.cid == cid) = some c →
      status % 2048 ≠ 0 →
      (bitOf status 14 = true ∨ c.retried = true) →
      isLive (b.port m).state = true →
      b.onyxAtRest = true →
      b.onyx.set = none →
      Completes (.nvmeCompletion m cid status sqhd data) ⟨q, b⟩ (fun t =>
        (t.port m).state = .lost ∧
        (t.port m).errors = min (2 ^ 32 - 1) ((b.port m).errors + 1) ∧
        onlyChanges [.quartz, .jade, .opal, .posts, .onyx, .evr, .ch, .trace, .out, .fresh] b t)) ∧
  (∀ (q : List Instr) (b : Block) (m : Nat) (cid : Nat) (status : Nat) (sqhd : Nat) (data : List Byte),
      b.alive .onyx = true →
      exec (.nvmeCompletion m cid status sqhd data) ⟨q, b⟩ = .next ⟨q, nvmeCompletion m cid status sqhd data b⟩ ∧
        onlyChanges [.quartz, .jade, .opal, .posts, .onyx, .evr, .ch, .trace, .out, .fresh] b (nvmeCompletion m cid status
            sqhd data b)) ∧
  (∀ (q : List Instr) (b : Block),
      b.alive .onyx = true →
      exec (.smartPoll) ⟨q, b⟩ = .next ⟨q, smartPoll b⟩ ∧
        onlyChanges [.onyx, .out] b (smartPoll b)) ∧
  (∀ (q : List Instr) (b : Block),
      b.alive .spinel = true →
      islandEmpty b .spinel = false →
      exec (.shareEncryptionRequest) ⟨q, b⟩ = .next ⟨q, shareEncryptionRequest b⟩ ∧
        onlyChanges [.quartz, .jade, .spinel, .opal, .posts, .onyx, .evr, .topaz, .dram, .ch, .trace, .out] b
            (shareEncryptionRequest b)) ∧
  (∀ (q : List Instr) (b : Block),
      b.failing .spinel = true →
      exec (.shareEncryptionRequest) ⟨q, b⟩ = .next ⟨q, spinelFailsShare b⟩) ∧
  (∀ (q : List Instr) (b : Block),
      b.failing .spinel = false →
      (b.alive .spinel = false ∨ islandEmpty b .spinel = true) →
      exec (.shareEncryptionRequest) ⟨q, b⟩ = .next ⟨q, b⟩)

/-- MAGAZINE_STRIPE_TOKEN takes a Stripe into retention, EXPIRY_REQUEST decides what waits, and a power loss or shutdown
flushes the members and reports. Rules: 09_frame_ledger_ordering.md, 10_magazine_storage.md, 14_holdup_power_path.md, 15_thermal_management.md. -/
def Obligations.SegmentsAndFlushesEndInOnyx : Prop :=
  (∀ (q : List Instr) (b : Block) (ecc : Ecc) (k : SegToken) (l : List SegToken),
      b.alive .onyx = true →
      islandEmpty b .onyx = false →
      b.ch.spinelOnyx = k :: l →
      b.accepts .onyx k.sent = true →
      k.isFailed = false →
      b.onyx.segs = [] →
      exec (.magazineStripeToken ecc) ⟨q, b⟩ = .next ⟨q, { b with ch := { b.ch with
        spinelOnyx := l
        kept := { b.ch.kept with jadeSpinel := b.ch.kept.jadeSpinel.filter (fun x => x.tag != k.tag) } } }⟩) ∧
  (∀ (q : List Instr) (b : Block) (k : SegToken) (l : List SegToken) (g : OnyxSeg),
      b.alive .onyx = true →
      islandEmpty b .onyx = false →
      b.ch.spinelOnyx = k :: l →
      b.accepts .onyx k.sent = true →
      k.isFailed = false →
      b.onyx.segs = [g] →
      g.frame = k.frame →
      g.dest.index = k.index →
      g.takeNo = none →
      g.outcome = .pending →
      b.onyx.takes = [] →
      b.onyx.flush = none →
      b.onyx.rolls = [] →
      b.ch.opalOnyx = [] →
      b.portsIdle = true →
      Completes (.magazineStripeToken .ok) ⟨q, b⟩ (fun t =>
        t.ch.spinelOnyx = l ∧
        (t.onyx = { b.onyx with segs := [{ g with whole := g.whole || k.header, header := if k.header then b.dramRead g.addr 128 else g.header }] }) ∧
        onlyChanges [.quartz, .jade, .opal, .posts, .onyx, .evr, .topaz, .ch, .trace, .out] b t)) ∧
  (∀ (q : List Instr) (b : Block) (f i : Nat) (l : List (Nat × Nat)),
      b.alive .onyx = true →
      islandEmpty b .onyx = false →
      b.ch.expiry = (f, i) :: l →
      b.onyx.segs = [] →
      b.ch.onyxOpal = [] →
      exec (.expiryRequest) ⟨q, b⟩ = .next ⟨q,
          { b with ch := { b.ch with expiry := l, onyxOpal := [⟨f, i, .expired, 0, false, 0, 0⟩] } }⟩) ∧
  (∀ (q : List Instr) (b : Block) (f i : Nat) (l : List (Nat × Nat)) (g : OnyxSeg),
      b.alive .onyx = true →
      islandEmpty b .onyx = false →
      b.ch.expiry = (f, i) :: l →
      osegGet b f i = some g →
      g.outcome ≠ .pending →
      exec (.expiryRequest) ⟨q, b⟩ = .next ⟨q, { b with ch := { b.ch with expiry := l } }⟩) ∧
  (∀ (q : List Instr) (b : Block) (ms : Nat) (l : List TopazEvent),
      b.alive .onyx = true →
      b.ch.topazOnyx = .loss ms :: l →
      b.onyxAtRest = true →
      b.onyx.set = none →
      exec (.onyxPowerLoss) ⟨q, b⟩ = .next ⟨q, { b with
        onyx := { b.onyx with flush := some ⟨.powerLoss, b.quartz.tb, ms, false, false, true⟩ }
        ch := { b.ch with
          topazOnyx := l, keepPowered := b.ch.keepPowered ++ [[]], onyxReport := b.ch.onyxReport ++ [true] } }⟩) ∧
  (∀ (q : List Instr) (b : Block) (l : List TopazEvent),
      b.alive .onyx = true →
      b.ch.topazOnyx = .shutdown :: l →
      b.onyxAtRest = true →
      b.onyx.set = none →
      exec (.onyxShutdown) ⟨q, b⟩ = .next ⟨q, { b with
        onyx := { b.onyx with flush := some ⟨if b.topaz.fatal then .islandFault else .shutdown, b.quartz.tb, shutMs b, false, false, true⟩ }
        ch := { b.ch with
          topazOnyx := l, keepPowered := b.ch.keepPowered ++ [[]], onyxReport := b.ch.onyxReport ++ [true] } }⟩) ∧
  (∀ (q : List Instr) (b : Block) (ms : Nat) (l : List TopazEvent) (s : MagSet) (m : Nat),
      b.alive .onyx = true →
      b.ch.topazOnyx = .loss ms :: l →
      b.onyxAtRest = true →
      b.onyx.set = some s →
      s.members = [m] →
      m < 4 →
      isMounted (b.port m).state = true →
      (b.port m).cmds = [] →
      (b.port m).shn = false →
      (b.port m).shutDone = false →
      Completes (.onyxPowerLoss) ⟨q, b⟩ (fun t =>
        (t.port m).shn = true ∧
        t.onyx.flush = some ⟨.powerLoss, b.quartz.tb, ms, false, false, false⟩ ∧
        t.ch.keepPowered = b.ch.keepPowered ++ [[m]] ∧
        t.ch.onyxReport = b.ch.onyxReport ∧
        t.ch.topazOnyx = l ∧
        onlyChanges [.quartz, .jade, .opal, .posts, .onyx, .evr, .ch, .trace, .out] b t)) ∧
  (∀ (q : List Instr) (b : Block),
      b.alive .onyx = true →
      b.onyx.flush = none →
      exec (.flushWriteDeadline) ⟨q, b⟩ = .next ⟨q, b⟩) ∧
  (∀ (q : List Instr) (b : Block) (f : OnyxFlush),
      b.alive .onyx = true →
      b.onyx.flush = some f →
      f.cut = false →
      f.reported = true →
      b.onyx.segs = [] →
      b.onyx.takes = [] →
      b.onyx.rolls = [] →
      b.ch.opalOnyx = [] →
      b.portsIdle = true →
      b.onyx.set = none →
      exec (.flushWriteDeadline) ⟨q, b⟩ = .next ⟨q,
          { b.advance (f.since + ownTicks b .onyx f.since (1024000 * (f.ms - 600))) with onyx := { b.onyx with flush := some { f with cut := true } } }⟩) ∧
  (∀ (q : List Instr) (b : Block) (f : OnyxFlush) (s : MagSet),
      b.alive .onyx = true →
      b.onyx.flush = some f →
      f.reported = false →
      b.onyx.set = some s →
      (∀ m ∈ s.members, (b.port m).shn = true) →
      exec (.shutdownWaitTimeout) ⟨q, b⟩ = .next ⟨q, { b with
        onyx := { b.onyx with flush := some { f with reported := true } }
        ch := { b.ch with onyxReport := b.ch.onyxReport ++ [!f.lost] } }⟩) ∧
  (∀ (q : List Instr) (b : Block),
      b.alive .onyx = true →
      b.onyx.flush = none →
      exec (.shutdownWaitTimeout) ⟨q, b⟩ = .next ⟨q, b⟩) ∧
  (∀ (q : List Instr) (b : Block) (f : OnyxFlush),
      b.alive .onyx = true →
      b.onyx.flush = some f →
      f.reported = true →
      exec (.shutdownWaitTimeout) ⟨q, b⟩ = .next ⟨q, b⟩) ∧
  (∀ (q : List Instr) (b : Block) (f : OnyxFlush),
      b.alive .onyx = true →
      b.onyx.flush = some f →
      f.cut = true →
      exec (.flushWriteDeadline) ⟨q, b⟩ = .next ⟨q, b⟩) ∧
  (∀ (q : List Instr) (b : Block),
      b.alive .onyx = true →
      b.ch.topazOnyx = [] →
      exec (.onyxPowerLoss) ⟨q, b⟩ = .next ⟨q, b⟩) ∧
  (∀ (q : List Instr) (b : Block),
      b.alive .onyx = true →
      b.ch.topazOnyx = [] →
      exec (.onyxShutdown) ⟨q, b⟩ = .next ⟨q, b⟩) ∧
  (∀ (q : List Instr) (b : Block) (ms : Nat) (l : List TopazEvent) (f : OnyxFlush),
      b.alive .onyx = true →
      b.ch.topazOnyx = .loss ms :: l →
      b.onyx.flush = some f →
      b.onyx.set = none →
      exec (.onyxPowerLoss) ⟨q, b⟩ = .next ⟨q, { b with
        onyx := { b.onyx with flush := some { f with reason := .powerLoss, since := b.quartz.tb, ms } }
        ch := { b.ch with topazOnyx := l, keepPowered := b.ch.keepPowered ++ [[]] } }⟩) ∧
  (∀ (q : List Instr) (b : Block),
      b.alive .onyx = true →
      islandEmpty b .onyx = false →
      b.ch.expiry = [] →
      exec (.expiryRequest) ⟨q, b⟩ = .next ⟨q, b⟩) ∧
  (∀ (q : List Instr) (b : Block) (f i : Nat) (l : List (Nat × Nat)) (g : OnyxSeg),
      b.alive .onyx = true →
      islandEmpty b .onyx = false →
      b.ch.expiry = (f, i) :: l →
      osegGet b f i = some g →
      g.outcome = .pending →
      durable g = false →
      g.parts.any (·.committing) = true →
      exec (.expiryRequest) ⟨q, b⟩ = .next ⟨q, b⟩) ∧
  (∀ (q : List Instr) (b : Block) (f i : Nat) (l : List (Nat × Nat)) (g : OnyxSeg),
      b.alive .onyx = true →
      islandEmpty b .onyx = false →
      b.ch.expiry = (f, i) :: l →
      osegGet b f i = some g →
      g.outcome = .pending →
      durable g = false →
      g.parts.any (·.committing) = false →
      exec (.expiryRequest) ⟨q, b⟩ = .next ⟨q, serveOnyx (giveOutcome g .expired
          { b with ch := { b.ch with expiry := l } })⟩) ∧
  (∀ (q : List Instr) (b : Block) (f i : Nat) (l : List (Nat × Nat)) (g : OnyxSeg),
      b.alive .onyx = true →
      islandEmpty b .onyx = false →
      b.ch.expiry = (f, i) :: l →
      osegGet b f i = some g →
      g.outcome = .pending →
      durable g = true →
      exec (.expiryRequest) ⟨q, b⟩ = .next ⟨q, serveOnyx (giveOutcome g (durableOutcome g)
          { b with ch := { b.ch with expiry := l } })⟩) ∧
  (∀ (q : List Instr) (b : Block) (ecc : Ecc),
      b.alive .onyx = true →
      islandEmpty b .onyx = false →
      b.ch.spinelOnyx = [] →
      exec (.magazineStripeToken ecc) ⟨q, b⟩ = .next ⟨q, b⟩) ∧
  (∀ (q : List Instr) (b : Block) (ecc : Ecc) (k : SegToken) (l : List SegToken),
      b.alive .onyx = true →
      islandEmpty b .onyx = false →
      b.ch.spinelOnyx = k :: l →
      b.accepts .onyx k.sent = false →
      exec (.magazineStripeToken ecc) ⟨q, b⟩ = .next ⟨q, b⟩) ∧
  (∀ (q : List Instr) (b : Block) (ecc : Ecc) (k : SegToken) (l : List SegToken) (g : OnyxSeg),
      b.alive .onyx = true →
      islandEmpty b .onyx = false →
      b.ch.spinelOnyx = k :: l →
      b.accepts .onyx k.sent = true →
      k.isFailed = false →
      osegGet b k.frame k.index = some g →
      exec (.magazineStripeToken ecc) ⟨q, b⟩ = .next ⟨q, serveOnyx (takeStripe k g ecc (retireToken k
          { b with ch := { b.ch with spinelOnyx := l } }))⟩) ∧
  (∀ (q : List Instr) (b : Block) (ecc : Ecc) (k : SegToken) (l : List SegToken),
      b.alive .onyx = true →
      islandEmpty b .onyx = false →
      b.ch.spinelOnyx = k :: l →
      b.accepts .onyx k.sent = true →
      k.isFailed = true →
      b.ch.noticeOnyx = [] →
      exec (.magazineStripeToken ecc) ⟨q, b⟩ = .next ⟨q, serveOnyx (failedToken k (retireToken k
          { b with ch := { b.ch with spinelOnyx := l } }))⟩) ∧
  (∀ (q : List Instr) (b : Block) (ecc : Ecc),
      b.alive .onyx = true →
      islandEmpty b .onyx = false →
      exec (.magazineStripeToken ecc) ⟨q, b⟩ = .next ⟨q, magazineStripeToken ecc b⟩ ∧
        onlyChanges [.quartz, .jade, .opal, .posts, .onyx, .evr, .topaz, .ch, .trace, .out] b (magazineStripeToken ecc b)) ∧
  (∀ (q : List Instr) (b : Block) (ecc : Ecc),
      b.failing .onyx = true →
      exec (.magazineStripeToken ecc) ⟨q, b⟩ = .next ⟨q, onyxFails (magazineStripeToken ecc) b⟩) ∧
  (∀ (q : List Instr) (b : Block) (ecc : Ecc),
      b.failing .onyx = false →
      (b.alive .onyx = false ∨ islandEmpty b .onyx = true) →
      exec (.magazineStripeToken ecc) ⟨q, b⟩ = .next ⟨q, b⟩) ∧
  (∀ (q : List Instr) (b : Block),
      b.alive .onyx = true →
      islandEmpty b .onyx = false →
      exec (.expiryRequest) ⟨q, b⟩ = .next ⟨q, expiryRequest b⟩ ∧
        onlyChanges [.quartz, .jade, .opal, .posts, .onyx, .evr, .ch, .trace, .out] b (expiryRequest b)) ∧
  (∀ (q : List Instr) (b : Block),
      b.failing .onyx = true →
      exec (.expiryRequest) ⟨q, b⟩ = .next ⟨q, onyxDropsExpiry b⟩) ∧
  (∀ (q : List Instr) (b : Block),
      b.failing .onyx = false →
      (b.alive .onyx = false ∨ islandEmpty b .onyx = true) →
      exec (.expiryRequest) ⟨q, b⟩ = .next ⟨q, b⟩) ∧
  (∀ (q : List Instr) (b : Block),
      b.alive .onyx = true →
      exec (.onyxPowerLoss) ⟨q, b⟩ = .next ⟨q, onyxPowerLoss b⟩ ∧
        onlyChanges [.quartz, .jade, .opal, .posts, .onyx, .evr, .ch, .trace, .out] b (onyxPowerLoss b)) ∧
  (∀ (q : List Instr) (b : Block),
      b.alive .onyx = true →
      exec (.onyxShutdown) ⟨q, b⟩ = .next ⟨q, onyxShutdown b⟩ ∧
        onlyChanges [.quartz, .jade, .opal, .posts, .onyx, .evr, .ch, .trace, .out] b (onyxShutdown b)) ∧
  (∀ (q : List Instr) (b : Block),
      b.alive .onyx = true →
      exec (.flushWriteDeadline) ⟨q, b⟩ = .next ⟨q, flushWriteDeadline b⟩ ∧
        onlyChanges [.quartz, .jade, .opal, .posts, .onyx, .evr, .ch, .trace, .out] b (flushWriteDeadline b)) ∧
  (∀ (q : List Instr) (b : Block),
      b.alive .onyx = true →
      exec (.shutdownWaitTimeout) ⟨q, b⟩ = .next ⟨q, shutdownWaitTimeout b⟩ ∧
        onlyChanges [.onyx, .ch, .trace] b (shutdownWaitTimeout b))

/-- IN, OUT, MOV, SET, PUSH and PULL move words between pins, registers, shift registers and queues, or the data
registers of a gang, and PC goes on. Rules: 13_pin_sequencers.md. -/
def Obligations.EngineInstructionsMoveData : Prop :=
  (∀ (q : List Instr) (b : Block) (n : Nat) (joins : Bool) (w : Half) (s : Block),
      b.alive .agate = true →
      runs b n = true →
      fetchWord b n = w →
      isOp 2 w = true →
      s = cycleAt n joins b →
      stallOf s n w = .none_ →
      (jumpTo s n w).any (fun a => 48 ≤ a) = false →
      Completes (.seqIn n joins) ⟨q, b⟩ (fun t =>
        (∀ m ∈ crew b n, t.engine m =
            { s.engine m with si := shiftIn (siLsb b m) (countOf w) (s.engine m).si (inSource s m (sel w)), siCount := min 32 ((s.engine m).siCount + countOf w), pc := nextPc s n (s.engine n).pc (jumpTo s n w), stall := .none_ }) ∧
        (∀ m < 8, m ∉ crew b n → t.engine m = s.engine m) ∧
        onlyChanges [.agate, .ch, .trace] b t)) ∧
  (∀ (q : List Instr) (b : Block) (n : Nat) (joins : Bool) (w : Half) (s : Block),
      b.alive .agate = true →
      runs b n = true →
      fetchWord b n = w →
      isOp 3 w = true →
      s = cycleAt n joins b →
      stallOf s n w = .none_ →
      (jumpTo s n w).any (fun a => 48 ≤ a) = false →
      Completes (.seqOut n joins) ⟨q, b⟩ (fun t =>
        (∀ m ∈ crew b n, t.engine m =
            { s.engine m with so := (shiftOut (soLsb b m) (countOf w) (s.engine m).so).2, soLeft := (s.engine m).soLeft - countOf w, c := if sel w = 0 then (shiftOut (soLsb b m) (countOf w) (s.engine m).so).1 else (s.engine m).c, v := if sel w = 1 then (shiftOut (soLsb b m) (countOf w) (s.engine m).so).1 else (s.engine m).v, si := if sel w = 4 then (shiftOut (soLsb b m) (countOf w) (s.engine m).so).1 else (s.engine m).si, siCount := if sel w = 4 then countOf w else (s.engine m).siCount, pc := nextPc s n (s.engine n).pc (jumpTo s n w), stall := .none_ }) ∧
        (∀ m < 8, m ∉ crew b n → t.engine m = s.engine m) ∧
        onlyChanges [.agate, .ch, .trace] b t)) ∧
  (∀ (q : List Instr) (b : Block) (n : Nat) (joins : Bool) (w : Half) (s : Block),
      b.alive .agate = true →
      runs b n = true →
      fetchWord b n = w →
      isOp 6 w = true →
      s = cycleAt n joins b →
      stallOf s n w = .none_ →
      (jumpTo s n w).any (fun a => 48 ≤ a) = false →
      Completes (.seqMov n joins) ⟨q, b⟩ (fun t =>
        (∀ m ∈ crew b n, t.engine m =
            { s.engine m with c := if sel w = 0 then (movOp (bitsOf w.toNat 8 7) (movSource s m (bitsOf w.toNat 6 4))) else (s.engine m).c, v := if sel w = 1 then (movOp (bitsOf w.toNat 8 7) (movSource s m (bitsOf w.toNat 6 4))) else (s.engine m).v, si := if sel w = 4 then (movOp (bitsOf w.toNat 8 7) (movSource s m (bitsOf w.toNat 6 4))) else (s.engine m).si, siCount := if sel w = 4 then 0 else (s.engine m).siCount, so := if sel w = 5 then (movOp (bitsOf w.toNat 8 7) (movSource s m (bitsOf w.toNat 6 4))) else (s.engine m).so, soLeft := if sel w = 5 then 32 else (s.engine m).soLeft, pc := nextPc s n (s.engine n).pc (jumpTo s n w), stall := .none_ }) ∧
        (∀ m < 8, m ∉ crew b n → t.engine m = s.engine m) ∧
        onlyChanges [.agate, .ch, .trace] b t)) ∧
  (∀ (q : List Instr) (b : Block) (n : Nat) (joins : Bool) (w : Half) (s : Block),
      b.alive .agate = true →
      runs b n = true →
      fetchWord b n = w →
      isOp 7 w = true →
      s = cycleAt n joins b →
      stallOf s n w = .none_ →
      (jumpTo s n w).any (fun a => 48 ≤ a) = false →
      Completes (.seqSet n joins) ⟨q, b⟩ (fun t =>
        (∀ m ∈ crew b n, t.engine m =
            { s.engine m with c := if sel w = 0 then BitVec.ofNat 32 (bitsOf w.toNat 8 3) else (s.engine m).c, v := if sel w = 1 then BitVec.ofNat 32 (bitsOf w.toNat 8 3) else (s.engine m).v, pc := nextPc s n (s.engine n).pc (jumpTo s n w), stall := .none_ }) ∧
        (∀ m < 8, m ∉ crew b n → t.engine m = s.engine m) ∧
        onlyChanges [.agate, .ch, .trace] b t)) ∧
  (∀ (q : List Instr) (b : Block) (n : Nat) (w : Half),
      b.alive .agate = true →
      runs b n = true →
      fetchWord b n = w →
      isOp 7 w = true →
      sel w = 2 →
      ganged b n = false →
      sideCount b n = 0 →
      (∀ p < 16, muxFunc b p = 0) →
      Completes (.seqSet n false) ⟨q, b⟩ (fun t =>
        (∀ i < min 6 (owWidth b n), vget t.agate.level ((owBase b n + i) % 16) false = (bitsOf w.toNat 8 3).testBit i) ∧
        onlyChanges [.agate, .ch, .trace] b t)) ∧
  (∀ (q : List Instr) (b : Block) (n : Nat) (joins : Bool) (w : Half) (s : Block),
      b.alive .agate = true →
      runs b n = true →
      fetchWord b n = w →
      isOp 4 w = true →
      s = cycleAt n joins b →
      stallOf s n w = .none_ →
      (jumpTo s n w).any (fun a => 48 ≤ a) = false →
      ganged b n = false →
      Completes (.seqPush n joins) ⟨q, b⟩ (fun t =>
        (∀ m ∈ crew b n, t.engine m =
            { s.engine m with rx := (s.engine m).rx ++ [(s.engine m).si], si := 0, siCount := 0, pc := nextPc s n (s.engine n).pc (jumpTo s n w), stall := .none_ }) ∧
        (∀ m < 8, m ∉ crew b n → t.engine m = s.engine m) ∧
        onlyChanges [.agate, .ch, .trace] b t)) ∧
  (∀ (q : List Instr) (b : Block) (n : Nat) (joins : Bool) (w : Half) (s : Block),
      b.alive .agate = true →
      runs b n = true →
      fetchWord b n = w →
      isOp 4 w = true →
      s = cycleAt n joins b →
      stallOf s n w = .none_ →
      (jumpTo s n w).any (fun a => 48 ≤ a) = false →
      ganged b n = true →
      Completes (.seqPush n joins) ⟨q, b⟩ (fun t =>
        (∀ m ∈ crew b n, t.engine m =
            { s.engine m with si := 0, siCount := 0, pc := nextPc s n (s.engine n).pc (jumpTo s n w), stall := .none_ }) ∧
        (∀ m < 8, m ∉ crew b n → t.engine m = s.engine m) ∧
        gangRegs t n = { gangRegs b n with
          in_ := #v[(b.engine n).si, (b.engine (n + 1)).si, (b.engine (n + 2)).si, (b.engine (n + 3)).si], inValid := true } ∧
        onlyChanges [.agate, .ch, .trace] b t)) ∧
  (∀ (q : List Instr) (b : Block) (n : Nat) (joins : Bool) (w : Half) (s : Block),
      b.alive .agate = true →
      runs b n = true →
      fetchWord b n = w →
      isOp 5 w = true →
      s = cycleAt n joins b →
      stallOf s n w = .none_ →
      (jumpTo s n w).any (fun a => 48 ≤ a) = false →
      ganged b n = false →
      Completes (.seqPull n joins) ⟨q, b⟩ (fun t =>
        (∀ m ∈ crew b n, t.engine m =
            { s.engine m with so := (s.engine m).tx.headD 0, soLeft := 32, tx := (s.engine m).tx.drop 1, pc := nextPc s n (s.engine n).pc (jumpTo s n w), stall := .none_ }) ∧
        (∀ m < 8, m ∉ crew b n → t.engine m = s.engine m) ∧
        onlyChanges [.agate, .ch, .trace] b t)) ∧
  (∀ (q : List Instr) (b : Block) (n : Nat) (joins : Bool) (w : Half) (s : Block),
      b.alive .agate = true →
      runs b n = true →
      fetchWord b n = w →
      isOp 5 w = true →
      s = cycleAt n joins b →
      stallOf s n w = .none_ →
      (jumpTo s n w).any (fun a => 48 ≤ a) = false →
      ganged b n = true →
      Completes (.seqPull n joins) ⟨q, b⟩ (fun t =>
        (∀ m ∈ crew b n, t.engine m =
            { s.engine m with so := vget (gangRegs b n).out (m % 4) 0, soLeft := 32, pc := nextPc s n (s.engine n).pc (jumpTo s n w), stall := .none_ }) ∧
        (∀ m < 8, m ∉ crew b n → t.engine m = s.engine m) ∧
        gangRegs t n = { gangRegs b n with outValid := false } ∧
        onlyChanges [.agate, .ch, .trace] b t)) ∧
  (∀ (q : List Instr) (b : Block) (n : Nat) (joins : Bool),
      b.alive .agate = true →
      (runs b n = false ∨ isOp 2 (fetchWord b n) = false) →
      exec (.seqIn n joins) ⟨q, b⟩ = .next ⟨q, b⟩) ∧
  (∀ (q : List Instr) (b : Block) (n : Nat) (joins : Bool),
      b.alive .agate = true →
      (runs b n = false ∨ isOp 3 (fetchWord b n) = false) →
      exec (.seqOut n joins) ⟨q, b⟩ = .next ⟨q, b⟩) ∧
  (∀ (q : List Instr) (b : Block) (n : Nat) (joins : Bool),
      b.alive .agate = true →
      (runs b n = false ∨ isOp 6 (fetchWord b n) = false) →
      exec (.seqMov n joins) ⟨q, b⟩ = .next ⟨q, b⟩) ∧
  (∀ (q : List Instr) (b : Block) (n : Nat) (joins : Bool),
      b.alive .agate = true →
      (runs b n = false ∨ isOp 7 (fetchWord b n) = false) →
      exec (.seqSet n joins) ⟨q, b⟩ = .next ⟨q, b⟩) ∧
  (∀ (q : List Instr) (b : Block) (n : Nat) (joins : Bool),
      b.alive .agate = true →
      (runs b n = false ∨ isOp 4 (fetchWord b n) = false) →
      exec (.seqPush n joins) ⟨q, b⟩ = .next ⟨q, b⟩) ∧
  (∀ (q : List Instr) (b : Block) (n : Nat) (joins : Bool),
      b.alive .agate = true →
      (runs b n = false ∨ isOp 5 (fetchWord b n) = false) →
      exec (.seqPull n joins) ⟨q, b⟩ = .next ⟨q, b⟩) ∧
  (∀ (q : List Instr) (b : Block) (n : Nat) (joins : Bool),
      b.alive .agate = true →
      exec (.seqIn n joins) ⟨q, b⟩ = .next ⟨q, seqIn n joins b⟩ ∧
        onlyChanges [.agate, .ch, .trace] b (seqIn n joins b)) ∧
  (∀ (q : List Instr) (b : Block) (n : Nat) (joins : Bool),
      b.alive .agate = true →
      exec (.seqOut n joins) ⟨q, b⟩ = .next ⟨q, seqOut n joins b⟩ ∧
        onlyChanges [.agate, .ch, .trace] b (seqOut n joins b)) ∧
  (∀ (q : List Instr) (b : Block) (n : Nat) (joins : Bool),
      b.alive .agate = true →
      exec (.seqMov n joins) ⟨q, b⟩ = .next ⟨q, seqMov n joins b⟩ ∧
        onlyChanges [.agate, .ch, .trace] b (seqMov n joins b)) ∧
  (∀ (q : List Instr) (b : Block) (n : Nat) (joins : Bool),
      b.alive .agate = true →
      exec (.seqSet n joins) ⟨q, b⟩ = .next ⟨q, seqSet n joins b⟩ ∧
        onlyChanges [.agate, .ch, .trace] b (seqSet n joins b)) ∧
  (∀ (q : List Instr) (b : Block) (n : Nat) (joins : Bool),
      b.alive .agate = true →
      exec (.seqPush n joins) ⟨q, b⟩ = .next ⟨q, seqPush n joins b⟩ ∧
        onlyChanges [.agate, .ch, .trace] b (seqPush n joins b)) ∧
  (∀ (q : List Instr) (b : Block) (n : Nat) (joins : Bool),
      b.alive .agate = true →
      exec (.seqPull n joins) ⟨q, b⟩ = .next ⟨q, seqPull n joins b⟩ ∧
        onlyChanges [.agate, .ch, .trace] b (seqPull n joins b))

/-- JMP, WAIT, CAD and FLAG decide what an engine does next, raise, drop, take and trigger; an illegal instruction halts
it. Rules: 13_pin_sequencers.md. -/
def Obligations.EngineInstructionsSteer : Prop :=
  (∀ (q : List Instr) (b : Block) (n : Nat) (joins : Bool) (w : Half) (s : Block),
      b.alive .agate = true →
      runs b n = true →
      fetchWord b n = w →
      isOp 0 w = true →
      s = cycleAt n joins b →
      stallOf s n w = .none_ →
      (jumpTo s n w).any (fun a => 48 ≤ a) = false →
      Completes (.seqJmp n joins) ⟨q, b⟩ (fun t =>
        (∀ m ∈ crew b n, t.engine m =
            { s.engine m with c := if sel w = 2 then (s.engine m).c - 1 else (s.engine m).c, pc := nextPc s n (s.engine n).pc (jumpTo s n w), stall := .none_ }) ∧
        (∀ m < 8, m ∉ crew b n → t.engine m = s.engine m) ∧
        onlyChanges [.agate, .ch, .trace] b t)) ∧
  (∀ (q : List Instr) (b : Block) (n : Nat) (joins : Bool) (w : Half) (s : Block),
      b.alive .agate = true →
      runs b n = true →
      fetchWord b n = w →
      isOp 1 w = true →
      s = cycleAt n joins b →
      stallOf s n w = .none_ →
      (jumpTo s n w).any (fun a => 48 ≤ a) = false →
      Completes (.seqWait n joins) ⟨q, b⟩ (fun t =>
        (∀ m ∈ crew b n, t.engine m = { s.engine m with pc := nextPc s n (s.engine n).pc (jumpTo s n w), stall := .none_ })
            ∧
        (∀ m < 8, m ∉ crew b n → t.engine m = s.engine m) ∧
        onlyChanges [.agate, .ch, .trace] b t)) ∧
  (∀ (q : List Instr) (b : Block) (n : Nat) (joins : Bool) (w : Half) (s : Block),
      b.alive .agate = true →
      runs b n = true →
      fetchWord b n = w →
      isOp 1 w = true →
      s = cycleAt n joins b →
      stallOf s n w = .wait →
      Completes (.seqWait n joins) ⟨q, b⟩ (fun t =>
        (∀ m ∈ crew b n, t.engine m = { s.engine m with stall := .wait }) ∧
        (∀ m < 8, m ∉ crew b n → t.engine m = s.engine m) ∧
        t.agate.level = b.agate.level ∧
        t.agate.flags = b.agate.flags ∧
        onlyChanges [.agate, .ch, .trace] b t)) ∧
  (∀ (q : List Instr) (b : Block) (n : Nat) (joins : Bool) (w : Half) (s : Block),
      b.alive .agate = true →
      runs b n = true →
      fetchWord b n = w →
      isOp 5 w = true →
      s = cycleAt n joins b →
      stallOf s n w = .pull →
      Completes (.seqPull n joins) ⟨q, b⟩ (fun t =>
        (∀ m ∈ crew b n, t.engine m = { s.engine m with stall := .pull }) ∧
        (∀ m < 8, m ∉ crew b n → t.engine m = s.engine m) ∧
        t.agate.level = b.agate.level ∧
        t.agate.flags = b.agate.flags ∧
        onlyChanges [.agate, .ch, .trace] b t)) ∧
  (∀ (q : List Instr) (b : Block) (n : Nat) (joins : Bool) (w : Half) (s : Block),
      b.alive .agate = true →
      runs b n = true →
      fetchWord b n = w →
      isOp 4 w = true →
      s = cycleAt n joins b →
      stallOf s n w = .push →
      Completes (.seqPush n joins) ⟨q, b⟩ (fun t =>
        (∀ m ∈ crew b n, t.engine m = { s.engine m with stall := .push }) ∧
        (∀ m < 8, m ∉ crew b n → t.engine m = s.engine m) ∧
        t.agate.level = b.agate.level ∧
        t.agate.flags = b.agate.flags ∧
        onlyChanges [.agate, .ch, .trace] b t)) ∧
  (∀ (q : List Instr) (b : Block) (n : Nat) (joins : Bool) (w : Half) (s : Block),
      b.alive .agate = true →
      runs b n = true →
      fetchWord b n = w →
      isFlag 2 w = true →
      s = cycleAt n joins b →
      stallOf s n w = .flag →
      Completes (.flagTake n joins) ⟨q, b⟩ (fun t =>
        (∀ m ∈ crew b n, t.engine m = { s.engine m with stall := .flag }) ∧
        (∀ m < 8, m ∉ crew b n → t.engine m = s.engine m) ∧
        t.agate.level = b.agate.level ∧
        t.agate.flags = b.agate.flags ∧
        onlyChanges [.agate, .ch, .trace] b t)) ∧
  (∀ (q : List Instr) (b : Block) (n : Nat) (joins : Bool) (w : Half) (s : Block),
      b.alive .agate = true →
      runs b n = true →
      fetchWord b n = w →
      isFlag 0 w = true →
      s = cycleAt n joins b →
      stallOf s n w = .none_ →
      (jumpTo s n w).any (fun a => 48 ≤ a) = false →
      Completes (.flagRaise n joins) ⟨q, b⟩ (fun t =>
        (∀ m ∈ crew b n, t.engine m = { s.engine m with pc := nextPc s n (s.engine n).pc (jumpTo s n w), stall := .none_ })
            ∧
        (∀ m < 8, m ∉ crew b n → t.engine m = s.engine m) ∧
        t.agate.flags = vset b.agate.flags (bitsOf w.toNat 5 3) true ∧
        onlyChanges [.agate, .ch, .trace] b t)) ∧
  (∀ (q : List Instr) (b : Block) (n : Nat) (joins : Bool) (w : Half) (s : Block),
      b.alive .agate = true →
      runs b n = true →
      fetchWord b n = w →
      isFlag 1 w = true →
      s = cycleAt n joins b →
      stallOf s n w = .none_ →
      (jumpTo s n w).any (fun a => 48 ≤ a) = false →
      vget s.agate.cycRaised (bitsOf w.toNat 5 3) false = false →
      Completes (.flagDrop n joins) ⟨q, b⟩ (fun t =>
        (∀ m ∈ crew b n, t.engine m = { s.engine m with pc := nextPc s n (s.engine n).pc (jumpTo s n w), stall := .none_ })
            ∧
        (∀ m < 8, m ∉ crew b n → t.engine m = s.engine m) ∧
        t.agate.flags = vset b.agate.flags (bitsOf w.toNat 5 3) false ∧
        onlyChanges [.agate, .ch, .trace] b t)) ∧
  (∀ (q : List Instr) (b : Block) (n : Nat) (joins : Bool) (w : Half) (s : Block),
      b.alive .agate = true →
      runs b n = true →
      fetchWord b n = w →
      isFlag 2 w = true →
      s = cycleAt n joins b →
      stallOf s n w = .none_ →
      (jumpTo s n w).any (fun a => 48 ≤ a) = false →
      vget s.agate.cycRaised (bitsOf w.toNat 5 3) false = false →
      Completes (.flagTake n joins) ⟨q, b⟩ (fun t =>
        (∀ m ∈ crew b n, t.engine m = { s.engine m with pc := nextPc s n (s.engine n).pc (jumpTo s n w), stall := .none_ })
            ∧
        (∀ m < 8, m ∉ crew b n → t.engine m = s.engine m) ∧
        t.agate.flags = vset b.agate.flags (bitsOf w.toNat 5 3) false ∧
        onlyChanges [.agate, .ch, .trace] b t)) ∧
  (∀ (q : List Instr) (b : Block) (n : Nat) (joins : Bool) (w : Half) (s : Block),
      b.alive .agate = true →
      runs b n = true →
      fetchWord b n = w →
      isFlag 3 w = true →
      s = cycleAt n joins b →
      stallOf s n w = .none_ →
      (jumpTo s n w).any (fun a => 48 ≤ a) = false →
      Completes (.flagTrig n joins) ⟨q, b⟩ (fun t =>
        (∀ m ∈ crew b n, t.engine m = { s.engine m with pc := nextPc s n (s.engine n).pc (jumpTo s n w), stall := .none_ })
            ∧
        (∀ m < 8, m ∉ crew b n → t.engine m = s.engine m) ∧
        t.ch.agateGarnet = b.ch.agateGarnet ++ [.flag] ∧
        t.agate.flags = b.agate.flags ∧
        onlyChanges [.agate, .ch, .trace] b t)) ∧
  (∀ (q : List Instr) (b : Block) (n : Nat) (joins : Bool) (w : Half) (s : Block),
      b.alive .agate = true →
      runs b n = true →
      fetchWord b n = w →
      isOp 9 w = true →
      s = cycleAt n joins b →
      stallOf s n w = .none_ →
      (jumpTo s n w).any (fun a => 48 ≤ a) = false →
      Completes (.seqCad n joins) ⟨q, b⟩ (fun t =>
        (∀ m ∈ crew b n, t.engine m =
            { s.engine m with latches := if m = n then vset (s.engine m).latches (bitsOf w.toNat 7 3) false else (s.engine m).latches, pc := nextPc s n (s.engine n).pc (jumpTo s n w), stall := .none_ }) ∧
        (∀ m < 8, m ∉ crew b n → t.engine m = s.engine m) ∧
        onlyChanges [.agate, .ch, .trace] b t)) ∧
  (∀ (q : List Instr) (b : Block) (n : Nat) (joins : Bool) (w : Half) (s : Block),
      b.alive .agate = true →
      runs b n = true →
      fetchWord b n = w →
      isOp 9 w = true →
      s = cycleAt n joins b →
      bitOf w.toNat 11 = true →
      vget b.agate.due n false = true →
      (b.engine n).stall = .none_ →
      ganged b n = false →
      Completes (.seqCad n joins) ⟨q, b⟩ (fun t =>
        t.engine n = { s.engine n with stall := .cad } ∧
        vget (t.engine n).latches (bitsOf w.toNat 7 3) false = false ∧
        onlyChanges [.agate, .ch, .trace] b t)) ∧
  (∀ (q : List Instr) (b : Block) (n : Nat) (joins : Bool) (s : Block),
      b.alive .agate = true →
      runs b n = true →
      badOp (fetchWord b n) = true →
      s = cycleAt n joins b →
      Completes (.illegalOpcode n joins) ⟨q, b⟩ (fun t =>
        (∀ m ∈ crew b n, t.engine m = { s.engine m with en := false, err := .badOp, stall := .none_ }) ∧
        (∀ m < 8, m ∉ crew b n → t.engine m = s.engine m) ∧
        onlyChanges [.agate, .ch, .trace] b t)) ∧
  (∀ (q : List Instr) (b : Block) (n : Nat) (joins : Bool) (s : Block),
      b.alive .agate = true →
      runs b n = true →
      badOp (fetchWord b n) = false →
      s = cycleAt n joins b →
      stallOf s n (fetchWord b n) = .none_ →
      (jumpTo s n (fetchWord b n)).any (fun a => 48 ≤ a) = true →
      Completes (.illegalOpcode n joins) ⟨q, b⟩ (fun t =>
        (∀ m ∈ crew b n, t.engine m = { s.engine m with en := false, err := .badAddr, stall := .none_ }) ∧
        (∀ m < 8, m ∉ crew b n → t.engine m = s.engine m) ∧
        onlyChanges [.agate, .ch, .trace] b t)) ∧
  (∀ (q : List Instr) (b : Block) (n : Nat) (joins : Bool),
      b.alive .agate = true →
      runs b n = false →
      exec (.illegalOpcode n joins) ⟨q, b⟩ = .next ⟨q, b⟩) ∧
  (∀ (q : List Instr) (b : Block) (n : Nat) (joins : Bool),
      b.alive .agate = true →
      (runs b n = false ∨ isOp 0 (fetchWord b n) = false) →
      exec (.seqJmp n joins) ⟨q, b⟩ = .next ⟨q, b⟩) ∧
  (∀ (q : List Instr) (b : Block) (n : Nat) (joins : Bool),
      b.alive .agate = true →
      (runs b n = false ∨ isOp 1 (fetchWord b n) = false) →
      exec (.seqWait n joins) ⟨q, b⟩ = .next ⟨q, b⟩) ∧
  (∀ (q : List Instr) (b : Block) (n : Nat) (joins : Bool),
      b.alive .agate = true →
      (runs b n = false ∨ isFlag 0 (fetchWord b n) = false) →
      exec (.flagRaise n joins) ⟨q, b⟩ = .next ⟨q, b⟩) ∧
  (∀ (q : List Instr) (b : Block) (n : Nat) (joins : Bool),
      b.alive .agate = true →
      (runs b n = false ∨ isFlag 1 (fetchWord b n) = false) →
      exec (.flagDrop n joins) ⟨q, b⟩ = .next ⟨q, b⟩) ∧
  (∀ (q : List Instr) (b : Block) (n : Nat) (joins : Bool),
      b.alive .agate = true →
      (runs b n = false ∨ isFlag 2 (fetchWord b n) = false) →
      exec (.flagTake n joins) ⟨q, b⟩ = .next ⟨q, b⟩) ∧
  (∀ (q : List Instr) (b : Block) (n : Nat) (joins : Bool),
      b.alive .agate = true →
      (runs b n = false ∨ isFlag 3 (fetchWord b n) = false) →
      exec (.flagTrig n joins) ⟨q, b⟩ = .next ⟨q, b⟩) ∧
  (∀ (q : List Instr) (b : Block) (n : Nat) (joins : Bool),
      b.alive .agate = true →
      (runs b n = false ∨ isOp 9 (fetchWord b n) = false) →
      exec (.seqCad n joins) ⟨q, b⟩ = .next ⟨q, b⟩) ∧
  (∀ (q : List Instr) (b : Block) (n : Nat) (joins : Bool),
      b.alive .agate = true →
      exec (.seqJmp n joins) ⟨q, b⟩ = .next ⟨q, seqJmp n joins b⟩ ∧
        onlyChanges [.agate, .ch, .trace] b (seqJmp n joins b)) ∧
  (∀ (q : List Instr) (b : Block) (n : Nat) (joins : Bool),
      b.alive .agate = true →
      exec (.seqWait n joins) ⟨q, b⟩ = .next ⟨q, seqWait n joins b⟩ ∧
        onlyChanges [.agate, .ch, .trace] b (seqWait n joins b)) ∧
  (∀ (q : List Instr) (b : Block) (n : Nat) (joins : Bool),
      b.alive .agate = true →
      exec (.flagTake n joins) ⟨q, b⟩ = .next ⟨q, flagTake n joins b⟩ ∧
        onlyChanges [.agate, .ch, .trace] b (flagTake n joins b)) ∧
  (∀ (q : List Instr) (b : Block) (n : Nat) (joins : Bool),
      b.alive .agate = true →
      exec (.flagRaise n joins) ⟨q, b⟩ = .next ⟨q, flagRaise n joins b⟩ ∧
        onlyChanges [.agate, .ch, .trace] b (flagRaise n joins b)) ∧
  (∀ (q : List Instr) (b : Block) (n : Nat) (joins : Bool),
      b.alive .agate = true →
      exec (.flagDrop n joins) ⟨q, b⟩ = .next ⟨q, flagDrop n joins b⟩ ∧
        onlyChanges [.agate, .ch, .trace] b (flagDrop n joins b)) ∧
  (∀ (q : List Instr) (b : Block) (n : Nat) (joins : Bool),
      b.alive .agate = true →
      exec (.flagTrig n joins) ⟨q, b⟩ = .next ⟨q, flagTrig n joins b⟩ ∧
        onlyChanges [.agate, .ch, .trace] b (flagTrig n joins b)) ∧
  (∀ (q : List Instr) (b : Block) (n : Nat) (joins : Bool),
      b.alive .agate = true →
      exec (.seqCad n joins) ⟨q, b⟩ = .next ⟨q, seqCad n joins b⟩ ∧
        onlyChanges [.agate, .ch, .trace] b (seqCad n joins b)) ∧
  (∀ (q : List Instr) (b : Block) (n : Nat) (joins : Bool),
      b.alive .agate = true →
      exec (.illegalOpcode n joins) ⟨q, b⟩ = .next ⟨q, illegalOpcode n joins b⟩ ∧
        onlyChanges [.agate, .ch, .trace] b (illegalOpcode n joins b))

/-- A write of SEQ_CTRL enables and halts engines and forms gangs; the management core hands a gang its words. Rules: 13_pin_sequencers.md, 18_register_map.md. -/
def Obligations.EnginesAndGangsAreControlled : Prop :=
  (∀ (q : List Instr) (b : Block) (w : Word) (s : Block),
      b.alive .agate = true →
      b.bar0 = true →
      b.committed .agate = true →
      b.agate.gangLo = false →
      b.agate.gangHi = false →
      w.getLsbD 8 = false →
      w.getLsbD 9 = false →
      s = startDue b →
      Completes (.engineEnable w) ⟨q, b⟩ (fun t =>
        (∀ n < 8, t.engine n =
          if w.getLsbD n = true ∧ (s.engine n).en = false then
            { blankEngine with
              tx := (s.engine n).tx, rx := (s.engine n).rx, miss := (s.engine n).miss, en := !decide (48 ≤ flowStart b n)
              pc := if 48 ≤ flowStart b n then (s.engine n).pc else flowStart b n
              err := if 48 ≤ flowStart b n then .badAddr else .none_ }
          else if w.getLsbD n = false ∧ (s.engine n).en = true then { s.engine n with en := false, stall := .none_ }
          else s.engine n) ∧
        (∀ n < 8, w.getLsbD n = true → (s.engine n).en = false → vget t.agate.due n false = !decide (48 ≤ flowStart b n)) ∧
        onlyChanges [.posts, .agate, .topaz] b t)) ∧
  (∀ (q : List Instr) (b : Block) (w : Word) (s : Block),
      b.alive .agate = true →
      b.bar0 = true →
      b.committed .agate = true →
      b.agate.gangLo = false →
      b.agate.gangHi = false →
      w.getLsbD 8 = false →
      w.getLsbD 9 = false →
      s = startDue b →
      Completes (.engineHalt w) ⟨q, b⟩ (fun t =>
        (∀ n < 8, t.engine n =
          if w.getLsbD n = true ∧ (s.engine n).en = false then
            { blankEngine with
              tx := (s.engine n).tx, rx := (s.engine n).rx, miss := (s.engine n).miss, en := !decide (48 ≤ flowStart b n)
              pc := if 48 ≤ flowStart b n then (s.engine n).pc else flowStart b n
              err := if 48 ≤ flowStart b n then .badAddr else .none_ }
          else if w.getLsbD n = false ∧ (s.engine n).en = true then { s.engine n with en := false, stall := .none_ }
          else s.engine n) ∧
        (∀ n < 8, w.getLsbD n = true → (s.engine n).en = false → vget t.agate.due n false = !decide (48 ≤ flowStart b n)) ∧
        onlyChanges [.posts, .agate, .topaz] b t)) ∧
  (∀ (q : List Instr) (b : Block) (w : Word),
      b.alive .agate = true →
      b.bar0 = true →
      b.committed .agate = true →
      b.agate.gangLo = true →
      w.getLsbD 8 = true →
      w.getLsbD 0 = true →
      (∀ m < 4, (b.engine m).en = false) →
      flowStart b 0 < 48 →
      Completes (.engineEnable w) ⟨q, b⟩ (fun t =>
        (∀ m < 4, t.engine m = { blankEngine with
          tx := (b.engine m).tx, rx := (b.engine m).rx, miss := (b.engine m).miss, en := true, pc := flowStart b 0 }) ∧
        onlyChanges [.posts, .agate, .topaz] b t)) ∧
  (∀ (q : List Instr) (b : Block) (w : Word) (s : Block),
      b.alive .agate = true →
      b.bar0 = true →
      b.committed .agate = true →
      b.agate.gangLo = true →
      w.getLsbD 8 = true →
      w.getLsbD 0 = false →
      (b.engine 0).en = true →
      s = startDue b →
      Completes (.engineHalt w) ⟨q, b⟩ (fun t =>
        (∀ m < 4, t.engine m = { s.engine m with en := false, stall := .none_ }) ∧
        onlyChanges [.posts, .agate, .topaz] b t)) ∧
  (∀ (q : List Instr) (b : Block) (w : Word),
      (b.bar0 = false ∨ b.alive .agate = false) →
      exec (.engineEnable w) ⟨q, b⟩ = .next ⟨q, b⟩) ∧
  (∀ (q : List Instr) (b : Block) (w : Word),
      (b.bar0 = false ∨ b.alive .agate = false) →
      exec (.engineHalt w) ⟨q, b⟩ = .next ⟨q, b⟩) ∧
  (∀ (q : List Instr) (b : Block) (w : Word),
      (b.bar0 = false ∨ b.alive .agate = false) →
      exec (.gangChange w) ⟨q, b⟩ = .next ⟨q, b⟩) ∧
  (∀ (q : List Instr) (b : Block) (w : Word),
      b.alive .agate = true →
      b.bar0 = true →
      b.committed .agate = false →
      b.agate.gangLo = w.getLsbD 8 →
      b.agate.gangHi = w.getLsbD 9 →
      exec (.engineEnable w) ⟨q, b⟩ = .next ⟨q, startDue b⟩) ∧
  (∀ (q : List Instr) (b : Block) (w : Word),
      b.alive .agate = true →
      b.bar0 = true →
      b.committed .agate = false →
      b.agate.gangLo = w.getLsbD 8 →
      b.agate.gangHi = w.getLsbD 9 →
      exec (.engineHalt w) ⟨q, b⟩ = .next ⟨q, startDue b⟩) ∧
  (∀ (q : List Instr) (b : Block) (g : Nat) (data : List (Nat × Word)) (w : Word),
      b.alive .agate = true →
      firmware b = true →
      2 ≤ g →
      exec (.gangCtrlWrite g data w) ⟨q, b⟩ = .next ⟨q, b⟩) ∧
  (∀ (q : List Instr) (b : Block) (w : Word),
      b.alive .agate = true →
      b.bar0 = true →
      (∀ m < 4, (b.engine m).en = false) →
      Completes (.gangChange w) ⟨q, b⟩ (fun t =>
        t.agate.gangLo = w.getLsbD 8 ∧
        (b.agate.gangLo ≠ w.getLsbD 8 → vget t.agate.gang 0 blankGang = blankGang ∧ ∀ m < 4, (t.engine m).tx = [] ∧
            (t.engine m).rx = []) ∧
        onlyChanges [.posts, .agate, .topaz] b t)) ∧
  (∀ (q : List Instr) (b : Block) (w : Word) (m : Nat),
      b.alive .agate = true →
      b.bar0 = true →
      m < 4 →
      (b.engine m).en = true →
      Completes (.gangChange w) ⟨q, b⟩ (fun t =>
        t.agate.gangLo = b.agate.gangLo ∧
        onlyChanges [.posts, .agate, .topaz] b t)) ∧
  (∀ (q : List Instr) (b : Block) (g m : Nat) (v w : Word),
      b.alive .agate = true →
      firmware b = true →
      g < 2 →
      m < 4 →
      (vget b.agate.gang g blankGang).outValid = false →
      Completes (.gangCtrlWrite g [(m, v)] w) ⟨q, b⟩ (fun t =>
        vget t.agate.gang g blankGang = { vget b.agate.gang g blankGang with
          out := vset (vget b.agate.gang g blankGang).out m v, outValid := w.getLsbD 0
          inValid := (vget b.agate.gang g blankGang).inValid && !w.getLsbD 1 } ∧
        onlyChanges [.agate, .out] b t)) ∧
  (∀ (q : List Instr) (b : Block) (g : Nat) (data : List (Nat × Word)) (w : Word),
      b.alive .agate = true →
      firmware b = true →
      g < 2 →
      (vget b.agate.gang g blankGang).outValid = true →
      Completes (.gangCtrlWrite g data w) ⟨q, b⟩ (fun t =>
        vget t.agate.gang g blankGang = { vget b.agate.gang g blankGang with
          inValid := (vget b.agate.gang g blankGang).inValid && !w.getLsbD 1 } ∧
        onlyChanges [.agate, .out] b t)) ∧
  (∀ (q : List Instr) (b : Block) (w : Word),
      exec (.engineEnable w) ⟨q, b⟩ = .next ⟨q, engineEnable w b⟩ ∧
        onlyChanges [.posts, .agate, .topaz] b (engineEnable w b)) ∧
  (∀ (q : List Instr) (b : Block) (w : Word),
      exec (.engineHalt w) ⟨q, b⟩ = .next ⟨q, engineHalt w b⟩ ∧
        onlyChanges [.posts, .agate, .topaz] b (engineHalt w b)) ∧
  (∀ (q : List Instr) (b : Block) (w : Word),
      exec (.gangChange w) ⟨q, b⟩ = .next ⟨q, gangChange w b⟩ ∧
        onlyChanges [.posts, .agate, .topaz] b (gangChange w b)) ∧
  (∀ (q : List Instr) (b : Block) (g : Nat) (data : List (Nat × Word)) (w : Word),
      firmware b = true →
      exec (.gangCtrlWrite g data w) ⟨q, b⟩ = .next ⟨q, gangCtrlWrite g data w b⟩ ∧
        onlyChanges [.agate, .out] b (gangCtrlWrite g data w b)) ∧
  (∀ (q : List Instr) (b : Block) (g : Nat) (data : List (Nat × Word)) (w : Word),
      firmware b = false →
      exec (.gangCtrlWrite g data w) ⟨q, b⟩ = .next ⟨q, b⟩)

/-- Filtered edges, TRIG_IN, Cadence events and SEQ_TRANSFER reach the engines: latches, misses, queues and the program
store. Rules: 04_frame_timing_triggers.md, 08_contexts_rings_doorbells.md, 13_pin_sequencers.md, 18_register_map.md. -/
def Obligations.PinsEventsAndTransfersReachEngines : Prop :=
  (∀ (q : List Instr) (b : Block) (p : Nat) (level : Bool) (s : Block),
      b.alive .agate = true →
      p < 16 →
      (padDriven b p).any (· != level) = false →
      s = startDue b →
      exec (.seqIoEdge p level) ⟨q, b⟩ = .next ⟨q, { s with agate := { s.agate with seen := vset s.agate.seen p level } }⟩)
          ∧
  (∀ (q : List Instr) (b : Block) (p : Nat) (level : Bool),
      b.alive .agate = true →
      (16 ≤ p ∨ (padDriven b p).any (· != level) = true) →
      exec (.seqIoEdge p level) ⟨q, b⟩ = .next ⟨q, b⟩) ∧
  (∀ (q : List Instr) (b : Block) (joins : Bool) (s : Block),
      b.alive .agate = true →
      b.beryl.evr.mode ≠ 2 →
      s = startDue b →
      s.agate.trigArmed = true →
      s.agate.trigLevel = false →
      exec (.trigInEdge joins) ⟨q, b⟩ = .next ⟨q, { s with
        agate := { s.agate with trigLevel := true, trigArmed := false }
        ch := { s.ch with agateGarnet := putPinFirst (if joins = true then s.agate.cycTrigs else 0) s.ch.agateGarnet } }⟩) ∧
  (∀ (q : List Instr) (b : Block) (joins : Bool) (s : Block),
      b.alive .agate = true →
      b.beryl.evr.mode ≠ 2 →
      s = startDue b →
      (s.agate.trigArmed = false ∨ s.agate.trigLevel = true) →
      exec (.trigInEdge joins) ⟨q, b⟩ = .next ⟨q,
          { s with agate := { s.agate with trigLevel := true, trigArmed := false } }⟩) ∧
  (∀ (q : List Instr) (b : Block) (s : Block),
      b.alive .agate = true →
      b.beryl.evr.mode ≠ 2 →
      s = startDue b →
      exec (.trigInInactive) ⟨q, b⟩ = .next ⟨q,
          { s with agate := { s.agate with trigLevel := false, trigArmed := true } }⟩) ∧
  (∀ (q : List Instr) (b : Block) (joins : Bool),
      b.alive .agate = true →
      b.beryl.evr.mode = 2 →
      exec (.trigInEdge joins) ⟨q, b⟩ = .next ⟨q, b⟩) ∧
  (∀ (q : List Instr) (b : Block),
      b.alive .agate = true →
      b.beryl.evr.mode = 2 →
      exec (.trigInInactive) ⟨q, b⟩ = .next ⟨q, b⟩) ∧
  (∀ (q : List Instr) (b : Block) (k : Nat) (l : List Nat) (s : Block),
      b.alive .agate = true →
      islandEmpty b .agate = false →
      b.ch.quartzAgate = k :: l →
      s = startDue b →
      Completes (.cadenceEventAgate 0) ⟨q, b⟩ (fun t =>
        t.ch.quartzAgate = l ∧
        (∀ n < 8, t.engine n =
          if (s.engine n).en = false then s.engine n
          else if vget (s.engine n).latches k false = true then { s.engine n with miss := min 65535 ((s.engine n).miss + 1) }
          else { s.engine n with latches := vset (s.engine n).latches k true }) ∧
        onlyChanges [.posts, .agate, .evr, .topaz, .ch, .trace, .out] b t)) ∧
  (∀ (q : List Instr) (b : Block) (lost : Nat),
      b.alive .agate = true →
      islandEmpty b .agate = false →
      b.ch.quartzAgate = [] →
      exec (.cadenceEventAgate lost) ⟨q, b⟩ = .next ⟨q, b⟩) ∧
  (∀ (q : List Instr) (b : Block) (w : Word),
      b.bar0 = true →
      b.field 0x8440 0 0 = w.toNat % 2 →
      exec (.gioTrigWrite w) ⟨q, b⟩ = .next ⟨q, b.setReg 0x8440 (w.toNat &&& 0xFFFF0001)⟩) ∧
  (∀ (q : List Instr) (b : Block) (w : Word),
      b.bar0 = true →
      b.field 0x8440 0 0 ≠ w.toNat % 2 →
      exec (.gioTrigWrite w) ⟨q, b⟩ = .next ⟨q, (b.setReg 0x8440 (w.toNat &&& 0xFFFF0001)).modAgate (fun a =>
          { a with trigLevel := false, trigArmed := false })⟩) ∧
  (∀ (q : List Instr) (b : Block) (w : Word),
      b.bar0 = false →
      exec (.gioTrigWrite w) ⟨q, b⟩ = .next ⟨q, b⟩) ∧
  (∀ (q : List Instr) (b : Block) (i off : Nat) (v : Option (List Byte)) (d : List Byte),
      b.alive .agate = true →
      b.dispatched ctrlRing i 0x0C = some d →
      b.agate.transfers = [] →
      leAt d 17 1 = 0 →
      transferFault b d = some off →
      exec (.seqTransferTx i v) ⟨q, b⟩ = .next ⟨q, finishCtrl i stMalformed frameNone 0 off b⟩) ∧
  (∀ (q : List Instr) (b : Block) (i : Nat) (d : List Byte),
      b.alive .agate = true →
      b.dispatched ctrlRing i 0x0C = some d →
      b.agate.transfers = [] →
      leAt d 17 1 = 0 →
      transferFault b d = none →
      exec (.seqTransferTx i none) ⟨q, b⟩ = .next ⟨q, finishCtrl i stHostFault frameNone 0 0 b⟩) ∧
  (∀ (q : List Instr) (b : Block) (i : Nat) (d v : List Byte),
      b.alive .agate = true →
      b.dispatched ctrlRing i 0x0C = some d →
      b.agate.transfers = [] →
      leAt d 17 1 = 0 →
      transferFault b d = none →
      4 * leAt d 32 2 ≤ v.length →
      (b.engine (leAt d 16 1)).tx.length + leAt d 32 2 ≤ txDepth b (leAt d 16 1) →
      Completes (.seqTransferTx i (some v)) ⟨q, b⟩ (fun t =>
        ((t.engine (leAt d 16 1)).tx = (b.engine (leAt d 16 1)).tx ++
          (List.range (leAt d 32 2)).map (fun k => BitVec.ofNat 32 (leAt v (4 * k) 4))) ∧
        t.agate.transfers = [] ∧
        onlyChanges [.posts, .agate, .evr, .topaz, .trace, .out] b t)) ∧
  (∀ (q : List Instr) (b : Block) (i : Nat) (d : List Byte),
      b.alive .agate = true →
      b.dispatched ctrlRing i 0x0C = some d →
      b.agate.transfers = [] →
      leAt d 17 1 = 1 →
      transferFault b d = none →
      leAt d 32 2 ≤ (b.engine (leAt d 16 1)).rx.length →
      b.hostUp = true →
      Completes (.seqTransferRx i) ⟨q, b⟩ (fun t =>
        (t.engine (leAt d 16 1)).rx = (b.engine (leAt d 16 1)).rx.drop (leAt d 32 2) ∧
        t.agate.transfers = [] ∧
        ((leAt d 24 8, ((b.engine (leAt d 16 1)).rx.take (leAt d 32 2)).flatMap (fun w => leBytes 4 w.toNat)) ∈ t.out.host)
            ∧
        onlyChanges [.posts, .agate, .evr, .topaz, .trace, .out] b t)) ∧
  (∀ (q : List Instr) (b : Block) (i cycles : Nat) (d v : List Byte),
      b.alive .agate = true →
      b.dispatched ctrlRing i 0x0C = some d →
      b.agate.transfers = [] →
      leAt d 17 1 = 2 →
      transferFault b d = none →
      2 * leAt d 32 2 ≤ v.length →
      leAt d 32 2 ≤ cycles →
      Completes (.seqTransferProgram i (some v) cycles) ⟨q, b⟩ (fun t =>
        (∀ k < leAt d 32 2, vget t.agate.store (leAt d 18 1 + k) 0 = BitVec.ofNat 16 (leAt v (2 * k) 2)) ∧
        t.agate.transfers = [] ∧
        onlyChanges [.posts, .agate, .evr, .topaz, .trace, .out] b t)) ∧
  (∀ (q : List Instr) (b : Block) (i : Nat) (d : List Byte) (x : Transfer),
      b.alive .agate = true →
      b.dispatched ctrlRing i 0x0C = some d →
      b.agate.transfers = [x] →
      x.desc = i →
      x.op = .tx →
      exec (.seqTransferTx i none) ⟨q, b⟩ = .next ⟨q, finishCtrl i stHostFault frameNone x.moved 0
          { b with agate := { b.agate with transfers := [] } }⟩) ∧
  (∀ (q : List Instr) (b : Block) (i : Nat) (d : List Byte) (x : Transfer),
      b.alive .agate = true →
      b.dispatched ctrlRing i 0x0C = some d →
      b.agate.transfers = [x] →
      x.desc = i →
      leAt d 34 2 ≠ 0 →
      exec (.seqTransferTimeout i) ⟨q, b⟩ = .next ⟨q, finishCtrl i stTimeout frameNone x.moved 0
          { b with agate := { b.agate with transfers := [] } }⟩) ∧
  (∀ (q : List Instr) (b : Block) (i : Nat) (d : List Byte),
      b.alive .agate = true →
      b.dispatched ctrlRing i 0x0C = some d →
      b.agate.transfers = [] →
      leAt d 17 1 = 1 →
      transferFault b d = none →
      b.hostUp = false →
      Completes (.seqTransferRx i) ⟨q, b⟩ (fun t =>
        (t.engine (leAt d 16 1)).rx = (b.engine (leAt d 16 1)).rx ∧
        t.agate.transfers = [⟨i, leAt d 16 1, .rx, leAt d 32 2, 0, leAt d 24 8, []⟩] ∧
        onlyChanges [.posts, .agate, .evr, .topaz, .trace, .out] b t)) ∧
  (∀ (q : List Instr) (b : Block) (i : Nat) (v : Option (List Byte)),
      b.alive .agate = true →
      b.dispatched ctrlRing i 0x0C = none →
      exec (.seqTransferTx i v) ⟨q, b⟩ = .next ⟨q, b⟩) ∧
  (∀ (q : List Instr) (b : Block) (i : Nat),
      b.alive .agate = true →
      b.dispatched ctrlRing i 0x0C = none →
      exec (.seqTransferRx i) ⟨q, b⟩ = .next ⟨q, b⟩) ∧
  (∀ (q : List Instr) (b : Block) (i cycles : Nat) (v : Option (List Byte)),
      b.alive .agate = true →
      b.dispatched ctrlRing i 0x0C = none →
      exec (.seqTransferProgram i v cycles) ⟨q, b⟩ = .next ⟨q, b⟩) ∧
  (∀ (q : List Instr) (b : Block) (i : Nat),
      b.alive .agate = true →
      b.dispatched ctrlRing i 0x0C = none →
      exec (.seqTransferTimeout i) ⟨q, b⟩ = .next ⟨q, b⟩) ∧
  (∀ (q : List Instr) (b : Block) (i : Nat) (d : List Byte),
      b.alive .agate = true →
      b.dispatched ctrlRing i 0x0C = some d →
      leAt d 34 2 = 0 →
      exec (.seqTransferTimeout i) ⟨q, b⟩ = .next ⟨q, b⟩) ∧
  (∀ (q : List Instr) (b : Block) (p : Nat) (level : Bool),
      b.alive .agate = true →
      exec (.seqIoEdge p level) ⟨q, b⟩ = .next ⟨q, seqIoEdge p level b⟩ ∧
        onlyChanges [.agate] b (seqIoEdge p level b)) ∧
  (∀ (q : List Instr) (b : Block) (joins : Bool := false),
      b.beryl.evr.mode ≠ 2 →
      b.alive .agate = true →
      exec (.trigInEdge joins) ⟨q, b⟩ = .next ⟨q, trigInEdge joins b⟩ ∧
        onlyChanges [.agate, .ch, .trace] b (trigInEdge joins b)) ∧
  (∀ (q : List Instr) (b : Block),
      b.beryl.evr.mode ≠ 2 →
      b.alive .agate = true →
      exec (.trigInInactive) ⟨q, b⟩ = .next ⟨q, trigInInactive b⟩ ∧
        onlyChanges [.agate] b (trigInInactive b)) ∧
  (∀ (q : List Instr) (b : Block) (lost : Nat),
      b.alive .agate = true →
      islandEmpty b .agate = false →
      exec (.cadenceEventAgate lost) ⟨q, b⟩ = .next ⟨q, cadenceEventAgate lost b⟩ ∧
        onlyChanges [.posts, .agate, .evr, .topaz, .ch, .trace, .out] b (cadenceEventAgate lost b)) ∧
  (∀ (q : List Instr) (b : Block) (lost : Nat),
      b.failing .agate = true →
      exec (.cadenceEventAgate lost) ⟨q, b⟩ = .next ⟨q, agateDrops b⟩) ∧
  (∀ (q : List Instr) (b : Block) (lost : Nat),
      b.failing .agate = false →
      (b.alive .agate = false ∨ islandEmpty b .agate = true) →
      exec (.cadenceEventAgate lost) ⟨q, b⟩ = .next ⟨q, b⟩) ∧
  (∀ (q : List Instr) (b : Block) (w : Word),
      exec (.gioTrigWrite w) ⟨q, b⟩ = .next ⟨q, gioTrigWrite w b⟩ ∧
        onlyChanges [.agate, .regs] b (gioTrigWrite w b)) ∧
  (∀ (q : List Instr) (b : Block) (desc : Nat) (buf : Option (List Byte)),
      b.alive .agate = true →
      exec (.seqTransferTx desc buf) ⟨q, b⟩ = .next ⟨q, seqTransferTx desc buf b⟩ ∧
        onlyChanges [.posts, .agate, .evr, .topaz, .trace, .out] b (seqTransferTx desc buf b)) ∧
  (∀ (q : List Instr) (b : Block) (desc : Nat),
      b.alive .agate = true →
      exec (.seqTransferRx desc) ⟨q, b⟩ = .next ⟨q, seqTransferRx desc b⟩ ∧
        onlyChanges [.posts, .agate, .evr, .topaz, .trace, .out] b (seqTransferRx desc b)) ∧
  (∀ (q : List Instr) (b : Block) (desc : Nat) (buf : Option (List Byte)) (cycles : Nat),
      b.alive .agate = true →
      exec (.seqTransferProgram desc buf cycles) ⟨q, b⟩ = .next ⟨q, seqTransferProgram desc buf cycles b⟩ ∧
        onlyChanges [.posts, .agate, .evr, .topaz, .trace, .out] b (seqTransferProgram desc buf cycles b)) ∧
  (∀ (q : List Instr) (b : Block) (desc : Nat),
      b.alive .agate = true →
      exec (.seqTransferTimeout desc) ⟨q, b⟩ = .next ⟨q, seqTransferTimeout desc b⟩ ∧
        onlyChanges [.posts, .agate, .evr, .trace, .out] b (seqTransferTimeout desc b))

/-- Samples give readings, readings give group states and the device state, crossing THROTTLE steps t, and a reading at
its Shutdown level signals Topaz. Rules: R404, R405, R406, R407, R408, R409, R410, R411. -/
def Obligations.ThermalStatesFollowReadings : Prop :=
  (∀ (q : List Instr) (b : Block) (l : List Int),
      b.topaz.berylOut = true →
      l.length = 56 →
      Completes (.sensorSample l) ⟨q, b⟩ (fun t =>
        (∀ k < 56, vget t.beryl.thm.samples k 0 = l.getD k 0) ∧
        onlyChanges [.thm] b t)) ∧
  (∀ (q : List Instr) (b : Block) (ra rb : Int),
      b.topaz.berylOut = true →
      Completes (.thermalReading ra rb) ⟨q, b⟩ (fun t =>
        (t.beryl.thm.readings = #v[maxSample b.beryl.thm 0 48, maxSample b.beryl.thm 48 56,
          if remoteOn b 0 = true then ra else 0, if remoteOn b 1 = true then rb else 0]) ∧
        onlyChanges [.thm, .evr, .topaz, .ch, .trace] b t)) ∧
  (∀ (q : List Instr) (b : Block) (ra rb : Int),
      b.topaz.berylOut = true →
      firmware b = true →
      Completes (.thermalReading ra rb) ⟨q, b⟩ (fun t =>
        vget t.beryl.thm.groups 0 0 = stateAfter b 0 (maxSample b.beryl.thm 0 48) ∧
        vget t.beryl.thm.groups 1 0 = stateAfter b 1 (maxSample b.beryl.thm 48 56) ∧
        (t.beryl.thm.device = ((List.range 4).map (fun g => if groupOn b g = true then vget t.beryl.thm.groups g 0 else
            0)).foldl max 0) ∧
        (b.beryl.thm.device < t.beryl.thm.device → 2 ≤ t.beryl.thm.device → b.beryl.thm.t < 12 →
          t.beryl.thm.t = b.beryl.thm.t + 1 ∧ t.ch.berylGarnet = b.ch.berylGarnet ++ [b.beryl.thm.t + 1]) ∧
        (2 ≤ b.beryl.thm.device → t.beryl.thm.device < 2 → 0 < b.beryl.thm.t →
          t.beryl.thm.t = b.beryl.thm.t - 1 ∧ t.ch.berylGarnet = b.ch.berylGarnet ++ [b.beryl.thm.t - 1]) ∧
        ((t.beryl.thm.device ≤ b.beryl.thm.device ∨ t.beryl.thm.device < 2) → (b.beryl.thm.device < 2 ∨ 2 ≤
            t.beryl.thm.device) → t.beryl.thm.t = b.beryl.thm.t ∧ t.ch.berylGarnet = b.ch.berylGarnet) ∧
        onlyChanges [.thm, .evr, .topaz, .ch, .trace] b t)) ∧
  (∀ (q : List Instr) (b : Block) (ra rb : Int),
      b.topaz.berylOut = true →
      firmware b = true →
      remoteOn b 0 = true →
      -400 ≤ ra →
      ra ≤ 1500 →
      vget b.beryl.thm.fault 0 false = false →
      Completes (.thermalReading ra rb) ⟨q, b⟩ (fun t =>
        vget t.beryl.thm.groups 2 0 = stateAfter b 2 ra ∧
        vget t.beryl.thm.badRun 0 0 = 0 ∧
        onlyChanges [.thm, .evr, .topaz, .ch, .trace] b t)) ∧
  (∀ (q : List Instr) (b : Block) (ra rb : Int),
      b.topaz.berylOut = true →
      firmware b = true →
      remoteOn b 0 = true →
      (ra < -400 ∨ 1500 < ra) →
      vget b.beryl.thm.fault 0 false = false →
      vget b.beryl.thm.badRun 0 0 = 2 →
      Completes (.thermalReading ra rb) ⟨q, b⟩ (fun t =>
        vget t.beryl.thm.fault 0 false = true ∧
        vget t.beryl.thm.groups 2 0 = 1 ∧
        onlyChanges [.thm, .evr, .topaz, .ch, .trace] b t)) ∧
  (∀ (q : List Instr) (b : Block) (ra rb : Int),
      b.topaz.berylOut = true →
      b.beryl.thm.signalled = false →
      vget b.beryl.thm.begun 0 false = true →
      vget b.beryl.thm.hold 0 false = false →
      thermalLevel b 0 2 ≤ maxSample b.beryl.thm 0 48 →
      Completes (.thermalReading ra rb) ⟨q, b⟩ (fun t =>
        t.ch.shutSignal = b.ch.shutSignal ++ [(0, maxSample b.beryl.thm 0 48)] ∧
        t.beryl.thm.signalled = true ∧
        onlyChanges [.thm, .evr, .topaz, .ch, .trace] b t)) ∧
  (∀ (q : List Instr) (b : Block) (frame : Nat) (l : List (Nat × Nat)),
      firmware b = true →
      b.ch.garnetBeryl = (frame, b.beryl.thm.t) :: l →
      b.beryl.thm.askClock = true →
      b.beryl.thm.count < 63 →
      Completes (.frameBoundRecord) ⟨q, b⟩ (fun t =>
        t.ch.garnetBeryl = l ∧
        (t.ch.berylJade = b.ch.berylJade ++ [if meetsR31 frame b = true then frame + 1 else 0]) ∧
        t.beryl.thm.askClock = false ∧
        onlyChanges [.jade, .thm, .ch, .trace] b t)) ∧
  (∀ (q : List Instr) (b : Block) (frame k : Nat) (l : List (Nat × Nat)),
      firmware b = true →
      b.ch.garnetBeryl = (frame, k) :: l →
      b.beryl.thm.askClock = false →
      b.beryl.thm.device < 2 →
      0 < b.beryl.thm.t →
      b.beryl.thm.count < 63 →
      Completes (.frameBoundRecord) ⟨q, b⟩ (fun t =>
        t.ch.garnetBeryl = l ∧
        t.beryl.thm = { b.beryl.thm with count := b.beryl.thm.count + 1 } ∧
        onlyChanges [.jade, .thm, .ch, .trace] b t)) ∧
  (∀ (q : List Instr) (b : Block) (frame k : Nat) (l : List (Nat × Nat)),
      firmware b = true →
      b.ch.garnetBeryl = (frame, k) :: l →
      b.beryl.thm.askClock = false →
      b.beryl.thm.device < 2 →
      0 < b.beryl.thm.t →
      63 ≤ b.beryl.thm.count →
      Completes (.frameBoundRecord) ⟨q, b⟩ (fun t =>
        t.beryl.thm.t = b.beryl.thm.t - 1 ∧
        t.beryl.thm.count = 0 ∧
        t.beryl.thm.rising = false ∧
        t.ch.berylGarnet = b.ch.berylGarnet ++ [b.beryl.thm.t - 1] ∧
        onlyChanges [.jade, .thm, .ch, .trace] b t)) ∧
  (∀ (q : List Instr) (b : Block) (frame : Nat) (p : FrameProgram) (l : List (Nat × Nat)),
      firmware b = true →
      b.ch.garnetBeryl = (frame, b.beryl.thm.t) :: l →
      b.beryl.thm.askClock = false →
      2 ≤ b.beryl.thm.device →
      b.garnet.applied = some p →
      p.nMin < p.n / 2 ^ b.beryl.thm.t →
      63 ≤ b.beryl.thm.count →
      b.beryl.thm.t < 12 →
      Completes (.frameBoundRecord) ⟨q, b⟩ (fun t =>
        t.beryl.thm.t = b.beryl.thm.t + 1 ∧
        t.beryl.thm.count = 0 ∧
        t.ch.berylGarnet = b.ch.berylGarnet ++ [b.beryl.thm.t + 1] ∧
        onlyChanges [.jade, .thm, .ch, .trace] b t)) ∧
  (∀ (q : List Instr) (b : Block) (l : List Int),
      exec (.sensorSample l) ⟨q, b⟩ = .next ⟨q, sensorSample l b⟩ ∧
        onlyChanges [.thm] b (sensorSample l b)) ∧
  (∀ (q : List Instr) (b : Block) (ra : Int) (rb : Int),
      exec (.thermalReading ra rb) ⟨q, b⟩ = .next ⟨q, thermalReading ra rb b⟩ ∧
        onlyChanges [.thm, .evr, .topaz, .ch, .trace] b (thermalReading ra rb b)) ∧
  (∀ (q : List Instr) (b : Block),
      firmware b = true →
      exec (.frameBoundRecord) ⟨q, b⟩ = .next ⟨q, frameBoundRecord b⟩ ∧
        onlyChanges [.jade, .thm, .ch, .trace] b (frameBoundRecord b)) ∧
  (∀ (q : List Instr) (b : Block),
      firmware b = false →
      exec (.frameBoundRecord) ⟨q, b⟩ = .next ⟨q, b⟩)

/-- Fuse words are loaded, read at a margin and programmed; runs are refused in the order of R433, pulses and Thermal
Event Log burns end as R434 and R416 say. Rules: R416, R418, R421, R422, R427, R428, R430, R432, R433, R434, R435, R437. -/
def Obligations.FusesAreLoadedReadAndProgrammed : Prop :=
  (∀ (q : List Instr) (b : Block) (w : Word),
      berylRegs b = true →
      mapWf regReset b.regs = true →
      Completes (.otpRead w) ⟨q, b⟩ (fun t =>
        (t.beryl.otc = { b.beryl.otc with
          rdata := (if 840 ≤ bitsOf w.toNat 10 0 ∧ bitsOf w.toNat 10 0 ≤ 857 then 0
            else if bitsOf w.toNat 13 12 = 1 then b.beryl.otc.low (bitsOf w.toNat 10 0)
            else if bitsOf w.toNat 13 12 = 2 then b.beryl.otc.firm (bitsOf w.toNat 10 0)
            else b.beryl.otc.word (bitsOf w.toNat 10 0))
          ready := true }) ∧
        t.reg 0x9118 = bitsOf w.toNat 13 12 * 4096 + bitsOf w.toNat 10 0 ∧
        onlyChanges [.otc, .regs] b t)) ∧
  (∀ (q : List Instr) (b : Block) (mv : Nat),
      b.topaz.pwrPin = true →
      b.beryl.otc.loaded = true →
      Completes (.vppMeasure mv) ⟨q, b⟩ (fun t =>
        t.beryl.otc = { b.beryl.otc with vppMv := min 4095 mv, vppMeasured := true } ∧
        onlyChanges [.otc] b t)) ∧
  (∀ (q : List Instr) (b : Block) (w : Word) (mv : Nat) (more : List Nat),
      berylRegs b = true →
      w.getLsbD 0 = true →
      bitsOf w.toNat 15 8 = 0xA5 →
      (mv < 1710 ∨ 1890 < mv) →
      Completes (.otpProgram w mv more) ⟨q, b⟩ (fun t =>
        t.beryl.otc.result = 1 ∧
        t.beryl.otc.vppMv = min 4095 mv ∧
        t.beryl.otc.fuses = b.beryl.otc.fuses ∧
        t.beryl.otc.pulse = b.beryl.otc.pulse ∧
        onlyChanges [.posts, .onyx, .otc, .out] b t)) ∧
  (∀ (q : List Instr) (b : Block) (w : Word) (mv : Nat) (more : List Nat),
      berylRegs b = true →
      w.getLsbD 0 = true →
      bitsOf w.toNat 15 8 = 0xA5 →
      1710 ≤ mv →
      mv ≤ 1890 →
      (¬ (∀ x ∈ (runData b).zipIdx, mayProgram b.beryl.otc (b.field 0x9120 10 0 + x.2) x.1 = true)) →
      Completes (.otpProgram w mv more) ⟨q, b⟩ (fun t =>
        t.beryl.otc.result = 2 ∧
        t.beryl.otc.fuses = b.beryl.otc.fuses ∧
        t.beryl.otc.pulse = b.beryl.otc.pulse ∧
        onlyChanges [.posts, .onyx, .otc, .out] b t)) ∧
  (∀ (q : List Instr) (b : Block) (w : Word) (mv : Nat) (more : List Nat),
      berylRegs b = true →
      w.getLsbD 0 = true →
      bitsOf w.toNat 15 8 = 0xA5 →
      1710 ≤ mv →
      mv ≤ 1890 →
      (∀ x ∈ (runData b).zipIdx, mayProgram b.beryl.otc (b.field 0x9120 10 0 + x.2) x.1 = true) →
      otcBusy b.beryl.otc = true →
      Completes (.otpProgram w mv more) ⟨q, b⟩ (fun t =>
        t.beryl.otc.result = 3 ∧
        t.beryl.otc.fuses = b.beryl.otc.fuses ∧
        t.beryl.otc.pulse = b.beryl.otc.pulse ∧
        onlyChanges [.posts, .onyx, .otc, .out] b t)) ∧
  (∀ (q : List Instr) (b : Block) (w : Word) (mv : Nat) (more : List Nat),
      berylRegs b = true →
      w.getLsbD 0 = true →
      bitsOf w.toNat 15 8 = 0xA5 →
      1710 ≤ mv →
      mv ≤ 1890 →
      (∀ x ∈ (runData b).zipIdx, mayProgram b.beryl.otc (b.field 0x9120 10 0 + x.2) x.1 = true) →
      otcBusy b.beryl.otc = false →
      (∀ x ∈ more.head?, 1710 ≤ x ∧ x ≤ 1890) →
      b.beryl.otc.pulse = none →
      b.ch.telBurn = [] →
      (b.beryl.otc.word (b.field 0x9120 10 0) ||| (runData b).getD 0 0) &&& ~~~(b.beryl.otc.firm (b.field 0x9120 10 0)) ≠ 0
          →
      Completes (.otpProgram w mv more) ⟨q, b⟩ (fun t =>
        t.beryl.otc.pulse = some ((b.field 0x9120 10 0), (b.beryl.otc.word (b.field 0x9120 10 0) ||| (runData b).getD 0 0)
            &&& ~~~(b.beryl.otc.firm (b.field 0x9120 10 0))) ∧
        t.beryl.otc.run = some ⟨(b.field 0x9120 10 0), runData b, 0, 1, some (b.beryl.otc.word (b.field 0x9120 10 0) |||
            (runData b).getD 0 0)⟩ ∧
        t.beryl.otc.wordsDone = 0 ∧
        t.beryl.otc.fuses = b.beryl.otc.fuses ∧
        onlyChanges [.posts, .onyx, .otc, .out] b t)) ∧
  (∀ (q : List Instr) (b : Block) (w : Word) (mv : Nat) (more : List Nat),
      (w.getLsbD 0 = false ∨ bitsOf w.toNat 15 8 ≠ 0xA5) →
      exec (.otpProgram w mv more) ⟨q, b⟩ = .next ⟨q, b⟩) ∧
  (∀ (q : List Instr) (b : Block) (fired firm soft bits : Half) (mv a : Nat) (more : List Nat),
      mapWf (fun _ => (0 : Half)) b.beryl.otc.fuses = true →
      mapWf (fun _ => (0 : Half)) b.beryl.otc.weak = true →
      b.beryl.otc.pulse = some (a, bits) →
      Completes (.otpPulseDone fired firm mv soft more) ⟨q, b⟩ (fun t =>
        t.beryl.otc.word a = b.beryl.otc.word a ||| (bits &&& fired) ∧
        (∀ x, x ≠ a → t.beryl.otc.word x = b.beryl.otc.word x) ∧
        (bits &&& fired &&& firm &&& t.beryl.otc.firm a = bits &&& fired &&& firm) ∧
        onlyChanges [.otc, .ch, .trace] b t)) ∧
  (∀ (q : List Instr) (b : Block) (mv a : Nat) (bits want : Half) (r : OtpRun) (more : List Nat),
      mapWf (fun _ => (0 : Half)) b.beryl.otc.fuses = true →
      mapWf (fun _ => (0 : Half)) b.beryl.otc.weak = true →
      mapWf (fun _ => (0 : Half)) b.beryl.otc.soft = true →
      b.beryl.otc.pulse = some (a, bits) →
      b.beryl.otc.burn = none →
      b.beryl.otc.run = some r →
      r.addr + r.done = a →
      r.want = some want →
      0 < r.pulses →
      r.data.length = r.done + 1 →
      b.beryl.otc.word a ||| bits = want →
      mapGet 0 b.beryl.otc.weak a = 0 →
      mapGet 0 b.beryl.otc.soft a = 0 →
      Completes (.otpPulseDone 0xFFFF 0xFFFF mv 0 more) ⟨q, b⟩ (fun t =>
        t.beryl.otc.run = none ∧
        t.beryl.otc.result = 0 ∧
        t.beryl.otc.wordsDone = r.done + 1 ∧
        onlyChanges [.otc, .ch, .trace] b t)) ∧
  (∀ (q : List Instr) (b : Block) (fired firm soft bits want : Half) (mv a : Nat) (r : OtpRun) (more : List Nat),
      mapWf (fun _ => (0 : Half)) b.beryl.otc.fuses = true →
      mapWf (fun _ => (0 : Half)) b.beryl.otc.weak = true →
      b.beryl.otc.pulse = some (a, bits) →
      b.beryl.otc.burn = none →
      b.beryl.otc.run = some r →
      r.addr + r.done = a →
      r.want = some want →
      8 ≤ r.pulses →
      b.beryl.otc.word a ||| (bits &&& fired) ≠ want →
      Completes (.otpPulseDone fired firm mv soft more) ⟨q, b⟩ (fun t =>
        t.beryl.otc.run = none ∧
        t.beryl.otc.result = 4 ∧
        t.beryl.otc.wordsDone = b.beryl.otc.wordsDone ∧
        onlyChanges [.otc, .ch, .trace] b t)) ∧
  (∀ (q : List Instr) (b : Block) (mv : Nat) (more : List Nat) (m : TelMsg) (l : List TelMsg),
      b.ch.telBurn = m :: l →
      (b.topaz.pwrPin = false ∨ b.beryl.otc.loaded = false) →
      Completes (.telBurnRequest mv more) ⟨q, b⟩ (fun t =>
        t.ch.telBurn = l ∧
        t.ch.telResult = b.ch.telResult ++ [{ m with ok := false }] ∧
        onlyChanges [.thm, .otc, .evr, .beryl, .ch, .trace] b t)) ∧
  (∀ (q : List Instr) (b : Block) (mv : Nat) (more : List Nat) (m : TelMsg) (l : List TelMsg),
      b.ch.telBurn = m :: l →
      b.topaz.pwrPin = true →
      b.beryl.otc.loaded = true →
      b.beryl.otc.burn = none →
      b.beryl.otc.pulse = none →
      b.beryl.otc.run = none →
      telSlot b.beryl.otc = none →
      Completes (.telBurnRequest mv more) ⟨q, b⟩ (fun t =>
        t.ch.telBurn = l ∧
        t.beryl.telFull = true ∧
        t.ch.telResult = b.ch.telResult ++ [{ m with ok := !m.latched }] ∧
        t.beryl.otc = b.beryl.otc ∧
        onlyChanges [.thm, .otc, .evr, .beryl, .ch, .trace] b t)) ∧
  (∀ (q : List Instr) (b : Block) (mv s : Nat) (more : List Nat) (m : TelMsg) (l : List TelMsg),
      b.ch.telBurn = m :: l →
      b.topaz.pwrPin = true →
      b.beryl.otc.loaded = true →
      b.beryl.otc.burn = none →
      b.beryl.otc.pulse = none →
      telSlot b.beryl.otc = some s →
      1710 ≤ mv →
      mv ≤ 1890 →
      Completes (.telBurnRequest mv more) ⟨q, b⟩ (fun t =>
        t.ch.telBurn = l ∧
        t.beryl.otc.pulse = some (896 + s, m.entry) ∧
        t.beryl.otc.burn = some ⟨m.entry, s, 1, m.latched⟩ ∧
        onlyChanges [.thm, .otc, .evr, .beryl, .ch, .trace] b t)) ∧
  (∀ (q : List Instr) (b : Block),
      b.topaz.pwrPin = true →
      b.beryl.otc.loaded = false →
      b.topaz.faultCode = 0 →
      exec (.fuseLoad false) ⟨q, b⟩ = .next ⟨q,
          { b with topaz := { b.topaz with faultCode := 3, faultPin := if faultSignal b = .low then .low else .code 3 } }⟩)
          ∧
  (∀ (q : List Instr) (b : Block),
      b.topaz.pwrPin = true →
      b.beryl.otc.loaded = false →
      b.topaz.faultCode = 0 →
      b.beryl.otc.word 0 ≠ 0xC3A5 →
      exec (.fuseLoad true) ⟨q, b⟩ = .next ⟨q,
          { b with topaz := { b.topaz with faultCode := 1, faultPin := if faultSignal b = .low then .low else .code 1 } }⟩)
          ∧
  (∀ (q : List Instr) (b : Block),
      b.topaz.pwrPin = true →
      b.beryl.otc.loaded = false →
      b.topaz.faultCode = 0 →
      b.beryl.otc.word 0 = 0xC3A5 →
      fuseCrcOk b.beryl.otc 0 766 766 = false →
      exec (.fuseLoad true) ⟨q, b⟩ = .next ⟨q,
          { b with topaz := { b.topaz with faultCode := 2, faultPin := if faultSignal b = .low then .low else .code 2 } }⟩)
          ∧
  (∀ (q : List Instr) (b : Block),
      b.topaz.pwrPin = true →
      b.beryl.otc.loaded = false →
      b.topaz.faultCode = 0 →
      b.beryl.otc.word 0 = 0xC3A5 →
      fuseCrcOk b.beryl.otc 0 766 766 = true →
      exec (.fuseLoad true) ⟨q, b⟩ = .next ⟨q, { b with
        beryl := { b.beryl with otc := loadPolicy b.beryl.otc }
        spinel := { b.spinel with kek := fuseKek (loadPolicy b.beryl.otc), import_ := (loadPolicy b.beryl.otc).keyImport } }⟩) ∧
  (∀ (q : List Instr) (b : Block) (ref : Bool),
      (b.topaz.pwrPin = false ∨ b.beryl.otc.loaded = true ∨ b.topaz.faultCode ≠ 0) →
      exec (.fuseLoad ref) ⟨q, b⟩ = .next ⟨q, b⟩) ∧
  (∀ (q : List Instr) (b : Block) (w : Word),
      exec (.otpRead w) ⟨q, b⟩ = .next ⟨q, otpRead w.toNat b⟩ ∧
        onlyChanges [.otc, .regs] b (otpRead w.toNat b)) ∧
  (∀ (q : List Instr) (b : Block) (mv : Nat),
      exec (.vppMeasure mv) ⟨q, b⟩ = .next ⟨q, vppMeasure mv b⟩ ∧
        onlyChanges [.otc] b (vppMeasure mv b)) ∧
  (∀ (q : List Instr) (b : Block) (w : Word) (mv : Nat) (more : List Nat := []),
      exec (.otpProgram w mv more) ⟨q, b⟩ = .next ⟨q, otpProgram w.toNat mv more b⟩ ∧
        onlyChanges [.posts, .onyx, .otc, .out] b (otpProgram w.toNat mv more b)) ∧
  (∀ (q : List Instr) (b : Block) (fired : Half) (firm : Half) (mv : Nat) (soft : Half := 0) (more : List Nat := []),
      exec (.otpPulseDone fired firm mv soft more) ⟨q, b⟩ = .next ⟨q, otpPulseDone fired firm mv soft more b⟩ ∧
        onlyChanges [.otc, .ch, .trace] b (otpPulseDone fired firm mv soft more b)) ∧
  (∀ (q : List Instr) (b : Block) (mv : Nat) (more : List Nat := []),
      exec (.telBurnRequest mv more) ⟨q, b⟩ = .next ⟨q, telBurnRequest mv more b⟩ ∧
        onlyChanges [.thm, .otc, .evr, .beryl, .ch, .trace] b (telBurnRequest mv more b)) ∧
  (∀ (q : List Instr) (b : Block) (refOk : Bool),
      exec (.fuseLoad refOk) ⟨q, b⟩ = .next ⟨q, fuseLoad refOk b⟩ ∧
        onlyChanges [.spinel, .otc, .topaz] b (fuseLoad refOk b))

/-- Trace entries fill blocks of 126 places, full or due blocks go to DRAM, and EVR_CTRL starts, ends and replays traces. Rules: R331, R339, R340, R341, R342, R343, R345, R351. -/
def Obligations.TheRecorderKeepsATrace : Prop :=
  (∀ (q : List Instr) (b : Block) (e : TraceEntry) (l : List TraceEntry),
      b.topaz.berylOut = true →
      b.beryl.evr.mode = 1 →
      b.ch.evr = e :: l →
      e.type ≠ 0x24 →
      b.beryl.evr.block.length + (1 + e.cont.length) ≤ 126 →
      Completes (.traceEntry) ⟨q, b⟩ (fun t =>
        t.ch.evr = l ∧
        t.beryl.evr.block = b.beryl.evr.block ++ entryBytes b.beryl.evr.seq e ∧
        t.beryl.evr.seq = b.beryl.evr.seq + (1 + e.cont.length) ∧
        t.beryl.evr.blockSeq = b.beryl.evr.blockSeq ∧
        t.dram = b.dram ∧
        t.out = b.out ∧
        onlyChanges [.evr, .dram, .ch, .trace, .out] b t)) ∧
  (∀ (q : List Instr) (b : Block) (e : TraceEntry) (l : List TraceEntry),
      b.topaz.berylOut = true →
      b.beryl.evr.mode = 1 →
      b.ch.evr = e :: l →
      e.type ≠ 0x24 →
      126 < b.beryl.evr.block.length + (1 + e.cont.length) →
      Completes (.traceEntry) ⟨q, b⟩ (fun t =>
        t.ch.evr = l ∧
        t.beryl.evr.block = entryBytes b.beryl.evr.seq e ∧
        t.beryl.evr.firstSeq = b.beryl.evr.seq ∧
        t.beryl.evr.blockSeq = next64 b.beryl.evr.blockSeq ∧
        t.dram = memWrite b.dram (traceBase + 4096 * (b.beryl.evr.blockSeq % 262144)) (traceBlock b.beryl.otc.deviceId
            b.beryl.evr) ∧
        onlyChanges [.evr, .dram, .ch, .trace, .out] b t)) ∧
  (∀ (q : List Instr) (b : Block),
      b.topaz.berylOut = true →
      b.beryl.evr.block.length = 126 →
      Completes (.traceBlockClose .ok) ⟨q, b⟩ (fun t =>
        t.beryl.evr = { b.beryl.evr with block := [], blockSeq := next64 b.beryl.evr.blockSeq } ∧
        t.dram = memWrite b.dram (traceBase + 4096 * (b.beryl.evr.blockSeq % 262144)) (traceBlock b.beryl.otc.deviceId
            b.beryl.evr) ∧
        (b.beryl.evr.traceBlocks ≠ 0 → b.hostUp = true →
          t.out.host = (b.beryl.evr.traceBase + 4096 * (b.beryl.evr.blockSeq % b.beryl.evr.traceBlocks),
            traceBlock b.beryl.otc.deviceId b.beryl.evr) :: b.out.host) ∧
        onlyChanges [.quartz, .posts, .evr, .topaz, .dram, .trace, .out] b t)) ∧
  (∀ (q : List Instr) (b : Block),
      b.topaz.berylOut = true →
      b.beryl.evr.block.length = 126 →
      Completes (.traceBlockClose .ue) ⟨q, b⟩ (fun t =>
        t.beryl.evr.block = [] ∧
        t.beryl.evr.lostEntries = min 65535 (b.beryl.evr.lostEntries + 126) ∧
        t.topaz.ue = min 65535 (b.topaz.ue + 1) ∧
        onlyChanges [.quartz, .posts, .evr, .topaz, .dram, .trace, .out] b t)) ∧
  (∀ (q : List Instr) (b : Block) (w : Word),
      evrRegs b = true →
      mapWf regReset b.regs = true →
      w.toNat % 4 = 1 →
      b.beryl.evr.mode = 0 →
      Completes (.evrRecord w) ⟨q, b⟩ (fun t =>
        t.beryl.evr.mode = 1 ∧
        t.beryl.evr.state = .recording ∧
        t.beryl.evr.seq = 0 ∧
        t.beryl.evr.blockSeq = 0 ∧
        t.beryl.evr.block = [] ∧
        t.beryl.evr.lostTrace = 0 ∧
        (t.ch.evr.map (fun e => (e.type, e.cont.length)) = [(0x20, 2)]) ∧
        t.reg 0x9200 = 1 + 4 * (w.toNat / 4 % 2) ∧
        onlyChanges [.jade, .evr, .ch, .trace, .regs] b t)) ∧
  (∀ (q : List Instr) (b : Block) (w : Word),
      evrRegs b = true →
      mapWf regReset b.regs = true →
      (w.toNat % 4 = 0 ∨ w.toNat % 4 = 3) →
      b.beryl.evr.mode = 1 →
      Completes (.evrOff w) ⟨q, b⟩ (fun t =>
        t.beryl.evr.mode = 0 ∧
        t.beryl.evr.state = .off ∧
        t.beryl.evr.block = [] ∧
        t.ch.evr = [] ∧
        t.reg 0x9200 = w.toNat % 4 + 4 * (w.toNat / 4 % 2) ∧
        onlyChanges [.evr, .dram, .ch, .trace, .regs, .out] b t)) ∧
  (∀ (q : List Instr) (b : Block) (w : Word),
      evrRegs b = true →
      w.toNat % 4 = 2 →
      b.beryl.evr.mode = 0 →
      b.beryl.otc.replayOk = true →
      b.quartz.capState = 0 →
      b.garnet.applied = none →
      Completes (.evrReplay w) ⟨q, b⟩ (fun t =>
        t.beryl.evr.mode = 2 ∧
        t.beryl.evr.state = .replaying ∧
        t.beryl.evr.seq = 0 ∧
        t.beryl.evr.feedSeq = 0 ∧
        t.beryl.evr.feed = [] ∧
        onlyChanges [.jade, .evr, .dram, .ch, .trace, .regs, .out] b t)) ∧
  (∀ (q : List Instr) (b : Block) (w : Word),
      evrRegs b = true →
      w.toNat % 4 = 2 →
      b.beryl.evr.mode ≠ 2 →
      (b.beryl.otc.replayOk = false ∨ b.quartz.capState ≠ 0 ∨ b.garnet.applied ≠ none) →
      Completes (.evrReplay w) ⟨q, b⟩ (fun t =>
        t.beryl.evr = { b.beryl.evr with state := .denied } ∧
        t.regs = b.regs ∧
        onlyChanges [.jade, .evr, .dram, .ch, .trace, .regs, .out] b t)) ∧
  (∀ (q : List Instr) (b : Block) (w : Word),
      evrRegs b = true →
      w.toNat % 4 = 1 →
      b.beryl.evr.mode = 2 →
      exec (.evrRecord w) ⟨q, b⟩ = .next ⟨q, setEvrCtrl 2 (bitOf w.toNat 2) b⟩) ∧
  (∀ (q : List Instr) (b : Block) (w : Word),
      evrRegs b = true →
      w.toNat % 4 = 2 →
      b.beryl.evr.mode = 2 →
      exec (.evrReplay w) ⟨q, b⟩ = .next ⟨q, setEvrCtrl 2 (bitOf w.toNat 2) b⟩) ∧
  (∀ (q : List Instr) (b : Block) (w : Word),
      evrRegs b = true →
      w.toNat % 4 = 0 →
      b.beryl.evr.mode = 2 →
      exec (.evrOff w) ⟨q, b⟩ = .next ⟨q, setEvrCtrl 2 (bitOf w.toNat 2) b⟩) ∧
  (∀ (q : List Instr) (b : Block) (w : Word),
      evrRegs b = true →
      w.toNat % 4 = 3 →
      b.beryl.evr.mode = 2 →
      exec (.evrOff w) ⟨q, b⟩ = .next ⟨q, setEvrCtrl 2 (bitOf w.toNat 2) b⟩) ∧
  (∀ (q : List Instr) (b : Block),
      exec (.traceEntry) ⟨q, b⟩ = .next ⟨q, traceEntry b⟩ ∧
        onlyChanges [.evr, .dram, .ch, .trace, .out] b (traceEntry b)) ∧
  (∀ (q : List Instr) (b : Block) (ecc : Ecc),
      exec (.traceBlockClose ecc) ⟨q, b⟩ = .next ⟨q, traceBlockClose ecc b⟩ ∧
        onlyChanges [.quartz, .posts, .evr, .topaz, .dram, .trace, .out] b (traceBlockClose ecc b)) ∧
  (∀ (q : List Instr) (b : Block) (w : Word),
      exec (.evrRecord w) ⟨q, b⟩ = .next ⟨q, evrRecord w.toNat b⟩ ∧
        onlyChanges [.jade, .evr, .ch, .trace, .regs] b (evrRecord w.toNat b)) ∧
  (∀ (q : List Instr) (b : Block) (w : Word),
      exec (.evrOff w) ⟨q, b⟩ = .next ⟨q, evrOff w.toNat b⟩ ∧
        onlyChanges [.evr, .dram, .ch, .trace, .regs, .out] b (evrOff w.toNat b)) ∧
  (∀ (q : List Instr) (b : Block) (w : Word),
      exec (.evrReplay w) ⟨q, b⟩ = .next ⟨q, evrReplay w.toNat b⟩ ∧
        onlyChanges [.jade, .evr, .dram, .ch, .trace, .regs, .out] b (evrReplay w.toNat b))

/-- In Replay a trace block awaited is taken when it is there and right, a missing one diverges, checked entries meet
their facts, and TRACE_END ends Replay. Rules: R345, R346, R347, R348, R349. -/
def Obligations.ReplayFollowsTheTrace : Prop :=
  (∀ (q : List Instr) (b : Block) (l : List Byte),
      b.beryl.evr.mode = 2 →
      b.beryl.evr.state = .replaying →
      b.topaz.berylOut = true →
      b.hostUp = true →
      b.beryl.evr.feed = [] →
      checkSlot b.beryl.evr.blockSeq l = .wait →
      exec (.replayFeed (.block l)) ⟨q, b⟩ = .next ⟨q, b⟩) ∧
  (∀ (q : List Instr) (b : Block) (l : List Byte),
      b.beryl.evr.mode = 2 →
      b.beryl.evr.state = .replaying →
      b.topaz.berylOut = true →
      b.hostUp = true →
      checkSlot b.beryl.evr.blockSeq l = .missing →
      Completes (.replayFeed (.block l)) ⟨q, b⟩ (fun t =>
        t.beryl.evr = { b.beryl.evr with state := .diverged, diverge := (b.beryl.evr.seq + feedLength b.beryl.evr.feed) % 2 ^ 32, feed := [] } ∧
        onlyChanges [.quartz, .disc, .garnet, .jade, .spinel, .opal, .posts, .onyx, .evr, .topaz, .dram, .ch, .trace, .out,
            .fresh] b t)) ∧
  (∀ (q : List Instr) (b : Block) (l : List Byte),
      b.beryl.evr.mode = 2 →
      b.beryl.evr.state = .replaying →
      b.topaz.berylOut = true →
      b.hostUp = true →
      checkSlot b.beryl.evr.blockSeq l = .ready →
      leAt l 16 8 ≠ (b.beryl.evr.seq + feedLength b.beryl.evr.feed) →
      Completes (.replayFeed (.block l)) ⟨q, b⟩ (fun t =>
        t.beryl.evr = { b.beryl.evr with state := .diverged, diverge := (b.beryl.evr.seq + feedLength b.beryl.evr.feed) % 2 ^ 32, feed := [] } ∧
        onlyChanges [.quartz, .disc, .garnet, .jade, .spinel, .opal, .posts, .onyx, .evr, .topaz, .dram, .ch, .trace, .out,
            .fresh] b t)) ∧
  (∀ (q : List Instr) (b : Block) (l : List Byte) (es : List TraceEntry),
      b.beryl.evr.mode = 2 →
      b.beryl.evr.state = .replaying →
      b.topaz.berylOut = true →
      b.hostUp = true →
      checkSlot b.beryl.evr.blockSeq l = .ready →
      leAt l 16 8 = (b.beryl.evr.seq + feedLength b.beryl.evr.feed) →
      parseEntries (leAt l 6 1) (b.beryl.evr.seq + feedLength b.beryl.evr.feed) ((l.drop 64).take (32 * leAt l 6 1)) = some
          es →
      Completes (.replayFeed (.block l)) ⟨q, b⟩ (fun t =>
        t.beryl.evr.blockSeq = b.beryl.evr.blockSeq + 1 ∧
        onlyChanges [.quartz, .disc, .garnet, .jade, .spinel, .opal, .posts, .onyx, .evr, .topaz, .dram, .ch, .trace, .out,
            .fresh] b t)) ∧
  (∀ (q : List Instr) (b : Block) (e x : TraceEntry),
      b.beryl.evr.mode = 2 →
      b.beryl.evr.state = .replaying →
      b.topaz.berylOut = true →
      b.hostUp = true →
      b.beryl.evr.feed = [e] →
      checkedEntry e.type = true →
      factOf e b = some x →
      (x.payload ++ leBytes 16 0).take 16 = e.payload →
      x.cont.map (fun c => (c ++ leBytes 32 0).take 32) = e.cont →
      Completes (.replayFeed .nothing) ⟨q, b⟩ (fun t =>
        t.ch.evr = b.ch.evr.erase x ∧
        t.beryl.evr = { b.beryl.evr with feed := [], seq := b.beryl.evr.seq + 1 + e.cont.length } ∧
        onlyChanges [.quartz, .disc, .garnet, .jade, .spinel, .opal, .posts, .onyx, .evr, .topaz, .dram, .ch, .trace, .out,
            .fresh] b t)) ∧
  (∀ (q : List Instr) (b : Block) (e x : TraceEntry) (l : List TraceEntry),
      b.beryl.evr.mode = 2 →
      b.beryl.evr.state = .replaying →
      b.topaz.berylOut = true →
      b.hostUp = true →
      b.beryl.evr.feed = e :: l →
      checkedEntry e.type = true →
      factOf e b = some x →
      ((x.payload ++ leBytes 16 0).take 16 ≠ e.payload ∨ x.cont.map (fun c => (c ++ leBytes 32 0).take 32) ≠ e.cont) →
      Completes (.replayFeed .nothing) ⟨q, b⟩ (fun t =>
        t.beryl.evr.state = .diverged ∧
        t.beryl.evr.diverge = b.beryl.evr.seq % 2 ^ 32 ∧
        onlyChanges [.quartz, .disc, .garnet, .jade, .spinel, .opal, .posts, .onyx, .evr, .topaz, .dram, .ch, .trace, .out,
            .fresh] b t)) ∧
  (∀ (q : List Instr) (b : Block) (e : TraceEntry) (l : List TraceEntry),
      b.beryl.evr.mode = 2 →
      b.beryl.evr.state = .replaying →
      b.topaz.berylOut = true →
      b.hostUp = true →
      b.beryl.evr.feed = e :: l →
      e.type = 0x21 →
      Completes (.replayFeed .nothing) ⟨q, b⟩ (fun t =>
        t.beryl.evr.state = .diverged ∧
        t.beryl.evr.diverge = b.beryl.evr.seq % 2 ^ 32 ∧
        onlyChanges [.quartz, .disc, .garnet, .jade, .spinel, .opal, .posts, .onyx, .evr, .topaz, .dram, .ch, .trace, .out,
            .fresh] b t)) ∧
  (∀ (q : List Instr) (b : Block) (e : TraceEntry),
      b.beryl.evr.mode = 2 →
      b.beryl.evr.state = .replaying →
      b.topaz.berylOut = true →
      b.hostUp = true →
      b.beryl.evr.feed = [e] →
      e.type = 0x24 →
      Completes (.replayFeed .nothing) ⟨q, b⟩ (fun t =>
        t.beryl.evr.state = .replayDone ∧
        t.beryl.evr.feed = [] ∧
        onlyChanges [.quartz, .disc, .garnet, .jade, .spinel, .opal, .posts, .onyx, .evr, .topaz, .dram, .ch, .trace, .out,
            .fresh] b t)) ∧
  (∀ (q : List Instr) (b : Block) (e : TraceEntry),
      b.beryl.evr.mode = 2 →
      b.beryl.evr.state = .replaying →
      b.topaz.berylOut = true →
      b.hostUp = true →
      b.beryl.evr.feed = [e] →
      e.type = 0x03 →
      leAt e.payload 1 1 = 1 →
      Completes (.replayFeed .nothing) ⟨q, b⟩ (fun t =>
        t.garnet = { b.garnet with latch := some (leAt e.payload 2 8) } ∧
        t.beryl.evr.feed = [] ∧
        onlyChanges [.quartz, .disc, .garnet, .jade, .spinel, .opal, .posts, .onyx, .evr, .topaz, .dram, .ch, .trace, .out,
            .fresh] b t)) ∧
  (∀ (q : List Instr) (b : Block) (h d : List Byte),
      b.beryl.evr.mode = 2 →
      b.beryl.evr.state = .replaying →
      b.topaz.berylOut = true →
      b.hostUp = true →
      b.beryl.evr.feed = [] →
      (h.length ≠ 64 ∨ leAt h 0 4 ≠ 0x50415443 ∨ leAt h 60 4 ≠ (crc32c (h.take 60)).toNat) →
      exec (.replayFeed (.tap h d)) ⟨q, b⟩ = .next ⟨q, b⟩) ∧
  (∀ (q : List Instr) (b : Block) (h d : List Byte),
      b.beryl.evr.mode = 2 →
      b.beryl.evr.state = .replaying →
      b.topaz.berylOut = true →
      b.hostUp = true →
      b.beryl.evr.feed = [] →
      h.length = 64 →
      leAt h 0 4 = 0x50415443 →
      leAt h 60 4 = (crc32c (h.take 60)).toNat →
      leAt h 4 4 ≠ 0 →
      leAt h 8 8 = b.beryl.evr.feedSeq →
      headerOf b (leAt h 16 8) = none →
      nextStart b ≤ leAt h 16 8 →
      exec (.replayFeed (.tap h d)) ⟨q, b⟩ = .next ⟨q, b⟩) ∧
  (∀ (q : List Instr) (b : Block) (h d : List Byte),
      b.beryl.evr.mode = 2 →
      b.beryl.evr.state = .replaying →
      b.topaz.berylOut = true →
      b.hostUp = true →
      b.beryl.evr.feed = [] →
      h.length = 64 →
      leAt h 0 4 = 0x50415443 →
      leAt h 60 4 = (crc32c (h.take 60)).toNat →
      leAt h 4 4 ≠ 0 →
      b.beryl.evr.feedSeq < leAt h 8 8 →
      Completes (.replayFeed (.tap h d)) ⟨q, b⟩ (fun t =>
        t.beryl.evr = { b.beryl.evr with state := .diverged, diverge := b.beryl.evr.seq % 2 ^ 32, feed := [] } ∧
        onlyChanges [.quartz, .disc, .garnet, .jade, .spinel, .opal, .posts, .onyx, .evr, .topaz, .dram, .ch, .trace, .out,
            .fresh] b t)) ∧
  (∀ (q : List Instr) (b : Block) (h d : List Byte) (s : Snapshot) (a : Nat),
      b.beryl.evr.mode = 2 →
      b.beryl.evr.state = .replaying →
      b.topaz.berylOut = true →
      b.hostUp = true →
      b.beryl.evr.feed = [] →
      h.length = 64 →
      leAt h 0 4 = 0x50415443 →
      leAt h 60 4 = (crc32c (h.take 60)).toNat →
      leAt h 4 4 ≠ 0 →
      leAt h 8 8 = b.beryl.evr.feedSeq →
      headerOf b (leAt h 16 8) = some s →
      (crc32c d).toNat = leAt h 32 4 →
      d.length = leAt h 4 4 →
      injectRoom b d.length = some a →
      Completes (.replayFeed (.tap h d)) ⟨q, b⟩ (fun t =>
        t.ch.garnetJade = b.ch.garnetJade ++ [.stripe { stripeToken s (leAt h 24 2 / 2 ^ 14) (leAt h 24 2 / 2 ^ 6 % 256) a d.length (crc32c d)
          (BitVec.ofNat 16 (leAt h 26 2)) with sent := b.stamp .jade }] ∧
        t.dram = (b.dramWrite a d).dram ∧
        t.beryl.evr.feedSeq = b.beryl.evr.feedSeq + 1 ∧
        t.jade.inject = b.jade.inject ++ [(s.frame, a, (d.length + 63) / 64 * 64)] ∧
        onlyChanges [.quartz, .disc, .garnet, .jade, .spinel, .opal, .posts, .onyx, .evr, .topaz, .dram, .ch, .trace, .out,
            .fresh] b t)) ∧
  (∀ (q : List Instr) (b : Block) (r : ReplayRead),
      exec (.replayFeed r) ⟨q, b⟩ = .next ⟨q, replayFeed r b⟩ ∧
        onlyChanges [.quartz, .disc, .garnet, .jade, .spinel, .opal, .posts, .onyx, .evr, .topaz, .dram, .ch, .trace, .out,
            .fresh] b (replayFeed r b))

/-- A register write changes the bits that the register lets it change, the locked ones only while the Island is
uncommitted; commit and uncommit of Islands. Rules: R6, R7, R376, R460, R461, R463, R464, R465, R466. -/
def Obligations.RegistersAreWrittenAndLocked : Prop :=
  (∀ (q : List Instr) (b : Block) (off : Nat) (w : Word) (r : RegRow),
      b.bar0 = true →
      mapWf regReset b.regs = true →
      regRow off = some r →
      ownRow off = false →
      takesWrite b off = true →
      off ≠ 0x0010 →
      b.committed r.island = false →
      Completes (.registerWrite off w 0xF) ⟨q, b⟩ (fun t =>
        t.reg off = ((BitVec.ofNat 32 (b.reg off) &&& ~~~r.writable) ||| (w &&& r.writable)).toNat ∧
        (∀ o, o ≠ off → t.reg o = b.reg o) ∧
        onlyChanges [.disc, .tod, .agate, .thm, .topaz, .regs] b t)) ∧
  (∀ (q : List Instr) (b : Block) (off : Nat) (w : Word) (r : RegRow),
      b.bar0 = true →
      mapWf regReset b.regs = true →
      regRow off = some r →
      ownRow off = false →
      takesWrite b off = true →
      off ≠ 0x0010 →
      b.committed r.island = true →
      Completes (.registerWrite off w 0xF) ⟨q, b⟩ (fun t =>
        t.reg off = ((BitVec.ofNat 32 (b.reg off) &&& ~~~r.rw) ||| (w &&& r.rw)).toNat ∧
        (∀ o, o ≠ off → t.reg o = b.reg o) ∧
        onlyChanges [.disc, .tod, .agate, .thm, .topaz, .regs] b t)) ∧
  (∀ (q : List Instr) (b : Block) (w : Word),
      b.bar0 = true →
      mapWf regReset b.regs = true →
      Completes (.registerWrite 0x0010 w 0xF) ⟨q, b⟩ (fun t =>
        (∀ i ∈ commitIslands, 2 ≤ i.num.val →
          (t.reg 0x0010).testBit i.num.val = if b.committed i = true then (b.reg 0x0010).testBit i.num.val else w.getLsbD i.num.val) ∧
        t.topaz.spread.getLsbD 7 = w.getLsbD 7 ∧
        t.topaz.spread.getLsbD 8 = w.getLsbD 8 ∧
        onlyChanges [.disc, .tod, .agate, .thm, .topaz, .regs] b t)) ∧
  (∀ (q : List Instr) (b : Block) (w : Word),
      b.bar0 = true →
      Completes (.registerWrite 0x121C w 0xF) ⟨q, b⟩ (fun t =>
        t.tod.presetWait = some w ∧
        onlyChanges [.disc, .tod, .agate, .thm, .topaz, .regs] b t)) ∧
  (∀ (q : List Instr) (b : Block) (off : Nat) (w : Word) (be : BitVec 4),
      (b.bar0 = false ∨ be ≠ 0xF ∨ regRow off = none) →
      exec (.registerWrite off w be) ⟨q, b⟩ = .next ⟨q, b⟩) ∧
  (∀ (q : List Instr) (b : Block) (w : Word),
      b.bar0 = true →
      Completes (.islCommit w) ⟨q, b⟩ (fun t =>
        (∀ i ∈ commitIslands, t.committed i = (b.committed i || w.getLsbD i.num.val)) ∧
        onlyChanges [.posts, .evr, .topaz, .ch, .trace, .out] b t)) ∧
  (∀ (q : List Instr) (b : Block) (w : Word),
      b.bar0 = true →
      bitsOf w.toNat 15 8 = 0xA5 →
      Completes (.islUncommit w) ⟨q, b⟩ (fun t =>
        (∀ i ∈ commitIslands, t.committed i = (b.committed i && !(w.getLsbD i.num.val && islandIdle b i))) ∧
        (∀ i ∈ commitIslands, vget t.topaz.refused i.num.val false = (w.getLsbD i.num.val && b.committed i && !islandIdle b
            i)) ∧
        onlyChanges [.garnet, .topaz] b t)) ∧
  (∀ (q : List Instr) (b : Block) (w : Word),
      b.bar0 = true →
      bitsOf w.toNat 15 8 ≠ 0xA5 →
      exec (.islUncommit w) ⟨q, b⟩ = .next ⟨q, { b with topaz := { b.topaz with refused := .replicate 7 false } }⟩) ∧
  (∀ (q : List Instr) (b : Block) (off : Nat) (w : Word) (be : BitVec 4),
      exec (.registerWrite off w be) ⟨q, b⟩ = .next ⟨q, registerWrite off w be b⟩ ∧
        onlyChanges [.disc, .tod, .agate, .thm, .topaz, .regs] b (registerWrite off w be b)) ∧
  (∀ (q : List Instr) (b : Block) (w : Word),
      exec (.islCommit w) ⟨q, b⟩ = .next ⟨q, islCommit w b⟩ ∧
        onlyChanges [.posts, .evr, .topaz, .ch, .trace, .out] b (islCommit w b)) ∧
  (∀ (q : List Instr) (b : Block) (w : Word),
      exec (.islUncommit w) ⟨q, b⟩ = .next ⟨q, islUncommit w b⟩ ∧
        onlyChanges [.garnet, .topaz] b (islUncommit w b))

/-- A fault freezes its Island, the fourth in 60 s leaves it DEAD, recovery brings it back; the watchdog, restart and
patch load of Beryl; repeated events. Rules: R312, R315, R320, R321, R325, R329, R330, R333, R334, R335, R337, R451. -/
def Obligations.IslandsFreezeRecoverAndFailStop : Prop :=
  (∀ (q : List Instr) (b : Block) (i : Island),
      i ∈ [Island.garnet, .jade, .spinel, .opal, .onyx, .agate] →
      b.alive i = true →
      recentFaults b i < 3 →
      b.topaz.absent = false →
      exec (.islandFault i .parity) ⟨q, b⟩ = .next ⟨q, b.modIsl i (fun s => { s with
        frozen := some (.parity, b.quartz.tb), firstFailed := none
        faultTimes := b.quartz.tb :: s.faultTimes.filter (fun t => b.quartz.tb < t + ownTicks b .topaz t 61440000000)
        units := s.units.map (fun _ => .frozen) })⟩) ∧
  (∀ (q : List Instr) (b : Block) (i : Island) (since : Nat),
      i ∈ [Island.garnet, .jade, .spinel, .opal, .onyx, .agate] →
      b.alive i = true →
      recentFaults (b.advance (since + ownTicks b i since (1024000 * stallMs b))) i < 3 →
      b.topaz.absent = false →
      holdsWork b i = true →
      heldBack b i = false →
      since ≤ b.quartz.tb →
      exec (.stall i since) ⟨q, b⟩ = .next ⟨q, (b.advance (since + ownTicks b i since (1024000 * stallMs b))).modIsl i (fun s => { s with
        frozen := some (.stall, (b.advance (since + ownTicks b i since (1024000 * stallMs b))).quartz.tb), firstFailed := none
        faultTimes := (b.advance (since + ownTicks b i since (1024000 * stallMs b))).quartz.tb ::
          s.faultTimes.filter (fun t => (b.advance (since + ownTicks b i since (1024000 * stallMs b))).quartz.tb < t + ownTicks b .topaz t 61440000000)
        units := s.units.map (fun _ => .frozen) })⟩) ∧
  (∀ (q : List Instr) (b : Block),
      b.alive .beryl = true →
      exec (.islandFault .beryl .parity) ⟨q, b⟩ = .next ⟨q, b.modIsl .beryl (fun s => { s with
        frozen := some (.parity, b.quartz.tb), firstFailed := none
        faultTimes := b.quartz.tb :: s.faultTimes.filter (fun t => b.quartz.tb < t + ownTicks b .topaz t 61440000000)
        units := s.units.map (fun _ => .frozen) })⟩) ∧
  (∀ (q : List Instr) (b : Block) (i : Island),
      i ∈ [Island.garnet, .jade, .spinel, .opal, .onyx, .agate] →
      b.alive i = true →
      3 ≤ recentFaults b i →
      Completes (.islandFault i .parity) ⟨q, b⟩ (fun t =>
        (t.isl i).failStop = true ∧
        (t.isl i).dead = true ∧
        (t.isl i).frozen = some (.parity, b.quartz.tb) ∧
        onlyChanges [.disc, .garnet, .jade, .spinel, .opal, .posts, .onyx, .agate, .evr, .topaz, .ch, .trace, .out] b t)) ∧
  (∀ (q : List Instr) (b : Block) (i : Island),
      (i = .quartz ∨ i = .topaz) →
      b.alive i = true →
      b.topaz.fatal = false →
      Completes (.islandFault i .parity) ⟨q, b⟩ (fun t =>
        t.topaz.fatal = true ∧
        t.topaz.shutSent = true ∧
        t.topaz.faultPin = .low ∧
        t.garnet.stopped = true ∧
        (i = .quartz → (t.isl .quartz).frozen = some (.fatal, b.quartz.tb)) ∧
        onlyChanges [.disc, .garnet, .jade, .spinel, .opal, .posts, .onyx, .agate, .evr, .topaz, .ch, .trace, .out] b t)) ∧
  (∀ (q : List Instr) (b : Block) (i : Island),
      firmware b = true →
      i ∈ [Island.garnet, .jade, .spinel, .opal, .onyx, .agate] →
      (b.isl i).frozen ≠ none →
      (b.isl i).dead = false →
      Completes (.islandRecovery i true true) ⟨q, b⟩ (fun t =>
        (t.isl i).frozen = none ∧
        (t.isl i).failStop = false ∧
        ((i = .agate → b.opal.ctrl.flight = []) → (t.isl i).gens = (b.isl i).gens.map nextGen) ∧
        ((t.isl i).units = (b.isl i).units.map (fun _ => UnitState.ready)) ∧
        t.topaz.recovered = min 65535 (b.topaz.recovered + 1) ∧
        t.committed i = b.committed i ∧
        onlyChanges [.quartz, .disc, .garnet, .jade, .spinel, .opal, .posts, .onyx, .agate, .evr, .topaz, .dram, .ch,
            .trace, .regs, .out, .fresh] b t)) ∧
  (∀ (q : List Instr) (b : Block) (i : Island),
      firmware b = true →
      i ∈ [Island.garnet, .jade, .spinel, .opal, .onyx, .agate] →
      (b.isl i).frozen ≠ none →
      (b.isl i).dead = false →
      Completes (.islandRecovery i true false) ⟨q, b⟩ (fun t =>
        (t.isl i).frozen = none ∧
        ((t.isl i).units = (b.isl i).units.map (fun _ => UnitState.empty)) ∧
        t.committed i = false ∧
        vget t.topaz.rearm i.num.val false = true ∧
        (∀ e ∈ t.regs, (regRow e.1).any (fun r => r.island == i) = false) ∧
        onlyChanges [.quartz, .disc, .garnet, .jade, .spinel, .opal, .posts, .onyx, .agate, .evr, .topaz, .dram, .ch,
            .trace, .regs, .out, .fresh] b t)) ∧
  (∀ (q : List Instr) (b : Block) (i : Island) (c : Bool),
      firmware b = true →
      i ∈ [Island.garnet, .jade, .spinel, .opal, .onyx, .agate] →
      (b.isl i).frozen ≠ none →
      (b.isl i).dead = false →
      (b.isl i).failStop = false →
      Completes (.islandRecovery i false c) ⟨q, b⟩ (fun t =>
        (t.isl i).failStop = true ∧
        (t.isl i).dead = false ∧
        onlyChanges [.quartz, .disc, .garnet, .jade, .spinel, .opal, .posts, .onyx, .agate, .evr, .topaz, .dram, .ch,
            .trace, .regs, .out, .fresh] b t)) ∧
  (∀ (q : List Instr) (b : Block) (i : Island) (ok c : Bool),
      ((b.isl i).frozen = none ∨ (b.isl i).dead = true) →
      exec (.islandRecovery i ok c) ⟨q, b⟩ = .next ⟨q, b⟩) ∧
  (∀ (q : List Instr) (b : Block),
      b.topaz.pwr.flush = true →
      b.garnet.stopped = false →
      TopazEvent.loss (flushMs b.topaz.pwr) ∉ b.ch.topazGarnet →
      exec (.eventRepeat .garnet 0) ⟨q, b⟩ = .next ⟨q,
          { b with ch := { b.ch with topazGarnet := b.ch.topazGarnet ++ [.loss (flushMs b.topaz.pwr)] } }⟩) ∧
  (∀ (q : List Instr) (b : Block),
      b.topaz.pwr.flush = false →
      b.topaz.shutSent = true →
      b.garnet.stopped = false →
      b.garnet.shutdown = false →
      TopazEvent.shutdown ∉ b.ch.topazGarnet →
      exec (.eventRepeat .garnet 0) ⟨q, b⟩ = .next ⟨q,
          { b with ch := { b.ch with topazGarnet := b.ch.topazGarnet ++ [.shutdown] } }⟩) ∧
  (∀ (q : List Instr) (b : Block),
      b.topaz.pwr.flush = true →
      b.onyx.flush = none →
      TopazEvent.loss (flushMs b.topaz.pwr) ∉ b.ch.topazOnyx →
      exec (.eventRepeat .onyx 0) ⟨q, b⟩ = .next ⟨q,
          { b with ch := { b.ch with topazOnyx := b.ch.topazOnyx ++ [.loss (flushMs b.topaz.pwr)] } }⟩) ∧
  (∀ (q : List Instr) (b : Block) (n : Nat),
      (b.topaz.pwr.flush = true ∨ b.topaz.shutSent = true) →
      b.takes .opal = true →
      b.ch.topazOpal = [] →
      b.opal.flush = .none_ →
      exec (.eventRepeat .opal n) ⟨q, b⟩ = .next ⟨q, { b with opal := { b.opal with flush := .running } }⟩) ∧
  (∀ (q : List Instr) (b : Block) (lost : Nat),
      firmware b = true →
      gapSeen lost = true →
      Completes (.watchdogReport lost) ⟨q, b⟩ (fun t =>
        t.topaz.wdgLast = b.quartz.tb ∧
        t.topaz.gaps = min 65535 (b.topaz.gaps + 1) ∧
        onlyChanges [.posts, .evr, .topaz, .trace, .out] b t)) ∧
  (∀ (q : List Instr) (b : Block),
      firmware b = true →
      exec (.watchdogReport 0) ⟨q, b⟩ = .next ⟨q, { b with topaz := { b.topaz with wdgLast := b.quartz.tb } }⟩) ∧
  (∀ (q : List Instr) (b : Block),
      b.topaz.pwr.on = true →
      b.topaz.berylOut = true →
      b.topaz.berylDead = false →
      (b.beryl.romBad = true ∨ (2 ≤ b.topaz.stage ∧ b.topaz.absent = false)) →
      Completes (.watchdogExpiry) ⟨q, b⟩ (fun t =>
        t.topaz.absent = true ∧
        t.topaz.restarts = min 255 (b.topaz.restarts + 1) ∧
        (t.topaz.berylDead = decide (3 ≤ (b.topaz.resetTimes.filter (fun x => t.quartz.tb < x + ownTicks b .topaz x
            61440000000)).length)) ∧
        (∀ i ∈ [Island.garnet, .jade, .spinel, .opal, .onyx, .agate], (b.isl i).frozen ≠ none → (t.isl i).failStop = true) ∧
        onlyChanges [.quartz, .disc, .garnet, .jade, .spinel, .opal, .posts, .onyx, .agate, .thm, .evr, .topaz, .ch,
            .trace, .out] b t)) ∧
  (∀ (q : List Instr) (b : Block) (ok : Bool) (mv : Nat) (bad : List Island) (more : List Nat),
      b.topaz.pwr.on = true →
      b.topaz.absent = true →
      b.topaz.patchLoading = false →
      b.topaz.berylDead = false →
      b.beryl.romBad = false →
      b.topaz.dramReady = true →
      Completes (.berylRestartDone ok mv bad more) ⟨q, b⟩ (fun t =>
        t.topaz.absent = false ∧
        t.topaz.stage = 2 ∧
        t.topaz.wdgLast = b.quartz.tb ∧
        t.beryl.patched = (b.beryl.patched && ok) ∧
        t.topaz.patchLost = (b.topaz.patchLost || (b.beryl.patched && !ok)) ∧
        onlyChanges [.quartz, .disc, .garnet, .jade, .spinel, .opal, .posts, .onyx, .agate, .thm, .otc, .evr, .beryl,
            .topaz, .dram, .ch, .trace, .regs, .out, .fresh] b t)) ∧
  (∀ (q : List Instr) (b : Block) (w : Word),
      b.bar0 = true →
      w.getLsbD 0 = true →
      bitsOf w.toNat 15 8 = 0xA5 →
      2 ≤ b.topaz.stage →
      b.topaz.absent = false →
      b.topaz.patchLoading = false →
      Completes (.patchLoad w) ⟨q, b⟩ (fun t =>
        t.topaz.patchLoading = true ∧
        t.topaz.absent = true ∧
        t.out.reads.head? = some (b.reg 0x10C + 2 ^ 32 * b.reg 0x110, b.reg 0x114) ∧
        onlyChanges [.disc, .garnet, .jade, .spinel, .opal, .posts, .onyx, .agate, .evr, .topaz, .ch, .trace, .out] b t)) ∧
  (∀ (q : List Instr) (b : Block) (w : Word),
      b.bar0 = true →
      w.getLsbD 0 = true →
      bitsOf w.toNat 15 8 = 0xA5 →
      (b.topaz.stage < 2 ∨ b.topaz.absent = true ∨ b.topaz.patchLoading = true) →
      exec (.patchLoad w) ⟨q, b⟩ = .next ⟨q, { b with topaz := { b.topaz with patchResult := 2 } }⟩) ∧
  (∀ (q : List Instr) (b : Block) (d : Option (List Byte)) (mv : Nat) (bad : List Island) (more : List Nat),
      b.topaz.patchLoading = true →
      Completes (.patchImageRead d mv bad more) ⟨q, b⟩ (fun t =>
        t.topaz.patchResult = patchCheck (b.reg 0x114) d ∧
        t.topaz.patchLoading = false ∧
        t.topaz.absent = false ∧
        t.topaz.patchLost = false ∧
        t.beryl.patched = decide (patchCheck (b.reg 0x114) d = 1) ∧
        onlyChanges [.quartz, .disc, .garnet, .jade, .spinel, .opal, .posts, .onyx, .agate, .thm, .otc, .evr, .beryl,
            .topaz, .dram, .ch, .trace, .regs, .out, .fresh] b t)) ∧
  (∀ (q : List Instr) (b : Block) (i : Island) (c : FaultClass),
      exec (.islandFault i c) ⟨q, b⟩ = .next ⟨q, islandFault i c b⟩ ∧
        onlyChanges [.disc, .garnet, .jade, .spinel, .opal, .posts, .onyx, .agate, .evr, .topaz, .ch, .trace, .out] b
            (islandFault i c b)) ∧
  (∀ (q : List Instr) (b : Block) (i : Island) (since : Nat := 0),
      exec (.stall i since) ⟨q, b⟩ = .next ⟨q, stall i since b⟩ ∧
        onlyChanges [.quartz, .disc, .garnet, .jade, .spinel, .opal, .posts, .onyx, .agate, .evr, .topaz, .ch, .trace,
            .out] b (stall i since b)) ∧
  (∀ (q : List Instr) (b : Block) (i : Island) (ok : Bool) (configOk : Bool),
      exec (.islandRecovery i ok configOk) ⟨q, b⟩ = .next ⟨q, islandRecovery i ok configOk b⟩ ∧
        onlyChanges [.quartz, .disc, .garnet, .jade, .spinel, .opal, .posts, .onyx, .agate, .evr, .topaz, .dram, .ch,
            .trace, .regs, .out, .fresh] b (islandRecovery i ok configOk b)) ∧
  (∀ (q : List Instr) (b : Block) (i : Island) (lost : Nat),
      exec (.eventRepeat i lost) ⟨q, b⟩ = .next ⟨q, eventRepeat i lost b⟩ ∧
        onlyChanges [.opal, .posts, .evr, .topaz, .ch, .trace, .out] b (eventRepeat i lost b)) ∧
  (∀ (q : List Instr) (b : Block) (lost : Nat := 0),
      exec (.watchdogReport lost) ⟨q, b⟩ = .next ⟨q, watchdogReport lost b⟩ ∧
        onlyChanges [.posts, .evr, .topaz, .trace, .out] b (watchdogReport lost b)) ∧
  (∀ (q : List Instr) (b : Block),
      exec (.watchdogExpiry) ⟨q, b⟩ = .next ⟨q, watchdogExpiry b⟩ ∧
        onlyChanges [.quartz, .disc, .garnet, .jade, .spinel, .opal, .posts, .onyx, .agate, .thm, .evr, .topaz, .ch,
            .trace, .out] b (watchdogExpiry b)) ∧
  (∀ (q : List Instr) (b : Block) (patchOk : Bool) (mv : Nat) (bad : List Island := []) (more : List Nat := []),
      exec (.berylRestartDone patchOk mv bad more) ⟨q, b⟩ = .next ⟨q, berylRestartDone patchOk mv bad more b⟩ ∧
        onlyChanges [.quartz, .disc, .garnet, .jade, .spinel, .opal, .posts, .onyx, .agate, .thm, .otc, .evr, .beryl,
            .topaz, .dram, .ch, .trace, .regs, .out, .fresh] b (berylRestartDone patchOk mv bad more b)) ∧
  (∀ (q : List Instr) (b : Block) (w : Word),
      exec (.patchLoad w) ⟨q, b⟩ = .next ⟨q, patchLoad w.toNat b⟩ ∧
        onlyChanges [.disc, .garnet, .jade, .spinel, .opal, .posts, .onyx, .agate, .evr, .topaz, .ch, .trace, .out] b
            (patchLoad w.toNat b)) ∧
  (∀ (q : List Instr) (b : Block) (data : Option (List Byte)) (mv : Nat) (bad : List Island := []) (more : List Nat := []),
      exec (.patchImageRead data mv bad more) ⟨q, b⟩ = .next ⟨q, patchImageRead data mv bad more b⟩ ∧
        onlyChanges [.quartz, .disc, .garnet, .jade, .spinel, .opal, .posts, .onyx, .agate, .thm, .otc, .evr, .beryl,
            .topaz, .dram, .ch, .trace, .regs, .out, .fresh] b (patchImageRead data mv bad more b))

/-- PSQ raises the six rails in order, lowers them in reverse, and what follows a power-down; PWR_GOOD, Island release,
DRAM and the ROM come in the order of R446. Rules: R396, R439, R440, R441, R442, R444, R445, R446, R447, R448, R454. -/
def Obligations.RailsRiseFallAndReleaseReset : Prop :=
  (∀ (q : List Instr) (b : Block) (ohms : Nat) (temp : Int),
      b.topaz.pwr.on = false →
      Completes (.topazStart ohms temp) ⟨q, b⟩ (fun t =>
        t.topaz.pwr.on = true ∧
        t.topaz.cause = 0 ∧
        t.topaz.psq = .off ∧
        t.topaz.latch = [] ∧
        t.topaz.pwr.packSwitch = true ∧
        (t.topaz.pwr.pack.kind = if 500000 < ohms then .absent else kindOf ohms) ∧
        onlyChanges [.quartz, .disc, .tod, .garnet, .jade, .spinel, .opal, .posts, .onyx, .agate, .thm, .otc, .evr, .beryl,
            .topaz, .dram, .ch, .trace, .regs, .out] b t)) ∧
  (∀ (q : List Instr) (b : Block),
      b.topaz.pwr.upWait ≠ none →
      b.topaz.psq = .off →
      b.topaz.pwr.mainOk = true →
      Completes (.powerUpDelay) ⟨q, b⟩ (fun t =>
        t.topaz.psq = .raising 0 ∧
        t.topaz.enables = vset b.topaz.enables 0 true ∧
        t.topaz.pwr.upWait = none ∧
        t.topaz.pwr.show_ = none ∧
        t.regs = [] ∧
        t.quartz = coldQuartz ∧
        onlyChanges [.quartz, .disc, .tod, .garnet, .jade, .spinel, .opal, .posts, .onyx, .agate, .thm, .otc, .evr, .beryl,
            .topaz, .dram, .ch, .trace, .regs, .out] b t)) ∧
  (∀ (q : List Instr) (b : Block),
      b.topaz.pwr.upWait ≠ none →
      b.topaz.psq = .off →
      b.topaz.pwr.mainOk = false →
      Completes (.powerUpDelay) ⟨q, b⟩ (fun t =>
        t.topaz.psq = .off ∧
        t.topaz.pwr.upWait = none ∧
        t.topaz.enables = b.topaz.enables ∧
        t.topaz.pwr.mainSeenLow = true ∧
        onlyChanges [.quartz, .disc, .tod, .garnet, .jade, .spinel, .opal, .posts, .onyx, .agate, .thm, .otc, .evr, .beryl,
            .topaz, .dram, .ch, .trace, .regs, .out] b t)) ∧
  (∀ (q : List Instr) (b : Block) (k : Nat),
      b.topaz.psq = .raising k →
      exec (.railPgRise k) ⟨q, b⟩ = .next ⟨q,
          { b with topaz := { b.topaz with pg := vset b.topaz.pg k true, psq := .risen k } }⟩) ∧
  (∀ (q : List Instr) (b : Block) (k : Nat),
      b.topaz.psq = .risen k →
      k < 5 →
      exec (.railEnableDelay) ⟨q, b⟩ = .next ⟨q,
          { b with topaz := { b.topaz with enables := vset b.topaz.enables (k + 1) true, psq := .raising (k + 1) } }⟩) ∧
  (∀ (q : List Instr) (b : Block),
      b.topaz.psq = .risen 5 →
      exec (.railEnableDelay) ⟨q, b⟩ = .next ⟨q, { b with topaz := { b.topaz with psq := .up, pwrGood := true } }⟩) ∧
  (∀ (q : List Instr) (b : Block) (k j : Nat),
      b.topaz.psq = .raising k →
      b.topaz.drop = none →
      topRail b.topaz = some j →
      Completes (.railTimeout) ⟨q, b⟩ (fun t =>
        t.topaz.rail = k ∧
        t.topaz.railFails = b.topaz.railFails + bit b.topaz.pwr.mainOk ∧
        (t.topaz.faultCode = if 2 ≤ b.topaz.railFails + bit b.topaz.pwr.mainOk then 4 else b.topaz.faultCode) ∧
        t.topaz.drop = some .railFail ∧
        t.topaz.psq = .lowering j ∧
        t.topaz.pwrGood = false ∧
        t.topaz.pwrPin = false ∧
        t.topaz.released = false ∧
        (∀ m < 4, vget t.topaz.pwr.magpwr m false = false) ∧
        t.quartz = coldQuartz ∧
        t.dram = [] ∧
        t.beryl.otc.fuses = b.beryl.otc.fuses ∧
        onlyChanges [.quartz, .disc, .tod, .garnet, .jade, .spinel, .opal, .posts, .onyx, .agate, .thm, .otc, .evr, .beryl,
            .topaz, .dram, .ch, .trace, .regs, .out] b t)) ∧
  (∀ (q : List Instr) (b : Block) (k j : Nat),
      b.topaz.psq = .up →
      k < 6 →
      b.topaz.drop = none →
      topRail b.topaz = some j →
      Completes (.railPgFall k) ⟨q, b⟩ (fun t =>
        t.topaz.rail = k ∧
        t.topaz.railFails = b.topaz.railFails + bit b.topaz.pwr.mainOk ∧
        (t.topaz.faultCode = if 2 ≤ b.topaz.railFails + bit b.topaz.pwr.mainOk then 5 else b.topaz.faultCode) ∧
        t.topaz.pwr.flush = false ∧
        t.topaz.drop = some .railFail ∧
        t.topaz.psq = .lowering j ∧
        t.topaz.pwrGood = false ∧
        t.topaz.pwrPin = false ∧
        t.topaz.released = false ∧
        (∀ m < 4, vget t.topaz.pwr.magpwr m false = false) ∧
        t.quartz = coldQuartz ∧
        t.dram = [] ∧
        t.beryl.otc.fuses = b.beryl.otc.fuses ∧
        onlyChanges [.quartz, .disc, .tod, .garnet, .jade, .spinel, .opal, .posts, .onyx, .agate, .thm, .otc, .evr, .beryl,
            .topaz, .dram, .ch, .trace, .regs, .out] b t)) ∧
  (∀ (q : List Instr) (b : Block) (k : Nat),
      b.topaz.psq = .lowering (k + 1) →
      exec (.railDownStep) ⟨q, b⟩ = .next ⟨q, { b with topaz := { b.topaz with
        enables := vset b.topaz.enables (k + 1) false, pg := vset b.topaz.pg (k + 1) false, psq := .lowering k } }⟩) ∧
  (∀ (q : List Instr) (b : Block) (ok : Bool),
      b.topaz.psq = .lowering 0 →
      b.topaz.drop = some (.flush ok) →
      b.topaz.pwr.keyDeferred = none →
      Completes (.railDownStep) ⟨q, b⟩ (fun t =>
        t.topaz.psq = .off ∧
        t.topaz.drop = none ∧
        vget t.topaz.enables 0 true = false ∧
        (t.topaz.pwr.show_ = if showS b.topaz.pwr = 0 then b.topaz.pwr.show_ else some ok) ∧
        t.topaz.pwr.upWait = some 1 ∧
        t.topaz.cause = 1 ∧
        (t.topaz.lastFlush = if ok = true then 1 else 2) ∧
        t.topaz.pwr.flush = false ∧
        onlyChanges [.posts, .topaz, .out] b t)) ∧
  (∀ (q : List Instr) (b : Block),
      b.topaz.psq = .lowering 0 →
      b.topaz.drop = some .shutdown →
      b.topaz.pwr.keyDeferred = none →
      Completes (.railDownStep) ⟨q, b⟩ (fun t =>
        t.topaz.psq = .off ∧
        t.topaz.drop = none ∧
        vget t.topaz.enables 0 true = false ∧
        (t.topaz.cause = (if b.topaz.fatal = true then 6 else 3)) ∧
        t.topaz.pwr.mainSeenLow = !b.topaz.pwr.mainOk ∧
        t.topaz.pwr.packSwitch = (b.topaz.pwr.packSwitch && !b.topaz.latch.isEmpty) ∧
        onlyChanges [.posts, .topaz, .out] b t)) ∧
  (∀ (q : List Instr) (b : Block),
      b.topaz.psq = .lowering 0 →
      b.topaz.drop = some .shutdownCut →
      b.topaz.pwr.keyDeferred = none →
      Completes (.railDownStep) ⟨q, b⟩ (fun t =>
        t.topaz.psq = .off ∧
        t.topaz.drop = none ∧
        vget t.topaz.enables 0 true = false ∧
        (t.topaz.cause = (if b.topaz.fatal = true then 6 else 3)) ∧
        t.topaz.lastFlush = 2 ∧
        (t.topaz.pwr.show_ = if showS b.topaz.pwr = 0 then b.topaz.pwr.show_ else some false) ∧
        t.topaz.pwr.mainSeenLow = !b.topaz.pwr.mainOk ∧
        onlyChanges [.posts, .topaz, .out] b t)) ∧
  (∀ (q : List Instr) (b : Block) (ok : Bool),
      b.topaz.psq = .lowering 0 →
      b.topaz.drop = some (.flush ok) →
      b.topaz.pwr.keyDeferred = some .restart →
      Completes (.railDownStep) ⟨q, b⟩ (fun t =>
        t.topaz.psq = .off ∧
        t.topaz.drop = none ∧
        vget t.topaz.enables 0 true = false ∧
        t.topaz.cause = 2 ∧
        (t.topaz.lastFlush = if ok = true then 1 else 2) ∧
        (t.topaz.pwr.show_ = if showS b.topaz.pwr = 0 then b.topaz.pwr.show_ else some ok) ∧
        t.topaz.pwr.packSwitch = false ∧
        t.topaz.pwr.upWait = some 2 ∧
        t.topaz.faultCode = 0 ∧
        onlyChanges [.posts, .topaz, .out] b t)) ∧
  (∀ (q : List Instr) (b : Block),
      b.topaz.psq = .lowering 0 →
      b.topaz.drop = some .keyRestart →
      b.topaz.pwr.keyDeferred = none →
      Completes (.railDownStep) ⟨q, b⟩ (fun t =>
        t.topaz.psq = .off ∧
        t.topaz.drop = none ∧
        vget t.topaz.enables 0 true = false ∧
        t.topaz.cause = 2 ∧
        t.topaz.pwr.packSwitch = false ∧
        t.topaz.pwr.upWait = some 2 ∧
        t.topaz.faultCode = 0 ∧
        t.topaz.railFails = 0 ∧
        onlyChanges [.posts, .topaz, .out] b t)) ∧
  (∀ (q : List Instr) (b : Block),
      b.topaz.psq = .lowering 0 →
      b.topaz.drop = some .ship →
      b.topaz.pwr.keyDeferred = none →
      Completes (.railDownStep) ⟨q, b⟩ (fun t =>
        t.topaz.psq = .off ∧
        t.topaz.drop = none ∧
        vget t.topaz.enables 0 true = false ∧
        t.topaz.pwr.ship = true ∧
        t.topaz.cause = 0 ∧
        t.topaz.pwr.mainSeenLow = !b.topaz.pwr.mainOk ∧
        t.topaz.pwr.packSwitch = (b.topaz.pwr.packSwitch && !b.topaz.latch.isEmpty) ∧
        onlyChanges [.posts, .topaz, .out] b t)) ∧
  (∀ (q : List Instr) (b : Block),
      b.topaz.psq = .lowering 0 →
      b.topaz.drop = some .railFail →
      b.topaz.pwr.keyDeferred = none →
      b.topaz.railFails < 2 →
      Completes (.railDownStep) ⟨q, b⟩ (fun t =>
        t.topaz.psq = .off ∧
        t.topaz.drop = none ∧
        vget t.topaz.enables 0 true = false ∧
        t.topaz.cause = 4 ∧
        t.topaz.pwr.upWait = some 4 ∧
        onlyChanges [.posts, .topaz, .out] b t)) ∧
  (∀ (q : List Instr) (b : Block),
      b.topaz.psq = .lowering 0 →
      b.topaz.drop = some .railFail →
      b.topaz.pwr.keyDeferred = none →
      2 ≤ b.topaz.railFails →
      Completes (.railDownStep) ⟨q, b⟩ (fun t =>
        t.topaz.psq = .off ∧
        t.topaz.drop = none ∧
        vget t.topaz.enables 0 true = false ∧
        t.topaz.pwr.mainSeenLow = !b.topaz.pwr.mainOk ∧
        t.topaz.pwr.upWait = b.topaz.pwr.upWait ∧
        onlyChanges [.posts, .topaz, .out] b t)) ∧
  (∀ (q : List Instr) (b : Block),
      b.topaz.pwr.on = true →
      Completes (.vddAoLoss) ⟨q, b⟩ (fun t =>
        t.topaz = coldTopaz ∧
        t.quartz = coldQuartz ∧
        t.dram = [] ∧
        t.regs = [] ∧
        t.beryl.otc.fuses = b.beryl.otc.fuses ∧
        onlyChanges [.quartz, .disc, .tod, .garnet, .jade, .spinel, .opal, .posts, .onyx, .agate, .thm, .otc, .evr, .beryl,
            .topaz, .dram, .ch, .trace, .regs] b t)) ∧
  (∀ (q : List Instr) (b : Block) (c : Bool),
      b.topaz.pwrGood = true →
      b.topaz.pwrPin = false →
      exec (.pwrGoodRise c) ⟨q, b⟩ = .next ⟨q, settleFaultPin
          { b with topaz := { b.topaz with pwrPin := true, faultCode := if c = true then b.topaz.faultCode else 6 } }⟩) ∧
  (∀ (q : List Instr) (b : Block),
      b.topaz.pwrGood = true →
      b.topaz.pwrPin = true →
      b.topaz.pwr.flush = false →
      b.topaz.shutSent = false →
      Completes (.pwrGoodFall) ⟨q, b⟩ (fun t =>
        t.topaz.pwrPin = false ∧
        t.topaz.pwrGood = true ∧
        t.topaz.cause = 5 ∧
        t.topaz.released = false ∧
        t.quartz = coldQuartz ∧
        t.topaz.psq = b.topaz.psq ∧
        t.regs = [] ∧
        (∀ m < 4, vget t.topaz.pwr.magpwr m false = false) ∧
        onlyChanges [.quartz, .disc, .tod, .garnet, .jade, .spinel, .opal, .posts, .onyx, .agate, .thm, .otc, .evr, .beryl,
            .topaz, .dram, .ch, .trace, .regs, .out] b t)) ∧
  (∀ (q : List Instr) (b : Block) (j : Nat),
      b.topaz.pwrGood = true →
      b.topaz.pwrPin = true →
      b.topaz.pwr.flush = false →
      b.topaz.shutSent = true →
      b.topaz.drop = none →
      topRail b.topaz = some j →
      Completes (.pwrGoodFall) ⟨q, b⟩ (fun t =>
        t.topaz.drop = some .shutdownCut ∧
        t.topaz.psq = .lowering j ∧
        t.topaz.pwrGood = false ∧
        t.topaz.pwrPin = false ∧
        t.topaz.released = false ∧
        (∀ m < 4, vget t.topaz.pwr.magpwr m false = false) ∧
        t.quartz = coldQuartz ∧
        t.dram = [] ∧
        t.beryl.otc.fuses = b.beryl.otc.fuses ∧
        onlyChanges [.quartz, .disc, .tod, .garnet, .jade, .spinel, .opal, .posts, .onyx, .agate, .thm, .otc, .evr, .beryl,
            .topaz, .dram, .ch, .trace, .regs, .out] b t)) ∧
  (∀ (q : List Instr) (b : Block) (j : Nat),
      b.topaz.pwrGood = true →
      b.topaz.pwrPin = true →
      b.topaz.pwr.flush = true →
      b.topaz.drop = none →
      topRail b.topaz = some j →
      Completes (.pwrGoodFall) ⟨q, b⟩ (fun t =>
        t.topaz.drop = some (.flush false) ∧
        t.topaz.psq = .lowering j ∧
        t.topaz.pwrGood = false ∧
        t.topaz.pwrPin = false ∧
        t.topaz.released = false ∧
        (∀ m < 4, vget t.topaz.pwr.magpwr m false = false) ∧
        t.quartz = coldQuartz ∧
        t.dram = [] ∧
        t.beryl.otc.fuses = b.beryl.otc.fuses ∧
        onlyChanges [.quartz, .disc, .tod, .garnet, .jade, .spinel, .opal, .posts, .onyx, .agate, .thm, .otc, .evr, .beryl,
            .topaz, .dram, .ch, .trace, .regs, .out] b t)) ∧
  (∀ (q : List Instr) (b : Block),
      b.topaz.pwrPin = true →
      b.topaz.released = false →
      b.beryl.otc.loaded = true →
      b.topaz.faultCode = 0 →
      exec (.islandResetRelease) ⟨q, b⟩ = .next ⟨q, { b with
        topaz := { b.topaz with released := true, berylOut := true, stage := max b.topaz.stage 1, telBurning := !b.topaz.latch.isEmpty }
        quartz := { b.quartz with running := true, tb := 0 }
        ch := { b.ch with telBurn := b.ch.telBurn ++ b.topaz.latch.map (fun e => { entry := e, latched := true, ok := false }) } }⟩) ∧
  (∀ (q : List Instr) (b : Block),
      b.topaz.released = true →
      b.topaz.dramReady = false →
      exec (.dramInitDone true) ⟨q, b⟩ = .next ⟨q, { b with topaz := { b.topaz with dramReady := true }, dram := [] }⟩) ∧
  (∀ (q : List Instr) (b : Block),
      b.topaz.released = true →
      b.topaz.dramReady = false →
      Completes (.dramInitDone false) ⟨q, b⟩ (fun t =>
        t.topaz.faultCode = 7 ∧
        t.topaz.released = false ∧
        t.quartz = coldQuartz ∧
        onlyChanges [.quartz, .disc, .tod, .garnet, .jade, .spinel, .opal, .posts, .onyx, .agate, .thm, .otc, .evr, .beryl,
            .topaz, .dram, .ch, .trace, .regs] b t)) ∧
  (∀ (q : List Instr) (b : Block),
      b.topaz.berylOut = true →
      b.topaz.stage = 1 →
      b.topaz.absent = false →
      b.topaz.dramReady = true →
      b.topaz.berylDead = false →
      Completes (.romStart true) ⟨q, b⟩ (fun t =>
        t.topaz.stage = 2 ∧
        t.topaz.wdgLast = b.quartz.tb ∧
        vget t.beryl.thm.begun 0 false = true ∧
        vget t.beryl.thm.begun 1 false = true ∧
        t.beryl.romBad = false ∧
        onlyChanges [.thm, .otc, .evr, .beryl, .topaz, .ch, .trace] b t)) ∧
  (∀ (q : List Instr) (b : Block) (ok : Bool),
      b.topaz.berylOut = true →
      b.topaz.stage = 1 →
      b.topaz.absent = true →
      b.topaz.berylDead = false →
      exec (.romStart ok) ⟨q, b⟩ = .next ⟨q, { b with beryl := { b.beryl with romBad := !ok } }⟩) ∧
  (∀ (q : List Instr) (b : Block),
      b.topaz.berylOut = true →
      b.topaz.stage = 1 →
      b.topaz.absent = false →
      b.topaz.berylDead = false →
      exec (.romStart false) ⟨q, b⟩ = .next ⟨q, { b with beryl := { b.beryl with romBad := true } }⟩) ∧
  (∀ (q : List Instr) (b : Block) (ohms : Nat) (temp : Int),
      exec (.topazStart ohms temp) ⟨q, b⟩ = .next ⟨q, topazStart ohms temp b⟩ ∧
        onlyChanges [.quartz, .disc, .tod, .garnet, .jade, .spinel, .opal, .posts, .onyx, .agate, .thm, .otc, .evr, .beryl,
            .topaz, .dram, .ch, .trace, .regs, .out] b (topazStart ohms temp b)) ∧
  (∀ (q : List Instr) (b : Block),
      exec (.powerUpDelay) ⟨q, b⟩ = .next ⟨q, powerUpDelay b⟩ ∧
        onlyChanges [.quartz, .disc, .tod, .garnet, .jade, .spinel, .opal, .posts, .onyx, .agate, .thm, .otc, .evr, .beryl,
            .topaz, .dram, .ch, .trace, .regs, .out] b (powerUpDelay b)) ∧
  (∀ (q : List Instr) (b : Block) (k : Nat),
      exec (.railPgRise k) ⟨q, b⟩ = .next ⟨q, railPgRise k b⟩ ∧
        onlyChanges [.topaz] b (railPgRise k b)) ∧
  (∀ (q : List Instr) (b : Block),
      exec (.railEnableDelay) ⟨q, b⟩ = .next ⟨q, railEnableDelay b⟩ ∧
        onlyChanges [.topaz] b (railEnableDelay b)) ∧
  (∀ (q : List Instr) (b : Block),
      exec (.railTimeout) ⟨q, b⟩ = .next ⟨q, railTimeout b⟩ ∧
        onlyChanges [.quartz, .disc, .tod, .garnet, .jade, .spinel, .opal, .posts, .onyx, .agate, .thm, .otc, .evr, .beryl,
            .topaz, .dram, .ch, .trace, .regs, .out] b (railTimeout b)) ∧
  (∀ (q : List Instr) (b : Block) (k : Nat),
      exec (.railPgFall k) ⟨q, b⟩ = .next ⟨q, railPgFall k b⟩ ∧
        onlyChanges [.quartz, .disc, .tod, .garnet, .jade, .spinel, .opal, .posts, .onyx, .agate, .thm, .otc, .evr, .beryl,
            .topaz, .dram, .ch, .trace, .regs, .out] b (railPgFall k b)) ∧
  (∀ (q : List Instr) (b : Block),
      exec (.railDownStep) ⟨q, b⟩ = .next ⟨q, railDownStep b⟩ ∧
        onlyChanges [.posts, .topaz, .out] b (railDownStep b)) ∧
  (∀ (q : List Instr) (b : Block),
      exec (.vddAoLoss) ⟨q, b⟩ = .next ⟨q, vddAoLoss b⟩ ∧
        onlyChanges [.quartz, .disc, .tod, .garnet, .jade, .spinel, .opal, .posts, .onyx, .agate, .thm, .otc, .evr, .beryl,
            .topaz, .dram, .ch, .trace, .regs] b (vddAoLoss b)) ∧
  (∀ (q : List Instr) (b : Block) (tcxo : Bool),
      exec (.pwrGoodRise tcxo) ⟨q, b⟩ = .next ⟨q, pwrGoodRise tcxo b⟩ ∧
        onlyChanges [.topaz] b (pwrGoodRise tcxo b)) ∧
  (∀ (q : List Instr) (b : Block),
      exec (.pwrGoodFall) ⟨q, b⟩ = .next ⟨q, pwrGoodFall b⟩ ∧
        onlyChanges [.quartz, .disc, .tod, .garnet, .jade, .spinel, .opal, .posts, .onyx, .agate, .thm, .otc, .evr, .beryl,
            .topaz, .dram, .ch, .trace, .regs, .out] b (pwrGoodFall b)) ∧
  (∀ (q : List Instr) (b : Block),
      exec (.islandResetRelease) ⟨q, b⟩ = .next ⟨q, islandResetRelease b⟩ ∧
        onlyChanges [.quartz, .topaz, .ch, .trace] b (islandResetRelease b)) ∧
  (∀ (q : List Instr) (b : Block) (ok : Bool),
      exec (.dramInitDone ok) ⟨q, b⟩ = .next ⟨q, dramInitDone ok b⟩ ∧
        onlyChanges [.quartz, .disc, .tod, .garnet, .jade, .spinel, .opal, .posts, .onyx, .agate, .thm, .otc, .evr, .beryl,
            .topaz, .dram, .ch, .trace, .regs] b (dramInitDone ok b)) ∧
  (∀ (q : List Instr) (b : Block) (romOk : Bool),
      exec (.romStart romOk) ⟨q, b⟩ = .next ⟨q, romStart romOk b⟩ ∧
        onlyChanges [.thm, .otc, .evr, .beryl, .topaz, .ch, .trace] b (romStart romOk b))

/-- Pack readings, faults, zones and timers; the control step puts hold-up registers in force; KEY_N holds and acts;
magazine power by write and by record. Rules: R382, R383, R384, R385, R386, R388, R389, R390, R392, R393, R400, R403. -/
def Obligations.PackChargerKeyAndMagazinePower : Prop :=
  (∀ (q : List Instr) (b : Block) (ohms : Nat) (temp : Int),
      b.topaz.pwr.on = true →
      500000 < ohms →
      2 ≤ b.topaz.pwr.pack.openReads →
      Completes (.packRead ohms temp) ⟨q, b⟩ (fun t =>
        t.topaz.pwr.pack.kind = .absent ∧
        t.topaz.pwr.pack.ready = false ∧
        t.topaz.pwr = noteHold (driveLamps (driveGates t.topaz.pwr)) ∧
        (b.inPower .opal = true →
          t.opal.evSeq = if t.topaz.pwr.holdState = b.topaz.pwr.holdState ∧ t.topaz.pwr.chargeState = b.topaz.pwr.chargeState ∧
              t.topaz.pwr.pattern = b.topaz.pwr.pattern then b.opal.evSeq else (b.opal.evSeq + 1) % 2 ^ 32) ∧
        onlyChanges [.posts, .topaz, .out] b t)) ∧
  (∀ (q : List Instr) (b : Block) (ohms : Nat) (temp : Int),
      b.topaz.pwr.on = true →
      ohms ≤ 500000 →
      b.topaz.pwr.pack.kind = .absent →
      kindOf ohms ≠ .unknown →
      Completes (.packRead ohms temp) ⟨q, b⟩ (fun t =>
        t.topaz.pwr.pack.kind = kindOf ohms ∧
        t.topaz.pwr.pack.timer = 0 ∧
        t.topaz.pwr.pack.faultShort = false ∧
        t.topaz.pwr.pack.faultTimer = false ∧
        t.topaz.pwr.pack.faultId = false ∧
        t.topaz.pwr = noteHold (driveLamps (driveGates t.topaz.pwr)) ∧
        (b.inPower .opal = true →
          t.opal.evSeq = if t.topaz.pwr.holdState = b.topaz.pwr.holdState ∧ t.topaz.pwr.chargeState = b.topaz.pwr.chargeState ∧
              t.topaz.pwr.pattern = b.topaz.pwr.pattern then b.opal.evSeq else (b.opal.evSeq + 1) % 2 ^ 32) ∧
        onlyChanges [.posts, .topaz, .out] b t)) ∧
  (∀ (q : List Instr) (b : Block) (ohms : Nat) (temp : Int),
      b.topaz.pwr.on = true →
      ohms ≤ 500000 →
      b.topaz.pwr.pack.kind = .absent →
      kindOf ohms = .unknown →
      Completes (.packRead ohms temp) ⟨q, b⟩ (fun t =>
        t.topaz.pwr.pack.kind = .unknown ∧
        t.topaz.pwr.pack.faultId = true ∧
        t.topaz.pwr.pack.ready = false ∧
        t.topaz.pwr.pack.timer = b.topaz.pwr.pack.timer ∧
        t.topaz.pwr.pack.faultShort = b.topaz.pwr.pack.faultShort ∧
        t.topaz.pwr.pack.faultTimer = b.topaz.pwr.pack.faultTimer ∧
        t.topaz.pwr = noteHold (driveLamps (driveGates t.topaz.pwr)) ∧
        (b.inPower .opal = true →
          t.opal.evSeq = if t.topaz.pwr.holdState = b.topaz.pwr.holdState ∧ t.topaz.pwr.chargeState = b.topaz.pwr.chargeState ∧
              t.topaz.pwr.pattern = b.topaz.pwr.pattern then b.opal.evSeq else (b.opal.evSeq + 1) % 2 ^ 32) ∧
        onlyChanges [.posts, .topaz, .out] b t)) ∧
  (∀ (q : List Instr) (b : Block) (ohms : Nat) (temp : Int),
      b.topaz.pwr.on = true →
      ohms ≤ 500000 →
      b.topaz.pwr.pack.kind ≠ .absent →
      (temp < -400 ∨ 1250 < temp) →
      Completes (.packRead ohms temp) ⟨q, b⟩ (fun t =>
        t.topaz.pwr.pack.faultNtc = true ∧
        t.topaz.pwr.pack.ntcGood = 0 ∧
        t.topaz.pwr.pack.ready = false ∧
        t.topaz.pwr = noteHold (driveLamps (driveGates t.topaz.pwr)) ∧
        (b.inPower .opal = true →
          t.opal.evSeq = if t.topaz.pwr.holdState = b.topaz.pwr.holdState ∧ t.topaz.pwr.chargeState = b.topaz.pwr.chargeState ∧
              t.topaz.pwr.pattern = b.topaz.pwr.pattern then b.opal.evSeq else (b.opal.evSeq + 1) % 2 ^ 32) ∧
        onlyChanges [.posts, .topaz, .out] b t)) ∧
  (∀ (q : List Instr) (b : Block) (ohms : Nat) (temp : Int),
      b.topaz.pwr.on = true →
      ohms ≤ 500000 →
      b.topaz.pwr.pack.kind ≠ .absent →
      -400 ≤ temp →
      temp ≤ 1250 →
      Completes (.packRead ohms temp) ⟨q, b⟩ (fun t =>
        t.topaz.pwr.pack.ntcGood = min 11 (b.topaz.pwr.pack.ntcGood + 1) ∧
        t.topaz.pwr.pack.faultNtc = (b.topaz.pwr.pack.faultNtc && decide (b.topaz.pwr.pack.ntcGood < 10)) ∧
        t.topaz.pwr = noteHold (driveLamps (driveGates t.topaz.pwr)) ∧
        (b.inPower .opal = true →
          t.opal.evSeq = if t.topaz.pwr.holdState = b.topaz.pwr.holdState ∧ t.topaz.pwr.chargeState = b.topaz.pwr.chargeState ∧
              t.topaz.pwr.pattern = b.topaz.pwr.pattern then b.opal.evSeq else (b.opal.evSeq + 1) % 2 ^ 32) ∧
        onlyChanges [.posts, .topaz, .out] b t)) ∧
  (∀ (q : List Instr) (b : Block) (ohms : Nat) (temp : Int),
      b.topaz.pwr.on = true →
      ohms ≤ 500000 →
      b.topaz.pwr.pack.kind ≠ .absent →
      b.topaz.pwr.pack.zoned = false →
      Completes (.packRead ohms temp) ⟨q, b⟩ (fun t =>
        t.topaz.pwr.pack.zoned = true ∧
        t.topaz.pwr.pack.temp = temp ∧
        t.topaz.pwr.pack.czone = chargeRaw b.topaz.pwr.hup.ctemp temp (zoneHyst b.topaz.pwr) ∧
        t.topaz.pwr.pack.allowed = dischargeRaw b.topaz.pwr.hup.dtemp temp (zoneHyst b.topaz.pwr) ∧
        t.topaz.pwr = noteHold (driveLamps (driveGates t.topaz.pwr)) ∧
        (b.inPower .opal = true →
          t.opal.evSeq = if t.topaz.pwr.holdState = b.topaz.pwr.holdState ∧ t.topaz.pwr.chargeState = b.topaz.pwr.chargeState ∧
              t.topaz.pwr.pattern = b.topaz.pwr.pattern then b.opal.evSeq else (b.opal.evSeq + 1) % 2 ^ 32) ∧
        onlyChanges [.posts, .topaz, .out] b t)) ∧
  (∀ (q : List Instr) (b : Block) (ohms : Nat) (temp : Int),
      b.topaz.pwr.on = true →
      ohms ≤ 500000 →
      b.topaz.pwr.pack.kind ≠ .absent →
      b.topaz.pwr.pack.zoned = true →
      Completes (.packRead ohms temp) ⟨q, b⟩ (fun t =>
        t.topaz.pwr.pack.temp = temp ∧
        t.topaz.pwr.pack.czone = nextZone (chargeRaw b.topaz.pwr.hup.ctemp temp 0) (chargeRaw b.topaz.pwr.hup.ctemp temp
            (zoneHyst b.topaz.pwr)) b.topaz.pwr.pack.czone ∧
        (t.topaz.pwr.pack.allowed = dischargeRaw b.topaz.pwr.hup.dtemp temp (if b.topaz.pwr.pack.allowed = true then 0 else
            zoneHyst b.topaz.pwr)) ∧
        t.topaz.pwr = noteHold (driveLamps (driveGates t.topaz.pwr)) ∧
        (b.inPower .opal = true →
          t.opal.evSeq = if t.topaz.pwr.holdState = b.topaz.pwr.holdState ∧ t.topaz.pwr.chargeState = b.topaz.pwr.chargeState ∧
              t.topaz.pwr.pattern = b.topaz.pwr.pattern then b.opal.evSeq else (b.opal.evSeq + 1) % 2 ^ 32) ∧
        onlyChanges [.posts, .topaz, .out] b t)) ∧
  (∀ (q : List Instr) (b : Block),
      b.topaz.pwr.pack.phase = .precharge →
      b.topaz.pwr.pack.mv < 2000 →
      Completes (.shortCheck) ⟨q, b⟩ (fun t =>
        t.topaz.pwr.pack = { b.topaz.pwr.pack with faultShort := true, phase := .off, ready := false } ∧
        t.topaz.pwr = noteHold (driveLamps (driveGates t.topaz.pwr)) ∧
        (b.inPower .opal = true →
          t.opal.evSeq = if t.topaz.pwr.holdState = b.topaz.pwr.holdState ∧ t.topaz.pwr.chargeState = b.topaz.pwr.chargeState ∧
              t.topaz.pwr.pattern = b.topaz.pwr.pattern then b.opal.evSeq else (b.opal.evSeq + 1) % 2 ^ 32) ∧
        onlyChanges [.posts, .topaz, .out] b t)) ∧
  (∀ (q : List Instr) (b : Block),
      b.topaz.pwr.pack.phase = .precharge →
      Completes (.prechargeTimeout) ⟨q, b⟩ (fun t =>
        t.topaz.pwr.pack = { b.topaz.pwr.pack with faultTimer := true, phase := .off, ready := false } ∧
        t.topaz.pwr = noteHold (driveLamps (driveGates t.topaz.pwr)) ∧
        (b.inPower .opal = true →
          t.opal.evSeq = if t.topaz.pwr.holdState = b.topaz.pwr.holdState ∧ t.topaz.pwr.chargeState = b.topaz.pwr.chargeState ∧
              t.topaz.pwr.pattern = b.topaz.pwr.pattern then b.opal.evSeq else (b.opal.evSeq + 1) % 2 ^ 32) ∧
        onlyChanges [.posts, .topaz, .out] b t)) ∧
  (∀ (q : List Instr) (b : Block),
      b.topaz.pwr.pack.phase = .constantVoltage →
      Completes (.chargeDone) ⟨q, b⟩ (fun t =>
        t.topaz.pwr.pack = { b.topaz.pwr.pack with phase := .done, timer := 0, ready := readyNow b.topaz.pwr } ∧
        t.topaz.pwr = noteHold (driveLamps (driveGates t.topaz.pwr)) ∧
        (b.inPower .opal = true →
          t.opal.evSeq = if t.topaz.pwr.holdState = b.topaz.pwr.holdState ∧ t.topaz.pwr.chargeState = b.topaz.pwr.chargeState ∧
              t.topaz.pwr.pattern = b.topaz.pwr.pattern then b.opal.evSeq else (b.opal.evSeq + 1) % 2 ^ 32) ∧
        onlyChanges [.posts, .topaz, .out] b t)) ∧
  (∀ (q : List Instr) (b : Block),
      timerRuns b.topaz.pwr.pack = false →
      Completes (.safetyTimerExpiry) ⟨q, b⟩ (fun t =>
        t.topaz.pwr.pack = { b.topaz.pwr.pack with ready := readyNow b.topaz.pwr } ∧
        t.topaz.pwr = noteHold (driveLamps (driveGates t.topaz.pwr)) ∧
        (b.inPower .opal = true →
          t.opal.evSeq = if t.topaz.pwr.holdState = b.topaz.pwr.holdState ∧ t.topaz.pwr.chargeState = b.topaz.pwr.chargeState ∧
              t.topaz.pwr.pattern = b.topaz.pwr.pattern then b.opal.evSeq else (b.opal.evSeq + 1) % 2 ^ 32) ∧
        onlyChanges [.posts, .topaz, .out] b t)) ∧
  (∀ (q : List Instr) (b : Block),
      timerRuns b.topaz.pwr.pack = true →
      Completes (.safetyTimerExpiry) ⟨q, b⟩ (fun t =>
        t.topaz.pwr.pack = { b.topaz.pwr.pack with timer := safetyLimit, faultTimer := true, phase := .off, ready := false } ∧
        t.topaz.pwr = noteHold (driveLamps (driveGates t.topaz.pwr)) ∧
        (b.inPower .opal = true →
          t.opal.evSeq = if t.topaz.pwr.holdState = b.topaz.pwr.holdState ∧ t.topaz.pwr.chargeState = b.topaz.pwr.chargeState ∧
              t.topaz.pwr.pattern = b.topaz.pwr.pattern then b.opal.evSeq else (b.opal.evSeq + 1) % 2 ^ 32) ∧
        onlyChanges [.posts, .topaz, .out] b t)) ∧
  (∀ (q : List Instr) (b : Block) (w : Word),
      b.bar0 = true →
      w.getLsbD 0 = true →
      bitsOf w.toNat 15 8 = 0xA5 →
      Completes (.clrTimer w) ⟨q, b⟩ (fun t =>
        t.topaz.pwr.pack.timer = 0 ∧
        t.topaz.pwr.pack.faultTimer = false ∧
        t.topaz.pwr.pack.phase = b.topaz.pwr.pack.phase ∧
        t.topaz.pwr = noteHold (driveLamps (driveGates t.topaz.pwr)) ∧
        (b.inPower .opal = true →
          t.opal.evSeq = if t.topaz.pwr.holdState = b.topaz.pwr.holdState ∧ t.topaz.pwr.chargeState = b.topaz.pwr.chargeState ∧
              t.topaz.pwr.pattern = b.topaz.pwr.pattern then b.opal.evSeq else (b.opal.evSeq + 1) % 2 ^ 32) ∧
        onlyChanges [.posts, .topaz, .out] b t)) ∧
  (∀ (q : List Instr) (b : Block) (w : Word),
      (w.getLsbD 0 = false ∨ bitsOf w.toNat 15 8 ≠ 0xA5) →
      exec (.clrTimer w) ⟨q, b⟩ = .next ⟨q, b⟩) ∧
  (∀ (q : List Instr) (b : Block) (mv vbus : Nat) (ma : Int),
      b.topaz.pwr.on = true →
      b.topaz.pwr.flush = false →
      mv ≤ cvMv b.topaz.pwr.pack.kind + 300 →
      1000 ≤ mv →
      Completes (.controlStep mv ma vbus) ⟨q, b⟩ (fun t =>
        t.topaz.pwr.hup = ⟨BitVec.ofNat 32 (b.reg 0x200), BitVec.ofNat 32 (b.reg 0x204), BitVec.ofNat 32 (b.reg 0x208), BitVec.ofNat 32 (b.reg 0x20C),
          BitVec.ofNat 32 (b.reg 0x210), BitVec.ofNat 32 (b.reg 0x218), BitVec.ofNat 32 (b.reg 0x21C)⟩ ∧
        t.topaz.pwr.vbus = vbus ∧
        t.topaz.pwr.pack.mv = mv ∧
        t.topaz.pwr.pack.ma = ma ∧
        (b.topaz.pwr.pack.faultTimer = false → t.topaz.pwr.pack.faultTimer = true → t.topaz.pwr.pack.timer = safetyLimit ∧
            t.topaz.pwr.pack.phase = .off) ∧
        t.topaz.pwr.pack.kind = b.topaz.pwr.pack.kind ∧
        ((t.topaz.pwr.pack.phase = .constantCurrent ∨ t.topaz.pwr.pack.phase = .constantVoltage) →
          t.topaz.pwr.pack.timer = match b.topaz.pwr.pack.czone with
            | .normal => min safetyLimit (b.topaz.pwr.pack.timer + 2)
            | .cool => min safetyLimit (b.topaz.pwr.pack.timer + 1)
            | .warm => min safetyLimit (b.topaz.pwr.pack.timer + 1)
            | _ => min safetyLimit b.topaz.pwr.pack.timer) ∧
        t.topaz.pwr = noteHold (driveLamps (driveGates t.topaz.pwr)) ∧
        (b.inPower .opal = true →
          t.opal.evSeq = if t.topaz.pwr.holdState = b.topaz.pwr.holdState ∧ t.topaz.pwr.chargeState = b.topaz.pwr.chargeState ∧
              t.topaz.pwr.pattern = b.topaz.pwr.pattern then b.opal.evSeq else (b.opal.evSeq + 1) % 2 ^ 32) ∧
        onlyChanges [.quartz, .disc, .tod, .garnet, .jade, .spinel, .opal, .posts, .onyx, .agate, .thm, .otc, .evr, .beryl,
            .topaz, .dram, .ch, .trace, .regs, .out] b t)) ∧
  (∀ (q : List Instr) (b : Block) (mv vbus : Nat) (ma : Int),
      b.topaz.pwr.on = true →
      b.topaz.pwr.flush = false →
      identified b.topaz.pwr.pack = true →
      cvMv b.topaz.pwr.pack.kind + 300 < mv →
      Completes (.controlStep mv ma vbus) ⟨q, b⟩ (fun t =>
        t.topaz.pwr.pack.kind = .absent ∧
        t.topaz.pwr.pack.phase = .off ∧
        t.topaz.pwr = noteHold (driveLamps (driveGates t.topaz.pwr)) ∧
        (b.inPower .opal = true →
          t.opal.evSeq = if t.topaz.pwr.holdState = b.topaz.pwr.holdState ∧ t.topaz.pwr.chargeState = b.topaz.pwr.chargeState ∧
              t.topaz.pwr.pattern = b.topaz.pwr.pattern then b.opal.evSeq else (b.opal.evSeq + 1) % 2 ^ 32) ∧
        onlyChanges [.quartz, .disc, .tod, .garnet, .jade, .spinel, .opal, .posts, .onyx, .agate, .thm, .otc, .evr, .beryl,
            .topaz, .dram, .ch, .trace, .regs, .out] b t)) ∧
  (∀ (q : List Instr) (b : Block) (mv vbus : Nat) (ma : Int),
      b.topaz.pwr.on = true →
      b.topaz.pwr.flush = false →
      identified b.topaz.pwr.pack = true →
      mv < 1000 →
      Completes (.controlStep mv ma vbus) ⟨q, b⟩ (fun t =>
        t.topaz.pwr.pack.faultShort = true ∧
        t.topaz.pwr.pack.phase = .off ∧
        t.topaz.pwr.pack.ready = false ∧
        t.topaz.pwr = noteHold (driveLamps (driveGates t.topaz.pwr)) ∧
        (b.inPower .opal = true →
          t.opal.evSeq = if t.topaz.pwr.holdState = b.topaz.pwr.holdState ∧ t.topaz.pwr.chargeState = b.topaz.pwr.chargeState ∧
              t.topaz.pwr.pattern = b.topaz.pwr.pattern then b.opal.evSeq else (b.opal.evSeq + 1) % 2 ^ 32) ∧
        onlyChanges [.quartz, .disc, .tod, .garnet, .jade, .spinel, .opal, .posts, .onyx, .agate, .thm, .otc, .evr, .beryl,
            .topaz, .dram, .ch, .trace, .regs, .out] b t)) ∧
  (∀ (q : List Instr) (b : Block) (mv vbus j : Nat) (ma : Int),
      b.topaz.pwr.on = true →
      b.topaz.pwr.flush = true →
      mv ≤ cvMv b.topaz.pwr.pack.kind + 300 →
      mv < max (bitsOf (b.reg 0x204) 31 16) (packFigures b.topaz.pwr.pack.kind).2.2.2.2 →
      b.topaz.shut = none →
      b.topaz.drop = none →
      topRail b.topaz = some j →
      Completes (.controlStep mv ma vbus) ⟨q, b⟩ (fun t =>
        t.topaz.drop = some (.flush (flushOk b)) ∧
        t.topaz.psq = .lowering j ∧
        t.topaz.pwrGood = false ∧
        t.topaz.pwrPin = false ∧
        t.topaz.released = false ∧
        (∀ m < 4, vget t.topaz.pwr.magpwr m false = false) ∧
        t.quartz = coldQuartz ∧
        t.dram = [] ∧
        t.beryl.otc.fuses = b.beryl.otc.fuses ∧
        onlyChanges [.quartz, .disc, .tod, .garnet, .jade, .spinel, .opal, .posts, .onyx, .agate, .thm, .otc, .evr, .beryl,
            .topaz, .dram, .ch, .trace, .regs, .out] b t)) ∧
  (∀ (q : List Instr) (b : Block),
      b.topaz.pwr.show_ ≠ none →
      Completes (.showEnd) ⟨q, b⟩ (fun t =>
        t.topaz.pwr.show_ = none ∧
        t.topaz.pwr.packSwitch = (b.topaz.pwr.packSwitch && !b.topaz.latch.isEmpty) ∧
        t.topaz.pwr = noteHold (driveLamps (driveGates t.topaz.pwr)) ∧
        (b.inPower .opal = true →
          t.opal.evSeq = if t.topaz.pwr.holdState = b.topaz.pwr.holdState ∧ t.topaz.pwr.chargeState = b.topaz.pwr.chargeState ∧
              t.topaz.pwr.pattern = b.topaz.pwr.pattern then b.opal.evSeq else (b.opal.evSeq + 1) % 2 ^ 32) ∧
        onlyChanges [.posts, .topaz, .out] b t)) ∧
  (∀ (q : List Instr) (b : Block),
      b.beryl.evr.mode ≠ 2 →
      b.topaz.pwr.on = true →
      b.topaz.pwr.ship = false →
      b.topaz.pwr.keyDown = false →
      Completes (.keyPress) ⟨q, b⟩ (fun t =>
        t.topaz = { b.topaz with pwr := { b.topaz.pwr with keyDown := true } } ∧
        onlyChanges [.evr, .topaz, .trace] b t)) ∧
  (∀ (q : List Instr) (b : Block),
      b.beryl.evr.mode ≠ 2 →
      b.topaz.pwr.keyDown = true →
      Completes (.keyRestartHold) ⟨q, b⟩ (fun t =>
        t.topaz.pwr.keyShown = some .restart ∧
        t.topaz.pwr.keyDown = true ∧
        t.topaz.pwr = noteHold (driveLamps (driveGates t.topaz.pwr)) ∧
        (b.inPower .opal = true →
          t.opal.evSeq = if t.topaz.pwr.holdState = b.topaz.pwr.holdState ∧ t.topaz.pwr.chargeState = b.topaz.pwr.chargeState ∧
              t.topaz.pwr.pattern = b.topaz.pwr.pattern then b.opal.evSeq else (b.opal.evSeq + 1) % 2 ^ 32) ∧
        onlyChanges [.posts, .topaz, .out] b t)) ∧
  (∀ (q : List Instr) (b : Block),
      b.beryl.evr.mode ≠ 2 →
      b.topaz.pwr.keyDown = true →
      Completes (.keyShipHold) ⟨q, b⟩ (fun t =>
        t.topaz.pwr.keyShown = some .ship ∧
        t.topaz.pwr.keyDown = true ∧
        t.topaz.pwr = noteHold (driveLamps (driveGates t.topaz.pwr)) ∧
        (b.inPower .opal = true →
          t.opal.evSeq = if t.topaz.pwr.holdState = b.topaz.pwr.holdState ∧ t.topaz.pwr.chargeState = b.topaz.pwr.chargeState ∧
              t.topaz.pwr.pattern = b.topaz.pwr.pattern then b.opal.evSeq else (b.opal.evSeq + 1) % 2 ^ 32) ∧
        onlyChanges [.posts, .topaz, .out] b t)) ∧
  (∀ (q : List Instr) (b : Block) (held : Nat),
      b.beryl.evr.mode ≠ 2 →
      b.topaz.pwr.keyDown = true →
      b.topaz.pwr.keyShown ≠ some .restart →
      Completes (.keyNRelease held) ⟨q, b⟩ (fun t =>
        t.topaz = { b.topaz with pwr := { b.topaz.pwr with keyDown := false } } ∧
        onlyChanges [.quartz, .disc, .tod, .garnet, .jade, .spinel, .opal, .posts, .onyx, .agate, .thm, .otc, .evr, .beryl,
            .topaz, .dram, .ch, .trace, .regs, .out] b t)) ∧
  (∀ (q : List Instr) (b : Block) (held j : Nat),
      b.beryl.evr.mode ≠ 2 →
      b.topaz.pwr.keyDown = true →
      b.topaz.pwr.keyShown = some .restart →
      b.topaz.pwr.flush = false →
      b.topaz.shut = none →
      b.topaz.drop = none →
      topRail b.topaz = some j →
      Completes (.keyNRelease held) ⟨q, b⟩ (fun t =>
        t.topaz.pwr.keyDown = false ∧
        t.topaz.pwr.keyShown = none ∧
        t.topaz.drop = some .keyRestart ∧
        t.topaz.psq = .lowering j ∧
        t.topaz.pwrGood = false ∧
        t.topaz.pwrPin = false ∧
        t.topaz.released = false ∧
        (∀ m < 4, vget t.topaz.pwr.magpwr m false = false) ∧
        t.quartz = coldQuartz ∧
        t.dram = [] ∧
        t.beryl.otc.fuses = b.beryl.otc.fuses ∧
        onlyChanges [.quartz, .disc, .tod, .garnet, .jade, .spinel, .opal, .posts, .onyx, .agate, .thm, .otc, .evr, .beryl,
            .topaz, .dram, .ch, .trace, .regs, .out] b t)) ∧
  (∀ (q : List Instr) (b : Block) (held : Nat),
      b.beryl.evr.mode ≠ 2 →
      b.topaz.pwr.keyDown = true →
      b.topaz.pwr.keyShown = some .restart →
      (b.topaz.pwr.flush = true ∨ b.topaz.drop ≠ none) →
      Completes (.keyNRelease held) ⟨q, b⟩ (fun t =>
        t.topaz.pwr.keyDown = false ∧
        t.topaz.pwr.keyShown = none ∧
        t.topaz.pwr.keyDeferred = some .restart ∧
        t.topaz.drop = b.topaz.drop ∧
        onlyChanges [.quartz, .disc, .tod, .garnet, .jade, .spinel, .opal, .posts, .onyx, .agate, .thm, .otc, .evr, .beryl,
            .topaz, .dram, .ch, .trace, .regs, .out] b t)) ∧
  (∀ (q : List Instr) (b : Block) (j : Nat),
      b.topaz.pwr.keyShown = some .ship →
      b.topaz.pwr.flush = false →
      b.topaz.shut = none →
      b.topaz.drop = none →
      topRail b.topaz = some j →
      Completes (.shipModeEnter) ⟨q, b⟩ (fun t =>
        t.topaz.pwr.keyShown = none ∧
        t.topaz.drop = some .ship ∧
        t.topaz.psq = .lowering j ∧
        t.topaz.pwrGood = false ∧
        t.topaz.pwrPin = false ∧
        t.topaz.released = false ∧
        (∀ m < 4, vget t.topaz.pwr.magpwr m false = false) ∧
        t.quartz = coldQuartz ∧
        t.dram = [] ∧
        t.beryl.otc.fuses = b.beryl.otc.fuses ∧
        onlyChanges [.quartz, .disc, .tod, .garnet, .jade, .spinel, .opal, .posts, .onyx, .agate, .thm, .otc, .evr, .beryl,
            .topaz, .dram, .ch, .trace, .regs, .out] b t)) ∧
  (∀ (q : List Instr) (b : Block),
      b.topaz.pwr.keyShown = some .ship →
      (b.topaz.pwr.flush = true ∨ b.topaz.drop ≠ none) →
      Completes (.shipModeEnter) ⟨q, b⟩ (fun t =>
        t.topaz = { b.topaz with pwr := { b.topaz.pwr with keyShown := none, keyDeferred := some .ship } } ∧
        onlyChanges [.quartz, .disc, .tod, .garnet, .jade, .spinel, .opal, .posts, .onyx, .agate, .thm, .otc, .evr, .beryl,
            .topaz, .dram, .ch, .trace, .regs, .out] b t)) ∧
  (∀ (q : List Instr) (b : Block) (w : Word),
      b.bar0 = true →
      mapWf regReset b.regs = true →
      (b.topaz.pwr.flush = true ∨ b.topaz.shutSent = true ∨ b.topaz.fatal = true) →
      Completes (.hupMagpwrWrite w) ⟨q, b⟩ (fun t =>
        t.topaz = b.topaz ∧
        (∀ m < 4, (t.reg 0x214).testBit m = (w.getLsbD m || ((b.field 0x214 3 0).testBit m && (setPorts b).contains m))) ∧
        onlyChanges [.onyx, .topaz, .regs] b t)) ∧
  (∀ (q : List Instr) (b : Block) (w : Word),
      b.bar0 = true →
      b.topaz.pwr.flush = false →
      b.topaz.shutSent = false →
      b.topaz.fatal = false →
      Completes (.hupMagpwrWrite w) ⟨q, b⟩ (fun t =>
        (∀ m < 4, vget t.topaz.pwr.magpwr m false =
          ((w.getLsbD m || ((b.field 0x214 3 0).testBit m && (setPorts b).contains m)) && b.beryl.otc.magPorts.testBit m)) ∧
        onlyChanges [.onyx, .topaz, .regs] b t)) ∧
  (∀ (q : List Instr) (b : Block) (l : List Nat) (r : List (List Nat)),
      b.ch.keepPowered = l :: r →
      Completes (.keepPoweredRecord) ⟨q, b⟩ (fun t =>
        t.ch.keepPowered = r ∧
        (∀ m < 4, vget t.topaz.pwr.magpwr m false = (l.contains m && vget b.topaz.pwr.magpwr m false)) ∧
        onlyChanges [.onyx, .topaz, .ch, .trace] b t)) ∧
  (∀ (q : List Instr) (b : Block) (ohms : Nat) (temp : Int),
      exec (.packRead ohms temp) ⟨q, b⟩ = .next ⟨q, packRead ohms temp b⟩ ∧
        onlyChanges [.posts, .topaz, .out] b (packRead ohms temp b)) ∧
  (∀ (q : List Instr) (b : Block),
      exec (.shortCheck) ⟨q, b⟩ = .next ⟨q, shortCheck b⟩ ∧
        onlyChanges [.posts, .topaz, .out] b (shortCheck b)) ∧
  (∀ (q : List Instr) (b : Block),
      exec (.prechargeTimeout) ⟨q, b⟩ = .next ⟨q, prechargeTimeout b⟩ ∧
        onlyChanges [.posts, .topaz, .out] b (prechargeTimeout b)) ∧
  (∀ (q : List Instr) (b : Block),
      exec (.chargeDone) ⟨q, b⟩ = .next ⟨q, chargeDone b⟩ ∧
        onlyChanges [.posts, .topaz, .out] b (chargeDone b)) ∧
  (∀ (q : List Instr) (b : Block),
      exec (.safetyTimerExpiry) ⟨q, b⟩ = .next ⟨q, safetyTimerExpiry b⟩ ∧
        onlyChanges [.posts, .topaz, .out] b (safetyTimerExpiry b)) ∧
  (∀ (q : List Instr) (b : Block) (w : Word),
      exec (.clrTimer w) ⟨q, b⟩ = .next ⟨q, clrTimer w.toNat b⟩ ∧
        onlyChanges [.posts, .topaz, .out] b (clrTimer w.toNat b)) ∧
  (∀ (q : List Instr) (b : Block) (mv : Nat) (ma : Int) (vbus : Nat := 65535),
      exec (.controlStep mv ma vbus) ⟨q, b⟩ = .next ⟨q, controlStep mv ma vbus b⟩ ∧
        onlyChanges [.quartz, .disc, .tod, .garnet, .jade, .spinel, .opal, .posts, .onyx, .agate, .thm, .otc, .evr, .beryl,
            .topaz, .dram, .ch, .trace, .regs, .out] b (controlStep mv ma vbus b)) ∧
  (∀ (q : List Instr) (b : Block),
      exec (.showEnd) ⟨q, b⟩ = .next ⟨q, showEnd b⟩ ∧
        onlyChanges [.posts, .topaz, .out] b (showEnd b)) ∧
  (∀ (q : List Instr) (b : Block),
      b.beryl.evr.mode ≠ 2 →
      exec (.keyPress) ⟨q, b⟩ = .next ⟨q, keyPress b⟩ ∧
        onlyChanges [.evr, .topaz, .trace] b (keyPress b)) ∧
  (∀ (q : List Instr) (b : Block),
      b.beryl.evr.mode ≠ 2 →
      exec (.keyRestartHold) ⟨q, b⟩ = .next ⟨q, keyRestartHold b⟩ ∧
        onlyChanges [.posts, .topaz, .out] b (keyRestartHold b)) ∧
  (∀ (q : List Instr) (b : Block),
      b.beryl.evr.mode ≠ 2 →
      exec (.keyShipHold) ⟨q, b⟩ = .next ⟨q, keyShipHold b⟩ ∧
        onlyChanges [.posts, .topaz, .out] b (keyShipHold b)) ∧
  (∀ (q : List Instr) (b : Block) (held : Nat),
      b.beryl.evr.mode ≠ 2 →
      exec (.keyNRelease held) ⟨q, b⟩ = .next ⟨q, keyNRelease held b⟩ ∧
        onlyChanges [.quartz, .disc, .tod, .garnet, .jade, .spinel, .opal, .posts, .onyx, .agate, .thm, .otc, .evr, .beryl,
            .topaz, .dram, .ch, .trace, .regs, .out] b (keyNRelease held b)) ∧
  (∀ (q : List Instr) (b : Block),
      exec (.shipModeEnter) ⟨q, b⟩ = .next ⟨q, shipModeEnter b⟩ ∧
        onlyChanges [.quartz, .disc, .tod, .garnet, .jade, .spinel, .opal, .posts, .onyx, .agate, .thm, .otc, .evr, .beryl,
            .topaz, .dram, .ch, .trace, .regs, .out] b (shipModeEnter b)) ∧
  (∀ (q : List Instr) (b : Block) (w : Word),
      exec (.hupMagpwrWrite w) ⟨q, b⟩ = .next ⟨q, hupMagpwrWrite w.toNat b⟩ ∧
        onlyChanges [.onyx, .topaz, .regs] b (hupMagpwrWrite w.toNat b)) ∧
  (∀ (q : List Instr) (b : Block),
      exec (.keepPoweredRecord) ⟨q, b⟩ = .next ⟨q, keepPoweredRecord b⟩ ∧
        onlyChanges [.onyx, .topaz, .ch, .trace] b (keepPoweredRecord b))

/-- The loss and the return of the main input, the power-loss flush, and the thermal shutdown with its log entry and
latch. Rules: 14_holdup_power_path.md, 15_thermal_management.md, 16_otp_fuses.md, 17_startup_bringup.md. -/
def Obligations.FlushAndShutdownSequences : Prop :=
  (∀ (q : List Instr) (b : Block) (mv : Nat),
      b.topaz.pwr.on = true →
      mv < mainUvMv b.topaz.pwr →
      b.topaz.psq ≠ .off →
      b.topaz.pwr.flush = false →
      b.topaz.drop = none →
      b.topaz.shutSent = false →
      b.topaz.fatal = false →
      Completes (.mainInputLoss mv) ⟨q, b⟩ (fun t =>
        t.topaz.pwr.mainOk = false ∧
        t.topaz.pwr.mainSeenLow = true ∧
        t.topaz.pwr.gdMain = false ∧
        t.topaz.pwr.pack.phase = .off ∧
        t.topaz.railFails = 0 ∧
        t.topaz.faultCode = 0 ∧
        t.topaz.psq = b.topaz.psq ∧
        t.topaz.pwr.flush = true ∧
        t.topaz.pwr.onyxReport = none ∧
        t.ch.onyxReport = [] ∧
        t.ch.opalReport = [] ∧
        t.ch.topazGarnet = b.ch.topazGarnet ++ [.loss (flushMs b.topaz.pwr)] ∧
        t.ch.topazOnyx = b.ch.topazOnyx ++ [.loss (flushMs b.topaz.pwr)] ∧
        t.ch.topazOpal = b.ch.topazOpal ++ [.loss (flushMs b.topaz.pwr)] ∧
        t.topaz.pwr = noteHold (driveLamps (driveGates t.topaz.pwr)) ∧
        (b.inPower .opal = true →
          t.opal.evSeq = if t.topaz.pwr.holdState = b.topaz.pwr.holdState ∧ t.topaz.pwr.chargeState = b.topaz.pwr.chargeState ∧
              t.topaz.pwr.pattern = b.topaz.pwr.pattern then b.opal.evSeq else (b.opal.evSeq + 1) % 2 ^ 32) ∧
        onlyChanges [.posts, .evr, .topaz, .ch, .trace, .out] b t)) ∧
  (∀ (q : List Instr) (b : Block) (mv : Nat),
      b.topaz.pwr.on = true →
      mv < mainUvMv b.topaz.pwr →
      b.topaz.psq ≠ .off →
      b.topaz.pwr.flush = false →
      b.topaz.drop = none →
      (b.topaz.shutSent = true ∨ b.topaz.fatal = true) →
      Completes (.mainInputLoss mv) ⟨q, b⟩ (fun t =>
        t.topaz.pwr.mainOk = false ∧
        t.topaz.pwr.mainSeenLow = true ∧
        t.topaz.pwr.gdMain = false ∧
        t.topaz.pwr.pack.phase = .off ∧
        t.topaz.railFails = 0 ∧
        t.topaz.faultCode = 0 ∧
        t.topaz.psq = b.topaz.psq ∧
        t.topaz.pwr.flush = true ∧
        t.topaz.pwr.onyxReport = b.topaz.pwr.onyxReport ∧
        t.ch.onyxReport = b.ch.onyxReport ∧
        t.ch.opalReport = b.ch.opalReport ∧
        t.ch.topazGarnet = b.ch.topazGarnet ++ [.loss (flushMs b.topaz.pwr)] ∧
        t.ch.topazOnyx = b.ch.topazOnyx ++ [.loss (flushMs b.topaz.pwr)] ∧
        t.ch.topazOpal = b.ch.topazOpal ++ [.loss (flushMs b.topaz.pwr)] ∧
        t.topaz.pwr = noteHold (driveLamps (driveGates t.topaz.pwr)) ∧
        (b.inPower .opal = true →
          t.opal.evSeq = if t.topaz.pwr.holdState = b.topaz.pwr.holdState ∧ t.topaz.pwr.chargeState = b.topaz.pwr.chargeState ∧
              t.topaz.pwr.pattern = b.topaz.pwr.pattern then b.opal.evSeq else (b.opal.evSeq + 1) % 2 ^ 32) ∧
        onlyChanges [.posts, .evr, .topaz, .ch, .trace, .out] b t)) ∧
  (∀ (q : List Instr) (b : Block) (mv : Nat),
      b.topaz.pwr.on = true →
      mv < mainUvMv b.topaz.pwr →
      (b.topaz.psq = .off ∨ b.topaz.pwr.flush = true ∨ b.topaz.drop ≠ none) →
      Completes (.mainInputLoss mv) ⟨q, b⟩ (fun t =>
        t.topaz.pwr.mainOk = false ∧
        t.topaz.pwr.mainSeenLow = true ∧
        t.topaz.pwr.gdMain = false ∧
        t.topaz.pwr.pack.phase = .off ∧
        t.topaz.railFails = 0 ∧
        t.topaz.faultCode = 0 ∧
        t.topaz.psq = b.topaz.psq ∧
        t.topaz.pwr.flush = b.topaz.pwr.flush ∧
        t.topaz.pwr.onyxReport = b.topaz.pwr.onyxReport ∧
        t.ch.topazGarnet = b.ch.topazGarnet ∧
        t.ch.topazOnyx = b.ch.topazOnyx ∧
        t.ch.topazOpal = b.ch.topazOpal ∧
        t.topaz.pwr = noteHold (driveLamps (driveGates t.topaz.pwr)) ∧
        (b.inPower .opal = true →
          t.opal.evSeq = if t.topaz.pwr.holdState = b.topaz.pwr.holdState ∧ t.topaz.pwr.chargeState = b.topaz.pwr.chargeState ∧
              t.topaz.pwr.pattern = b.topaz.pwr.pattern then b.opal.evSeq else (b.opal.evSeq + 1) % 2 ^ 32) ∧
        onlyChanges [.posts, .evr, .topaz, .ch, .trace, .out] b t)) ∧
  (∀ (q : List Instr) (b : Block) (mv : Nat),
      (b.topaz.pwr.on = false ∨ mainUvMv b.topaz.pwr ≤ mv) →
      exec (.mainInputLoss mv) ⟨q, b⟩ = .next ⟨q, b⟩) ∧
  (∀ (q : List Instr) (b : Block) (mv : Nat),
      b.topaz.pwr.on = true →
      b.topaz.pwr.mainOk = false →
      mainOkMv b.topaz.pwr ≤ mv →
      b.topaz.psq = .off →
      b.topaz.pwr.upWait = none →
      b.topaz.pwr.mainSeenLow = true →
      Completes (.mainInputReturn mv) ⟨q, b⟩ (fun t =>
        t.topaz.pwr.mainOk = true ∧
        t.topaz.psq = .raising 0 ∧
        t.topaz.enables = vset b.topaz.enables 0 true ∧
        t.topaz.pwr.gdMain = true ∧
        t.topaz.railFails = 0 ∧
        t.topaz.faultCode = 0 ∧
        t.regs = [] ∧
        onlyChanges [.quartz, .disc, .tod, .garnet, .jade, .spinel, .opal, .posts, .onyx, .agate, .thm, .otc, .evr, .beryl,
            .topaz, .dram, .ch, .trace, .regs, .out] b t)) ∧
  (∀ (q : List Instr) (b : Block) (mv : Nat),
      b.topaz.pwr.on = true →
      b.topaz.pwr.mainOk = false →
      mainOkMv b.topaz.pwr ≤ mv →
      (b.topaz.psq ≠ .off ∨ b.topaz.pwr.upWait ≠ none ∨ b.topaz.pwr.mainSeenLow = false) →
      Completes (.mainInputReturn mv) ⟨q, b⟩ (fun t =>
        t.topaz.pwr.mainOk = true ∧
        t.topaz.pwr.gdMain = (b.topaz.pwr.gdMain || !b.topaz.pwr.flush) ∧
        t.topaz.railFails = 0 ∧
        t.topaz.psq = b.topaz.psq ∧
        t.topaz.pwr.flush = b.topaz.pwr.flush ∧
        t.topaz.pwr = noteHold (driveLamps (driveGates t.topaz.pwr)) ∧
        (b.inPower .opal = true →
          t.opal.evSeq = if t.topaz.pwr.holdState = b.topaz.pwr.holdState ∧ t.topaz.pwr.chargeState = b.topaz.pwr.chargeState ∧
              t.topaz.pwr.pattern = b.topaz.pwr.pattern then b.opal.evSeq else (b.opal.evSeq + 1) % 2 ^ 32) ∧
        onlyChanges [.quartz, .disc, .tod, .garnet, .jade, .spinel, .opal, .posts, .onyx, .agate, .thm, .otc, .evr, .beryl,
            .topaz, .dram, .ch, .trace, .regs, .out] b t)) ∧
  (∀ (q : List Instr) (b : Block) (mv : Nat),
      (b.topaz.pwr.on = false ∨ b.topaz.pwr.mainOk = true ∨ mv < mainOkMv b.topaz.pwr) →
      exec (.mainInputReturn mv) ⟨q, b⟩ = .next ⟨q, b⟩) ∧
  (∀ (q : List Instr) (b : Block) (j : Nat),
      b.topaz.pwr.flush = true →
      b.ch.opalReport ≠ [] →
      b.topaz.drop = none →
      topRail b.topaz = some j →
      Completes (.flushReport) ⟨q, b⟩ (fun t =>
        t.topaz.drop = some (.flush (b.topaz.pwr.onyxReport == some true)) ∧
        t.topaz.psq = .lowering j ∧
        t.topaz.pwrGood = false ∧
        t.topaz.pwrPin = false ∧
        t.topaz.released = false ∧
        (∀ m < 4, vget t.topaz.pwr.magpwr m false = false) ∧
        t.quartz = coldQuartz ∧
        t.dram = [] ∧
        t.beryl.otc.fuses = b.beryl.otc.fuses ∧
        onlyChanges [.quartz, .disc, .tod, .garnet, .jade, .spinel, .opal, .posts, .onyx, .agate, .thm, .otc, .evr, .beryl,
            .topaz, .dram, .ch, .trace, .regs, .out] b t)) ∧
  (∀ (q : List Instr) (b : Block),
      (b.topaz.pwr.flush = false ∨ b.ch.opalReport = [] ∨ b.topaz.drop ≠ none) →
      exec (.flushReport) ⟨q, b⟩ = .next ⟨q, b⟩) ∧
  (∀ (q : List Instr) (b : Block) (j : Nat),
      b.topaz.pwr.flush = true →
      b.topaz.drop = none →
      topRail b.topaz = some j →
      Completes (.flushDeadline) ⟨q, b⟩ (fun t =>
        t.topaz.drop = some (.flush (b.topaz.pwr.onyxReport == some true)) ∧
        t.topaz.psq = .lowering j ∧
        t.topaz.pwrGood = false ∧
        t.topaz.pwrPin = false ∧
        t.topaz.released = false ∧
        (∀ m < 4, vget t.topaz.pwr.magpwr m false = false) ∧
        t.quartz = coldQuartz ∧
        t.dram = [] ∧
        t.beryl.otc.fuses = b.beryl.otc.fuses ∧
        onlyChanges [.quartz, .disc, .tod, .garnet, .jade, .spinel, .opal, .posts, .onyx, .agate, .thm, .otc, .evr, .beryl,
            .topaz, .dram, .ch, .trace, .regs, .out] b t)) ∧
  (∀ (q : List Instr) (b : Block),
      (b.topaz.pwr.flush = false ∨ b.topaz.drop ≠ none) →
      exec (.flushDeadline) ⟨q, b⟩ = .next ⟨q, b⟩) ∧
  (∀ (q : List Instr) (b : Block) (g : Nat) (r : Int) (l : List (Nat × Int)),
      b.ch.shutSignal = (g, r) :: l →
      b.topaz.shutSent = false →
      b.topaz.fatal = false →
      b.topaz.pwr.flush = false →
      Completes (.shutdownSignal 0) ⟨q, b⟩ (fun t =>
        t.ch.shutSignal = l ∧
        t.topaz = { b.topaz with shut := some ⟨g, r, b.garnet.take.isSome, none⟩, shutSent := true } ∧
        t.ch.topazGarnet = b.ch.topazGarnet ++ [.shutdown] ∧
        t.ch.topazOnyx = b.ch.topazOnyx ++ [.shutdown] ∧
        t.ch.topazOpal = b.ch.topazOpal ++ [.shutdown] ∧
        onlyChanges [.posts, .evr, .topaz, .ch, .trace, .out] b t)) ∧
  (∀ (q : List Instr) (b : Block) (g : Nat) (r : Int) (l : List (Nat × Int)),
      b.ch.shutSignal = (g, r) :: l →
      b.topaz.shutSent = false →
      b.topaz.fatal = false →
      b.topaz.pwr.flush = true →
      Completes (.shutdownSignal 0) ⟨q, b⟩ (fun t =>
        t.ch.shutSignal = l ∧
        t.topaz = { b.topaz with shut := some ⟨g, r, b.garnet.take.isSome, none⟩, shutSent := true } ∧
        t.ch.topazGarnet = b.ch.topazGarnet ∧
        t.ch.topazOnyx = b.ch.topazOnyx ∧
        t.ch.topazOpal = b.ch.topazOpal ∧
        onlyChanges [.posts, .evr, .topaz, .ch, .trace, .out] b t)) ∧
  (∀ (q : List Instr) (b : Block) (s : Nat × Int) (l : List (Nat × Int)),
      b.ch.shutSignal = s :: l →
      (b.topaz.shutSent = true ∨ b.topaz.fatal = true) →
      exec (.shutdownSignal 0) ⟨q, b⟩ = .next ⟨q, { b with ch := { b.ch with shutSignal := l } }⟩) ∧
  (∀ (q : List Instr) (b : Block) (lost : Nat),
      b.ch.shutSignal.length ≤ lost →
      exec (.shutdownSignal lost) ⟨q, b⟩ = .next ⟨q, b⟩) ∧
  (∀ (q : List Instr) (b : Block) (lost : Nat),
      lost < b.ch.shutSignal.length →
      gapSeen lost = true →
      Completes (.shutdownSignal lost) ⟨q, b⟩ (fun t =>
        t.ch.shutSignal = b.ch.shutSignal.drop (lost + 1) ∧
        t.topaz.gaps = min 65535 (b.topaz.gaps + 1) ∧
        (b.topaz.fatal = false → t.topaz.shutSent = true) ∧
        onlyChanges [.posts, .evr, .topaz, .ch, .trace, .out] b t)) ∧
  (∀ (q : List Instr) (b : Block) (s : ShutRun),
      b.topaz.pwr.flush = false →
      b.topaz.drop = none →
      b.topaz.shutSent = true →
      b.topaz.shut = some s →
      s.entry = none →
      s.group < 4 →
      0 ≤ s.peak →
      s.peak < 2560 →
      Completes (.shutdownDeadline) ⟨q, b⟩ (fun t =>
        (∃ e : Half, t.topaz.shut = some { s with entry := some e } ∧ t.ch.telBurn = b.ch.telBurn ++ [⟨e, false, false⟩] ∧
          (e.toNat : Int) = s.group + 8 * bit s.inTake + 16 * (s.peak / 10) + 4096 * bit (b.topaz.pwr.onyxReport != some true) + 32768) ∧
        t.topaz.drop = none ∧
        onlyChanges [.quartz, .disc, .tod, .garnet, .jade, .spinel, .opal, .posts, .onyx, .agate, .thm, .otc, .evr, .beryl,
            .topaz, .dram, .ch, .trace, .regs, .out] b t)) ∧
  (∀ (q : List Instr) (b : Block) (j : Nat),
      b.topaz.pwr.flush = false →
      b.topaz.fatal = true →
      b.topaz.shut = none →
      b.topaz.drop = none →
      topRail b.topaz = some j →
      Completes (.shutdownDeadline) ⟨q, b⟩ (fun t =>
        t.topaz.drop = some .shutdown ∧
        t.topaz.psq = .lowering j ∧
        t.topaz.pwrGood = false ∧
        t.topaz.pwrPin = false ∧
        t.topaz.released = false ∧
        (∀ m < 4, vget t.topaz.pwr.magpwr m false = false) ∧
        t.quartz = coldQuartz ∧
        t.dram = [] ∧
        t.beryl.otc.fuses = b.beryl.otc.fuses ∧
        onlyChanges [.quartz, .disc, .tod, .garnet, .jade, .spinel, .opal, .posts, .onyx, .agate, .thm, .otc, .evr, .beryl,
            .topaz, .dram, .ch, .trace, .regs, .out] b t)) ∧
  (∀ (q : List Instr) (b : Block),
      (b.topaz.pwr.flush = true ∨ b.topaz.drop ≠ none ∨ (b.topaz.shutSent = false ∧ b.topaz.fatal = false) ∨
        (∃ s, b.topaz.shut = some s ∧ s.entry ≠ none)) →
      exec (.shutdownDeadline) ⟨q, b⟩ = .next ⟨q, b⟩) ∧
  (∀ (q : List Instr) (b : Block) (m : TelMsg) (l : List TelMsg) (j : Nat),
      b.ch.telResult = m :: l →
      m.latched = false →
      m.ok = true →
      b.topaz.pwr.flush = false →
      b.topaz.drop = none →
      topRail b.topaz = some j →
      Completes (.telBurnResult 0) ⟨q, b⟩ (fun t =>
        t.topaz.latch = b.topaz.latch ∧
        t.topaz.shut = none ∧
        t.topaz.drop = some .shutdown ∧
        t.topaz.psq = .lowering j ∧
        t.topaz.pwrGood = false ∧
        t.topaz.pwrPin = false ∧
        t.topaz.released = false ∧
        (∀ m < 4, vget t.topaz.pwr.magpwr m false = false) ∧
        t.quartz = coldQuartz ∧
        t.dram = [] ∧
        t.beryl.otc.fuses = b.beryl.otc.fuses ∧
        onlyChanges [.quartz, .disc, .tod, .garnet, .jade, .spinel, .opal, .posts, .onyx, .agate, .thm, .otc, .evr, .beryl,
            .topaz, .dram, .ch, .trace, .regs, .out] b t)) ∧
  (∀ (q : List Instr) (b : Block) (m : TelMsg) (l : List TelMsg) (j : Nat),
      b.ch.telResult = m :: l →
      m.latched = false →
      m.ok = true →
      b.topaz.pwr.flush = true →
      b.topaz.drop = none →
      topRail b.topaz = some j →
      Completes (.telBurnResult 0) ⟨q, b⟩ (fun t =>
        t.topaz.latch = b.topaz.latch ∧
        t.topaz.shut = none ∧
        t.topaz.drop = some (.flush (b.topaz.pwr.onyxReport == some true)) ∧
        t.topaz.psq = .lowering j ∧
        t.topaz.pwrGood = false ∧
        t.topaz.pwrPin = false ∧
        t.topaz.released = false ∧
        (∀ m < 4, vget t.topaz.pwr.magpwr m false = false) ∧
        t.quartz = coldQuartz ∧
        t.dram = [] ∧
        t.beryl.otc.fuses = b.beryl.otc.fuses ∧
        onlyChanges [.quartz, .disc, .tod, .garnet, .jade, .spinel, .opal, .posts, .onyx, .agate, .thm, .otc, .evr, .beryl,
            .topaz, .dram, .ch, .trace, .regs, .out] b t)) ∧
  (∀ (q : List Instr) (b : Block) (m : TelMsg) (l : List TelMsg) (j : Nat),
      b.ch.telResult = m :: l →
      m.latched = false →
      m.ok = false →
      b.topaz.latch.length < 4 →
      b.topaz.pwr.flush = false →
      b.topaz.drop = none →
      topRail b.topaz = some j →
      Completes (.telBurnResult 0) ⟨q, b⟩ (fun t =>
        t.topaz.latch = b.topaz.latch ++ [m.entry ||| 4] ∧
        t.topaz.shut = none ∧
        t.topaz.drop = some .shutdown ∧
        t.topaz.psq = .lowering j ∧
        t.topaz.pwrGood = false ∧
        t.topaz.pwrPin = false ∧
        t.topaz.released = false ∧
        (∀ m < 4, vget t.topaz.pwr.magpwr m false = false) ∧
        t.quartz = coldQuartz ∧
        t.dram = [] ∧
        t.beryl.otc.fuses = b.beryl.otc.fuses ∧
        onlyChanges [.quartz, .disc, .tod, .garnet, .jade, .spinel, .opal, .posts, .onyx, .agate, .thm, .otc, .evr, .beryl,
            .topaz, .dram, .ch, .trace, .regs, .out] b t)) ∧
  (∀ (q : List Instr) (b : Block) (m : TelMsg) (l : List TelMsg) (j : Nat),
      b.ch.telResult = m :: l →
      m.latched = false →
      m.ok = false →
      4 ≤ b.topaz.latch.length →
      b.topaz.pwr.flush = false →
      b.topaz.drop = none →
      topRail b.topaz = some j →
      Completes (.telBurnResult 0) ⟨q, b⟩ (fun t =>
        t.topaz.latch = b.topaz.latch ∧
        t.topaz.latchLost = min 255 (b.topaz.latchLost + 1) ∧
        t.topaz.drop = some .shutdown ∧
        t.topaz.psq = .lowering j ∧
        t.topaz.pwrGood = false ∧
        t.topaz.pwrPin = false ∧
        t.topaz.released = false ∧
        (∀ m < 4, vget t.topaz.pwr.magpwr m false = false) ∧
        t.quartz = coldQuartz ∧
        t.dram = [] ∧
        t.beryl.otc.fuses = b.beryl.otc.fuses ∧
        onlyChanges [.quartz, .disc, .tod, .garnet, .jade, .spinel, .opal, .posts, .onyx, .agate, .thm, .otc, .evr, .beryl,
            .topaz, .dram, .ch, .trace, .regs, .out] b t)) ∧
  (∀ (q : List Instr) (b : Block) (m : TelMsg) (l : List TelMsg),
      b.ch.telResult = m :: l →
      m.latched = true →
      m.ok = true →
      Completes (.telBurnResult 0) ⟨q, b⟩ (fun t =>
        t.ch.telResult = l ∧
        t.topaz.latch = b.topaz.latch.erase m.entry ∧
        t.topaz.telBurned = b.topaz.telBurned + 1 ∧
        t.topaz.drop = b.topaz.drop ∧
        onlyChanges [.quartz, .disc, .tod, .garnet, .jade, .spinel, .opal, .posts, .onyx, .agate, .thm, .otc, .evr, .beryl,
            .topaz, .dram, .ch, .trace, .regs, .out] b t)) ∧
  (∀ (q : List Instr) (b : Block) (m : TelMsg) (l : List TelMsg),
      b.ch.telResult = m :: l →
      m.latched = true →
      m.ok = false →
      Completes (.telBurnResult 0) ⟨q, b⟩ (fun t =>
        t.ch.telResult = l ∧
        t.topaz.latch = b.topaz.latch ∧
        t.topaz.telBurned = b.topaz.telBurned ∧
        t.topaz.drop = b.topaz.drop ∧
        onlyChanges [.quartz, .disc, .tod, .garnet, .jade, .spinel, .opal, .posts, .onyx, .agate, .thm, .otc, .evr, .beryl,
            .topaz, .dram, .ch, .trace, .regs, .out] b t)) ∧
  (∀ (q : List Instr) (b : Block) (lost : Nat),
      b.ch.telResult.length ≤ lost →
      exec (.telBurnResult lost) ⟨q, b⟩ = .next ⟨q, b⟩) ∧
  (∀ (q : List Instr) (b : Block) (lost : Nat) (m : TelMsg) (l : List TelMsg),
      b.ch.telResult.drop lost = m :: l →
      m.latched = true →
      m.ok = true →
      gapSeen lost = true →
      Completes (.telBurnResult lost) ⟨q, b⟩ (fun t =>
        t.ch.telResult = l ∧
        t.topaz.gaps = min 65535 (b.topaz.gaps + 1) ∧
        t.topaz.latch = b.topaz.latch.erase m.entry ∧
        t.topaz.telBurned = b.topaz.telBurned + 1 ∧
        onlyChanges [.quartz, .disc, .tod, .garnet, .jade, .spinel, .opal, .posts, .onyx, .agate, .thm, .otc, .evr, .beryl,
            .topaz, .dram, .ch, .trace, .regs, .out] b t)) ∧
  (∀ (q : List Instr) (b : Block) (s : ShutRun) (e : Half) (j : Nat),
      b.topaz.shut = some s →
      s.entry = some e →
      b.topaz.latch.length < 4 →
      b.topaz.pwr.flush = false →
      b.topaz.drop = none →
      topRail b.topaz = some j →
      Completes (.railDropTimeout) ⟨q, b⟩ (fun t =>
        t.topaz.latch = b.topaz.latch ++ [e ||| 4] ∧
        t.topaz.shut = none ∧
        t.topaz.drop = some .shutdown ∧
        t.topaz.psq = .lowering j ∧
        t.topaz.pwrGood = false ∧
        t.topaz.pwrPin = false ∧
        t.topaz.released = false ∧
        (∀ m < 4, vget t.topaz.pwr.magpwr m false = false) ∧
        t.quartz = coldQuartz ∧
        t.dram = [] ∧
        t.beryl.otc.fuses = b.beryl.otc.fuses ∧
        onlyChanges [.quartz, .disc, .tod, .garnet, .jade, .spinel, .opal, .posts, .onyx, .agate, .thm, .otc, .evr, .beryl,
            .topaz, .dram, .ch, .trace, .regs, .out] b t)) ∧
  (∀ (q : List Instr) (b : Block) (s : ShutRun) (e : Half) (j : Nat),
      b.topaz.shut = some s →
      s.entry = some e →
      b.topaz.latch.length < 4 →
      b.topaz.pwr.flush = true →
      b.topaz.drop = none →
      topRail b.topaz = some j →
      Completes (.railDropTimeout) ⟨q, b⟩ (fun t =>
        t.topaz.latch = b.topaz.latch ++ [e ||| 4] ∧
        t.topaz.shut = none ∧
        t.topaz.drop = some (.flush (b.topaz.pwr.onyxReport == some true)) ∧
        t.topaz.psq = .lowering j ∧
        t.topaz.pwrGood = false ∧
        t.topaz.pwrPin = false ∧
        t.topaz.released = false ∧
        (∀ m < 4, vget t.topaz.pwr.magpwr m false = false) ∧
        t.quartz = coldQuartz ∧
        t.dram = [] ∧
        t.beryl.otc.fuses = b.beryl.otc.fuses ∧
        onlyChanges [.quartz, .disc, .tod, .garnet, .jade, .spinel, .opal, .posts, .onyx, .agate, .thm, .otc, .evr, .beryl,
            .topaz, .dram, .ch, .trace, .regs, .out] b t)) ∧
  (∀ (q : List Instr) (b : Block),
      (∀ s, b.topaz.shut = some s → s.entry = none) →
      exec (.railDropTimeout) ⟨q, b⟩ = .next ⟨q, b⟩) ∧
  (∀ (q : List Instr) (b : Block) (mv : Nat := 0),
      exec (.mainInputLoss mv) ⟨q, b⟩ = .next ⟨q, mainInputLoss mv b⟩ ∧
        onlyChanges [.posts, .evr, .topaz, .ch, .trace, .out] b (mainInputLoss mv b)) ∧
  (∀ (q : List Instr) (b : Block) (mv : Nat := 65535),
      exec (.mainInputReturn mv) ⟨q, b⟩ = .next ⟨q, mainInputReturn mv b⟩ ∧
        onlyChanges [.quartz, .disc, .tod, .garnet, .jade, .spinel, .opal, .posts, .onyx, .agate, .thm, .otc, .evr, .beryl,
            .topaz, .dram, .ch, .trace, .regs, .out] b (mainInputReturn mv b)) ∧
  (∀ (q : List Instr) (b : Block),
      exec (.flushReport) ⟨q, b⟩ = .next ⟨q, flushReport b⟩ ∧
        onlyChanges [.quartz, .disc, .tod, .garnet, .jade, .spinel, .opal, .posts, .onyx, .agate, .thm, .otc, .evr, .beryl,
            .topaz, .dram, .ch, .trace, .regs, .out] b (flushReport b)) ∧
  (∀ (q : List Instr) (b : Block),
      exec (.flushDeadline) ⟨q, b⟩ = .next ⟨q, flushDeadline b⟩ ∧
        onlyChanges [.quartz, .disc, .tod, .garnet, .jade, .spinel, .opal, .posts, .onyx, .agate, .thm, .otc, .evr, .beryl,
            .topaz, .dram, .ch, .trace, .regs, .out] b (flushDeadline b)) ∧
  (∀ (q : List Instr) (b : Block) (lost : Nat := 0),
      exec (.shutdownSignal lost) ⟨q, b⟩ = .next ⟨q, shutdownSignal lost b⟩ ∧
        onlyChanges [.posts, .evr, .topaz, .ch, .trace, .out] b (shutdownSignal lost b)) ∧
  (∀ (q : List Instr) (b : Block),
      exec (.shutdownDeadline) ⟨q, b⟩ = .next ⟨q, shutdownDeadline b⟩ ∧
        onlyChanges [.quartz, .disc, .tod, .garnet, .jade, .spinel, .opal, .posts, .onyx, .agate, .thm, .otc, .evr, .beryl,
            .topaz, .dram, .ch, .trace, .regs, .out] b (shutdownDeadline b)) ∧
  (∀ (q : List Instr) (b : Block) (lost : Nat := 0),
      exec (.telBurnResult lost) ⟨q, b⟩ = .next ⟨q, telBurnResult lost b⟩ ∧
        onlyChanges [.quartz, .disc, .tod, .garnet, .jade, .spinel, .opal, .posts, .onyx, .agate, .thm, .otc, .evr, .beryl,
            .topaz, .dram, .ch, .trace, .regs, .out] b (telBurnResult lost b)) ∧
  (∀ (q : List Instr) (b : Block),
      exec (.railDropTimeout) ⟨q, b⟩ = .next ⟨q, railDropTimeout b⟩ ∧
        onlyChanges [.quartz, .disc, .tod, .garnet, .jade, .spinel, .opal, .posts, .onyx, .agate, .thm, .otc, .evr, .beryl,
            .topaz, .dram, .ch, .trace, .regs, .out] b (railDropTimeout b))

/-- Every one of the 193 commands completes in every state in which its Island takes it, whatever its operands. Rules: 01_architecture.md, 12_faults_recovery_replay.md, 17_startup_bringup.md, 95_what_each_step_holds.md. -/
def Obligations.EveryCommandCompletesWhereItIsTaken : Prop :=
  (∀ (q : List Instr) (b : Block),
      b.alive .quartz = true →
      exec (.cad0Event) ⟨q, b⟩ = .next ⟨q, cad0Event b⟩) ∧
  (∀ (q : List Instr) (b : Block),
      b.alive .quartz = true →
      exec (.cad1Event) ⟨q, b⟩ = .next ⟨q, cad1Event b⟩) ∧
  (∀ (q : List Instr) (b : Block) (ch : Nat),
      b.alive .quartz = true →
      exec (.cadenceChannelEvent ch) ⟨q, b⟩ = .next ⟨q, cadenceChannelEvent ch b⟩) ∧
  (∀ (q : List Instr) (b : Block) (k : Nat),
      b.alive .quartz = true →
      exec (.strobeOn k) ⟨q, b⟩ = .next ⟨q, strobeOn k b⟩) ∧
  (∀ (q : List Instr) (b : Block) (k : Nat),
      b.alive .quartz = true →
      exec (.strobeOff k) ⟨q, b⟩ = .next ⟨q, strobeOff k b⟩) ∧
  (∀ (q : List Instr) (b : Block) (n : Nat) (w : Word),
      exec (.strbCfgWrite n w) ⟨q, b⟩ = .next ⟨q, strbCfgWrite n w b⟩) ∧
  (∀ (q : List Instr) (b : Block),
      exec (.tbLoRead) ⟨q, b⟩ = .next ⟨q, tbLoRead b⟩) ∧
  (∀ (q : List Instr) (b : Block),
      exec (.cadLastLoRead) ⟨q, b⟩ = .next ⟨q, cadLastLoRead b⟩) ∧
  (∀ (q : List Instr) (b : Block),
      exec (.capApply) ⟨q, b⟩ = .next ⟨q, capApply b⟩) ∧
  (∀ (q : List Instr) (b : Block) (stamp : Nat) (level : Bool := true) (held : Nat := 65536),
      b.beryl.evr.mode ≠ 2 →
      b.alive .quartz = true →
      exec (.refInEdge stamp level held) ⟨q, b⟩ = .next ⟨q, refInEdge stamp level held b⟩) ∧
  (∀ (q : List Instr) (b : Block),
      b.alive .quartz = true →
      exec (.compareEvent) ⟨q, b⟩ = .next ⟨q, compareEvent b⟩) ∧
  (∀ (q : List Instr) (b : Block),
      b.alive .quartz = true →
      exec (.refLoss) ⟨q, b⟩ = .next ⟨q, refLoss b⟩) ∧
  (∀ (q : List Instr) (b : Block),
      b.alive .quartz = true →
      exec (.qualificationEnd) ⟨q, b⟩ = .next ⟨q, qualificationEnd b⟩) ∧
  (∀ (q : List Instr) (b : Block),
      b.alive .quartz = true →
      exec (.acquireTimeout) ⟨q, b⟩ = .next ⟨q, acquireTimeout b⟩) ∧
  (∀ (q : List Instr) (b : Block),
      b.alive .quartz = true →
      exec (.alignmentStage) ⟨q, b⟩ = .next ⟨q, alignmentStage b⟩) ∧
  (∀ (q : List Instr) (b : Block),
      b.alive .quartz = true →
      exec (.alignmentCheckEnd) ⟨q, b⟩ = .next ⟨q, alignmentCheckEnd b⟩) ∧
  (∀ (q : List Instr) (b : Block) (stamp : Nat) (level : Bool := true) (held : Nat := 65536),
      b.beryl.evr.mode ≠ 2 →
      b.alive .quartz = true →
      exec (.ppsInEdge stamp level held) ⟨q, b⟩ = .next ⟨q, ppsInEdge stamp level held b⟩) ∧
  (∀ (q : List Instr) (b : Block) (desc : Nat),
      b.alive .quartz = true →
      b.beryl.evr.mode ≠ 2 →
      exec (.timeOfDay desc) ⟨q, b⟩ = .next ⟨q, timeOfDay desc b⟩) ∧
  (∀ (q : List Instr) (b : Block) (desc : Nat),
      b.alive .quartz = true →
      exec (.relock desc) ⟨q, b⟩ = .next ⟨q, relock desc b⟩) ∧
  (∀ (q : List Instr) (b : Block) (desc : Nat),
      b.alive .quartz = true →
      exec (.cadence desc) ⟨q, b⟩ = .next ⟨q, cadence desc b⟩) ∧
  (∀ (q : List Instr) (b : Block) (scene : Scene) (lost : Nat),
      b.beryl.evr.mode ≠ 2 →
      b.alive .garnet = true →
      islandEmpty b .garnet = false →
      exec (.subFrameStart scene lost) ⟨q, b⟩ = .next ⟨q, subFrameStart scene lost b⟩) ∧
  (∀ (q : List Instr) (b : Block) (lost : Nat),
      b.beryl.evr.mode ≠ 2 →
      b.alive .garnet = true →
      islandEmpty b .garnet = false →
      exec (.triggerEvent lost) ⟨q, b⟩ = .next ⟨q, triggerEvent lost b⟩) ∧
  (∀ (q : List Instr) (b : Block) (desc : Nat),
      b.alive .garnet = true →
      exec (.frameProgram desc) ⟨q, b⟩ = .next ⟨q, frameProgram desc b⟩) ∧
  (∀ (q : List Instr) (b : Block) (desc : Nat),
      b.alive .garnet = true →
      exec (.takeStart desc) ⟨q, b⟩ = .next ⟨q, takeStart desc b⟩) ∧
  (∀ (q : List Instr) (b : Block) (desc : Nat),
      b.alive .garnet = true →
      exec (.takeStop desc) ⟨q, b⟩ = .next ⟨q, takeStop desc b⟩) ∧
  (∀ (q : List Instr) (b : Block) (desc : Nat),
      b.alive .garnet = true →
      exec (.trigger desc) ⟨q, b⟩ = .next ⟨q, trigger desc b⟩) ∧
  (∀ (q : List Instr) (b : Block),
      b.alive .garnet = true →
      islandEmpty b .garnet = false →
      exec (.thermalStep) ⟨q, b⟩ = .next ⟨q, thermalStep b⟩) ∧
  (∀ (q : List Instr) (b : Block),
      b.alive .garnet = true →
      exec (.stopRequest) ⟨q, b⟩ = .next ⟨q, stopRequest b⟩) ∧
  (∀ (q : List Instr) (b : Block),
      b.alive .garnet = true →
      exec (.drainStripeDone) ⟨q, b⟩ = .next ⟨q, drainStripeDone b⟩) ∧
  (∀ (q : List Instr) (b : Block),
      b.alive .garnet = true →
      exec (.stripeTokenAck) ⟨q, b⟩ = .next ⟨q, stripeTokenAck b⟩) ∧
  (∀ (q : List Instr) (b : Block),
      b.alive .garnet = true →
      exec (.powerLossStop) ⟨q, b⟩ = .next ⟨q, powerLossStop b⟩) ∧
  (∀ (q : List Instr) (b : Block),
      b.alive .garnet = true →
      exec (.garnetShutdown) ⟨q, b⟩ = .next ⟨q, garnetShutdown b⟩) ∧
  (∀ (q : List Instr) (b : Block),
      firmware b = true →
      exec (.frameBoundRecord) ⟨q, b⟩ = .next ⟨q, frameBoundRecord b⟩) ∧
  (∀ (q : List Instr) (b : Block),
      b.alive .jade = true →
      islandEmpty b .jade = false →
      exec (.frameHeaderToken) ⟨q, b⟩ = .next ⟨q, frameHeaderToken b⟩) ∧
  (∀ (q : List Instr) (b : Block) (bad1 : Bool) (bad2 : Bool) (ecc : Ecc),
      b.alive .jade = true →
      islandEmpty b .jade = false →
      exec (.stripeToken bad1 bad2 ecc) ⟨q, b⟩ = .next ⟨q, stripeToken_ bad1 bad2 ecc b⟩) ∧
  (∀ (q : List Instr) (b : Block) (ecc : Ecc) (kind : RefKind),
      b.alive .jade = true →
      exec (.stripeProcess ecc kind) ⟨q, b⟩ = .next ⟨q, stripeProcess ecc kind b⟩) ∧
  (∀ (q : List Instr) (b : Block) (bad1 : Bool) (bad2 : Bool) (ecc : Ecc),
      b.alive .jade = true →
      islandEmpty b .jade = false →
      exec (.profileToken bad1 bad2 ecc) ⟨q, b⟩ = .next ⟨q, profileToken bad1 bad2 ecc b⟩) ∧
  (∀ (q : List Instr) (b : Block),
      b.alive .jade = true →
      islandEmpty b .jade = false →
      exec (.destinationSet) ⟨q, b⟩ = .next ⟨q, destinationSet b⟩) ∧
  (∀ (q : List Instr) (b : Block),
      b.alive .jade = true →
      islandEmpty b .jade = false →
      exec (.retentionReservation) ⟨q, b⟩ = .next ⟨q, retentionReservation b⟩) ∧
  (∀ (q : List Instr) (b : Block),
      b.alive .jade = true →
      islandEmpty b .jade = false →
      exec (.stagingReservation) ⟨q, b⟩ = .next ⟨q, stagingReservation b⟩) ∧
  (∀ (q : List Instr) (b : Block) (desc : Nat),
      b.alive .jade = true →
      exec (.procSettings desc) ⟨q, b⟩ = .next ⟨q, procSettings desc b⟩) ∧
  (∀ (q : List Instr) (b : Block),
      b.alive .jade = true →
      exec (.procSettingsResume) ⟨q, b⟩ = .next ⟨q, procSettingsResume b⟩) ∧
  (∀ (q : List Instr) (b : Block) (desc : Nat) (buf : Option (List Byte)),
      b.alive .jade = true →
      exec (.refLoad desc buf) ⟨q, b⟩ = .next ⟨q, refLoad desc buf b⟩) ∧
  (∀ (q : List Instr) (b : Block) (desc : Nat),
      b.alive .jade = true →
      exec (.refUnload desc) ⟨q, b⟩ = .next ⟨q, refUnload desc b⟩) ∧
  (∀ (q : List Instr) (b : Block),
      b.alive .jade = true →
      exec (.refSlotFreed) ⟨q, b⟩ = .next ⟨q, refSlotFreed b⟩) ∧
  (∀ (q : List Instr) (b : Block),
      exec (.clrCounts) ⟨q, b⟩ = .next ⟨q, clrCounts b⟩) ∧
  (∀ (q : List Instr) (b : Block),
      b.alive .jade = true →
      exec (.clockDivisionRequest) ⟨q, b⟩ = .next ⟨q, clockDivisionRequest b⟩) ∧
  (∀ (q : List Instr) (b : Block),
      b.alive .jade = true →
      exec (.jadeClockDivide) ⟨q, b⟩ = .next ⟨q, jadeClockDivide b⟩) ∧
  (∀ (q : List Instr) (b : Block) (ecc : Ecc),
      b.alive .spinel = true →
      islandEmpty b .spinel = false →
      exec (.segmentStripeToken ecc) ⟨q, b⟩ = .next ⟨q, segmentStripeToken ecc b⟩) ∧
  (∀ (q : List Instr) (b : Block) (desc : Nat) (buf : Option (List Byte)),
      b.alive .spinel = true →
      exec (.keyLoad desc buf) ⟨q, b⟩ = .next ⟨q, keyLoad desc buf b⟩) ∧
  (∀ (q : List Instr) (b : Block),
      b.alive .spinel = true →
      exec (.keyRelease) ⟨q, b⟩ = .next ⟨q, keyRelease b⟩) ∧
  (∀ (q : List Instr) (b : Block) (w : Word),
      b.alive .spinel = true →
      exec (.zeroise w) ⟨q, b⟩ = .next ⟨q, zeroise w b⟩) ∧
  (∀ (q : List Instr) (b : Block),
      b.alive .spinel = true →
      islandEmpty b .spinel = false →
      exec (.shareEncryptionRequest) ⟨q, b⟩ = .next ⟨q, shareEncryptionRequest b⟩) ∧
  (∀ (q : List Instr) (b : Block),
      b.alive .opal = true →
      islandEmpty b .opal = false →
      exec (.hostStripeMoved) ⟨q, b⟩ = .next ⟨q, hostStripeMoved b⟩) ∧
  (∀ (q : List Instr) (b : Block) (page : Option (List Byte)),
      b.alive .opal = true →
      exec (.poll page) ⟨q, b⟩ = .next ⟨q, poll page b⟩) ∧
  (∀ (q : List Instr) (b : Block) (r : Nat) (data : Option (List (List Byte))),
      b.alive .opal = true →
      exec (.descriptorFetched r data) ⟨q, b⟩ = .next ⟨q, descriptorFetched r data b⟩) ∧
  (∀ (q : List Instr) (b : Block) (r : Nat) (desc : Nat),
      b.alive .opal = true →
      exec (.nop r desc) ⟨q, b⟩ = .next ⟨q, nop r desc b⟩) ∧
  (∀ (q : List Instr) (b : Block) (desc : Nat),
      b.alive .opal = true →
      exec (.contextOpen desc) ⟨q, b⟩ = .next ⟨q, contextOpen desc b⟩) ∧
  (∀ (q : List Instr) (b : Block) (desc : Nat),
      b.alive .opal = true →
      exec (.contextCloseDrain desc) ⟨q, b⟩ = .next ⟨q, contextCloseDrain desc b⟩) ∧
  (∀ (q : List Instr) (b : Block) (desc : Nat),
      b.alive .opal = true →
      exec (.contextCloseAbort desc) ⟨q, b⟩ = .next ⟨q, contextCloseAbort desc b⟩) ∧
  (∀ (q : List Instr) (b : Block) (c : Nat) (word : Nat) (posted : Option (List (List Byte))),
      b.alive .opal = true →
      exec (.contextCloseFinish c word posted) ⟨q, b⟩ = .next ⟨q, contextCloseFinish c word posted b⟩) ∧
  (∀ (q : List Instr) (b : Block) (desc : Nat),
      b.alive .onyx = true →
      exec (.magSet desc) ⟨q, b⟩ = .next ⟨q, magSet desc b⟩) ∧
  (∀ (q : List Instr) (b : Block) (desc : Nat),
      b.alive .onyx = true →
      exec (.magQuery desc) ⟨q, b⟩ = .next ⟨q, magQuery desc b⟩) ∧
  (∀ (q : List Instr) (b : Block) (desc : Nat) (buf : Option (List Byte)),
      b.alive .agate = true →
      exec (.seqTransferTx desc buf) ⟨q, b⟩ = .next ⟨q, seqTransferTx desc buf b⟩) ∧
  (∀ (q : List Instr) (b : Block) (desc : Nat),
      b.alive .agate = true →
      exec (.seqTransferRx desc) ⟨q, b⟩ = .next ⟨q, seqTransferRx desc b⟩) ∧
  (∀ (q : List Instr) (b : Block) (desc : Nat) (buf : Option (List Byte)) (cycles : Nat),
      b.alive .agate = true →
      exec (.seqTransferProgram desc buf cycles) ⟨q, b⟩ = .next ⟨q, seqTransferProgram desc buf cycles b⟩) ∧
  (∀ (q : List Instr) (b : Block) (desc : Nat),
      b.alive .agate = true →
      exec (.seqTransferTimeout desc) ⟨q, b⟩ = .next ⟨q, seqTransferTimeout desc b⟩) ∧
  (∀ (q : List Instr) (b : Block) (desc : Nat),
      b.alive .opal = true →
      exec (.outcomeQuery desc) ⟨q, b⟩ = .next ⟨q, outcomeQuery desc b⟩) ∧
  (∀ (q : List Instr) (b : Block) (c : Nat) (desc : Nat),
      b.alive .opal = true →
      exec (.bufferPost c desc) ⟨q, b⟩ = .next ⟨q, bufferPost c desc b⟩) ∧
  (∀ (q : List Instr) (b : Block),
      b.alive .opal = true →
      exec (.bufWaitExpiry) ⟨q, b⟩ = .next ⟨q, bufWaitExpiry b⟩) ∧
  (∀ (q : List Instr) (b : Block),
      b.beryl.evr.mode ≠ 2 →
      b.alive .opal = true →
      exec (.timeRecord) ⟨q, b⟩ = .next ⟨q, timeRecord b⟩) ∧
  (∀ (q : List Instr) (b : Block) (lost : Nat := 0),
      b.alive .opal = true →
      exec (.latchNoticeOpal lost) ⟨q, b⟩ = .next ⟨q, latchNoticeOpal lost b⟩) ∧
  (∀ (q : List Instr) (b : Block) (lost : Nat := 0),
      b.alive .spinel = true →
      islandEmpty b .spinel = false →
      exec (.latchNoticeSpinel lost) ⟨q, b⟩ = .next ⟨q, latchNoticeSpinel lost b⟩) ∧
  (∀ (q : List Instr) (b : Block) (lost : Nat := 0),
      b.alive .onyx = true →
      islandEmpty b .onyx = false →
      exec (.latchNoticeOnyx lost) ⟨q, b⟩ = .next ⟨q, latchNoticeOnyx lost b⟩) ∧
  (∀ (q : List Instr) (b : Block),
      b.alive .opal = true →
      exec (.garnetOutcome) ⟨q, b⟩ = .next ⟨q, garnetDecides b⟩) ∧
  (∀ (q : List Instr) (b : Block),
      b.alive .opal = true →
      exec (.destinationOutcome) ⟨q, b⟩ = .next ⟨q, destinationOutcome b⟩) ∧
  (∀ (q : List Instr) (b : Block),
      b.alive .opal = true →
      exec (.ledgerPublish) ⟨q, b⟩ = .next ⟨q, ledgerPublish b⟩) ∧
  (∀ (q : List Instr) (b : Block),
      b.alive .opal = true →
      exec (.berylEventRecord) ⟨q, b⟩ = .next ⟨q, berylEventRecord b⟩) ∧
  (∀ (q : List Instr) (b : Block) (v : Nat),
      b.alive .opal = true →
      exec (.msixHoldoffExpiry v) ⟨q, b⟩ = .next ⟨q, msixHoldoffExpiry v b⟩) ∧
  (∀ (q : List Instr) (b : Block) (w : MsixWrite),
      exec (.msixMaskWrite w) ⟨q, b⟩ = .next ⟨q, msixMaskWrite w b⟩) ∧
  (∀ (q : List Instr) (b : Block) (w : Word),
      b.alive .opal = true →
      exec (.ctrlRingStart w) ⟨q, b⟩ = .next ⟨q, ctrlRingStart w b⟩) ∧
  (∀ (q : List Instr) (b : Block) (w : Word),
      b.alive .opal = true →
      exec (.ledgerRingStart w) ⟨q, b⟩ = .next ⟨q, ledgerRingStart w b⟩) ∧
  (∀ (q : List Instr) (b : Block),
      b.inPower .opal = true →
      exec (.hostLinkDown) ⟨q, b⟩ = .next ⟨q, hostLinkDown b⟩) ∧
  (∀ (q : List Instr) (b : Block) (rate : Nat := 6) (width : Nat := 8),
      b.inPower .opal = true →
      exec (.hostLinkUp rate width) ⟨q, b⟩ = .next ⟨q, hostLinkUp rate width b⟩) ∧
  (∀ (q : List Instr) (b : Block),
      exec (.hostPerst) ⟨q, b⟩ = .next ⟨q, hostPerst b⟩) ∧
  (∀ (q : List Instr) (b : Block),
      exec (.fundamentalReset) ⟨q, b⟩ = .next ⟨q, fundamentalReset b⟩) ∧
  (∀ (q : List Instr) (b : Block),
      exec (.grnFrameLoRead) ⟨q, b⟩ = .next ⟨q, grnFrameLoRead b⟩) ∧
  (∀ (q : List Instr) (b : Block) (w : Word),
      exec (.islCommit w) ⟨q, b⟩ = .next ⟨q, islCommit w b⟩) ∧
  (∀ (q : List Instr) (b : Block) (w : Word),
      exec (.islUncommit w) ⟨q, b⟩ = .next ⟨q, islUncommit w b⟩) ∧
  (∀ (q : List Instr) (b : Block) (off : Nat) (w : Word) (be : BitVec 4),
      exec (.registerWrite off w be) ⟨q, b⟩ = .next ⟨q, registerWrite off w be b⟩) ∧
  (∀ (q : List Instr) (b : Block),
      exec (.onyxFlushReport) ⟨q, b⟩ = .next ⟨q, onyxFlushReport b⟩) ∧
  (∀ (q : List Instr) (b : Block),
      exec (.flushReadComplete) ⟨q, b⟩ = .next ⟨q, flushReadComplete b⟩) ∧
  (∀ (q : List Instr) (b : Block),
      exec (.opalFlushTimeout) ⟨q, b⟩ = .next ⟨q, opalFlushTimeout b⟩) ∧
  (∀ (q : List Instr) (b : Block) (m : Nat) (gen : Nat) (width : Nat) (vs : Nat) (cap : Nat),
      b.alive .onyx = true →
      exec (.magazineLinkUp m gen width vs cap) ⟨q, b⟩ = .next ⟨q, magazineLinkUp m gen width vs cap b⟩) ∧
  (∀ (q : List Instr) (b : Block) (m : Nat) (also : List Nat := []),
      b.alive .onyx = true →
      exec (.magazineLinkDown m also) ⟨q, b⟩ = .next ⟨q, magazineLinkDown m also b⟩) ∧
  (∀ (q : List Instr) (b : Block) (m : Nat) (cid : Nat) (status : Nat) (sqhd : Nat) (data : List Byte),
      b.alive .onyx = true →
      exec (.nvmeCompletion m cid status sqhd data) ⟨q, b⟩ = .next ⟨q, nvmeCompletion m cid status sqhd data b⟩) ∧
  (∀ (q : List Instr) (b : Block) (m : Nat) (cid : Nat),
      b.alive .onyx = true →
      exec (.cmdTimeout m cid) ⟨q, b⟩ = .next ⟨q, cmdTimeout m cid b⟩) ∧
  (∀ (q : List Instr) (b : Block),
      b.alive .onyx = true →
      exec (.smartPoll) ⟨q, b⟩ = .next ⟨q, smartPoll b⟩) ∧
  (∀ (q : List Instr) (b : Block) (m : Nat),
      b.alive .onyx = true →
      exec (.magazineDmaViolation m) ⟨q, b⟩ = .next ⟨q, magazineDmaViolation m b⟩) ∧
  (∀ (q : List Instr) (b : Block) (ecc : Ecc),
      b.alive .onyx = true →
      islandEmpty b .onyx = false →
      exec (.magazineStripeToken ecc) ⟨q, b⟩ = .next ⟨q, magazineStripeToken ecc b⟩) ∧
  (∀ (q : List Instr) (b : Block),
      b.alive .onyx = true →
      islandEmpty b .onyx = false →
      exec (.expiryRequest) ⟨q, b⟩ = .next ⟨q, expiryRequest b⟩) ∧
  (∀ (q : List Instr) (b : Block) (w : Word),
      exec (.reinit w) ⟨q, b⟩ = .next ⟨q, reinit w b⟩) ∧
  (∀ (q : List Instr) (b : Block) (w : Word),
      exec (.retrain w) ⟨q, b⟩ = .next ⟨q, retrain w b⟩) ∧
  (∀ (q : List Instr) (b : Block),
      b.alive .onyx = true →
      exec (.onyxPowerLoss) ⟨q, b⟩ = .next ⟨q, onyxPowerLoss b⟩) ∧
  (∀ (q : List Instr) (b : Block),
      b.alive .onyx = true →
      exec (.flushWriteDeadline) ⟨q, b⟩ = .next ⟨q, flushWriteDeadline b⟩) ∧
  (∀ (q : List Instr) (b : Block),
      b.alive .onyx = true →
      exec (.shutdownWaitTimeout) ⟨q, b⟩ = .next ⟨q, shutdownWaitTimeout b⟩) ∧
  (∀ (q : List Instr) (b : Block),
      b.alive .onyx = true →
      exec (.onyxShutdown) ⟨q, b⟩ = .next ⟨q, onyxShutdown b⟩) ∧
  (∀ (q : List Instr) (b : Block) (m : Nat),
      b.inPower .onyx = true →
      exec (.magazinePowerSettled m) ⟨q, b⟩ = .next ⟨q, magazinePowerSettled m b⟩) ∧
  (∀ (q : List Instr) (b : Block) (n : Nat) (joins : Bool),
      b.alive .agate = true →
      exec (.seqJmp n joins) ⟨q, b⟩ = .next ⟨q, seqJmp n joins b⟩) ∧
  (∀ (q : List Instr) (b : Block) (n : Nat) (joins : Bool),
      b.alive .agate = true →
      exec (.seqWait n joins) ⟨q, b⟩ = .next ⟨q, seqWait n joins b⟩) ∧
  (∀ (q : List Instr) (b : Block) (n : Nat) (joins : Bool),
      b.alive .agate = true →
      exec (.seqIn n joins) ⟨q, b⟩ = .next ⟨q, seqIn n joins b⟩) ∧
  (∀ (q : List Instr) (b : Block) (n : Nat) (joins : Bool),
      b.alive .agate = true →
      exec (.seqOut n joins) ⟨q, b⟩ = .next ⟨q, seqOut n joins b⟩) ∧
  (∀ (q : List Instr) (b : Block) (n : Nat) (joins : Bool),
      b.alive .agate = true →
      exec (.seqPush n joins) ⟨q, b⟩ = .next ⟨q, seqPush n joins b⟩) ∧
  (∀ (q : List Instr) (b : Block) (n : Nat) (joins : Bool),
      b.alive .agate = true →
      exec (.seqPull n joins) ⟨q, b⟩ = .next ⟨q, seqPull n joins b⟩) ∧
  (∀ (q : List Instr) (b : Block) (n : Nat) (joins : Bool),
      b.alive .agate = true →
      exec (.seqMov n joins) ⟨q, b⟩ = .next ⟨q, seqMov n joins b⟩) ∧
  (∀ (q : List Instr) (b : Block) (n : Nat) (joins : Bool),
      b.alive .agate = true →
      exec (.seqSet n joins) ⟨q, b⟩ = .next ⟨q, seqSet n joins b⟩) ∧
  (∀ (q : List Instr) (b : Block) (n : Nat) (joins : Bool),
      b.alive .agate = true →
      exec (.flagRaise n joins) ⟨q, b⟩ = .next ⟨q, flagRaise n joins b⟩) ∧
  (∀ (q : List Instr) (b : Block) (n : Nat) (joins : Bool),
      b.alive .agate = true →
      exec (.flagDrop n joins) ⟨q, b⟩ = .next ⟨q, flagDrop n joins b⟩) ∧
  (∀ (q : List Instr) (b : Block) (n : Nat) (joins : Bool),
      b.alive .agate = true →
      exec (.flagTake n joins) ⟨q, b⟩ = .next ⟨q, flagTake n joins b⟩) ∧
  (∀ (q : List Instr) (b : Block) (n : Nat) (joins : Bool),
      b.alive .agate = true →
      exec (.flagTrig n joins) ⟨q, b⟩ = .next ⟨q, flagTrig n joins b⟩) ∧
  (∀ (q : List Instr) (b : Block) (n : Nat) (joins : Bool),
      b.alive .agate = true →
      exec (.seqCad n joins) ⟨q, b⟩ = .next ⟨q, seqCad n joins b⟩) ∧
  (∀ (q : List Instr) (b : Block) (n : Nat) (joins : Bool),
      b.alive .agate = true →
      exec (.illegalOpcode n joins) ⟨q, b⟩ = .next ⟨q, illegalOpcode n joins b⟩) ∧
  (∀ (q : List Instr) (b : Block) (w : Word),
      exec (.engineEnable w) ⟨q, b⟩ = .next ⟨q, engineEnable w b⟩) ∧
  (∀ (q : List Instr) (b : Block) (w : Word),
      exec (.engineHalt w) ⟨q, b⟩ = .next ⟨q, engineHalt w b⟩) ∧
  (∀ (q : List Instr) (b : Block) (w : Word),
      exec (.gangChange w) ⟨q, b⟩ = .next ⟨q, gangChange w b⟩) ∧
  (∀ (q : List Instr) (b : Block) (p : Nat) (level : Bool),
      b.alive .agate = true →
      exec (.seqIoEdge p level) ⟨q, b⟩ = .next ⟨q, seqIoEdge p level b⟩) ∧
  (∀ (q : List Instr) (b : Block) (joins : Bool := false),
      b.beryl.evr.mode ≠ 2 →
      b.alive .agate = true →
      exec (.trigInEdge joins) ⟨q, b⟩ = .next ⟨q, trigInEdge joins b⟩) ∧
  (∀ (q : List Instr) (b : Block) (lost : Nat),
      b.alive .agate = true →
      islandEmpty b .agate = false →
      exec (.cadenceEventAgate lost) ⟨q, b⟩ = .next ⟨q, cadenceEventAgate lost b⟩) ∧
  (∀ (q : List Instr) (b : Block) (g : Nat) (data : List (Nat × Word)) (w : Word),
      firmware b = true →
      exec (.gangCtrlWrite g data w) ⟨q, b⟩ = .next ⟨q, gangCtrlWrite g data w b⟩) ∧
  (∀ (q : List Instr) (b : Block) (w : Word),
      exec (.gioTrigWrite w) ⟨q, b⟩ = .next ⟨q, gioTrigWrite w b⟩) ∧
  (∀ (q : List Instr) (b : Block) (lost : Nat := 0),
      exec (.watchdogReport lost) ⟨q, b⟩ = .next ⟨q, watchdogReport lost b⟩) ∧
  (∀ (q : List Instr) (b : Block),
      exec (.watchdogExpiry) ⟨q, b⟩ = .next ⟨q, watchdogExpiry b⟩) ∧
  (∀ (q : List Instr) (b : Block) (patchOk : Bool) (mv : Nat) (bad : List Island := []) (more : List Nat := []),
      exec (.berylRestartDone patchOk mv bad more) ⟨q, b⟩ = .next ⟨q, berylRestartDone patchOk mv bad more b⟩) ∧
  (∀ (q : List Instr) (b : Block) (i : Island) (c : FaultClass),
      exec (.islandFault i c) ⟨q, b⟩ = .next ⟨q, islandFault i c b⟩) ∧
  (∀ (q : List Instr) (b : Block) (i : Island) (ok : Bool) (configOk : Bool),
      exec (.islandRecovery i ok configOk) ⟨q, b⟩ = .next ⟨q, islandRecovery i ok configOk b⟩) ∧
  (∀ (q : List Instr) (b : Block) (i : Island) (since : Nat := 0),
      exec (.stall i since) ⟨q, b⟩ = .next ⟨q, stall i since b⟩) ∧
  (∀ (q : List Instr) (b : Block) (l : List Int),
      exec (.sensorSample l) ⟨q, b⟩ = .next ⟨q, sensorSample l b⟩) ∧
  (∀ (q : List Instr) (b : Block) (ra : Int) (rb : Int),
      exec (.thermalReading ra rb) ⟨q, b⟩ = .next ⟨q, thermalReading ra rb b⟩) ∧
  (∀ (q : List Instr) (b : Block) (lost : Nat := 0),
      exec (.shutdownSignal lost) ⟨q, b⟩ = .next ⟨q, shutdownSignal lost b⟩) ∧
  (∀ (q : List Instr) (b : Block),
      exec (.shutdownDeadline) ⟨q, b⟩ = .next ⟨q, shutdownDeadline b⟩) ∧
  (∀ (q : List Instr) (b : Block) (mv : Nat) (more : List Nat := []),
      exec (.telBurnRequest mv more) ⟨q, b⟩ = .next ⟨q, telBurnRequest mv more b⟩) ∧
  (∀ (q : List Instr) (b : Block) (lost : Nat := 0),
      exec (.telBurnResult lost) ⟨q, b⟩ = .next ⟨q, telBurnResult lost b⟩) ∧
  (∀ (q : List Instr) (b : Block),
      exec (.railDropTimeout) ⟨q, b⟩ = .next ⟨q, railDropTimeout b⟩) ∧
  (∀ (q : List Instr) (b : Block) (w : Word) (mv : Nat) (more : List Nat := []),
      exec (.otpProgram w mv more) ⟨q, b⟩ = .next ⟨q, otpProgram w.toNat mv more b⟩) ∧
  (∀ (q : List Instr) (b : Block) (fired : Half) (firm : Half) (mv : Nat) (soft : Half := 0) (more : List Nat := []),
      exec (.otpPulseDone fired firm mv soft more) ⟨q, b⟩ = .next ⟨q, otpPulseDone fired firm mv soft more b⟩) ∧
  (∀ (q : List Instr) (b : Block) (mv : Nat),
      exec (.vppMeasure mv) ⟨q, b⟩ = .next ⟨q, vppMeasure mv b⟩) ∧
  (∀ (q : List Instr) (b : Block) (w : Word),
      exec (.otpRead w) ⟨q, b⟩ = .next ⟨q, otpRead w.toNat b⟩) ∧
  (∀ (q : List Instr) (b : Block) (refOk : Bool),
      exec (.fuseLoad refOk) ⟨q, b⟩ = .next ⟨q, fuseLoad refOk b⟩) ∧
  (∀ (q : List Instr) (b : Block) (w : Word),
      exec (.patchLoad w) ⟨q, b⟩ = .next ⟨q, patchLoad w.toNat b⟩) ∧
  (∀ (q : List Instr) (b : Block) (data : Option (List Byte)) (mv : Nat) (bad : List Island := []) (more : List Nat := []),
      exec (.patchImageRead data mv bad more) ⟨q, b⟩ = .next ⟨q, patchImageRead data mv bad more b⟩) ∧
  (∀ (q : List Instr) (b : Block) (w : Word),
      exec (.evrRecord w) ⟨q, b⟩ = .next ⟨q, evrRecord w.toNat b⟩) ∧
  (∀ (q : List Instr) (b : Block) (w : Word),
      exec (.evrReplay w) ⟨q, b⟩ = .next ⟨q, evrReplay w.toNat b⟩) ∧
  (∀ (q : List Instr) (b : Block) (w : Word),
      exec (.evrOff w) ⟨q, b⟩ = .next ⟨q, evrOff w.toNat b⟩) ∧
  (∀ (q : List Instr) (b : Block),
      exec (.traceEntry) ⟨q, b⟩ = .next ⟨q, traceEntry b⟩) ∧
  (∀ (q : List Instr) (b : Block) (ecc : Ecc),
      exec (.traceBlockClose ecc) ⟨q, b⟩ = .next ⟨q, traceBlockClose ecc b⟩) ∧
  (∀ (q : List Instr) (b : Block) (r : ReplayRead),
      exec (.replayFeed r) ⟨q, b⟩ = .next ⟨q, replayFeed r b⟩) ∧
  (∀ (q : List Instr) (b : Block) (ok : Bool),
      exec (.dramInitDone ok) ⟨q, b⟩ = .next ⟨q, dramInitDone ok b⟩) ∧
  (∀ (q : List Instr) (b : Block) (romOk : Bool),
      exec (.romStart romOk) ⟨q, b⟩ = .next ⟨q, romStart romOk b⟩) ∧
  (∀ (q : List Instr) (b : Block) (mv : Nat := 0),
      exec (.mainInputLoss mv) ⟨q, b⟩ = .next ⟨q, mainInputLoss mv b⟩) ∧
  (∀ (q : List Instr) (b : Block) (mv : Nat := 65535),
      exec (.mainInputReturn mv) ⟨q, b⟩ = .next ⟨q, mainInputReturn mv b⟩) ∧
  (∀ (q : List Instr) (b : Block),
      exec (.keepPoweredRecord) ⟨q, b⟩ = .next ⟨q, keepPoweredRecord b⟩) ∧
  (∀ (q : List Instr) (b : Block),
      exec (.flushReport) ⟨q, b⟩ = .next ⟨q, flushReport b⟩) ∧
  (∀ (q : List Instr) (b : Block),
      exec (.flushDeadline) ⟨q, b⟩ = .next ⟨q, flushDeadline b⟩) ∧
  (∀ (q : List Instr) (b : Block) (i : Island) (lost : Nat),
      exec (.eventRepeat i lost) ⟨q, b⟩ = .next ⟨q, eventRepeat i lost b⟩) ∧
  (∀ (q : List Instr) (b : Block) (ohms : Nat) (temp : Int),
      exec (.packRead ohms temp) ⟨q, b⟩ = .next ⟨q, packRead ohms temp b⟩) ∧
  (∀ (q : List Instr) (b : Block),
      exec (.shortCheck) ⟨q, b⟩ = .next ⟨q, shortCheck b⟩) ∧
  (∀ (q : List Instr) (b : Block),
      exec (.prechargeTimeout) ⟨q, b⟩ = .next ⟨q, prechargeTimeout b⟩) ∧
  (∀ (q : List Instr) (b : Block),
      exec (.chargeDone) ⟨q, b⟩ = .next ⟨q, chargeDone b⟩) ∧
  (∀ (q : List Instr) (b : Block),
      exec (.safetyTimerExpiry) ⟨q, b⟩ = .next ⟨q, safetyTimerExpiry b⟩) ∧
  (∀ (q : List Instr) (b : Block) (mv : Nat) (ma : Int) (vbus : Nat := 65535),
      exec (.controlStep mv ma vbus) ⟨q, b⟩ = .next ⟨q, controlStep mv ma vbus b⟩) ∧
  (∀ (q : List Instr) (b : Block),
      exec (.showEnd) ⟨q, b⟩ = .next ⟨q, showEnd b⟩) ∧
  (∀ (q : List Instr) (b : Block),
      exec (.powerUpDelay) ⟨q, b⟩ = .next ⟨q, powerUpDelay b⟩) ∧
  (∀ (q : List Instr) (b : Block),
      b.beryl.evr.mode ≠ 2 →
      exec (.keyPress) ⟨q, b⟩ = .next ⟨q, keyPress b⟩) ∧
  (∀ (q : List Instr) (b : Block),
      b.beryl.evr.mode ≠ 2 →
      exec (.keyRestartHold) ⟨q, b⟩ = .next ⟨q, keyRestartHold b⟩) ∧
  (∀ (q : List Instr) (b : Block),
      b.beryl.evr.mode ≠ 2 →
      exec (.keyShipHold) ⟨q, b⟩ = .next ⟨q, keyShipHold b⟩) ∧
  (∀ (q : List Instr) (b : Block),
      exec (.shipModeEnter) ⟨q, b⟩ = .next ⟨q, shipModeEnter b⟩) ∧
  (∀ (q : List Instr) (b : Block) (w : Word),
      exec (.hupMagpwrWrite w) ⟨q, b⟩ = .next ⟨q, hupMagpwrWrite w.toNat b⟩) ∧
  (∀ (q : List Instr) (b : Block) (w : Word),
      exec (.clrTimer w) ⟨q, b⟩ = .next ⟨q, clrTimer w.toNat b⟩) ∧
  (∀ (q : List Instr) (b : Block) (ohms : Nat) (temp : Int),
      exec (.topazStart ohms temp) ⟨q, b⟩ = .next ⟨q, topazStart ohms temp b⟩) ∧
  (∀ (q : List Instr) (b : Block) (k : Nat),
      exec (.railPgRise k) ⟨q, b⟩ = .next ⟨q, railPgRise k b⟩) ∧
  (∀ (q : List Instr) (b : Block),
      exec (.railEnableDelay) ⟨q, b⟩ = .next ⟨q, railEnableDelay b⟩) ∧
  (∀ (q : List Instr) (b : Block),
      exec (.railTimeout) ⟨q, b⟩ = .next ⟨q, railTimeout b⟩) ∧
  (∀ (q : List Instr) (b : Block) (k : Nat),
      exec (.railPgFall k) ⟨q, b⟩ = .next ⟨q, railPgFall k b⟩) ∧
  (∀ (q : List Instr) (b : Block),
      exec (.railDownStep) ⟨q, b⟩ = .next ⟨q, railDownStep b⟩) ∧
  (∀ (q : List Instr) (b : Block) (tcxo : Bool),
      exec (.pwrGoodRise tcxo) ⟨q, b⟩ = .next ⟨q, pwrGoodRise tcxo b⟩) ∧
  (∀ (q : List Instr) (b : Block),
      exec (.pwrGoodFall) ⟨q, b⟩ = .next ⟨q, pwrGoodFall b⟩) ∧
  (∀ (q : List Instr) (b : Block) (held : Nat),
      b.beryl.evr.mode ≠ 2 →
      exec (.keyNRelease held) ⟨q, b⟩ = .next ⟨q, keyNRelease held b⟩) ∧
  (∀ (q : List Instr) (b : Block),
      b.beryl.evr.mode ≠ 2 →
      b.alive .agate = true →
      exec (.trigInInactive) ⟨q, b⟩ = .next ⟨q, trigInInactive b⟩) ∧
  (∀ (q : List Instr) (b : Block) (m : Nat) (csts : Nat),
      b.alive .onyx = true →
      exec (.controllerStatusChange m csts) ⟨q, b⟩ = .next ⟨q, controllerStatusChange m csts b⟩) ∧
  (∀ (q : List Instr) (b : Block),
      b.alive .opal = true →
      exec (.pollReadTimeout) ⟨q, b⟩ = .next ⟨q, pollReadTimeout b⟩) ∧
  (∀ (q : List Instr) (b : Block),
      exec (.islandResetRelease) ⟨q, b⟩ = .next ⟨q, islandResetRelease b⟩) ∧
  (∀ (q : List Instr) (b : Block),
      b.inPower .opal = true →
      exec (.hostLinkError) ⟨q, b⟩ = .next ⟨q, hostLinkError b⟩) ∧
  (∀ (q : List Instr) (b : Block),
      exec (.vddAoLoss) ⟨q, b⟩ = .next ⟨q, vddAoLoss b⟩)

end
end

