-- ==== Sys2Proof/Laws/Frame.lean ====
section
/-! SUPPORT. Frames: which parts of the block an operation can change. Frames compose: each operation has one lemma, named
after it, that carries a frame across it. -/

namespace Sys2Proof.Machine

theorem onlyChanges_refl (ps : List Piece) (a : Block) : onlyChanges ps a a :=
  ⟨fun p _ => by cases p <;> first | exact rfl | simp [same]⟩

theorem onlyChanges_trans {ps : List Piece} {a b c : Block} (h : onlyChanges ps a b) (k : onlyChanges ps b c) :
    onlyChanges ps a c := by
  refine ⟨fun p hp => ?_⟩
  have h1 := h.at_ p hp
  have h2 := k.at_ p hp
  cases p with
  | opal =>
    simp only [same] at h1 h2 ⊢
    rw [← h2] at h1
    exact h1
  | ch =>
    simp only [same] at h1 h2 ⊢
    rw [← h2] at h1
    exact h1
  | _ => simp only [same] at h1 h2 ⊢ ; simp_all

theorem onlyChanges_mono {ps qs : List Piece} {a b : Block} (hp : ps ⊆ qs) (h : onlyChanges ps a b) : onlyChanges qs a b :=
  ⟨fun p hq => h.at_ p (fun hm => hq (hp hm))⟩

/-- A step of frame `ps` after one of frame `qs`. -/
theorem onlyChanges_step {ps qs : List Piece} {a b c : Block} (k : onlyChanges ps b c) (hp : ps ⊆ qs)
    (h : onlyChanges qs a b) : onlyChanges qs a c := onlyChanges_trans h (onlyChanges_mono hp k)

theorem onlyChanges_foldl {α : Type} {ps : List Piece} {a b : Block} {f : Block → α → Block} {l : List α}
    (hf : ∀ x y, onlyChanges ps a x → onlyChanges ps a (f x y)) (h : onlyChanges ps a b) :
    onlyChanges ps a (l.foldl f b) := by
  induction l generalizing b with
  | nil => exact h
  | cons y l ih => exact ih (hf b y h)

theorem imp_app {p q : Prop} (h : p) (k : p → q) : q := k h

/-! ### One part alone -/

theorem upd_quartz_frame {a b : Block} {x : Quartz} {ps : List Piece} (hp : [.quartz] ⊆ ps) (h : onlyChanges ps a b) :
    onlyChanges ps a { b with quartz := x } := by
  refine onlyChanges_step ?_ hp h
  refine ⟨fun p hp => ?_⟩;  cases p <;> first | exact rfl | exact absurd hp (by decide) | exact ⟨rfl, rfl, rfl, rfl⟩ | exact ⟨rfl, rfl, rfl, rfl, rfl, rfl, rfl, rfl, rfl⟩

theorem upd_disc_frame {a b : Block} {x : Disc} {ps : List Piece} (hp : [.disc] ⊆ ps) (h : onlyChanges ps a b) :
    onlyChanges ps a { b with disc := x } := by
  refine onlyChanges_step ?_ hp h
  refine ⟨fun p hp => ?_⟩;  cases p <;> first | exact rfl | exact absurd hp (by decide) | exact ⟨rfl, rfl, rfl, rfl⟩ | exact ⟨rfl, rfl, rfl, rfl, rfl, rfl, rfl, rfl, rfl⟩

theorem upd_tod_frame {a b : Block} {x : Tod} {ps : List Piece} (hp : [.tod] ⊆ ps) (h : onlyChanges ps a b) :
    onlyChanges ps a { b with tod := x } := by
  refine onlyChanges_step ?_ hp h
  refine ⟨fun p hp => ?_⟩;  cases p <;> first | exact rfl | exact absurd hp (by decide) | exact ⟨rfl, rfl, rfl, rfl⟩ | exact ⟨rfl, rfl, rfl, rfl, rfl, rfl, rfl, rfl, rfl⟩

theorem upd_garnet_frame {a b : Block} {x : Garnet} {ps : List Piece} (hp : [.garnet] ⊆ ps) (h : onlyChanges ps a b) :
    onlyChanges ps a { b with garnet := x } := by
  refine onlyChanges_step ?_ hp h
  refine ⟨fun p hp => ?_⟩;  cases p <;> first | exact rfl | exact absurd hp (by decide) | exact ⟨rfl, rfl, rfl, rfl⟩ | exact ⟨rfl, rfl, rfl, rfl, rfl, rfl, rfl, rfl, rfl⟩

theorem upd_jade_frame {a b : Block} {x : Jade} {ps : List Piece} (hp : [.jade] ⊆ ps) (h : onlyChanges ps a b) :
    onlyChanges ps a { b with jade := x } := by
  refine onlyChanges_step ?_ hp h
  refine ⟨fun p hp => ?_⟩;  cases p <;> first | exact rfl | exact absurd hp (by decide) | exact ⟨rfl, rfl, rfl, rfl⟩ | exact ⟨rfl, rfl, rfl, rfl, rfl, rfl, rfl, rfl, rfl⟩

theorem upd_spinel_frame {a b : Block} {x : Spinel} {ps : List Piece} (hp : [.spinel] ⊆ ps) (h : onlyChanges ps a b) :
    onlyChanges ps a { b with spinel := x } := by
  refine onlyChanges_step ?_ hp h
  refine ⟨fun p hp => ?_⟩;  cases p <;> first | exact rfl | exact absurd hp (by decide) | exact ⟨rfl, rfl, rfl, rfl⟩ | exact ⟨rfl, rfl, rfl, rfl, rfl, rfl, rfl, rfl, rfl⟩

theorem upd_opal_frame {a b : Block} {x : Opal} {ps : List Piece} (hp : [.opal, .posts] ⊆ ps) (h : onlyChanges ps a b) :
    onlyChanges ps a { b with opal := x } := by
  refine onlyChanges_step ?_ hp h
  refine ⟨fun p hp => ?_⟩;  cases p <;> first | exact rfl | exact absurd hp (by decide) | exact ⟨rfl, rfl, rfl, rfl⟩ | exact ⟨rfl, rfl, rfl, rfl, rfl, rfl, rfl, rfl, rfl⟩

theorem upd_onyx_frame {a b : Block} {x : Onyx} {ps : List Piece} (hp : [.onyx] ⊆ ps) (h : onlyChanges ps a b) :
    onlyChanges ps a { b with onyx := x } := by
  refine onlyChanges_step ?_ hp h
  refine ⟨fun p hp => ?_⟩;  cases p <;> first | exact rfl | exact absurd hp (by decide) | exact ⟨rfl, rfl, rfl, rfl⟩ | exact ⟨rfl, rfl, rfl, rfl, rfl, rfl, rfl, rfl, rfl⟩

theorem upd_agate_frame {a b : Block} {x : Agate} {ps : List Piece} (hp : [.agate] ⊆ ps) (h : onlyChanges ps a b) :
    onlyChanges ps a { b with agate := x } := by
  refine onlyChanges_step ?_ hp h
  refine ⟨fun p hp => ?_⟩;  cases p <;> first | exact rfl | exact absurd hp (by decide) | exact ⟨rfl, rfl, rfl, rfl⟩ | exact ⟨rfl, rfl, rfl, rfl, rfl, rfl, rfl, rfl, rfl⟩

theorem upd_topaz_frame {a b : Block} {x : Topaz} {ps : List Piece} (hp : [.topaz] ⊆ ps) (h : onlyChanges ps a b) :
    onlyChanges ps a { b with topaz := x } := by
  refine onlyChanges_step ?_ hp h
  refine ⟨fun p hp => ?_⟩;  cases p <;> first | exact rfl | exact absurd hp (by decide) | exact ⟨rfl, rfl, rfl, rfl⟩ | exact ⟨rfl, rfl, rfl, rfl, rfl, rfl, rfl, rfl, rfl⟩

theorem upd_ch_frame {a b : Block} {x : Channels} {ps : List Piece} (hp : [.ch, .trace] ⊆ ps) (h : onlyChanges ps a b) :
    onlyChanges ps a { b with ch := x } := by
  refine onlyChanges_step ?_ hp h
  refine ⟨fun p hp => ?_⟩;  cases p <;> first | exact rfl | exact absurd hp (by decide) | exact ⟨rfl, rfl, rfl, rfl⟩ | exact ⟨rfl, rfl, rfl, rfl, rfl, rfl, rfl, rfl, rfl⟩

theorem upd_out_frame {a b : Block} {x : Outputs} {ps : List Piece} (hp : [.out] ⊆ ps) (h : onlyChanges ps a b) :
    onlyChanges ps a { b with out := x } := by
  refine onlyChanges_step ?_ hp h
  refine ⟨fun p hp => ?_⟩;  cases p <;> first | exact rfl | exact absurd hp (by decide) | exact ⟨rfl, rfl, rfl, rfl⟩ | exact ⟨rfl, rfl, rfl, rfl, rfl, rfl, rfl, rfl, rfl⟩

theorem upd_regs_frame {a b : Block} {x : List (Nat × Word)} {ps : List Piece} (hp : [.regs] ⊆ ps) (h : onlyChanges ps a b) :
    onlyChanges ps a { b with regs := x } := by
  refine onlyChanges_step ?_ hp h
  refine ⟨fun p hp => ?_⟩;  cases p <;> first | exact rfl | exact absurd hp (by decide) | exact ⟨rfl, rfl, rfl, rfl⟩ | exact ⟨rfl, rfl, rfl, rfl, rfl, rfl, rfl, rfl, rfl⟩

theorem upd_dram_frame {a b : Block} {x : List Host.Cell} {ps : List Piece} (hp : [.dram] ⊆ ps) (h : onlyChanges ps a b) :
    onlyChanges ps a { b with dram := x } := by
  refine onlyChanges_step ?_ hp h
  refine ⟨fun p hp => ?_⟩;  cases p <;> first | exact rfl | exact absurd hp (by decide) | exact ⟨rfl, rfl, rfl, rfl⟩ | exact ⟨rfl, rfl, rfl, rfl, rfl, rfl, rfl, rfl, rfl⟩

theorem upd_fresh_frame {a b : Block} {x : Nat} {ps : List Piece} (hp : [.fresh] ⊆ ps) (h : onlyChanges ps a b) :
    onlyChanges ps a { b with fresh := x } := by
  refine onlyChanges_step ?_ hp h
  refine ⟨fun p hp => ?_⟩;  cases p <;> first | exact rfl | exact absurd hp (by decide) | exact ⟨rfl, rfl, rfl, rfl⟩ | exact ⟨rfl, rfl, rfl, rfl, rfl, rfl, rfl, rfl, rfl⟩

theorem Block.modQuartz_frame {f} {a b : Block} {ps : List Piece} (hp : [.quartz] ⊆ ps) (h : onlyChanges ps a b) :
    onlyChanges ps a (b.modQuartz f) := upd_quartz_frame hp h

theorem Block.modDisc_frame {f} {a b : Block} {ps : List Piece} (hp : [.disc] ⊆ ps) (h : onlyChanges ps a b) :
    onlyChanges ps a (b.modDisc f) := upd_disc_frame hp h

theorem Block.modTod_frame {f} {a b : Block} {ps : List Piece} (hp : [.tod] ⊆ ps) (h : onlyChanges ps a b) :
    onlyChanges ps a (b.modTod f) := upd_tod_frame hp h

theorem Block.modGarnet_frame {f} {a b : Block} {ps : List Piece} (hp : [.garnet] ⊆ ps) (h : onlyChanges ps a b) :
    onlyChanges ps a (b.modGarnet f) := upd_garnet_frame hp h

theorem Block.modJade_frame {f} {a b : Block} {ps : List Piece} (hp : [.jade] ⊆ ps) (h : onlyChanges ps a b) :
    onlyChanges ps a (b.modJade f) := upd_jade_frame hp h

theorem Block.modSpinel_frame {f} {a b : Block} {ps : List Piece} (hp : [.spinel] ⊆ ps) (h : onlyChanges ps a b) :
    onlyChanges ps a (b.modSpinel f) := upd_spinel_frame hp h

theorem Block.modOpal_frame {f} {a b : Block} {ps : List Piece} (hp : [.opal, .posts] ⊆ ps) (h : onlyChanges ps a b) :
    onlyChanges ps a (b.modOpal f) := upd_opal_frame hp h

theorem Block.modOnyx_frame {f} {a b : Block} {ps : List Piece} (hp : [.onyx] ⊆ ps) (h : onlyChanges ps a b) :
    onlyChanges ps a (b.modOnyx f) := upd_onyx_frame hp h

theorem Block.modAgate_frame {f} {a b : Block} {ps : List Piece} (hp : [.agate] ⊆ ps) (h : onlyChanges ps a b) :
    onlyChanges ps a (b.modAgate f) := upd_agate_frame hp h

theorem Block.modTopaz_frame {f} {a b : Block} {ps : List Piece} (hp : [.topaz] ⊆ ps) (h : onlyChanges ps a b) :
    onlyChanges ps a (b.modTopaz f) := upd_topaz_frame hp h

theorem Block.modCh_frame {f} {a b : Block} {ps : List Piece} (hp : [.ch, .trace] ⊆ ps) (h : onlyChanges ps a b) :
    onlyChanges ps a (b.modCh f) := upd_ch_frame hp h

theorem Block.modOut_frame {f} {a b : Block} {ps : List Piece} (hp : [.out] ⊆ ps) (h : onlyChanges ps a b) :
    onlyChanges ps a (b.modOut f) := upd_out_frame hp h

theorem Block.modBeryl_frame {f} {a b : Block} {ps : List Piece} (hp : [.thm, .otc, .evr, .beryl] ⊆ ps)
    (h : onlyChanges ps a b) : onlyChanges ps a (b.modBeryl f) := by
  refine onlyChanges_step ?_ hp h
  refine ⟨fun p hp => ?_⟩;  cases p <;> first | exact rfl | exact absurd hp (by decide) | exact ⟨rfl, rfl, rfl, rfl⟩ | exact ⟨rfl, rfl, rfl, rfl, rfl, rfl, rfl, rfl, rfl⟩

theorem upd_evr_frame {a b : Block} {x : Evr} {ps : List Piece} (hp : [.evr] ⊆ ps) (h : onlyChanges ps a b) :
    onlyChanges ps a { b with beryl := { b.beryl with evr := x } } := by
  refine onlyChanges_step ?_ hp h
  refine ⟨fun p hp => ?_⟩;  cases p <;> first | exact rfl | exact absurd hp (by decide) | exact ⟨rfl, rfl, rfl, rfl⟩ | exact ⟨rfl, rfl, rfl, rfl, rfl, rfl, rfl, rfl, rfl⟩

theorem upd_trace_frame {a b : Block} {x : List TraceEntry} {ps : List Piece} (hp : [.trace] ⊆ ps)
    (h : onlyChanges ps a b) : onlyChanges ps a { b with ch := { b.ch with evr := x } } := by
  refine onlyChanges_step ?_ hp h
  refine ⟨fun p hp => ?_⟩;  cases p <;> first | exact rfl | exact absurd hp (by decide) | exact ⟨rfl, rfl, rfl, rfl⟩ | exact ⟨rfl, rfl, rfl, rfl, rfl, rfl, rfl, rfl, rfl⟩

theorem upd_log_frame {a b : Block} {x : List TraceEntry} {y : Evr} {ps : List Piece} (hp : [.evr, .trace] ⊆ ps)
    (h : onlyChanges ps a b) :
    onlyChanges ps a { b with ch := { b.ch with evr := x }, beryl := { b.beryl with evr := y } } := by
  refine onlyChanges_step ?_ hp h
  refine ⟨fun p hp => ?_⟩;  cases p <;> first | exact rfl | exact absurd hp (by decide) | exact ⟨rfl, rfl, rfl, rfl⟩ | exact ⟨rfl, rfl, rfl, rfl, rfl, rfl, rfl, rfl, rfl⟩

/-- A change of Opal's rings, events and vectors alone. -/
theorem upd_posts_frame {a b : Block} {x : Opal} {ps : List Piece} (hp : [.posts] ⊆ ps)
    (hx : x.withPosts b.opal = b.opal) (h : onlyChanges ps a b) : onlyChanges ps a { b with opal := x } := by
  refine onlyChanges_step ?_ hp h
  refine ⟨fun p hp => ?_⟩;  cases p <;> first | exact rfl | exact absurd hp (by decide) | exact ⟨rfl, rfl, rfl, rfl⟩ | exact ⟨rfl, rfl, rfl, rfl, rfl, rfl, rfl, rfl, rfl⟩ | exact hx

theorem Block.modOpal_posts_frame {f} {a b : Block} {ps : List Piece} (hp : [.posts] ⊆ ps)
    (hx : ∀ x, (f x).withPosts x = x) (h : onlyChanges ps a b) : onlyChanges ps a (b.modOpal f) :=
  upd_posts_frame hp (hx _) h

end Sys2Proof.Machine
end

