-- ==== Sys2Proof/Laws/FrameOps.lean ====
section
/-! SUPPORT. Frames of the operations of Ops, Operands, Flags, Rings. -/

namespace Sys2Proof.Machine

theorem Block.modIsl_frame {i : Island} {f : IslandState → IslandState} {a0 b : Block} {ps : List Piece} (hp : [.topaz] ⊆ ps)
    (h0 : onlyChanges ps a0 b) : onlyChanges ps a0 (Block.modIsl b i f) := by
  refine onlyChanges_step ?_ hp h0
  unfold Block.modIsl
  repeat' (first
    | with_reducible assumption
    | with_reducible exact onlyChanges_refl _ _
    | with_reducible refine Block.modTopaz_frame (by decide) ?_
    | (with_reducible refine onlyChanges_foldl ?_ ?_; intro x y hx)
    | (extract_lets +onlyGivenNames x; refine imp_app (p := onlyChanges _ _ x) ?_ (fun hx => ?_); rotate_left; clear_value x; rotate_right)
    | extract_lets +onlyGivenNames x
    | split
    | dsimp only
    | subst x
    | (intro x))

theorem wakeUnit_frame {i : Island} {k : Nat} {a0 b : Block} {ps : List Piece} (hp : [.topaz] ⊆ ps)
    (h0 : onlyChanges ps a0 b) : onlyChanges ps a0 (wakeUnit i k b) := by
  refine onlyChanges_step ?_ hp h0
  unfold wakeUnit
  repeat' (first
    | with_reducible assumption
    | with_reducible exact onlyChanges_refl _ _
    | with_reducible refine Block.modIsl_frame (by decide) ?_
    | (with_reducible refine onlyChanges_foldl ?_ ?_; intro x y hx)
    | (extract_lets +onlyGivenNames x; refine imp_app (p := onlyChanges _ _ x) ?_ (fun hx => ?_); rotate_left; clear_value x; rotate_right)
    | extract_lets +onlyGivenNames x
    | split
    | dsimp only
    | subst x
    | (intro x))

theorem settleFaultPin_frame {a0 b : Block} {ps : List Piece} (hp : [.topaz] ⊆ ps)
    (h0 : onlyChanges ps a0 b) : onlyChanges ps a0 (settleFaultPin b) := by
  refine onlyChanges_step ?_ hp h0
  unfold settleFaultPin
  repeat' (first
    | with_reducible assumption
    | with_reducible exact onlyChanges_refl _ _
    | with_reducible refine Block.modTopaz_frame (by decide) ?_
    | (with_reducible refine onlyChanges_foldl ?_ ?_; intro x y hx)
    | (extract_lets +onlyGivenNames x; refine imp_app (p := onlyChanges _ _ x) ?_ (fun hx => ?_); rotate_left; clear_value x; rotate_right)
    | extract_lets +onlyGivenNames x
    | split
    | dsimp only
    | subst x
    | (intro x))

theorem Block.advance_frame {t : Nat} {a0 b : Block} {ps : List Piece} (hp : [.quartz] ⊆ ps)
    (h0 : onlyChanges ps a0 b) : onlyChanges ps a0 (Block.advance b t) := by
  refine onlyChanges_step ?_ hp h0
  unfold Block.advance
  repeat' (first
    | with_reducible assumption
    | with_reducible exact onlyChanges_refl _ _
    | with_reducible refine Block.modQuartz_frame (by decide) ?_
    | (with_reducible refine onlyChanges_foldl ?_ ?_; intro x y hx)
    | (extract_lets +onlyGivenNames x; refine imp_app (p := onlyChanges _ _ x) ?_ (fun hx => ?_); rotate_left; clear_value x; rotate_right)
    | extract_lets +onlyGivenNames x
    | split
    | dsimp only
    | subst x
    | (intro x))

theorem Block.setReg_frame {off : Nat} {v : Nat} {a0 b : Block} {ps : List Piece} (hp : [.regs] ⊆ ps)
    (h0 : onlyChanges ps a0 b) : onlyChanges ps a0 (Block.setReg b off v) := by
  refine onlyChanges_step ?_ hp h0
  unfold Block.setReg
  repeat' (first
    | with_reducible assumption
    | with_reducible exact onlyChanges_refl _ _
    | (with_reducible refine onlyChanges_foldl ?_ ?_; intro x y hx)
    | (extract_lets +onlyGivenNames x; refine imp_app (p := onlyChanges _ _ x) ?_ (fun hx => ?_); rotate_left; clear_value x; rotate_right)
    | extract_lets +onlyGivenNames x
    | split
    | dsimp only
    | with_reducible refine upd_regs_frame (by decide) ?_
    | subst x
    | (intro x))

theorem Block.resetRegs_frame {lo : Nat} {hi : Nat} {a0 b : Block} {ps : List Piece} (hp : [.regs] ⊆ ps)
    (h0 : onlyChanges ps a0 b) : onlyChanges ps a0 (Block.resetRegs b lo hi) := by
  refine onlyChanges_step ?_ hp h0
  unfold Block.resetRegs
  repeat' (first
    | with_reducible assumption
    | with_reducible exact onlyChanges_refl _ _
    | (with_reducible refine onlyChanges_foldl ?_ ?_; intro x y hx)
    | (extract_lets +onlyGivenNames x; refine imp_app (p := onlyChanges _ _ x) ?_ (fun hx => ?_); rotate_left; clear_value x; rotate_right)
    | extract_lets +onlyGivenNames x
    | split
    | dsimp only
    | with_reducible refine upd_regs_frame (by decide) ?_
    | subst x
    | (intro x))

theorem Block.dramWrite_frame {a : Nat} {vs : List Byte} {a0 b : Block} {ps : List Piece} (hp : [.dram] ⊆ ps)
    (h0 : onlyChanges ps a0 b) : onlyChanges ps a0 (Block.dramWrite b a vs) := by
  refine onlyChanges_step ?_ hp h0
  unfold Block.dramWrite
  repeat' (first
    | with_reducible assumption
    | with_reducible exact onlyChanges_refl _ _
    | (with_reducible refine onlyChanges_foldl ?_ ?_; intro x y hx)
    | (extract_lets +onlyGivenNames x; refine imp_app (p := onlyChanges _ _ x) ?_ (fun hx => ?_); rotate_left; clear_value x; rotate_right)
    | extract_lets +onlyGivenNames x
    | split
    | dsimp only
    | with_reducible refine upd_dram_frame (by decide) ?_
    | subst x
    | (intro x))

theorem Block.hostWrite_frame {a : Nat} {vs : List Byte} {a0 b : Block} {ps : List Piece} (hp : [.out] ⊆ ps)
    (h0 : onlyChanges ps a0 b) : onlyChanges ps a0 (Block.hostWrite b a vs) := by
  refine onlyChanges_step ?_ hp h0
  unfold Block.hostWrite
  repeat' (first
    | with_reducible assumption
    | with_reducible exact onlyChanges_refl _ _
    | (with_reducible refine onlyChanges_foldl ?_ ?_; intro x y hx)
    | (extract_lets +onlyGivenNames x; refine imp_app (p := onlyChanges _ _ x) ?_ (fun hx => ?_); rotate_left; clear_value x; rotate_right)
    | extract_lets +onlyGivenNames x
    | split
    | dsimp only
    | with_reducible refine upd_out_frame (by decide) ?_
    | subst x
    | (intro x))

theorem Block.logEvr_frame {src : Island} {type : Nat} {payload : List Byte} {cont : List (List Byte)} {st : Option Nat} {a0 b : Block}
    {ps : List Piece} (hp : [.evr, .trace] ⊆ ps) (h : onlyChanges ps a0 b) :
    onlyChanges ps a0 (b.logEvr src type payload cont st) := by
  refine onlyChanges_step ?_ hp h
  clear h hp
  unfold Block.logEvr
  split
  · with_reducible exact upd_trace_frame (by decide) (onlyChanges_refl _ _)
  · split
    · with_reducible exact onlyChanges_refl _ _
    · extract_lets +onlyGivenNames mk gap
      split
      · extract_lets +onlyGivenNames lead
        with_reducible exact upd_log_frame (by decide) (onlyChanges_refl _ _)
      · extract_lets +onlyGivenNames evr
        with_reducible exact upd_evr_frame (by decide) (onlyChanges_refl _ _)

theorem Block.setVec_frame {v : Nat} {x : Vec} {a0 b : Block} {ps : List Piece} (hp : [.posts] ⊆ ps)
    (h0 : onlyChanges ps a0 b) : onlyChanges ps a0 (Block.setVec b v x) := by
  refine onlyChanges_step ?_ hp h0
  unfold Block.setVec
  repeat' (first
    | with_reducible assumption
    | with_reducible exact onlyChanges_refl _ _
    | with_reducible refine Block.modOpal_posts_frame (by decide) (fun _ => by exact rfl) ?_
    | (with_reducible refine onlyChanges_foldl ?_ ?_; intro x y hx)
    | (extract_lets +onlyGivenNames x; refine imp_app (p := onlyChanges _ _ x) ?_ (fun hx => ?_); rotate_left; clear_value x; rotate_right)
    | extract_lets +onlyGivenNames x
    | split
    | dsimp only
    | with_reducible refine upd_posts_frame (by decide) (by exact rfl) ?_
    | subst x
    | (intro x))

theorem sendMsg_frame {v : Nat} {a0 b : Block} {ps : List Piece} (hp : [.posts, .out] ⊆ ps)
    (h0 : onlyChanges ps a0 b) : onlyChanges ps a0 (sendMsg v b) := by
  refine onlyChanges_step ?_ hp h0
  unfold sendMsg
  repeat' (first
    | with_reducible assumption
    | with_reducible exact onlyChanges_refl _ _
    | with_reducible refine Block.modOpal_posts_frame (by decide) (fun _ => by exact rfl) ?_
    | with_reducible refine Block.setVec_frame (by decide) ?_
    | (with_reducible refine onlyChanges_foldl ?_ ?_; intro x y hx)
    | (extract_lets +onlyGivenNames x; refine imp_app (p := onlyChanges _ _ x) ?_ (fun hx => ?_); rotate_left; clear_value x; rotate_right)
    | extract_lets +onlyGivenNames x
    | split
    | dsimp only
    | with_reducible refine upd_out_frame (by decide) ?_
    | subst x
    | (intro x))

theorem requestMsg_frame {v : Nat} {a0 b : Block} {ps : List Piece} (hp : [.posts, .out] ⊆ ps)
    (h0 : onlyChanges ps a0 b) : onlyChanges ps a0 (requestMsg v b) := by
  refine onlyChanges_step ?_ hp h0
  unfold requestMsg
  repeat' (first
    | with_reducible assumption
    | with_reducible exact onlyChanges_refl _ _
    | with_reducible refine Block.modOpal_posts_frame (by decide) (fun _ => by exact rfl) ?_
    | with_reducible refine sendMsg_frame (by decide) ?_
    | with_reducible refine Block.setVec_frame (by decide) ?_
    | (with_reducible refine onlyChanges_foldl ?_ ?_; intro x y hx)
    | (extract_lets +onlyGivenNames x; refine imp_app (p := onlyChanges _ _ x) ?_ (fun hx => ?_); rotate_left; clear_value x; rotate_right)
    | extract_lets +onlyGivenNames x
    | split
    | dsimp only
    | subst x
    | (intro x))

theorem releaseMsg_frame {v : Nat} {a0 b : Block} {ps : List Piece} (hp : [.posts, .out] ⊆ ps)
    (h0 : onlyChanges ps a0 b) : onlyChanges ps a0 (releaseMsg v b) := by
  refine onlyChanges_step ?_ hp h0
  unfold releaseMsg
  repeat' (first
    | with_reducible assumption
    | with_reducible exact onlyChanges_refl _ _
    | with_reducible refine Block.modOpal_posts_frame (by decide) (fun _ => by exact rfl) ?_
    | with_reducible refine sendMsg_frame (by decide) ?_
    | (with_reducible refine onlyChanges_foldl ?_ ?_; intro x y hx)
    | (extract_lets +onlyGivenNames x; refine imp_app (p := onlyChanges _ _ x) ?_ (fun hx => ?_); rotate_left; clear_value x; rotate_right)
    | extract_lets +onlyGivenNames x
    | split
    | dsimp only
    | subst x
    | (intro x))

theorem Block.setCtx_frame {c : Nat} {x : Ctx} {a0 b : Block} {ps : List Piece} (hp : [.posts] ⊆ ps)
    (h0 : onlyChanges ps a0 b) : onlyChanges ps a0 (Block.setCtx b c x) := by
  refine onlyChanges_step ?_ hp h0
  unfold Block.setCtx
  repeat' (first
    | with_reducible assumption
    | with_reducible exact onlyChanges_refl _ _
    | with_reducible refine Block.modOpal_posts_frame (by decide) (fun _ => by exact rfl) ?_
    | (with_reducible refine onlyChanges_foldl ?_ ?_; intro x y hx)
    | (extract_lets +onlyGivenNames x; refine imp_app (p := onlyChanges _ _ x) ?_ (fun hx => ?_); rotate_left; clear_value x; rotate_right)
    | extract_lets +onlyGivenNames x
    | split
    | dsimp only
    | with_reducible refine upd_posts_frame (by decide) (by exact rfl) ?_
    | subst x
    | (intro x))

theorem Block.setRing_frame {r : Nat} {x : Ring} {a0 b : Block} {ps : List Piece} (hp : [.posts] ⊆ ps)
    (h0 : onlyChanges ps a0 b) : onlyChanges ps a0 (Block.setRing b r x) := by
  refine onlyChanges_step ?_ hp h0
  unfold Block.setRing
  repeat' (first
    | with_reducible assumption
    | with_reducible exact onlyChanges_refl _ _
    | with_reducible refine Block.modOpal_posts_frame (by decide) (fun _ => by exact rfl) ?_
    | with_reducible refine Block.setCtx_frame (by decide) ?_
    | (with_reducible refine onlyChanges_foldl ?_ ?_; intro x y hx)
    | (extract_lets +onlyGivenNames x; refine imp_app (p := onlyChanges _ _ x) ?_ (fun hx => ?_); rotate_left; clear_value x; rotate_right)
    | extract_lets +onlyGivenNames x
    | split
    | dsimp only
    | with_reducible refine upd_posts_frame (by decide) (by exact rfl) ?_
    | subst x
    | (intro x))

theorem readHead_frame {r : Nat} {a0 b : Block} {ps : List Piece} (hp : [.out] ⊆ ps)
    (h0 : onlyChanges ps a0 b) : onlyChanges ps a0 (readHead r b) := by
  refine onlyChanges_step ?_ hp h0
  unfold readHead
  repeat' (first
    | with_reducible assumption
    | with_reducible exact onlyChanges_refl _ _
    | with_reducible refine Block.modOpal_posts_frame (by decide) (fun _ => by exact rfl) ?_
    | with_reducible refine Block.modOut_frame (by decide) ?_
    | (with_reducible refine onlyChanges_foldl ?_ ?_; intro x y hx)
    | (extract_lets +onlyGivenNames x; refine imp_app (p := onlyChanges _ _ x) ?_ (fun hx => ?_); rotate_left; clear_value x; rotate_right)
    | extract_lets +onlyGivenNames x
    | split
    | dsimp only
    | subst x
    | (intro x))

theorem writeRecord_frame {r : Nat} {rec_ : List Byte} {a0 b : Block} {ps : List Piece} (hp : [.posts, .out] ⊆ ps)
    (h0 : onlyChanges ps a0 b) : onlyChanges ps a0 (writeRecord r rec_ b) := by
  refine onlyChanges_step ?_ hp h0
  unfold writeRecord
  repeat' (first
    | with_reducible assumption
    | with_reducible exact onlyChanges_refl _ _
    | with_reducible refine Block.modOpal_posts_frame (by decide) (fun _ => by exact rfl) ?_
    | with_reducible refine readHead_frame (by decide) ?_
    | with_reducible refine Block.setRing_frame (by decide) ?_
    | with_reducible refine Block.hostWrite_frame (by decide) ?_
    | (with_reducible refine onlyChanges_foldl ?_ ?_; intro x y hx)
    | (extract_lets +onlyGivenNames x; refine imp_app (p := onlyChanges _ _ x) ?_ (fun hx => ?_); rotate_left; clear_value x; rotate_right)
    | extract_lets +onlyGivenNames x
    | split
    | dsimp only
    | subst x
    | (intro x))

theorem flushEvents_frame {k : Nat} {a0 b : Block} {ps : List Piece} (hp : [.posts, .out] ⊆ ps)
    (h : onlyChanges ps a0 b) : onlyChanges ps a0 (flushEvents k b) := by
  refine onlyChanges_step ?_ hp h
  clear h hp
  induction k generalizing b with
  | zero => exact onlyChanges_refl _ _
  | succ k ih =>
    unfold flushEvents
    repeat' (first
      | with_reducible assumption
      | with_reducible exact onlyChanges_refl _ _
      | with_reducible refine Block.modOpal_posts_frame (by decide) (fun _ => by exact rfl) ?_
      | with_reducible refine onlyChanges_trans ?_ ih
      | with_reducible refine writeRecord_frame (by decide) ?_
      | with_reducible refine requestMsg_frame (by decide) ?_
      | (with_reducible refine onlyChanges_foldl ?_ ?_; intro x y hx)
      | (extract_lets +onlyGivenNames x; refine imp_app (p := onlyChanges _ _ x) ?_ (fun hx => ?_); rotate_left; clear_value x; rotate_right)
      | extract_lets +onlyGivenNames x
      | split
      | dsimp only
      | with_reducible refine upd_posts_frame (by decide) (by exact rfl) ?_
      | subst x
      | (intro x))

theorem postEventAt_frame {stamp : Nat} {code : Nat} {frame : Nat} {data : List Byte} {a0 b : Block} {ps : List Piece} (hp : [.posts, .out] ⊆ ps)
    (h0 : onlyChanges ps a0 b) : onlyChanges ps a0 (postEventAt stamp code frame data b) := by
  refine onlyChanges_step ?_ hp h0
  unfold postEventAt
  repeat' (first
    | with_reducible assumption
    | with_reducible exact onlyChanges_refl _ _
    | with_reducible refine Block.modOpal_posts_frame (by decide) (fun _ => by exact rfl) ?_
    | with_reducible refine flushEvents_frame (by decide) ?_
    | (with_reducible refine onlyChanges_foldl ?_ ?_; intro x y hx)
    | (extract_lets +onlyGivenNames x; refine imp_app (p := onlyChanges _ _ x) ?_ (fun hx => ?_); rotate_left; clear_value x; rotate_right)
    | extract_lets +onlyGivenNames x
    | split
    | dsimp only
    | with_reducible refine upd_posts_frame (by decide) (by exact rfl) ?_
    | subst x
    | (intro x))

theorem postEvent_frame {code : Nat} {frame : Nat} {data : List Byte} {a0 b : Block} {ps : List Piece} (hp : [.posts, .out] ⊆ ps)
    (h0 : onlyChanges ps a0 b) : onlyChanges ps a0 (postEvent code frame data b) := by
  refine onlyChanges_step ?_ hp h0
  unfold postEvent
  repeat' (first
    | with_reducible assumption
    | with_reducible exact onlyChanges_refl _ _
    | with_reducible refine Block.modOpal_posts_frame (by decide) (fun _ => by exact rfl) ?_
    | with_reducible refine postEventAt_frame (by decide) ?_
    | (with_reducible refine onlyChanges_foldl ?_ ?_; intro x y hx)
    | (extract_lets +onlyGivenNames x; refine imp_app (p := onlyChanges _ _ x) ?_ (fun hx => ?_); rotate_left; clear_value x; rotate_right)
    | extract_lets +onlyGivenNames x
    | split
    | dsimp only
    | subst x
    | (intro x))

theorem stopRing_frame {r : Nat} {a0 b : Block} {ps : List Piece} (hp : [.posts] ⊆ ps)
    (h0 : onlyChanges ps a0 b) : onlyChanges ps a0 (stopRing r b) := by
  refine onlyChanges_step ?_ hp h0
  unfold stopRing
  repeat' (first
    | with_reducible assumption
    | with_reducible exact onlyChanges_refl _ _
    | with_reducible refine Block.modOpal_posts_frame (by decide) (fun _ => by exact rfl) ?_
    | with_reducible refine Block.setRing_frame (by decide) ?_
    | with_reducible refine Block.setCtx_frame (by decide) ?_
    | (with_reducible refine onlyChanges_foldl ?_ ?_; intro x y hx)
    | (extract_lets +onlyGivenNames x; refine imp_app (p := onlyChanges _ _ x) ?_ (fun hx => ?_); rotate_left; clear_value x; rotate_right)
    | extract_lets +onlyGivenNames x
    | split
    | dsimp only
    | subst x
    | (intro x))

theorem countRecord_frame {rec_ : List Byte} {a0 b : Block} {ps : List Piece} (hp : [.posts, .evr, .trace] ⊆ ps)
    (h0 : onlyChanges ps a0 b) : onlyChanges ps a0 (countRecord rec_ b) := by
  refine onlyChanges_step ?_ hp h0
  unfold countRecord
  repeat' (first
    | with_reducible assumption
    | with_reducible exact onlyChanges_refl _ _
    | with_reducible refine Block.modOpal_posts_frame (by decide) (fun _ => by exact rfl) ?_
    | with_reducible refine Block.logEvr_frame (by decide) ?_
    | with_reducible refine Block.modOpal_frame (by decide) ?_
    | (with_reducible refine onlyChanges_foldl ?_ ?_; intro x y hx)
    | (extract_lets +onlyGivenNames x; refine imp_app (p := onlyChanges _ _ x) ?_ (fun hx => ?_); rotate_left; clear_value x; rotate_right)
    | extract_lets +onlyGivenNames x
    | split
    | dsimp only
    | subst x
    | (intro x))

theorem flushRing_frame {k r : Nat} {a0 b : Block} {ps : List Piece} (hp : [.posts, .evr, .trace, .out] ⊆ ps)
    (h : onlyChanges ps a0 b) : onlyChanges ps a0 (flushRing k r b) := by
  refine onlyChanges_step ?_ hp h
  clear h hp
  induction k generalizing b with
  | zero => exact onlyChanges_refl _ _
  | succ k ih =>
    unfold flushRing
    repeat' (first
      | with_reducible assumption
      | with_reducible exact onlyChanges_refl _ _
      | with_reducible refine Block.modOpal_posts_frame (by decide) (fun _ => by exact rfl) ?_
      | with_reducible refine onlyChanges_trans ?_ ih
      | with_reducible refine countRecord_frame (by decide) ?_
      | with_reducible refine stopRing_frame (by decide) ?_
      | with_reducible refine postEvent_frame (by decide) ?_
      | with_reducible refine writeRecord_frame (by decide) ?_
      | with_reducible refine Block.setRing_frame (by decide) ?_
      | with_reducible refine requestMsg_frame (by decide) ?_
      | (with_reducible refine onlyChanges_foldl ?_ ?_; intro x y hx)
      | (extract_lets +onlyGivenNames x; refine imp_app (p := onlyChanges _ _ x) ?_ (fun hx => ?_); rotate_left; clear_value x; rotate_right)
      | extract_lets +onlyGivenNames x
      | split
      | dsimp only
      | subst x
      | (intro x))

theorem dispatchRing_frame {r : Nat} {a0 b : Block} {ps : List Piece} (hp : [.posts] ⊆ ps)
    (h0 : onlyChanges ps a0 b) : onlyChanges ps a0 (dispatchRing r b) := by
  refine onlyChanges_step ?_ hp h0
  unfold dispatchRing
  repeat' (first
    | with_reducible assumption
    | with_reducible exact onlyChanges_refl _ _
    | with_reducible refine Block.modOpal_posts_frame (by decide) (fun _ => by exact rfl) ?_
    | with_reducible refine Block.setRing_frame (by decide) ?_
    | with_reducible refine Block.modOpal_frame (by decide) ?_
    | (with_reducible refine onlyChanges_foldl ?_ ?_; intro x y hx)
    | (extract_lets +onlyGivenNames x; refine imp_app (p := onlyChanges _ _ x) ?_ (fun hx => ?_); rotate_left; clear_value x; rotate_right)
    | extract_lets +onlyGivenNames x
    | split
    | dsimp only
    | subst x
    | (intro x))

theorem pumpRing_frame {k r : Nat} {a0 b : Block} {ps : List Piece} (hp : [.posts, .evr, .trace, .out] ⊆ ps)
    (h : onlyChanges ps a0 b) : onlyChanges ps a0 (pumpRing k r b) := by
  refine onlyChanges_step ?_ hp h
  clear h hp
  induction k generalizing b with
  | zero => exact onlyChanges_refl _ _
  | succ k ih =>
    unfold pumpRing
    repeat' (first
      | with_reducible assumption
      | with_reducible exact onlyChanges_refl _ _
      | with_reducible refine Block.modOpal_posts_frame (by decide) (fun _ => by exact rfl) ?_
      | with_reducible refine onlyChanges_trans ?_ ih
      | with_reducible refine dispatchRing_frame (by decide) ?_
      | with_reducible refine flushRing_frame (by decide) ?_
      | (with_reducible refine onlyChanges_foldl ?_ ?_; intro x y hx)
      | (extract_lets +onlyGivenNames x; refine imp_app (p := onlyChanges _ _ x) ?_ (fun hx => ?_); rotate_left; clear_value x; rotate_right)
      | extract_lets +onlyGivenNames x
      | split
      | dsimp only
      | subst x
      | (intro x))

theorem serveRing_frame {r : Nat} {a0 b : Block} {ps : List Piece} (hp : [.posts, .evr, .trace, .out] ⊆ ps)
    (h0 : onlyChanges ps a0 b) : onlyChanges ps a0 (serveRing r b) := by
  refine onlyChanges_step ?_ hp h0
  unfold serveRing
  repeat' (first
    | with_reducible assumption
    | with_reducible exact onlyChanges_refl _ _
    | with_reducible refine Block.modOpal_posts_frame (by decide) (fun _ => by exact rfl) ?_
    | with_reducible refine pumpRing_frame (by decide) ?_
    | with_reducible refine flushEvents_frame (by decide) ?_
    | (with_reducible refine onlyChanges_foldl ?_ ?_; intro x y hx)
    | (extract_lets +onlyGivenNames x; refine imp_app (p := onlyChanges _ _ x) ?_ (fun hx => ?_); rotate_left; clear_value x; rotate_right)
    | extract_lets +onlyGivenNames x
    | split
    | dsimp only
    | subst x
    | (intro x))

theorem finish_frame {r : Nat} {idx : Nat} {st : Nat} {fr : Nat} {val : Nat} {det : Nat} {a0 b : Block} {ps : List Piece} (hp : [.posts, .evr, .trace, .out] ⊆ ps)
    (h0 : onlyChanges ps a0 b) : onlyChanges ps a0 (finish r idx st fr val det b) := by
  refine onlyChanges_step ?_ hp h0
  unfold finish
  repeat' (first
    | with_reducible assumption
    | with_reducible exact onlyChanges_refl _ _
    | with_reducible refine Block.modOpal_posts_frame (by decide) (fun _ => by exact rfl) ?_
    | with_reducible refine serveRing_frame (by decide) ?_
    | with_reducible refine Block.setRing_frame (by decide) ?_
    | with_reducible refine Block.modOpal_frame (by decide) ?_
    | (with_reducible refine onlyChanges_foldl ?_ ?_; intro x y hx)
    | (extract_lets +onlyGivenNames x; refine imp_app (p := onlyChanges _ _ x) ?_ (fun hx => ?_); rotate_left; clear_value x; rotate_right)
    | extract_lets +onlyGivenNames x
    | split
    | dsimp only
    | subst x
    | (intro x))

theorem finishCtrl_frame {idx : Nat} {st : Nat} {fr : Nat} {val : Nat} {det : Nat} {a0 b : Block} {ps : List Piece} (hp : [.posts, .evr, .trace, .out] ⊆ ps)
    (h0 : onlyChanges ps a0 b) : onlyChanges ps a0 (finishCtrl idx st fr val det b) := by
  refine onlyChanges_step ?_ hp h0
  unfold finishCtrl
  repeat' (first
    | with_reducible assumption
    | with_reducible exact onlyChanges_refl _ _
    | with_reducible refine Block.modOpal_posts_frame (by decide) (fun _ => by exact rfl) ?_
    | with_reducible refine finish_frame (by decide) ?_
    | (with_reducible refine onlyChanges_foldl ?_ ?_; intro x y hx)
    | (extract_lets +onlyGivenNames x; refine imp_app (p := onlyChanges _ _ x) ?_ (fun hx => ?_); rotate_left; clear_value x; rotate_right)
    | extract_lets +onlyGivenNames x
    | split
    | dsimp only
    | subst x
    | (intro x))

theorem restampDescs_frame {i : Island} {a0 b : Block} {ps : List Piece} (hp : [.posts] ⊆ ps)
    (h0 : onlyChanges ps a0 b) : onlyChanges ps a0 (restampDescs i b) := by
  refine onlyChanges_step ?_ hp h0
  unfold restampDescs
  repeat' (first
    | with_reducible assumption
    | with_reducible exact onlyChanges_refl _ _
    | with_reducible refine Block.modOpal_posts_frame (by decide) (fun _ => by exact rfl) ?_
    | with_reducible refine Block.modOpal_frame (by decide) ?_
    | (with_reducible refine onlyChanges_foldl ?_ ?_; intro x y hx)
    | (extract_lets +onlyGivenNames x; refine imp_app (p := onlyChanges _ _ x) ?_ (fun hx => ?_); rotate_left; clear_value x; rotate_right)
    | extract_lets +onlyGivenNames x
    | split
    | dsimp only
    | subst x
    | (intro x))

end Sys2Proof.Machine
end

