-- ==== Sys2Proof/Laws/FrameQuartz.lean ====
section
/-! SUPPORT. Frames of the operations of Disc, Tod, Quartz. -/

namespace Sys2Proof.Machine

theorem discPend_frame {goal : DiscState} {cause : HoldCause} {a0 b : Block} {ps : List Piece} (hp : [.disc] ⊆ ps)
    (h0 : onlyChanges ps a0 b) : onlyChanges ps a0 (discPend goal cause b) := by
  refine onlyChanges_step ?_ hp h0
  unfold discPend
  repeat' (first
    | with_reducible assumption
    | with_reducible exact onlyChanges_refl _ _
    | with_reducible refine Block.modDisc_frame (by decide) ?_
    | (with_reducible refine onlyChanges_foldl ?_ ?_; intro x y hx)
    | (extract_lets +onlyGivenNames x; refine imp_app (p := onlyChanges _ _ x) ?_ (fun hx => ?_); rotate_left; clear_value x; rotate_right)
    | extract_lets +onlyGivenNames x
    | split
    | dsimp only
    | subst x
    | (intro x))

theorem discQualify_frame {a0 b : Block} {ps : List Piece} (hp : [.disc] ⊆ ps)
    (h0 : onlyChanges ps a0 b) : onlyChanges ps a0 (discQualify b) := by
  refine onlyChanges_step ?_ hp h0
  unfold discQualify
  repeat' (first
    | with_reducible assumption
    | with_reducible exact onlyChanges_refl _ _
    | with_reducible refine Block.modDisc_frame (by decide) ?_
    | (with_reducible refine onlyChanges_foldl ?_ ?_; intro x y hx)
    | (extract_lets +onlyGivenNames x; refine imp_app (p := onlyChanges _ _ x) ?_ (fun hx => ?_); rotate_left; clear_value x; rotate_right)
    | extract_lets +onlyGivenNames x
    | split
    | dsimp only
    | subst x
    | (intro x))

theorem discAcquire_frame {a0 b : Block} {ps : List Piece} (hp : [.disc] ⊆ ps)
    (h0 : onlyChanges ps a0 b) : onlyChanges ps a0 (discAcquire b) := by
  refine onlyChanges_step ?_ hp h0
  unfold discAcquire
  repeat' (first
    | with_reducible assumption
    | with_reducible exact onlyChanges_refl _ _
    | with_reducible refine discQualify_frame (by decide) ?_
    | with_reducible refine Block.modDisc_frame (by decide) ?_
    | (with_reducible refine onlyChanges_foldl ?_ ?_; intro x y hx)
    | (extract_lets +onlyGivenNames x; refine imp_app (p := onlyChanges _ _ x) ?_ (fun hx => ?_); rotate_left; clear_value x; rotate_right)
    | extract_lets +onlyGivenNames x
    | split
    | dsimp only
    | subst x
    | (intro x))

theorem discSettle_frame {a0 b : Block} {ps : List Piece} (hp : [.disc] ⊆ ps)
    (h0 : onlyChanges ps a0 b) : onlyChanges ps a0 (discSettle b) := by
  refine onlyChanges_step ?_ hp h0
  unfold discSettle
  repeat' (first
    | with_reducible assumption
    | with_reducible exact onlyChanges_refl _ _
    | with_reducible refine discAcquire_frame (by decide) ?_
    | with_reducible refine Block.modDisc_frame (by decide) ?_
    | (with_reducible refine onlyChanges_foldl ?_ ?_; intro x y hx)
    | (extract_lets +onlyGivenNames x; refine imp_app (p := onlyChanges _ _ x) ?_ (fun hx => ?_); rotate_left; clear_value x; rotate_right)
    | extract_lets +onlyGivenNames x
    | split
    | dsimp only
    | subst x
    | (intro x))

theorem discRestart_frame {a0 b : Block} {ps : List Piece} (hp : [.disc, .posts, .out] ⊆ ps)
    (h0 : onlyChanges ps a0 b) : onlyChanges ps a0 (discRestart b) := by
  refine onlyChanges_step ?_ hp h0
  unfold discRestart
  repeat' (first
    | with_reducible assumption
    | with_reducible exact onlyChanges_refl _ _
    | with_reducible refine discQualify_frame (by decide) ?_
    | with_reducible refine postEvent_frame (by decide) ?_
    | (with_reducible refine onlyChanges_foldl ?_ ?_; intro x y hx)
    | (extract_lets +onlyGivenNames x; refine imp_app (p := onlyChanges _ _ x) ?_ (fun hx => ?_); rotate_left; clear_value x; rotate_right)
    | extract_lets +onlyGivenNames x
    | split
    | dsimp only
    | subst x
    | (intro x))

theorem discEnter_frame {p : DiscPending} {t : Nat} {a0 b : Block} {ps : List Piece} (hp : [.disc, .posts, .out] ⊆ ps)
    (h0 : onlyChanges ps a0 b) : onlyChanges ps a0 (discEnter p t b) := by
  refine onlyChanges_step ?_ hp h0
  unfold discEnter
  repeat' (first
    | with_reducible assumption
    | with_reducible exact onlyChanges_refl _ _
    | with_reducible refine discQualify_frame (by decide) ?_
    | with_reducible refine postEvent_frame (by decide) ?_
    | with_reducible refine Block.modDisc_frame (by decide) ?_
    | (with_reducible refine onlyChanges_foldl ?_ ?_; intro x y hx)
    | (extract_lets +onlyGivenNames x; refine imp_app (p := onlyChanges _ _ x) ?_ (fun hx => ?_); rotate_left; clear_value x; rotate_right)
    | extract_lets +onlyGivenNames x
    | split
    | dsimp only
    | subst x
    | (intro x))

theorem discLoss_frame {a0 b : Block} {ps : List Piece} (hp : [.disc, .posts, .out] ⊆ ps)
    (h0 : onlyChanges ps a0 b) : onlyChanges ps a0 (discLoss b) := by
  refine onlyChanges_step ?_ hp h0
  unfold discLoss
  repeat' (first
    | with_reducible assumption
    | with_reducible exact onlyChanges_refl _ _
    | with_reducible refine discRestart_frame (by decide) ?_
    | with_reducible refine discPend_frame (by decide) ?_
    | with_reducible refine Block.modDisc_frame (by decide) ?_
    | (with_reducible refine onlyChanges_foldl ?_ ?_; intro x y hx)
    | (extract_lets +onlyGivenNames x; refine imp_app (p := onlyChanges _ _ x) ?_ (fun hx => ?_); rotate_left; clear_value x; rotate_right)
    | extract_lets +onlyGivenNames x
    | split
    | dsimp only
    | subst x
    | (intro x))

theorem discGlitch_frame {a0 b : Block} {ps : List Piece} (hp : [.disc] ⊆ ps)
    (h0 : onlyChanges ps a0 b) : onlyChanges ps a0 (discGlitch b) := by
  refine onlyChanges_step ?_ hp h0
  unfold discGlitch
  repeat' (first
    | with_reducible assumption
    | with_reducible exact onlyChanges_refl _ _
    | with_reducible refine discPend_frame (by decide) ?_
    | with_reducible refine Block.modDisc_frame (by decide) ?_
    | (with_reducible refine onlyChanges_foldl ?_ ?_; intro x y hx)
    | (extract_lets +onlyGivenNames x; refine imp_app (p := onlyChanges _ _ x) ?_ (fun hx => ?_); rotate_left; clear_value x; rotate_right)
    | extract_lets +onlyGivenNames x
    | split
    | dsimp only
    | subst x
    | (intro x))

theorem windowClose_frame {stamp : Nat} {a0 b : Block} {ps : List Piece} (hp : [.disc] ⊆ ps)
    (h0 : onlyChanges ps a0 b) : onlyChanges ps a0 (windowClose stamp b) := by
  refine onlyChanges_step ?_ hp h0
  unfold windowClose
  repeat' (first
    | with_reducible assumption
    | with_reducible exact onlyChanges_refl _ _
    | with_reducible refine discPend_frame (by decide) ?_
    | with_reducible refine Block.modDisc_frame (by decide) ?_
    | (with_reducible refine onlyChanges_foldl ?_ ?_; intro x y hx)
    | (extract_lets +onlyGivenNames x; refine imp_app (p := onlyChanges _ _ x) ?_ (fun hx => ?_); rotate_left; clear_value x; rotate_right)
    | extract_lets +onlyGivenNames x
    | split
    | dsimp only
    | subst x
    | (intro x))

theorem measureClose_frame {stamp : Nat} {a0 b : Block} {ps : List Piece} (hp : [.disc] ⊆ ps)
    (h0 : onlyChanges ps a0 b) : onlyChanges ps a0 (measureClose stamp b) := by
  refine onlyChanges_step ?_ hp h0
  unfold measureClose
  repeat' (first
    | with_reducible assumption
    | with_reducible exact onlyChanges_refl _ _
    | with_reducible refine Block.modDisc_frame (by decide) ?_
    | (with_reducible refine onlyChanges_foldl ?_ ?_; intro x y hx)
    | (extract_lets +onlyGivenNames x; refine imp_app (p := onlyChanges _ _ x) ?_ (fun hx => ?_); rotate_left; clear_value x; rotate_right)
    | extract_lets +onlyGivenNames x
    | split
    | dsimp only
    | subst x
    | (intro x))

theorem lockStep_frame {err : Int} {a0 b : Block} {ps : List Piece} (hp : [.disc] ⊆ ps)
    (h0 : onlyChanges ps a0 b) : onlyChanges ps a0 (lockStep err b) := by
  refine onlyChanges_step ?_ hp h0
  unfold lockStep
  repeat' (first
    | with_reducible assumption
    | with_reducible exact onlyChanges_refl _ _
    | with_reducible refine discPend_frame (by decide) ?_
    | with_reducible refine Block.modDisc_frame (by decide) ?_
    | (with_reducible refine onlyChanges_foldl ?_ ?_; intro x y hx)
    | (extract_lets +onlyGivenNames x; refine imp_app (p := onlyChanges _ _ x) ?_ (fun hx => ?_); rotate_left; clear_value x; rotate_right)
    | extract_lets +onlyGivenNames x
    | split
    | dsimp only
    | subst x
    | (intro x))

theorem compareTake_frame {stamp : Nat} {a0 b : Block} {ps : List Piece} (hp : [.disc] ⊆ ps)
    (h0 : onlyChanges ps a0 b) : onlyChanges ps a0 (compareTake stamp b) := by
  refine onlyChanges_step ?_ hp h0
  unfold compareTake
  repeat' (first
    | with_reducible assumption
    | with_reducible exact onlyChanges_refl _ _
    | with_reducible refine Block.modDisc_frame (by decide) ?_
    | (with_reducible refine onlyChanges_foldl ?_ ?_; intro x y hx)
    | (extract_lets +onlyGivenNames x; refine imp_app (p := onlyChanges _ _ x) ?_ (fun hx => ?_); rotate_left; clear_value x; rotate_right)
    | extract_lets +onlyGivenNames x
    | split
    | dsimp only
    | subst x
    | (intro x))

theorem compareMeasure_frame {stamp : Nat} {a0 b : Block} {ps : List Piece} (hp : [.disc] ⊆ ps)
    (h0 : onlyChanges ps a0 b) : onlyChanges ps a0 (compareMeasure stamp b) := by
  refine onlyChanges_step ?_ hp h0
  unfold compareMeasure
  repeat' (first
    | with_reducible assumption
    | with_reducible exact onlyChanges_refl _ _
    | with_reducible refine measureClose_frame (by decide) ?_
    | (with_reducible refine onlyChanges_foldl ?_ ?_; intro x y hx)
    | (extract_lets +onlyGivenNames x; refine imp_app (p := onlyChanges _ _ x) ?_ (fun hx => ?_); rotate_left; clear_value x; rotate_right)
    | extract_lets +onlyGivenNames x
    | split
    | dsimp only
    | subst x
    | (intro x))

theorem comparePull_frame {stamp : Nat} {a0 b : Block} {ps : List Piece} (hp : [.disc] ⊆ ps)
    (h0 : onlyChanges ps a0 b) : onlyChanges ps a0 (comparePull stamp b) := by
  refine onlyChanges_step ?_ hp h0
  unfold comparePull
  repeat' (first
    | with_reducible assumption
    | with_reducible exact onlyChanges_refl _ _
    | with_reducible refine Block.modDisc_frame (by decide) ?_
    | (with_reducible refine onlyChanges_foldl ?_ ?_; intro x y hx)
    | (extract_lets +onlyGivenNames x; refine imp_app (p := onlyChanges _ _ x) ?_ (fun hx => ?_); rotate_left; clear_value x; rotate_right)
    | extract_lets +onlyGivenNames x
    | split
    | dsimp only
    | subst x
    | (intro x))

theorem compareAdopt_frame {err : Int} {a0 b : Block} {ps : List Piece} (hp : [.disc] ⊆ ps)
    (h0 : onlyChanges ps a0 b) : onlyChanges ps a0 (compareAdopt err b) := by
  refine onlyChanges_step ?_ hp h0
  unfold compareAdopt
  repeat' (first
    | with_reducible assumption
    | with_reducible exact onlyChanges_refl _ _
    | with_reducible refine Block.modDisc_frame (by decide) ?_
    | (with_reducible refine onlyChanges_foldl ?_ ?_; intro x y hx)
    | (extract_lets +onlyGivenNames x; refine imp_app (p := onlyChanges _ _ x) ?_ (fun hx => ?_); rotate_left; clear_value x; rotate_right)
    | extract_lets +onlyGivenNames x
    | split
    | dsimp only
    | subst x
    | (intro x))

theorem compareErr_frame {stamp : Nat} {err : Int} {a0 b : Block} {ps : List Piece} (hp : [.disc] ⊆ ps)
    (h0 : onlyChanges ps a0 b) : onlyChanges ps a0 (compareErr stamp err b) := by
  refine onlyChanges_step ?_ hp h0
  unfold compareErr
  repeat' (first
    | with_reducible assumption
    | with_reducible exact onlyChanges_refl _ _
    | with_reducible refine compareAdopt_frame (by decide) ?_
    | with_reducible refine compareMeasure_frame (by decide) ?_
    | with_reducible refine lockStep_frame (by decide) ?_
    | with_reducible refine windowClose_frame (by decide) ?_
    | with_reducible refine discGlitch_frame (by decide) ?_
    | with_reducible refine Block.modDisc_frame (by decide) ?_
    | (with_reducible refine onlyChanges_foldl ?_ ?_; intro x y hx)
    | (extract_lets +onlyGivenNames x; refine imp_app (p := onlyChanges _ _ x) ?_ (fun hx => ?_); rotate_left; clear_value x; rotate_right)
    | extract_lets +onlyGivenNames x
    | split
    | dsimp only
    | subst x
    | (intro x))

theorem compareAt_frame {stamp : Nat} {a0 b : Block} {ps : List Piece} (hp : [.disc, .evr, .trace] ⊆ ps)
    (h0 : onlyChanges ps a0 b) : onlyChanges ps a0 (compareAt stamp b) := by
  refine onlyChanges_step ?_ hp h0
  unfold compareAt
  repeat' (first
    | with_reducible assumption
    | with_reducible exact onlyChanges_refl _ _
    | with_reducible refine compareErr_frame (by decide) ?_
    | with_reducible refine comparePull_frame (by decide) ?_
    | with_reducible refine compareMeasure_frame (by decide) ?_
    | with_reducible refine compareTake_frame (by decide) ?_
    | with_reducible refine windowClose_frame (by decide) ?_
    | with_reducible refine Block.logEvr_frame (by decide) ?_
    | (with_reducible refine onlyChanges_foldl ?_ ?_; intro x y hx)
    | (extract_lets +onlyGivenNames x; refine imp_app (p := onlyChanges _ _ x) ?_ (fun hx => ?_); rotate_left; clear_value x; rotate_right)
    | extract_lets +onlyGivenNames x
    | split
    | dsimp only
    | subst x
    | (intro x))

theorem refInEdge_frame {stamp : Nat} {level : Bool} {held : Nat} {a0 b : Block} {ps : List Piece} (hp : [.quartz, .disc] ⊆ ps)
    (h0 : onlyChanges ps a0 b) : onlyChanges ps a0 (refInEdge stamp level held b) := by
  refine onlyChanges_step ?_ hp h0
  unfold refInEdge
  repeat' (first
    | with_reducible assumption
    | with_reducible exact onlyChanges_refl _ _
    | with_reducible refine Block.advance_frame (by decide) ?_
    | with_reducible refine Block.modDisc_frame (by decide) ?_
    | (with_reducible refine onlyChanges_foldl ?_ ?_; intro x y hx)
    | (extract_lets +onlyGivenNames x; refine imp_app (p := onlyChanges _ _ x) ?_ (fun hx => ?_); rotate_left; clear_value x; rotate_right)
    | extract_lets +onlyGivenNames x
    | split
    | dsimp only
    | subst x
    | (intro x))

theorem compareEvent_frame {a0 b : Block} {ps : List Piece} (hp : [.quartz, .disc, .evr, .trace] ⊆ ps)
    (h0 : onlyChanges ps a0 b) : onlyChanges ps a0 (compareEvent b) := by
  refine onlyChanges_step ?_ hp h0
  unfold compareEvent
  repeat' (first
    | with_reducible assumption
    | with_reducible exact onlyChanges_refl _ _
    | with_reducible refine compareAt_frame (by decide) ?_
    | with_reducible refine Block.advance_frame (by decide) ?_
    | with_reducible refine Block.modDisc_frame (by decide) ?_
    | (with_reducible refine onlyChanges_foldl ?_ ?_; intro x y hx)
    | (extract_lets +onlyGivenNames x; refine imp_app (p := onlyChanges _ _ x) ?_ (fun hx => ?_); rotate_left; clear_value x; rotate_right)
    | extract_lets +onlyGivenNames x
    | split
    | dsimp only
    | subst x
    | (intro x))

theorem refLoss_frame {a0 b : Block} {ps : List Piece} (hp : [.quartz, .disc, .posts, .out] ⊆ ps)
    (h0 : onlyChanges ps a0 b) : onlyChanges ps a0 (refLoss b) := by
  refine onlyChanges_step ?_ hp h0
  unfold refLoss
  repeat' (first
    | with_reducible assumption
    | with_reducible exact onlyChanges_refl _ _
    | with_reducible refine discLoss_frame (by decide) ?_
    | with_reducible refine Block.advance_frame (by decide) ?_
    | (with_reducible refine onlyChanges_foldl ?_ ?_; intro x y hx)
    | (extract_lets +onlyGivenNames x; refine imp_app (p := onlyChanges _ _ x) ?_ (fun hx => ?_); rotate_left; clear_value x; rotate_right)
    | extract_lets +onlyGivenNames x
    | split
    | dsimp only
    | subst x
    | (intro x))

theorem qualificationEnd_frame {a0 b : Block} {ps : List Piece} (hp : [.quartz, .disc] ⊆ ps)
    (h0 : onlyChanges ps a0 b) : onlyChanges ps a0 (qualificationEnd b) := by
  refine onlyChanges_step ?_ hp h0
  unfold qualificationEnd
  repeat' (first
    | with_reducible assumption
    | with_reducible exact onlyChanges_refl _ _
    | with_reducible refine discSettle_frame (by decide) ?_
    | with_reducible refine discQualify_frame (by decide) ?_
    | with_reducible refine Block.advance_frame (by decide) ?_
    | with_reducible refine Block.modDisc_frame (by decide) ?_
    | (with_reducible refine onlyChanges_foldl ?_ ?_; intro x y hx)
    | (extract_lets +onlyGivenNames x; refine imp_app (p := onlyChanges _ _ x) ?_ (fun hx => ?_); rotate_left; clear_value x; rotate_right)
    | extract_lets +onlyGivenNames x
    | split
    | dsimp only
    | subst x
    | (intro x))

theorem acquireTimeout_frame {a0 b : Block} {ps : List Piece} (hp : [.quartz, .disc, .posts, .out] ⊆ ps)
    (h0 : onlyChanges ps a0 b) : onlyChanges ps a0 (acquireTimeout b) := by
  refine onlyChanges_step ?_ hp h0
  unfold acquireTimeout
  repeat' (first
    | with_reducible assumption
    | with_reducible exact onlyChanges_refl _ _
    | with_reducible refine discRestart_frame (by decide) ?_
    | with_reducible refine Block.advance_frame (by decide) ?_
    | (with_reducible refine onlyChanges_foldl ?_ ?_; intro x y hx)
    | (extract_lets +onlyGivenNames x; refine imp_app (p := onlyChanges _ _ x) ?_ (fun hx => ?_); rotate_left; clear_value x; rotate_right)
    | extract_lets +onlyGivenNames x
    | split
    | dsimp only
    | subst x
    | (intro x))

theorem stageAlignment_frame {a0 b : Block} {ps : List Piece} (hp : [.quartz, .disc] ⊆ ps)
    (h0 : onlyChanges ps a0 b) : onlyChanges ps a0 (stageAlignment b) := by
  refine onlyChanges_step ?_ hp h0
  unfold stageAlignment
  repeat' (first
    | with_reducible assumption
    | with_reducible exact onlyChanges_refl _ _
    | with_reducible refine Block.modDisc_frame (by decide) ?_
    | with_reducible refine Block.modQuartz_frame (by decide) ?_
    | (with_reducible refine onlyChanges_foldl ?_ ?_; intro x y hx)
    | (extract_lets +onlyGivenNames x; refine imp_app (p := onlyChanges _ _ x) ?_ (fun hx => ?_); rotate_left; clear_value x; rotate_right)
    | extract_lets +onlyGivenNames x
    | split
    | dsimp only
    | subst x
    | (intro x))

theorem alignmentStage_frame {a0 b : Block} {ps : List Piece} (hp : [.quartz, .disc] ⊆ ps)
    (h0 : onlyChanges ps a0 b) : onlyChanges ps a0 (alignmentStage b) := by
  refine onlyChanges_step ?_ hp h0
  unfold alignmentStage
  repeat' (first
    | with_reducible assumption
    | with_reducible exact onlyChanges_refl _ _
    | with_reducible refine stageAlignment_frame (by decide) ?_
    | with_reducible refine Block.advance_frame (by decide) ?_
    | with_reducible refine Block.modDisc_frame (by decide) ?_
    | (with_reducible refine onlyChanges_foldl ?_ ?_; intro x y hx)
    | (extract_lets +onlyGivenNames x; refine imp_app (p := onlyChanges _ _ x) ?_ (fun hx => ?_); rotate_left; clear_value x; rotate_right)
    | extract_lets +onlyGivenNames x
    | split
    | dsimp only
    | subst x
    | (intro x))

theorem alignmentCheckEnd_frame {a0 b : Block} {ps : List Piece} (hp : [.quartz, .disc] ⊆ ps)
    (h0 : onlyChanges ps a0 b) : onlyChanges ps a0 (alignmentCheckEnd b) := by
  refine onlyChanges_step ?_ hp h0
  unfold alignmentCheckEnd
  repeat' (first
    | with_reducible assumption
    | with_reducible exact onlyChanges_refl _ _
    | with_reducible refine discAcquire_frame (by decide) ?_
    | with_reducible refine discQualify_frame (by decide) ?_
    | with_reducible refine discPend_frame (by decide) ?_
    | with_reducible refine Block.advance_frame (by decide) ?_
    | with_reducible refine Block.modDisc_frame (by decide) ?_
    | (with_reducible refine onlyChanges_foldl ?_ ?_; intro x y hx)
    | (extract_lets +onlyGivenNames x; refine imp_app (p := onlyChanges _ _ x) ?_ (fun hx => ?_); rotate_left; clear_value x; rotate_right)
    | extract_lets +onlyGivenNames x
    | split
    | dsimp only
    | subst x
    | (intro x))

theorem relock_frame {desc : Nat} {a0 b : Block} {ps : List Piece} (hp : [.disc, .posts, .evr, .trace, .out] ⊆ ps)
    (h0 : onlyChanges ps a0 b) : onlyChanges ps a0 (relock desc b) := by
  refine onlyChanges_step ?_ hp h0
  unfold relock
  repeat' (first
    | with_reducible assumption
    | with_reducible exact onlyChanges_refl _ _
    | with_reducible refine discPend_frame (by decide) ?_
    | with_reducible refine finishCtrl_frame (by decide) ?_
    | with_reducible refine Block.modDisc_frame (by decide) ?_
    | (with_reducible refine onlyChanges_foldl ?_ ?_; intro x y hx)
    | (extract_lets +onlyGivenNames x; refine imp_app (p := onlyChanges _ _ x) ?_ (fun hx => ?_); rotate_left; clear_value x; rotate_right)
    | extract_lets +onlyGivenNames x
    | split
    | dsimp only
    | subst x
    | (intro x))

theorem discTakeStart_frame {a0 b : Block} {ps : List Piece} (hp : [.disc] ⊆ ps)
    (h0 : onlyChanges ps a0 b) : onlyChanges ps a0 (discTakeStart b) := by
  refine onlyChanges_step ?_ hp h0
  unfold discTakeStart
  repeat' (first
    | with_reducible assumption
    | with_reducible exact onlyChanges_refl _ _
    | with_reducible refine discPend_frame (by decide) ?_
    | (with_reducible refine onlyChanges_foldl ?_ ?_; intro x y hx)
    | (extract_lets +onlyGivenNames x; refine imp_app (p := onlyChanges _ _ x) ?_ (fun hx => ?_); rotate_left; clear_value x; rotate_right)
    | extract_lets +onlyGivenNames x
    | split
    | dsimp only
    | subst x
    | (intro x))

theorem relockSlew_frame {t : Nat} {a0 b : Block} {ps : List Piece} (hp : [.disc] ⊆ ps)
    (h0 : onlyChanges ps a0 b) : onlyChanges ps a0 (relockSlew t b) := by
  refine onlyChanges_step ?_ hp h0
  unfold relockSlew
  repeat' (first
    | with_reducible assumption
    | with_reducible exact onlyChanges_refl _ _
    | with_reducible refine Block.modDisc_frame (by decide) ?_
    | (with_reducible refine onlyChanges_foldl ?_ ?_; intro x y hx)
    | (extract_lets +onlyGivenNames x; refine imp_app (p := onlyChanges _ _ x) ?_ (fun hx => ?_); rotate_left; clear_value x; rotate_right)
    | extract_lets +onlyGivenNames x
    | split
    | dsimp only
    | subst x
    | (intro x))

theorem refCfgWrite_frame {old : RefCfg} {new : RefCfg} {a0 b : Block} {ps : List Piece} (hp : [.disc] ⊆ ps)
    (h0 : onlyChanges ps a0 b) : onlyChanges ps a0 (refCfgWrite old new b) := by
  refine onlyChanges_step ?_ hp h0
  unfold refCfgWrite
  repeat' (first
    | with_reducible assumption
    | with_reducible exact onlyChanges_refl _ _
    | with_reducible refine Block.modDisc_frame (by decide) ?_
    | (with_reducible refine onlyChanges_foldl ?_ ?_; intro x y hx)
    | (extract_lets +onlyGivenNames x; refine imp_app (p := onlyChanges _ _ x) ?_ (fun hx => ?_); rotate_left; clear_value x; rotate_right)
    | extract_lets +onlyGivenNames x
    | split
    | dsimp only
    | subst x
    | (intro x))

theorem refChangeState_frame {c : RefChange} {a0 b : Block} {ps : List Piece} (hp : [.disc, .posts, .out] ⊆ ps)
    (h0 : onlyChanges ps a0 b) : onlyChanges ps a0 (refChangeState c b) := by
  refine onlyChanges_step ?_ hp h0
  unfold refChangeState
  repeat' (first
    | with_reducible assumption
    | with_reducible exact onlyChanges_refl _ _
    | with_reducible refine discRestart_frame (by decide) ?_
    | with_reducible refine discQualify_frame (by decide) ?_
    | with_reducible refine Block.modDisc_frame (by decide) ?_
    | (with_reducible refine onlyChanges_foldl ?_ ?_; intro x y hx)
    | (extract_lets +onlyGivenNames x; refine imp_app (p := onlyChanges _ _ x) ?_ (fun hx => ?_); rotate_left; clear_value x; rotate_right)
    | extract_lets +onlyGivenNames x
    | split
    | dsimp only
    | subst x
    | (intro x))

theorem refCfgChange_frame {t : Nat} {a0 b : Block} {ps : List Piece} (hp : [.disc, .posts, .out] ⊆ ps)
    (h0 : onlyChanges ps a0 b) : onlyChanges ps a0 (refCfgChange t b) := by
  refine onlyChanges_step ?_ hp h0
  unfold refCfgChange
  repeat' (first
    | with_reducible assumption
    | with_reducible exact onlyChanges_refl _ _
    | with_reducible refine refChangeState_frame (by decide) ?_
    | with_reducible refine Block.modDisc_frame (by decide) ?_
    | (with_reducible refine onlyChanges_foldl ?_ ?_; intro x y hx)
    | (extract_lets +onlyGivenNames x; refine imp_app (p := onlyChanges _ _ x) ?_ (fun hx => ?_); rotate_left; clear_value x; rotate_right)
    | extract_lets +onlyGivenNames x
    | split
    | dsimp only
    | subst x
    | (intro x))

theorem discAtCad1_frame {t : Nat} {newCad own : Bool} {a0 b : Block} {ps : List Piece} (hp : [.quartz, .disc, .posts, .out] ⊆ ps)
    (h : onlyChanges ps a0 b) : onlyChanges ps a0 (discAtCad1 t newCad own b).1 := by
  refine onlyChanges_step ?_ hp h
  unfold discAtCad1
  repeat' (first
    | with_reducible assumption
    | with_reducible exact onlyChanges_refl _ _
    | with_reducible refine refCfgChange_frame (by decide) ?_
    | with_reducible refine relockSlew_frame (by decide) ?_
    | with_reducible refine stageAlignment_frame (by decide) ?_
    | with_reducible refine discEnter_frame (by decide) ?_
    | with_reducible refine discSettle_frame (by decide) ?_
    | with_reducible refine Block.modDisc_frame (by decide) ?_
    | (with_reducible refine onlyChanges_foldl ?_ ?_; intro x y hx)
    | (extract_lets +onlyGivenNames x; refine imp_app (p := onlyChanges _ _ x) ?_ (fun hx => ?_); rotate_left; clear_value x; rotate_right)
    | extract_lets +onlyGivenNames x
    | split
    | dsimp only
    | subst x
    | (intro x))

theorem discAtCad1_pair {t : Nat} {newCad own : Bool} {a0 b b1 : Block} {x} {ps : List Piece} (he : discAtCad1 t newCad own b = (b1, x)) (hp : [.quartz, .disc, .posts, .out] ⊆ ps)
    (h : onlyChanges ps a0 b) : onlyChanges ps a0 b1 := by
  have k := discAtCad1_frame (t := t) (newCad := newCad) (own := own) hp h
  rw [he] at k
  exact k

theorem ppsInEdge_frame {stamp : Nat} {level : Bool} {held : Nat} {a0 b : Block} {ps : List Piece} (hp : [.quartz, .disc, .tod, .posts, .evr, .trace, .out] ⊆ ps)
    (h0 : onlyChanges ps a0 b) : onlyChanges ps a0 (ppsInEdge stamp level held b) := by
  refine onlyChanges_step ?_ hp h0
  unfold ppsInEdge
  repeat' (first
    | with_reducible assumption
    | with_reducible exact onlyChanges_refl _ _
    | with_reducible refine postEventAt_frame (by decide) ?_
    | with_reducible refine Block.logEvr_frame (by decide) ?_
    | with_reducible refine Block.advance_frame (by decide) ?_
    | with_reducible refine Block.modTod_frame (by decide) ?_
    | with_reducible refine Block.modDisc_frame (by decide) ?_
    | (with_reducible refine onlyChanges_foldl ?_ ?_; intro x y hx)
    | (extract_lets +onlyGivenNames x; refine imp_app (p := onlyChanges _ _ x) ?_ (fun hx => ?_); rotate_left; clear_value x; rotate_right)
    | extract_lets +onlyGivenNames x
    | split
    | dsimp only
    | subst x
    | (intro x))

theorem timeOfDay_frame {desc : Nat} {a0 b : Block} {ps : List Piece} (hp : [.tod, .posts, .evr, .trace, .out] ⊆ ps)
    (h0 : onlyChanges ps a0 b) : onlyChanges ps a0 (timeOfDay desc b) := by
  refine onlyChanges_step ?_ hp h0
  unfold timeOfDay
  repeat' (first
    | with_reducible assumption
    | with_reducible exact onlyChanges_refl _ _
    | with_reducible refine finishCtrl_frame (by decide) ?_
    | with_reducible refine postEvent_frame (by decide) ?_
    | with_reducible refine Block.logEvr_frame (by decide) ?_
    | with_reducible refine Block.modTod_frame (by decide) ?_
    | (with_reducible refine onlyChanges_foldl ?_ ?_; intro x y hx)
    | (extract_lets +onlyGivenNames x; refine imp_app (p := onlyChanges _ _ x) ?_ (fun hx => ?_); rotate_left; clear_value x; rotate_right)
    | extract_lets +onlyGivenNames x
    | split
    | dsimp only
    | subst x
    | (intro x))

theorem todAtCad1_frame {a0 b : Block} {ps : List Piece} (hp : [.tod] ⊆ ps)
    (h0 : onlyChanges ps a0 b) : onlyChanges ps a0 (todAtCad1 b) := by
  refine onlyChanges_step ?_ hp h0
  unfold todAtCad1
  repeat' (first
    | with_reducible assumption
    | with_reducible exact onlyChanges_refl _ _
    | with_reducible refine Block.modTod_frame (by decide) ?_
    | (with_reducible refine onlyChanges_foldl ?_ ?_; intro x y hx)
    | (extract_lets +onlyGivenNames x; refine imp_app (p := onlyChanges _ _ x) ?_ (fun hx => ?_); rotate_left; clear_value x; rotate_right)
    | extract_lets +onlyGivenNames x
    | split
    | dsimp only
    | subst x
    | (intro x))

theorem strobeTrigger_frame {k : Nat} {t : Nat} {a0 b : Block} {ps : List Piece} (hp : [.quartz] ⊆ ps)
    (h0 : onlyChanges ps a0 b) : onlyChanges ps a0 (strobeTrigger k t b) := by
  refine onlyChanges_step ?_ hp h0
  unfold strobeTrigger
  repeat' (first
    | with_reducible assumption
    | with_reducible exact onlyChanges_refl _ _
    | with_reducible refine Block.modQuartz_frame (by decide) ?_
    | (with_reducible refine onlyChanges_foldl ?_ ?_; intro x y hx)
    | (extract_lets +onlyGivenNames x; refine imp_app (p := onlyChanges _ _ x) ?_ (fun hx => ?_); rotate_left; clear_value x; rotate_right)
    | extract_lets +onlyGivenNames x
    | split
    | dsimp only
    | subst x
    | (intro x))

theorem channelEmit_frame {ch : Nat} {t : Nat} {a0 b : Block} {ps : List Piece} (hp : [.quartz, .ch, .trace] ⊆ ps)
    (h0 : onlyChanges ps a0 b) : onlyChanges ps a0 (channelEmit ch t b) := by
  refine onlyChanges_step ?_ hp h0
  unfold channelEmit
  repeat' (first
    | with_reducible assumption
    | with_reducible exact onlyChanges_refl _ _
    | with_reducible refine strobeTrigger_frame (by decide) ?_
    | with_reducible refine Block.modCh_frame (by decide) ?_
    | with_reducible refine Block.modQuartz_frame (by decide) ?_
    | (with_reducible refine onlyChanges_foldl ?_ ?_; intro x y hx)
    | (extract_lets +onlyGivenNames x; refine imp_app (p := onlyChanges _ _ x) ?_ (fun hx => ?_); rotate_left; clear_value x; rotate_right)
    | extract_lets +onlyGivenNames x
    | split
    | dsimp only
    | subst x
    | (intro x))

theorem Block.setChan_frame {ch : Nat} {c : Chan} {a0 b : Block} {ps : List Piece} (hp : [.quartz] ⊆ ps)
    (h0 : onlyChanges ps a0 b) : onlyChanges ps a0 (Block.setChan b ch c) := by
  refine onlyChanges_step ?_ hp h0
  unfold Block.setChan
  repeat' (first
    | with_reducible assumption
    | with_reducible exact onlyChanges_refl _ _
    | with_reducible refine Block.modQuartz_frame (by decide) ?_
    | (with_reducible refine onlyChanges_foldl ?_ ?_; intro x y hx)
    | (extract_lets +onlyGivenNames x; refine imp_app (p := onlyChanges _ _ x) ?_ (fun hx => ?_); rotate_left; clear_value x; rotate_right)
    | extract_lets +onlyGivenNames x
    | split
    | dsimp only
    | subst x
    | (intro x))

theorem lockTake_frame {mode : ChanMode} {ch : Nat} {base : Nat} {a0 b : Block} {ps : List Piece} (hp : [.quartz, .posts, .evr, .trace, .out] ⊆ ps)
    (h0 : onlyChanges ps a0 b) : onlyChanges ps a0 (lockTake mode ch base b) := by
  refine onlyChanges_step ?_ hp h0
  unfold lockTake
  repeat' (first
    | with_reducible assumption
    | with_reducible exact onlyChanges_refl _ _
    | with_reducible refine Block.setChan_frame (by decide) ?_
    | with_reducible refine finishCtrl_frame (by decide) ?_
    | (with_reducible refine onlyChanges_foldl ?_ ?_; intro x y hx)
    | (extract_lets +onlyGivenNames x; refine imp_app (p := onlyChanges _ _ x) ?_ (fun hx => ?_); rotate_left; clear_value x; rotate_right)
    | extract_lets +onlyGivenNames x
    | split
    | dsimp only
    | subst x
    | (intro x))

theorem lockDue_frame {mode : ChanMode} {ch : Nat} {t : Nat} {a0 b : Block} {ps : List Piece} (hp : [.quartz] ⊆ ps)
    (h0 : onlyChanges ps a0 b) : onlyChanges ps a0 (lockDue mode ch t b) := by
  refine onlyChanges_step ?_ hp h0
  unfold lockDue
  repeat' (first
    | with_reducible assumption
    | with_reducible exact onlyChanges_refl _ _
    | with_reducible refine Block.setChan_frame (by decide) ?_
    | (with_reducible refine onlyChanges_foldl ?_ ?_; intro x y hx)
    | (extract_lets +onlyGivenNames x; refine imp_app (p := onlyChanges _ _ x) ?_ (fun hx => ?_); rotate_left; clear_value x; rotate_right)
    | extract_lets +onlyGivenNames x
    | split
    | dsimp only
    | subst x
    | (intro x))

theorem lock0Source_frame {t : Nat} {a0 b : Block} {ps : List Piece} (hp : [.quartz, .posts, .evr, .trace, .out] ⊆ ps)
    (h0 : onlyChanges ps a0 b) : onlyChanges ps a0 (lock0Source t b) := by
  refine onlyChanges_step ?_ hp h0
  unfold lock0Source
  repeat' (first
    | with_reducible assumption
    | with_reducible exact onlyChanges_refl _ _
    | with_reducible refine lockDue_frame (by decide) ?_
    | with_reducible refine lockTake_frame (by decide) ?_
    | (with_reducible refine onlyChanges_foldl ?_ ?_; intro x y hx)
    | (extract_lets +onlyGivenNames x; refine imp_app (p := onlyChanges _ _ x) ?_ (fun hx => ?_); rotate_left; clear_value x; rotate_right)
    | extract_lets +onlyGivenNames x
    | split
    | dsimp only
    | subst x
    | (intro x))

theorem lock1Bridge_frame {ch : Nat} {t : Nat} {align : Nat} {a0 b : Block} {ps : List Piece} (hp : [.quartz] ⊆ ps)
    (h0 : onlyChanges ps a0 b) : onlyChanges ps a0 (lock1Bridge ch t align b) := by
  refine onlyChanges_step ?_ hp h0
  unfold lock1Bridge
  repeat' (first
    | with_reducible assumption
    | with_reducible exact onlyChanges_refl _ _
    | with_reducible refine Block.setChan_frame (by decide) ?_
    | (with_reducible refine onlyChanges_foldl ?_ ?_; intro x y hx)
    | (extract_lets +onlyGivenNames x; refine imp_app (p := onlyChanges _ _ x) ?_ (fun hx => ?_); rotate_left; clear_value x; rotate_right)
    | extract_lets +onlyGivenNames x
    | split
    | dsimp only
    | subst x
    | (intro x))

theorem lock1Source_frame {t : Nat} {align : Option Nat} {a0 b : Block} {ps : List Piece} (hp : [.quartz, .posts, .evr, .trace, .out] ⊆ ps)
    (h0 : onlyChanges ps a0 b) : onlyChanges ps a0 (lock1Source t align b) := by
  refine onlyChanges_step ?_ hp h0
  unfold lock1Source
  repeat' (first
    | with_reducible assumption
    | with_reducible exact onlyChanges_refl _ _
    | with_reducible refine lock1Bridge_frame (by decide) ?_
    | with_reducible refine lockDue_frame (by decide) ?_
    | with_reducible refine lockTake_frame (by decide) ?_
    | (with_reducible refine onlyChanges_foldl ?_ ?_; intro x y hx)
    | (extract_lets +onlyGivenNames x; refine imp_app (p := onlyChanges _ _ x) ?_ (fun hx => ?_); rotate_left; clear_value x; rotate_right)
    | extract_lets +onlyGivenNames x
    | split
    | dsimp only
    | subst x
    | (intro x))

theorem cad0Emit_frame {t : Nat} {last : Bool} {a0 b : Block} {ps : List Piece} (hp : [.quartz, .posts, .evr, .ch, .trace, .out] ⊆ ps)
    (h0 : onlyChanges ps a0 b) : onlyChanges ps a0 (cad0Emit t last b) := by
  refine onlyChanges_step ?_ hp h0
  unfold cad0Emit
  repeat' (first
    | with_reducible assumption
    | with_reducible exact onlyChanges_refl _ _
    | with_reducible refine lock0Source_frame (by decide) ?_
    | with_reducible refine channelEmit_frame (by decide) ?_
    | with_reducible refine Block.modCh_frame (by decide) ?_
    | (with_reducible refine onlyChanges_foldl ?_ ?_; intro x y hx)
    | (extract_lets +onlyGivenNames x; refine imp_app (p := onlyChanges _ _ x) ?_ (fun hx => ?_); rotate_left; clear_value x; rotate_right)
    | extract_lets +onlyGivenNames x
    | split
    | dsimp only
    | subst x
    | (intro x))

theorem cad1Send_frame {t : Nat} {g : Nat} {l : Nat} {refEvent : Bool} {a0 b : Block} {ps : List Piece} (hp : [.quartz, .evr, .ch, .trace] ⊆ ps)
    (h0 : onlyChanges ps a0 b) : onlyChanges ps a0 (cad1Send t g l refEvent b) := by
  refine onlyChanges_step ?_ hp h0
  unfold cad1Send
  repeat' (first
    | with_reducible assumption
    | with_reducible exact onlyChanges_refl _ _
    | with_reducible refine channelEmit_frame (by decide) ?_
    | with_reducible refine Block.logEvr_frame (by decide) ?_
    | with_reducible refine Block.modCh_frame (by decide) ?_
    | (with_reducible refine onlyChanges_foldl ?_ ?_; intro x y hx)
    | (extract_lets +onlyGivenNames x; refine imp_app (p := onlyChanges _ _ x) ?_ (fun hx => ?_); rotate_left; clear_value x; rotate_right)
    | extract_lets +onlyGivenNames x
    | split
    | dsimp only
    | subst x
    | (intro x))

theorem phaseRange_frame {reload : Nat} {a0 b : Block} {ps : List Piece} (hp : [.quartz, .posts, .out] ⊆ ps)
    (h0 : onlyChanges ps a0 b) : onlyChanges ps a0 (phaseRange reload b) := by
  refine onlyChanges_step ?_ hp h0
  unfold phaseRange
  repeat' (first
    | with_reducible assumption
    | with_reducible exact onlyChanges_refl _ _
    | with_reducible refine Block.setChan_frame (by decide) ?_
    | with_reducible refine postEvent_frame (by decide) ?_
    | (with_reducible refine onlyChanges_foldl ?_ ?_; intro x y hx)
    | (extract_lets +onlyGivenNames x; refine imp_app (p := onlyChanges _ _ x) ?_ (fun hx => ?_); rotate_left; clear_value x; rotate_right)
    | extract_lets +onlyGivenNames x
    | split
    | dsimp only
    | subst x
    | (intro x))

theorem cad1Period_frame {t : Nat} {c : Cadence} {refEvent : Bool} {a0 b : Block} {ps : List Piece} (hp : [.quartz, .posts, .evr, .ch, .trace, .out] ⊆ ps)
    (h0 : onlyChanges ps a0 b) : onlyChanges ps a0 (cad1Period t c refEvent b) := by
  refine onlyChanges_step ?_ hp h0
  unfold cad1Period
  repeat' (first
    | with_reducible assumption
    | with_reducible exact onlyChanges_refl _ _
    | with_reducible refine cad1Send_frame (by decide) ?_
    | with_reducible refine cad0Emit_frame (by decide) ?_
    | with_reducible refine lock1Source_frame (by decide) ?_
    | with_reducible refine Block.modQuartz_frame (by decide) ?_
    | (with_reducible refine onlyChanges_foldl ?_ ?_; intro x y hx)
    | (extract_lets +onlyGivenNames x; refine imp_app (p := onlyChanges _ _ x) ?_ (fun hx => ?_); rotate_left; clear_value x; rotate_right)
    | extract_lets +onlyGivenNames x
    | split
    | dsimp only
    | subst x
    | (intro x))

theorem cad1Event_frame {a0 b : Block} {ps : List Piece} (hp : [.quartz, .disc, .tod, .posts, .evr, .ch, .trace, .out] ⊆ ps)
    (h0 : onlyChanges ps a0 b) : onlyChanges ps a0 (cad1Event b) := by
  refine onlyChanges_step ?_ hp h0
  unfold cad1Event
  repeat' (first
    | with_reducible assumption
    | with_reducible exact onlyChanges_refl _ _
    | with_reducible refine cad1Period_frame (by decide) ?_
    | with_reducible refine phaseRange_frame (by decide) ?_
    | with_reducible refine cad1Send_frame (by decide) ?_
    | with_reducible refine cad0Emit_frame (by decide) ?_
    | with_reducible refine lock1Source_frame (by decide) ?_
    | with_reducible refine todAtCad1_frame (by decide) ?_
    | with_reducible refine discAtCad1_frame (by decide) ?_
    | with_reducible refine discAtCad1_pair (by assumption) (by decide) ?_
    | with_reducible refine Block.advance_frame (by decide) ?_
    | with_reducible refine Block.modQuartz_frame (by decide) ?_
    | (with_reducible refine onlyChanges_foldl ?_ ?_; intro x y hx)
    | (extract_lets +onlyGivenNames x; refine imp_app (p := onlyChanges _ _ x) ?_ (fun hx => ?_); rotate_left; clear_value x; rotate_right)
    | extract_lets +onlyGivenNames x
    | split
    | dsimp only
    | subst x
    | (intro x))

theorem cad0Event_frame {a0 b : Block} {ps : List Piece} (hp : [.quartz, .posts, .evr, .ch, .trace, .out] ⊆ ps)
    (h0 : onlyChanges ps a0 b) : onlyChanges ps a0 (cad0Event b) := by
  refine onlyChanges_step ?_ hp h0
  unfold cad0Event
  repeat' (first
    | with_reducible assumption
    | with_reducible exact onlyChanges_refl _ _
    | with_reducible refine cad0Emit_frame (by decide) ?_
    | with_reducible refine Block.advance_frame (by decide) ?_
    | with_reducible refine Block.modQuartz_frame (by decide) ?_
    | (with_reducible refine onlyChanges_foldl ?_ ?_; intro x y hx)
    | (extract_lets +onlyGivenNames x; refine imp_app (p := onlyChanges _ _ x) ?_ (fun hx => ?_); rotate_left; clear_value x; rotate_right)
    | extract_lets +onlyGivenNames x
    | split
    | dsimp only
    | subst x
    | (intro x))

theorem capApply_frame {a0 b : Block} {ps : List Piece} (hp : [.quartz] ⊆ ps)
    (h0 : onlyChanges ps a0 b) : onlyChanges ps a0 (capApply b) := by
  refine onlyChanges_step ?_ hp h0
  unfold capApply
  repeat' (first
    | with_reducible assumption
    | with_reducible exact onlyChanges_refl _ _
    | with_reducible refine Block.modQuartz_frame (by decide) ?_
    | (with_reducible refine onlyChanges_foldl ?_ ?_; intro x y hx)
    | (extract_lets +onlyGivenNames x; refine imp_app (p := onlyChanges _ _ x) ?_ (fun hx => ?_); rotate_left; clear_value x; rotate_right)
    | extract_lets +onlyGivenNames x
    | split
    | dsimp only
    | subst x
    | (intro x))

theorem cadence_frame {desc : Nat} {a0 b : Block} {ps : List Piece} (hp : [.quartz, .posts, .evr, .trace, .out] ⊆ ps)
    (h0 : onlyChanges ps a0 b) : onlyChanges ps a0 (cadence desc b) := by
  refine onlyChanges_step ?_ hp h0
  unfold cadence
  repeat' (first
    | with_reducible assumption
    | with_reducible exact onlyChanges_refl _ _
    | with_reducible refine Block.setChan_frame (by decide) ?_
    | with_reducible refine finishCtrl_frame (by decide) ?_
    | (with_reducible refine onlyChanges_foldl ?_ ?_; intro x y hx)
    | (extract_lets +onlyGivenNames x; refine imp_app (p := onlyChanges _ _ x) ?_ (fun hx => ?_); rotate_left; clear_value x; rotate_right)
    | extract_lets +onlyGivenNames x
    | split
    | dsimp only
    | subst x
    | (intro x))

theorem cadenceChannelEvent_frame {ch : Nat} {a0 b : Block} {ps : List Piece} (hp : [.quartz, .posts, .evr, .ch, .trace, .out] ⊆ ps)
    (h0 : onlyChanges ps a0 b) : onlyChanges ps a0 (cadenceChannelEvent ch b) := by
  refine onlyChanges_step ?_ hp h0
  unfold cadenceChannelEvent
  repeat' (first
    | with_reducible assumption
    | with_reducible exact onlyChanges_refl _ _
    | with_reducible refine Block.setChan_frame (by decide) ?_
    | with_reducible refine channelEmit_frame (by decide) ?_
    | with_reducible refine finishCtrl_frame (by decide) ?_
    | with_reducible refine Block.advance_frame (by decide) ?_
    | (with_reducible refine onlyChanges_foldl ?_ ?_; intro x y hx)
    | (extract_lets +onlyGivenNames x; refine imp_app (p := onlyChanges _ _ x) ?_ (fun hx => ?_); rotate_left; clear_value x; rotate_right)
    | extract_lets +onlyGivenNames x
    | split
    | dsimp only
    | subst x
    | (intro x))

theorem strobeOn_frame {k : Nat} {a0 b : Block} {ps : List Piece} (hp : [.quartz] ⊆ ps)
    (h0 : onlyChanges ps a0 b) : onlyChanges ps a0 (strobeOn k b) := by
  refine onlyChanges_step ?_ hp h0
  unfold strobeOn
  repeat' (first
    | with_reducible assumption
    | with_reducible exact onlyChanges_refl _ _
    | with_reducible refine Block.advance_frame (by decide) ?_
    | with_reducible refine Block.modQuartz_frame (by decide) ?_
    | (with_reducible refine onlyChanges_foldl ?_ ?_; intro x y hx)
    | (extract_lets +onlyGivenNames x; refine imp_app (p := onlyChanges _ _ x) ?_ (fun hx => ?_); rotate_left; clear_value x; rotate_right)
    | extract_lets +onlyGivenNames x
    | split
    | dsimp only
    | subst x
    | (intro x))

theorem strobeSettings_frame {k : Nat} {s : Strobe} {a0 b : Block} {ps : List Piece} (hp : [.quartz] ⊆ ps)
    (h0 : onlyChanges ps a0 b) : onlyChanges ps a0 (strobeSettings k s b) := by
  refine onlyChanges_step ?_ hp h0
  unfold strobeSettings
  repeat' (first
    | with_reducible assumption
    | with_reducible exact onlyChanges_refl _ _
    | with_reducible refine Block.modQuartz_frame (by decide) ?_
    | (with_reducible refine onlyChanges_foldl ?_ ?_; intro x y hx)
    | (extract_lets +onlyGivenNames x; refine imp_app (p := onlyChanges _ _ x) ?_ (fun hx => ?_); rotate_left; clear_value x; rotate_right)
    | extract_lets +onlyGivenNames x
    | split
    | dsimp only
    | subst x
    | (intro x))

theorem strobeOff_frame {k : Nat} {a0 b : Block} {ps : List Piece} (hp : [.quartz] ⊆ ps)
    (h0 : onlyChanges ps a0 b) : onlyChanges ps a0 (strobeOff k b) := by
  refine onlyChanges_step ?_ hp h0
  unfold strobeOff
  repeat' (first
    | with_reducible assumption
    | with_reducible exact onlyChanges_refl _ _
    | with_reducible refine strobeSettings_frame (by decide) ?_
    | with_reducible refine Block.advance_frame (by decide) ?_
    | (with_reducible refine onlyChanges_foldl ?_ ?_; intro x y hx)
    | (extract_lets +onlyGivenNames x; refine imp_app (p := onlyChanges _ _ x) ?_ (fun hx => ?_); rotate_left; clear_value x; rotate_right)
    | extract_lets +onlyGivenNames x
    | split
    | dsimp only
    | subst x
    | (intro x))

theorem strobePol_frame {k : Nat} {a0 b : Block} {ps : List Piece} (hp : [.quartz] ⊆ ps)
    (h0 : onlyChanges ps a0 b) : onlyChanges ps a0 (strobePol k b) := by
  refine onlyChanges_step ?_ hp h0
  unfold strobePol
  repeat' (first
    | with_reducible assumption
    | with_reducible exact onlyChanges_refl _ _
    | with_reducible refine strobeSettings_frame (by decide) ?_
    | (with_reducible refine onlyChanges_foldl ?_ ?_; intro x y hx)
    | (extract_lets +onlyGivenNames x; refine imp_app (p := onlyChanges _ _ x) ?_ (fun hx => ?_); rotate_left; clear_value x; rotate_right)
    | extract_lets +onlyGivenNames x
    | split
    | dsimp only
    | subst x
    | (intro x))

theorem tbLoRead_frame {a0 b : Block} {ps : List Piece} (hp : [.quartz, .out] ⊆ ps)
    (h0 : onlyChanges ps a0 b) : onlyChanges ps a0 (tbLoRead b) := by
  refine onlyChanges_step ?_ hp h0
  unfold tbLoRead
  repeat' (first
    | with_reducible assumption
    | with_reducible exact onlyChanges_refl _ _
    | with_reducible refine Block.modOut_frame (by decide) ?_
    | with_reducible refine Block.modQuartz_frame (by decide) ?_
    | (with_reducible refine onlyChanges_foldl ?_ ?_; intro x y hx)
    | (extract_lets +onlyGivenNames x; refine imp_app (p := onlyChanges _ _ x) ?_ (fun hx => ?_); rotate_left; clear_value x; rotate_right)
    | extract_lets +onlyGivenNames x
    | split
    | dsimp only
    | subst x
    | (intro x))

theorem cadLastLoRead_frame {a0 b : Block} {ps : List Piece} (hp : [.quartz, .out] ⊆ ps)
    (h0 : onlyChanges ps a0 b) : onlyChanges ps a0 (cadLastLoRead b) := by
  refine onlyChanges_step ?_ hp h0
  unfold cadLastLoRead
  repeat' (first
    | with_reducible assumption
    | with_reducible exact onlyChanges_refl _ _
    | with_reducible refine Block.modOut_frame (by decide) ?_
    | with_reducible refine Block.modQuartz_frame (by decide) ?_
    | (with_reducible refine onlyChanges_foldl ?_ ?_; intro x y hx)
    | (extract_lets +onlyGivenNames x; refine imp_app (p := onlyChanges _ _ x) ?_ (fun hx => ?_); rotate_left; clear_value x; rotate_right)
    | extract_lets +onlyGivenNames x
    | split
    | dsimp only
    | subst x
    | (intro x))

end Sys2Proof.Machine
end

