-- ==== Sys2Proof/Laws/FrameGarnet.lean ====
section
/-! SUPPORT. Frames of the operations of Array, Program, Garnet. -/

namespace Sys2Proof.Machine

theorem sendTokens_frame {toks : List StripeToken} {a0 b : Block} {ps : List Piece} (hp : [.ch, .trace] ⊆ ps)
    (h0 : onlyChanges ps a0 b) : onlyChanges ps a0 (sendTokens toks b) := by
  refine onlyChanges_step ?_ hp h0
  unfold sendTokens
  repeat' (first
    | with_reducible assumption
    | with_reducible exact onlyChanges_refl _ _
    | with_reducible refine Block.modCh_frame (by decide) ?_
    | (with_reducible refine onlyChanges_foldl ?_ ?_; intro x y hx)
    | (extract_lets +onlyGivenNames x; refine imp_app (p := onlyChanges _ _ x) ?_ (fun hx => ?_); rotate_left; clear_value x; rotate_right)
    | extract_lets +onlyGivenNames x
    | split
    | dsimp only
    | subst x
    | (intro x))

theorem sendHeader_frame {s : Snapshot} {a0 b : Block} {ps : List Piece} (hp : [.ch, .trace] ⊆ ps)
    (h0 : onlyChanges ps a0 b) : onlyChanges ps a0 (sendHeader s b) := by
  refine onlyChanges_step ?_ hp h0
  unfold sendHeader
  repeat' (first
    | with_reducible assumption
    | with_reducible exact onlyChanges_refl _ _
    | with_reducible refine Block.modCh_frame (by decide) ?_
    | (with_reducible refine onlyChanges_foldl ?_ ?_; intro x y hx)
    | (extract_lets +onlyGivenNames x; refine imp_app (p := onlyChanges _ _ x) ?_ (fun hx => ?_); rotate_left; clear_value x; rotate_right)
    | extract_lets +onlyGivenNames x
    | split
    | dsimp only
    | subst x
    | (intro x))

theorem closeSlot_frame {slot : Nat} {a0 b : Block} {ps : List Piece} (hp : [.garnet] ⊆ ps)
    (h0 : onlyChanges ps a0 b) : onlyChanges ps a0 (closeSlot slot b) := by
  refine onlyChanges_step ?_ hp h0
  unfold closeSlot
  repeat' (first
    | with_reducible assumption
    | with_reducible exact onlyChanges_refl _ _
    | with_reducible refine Block.modGarnet_frame (by decide) ?_
    | (with_reducible refine onlyChanges_foldl ?_ ?_; intro x y hx)
    | (extract_lets +onlyGivenNames x; refine imp_app (p := onlyChanges _ _ x) ?_ (fun hx => ?_); rotate_left; clear_value x; rotate_right)
    | extract_lets +onlyGivenNames x
    | split
    | dsimp only
    | subst x
    | (intro x))

theorem openSlot_frame {slot : Nat} {frame : Nat} {plane : Nat} {a0 b : Block} {ps : List Piece} (hp : [.garnet, .ch, .trace] ⊆ ps)
    (h0 : onlyChanges ps a0 b) : onlyChanges ps a0 (openSlot slot frame plane b) := by
  refine onlyChanges_step ?_ hp h0
  unfold openSlot
  repeat' (first
    | with_reducible assumption
    | with_reducible exact onlyChanges_refl _ _
    | with_reducible refine sendTokens_frame (by decide) ?_
    | with_reducible refine Block.modGarnet_frame (by decide) ?_
    | (with_reducible refine onlyChanges_foldl ?_ ?_; intro x y hx)
    | (extract_lets +onlyGivenNames x; refine imp_app (p := onlyChanges _ _ x) ?_ (fun hx => ?_); rotate_left; clear_value x; rotate_right)
    | extract_lets +onlyGivenNames x
    | split
    | dsimp only
    | subst x
    | (intro x))

theorem endSub_frame {bc : Broadcast} {a0 b : Block} {ps : List Piece} (hp : [.garnet, .ch, .trace] ⊆ ps)
    (h0 : onlyChanges ps a0 b) : onlyChanges ps a0 (endSub bc b) := by
  refine onlyChanges_step ?_ hp h0
  unfold endSub
  repeat' (first
    | with_reducible assumption
    | with_reducible exact onlyChanges_refl _ _
    | with_reducible refine openSlot_frame (by decide) ?_
    | with_reducible refine closeSlot_frame (by decide) ?_
    | with_reducible refine Block.modGarnet_frame (by decide) ?_
    | (with_reducible refine onlyChanges_foldl ?_ ?_; intro x y hx)
    | (extract_lets +onlyGivenNames x; refine imp_app (p := onlyChanges _ _ x) ?_ (fun hx => ?_); rotate_left; clear_value x; rotate_right)
    | extract_lets +onlyGivenNames x
    | split
    | dsimp only
    | subst x
    | (intro x))

theorem endHandArray_frame {a0 b : Block} {ps : List Piece} (hp : [.garnet] ⊆ ps)
    (h0 : onlyChanges ps a0 b) : onlyChanges ps a0 (endHandArray b) := by
  refine onlyChanges_step ?_ hp h0
  unfold endHandArray
  repeat' (first
    | with_reducible assumption
    | with_reducible exact onlyChanges_refl _ _
    | with_reducible refine Block.modGarnet_frame (by decide) ?_
    | (with_reducible refine onlyChanges_foldl ?_ ?_; intro x y hx)
    | (extract_lets +onlyGivenNames x; refine imp_app (p := onlyChanges _ _ x) ?_ (fun hx => ?_); rotate_left; clear_value x; rotate_right)
    | extract_lets +onlyGivenNames x
    | split
    | dsimp only
    | subst x
    | (intro x))

theorem dropSub_frame {a0 b : Block} {ps : List Piece} (hp : [.garnet, .ch, .trace] ⊆ ps)
    (h0 : onlyChanges ps a0 b) : onlyChanges ps a0 (dropSub b) := by
  refine onlyChanges_step ?_ hp h0
  unfold dropSub
  repeat' (first
    | with_reducible assumption
    | with_reducible exact onlyChanges_refl _ _
    | with_reducible refine endHandArray_frame (by decide) ?_
    | with_reducible refine endSub_frame (by decide) ?_
    | (with_reducible refine onlyChanges_foldl ?_ ?_; intro x y hx)
    | (extract_lets +onlyGivenNames x; refine imp_app (p := onlyChanges _ _ x) ?_ (fun hx => ?_); rotate_left; clear_value x; rotate_right)
    | extract_lets +onlyGivenNames x
    | split
    | dsimp only
    | subst x
    | (intro x))

theorem finishSub_frame {a0 b : Block} {ps : List Piece} (hp : [.garnet, .ch, .trace] ⊆ ps)
    (h0 : onlyChanges ps a0 b) : onlyChanges ps a0 (finishSub b) := by
  refine onlyChanges_step ?_ hp h0
  unfold finishSub
  repeat' (first
    | with_reducible assumption
    | with_reducible exact onlyChanges_refl _ _
    | with_reducible refine endHandArray_frame (by decide) ?_
    | with_reducible refine endSub_frame (by decide) ?_
    | with_reducible refine Block.modCh_frame (by decide) ?_
    | with_reducible refine Block.modGarnet_frame (by decide) ?_
    | (with_reducible refine onlyChanges_foldl ?_ ?_; intro x y hx)
    | (extract_lets +onlyGivenNames x; refine imp_app (p := onlyChanges _ _ x) ?_ (fun hx => ?_); rotate_left; clear_value x; rotate_right)
    | extract_lets +onlyGivenNames x
    | split
    | dsimp only
    | subst x
    | (intro x))

theorem mergeProgram_frame {n : Nat} {a0 b : Block} {ps : List Piece} (hp : [.garnet, .posts, .evr, .trace, .out] ⊆ ps)
    (h0 : onlyChanges ps a0 b) : onlyChanges ps a0 (mergeProgram n b) := by
  refine onlyChanges_step ?_ hp h0
  unfold mergeProgram
  repeat' (first
    | with_reducible assumption
    | with_reducible exact onlyChanges_refl _ _
    | with_reducible refine finishCtrl_frame (by decide) ?_
    | with_reducible refine Block.modGarnet_frame (by decide) ?_
    | (with_reducible refine onlyChanges_foldl ?_ ?_; intro x y hx)
    | (extract_lets +onlyGivenNames x; refine imp_app (p := onlyChanges _ _ x) ?_ (fun hx => ?_); rotate_left; clear_value x; rotate_right)
    | extract_lets +onlyGivenNames x
    | split
    | dsimp only
    | subst x
    | (intro x))

theorem mergeThermal_frame {a0 b : Block} {ps : List Piece} (hp : [.garnet] ⊆ ps)
    (h0 : onlyChanges ps a0 b) : onlyChanges ps a0 (mergeThermal b) := by
  refine onlyChanges_step ?_ hp h0
  unfold mergeThermal
  repeat' (first
    | with_reducible assumption
    | with_reducible exact onlyChanges_refl _ _
    | with_reducible refine Block.modGarnet_frame (by decide) ?_
    | (with_reducible refine onlyChanges_foldl ?_ ?_; intro x y hx)
    | (extract_lets +onlyGivenNames x; refine imp_app (p := onlyChanges _ _ x) ?_ (fun hx => ?_); rotate_left; clear_value x; rotate_right)
    | extract_lets +onlyGivenNames x
    | split
    | dsimp only
    | subst x
    | (intro x))

theorem endTake_frame {n : Nat} {t : GarnetTake} {a0 b : Block} {ps : List Piece} (hp : [.disc, .garnet, .posts, .evr, .trace, .out] ⊆ ps)
    (h0 : onlyChanges ps a0 b) : onlyChanges ps a0 (endTake n t b) := by
  refine onlyChanges_step ?_ hp h0
  unfold endTake
  repeat' (first
    | with_reducible assumption
    | with_reducible exact onlyChanges_refl _ _
    | with_reducible refine discSettle_frame (by decide) ?_
    | with_reducible refine finishCtrl_frame (by decide) ?_
    | with_reducible refine Block.modGarnet_frame (by decide) ?_
    | (with_reducible refine onlyChanges_foldl ?_ ?_; intro x y hx)
    | (extract_lets +onlyGivenNames x; refine imp_app (p := onlyChanges _ _ x) ?_ (fun hx => ?_); rotate_left; clear_value x; rotate_right)
    | extract_lets +onlyGivenNames x
    | split
    | dsimp only
    | subst x
    | (intro x))

theorem mergeTake_frame {n : Nat} {a0 b : Block} {ps : List Piece} (hp : [.disc, .garnet, .posts, .evr, .trace, .out] ⊆ ps)
    (h : onlyChanges ps a0 b) : onlyChanges ps a0 (mergeTake n b).1 := by
  refine onlyChanges_step ?_ hp h
  unfold mergeTake
  repeat' (first
    | with_reducible assumption
    | with_reducible exact onlyChanges_refl _ _
    | with_reducible refine endTake_frame (by decide) ?_
    | with_reducible refine discTakeStart_frame (by decide) ?_
    | with_reducible refine Block.modGarnet_frame (by decide) ?_
    | (with_reducible refine onlyChanges_foldl ?_ ?_; intro x y hx)
    | (extract_lets +onlyGivenNames x; refine imp_app (p := onlyChanges _ _ x) ?_ (fun hx => ?_); rotate_left; clear_value x; rotate_right)
    | extract_lets +onlyGivenNames x
    | split
    | dsimp only
    | subst x
    | (intro x))

theorem mergeTake_pair {n : Nat} {a0 b b1 : Block} {x} {ps : List Piece} (he : mergeTake n b = (b1, x)) (hp : [.disc, .garnet, .posts, .evr, .trace, .out] ⊆ ps)
    (h : onlyChanges ps a0 b) : onlyChanges ps a0 b1 := by
  have k := mergeTake_frame (n := n) hp h
  rw [he] at k
  exact k

theorem completeStart_frame {a0 b : Block} {ps : List Piece} (hp : [.garnet, .posts, .evr, .trace, .out] ⊆ ps)
    (h0 : onlyChanges ps a0 b) : onlyChanges ps a0 (completeStart b) := by
  refine onlyChanges_step ?_ hp h0
  unfold completeStart
  repeat' (first
    | with_reducible assumption
    | with_reducible exact onlyChanges_refl _ _
    | with_reducible refine finishCtrl_frame (by decide) ?_
    | with_reducible refine Block.modGarnet_frame (by decide) ?_
    | (with_reducible refine onlyChanges_foldl ?_ ?_; intro x y hx)
    | (extract_lets +onlyGivenNames x; refine imp_app (p := onlyChanges _ _ x) ?_ (fun hx => ?_); rotate_left; clear_value x; rotate_right)
    | extract_lets +onlyGivenNames x
    | split
    | dsimp only
    | subst x
    | (intro x))

theorem mergeTrigger_frame {a0 b : Block} {ps : List Piece} (hp : [.garnet, .posts, .evr, .trace, .out] ⊆ ps)
    (h0 : onlyChanges ps a0 b) : onlyChanges ps a0 (mergeTrigger b) := by
  refine onlyChanges_step ?_ hp h0
  unfold mergeTrigger
  repeat' (first
    | with_reducible assumption
    | with_reducible exact onlyChanges_refl _ _
    | with_reducible refine finishCtrl_frame (by decide) ?_
    | with_reducible refine Block.modGarnet_frame (by decide) ?_
    | (with_reducible refine onlyChanges_foldl ?_ ?_; intro x y hx)
    | (extract_lets +onlyGivenNames x; refine imp_app (p := onlyChanges _ _ x) ?_ (fun hx => ?_); rotate_left; clear_value x; rotate_right)
    | extract_lets +onlyGivenNames x
    | split
    | dsimp only
    | subst x
    | (intro x))

theorem applyUnloads_frame {a0 b : Block} {ps : List Piece} (hp : [.jade] ⊆ ps)
    (h0 : onlyChanges ps a0 b) : onlyChanges ps a0 (applyUnloads b) := by
  refine onlyChanges_step ?_ hp h0
  unfold applyUnloads
  repeat' (first
    | with_reducible assumption
    | with_reducible exact onlyChanges_refl _ _
    | with_reducible refine Block.modJade_frame (by decide) ?_
    | (with_reducible refine onlyChanges_foldl ?_ ?_; intro x y hx)
    | (extract_lets +onlyGivenNames x; refine imp_app (p := onlyChanges _ _ x) ?_ (fun hx => ?_); rotate_left; clear_value x; rotate_right)
    | extract_lets +onlyGivenNames x
    | split
    | dsimp only
    | subst x
    | (intro x))

theorem sendNotice_frame {x : LatchNotice} {a0 b : Block} {ps : List Piece} (hp : [.ch, .trace] ⊆ ps)
    (h0 : onlyChanges ps a0 b) : onlyChanges ps a0 (sendNotice x b) := by
  refine onlyChanges_step ?_ hp h0
  unfold sendNotice
  repeat' (first
    | with_reducible assumption
    | with_reducible exact onlyChanges_refl _ _
    | with_reducible refine Block.modCh_frame (by decide) ?_
    | (with_reducible refine onlyChanges_foldl ?_ ?_; intro x y hx)
    | (extract_lets +onlyGivenNames x; refine imp_app (p := onlyChanges _ _ x) ?_ (fun hx => ?_); rotate_left; clear_value x; rotate_right)
    | extract_lets +onlyGivenNames x
    | split
    | dsimp only
    | subst x
    | (intro x))

theorem logBoundary_frame {frame : Nat} {bound : Option FrameProgram} {start : Bool} {stop : Bool} {trig : Bool} {a0 b : Block} {ps : List Piece} (hp : [.evr, .trace] ⊆ ps)
    (h0 : onlyChanges ps a0 b) : onlyChanges ps a0 (logBoundary frame bound start stop trig b) := by
  refine onlyChanges_step ?_ hp h0
  unfold logBoundary
  repeat' (first
    | with_reducible assumption
    | with_reducible exact onlyChanges_refl _ _
    | with_reducible refine Block.logEvr_frame (by decide) ?_
    | (with_reducible refine onlyChanges_foldl ?_ ?_; intro x y hx)
    | (extract_lets +onlyGivenNames x; refine imp_app (p := onlyChanges _ _ x) ?_ (fun hx => ?_); rotate_left; clear_value x; rotate_right)
    | extract_lets +onlyGivenNames x
    | split
    | dsimp only
    | subst x
    | (intro x))

theorem bindFrame_frame {n : Nat} {p : FrameProgram} {trig : Option Nat} {a0 b : Block} {ps : List Piece} (hp : [.garnet, .posts, .evr, .ch, .trace, .out] ⊆ ps)
    (h : onlyChanges ps a0 b) : onlyChanges ps a0 (bindFrame n p trig b).1 := by
  refine onlyChanges_step ?_ hp h
  unfold bindFrame
  repeat' (first
    | with_reducible assumption
    | with_reducible exact onlyChanges_refl _ _
    | with_reducible refine finishCtrl_frame (by decide) ?_
    | with_reducible refine Block.modCh_frame (by decide) ?_
    | with_reducible refine Block.modGarnet_frame (by decide) ?_
    | (with_reducible refine onlyChanges_foldl ?_ ?_; intro x y hx)
    | (extract_lets +onlyGivenNames x; refine imp_app (p := onlyChanges _ _ x) ?_ (fun hx => ?_); rotate_left; clear_value x; rotate_right)
    | extract_lets +onlyGivenNames x
    | split
    | dsimp only
    | subst x
    | (intro x))

theorem bindFrame_pair {n : Nat} {p : FrameProgram} {trig : Option Nat} {a0 b b1 : Block} {x} {ps : List Piece} (he : bindFrame n p trig b = (b1, x)) (hp : [.garnet, .posts, .evr, .ch, .trace, .out] ⊆ ps)
    (h : onlyChanges ps a0 b) : onlyChanges ps a0 b1 := by
  have k := bindFrame_frame (n := n) (p := p) (trig := trig) hp h
  rw [he] at k
  exact k

theorem mergeAndBind_frame {n : Nat} {trig : Option Nat} {a0 b : Block} {ps : List Piece} (hp : [.disc, .garnet, .jade, .posts, .evr, .ch, .trace, .out] ⊆ ps)
    (h0 : onlyChanges ps a0 b) : onlyChanges ps a0 (mergeAndBind n trig b) := by
  refine onlyChanges_step ?_ hp h0
  unfold mergeAndBind
  repeat' (first
    | with_reducible assumption
    | with_reducible exact onlyChanges_refl _ _
    | with_reducible refine bindFrame_frame (by decide) ?_
    | with_reducible refine bindFrame_pair (by assumption) (by decide) ?_
    | with_reducible refine logBoundary_frame (by decide) ?_
    | with_reducible refine sendNotice_frame (by decide) ?_
    | with_reducible refine applyUnloads_frame (by decide) ?_
    | with_reducible refine mergeTrigger_frame (by decide) ?_
    | with_reducible refine completeStart_frame (by decide) ?_
    | with_reducible refine mergeTake_frame (by decide) ?_
    | with_reducible refine mergeTake_pair (by assumption) (by decide) ?_
    | with_reducible refine mergeThermal_frame (by decide) ?_
    | with_reducible refine mergeProgram_frame (by decide) ?_
    | with_reducible refine Block.modGarnet_frame (by decide) ?_
    | (with_reducible refine onlyChanges_foldl ?_ ?_; intro x y hx)
    | (extract_lets +onlyGivenNames x; refine imp_app (p := onlyChanges _ _ x) ?_ (fun hx => ?_); rotate_left; clear_value x; rotate_right)
    | extract_lets +onlyGivenNames x
    | split
    | dsimp only
    | subst x
    | (intro x))

theorem latchPoint_frame {n : Nat} {trig : Option Nat} {a0 b : Block} {ps : List Piece} (hp : [.disc, .garnet, .jade, .posts, .evr, .ch, .trace, .out] ⊆ ps)
    (h0 : onlyChanges ps a0 b) : onlyChanges ps a0 (latchPoint n trig b) := by
  refine onlyChanges_step ?_ hp h0
  unfold latchPoint
  repeat' (first
    | with_reducible assumption
    | with_reducible exact onlyChanges_refl _ _
    | with_reducible refine mergeAndBind_frame (by decide) ?_
    | with_reducible refine Block.modGarnet_frame (by decide) ?_
    | (with_reducible refine onlyChanges_foldl ?_ ?_; intro x y hx)
    | (extract_lets +onlyGivenNames x; refine imp_app (p := onlyChanges _ _ x) ?_ (fun hx => ?_); rotate_left; clear_value x; rotate_right)
    | extract_lets +onlyGivenNames x
    | split
    | dsimp only
    | subst x
    | (intro x))

theorem freeDrains_frame {a0 b : Block} {ps : List Piece} (hp : [.garnet] ⊆ ps)
    (h0 : onlyChanges ps a0 b) : onlyChanges ps a0 (freeDrains b) := by
  refine onlyChanges_step ?_ hp h0
  unfold freeDrains
  repeat' (first
    | with_reducible assumption
    | with_reducible exact onlyChanges_refl _ _
    | with_reducible refine Block.modGarnet_frame (by decide) ?_
    | (with_reducible refine onlyChanges_foldl ?_ ?_; intro x y hx)
    | (extract_lets +onlyGivenNames x; refine imp_app (p := onlyChanges _ _ x) ?_ (fun hx => ?_); rotate_left; clear_value x; rotate_right)
    | extract_lets +onlyGivenNames x
    | split
    | dsimp only
    | subst x
    | (intro x))

theorem tellOutcome_frame {s : Snapshot} {o : DestOutcome} {marks : BitVec 16} {final : Bool} {a0 b : Block} {ps : List Piece} (hp : [.ch, .trace] ⊆ ps)
    (h0 : onlyChanges ps a0 b) : onlyChanges ps a0 (tellOutcome s o marks final b) := by
  refine onlyChanges_step ?_ hp h0
  unfold tellOutcome
  repeat' (first
    | with_reducible assumption
    | with_reducible exact onlyChanges_refl _ _
    | with_reducible refine Block.modCh_frame (by decide) ?_
    | (with_reducible refine onlyChanges_foldl ?_ ?_; intro x y hx)
    | (extract_lets +onlyGivenNames x; refine imp_app (p := onlyChanges _ _ x) ?_ (fun hx => ?_); rotate_left; clear_value x; rotate_right)
    | extract_lets +onlyGivenNames x
    | split
    | dsimp only
    | subst x
    | (intro x))

theorem startHand_frame {s : Snapshot} {stamp : Nat} {grid : Nat} {l : Nat} {seq : Nat} {time : TimeRecord} {a0 b : Block} {ps : List Piece} (hp : [.garnet, .ch, .trace] ⊆ ps)
    (h0 : onlyChanges ps a0 b) : onlyChanges ps a0 (startHand s stamp grid l seq time b) := by
  refine onlyChanges_step ?_ hp h0
  unfold startHand
  repeat' (first
    | with_reducible assumption
    | with_reducible exact onlyChanges_refl _ _
    | with_reducible refine tellOutcome_frame (by decide) ?_
    | with_reducible refine freeDrains_frame (by decide) ?_
    | with_reducible refine sendHeader_frame (by decide) ?_
    | with_reducible refine Block.modGarnet_frame (by decide) ?_
    | (with_reducible refine onlyChanges_foldl ?_ ?_; intro x y hx)
    | (extract_lets +onlyGivenNames x; refine imp_app (p := onlyChanges _ _ x) ?_ (fun hx => ?_); rotate_left; clear_value x; rotate_right)
    | extract_lets +onlyGivenNames x
    | split
    | dsimp only
    | subst x
    | (intro x))

theorem failFrame_frame {s : Snapshot} {marks : BitVec 16} {a0 b : Block} {ps : List Piece} (hp : [.garnet, .ch, .trace] ⊆ ps)
    (h0 : onlyChanges ps a0 b) : onlyChanges ps a0 (failFrame s marks b) := by
  refine onlyChanges_step ?_ hp h0
  unfold failFrame
  repeat' (first
    | with_reducible assumption
    | with_reducible exact onlyChanges_refl _ _
    | with_reducible refine tellOutcome_frame (by decide) ?_
    | with_reducible refine Block.modGarnet_frame (by decide) ?_
    | (with_reducible refine onlyChanges_foldl ?_ ?_; intro x y hx)
    | (extract_lets +onlyGivenNames x; refine imp_app (p := onlyChanges _ _ x) ?_ (fun hx => ?_); rotate_left; clear_value x; rotate_right)
    | extract_lets +onlyGivenNames x
    | split
    | dsimp only
    | subst x
    | (intro x))

theorem takeCad1_frame {stamp : Nat} {grid : Nat} {l : Nat} {seq : Nat} {time : TimeRecord} {a0 b : Block} {ps : List Piece} (hp : [.garnet, .ch, .trace] ⊆ ps)
    (h0 : onlyChanges ps a0 b) : onlyChanges ps a0 (takeCad1 stamp grid l seq time b) := by
  refine onlyChanges_step ?_ hp h0
  unfold takeCad1
  repeat' (first
    | with_reducible assumption
    | with_reducible exact onlyChanges_refl _ _
    | with_reducible refine failFrame_frame (by decide) ?_
    | with_reducible refine startHand_frame (by decide) ?_
    | with_reducible refine finishSub_frame (by decide) ?_
    | with_reducible refine sendHeader_frame (by decide) ?_
    | with_reducible refine Block.modGarnet_frame (by decide) ?_
    | (with_reducible refine onlyChanges_foldl ?_ ?_; intro x y hx)
    | (extract_lets +onlyGivenNames x; refine imp_app (p := onlyChanges _ _ x) ?_ (fun hx => ?_); rotate_left; clear_value x; rotate_right)
    | extract_lets +onlyGivenNames x
    | split
    | dsimp only
    | subst x
    | (intro x))

theorem startSub_frame {stamp : Nat} {last : Bool} {scene : Scene} {a0 b : Block} {ps : List Piece} (hp : [.disc, .garnet, .jade, .posts, .evr, .ch, .trace, .out] ⊆ ps)
    (h0 : onlyChanges ps a0 b) : onlyChanges ps a0 (startSub stamp last scene b) := by
  refine onlyChanges_step ?_ hp h0
  unfold startSub
  repeat' (first
    | with_reducible assumption
    | with_reducible exact onlyChanges_refl _ _
    | with_reducible refine latchPoint_frame (by decide) ?_
    | with_reducible refine finishSub_frame (by decide) ?_
    | with_reducible refine Block.modGarnet_frame (by decide) ?_
    | (with_reducible refine onlyChanges_foldl ?_ ?_; intro x y hx)
    | (extract_lets +onlyGivenNames x; refine imp_app (p := onlyChanges _ _ x) ?_ (fun hx => ?_); rotate_left; clear_value x; rotate_right)
    | extract_lets +onlyGivenNames x
    | split
    | dsimp only
    | subst x
    | (intro x))

theorem takeCad0_frame {stamp : Nat} {last : Bool} {closing : Bool} {t0In : Nat} {scene : Scene} {a0 b : Block} {ps : List Piece} (hp : [.disc, .garnet, .jade, .posts, .evr, .ch, .trace, .out] ⊆ ps)
    (h0 : onlyChanges ps a0 b) : onlyChanges ps a0 (takeCad0 stamp last closing t0In scene b) := by
  refine onlyChanges_step ?_ hp h0
  unfold takeCad0
  repeat' (first
    | with_reducible assumption
    | with_reducible exact onlyChanges_refl _ _
    | with_reducible refine startSub_frame (by decide) ?_
    | with_reducible refine Block.modGarnet_frame (by decide) ?_
    | (with_reducible refine onlyChanges_foldl ?_ ?_; intro x y hx)
    | (extract_lets +onlyGivenNames x; refine imp_app (p := onlyChanges _ _ x) ?_ (fun hx => ?_); rotate_left; clear_value x; rotate_right)
    | extract_lets +onlyGivenNames x
    | split
    | dsimp only
    | subst x
    | (intro x))

theorem postFault_frame {i : Island} {class_ : Nat} {action : Nat} {frame : Nat} {a0 b : Block} {ps : List Piece} (hp : [.posts, .evr, .trace, .out] ⊆ ps)
    (h0 : onlyChanges ps a0 b) : onlyChanges ps a0 (postFault i class_ action frame b) := by
  refine onlyChanges_step ?_ hp h0
  unfold postFault
  repeat' (first
    | with_reducible assumption
    | with_reducible exact onlyChanges_refl _ _
    | with_reducible refine postEvent_frame (by decide) ?_
    | with_reducible refine Block.logEvr_frame (by decide) ?_
    | (with_reducible refine onlyChanges_foldl ?_ ?_; intro x y hx)
    | (extract_lets +onlyGivenNames x; refine imp_app (p := onlyChanges _ _ x) ?_ (fun hx => ?_); rotate_left; clear_value x; rotate_right)
    | extract_lets +onlyGivenNames x
    | split
    | dsimp only
    | subst x
    | (intro x))

theorem gapFails_frame {sink : Island} {frame : Nat} {a0 b : Block} {ps : List Piece} (hp : [.posts, .evr, .topaz, .trace, .out] ⊆ ps)
    (h0 : onlyChanges ps a0 b) : onlyChanges ps a0 (gapFails sink frame b) := by
  refine onlyChanges_step ?_ hp h0
  unfold gapFails
  repeat' (first
    | with_reducible assumption
    | with_reducible exact onlyChanges_refl _ _
    | with_reducible refine postFault_frame (by decide) ?_
    | with_reducible refine Block.modTopaz_frame (by decide) ?_
    | (with_reducible refine onlyChanges_foldl ?_ ?_; intro x y hx)
    | (extract_lets +onlyGivenNames x; refine imp_app (p := onlyChanges _ _ x) ?_ (fun hx => ?_); rotate_left; clear_value x; rotate_right)
    | extract_lets +onlyGivenNames x
    | split
    | dsimp only
    | subst x
    | (intro x))

theorem eventGap_frame {sink : Island} {a0 b : Block} {ps : List Piece} (hp : [.posts, .evr, .topaz, .trace, .out] ⊆ ps)
    (h0 : onlyChanges ps a0 b) : onlyChanges ps a0 (eventGap sink b) := by
  refine onlyChanges_step ?_ hp h0
  unfold eventGap
  repeat' (first
    | with_reducible assumption
    | with_reducible exact onlyChanges_refl _ _
    | with_reducible refine gapFails_frame (by decide) ?_
    | (with_reducible refine onlyChanges_foldl ?_ ?_; intro x y hx)
    | (extract_lets +onlyGivenNames x; refine imp_app (p := onlyChanges _ _ x) ?_ (fun hx => ?_); rotate_left; clear_value x; rotate_right)
    | extract_lets +onlyGivenNames x
    | split
    | dsimp only
    | subst x
    | (intro x))

theorem cadenceGap_frame {gone : List CadMsg} {a0 b : Block} {ps : List Piece} (hp : [.garnet, .posts, .evr, .topaz, .ch, .trace, .out] ⊆ ps)
    (h0 : onlyChanges ps a0 b) : onlyChanges ps a0 (cadenceGap gone b) := by
  refine onlyChanges_step ?_ hp h0
  unfold cadenceGap
  repeat' (first
    | with_reducible assumption
    | with_reducible exact onlyChanges_refl _ _
    | with_reducible refine gapFails_frame (by decide) ?_
    | with_reducible refine failFrame_frame (by decide) ?_
    | with_reducible refine dropSub_frame (by decide) ?_
    | with_reducible refine sendHeader_frame (by decide) ?_
    | with_reducible refine Block.modGarnet_frame (by decide) ?_
    | (with_reducible refine onlyChanges_foldl ?_ ?_; intro x y hx)
    | (extract_lets +onlyGivenNames x; refine imp_app (p := onlyChanges _ _ x) ?_ (fun hx => ?_); rotate_left; clear_value x; rotate_right)
    | extract_lets +onlyGivenNames x
    | split
    | dsimp only
    | subst x
    | (intro x))

theorem subFrameStart_frame {scene : Scene} {lost : Nat} {a0 b : Block} {ps : List Piece} (hp : [.disc, .garnet, .jade, .posts, .evr, .topaz, .ch, .trace, .out] ⊆ ps)
    (h0 : onlyChanges ps a0 b) : onlyChanges ps a0 (subFrameStart scene lost b) := by
  refine onlyChanges_step ?_ hp h0
  unfold subFrameStart
  repeat' (first
    | with_reducible assumption
    | with_reducible exact onlyChanges_refl _ _
    | with_reducible refine cadenceGap_frame (by decide) ?_
    | with_reducible refine takeCad0_frame (by decide) ?_
    | with_reducible refine takeCad1_frame (by decide) ?_
    | with_reducible refine Block.modCh_frame (by decide) ?_
    | with_reducible refine Block.modGarnet_frame (by decide) ?_
    | (with_reducible refine onlyChanges_foldl ?_ ?_; intro x y hx)
    | (extract_lets +onlyGivenNames x; refine imp_app (p := onlyChanges _ _ x) ?_ (fun hx => ?_); rotate_left; clear_value x; rotate_right)
    | extract_lets +onlyGivenNames x
    | split
    | dsimp only
    | subst x
    | (intro x))

theorem addOverrun_frame {k : Nat} {a0 b : Block} {ps : List Piece} (hp : [.garnet] ⊆ ps)
    (h0 : onlyChanges ps a0 b) : onlyChanges ps a0 (addOverrun k b) := by
  refine onlyChanges_step ?_ hp h0
  unfold addOverrun
  repeat' (first
    | with_reducible assumption
    | with_reducible exact onlyChanges_refl _ _
    | with_reducible refine Block.modGarnet_frame (by decide) ?_
    | (with_reducible refine onlyChanges_foldl ?_ ?_; intro x y hx)
    | (extract_lets +onlyGivenNames x; refine imp_app (p := onlyChanges _ _ x) ?_ (fun hx => ?_); rotate_left; clear_value x; rotate_right)
    | extract_lets +onlyGivenNames x
    | split
    | dsimp only
    | subst x
    | (intro x))

theorem acceptTrigger_frame {kind : TrigKind} {a0 b : Block} {ps : List Piece} (hp : [.disc, .garnet, .jade, .posts, .evr, .ch, .trace, .out] ⊆ ps)
    (h0 : onlyChanges ps a0 b) : onlyChanges ps a0 (acceptTrigger kind b) := by
  refine onlyChanges_step ?_ hp h0
  unfold acceptTrigger
  repeat' (first
    | with_reducible assumption
    | with_reducible exact onlyChanges_refl _ _
    | with_reducible refine addOverrun_frame (by decide) ?_
    | with_reducible refine latchPoint_frame (by decide) ?_
    | with_reducible refine Block.logEvr_frame (by decide) ?_
    | with_reducible refine Block.modGarnet_frame (by decide) ?_
    | (with_reducible refine onlyChanges_foldl ?_ ?_; intro x y hx)
    | (extract_lets +onlyGivenNames x; refine imp_app (p := onlyChanges _ _ x) ?_ (fun hx => ?_); rotate_left; clear_value x; rotate_right)
    | extract_lets +onlyGivenNames x
    | split
    | dsimp only
    | subst x
    | (intro x))

theorem missTriggers_frame {k : Nat} {a0 b : Block} {ps : List Piece} (hp : [.garnet] ⊆ ps)
    (h0 : onlyChanges ps a0 b) : onlyChanges ps a0 (missTriggers k b) := by
  refine onlyChanges_step ?_ hp h0
  unfold missTriggers
  repeat' (first
    | with_reducible assumption
    | with_reducible exact onlyChanges_refl _ _
    | with_reducible refine addOverrun_frame (by decide) ?_
    | (with_reducible refine onlyChanges_foldl ?_ ?_; intro x y hx)
    | (extract_lets +onlyGivenNames x; refine imp_app (p := onlyChanges _ _ x) ?_ (fun hx => ?_); rotate_left; clear_value x; rotate_right)
    | extract_lets +onlyGivenNames x
    | split
    | dsimp only
    | subst x
    | (intro x))

theorem triggerEvent_frame {lost : Nat} {a0 b : Block} {ps : List Piece} (hp : [.disc, .garnet, .jade, .posts, .evr, .topaz, .ch, .trace, .out] ⊆ ps)
    (h0 : onlyChanges ps a0 b) : onlyChanges ps a0 (triggerEvent lost b) := by
  refine onlyChanges_step ?_ hp h0
  unfold triggerEvent
  repeat' (first
    | with_reducible assumption
    | with_reducible exact onlyChanges_refl _ _
    | with_reducible refine missTriggers_frame (by decide) ?_
    | with_reducible refine acceptTrigger_frame (by decide) ?_
    | with_reducible refine eventGap_frame (by decide) ?_
    | with_reducible refine Block.modCh_frame (by decide) ?_
    | with_reducible refine Block.modGarnet_frame (by decide) ?_
    | (with_reducible refine onlyChanges_foldl ?_ ?_; intro x y hx)
    | (extract_lets +onlyGivenNames x; refine imp_app (p := onlyChanges _ _ x) ?_ (fun hx => ?_); rotate_left; clear_value x; rotate_right)
    | extract_lets +onlyGivenNames x
    | split
    | dsimp only
    | subst x
    | (intro x))

theorem frameProgram_frame {desc : Nat} {a0 b : Block} {ps : List Piece} (hp : [.garnet, .posts, .evr, .trace, .out] ⊆ ps)
    (h0 : onlyChanges ps a0 b) : onlyChanges ps a0 (frameProgram desc b) := by
  refine onlyChanges_step ?_ hp h0
  unfold frameProgram
  repeat' (first
    | with_reducible assumption
    | with_reducible exact onlyChanges_refl _ _
    | with_reducible refine finishCtrl_frame (by decide) ?_
    | with_reducible refine Block.modGarnet_frame (by decide) ?_
    | (with_reducible refine onlyChanges_foldl ?_ ?_; intro x y hx)
    | (extract_lets +onlyGivenNames x; refine imp_app (p := onlyChanges _ _ x) ?_ (fun hx => ?_); rotate_left; clear_value x; rotate_right)
    | extract_lets +onlyGivenNames x
    | split
    | dsimp only
    | subst x
    | (intro x))

theorem startTake_frame {desc : Nat} {d : List Byte} {a0 b : Block} {ps : List Piece} (hp : [.garnet, .posts, .evr, .trace, .out] ⊆ ps)
    (h0 : onlyChanges ps a0 b) : onlyChanges ps a0 (startTake desc d b) := by
  refine onlyChanges_step ?_ hp h0
  unfold startTake
  repeat' (first
    | with_reducible assumption
    | with_reducible exact onlyChanges_refl _ _
    | with_reducible refine finishCtrl_frame (by decide) ?_
    | with_reducible refine Block.modGarnet_frame (by decide) ?_
    | (with_reducible refine onlyChanges_foldl ?_ ?_; intro x y hx)
    | (extract_lets +onlyGivenNames x; refine imp_app (p := onlyChanges _ _ x) ?_ (fun hx => ?_); rotate_left; clear_value x; rotate_right)
    | extract_lets +onlyGivenNames x
    | split
    | dsimp only
    | subst x
    | (intro x))

theorem takeStart_frame {desc : Nat} {a0 b : Block} {ps : List Piece} (hp : [.garnet, .opal, .posts, .evr, .trace, .out] ⊆ ps)
    (h0 : onlyChanges ps a0 b) : onlyChanges ps a0 (takeStart desc b) := by
  refine onlyChanges_step ?_ hp h0
  unfold takeStart
  repeat' (first
    | with_reducible assumption
    | with_reducible exact onlyChanges_refl _ _
    | with_reducible refine startTake_frame (by decide) ?_
    | with_reducible refine finishCtrl_frame (by decide) ?_
    | with_reducible refine Block.modOpal_frame (by decide) ?_
    | (with_reducible refine onlyChanges_foldl ?_ ?_; intro x y hx)
    | (extract_lets +onlyGivenNames x; refine imp_app (p := onlyChanges _ _ x) ?_ (fun hx => ?_); rotate_left; clear_value x; rotate_right)
    | extract_lets +onlyGivenNames x
    | split
    | dsimp only
    | subst x
    | (intro x))

theorem takeStop_frame {desc : Nat} {a0 b : Block} {ps : List Piece} (hp : [.garnet, .opal, .posts, .evr, .trace, .out] ⊆ ps)
    (h0 : onlyChanges ps a0 b) : onlyChanges ps a0 (takeStop desc b) := by
  refine onlyChanges_step ?_ hp h0
  unfold takeStop
  repeat' (first
    | with_reducible assumption
    | with_reducible exact onlyChanges_refl _ _
    | with_reducible refine finishCtrl_frame (by decide) ?_
    | with_reducible refine Block.modOpal_frame (by decide) ?_
    | with_reducible refine Block.modGarnet_frame (by decide) ?_
    | (with_reducible refine onlyChanges_foldl ?_ ?_; intro x y hx)
    | (extract_lets +onlyGivenNames x; refine imp_app (p := onlyChanges _ _ x) ?_ (fun hx => ?_); rotate_left; clear_value x; rotate_right)
    | extract_lets +onlyGivenNames x
    | split
    | dsimp only
    | subst x
    | (intro x))

theorem trigger_frame {desc : Nat} {a0 b : Block} {ps : List Piece} (hp : [.garnet, .posts, .evr, .trace, .out] ⊆ ps)
    (h0 : onlyChanges ps a0 b) : onlyChanges ps a0 (trigger desc b) := by
  refine onlyChanges_step ?_ hp h0
  unfold trigger
  repeat' (first
    | with_reducible assumption
    | with_reducible exact onlyChanges_refl _ _
    | with_reducible refine finishCtrl_frame (by decide) ?_
    | with_reducible refine Block.modGarnet_frame (by decide) ?_
    | (with_reducible refine onlyChanges_foldl ?_ ?_; intro x y hx)
    | (extract_lets +onlyGivenNames x; refine imp_app (p := onlyChanges _ _ x) ?_ (fun hx => ?_); rotate_left; clear_value x; rotate_right)
    | extract_lets +onlyGivenNames x
    | split
    | dsimp only
    | subst x
    | (intro x))

theorem thermalStep_frame {a0 b : Block} {ps : List Piece} (hp : [.garnet, .ch, .trace] ⊆ ps)
    (h0 : onlyChanges ps a0 b) : onlyChanges ps a0 (thermalStep b) := by
  refine onlyChanges_step ?_ hp h0
  unfold thermalStep
  repeat' (first
    | with_reducible assumption
    | with_reducible exact onlyChanges_refl _ _
    | with_reducible refine Block.modCh_frame (by decide) ?_
    | with_reducible refine Block.modGarnet_frame (by decide) ?_
    | (with_reducible refine onlyChanges_foldl ?_ ?_; intro x y hx)
    | (extract_lets +onlyGivenNames x; refine imp_app (p := onlyChanges _ _ x) ?_ (fun hx => ?_); rotate_left; clear_value x; rotate_right)
    | extract_lets +onlyGivenNames x
    | split
    | dsimp only
    | subst x
    | (intro x))

theorem stopRequest_frame {a0 b : Block} {ps : List Piece} (hp : [.garnet, .ch, .trace] ⊆ ps)
    (h0 : onlyChanges ps a0 b) : onlyChanges ps a0 (stopRequest b) := by
  refine onlyChanges_step ?_ hp h0
  unfold stopRequest
  repeat' (first
    | with_reducible assumption
    | with_reducible exact onlyChanges_refl _ _
    | with_reducible refine Block.modCh_frame (by decide) ?_
    | with_reducible refine Block.modGarnet_frame (by decide) ?_
    | (with_reducible refine onlyChanges_foldl ?_ ?_; intro x y hx)
    | (extract_lets +onlyGivenNames x; refine imp_app (p := onlyChanges _ _ x) ?_ (fun hx => ?_); rotate_left; clear_value x; rotate_right)
    | extract_lets +onlyGivenNames x
    | split
    | dsimp only
    | subst x
    | (intro x))

theorem drainOne_frame {j : DrainJob} {k : Nat} {n : Nat} {a0 b : Block} {ps : List Piece} (hp : [.garnet, .dram, .ch, .trace] ⊆ ps)
    (h0 : onlyChanges ps a0 b) : onlyChanges ps a0 (drainOne j k n b) := by
  refine onlyChanges_step ?_ hp h0
  unfold drainOne
  repeat' (first
    | with_reducible assumption
    | with_reducible exact onlyChanges_refl _ _
    | with_reducible refine sendTokens_frame (by decide) ?_
    | with_reducible refine Block.dramWrite_frame (by decide) ?_
    | with_reducible refine Block.modGarnet_frame (by decide) ?_
    | (with_reducible refine onlyChanges_foldl ?_ ?_; intro x y hx)
    | (extract_lets +onlyGivenNames x; refine imp_app (p := onlyChanges _ _ x) ?_ (fun hx => ?_); rotate_left; clear_value x; rotate_right)
    | extract_lets +onlyGivenNames x
    | split
    | dsimp only
    | subst x
    | (intro x))

theorem drainStripeDone_frame {a0 b : Block} {ps : List Piece} (hp : [.garnet, .dram, .ch, .trace] ⊆ ps)
    (h0 : onlyChanges ps a0 b) : onlyChanges ps a0 (drainStripeDone b) := by
  refine onlyChanges_step ?_ hp h0
  unfold drainStripeDone
  repeat' (first
    | with_reducible assumption
    | with_reducible exact onlyChanges_refl _ _
    | with_reducible refine drainOne_frame (by decide) ?_
    | with_reducible refine sendTokens_frame (by decide) ?_
    | with_reducible refine Block.dramWrite_frame (by decide) ?_
    | with_reducible refine Block.modGarnet_frame (by decide) ?_
    | (with_reducible refine onlyChanges_foldl ?_ ?_; intro x y hx)
    | (extract_lets +onlyGivenNames x; refine imp_app (p := onlyChanges _ _ x) ?_ (fun hx => ?_); rotate_left; clear_value x; rotate_right)
    | extract_lets +onlyGivenNames x
    | split
    | dsimp only
    | subst x
    | (intro x))

theorem stripeTokenAck_frame {a0 b : Block} {ps : List Piece} (hp : [.garnet, .ch, .trace] ⊆ ps)
    (h0 : onlyChanges ps a0 b) : onlyChanges ps a0 (stripeTokenAck b) := by
  refine onlyChanges_step ?_ hp h0
  unfold stripeTokenAck
  repeat' (first
    | with_reducible assumption
    | with_reducible exact onlyChanges_refl _ _
    | with_reducible refine Block.modCh_frame (by decide) ?_
    | with_reducible refine Block.modGarnet_frame (by decide) ?_
    | (with_reducible refine onlyChanges_foldl ?_ ?_; intro x y hx)
    | (extract_lets +onlyGivenNames x; refine imp_app (p := onlyChanges _ _ x) ?_ (fun hx => ?_); rotate_left; clear_value x; rotate_right)
    | extract_lets +onlyGivenNames x
    | split
    | dsimp only
    | subst x
    | (intro x))

theorem truncate_frame {s : Snapshot} {last : Bool} {a0 b : Block} {ps : List Piece} (hp : [.garnet, .ch, .trace] ⊆ ps)
    (h0 : onlyChanges ps a0 b) : onlyChanges ps a0 (truncate s last b) := by
  refine onlyChanges_step ?_ hp h0
  unfold truncate
  repeat' (first
    | with_reducible assumption
    | with_reducible exact onlyChanges_refl _ _
    | with_reducible refine tellOutcome_frame (by decide) ?_
    | with_reducible refine sendHeader_frame (by decide) ?_
    | with_reducible refine Block.modGarnet_frame (by decide) ?_
    | (with_reducible refine onlyChanges_foldl ?_ ?_; intro x y hx)
    | (extract_lets +onlyGivenNames x; refine imp_app (p := onlyChanges _ _ x) ?_ (fun hx => ?_); rotate_left; clear_value x; rotate_right)
    | extract_lets +onlyGivenNames x
    | split
    | dsimp only
    | subst x
    | (intro x))

theorem stopCapture_frame {r : EndReason} {a0 b : Block} {ps : List Piece} (hp : [.disc, .garnet, .opal, .posts, .evr, .ch, .trace, .out] ⊆ ps)
    (h0 : onlyChanges ps a0 b) : onlyChanges ps a0 (stopCapture r b) := by
  refine onlyChanges_step ?_ hp h0
  unfold stopCapture
  repeat' (first
    | with_reducible assumption
    | with_reducible exact onlyChanges_refl _ _
    | with_reducible refine takeStop_frame (by decide) ?_
    | with_reducible refine takeStart_frame (by decide) ?_
    | with_reducible refine sendNotice_frame (by decide) ?_
    | with_reducible refine endTake_frame (by decide) ?_
    | with_reducible refine finishCtrl_frame (by decide) ?_
    | with_reducible refine Block.modGarnet_frame (by decide) ?_
    | (with_reducible refine onlyChanges_foldl ?_ ?_; intro x y hx)
    | (extract_lets +onlyGivenNames x; refine imp_app (p := onlyChanges _ _ x) ?_ (fun hx => ?_); rotate_left; clear_value x; rotate_right)
    | extract_lets +onlyGivenNames x
    | split
    | dsimp only
    | subst x
    | (intro x))

theorem powerLossStop_frame {a0 b : Block} {ps : List Piece} (hp : [.disc, .garnet, .opal, .posts, .evr, .ch, .trace, .out] ⊆ ps)
    (h0 : onlyChanges ps a0 b) : onlyChanges ps a0 (powerLossStop b) := by
  refine onlyChanges_step ?_ hp h0
  unfold powerLossStop
  repeat' (first
    | with_reducible assumption
    | with_reducible exact onlyChanges_refl _ _
    | with_reducible refine stopCapture_frame (by decide) ?_
    | with_reducible refine truncate_frame (by decide) ?_
    | with_reducible refine Block.modCh_frame (by decide) ?_
    | (with_reducible refine onlyChanges_foldl ?_ ?_; intro x y hx)
    | (extract_lets +onlyGivenNames x; refine imp_app (p := onlyChanges _ _ x) ?_ (fun hx => ?_); rotate_left; clear_value x; rotate_right)
    | extract_lets +onlyGivenNames x
    | split
    | dsimp only
    | subst x
    | (intro x))

theorem dropBound_frame {a0 b : Block} {ps : List Piece} (hp : [.disc, .garnet, .opal, .posts, .evr, .ch, .trace, .out] ⊆ ps)
    (h0 : onlyChanges ps a0 b) : onlyChanges ps a0 (dropBound b) := by
  refine onlyChanges_step ?_ hp h0
  unfold dropBound
  repeat' (first
    | with_reducible assumption
    | with_reducible exact onlyChanges_refl _ _
    | with_reducible refine truncate_frame (by decide) ?_
    | with_reducible refine takeStop_frame (by decide) ?_
    | with_reducible refine takeStart_frame (by decide) ?_
    | with_reducible refine sendNotice_frame (by decide) ?_
    | with_reducible refine endTake_frame (by decide) ?_
    | with_reducible refine Block.modGarnet_frame (by decide) ?_
    | (with_reducible refine onlyChanges_foldl ?_ ?_; intro x y hx)
    | (extract_lets +onlyGivenNames x; refine imp_app (p := onlyChanges _ _ x) ?_ (fun hx => ?_); rotate_left; clear_value x; rotate_right)
    | extract_lets +onlyGivenNames x
    | split
    | dsimp only
    | subst x
    | (intro x))

theorem garnetShutdown_frame {a0 b : Block} {ps : List Piece} (hp : [.disc, .garnet, .opal, .posts, .evr, .ch, .trace, .out] ⊆ ps)
    (h0 : onlyChanges ps a0 b) : onlyChanges ps a0 (garnetShutdown b) := by
  refine onlyChanges_step ?_ hp h0
  unfold garnetShutdown
  repeat' (first
    | with_reducible assumption
    | with_reducible exact onlyChanges_refl _ _
    | with_reducible refine dropBound_frame (by decide) ?_
    | with_reducible refine finishCtrl_frame (by decide) ?_
    | with_reducible refine Block.modCh_frame (by decide) ?_
    | with_reducible refine Block.modGarnet_frame (by decide) ?_
    | (with_reducible refine onlyChanges_foldl ?_ ?_; intro x y hx)
    | (extract_lets +onlyGivenNames x; refine imp_app (p := onlyChanges _ _ x) ?_ (fun hx => ?_); rotate_left; clear_value x; rotate_right)
    | extract_lets +onlyGivenNames x
    | split
    | dsimp only
    | subst x
    | (intro x))

theorem grnFrameLoRead_frame {a0 b : Block} {ps : List Piece} (hp : [.garnet, .out] ⊆ ps)
    (h0 : onlyChanges ps a0 b) : onlyChanges ps a0 (grnFrameLoRead b) := by
  refine onlyChanges_step ?_ hp h0
  unfold grnFrameLoRead
  repeat' (first
    | with_reducible assumption
    | with_reducible exact onlyChanges_refl _ _
    | with_reducible refine Block.modOut_frame (by decide) ?_
    | with_reducible refine Block.modGarnet_frame (by decide) ?_
    | (with_reducible refine onlyChanges_foldl ?_ ?_; intro x y hx)
    | (extract_lets +onlyGivenNames x; refine imp_app (p := onlyChanges _ _ x) ?_ (fun hx => ?_); rotate_left; clear_value x; rotate_right)
    | extract_lets +onlyGivenNames x
    | split
    | dsimp only
    | subst x
    | (intro x))

end Sys2Proof.Machine
end

