-- ==== Sys2Proof/Laws/FrameJade.lean ====
section
/-! SUPPORT. Frames of the operations of Pixels, Stats, Window, Jade, Aes, Buffers. -/

namespace Sys2Proof.Machine

theorem winMod_frame {frame : Nat} {f : LedgerFrame → LedgerFrame} {a0 b : Block} {ps : List Piece} (hp : [.opal, .posts] ⊆ ps)
    (h0 : onlyChanges ps a0 b) : onlyChanges ps a0 (winMod frame f b) := by
  refine onlyChanges_step ?_ hp h0
  unfold winMod
  repeat' (first
    | with_reducible assumption
    | with_reducible exact onlyChanges_refl _ _
    | with_reducible refine Block.modOpal_frame (by decide) ?_
    | (with_reducible refine onlyChanges_foldl ?_ ?_; intro x y hx)
    | (extract_lets +onlyGivenNames x; refine imp_app (p := onlyChanges _ _ x) ?_ (fun hx => ?_); rotate_left; clear_value x; rotate_right)
    | extract_lets +onlyGivenNames x
    | split
    | dsimp only
    | subst x
    | (intro x))

theorem destMod_frame {frame : Nat} {index : Nat} {f : LedgerDest → LedgerDest} {a0 b : Block} {ps : List Piece} (hp : [.opal, .posts] ⊆ ps)
    (h0 : onlyChanges ps a0 b) : onlyChanges ps a0 (destMod frame index f b) := by
  refine onlyChanges_step ?_ hp h0
  unfold destMod
  repeat' (first
    | with_reducible assumption
    | with_reducible exact onlyChanges_refl _ _
    | with_reducible refine winMod_frame (by decide) ?_
    | (with_reducible refine onlyChanges_foldl ?_ ?_; intro x y hx)
    | (extract_lets +onlyGivenNames x; refine imp_app (p := onlyChanges _ _ x) ?_ (fun hx => ?_); rotate_left; clear_value x; rotate_right)
    | extract_lets +onlyGivenNames x
    | split
    | dsimp only
    | subst x
    | (intro x))

theorem markFrame_frame {frame : Nat} {m : BitVec 16} {a0 b : Block} {ps : List Piece} (hp : [.opal, .posts] ⊆ ps)
    (h0 : onlyChanges ps a0 b) : onlyChanges ps a0 (markFrame frame m b) := by
  refine onlyChanges_step ?_ hp h0
  unfold markFrame
  repeat' (first
    | with_reducible assumption
    | with_reducible exact onlyChanges_refl _ _
    | with_reducible refine winMod_frame (by decide) ?_
    | (with_reducible refine onlyChanges_foldl ?_ ?_; intro x y hx)
    | (extract_lets +onlyGivenNames x; refine imp_app (p := onlyChanges _ _ x) ?_ (fun hx => ?_); rotate_left; clear_value x; rotate_right)
    | extract_lets +onlyGivenNames x
    | split
    | dsimp only
    | subst x
    | (intro x))

theorem takeNotes_frame {a0 b : Block} {ps : List Piece} (hp : [.opal, .posts, .ch, .trace] ⊆ ps)
    (h0 : onlyChanges ps a0 b) : onlyChanges ps a0 (takeNotes b) := by
  refine onlyChanges_step ?_ hp h0
  unfold takeNotes
  repeat' (first
    | with_reducible assumption
    | with_reducible exact onlyChanges_refl _ _
    | with_reducible refine winMod_frame (by decide) ?_
    | with_reducible refine Block.modCh_frame (by decide) ?_
    | (with_reducible refine onlyChanges_foldl ?_ ?_; intro x y hx)
    | (extract_lets +onlyGivenNames x; refine imp_app (p := onlyChanges _ _ x) ?_ (fun hx => ?_); rotate_left; clear_value x; rotate_right)
    | extract_lets +onlyGivenNames x
    | split
    | dsimp only
    | subst x
    | (intro x))

theorem tellOpal_frame {frame : Nat} {n : LedgerNote} {a0 b : Block} {ps : List Piece} (hp : [.opal, .posts, .ch, .trace] ⊆ ps)
    (h0 : onlyChanges ps a0 b) : onlyChanges ps a0 (tellOpal frame n b) := by
  refine onlyChanges_step ?_ hp h0
  unfold tellOpal
  repeat' (first
    | with_reducible assumption
    | with_reducible exact onlyChanges_refl _ _
    | with_reducible refine takeNotes_frame (by decide) ?_
    | with_reducible refine Block.modCh_frame (by decide) ?_
    | (with_reducible refine onlyChanges_foldl ?_ ?_; intro x y hx)
    | (extract_lets +onlyGivenNames x; refine imp_app (p := onlyChanges _ _ x) ?_ (fun hx => ?_); rotate_left; clear_value x; rotate_right)
    | extract_lets +onlyGivenNames x
    | split
    | dsimp only
    | subst x
    | (intro x))

theorem decideDest_frame {frame : Nat} {index : Nat} {o : DestOutcome} {a0 b : Block} {ps : List Piece} (hp : [.opal, .posts] ⊆ ps)
    (h0 : onlyChanges ps a0 b) : onlyChanges ps a0 (decideDest frame index o b) := by
  refine onlyChanges_step ?_ hp h0
  unfold decideDest
  repeat' (first
    | with_reducible assumption
    | with_reducible exact onlyChanges_refl _ _
    | with_reducible refine destMod_frame (by decide) ?_
    | (with_reducible refine onlyChanges_foldl ?_ ?_; intro x y hx)
    | (extract_lets +onlyGivenNames x; refine imp_app (p := onlyChanges _ _ x) ?_ (fun hx => ?_); rotate_left; clear_value x; rotate_right)
    | extract_lets +onlyGivenNames x
    | split
    | dsimp only
    | subst x
    | (intro x))

theorem decideAll_frame {frame : Nat} {p : LedgerDest → Bool} {o : DestOutcome} {a0 b : Block} {ps : List Piece} (hp : [.opal, .posts] ⊆ ps)
    (h0 : onlyChanges ps a0 b) : onlyChanges ps a0 (decideAll frame p o b) := by
  refine onlyChanges_step ?_ hp h0
  unfold decideAll
  repeat' (first
    | with_reducible assumption
    | with_reducible exact onlyChanges_refl _ _
    | with_reducible refine winMod_frame (by decide) ?_
    | (with_reducible refine onlyChanges_foldl ?_ ?_; intro x y hx)
    | (extract_lets +onlyGivenNames x; refine imp_app (p := onlyChanges _ _ x) ?_ (fun hx => ?_); rotate_left; clear_value x; rotate_right)
    | extract_lets +onlyGivenNames x
    | split
    | dsimp only
    | subst x
    | (intro x))

theorem noteFailed_frame {i : Island} {frame : Nat} {a0 b : Block} {ps : List Piece} (hp : [.topaz] ⊆ ps)
    (h0 : onlyChanges ps a0 b) : onlyChanges ps a0 (noteFailed i frame b) := by
  refine onlyChanges_step ?_ hp h0
  unfold noteFailed
  repeat' (first
    | with_reducible assumption
    | with_reducible exact onlyChanges_refl _ _
    | with_reducible refine Block.modIsl_frame (by decide) ?_
    | (with_reducible refine onlyChanges_foldl ?_ ?_; intro x y hx)
    | (extract_lets +onlyGivenNames x; refine imp_app (p := onlyChanges _ _ x) ?_ (fun hx => ?_); rotate_left; clear_value x; rotate_right)
    | extract_lets +onlyGivenNames x
    | split
    | dsimp only
    | subst x
    | (intro x))

theorem mergeDigest_frame {src : Island} {point : Nat} {frame : Nat} {count : Nat} {a0 b : Block} {ps : List Piece} (hp : [.evr, .trace] ⊆ ps)
    (h0 : onlyChanges ps a0 b) : onlyChanges ps a0 (mergeDigest src point frame count b) := by
  refine onlyChanges_step ?_ hp h0
  unfold mergeDigest
  repeat' (first
    | with_reducible assumption
    | with_reducible exact onlyChanges_refl _ _
    | with_reducible refine Block.logEvr_frame (by decide) ?_
    | (with_reducible refine onlyChanges_foldl ?_ ?_; intro x y hx)
    | (extract_lets +onlyGivenNames x; refine imp_app (p := onlyChanges _ _ x) ?_ (fun hx => ?_); rotate_left; clear_value x; rotate_right)
    | extract_lets +onlyGivenNames x
    | split
    | dsimp only
    | subst x
    | (intro x))

theorem mergeFail_frame {src : Island} {point : Nat} {frame : Nat} {ordinal : Nat} {mark : BitVec 16} {a0 b : Block} {ps : List Piece} (hp : [.evr, .trace] ⊆ ps)
    (h0 : onlyChanges ps a0 b) : onlyChanges ps a0 (mergeFail src point frame ordinal mark b) := by
  refine onlyChanges_step ?_ hp h0
  unfold mergeFail
  repeat' (first
    | with_reducible assumption
    | with_reducible exact onlyChanges_refl _ _
    | with_reducible refine Block.logEvr_frame (by decide) ?_
    | (with_reducible refine onlyChanges_foldl ?_ ?_; intro x y hx)
    | (extract_lets +onlyGivenNames x; refine imp_app (p := onlyChanges _ _ x) ?_ (fun hx => ?_); rotate_left; clear_value x; rotate_right)
    | extract_lets +onlyGivenNames x
    | split
    | dsimp only
    | subst x
    | (intro x))

theorem eccCount_frame {by_ : Island} {frame : Nat} {e : Ecc} {a0 b : Block} {ps : List Piece} (hp : [.posts, .evr, .topaz, .trace, .out] ⊆ ps)
    (h0 : onlyChanges ps a0 b) : onlyChanges ps a0 (eccCount by_ frame e b) := by
  refine onlyChanges_step ?_ hp h0
  unfold eccCount
  repeat' (first
    | with_reducible assumption
    | with_reducible exact onlyChanges_refl _ _
    | with_reducible refine postFault_frame (by decide) ?_
    | with_reducible refine Block.modTopaz_frame (by decide) ?_
    | (with_reducible refine onlyChanges_foldl ?_ ?_; intro x y hx)
    | (extract_lets +onlyGivenNames x; refine imp_app (p := onlyChanges _ _ x) ?_ (fun hx => ?_); rotate_left; clear_value x; rotate_right)
    | extract_lets +onlyGivenNames x
    | split
    | dsimp only
    | subst x
    | (intro x))

theorem takeToken_frame {a0 b : Block} {ps : List Piece} (hp : [.ch, .trace] ⊆ ps)
    (h0 : onlyChanges ps a0 b) : onlyChanges ps a0 (takeToken b) := by
  refine onlyChanges_step ?_ hp h0
  unfold takeToken
  repeat' (first
    | with_reducible assumption
    | with_reducible exact onlyChanges_refl _ _
    | with_reducible refine Block.modCh_frame (by decide) ?_
    | (with_reducible refine onlyChanges_foldl ?_ ?_; intro x y hx)
    | (extract_lets +onlyGivenNames x; refine imp_app (p := onlyChanges _ _ x) ?_ (fun hx => ?_); rotate_left; clear_value x; rotate_right)
    | extract_lets +onlyGivenNames x
    | split
    | dsimp only
    | subst x
    | (intro x))

theorem keepToken_frame {a0 b : Block} {ps : List Piece} (hp : [.ch, .trace] ⊆ ps)
    (h0 : onlyChanges ps a0 b) : onlyChanges ps a0 (keepToken b) := by
  refine onlyChanges_step ?_ hp h0
  unfold keepToken
  repeat' (first
    | with_reducible assumption
    | with_reducible exact onlyChanges_refl _ _
    | with_reducible refine Block.modCh_frame (by decide) ?_
    | (with_reducible refine onlyChanges_foldl ?_ ?_; intro x y hx)
    | (extract_lets +onlyGivenNames x; refine imp_app (p := onlyChanges _ _ x) ?_ (fun hx => ?_); rotate_left; clear_value x; rotate_right)
    | extract_lets +onlyGivenNames x
    | split
    | dsimp only
    | subst x
    | (intro x))

theorem retireInJade_frame {frame : Nat} {a0 b : Block} {ps : List Piece} (hp : [.ch, .trace] ⊆ ps)
    (h0 : onlyChanges ps a0 b) : onlyChanges ps a0 (retireInJade frame b) := by
  refine onlyChanges_step ?_ hp h0
  unfold retireInJade
  repeat' (first
    | with_reducible assumption
    | with_reducible exact onlyChanges_refl _ _
    | with_reducible refine Block.modCh_frame (by decide) ?_
    | (with_reducible refine onlyChanges_foldl ?_ ?_; intro x y hx)
    | (extract_lets +onlyGivenNames x; refine imp_app (p := onlyChanges _ _ x) ?_ (fun hx => ?_); rotate_left; clear_value x; rotate_right)
    | extract_lets +onlyGivenNames x
    | split
    | dsimp only
    | subst x
    | (intro x))

theorem closeFrame_frame {frame : Nat} {a0 b : Block} {ps : List Piece} (hp : [.jade, .ch, .trace] ⊆ ps)
    (h0 : onlyChanges ps a0 b) : onlyChanges ps a0 (closeFrame frame b) := by
  refine onlyChanges_step ?_ hp h0
  unfold closeFrame
  repeat' (first
    | with_reducible assumption
    | with_reducible exact onlyChanges_refl _ _
    | with_reducible refine retireInJade_frame (by decide) ?_
    | with_reducible refine Block.modJade_frame (by decide) ?_
    | (with_reducible refine onlyChanges_foldl ?_ ?_; intro x y hx)
    | (extract_lets +onlyGivenNames x; refine imp_app (p := onlyChanges _ _ x) ?_ (fun hx => ?_); rotate_left; clear_value x; rotate_right)
    | extract_lets +onlyGivenNames x
    | split
    | dsimp only
    | subst x
    | (intro x))

theorem sendFailedItem_frame {frame : Nat} {plane : Nat} {stripe : Nat} {index : Nat} {m : BitVec 16} {a0 b : Block} {ps : List Piece} (hp : [.ch, .trace] ⊆ ps)
    (h0 : onlyChanges ps a0 b) : onlyChanges ps a0 (sendFailedItem frame plane stripe index m b) := by
  refine onlyChanges_step ?_ hp h0
  unfold sendFailedItem
  repeat' (first
    | with_reducible assumption
    | with_reducible exact onlyChanges_refl _ _
    | with_reducible refine Block.modCh_frame (by decide) ?_
    | (with_reducible refine onlyChanges_foldl ?_ ?_; intro x y hx)
    | (extract_lets +onlyGivenNames x; refine imp_app (p := onlyChanges _ _ x) ?_ (fun hx => ?_); rotate_left; clear_value x; rotate_right)
    | extract_lets +onlyGivenNames x
    | split
    | dsimp only
    | subst x
    | (intro x))

theorem sendFailed_frame {frame : Nat} {m : BitVec 16} {a0 b : Block} {ps : List Piece} (hp : [.ch, .trace] ⊆ ps)
    (h0 : onlyChanges ps a0 b) : onlyChanges ps a0 (sendFailed frame m b) := by
  refine onlyChanges_step ?_ hp h0
  unfold sendFailed
  repeat' (first
    | with_reducible assumption
    | with_reducible exact onlyChanges_refl _ _
    | with_reducible refine sendFailedItem_frame (by decide) ?_
    | (with_reducible refine onlyChanges_foldl ?_ ?_; intro x y hx)
    | (extract_lets +onlyGivenNames x; refine imp_app (p := onlyChanges _ _ x) ?_ (fun hx => ?_); rotate_left; clear_value x; rotate_right)
    | extract_lets +onlyGivenNames x
    | split
    | dsimp only
    | subst x
    | (intro x))

theorem dropUnopened_frame {frame : Nat} {a0 b : Block} {ps : List Piece} (hp : [.jade, .ch, .trace] ⊆ ps)
    (h0 : onlyChanges ps a0 b) : onlyChanges ps a0 (dropUnopened frame b) := by
  refine onlyChanges_step ?_ hp h0
  unfold dropUnopened
  repeat' (first
    | with_reducible assumption
    | with_reducible exact onlyChanges_refl _ _
    | with_reducible refine closeFrame_frame (by decide) ?_
    | (with_reducible refine onlyChanges_foldl ?_ ?_; intro x y hx)
    | (extract_lets +onlyGivenNames x; refine imp_app (p := onlyChanges _ _ x) ?_ (fun hx => ?_); rotate_left; clear_value x; rotate_right)
    | extract_lets +onlyGivenNames x
    | split
    | dsimp only
    | subst x
    | (intro x))

theorem frameHeaderToken_frame {a0 b : Block} {ps : List Piece} (hp : [.jade, .ch, .trace] ⊆ ps)
    (h0 : onlyChanges ps a0 b) : onlyChanges ps a0 (frameHeaderToken b) := by
  refine onlyChanges_step ?_ hp h0
  unfold frameHeaderToken
  repeat' (first
    | with_reducible assumption
    | with_reducible exact onlyChanges_refl _ _
    | with_reducible refine dropUnopened_frame (by decide) ?_
    | with_reducible refine sendFailed_frame (by decide) ?_
    | with_reducible refine closeFrame_frame (by decide) ?_
    | with_reducible refine keepToken_frame (by decide) ?_
    | with_reducible refine takeToken_frame (by decide) ?_
    | with_reducible refine Block.modJade_frame (by decide) ?_
    | (with_reducible refine onlyChanges_foldl ?_ ?_; intro x y hx)
    | (extract_lets +onlyGivenNames x; refine imp_app (p := onlyChanges _ _ x) ?_ (fun hx => ?_); rotate_left; clear_value x; rotate_right)
    | extract_lets +onlyGivenNames x
    | split
    | dsimp only
    | subst x
    | (intro x))

theorem modFrame_frame {frame : Nat} {f : JFrame → JFrame} {a0 b : Block} {ps : List Piece} (hp : [.jade] ⊆ ps)
    (h0 : onlyChanges ps a0 b) : onlyChanges ps a0 (modFrame frame f b) := by
  refine onlyChanges_step ?_ hp h0
  unfold modFrame
  repeat' (first
    | with_reducible assumption
    | with_reducible exact onlyChanges_refl _ _
    | with_reducible refine Block.modJade_frame (by decide) ?_
    | (with_reducible refine onlyChanges_foldl ?_ ?_; intro x y hx)
    | (extract_lets +onlyGivenNames x; refine imp_app (p := onlyChanges _ _ x) ?_ (fun hx => ?_); rotate_left; clear_value x; rotate_right)
    | extract_lets +onlyGivenNames x
    | split
    | dsimp only
    | subst x
    | (intro x))

theorem tapCopy_frame {t : StripeToken} {bytes : List Byte} {a0 b : Block} {ps : List Piece} (hp : [.jade, .thm, .otc, .evr, .beryl, .out, .fresh] ⊆ ps)
    (h0 : onlyChanges ps a0 b) : onlyChanges ps a0 (tapCopy t bytes b) := by
  refine onlyChanges_step ?_ hp h0
  unfold tapCopy
  repeat' (first
    | with_reducible assumption
    | with_reducible exact onlyChanges_refl _ _
    | with_reducible refine Block.hostWrite_frame (by decide) ?_
    | with_reducible refine Block.modBeryl_frame (by decide) ?_
    | with_reducible refine Block.modJade_frame (by decide) ?_
    | (with_reducible refine onlyChanges_foldl ?_ ?_; intro x y hx)
    | (extract_lets +onlyGivenNames x; refine imp_app (p := onlyChanges _ _ x) ?_ (fun hx => ?_); rotate_left; clear_value x; rotate_right)
    | extract_lets +onlyGivenNames x
    | split
    | dsimp only
    | with_reducible refine upd_fresh_frame (by decide) ?_
    | subst x
    | (intro x))

theorem stripeToken__frame {bad1 : Bool} {bad2 : Bool} {ecc : Ecc} {a0 b : Block} {ps : List Piece} (hp : [.jade, .opal, .posts, .thm, .otc, .evr, .beryl, .topaz, .ch, .trace, .out, .fresh] ⊆ ps)
    (h0 : onlyChanges ps a0 b) : onlyChanges ps a0 (stripeToken_ bad1 bad2 ecc b) := by
  refine onlyChanges_step ?_ hp h0
  unfold stripeToken_
  repeat' (first
    | with_reducible assumption
    | with_reducible exact onlyChanges_refl _ _
    | with_reducible refine tapCopy_frame (by decide) ?_
    | with_reducible refine modFrame_frame (by decide) ?_
    | with_reducible refine keepToken_frame (by decide) ?_
    | with_reducible refine takeToken_frame (by decide) ?_
    | with_reducible refine eccCount_frame (by decide) ?_
    | with_reducible refine mergeFail_frame (by decide) ?_
    | with_reducible refine tellOpal_frame (by decide) ?_
    | with_reducible refine Block.modCh_frame (by decide) ?_
    | with_reducible refine Block.modJade_frame (by decide) ?_
    | (with_reducible refine onlyChanges_foldl ?_ ?_; intro x y hx)
    | (extract_lets +onlyGivenNames x; refine imp_app (p := onlyChanges _ _ x) ?_ (fun hx => ?_); rotate_left; clear_value x; rotate_right)
    | extract_lets +onlyGivenNames x
    | split
    | dsimp only
    | subst x
    | (intro x))

theorem sendSegToken_frame {frame : Nat} {d : Dest} {stripe : Nat} {len : Nat} {m : BitVec 16} {header : Bool} {a0 b : Block} {ps : List Piece} (hp : [.ch, .trace] ⊆ ps)
    (h0 : onlyChanges ps a0 b) : onlyChanges ps a0 (sendSegToken frame d stripe len m header b) := by
  refine onlyChanges_step ?_ hp h0
  unfold sendSegToken
  repeat' (first
    | with_reducible assumption
    | with_reducible exact onlyChanges_refl _ _
    | with_reducible refine Block.modCh_frame (by decide) ?_
    | (with_reducible refine onlyChanges_foldl ?_ ?_; intro x y hx)
    | (extract_lets +onlyGivenNames x; refine imp_app (p := onlyChanges _ _ x) ?_ (fun hx => ?_); rotate_left; clear_value x; rotate_right)
    | extract_lets +onlyGivenNames x
    | split
    | dsimp only
    | subst x
    | (intro x))

theorem announce_frame {f : JFrame} {l : List Dest} {a0 b : Block} {ps : List Piece} (hp : [.jade, .ch, .trace] ⊆ ps)
    (h0 : onlyChanges ps a0 b) : onlyChanges ps a0 (announce f l b) := by
  refine onlyChanges_step ?_ hp h0
  unfold announce
  repeat' (first
    | with_reducible assumption
    | with_reducible exact onlyChanges_refl _ _
    | with_reducible refine Block.modCh_frame (by decide) ?_
    | with_reducible refine Block.modJade_frame (by decide) ?_
    | (with_reducible refine onlyChanges_foldl ?_ ?_; intro x y hx)
    | (extract_lets +onlyGivenNames x; refine imp_app (p := onlyChanges _ _ x) ?_ (fun hx => ?_); rotate_left; clear_value x; rotate_right)
    | extract_lets +onlyGivenNames x
    | split
    | dsimp only
    | subst x
    | (intro x))

theorem writeSegStripe_frame {frame : Nat} {s : Nat} {d : Dest} {pic : Option (Array Int)} {m : BitVec 16} {a0 b : Block} {ps : List Piece} (hp : [.jade, .dram, .ch, .trace] ⊆ ps)
    (h0 : onlyChanges ps a0 b) : onlyChanges ps a0 (writeSegStripe frame s d pic m b) := by
  refine onlyChanges_step ?_ hp h0
  unfold writeSegStripe
  repeat' (first
    | with_reducible assumption
    | with_reducible exact onlyChanges_refl _ _
    | with_reducible refine sendSegToken_frame (by decide) ?_
    | with_reducible refine modFrame_frame (by decide) ?_
    | with_reducible refine Block.dramWrite_frame (by decide) ?_
    | (with_reducible refine onlyChanges_foldl ?_ ?_; intro x y hx)
    | (extract_lets +onlyGivenNames x; refine imp_app (p := onlyChanges _ _ x) ?_ (fun hx => ?_); rotate_left; clear_value x; rotate_right)
    | extract_lets +onlyGivenNames x
    | split
    | dsimp only
    | subst x
    | (intro x))

theorem writeStats_frame {frame : Nat} {rec_ : List Byte} {d : Dest} {a0 b : Block} {ps : List Piece} (hp : [.jade, .dram, .ch, .trace] ⊆ ps)
    (h0 : onlyChanges ps a0 b) : onlyChanges ps a0 (writeStats frame rec_ d b) := by
  refine onlyChanges_step ?_ hp h0
  unfold writeStats
  repeat' (first
    | with_reducible assumption
    | with_reducible exact onlyChanges_refl _ _
    | with_reducible refine sendSegToken_frame (by decide) ?_
    | with_reducible refine modFrame_frame (by decide) ?_
    | with_reducible refine Block.dramWrite_frame (by decide) ?_
    | (with_reducible refine onlyChanges_foldl ?_ ?_; intro x y hx)
    | (extract_lets +onlyGivenNames x; refine imp_app (p := onlyChanges _ _ x) ?_ (fun hx => ?_); rotate_left; clear_value x; rotate_right)
    | extract_lets +onlyGivenNames x
    | split
    | dsimp only
    | subst x
    | (intro x))

theorem finishFrame_frame {frame : Nat} {a0 b : Block} {ps : List Piece} (hp : [.jade, .evr, .dram, .ch, .trace] ⊆ ps)
    (h0 : onlyChanges ps a0 b) : onlyChanges ps a0 (finishFrame frame b) := by
  refine onlyChanges_step ?_ hp h0
  unfold finishFrame
  repeat' (first
    | with_reducible assumption
    | with_reducible exact onlyChanges_refl _ _
    | with_reducible refine writeStats_frame (by decide) ?_
    | with_reducible refine closeFrame_frame (by decide) ?_
    | with_reducible refine mergeDigest_frame (by decide) ?_
    | with_reducible refine Block.modJade_frame (by decide) ?_
    | (with_reducible refine onlyChanges_foldl ?_ ?_; intro x y hx)
    | (extract_lets +onlyGivenNames x; refine imp_app (p := onlyChanges _ _ x) ?_ (fun hx => ?_); rotate_left; clear_value x; rotate_right)
    | extract_lets +onlyGivenNames x
    | split
    | dsimp only
    | subst x
    | (intro x))

theorem poisonRef_frame {s : Snapshot} {kind : RefKind} {a0 b : Block} {ps : List Piece} (hp : [.jade] ⊆ ps)
    (h0 : onlyChanges ps a0 b) : onlyChanges ps a0 (poisonRef s kind b) := by
  refine onlyChanges_step ?_ hp h0
  unfold poisonRef
  repeat' (first
    | with_reducible assumption
    | with_reducible exact onlyChanges_refl _ _
    | with_reducible refine Block.modJade_frame (by decide) ?_
    | (with_reducible refine onlyChanges_foldl ?_ ?_; intro x y hx)
    | (extract_lets +onlyGivenNames x; refine imp_app (p := onlyChanges _ _ x) ?_ (fun hx => ?_); rotate_left; clear_value x; rotate_right)
    | extract_lets +onlyGivenNames x
    | split
    | dsimp only
    | subst x
    | (intro x))

theorem stripeProcess_frame {ecc : Ecc} {kind : RefKind} {a0 b : Block} {ps : List Piece} (hp : [.jade, .opal, .posts, .evr, .topaz, .dram, .ch, .trace, .out] ⊆ ps)
    (h0 : onlyChanges ps a0 b) : onlyChanges ps a0 (stripeProcess ecc kind b) := by
  refine onlyChanges_step ?_ hp h0
  unfold stripeProcess
  repeat' (first
    | with_reducible assumption
    | with_reducible exact onlyChanges_refl _ _
    | with_reducible refine poisonRef_frame (by decide) ?_
    | with_reducible refine finishFrame_frame (by decide) ?_
    | with_reducible refine writeSegStripe_frame (by decide) ?_
    | with_reducible refine announce_frame (by decide) ?_
    | with_reducible refine modFrame_frame (by decide) ?_
    | with_reducible refine eccCount_frame (by decide) ?_
    | with_reducible refine tellOpal_frame (by decide) ?_
    | (with_reducible refine onlyChanges_foldl ?_ ?_; intro x y hx)
    | (extract_lets +onlyGivenNames x; refine imp_app (p := onlyChanges _ _ x) ?_ (fun hx => ?_); rotate_left; clear_value x; rotate_right)
    | extract_lets +onlyGivenNames x
    | split
    | dsimp only
    | subst x
    | (intro x))

theorem profileToken_frame {bad1 : Bool} {bad2 : Bool} {ecc : Ecc} {a0 b : Block} {ps : List Piece} (hp : [.jade, .posts, .thm, .otc, .evr, .beryl, .topaz, .dram, .ch, .trace, .out, .fresh] ⊆ ps)
    (h0 : onlyChanges ps a0 b) : onlyChanges ps a0 (profileToken bad1 bad2 ecc b) := by
  refine onlyChanges_step ?_ hp h0
  unfold profileToken
  repeat' (first
    | with_reducible assumption
    | with_reducible exact onlyChanges_refl _ _
    | with_reducible refine finishFrame_frame (by decide) ?_
    | with_reducible refine tapCopy_frame (by decide) ?_
    | with_reducible refine modFrame_frame (by decide) ?_
    | with_reducible refine keepToken_frame (by decide) ?_
    | with_reducible refine takeToken_frame (by decide) ?_
    | with_reducible refine eccCount_frame (by decide) ?_
    | with_reducible refine Block.modCh_frame (by decide) ?_
    | (with_reducible refine onlyChanges_foldl ?_ ?_; intro x y hx)
    | (extract_lets +onlyGivenNames x; refine imp_app (p := onlyChanges _ _ x) ?_ (fun hx => ?_); rotate_left; clear_value x; rotate_right)
    | extract_lets +onlyGivenNames x
    | split
    | dsimp only
    | subst x
    | (intro x))

theorem destinationSet_frame {a0 b : Block} {ps : List Piece} (hp : [.jade, .evr, .dram, .ch, .trace] ⊆ ps)
    (h0 : onlyChanges ps a0 b) : onlyChanges ps a0 (destinationSet b) := by
  refine onlyChanges_step ?_ hp h0
  unfold destinationSet
  repeat' (first
    | with_reducible assumption
    | with_reducible exact onlyChanges_refl _ _
    | with_reducible refine finishFrame_frame (by decide) ?_
    | with_reducible refine modFrame_frame (by decide) ?_
    | with_reducible refine Block.modCh_frame (by decide) ?_
    | with_reducible refine Block.modJade_frame (by decide) ?_
    | (with_reducible refine onlyChanges_foldl ?_ ?_; intro x y hx)
    | (extract_lets +onlyGivenNames x; refine imp_app (p := onlyChanges _ _ x) ?_ (fun hx => ?_); rotate_left; clear_value x; rotate_right)
    | extract_lets +onlyGivenNames x
    | split
    | dsimp only
    | subst x
    | (intro x))

theorem takeReservation_frame {r : Nat × Nat × Option Nat} {a0 b : Block} {ps : List Piece} (hp : [.jade, .evr, .dram, .ch, .trace] ⊆ ps)
    (h0 : onlyChanges ps a0 b) : onlyChanges ps a0 (takeReservation r b) := by
  refine onlyChanges_step ?_ hp h0
  unfold takeReservation
  repeat' (first
    | with_reducible assumption
    | with_reducible exact onlyChanges_refl _ _
    | with_reducible refine finishFrame_frame (by decide) ?_
    | with_reducible refine Block.modJade_frame (by decide) ?_
    | (with_reducible refine onlyChanges_foldl ?_ ?_; intro x y hx)
    | (extract_lets +onlyGivenNames x; refine imp_app (p := onlyChanges _ _ x) ?_ (fun hx => ?_); rotate_left; clear_value x; rotate_right)
    | extract_lets +onlyGivenNames x
    | split
    | dsimp only
    | subst x
    | (intro x))

theorem withdrawReservation_frame {frame : Nat} {index : Nat} {a0 b : Block} {ps : List Piece} (hp : [.jade, .ch, .trace] ⊆ ps)
    (h0 : onlyChanges ps a0 b) : onlyChanges ps a0 (withdrawReservation frame index b) := by
  refine onlyChanges_step ?_ hp h0
  unfold withdrawReservation
  repeat' (first
    | with_reducible assumption
    | with_reducible exact onlyChanges_refl _ _
    | with_reducible refine Block.modCh_frame (by decide) ?_
    | with_reducible refine Block.modJade_frame (by decide) ?_
    | (with_reducible refine onlyChanges_foldl ?_ ?_; intro x y hx)
    | (extract_lets +onlyGivenNames x; refine imp_app (p := onlyChanges _ _ x) ?_ (fun hx => ?_); rotate_left; clear_value x; rotate_right)
    | extract_lets +onlyGivenNames x
    | split
    | dsimp only
    | subst x
    | (intro x))

theorem retentionReservation_frame {a0 b : Block} {ps : List Piece} (hp : [.jade, .evr, .dram, .ch, .trace] ⊆ ps)
    (h0 : onlyChanges ps a0 b) : onlyChanges ps a0 (retentionReservation b) := by
  refine onlyChanges_step ?_ hp h0
  unfold retentionReservation
  repeat' (first
    | with_reducible assumption
    | with_reducible exact onlyChanges_refl _ _
    | with_reducible refine takeReservation_frame (by decide) ?_
    | with_reducible refine Block.modCh_frame (by decide) ?_
    | (with_reducible refine onlyChanges_foldl ?_ ?_; intro x y hx)
    | (extract_lets +onlyGivenNames x; refine imp_app (p := onlyChanges _ _ x) ?_ (fun hx => ?_); rotate_left; clear_value x; rotate_right)
    | extract_lets +onlyGivenNames x
    | split
    | dsimp only
    | subst x
    | (intro x))

theorem stagingReservation_frame {a0 b : Block} {ps : List Piece} (hp : [.jade, .evr, .dram, .ch, .trace] ⊆ ps)
    (h0 : onlyChanges ps a0 b) : onlyChanges ps a0 (stagingReservation b) := by
  refine onlyChanges_step ?_ hp h0
  unfold stagingReservation
  repeat' (first
    | with_reducible assumption
    | with_reducible exact onlyChanges_refl _ _
    | with_reducible refine takeReservation_frame (by decide) ?_
    | with_reducible refine Block.modCh_frame (by decide) ?_
    | (with_reducible refine onlyChanges_foldl ?_ ?_; intro x y hx)
    | (extract_lets +onlyGivenNames x; refine imp_app (p := onlyChanges _ _ x) ?_ (fun hx => ?_); rotate_left; clear_value x; rotate_right)
    | extract_lets +onlyGivenNames x
    | split
    | dsimp only
    | subst x
    | (intro x))

theorem procSettings_frame {desc : Nat} {a0 b : Block} {ps : List Piece} (hp : [.jade, .posts, .evr, .trace, .out] ⊆ ps)
    (h0 : onlyChanges ps a0 b) : onlyChanges ps a0 (procSettings desc b) := by
  refine onlyChanges_step ?_ hp h0
  unfold procSettings
  repeat' (first
    | with_reducible assumption
    | with_reducible exact onlyChanges_refl _ _
    | with_reducible refine finishCtrl_frame (by decide) ?_
    | with_reducible refine Block.setCtx_frame (by decide) ?_
    | with_reducible refine Block.modJade_frame (by decide) ?_
    | (with_reducible refine onlyChanges_foldl ?_ ?_; intro x y hx)
    | (extract_lets +onlyGivenNames x; refine imp_app (p := onlyChanges _ _ x) ?_ (fun hx => ?_); rotate_left; clear_value x; rotate_right)
    | extract_lets +onlyGivenNames x
    | split
    | dsimp only
    | subst x
    | (intro x))

theorem procSettingsResume_frame {a0 b : Block} {ps : List Piece} (hp : [.jade, .posts, .evr, .trace, .out] ⊆ ps)
    (h0 : onlyChanges ps a0 b) : onlyChanges ps a0 (procSettingsResume b) := by
  refine onlyChanges_step ?_ hp h0
  unfold procSettingsResume
  repeat' (first
    | with_reducible assumption
    | with_reducible exact onlyChanges_refl _ _
    | with_reducible refine finishCtrl_frame (by decide) ?_
    | with_reducible refine Block.modJade_frame (by decide) ?_
    | (with_reducible refine onlyChanges_foldl ?_ ?_; intro x y hx)
    | (extract_lets +onlyGivenNames x; refine imp_app (p := onlyChanges _ _ x) ?_ (fun hx => ?_); rotate_left; clear_value x; rotate_right)
    | extract_lets +onlyGivenNames x
    | split
    | dsimp only
    | subst x
    | (intro x))

theorem holdRef_frame {k : RefKind} {id : Nat} {payload : List Byte} {a0 b : Block} {ps : List Piece} (hp : [.jade, .dram] ⊆ ps)
    (h0 : onlyChanges ps a0 b) : onlyChanges ps a0 (holdRef k id payload b) := by
  refine onlyChanges_step ?_ hp h0
  unfold holdRef
  repeat' (first
    | with_reducible assumption
    | with_reducible exact onlyChanges_refl _ _
    | with_reducible refine Block.dramWrite_frame (by decide) ?_
    | with_reducible refine Block.modJade_frame (by decide) ?_
    | (with_reducible refine onlyChanges_foldl ?_ ?_; intro x y hx)
    | (extract_lets +onlyGivenNames x; refine imp_app (p := onlyChanges _ _ x) ?_ (fun hx => ?_); rotate_left; clear_value x; rotate_right)
    | extract_lets +onlyGivenNames x
    | split
    | dsimp only
    | subst x
    | (intro x))

theorem refLoad_frame {desc : Nat} {buf : Option (List Byte)} {a0 b : Block} {ps : List Piece} (hp : [.jade, .posts, .evr, .dram, .trace, .out] ⊆ ps)
    (h0 : onlyChanges ps a0 b) : onlyChanges ps a0 (refLoad desc buf b) := by
  refine onlyChanges_step ?_ hp h0
  unfold refLoad
  repeat' (first
    | with_reducible assumption
    | with_reducible exact onlyChanges_refl _ _
    | with_reducible refine holdRef_frame (by decide) ?_
    | with_reducible refine finishCtrl_frame (by decide) ?_
    | with_reducible refine Block.modJade_frame (by decide) ?_
    | (with_reducible refine onlyChanges_foldl ?_ ?_; intro x y hx)
    | (extract_lets +onlyGivenNames x; refine imp_app (p := onlyChanges _ _ x) ?_ (fun hx => ?_); rotate_left; clear_value x; rotate_right)
    | extract_lets +onlyGivenNames x
    | split
    | dsimp only
    | subst x
    | (intro x))

theorem refUnload_frame {desc : Nat} {a0 b : Block} {ps : List Piece} (hp : [.jade, .posts, .evr, .trace, .out] ⊆ ps)
    (h0 : onlyChanges ps a0 b) : onlyChanges ps a0 (refUnload desc b) := by
  refine onlyChanges_step ?_ hp h0
  unfold refUnload
  repeat' (first
    | with_reducible assumption
    | with_reducible exact onlyChanges_refl _ _
    | with_reducible refine finishCtrl_frame (by decide) ?_
    | with_reducible refine Block.modJade_frame (by decide) ?_
    | (with_reducible refine onlyChanges_foldl ?_ ?_; intro x y hx)
    | (extract_lets +onlyGivenNames x; refine imp_app (p := onlyChanges _ _ x) ?_ (fun hx => ?_); rotate_left; clear_value x; rotate_right)
    | extract_lets +onlyGivenNames x
    | split
    | dsimp only
    | subst x
    | (intro x))

theorem refSlotFreed_frame {a0 b : Block} {ps : List Piece} (hp : [.jade, .posts, .evr, .dram, .trace, .out] ⊆ ps)
    (h0 : onlyChanges ps a0 b) : onlyChanges ps a0 (refSlotFreed b) := by
  refine onlyChanges_step ?_ hp h0
  unfold refSlotFreed
  repeat' (first
    | with_reducible assumption
    | with_reducible exact onlyChanges_refl _ _
    | with_reducible refine holdRef_frame (by decide) ?_
    | with_reducible refine finishCtrl_frame (by decide) ?_
    | with_reducible refine Block.modJade_frame (by decide) ?_
    | (with_reducible refine onlyChanges_foldl ?_ ?_; intro x y hx)
    | (extract_lets +onlyGivenNames x; refine imp_app (p := onlyChanges _ _ x) ?_ (fun hx => ?_); rotate_left; clear_value x; rotate_right)
    | extract_lets +onlyGivenNames x
    | split
    | dsimp only
    | subst x
    | (intro x))

theorem clrCounts_frame {a0 b : Block} {ps : List Piece} (hp : [.jade] ⊆ ps)
    (h0 : onlyChanges ps a0 b) : onlyChanges ps a0 (clrCounts b) := by
  refine onlyChanges_step ?_ hp h0
  unfold clrCounts
  repeat' (first
    | with_reducible assumption
    | with_reducible exact onlyChanges_refl _ _
    | with_reducible refine Block.modJade_frame (by decide) ?_
    | (with_reducible refine onlyChanges_foldl ?_ ?_; intro x y hx)
    | (extract_lets +onlyGivenNames x; refine imp_app (p := onlyChanges _ _ x) ?_ (fun hx => ?_); rotate_left; clear_value x; rotate_right)
    | extract_lets +onlyGivenNames x
    | split
    | dsimp only
    | subst x
    | (intro x))

theorem clockDivisionRequest_frame {a0 b : Block} {ps : List Piece} (hp : [.jade, .ch, .trace] ⊆ ps)
    (h0 : onlyChanges ps a0 b) : onlyChanges ps a0 (clockDivisionRequest b) := by
  refine onlyChanges_step ?_ hp h0
  unfold clockDivisionRequest
  repeat' (first
    | with_reducible assumption
    | with_reducible exact onlyChanges_refl _ _
    | with_reducible refine Block.modCh_frame (by decide) ?_
    | with_reducible refine Block.modJade_frame (by decide) ?_
    | (with_reducible refine onlyChanges_foldl ?_ ?_; intro x y hx)
    | (extract_lets +onlyGivenNames x; refine imp_app (p := onlyChanges _ _ x) ?_ (fun hx => ?_); rotate_left; clear_value x; rotate_right)
    | extract_lets +onlyGivenNames x
    | split
    | dsimp only
    | subst x
    | (intro x))

theorem jadeClockDivide_frame {a0 b : Block} {ps : List Piece} (hp : [.jade] ⊆ ps)
    (h0 : onlyChanges ps a0 b) : onlyChanges ps a0 (jadeClockDivide b) := by
  refine onlyChanges_step ?_ hp h0
  unfold jadeClockDivide
  repeat' (first
    | with_reducible assumption
    | with_reducible exact onlyChanges_refl _ _
    | with_reducible refine Block.modJade_frame (by decide) ?_
    | (with_reducible refine onlyChanges_foldl ?_ ?_; intro x y hx)
    | (extract_lets +onlyGivenNames x; refine imp_app (p := onlyChanges _ _ x) ?_ (fun hx => ?_); rotate_left; clear_value x; rotate_right)
    | extract_lets +onlyGivenNames x
    | split
    | dsimp only
    | subst x
    | (intro x))

theorem segMod_frame {frame : Nat} {index : Nat} {f : SpinelSeg → SpinelSeg} {a0 b : Block} {ps : List Piece} (hp : [.spinel] ⊆ ps)
    (h0 : onlyChanges ps a0 b) : onlyChanges ps a0 (segMod frame index f b) := by
  refine onlyChanges_step ?_ hp h0
  unfold segMod
  repeat' (first
    | with_reducible assumption
    | with_reducible exact onlyChanges_refl _ _
    | with_reducible refine Block.modSpinel_frame (by decide) ?_
    | (with_reducible refine onlyChanges_foldl ?_ ?_; intro x y hx)
    | (extract_lets +onlyGivenNames x; refine imp_app (p := onlyChanges _ _ x) ?_ (fun hx => ?_); rotate_left; clear_value x; rotate_right)
    | extract_lets +onlyGivenNames x
    | split
    | dsimp only
    | subst x
    | (intro x))

theorem segFree_frame {frame : Nat} {index : Nat} {a0 b : Block} {ps : List Piece} (hp : [.spinel, .ch, .trace] ⊆ ps)
    (h0 : onlyChanges ps a0 b) : onlyChanges ps a0 (segFree frame index b) := by
  refine onlyChanges_step ?_ hp h0
  unfold segFree
  repeat' (first
    | with_reducible assumption
    | with_reducible exact onlyChanges_refl _ _
    | with_reducible refine Block.modCh_frame (by decide) ?_
    | with_reducible refine Block.modSpinel_frame (by decide) ?_
    | (with_reducible refine onlyChanges_foldl ?_ ?_; intro x y hx)
    | (extract_lets +onlyGivenNames x; refine imp_app (p := onlyChanges _ _ x) ?_ (fun hx => ?_); rotate_left; clear_value x; rotate_right)
    | extract_lets +onlyGivenNames x
    | split
    | dsimp only
    | subst x
    | (intro x))

theorem segDrop_frame {frame : Nat} {index : Nat} {a0 b : Block} {ps : List Piece} (hp : [.spinel, .ch, .trace] ⊆ ps)
    (h0 : onlyChanges ps a0 b) : onlyChanges ps a0 (segDrop frame index b) := by
  refine onlyChanges_step ?_ hp h0
  unfold segDrop
  repeat' (first
    | with_reducible assumption
    | with_reducible exact onlyChanges_refl _ _
    | with_reducible refine segFree_frame (by decide) ?_
    | with_reducible refine segMod_frame (by decide) ?_
    | (with_reducible refine onlyChanges_foldl ?_ ?_; intro x y hx)
    | (extract_lets +onlyGivenNames x; refine imp_app (p := onlyChanges _ _ x) ?_ (fun hx => ?_); rotate_left; clear_value x; rotate_right)
    | extract_lets +onlyGivenNames x
    | split
    | dsimp only
    | subst x
    | (intro x))

theorem moveBytes_frame {g : SpinelSeg} {key : Option (List Byte)} {buf : Nat} {lo : Nat} {hi : Nat} {a0 b : Block} {ps : List Piece} (hp : [.out] ⊆ ps)
    (h0 : onlyChanges ps a0 b) : onlyChanges ps a0 (moveBytes g key buf lo hi b) := by
  refine onlyChanges_step ?_ hp h0
  unfold moveBytes
  repeat' (first
    | with_reducible assumption
    | with_reducible exact onlyChanges_refl _ _
    | with_reducible refine Block.hostWrite_frame (by decide) ?_
    | (with_reducible refine onlyChanges_foldl ?_ ?_; intro x y hx)
    | (extract_lets +onlyGivenNames x; refine imp_app (p := onlyChanges _ _ x) ?_ (fun hx => ?_); rotate_left; clear_value x; rotate_right)
    | extract_lets +onlyGivenNames x
    | split
    | dsimp only
    | subst x
    | (intro x))

theorem moveSegment_frame {frame : Nat} {index : Nat} {a0 b : Block} {ps : List Piece} (hp : [.spinel, .ch, .trace, .out] ⊆ ps)
    (h0 : onlyChanges ps a0 b) : onlyChanges ps a0 (moveSegment frame index b) := by
  refine onlyChanges_step ?_ hp h0
  unfold moveSegment
  repeat' (first
    | with_reducible assumption
    | with_reducible exact onlyChanges_refl _ _
    | with_reducible refine moveBytes_frame (by decide) ?_
    | with_reducible refine segMod_frame (by decide) ?_
    | with_reducible refine Block.modCh_frame (by decide) ?_
    | (with_reducible refine onlyChanges_foldl ?_ ?_; intro x y hx)
    | (extract_lets +onlyGivenNames x; refine imp_app (p := onlyChanges _ _ x) ?_ (fun hx => ?_); rotate_left; clear_value x; rotate_right)
    | extract_lets +onlyGivenNames x
    | split
    | dsimp only
    | subst x
    | (intro x))

theorem takeSpinelNote_frame {n : SpinelNote} {a0 b : Block} {ps : List Piece} (hp : [.spinel, .ch, .trace, .out] ⊆ ps)
    (h0 : onlyChanges ps a0 b) : onlyChanges ps a0 (takeSpinelNote n b) := by
  refine onlyChanges_step ?_ hp h0
  unfold takeSpinelNote
  repeat' (first
    | with_reducible assumption
    | with_reducible exact onlyChanges_refl _ _
    | with_reducible refine moveSegment_frame (by decide) ?_
    | with_reducible refine segDrop_frame (by decide) ?_
    | with_reducible refine segMod_frame (by decide) ?_
    | (with_reducible refine onlyChanges_foldl ?_ ?_; intro x y hx)
    | (extract_lets +onlyGivenNames x; refine imp_app (p := onlyChanges _ _ x) ?_ (fun hx => ?_); rotate_left; clear_value x; rotate_right)
    | extract_lets +onlyGivenNames x
    | split
    | dsimp only
    | subst x
    | (intro x))

theorem takeSpinelNotes_frame {a0 b : Block} {ps : List Piece} (hp : [.spinel, .ch, .trace, .out] ⊆ ps)
    (h0 : onlyChanges ps a0 b) : onlyChanges ps a0 (takeSpinelNotes b) := by
  refine onlyChanges_step ?_ hp h0
  unfold takeSpinelNotes
  repeat' (first
    | with_reducible assumption
    | with_reducible exact onlyChanges_refl _ _
    | with_reducible refine takeSpinelNote_frame (by decide) ?_
    | with_reducible refine Block.modCh_frame (by decide) ?_
    | (with_reducible refine onlyChanges_foldl ?_ ?_; intro x y hx)
    | (extract_lets +onlyGivenNames x; refine imp_app (p := onlyChanges _ _ x) ?_ (fun hx => ?_); rotate_left; clear_value x; rotate_right)
    | extract_lets +onlyGivenNames x
    | split
    | dsimp only
    | subst x
    | (intro x))

theorem tellSpinel_frame {n : SpinelNote} {a0 b : Block} {ps : List Piece} (hp : [.spinel, .ch, .trace, .out] ⊆ ps)
    (h0 : onlyChanges ps a0 b) : onlyChanges ps a0 (tellSpinel n b) := by
  refine onlyChanges_step ?_ hp h0
  unfold tellSpinel
  repeat' (first
    | with_reducible assumption
    | with_reducible exact onlyChanges_refl _ _
    | with_reducible refine takeSpinelNotes_frame (by decide) ?_
    | with_reducible refine Block.modCh_frame (by decide) ?_
    | (with_reducible refine onlyChanges_foldl ?_ ?_; intro x y hx)
    | (extract_lets +onlyGivenNames x; refine imp_app (p := onlyChanges _ _ x) ?_ (fun hx => ?_); rotate_left; clear_value x; rotate_right)
    | extract_lets +onlyGivenNames x
    | split
    | dsimp only
    | subst x
    | (intro x))

theorem logAssign_frame {c : Nat} {frame : Nat} {word : Nat} {a0 b : Block} {ps : List Piece} (hp : [.evr, .trace] ⊆ ps)
    (h0 : onlyChanges ps a0 b) : onlyChanges ps a0 (logAssign c frame word b) := by
  refine onlyChanges_step ?_ hp h0
  unfold logAssign
  repeat' (first
    | with_reducible assumption
    | with_reducible exact onlyChanges_refl _ _
    | with_reducible refine Block.logEvr_frame (by decide) ?_
    | (with_reducible refine onlyChanges_foldl ?_ ?_; intro x y hx)
    | (extract_lets +onlyGivenNames x; refine imp_app (p := onlyChanges _ _ x) ?_ (fun hx => ?_); rotate_left; clear_value x; rotate_right)
    | extract_lets +onlyGivenNames x
    | split
    | dsimp only
    | subst x
    | (intro x))

theorem assignBuffers_frame {k c : Nat} {a0 b : Block} {ps : List Piece} (hp : [.spinel, .opal, .posts, .evr, .ch, .trace, .out] ⊆ ps)
    (h : onlyChanges ps a0 b) : onlyChanges ps a0 (assignBuffers k c b) := by
  refine onlyChanges_step ?_ hp h
  clear h hp
  induction k generalizing b with
  | zero => exact onlyChanges_refl _ _
  | succ k ih =>
    unfold assignBuffers
    repeat' (first
      | with_reducible assumption
      | with_reducible exact onlyChanges_refl _ _
      | with_reducible refine onlyChanges_trans ?_ ih
      | with_reducible refine logAssign_frame (by decide) ?_
      | with_reducible refine tellSpinel_frame (by decide) ?_
      | with_reducible refine decideDest_frame (by decide) ?_
      | with_reducible refine destMod_frame (by decide) ?_
      | with_reducible refine finish_frame (by decide) ?_
      | (with_reducible refine onlyChanges_foldl ?_ ?_; intro x y hx)
      | (extract_lets +onlyGivenNames x; refine imp_app (p := onlyChanges _ _ x) ?_ (fun hx => ?_); rotate_left; clear_value x; rotate_right)
      | extract_lets +onlyGivenNames x
      | split
      | dsimp only
      | subst x
      | (intro x))

theorem serveHost_frame {c : Nat} {a0 b : Block} {ps : List Piece} (hp : [.spinel, .opal, .posts, .evr, .ch, .trace, .out] ⊆ ps)
    (h0 : onlyChanges ps a0 b) : onlyChanges ps a0 (serveHost c b) := by
  refine onlyChanges_step ?_ hp h0
  unfold serveHost
  repeat' (first
    | with_reducible assumption
    | with_reducible exact onlyChanges_refl _ _
    | with_reducible refine assignBuffers_frame (by decide) ?_
    | (with_reducible refine onlyChanges_foldl ?_ ?_; intro x y hx)
    | (extract_lets +onlyGivenNames x; refine imp_app (p := onlyChanges _ _ x) ?_ (fun hx => ?_); rotate_left; clear_value x; rotate_right)
    | extract_lets +onlyGivenNames x
    | split
    | dsimp only
    | subst x
    | (intro x))

theorem serveAllHosts_frame {a0 b : Block} {ps : List Piece} (hp : [.spinel, .opal, .posts, .evr, .ch, .trace, .out] ⊆ ps)
    (h0 : onlyChanges ps a0 b) : onlyChanges ps a0 (serveAllHosts b) := by
  refine onlyChanges_step ?_ hp h0
  unfold serveAllHosts
  repeat' (first
    | with_reducible assumption
    | with_reducible exact onlyChanges_refl _ _
    | with_reducible refine serveHost_frame (by decide) ?_
    | with_reducible refine moveSegment_frame (by decide) ?_
    | (with_reducible refine onlyChanges_foldl ?_ ?_; intro x y hx)
    | (extract_lets +onlyGivenNames x; refine imp_app (p := onlyChanges _ _ x) ?_ (fun hx => ?_); rotate_left; clear_value x; rotate_right)
    | extract_lets +onlyGivenNames x
    | split
    | dsimp only
    | subst x
    | (intro x))

theorem failPost_frame {frame : Nat} {d : LedgerDest} {st : Nat} {a0 b : Block} {ps : List Piece} (hp : [.posts, .evr, .trace, .out] ⊆ ps)
    (h0 : onlyChanges ps a0 b) : onlyChanges ps a0 (failPost frame d st b) := by
  refine onlyChanges_step ?_ hp h0
  unfold failPost
  repeat' (first
    | with_reducible assumption
    | with_reducible exact onlyChanges_refl _ _
    | with_reducible refine finish_frame (by decide) ?_
    | (with_reducible refine onlyChanges_foldl ?_ ?_; intro x y hx)
    | (extract_lets +onlyGivenNames x; refine imp_app (p := onlyChanges _ _ x) ?_ (fun hx => ?_); rotate_left; clear_value x; rotate_right)
    | extract_lets +onlyGivenNames x
    | split
    | dsimp only
    | subst x
    | (intro x))

theorem dropHost_frame {frame : Nat} {index : Nat} {o : DestOutcome} {st : Nat} {a0 b : Block} {ps : List Piece} (hp : [.spinel, .opal, .posts, .evr, .ch, .trace, .out] ⊆ ps)
    (h0 : onlyChanges ps a0 b) : onlyChanges ps a0 (dropHost frame index o st b) := by
  refine onlyChanges_step ?_ hp h0
  unfold dropHost
  repeat' (first
    | with_reducible assumption
    | with_reducible exact onlyChanges_refl _ _
    | with_reducible refine failPost_frame (by decide) ?_
    | with_reducible refine tellSpinel_frame (by decide) ?_
    | with_reducible refine decideDest_frame (by decide) ?_
    | (with_reducible refine onlyChanges_foldl ?_ ?_; intro x y hx)
    | (extract_lets +onlyGivenNames x; refine imp_app (p := onlyChanges _ _ x) ?_ (fun hx => ?_); rotate_left; clear_value x; rotate_right)
    | extract_lets +onlyGivenNames x
    | split
    | dsimp only
    | subst x
    | (intro x))

theorem dropUnassigned_frame {frame : Nat} {d : Dest} {o : DestOutcome} {a0 b : Block} {ps : List Piece} (hp : [.spinel, .opal, .posts, .evr, .ch, .trace, .out] ⊆ ps)
    (h0 : onlyChanges ps a0 b) : onlyChanges ps a0 (dropUnassigned frame d o b) := by
  refine onlyChanges_step ?_ hp h0
  unfold dropUnassigned
  repeat' (first
    | with_reducible assumption
    | with_reducible exact onlyChanges_refl _ _
    | with_reducible refine logAssign_frame (by decide) ?_
    | with_reducible refine tellSpinel_frame (by decide) ?_
    | with_reducible refine decideDest_frame (by decide) ?_
    | (with_reducible refine onlyChanges_foldl ?_ ?_; intro x y hx)
    | (extract_lets +onlyGivenNames x; refine imp_app (p := onlyChanges _ _ x) ?_ (fun hx => ?_); rotate_left; clear_value x; rotate_right)
    | extract_lets +onlyGivenNames x
    | split
    | dsimp only
    | subst x
    | (intro x))

theorem repostBuffers_frame {a0 b : Block} {ps : List Piece} (hp : [.spinel, .ch, .trace, .out] ⊆ ps)
    (h0 : onlyChanges ps a0 b) : onlyChanges ps a0 (repostBuffers b) := by
  refine onlyChanges_step ?_ hp h0
  unfold repostBuffers
  repeat' (first
    | with_reducible assumption
    | with_reducible exact onlyChanges_refl _ _
    | with_reducible refine tellSpinel_frame (by decide) ?_
    | (with_reducible refine onlyChanges_foldl ?_ ?_; intro x y hx)
    | (extract_lets +onlyGivenNames x; refine imp_app (p := onlyChanges _ _ x) ?_ (fun hx => ?_); rotate_left; clear_value x; rotate_right)
    | extract_lets +onlyGivenNames x
    | split
    | dsimp only
    | subst x
    | (intro x))

theorem mergeDests_frame {frame : Nat} {m : BitVec 16} {is : List Nat} {a0 b : Block} {ps : List Piece} (hp : [.evr, .trace] ⊆ ps)
    (h0 : onlyChanges ps a0 b) : onlyChanges ps a0 (mergeDests frame m is b) := by
  refine onlyChanges_step ?_ hp h0
  unfold mergeDests
  repeat' (first
    | with_reducible assumption
    | with_reducible exact onlyChanges_refl _ _
    | with_reducible refine mergeFail_frame (by decide) ?_
    | (with_reducible refine onlyChanges_foldl ?_ ?_; intro x y hx)
    | (extract_lets +onlyGivenNames x; refine imp_app (p := onlyChanges _ _ x) ?_ (fun hx => ?_); rotate_left; clear_value x; rotate_right)
    | extract_lets +onlyGivenNames x
    | split
    | dsimp only
    | subst x
    | (intro x))

theorem takeFailed_frame {m : HostMoved} {a0 b : Block} {ps : List Piece} (hp : [.spinel, .opal, .posts, .evr, .ch, .trace, .out] ⊆ ps)
    (h0 : onlyChanges ps a0 b) : onlyChanges ps a0 (takeFailed m b) := by
  refine onlyChanges_step ?_ hp h0
  unfold takeFailed
  repeat' (first
    | with_reducible assumption
    | with_reducible exact onlyChanges_refl _ _
    | with_reducible refine mergeDests_frame (by decide) ?_
    | with_reducible refine dropHost_frame (by decide) ?_
    | with_reducible refine markFrame_frame (by decide) ?_
    | with_reducible refine destMod_frame (by decide) ?_
    | (with_reducible refine onlyChanges_foldl ?_ ?_; intro x y hx)
    | (extract_lets +onlyGivenNames x; refine imp_app (p := onlyChanges _ _ x) ?_ (fun hx => ?_); rotate_left; clear_value x; rotate_right)
    | extract_lets +onlyGivenNames x
    | split
    | dsimp only
    | subst x
    | (intro x))

theorem failInOpal_frame {frame : Nat} {a0 b : Block} {ps : List Piece} (hp : [.spinel, .opal, .posts, .evr, .topaz, .ch, .trace, .out] ⊆ ps)
    (h0 : onlyChanges ps a0 b) : onlyChanges ps a0 (failInOpal frame b) := by
  refine onlyChanges_step ?_ hp h0
  unfold failInOpal
  repeat' (first
    | with_reducible assumption
    | with_reducible exact onlyChanges_refl _ _
    | with_reducible refine mergeDests_frame (by decide) ?_
    | with_reducible refine dropHost_frame (by decide) ?_
    | with_reducible refine noteFailed_frame (by decide) ?_
    | with_reducible refine markFrame_frame (by decide) ?_
    | with_reducible refine Block.modOpal_frame (by decide) ?_
    | (with_reducible refine onlyChanges_foldl ?_ ?_; intro x y hx)
    | (extract_lets +onlyGivenNames x; refine imp_app (p := onlyChanges _ _ x) ?_ (fun hx => ?_); rotate_left; clear_value x; rotate_right)
    | extract_lets +onlyGivenNames x
    | split
    | dsimp only
    | subst x
    | (intro x))

theorem takeMoved_frame {m : HostMoved} {a0 b : Block} {ps : List Piece} (hp : [.spinel, .opal, .posts, .evr, .ch, .trace, .out] ⊆ ps)
    (h0 : onlyChanges ps a0 b) : onlyChanges ps a0 (takeMoved m b) := by
  refine onlyChanges_step ?_ hp h0
  unfold takeMoved
  repeat' (first
    | with_reducible assumption
    | with_reducible exact onlyChanges_refl _ _
    | with_reducible refine takeFailed_frame (by decide) ?_
    | with_reducible refine tellSpinel_frame (by decide) ?_
    | with_reducible refine destMod_frame (by decide) ?_
    | with_reducible refine finish_frame (by decide) ?_
    | (with_reducible refine onlyChanges_foldl ?_ ?_; intro x y hx)
    | (extract_lets +onlyGivenNames x; refine imp_app (p := onlyChanges _ _ x) ?_ (fun hx => ?_); rotate_left; clear_value x; rotate_right)
    | extract_lets +onlyGivenNames x
    | split
    | dsimp only
    | subst x
    | (intro x))

end Sys2Proof.Machine
end

