-- ==== Sys2Proof/Laws/FrameOpal.lean ====
section
/-! SUPPORT. Frames of the operations of Spinel, Ledger, Opal. -/

namespace Sys2Proof.Machine

theorem slotSet_frame {c : Nat} {k : KeySlot} {a0 b : Block} {ps : List Piece} (hp : [.spinel] ⊆ ps)
    (h0 : onlyChanges ps a0 b) : onlyChanges ps a0 (slotSet c k b) := by
  refine onlyChanges_step ?_ hp h0
  unfold slotSet
  repeat' (first
    | with_reducible assumption
    | with_reducible exact onlyChanges_refl _ _
    | with_reducible refine Block.modSpinel_frame (by decide) ?_
    | (with_reducible refine onlyChanges_foldl ?_ ?_; intro x y hx)
    | (extract_lets +onlyGivenNames x; refine imp_app (p := onlyChanges _ _ x) ?_ (fun hx => ?_); rotate_left; clear_value x; rotate_right)
    | extract_lets +onlyGivenNames x
    | split
    | dsimp only
    | subst x
    | (intro x))

theorem failSegment_frame {frame : Nat} {index : Nat} {stripe : Nat} {m : BitVec 16} {a0 b : Block} {ps : List Piece} (hp : [.spinel, .ch, .trace] ⊆ ps)
    (h0 : onlyChanges ps a0 b) : onlyChanges ps a0 (failSegment frame index stripe m b) := by
  refine onlyChanges_step ?_ hp h0
  unfold failSegment
  repeat' (first
    | with_reducible assumption
    | with_reducible exact onlyChanges_refl _ _
    | with_reducible refine segMod_frame (by decide) ?_
    | with_reducible refine Block.modCh_frame (by decide) ?_
    | (with_reducible refine onlyChanges_foldl ?_ ?_; intro x y hx)
    | (extract_lets +onlyGivenNames x; refine imp_app (p := onlyChanges _ _ x) ?_ (fun hx => ?_); rotate_left; clear_value x; rotate_right)
    | extract_lets +onlyGivenNames x
    | split
    | dsimp only
    | subst x
    | (intro x))

theorem hostToken_frame {t : SegToken} {ecc : Ecc} {a0 b : Block} {ps : List Piece} (hp : [.spinel, .opal, .posts, .evr, .topaz, .ch, .trace, .out] ⊆ ps)
    (h0 : onlyChanges ps a0 b) : onlyChanges ps a0 (hostToken t ecc b) := by
  refine onlyChanges_step ?_ hp h0
  unfold hostToken
  repeat' (first
    | with_reducible assumption
    | with_reducible exact onlyChanges_refl _ _
    | with_reducible refine failSegment_frame (by decide) ?_
    | with_reducible refine serveHost_frame (by decide) ?_
    | with_reducible refine moveSegment_frame (by decide) ?_
    | with_reducible refine segFree_frame (by decide) ?_
    | with_reducible refine segMod_frame (by decide) ?_
    | with_reducible refine eccCount_frame (by decide) ?_
    | with_reducible refine tellOpal_frame (by decide) ?_
    | (with_reducible refine onlyChanges_foldl ?_ ?_; intro x y hx)
    | (extract_lets +onlyGivenNames x; refine imp_app (p := onlyChanges _ _ x) ?_ (fun hx => ?_); rotate_left; clear_value x; rotate_right)
    | extract_lets +onlyGivenNames x
    | split
    | dsimp only
    | subst x
    | (intro x))

theorem egressDigest_frame {frame : Nat} {a0 b : Block} {ps : List Piece} (hp : [.evr, .trace] ⊆ ps)
    (h0 : onlyChanges ps a0 b) : onlyChanges ps a0 (egressDigest frame b) := by
  refine onlyChanges_step ?_ hp h0
  unfold egressDigest
  repeat' (first
    | with_reducible assumption
    | with_reducible exact onlyChanges_refl _ _
    | with_reducible refine mergeDigest_frame (by decide) ?_
    | (with_reducible refine onlyChanges_foldl ?_ ?_; intro x y hx)
    | (extract_lets +onlyGivenNames x; refine imp_app (p := onlyChanges _ _ x) ?_ (fun hx => ?_); rotate_left; clear_value x; rotate_right)
    | extract_lets +onlyGivenNames x
    | split
    | dsimp only
    | subst x
    | (intro x))

theorem passToken_frame {t : SegToken} {a0 b : Block} {ps : List Piece} (hp : [.evr, .ch, .trace] ⊆ ps)
    (h0 : onlyChanges ps a0 b) : onlyChanges ps a0 (passToken t b) := by
  refine onlyChanges_step ?_ hp h0
  unfold passToken
  repeat' (first
    | with_reducible assumption
    | with_reducible exact onlyChanges_refl _ _
    | with_reducible refine egressDigest_frame (by decide) ?_
    | with_reducible refine Block.modCh_frame (by decide) ?_
    | (with_reducible refine onlyChanges_foldl ?_ ?_; intro x y hx)
    | (extract_lets +onlyGivenNames x; refine imp_app (p := onlyChanges _ _ x) ?_ (fun hx => ?_); rotate_left; clear_value x; rotate_right)
    | extract_lets +onlyGivenNames x
    | split
    | dsimp only
    | subst x
    | (intro x))

theorem retireToken_frame {t : SegToken} {a0 b : Block} {ps : List Piece} (hp : [.ch, .trace] ⊆ ps)
    (h0 : onlyChanges ps a0 b) : onlyChanges ps a0 (retireToken t b) := by
  refine onlyChanges_step ?_ hp h0
  unfold retireToken
  repeat' (first
    | with_reducible assumption
    | with_reducible exact onlyChanges_refl _ _
    | with_reducible refine Block.modCh_frame (by decide) ?_
    | (with_reducible refine onlyChanges_foldl ?_ ?_; intro x y hx)
    | (extract_lets +onlyGivenNames x; refine imp_app (p := onlyChanges _ _ x) ?_ (fun hx => ?_); rotate_left; clear_value x; rotate_right)
    | extract_lets +onlyGivenNames x
    | split
    | dsimp only
    | subst x
    | (intro x))

theorem dropDue_frame {frame : Nat} {a0 b : Block} {ps : List Piece} (hp : [.ch, .trace] ⊆ ps)
    (h0 : onlyChanges ps a0 b) : onlyChanges ps a0 (dropDue frame b) := by
  refine onlyChanges_step ?_ hp h0
  unfold dropDue
  repeat' (first
    | with_reducible assumption
    | with_reducible exact onlyChanges_refl _ _
    | with_reducible refine Block.modCh_frame (by decide) ?_
    | (with_reducible refine onlyChanges_foldl ?_ ?_; intro x y hx)
    | (extract_lets +onlyGivenNames x; refine imp_app (p := onlyChanges _ _ x) ?_ (fun hx => ?_); rotate_left; clear_value x; rotate_right)
    | extract_lets +onlyGivenNames x
    | split
    | dsimp only
    | subst x
    | (intro x))

theorem failOnward_frame {frame : Nat} {plane : Nat} {stripe : Nat} {index : Nat} {m : BitVec 16} {a0 b : Block} {ps : List Piece} (hp : [.ch, .trace] ⊆ ps)
    (h0 : onlyChanges ps a0 b) : onlyChanges ps a0 (failOnward frame plane stripe index m b) := by
  refine onlyChanges_step ?_ hp h0
  unfold failOnward
  repeat' (first
    | with_reducible assumption
    | with_reducible exact onlyChanges_refl _ _
    | with_reducible refine Block.modCh_frame (by decide) ?_
    | (with_reducible refine onlyChanges_foldl ?_ ?_; intro x y hx)
    | (extract_lets +onlyGivenNames x; refine imp_app (p := onlyChanges _ _ x) ?_ (fun hx => ?_); rotate_left; clear_value x; rotate_right)
    | extract_lets +onlyGivenNames x
    | split
    | dsimp only
    | subst x
    | (intro x))

theorem failHostSegs_frame {frame : Nat} {m : BitVec 16} {a0 b : Block} {ps : List Piece} (hp : [.spinel, .ch, .trace] ⊆ ps)
    (h0 : onlyChanges ps a0 b) : onlyChanges ps a0 (failHostSegs frame m b) := by
  refine onlyChanges_step ?_ hp h0
  unfold failHostSegs
  repeat' (first
    | with_reducible assumption
    | with_reducible exact onlyChanges_refl _ _
    | with_reducible refine failSegment_frame (by decide) ?_
    | with_reducible refine segFree_frame (by decide) ?_
    | (with_reducible refine onlyChanges_foldl ?_ ?_; intro x y hx)
    | (extract_lets +onlyGivenNames x; refine imp_app (p := onlyChanges _ _ x) ?_ (fun hx => ?_); rotate_left; clear_value x; rotate_right)
    | extract_lets +onlyGivenNames x
    | split
    | dsimp only
    | subst x
    | (intro x))

theorem failInSpinel_frame {frame : Nat} {m : BitVec 16} {a0 b : Block} {ps : List Piece} (hp : [.spinel, .evr, .topaz, .ch, .trace] ⊆ ps)
    (h0 : onlyChanges ps a0 b) : onlyChanges ps a0 (failInSpinel frame m b) := by
  refine onlyChanges_step ?_ hp h0
  unfold failInSpinel
  repeat' (first
    | with_reducible assumption
    | with_reducible exact onlyChanges_refl _ _
    | with_reducible refine failHostSegs_frame (by decide) ?_
    | with_reducible refine failOnward_frame (by decide) ?_
    | with_reducible refine mergeFail_frame (by decide) ?_
    | with_reducible refine noteFailed_frame (by decide) ?_
    | with_reducible refine Block.modSpinel_frame (by decide) ?_
    | (with_reducible refine onlyChanges_foldl ?_ ?_; intro x y hx)
    | (extract_lets +onlyGivenNames x; refine imp_app (p := onlyChanges _ _ x) ?_ (fun hx => ?_); rotate_left; clear_value x; rotate_right)
    | extract_lets +onlyGivenNames x
    | split
    | dsimp only
    | subst x
    | (intro x))

theorem passFailed_frame {t : SegToken} {a0 b : Block} {ps : List Piece} (hp : [.spinel, .evr, .topaz, .ch, .trace] ⊆ ps)
    (h0 : onlyChanges ps a0 b) : onlyChanges ps a0 (passFailed t b) := by
  refine onlyChanges_step ?_ hp h0
  unfold passFailed
  repeat' (first
    | with_reducible assumption
    | with_reducible exact onlyChanges_refl _ _
    | with_reducible refine failHostSegs_frame (by decide) ?_
    | with_reducible refine failOnward_frame (by decide) ?_
    | with_reducible refine dropDue_frame (by decide) ?_
    | with_reducible refine segFree_frame (by decide) ?_
    | with_reducible refine mergeFail_frame (by decide) ?_
    | with_reducible refine noteFailed_frame (by decide) ?_
    | with_reducible refine Block.modCh_frame (by decide) ?_
    | with_reducible refine Block.modSpinel_frame (by decide) ?_
    | (with_reducible refine onlyChanges_foldl ?_ ?_; intro x y hx)
    | (extract_lets +onlyGivenNames x; refine imp_app (p := onlyChanges _ _ x) ?_ (fun hx => ?_); rotate_left; clear_value x; rotate_right)
    | extract_lets +onlyGivenNames x
    | split
    | dsimp only
    | subst x
    | (intro x))

theorem segmentStripeToken_frame {ecc : Ecc} {a0 b : Block} {ps : List Piece} (hp : [.spinel, .opal, .posts, .evr, .topaz, .ch, .trace, .out] ⊆ ps)
    (h0 : onlyChanges ps a0 b) : onlyChanges ps a0 (segmentStripeToken ecc b) := by
  refine onlyChanges_step ?_ hp h0
  unfold segmentStripeToken
  repeat' (first
    | with_reducible assumption
    | with_reducible exact onlyChanges_refl _ _
    | with_reducible refine passFailed_frame (by decide) ?_
    | with_reducible refine retireToken_frame (by decide) ?_
    | with_reducible refine passToken_frame (by decide) ?_
    | with_reducible refine hostToken_frame (by decide) ?_
    | with_reducible refine Block.modCh_frame (by decide) ?_
    | (with_reducible refine onlyChanges_foldl ?_ ?_; intro x y hx)
    | (extract_lets +onlyGivenNames x; refine imp_app (p := onlyChanges _ _ x) ?_ (fun hx => ?_); rotate_left; clear_value x; rotate_right)
    | extract_lets +onlyGivenNames x
    | split
    | dsimp only
    | subst x
    | (intro x))

theorem reserveStaging_frame {frame : Nat} {d : Dest} {a0 b : Block} {ps : List Piece} (hp : [.spinel, .opal, .posts, .ch, .trace] ⊆ ps)
    (h0 : onlyChanges ps a0 b) : onlyChanges ps a0 (reserveStaging frame b d) := by
  refine onlyChanges_step ?_ hp h0
  unfold reserveStaging
  repeat' (first
    | with_reducible assumption
    | with_reducible exact onlyChanges_refl _ _
    | with_reducible refine tellOpal_frame (by decide) ?_
    | with_reducible refine Block.modCh_frame (by decide) ?_
    | with_reducible refine Block.modSpinel_frame (by decide) ?_
    | (with_reducible refine onlyChanges_foldl ?_ ?_; intro x y hx)
    | (extract_lets +onlyGivenNames x; refine imp_app (p := onlyChanges _ _ x) ?_ (fun hx => ?_); rotate_left; clear_value x; rotate_right)
    | extract_lets +onlyGivenNames x
    | split
    | dsimp only
    | subst x
    | (intro x))

theorem takeKey_frame {frame : Nat} {c : Nat} {a0 b : Block} {ps : List Piece} (hp : [.spinel, .posts, .evr, .trace, .out] ⊆ ps)
    (h0 : onlyChanges ps a0 b) : onlyChanges ps a0 (takeKey frame c b) := by
  refine onlyChanges_step ?_ hp h0
  unfold takeKey
  repeat' (first
    | with_reducible assumption
    | with_reducible exact onlyChanges_refl _ _
    | with_reducible refine slotSet_frame (by decide) ?_
    | with_reducible refine finishCtrl_frame (by decide) ?_
    | with_reducible refine Block.modSpinel_frame (by decide) ?_
    | (with_reducible refine onlyChanges_foldl ?_ ?_; intro x y hx)
    | (extract_lets +onlyGivenNames x; refine imp_app (p := onlyChanges _ _ x) ?_ (fun hx => ?_); rotate_left; clear_value x; rotate_right)
    | extract_lets +onlyGivenNames x
    | split
    | dsimp only
    | subst x
    | (intro x))

theorem bindKey_frame {frame : Nat} {d : Dest} {a0 b : Block} {ps : List Piece} (hp : [.spinel, .posts, .evr, .trace, .out] ⊆ ps)
    (h0 : onlyChanges ps a0 b) : onlyChanges ps a0 (bindKey frame b d) := by
  refine onlyChanges_step ?_ hp h0
  unfold bindKey
  repeat' (first
    | with_reducible assumption
    | with_reducible exact onlyChanges_refl _ _
    | with_reducible refine takeKey_frame (by decide) ?_
    | with_reducible refine Block.modSpinel_frame (by decide) ?_
    | (with_reducible refine onlyChanges_foldl ?_ ?_; intro x y hx)
    | (extract_lets +onlyGivenNames x; refine imp_app (p := onlyChanges _ _ x) ?_ (fun hx => ?_); rotate_left; clear_value x; rotate_right)
    | extract_lets +onlyGivenNames x
    | split
    | dsimp only
    | subst x
    | (intro x))

theorem bindInSpinel_frame {frame : Nat} {ds : List Dest} {a0 b : Block} {ps : List Piece} (hp : [.spinel, .opal, .posts, .evr, .ch, .trace, .out] ⊆ ps)
    (h0 : onlyChanges ps a0 b) : onlyChanges ps a0 (bindInSpinel frame ds b) := by
  refine onlyChanges_step ?_ hp h0
  unfold bindInSpinel
  repeat' (first
    | with_reducible assumption
    | with_reducible exact onlyChanges_refl _ _
    | with_reducible refine bindKey_frame (by decide) ?_
    | with_reducible refine reserveStaging_frame (by decide) ?_
    | (with_reducible refine onlyChanges_foldl ?_ ?_; intro x y hx)
    | (extract_lets +onlyGivenNames x; refine imp_app (p := onlyChanges _ _ x) ?_ (fun hx => ?_); rotate_left; clear_value x; rotate_right)
    | extract_lets +onlyGivenNames x
    | split
    | dsimp only
    | subst x
    | (intro x))

theorem refuseStaging_frame {frame : Nat} {d : Dest} {a0 b : Block} {ps : List Piece} (hp : [.opal, .posts, .ch, .trace] ⊆ ps)
    (h0 : onlyChanges ps a0 b) : onlyChanges ps a0 (refuseStaging frame b d) := by
  refine onlyChanges_step ?_ hp h0
  unfold refuseStaging
  repeat' (first
    | with_reducible assumption
    | with_reducible exact onlyChanges_refl _ _
    | with_reducible refine tellOpal_frame (by decide) ?_
    | with_reducible refine Block.modCh_frame (by decide) ?_
    | (with_reducible refine onlyChanges_foldl ?_ ?_; intro x y hx)
    | (extract_lets +onlyGivenNames x; refine imp_app (p := onlyChanges _ _ x) ?_ (fun hx => ?_); rotate_left; clear_value x; rotate_right)
    | extract_lets +onlyGivenNames x
    | split
    | dsimp only
    | subst x
    | (intro x))

theorem missNoticesSpinel_frame {lost : Nat} {a0 b : Block} {ps : List Piece} (hp : [.posts, .evr, .topaz, .ch, .trace, .out] ⊆ ps)
    (h0 : onlyChanges ps a0 b) : onlyChanges ps a0 (missNoticesSpinel lost b) := by
  refine onlyChanges_step ?_ hp h0
  unfold missNoticesSpinel
  repeat' (first
    | with_reducible assumption
    | with_reducible exact onlyChanges_refl _ _
    | with_reducible refine eventGap_frame (by decide) ?_
    | with_reducible refine Block.modCh_frame (by decide) ?_
    | (with_reducible refine onlyChanges_foldl ?_ ?_; intro x y hx)
    | (extract_lets +onlyGivenNames x; refine imp_app (p := onlyChanges _ _ x) ?_ (fun hx => ?_); rotate_left; clear_value x; rotate_right)
    | extract_lets +onlyGivenNames x
    | split
    | dsimp only
    | subst x
    | (intro x))

theorem missedInSpinel_frame {frame : Nat} {a0 b : Block} {ps : List Piece} (hp : [.opal, .posts, .ch, .trace] ⊆ ps)
    (h0 : onlyChanges ps a0 b) : onlyChanges ps a0 (missedInSpinel frame b) := by
  refine onlyChanges_step ?_ hp h0
  unfold missedInSpinel
  repeat' (first
    | with_reducible assumption
    | with_reducible exact onlyChanges_refl _ _
    | with_reducible refine refuseStaging_frame (by decide) ?_
    | (with_reducible refine onlyChanges_foldl ?_ ?_; intro x y hx)
    | (extract_lets +onlyGivenNames x; refine imp_app (p := onlyChanges _ _ x) ?_ (fun hx => ?_); rotate_left; clear_value x; rotate_right)
    | extract_lets +onlyGivenNames x
    | split
    | dsimp only
    | subst x
    | (intro x))

theorem serveNoticeSpinel_frame {a0 b : Block} {ps : List Piece} (hp : [.spinel, .opal, .posts, .evr, .topaz, .ch, .trace, .out] ⊆ ps)
    (h0 : onlyChanges ps a0 b) : onlyChanges ps a0 (serveNoticeSpinel b) := by
  refine onlyChanges_step ?_ hp h0
  unfold serveNoticeSpinel
  repeat' (first
    | with_reducible assumption
    | with_reducible exact onlyChanges_refl _ _
    | with_reducible refine missedInSpinel_frame (by decide) ?_
    | with_reducible refine bindInSpinel_frame (by decide) ?_
    | with_reducible refine failInSpinel_frame (by decide) ?_
    | with_reducible refine takeSpinelNotes_frame (by decide) ?_
    | with_reducible refine Block.modCh_frame (by decide) ?_
    | (with_reducible refine onlyChanges_foldl ?_ ?_; intro x y hx)
    | (extract_lets +onlyGivenNames x; refine imp_app (p := onlyChanges _ _ x) ?_ (fun hx => ?_); rotate_left; clear_value x; rotate_right)
    | extract_lets +onlyGivenNames x
    | split
    | dsimp only
    | subst x
    | (intro x))

theorem latchNoticeSpinel_frame {lost : Nat} {a0 b : Block} {ps : List Piece} (hp : [.spinel, .opal, .posts, .evr, .topaz, .ch, .trace, .out] ⊆ ps)
    (h0 : onlyChanges ps a0 b) : onlyChanges ps a0 (latchNoticeSpinel lost b) := by
  refine onlyChanges_step ?_ hp h0
  unfold latchNoticeSpinel
  repeat' (first
    | with_reducible assumption
    | with_reducible exact onlyChanges_refl _ _
    | with_reducible refine serveNoticeSpinel_frame (by decide) ?_
    | with_reducible refine missNoticesSpinel_frame (by decide) ?_
    | (with_reducible refine onlyChanges_foldl ?_ ?_; intro x y hx)
    | (extract_lets +onlyGivenNames x; refine imp_app (p := onlyChanges _ _ x) ?_ (fun hx => ?_); rotate_left; clear_value x; rotate_right)
    | extract_lets +onlyGivenNames x
    | split
    | dsimp only
    | subst x
    | (intro x))

theorem loadKey_frame {c : Nat} {desc : Nat} {key : List Byte} {a0 b : Block} {ps : List Piece} (hp : [.spinel, .posts, .evr, .trace, .out] ⊆ ps)
    (h0 : onlyChanges ps a0 b) : onlyChanges ps a0 (loadKey c desc key b) := by
  refine onlyChanges_step ?_ hp h0
  unfold loadKey
  repeat' (first
    | with_reducible assumption
    | with_reducible exact onlyChanges_refl _ _
    | with_reducible refine slotSet_frame (by decide) ?_
    | with_reducible refine finishCtrl_frame (by decide) ?_
    | with_reducible refine Block.modSpinel_frame (by decide) ?_
    | (with_reducible refine onlyChanges_foldl ?_ ?_; intro x y hx)
    | (extract_lets +onlyGivenNames x; refine imp_app (p := onlyChanges _ _ x) ?_ (fun hx => ?_); rotate_left; clear_value x; rotate_right)
    | extract_lets +onlyGivenNames x
    | split
    | dsimp only
    | subst x
    | (intro x))

theorem checkKey_frame {c : Nat} {desc : Nat} {key : Option (List Byte)} {a0 b : Block} {ps : List Piece} (hp : [.spinel, .posts, .evr, .trace, .out] ⊆ ps)
    (h0 : onlyChanges ps a0 b) : onlyChanges ps a0 (checkKey c desc key b) := by
  refine onlyChanges_step ?_ hp h0
  unfold checkKey
  repeat' (first
    | with_reducible assumption
    | with_reducible exact onlyChanges_refl _ _
    | with_reducible refine loadKey_frame (by decide) ?_
    | with_reducible refine finishCtrl_frame (by decide) ?_
    | with_reducible refine Block.modSpinel_frame (by decide) ?_
    | (with_reducible refine onlyChanges_foldl ?_ ?_; intro x y hx)
    | (extract_lets +onlyGivenNames x; refine imp_app (p := onlyChanges _ _ x) ?_ (fun hx => ?_); rotate_left; clear_value x; rotate_right)
    | extract_lets +onlyGivenNames x
    | split
    | dsimp only
    | subst x
    | (intro x))

theorem keyLoad_frame {desc : Nat} {buf : Option (List Byte)} {a0 b : Block} {ps : List Piece} (hp : [.spinel, .posts, .evr, .trace, .out] ⊆ ps)
    (h0 : onlyChanges ps a0 b) : onlyChanges ps a0 (keyLoad desc buf b) := by
  refine onlyChanges_step ?_ hp h0
  unfold keyLoad
  repeat' (first
    | with_reducible assumption
    | with_reducible exact onlyChanges_refl _ _
    | with_reducible refine checkKey_frame (by decide) ?_
    | with_reducible refine finishCtrl_frame (by decide) ?_
    | (with_reducible refine onlyChanges_foldl ?_ ?_; intro x y hx)
    | (extract_lets +onlyGivenNames x; refine imp_app (p := onlyChanges _ _ x) ?_ (fun hx => ?_); rotate_left; clear_value x; rotate_right)
    | extract_lets +onlyGivenNames x
    | split
    | dsimp only
    | subst x
    | (intro x))

theorem keyRelease_frame {a0 b : Block} {ps : List Piece} (hp : [.spinel, .posts, .evr, .trace, .out] ⊆ ps)
    (h0 : onlyChanges ps a0 b) : onlyChanges ps a0 (keyRelease b) := by
  refine onlyChanges_step ?_ hp h0
  unfold keyRelease
  repeat' (first
    | with_reducible assumption
    | with_reducible exact onlyChanges_refl _ _
    | with_reducible refine checkKey_frame (by decide) ?_
    | with_reducible refine Block.modSpinel_frame (by decide) ?_
    | (with_reducible refine onlyChanges_foldl ?_ ?_; intro x y hx)
    | (extract_lets +onlyGivenNames x; refine imp_app (p := onlyChanges _ _ x) ?_ (fun hx => ?_); rotate_left; clear_value x; rotate_right)
    | extract_lets +onlyGivenNames x
    | split
    | dsimp only
    | subst x
    | (intro x))

theorem zeroiseSlot_frame {c : Nat} {a0 b : Block} {ps : List Piece} (hp : [.spinel] ⊆ ps)
    (h0 : onlyChanges ps a0 b) : onlyChanges ps a0 (zeroiseSlot b c) := by
  refine onlyChanges_step ?_ hp h0
  unfold zeroiseSlot
  repeat' (first
    | with_reducible assumption
    | with_reducible exact onlyChanges_refl _ _
    | with_reducible refine slotSet_frame (by decide) ?_
    | with_reducible refine Block.modSpinel_frame (by decide) ?_
    | (with_reducible refine onlyChanges_foldl ?_ ?_; intro x y hx)
    | (extract_lets +onlyGivenNames x; refine imp_app (p := onlyChanges _ _ x) ?_ (fun hx => ?_); rotate_left; clear_value x; rotate_right)
    | extract_lets +onlyGivenNames x
    | split
    | dsimp only
    | subst x
    | (intro x))

theorem zeroise_frame {w : Word} {a0 b : Block} {ps : List Piece} (hp : [.spinel] ⊆ ps)
    (h0 : onlyChanges ps a0 b) : onlyChanges ps a0 (zeroise w b) := by
  refine onlyChanges_step ?_ hp h0
  unfold zeroise
  repeat' (first
    | with_reducible assumption
    | with_reducible exact onlyChanges_refl _ _
    | with_reducible refine zeroiseSlot_frame (by decide) ?_
    | with_reducible refine Block.modSpinel_frame (by decide) ?_
    | (with_reducible refine onlyChanges_foldl ?_ ?_; intro x y hx)
    | (extract_lets +onlyGivenNames x; refine imp_app (p := onlyChanges _ _ x) ?_ (fun hx => ?_); rotate_left; clear_value x; rotate_right)
    | extract_lets +onlyGivenNames x
    | split
    | dsimp only
    | subst x
    | (intro x))

theorem retireSlot_frame {c : Nat} {a0 b : Block} {ps : List Piece} (hp : [.spinel, .posts, .evr, .trace, .out] ⊆ ps)
    (h0 : onlyChanges ps a0 b) : onlyChanges ps a0 (retireSlot c b) := by
  refine onlyChanges_step ?_ hp h0
  unfold retireSlot
  repeat' (first
    | with_reducible assumption
    | with_reducible exact onlyChanges_refl _ _
    | with_reducible refine takeKey_frame (by decide) ?_
    | with_reducible refine slotSet_frame (by decide) ?_
    | (with_reducible refine onlyChanges_foldl ?_ ?_; intro x y hx)
    | (extract_lets +onlyGivenNames x; refine imp_app (p := onlyChanges _ _ x) ?_ (fun hx => ?_); rotate_left; clear_value x; rotate_right)
    | extract_lets +onlyGivenNames x
    | split
    | dsimp only
    | subst x
    | (intro x))

theorem writeLedger_frame {w : LedgerFrame} {a0 b : Block} {ps : List Piece} (hp : [.opal, .posts, .evr, .trace, .out, .fresh] ⊆ ps)
    (h0 : onlyChanges ps a0 b) : onlyChanges ps a0 (writeLedger w b) := by
  refine onlyChanges_step ?_ hp h0
  unfold writeLedger
  repeat' (first
    | with_reducible assumption
    | with_reducible exact onlyChanges_refl _ _
    | with_reducible refine mergeDigest_frame (by decide) ?_
    | with_reducible refine winMod_frame (by decide) ?_
    | with_reducible refine requestMsg_frame (by decide) ?_
    | with_reducible refine Block.logEvr_frame (by decide) ?_
    | with_reducible refine Block.hostWrite_frame (by decide) ?_
    | with_reducible refine Block.modOut_frame (by decide) ?_
    | with_reducible refine Block.modOpal_frame (by decide) ?_
    | (with_reducible refine onlyChanges_foldl ?_ ?_; intro x y hx)
    | (extract_lets +onlyGivenNames x; refine imp_app (p := onlyChanges _ _ x) ?_ (fun hx => ?_); rotate_left; clear_value x; rotate_right)
    | extract_lets +onlyGivenNames x
    | split
    | dsimp only
    | with_reducible refine upd_fresh_frame (by decide) ?_
    | subst x
    | (intro x))

theorem publishLoop_frame {k : Nat} {a0 b : Block} {ps : List Piece} (hp : [.opal, .posts, .evr, .trace, .out, .fresh] ⊆ ps)
    (h : onlyChanges ps a0 b) : onlyChanges ps a0 (publishLoop k b) := by
  refine onlyChanges_step ?_ hp h
  clear h hp
  induction k generalizing b with
  | zero => exact onlyChanges_refl _ _
  | succ k ih =>
    unfold publishLoop
    repeat' (first
      | with_reducible assumption
      | with_reducible exact onlyChanges_refl _ _
      | with_reducible refine onlyChanges_trans ?_ ih
      | with_reducible refine writeLedger_frame (by decide) ?_
      | with_reducible refine Block.modOpal_frame (by decide) ?_
      | (with_reducible refine onlyChanges_foldl ?_ ?_; intro x y hx)
      | (extract_lets +onlyGivenNames x; refine imp_app (p := onlyChanges _ _ x) ?_ (fun hx => ?_); rotate_left; clear_value x; rotate_right)
      | extract_lets +onlyGivenNames x
      | split
      | dsimp only
      | subst x
      | (intro x))

theorem retireRecords_frame {a0 b : Block} {ps : List Piece} (hp : [.ch, .trace] ⊆ ps)
    (h0 : onlyChanges ps a0 b) : onlyChanges ps a0 (retireRecords b) := by
  refine onlyChanges_step ?_ hp h0
  unfold retireRecords
  repeat' (first
    | with_reducible assumption
    | with_reducible exact onlyChanges_refl _ _
    | with_reducible refine Block.modCh_frame (by decide) ?_
    | (with_reducible refine onlyChanges_foldl ?_ ?_; intro x y hx)
    | (extract_lets +onlyGivenNames x; refine imp_app (p := onlyChanges _ _ x) ?_ (fun hx => ?_); rotate_left; clear_value x; rotate_right)
    | extract_lets +onlyGivenNames x
    | split
    | dsimp only
    | subst x
    | (intro x))

theorem trimWindow_frame {a0 b : Block} {ps : List Piece} (hp : [.opal, .posts, .ch, .trace] ⊆ ps)
    (h0 : onlyChanges ps a0 b) : onlyChanges ps a0 (trimWindow b) := by
  refine onlyChanges_step ?_ hp h0
  unfold trimWindow
  repeat' (first
    | with_reducible assumption
    | with_reducible exact onlyChanges_refl _ _
    | with_reducible refine retireRecords_frame (by decide) ?_
    | with_reducible refine Block.modOpal_frame (by decide) ?_
    | (with_reducible refine onlyChanges_foldl ?_ ?_; intro x y hx)
    | (extract_lets +onlyGivenNames x; refine imp_app (p := onlyChanges _ _ x) ?_ (fun hx => ?_); rotate_left; clear_value x; rotate_right)
    | extract_lets +onlyGivenNames x
    | split
    | dsimp only
    | subst x
    | (intro x))

theorem postTakeEnds_frame {k : Nat} {a0 b : Block} {ps : List Piece} (hp : [.opal, .posts, .out] ⊆ ps)
    (h : onlyChanges ps a0 b) : onlyChanges ps a0 (postTakeEnds k b) := by
  refine onlyChanges_step ?_ hp h
  clear h hp
  induction k generalizing b with
  | zero => exact onlyChanges_refl _ _
  | succ k ih =>
    unfold postTakeEnds
    repeat' (first
      | with_reducible assumption
      | with_reducible exact onlyChanges_refl _ _
      | with_reducible refine onlyChanges_trans ?_ ih
      | with_reducible refine postEvent_frame (by decide) ?_
      | with_reducible refine Block.modOpal_frame (by decide) ?_
      | (with_reducible refine onlyChanges_foldl ?_ ?_; intro x y hx)
      | (extract_lets +onlyGivenNames x; refine imp_app (p := onlyChanges _ _ x) ?_ (fun hx => ?_); rotate_left; clear_value x; rotate_right)
      | extract_lets +onlyGivenNames x
      | split
      | dsimp only
      | subst x
      | (intro x))

theorem serveLedger_frame {a0 b : Block} {ps : List Piece} (hp : [.opal, .posts, .evr, .ch, .trace, .out, .fresh] ⊆ ps)
    (h0 : onlyChanges ps a0 b) : onlyChanges ps a0 (serveLedger b) := by
  refine onlyChanges_step ?_ hp h0
  unfold serveLedger
  repeat' (first
    | with_reducible assumption
    | with_reducible exact onlyChanges_refl _ _
    | with_reducible refine postTakeEnds_frame (by decide) ?_
    | with_reducible refine trimWindow_frame (by decide) ?_
    | with_reducible refine publishLoop_frame (by decide) ?_
    | (with_reducible refine onlyChanges_foldl ?_ ?_; intro x y hx)
    | (extract_lets +onlyGivenNames x; refine imp_app (p := onlyChanges _ _ x) ?_ (fun hx => ?_); rotate_left; clear_value x; rotate_right)
    | extract_lets +onlyGivenNames x
    | split
    | dsimp only
    | subst x
    | (intro x))

theorem ledgerPublish_frame {a0 b : Block} {ps : List Piece} (hp : [.opal, .posts, .evr, .ch, .trace, .out, .fresh] ⊆ ps)
    (h0 : onlyChanges ps a0 b) : onlyChanges ps a0 (ledgerPublish b) := by
  refine onlyChanges_step ?_ hp h0
  unfold ledgerPublish
  repeat' (first
    | with_reducible assumption
    | with_reducible exact onlyChanges_refl _ _
    | with_reducible refine serveLedger_frame (by decide) ?_
    | (with_reducible refine onlyChanges_foldl ?_ ?_; intro x y hx)
    | (extract_lets +onlyGivenNames x; refine imp_app (p := onlyChanges _ _ x) ?_ (fun hx => ?_); rotate_left; clear_value x; rotate_right)
    | extract_lets +onlyGivenNames x
    | split
    | dsimp only
    | subst x
    | (intro x))

theorem takeClosed_frame {a0 b : Block} {ps : List Piece} (hp : [.opal, .posts, .ch, .trace, .out] ⊆ ps)
    (h0 : onlyChanges ps a0 b) : onlyChanges ps a0 (takeClosed b) := by
  refine onlyChanges_step ?_ hp h0
  unfold takeClosed
  repeat' (first
    | with_reducible assumption
    | with_reducible exact onlyChanges_refl _ _
    | with_reducible refine postTakeEnds_frame (by decide) ?_
    | with_reducible refine Block.modCh_frame (by decide) ?_
    | with_reducible refine Block.modOpal_frame (by decide) ?_
    | (with_reducible refine onlyChanges_foldl ?_ ?_; intro x y hx)
    | (extract_lets +onlyGivenNames x; refine imp_app (p := onlyChanges _ _ x) ?_ (fun hx => ?_); rotate_left; clear_value x; rotate_right)
    | extract_lets +onlyGivenNames x
    | split
    | dsimp only
    | subst x
    | (intro x))

theorem leaveWindow_frame {frame : Nat} {a0 b : Block} {ps : List Piece} (hp : [.opal, .posts, .ch, .trace] ⊆ ps)
    (h0 : onlyChanges ps a0 b) : onlyChanges ps a0 (leaveWindow frame b) := by
  refine onlyChanges_step ?_ hp h0
  unfold leaveWindow
  repeat' (first
    | with_reducible assumption
    | with_reducible exact onlyChanges_refl _ _
    | with_reducible refine trimWindow_frame (by decide) ?_
    | with_reducible refine Block.modCh_frame (by decide) ?_
    | with_reducible refine Block.modOpal_frame (by decide) ?_
    | (with_reducible refine onlyChanges_foldl ?_ ?_; intro x y hx)
    | (extract_lets +onlyGivenNames x; refine imp_app (p := onlyChanges _ _ x) ?_ (fun hx => ?_); rotate_left; clear_value x; rotate_right)
    | extract_lets +onlyGivenNames x
    | split
    | dsimp only
    | subst x
    | (intro x))

theorem abortLate_frame {frame : Nat} {a0 b : Block} {ps : List Piece} (hp : [.spinel, .opal, .posts, .evr, .ch, .trace, .out] ⊆ ps)
    (h0 : onlyChanges ps a0 b) : onlyChanges ps a0 (abortLate frame b) := by
  refine onlyChanges_step ?_ hp h0
  unfold abortLate
  repeat' (first
    | with_reducible assumption
    | with_reducible exact onlyChanges_refl _ _
    | with_reducible refine dropUnassigned_frame (by decide) ?_
    | (with_reducible refine onlyChanges_foldl ?_ ?_; intro x y hx)
    | (extract_lets +onlyGivenNames x; refine imp_app (p := onlyChanges _ _ x) ?_ (fun hx => ?_); rotate_left; clear_value x; rotate_right)
    | extract_lets +onlyGivenNames x
    | split
    | dsimp only
    | subst x
    | (intro x))

theorem opalFailsNew_frame {frame : Nat} {a0 b : Block} {ps : List Piece} (hp : [.spinel, .opal, .posts, .evr, .topaz, .ch, .trace, .out] ⊆ ps)
    (h0 : onlyChanges ps a0 b) : onlyChanges ps a0 (opalFailsNew frame b) := by
  refine onlyChanges_step ?_ hp h0
  unfold opalFailsNew
  repeat' (first
    | with_reducible assumption
    | with_reducible exact onlyChanges_refl _ _
    | with_reducible refine failInOpal_frame (by decide) ?_
    | (with_reducible refine onlyChanges_foldl ?_ ?_; intro x y hx)
    | (extract_lets +onlyGivenNames x; refine imp_app (p := onlyChanges _ _ x) ?_ (fun hx => ?_); rotate_left; clear_value x; rotate_right)
    | extract_lets +onlyGivenNames x
    | split
    | dsimp only
    | subst x
    | (intro x))

theorem missNoticeOpal_frame {n : LatchNotice} {a0 b : Block} {ps : List Piece} (hp : [.garnet, .opal, .posts, .evr, .ch, .trace, .out] ⊆ ps)
    (h0 : onlyChanges ps a0 b) : onlyChanges ps a0 (missNoticeOpal b n) := by
  refine onlyChanges_step ?_ hp h0
  unfold missNoticeOpal
  repeat' (first
    | with_reducible assumption
    | with_reducible exact onlyChanges_refl _ _
    | with_reducible refine leaveWindow_frame (by decide) ?_
    | with_reducible refine Block.modCh_frame (by decide) ?_
    | with_reducible refine Block.modOpal_frame (by decide) ?_
    | (with_reducible refine onlyChanges_foldl ?_ ?_; intro x y hx)
    | (extract_lets +onlyGivenNames x; refine imp_app (p := onlyChanges _ _ x) ?_ (fun hx => ?_); rotate_left; clear_value x; rotate_right)
    | extract_lets +onlyGivenNames x
    | split
    | dsimp only
    | subst x
    | (intro x))

theorem missNoticesOpal_frame {lost : Nat} {a0 b : Block} {ps : List Piece} (hp : [.garnet, .opal, .posts, .evr, .topaz, .ch, .trace, .out] ⊆ ps)
    (h0 : onlyChanges ps a0 b) : onlyChanges ps a0 (missNoticesOpal lost b) := by
  refine onlyChanges_step ?_ hp h0
  unfold missNoticesOpal
  repeat' (first
    | with_reducible assumption
    | with_reducible exact onlyChanges_refl _ _
    | with_reducible refine missNoticeOpal_frame (by decide) ?_
    | with_reducible refine eventGap_frame (by decide) ?_
    | with_reducible refine Block.modCh_frame (by decide) ?_
    | (with_reducible refine onlyChanges_foldl ?_ ?_; intro x y hx)
    | (extract_lets +onlyGivenNames x; refine imp_app (p := onlyChanges _ _ x) ?_ (fun hx => ?_); rotate_left; clear_value x; rotate_right)
    | extract_lets +onlyGivenNames x
    | split
    | dsimp only
    | subst x
    | (intro x))

theorem serveNoticeOpal_frame {a0 b : Block} {ps : List Piece} (hp : [.garnet, .jade, .spinel, .opal, .posts, .evr, .topaz, .ch, .trace, .out] ⊆ ps)
    (h0 : onlyChanges ps a0 b) : onlyChanges ps a0 (serveNoticeOpal b) := by
  refine onlyChanges_step ?_ hp h0
  unfold serveNoticeOpal
  repeat' (first
    | with_reducible assumption
    | with_reducible exact onlyChanges_refl _ _
    | with_reducible refine opalFailsNew_frame (by decide) ?_
    | with_reducible refine abortLate_frame (by decide) ?_
    | with_reducible refine leaveWindow_frame (by decide) ?_
    | with_reducible refine takeClosed_frame (by decide) ?_
    | with_reducible refine takeNotes_frame (by decide) ?_
    | with_reducible refine winMod_frame (by decide) ?_
    | with_reducible refine takeStop_frame (by decide) ?_
    | with_reducible refine takeStart_frame (by decide) ?_
    | with_reducible refine Block.modCh_frame (by decide) ?_
    | with_reducible refine Block.modOpal_frame (by decide) ?_
    | (with_reducible refine onlyChanges_foldl ?_ ?_; intro x y hx)
    | (extract_lets +onlyGivenNames x; refine imp_app (p := onlyChanges _ _ x) ?_ (fun hx => ?_); rotate_left; clear_value x; rotate_right)
    | extract_lets +onlyGivenNames x
    | split
    | dsimp only
    | subst x
    | (intro x))

theorem latchNoticeOpal_frame {lost : Nat} {a0 b : Block} {ps : List Piece} (hp : [.garnet, .jade, .spinel, .opal, .posts, .evr, .topaz, .ch, .trace, .out] ⊆ ps)
    (h0 : onlyChanges ps a0 b) : onlyChanges ps a0 (latchNoticeOpal lost b) := by
  refine onlyChanges_step ?_ hp h0
  unfold latchNoticeOpal
  repeat' (first
    | with_reducible assumption
    | with_reducible exact onlyChanges_refl _ _
    | with_reducible refine serveNoticeOpal_frame (by decide) ?_
    | with_reducible refine missNoticesOpal_frame (by decide) ?_
    | (with_reducible refine onlyChanges_foldl ?_ ?_; intro x y hx)
    | (extract_lets +onlyGivenNames x; refine imp_app (p := onlyChanges _ _ x) ?_ (fun hx => ?_); rotate_left; clear_value x; rotate_right)
    | extract_lets +onlyGivenNames x
    | split
    | dsimp only
    | subst x
    | (intro x))

theorem settleEnds_frame {a0 b : Block} {ps : List Piece} (hp : [.opal, .posts] ⊆ ps)
    (h0 : onlyChanges ps a0 b) : onlyChanges ps a0 (settleEnds b) := by
  refine onlyChanges_step ?_ hp h0
  unfold settleEnds
  repeat' (first
    | with_reducible assumption
    | with_reducible exact onlyChanges_refl _ _
    | with_reducible refine Block.modOpal_frame (by decide) ?_
    | (with_reducible refine onlyChanges_foldl ?_ ?_; intro x y hx)
    | (extract_lets +onlyGivenNames x; refine imp_app (p := onlyChanges _ _ x) ?_ (fun hx => ?_); rotate_left; clear_value x; rotate_right)
    | extract_lets +onlyGivenNames x
    | split
    | dsimp only
    | subst x
    | (intro x))

theorem takeTimeRecord_frame {t : TimeRecord} {a0 b : Block} {ps : List Piece} (hp : [.garnet, .opal, .posts, .evr, .trace, .out] ⊆ ps)
    (h0 : onlyChanges ps a0 b) : onlyChanges ps a0 (takeTimeRecord t b) := by
  refine onlyChanges_step ?_ hp h0
  unfold takeTimeRecord
  repeat' (first
    | with_reducible assumption
    | with_reducible exact onlyChanges_refl _ _
    | with_reducible refine settleEnds_frame (by decide) ?_
    | with_reducible refine startTake_frame (by decide) ?_
    | with_reducible refine Block.modOpal_frame (by decide) ?_
    | (with_reducible refine onlyChanges_foldl ?_ ?_; intro x y hx)
    | (extract_lets +onlyGivenNames x; refine imp_app (p := onlyChanges _ _ x) ?_ (fun hx => ?_); rotate_left; clear_value x; rotate_right)
    | extract_lets +onlyGivenNames x
    | split
    | dsimp only
    | subst x
    | (intro x))

theorem timeRecord_frame {a0 b : Block} {ps : List Piece} (hp : [.garnet, .opal, .posts, .evr, .ch, .trace, .out] ⊆ ps)
    (h0 : onlyChanges ps a0 b) : onlyChanges ps a0 (timeRecord b) := by
  refine onlyChanges_step ?_ hp h0
  unfold timeRecord
  repeat' (first
    | with_reducible assumption
    | with_reducible exact onlyChanges_refl _ _
    | with_reducible refine takeTimeRecord_frame (by decide) ?_
    | with_reducible refine Block.modCh_frame (by decide) ?_
    | (with_reducible refine onlyChanges_foldl ?_ ?_; intro x y hx)
    | (extract_lets +onlyGivenNames x; refine imp_app (p := onlyChanges _ _ x) ?_ (fun hx => ?_); rotate_left; clear_value x; rotate_right)
    | extract_lets +onlyGivenNames x
    | split
    | dsimp only
    | subst x
    | (intro x))

theorem garnetOutcome_frame {a0 b : Block} {ps : List Piece} (hp : [.garnet, .spinel, .opal, .posts, .evr, .ch, .trace, .out] ⊆ ps)
    (h0 : onlyChanges ps a0 b) : onlyChanges ps a0 (garnetOutcome b) := by
  refine onlyChanges_step ?_ hp h0
  unfold garnetOutcome
  repeat' (first
    | with_reducible assumption
    | with_reducible exact onlyChanges_refl _ _
    | with_reducible refine settleEnds_frame (by decide) ?_
    | with_reducible refine mergeDests_frame (by decide) ?_
    | with_reducible refine dropHost_frame (by decide) ?_
    | with_reducible refine decideAll_frame (by decide) ?_
    | with_reducible refine winMod_frame (by decide) ?_
    | with_reducible refine takeStart_frame (by decide) ?_
    | with_reducible refine Block.modCh_frame (by decide) ?_
    | (with_reducible refine onlyChanges_foldl ?_ ?_; intro x y hx)
    | (extract_lets +onlyGivenNames x; refine imp_app (p := onlyChanges _ _ x) ?_ (fun hx => ?_); rotate_left; clear_value x; rotate_right)
    | extract_lets +onlyGivenNames x
    | split
    | dsimp only
    | subst x
    | (intro x))

theorem destinationOutcome_frame {a0 b : Block} {ps : List Piece} (hp : [.opal, .posts, .evr, .ch, .trace] ⊆ ps)
    (h0 : onlyChanges ps a0 b) : onlyChanges ps a0 (destinationOutcome b) := by
  refine onlyChanges_step ?_ hp h0
  unfold destinationOutcome
  repeat' (first
    | with_reducible assumption
    | with_reducible exact onlyChanges_refl _ _
    | with_reducible refine mergeDests_frame (by decide) ?_
    | with_reducible refine markFrame_frame (by decide) ?_
    | with_reducible refine destMod_frame (by decide) ?_
    | with_reducible refine Block.modCh_frame (by decide) ?_
    | (with_reducible refine onlyChanges_foldl ?_ ?_; intro x y hx)
    | (extract_lets +onlyGivenNames x; refine imp_app (p := onlyChanges _ _ x) ?_ (fun hx => ?_); rotate_left; clear_value x; rotate_right)
    | extract_lets +onlyGivenNames x
    | split
    | dsimp only
    | subst x
    | (intro x))

theorem outcomeQuery_frame {desc : Nat} {a0 b : Block} {ps : List Piece} (hp : [.posts, .evr, .trace, .out] ⊆ ps)
    (h0 : onlyChanges ps a0 b) : onlyChanges ps a0 (outcomeQuery desc b) := by
  refine onlyChanges_step ?_ hp h0
  unfold outcomeQuery
  repeat' (first
    | with_reducible assumption
    | with_reducible exact onlyChanges_refl _ _
    | with_reducible refine finishCtrl_frame (by decide) ?_
    | with_reducible refine Block.hostWrite_frame (by decide) ?_
    | (with_reducible refine onlyChanges_foldl ?_ ?_; intro x y hx)
    | (extract_lets +onlyGivenNames x; refine imp_app (p := onlyChanges _ _ x) ?_ (fun hx => ?_); rotate_left; clear_value x; rotate_right)
    | extract_lets +onlyGivenNames x
    | split
    | dsimp only
    | subst x
    | (intro x))

theorem takePi_frame {r : Nat} {w : Nat} {a0 b : Block} {ps : List Piece} (hp : [.posts] ⊆ ps)
    (h0 : onlyChanges ps a0 b) : onlyChanges ps a0 (takePi r w b) := by
  refine onlyChanges_step ?_ hp h0
  unfold takePi
  repeat' (first
    | with_reducible assumption
    | with_reducible exact onlyChanges_refl _ _
    | with_reducible refine Block.setRing_frame (by decide) ?_
    | (with_reducible refine onlyChanges_foldl ?_ ?_; intro x y hx)
    | (extract_lets +onlyGivenNames x; refine imp_app (p := onlyChanges _ _ x) ?_ (fun hx => ?_); rotate_left; clear_value x; rotate_right)
    | extract_lets +onlyGivenNames x
    | split
    | dsimp only
    | subst x
    | (intro x))

theorem takeHead_frame {r : Nat} {w : Nat} {a0 b : Block} {ps : List Piece} (hp : [.posts, .out] ⊆ ps)
    (h0 : onlyChanges ps a0 b) : onlyChanges ps a0 (takeHead r w b) := by
  refine onlyChanges_step ?_ hp h0
  unfold takeHead
  repeat' (first
    | with_reducible assumption
    | with_reducible exact onlyChanges_refl _ _
    | with_reducible refine stopRing_frame (by decide) ?_
    | with_reducible refine postEvent_frame (by decide) ?_
    | with_reducible refine Block.setRing_frame (by decide) ?_
    | (with_reducible refine onlyChanges_foldl ?_ ?_; intro x y hx)
    | (extract_lets +onlyGivenNames x; refine imp_app (p := onlyChanges _ _ x) ?_ (fun hx => ?_); rotate_left; clear_value x; rotate_right)
    | extract_lets +onlyGivenNames x
    | split
    | dsimp only
    | subst x
    | (intro x))

theorem takeLedgerHead_frame {w : Nat} {a0 b : Block} {ps : List Piece} (hp : [.opal, .posts, .out] ⊆ ps)
    (h0 : onlyChanges ps a0 b) : onlyChanges ps a0 (takeLedgerHead w b) := by
  refine onlyChanges_step ?_ hp h0
  unfold takeLedgerHead
  repeat' (first
    | with_reducible assumption
    | with_reducible exact onlyChanges_refl _ _
    | with_reducible refine postEvent_frame (by decide) ?_
    | with_reducible refine Block.modOpal_frame (by decide) ?_
    | (with_reducible refine onlyChanges_foldl ?_ ?_; intro x y hx)
    | (extract_lets +onlyGivenNames x; refine imp_app (p := onlyChanges _ _ x) ?_ (fun hx => ?_); rotate_left; clear_value x; rotate_right)
    | extract_lets +onlyGivenNames x
    | split
    | dsimp only
    | subst x
    | (intro x))

theorem pollCtx_frame {p : List Byte} {c : Nat} {a0 b : Block} {ps : List Piece} (hp : [.posts, .evr, .trace, .out] ⊆ ps)
    (h0 : onlyChanges ps a0 b) : onlyChanges ps a0 (pollCtx p b c) := by
  refine onlyChanges_step ?_ hp h0
  unfold pollCtx
  repeat' (first
    | with_reducible assumption
    | with_reducible exact onlyChanges_refl _ _
    | with_reducible refine takeHead_frame (by decide) ?_
    | with_reducible refine takePi_frame (by decide) ?_
    | with_reducible refine serveRing_frame (by decide) ?_
    | with_reducible refine readHead_frame (by decide) ?_
    | with_reducible refine Block.logEvr_frame (by decide) ?_
    | (with_reducible refine onlyChanges_foldl ?_ ?_; intro x y hx)
    | (extract_lets +onlyGivenNames x; refine imp_app (p := onlyChanges _ _ x) ?_ (fun hx => ?_); rotate_left; clear_value x; rotate_right)
    | extract_lets +onlyGivenNames x
    | split
    | dsimp only
    | subst x
    | (intro x))

theorem pollFailed_frame {a0 b : Block} {ps : List Piece} (hp : [.opal, .posts, .out] ⊆ ps)
    (h0 : onlyChanges ps a0 b) : onlyChanges ps a0 (pollFailed b) := by
  refine onlyChanges_step ?_ hp h0
  unfold pollFailed
  repeat' (first
    | with_reducible assumption
    | with_reducible exact onlyChanges_refl _ _
    | with_reducible refine postEvent_frame (by decide) ?_
    | with_reducible refine Block.modOpal_frame (by decide) ?_
    | (with_reducible refine onlyChanges_foldl ?_ ?_; intro x y hx)
    | (extract_lets +onlyGivenNames x; refine imp_app (p := onlyChanges _ _ x) ?_ (fun hx => ?_); rotate_left; clear_value x; rotate_right)
    | extract_lets +onlyGivenNames x
    | split
    | dsimp only
    | subst x
    | (intro x))

theorem logDoorbell_frame {p : List Byte} {a0 b : Block} {ps : List Piece} (hp : [.opal, .posts, .evr, .trace] ⊆ ps)
    (h0 : onlyChanges ps a0 b) : onlyChanges ps a0 (logDoorbell p b) := by
  refine onlyChanges_step ?_ hp h0
  unfold logDoorbell
  repeat' (first
    | with_reducible assumption
    | with_reducible exact onlyChanges_refl _ _
    | with_reducible refine Block.logEvr_frame (by decide) ?_
    | with_reducible refine Block.modOpal_frame (by decide) ?_
    | (with_reducible refine onlyChanges_foldl ?_ ?_; intro x y hx)
    | (extract_lets +onlyGivenNames x; refine imp_app (p := onlyChanges _ _ x) ?_ (fun hx => ?_); rotate_left; clear_value x; rotate_right)
    | extract_lets +onlyGivenNames x
    | split
    | dsimp only
    | subst x
    | (intro x))

theorem takeDoorbell_frame {p : List Byte} {a0 b : Block} {ps : List Piece} (hp : [.opal, .posts, .out] ⊆ ps)
    (h0 : onlyChanges ps a0 b) : onlyChanges ps a0 (takeDoorbell p b) := by
  refine onlyChanges_step ?_ hp h0
  unfold takeDoorbell
  repeat' (first
    | with_reducible assumption
    | with_reducible exact onlyChanges_refl _ _
    | with_reducible refine takeLedgerHead_frame (by decide) ?_
    | with_reducible refine takeHead_frame (by decide) ?_
    | with_reducible refine takePi_frame (by decide) ?_
    | (with_reducible refine onlyChanges_foldl ?_ ?_; intro x y hx)
    | (extract_lets +onlyGivenNames x; refine imp_app (p := onlyChanges _ _ x) ?_ (fun hx => ?_); rotate_left; clear_value x; rotate_right)
    | extract_lets +onlyGivenNames x
    | split
    | dsimp only
    | subst x
    | (intro x))

theorem poll_frame {page : Option (List Byte)} {a0 b : Block} {ps : List Piece} (hp : [.opal, .posts, .evr, .ch, .trace, .out, .fresh] ⊆ ps)
    (h0 : onlyChanges ps a0 b) : onlyChanges ps a0 (poll page b) := by
  refine onlyChanges_step ?_ hp h0
  unfold poll
  repeat' (first
    | with_reducible assumption
    | with_reducible exact onlyChanges_refl _ _
    | with_reducible refine takeDoorbell_frame (by decide) ?_
    | with_reducible refine logDoorbell_frame (by decide) ?_
    | with_reducible refine pollFailed_frame (by decide) ?_
    | with_reducible refine pollCtx_frame (by decide) ?_
    | with_reducible refine serveLedger_frame (by decide) ?_
    | with_reducible refine serveRing_frame (by decide) ?_
    | with_reducible refine postEvent_frame (by decide) ?_
    | with_reducible refine Block.modOut_frame (by decide) ?_
    | with_reducible refine Block.modOpal_frame (by decide) ?_
    | (with_reducible refine onlyChanges_foldl ?_ ?_; intro x y hx)
    | (extract_lets +onlyGivenNames x; refine imp_app (p := onlyChanges _ _ x) ?_ (fun hx => ?_); rotate_left; clear_value x; rotate_right)
    | extract_lets +onlyGivenNames x
    | split
    | dsimp only
    | subst x
    | (intro x))

theorem pollReadTimeout_frame {a0 b : Block} {ps : List Piece} (hp : [.opal, .posts, .out] ⊆ ps)
    (h0 : onlyChanges ps a0 b) : onlyChanges ps a0 (pollReadTimeout b) := by
  refine onlyChanges_step ?_ hp h0
  unfold pollReadTimeout
  repeat' (first
    | with_reducible assumption
    | with_reducible exact onlyChanges_refl _ _
    | with_reducible refine pollFailed_frame (by decide) ?_
    | (with_reducible refine onlyChanges_foldl ?_ ?_; intro x y hx)
    | (extract_lets +onlyGivenNames x; refine imp_app (p := onlyChanges _ _ x) ?_ (fun hx => ?_); rotate_left; clear_value x; rotate_right)
    | extract_lets +onlyGivenNames x
    | split
    | dsimp only
    | subst x
    | (intro x))

theorem addFetched_frame {r : Nat} {l : List (List Byte)} {a0 b : Block} {ps : List Piece} (hp : [.posts, .evr, .trace] ⊆ ps)
    (h : onlyChanges ps a0 b) : onlyChanges ps a0 (addFetched r l b) := by
  refine onlyChanges_step ?_ hp h
  clear h hp
  induction l generalizing b with
  | nil => exact onlyChanges_refl _ _
  | cons y l ih =>
    unfold addFetched
    repeat' (first
      | with_reducible assumption
      | with_reducible exact onlyChanges_refl _ _
      | with_reducible refine onlyChanges_trans ?_ ih
      | with_reducible refine Block.setRing_frame (by decide) ?_
      | with_reducible refine Block.logEvr_frame (by decide) ?_
      | (with_reducible refine onlyChanges_foldl ?_ ?_; intro x y hx)
      | (extract_lets +onlyGivenNames x; refine imp_app (p := onlyChanges _ _ x) ?_ (fun hx => ?_); rotate_left; clear_value x; rotate_right)
      | extract_lets +onlyGivenNames x
      | split
      | dsimp only
      | subst x
      | (intro x))

theorem descriptorFetched_frame {r : Nat} {data : Option (List (List Byte))} {a0 b : Block} {ps : List Piece} (hp : [.opal, .posts, .evr, .trace, .out] ⊆ ps)
    (h0 : onlyChanges ps a0 b) : onlyChanges ps a0 (descriptorFetched r data b) := by
  refine onlyChanges_step ?_ hp h0
  unfold descriptorFetched
  repeat' (first
    | with_reducible assumption
    | with_reducible exact onlyChanges_refl _ _
    | with_reducible refine addFetched_frame (by decide) ?_
    | with_reducible refine serveRing_frame (by decide) ?_
    | with_reducible refine Block.setRing_frame (by decide) ?_
    | with_reducible refine Block.modOut_frame (by decide) ?_
    | with_reducible refine Block.modOpal_frame (by decide) ?_
    | (with_reducible refine onlyChanges_foldl ?_ ?_; intro x y hx)
    | (extract_lets +onlyGivenNames x; refine imp_app (p := onlyChanges _ _ x) ?_ (fun hx => ?_); rotate_left; clear_value x; rotate_right)
    | extract_lets +onlyGivenNames x
    | split
    | dsimp only
    | subst x
    | (intro x))

theorem nop_frame {r : Nat} {desc : Nat} {a0 b : Block} {ps : List Piece} (hp : [.posts, .evr, .trace, .out] ⊆ ps)
    (h0 : onlyChanges ps a0 b) : onlyChanges ps a0 (nop r desc b) := by
  refine onlyChanges_step ?_ hp h0
  unfold nop
  repeat' (first
    | with_reducible assumption
    | with_reducible exact onlyChanges_refl _ _
    | with_reducible refine finish_frame (by decide) ?_
    | (with_reducible refine onlyChanges_foldl ?_ ?_; intro x y hx)
    | (extract_lets +onlyGivenNames x; refine imp_app (p := onlyChanges _ _ x) ?_ (fun hx => ?_); rotate_left; clear_value x; rotate_right)
    | extract_lets +onlyGivenNames x
    | split
    | dsimp only
    | subst x
    | (intro x))

theorem contextOpen_frame {desc : Nat} {a0 b : Block} {ps : List Piece} (hp : [.jade, .posts, .evr, .ch, .trace, .out] ⊆ ps)
    (h0 : onlyChanges ps a0 b) : onlyChanges ps a0 (contextOpen desc b) := by
  refine onlyChanges_step ?_ hp h0
  unfold contextOpen
  repeat' (first
    | with_reducible assumption
    | with_reducible exact onlyChanges_refl _ _
    | with_reducible refine closeFrame_frame (by decide) ?_
    | with_reducible refine finishCtrl_frame (by decide) ?_
    | with_reducible refine Block.setCtx_frame (by decide) ?_
    | (with_reducible refine onlyChanges_foldl ?_ ?_; intro x y hx)
    | (extract_lets +onlyGivenNames x; refine imp_app (p := onlyChanges _ _ x) ?_ (fun hx => ?_); rotate_left; clear_value x; rotate_right)
    | extract_lets +onlyGivenNames x
    | split
    | dsimp only
    | subst x
    | (intro x))

theorem beginClose_frame {desc c : Nat} {a0 b : Block} {ps : List Piece} (hp : [.jade, .posts, .evr, .ch, .trace, .out] ⊆ ps)
    (h : onlyChanges ps a0 b) : onlyChanges ps a0 (beginClose desc c b).1 := by
  refine onlyChanges_step ?_ hp h
  unfold beginClose
  repeat' (first
    | with_reducible assumption
    | with_reducible exact onlyChanges_refl _ _
    | with_reducible refine closeFrame_frame (by decide) ?_
    | with_reducible refine finishCtrl_frame (by decide) ?_
    | with_reducible refine Block.setCtx_frame (by decide) ?_
    | (with_reducible refine onlyChanges_foldl ?_ ?_; intro x y hx)
    | (extract_lets +onlyGivenNames x; refine imp_app (p := onlyChanges _ _ x) ?_ (fun hx => ?_); rotate_left; clear_value x; rotate_right)
    | extract_lets +onlyGivenNames x
    | split
    | dsimp only
    | subst x
    | (intro x))

theorem beginClose_pair {desc c : Nat} {a0 b b1 : Block} {x} {ps : List Piece} (he : beginClose desc c b = (b1, x)) (hp : [.jade, .posts, .evr, .ch, .trace, .out] ⊆ ps)
    (h : onlyChanges ps a0 b) : onlyChanges ps a0 b1 := by
  have k := beginClose_frame (desc := desc) (c := c) hp h
  rw [he] at k
  exact k

theorem contextCloseDrain_frame {desc : Nat} {a0 b : Block} {ps : List Piece} (hp : [.jade, .posts, .evr, .ch, .trace, .out] ⊆ ps)
    (h0 : onlyChanges ps a0 b) : onlyChanges ps a0 (contextCloseDrain desc b) := by
  refine onlyChanges_step ?_ hp h0
  unfold contextCloseDrain
  repeat' (first
    | with_reducible assumption
    | with_reducible exact onlyChanges_refl _ _
    | with_reducible refine beginClose_frame (by decide) ?_
    | with_reducible refine beginClose_pair (by assumption) (by decide) ?_
    | with_reducible refine finishCtrl_frame (by decide) ?_
    | (with_reducible refine onlyChanges_foldl ?_ ?_; intro x y hx)
    | (extract_lets +onlyGivenNames x; refine imp_app (p := onlyChanges _ _ x) ?_ (fun hx => ?_); rotate_left; clear_value x; rotate_right)
    | extract_lets +onlyGivenNames x
    | split
    | dsimp only
    | subst x
    | (intro x))

theorem contextCloseAbort_frame {desc : Nat} {a0 b : Block} {ps : List Piece} (hp : [.jade, .spinel, .opal, .posts, .evr, .ch, .trace, .out] ⊆ ps)
    (h0 : onlyChanges ps a0 b) : onlyChanges ps a0 (contextCloseAbort desc b) := by
  refine onlyChanges_step ?_ hp h0
  unfold contextCloseAbort
  repeat' (first
    | with_reducible assumption
    | with_reducible exact onlyChanges_refl _ _
    | with_reducible refine beginClose_frame (by decide) ?_
    | with_reducible refine beginClose_pair (by assumption) (by decide) ?_
    | with_reducible refine dropUnassigned_frame (by decide) ?_
    | with_reducible refine Block.setCtx_frame (by decide) ?_
    | (with_reducible refine onlyChanges_foldl ?_ ?_; intro x y hx)
    | (extract_lets +onlyGivenNames x; refine imp_app (p := onlyChanges _ _ x) ?_ (fun hx => ?_); rotate_left; clear_value x; rotate_right)
    | extract_lets +onlyGivenNames x
    | split
    | dsimp only
    | subst x
    | (intro x))

theorem cancelFetched_frame {c : Nat} {a0 b : Block} {ps : List Piece} (hp : [.posts] ⊆ ps)
    (h0 : onlyChanges ps a0 b) : onlyChanges ps a0 (cancelFetched c b) := by
  refine onlyChanges_step ?_ hp h0
  unfold cancelFetched
  repeat' (first
    | with_reducible assumption
    | with_reducible exact onlyChanges_refl _ _
    | with_reducible refine Block.setRing_frame (by decide) ?_
    | (with_reducible refine onlyChanges_foldl ?_ ?_; intro x y hx)
    | (extract_lets +onlyGivenNames x; refine imp_app (p := onlyChanges _ _ x) ?_ (fun hx => ?_); rotate_left; clear_value x; rotate_right)
    | extract_lets +onlyGivenNames x
    | split
    | dsimp only
    | subst x
    | (intro x))

theorem finalPi_frame {c : Nat} {word : Nat} {a0 b : Block} {ps : List Piece} (hp : [.opal, .posts, .evr, .trace, .out] ⊆ ps)
    (h0 : onlyChanges ps a0 b) : onlyChanges ps a0 (finalPi c word b) := by
  refine onlyChanges_step ?_ hp h0
  unfold finalPi
  repeat' (first
    | with_reducible assumption
    | with_reducible exact onlyChanges_refl _ _
    | with_reducible refine Block.setRing_frame (by decide) ?_
    | with_reducible refine Block.logEvr_frame (by decide) ?_
    | with_reducible refine Block.modOut_frame (by decide) ?_
    | with_reducible refine Block.modOpal_frame (by decide) ?_
    | (with_reducible refine onlyChanges_foldl ?_ ?_; intro x y hx)
    | (extract_lets +onlyGivenNames x; refine imp_app (p := onlyChanges _ _ x) ?_ (fun hx => ?_); rotate_left; clear_value x; rotate_right)
    | extract_lets +onlyGivenNames x
    | split
    | dsimp only
    | subst x
    | (intro x))

theorem cancelPosted_frame {c : Nat} {n : Nat} {posted : Option (List (List Byte))} {a0 b : Block} {ps : List Piece} (hp : [.opal, .posts, .evr, .trace, .out] ⊆ ps)
    (h0 : onlyChanges ps a0 b) : onlyChanges ps a0 (cancelPosted c n posted b) := by
  refine onlyChanges_step ?_ hp h0
  unfold cancelPosted
  repeat' (first
    | with_reducible assumption
    | with_reducible exact onlyChanges_refl _ _
    | with_reducible refine cancelFetched_frame (by decide) ?_
    | with_reducible refine addFetched_frame (by decide) ?_
    | with_reducible refine Block.setRing_frame (by decide) ?_
    | with_reducible refine Block.modOut_frame (by decide) ?_
    | with_reducible refine Block.modOpal_frame (by decide) ?_
    | (with_reducible refine onlyChanges_foldl ?_ ?_; intro x y hx)
    | (extract_lets +onlyGivenNames x; refine imp_app (p := onlyChanges _ _ x) ?_ (fun hx => ?_); rotate_left; clear_value x; rotate_right)
    | extract_lets +onlyGivenNames x
    | split
    | dsimp only
    | subst x
    | (intro x))

theorem endClose_frame {c : Nat} {a0 b : Block} {ps : List Piece} (hp : [.jade, .spinel, .posts, .evr, .trace, .out] ⊆ ps)
    (h0 : onlyChanges ps a0 b) : onlyChanges ps a0 (endClose c b) := by
  refine onlyChanges_step ?_ hp h0
  unfold endClose
  repeat' (first
    | with_reducible assumption
    | with_reducible exact onlyChanges_refl _ _
    | with_reducible refine retireSlot_frame (by decide) ?_
    | with_reducible refine finishCtrl_frame (by decide) ?_
    | with_reducible refine Block.setCtx_frame (by decide) ?_
    | with_reducible refine Block.modJade_frame (by decide) ?_
    | (with_reducible refine onlyChanges_foldl ?_ ?_; intro x y hx)
    | (extract_lets +onlyGivenNames x; refine imp_app (p := onlyChanges _ _ x) ?_ (fun hx => ?_); rotate_left; clear_value x; rotate_right)
    | extract_lets +onlyGivenNames x
    | split
    | dsimp only
    | subst x
    | (intro x))

theorem closeRing_frame {c : Nat} {word : Nat} {posted : Option (List (List Byte))} {a0 b : Block} {ps : List Piece} (hp : [.opal, .posts, .evr, .trace, .out] ⊆ ps)
    (h0 : onlyChanges ps a0 b) : onlyChanges ps a0 (closeRing c word posted b) := by
  refine onlyChanges_step ?_ hp h0
  unfold closeRing
  repeat' (first
    | with_reducible assumption
    | with_reducible exact onlyChanges_refl _ _
    | with_reducible refine cancelPosted_frame (by decide) ?_
    | with_reducible refine finalPi_frame (by decide) ?_
    | (with_reducible refine onlyChanges_foldl ?_ ?_; intro x y hx)
    | (extract_lets +onlyGivenNames x; refine imp_app (p := onlyChanges _ _ x) ?_ (fun hx => ?_); rotate_left; clear_value x; rotate_right)
    | extract_lets +onlyGivenNames x
    | split
    | dsimp only
    | subst x
    | (intro x))

theorem contextCloseFinish_frame {c : Nat} {word : Nat} {posted : Option (List (List Byte))} {a0 b : Block} {ps : List Piece} (hp : [.jade, .spinel, .opal, .posts, .evr, .ch, .trace, .out] ⊆ ps)
    (h0 : onlyChanges ps a0 b) : onlyChanges ps a0 (contextCloseFinish c word posted b) := by
  refine onlyChanges_step ?_ hp h0
  unfold contextCloseFinish
  repeat' (first
    | with_reducible assumption
    | with_reducible exact onlyChanges_refl _ _
    | with_reducible refine closeRing_frame (by decide) ?_
    | with_reducible refine endClose_frame (by decide) ?_
    | with_reducible refine cancelFetched_frame (by decide) ?_
    | with_reducible refine serveRing_frame (by decide) ?_
    | (with_reducible refine onlyChanges_foldl ?_ ?_; intro x y hx)
    | (extract_lets +onlyGivenNames x; refine imp_app (p := onlyChanges _ _ x) ?_ (fun hx => ?_); rotate_left; clear_value x; rotate_right)
    | extract_lets +onlyGivenNames x
    | split
    | dsimp only
    | subst x
    | (intro x))

theorem bufferPost_frame {c : Nat} {desc : Nat} {a0 b : Block} {ps : List Piece} (hp : [.spinel, .opal, .posts, .evr, .ch, .trace, .out] ⊆ ps)
    (h0 : onlyChanges ps a0 b) : onlyChanges ps a0 (bufferPost c desc b) := by
  refine onlyChanges_step ?_ hp h0
  unfold bufferPost
  repeat' (first
    | with_reducible assumption
    | with_reducible exact onlyChanges_refl _ _
    | with_reducible refine serveHost_frame (by decide) ?_
    | with_reducible refine finish_frame (by decide) ?_
    | (with_reducible refine onlyChanges_foldl ?_ ?_; intro x y hx)
    | (extract_lets +onlyGivenNames x; refine imp_app (p := onlyChanges _ _ x) ?_ (fun hx => ?_); rotate_left; clear_value x; rotate_right)
    | extract_lets +onlyGivenNames x
    | split
    | dsimp only
    | subst x
    | (intro x))

theorem bufWaitExpiry_frame {a0 b : Block} {ps : List Piece} (hp : [.spinel, .opal, .posts, .evr, .ch, .trace, .out] ⊆ ps)
    (h0 : onlyChanges ps a0 b) : onlyChanges ps a0 (bufWaitExpiry b) := by
  refine onlyChanges_step ?_ hp h0
  unfold bufWaitExpiry
  repeat' (first
    | with_reducible assumption
    | with_reducible exact onlyChanges_refl _ _
    | with_reducible refine dropUnassigned_frame (by decide) ?_
    | with_reducible refine serveHost_frame (by decide) ?_
    | (with_reducible refine onlyChanges_foldl ?_ ?_; intro x y hx)
    | (extract_lets +onlyGivenNames x; refine imp_app (p := onlyChanges _ _ x) ?_ (fun hx => ?_); rotate_left; clear_value x; rotate_right)
    | extract_lets +onlyGivenNames x
    | split
    | dsimp only
    | subst x
    | (intro x))

theorem hostStripeMoved_frame {a0 b : Block} {ps : List Piece} (hp : [.spinel, .opal, .posts, .evr, .ch, .trace, .out] ⊆ ps)
    (h0 : onlyChanges ps a0 b) : onlyChanges ps a0 (hostStripeMoved b) := by
  refine onlyChanges_step ?_ hp h0
  unfold hostStripeMoved
  repeat' (first
    | with_reducible assumption
    | with_reducible exact onlyChanges_refl _ _
    | with_reducible refine takeMoved_frame (by decide) ?_
    | with_reducible refine Block.modCh_frame (by decide) ?_
    | (with_reducible refine onlyChanges_foldl ?_ ?_; intro x y hx)
    | (extract_lets +onlyGivenNames x; refine imp_app (p := onlyChanges _ _ x) ?_ (fun hx => ?_); rotate_left; clear_value x; rotate_right)
    | extract_lets +onlyGivenNames x
    | split
    | dsimp only
    | subst x
    | (intro x))

theorem berylEventRecord_frame {a0 b : Block} {ps : List Piece} (hp : [.posts, .ch, .trace, .out] ⊆ ps)
    (h0 : onlyChanges ps a0 b) : onlyChanges ps a0 (berylEventRecord b) := by
  refine onlyChanges_step ?_ hp h0
  unfold berylEventRecord
  repeat' (first
    | with_reducible assumption
    | with_reducible exact onlyChanges_refl _ _
    | with_reducible refine postEventAt_frame (by decide) ?_
    | with_reducible refine Block.modCh_frame (by decide) ?_
    | (with_reducible refine onlyChanges_foldl ?_ ?_; intro x y hx)
    | (extract_lets +onlyGivenNames x; refine imp_app (p := onlyChanges _ _ x) ?_ (fun hx => ?_); rotate_left; clear_value x; rotate_right)
    | extract_lets +onlyGivenNames x
    | split
    | dsimp only
    | subst x
    | (intro x))

theorem msixHoldoffExpiry_frame {v : Nat} {a0 b : Block} {ps : List Piece} (hp : [.posts, .out] ⊆ ps)
    (h0 : onlyChanges ps a0 b) : onlyChanges ps a0 (msixHoldoffExpiry v b) := by
  refine onlyChanges_step ?_ hp h0
  unfold msixHoldoffExpiry
  repeat' (first
    | with_reducible assumption
    | with_reducible exact onlyChanges_refl _ _
    | with_reducible refine releaseMsg_frame (by decide) ?_
    | with_reducible refine requestMsg_frame (by decide) ?_
    | with_reducible refine Block.setVec_frame (by decide) ?_
    | (with_reducible refine onlyChanges_foldl ?_ ?_; intro x y hx)
    | (extract_lets +onlyGivenNames x; refine imp_app (p := onlyChanges _ _ x) ?_ (fun hx => ?_); rotate_left; clear_value x; rotate_right)
    | extract_lets +onlyGivenNames x
    | split
    | dsimp only
    | subst x
    | (intro x))

theorem msixMaskWrite_frame {w : MsixWrite} {a0 b : Block} {ps : List Piece} (hp : [.opal, .posts, .regs, .out] ⊆ ps)
    (h0 : onlyChanges ps a0 b) : onlyChanges ps a0 (msixMaskWrite w b) := by
  refine onlyChanges_step ?_ hp h0
  unfold msixMaskWrite
  repeat' (first
    | with_reducible assumption
    | with_reducible exact onlyChanges_refl _ _
    | with_reducible refine releaseMsg_frame (by decide) ?_
    | with_reducible refine Block.setReg_frame (by decide) ?_
    | with_reducible refine Block.modOpal_frame (by decide) ?_
    | (with_reducible refine onlyChanges_foldl ?_ ?_; intro x y hx)
    | (extract_lets +onlyGivenNames x; refine imp_app (p := onlyChanges _ _ x) ?_ (fun hx => ?_); rotate_left; clear_value x; rotate_right)
    | extract_lets +onlyGivenNames x
    | split
    | dsimp only
    | subst x
    | (intro x))

theorem forget_frame {a0 b : Block} {ps : List Piece} (hp : [.opal, .posts] ⊆ ps)
    (h0 : onlyChanges ps a0 b) : onlyChanges ps a0 (forget b) := by
  refine onlyChanges_step ?_ hp h0
  unfold forget
  repeat' (first
    | with_reducible assumption
    | with_reducible exact onlyChanges_refl _ _
    | with_reducible refine Block.modOpal_frame (by decide) ?_
    | (with_reducible refine onlyChanges_foldl ?_ ?_; intro x y hx)
    | (extract_lets +onlyGivenNames x; refine imp_app (p := onlyChanges _ _ x) ?_ (fun hx => ?_); rotate_left; clear_value x; rotate_right)
    | extract_lets +onlyGivenNames x
    | split
    | dsimp only
    | subst x
    | (intro x))

theorem ctrlRingStart_frame {w : Word} {a0 b : Block} {ps : List Piece} (hp : [.opal, .posts, .out] ⊆ ps)
    (h0 : onlyChanges ps a0 b) : onlyChanges ps a0 (ctrlRingStart w b) := by
  refine onlyChanges_step ?_ hp h0
  unfold ctrlRingStart
  repeat' (first
    | with_reducible assumption
    | with_reducible exact onlyChanges_refl _ _
    | with_reducible refine forget_frame (by decide) ?_
    | with_reducible refine flushEvents_frame (by decide) ?_
    | with_reducible refine Block.modOpal_frame (by decide) ?_
    | (with_reducible refine onlyChanges_foldl ?_ ?_; intro x y hx)
    | (extract_lets +onlyGivenNames x; refine imp_app (p := onlyChanges _ _ x) ?_ (fun hx => ?_); rotate_left; clear_value x; rotate_right)
    | extract_lets +onlyGivenNames x
    | split
    | dsimp only
    | subst x
    | (intro x))

theorem ledgerRingStart_frame {w : Word} {a0 b : Block} {ps : List Piece} (hp : [.opal, .posts, .evr, .ch, .trace, .out, .fresh] ⊆ ps)
    (h0 : onlyChanges ps a0 b) : onlyChanges ps a0 (ledgerRingStart w b) := by
  refine onlyChanges_step ?_ hp h0
  unfold ledgerRingStart
  repeat' (first
    | with_reducible assumption
    | with_reducible exact onlyChanges_refl _ _
    | with_reducible refine serveLedger_frame (by decide) ?_
    | with_reducible refine Block.modOpal_frame (by decide) ?_
    | (with_reducible refine onlyChanges_foldl ?_ ?_; intro x y hx)
    | (extract_lets +onlyGivenNames x; refine imp_app (p := onlyChanges _ _ x) ?_ (fun hx => ?_); rotate_left; clear_value x; rotate_right)
    | extract_lets +onlyGivenNames x
    | split
    | dsimp only
    | subst x
    | (intro x))

theorem resumeOpal_frame {a0 b : Block} {ps : List Piece} (hp : [.spinel, .opal, .posts, .evr, .ch, .trace, .out, .fresh] ⊆ ps)
    (h0 : onlyChanges ps a0 b) : onlyChanges ps a0 (resumeOpal b) := by
  refine onlyChanges_step ?_ hp h0
  unfold resumeOpal
  repeat' (first
    | with_reducible assumption
    | with_reducible exact onlyChanges_refl _ _
    | with_reducible refine takeClosed_frame (by decide) ?_
    | with_reducible refine serveLedger_frame (by decide) ?_
    | with_reducible refine serveAllHosts_frame (by decide) ?_
    | with_reducible refine takeNotes_frame (by decide) ?_
    | with_reducible refine serveRing_frame (by decide) ?_
    | (with_reducible refine onlyChanges_foldl ?_ ?_; intro x y hx)
    | (extract_lets +onlyGivenNames x; refine imp_app (p := onlyChanges _ _ x) ?_ (fun hx => ?_); rotate_left; clear_value x; rotate_right)
    | extract_lets +onlyGivenNames x
    | split
    | dsimp only
    | subst x
    | (intro x))

theorem logPcie_frame {port : Nat} {event : Nat} {detail : Nat} {a0 b : Block} {ps : List Piece} (hp : [.evr, .trace] ⊆ ps)
    (h0 : onlyChanges ps a0 b) : onlyChanges ps a0 (logPcie port event detail b) := by
  refine onlyChanges_step ?_ hp h0
  unfold logPcie
  repeat' (first
    | with_reducible assumption
    | with_reducible exact onlyChanges_refl _ _
    | with_reducible refine Block.logEvr_frame (by decide) ?_
    | (with_reducible refine onlyChanges_foldl ?_ ?_; intro x y hx)
    | (extract_lets +onlyGivenNames x; refine imp_app (p := onlyChanges _ _ x) ?_ (fun hx => ?_); rotate_left; clear_value x; rotate_right)
    | extract_lets +onlyGivenNames x
    | split
    | dsimp only
    | subst x
    | (intro x))

theorem hostLinkFault_frame {a0 b : Block} {ps : List Piece} (hp : [.posts, .evr, .trace, .out] ⊆ ps)
    (h0 : onlyChanges ps a0 b) : onlyChanges ps a0 (hostLinkFault b) := by
  refine onlyChanges_step ?_ hp h0
  unfold hostLinkFault
  repeat' (first
    | with_reducible assumption
    | with_reducible exact onlyChanges_refl _ _
    | with_reducible refine postFault_frame (by decide) ?_
    | (with_reducible refine onlyChanges_foldl ?_ ?_; intro x y hx)
    | (extract_lets +onlyGivenNames x; refine imp_app (p := onlyChanges _ _ x) ?_ (fun hx => ?_); rotate_left; clear_value x; rotate_right)
    | extract_lets +onlyGivenNames x
    | split
    | dsimp only
    | subst x
    | (intro x))

theorem hostLinkDown_frame {a0 b : Block} {ps : List Piece} (hp : [.opal, .posts, .evr, .trace, .out] ⊆ ps)
    (h0 : onlyChanges ps a0 b) : onlyChanges ps a0 (hostLinkDown b) := by
  refine onlyChanges_step ?_ hp h0
  unfold hostLinkDown
  repeat' (first
    | with_reducible assumption
    | with_reducible exact onlyChanges_refl _ _
    | with_reducible refine hostLinkFault_frame (by decide) ?_
    | with_reducible refine logPcie_frame (by decide) ?_
    | with_reducible refine Block.modOpal_frame (by decide) ?_
    | (with_reducible refine onlyChanges_foldl ?_ ?_; intro x y hx)
    | (extract_lets +onlyGivenNames x; refine imp_app (p := onlyChanges _ _ x) ?_ (fun hx => ?_); rotate_left; clear_value x; rotate_right)
    | extract_lets +onlyGivenNames x
    | split
    | dsimp only
    | subst x
    | (intro x))

theorem hostLinkUp_frame {rate : Nat} {width : Nat} {a0 b : Block} {ps : List Piece} (hp : [.spinel, .opal, .posts, .evr, .ch, .trace, .out, .fresh] ⊆ ps)
    (h0 : onlyChanges ps a0 b) : onlyChanges ps a0 (hostLinkUp rate width b) := by
  refine onlyChanges_step ?_ hp h0
  unfold hostLinkUp
  repeat' (first
    | with_reducible assumption
    | with_reducible exact onlyChanges_refl _ _
    | with_reducible refine logPcie_frame (by decide) ?_
    | with_reducible refine resumeOpal_frame (by decide) ?_
    | with_reducible refine Block.modOpal_frame (by decide) ?_
    | (with_reducible refine onlyChanges_foldl ?_ ?_; intro x y hx)
    | (extract_lets +onlyGivenNames x; refine imp_app (p := onlyChanges _ _ x) ?_ (fun hx => ?_); rotate_left; clear_value x; rotate_right)
    | extract_lets +onlyGivenNames x
    | split
    | dsimp only
    | subst x
    | (intro x))

theorem hostLinkError_frame {a0 b : Block} {ps : List Piece} (hp : [.posts, .evr, .trace, .out] ⊆ ps)
    (h0 : onlyChanges ps a0 b) : onlyChanges ps a0 (hostLinkError b) := by
  refine onlyChanges_step ?_ hp h0
  unfold hostLinkError
  repeat' (first
    | with_reducible assumption
    | with_reducible exact onlyChanges_refl _ _
    | with_reducible refine hostLinkFault_frame (by decide) ?_
    | with_reducible refine logPcie_frame (by decide) ?_
    | (with_reducible refine onlyChanges_foldl ?_ ?_; intro x y hx)
    | (extract_lets +onlyGivenNames x; refine imp_app (p := onlyChanges _ _ x) ?_ (fun hx => ?_); rotate_left; clear_value x; rotate_right)
    | extract_lets +onlyGivenNames x
    | split
    | dsimp only
    | subst x
    | (intro x))

theorem fundamentalReset_frame {a0 b : Block} {ps : List Piece} (hp : [.opal, .posts, .topaz, .regs] ⊆ ps)
    (h0 : onlyChanges ps a0 b) : onlyChanges ps a0 (fundamentalReset b) := by
  refine onlyChanges_step ?_ hp h0
  unfold fundamentalReset
  repeat' (first
    | with_reducible assumption
    | with_reducible exact onlyChanges_refl _ _
    | with_reducible refine Block.resetRegs_frame (by decide) ?_
    | with_reducible refine wakeUnit_frame (by decide) ?_
    | with_reducible refine Block.modOpal_frame (by decide) ?_
    | (with_reducible refine onlyChanges_foldl ?_ ?_; intro x y hx)
    | (extract_lets +onlyGivenNames x; refine imp_app (p := onlyChanges _ _ x) ?_ (fun hx => ?_); rotate_left; clear_value x; rotate_right)
    | extract_lets +onlyGivenNames x
    | split
    | dsimp only
    | subst x
    | (intro x))

theorem hostPerst_frame {a0 b : Block} {ps : List Piece} (hp : [.opal, .posts] ⊆ ps)
    (h0 : onlyChanges ps a0 b) : onlyChanges ps a0 (hostPerst b) := by
  refine onlyChanges_step ?_ hp h0
  unfold hostPerst
  repeat' (first
    | with_reducible assumption
    | with_reducible exact onlyChanges_refl _ _
    | with_reducible refine Block.modOpal_frame (by decide) ?_
    | (with_reducible refine onlyChanges_foldl ?_ ?_; intro x y hx)
    | (extract_lets +onlyGivenNames x; refine imp_app (p := onlyChanges _ _ x) ?_ (fun hx => ?_); rotate_left; clear_value x; rotate_right)
    | extract_lets +onlyGivenNames x
    | split
    | dsimp only
    | subst x
    | (intro x))

end Sys2Proof.Machine
end

