-- ==== Sys2Proof/Laws/FrameOnyx.lean ====
section
/-! SUPPORT. Frames of the operations of Nvme, Magazine, Recording, Onyx. -/

namespace Sys2Proof.Machine

theorem portMod_frame {m : Nat} {f : Port → Port} {a0 b : Block} {ps : List Piece} (hp : [.onyx] ⊆ ps)
    (h0 : onlyChanges ps a0 b) : onlyChanges ps a0 (portMod m f b) := by
  refine onlyChanges_step ?_ hp h0
  unfold portMod
  repeat' (first
    | with_reducible assumption
    | with_reducible exact onlyChanges_refl _ _
    | with_reducible refine Block.modOnyx_frame (by decide) ?_
    | (with_reducible refine onlyChanges_foldl ?_ ?_; intro x y hx)
    | (extract_lets +onlyGivenNames x; refine imp_app (p := onlyChanges _ _ x) ?_ (fun hx => ?_); rotate_left; clear_value x; rotate_right)
    | extract_lets +onlyGivenNames x
    | split
    | dsimp only
    | subst x
    | (intro x))

theorem mediaMod_frame {m : Nat} {f : Media → Media} {a0 b : Block} {ps : List Piece} (hp : [.onyx] ⊆ ps)
    (h0 : onlyChanges ps a0 b) : onlyChanges ps a0 (mediaMod m f b) := by
  refine onlyChanges_step ?_ hp h0
  unfold mediaMod
  repeat' (first
    | with_reducible assumption
    | with_reducible exact onlyChanges_refl _ _
    | with_reducible refine portMod_frame (by decide) ?_
    | (with_reducible refine onlyChanges_foldl ?_ ?_; intro x y hx)
    | (extract_lets +onlyGivenNames x; refine imp_app (p := onlyChanges _ _ x) ?_ (fun hx => ?_); rotate_left; clear_value x; rotate_right)
    | extract_lets +onlyGivenNames x
    | split
    | dsimp only
    | subst x
    | (intro x))

theorem magEvent_frame {m : Nat} {kind : Nat} {data : List Nat} {a0 b : Block} {ps : List Piece} (hp : [.posts, .out] ⊆ ps)
    (h0 : onlyChanges ps a0 b) : onlyChanges ps a0 (magEvent m kind data b) := by
  refine onlyChanges_step ?_ hp h0
  unfold magEvent
  repeat' (first
    | with_reducible assumption
    | with_reducible exact onlyChanges_refl _ _
    | with_reducible refine postEvent_frame (by decide) ?_
    | (with_reducible refine onlyChanges_foldl ?_ ?_; intro x y hx)
    | (extract_lets +onlyGivenNames x; refine imp_app (p := onlyChanges _ _ x) ?_ (fun hx => ?_); rotate_left; clear_value x; rotate_right)
    | extract_lets +onlyGivenNames x
    | split
    | dsimp only
    | subst x
    | (intro x))

theorem issueCmd_frame {m : Nat} {op : NvmeOp} {use : NvmeUse} {retried : Bool} {a0 b : Block} {ps : List Piece} (hp : [.onyx, .out] ⊆ ps)
    (h0 : onlyChanges ps a0 b) : onlyChanges ps a0 (issueCmd m op use retried b) := by
  refine onlyChanges_step ?_ hp h0
  unfold issueCmd
  repeat' (first
    | with_reducible assumption
    | with_reducible exact onlyChanges_refl _ _
    | with_reducible refine portMod_frame (by decide) ?_
    | with_reducible refine Block.modOut_frame (by decide) ?_
    | (with_reducible refine onlyChanges_foldl ?_ ?_; intro x y hx)
    | (extract_lets +onlyGivenNames x; refine imp_app (p := onlyChanges _ _ x) ?_ (fun hx => ?_); rotate_left; clear_value x; rotate_right)
    | extract_lets +onlyGivenNames x
    | split
    | dsimp only
    | subst x
    | (intro x))

theorem readLog_frame {m : Nat} {op : NvmeOp} {use : NvmeUse} {a0 b : Block} {ps : List Piece} (hp : [.onyx, .out] ⊆ ps)
    (h0 : onlyChanges ps a0 b) : onlyChanges ps a0 (readLog m op use b) := by
  refine onlyChanges_step ?_ hp h0
  unfold readLog
  repeat' (first
    | with_reducible assumption
    | with_reducible exact onlyChanges_refl _ _
    | with_reducible refine issueCmd_frame (by decide) ?_
    | with_reducible refine portMod_frame (by decide) ?_
    | (with_reducible refine onlyChanges_foldl ?_ ?_; intro x y hx)
    | (extract_lets +onlyGivenNames x; refine imp_app (p := onlyChanges _ _ x) ?_ (fun hx => ?_); rotate_left; clear_value x; rotate_right)
    | extract_lets +onlyGivenNames x
    | split
    | dsimp only
    | subst x
    | (intro x))

theorem readWaiting_frame {m : Nat} {a0 b : Block} {ps : List Piece} (hp : [.onyx, .out] ⊆ ps)
    (h0 : onlyChanges ps a0 b) : onlyChanges ps a0 (readWaiting m b) := by
  refine onlyChanges_step ?_ hp h0
  unfold readWaiting
  repeat' (first
    | with_reducible assumption
    | with_reducible exact onlyChanges_refl _ _
    | with_reducible refine issueCmd_frame (by decide) ?_
    | with_reducible refine portMod_frame (by decide) ?_
    | (with_reducible refine onlyChanges_foldl ?_ ?_; intro x y hx)
    | (extract_lets +onlyGivenNames x; refine imp_app (p := onlyChanges _ _ x) ?_ (fun hx => ?_); rotate_left; clear_value x; rotate_right)
    | extract_lets +onlyGivenNames x
    | split
    | dsimp only
    | subst x
    | (intro x))

theorem addSteps_frame {m : Nat} {l : List PortStep} {a0 b : Block} {ps : List Piece} (hp : [.onyx] ⊆ ps)
    (h0 : onlyChanges ps a0 b) : onlyChanges ps a0 (addSteps m l b) := by
  refine onlyChanges_step ?_ hp h0
  unfold addSteps
  repeat' (first
    | with_reducible assumption
    | with_reducible exact onlyChanges_refl _ _
    | with_reducible refine portMod_frame (by decide) ?_
    | (with_reducible refine onlyChanges_foldl ?_ ?_; intro x y hx)
    | (extract_lets +onlyGivenNames x; refine imp_app (p := onlyChanges _ _ x) ?_ (fun hx => ?_); rotate_left; clear_value x; rotate_right)
    | extract_lets +onlyGivenNames x
    | split
    | dsimp only
    | subst x
    | (intro x))

theorem trouble_frame {m : Nat} {a0 b : Block} {ps : List Piece} (hp : [.onyx] ⊆ ps)
    (h0 : onlyChanges ps a0 b) : onlyChanges ps a0 (trouble m b) := by
  refine onlyChanges_step ?_ hp h0
  unfold trouble
  repeat' (first
    | with_reducible assumption
    | with_reducible exact onlyChanges_refl _ _
    | with_reducible refine portMod_frame (by decide) ?_
    | (with_reducible refine onlyChanges_foldl ?_ ?_; intro x y hx)
    | (extract_lets +onlyGivenNames x; refine imp_app (p := onlyChanges _ _ x) ?_ (fun hx => ?_); rotate_left; clear_value x; rotate_right)
    | extract_lets +onlyGivenNames x
    | split
    | dsimp only
    | subst x
    | (intro x))

theorem postHealth_frame {m : Nat} {a0 b : Block} {ps : List Piece} (hp : [.posts, .out] ⊆ ps)
    (h0 : onlyChanges ps a0 b) : onlyChanges ps a0 (postHealth m b) := by
  refine onlyChanges_step ?_ hp h0
  unfold postHealth
  repeat' (first
    | with_reducible assumption
    | with_reducible exact onlyChanges_refl _ _
    | with_reducible refine magEvent_frame (by decide) ?_
    | (with_reducible refine onlyChanges_foldl ?_ ?_; intro x y hx)
    | (extract_lets +onlyGivenNames x; refine imp_app (p := onlyChanges _ _ x) ?_ (fun hx => ?_); rotate_left; clear_value x; rotate_right)
    | extract_lets +onlyGivenNames x
    | split
    | dsimp only
    | subst x
    | (intro x))

theorem mountHealth_frame {m : Nat} {a0 b : Block} {ps : List Piece} (hp : [.posts, .out] ⊆ ps)
    (h0 : onlyChanges ps a0 b) : onlyChanges ps a0 (mountHealth m b) := by
  refine onlyChanges_step ?_ hp h0
  unfold mountHealth
  repeat' (first
    | with_reducible assumption
    | with_reducible exact onlyChanges_refl _ _
    | with_reducible refine postHealth_frame (by decide) ?_
    | (with_reducible refine onlyChanges_foldl ?_ ?_; intro x y hx)
    | (extract_lets +onlyGivenNames x; refine imp_app (p := onlyChanges _ _ x) ?_ (fun hx => ?_); rotate_left; clear_value x; rotate_right)
    | extract_lets +onlyGivenNames x
    | split
    | dsimp only
    | subst x
    | (intro x))

theorem refuse_frame {m : Nat} {detail : Nat} {a0 b : Block} {ps : List Piece} (hp : [.posts, .onyx, .out] ⊆ ps)
    (h0 : onlyChanges ps a0 b) : onlyChanges ps a0 (refuse m detail b) := by
  refine onlyChanges_step ?_ hp h0
  unfold refuse
  repeat' (first
    | with_reducible assumption
    | with_reducible exact onlyChanges_refl _ _
    | with_reducible refine mountHealth_frame (by decide) ?_
    | with_reducible refine magEvent_frame (by decide) ?_
    | with_reducible refine portMod_frame (by decide) ?_
    | (with_reducible refine onlyChanges_foldl ?_ ?_; intro x y hx)
    | (extract_lets +onlyGivenNames x; refine imp_app (p := onlyChanges _ _ x) ?_ (fun hx => ?_); rotate_left; clear_value x; rotate_right)
    | extract_lets +onlyGivenNames x
    | split
    | dsimp only
    | subst x
    | (intro x))

theorem portReady_frame {m : Nat} {how : Nat} {a0 b : Block} {ps : List Piece} (hp : [.posts, .onyx, .out] ⊆ ps)
    (h0 : onlyChanges ps a0 b) : onlyChanges ps a0 (portReady m how b) := by
  refine onlyChanges_step ?_ hp h0
  unfold portReady
  repeat' (first
    | with_reducible assumption
    | with_reducible exact onlyChanges_refl _ _
    | with_reducible refine mountHealth_frame (by decide) ?_
    | with_reducible refine magEvent_frame (by decide) ?_
    | with_reducible refine portMod_frame (by decide) ?_
    | (with_reducible refine onlyChanges_foldl ?_ ?_; intro x y hx)
    | (extract_lets +onlyGivenNames x; refine imp_app (p := onlyChanges _ _ x) ?_ (fun hx => ?_); rotate_left; clear_value x; rotate_right)
    | extract_lets +onlyGivenNames x
    | split
    | dsimp only
    | subst x
    | (intro x))

theorem initialise_frame {m : Nat} {a0 b : Block} {ps : List Piece} (hp : [.onyx, .fresh] ⊆ ps)
    (h0 : onlyChanges ps a0 b) : onlyChanges ps a0 (initialise m b) := by
  refine onlyChanges_step ?_ hp h0
  unfold initialise
  repeat' (first
    | with_reducible assumption
    | with_reducible exact onlyChanges_refl _ _
    | with_reducible refine portMod_frame (by decide) ?_
    | (with_reducible refine onlyChanges_foldl ?_ ?_; intro x y hx)
    | (extract_lets +onlyGivenNames x; refine imp_app (p := onlyChanges _ _ x) ?_ (fun hx => ?_); rotate_left; clear_value x; rotate_right)
    | extract_lets +onlyGivenNames x
    | split
    | dsimp only
    | with_reducible refine upd_fresh_frame (by decide) ?_
    | subst x
    | (intro x))

theorem closeOpenClips_frame {m : Nat} {a0 b : Block} {ps : List Piece} (hp : [.onyx] ⊆ ps)
    (h0 : onlyChanges ps a0 b) : onlyChanges ps a0 (closeOpenClips m b) := by
  refine onlyChanges_step ?_ hp h0
  unfold closeOpenClips
  repeat' (first
    | with_reducible assumption
    | with_reducible exact onlyChanges_refl _ _
    | with_reducible refine portMod_frame (by decide) ?_
    | (with_reducible refine onlyChanges_foldl ?_ ?_; intro x y hx)
    | (extract_lets +onlyGivenNames x; refine imp_app (p := onlyChanges _ _ x) ?_ (fun hx => ?_); rotate_left; clear_value x; rotate_right)
    | extract_lets +onlyGivenNames x
    | split
    | dsimp only
    | subst x
    | (intro x))

theorem finishMount_frame {m : Nat} {a0 b : Block} {ps : List Piece} (hp : [.onyx] ⊆ ps)
    (h0 : onlyChanges ps a0 b) : onlyChanges ps a0 (finishMount m b) := by
  refine onlyChanges_step ?_ hp h0
  unfold finishMount
  repeat' (first
    | with_reducible assumption
    | with_reducible exact onlyChanges_refl _ _
    | with_reducible refine closeOpenClips_frame (by decide) ?_
    | with_reducible refine addSteps_frame (by decide) ?_
    | (with_reducible refine onlyChanges_foldl ?_ ?_; intro x y hx)
    | (extract_lets +onlyGivenNames x; refine imp_app (p := onlyChanges _ _ x) ?_ (fun hx => ?_); rotate_left; clear_value x; rotate_right)
    | extract_lets +onlyGivenNames x
    | split
    | dsimp only
    | subst x
    | (intro x))

theorem readStore_frame {m : Nat} {x : Media} {a0 b : Block} {ps : List Piece} (hp : [.onyx] ⊆ ps)
    (h0 : onlyChanges ps a0 b) : onlyChanges ps a0 (readStore m x b) := by
  refine onlyChanges_step ?_ hp h0
  unfold readStore
  repeat' (first
    | with_reducible assumption
    | with_reducible exact onlyChanges_refl _ _
    | with_reducible refine portMod_frame (by decide) ?_
    | (with_reducible refine onlyChanges_foldl ?_ ?_; intro x y hx)
    | (extract_lets +onlyGivenNames x; refine imp_app (p := onlyChanges _ _ x) ?_ (fun hx => ?_); rotate_left; clear_value x; rotate_right)
    | extract_lets +onlyGivenNames x
    | split
    | dsimp only
    | subst x
    | (intro x))

theorem superRead_frame {m : Nat} {a : List Byte} {v : List Byte} {a0 b : Block} {ps : List Piece} (hp : [.posts, .onyx, .out, .fresh] ⊆ ps)
    (h0 : onlyChanges ps a0 b) : onlyChanges ps a0 (superRead m a v b) := by
  refine onlyChanges_step ?_ hp h0
  unfold superRead
  repeat' (first
    | with_reducible assumption
    | with_reducible exact onlyChanges_refl _ _
    | with_reducible refine readStore_frame (by decide) ?_
    | with_reducible refine initialise_frame (by decide) ?_
    | with_reducible refine refuse_frame (by decide) ?_
    | with_reducible refine portMod_frame (by decide) ?_
    | (with_reducible refine onlyChanges_foldl ?_ ?_; intro x y hx)
    | (extract_lets +onlyGivenNames x; refine imp_app (p := onlyChanges _ _ x) ?_ (fun hx => ?_); rotate_left; clear_value x; rotate_right)
    | extract_lets +onlyGivenNames x
    | split
    | dsimp only
    | subst x
    | (intro x))

theorem mountData_frame {m : Nat} {op : NvmeOp} {data : List Byte} {a0 b : Block} {ps : List Piece} (hp : [.posts, .onyx, .out, .fresh] ⊆ ps)
    (h0 : onlyChanges ps a0 b) : onlyChanges ps a0 (mountData m op data b) := by
  refine onlyChanges_step ?_ hp h0
  unfold mountData
  repeat' (first
    | with_reducible assumption
    | with_reducible exact onlyChanges_refl _ _
    | with_reducible refine superRead_frame (by decide) ?_
    | with_reducible refine finishMount_frame (by decide) ?_
    | with_reducible refine closeOpenClips_frame (by decide) ?_
    | with_reducible refine initialise_frame (by decide) ?_
    | with_reducible refine refuse_frame (by decide) ?_
    | with_reducible refine trouble_frame (by decide) ?_
    | with_reducible refine addSteps_frame (by decide) ?_
    | with_reducible refine portMod_frame (by decide) ?_
    | (with_reducible refine onlyChanges_foldl ?_ ?_; intro x y hx)
    | (extract_lets +onlyGivenNames x; refine imp_app (p := onlyChanges _ _ x) ?_ (fun hx => ?_); rotate_left; clear_value x; rotate_right)
    | extract_lets +onlyGivenNames x
    | split
    | dsimp only
    | subst x
    | (intro x))

theorem portUp_frame {m : Nat} {gen : Nat} {width : Nat} {vs : Nat} {cap : Nat} {a0 b : Block} {ps : List Piece} (hp : [.posts, .onyx, .evr, .topaz, .trace, .out] ⊆ ps)
    (h0 : onlyChanges ps a0 b) : onlyChanges ps a0 (portUp m gen width vs cap b) := by
  refine onlyChanges_step ?_ hp h0
  unfold portUp
  repeat' (first
    | with_reducible assumption
    | with_reducible exact onlyChanges_refl _ _
    | with_reducible refine refuse_frame (by decide) ?_
    | with_reducible refine magEvent_frame (by decide) ?_
    | with_reducible refine portMod_frame (by decide) ?_
    | with_reducible refine logPcie_frame (by decide) ?_
    | with_reducible refine wakeUnit_frame (by decide) ?_
    | (with_reducible refine onlyChanges_foldl ?_ ?_; intro x y hx)
    | (extract_lets +onlyGivenNames x; refine imp_app (p := onlyChanges _ _ x) ?_ (fun hx => ?_); rotate_left; clear_value x; rotate_right)
    | extract_lets +onlyGivenNames x
    | split
    | dsimp only
    | subst x
    | (intro x))

theorem magazineLinkUp_frame {m : Nat} {gen : Nat} {width : Nat} {vs : Nat} {cap : Nat} {a0 b : Block} {ps : List Piece} (hp : [.posts, .onyx, .evr, .topaz, .trace, .out] ⊆ ps)
    (h0 : onlyChanges ps a0 b) : onlyChanges ps a0 (magazineLinkUp m gen width vs cap b) := by
  refine onlyChanges_step ?_ hp h0
  unfold magazineLinkUp
  repeat' (first
    | with_reducible assumption
    | with_reducible exact onlyChanges_refl _ _
    | with_reducible refine portUp_frame (by decide) ?_
    | (with_reducible refine onlyChanges_foldl ?_ ?_; intro x y hx)
    | (extract_lets +onlyGivenNames x; refine imp_app (p := onlyChanges _ _ x) ?_ (fun hx => ?_); rotate_left; clear_value x; rotate_right)
    | extract_lets +onlyGivenNames x
    | split
    | dsimp only
    | subst x
    | (intro x))

theorem osegMod_frame {frame : Nat} {index : Nat} {f : OnyxSeg → OnyxSeg} {a0 b : Block} {ps : List Piece} (hp : [.onyx] ⊆ ps)
    (h0 : onlyChanges ps a0 b) : onlyChanges ps a0 (osegMod frame index f b) := by
  refine onlyChanges_step ?_ hp h0
  unfold osegMod
  repeat' (first
    | with_reducible assumption
    | with_reducible exact onlyChanges_refl _ _
    | with_reducible refine Block.modOnyx_frame (by decide) ?_
    | (with_reducible refine onlyChanges_foldl ?_ ?_; intro x y hx)
    | (extract_lets +onlyGivenNames x; refine imp_app (p := onlyChanges _ _ x) ?_ (fun hx => ?_); rotate_left; clear_value x; rotate_right)
    | extract_lets +onlyGivenNames x
    | split
    | dsimp only
    | subst x
    | (intro x))

theorem partMod_frame {frame : Nat} {index : Nat} {k : Nat} {f : Part → Part} {a0 b : Block} {ps : List Piece} (hp : [.onyx] ⊆ ps)
    (h0 : onlyChanges ps a0 b) : onlyChanges ps a0 (partMod frame index k f b) := by
  refine onlyChanges_step ?_ hp h0
  unfold partMod
  repeat' (first
    | with_reducible assumption
    | with_reducible exact onlyChanges_refl _ _
    | with_reducible refine osegMod_frame (by decide) ?_
    | (with_reducible refine onlyChanges_foldl ?_ ?_; intro x y hx)
    | (extract_lets +onlyGivenNames x; refine imp_app (p := onlyChanges _ _ x) ?_ (fun hx => ?_); rotate_left; clear_value x; rotate_right)
    | extract_lets +onlyGivenNames x
    | split
    | dsimp only
    | subst x
    | (intro x))

theorem takeMod_frame {no : Nat} {f : OnyxTake → OnyxTake} {a0 b : Block} {ps : List Piece} (hp : [.onyx] ⊆ ps)
    (h0 : onlyChanges ps a0 b) : onlyChanges ps a0 (takeMod no f b) := by
  refine onlyChanges_step ?_ hp h0
  unfold takeMod
  repeat' (first
    | with_reducible assumption
    | with_reducible exact onlyChanges_refl _ _
    | with_reducible refine Block.modOnyx_frame (by decide) ?_
    | (with_reducible refine onlyChanges_foldl ?_ ?_; intro x y hx)
    | (extract_lets +onlyGivenNames x; refine imp_app (p := onlyChanges _ _ x) ?_ (fun hx => ?_); rotate_left; clear_value x; rotate_right)
    | extract_lets +onlyGivenNames x
    | split
    | dsimp only
    | subst x
    | (intro x))

theorem makeStop_frame {r : EndReason} {a0 b : Block} {ps : List Piece} (hp : [.onyx, .ch, .trace] ⊆ ps)
    (h0 : onlyChanges ps a0 b) : onlyChanges ps a0 (makeStop r b) := by
  refine onlyChanges_step ?_ hp h0
  unfold makeStop
  repeat' (first
    | with_reducible assumption
    | with_reducible exact onlyChanges_refl _ _
    | with_reducible refine takeMod_frame (by decide) ?_
    | with_reducible refine Block.modCh_frame (by decide) ?_
    | (with_reducible refine onlyChanges_foldl ?_ ?_; intro x y hx)
    | (extract_lets +onlyGivenNames x; refine imp_app (p := onlyChanges _ _ x) ?_ (fun hx => ?_); rotate_left; clear_value x; rotate_right)
    | extract_lets +onlyGivenNames x
    | split
    | dsimp only
    | subst x
    | (intro x))

theorem cipherTake_frame {m : Nat} {a : Nat} {len : Nat} {a0 b : Block} {ps : List Piece} (hp : [.onyx] ⊆ ps)
    (h0 : onlyChanges ps a0 b) : onlyChanges ps a0 (cipherTake m a len b) := by
  refine onlyChanges_step ?_ hp h0
  unfold cipherTake
  repeat' (first
    | with_reducible assumption
    | with_reducible exact onlyChanges_refl _ _
    | with_reducible refine Block.modOnyx_frame (by decide) ?_
    | (with_reducible refine onlyChanges_foldl ?_ ?_; intro x y hx)
    | (extract_lets +onlyGivenNames x; refine imp_app (p := onlyChanges _ _ x) ?_ (fun hx => ?_); rotate_left; clear_value x; rotate_right)
    | extract_lets +onlyGivenNames x
    | split
    | dsimp only
    | subst x
    | (intro x))

theorem cipherFree_frame {m : Nat} {a : Nat} {a0 b : Block} {ps : List Piece} (hp : [.onyx] ⊆ ps)
    (h0 : onlyChanges ps a0 b) : onlyChanges ps a0 (cipherFree m a b) := by
  refine onlyChanges_step ?_ hp h0
  unfold cipherFree
  repeat' (first
    | with_reducible assumption
    | with_reducible exact onlyChanges_refl _ _
    | with_reducible refine Block.modOnyx_frame (by decide) ?_
    | (with_reducible refine onlyChanges_foldl ?_ ?_; intro x y hx)
    | (extract_lets +onlyGivenNames x; refine imp_app (p := onlyChanges _ _ x) ?_ (fun hx => ?_); rotate_left; clear_value x; rotate_right)
    | extract_lets +onlyGivenNames x
    | split
    | dsimp only
    | subst x
    | (intro x))

theorem withdrawIf_frame {mine : EncRequest → Bool} {a0 b : Block} {ps : List Piece} (hp : [.onyx, .ch, .trace] ⊆ ps)
    (h0 : onlyChanges ps a0 b) : onlyChanges ps a0 (withdrawIf mine b) := by
  refine onlyChanges_step ?_ hp h0
  unfold withdrawIf
  repeat' (first
    | with_reducible assumption
    | with_reducible exact onlyChanges_refl _ _
    | with_reducible refine cipherFree_frame (by decide) ?_
    | with_reducible refine Block.modCh_frame (by decide) ?_
    | (with_reducible refine onlyChanges_foldl ?_ ?_; intro x y hx)
    | (extract_lets +onlyGivenNames x; refine imp_app (p := onlyChanges _ _ x) ?_ (fun hx => ?_); rotate_left; clear_value x; rotate_right)
    | extract_lets +onlyGivenNames x
    | split
    | dsimp only
    | subst x
    | (intro x))

theorem cipherClear_frame {m : Nat} {a0 b : Block} {ps : List Piece} (hp : [.onyx, .ch, .trace] ⊆ ps)
    (h0 : onlyChanges ps a0 b) : onlyChanges ps a0 (cipherClear m b) := by
  refine onlyChanges_step ?_ hp h0
  unfold cipherClear
  repeat' (first
    | with_reducible assumption
    | with_reducible exact onlyChanges_refl _ _
    | with_reducible refine withdrawIf_frame (by decide) ?_
    | with_reducible refine Block.modOnyx_frame (by decide) ?_
    | (with_reducible refine onlyChanges_foldl ?_ ?_; intro x y hx)
    | (extract_lets +onlyGivenNames x; refine imp_app (p := onlyChanges _ _ x) ?_ (fun hx => ?_); rotate_left; clear_value x; rotate_right)
    | extract_lets +onlyGivenNames x
    | split
    | dsimp only
    | subst x
    | (intro x))

theorem withdraw_frame {frame : Nat} {index : Nat} {a0 b : Block} {ps : List Piece} (hp : [.onyx, .ch, .trace] ⊆ ps)
    (h0 : onlyChanges ps a0 b) : onlyChanges ps a0 (withdraw frame index b) := by
  refine onlyChanges_step ?_ hp h0
  unfold withdraw
  repeat' (first
    | with_reducible assumption
    | with_reducible exact onlyChanges_refl _ _
    | with_reducible refine withdrawIf_frame (by decide) ?_
    | (with_reducible refine onlyChanges_foldl ?_ ?_; intro x y hx)
    | (extract_lets +onlyGivenNames x; refine imp_app (p := onlyChanges _ _ x) ?_ (fun hx => ?_); rotate_left; clear_value x; rotate_right)
    | extract_lets +onlyGivenNames x
    | split
    | dsimp only
    | subst x
    | (intro x))

theorem dropSegment_frame {g : OnyxSeg} {a0 b : Block} {ps : List Piece} (hp : [.jade, .onyx, .ch, .trace] ⊆ ps)
    (h0 : onlyChanges ps a0 b) : onlyChanges ps a0 (dropSegment g b) := by
  refine onlyChanges_step ?_ hp h0
  unfold dropSegment
  repeat' (first
    | with_reducible assumption
    | with_reducible exact onlyChanges_refl _ _
    | with_reducible refine withdraw_frame (by decide) ?_
    | with_reducible refine withdrawReservation_frame (by decide) ?_
    | with_reducible refine Block.modCh_frame (by decide) ?_
    | with_reducible refine Block.modOnyx_frame (by decide) ?_
    | (with_reducible refine onlyChanges_foldl ?_ ?_; intro x y hx)
    | (extract_lets +onlyGivenNames x; refine imp_app (p := onlyChanges _ _ x) ?_ (fun hx => ?_); rotate_left; clear_value x; rotate_right)
    | extract_lets +onlyGivenNames x
    | split
    | dsimp only
    | subst x
    | (intro x))

theorem strikeEntries_frame {g : OnyxSeg} {a0 b : Block} {ps : List Piece} (hp : [.onyx] ⊆ ps)
    (h0 : onlyChanges ps a0 b) : onlyChanges ps a0 (strikeEntries g b) := by
  refine onlyChanges_step ?_ hp h0
  unfold strikeEntries
  repeat' (first
    | with_reducible assumption
    | with_reducible exact onlyChanges_refl _ _
    | with_reducible refine portMod_frame (by decide) ?_
    | (with_reducible refine onlyChanges_foldl ?_ ?_; intro x y hx)
    | (extract_lets +onlyGivenNames x; refine imp_app (p := onlyChanges _ _ x) ?_ (fun hx => ?_); rotate_left; clear_value x; rotate_right)
    | extract_lets +onlyGivenNames x
    | split
    | dsimp only
    | subst x
    | (intro x))

theorem giveOutcome_frame {g : OnyxSeg} {o : DestOutcome} {a0 b : Block} {ps : List Piece} (hp : [.jade, .onyx, .evr, .ch, .trace] ⊆ ps)
    (h0 : onlyChanges ps a0 b) : onlyChanges ps a0 (giveOutcome g o b) := by
  refine onlyChanges_step ?_ hp h0
  unfold giveOutcome
  repeat' (first
    | with_reducible assumption
    | with_reducible exact onlyChanges_refl _ _
    | with_reducible refine strikeEntries_frame (by decide) ?_
    | with_reducible refine dropSegment_frame (by decide) ?_
    | with_reducible refine mergeDigest_frame (by decide) ?_
    | with_reducible refine Block.modCh_frame (by decide) ?_
    | with_reducible refine Block.modOnyx_frame (by decide) ?_
    | (with_reducible refine onlyChanges_foldl ?_ ?_; intro x y hx)
    | (extract_lets +onlyGivenNames x; refine imp_app (p := onlyChanges _ _ x) ?_ (fun hx => ?_); rotate_left; clear_value x; rotate_right)
    | extract_lets +onlyGivenNames x
    | split
    | dsimp only
    | subst x
    | (intro x))

theorem failShare_frame {g : OnyxSeg} {m : BitVec 16} {a0 b : Block} {ps : List Piece} (hp : [.jade, .onyx, .evr, .ch, .trace] ⊆ ps)
    (h0 : onlyChanges ps a0 b) : onlyChanges ps a0 (failShare g m b) := by
  refine onlyChanges_step ?_ hp h0
  unfold failShare
  repeat' (first
    | with_reducible assumption
    | with_reducible exact onlyChanges_refl _ _
    | with_reducible refine giveOutcome_frame (by decide) ?_
    | (with_reducible refine onlyChanges_foldl ?_ ?_; intro x y hx)
    | (extract_lets +onlyGivenNames x; refine imp_app (p := onlyChanges _ _ x) ?_ (fun hx => ?_); rotate_left; clear_value x; rotate_right)
    | extract_lets +onlyGivenNames x
    | split
    | dsimp only
    | subst x
    | (intro x))

theorem forgetSegment_frame {k : Nat × Nat} {a0 b : Block} {ps : List Piece} (hp : [.jade, .onyx, .ch, .trace] ⊆ ps)
    (h0 : onlyChanges ps a0 b) : onlyChanges ps a0 (forgetSegment b k) := by
  refine onlyChanges_step ?_ hp h0
  unfold forgetSegment
  repeat' (first
    | with_reducible assumption
    | with_reducible exact onlyChanges_refl _ _
    | with_reducible refine strikeEntries_frame (by decide) ?_
    | with_reducible refine dropSegment_frame (by decide) ?_
    | (with_reducible refine onlyChanges_foldl ?_ ?_; intro x y hx)
    | (extract_lets +onlyGivenNames x; refine imp_app (p := onlyChanges _ _ x) ?_ (fun hx => ?_); rotate_left; clear_value x; rotate_right)
    | extract_lets +onlyGivenNames x
    | split
    | dsimp only
    | subst x
    | (intro x))

theorem takeDecided_frame {a0 b : Block} {ps : List Piece} (hp : [.jade, .onyx, .ch, .trace] ⊆ ps)
    (h0 : onlyChanges ps a0 b) : onlyChanges ps a0 (takeDecided b) := by
  refine onlyChanges_step ?_ hp h0
  unfold takeDecided
  repeat' (first
    | with_reducible assumption
    | with_reducible exact onlyChanges_refl _ _
    | with_reducible refine forgetSegment_frame (by decide) ?_
    | with_reducible refine Block.modCh_frame (by decide) ?_
    | (with_reducible refine onlyChanges_foldl ?_ ?_; intro x y hx)
    | (extract_lets +onlyGivenNames x; refine imp_app (p := onlyChanges _ _ x) ?_ (fun hx => ?_); rotate_left; clear_value x; rotate_right)
    | extract_lets +onlyGivenNames x
    | split
    | dsimp only
    | subst x
    | (intro x))

theorem settleOnce_frame {l : List OnyxSeg} {held : List Nat} {a0 b : Block} {ps : List Piece} (hp : [.jade, .onyx, .evr, .ch, .trace] ⊆ ps)
    (h : onlyChanges ps a0 b) : onlyChanges ps a0 (settleOnce l held b) := by
  refine onlyChanges_step ?_ hp h
  clear h hp
  induction l generalizing b held with
  | nil => exact onlyChanges_refl _ _
  | cons y l ih =>
    unfold settleOnce
    repeat' (first
      | with_reducible assumption
      | with_reducible exact onlyChanges_refl _ _
      | with_reducible refine onlyChanges_trans ?_ ih
      | with_reducible refine giveOutcome_frame (by decide) ?_
      | with_reducible refine portMod_frame (by decide) ?_
      | (with_reducible refine onlyChanges_foldl ?_ ?_; intro x y hx)
      | (extract_lets +onlyGivenNames x; refine imp_app (p := onlyChanges _ _ x) ?_ (fun hx => ?_); rotate_left; clear_value x; rotate_right)
      | extract_lets +onlyGivenNames x
      | split
      | dsimp only
      | subst x
      | (intro x))

theorem settleSegs_frame {a0 b : Block} {ps : List Piece} (hp : [.jade, .onyx, .evr, .ch, .trace] ⊆ ps)
    (h0 : onlyChanges ps a0 b) : onlyChanges ps a0 (settleSegs b) := by
  refine onlyChanges_step ?_ hp h0
  unfold settleSegs
  repeat' (first
    | with_reducible assumption
    | with_reducible exact onlyChanges_refl _ _
    | with_reducible refine settleOnce_frame (by decide) ?_
    | (with_reducible refine onlyChanges_foldl ?_ ?_; intro x y hx)
    | (extract_lets +onlyGivenNames x; refine imp_app (p := onlyChanges _ _ x) ?_ (fun hx => ?_); rotate_left; clear_value x; rotate_right)
    | extract_lets +onlyGivenNames x
    | split
    | dsimp only
    | subst x
    | (intro x))

theorem logShare_frame {m : Nat} {g : OnyxSeg} {p : Part} {lba : Nat} {a0 b : Block} {ps : List Piece} (hp : [.evr, .trace] ⊆ ps)
    (h0 : onlyChanges ps a0 b) : onlyChanges ps a0 (logShare m g p lba b) := by
  refine onlyChanges_step ?_ hp h0
  unfold logShare
  repeat' (first
    | with_reducible assumption
    | with_reducible exact onlyChanges_refl _ _
    | with_reducible refine Block.logEvr_frame (by decide) ?_
    | (with_reducible refine onlyChanges_foldl ?_ ?_; intro x y hx)
    | (extract_lets +onlyGivenNames x; refine imp_app (p := onlyChanges _ _ x) ?_ (fun hx => ?_); rotate_left; clear_value x; rotate_right)
    | extract_lets +onlyGivenNames x
    | split
    | dsimp only
    | subst x
    | (intro x))

theorem beginShare_frame {m : Nat} {g : OnyxSeg} {p : Part} {a0 b : Block} {ps : List Piece} (hp : [.opal, .posts, .onyx, .evr, .ch, .trace] ⊆ ps)
    (h0 : onlyChanges ps a0 b) : onlyChanges ps a0 (beginShare m g p b) := by
  refine onlyChanges_step ?_ hp h0
  unfold beginShare
  repeat' (first
    | with_reducible assumption
    | with_reducible exact onlyChanges_refl _ _
    | with_reducible refine logShare_frame (by decide) ?_
    | with_reducible refine partMod_frame (by decide) ?_
    | with_reducible refine mediaMod_frame (by decide) ?_
    | with_reducible refine tellOpal_frame (by decide) ?_
    | (with_reducible refine onlyChanges_foldl ?_ ?_; intro x y hx)
    | (extract_lets +onlyGivenNames x; refine imp_app (p := onlyChanges _ _ x) ?_ (fun hx => ?_); rotate_left; clear_value x; rotate_right)
    | extract_lets +onlyGivenNames x
    | split
    | dsimp only
    | subst x
    | (intro x))

theorem askCipher_frame {r : EncRequest} {a0 b : Block} {ps : List Piece} (hp : [.onyx, .ch, .trace] ⊆ ps)
    (h0 : onlyChanges ps a0 b) : onlyChanges ps a0 (askCipher r b) := by
  refine onlyChanges_step ?_ hp h0
  unfold askCipher
  repeat' (first
    | with_reducible assumption
    | with_reducible exact onlyChanges_refl _ _
    | with_reducible refine cipherTake_frame (by decide) ?_
    | with_reducible refine Block.modCh_frame (by decide) ?_
    | (with_reducible refine onlyChanges_foldl ?_ ?_; intro x y hx)
    | (extract_lets +onlyGivenNames x; refine imp_app (p := onlyChanges _ _ x) ?_ (fun hx => ?_); rotate_left; clear_value x; rotate_right)
    | extract_lets +onlyGivenNames x
    | split
    | dsimp only
    | subst x
    | (intro x))

theorem issuePart_frame {m : Nat} {g : OnyxSeg} {member : Nat} {addr : Nat} {len : Nat} {lba : Nat} {a0 b : Block} {ps : List Piece} (hp : [.onyx, .ch, .trace, .out] ⊆ ps)
    (h0 : onlyChanges ps a0 b) : onlyChanges ps a0 (issuePart m g member addr len lba b) := by
  refine onlyChanges_step ?_ hp h0
  unfold issuePart
  repeat' (first
    | with_reducible assumption
    | with_reducible exact onlyChanges_refl _ _
    | with_reducible refine askCipher_frame (by decide) ?_
    | with_reducible refine issueCmd_frame (by decide) ?_
    | (with_reducible refine onlyChanges_foldl ?_ ?_; intro x y hx)
    | (extract_lets +onlyGivenNames x; refine imp_app (p := onlyChanges _ _ x) ?_ (fun hx => ?_); rotate_left; clear_value x; rotate_right)
    | extract_lets +onlyGivenNames x
    | split
    | dsimp only
    | subst x
    | (intro x))

theorem issueWrite_frame {m : Nat} {g : OnyxSeg} {p : Part} {a0 b : Block} {ps : List Piece} (hp : [.onyx, .ch, .trace, .out] ⊆ ps)
    (h0 : onlyChanges ps a0 b) : onlyChanges ps a0 (issueWrite m g p b) := by
  refine onlyChanges_step ?_ hp h0
  unfold issueWrite
  repeat' (first
    | with_reducible assumption
    | with_reducible exact onlyChanges_refl _ _
    | with_reducible refine issuePart_frame (by decide) ?_
    | with_reducible refine partMod_frame (by decide) ?_
    | (with_reducible refine onlyChanges_foldl ?_ ?_; intro x y hx)
    | (extract_lets +onlyGivenNames x; refine imp_app (p := onlyChanges _ _ x) ?_ (fun hx => ?_); rotate_left; clear_value x; rotate_right)
    | extract_lets +onlyGivenNames x
    | split
    | dsimp only
    | subst x
    | (intro x))

theorem issueShares_frame {m k : Nat} {a0 b : Block} {ps : List Piece} (hp : [.jade, .opal, .posts, .onyx, .evr, .ch, .trace, .out] ⊆ ps)
    (h : onlyChanges ps a0 b) : onlyChanges ps a0 (issueShares m k b) := by
  refine onlyChanges_step ?_ hp h
  clear h hp
  induction k generalizing b with
  | zero => exact onlyChanges_refl _ _
  | succ k ih =>
    unfold issueShares
    repeat' (first
      | with_reducible assumption
      | with_reducible exact onlyChanges_refl _ _
      | with_reducible refine onlyChanges_trans ?_ ih
      | with_reducible refine issueWrite_frame (by decide) ?_
      | with_reducible refine beginShare_frame (by decide) ?_
      | with_reducible refine giveOutcome_frame (by decide) ?_
      | (with_reducible refine onlyChanges_foldl ?_ ?_; intro x y hx)
      | (extract_lets +onlyGivenNames x; refine imp_app (p := onlyChanges _ _ x) ?_ (fun hx => ?_); rotate_left; clear_value x; rotate_right)
      | extract_lets +onlyGivenNames x
      | split
      | dsimp only
      | subst x
      | (intro x))

theorem startCommit_frame {m : Nat} {run : List (OnyxSeg × Part)} {a0 b : Block} {ps : List Piece} (hp : [.onyx] ⊆ ps)
    (h0 : onlyChanges ps a0 b) : onlyChanges ps a0 (startCommit m run b) := by
  refine onlyChanges_step ?_ hp h0
  unfold startCommit
  repeat' (first
    | with_reducible assumption
    | with_reducible exact onlyChanges_refl _ _
    | with_reducible refine partMod_frame (by decide) ?_
    | with_reducible refine portMod_frame (by decide) ?_
    | (with_reducible refine onlyChanges_foldl ?_ ?_; intro x y hx)
    | (extract_lets +onlyGivenNames x; refine imp_app (p := onlyChanges _ _ x) ?_ (fun hx => ?_); rotate_left; clear_value x; rotate_right)
    | extract_lets +onlyGivenNames x
    | split
    | dsimp only
    | subst x
    | (intro x))

theorem writeCommit_frame {m : Nat} {keys : List (Nat × Nat)} {a0 b : Block} {ps : List Piece} (hp : [.onyx] ⊆ ps)
    (h0 : onlyChanges ps a0 b) : onlyChanges ps a0 (writeCommit m keys b) := by
  refine onlyChanges_step ?_ hp h0
  unfold writeCommit
  repeat' (first
    | with_reducible assumption
    | with_reducible exact onlyChanges_refl _ _
    | with_reducible refine partMod_frame (by decide) ?_
    | with_reducible refine portMod_frame (by decide) ?_
    | (with_reducible refine onlyChanges_foldl ?_ ?_; intro x y hx)
    | (extract_lets +onlyGivenNames x; refine imp_app (p := onlyChanges _ _ x) ?_ (fun hx => ?_); rotate_left; clear_value x; rotate_right)
    | extract_lets +onlyGivenNames x
    | split
    | dsimp only
    | subst x
    | (intro x))

theorem tellDurable_frame {k : Nat × Nat} {a0 b : Block} {ps : List Piece} (hp : [.opal, .posts, .ch, .trace] ⊆ ps)
    (h0 : onlyChanges ps a0 b) : onlyChanges ps a0 (tellDurable b k) := by
  refine onlyChanges_step ?_ hp h0
  unfold tellDurable
  repeat' (first
    | with_reducible assumption
    | with_reducible exact onlyChanges_refl _ _
    | with_reducible refine tellOpal_frame (by decide) ?_
    | (with_reducible refine onlyChanges_foldl ?_ ?_; intro x y hx)
    | (extract_lets +onlyGivenNames x; refine imp_app (p := onlyChanges _ _ x) ?_ (fun hx => ?_); rotate_left; clear_value x; rotate_right)
    | extract_lets +onlyGivenNames x
    | split
    | dsimp only
    | subst x
    | (intro x))

theorem commitDone_frame {m : Nat} {keys : List (Nat × Nat)} {a0 b : Block} {ps : List Piece} (hp : [.opal, .posts, .onyx, .ch, .trace] ⊆ ps)
    (h0 : onlyChanges ps a0 b) : onlyChanges ps a0 (commitDone m keys b) := by
  refine onlyChanges_step ?_ hp h0
  unfold commitDone
  repeat' (first
    | with_reducible assumption
    | with_reducible exact onlyChanges_refl _ _
    | with_reducible refine tellDurable_frame (by decide) ?_
    | with_reducible refine osegMod_frame (by decide) ?_
    | with_reducible refine portMod_frame (by decide) ?_
    | (with_reducible refine onlyChanges_foldl ?_ ?_; intro x y hx)
    | (extract_lets +onlyGivenNames x; refine imp_app (p := onlyChanges _ _ x) ?_ (fun hx => ?_); rotate_left; clear_value x; rotate_right)
    | extract_lets +onlyGivenNames x
    | split
    | dsimp only
    | subst x
    | (intro x))

theorem startClip_frame {m : Nat} {c : PortClip} {cs : List PortClip} {g : OnyxSeg} {a0 b : Block} {ps : List Piece} (hp : [.quartz, .posts, .onyx, .evr, .trace, .out] ⊆ ps)
    (h0 : onlyChanges ps a0 b) : onlyChanges ps a0 (startClip m c cs g b) := by
  refine onlyChanges_step ?_ hp h0
  unfold startClip
  repeat' (first
    | with_reducible assumption
    | with_reducible exact onlyChanges_refl _ _
    | with_reducible refine portMod_frame (by decide) ?_
    | (with_reducible refine onlyChanges_foldl ?_ ?_; intro x y hx)
    | (extract_lets +onlyGivenNames x; refine imp_app (p := onlyChanges _ _ x) ?_ (fun hx => ?_); rotate_left; clear_value x; rotate_right)
    | extract_lets +onlyGivenNames x
    | split
    | dsimp only
    | subst x
    | (intro x))

theorem endClip_frame {m : Nat} {c : PortClip} {cs : List PortClip} {a0 b : Block} {ps : List Piece} (hp : [.quartz, .posts, .onyx, .evr, .trace, .out] ⊆ ps)
    (h0 : onlyChanges ps a0 b) : onlyChanges ps a0 (endClip m c cs b) := by
  refine onlyChanges_step ?_ hp h0
  unfold endClip
  repeat' (first
    | with_reducible assumption
    | with_reducible exact onlyChanges_refl _ _
    | with_reducible refine portMod_frame (by decide) ?_
    | (with_reducible refine onlyChanges_foldl ?_ ?_; intro x y hx)
    | (extract_lets +onlyGivenNames x; refine imp_app (p := onlyChanges _ _ x) ?_ (fun hx => ?_); rotate_left; clear_value x; rotate_right)
    | extract_lets +onlyGivenNames x
    | split
    | dsimp only
    | subst x
    | (intro x))

theorem nextWork_frame {m : Nat} {a0 b : Block} {ps : List Piece} (hp : [.quartz, .posts, .onyx, .evr, .trace, .out] ⊆ ps)
    (h0 : onlyChanges ps a0 b) : onlyChanges ps a0 (nextWork m b) := by
  refine onlyChanges_step ?_ hp h0
  unfold nextWork
  repeat' (first
    | with_reducible assumption
    | with_reducible exact onlyChanges_refl _ _
    | with_reducible refine endClip_frame (by decide) ?_
    | with_reducible refine startClip_frame (by decide) ?_
    | with_reducible refine startCommit_frame (by decide) ?_
    | with_reducible refine portMod_frame (by decide) ?_
    | (with_reducible refine onlyChanges_foldl ?_ ?_; intro x y hx)
    | (extract_lets +onlyGivenNames x; refine imp_app (p := onlyChanges _ _ x) ?_ (fun hx => ?_); rotate_left; clear_value x; rotate_right)
    | extract_lets +onlyGivenNames x
    | split
    | dsimp only
    | subst x
    | (intro x))

theorem doStep_frame {m : Nat} {s : PortStep} {a0 b : Block} {ps : List Piece} (hp : [.jade, .opal, .posts, .onyx, .evr, .ch, .trace, .out] ⊆ ps)
    (h0 : onlyChanges ps a0 b) : onlyChanges ps a0 (doStep m s b) := by
  refine onlyChanges_step ?_ hp h0
  unfold doStep
  repeat' (first
    | with_reducible assumption
    | with_reducible exact onlyChanges_refl _ _
    | with_reducible refine commitDone_frame (by decide) ?_
    | with_reducible refine writeCommit_frame (by decide) ?_
    | with_reducible refine settleSegs_frame (by decide) ?_
    | with_reducible refine portReady_frame (by decide) ?_
    | with_reducible refine issueCmd_frame (by decide) ?_
    | with_reducible refine magEvent_frame (by decide) ?_
    | with_reducible refine portMod_frame (by decide) ?_
    | (with_reducible refine onlyChanges_foldl ?_ ?_; intro x y hx)
    | (extract_lets +onlyGivenNames x; refine imp_app (p := onlyChanges _ _ x) ?_ (fun hx => ?_); rotate_left; clear_value x; rotate_right)
    | extract_lets +onlyGivenNames x
    | split
    | dsimp only
    | subst x
    | (intro x))

theorem pumpPort_frame {m k : Nat} {a0 b : Block} {ps : List Piece} (hp : [.quartz, .jade, .opal, .posts, .onyx, .evr, .ch, .trace, .out] ⊆ ps)
    (h : onlyChanges ps a0 b) : onlyChanges ps a0 (pumpPort m k b) := by
  refine onlyChanges_step ?_ hp h
  clear h hp
  induction k generalizing b with
  | zero => exact onlyChanges_refl _ _
  | succ k ih =>
    unfold pumpPort
    repeat' (first
      | with_reducible assumption
      | with_reducible exact onlyChanges_refl _ _
      | with_reducible refine onlyChanges_trans ?_ ih
      | with_reducible refine doStep_frame (by decide) ?_
      | with_reducible refine nextWork_frame (by decide) ?_
      | with_reducible refine issueCmd_frame (by decide) ?_
      | with_reducible refine portMod_frame (by decide) ?_
      | (with_reducible refine onlyChanges_foldl ?_ ?_; intro x y hx)
      | (extract_lets +onlyGivenNames x; refine imp_app (p := onlyChanges _ _ x) ?_ (fun hx => ?_); rotate_left; clear_value x; rotate_right)
      | extract_lets +onlyGivenNames x
      | split
      | dsimp only
      | subst x
      | (intro x))

theorem postRolled_frame {a0 b : Block} {ps : List Piece} (hp : [.posts, .onyx, .out] ⊆ ps)
    (h0 : onlyChanges ps a0 b) : onlyChanges ps a0 (postRolled b) := by
  refine onlyChanges_step ?_ hp h0
  unfold postRolled
  repeat' (first
    | with_reducible assumption
    | with_reducible exact onlyChanges_refl _ _
    | with_reducible refine magEvent_frame (by decide) ?_
    | with_reducible refine Block.modOnyx_frame (by decide) ?_
    | (with_reducible refine onlyChanges_foldl ?_ ?_; intro x y hx)
    | (extract_lets +onlyGivenNames x; refine imp_app (p := onlyChanges _ _ x) ?_ (fun hx => ?_); rotate_left; clear_value x; rotate_right)
    | extract_lets +onlyGivenNames x
    | split
    | dsimp only
    | subst x
    | (intro x))

theorem postRehomed_frame {m : Nat} {a0 b : Block} {ps : List Piece} (hp : [.posts, .onyx, .out] ⊆ ps)
    (h0 : onlyChanges ps a0 b) : onlyChanges ps a0 (postRehomed m b) := by
  refine onlyChanges_step ?_ hp h0
  unfold postRehomed
  repeat' (first
    | with_reducible assumption
    | with_reducible exact onlyChanges_refl _ _
    | with_reducible refine magEvent_frame (by decide) ?_
    | with_reducible refine portMod_frame (by decide) ?_
    | (with_reducible refine onlyChanges_foldl ?_ ?_; intro x y hx)
    | (extract_lets +onlyGivenNames x; refine imp_app (p := onlyChanges _ _ x) ?_ (fun hx => ?_); rotate_left; clear_value x; rotate_right)
    | extract_lets +onlyGivenNames x
    | split
    | dsimp only
    | subst x
    | (intro x))

theorem closeTakes_frame {a0 b : Block} {ps : List Piece} (hp : [.opal, .posts, .onyx, .ch, .trace, .out] ⊆ ps)
    (h0 : onlyChanges ps a0 b) : onlyChanges ps a0 (closeTakes b) := by
  refine onlyChanges_step ?_ hp h0
  unfold closeTakes
  repeat' (first
    | with_reducible assumption
    | with_reducible exact onlyChanges_refl _ _
    | with_reducible refine takeClosed_frame (by decide) ?_
    | with_reducible refine Block.modCh_frame (by decide) ?_
    | with_reducible refine Block.modOnyx_frame (by decide) ?_
    | (with_reducible refine onlyChanges_foldl ?_ ?_; intro x y hx)
    | (extract_lets +onlyGivenNames x; refine imp_app (p := onlyChanges _ _ x) ?_ (fun hx => ?_); rotate_left; clear_value x; rotate_right)
    | extract_lets +onlyGivenNames x
    | split
    | dsimp only
    | subst x
    | (intro x))

theorem tryReport_frame {timeout : Bool} {a0 b : Block} {ps : List Piece} (hp : [.onyx, .ch, .trace] ⊆ ps)
    (h0 : onlyChanges ps a0 b) : onlyChanges ps a0 (tryReport timeout b) := by
  refine onlyChanges_step ?_ hp h0
  unfold tryReport
  repeat' (first
    | with_reducible assumption
    | with_reducible exact onlyChanges_refl _ _
    | with_reducible refine Block.modCh_frame (by decide) ?_
    | with_reducible refine Block.modOnyx_frame (by decide) ?_
    | (with_reducible refine onlyChanges_foldl ?_ ?_; intro x y hx)
    | (extract_lets +onlyGivenNames x; refine imp_app (p := onlyChanges _ _ x) ?_ (fun hx => ?_); rotate_left; clear_value x; rotate_right)
    | extract_lets +onlyGivenNames x
    | split
    | dsimp only
    | subst x
    | (intro x))

theorem checkSlow_frame {m : Nat} {a0 b : Block} {ps : List Piece} (hp : [.posts, .onyx, .out] ⊆ ps)
    (h0 : onlyChanges ps a0 b) : onlyChanges ps a0 (checkSlow m b) := by
  refine onlyChanges_step ?_ hp h0
  unfold checkSlow
  repeat' (first
    | with_reducible assumption
    | with_reducible exact onlyChanges_refl _ _
    | with_reducible refine magEvent_frame (by decide) ?_
    | with_reducible refine portMod_frame (by decide) ?_
    | (with_reducible refine onlyChanges_foldl ?_ ?_; intro x y hx)
    | (extract_lets +onlyGivenNames x; refine imp_app (p := onlyChanges _ _ x) ?_ (fun hx => ?_); rotate_left; clear_value x; rotate_right)
    | extract_lets +onlyGivenNames x
    | split
    | dsimp only
    | subst x
    | (intro x))

theorem serveOnyx_frame {a0 b : Block} {ps : List Piece} (hp : [.quartz, .jade, .opal, .posts, .onyx, .evr, .ch, .trace, .out] ⊆ ps)
    (h0 : onlyChanges ps a0 b) : onlyChanges ps a0 (serveOnyx b) := by
  refine onlyChanges_step ?_ hp h0
  unfold serveOnyx
  repeat' (first
    | with_reducible assumption
    | with_reducible exact onlyChanges_refl _ _
    | with_reducible refine checkSlow_frame (by decide) ?_
    | with_reducible refine tryReport_frame (by decide) ?_
    | with_reducible refine closeTakes_frame (by decide) ?_
    | with_reducible refine postRehomed_frame (by decide) ?_
    | with_reducible refine postRolled_frame (by decide) ?_
    | with_reducible refine pumpPort_frame (by decide) ?_
    | with_reducible refine issueShares_frame (by decide) ?_
    | with_reducible refine settleSegs_frame (by decide) ?_
    | with_reducible refine takeDecided_frame (by decide) ?_
    | (with_reducible refine onlyChanges_foldl ?_ ?_; intro x y hx)
    | (extract_lets +onlyGivenNames x; refine imp_app (p := onlyChanges _ _ x) ?_ (fun hx => ?_); rotate_left; clear_value x; rotate_right)
    | extract_lets +onlyGivenNames x
    | split
    | dsimp only
    | subst x
    | (intro x))

theorem setStates_frame {a0 b : Block} {ps : List Piece} (hp : [.onyx] ⊆ ps)
    (h0 : onlyChanges ps a0 b) : onlyChanges ps a0 (setStates b) := by
  refine onlyChanges_step ?_ hp h0
  unfold setStates
  repeat' (first
    | with_reducible assumption
    | with_reducible exact onlyChanges_refl _ _
    | with_reducible refine portMod_frame (by decide) ?_
    | (with_reducible refine onlyChanges_foldl ?_ ?_; intro x y hx)
    | (extract_lets +onlyGivenNames x; refine imp_app (p := onlyChanges _ _ x) ?_ (fun hx => ?_); rotate_left; clear_value x; rotate_right)
    | extract_lets +onlyGivenNames x
    | split
    | dsimp only
    | subst x
    | (intro x))

theorem magSet_frame {desc : Nat} {a0 b : Block} {ps : List Piece} (hp : [.posts, .onyx, .evr, .trace, .out] ⊆ ps)
    (h0 : onlyChanges ps a0 b) : onlyChanges ps a0 (magSet desc b) := by
  refine onlyChanges_step ?_ hp h0
  unfold magSet
  repeat' (first
    | with_reducible assumption
    | with_reducible exact onlyChanges_refl _ _
    | with_reducible refine finishCtrl_frame (by decide) ?_
    | with_reducible refine Block.modOnyx_frame (by decide) ?_
    | (with_reducible refine onlyChanges_foldl ?_ ?_; intro x y hx)
    | (extract_lets +onlyGivenNames x; refine imp_app (p := onlyChanges _ _ x) ?_ (fun hx => ?_); rotate_left; clear_value x; rotate_right)
    | extract_lets +onlyGivenNames x
    | split
    | dsimp only
    | subst x
    | (intro x))

theorem dropHeld_frame {o : DestOutcome} {frame : Nat} {a0 b : Block} {ps : List Piece} (hp : [.jade, .onyx, .evr, .ch, .trace] ⊆ ps)
    (h0 : onlyChanges ps a0 b) : onlyChanges ps a0 (dropHeld o b frame) := by
  refine onlyChanges_step ?_ hp h0
  unfold dropHeld
  repeat' (first
    | with_reducible assumption
    | with_reducible exact onlyChanges_refl _ _
    | with_reducible refine giveOutcome_frame (by decide) ?_
    | (with_reducible refine onlyChanges_foldl ?_ ?_; intro x y hx)
    | (extract_lets +onlyGivenNames x; refine imp_app (p := onlyChanges _ _ x) ?_ (fun hx => ?_); rotate_left; clear_value x; rotate_right)
    | extract_lets +onlyGivenNames x
    | split
    | dsimp only
    | subst x
    | (intro x))

theorem discardAnte_frame {a0 b : Block} {ps : List Piece} (hp : [.jade, .onyx, .evr, .ch, .trace] ⊆ ps)
    (h0 : onlyChanges ps a0 b) : onlyChanges ps a0 (discardAnte b) := by
  refine onlyChanges_step ?_ hp h0
  unfold discardAnte
  repeat' (first
    | with_reducible assumption
    | with_reducible exact onlyChanges_refl _ _
    | with_reducible refine dropHeld_frame (by decide) ?_
    | (with_reducible refine onlyChanges_foldl ?_ ?_; intro x y hx)
    | (extract_lets +onlyGivenNames x; refine imp_app (p := onlyChanges _ _ x) ?_ (fun hx => ?_); rotate_left; clear_value x; rotate_right)
    | extract_lets +onlyGivenNames x
    | split
    | dsimp only
    | subst x
    | (intro x))

theorem tellJade_frame {frame : Nat} {index : Nat} {a : Option Nat} {a0 b : Block} {ps : List Piece} (hp : [.ch, .trace] ⊆ ps)
    (h0 : onlyChanges ps a0 b) : onlyChanges ps a0 (tellJade frame index a b) := by
  refine onlyChanges_step ?_ hp h0
  unfold tellJade
  repeat' (first
    | with_reducible assumption
    | with_reducible exact onlyChanges_refl _ _
    | with_reducible refine Block.modCh_frame (by decide) ?_
    | (with_reducible refine onlyChanges_foldl ?_ ?_; intro x y hx)
    | (extract_lets +onlyGivenNames x; refine imp_app (p := onlyChanges _ _ x) ?_ (fun hx => ?_); rotate_left; clear_value x; rotate_right)
    | extract_lets +onlyGivenNames x
    | split
    | dsimp only
    | subst x
    | (intro x))

theorem refuseDest_frame {frame : Nat} {d : Dest} {o : DestOutcome} {a0 b : Block} {ps : List Piece} (hp : [.ch, .trace] ⊆ ps)
    (h0 : onlyChanges ps a0 b) : onlyChanges ps a0 (refuseDest frame d o b) := by
  refine onlyChanges_step ?_ hp h0
  unfold refuseDest
  repeat' (first
    | with_reducible assumption
    | with_reducible exact onlyChanges_refl _ _
    | with_reducible refine tellJade_frame (by decide) ?_
    | with_reducible refine Block.modCh_frame (by decide) ?_
    | (with_reducible refine onlyChanges_foldl ?_ ?_; intro x y hx)
    | (extract_lets +onlyGivenNames x; refine imp_app (p := onlyChanges _ _ x) ?_ (fun hx => ?_); rotate_left; clear_value x; rotate_right)
    | extract_lets +onlyGivenNames x
    | split
    | dsimp only
    | subst x
    | (intro x))

theorem releaseCopies_frame {need : Nat} {l : List OnyxSeg} {a0 b : Block} {ps : List Piece} (hp : [.onyx] ⊆ ps)
    (h : onlyChanges ps a0 b) : onlyChanges ps a0 (releaseCopies need l b) := by
  refine onlyChanges_step ?_ hp h
  clear h hp
  induction l generalizing b with
  | nil => exact onlyChanges_refl _ _
  | cons y l ih =>
    unfold releaseCopies
    repeat' (first
      | with_reducible assumption
      | with_reducible exact onlyChanges_refl _ _
      | with_reducible refine onlyChanges_trans ?_ ih
      | with_reducible refine osegMod_frame (by decide) ?_
      | (with_reducible refine onlyChanges_foldl ?_ ?_; intro x y hx)
      | (extract_lets +onlyGivenNames x; refine imp_app (p := onlyChanges _ _ x) ?_ (fun hx => ?_); rotate_left; clear_value x; rotate_right)
      | extract_lets +onlyGivenNames x
      | split
      | dsimp only
      | subst x
      | (intro x))

theorem guardRetention_frame {taken : Nat} {a0 b : Block} {ps : List Piece} (hp : [.onyx, .ch, .trace] ⊆ ps)
    (h0 : onlyChanges ps a0 b) : onlyChanges ps a0 (guardRetention taken b) := by
  refine onlyChanges_step ?_ hp h0
  unfold guardRetention
  repeat' (first
    | with_reducible assumption
    | with_reducible exact onlyChanges_refl _ _
    | with_reducible refine releaseCopies_frame (by decide) ?_
    | with_reducible refine makeStop_frame (by decide) ?_
    | (with_reducible refine onlyChanges_foldl ?_ ?_; intro x y hx)
    | (extract_lets +onlyGivenNames x; refine imp_app (p := onlyChanges _ _ x) ?_ (fun hx => ?_); rotate_left; clear_value x; rotate_right)
    | extract_lets +onlyGivenNames x
    | split
    | dsimp only
    | subst x
    | (intro x))

theorem planClip_frame {m member : Nat} {mode : SetMode} {rehome : Bool} {prev : Option (List Byte)} {t : OnyxTake} {a0 b : Block} {ps : List Piece} (hp : [.quartz, .posts, .onyx, .evr, .trace, .out] ⊆ ps)
    (h : onlyChanges ps a0 b) : onlyChanges ps a0 (planClip m member mode rehome prev t b).1 := by
  refine onlyChanges_step ?_ hp h
  unfold planClip
  repeat' (first
    | with_reducible assumption
    | with_reducible exact onlyChanges_refl _ _
    | with_reducible refine takeMod_frame (by decide) ?_
    | with_reducible refine mediaMod_frame (by decide) ?_
    | with_reducible refine portMod_frame (by decide) ?_
    | with_reducible refine cadence_frame (by decide) ?_
    | (with_reducible refine onlyChanges_foldl ?_ ?_; intro x y hx)
    | (extract_lets +onlyGivenNames x; refine imp_app (p := onlyChanges _ _ x) ?_ (fun hx => ?_); rotate_left; clear_value x; rotate_right)
    | extract_lets +onlyGivenNames x
    | split
    | dsimp only
    | subst x
    | (intro x))

theorem planClip_pair {m member : Nat} {mode : SetMode} {rehome : Bool} {prev : Option (List Byte)} {t : OnyxTake} {a0 b b1 : Block} {x} {ps : List Piece} (he : planClip m member mode rehome prev t b = (b1, x)) (hp : [.quartz, .posts, .onyx, .evr, .trace, .out] ⊆ ps)
    (h : onlyChanges ps a0 b) : onlyChanges ps a0 b1 := by
  have k := planClip_frame (m := m) (member := member) (mode := mode) (rehome := rehome) (prev := prev) (t := t) hp h
  rw [he] at k
  exact k

theorem closeClips_frame {m : Nat} {no : Nat} {reason : Nat} {f : ClipRec → ClipRec} {a0 b : Block} {ps : List Piece} (hp : [.onyx] ⊆ ps)
    (h0 : onlyChanges ps a0 b) : onlyChanges ps a0 (closeClips m no reason f b) := by
  refine onlyChanges_step ?_ hp h0
  unfold closeClips
  repeat' (first
    | with_reducible assumption
    | with_reducible exact onlyChanges_refl _ _
    | with_reducible refine portMod_frame (by decide) ?_
    | (with_reducible refine onlyChanges_foldl ?_ ?_; intro x y hx)
    | (extract_lets +onlyGivenNames x; refine imp_app (p := onlyChanges _ _ x) ?_ (fun hx => ?_); rotate_left; clear_value x; rotate_right)
    | extract_lets +onlyGivenNames x
    | split
    | dsimp only
    | subst x
    | (intro x))

theorem postFull_frame {m : Nat} {kind : Nat} {t : OnyxTake} {a0 b : Block} {ps : List Piece} (hp : [.posts, .onyx, .out] ⊆ ps)
    (h0 : onlyChanges ps a0 b) : onlyChanges ps a0 (postFull m kind t b) := by
  refine onlyChanges_step ?_ hp h0
  unfold postFull
  repeat' (first
    | with_reducible assumption
    | with_reducible exact onlyChanges_refl _ _
    | with_reducible refine takeMod_frame (by decide) ?_
    | with_reducible refine magEvent_frame (by decide) ?_
    | (with_reducible refine onlyChanges_foldl ?_ ?_; intro x y hx)
    | (extract_lets +onlyGivenNames x; refine imp_app (p := onlyChanges _ _ x) ?_ (fun hx => ?_); rotate_left; clear_value x; rotate_right)
    | extract_lets +onlyGivenNames x
    | split
    | dsimp only
    | subst x
    | (intro x))

theorem planParts_frame {s : MagSet} {t : OnyxTake} {l : List Part} {a0 b : Block} {ps : List Piece} (hp : [.quartz, .posts, .onyx, .evr, .ch, .trace, .out] ⊆ ps)
    (h : onlyChanges ps a0 b) : onlyChanges ps a0 (planParts s t l b).1 := by
  refine onlyChanges_step ?_ hp h
  clear h hp
  induction l generalizing b t with
  | nil => exact onlyChanges_refl _ _
  | cons y l ih =>
    unfold planParts
    extract_lets t2 member
    split
    · next b1 he =>
      have hb : onlyChanges [.quartz, .posts, .onyx, .evr, .ch, .trace, .out] b b1 := planClip_pair he (by decide) (onlyChanges_refl _ _)
      exact makeStop_frame (by decide) (postFull_frame (by decide) hb)
    · next b1 c he =>
      have hb : onlyChanges [.quartz, .posts, .onyx, .evr, .ch, .trace, .out] b b1 := planClip_pair he (by decide) (onlyChanges_refl _ _)
      split
      · next b2 l2 he2 =>
        have k := onlyChanges_trans hb (ih (t := t2) (b := b1)); rw [he2] at k; exact k
      · next b2 he2 =>
        have k := onlyChanges_trans hb (ih (t := t2) (b := b1)); rw [he2] at k; exact k

theorem planParts_pair {s : MagSet} {t : OnyxTake} {l : List Part} {a0 b b1 : Block} {x} {ps : List Piece}
    (he : planParts s t l b = (b1, x)) (hp : [.quartz, .posts, .onyx, .evr, .ch, .trace, .out] ⊆ ps) (h : onlyChanges ps a0 b) : onlyChanges ps a0 b1 := by
  have k := planParts_frame (s := s) (t := t) (l := l) hp h
  rw [he] at k
  exact k

theorem joinTake_frame {t : OnyxTake} {s : MagSet} {g : OnyxSeg} {a0 b : Block} {ps : List Piece} (hp : [.quartz, .jade, .opal, .posts, .onyx, .evr, .ch, .trace, .out] ⊆ ps)
    (h0 : onlyChanges ps a0 b) : onlyChanges ps a0 (joinTake t s g b) := by
  refine onlyChanges_step ?_ hp h0
  unfold joinTake
  repeat' (first
    | with_reducible assumption
    | with_reducible exact onlyChanges_refl _ _
    | with_reducible refine planParts_frame (by decide) ?_
    | with_reducible refine planParts_pair (by assumption) (by decide) ?_
    | with_reducible refine giveOutcome_frame (by decide) ?_
    | with_reducible refine osegMod_frame (by decide) ?_
    | with_reducible refine tellOpal_frame (by decide) ?_
    | (with_reducible refine onlyChanges_foldl ?_ ?_; intro x y hx)
    | (extract_lets +onlyGivenNames x; refine imp_app (p := onlyChanges _ _ x) ?_ (fun hx => ?_); rotate_left; clear_value x; rotate_right)
    | extract_lets +onlyGivenNames x
    | split
    | dsimp only
    | subst x
    | (intro x))

theorem bindInTake_frame {t : OnyxTake} {s : Snapshot} {d : Dest} {a0 b : Block} {ps : List Piece} (hp : [.quartz, .jade, .opal, .posts, .onyx, .evr, .ch, .trace, .out] ⊆ ps)
    (h0 : onlyChanges ps a0 b) : onlyChanges ps a0 (bindInTake t s b d) := by
  refine onlyChanges_step ?_ hp h0
  unfold bindInTake
  repeat' (first
    | with_reducible assumption
    | with_reducible exact onlyChanges_refl _ _
    | with_reducible refine joinTake_frame (by decide) ?_
    | with_reducible refine refuseDest_frame (by decide) ?_
    | with_reducible refine tellJade_frame (by decide) ?_
    | with_reducible refine makeStop_frame (by decide) ?_
    | with_reducible refine Block.modOnyx_frame (by decide) ?_
    | (with_reducible refine onlyChanges_foldl ?_ ?_; intro x y hx)
    | (extract_lets +onlyGivenNames x; refine imp_app (p := onlyChanges _ _ x) ?_ (fun hx => ?_); rotate_left; clear_value x; rotate_right)
    | extract_lets +onlyGivenNames x
    | split
    | dsimp only
    | subst x
    | (intro x))

theorem rollOver_frame {t : OnyxTake} {s : MagSet} {old : Nat} {target : Nat} {a0 b : Block} {ps : List Piece} (hp : [.quartz, .posts, .onyx, .evr, .trace, .out, .fresh] ⊆ ps)
    (h0 : onlyChanges ps a0 b) : onlyChanges ps a0 (rollOver t s old target b) := by
  refine onlyChanges_step ?_ hp h0
  unfold rollOver
  repeat' (first
    | with_reducible assumption
    | with_reducible exact onlyChanges_refl _ _
    | with_reducible refine closeClips_frame (by decide) ?_
    | with_reducible refine planClip_frame (by decide) ?_
    | with_reducible refine planClip_pair (by assumption) (by decide) ?_
    | with_reducible refine setStates_frame (by decide) ?_
    | with_reducible refine takeMod_frame (by decide) ?_
    | with_reducible refine Block.modOnyx_frame (by decide) ?_
    | (with_reducible refine onlyChanges_foldl ?_ ?_; intro x y hx)
    | (extract_lets +onlyGivenNames x; refine imp_app (p := onlyChanges _ _ x) ?_ (fun hx => ?_); rotate_left; clear_value x; rotate_right)
    | extract_lets +onlyGivenNames x
    | split
    | dsimp only
    | with_reducible refine upd_fresh_frame (by decide) ?_
    | subst x
    | (intro x))

theorem checkFull_frame {t : OnyxTake} {lens : List Nat} {a0 b : Block} {ps : List Piece} (hp : [.quartz, .posts, .onyx, .evr, .ch, .trace, .out, .fresh] ⊆ ps)
    (h0 : onlyChanges ps a0 b) : onlyChanges ps a0 (checkFull t lens b) := by
  refine onlyChanges_step ?_ hp h0
  unfold checkFull
  repeat' (first
    | with_reducible assumption
    | with_reducible exact onlyChanges_refl _ _
    | with_reducible refine rollOver_frame (by decide) ?_
    | with_reducible refine postFull_frame (by decide) ?_
    | with_reducible refine makeStop_frame (by decide) ?_
    | (with_reducible refine onlyChanges_foldl ?_ ?_; intro x y hx)
    | (extract_lets +onlyGivenNames x; refine imp_app (p := onlyChanges _ _ x) ?_ (fun hx => ?_); rotate_left; clear_value x; rotate_right)
    | extract_lets +onlyGivenNames x
    | split
    | dsimp only
    | subst x
    | (intro x))

theorem applySet_frame {frame : Nat} {a0 b : Block} {ps : List Piece} (hp : [.jade, .posts, .onyx, .evr, .ch, .trace, .out, .fresh] ⊆ ps)
    (h0 : onlyChanges ps a0 b) : onlyChanges ps a0 (applySet frame b) := by
  refine onlyChanges_step ?_ hp h0
  unfold applySet
  repeat' (first
    | with_reducible assumption
    | with_reducible exact onlyChanges_refl _ _
    | with_reducible refine closeClips_frame (by decide) ?_
    | with_reducible refine discardAnte_frame (by decide) ?_
    | with_reducible refine setStates_frame (by decide) ?_
    | with_reducible refine portMod_frame (by decide) ?_
    | with_reducible refine finishCtrl_frame (by decide) ?_
    | with_reducible refine Block.modOnyx_frame (by decide) ?_
    | (with_reducible refine onlyChanges_foldl ?_ ?_; intro x y hx)
    | (extract_lets +onlyGivenNames x; refine imp_app (p := onlyChanges _ _ x) ?_ (fun hx => ?_); rotate_left; clear_value x; rotate_right)
    | extract_lets +onlyGivenNames x
    | split
    | dsimp only
    | with_reducible refine upd_fresh_frame (by decide) ?_
    | subst x
    | (intro x))

theorem endOnyxTake_frame {r : EndReason} {last : Option Nat} {a0 b : Block} {ps : List Piece} (hp : [.opal, .posts, .onyx, .ch, .trace] ⊆ ps)
    (h0 : onlyChanges ps a0 b) : onlyChanges ps a0 (endOnyxTake r last b) := by
  refine onlyChanges_step ?_ hp h0
  unfold endOnyxTake
  repeat' (first
    | with_reducible assumption
    | with_reducible exact onlyChanges_refl _ _
    | with_reducible refine closeClips_frame (by decide) ?_
    | with_reducible refine takeMod_frame (by decide) ?_
    | with_reducible refine tellOpal_frame (by decide) ?_
    | (with_reducible refine onlyChanges_foldl ?_ ?_; intro x y hx)
    | (extract_lets +onlyGivenNames x; refine imp_app (p := onlyChanges _ _ x) ?_ (fun hx => ?_); rotate_left; clear_value x; rotate_right)
    | extract_lets +onlyGivenNames x
    | split
    | dsimp only
    | subst x
    | (intro x))

theorem startOnyxTake_frame {takeId : Nat} {frame : Nat} {a0 b : Block} {ps : List Piece} (hp : [.quartz, .jade, .opal, .posts, .onyx, .evr, .ch, .trace, .out] ⊆ ps)
    (h0 : onlyChanges ps a0 b) : onlyChanges ps a0 (startOnyxTake takeId frame b) := by
  refine onlyChanges_step ?_ hp h0
  unfold startOnyxTake
  repeat' (first
    | with_reducible assumption
    | with_reducible exact onlyChanges_refl _ _
    | with_reducible refine joinTake_frame (by decide) ?_
    | with_reducible refine tellOpal_frame (by decide) ?_
    | with_reducible refine Block.modOnyx_frame (by decide) ?_
    | (with_reducible refine onlyChanges_foldl ?_ ?_; intro x y hx)
    | (extract_lets +onlyGivenNames x; refine imp_app (p := onlyChanges _ _ x) ?_ (fun hx => ?_); rotate_left; clear_value x; rotate_right)
    | extract_lets +onlyGivenNames x
    | split
    | dsimp only
    | subst x
    | (intro x))

theorem tryHold_frame {s : Snapshot} {set : MagSet} {ds : List Dest} {a0 b b1 : Block} {ps : List Piece} (hp : [.opal, .posts, .onyx, .ch, .trace] ⊆ ps)
    (he : tryHold s set ds b = some b1) (h : onlyChanges ps a0 b) : onlyChanges ps a0 b1 := by
  induction ds generalizing b with
  | nil => simp only [tryHold, Option.some.injEq] at he; exact he ▸ h
  | cons d ds ih =>
    unfold tryHold at he
    split at he
    · exact absurd he (by simp)
    · exact ih he (Block.modOnyx_frame (List.Subset.trans (by decide) hp)
        (tellOpal_frame (List.Subset.trans (by decide) hp) (tellJade_frame (List.Subset.trans (by decide) hp) h)))

theorem holdNone_frame {s : Snapshot} {ds : List Dest} {a0 b : Block} {ps : List Piece} (hp : [.ch, .trace] ⊆ ps)
    (h0 : onlyChanges ps a0 b) : onlyChanges ps a0 (holdNone s ds b) := by
  refine onlyChanges_step ?_ hp h0
  unfold holdNone
  repeat' (first
    | with_reducible assumption
    | with_reducible exact onlyChanges_refl _ _
    | with_reducible refine refuseDest_frame (by decide) ?_
    | (with_reducible refine onlyChanges_foldl ?_ ?_; intro x y hx)
    | (extract_lets +onlyGivenNames x; refine imp_app (p := onlyChanges _ _ x) ?_ (fun hx => ?_); rotate_left; clear_value x; rotate_right)
    | extract_lets +onlyGivenNames x
    | split
    | dsimp only
    | subst x
    | (intro x))

theorem makeRoom_frame {s : Snapshot} {set : MagSet} {ds : List Dest} {k : Nat} {a0 b : Block} {ps : List Piece} (hp : [.jade, .opal, .posts, .onyx, .evr, .ch, .trace] ⊆ ps)
    (h : onlyChanges ps a0 b) : onlyChanges ps a0 (makeRoom s set ds k b) := by
  refine onlyChanges_step ?_ hp h
  clear h hp
  induction k generalizing b with
  | zero => exact holdNone_frame (by decide) (onlyChanges_refl _ _)
  | succ k ih =>
    unfold makeRoom
    extract_lets held fits
    split
    · next c he =>
      split at he
      · exact tryHold_frame (by decide) he (onlyChanges_refl _ _)
      · exact absurd he (by simp)
    · clear_value held
      split
      · exact onlyChanges_trans (dropHeld_frame (by decide) (onlyChanges_refl _ _)) ih
      · exact holdNone_frame (by decide) (onlyChanges_refl _ _)

theorem holdFrame_frame {s : Snapshot} {ds : List Dest} {a0 b : Block} {ps : List Piece} (hp : [.jade, .opal, .posts, .onyx, .evr, .ch, .trace] ⊆ ps)
    (h0 : onlyChanges ps a0 b) : onlyChanges ps a0 (holdFrame s ds b) := by
  refine onlyChanges_step ?_ hp h0
  unfold holdFrame
  repeat' (first
    | with_reducible assumption
    | with_reducible exact onlyChanges_refl _ _
    | with_reducible refine makeRoom_frame (by decide) ?_
    | with_reducible refine holdNone_frame (by decide) ?_
    | (with_reducible refine onlyChanges_foldl ?_ ?_; intro x y hx)
    | (extract_lets +onlyGivenNames x; refine imp_app (p := onlyChanges _ _ x) ?_ (fun hx => ?_); rotate_left; clear_value x; rotate_right)
    | extract_lets +onlyGivenNames x
    | split
    | dsimp only
    | subst x
    | (intro x))

theorem trimAnte_frame {a0 b : Block} {ps : List Piece} (hp : [.jade, .onyx, .evr, .ch, .trace] ⊆ ps)
    (h0 : onlyChanges ps a0 b) : onlyChanges ps a0 (trimAnte b) := by
  refine onlyChanges_step ?_ hp h0
  unfold trimAnte
  repeat' (first
    | with_reducible assumption
    | with_reducible exact onlyChanges_refl _ _
    | with_reducible refine dropHeld_frame (by decide) ?_
    | (with_reducible refine onlyChanges_foldl ?_ ?_; intro x y hx)
    | (extract_lets +onlyGivenNames x; refine imp_app (p := onlyChanges _ _ x) ?_ (fun hx => ?_); rotate_left; clear_value x; rotate_right)
    | extract_lets +onlyGivenNames x
    | split
    | dsimp only
    | subst x
    | (intro x))

theorem bindMagazine_frame {s : Snapshot} {ds : List Dest} {a0 b : Block} {ps : List Piece} (hp : [.quartz, .jade, .opal, .posts, .onyx, .evr, .ch, .trace, .out, .fresh] ⊆ ps)
    (h0 : onlyChanges ps a0 b) : onlyChanges ps a0 (bindMagazine s ds b) := by
  refine onlyChanges_step ?_ hp h0
  unfold bindMagazine
  repeat' (first
    | with_reducible assumption
    | with_reducible exact onlyChanges_refl _ _
    | with_reducible refine holdFrame_frame (by decide) ?_
    | with_reducible refine holdNone_frame (by decide) ?_
    | with_reducible refine checkFull_frame (by decide) ?_
    | with_reducible refine bindInTake_frame (by decide) ?_
    | with_reducible refine guardRetention_frame (by decide) ?_
    | with_reducible refine refuseDest_frame (by decide) ?_
    | with_reducible refine takeMod_frame (by decide) ?_
    | (with_reducible refine onlyChanges_foldl ?_ ?_; intro x y hx)
    | (extract_lets +onlyGivenNames x; refine imp_app (p := onlyChanges _ _ x) ?_ (fun hx => ?_); rotate_left; clear_value x; rotate_right)
    | extract_lets +onlyGivenNames x
    | split
    | dsimp only
    | subst x
    | (intro x))

theorem bindInOnyx_frame {n : LatchNotice} {ds : List Dest} {a0 b : Block} {ps : List Piece} (hp : [.quartz, .garnet, .jade, .opal, .posts, .onyx, .evr, .ch, .trace, .out, .fresh] ⊆ ps)
    (h0 : onlyChanges ps a0 b) : onlyChanges ps a0 (bindInOnyx n ds b) := by
  refine onlyChanges_step ?_ hp h0
  unfold bindInOnyx
  repeat' (first
    | with_reducible assumption
    | with_reducible exact onlyChanges_refl _ _
    | with_reducible refine bindMagazine_frame (by decide) ?_
    | with_reducible refine trimAnte_frame (by decide) ?_
    | with_reducible refine startOnyxTake_frame (by decide) ?_
    | with_reducible refine endOnyxTake_frame (by decide) ?_
    | with_reducible refine applySet_frame (by decide) ?_
    | with_reducible refine tellOpal_frame (by decide) ?_
    | with_reducible refine takeStop_frame (by decide) ?_
    | with_reducible refine takeStart_frame (by decide) ?_
    | (with_reducible refine onlyChanges_foldl ?_ ?_; intro x y hx)
    | (extract_lets +onlyGivenNames x; refine imp_app (p := onlyChanges _ _ x) ?_ (fun hx => ?_); rotate_left; clear_value x; rotate_right)
    | extract_lets +onlyGivenNames x
    | split
    | dsimp only
    | subst x
    | (intro x))

theorem missNoticesOnyx_frame {lost : Nat} {a0 b : Block} {ps : List Piece} (hp : [.posts, .evr, .topaz, .ch, .trace, .out] ⊆ ps)
    (h0 : onlyChanges ps a0 b) : onlyChanges ps a0 (missNoticesOnyx lost b) := by
  refine onlyChanges_step ?_ hp h0
  unfold missNoticesOnyx
  repeat' (first
    | with_reducible assumption
    | with_reducible exact onlyChanges_refl _ _
    | with_reducible refine eventGap_frame (by decide) ?_
    | with_reducible refine Block.modCh_frame (by decide) ?_
    | (with_reducible refine onlyChanges_foldl ?_ ?_; intro x y hx)
    | (extract_lets +onlyGivenNames x; refine imp_app (p := onlyChanges _ _ x) ?_ (fun hx => ?_); rotate_left; clear_value x; rotate_right)
    | extract_lets +onlyGivenNames x
    | split
    | dsimp only
    | subst x
    | (intro x))

theorem missedInOnyx_frame {frame : Nat} {a0 b : Block} {ps : List Piece} (hp : [.ch, .trace] ⊆ ps)
    (h0 : onlyChanges ps a0 b) : onlyChanges ps a0 (missedInOnyx frame b) := by
  refine onlyChanges_step ?_ hp h0
  unfold missedInOnyx
  repeat' (first
    | with_reducible assumption
    | with_reducible exact onlyChanges_refl _ _
    | with_reducible refine refuseDest_frame (by decide) ?_
    | (with_reducible refine onlyChanges_foldl ?_ ?_; intro x y hx)
    | (extract_lets +onlyGivenNames x; refine imp_app (p := onlyChanges _ _ x) ?_ (fun hx => ?_); rotate_left; clear_value x; rotate_right)
    | extract_lets +onlyGivenNames x
    | split
    | dsimp only
    | subst x
    | (intro x))

theorem serveNoticeOnyx_frame {a0 b : Block} {ps : List Piece} (hp : [.quartz, .garnet, .jade, .opal, .posts, .onyx, .evr, .ch, .trace, .out, .fresh] ⊆ ps)
    (h0 : onlyChanges ps a0 b) : onlyChanges ps a0 (serveNoticeOnyx b) := by
  refine onlyChanges_step ?_ hp h0
  unfold serveNoticeOnyx
  repeat' (first
    | with_reducible assumption
    | with_reducible exact onlyChanges_refl _ _
    | with_reducible refine missedInOnyx_frame (by decide) ?_
    | with_reducible refine bindInOnyx_frame (by decide) ?_
    | with_reducible refine serveOnyx_frame (by decide) ?_
    | with_reducible refine Block.modCh_frame (by decide) ?_
    | (with_reducible refine onlyChanges_foldl ?_ ?_; intro x y hx)
    | (extract_lets +onlyGivenNames x; refine imp_app (p := onlyChanges _ _ x) ?_ (fun hx => ?_); rotate_left; clear_value x; rotate_right)
    | extract_lets +onlyGivenNames x
    | split
    | dsimp only
    | subst x
    | (intro x))

theorem latchNoticeOnyx_frame {lost : Nat} {a0 b : Block} {ps : List Piece} (hp : [.quartz, .garnet, .jade, .opal, .posts, .onyx, .evr, .topaz, .ch, .trace, .out, .fresh] ⊆ ps)
    (h0 : onlyChanges ps a0 b) : onlyChanges ps a0 (latchNoticeOnyx lost b) := by
  refine onlyChanges_step ?_ hp h0
  unfold latchNoticeOnyx
  repeat' (first
    | with_reducible assumption
    | with_reducible exact onlyChanges_refl _ _
    | with_reducible refine serveNoticeOnyx_frame (by decide) ?_
    | with_reducible refine missNoticesOnyx_frame (by decide) ?_
    | (with_reducible refine onlyChanges_foldl ?_ ?_; intro x y hx)
    | (extract_lets +onlyGivenNames x; refine imp_app (p := onlyChanges _ _ x) ?_ (fun hx => ?_); rotate_left; clear_value x; rotate_right)
    | extract_lets +onlyGivenNames x
    | split
    | dsimp only
    | subst x
    | (intro x))

theorem rehomePart_frame {g : OnyxSeg} {m : Nat} {c : Nat} {clip : Nat} {a0 b : Block} {ps : List Piece} (hp : [.opal, .posts, .onyx, .ch, .trace] ⊆ ps)
    (h0 : onlyChanges ps a0 b) : onlyChanges ps a0 (rehomePart g m c clip b) := by
  refine onlyChanges_step ?_ hp h0
  unfold rehomePart
  repeat' (first
    | with_reducible assumption
    | with_reducible exact onlyChanges_refl _ _
    | with_reducible refine osegMod_frame (by decide) ?_
    | with_reducible refine tellOpal_frame (by decide) ?_
    | (with_reducible refine onlyChanges_foldl ?_ ?_; intro x y hx)
    | (extract_lets +onlyGivenNames x; refine imp_app (p := onlyChanges _ _ x) ?_ (fun hx => ?_); rotate_left; clear_value x; rotate_right)
    | extract_lets +onlyGivenNames x
    | split
    | dsimp only
    | subst x
    | (intro x))

theorem rehomeSeg_frame {m : Nat} {c : Nat} {g : OnyxSeg} {a0 b : Block} {ps : List Piece} (hp : [.quartz, .jade, .opal, .posts, .onyx, .evr, .ch, .trace, .out] ⊆ ps)
    (h0 : onlyChanges ps a0 b) : onlyChanges ps a0 (rehomeSeg m c b g) := by
  refine onlyChanges_step ?_ hp h0
  unfold rehomeSeg
  repeat' (first
    | with_reducible assumption
    | with_reducible exact onlyChanges_refl _ _
    | with_reducible refine rehomePart_frame (by decide) ?_
    | with_reducible refine planClip_frame (by decide) ?_
    | with_reducible refine planClip_pair (by assumption) (by decide) ?_
    | with_reducible refine giveOutcome_frame (by decide) ?_
    | (with_reducible refine onlyChanges_foldl ?_ ?_; intro x y hx)
    | (extract_lets +onlyGivenNames x; refine imp_app (p := onlyChanges _ _ x) ?_ (fun hx => ?_); rotate_left; clear_value x; rotate_right)
    | extract_lets +onlyGivenNames x
    | split
    | dsimp only
    | subst x
    | (intro x))

theorem dropMirror_frame {m : Nat} {g : OnyxSeg} {a0 b : Block} {ps : List Piece} (hp : [.jade, .onyx, .evr, .ch, .trace] ⊆ ps)
    (h0 : onlyChanges ps a0 b) : onlyChanges ps a0 (dropMirror m b g) := by
  refine onlyChanges_step ?_ hp h0
  unfold dropMirror
  repeat' (first
    | with_reducible assumption
    | with_reducible exact onlyChanges_refl _ _
    | with_reducible refine giveOutcome_frame (by decide) ?_
    | with_reducible refine osegMod_frame (by decide) ?_
    | (with_reducible refine onlyChanges_foldl ?_ ?_; intro x y hx)
    | (extract_lets +onlyGivenNames x; refine imp_app (p := onlyChanges _ _ x) ?_ (fun hx => ?_); rotate_left; clear_value x; rotate_right)
    | extract_lets +onlyGivenNames x
    | split
    | dsimp only
    | subst x
    | (intro x))

theorem loseShare_frame {m : Nat} {now : Option Nat} {g : OnyxSeg} {a0 b : Block} {ps : List Piece} (hp : [.quartz, .jade, .opal, .posts, .onyx, .evr, .ch, .trace, .out] ⊆ ps)
    (h0 : onlyChanges ps a0 b) : onlyChanges ps a0 (loseShare m now b g) := by
  refine onlyChanges_step ?_ hp h0
  unfold loseShare
  repeat' (first
    | with_reducible assumption
    | with_reducible exact onlyChanges_refl _ _
    | with_reducible refine dropMirror_frame (by decide) ?_
    | with_reducible refine rehomeSeg_frame (by decide) ?_
    | with_reducible refine giveOutcome_frame (by decide) ?_
    | (with_reducible refine onlyChanges_foldl ?_ ?_; intro x y hx)
    | (extract_lets +onlyGivenNames x; refine imp_app (p := onlyChanges _ _ x) ?_ (fun hx => ?_); rotate_left; clear_value x; rotate_right)
    | extract_lets +onlyGivenNames x
    | split
    | dsimp only
    | subst x
    | (intro x))

theorem standbyClip_frame {m : Nat} {c : Nat} {s : MagSet} {a0 b : Block} {ps : List Piece} (hp : [.quartz, .posts, .onyx, .evr, .trace, .out] ⊆ ps)
    (h0 : onlyChanges ps a0 b) : onlyChanges ps a0 (standbyClip m c s b) := by
  refine onlyChanges_step ?_ hp h0
  unfold standbyClip
  repeat' (first
    | with_reducible assumption
    | with_reducible exact onlyChanges_refl _ _
    | with_reducible refine planClip_frame (by decide) ?_
    | with_reducible refine planClip_pair (by assumption) (by decide) ?_
    | (with_reducible refine onlyChanges_foldl ?_ ?_; intro x y hx)
    | (extract_lets +onlyGivenNames x; refine imp_app (p := onlyChanges _ _ x) ?_ (fun hx => ?_); rotate_left; clear_value x; rotate_right)
    | extract_lets +onlyGivenNames x
    | split
    | dsimp only
    | subst x
    | (intro x))

theorem memberLost_frame {m : Nat} {s : MagSet} {a0 b : Block} {ps : List Piece} (hp : [.quartz, .jade, .opal, .posts, .onyx, .evr, .ch, .trace, .out] ⊆ ps)
    (h0 : onlyChanges ps a0 b) : onlyChanges ps a0 (memberLost m s b) := by
  refine onlyChanges_step ?_ hp h0
  unfold memberLost
  repeat' (first
    | with_reducible assumption
    | with_reducible exact onlyChanges_refl _ _
    | with_reducible refine standbyClip_frame (by decide) ?_
    | with_reducible refine loseShare_frame (by decide) ?_
    | with_reducible refine setStates_frame (by decide) ?_
    | with_reducible refine makeStop_frame (by decide) ?_
    | with_reducible refine Block.modOnyx_frame (by decide) ?_
    | (with_reducible refine onlyChanges_foldl ?_ ?_; intro x y hx)
    | (extract_lets +onlyGivenNames x; refine imp_app (p := onlyChanges _ _ x) ?_ (fun hx => ?_); rotate_left; clear_value x; rotate_right)
    | extract_lets +onlyGivenNames x
    | split
    | dsimp only
    | subst x
    | (intro x))

theorem testLoad_frame {a0 b : Block} {ps : List Piece} (hp : [.onyx, .ch, .trace] ⊆ ps)
    (h0 : onlyChanges ps a0 b) : onlyChanges ps a0 (testLoad b) := by
  refine onlyChanges_step ?_ hp h0
  unfold testLoad
  repeat' (first
    | with_reducible assumption
    | with_reducible exact onlyChanges_refl _ _
    | with_reducible refine makeStop_frame (by decide) ?_
    | (with_reducible refine onlyChanges_foldl ?_ ?_; intro x y hx)
    | (extract_lets +onlyGivenNames x; refine imp_app (p := onlyChanges _ _ x) ?_ (fun hx => ?_); rotate_left; clear_value x; rotate_right)
    | extract_lets +onlyGivenNames x
    | split
    | dsimp only
    | subst x
    | (intro x))

theorem formerLost_frame {m : Nat} {a0 b : Block} {ps : List Piece} (hp : [.quartz, .jade, .opal, .posts, .onyx, .evr, .ch, .trace, .out] ⊆ ps)
    (h0 : onlyChanges ps a0 b) : onlyChanges ps a0 (formerLost m b) := by
  refine onlyChanges_step ?_ hp h0
  unfold formerLost
  repeat' (first
    | with_reducible assumption
    | with_reducible exact onlyChanges_refl _ _
    | with_reducible refine dropMirror_frame (by decide) ?_
    | with_reducible refine rehomeSeg_frame (by decide) ?_
    | with_reducible refine giveOutcome_frame (by decide) ?_
    | with_reducible refine Block.modOnyx_frame (by decide) ?_
    | (with_reducible refine onlyChanges_foldl ?_ ?_; intro x y hx)
    | (extract_lets +onlyGivenNames x; refine imp_app (p := onlyChanges _ _ x) ?_ (fun hx => ?_); rotate_left; clear_value x; rotate_right)
    | extract_lets +onlyGivenNames x
    | split
    | dsimp only
    | subst x
    | (intro x))

theorem dropQueries_frame {cmds : List NvmeCmd} {a0 b : Block} {ps : List Piece} (hp : [.posts, .evr, .trace, .out] ⊆ ps)
    (h0 : onlyChanges ps a0 b) : onlyChanges ps a0 (dropQueries cmds b) := by
  refine onlyChanges_step ?_ hp h0
  unfold dropQueries
  repeat' (first
    | with_reducible assumption
    | with_reducible exact onlyChanges_refl _ _
    | with_reducible refine finishCtrl_frame (by decide) ?_
    | (with_reducible refine onlyChanges_foldl ?_ ?_; intro x y hx)
    | (extract_lets +onlyGivenNames x; refine imp_app (p := onlyChanges _ _ x) ?_ (fun hx => ?_); rotate_left; clear_value x; rotate_right)
    | extract_lets +onlyGivenNames x
    | split
    | dsimp only
    | subst x
    | (intro x))

theorem loseMagazine_frame {m : Nat} {cls : Nat} {kind : Nat} {a0 b : Block} {ps : List Piece} (hp : [.quartz, .jade, .opal, .posts, .onyx, .evr, .ch, .trace, .out] ⊆ ps)
    (h0 : onlyChanges ps a0 b) : onlyChanges ps a0 (loseMagazine m cls kind b) := by
  refine onlyChanges_step ?_ hp h0
  unfold loseMagazine
  repeat' (first
    | with_reducible assumption
    | with_reducible exact onlyChanges_refl _ _
    | with_reducible refine dropQueries_frame (by decide) ?_
    | with_reducible refine formerLost_frame (by decide) ?_
    | with_reducible refine testLoad_frame (by decide) ?_
    | with_reducible refine memberLost_frame (by decide) ?_
    | with_reducible refine serveOnyx_frame (by decide) ?_
    | with_reducible refine cipherClear_frame (by decide) ?_
    | with_reducible refine magEvent_frame (by decide) ?_
    | with_reducible refine portMod_frame (by decide) ?_
    | with_reducible refine tellOpal_frame (by decide) ?_
    | with_reducible refine Block.modOnyx_frame (by decide) ?_
    | (with_reducible refine onlyChanges_foldl ?_ ?_; intro x y hx)
    | (extract_lets +onlyGivenNames x; refine imp_app (p := onlyChanges _ _ x) ?_ (fun hx => ?_); rotate_left; clear_value x; rotate_right)
    | extract_lets +onlyGivenNames x
    | split
    | dsimp only
    | subst x
    | (intro x))

theorem linkDown_frame {m : Nat} {a0 b : Block} {ps : List Piece} (hp : [.quartz, .jade, .opal, .posts, .onyx, .evr, .ch, .trace, .out] ⊆ ps)
    (h0 : onlyChanges ps a0 b) : onlyChanges ps a0 (linkDown m b) := by
  refine onlyChanges_step ?_ hp h0
  unfold linkDown
  repeat' (first
    | with_reducible assumption
    | with_reducible exact onlyChanges_refl _ _
    | with_reducible refine loseMagazine_frame (by decide) ?_
    | with_reducible refine portMod_frame (by decide) ?_
    | with_reducible refine logPcie_frame (by decide) ?_
    | (with_reducible refine onlyChanges_foldl ?_ ?_; intro x y hx)
    | (extract_lets +onlyGivenNames x; refine imp_app (p := onlyChanges _ _ x) ?_ (fun hx => ?_); rotate_left; clear_value x; rotate_right)
    | extract_lets +onlyGivenNames x
    | split
    | dsimp only
    | subst x
    | (intro x))

theorem magazineLinkDown_frame {m : Nat} {also : List Nat} {a0 b : Block} {ps : List Piece} (hp : [.quartz, .jade, .opal, .posts, .onyx, .evr, .ch, .trace, .out] ⊆ ps)
    (h0 : onlyChanges ps a0 b) : onlyChanges ps a0 (magazineLinkDown m also b) := by
  refine onlyChanges_step ?_ hp h0
  unfold magazineLinkDown
  repeat' (first
    | with_reducible assumption
    | with_reducible exact onlyChanges_refl _ _
    | with_reducible refine linkDown_frame (by decide) ?_
    | (with_reducible refine onlyChanges_foldl ?_ ?_; intro x y hx)
    | (extract_lets +onlyGivenNames x; refine imp_app (p := onlyChanges _ _ x) ?_ (fun hx => ?_); rotate_left; clear_value x; rotate_right)
    | extract_lets +onlyGivenNames x
    | split
    | dsimp only
    | subst x
    | (intro x))

theorem cmdTimeout_frame {m : Nat} {cid : Nat} {a0 b : Block} {ps : List Piece} (hp : [.quartz, .jade, .opal, .posts, .onyx, .evr, .ch, .trace, .out] ⊆ ps)
    (h0 : onlyChanges ps a0 b) : onlyChanges ps a0 (cmdTimeout m cid b) := by
  refine onlyChanges_step ?_ hp h0
  unfold cmdTimeout
  repeat' (first
    | with_reducible assumption
    | with_reducible exact onlyChanges_refl _ _
    | with_reducible refine loseMagazine_frame (by decide) ?_
    | with_reducible refine trouble_frame (by decide) ?_
    | with_reducible refine portMod_frame (by decide) ?_
    | (with_reducible refine onlyChanges_foldl ?_ ?_; intro x y hx)
    | (extract_lets +onlyGivenNames x; refine imp_app (p := onlyChanges _ _ x) ?_ (fun hx => ?_); rotate_left; clear_value x; rotate_right)
    | extract_lets +onlyGivenNames x
    | split
    | dsimp only
    | subst x
    | (intro x))

theorem dmaViolation_frame {m : Nat} {a0 b : Block} {ps : List Piece} (hp : [.quartz, .jade, .opal, .posts, .onyx, .evr, .ch, .trace, .out] ⊆ ps)
    (h0 : onlyChanges ps a0 b) : onlyChanges ps a0 (dmaViolation m b) := by
  refine onlyChanges_step ?_ hp h0
  unfold dmaViolation
  repeat' (first
    | with_reducible assumption
    | with_reducible exact onlyChanges_refl _ _
    | with_reducible refine loseMagazine_frame (by decide) ?_
    | with_reducible refine logPcie_frame (by decide) ?_
    | (with_reducible refine onlyChanges_foldl ?_ ?_; intro x y hx)
    | (extract_lets +onlyGivenNames x; refine imp_app (p := onlyChanges _ _ x) ?_ (fun hx => ?_); rotate_left; clear_value x; rotate_right)
    | extract_lets +onlyGivenNames x
    | split
    | dsimp only
    | subst x
    | (intro x))

theorem magazineDmaViolation_frame {m : Nat} {a0 b : Block} {ps : List Piece} (hp : [.quartz, .jade, .opal, .posts, .onyx, .evr, .ch, .trace, .out] ⊆ ps)
    (h0 : onlyChanges ps a0 b) : onlyChanges ps a0 (magazineDmaViolation m b) := by
  refine onlyChanges_step ?_ hp h0
  unfold magazineDmaViolation
  repeat' (first
    | with_reducible assumption
    | with_reducible exact onlyChanges_refl _ _
    | with_reducible refine dmaViolation_frame (by decide) ?_
    | (with_reducible refine onlyChanges_foldl ?_ ?_; intro x y hx)
    | (extract_lets +onlyGivenNames x; refine imp_app (p := onlyChanges _ _ x) ?_ (fun hx => ?_); rotate_left; clear_value x; rotate_right)
    | extract_lets +onlyGivenNames x
    | split
    | dsimp only
    | subst x
    | (intro x))

theorem healthData_frame {m : Nat} {data : List Byte} {a0 b : Block} {ps : List Piece} (hp : [.quartz, .jade, .opal, .posts, .onyx, .evr, .ch, .trace, .out] ⊆ ps)
    (h0 : onlyChanges ps a0 b) : onlyChanges ps a0 (healthData m data b) := by
  refine onlyChanges_step ?_ hp h0
  unfold healthData
  repeat' (first
    | with_reducible assumption
    | with_reducible exact onlyChanges_refl _ _
    | with_reducible refine loseMagazine_frame (by decide) ?_
    | with_reducible refine postHealth_frame (by decide) ?_
    | with_reducible refine trouble_frame (by decide) ?_
    | with_reducible refine portMod_frame (by decide) ?_
    | (with_reducible refine onlyChanges_foldl ?_ ?_; intro x y hx)
    | (extract_lets +onlyGivenNames x; refine imp_app (p := onlyChanges _ _ x) ?_ (fun hx => ?_); rotate_left; clear_value x; rotate_right)
    | extract_lets +onlyGivenNames x
    | split
    | dsimp only
    | subst x
    | (intro x))

theorem answerQuery_frame {desc : Nat} {page : List Byte} {a0 b : Block} {ps : List Piece} (hp : [.posts, .evr, .trace, .out] ⊆ ps)
    (h0 : onlyChanges ps a0 b) : onlyChanges ps a0 (answerQuery desc page b) := by
  refine onlyChanges_step ?_ hp h0
  unfold answerQuery
  repeat' (first
    | with_reducible assumption
    | with_reducible exact onlyChanges_refl _ _
    | with_reducible refine finishCtrl_frame (by decide) ?_
    | with_reducible refine Block.hostWrite_frame (by decide) ?_
    | (with_reducible refine onlyChanges_foldl ?_ ?_; intro x y hx)
    | (extract_lets +onlyGivenNames x; refine imp_app (p := onlyChanges _ _ x) ?_ (fun hx => ?_); rotate_left; clear_value x; rotate_right)
    | extract_lets +onlyGivenNames x
    | split
    | dsimp only
    | subst x
    | (intro x))

theorem shareWritten_frame {m : Nat} {f : Nat} {i : Nat} {k : Nat} {op : NvmeOp} {a0 b : Block} {ps : List Piece} (hp : [.onyx] ⊆ ps)
    (h0 : onlyChanges ps a0 b) : onlyChanges ps a0 (shareWritten m f i k op b) := by
  refine onlyChanges_step ?_ hp h0
  unfold shareWritten
  repeat' (first
    | with_reducible assumption
    | with_reducible exact onlyChanges_refl _ _
    | with_reducible refine cipherFree_frame (by decide) ?_
    | with_reducible refine osegMod_frame (by decide) ?_
    | with_reducible refine portMod_frame (by decide) ?_
    | (with_reducible refine onlyChanges_foldl ?_ ?_; intro x y hx)
    | (extract_lets +onlyGivenNames x; refine imp_app (p := onlyChanges _ _ x) ?_ (fun hx => ?_); rotate_left; clear_value x; rotate_right)
    | extract_lets +onlyGivenNames x
    | split
    | dsimp only
    | subst x
    | (intro x))

theorem completed_frame {m : Nat} {c : NvmeCmd} {data : List Byte} {a0 b : Block} {ps : List Piece} (hp : [.quartz, .jade, .opal, .posts, .onyx, .evr, .ch, .trace, .out, .fresh] ⊆ ps)
    (h0 : onlyChanges ps a0 b) : onlyChanges ps a0 (completed m c data b) := by
  refine onlyChanges_step ?_ hp h0
  unfold completed
  repeat' (first
    | with_reducible assumption
    | with_reducible exact onlyChanges_refl _ _
    | with_reducible refine shareWritten_frame (by decide) ?_
    | with_reducible refine answerQuery_frame (by decide) ?_
    | with_reducible refine healthData_frame (by decide) ?_
    | with_reducible refine mountData_frame (by decide) ?_
    | with_reducible refine trouble_frame (by decide) ?_
    | with_reducible refine readLog_frame (by decide) ?_
    | with_reducible refine issueCmd_frame (by decide) ?_
    | (with_reducible refine onlyChanges_foldl ?_ ?_; intro x y hx)
    | (extract_lets +onlyGivenNames x; refine imp_app (p := onlyChanges _ _ x) ?_ (fun hx => ?_); rotate_left; clear_value x; rotate_right)
    | extract_lets +onlyGivenNames x
    | split
    | dsimp only
    | subst x
    | (intro x))

theorem takeCompletion_frame {m : Nat} {cid : Nat} {status : Nat} {sqhd : Nat} {data : List Byte} {a0 b : Block} {ps : List Piece} (hp : [.quartz, .jade, .opal, .posts, .onyx, .evr, .ch, .trace, .out, .fresh] ⊆ ps)
    (h0 : onlyChanges ps a0 b) : onlyChanges ps a0 (takeCompletion m cid status sqhd data b) := by
  refine onlyChanges_step ?_ hp h0
  unfold takeCompletion
  repeat' (first
    | with_reducible assumption
    | with_reducible exact onlyChanges_refl _ _
    | with_reducible refine completed_frame (by decide) ?_
    | with_reducible refine loseMagazine_frame (by decide) ?_
    | with_reducible refine serveOnyx_frame (by decide) ?_
    | with_reducible refine trouble_frame (by decide) ?_
    | with_reducible refine readWaiting_frame (by decide) ?_
    | with_reducible refine readLog_frame (by decide) ?_
    | with_reducible refine issueCmd_frame (by decide) ?_
    | with_reducible refine portMod_frame (by decide) ?_
    | with_reducible refine Block.logEvr_frame (by decide) ?_
    | (with_reducible refine onlyChanges_foldl ?_ ?_; intro x y hx)
    | (extract_lets +onlyGivenNames x; refine imp_app (p := onlyChanges _ _ x) ?_ (fun hx => ?_); rotate_left; clear_value x; rotate_right)
    | extract_lets +onlyGivenNames x
    | split
    | dsimp only
    | subst x
    | (intro x))

theorem nvmeCompletion_frame {m : Nat} {cid : Nat} {status : Nat} {sqhd : Nat} {data : List Byte} {a0 b : Block} {ps : List Piece} (hp : [.quartz, .jade, .opal, .posts, .onyx, .evr, .ch, .trace, .out, .fresh] ⊆ ps)
    (h0 : onlyChanges ps a0 b) : onlyChanges ps a0 (nvmeCompletion m cid status sqhd data b) := by
  refine onlyChanges_step ?_ hp h0
  unfold nvmeCompletion
  repeat' (first
    | with_reducible assumption
    | with_reducible exact onlyChanges_refl _ _
    | with_reducible refine takeCompletion_frame (by decide) ?_
    | (with_reducible refine onlyChanges_foldl ?_ ?_; intro x y hx)
    | (extract_lets +onlyGivenNames x; refine imp_app (p := onlyChanges _ _ x) ?_ (fun hx => ?_); rotate_left; clear_value x; rotate_right)
    | extract_lets +onlyGivenNames x
    | split
    | dsimp only
    | subst x
    | (intro x))

theorem smartPoll_frame {a0 b : Block} {ps : List Piece} (hp : [.onyx, .out] ⊆ ps)
    (h0 : onlyChanges ps a0 b) : onlyChanges ps a0 (smartPoll b) := by
  refine onlyChanges_step ?_ hp h0
  unfold smartPoll
  repeat' (first
    | with_reducible assumption
    | with_reducible exact onlyChanges_refl _ _
    | with_reducible refine readLog_frame (by decide) ?_
    | (with_reducible refine onlyChanges_foldl ?_ ?_; intro x y hx)
    | (extract_lets +onlyGivenNames x; refine imp_app (p := onlyChanges _ _ x) ?_ (fun hx => ?_); rotate_left; clear_value x; rotate_right)
    | extract_lets +onlyGivenNames x
    | split
    | dsimp only
    | subst x
    | (intro x))

theorem controllerStatusChange_frame {m : Nat} {csts : Nat} {a0 b : Block} {ps : List Piece} (hp : [.quartz, .jade, .opal, .posts, .onyx, .evr, .ch, .trace, .out] ⊆ ps)
    (h0 : onlyChanges ps a0 b) : onlyChanges ps a0 (controllerStatusChange m csts b) := by
  refine onlyChanges_step ?_ hp h0
  unfold controllerStatusChange
  repeat' (first
    | with_reducible assumption
    | with_reducible exact onlyChanges_refl _ _
    | with_reducible refine loseMagazine_frame (by decide) ?_
    | with_reducible refine serveOnyx_frame (by decide) ?_
    | with_reducible refine trouble_frame (by decide) ?_
    | with_reducible refine addSteps_frame (by decide) ?_
    | with_reducible refine portMod_frame (by decide) ?_
    | (with_reducible refine onlyChanges_foldl ?_ ?_; intro x y hx)
    | (extract_lets +onlyGivenNames x; refine imp_app (p := onlyChanges _ _ x) ?_ (fun hx => ?_); rotate_left; clear_value x; rotate_right)
    | extract_lets +onlyGivenNames x
    | split
    | dsimp only
    | subst x
    | (intro x))

theorem magQuery_frame {desc : Nat} {a0 b : Block} {ps : List Piece} (hp : [.posts, .onyx, .evr, .trace, .out] ⊆ ps)
    (h0 : onlyChanges ps a0 b) : onlyChanges ps a0 (magQuery desc b) := by
  refine onlyChanges_step ?_ hp h0
  unfold magQuery
  repeat' (first
    | with_reducible assumption
    | with_reducible exact onlyChanges_refl _ _
    | with_reducible refine answerQuery_frame (by decide) ?_
    | with_reducible refine issueCmd_frame (by decide) ?_
    | with_reducible refine finishCtrl_frame (by decide) ?_
    | (with_reducible refine onlyChanges_foldl ?_ ?_; intro x y hx)
    | (extract_lets +onlyGivenNames x; refine imp_app (p := onlyChanges _ _ x) ?_ (fun hx => ?_); rotate_left; clear_value x; rotate_right)
    | extract_lets +onlyGivenNames x
    | split
    | dsimp only
    | subst x
    | (intro x))

theorem failInOnyx_frame {frame : Nat} {m : BitVec 16} {a0 b : Block} {ps : List Piece} (hp : [.jade, .onyx, .evr, .topaz, .ch, .trace] ⊆ ps)
    (h0 : onlyChanges ps a0 b) : onlyChanges ps a0 (failInOnyx frame m b) := by
  refine onlyChanges_step ?_ hp h0
  unfold failInOnyx
  repeat' (first
    | with_reducible assumption
    | with_reducible exact onlyChanges_refl _ _
    | with_reducible refine failShare_frame (by decide) ?_
    | with_reducible refine noteFailed_frame (by decide) ?_
    | with_reducible refine Block.modOnyx_frame (by decide) ?_
    | (with_reducible refine onlyChanges_foldl ?_ ?_; intro x y hx)
    | (extract_lets +onlyGivenNames x; refine imp_app (p := onlyChanges _ _ x) ?_ (fun hx => ?_); rotate_left; clear_value x; rotate_right)
    | extract_lets +onlyGivenNames x
    | split
    | dsimp only
    | subst x
    | (intro x))

theorem failedToken_frame {t : SegToken} {a0 b : Block} {ps : List Piece} (hp : [.jade, .onyx, .evr, .topaz, .ch, .trace] ⊆ ps)
    (h0 : onlyChanges ps a0 b) : onlyChanges ps a0 (failedToken t b) := by
  refine onlyChanges_step ?_ hp h0
  unfold failedToken
  repeat' (first
    | with_reducible assumption
    | with_reducible exact onlyChanges_refl _ _
    | with_reducible refine failInOnyx_frame (by decide) ?_
    | with_reducible refine strikeEntries_frame (by decide) ?_
    | with_reducible refine dropSegment_frame (by decide) ?_
    | (with_reducible refine onlyChanges_foldl ?_ ?_; intro x y hx)
    | (extract_lets +onlyGivenNames x; refine imp_app (p := onlyChanges _ _ x) ?_ (fun hx => ?_); rotate_left; clear_value x; rotate_right)
    | extract_lets +onlyGivenNames x
    | split
    | dsimp only
    | subst x
    | (intro x))

theorem takeStripe_frame {t : SegToken} {g : OnyxSeg} {ecc : Ecc} {a0 b : Block} {ps : List Piece} (hp : [.jade, .opal, .posts, .onyx, .evr, .topaz, .ch, .trace, .out] ⊆ ps)
    (h0 : onlyChanges ps a0 b) : onlyChanges ps a0 (takeStripe t g ecc b) := by
  refine onlyChanges_step ?_ hp h0
  unfold takeStripe
  repeat' (first
    | with_reducible assumption
    | with_reducible exact onlyChanges_refl _ _
    | with_reducible refine failShare_frame (by decide) ?_
    | with_reducible refine osegMod_frame (by decide) ?_
    | with_reducible refine eccCount_frame (by decide) ?_
    | with_reducible refine tellOpal_frame (by decide) ?_
    | with_reducible refine Block.modCh_frame (by decide) ?_
    | (with_reducible refine onlyChanges_foldl ?_ ?_; intro x y hx)
    | (extract_lets +onlyGivenNames x; refine imp_app (p := onlyChanges _ _ x) ?_ (fun hx => ?_); rotate_left; clear_value x; rotate_right)
    | extract_lets +onlyGivenNames x
    | split
    | dsimp only
    | subst x
    | (intro x))

theorem magazineStripeToken_frame {ecc : Ecc} {a0 b : Block} {ps : List Piece} (hp : [.quartz, .jade, .opal, .posts, .onyx, .evr, .topaz, .ch, .trace, .out] ⊆ ps)
    (h0 : onlyChanges ps a0 b) : onlyChanges ps a0 (magazineStripeToken ecc b) := by
  refine onlyChanges_step ?_ hp h0
  unfold magazineStripeToken
  repeat' (first
    | with_reducible assumption
    | with_reducible exact onlyChanges_refl _ _
    | with_reducible refine takeStripe_frame (by decide) ?_
    | with_reducible refine failedToken_frame (by decide) ?_
    | with_reducible refine serveOnyx_frame (by decide) ?_
    | with_reducible refine retireToken_frame (by decide) ?_
    | with_reducible refine Block.modCh_frame (by decide) ?_
    | (with_reducible refine onlyChanges_foldl ?_ ?_; intro x y hx)
    | (extract_lets +onlyGivenNames x; refine imp_app (p := onlyChanges _ _ x) ?_ (fun hx => ?_); rotate_left; clear_value x; rotate_right)
    | extract_lets +onlyGivenNames x
    | split
    | dsimp only
    | subst x
    | (intro x))

theorem shareEncryptionRequest_frame {a0 b : Block} {ps : List Piece} (hp : [.quartz, .jade, .opal, .posts, .onyx, .evr, .dram, .ch, .trace, .out] ⊆ ps)
    (h0 : onlyChanges ps a0 b) : onlyChanges ps a0 (shareEncryptionRequest b) := by
  refine onlyChanges_step ?_ hp h0
  unfold shareEncryptionRequest
  repeat' (first
    | with_reducible assumption
    | with_reducible exact onlyChanges_refl _ _
    | with_reducible refine serveOnyx_frame (by decide) ?_
    | with_reducible refine issueCmd_frame (by decide) ?_
    | with_reducible refine Block.dramWrite_frame (by decide) ?_
    | with_reducible refine Block.modCh_frame (by decide) ?_
    | (with_reducible refine onlyChanges_foldl ?_ ?_; intro x y hx)
    | (extract_lets +onlyGivenNames x; refine imp_app (p := onlyChanges _ _ x) ?_ (fun hx => ?_); rotate_left; clear_value x; rotate_right)
    | extract_lets +onlyGivenNames x
    | split
    | dsimp only
    | subst x
    | (intro x))

theorem expiryRequest_frame {a0 b : Block} {ps : List Piece} (hp : [.quartz, .jade, .opal, .posts, .onyx, .evr, .ch, .trace, .out] ⊆ ps)
    (h0 : onlyChanges ps a0 b) : onlyChanges ps a0 (expiryRequest b) := by
  refine onlyChanges_step ?_ hp h0
  unfold expiryRequest
  repeat' (first
    | with_reducible assumption
    | with_reducible exact onlyChanges_refl _ _
    | with_reducible refine serveOnyx_frame (by decide) ?_
    | with_reducible refine giveOutcome_frame (by decide) ?_
    | with_reducible refine Block.modCh_frame (by decide) ?_
    | (with_reducible refine onlyChanges_foldl ?_ ?_; intro x y hx)
    | (extract_lets +onlyGivenNames x; refine imp_app (p := onlyChanges _ _ x) ?_ (fun hx => ?_); rotate_left; clear_value x; rotate_right)
    | extract_lets +onlyGivenNames x
    | split
    | dsimp only
    | subst x
    | (intro x))

theorem reinit_frame {w : Word} {a0 b : Block} {ps : List Piece} (hp : [.onyx] ⊆ ps)
    (h0 : onlyChanges ps a0 b) : onlyChanges ps a0 (reinit w b) := by
  refine onlyChanges_step ?_ hp h0
  unfold reinit
  repeat' (first
    | with_reducible assumption
    | with_reducible exact onlyChanges_refl _ _
    | with_reducible refine portMod_frame (by decide) ?_
    | (with_reducible refine onlyChanges_foldl ?_ ?_; intro x y hx)
    | (extract_lets +onlyGivenNames x; refine imp_app (p := onlyChanges _ _ x) ?_ (fun hx => ?_); rotate_left; clear_value x; rotate_right)
    | extract_lets +onlyGivenNames x
    | split
    | dsimp only
    | subst x
    | (intro x))

theorem retrain_frame {w : Word} {a0 b : Block} {ps : List Piece} (hp : [.quartz, .jade, .opal, .posts, .onyx, .evr, .ch, .trace, .out] ⊆ ps)
    (h0 : onlyChanges ps a0 b) : onlyChanges ps a0 (retrain w b) := by
  refine onlyChanges_step ?_ hp h0
  unfold retrain
  repeat' (first
    | with_reducible assumption
    | with_reducible exact onlyChanges_refl _ _
    | with_reducible refine dropQueries_frame (by decide) ?_
    | with_reducible refine formerLost_frame (by decide) ?_
    | with_reducible refine serveOnyx_frame (by decide) ?_
    | with_reducible refine cipherClear_frame (by decide) ?_
    | with_reducible refine portMod_frame (by decide) ?_
    | (with_reducible refine onlyChanges_foldl ?_ ?_; intro x y hx)
    | (extract_lets +onlyGivenNames x; refine imp_app (p := onlyChanges _ _ x) ?_ (fun hx => ?_); rotate_left; clear_value x; rotate_right)
    | extract_lets +onlyGivenNames x
    | split
    | dsimp only
    | subst x
    | (intro x))

theorem magazinePowerSettled_frame {m : Nat} {a0 b : Block} {ps : List Piece} (hp : [.onyx] ⊆ ps)
    (h0 : onlyChanges ps a0 b) : onlyChanges ps a0 (magazinePowerSettled m b) := by
  refine onlyChanges_step ?_ hp h0
  unfold magazinePowerSettled
  repeat' (first
    | with_reducible assumption
    | with_reducible exact onlyChanges_refl _ _
    | with_reducible refine portMod_frame (by decide) ?_
    | (with_reducible refine onlyChanges_foldl ?_ ?_; intro x y hx)
    | (extract_lets +onlyGivenNames x; refine imp_app (p := onlyChanges _ _ x) ?_ (fun hx => ?_); rotate_left; clear_value x; rotate_right)
    | extract_lets +onlyGivenNames x
    | split
    | dsimp only
    | subst x
    | (intro x))

theorem startFlush_frame {r : EndReason} {ms : Nat} {a0 b : Block} {ps : List Piece} (hp : [.quartz, .jade, .opal, .posts, .onyx, .evr, .ch, .trace, .out] ⊆ ps)
    (h0 : onlyChanges ps a0 b) : onlyChanges ps a0 (startFlush r ms b) := by
  refine onlyChanges_step ?_ hp h0
  unfold startFlush
  repeat' (first
    | with_reducible assumption
    | with_reducible exact onlyChanges_refl _ _
    | with_reducible refine discardAnte_frame (by decide) ?_
    | with_reducible refine serveOnyx_frame (by decide) ?_
    | with_reducible refine Block.modCh_frame (by decide) ?_
    | with_reducible refine Block.modOnyx_frame (by decide) ?_
    | (with_reducible refine onlyChanges_foldl ?_ ?_; intro x y hx)
    | (extract_lets +onlyGivenNames x; refine imp_app (p := onlyChanges _ _ x) ?_ (fun hx => ?_); rotate_left; clear_value x; rotate_right)
    | extract_lets +onlyGivenNames x
    | split
    | dsimp only
    | subst x
    | (intro x))

theorem onyxPowerLoss_frame {a0 b : Block} {ps : List Piece} (hp : [.quartz, .jade, .opal, .posts, .onyx, .evr, .ch, .trace, .out] ⊆ ps)
    (h0 : onlyChanges ps a0 b) : onlyChanges ps a0 (onyxPowerLoss b) := by
  refine onlyChanges_step ?_ hp h0
  unfold onyxPowerLoss
  repeat' (first
    | with_reducible assumption
    | with_reducible exact onlyChanges_refl _ _
    | with_reducible refine startFlush_frame (by decide) ?_
    | with_reducible refine Block.modCh_frame (by decide) ?_
    | with_reducible refine Block.modOnyx_frame (by decide) ?_
    | (with_reducible refine onlyChanges_foldl ?_ ?_; intro x y hx)
    | (extract_lets +onlyGivenNames x; refine imp_app (p := onlyChanges _ _ x) ?_ (fun hx => ?_); rotate_left; clear_value x; rotate_right)
    | extract_lets +onlyGivenNames x
    | split
    | dsimp only
    | subst x
    | (intro x))

theorem onyxShutdown_frame {a0 b : Block} {ps : List Piece} (hp : [.quartz, .jade, .opal, .posts, .onyx, .evr, .ch, .trace, .out] ⊆ ps)
    (h0 : onlyChanges ps a0 b) : onlyChanges ps a0 (onyxShutdown b) := by
  refine onlyChanges_step ?_ hp h0
  unfold onyxShutdown
  repeat' (first
    | with_reducible assumption
    | with_reducible exact onlyChanges_refl _ _
    | with_reducible refine startFlush_frame (by decide) ?_
    | with_reducible refine Block.modCh_frame (by decide) ?_
    | (with_reducible refine onlyChanges_foldl ?_ ?_; intro x y hx)
    | (extract_lets +onlyGivenNames x; refine imp_app (p := onlyChanges _ _ x) ?_ (fun hx => ?_); rotate_left; clear_value x; rotate_right)
    | extract_lets +onlyGivenNames x
    | split
    | dsimp only
    | subst x
    | (intro x))

theorem flushWriteDeadline_frame {a0 b : Block} {ps : List Piece} (hp : [.quartz, .jade, .opal, .posts, .onyx, .evr, .ch, .trace, .out] ⊆ ps)
    (h0 : onlyChanges ps a0 b) : onlyChanges ps a0 (flushWriteDeadline b) := by
  refine onlyChanges_step ?_ hp h0
  unfold flushWriteDeadline
  repeat' (first
    | with_reducible assumption
    | with_reducible exact onlyChanges_refl _ _
    | with_reducible refine endOnyxTake_frame (by decide) ?_
    | with_reducible refine serveOnyx_frame (by decide) ?_
    | with_reducible refine giveOutcome_frame (by decide) ?_
    | with_reducible refine Block.advance_frame (by decide) ?_
    | with_reducible refine Block.modOnyx_frame (by decide) ?_
    | (with_reducible refine onlyChanges_foldl ?_ ?_; intro x y hx)
    | (extract_lets +onlyGivenNames x; refine imp_app (p := onlyChanges _ _ x) ?_ (fun hx => ?_); rotate_left; clear_value x; rotate_right)
    | extract_lets +onlyGivenNames x
    | split
    | dsimp only
    | subst x
    | (intro x))

theorem onyxGoesOn_frame {a0 b : Block} {ps : List Piece} (hp : [.quartz, .jade, .opal, .posts, .onyx, .evr, .ch, .trace, .out] ⊆ ps)
    (h0 : onlyChanges ps a0 b) : onlyChanges ps a0 (onyxGoesOn b) := by
  refine onlyChanges_step ?_ hp h0
  unfold onyxGoesOn
  repeat' (first
    | with_reducible assumption
    | with_reducible exact onlyChanges_refl _ _
    | with_reducible refine pumpPort_frame (by decide) ?_
    | with_reducible refine settleSegs_frame (by decide) ?_
    | with_reducible refine takeDecided_frame (by decide) ?_
    | (with_reducible refine onlyChanges_foldl ?_ ?_; intro x y hx)
    | (extract_lets +onlyGivenNames x; refine imp_app (p := onlyChanges _ _ x) ?_ (fun hx => ?_); rotate_left; clear_value x; rotate_right)
    | extract_lets +onlyGivenNames x
    | split
    | dsimp only
    | subst x
    | (intro x))

theorem garnetDecides_frame {a0 b : Block} {ps : List Piece} (hp : [.quartz, .garnet, .jade, .spinel, .opal, .posts, .onyx, .evr, .ch, .trace, .out] ⊆ ps)
    (h0 : onlyChanges ps a0 b) : onlyChanges ps a0 (garnetDecides b) := by
  refine onlyChanges_step ?_ hp h0
  unfold garnetDecides
  repeat' (first
    | with_reducible assumption
    | with_reducible exact onlyChanges_refl _ _
    | with_reducible refine onyxGoesOn_frame (by decide) ?_
    | with_reducible refine garnetOutcome_frame (by decide) ?_
    | (with_reducible refine onlyChanges_foldl ?_ ?_; intro x y hx)
    | (extract_lets +onlyGivenNames x; refine imp_app (p := onlyChanges _ _ x) ?_ (fun hx => ?_); rotate_left; clear_value x; rotate_right)
    | extract_lets +onlyGivenNames x
    | split
    | dsimp only
    | subst x
    | (intro x))

theorem shutdownWaitTimeout_frame {a0 b : Block} {ps : List Piece} (hp : [.onyx, .ch, .trace] ⊆ ps)
    (h0 : onlyChanges ps a0 b) : onlyChanges ps a0 (shutdownWaitTimeout b) := by
  refine onlyChanges_step ?_ hp h0
  unfold shutdownWaitTimeout
  repeat' (first
    | with_reducible assumption
    | with_reducible exact onlyChanges_refl _ _
    | with_reducible refine tryReport_frame (by decide) ?_
    | (with_reducible refine onlyChanges_foldl ?_ ?_; intro x y hx)
    | (extract_lets +onlyGivenNames x; refine imp_app (p := onlyChanges _ _ x) ?_ (fun hx => ?_); rotate_left; clear_value x; rotate_right)
    | extract_lets +onlyGivenNames x
    | split
    | dsimp only
    | subst x
    | (intro x))

end Sys2Proof.Machine
end

