-- ==== Sys2Proof/Laws/FrameAgate.lean ====
section
/-! SUPPORT. Frames of the operations of Agate. -/

namespace Sys2Proof.Machine

theorem engMod_frame {n : Nat} {f : Engine → Engine} {a0 b : Block} {ps : List Piece} (hp : [.agate] ⊆ ps)
    (h0 : onlyChanges ps a0 b) : onlyChanges ps a0 (engMod n f b) := by
  refine onlyChanges_step ?_ hp h0
  unfold engMod
  repeat' (first
    | with_reducible assumption
    | with_reducible exact onlyChanges_refl _ _
    | with_reducible refine Block.modAgate_frame (by decide) ?_
    | (with_reducible refine onlyChanges_foldl ?_ ?_; intro x y hx)
    | (extract_lets +onlyGivenNames x; refine imp_app (p := onlyChanges _ _ x) ?_ (fun hx => ?_); rotate_left; clear_value x; rotate_right)
    | extract_lets +onlyGivenNames x
    | split
    | dsimp only
    | subst x
    | (intro x))

theorem gangMod_frame {g : Nat} {f : GangRegs → GangRegs} {a0 b : Block} {ps : List Piece} (hp : [.agate] ⊆ ps)
    (h0 : onlyChanges ps a0 b) : onlyChanges ps a0 (gangMod g f b) := by
  refine onlyChanges_step ?_ hp h0
  unfold gangMod
  repeat' (first
    | with_reducible assumption
    | with_reducible exact onlyChanges_refl _ _
    | with_reducible refine Block.modAgate_frame (by decide) ?_
    | (with_reducible refine onlyChanges_foldl ?_ ?_; intro x y hx)
    | (extract_lets +onlyGivenNames x; refine imp_app (p := onlyChanges _ _ x) ?_ (fun hx => ?_); rotate_left; clear_value x; rotate_right)
    | extract_lets +onlyGivenNames x
    | split
    | dsimp only
    | subst x
    | (intro x))

theorem putLevel_frame {n : Nat} {p : Nat} {v : Bool} {a0 b : Block} {ps : List Piece} (hp : [.agate] ⊆ ps)
    (h0 : onlyChanges ps a0 b) : onlyChanges ps a0 (putLevel n p v b) := by
  refine onlyChanges_step ?_ hp h0
  unfold putLevel
  repeat' (first
    | with_reducible assumption
    | with_reducible exact onlyChanges_refl _ _
    | with_reducible refine Block.modAgate_frame (by decide) ?_
    | (with_reducible refine onlyChanges_foldl ?_ ?_; intro x y hx)
    | (extract_lets +onlyGivenNames x; refine imp_app (p := onlyChanges _ _ x) ?_ (fun hx => ?_); rotate_left; clear_value x; rotate_right)
    | extract_lets +onlyGivenNames x
    | split
    | dsimp only
    | subst x
    | (intro x))

theorem putDir_frame {n : Nat} {p : Nat} {v : Bool} {a0 b : Block} {ps : List Piece} (hp : [.agate] ⊆ ps)
    (h0 : onlyChanges ps a0 b) : onlyChanges ps a0 (putDir n p v b) := by
  refine onlyChanges_step ?_ hp h0
  unfold putDir
  repeat' (first
    | with_reducible assumption
    | with_reducible exact onlyChanges_refl _ _
    | with_reducible refine Block.modAgate_frame (by decide) ?_
    | (with_reducible refine onlyChanges_foldl ?_ ?_; intro x y hx)
    | (extract_lets +onlyGivenNames x; refine imp_app (p := onlyChanges _ _ x) ?_ (fun hx => ?_); rotate_left; clear_value x; rotate_right)
    | extract_lets +onlyGivenNames x
    | split
    | dsimp only
    | subst x
    | (intro x))

theorem putBits_frame {put : Nat → Bool → Block → Block} {base count : Nat} {v : Word} {a0 b : Block} {ps : List Piece}
    (hput : ∀ p u x, onlyChanges ps a0 x → onlyChanges ps a0 (put p u x)) (h : onlyChanges ps a0 b) :
    onlyChanges ps a0 (putBits put base count v b) := by
  unfold putBits
  exact onlyChanges_foldl (fun x i hx => hput _ _ x hx) h

theorem writePins_frame {n : Nat} {count : Nat} {v : Word} {a0 b : Block} {ps : List Piece} (hp : [.agate] ⊆ ps)
    (h0 : onlyChanges ps a0 b) : onlyChanges ps a0 (writePins n count v b) := by
  refine onlyChanges_step ?_ hp h0
  unfold writePins
  repeat' (first
    | with_reducible assumption
    | with_reducible exact onlyChanges_refl _ _
    | with_reducible refine putBits_frame ?_ ?_
    | with_reducible refine putLevel_frame (by decide) ?_
    | (with_reducible refine onlyChanges_foldl ?_ ?_; intro x y hx)
    | (extract_lets +onlyGivenNames x; refine imp_app (p := onlyChanges _ _ x) ?_ (fun hx => ?_); rotate_left; clear_value x; rotate_right)
    | extract_lets +onlyGivenNames x
    | split
    | dsimp only
    | subst x
    | (intro x))

theorem writeDirs_frame {n : Nat} {count : Nat} {v : Word} {a0 b : Block} {ps : List Piece} (hp : [.agate] ⊆ ps)
    (h0 : onlyChanges ps a0 b) : onlyChanges ps a0 (writeDirs n count v b) := by
  refine onlyChanges_step ?_ hp h0
  unfold writeDirs
  repeat' (first
    | with_reducible assumption
    | with_reducible exact onlyChanges_refl _ _
    | with_reducible refine putBits_frame ?_ ?_
    | with_reducible refine putDir_frame (by decide) ?_
    | (with_reducible refine onlyChanges_foldl ?_ ?_; intro x y hx)
    | (extract_lets +onlyGivenNames x; refine imp_app (p := onlyChanges _ _ x) ?_ (fun hx => ?_); rotate_left; clear_value x; rotate_right)
    | extract_lets +onlyGivenNames x
    | split
    | dsimp only
    | subst x
    | (intro x))

theorem sideSet_frame {lead : Nat} {by_ : Nat} {side : Nat} {a0 b : Block} {ps : List Piece} (hp : [.agate] ⊆ ps)
    (h0 : onlyChanges ps a0 b) : onlyChanges ps a0 (sideSet lead by_ side b) := by
  refine onlyChanges_step ?_ hp h0
  unfold sideSet
  repeat' (first
    | with_reducible assumption
    | with_reducible exact onlyChanges_refl _ _
    | with_reducible refine putLevel_frame (by decide) ?_
    | (with_reducible refine onlyChanges_foldl ?_ ?_; intro x y hx)
    | (extract_lets +onlyGivenNames x; refine imp_app (p := onlyChanges _ _ x) ?_ (fun hx => ?_); rotate_left; clear_value x; rotate_right)
    | extract_lets +onlyGivenNames x
    | split
    | dsimp only
    | subst x
    | (intro x))

theorem doIn_frame {w : Half} {n : Nat} {a0 b : Block} {ps : List Piece} (hp : [.agate] ⊆ ps)
    (h0 : onlyChanges ps a0 b) : onlyChanges ps a0 (doIn w n b) := by
  refine onlyChanges_step ?_ hp h0
  unfold doIn
  repeat' (first
    | with_reducible assumption
    | with_reducible exact onlyChanges_refl _ _
    | with_reducible refine engMod_frame (by decide) ?_
    | (with_reducible refine onlyChanges_foldl ?_ ?_; intro x y hx)
    | (extract_lets +onlyGivenNames x; refine imp_app (p := onlyChanges _ _ x) ?_ (fun hx => ?_); rotate_left; clear_value x; rotate_right)
    | extract_lets +onlyGivenNames x
    | split
    | dsimp only
    | subst x
    | (intro x))

theorem doOut_frame {w : Half} {n : Nat} {a0 b : Block} {ps : List Piece} (hp : [.agate] ⊆ ps)
    (h0 : onlyChanges ps a0 b) : onlyChanges ps a0 (doOut w n b) := by
  refine onlyChanges_step ?_ hp h0
  unfold doOut
  repeat' (first
    | with_reducible assumption
    | with_reducible exact onlyChanges_refl _ _
    | with_reducible refine writeDirs_frame (by decide) ?_
    | with_reducible refine writePins_frame (by decide) ?_
    | with_reducible refine engMod_frame (by decide) ?_
    | (with_reducible refine onlyChanges_foldl ?_ ?_; intro x y hx)
    | (extract_lets +onlyGivenNames x; refine imp_app (p := onlyChanges _ _ x) ?_ (fun hx => ?_); rotate_left; clear_value x; rotate_right)
    | extract_lets +onlyGivenNames x
    | split
    | dsimp only
    | subst x
    | (intro x))

theorem doMov_frame {w : Half} {n : Nat} {a0 b : Block} {ps : List Piece} (hp : [.agate] ⊆ ps)
    (h0 : onlyChanges ps a0 b) : onlyChanges ps a0 (doMov w n b) := by
  refine onlyChanges_step ?_ hp h0
  unfold doMov
  repeat' (first
    | with_reducible assumption
    | with_reducible exact onlyChanges_refl _ _
    | with_reducible refine writeDirs_frame (by decide) ?_
    | with_reducible refine writePins_frame (by decide) ?_
    | with_reducible refine engMod_frame (by decide) ?_
    | (with_reducible refine onlyChanges_foldl ?_ ?_; intro x y hx)
    | (extract_lets +onlyGivenNames x; refine imp_app (p := onlyChanges _ _ x) ?_ (fun hx => ?_); rotate_left; clear_value x; rotate_right)
    | extract_lets +onlyGivenNames x
    | split
    | dsimp only
    | subst x
    | (intro x))

theorem doSet_frame {w : Half} {lead : Nat} {n : Nat} {a0 b : Block} {ps : List Piece} (hp : [.agate] ⊆ ps)
    (h0 : onlyChanges ps a0 b) : onlyChanges ps a0 (doSet w lead n b) := by
  refine onlyChanges_step ?_ hp h0
  unfold doSet
  repeat' (first
    | with_reducible assumption
    | with_reducible exact onlyChanges_refl _ _
    | with_reducible refine writeDirs_frame (by decide) ?_
    | with_reducible refine writePins_frame (by decide) ?_
    | with_reducible refine putBits_frame ?_ ?_
    | with_reducible refine putDir_frame (by decide) ?_
    | with_reducible refine engMod_frame (by decide) ?_
    | (with_reducible refine onlyChanges_foldl ?_ ?_; intro x y hx)
    | (extract_lets +onlyGivenNames x; refine imp_app (p := onlyChanges _ _ x) ?_ (fun hx => ?_); rotate_left; clear_value x; rotate_right)
    | extract_lets +onlyGivenNames x
    | split
    | dsimp only
    | subst x
    | (intro x))

theorem doPush_frame {n : Nat} {a0 b : Block} {ps : List Piece} (hp : [.agate] ⊆ ps)
    (h0 : onlyChanges ps a0 b) : onlyChanges ps a0 (doPush n b) := by
  refine onlyChanges_step ?_ hp h0
  unfold doPush
  repeat' (first
    | with_reducible assumption
    | with_reducible exact onlyChanges_refl _ _
    | with_reducible refine engMod_frame (by decide) ?_
    | (with_reducible refine onlyChanges_foldl ?_ ?_; intro x y hx)
    | (extract_lets +onlyGivenNames x; refine imp_app (p := onlyChanges _ _ x) ?_ (fun hx => ?_); rotate_left; clear_value x; rotate_right)
    | extract_lets +onlyGivenNames x
    | split
    | dsimp only
    | subst x
    | (intro x))

theorem gangPush_frame {g : Nat} {a0 b : Block} {ps : List Piece} (hp : [.agate] ⊆ ps)
    (h0 : onlyChanges ps a0 b) : onlyChanges ps a0 (gangPush g b) := by
  refine onlyChanges_step ?_ hp h0
  unfold gangPush
  repeat' (first
    | with_reducible assumption
    | with_reducible exact onlyChanges_refl _ _
    | with_reducible refine gangMod_frame (by decide) ?_
    | with_reducible refine engMod_frame (by decide) ?_
    | (with_reducible refine onlyChanges_foldl ?_ ?_; intro x y hx)
    | (extract_lets +onlyGivenNames x; refine imp_app (p := onlyChanges _ _ x) ?_ (fun hx => ?_); rotate_left; clear_value x; rotate_right)
    | extract_lets +onlyGivenNames x
    | split
    | dsimp only
    | subst x
    | (intro x))

theorem doPull_frame {n : Nat} {a0 b : Block} {ps : List Piece} (hp : [.agate] ⊆ ps)
    (h0 : onlyChanges ps a0 b) : onlyChanges ps a0 (doPull n b) := by
  refine onlyChanges_step ?_ hp h0
  unfold doPull
  repeat' (first
    | with_reducible assumption
    | with_reducible exact onlyChanges_refl _ _
    | with_reducible refine engMod_frame (by decide) ?_
    | (with_reducible refine onlyChanges_foldl ?_ ?_; intro x y hx)
    | (extract_lets +onlyGivenNames x; refine imp_app (p := onlyChanges _ _ x) ?_ (fun hx => ?_); rotate_left; clear_value x; rotate_right)
    | extract_lets +onlyGivenNames x
    | split
    | dsimp only
    | subst x
    | (intro x))

theorem gangPull_frame {g : Nat} {a0 b : Block} {ps : List Piece} (hp : [.agate] ⊆ ps)
    (h0 : onlyChanges ps a0 b) : onlyChanges ps a0 (gangPull g b) := by
  refine onlyChanges_step ?_ hp h0
  unfold gangPull
  repeat' (first
    | with_reducible assumption
    | with_reducible exact onlyChanges_refl _ _
    | with_reducible refine gangMod_frame (by decide) ?_
    | with_reducible refine engMod_frame (by decide) ?_
    | (with_reducible refine onlyChanges_foldl ?_ ?_; intro x y hx)
    | (extract_lets +onlyGivenNames x; refine imp_app (p := onlyChanges _ _ x) ?_ (fun hx => ?_); rotate_left; clear_value x; rotate_right)
    | extract_lets +onlyGivenNames x
    | split
    | dsimp only
    | subst x
    | (intro x))

theorem raiseFlag_frame {i : Nat} {a0 b : Block} {ps : List Piece} (hp : [.agate] ⊆ ps)
    (h0 : onlyChanges ps a0 b) : onlyChanges ps a0 (raiseFlag i b) := by
  refine onlyChanges_step ?_ hp h0
  unfold raiseFlag
  repeat' (first
    | with_reducible assumption
    | with_reducible exact onlyChanges_refl _ _
    | with_reducible refine Block.modAgate_frame (by decide) ?_
    | (with_reducible refine onlyChanges_foldl ?_ ?_; intro x y hx)
    | (extract_lets +onlyGivenNames x; refine imp_app (p := onlyChanges _ _ x) ?_ (fun hx => ?_); rotate_left; clear_value x; rotate_right)
    | extract_lets +onlyGivenNames x
    | split
    | dsimp only
    | subst x
    | (intro x))

theorem dropFlag_frame {i : Nat} {a0 b : Block} {ps : List Piece} (hp : [.agate] ⊆ ps)
    (h0 : onlyChanges ps a0 b) : onlyChanges ps a0 (dropFlag i b) := by
  refine onlyChanges_step ?_ hp h0
  unfold dropFlag
  repeat' (first
    | with_reducible assumption
    | with_reducible exact onlyChanges_refl _ _
    | with_reducible refine Block.modAgate_frame (by decide) ?_
    | (with_reducible refine onlyChanges_foldl ?_ ?_; intro x y hx)
    | (extract_lets +onlyGivenNames x; refine imp_app (p := onlyChanges _ _ x) ?_ (fun hx => ?_); rotate_left; clear_value x; rotate_right)
    | extract_lets +onlyGivenNames x
    | split
    | dsimp only
    | subst x
    | (intro x))

theorem execute_frame {w : Half} {n : Nat} {a0 b : Block} {ps : List Piece} (hp : [.agate, .ch, .trace] ⊆ ps)
    (h0 : onlyChanges ps a0 b) : onlyChanges ps a0 (execute w n b) := by
  refine onlyChanges_step ?_ hp h0
  unfold execute
  repeat' (first
    | with_reducible assumption
    | with_reducible exact onlyChanges_refl _ _
    | with_reducible refine dropFlag_frame (by decide) ?_
    | with_reducible refine raiseFlag_frame (by decide) ?_
    | with_reducible refine gangPull_frame (by decide) ?_
    | with_reducible refine doPull_frame (by decide) ?_
    | with_reducible refine gangPush_frame (by decide) ?_
    | with_reducible refine doPush_frame (by decide) ?_
    | with_reducible refine doSet_frame (by decide) ?_
    | with_reducible refine doMov_frame (by decide) ?_
    | with_reducible refine doOut_frame (by decide) ?_
    | with_reducible refine doIn_frame (by decide) ?_
    | with_reducible refine engMod_frame (by decide) ?_
    | with_reducible refine Block.modCh_frame (by decide) ?_
    | with_reducible refine Block.modAgate_frame (by decide) ?_
    | (with_reducible refine onlyChanges_foldl ?_ ?_; intro x y hx)
    | (extract_lets +onlyGivenNames x; refine imp_app (p := onlyChanges _ _ x) ?_ (fun hx => ?_); rotate_left; clear_value x; rotate_right)
    | extract_lets +onlyGivenNames x
    | split
    | dsimp only
    | subst x
    | (intro x))

theorem haltErr_frame {n : Nat} {e : EngineErr} {a0 b : Block} {ps : List Piece} (hp : [.agate] ⊆ ps)
    (h0 : onlyChanges ps a0 b) : onlyChanges ps a0 (haltErr n e b) := by
  refine onlyChanges_step ?_ hp h0
  unfold haltErr
  repeat' (first
    | with_reducible assumption
    | with_reducible exact onlyChanges_refl _ _
    | with_reducible refine engMod_frame (by decide) ?_
    | (with_reducible refine onlyChanges_foldl ?_ ?_; intro x y hx)
    | (extract_lets +onlyGivenNames x; refine imp_app (p := onlyChanges _ _ x) ?_ (fun hx => ?_); rotate_left; clear_value x; rotate_right)
    | extract_lets +onlyGivenNames x
    | split
    | dsimp only
    | subst x
    | (intro x))

theorem startCycle_frame {n : Nat} {a0 b : Block} {ps : List Piece} (hp : [.agate] ⊆ ps)
    (h0 : onlyChanges ps a0 b) : onlyChanges ps a0 (startCycle n b) := by
  refine onlyChanges_step ?_ hp h0
  unfold startCycle
  repeat' (first
    | with_reducible assumption
    | with_reducible exact onlyChanges_refl _ _
    | with_reducible refine engMod_frame (by decide) ?_
    | (with_reducible refine onlyChanges_foldl ?_ ?_; intro x y hx)
    | (extract_lets +onlyGivenNames x; refine imp_app (p := onlyChanges _ _ x) ?_ (fun hx => ?_); rotate_left; clear_value x; rotate_right)
    | extract_lets +onlyGivenNames x
    | split
    | dsimp only
    | subst x
    | (intro x))

theorem startDue_frame {a0 b : Block} {ps : List Piece} (hp : [.agate] ⊆ ps)
    (h0 : onlyChanges ps a0 b) : onlyChanges ps a0 (startDue b) := by
  refine onlyChanges_step ?_ hp h0
  unfold startDue
  repeat' (first
    | with_reducible assumption
    | with_reducible exact onlyChanges_refl _ _
    | with_reducible refine startCycle_frame (by decide) ?_
    | with_reducible refine Block.modAgate_frame (by decide) ?_
    | (with_reducible refine onlyChanges_foldl ?_ ?_; intro x y hx)
    | (extract_lets +onlyGivenNames x; refine imp_app (p := onlyChanges _ _ x) ?_ (fun hx => ?_); rotate_left; clear_value x; rotate_right)
    | extract_lets +onlyGivenNames x
    | split
    | dsimp only
    | subst x
    | (intro x))

theorem beginCycle_frame {a0 b : Block} {ps : List Piece} (hp : [.agate] ⊆ ps)
    (h0 : onlyChanges ps a0 b) : onlyChanges ps a0 (beginCycle b) := by
  refine onlyChanges_step ?_ hp h0
  unfold beginCycle
  repeat' (first
    | with_reducible assumption
    | with_reducible exact onlyChanges_refl _ _
    | with_reducible refine startDue_frame (by decide) ?_
    | with_reducible refine Block.modAgate_frame (by decide) ?_
    | (with_reducible refine onlyChanges_foldl ?_ ?_; intro x y hx)
    | (extract_lets +onlyGivenNames x; refine imp_app (p := onlyChanges _ _ x) ?_ (fun hx => ?_); rotate_left; clear_value x; rotate_right)
    | extract_lets +onlyGivenNames x
    | split
    | dsimp only
    | subst x
    | (intro x))

theorem cycleAt_frame {n : Nat} {joins : Bool} {a0 b : Block} {ps : List Piece} (hp : [.agate] ⊆ ps)
    (h0 : onlyChanges ps a0 b) : onlyChanges ps a0 (cycleAt n joins b) := by
  refine onlyChanges_step ?_ hp h0
  unfold cycleAt
  repeat' (first
    | with_reducible assumption
    | with_reducible exact onlyChanges_refl _ _
    | with_reducible refine beginCycle_frame (by decide) ?_
    | (with_reducible refine onlyChanges_foldl ?_ ?_; intro x y hx)
    | (extract_lets +onlyGivenNames x; refine imp_app (p := onlyChanges _ _ x) ?_ (fun hx => ?_); rotate_left; clear_value x; rotate_right)
    | extract_lets +onlyGivenNames x
    | split
    | dsimp only
    | subst x
    | (intro x))

theorem engineCycle_frame {n : Nat} {joins : Bool} {a0 b : Block} {ps : List Piece} (hp : [.agate, .ch, .trace] ⊆ ps)
    (h0 : onlyChanges ps a0 b) : onlyChanges ps a0 (engineCycle n joins b) := by
  refine onlyChanges_step ?_ hp h0
  unfold engineCycle
  repeat' (first
    | with_reducible assumption
    | with_reducible exact onlyChanges_refl _ _
    | with_reducible refine cycleAt_frame (by decide) ?_
    | with_reducible refine haltErr_frame (by decide) ?_
    | with_reducible refine execute_frame (by decide) ?_
    | with_reducible refine sideSet_frame (by decide) ?_
    | with_reducible refine engMod_frame (by decide) ?_
    | with_reducible refine Block.modAgate_frame (by decide) ?_
    | (with_reducible refine onlyChanges_foldl ?_ ?_; intro x y hx)
    | (extract_lets +onlyGivenNames x; refine imp_app (p := onlyChanges _ _ x) ?_ (fun hx => ?_); rotate_left; clear_value x; rotate_right)
    | extract_lets +onlyGivenNames x
    | split
    | dsimp only
    | subst x
    | (intro x))

theorem cycleIf_frame {kind : Half → Bool} {n : Nat} {joins : Bool} {a0 b : Block} {ps : List Piece} (hp : [.agate, .ch, .trace] ⊆ ps)
    (h0 : onlyChanges ps a0 b) : onlyChanges ps a0 (cycleIf kind n joins b) := by
  refine onlyChanges_step ?_ hp h0
  unfold cycleIf
  repeat' (first
    | with_reducible assumption
    | with_reducible exact onlyChanges_refl _ _
    | with_reducible refine engineCycle_frame (by decide) ?_
    | (with_reducible refine onlyChanges_foldl ?_ ?_; intro x y hx)
    | (extract_lets +onlyGivenNames x; refine imp_app (p := onlyChanges _ _ x) ?_ (fun hx => ?_); rotate_left; clear_value x; rotate_right)
    | extract_lets +onlyGivenNames x
    | split
    | dsimp only
    | subst x
    | (intro x))

theorem seqJmp_frame {n : Nat} {joins : Bool} {a0 b : Block} {ps : List Piece} (hp : [.agate, .ch, .trace] ⊆ ps)
    (h0 : onlyChanges ps a0 b) : onlyChanges ps a0 (seqJmp n joins b) := by
  refine onlyChanges_step ?_ hp h0
  unfold seqJmp
  repeat' (first
    | with_reducible assumption
    | with_reducible exact onlyChanges_refl _ _
    | with_reducible refine cycleIf_frame (by decide) ?_
    | (with_reducible refine onlyChanges_foldl ?_ ?_; intro x y hx)
    | (extract_lets +onlyGivenNames x; refine imp_app (p := onlyChanges _ _ x) ?_ (fun hx => ?_); rotate_left; clear_value x; rotate_right)
    | extract_lets +onlyGivenNames x
    | split
    | dsimp only
    | subst x
    | (intro x))

theorem seqWait_frame {n : Nat} {joins : Bool} {a0 b : Block} {ps : List Piece} (hp : [.agate, .ch, .trace] ⊆ ps)
    (h0 : onlyChanges ps a0 b) : onlyChanges ps a0 (seqWait n joins b) := by
  refine onlyChanges_step ?_ hp h0
  unfold seqWait
  repeat' (first
    | with_reducible assumption
    | with_reducible exact onlyChanges_refl _ _
    | with_reducible refine cycleIf_frame (by decide) ?_
    | (with_reducible refine onlyChanges_foldl ?_ ?_; intro x y hx)
    | (extract_lets +onlyGivenNames x; refine imp_app (p := onlyChanges _ _ x) ?_ (fun hx => ?_); rotate_left; clear_value x; rotate_right)
    | extract_lets +onlyGivenNames x
    | split
    | dsimp only
    | subst x
    | (intro x))

theorem seqIn_frame {n : Nat} {joins : Bool} {a0 b : Block} {ps : List Piece} (hp : [.agate, .ch, .trace] ⊆ ps)
    (h0 : onlyChanges ps a0 b) : onlyChanges ps a0 (seqIn n joins b) := by
  refine onlyChanges_step ?_ hp h0
  unfold seqIn
  repeat' (first
    | with_reducible assumption
    | with_reducible exact onlyChanges_refl _ _
    | with_reducible refine cycleIf_frame (by decide) ?_
    | (with_reducible refine onlyChanges_foldl ?_ ?_; intro x y hx)
    | (extract_lets +onlyGivenNames x; refine imp_app (p := onlyChanges _ _ x) ?_ (fun hx => ?_); rotate_left; clear_value x; rotate_right)
    | extract_lets +onlyGivenNames x
    | split
    | dsimp only
    | subst x
    | (intro x))

theorem seqOut_frame {n : Nat} {joins : Bool} {a0 b : Block} {ps : List Piece} (hp : [.agate, .ch, .trace] ⊆ ps)
    (h0 : onlyChanges ps a0 b) : onlyChanges ps a0 (seqOut n joins b) := by
  refine onlyChanges_step ?_ hp h0
  unfold seqOut
  repeat' (first
    | with_reducible assumption
    | with_reducible exact onlyChanges_refl _ _
    | with_reducible refine cycleIf_frame (by decide) ?_
    | (with_reducible refine onlyChanges_foldl ?_ ?_; intro x y hx)
    | (extract_lets +onlyGivenNames x; refine imp_app (p := onlyChanges _ _ x) ?_ (fun hx => ?_); rotate_left; clear_value x; rotate_right)
    | extract_lets +onlyGivenNames x
    | split
    | dsimp only
    | subst x
    | (intro x))

theorem seqPush_frame {n : Nat} {joins : Bool} {a0 b : Block} {ps : List Piece} (hp : [.agate, .ch, .trace] ⊆ ps)
    (h0 : onlyChanges ps a0 b) : onlyChanges ps a0 (seqPush n joins b) := by
  refine onlyChanges_step ?_ hp h0
  unfold seqPush
  repeat' (first
    | with_reducible assumption
    | with_reducible exact onlyChanges_refl _ _
    | with_reducible refine cycleIf_frame (by decide) ?_
    | (with_reducible refine onlyChanges_foldl ?_ ?_; intro x y hx)
    | (extract_lets +onlyGivenNames x; refine imp_app (p := onlyChanges _ _ x) ?_ (fun hx => ?_); rotate_left; clear_value x; rotate_right)
    | extract_lets +onlyGivenNames x
    | split
    | dsimp only
    | subst x
    | (intro x))

theorem seqPull_frame {n : Nat} {joins : Bool} {a0 b : Block} {ps : List Piece} (hp : [.agate, .ch, .trace] ⊆ ps)
    (h0 : onlyChanges ps a0 b) : onlyChanges ps a0 (seqPull n joins b) := by
  refine onlyChanges_step ?_ hp h0
  unfold seqPull
  repeat' (first
    | with_reducible assumption
    | with_reducible exact onlyChanges_refl _ _
    | with_reducible refine cycleIf_frame (by decide) ?_
    | (with_reducible refine onlyChanges_foldl ?_ ?_; intro x y hx)
    | (extract_lets +onlyGivenNames x; refine imp_app (p := onlyChanges _ _ x) ?_ (fun hx => ?_); rotate_left; clear_value x; rotate_right)
    | extract_lets +onlyGivenNames x
    | split
    | dsimp only
    | subst x
    | (intro x))

theorem seqMov_frame {n : Nat} {joins : Bool} {a0 b : Block} {ps : List Piece} (hp : [.agate, .ch, .trace] ⊆ ps)
    (h0 : onlyChanges ps a0 b) : onlyChanges ps a0 (seqMov n joins b) := by
  refine onlyChanges_step ?_ hp h0
  unfold seqMov
  repeat' (first
    | with_reducible assumption
    | with_reducible exact onlyChanges_refl _ _
    | with_reducible refine cycleIf_frame (by decide) ?_
    | (with_reducible refine onlyChanges_foldl ?_ ?_; intro x y hx)
    | (extract_lets +onlyGivenNames x; refine imp_app (p := onlyChanges _ _ x) ?_ (fun hx => ?_); rotate_left; clear_value x; rotate_right)
    | extract_lets +onlyGivenNames x
    | split
    | dsimp only
    | subst x
    | (intro x))

theorem seqSet_frame {n : Nat} {joins : Bool} {a0 b : Block} {ps : List Piece} (hp : [.agate, .ch, .trace] ⊆ ps)
    (h0 : onlyChanges ps a0 b) : onlyChanges ps a0 (seqSet n joins b) := by
  refine onlyChanges_step ?_ hp h0
  unfold seqSet
  repeat' (first
    | with_reducible assumption
    | with_reducible exact onlyChanges_refl _ _
    | with_reducible refine cycleIf_frame (by decide) ?_
    | (with_reducible refine onlyChanges_foldl ?_ ?_; intro x y hx)
    | (extract_lets +onlyGivenNames x; refine imp_app (p := onlyChanges _ _ x) ?_ (fun hx => ?_); rotate_left; clear_value x; rotate_right)
    | extract_lets +onlyGivenNames x
    | split
    | dsimp only
    | subst x
    | (intro x))

theorem flagRaise_frame {n : Nat} {joins : Bool} {a0 b : Block} {ps : List Piece} (hp : [.agate, .ch, .trace] ⊆ ps)
    (h0 : onlyChanges ps a0 b) : onlyChanges ps a0 (flagRaise n joins b) := by
  refine onlyChanges_step ?_ hp h0
  unfold flagRaise
  repeat' (first
    | with_reducible assumption
    | with_reducible exact onlyChanges_refl _ _
    | with_reducible refine cycleIf_frame (by decide) ?_
    | (with_reducible refine onlyChanges_foldl ?_ ?_; intro x y hx)
    | (extract_lets +onlyGivenNames x; refine imp_app (p := onlyChanges _ _ x) ?_ (fun hx => ?_); rotate_left; clear_value x; rotate_right)
    | extract_lets +onlyGivenNames x
    | split
    | dsimp only
    | subst x
    | (intro x))

theorem flagDrop_frame {n : Nat} {joins : Bool} {a0 b : Block} {ps : List Piece} (hp : [.agate, .ch, .trace] ⊆ ps)
    (h0 : onlyChanges ps a0 b) : onlyChanges ps a0 (flagDrop n joins b) := by
  refine onlyChanges_step ?_ hp h0
  unfold flagDrop
  repeat' (first
    | with_reducible assumption
    | with_reducible exact onlyChanges_refl _ _
    | with_reducible refine cycleIf_frame (by decide) ?_
    | (with_reducible refine onlyChanges_foldl ?_ ?_; intro x y hx)
    | (extract_lets +onlyGivenNames x; refine imp_app (p := onlyChanges _ _ x) ?_ (fun hx => ?_); rotate_left; clear_value x; rotate_right)
    | extract_lets +onlyGivenNames x
    | split
    | dsimp only
    | subst x
    | (intro x))

theorem flagTake_frame {n : Nat} {joins : Bool} {a0 b : Block} {ps : List Piece} (hp : [.agate, .ch, .trace] ⊆ ps)
    (h0 : onlyChanges ps a0 b) : onlyChanges ps a0 (flagTake n joins b) := by
  refine onlyChanges_step ?_ hp h0
  unfold flagTake
  repeat' (first
    | with_reducible assumption
    | with_reducible exact onlyChanges_refl _ _
    | with_reducible refine cycleIf_frame (by decide) ?_
    | (with_reducible refine onlyChanges_foldl ?_ ?_; intro x y hx)
    | (extract_lets +onlyGivenNames x; refine imp_app (p := onlyChanges _ _ x) ?_ (fun hx => ?_); rotate_left; clear_value x; rotate_right)
    | extract_lets +onlyGivenNames x
    | split
    | dsimp only
    | subst x
    | (intro x))

theorem flagTrig_frame {n : Nat} {joins : Bool} {a0 b : Block} {ps : List Piece} (hp : [.agate, .ch, .trace] ⊆ ps)
    (h0 : onlyChanges ps a0 b) : onlyChanges ps a0 (flagTrig n joins b) := by
  refine onlyChanges_step ?_ hp h0
  unfold flagTrig
  repeat' (first
    | with_reducible assumption
    | with_reducible exact onlyChanges_refl _ _
    | with_reducible refine cycleIf_frame (by decide) ?_
    | (with_reducible refine onlyChanges_foldl ?_ ?_; intro x y hx)
    | (extract_lets +onlyGivenNames x; refine imp_app (p := onlyChanges _ _ x) ?_ (fun hx => ?_); rotate_left; clear_value x; rotate_right)
    | extract_lets +onlyGivenNames x
    | split
    | dsimp only
    | subst x
    | (intro x))

theorem seqCad_frame {n : Nat} {joins : Bool} {a0 b : Block} {ps : List Piece} (hp : [.agate, .ch, .trace] ⊆ ps)
    (h0 : onlyChanges ps a0 b) : onlyChanges ps a0 (seqCad n joins b) := by
  refine onlyChanges_step ?_ hp h0
  unfold seqCad
  repeat' (first
    | with_reducible assumption
    | with_reducible exact onlyChanges_refl _ _
    | with_reducible refine cycleIf_frame (by decide) ?_
    | (with_reducible refine onlyChanges_foldl ?_ ?_; intro x y hx)
    | (extract_lets +onlyGivenNames x; refine imp_app (p := onlyChanges _ _ x) ?_ (fun hx => ?_); rotate_left; clear_value x; rotate_right)
    | extract_lets +onlyGivenNames x
    | split
    | dsimp only
    | subst x
    | (intro x))

theorem illegalOpcode_frame {n : Nat} {joins : Bool} {a0 b : Block} {ps : List Piece} (hp : [.agate, .ch, .trace] ⊆ ps)
    (h0 : onlyChanges ps a0 b) : onlyChanges ps a0 (illegalOpcode n joins b) := by
  refine onlyChanges_step ?_ hp h0
  unfold illegalOpcode
  repeat' (first
    | with_reducible assumption
    | with_reducible exact onlyChanges_refl _ _
    | with_reducible refine engineCycle_frame (by decide) ?_
    | with_reducible refine cycleAt_frame (by decide) ?_
    | (with_reducible refine onlyChanges_foldl ?_ ?_; intro x y hx)
    | (extract_lets +onlyGivenNames x; refine imp_app (p := onlyChanges _ _ x) ?_ (fun hx => ?_); rotate_left; clear_value x; rotate_right)
    | extract_lets +onlyGivenNames x
    | split
    | dsimp only
    | subst x
    | (intro x))

theorem enableEngine_frame {n : Nat} {a0 b : Block} {ps : List Piece} (hp : [.agate] ⊆ ps)
    (h0 : onlyChanges ps a0 b) : onlyChanges ps a0 (enableEngine n b) := by
  refine onlyChanges_step ?_ hp h0
  unfold enableEngine
  repeat' (first
    | with_reducible assumption
    | with_reducible exact onlyChanges_refl _ _
    | with_reducible refine engMod_frame (by decide) ?_
    | with_reducible refine Block.modAgate_frame (by decide) ?_
    | (with_reducible refine onlyChanges_foldl ?_ ?_; intro x y hx)
    | (extract_lets +onlyGivenNames x; refine imp_app (p := onlyChanges _ _ x) ?_ (fun hx => ?_); rotate_left; clear_value x; rotate_right)
    | extract_lets +onlyGivenNames x
    | split
    | dsimp only
    | subst x
    | (intro x))

theorem haltEngine_frame {n : Nat} {a0 b : Block} {ps : List Piece} (hp : [.agate] ⊆ ps)
    (h0 : onlyChanges ps a0 b) : onlyChanges ps a0 (haltEngine n b) := by
  refine onlyChanges_step ?_ hp h0
  unfold haltEngine
  repeat' (first
    | with_reducible assumption
    | with_reducible exact onlyChanges_refl _ _
    | with_reducible refine engMod_frame (by decide) ?_
    | (with_reducible refine onlyChanges_foldl ?_ ?_; intro x y hx)
    | (extract_lets +onlyGivenNames x; refine imp_app (p := onlyChanges _ _ x) ?_ (fun hx => ?_); rotate_left; clear_value x; rotate_right)
    | extract_lets +onlyGivenNames x
    | split
    | dsimp only
    | subst x
    | (intro x))

theorem clearGroup_frame {g : Nat} {a0 b : Block} {ps : List Piece} (hp : [.agate] ⊆ ps)
    (h0 : onlyChanges ps a0 b) : onlyChanges ps a0 (clearGroup g b) := by
  refine onlyChanges_step ?_ hp h0
  unfold clearGroup
  repeat' (first
    | with_reducible assumption
    | with_reducible exact onlyChanges_refl _ _
    | with_reducible refine gangMod_frame (by decide) ?_
    | with_reducible refine engMod_frame (by decide) ?_
    | (with_reducible refine onlyChanges_foldl ?_ ?_; intro x y hx)
    | (extract_lets +onlyGivenNames x; refine imp_app (p := onlyChanges _ _ x) ?_ (fun hx => ?_); rotate_left; clear_value x; rotate_right)
    | extract_lets +onlyGivenNames x
    | split
    | dsimp only
    | subst x
    | (intro x))

theorem writeGang_frame {g : Nat} {v : Bool} {a0 b : Block} {ps : List Piece} (hp : [.agate] ⊆ ps)
    (h0 : onlyChanges ps a0 b) : onlyChanges ps a0 (writeGang g v b) := by
  refine onlyChanges_step ?_ hp h0
  unfold writeGang
  repeat' (first
    | with_reducible assumption
    | with_reducible exact onlyChanges_refl _ _
    | with_reducible refine clearGroup_frame (by decide) ?_
    | with_reducible refine Block.modAgate_frame (by decide) ?_
    | (with_reducible refine onlyChanges_foldl ?_ ?_; intro x y hx)
    | (extract_lets +onlyGivenNames x; refine imp_app (p := onlyChanges _ _ x) ?_ (fun hx => ?_); rotate_left; clear_value x; rotate_right)
    | extract_lets +onlyGivenNames x
    | split
    | dsimp only
    | subst x
    | (intro x))

theorem wakeSqe_frame {n : Nat} {a0 b : Block} {ps : List Piece} (hp : [.posts, .topaz] ⊆ ps)
    (h0 : onlyChanges ps a0 b) : onlyChanges ps a0 (wakeSqe n b) := by
  refine onlyChanges_step ?_ hp h0
  unfold wakeSqe
  repeat' (first
    | with_reducible assumption
    | with_reducible exact onlyChanges_refl _ _
    | with_reducible refine restampDescs_frame (by decide) ?_
    | with_reducible refine wakeUnit_frame (by decide) ?_
    | (with_reducible refine onlyChanges_foldl ?_ ?_; intro x y hx)
    | (extract_lets +onlyGivenNames x; refine imp_app (p := onlyChanges _ _ x) ?_ (fun hx => ?_); rotate_left; clear_value x; rotate_right)
    | extract_lets +onlyGivenNames x
    | split
    | dsimp only
    | subst x
    | (intro x))

theorem writeSeqCtrl_frame {w : Word} {a0 b : Block} {ps : List Piece} (hp : [.posts, .agate, .topaz] ⊆ ps)
    (h0 : onlyChanges ps a0 b) : onlyChanges ps a0 (writeSeqCtrl w b) := by
  refine onlyChanges_step ?_ hp h0
  unfold writeSeqCtrl
  repeat' (first
    | with_reducible assumption
    | with_reducible exact onlyChanges_refl _ _
    | with_reducible refine wakeSqe_frame (by decide) ?_
    | with_reducible refine writeGang_frame (by decide) ?_
    | with_reducible refine haltEngine_frame (by decide) ?_
    | with_reducible refine enableEngine_frame (by decide) ?_
    | with_reducible refine startDue_frame (by decide) ?_
    | (with_reducible refine onlyChanges_foldl ?_ ?_; intro x y hx)
    | (extract_lets +onlyGivenNames x; refine imp_app (p := onlyChanges _ _ x) ?_ (fun hx => ?_); rotate_left; clear_value x; rotate_right)
    | extract_lets +onlyGivenNames x
    | split
    | dsimp only
    | subst x
    | (intro x))

theorem engineEnable_frame {w : Word} {a0 b : Block} {ps : List Piece} (hp : [.posts, .agate, .topaz] ⊆ ps)
    (h0 : onlyChanges ps a0 b) : onlyChanges ps a0 (engineEnable w b) := by
  refine onlyChanges_step ?_ hp h0
  unfold engineEnable
  repeat' (first
    | with_reducible assumption
    | with_reducible exact onlyChanges_refl _ _
    | with_reducible refine writeSeqCtrl_frame (by decide) ?_
    | (with_reducible refine onlyChanges_foldl ?_ ?_; intro x y hx)
    | (extract_lets +onlyGivenNames x; refine imp_app (p := onlyChanges _ _ x) ?_ (fun hx => ?_); rotate_left; clear_value x; rotate_right)
    | extract_lets +onlyGivenNames x
    | split
    | dsimp only
    | subst x
    | (intro x))

theorem engineHalt_frame {w : Word} {a0 b : Block} {ps : List Piece} (hp : [.posts, .agate, .topaz] ⊆ ps)
    (h0 : onlyChanges ps a0 b) : onlyChanges ps a0 (engineHalt w b) := by
  refine onlyChanges_step ?_ hp h0
  unfold engineHalt
  repeat' (first
    | with_reducible assumption
    | with_reducible exact onlyChanges_refl _ _
    | with_reducible refine writeSeqCtrl_frame (by decide) ?_
    | (with_reducible refine onlyChanges_foldl ?_ ?_; intro x y hx)
    | (extract_lets +onlyGivenNames x; refine imp_app (p := onlyChanges _ _ x) ?_ (fun hx => ?_); rotate_left; clear_value x; rotate_right)
    | extract_lets +onlyGivenNames x
    | split
    | dsimp only
    | subst x
    | (intro x))

theorem gangChange_frame {w : Word} {a0 b : Block} {ps : List Piece} (hp : [.posts, .agate, .topaz] ⊆ ps)
    (h0 : onlyChanges ps a0 b) : onlyChanges ps a0 (gangChange w b) := by
  refine onlyChanges_step ?_ hp h0
  unfold gangChange
  repeat' (first
    | with_reducible assumption
    | with_reducible exact onlyChanges_refl _ _
    | with_reducible refine writeSeqCtrl_frame (by decide) ?_
    | (with_reducible refine onlyChanges_foldl ?_ ?_; intro x y hx)
    | (extract_lets +onlyGivenNames x; refine imp_app (p := onlyChanges _ _ x) ?_ (fun hx => ?_); rotate_left; clear_value x; rotate_right)
    | extract_lets +onlyGivenNames x
    | split
    | dsimp only
    | subst x
    | (intro x))

theorem seqIoEdge_frame {p : Nat} {level : Bool} {a0 b : Block} {ps : List Piece} (hp : [.agate] ⊆ ps)
    (h0 : onlyChanges ps a0 b) : onlyChanges ps a0 (seqIoEdge p level b) := by
  refine onlyChanges_step ?_ hp h0
  unfold seqIoEdge
  repeat' (first
    | with_reducible assumption
    | with_reducible exact onlyChanges_refl _ _
    | with_reducible refine startDue_frame (by decide) ?_
    | with_reducible refine Block.modAgate_frame (by decide) ?_
    | (with_reducible refine onlyChanges_foldl ?_ ?_; intro x y hx)
    | (extract_lets +onlyGivenNames x; refine imp_app (p := onlyChanges _ _ x) ?_ (fun hx => ?_); rotate_left; clear_value x; rotate_right)
    | extract_lets +onlyGivenNames x
    | split
    | dsimp only
    | subst x
    | (intro x))

theorem trigInEdge_frame {joins : Bool} {a0 b : Block} {ps : List Piece} (hp : [.agate, .ch, .trace] ⊆ ps)
    (h0 : onlyChanges ps a0 b) : onlyChanges ps a0 (trigInEdge joins b) := by
  refine onlyChanges_step ?_ hp h0
  unfold trigInEdge
  repeat' (first
    | with_reducible assumption
    | with_reducible exact onlyChanges_refl _ _
    | with_reducible refine startDue_frame (by decide) ?_
    | with_reducible refine Block.modCh_frame (by decide) ?_
    | with_reducible refine Block.modAgate_frame (by decide) ?_
    | (with_reducible refine onlyChanges_foldl ?_ ?_; intro x y hx)
    | (extract_lets +onlyGivenNames x; refine imp_app (p := onlyChanges _ _ x) ?_ (fun hx => ?_); rotate_left; clear_value x; rotate_right)
    | extract_lets +onlyGivenNames x
    | split
    | dsimp only
    | subst x
    | (intro x))

theorem trigInInactive_frame {a0 b : Block} {ps : List Piece} (hp : [.agate] ⊆ ps)
    (h0 : onlyChanges ps a0 b) : onlyChanges ps a0 (trigInInactive b) := by
  refine onlyChanges_step ?_ hp h0
  unfold trigInInactive
  repeat' (first
    | with_reducible assumption
    | with_reducible exact onlyChanges_refl _ _
    | with_reducible refine startDue_frame (by decide) ?_
    | with_reducible refine Block.modAgate_frame (by decide) ?_
    | (with_reducible refine onlyChanges_foldl ?_ ?_; intro x y hx)
    | (extract_lets +onlyGivenNames x; refine imp_app (p := onlyChanges _ _ x) ?_ (fun hx => ?_); rotate_left; clear_value x; rotate_right)
    | extract_lets +onlyGivenNames x
    | split
    | dsimp only
    | subst x
    | (intro x))

theorem gioTrigWrite_frame {w : Word} {a0 b : Block} {ps : List Piece} (hp : [.agate, .regs] ⊆ ps)
    (h0 : onlyChanges ps a0 b) : onlyChanges ps a0 (gioTrigWrite w b) := by
  refine onlyChanges_step ?_ hp h0
  unfold gioTrigWrite
  repeat' (first
    | with_reducible assumption
    | with_reducible exact onlyChanges_refl _ _
    | with_reducible refine Block.setReg_frame (by decide) ?_
    | with_reducible refine Block.modAgate_frame (by decide) ?_
    | (with_reducible refine onlyChanges_foldl ?_ ?_; intro x y hx)
    | (extract_lets +onlyGivenNames x; refine imp_app (p := onlyChanges _ _ x) ?_ (fun hx => ?_); rotate_left; clear_value x; rotate_right)
    | extract_lets +onlyGivenNames x
    | split
    | dsimp only
    | subst x
    | (intro x))

theorem cadenceEventAgate_frame {lost : Nat} {a0 b : Block} {ps : List Piece} (hp : [.posts, .agate, .evr, .topaz, .ch, .trace, .out] ⊆ ps)
    (h0 : onlyChanges ps a0 b) : onlyChanges ps a0 (cadenceEventAgate lost b) := by
  refine onlyChanges_step ?_ hp h0
  unfold cadenceEventAgate
  repeat' (first
    | with_reducible assumption
    | with_reducible exact onlyChanges_refl _ _
    | with_reducible refine startDue_frame (by decide) ?_
    | with_reducible refine engMod_frame (by decide) ?_
    | with_reducible refine eventGap_frame (by decide) ?_
    | with_reducible refine Block.modCh_frame (by decide) ?_
    | (with_reducible refine onlyChanges_foldl ?_ ?_; intro x y hx)
    | (extract_lets +onlyGivenNames x; refine imp_app (p := onlyChanges _ _ x) ?_ (fun hx => ?_); rotate_left; clear_value x; rotate_right)
    | extract_lets +onlyGivenNames x
    | split
    | dsimp only
    | subst x
    | (intro x))

theorem gangCtrlWrite_frame {g : Nat} {data : List (Nat × Word)} {w : Word} {a0 b : Block} {ps : List Piece} (hp : [.agate, .out] ⊆ ps)
    (h0 : onlyChanges ps a0 b) : onlyChanges ps a0 (gangCtrlWrite g data w b) := by
  refine onlyChanges_step ?_ hp h0
  unfold gangCtrlWrite
  repeat' (first
    | with_reducible assumption
    | with_reducible exact onlyChanges_refl _ _
    | with_reducible refine startDue_frame (by decide) ?_
    | with_reducible refine gangMod_frame (by decide) ?_
    | (with_reducible refine onlyChanges_foldl ?_ ?_; intro x y hx)
    | (extract_lets +onlyGivenNames x; refine imp_app (p := onlyChanges _ _ x) ?_ (fun hx => ?_); rotate_left; clear_value x; rotate_right)
    | extract_lets +onlyGivenNames x
    | split
    | dsimp only
    | subst x
    | (intro x))

theorem endTransfer_frame {t : Transfer} {st : Nat} {a0 b : Block} {ps : List Piece} (hp : [.posts, .agate, .evr, .trace, .out] ⊆ ps)
    (h0 : onlyChanges ps a0 b) : onlyChanges ps a0 (endTransfer t st b) := by
  refine onlyChanges_step ?_ hp h0
  unfold endTransfer
  repeat' (first
    | with_reducible assumption
    | with_reducible exact onlyChanges_refl _ _
    | with_reducible refine finishCtrl_frame (by decide) ?_
    | with_reducible refine Block.modAgate_frame (by decide) ?_
    | (with_reducible refine onlyChanges_foldl ?_ ?_; intro x y hx)
    | (extract_lets +onlyGivenNames x; refine imp_app (p := onlyChanges _ _ x) ?_ (fun hx => ?_); rotate_left; clear_value x; rotate_right)
    | extract_lets +onlyGivenNames x
    | split
    | dsimp only
    | subst x
    | (intro x))

theorem keepTransfer_frame {t : Transfer} {a0 b : Block} {ps : List Piece} (hp : [.posts, .agate, .evr, .trace, .out] ⊆ ps)
    (h0 : onlyChanges ps a0 b) : onlyChanges ps a0 (keepTransfer t b) := by
  refine onlyChanges_step ?_ hp h0
  unfold keepTransfer
  repeat' (first
    | with_reducible assumption
    | with_reducible exact onlyChanges_refl _ _
    | with_reducible refine endTransfer_frame (by decide) ?_
    | with_reducible refine Block.modAgate_frame (by decide) ?_
    | (with_reducible refine onlyChanges_foldl ?_ ?_; intro x y hx)
    | (extract_lets +onlyGivenNames x; refine imp_app (p := onlyChanges _ _ x) ?_ (fun hx => ?_); rotate_left; clear_value x; rotate_right)
    | extract_lets +onlyGivenNames x
    | split
    | dsimp only
    | subst x
    | (intro x))

theorem moveTx_frame {t : Transfer} {a0 b : Block} {ps : List Piece} (hp : [.posts, .agate, .evr, .trace, .out] ⊆ ps)
    (h0 : onlyChanges ps a0 b) : onlyChanges ps a0 (moveTx t b) := by
  refine onlyChanges_step ?_ hp h0
  unfold moveTx
  repeat' (first
    | with_reducible assumption
    | with_reducible exact onlyChanges_refl _ _
    | with_reducible refine keepTransfer_frame (by decide) ?_
    | with_reducible refine startDue_frame (by decide) ?_
    | with_reducible refine engMod_frame (by decide) ?_
    | (with_reducible refine onlyChanges_foldl ?_ ?_; intro x y hx)
    | (extract_lets +onlyGivenNames x; refine imp_app (p := onlyChanges _ _ x) ?_ (fun hx => ?_); rotate_left; clear_value x; rotate_right)
    | extract_lets +onlyGivenNames x
    | split
    | dsimp only
    | subst x
    | (intro x))

theorem moveRx_frame {t : Transfer} {a0 b : Block} {ps : List Piece} (hp : [.posts, .agate, .evr, .trace, .out] ⊆ ps)
    (h0 : onlyChanges ps a0 b) : onlyChanges ps a0 (moveRx t b) := by
  refine onlyChanges_step ?_ hp h0
  unfold moveRx
  repeat' (first
    | with_reducible assumption
    | with_reducible exact onlyChanges_refl _ _
    | with_reducible refine keepTransfer_frame (by decide) ?_
    | with_reducible refine startDue_frame (by decide) ?_
    | with_reducible refine engMod_frame (by decide) ?_
    | with_reducible refine Block.hostWrite_frame (by decide) ?_
    | (with_reducible refine onlyChanges_foldl ?_ ?_; intro x y hx)
    | (extract_lets +onlyGivenNames x; refine imp_app (p := onlyChanges _ _ x) ?_ (fun hx => ?_); rotate_left; clear_value x; rotate_right)
    | extract_lets +onlyGivenNames x
    | split
    | dsimp only
    | subst x
    | (intro x))

theorem moveProgram_frame {cycles : Nat} {t : Transfer} {a0 b : Block} {ps : List Piece} (hp : [.posts, .agate, .evr, .trace, .out] ⊆ ps)
    (h0 : onlyChanges ps a0 b) : onlyChanges ps a0 (moveProgram cycles t b) := by
  refine onlyChanges_step ?_ hp h0
  unfold moveProgram
  repeat' (first
    | with_reducible assumption
    | with_reducible exact onlyChanges_refl _ _
    | with_reducible refine keepTransfer_frame (by decide) ?_
    | with_reducible refine startDue_frame (by decide) ?_
    | with_reducible refine Block.modAgate_frame (by decide) ?_
    | (with_reducible refine onlyChanges_foldl ?_ ?_; intro x y hx)
    | (extract_lets +onlyGivenNames x; refine imp_app (p := onlyChanges _ _ x) ?_ (fun hx => ?_); rotate_left; clear_value x; rotate_right)
    | extract_lets +onlyGivenNames x
    | split
    | dsimp only
    | subst x
    | (intro x))

theorem seqTransfer_frame {op : TransferOp} {codes : List Nat} {desc : Nat} {buf : Option (List Byte)}
    {move : Transfer → Block → Block} {a0 b : Block} {ps : List Piece} (hp : [.posts, .agate, .evr, .topaz, .trace, .out] ⊆ ps)
    (hm : ∀ t x, onlyChanges ps a0 x → onlyChanges ps a0 (move t x)) (h : onlyChanges ps a0 b) :
    onlyChanges ps a0 (seqTransfer op codes desc buf move b) := by
  unfold seqTransfer
  repeat' (first
    | with_reducible assumption
    | with_reducible refine hm _ _ ?_
    | with_reducible refine wakeSqe_frame (List.Subset.trans (by decide) hp) ?_
    | with_reducible refine endTransfer_frame (List.Subset.trans (by decide) hp) ?_
    | with_reducible refine finishCtrl_frame (List.Subset.trans (by decide) hp) ?_
    | split)

theorem seqTransferTx_frame {desc : Nat} {buf : Option (List Byte)} {a0 b : Block} {ps : List Piece} (hp : [.posts, .agate, .evr, .topaz, .trace, .out] ⊆ ps)
    (h0 : onlyChanges ps a0 b) : onlyChanges ps a0 (seqTransferTx desc buf b) := by
  refine onlyChanges_step ?_ hp h0
  unfold seqTransferTx
  repeat' (first
    | with_reducible assumption
    | with_reducible exact onlyChanges_refl _ _
    | with_reducible refine seqTransfer_frame (by decide) ?_ ?_
    | with_reducible refine moveTx_frame (by decide) ?_
    | (with_reducible refine onlyChanges_foldl ?_ ?_; intro x y hx)
    | (extract_lets +onlyGivenNames x; refine imp_app (p := onlyChanges _ _ x) ?_ (fun hx => ?_); rotate_left; clear_value x; rotate_right)
    | extract_lets +onlyGivenNames x
    | split
    | dsimp only
    | subst x
    | (intro x))

theorem seqTransferRx_frame {desc : Nat} {a0 b : Block} {ps : List Piece} (hp : [.posts, .agate, .evr, .topaz, .trace, .out] ⊆ ps)
    (h0 : onlyChanges ps a0 b) : onlyChanges ps a0 (seqTransferRx desc b) := by
  refine onlyChanges_step ?_ hp h0
  unfold seqTransferRx
  repeat' (first
    | with_reducible assumption
    | with_reducible exact onlyChanges_refl _ _
    | with_reducible refine seqTransfer_frame (by decide) ?_ ?_
    | with_reducible refine moveRx_frame (by decide) ?_
    | (with_reducible refine onlyChanges_foldl ?_ ?_; intro x y hx)
    | (extract_lets +onlyGivenNames x; refine imp_app (p := onlyChanges _ _ x) ?_ (fun hx => ?_); rotate_left; clear_value x; rotate_right)
    | extract_lets +onlyGivenNames x
    | split
    | dsimp only
    | subst x
    | (intro x))

theorem seqTransferProgram_frame {desc : Nat} {buf : Option (List Byte)} {cycles : Nat} {a0 b : Block} {ps : List Piece} (hp : [.posts, .agate, .evr, .topaz, .trace, .out] ⊆ ps)
    (h0 : onlyChanges ps a0 b) : onlyChanges ps a0 (seqTransferProgram desc buf cycles b) := by
  refine onlyChanges_step ?_ hp h0
  unfold seqTransferProgram
  repeat' (first
    | with_reducible assumption
    | with_reducible exact onlyChanges_refl _ _
    | with_reducible refine seqTransfer_frame (by decide) ?_ ?_
    | with_reducible refine moveProgram_frame (by decide) ?_
    | (with_reducible refine onlyChanges_foldl ?_ ?_; intro x y hx)
    | (extract_lets +onlyGivenNames x; refine imp_app (p := onlyChanges _ _ x) ?_ (fun hx => ?_); rotate_left; clear_value x; rotate_right)
    | extract_lets +onlyGivenNames x
    | split
    | dsimp only
    | subst x
    | (intro x))

theorem seqTransferTimeout_frame {desc : Nat} {a0 b : Block} {ps : List Piece} (hp : [.posts, .agate, .evr, .trace, .out] ⊆ ps)
    (h0 : onlyChanges ps a0 b) : onlyChanges ps a0 (seqTransferTimeout desc b) := by
  refine onlyChanges_step ?_ hp h0
  unfold seqTransferTimeout
  repeat' (first
    | with_reducible assumption
    | with_reducible exact onlyChanges_refl _ _
    | with_reducible refine endTransfer_frame (by decide) ?_
    | with_reducible refine finishCtrl_frame (by decide) ?_
    | (with_reducible refine onlyChanges_foldl ?_ ?_; intro x y hx)
    | (extract_lets +onlyGivenNames x; refine imp_app (p := onlyChanges _ _ x) ?_ (fun hx => ?_); rotate_left; clear_value x; rotate_right)
    | extract_lets +onlyGivenNames x
    | split
    | dsimp only
    | subst x
    | (intro x))

end Sys2Proof.Machine
end

