-- ==== Sys2Proof/Laws/FrameBeryl.lean ====
section
/-! SUPPORT. Frames of the operations of Thermal, Otp, Recorder, Replay, Cold. -/

namespace Sys2Proof.Machine

theorem modThm_frame {f} {a b : Block} {ps : List Piece} (hp : [.thm] ⊆ ps) (h : onlyChanges ps a b) :
    onlyChanges ps a (modThm f b) := by
  refine onlyChanges_step ?_ hp h
  refine ⟨fun p hp => ?_⟩;  cases p <;> first | exact rfl | exact absurd hp (by decide) | exact ⟨rfl, rfl, rfl, rfl⟩ | exact ⟨rfl, rfl, rfl, rfl, rfl, rfl, rfl, rfl, rfl⟩

theorem berylEvent_frame {code : Nat} {data : List Nat} {a0 b : Block} {ps : List Piece} (hp : [.ch, .trace] ⊆ ps)
    (h0 : onlyChanges ps a0 b) : onlyChanges ps a0 (berylEvent code data b) := by
  refine onlyChanges_step ?_ hp h0
  unfold berylEvent
  repeat' (first
    | with_reducible assumption
    | with_reducible exact onlyChanges_refl _ _
    | with_reducible refine Block.modCh_frame (by decide) ?_
    | (with_reducible refine onlyChanges_foldl ?_ ?_; intro x y hx)
    | (extract_lets +onlyGivenNames x; refine imp_app (p := onlyChanges _ _ x) ?_ (fun hx => ?_); rotate_left; clear_value x; rotate_right)
    | extract_lets +onlyGivenNames x
    | split
    | dsimp only
    | subst x
    | (intro x))

theorem tellThermal_frame {g : Nat} {z : Nat} {r : Int} {a0 b : Block} {ps : List Piece} (hp : [.evr, .ch, .trace] ⊆ ps)
    (h0 : onlyChanges ps a0 b) : onlyChanges ps a0 (tellThermal g z r b) := by
  refine onlyChanges_step ?_ hp h0
  unfold tellThermal
  repeat' (first
    | with_reducible assumption
    | with_reducible exact onlyChanges_refl _ _
    | with_reducible refine berylEvent_frame (by decide) ?_
    | with_reducible refine Block.logEvr_frame (by decide) ?_
    | (with_reducible refine onlyChanges_foldl ?_ ?_; intro x y hx)
    | (extract_lets +onlyGivenNames x; refine imp_app (p := onlyChanges _ _ x) ?_ (fun hx => ?_); rotate_left; clear_value x; rotate_right)
    | extract_lets +onlyGivenNames x
    | split
    | dsimp only
    | subst x
    | (intro x))

theorem setGroup_frame {g : Nat} {z : Nat} {r : Int} {force : Bool} {a0 b : Block} {ps : List Piece} (hp : [.thm, .evr, .ch, .trace] ⊆ ps)
    (h0 : onlyChanges ps a0 b) : onlyChanges ps a0 (setGroup g z r force b) := by
  refine onlyChanges_step ?_ hp h0
  unfold setGroup
  repeat' (first
    | with_reducible assumption
    | with_reducible exact onlyChanges_refl _ _
    | with_reducible refine tellThermal_frame (by decide) ?_
    | with_reducible refine modThm_frame (by decide) ?_
    | (with_reducible refine onlyChanges_foldl ?_ ?_; intro x y hx)
    | (extract_lets +onlyGivenNames x; refine imp_app (p := onlyChanges _ _ x) ?_ (fun hx => ?_); rotate_left; clear_value x; rotate_right)
    | extract_lets +onlyGivenNames x
    | split
    | dsimp only
    | subst x
    | (intro x))

theorem sendStep_frame {t : Nat} {a0 b : Block} {ps : List Piece} (hp : [.thm, .ch, .trace] ⊆ ps)
    (h0 : onlyChanges ps a0 b) : onlyChanges ps a0 (sendStep t b) := by
  refine onlyChanges_step ?_ hp h0
  unfold sendStep
  repeat' (first
    | with_reducible assumption
    | with_reducible exact onlyChanges_refl _ _
    | with_reducible refine modThm_frame (by decide) ?_
    | with_reducible refine Block.modCh_frame (by decide) ?_
    | (with_reducible refine onlyChanges_foldl ?_ ?_; intro x y hx)
    | (extract_lets +onlyGivenNames x; refine imp_app (p := onlyChanges _ _ x) ?_ (fun hx => ?_); rotate_left; clear_value x; rotate_right)
    | extract_lets +onlyGivenNames x
    | split
    | dsimp only
    | subst x
    | (intro x))

theorem stepUp_frame {a0 b : Block} {ps : List Piece} (hp : [.thm, .ch, .trace] ⊆ ps)
    (h0 : onlyChanges ps a0 b) : onlyChanges ps a0 (stepUp b) := by
  refine onlyChanges_step ?_ hp h0
  unfold stepUp
  repeat' (first
    | with_reducible assumption
    | with_reducible exact onlyChanges_refl _ _
    | with_reducible refine sendStep_frame (by decide) ?_
    | with_reducible refine modThm_frame (by decide) ?_
    | (with_reducible refine onlyChanges_foldl ?_ ?_; intro x y hx)
    | (extract_lets +onlyGivenNames x; refine imp_app (p := onlyChanges _ _ x) ?_ (fun hx => ?_); rotate_left; clear_value x; rotate_right)
    | extract_lets +onlyGivenNames x
    | split
    | dsimp only
    | subst x
    | (intro x))

theorem stepDown_frame {a0 b : Block} {ps : List Piece} (hp : [.thm, .ch, .trace] ⊆ ps)
    (h0 : onlyChanges ps a0 b) : onlyChanges ps a0 (stepDown b) := by
  refine onlyChanges_step ?_ hp h0
  unfold stepDown
  repeat' (first
    | with_reducible assumption
    | with_reducible exact onlyChanges_refl _ _
    | with_reducible refine sendStep_frame (by decide) ?_
    | with_reducible refine modThm_frame (by decide) ?_
    | (with_reducible refine onlyChanges_foldl ?_ ?_; intro x y hx)
    | (extract_lets +onlyGivenNames x; refine imp_app (p := onlyChanges _ _ x) ?_ (fun hx => ?_); rotate_left; clear_value x; rotate_right)
    | extract_lets +onlyGivenNames x
    | split
    | dsimp only
    | subst x
    | (intro x))

theorem settleDevice_frame {a0 b : Block} {ps : List Piece} (hp : [.thm, .ch, .trace] ⊆ ps)
    (h0 : onlyChanges ps a0 b) : onlyChanges ps a0 (settleDevice b) := by
  refine onlyChanges_step ?_ hp h0
  unfold settleDevice
  repeat' (first
    | with_reducible assumption
    | with_reducible exact onlyChanges_refl _ _
    | with_reducible refine stepDown_frame (by decide) ?_
    | with_reducible refine stepUp_frame (by decide) ?_
    | with_reducible refine modThm_frame (by decide) ?_
    | (with_reducible refine onlyChanges_foldl ?_ ?_; intro x y hx)
    | (extract_lets +onlyGivenNames x; refine imp_app (p := onlyChanges _ _ x) ?_ (fun hx => ?_); rotate_left; clear_value x; rotate_right)
    | extract_lets +onlyGivenNames x
    | split
    | dsimp only
    | subst x
    | (intro x))

theorem formReadings_frame {ra : Int} {rb : Int} {a0 b : Block} {ps : List Piece} (hp : [.thm] ⊆ ps)
    (h0 : onlyChanges ps a0 b) : onlyChanges ps a0 (formReadings ra rb b) := by
  refine onlyChanges_step ?_ hp h0
  unfold formReadings
  repeat' (first
    | with_reducible assumption
    | with_reducible exact onlyChanges_refl _ _
    | with_reducible refine modThm_frame (by decide) ?_
    | (with_reducible refine onlyChanges_foldl ?_ ?_; intro x y hx)
    | (extract_lets +onlyGivenNames x; refine imp_app (p := onlyChanges _ _ x) ?_ (fun hx => ?_); rotate_left; clear_value x; rotate_right)
    | extract_lets +onlyGivenNames x
    | split
    | dsimp only
    | subst x
    | (intro x))

theorem updateDie_frame {g : Nat} {a0 b : Block} {ps : List Piece} (hp : [.thm, .evr, .ch, .trace] ⊆ ps)
    (h0 : onlyChanges ps a0 b) : onlyChanges ps a0 (updateDie g b) := by
  refine onlyChanges_step ?_ hp h0
  unfold updateDie
  repeat' (first
    | with_reducible assumption
    | with_reducible exact onlyChanges_refl _ _
    | with_reducible refine setGroup_frame (by decide) ?_
    | (with_reducible refine onlyChanges_foldl ?_ ?_; intro x y hx)
    | (extract_lets +onlyGivenNames x; refine imp_app (p := onlyChanges _ _ x) ?_ (fun hx => ?_); rotate_left; clear_value x; rotate_right)
    | extract_lets +onlyGivenNames x
    | split
    | dsimp only
    | subst x
    | (intro x))

theorem forgetRemote_frame {k : Nat} {a0 b : Block} {ps : List Piece} (hp : [.thm] ⊆ ps)
    (h0 : onlyChanges ps a0 b) : onlyChanges ps a0 (forgetRemote k b) := by
  refine onlyChanges_step ?_ hp h0
  unfold forgetRemote
  repeat' (first
    | with_reducible assumption
    | with_reducible exact onlyChanges_refl _ _
    | with_reducible refine modThm_frame (by decide) ?_
    | (with_reducible refine onlyChanges_foldl ?_ ?_; intro x y hx)
    | (extract_lets +onlyGivenNames x; refine imp_app (p := onlyChanges _ _ x) ?_ (fun hx => ?_); rotate_left; clear_value x; rotate_right)
    | extract_lets +onlyGivenNames x
    | split
    | dsimp only
    | subst x
    | (intro x))

theorem remoteWritten_frame {old : Block} {a0 b : Block} {ps : List Piece} (hp : [.thm] ⊆ ps)
    (h0 : onlyChanges ps a0 b) : onlyChanges ps a0 (remoteWritten old b) := by
  refine onlyChanges_step ?_ hp h0
  unfold remoteWritten
  repeat' (first
    | with_reducible assumption
    | with_reducible exact onlyChanges_refl _ _
    | with_reducible refine forgetRemote_frame (by decide) ?_
    | (with_reducible refine onlyChanges_foldl ?_ ?_; intro x y hx)
    | (extract_lets +onlyGivenNames x; refine imp_app (p := onlyChanges _ _ x) ?_ (fun hx => ?_); rotate_left; clear_value x; rotate_right)
    | extract_lets +onlyGivenNames x
    | split
    | dsimp only
    | subst x
    | (intro x))

theorem trackRemote_frame {k : Nat} {a0 b : Block} {ps : List Piece} (hp : [.thm] ⊆ ps)
    (h0 : onlyChanges ps a0 b) : onlyChanges ps a0 (trackRemote k b) := by
  refine onlyChanges_step ?_ hp h0
  unfold trackRemote
  repeat' (first
    | with_reducible assumption
    | with_reducible exact onlyChanges_refl _ _
    | with_reducible refine forgetRemote_frame (by decide) ?_
    | with_reducible refine modThm_frame (by decide) ?_
    | (with_reducible refine onlyChanges_foldl ?_ ?_; intro x y hx)
    | (extract_lets +onlyGivenNames x; refine imp_app (p := onlyChanges _ _ x) ?_ (fun hx => ?_); rotate_left; clear_value x; rotate_right)
    | extract_lets +onlyGivenNames x
    | split
    | dsimp only
    | subst x
    | (intro x))

theorem trackHold_frame {g : Nat} {a0 b : Block} {ps : List Piece} (hp : [.thm] ⊆ ps)
    (h0 : onlyChanges ps a0 b) : onlyChanges ps a0 (trackHold g b) := by
  refine onlyChanges_step ?_ hp h0
  unfold trackHold
  repeat' (first
    | with_reducible assumption
    | with_reducible exact onlyChanges_refl _ _
    | with_reducible refine modThm_frame (by decide) ?_
    | (with_reducible refine onlyChanges_foldl ?_ ?_; intro x y hx)
    | (extract_lets +onlyGivenNames x; refine imp_app (p := onlyChanges _ _ x) ?_ (fun hx => ?_); rotate_left; clear_value x; rotate_right)
    | extract_lets +onlyGivenNames x
    | split
    | dsimp only
    | subst x
    | (intro x))

theorem updateRemote_frame {k : Nat} {was : Bool} {a0 b : Block} {ps : List Piece} (hp : [.thm, .evr, .ch, .trace] ⊆ ps)
    (h0 : onlyChanges ps a0 b) : onlyChanges ps a0 (updateRemote k was b) := by
  refine onlyChanges_step ?_ hp h0
  unfold updateRemote
  repeat' (first
    | with_reducible assumption
    | with_reducible exact onlyChanges_refl _ _
    | with_reducible refine setGroup_frame (by decide) ?_
    | (with_reducible refine onlyChanges_foldl ?_ ?_; intro x y hx)
    | (extract_lets +onlyGivenNames x; refine imp_app (p := onlyChanges _ _ x) ?_ (fun hx => ?_); rotate_left; clear_value x; rotate_right)
    | extract_lets +onlyGivenNames x
    | split
    | dsimp only
    | subst x
    | (intro x))

theorem compareShutdown_frame {a0 b : Block} {ps : List Piece} (hp : [.thm, .ch, .trace] ⊆ ps)
    (h0 : onlyChanges ps a0 b) : onlyChanges ps a0 (compareShutdown b) := by
  refine onlyChanges_step ?_ hp h0
  unfold compareShutdown
  repeat' (first
    | with_reducible assumption
    | with_reducible exact onlyChanges_refl _ _
    | with_reducible refine modThm_frame (by decide) ?_
    | with_reducible refine Block.modCh_frame (by decide) ?_
    | (with_reducible refine onlyChanges_foldl ?_ ?_; intro x y hx)
    | (extract_lets +onlyGivenNames x; refine imp_app (p := onlyChanges _ _ x) ?_ (fun hx => ?_); rotate_left; clear_value x; rotate_right)
    | extract_lets +onlyGivenNames x
    | split
    | dsimp only
    | subst x
    | (intro x))

theorem trackPeak_frame {a0 b : Block} {ps : List Piece} (hp : [.topaz] ⊆ ps)
    (h0 : onlyChanges ps a0 b) : onlyChanges ps a0 (trackPeak b) := by
  refine onlyChanges_step ?_ hp h0
  unfold trackPeak
  repeat' (first
    | with_reducible assumption
    | with_reducible exact onlyChanges_refl _ _
    | with_reducible refine Block.modTopaz_frame (by decide) ?_
    | (with_reducible refine onlyChanges_foldl ?_ ?_; intro x y hx)
    | (extract_lets +onlyGivenNames x; refine imp_app (p := onlyChanges _ _ x) ?_ (fun hx => ?_); rotate_left; clear_value x; rotate_right)
    | extract_lets +onlyGivenNames x
    | split
    | dsimp only
    | subst x
    | (intro x))

theorem updateStates_frame {was : Vector Bool 2} {a0 b : Block} {ps : List Piece} (hp : [.thm, .evr, .ch, .trace] ⊆ ps)
    (h0 : onlyChanges ps a0 b) : onlyChanges ps a0 (updateStates was b) := by
  refine onlyChanges_step ?_ hp h0
  unfold updateStates
  repeat' (first
    | with_reducible assumption
    | with_reducible exact onlyChanges_refl _ _
    | with_reducible refine updateRemote_frame (by decide) ?_
    | with_reducible refine updateDie_frame (by decide) ?_
    | with_reducible refine settleDevice_frame (by decide) ?_
    | (with_reducible refine onlyChanges_foldl ?_ ?_; intro x y hx)
    | (extract_lets +onlyGivenNames x; refine imp_app (p := onlyChanges _ _ x) ?_ (fun hx => ?_); rotate_left; clear_value x; rotate_right)
    | extract_lets +onlyGivenNames x
    | split
    | dsimp only
    | subst x
    | (intro x))

theorem thermalReading_frame {ra : Int} {rb : Int} {a0 b : Block} {ps : List Piece} (hp : [.thm, .evr, .topaz, .ch, .trace] ⊆ ps)
    (h0 : onlyChanges ps a0 b) : onlyChanges ps a0 (thermalReading ra rb b) := by
  refine onlyChanges_step ?_ hp h0
  unfold thermalReading
  repeat' (first
    | with_reducible assumption
    | with_reducible exact onlyChanges_refl _ _
    | with_reducible refine updateStates_frame (by decide) ?_
    | with_reducible refine trackPeak_frame (by decide) ?_
    | with_reducible refine compareShutdown_frame (by decide) ?_
    | with_reducible refine trackHold_frame (by decide) ?_
    | with_reducible refine trackRemote_frame (by decide) ?_
    | with_reducible refine formReadings_frame (by decide) ?_
    | (with_reducible refine onlyChanges_foldl ?_ ?_; intro x y hx)
    | (extract_lets +onlyGivenNames x; refine imp_app (p := onlyChanges _ _ x) ?_ (fun hx => ?_); rotate_left; clear_value x; rotate_right)
    | extract_lets +onlyGivenNames x
    | split
    | dsimp only
    | subst x
    | (intro x))

theorem sensorSample_frame {l : List Int} {a0 b : Block} {ps : List Piece} (hp : [.thm] ⊆ ps)
    (h0 : onlyChanges ps a0 b) : onlyChanges ps a0 (sensorSample l b) := by
  refine onlyChanges_step ?_ hp h0
  unfold sensorSample
  repeat' (first
    | with_reducible assumption
    | with_reducible exact onlyChanges_refl _ _
    | with_reducible refine modThm_frame (by decide) ?_
    | (with_reducible refine onlyChanges_foldl ?_ ?_; intro x y hx)
    | (extract_lets +onlyGivenNames x; refine imp_app (p := onlyChanges _ _ x) ?_ (fun hx => ?_); rotate_left; clear_value x; rotate_right)
    | extract_lets +onlyGivenNames x
    | split
    | dsimp only
    | subst x
    | (intro x))

theorem formStates_frame {powerUp : Bool} {a0 b : Block} {ps : List Piece} (hp : [.thm, .evr, .ch, .trace] ⊆ ps)
    (h0 : onlyChanges ps a0 b) : onlyChanges ps a0 (formStates powerUp b) := by
  refine onlyChanges_step ?_ hp h0
  unfold formStates
  repeat' (first
    | with_reducible assumption
    | with_reducible exact onlyChanges_refl _ _
    | with_reducible refine setGroup_frame (by decide) ?_
    | with_reducible refine modThm_frame (by decide) ?_
    | (with_reducible refine onlyChanges_foldl ?_ ?_; intro x y hx)
    | (extract_lets +onlyGivenNames x; refine imp_app (p := onlyChanges _ _ x) ?_ (fun hx => ?_); rotate_left; clear_value x; rotate_right)
    | extract_lets +onlyGivenNames x
    | split
    | dsimp only
    | subst x
    | (intro x))

theorem frameBoundRecord_frame {a0 b : Block} {ps : List Piece} (hp : [.jade, .thm, .ch, .trace] ⊆ ps)
    (h0 : onlyChanges ps a0 b) : onlyChanges ps a0 (frameBoundRecord b) := by
  refine onlyChanges_step ?_ hp h0
  unfold frameBoundRecord
  repeat' (first
    | with_reducible assumption
    | with_reducible exact onlyChanges_refl _ _
    | with_reducible refine stepDown_frame (by decide) ?_
    | with_reducible refine stepUp_frame (by decide) ?_
    | with_reducible refine modThm_frame (by decide) ?_
    | with_reducible refine Block.modCh_frame (by decide) ?_
    | (with_reducible refine onlyChanges_foldl ?_ ?_; intro x y hx)
    | (extract_lets +onlyGivenNames x; refine imp_app (p := onlyChanges _ _ x) ?_ (fun hx => ?_); rotate_left; clear_value x; rotate_right)
    | extract_lets +onlyGivenNames x
    | split
    | dsimp only
    | subst x
    | (intro x))

theorem modOtc_frame {f} {a b : Block} {ps : List Piece} (hp : [.otc] ⊆ ps) (h : onlyChanges ps a b) :
    onlyChanges ps a (modOtc f b) := by
  refine onlyChanges_step ?_ hp h
  refine ⟨fun p hp => ?_⟩;  cases p <;> first | exact rfl | exact absurd hp (by decide) | exact ⟨rfl, rfl, rfl, rfl⟩ | exact ⟨rfl, rfl, rfl, rfl, rfl, rfl, rfl, rfl, rfl⟩

theorem sawVpp_frame {mv : Nat} {a0 b : Block} {ps : List Piece} (hp : [.otc] ⊆ ps)
    (h0 : onlyChanges ps a0 b) : onlyChanges ps a0 (sawVpp mv b) := by
  refine onlyChanges_step ?_ hp h0
  unfold sawVpp
  repeat' (first
    | with_reducible assumption
    | with_reducible exact onlyChanges_refl _ _
    | with_reducible refine modOtc_frame (by decide) ?_
    | (with_reducible refine onlyChanges_foldl ?_ ?_; intro x y hx)
    | (extract_lets +onlyGivenNames x; refine imp_app (p := onlyChanges _ _ x) ?_ (fun hx => ?_); rotate_left; clear_value x; rotate_right)
    | extract_lets +onlyGivenNames x
    | split
    | dsimp only
    | subst x
    | (intro x))

theorem vppMeasure_frame {mv : Nat} {a0 b : Block} {ps : List Piece} (hp : [.otc] ⊆ ps)
    (h0 : onlyChanges ps a0 b) : onlyChanges ps a0 (vppMeasure mv b) := by
  refine onlyChanges_step ?_ hp h0
  unfold vppMeasure
  repeat' (first
    | with_reducible assumption
    | with_reducible exact onlyChanges_refl _ _
    | with_reducible refine sawVpp_frame (by decide) ?_
    | (with_reducible refine onlyChanges_foldl ?_ ?_; intro x y hx)
    | (extract_lets +onlyGivenNames x; refine imp_app (p := onlyChanges _ _ x) ?_ (fun hx => ?_); rotate_left; clear_value x; rotate_right)
    | extract_lets +onlyGivenNames x
    | split
    | dsimp only
    | subst x
    | (intro x))

theorem otpRead_frame {w : Nat} {a0 b : Block} {ps : List Piece} (hp : [.otc, .regs] ⊆ ps)
    (h0 : onlyChanges ps a0 b) : onlyChanges ps a0 (otpRead w b) := by
  refine onlyChanges_step ?_ hp h0
  unfold otpRead
  repeat' (first
    | with_reducible assumption
    | with_reducible exact onlyChanges_refl _ _
    | with_reducible refine modOtc_frame (by decide) ?_
    | with_reducible refine Block.setReg_frame (by decide) ?_
    | (with_reducible refine onlyChanges_foldl ?_ ?_; intro x y hx)
    | (extract_lets +onlyGivenNames x; refine imp_app (p := onlyChanges _ _ x) ?_ (fun hx => ?_); rotate_left; clear_value x; rotate_right)
    | extract_lets +onlyGivenNames x
    | split
    | dsimp only
    | subst x
    | (intro x))

theorem endRun_frame {res : Nat} {a0 b : Block} {ps : List Piece} (hp : [.otc] ⊆ ps)
    (h0 : onlyChanges ps a0 b) : onlyChanges ps a0 (endRun res b) := by
  refine onlyChanges_step ?_ hp h0
  unfold endRun
  repeat' (first
    | with_reducible assumption
    | with_reducible exact onlyChanges_refl _ _
    | with_reducible refine modOtc_frame (by decide) ?_
    | (with_reducible refine onlyChanges_foldl ?_ ?_; intro x y hx)
    | (extract_lets +onlyGivenNames x; refine imp_app (p := onlyChanges _ _ x) ?_ (fun hx => ?_); rotate_left; clear_value x; rotate_right)
    | extract_lets +onlyGivenNames x
    | split
    | dsimp only
    | subst x
    | (intro x))

theorem runGo_frame {k : Nat} {mvs : List Nat} {a0 b : Block} {ps : List Piece} (hp : [.otc] ⊆ ps)
    (h : onlyChanges ps a0 b) : onlyChanges ps a0 (runGo k mvs b) := by
  refine onlyChanges_step ?_ hp h
  clear h hp
  induction k generalizing b mvs with
  | zero => exact onlyChanges_refl _ _
  | succ k ih =>
    unfold runGo
    repeat' (first
      | with_reducible assumption
      | with_reducible exact onlyChanges_refl _ _
      | with_reducible refine onlyChanges_trans ?_ ih
      | with_reducible refine endRun_frame (by decide) ?_
      | with_reducible refine sawVpp_frame (by decide) ?_
      | with_reducible refine modOtc_frame (by decide) ?_
      | (with_reducible refine onlyChanges_foldl ?_ ?_; intro x y hx)
      | (extract_lets +onlyGivenNames x; refine imp_app (p := onlyChanges _ _ x) ?_ (fun hx => ?_); rotate_left; clear_value x; rotate_right)
      | extract_lets +onlyGivenNames x
      | split
      | dsimp only
      | subst x
      | (intro x))

theorem resumeRun_frame {mvs : List Nat} {a0 b : Block} {ps : List Piece} (hp : [.otc] ⊆ ps)
    (h0 : onlyChanges ps a0 b) : onlyChanges ps a0 (resumeRun mvs b) := by
  refine onlyChanges_step ?_ hp h0
  unfold resumeRun
  repeat' (first
    | with_reducible assumption
    | with_reducible exact onlyChanges_refl _ _
    | with_reducible refine runGo_frame (by decide) ?_
    | (with_reducible refine onlyChanges_foldl ?_ ?_; intro x y hx)
    | (extract_lets +onlyGivenNames x; refine imp_app (p := onlyChanges _ _ x) ?_ (fun hx => ?_); rotate_left; clear_value x; rotate_right)
    | extract_lets +onlyGivenNames x
    | split
    | dsimp only
    | subst x
    | (intro x))

theorem otpProgram_frame {w : Nat} {mv : Nat} {more : List Nat} {a0 b : Block} {ps : List Piece} (hp : [.posts, .onyx, .otc, .out] ⊆ ps)
    (h0 : onlyChanges ps a0 b) : onlyChanges ps a0 (otpProgram w mv more b) := by
  refine onlyChanges_step ?_ hp h0
  unfold otpProgram
  repeat' (first
    | with_reducible assumption
    | with_reducible exact onlyChanges_refl _ _
    | with_reducible refine resumeRun_frame (by decide) ?_
    | with_reducible refine sawVpp_frame (by decide) ?_
    | with_reducible refine modOtc_frame (by decide) ?_
    | with_reducible refine refuse_frame (by decide) ?_
    | (with_reducible refine onlyChanges_foldl ?_ ?_; intro x y hx)
    | (extract_lets +onlyGivenNames x; refine imp_app (p := onlyChanges _ _ x) ?_ (fun hx => ?_); rotate_left; clear_value x; rotate_right)
    | extract_lets +onlyGivenNames x
    | split
    | dsimp only
    | subst x
    | (intro x))

theorem telAnswer_frame {m : TelMsg} {ok : Bool} {a0 b : Block} {ps : List Piece} (hp : [.ch, .trace] ⊆ ps)
    (h0 : onlyChanges ps a0 b) : onlyChanges ps a0 (telAnswer m ok b) := by
  refine onlyChanges_step ?_ hp h0
  unfold telAnswer
  repeat' (first
    | with_reducible assumption
    | with_reducible exact onlyChanges_refl _ _
    | with_reducible refine Block.modCh_frame (by decide) ?_
    | (with_reducible refine onlyChanges_foldl ?_ ?_; intro x y hx)
    | (extract_lets +onlyGivenNames x; refine imp_app (p := onlyChanges _ _ x) ?_ (fun hx => ?_); rotate_left; clear_value x; rotate_right)
    | extract_lets +onlyGivenNames x
    | split
    | dsimp only
    | subst x
    | (intro x))

theorem telBurnRequest_frame {mv : Nat} {more : List Nat} {a0 b : Block} {ps : List Piece} (hp : [.thm, .otc, .evr, .beryl, .ch, .trace] ⊆ ps)
    (h0 : onlyChanges ps a0 b) : onlyChanges ps a0 (telBurnRequest mv more b) := by
  refine onlyChanges_step ?_ hp h0
  unfold telBurnRequest
  repeat' (first
    | with_reducible assumption
    | with_reducible exact onlyChanges_refl _ _
    | with_reducible refine telAnswer_frame (by decide) ?_
    | with_reducible refine resumeRun_frame (by decide) ?_
    | with_reducible refine sawVpp_frame (by decide) ?_
    | with_reducible refine modOtc_frame (by decide) ?_
    | with_reducible refine Block.modCh_frame (by decide) ?_
    | with_reducible refine Block.modBeryl_frame (by decide) ?_
    | (with_reducible refine onlyChanges_foldl ?_ ?_; intro x y hx)
    | (extract_lets +onlyGivenNames x; refine imp_app (p := onlyChanges _ _ x) ?_ (fun hx => ?_); rotate_left; clear_value x; rotate_right)
    | extract_lets +onlyGivenNames x
    | split
    | dsimp only
    | subst x
    | (intro x))

theorem burnPulsed_frame {t : TelBurn} {mvs : List Nat} {a0 b : Block} {ps : List Piece} (hp : [.otc, .ch, .trace] ⊆ ps)
    (h0 : onlyChanges ps a0 b) : onlyChanges ps a0 (burnPulsed t mvs b) := by
  refine onlyChanges_step ?_ hp h0
  unfold burnPulsed
  repeat' (first
    | with_reducible assumption
    | with_reducible exact onlyChanges_refl _ _
    | with_reducible refine telAnswer_frame (by decide) ?_
    | with_reducible refine resumeRun_frame (by decide) ?_
    | with_reducible refine sawVpp_frame (by decide) ?_
    | with_reducible refine modOtc_frame (by decide) ?_
    | (with_reducible refine onlyChanges_foldl ?_ ?_; intro x y hx)
    | (extract_lets +onlyGivenNames x; refine imp_app (p := onlyChanges _ _ x) ?_ (fun hx => ?_); rotate_left; clear_value x; rotate_right)
    | extract_lets +onlyGivenNames x
    | split
    | dsimp only
    | subst x
    | (intro x))

theorem otpPulseDone_frame {fired : Half} {firm : Half} {mv : Nat} {soft : Half} {more : List Nat} {a0 b : Block} {ps : List Piece} (hp : [.otc, .ch, .trace] ⊆ ps)
    (h0 : onlyChanges ps a0 b) : onlyChanges ps a0 (otpPulseDone fired firm mv soft more b) := by
  refine onlyChanges_step ?_ hp h0
  unfold otpPulseDone
  repeat' (first
    | with_reducible assumption
    | with_reducible exact onlyChanges_refl _ _
    | with_reducible refine burnPulsed_frame (by decide) ?_
    | with_reducible refine runGo_frame (by decide) ?_
    | with_reducible refine modOtc_frame (by decide) ?_
    | (with_reducible refine onlyChanges_foldl ?_ ?_; intro x y hx)
    | (extract_lets +onlyGivenNames x; refine imp_app (p := onlyChanges _ _ x) ?_ (fun hx => ?_); rotate_left; clear_value x; rotate_right)
    | extract_lets +onlyGivenNames x
    | split
    | dsimp only
    | subst x
    | (intro x))

theorem fuseLoad_frame {refOk : Bool} {a0 b : Block} {ps : List Piece} (hp : [.spinel, .otc, .topaz] ⊆ ps)
    (h0 : onlyChanges ps a0 b) : onlyChanges ps a0 (fuseLoad refOk b) := by
  refine onlyChanges_step ?_ hp h0
  unfold fuseLoad
  repeat' (first
    | with_reducible assumption
    | with_reducible exact onlyChanges_refl _ _
    | with_reducible refine modOtc_frame (by decide) ?_
    | with_reducible refine settleFaultPin_frame (by decide) ?_
    | with_reducible refine Block.modTopaz_frame (by decide) ?_
    | with_reducible refine Block.modSpinel_frame (by decide) ?_
    | (with_reducible refine onlyChanges_foldl ?_ ?_; intro x y hx)
    | (extract_lets +onlyGivenNames x; refine imp_app (p := onlyChanges _ _ x) ?_ (fun hx => ?_); rotate_left; clear_value x; rotate_right)
    | extract_lets +onlyGivenNames x
    | split
    | dsimp only
    | subst x
    | (intro x))

theorem releaseBeryl_frame {a0 b : Block} {ps : List Piece} (hp : [.topaz, .ch, .trace] ⊆ ps)
    (h0 : onlyChanges ps a0 b) : onlyChanges ps a0 (releaseBeryl b) := by
  refine onlyChanges_step ?_ hp h0
  unfold releaseBeryl
  repeat' (first
    | with_reducible assumption
    | with_reducible exact onlyChanges_refl _ _
    | with_reducible refine Block.modCh_frame (by decide) ?_
    | with_reducible refine Block.modTopaz_frame (by decide) ?_
    | (with_reducible refine onlyChanges_foldl ?_ ?_; intro x y hx)
    | (extract_lets +onlyGivenNames x; refine imp_app (p := onlyChanges _ _ x) ?_ (fun hx => ?_); rotate_left; clear_value x; rotate_right)
    | extract_lets +onlyGivenNames x
    | split
    | dsimp only
    | subst x
    | (intro x))

theorem modEvr_frame {f} {a b : Block} {ps : List Piece} (hp : [.evr] ⊆ ps) (h : onlyChanges ps a b) :
    onlyChanges ps a (modEvr f b) := by
  refine onlyChanges_step ?_ hp h
  refine ⟨fun p hp => ?_⟩;  cases p <;> first | exact rfl | exact absurd hp (by decide) | exact ⟨rfl, rfl, rfl, rfl⟩ | exact ⟨rfl, rfl, rfl, rfl, rfl, rfl, rfl, rfl, rfl⟩

theorem writeBlock_frame {toHost : Bool} {a0 b : Block} {ps : List Piece} (hp : [.evr, .dram, .out] ⊆ ps)
    (h0 : onlyChanges ps a0 b) : onlyChanges ps a0 (writeBlock toHost b) := by
  refine onlyChanges_step ?_ hp h0
  unfold writeBlock
  repeat' (first
    | with_reducible assumption
    | with_reducible exact onlyChanges_refl _ _
    | with_reducible refine modEvr_frame (by decide) ?_
    | with_reducible refine Block.hostWrite_frame (by decide) ?_
    | with_reducible refine Block.dramWrite_frame (by decide) ?_
    | (with_reducible refine onlyChanges_foldl ?_ ?_; intro x y hx)
    | (extract_lets +onlyGivenNames x; refine imp_app (p := onlyChanges _ _ x) ?_ (fun hx => ?_); rotate_left; clear_value x; rotate_right)
    | extract_lets +onlyGivenNames x
    | split
    | dsimp only
    | subst x
    | (intro x))

theorem placeEntry_frame {e : TraceEntry} {a0 b : Block} {ps : List Piece} (hp : [.evr, .dram, .out] ⊆ ps)
    (h0 : onlyChanges ps a0 b) : onlyChanges ps a0 (placeEntry e b) := by
  refine onlyChanges_step ?_ hp h0
  unfold placeEntry
  repeat' (first
    | with_reducible assumption
    | with_reducible exact onlyChanges_refl _ _
    | with_reducible refine writeBlock_frame (by decide) ?_
    | with_reducible refine modEvr_frame (by decide) ?_
    | (with_reducible refine onlyChanges_foldl ?_ ?_; intro x y hx)
    | (extract_lets +onlyGivenNames x; refine imp_app (p := onlyChanges _ _ x) ?_ (fun hx => ?_); rotate_left; clear_value x; rotate_right)
    | extract_lets +onlyGivenNames x
    | split
    | dsimp only
    | subst x
    | (intro x))

theorem traceEntry_frame {a0 b : Block} {ps : List Piece} (hp : [.evr, .dram, .ch, .trace, .out] ⊆ ps)
    (h0 : onlyChanges ps a0 b) : onlyChanges ps a0 (traceEntry b) := by
  refine onlyChanges_step ?_ hp h0
  unfold traceEntry
  repeat' (first
    | with_reducible assumption
    | with_reducible exact onlyChanges_refl _ _
    | with_reducible refine placeEntry_frame (by decide) ?_
    | with_reducible refine Block.modCh_frame (by decide) ?_
    | (with_reducible refine onlyChanges_foldl ?_ ?_; intro x y hx)
    | (extract_lets +onlyGivenNames x; refine imp_app (p := onlyChanges _ _ x) ?_ (fun hx => ?_); rotate_left; clear_value x; rotate_right)
    | extract_lets +onlyGivenNames x
    | split
    | dsimp only
    | subst x
    | (intro x))

theorem traceBlockClose_frame {ecc : Ecc} {a0 b : Block} {ps : List Piece} (hp : [.quartz, .posts, .evr, .topaz, .dram, .trace, .out] ⊆ ps)
    (h0 : onlyChanges ps a0 b) : onlyChanges ps a0 (traceBlockClose ecc b) := by
  refine onlyChanges_step ?_ hp h0
  unfold traceBlockClose
  repeat' (first
    | with_reducible assumption
    | with_reducible exact onlyChanges_refl _ _
    | with_reducible refine writeBlock_frame (by decide) ?_
    | with_reducible refine modEvr_frame (by decide) ?_
    | with_reducible refine eccCount_frame (by decide) ?_
    | with_reducible refine Block.logEvr_frame (by decide) ?_
    | with_reducible refine Block.advance_frame (by decide) ?_
    | (with_reducible refine onlyChanges_foldl ?_ ?_; intro x y hx)
    | (extract_lets +onlyGivenNames x; refine imp_app (p := onlyChanges _ _ x) ?_ (fun hx => ?_); rotate_left; clear_value x; rotate_right)
    | extract_lets +onlyGivenNames x
    | split
    | dsimp only
    | subst x
    | (intro x))

theorem setEvrCtrl_frame {mode : Nat} {tap : Bool} {a0 b : Block} {ps : List Piece} (hp : [.regs] ⊆ ps)
    (h0 : onlyChanges ps a0 b) : onlyChanges ps a0 (setEvrCtrl mode tap b) := by
  refine onlyChanges_step ?_ hp h0
  unfold setEvrCtrl
  repeat' (first
    | with_reducible assumption
    | with_reducible exact onlyChanges_refl _ _
    | with_reducible refine Block.setReg_frame (by decide) ?_
    | (with_reducible refine onlyChanges_foldl ?_ ?_; intro x y hx)
    | (extract_lets +onlyGivenNames x; refine imp_app (p := onlyChanges _ _ x) ?_ (fun hx => ?_); rotate_left; clear_value x; rotate_right)
    | extract_lets +onlyGivenNames x
    | split
    | dsimp only
    | subst x
    | (intro x))

theorem openTrace_frame {mode : Nat} {state : EvrState} {a0 b : Block} {ps : List Piece} (hp : [.jade, .evr, .ch, .trace] ⊆ ps)
    (h0 : onlyChanges ps a0 b) : onlyChanges ps a0 (openTrace mode state b) := by
  refine onlyChanges_step ?_ hp h0
  unfold openTrace
  repeat' (first
    | with_reducible assumption
    | with_reducible exact onlyChanges_refl _ _
    | with_reducible refine modEvr_frame (by decide) ?_
    | with_reducible refine Block.modCh_frame (by decide) ?_
    | with_reducible refine Block.modJade_frame (by decide) ?_
    | (with_reducible refine onlyChanges_foldl ?_ ?_; intro x y hx)
    | (extract_lets +onlyGivenNames x; refine imp_app (p := onlyChanges _ _ x) ?_ (fun hx => ?_); rotate_left; clear_value x; rotate_right)
    | extract_lets +onlyGivenNames x
    | split
    | dsimp only
    | subst x
    | (intro x))

theorem endTrace_frame {a0 b : Block} {ps : List Piece} (hp : [.evr, .dram, .ch, .trace, .out] ⊆ ps)
    (h0 : onlyChanges ps a0 b) : onlyChanges ps a0 (endTrace b) := by
  refine onlyChanges_step ?_ hp h0
  unfold endTrace
  repeat' (first
    | with_reducible assumption
    | with_reducible exact onlyChanges_refl _ _
    | with_reducible refine placeEntry_frame (by decide) ?_
    | with_reducible refine writeBlock_frame (by decide) ?_
    | with_reducible refine modEvr_frame (by decide) ?_
    | with_reducible refine Block.logEvr_frame (by decide) ?_
    | with_reducible refine Block.modCh_frame (by decide) ?_
    | (with_reducible refine onlyChanges_foldl ?_ ?_; intro x y hx)
    | (extract_lets +onlyGivenNames x; refine imp_app (p := onlyChanges _ _ x) ?_ (fun hx => ?_); rotate_left; clear_value x; rotate_right)
    | extract_lets +onlyGivenNames x
    | split
    | dsimp only
    | subst x
    | (intro x))

theorem evrRecord_frame {w : Nat} {a0 b : Block} {ps : List Piece} (hp : [.jade, .evr, .ch, .trace, .regs] ⊆ ps)
    (h0 : onlyChanges ps a0 b) : onlyChanges ps a0 (evrRecord w b) := by
  refine onlyChanges_step ?_ hp h0
  unfold evrRecord
  repeat' (first
    | with_reducible assumption
    | with_reducible exact onlyChanges_refl _ _
    | with_reducible refine openTrace_frame (by decide) ?_
    | with_reducible refine setEvrCtrl_frame (by decide) ?_
    | with_reducible refine modEvr_frame (by decide) ?_
    | with_reducible refine Block.logEvr_frame (by decide) ?_
    | (with_reducible refine onlyChanges_foldl ?_ ?_; intro x y hx)
    | (extract_lets +onlyGivenNames x; refine imp_app (p := onlyChanges _ _ x) ?_ (fun hx => ?_); rotate_left; clear_value x; rotate_right)
    | extract_lets +onlyGivenNames x
    | split
    | dsimp only
    | subst x
    | (intro x))

theorem evrOff_frame {w : Nat} {a0 b : Block} {ps : List Piece} (hp : [.evr, .dram, .ch, .trace, .regs, .out] ⊆ ps)
    (h0 : onlyChanges ps a0 b) : onlyChanges ps a0 (evrOff w b) := by
  refine onlyChanges_step ?_ hp h0
  unfold evrOff
  repeat' (first
    | with_reducible assumption
    | with_reducible exact onlyChanges_refl _ _
    | with_reducible refine endTrace_frame (by decide) ?_
    | with_reducible refine setEvrCtrl_frame (by decide) ?_
    | with_reducible refine modEvr_frame (by decide) ?_
    | (with_reducible refine onlyChanges_foldl ?_ ?_; intro x y hx)
    | (extract_lets +onlyGivenNames x; refine imp_app (p := onlyChanges _ _ x) ?_ (fun hx => ?_); rotate_left; clear_value x; rotate_right)
    | extract_lets +onlyGivenNames x
    | split
    | dsimp only
    | subst x
    | (intro x))

theorem evrReplay_frame {w : Nat} {a0 b : Block} {ps : List Piece} (hp : [.jade, .evr, .dram, .ch, .trace, .regs, .out] ⊆ ps)
    (h0 : onlyChanges ps a0 b) : onlyChanges ps a0 (evrReplay w b) := by
  refine onlyChanges_step ?_ hp h0
  unfold evrReplay
  repeat' (first
    | with_reducible assumption
    | with_reducible exact onlyChanges_refl _ _
    | with_reducible refine endTrace_frame (by decide) ?_
    | with_reducible refine openTrace_frame (by decide) ?_
    | with_reducible refine setEvrCtrl_frame (by decide) ?_
    | with_reducible refine modEvr_frame (by decide) ?_
    | (with_reducible refine onlyChanges_foldl ?_ ?_; intro x y hx)
    | (extract_lets +onlyGivenNames x; refine imp_app (p := onlyChanges _ _ x) ?_ (fun hx => ?_); rotate_left; clear_value x; rotate_right)
    | extract_lets +onlyGivenNames x
    | split
    | dsimp only
    | subst x
    | (intro x))

theorem diverge_frame {seq : Nat} {a0 b : Block} {ps : List Piece} (hp : [.evr] ⊆ ps)
    (h0 : onlyChanges ps a0 b) : onlyChanges ps a0 (diverge seq b) := by
  refine onlyChanges_step ?_ hp h0
  unfold diverge
  repeat' (first
    | with_reducible assumption
    | with_reducible exact onlyChanges_refl _ _
    | with_reducible refine modEvr_frame (by decide) ?_
    | (with_reducible refine onlyChanges_foldl ?_ ?_; intro x y hx)
    | (extract_lets +onlyGivenNames x; refine imp_app (p := onlyChanges _ _ x) ?_ (fun hx => ?_); rotate_left; clear_value x; rotate_right)
    | extract_lets +onlyGivenNames x
    | split
    | dsimp only
    | subst x
    | (intro x))

theorem takeBlock_frame {l : List Byte} {a0 b : Block} {ps : List Piece} (hp : [.evr] ⊆ ps)
    (h0 : onlyChanges ps a0 b) : onlyChanges ps a0 (takeBlock l b) := by
  refine onlyChanges_step ?_ hp h0
  unfold takeBlock
  repeat' (first
    | with_reducible assumption
    | with_reducible exact onlyChanges_refl _ _
    | with_reducible refine diverge_frame (by decide) ?_
    | with_reducible refine modEvr_frame (by decide) ?_
    | (with_reducible refine onlyChanges_foldl ?_ ?_; intro x y hx)
    | (extract_lets +onlyGivenNames x; refine imp_app (p := onlyChanges _ _ x) ?_ (fun hx => ?_); rotate_left; clear_value x; rotate_right)
    | extract_lets +onlyGivenNames x
    | split
    | dsimp only
    | subst x
    | (intro x))

theorem replayProgram_frame {gen : Nat} {a0 b : Block} {ps : List Piece} (hp : [.garnet, .posts, .evr, .trace, .out] ⊆ ps)
    (h0 : onlyChanges ps a0 b) : onlyChanges ps a0 (replayProgram gen b) := by
  refine onlyChanges_step ?_ hp h0
  unfold replayProgram
  repeat' (first
    | with_reducible assumption
    | with_reducible exact onlyChanges_refl _ _
    | with_reducible refine finishCtrl_frame (by decide) ?_
    | with_reducible refine Block.modGarnet_frame (by decide) ?_
    | (with_reducible refine onlyChanges_foldl ?_ ?_; intro x y hx)
    | (extract_lets +onlyGivenNames x; refine imp_app (p := onlyChanges _ _ x) ?_ (fun hx => ?_); rotate_left; clear_value x; rotate_right)
    | extract_lets +onlyGivenNames x
    | split
    | dsimp only
    | subst x
    | (intro x))

theorem replayTake_frame {start stop : Bool} {a0 b : Block} {ps : List Piece} (hp : [.disc, .garnet, .posts, .evr, .trace, .out] ⊆ ps)
    (h : onlyChanges ps a0 b) : onlyChanges ps a0 (replayTake start stop b).1 := by
  refine onlyChanges_step ?_ hp h
  unfold replayTake
  repeat' (first
    | with_reducible assumption
    | with_reducible exact onlyChanges_refl _ _
    | with_reducible refine endTake_frame (by decide) ?_
    | with_reducible refine discTakeStart_frame (by decide) ?_
    | with_reducible refine Block.modGarnet_frame (by decide) ?_
    | (with_reducible refine onlyChanges_foldl ?_ ?_; intro x y hx)
    | (extract_lets +onlyGivenNames x; refine imp_app (p := onlyChanges _ _ x) ?_ (fun hx => ?_); rotate_left; clear_value x; rotate_right)
    | extract_lets +onlyGivenNames x
    | split
    | dsimp only
    | subst x
    | (intro x))

theorem replayTake_pair {start stop : Bool} {a0 b b1 : Block} {x} {ps : List Piece} (he : replayTake start stop b = (b1, x)) (hp : [.disc, .garnet, .posts, .evr, .trace, .out] ⊆ ps)
    (h : onlyChanges ps a0 b) : onlyChanges ps a0 b1 := by
  have k := replayTake_frame (start := start) (stop := stop) hp h
  rw [he] at k
  exact k

theorem replayBoundary_frame {e : TraceEntry} {binds : Bool} {a0 b : Block} {ps : List Piece} (hp : [.disc, .garnet, .jade, .opal, .posts, .evr, .ch, .trace, .out] ⊆ ps)
    (h0 : onlyChanges ps a0 b) : onlyChanges ps a0 (replayBoundary e binds b) := by
  refine onlyChanges_step ?_ hp h0
  unfold replayBoundary
  repeat' (first
    | with_reducible assumption
    | with_reducible exact onlyChanges_refl _ _
    | with_reducible refine replayTake_frame (by decide) ?_
    | with_reducible refine replayTake_pair (by assumption) (by decide) ?_
    | with_reducible refine replayProgram_frame (by decide) ?_
    | with_reducible refine takeStop_frame (by decide) ?_
    | with_reducible refine takeStart_frame (by decide) ?_
    | with_reducible refine bindFrame_frame (by decide) ?_
    | with_reducible refine bindFrame_pair (by assumption) (by decide) ?_
    | with_reducible refine sendNotice_frame (by decide) ?_
    | with_reducible refine applyUnloads_frame (by decide) ?_
    | with_reducible refine mergeTrigger_frame (by decide) ?_
    | with_reducible refine Block.modGarnet_frame (by decide) ?_
    | (with_reducible refine onlyChanges_foldl ?_ ?_; intro x y hx)
    | (extract_lets +onlyGivenNames x; refine imp_app (p := onlyChanges _ _ x) ?_ (fun hx => ?_); rotate_left; clear_value x; rotate_right)
    | extract_lets +onlyGivenNames x
    | split
    | dsimp only
    | subst x
    | (intro x))

theorem replayHand_frame {a0 b : Block} {ps : List Piece} (hp : [.garnet, .ch, .trace] ⊆ ps)
    (h0 : onlyChanges ps a0 b) : onlyChanges ps a0 (replayHand b) := by
  refine onlyChanges_step ?_ hp h0
  unfold replayHand
  repeat' (first
    | with_reducible assumption
    | with_reducible exact onlyChanges_refl _ _
    | with_reducible refine Block.modCh_frame (by decide) ?_
    | with_reducible refine Block.modGarnet_frame (by decide) ?_
    | (with_reducible refine onlyChanges_foldl ?_ ?_; intro x y hx)
    | (extract_lets +onlyGivenNames x; refine imp_app (p := onlyChanges _ _ x) ?_ (fun hx => ?_); rotate_left; clear_value x; rotate_right)
    | extract_lets +onlyGivenNames x
    | split
    | dsimp only
    | subst x
    | (intro x))

theorem replayStart_frame {stamp : Nat} {next : Nat} {r : TimeRecord} {a0 b : Block} {ps : List Piece} (hp : [.garnet, .ch, .trace] ⊆ ps)
    (h0 : onlyChanges ps a0 b) : onlyChanges ps a0 (replayStart stamp next r b) := by
  refine onlyChanges_step ?_ hp h0
  unfold replayStart
  repeat' (first
    | with_reducible assumption
    | with_reducible exact onlyChanges_refl _ _
    | with_reducible refine replayHand_frame (by decide) ?_
    | with_reducible refine startHand_frame (by decide) ?_
    | (with_reducible refine onlyChanges_foldl ?_ ?_; intro x y hx)
    | (extract_lets +onlyGivenNames x; refine imp_app (p := onlyChanges _ _ x) ?_ (fun hx => ?_); rotate_left; clear_value x; rotate_right)
    | extract_lets +onlyGivenNames x
    | split
    | dsimp only
    | subst x
    | (intro x))

theorem replayTime_frame {e : TraceEntry} {next : Nat} {a0 b : Block} {ps : List Piece} (hp : [.garnet, .opal, .posts, .evr, .ch, .trace, .out] ⊆ ps)
    (h0 : onlyChanges ps a0 b) : onlyChanges ps a0 (replayTime e next b) := by
  refine onlyChanges_step ?_ hp h0
  unfold replayTime
  repeat' (first
    | with_reducible assumption
    | with_reducible exact onlyChanges_refl _ _
    | with_reducible refine replayStart_frame (by decide) ?_
    | with_reducible refine takeTimeRecord_frame (by decide) ?_
    | with_reducible refine Block.modGarnet_frame (by decide) ?_
    | (with_reducible refine onlyChanges_foldl ?_ ?_; intro x y hx)
    | (extract_lets +onlyGivenNames x; refine imp_app (p := onlyChanges _ _ x) ?_ (fun hx => ?_); rotate_left; clear_value x; rotate_right)
    | extract_lets +onlyGivenNames x
    | split
    | dsimp only
    | subst x
    | (intro x))

theorem replayTod_frame {e : TraceEntry} {a0 b : Block} {ps : List Piece} (hp : [.posts, .evr, .trace, .out] ⊆ ps)
    (h0 : onlyChanges ps a0 b) : onlyChanges ps a0 (replayTod e b) := by
  refine onlyChanges_step ?_ hp h0
  unfold replayTod
  repeat' (first
    | with_reducible assumption
    | with_reducible exact onlyChanges_refl _ _
    | with_reducible refine finishCtrl_frame (by decide) ?_
    | (with_reducible refine onlyChanges_foldl ?_ ?_; intro x y hx)
    | (extract_lets +onlyGivenNames x; refine imp_app (p := onlyChanges _ _ x) ?_ (fun hx => ?_); rotate_left; clear_value x; rotate_right)
    | extract_lets +onlyGivenNames x
    | split
    | dsimp only
    | subst x
    | (intro x))

theorem replayNvme_frame {e : TraceEntry} {a0 b : Block} {ps : List Piece} (hp : [.quartz, .jade, .opal, .posts, .onyx, .evr, .ch, .trace, .out, .fresh] ⊆ ps)
    (h0 : onlyChanges ps a0 b) : onlyChanges ps a0 (replayNvme e b) := by
  refine onlyChanges_step ?_ hp h0
  unfold replayNvme
  repeat' (first
    | with_reducible assumption
    | with_reducible exact onlyChanges_refl _ _
    | with_reducible refine takeCompletion_frame (by decide) ?_
    | (with_reducible refine onlyChanges_foldl ?_ ?_; intro x y hx)
    | (extract_lets +onlyGivenNames x; refine imp_app (p := onlyChanges _ _ x) ?_ (fun hx => ?_); rotate_left; clear_value x; rotate_right)
    | extract_lets +onlyGivenNames x
    | split
    | dsimp only
    | with_reducible refine upd_fresh_frame (by decide) ?_
    | subst x
    | (intro x))

theorem replayDoorbell_frame {e : TraceEntry} {a0 b : Block} {ps : List Piece} (hp : [.opal, .posts, .evr, .ch, .trace, .out, .fresh] ⊆ ps)
    (h0 : onlyChanges ps a0 b) : onlyChanges ps a0 (replayDoorbell e b) := by
  refine onlyChanges_step ?_ hp h0
  unfold replayDoorbell
  repeat' (first
    | with_reducible assumption
    | with_reducible exact onlyChanges_refl _ _
    | with_reducible refine takeDoorbell_frame (by decide) ?_
    | with_reducible refine serveLedger_frame (by decide) ?_
    | with_reducible refine serveRing_frame (by decide) ?_
    | (with_reducible refine onlyChanges_foldl ?_ ?_; intro x y hx)
    | (extract_lets +onlyGivenNames x; refine imp_app (p := onlyChanges _ _ x) ?_ (fun hx => ?_); rotate_left; clear_value x; rotate_right)
    | extract_lets +onlyGivenNames x
    | split
    | dsimp only
    | subst x
    | (intro x))

theorem replayIndex_frame {e : TraceEntry} {a0 b : Block} {ps : List Piece} (hp : [.posts, .evr, .trace, .out] ⊆ ps)
    (h0 : onlyChanges ps a0 b) : onlyChanges ps a0 (replayIndex e b) := by
  refine onlyChanges_step ?_ hp h0
  unfold replayIndex
  repeat' (first
    | with_reducible assumption
    | with_reducible exact onlyChanges_refl _ _
    | with_reducible refine takeHead_frame (by decide) ?_
    | with_reducible refine takePi_frame (by decide) ?_
    | with_reducible refine serveRing_frame (by decide) ?_
    | (with_reducible refine onlyChanges_foldl ?_ ?_; intro x y hx)
    | (extract_lets +onlyGivenNames x; refine imp_app (p := onlyChanges _ _ x) ?_ (fun hx => ?_); rotate_left; clear_value x; rotate_right)
    | extract_lets +onlyGivenNames x
    | split
    | dsimp only
    | subst x
    | (intro x))

theorem replayOutcome_frame {frame : Nat} {index : Nat} {m : BitVec 16} {a0 b : Block} {ps : List Piece} (hp : [.spinel, .opal, .posts, .evr, .ch, .trace, .out] ⊆ ps)
    (h0 : onlyChanges ps a0 b) : onlyChanges ps a0 (replayOutcome frame index m b) := by
  refine onlyChanges_step ?_ hp h0
  unfold replayOutcome
  repeat' (first
    | with_reducible assumption
    | with_reducible exact onlyChanges_refl _ _
    | with_reducible refine dropHost_frame (by decide) ?_
    | with_reducible refine decideDest_frame (by decide) ?_
    | with_reducible refine markFrame_frame (by decide) ?_
    | with_reducible refine winMod_frame (by decide) ?_
    | with_reducible refine Block.modCh_frame (by decide) ?_
    | (with_reducible refine onlyChanges_foldl ?_ ?_; intro x y hx)
    | (extract_lets +onlyGivenNames x; refine imp_app (p := onlyChanges _ _ x) ?_ (fun hx => ?_); rotate_left; clear_value x; rotate_right)
    | extract_lets +onlyGivenNames x
    | split
    | dsimp only
    | subst x
    | (intro x))

theorem replayOutcomes_frame {frame : Nat} {index : Nat} {m : BitVec 16} {a0 b : Block} {ps : List Piece} (hp : [.spinel, .opal, .posts, .evr, .ch, .trace, .out] ⊆ ps)
    (h0 : onlyChanges ps a0 b) : onlyChanges ps a0 (replayOutcomes frame index m b) := by
  refine onlyChanges_step ?_ hp h0
  unfold replayOutcomes
  repeat' (first
    | with_reducible assumption
    | with_reducible exact onlyChanges_refl _ _
    | with_reducible refine replayOutcome_frame (by decide) ?_
    | (with_reducible refine onlyChanges_foldl ?_ ?_; intro x y hx)
    | (extract_lets +onlyGivenNames x; refine imp_app (p := onlyChanges _ _ x) ?_ (fun hx => ?_); rotate_left; clear_value x; rotate_right)
    | extract_lets +onlyGivenNames x
    | split
    | dsimp only
    | subst x
    | (intro x))

theorem replayFail_frame {e : TraceEntry} {a0 b : Block} {ps : List Piece} (hp : [.jade, .spinel, .opal, .posts, .onyx, .evr, .topaz, .ch, .trace, .out] ⊆ ps)
    (h0 : onlyChanges ps a0 b) : onlyChanges ps a0 (replayFail e b) := by
  refine onlyChanges_step ?_ hp h0
  unfold replayFail
  repeat' (first
    | with_reducible assumption
    | with_reducible exact onlyChanges_refl _ _
    | with_reducible refine replayOutcomes_frame (by decide) ?_
    | with_reducible refine replayOutcome_frame (by decide) ?_
    | with_reducible refine failInOnyx_frame (by decide) ?_
    | with_reducible refine sendFailedItem_frame (by decide) ?_
    | with_reducible refine sendTokens_frame (by decide) ?_
    | (with_reducible refine onlyChanges_foldl ?_ ?_; intro x y hx)
    | (extract_lets +onlyGivenNames x; refine imp_app (p := onlyChanges _ _ x) ?_ (fun hx => ?_); rotate_left; clear_value x; rotate_right)
    | extract_lets +onlyGivenNames x
    | split
    | dsimp only
    | subst x
    | (intro x))

theorem replayPcie_frame {e : TraceEntry} {a0 b : Block} {ps : List Piece} (hp : [.quartz, .jade, .opal, .posts, .onyx, .evr, .topaz, .ch, .trace, .out, .fresh] ⊆ ps)
    (h0 : onlyChanges ps a0 b) : onlyChanges ps a0 (replayPcie e b) := by
  refine onlyChanges_step ?_ hp h0
  unfold replayPcie
  repeat' (first
    | with_reducible assumption
    | with_reducible exact onlyChanges_refl _ _
    | with_reducible refine dmaViolation_frame (by decide) ?_
    | with_reducible refine linkDown_frame (by decide) ?_
    | with_reducible refine portUp_frame (by decide) ?_
    | (with_reducible refine onlyChanges_foldl ?_ ?_; intro x y hx)
    | (extract_lets +onlyGivenNames x; refine imp_app (p := onlyChanges _ _ x) ?_ (fun hx => ?_); rotate_left; clear_value x; rotate_right)
    | extract_lets +onlyGivenNames x
    | split
    | dsimp only
    | with_reducible refine upd_fresh_frame (by decide) ?_
    | subst x
    | (intro x))

theorem replayTrig_frame {e : TraceEntry} {a0 b : Block} {ps : List Piece} (hp : [.garnet] ⊆ ps)
    (h0 : onlyChanges ps a0 b) : onlyChanges ps a0 (replayTrig e b) := by
  refine onlyChanges_step ?_ hp h0
  unfold replayTrig
  repeat' (first
    | with_reducible assumption
    | with_reducible exact onlyChanges_refl _ _
    | with_reducible refine Block.modGarnet_frame (by decide) ?_
    | (with_reducible refine onlyChanges_foldl ?_ ?_; intro x y hx)
    | (extract_lets +onlyGivenNames x; refine imp_app (p := onlyChanges _ _ x) ?_ (fun hx => ?_); rotate_left; clear_value x; rotate_right)
    | extract_lets +onlyGivenNames x
    | split
    | dsimp only
    | subst x
    | (intro x))

theorem checkFact_frame {e : TraceEntry} {a0 b : Block} {ps : List Piece} (hp : [.evr, .ch, .trace] ⊆ ps)
    (h0 : onlyChanges ps a0 b) : onlyChanges ps a0 (checkFact e b) := by
  refine onlyChanges_step ?_ hp h0
  unfold checkFact
  repeat' (first
    | with_reducible assumption
    | with_reducible exact onlyChanges_refl _ _
    | with_reducible refine diverge_frame (by decide) ?_
    | with_reducible refine Block.modCh_frame (by decide) ?_
    | (with_reducible refine onlyChanges_foldl ?_ ?_; intro x y hx)
    | (extract_lets +onlyGivenNames x; refine imp_app (p := onlyChanges _ _ x) ?_ (fun hx => ?_); rotate_left; clear_value x; rotate_right)
    | extract_lets +onlyGivenNames x
    | split
    | dsimp only
    | subst x
    | (intro x))

theorem replayInput_frame {e : TraceEntry} {rest : List TraceEntry} {a0 b : Block} {ps : List Piece} (hp : [.quartz, .disc, .garnet, .jade, .spinel, .opal, .posts, .onyx, .evr, .topaz, .ch, .trace, .out, .fresh] ⊆ ps)
    (h0 : onlyChanges ps a0 b) : onlyChanges ps a0 (replayInput e rest b) := by
  refine onlyChanges_step ?_ hp h0
  unfold replayInput
  repeat' (first
    | with_reducible assumption
    | with_reducible exact onlyChanges_refl _ _
    | with_reducible refine replayTrig_frame (by decide) ?_
    | with_reducible refine replayPcie_frame (by decide) ?_
    | with_reducible refine replayFail_frame (by decide) ?_
    | with_reducible refine replayIndex_frame (by decide) ?_
    | with_reducible refine replayDoorbell_frame (by decide) ?_
    | with_reducible refine replayNvme_frame (by decide) ?_
    | with_reducible refine replayTod_frame (by decide) ?_
    | with_reducible refine replayTime_frame (by decide) ?_
    | with_reducible refine replayBoundary_frame (by decide) ?_
    | with_reducible refine diverge_frame (by decide) ?_
    | with_reducible refine modEvr_frame (by decide) ?_
    | (with_reducible refine onlyChanges_foldl ?_ ?_; intro x y hx)
    | (extract_lets +onlyGivenNames x; refine imp_app (p := onlyChanges _ _ x) ?_ (fun hx => ?_); rotate_left; clear_value x; rotate_right)
    | extract_lets +onlyGivenNames x
    | split
    | dsimp only
    | subst x
    | (intro x))

theorem replayEntry_frame {e : TraceEntry} {rest : List TraceEntry} {a0 b : Block} {ps : List Piece} (hp : [.quartz, .disc, .garnet, .jade, .spinel, .opal, .posts, .onyx, .evr, .topaz, .ch, .trace, .out, .fresh] ⊆ ps)
    (h0 : onlyChanges ps a0 b) : onlyChanges ps a0 (replayEntry e rest b) := by
  refine onlyChanges_step ?_ hp h0
  unfold replayEntry
  repeat' (first
    | with_reducible assumption
    | with_reducible exact onlyChanges_refl _ _
    | with_reducible refine replayInput_frame (by decide) ?_
    | with_reducible refine checkFact_frame (by decide) ?_
    | (with_reducible refine onlyChanges_foldl ?_ ?_; intro x y hx)
    | (extract_lets +onlyGivenNames x; refine imp_app (p := onlyChanges _ _ x) ?_ (fun hx => ?_); rotate_left; clear_value x; rotate_right)
    | extract_lets +onlyGivenNames x
    | split
    | dsimp only
    | subst x
    | (intro x))

theorem runFeed_frame {k : Nat} {a0 b : Block} {ps : List Piece} (hp : [.quartz, .disc, .garnet, .jade, .spinel, .opal, .posts, .onyx, .evr, .topaz, .ch, .trace, .out, .fresh] ⊆ ps)
    (h : onlyChanges ps a0 b) : onlyChanges ps a0 (runFeed k b) := by
  refine onlyChanges_step ?_ hp h
  clear h hp
  induction k generalizing b with
  | zero => exact onlyChanges_refl _ _
  | succ k ih =>
    unfold runFeed
    repeat' (first
      | with_reducible assumption
      | with_reducible exact onlyChanges_refl _ _
      | with_reducible refine onlyChanges_trans ?_ ih
      | with_reducible refine replayEntry_frame (by decide) ?_
      | with_reducible refine modEvr_frame (by decide) ?_
      | (with_reducible refine onlyChanges_foldl ?_ ?_; intro x y hx)
      | (extract_lets +onlyGivenNames x; refine imp_app (p := onlyChanges _ _ x) ?_ (fun hx => ?_); rotate_left; clear_value x; rotate_right)
      | extract_lets +onlyGivenNames x
      | split
      | dsimp only
      | subst x
      | (intro x))

theorem inject_frame {s : Snapshot} {ord : Nat} {marks : BitVec 16} {data : List Byte} {a : Nat} {a0 b : Block} {ps : List Piece} (hp : [.jade, .dram, .ch, .trace] ⊆ ps)
    (h0 : onlyChanges ps a0 b) : onlyChanges ps a0 (inject s ord marks data a b) := by
  refine onlyChanges_step ?_ hp h0
  unfold inject
  repeat' (first
    | with_reducible assumption
    | with_reducible exact onlyChanges_refl _ _
    | with_reducible refine sendTokens_frame (by decide) ?_
    | with_reducible refine Block.dramWrite_frame (by decide) ?_
    | with_reducible refine Block.modJade_frame (by decide) ?_
    | (with_reducible refine onlyChanges_foldl ?_ ?_; intro x y hx)
    | (extract_lets +onlyGivenNames x; refine imp_app (p := onlyChanges _ _ x) ?_ (fun hx => ?_); rotate_left; clear_value x; rotate_right)
    | extract_lets +onlyGivenNames x
    | split
    | dsimp only
    | subst x
    | (intro x))

theorem takeTap_frame {h : List Byte} {data : List Byte} {a0 b : Block} {ps : List Piece} (hp : [.jade, .evr, .dram, .ch, .trace] ⊆ ps)
    (h0 : onlyChanges ps a0 b) : onlyChanges ps a0 (takeTap h data b) := by
  refine onlyChanges_step ?_ hp h0
  unfold takeTap
  repeat' (first
    | with_reducible assumption
    | with_reducible exact onlyChanges_refl _ _
    | with_reducible refine inject_frame (by decide) ?_
    | with_reducible refine diverge_frame (by decide) ?_
    | with_reducible refine modEvr_frame (by decide) ?_
    | (with_reducible refine onlyChanges_foldl ?_ ?_; intro x y hx)
    | (extract_lets +onlyGivenNames x; refine imp_app (p := onlyChanges _ _ x) ?_ (fun hx => ?_); rotate_left; clear_value x; rotate_right)
    | extract_lets +onlyGivenNames x
    | split
    | dsimp only
    | subst x
    | (intro x))

theorem replayFeed_frame {r : ReplayRead} {a0 b : Block} {ps : List Piece} (hp : [.quartz, .disc, .garnet, .jade, .spinel, .opal, .posts, .onyx, .evr, .topaz, .dram, .ch, .trace, .out, .fresh] ⊆ ps)
    (h0 : onlyChanges ps a0 b) : onlyChanges ps a0 (replayFeed r b) := by
  refine onlyChanges_step ?_ hp h0
  unfold replayFeed
  repeat' (first
    | with_reducible assumption
    | with_reducible exact onlyChanges_refl _ _
    | with_reducible refine takeTap_frame (by decide) ?_
    | with_reducible refine runFeed_frame (by decide) ?_
    | with_reducible refine takeBlock_frame (by decide) ?_
    | (with_reducible refine onlyChanges_foldl ?_ ?_; intro x y hx)
    | (extract_lets +onlyGivenNames x; refine imp_app (p := onlyChanges _ _ x) ?_ (fun hx => ?_); rotate_left; clear_value x; rotate_right)
    | extract_lets +onlyGivenNames x
    | split
    | dsimp only
    | subst x
    | (intro x))

theorem resetIslands_frame {a0 b : Block} {ps : List Piece} (hp : [.quartz, .disc, .tod, .garnet, .jade, .spinel, .opal, .posts, .onyx, .agate, .thm, .otc, .evr, .beryl, .topaz, .dram, .ch, .trace, .regs] ⊆ ps)
    (h0 : onlyChanges ps a0 b) : onlyChanges ps a0 (resetIslands b) := by
  refine onlyChanges_step ?_ hp h0
  exact ⟨fun p hp => by cases p <;> first | exact absurd (by decide) hp | rfl⟩

theorem resetAll_frame {a0 b : Block} {ps : List Piece} (hp : [.quartz, .disc, .tod, .garnet, .jade, .spinel, .opal, .posts, .onyx, .agate, .thm, .otc, .evr, .beryl, .topaz, .dram, .ch, .trace, .regs] ⊆ ps)
    (h0 : onlyChanges ps a0 b) : onlyChanges ps a0 (resetAll b) := by
  refine onlyChanges_step ?_ hp h0
  unfold resetAll
  repeat' (first
    | with_reducible assumption
    | with_reducible exact onlyChanges_refl _ _
    | with_reducible refine resetIslands_frame (by decide) ?_
    | with_reducible refine Block.modTopaz_frame (by decide) ?_
    | (with_reducible refine onlyChanges_foldl ?_ ?_; intro x y hx)
    | (extract_lets +onlyGivenNames x; refine imp_app (p := onlyChanges _ _ x) ?_ (fun hx => ?_); rotate_left; clear_value x; rotate_right)
    | extract_lets +onlyGivenNames x
    | split
    | dsimp only
    | with_reducible refine upd_regs_frame (by decide) ?_
    | subst x
    | (intro x))

end Sys2Proof.Machine
end

