-- ==== Sys2Proof/Laws/FrameTopaz.lean ====
section
/-! SUPPORT. Frames of the operations of Power, Faults, Startup, Shutdown, Registers, Readout. -/

namespace Sys2Proof.Machine

theorem modPwr_frame {f : Power → Power} {a0 b : Block} {ps : List Piece} (hp : [.topaz] ⊆ ps)
    (h0 : onlyChanges ps a0 b) : onlyChanges ps a0 (modPwr f b) := by
  refine onlyChanges_step ?_ hp h0
  unfold modPwr
  repeat' (first
    | with_reducible assumption
    | with_reducible exact onlyChanges_refl _ _
    | with_reducible refine Block.modTopaz_frame (by decide) ?_
    | (with_reducible refine onlyChanges_foldl ?_ ?_; intro x y hx)
    | (extract_lets +onlyGivenNames x; refine imp_app (p := onlyChanges _ _ x) ?_ (fun hx => ?_); rotate_left; clear_value x; rotate_right)
    | extract_lets +onlyGivenNames x
    | split
    | dsimp only
    | subst x
    | (intro x))

theorem modPack_frame {f : Pack → Pack} {a0 b : Block} {ps : List Piece} (hp : [.topaz] ⊆ ps)
    (h0 : onlyChanges ps a0 b) : onlyChanges ps a0 (modPack f b) := by
  refine onlyChanges_step ?_ hp h0
  unfold modPack
  repeat' (first
    | with_reducible assumption
    | with_reducible exact onlyChanges_refl _ _
    | with_reducible refine modPwr_frame (by decide) ?_
    | (with_reducible refine onlyChanges_foldl ?_ ?_; intro x y hx)
    | (extract_lets +onlyGivenNames x; refine imp_app (p := onlyChanges _ _ x) ?_ (fun hx => ?_); rotate_left; clear_value x; rotate_right)
    | extract_lets +onlyGivenNames x
    | split
    | dsimp only
    | subst x
    | (intro x))

theorem tellHold_frame {a0 b : Block} {ps : List Piece} (hp : [.posts, .topaz, .out] ⊆ ps)
    (h0 : onlyChanges ps a0 b) : onlyChanges ps a0 (tellHold b) := by
  refine onlyChanges_step ?_ hp h0
  unfold tellHold
  repeat' (first
    | with_reducible assumption
    | with_reducible exact onlyChanges_refl _ _
    | with_reducible refine modPwr_frame (by decide) ?_
    | with_reducible refine postEvent_frame (by decide) ?_
    | (with_reducible refine onlyChanges_foldl ?_ ?_; intro x y hx)
    | (extract_lets +onlyGivenNames x; refine imp_app (p := onlyChanges _ _ x) ?_ (fun hx => ?_); rotate_left; clear_value x; rotate_right)
    | extract_lets +onlyGivenNames x
    | split
    | dsimp only
    | subst x
    | (intro x))

theorem settleHold_frame {a0 b : Block} {ps : List Piece} (hp : [.posts, .topaz, .out] ⊆ ps)
    (h0 : onlyChanges ps a0 b) : onlyChanges ps a0 (settleHold b) := by
  refine onlyChanges_step ?_ hp h0
  unfold settleHold
  repeat' (first
    | with_reducible assumption
    | with_reducible exact onlyChanges_refl _ _
    | with_reducible refine tellHold_frame (by decide) ?_
    | with_reducible refine modPack_frame (by decide) ?_
    | (with_reducible refine onlyChanges_foldl ?_ ?_; intro x y hx)
    | (extract_lets +onlyGivenNames x; refine imp_app (p := onlyChanges _ _ x) ?_ (fun hx => ?_); rotate_left; clear_value x; rotate_right)
    | extract_lets +onlyGivenNames x
    | split
    | dsimp only
    | subst x
    | (intro x))

theorem packRead_frame {ohms : Nat} {temp : Int} {a0 b : Block} {ps : List Piece} (hp : [.posts, .topaz, .out] ⊆ ps)
    (h0 : onlyChanges ps a0 b) : onlyChanges ps a0 (packRead ohms temp b) := by
  refine onlyChanges_step ?_ hp h0
  unfold packRead
  repeat' (first
    | with_reducible assumption
    | with_reducible exact onlyChanges_refl _ _
    | with_reducible refine settleHold_frame (by decide) ?_
    | with_reducible refine modPack_frame (by decide) ?_
    | with_reducible refine modPwr_frame (by decide) ?_
    | (with_reducible refine onlyChanges_foldl ?_ ?_; intro x y hx)
    | (extract_lets +onlyGivenNames x; refine imp_app (p := onlyChanges _ _ x) ?_ (fun hx => ?_); rotate_left; clear_value x; rotate_right)
    | extract_lets +onlyGivenNames x
    | split
    | dsimp only
    | subst x
    | (intro x))

theorem shortCheck_frame {a0 b : Block} {ps : List Piece} (hp : [.posts, .topaz, .out] ⊆ ps)
    (h0 : onlyChanges ps a0 b) : onlyChanges ps a0 (shortCheck b) := by
  refine onlyChanges_step ?_ hp h0
  unfold shortCheck
  repeat' (first
    | with_reducible assumption
    | with_reducible exact onlyChanges_refl _ _
    | with_reducible refine settleHold_frame (by decide) ?_
    | with_reducible refine modPack_frame (by decide) ?_
    | (with_reducible refine onlyChanges_foldl ?_ ?_; intro x y hx)
    | (extract_lets +onlyGivenNames x; refine imp_app (p := onlyChanges _ _ x) ?_ (fun hx => ?_); rotate_left; clear_value x; rotate_right)
    | extract_lets +onlyGivenNames x
    | split
    | dsimp only
    | subst x
    | (intro x))

theorem prechargeTimeout_frame {a0 b : Block} {ps : List Piece} (hp : [.posts, .topaz, .out] ⊆ ps)
    (h0 : onlyChanges ps a0 b) : onlyChanges ps a0 (prechargeTimeout b) := by
  refine onlyChanges_step ?_ hp h0
  unfold prechargeTimeout
  repeat' (first
    | with_reducible assumption
    | with_reducible exact onlyChanges_refl _ _
    | with_reducible refine settleHold_frame (by decide) ?_
    | with_reducible refine modPack_frame (by decide) ?_
    | (with_reducible refine onlyChanges_foldl ?_ ?_; intro x y hx)
    | (extract_lets +onlyGivenNames x; refine imp_app (p := onlyChanges _ _ x) ?_ (fun hx => ?_); rotate_left; clear_value x; rotate_right)
    | extract_lets +onlyGivenNames x
    | split
    | dsimp only
    | subst x
    | (intro x))

theorem chargeDone_frame {a0 b : Block} {ps : List Piece} (hp : [.posts, .topaz, .out] ⊆ ps)
    (h0 : onlyChanges ps a0 b) : onlyChanges ps a0 (chargeDone b) := by
  refine onlyChanges_step ?_ hp h0
  unfold chargeDone
  repeat' (first
    | with_reducible assumption
    | with_reducible exact onlyChanges_refl _ _
    | with_reducible refine settleHold_frame (by decide) ?_
    | with_reducible refine modPack_frame (by decide) ?_
    | (with_reducible refine onlyChanges_foldl ?_ ?_; intro x y hx)
    | (extract_lets +onlyGivenNames x; refine imp_app (p := onlyChanges _ _ x) ?_ (fun hx => ?_); rotate_left; clear_value x; rotate_right)
    | extract_lets +onlyGivenNames x
    | split
    | dsimp only
    | subst x
    | (intro x))

theorem safetyTimerExpiry_frame {a0 b : Block} {ps : List Piece} (hp : [.posts, .topaz, .out] ⊆ ps)
    (h0 : onlyChanges ps a0 b) : onlyChanges ps a0 (safetyTimerExpiry b) := by
  refine onlyChanges_step ?_ hp h0
  unfold safetyTimerExpiry
  repeat' (first
    | with_reducible assumption
    | with_reducible exact onlyChanges_refl _ _
    | with_reducible refine settleHold_frame (by decide) ?_
    | with_reducible refine modPack_frame (by decide) ?_
    | (with_reducible refine onlyChanges_foldl ?_ ?_; intro x y hx)
    | (extract_lets +onlyGivenNames x; refine imp_app (p := onlyChanges _ _ x) ?_ (fun hx => ?_); rotate_left; clear_value x; rotate_right)
    | extract_lets +onlyGivenNames x
    | split
    | dsimp only
    | subst x
    | (intro x))

theorem clrTimer_frame {w : Nat} {a0 b : Block} {ps : List Piece} (hp : [.posts, .topaz, .out] ⊆ ps)
    (h0 : onlyChanges ps a0 b) : onlyChanges ps a0 (clrTimer w b) := by
  refine onlyChanges_step ?_ hp h0
  unfold clrTimer
  repeat' (first
    | with_reducible assumption
    | with_reducible exact onlyChanges_refl _ _
    | with_reducible refine settleHold_frame (by decide) ?_
    | with_reducible refine modPack_frame (by decide) ?_
    | (with_reducible refine onlyChanges_foldl ?_ ?_; intro x y hx)
    | (extract_lets +onlyGivenNames x; refine imp_app (p := onlyChanges _ _ x) ?_ (fun hx => ?_); rotate_left; clear_value x; rotate_right)
    | extract_lets +onlyGivenNames x
    | split
    | dsimp only
    | subst x
    | (intro x))

theorem setMagpwr_frame {m : Nat} {on : Bool} {a0 b : Block} {ps : List Piece} (hp : [.onyx, .topaz] ⊆ ps)
    (h0 : onlyChanges ps a0 b) : onlyChanges ps a0 (setMagpwr m on b) := by
  refine onlyChanges_step ?_ hp h0
  unfold setMagpwr
  repeat' (first
    | with_reducible assumption
    | with_reducible exact onlyChanges_refl _ _
    | with_reducible refine modPwr_frame (by decide) ?_
    | with_reducible refine portMod_frame (by decide) ?_
    | (with_reducible refine onlyChanges_foldl ?_ ?_; intro x y hx)
    | (extract_lets +onlyGivenNames x; refine imp_app (p := onlyChanges _ _ x) ?_ (fun hx => ?_); rotate_left; clear_value x; rotate_right)
    | extract_lets +onlyGivenNames x
    | split
    | dsimp only
    | subst x
    | (intro x))

theorem hupMagpwrWrite_frame {w : Nat} {a0 b : Block} {ps : List Piece} (hp : [.onyx, .topaz, .regs] ⊆ ps)
    (h0 : onlyChanges ps a0 b) : onlyChanges ps a0 (hupMagpwrWrite w b) := by
  refine onlyChanges_step ?_ hp h0
  unfold hupMagpwrWrite
  repeat' (first
    | with_reducible assumption
    | with_reducible exact onlyChanges_refl _ _
    | with_reducible refine setMagpwr_frame (by decide) ?_
    | with_reducible refine Block.setReg_frame (by decide) ?_
    | (with_reducible refine onlyChanges_foldl ?_ ?_; intro x y hx)
    | (extract_lets +onlyGivenNames x; refine imp_app (p := onlyChanges _ _ x) ?_ (fun hx => ?_); rotate_left; clear_value x; rotate_right)
    | extract_lets +onlyGivenNames x
    | split
    | dsimp only
    | subst x
    | (intro x))

theorem keepPoweredRecord_frame {a0 b : Block} {ps : List Piece} (hp : [.onyx, .topaz, .ch, .trace] ⊆ ps)
    (h0 : onlyChanges ps a0 b) : onlyChanges ps a0 (keepPoweredRecord b) := by
  refine onlyChanges_step ?_ hp h0
  unfold keepPoweredRecord
  repeat' (first
    | with_reducible assumption
    | with_reducible exact onlyChanges_refl _ _
    | with_reducible refine setMagpwr_frame (by decide) ?_
    | with_reducible refine Block.modCh_frame (by decide) ?_
    | (with_reducible refine onlyChanges_foldl ?_ ?_; intro x y hx)
    | (extract_lets +onlyGivenNames x; refine imp_app (p := onlyChanges _ _ x) ?_ (fun hx => ?_); rotate_left; clear_value x; rotate_right)
    | extract_lets +onlyGivenNames x
    | split
    | dsimp only
    | subst x
    | (intro x))

theorem latchEntry_frame {e : Half} {a0 b : Block} {ps : List Piece} (hp : [.topaz] ⊆ ps)
    (h0 : onlyChanges ps a0 b) : onlyChanges ps a0 (latchEntry e b) := by
  refine onlyChanges_step ?_ hp h0
  unfold latchEntry
  repeat' (first
    | with_reducible assumption
    | with_reducible exact onlyChanges_refl _ _
    | with_reducible refine Block.modTopaz_frame (by decide) ?_
    | (with_reducible refine onlyChanges_foldl ?_ ?_; intro x y hx)
    | (extract_lets +onlyGivenNames x; refine imp_app (p := onlyChanges _ _ x) ?_ (fun hx => ?_); rotate_left; clear_value x; rotate_right)
    | extract_lets +onlyGivenNames x
    | split
    | dsimp only
    | subst x
    | (intro x))

theorem openSwitch_frame {a0 b : Block} {ps : List Piece} (hp : [.topaz] ⊆ ps)
    (h0 : onlyChanges ps a0 b) : onlyChanges ps a0 (openSwitch b) := by
  refine onlyChanges_step ?_ hp h0
  unfold openSwitch
  repeat' (first
    | with_reducible assumption
    | with_reducible exact onlyChanges_refl _ _
    | with_reducible refine modPwr_frame (by decide) ?_
    | (with_reducible refine onlyChanges_foldl ?_ ?_; intro x y hx)
    | (extract_lets +onlyGivenNames x; refine imp_app (p := onlyChanges _ _ x) ?_ (fun hx => ?_); rotate_left; clear_value x; rotate_right)
    | extract_lets +onlyGivenNames x
    | split
    | dsimp only
    | subst x
    | (intro x))

theorem showStarts_frame {ok : Option Bool} {a0 b : Block} {ps : List Piece} (hp : [.topaz] ⊆ ps)
    (h0 : onlyChanges ps a0 b) : onlyChanges ps a0 (showStarts ok b) := by
  refine onlyChanges_step ?_ hp h0
  unfold showStarts
  repeat' (first
    | with_reducible assumption
    | with_reducible exact onlyChanges_refl _ _
    | with_reducible refine openSwitch_frame (by decide) ?_
    | with_reducible refine modPwr_frame (by decide) ?_
    | (with_reducible refine onlyChanges_foldl ?_ ?_; intro x y hx)
    | (extract_lets +onlyGivenNames x; refine imp_app (p := onlyChanges _ _ x) ?_ (fun hx => ?_); rotate_left; clear_value x; rotate_right)
    | extract_lets +onlyGivenNames x
    | split
    | dsimp only
    | subst x
    | (intro x))

theorem railsDown_frame {a0 b : Block} {ps : List Piece} (hp : [.posts, .topaz, .out] ⊆ ps)
    (h0 : onlyChanges ps a0 b) : onlyChanges ps a0 (railsDown b) := by
  refine onlyChanges_step ?_ hp h0
  unfold railsDown
  repeat' (first
    | with_reducible assumption
    | with_reducible exact onlyChanges_refl _ _
    | with_reducible refine showStarts_frame (by decide) ?_
    | with_reducible refine openSwitch_frame (by decide) ?_
    | with_reducible refine tellHold_frame (by decide) ?_
    | with_reducible refine modPwr_frame (by decide) ?_
    | with_reducible refine settleFaultPin_frame (by decide) ?_
    | with_reducible refine Block.modTopaz_frame (by decide) ?_
    | (with_reducible refine onlyChanges_foldl ?_ ?_; intro x y hx)
    | (extract_lets +onlyGivenNames x; refine imp_app (p := onlyChanges _ _ x) ?_ (fun hx => ?_); rotate_left; clear_value x; rotate_right)
    | extract_lets +onlyGivenNames x
    | split
    | dsimp only
    | subst x
    | (intro x))

theorem startDrop_frame {r : DropReason} {a0 b : Block} {ps : List Piece} (hp : [.quartz, .disc, .tod, .garnet, .jade, .spinel, .opal, .posts, .onyx, .agate, .thm, .otc, .evr, .beryl, .topaz, .dram, .ch, .trace, .regs, .out] ⊆ ps)
    (h0 : onlyChanges ps a0 b) : onlyChanges ps a0 (startDrop r b) := by
  refine onlyChanges_step ?_ hp h0
  unfold startDrop
  repeat' (first
    | with_reducible assumption
    | with_reducible exact onlyChanges_refl _ _
    | with_reducible refine railsDown_frame (by decide) ?_
    | with_reducible refine latchEntry_frame (by decide) ?_
    | with_reducible refine setMagpwr_frame (by decide) ?_
    | with_reducible refine modPwr_frame (by decide) ?_
    | with_reducible refine resetIslands_frame (by decide) ?_
    | with_reducible refine Block.modTopaz_frame (by decide) ?_
    | (with_reducible refine onlyChanges_foldl ?_ ?_; intro x y hx)
    | (extract_lets +onlyGivenNames x; refine imp_app (p := onlyChanges _ _ x) ?_ (fun hx => ?_); rotate_left; clear_value x; rotate_right)
    | extract_lets +onlyGivenNames x
    | split
    | dsimp only
    | subst x
    | (intro x))

theorem railDownStep_frame {a0 b : Block} {ps : List Piece} (hp : [.posts, .topaz, .out] ⊆ ps)
    (h0 : onlyChanges ps a0 b) : onlyChanges ps a0 (railDownStep b) := by
  refine onlyChanges_step ?_ hp h0
  unfold railDownStep
  repeat' (first
    | with_reducible assumption
    | with_reducible exact onlyChanges_refl _ _
    | with_reducible refine railsDown_frame (by decide) ?_
    | with_reducible refine Block.modTopaz_frame (by decide) ?_
    | (with_reducible refine onlyChanges_foldl ?_ ?_; intro x y hx)
    | (extract_lets +onlyGivenNames x; refine imp_app (p := onlyChanges _ _ x) ?_ (fun hx => ?_); rotate_left; clear_value x; rotate_right)
    | extract_lets +onlyGivenNames x
    | split
    | dsimp only
    | subst x
    | (intro x))

theorem controlStep_frame {mv : Nat} {ma : Int} {vbus : Nat} {a0 b : Block} {ps : List Piece} (hp : [.quartz, .disc, .tod, .garnet, .jade, .spinel, .opal, .posts, .onyx, .agate, .thm, .otc, .evr, .beryl, .topaz, .dram, .ch, .trace, .regs, .out] ⊆ ps)
    (h0 : onlyChanges ps a0 b) : onlyChanges ps a0 (controlStep mv ma vbus b) := by
  refine onlyChanges_step ?_ hp h0
  unfold controlStep
  repeat' (first
    | with_reducible assumption
    | with_reducible exact onlyChanges_refl _ _
    | with_reducible refine startDrop_frame (by decide) ?_
    | with_reducible refine settleHold_frame (by decide) ?_
    | with_reducible refine modPack_frame (by decide) ?_
    | with_reducible refine modPwr_frame (by decide) ?_
    | (with_reducible refine onlyChanges_foldl ?_ ?_; intro x y hx)
    | (extract_lets +onlyGivenNames x; refine imp_app (p := onlyChanges _ _ x) ?_ (fun hx => ?_); rotate_left; clear_value x; rotate_right)
    | extract_lets +onlyGivenNames x
    | split
    | dsimp only
    | subst x
    | (intro x))

theorem logKey_frame {edge : Nat} {held : Nat} {a0 b : Block} {ps : List Piece} (hp : [.evr, .trace] ⊆ ps)
    (h0 : onlyChanges ps a0 b) : onlyChanges ps a0 (logKey edge held b) := by
  refine onlyChanges_step ?_ hp h0
  unfold logKey
  repeat' (first
    | with_reducible assumption
    | with_reducible exact onlyChanges_refl _ _
    | with_reducible refine Block.logEvr_frame (by decide) ?_
    | (with_reducible refine onlyChanges_foldl ?_ ?_; intro x y hx)
    | (extract_lets +onlyGivenNames x; refine imp_app (p := onlyChanges _ _ x) ?_ (fun hx => ?_); rotate_left; clear_value x; rotate_right)
    | extract_lets +onlyGivenNames x
    | split
    | dsimp only
    | subst x
    | (intro x))

theorem keyPress_frame {a0 b : Block} {ps : List Piece} (hp : [.evr, .topaz, .trace] ⊆ ps)
    (h0 : onlyChanges ps a0 b) : onlyChanges ps a0 (keyPress b) := by
  refine onlyChanges_step ?_ hp h0
  unfold keyPress
  repeat' (first
    | with_reducible assumption
    | with_reducible exact onlyChanges_refl _ _
    | with_reducible refine logKey_frame (by decide) ?_
    | with_reducible refine modPwr_frame (by decide) ?_
    | (with_reducible refine onlyChanges_foldl ?_ ?_; intro x y hx)
    | (extract_lets +onlyGivenNames x; refine imp_app (p := onlyChanges _ _ x) ?_ (fun hx => ?_); rotate_left; clear_value x; rotate_right)
    | extract_lets +onlyGivenNames x
    | split
    | dsimp only
    | subst x
    | (intro x))

theorem keyRestartHold_frame {a0 b : Block} {ps : List Piece} (hp : [.posts, .topaz, .out] ⊆ ps)
    (h0 : onlyChanges ps a0 b) : onlyChanges ps a0 (keyRestartHold b) := by
  refine onlyChanges_step ?_ hp h0
  unfold keyRestartHold
  repeat' (first
    | with_reducible assumption
    | with_reducible exact onlyChanges_refl _ _
    | with_reducible refine tellHold_frame (by decide) ?_
    | with_reducible refine modPwr_frame (by decide) ?_
    | (with_reducible refine onlyChanges_foldl ?_ ?_; intro x y hx)
    | (extract_lets +onlyGivenNames x; refine imp_app (p := onlyChanges _ _ x) ?_ (fun hx => ?_); rotate_left; clear_value x; rotate_right)
    | extract_lets +onlyGivenNames x
    | split
    | dsimp only
    | subst x
    | (intro x))

theorem keyShipHold_frame {a0 b : Block} {ps : List Piece} (hp : [.posts, .topaz, .out] ⊆ ps)
    (h0 : onlyChanges ps a0 b) : onlyChanges ps a0 (keyShipHold b) := by
  refine onlyChanges_step ?_ hp h0
  unfold keyShipHold
  repeat' (first
    | with_reducible assumption
    | with_reducible exact onlyChanges_refl _ _
    | with_reducible refine tellHold_frame (by decide) ?_
    | with_reducible refine modPwr_frame (by decide) ?_
    | (with_reducible refine onlyChanges_foldl ?_ ?_; intro x y hx)
    | (extract_lets +onlyGivenNames x; refine imp_app (p := onlyChanges _ _ x) ?_ (fun hx => ?_); rotate_left; clear_value x; rotate_right)
    | extract_lets +onlyGivenNames x
    | split
    | dsimp only
    | subst x
    | (intro x))

theorem keyAct_frame {a : KeyAction} {a0 b : Block} {ps : List Piece} (hp : [.quartz, .disc, .tod, .garnet, .jade, .spinel, .opal, .posts, .onyx, .agate, .thm, .otc, .evr, .beryl, .topaz, .dram, .ch, .trace, .regs, .out] ⊆ ps)
    (h0 : onlyChanges ps a0 b) : onlyChanges ps a0 (keyAct a b) := by
  refine onlyChanges_step ?_ hp h0
  unfold keyAct
  repeat' (first
    | with_reducible assumption
    | with_reducible exact onlyChanges_refl _ _
    | with_reducible refine startDrop_frame (by decide) ?_
    | with_reducible refine modPwr_frame (by decide) ?_
    | (with_reducible refine onlyChanges_foldl ?_ ?_; intro x y hx)
    | (extract_lets +onlyGivenNames x; refine imp_app (p := onlyChanges _ _ x) ?_ (fun hx => ?_); rotate_left; clear_value x; rotate_right)
    | extract_lets +onlyGivenNames x
    | split
    | dsimp only
    | subst x
    | (intro x))

theorem shipModeEnter_frame {a0 b : Block} {ps : List Piece} (hp : [.quartz, .disc, .tod, .garnet, .jade, .spinel, .opal, .posts, .onyx, .agate, .thm, .otc, .evr, .beryl, .topaz, .dram, .ch, .trace, .regs, .out] ⊆ ps)
    (h0 : onlyChanges ps a0 b) : onlyChanges ps a0 (shipModeEnter b) := by
  refine onlyChanges_step ?_ hp h0
  unfold shipModeEnter
  repeat' (first
    | with_reducible assumption
    | with_reducible exact onlyChanges_refl _ _
    | with_reducible refine keyAct_frame (by decide) ?_
    | with_reducible refine modPwr_frame (by decide) ?_
    | (with_reducible refine onlyChanges_foldl ?_ ?_; intro x y hx)
    | (extract_lets +onlyGivenNames x; refine imp_app (p := onlyChanges _ _ x) ?_ (fun hx => ?_); rotate_left; clear_value x; rotate_right)
    | extract_lets +onlyGivenNames x
    | split
    | dsimp only
    | subst x
    | (intro x))

theorem keyNRelease_frame {held : Nat} {a0 b : Block} {ps : List Piece} (hp : [.quartz, .disc, .tod, .garnet, .jade, .spinel, .opal, .posts, .onyx, .agate, .thm, .otc, .evr, .beryl, .topaz, .dram, .ch, .trace, .regs, .out] ⊆ ps)
    (h0 : onlyChanges ps a0 b) : onlyChanges ps a0 (keyNRelease held b) := by
  refine onlyChanges_step ?_ hp h0
  unfold keyNRelease
  repeat' (first
    | with_reducible assumption
    | with_reducible exact onlyChanges_refl _ _
    | with_reducible refine keyAct_frame (by decide) ?_
    | with_reducible refine logKey_frame (by decide) ?_
    | with_reducible refine tellHold_frame (by decide) ?_
    | with_reducible refine modPwr_frame (by decide) ?_
    | (with_reducible refine onlyChanges_foldl ?_ ?_; intro x y hx)
    | (extract_lets +onlyGivenNames x; refine imp_app (p := onlyChanges _ _ x) ?_ (fun hx => ?_); rotate_left; clear_value x; rotate_right)
    | extract_lets +onlyGivenNames x
    | split
    | dsimp only
    | subst x
    | (intro x))

theorem postIslandFault_frame {i : Island} {c : FaultClass} {stamp : Nat} {action : Nat} {frame : Nat} {a0 b : Block} {ps : List Piece} (hp : [.posts, .evr, .topaz, .trace, .out] ⊆ ps)
    (h0 : onlyChanges ps a0 b) : onlyChanges ps a0 (postIslandFault i c stamp action frame b) := by
  refine onlyChanges_step ?_ hp h0
  unfold postIslandFault
  repeat' (first
    | with_reducible assumption
    | with_reducible exact onlyChanges_refl _ _
    | with_reducible refine postEventAt_frame (by decide) ?_
    | (with_reducible refine onlyChanges_foldl ?_ ?_; intro x y hx)
    | (extract_lets +onlyGivenNames x; refine imp_app (p := onlyChanges _ _ x) ?_ (fun hx => ?_); rotate_left; clear_value x; rotate_right)
    | extract_lets +onlyGivenNames x
    | split
    | dsimp only
    | subst x
    | (intro x))

theorem logFault_frame {i : Island} {c : FaultClass} {stamp : Nat} {action : Nat} {a0 b : Block} {ps : List Piece} (hp : [.posts, .evr, .topaz, .trace, .out] ⊆ ps)
    (h0 : onlyChanges ps a0 b) : onlyChanges ps a0 (logFault i c stamp action b) := by
  refine onlyChanges_step ?_ hp h0
  unfold logFault
  repeat' (first
    | with_reducible assumption
    | with_reducible exact onlyChanges_refl _ _
    | with_reducible refine Block.logEvr_frame (by decide) ?_
    | (with_reducible refine onlyChanges_foldl ?_ ?_; intro x y hx)
    | (extract_lets +onlyGivenNames x; refine imp_app (p := onlyChanges _ _ x) ?_ (fun hx => ?_); rotate_left; clear_value x; rotate_right)
    | extract_lets +onlyGivenNames x
    | split
    | dsimp only
    | subst x
    | (intro x))

theorem failDescs_frame {i : Island} {st : Nat} {a0 b : Block} {ps : List Piece} (hp : [.posts, .evr, .trace, .out] ⊆ ps)
    (h0 : onlyChanges ps a0 b) : onlyChanges ps a0 (failDescs i st b) := by
  refine onlyChanges_step ?_ hp h0
  unfold failDescs
  repeat' (first
    | with_reducible assumption
    | with_reducible exact onlyChanges_refl _ _
    | with_reducible refine finish_frame (by decide) ?_
    | (with_reducible refine onlyChanges_foldl ?_ ?_; intro x y hx)
    | (extract_lets +onlyGivenNames x; refine imp_app (p := onlyChanges _ _ x) ?_ (fun hx => ?_); rotate_left; clear_value x; rotate_right)
    | extract_lets +onlyGivenNames x
    | split
    | dsimp only
    | subst x
    | (intro x))

theorem endTakeFault_frame {a0 b : Block} {ps : List Piece} (hp : [.disc, .garnet, .opal, .posts, .evr, .ch, .trace, .out] ⊆ ps)
    (h0 : onlyChanges ps a0 b) : onlyChanges ps a0 (endTakeFault b) := by
  refine onlyChanges_step ?_ hp h0
  unfold endTakeFault
  repeat' (first
    | with_reducible assumption
    | with_reducible exact onlyChanges_refl _ _
    | with_reducible refine takeStop_frame (by decide) ?_
    | with_reducible refine takeStart_frame (by decide) ?_
    | with_reducible refine sendNotice_frame (by decide) ?_
    | with_reducible refine endTake_frame (by decide) ?_
    | (with_reducible refine onlyChanges_foldl ?_ ?_; intro x y hx)
    | (extract_lets +onlyGivenNames x; refine imp_app (p := onlyChanges _ _ x) ?_ (fun hx => ?_); rotate_left; clear_value x; rotate_right)
    | extract_lets +onlyGivenNames x
    | split
    | dsimp only
    | subst x
    | (intro x))

theorem failGarnet_frame {mark : BitVec 16} {a0 b : Block} {ps : List Piece} (hp : [.disc, .garnet, .opal, .posts, .evr, .topaz, .ch, .trace, .out] ⊆ ps)
    (h0 : onlyChanges ps a0 b) : onlyChanges ps a0 (failGarnet mark b) := by
  refine onlyChanges_step ?_ hp h0
  unfold failGarnet
  repeat' (first
    | with_reducible assumption
    | with_reducible exact onlyChanges_refl _ _
    | with_reducible refine endTakeFault_frame (by decide) ?_
    | with_reducible refine noteFailed_frame (by decide) ?_
    | with_reducible refine failFrame_frame (by decide) ?_
    | with_reducible refine sendHeader_frame (by decide) ?_
    | with_reducible refine Block.modGarnet_frame (by decide) ?_
    | (with_reducible refine onlyChanges_foldl ?_ ?_; intro x y hx)
    | (extract_lets +onlyGivenNames x; refine imp_app (p := onlyChanges _ _ x) ?_ (fun hx => ?_); rotate_left; clear_value x; rotate_right)
    | extract_lets +onlyGivenNames x
    | split
    | dsimp only
    | subst x
    | (intro x))

theorem failInJade_frame {frame : Nat} {a0 b : Block} {ps : List Piece} (hp : [.jade, .topaz, .ch, .trace] ⊆ ps)
    (h0 : onlyChanges ps a0 b) : onlyChanges ps a0 (failInJade frame b) := by
  refine onlyChanges_step ?_ hp h0
  unfold failInJade
  repeat' (first
    | with_reducible assumption
    | with_reducible exact onlyChanges_refl _ _
    | with_reducible refine sendFailedItem_frame (by decide) ?_
    | with_reducible refine closeFrame_frame (by decide) ?_
    | with_reducible refine noteFailed_frame (by decide) ?_
    | with_reducible refine Block.modJade_frame (by decide) ?_
    | (with_reducible refine onlyChanges_foldl ?_ ?_; intro x y hx)
    | (extract_lets +onlyGivenNames x; refine imp_app (p := onlyChanges _ _ x) ?_ (fun hx => ?_); rotate_left; clear_value x; rotate_right)
    | extract_lets +onlyGivenNames x
    | split
    | dsimp only
    | subst x
    | (intro x))

theorem failTransfers_frame {a0 b : Block} {ps : List Piece} (hp : [.posts, .agate, .evr, .trace, .out] ⊆ ps)
    (h0 : onlyChanges ps a0 b) : onlyChanges ps a0 (failTransfers b) := by
  refine onlyChanges_step ?_ hp h0
  unfold failTransfers
  repeat' (first
    | with_reducible assumption
    | with_reducible exact onlyChanges_refl _ _
    | with_reducible refine failDescs_frame (by decide) ?_
    | with_reducible refine finishCtrl_frame (by decide) ?_
    | with_reducible refine Block.modAgate_frame (by decide) ?_
    | (with_reducible refine onlyChanges_foldl ?_ ?_; intro x y hx)
    | (extract_lets +onlyGivenNames x; refine imp_app (p := onlyChanges _ _ x) ?_ (fun hx => ?_); rotate_left; clear_value x; rotate_right)
    | extract_lets +onlyGivenNames x
    | split
    | dsimp only
    | subst x
    | (intro x))

theorem failFrameIn_frame {i : Island} {frame : Nat} {a0 b : Block} {ps : List Piece} (hp : [.jade, .spinel, .opal, .posts, .onyx, .evr, .topaz, .ch, .trace, .out] ⊆ ps)
    (h0 : onlyChanges ps a0 b) : onlyChanges ps a0 (failFrameIn i frame b) := by
  refine onlyChanges_step ?_ hp h0
  unfold failFrameIn
  repeat' (first
    | with_reducible assumption
    | with_reducible exact onlyChanges_refl _ _
    | with_reducible refine failInJade_frame (by decide) ?_
    | with_reducible refine failInOnyx_frame (by decide) ?_
    | with_reducible refine failInSpinel_frame (by decide) ?_
    | with_reducible refine failInOpal_frame (by decide) ?_
    | (with_reducible refine onlyChanges_foldl ?_ ?_; intro x y hx)
    | (extract_lets +onlyGivenNames x; refine imp_app (p := onlyChanges _ _ x) ?_ (fun hx => ?_); rotate_left; clear_value x; rotate_right)
    | extract_lets +onlyGivenNames x
    | split
    | dsimp only
    | subst x
    | (intro x))

theorem failHeld_frame {i : Island} {all : Bool} {a0 b : Block} {ps : List Piece} (hp : [.jade, .spinel, .opal, .posts, .onyx, .evr, .topaz, .ch, .trace, .out] ⊆ ps)
    (h0 : onlyChanges ps a0 b) : onlyChanges ps a0 (failHeld i all b) := by
  refine onlyChanges_step ?_ hp h0
  unfold failHeld
  repeat' (first
    | with_reducible assumption
    | with_reducible exact onlyChanges_refl _ _
    | with_reducible refine failFrameIn_frame (by decide) ?_
    | (with_reducible refine onlyChanges_foldl ?_ ?_; intro x y hx)
    | (extract_lets +onlyGivenNames x; refine imp_app (p := onlyChanges _ _ x) ?_ (fun hx => ?_); rotate_left; clear_value x; rotate_right)
    | extract_lets +onlyGivenNames x
    | split
    | dsimp only
    | subst x
    | (intro x))

theorem failItems_frame {i : Island} {a0 b : Block} {ps : List Piece} (hp : [.disc, .garnet, .jade, .spinel, .opal, .posts, .onyx, .agate, .evr, .topaz, .ch, .trace, .out] ⊆ ps)
    (h0 : onlyChanges ps a0 b) : onlyChanges ps a0 (failItems i b) := by
  refine onlyChanges_step ?_ hp h0
  unfold failItems
  repeat' (first
    | with_reducible assumption
    | with_reducible exact onlyChanges_refl _ _
    | with_reducible refine failHeld_frame (by decide) ?_
    | with_reducible refine failTransfers_frame (by decide) ?_
    | with_reducible refine failGarnet_frame (by decide) ?_
    | with_reducible refine failDescs_frame (by decide) ?_
    | with_reducible refine Block.modOnyx_frame (by decide) ?_
    | with_reducible refine Block.modSpinel_frame (by decide) ?_
    | with_reducible refine Block.modJade_frame (by decide) ?_
    | with_reducible refine Block.modGarnet_frame (by decide) ?_
    | (with_reducible refine onlyChanges_foldl ?_ ?_; intro x y hx)
    | (extract_lets +onlyGivenNames x; refine imp_app (p := onlyChanges _ _ x) ?_ (fun hx => ?_); rotate_left; clear_value x; rotate_right)
    | extract_lets +onlyGivenNames x
    | split
    | dsimp only
    | subst x
    | (intro x))

theorem failStopIsland_frame {i : Island} {dead : Bool} {a0 b : Block} {ps : List Piece} (hp : [.disc, .garnet, .jade, .spinel, .opal, .posts, .onyx, .agate, .evr, .topaz, .ch, .trace, .out] ⊆ ps)
    (h0 : onlyChanges ps a0 b) : onlyChanges ps a0 (failStopIsland i dead b) := by
  refine onlyChanges_step ?_ hp h0
  unfold failStopIsland
  repeat' (first
    | with_reducible assumption
    | with_reducible exact onlyChanges_refl _ _
    | with_reducible refine failItems_frame (by decide) ?_
    | with_reducible refine endTakeFault_frame (by decide) ?_
    | with_reducible refine logFault_frame (by decide) ?_
    | with_reducible refine postIslandFault_frame (by decide) ?_
    | with_reducible refine settleFaultPin_frame (by decide) ?_
    | with_reducible refine Block.modIsl_frame (by decide) ?_
    | (with_reducible refine onlyChanges_foldl ?_ ?_; intro x y hx)
    | (extract_lets +onlyGivenNames x; refine imp_app (p := onlyChanges _ _ x) ?_ (fun hx => ?_); rotate_left; clear_value x; rotate_right)
    | extract_lets +onlyGivenNames x
    | split
    | dsimp only
    | subst x
    | (intro x))

theorem sendShutdown_frame {a0 b : Block} {ps : List Piece} (hp : [.topaz, .ch, .trace] ⊆ ps)
    (h0 : onlyChanges ps a0 b) : onlyChanges ps a0 (sendShutdown b) := by
  refine onlyChanges_step ?_ hp h0
  unfold sendShutdown
  repeat' (first
    | with_reducible assumption
    | with_reducible exact onlyChanges_refl _ _
    | with_reducible refine Block.modCh_frame (by decide) ?_
    | with_reducible refine Block.modTopaz_frame (by decide) ?_
    | (with_reducible refine onlyChanges_foldl ?_ ?_; intro x y hx)
    | (extract_lets +onlyGivenNames x; refine imp_app (p := onlyChanges _ _ x) ?_ (fun hx => ?_); rotate_left; clear_value x; rotate_right)
    | extract_lets +onlyGivenNames x
    | split
    | dsimp only
    | subst x
    | (intro x))

theorem fatalFault_frame {i : Island} {a0 b : Block} {ps : List Piece} (hp : [.disc, .garnet, .opal, .posts, .evr, .topaz, .ch, .trace, .out] ⊆ ps)
    (h0 : onlyChanges ps a0 b) : onlyChanges ps a0 (fatalFault i b) := by
  refine onlyChanges_step ?_ hp h0
  unfold fatalFault
  repeat' (first
    | with_reducible assumption
    | with_reducible exact onlyChanges_refl _ _
    | with_reducible refine sendShutdown_frame (by decide) ?_
    | with_reducible refine failGarnet_frame (by decide) ?_
    | with_reducible refine logFault_frame (by decide) ?_
    | with_reducible refine postIslandFault_frame (by decide) ?_
    | with_reducible refine settleFaultPin_frame (by decide) ?_
    | with_reducible refine Block.modIsl_frame (by decide) ?_
    | with_reducible refine Block.modTopaz_frame (by decide) ?_
    | with_reducible refine Block.modGarnet_frame (by decide) ?_
    | (with_reducible refine onlyChanges_foldl ?_ ?_; intro x y hx)
    | (extract_lets +onlyGivenNames x; refine imp_app (p := onlyChanges _ _ x) ?_ (fun hx => ?_); rotate_left; clear_value x; rotate_right)
    | extract_lets +onlyGivenNames x
    | split
    | dsimp only
    | subst x
    | (intro x))

theorem islandDetects_frame {i : Island} {c : FaultClass} {a0 b : Block} {ps : List Piece} (hp : [.disc, .garnet, .jade, .spinel, .opal, .posts, .onyx, .agate, .evr, .topaz, .ch, .trace, .out] ⊆ ps)
    (h0 : onlyChanges ps a0 b) : onlyChanges ps a0 (islandDetects i c b) := by
  refine onlyChanges_step ?_ hp h0
  unfold islandDetects
  repeat' (first
    | with_reducible assumption
    | with_reducible exact onlyChanges_refl _ _
    | with_reducible refine fatalFault_frame (by decide) ?_
    | with_reducible refine failStopIsland_frame (by decide) ?_
    | with_reducible refine Block.modIsl_frame (by decide) ?_
    | (with_reducible refine onlyChanges_foldl ?_ ?_; intro x y hx)
    | (extract_lets +onlyGivenNames x; refine imp_app (p := onlyChanges _ _ x) ?_ (fun hx => ?_); rotate_left; clear_value x; rotate_right)
    | extract_lets +onlyGivenNames x
    | split
    | dsimp only
    | subst x
    | (intro x))

theorem islandFault_frame {i : Island} {c : FaultClass} {a0 b : Block} {ps : List Piece} (hp : [.disc, .garnet, .jade, .spinel, .opal, .posts, .onyx, .agate, .evr, .topaz, .ch, .trace, .out] ⊆ ps)
    (h0 : onlyChanges ps a0 b) : onlyChanges ps a0 (islandFault i c b) := by
  refine onlyChanges_step ?_ hp h0
  unfold islandFault
  repeat' (first
    | with_reducible assumption
    | with_reducible exact onlyChanges_refl _ _
    | with_reducible refine islandDetects_frame (by decide) ?_
    | with_reducible refine eccCount_frame (by decide) ?_
    | (with_reducible refine onlyChanges_foldl ?_ ?_; intro x y hx)
    | (extract_lets +onlyGivenNames x; refine imp_app (p := onlyChanges _ _ x) ?_ (fun hx => ?_); rotate_left; clear_value x; rotate_right)
    | extract_lets +onlyGivenNames x
    | split
    | dsimp only
    | subst x
    | (intro x))

theorem stall_frame {i : Island} {since : Nat} {a0 b : Block} {ps : List Piece} (hp : [.quartz, .disc, .garnet, .jade, .spinel, .opal, .posts, .onyx, .agate, .evr, .topaz, .ch, .trace, .out] ⊆ ps)
    (h0 : onlyChanges ps a0 b) : onlyChanges ps a0 (stall i since b) := by
  refine onlyChanges_step ?_ hp h0
  unfold stall
  repeat' (first
    | with_reducible assumption
    | with_reducible exact onlyChanges_refl _ _
    | with_reducible refine islandDetects_frame (by decide) ?_
    | with_reducible refine Block.advance_frame (by decide) ?_
    | (with_reducible refine onlyChanges_foldl ?_ ?_; intro x y hx)
    | (extract_lets +onlyGivenNames x; refine imp_app (p := onlyChanges _ _ x) ?_ (fun hx => ?_); rotate_left; clear_value x; rotate_right)
    | extract_lets +onlyGivenNames x
    | split
    | dsimp only
    | subst x
    | (intro x))

theorem passCadence_frame {m : CadMsg} {a0 b : Block} {ps : List Piece} (hp : [.garnet] ⊆ ps)
    (h0 : onlyChanges ps a0 b) : onlyChanges ps a0 (passCadence m b) := by
  refine onlyChanges_step ?_ hp h0
  unfold passCadence
  repeat' (first
    | with_reducible assumption
    | with_reducible exact onlyChanges_refl _ _
    | with_reducible refine Block.modGarnet_frame (by decide) ?_
    | (with_reducible refine onlyChanges_foldl ?_ ?_; intro x y hx)
    | (extract_lets +onlyGivenNames x; refine imp_app (p := onlyChanges _ _ x) ?_ (fun hx => ?_); rotate_left; clear_value x; rotate_right)
    | extract_lets +onlyGivenNames x
    | split
    | dsimp only
    | subst x
    | (intro x))

theorem passAll_frame {a0 b : Block} {ps : List Piece} (hp : [.garnet, .ch, .trace] ⊆ ps)
    (h0 : onlyChanges ps a0 b) : onlyChanges ps a0 (passAll b) := by
  refine onlyChanges_step ?_ hp h0
  unfold passAll
  repeat' (first
    | with_reducible assumption
    | with_reducible exact onlyChanges_refl _ _
    | with_reducible refine passCadence_frame (by decide) ?_
    | with_reducible refine Block.modCh_frame (by decide) ?_
    | (with_reducible refine onlyChanges_foldl ?_ ?_; intro x y hx)
    | (extract_lets +onlyGivenNames x; refine imp_app (p := onlyChanges _ _ x) ?_ (fun hx => ?_); rotate_left; clear_value x; rotate_right)
    | extract_lets +onlyGivenNames x
    | split
    | dsimp only
    | subst x
    | (intro x))

theorem clearWork_frame {i : Island} {a0 b : Block} {ps : List Piece} (hp : [.disc, .garnet, .jade, .spinel, .opal, .posts, .onyx, .agate, .evr, .topaz, .ch, .trace, .out] ⊆ ps)
    (h0 : onlyChanges ps a0 b) : onlyChanges ps a0 (clearWork i b) := by
  refine onlyChanges_step ?_ hp h0
  unfold clearWork
  repeat' (first
    | with_reducible assumption
    | with_reducible exact onlyChanges_refl _ _
    | with_reducible refine passAll_frame (by decide) ?_
    | with_reducible refine failTransfers_frame (by decide) ?_
    | with_reducible refine failGarnet_frame (by decide) ?_
    | with_reducible refine Block.modOut_frame (by decide) ?_
    | with_reducible refine Block.modCh_frame (by decide) ?_
    | with_reducible refine Block.modAgate_frame (by decide) ?_
    | with_reducible refine Block.modOnyx_frame (by decide) ?_
    | with_reducible refine Block.modOpal_frame (by decide) ?_
    | with_reducible refine Block.modSpinel_frame (by decide) ?_
    | with_reducible refine Block.modJade_frame (by decide) ?_
    | with_reducible refine Block.modGarnet_frame (by decide) ?_
    | (with_reducible refine onlyChanges_foldl ?_ ?_; intro x y hx)
    | (extract_lets +onlyGivenNames x; refine imp_app (p := onlyChanges _ _ x) ?_ (fun hx => ?_); rotate_left; clear_value x; rotate_right)
    | extract_lets +onlyGivenNames x
    | split
    | dsimp only
    | subst x
    | (intro x))

theorem loseConfig_frame {i : Island} {a0 b : Block} {ps : List Piece} (hp : [.garnet, .jade, .spinel, .opal, .posts, .onyx, .agate, .evr, .topaz, .dram, .ch, .trace, .regs, .out] ⊆ ps)
    (h0 : onlyChanges ps a0 b) : onlyChanges ps a0 (loseConfig i b) := by
  refine onlyChanges_step ?_ hp h0
  unfold loseConfig
  repeat' (first
    | with_reducible assumption
    | with_reducible exact onlyChanges_refl _ _
    | with_reducible refine failDescs_frame (by decide) ?_
    | with_reducible refine Block.modTopaz_frame (by decide) ?_
    | with_reducible refine Block.modAgate_frame (by decide) ?_
    | with_reducible refine Block.modOnyx_frame (by decide) ?_
    | with_reducible refine Block.modOpal_frame (by decide) ?_
    | with_reducible refine Block.modSpinel_frame (by decide) ?_
    | with_reducible refine Block.modJade_frame (by decide) ?_
    | with_reducible refine Block.modGarnet_frame (by decide) ?_
    | (with_reducible refine onlyChanges_foldl ?_ ?_; intro x y hx)
    | (extract_lets +onlyGivenNames x; refine imp_app (p := onlyChanges _ _ x) ?_ (fun hx => ?_); rotate_left; clear_value x; rotate_right)
    | extract_lets +onlyGivenNames x
    | split
    | dsimp only
    | with_reducible refine upd_regs_frame (by decide) ?_
    | subst x
    | (intro x))

theorem resumeIsland_frame {i : Island} {a0 b : Block} {ps : List Piece} (hp : [.quartz, .jade, .spinel, .opal, .posts, .onyx, .evr, .ch, .trace, .out, .fresh] ⊆ ps)
    (h0 : onlyChanges ps a0 b) : onlyChanges ps a0 (resumeIsland i b) := by
  refine onlyChanges_step ?_ hp h0
  unfold resumeIsland
  repeat' (first
    | with_reducible assumption
    | with_reducible exact onlyChanges_refl _ _
    | with_reducible refine serveOnyx_frame (by decide) ?_
    | with_reducible refine resumeOpal_frame (by decide) ?_
    | with_reducible refine repostBuffers_frame (by decide) ?_
    | with_reducible refine serveAllHosts_frame (by decide) ?_
    | with_reducible refine serveRing_frame (by decide) ?_
    | (with_reducible refine onlyChanges_foldl ?_ ?_; intro x y hx)
    | (extract_lets +onlyGivenNames x; refine imp_app (p := onlyChanges _ _ x) ?_ (fun hx => ?_); rotate_left; clear_value x; rotate_right)
    | extract_lets +onlyGivenNames x
    | split
    | dsimp only
    | subst x
    | (intro x))

theorem restamp_frame {i : Island} {a0 b : Block} {ps : List Piece} (hp : [.posts, .ch, .trace] ⊆ ps)
    (h0 : onlyChanges ps a0 b) : onlyChanges ps a0 (restamp i b) := by
  refine onlyChanges_step ?_ hp h0
  unfold restamp
  repeat' (first
    | with_reducible assumption
    | with_reducible exact onlyChanges_refl _ _
    | with_reducible refine restampDescs_frame (by decide) ?_
    | with_reducible refine Block.modCh_frame (by decide) ?_
    | (with_reducible refine onlyChanges_foldl ?_ ?_; intro x y hx)
    | (extract_lets +onlyGivenNames x; refine imp_app (p := onlyChanges _ _ x) ?_ (fun hx => ?_); rotate_left; clear_value x; rotate_right)
    | extract_lets +onlyGivenNames x
    | split
    | dsimp only
    | subst x
    | (intro x))

theorem recoverIsland_frame {i : Island} {configOk : Bool} {a0 b : Block} {ps : List Piece} (hp : [.quartz, .disc, .garnet, .jade, .spinel, .opal, .posts, .onyx, .agate, .evr, .topaz, .dram, .ch, .trace, .regs, .out, .fresh] ⊆ ps)
    (h0 : onlyChanges ps a0 b) : onlyChanges ps a0 (recoverIsland i configOk b) := by
  refine onlyChanges_step ?_ hp h0
  unfold recoverIsland
  repeat' (first
    | with_reducible assumption
    | with_reducible exact onlyChanges_refl _ _
    | with_reducible refine restamp_frame (by decide) ?_
    | with_reducible refine resumeIsland_frame (by decide) ?_
    | with_reducible refine loseConfig_frame (by decide) ?_
    | with_reducible refine clearWork_frame (by decide) ?_
    | with_reducible refine failHeld_frame (by decide) ?_
    | with_reducible refine logFault_frame (by decide) ?_
    | with_reducible refine postIslandFault_frame (by decide) ?_
    | with_reducible refine settleFaultPin_frame (by decide) ?_
    | with_reducible refine Block.modIsl_frame (by decide) ?_
    | with_reducible refine Block.modTopaz_frame (by decide) ?_
    | (with_reducible refine onlyChanges_foldl ?_ ?_; intro x y hx)
    | (extract_lets +onlyGivenNames x; refine imp_app (p := onlyChanges _ _ x) ?_ (fun hx => ?_); rotate_left; clear_value x; rotate_right)
    | extract_lets +onlyGivenNames x
    | split
    | dsimp only
    | subst x
    | (intro x))

theorem islandRecovery_frame {i : Island} {ok : Bool} {configOk : Bool} {a0 b : Block} {ps : List Piece} (hp : [.quartz, .disc, .garnet, .jade, .spinel, .opal, .posts, .onyx, .agate, .evr, .topaz, .dram, .ch, .trace, .regs, .out, .fresh] ⊆ ps)
    (h0 : onlyChanges ps a0 b) : onlyChanges ps a0 (islandRecovery i ok configOk b) := by
  refine onlyChanges_step ?_ hp h0
  unfold islandRecovery
  repeat' (first
    | with_reducible assumption
    | with_reducible exact onlyChanges_refl _ _
    | with_reducible refine recoverIsland_frame (by decide) ?_
    | with_reducible refine failStopIsland_frame (by decide) ?_
    | (with_reducible refine onlyChanges_foldl ?_ ?_; intro x y hx)
    | (extract_lets +onlyGivenNames x; refine imp_app (p := onlyChanges _ _ x) ?_ (fun hx => ?_); rotate_left; clear_value x; rotate_right)
    | extract_lets +onlyGivenNames x
    | split
    | dsimp only
    | subst x
    | (intro x))

theorem spinelFailsShare_frame {a0 b : Block} {ps : List Piece} (hp : [.spinel, .onyx, .evr, .topaz, .ch, .trace] ⊆ ps)
    (h0 : onlyChanges ps a0 b) : onlyChanges ps a0 (spinelFailsShare b) := by
  refine onlyChanges_step ?_ hp h0
  unfold spinelFailsShare
  repeat' (first
    | with_reducible assumption
    | with_reducible exact onlyChanges_refl _ _
    | with_reducible refine cipherFree_frame (by decide) ?_
    | with_reducible refine failInSpinel_frame (by decide) ?_
    | with_reducible refine Block.modCh_frame (by decide) ?_
    | (with_reducible refine onlyChanges_foldl ?_ ?_; intro x y hx)
    | (extract_lets +onlyGivenNames x; refine imp_app (p := onlyChanges _ _ x) ?_ (fun hx => ?_); rotate_left; clear_value x; rotate_right)
    | extract_lets +onlyGivenNames x
    | split
    | dsimp only
    | subst x
    | (intro x))

theorem garnetPasses_frame {a0 b : Block} {ps : List Piece} (hp : [.garnet, .ch, .trace] ⊆ ps)
    (h0 : onlyChanges ps a0 b) : onlyChanges ps a0 (garnetPasses b) := by
  refine onlyChanges_step ?_ hp h0
  unfold garnetPasses
  repeat' (first
    | with_reducible assumption
    | with_reducible exact onlyChanges_refl _ _
    | with_reducible refine passCadence_frame (by decide) ?_
    | with_reducible refine Block.modCh_frame (by decide) ?_
    | (with_reducible refine onlyChanges_foldl ?_ ?_; intro x y hx)
    | (extract_lets +onlyGivenNames x; refine imp_app (p := onlyChanges _ _ x) ?_ (fun hx => ?_); rotate_left; clear_value x; rotate_right)
    | extract_lets +onlyGivenNames x
    | split
    | dsimp only
    | subst x
    | (intro x))

theorem garnetDropsTrigger_frame {a0 b : Block} {ps : List Piece} (hp : [.garnet, .ch, .trace] ⊆ ps)
    (h0 : onlyChanges ps a0 b) : onlyChanges ps a0 (garnetDropsTrigger b) := by
  refine onlyChanges_step ?_ hp h0
  unfold garnetDropsTrigger
  repeat' (first
    | with_reducible assumption
    | with_reducible exact onlyChanges_refl _ _
    | with_reducible refine missTriggers_frame (by decide) ?_
    | with_reducible refine Block.modCh_frame (by decide) ?_
    | (with_reducible refine onlyChanges_foldl ?_ ?_; intro x y hx)
    | (extract_lets +onlyGivenNames x; refine imp_app (p := onlyChanges _ _ x) ?_ (fun hx => ?_); rotate_left; clear_value x; rotate_right)
    | extract_lets +onlyGivenNames x
    | split
    | dsimp only
    | subst x
    | (intro x))

theorem garnetDropsStep_frame {a0 b : Block} {ps : List Piece} (hp : [.ch, .trace] ⊆ ps)
    (h0 : onlyChanges ps a0 b) : onlyChanges ps a0 (garnetDropsStep b) := by
  refine onlyChanges_step ?_ hp h0
  unfold garnetDropsStep
  repeat' (first
    | with_reducible assumption
    | with_reducible exact onlyChanges_refl _ _
    | with_reducible refine Block.modCh_frame (by decide) ?_
    | (with_reducible refine onlyChanges_foldl ?_ ?_; intro x y hx)
    | (extract_lets +onlyGivenNames x; refine imp_app (p := onlyChanges _ _ x) ?_ (fun hx => ?_); rotate_left; clear_value x; rotate_right)
    | extract_lets +onlyGivenNames x
    | split
    | dsimp only
    | subst x
    | (intro x))

theorem agateDrops_frame {a0 b : Block} {ps : List Piece} (hp : [.ch, .trace] ⊆ ps)
    (h0 : onlyChanges ps a0 b) : onlyChanges ps a0 (agateDrops b) := by
  refine onlyChanges_step ?_ hp h0
  unfold agateDrops
  repeat' (first
    | with_reducible assumption
    | with_reducible exact onlyChanges_refl _ _
    | with_reducible refine Block.modCh_frame (by decide) ?_
    | (with_reducible refine onlyChanges_foldl ?_ ?_; intro x y hx)
    | (extract_lets +onlyGivenNames x; refine imp_app (p := onlyChanges _ _ x) ?_ (fun hx => ?_); rotate_left; clear_value x; rotate_right)
    | extract_lets +onlyGivenNames x
    | split
    | dsimp only
    | subst x
    | (intro x))

theorem watchdogReport_frame {lost : Nat} {a0 b : Block} {ps : List Piece} (hp : [.posts, .evr, .topaz, .trace, .out] ⊆ ps)
    (h0 : onlyChanges ps a0 b) : onlyChanges ps a0 (watchdogReport lost b) := by
  refine onlyChanges_step ?_ hp h0
  unfold watchdogReport
  repeat' (first
    | with_reducible assumption
    | with_reducible exact onlyChanges_refl _ _
    | with_reducible refine eventGap_frame (by decide) ?_
    | with_reducible refine Block.modTopaz_frame (by decide) ?_
    | (with_reducible refine onlyChanges_foldl ?_ ?_; intro x y hx)
    | (extract_lets +onlyGivenNames x; refine imp_app (p := onlyChanges _ _ x) ?_ (fun hx => ?_); rotate_left; clear_value x; rotate_right)
    | extract_lets +onlyGivenNames x
    | split
    | dsimp only
    | subst x
    | (intro x))

theorem logBeryl_frame {event : Nat} {a0 b : Block} {ps : List Piece} (hp : [.evr, .trace] ⊆ ps)
    (h0 : onlyChanges ps a0 b) : onlyChanges ps a0 (logBeryl event b) := by
  refine onlyChanges_step ?_ hp h0
  unfold logBeryl
  repeat' (first
    | with_reducible assumption
    | with_reducible exact onlyChanges_refl _ _
    | with_reducible refine Block.logEvr_frame (by decide) ?_
    | (with_reducible refine onlyChanges_foldl ?_ ?_; intro x y hx)
    | (extract_lets +onlyGivenNames x; refine imp_app (p := onlyChanges _ _ x) ?_ (fun hx => ?_); rotate_left; clear_value x; rotate_right)
    | extract_lets +onlyGivenNames x
    | split
    | dsimp only
    | subst x
    | (intro x))

theorem raiseAbsent_frame {a0 b : Block} {ps : List Piece} (hp : [.disc, .garnet, .jade, .spinel, .opal, .posts, .onyx, .agate, .evr, .topaz, .ch, .trace, .out] ⊆ ps)
    (h0 : onlyChanges ps a0 b) : onlyChanges ps a0 (raiseAbsent b) := by
  refine onlyChanges_step ?_ hp h0
  unfold raiseAbsent
  repeat' (first
    | with_reducible assumption
    | with_reducible exact onlyChanges_refl _ _
    | with_reducible refine failStopIsland_frame (by decide) ?_
    | with_reducible refine Block.modTopaz_frame (by decide) ?_
    | (with_reducible refine onlyChanges_foldl ?_ ?_; intro x y hx)
    | (extract_lets +onlyGivenNames x; refine imp_app (p := onlyChanges _ _ x) ?_ (fun hx => ?_); rotate_left; clear_value x; rotate_right)
    | extract_lets +onlyGivenNames x
    | split
    | dsimp only
    | subst x
    | (intro x))

theorem watchdogExpiry_frame {a0 b : Block} {ps : List Piece} (hp : [.quartz, .disc, .garnet, .jade, .spinel, .opal, .posts, .onyx, .agate, .thm, .evr, .topaz, .ch, .trace, .out] ⊆ ps)
    (h0 : onlyChanges ps a0 b) : onlyChanges ps a0 (watchdogExpiry b) := by
  refine onlyChanges_step ?_ hp h0
  unfold watchdogExpiry
  repeat' (first
    | with_reducible assumption
    | with_reducible exact onlyChanges_refl _ _
    | with_reducible refine raiseAbsent_frame (by decide) ?_
    | with_reducible refine logBeryl_frame (by decide) ?_
    | with_reducible refine modThm_frame (by decide) ?_
    | with_reducible refine Block.advance_frame (by decide) ?_
    | with_reducible refine settleFaultPin_frame (by decide) ?_
    | with_reducible refine wakeUnit_frame (by decide) ?_
    | with_reducible refine Block.modIsl_frame (by decide) ?_
    | with_reducible refine Block.modTopaz_frame (by decide) ?_
    | (with_reducible refine onlyChanges_foldl ?_ ?_; intro x y hx)
    | (extract_lets +onlyGivenNames x; refine imp_app (p := onlyChanges _ _ x) ?_ (fun hx => ?_); rotate_left; clear_value x; rotate_right)
    | extract_lets +onlyGivenNames x
    | split
    | dsimp only
    | subst x
    | (intro x))

theorem berylBack_frame {mvs : List Nat} {lost : List Island} {a0 b : Block} {ps : List Piece} (hp : [.quartz, .disc, .garnet, .jade, .spinel, .opal, .posts, .onyx, .agate, .thm, .otc, .evr, .topaz, .dram, .ch, .trace, .regs, .out, .fresh] ⊆ ps)
    (h0 : onlyChanges ps a0 b) : onlyChanges ps a0 (berylBack mvs lost b) := by
  refine onlyChanges_step ?_ hp h0
  unfold berylBack
  repeat' (first
    | with_reducible assumption
    | with_reducible exact onlyChanges_refl _ _
    | with_reducible refine logBeryl_frame (by decide) ?_
    | with_reducible refine recoverIsland_frame (by decide) ?_
    | with_reducible refine resumeRun_frame (by decide) ?_
    | with_reducible refine formStates_frame (by decide) ?_
    | with_reducible refine stepUp_frame (by decide) ?_
    | with_reducible refine modThm_frame (by decide) ?_
    | with_reducible refine postEvent_frame (by decide) ?_
    | with_reducible refine Block.modCh_frame (by decide) ?_
    | with_reducible refine Block.modTopaz_frame (by decide) ?_
    | (with_reducible refine onlyChanges_foldl ?_ ?_; intro x y hx)
    | (extract_lets +onlyGivenNames x; refine imp_app (p := onlyChanges _ _ x) ?_ (fun hx => ?_); rotate_left; clear_value x; rotate_right)
    | extract_lets +onlyGivenNames x
    | split
    | dsimp only
    | subst x
    | (intro x))

theorem berylRestartDone_frame {patchOk : Bool} {mv : Nat} {bad : List Island} {more : List Nat} {a0 b : Block} {ps : List Piece} (hp : [.quartz, .disc, .garnet, .jade, .spinel, .opal, .posts, .onyx, .agate, .thm, .otc, .evr, .beryl, .topaz, .dram, .ch, .trace, .regs, .out, .fresh] ⊆ ps)
    (h0 : onlyChanges ps a0 b) : onlyChanges ps a0 (berylRestartDone patchOk mv bad more b) := by
  refine onlyChanges_step ?_ hp h0
  unfold berylRestartDone
  repeat' (first
    | with_reducible assumption
    | with_reducible exact onlyChanges_refl _ _
    | with_reducible refine berylBack_frame (by decide) ?_
    | with_reducible refine Block.modTopaz_frame (by decide) ?_
    | with_reducible refine Block.modBeryl_frame (by decide) ?_
    | (with_reducible refine onlyChanges_foldl ?_ ?_; intro x y hx)
    | (extract_lets +onlyGivenNames x; refine imp_app (p := onlyChanges _ _ x) ?_ (fun hx => ?_); rotate_left; clear_value x; rotate_right)
    | extract_lets +onlyGivenNames x
    | split
    | dsimp only
    | subst x
    | (intro x))

theorem takeTopazOpal_frame {a0 b : Block} {ps : List Piece} (hp : [.opal, .posts, .ch, .trace] ⊆ ps)
    (h0 : onlyChanges ps a0 b) : onlyChanges ps a0 (takeTopazOpal b) := by
  refine onlyChanges_step ?_ hp h0
  unfold takeTopazOpal
  repeat' (first
    | with_reducible assumption
    | with_reducible exact onlyChanges_refl _ _
    | with_reducible refine Block.modCh_frame (by decide) ?_
    | with_reducible refine Block.modOpal_frame (by decide) ?_
    | (with_reducible refine onlyChanges_foldl ?_ ?_; intro x y hx)
    | (extract_lets +onlyGivenNames x; refine imp_app (p := onlyChanges _ _ x) ?_ (fun hx => ?_); rotate_left; clear_value x; rotate_right)
    | extract_lets +onlyGivenNames x
    | split
    | dsimp only
    | subst x
    | (intro x))

theorem eventRepeat_frame {i : Island} {lost : Nat} {a0 b : Block} {ps : List Piece} (hp : [.opal, .posts, .evr, .topaz, .ch, .trace, .out] ⊆ ps)
    (h0 : onlyChanges ps a0 b) : onlyChanges ps a0 (eventRepeat i lost b) := by
  refine onlyChanges_step ?_ hp h0
  unfold eventRepeat
  repeat' (first
    | with_reducible assumption
    | with_reducible exact onlyChanges_refl _ _
    | with_reducible refine takeTopazOpal_frame (by decide) ?_
    | with_reducible refine eventGap_frame (by decide) ?_
    | with_reducible refine Block.modCh_frame (by decide) ?_
    | (with_reducible refine onlyChanges_foldl ?_ ?_; intro x y hx)
    | (extract_lets +onlyGivenNames x; refine imp_app (p := onlyChanges _ _ x) ?_ (fun hx => ?_); rotate_left; clear_value x; rotate_right)
    | extract_lets +onlyGivenNames x
    | split
    | dsimp only
    | subst x
    | (intro x))

theorem beginPowerUp_frame {a0 b : Block} {ps : List Piece} (hp : [.quartz, .disc, .tod, .garnet, .jade, .spinel, .opal, .posts, .onyx, .agate, .thm, .otc, .evr, .beryl, .topaz, .dram, .ch, .trace, .regs, .out] ⊆ ps)
    (h0 : onlyChanges ps a0 b) : onlyChanges ps a0 (beginPowerUp b) := by
  refine onlyChanges_step ?_ hp h0
  unfold beginPowerUp
  repeat' (first
    | with_reducible assumption
    | with_reducible exact onlyChanges_refl _ _
    | with_reducible refine tellHold_frame (by decide) ?_
    | with_reducible refine modPwr_frame (by decide) ?_
    | with_reducible refine resetAll_frame (by decide) ?_
    | with_reducible refine settleFaultPin_frame (by decide) ?_
    | with_reducible refine Block.modTopaz_frame (by decide) ?_
    | (with_reducible refine onlyChanges_foldl ?_ ?_; intro x y hx)
    | (extract_lets +onlyGivenNames x; refine imp_app (p := onlyChanges _ _ x) ?_ (fun hx => ?_); rotate_left; clear_value x; rotate_right)
    | extract_lets +onlyGivenNames x
    | split
    | dsimp only
    | subst x
    | (intro x))

theorem topazStart_frame {ohms : Nat} {temp : Int} {a0 b : Block} {ps : List Piece} (hp : [.quartz, .disc, .tod, .garnet, .jade, .spinel, .opal, .posts, .onyx, .agate, .thm, .otc, .evr, .beryl, .topaz, .dram, .ch, .trace, .regs, .out] ⊆ ps)
    (h0 : onlyChanges ps a0 b) : onlyChanges ps a0 (topazStart ohms temp b) := by
  refine onlyChanges_step ?_ hp h0
  unfold topazStart
  repeat' (first
    | with_reducible assumption
    | with_reducible exact onlyChanges_refl _ _
    | with_reducible refine packRead_frame (by decide) ?_
    | with_reducible refine resetAll_frame (by decide) ?_
    | (with_reducible refine onlyChanges_foldl ?_ ?_; intro x y hx)
    | (extract_lets +onlyGivenNames x; refine imp_app (p := onlyChanges _ _ x) ?_ (fun hx => ?_); rotate_left; clear_value x; rotate_right)
    | extract_lets +onlyGivenNames x
    | split
    | dsimp only
    | with_reducible refine upd_topaz_frame (by decide) ?_
    | subst x
    | (intro x))

theorem vddAoLoss_frame {a0 b : Block} {ps : List Piece} (hp : [.quartz, .disc, .tod, .garnet, .jade, .spinel, .opal, .posts, .onyx, .agate, .thm, .otc, .evr, .beryl, .topaz, .dram, .ch, .trace, .regs] ⊆ ps)
    (h0 : onlyChanges ps a0 b) : onlyChanges ps a0 (vddAoLoss b) := by
  refine onlyChanges_step ?_ hp h0
  unfold vddAoLoss
  repeat' (first
    | with_reducible assumption
    | with_reducible exact onlyChanges_refl _ _
    | with_reducible refine resetAll_frame (by decide) ?_
    | (with_reducible refine onlyChanges_foldl ?_ ?_; intro x y hx)
    | (extract_lets +onlyGivenNames x; refine imp_app (p := onlyChanges _ _ x) ?_ (fun hx => ?_); rotate_left; clear_value x; rotate_right)
    | extract_lets +onlyGivenNames x
    | split
    | dsimp only
    | with_reducible refine upd_topaz_frame (by decide) ?_
    | subst x
    | (intro x))

theorem railPgRise_frame {k : Nat} {a0 b : Block} {ps : List Piece} (hp : [.topaz] ⊆ ps)
    (h0 : onlyChanges ps a0 b) : onlyChanges ps a0 (railPgRise k b) := by
  refine onlyChanges_step ?_ hp h0
  unfold railPgRise
  repeat' (first
    | with_reducible assumption
    | with_reducible exact onlyChanges_refl _ _
    | with_reducible refine Block.modTopaz_frame (by decide) ?_
    | (with_reducible refine onlyChanges_foldl ?_ ?_; intro x y hx)
    | (extract_lets +onlyGivenNames x; refine imp_app (p := onlyChanges _ _ x) ?_ (fun hx => ?_); rotate_left; clear_value x; rotate_right)
    | extract_lets +onlyGivenNames x
    | split
    | dsimp only
    | subst x
    | (intro x))

theorem railEnableDelay_frame {a0 b : Block} {ps : List Piece} (hp : [.topaz] ⊆ ps)
    (h0 : onlyChanges ps a0 b) : onlyChanges ps a0 (railEnableDelay b) := by
  refine onlyChanges_step ?_ hp h0
  unfold railEnableDelay
  repeat' (first
    | with_reducible assumption
    | with_reducible exact onlyChanges_refl _ _
    | with_reducible refine Block.modTopaz_frame (by decide) ?_
    | (with_reducible refine onlyChanges_foldl ?_ ?_; intro x y hx)
    | (extract_lets +onlyGivenNames x; refine imp_app (p := onlyChanges _ _ x) ?_ (fun hx => ?_); rotate_left; clear_value x; rotate_right)
    | extract_lets +onlyGivenNames x
    | split
    | dsimp only
    | subst x
    | (intro x))

theorem railFailed_frame {k : Nat} {code : Nat} {a0 b : Block} {ps : List Piece} (hp : [.quartz, .disc, .tod, .garnet, .jade, .spinel, .opal, .posts, .onyx, .agate, .thm, .otc, .evr, .beryl, .topaz, .dram, .ch, .trace, .regs, .out] ⊆ ps)
    (h0 : onlyChanges ps a0 b) : onlyChanges ps a0 (railFailed k code b) := by
  refine onlyChanges_step ?_ hp h0
  unfold railFailed
  repeat' (first
    | with_reducible assumption
    | with_reducible exact onlyChanges_refl _ _
    | with_reducible refine startDrop_frame (by decide) ?_
    | with_reducible refine Block.modTopaz_frame (by decide) ?_
    | (with_reducible refine onlyChanges_foldl ?_ ?_; intro x y hx)
    | (extract_lets +onlyGivenNames x; refine imp_app (p := onlyChanges _ _ x) ?_ (fun hx => ?_); rotate_left; clear_value x; rotate_right)
    | extract_lets +onlyGivenNames x
    | split
    | dsimp only
    | subst x
    | (intro x))

theorem railTimeout_frame {a0 b : Block} {ps : List Piece} (hp : [.quartz, .disc, .tod, .garnet, .jade, .spinel, .opal, .posts, .onyx, .agate, .thm, .otc, .evr, .beryl, .topaz, .dram, .ch, .trace, .regs, .out] ⊆ ps)
    (h0 : onlyChanges ps a0 b) : onlyChanges ps a0 (railTimeout b) := by
  refine onlyChanges_step ?_ hp h0
  unfold railTimeout
  repeat' (first
    | with_reducible assumption
    | with_reducible exact onlyChanges_refl _ _
    | with_reducible refine railFailed_frame (by decide) ?_
    | (with_reducible refine onlyChanges_foldl ?_ ?_; intro x y hx)
    | (extract_lets +onlyGivenNames x; refine imp_app (p := onlyChanges _ _ x) ?_ (fun hx => ?_); rotate_left; clear_value x; rotate_right)
    | extract_lets +onlyGivenNames x
    | split
    | dsimp only
    | subst x
    | (intro x))

theorem railPgFall_frame {k : Nat} {a0 b : Block} {ps : List Piece} (hp : [.quartz, .disc, .tod, .garnet, .jade, .spinel, .opal, .posts, .onyx, .agate, .thm, .otc, .evr, .beryl, .topaz, .dram, .ch, .trace, .regs, .out] ⊆ ps)
    (h0 : onlyChanges ps a0 b) : onlyChanges ps a0 (railPgFall k b) := by
  refine onlyChanges_step ?_ hp h0
  unfold railPgFall
  repeat' (first
    | with_reducible assumption
    | with_reducible exact onlyChanges_refl _ _
    | with_reducible refine railFailed_frame (by decide) ?_
    | with_reducible refine modPwr_frame (by decide) ?_
    | with_reducible refine Block.modTopaz_frame (by decide) ?_
    | (with_reducible refine onlyChanges_foldl ?_ ?_; intro x y hx)
    | (extract_lets +onlyGivenNames x; refine imp_app (p := onlyChanges _ _ x) ?_ (fun hx => ?_); rotate_left; clear_value x; rotate_right)
    | extract_lets +onlyGivenNames x
    | split
    | dsimp only
    | subst x
    | (intro x))

theorem powerUpDelay_frame {a0 b : Block} {ps : List Piece} (hp : [.quartz, .disc, .tod, .garnet, .jade, .spinel, .opal, .posts, .onyx, .agate, .thm, .otc, .evr, .beryl, .topaz, .dram, .ch, .trace, .regs, .out] ⊆ ps)
    (h0 : onlyChanges ps a0 b) : onlyChanges ps a0 (powerUpDelay b) := by
  refine onlyChanges_step ?_ hp h0
  unfold powerUpDelay
  repeat' (first
    | with_reducible assumption
    | with_reducible exact onlyChanges_refl _ _
    | with_reducible refine beginPowerUp_frame (by decide) ?_
    | with_reducible refine modPwr_frame (by decide) ?_
    | (with_reducible refine onlyChanges_foldl ?_ ?_; intro x y hx)
    | (extract_lets +onlyGivenNames x; refine imp_app (p := onlyChanges _ _ x) ?_ (fun hx => ?_); rotate_left; clear_value x; rotate_right)
    | extract_lets +onlyGivenNames x
    | split
    | dsimp only
    | subst x
    | (intro x))

theorem pwrGoodRise_frame {tcxo : Bool} {a0 b : Block} {ps : List Piece} (hp : [.topaz] ⊆ ps)
    (h0 : onlyChanges ps a0 b) : onlyChanges ps a0 (pwrGoodRise tcxo b) := by
  refine onlyChanges_step ?_ hp h0
  unfold pwrGoodRise
  repeat' (first
    | with_reducible assumption
    | with_reducible exact onlyChanges_refl _ _
    | with_reducible refine settleFaultPin_frame (by decide) ?_
    | with_reducible refine Block.modTopaz_frame (by decide) ?_
    | (with_reducible refine onlyChanges_foldl ?_ ?_; intro x y hx)
    | (extract_lets +onlyGivenNames x; refine imp_app (p := onlyChanges _ _ x) ?_ (fun hx => ?_); rotate_left; clear_value x; rotate_right)
    | extract_lets +onlyGivenNames x
    | split
    | dsimp only
    | subst x
    | (intro x))

theorem pwrGoodFall_frame {a0 b : Block} {ps : List Piece} (hp : [.quartz, .disc, .tod, .garnet, .jade, .spinel, .opal, .posts, .onyx, .agate, .thm, .otc, .evr, .beryl, .topaz, .dram, .ch, .trace, .regs, .out] ⊆ ps)
    (h0 : onlyChanges ps a0 b) : onlyChanges ps a0 (pwrGoodFall b) := by
  refine onlyChanges_step ?_ hp h0
  unfold pwrGoodFall
  repeat' (first
    | with_reducible assumption
    | with_reducible exact onlyChanges_refl _ _
    | with_reducible refine startDrop_frame (by decide) ?_
    | with_reducible refine setMagpwr_frame (by decide) ?_
    | with_reducible refine modPwr_frame (by decide) ?_
    | with_reducible refine resetAll_frame (by decide) ?_
    | with_reducible refine Block.modTopaz_frame (by decide) ?_
    | (with_reducible refine onlyChanges_foldl ?_ ?_; intro x y hx)
    | (extract_lets +onlyGivenNames x; refine imp_app (p := onlyChanges _ _ x) ?_ (fun hx => ?_); rotate_left; clear_value x; rotate_right)
    | extract_lets +onlyGivenNames x
    | split
    | dsimp only
    | subst x
    | (intro x))

theorem islandResetRelease_frame {a0 b : Block} {ps : List Piece} (hp : [.quartz, .topaz, .ch, .trace] ⊆ ps)
    (h0 : onlyChanges ps a0 b) : onlyChanges ps a0 (islandResetRelease b) := by
  refine onlyChanges_step ?_ hp h0
  unfold islandResetRelease
  repeat' (first
    | with_reducible assumption
    | with_reducible exact onlyChanges_refl _ _
    | with_reducible refine releaseBeryl_frame (by decide) ?_
    | with_reducible refine Block.modTopaz_frame (by decide) ?_
    | with_reducible refine Block.modQuartz_frame (by decide) ?_
    | (with_reducible refine onlyChanges_foldl ?_ ?_; intro x y hx)
    | (extract_lets +onlyGivenNames x; refine imp_app (p := onlyChanges _ _ x) ?_ (fun hx => ?_); rotate_left; clear_value x; rotate_right)
    | extract_lets +onlyGivenNames x
    | split
    | dsimp only
    | subst x
    | (intro x))

theorem dramInitDone_frame {ok : Bool} {a0 b : Block} {ps : List Piece} (hp : [.quartz, .disc, .tod, .garnet, .jade, .spinel, .opal, .posts, .onyx, .agate, .thm, .otc, .evr, .beryl, .topaz, .dram, .ch, .trace, .regs] ⊆ ps)
    (h0 : onlyChanges ps a0 b) : onlyChanges ps a0 (dramInitDone ok b) := by
  refine onlyChanges_step ?_ hp h0
  unfold dramInitDone
  extract_lets t
  split
  · exact onlyChanges_refl _ _
  · split
    · exact upd_dram_frame (by decide) (Block.modTopaz_frame (by decide) (onlyChanges_refl _ _))
    · exact resetIslands_frame (by decide) (Block.modTopaz_frame (by decide) (onlyChanges_refl _ _))

theorem romStart_frame {romOk : Bool} {a0 b : Block} {ps : List Piece} (hp : [.thm, .otc, .evr, .beryl, .topaz, .ch, .trace] ⊆ ps)
    (h0 : onlyChanges ps a0 b) : onlyChanges ps a0 (romStart romOk b) := by
  refine onlyChanges_step ?_ hp h0
  unfold romStart
  repeat' (first
    | with_reducible assumption
    | with_reducible exact onlyChanges_refl _ _
    | with_reducible refine formStates_frame (by decide) ?_
    | with_reducible refine settleDevice_frame (by decide) ?_
    | with_reducible refine Block.modTopaz_frame (by decide) ?_
    | with_reducible refine Block.modBeryl_frame (by decide) ?_
    | (with_reducible refine onlyChanges_foldl ?_ ?_; intro x y hx)
    | (extract_lets +onlyGivenNames x; refine imp_app (p := onlyChanges _ _ x) ?_ (fun hx => ?_); rotate_left; clear_value x; rotate_right)
    | extract_lets +onlyGivenNames x
    | split
    | dsimp only
    | subst x
    | (intro x))

theorem patchLoad_frame {w : Nat} {a0 b : Block} {ps : List Piece} (hp : [.disc, .garnet, .jade, .spinel, .opal, .posts, .onyx, .agate, .evr, .topaz, .ch, .trace, .out] ⊆ ps)
    (h0 : onlyChanges ps a0 b) : onlyChanges ps a0 (patchLoad w b) := by
  refine onlyChanges_step ?_ hp h0
  unfold patchLoad
  repeat' (first
    | with_reducible assumption
    | with_reducible exact onlyChanges_refl _ _
    | with_reducible refine raiseAbsent_frame (by decide) ?_
    | with_reducible refine Block.modOut_frame (by decide) ?_
    | with_reducible refine Block.modTopaz_frame (by decide) ?_
    | (with_reducible refine onlyChanges_foldl ?_ ?_; intro x y hx)
    | (extract_lets +onlyGivenNames x; refine imp_app (p := onlyChanges _ _ x) ?_ (fun hx => ?_); rotate_left; clear_value x; rotate_right)
    | extract_lets +onlyGivenNames x
    | split
    | dsimp only
    | subst x
    | (intro x))

theorem patchImageRead_frame {data : Option (List Byte)} {mv : Nat} {bad : List Island} {more : List Nat} {a0 b : Block} {ps : List Piece} (hp : [.quartz, .disc, .garnet, .jade, .spinel, .opal, .posts, .onyx, .agate, .thm, .otc, .evr, .beryl, .topaz, .dram, .ch, .trace, .regs, .out, .fresh] ⊆ ps)
    (h0 : onlyChanges ps a0 b) : onlyChanges ps a0 (patchImageRead data mv bad more b) := by
  refine onlyChanges_step ?_ hp h0
  unfold patchImageRead
  repeat' (first
    | with_reducible assumption
    | with_reducible exact onlyChanges_refl _ _
    | with_reducible refine berylBack_frame (by decide) ?_
    | with_reducible refine Block.modTopaz_frame (by decide) ?_
    | with_reducible refine Block.modBeryl_frame (by decide) ?_
    | (with_reducible refine onlyChanges_foldl ?_ ?_; intro x y hx)
    | (extract_lets +onlyGivenNames x; refine imp_app (p := onlyChanges _ _ x) ?_ (fun hx => ?_); rotate_left; clear_value x; rotate_right)
    | extract_lets +onlyGivenNames x
    | split
    | dsimp only
    | subst x
    | (intro x))

theorem logPower_frame {state : Nat} {a0 b : Block} {ps : List Piece} (hp : [.evr, .trace] ⊆ ps)
    (h0 : onlyChanges ps a0 b) : onlyChanges ps a0 (logPower state b) := by
  refine onlyChanges_step ?_ hp h0
  unfold logPower
  repeat' (first
    | with_reducible assumption
    | with_reducible exact onlyChanges_refl _ _
    | with_reducible refine Block.logEvr_frame (by decide) ?_
    | (with_reducible refine onlyChanges_foldl ?_ ?_; intro x y hx)
    | (extract_lets +onlyGivenNames x; refine imp_app (p := onlyChanges _ _ x) ?_ (fun hx => ?_); rotate_left; clear_value x; rotate_right)
    | extract_lets +onlyGivenNames x
    | split
    | dsimp only
    | subst x
    | (intro x))

theorem sendLoss_frame {a0 b : Block} {ps : List Piece} (hp : [.ch, .trace] ⊆ ps)
    (h0 : onlyChanges ps a0 b) : onlyChanges ps a0 (sendLoss b) := by
  refine onlyChanges_step ?_ hp h0
  unfold sendLoss
  repeat' (first
    | with_reducible assumption
    | with_reducible exact onlyChanges_refl _ _
    | with_reducible refine Block.modCh_frame (by decide) ?_
    | (with_reducible refine onlyChanges_foldl ?_ ?_; intro x y hx)
    | (extract_lets +onlyGivenNames x; refine imp_app (p := onlyChanges _ _ x) ?_ (fun hx => ?_); rotate_left; clear_value x; rotate_right)
    | extract_lets +onlyGivenNames x
    | split
    | dsimp only
    | subst x
    | (intro x))

theorem mainInputLoss_frame {mv : Nat} {a0 b : Block} {ps : List Piece} (hp : [.posts, .evr, .topaz, .ch, .trace, .out] ⊆ ps)
    (h0 : onlyChanges ps a0 b) : onlyChanges ps a0 (mainInputLoss mv b) := by
  refine onlyChanges_step ?_ hp h0
  unfold mainInputLoss
  repeat' (first
    | with_reducible assumption
    | with_reducible exact onlyChanges_refl _ _
    | with_reducible refine sendLoss_frame (by decide) ?_
    | with_reducible refine logPower_frame (by decide) ?_
    | with_reducible refine settleHold_frame (by decide) ?_
    | with_reducible refine modPwr_frame (by decide) ?_
    | with_reducible refine settleFaultPin_frame (by decide) ?_
    | with_reducible refine Block.modCh_frame (by decide) ?_
    | with_reducible refine Block.modTopaz_frame (by decide) ?_
    | (with_reducible refine onlyChanges_foldl ?_ ?_; intro x y hx)
    | (extract_lets +onlyGivenNames x; refine imp_app (p := onlyChanges _ _ x) ?_ (fun hx => ?_); rotate_left; clear_value x; rotate_right)
    | extract_lets +onlyGivenNames x
    | split
    | dsimp only
    | subst x
    | (intro x))

theorem mainInputReturn_frame {mv : Nat} {a0 b : Block} {ps : List Piece} (hp : [.quartz, .disc, .tod, .garnet, .jade, .spinel, .opal, .posts, .onyx, .agate, .thm, .otc, .evr, .beryl, .topaz, .dram, .ch, .trace, .regs, .out] ⊆ ps)
    (h0 : onlyChanges ps a0 b) : onlyChanges ps a0 (mainInputReturn mv b) := by
  refine onlyChanges_step ?_ hp h0
  unfold mainInputReturn
  repeat' (first
    | with_reducible assumption
    | with_reducible exact onlyChanges_refl _ _
    | with_reducible refine logPower_frame (by decide) ?_
    | with_reducible refine beginPowerUp_frame (by decide) ?_
    | with_reducible refine settleHold_frame (by decide) ?_
    | with_reducible refine modPwr_frame (by decide) ?_
    | with_reducible refine Block.modTopaz_frame (by decide) ?_
    | (with_reducible refine onlyChanges_foldl ?_ ?_; intro x y hx)
    | (extract_lets +onlyGivenNames x; refine imp_app (p := onlyChanges _ _ x) ?_ (fun hx => ?_); rotate_left; clear_value x; rotate_right)
    | extract_lets +onlyGivenNames x
    | split
    | dsimp only
    | subst x
    | (intro x))

theorem dropUnbuffered_frame {a0 b : Block} {ps : List Piece} (hp : [.spinel, .opal, .posts, .evr, .ch, .trace, .out] ⊆ ps)
    (h0 : onlyChanges ps a0 b) : onlyChanges ps a0 (dropUnbuffered b) := by
  refine onlyChanges_step ?_ hp h0
  unfold dropUnbuffered
  repeat' (first
    | with_reducible assumption
    | with_reducible exact onlyChanges_refl _ _
    | with_reducible refine dropUnassigned_frame (by decide) ?_
    | (with_reducible refine onlyChanges_foldl ?_ ?_; intro x y hx)
    | (extract_lets +onlyGivenNames x; refine imp_app (p := onlyChanges _ _ x) ?_ (fun hx => ?_); rotate_left; clear_value x; rotate_right)
    | extract_lets +onlyGivenNames x
    | split
    | dsimp only
    | subst x
    | (intro x))

theorem forceTakeEnds_frame {a0 b : Block} {ps : List Piece} (hp : [.opal, .posts, .out] ⊆ ps)
    (h0 : onlyChanges ps a0 b) : onlyChanges ps a0 (forceTakeEnds b) := by
  refine onlyChanges_step ?_ hp h0
  unfold forceTakeEnds
  repeat' (first
    | with_reducible assumption
    | with_reducible exact onlyChanges_refl _ _
    | with_reducible refine postTakeEnds_frame (by decide) ?_
    | with_reducible refine Block.modOpal_frame (by decide) ?_
    | (with_reducible refine onlyChanges_foldl ?_ ?_; intro x y hx)
    | (extract_lets +onlyGivenNames x; refine imp_app (p := onlyChanges _ _ x) ?_ (fun hx => ?_); rotate_left; clear_value x; rotate_right)
    | extract_lets +onlyGivenNames x
    | split
    | dsimp only
    | subst x
    | (intro x))

theorem lastEvent_frame {ok : Bool} {a0 b : Block} {ps : List Piece} (hp : [.posts, .out] ⊆ ps)
    (h0 : onlyChanges ps a0 b) : onlyChanges ps a0 (lastEvent ok b) := by
  refine onlyChanges_step ?_ hp h0
  unfold lastEvent
  repeat' (first
    | with_reducible assumption
    | with_reducible exact onlyChanges_refl _ _
    | with_reducible refine postEvent_frame (by decide) ?_
    | (with_reducible refine onlyChanges_foldl ?_ ?_; intro x y hx)
    | (extract_lets +onlyGivenNames x; refine imp_app (p := onlyChanges _ _ x) ?_ (fun hx => ?_); rotate_left; clear_value x; rotate_right)
    | extract_lets +onlyGivenNames x
    | split
    | dsimp only
    | subst x
    | (intro x))

theorem onyxFlushReport_frame {a0 b : Block} {ps : List Piece} (hp : [.spinel, .opal, .posts, .evr, .topaz, .ch, .trace, .out, .fresh] ⊆ ps)
    (h0 : onlyChanges ps a0 b) : onlyChanges ps a0 (onyxFlushReport b) := by
  refine onlyChanges_step ?_ hp h0
  unfold onyxFlushReport
  repeat' (first
    | with_reducible assumption
    | with_reducible exact onlyChanges_refl _ _
    | with_reducible refine lastEvent_frame (by decide) ?_
    | with_reducible refine forceTakeEnds_frame (by decide) ?_
    | with_reducible refine dropUnbuffered_frame (by decide) ?_
    | with_reducible refine takeTopazOpal_frame (by decide) ?_
    | with_reducible refine modPwr_frame (by decide) ?_
    | with_reducible refine serveLedger_frame (by decide) ?_
    | with_reducible refine Block.modOut_frame (by decide) ?_
    | with_reducible refine Block.modCh_frame (by decide) ?_
    | with_reducible refine Block.modOpal_frame (by decide) ?_
    | (with_reducible refine onlyChanges_foldl ?_ ?_; intro x y hx)
    | (extract_lets +onlyGivenNames x; refine imp_app (p := onlyChanges _ _ x) ?_ (fun hx => ?_); rotate_left; clear_value x; rotate_right)
    | extract_lets +onlyGivenNames x
    | split
    | dsimp only
    | subst x
    | (intro x))

theorem opalReports_frame {a0 b : Block} {ps : List Piece} (hp : [.opal, .posts, .ch, .trace] ⊆ ps)
    (h0 : onlyChanges ps a0 b) : onlyChanges ps a0 (opalReports b) := by
  refine onlyChanges_step ?_ hp h0
  unfold opalReports
  repeat' (first
    | with_reducible assumption
    | with_reducible exact onlyChanges_refl _ _
    | with_reducible refine Block.modCh_frame (by decide) ?_
    | with_reducible refine Block.modOpal_frame (by decide) ?_
    | (with_reducible refine onlyChanges_foldl ?_ ?_; intro x y hx)
    | (extract_lets +onlyGivenNames x; refine imp_app (p := onlyChanges _ _ x) ?_ (fun hx => ?_); rotate_left; clear_value x; rotate_right)
    | extract_lets +onlyGivenNames x
    | split
    | dsimp only
    | subst x
    | (intro x))

theorem flushReadComplete_frame {a0 b : Block} {ps : List Piece} (hp : [.opal, .posts, .ch, .trace] ⊆ ps)
    (h0 : onlyChanges ps a0 b) : onlyChanges ps a0 (flushReadComplete b) := by
  refine onlyChanges_step ?_ hp h0
  unfold flushReadComplete
  repeat' (first
    | with_reducible assumption
    | with_reducible exact onlyChanges_refl _ _
    | with_reducible refine opalReports_frame (by decide) ?_
    | (with_reducible refine onlyChanges_foldl ?_ ?_; intro x y hx)
    | (extract_lets +onlyGivenNames x; refine imp_app (p := onlyChanges _ _ x) ?_ (fun hx => ?_); rotate_left; clear_value x; rotate_right)
    | extract_lets +onlyGivenNames x
    | split
    | dsimp only
    | subst x
    | (intro x))

theorem opalFlushTimeout_frame {a0 b : Block} {ps : List Piece} (hp : [.opal, .posts, .ch, .trace] ⊆ ps)
    (h0 : onlyChanges ps a0 b) : onlyChanges ps a0 (opalFlushTimeout b) := by
  refine onlyChanges_step ?_ hp h0
  unfold opalFlushTimeout
  repeat' (first
    | with_reducible assumption
    | with_reducible exact onlyChanges_refl _ _
    | with_reducible refine opalReports_frame (by decide) ?_
    | (with_reducible refine onlyChanges_foldl ?_ ?_; intro x y hx)
    | (extract_lets +onlyGivenNames x; refine imp_app (p := onlyChanges _ _ x) ?_ (fun hx => ?_); rotate_left; clear_value x; rotate_right)
    | extract_lets +onlyGivenNames x
    | split
    | dsimp only
    | subst x
    | (intro x))

theorem flushReport_frame {a0 b : Block} {ps : List Piece} (hp : [.quartz, .disc, .tod, .garnet, .jade, .spinel, .opal, .posts, .onyx, .agate, .thm, .otc, .evr, .beryl, .topaz, .dram, .ch, .trace, .regs, .out] ⊆ ps)
    (h0 : onlyChanges ps a0 b) : onlyChanges ps a0 (flushReport b) := by
  refine onlyChanges_step ?_ hp h0
  unfold flushReport
  repeat' (first
    | with_reducible assumption
    | with_reducible exact onlyChanges_refl _ _
    | with_reducible refine startDrop_frame (by decide) ?_
    | (with_reducible refine onlyChanges_foldl ?_ ?_; intro x y hx)
    | (extract_lets +onlyGivenNames x; refine imp_app (p := onlyChanges _ _ x) ?_ (fun hx => ?_); rotate_left; clear_value x; rotate_right)
    | extract_lets +onlyGivenNames x
    | split
    | dsimp only
    | subst x
    | (intro x))

theorem flushDeadline_frame {a0 b : Block} {ps : List Piece} (hp : [.quartz, .disc, .tod, .garnet, .jade, .spinel, .opal, .posts, .onyx, .agate, .thm, .otc, .evr, .beryl, .topaz, .dram, .ch, .trace, .regs, .out] ⊆ ps)
    (h0 : onlyChanges ps a0 b) : onlyChanges ps a0 (flushDeadline b) := by
  refine onlyChanges_step ?_ hp h0
  unfold flushDeadline
  repeat' (first
    | with_reducible assumption
    | with_reducible exact onlyChanges_refl _ _
    | with_reducible refine startDrop_frame (by decide) ?_
    | (with_reducible refine onlyChanges_foldl ?_ ?_; intro x y hx)
    | (extract_lets +onlyGivenNames x; refine imp_app (p := onlyChanges _ _ x) ?_ (fun hx => ?_); rotate_left; clear_value x; rotate_right)
    | extract_lets +onlyGivenNames x
    | split
    | dsimp only
    | subst x
    | (intro x))

theorem shutDrop_frame {a0 b : Block} {ps : List Piece} (hp : [.quartz, .disc, .tod, .garnet, .jade, .spinel, .opal, .posts, .onyx, .agate, .thm, .otc, .evr, .beryl, .topaz, .dram, .ch, .trace, .regs, .out] ⊆ ps)
    (h0 : onlyChanges ps a0 b) : onlyChanges ps a0 (shutDrop b) := by
  refine onlyChanges_step ?_ hp h0
  unfold shutDrop
  repeat' (first
    | with_reducible assumption
    | with_reducible exact onlyChanges_refl _ _
    | with_reducible refine startDrop_frame (by decide) ?_
    | (with_reducible refine onlyChanges_foldl ?_ ?_; intro x y hx)
    | (extract_lets +onlyGivenNames x; refine imp_app (p := onlyChanges _ _ x) ?_ (fun hx => ?_); rotate_left; clear_value x; rotate_right)
    | extract_lets +onlyGivenNames x
    | split
    | dsimp only
    | subst x
    | (intro x))

theorem berylGap_frame {lost : Nat} {a0 b : Block} {ps : List Piece} (hp : [.posts, .evr, .topaz, .trace, .out] ⊆ ps)
    (h0 : onlyChanges ps a0 b) : onlyChanges ps a0 (berylGap lost b) := by
  refine onlyChanges_step ?_ hp h0
  unfold berylGap
  repeat' (first
    | with_reducible assumption
    | with_reducible exact onlyChanges_refl _ _
    | with_reducible refine eventGap_frame (by decide) ?_
    | (with_reducible refine onlyChanges_foldl ?_ ?_; intro x y hx)
    | (extract_lets +onlyGivenNames x; refine imp_app (p := onlyChanges _ _ x) ?_ (fun hx => ?_); rotate_left; clear_value x; rotate_right)
    | extract_lets +onlyGivenNames x
    | split
    | dsimp only
    | subst x
    | (intro x))

theorem serveShutSignal_frame {a0 b : Block} {ps : List Piece} (hp : [.topaz, .ch, .trace] ⊆ ps)
    (h0 : onlyChanges ps a0 b) : onlyChanges ps a0 (serveShutSignal b) := by
  refine onlyChanges_step ?_ hp h0
  unfold serveShutSignal
  repeat' (first
    | with_reducible assumption
    | with_reducible exact onlyChanges_refl _ _
    | with_reducible refine sendShutdown_frame (by decide) ?_
    | with_reducible refine Block.modCh_frame (by decide) ?_
    | with_reducible refine Block.modTopaz_frame (by decide) ?_
    | (with_reducible refine onlyChanges_foldl ?_ ?_; intro x y hx)
    | (extract_lets +onlyGivenNames x; refine imp_app (p := onlyChanges _ _ x) ?_ (fun hx => ?_); rotate_left; clear_value x; rotate_right)
    | extract_lets +onlyGivenNames x
    | split
    | dsimp only
    | subst x
    | (intro x))

theorem shutdownSignal_frame {lost : Nat} {a0 b : Block} {ps : List Piece} (hp : [.posts, .evr, .topaz, .ch, .trace, .out] ⊆ ps)
    (h0 : onlyChanges ps a0 b) : onlyChanges ps a0 (shutdownSignal lost b) := by
  refine onlyChanges_step ?_ hp h0
  unfold shutdownSignal
  repeat' (first
    | with_reducible assumption
    | with_reducible exact onlyChanges_refl _ _
    | with_reducible refine serveShutSignal_frame (by decide) ?_
    | with_reducible refine berylGap_frame (by decide) ?_
    | with_reducible refine Block.modCh_frame (by decide) ?_
    | (with_reducible refine onlyChanges_foldl ?_ ?_; intro x y hx)
    | (extract_lets +onlyGivenNames x; refine imp_app (p := onlyChanges _ _ x) ?_ (fun hx => ?_); rotate_left; clear_value x; rotate_right)
    | extract_lets +onlyGivenNames x
    | split
    | dsimp only
    | subst x
    | (intro x))

theorem shutdownDeadline_frame {a0 b : Block} {ps : List Piece} (hp : [.quartz, .disc, .tod, .garnet, .jade, .spinel, .opal, .posts, .onyx, .agate, .thm, .otc, .evr, .beryl, .topaz, .dram, .ch, .trace, .regs, .out] ⊆ ps)
    (h0 : onlyChanges ps a0 b) : onlyChanges ps a0 (shutdownDeadline b) := by
  refine onlyChanges_step ?_ hp h0
  unfold shutdownDeadline
  repeat' (first
    | with_reducible assumption
    | with_reducible exact onlyChanges_refl _ _
    | with_reducible refine startDrop_frame (by decide) ?_
    | with_reducible refine Block.modCh_frame (by decide) ?_
    | with_reducible refine Block.modTopaz_frame (by decide) ?_
    | (with_reducible refine onlyChanges_foldl ?_ ?_; intro x y hx)
    | (extract_lets +onlyGivenNames x; refine imp_app (p := onlyChanges _ _ x) ?_ (fun hx => ?_); rotate_left; clear_value x; rotate_right)
    | extract_lets +onlyGivenNames x
    | split
    | dsimp only
    | subst x
    | (intro x))

theorem serveTelResult_frame {a0 b : Block} {ps : List Piece} (hp : [.quartz, .disc, .tod, .garnet, .jade, .spinel, .opal, .posts, .onyx, .agate, .thm, .otc, .evr, .beryl, .topaz, .dram, .ch, .trace, .regs, .out] ⊆ ps)
    (h0 : onlyChanges ps a0 b) : onlyChanges ps a0 (serveTelResult b) := by
  refine onlyChanges_step ?_ hp h0
  unfold serveTelResult
  repeat' (first
    | with_reducible assumption
    | with_reducible exact onlyChanges_refl _ _
    | with_reducible refine shutDrop_frame (by decide) ?_
    | with_reducible refine latchEntry_frame (by decide) ?_
    | with_reducible refine Block.modCh_frame (by decide) ?_
    | with_reducible refine Block.modTopaz_frame (by decide) ?_
    | (with_reducible refine onlyChanges_foldl ?_ ?_; intro x y hx)
    | (extract_lets +onlyGivenNames x; refine imp_app (p := onlyChanges _ _ x) ?_ (fun hx => ?_); rotate_left; clear_value x; rotate_right)
    | extract_lets +onlyGivenNames x
    | split
    | dsimp only
    | subst x
    | (intro x))

theorem telBurnResult_frame {lost : Nat} {a0 b : Block} {ps : List Piece} (hp : [.quartz, .disc, .tod, .garnet, .jade, .spinel, .opal, .posts, .onyx, .agate, .thm, .otc, .evr, .beryl, .topaz, .dram, .ch, .trace, .regs, .out] ⊆ ps)
    (h0 : onlyChanges ps a0 b) : onlyChanges ps a0 (telBurnResult lost b) := by
  refine onlyChanges_step ?_ hp h0
  unfold telBurnResult
  repeat' (first
    | with_reducible assumption
    | with_reducible exact onlyChanges_refl _ _
    | with_reducible refine serveTelResult_frame (by decide) ?_
    | with_reducible refine berylGap_frame (by decide) ?_
    | with_reducible refine Block.modCh_frame (by decide) ?_
    | (with_reducible refine onlyChanges_foldl ?_ ?_; intro x y hx)
    | (extract_lets +onlyGivenNames x; refine imp_app (p := onlyChanges _ _ x) ?_ (fun hx => ?_); rotate_left; clear_value x; rotate_right)
    | extract_lets +onlyGivenNames x
    | split
    | dsimp only
    | subst x
    | (intro x))

theorem railDropTimeout_frame {a0 b : Block} {ps : List Piece} (hp : [.quartz, .disc, .tod, .garnet, .jade, .spinel, .opal, .posts, .onyx, .agate, .thm, .otc, .evr, .beryl, .topaz, .dram, .ch, .trace, .regs, .out] ⊆ ps)
    (h0 : onlyChanges ps a0 b) : onlyChanges ps a0 (railDropTimeout b) := by
  refine onlyChanges_step ?_ hp h0
  unfold railDropTimeout
  repeat' (first
    | with_reducible assumption
    | with_reducible exact onlyChanges_refl _ _
    | with_reducible refine shutDrop_frame (by decide) ?_
    | (with_reducible refine onlyChanges_foldl ?_ ?_; intro x y hx)
    | (extract_lets +onlyGivenNames x; refine imp_app (p := onlyChanges _ _ x) ?_ (fun hx => ?_); rotate_left; clear_value x; rotate_right)
    | extract_lets +onlyGivenNames x
    | split
    | dsimp only
    | subst x
    | (intro x))

theorem showEnd_frame {a0 b : Block} {ps : List Piece} (hp : [.posts, .topaz, .out] ⊆ ps)
    (h0 : onlyChanges ps a0 b) : onlyChanges ps a0 (showEnd b) := by
  refine onlyChanges_step ?_ hp h0
  unfold showEnd
  repeat' (first
    | with_reducible assumption
    | with_reducible exact onlyChanges_refl _ _
    | with_reducible refine openSwitch_frame (by decide) ?_
    | with_reducible refine tellHold_frame (by decide) ?_
    | with_reducible refine modPwr_frame (by decide) ?_
    | (with_reducible refine onlyChanges_foldl ?_ ?_; intro x y hx)
    | (extract_lets +onlyGivenNames x; refine imp_app (p := onlyChanges _ _ x) ?_ (fun hx => ?_); rotate_left; clear_value x; rotate_right)
    | extract_lets +onlyGivenNames x
    | split
    | dsimp only
    | subst x
    | (intro x))

theorem commitOne_frame {i : Island} {a0 b : Block} {ps : List Piece} (hp : [.posts, .topaz, .ch, .trace] ⊆ ps)
    (h0 : onlyChanges ps a0 b) : onlyChanges ps a0 (commitOne i b) := by
  refine onlyChanges_step ?_ hp h0
  unfold commitOne
  repeat' (first
    | with_reducible assumption
    | with_reducible exact onlyChanges_refl _ _
    | with_reducible refine restamp_frame (by decide) ?_
    | with_reducible refine Block.modIsl_frame (by decide) ?_
    | with_reducible refine Block.modTopaz_frame (by decide) ?_
    | (with_reducible refine onlyChanges_foldl ?_ ?_; intro x y hx)
    | (extract_lets +onlyGivenNames x; refine imp_app (p := onlyChanges _ _ x) ?_ (fun hx => ?_); rotate_left; clear_value x; rotate_right)
    | extract_lets +onlyGivenNames x
    | split
    | dsimp only
    | subst x
    | (intro x))

theorem islCommit_frame {w : Word} {a0 b : Block} {ps : List Piece} (hp : [.posts, .evr, .topaz, .ch, .trace, .out] ⊆ ps)
    (h0 : onlyChanges ps a0 b) : onlyChanges ps a0 (islCommit w b) := by
  refine onlyChanges_step ?_ hp h0
  unfold islCommit
  repeat' (first
    | with_reducible assumption
    | with_reducible exact onlyChanges_refl _ _
    | with_reducible refine commitOne_frame (by decide) ?_
    | with_reducible refine serveRing_frame (by decide) ?_
    | (with_reducible refine onlyChanges_foldl ?_ ?_; intro x y hx)
    | (extract_lets +onlyGivenNames x; refine imp_app (p := onlyChanges _ _ x) ?_ (fun hx => ?_); rotate_left; clear_value x; rotate_right)
    | extract_lets +onlyGivenNames x
    | split
    | dsimp only
    | subst x
    | (intro x))

theorem uncommitOne_frame {i : Island} {a0 b : Block} {ps : List Piece} (hp : [.garnet, .topaz] ⊆ ps)
    (h0 : onlyChanges ps a0 b) : onlyChanges ps a0 (uncommitOne i b) := by
  refine onlyChanges_step ?_ hp h0
  unfold uncommitOne
  repeat' (first
    | with_reducible assumption
    | with_reducible exact onlyChanges_refl _ _
    | with_reducible refine Block.modTopaz_frame (by decide) ?_
    | with_reducible refine Block.modGarnet_frame (by decide) ?_
    | (with_reducible refine onlyChanges_foldl ?_ ?_; intro x y hx)
    | (extract_lets +onlyGivenNames x; refine imp_app (p := onlyChanges _ _ x) ?_ (fun hx => ?_); rotate_left; clear_value x; rotate_right)
    | extract_lets +onlyGivenNames x
    | split
    | dsimp only
    | subst x
    | (intro x))

theorem islUncommit_frame {w : Word} {a0 b : Block} {ps : List Piece} (hp : [.garnet, .topaz] ⊆ ps)
    (h0 : onlyChanges ps a0 b) : onlyChanges ps a0 (islUncommit w b) := by
  refine onlyChanges_step ?_ hp h0
  unfold islUncommit
  repeat' (first
    | with_reducible assumption
    | with_reducible exact onlyChanges_refl _ _
    | with_reducible refine uncommitOne_frame (by decide) ?_
    | with_reducible refine Block.modTopaz_frame (by decide) ?_
    | (with_reducible refine onlyChanges_foldl ?_ ?_; intro x y hx)
    | (extract_lets +onlyGivenNames x; refine imp_app (p := onlyChanges _ _ x) ?_ (fun hx => ?_); rotate_left; clear_value x; rotate_right)
    | extract_lets +onlyGivenNames x
    | split
    | dsimp only
    | subst x
    | (intro x))

theorem storeReg_frame {off : Nat} {w : Word} {a0 b : Block} {ps : List Piece} (hp : [.regs] ⊆ ps)
    (h0 : onlyChanges ps a0 b) : onlyChanges ps a0 (storeReg off w b) := by
  refine onlyChanges_step ?_ hp h0
  unfold storeReg
  repeat' (first
    | with_reducible assumption
    | with_reducible exact onlyChanges_refl _ _
    | with_reducible refine Block.setReg_frame (by decide) ?_
    | (with_reducible refine onlyChanges_foldl ?_ ?_; intro x y hx)
    | (extract_lets +onlyGivenNames x; refine imp_app (p := onlyChanges _ _ x) ?_ (fun hx => ?_); rotate_left; clear_value x; rotate_right)
    | extract_lets +onlyGivenNames x
    | split
    | dsimp only
    | subst x
    | (intro x))

theorem afterWrite_frame {off : Nat} {w : Word} {old : Block} {a0 b : Block} {ps : List Piece} (hp : [.disc, .tod, .agate, .thm, .topaz] ⊆ ps)
    (h0 : onlyChanges ps a0 b) : onlyChanges ps a0 (afterWrite off w old b) := by
  refine onlyChanges_step ?_ hp h0
  unfold afterWrite
  repeat' (first
    | with_reducible assumption
    | with_reducible exact onlyChanges_refl _ _
    | with_reducible refine remoteWritten_frame (by decide) ?_
    | with_reducible refine engMod_frame (by decide) ?_
    | with_reducible refine refCfgWrite_frame (by decide) ?_
    | with_reducible refine discSettle_frame (by decide) ?_
    | with_reducible refine Block.modTopaz_frame (by decide) ?_
    | with_reducible refine Block.modTod_frame (by decide) ?_
    | (with_reducible refine onlyChanges_foldl ?_ ?_; intro x y hx)
    | (extract_lets +onlyGivenNames x; refine imp_app (p := onlyChanges _ _ x) ?_ (fun hx => ?_); rotate_left; clear_value x; rotate_right)
    | extract_lets +onlyGivenNames x
    | split
    | dsimp only
    | subst x
    | (intro x))

theorem registerWrite_frame {off : Nat} {w : Word} {be : BitVec 4} {a0 b : Block} {ps : List Piece} (hp : [.disc, .tod, .agate, .thm, .topaz, .regs] ⊆ ps)
    (h0 : onlyChanges ps a0 b) : onlyChanges ps a0 (registerWrite off w be b) := by
  refine onlyChanges_step ?_ hp h0
  unfold registerWrite
  repeat' (first
    | with_reducible assumption
    | with_reducible exact onlyChanges_refl _ _
    | with_reducible refine afterWrite_frame (by decide) ?_
    | with_reducible refine storeReg_frame (by decide) ?_
    | (with_reducible refine onlyChanges_foldl ?_ ?_; intro x y hx)
    | (extract_lets +onlyGivenNames x; refine imp_app (p := onlyChanges _ _ x) ?_ (fun hx => ?_); rotate_left; clear_value x; rotate_right)
    | extract_lets +onlyGivenNames x
    | split
    | dsimp only
    | subst x
    | (intro x))

theorem strbCfgWrite_frame {n : Nat} {w : Word} {a0 b : Block} {ps : List Piece} (hp : [.quartz, .regs] ⊆ ps)
    (h0 : onlyChanges ps a0 b) : onlyChanges ps a0 (strbCfgWrite n w b) := by
  refine onlyChanges_step ?_ hp h0
  unfold strbCfgWrite
  repeat' (first
    | with_reducible assumption
    | with_reducible exact onlyChanges_refl _ _
    | with_reducible refine storeReg_frame (by decide) ?_
    | with_reducible refine strobePol_frame (by decide) ?_
    | (with_reducible refine onlyChanges_foldl ?_ ?_; intro x y hx)
    | (extract_lets +onlyGivenNames x; refine imp_app (p := onlyChanges _ _ x) ?_ (fun hx => ?_); rotate_left; clear_value x; rotate_right)
    | extract_lets +onlyGivenNames x
    | split
    | dsimp only
    | subst x
    | (intro x))

end Sys2Proof.Machine
end

