-- ==== Sys2Proof/Laws/Gates.lean ====
section
/-! SUPPORT. The gates before the operations: what each does when it opens, and the frames they carry. -/

namespace Sys2Proof.Machine

/-- With no message lost the count shows no gap. -/
@[simp] theorem gapSeen_zero : gapSeen 0 = false := rfl

/-! ### Open gates -/

theorem gated_of_alive {i : Island} {f : Block → Block} {b : Block} (h : b.alive i = true) : gated i f b = f b := by
  simp [gated, h]

theorem gated_of_not_alive {i : Island} {f : Block → Block} {b : Block} (h : b.alive i = false) : gated i f b = b := by
  simp [gated, h]

theorem alive_not_failing {i : Island} {b : Block} (h : b.alive i = true) : b.failing i = false := by
  simp only [Block.alive, Block.failing, Bool.and_eq_true, Bool.not_eq_true'] at *
  simp [h.2]

theorem served_of_alive {i : Island} {fail f : Block → Block} {b : Block} (h : b.alive i = true)
    (he : islandEmpty b i = false) : served i fail f b = f b := by
  simp [served, alive_not_failing h, h, he]

theorem served_of_failing {i : Island} {fail f : Block → Block} {b : Block} (h : b.failing i = true) :
    served i fail f b = fail b := by
  simp [served, h]

theorem heeded_of_alive {i : Island} {f : Block → Block} {b : Block} (h : b.alive i = true) : heeded i f b = f b := by
  simp [heeded, h]

theorem powered_of_inPower {i : Island} {f : Block → Block} {b : Block} (h : b.inPower i = true) : powered i f b = f b := by
  simp [powered, h]

theorem live_of_mode {f : Block → Block} {b : Block} (h : b.beryl.evr.mode ≠ 2) : live f b = f b := by
  simp [live, h]

theorem liveOr_of_mode {drop f : Block → Block} {b : Block} (h : b.beryl.evr.mode ≠ 2) : liveOr drop f b = f b := by
  simp [liveOr, h]

theorem whileFirmware_of {f : Block → Block} {b : Block} (h : firmware b = true) : whileFirmware f b = f b := by
  simp [whileFirmware, h]

/-! ### Frames across gates -/

theorem gated_frame {i : Island} {f : Block → Block} {a0 b : Block} {ps : List Piece} (hf : onlyChanges ps a0 (f b))
    (h : onlyChanges ps a0 b) : onlyChanges ps a0 (gated i f b) := by
  unfold gated; split <;> assumption

theorem heeded_frame {i : Island} {f : Block → Block} {a0 b : Block} {ps : List Piece} (hf : onlyChanges ps a0 (f b))
    (h : onlyChanges ps a0 b) : onlyChanges ps a0 (heeded i f b) := by
  unfold heeded; split <;> assumption

theorem powered_frame {i : Island} {f : Block → Block} {a0 b : Block} {ps : List Piece} (hf : onlyChanges ps a0 (f b))
    (h : onlyChanges ps a0 b) : onlyChanges ps a0 (powered i f b) := by
  unfold powered; split <;> assumption

theorem live_frame {f : Block → Block} {a0 b : Block} {ps : List Piece} (hf : onlyChanges ps a0 (f b))
    (h : onlyChanges ps a0 b) : onlyChanges ps a0 (live f b) := by
  unfold live; split <;> assumption

theorem whileFirmware_frame {f : Block → Block} {a0 b : Block} {ps : List Piece} (hf : onlyChanges ps a0 (f b))
    (h : onlyChanges ps a0 b) : onlyChanges ps a0 (whileFirmware f b) := by
  unfold whileFirmware; split <;> assumption

theorem served_frame {i : Island} {fail f : Block → Block} {a0 b : Block} {ps : List Piece}
    (hg : onlyChanges ps a0 (fail b)) (hf : onlyChanges ps a0 (f b)) (h : onlyChanges ps a0 b) :
    onlyChanges ps a0 (served i fail f b) := by
  unfold served; split; · assumption
  split <;> assumption

theorem liveOr_frame {drop f : Block → Block} {a0 b : Block} {ps : List Piece} (hg : onlyChanges ps a0 (drop b))
    (hf : onlyChanges ps a0 (f b)) : onlyChanges ps a0 (liveOr drop f b) := by
  unfold liveOr; split <;> assumption

theorem jadeFails_frame {f : Block → Block} {a0 b : Block} {ps : List Piece} (hp : [.jade, .topaz, .ch, .trace] ⊆ ps)
    (hf : ∀ x, onlyChanges ps a0 x → onlyChanges ps a0 (f x)) (h : onlyChanges ps a0 b) :
    onlyChanges ps a0 (jadeFails f b) := by
  have hc : [.ch, .trace] ⊆ ps := List.Subset.trans (by decide) hp
  unfold jadeFails
  repeat' (first | assumption | exact hf _ (failInJade_frame hp h) | exact hf _ (sendFailedItem_frame hc (failInJade_frame hp h)) | split)

theorem spinelFails_frame {f : Block → Block} {a0 b : Block} {ps : List Piece} (hp : [.spinel, .evr, .topaz, .ch, .trace] ⊆ ps)
    (hf : ∀ x, onlyChanges ps a0 x → onlyChanges ps a0 (f x)) (h : onlyChanges ps a0 b) :
    onlyChanges ps a0 (spinelFails f b) := by
  have hs : [.spinel, .ch, .trace] ⊆ ps := List.Subset.trans (by decide) hp
  have hc : [.ch, .trace] ⊆ ps := List.Subset.trans (by decide) hp
  have he : [.evr, .trace] ⊆ ps := List.Subset.trans (by decide) hp
  unfold spinelFails
  split
  · next t ht =>
    have k := hf _ (failInSpinel_frame (frame := t.frame) (m := markFailStop) hp h)
    dsimp only
    repeat' (first | exact k | exact failOnward_frame hc (mergeFail_frame he k) | exact failSegment_frame hs (mergeFail_frame he k) | split)
  · exact h

theorem opalFails_frame {f : Block → Block} {a0 b : Block} {ps : List Piece} (hp : [.spinel, .opal, .posts, .evr, .topaz, .ch, .trace, .out] ⊆ ps)
    (hf : ∀ x, onlyChanges ps a0 x → onlyChanges ps a0 (f x)) (h : onlyChanges ps a0 b) :
    onlyChanges ps a0 (opalFails f b) := by
  unfold opalFails
  repeat' (first | assumption | exact hf _ (failInOpal_frame hp h) | split)

theorem onyxFails_frame {f : Block → Block} {a0 b : Block} {ps : List Piece} (hp : [.jade, .onyx, .evr, .topaz, .ch, .trace] ⊆ ps)
    (hf : ∀ x, onlyChanges ps a0 x → onlyChanges ps a0 (f x)) (h : onlyChanges ps a0 b) :
    onlyChanges ps a0 (onyxFails f b) := by
  unfold onyxFails
  repeat' (first | assumption | exact hf _ (failInOnyx_frame hp h) | split)

theorem noticeFails_frame {ch : Channels → List LatchNotice} {failIn : Nat → Block → Block} {lost : Nat} {f : Block → Block}
    {a0 b : Block} {ps : List Piece} (hk : ∀ n x, onlyChanges ps a0 x → onlyChanges ps a0 (failIn n x))
    (hf : ∀ x, onlyChanges ps a0 x → onlyChanges ps a0 (f x)) (h : onlyChanges ps a0 b) :
    onlyChanges ps a0 (noticeFails ch failIn lost f b) := by
  unfold noticeFails
  split
  · dsimp only
    repeat' (first | exact hf _ h | exact hk _ _ (hf _ h) | split)
  · exact h

theorem spinelNoticeFails_frame {lost : Nat} {f : Block → Block} {a0 b : Block} {ps : List Piece}
    (hp : [.spinel, .evr, .topaz, .ch, .trace] ⊆ ps) (hf : ∀ x, onlyChanges ps a0 x → onlyChanges ps a0 (f x))
    (h : onlyChanges ps a0 b) : onlyChanges ps a0 (spinelNoticeFails lost f b) :=
  noticeFails_frame (fun _ _ hx => failInSpinel_frame hp hx) hf h

theorem onyxNoticeFails_frame {lost : Nat} {f : Block → Block} {a0 b : Block} {ps : List Piece}
    (hp : [.jade, .onyx, .evr, .topaz, .ch, .trace] ⊆ ps) (hf : ∀ x, onlyChanges ps a0 x → onlyChanges ps a0 (f x))
    (h : onlyChanges ps a0 b) : onlyChanges ps a0 (onyxNoticeFails lost f b) :=
  noticeFails_frame (fun _ _ hx => failInOnyx_frame hp hx) hf h

end Sys2Proof.Machine
end

