-- ==== Sys2Proof/Laws/Memory.lean ====
section
/-! SUPPORT. The keyed lists that hold DRAM, the stored registers and the fuses: every operation keeps their canonical form;
what a write leaves at its own key and at every other. -/

namespace Sys2Proof.Machine

theorem keysAbove_mapSet {α : Type} [DecidableEq α] {d v : α} {j k : Nat} (hk : j < k) :
    ∀ {l : List (Nat × α)}, keysAbove j l = true → keysAbove j (mapSet d l k v) = true
  | [], _ => by
    unfold mapSet; split
    · rfl
    · simp [keysAbove, hk]
  | (i, w) :: l, h => by
    have hi : j < i := by simp [keysAbove] at h; exact h.1
    have hl : keysAbove j l = true := by simp [keysAbove] at h ⊢; exact h.2
    have ih := keysAbove_mapSet (d := d) (v := v) hk hl
    unfold mapSet
    split
    · split
      · exact h
      · simp only [keysAbove, List.all_cons, Bool.and_eq_true, decide_eq_true_eq]
        exact ⟨hk, hi, hl⟩
    · split
      · split
        · exact hl
        · simp only [keysAbove, List.all_cons, Bool.and_eq_true, decide_eq_true_eq]
          exact ⟨hk, hl⟩
      · simp only [keysAbove, List.all_cons, Bool.and_eq_true, decide_eq_true_eq]
        exact ⟨hi, ih⟩

theorem keysAbove_trans {α : Type} {j k : Nat} (hk : j < k) {l : List (Nat × α)} (h : keysAbove k l = true) :
    keysAbove j l = true := by
  simp only [keysAbove, List.all_eq_true, decide_eq_true_eq] at h ⊢
  exact fun e he => Nat.lt_trans hk (h e he)

/-- Writing keeps the canonical form. -/
theorem mapSet_wf {α : Type} [DecidableEq α] {f : Nat → α} {k : Nat} {v : α} :
    ∀ {l : List (Nat × α)}, mapWf f l = true → mapWf f (mapSet (f k) l k v) = true
  | [], _ => by
    unfold mapSet; split
    · rfl
    · rename_i h; simp [mapWf, keysAbove, h]
  | (j, w) :: l, h => by
    simp only [mapWf, Bool.and_eq_true, bne_iff_ne, ne_eq] at h
    obtain ⟨⟨hw, ha⟩, hl⟩ := h
    unfold mapSet
    split
    · rename_i hk
      split
      · simp [mapWf, hw, ha, hl]
      · rename_i hv
        have : keysAbove k ((j, w) :: l) = true := by
          have := keysAbove_trans hk ha
          simp only [keysAbove, List.all_cons, Bool.and_eq_true, decide_eq_true_eq] at this ⊢
          exact ⟨hk, this⟩
        simp [mapWf, hv, this, hw, ha, hl]
    · split
      · rename_i hkj
        subst hkj
        split
        · exact hl
        · rename_i hv; simp [mapWf, hv, ha, hl]
      · rename_i h1 h2
        have hjk : j < k := by omega
        simp [mapWf, hw, keysAbove_mapSet hjk ha, mapSet_wf hl]

/-- Reading another key. -/
theorem mapGet_mapSet_ne {α : Type} [DecidableEq α] {d d' v : α} {j k : Nat} (h : j ≠ k) :
    ∀ {l : List (Nat × α)}, mapGet d' (mapSet d l k v) j = mapGet d' l j
  | [] => by
    unfold mapSet; split
    · rfl
    · simp [mapGet, Ne.symm h]
  | (i, w) :: l => by
    unfold mapSet
    split
    · split
      · rfl
      · simp [mapGet, Ne.symm h]
    · split
      · rename_i hi; subst hi
        split <;> simp [mapGet, Ne.symm h]
      · simp [mapGet, mapGet_mapSet_ne h (l := l)]

theorem mapGet_of_keysAbove {α : Type} {d : α} {j k : Nat} (hjk : j ≤ k) :
    ∀ {l : List (Nat × α)}, keysAbove k l = true → mapGet d l j = d
  | [], _ => rfl
  | (i, w) :: l, h => by
    simp only [keysAbove, List.all_cons, Bool.and_eq_true, decide_eq_true_eq] at h
    have : i ≠ j := by omega
    simp [mapGet, this, mapGet_of_keysAbove hjk h.2]

/-- Reading the key written. -/
theorem mapGet_mapSet {α : Type} [DecidableEq α] {f : Nat → α} {k : Nat} {v : α} :
    ∀ {l : List (Nat × α)}, mapWf f l = true → mapGet (f k) (mapSet (f k) l k v) k = v
  | [], _ => by
    unfold mapSet; split
    · rename_i h; simp [mapGet, h]
    · simp [mapGet]
  | (j, w) :: l, h => by
    simp only [mapWf, Bool.and_eq_true, bne_iff_ne, ne_eq] at h
    obtain ⟨⟨hw, ha⟩, hl⟩ := h
    unfold mapSet
    split
    · rename_i hk
      split
      · rename_i hv
        have hne : j ≠ k := by omega
        simp [mapGet, hne, mapGet_of_keysAbove (Nat.le_of_lt hk) ha, hv]
      · simp [mapGet]
    · split
      · rename_i hk; subst hk
        split
        · rename_i hv; simp [mapGet_of_keysAbove (Nat.le_refl _) ha, hv]
        · simp [mapGet]
      · rename_i h1 h2
        simp [mapGet, Ne.symm h2, mapGet_mapSet hl]

/-- Taking entries away keeps the canonical form. -/
theorem filter_wf {α : Type} [DecidableEq α] {f : Nat → α} {p : Nat × α → Bool} :
    ∀ {l : List (Nat × α)}, mapWf f l = true → mapWf f (l.filter p) = true
  | [], _ => rfl
  | (j, w) :: l, h => by
    simp only [mapWf, Bool.and_eq_true, bne_iff_ne, ne_eq] at h
    obtain ⟨⟨hw, ha⟩, hl⟩ := h
    rw [List.filter_cons]
    split
    · have : keysAbove j (l.filter p) = true := by
        simp only [keysAbove, List.all_eq_true, decide_eq_true_eq] at ha ⊢
        exact fun e he => ha e (List.mem_filter.mp he).1
      simp [mapWf, hw, this, filter_wf hl]
    · exact filter_wf hl

/-- Two canonical lists, every key of the first below every key of the second. -/
theorem mapWf_append {α : Type} [DecidableEq α] {f : Nat → α} {r : List (Nat × α)} (hr : mapWf f r = true) :
    ∀ {l : List (Nat × α)}, mapWf f l = true → (∀ e ∈ l, ∀ x ∈ r, e.1 < x.1) → mapWf f (l ++ r) = true
  | [], _, _ => hr
  | (j, w) :: l, h, hk => by
    simp only [mapWf, Bool.and_eq_true, bne_iff_ne, ne_eq] at h
    obtain ⟨⟨hw, ha⟩, hl⟩ := h
    have : keysAbove j (l ++ r) = true := by
      simp only [keysAbove, List.all_eq_true, decide_eq_true_eq] at ha ⊢
      intro e he
      rcases List.mem_append.mp he with h1 | h1
      · exact ha e h1
      · exact hk (j, w) (List.mem_cons_self ..) e h1
    show mapWf f ((j, w) :: (l ++ r)) = true
    simp [mapWf, hw, this, mapWf_append hr hl (fun e he x hx => hk e (List.mem_cons_of_mem _ he) x hx)]

theorem memCells_bounds : ∀ {a : Nat} {vs : List Byte} {e : Host.Cell}, e ∈ memCells a vs → a ≤ e.1 ∧ e.1 < a + vs.length
  | _, [], _, h => by cases h
  | a, v :: vs, e, h => by
    unfold memCells at h
    split at h
    · have := memCells_bounds h; simp; omega
    · rcases List.mem_cons.mp h with h | h
      · subst h; simp
      · have := memCells_bounds h; simp; omega

theorem memCells_wf : ∀ {a : Nat} {vs : List Byte}, mapWf (fun _ => (0 : Byte)) (memCells a vs) = true
  | _, [] => rfl
  | a, v :: vs => by
    unfold memCells
    split
    · exact memCells_wf
    · rename_i hv
      have : keysAbove a (memCells (a + 1) vs) = true := by
        simp only [keysAbove, List.all_eq_true, decide_eq_true_eq]
        exact fun e he => (memCells_bounds he).1
      have hw : mapWf (fun _ => (0 : Byte)) (memCells (a + 1) vs) = true := memCells_wf
      simp only [mapWf, this, hw, Bool.and_true, bne_iff_ne, ne_eq]
      exact hv

theorem memWrite_wf {m : List Host.Cell} {a : Nat} {vs : List Byte} (h : mapWf (fun _ => (0 : Byte)) m = true) :
    mapWf (fun _ => (0 : Byte)) (memWrite m a vs) = true := by
  refine mapWf_append (mapWf_append (filter_wf h) memCells_wf ?_) (filter_wf h) ?_
  · intro e he x hx
    have h1 := memCells_bounds he
    have h2 := List.mem_filter.mp hx
    simp at h2; omega
  · intro e he x hx
    have h1 := List.mem_filter.mp he
    simp at h1
    rcases List.mem_append.mp hx with h2 | h2
    · have := memCells_bounds h2; omega
    · have := List.mem_filter.mp h2; simp at this; omega

theorem mapGet_append_of_not_mem {α : Type} {d : α} {x : Nat} {r : List (Nat × α)} :
    ∀ {l : List (Nat × α)}, (∀ e ∈ l, e.1 ≠ x) → mapGet d (l ++ r) x = mapGet d r x
  | [], _ => rfl
  | (j, w) :: l, h => by
    have hj : j ≠ x := h (j, w) (List.mem_cons_self ..)
    show mapGet d ((j, w) :: (l ++ r)) x = _
    simp [mapGet, hj, mapGet_append_of_not_mem (fun e he => h e (List.mem_cons_of_mem _ he))]

theorem mapGet_filter {α : Type} {d : α} {p : Nat → Bool} {x : Nat} (hx : p x = true) :
    ∀ {l : List (Nat × α)}, mapGet d (l.filter (fun e => p e.1)) x = mapGet d l x
  | [] => rfl
  | (j, w) :: l => by
    rw [List.filter_cons]
    by_cases hj : j = x
    · subst hj; simp [hx, mapGet]
    · split <;> simp [mapGet, hj, mapGet_filter hx]

theorem mapGet_append_of_mem {α : Type} {d : α} {x : Nat} {r : List (Nat × α)} (hr : ∀ e ∈ r, e.1 ≠ x) :
    ∀ {l : List (Nat × α)}, mapGet d (l ++ r) x = mapGet d l x
  | [] => by
    show mapGet d r x = d
    have := mapGet_append_of_not_mem (d := d) (r := []) hr
    simpa [mapGet] using this
  | (j, w) :: l => by
    show mapGet d ((j, w) :: (l ++ r)) x = _
    by_cases hj : j = x <;> simp [mapGet, hj, mapGet_append_of_mem hr]

/-- A byte outside those written. -/
theorem memWrite_other {x : Nat} {m : List Host.Cell} {a : Nat} {vs : List Byte} (h : x < a ∨ a + vs.length ≤ x) :
    mapGet 0 (memWrite m a vs) x = mapGet 0 m x := by
  unfold memWrite
  have hc : ∀ e ∈ memCells a vs, e.1 ≠ x := fun e he => by have := memCells_bounds he; omega
  rcases h with h | h
  · rw [mapGet_append_of_mem]
    · exact mapGet_filter (p := fun k => decide (k < a)) (by simpa using h)
    · intro e he
      rcases List.mem_append.mp he with h1 | h1
      · exact hc e h1
      · have := List.mem_filter.mp h1; simp at this; omega
  · rw [mapGet_append_of_not_mem, mapGet_append_of_not_mem hc]
    · exact mapGet_filter (p := fun k => decide (a + vs.length ≤ k)) (by simpa using h)
    · intro e he
      have := List.mem_filter.mp he; simp at this; omega

theorem memCells_get : ∀ {a i : Nat} {vs : List Byte}, i < vs.length → mapGet 0 (memCells a vs) (a + i) = vs.getD i 0
  | _, _, [], h => by cases h
  | a, 0, v :: vs, _ => by
    unfold memCells
    split
    · rename_i hv
      have := mapGet_append_of_not_mem (d := (0 : Byte)) (x := a + 0) (r := [])
        (l := memCells (a + 1) vs) (fun e he => by have := memCells_bounds he; omega)
      simp [mapGet] at this ⊢
      rw [this, hv]; rfl
    · simp [mapGet]
  | a, i + 1, v :: vs, h => by
    have ih := memCells_get (a := a + 1) (i := i) (vs := vs) (by simpa using h)
    have e : a + (i + 1) = a + 1 + i := by omega
    unfold memCells
    rw [e]
    split
    · simpa using ih
    · have : a ≠ a + 1 + i := by omega
      simpa [mapGet, this] using ih

/-- A byte that was written. -/
theorem memWrite_get {i : Nat} {m : List Host.Cell} {a : Nat} {vs : List Byte} (h : i < vs.length) :
    mapGet 0 (memWrite m a vs) (a + i) = vs.getD i 0 := by
  unfold memWrite
  rw [mapGet_append_of_not_mem, mapGet_append_of_mem, memCells_get h]
  · intro e he
    have := List.mem_filter.mp he; simp at this; omega
  · intro e he
    have := List.mem_filter.mp he; simp at this; omega

/-- Reading a run of canonical cells byte by byte. -/
theorem memTake_eq : ∀ {n a : Nat} {l : List Host.Cell} {acc : List Byte}, mapWf (fun _ => (0 : Byte)) l = true →
    (∀ e ∈ l, a ≤ e.1) → memTake n a l acc = acc.reverse ++ (List.range n).map (fun i => mapGet 0 l (a + i))
  | 0, _, _, _, _, _ => by simp [memTake]
  | n + 1, a, [], acc, h, _ => by
    have ih := memTake_eq (n := n) (a := a + 1) (l := []) (acc := 0 :: acc) h (by simp)
    unfold memTake
    rw [ih, List.range_succ_eq_map]
    simp only [List.reverse_cons, List.append_assoc, List.map_cons, List.map_map, List.singleton_append]
    rfl
  | n + 1, a, (k, v) :: l, acc, h, hb => by
    have hw := h
    simp only [mapWf, Bool.and_eq_true, bne_iff_ne, ne_eq] at h
    obtain ⟨⟨hv, ha⟩, hl⟩ := h
    have hk : a ≤ k := hb (k, v) (List.mem_cons_self ..)
    have ha' : ∀ e ∈ l, k < e.1 := by simpa [keysAbove] using ha
    unfold memTake
    split
    · rename_i hka
      subst hka
      rw [memTake_eq hl (fun e he => ha' e he), List.range_succ_eq_map]
      simp only [List.reverse_cons, List.append_assoc, List.map_cons, List.map_map, List.singleton_append]
      have h0 : mapGet 0 ((k, v) :: l) (k + 0) = v := by simp [mapGet]
      rw [h0]
      congr 2
      apply List.map_congr_left
      intro i _
      have : k ≠ k + (i + 1) := by omega
      simp only [Function.comp, mapGet, this, if_false]
      congr 1; omega
    · rename_i hka
      rw [memTake_eq hw (fun e he => by
        rcases List.mem_cons.mp he with h1 | h1
        · subst h1; simp; omega
        · have := ha' e h1; omega), List.range_succ_eq_map]
      simp only [List.reverse_cons, List.append_assoc, List.map_cons, List.map_map, List.singleton_append]
      have h0 : mapGet 0 ((k, v) :: l) (a + 0) = 0 := mapGet_of_keysAbove (k := k - 1) (by omega) (by
        simp only [keysAbove, List.all_cons, Bool.and_eq_true, decide_eq_true_eq, List.all_eq_true]
        exact ⟨by omega, fun e he => by have := ha' e he; omega⟩)
      rw [h0]
      congr 2
      apply List.map_congr_left
      intro i _
      simp only [Function.comp]
      congr 1; omega

/-- A read of DRAM gives its bytes one by one. -/
theorem Block.dramRead_eq {b : Block} (a n : Nat) (h : mapWf (fun _ => (0 : Byte)) b.dram = true) :
    b.dramRead a n = (List.range n).map (fun i => b.dramByte (a + i)) := by
  unfold Block.dramRead
  rw [memTake_eq (filter_wf h)]
  · simp only [List.reverse_nil, List.nil_append]
    apply List.map_congr_left
    intro i hi
    exact mapGet_filter (p := fun k => decide (a ≤ k) && decide (k < a + n)) (by have := List.mem_range.mp hi; simp; omega)
  · intro e he
    have := List.mem_filter.mp he; simp at this; omega

/-- Every operation on DRAM keeps its canonical form. -/
theorem Block.dramWrite_wf {b : Block} (a : Nat) (vs : List Byte) (h : mapWf (fun _ => (0 : Byte)) b.dram = true) :
    mapWf (fun _ => (0 : Byte)) (b.dramWrite a vs).dram = true := memWrite_wf h

theorem Block.dramWrite_other {b : Block} {a x : Nat} {vs : List Byte} (h : x < a ∨ a + vs.length ≤ x) :
    (b.dramWrite a vs).dramByte x = b.dramByte x := memWrite_other h

theorem reset_dram_wf : mapWf (fun _ => (0 : Byte)) State.reset.blk.dram = true := rfl

theorem Block.setReg_wf {b : Block} (off v : Nat) (h : mapWf regReset b.regs = true) :
    mapWf regReset (b.setReg off v).regs = true := mapSet_wf h

theorem Block.setReg_reg {b : Block} {off v : Nat} (h : mapWf regReset b.regs = true) :
    (b.setReg off v).reg off = v % 2 ^ 32 := by
  show (mapGet (regReset off) (mapSet (regReset off) b.regs off (BitVec.ofNat 32 v)) off).toNat = _
  rw [mapGet_mapSet h, BitVec.toNat_ofNat]

theorem Block.setReg_other {b : Block} {off o v : Nat} (h : o ≠ off) : (b.setReg off v).reg o = b.reg o := by
  show (mapGet (regReset o) (mapSet (regReset off) b.regs off (BitVec.ofNat 32 v)) o).toNat = _
  rw [mapGet_mapSet_ne h]; rfl

end Sys2Proof.Machine
end

