-- ==== Sys2Proof/Laws/State.lean ====
section
/-! SUPPORT. One lemma per field for each update of the block: true by rfl, so that no proof unfolds a record update. -/

namespace Sys2Proof.Machine

@[simp] theorem Block.modQuartz_quartz (b : Block) (f) : (b.modQuartz f).quartz = f b.quartz := rfl
@[simp] theorem Block.modQuartz_disc (b : Block) (f) : (b.modQuartz f).disc = b.disc := rfl
@[simp] theorem Block.modQuartz_tod (b : Block) (f) : (b.modQuartz f).tod = b.tod := rfl
@[simp] theorem Block.modQuartz_garnet (b : Block) (f) : (b.modQuartz f).garnet = b.garnet := rfl
@[simp] theorem Block.modQuartz_jade (b : Block) (f) : (b.modQuartz f).jade = b.jade := rfl
@[simp] theorem Block.modQuartz_spinel (b : Block) (f) : (b.modQuartz f).spinel = b.spinel := rfl
@[simp] theorem Block.modQuartz_opal (b : Block) (f) : (b.modQuartz f).opal = b.opal := rfl
@[simp] theorem Block.modQuartz_onyx (b : Block) (f) : (b.modQuartz f).onyx = b.onyx := rfl
@[simp] theorem Block.modQuartz_agate (b : Block) (f) : (b.modQuartz f).agate = b.agate := rfl
@[simp] theorem Block.modQuartz_beryl (b : Block) (f) : (b.modQuartz f).beryl = b.beryl := rfl
@[simp] theorem Block.modQuartz_topaz (b : Block) (f) : (b.modQuartz f).topaz = b.topaz := rfl
@[simp] theorem Block.modQuartz_dram (b : Block) (f) : (b.modQuartz f).dram = b.dram := rfl
@[simp] theorem Block.modQuartz_ch (b : Block) (f) : (b.modQuartz f).ch = b.ch := rfl
@[simp] theorem Block.modQuartz_regs (b : Block) (f) : (b.modQuartz f).regs = b.regs := rfl
@[simp] theorem Block.modQuartz_out (b : Block) (f) : (b.modQuartz f).out = b.out := rfl
@[simp] theorem Block.modQuartz_fresh (b : Block) (f) : (b.modQuartz f).fresh = b.fresh := rfl

@[simp] theorem Block.modDisc_quartz (b : Block) (f) : (b.modDisc f).quartz = b.quartz := rfl
@[simp] theorem Block.modDisc_disc (b : Block) (f) : (b.modDisc f).disc = f b.disc := rfl
@[simp] theorem Block.modDisc_tod (b : Block) (f) : (b.modDisc f).tod = b.tod := rfl
@[simp] theorem Block.modDisc_garnet (b : Block) (f) : (b.modDisc f).garnet = b.garnet := rfl
@[simp] theorem Block.modDisc_jade (b : Block) (f) : (b.modDisc f).jade = b.jade := rfl
@[simp] theorem Block.modDisc_spinel (b : Block) (f) : (b.modDisc f).spinel = b.spinel := rfl
@[simp] theorem Block.modDisc_opal (b : Block) (f) : (b.modDisc f).opal = b.opal := rfl
@[simp] theorem Block.modDisc_onyx (b : Block) (f) : (b.modDisc f).onyx = b.onyx := rfl
@[simp] theorem Block.modDisc_agate (b : Block) (f) : (b.modDisc f).agate = b.agate := rfl
@[simp] theorem Block.modDisc_beryl (b : Block) (f) : (b.modDisc f).beryl = b.beryl := rfl
@[simp] theorem Block.modDisc_topaz (b : Block) (f) : (b.modDisc f).topaz = b.topaz := rfl
@[simp] theorem Block.modDisc_dram (b : Block) (f) : (b.modDisc f).dram = b.dram := rfl
@[simp] theorem Block.modDisc_ch (b : Block) (f) : (b.modDisc f).ch = b.ch := rfl
@[simp] theorem Block.modDisc_regs (b : Block) (f) : (b.modDisc f).regs = b.regs := rfl
@[simp] theorem Block.modDisc_out (b : Block) (f) : (b.modDisc f).out = b.out := rfl
@[simp] theorem Block.modDisc_fresh (b : Block) (f) : (b.modDisc f).fresh = b.fresh := rfl

@[simp] theorem Block.modTod_quartz (b : Block) (f) : (b.modTod f).quartz = b.quartz := rfl
@[simp] theorem Block.modTod_disc (b : Block) (f) : (b.modTod f).disc = b.disc := rfl
@[simp] theorem Block.modTod_tod (b : Block) (f) : (b.modTod f).tod = f b.tod := rfl
@[simp] theorem Block.modTod_garnet (b : Block) (f) : (b.modTod f).garnet = b.garnet := rfl
@[simp] theorem Block.modTod_jade (b : Block) (f) : (b.modTod f).jade = b.jade := rfl
@[simp] theorem Block.modTod_spinel (b : Block) (f) : (b.modTod f).spinel = b.spinel := rfl
@[simp] theorem Block.modTod_opal (b : Block) (f) : (b.modTod f).opal = b.opal := rfl
@[simp] theorem Block.modTod_onyx (b : Block) (f) : (b.modTod f).onyx = b.onyx := rfl
@[simp] theorem Block.modTod_agate (b : Block) (f) : (b.modTod f).agate = b.agate := rfl
@[simp] theorem Block.modTod_beryl (b : Block) (f) : (b.modTod f).beryl = b.beryl := rfl
@[simp] theorem Block.modTod_topaz (b : Block) (f) : (b.modTod f).topaz = b.topaz := rfl
@[simp] theorem Block.modTod_dram (b : Block) (f) : (b.modTod f).dram = b.dram := rfl
@[simp] theorem Block.modTod_ch (b : Block) (f) : (b.modTod f).ch = b.ch := rfl
@[simp] theorem Block.modTod_regs (b : Block) (f) : (b.modTod f).regs = b.regs := rfl
@[simp] theorem Block.modTod_out (b : Block) (f) : (b.modTod f).out = b.out := rfl
@[simp] theorem Block.modTod_fresh (b : Block) (f) : (b.modTod f).fresh = b.fresh := rfl

@[simp] theorem Block.modGarnet_quartz (b : Block) (f) : (b.modGarnet f).quartz = b.quartz := rfl
@[simp] theorem Block.modGarnet_disc (b : Block) (f) : (b.modGarnet f).disc = b.disc := rfl
@[simp] theorem Block.modGarnet_tod (b : Block) (f) : (b.modGarnet f).tod = b.tod := rfl
@[simp] theorem Block.modGarnet_garnet (b : Block) (f) : (b.modGarnet f).garnet = f b.garnet := rfl
@[simp] theorem Block.modGarnet_jade (b : Block) (f) : (b.modGarnet f).jade = b.jade := rfl
@[simp] theorem Block.modGarnet_spinel (b : Block) (f) : (b.modGarnet f).spinel = b.spinel := rfl
@[simp] theorem Block.modGarnet_opal (b : Block) (f) : (b.modGarnet f).opal = b.opal := rfl
@[simp] theorem Block.modGarnet_onyx (b : Block) (f) : (b.modGarnet f).onyx = b.onyx := rfl
@[simp] theorem Block.modGarnet_agate (b : Block) (f) : (b.modGarnet f).agate = b.agate := rfl
@[simp] theorem Block.modGarnet_beryl (b : Block) (f) : (b.modGarnet f).beryl = b.beryl := rfl
@[simp] theorem Block.modGarnet_topaz (b : Block) (f) : (b.modGarnet f).topaz = b.topaz := rfl
@[simp] theorem Block.modGarnet_dram (b : Block) (f) : (b.modGarnet f).dram = b.dram := rfl
@[simp] theorem Block.modGarnet_ch (b : Block) (f) : (b.modGarnet f).ch = b.ch := rfl
@[simp] theorem Block.modGarnet_regs (b : Block) (f) : (b.modGarnet f).regs = b.regs := rfl
@[simp] theorem Block.modGarnet_out (b : Block) (f) : (b.modGarnet f).out = b.out := rfl
@[simp] theorem Block.modGarnet_fresh (b : Block) (f) : (b.modGarnet f).fresh = b.fresh := rfl

@[simp] theorem Block.modJade_quartz (b : Block) (f) : (b.modJade f).quartz = b.quartz := rfl
@[simp] theorem Block.modJade_disc (b : Block) (f) : (b.modJade f).disc = b.disc := rfl
@[simp] theorem Block.modJade_tod (b : Block) (f) : (b.modJade f).tod = b.tod := rfl
@[simp] theorem Block.modJade_garnet (b : Block) (f) : (b.modJade f).garnet = b.garnet := rfl
@[simp] theorem Block.modJade_jade (b : Block) (f) : (b.modJade f).jade = f b.jade := rfl
@[simp] theorem Block.modJade_spinel (b : Block) (f) : (b.modJade f).spinel = b.spinel := rfl
@[simp] theorem Block.modJade_opal (b : Block) (f) : (b.modJade f).opal = b.opal := rfl
@[simp] theorem Block.modJade_onyx (b : Block) (f) : (b.modJade f).onyx = b.onyx := rfl
@[simp] theorem Block.modJade_agate (b : Block) (f) : (b.modJade f).agate = b.agate := rfl
@[simp] theorem Block.modJade_beryl (b : Block) (f) : (b.modJade f).beryl = b.beryl := rfl
@[simp] theorem Block.modJade_topaz (b : Block) (f) : (b.modJade f).topaz = b.topaz := rfl
@[simp] theorem Block.modJade_dram (b : Block) (f) : (b.modJade f).dram = b.dram := rfl
@[simp] theorem Block.modJade_ch (b : Block) (f) : (b.modJade f).ch = b.ch := rfl
@[simp] theorem Block.modJade_regs (b : Block) (f) : (b.modJade f).regs = b.regs := rfl
@[simp] theorem Block.modJade_out (b : Block) (f) : (b.modJade f).out = b.out := rfl
@[simp] theorem Block.modJade_fresh (b : Block) (f) : (b.modJade f).fresh = b.fresh := rfl

@[simp] theorem Block.modSpinel_quartz (b : Block) (f) : (b.modSpinel f).quartz = b.quartz := rfl
@[simp] theorem Block.modSpinel_disc (b : Block) (f) : (b.modSpinel f).disc = b.disc := rfl
@[simp] theorem Block.modSpinel_tod (b : Block) (f) : (b.modSpinel f).tod = b.tod := rfl
@[simp] theorem Block.modSpinel_garnet (b : Block) (f) : (b.modSpinel f).garnet = b.garnet := rfl
@[simp] theorem Block.modSpinel_jade (b : Block) (f) : (b.modSpinel f).jade = b.jade := rfl
@[simp] theorem Block.modSpinel_spinel (b : Block) (f) : (b.modSpinel f).spinel = f b.spinel := rfl
@[simp] theorem Block.modSpinel_opal (b : Block) (f) : (b.modSpinel f).opal = b.opal := rfl
@[simp] theorem Block.modSpinel_onyx (b : Block) (f) : (b.modSpinel f).onyx = b.onyx := rfl
@[simp] theorem Block.modSpinel_agate (b : Block) (f) : (b.modSpinel f).agate = b.agate := rfl
@[simp] theorem Block.modSpinel_beryl (b : Block) (f) : (b.modSpinel f).beryl = b.beryl := rfl
@[simp] theorem Block.modSpinel_topaz (b : Block) (f) : (b.modSpinel f).topaz = b.topaz := rfl
@[simp] theorem Block.modSpinel_dram (b : Block) (f) : (b.modSpinel f).dram = b.dram := rfl
@[simp] theorem Block.modSpinel_ch (b : Block) (f) : (b.modSpinel f).ch = b.ch := rfl
@[simp] theorem Block.modSpinel_regs (b : Block) (f) : (b.modSpinel f).regs = b.regs := rfl
@[simp] theorem Block.modSpinel_out (b : Block) (f) : (b.modSpinel f).out = b.out := rfl
@[simp] theorem Block.modSpinel_fresh (b : Block) (f) : (b.modSpinel f).fresh = b.fresh := rfl

@[simp] theorem Block.modOpal_quartz (b : Block) (f) : (b.modOpal f).quartz = b.quartz := rfl
@[simp] theorem Block.modOpal_disc (b : Block) (f) : (b.modOpal f).disc = b.disc := rfl
@[simp] theorem Block.modOpal_tod (b : Block) (f) : (b.modOpal f).tod = b.tod := rfl
@[simp] theorem Block.modOpal_garnet (b : Block) (f) : (b.modOpal f).garnet = b.garnet := rfl
@[simp] theorem Block.modOpal_jade (b : Block) (f) : (b.modOpal f).jade = b.jade := rfl
@[simp] theorem Block.modOpal_spinel (b : Block) (f) : (b.modOpal f).spinel = b.spinel := rfl
@[simp] theorem Block.modOpal_opal (b : Block) (f) : (b.modOpal f).opal = f b.opal := rfl
@[simp] theorem Block.modOpal_onyx (b : Block) (f) : (b.modOpal f).onyx = b.onyx := rfl
@[simp] theorem Block.modOpal_agate (b : Block) (f) : (b.modOpal f).agate = b.agate := rfl
@[simp] theorem Block.modOpal_beryl (b : Block) (f) : (b.modOpal f).beryl = b.beryl := rfl
@[simp] theorem Block.modOpal_topaz (b : Block) (f) : (b.modOpal f).topaz = b.topaz := rfl
@[simp] theorem Block.modOpal_dram (b : Block) (f) : (b.modOpal f).dram = b.dram := rfl
@[simp] theorem Block.modOpal_ch (b : Block) (f) : (b.modOpal f).ch = b.ch := rfl
@[simp] theorem Block.modOpal_regs (b : Block) (f) : (b.modOpal f).regs = b.regs := rfl
@[simp] theorem Block.modOpal_out (b : Block) (f) : (b.modOpal f).out = b.out := rfl
@[simp] theorem Block.modOpal_fresh (b : Block) (f) : (b.modOpal f).fresh = b.fresh := rfl

@[simp] theorem Block.modOnyx_quartz (b : Block) (f) : (b.modOnyx f).quartz = b.quartz := rfl
@[simp] theorem Block.modOnyx_disc (b : Block) (f) : (b.modOnyx f).disc = b.disc := rfl
@[simp] theorem Block.modOnyx_tod (b : Block) (f) : (b.modOnyx f).tod = b.tod := rfl
@[simp] theorem Block.modOnyx_garnet (b : Block) (f) : (b.modOnyx f).garnet = b.garnet := rfl
@[simp] theorem Block.modOnyx_jade (b : Block) (f) : (b.modOnyx f).jade = b.jade := rfl
@[simp] theorem Block.modOnyx_spinel (b : Block) (f) : (b.modOnyx f).spinel = b.spinel := rfl
@[simp] theorem Block.modOnyx_opal (b : Block) (f) : (b.modOnyx f).opal = b.opal := rfl
@[simp] theorem Block.modOnyx_onyx (b : Block) (f) : (b.modOnyx f).onyx = f b.onyx := rfl
@[simp] theorem Block.modOnyx_agate (b : Block) (f) : (b.modOnyx f).agate = b.agate := rfl
@[simp] theorem Block.modOnyx_beryl (b : Block) (f) : (b.modOnyx f).beryl = b.beryl := rfl
@[simp] theorem Block.modOnyx_topaz (b : Block) (f) : (b.modOnyx f).topaz = b.topaz := rfl
@[simp] theorem Block.modOnyx_dram (b : Block) (f) : (b.modOnyx f).dram = b.dram := rfl
@[simp] theorem Block.modOnyx_ch (b : Block) (f) : (b.modOnyx f).ch = b.ch := rfl
@[simp] theorem Block.modOnyx_regs (b : Block) (f) : (b.modOnyx f).regs = b.regs := rfl
@[simp] theorem Block.modOnyx_out (b : Block) (f) : (b.modOnyx f).out = b.out := rfl
@[simp] theorem Block.modOnyx_fresh (b : Block) (f) : (b.modOnyx f).fresh = b.fresh := rfl

@[simp] theorem Block.modAgate_quartz (b : Block) (f) : (b.modAgate f).quartz = b.quartz := rfl
@[simp] theorem Block.modAgate_disc (b : Block) (f) : (b.modAgate f).disc = b.disc := rfl
@[simp] theorem Block.modAgate_tod (b : Block) (f) : (b.modAgate f).tod = b.tod := rfl
@[simp] theorem Block.modAgate_garnet (b : Block) (f) : (b.modAgate f).garnet = b.garnet := rfl
@[simp] theorem Block.modAgate_jade (b : Block) (f) : (b.modAgate f).jade = b.jade := rfl
@[simp] theorem Block.modAgate_spinel (b : Block) (f) : (b.modAgate f).spinel = b.spinel := rfl
@[simp] theorem Block.modAgate_opal (b : Block) (f) : (b.modAgate f).opal = b.opal := rfl
@[simp] theorem Block.modAgate_onyx (b : Block) (f) : (b.modAgate f).onyx = b.onyx := rfl
@[simp] theorem Block.modAgate_agate (b : Block) (f) : (b.modAgate f).agate = f b.agate := rfl
@[simp] theorem Block.modAgate_beryl (b : Block) (f) : (b.modAgate f).beryl = b.beryl := rfl
@[simp] theorem Block.modAgate_topaz (b : Block) (f) : (b.modAgate f).topaz = b.topaz := rfl
@[simp] theorem Block.modAgate_dram (b : Block) (f) : (b.modAgate f).dram = b.dram := rfl
@[simp] theorem Block.modAgate_ch (b : Block) (f) : (b.modAgate f).ch = b.ch := rfl
@[simp] theorem Block.modAgate_regs (b : Block) (f) : (b.modAgate f).regs = b.regs := rfl
@[simp] theorem Block.modAgate_out (b : Block) (f) : (b.modAgate f).out = b.out := rfl
@[simp] theorem Block.modAgate_fresh (b : Block) (f) : (b.modAgate f).fresh = b.fresh := rfl

@[simp] theorem Block.modTopaz_quartz (b : Block) (f) : (b.modTopaz f).quartz = b.quartz := rfl
@[simp] theorem Block.modTopaz_disc (b : Block) (f) : (b.modTopaz f).disc = b.disc := rfl
@[simp] theorem Block.modTopaz_tod (b : Block) (f) : (b.modTopaz f).tod = b.tod := rfl
@[simp] theorem Block.modTopaz_garnet (b : Block) (f) : (b.modTopaz f).garnet = b.garnet := rfl
@[simp] theorem Block.modTopaz_jade (b : Block) (f) : (b.modTopaz f).jade = b.jade := rfl
@[simp] theorem Block.modTopaz_spinel (b : Block) (f) : (b.modTopaz f).spinel = b.spinel := rfl
@[simp] theorem Block.modTopaz_opal (b : Block) (f) : (b.modTopaz f).opal = b.opal := rfl
@[simp] theorem Block.modTopaz_onyx (b : Block) (f) : (b.modTopaz f).onyx = b.onyx := rfl
@[simp] theorem Block.modTopaz_agate (b : Block) (f) : (b.modTopaz f).agate = b.agate := rfl
@[simp] theorem Block.modTopaz_beryl (b : Block) (f) : (b.modTopaz f).beryl = b.beryl := rfl
@[simp] theorem Block.modTopaz_topaz (b : Block) (f) : (b.modTopaz f).topaz = f b.topaz := rfl
@[simp] theorem Block.modTopaz_dram (b : Block) (f) : (b.modTopaz f).dram = b.dram := rfl
@[simp] theorem Block.modTopaz_ch (b : Block) (f) : (b.modTopaz f).ch = b.ch := rfl
@[simp] theorem Block.modTopaz_regs (b : Block) (f) : (b.modTopaz f).regs = b.regs := rfl
@[simp] theorem Block.modTopaz_out (b : Block) (f) : (b.modTopaz f).out = b.out := rfl
@[simp] theorem Block.modTopaz_fresh (b : Block) (f) : (b.modTopaz f).fresh = b.fresh := rfl

@[simp] theorem Block.modCh_quartz (b : Block) (f) : (b.modCh f).quartz = b.quartz := rfl
@[simp] theorem Block.modCh_disc (b : Block) (f) : (b.modCh f).disc = b.disc := rfl
@[simp] theorem Block.modCh_tod (b : Block) (f) : (b.modCh f).tod = b.tod := rfl
@[simp] theorem Block.modCh_garnet (b : Block) (f) : (b.modCh f).garnet = b.garnet := rfl
@[simp] theorem Block.modCh_jade (b : Block) (f) : (b.modCh f).jade = b.jade := rfl
@[simp] theorem Block.modCh_spinel (b : Block) (f) : (b.modCh f).spinel = b.spinel := rfl
@[simp] theorem Block.modCh_opal (b : Block) (f) : (b.modCh f).opal = b.opal := rfl
@[simp] theorem Block.modCh_onyx (b : Block) (f) : (b.modCh f).onyx = b.onyx := rfl
@[simp] theorem Block.modCh_agate (b : Block) (f) : (b.modCh f).agate = b.agate := rfl
@[simp] theorem Block.modCh_beryl (b : Block) (f) : (b.modCh f).beryl = b.beryl := rfl
@[simp] theorem Block.modCh_topaz (b : Block) (f) : (b.modCh f).topaz = b.topaz := rfl
@[simp] theorem Block.modCh_dram (b : Block) (f) : (b.modCh f).dram = b.dram := rfl
@[simp] theorem Block.modCh_ch (b : Block) (f) : (b.modCh f).ch = f b.ch := rfl
@[simp] theorem Block.modCh_regs (b : Block) (f) : (b.modCh f).regs = b.regs := rfl
@[simp] theorem Block.modCh_out (b : Block) (f) : (b.modCh f).out = b.out := rfl
@[simp] theorem Block.modCh_fresh (b : Block) (f) : (b.modCh f).fresh = b.fresh := rfl

@[simp] theorem Block.modOut_quartz (b : Block) (f) : (b.modOut f).quartz = b.quartz := rfl
@[simp] theorem Block.modOut_disc (b : Block) (f) : (b.modOut f).disc = b.disc := rfl
@[simp] theorem Block.modOut_tod (b : Block) (f) : (b.modOut f).tod = b.tod := rfl
@[simp] theorem Block.modOut_garnet (b : Block) (f) : (b.modOut f).garnet = b.garnet := rfl
@[simp] theorem Block.modOut_jade (b : Block) (f) : (b.modOut f).jade = b.jade := rfl
@[simp] theorem Block.modOut_spinel (b : Block) (f) : (b.modOut f).spinel = b.spinel := rfl
@[simp] theorem Block.modOut_opal (b : Block) (f) : (b.modOut f).opal = b.opal := rfl
@[simp] theorem Block.modOut_onyx (b : Block) (f) : (b.modOut f).onyx = b.onyx := rfl
@[simp] theorem Block.modOut_agate (b : Block) (f) : (b.modOut f).agate = b.agate := rfl
@[simp] theorem Block.modOut_beryl (b : Block) (f) : (b.modOut f).beryl = b.beryl := rfl
@[simp] theorem Block.modOut_topaz (b : Block) (f) : (b.modOut f).topaz = b.topaz := rfl
@[simp] theorem Block.modOut_dram (b : Block) (f) : (b.modOut f).dram = b.dram := rfl
@[simp] theorem Block.modOut_ch (b : Block) (f) : (b.modOut f).ch = b.ch := rfl
@[simp] theorem Block.modOut_regs (b : Block) (f) : (b.modOut f).regs = b.regs := rfl
@[simp] theorem Block.modOut_out (b : Block) (f) : (b.modOut f).out = f b.out := rfl
@[simp] theorem Block.modOut_fresh (b : Block) (f) : (b.modOut f).fresh = b.fresh := rfl

@[simp] theorem Block.modBeryl_quartz (b : Block) (f) : (b.modBeryl f).quartz = b.quartz := rfl
@[simp] theorem Block.modBeryl_disc (b : Block) (f) : (b.modBeryl f).disc = b.disc := rfl
@[simp] theorem Block.modBeryl_tod (b : Block) (f) : (b.modBeryl f).tod = b.tod := rfl
@[simp] theorem Block.modBeryl_garnet (b : Block) (f) : (b.modBeryl f).garnet = b.garnet := rfl
@[simp] theorem Block.modBeryl_jade (b : Block) (f) : (b.modBeryl f).jade = b.jade := rfl
@[simp] theorem Block.modBeryl_spinel (b : Block) (f) : (b.modBeryl f).spinel = b.spinel := rfl
@[simp] theorem Block.modBeryl_opal (b : Block) (f) : (b.modBeryl f).opal = b.opal := rfl
@[simp] theorem Block.modBeryl_onyx (b : Block) (f) : (b.modBeryl f).onyx = b.onyx := rfl
@[simp] theorem Block.modBeryl_agate (b : Block) (f) : (b.modBeryl f).agate = b.agate := rfl
@[simp] theorem Block.modBeryl_beryl (b : Block) (f) : (b.modBeryl f).beryl = f b.beryl := rfl
@[simp] theorem Block.modBeryl_topaz (b : Block) (f) : (b.modBeryl f).topaz = b.topaz := rfl
@[simp] theorem Block.modBeryl_dram (b : Block) (f) : (b.modBeryl f).dram = b.dram := rfl
@[simp] theorem Block.modBeryl_ch (b : Block) (f) : (b.modBeryl f).ch = b.ch := rfl
@[simp] theorem Block.modBeryl_regs (b : Block) (f) : (b.modBeryl f).regs = b.regs := rfl
@[simp] theorem Block.modBeryl_out (b : Block) (f) : (b.modBeryl f).out = b.out := rfl
@[simp] theorem Block.modBeryl_fresh (b : Block) (f) : (b.modBeryl f).fresh = b.fresh := rfl

@[simp] theorem Block.setReg_quartz (b : Block) (off v : Nat) : (b.setReg off v).quartz = b.quartz := rfl
@[simp] theorem Block.setReg_disc (b : Block) (off v : Nat) : (b.setReg off v).disc = b.disc := rfl
@[simp] theorem Block.setReg_tod (b : Block) (off v : Nat) : (b.setReg off v).tod = b.tod := rfl
@[simp] theorem Block.setReg_garnet (b : Block) (off v : Nat) : (b.setReg off v).garnet = b.garnet := rfl
@[simp] theorem Block.setReg_jade (b : Block) (off v : Nat) : (b.setReg off v).jade = b.jade := rfl
@[simp] theorem Block.setReg_spinel (b : Block) (off v : Nat) : (b.setReg off v).spinel = b.spinel := rfl
@[simp] theorem Block.setReg_opal (b : Block) (off v : Nat) : (b.setReg off v).opal = b.opal := rfl
@[simp] theorem Block.setReg_onyx (b : Block) (off v : Nat) : (b.setReg off v).onyx = b.onyx := rfl
@[simp] theorem Block.setReg_agate (b : Block) (off v : Nat) : (b.setReg off v).agate = b.agate := rfl
@[simp] theorem Block.setReg_beryl (b : Block) (off v : Nat) : (b.setReg off v).beryl = b.beryl := rfl
@[simp] theorem Block.setReg_topaz (b : Block) (off v : Nat) : (b.setReg off v).topaz = b.topaz := rfl
@[simp] theorem Block.setReg_dram (b : Block) (off v : Nat) : (b.setReg off v).dram = b.dram := rfl
@[simp] theorem Block.setReg_ch (b : Block) (off v : Nat) : (b.setReg off v).ch = b.ch := rfl
@[simp] theorem Block.setReg_regs (b : Block) (off v : Nat) : (b.setReg off v).regs = mapSet (regReset off) b.regs off (BitVec.ofNat 32 v) := rfl
@[simp] theorem Block.setReg_out (b : Block) (off v : Nat) : (b.setReg off v).out = b.out := rfl
@[simp] theorem Block.setReg_fresh (b : Block) (off v : Nat) : (b.setReg off v).fresh = b.fresh := rfl

@[simp] theorem Block.resetRegs_quartz (b : Block) (lo hi : Nat) : (b.resetRegs lo hi).quartz = b.quartz := rfl
@[simp] theorem Block.resetRegs_disc (b : Block) (lo hi : Nat) : (b.resetRegs lo hi).disc = b.disc := rfl
@[simp] theorem Block.resetRegs_tod (b : Block) (lo hi : Nat) : (b.resetRegs lo hi).tod = b.tod := rfl
@[simp] theorem Block.resetRegs_garnet (b : Block) (lo hi : Nat) : (b.resetRegs lo hi).garnet = b.garnet := rfl
@[simp] theorem Block.resetRegs_jade (b : Block) (lo hi : Nat) : (b.resetRegs lo hi).jade = b.jade := rfl
@[simp] theorem Block.resetRegs_spinel (b : Block) (lo hi : Nat) : (b.resetRegs lo hi).spinel = b.spinel := rfl
@[simp] theorem Block.resetRegs_opal (b : Block) (lo hi : Nat) : (b.resetRegs lo hi).opal = b.opal := rfl
@[simp] theorem Block.resetRegs_onyx (b : Block) (lo hi : Nat) : (b.resetRegs lo hi).onyx = b.onyx := rfl
@[simp] theorem Block.resetRegs_agate (b : Block) (lo hi : Nat) : (b.resetRegs lo hi).agate = b.agate := rfl
@[simp] theorem Block.resetRegs_beryl (b : Block) (lo hi : Nat) : (b.resetRegs lo hi).beryl = b.beryl := rfl
@[simp] theorem Block.resetRegs_topaz (b : Block) (lo hi : Nat) : (b.resetRegs lo hi).topaz = b.topaz := rfl
@[simp] theorem Block.resetRegs_dram (b : Block) (lo hi : Nat) : (b.resetRegs lo hi).dram = b.dram := rfl
@[simp] theorem Block.resetRegs_ch (b : Block) (lo hi : Nat) : (b.resetRegs lo hi).ch = b.ch := rfl
@[simp] theorem Block.resetRegs_regs (b : Block) (lo hi : Nat) : (b.resetRegs lo hi).regs = b.regs.filter (fun e => e.1 < lo || hi ≤ e.1) := rfl
@[simp] theorem Block.resetRegs_out (b : Block) (lo hi : Nat) : (b.resetRegs lo hi).out = b.out := rfl
@[simp] theorem Block.resetRegs_fresh (b : Block) (lo hi : Nat) : (b.resetRegs lo hi).fresh = b.fresh := rfl

@[simp] theorem Block.dramWrite_quartz (b : Block) (a : Nat) (vs : List Byte) : (b.dramWrite a vs).quartz = b.quartz := rfl
@[simp] theorem Block.dramWrite_disc (b : Block) (a : Nat) (vs : List Byte) : (b.dramWrite a vs).disc = b.disc := rfl
@[simp] theorem Block.dramWrite_tod (b : Block) (a : Nat) (vs : List Byte) : (b.dramWrite a vs).tod = b.tod := rfl
@[simp] theorem Block.dramWrite_garnet (b : Block) (a : Nat) (vs : List Byte) : (b.dramWrite a vs).garnet = b.garnet := rfl
@[simp] theorem Block.dramWrite_jade (b : Block) (a : Nat) (vs : List Byte) : (b.dramWrite a vs).jade = b.jade := rfl
@[simp] theorem Block.dramWrite_spinel (b : Block) (a : Nat) (vs : List Byte) : (b.dramWrite a vs).spinel = b.spinel := rfl
@[simp] theorem Block.dramWrite_opal (b : Block) (a : Nat) (vs : List Byte) : (b.dramWrite a vs).opal = b.opal := rfl
@[simp] theorem Block.dramWrite_onyx (b : Block) (a : Nat) (vs : List Byte) : (b.dramWrite a vs).onyx = b.onyx := rfl
@[simp] theorem Block.dramWrite_agate (b : Block) (a : Nat) (vs : List Byte) : (b.dramWrite a vs).agate = b.agate := rfl
@[simp] theorem Block.dramWrite_beryl (b : Block) (a : Nat) (vs : List Byte) : (b.dramWrite a vs).beryl = b.beryl := rfl
@[simp] theorem Block.dramWrite_topaz (b : Block) (a : Nat) (vs : List Byte) : (b.dramWrite a vs).topaz = b.topaz := rfl
@[simp] theorem Block.dramWrite_dram (b : Block) (a : Nat) (vs : List Byte) : (b.dramWrite a vs).dram = memWrite b.dram a vs := rfl
@[simp] theorem Block.dramWrite_ch (b : Block) (a : Nat) (vs : List Byte) : (b.dramWrite a vs).ch = b.ch := rfl
@[simp] theorem Block.dramWrite_regs (b : Block) (a : Nat) (vs : List Byte) : (b.dramWrite a vs).regs = b.regs := rfl
@[simp] theorem Block.dramWrite_out (b : Block) (a : Nat) (vs : List Byte) : (b.dramWrite a vs).out = b.out := rfl
@[simp] theorem Block.dramWrite_fresh (b : Block) (a : Nat) (vs : List Byte) : (b.dramWrite a vs).fresh = b.fresh := rfl

@[simp] theorem Block.hostWrite_quartz (b : Block) (a : Nat) (vs : List Byte) : (b.hostWrite a vs).quartz = b.quartz := rfl
@[simp] theorem Block.hostWrite_disc (b : Block) (a : Nat) (vs : List Byte) : (b.hostWrite a vs).disc = b.disc := rfl
@[simp] theorem Block.hostWrite_tod (b : Block) (a : Nat) (vs : List Byte) : (b.hostWrite a vs).tod = b.tod := rfl
@[simp] theorem Block.hostWrite_garnet (b : Block) (a : Nat) (vs : List Byte) : (b.hostWrite a vs).garnet = b.garnet := rfl
@[simp] theorem Block.hostWrite_jade (b : Block) (a : Nat) (vs : List Byte) : (b.hostWrite a vs).jade = b.jade := rfl
@[simp] theorem Block.hostWrite_spinel (b : Block) (a : Nat) (vs : List Byte) : (b.hostWrite a vs).spinel = b.spinel := rfl
@[simp] theorem Block.hostWrite_opal (b : Block) (a : Nat) (vs : List Byte) : (b.hostWrite a vs).opal = b.opal := rfl
@[simp] theorem Block.hostWrite_onyx (b : Block) (a : Nat) (vs : List Byte) : (b.hostWrite a vs).onyx = b.onyx := rfl
@[simp] theorem Block.hostWrite_agate (b : Block) (a : Nat) (vs : List Byte) : (b.hostWrite a vs).agate = b.agate := rfl
@[simp] theorem Block.hostWrite_beryl (b : Block) (a : Nat) (vs : List Byte) : (b.hostWrite a vs).beryl = b.beryl := rfl
@[simp] theorem Block.hostWrite_topaz (b : Block) (a : Nat) (vs : List Byte) : (b.hostWrite a vs).topaz = b.topaz := rfl
@[simp] theorem Block.hostWrite_dram (b : Block) (a : Nat) (vs : List Byte) : (b.hostWrite a vs).dram = b.dram := rfl
@[simp] theorem Block.hostWrite_ch (b : Block) (a : Nat) (vs : List Byte) : (b.hostWrite a vs).ch = b.ch := rfl
@[simp] theorem Block.hostWrite_regs (b : Block) (a : Nat) (vs : List Byte) : (b.hostWrite a vs).regs = b.regs := rfl
@[simp] theorem Block.hostWrite_out (b : Block) (a : Nat) (vs : List Byte) : (b.hostWrite a vs).out = { b.out with host := (a, vs) :: b.out.host } := rfl
@[simp] theorem Block.hostWrite_fresh (b : Block) (a : Nat) (vs : List Byte) : (b.hostWrite a vs).fresh = b.fresh := rfl

@[simp] theorem Block.advance_tb (b : Block) (t : Nat) :
    (b.advance t).quartz = if b.quartz.running then { b.quartz with tb := max b.quartz.tb t } else b.quartz := by
  unfold Block.advance; split <;> rfl

@[simp] theorem Block.advance_disc (b : Block) (t : Nat) : (b.advance t).disc = b.disc := by
  unfold Block.advance; split <;> rfl
@[simp] theorem Block.advance_tod (b : Block) (t : Nat) : (b.advance t).tod = b.tod := by
  unfold Block.advance; split <;> rfl
@[simp] theorem Block.advance_garnet (b : Block) (t : Nat) : (b.advance t).garnet = b.garnet := by
  unfold Block.advance; split <;> rfl
@[simp] theorem Block.advance_jade (b : Block) (t : Nat) : (b.advance t).jade = b.jade := by
  unfold Block.advance; split <;> rfl
@[simp] theorem Block.advance_spinel (b : Block) (t : Nat) : (b.advance t).spinel = b.spinel := by
  unfold Block.advance; split <;> rfl
@[simp] theorem Block.advance_opal (b : Block) (t : Nat) : (b.advance t).opal = b.opal := by
  unfold Block.advance; split <;> rfl
@[simp] theorem Block.advance_onyx (b : Block) (t : Nat) : (b.advance t).onyx = b.onyx := by
  unfold Block.advance; split <;> rfl
@[simp] theorem Block.advance_agate (b : Block) (t : Nat) : (b.advance t).agate = b.agate := by
  unfold Block.advance; split <;> rfl
@[simp] theorem Block.advance_beryl (b : Block) (t : Nat) : (b.advance t).beryl = b.beryl := by
  unfold Block.advance; split <;> rfl
@[simp] theorem Block.advance_topaz (b : Block) (t : Nat) : (b.advance t).topaz = b.topaz := by
  unfold Block.advance; split <;> rfl
@[simp] theorem Block.advance_dram (b : Block) (t : Nat) : (b.advance t).dram = b.dram := by
  unfold Block.advance; split <;> rfl
@[simp] theorem Block.advance_ch (b : Block) (t : Nat) : (b.advance t).ch = b.ch := by
  unfold Block.advance; split <;> rfl
@[simp] theorem Block.advance_regs (b : Block) (t : Nat) : (b.advance t).regs = b.regs := by
  unfold Block.advance; split <;> rfl
@[simp] theorem Block.advance_out (b : Block) (t : Nat) : (b.advance t).out = b.out := by
  unfold Block.advance; split <;> rfl
@[simp] theorem Block.advance_fresh (b : Block) (t : Nat) : (b.advance t).fresh = b.fresh := by
  unfold Block.advance; split <;> rfl

end Sys2Proof.Machine
end

