-- ==== Sys2Proof/Laws/Onyx.lean ====
section
/-! SUPPORT. Onyx at rest: with no Segment, no Take, no flush and no work on a port, nothing it can do now changes the
block. -/

namespace Sys2Proof.Machine

theorem vget_or_default {α : Type} {n : Nat} (v : Vector α n) (i : Nat) (d : α) (p : α → Prop) (h : ∀ x ∈ v.toList, p x)
    (hd : p d) : p (vget v i d) := by
  unfold vget
  by_cases k : i < n
  · have e : v.getD i d = v[i] := by simp [Vector.getD, k]
    rw [e]
    exact h _ (by simp)
  · have e : v.getD i d = d := by simp [Vector.getD, k]
    rw [e]
    exact hd

theorem vset_vget {α : Type} {n : Nat} (v : Vector α n) (i : Nat) (d : α) : vset v i (vget v i d) = v := by
  unfold vset vget
  ext j hj
  simp only [Vector.getElem_setIfInBounds]
  split
  · next e => subst e; simp [Vector.getD, hj]
  · rfl

/-- A port with no work. -/
theorem port_idle {b : Block} (h : b.portsIdle = true) (m : Nat) :
    (b.port m).steps = [] ∧ (b.port m).clips = [] ∧ (b.port m).slow = false ∧ (b.port m).rehomed = 0 := by
  refine vget_or_default b.onyx.ports m emptyPort
    (fun p => p.steps = [] ∧ p.clips = [] ∧ p.slow = false ∧ p.rehomed = 0) (fun x hx => ?_) ⟨rfl, rfl, rfl, rfl⟩
  simp only [Block.portsIdle, List.all_eq_true] at h
  have k := h x hx
  simp only [Bool.and_eq_true] at k
  simp only [Bool.not_eq_true', beq_iff_eq, List.isEmpty_iff] at k
  exact ⟨k.1.1.1, k.1.1.2, k.1.2, k.2⟩

theorem portMod_same (m : Nat) (f : Port → Port) (b : Block) (h : f (b.port m) = b.port m) : portMod m f b = b := by
  unfold portMod Block.modOnyx
  dsimp only
  rw [h, Block.port, vset_vget]

theorem serveOnyx_at_rest {b : Block} (h : b.onyxAtRest = true) : serveOnyx b = b := by
  simp only [Block.onyxAtRest, Bool.and_eq_true, List.isEmpty_iff, Option.isNone_iff_eq_none] at h
  obtain ⟨⟨⟨⟨⟨hs, ht⟩, hf⟩, hi⟩, hr⟩, hd⟩ := h
  have hp := port_idle hi
  have hq (m : Nat) : queueOf b m = [] := by simp [queueOf, hs]
  have h1 : takeDecided b = b := by simp [takeDecided, hd]
  have h2 : settleSegs b = b := by simp [settleSegs, hs, settleOnce]
  have hn (m : Nat) : nextWork m b = b := by
    unfold nextWork
    simp [commitRun, hq, (hp m).2.1, hf]
  have h3 (m : Nat) : pumpPort m ((b.port m).steps.length + 24) b = b := by
    rw [(hp m).1]
    show pumpPort m (23 + 1) b = b
    unfold pumpPort
    simp only [(hp m).1, (hp m).2.1, hn]
    split <;> simp
  have h4 (m k : Nat) : issueShares m k b = b := by
    cases k with
    | zero => rfl
    | succ k => unfold issueShares; simp [hq, nextWrite]
  have h5 (m : Nat) : checkSlow m b = b := by
    simp only [checkSlow, backlog, hq, List.map_nil, List.sum_nil, Nat.not_lt_zero, decide_false, Bool.false_and,
      Bool.false_eq_true, if_false]
    exact portMod_same m _ b (by rw [← (hp m).2.2.1])
  have h6 (m : Nat) : postRehomed m b = b := by simp [postRehomed, (hp m).2.2.2]
  have h7 : closeTakes b = b := by simp [closeTakes, ht]
  have h8 : tryReport false b = b := by simp [tryReport, hf]
  have h9 : postRolled b = b := by simp [postRolled, hr]
  unfold serveOnyx
  simp only [h1, h2]
  split
  · rfl
  · simp only [List.foldl_cons, List.foldl_nil, h3, h4, h5, h6, h7, h8, h9]

end Sys2Proof.Machine
end

