-- ==== Sys2Proof/Laws/Posts.lean ====
section
/-! SUPPORT. What posting an event, finishing a descriptor and logging a trace entry leave as they were, field by field. -/

namespace Sys2Proof.Machine

theorem kept_ch {a b : Block} {ps : List Piece} (h : onlyChanges ps a b) (hp : .ch ∉ ps) :
    { b.ch with evr := a.ch.evr } = a.ch := h.at_ .ch hp

theorem kept_opal {a b : Block} {ps : List Piece} (h : onlyChanges ps a b) (hp : .opal ∉ ps) :
    b.opal.withPosts a.opal = a.opal := h.at_ .opal hp

/-! ### Block.logEvr -/

theorem Block.logEvr_kept (b : Block) (src : Island) (type : Nat) (p : List Byte) (k : List (List Byte)) (st : Option Nat) : onlyChanges [.evr, .trace] b (b.logEvr src type p k st) := Block.logEvr_frame (by decide) (onlyChanges_refl _ _)
@[simp] theorem Block.logEvr_quartz (b : Block) (src : Island) (type : Nat) (p : List Byte) (k : List (List Byte)) (st : Option Nat) : (b.logEvr src type p k st).quartz = b.quartz := (Block.logEvr_kept b src type p k st).at_ .quartz (by decide)
@[simp] theorem Block.logEvr_disc (b : Block) (src : Island) (type : Nat) (p : List Byte) (k : List (List Byte)) (st : Option Nat) : (b.logEvr src type p k st).disc = b.disc := (Block.logEvr_kept b src type p k st).at_ .disc (by decide)
@[simp] theorem Block.logEvr_tod (b : Block) (src : Island) (type : Nat) (p : List Byte) (k : List (List Byte)) (st : Option Nat) : (b.logEvr src type p k st).tod = b.tod := (Block.logEvr_kept b src type p k st).at_ .tod (by decide)
@[simp] theorem Block.logEvr_garnet (b : Block) (src : Island) (type : Nat) (p : List Byte) (k : List (List Byte)) (st : Option Nat) : (b.logEvr src type p k st).garnet = b.garnet := (Block.logEvr_kept b src type p k st).at_ .garnet (by decide)
@[simp] theorem Block.logEvr_jade (b : Block) (src : Island) (type : Nat) (p : List Byte) (k : List (List Byte)) (st : Option Nat) : (b.logEvr src type p k st).jade = b.jade := (Block.logEvr_kept b src type p k st).at_ .jade (by decide)
@[simp] theorem Block.logEvr_spinel (b : Block) (src : Island) (type : Nat) (p : List Byte) (k : List (List Byte)) (st : Option Nat) : (b.logEvr src type p k st).spinel = b.spinel := (Block.logEvr_kept b src type p k st).at_ .spinel (by decide)
@[simp] theorem Block.logEvr_onyx (b : Block) (src : Island) (type : Nat) (p : List Byte) (k : List (List Byte)) (st : Option Nat) : (b.logEvr src type p k st).onyx = b.onyx := (Block.logEvr_kept b src type p k st).at_ .onyx (by decide)
@[simp] theorem Block.logEvr_agate (b : Block) (src : Island) (type : Nat) (p : List Byte) (k : List (List Byte)) (st : Option Nat) : (b.logEvr src type p k st).agate = b.agate := (Block.logEvr_kept b src type p k st).at_ .agate (by decide)
@[simp] theorem Block.logEvr_topaz (b : Block) (src : Island) (type : Nat) (p : List Byte) (k : List (List Byte)) (st : Option Nat) : (b.logEvr src type p k st).topaz = b.topaz := (Block.logEvr_kept b src type p k st).at_ .topaz (by decide)
@[simp] theorem Block.logEvr_dram (b : Block) (src : Island) (type : Nat) (p : List Byte) (k : List (List Byte)) (st : Option Nat) : (b.logEvr src type p k st).dram = b.dram := (Block.logEvr_kept b src type p k st).at_ .dram (by decide)
@[simp] theorem Block.logEvr_regs (b : Block) (src : Island) (type : Nat) (p : List Byte) (k : List (List Byte)) (st : Option Nat) : (b.logEvr src type p k st).regs = b.regs := (Block.logEvr_kept b src type p k st).at_ .regs (by decide)
@[simp] theorem Block.logEvr_out (b : Block) (src : Island) (type : Nat) (p : List Byte) (k : List (List Byte)) (st : Option Nat) : (b.logEvr src type p k st).out = b.out := (Block.logEvr_kept b src type p k st).at_ .out (by decide)
@[simp] theorem Block.logEvr_fresh (b : Block) (src : Island) (type : Nat) (p : List Byte) (k : List (List Byte)) (st : Option Nat) : (b.logEvr src type p k st).fresh = b.fresh := (Block.logEvr_kept b src type p k st).at_ .fresh (by decide)
@[simp] theorem Block.logEvr_quartzGarnet (b : Block) (src : Island) (type : Nat) (p : List Byte) (k : List (List Byte)) (st : Option Nat) : (b.logEvr src type p k st).ch.quartzGarnet = b.ch.quartzGarnet := (congrArg Channels.quartzGarnet (kept_ch (Block.logEvr_kept b src type p k st) (by decide)) :)
@[simp] theorem Block.logEvr_quartzAgate (b : Block) (src : Island) (type : Nat) (p : List Byte) (k : List (List Byte)) (st : Option Nat) : (b.logEvr src type p k st).ch.quartzAgate = b.ch.quartzAgate := (congrArg Channels.quartzAgate (kept_ch (Block.logEvr_kept b src type p k st) (by decide)) :)
@[simp] theorem Block.logEvr_quartzOpal (b : Block) (src : Island) (type : Nat) (p : List Byte) (k : List (List Byte)) (st : Option Nat) : (b.logEvr src type p k st).ch.quartzOpal = b.ch.quartzOpal := (congrArg Channels.quartzOpal (kept_ch (Block.logEvr_kept b src type p k st) (by decide)) :)
@[simp] theorem Block.logEvr_agateGarnet (b : Block) (src : Island) (type : Nat) (p : List Byte) (k : List (List Byte)) (st : Option Nat) : (b.logEvr src type p k st).ch.agateGarnet = b.ch.agateGarnet := (congrArg Channels.agateGarnet (kept_ch (Block.logEvr_kept b src type p k st) (by decide)) :)
@[simp] theorem Block.logEvr_garnetJade (b : Block) (src : Island) (type : Nat) (p : List Byte) (k : List (List Byte)) (st : Option Nat) : (b.logEvr src type p k st).ch.garnetJade = b.ch.garnetJade := (congrArg Channels.garnetJade (kept_ch (Block.logEvr_kept b src type p k st) (by decide)) :)
@[simp] theorem Block.logEvr_drnAck (b : Block) (src : Island) (type : Nat) (p : List Byte) (k : List (List Byte)) (st : Option Nat) : (b.logEvr src type p k st).ch.drnAck = b.ch.drnAck := (congrArg Channels.drnAck (kept_ch (Block.logEvr_kept b src type p k st) (by decide)) :)
@[simp] theorem Block.logEvr_jadeSpinel (b : Block) (src : Island) (type : Nat) (p : List Byte) (k : List (List Byte)) (st : Option Nat) : (b.logEvr src type p k st).ch.jadeSpinel = b.ch.jadeSpinel := (congrArg Channels.jadeSpinel (kept_ch (Block.logEvr_kept b src type p k st) (by decide)) :)
@[simp] theorem Block.logEvr_spinelOpal (b : Block) (src : Island) (type : Nat) (p : List Byte) (k : List (List Byte)) (st : Option Nat) : (b.logEvr src type p k st).ch.spinelOpal = b.ch.spinelOpal := (congrArg Channels.spinelOpal (kept_ch (Block.logEvr_kept b src type p k st) (by decide)) :)
@[simp] theorem Block.logEvr_spinelOnyx (b : Block) (src : Island) (type : Nat) (p : List Byte) (k : List (List Byte)) (st : Option Nat) : (b.logEvr src type p k st).ch.spinelOnyx = b.ch.spinelOnyx := (congrArg Channels.spinelOnyx (kept_ch (Block.logEvr_kept b src type p k st) (by decide)) :)
@[simp] theorem Block.logEvr_onyxOpal (b : Block) (src : Island) (type : Nat) (p : List Byte) (k : List (List Byte)) (st : Option Nat) : (b.logEvr src type p k st).ch.onyxOpal = b.ch.onyxOpal := (congrArg Channels.onyxOpal (kept_ch (Block.logEvr_kept b src type p k st) (by decide)) :)
@[simp] theorem Block.logEvr_stopRequests (b : Block) (src : Island) (type : Nat) (p : List Byte) (k : List (List Byte)) (st : Option Nat) : (b.logEvr src type p k st).ch.stopRequests = b.ch.stopRequests := (congrArg Channels.stopRequests (kept_ch (Block.logEvr_kept b src type p k st) (by decide)) :)
@[simp] theorem Block.logEvr_berylGarnet (b : Block) (src : Island) (type : Nat) (p : List Byte) (k : List (List Byte)) (st : Option Nat) : (b.logEvr src type p k st).ch.berylGarnet = b.ch.berylGarnet := (congrArg Channels.berylGarnet (kept_ch (Block.logEvr_kept b src type p k st) (by decide)) :)
@[simp] theorem Block.logEvr_noticeOpal (b : Block) (src : Island) (type : Nat) (p : List Byte) (k : List (List Byte)) (st : Option Nat) : (b.logEvr src type p k st).ch.noticeOpal = b.ch.noticeOpal := (congrArg Channels.noticeOpal (kept_ch (Block.logEvr_kept b src type p k st) (by decide)) :)
@[simp] theorem Block.logEvr_noticeSpinel (b : Block) (src : Island) (type : Nat) (p : List Byte) (k : List (List Byte)) (st : Option Nat) : (b.logEvr src type p k st).ch.noticeSpinel = b.ch.noticeSpinel := (congrArg Channels.noticeSpinel (kept_ch (Block.logEvr_kept b src type p k st) (by decide)) :)
@[simp] theorem Block.logEvr_noticeOnyx (b : Block) (src : Island) (type : Nat) (p : List Byte) (k : List (List Byte)) (st : Option Nat) : (b.logEvr src type p k st).ch.noticeOnyx = b.ch.noticeOnyx := (congrArg Channels.noticeOnyx (kept_ch (Block.logEvr_kept b src type p k st) (by decide)) :)
@[simp] theorem Block.logEvr_garnetOpal (b : Block) (src : Island) (type : Nat) (p : List Byte) (k : List (List Byte)) (st : Option Nat) : (b.logEvr src type p k st).ch.garnetOpal = b.ch.garnetOpal := (congrArg Channels.garnetOpal (kept_ch (Block.logEvr_kept b src type p k st) (by decide)) :)
@[simp] theorem Block.logEvr_onyxJade (b : Block) (src : Island) (type : Nat) (p : List Byte) (k : List (List Byte)) (st : Option Nat) : (b.logEvr src type p k st).ch.onyxJade = b.ch.onyxJade := (congrArg Channels.onyxJade (kept_ch (Block.logEvr_kept b src type p k st) (by decide)) :)
@[simp] theorem Block.logEvr_spinelJade (b : Block) (src : Island) (type : Nat) (p : List Byte) (k : List (List Byte)) (st : Option Nat) : (b.logEvr src type p k st).ch.spinelJade = b.ch.spinelJade := (congrArg Channels.spinelJade (kept_ch (Block.logEvr_kept b src type p k st) (by decide)) :)
@[simp] theorem Block.logEvr_opalJade (b : Block) (src : Island) (type : Nat) (p : List Byte) (k : List (List Byte)) (st : Option Nat) : (b.logEvr src type p k st).ch.opalJade = b.ch.opalJade := (congrArg Channels.opalJade (kept_ch (Block.logEvr_kept b src type p k st) (by decide)) :)
@[simp] theorem Block.logEvr_onyxSpinel (b : Block) (src : Island) (type : Nat) (p : List Byte) (k : List (List Byte)) (st : Option Nat) : (b.logEvr src type p k st).ch.onyxSpinel = b.ch.onyxSpinel := (congrArg Channels.onyxSpinel (kept_ch (Block.logEvr_kept b src type p k st) (by decide)) :)
@[simp] theorem Block.logEvr_garnetBeryl (b : Block) (src : Island) (type : Nat) (p : List Byte) (k : List (List Byte)) (st : Option Nat) : (b.logEvr src type p k st).ch.garnetBeryl = b.ch.garnetBeryl := (congrArg Channels.garnetBeryl (kept_ch (Block.logEvr_kept b src type p k st) (by decide)) :)
@[simp] theorem Block.logEvr_berylJade (b : Block) (src : Island) (type : Nat) (p : List Byte) (k : List (List Byte)) (st : Option Nat) : (b.logEvr src type p k st).ch.berylJade = b.ch.berylJade := (congrArg Channels.berylJade (kept_ch (Block.logEvr_kept b src type p k st) (by decide)) :)
@[simp] theorem Block.logEvr_berylOpal (b : Block) (src : Island) (type : Nat) (p : List Byte) (k : List (List Byte)) (st : Option Nat) : (b.logEvr src type p k st).ch.berylOpal = b.ch.berylOpal := (congrArg Channels.berylOpal (kept_ch (Block.logEvr_kept b src type p k st) (by decide)) :)
@[simp] theorem Block.logEvr_keepPowered (b : Block) (src : Island) (type : Nat) (p : List Byte) (k : List (List Byte)) (st : Option Nat) : (b.logEvr src type p k st).ch.keepPowered = b.ch.keepPowered := (congrArg Channels.keepPowered (kept_ch (Block.logEvr_kept b src type p k st) (by decide)) :)
@[simp] theorem Block.logEvr_onyxReport (b : Block) (src : Island) (type : Nat) (p : List Byte) (k : List (List Byte)) (st : Option Nat) : (b.logEvr src type p k st).ch.onyxReport = b.ch.onyxReport := (congrArg Channels.onyxReport (kept_ch (Block.logEvr_kept b src type p k st) (by decide)) :)
@[simp] theorem Block.logEvr_opalReport (b : Block) (src : Island) (type : Nat) (p : List Byte) (k : List (List Byte)) (st : Option Nat) : (b.logEvr src type p k st).ch.opalReport = b.ch.opalReport := (congrArg Channels.opalReport (kept_ch (Block.logEvr_kept b src type p k st) (by decide)) :)
@[simp] theorem Block.logEvr_topazGarnet (b : Block) (src : Island) (type : Nat) (p : List Byte) (k : List (List Byte)) (st : Option Nat) : (b.logEvr src type p k st).ch.topazGarnet = b.ch.topazGarnet := (congrArg Channels.topazGarnet (kept_ch (Block.logEvr_kept b src type p k st) (by decide)) :)
@[simp] theorem Block.logEvr_topazOnyx (b : Block) (src : Island) (type : Nat) (p : List Byte) (k : List (List Byte)) (st : Option Nat) : (b.logEvr src type p k st).ch.topazOnyx = b.ch.topazOnyx := (congrArg Channels.topazOnyx (kept_ch (Block.logEvr_kept b src type p k st) (by decide)) :)
@[simp] theorem Block.logEvr_shutSignal (b : Block) (src : Island) (type : Nat) (p : List Byte) (k : List (List Byte)) (st : Option Nat) : (b.logEvr src type p k st).ch.shutSignal = b.ch.shutSignal := (congrArg Channels.shutSignal (kept_ch (Block.logEvr_kept b src type p k st) (by decide)) :)
@[simp] theorem Block.logEvr_telBurn (b : Block) (src : Island) (type : Nat) (p : List Byte) (k : List (List Byte)) (st : Option Nat) : (b.logEvr src type p k st).ch.telBurn = b.ch.telBurn := (congrArg Channels.telBurn (kept_ch (Block.logEvr_kept b src type p k st) (by decide)) :)
@[simp] theorem Block.logEvr_telResult (b : Block) (src : Island) (type : Nat) (p : List Byte) (k : List (List Byte)) (st : Option Nat) : (b.logEvr src type p k st).ch.telResult = b.ch.telResult := (congrArg Channels.telResult (kept_ch (Block.logEvr_kept b src type p k st) (by decide)) :)
@[simp] theorem Block.logEvr_expiry (b : Block) (src : Island) (type : Nat) (p : List Byte) (k : List (List Byte)) (st : Option Nat) : (b.logEvr src type p k st).ch.expiry = b.ch.expiry := (congrArg Channels.expiry (kept_ch (Block.logEvr_kept b src type p k st) (by decide)) :)
@[simp] theorem Block.logEvr_ledgerNotes (b : Block) (src : Island) (type : Nat) (p : List Byte) (k : List (List Byte)) (st : Option Nat) : (b.logEvr src type p k st).ch.ledgerNotes = b.ch.ledgerNotes := (congrArg Channels.ledgerNotes (kept_ch (Block.logEvr_kept b src type p k st) (by decide)) :)
@[simp] theorem Block.logEvr_spinelDests (b : Block) (src : Island) (type : Nat) (p : List Byte) (k : List (List Byte)) (st : Option Nat) : (b.logEvr src type p k st).ch.spinelDests = b.ch.spinelDests := (congrArg Channels.spinelDests (kept_ch (Block.logEvr_kept b src type p k st) (by decide)) :)
@[simp] theorem Block.logEvr_onyxDests (b : Block) (src : Island) (type : Nat) (p : List Byte) (k : List (List Byte)) (st : Option Nat) : (b.logEvr src type p k st).ch.onyxDests = b.ch.onyxDests := (congrArg Channels.onyxDests (kept_ch (Block.logEvr_kept b src type p k st) (by decide)) :)
@[simp] theorem Block.logEvr_opalSpinel (b : Block) (src : Island) (type : Nat) (p : List Byte) (k : List (List Byte)) (st : Option Nat) : (b.logEvr src type p k st).ch.opalSpinel = b.ch.opalSpinel := (congrArg Channels.opalSpinel (kept_ch (Block.logEvr_kept b src type p k st) (by decide)) :)
@[simp] theorem Block.logEvr_opalOnyx (b : Block) (src : Island) (type : Nat) (p : List Byte) (k : List (List Byte)) (st : Option Nat) : (b.logEvr src type p k st).ch.opalOnyx = b.ch.opalOnyx := (congrArg Channels.opalOnyx (kept_ch (Block.logEvr_kept b src type p k st) (by decide)) :)
@[simp] theorem Block.logEvr_egressDue (b : Block) (src : Island) (type : Nat) (p : List Byte) (k : List (List Byte)) (st : Option Nat) : (b.logEvr src type p k st).ch.egressDue = b.ch.egressDue := (congrArg Channels.egressDue (kept_ch (Block.logEvr_kept b src type p k st) (by decide)) :)
@[simp] theorem Block.logEvr_topazOpal (b : Block) (src : Island) (type : Nat) (p : List Byte) (k : List (List Byte)) (st : Option Nat) : (b.logEvr src type p k st).ch.topazOpal = b.ch.topazOpal := (congrArg Channels.topazOpal (kept_ch (Block.logEvr_kept b src type p k st) (by decide)) :)
@[simp] theorem Block.logEvr_takesClosed (b : Block) (src : Island) (type : Nat) (p : List Byte) (k : List (List Byte)) (st : Option Nat) : (b.logEvr src type p k st).ch.takesClosed = b.ch.takesClosed := (congrArg Channels.takesClosed (kept_ch (Block.logEvr_kept b src type p k st) (by decide)) :)
@[simp] theorem Block.logEvr_thm (b : Block) (src : Island) (type : Nat) (p : List Byte) (k : List (List Byte)) (st : Option Nat) : (b.logEvr src type p k st).beryl.thm = b.beryl.thm := (Block.logEvr_kept b src type p k st).at_ .thm (by decide)
@[simp] theorem Block.logEvr_otc (b : Block) (src : Island) (type : Nat) (p : List Byte) (k : List (List Byte)) (st : Option Nat) : (b.logEvr src type p k st).beryl.otc = b.beryl.otc := (Block.logEvr_kept b src type p k st).at_ .otc (by decide)

/-! ### requestMsg -/

theorem requestMsg_kept (v : Nat) (b : Block) : onlyChanges [.posts, .out] b (requestMsg v b) := requestMsg_frame (by decide) (onlyChanges_refl _ _)
@[simp] theorem requestMsg_quartz (v : Nat) (b : Block) : (requestMsg v b).quartz = b.quartz := (requestMsg_kept v b).at_ .quartz (by decide)
@[simp] theorem requestMsg_disc (v : Nat) (b : Block) : (requestMsg v b).disc = b.disc := (requestMsg_kept v b).at_ .disc (by decide)
@[simp] theorem requestMsg_tod (v : Nat) (b : Block) : (requestMsg v b).tod = b.tod := (requestMsg_kept v b).at_ .tod (by decide)
@[simp] theorem requestMsg_garnet (v : Nat) (b : Block) : (requestMsg v b).garnet = b.garnet := (requestMsg_kept v b).at_ .garnet (by decide)
@[simp] theorem requestMsg_jade (v : Nat) (b : Block) : (requestMsg v b).jade = b.jade := (requestMsg_kept v b).at_ .jade (by decide)
@[simp] theorem requestMsg_spinel (v : Nat) (b : Block) : (requestMsg v b).spinel = b.spinel := (requestMsg_kept v b).at_ .spinel (by decide)
@[simp] theorem requestMsg_onyx (v : Nat) (b : Block) : (requestMsg v b).onyx = b.onyx := (requestMsg_kept v b).at_ .onyx (by decide)
@[simp] theorem requestMsg_agate (v : Nat) (b : Block) : (requestMsg v b).agate = b.agate := (requestMsg_kept v b).at_ .agate (by decide)
@[simp] theorem requestMsg_topaz (v : Nat) (b : Block) : (requestMsg v b).topaz = b.topaz := (requestMsg_kept v b).at_ .topaz (by decide)
@[simp] theorem requestMsg_dram (v : Nat) (b : Block) : (requestMsg v b).dram = b.dram := (requestMsg_kept v b).at_ .dram (by decide)
@[simp] theorem requestMsg_regs (v : Nat) (b : Block) : (requestMsg v b).regs = b.regs := (requestMsg_kept v b).at_ .regs (by decide)
@[simp] theorem requestMsg_fresh (v : Nat) (b : Block) : (requestMsg v b).fresh = b.fresh := (requestMsg_kept v b).at_ .fresh (by decide)
@[simp] theorem requestMsg_ctrlResult (v : Nat) (b : Block) : (requestMsg v b).opal.ctrlResult = b.opal.ctrlResult := (congrArg Opal.ctrlResult (kept_opal (requestMsg_kept v b) (by decide)) :)
@[simp] theorem requestMsg_dropped (v : Nat) (b : Block) : (requestMsg v b).opal.dropped = b.opal.dropped := (congrArg Opal.dropped (kept_opal (requestMsg_kept v b) (by decide)) :)
@[simp] theorem requestMsg_lastDoorbell (v : Nat) (b : Block) : (requestMsg v b).opal.lastDoorbell = b.opal.lastDoorbell := (congrArg Opal.lastDoorbell (kept_opal (requestMsg_kept v b) (by decide)) :)
@[simp] theorem requestMsg_rr (v : Nat) (b : Block) : (requestMsg v b).opal.rr = b.opal.rr := (congrArg Opal.rr (kept_opal (requestMsg_kept v b) (by decide)) :)
@[simp] theorem requestMsg_failRun (v : Nat) (b : Block) : (requestMsg v b).opal.failRun = b.opal.failRun := (congrArg Opal.failRun (kept_opal (requestMsg_kept v b) (by decide)) :)
@[simp] theorem requestMsg_msixEnable (v : Nat) (b : Block) : (requestMsg v b).opal.msixEnable = b.opal.msixEnable := (congrArg Opal.msixEnable (kept_opal (requestMsg_kept v b) (by decide)) :)
@[simp] theorem requestMsg_funcMask (v : Nat) (b : Block) : (requestMsg v b).opal.funcMask = b.opal.funcMask := (congrArg Opal.funcMask (kept_opal (requestMsg_kept v b) (by decide)) :)
@[simp] theorem requestMsg_ldg (v : Nat) (b : Block) : (requestMsg v b).opal.ldg = b.opal.ldg := (congrArg Opal.ldg (kept_opal (requestMsg_kept v b) (by decide)) :)
@[simp] theorem requestMsg_ldgResult (v : Nat) (b : Block) : (requestMsg v b).opal.ldgResult = b.opal.ldgResult := (congrArg Opal.ldgResult (kept_opal (requestMsg_kept v b) (by decide)) :)
@[simp] theorem requestMsg_window (v : Nat) (b : Block) : (requestMsg v b).opal.window = b.opal.window := (congrArg Opal.window (kept_opal (requestMsg_kept v b) (by decide)) :)
@[simp] theorem requestMsg_nextPub (v : Nat) (b : Block) : (requestMsg v b).opal.nextPub = b.opal.nextPub := (congrArg Opal.nextPub (kept_opal (requestMsg_kept v b) (by decide)) :)
@[simp] theorem requestMsg_ldgLost (v : Nat) (b : Block) : (requestMsg v b).opal.ldgLost = b.opal.ldgLost := (congrArg Opal.ldgLost (kept_opal (requestMsg_kept v b) (by decide)) :)
@[simp] theorem requestMsg_sinceMsg (v : Nat) (b : Block) : (requestMsg v b).opal.sinceMsg = b.opal.sinceMsg := (congrArg Opal.sinceMsg (kept_opal (requestMsg_kept v b) (by decide)) :)
@[simp] theorem requestMsg_held (v : Nat) (b : Block) : (requestMsg v b).opal.held = b.opal.held := (congrArg Opal.held (kept_opal (requestMsg_kept v b) (by decide)) :)
@[simp] theorem requestMsg_failed (v : Nat) (b : Block) : (requestMsg v b).opal.failed = b.opal.failed := (congrArg Opal.failed (kept_opal (requestMsg_kept v b) (by decide)) :)
@[simp] theorem requestMsg_takeOpen (v : Nat) (b : Block) : (requestMsg v b).opal.takeOpen = b.opal.takeOpen := (congrArg Opal.takeOpen (kept_opal (requestMsg_kept v b) (by decide)) :)
@[simp] theorem requestMsg_takeEnds (v : Nat) (b : Block) : (requestMsg v b).opal.takeEnds = b.opal.takeEnds := (congrArg Opal.takeEnds (kept_opal (requestMsg_kept v b) (by decide)) :)
@[simp] theorem requestMsg_cad1 (v : Nat) (b : Block) : (requestMsg v b).opal.cad1 = b.opal.cad1 := (congrArg Opal.cad1 (kept_opal (requestMsg_kept v b) (by decide)) :)
@[simp] theorem requestMsg_times (v : Nat) (b : Block) : (requestMsg v b).opal.times = b.opal.times := (congrArg Opal.times (kept_opal (requestMsg_kept v b) (by decide)) :)
@[simp] theorem requestMsg_link (v : Nat) (b : Block) : (requestMsg v b).opal.link = b.opal.link := (congrArg Opal.link (kept_opal (requestMsg_kept v b) (by decide)) :)
@[simp] theorem requestMsg_perst (v : Nat) (b : Block) : (requestMsg v b).opal.perst = b.opal.perst := (congrArg Opal.perst (kept_opal (requestMsg_kept v b) (by decide)) :)
@[simp] theorem requestMsg_flush (v : Nat) (b : Block) : (requestMsg v b).opal.flush = b.opal.flush := (congrArg Opal.flush (kept_opal (requestMsg_kept v b) (by decide)) :)
@[simp] theorem requestMsg_quartzGarnet (v : Nat) (b : Block) : (requestMsg v b).ch.quartzGarnet = b.ch.quartzGarnet := (congrArg Channels.quartzGarnet (kept_ch (requestMsg_kept v b) (by decide)) :)
@[simp] theorem requestMsg_quartzAgate (v : Nat) (b : Block) : (requestMsg v b).ch.quartzAgate = b.ch.quartzAgate := (congrArg Channels.quartzAgate (kept_ch (requestMsg_kept v b) (by decide)) :)
@[simp] theorem requestMsg_quartzOpal (v : Nat) (b : Block) : (requestMsg v b).ch.quartzOpal = b.ch.quartzOpal := (congrArg Channels.quartzOpal (kept_ch (requestMsg_kept v b) (by decide)) :)
@[simp] theorem requestMsg_agateGarnet (v : Nat) (b : Block) : (requestMsg v b).ch.agateGarnet = b.ch.agateGarnet := (congrArg Channels.agateGarnet (kept_ch (requestMsg_kept v b) (by decide)) :)
@[simp] theorem requestMsg_garnetJade (v : Nat) (b : Block) : (requestMsg v b).ch.garnetJade = b.ch.garnetJade := (congrArg Channels.garnetJade (kept_ch (requestMsg_kept v b) (by decide)) :)
@[simp] theorem requestMsg_drnAck (v : Nat) (b : Block) : (requestMsg v b).ch.drnAck = b.ch.drnAck := (congrArg Channels.drnAck (kept_ch (requestMsg_kept v b) (by decide)) :)
@[simp] theorem requestMsg_jadeSpinel (v : Nat) (b : Block) : (requestMsg v b).ch.jadeSpinel = b.ch.jadeSpinel := (congrArg Channels.jadeSpinel (kept_ch (requestMsg_kept v b) (by decide)) :)
@[simp] theorem requestMsg_spinelOpal (v : Nat) (b : Block) : (requestMsg v b).ch.spinelOpal = b.ch.spinelOpal := (congrArg Channels.spinelOpal (kept_ch (requestMsg_kept v b) (by decide)) :)
@[simp] theorem requestMsg_spinelOnyx (v : Nat) (b : Block) : (requestMsg v b).ch.spinelOnyx = b.ch.spinelOnyx := (congrArg Channels.spinelOnyx (kept_ch (requestMsg_kept v b) (by decide)) :)
@[simp] theorem requestMsg_onyxOpal (v : Nat) (b : Block) : (requestMsg v b).ch.onyxOpal = b.ch.onyxOpal := (congrArg Channels.onyxOpal (kept_ch (requestMsg_kept v b) (by decide)) :)
@[simp] theorem requestMsg_stopRequests (v : Nat) (b : Block) : (requestMsg v b).ch.stopRequests = b.ch.stopRequests := (congrArg Channels.stopRequests (kept_ch (requestMsg_kept v b) (by decide)) :)
@[simp] theorem requestMsg_berylGarnet (v : Nat) (b : Block) : (requestMsg v b).ch.berylGarnet = b.ch.berylGarnet := (congrArg Channels.berylGarnet (kept_ch (requestMsg_kept v b) (by decide)) :)
@[simp] theorem requestMsg_noticeOpal (v : Nat) (b : Block) : (requestMsg v b).ch.noticeOpal = b.ch.noticeOpal := (congrArg Channels.noticeOpal (kept_ch (requestMsg_kept v b) (by decide)) :)
@[simp] theorem requestMsg_noticeSpinel (v : Nat) (b : Block) : (requestMsg v b).ch.noticeSpinel = b.ch.noticeSpinel := (congrArg Channels.noticeSpinel (kept_ch (requestMsg_kept v b) (by decide)) :)
@[simp] theorem requestMsg_noticeOnyx (v : Nat) (b : Block) : (requestMsg v b).ch.noticeOnyx = b.ch.noticeOnyx := (congrArg Channels.noticeOnyx (kept_ch (requestMsg_kept v b) (by decide)) :)
@[simp] theorem requestMsg_garnetOpal (v : Nat) (b : Block) : (requestMsg v b).ch.garnetOpal = b.ch.garnetOpal := (congrArg Channels.garnetOpal (kept_ch (requestMsg_kept v b) (by decide)) :)
@[simp] theorem requestMsg_onyxJade (v : Nat) (b : Block) : (requestMsg v b).ch.onyxJade = b.ch.onyxJade := (congrArg Channels.onyxJade (kept_ch (requestMsg_kept v b) (by decide)) :)
@[simp] theorem requestMsg_spinelJade (v : Nat) (b : Block) : (requestMsg v b).ch.spinelJade = b.ch.spinelJade := (congrArg Channels.spinelJade (kept_ch (requestMsg_kept v b) (by decide)) :)
@[simp] theorem requestMsg_opalJade (v : Nat) (b : Block) : (requestMsg v b).ch.opalJade = b.ch.opalJade := (congrArg Channels.opalJade (kept_ch (requestMsg_kept v b) (by decide)) :)
@[simp] theorem requestMsg_onyxSpinel (v : Nat) (b : Block) : (requestMsg v b).ch.onyxSpinel = b.ch.onyxSpinel := (congrArg Channels.onyxSpinel (kept_ch (requestMsg_kept v b) (by decide)) :)
@[simp] theorem requestMsg_garnetBeryl (v : Nat) (b : Block) : (requestMsg v b).ch.garnetBeryl = b.ch.garnetBeryl := (congrArg Channels.garnetBeryl (kept_ch (requestMsg_kept v b) (by decide)) :)
@[simp] theorem requestMsg_berylJade (v : Nat) (b : Block) : (requestMsg v b).ch.berylJade = b.ch.berylJade := (congrArg Channels.berylJade (kept_ch (requestMsg_kept v b) (by decide)) :)
@[simp] theorem requestMsg_berylOpal (v : Nat) (b : Block) : (requestMsg v b).ch.berylOpal = b.ch.berylOpal := (congrArg Channels.berylOpal (kept_ch (requestMsg_kept v b) (by decide)) :)
@[simp] theorem requestMsg_keepPowered (v : Nat) (b : Block) : (requestMsg v b).ch.keepPowered = b.ch.keepPowered := (congrArg Channels.keepPowered (kept_ch (requestMsg_kept v b) (by decide)) :)
@[simp] theorem requestMsg_onyxReport (v : Nat) (b : Block) : (requestMsg v b).ch.onyxReport = b.ch.onyxReport := (congrArg Channels.onyxReport (kept_ch (requestMsg_kept v b) (by decide)) :)
@[simp] theorem requestMsg_opalReport (v : Nat) (b : Block) : (requestMsg v b).ch.opalReport = b.ch.opalReport := (congrArg Channels.opalReport (kept_ch (requestMsg_kept v b) (by decide)) :)
@[simp] theorem requestMsg_topazGarnet (v : Nat) (b : Block) : (requestMsg v b).ch.topazGarnet = b.ch.topazGarnet := (congrArg Channels.topazGarnet (kept_ch (requestMsg_kept v b) (by decide)) :)
@[simp] theorem requestMsg_topazOnyx (v : Nat) (b : Block) : (requestMsg v b).ch.topazOnyx = b.ch.topazOnyx := (congrArg Channels.topazOnyx (kept_ch (requestMsg_kept v b) (by decide)) :)
@[simp] theorem requestMsg_shutSignal (v : Nat) (b : Block) : (requestMsg v b).ch.shutSignal = b.ch.shutSignal := (congrArg Channels.shutSignal (kept_ch (requestMsg_kept v b) (by decide)) :)
@[simp] theorem requestMsg_telBurn (v : Nat) (b : Block) : (requestMsg v b).ch.telBurn = b.ch.telBurn := (congrArg Channels.telBurn (kept_ch (requestMsg_kept v b) (by decide)) :)
@[simp] theorem requestMsg_telResult (v : Nat) (b : Block) : (requestMsg v b).ch.telResult = b.ch.telResult := (congrArg Channels.telResult (kept_ch (requestMsg_kept v b) (by decide)) :)
@[simp] theorem requestMsg_expiry (v : Nat) (b : Block) : (requestMsg v b).ch.expiry = b.ch.expiry := (congrArg Channels.expiry (kept_ch (requestMsg_kept v b) (by decide)) :)
@[simp] theorem requestMsg_ledgerNotes (v : Nat) (b : Block) : (requestMsg v b).ch.ledgerNotes = b.ch.ledgerNotes := (congrArg Channels.ledgerNotes (kept_ch (requestMsg_kept v b) (by decide)) :)
@[simp] theorem requestMsg_spinelDests (v : Nat) (b : Block) : (requestMsg v b).ch.spinelDests = b.ch.spinelDests := (congrArg Channels.spinelDests (kept_ch (requestMsg_kept v b) (by decide)) :)
@[simp] theorem requestMsg_onyxDests (v : Nat) (b : Block) : (requestMsg v b).ch.onyxDests = b.ch.onyxDests := (congrArg Channels.onyxDests (kept_ch (requestMsg_kept v b) (by decide)) :)
@[simp] theorem requestMsg_opalSpinel (v : Nat) (b : Block) : (requestMsg v b).ch.opalSpinel = b.ch.opalSpinel := (congrArg Channels.opalSpinel (kept_ch (requestMsg_kept v b) (by decide)) :)
@[simp] theorem requestMsg_opalOnyx (v : Nat) (b : Block) : (requestMsg v b).ch.opalOnyx = b.ch.opalOnyx := (congrArg Channels.opalOnyx (kept_ch (requestMsg_kept v b) (by decide)) :)
@[simp] theorem requestMsg_egressDue (v : Nat) (b : Block) : (requestMsg v b).ch.egressDue = b.ch.egressDue := (congrArg Channels.egressDue (kept_ch (requestMsg_kept v b) (by decide)) :)
@[simp] theorem requestMsg_topazOpal (v : Nat) (b : Block) : (requestMsg v b).ch.topazOpal = b.ch.topazOpal := (congrArg Channels.topazOpal (kept_ch (requestMsg_kept v b) (by decide)) :)
@[simp] theorem requestMsg_takesClosed (v : Nat) (b : Block) : (requestMsg v b).ch.takesClosed = b.ch.takesClosed := (congrArg Channels.takesClosed (kept_ch (requestMsg_kept v b) (by decide)) :)
@[simp] theorem requestMsg_thm (v : Nat) (b : Block) : (requestMsg v b).beryl.thm = b.beryl.thm := (requestMsg_kept v b).at_ .thm (by decide)
@[simp] theorem requestMsg_otc (v : Nat) (b : Block) : (requestMsg v b).beryl.otc = b.beryl.otc := (requestMsg_kept v b).at_ .otc (by decide)
@[simp] theorem requestMsg_evr (v : Nat) (b : Block) : (requestMsg v b).beryl.evr = b.beryl.evr := (requestMsg_kept v b).at_ .evr (by decide)

/-! ### flushEvents -/

theorem flushEvents_kept (k : Nat) (b : Block) : onlyChanges [.posts, .out] b (flushEvents k b) := flushEvents_frame (by decide) (onlyChanges_refl _ _)
@[simp] theorem flushEvents_quartz (k : Nat) (b : Block) : (flushEvents k b).quartz = b.quartz := (flushEvents_kept k b).at_ .quartz (by decide)
@[simp] theorem flushEvents_disc (k : Nat) (b : Block) : (flushEvents k b).disc = b.disc := (flushEvents_kept k b).at_ .disc (by decide)
@[simp] theorem flushEvents_tod (k : Nat) (b : Block) : (flushEvents k b).tod = b.tod := (flushEvents_kept k b).at_ .tod (by decide)
@[simp] theorem flushEvents_garnet (k : Nat) (b : Block) : (flushEvents k b).garnet = b.garnet := (flushEvents_kept k b).at_ .garnet (by decide)
@[simp] theorem flushEvents_jade (k : Nat) (b : Block) : (flushEvents k b).jade = b.jade := (flushEvents_kept k b).at_ .jade (by decide)
@[simp] theorem flushEvents_spinel (k : Nat) (b : Block) : (flushEvents k b).spinel = b.spinel := (flushEvents_kept k b).at_ .spinel (by decide)
@[simp] theorem flushEvents_onyx (k : Nat) (b : Block) : (flushEvents k b).onyx = b.onyx := (flushEvents_kept k b).at_ .onyx (by decide)
@[simp] theorem flushEvents_agate (k : Nat) (b : Block) : (flushEvents k b).agate = b.agate := (flushEvents_kept k b).at_ .agate (by decide)
@[simp] theorem flushEvents_topaz (k : Nat) (b : Block) : (flushEvents k b).topaz = b.topaz := (flushEvents_kept k b).at_ .topaz (by decide)
@[simp] theorem flushEvents_dram (k : Nat) (b : Block) : (flushEvents k b).dram = b.dram := (flushEvents_kept k b).at_ .dram (by decide)
@[simp] theorem flushEvents_regs (k : Nat) (b : Block) : (flushEvents k b).regs = b.regs := (flushEvents_kept k b).at_ .regs (by decide)
@[simp] theorem flushEvents_fresh (k : Nat) (b : Block) : (flushEvents k b).fresh = b.fresh := (flushEvents_kept k b).at_ .fresh (by decide)
@[simp] theorem flushEvents_ctrlResult (k : Nat) (b : Block) : (flushEvents k b).opal.ctrlResult = b.opal.ctrlResult := (congrArg Opal.ctrlResult (kept_opal (flushEvents_kept k b) (by decide)) :)
@[simp] theorem flushEvents_dropped (k : Nat) (b : Block) : (flushEvents k b).opal.dropped = b.opal.dropped := (congrArg Opal.dropped (kept_opal (flushEvents_kept k b) (by decide)) :)
@[simp] theorem flushEvents_lastDoorbell (k : Nat) (b : Block) : (flushEvents k b).opal.lastDoorbell = b.opal.lastDoorbell := (congrArg Opal.lastDoorbell (kept_opal (flushEvents_kept k b) (by decide)) :)
@[simp] theorem flushEvents_rr (k : Nat) (b : Block) : (flushEvents k b).opal.rr = b.opal.rr := (congrArg Opal.rr (kept_opal (flushEvents_kept k b) (by decide)) :)
@[simp] theorem flushEvents_failRun (k : Nat) (b : Block) : (flushEvents k b).opal.failRun = b.opal.failRun := (congrArg Opal.failRun (kept_opal (flushEvents_kept k b) (by decide)) :)
@[simp] theorem flushEvents_msixEnable (k : Nat) (b : Block) : (flushEvents k b).opal.msixEnable = b.opal.msixEnable := (congrArg Opal.msixEnable (kept_opal (flushEvents_kept k b) (by decide)) :)
@[simp] theorem flushEvents_funcMask (k : Nat) (b : Block) : (flushEvents k b).opal.funcMask = b.opal.funcMask := (congrArg Opal.funcMask (kept_opal (flushEvents_kept k b) (by decide)) :)
@[simp] theorem flushEvents_ldg (k : Nat) (b : Block) : (flushEvents k b).opal.ldg = b.opal.ldg := (congrArg Opal.ldg (kept_opal (flushEvents_kept k b) (by decide)) :)
@[simp] theorem flushEvents_ldgResult (k : Nat) (b : Block) : (flushEvents k b).opal.ldgResult = b.opal.ldgResult := (congrArg Opal.ldgResult (kept_opal (flushEvents_kept k b) (by decide)) :)
@[simp] theorem flushEvents_window (k : Nat) (b : Block) : (flushEvents k b).opal.window = b.opal.window := (congrArg Opal.window (kept_opal (flushEvents_kept k b) (by decide)) :)
@[simp] theorem flushEvents_nextPub (k : Nat) (b : Block) : (flushEvents k b).opal.nextPub = b.opal.nextPub := (congrArg Opal.nextPub (kept_opal (flushEvents_kept k b) (by decide)) :)
@[simp] theorem flushEvents_ldgLost (k : Nat) (b : Block) : (flushEvents k b).opal.ldgLost = b.opal.ldgLost := (congrArg Opal.ldgLost (kept_opal (flushEvents_kept k b) (by decide)) :)
@[simp] theorem flushEvents_sinceMsg (k : Nat) (b : Block) : (flushEvents k b).opal.sinceMsg = b.opal.sinceMsg := (congrArg Opal.sinceMsg (kept_opal (flushEvents_kept k b) (by decide)) :)
@[simp] theorem flushEvents_held (k : Nat) (b : Block) : (flushEvents k b).opal.held = b.opal.held := (congrArg Opal.held (kept_opal (flushEvents_kept k b) (by decide)) :)
@[simp] theorem flushEvents_failed (k : Nat) (b : Block) : (flushEvents k b).opal.failed = b.opal.failed := (congrArg Opal.failed (kept_opal (flushEvents_kept k b) (by decide)) :)
@[simp] theorem flushEvents_takeOpen (k : Nat) (b : Block) : (flushEvents k b).opal.takeOpen = b.opal.takeOpen := (congrArg Opal.takeOpen (kept_opal (flushEvents_kept k b) (by decide)) :)
@[simp] theorem flushEvents_takeEnds (k : Nat) (b : Block) : (flushEvents k b).opal.takeEnds = b.opal.takeEnds := (congrArg Opal.takeEnds (kept_opal (flushEvents_kept k b) (by decide)) :)
@[simp] theorem flushEvents_cad1 (k : Nat) (b : Block) : (flushEvents k b).opal.cad1 = b.opal.cad1 := (congrArg Opal.cad1 (kept_opal (flushEvents_kept k b) (by decide)) :)
@[simp] theorem flushEvents_times (k : Nat) (b : Block) : (flushEvents k b).opal.times = b.opal.times := (congrArg Opal.times (kept_opal (flushEvents_kept k b) (by decide)) :)
@[simp] theorem flushEvents_link (k : Nat) (b : Block) : (flushEvents k b).opal.link = b.opal.link := (congrArg Opal.link (kept_opal (flushEvents_kept k b) (by decide)) :)
@[simp] theorem flushEvents_perst (k : Nat) (b : Block) : (flushEvents k b).opal.perst = b.opal.perst := (congrArg Opal.perst (kept_opal (flushEvents_kept k b) (by decide)) :)
@[simp] theorem flushEvents_flush (k : Nat) (b : Block) : (flushEvents k b).opal.flush = b.opal.flush := (congrArg Opal.flush (kept_opal (flushEvents_kept k b) (by decide)) :)
@[simp] theorem flushEvents_quartzGarnet (k : Nat) (b : Block) : (flushEvents k b).ch.quartzGarnet = b.ch.quartzGarnet := (congrArg Channels.quartzGarnet (kept_ch (flushEvents_kept k b) (by decide)) :)
@[simp] theorem flushEvents_quartzAgate (k : Nat) (b : Block) : (flushEvents k b).ch.quartzAgate = b.ch.quartzAgate := (congrArg Channels.quartzAgate (kept_ch (flushEvents_kept k b) (by decide)) :)
@[simp] theorem flushEvents_quartzOpal (k : Nat) (b : Block) : (flushEvents k b).ch.quartzOpal = b.ch.quartzOpal := (congrArg Channels.quartzOpal (kept_ch (flushEvents_kept k b) (by decide)) :)
@[simp] theorem flushEvents_agateGarnet (k : Nat) (b : Block) : (flushEvents k b).ch.agateGarnet = b.ch.agateGarnet := (congrArg Channels.agateGarnet (kept_ch (flushEvents_kept k b) (by decide)) :)
@[simp] theorem flushEvents_garnetJade (k : Nat) (b : Block) : (flushEvents k b).ch.garnetJade = b.ch.garnetJade := (congrArg Channels.garnetJade (kept_ch (flushEvents_kept k b) (by decide)) :)
@[simp] theorem flushEvents_drnAck (k : Nat) (b : Block) : (flushEvents k b).ch.drnAck = b.ch.drnAck := (congrArg Channels.drnAck (kept_ch (flushEvents_kept k b) (by decide)) :)
@[simp] theorem flushEvents_jadeSpinel (k : Nat) (b : Block) : (flushEvents k b).ch.jadeSpinel = b.ch.jadeSpinel := (congrArg Channels.jadeSpinel (kept_ch (flushEvents_kept k b) (by decide)) :)
@[simp] theorem flushEvents_spinelOpal (k : Nat) (b : Block) : (flushEvents k b).ch.spinelOpal = b.ch.spinelOpal := (congrArg Channels.spinelOpal (kept_ch (flushEvents_kept k b) (by decide)) :)
@[simp] theorem flushEvents_spinelOnyx (k : Nat) (b : Block) : (flushEvents k b).ch.spinelOnyx = b.ch.spinelOnyx := (congrArg Channels.spinelOnyx (kept_ch (flushEvents_kept k b) (by decide)) :)
@[simp] theorem flushEvents_onyxOpal (k : Nat) (b : Block) : (flushEvents k b).ch.onyxOpal = b.ch.onyxOpal := (congrArg Channels.onyxOpal (kept_ch (flushEvents_kept k b) (by decide)) :)
@[simp] theorem flushEvents_stopRequests (k : Nat) (b : Block) : (flushEvents k b).ch.stopRequests = b.ch.stopRequests := (congrArg Channels.stopRequests (kept_ch (flushEvents_kept k b) (by decide)) :)
@[simp] theorem flushEvents_berylGarnet (k : Nat) (b : Block) : (flushEvents k b).ch.berylGarnet = b.ch.berylGarnet := (congrArg Channels.berylGarnet (kept_ch (flushEvents_kept k b) (by decide)) :)
@[simp] theorem flushEvents_noticeOpal (k : Nat) (b : Block) : (flushEvents k b).ch.noticeOpal = b.ch.noticeOpal := (congrArg Channels.noticeOpal (kept_ch (flushEvents_kept k b) (by decide)) :)
@[simp] theorem flushEvents_noticeSpinel (k : Nat) (b : Block) : (flushEvents k b).ch.noticeSpinel = b.ch.noticeSpinel := (congrArg Channels.noticeSpinel (kept_ch (flushEvents_kept k b) (by decide)) :)
@[simp] theorem flushEvents_noticeOnyx (k : Nat) (b : Block) : (flushEvents k b).ch.noticeOnyx = b.ch.noticeOnyx := (congrArg Channels.noticeOnyx (kept_ch (flushEvents_kept k b) (by decide)) :)
@[simp] theorem flushEvents_garnetOpal (k : Nat) (b : Block) : (flushEvents k b).ch.garnetOpal = b.ch.garnetOpal := (congrArg Channels.garnetOpal (kept_ch (flushEvents_kept k b) (by decide)) :)
@[simp] theorem flushEvents_onyxJade (k : Nat) (b : Block) : (flushEvents k b).ch.onyxJade = b.ch.onyxJade := (congrArg Channels.onyxJade (kept_ch (flushEvents_kept k b) (by decide)) :)
@[simp] theorem flushEvents_spinelJade (k : Nat) (b : Block) : (flushEvents k b).ch.spinelJade = b.ch.spinelJade := (congrArg Channels.spinelJade (kept_ch (flushEvents_kept k b) (by decide)) :)
@[simp] theorem flushEvents_opalJade (k : Nat) (b : Block) : (flushEvents k b).ch.opalJade = b.ch.opalJade := (congrArg Channels.opalJade (kept_ch (flushEvents_kept k b) (by decide)) :)
@[simp] theorem flushEvents_onyxSpinel (k : Nat) (b : Block) : (flushEvents k b).ch.onyxSpinel = b.ch.onyxSpinel := (congrArg Channels.onyxSpinel (kept_ch (flushEvents_kept k b) (by decide)) :)
@[simp] theorem flushEvents_garnetBeryl (k : Nat) (b : Block) : (flushEvents k b).ch.garnetBeryl = b.ch.garnetBeryl := (congrArg Channels.garnetBeryl (kept_ch (flushEvents_kept k b) (by decide)) :)
@[simp] theorem flushEvents_berylJade (k : Nat) (b : Block) : (flushEvents k b).ch.berylJade = b.ch.berylJade := (congrArg Channels.berylJade (kept_ch (flushEvents_kept k b) (by decide)) :)
@[simp] theorem flushEvents_berylOpal (k : Nat) (b : Block) : (flushEvents k b).ch.berylOpal = b.ch.berylOpal := (congrArg Channels.berylOpal (kept_ch (flushEvents_kept k b) (by decide)) :)
@[simp] theorem flushEvents_keepPowered (k : Nat) (b : Block) : (flushEvents k b).ch.keepPowered = b.ch.keepPowered := (congrArg Channels.keepPowered (kept_ch (flushEvents_kept k b) (by decide)) :)
@[simp] theorem flushEvents_onyxReport (k : Nat) (b : Block) : (flushEvents k b).ch.onyxReport = b.ch.onyxReport := (congrArg Channels.onyxReport (kept_ch (flushEvents_kept k b) (by decide)) :)
@[simp] theorem flushEvents_opalReport (k : Nat) (b : Block) : (flushEvents k b).ch.opalReport = b.ch.opalReport := (congrArg Channels.opalReport (kept_ch (flushEvents_kept k b) (by decide)) :)
@[simp] theorem flushEvents_topazGarnet (k : Nat) (b : Block) : (flushEvents k b).ch.topazGarnet = b.ch.topazGarnet := (congrArg Channels.topazGarnet (kept_ch (flushEvents_kept k b) (by decide)) :)
@[simp] theorem flushEvents_topazOnyx (k : Nat) (b : Block) : (flushEvents k b).ch.topazOnyx = b.ch.topazOnyx := (congrArg Channels.topazOnyx (kept_ch (flushEvents_kept k b) (by decide)) :)
@[simp] theorem flushEvents_shutSignal (k : Nat) (b : Block) : (flushEvents k b).ch.shutSignal = b.ch.shutSignal := (congrArg Channels.shutSignal (kept_ch (flushEvents_kept k b) (by decide)) :)
@[simp] theorem flushEvents_telBurn (k : Nat) (b : Block) : (flushEvents k b).ch.telBurn = b.ch.telBurn := (congrArg Channels.telBurn (kept_ch (flushEvents_kept k b) (by decide)) :)
@[simp] theorem flushEvents_telResult (k : Nat) (b : Block) : (flushEvents k b).ch.telResult = b.ch.telResult := (congrArg Channels.telResult (kept_ch (flushEvents_kept k b) (by decide)) :)
@[simp] theorem flushEvents_expiry (k : Nat) (b : Block) : (flushEvents k b).ch.expiry = b.ch.expiry := (congrArg Channels.expiry (kept_ch (flushEvents_kept k b) (by decide)) :)
@[simp] theorem flushEvents_ledgerNotes (k : Nat) (b : Block) : (flushEvents k b).ch.ledgerNotes = b.ch.ledgerNotes := (congrArg Channels.ledgerNotes (kept_ch (flushEvents_kept k b) (by decide)) :)
@[simp] theorem flushEvents_spinelDests (k : Nat) (b : Block) : (flushEvents k b).ch.spinelDests = b.ch.spinelDests := (congrArg Channels.spinelDests (kept_ch (flushEvents_kept k b) (by decide)) :)
@[simp] theorem flushEvents_onyxDests (k : Nat) (b : Block) : (flushEvents k b).ch.onyxDests = b.ch.onyxDests := (congrArg Channels.onyxDests (kept_ch (flushEvents_kept k b) (by decide)) :)
@[simp] theorem flushEvents_opalSpinel (k : Nat) (b : Block) : (flushEvents k b).ch.opalSpinel = b.ch.opalSpinel := (congrArg Channels.opalSpinel (kept_ch (flushEvents_kept k b) (by decide)) :)
@[simp] theorem flushEvents_opalOnyx (k : Nat) (b : Block) : (flushEvents k b).ch.opalOnyx = b.ch.opalOnyx := (congrArg Channels.opalOnyx (kept_ch (flushEvents_kept k b) (by decide)) :)
@[simp] theorem flushEvents_egressDue (k : Nat) (b : Block) : (flushEvents k b).ch.egressDue = b.ch.egressDue := (congrArg Channels.egressDue (kept_ch (flushEvents_kept k b) (by decide)) :)
@[simp] theorem flushEvents_topazOpal (k : Nat) (b : Block) : (flushEvents k b).ch.topazOpal = b.ch.topazOpal := (congrArg Channels.topazOpal (kept_ch (flushEvents_kept k b) (by decide)) :)
@[simp] theorem flushEvents_takesClosed (k : Nat) (b : Block) : (flushEvents k b).ch.takesClosed = b.ch.takesClosed := (congrArg Channels.takesClosed (kept_ch (flushEvents_kept k b) (by decide)) :)
@[simp] theorem flushEvents_thm (k : Nat) (b : Block) : (flushEvents k b).beryl.thm = b.beryl.thm := (flushEvents_kept k b).at_ .thm (by decide)
@[simp] theorem flushEvents_otc (k : Nat) (b : Block) : (flushEvents k b).beryl.otc = b.beryl.otc := (flushEvents_kept k b).at_ .otc (by decide)
@[simp] theorem flushEvents_evr (k : Nat) (b : Block) : (flushEvents k b).beryl.evr = b.beryl.evr := (flushEvents_kept k b).at_ .evr (by decide)

/-! ### postEventAt -/

theorem postEventAt_kept (s c f : Nat) (d : List Byte) (b : Block) : onlyChanges [.posts, .out] b (postEventAt s c f d b) := postEventAt_frame (by decide) (onlyChanges_refl _ _)
@[simp] theorem postEventAt_quartz (s c f : Nat) (d : List Byte) (b : Block) : (postEventAt s c f d b).quartz = b.quartz := (postEventAt_kept s c f d b).at_ .quartz (by decide)
@[simp] theorem postEventAt_disc (s c f : Nat) (d : List Byte) (b : Block) : (postEventAt s c f d b).disc = b.disc := (postEventAt_kept s c f d b).at_ .disc (by decide)
@[simp] theorem postEventAt_tod (s c f : Nat) (d : List Byte) (b : Block) : (postEventAt s c f d b).tod = b.tod := (postEventAt_kept s c f d b).at_ .tod (by decide)
@[simp] theorem postEventAt_garnet (s c f : Nat) (d : List Byte) (b : Block) : (postEventAt s c f d b).garnet = b.garnet := (postEventAt_kept s c f d b).at_ .garnet (by decide)
@[simp] theorem postEventAt_jade (s c f : Nat) (d : List Byte) (b : Block) : (postEventAt s c f d b).jade = b.jade := (postEventAt_kept s c f d b).at_ .jade (by decide)
@[simp] theorem postEventAt_spinel (s c f : Nat) (d : List Byte) (b : Block) : (postEventAt s c f d b).spinel = b.spinel := (postEventAt_kept s c f d b).at_ .spinel (by decide)
@[simp] theorem postEventAt_onyx (s c f : Nat) (d : List Byte) (b : Block) : (postEventAt s c f d b).onyx = b.onyx := (postEventAt_kept s c f d b).at_ .onyx (by decide)
@[simp] theorem postEventAt_agate (s c f : Nat) (d : List Byte) (b : Block) : (postEventAt s c f d b).agate = b.agate := (postEventAt_kept s c f d b).at_ .agate (by decide)
@[simp] theorem postEventAt_topaz (s c f : Nat) (d : List Byte) (b : Block) : (postEventAt s c f d b).topaz = b.topaz := (postEventAt_kept s c f d b).at_ .topaz (by decide)
@[simp] theorem postEventAt_dram (s c f : Nat) (d : List Byte) (b : Block) : (postEventAt s c f d b).dram = b.dram := (postEventAt_kept s c f d b).at_ .dram (by decide)
@[simp] theorem postEventAt_regs (s c f : Nat) (d : List Byte) (b : Block) : (postEventAt s c f d b).regs = b.regs := (postEventAt_kept s c f d b).at_ .regs (by decide)
@[simp] theorem postEventAt_fresh (s c f : Nat) (d : List Byte) (b : Block) : (postEventAt s c f d b).fresh = b.fresh := (postEventAt_kept s c f d b).at_ .fresh (by decide)
@[simp] theorem postEventAt_ctrlResult (s c f : Nat) (d : List Byte) (b : Block) : (postEventAt s c f d b).opal.ctrlResult = b.opal.ctrlResult := (congrArg Opal.ctrlResult (kept_opal (postEventAt_kept s c f d b) (by decide)) :)
@[simp] theorem postEventAt_dropped (s c f : Nat) (d : List Byte) (b : Block) : (postEventAt s c f d b).opal.dropped = b.opal.dropped := (congrArg Opal.dropped (kept_opal (postEventAt_kept s c f d b) (by decide)) :)
@[simp] theorem postEventAt_lastDoorbell (s c f : Nat) (d : List Byte) (b : Block) : (postEventAt s c f d b).opal.lastDoorbell = b.opal.lastDoorbell := (congrArg Opal.lastDoorbell (kept_opal (postEventAt_kept s c f d b) (by decide)) :)
@[simp] theorem postEventAt_rr (s c f : Nat) (d : List Byte) (b : Block) : (postEventAt s c f d b).opal.rr = b.opal.rr := (congrArg Opal.rr (kept_opal (postEventAt_kept s c f d b) (by decide)) :)
@[simp] theorem postEventAt_failRun (s c f : Nat) (d : List Byte) (b : Block) : (postEventAt s c f d b).opal.failRun = b.opal.failRun := (congrArg Opal.failRun (kept_opal (postEventAt_kept s c f d b) (by decide)) :)
@[simp] theorem postEventAt_msixEnable (s c f : Nat) (d : List Byte) (b : Block) : (postEventAt s c f d b).opal.msixEnable = b.opal.msixEnable := (congrArg Opal.msixEnable (kept_opal (postEventAt_kept s c f d b) (by decide)) :)
@[simp] theorem postEventAt_funcMask (s c f : Nat) (d : List Byte) (b : Block) : (postEventAt s c f d b).opal.funcMask = b.opal.funcMask := (congrArg Opal.funcMask (kept_opal (postEventAt_kept s c f d b) (by decide)) :)
@[simp] theorem postEventAt_ldg (s c f : Nat) (d : List Byte) (b : Block) : (postEventAt s c f d b).opal.ldg = b.opal.ldg := (congrArg Opal.ldg (kept_opal (postEventAt_kept s c f d b) (by decide)) :)
@[simp] theorem postEventAt_ldgResult (s c f : Nat) (d : List Byte) (b : Block) : (postEventAt s c f d b).opal.ldgResult = b.opal.ldgResult := (congrArg Opal.ldgResult (kept_opal (postEventAt_kept s c f d b) (by decide)) :)
@[simp] theorem postEventAt_window (s c f : Nat) (d : List Byte) (b : Block) : (postEventAt s c f d b).opal.window = b.opal.window := (congrArg Opal.window (kept_opal (postEventAt_kept s c f d b) (by decide)) :)
@[simp] theorem postEventAt_nextPub (s c f : Nat) (d : List Byte) (b : Block) : (postEventAt s c f d b).opal.nextPub = b.opal.nextPub := (congrArg Opal.nextPub (kept_opal (postEventAt_kept s c f d b) (by decide)) :)
@[simp] theorem postEventAt_ldgLost (s c f : Nat) (d : List Byte) (b : Block) : (postEventAt s c f d b).opal.ldgLost = b.opal.ldgLost := (congrArg Opal.ldgLost (kept_opal (postEventAt_kept s c f d b) (by decide)) :)
@[simp] theorem postEventAt_sinceMsg (s c f : Nat) (d : List Byte) (b : Block) : (postEventAt s c f d b).opal.sinceMsg = b.opal.sinceMsg := (congrArg Opal.sinceMsg (kept_opal (postEventAt_kept s c f d b) (by decide)) :)
@[simp] theorem postEventAt_held (s c f : Nat) (d : List Byte) (b : Block) : (postEventAt s c f d b).opal.held = b.opal.held := (congrArg Opal.held (kept_opal (postEventAt_kept s c f d b) (by decide)) :)
@[simp] theorem postEventAt_failed (s c f : Nat) (d : List Byte) (b : Block) : (postEventAt s c f d b).opal.failed = b.opal.failed := (congrArg Opal.failed (kept_opal (postEventAt_kept s c f d b) (by decide)) :)
@[simp] theorem postEventAt_takeOpen (s c f : Nat) (d : List Byte) (b : Block) : (postEventAt s c f d b).opal.takeOpen = b.opal.takeOpen := (congrArg Opal.takeOpen (kept_opal (postEventAt_kept s c f d b) (by decide)) :)
@[simp] theorem postEventAt_takeEnds (s c f : Nat) (d : List Byte) (b : Block) : (postEventAt s c f d b).opal.takeEnds = b.opal.takeEnds := (congrArg Opal.takeEnds (kept_opal (postEventAt_kept s c f d b) (by decide)) :)
@[simp] theorem postEventAt_cad1 (s c f : Nat) (d : List Byte) (b : Block) : (postEventAt s c f d b).opal.cad1 = b.opal.cad1 := (congrArg Opal.cad1 (kept_opal (postEventAt_kept s c f d b) (by decide)) :)
@[simp] theorem postEventAt_times (s c f : Nat) (d : List Byte) (b : Block) : (postEventAt s c f d b).opal.times = b.opal.times := (congrArg Opal.times (kept_opal (postEventAt_kept s c f d b) (by decide)) :)
@[simp] theorem postEventAt_link (s c f : Nat) (d : List Byte) (b : Block) : (postEventAt s c f d b).opal.link = b.opal.link := (congrArg Opal.link (kept_opal (postEventAt_kept s c f d b) (by decide)) :)
@[simp] theorem postEventAt_perst (s c f : Nat) (d : List Byte) (b : Block) : (postEventAt s c f d b).opal.perst = b.opal.perst := (congrArg Opal.perst (kept_opal (postEventAt_kept s c f d b) (by decide)) :)
@[simp] theorem postEventAt_flush (s c f : Nat) (d : List Byte) (b : Block) : (postEventAt s c f d b).opal.flush = b.opal.flush := (congrArg Opal.flush (kept_opal (postEventAt_kept s c f d b) (by decide)) :)
@[simp] theorem postEventAt_quartzGarnet (s c f : Nat) (d : List Byte) (b : Block) : (postEventAt s c f d b).ch.quartzGarnet = b.ch.quartzGarnet := (congrArg Channels.quartzGarnet (kept_ch (postEventAt_kept s c f d b) (by decide)) :)
@[simp] theorem postEventAt_quartzAgate (s c f : Nat) (d : List Byte) (b : Block) : (postEventAt s c f d b).ch.quartzAgate = b.ch.quartzAgate := (congrArg Channels.quartzAgate (kept_ch (postEventAt_kept s c f d b) (by decide)) :)
@[simp] theorem postEventAt_quartzOpal (s c f : Nat) (d : List Byte) (b : Block) : (postEventAt s c f d b).ch.quartzOpal = b.ch.quartzOpal := (congrArg Channels.quartzOpal (kept_ch (postEventAt_kept s c f d b) (by decide)) :)
@[simp] theorem postEventAt_agateGarnet (s c f : Nat) (d : List Byte) (b : Block) : (postEventAt s c f d b).ch.agateGarnet = b.ch.agateGarnet := (congrArg Channels.agateGarnet (kept_ch (postEventAt_kept s c f d b) (by decide)) :)
@[simp] theorem postEventAt_garnetJade (s c f : Nat) (d : List Byte) (b : Block) : (postEventAt s c f d b).ch.garnetJade = b.ch.garnetJade := (congrArg Channels.garnetJade (kept_ch (postEventAt_kept s c f d b) (by decide)) :)
@[simp] theorem postEventAt_drnAck (s c f : Nat) (d : List Byte) (b : Block) : (postEventAt s c f d b).ch.drnAck = b.ch.drnAck := (congrArg Channels.drnAck (kept_ch (postEventAt_kept s c f d b) (by decide)) :)
@[simp] theorem postEventAt_jadeSpinel (s c f : Nat) (d : List Byte) (b : Block) : (postEventAt s c f d b).ch.jadeSpinel = b.ch.jadeSpinel := (congrArg Channels.jadeSpinel (kept_ch (postEventAt_kept s c f d b) (by decide)) :)
@[simp] theorem postEventAt_spinelOpal (s c f : Nat) (d : List Byte) (b : Block) : (postEventAt s c f d b).ch.spinelOpal = b.ch.spinelOpal := (congrArg Channels.spinelOpal (kept_ch (postEventAt_kept s c f d b) (by decide)) :)
@[simp] theorem postEventAt_spinelOnyx (s c f : Nat) (d : List Byte) (b : Block) : (postEventAt s c f d b).ch.spinelOnyx = b.ch.spinelOnyx := (congrArg Channels.spinelOnyx (kept_ch (postEventAt_kept s c f d b) (by decide)) :)
@[simp] theorem postEventAt_onyxOpal (s c f : Nat) (d : List Byte) (b : Block) : (postEventAt s c f d b).ch.onyxOpal = b.ch.onyxOpal := (congrArg Channels.onyxOpal (kept_ch (postEventAt_kept s c f d b) (by decide)) :)
@[simp] theorem postEventAt_stopRequests (s c f : Nat) (d : List Byte) (b : Block) : (postEventAt s c f d b).ch.stopRequests = b.ch.stopRequests := (congrArg Channels.stopRequests (kept_ch (postEventAt_kept s c f d b) (by decide)) :)
@[simp] theorem postEventAt_berylGarnet (s c f : Nat) (d : List Byte) (b : Block) : (postEventAt s c f d b).ch.berylGarnet = b.ch.berylGarnet := (congrArg Channels.berylGarnet (kept_ch (postEventAt_kept s c f d b) (by decide)) :)
@[simp] theorem postEventAt_noticeOpal (s c f : Nat) (d : List Byte) (b : Block) : (postEventAt s c f d b).ch.noticeOpal = b.ch.noticeOpal := (congrArg Channels.noticeOpal (kept_ch (postEventAt_kept s c f d b) (by decide)) :)
@[simp] theorem postEventAt_noticeSpinel (s c f : Nat) (d : List Byte) (b : Block) : (postEventAt s c f d b).ch.noticeSpinel = b.ch.noticeSpinel := (congrArg Channels.noticeSpinel (kept_ch (postEventAt_kept s c f d b) (by decide)) :)
@[simp] theorem postEventAt_noticeOnyx (s c f : Nat) (d : List Byte) (b : Block) : (postEventAt s c f d b).ch.noticeOnyx = b.ch.noticeOnyx := (congrArg Channels.noticeOnyx (kept_ch (postEventAt_kept s c f d b) (by decide)) :)
@[simp] theorem postEventAt_garnetOpal (s c f : Nat) (d : List Byte) (b : Block) : (postEventAt s c f d b).ch.garnetOpal = b.ch.garnetOpal := (congrArg Channels.garnetOpal (kept_ch (postEventAt_kept s c f d b) (by decide)) :)
@[simp] theorem postEventAt_onyxJade (s c f : Nat) (d : List Byte) (b : Block) : (postEventAt s c f d b).ch.onyxJade = b.ch.onyxJade := (congrArg Channels.onyxJade (kept_ch (postEventAt_kept s c f d b) (by decide)) :)
@[simp] theorem postEventAt_spinelJade (s c f : Nat) (d : List Byte) (b : Block) : (postEventAt s c f d b).ch.spinelJade = b.ch.spinelJade := (congrArg Channels.spinelJade (kept_ch (postEventAt_kept s c f d b) (by decide)) :)
@[simp] theorem postEventAt_opalJade (s c f : Nat) (d : List Byte) (b : Block) : (postEventAt s c f d b).ch.opalJade = b.ch.opalJade := (congrArg Channels.opalJade (kept_ch (postEventAt_kept s c f d b) (by decide)) :)
@[simp] theorem postEventAt_onyxSpinel (s c f : Nat) (d : List Byte) (b : Block) : (postEventAt s c f d b).ch.onyxSpinel = b.ch.onyxSpinel := (congrArg Channels.onyxSpinel (kept_ch (postEventAt_kept s c f d b) (by decide)) :)
@[simp] theorem postEventAt_garnetBeryl (s c f : Nat) (d : List Byte) (b : Block) : (postEventAt s c f d b).ch.garnetBeryl = b.ch.garnetBeryl := (congrArg Channels.garnetBeryl (kept_ch (postEventAt_kept s c f d b) (by decide)) :)
@[simp] theorem postEventAt_berylJade (s c f : Nat) (d : List Byte) (b : Block) : (postEventAt s c f d b).ch.berylJade = b.ch.berylJade := (congrArg Channels.berylJade (kept_ch (postEventAt_kept s c f d b) (by decide)) :)
@[simp] theorem postEventAt_berylOpal (s c f : Nat) (d : List Byte) (b : Block) : (postEventAt s c f d b).ch.berylOpal = b.ch.berylOpal := (congrArg Channels.berylOpal (kept_ch (postEventAt_kept s c f d b) (by decide)) :)
@[simp] theorem postEventAt_keepPowered (s c f : Nat) (d : List Byte) (b : Block) : (postEventAt s c f d b).ch.keepPowered = b.ch.keepPowered := (congrArg Channels.keepPowered (kept_ch (postEventAt_kept s c f d b) (by decide)) :)
@[simp] theorem postEventAt_onyxReport (s c f : Nat) (d : List Byte) (b : Block) : (postEventAt s c f d b).ch.onyxReport = b.ch.onyxReport := (congrArg Channels.onyxReport (kept_ch (postEventAt_kept s c f d b) (by decide)) :)
@[simp] theorem postEventAt_opalReport (s c f : Nat) (d : List Byte) (b : Block) : (postEventAt s c f d b).ch.opalReport = b.ch.opalReport := (congrArg Channels.opalReport (kept_ch (postEventAt_kept s c f d b) (by decide)) :)
@[simp] theorem postEventAt_topazGarnet (s c f : Nat) (d : List Byte) (b : Block) : (postEventAt s c f d b).ch.topazGarnet = b.ch.topazGarnet := (congrArg Channels.topazGarnet (kept_ch (postEventAt_kept s c f d b) (by decide)) :)
@[simp] theorem postEventAt_topazOnyx (s c f : Nat) (d : List Byte) (b : Block) : (postEventAt s c f d b).ch.topazOnyx = b.ch.topazOnyx := (congrArg Channels.topazOnyx (kept_ch (postEventAt_kept s c f d b) (by decide)) :)
@[simp] theorem postEventAt_shutSignal (s c f : Nat) (d : List Byte) (b : Block) : (postEventAt s c f d b).ch.shutSignal = b.ch.shutSignal := (congrArg Channels.shutSignal (kept_ch (postEventAt_kept s c f d b) (by decide)) :)
@[simp] theorem postEventAt_telBurn (s c f : Nat) (d : List Byte) (b : Block) : (postEventAt s c f d b).ch.telBurn = b.ch.telBurn := (congrArg Channels.telBurn (kept_ch (postEventAt_kept s c f d b) (by decide)) :)
@[simp] theorem postEventAt_telResult (s c f : Nat) (d : List Byte) (b : Block) : (postEventAt s c f d b).ch.telResult = b.ch.telResult := (congrArg Channels.telResult (kept_ch (postEventAt_kept s c f d b) (by decide)) :)
@[simp] theorem postEventAt_expiry (s c f : Nat) (d : List Byte) (b : Block) : (postEventAt s c f d b).ch.expiry = b.ch.expiry := (congrArg Channels.expiry (kept_ch (postEventAt_kept s c f d b) (by decide)) :)
@[simp] theorem postEventAt_ledgerNotes (s c f : Nat) (d : List Byte) (b : Block) : (postEventAt s c f d b).ch.ledgerNotes = b.ch.ledgerNotes := (congrArg Channels.ledgerNotes (kept_ch (postEventAt_kept s c f d b) (by decide)) :)
@[simp] theorem postEventAt_spinelDests (s c f : Nat) (d : List Byte) (b : Block) : (postEventAt s c f d b).ch.spinelDests = b.ch.spinelDests := (congrArg Channels.spinelDests (kept_ch (postEventAt_kept s c f d b) (by decide)) :)
@[simp] theorem postEventAt_onyxDests (s c f : Nat) (d : List Byte) (b : Block) : (postEventAt s c f d b).ch.onyxDests = b.ch.onyxDests := (congrArg Channels.onyxDests (kept_ch (postEventAt_kept s c f d b) (by decide)) :)
@[simp] theorem postEventAt_opalSpinel (s c f : Nat) (d : List Byte) (b : Block) : (postEventAt s c f d b).ch.opalSpinel = b.ch.opalSpinel := (congrArg Channels.opalSpinel (kept_ch (postEventAt_kept s c f d b) (by decide)) :)
@[simp] theorem postEventAt_opalOnyx (s c f : Nat) (d : List Byte) (b : Block) : (postEventAt s c f d b).ch.opalOnyx = b.ch.opalOnyx := (congrArg Channels.opalOnyx (kept_ch (postEventAt_kept s c f d b) (by decide)) :)
@[simp] theorem postEventAt_egressDue (s c f : Nat) (d : List Byte) (b : Block) : (postEventAt s c f d b).ch.egressDue = b.ch.egressDue := (congrArg Channels.egressDue (kept_ch (postEventAt_kept s c f d b) (by decide)) :)
@[simp] theorem postEventAt_topazOpal (s c f : Nat) (d : List Byte) (b : Block) : (postEventAt s c f d b).ch.topazOpal = b.ch.topazOpal := (congrArg Channels.topazOpal (kept_ch (postEventAt_kept s c f d b) (by decide)) :)
@[simp] theorem postEventAt_takesClosed (s c f : Nat) (d : List Byte) (b : Block) : (postEventAt s c f d b).ch.takesClosed = b.ch.takesClosed := (congrArg Channels.takesClosed (kept_ch (postEventAt_kept s c f d b) (by decide)) :)
@[simp] theorem postEventAt_thm (s c f : Nat) (d : List Byte) (b : Block) : (postEventAt s c f d b).beryl.thm = b.beryl.thm := (postEventAt_kept s c f d b).at_ .thm (by decide)
@[simp] theorem postEventAt_otc (s c f : Nat) (d : List Byte) (b : Block) : (postEventAt s c f d b).beryl.otc = b.beryl.otc := (postEventAt_kept s c f d b).at_ .otc (by decide)
@[simp] theorem postEventAt_evr (s c f : Nat) (d : List Byte) (b : Block) : (postEventAt s c f d b).beryl.evr = b.beryl.evr := (postEventAt_kept s c f d b).at_ .evr (by decide)

/-! ### postEvent -/

theorem postEvent_kept (c f : Nat) (d : List Byte) (b : Block) : onlyChanges [.posts, .out] b (postEvent c f d b) := postEvent_frame (by decide) (onlyChanges_refl _ _)
@[simp] theorem postEvent_quartz (c f : Nat) (d : List Byte) (b : Block) : (postEvent c f d b).quartz = b.quartz := (postEvent_kept c f d b).at_ .quartz (by decide)
@[simp] theorem postEvent_disc (c f : Nat) (d : List Byte) (b : Block) : (postEvent c f d b).disc = b.disc := (postEvent_kept c f d b).at_ .disc (by decide)
@[simp] theorem postEvent_tod (c f : Nat) (d : List Byte) (b : Block) : (postEvent c f d b).tod = b.tod := (postEvent_kept c f d b).at_ .tod (by decide)
@[simp] theorem postEvent_garnet (c f : Nat) (d : List Byte) (b : Block) : (postEvent c f d b).garnet = b.garnet := (postEvent_kept c f d b).at_ .garnet (by decide)
@[simp] theorem postEvent_jade (c f : Nat) (d : List Byte) (b : Block) : (postEvent c f d b).jade = b.jade := (postEvent_kept c f d b).at_ .jade (by decide)
@[simp] theorem postEvent_spinel (c f : Nat) (d : List Byte) (b : Block) : (postEvent c f d b).spinel = b.spinel := (postEvent_kept c f d b).at_ .spinel (by decide)
@[simp] theorem postEvent_onyx (c f : Nat) (d : List Byte) (b : Block) : (postEvent c f d b).onyx = b.onyx := (postEvent_kept c f d b).at_ .onyx (by decide)
@[simp] theorem postEvent_agate (c f : Nat) (d : List Byte) (b : Block) : (postEvent c f d b).agate = b.agate := (postEvent_kept c f d b).at_ .agate (by decide)
@[simp] theorem postEvent_topaz (c f : Nat) (d : List Byte) (b : Block) : (postEvent c f d b).topaz = b.topaz := (postEvent_kept c f d b).at_ .topaz (by decide)
@[simp] theorem postEvent_dram (c f : Nat) (d : List Byte) (b : Block) : (postEvent c f d b).dram = b.dram := (postEvent_kept c f d b).at_ .dram (by decide)
@[simp] theorem postEvent_regs (c f : Nat) (d : List Byte) (b : Block) : (postEvent c f d b).regs = b.regs := (postEvent_kept c f d b).at_ .regs (by decide)
@[simp] theorem postEvent_fresh (c f : Nat) (d : List Byte) (b : Block) : (postEvent c f d b).fresh = b.fresh := (postEvent_kept c f d b).at_ .fresh (by decide)
@[simp] theorem postEvent_ctrlResult (c f : Nat) (d : List Byte) (b : Block) : (postEvent c f d b).opal.ctrlResult = b.opal.ctrlResult := (congrArg Opal.ctrlResult (kept_opal (postEvent_kept c f d b) (by decide)) :)
@[simp] theorem postEvent_dropped (c f : Nat) (d : List Byte) (b : Block) : (postEvent c f d b).opal.dropped = b.opal.dropped := (congrArg Opal.dropped (kept_opal (postEvent_kept c f d b) (by decide)) :)
@[simp] theorem postEvent_lastDoorbell (c f : Nat) (d : List Byte) (b : Block) : (postEvent c f d b).opal.lastDoorbell = b.opal.lastDoorbell := (congrArg Opal.lastDoorbell (kept_opal (postEvent_kept c f d b) (by decide)) :)
@[simp] theorem postEvent_rr (c f : Nat) (d : List Byte) (b : Block) : (postEvent c f d b).opal.rr = b.opal.rr := (congrArg Opal.rr (kept_opal (postEvent_kept c f d b) (by decide)) :)
@[simp] theorem postEvent_failRun (c f : Nat) (d : List Byte) (b : Block) : (postEvent c f d b).opal.failRun = b.opal.failRun := (congrArg Opal.failRun (kept_opal (postEvent_kept c f d b) (by decide)) :)
@[simp] theorem postEvent_msixEnable (c f : Nat) (d : List Byte) (b : Block) : (postEvent c f d b).opal.msixEnable = b.opal.msixEnable := (congrArg Opal.msixEnable (kept_opal (postEvent_kept c f d b) (by decide)) :)
@[simp] theorem postEvent_funcMask (c f : Nat) (d : List Byte) (b : Block) : (postEvent c f d b).opal.funcMask = b.opal.funcMask := (congrArg Opal.funcMask (kept_opal (postEvent_kept c f d b) (by decide)) :)
@[simp] theorem postEvent_ldg (c f : Nat) (d : List Byte) (b : Block) : (postEvent c f d b).opal.ldg = b.opal.ldg := (congrArg Opal.ldg (kept_opal (postEvent_kept c f d b) (by decide)) :)
@[simp] theorem postEvent_ldgResult (c f : Nat) (d : List Byte) (b : Block) : (postEvent c f d b).opal.ldgResult = b.opal.ldgResult := (congrArg Opal.ldgResult (kept_opal (postEvent_kept c f d b) (by decide)) :)
@[simp] theorem postEvent_window (c f : Nat) (d : List Byte) (b : Block) : (postEvent c f d b).opal.window = b.opal.window := (congrArg Opal.window (kept_opal (postEvent_kept c f d b) (by decide)) :)
@[simp] theorem postEvent_nextPub (c f : Nat) (d : List Byte) (b : Block) : (postEvent c f d b).opal.nextPub = b.opal.nextPub := (congrArg Opal.nextPub (kept_opal (postEvent_kept c f d b) (by decide)) :)
@[simp] theorem postEvent_ldgLost (c f : Nat) (d : List Byte) (b : Block) : (postEvent c f d b).opal.ldgLost = b.opal.ldgLost := (congrArg Opal.ldgLost (kept_opal (postEvent_kept c f d b) (by decide)) :)
@[simp] theorem postEvent_sinceMsg (c f : Nat) (d : List Byte) (b : Block) : (postEvent c f d b).opal.sinceMsg = b.opal.sinceMsg := (congrArg Opal.sinceMsg (kept_opal (postEvent_kept c f d b) (by decide)) :)
@[simp] theorem postEvent_held (c f : Nat) (d : List Byte) (b : Block) : (postEvent c f d b).opal.held = b.opal.held := (congrArg Opal.held (kept_opal (postEvent_kept c f d b) (by decide)) :)
@[simp] theorem postEvent_failed (c f : Nat) (d : List Byte) (b : Block) : (postEvent c f d b).opal.failed = b.opal.failed := (congrArg Opal.failed (kept_opal (postEvent_kept c f d b) (by decide)) :)
@[simp] theorem postEvent_takeOpen (c f : Nat) (d : List Byte) (b : Block) : (postEvent c f d b).opal.takeOpen = b.opal.takeOpen := (congrArg Opal.takeOpen (kept_opal (postEvent_kept c f d b) (by decide)) :)
@[simp] theorem postEvent_takeEnds (c f : Nat) (d : List Byte) (b : Block) : (postEvent c f d b).opal.takeEnds = b.opal.takeEnds := (congrArg Opal.takeEnds (kept_opal (postEvent_kept c f d b) (by decide)) :)
@[simp] theorem postEvent_cad1 (c f : Nat) (d : List Byte) (b : Block) : (postEvent c f d b).opal.cad1 = b.opal.cad1 := (congrArg Opal.cad1 (kept_opal (postEvent_kept c f d b) (by decide)) :)
@[simp] theorem postEvent_times (c f : Nat) (d : List Byte) (b : Block) : (postEvent c f d b).opal.times = b.opal.times := (congrArg Opal.times (kept_opal (postEvent_kept c f d b) (by decide)) :)
@[simp] theorem postEvent_link (c f : Nat) (d : List Byte) (b : Block) : (postEvent c f d b).opal.link = b.opal.link := (congrArg Opal.link (kept_opal (postEvent_kept c f d b) (by decide)) :)
@[simp] theorem postEvent_perst (c f : Nat) (d : List Byte) (b : Block) : (postEvent c f d b).opal.perst = b.opal.perst := (congrArg Opal.perst (kept_opal (postEvent_kept c f d b) (by decide)) :)
@[simp] theorem postEvent_flush (c f : Nat) (d : List Byte) (b : Block) : (postEvent c f d b).opal.flush = b.opal.flush := (congrArg Opal.flush (kept_opal (postEvent_kept c f d b) (by decide)) :)
@[simp] theorem postEvent_quartzGarnet (c f : Nat) (d : List Byte) (b : Block) : (postEvent c f d b).ch.quartzGarnet = b.ch.quartzGarnet := (congrArg Channels.quartzGarnet (kept_ch (postEvent_kept c f d b) (by decide)) :)
@[simp] theorem postEvent_quartzAgate (c f : Nat) (d : List Byte) (b : Block) : (postEvent c f d b).ch.quartzAgate = b.ch.quartzAgate := (congrArg Channels.quartzAgate (kept_ch (postEvent_kept c f d b) (by decide)) :)
@[simp] theorem postEvent_quartzOpal (c f : Nat) (d : List Byte) (b : Block) : (postEvent c f d b).ch.quartzOpal = b.ch.quartzOpal := (congrArg Channels.quartzOpal (kept_ch (postEvent_kept c f d b) (by decide)) :)
@[simp] theorem postEvent_agateGarnet (c f : Nat) (d : List Byte) (b : Block) : (postEvent c f d b).ch.agateGarnet = b.ch.agateGarnet := (congrArg Channels.agateGarnet (kept_ch (postEvent_kept c f d b) (by decide)) :)
@[simp] theorem postEvent_garnetJade (c f : Nat) (d : List Byte) (b : Block) : (postEvent c f d b).ch.garnetJade = b.ch.garnetJade := (congrArg Channels.garnetJade (kept_ch (postEvent_kept c f d b) (by decide)) :)
@[simp] theorem postEvent_drnAck (c f : Nat) (d : List Byte) (b : Block) : (postEvent c f d b).ch.drnAck = b.ch.drnAck := (congrArg Channels.drnAck (kept_ch (postEvent_kept c f d b) (by decide)) :)
@[simp] theorem postEvent_jadeSpinel (c f : Nat) (d : List Byte) (b : Block) : (postEvent c f d b).ch.jadeSpinel = b.ch.jadeSpinel := (congrArg Channels.jadeSpinel (kept_ch (postEvent_kept c f d b) (by decide)) :)
@[simp] theorem postEvent_spinelOpal (c f : Nat) (d : List Byte) (b : Block) : (postEvent c f d b).ch.spinelOpal = b.ch.spinelOpal := (congrArg Channels.spinelOpal (kept_ch (postEvent_kept c f d b) (by decide)) :)
@[simp] theorem postEvent_spinelOnyx (c f : Nat) (d : List Byte) (b : Block) : (postEvent c f d b).ch.spinelOnyx = b.ch.spinelOnyx := (congrArg Channels.spinelOnyx (kept_ch (postEvent_kept c f d b) (by decide)) :)
@[simp] theorem postEvent_onyxOpal (c f : Nat) (d : List Byte) (b : Block) : (postEvent c f d b).ch.onyxOpal = b.ch.onyxOpal := (congrArg Channels.onyxOpal (kept_ch (postEvent_kept c f d b) (by decide)) :)
@[simp] theorem postEvent_stopRequests (c f : Nat) (d : List Byte) (b : Block) : (postEvent c f d b).ch.stopRequests = b.ch.stopRequests := (congrArg Channels.stopRequests (kept_ch (postEvent_kept c f d b) (by decide)) :)
@[simp] theorem postEvent_berylGarnet (c f : Nat) (d : List Byte) (b : Block) : (postEvent c f d b).ch.berylGarnet = b.ch.berylGarnet := (congrArg Channels.berylGarnet (kept_ch (postEvent_kept c f d b) (by decide)) :)
@[simp] theorem postEvent_noticeOpal (c f : Nat) (d : List Byte) (b : Block) : (postEvent c f d b).ch.noticeOpal = b.ch.noticeOpal := (congrArg Channels.noticeOpal (kept_ch (postEvent_kept c f d b) (by decide)) :)
@[simp] theorem postEvent_noticeSpinel (c f : Nat) (d : List Byte) (b : Block) : (postEvent c f d b).ch.noticeSpinel = b.ch.noticeSpinel := (congrArg Channels.noticeSpinel (kept_ch (postEvent_kept c f d b) (by decide)) :)
@[simp] theorem postEvent_noticeOnyx (c f : Nat) (d : List Byte) (b : Block) : (postEvent c f d b).ch.noticeOnyx = b.ch.noticeOnyx := (congrArg Channels.noticeOnyx (kept_ch (postEvent_kept c f d b) (by decide)) :)
@[simp] theorem postEvent_garnetOpal (c f : Nat) (d : List Byte) (b : Block) : (postEvent c f d b).ch.garnetOpal = b.ch.garnetOpal := (congrArg Channels.garnetOpal (kept_ch (postEvent_kept c f d b) (by decide)) :)
@[simp] theorem postEvent_onyxJade (c f : Nat) (d : List Byte) (b : Block) : (postEvent c f d b).ch.onyxJade = b.ch.onyxJade := (congrArg Channels.onyxJade (kept_ch (postEvent_kept c f d b) (by decide)) :)
@[simp] theorem postEvent_spinelJade (c f : Nat) (d : List Byte) (b : Block) : (postEvent c f d b).ch.spinelJade = b.ch.spinelJade := (congrArg Channels.spinelJade (kept_ch (postEvent_kept c f d b) (by decide)) :)
@[simp] theorem postEvent_opalJade (c f : Nat) (d : List Byte) (b : Block) : (postEvent c f d b).ch.opalJade = b.ch.opalJade := (congrArg Channels.opalJade (kept_ch (postEvent_kept c f d b) (by decide)) :)
@[simp] theorem postEvent_onyxSpinel (c f : Nat) (d : List Byte) (b : Block) : (postEvent c f d b).ch.onyxSpinel = b.ch.onyxSpinel := (congrArg Channels.onyxSpinel (kept_ch (postEvent_kept c f d b) (by decide)) :)
@[simp] theorem postEvent_garnetBeryl (c f : Nat) (d : List Byte) (b : Block) : (postEvent c f d b).ch.garnetBeryl = b.ch.garnetBeryl := (congrArg Channels.garnetBeryl (kept_ch (postEvent_kept c f d b) (by decide)) :)
@[simp] theorem postEvent_berylJade (c f : Nat) (d : List Byte) (b : Block) : (postEvent c f d b).ch.berylJade = b.ch.berylJade := (congrArg Channels.berylJade (kept_ch (postEvent_kept c f d b) (by decide)) :)
@[simp] theorem postEvent_berylOpal (c f : Nat) (d : List Byte) (b : Block) : (postEvent c f d b).ch.berylOpal = b.ch.berylOpal := (congrArg Channels.berylOpal (kept_ch (postEvent_kept c f d b) (by decide)) :)
@[simp] theorem postEvent_keepPowered (c f : Nat) (d : List Byte) (b : Block) : (postEvent c f d b).ch.keepPowered = b.ch.keepPowered := (congrArg Channels.keepPowered (kept_ch (postEvent_kept c f d b) (by decide)) :)
@[simp] theorem postEvent_onyxReport (c f : Nat) (d : List Byte) (b : Block) : (postEvent c f d b).ch.onyxReport = b.ch.onyxReport := (congrArg Channels.onyxReport (kept_ch (postEvent_kept c f d b) (by decide)) :)
@[simp] theorem postEvent_opalReport (c f : Nat) (d : List Byte) (b : Block) : (postEvent c f d b).ch.opalReport = b.ch.opalReport := (congrArg Channels.opalReport (kept_ch (postEvent_kept c f d b) (by decide)) :)
@[simp] theorem postEvent_topazGarnet (c f : Nat) (d : List Byte) (b : Block) : (postEvent c f d b).ch.topazGarnet = b.ch.topazGarnet := (congrArg Channels.topazGarnet (kept_ch (postEvent_kept c f d b) (by decide)) :)
@[simp] theorem postEvent_topazOnyx (c f : Nat) (d : List Byte) (b : Block) : (postEvent c f d b).ch.topazOnyx = b.ch.topazOnyx := (congrArg Channels.topazOnyx (kept_ch (postEvent_kept c f d b) (by decide)) :)
@[simp] theorem postEvent_shutSignal (c f : Nat) (d : List Byte) (b : Block) : (postEvent c f d b).ch.shutSignal = b.ch.shutSignal := (congrArg Channels.shutSignal (kept_ch (postEvent_kept c f d b) (by decide)) :)
@[simp] theorem postEvent_telBurn (c f : Nat) (d : List Byte) (b : Block) : (postEvent c f d b).ch.telBurn = b.ch.telBurn := (congrArg Channels.telBurn (kept_ch (postEvent_kept c f d b) (by decide)) :)
@[simp] theorem postEvent_telResult (c f : Nat) (d : List Byte) (b : Block) : (postEvent c f d b).ch.telResult = b.ch.telResult := (congrArg Channels.telResult (kept_ch (postEvent_kept c f d b) (by decide)) :)
@[simp] theorem postEvent_expiry (c f : Nat) (d : List Byte) (b : Block) : (postEvent c f d b).ch.expiry = b.ch.expiry := (congrArg Channels.expiry (kept_ch (postEvent_kept c f d b) (by decide)) :)
@[simp] theorem postEvent_ledgerNotes (c f : Nat) (d : List Byte) (b : Block) : (postEvent c f d b).ch.ledgerNotes = b.ch.ledgerNotes := (congrArg Channels.ledgerNotes (kept_ch (postEvent_kept c f d b) (by decide)) :)
@[simp] theorem postEvent_spinelDests (c f : Nat) (d : List Byte) (b : Block) : (postEvent c f d b).ch.spinelDests = b.ch.spinelDests := (congrArg Channels.spinelDests (kept_ch (postEvent_kept c f d b) (by decide)) :)
@[simp] theorem postEvent_onyxDests (c f : Nat) (d : List Byte) (b : Block) : (postEvent c f d b).ch.onyxDests = b.ch.onyxDests := (congrArg Channels.onyxDests (kept_ch (postEvent_kept c f d b) (by decide)) :)
@[simp] theorem postEvent_opalSpinel (c f : Nat) (d : List Byte) (b : Block) : (postEvent c f d b).ch.opalSpinel = b.ch.opalSpinel := (congrArg Channels.opalSpinel (kept_ch (postEvent_kept c f d b) (by decide)) :)
@[simp] theorem postEvent_opalOnyx (c f : Nat) (d : List Byte) (b : Block) : (postEvent c f d b).ch.opalOnyx = b.ch.opalOnyx := (congrArg Channels.opalOnyx (kept_ch (postEvent_kept c f d b) (by decide)) :)
@[simp] theorem postEvent_egressDue (c f : Nat) (d : List Byte) (b : Block) : (postEvent c f d b).ch.egressDue = b.ch.egressDue := (congrArg Channels.egressDue (kept_ch (postEvent_kept c f d b) (by decide)) :)
@[simp] theorem postEvent_topazOpal (c f : Nat) (d : List Byte) (b : Block) : (postEvent c f d b).ch.topazOpal = b.ch.topazOpal := (congrArg Channels.topazOpal (kept_ch (postEvent_kept c f d b) (by decide)) :)
@[simp] theorem postEvent_takesClosed (c f : Nat) (d : List Byte) (b : Block) : (postEvent c f d b).ch.takesClosed = b.ch.takesClosed := (congrArg Channels.takesClosed (kept_ch (postEvent_kept c f d b) (by decide)) :)
@[simp] theorem postEvent_thm (c f : Nat) (d : List Byte) (b : Block) : (postEvent c f d b).beryl.thm = b.beryl.thm := (postEvent_kept c f d b).at_ .thm (by decide)
@[simp] theorem postEvent_otc (c f : Nat) (d : List Byte) (b : Block) : (postEvent c f d b).beryl.otc = b.beryl.otc := (postEvent_kept c f d b).at_ .otc (by decide)
@[simp] theorem postEvent_evr (c f : Nat) (d : List Byte) (b : Block) : (postEvent c f d b).beryl.evr = b.beryl.evr := (postEvent_kept c f d b).at_ .evr (by decide)

/-! ### serveRing -/

theorem serveRing_kept (r : Nat) (b : Block) : onlyChanges [.posts, .evr, .trace, .out] b (serveRing r b) := serveRing_frame (by decide) (onlyChanges_refl _ _)
@[simp] theorem serveRing_quartz (r : Nat) (b : Block) : (serveRing r b).quartz = b.quartz := (serveRing_kept r b).at_ .quartz (by decide)
@[simp] theorem serveRing_disc (r : Nat) (b : Block) : (serveRing r b).disc = b.disc := (serveRing_kept r b).at_ .disc (by decide)
@[simp] theorem serveRing_tod (r : Nat) (b : Block) : (serveRing r b).tod = b.tod := (serveRing_kept r b).at_ .tod (by decide)
@[simp] theorem serveRing_garnet (r : Nat) (b : Block) : (serveRing r b).garnet = b.garnet := (serveRing_kept r b).at_ .garnet (by decide)
@[simp] theorem serveRing_jade (r : Nat) (b : Block) : (serveRing r b).jade = b.jade := (serveRing_kept r b).at_ .jade (by decide)
@[simp] theorem serveRing_spinel (r : Nat) (b : Block) : (serveRing r b).spinel = b.spinel := (serveRing_kept r b).at_ .spinel (by decide)
@[simp] theorem serveRing_onyx (r : Nat) (b : Block) : (serveRing r b).onyx = b.onyx := (serveRing_kept r b).at_ .onyx (by decide)
@[simp] theorem serveRing_agate (r : Nat) (b : Block) : (serveRing r b).agate = b.agate := (serveRing_kept r b).at_ .agate (by decide)
@[simp] theorem serveRing_topaz (r : Nat) (b : Block) : (serveRing r b).topaz = b.topaz := (serveRing_kept r b).at_ .topaz (by decide)
@[simp] theorem serveRing_dram (r : Nat) (b : Block) : (serveRing r b).dram = b.dram := (serveRing_kept r b).at_ .dram (by decide)
@[simp] theorem serveRing_regs (r : Nat) (b : Block) : (serveRing r b).regs = b.regs := (serveRing_kept r b).at_ .regs (by decide)
@[simp] theorem serveRing_fresh (r : Nat) (b : Block) : (serveRing r b).fresh = b.fresh := (serveRing_kept r b).at_ .fresh (by decide)
@[simp] theorem serveRing_ctrlResult (r : Nat) (b : Block) : (serveRing r b).opal.ctrlResult = b.opal.ctrlResult := (congrArg Opal.ctrlResult (kept_opal (serveRing_kept r b) (by decide)) :)
@[simp] theorem serveRing_dropped (r : Nat) (b : Block) : (serveRing r b).opal.dropped = b.opal.dropped := (congrArg Opal.dropped (kept_opal (serveRing_kept r b) (by decide)) :)
@[simp] theorem serveRing_lastDoorbell (r : Nat) (b : Block) : (serveRing r b).opal.lastDoorbell = b.opal.lastDoorbell := (congrArg Opal.lastDoorbell (kept_opal (serveRing_kept r b) (by decide)) :)
@[simp] theorem serveRing_rr (r : Nat) (b : Block) : (serveRing r b).opal.rr = b.opal.rr := (congrArg Opal.rr (kept_opal (serveRing_kept r b) (by decide)) :)
@[simp] theorem serveRing_failRun (r : Nat) (b : Block) : (serveRing r b).opal.failRun = b.opal.failRun := (congrArg Opal.failRun (kept_opal (serveRing_kept r b) (by decide)) :)
@[simp] theorem serveRing_msixEnable (r : Nat) (b : Block) : (serveRing r b).opal.msixEnable = b.opal.msixEnable := (congrArg Opal.msixEnable (kept_opal (serveRing_kept r b) (by decide)) :)
@[simp] theorem serveRing_funcMask (r : Nat) (b : Block) : (serveRing r b).opal.funcMask = b.opal.funcMask := (congrArg Opal.funcMask (kept_opal (serveRing_kept r b) (by decide)) :)
@[simp] theorem serveRing_ldg (r : Nat) (b : Block) : (serveRing r b).opal.ldg = b.opal.ldg := (congrArg Opal.ldg (kept_opal (serveRing_kept r b) (by decide)) :)
@[simp] theorem serveRing_ldgResult (r : Nat) (b : Block) : (serveRing r b).opal.ldgResult = b.opal.ldgResult := (congrArg Opal.ldgResult (kept_opal (serveRing_kept r b) (by decide)) :)
@[simp] theorem serveRing_window (r : Nat) (b : Block) : (serveRing r b).opal.window = b.opal.window := (congrArg Opal.window (kept_opal (serveRing_kept r b) (by decide)) :)
@[simp] theorem serveRing_nextPub (r : Nat) (b : Block) : (serveRing r b).opal.nextPub = b.opal.nextPub := (congrArg Opal.nextPub (kept_opal (serveRing_kept r b) (by decide)) :)
@[simp] theorem serveRing_ldgLost (r : Nat) (b : Block) : (serveRing r b).opal.ldgLost = b.opal.ldgLost := (congrArg Opal.ldgLost (kept_opal (serveRing_kept r b) (by decide)) :)
@[simp] theorem serveRing_sinceMsg (r : Nat) (b : Block) : (serveRing r b).opal.sinceMsg = b.opal.sinceMsg := (congrArg Opal.sinceMsg (kept_opal (serveRing_kept r b) (by decide)) :)
@[simp] theorem serveRing_held (r : Nat) (b : Block) : (serveRing r b).opal.held = b.opal.held := (congrArg Opal.held (kept_opal (serveRing_kept r b) (by decide)) :)
@[simp] theorem serveRing_failed (r : Nat) (b : Block) : (serveRing r b).opal.failed = b.opal.failed := (congrArg Opal.failed (kept_opal (serveRing_kept r b) (by decide)) :)
@[simp] theorem serveRing_takeOpen (r : Nat) (b : Block) : (serveRing r b).opal.takeOpen = b.opal.takeOpen := (congrArg Opal.takeOpen (kept_opal (serveRing_kept r b) (by decide)) :)
@[simp] theorem serveRing_takeEnds (r : Nat) (b : Block) : (serveRing r b).opal.takeEnds = b.opal.takeEnds := (congrArg Opal.takeEnds (kept_opal (serveRing_kept r b) (by decide)) :)
@[simp] theorem serveRing_cad1 (r : Nat) (b : Block) : (serveRing r b).opal.cad1 = b.opal.cad1 := (congrArg Opal.cad1 (kept_opal (serveRing_kept r b) (by decide)) :)
@[simp] theorem serveRing_times (r : Nat) (b : Block) : (serveRing r b).opal.times = b.opal.times := (congrArg Opal.times (kept_opal (serveRing_kept r b) (by decide)) :)
@[simp] theorem serveRing_link (r : Nat) (b : Block) : (serveRing r b).opal.link = b.opal.link := (congrArg Opal.link (kept_opal (serveRing_kept r b) (by decide)) :)
@[simp] theorem serveRing_perst (r : Nat) (b : Block) : (serveRing r b).opal.perst = b.opal.perst := (congrArg Opal.perst (kept_opal (serveRing_kept r b) (by decide)) :)
@[simp] theorem serveRing_flush (r : Nat) (b : Block) : (serveRing r b).opal.flush = b.opal.flush := (congrArg Opal.flush (kept_opal (serveRing_kept r b) (by decide)) :)
@[simp] theorem serveRing_quartzGarnet (r : Nat) (b : Block) : (serveRing r b).ch.quartzGarnet = b.ch.quartzGarnet := (congrArg Channels.quartzGarnet (kept_ch (serveRing_kept r b) (by decide)) :)
@[simp] theorem serveRing_quartzAgate (r : Nat) (b : Block) : (serveRing r b).ch.quartzAgate = b.ch.quartzAgate := (congrArg Channels.quartzAgate (kept_ch (serveRing_kept r b) (by decide)) :)
@[simp] theorem serveRing_quartzOpal (r : Nat) (b : Block) : (serveRing r b).ch.quartzOpal = b.ch.quartzOpal := (congrArg Channels.quartzOpal (kept_ch (serveRing_kept r b) (by decide)) :)
@[simp] theorem serveRing_agateGarnet (r : Nat) (b : Block) : (serveRing r b).ch.agateGarnet = b.ch.agateGarnet := (congrArg Channels.agateGarnet (kept_ch (serveRing_kept r b) (by decide)) :)
@[simp] theorem serveRing_garnetJade (r : Nat) (b : Block) : (serveRing r b).ch.garnetJade = b.ch.garnetJade := (congrArg Channels.garnetJade (kept_ch (serveRing_kept r b) (by decide)) :)
@[simp] theorem serveRing_drnAck (r : Nat) (b : Block) : (serveRing r b).ch.drnAck = b.ch.drnAck := (congrArg Channels.drnAck (kept_ch (serveRing_kept r b) (by decide)) :)
@[simp] theorem serveRing_jadeSpinel (r : Nat) (b : Block) : (serveRing r b).ch.jadeSpinel = b.ch.jadeSpinel := (congrArg Channels.jadeSpinel (kept_ch (serveRing_kept r b) (by decide)) :)
@[simp] theorem serveRing_spinelOpal (r : Nat) (b : Block) : (serveRing r b).ch.spinelOpal = b.ch.spinelOpal := (congrArg Channels.spinelOpal (kept_ch (serveRing_kept r b) (by decide)) :)
@[simp] theorem serveRing_spinelOnyx (r : Nat) (b : Block) : (serveRing r b).ch.spinelOnyx = b.ch.spinelOnyx := (congrArg Channels.spinelOnyx (kept_ch (serveRing_kept r b) (by decide)) :)
@[simp] theorem serveRing_onyxOpal (r : Nat) (b : Block) : (serveRing r b).ch.onyxOpal = b.ch.onyxOpal := (congrArg Channels.onyxOpal (kept_ch (serveRing_kept r b) (by decide)) :)
@[simp] theorem serveRing_stopRequests (r : Nat) (b : Block) : (serveRing r b).ch.stopRequests = b.ch.stopRequests := (congrArg Channels.stopRequests (kept_ch (serveRing_kept r b) (by decide)) :)
@[simp] theorem serveRing_berylGarnet (r : Nat) (b : Block) : (serveRing r b).ch.berylGarnet = b.ch.berylGarnet := (congrArg Channels.berylGarnet (kept_ch (serveRing_kept r b) (by decide)) :)
@[simp] theorem serveRing_noticeOpal (r : Nat) (b : Block) : (serveRing r b).ch.noticeOpal = b.ch.noticeOpal := (congrArg Channels.noticeOpal (kept_ch (serveRing_kept r b) (by decide)) :)
@[simp] theorem serveRing_noticeSpinel (r : Nat) (b : Block) : (serveRing r b).ch.noticeSpinel = b.ch.noticeSpinel := (congrArg Channels.noticeSpinel (kept_ch (serveRing_kept r b) (by decide)) :)
@[simp] theorem serveRing_noticeOnyx (r : Nat) (b : Block) : (serveRing r b).ch.noticeOnyx = b.ch.noticeOnyx := (congrArg Channels.noticeOnyx (kept_ch (serveRing_kept r b) (by decide)) :)
@[simp] theorem serveRing_garnetOpal (r : Nat) (b : Block) : (serveRing r b).ch.garnetOpal = b.ch.garnetOpal := (congrArg Channels.garnetOpal (kept_ch (serveRing_kept r b) (by decide)) :)
@[simp] theorem serveRing_onyxJade (r : Nat) (b : Block) : (serveRing r b).ch.onyxJade = b.ch.onyxJade := (congrArg Channels.onyxJade (kept_ch (serveRing_kept r b) (by decide)) :)
@[simp] theorem serveRing_spinelJade (r : Nat) (b : Block) : (serveRing r b).ch.spinelJade = b.ch.spinelJade := (congrArg Channels.spinelJade (kept_ch (serveRing_kept r b) (by decide)) :)
@[simp] theorem serveRing_opalJade (r : Nat) (b : Block) : (serveRing r b).ch.opalJade = b.ch.opalJade := (congrArg Channels.opalJade (kept_ch (serveRing_kept r b) (by decide)) :)
@[simp] theorem serveRing_onyxSpinel (r : Nat) (b : Block) : (serveRing r b).ch.onyxSpinel = b.ch.onyxSpinel := (congrArg Channels.onyxSpinel (kept_ch (serveRing_kept r b) (by decide)) :)
@[simp] theorem serveRing_garnetBeryl (r : Nat) (b : Block) : (serveRing r b).ch.garnetBeryl = b.ch.garnetBeryl := (congrArg Channels.garnetBeryl (kept_ch (serveRing_kept r b) (by decide)) :)
@[simp] theorem serveRing_berylJade (r : Nat) (b : Block) : (serveRing r b).ch.berylJade = b.ch.berylJade := (congrArg Channels.berylJade (kept_ch (serveRing_kept r b) (by decide)) :)
@[simp] theorem serveRing_berylOpal (r : Nat) (b : Block) : (serveRing r b).ch.berylOpal = b.ch.berylOpal := (congrArg Channels.berylOpal (kept_ch (serveRing_kept r b) (by decide)) :)
@[simp] theorem serveRing_keepPowered (r : Nat) (b : Block) : (serveRing r b).ch.keepPowered = b.ch.keepPowered := (congrArg Channels.keepPowered (kept_ch (serveRing_kept r b) (by decide)) :)
@[simp] theorem serveRing_onyxReport (r : Nat) (b : Block) : (serveRing r b).ch.onyxReport = b.ch.onyxReport := (congrArg Channels.onyxReport (kept_ch (serveRing_kept r b) (by decide)) :)
@[simp] theorem serveRing_opalReport (r : Nat) (b : Block) : (serveRing r b).ch.opalReport = b.ch.opalReport := (congrArg Channels.opalReport (kept_ch (serveRing_kept r b) (by decide)) :)
@[simp] theorem serveRing_topazGarnet (r : Nat) (b : Block) : (serveRing r b).ch.topazGarnet = b.ch.topazGarnet := (congrArg Channels.topazGarnet (kept_ch (serveRing_kept r b) (by decide)) :)
@[simp] theorem serveRing_topazOnyx (r : Nat) (b : Block) : (serveRing r b).ch.topazOnyx = b.ch.topazOnyx := (congrArg Channels.topazOnyx (kept_ch (serveRing_kept r b) (by decide)) :)
@[simp] theorem serveRing_shutSignal (r : Nat) (b : Block) : (serveRing r b).ch.shutSignal = b.ch.shutSignal := (congrArg Channels.shutSignal (kept_ch (serveRing_kept r b) (by decide)) :)
@[simp] theorem serveRing_telBurn (r : Nat) (b : Block) : (serveRing r b).ch.telBurn = b.ch.telBurn := (congrArg Channels.telBurn (kept_ch (serveRing_kept r b) (by decide)) :)
@[simp] theorem serveRing_telResult (r : Nat) (b : Block) : (serveRing r b).ch.telResult = b.ch.telResult := (congrArg Channels.telResult (kept_ch (serveRing_kept r b) (by decide)) :)
@[simp] theorem serveRing_expiry (r : Nat) (b : Block) : (serveRing r b).ch.expiry = b.ch.expiry := (congrArg Channels.expiry (kept_ch (serveRing_kept r b) (by decide)) :)
@[simp] theorem serveRing_ledgerNotes (r : Nat) (b : Block) : (serveRing r b).ch.ledgerNotes = b.ch.ledgerNotes := (congrArg Channels.ledgerNotes (kept_ch (serveRing_kept r b) (by decide)) :)
@[simp] theorem serveRing_spinelDests (r : Nat) (b : Block) : (serveRing r b).ch.spinelDests = b.ch.spinelDests := (congrArg Channels.spinelDests (kept_ch (serveRing_kept r b) (by decide)) :)
@[simp] theorem serveRing_onyxDests (r : Nat) (b : Block) : (serveRing r b).ch.onyxDests = b.ch.onyxDests := (congrArg Channels.onyxDests (kept_ch (serveRing_kept r b) (by decide)) :)
@[simp] theorem serveRing_opalSpinel (r : Nat) (b : Block) : (serveRing r b).ch.opalSpinel = b.ch.opalSpinel := (congrArg Channels.opalSpinel (kept_ch (serveRing_kept r b) (by decide)) :)
@[simp] theorem serveRing_opalOnyx (r : Nat) (b : Block) : (serveRing r b).ch.opalOnyx = b.ch.opalOnyx := (congrArg Channels.opalOnyx (kept_ch (serveRing_kept r b) (by decide)) :)
@[simp] theorem serveRing_egressDue (r : Nat) (b : Block) : (serveRing r b).ch.egressDue = b.ch.egressDue := (congrArg Channels.egressDue (kept_ch (serveRing_kept r b) (by decide)) :)
@[simp] theorem serveRing_topazOpal (r : Nat) (b : Block) : (serveRing r b).ch.topazOpal = b.ch.topazOpal := (congrArg Channels.topazOpal (kept_ch (serveRing_kept r b) (by decide)) :)
@[simp] theorem serveRing_takesClosed (r : Nat) (b : Block) : (serveRing r b).ch.takesClosed = b.ch.takesClosed := (congrArg Channels.takesClosed (kept_ch (serveRing_kept r b) (by decide)) :)
@[simp] theorem serveRing_thm (r : Nat) (b : Block) : (serveRing r b).beryl.thm = b.beryl.thm := (serveRing_kept r b).at_ .thm (by decide)
@[simp] theorem serveRing_otc (r : Nat) (b : Block) : (serveRing r b).beryl.otc = b.beryl.otc := (serveRing_kept r b).at_ .otc (by decide)

/-! ### finish -/

theorem finish_kept (r i s f v e : Nat) (b : Block) : onlyChanges [.posts, .evr, .trace, .out] b (finish r i s f v e b) := finish_frame (by decide) (onlyChanges_refl _ _)
@[simp] theorem finish_quartz (r i s f v e : Nat) (b : Block) : (finish r i s f v e b).quartz = b.quartz := (finish_kept r i s f v e b).at_ .quartz (by decide)
@[simp] theorem finish_disc (r i s f v e : Nat) (b : Block) : (finish r i s f v e b).disc = b.disc := (finish_kept r i s f v e b).at_ .disc (by decide)
@[simp] theorem finish_tod (r i s f v e : Nat) (b : Block) : (finish r i s f v e b).tod = b.tod := (finish_kept r i s f v e b).at_ .tod (by decide)
@[simp] theorem finish_garnet (r i s f v e : Nat) (b : Block) : (finish r i s f v e b).garnet = b.garnet := (finish_kept r i s f v e b).at_ .garnet (by decide)
@[simp] theorem finish_jade (r i s f v e : Nat) (b : Block) : (finish r i s f v e b).jade = b.jade := (finish_kept r i s f v e b).at_ .jade (by decide)
@[simp] theorem finish_spinel (r i s f v e : Nat) (b : Block) : (finish r i s f v e b).spinel = b.spinel := (finish_kept r i s f v e b).at_ .spinel (by decide)
@[simp] theorem finish_onyx (r i s f v e : Nat) (b : Block) : (finish r i s f v e b).onyx = b.onyx := (finish_kept r i s f v e b).at_ .onyx (by decide)
@[simp] theorem finish_agate (r i s f v e : Nat) (b : Block) : (finish r i s f v e b).agate = b.agate := (finish_kept r i s f v e b).at_ .agate (by decide)
@[simp] theorem finish_topaz (r i s f v e : Nat) (b : Block) : (finish r i s f v e b).topaz = b.topaz := (finish_kept r i s f v e b).at_ .topaz (by decide)
@[simp] theorem finish_dram (r i s f v e : Nat) (b : Block) : (finish r i s f v e b).dram = b.dram := (finish_kept r i s f v e b).at_ .dram (by decide)
@[simp] theorem finish_regs (r i s f v e : Nat) (b : Block) : (finish r i s f v e b).regs = b.regs := (finish_kept r i s f v e b).at_ .regs (by decide)
@[simp] theorem finish_fresh (r i s f v e : Nat) (b : Block) : (finish r i s f v e b).fresh = b.fresh := (finish_kept r i s f v e b).at_ .fresh (by decide)
@[simp] theorem finish_ctrlResult (r i s f v e : Nat) (b : Block) : (finish r i s f v e b).opal.ctrlResult = b.opal.ctrlResult := (congrArg Opal.ctrlResult (kept_opal (finish_kept r i s f v e b) (by decide)) :)
@[simp] theorem finish_dropped (r i s f v e : Nat) (b : Block) : (finish r i s f v e b).opal.dropped = b.opal.dropped := (congrArg Opal.dropped (kept_opal (finish_kept r i s f v e b) (by decide)) :)
@[simp] theorem finish_lastDoorbell (r i s f v e : Nat) (b : Block) : (finish r i s f v e b).opal.lastDoorbell = b.opal.lastDoorbell := (congrArg Opal.lastDoorbell (kept_opal (finish_kept r i s f v e b) (by decide)) :)
@[simp] theorem finish_rr (r i s f v e : Nat) (b : Block) : (finish r i s f v e b).opal.rr = b.opal.rr := (congrArg Opal.rr (kept_opal (finish_kept r i s f v e b) (by decide)) :)
@[simp] theorem finish_failRun (r i s f v e : Nat) (b : Block) : (finish r i s f v e b).opal.failRun = b.opal.failRun := (congrArg Opal.failRun (kept_opal (finish_kept r i s f v e b) (by decide)) :)
@[simp] theorem finish_msixEnable (r i s f v e : Nat) (b : Block) : (finish r i s f v e b).opal.msixEnable = b.opal.msixEnable := (congrArg Opal.msixEnable (kept_opal (finish_kept r i s f v e b) (by decide)) :)
@[simp] theorem finish_funcMask (r i s f v e : Nat) (b : Block) : (finish r i s f v e b).opal.funcMask = b.opal.funcMask := (congrArg Opal.funcMask (kept_opal (finish_kept r i s f v e b) (by decide)) :)
@[simp] theorem finish_ldg (r i s f v e : Nat) (b : Block) : (finish r i s f v e b).opal.ldg = b.opal.ldg := (congrArg Opal.ldg (kept_opal (finish_kept r i s f v e b) (by decide)) :)
@[simp] theorem finish_ldgResult (r i s f v e : Nat) (b : Block) : (finish r i s f v e b).opal.ldgResult = b.opal.ldgResult := (congrArg Opal.ldgResult (kept_opal (finish_kept r i s f v e b) (by decide)) :)
@[simp] theorem finish_window (r i s f v e : Nat) (b : Block) : (finish r i s f v e b).opal.window = b.opal.window := (congrArg Opal.window (kept_opal (finish_kept r i s f v e b) (by decide)) :)
@[simp] theorem finish_nextPub (r i s f v e : Nat) (b : Block) : (finish r i s f v e b).opal.nextPub = b.opal.nextPub := (congrArg Opal.nextPub (kept_opal (finish_kept r i s f v e b) (by decide)) :)
@[simp] theorem finish_ldgLost (r i s f v e : Nat) (b : Block) : (finish r i s f v e b).opal.ldgLost = b.opal.ldgLost := (congrArg Opal.ldgLost (kept_opal (finish_kept r i s f v e b) (by decide)) :)
@[simp] theorem finish_sinceMsg (r i s f v e : Nat) (b : Block) : (finish r i s f v e b).opal.sinceMsg = b.opal.sinceMsg := (congrArg Opal.sinceMsg (kept_opal (finish_kept r i s f v e b) (by decide)) :)
@[simp] theorem finish_held (r i s f v e : Nat) (b : Block) : (finish r i s f v e b).opal.held = b.opal.held := (congrArg Opal.held (kept_opal (finish_kept r i s f v e b) (by decide)) :)
@[simp] theorem finish_failed (r i s f v e : Nat) (b : Block) : (finish r i s f v e b).opal.failed = b.opal.failed := (congrArg Opal.failed (kept_opal (finish_kept r i s f v e b) (by decide)) :)
@[simp] theorem finish_takeOpen (r i s f v e : Nat) (b : Block) : (finish r i s f v e b).opal.takeOpen = b.opal.takeOpen := (congrArg Opal.takeOpen (kept_opal (finish_kept r i s f v e b) (by decide)) :)
@[simp] theorem finish_takeEnds (r i s f v e : Nat) (b : Block) : (finish r i s f v e b).opal.takeEnds = b.opal.takeEnds := (congrArg Opal.takeEnds (kept_opal (finish_kept r i s f v e b) (by decide)) :)
@[simp] theorem finish_cad1 (r i s f v e : Nat) (b : Block) : (finish r i s f v e b).opal.cad1 = b.opal.cad1 := (congrArg Opal.cad1 (kept_opal (finish_kept r i s f v e b) (by decide)) :)
@[simp] theorem finish_times (r i s f v e : Nat) (b : Block) : (finish r i s f v e b).opal.times = b.opal.times := (congrArg Opal.times (kept_opal (finish_kept r i s f v e b) (by decide)) :)
@[simp] theorem finish_link (r i s f v e : Nat) (b : Block) : (finish r i s f v e b).opal.link = b.opal.link := (congrArg Opal.link (kept_opal (finish_kept r i s f v e b) (by decide)) :)
@[simp] theorem finish_perst (r i s f v e : Nat) (b : Block) : (finish r i s f v e b).opal.perst = b.opal.perst := (congrArg Opal.perst (kept_opal (finish_kept r i s f v e b) (by decide)) :)
@[simp] theorem finish_flush (r i s f v e : Nat) (b : Block) : (finish r i s f v e b).opal.flush = b.opal.flush := (congrArg Opal.flush (kept_opal (finish_kept r i s f v e b) (by decide)) :)
@[simp] theorem finish_quartzGarnet (r i s f v e : Nat) (b : Block) : (finish r i s f v e b).ch.quartzGarnet = b.ch.quartzGarnet := (congrArg Channels.quartzGarnet (kept_ch (finish_kept r i s f v e b) (by decide)) :)
@[simp] theorem finish_quartzAgate (r i s f v e : Nat) (b : Block) : (finish r i s f v e b).ch.quartzAgate = b.ch.quartzAgate := (congrArg Channels.quartzAgate (kept_ch (finish_kept r i s f v e b) (by decide)) :)
@[simp] theorem finish_quartzOpal (r i s f v e : Nat) (b : Block) : (finish r i s f v e b).ch.quartzOpal = b.ch.quartzOpal := (congrArg Channels.quartzOpal (kept_ch (finish_kept r i s f v e b) (by decide)) :)
@[simp] theorem finish_agateGarnet (r i s f v e : Nat) (b : Block) : (finish r i s f v e b).ch.agateGarnet = b.ch.agateGarnet := (congrArg Channels.agateGarnet (kept_ch (finish_kept r i s f v e b) (by decide)) :)
@[simp] theorem finish_garnetJade (r i s f v e : Nat) (b : Block) : (finish r i s f v e b).ch.garnetJade = b.ch.garnetJade := (congrArg Channels.garnetJade (kept_ch (finish_kept r i s f v e b) (by decide)) :)
@[simp] theorem finish_drnAck (r i s f v e : Nat) (b : Block) : (finish r i s f v e b).ch.drnAck = b.ch.drnAck := (congrArg Channels.drnAck (kept_ch (finish_kept r i s f v e b) (by decide)) :)
@[simp] theorem finish_jadeSpinel (r i s f v e : Nat) (b : Block) : (finish r i s f v e b).ch.jadeSpinel = b.ch.jadeSpinel := (congrArg Channels.jadeSpinel (kept_ch (finish_kept r i s f v e b) (by decide)) :)
@[simp] theorem finish_spinelOpal (r i s f v e : Nat) (b : Block) : (finish r i s f v e b).ch.spinelOpal = b.ch.spinelOpal := (congrArg Channels.spinelOpal (kept_ch (finish_kept r i s f v e b) (by decide)) :)
@[simp] theorem finish_spinelOnyx (r i s f v e : Nat) (b : Block) : (finish r i s f v e b).ch.spinelOnyx = b.ch.spinelOnyx := (congrArg Channels.spinelOnyx (kept_ch (finish_kept r i s f v e b) (by decide)) :)
@[simp] theorem finish_onyxOpal (r i s f v e : Nat) (b : Block) : (finish r i s f v e b).ch.onyxOpal = b.ch.onyxOpal := (congrArg Channels.onyxOpal (kept_ch (finish_kept r i s f v e b) (by decide)) :)
@[simp] theorem finish_stopRequests (r i s f v e : Nat) (b : Block) : (finish r i s f v e b).ch.stopRequests = b.ch.stopRequests := (congrArg Channels.stopRequests (kept_ch (finish_kept r i s f v e b) (by decide)) :)
@[simp] theorem finish_berylGarnet (r i s f v e : Nat) (b : Block) : (finish r i s f v e b).ch.berylGarnet = b.ch.berylGarnet := (congrArg Channels.berylGarnet (kept_ch (finish_kept r i s f v e b) (by decide)) :)
@[simp] theorem finish_noticeOpal (r i s f v e : Nat) (b : Block) : (finish r i s f v e b).ch.noticeOpal = b.ch.noticeOpal := (congrArg Channels.noticeOpal (kept_ch (finish_kept r i s f v e b) (by decide)) :)
@[simp] theorem finish_noticeSpinel (r i s f v e : Nat) (b : Block) : (finish r i s f v e b).ch.noticeSpinel = b.ch.noticeSpinel := (congrArg Channels.noticeSpinel (kept_ch (finish_kept r i s f v e b) (by decide)) :)
@[simp] theorem finish_noticeOnyx (r i s f v e : Nat) (b : Block) : (finish r i s f v e b).ch.noticeOnyx = b.ch.noticeOnyx := (congrArg Channels.noticeOnyx (kept_ch (finish_kept r i s f v e b) (by decide)) :)
@[simp] theorem finish_garnetOpal (r i s f v e : Nat) (b : Block) : (finish r i s f v e b).ch.garnetOpal = b.ch.garnetOpal := (congrArg Channels.garnetOpal (kept_ch (finish_kept r i s f v e b) (by decide)) :)
@[simp] theorem finish_onyxJade (r i s f v e : Nat) (b : Block) : (finish r i s f v e b).ch.onyxJade = b.ch.onyxJade := (congrArg Channels.onyxJade (kept_ch (finish_kept r i s f v e b) (by decide)) :)
@[simp] theorem finish_spinelJade (r i s f v e : Nat) (b : Block) : (finish r i s f v e b).ch.spinelJade = b.ch.spinelJade := (congrArg Channels.spinelJade (kept_ch (finish_kept r i s f v e b) (by decide)) :)
@[simp] theorem finish_opalJade (r i s f v e : Nat) (b : Block) : (finish r i s f v e b).ch.opalJade = b.ch.opalJade := (congrArg Channels.opalJade (kept_ch (finish_kept r i s f v e b) (by decide)) :)
@[simp] theorem finish_onyxSpinel (r i s f v e : Nat) (b : Block) : (finish r i s f v e b).ch.onyxSpinel = b.ch.onyxSpinel := (congrArg Channels.onyxSpinel (kept_ch (finish_kept r i s f v e b) (by decide)) :)
@[simp] theorem finish_garnetBeryl (r i s f v e : Nat) (b : Block) : (finish r i s f v e b).ch.garnetBeryl = b.ch.garnetBeryl := (congrArg Channels.garnetBeryl (kept_ch (finish_kept r i s f v e b) (by decide)) :)
@[simp] theorem finish_berylJade (r i s f v e : Nat) (b : Block) : (finish r i s f v e b).ch.berylJade = b.ch.berylJade := (congrArg Channels.berylJade (kept_ch (finish_kept r i s f v e b) (by decide)) :)
@[simp] theorem finish_berylOpal (r i s f v e : Nat) (b : Block) : (finish r i s f v e b).ch.berylOpal = b.ch.berylOpal := (congrArg Channels.berylOpal (kept_ch (finish_kept r i s f v e b) (by decide)) :)
@[simp] theorem finish_keepPowered (r i s f v e : Nat) (b : Block) : (finish r i s f v e b).ch.keepPowered = b.ch.keepPowered := (congrArg Channels.keepPowered (kept_ch (finish_kept r i s f v e b) (by decide)) :)
@[simp] theorem finish_onyxReport (r i s f v e : Nat) (b : Block) : (finish r i s f v e b).ch.onyxReport = b.ch.onyxReport := (congrArg Channels.onyxReport (kept_ch (finish_kept r i s f v e b) (by decide)) :)
@[simp] theorem finish_opalReport (r i s f v e : Nat) (b : Block) : (finish r i s f v e b).ch.opalReport = b.ch.opalReport := (congrArg Channels.opalReport (kept_ch (finish_kept r i s f v e b) (by decide)) :)
@[simp] theorem finish_topazGarnet (r i s f v e : Nat) (b : Block) : (finish r i s f v e b).ch.topazGarnet = b.ch.topazGarnet := (congrArg Channels.topazGarnet (kept_ch (finish_kept r i s f v e b) (by decide)) :)
@[simp] theorem finish_topazOnyx (r i s f v e : Nat) (b : Block) : (finish r i s f v e b).ch.topazOnyx = b.ch.topazOnyx := (congrArg Channels.topazOnyx (kept_ch (finish_kept r i s f v e b) (by decide)) :)
@[simp] theorem finish_shutSignal (r i s f v e : Nat) (b : Block) : (finish r i s f v e b).ch.shutSignal = b.ch.shutSignal := (congrArg Channels.shutSignal (kept_ch (finish_kept r i s f v e b) (by decide)) :)
@[simp] theorem finish_telBurn (r i s f v e : Nat) (b : Block) : (finish r i s f v e b).ch.telBurn = b.ch.telBurn := (congrArg Channels.telBurn (kept_ch (finish_kept r i s f v e b) (by decide)) :)
@[simp] theorem finish_telResult (r i s f v e : Nat) (b : Block) : (finish r i s f v e b).ch.telResult = b.ch.telResult := (congrArg Channels.telResult (kept_ch (finish_kept r i s f v e b) (by decide)) :)
@[simp] theorem finish_expiry (r i s f v e : Nat) (b : Block) : (finish r i s f v e b).ch.expiry = b.ch.expiry := (congrArg Channels.expiry (kept_ch (finish_kept r i s f v e b) (by decide)) :)
@[simp] theorem finish_ledgerNotes (r i s f v e : Nat) (b : Block) : (finish r i s f v e b).ch.ledgerNotes = b.ch.ledgerNotes := (congrArg Channels.ledgerNotes (kept_ch (finish_kept r i s f v e b) (by decide)) :)
@[simp] theorem finish_spinelDests (r i s f v e : Nat) (b : Block) : (finish r i s f v e b).ch.spinelDests = b.ch.spinelDests := (congrArg Channels.spinelDests (kept_ch (finish_kept r i s f v e b) (by decide)) :)
@[simp] theorem finish_onyxDests (r i s f v e : Nat) (b : Block) : (finish r i s f v e b).ch.onyxDests = b.ch.onyxDests := (congrArg Channels.onyxDests (kept_ch (finish_kept r i s f v e b) (by decide)) :)
@[simp] theorem finish_opalSpinel (r i s f v e : Nat) (b : Block) : (finish r i s f v e b).ch.opalSpinel = b.ch.opalSpinel := (congrArg Channels.opalSpinel (kept_ch (finish_kept r i s f v e b) (by decide)) :)
@[simp] theorem finish_opalOnyx (r i s f v e : Nat) (b : Block) : (finish r i s f v e b).ch.opalOnyx = b.ch.opalOnyx := (congrArg Channels.opalOnyx (kept_ch (finish_kept r i s f v e b) (by decide)) :)
@[simp] theorem finish_egressDue (r i s f v e : Nat) (b : Block) : (finish r i s f v e b).ch.egressDue = b.ch.egressDue := (congrArg Channels.egressDue (kept_ch (finish_kept r i s f v e b) (by decide)) :)
@[simp] theorem finish_topazOpal (r i s f v e : Nat) (b : Block) : (finish r i s f v e b).ch.topazOpal = b.ch.topazOpal := (congrArg Channels.topazOpal (kept_ch (finish_kept r i s f v e b) (by decide)) :)
@[simp] theorem finish_takesClosed (r i s f v e : Nat) (b : Block) : (finish r i s f v e b).ch.takesClosed = b.ch.takesClosed := (congrArg Channels.takesClosed (kept_ch (finish_kept r i s f v e b) (by decide)) :)
@[simp] theorem finish_thm (r i s f v e : Nat) (b : Block) : (finish r i s f v e b).beryl.thm = b.beryl.thm := (finish_kept r i s f v e b).at_ .thm (by decide)
@[simp] theorem finish_otc (r i s f v e : Nat) (b : Block) : (finish r i s f v e b).beryl.otc = b.beryl.otc := (finish_kept r i s f v e b).at_ .otc (by decide)

/-! ### finishCtrl -/

theorem finishCtrl_kept (i s f v e : Nat) (b : Block) : onlyChanges [.posts, .evr, .trace, .out] b (finishCtrl i s f v e b) := finishCtrl_frame (by decide) (onlyChanges_refl _ _)
@[simp] theorem finishCtrl_quartz (i s f v e : Nat) (b : Block) : (finishCtrl i s f v e b).quartz = b.quartz := (finishCtrl_kept i s f v e b).at_ .quartz (by decide)
@[simp] theorem finishCtrl_disc (i s f v e : Nat) (b : Block) : (finishCtrl i s f v e b).disc = b.disc := (finishCtrl_kept i s f v e b).at_ .disc (by decide)
@[simp] theorem finishCtrl_tod (i s f v e : Nat) (b : Block) : (finishCtrl i s f v e b).tod = b.tod := (finishCtrl_kept i s f v e b).at_ .tod (by decide)
@[simp] theorem finishCtrl_garnet (i s f v e : Nat) (b : Block) : (finishCtrl i s f v e b).garnet = b.garnet := (finishCtrl_kept i s f v e b).at_ .garnet (by decide)
@[simp] theorem finishCtrl_jade (i s f v e : Nat) (b : Block) : (finishCtrl i s f v e b).jade = b.jade := (finishCtrl_kept i s f v e b).at_ .jade (by decide)
@[simp] theorem finishCtrl_spinel (i s f v e : Nat) (b : Block) : (finishCtrl i s f v e b).spinel = b.spinel := (finishCtrl_kept i s f v e b).at_ .spinel (by decide)
@[simp] theorem finishCtrl_onyx (i s f v e : Nat) (b : Block) : (finishCtrl i s f v e b).onyx = b.onyx := (finishCtrl_kept i s f v e b).at_ .onyx (by decide)
@[simp] theorem finishCtrl_agate (i s f v e : Nat) (b : Block) : (finishCtrl i s f v e b).agate = b.agate := (finishCtrl_kept i s f v e b).at_ .agate (by decide)
@[simp] theorem finishCtrl_topaz (i s f v e : Nat) (b : Block) : (finishCtrl i s f v e b).topaz = b.topaz := (finishCtrl_kept i s f v e b).at_ .topaz (by decide)
@[simp] theorem finishCtrl_dram (i s f v e : Nat) (b : Block) : (finishCtrl i s f v e b).dram = b.dram := (finishCtrl_kept i s f v e b).at_ .dram (by decide)
@[simp] theorem finishCtrl_regs (i s f v e : Nat) (b : Block) : (finishCtrl i s f v e b).regs = b.regs := (finishCtrl_kept i s f v e b).at_ .regs (by decide)
@[simp] theorem finishCtrl_fresh (i s f v e : Nat) (b : Block) : (finishCtrl i s f v e b).fresh = b.fresh := (finishCtrl_kept i s f v e b).at_ .fresh (by decide)
@[simp] theorem finishCtrl_ctrlResult (i s f v e : Nat) (b : Block) : (finishCtrl i s f v e b).opal.ctrlResult = b.opal.ctrlResult := (congrArg Opal.ctrlResult (kept_opal (finishCtrl_kept i s f v e b) (by decide)) :)
@[simp] theorem finishCtrl_dropped (i s f v e : Nat) (b : Block) : (finishCtrl i s f v e b).opal.dropped = b.opal.dropped := (congrArg Opal.dropped (kept_opal (finishCtrl_kept i s f v e b) (by decide)) :)
@[simp] theorem finishCtrl_lastDoorbell (i s f v e : Nat) (b : Block) : (finishCtrl i s f v e b).opal.lastDoorbell = b.opal.lastDoorbell := (congrArg Opal.lastDoorbell (kept_opal (finishCtrl_kept i s f v e b) (by decide)) :)
@[simp] theorem finishCtrl_rr (i s f v e : Nat) (b : Block) : (finishCtrl i s f v e b).opal.rr = b.opal.rr := (congrArg Opal.rr (kept_opal (finishCtrl_kept i s f v e b) (by decide)) :)
@[simp] theorem finishCtrl_failRun (i s f v e : Nat) (b : Block) : (finishCtrl i s f v e b).opal.failRun = b.opal.failRun := (congrArg Opal.failRun (kept_opal (finishCtrl_kept i s f v e b) (by decide)) :)
@[simp] theorem finishCtrl_msixEnable (i s f v e : Nat) (b : Block) : (finishCtrl i s f v e b).opal.msixEnable = b.opal.msixEnable := (congrArg Opal.msixEnable (kept_opal (finishCtrl_kept i s f v e b) (by decide)) :)
@[simp] theorem finishCtrl_funcMask (i s f v e : Nat) (b : Block) : (finishCtrl i s f v e b).opal.funcMask = b.opal.funcMask := (congrArg Opal.funcMask (kept_opal (finishCtrl_kept i s f v e b) (by decide)) :)
@[simp] theorem finishCtrl_ldg (i s f v e : Nat) (b : Block) : (finishCtrl i s f v e b).opal.ldg = b.opal.ldg := (congrArg Opal.ldg (kept_opal (finishCtrl_kept i s f v e b) (by decide)) :)
@[simp] theorem finishCtrl_ldgResult (i s f v e : Nat) (b : Block) : (finishCtrl i s f v e b).opal.ldgResult = b.opal.ldgResult := (congrArg Opal.ldgResult (kept_opal (finishCtrl_kept i s f v e b) (by decide)) :)
@[simp] theorem finishCtrl_window (i s f v e : Nat) (b : Block) : (finishCtrl i s f v e b).opal.window = b.opal.window := (congrArg Opal.window (kept_opal (finishCtrl_kept i s f v e b) (by decide)) :)
@[simp] theorem finishCtrl_nextPub (i s f v e : Nat) (b : Block) : (finishCtrl i s f v e b).opal.nextPub = b.opal.nextPub := (congrArg Opal.nextPub (kept_opal (finishCtrl_kept i s f v e b) (by decide)) :)
@[simp] theorem finishCtrl_ldgLost (i s f v e : Nat) (b : Block) : (finishCtrl i s f v e b).opal.ldgLost = b.opal.ldgLost := (congrArg Opal.ldgLost (kept_opal (finishCtrl_kept i s f v e b) (by decide)) :)
@[simp] theorem finishCtrl_sinceMsg (i s f v e : Nat) (b : Block) : (finishCtrl i s f v e b).opal.sinceMsg = b.opal.sinceMsg := (congrArg Opal.sinceMsg (kept_opal (finishCtrl_kept i s f v e b) (by decide)) :)
@[simp] theorem finishCtrl_held (i s f v e : Nat) (b : Block) : (finishCtrl i s f v e b).opal.held = b.opal.held := (congrArg Opal.held (kept_opal (finishCtrl_kept i s f v e b) (by decide)) :)
@[simp] theorem finishCtrl_failed (i s f v e : Nat) (b : Block) : (finishCtrl i s f v e b).opal.failed = b.opal.failed := (congrArg Opal.failed (kept_opal (finishCtrl_kept i s f v e b) (by decide)) :)
@[simp] theorem finishCtrl_takeOpen (i s f v e : Nat) (b : Block) : (finishCtrl i s f v e b).opal.takeOpen = b.opal.takeOpen := (congrArg Opal.takeOpen (kept_opal (finishCtrl_kept i s f v e b) (by decide)) :)
@[simp] theorem finishCtrl_takeEnds (i s f v e : Nat) (b : Block) : (finishCtrl i s f v e b).opal.takeEnds = b.opal.takeEnds := (congrArg Opal.takeEnds (kept_opal (finishCtrl_kept i s f v e b) (by decide)) :)
@[simp] theorem finishCtrl_cad1 (i s f v e : Nat) (b : Block) : (finishCtrl i s f v e b).opal.cad1 = b.opal.cad1 := (congrArg Opal.cad1 (kept_opal (finishCtrl_kept i s f v e b) (by decide)) :)
@[simp] theorem finishCtrl_times (i s f v e : Nat) (b : Block) : (finishCtrl i s f v e b).opal.times = b.opal.times := (congrArg Opal.times (kept_opal (finishCtrl_kept i s f v e b) (by decide)) :)
@[simp] theorem finishCtrl_link (i s f v e : Nat) (b : Block) : (finishCtrl i s f v e b).opal.link = b.opal.link := (congrArg Opal.link (kept_opal (finishCtrl_kept i s f v e b) (by decide)) :)
@[simp] theorem finishCtrl_perst (i s f v e : Nat) (b : Block) : (finishCtrl i s f v e b).opal.perst = b.opal.perst := (congrArg Opal.perst (kept_opal (finishCtrl_kept i s f v e b) (by decide)) :)
@[simp] theorem finishCtrl_flush (i s f v e : Nat) (b : Block) : (finishCtrl i s f v e b).opal.flush = b.opal.flush := (congrArg Opal.flush (kept_opal (finishCtrl_kept i s f v e b) (by decide)) :)
@[simp] theorem finishCtrl_quartzGarnet (i s f v e : Nat) (b : Block) : (finishCtrl i s f v e b).ch.quartzGarnet = b.ch.quartzGarnet := (congrArg Channels.quartzGarnet (kept_ch (finishCtrl_kept i s f v e b) (by decide)) :)
@[simp] theorem finishCtrl_quartzAgate (i s f v e : Nat) (b : Block) : (finishCtrl i s f v e b).ch.quartzAgate = b.ch.quartzAgate := (congrArg Channels.quartzAgate (kept_ch (finishCtrl_kept i s f v e b) (by decide)) :)
@[simp] theorem finishCtrl_quartzOpal (i s f v e : Nat) (b : Block) : (finishCtrl i s f v e b).ch.quartzOpal = b.ch.quartzOpal := (congrArg Channels.quartzOpal (kept_ch (finishCtrl_kept i s f v e b) (by decide)) :)
@[simp] theorem finishCtrl_agateGarnet (i s f v e : Nat) (b : Block) : (finishCtrl i s f v e b).ch.agateGarnet = b.ch.agateGarnet := (congrArg Channels.agateGarnet (kept_ch (finishCtrl_kept i s f v e b) (by decide)) :)
@[simp] theorem finishCtrl_garnetJade (i s f v e : Nat) (b : Block) : (finishCtrl i s f v e b).ch.garnetJade = b.ch.garnetJade := (congrArg Channels.garnetJade (kept_ch (finishCtrl_kept i s f v e b) (by decide)) :)
@[simp] theorem finishCtrl_drnAck (i s f v e : Nat) (b : Block) : (finishCtrl i s f v e b).ch.drnAck = b.ch.drnAck := (congrArg Channels.drnAck (kept_ch (finishCtrl_kept i s f v e b) (by decide)) :)
@[simp] theorem finishCtrl_jadeSpinel (i s f v e : Nat) (b : Block) : (finishCtrl i s f v e b).ch.jadeSpinel = b.ch.jadeSpinel := (congrArg Channels.jadeSpinel (kept_ch (finishCtrl_kept i s f v e b) (by decide)) :)
@[simp] theorem finishCtrl_spinelOpal (i s f v e : Nat) (b : Block) : (finishCtrl i s f v e b).ch.spinelOpal = b.ch.spinelOpal := (congrArg Channels.spinelOpal (kept_ch (finishCtrl_kept i s f v e b) (by decide)) :)
@[simp] theorem finishCtrl_spinelOnyx (i s f v e : Nat) (b : Block) : (finishCtrl i s f v e b).ch.spinelOnyx = b.ch.spinelOnyx := (congrArg Channels.spinelOnyx (kept_ch (finishCtrl_kept i s f v e b) (by decide)) :)
@[simp] theorem finishCtrl_onyxOpal (i s f v e : Nat) (b : Block) : (finishCtrl i s f v e b).ch.onyxOpal = b.ch.onyxOpal := (congrArg Channels.onyxOpal (kept_ch (finishCtrl_kept i s f v e b) (by decide)) :)
@[simp] theorem finishCtrl_stopRequests (i s f v e : Nat) (b : Block) : (finishCtrl i s f v e b).ch.stopRequests = b.ch.stopRequests := (congrArg Channels.stopRequests (kept_ch (finishCtrl_kept i s f v e b) (by decide)) :)
@[simp] theorem finishCtrl_berylGarnet (i s f v e : Nat) (b : Block) : (finishCtrl i s f v e b).ch.berylGarnet = b.ch.berylGarnet := (congrArg Channels.berylGarnet (kept_ch (finishCtrl_kept i s f v e b) (by decide)) :)
@[simp] theorem finishCtrl_noticeOpal (i s f v e : Nat) (b : Block) : (finishCtrl i s f v e b).ch.noticeOpal = b.ch.noticeOpal := (congrArg Channels.noticeOpal (kept_ch (finishCtrl_kept i s f v e b) (by decide)) :)
@[simp] theorem finishCtrl_noticeSpinel (i s f v e : Nat) (b : Block) : (finishCtrl i s f v e b).ch.noticeSpinel = b.ch.noticeSpinel := (congrArg Channels.noticeSpinel (kept_ch (finishCtrl_kept i s f v e b) (by decide)) :)
@[simp] theorem finishCtrl_noticeOnyx (i s f v e : Nat) (b : Block) : (finishCtrl i s f v e b).ch.noticeOnyx = b.ch.noticeOnyx := (congrArg Channels.noticeOnyx (kept_ch (finishCtrl_kept i s f v e b) (by decide)) :)
@[simp] theorem finishCtrl_garnetOpal (i s f v e : Nat) (b : Block) : (finishCtrl i s f v e b).ch.garnetOpal = b.ch.garnetOpal := (congrArg Channels.garnetOpal (kept_ch (finishCtrl_kept i s f v e b) (by decide)) :)
@[simp] theorem finishCtrl_onyxJade (i s f v e : Nat) (b : Block) : (finishCtrl i s f v e b).ch.onyxJade = b.ch.onyxJade := (congrArg Channels.onyxJade (kept_ch (finishCtrl_kept i s f v e b) (by decide)) :)
@[simp] theorem finishCtrl_spinelJade (i s f v e : Nat) (b : Block) : (finishCtrl i s f v e b).ch.spinelJade = b.ch.spinelJade := (congrArg Channels.spinelJade (kept_ch (finishCtrl_kept i s f v e b) (by decide)) :)
@[simp] theorem finishCtrl_opalJade (i s f v e : Nat) (b : Block) : (finishCtrl i s f v e b).ch.opalJade = b.ch.opalJade := (congrArg Channels.opalJade (kept_ch (finishCtrl_kept i s f v e b) (by decide)) :)
@[simp] theorem finishCtrl_onyxSpinel (i s f v e : Nat) (b : Block) : (finishCtrl i s f v e b).ch.onyxSpinel = b.ch.onyxSpinel := (congrArg Channels.onyxSpinel (kept_ch (finishCtrl_kept i s f v e b) (by decide)) :)
@[simp] theorem finishCtrl_garnetBeryl (i s f v e : Nat) (b : Block) : (finishCtrl i s f v e b).ch.garnetBeryl = b.ch.garnetBeryl := (congrArg Channels.garnetBeryl (kept_ch (finishCtrl_kept i s f v e b) (by decide)) :)
@[simp] theorem finishCtrl_berylJade (i s f v e : Nat) (b : Block) : (finishCtrl i s f v e b).ch.berylJade = b.ch.berylJade := (congrArg Channels.berylJade (kept_ch (finishCtrl_kept i s f v e b) (by decide)) :)
@[simp] theorem finishCtrl_berylOpal (i s f v e : Nat) (b : Block) : (finishCtrl i s f v e b).ch.berylOpal = b.ch.berylOpal := (congrArg Channels.berylOpal (kept_ch (finishCtrl_kept i s f v e b) (by decide)) :)
@[simp] theorem finishCtrl_keepPowered (i s f v e : Nat) (b : Block) : (finishCtrl i s f v e b).ch.keepPowered = b.ch.keepPowered := (congrArg Channels.keepPowered (kept_ch (finishCtrl_kept i s f v e b) (by decide)) :)
@[simp] theorem finishCtrl_onyxReport (i s f v e : Nat) (b : Block) : (finishCtrl i s f v e b).ch.onyxReport = b.ch.onyxReport := (congrArg Channels.onyxReport (kept_ch (finishCtrl_kept i s f v e b) (by decide)) :)
@[simp] theorem finishCtrl_opalReport (i s f v e : Nat) (b : Block) : (finishCtrl i s f v e b).ch.opalReport = b.ch.opalReport := (congrArg Channels.opalReport (kept_ch (finishCtrl_kept i s f v e b) (by decide)) :)
@[simp] theorem finishCtrl_topazGarnet (i s f v e : Nat) (b : Block) : (finishCtrl i s f v e b).ch.topazGarnet = b.ch.topazGarnet := (congrArg Channels.topazGarnet (kept_ch (finishCtrl_kept i s f v e b) (by decide)) :)
@[simp] theorem finishCtrl_topazOnyx (i s f v e : Nat) (b : Block) : (finishCtrl i s f v e b).ch.topazOnyx = b.ch.topazOnyx := (congrArg Channels.topazOnyx (kept_ch (finishCtrl_kept i s f v e b) (by decide)) :)
@[simp] theorem finishCtrl_shutSignal (i s f v e : Nat) (b : Block) : (finishCtrl i s f v e b).ch.shutSignal = b.ch.shutSignal := (congrArg Channels.shutSignal (kept_ch (finishCtrl_kept i s f v e b) (by decide)) :)
@[simp] theorem finishCtrl_telBurn (i s f v e : Nat) (b : Block) : (finishCtrl i s f v e b).ch.telBurn = b.ch.telBurn := (congrArg Channels.telBurn (kept_ch (finishCtrl_kept i s f v e b) (by decide)) :)
@[simp] theorem finishCtrl_telResult (i s f v e : Nat) (b : Block) : (finishCtrl i s f v e b).ch.telResult = b.ch.telResult := (congrArg Channels.telResult (kept_ch (finishCtrl_kept i s f v e b) (by decide)) :)
@[simp] theorem finishCtrl_expiry (i s f v e : Nat) (b : Block) : (finishCtrl i s f v e b).ch.expiry = b.ch.expiry := (congrArg Channels.expiry (kept_ch (finishCtrl_kept i s f v e b) (by decide)) :)
@[simp] theorem finishCtrl_ledgerNotes (i s f v e : Nat) (b : Block) : (finishCtrl i s f v e b).ch.ledgerNotes = b.ch.ledgerNotes := (congrArg Channels.ledgerNotes (kept_ch (finishCtrl_kept i s f v e b) (by decide)) :)
@[simp] theorem finishCtrl_spinelDests (i s f v e : Nat) (b : Block) : (finishCtrl i s f v e b).ch.spinelDests = b.ch.spinelDests := (congrArg Channels.spinelDests (kept_ch (finishCtrl_kept i s f v e b) (by decide)) :)
@[simp] theorem finishCtrl_onyxDests (i s f v e : Nat) (b : Block) : (finishCtrl i s f v e b).ch.onyxDests = b.ch.onyxDests := (congrArg Channels.onyxDests (kept_ch (finishCtrl_kept i s f v e b) (by decide)) :)
@[simp] theorem finishCtrl_opalSpinel (i s f v e : Nat) (b : Block) : (finishCtrl i s f v e b).ch.opalSpinel = b.ch.opalSpinel := (congrArg Channels.opalSpinel (kept_ch (finishCtrl_kept i s f v e b) (by decide)) :)
@[simp] theorem finishCtrl_opalOnyx (i s f v e : Nat) (b : Block) : (finishCtrl i s f v e b).ch.opalOnyx = b.ch.opalOnyx := (congrArg Channels.opalOnyx (kept_ch (finishCtrl_kept i s f v e b) (by decide)) :)
@[simp] theorem finishCtrl_egressDue (i s f v e : Nat) (b : Block) : (finishCtrl i s f v e b).ch.egressDue = b.ch.egressDue := (congrArg Channels.egressDue (kept_ch (finishCtrl_kept i s f v e b) (by decide)) :)
@[simp] theorem finishCtrl_topazOpal (i s f v e : Nat) (b : Block) : (finishCtrl i s f v e b).ch.topazOpal = b.ch.topazOpal := (congrArg Channels.topazOpal (kept_ch (finishCtrl_kept i s f v e b) (by decide)) :)
@[simp] theorem finishCtrl_takesClosed (i s f v e : Nat) (b : Block) : (finishCtrl i s f v e b).ch.takesClosed = b.ch.takesClosed := (congrArg Channels.takesClosed (kept_ch (finishCtrl_kept i s f v e b) (by decide)) :)
@[simp] theorem finishCtrl_thm (i s f v e : Nat) (b : Block) : (finishCtrl i s f v e b).beryl.thm = b.beryl.thm := (finishCtrl_kept i s f v e b).at_ .thm (by decide)
@[simp] theorem finishCtrl_otc (i s f v e : Nat) (b : Block) : (finishCtrl i s f v e b).beryl.otc = b.beryl.otc := (finishCtrl_kept i s f v e b).at_ .otc (by decide)

@[simp] theorem Block.logEvr_opal (b : Block) (src : Island) (type : Nat) (p : List Byte) (k : List (List Byte)) (st : Option Nat) :
    (b.logEvr src type p k st).opal = b.opal := by
  unfold Block.logEvr
  repeat' split
  all_goals rfl

end Sys2Proof.Machine
end

