-- ==== Sys2Proof/Laws/Rows.lean ====
section
/-! SUPPORT. One lemma per command: whatever its occasion, it completes, leaves the queue, and changes no part of the block
but those named. -/

namespace Sys2Proof.Machine

theorem frame_cad0Event (s : State) :
    Completes (.cad0Event) s (fun t => onlyChanges [.quartz, .posts, .evr, .ch, .trace, .out] s.blk t) :=
  ⟨_, rfl, rfl, gated_frame (cad0Event_frame (by decide) (onlyChanges_refl _ _)) (onlyChanges_refl _ _)⟩

theorem frame_cad1Event (s : State) :
    Completes (.cad1Event) s (fun t => onlyChanges [.quartz, .disc, .tod, .posts, .evr, .ch, .trace, .out] s.blk t) :=
  ⟨_, rfl, rfl, gated_frame (cad1Event_frame (by decide) (onlyChanges_refl _ _)) (onlyChanges_refl _ _)⟩

theorem frame_cadenceChannelEvent (ch : Nat) (s : State) :
    Completes (.cadenceChannelEvent ch) s (fun t => onlyChanges [.quartz, .posts, .evr, .ch, .trace, .out] s.blk t) :=
  ⟨_, rfl, rfl, gated_frame (cadenceChannelEvent_frame (by decide) (onlyChanges_refl _ _)) (onlyChanges_refl _ _)⟩

theorem frame_strobeOn (k : Nat) (s : State) :
    Completes (.strobeOn k) s (fun t => onlyChanges [.quartz] s.blk t) :=
  ⟨_, rfl, rfl, gated_frame (strobeOn_frame (by decide) (onlyChanges_refl _ _)) (onlyChanges_refl _ _)⟩

theorem frame_strobeOff (k : Nat) (s : State) :
    Completes (.strobeOff k) s (fun t => onlyChanges [.quartz] s.blk t) :=
  ⟨_, rfl, rfl, gated_frame (strobeOff_frame (by decide) (onlyChanges_refl _ _)) (onlyChanges_refl _ _)⟩

theorem frame_strbCfgWrite (n : Nat) (w : Word) (s : State) :
    Completes (.strbCfgWrite n w) s (fun t => onlyChanges [.quartz, .regs] s.blk t) :=
  ⟨_, rfl, rfl, strbCfgWrite_frame (by decide) (onlyChanges_refl _ _)⟩

theorem frame_tbLoRead (s : State) :
    Completes (.tbLoRead) s (fun t => onlyChanges [.quartz, .out] s.blk t) :=
  ⟨_, rfl, rfl, tbLoRead_frame (by decide) (onlyChanges_refl _ _)⟩

theorem frame_cadLastLoRead (s : State) :
    Completes (.cadLastLoRead) s (fun t => onlyChanges [.quartz, .out] s.blk t) :=
  ⟨_, rfl, rfl, cadLastLoRead_frame (by decide) (onlyChanges_refl _ _)⟩

theorem frame_capApply (s : State) :
    Completes (.capApply) s (fun t => onlyChanges [.quartz] s.blk t) :=
  ⟨_, rfl, rfl, capApply_frame (by decide) (onlyChanges_refl _ _)⟩

theorem frame_refInEdge (stamp : Nat) (level : Bool := true) (held : Nat := 65536) (s : State) :
    Completes (.refInEdge stamp level held) s (fun t => onlyChanges [.quartz, .disc] s.blk t) :=
  ⟨_, rfl, rfl, live_frame (gated_frame (refInEdge_frame (by decide) (onlyChanges_refl _ _)) (onlyChanges_refl _ _)) (onlyChanges_refl _ _)⟩

theorem frame_compareEvent (s : State) :
    Completes (.compareEvent) s (fun t => onlyChanges [.quartz, .disc, .evr, .trace] s.blk t) :=
  ⟨_, rfl, rfl, gated_frame (compareEvent_frame (by decide) (onlyChanges_refl _ _)) (onlyChanges_refl _ _)⟩

theorem frame_refLoss (s : State) :
    Completes (.refLoss) s (fun t => onlyChanges [.quartz, .disc, .posts, .out] s.blk t) :=
  ⟨_, rfl, rfl, gated_frame (refLoss_frame (by decide) (onlyChanges_refl _ _)) (onlyChanges_refl _ _)⟩

theorem frame_qualificationEnd (s : State) :
    Completes (.qualificationEnd) s (fun t => onlyChanges [.quartz, .disc] s.blk t) :=
  ⟨_, rfl, rfl, gated_frame (qualificationEnd_frame (by decide) (onlyChanges_refl _ _)) (onlyChanges_refl _ _)⟩

theorem frame_acquireTimeout (s : State) :
    Completes (.acquireTimeout) s (fun t => onlyChanges [.quartz, .disc, .posts, .out] s.blk t) :=
  ⟨_, rfl, rfl, gated_frame (acquireTimeout_frame (by decide) (onlyChanges_refl _ _)) (onlyChanges_refl _ _)⟩

theorem frame_alignmentStage (s : State) :
    Completes (.alignmentStage) s (fun t => onlyChanges [.quartz, .disc] s.blk t) :=
  ⟨_, rfl, rfl, gated_frame (alignmentStage_frame (by decide) (onlyChanges_refl _ _)) (onlyChanges_refl _ _)⟩

theorem frame_alignmentCheckEnd (s : State) :
    Completes (.alignmentCheckEnd) s (fun t => onlyChanges [.quartz, .disc] s.blk t) :=
  ⟨_, rfl, rfl, gated_frame (alignmentCheckEnd_frame (by decide) (onlyChanges_refl _ _)) (onlyChanges_refl _ _)⟩

theorem frame_ppsInEdge (stamp : Nat) (level : Bool := true) (held : Nat := 65536) (s : State) :
    Completes (.ppsInEdge stamp level held) s (fun t => onlyChanges [.quartz, .disc, .tod, .posts, .evr, .trace, .out] s.blk t) :=
  ⟨_, rfl, rfl, live_frame (gated_frame (ppsInEdge_frame (by decide) (onlyChanges_refl _ _)) (onlyChanges_refl _ _)) (onlyChanges_refl _ _)⟩

theorem frame_timeOfDay (desc : Nat) (s : State) :
    Completes (.timeOfDay desc) s (fun t => onlyChanges [.tod, .posts, .evr, .trace, .out] s.blk t) :=
  ⟨_, rfl, rfl, gated_frame (todGate_frame (by decide) (onlyChanges_refl _ _)) (onlyChanges_refl _ _)⟩

theorem frame_relock (desc : Nat) (s : State) :
    Completes (.relock desc) s (fun t => onlyChanges [.disc, .posts, .evr, .trace, .out] s.blk t) :=
  ⟨_, rfl, rfl, gated_frame (relock_frame (by decide) (onlyChanges_refl _ _)) (onlyChanges_refl _ _)⟩

theorem frame_cadence (desc : Nat) (s : State) :
    Completes (.cadence desc) s (fun t => onlyChanges [.quartz, .posts, .evr, .trace, .out] s.blk t) :=
  ⟨_, rfl, rfl, gated_frame (cadence_frame (by decide) (onlyChanges_refl _ _)) (onlyChanges_refl _ _)⟩

theorem frame_subFrameStart (scene : Scene) (lost : Nat) (s : State) :
    Completes (.subFrameStart scene lost) s (fun t => onlyChanges [.disc, .garnet, .jade, .posts, .evr, .topaz, .ch, .trace, .out] s.blk t) :=
  ⟨_, rfl, rfl, liveOr_frame (dropCadence_frame (by decide) (onlyChanges_refl _ _)) (served_frame (garnetPasses_frame (by decide) (onlyChanges_refl _ _)) (subFrameStart_frame (by decide) (onlyChanges_refl _ _)) (onlyChanges_refl _ _))⟩

theorem frame_triggerEvent (lost : Nat) (s : State) :
    Completes (.triggerEvent lost) s (fun t => onlyChanges [.disc, .garnet, .jade, .posts, .evr, .topaz, .ch, .trace, .out] s.blk t) :=
  ⟨_, rfl, rfl, liveOr_frame (dropTrigger_frame (by decide) (onlyChanges_refl _ _)) (served_frame (garnetDropsTrigger_frame (by decide) (onlyChanges_refl _ _)) (triggerEvent_frame (by decide) (onlyChanges_refl _ _)) (onlyChanges_refl _ _))⟩

theorem frame_frameProgram (desc : Nat) (s : State) :
    Completes (.frameProgram desc) s (fun t => onlyChanges [.garnet, .posts, .evr, .trace, .out] s.blk t) :=
  ⟨_, rfl, rfl, gated_frame (frameProgram_frame (by decide) (onlyChanges_refl _ _)) (onlyChanges_refl _ _)⟩

theorem frame_takeStart (desc : Nat) (s : State) :
    Completes (.takeStart desc) s (fun t => onlyChanges [.garnet, .opal, .posts, .evr, .trace, .out] s.blk t) :=
  ⟨_, rfl, rfl, gated_frame (takeStart_frame (by decide) (onlyChanges_refl _ _)) (onlyChanges_refl _ _)⟩

theorem frame_takeStop (desc : Nat) (s : State) :
    Completes (.takeStop desc) s (fun t => onlyChanges [.garnet, .opal, .posts, .evr, .trace, .out] s.blk t) :=
  ⟨_, rfl, rfl, gated_frame (takeStop_frame (by decide) (onlyChanges_refl _ _)) (onlyChanges_refl _ _)⟩

theorem frame_trigger (desc : Nat) (s : State) :
    Completes (.trigger desc) s (fun t => onlyChanges [.garnet, .posts, .evr, .trace, .out] s.blk t) :=
  ⟨_, rfl, rfl, gated_frame (trigger_frame (by decide) (onlyChanges_refl _ _)) (onlyChanges_refl _ _)⟩

theorem frame_thermalStep (s : State) :
    Completes (.thermalStep) s (fun t => onlyChanges [.garnet, .ch, .trace] s.blk t) :=
  ⟨_, rfl, rfl, served_frame (garnetDropsStep_frame (by decide) (onlyChanges_refl _ _)) (thermalStep_frame (by decide) (onlyChanges_refl _ _)) (onlyChanges_refl _ _)⟩

theorem frame_stopRequest (s : State) :
    Completes (.stopRequest) s (fun t => onlyChanges [.garnet, .ch, .trace] s.blk t) :=
  ⟨_, rfl, rfl, heeded_frame (stopRequest_frame (by decide) (onlyChanges_refl _ _)) (onlyChanges_refl _ _)⟩

theorem frame_drainStripeDone (s : State) :
    Completes (.drainStripeDone) s (fun t => onlyChanges [.garnet, .dram, .ch, .trace] s.blk t) :=
  ⟨_, rfl, rfl, gated_frame (drainStripeDone_frame (by decide) (onlyChanges_refl _ _)) (onlyChanges_refl _ _)⟩

theorem frame_stripeTokenAck (s : State) :
    Completes (.stripeTokenAck) s (fun t => onlyChanges [.garnet, .ch, .trace] s.blk t) :=
  ⟨_, rfl, rfl, gated_frame (stripeTokenAck_frame (by decide) (onlyChanges_refl _ _)) (onlyChanges_refl _ _)⟩

theorem frame_powerLossStop (s : State) :
    Completes (.powerLossStop) s (fun t => onlyChanges [.disc, .garnet, .opal, .posts, .evr, .ch, .trace, .out] s.blk t) :=
  ⟨_, rfl, rfl, heeded_frame (powerLossStop_frame (by decide) (onlyChanges_refl _ _)) (onlyChanges_refl _ _)⟩

theorem frame_garnetShutdown (s : State) :
    Completes (.garnetShutdown) s (fun t => onlyChanges [.disc, .garnet, .opal, .posts, .evr, .ch, .trace, .out] s.blk t) :=
  ⟨_, rfl, rfl, heeded_frame (garnetShutdown_frame (by decide) (onlyChanges_refl _ _)) (onlyChanges_refl _ _)⟩

theorem frame_frameBoundRecord (s : State) :
    Completes (.frameBoundRecord) s (fun t => onlyChanges [.jade, .thm, .ch, .trace] s.blk t) :=
  ⟨_, rfl, rfl, whileFirmware_frame (frameBoundRecord_frame (by decide) (onlyChanges_refl _ _)) (onlyChanges_refl _ _)⟩

theorem frame_frameHeaderToken (s : State) :
    Completes (.frameHeaderToken) s (fun t => onlyChanges [.jade, .topaz, .ch, .trace] s.blk t) :=
  ⟨_, rfl, rfl, served_frame (jadeFails_frame (by decide) (fun _ hx => frameHeaderToken_frame (by decide) hx) (onlyChanges_refl _ _)) (frameHeaderToken_frame (by decide) (onlyChanges_refl _ _)) (onlyChanges_refl _ _)⟩

theorem frame_stripeToken (bad1 : Bool) (bad2 : Bool) (ecc : Ecc) (s : State) :
    Completes (.stripeToken bad1 bad2 ecc) s (fun t => onlyChanges [.jade, .opal, .posts, .thm, .otc, .evr, .beryl, .topaz, .ch, .trace, .out, .fresh] s.blk t) :=
  ⟨_, rfl, rfl, served_frame (jadeFails_frame (by decide) (fun _ hx => stripeToken__frame (by decide) hx) (onlyChanges_refl _ _)) (stripeToken__frame (by decide) (onlyChanges_refl _ _)) (onlyChanges_refl _ _)⟩

theorem frame_stripeProcess (ecc : Ecc) (kind : RefKind) (s : State) :
    Completes (.stripeProcess ecc kind) s (fun t => onlyChanges [.jade, .opal, .posts, .evr, .topaz, .dram, .ch, .trace, .out] s.blk t) :=
  ⟨_, rfl, rfl, gated_frame (stripeProcess_frame (by decide) (onlyChanges_refl _ _)) (onlyChanges_refl _ _)⟩

theorem frame_profileToken (bad1 : Bool) (bad2 : Bool) (ecc : Ecc) (s : State) :
    Completes (.profileToken bad1 bad2 ecc) s (fun t => onlyChanges [.jade, .posts, .thm, .otc, .evr, .beryl, .topaz, .dram, .ch, .trace, .out, .fresh] s.blk t) :=
  ⟨_, rfl, rfl, served_frame (jadeFails_frame (by decide) (fun _ hx => profileToken_frame (by decide) hx) (onlyChanges_refl _ _)) (profileToken_frame (by decide) (onlyChanges_refl _ _)) (onlyChanges_refl _ _)⟩

theorem frame_destinationSet (s : State) :
    Completes (.destinationSet) s (fun t => onlyChanges [.jade, .evr, .topaz, .dram, .ch, .trace] s.blk t) :=
  ⟨_, rfl, rfl, served_frame (jadeDropsSet_frame (by decide) (onlyChanges_refl _ _)) (destinationSet_frame (by decide) (onlyChanges_refl _ _)) (onlyChanges_refl _ _)⟩

theorem frame_retentionReservation (s : State) :
    Completes (.retentionReservation) s (fun t => onlyChanges [.jade, .evr, .topaz, .dram, .ch, .trace] s.blk t) :=
  ⟨_, rfl, rfl, served_frame (jadeDropsRetention_frame (by decide) (onlyChanges_refl _ _)) (retentionReservation_frame (by decide) (onlyChanges_refl _ _)) (onlyChanges_refl _ _)⟩

theorem frame_stagingReservation (s : State) :
    Completes (.stagingReservation) s (fun t => onlyChanges [.jade, .evr, .topaz, .dram, .ch, .trace] s.blk t) :=
  ⟨_, rfl, rfl, served_frame (jadeDropsStaging_frame (by decide) (onlyChanges_refl _ _)) (stagingReservation_frame (by decide) (onlyChanges_refl _ _)) (onlyChanges_refl _ _)⟩

theorem frame_procSettings (desc : Nat) (s : State) :
    Completes (.procSettings desc) s (fun t => onlyChanges [.jade, .posts, .evr, .trace, .out] s.blk t) :=
  ⟨_, rfl, rfl, gated_frame (procSettings_frame (by decide) (onlyChanges_refl _ _)) (onlyChanges_refl _ _)⟩

theorem frame_procSettingsResume (s : State) :
    Completes (.procSettingsResume) s (fun t => onlyChanges [.jade, .posts, .evr, .trace, .out] s.blk t) :=
  ⟨_, rfl, rfl, gated_frame (procSettingsResume_frame (by decide) (onlyChanges_refl _ _)) (onlyChanges_refl _ _)⟩

theorem frame_refLoad (desc : Nat) (buf : Option (List Byte)) (s : State) :
    Completes (.refLoad desc buf) s (fun t => onlyChanges [.jade, .posts, .evr, .dram, .trace, .out] s.blk t) :=
  ⟨_, rfl, rfl, gated_frame (refLoad_frame (by decide) (onlyChanges_refl _ _)) (onlyChanges_refl _ _)⟩

theorem frame_refUnload (desc : Nat) (s : State) :
    Completes (.refUnload desc) s (fun t => onlyChanges [.jade, .posts, .evr, .trace, .out] s.blk t) :=
  ⟨_, rfl, rfl, gated_frame (refUnload_frame (by decide) (onlyChanges_refl _ _)) (onlyChanges_refl _ _)⟩

theorem frame_refSlotFreed (s : State) :
    Completes (.refSlotFreed) s (fun t => onlyChanges [.jade, .posts, .evr, .dram, .trace, .out] s.blk t) :=
  ⟨_, rfl, rfl, gated_frame (refSlotFreed_frame (by decide) (onlyChanges_refl _ _)) (onlyChanges_refl _ _)⟩

theorem frame_clrCounts (s : State) :
    Completes (.clrCounts) s (fun t => onlyChanges [.jade] s.blk t) :=
  ⟨_, rfl, rfl, clrCounts_frame (by decide) (onlyChanges_refl _ _)⟩

theorem frame_clockDivisionRequest (s : State) :
    Completes (.clockDivisionRequest) s (fun t => onlyChanges [.jade, .ch, .trace] s.blk t) :=
  ⟨_, rfl, rfl, heeded_frame (clockDivisionRequest_frame (by decide) (onlyChanges_refl _ _)) (onlyChanges_refl _ _)⟩

theorem frame_jadeClockDivide (s : State) :
    Completes (.jadeClockDivide) s (fun t => onlyChanges [.jade] s.blk t) :=
  ⟨_, rfl, rfl, gated_frame (jadeClockDivide_frame (by decide) (onlyChanges_refl _ _)) (onlyChanges_refl _ _)⟩

theorem frame_segmentStripeToken (ecc : Ecc) (s : State) :
    Completes (.segmentStripeToken ecc) s (fun t => onlyChanges [.spinel, .opal, .posts, .evr, .topaz, .ch, .trace, .out] s.blk t) :=
  ⟨_, rfl, rfl, served_frame (spinelFails_frame (by decide) (fun _ hx => segmentStripeToken_frame (by decide) hx) (onlyChanges_refl _ _)) (segmentStripeToken_frame (by decide) (onlyChanges_refl _ _)) (onlyChanges_refl _ _)⟩

theorem frame_keyLoad (desc : Nat) (buf : Option (List Byte)) (s : State) :
    Completes (.keyLoad desc buf) s (fun t => onlyChanges [.spinel, .posts, .evr, .trace, .out] s.blk t) :=
  ⟨_, rfl, rfl, gated_frame (keyLoad_frame (by decide) (onlyChanges_refl _ _)) (onlyChanges_refl _ _)⟩

theorem frame_keyRelease (s : State) :
    Completes (.keyRelease) s (fun t => onlyChanges [.spinel, .posts, .evr, .trace, .out] s.blk t) :=
  ⟨_, rfl, rfl, gated_frame (keyRelease_frame (by decide) (onlyChanges_refl _ _)) (onlyChanges_refl _ _)⟩

theorem frame_zeroise (w : Word) (s : State) :
    Completes (.zeroise w) s (fun t => onlyChanges [.spinel] s.blk t) :=
  ⟨_, rfl, rfl, heeded_frame (zeroise_frame (by decide) (onlyChanges_refl _ _)) (onlyChanges_refl _ _)⟩

theorem frame_shareEncryptionRequest (s : State) :
    Completes (.shareEncryptionRequest) s (fun t => onlyChanges [.quartz, .jade, .spinel, .opal, .posts, .onyx, .evr, .topaz, .dram, .ch, .trace, .out] s.blk t) :=
  ⟨_, rfl, rfl, served_frame (spinelFailsShare_frame (by decide) (onlyChanges_refl _ _)) (shareEncryptionRequest_frame (by decide) (onlyChanges_refl _ _)) (onlyChanges_refl _ _)⟩

theorem frame_hostStripeMoved (s : State) :
    Completes (.hostStripeMoved) s (fun t => onlyChanges [.spinel, .opal, .posts, .evr, .topaz, .ch, .trace, .out] s.blk t) :=
  ⟨_, rfl, rfl, served_frame (opalFails_frame (by decide) (fun _ hx => hostStripeMoved_frame (by decide) hx) (onlyChanges_refl _ _)) (hostStripeMoved_frame (by decide) (onlyChanges_refl _ _)) (onlyChanges_refl _ _)⟩

theorem frame_poll (page : Option (List Byte)) (s : State) :
    Completes (.poll page) s (fun t => onlyChanges [.opal, .posts, .evr, .ch, .trace, .out, .fresh] s.blk t) :=
  ⟨_, rfl, rfl, gated_frame (poll_frame (by decide) (onlyChanges_refl _ _)) (onlyChanges_refl _ _)⟩

theorem frame_descriptorFetched (r : Nat) (data : Option (List (List Byte))) (s : State) :
    Completes (.descriptorFetched r data) s (fun t => onlyChanges [.opal, .posts, .evr, .trace, .out] s.blk t) :=
  ⟨_, rfl, rfl, gated_frame (descriptorFetched_frame (by decide) (onlyChanges_refl _ _)) (onlyChanges_refl _ _)⟩

theorem frame_nop (r : Nat) (desc : Nat) (s : State) :
    Completes (.nop r desc) s (fun t => onlyChanges [.posts, .evr, .trace, .out] s.blk t) :=
  ⟨_, rfl, rfl, gated_frame (nop_frame (by decide) (onlyChanges_refl _ _)) (onlyChanges_refl _ _)⟩

theorem frame_contextOpen (desc : Nat) (s : State) :
    Completes (.contextOpen desc) s (fun t => onlyChanges [.jade, .posts, .evr, .ch, .trace, .out] s.blk t) :=
  ⟨_, rfl, rfl, gated_frame (contextOpen_frame (by decide) (onlyChanges_refl _ _)) (onlyChanges_refl _ _)⟩

theorem frame_contextCloseDrain (desc : Nat) (s : State) :
    Completes (.contextCloseDrain desc) s (fun t => onlyChanges [.jade, .posts, .evr, .ch, .trace, .out] s.blk t) :=
  ⟨_, rfl, rfl, gated_frame (contextCloseDrain_frame (by decide) (onlyChanges_refl _ _)) (onlyChanges_refl _ _)⟩

theorem frame_contextCloseAbort (desc : Nat) (s : State) :
    Completes (.contextCloseAbort desc) s (fun t => onlyChanges [.jade, .spinel, .opal, .posts, .evr, .ch, .trace, .out] s.blk t) :=
  ⟨_, rfl, rfl, gated_frame (contextCloseAbort_frame (by decide) (onlyChanges_refl _ _)) (onlyChanges_refl _ _)⟩

theorem frame_contextCloseFinish (c : Nat) (word : Nat) (posted : Option (List (List Byte))) (s : State) :
    Completes (.contextCloseFinish c word posted) s (fun t => onlyChanges [.jade, .spinel, .opal, .posts, .evr, .ch, .trace, .out] s.blk t) :=
  ⟨_, rfl, rfl, gated_frame (contextCloseFinish_frame (by decide) (onlyChanges_refl _ _)) (onlyChanges_refl _ _)⟩

theorem frame_magSet (desc : Nat) (s : State) :
    Completes (.magSet desc) s (fun t => onlyChanges [.posts, .onyx, .evr, .trace, .out] s.blk t) :=
  ⟨_, rfl, rfl, gated_frame (magSet_frame (by decide) (onlyChanges_refl _ _)) (onlyChanges_refl _ _)⟩

theorem frame_magQuery (desc : Nat) (s : State) :
    Completes (.magQuery desc) s (fun t => onlyChanges [.posts, .onyx, .evr, .trace, .out] s.blk t) :=
  ⟨_, rfl, rfl, gated_frame (magQuery_frame (by decide) (onlyChanges_refl _ _)) (onlyChanges_refl _ _)⟩

theorem frame_seqTransferTx (desc : Nat) (buf : Option (List Byte)) (s : State) :
    Completes (.seqTransferTx desc buf) s (fun t => onlyChanges [.posts, .agate, .evr, .topaz, .trace, .out] s.blk t) :=
  ⟨_, rfl, rfl, gated_frame (seqTransferTx_frame (by decide) (onlyChanges_refl _ _)) (onlyChanges_refl _ _)⟩

theorem frame_seqTransferRx (desc : Nat) (s : State) :
    Completes (.seqTransferRx desc) s (fun t => onlyChanges [.posts, .agate, .evr, .topaz, .trace, .out] s.blk t) :=
  ⟨_, rfl, rfl, gated_frame (seqTransferRx_frame (by decide) (onlyChanges_refl _ _)) (onlyChanges_refl _ _)⟩

theorem frame_seqTransferProgram (desc : Nat) (buf : Option (List Byte)) (cycles : Nat) (s : State) :
    Completes (.seqTransferProgram desc buf cycles) s (fun t => onlyChanges [.posts, .agate, .evr, .topaz, .trace, .out] s.blk t) :=
  ⟨_, rfl, rfl, gated_frame (seqTransferProgram_frame (by decide) (onlyChanges_refl _ _)) (onlyChanges_refl _ _)⟩

theorem frame_seqTransferTimeout (desc : Nat) (s : State) :
    Completes (.seqTransferTimeout desc) s (fun t => onlyChanges [.posts, .agate, .evr, .trace, .out] s.blk t) :=
  ⟨_, rfl, rfl, gated_frame (seqTransferTimeout_frame (by decide) (onlyChanges_refl _ _)) (onlyChanges_refl _ _)⟩

theorem frame_outcomeQuery (desc : Nat) (s : State) :
    Completes (.outcomeQuery desc) s (fun t => onlyChanges [.posts, .evr, .trace, .out] s.blk t) :=
  ⟨_, rfl, rfl, gated_frame (outcomeQuery_frame (by decide) (onlyChanges_refl _ _)) (onlyChanges_refl _ _)⟩

theorem frame_bufferPost (c : Nat) (desc : Nat) (s : State) :
    Completes (.bufferPost c desc) s (fun t => onlyChanges [.spinel, .opal, .posts, .evr, .ch, .trace, .out] s.blk t) :=
  ⟨_, rfl, rfl, gated_frame (bufferPost_frame (by decide) (onlyChanges_refl _ _)) (onlyChanges_refl _ _)⟩

theorem frame_bufWaitExpiry (s : State) :
    Completes (.bufWaitExpiry) s (fun t => onlyChanges [.spinel, .opal, .posts, .evr, .ch, .trace, .out] s.blk t) :=
  ⟨_, rfl, rfl, heeded_frame (bufWaitExpiry_frame (by decide) (onlyChanges_refl _ _)) (onlyChanges_refl _ _)⟩

theorem frame_timeRecord (s : State) :
    Completes (.timeRecord) s (fun t => onlyChanges [.garnet, .opal, .posts, .evr, .ch, .trace, .out] s.blk t) :=
  ⟨_, rfl, rfl, liveOr_frame (dropTimeRecord_frame (by decide) (onlyChanges_refl _ _)) (heeded_frame (timeRecord_frame (by decide) (onlyChanges_refl _ _)) (onlyChanges_refl _ _))⟩

theorem frame_latchNoticeOpal (lost : Nat := 0) (s : State) :
    Completes (.latchNoticeOpal lost) s (fun t => onlyChanges [.garnet, .jade, .spinel, .opal, .posts, .evr, .topaz, .ch, .trace, .out] s.blk t) :=
  ⟨_, rfl, rfl, heeded_frame (latchNoticeOpal_frame (by decide) (onlyChanges_refl _ _)) (onlyChanges_refl _ _)⟩

theorem frame_latchNoticeSpinel (lost : Nat := 0) (s : State) :
    Completes (.latchNoticeSpinel lost) s (fun t => onlyChanges [.spinel, .opal, .posts, .evr, .topaz, .ch, .trace, .out] s.blk t) :=
  ⟨_, rfl, rfl, served_frame (spinelNoticeFails_frame (by decide) (fun _ hx => latchNoticeSpinel_frame (by decide) hx) (onlyChanges_refl _ _)) (latchNoticeSpinel_frame (by decide) (onlyChanges_refl _ _)) (onlyChanges_refl _ _)⟩

theorem frame_latchNoticeOnyx (lost : Nat := 0) (s : State) :
    Completes (.latchNoticeOnyx lost) s (fun t => onlyChanges [.quartz, .garnet, .jade, .opal, .posts, .onyx, .evr, .topaz, .ch, .trace, .out, .fresh] s.blk t) :=
  ⟨_, rfl, rfl, served_frame (onyxNoticeFails_frame (by decide) (fun _ hx => latchNoticeOnyx_frame (by decide) hx) (onlyChanges_refl _ _)) (latchNoticeOnyx_frame (by decide) (onlyChanges_refl _ _)) (onlyChanges_refl _ _)⟩

theorem frame_garnetOutcome (s : State) :
    Completes (.garnetOutcome) s (fun t => onlyChanges [.quartz, .garnet, .jade, .spinel, .opal, .posts, .onyx, .evr, .ch, .trace, .out] s.blk t) :=
  ⟨_, rfl, rfl, heeded_frame (garnetDecides_frame (by decide) (onlyChanges_refl _ _)) (onlyChanges_refl _ _)⟩

theorem frame_destinationOutcome (s : State) :
    Completes (.destinationOutcome) s (fun t => onlyChanges [.opal, .posts, .evr, .ch, .trace] s.blk t) :=
  ⟨_, rfl, rfl, heeded_frame (destinationOutcome_frame (by decide) (onlyChanges_refl _ _)) (onlyChanges_refl _ _)⟩

theorem frame_ledgerPublish (s : State) :
    Completes (.ledgerPublish) s (fun t => onlyChanges [.opal, .posts, .evr, .ch, .trace, .out, .fresh] s.blk t) :=
  ⟨_, rfl, rfl, heeded_frame (ledgerPublish_frame (by decide) (onlyChanges_refl _ _)) (onlyChanges_refl _ _)⟩

theorem frame_berylEventRecord (s : State) :
    Completes (.berylEventRecord) s (fun t => onlyChanges [.posts, .ch, .trace, .out] s.blk t) :=
  ⟨_, rfl, rfl, heeded_frame (berylEventRecord_frame (by decide) (onlyChanges_refl _ _)) (onlyChanges_refl _ _)⟩

theorem frame_msixHoldoffExpiry (v : Nat) (s : State) :
    Completes (.msixHoldoffExpiry v) s (fun t => onlyChanges [.posts, .out] s.blk t) :=
  ⟨_, rfl, rfl, gated_frame (msixHoldoffExpiry_frame (by decide) (onlyChanges_refl _ _)) (onlyChanges_refl _ _)⟩

theorem frame_msixMaskWrite (w : MsixWrite) (s : State) :
    Completes (.msixMaskWrite w) s (fun t => onlyChanges [.opal, .posts, .regs, .out] s.blk t) :=
  ⟨_, rfl, rfl, msixMaskWrite_frame (by decide) (onlyChanges_refl _ _)⟩

theorem frame_ctrlRingStart (w : Word) (s : State) :
    Completes (.ctrlRingStart w) s (fun t => onlyChanges [.opal, .posts, .out] s.blk t) :=
  ⟨_, rfl, rfl, gated_frame (ctrlRingStart_frame (by decide) (onlyChanges_refl _ _)) (onlyChanges_refl _ _)⟩

theorem frame_ledgerRingStart (w : Word) (s : State) :
    Completes (.ledgerRingStart w) s (fun t => onlyChanges [.opal, .posts, .evr, .ch, .trace, .out, .fresh] s.blk t) :=
  ⟨_, rfl, rfl, gated_frame (ledgerRingStart_frame (by decide) (onlyChanges_refl _ _)) (onlyChanges_refl _ _)⟩

theorem frame_hostLinkDown (s : State) :
    Completes (.hostLinkDown) s (fun t => onlyChanges [.opal, .posts, .evr, .trace, .out] s.blk t) :=
  ⟨_, rfl, rfl, powered_frame (hostLinkDown_frame (by decide) (onlyChanges_refl _ _)) (onlyChanges_refl _ _)⟩

theorem frame_hostLinkUp (rate : Nat := 6) (width : Nat := 8) (s : State) :
    Completes (.hostLinkUp rate width) s (fun t => onlyChanges [.spinel, .opal, .posts, .evr, .ch, .trace, .out, .fresh] s.blk t) :=
  ⟨_, rfl, rfl, powered_frame (hostLinkUp_frame (by decide) (onlyChanges_refl _ _)) (onlyChanges_refl _ _)⟩

theorem frame_hostPerst (s : State) :
    Completes (.hostPerst) s (fun t => onlyChanges [.opal, .posts] s.blk t) :=
  ⟨_, rfl, rfl, hostPerst_frame (by decide) (onlyChanges_refl _ _)⟩

theorem frame_fundamentalReset (s : State) :
    Completes (.fundamentalReset) s (fun t => onlyChanges [.opal, .posts, .topaz, .regs] s.blk t) :=
  ⟨_, rfl, rfl, fundamentalReset_frame (by decide) (onlyChanges_refl _ _)⟩

theorem frame_grnFrameLoRead (s : State) :
    Completes (.grnFrameLoRead) s (fun t => onlyChanges [.garnet, .out] s.blk t) :=
  ⟨_, rfl, rfl, grnFrameLoRead_frame (by decide) (onlyChanges_refl _ _)⟩

theorem frame_islCommit (w : Word) (s : State) :
    Completes (.islCommit w) s (fun t => onlyChanges [.posts, .evr, .topaz, .ch, .trace, .out] s.blk t) :=
  ⟨_, rfl, rfl, islCommit_frame (by decide) (onlyChanges_refl _ _)⟩

theorem frame_islUncommit (w : Word) (s : State) :
    Completes (.islUncommit w) s (fun t => onlyChanges [.garnet, .topaz] s.blk t) :=
  ⟨_, rfl, rfl, islUncommit_frame (by decide) (onlyChanges_refl _ _)⟩

theorem frame_registerWrite (off : Nat) (w : Word) (be : BitVec 4) (s : State) :
    Completes (.registerWrite off w be) s (fun t => onlyChanges [.disc, .tod, .agate, .thm, .topaz, .regs] s.blk t) :=
  ⟨_, rfl, rfl, registerWrite_frame (by decide) (onlyChanges_refl _ _)⟩

theorem frame_onyxFlushReport (s : State) :
    Completes (.onyxFlushReport) s (fun t => onlyChanges [.spinel, .opal, .posts, .evr, .topaz, .ch, .trace, .out, .fresh] s.blk t) :=
  ⟨_, rfl, rfl, onyxFlushReport_frame (by decide) (onlyChanges_refl _ _)⟩

theorem frame_flushReadComplete (s : State) :
    Completes (.flushReadComplete) s (fun t => onlyChanges [.opal, .posts, .ch, .trace] s.blk t) :=
  ⟨_, rfl, rfl, flushReadComplete_frame (by decide) (onlyChanges_refl _ _)⟩

theorem frame_opalFlushTimeout (s : State) :
    Completes (.opalFlushTimeout) s (fun t => onlyChanges [.opal, .posts, .ch, .trace] s.blk t) :=
  ⟨_, rfl, rfl, opalFlushTimeout_frame (by decide) (onlyChanges_refl _ _)⟩

theorem frame_magazineLinkUp (m : Nat) (gen : Nat) (width : Nat) (vs : Nat) (cap : Nat) (s : State) :
    Completes (.magazineLinkUp m gen width vs cap) s (fun t => onlyChanges [.posts, .onyx, .evr, .topaz, .trace, .out] s.blk t) :=
  ⟨_, rfl, rfl, gated_frame (magazineLinkUp_frame (by decide) (onlyChanges_refl _ _)) (onlyChanges_refl _ _)⟩

theorem frame_magazineLinkDown (m : Nat) (also : List Nat := []) (s : State) :
    Completes (.magazineLinkDown m also) s (fun t => onlyChanges [.quartz, .jade, .opal, .posts, .onyx, .evr, .ch, .trace, .out] s.blk t) :=
  ⟨_, rfl, rfl, gated_frame (magazineLinkDown_frame (by decide) (onlyChanges_refl _ _)) (onlyChanges_refl _ _)⟩

theorem frame_nvmeCompletion (m : Nat) (cid : Nat) (status : Nat) (sqhd : Nat) (data : List Byte) (s : State) :
    Completes (.nvmeCompletion m cid status sqhd data) s (fun t => onlyChanges [.quartz, .jade, .opal, .posts, .onyx, .evr, .ch, .trace, .out, .fresh] s.blk t) :=
  ⟨_, rfl, rfl, gated_frame (nvmeCompletion_frame (by decide) (onlyChanges_refl _ _)) (onlyChanges_refl _ _)⟩

theorem frame_cmdTimeout (m : Nat) (cid : Nat) (s : State) :
    Completes (.cmdTimeout m cid) s (fun t => onlyChanges [.quartz, .jade, .opal, .posts, .onyx, .evr, .ch, .trace, .out] s.blk t) :=
  ⟨_, rfl, rfl, gated_frame (cmdTimeout_frame (by decide) (onlyChanges_refl _ _)) (onlyChanges_refl _ _)⟩

theorem frame_smartPoll (s : State) :
    Completes (.smartPoll) s (fun t => onlyChanges [.onyx, .out] s.blk t) :=
  ⟨_, rfl, rfl, gated_frame (smartPoll_frame (by decide) (onlyChanges_refl _ _)) (onlyChanges_refl _ _)⟩

theorem frame_magazineDmaViolation (m : Nat) (s : State) :
    Completes (.magazineDmaViolation m) s (fun t => onlyChanges [.quartz, .jade, .opal, .posts, .onyx, .evr, .ch, .trace, .out] s.blk t) :=
  ⟨_, rfl, rfl, gated_frame (magazineDmaViolation_frame (by decide) (onlyChanges_refl _ _)) (onlyChanges_refl _ _)⟩

theorem frame_magazineStripeToken (ecc : Ecc) (s : State) :
    Completes (.magazineStripeToken ecc) s (fun t => onlyChanges [.quartz, .jade, .opal, .posts, .onyx, .evr, .topaz, .ch, .trace, .out] s.blk t) :=
  ⟨_, rfl, rfl, served_frame (onyxFails_frame (by decide) (fun _ hx => magazineStripeToken_frame (by decide) hx) (onlyChanges_refl _ _)) (magazineStripeToken_frame (by decide) (onlyChanges_refl _ _)) (onlyChanges_refl _ _)⟩

theorem frame_expiryRequest (s : State) :
    Completes (.expiryRequest) s (fun t => onlyChanges [.quartz, .jade, .opal, .posts, .onyx, .evr, .ch, .trace, .out] s.blk t) :=
  ⟨_, rfl, rfl, served_frame (onyxDropsExpiry_frame (by decide) (onlyChanges_refl _ _)) (expiryRequest_frame (by decide) (onlyChanges_refl _ _)) (onlyChanges_refl _ _)⟩

theorem frame_reinit (w : Word) (s : State) :
    Completes (.reinit w) s (fun t => onlyChanges [.onyx] s.blk t) :=
  ⟨_, rfl, rfl, reinit_frame (by decide) (onlyChanges_refl _ _)⟩

theorem frame_retrain (w : Word) (s : State) :
    Completes (.retrain w) s (fun t => onlyChanges [.quartz, .jade, .opal, .posts, .onyx, .evr, .ch, .trace, .out] s.blk t) :=
  ⟨_, rfl, rfl, retrain_frame (by decide) (onlyChanges_refl _ _)⟩

theorem frame_onyxPowerLoss (s : State) :
    Completes (.onyxPowerLoss) s (fun t => onlyChanges [.quartz, .jade, .opal, .posts, .onyx, .evr, .ch, .trace, .out] s.blk t) :=
  ⟨_, rfl, rfl, gated_frame (onyxPowerLoss_frame (by decide) (onlyChanges_refl _ _)) (onlyChanges_refl _ _)⟩

theorem frame_flushWriteDeadline (s : State) :
    Completes (.flushWriteDeadline) s (fun t => onlyChanges [.quartz, .jade, .opal, .posts, .onyx, .evr, .ch, .trace, .out] s.blk t) :=
  ⟨_, rfl, rfl, gated_frame (flushWriteDeadline_frame (by decide) (onlyChanges_refl _ _)) (onlyChanges_refl _ _)⟩

theorem frame_shutdownWaitTimeout (s : State) :
    Completes (.shutdownWaitTimeout) s (fun t => onlyChanges [.onyx, .ch, .trace] s.blk t) :=
  ⟨_, rfl, rfl, gated_frame (shutdownWaitTimeout_frame (by decide) (onlyChanges_refl _ _)) (onlyChanges_refl _ _)⟩

theorem frame_onyxShutdown (s : State) :
    Completes (.onyxShutdown) s (fun t => onlyChanges [.quartz, .jade, .opal, .posts, .onyx, .evr, .ch, .trace, .out] s.blk t) :=
  ⟨_, rfl, rfl, gated_frame (onyxShutdown_frame (by decide) (onlyChanges_refl _ _)) (onlyChanges_refl _ _)⟩

theorem frame_magazinePowerSettled (m : Nat) (s : State) :
    Completes (.magazinePowerSettled m) s (fun t => onlyChanges [.onyx] s.blk t) :=
  ⟨_, rfl, rfl, powered_frame (magazinePowerSettled_frame (by decide) (onlyChanges_refl _ _)) (onlyChanges_refl _ _)⟩

theorem frame_seqJmp (n : Nat) (joins : Bool) (s : State) :
    Completes (.seqJmp n joins) s (fun t => onlyChanges [.agate, .ch, .trace] s.blk t) :=
  ⟨_, rfl, rfl, gated_frame (seqJmp_frame (by decide) (onlyChanges_refl _ _)) (onlyChanges_refl _ _)⟩

theorem frame_seqWait (n : Nat) (joins : Bool) (s : State) :
    Completes (.seqWait n joins) s (fun t => onlyChanges [.agate, .ch, .trace] s.blk t) :=
  ⟨_, rfl, rfl, gated_frame (seqWait_frame (by decide) (onlyChanges_refl _ _)) (onlyChanges_refl _ _)⟩

theorem frame_seqIn (n : Nat) (joins : Bool) (s : State) :
    Completes (.seqIn n joins) s (fun t => onlyChanges [.agate, .ch, .trace] s.blk t) :=
  ⟨_, rfl, rfl, gated_frame (seqIn_frame (by decide) (onlyChanges_refl _ _)) (onlyChanges_refl _ _)⟩

theorem frame_seqOut (n : Nat) (joins : Bool) (s : State) :
    Completes (.seqOut n joins) s (fun t => onlyChanges [.agate, .ch, .trace] s.blk t) :=
  ⟨_, rfl, rfl, gated_frame (seqOut_frame (by decide) (onlyChanges_refl _ _)) (onlyChanges_refl _ _)⟩

theorem frame_seqPush (n : Nat) (joins : Bool) (s : State) :
    Completes (.seqPush n joins) s (fun t => onlyChanges [.agate, .ch, .trace] s.blk t) :=
  ⟨_, rfl, rfl, gated_frame (seqPush_frame (by decide) (onlyChanges_refl _ _)) (onlyChanges_refl _ _)⟩

theorem frame_seqPull (n : Nat) (joins : Bool) (s : State) :
    Completes (.seqPull n joins) s (fun t => onlyChanges [.agate, .ch, .trace] s.blk t) :=
  ⟨_, rfl, rfl, gated_frame (seqPull_frame (by decide) (onlyChanges_refl _ _)) (onlyChanges_refl _ _)⟩

theorem frame_seqMov (n : Nat) (joins : Bool) (s : State) :
    Completes (.seqMov n joins) s (fun t => onlyChanges [.agate, .ch, .trace] s.blk t) :=
  ⟨_, rfl, rfl, gated_frame (seqMov_frame (by decide) (onlyChanges_refl _ _)) (onlyChanges_refl _ _)⟩

theorem frame_seqSet (n : Nat) (joins : Bool) (s : State) :
    Completes (.seqSet n joins) s (fun t => onlyChanges [.agate, .ch, .trace] s.blk t) :=
  ⟨_, rfl, rfl, gated_frame (seqSet_frame (by decide) (onlyChanges_refl _ _)) (onlyChanges_refl _ _)⟩

theorem frame_flagRaise (n : Nat) (joins : Bool) (s : State) :
    Completes (.flagRaise n joins) s (fun t => onlyChanges [.agate, .ch, .trace] s.blk t) :=
  ⟨_, rfl, rfl, gated_frame (flagRaise_frame (by decide) (onlyChanges_refl _ _)) (onlyChanges_refl _ _)⟩

theorem frame_flagDrop (n : Nat) (joins : Bool) (s : State) :
    Completes (.flagDrop n joins) s (fun t => onlyChanges [.agate, .ch, .trace] s.blk t) :=
  ⟨_, rfl, rfl, gated_frame (flagDrop_frame (by decide) (onlyChanges_refl _ _)) (onlyChanges_refl _ _)⟩

theorem frame_flagTake (n : Nat) (joins : Bool) (s : State) :
    Completes (.flagTake n joins) s (fun t => onlyChanges [.agate, .ch, .trace] s.blk t) :=
  ⟨_, rfl, rfl, gated_frame (flagTake_frame (by decide) (onlyChanges_refl _ _)) (onlyChanges_refl _ _)⟩

theorem frame_flagTrig (n : Nat) (joins : Bool) (s : State) :
    Completes (.flagTrig n joins) s (fun t => onlyChanges [.agate, .ch, .trace] s.blk t) :=
  ⟨_, rfl, rfl, gated_frame (flagTrig_frame (by decide) (onlyChanges_refl _ _)) (onlyChanges_refl _ _)⟩

theorem frame_seqCad (n : Nat) (joins : Bool) (s : State) :
    Completes (.seqCad n joins) s (fun t => onlyChanges [.agate, .ch, .trace] s.blk t) :=
  ⟨_, rfl, rfl, gated_frame (seqCad_frame (by decide) (onlyChanges_refl _ _)) (onlyChanges_refl _ _)⟩

theorem frame_illegalOpcode (n : Nat) (joins : Bool) (s : State) :
    Completes (.illegalOpcode n joins) s (fun t => onlyChanges [.agate, .ch, .trace] s.blk t) :=
  ⟨_, rfl, rfl, gated_frame (illegalOpcode_frame (by decide) (onlyChanges_refl _ _)) (onlyChanges_refl _ _)⟩

theorem frame_engineEnable (w : Word) (s : State) :
    Completes (.engineEnable w) s (fun t => onlyChanges [.posts, .agate, .topaz] s.blk t) :=
  ⟨_, rfl, rfl, engineEnable_frame (by decide) (onlyChanges_refl _ _)⟩

theorem frame_engineHalt (w : Word) (s : State) :
    Completes (.engineHalt w) s (fun t => onlyChanges [.posts, .agate, .topaz] s.blk t) :=
  ⟨_, rfl, rfl, engineHalt_frame (by decide) (onlyChanges_refl _ _)⟩

theorem frame_gangChange (w : Word) (s : State) :
    Completes (.gangChange w) s (fun t => onlyChanges [.posts, .agate, .topaz] s.blk t) :=
  ⟨_, rfl, rfl, gangChange_frame (by decide) (onlyChanges_refl _ _)⟩

theorem frame_seqIoEdge (p : Nat) (level : Bool) (s : State) :
    Completes (.seqIoEdge p level) s (fun t => onlyChanges [.agate] s.blk t) :=
  ⟨_, rfl, rfl, gated_frame (seqIoEdge_frame (by decide) (onlyChanges_refl _ _)) (onlyChanges_refl _ _)⟩

theorem frame_trigInEdge (joins : Bool := false) (s : State) :
    Completes (.trigInEdge joins) s (fun t => onlyChanges [.agate, .ch, .trace] s.blk t) :=
  ⟨_, rfl, rfl, live_frame (gated_frame (trigInEdge_frame (by decide) (onlyChanges_refl _ _)) (onlyChanges_refl _ _)) (onlyChanges_refl _ _)⟩

theorem frame_cadenceEventAgate (lost : Nat) (s : State) :
    Completes (.cadenceEventAgate lost) s (fun t => onlyChanges [.posts, .agate, .evr, .topaz, .ch, .trace, .out] s.blk t) :=
  ⟨_, rfl, rfl, served_frame (agateDrops_frame (by decide) (onlyChanges_refl _ _)) (cadenceEventAgate_frame (by decide) (onlyChanges_refl _ _)) (onlyChanges_refl _ _)⟩

theorem frame_gangCtrlWrite (g : Nat) (data : List (Nat × Word)) (w : Word) (s : State) :
    Completes (.gangCtrlWrite g data w) s (fun t => onlyChanges [.agate, .out] s.blk t) :=
  ⟨_, rfl, rfl, whileFirmware_frame (gangCtrlWrite_frame (by decide) (onlyChanges_refl _ _)) (onlyChanges_refl _ _)⟩

theorem frame_gioTrigWrite (w : Word) (s : State) :
    Completes (.gioTrigWrite w) s (fun t => onlyChanges [.agate, .regs] s.blk t) :=
  ⟨_, rfl, rfl, gioTrigWrite_frame (by decide) (onlyChanges_refl _ _)⟩

theorem frame_watchdogReport (lost : Nat := 0) (s : State) :
    Completes (.watchdogReport lost) s (fun t => onlyChanges [.posts, .evr, .topaz, .trace, .out] s.blk t) :=
  ⟨_, rfl, rfl, watchdogReport_frame (by decide) (onlyChanges_refl _ _)⟩

theorem frame_watchdogExpiry (s : State) :
    Completes (.watchdogExpiry) s (fun t => onlyChanges [.quartz, .disc, .garnet, .jade, .spinel, .opal, .posts, .onyx, .agate, .thm, .evr, .topaz, .ch, .trace, .out] s.blk t) :=
  ⟨_, rfl, rfl, watchdogExpiry_frame (by decide) (onlyChanges_refl _ _)⟩

theorem frame_berylRestartDone (patchOk : Bool) (mv : Nat) (bad : List Island := []) (more : List Nat := []) (s : State) :
    Completes (.berylRestartDone patchOk mv bad more) s (fun t => onlyChanges [.quartz, .disc, .garnet, .jade, .spinel, .opal, .posts, .onyx, .agate, .thm, .otc, .evr, .beryl, .topaz, .dram, .ch, .trace, .regs, .out, .fresh] s.blk t) :=
  ⟨_, rfl, rfl, berylRestartDone_frame (by decide) (onlyChanges_refl _ _)⟩

theorem frame_islandFault (i : Island) (c : FaultClass) (s : State) :
    Completes (.islandFault i c) s (fun t => onlyChanges [.disc, .garnet, .jade, .spinel, .opal, .posts, .onyx, .agate, .evr, .topaz, .ch, .trace, .out] s.blk t) :=
  ⟨_, rfl, rfl, islandFault_frame (by decide) (onlyChanges_refl _ _)⟩

theorem frame_islandRecovery (i : Island) (ok : Bool) (configOk : Bool) (s : State) :
    Completes (.islandRecovery i ok configOk) s (fun t => onlyChanges [.quartz, .disc, .garnet, .jade, .spinel, .opal, .posts, .onyx, .agate, .evr, .topaz, .dram, .ch, .trace, .regs, .out, .fresh] s.blk t) :=
  ⟨_, rfl, rfl, islandRecovery_frame (by decide) (onlyChanges_refl _ _)⟩

theorem frame_stall (i : Island) (since : Nat := 0) (s : State) :
    Completes (.stall i since) s (fun t => onlyChanges [.quartz, .disc, .garnet, .jade, .spinel, .opal, .posts, .onyx, .agate, .evr, .topaz, .ch, .trace, .out] s.blk t) :=
  ⟨_, rfl, rfl, stall_frame (by decide) (onlyChanges_refl _ _)⟩

theorem frame_sensorSample (l : List Int) (s : State) :
    Completes (.sensorSample l) s (fun t => onlyChanges [.thm] s.blk t) :=
  ⟨_, rfl, rfl, sensorSample_frame (by decide) (onlyChanges_refl _ _)⟩

theorem frame_thermalReading (ra : Int) (rb : Int) (s : State) :
    Completes (.thermalReading ra rb) s (fun t => onlyChanges [.thm, .evr, .topaz, .ch, .trace] s.blk t) :=
  ⟨_, rfl, rfl, thermalReading_frame (by decide) (onlyChanges_refl _ _)⟩

theorem frame_shutdownSignal (lost : Nat := 0) (s : State) :
    Completes (.shutdownSignal lost) s (fun t => onlyChanges [.posts, .evr, .topaz, .ch, .trace, .out] s.blk t) :=
  ⟨_, rfl, rfl, shutdownSignal_frame (by decide) (onlyChanges_refl _ _)⟩

theorem frame_shutdownDeadline (s : State) :
    Completes (.shutdownDeadline) s (fun t => onlyChanges [.quartz, .disc, .tod, .garnet, .jade, .spinel, .opal, .posts, .onyx, .agate, .thm, .otc, .evr, .beryl, .topaz, .dram, .ch, .trace, .regs, .out] s.blk t) :=
  ⟨_, rfl, rfl, shutdownDeadline_frame (by decide) (onlyChanges_refl _ _)⟩

theorem frame_telBurnRequest (mv : Nat) (more : List Nat := []) (s : State) :
    Completes (.telBurnRequest mv more) s (fun t => onlyChanges [.thm, .otc, .evr, .beryl, .ch, .trace] s.blk t) :=
  ⟨_, rfl, rfl, telBurnRequest_frame (by decide) (onlyChanges_refl _ _)⟩

theorem frame_telBurnResult (lost : Nat := 0) (s : State) :
    Completes (.telBurnResult lost) s (fun t => onlyChanges [.quartz, .disc, .tod, .garnet, .jade, .spinel, .opal, .posts, .onyx, .agate, .thm, .otc, .evr, .beryl, .topaz, .dram, .ch, .trace, .regs, .out] s.blk t) :=
  ⟨_, rfl, rfl, telBurnResult_frame (by decide) (onlyChanges_refl _ _)⟩

theorem frame_railDropTimeout (s : State) :
    Completes (.railDropTimeout) s (fun t => onlyChanges [.quartz, .disc, .tod, .garnet, .jade, .spinel, .opal, .posts, .onyx, .agate, .thm, .otc, .evr, .beryl, .topaz, .dram, .ch, .trace, .regs, .out] s.blk t) :=
  ⟨_, rfl, rfl, railDropTimeout_frame (by decide) (onlyChanges_refl _ _)⟩

theorem frame_otpProgram (w : Word) (mv : Nat) (more : List Nat := []) (s : State) :
    Completes (.otpProgram w mv more) s (fun t => onlyChanges [.posts, .onyx, .otc, .out] s.blk t) :=
  ⟨_, rfl, rfl, otpProgram_frame (by decide) (onlyChanges_refl _ _)⟩

theorem frame_otpPulseDone (fired : Half) (firm : Half) (mv : Nat) (soft : Half := 0) (more : List Nat := []) (s : State) :
    Completes (.otpPulseDone fired firm mv soft more) s (fun t => onlyChanges [.otc, .ch, .trace] s.blk t) :=
  ⟨_, rfl, rfl, otpPulseDone_frame (by decide) (onlyChanges_refl _ _)⟩

theorem frame_vppMeasure (mv : Nat) (s : State) :
    Completes (.vppMeasure mv) s (fun t => onlyChanges [.otc] s.blk t) :=
  ⟨_, rfl, rfl, vppMeasure_frame (by decide) (onlyChanges_refl _ _)⟩

theorem frame_otpRead (w : Word) (s : State) :
    Completes (.otpRead w) s (fun t => onlyChanges [.otc, .regs] s.blk t) :=
  ⟨_, rfl, rfl, otpRead_frame (by decide) (onlyChanges_refl _ _)⟩

theorem frame_fuseLoad (refOk : Bool) (s : State) :
    Completes (.fuseLoad refOk) s (fun t => onlyChanges [.spinel, .otc, .topaz] s.blk t) :=
  ⟨_, rfl, rfl, fuseLoad_frame (by decide) (onlyChanges_refl _ _)⟩

theorem frame_patchLoad (w : Word) (s : State) :
    Completes (.patchLoad w) s (fun t => onlyChanges [.disc, .garnet, .jade, .spinel, .opal, .posts, .onyx, .agate, .evr, .topaz, .ch, .trace, .out] s.blk t) :=
  ⟨_, rfl, rfl, patchLoad_frame (by decide) (onlyChanges_refl _ _)⟩

theorem frame_patchImageRead (data : Option (List Byte)) (mv : Nat) (bad : List Island := []) (more : List Nat := []) (s : State) :
    Completes (.patchImageRead data mv bad more) s (fun t => onlyChanges [.quartz, .disc, .garnet, .jade, .spinel, .opal, .posts, .onyx, .agate, .thm, .otc, .evr, .beryl, .topaz, .dram, .ch, .trace, .regs, .out, .fresh] s.blk t) :=
  ⟨_, rfl, rfl, patchImageRead_frame (by decide) (onlyChanges_refl _ _)⟩

theorem frame_evrRecord (w : Word) (s : State) :
    Completes (.evrRecord w) s (fun t => onlyChanges [.jade, .evr, .ch, .trace, .regs] s.blk t) :=
  ⟨_, rfl, rfl, evrRecord_frame (by decide) (onlyChanges_refl _ _)⟩

theorem frame_evrReplay (w : Word) (s : State) :
    Completes (.evrReplay w) s (fun t => onlyChanges [.jade, .evr, .dram, .ch, .trace, .regs, .out] s.blk t) :=
  ⟨_, rfl, rfl, evrReplay_frame (by decide) (onlyChanges_refl _ _)⟩

theorem frame_evrOff (w : Word) (s : State) :
    Completes (.evrOff w) s (fun t => onlyChanges [.evr, .dram, .ch, .trace, .regs, .out] s.blk t) :=
  ⟨_, rfl, rfl, evrOff_frame (by decide) (onlyChanges_refl _ _)⟩

theorem frame_traceEntry (s : State) :
    Completes (.traceEntry) s (fun t => onlyChanges [.evr, .dram, .ch, .trace, .out] s.blk t) :=
  ⟨_, rfl, rfl, traceEntry_frame (by decide) (onlyChanges_refl _ _)⟩

theorem frame_traceBlockClose (ecc : Ecc) (s : State) :
    Completes (.traceBlockClose ecc) s (fun t => onlyChanges [.quartz, .posts, .evr, .topaz, .dram, .trace, .out] s.blk t) :=
  ⟨_, rfl, rfl, traceBlockClose_frame (by decide) (onlyChanges_refl _ _)⟩

theorem frame_replayFeed (r : ReplayRead) (s : State) :
    Completes (.replayFeed r) s (fun t => onlyChanges [.quartz, .disc, .garnet, .jade, .spinel, .opal, .posts, .onyx, .evr, .topaz, .dram, .ch, .trace, .out, .fresh] s.blk t) :=
  ⟨_, rfl, rfl, replayFeed_frame (by decide) (onlyChanges_refl _ _)⟩

theorem frame_dramInitDone (ok : Bool) (s : State) :
    Completes (.dramInitDone ok) s (fun t => onlyChanges [.quartz, .disc, .tod, .garnet, .jade, .spinel, .opal, .posts, .onyx, .agate, .thm, .otc, .evr, .beryl, .topaz, .dram, .ch, .trace, .regs] s.blk t) :=
  ⟨_, rfl, rfl, dramInitDone_frame (by decide) (onlyChanges_refl _ _)⟩

theorem frame_romStart (romOk : Bool) (s : State) :
    Completes (.romStart romOk) s (fun t => onlyChanges [.thm, .otc, .evr, .beryl, .topaz, .ch, .trace] s.blk t) :=
  ⟨_, rfl, rfl, romStart_frame (by decide) (onlyChanges_refl _ _)⟩

theorem frame_mainInputLoss (mv : Nat := 0) (s : State) :
    Completes (.mainInputLoss mv) s (fun t => onlyChanges [.posts, .evr, .topaz, .ch, .trace, .out] s.blk t) :=
  ⟨_, rfl, rfl, mainInputLoss_frame (by decide) (onlyChanges_refl _ _)⟩

theorem frame_mainInputReturn (mv : Nat := 65535) (s : State) :
    Completes (.mainInputReturn mv) s (fun t => onlyChanges [.quartz, .disc, .tod, .garnet, .jade, .spinel, .opal, .posts, .onyx, .agate, .thm, .otc, .evr, .beryl, .topaz, .dram, .ch, .trace, .regs, .out] s.blk t) :=
  ⟨_, rfl, rfl, mainInputReturn_frame (by decide) (onlyChanges_refl _ _)⟩

theorem frame_keepPoweredRecord (s : State) :
    Completes (.keepPoweredRecord) s (fun t => onlyChanges [.onyx, .topaz, .ch, .trace] s.blk t) :=
  ⟨_, rfl, rfl, keepPoweredRecord_frame (by decide) (onlyChanges_refl _ _)⟩

theorem frame_flushReport (s : State) :
    Completes (.flushReport) s (fun t => onlyChanges [.quartz, .disc, .tod, .garnet, .jade, .spinel, .opal, .posts, .onyx, .agate, .thm, .otc, .evr, .beryl, .topaz, .dram, .ch, .trace, .regs, .out] s.blk t) :=
  ⟨_, rfl, rfl, flushReport_frame (by decide) (onlyChanges_refl _ _)⟩

theorem frame_flushDeadline (s : State) :
    Completes (.flushDeadline) s (fun t => onlyChanges [.quartz, .disc, .tod, .garnet, .jade, .spinel, .opal, .posts, .onyx, .agate, .thm, .otc, .evr, .beryl, .topaz, .dram, .ch, .trace, .regs, .out] s.blk t) :=
  ⟨_, rfl, rfl, flushDeadline_frame (by decide) (onlyChanges_refl _ _)⟩

theorem frame_eventRepeat (i : Island) (lost : Nat) (s : State) :
    Completes (.eventRepeat i lost) s (fun t => onlyChanges [.opal, .posts, .evr, .topaz, .ch, .trace, .out] s.blk t) :=
  ⟨_, rfl, rfl, eventRepeat_frame (by decide) (onlyChanges_refl _ _)⟩

theorem frame_packRead (ohms : Nat) (temp : Int) (s : State) :
    Completes (.packRead ohms temp) s (fun t => onlyChanges [.posts, .topaz, .out] s.blk t) :=
  ⟨_, rfl, rfl, packRead_frame (by decide) (onlyChanges_refl _ _)⟩

theorem frame_shortCheck (s : State) :
    Completes (.shortCheck) s (fun t => onlyChanges [.posts, .topaz, .out] s.blk t) :=
  ⟨_, rfl, rfl, shortCheck_frame (by decide) (onlyChanges_refl _ _)⟩

theorem frame_prechargeTimeout (s : State) :
    Completes (.prechargeTimeout) s (fun t => onlyChanges [.posts, .topaz, .out] s.blk t) :=
  ⟨_, rfl, rfl, prechargeTimeout_frame (by decide) (onlyChanges_refl _ _)⟩

theorem frame_chargeDone (s : State) :
    Completes (.chargeDone) s (fun t => onlyChanges [.posts, .topaz, .out] s.blk t) :=
  ⟨_, rfl, rfl, chargeDone_frame (by decide) (onlyChanges_refl _ _)⟩

theorem frame_safetyTimerExpiry (s : State) :
    Completes (.safetyTimerExpiry) s (fun t => onlyChanges [.posts, .topaz, .out] s.blk t) :=
  ⟨_, rfl, rfl, safetyTimerExpiry_frame (by decide) (onlyChanges_refl _ _)⟩

theorem frame_controlStep (mv : Nat) (ma : Int) (vbus : Nat := 65535) (s : State) :
    Completes (.controlStep mv ma vbus) s (fun t => onlyChanges [.quartz, .disc, .tod, .garnet, .jade, .spinel, .opal, .posts, .onyx, .agate, .thm, .otc, .evr, .beryl, .topaz, .dram, .ch, .trace, .regs, .out] s.blk t) :=
  ⟨_, rfl, rfl, controlStep_frame (by decide) (onlyChanges_refl _ _)⟩

theorem frame_showEnd (s : State) :
    Completes (.showEnd) s (fun t => onlyChanges [.posts, .topaz, .out] s.blk t) :=
  ⟨_, rfl, rfl, showEnd_frame (by decide) (onlyChanges_refl _ _)⟩

theorem frame_powerUpDelay (s : State) :
    Completes (.powerUpDelay) s (fun t => onlyChanges [.quartz, .disc, .tod, .garnet, .jade, .spinel, .opal, .posts, .onyx, .agate, .thm, .otc, .evr, .beryl, .topaz, .dram, .ch, .trace, .regs, .out] s.blk t) :=
  ⟨_, rfl, rfl, powerUpDelay_frame (by decide) (onlyChanges_refl _ _)⟩

theorem frame_keyPress (s : State) :
    Completes (.keyPress) s (fun t => onlyChanges [.evr, .topaz, .trace] s.blk t) :=
  ⟨_, rfl, rfl, live_frame (keyPress_frame (by decide) (onlyChanges_refl _ _)) (onlyChanges_refl _ _)⟩

theorem frame_keyRestartHold (s : State) :
    Completes (.keyRestartHold) s (fun t => onlyChanges [.posts, .topaz, .out] s.blk t) :=
  ⟨_, rfl, rfl, live_frame (keyRestartHold_frame (by decide) (onlyChanges_refl _ _)) (onlyChanges_refl _ _)⟩

theorem frame_keyShipHold (s : State) :
    Completes (.keyShipHold) s (fun t => onlyChanges [.posts, .topaz, .out] s.blk t) :=
  ⟨_, rfl, rfl, live_frame (keyShipHold_frame (by decide) (onlyChanges_refl _ _)) (onlyChanges_refl _ _)⟩

theorem frame_shipModeEnter (s : State) :
    Completes (.shipModeEnter) s (fun t => onlyChanges [.quartz, .disc, .tod, .garnet, .jade, .spinel, .opal, .posts, .onyx, .agate, .thm, .otc, .evr, .beryl, .topaz, .dram, .ch, .trace, .regs, .out] s.blk t) :=
  ⟨_, rfl, rfl, shipModeEnter_frame (by decide) (onlyChanges_refl _ _)⟩

theorem frame_hupMagpwrWrite (w : Word) (s : State) :
    Completes (.hupMagpwrWrite w) s (fun t => onlyChanges [.onyx, .topaz, .regs] s.blk t) :=
  ⟨_, rfl, rfl, hupMagpwrWrite_frame (by decide) (onlyChanges_refl _ _)⟩

theorem frame_clrTimer (w : Word) (s : State) :
    Completes (.clrTimer w) s (fun t => onlyChanges [.posts, .topaz, .out] s.blk t) :=
  ⟨_, rfl, rfl, clrTimer_frame (by decide) (onlyChanges_refl _ _)⟩

theorem frame_topazStart (ohms : Nat) (temp : Int) (s : State) :
    Completes (.topazStart ohms temp) s (fun t => onlyChanges [.quartz, .disc, .tod, .garnet, .jade, .spinel, .opal, .posts, .onyx, .agate, .thm, .otc, .evr, .beryl, .topaz, .dram, .ch, .trace, .regs, .out] s.blk t) :=
  ⟨_, rfl, rfl, topazStart_frame (by decide) (onlyChanges_refl _ _)⟩

theorem frame_railPgRise (k : Nat) (s : State) :
    Completes (.railPgRise k) s (fun t => onlyChanges [.topaz] s.blk t) :=
  ⟨_, rfl, rfl, railPgRise_frame (by decide) (onlyChanges_refl _ _)⟩

theorem frame_railEnableDelay (s : State) :
    Completes (.railEnableDelay) s (fun t => onlyChanges [.topaz] s.blk t) :=
  ⟨_, rfl, rfl, railEnableDelay_frame (by decide) (onlyChanges_refl _ _)⟩

theorem frame_railTimeout (s : State) :
    Completes (.railTimeout) s (fun t => onlyChanges [.quartz, .disc, .tod, .garnet, .jade, .spinel, .opal, .posts, .onyx, .agate, .thm, .otc, .evr, .beryl, .topaz, .dram, .ch, .trace, .regs, .out] s.blk t) :=
  ⟨_, rfl, rfl, railTimeout_frame (by decide) (onlyChanges_refl _ _)⟩

theorem frame_railPgFall (k : Nat) (s : State) :
    Completes (.railPgFall k) s (fun t => onlyChanges [.quartz, .disc, .tod, .garnet, .jade, .spinel, .opal, .posts, .onyx, .agate, .thm, .otc, .evr, .beryl, .topaz, .dram, .ch, .trace, .regs, .out] s.blk t) :=
  ⟨_, rfl, rfl, railPgFall_frame (by decide) (onlyChanges_refl _ _)⟩

theorem frame_railDownStep (s : State) :
    Completes (.railDownStep) s (fun t => onlyChanges [.posts, .topaz, .out] s.blk t) :=
  ⟨_, rfl, rfl, railDownStep_frame (by decide) (onlyChanges_refl _ _)⟩

theorem frame_pwrGoodRise (tcxo : Bool) (s : State) :
    Completes (.pwrGoodRise tcxo) s (fun t => onlyChanges [.topaz] s.blk t) :=
  ⟨_, rfl, rfl, pwrGoodRise_frame (by decide) (onlyChanges_refl _ _)⟩

theorem frame_pwrGoodFall (s : State) :
    Completes (.pwrGoodFall) s (fun t => onlyChanges [.quartz, .disc, .tod, .garnet, .jade, .spinel, .opal, .posts, .onyx, .agate, .thm, .otc, .evr, .beryl, .topaz, .dram, .ch, .trace, .regs, .out] s.blk t) :=
  ⟨_, rfl, rfl, pwrGoodFall_frame (by decide) (onlyChanges_refl _ _)⟩

theorem frame_keyNRelease (held : Nat) (s : State) :
    Completes (.keyNRelease held) s (fun t => onlyChanges [.quartz, .disc, .tod, .garnet, .jade, .spinel, .opal, .posts, .onyx, .agate, .thm, .otc, .evr, .beryl, .topaz, .dram, .ch, .trace, .regs, .out] s.blk t) :=
  ⟨_, rfl, rfl, live_frame (keyNRelease_frame (by decide) (onlyChanges_refl _ _)) (onlyChanges_refl _ _)⟩

theorem frame_trigInInactive (s : State) :
    Completes (.trigInInactive) s (fun t => onlyChanges [.agate] s.blk t) :=
  ⟨_, rfl, rfl, live_frame (gated_frame (trigInInactive_frame (by decide) (onlyChanges_refl _ _)) (onlyChanges_refl _ _)) (onlyChanges_refl _ _)⟩

theorem frame_controllerStatusChange (m : Nat) (csts : Nat) (s : State) :
    Completes (.controllerStatusChange m csts) s (fun t => onlyChanges [.quartz, .jade, .opal, .posts, .onyx, .evr, .ch, .trace, .out] s.blk t) :=
  ⟨_, rfl, rfl, gated_frame (controllerStatusChange_frame (by decide) (onlyChanges_refl _ _)) (onlyChanges_refl _ _)⟩

theorem frame_pollReadTimeout (s : State) :
    Completes (.pollReadTimeout) s (fun t => onlyChanges [.opal, .posts, .out] s.blk t) :=
  ⟨_, rfl, rfl, gated_frame (pollReadTimeout_frame (by decide) (onlyChanges_refl _ _)) (onlyChanges_refl _ _)⟩

theorem frame_islandResetRelease (s : State) :
    Completes (.islandResetRelease) s (fun t => onlyChanges [.quartz, .topaz, .ch, .trace] s.blk t) :=
  ⟨_, rfl, rfl, islandResetRelease_frame (by decide) (onlyChanges_refl _ _)⟩

theorem frame_hostLinkError (s : State) :
    Completes (.hostLinkError) s (fun t => onlyChanges [.posts, .evr, .trace, .out] s.blk t) :=
  ⟨_, rfl, rfl, powered_frame (hostLinkError_frame (by decide) (onlyChanges_refl _ _)) (onlyChanges_refl _ _)⟩

theorem frame_vddAoLoss (s : State) :
    Completes (.vddAoLoss) s (fun t => onlyChanges [.quartz, .disc, .tod, .garnet, .jade, .spinel, .opal, .posts, .onyx, .agate, .thm, .otc, .evr, .beryl, .topaz, .dram, .ch, .trace, .regs] s.blk t) :=
  ⟨_, rfl, rfl, vddAoLoss_frame (by decide) (onlyChanges_refl _ _)⟩

end Sys2Proof.Machine
end

