-- ==== Sys2Proof/WellFormed.lean ====
section
/-! DEFINITION. Well-formed commands: every operand within the range the spec gives it. The meanings are total, so an
ill-formed command still has one; a sender of the spec never sends it. -/

namespace Sys2Proof
open Machine

/-- Keys strictly rising, the canonical form of a keyed list. -/
def keysRise {α : Type} : List (Nat × α) → Bool
  | [] => true
  | (k, _) :: l => l.all (fun e => k < e.1) && keysRise l

/-- A scene lists Clusters of the array (2,320 rows of 4,384, 02 R34), each once, rising. -/
def sceneOk (s : Scene) : Bool := keysRise s.listed && s.listed.all (fun e => e.1 < 10170880)

/-- A descriptor holds 64 bytes (08 R211). -/
def descOk (d : List Byte) : Bool := d.length == 64

/-- A read of the Doorbell Page returns its 4,096 bytes (08 R201). -/
def pageOk : Option (List Byte) → Bool
  | some p => p.length == 4096
  | none => true

/-- A fetch returns one to eight descriptors (08 R206). -/
def fetchOk : Option (List (List Byte)) → Bool
  | some l => 0 < l.length && l.length ≤ 8 && l.all descOk
  | none => true

/-- The closing fetch of a ring returns at most eight descriptors, none once all are read (08 R206, R216). -/
def closeFetchOk : Option (List (List Byte)) → Bool
  | some l => l.length ≤ 8 && l.all descOk
  | none => true

/-- A vector of the MSI-X table (18 R475). -/
def msixOk : MsixWrite → Bool
  | .mask v _ => v < 64
  | _ => true

/-- A trace block is 4,096 bytes, a tap header 64 (12 R340, R344). -/
def replayOk : ReplayRead → Bool
  | .block s => s.length == 4096
  | .tap h _ => h.length == 64
  | .nothing => true

/-- The command is well formed. -/
def Instr.wf : Instr → Bool
  | .cad0Event => true
  | .cad1Event => true
  | .cadenceChannelEvent ch => 2 ≤ ch && ch < 32
  | .strobeOn k => k < 4
  | .strobeOff k => k < 4
  | .strbCfgWrite n _ => n < 4
  | .tbLoRead => true
  | .cadLastLoRead => true
  | .capApply => true
  | .refInEdge stamp _ _ => stamp < 2 ^ 64
  | .compareEvent => true
  | .refLoss => true
  | .qualificationEnd => true
  | .acquireTimeout => true
  | .alignmentStage => true
  | .alignmentCheckEnd => true
  | .ppsInEdge stamp _ _ => stamp < 2 ^ 64
  | .timeOfDay _ => true
  | .relock _ => true
  | .cadence _ => true
  | .subFrameStart scene _ => sceneOk scene
  | .triggerEvent _ => true
  | .frameProgram _ => true
  | .takeStart _ => true
  | .takeStop _ => true
  | .trigger _ => true
  | .thermalStep => true
  | .stopRequest => true
  | .drainStripeDone => true
  | .stripeTokenAck => true
  | .powerLossStop => true
  | .garnetShutdown => true
  | .frameBoundRecord => true
  | .frameHeaderToken => true
  | .stripeToken _ _ _ => true
  | .stripeProcess _ _ => true
  | .profileToken _ _ _ => true
  | .destinationSet => true
  | .retentionReservation => true
  | .stagingReservation => true
  | .procSettings _ => true
  | .procSettingsResume => true
  | .refLoad _ _ => true
  | .refUnload _ => true
  | .refSlotFreed => true
  | .clrCounts => true
  | .clockDivisionRequest => true
  | .jadeClockDivide => true
  | .segmentStripeToken _ => true
  | .keyLoad _ _ => true
  | .keyRelease => true
  | .zeroise _ => true
  | .shareEncryptionRequest => true
  | .hostStripeMoved => true
  | .poll page => pageOk page
  | .descriptorFetched r data => r ≤ 256 && fetchOk data
  | .nop r _ => r ≤ 256
  | .contextOpen _ => true
  | .contextCloseDrain _ => true
  | .contextCloseAbort _ => true
  | .contextCloseFinish c word posted => c < 256 && word < 2 ^ 32 && closeFetchOk posted
  | .magSet _ => true
  | .magQuery _ => true
  | .seqTransferTx _ _ => true
  | .seqTransferRx _ => true
  | .seqTransferProgram _ _ _ => true
  | .seqTransferTimeout _ => true
  | .outcomeQuery _ => true
  | .bufferPost c _ => c < 256
  | .bufWaitExpiry => true
  | .timeRecord => true
  | .latchNoticeOpal _ => true
  | .latchNoticeSpinel _ => true
  | .latchNoticeOnyx _ => true
  | .garnetOutcome => true
  | .destinationOutcome => true
  | .ledgerPublish => true
  | .berylEventRecord => true
  | .msixHoldoffExpiry v => v < 64
  | .msixMaskWrite w => msixOk w
  | .ctrlRingStart _ => true
  | .ledgerRingStart _ => true
  | .hostLinkDown => true
  | .hostLinkUp rate width => 0 < rate && rate ≤ 6 && [1, 2, 4, 8].contains width
  | .hostPerst => true
  | .fundamentalReset => true
  | .grnFrameLoRead => true
  | .islCommit _ => true
  | .islUncommit _ => true
  | .registerWrite off _ _ => off < 65536 && off % 4 == 0
  | .onyxFlushReport => true
  | .flushReadComplete => true
  | .opalFlushTimeout => true
  | .magazineLinkUp m gen _ vs cap => m < 4 && 4 ≤ gen && gen ≤ 6 && vs < 2 ^ 32 && cap < 2 ^ 64
  | .magazineLinkDown m also => m < 4 && also.all (· < 4)
  | .nvmeCompletion m cid status sqhd _ => m < 4 && cid < 65536 && status < 32768 && sqhd < 65536
  | .cmdTimeout m cid => m < 4 && cid < 65536
  | .smartPoll => true
  | .magazineDmaViolation m => m < 4
  | .magazineStripeToken _ => true
  | .expiryRequest => true
  | .reinit _ => true
  | .retrain _ => true
  | .onyxPowerLoss => true
  | .flushWriteDeadline => true
  | .shutdownWaitTimeout => true
  | .onyxShutdown => true
  | .magazinePowerSettled m => m < 4
  | .seqJmp n _ => n < 8
  | .seqWait n _ => n < 8
  | .seqIn n _ => n < 8
  | .seqOut n _ => n < 8
  | .seqPush n _ => n < 8
  | .seqPull n _ => n < 8
  | .seqMov n _ => n < 8
  | .seqSet n _ => n < 8
  | .flagRaise n _ => n < 8
  | .flagDrop n _ => n < 8
  | .flagTake n _ => n < 8
  | .flagTrig n _ => n < 8
  | .seqCad n _ => n < 8
  | .illegalOpcode n _ => n < 8
  | .engineEnable _ => true
  | .engineHalt _ => true
  | .gangChange _ => true
  | .seqIoEdge p _ => p < 16
  | .trigInEdge _ => true
  | .cadenceEventAgate _ => true
  | .gangCtrlWrite g data _ => g < 2 && data.all (fun d => d.1 < 4)
  | .gioTrigWrite _ => true
  | .watchdogReport _ => true
  | .watchdogExpiry => true
  | .berylRestartDone _ _ _ _ => true
  | .islandFault _ _ => true
  | .islandRecovery _ _ _ => true
  | .stall _ since => since < 2 ^ 64
  | .sensorSample l => l.length == 56
  | .thermalReading _ _ => true
  | .shutdownSignal _ => true
  | .shutdownDeadline => true
  | .telBurnRequest _ _ => true
  | .telBurnResult _ => true
  | .railDropTimeout => true
  | .otpProgram _ _ _ => true
  | .otpPulseDone _ _ _ _ _ => true
  | .vppMeasure _ => true
  | .otpRead _ => true
  | .fuseLoad _ => true
  | .patchLoad _ => true
  | .patchImageRead _ _ _ _ => true
  | .evrRecord _ => true
  | .evrReplay _ => true
  | .evrOff _ => true
  | .traceEntry => true
  | .traceBlockClose _ => true
  | .replayFeed r => replayOk r
  | .dramInitDone _ => true
  | .romStart _ => true
  | .mainInputLoss _ => true
  | .mainInputReturn _ => true
  | .keepPoweredRecord => true
  | .flushReport => true
  | .flushDeadline => true
  | .eventRepeat _ _ => true
  | .packRead _ _ => true
  | .shortCheck => true
  | .prechargeTimeout => true
  | .chargeDone => true
  | .safetyTimerExpiry => true
  | .controlStep _ _ _ => true
  | .showEnd => true
  | .powerUpDelay => true
  | .keyPress => true
  | .keyRestartHold => true
  | .keyShipHold => true
  | .shipModeEnter => true
  | .hupMagpwrWrite _ => true
  | .clrTimer _ => true
  | .topazStart _ _ => true
  | .railPgRise k => k < 6
  | .railEnableDelay => true
  | .railTimeout => true
  | .railPgFall k => k < 6
  | .railDownStep => true
  | .pwrGoodRise _ => true
  | .pwrGoodFall => true
  | .keyNRelease _ => true
  | .trigInInactive => true
  | .controllerStatusChange m csts => m < 4 && csts < 2 ^ 32
  | .pollReadTimeout => true
  | .islandResetRelease => true
  | .hostLinkError => true
  | .vddAoLoss => true

end Sys2Proof
end

