-- ==== Sys2Proof/Tests/Slice0.lean ====
section
/-! SUPPORT. Tests: an ill-formed command for each check of WellFormed, values worked out outside the model, and for every
statement with hypotheses, clause by clause, a state and operands that meet them together. -/

set_option maxRecDepth 100000
set_option linter.unusedVariables false
set_option Elab.async false

namespace Sys2Proof.Machine

/-! ### States in which the occasions of the statements arise -/

/-- The block in operation: every Island out of reset, the link up, Beryl's firmware running. -/
def wLive : Block := { coldBlock with
  quartz := { coldQuartz with running := true, tb := 1000 }
  opal := { coldOpal with link := true, perst := false }
  beryl := { coldBeryl factoryFuses [] [] false with otc := { coldOtc factoryFuses [] [] with loaded := true, replayOk := true, policyOk := true } }
  topaz := { coldTopaz with
    pwr := { coldPower with on := true, mainOk := true }, psq := .up, pwrGood := true, pwrPin := true, released := true
    berylOut := true, dramReady := true, stage := 2, enables := .replicate 6 true, pg := .replicate 6 true } }

/-- The same with every Island committed. -/
def wCommitted : Block := { wLive with topaz := { wLive.topaz with commit := .replicate 9 true } }

/-- A descriptor of fields (offset, length, value). -/
def wBytes (l : List (Nat × Nat × Nat)) : List Byte :=
  l.foldl (fun d (o, n, v) => d.take o ++ leBytes n v ++ d.drop (o + n)) (leBytes 64 0)

/-- `wLive` with descriptor 0 of the Control Ring dispatched. -/
def wDesc (d : List Byte) : Block := { wCommitted with opal := { wCommitted.opal with
  ctrl := { coldRing with state := .running, flight := [⟨0, d, .dispatched, 1⟩] } } }

/-- The block in operation with the host link down. -/
def wNoLink : Block := { wLive with opal := { wLive.opal with link := false } }

def wStrobe (p : Pulse) : Block := { wLive with quartz := { wLive.quartz with strobes := .replicate 4 ⟨p, 0, false, 0⟩ } }
def wCap : Block := { wCommitted with regs := [(0x1100, 1066665), (0x110C, 2)] }
def wCadence : Block := { wLive with quartz := { wLive.quartz with
  capState := 1, capSeq := 1, cap := some ⟨1066665, 0, 1, 2⟩, capL := 1066666, cadJ := 1 } }
def wBridge : Block := { wCadence with quartz := { wCadence.quartz with bridge := some ⟨100, 900, 400, 2, 1⟩ } }
def wToBridge : Block := { wCadence with quartz := { wCadence.quartz with
  cadJ := 2, capState := 2, staged := some ⟨⟨1066665, 0, 1, 2⟩, 2066666, 0, false⟩ } }
def wFirst : Block := { wCommitted with quartz := { wCommitted.quartz with
  capState := 2, staged := some ⟨⟨1066665, 0, 1, 2⟩, 0, 0, false⟩ } }
def wCadenceEnd : Block := { wCadence with quartz := { wCadence.quartz with cadJ := 2 } }
def wCadDesc (ch mode : Nat) : List Byte := wBytes [(0, 1, 4), (16, 1, ch), (17, 1, mode), (20, 4, 2047), (28, 4, 1)]
def wCadPast : List Byte := wBytes [(0, 1, 4), (16, 1, 2), (17, 1, 1), (20, 4, 2047), (28, 4, 1), (40, 8, 5)]
def wChan : Block := { wLive with quartz := { wLive.quartz with
  chans := .replicate 32 ⟨⟨.free, 2047, 0, 1, 0⟩, 0, some 5000, none, []⟩ } }
def wDisc (st : DiscState) : Block := { wLive with disc := { coldDisc with
  state := st, cfg := ⟨1, false, 1, 0⟩, edges := 10000, measure := ⟨0, some 0, 1024000, 1, 0, 1⟩ } }
def wDiscBad : Block := { wDisc .acquire with disc := { (wDisc .acquire).disc with qualBad := true } }
def wPull : Block := { wCadence with disc := { coldDisc with state := .acquire, step := .pulling, cfg := ⟨4, false, 1, 0⟩ } }
def wCheck : Block := { wCadence with disc := { coldDisc with state := .acquire, step := .checking, cfg := ⟨4, false, 1, 0⟩ } }
def wRelock : List Byte := wBytes [(0, 1, 15), (16, 2, 50)]
def wDisc2 (b : Block) : Block := { b with disc := { coldDisc with state := .holdover, refQual := true, cfg := ⟨1, false, 1, 0⟩ } }
def wPps : Block := { wLive with tod := { coldTod with pps := [(0, 5)], ppsSeq := 1 } }
def wTod : List Byte := wBytes [(0, 1, 13), (24, 6, 1700000000)]
def wTodState : Block := { wDesc wTod with tod := { coldTod with pps := [(0, 5)], ppsSeq := 1 } }

def wProg : List Byte := wBytes [(0, 1, 1), (16, 4, 1), (20, 2, 2), (22, 2, 2), (40, 4, 4096 * 8192), (57, 1, 0)]
def wProgram : FrameProgram := parseProgram wProg
def wSnap : Snapshot := {
  frame := 0, prog := wProgram, nEff := 2, t := 0, policy := .queueOne, hCount := 0, take := none, overrun := 0, trigStamp := none
  flags := ⟨false, false, false, false, false, false, false, false, false⟩, cadSeq := 1, cad1Stamp := 0, l := 1066666, g := 2
  planes := [], refs := (none, none, none), period := 1066666, time := none, timeStep := false }
def wTime : TimeRecord := {
  cad1Stamp := 0, refState := 0, refEvent := false, phaseAdopted := false, epoch := 0, todValid := false, todCoarse := false
  todStale := false, todSeconds := 0, todNs := 0, utcOffset := 0, tc := 0, tcIndex := 0, tcDf := false, corr := 0 }
def wProgBad : List Byte := wBytes [(0, 1, 1)]
def wProgFits : Block := { wDesc wProg with quartz := { wCadence.quartz with cap := some ⟨1066665, 0, 1, 2⟩ } }
def wTake (action : Nat) : List Byte := wBytes [(0, 1, 2), (16, 1, action), (32, 4, 9)]
def wTaking (b : Block) : Block := { b with
  garnet := { b.garnet with take := some ⟨9, 0, 1, none, false⟩ }, opal := { b.opal with takeOpen := true } }
def wTrig : List Byte := wBytes [(0, 1, 3), (16, 1, 1), (18, 1, 2)]
def wTrigger (l : Option Nat) : Block := { wLive with
  garnet := { coldGarnet with mode := .triggered, latch := l }, ch := { coldChannels with agateGarnet := [.pin] } }
/-- Triggered capture runs, with a Frame in progress or with none. -/
def wTrigRun (policy : TrigPolicy) (busy : Bool) : Block := { wCommitted with
  quartz := { wLive.quartz with capState := 1, capSeq := 1, cap := some ⟨1066665, 0, 1, 2⟩, capL := 1066666, cadJ := 1 }
  garnet := { coldGarnet with
    mode := .triggered, policy, started := true, waitSf := 0, cad := some (0, 2, 1066666, 1), applied := some (parseProgram wProg)
    t := 0, d := 1, hand := if busy then some ⟨wSnap, 0, 1, 0, [], none⟩ else none }
  ch := { coldChannels with agateGarnet := [.pin] } }
def wTriggerOff : Block := { wLive with ch := { coldChannels with agateGarnet := [.pin] } }
def wClusterIn : ClusterIn := { pix := .replicate 16 ⟨0, 0, 0, 0, 0, 0, 0, 0, 0⟩, dark := 0 }
def wScene : Scene := { rest := wClusterIn, listed := [] }
def wSub (d : Nat) : Block := { wCommitted with
  garnet := { coldGarnet with started := true, cad := some (0, 4, 1066666, 1), j := 1, d }
  ch := { coldChannels with quartzGarnet := [.cad0 500000 false false 0] } }
def wCad1 (s : Option Snapshot) : Block := { wCommitted with
  quartz := { wLive.quartz with capState := 1, capSeq := 1, cap := some ⟨1066665, 0, 1, 2⟩, capL := 1066666, cadJ := 1 }
  garnet := { coldGarnet with started := true, cad := some (0, 4, 1066666, 1), bound := s, boundReady := s.isSome }
  ch := { coldChannels with quartzGarnet := [.cad1 500000 4 1066666 1 wTime] } }
def wJob : DrainJob := { snap := wSnap, addr := drainBase, planes := [(0, true, 0)], profile := none }
def wHolding : Block := { wLive with
  garnet := { coldGarnet with drn := .holding }, ch := { coldChannels with drnAck := true } }

def wHeader (s : Snapshot) : Block := { wLive with ch := { coldChannels with garnetJade := [.header s] } }
def wTok : StripeToken := { frame := 0, gen := 1, plane := 0, stripe := 0, ordinal := 0, addr := 0, len := 4, crc := 0x48674bc7, marks := 0 }
def wJFrame : JFrame := {
  snap := wSnap, cfg := ⟨false, 32, 64, 16, 256, 0⟩, dests := none, segs := [], stripes := [], processed := [], stats := []
  marks := 0, dynCount := 0, profile := none, statsDone := false }
def wToken (t : StripeToken) : Block := { wLive with
  jade := { coldJade with frames := [wJFrame] }, ch := { coldChannels with garnetJade := [.stripe t] } }
def wJReady : JFrame := { wJFrame with dests := some [], stripes := [⟨0, 0, 0, none⟩] }
/-- A Frame of two Stripes a Plane, all processed, that waits for its profile. -/
def wJDone : JFrame := { wJFrame with dests := some [], processed := (stripeTags wSnap.prog) }
def wProcess : Block := { wLive with jade := { coldJade with frames := [wJReady] } }
def wSet : List Byte := wBytes [(0, 1, 7), (18, 1, 1), (20, 4, 1), (28, 2, 64), (30, 2, 64)]
def wSetBad : List Byte := wBytes [(0, 1, 7), (18, 1, 1), (28, 2, 64), (30, 2, 64)]
def wOpened (b : Block) : Block := b.setCtx 0 { coldCtx with state := .opened }
def wSetsFull (b : Block) : Block := { b with jade := { coldJade with
  settings := .replicate 4 (parseSettings wSet) } }
def wRefDesc (action : Nat) : List Byte := wBytes [(0, 1, 8), (16, 1, 1), (17, 1, action), (20, 4, 64)]
def wRefBuf : List Byte := leBytes 64 0x101
def wRefHeld (b : Block) : Block := { b with jade := { coldJade with
  refs := [{ kind := .defect, id := 0, version := 0, slot := 0, len := 64, live := true, poisoned := false }], refVer := 1 } }

def wDest (mag keyed : Bool) : Dest := {
  index := 0, ctx := 0, magazine := mag, set := parseSettings wSet, row0 := 0, rows := 0, segLen := 192, keyed }
def wWindow (ds : List Dest) : Block := { wCommitted with
  opal := { wCommitted.opal with window := [freshFrame wSnap ds false] }, ch := { coldChannels with spinelDests := [(0, ds)], onyxDests := [(0, ds)] } }
def wSegTok : SegToken := {
  frame := 0, plane := 0, index := 0, stripe := 0, len := 64, marks := 0, header := false, magazine := false }
def wSegIn (b : Block) : Block := { b with ch := { b.ch with jadeSpinel := [wSegTok] } }
def wSeg : SpinelSeg := { frame := 0, dest := wDest false false, addr := stagingBase, stripes := [], whole := false, buffer := none, moved := [], ue := false, dropped := false }
def wHostSeg : Block := { wWindow [wDest false false] with
  opal := { (wWindow [wDest false false]).opal with link := false }
  spinel := { coldSpinel with segs := [wSeg], staging := [(0, 0, stagingBase, 192)] } }
def wNotice (b : Block) (s : Option Snapshot) : Block := { b with ch := { b.ch with noticeSpinel := [⟨0, s, none, none⟩] } }
def wFullStaging (b : Block) : Block := { b with spinel := { b.spinel with staging := [(9, 9, stagingBase, stagingSize)] } }
def wKeyDesc (len : Nat) : List Byte := wBytes [(0, 1, 9), (20, 4, len), (24, 8, 64)]
def wKey : List Byte := (List.range 64).map (BitVec.ofNat 8)
def wWrapped : List Byte := leBytes 72 0xbd037a171db70156ed26ecc56cc5a4831fb5d6abd5c7edd91e531cef0e0493d00863a263bce032ed5edd3f1f78a1c7d76c876f6e7ef381281970807a1e4865a5a355ce60c957c339
def wImport (b : Block) : Block := { b with spinel := { b.spinel with import_ := true, kek := some (.replicate 32 0) } }
def wSlot (k : KeySlot) (b : Block) : Block := { b with spinel := { b.spinel with slots := b.spinel.slots.setIfInBounds 0 k } }
def wRolling : KeySlot := { state := .rolling, current := wKey, previous := wKey.reverse, until_ := 0 }
theorem wUnwrapped : unwrapKey (.replicate 32 0) wWrapped = some wKey := by decide +kernel
theorem wUnwraps (b : Block) (h : b.spinel.kek = some (.replicate 32 0)) :
    b.spinel.kek.bind (fun k => unwrapKey k wWrapped) = some wKey := by
  rw [h, Option.bind_some]; exact wUnwrapped

def wPolls (b : Block) : Block := { b with opal := { b.opal with ctrl := { coldRing with state := .running } } }
def wPage (pi : Nat) : List Byte := leBytes 2112 (pi * 2 ^ 256)
def wFetch : Block := { wCommitted with opal := { wCommitted.opal with ctrl := { coldRing with state := .running, pi := 1 } } }
def wNop : List Byte := wBytes [(0, 1, 0), (1, 1, 1), (4, 8, 77)]
def wOpenDesc (flags base : Nat) : List Byte :=
  wBytes [(0, 1, 5), (17, 1, flags), (18, 1, 2), (20, 4, 16), (24, 4, 16), (32, 8, base), (40, 8, 8192)]
def wCloseDesc (mode : Nat) : List Byte := wBytes [(0, 1, 6), (17, 1, mode)]
def wClosing (d : Option Nat) (c : Bool) (b : Block) : Block :=
  b.setCtx 0 { coldCtx with state := .closing, closeDesc := d, cancelled := c, ring := { coldRing with state := .running } }
def wPost (len : Nat) : List Byte := wBytes [(0, 1, 0x20), (16, 8, 4096), (24, 4, len)]
def wPosted (host : Bool) (len : Nat) (ds : List Dest) : Block :=
  (wWindow ds).setCtx 0 { coldCtx with
    state := .opened, hostRing := host, ring := { coldRing with state := .running, flight := [⟨0, wPost len, .dispatched, 1⟩] } }
def wReady (len : Nat) : Block :=
  let b := wPosted true len [wDest false false]
  { b with
    opal := { b.opal with window := [{ freshFrame wSnap [] false with dests := [{ freshDest (wDest false false) with ready := true }] }] }
    spinel := { coldSpinel with segs := [wSeg], staging := [(0, 0, stagingBase, 192)] } }
def wWaited : Block := (wWindow [wDest false false]).modOpal (fun o => { o with
  cad1 := 9, window := [{ freshFrame wSnap [wDest false false] false with handEnd := some 1 }] })
def wMoved : Block :=
  let b := wPosted true 192 [wDest false false]
  { b with
    opal := { b.opal with window := [{ freshFrame wSnap [] false with
      dests := [{ freshDest (wDest false false) with ready := true, buffer := some 0 }] }] }
    spinel := { coldSpinel with segs := [{ wSeg with whole := true }], staging := [(0, 0, stagingBase, 192)] }
    ch := { coldChannels with spinelOpal := [⟨0, 0, 0, 64, 0, true, 1, false⟩] } }
def wLedger : Block := { wLive with opal := { wLive.opal with
  ldg := { coldOpal.ldg with state := .running }
  window := [{ freshFrame { wSnap with time := some wTime } [] false with handEnd := some 1 }] } }
def wQuery (len : Nat) : List Byte := wBytes [(0, 1, 14), (24, 4, len), (32, 8, 4096)]
def wQueried (len : Nat) : Block := { wDesc (wQuery len) with opal := { (wDesc (wQuery len)).opal with
  window := [freshFrame wSnap [] false] } }
def wEvent (b : Block) : Block := { b with ch := { b.ch with berylOpal := [⟨0x0A, 5, frameNone, []⟩] } }
def wVec (v : Vec) (b : Block) : Block := { b with opal := { b.opal with msixEnable := true, vecs := b.opal.vecs.setIfInBounds 0 v } }
def wVecs (v : Vec) : Block := wVec v { wLive with regs := [(0x600C, 0)] }
def wBadLog : Block := { wCommitted with regs := [(0x5020, 0), (0x5038, 0)] }
def wStart (b : Block) : Block := { b with regs := [(0x5020, 0x404), (0x5038, 4)] }

def wMedia : Media := {
  uid := [], initDevice := [], nsLbas := 2 ^ 20, sbSeq := 0, ckptSeq := 0, ckptBlock := 0, jSeq := 0, jBlock := 0
  allocNext := dataFirst (2 ^ 20), indexNext := 0, clipNext := 0, tail := [], cfs := 1 }
def wReadyPort : Port := { emptyPort with state := .ready, settled := true, media := some wMedia }
def wPort (m : Nat) (p : Port) (b : Block) : Block := portMod m (fun _ => p) b
def wRate (b : Block) : Block := { b with regs := [(0x7000, 100), (0x7010, 4)] }
def wSetDesc (mode : Nat) : List Byte := wBytes [(0, 1, 10), (16, 1, mode), (17, 1, 255), (20, 4, 0xFFFFFF00)]
def wMagSet : MagSet := { mode := .single, members := [0], standby := none, target := false }
def wQueryDesc (m page len : Nat) : List Byte := wBytes [(0, 1, 11), (16, 1, m), (17, 1, page), (20, 4, len)]
def wOnyxNotice (s : Option Snapshot) (b : Block) : Block := { b with ch := { b.ch with noticeOnyx := [⟨0, s, none, none⟩] } }
def wCmd (use : NvmeUse) : NvmeCmd := { cid := 5, op := .getSmart, use, retried := false }
def wHeldSeg : OnyxSeg := {
  frame := 0, dest := wDest true false, addr := 0, mode := .single, parts := [], whole := false, header := [], takeNo := none
  ante := true, released := false, rehomed := false, standby := none, expected := 1, marks := 0
  outcome := .pending }
def wOnyx (f : Onyx → Onyx) (b : Block) : Block := b.modOnyx f

def wServed : Block := { wNotice (wWindow []) (some wSnap) with
  ch := { (wNotice (wWindow []) (some wSnap)).ch with noticeSpinel := [] } }
def wReleased : Block := { wSlot wRolling wLive with spinel := { (wSlot wRolling wLive).spinel with
  binds := (wSlot wRolling wLive).spinel.binds.filter (bindLive (wSlot wRolling wLive))
  slots := Vector.ofFn (fun j => releaseSlot ((wSlot wRolling wLive).spinel.binds.filter (bindLive (wSlot wRolling wLive))) j.val
    (mayBind (wSlot wRolling wLive) ((wSlot wRolling wLive).spinel.slots.get j)) ((wSlot wRolling wLive).spinel.slots.get j)) } }
def wEngine : Engine := { blankEngine with en := true }
def wAgate (f : Agate → Agate) : Block := wCommitted.modAgate f
def wInstr (w : Half) : Block := wAgate (fun a => { a with
  store := a.store.setIfInBounds 0 w, eng := a.eng.setIfInBounds 0 wEngine, due := a.due.setIfInBounds 0 true })
def wInstrE (w : Half) (e : Engine) : Block := wAgate (fun a => { a with
  store := a.store.setIfInBounds 0 w, eng := a.eng.setIfInBounds 0 e, due := a.due.setIfInBounds 0 true })
def wGang (w : Half) (r : GangRegs) : Block := { wInstr w with agate := { (wInstr w).agate with gangLo := true, gang := .replicate 2 r } }
def wGangRegs : GangRegs := { out := .replicate 4 7, in_ := .replicate 4 0, outValid := true, inValid := false }
def wSeq (op words : Nat) : List Byte := wBytes [(0, 1, 12), (17, 1, op), (20, 4, 64), (32, 2, words), (34, 2, 10)]
def wTransfer (op : TransferOp) : Transfer := { desc := 0, engine := 0, op, words := 4, moved := 1, addr := 0, data := [] }

theorem leBytes_length (n v : Nat) : (leBytes n v).length = n := by
  induction n generalizing v with
  | zero => rfl
  | succ n ih => simp [leBytes, ih]

theorem leNat_leBytes (n v : Nat) : leNat (leBytes n v) = v % 256 ^ n := by
  induction n generalizing v with
  | zero => simp [leBytes, leNat, Nat.mod_one]
  | succ n ih =>
    show (BitVec.ofNat 8 v).toNat + 256 * leNat (leBytes n (v / 256)) = _
    rw [ih, BitVec.toNat_ofNat, show (256 : Nat) ^ (n + 1) = 256 * 256 ^ n from by rw [Nat.pow_succ, Nat.mul_comm],
      Nat.mod_mul]

theorem leAt_append_left (h r : List Byte) (o n : Nat) (hl : o + n ≤ h.length) : leAt (h ++ r) o n = leAt h o n := by
  unfold leAt
  rw [List.drop_append_of_le_length (by omega), List.take_append_of_le_length (by simp; omega)]

def wSlotHead (seq first : Nat) : List Byte :=
  leBytes 4 0x45435254 ++ leBytes 2 1 ++ leBytes 2 0 ++ leBytes 8 seq ++ leBytes 8 first ++ leBytes 36 0
def wTraceSlot (seq first : Nat) : List Byte :=
  wSlotHead seq first ++ (leBytes 4 (crc32c (wSlotHead seq first ++ leBytes 4032 0)).toNat ++ leBytes 4032 0)

theorem wSlot_len (s f : Nat) : (wSlotHead s f).length = 60 := by simp [wSlotHead, leBytes_length]
theorem wTraceSlot_at (s f o n : Nat) (h : o + n ≤ 60) : leAt (wTraceSlot s f) o n = leAt (wSlotHead s f) o n :=
  leAt_append_left _ _ _ _ (by rw [wSlot_len]; exact h)
theorem wTraceSlot_drop (s f : Nat) : (wTraceSlot s f).drop 64 = leBytes 4032 0 := by
  rw [wTraceSlot, ← List.append_assoc]
  exact List.drop_left' (by simp [wSlot_len, leBytes_length])
theorem wTraceSlot_crc (s f : Nat) :
    leAt (wTraceSlot s f) 60 4 = (crc32c ((wTraceSlot s f).take 60 ++ ((wTraceSlot s f).drop 64).take 4032)).toNat := by
  rw [wTraceSlot_drop, show (wTraceSlot s f).take 60 = wSlotHead s f from List.take_left' (wSlot_len s f),
    List.take_of_length_le (Nat.le_of_eq (leBytes_length _ _)), leAt, wTraceSlot, List.drop_left' (wSlot_len s f),
    List.take_left' (leBytes_length _ _), leNat_leBytes]
  exact Nat.mod_eq_of_lt (crc32c _).isLt
theorem wTraceSlot_check (q s f : Nat) :
    checkSlot q (wTraceSlot s f) =
      if leAt (wSlotHead s f) 0 4 != 0x45435254 || leAt (wSlotHead s f) 4 2 != 1 || leAt (wSlotHead s f) 8 8 < q then .wait
      else if leAt (wSlotHead s f) 8 8 = q then .ready else .missing := by
  have hl : (wTraceSlot s f).length = 4096 := by simp [wTraceSlot, wSlot_len, leBytes_length]
  unfold checkSlot
  simp only [← wTraceSlot_crc, hl, wTraceSlot_at s f 0 4 (by decide), wTraceSlot_at s f 4 2 (by decide),
    wTraceSlot_at s f 8 8 (by decide)]
  simp
theorem wReady00 : checkSlot 0 (wTraceSlot 0 0) = .ready := by rw [wTraceSlot_check]; decide
theorem wReady09 : checkSlot 0 (wTraceSlot 0 9) = .ready := by rw [wTraceSlot_check]; decide
theorem wMissing : checkSlot 0 (wTraceSlot 1 0) = .missing := by rw [wTraceSlot_check]; decide
theorem wFirst9 : leAt (wTraceSlot 0 9) 16 8 ≠ 0 := by rw [wTraceSlot_at _ _ _ _ (by decide)]; decide
theorem wFirst0 : leAt (wTraceSlot 0 0) 16 8 = 0 := by rw [wTraceSlot_at _ _ _ _ (by decide)]; decide
theorem wEntries : parseEntries (leAt (wTraceSlot 0 0) 6 1) 0 (((wTraceSlot 0 0).drop 64).take (32 * leAt (wTraceSlot 0 0) 6 1)) = some [] := by
  rw [wTraceSlot_at _ _ _ _ (by decide), show leAt (wSlotHead 0 0) 6 1 = 0 from by decide]; rfl

/-- The block in operation with a pulse in progress. -/
def wBurns : Block := modOtc (fun o => { o with pulse := some (1024, 1) }) wLive
theorem wBurns_inv : wBurns.Inv := ⟨rfl, rfl, rfl, by decide, rfl, rfl⟩


/-- A descriptor behind an earlier one that changes Context 0. -/
def wHeld (d : List Byte) : Block := { wCommitted with opal := { wCommitted.opal with
  ctrl := { coldRing with state := .running, flight := [⟨1, wCloseDesc 0, .dispatched, 1⟩, ⟨0, d, .dispatched, 1⟩] } } }

/-- A failed item on its way to Onyx. -/
def wFailTok : SegToken := { wSegTok with stripe := 255, len := 0, marks := markFailStop, magazine := false }

/-- Three faults whose stamps the Time Base has not reached lie in the last 60 s. -/
theorem wFaults (b : Block) (h : (b.isl .jade).faultTimes = [2000, 2001, 2002]) (ht : b.quartz.tb = 1000) :
    3 ≤ recentFaults b .jade := by
  unfold recentFaults
  rw [h, ht, List.filter_eq_self.mpr]
  · decide
  · intro t m
    simp only [List.mem_cons, List.not_mem_nil, or_false] at m
    simp only [decide_eq_true_eq]
    omega

/-! ### States and operands that meet the hypotheses of each statement, clause by clause -/

theorem witness_EveryStepKeepsTheInvariant_0 : ∃ s t : State, s.blk.Inv ∧ step s = .next t :=
  ⟨⟨[.tbLoRead], wBurns⟩, _, wBurns_inv, rfl⟩
theorem witness_NothingTurnsAFuseBackToZero_0 : ∃ s t : State, s.blk.Inv ∧ step s = .next t :=
  ⟨⟨[.otpPulseDone 1 1 1800], wBurns⟩, _, wBurns_inv, rfl⟩
theorem witness_NothingTurnsAFuseBackToZero_1 : ∃ s t : State, (∀ fired firm mv soft more, s.pending.head? ≠ some
    (.otpPulseDone fired firm mv soft more)) ∧ step s = .next t :=
  ⟨⟨[.tbLoRead], wBurns⟩, _, by simp, rfl⟩
theorem witness_TimeBaseReadLatchesItsHighHalf_0 : ∃ (b : Block), (b.bar0 = true) :=
  ⟨wLive, by decide +kernel⟩
theorem witness_TimeBaseReadLatchesItsHighHalf_1 : ∃ b : Block, b.bar0 = true :=
  ⟨wLive, by decide +kernel⟩
theorem witness_LatchingReadsOfCadenceAndFrame_0 : ∃ (b : Block) (v : Nat), (b.bar0 = true) ∧ (vget b.quartz.evLast
    (b.field 0x1400 4 0) 0 = v) :=
  ⟨wLive, 0, by decide +kernel⟩
theorem witness_LatchingReadsOfCadenceAndFrame_1 : ∃ (b : Block), (b.bar0 = true) :=
  ⟨wLive, by decide +kernel⟩
theorem witness_StrobePulsesRunTheirWidth_0 : ∃ (b : Block) (k t w : Nat) (x : Strobe), (b.alive .quartz = true) ∧ (k < 4)
    ∧ (b.strobe k = x) ∧ (x.pulse = .pending t w) :=
  ⟨wStrobe (.pending 40 9), 0, 40, 9, ⟨.pending 40 9, 0, false, 0⟩, by decide +kernel⟩
theorem witness_StrobePulsesRunTheirWidth_1 : ∃ (b : Block) (k t : Nat) (x : Strobe), (b.alive .quartz = true) ∧ (k < 4) ∧
    (b.strobe k = x) ∧ (x.pulse = .active t) :=
  ⟨wStrobe (.active 49), 0, 49, ⟨.active 49, 0, false, 0⟩, by decide +kernel⟩
theorem witness_StrobePulsesRunTheirWidth_2 : ∃ (b : Block) (k : Nat) (w : Word) (x : Strobe), (b.bar0 = true) ∧ (k < 4) ∧
    (b.strobe k = x) ∧ (x.pulse = .idle) :=
  ⟨wLive, 1, 0x23, ⟨.idle, 0, false, 0⟩, by decide +kernel⟩
theorem witness_StrobePulsesRunTheirWidth_3 : ∃ (b : Block) (k : Nat) (w : Word) (x : Strobe), (b.bar0 = true) ∧ (k < 4) ∧
    (b.strobe k = x) ∧ (x.pulse ≠ .idle) :=
  ⟨wStrobe (.active 49), 0, 0x23, ⟨.active 49, 0, false, 0⟩, by decide +kernel⟩
theorem witness_CaptureCadenceApplyStagesOrRefuses_0 : ∃ (b : Block), (b.bar0 = true) ∧ (b.committed .quartz = true) ∧
    (applyResult b.quartz b.takeAccepted b.quartz.tb (capFields b).1 (capFields b).2 = 0) :=
  ⟨wCap, by decide +kernel⟩
theorem witness_CaptureCadenceApplyStagesOrRefuses_1 : ∃ (b : Block) (r : Nat), (b.bar0 = true) ∧ (b.committed .quartz =
    true) ∧ (applyResult b.quartz b.takeAccepted b.quartz.tb (capFields b).1 (capFields b).2 = r) ∧ (r ≠ 0) :=
  ⟨wCommitted, 3, by decide +kernel⟩
theorem witness_CaptureCadenceApplyStagesOrRefuses_2 : ∃ (b : Block), (b.committed .quartz = false) :=
  ⟨wLive, by decide +kernel⟩
theorem witness_CaptureCadenceApplyStagesOrRefuses_3 : ∃ (y : Quartz) (c : Cadence), (y.capState = 2 ∧ c.reload + 1 <
    1066666) :=
  ⟨{ coldQuartz with capState := 2 }, ⟨0, 0, 1, 1⟩, by decide +kernel⟩
theorem witness_CaptureCadenceEventsGoToGarnet_0 : ∃ (b : Block) (c : Cadence), (b.alive .quartz = true) ∧ (b.quartz.bridge
    = none) ∧ (b.quartz.cap = some c) ∧ (b.quartz.cadJ < c.grid) :=
  ⟨wCadence, ⟨1066665, 0, 1, 2⟩, by decide +kernel⟩
theorem witness_CaptureCadenceEventsGoToGarnet_1 : ∃ (b : Block) (r : Bridge), (b.alive .quartz = true) ∧ (b.quartz.bridge
    = some r) ∧ (r.next < r.count) :=
  ⟨wBridge, ⟨100, 900, 400, 2, 1⟩, by decide +kernel⟩
theorem witness_CaptureCadenceEventsGoToGarnet_2 : ∃ (b : Block) (s : StagedCadence) (n : Nat), (b.alive .quartz = true) ∧
    (nextCad1 b.quartz = .bridge n) ∧ (b.quartz.staged = some s) :=
  ⟨wToBridge, ⟨⟨1066665, 0, 1, 2⟩, 2066666, 0, false⟩, 1066666, by decide +kernel⟩
theorem witness_CaptureCadenceEventsGoToGarnet_3 : ∃ (b : Block) (s : StagedCadence) (n : Nat), (b.alive .quartz = true) ∧
    (nextCad1 b.quartz = .first n) ∧ (b.quartz.staged = some s) ∧ (b.disc.phaseAdopted = false) :=
  ⟨wFirst, ⟨⟨1066665, 0, 1, 2⟩, 0, 0, false⟩, 2048, by decide +kernel⟩
theorem witness_CaptureCadenceEventsGoToGarnet_4 : ∃ (b : Block) (c : Cadence) (n : Nat), (b.alive .quartz = true) ∧
    (nextCad1 b.quartz = .old n) ∧ (b.quartz.cap = some c) :=
  ⟨wCadenceEnd, ⟨1066665, 0, 1, 2⟩, 1066666, by decide +kernel⟩
theorem witness_CadenceChannelsTakeTheirSettings_0 : ∃ (b : Block) (i off : Nat) (d : List Byte), (b.alive .quartz = true)
    ∧ (b.dispatched ctrlRing i 0x04 = some d) ∧ (cadenceFault d (b.quartz.cap.map (·.reload)) = some off) :=
  ⟨wDesc (wCadDesc 1 0), 0, 16, wCadDesc 1 0, by decide +kernel⟩
theorem witness_CadenceChannelsTakeTheirSettings_1 : ∃ (b : Block) (i : Nat) (d : List Byte), (b.alive .quartz = true) ∧
    (b.dispatched ctrlRing i 0x04 = some d) ∧ (cadenceFault d (b.quartz.cap.map (·.reload)) = none) ∧ (leAt d 17 1 = 0) :=
  ⟨wDesc (wCadDesc 2 0), 0, wCadDesc 2 0, by decide +kernel⟩
theorem witness_CadenceChannelsTakeTheirSettings_2 : ∃ (b : Block) (i : Nat) (d : List Byte), (b.alive .quartz = true) ∧
    (b.dispatched ctrlRing i 0x04 = some d) ∧ (cadenceFault d (b.quartz.cap.map (·.reload)) = none) ∧ (leAt d 17 1 = 1) ∧
    (leAt d 40 8 = 0) :=
  ⟨wDesc (wCadDesc 2 1), 0, wCadDesc 2 1, by decide +kernel⟩
theorem witness_CadenceChannelsTakeTheirSettings_3 : ∃ (b : Block) (i : Nat) (d : List Byte), (b.alive .quartz = true) ∧
    (b.dispatched ctrlRing i 0x04 = some d) ∧ (cadenceFault d (b.quartz.cap.map (·.reload)) = none) ∧ (leAt d 17 1 = 1) ∧
    (leAt d 40 8 ≠ 0) ∧ (leAt d 40 8 < b.quartz.tb + 1024) :=
  ⟨wDesc wCadPast, 0, wCadPast, by decide +kernel⟩
theorem witness_CadenceChannelsTakeTheirSettings_4 : ∃ (b : Block) (i : Nat) (d : List Byte), (b.alive .quartz = true) ∧
    (b.dispatched ctrlRing i 0x04 = some d) ∧ (cadenceFault d (b.quartz.cap.map (·.reload)) = none) ∧ (leAt d 17 1 = 2) :=
  ⟨wDesc (wCadDesc 2 2), 0, wCadDesc 2 2, by decide +kernel⟩
theorem witness_CadenceChannelsTakeTheirSettings_5 : ∃ (b : Block) (k t : Nat) (c : Chan), (b.alive .quartz = true) ∧ (2 ≤
    k) ∧ (k < 32) ∧ (b.chan k = c) ∧ (c.setting.mode = .free) ∧ (c.waits = []) ∧ (c.late = none) ∧ (c.due = some t) :=
  ⟨wChan, 2, 5000, ⟨⟨.free, 2047, 0, 1, 0⟩, 0, some 5000, none, []⟩, by decide +kernel⟩
theorem witness_ReferenceEdgesAndLoss_0 : ∃ (b : Block) (n held : Nat) (level : Bool), (b.alive .quartz = true) ∧
    (b.beryl.evr.mode ≠ 2) ∧ (b.disc.cfg.kind ≠ 0) ∧ (b.disc.frozen = false) ∧ (level ≠ b.disc.cfg.edge) ∧ (refFilter
    b.disc.cfg ≤ held) :=
  ⟨wDisc .locked, 77, 0, true, by decide +kernel⟩
theorem witness_ReferenceEdgesAndLoss_1 : ∃ (b : Block) (n held : Nat) (level : Bool), (b.alive .quartz = true) ∧
    (b.beryl.evr.mode ≠ 2) ∧ (level = b.disc.cfg.edge ∨ held < refFilter b.disc.cfg) :=
  ⟨wDisc .locked, 77, 0, false, by decide +kernel⟩
theorem witness_ReferenceEdgesAndLoss_2 : ∃ (b : Block), (b.alive .quartz = true) ∧ (b.disc.cfg.kind ≠ 0) ∧ (b.disc.frozen
    = false) ∧ (edgesPerCompare b.disc.cfg.kind ≤ b.disc.edges) :=
  ⟨wDisc .locked, by decide +kernel⟩
theorem witness_ReferenceEdgesAndLoss_3 : ∃ (b : Block), (b.alive .quartz = true) ∧ (b.disc.cfg.kind ≠ 0) ∧ (b.disc.lost =
    false) ∧ (b.disc.state = .locked) ∧ (b.disc.pending = none) :=
  ⟨wDisc .locked, by decide +kernel⟩
theorem witness_AcquisitionRunsItsSteps_0 : ∃ (b : Block), (b.alive .quartz = true) ∧ (b.disc.cfg.kind ≠ 0) ∧ (b.disc.step
    = .qualifying) ∧ (b.disc.state = .acquire) ∧ (b.disc.qualBad = false) ∧ (b.disc.measure.periods ≠ 0) ∧ ((windowOffset b
    b.disc.measure).natAbs ≤ 50000000) :=
  ⟨wDisc .acquire, by decide +kernel⟩
theorem witness_AcquisitionRunsItsSteps_1 : ∃ (b : Block), (b.alive .quartz = true) ∧ (b.disc.cfg.kind ≠ 0) ∧ (b.disc.step
    = .qualifying) ∧ (b.disc.state = .acquire) ∧ (b.disc.qualBad = true) :=
  ⟨wDiscBad, by decide +kernel⟩
theorem witness_AcquisitionRunsItsSteps_2 : ∃ (b : Block) (c : Cadence), (b.alive .quartz = true) ∧ (b.disc.state =
    .acquire) ∧ (b.disc.step = .pulling) ∧ (b.disc.cfg.kind = 4) ∧ (b.quartz.cap = some c) ∧ (b.quartz.staged = none) :=
  ⟨wPull, ⟨1066665, 0, 1, 2⟩, by decide +kernel⟩
theorem witness_AcquisitionRunsItsSteps_3 : ∃ (b : Block), (b.alive .quartz = true) ∧ (b.disc.state = .acquire) ∧
    (b.disc.step = .checking) ∧ (b.disc.checkBad = false) ∧ (b.disc.pending = none) :=
  ⟨wCheck, by decide +kernel⟩
theorem witness_AcquisitionRunsItsSteps_4 : ∃ (b : Block), (b.alive .quartz = true) ∧ (b.disc.state = .acquire) ∧
    (b.disc.step = .checking) ∧ (b.disc.checkBad = true) :=
  ⟨{ wCheck with disc := { wCheck.disc with checkBad := true } }, by decide +kernel⟩
theorem witness_AcquisitionRunsItsSteps_5 : ∃ (b : Block), (b.alive .quartz = true) ∧ (b.disc.state = .acquire) ∧
    (b.disc.step ≠ .qualifying) ∧ (b.disc.pending = none) :=
  ⟨wCheck, by decide +kernel⟩
theorem witness_AcquisitionRunsItsSteps_6 : ∃ (b : Block) (i : Nat) (d : List Byte), (b.alive .quartz = true) ∧
    (b.dispatched ctrlRing i 0x0F = some d) ∧ (leAt d 16 2 ≤ 100) ∧ (leAt d 16 2 ≠ 0) ∧ (b.disc.state = .holdover) ∧
    (b.disc.refQual = true) ∧ (b.disc.pending = none) :=
  ⟨wDisc2 (wDesc wRelock), 0, wRelock, by decide +kernel⟩
theorem witness_AcquisitionRunsItsSteps_7 : ∃ (b : Block) (i : Nat) (d : List Byte), (b.alive .quartz = true) ∧
    (b.dispatched ctrlRing i 0x0F = some d) ∧ (leAt d 16 2 ≤ 100) ∧ (b.disc.state ≠ .holdover) :=
  ⟨wDesc wRelock, 0, wRelock, by decide +kernel⟩
theorem witness_PpsEdgesAreNumberedAndRejected_0 : ∃ (b : Block) (n held : Nat) (level : Bool), (b.alive .quartz = true) ∧
    (b.beryl.evr.mode ≠ 2) ∧ (edgeCounts (b.tod.ppsCfg.getLsbD 0) level (bitsOf b.tod.ppsCfg.toNat 31 16) held = true) ∧
    ((∀ e ∈ b.tod.pps.head?, e.2 + 1023000000 ≤ n)) :=
  ⟨wLive, 5, 0, true, by decide +kernel⟩
theorem witness_PpsEdgesAreNumberedAndRejected_1 : ∃ (b : Block) (n held m k : Nat) (level : Bool) (l : List (Nat × Nat)),
    (b.alive .quartz = true) ∧ (b.beryl.evr.mode ≠ 2) ∧ (edgeCounts (b.tod.ppsCfg.getLsbD 0) level (bitsOf
    b.tod.ppsCfg.toNat 31 16) held = true) ∧ (b.tod.pps = (k, m) :: l) ∧ (n < m + 1023000000) :=
  ⟨wPps, 5, 0, 5, 0, true, [], by decide +kernel⟩
theorem witness_PpsEdgesAreNumberedAndRejected_2 : ∃ (b : Block) (n held : Nat) (level : Bool), (b.alive .quartz = true) ∧
    (b.beryl.evr.mode ≠ 2) ∧ (edgeCounts (b.tod.ppsCfg.getLsbD 0) level (bitsOf b.tod.ppsCfg.toNat 31 16) held = false) :=
  ⟨wLive, 5, 0, false, by decide +kernel⟩
theorem witness_TimeOfDayStagesItsPairing_0 : ∃ (b : Block) (i p m : Nat) (d : List Byte), (b.alive .quartz = true) ∧
    (b.beryl.evr.mode ≠ 2) ∧ (b.dispatched ctrlRing i 0x0D = some d) ∧ (bitsOf (leAt d 20 4) 29 0 ≤ 999999999) ∧ (leAt d 16
    4 ≠ 0xFFFFFFFF) ∧ (b.tod.pps.find? (fun e => e.1 == leAt d 16 4) = some (m, p)) ∧ (b.quartz.tb ≤ p + 4096000000) ∧
    (b.tod.epoch = 0) ∧ (b.tod.pairing = none) ∧ (b.tod.staged = none) :=
  ⟨wTodState, 0, 5, 0, wTod, by decide +kernel⟩
theorem witness_TimeOfDayStagesItsPairing_1 : ∃ (b : Block) (i : Nat) (d : List Byte), (b.alive .quartz = true) ∧
    (b.beryl.evr.mode ≠ 2) ∧ (b.dispatched ctrlRing i 0x0D = some d) ∧ (bitsOf (leAt d 20 4) 29 0 ≤ 999999999) ∧ (leAt d 16
    4 ≠ 0xFFFFFFFF) ∧ (b.tod.pps.find? (fun e => e.1 == leAt d 16 4) = none) :=
  ⟨wDesc wTod, 0, wTod, by decide +kernel⟩
theorem witness_FrameProgramsAreCheckedAtArrival_0 : ∃ (b : Block) (i off : Nat) (d : List Byte), (b.alive .garnet = true)
    ∧ (b.dispatched ctrlRing i 0x01 = some d) ∧ (programFault (parseProgram d) = some off) :=
  ⟨wDesc wProgBad, 0, 16, wProgBad, by decide +kernel⟩
theorem witness_FrameProgramsAreCheckedAtArrival_1 : ∃ (b : Block) (i : Nat) (d : List Byte), (b.alive .garnet = true) ∧
    (b.dispatched ctrlRing i 0x01 = some d) ∧ (programFault (parseProgram d) = none) ∧ ((parseProgram d).gen ≤
    b.garnet.maxGen) :=
  ⟨{ wDesc wProg with garnet := { coldGarnet with maxGen := 1 } }, 0, wProg, by decide +kernel⟩
theorem witness_FrameProgramsAreCheckedAtArrival_2 : ∃ (b : Block) (i st : Nat) (d : List Byte), (b.alive .garnet = true) ∧
    (b.dispatched ctrlRing i 0x01 = some d) ∧ (programFault (parseProgram d) = none) ∧ (b.garnet.maxGen < (parseProgram
    d).gen) ∧ (programFit b.quartz.cap (parseProgram d) = some st) :=
  ⟨wDesc wProg, 0, stOffGrid, wProg, by decide +kernel⟩
theorem witness_FrameProgramsAreCheckedAtArrival_3 : ∃ (b : Block) (i : Nat) (d : List Byte), (b.alive .garnet = true) ∧
    (b.dispatched ctrlRing i 0x01 = some d) ∧ (programFault (parseProgram d) = none) ∧ (b.garnet.maxGen < (parseProgram
    d).gen) ∧ (programFit b.quartz.cap (parseProgram d) = none) :=
  ⟨wProgFits, 0, wProg, by decide +kernel⟩
theorem witness_TakesStartAndStop_0 : ∃ (b : Block) (i : Nat) (d : List Byte), (b.alive .garnet = true) ∧ (b.dispatched
    ctrlRing i 0x02 = some d) ∧ (leAt d 16 1 = 0) ∧ (leAt d 20 4 ≠ 0xFFFFFFFF) ∧ (b.opal.held = none) ∧ (b.garnet.take =
    none) ∧ (b.garnet.start = none) ∧ (b.quartz.capState ≠ 2) ∧ (b.garnet.stopped = false) ∧ (b.garnet.shutdown = false) :=
  ⟨wDesc (wTake 0), 0, wTake 0, by decide +kernel⟩
theorem witness_TakesStartAndStop_1 : ∃ (b : Block) (i : Nat) (d : List Byte), (b.alive .garnet = true) ∧ (b.dispatched
    ctrlRing i 0x02 = some d) ∧ (leAt d 16 1 = 0) ∧ (leAt d 20 4 ≠ 0xFFFFFFFF) ∧ (b.opal.held = none) ∧ (b.garnet.take =
    none) ∧ (b.garnet.start = none) ∧ (b.quartz.capState = 2) :=
  ⟨{ wDesc (wTake 0) with quartz := { wLive.quartz with capState := 2 } }, 0, wTake 0, by decide +kernel⟩
theorem witness_TakesStartAndStop_2 : ∃ (b : Block) (i : Nat) (d : List Byte), (b.alive .garnet = true) ∧ (b.dispatched
    ctrlRing i 0x02 = some d) ∧ (leAt d 16 1 = 0) ∧ (leAt d 20 4 ≠ 0xFFFFFFFF) ∧ (b.opal.held = none) ∧
    (b.garnet.take.isSome = true) :=
  ⟨wTaking (wDesc (wTake 0)), 0, wTake 0, by decide +kernel⟩
theorem witness_TakesStartAndStop_3 : ∃ (b : Block) (i : Nat) (d : List Byte), (b.alive .garnet = true) ∧ (b.dispatched
    ctrlRing i 0x02 = some d) ∧ (leAt d 16 1 = 1) ∧ (b.opal.held = none) ∧ (b.garnet.start = none) ∧ (b.garnet.take.isSome
    = true) ∧ (b.garnet.stops = []) ∧ (b.garnet.shutdown = false) :=
  ⟨wTaking (wDesc (wTake 1)), 0, wTake 1, by decide +kernel⟩
theorem witness_TakesStartAndStop_4 : ∃ (b : Block) (i : Nat) (d : List Byte) (w : WaitingStart), (b.alive .garnet = true)
    ∧ (b.dispatched ctrlRing i 0x02 = some d) ∧ (leAt d 16 1 = 1) ∧ (b.opal.held = none) ∧ (b.garnet.start = some w) :=
  ⟨{ wDesc (wTake 1) with garnet := { coldGarnet with start := some ⟨0, 0, 0, 9, false⟩ } }, 0, wTake 1, ⟨0, 0, 0, 9,
      false⟩, by decide +kernel⟩
theorem witness_TakesStartAndStop_5 : ∃ (b : Block) (i : Nat) (d : List Byte), (b.alive .garnet = true) ∧ (b.dispatched
    ctrlRing i 0x02 = some d) ∧ (leAt d 16 1 = 1) ∧ (b.opal.held = none) ∧ (b.garnet.start = none) ∧ (b.garnet.take = none)
    :=
  ⟨wDesc (wTake 1), 0, wTake 1, by decide +kernel⟩
theorem witness_TriggersStepsAndStopsReachGarnet_0 : ∃ (b : Block) (i : Nat) (d : List Byte), (b.alive .garnet = true) ∧
    (b.dispatched ctrlRing i 0x03 = some d) ∧ (leAt d 16 1 ≤ 1) ∧ (leAt d 17 1 ≤ 1) ∧ (leAt d 18 1 ≤ 2) ∧
    (b.garnet.stagedTrigger.any (fun x => x.desc == i) = false) :=
  ⟨wDesc wTrig, 0, wTrig, by decide +kernel⟩
theorem witness_TriggersStepsAndStopsReachGarnet_1 : ∃ (b : Block) (i : Nat) (d : List Byte), (b.alive .garnet = true) ∧
    (b.dispatched ctrlRing i 0x03 = some d) ∧ (leAt d 16 1 ≤ 1) ∧ (leAt d 17 1 ≤ 1) ∧ (leAt d 18 1 ≤ 2) ∧
    (b.garnet.stagedTrigger.any (fun x => x.desc == i) = true) :=
  ⟨{ wDesc wTrig with garnet := { coldGarnet with stagedTrigger := [⟨.triggered, .queueOne, .both, 0⟩] } }, 0, wTrig, by
      decide +kernel⟩
theorem witness_TriggersStepsAndStopsReachGarnet_2 : ∃ (b : Block) (i : Nat) (d : List Byte), (b.alive .garnet = true) ∧
    (b.dispatched ctrlRing i 0x03 = some d) ∧ (1 < leAt d 16 1) :=
  ⟨wDesc (wBytes [(0, 1, 3), (16, 1, 2)]), 0, wBytes [(0, 1, 3), (16, 1, 2)], by decide +kernel⟩
theorem witness_TriggersStepsAndStopsReachGarnet_3 : ∃ (b : Block) (i : Nat) (d : List Byte), (b.alive .garnet = true) ∧
    (b.dispatched ctrlRing i 0x03 = some d) ∧ (leAt d 16 1 ≤ 1) ∧ (1 < leAt d 17 1) :=
  ⟨wDesc (wBytes [(0, 1, 3), (17, 1, 2)]), 0, wBytes [(0, 1, 3), (17, 1, 2)], by decide +kernel⟩
theorem witness_TriggersStepsAndStopsReachGarnet_4 : ∃ (b : Block) (i : Nat) (d : List Byte), (b.alive .garnet = true) ∧
    (b.dispatched ctrlRing i 0x03 = some d) ∧ (leAt d 16 1 ≤ 1) ∧ (leAt d 17 1 ≤ 1) ∧ (2 < leAt d 18 1) :=
  ⟨wDesc (wBytes [(0, 1, 3), (18, 1, 3)]), 0, wBytes [(0, 1, 3), (18, 1, 3)], by decide +kernel⟩
theorem witness_TriggersStepsAndStopsReachGarnet_5 : ∃ (b : Block) (k : TrigKind) (l : List TrigKind), (b.alive .garnet =
    true) ∧ (islandEmpty b .garnet = false) ∧ (b.beryl.evr.mode ≠ 2) ∧ (b.ch.agateGarnet = k :: l) ∧ ((b.garnet.mode =
    .continuous ∨ sourceTakes b.garnet.source k = false)) :=
  ⟨wTriggerOff, .pin, [], by decide +kernel⟩
theorem witness_TriggersStepsAndStopsReachGarnet_6 : ∃ (b : Block) (k : TrigKind) (l : List TrigKind) (x : Nat), (b.alive
    .garnet = true) ∧ (islandEmpty b .garnet = false) ∧ (b.beryl.evr.mode ≠ 2) ∧ (b.ch.agateGarnet = k :: l) ∧
    (b.garnet.mode = .triggered) ∧ (sourceTakes b.garnet.source k = true) ∧ (b.garnet.latch = some x) :=
  ⟨wTrigger (some 5), .pin, [], 5, by decide +kernel⟩
theorem witness_TriggersStepsAndStopsReachGarnet_7 : ∃ (b : Block) (k : TrigKind) (l : List TrigKind), (b.alive .garnet =
    true) ∧ (islandEmpty b .garnet = false) ∧ (b.beryl.evr.mode ≠ 2) ∧ (b.ch.agateGarnet = k :: l) ∧ (b.garnet.mode =
    .triggered) ∧ (sourceTakes b.garnet.source k = true) ∧ (b.garnet.latch = none) ∧ (noStart b = true) :=
  ⟨wTrigger none, .pin, [], by decide +kernel⟩
theorem witness_TriggersStepsAndStopsReachGarnet_8 : ∃ (b : Block) (k : TrigKind) (l : List TrigKind), (b.alive .garnet =
    true) ∧ (islandEmpty b .garnet = false) ∧ (b.beryl.evr.mode ≠ 2) ∧ (b.ch.agateGarnet = k :: l) ∧ (b.garnet.mode =
    .triggered) ∧ (sourceTakes b.garnet.source k = true) ∧ (b.garnet.latch = none) ∧ (noStart b = false) ∧
    ((b.garnet.bound.isSome || b.garnet.hand.isSome) = true) ∧ (b.garnet.policy = .queueOne) :=
  ⟨wTrigRun .queueOne true, .pin, [], by decide +kernel⟩
theorem witness_TriggersStepsAndStopsReachGarnet_9 : ∃ (b : Block) (k : TrigKind) (l : List TrigKind), (b.alive .garnet =
    true) ∧ (islandEmpty b .garnet = false) ∧ (b.beryl.evr.mode ≠ 2) ∧ (b.ch.agateGarnet = k :: l) ∧ (b.garnet.mode =
    .triggered) ∧ (sourceTakes b.garnet.source k = true) ∧ (b.garnet.latch = none) ∧ (noStart b = false) ∧
    ((b.garnet.bound.isSome || b.garnet.hand.isSome) = true) ∧ (b.garnet.policy = .ignore) :=
  ⟨wTrigRun .ignore true, .pin, [], by decide +kernel⟩
theorem witness_TriggersStepsAndStopsReachGarnet_10 : ∃ (b : Block) (k : TrigKind) (l : List TrigKind), (b.alive .garnet =
    true) ∧ (islandEmpty b .garnet = false) ∧ (b.beryl.evr.mode ≠ 2) ∧ (b.ch.agateGarnet = k :: l) ∧ (b.garnet.mode =
    .triggered) ∧ (sourceTakes b.garnet.source k = true) ∧ (b.garnet.latch = none) ∧ (noStart b = false) ∧ (b.garnet.bound
    = none) ∧ (b.garnet.hand = none) ∧ ((!canStart b (triggerBoundary b) || meetsT0 b.garnet || !burstReady b.garnet) =
    true) :=
  ⟨(wTrigRun .ignore false).modGarnet (fun g => { g with shutdown := true }), .pin, [], by decide +kernel⟩
theorem witness_TriggersStepsAndStopsReachGarnet_11 : ∃ (b : Block) (k : TrigKind) (l : List TrigKind), (b.alive .garnet =
    true) ∧ (islandEmpty b .garnet = false) ∧ (b.beryl.evr.mode ≠ 2) ∧ (b.ch.agateGarnet = k :: l) ∧ (b.garnet.mode =
    .triggered) ∧ (sourceTakes b.garnet.source k = true) ∧ (b.garnet.latch = none) ∧ (noStart b = false) ∧ (b.garnet.bound
    = none) ∧ (b.garnet.hand = none) ∧ ((!canStart b (triggerBoundary b) || meetsT0 b.garnet || !burstReady b.garnet) =
    false) :=
  ⟨wTrigRun .ignore false, .pin, [], by decide +kernel⟩
theorem witness_TriggersStepsAndStopsReachGarnet_12 : ∃ (b : Block) (n : Nat), (b.alive .garnet = true) ∧ (islandEmpty b
    .garnet = false) ∧ (b.beryl.evr.mode ≠ 2) ∧ (b.ch.agateGarnet.length = n) ∧ (n % 65536 ≠ 0) :=
  ⟨wTrigger none, 1, by decide +kernel⟩
theorem witness_TriggersStepsAndStopsReachGarnet_13 : ∃ (b : Block), (b.alive .garnet = true) ∧ (islandEmpty b .garnet =
    false) ∧ (b.beryl.evr.mode ≠ 2) ∧ (b.ch.agateGarnet = []) :=
  ⟨wLive, by decide +kernel⟩
theorem witness_TriggersStepsAndStopsReachGarnet_14 : ∃ (b : Block) (x : Nat) (l : List Nat), (b.alive .garnet = true) ∧
    (islandEmpty b .garnet = false) ∧ (b.ch.berylGarnet = x :: l) :=
  ⟨{ wLive with ch := { coldChannels with berylGarnet := [2] } }, 2, [], by decide +kernel⟩
theorem witness_TriggersStepsAndStopsReachGarnet_15 : ∃ (b : Block), (b.alive .garnet = true) ∧ (islandEmpty b .garnet =
    false) ∧ (b.ch.berylGarnet = []) :=
  ⟨wLive, by decide +kernel⟩
theorem witness_TriggersStepsAndStopsReachGarnet_16 : ∃ (b : Block) (r : EndReason) (l : List EndReason), (b.alive .garnet
    = true) ∧ (b.ch.stopRequests = r :: l) ∧ (b.garnet.take.isSome = true) ∧ (b.garnet.stopReq = none) :=
  ⟨wTaking { wLive with ch := { coldChannels with stopRequests := [.mediaFull] } }, .mediaFull, [], by decide +kernel⟩
theorem witness_TriggersStepsAndStopsReachGarnet_17 : ∃ (b : Block) (r : EndReason) (l : List EndReason), (b.alive .garnet
    = true) ∧ (b.ch.stopRequests = r :: l) ∧ ((b.garnet.take.isNone = true ∨ b.garnet.stopReq.isSome = true)) :=
  ⟨{ wLive with ch := { coldChannels with stopRequests := [.mediaFull] } }, .mediaFull, [], by decide +kernel⟩
theorem witness_TriggersStepsAndStopsReachGarnet_18 : ∃ (b : Block), (b.alive .garnet = true) ∧ (b.ch.stopRequests = []) :=
  ⟨wLive, by decide +kernel⟩
theorem witness_TriggersStepsAndStopsReachGarnet_19 : ∃ (b : Block) (ms : Nat) (l : List TopazEvent), (b.alive .garnet =
    true) ∧ (b.ch.topazGarnet = .loss ms :: l) ∧ (b.garnet.stopped = false) :=
  ⟨{ wLive with ch := { coldChannels with topazGarnet := [.loss 25] } }, 25, [], by decide +kernel⟩
theorem witness_TriggersStepsAndStopsReachGarnet_20 : ∃ (b : Block) (ms : Nat) (l : List TopazEvent), (b.alive .garnet =
    true) ∧ (b.ch.topazGarnet = .loss ms :: l) ∧ (b.garnet.stopped = true) :=
  ⟨{ wLive with garnet := { coldGarnet with stopped := true }, ch := { coldChannels with topazGarnet := [.loss 25] } }, 25,
      [], by decide +kernel⟩
theorem witness_TriggersStepsAndStopsReachGarnet_21 : ∃ (b : Block), (b.alive .garnet = true) ∧ ((∀ ms,
    b.ch.topazGarnet.head? ≠ some (.loss ms))) :=
  ⟨wLive, rfl, by intro ms; simp [wLive, coldBlock, coldChannels]⟩
theorem witness_TriggersStepsAndStopsReachGarnet_22 : ∃ (b : Block) (l : List TopazEvent) (w : WaitingStart), (b.alive
    .garnet = true) ∧ (b.ch.topazGarnet = .shutdown :: l) ∧ (b.garnet.shutdown = false) ∧ (b.garnet.bound = none) ∧
    (b.garnet.start = some w) :=
  ⟨{ wLive with garnet := { coldGarnet with start := some ⟨0, 0, 0, 9, false⟩ }, ch := { coldChannels with topazGarnet := [.shutdown] } }, [], ⟨0, 0, 0, 9, false⟩, by decide +kernel⟩
theorem witness_TriggersStepsAndStopsReachGarnet_23 : ∃ (b : Block) (l : List TopazEvent), (b.alive .garnet = true) ∧
    (b.ch.topazGarnet = .shutdown :: l) ∧ (b.garnet.shutdown = false) ∧ (b.garnet.bound = none) ∧ (b.garnet.start = none) :=
  ⟨{ wLive with ch := { coldChannels with topazGarnet := [.shutdown] } }, [], by decide +kernel⟩
theorem witness_TriggersStepsAndStopsReachGarnet_24 : ∃ (b : Block) (l : List TopazEvent) (s : Snapshot), (b.alive .garnet
    = true) ∧ (b.ch.topazGarnet = .shutdown :: l) ∧ (b.garnet.shutdown = false) ∧ (b.garnet.bound = some s) :=
  ⟨{ wLive with garnet := { coldGarnet with bound := some wSnap }, ch := { coldChannels with topazGarnet := [.shutdown] } }, [], wSnap, by decide +kernel⟩
theorem witness_TriggersStepsAndStopsReachGarnet_25 : ∃ (b : Block) (l : List TopazEvent), (b.alive .garnet = true) ∧
    (b.ch.topazGarnet = .shutdown :: l) ∧ (b.garnet.shutdown = true) :=
  ⟨{ wLive with garnet := { coldGarnet with shutdown := true }, ch := { coldChannels with topazGarnet := [.shutdown] } },
      [], by decide +kernel⟩
theorem witness_TriggersStepsAndStopsReachGarnet_26 : ∃ (b : Block), (b.alive .garnet = true) ∧ (b.ch.topazGarnet.head? ≠
    some .shutdown) :=
  ⟨wLive, by decide +kernel⟩
theorem witness_SubFramesStartOnCad0_0 : ∃ (b : Block) (x : Scene) (t0 s g l c t0In : Nat) (u v : Bool) (rest : List
    CadMsg), (b.alive .garnet = true) ∧ (islandEmpty b .garnet = false) ∧ (b.beryl.evr.mode ≠ 2) ∧ (b.ch.quartzGarnet =
    .cad0 t0 u v t0In :: rest) ∧ (b.garnet.cad = some (s, g, l, c)) ∧ (b.garnet.stopped = false) ∧ (b.committed .garnet =
    true) ∧ (b.garnet.started = true) ∧ (b.garnet.bc = none) ∧ (b.garnet.inBridge = false) ∧ (b.garnet.j % max 1 b.garnet.d
    = 0) ∧ (b.garnet.hand = none) ∧ (b.garnet.j + b.garnet.d < g) :=
  ⟨wSub 1, wScene, 500000, 0, 4, 1066666, 1, 0, false, false, [], by decide +kernel⟩
theorem witness_SubFramesStartOnCad0_1 : ∃ (b : Block) (x : Scene) (t0 s g l c t0In : Nat) (u v : Bool) (rest : List
    CadMsg) (h : Hand), (b.alive .garnet = true) ∧ (islandEmpty b .garnet = false) ∧ (b.beryl.evr.mode ≠ 2) ∧
    (b.ch.quartzGarnet = .cad0 t0 u v t0In :: rest) ∧ (b.garnet.cad = some (s, g, l, c)) ∧ (b.garnet.stopped = false) ∧
    (b.committed .garnet = true) ∧ (b.garnet.started = true) ∧ (b.garnet.bc = none) ∧ (b.garnet.inBridge = false) ∧
    (b.garnet.j % max 1 b.garnet.d = 0) ∧ (b.garnet.hand = some h) ∧ (b.garnet.j + b.garnet.d < g) :=
  ⟨(wSub 1).modGarnet (fun g => { g with hand := some ⟨wSnap, 0, 1, 0, [], none⟩ }), wScene, 500000, 0, 4, 1066666, 1, 0,
      false, false, [], ⟨wSnap, 0, 1, 0, [], none⟩, by decide +kernel⟩
theorem witness_SubFramesStartOnCad0_2 : ∃ (b : Block) (x : Scene) (t0 s g l c t0In : Nat) (u v : Bool) (rest : List
    CadMsg), (b.alive .garnet = true) ∧ (islandEmpty b .garnet = false) ∧ (b.beryl.evr.mode ≠ 2) ∧ (b.ch.quartzGarnet =
    .cad0 t0 u v t0In :: rest) ∧ (b.garnet.cad = some (s, g, l, c)) ∧ (b.garnet.stopped = false) ∧ (b.committed .garnet =
    true) ∧ (b.garnet.started = true) ∧ (b.garnet.bc = none) ∧ (b.garnet.inBridge = false) ∧ (b.garnet.j % max 1 b.garnet.d
    = 0) ∧ (g ≤ b.garnet.j + b.garnet.d) ∧ (t0In ≠ 1) :=
  ⟨(wSub 1).modGarnet (fun g => { g with j := 3 }), wScene, 500000, 0, 4, 1066666, 1, 0, false, false, [], by
      decide +kernel⟩
theorem witness_SubFramesStartOnCad0_3 : ∃ (b : Block) (x : Scene) (t0 s g l c t0In : Nat) (u v : Bool) (rest : List
    CadMsg), (b.alive .garnet = true) ∧ (islandEmpty b .garnet = false) ∧ (b.beryl.evr.mode ≠ 2) ∧ (b.ch.quartzGarnet =
    .cad0 t0 u v t0In :: rest) ∧ (b.garnet.cad = some (s, g, l, c)) ∧ (b.garnet.started = true) ∧ (b.garnet.j % max 1
    b.garnet.d ≠ 0) :=
  ⟨wSub 2, wScene, 500000, 0, 4, 1066666, 1, 0, false, false, [], by decide +kernel⟩
theorem witness_SubFramesStartOnCad0_4 : ∃ (b : Block) (x : Scene) (t0 g l c : Nat) (r : TimeRecord), (b.alive .garnet =
    true) ∧ (islandEmpty b .garnet = false) ∧ (b.beryl.evr.mode ≠ 2) ∧ (b.ch.quartzGarnet = [.cad1 t0 g l c r]) ∧
    (b.garnet.bc = none) ∧ (b.garnet.bound = none) :=
  ⟨wCad1 none, wScene, 500000, 4, 1066666, 1, wTime, by decide +kernel⟩
theorem witness_SubFramesStartOnCad0_5 : ∃ (c : Nat) (y : Garnet), y.cad.map (fun z => z.2.2.2) = some c ∧ y.t0In ≠ 1 :=
  ⟨1, { coldGarnet with cad := some (0, 4, 1066666, 1) }, by decide +kernel⟩
theorem witness_SubFramesStartOnCad0_6 : ∃ (b : Block) (x : Scene) (t0 g l c : Nat) (r : TimeRecord) (s : Snapshot),
    (b.alive .garnet = true) ∧ (islandEmpty b .garnet = false) ∧ (b.beryl.evr.mode ≠ 2) ∧ (b.ch.quartzGarnet = [.cad1 t0 g
    l c r]) ∧ (b.garnet.bc = none) ∧ (b.garnet.bound = some s) ∧ (b.garnet.boundReady = true) ∧ (b.garnet.t0In ≠ 1) ∧
    (programFit b.quartz.cap s.prog = none) :=
  ⟨wCad1 (some wSnap), wScene, 500000, 4, 1066666, 1, wTime, wSnap, by decide +kernel⟩
theorem witness_SubFramesStartOnCad0_7 : ∃ (b : Block) (x : Scene) (n : Nat), (b.alive .garnet = true) ∧ (islandEmpty b
    .garnet = false) ∧ (b.beryl.evr.mode ≠ 2) ∧ (b.ch.quartzGarnet.length = n) ∧ (n % 65536 ≠ 0) :=
  ⟨wSub 1, wScene, 1, by decide +kernel⟩
theorem witness_SubFramesStartOnCad0_8 : ∃ (b : Block) (x : Scene), (b.alive .garnet = true) ∧ (islandEmpty b .garnet =
    false) ∧ (b.beryl.evr.mode ≠ 2) ∧ (b.ch.quartzGarnet = []) :=
  ⟨wLive, wScene, by decide +kernel⟩
theorem witness_DrainWritesStripesAndTellsJade_0 : ∃ (b : Block) (j : DrainJob) (l : List DrainJob) (k n : Nat), (b.alive
    .garnet = true) ∧ (b.garnet.drn = .idle) ∧ (b.garnet.jobs = j :: l) ∧ (nextStripe j = some (k, n)) :=
  ⟨{ wLive with garnet := { coldGarnet with jobs := [wJob] } }, wJob, [], 0, 0, by decide +kernel⟩
theorem witness_DrainWritesStripesAndTellsJade_1 : ∃ (b : Block), (b.alive .garnet = true) ∧ (b.garnet.drn = .holding) :=
  ⟨wHolding, by decide +kernel⟩
theorem witness_DrainWritesStripesAndTellsJade_2 : ∃ (b : Block), (b.alive .garnet = true) ∧ (b.ch.drnAck = true) ∧
    (b.garnet.drn = .holding) :=
  ⟨wHolding, by decide +kernel⟩
theorem witness_HeadersOpenFramesInJade_0 : ∃ (b : Block) (s : Snapshot) (l : List GarnetJade), (b.alive .jade = true) ∧
    (islandEmpty b .jade = false) ∧ (b.ch.garnetJade = .header s :: l) ∧ (deadHeader s = false) ∧ (s.frame ∉ b.jade.failed)
    :=
  ⟨wHeader { wSnap with time := some wTime }, { wSnap with time := some wTime }, [], by decide +kernel⟩
theorem witness_HeadersOpenFramesInJade_1 : ∃ (b : Block) (s : Snapshot) (l : List GarnetJade), (b.alive .jade = true) ∧
    (islandEmpty b .jade = false) ∧ (b.ch.garnetJade = .header s :: l) ∧ (deadHeader s = true) ∧ (s.frame ∉ b.jade.failed)
    :=
  ⟨wHeader { wSnap with flags := { wSnap.flags with timing := true } },
      { wSnap with flags := { wSnap.flags with timing := true } }, [], by decide +kernel⟩
theorem witness_HeadersOpenFramesInJade_2 : ∃ (b : Block) (s : Snapshot) (l : List GarnetJade), (b.alive .jade = true) ∧
    (islandEmpty b .jade = false) ∧ (b.ch.garnetJade = .header s :: l) ∧ (s.frame ∈ b.jade.failed) :=
  ⟨(wHeader wSnap).modJade (fun j => { j with failed := [0] }), wSnap, [], by decide +kernel⟩
theorem witness_HeadersOpenFramesInJade_3 : ∃ (b : Block), (b.alive .jade = true) ∧ (islandEmpty b .jade = false) ∧
    ((b.ch.garnetJade.head?.bind (·.snap?)).isNone = true) :=
  ⟨wToken wTok, by decide +kernel⟩
theorem witness_StripesAndProfilesAreCheckedAsTheyArrive_0 : ∃ (b : Block) (bad2 : Bool) (ecc : Ecc) (k : StripeToken) (l :
    List GarnetJade), (b.alive .jade = true) ∧ (islandEmpty b .jade = false) ∧ (b.ch.garnetJade = .stripe k :: l) ∧
    (b.accepts .jade k.sent = true) ∧ (k.stripe ≠ 255) ∧ (k.len ≠ 0) ∧ (b.jade.frames.any (fun f => f.snap.frame ==
    k.frame) = true) ∧ (ecc ≠ .ue) ∧ (crc32c (b.dramRead k.addr k.len) = k.crc) :=
  ⟨wToken wTok, false, .ce, wTok, [], by decide +kernel⟩
theorem witness_StripesAndProfilesAreCheckedAsTheyArrive_1 : ∃ (b : Block) (ecc : Ecc) (k : StripeToken) (l : List
    GarnetJade), (b.alive .jade = true) ∧ (islandEmpty b .jade = false) ∧ (b.ch.garnetJade = .stripe k :: l) ∧ (b.accepts
    .jade k.sent = true) ∧ (k.stripe ≠ 255) ∧ (k.len ≠ 0) ∧ (b.jade.frames.any (fun f => f.snap.frame == k.frame) = true) ∧
    (ecc ≠ .ue) ∧ (crc32c (b.dramRead k.addr k.len) = k.crc) :=
  ⟨wToken wTok, .ok, wTok, [], by decide +kernel⟩
theorem witness_StripesAndProfilesAreCheckedAsTheyArrive_2 : ∃ (b : Block) (bad1 bad2 : Bool) (ecc : Ecc) (k : StripeToken)
    (l : List GarnetJade), (b.alive .jade = true) ∧ (islandEmpty b .jade = false) ∧ (b.ch.garnetJade = .stripe k :: l) ∧
    (b.accepts .jade k.sent = true) ∧ (k.stripe ≠ 255) ∧ (k.len ≠ 0) ∧ (b.jade.frames.any (fun f => f.snap.frame ==
    k.frame) = true) ∧ ((bad1 && bad2 || ecc == .ue || crc32c (b.dramRead k.addr k.len) != k.crc) = true) :=
  ⟨wToken wTok, true, true, .ok, wTok, [], by decide +kernel⟩
theorem witness_StripesAndProfilesAreCheckedAsTheyArrive_3 : ∃ (b : Block) (bad1 bad2 : Bool) (ecc : Ecc) (k : StripeToken)
    (l : List GarnetJade), (b.alive .jade = true) ∧ (islandEmpty b .jade = false) ∧ (b.ch.garnetJade = .stripe k :: l) ∧
    (b.accepts .jade k.sent = true) ∧ (k.stripe ≠ 255) ∧ (k.len = 0) ∧ (b.jade.frames.any (fun f => f.snap.frame ==
    k.frame) = true) :=
  ⟨wToken { wTok with len := 0 }, false, false, .ok, { wTok with len := 0 }, [], by decide +kernel⟩
theorem witness_StripesAndProfilesAreCheckedAsTheyArrive_4 : ∃ (b : Block) (bad1 bad2 : Bool) (ecc : Ecc) (k : StripeToken)
    (l : List GarnetJade), (b.alive .jade = true) ∧ (islandEmpty b .jade = false) ∧ (b.ch.garnetJade = .stripe k :: l) ∧
    (b.accepts .jade k.sent = true) ∧ (k.stripe ≠ 255) ∧ (b.jade.frames.any (fun f => f.snap.frame == k.frame) = false) :=
  ⟨wToken { wTok with frame := 9 }, false, false, .ok, { wTok with frame := 9 }, [], by decide +kernel⟩
theorem witness_StripesAndProfilesAreCheckedAsTheyArrive_5 : ∃ (b : Block) (bad1 bad2 : Bool) (ecc : Ecc) (k : StripeToken)
    (l : List GarnetJade), (b.alive .jade = true) ∧ (islandEmpty b .jade = false) ∧ (b.ch.garnetJade = .stripe k :: l) ∧
    ((k.stripe = 255 ∨ b.accepts .jade k.sent = false)) :=
  ⟨wToken { wTok with stripe := 255 }, false, false, .ok, { wTok with stripe := 255 }, [], by decide +kernel⟩
theorem witness_StripesAndProfilesAreCheckedAsTheyArrive_6 : ∃ (b : Block) (bad1 bad2 : Bool) (ecc : Ecc) (k : StripeToken)
    (l : List GarnetJade) (f : JFrame), (b.alive .jade = true) ∧ (islandEmpty b .jade = false) ∧ (b.ch.garnetJade = .stripe
    k :: l) ∧ (b.accepts .jade k.sent = true) ∧ (k.stripe = 255) ∧ (b.jade.frames.find? (fun g => g.snap.frame == k.frame)
    = some f) ∧ ((destsKnown b.jade f = none ∨ allProcessed f = false)) :=
  ⟨wToken { wTok with stripe := 255 }, false, true, .ok, { wTok with stripe := 255 }, [], wJFrame, by decide +kernel⟩
theorem witness_StripesAndProfilesAreCheckedAsTheyArrive_7 : ∃ (b : Block) (bad1 bad2 : Bool) (ecc : Ecc) (k : StripeToken)
    (l : List GarnetJade) (f : JFrame) (ds : List Dest), (b.alive .jade = true) ∧ (islandEmpty b .jade = false) ∧
    (b.ch.garnetJade = .stripe k :: l) ∧ (b.accepts .jade k.sent = true) ∧ (k.stripe = 255) ∧ (b.jade.frames.find? (fun g
    => g.snap.frame == k.frame) = some f) ∧ (destsKnown b.jade f = some ds) ∧ (allProcessed f = true) :=
  ⟨(wToken { wTok with stripe := 255 }).modJade (fun j => { j with frames := [wJDone] }), false, true, .ok,
      { wTok with stripe := 255 }, [], wJDone, [], by decide +kernel⟩
theorem witness_StripesAndProfilesAreCheckedAsTheyArrive_8 : ∃ (b : Block) (bad1 bad2 : Bool) (ecc : Ecc) (k : StripeToken)
    (l : List GarnetJade), (b.alive .jade = true) ∧ (islandEmpty b .jade = false) ∧ (b.ch.garnetJade = .stripe k :: l) ∧
    ((k.stripe ≠ 255 ∨ b.accepts .jade k.sent = false)) :=
  ⟨wToken wTok, false, false, .ok, wTok, [], by decide +kernel⟩
theorem witness_StripeProcessTakesTheNextUnit_0 : ∃ (b : Block) (kind : RefKind) (f : JFrame) (l : List Dest) (ks : List
    Nat) (s : Nat), (b.alive .jade = true) ∧ (b.jade.frames = [f]) ∧ (allProcessed f = false) ∧ (destsKnown b.jade f = some
    l) ∧ (nextUnit f l = some (ks, s)) ∧ (f.profile = none) :=
  ⟨wProcess, .dark, wJReady, [], [0], 0, by decide +kernel⟩
theorem witness_StripeProcessTakesTheNextUnit_1 : ∃ (b : Block) (ecc : Ecc) (kind : RefKind) (f : JFrame), (b.alive .jade =
    true) ∧ (b.jade.frames = [f]) ∧ (f.dests = none) :=
  ⟨wToken wTok, .ue, .dark, wJFrame, by decide +kernel⟩
theorem witness_DestinationsAndAddressesReachJade_0 : ∃ (b : Block) (n : Nat) (d : List Dest) (l : List (Nat × List Dest)),
    (b.alive .jade = true) ∧ (islandEmpty b .jade = false) ∧ (b.ch.opalJade = (n, d) :: l) ∧ (frameOver b n = false) ∧
    (b.jade.frames.any (fun f => f.snap.frame == n) = false) :=
  ⟨{ wLive with ch := { coldChannels with opalJade := [(4, [])] } }, 4, [], [], by decide +kernel⟩
theorem witness_DestinationsAndAddressesReachJade_1 : ∃ (b : Block) (n : Nat) (d : List Dest) (l : List (Nat × List Dest))
    (f : JFrame), (b.alive .jade = true) ∧ (islandEmpty b .jade = false) ∧ (b.ch.opalJade = (n, d) :: l) ∧ (frameOver b n =
    false) ∧ (b.jade.frames.find? (fun g => g.snap.frame == n) = some f) ∧ ((f.profile = none ∨ allProcessed f = false)) :=
  ⟨{ wToken wTok with ch := { coldChannels with opalJade := [(0, [])] } }, 0, [], [], wJFrame, by decide +kernel⟩
theorem witness_DestinationsAndAddressesReachJade_2 : ∃ (b : Block) (n : Nat) (d : List Dest) (l : List (Nat × List Dest)),
    (b.alive .jade = true) ∧ (islandEmpty b .jade = false) ∧ (b.ch.opalJade = (n, d) :: l) ∧ (frameOver b n = true) :=
  ⟨{ wLive with jade := { coldJade with failed := [4] }, ch := { coldChannels with opalJade := [(4, [])] } }, 4, [], [], by
      decide +kernel⟩
theorem witness_DestinationsAndAddressesReachJade_3 : ∃ (b : Block), (b.alive .jade = true) ∧ (islandEmpty b .jade = false)
    ∧ (b.ch.opalJade = []) :=
  ⟨wLive, by decide +kernel⟩
theorem witness_DestinationsAndAddressesReachJade_4 : ∃ (b : Block) (r : Nat × Nat × Option Nat) (l : List (Nat × Nat ×
    Option Nat)), (b.alive .jade = true) ∧ (islandEmpty b .jade = false) ∧ (b.ch.onyxJade = r :: l) ∧ (frameOver b r.1 =
    false) ∧ ((∀ f, b.jade.frames.find? (fun g => g.snap.frame == r.1) = some f → f.profile = none ∨ allProcessed f =
    false)) :=
  ⟨{ wLive with ch := { coldChannels with onyxJade := [(4, 0, some 64)] } }, (4, 0, some 64), [], by decide, rfl, rfl, by
      decide, by intro f h; cases h⟩
theorem witness_DestinationsAndAddressesReachJade_5 : ∃ (b : Block) (r : Nat × Nat × Option Nat) (l : List (Nat × Nat ×
    Option Nat)), (b.alive .jade = true) ∧ (islandEmpty b .jade = false) ∧ (b.ch.onyxJade = r :: l) ∧ (frameOver b r.1 =
    true) :=
  ⟨{ wLive with jade := { coldJade with failed := [4] }, ch := { coldChannels with onyxJade := [(4, 0, some 64)] } }, (4,
      0, some 64), [], by decide +kernel⟩
theorem witness_DestinationsAndAddressesReachJade_6 : ∃ (b : Block), (b.alive .jade = true) ∧ (islandEmpty b .jade = false)
    ∧ (b.ch.onyxJade = []) :=
  ⟨wLive, by decide +kernel⟩
theorem witness_DestinationsAndAddressesReachJade_7 : ∃ (b : Block) (r : Nat × Nat × Option Nat) (l : List (Nat × Nat ×
    Option Nat)), (b.alive .jade = true) ∧ (islandEmpty b .jade = false) ∧ (b.ch.spinelJade = r :: l) ∧ (frameOver b r.1 =
    false) ∧ ((∀ f, b.jade.frames.find? (fun g => g.snap.frame == r.1) = some f → f.profile = none ∨ allProcessed f =
    false)) :=
  ⟨{ wLive with ch := { coldChannels with spinelJade := [(4, 0, some 64)] } }, (4, 0, some 64), [], by decide, rfl, rfl, by
      decide, by intro f h; cases h⟩
theorem witness_DestinationsAndAddressesReachJade_8 : ∃ (b : Block) (r : Nat × Nat × Option Nat) (l : List (Nat × Nat ×
    Option Nat)), (b.alive .jade = true) ∧ (islandEmpty b .jade = false) ∧ (b.ch.spinelJade = r :: l) ∧ (frameOver b r.1 =
    true) :=
  ⟨{ wLive with jade := { coldJade with failed := [4] }, ch := { coldChannels with spinelJade := [(4, 0, some 64)] } }, (4,
      0, some 64), [], by decide +kernel⟩
theorem witness_DestinationsAndAddressesReachJade_9 : ∃ (b : Block), (b.alive .jade = true) ∧ (islandEmpty b .jade = false)
    ∧ (b.ch.spinelJade = []) :=
  ⟨wLive, by decide +kernel⟩
theorem witness_ProcessingSettingsAreHeldOrWait_0 : ∃ (b : Block) (i off : Nat) (d : List Byte), (b.alive .jade = true) ∧
    (b.dispatched ctrlRing i 0x07 = some d) ∧ (b.jade.setWait = []) ∧ (ctxOrder b i = true) ∧ (settingsFault (parseSettings
    d) = some off) :=
  ⟨wDesc wSetBad, 0, 20, wSetBad, by decide +kernel⟩
theorem witness_ProcessingSettingsAreHeldOrWait_1 : ∃ (b : Block) (i : Nat) (d : List Byte), (b.alive .jade = true) ∧
    (b.dispatched ctrlRing i 0x07 = some d) ∧ (b.jade.setWait = []) ∧ (ctxOrder b i = true) ∧ (settingsFault (parseSettings
    d) = none) ∧ ((b.ctx (leAt d 16 1)).state ≠ .opened) :=
  ⟨wDesc wSet, 0, wSet, by decide +kernel⟩
theorem witness_ProcessingSettingsAreHeldOrWait_2 : ∃ (b : Block) (i : Nat) (d : List Byte), (b.alive .jade = true) ∧
    (b.dispatched ctrlRing i 0x07 = some d) ∧ (b.jade.setWait = []) ∧ (ctxOrder b i = true) ∧ (settingsFault (parseSettings
    d) = none) ∧ ((b.ctx (leAt d 16 1)).state = .opened) ∧ ((b.ctx (leAt d 16 1)).highGen ≤ leAt d 20 4) ∧ (setRoom b.jade
    (parseSettings d) = true) :=
  ⟨wOpened (wDesc wSet), 0, wSet, by decide +kernel⟩
theorem witness_ProcessingSettingsAreHeldOrWait_3 : ∃ (b : Block) (i : Nat) (d : List Byte), (b.alive .jade = true) ∧
    (b.dispatched ctrlRing i 0x07 = some d) ∧ (b.jade.setWait = []) ∧ (ctxOrder b i = true) ∧ (settingsFault (parseSettings
    d) = none) ∧ ((b.ctx (leAt d 16 1)).state = .opened) ∧ ((b.ctx (leAt d 16 1)).highGen ≤ leAt d 20 4) ∧ (setRoom b.jade
    (parseSettings d) = false) :=
  ⟨wSetsFull (wOpened (wDesc wSet)), 0, wSet, by decide +kernel⟩
theorem witness_ProcessingSettingsAreHeldOrWait_4 : ∃ (b : Block) (w : ProcWait), (b.alive .jade = true) ∧ (b.jade.setWait
    = [w]) ∧ (b.jade.settings = []) :=
  ⟨{ wLive with jade := { coldJade with setWait := [⟨parseSettings wSet, 3⟩] } }, ⟨parseSettings wSet, 3⟩, by
      decide +kernel⟩
theorem witness_ReferencePicturesLoadAndUnload_0 : ∃ (b : Block) (i : Nat) (d : List Byte) (k : RefKind), (b.alive .jade =
    true) ∧ (b.dispatched ctrlRing i 0x08 = some d) ∧ (b.jade.refWait = []) ∧ (leAt d 17 1 = 0) ∧ (refKind (leAt d 16 1) =
    some k) ∧ (leAt d 18 1 < 255) ∧ (badLength (leAt d 20 4) = false) ∧ (misaligned (leAt d 24 8) 64 = false) :=
  ⟨wDesc (wRefDesc 0), 0, wRefDesc 0, .defect, by decide +kernel⟩
theorem witness_ReferencePicturesLoadAndUnload_1 : ∃ (b : Block) (i : Nat) (d v : List Byte) (k : RefKind), (b.alive .jade
    = true) ∧ (b.dispatched ctrlRing i 0x08 = some d) ∧ (b.jade.refWait = []) ∧ (leAt d 17 1 = 0) ∧ (refKind (leAt d 16 1)
    = some k) ∧ (leAt d 18 1 < 255) ∧ (badLength (leAt d 20 4) = false) ∧ (misaligned (leAt d 24 8) 64 = false) ∧ (v.length
    ≠ leAt d 20 4) :=
  ⟨wDesc (wRefDesc 0), 0, wRefDesc 0, [], .defect, by decide +kernel⟩
theorem witness_ReferencePicturesLoadAndUnload_2 : ∃ (b : Block) (i : Nat) (d v : List Byte) (k : RefKind), (b.alive .jade
    = true) ∧ (b.dispatched ctrlRing i 0x08 = some d) ∧ (b.jade.refWait = []) ∧ (leAt d 17 1 = 0) ∧ (refKind (leAt d 16 1)
    = some k) ∧ (leAt d 18 1 < 255) ∧ (badLength (leAt d 20 4) = false) ∧ (misaligned (leAt d 24 8) 64 = false) ∧ (v.length
    = leAt d 20 4) ∧ (refValid k (leAt d 16 1) v = true) ∧ (refFull b.jade k (leAt d 18 1) = false) ∧ ((refsOf b.jade
    k).length < refSlots k) :=
  ⟨wDesc (wRefDesc 0), 0, wRefDesc 0, wRefBuf, .defect, by decide +kernel⟩
theorem witness_ReferencePicturesLoadAndUnload_3 : ∃ (b : Block) (i : Nat) (d : List Byte) (k : RefKind), (b.alive .jade =
    true) ∧ (b.dispatched ctrlRing i 0x08 = some d) ∧ (leAt d 17 1 = 1) ∧ (refKind (leAt d 16 1) = some k) ∧ (leAt d 18 1 <
    255) ∧ ((refsOf b.jade k).any (fun r => r.id == leAt d 18 1 && r.live) = true) :=
  ⟨wRefHeld (wDesc (wRefDesc 1)), 0, wRefDesc 1, .defect, by decide +kernel⟩
theorem witness_ReferencePicturesLoadAndUnload_4 : ∃ (b : Block) (i : Nat) (d : List Byte) (k : RefKind), (b.alive .jade =
    true) ∧ (b.dispatched ctrlRing i 0x08 = some d) ∧ (leAt d 17 1 = 1) ∧ (refKind (leAt d 16 1) = some k) ∧ (leAt d 18 1 <
    255) ∧ ((refsOf b.jade k).any (fun r => r.id == leAt d 18 1 && r.live) = false) :=
  ⟨wDesc (wRefDesc 1), 0, wRefDesc 1, .defect, by decide +kernel⟩
theorem witness_ReferencePicturesLoadAndUnload_5 : ∃ (b : Block), (b.alive .jade = true) ∧ (b.jade.refWait = []) ∧
    (b.jade.refs ≠ []) :=
  ⟨wRefHeld wLive, by decide +kernel⟩
theorem witness_JadeCountsAndClockDivision_0 : ∃ (b : Block), (b.bar0 = true) :=
  ⟨wLive, by decide +kernel⟩
theorem witness_JadeCountsAndClockDivision_1 : ∃ (b : Block), (b.bar0 = false) :=
  ⟨coldBlock, by decide +kernel⟩
theorem witness_JadeCountsAndClockDivision_2 : ∃ (b : Block) (l : List Nat), (b.alive .jade = true) ∧ (b.ch.berylJade = 0
    :: l) :=
  ⟨{ wLive with ch := { coldChannels with berylJade := [0] } }, [], by decide +kernel⟩
theorem witness_JadeCountsAndClockDivision_3 : ∃ (b : Block) (n : Nat) (l : List Nat), (b.alive .jade = true) ∧
    (b.ch.berylJade = (n + 1) :: l) ∧ (b.jade.divided = false) :=
  ⟨{ wLive with ch := { coldChannels with berylJade := [4] } }, 3, [], by decide +kernel⟩
theorem witness_JadeCountsAndClockDivision_4 : ∃ (b : Block) (n : Nat) (l : List Nat), (b.alive .jade = true) ∧
    (b.ch.berylJade = (n + 1) :: l) ∧ (b.jade.divided = true) :=
  ⟨{ wLive with jade := { coldJade with divided := true }, ch := { coldChannels with berylJade := [4] } }, 3, [], by
      decide +kernel⟩
theorem witness_JadeCountsAndClockDivision_5 : ∃ (b : Block), (b.alive .jade = true) ∧ (b.ch.berylJade = []) :=
  ⟨wLive, by decide +kernel⟩
theorem witness_JadeCountsAndClockDivision_6 : ∃ (b : Block) (n : Nat), (b.alive .jade = true) ∧ (b.jade.divReq = some n) ∧
    ((∀ f ∈ b.jade.frames, f.snap.frame < n → f.dests.any (fun l => fits768 f.snap.l (pathBits b.jade f.snap l)) = true)) :=
  ⟨{ wLive with jade := { coldJade with divReq := some 3 } }, 3, by decide +kernel⟩
theorem witness_JadeCountsAndClockDivision_7 : ∃ (b : Block) (n : Nat) (f : JFrame), (b.alive .jade = true) ∧
    (b.jade.divReq = some n) ∧ (f ∈ b.jade.frames) ∧ (f.snap.frame < n) ∧ (f.dests.any (fun l => fits768 f.snap.l (pathBits
    b.jade f.snap l)) = false) :=
  ⟨(wToken wTok).modJade (fun j => { j with divReq := some 3 }), 3, wJFrame, by decide +kernel⟩
theorem witness_JadeCountsAndClockDivision_8 : ∃ (b : Block), (b.alive .jade = true) ∧ (b.jade.divReq = none) :=
  ⟨wLive, by decide +kernel⟩
theorem witness_SegmentStripesAreStagedOrPassedOn_0 : ∃ (b : Block) (ecc : Ecc) (k : SegToken), (b.alive .spinel = true) ∧
    (islandEmpty b .spinel = false) ∧ (egressNext b = some k) ∧ (b.accepts .spinel k.sent = true) ∧ (k.isFailed = false) ∧
    (b.spinel.failed.contains k.frame = true) :=
  ⟨wSegIn { wLive with spinel := { coldSpinel with failed := [0] } }, .ok, wSegTok, by decide +kernel⟩
theorem witness_SegmentStripesAreStagedOrPassedOn_1 : ∃ (b : Block) (ecc : Ecc) (k : SegToken), (b.alive .spinel = true) ∧
    (islandEmpty b .spinel = false) ∧ (egressNext b = some k) ∧ (b.accepts .spinel k.sent = true) ∧ (k.isFailed = false) ∧
    (b.spinel.failed.contains k.frame = false) ∧ (k.magazine = true) :=
  ⟨{ wLive with ch := { coldChannels with jadeSpinel := [{ wSegTok with magazine := true }] } }, .ok,
      { wSegTok with magazine := true }, by decide +kernel⟩
theorem witness_SegmentStripesAreStagedOrPassedOn_2 : ∃ (b : Block) (ecc : Ecc) (k : SegToken), (b.alive .spinel = true) ∧
    (islandEmpty b .spinel = false) ∧ (egressNext b = some k) ∧ (b.accepts .spinel k.sent = true) ∧ (k.isFailed = false) ∧
    (b.spinel.failed.contains k.frame = false) ∧ (k.magazine = false) ∧ ((segGet b k.frame k.index).isSome = true) :=
  ⟨wSegIn wHostSeg, .ok, wSegTok, by decide +kernel⟩
theorem witness_SegmentStripesAreStagedOrPassedOn_3 : ∃ (b : Block) (ecc : Ecc) (k : SegToken), (b.alive .spinel = true) ∧
    (islandEmpty b .spinel = false) ∧ (egressNext b = some k) ∧ (b.accepts .spinel k.sent = true) ∧ (k.isFailed = false) ∧
    (b.spinel.failed.contains k.frame = false) ∧ (k.magazine = false) ∧ (segGet b k.frame k.index = none) :=
  ⟨wSegIn wLive, .ok, wSegTok, by decide +kernel⟩
theorem witness_SegmentStripesAreStagedOrPassedOn_4 : ∃ (b : Block) (k : SegToken) (g : SpinelSeg), (b.alive .spinel =
    true) ∧ (islandEmpty b .spinel = false) ∧ (egressNext b = some k) ∧ (b.accepts .spinel k.sent = true) ∧ (k.isFailed =
    false) ∧ (b.spinel.failed.contains k.frame = false) ∧ (k.magazine = false) ∧ (b.spinel.segs = [g]) ∧ (g.frame =
    k.frame) ∧ (g.dest.index = k.index) ∧ (g.dropped = false) ∧ (g.stripes.any (fun e => e.1 == k.stripe) = false) ∧
    ((winGet b k.frame).isSome = true) ∧ (b.takes .opal = true) ∧ (b.ch.ledgerNotes = []) ∧ (b.hostUp = false) :=
  ⟨wSegIn wHostSeg, wSegTok, wSeg, by decide +kernel⟩
theorem witness_SegmentStripesAreStagedOrPassedOn_5 : ∃ (b : Block) (ecc : Ecc) (k : SegToken), (b.alive .spinel = true) ∧
    (islandEmpty b .spinel = false) ∧ (egressNext b = some k) ∧ (b.accepts .spinel k.sent = true) ∧ (k.isFailed = true) :=
  ⟨{ wLive with ch := { coldChannels with jadeSpinel := [{ wSegTok with len := 0 }] } }, .ok, { wSegTok with len := 0 }, by
      decide +kernel⟩
theorem witness_SegmentStripesAreStagedOrPassedOn_6 : ∃ (b : Block) (ecc : Ecc) (k : SegToken), (b.alive .spinel = true) ∧
    (islandEmpty b .spinel = false) ∧ (egressNext b = some k) ∧ (b.accepts .spinel k.sent = false) :=
  ⟨{ wLive with ch := { coldChannels with jadeSpinel := [{ wSegTok with sent := 9 }] } }, .ok, { wSegTok with sent := 9 },
      by decide +kernel⟩
theorem witness_SegmentStripesAreStagedOrPassedOn_7 : ∃ (b : Block) (ecc : Ecc), (b.alive .spinel = true) ∧ (islandEmpty b
    .spinel = false) ∧ (egressNext b = none) :=
  ⟨wLive, .ok, by decide +kernel⟩
theorem witness_SegmentStripesAreStagedOrPassedOn_8 : ∃ (b : Block) (ecc : Ecc) (d : Nat × Nat) (l : List (Nat × Nat)),
    (b.alive .spinel = true) ∧ (islandEmpty b .spinel = false) ∧ (b.ch.egressDue = d :: l) ∧ (∀ k ∈ b.ch.jadeSpinel,
    k.isFailed = false ∧ k.tag ≠ d ∧ k.tag ∈ l) :=
  ⟨{ wLive with ch := { coldChannels with egressDue := [(0, 0), (0, 64)], jadeSpinel := [{ wSegTok with stripe := 1 }] } },
      .ok, (0, 0), [(0, 64)], by decide +kernel⟩
theorem witness_LatchNoticesReserveStagingAndBindKeys_0 : ∃ (b : Block) (n : LatchNotice) (l : List LatchNotice), (b.alive
    .spinel = true) ∧ (islandEmpty b .spinel = false) ∧ (b.ch.noticeSpinel = n :: l) ∧ (n.snap = none) :=
  ⟨wNotice wLive none, ⟨0, none, none, none⟩, [], by decide +kernel⟩
theorem witness_LatchNoticesReserveStagingAndBindKeys_1 : ∃ (b : Block) (n : LatchNotice) (l : List LatchNotice) (s :
    Snapshot), (b.alive .spinel = true) ∧ (islandEmpty b .spinel = false) ∧ (b.ch.noticeSpinel = n :: l) ∧ (n.snap = some
    s) ∧ (b.ch.spinelDests.any (fun e => s.frame ≤ e.1) = false) :=
  ⟨wNotice wLive (some wSnap), ⟨0, some wSnap, none, none⟩, [], wSnap, by decide +kernel⟩
theorem witness_LatchNoticesReserveStagingAndBindKeys_2 : ∃ (b : Block) (n : LatchNotice) (l : List LatchNotice) (s :
    Snapshot), (b.alive .spinel = true) ∧ (islandEmpty b .spinel = false) ∧ (b.ch.noticeSpinel = n :: l) ∧ (n.snap = some
    s) ∧ (b.ch.spinelDests.any (fun e => e.1 == s.frame) = false) ∧ (b.ch.spinelDests.any (fun e => s.frame < e.1) = true)
    :=
  ⟨{ wNotice wLive (some wSnap) with ch := { coldChannels with noticeSpinel := [⟨0, some wSnap, none, none⟩], spinelDests := [(1, [])] } }, ⟨0, some wSnap, none, none⟩, [], wSnap, by decide +kernel⟩
theorem witness_LatchNoticesReserveStagingAndBindKeys_3 : ∃ (b : Block) (n : LatchNotice) (l : List LatchNotice) (s :
    Snapshot) (m : Nat) (ds : List Dest) (y : Block), (b.alive .spinel = true) ∧ (islandEmpty b .spinel = false) ∧
    (b.ch.noticeSpinel = n :: l) ∧ (n.snap = some s) ∧ (b.ch.spinelDests.find? (fun e => e.1 == s.frame) = some (m, ds)) ∧
    (y = missedInSpinel s.frame { b with ch := { b.ch with noticeSpinel := l } }) :=
  ⟨wNotice (wWindow []) (some wSnap), ⟨0, some wSnap, none, none⟩, [], wSnap, 0, [], wServed, by decide +kernel, by
      decide +kernel, rfl, rfl, rfl, rfl⟩
theorem witness_LatchNoticesReserveStagingAndBindKeys_4 : ∃ (b : Block) (n : LatchNotice) (l : List LatchNotice) (s :
    Snapshot) (d : Dest) (a : Nat), (b.alive .spinel = true) ∧ (islandEmpty b .spinel = false) ∧ (b.ch.noticeSpinel = n ::
    l) ∧ (n.snap = some s) ∧ (b.ch.spinelDests = [(s.frame, [d])]) ∧ (b.spinel.failed.contains s.frame = false) ∧
    (b.ch.opalSpinel = []) ∧ (d.magazine = false) ∧ (d.keyed = false) ∧ (allocate stagingBase stagingSize d.segLen
    (b.spinel.staging.map (fun r => (r.2.2.1, r.2.2.2))) = some a) :=
  ⟨wNotice (wWindow [wDest false false]) (some wSnap), ⟨0, some wSnap, none, none⟩, [], wSnap, wDest false false,
      stagingBase, by decide +kernel⟩
theorem witness_LatchNoticesReserveStagingAndBindKeys_5 : ∃ (b : Block) (n : LatchNotice) (l : List LatchNotice) (s :
    Snapshot) (d : Dest), (b.alive .spinel = true) ∧ (islandEmpty b .spinel = false) ∧ (b.ch.noticeSpinel = n :: l) ∧
    (n.snap = some s) ∧ (b.ch.spinelDests = [(s.frame, [d])]) ∧ (b.spinel.failed.contains s.frame = false) ∧
    (b.ch.opalSpinel = []) ∧ ((winGet b s.frame).isSome = true) ∧ (b.takes .opal = true) ∧ (b.ch.ledgerNotes = []) ∧
    (d.magazine = false) ∧ (d.keyed = false) ∧ (allocate stagingBase stagingSize d.segLen (b.spinel.staging.map (fun r =>
    (r.2.2.1, r.2.2.2))) = none) :=
  ⟨wNotice (wFullStaging (wWindow [wDest false false])) (some wSnap), ⟨0, some wSnap, none, none⟩, [], wSnap, wDest false
      false, by decide +kernel⟩
theorem witness_LatchNoticesReserveStagingAndBindKeys_6 : ∃ (b : Block) (n : LatchNotice) (l : List LatchNotice) (s :
    Snapshot) (d : Dest), (b.alive .spinel = true) ∧ (islandEmpty b .spinel = false) ∧ (b.ch.noticeSpinel = n :: l) ∧
    (n.snap = some s) ∧ (b.ch.spinelDests = [(s.frame, [d])]) ∧ (b.spinel.failed.contains s.frame = false) ∧
    (b.ch.opalSpinel = []) ∧ (d.magazine = true) ∧ (d.keyed = true) ∧ (b.spinel.binds.any (fun k => k.frame == s.frame &&
    k.ctx == d.ctx) = false) ∧ (b.spinel.keyOpen.any (fun e => e.ctx == d.ctx && e.since ≤ s.frame) = false) :=
  ⟨wNotice (wWindow [wDest true true]) (some wSnap), ⟨0, some wSnap, none, none⟩, [], wSnap, wDest true true, by
      decide +kernel⟩
theorem witness_LatchNoticesReserveStagingAndBindKeys_7 : ∃ (b : Block) (n : LatchNotice) (l : List LatchNotice) (s :
    Snapshot) (d : Dest) (e : KeyOpen), (b.alive .spinel = true) ∧ (islandEmpty b .spinel = false) ∧ (b.ch.noticeSpinel = n
    :: l) ∧ (n.snap = some s) ∧ (b.ch.spinelDests = [(s.frame, [d])]) ∧ (b.spinel.failed.contains s.frame = false) ∧
    (b.ch.opalSpinel = []) ∧ (d.magazine = true) ∧ (d.keyed = true) ∧ (b.spinel.binds = []) ∧ (b.spinel.keyOpen = [e]) ∧
    (e.ctx = d.ctx) ∧ (e.since ≤ s.frame) ∧ (d.ctx < 256) :=
  ⟨(wNotice (wSlot ⟨.loaded, wKey.reverse, [], 0⟩ (wWindow [wDest true true])) (some wSnap)).modSpinel (fun x =>
      { x with keyOpen := [⟨0, 9, wKey, 0⟩] }), ⟨0, some wSnap, none, none⟩, [], wSnap, wDest true true, ⟨0, 9, wKey, 0⟩,
      by decide +kernel⟩
theorem witness_LatchNoticesReserveStagingAndBindKeys_8 : ∃ (b : Block) (k : Nat) (n : LatchNotice) (l : List LatchNotice),
    (b.alive .spinel = true) ∧ (islandEmpty b .spinel = false) ∧ (k % 65536 ≠ 0) ∧ (b.ch.noticeSpinel.drop k = n :: l) ∧
    (n.snap = none) :=
  ⟨{ wLive with ch := { coldChannels with noticeSpinel := [⟨0, none, none, none⟩, ⟨1, none, none, none⟩] } }, 1, ⟨1, none,
      none, none⟩, [], by decide +kernel⟩
theorem witness_LatchNoticesReserveStagingAndBindKeys_9 : ∃ (b : Block) (k : Nat), (b.alive .spinel = true) ∧ (islandEmpty
    b .spinel = false) ∧ (b.ch.noticeSpinel.length ≤ k) :=
  ⟨wLive, 0, by decide +kernel⟩
theorem witness_KeyLoadsAreCheckedInOrder_0 : ∃ (b : Block) (i : Nat) (v : Option (List Byte)) (d : List Byte), (b.alive
    .spinel = true) ∧ (b.dispatched ctrlRing i 0x09 = some d) ∧ (b.spinel.keyWait = []) ∧ (b.spinel.keyOpen = []) ∧
    (ctxOrder b i = true) ∧ (leAt d 20 4 ≠ 72) :=
  ⟨wDesc (wKeyDesc 64), 0, none, wKeyDesc 64, by decide +kernel⟩
theorem witness_KeyLoadsAreCheckedInOrder_1 : ∃ (b : Block) (i : Nat) (v : Option (List Byte)) (d : List Byte), (b.alive
    .spinel = true) ∧ (b.dispatched ctrlRing i 0x09 = some d) ∧ (b.spinel.keyWait = []) ∧ (b.spinel.keyOpen = []) ∧
    (ctxOrder b i = true) ∧ (leAt d 20 4 = 72) ∧ (misaligned (leAt d 24 8) 64 = false) ∧ (b.spinel.import_ = false) :=
  ⟨wDesc (wKeyDesc 72), 0, none, wKeyDesc 72, by decide +kernel⟩
theorem witness_KeyLoadsAreCheckedInOrder_2 : ∃ (b : Block) (i : Nat) (v : Option (List Byte)) (d : List Byte), (b.alive
    .spinel = true) ∧ (b.dispatched ctrlRing i 0x09 = some d) ∧ (b.spinel.keyWait = []) ∧ (b.spinel.keyOpen = []) ∧
    (ctxOrder b i = true) ∧ (leAt d 20 4 = 72) ∧ (misaligned (leAt d 24 8) 64 = false) ∧ (b.spinel.import_ = true) ∧
    ((b.ctx (leAt d 16 1)).state = .closing) :=
  ⟨(wImport (wDesc (wKeyDesc 72))).setCtx 0 { coldCtx with state := .closing }, 0, none, wKeyDesc 72, by decide +kernel⟩
theorem witness_KeyLoadsAreCheckedInOrder_3 : ∃ (b : Block) (i : Nat) (d : List Byte), (b.alive .spinel = true) ∧
    (b.dispatched ctrlRing i 0x09 = some d) ∧ (b.spinel.keyWait = []) ∧ (b.spinel.keyOpen = []) ∧ (ctxOrder b i = true) ∧
    (leAt d 20 4 = 72) ∧ (misaligned (leAt d 24 8) 64 = false) ∧ (b.spinel.import_ = true) ∧ ((b.ctx (leAt d 16 1)).state ≠
    .closing) ∧ ((slotGet b (leAt d 16 1)).state ≠ .retiring) :=
  ⟨wImport (wDesc (wKeyDesc 72)), 0, wKeyDesc 72, by decide +kernel⟩
theorem witness_KeyLoadsAreCheckedInOrder_4 : ∃ (b : Block) (i : Nat) (d v : List Byte), (b.alive .spinel = true) ∧
    (b.dispatched ctrlRing i 0x09 = some d) ∧ (b.spinel.keyWait = []) ∧ (b.spinel.keyOpen = []) ∧ (ctxOrder b i = true) ∧
    (leAt d 20 4 = 72) ∧ (misaligned (leAt d 24 8) 64 = false) ∧ (b.spinel.import_ = true) ∧ ((b.ctx (leAt d 16 1)).state ≠
    .closing) ∧ ((slotGet b (leAt d 16 1)).state ≠ .retiring) ∧ (b.spinel.kek.bind (fun k => unwrapKey k v) = none) :=
  ⟨{ wImport (wDesc (wKeyDesc 72)) with spinel := { coldSpinel with import_ := true } }, 0, wKeyDesc 72, [], by
      decide +kernel⟩
theorem witness_KeyLoadsAreCheckedInOrder_5 : ∃ (b : Block) (i : Nat) (d v key : List Byte), (b.alive .spinel = true) ∧
    (b.dispatched ctrlRing i 0x09 = some d) ∧ (b.spinel.keyWait = []) ∧ (b.spinel.keyOpen = []) ∧ (ctxOrder b i = true) ∧
    (leAt d 20 4 = 72) ∧ (misaligned (leAt d 24 8) 64 = false) ∧ (b.spinel.import_ = true) ∧ ((b.ctx (leAt d 16 1)).state ≠
    .closing) ∧ ((slotGet b (leAt d 16 1)).state ≠ .retiring) ∧ (b.spinel.kek.bind (fun k => unwrapKey k v) = some key) ∧
    (key.take 32 ≠ key.drop 32) ∧ ((slotGet b (leAt d 16 1)).state = .rolling) :=
  ⟨wSlot wRolling (wImport (wDesc (wKeyDesc 72))), 0, wKeyDesc 72, wWrapped, wKey, by
    and_intros <;> first | exact wUnwraps _ rfl | decide +kernel⟩
theorem witness_KeyLoadsAreCheckedInOrder_6 : ∃ (b : Block) (i : Nat) (d v key : List Byte), (b.alive .spinel = true) ∧
    (b.dispatched ctrlRing i 0x09 = some d) ∧ (b.spinel.keyWait = []) ∧ (b.spinel.keyOpen = []) ∧ (ctxOrder b i = true) ∧
    (leAt d 20 4 = 72) ∧ (misaligned (leAt d 24 8) 64 = false) ∧ (b.spinel.import_ = true) ∧ (b.spinel.kek.bind (fun k =>
    unwrapKey k v) = some key) ∧ (key.take 32 ≠ key.drop 32) ∧ ((b.ctx (leAt d 16 1)).state = .closed) ∧ ((slotGet b (leAt
    d 16 1)).state = .empty) :=
  ⟨wImport (wDesc (wKeyDesc 72)), 0, wKeyDesc 72, wWrapped, wKey, by
    and_intros <;> first | exact wUnwraps _ rfl | decide +kernel⟩
theorem witness_KeyLoadsAreCheckedInOrder_7 : ∃ (b : Block) (i : Nat) (d v key : List Byte) (x : KeySlot), (b.alive .spinel
    = true) ∧ (b.dispatched ctrlRing i 0x09 = some d) ∧ (b.spinel.keyWait = []) ∧ (b.spinel.keyOpen = []) ∧ (ctxOrder b i =
    true) ∧ (leAt d 20 4 = 72) ∧ (misaligned (leAt d 24 8) 64 = false) ∧ (b.spinel.import_ = true) ∧ (b.spinel.kek.bind
    (fun k => unwrapKey k v) = some key) ∧ (key.take 32 ≠ key.drop 32) ∧ ((b.ctx (leAt d 16 1)).state = .closed) ∧ (slotGet
    b (leAt d 16 1) = x) ∧ (x.state = .loaded) :=
  ⟨wSlot ⟨.loaded, [], [], 0⟩ (wImport (wDesc (wKeyDesc 72))), 0, wKeyDesc 72, wWrapped, wKey, ⟨.loaded, [], [], 0⟩, by
    and_intros <;> first | exact wUnwraps _ rfl | decide +kernel⟩
theorem witness_KeyLoadsAreCheckedInOrder_8 : ∃ (b : Block) (i : Nat) (d v key : List Byte), (b.alive .spinel = true) ∧
    (b.dispatched ctrlRing i 0x09 = some d) ∧ (b.spinel.keyWait = []) ∧ (b.spinel.keyOpen = []) ∧ (ctxOrder b i = true) ∧
    (leAt d 20 4 = 72) ∧ (misaligned (leAt d 24 8) 64 = false) ∧ (b.spinel.import_ = true) ∧ (b.spinel.kek.bind (fun k =>
    unwrapKey k v) = some key) ∧ (key.take 32 ≠ key.drop 32) ∧ (((b.ctx (leAt d 16 1)).state = .opened ∨ (b.ctx (leAt d 16
    1)).state = .stopped)) ∧ ((b.ctx (leAt d 16 1)).keyed = true) ∧ ((slotGet b (leAt d 16 1)).state = .loaded) :=
  ⟨(wSlot ⟨.loaded, [], [], 0⟩ (wImport (wDesc (wKeyDesc 72)))).setCtx 0 { coldCtx with state := .opened, keyed := true },
      0, wKeyDesc 72, wWrapped, wKey, by
    and_intros <;> first | exact wUnwraps _ rfl | decide +kernel⟩
theorem witness_KeyLoadsAreCheckedInOrder_9 : ∃ (b : Block) (i : Nat) (d v key : List Byte) (e : KeyOpen), (b.alive .spinel
    = true) ∧ (b.dispatched ctrlRing i 0x09 = some d) ∧ (b.spinel.keyWait = []) ∧ (b.spinel.keyOpen = [e]) ∧ (e.desc ≠ i) ∧
    (e.ctx = leAt d 16 1) ∧ (ctxOrder b i = true) ∧ (leAt d 20 4 = 72) ∧ (misaligned (leAt d 24 8) 64 = false) ∧
    (b.spinel.import_ = true) ∧ ((b.ctx (leAt d 16 1)).state ≠ .closing) ∧ ((slotGet b (leAt d 16 1)).state ≠ .retiring) ∧
    (b.spinel.kek.bind (fun k => unwrapKey k v) = some key) ∧ (key.take 32 ≠ key.drop 32) :=
  ⟨((wSlot ⟨.loaded, [], [], 0⟩ (wImport (wDesc (wKeyDesc 72)))).setCtx 0
      { coldCtx with state := .opened, keyed := true }).modSpinel (fun x => { x with keyOpen := [⟨0, 9, wKey, 0⟩] }), 0,
      wKeyDesc 72, wWrapped, wKey, ⟨0, 9, wKey, 0⟩, by
    and_intros <;> first | exact wUnwraps _ rfl | decide +kernel⟩
theorem witness_KeysAreReleasedAndZeroised_0 : ∃ (b : Block), (b.alive .spinel = true) ∧ (b.spinel.keyWait = []) :=
  ⟨wSlot wRolling wLive, by decide +kernel⟩
theorem witness_KeysAreReleasedAndZeroised_1 : ∃ (b : Block) (y : Block), (b.alive .spinel = true) ∧ (y =
    { b with spinel := { b.spinel with
        binds := b.spinel.binds.filter (bindLive b)
        slots := Vector.ofFn (fun j => releaseSlot (b.spinel.binds.filter (bindLive b)) j.val (mayBind b
            (b.spinel.slots.get j)) (b.spinel.slots.get j)) } }) :=
  ⟨wSlot wRolling wLive, wReleased, by decide +kernel, rfl⟩
theorem witness_KeysAreReleasedAndZeroised_2 : ∃ (b : Block) (c : Fin 256), (b.alive .spinel = true) ∧ (b.spinel.keyWait =
    []) ∧ ((b.spinel.slots.get c).state = .rolling) ∧ (b.spinel.binds = []) :=
  ⟨wSlot wRolling wLive, 0, by decide +kernel⟩
theorem witness_KeysAreReleasedAndZeroised_3 : ∃ (b : Block) (w : Word), (b.alive .spinel = true) ∧ (b.bar0 = true) ∧
    (bitsOf w.toNat 23 16 = 0xA5) ∧ (bitOf w.toNat 8 = false) ∧ ((b.ctx (bitsOf w.toNat 7 0)).state = .closed) ∧ ((slotGet
    b (bitsOf w.toNat 7 0)).state ≠ .retiring) :=
  ⟨wSlot wRolling wLive, 0xA50000, by decide +kernel⟩
theorem witness_KeysAreReleasedAndZeroised_4 : ∃ (b : Block) (w : Word), (b.alive .spinel = true) ∧ (b.bar0 = true) ∧
    (bitsOf w.toNat 23 16 = 0xA5) ∧ (bitOf w.toNat 8 = false) ∧ (((b.ctx (bitsOf w.toNat 7 0)).state ≠ .closed ∨ (slotGet b
    (bitsOf w.toNat 7 0)).state = .retiring)) :=
  ⟨wOpened wLive, 0xA50000, by decide +kernel⟩
theorem witness_KeysAreReleasedAndZeroised_5 : ∃ (b : Block) (w : Word), (b.alive .spinel = true) ∧ (b.bar0 = true) ∧
    (bitsOf w.toNat 23 16 = 0xA5) ∧ (bitOf w.toNat 8 = true) :=
  ⟨wSlot wRolling wLive, 0xA50100, by decide +kernel⟩
theorem witness_KeysAreReleasedAndZeroised_6 : ∃ (b : Block) (w : Word), (b.alive .spinel = true) ∧ (b.bar0 = true) ∧
    (bitsOf w.toNat 23 16 ≠ 0xA5) :=
  ⟨wLive, 0xA40000, by decide +kernel⟩
theorem witness_KeysAreReleasedAndZeroised_7 : ∃ (b : Block) (w : Word), (b.alive .spinel = true) ∧ (b.bar0 = false) :=
  ⟨wNoLink, 0, by decide +kernel⟩
theorem witness_PollsAndFetchesReadTheHost_0 : ∃ (b : Block), (b.alive .opal = true) ∧ (polls b = true) ∧ (b.opal.failRun ≠
    7) :=
  ⟨wPolls wCommitted, by decide +kernel⟩
theorem witness_PollsAndFetchesReadTheHost_1 : ∃ (b : Block), (b.alive .opal = true) ∧ (polls b = true) ∧ (b.opal.failRun =
    7) :=
  ⟨wPolls { wCommitted with opal := { wCommitted.opal with failRun := 7 } }, by decide +kernel⟩
theorem witness_PollsAndFetchesReadTheHost_2 : ∃ (b : Block), (b.alive .opal = true) ∧ (polls b = true) ∧ (b.opal.failRun ≠
    7) :=
  ⟨wPolls wCommitted, by decide +kernel⟩
theorem witness_PollsAndFetchesReadTheHost_3 : ∃ (b : Block) (p : List Byte), (b.alive .opal = true) ∧ (polls b = true) ∧
    (b.beryl.evr.mode ≠ 2) ∧ (b.opal.failRun < 8) ∧ (fetching b.opal.ctrl = true) ∧ (indexFaulty b.opal.ctrl.sqEntries
    b.opal.ctrl.done (pageWord p 32) = false) :=
  ⟨wPolls wCommitted, wPage 3, by decide +kernel⟩
theorem witness_PollsAndFetchesReadTheHost_4 : ∃ (b : Block), (b.alive .opal = true) ∧ (polls b = true) ∧ (b.beryl.evr.mode
    ≠ 2) ∧ (fetchRoom b 256 ≠ 0) ∧ (b.opal.ctrl.retried = false) :=
  ⟨wFetch, by decide +kernel⟩
theorem witness_PollsAndFetchesReadTheHost_5 : ∃ (b : Block) (d : List Byte), (b.alive .opal = true) ∧ (polls b = true) ∧
    (b.beryl.evr.mode ≠ 2) ∧ (fetchRoom b 256 ≠ 0) ∧ (b.opal.ctrl.flight = []) ∧ (b.opal.ghosts = []) ∧ (b.opal.events =
    []) ∧ (b.opal.ctrl.faultRec = none) ∧ (descOwner 256 (descType d) = some .opal) ∧ (b.committed .opal = true) ∧
    (islandEmpty b .opal = false) :=
  ⟨wFetch, wNop, by decide +kernel⟩
theorem witness_PollsAndFetchesReadTheHost_6 : ∃ (b : Block), (b.alive .opal = true) ∧ (polls b = true) ∧ (b.beryl.evr.mode
    ≠ 2) ∧ (fetchRoom b 256 ≠ 0) ∧ (b.opal.ctrl.retried = true) :=
  ⟨{ wFetch with opal := { wFetch.opal with ctrl := { wFetch.opal.ctrl with retried := true } } }, by decide +kernel⟩
theorem witness_PollsAndFetchesReadTheHost_7 : ∃ (b : Block) (x : Option (List (List Byte))), (b.alive .opal = true) ∧
    (polls b = true) ∧ (b.beryl.evr.mode ≠ 2) ∧ (fetchRoom b 256 = 0) :=
  ⟨wPolls wCommitted, none, by decide +kernel⟩
theorem witness_PollsAndFetchesReadTheHost_8 : ∃ (b : Block) (r : Nat) (x : Option (List (List Byte))), (b.alive .opal =
    true) ∧ (r < 256) ∧ (nextServed b ≠ some r) :=
  ⟨wPolls wCommitted, 0, none, by decide +kernel⟩
theorem witness_PollsAndFetchesReadTheHost_9 : ∃ (b : Block) (x : Option (List Byte)), (b.alive .opal = true) ∧ (polls b =
    false) :=
  ⟨wLive, none, by decide +kernel⟩
theorem witness_PollsAndFetchesReadTheHost_10 : ∃ (b : Block), (b.alive .opal = true) ∧ (polls b = false) :=
  ⟨wLive, by decide +kernel⟩
theorem witness_CompletionsAreWrittenInRingOrder_0 : ∃ (b : Block) (r i : Nat) (d : List Byte), (b.alive .opal = true) ∧
    (b.dispatched r i 0x00 = some d) :=
  ⟨wDesc wNop, 256, 0, wNop, by decide +kernel⟩
theorem witness_CompletionsAreWrittenInRingOrder_1 : ∃ (b : Block) (i g : Nat) (d : List Byte), (b.alive .opal = true) ∧
    (b.hostUp = true) ∧ (b.opal.ctrl.flight = [⟨i, d, .dispatched, g⟩]) ∧ (b.accepts .opal g = true) ∧ (b.opal.ghosts = [])
    ∧ (b.opal.events = []) ∧ (b.opal.ctrl.faultRec = none) ∧ (b.opal.ctrl.state = .running) ∧ (b.opal.ctrl.room = true) ∧
    (descType d = 0) :=
  ⟨wDesc wNop, 0, 1, wNop, by decide +kernel⟩
theorem witness_CompletionsAreWrittenInRingOrder_2 : ∃ (b : Block) (i g : Nat) (d : List Byte), (b.alive .opal = true) ∧
    (b.hostUp = false) ∧ (b.opal.ctrl.flight = [⟨i, d, .dispatched, g⟩]) ∧ (b.accepts .opal g = true) ∧ (b.opal.ghosts =
    []) ∧ (descType d = 0) :=
  ⟨{ wDesc wNop with opal := { (wDesc wNop).opal with link := false } }, 0, 1, wNop, by decide +kernel⟩
theorem witness_CompletionsAreWrittenInRingOrder_3 : ∃ (b : Block) (r i : Nat), (b.alive .opal = true) ∧ (b.dispatched r i
    0x00 = none) :=
  ⟨wLive, 256, 0, by decide +kernel⟩
theorem witness_ContextsOpenAsTheirDescriptorSays_0 : ∃ (b : Block) (i off : Nat) (d : List Byte), (b.alive .opal = true) ∧
    (b.dispatched ctrlRing i 0x05 = some d) ∧ (ctxOrder b i = true) ∧ (openFault d = some off) :=
  ⟨wDesc (wOpenDesc 0 4096), 0, 17, wOpenDesc 0 4096, by decide +kernel⟩
theorem witness_ContextsOpenAsTheirDescriptorSays_1 : ∃ (b : Block) (i : Nat) (d : List Byte), (b.alive .opal = true) ∧
    (b.dispatched ctrlRing i 0x05 = some d) ∧ (ctxOrder b i = true) ∧ (openFault d = none) ∧ ((b.ctx (leAt d 16 1)).state ≠
    .closed) :=
  ⟨wOpened (wDesc (wOpenDesc 1 4096)), 0, wOpenDesc 1 4096, by decide +kernel⟩
theorem witness_ContextsOpenAsTheirDescriptorSays_2 : ∃ (b : Block) (i : Nat) (d : List Byte), (b.alive .opal = true) ∧
    (b.dispatched ctrlRing i 0x05 = some d) ∧ (ctxOrder b i = true) ∧ (openFault d = none) ∧ ((b.ctx (leAt d 16 1)).state =
    .closed) ∧ (bitOf (leAt d 17 1) 2 = true) ∧ (b.spinel.import_ = false) :=
  ⟨wDesc (wOpenDesc 5 4096), 0, wOpenDesc 5 4096, by decide +kernel⟩
theorem witness_ContextsOpenAsTheirDescriptorSays_3 : ∃ (b : Block) (i : Nat) (d : List Byte), (b.alive .opal = true) ∧
    (b.dispatched ctrlRing i 0x05 = some d) ∧ (ctxOrder b i = true) ∧ (openFault d = none) ∧ ((b.ctx (leAt d 16 1)).state =
    .closed) ∧ (bitOf (leAt d 17 1) 2 = true) ∧ (b.spinel.import_ = true) ∧ ((slotGet b (leAt d 16 1)).state ≠ .loaded) ∧
    ((slotGet b (leAt d 16 1)).state ≠ .rolling) :=
  ⟨wImport (wDesc (wOpenDesc 5 4096)), 0, wOpenDesc 5 4096, by decide +kernel⟩
theorem witness_ContextsOpenAsTheirDescriptorSays_4 : ∃ (b : Block) (i : Nat) (d : List Byte), (b.alive .opal = true) ∧
    (b.dispatched ctrlRing i 0x05 = some d) ∧ (ctxOrder b i = true) ∧ (openFault d = none) ∧ ((b.ctx (leAt d 16 1)).state =
    .closed) ∧ (bitOf (leAt d 17 1) 2 = true →
        b.spinel.import_ = true ∧ ((slotGet b (leAt d 16 1)).state = .loaded ∨ (slotGet b (leAt d 16 1)).state = .rolling))
            :=
  ⟨wDesc (wOpenDesc 1 4096), 0, wOpenDesc 1 4096, by decide +kernel⟩
theorem witness_ContextsOpenAsTheirDescriptorSays_5 : ∃ (b : Block) (i : Nat), (b.alive .opal = true) ∧ (b.dispatched
    ctrlRing i 0x05 = none) :=
  ⟨wLive, 0, by decide +kernel⟩
theorem witness_ContextsOpenAsTheirDescriptorSays_6 : ∃ (b : Block) (i : Nat) (d : List Byte), (b.alive .opal = true) ∧
    (b.dispatched ctrlRing i 0x05 = some d) ∧ (ctxOrder b i = false) :=
  ⟨wHeld (wOpenDesc 1 4096), 0, wOpenDesc 1 4096, by decide +kernel⟩
theorem witness_ContextsCloseInTwoSteps_0 : ∃ (b : Block) (i : Nat) (d : List Byte), (b.alive .opal = true) ∧ (b.dispatched
    ctrlRing i 0x06 = some d) ∧ (ctxOrder b i = true) ∧ (leAt d 17 1 = 0) ∧ ((b.ctx (leAt d 16 1)).state = .closed) :=
  ⟨wDesc (wCloseDesc 0), 0, wCloseDesc 0, by decide +kernel⟩
theorem witness_ContextsCloseInTwoSteps_1 : ∃ (b : Block) (i : Nat) (d : List Byte), (b.alive .opal = true) ∧ (b.dispatched
    ctrlRing i 0x06 = some d) ∧ (ctxOrder b i = true) ∧ (leAt d 17 1 = 0) ∧ ((b.ctx (leAt d 16 1)).state = .opened ∨ (b.ctx
    (leAt d 16 1)).state = .stopped) :=
  ⟨wOpened (wDesc (wCloseDesc 0)), 0, wCloseDesc 0, by decide +kernel⟩
theorem witness_ContextsCloseInTwoSteps_2 : ∃ (b : Block) (i : Nat) (d : List Byte), (b.alive .opal = true) ∧ (b.dispatched
    ctrlRing i 0x06 = some d) ∧ (ctxOrder b i = true) ∧ (1 < leAt d 17 1) :=
  ⟨wDesc (wCloseDesc 2), 0, wCloseDesc 2, by decide +kernel⟩
theorem witness_ContextsCloseInTwoSteps_3 : ∃ (b : Block) (i : Nat) (d : List Byte), (b.alive .opal = true) ∧ (b.dispatched
    ctrlRing i 0x06 = some d) ∧ (ctxOrder b i = true) ∧ (leAt d 17 1 = 1) ∧ ((b.ctx (leAt d 16 1)).state = .closed) :=
  ⟨wDesc (wCloseDesc 1), 0, wCloseDesc 1, by decide +kernel⟩
theorem witness_ContextsCloseInTwoSteps_4 : ∃ (b : Block) (i : Nat) (d : List Byte), (b.alive .opal = true) ∧ (b.dispatched
    ctrlRing i 0x06 = some d) ∧ (ctxOrder b i = true) ∧ (leAt d 17 1 = 1) ∧ ((b.ctx (leAt d 16 1)).state = .opened ∨ (b.ctx
    (leAt d 16 1)).state = .stopped) ∧ (unassigned b (leAt d 16 1) = []) :=
  ⟨wOpened (wDesc (wCloseDesc 1)), 0, wCloseDesc 1, by decide +kernel⟩
theorem witness_ContextsCloseInTwoSteps_5 : ∃ (b : Block) (i : Nat) (d : List Byte) (w : LedgerFrame) (e : LedgerDest),
    (b.alive .opal = true) ∧ (b.dispatched ctrlRing i 0x06 = some d) ∧ (ctxOrder b i = true) ∧ (leAt d 17 1 = 1) ∧ ((b.ctx
    (leAt d 16 1)).state = .opened) ∧ (b.opal.window = [w]) ∧ (w.dests = [e]) ∧ (e.dest.ctx = leAt d 16 1) ∧
    (e.dest.magazine = false) ∧ (e.outcome = .pending) ∧ (e.buffer = none) :=
  ⟨wOpened { wDesc (wCloseDesc 1) with opal := { (wDesc (wCloseDesc 1)).opal with window := [freshFrame wSnap [wDest false false] false] } }, 0, wCloseDesc 1, freshFrame wSnap [wDest false false] false, freshDest (wDest false false), by decide +kernel⟩
theorem witness_ContextsCloseInTwoSteps_6 : ∃ (b : Block) (c word : Nat) (posted : Option (List (List Byte))), (b.alive
    .opal = true) ∧ (c < 256) ∧ ((b.ctx c).state = .closing) ∧ (hostDone b c = false) :=
  ⟨wClosing none false (wWindow [wDest false false]), 0, 0, none, by decide +kernel⟩
theorem witness_ContextsCloseInTwoSteps_7 : ∃ (b : Block) (c word : Nat) (posted : Option (List (List Byte))), (b.alive
    .opal = true) ∧ (c < 256) ∧ ((b.ctx c).state = .closing) ∧ (hostDone b c = true) ∧ ((b.ctx c).cancelled = true) ∧
    ((b.ctx c).ring.flight = []) ∧ ((b.ctx c).ring.faultRec = none) ∧ ((b.ctx c).ring.pi = (b.ctx c).ring.next) :=
  ⟨wClosing none true wCommitted, 0, 0, none, by decide +kernel⟩
theorem witness_ContextsCloseInTwoSteps_8 : ∃ (b : Block) (c word : Nat) (posted : Option (List (List Byte))), (b.alive
    .opal = true) ∧ (c < 256) ∧ ((b.ctx c).state ≠ .closing) :=
  ⟨wLive, 0, 0, none, by decide +kernel⟩
theorem witness_ContextsCloseInTwoSteps_9 : ∃ (b : Block) (i : Nat), (b.alive .opal = true) ∧ (b.dispatched ctrlRing i 0x06
    = none) :=
  ⟨wLive, 0, by decide +kernel⟩
theorem witness_ContextsCloseInTwoSteps_10 : ∃ (b : Block) (i : Nat), (b.alive .opal = true) ∧ (b.dispatched ctrlRing i
    0x06 = none) :=
  ⟨wLive, 0, by decide +kernel⟩
theorem witness_ContextsCloseInTwoSteps_11 : ∃ (b : Block) (i : Nat) (d : List Byte), (b.alive .opal = true) ∧
    (b.dispatched ctrlRing i 0x06 = some d) ∧ (ctxOrder b i = false) :=
  ⟨wHeld (wCloseDesc 0), 0, wCloseDesc 0, by decide +kernel⟩
theorem witness_ContextsCloseInTwoSteps_12 : ∃ (b : Block) (i : Nat) (d : List Byte), (b.alive .opal = true) ∧
    (b.dispatched ctrlRing i 0x06 = some d) ∧ (ctxOrder b i = false) :=
  ⟨wHeld (wCloseDesc 0), 0, wCloseDesc 0, by decide +kernel⟩
theorem witness_ContextsCloseInTwoSteps_13 : ∃ (b : Block) (i : Nat) (d : List Byte), (b.alive .opal = true) ∧
    (b.dispatched ctrlRing i 0x06 = some d) ∧ (leAt d 17 1 = 1) :=
  ⟨wDesc (wCloseDesc 1), 0, wCloseDesc 1, by decide +kernel⟩
theorem witness_ContextsCloseInTwoSteps_14 : ∃ (b : Block) (i : Nat) (d : List Byte), (b.alive .opal = true) ∧
    (b.dispatched ctrlRing i 0x06 = some d) ∧ (leAt d 17 1 ≠ 1) :=
  ⟨wDesc (wCloseDesc 0), 0, wCloseDesc 0, by decide +kernel⟩
theorem witness_BuffersTakeHostSegments_0 : ∃ (b : Block) (c i off : Nat) (d : List Byte), (b.alive .opal = true) ∧
    (b.dispatched (c % 256) i 0x20 = some d) ∧ (postFaultAt d = some off) :=
  ⟨wPosted true 0 [], 0, 0, 24, wPost 0, by decide +kernel⟩
theorem witness_BuffersTakeHostSegments_1 : ∃ (b : Block) (c i : Nat) (d : List Byte), (b.alive .opal = true) ∧
    (b.dispatched (c % 256) i 0x20 = some d) ∧ (postFaultAt d = none) ∧ ((b.ctx (c % 256)).hostRing = false) :=
  ⟨wPosted false 192 [], 0, 0, wPost 192, by decide +kernel⟩
theorem witness_BuffersTakeHostSegments_2 : ∃ (b : Block) (c i : Nat) (d : List Byte), (b.alive .opal = true) ∧
    (b.dispatched (c % 256) i 0x20 = some d) ∧ (postFaultAt d = none) ∧ ((b.ctx (c % 256)).hostRing = true) ∧ (nextSegment
    b (c % 256) = none) :=
  ⟨wPosted true 192 [], 0, 0, wPost 192, by decide +kernel⟩
theorem witness_BuffersTakeHostSegments_3 : ∃ (b : Block) (c i a len : Nat) (d : List Byte) (w : LedgerFrame) (e :
    LedgerDest) (g : SpinelSeg), (b.alive .opal = true) ∧ (b.dispatched (c % 256) i 0x20 = some d) ∧ (postFaultAt d = none)
    ∧ ((b.ctx (c % 256)).hostRing = true) ∧ (b.hostUp = true) ∧ (b.opal.window = [w]) ∧ (w.dests = [e]) ∧ (e.dest.ctx = c %
    256) ∧ (e.dest.magazine = false) ∧ (e.outcome = .pending) ∧ (e.buffer = none) ∧ (e.ready = true) ∧ (freePost b (c %
    256) = some (i, a, len)) ∧ (e.dest.segLen ≤ len) ∧ (b.spinel.segs = [g]) ∧ (g.stripes = []) :=
  ⟨wReady 192, 0, 0, 4096, 192, wPost 192,
      { freshFrame wSnap [] false with dests := [{ freshDest (wDest false false) with ready := true }] },
      { freshDest (wDest false false) with ready := true }, wSeg, by decide +kernel⟩
theorem witness_BuffersTakeHostSegments_4 : ∃ (b : Block) (c i a len : Nat) (d : List Byte) (w : LedgerFrame) (e :
    LedgerDest), (b.alive .opal = true) ∧ (b.dispatched (c % 256) i 0x20 = some d) ∧ (postFaultAt d = none) ∧ ((b.ctx (c %
    256)).hostRing = true) ∧ (b.hostUp = true) ∧ (b.opal.window = [w]) ∧ (w.dests = [e]) ∧ (e.dest.ctx = c % 256) ∧
    (e.dest.magazine = false) ∧ (e.outcome = .pending) ∧ (e.buffer = none) ∧ (e.ready = true) ∧ (freePost b (c % 256) =
    some (i, a, len)) ∧ (len < e.dest.segLen) :=
  ⟨wReady 128, 0, 0, 4096, 128, wPost 128,
      { freshFrame wSnap [] false with dests := [{ freshDest (wDest false false) with ready := true }] },
      { freshDest (wDest false false) with ready := true }, by decide +kernel⟩
theorem witness_BuffersTakeHostSegments_5 : ∃ (b : Block), (b.alive .opal = true) ∧ (∀ w ∈ b.opal.window, ∀ d ∈ w.dests,
    waitOver b w d = false) :=
  ⟨wLedger, by decide +kernel⟩
theorem witness_BuffersTakeHostSegments_6 : ∃ (b : Block) (w : LedgerFrame) (e : LedgerDest), (b.alive .opal = true) ∧
    (b.hostUp = false) ∧ (b.opal.window = [w]) ∧ (w.dests = [e]) ∧ (waitOver b w e = true) :=
  ⟨{ wWaited with opal := { wWaited.opal with link := false } },
      { freshFrame wSnap [wDest false false] false with handEnd := some 1 }, freshDest (wDest false false), by
      decide +kernel⟩
theorem witness_BuffersTakeHostSegments_7 : ∃ (b : Block) (m : HostMoved) (l : List HostMoved) (w : LedgerFrame) (e :
    LedgerDest) (g : SpinelSeg), (b.alive .opal = true) ∧ (islandEmpty b .opal = false) ∧ (b.ch.spinelOpal = m :: l) ∧
    (m.failed = false) ∧ (m.header = true) ∧ (b.opal.window = [w]) ∧ (w.frame = m.frame) ∧ (w.dests = [e]) ∧ (e.dest.index
    = m.index) ∧ (e.outcome = .pending) ∧ (b.takes .spinel = true) ∧ (b.ch.spinelDests = []) ∧ (b.ch.opalSpinel = []) ∧
    (b.spinel.segs = [g]) ∧ (g.frame = m.frame) ∧ (g.dest.index = m.index) ∧ (g.whole = true) :=
  ⟨wMoved, ⟨0, 0, 0, 64, 0, true, 1, false⟩, [],
      { freshFrame wSnap [] false with dests := [{ freshDest (wDest false false) with ready := true, buffer := some 0 }] },
      { freshDest (wDest false false) with ready := true, buffer := some 0 }, { wSeg with whole := true }, by
      decide +kernel⟩
theorem witness_BuffersTakeHostSegments_8 : ∃ (b : Block) (c i : Nat), (b.alive .opal = true) ∧ (b.dispatched (c % 256) i
    0x20 = none) :=
  ⟨wLive, 0, 0, by decide +kernel⟩
theorem witness_BuffersTakeHostSegments_9 : ∃ (b : Block) (c i : Nat) (d : List Byte), (b.alive .opal = true) ∧
    (b.dispatched (c % 256) i 0x20 = some d) ∧ (postFaultAt d = none) ∧ ((b.ctx (c % 256)).hostRing = true) :=
  ⟨wReady 192, 0, 0, wPost 192, by decide +kernel⟩
theorem witness_BuffersTakeHostSegments_10 : ∃ (b : Block), (b.alive .opal = true) ∧ (islandEmpty b .opal = false) ∧
    (b.ch.spinelOpal = []) :=
  ⟨wLive, by decide +kernel⟩
theorem witness_LatchNoticesBindDestinations_0 : ∃ (b : Block) (n : LatchNotice) (l : List LatchNotice) (s : Snapshot) (ds
    : List Dest) (x : Bool), (b.alive .opal = true) ∧ (b.ch.noticeOpal = n :: l) ∧ (n.takeStop = none) ∧ (n.snap = some s)
    ∧ (destSet b s = (ds, x)) ∧ (∀ w ∈ b.opal.window, w.frame ≤ s.frame ∧ s.frame < w.frame + 4096) ∧ (∀ d ∈ ds, (b.ctx
    d.ctx).aborting = false) ∧ (b.ch.ledgerNotes = []) :=
  ⟨{ wLive with ch := { coldChannels with noticeOpal := [⟨0, some wSnap, none, none⟩] } }, ⟨0, some wSnap, none, none⟩, [],
      wSnap, [], false, by decide +kernel⟩
theorem witness_LatchNoticesBindDestinations_1 : ∃ (b : Block) (n : LatchNotice) (l : List LatchNotice) (k f : Nat) (r :
    EndReason), (b.alive .opal = true) ∧ (b.ch.noticeOpal = n :: l) ∧ (n.takeStop = some (k, r, some f)) ∧ (n.takeStart =
    none) ∧ (n.snap = none) ∧ (b.opal.takeEnds = []) ∧ (b.ch.takesClosed = []) :=
  ⟨{ wLive with ch := { coldChannels with noticeOpal := [⟨0, none, none, some (9, .stop, some 4)⟩] } }, ⟨0, none, none,
      some (9, .stop, some 4)⟩, [], 9, 4, .stop, by decide +kernel⟩
theorem witness_LatchNoticesBindDestinations_2 : ∃ (b : Block) (x : TimeRecord) (l : List TimeRecord), (b.alive .opal =
    true) ∧ (b.beryl.evr.mode ≠ 2) ∧ (b.ch.quartzOpal = x :: l) ∧ (b.opal.held = none) :=
  ⟨{ wLive with ch := { coldChannels with quartzOpal := [wTime] } }, wTime, [], by decide +kernel⟩
theorem witness_LatchNoticesBindDestinations_3 : ∃ (b : Block) (lost : Nat), (b.alive .opal = true) ∧
    (b.ch.noticeOpal.length ≤ lost) :=
  ⟨wLive, 0, by decide +kernel⟩
theorem witness_LatchNoticesBindDestinations_4 : ∃ (b : Block) (lost : Nat), (b.alive .opal = true) ∧ (lost <
    b.ch.noticeOpal.length) :=
  ⟨{ wLive with ch := { coldChannels with noticeOpal := [⟨0, some wSnap, none, none⟩] } }, 0, by decide +kernel⟩
theorem witness_LatchNoticesBindDestinations_5 : ∃ (b : Block), (b.alive .opal = true) ∧ (b.beryl.evr.mode ≠ 2) ∧
    (b.ch.quartzOpal = []) :=
  ⟨wLive, by decide +kernel⟩
theorem witness_OutcomesReachTheLedger_0 : ∃ (b : Block) (m : GarnetOutcome) (l : List GarnetOutcome) (o : DestOutcome),
    (b.alive .opal = true) ∧ (b.ch.garnetOpal = m :: l) ∧ (m.outcome = some o) ∧ (o ≠ .pending) ∧ (b.onyx.flush = none) :=
  ⟨{ wWindow [wDest true false] with ch := { coldChannels with garnetOpal := [⟨0, wSnap, some .truncated, 0, true⟩] } },
      ⟨0, wSnap, some .truncated, 0, true⟩, [], .truncated, by decide +kernel⟩
theorem witness_OutcomesReachTheLedger_1 : ∃ (b : Block) (m : GarnetOutcome) (l : List GarnetOutcome) (o : DestOutcome),
    (b.alive .opal = true) ∧ (b.ch.garnetOpal = m :: l) ∧ (m.outcome = some o) ∧ (o ≠ .pending) ∧ (b.onyx.flush ≠ none) ∧
    (b.ch.ledgerNotes = []) :=
  ⟨{ wWindow [wDest true false] with
    onyx := { wLive.onyx with flush := some { reason := .powerLoss, cut := false, lost := false, reported := false, since := 0, ms := 5000 } }
    ch := { coldChannels with garnetOpal := [⟨0, wSnap, some .truncated, 0, true⟩] }
        }, ⟨0, wSnap, some .truncated, 0, true⟩, [], .truncated, by decide +kernel⟩
theorem witness_OutcomesReachTheLedger_2 : ∃ (b : Block) (m : OutcomeMsg) (l : List OutcomeMsg) (w : LedgerFrame) (e :
    LedgerDest), (b.alive .opal = true) ∧ (b.ch.onyxOpal = m :: l) ∧ (b.opal.window = [w]) ∧ (w.frame = m.frame) ∧ (w.dests
    = [e]) ∧ (e.dest.index = m.index) ∧ (e.dest.magazine = true) ∧ (e.outcome = .pending) ∧ (m.outcome ≠ .failed) :=
  ⟨{ wWindow [wDest true false] with ch := { coldChannels with onyxOpal := [⟨0, 0, .done, 1, false, 0, 1⟩] } }, ⟨0, 0,
      .done, 1, false, 0, 1⟩, [], freshFrame wSnap [wDest true false] false, freshDest (wDest true false), by
      decide +kernel⟩
theorem witness_OutcomesReachTheLedger_3 : ∃ (b : Block) (m : OutcomeMsg) (l : List OutcomeMsg) (w : LedgerFrame) (e :
    LedgerDest), (b.alive .opal = true) ∧ (b.ch.onyxOpal = m :: l) ∧ (b.opal.window = [w]) ∧ (w.frame = m.frame) ∧ (w.dests
    = [e]) ∧ (e.dest.index = m.index) ∧ (e.dest.magazine = true) ∧ (e.outcome = .pending) ∧ (m.outcome = .failed) :=
  ⟨{ wWindow [wDest true false] with ch := { coldChannels with onyxOpal := [⟨0, 0, .failed, 1, false, 256, 0⟩] } }, ⟨0, 0,
      .failed, 1, false, 256, 0⟩, [], freshFrame wSnap [wDest true false] false, freshDest (wDest true false), by
      decide +kernel⟩
theorem witness_OutcomesReachTheLedger_4 : ∃ (b : Block) (m : OutcomeMsg) (l : List OutcomeMsg) (w : LedgerFrame) (e :
    LedgerDest), (b.alive .opal = true) ∧ (b.ch.onyxOpal = m :: l) ∧ (b.opal.window = [w]) ∧ (w.frame = m.frame) ∧ (w.dests
    = [e]) ∧ (e.outcome ≠ .pending) ∧ (m.outcome ≠ .failed) :=
  ⟨{ wLive with
    opal := { wLive.opal with window := [{ freshFrame wSnap [] false with dests := [{ freshDest (wDest true false) with outcome := .expired }] }] }
    ch := { coldChannels with onyxOpal := [⟨0, 0, .done, 1, false, 0, 1⟩] }
        }, ⟨0, 0, .done, 1, false, 0, 1⟩, [], freshFrame wSnap [] false |> (fun f => { f with dests :=
        [{ freshDest (wDest true false) with outcome := .expired }] }), { freshDest (wDest true false) with outcome :=
        .expired }, by decide +kernel⟩
theorem witness_OutcomesReachTheLedger_5 : ∃ (b : Block), (b.alive .opal = true) ∧ (b.ch.onyxOpal = []) :=
  ⟨wLive, by decide +kernel⟩
theorem witness_OutcomesReachTheLedger_6 : ∃ (b : Block), (b.alive .opal = true) ∧ (b.ch.garnetOpal = []) :=
  ⟨wLive, by decide +kernel⟩
theorem witness_OutcomesReachTheLedger_7 : ∃ (b : Block) (m : GarnetOutcome) (l : List GarnetOutcome) (w : LedgerFrame),
    (b.alive .opal = true) ∧ (b.ch.garnetOpal = m :: l) ∧ (m.outcome = none) ∧ (m.final = true) ∧ (b.opal.window = [w]) ∧
    (w.frame = m.frame) ∧ (b.onyx.flush = none) ∧ (b.opal.takeEnds = []) :=
  ⟨{ wWindow [wDest true false] with ch := { coldChannels with garnetOpal := [⟨0, wSnap, none, 0, true⟩] } }, ⟨0, wSnap,
      none, 0, true⟩, [], freshFrame wSnap [wDest true false] false, by decide +kernel⟩
theorem witness_LedgerRecordsArePublishedInOrder_0 : ∃ (b : Block) (w : LedgerFrame) (x : TimeRecord), (b.alive .opal =
    true) ∧ (b.opal.window = [w]) ∧ (w.frame = b.opal.nextPub) ∧ (w.record = .forming) ∧ (publishable b w = true) ∧
    (w.snap.time = some x) ∧ (b.hostUp = true) ∧ (ledgerRoom b.opal.ldg = true) ∧ (b.opal.takeEnds = []) :=
  ⟨wLedger, { freshFrame { wSnap with time := some wTime } [] false with handEnd := some 1 }, wTime, by decide +kernel⟩
theorem witness_LedgerRecordsArePublishedInOrder_1 : ∃ (b : Block), (b.alive .opal = true) ∧ (b.opal.window = []) ∧
    (b.opal.takeEnds = []) :=
  ⟨wLive, by decide +kernel⟩
theorem witness_LedgerRecordsArePublishedInOrder_2 : ∃ (b : Block) (i : Nat) (d : List Byte), (b.alive .opal = true) ∧
    (b.dispatched ctrlRing i 0x0E = some d) ∧ (badLength (leAt d 24 4) = true) :=
  ⟨wQueried 0, 0, wQuery 0, by decide +kernel⟩
theorem witness_LedgerRecordsArePublishedInOrder_3 : ∃ (b : Block) (i : Nat) (d : List Byte), (b.alive .opal = true) ∧
    (b.dispatched ctrlRing i 0x0E = some d) ∧ (badLength (leAt d 24 4) = false) ∧ (misaligned (leAt d 32 8) 64 = false) ∧
    (winGet b (leAt d 16 8) = none) :=
  ⟨wDesc (wQuery 64), 0, wQuery 64, by decide +kernel⟩
theorem witness_LedgerRecordsArePublishedInOrder_4 : ∃ (b : Block) (i : Nat) (d : List Byte) (w : LedgerFrame), (b.alive
    .opal = true) ∧ (b.dispatched ctrlRing i 0x0E = some d) ∧ (badLength (leAt d 24 4) = false) ∧ (misaligned (leAt d 32 8)
    64 = false) ∧ (b.garnet.bound = none) ∧ (winGet b (leAt d 16 8) = some w) ∧ (windowTop b < leAt d 16 8 + 4096) ∧ (leAt
    d 24 4 < (answer w).length) :=
  ⟨wQueried 64, 0, wQuery 64, freshFrame wSnap [] false, by decide +kernel⟩
theorem witness_LedgerRecordsArePublishedInOrder_5 : ∃ (b : Block) (i : Nat) (d : List Byte) (w : LedgerFrame), (b.alive
    .opal = true) ∧ (b.dispatched ctrlRing i 0x0E = some d) ∧ (badLength (leAt d 24 4) = false) ∧ (misaligned (leAt d 32 8)
    64 = false) ∧ (b.garnet.bound = none) ∧ (winGet b (leAt d 16 8) = some w) ∧ (windowTop b < leAt d 16 8 + 4096) ∧
    ((answer w).length ≤ leAt d 24 4) ∧ (b.hostUp = true) :=
  ⟨wQueried 1024, 0, wQuery 1024, freshFrame wSnap [] false, by decide +kernel⟩
theorem witness_EventsAndMessagesGoOut_0 : ∃ (b : Block) (e : EventMsg) (l : List EventMsg), (b.alive .opal = true) ∧
    (b.inPower .opal = true) ∧ (b.ch.berylOpal = e :: l) ∧ (b.opal.events.length = 16) :=
  ⟨wEvent { wLive with opal := { wLive.opal with events := .replicate 16 ⟨0x0A, 0, 0, frameNone, []⟩ } }, ⟨0x0A, 5,
      frameNone, []⟩, [], by decide +kernel⟩
theorem witness_EventsAndMessagesGoOut_1 : ∃ (b : Block) (e : EventMsg) (l : List EventMsg), (b.alive .opal = true) ∧
    (b.inPower .opal = true) ∧ (b.ch.berylOpal = e :: l) ∧ (b.opal.events.length < 16) ∧ (b.hostUp = false) :=
  ⟨wEvent { wLive with opal := { wLive.opal with link := false } }, ⟨0x0A, 5, frameNone, []⟩, [], by decide +kernel⟩
theorem witness_EventsAndMessagesGoOut_2 : ∃ (b : Block) (e : EventMsg) (l : List EventMsg), (b.alive .opal = true) ∧
    (b.inPower .opal = true) ∧ (b.ch.berylOpal = e :: l) ∧ (b.opal.events = []) ∧ (b.hostUp = true) ∧ (b.opal.ctrl.state =
    .running) ∧ (b.opal.ctrl.room = true) ∧ (recordDue b = false) :=
  ⟨wEvent (wPolls wLive), ⟨0x0A, 5, frameNone, []⟩, [], by decide +kernel⟩
theorem witness_EventsAndMessagesGoOut_3 : ∃ (b : Block) (v : Nat), (b.alive .opal = true) ∧ (v < 64) ∧ (b.vec v = ⟨false,
    false, true⟩) :=
  ⟨wVec ⟨false, false, true⟩ wLive, 0, by decide +kernel⟩
theorem witness_EventsAndMessagesGoOut_4 : ∃ (b : Block) (v : Nat), (b.alive .opal = true) ∧ (v < 64) ∧ (b.vec v = ⟨true,
    false, true⟩) ∧ (vecAllowed b v = true) :=
  ⟨wVecs ⟨true, false, true⟩, 0, by decide +kernel⟩
theorem witness_EventsAndMessagesGoOut_5 : ∃ (b : Block) (v : Nat), (b.alive .opal = true) ∧ (v < 64) ∧ (b.vec v = ⟨true,
    false, true⟩) ∧ (vecAllowed b v = false) :=
  ⟨wVec ⟨true, false, true⟩ { wLive with opal := { wLive.opal with funcMask := true } }, 0, by decide +kernel⟩
theorem witness_EventsAndMessagesGoOut_6 : ∃ (b : Block) (on : Bool), (b.bar0 = true) ∧ (∀ v < 64, (b.vec v).pending =
    false) :=
  ⟨wLive, true, by decide +kernel⟩
theorem witness_EventsAndMessagesGoOut_7 : ∃ (b : Block) (on : Bool), (b.bar0 = true) ∧ (∀ v < 64, (b.vec v).pending =
    false) :=
  ⟨wLive, true, by decide +kernel⟩
theorem witness_EventsAndMessagesGoOut_8 : ∃ (b : Block) (v : Nat) (on : Bool), (b.bar0 = true) ∧ (v < 64) ∧ (∀ v < 64,
    (b.vec v).pending = false) :=
  ⟨wLive, 3, true, by decide +kernel⟩
theorem witness_EventsAndMessagesGoOut_9 : ∃ (b : Block) (w : MsixWrite), (b.bar0 = false) :=
  ⟨{ wLive with opal := { wLive.opal with link := false } }, .function true, by decide +kernel⟩
theorem witness_EventsAndMessagesGoOut_10 : ∃ (b : Block) (v : Nat), (b.alive .opal = true) ∧ ((b.vec v).holdoff = false) :=
  ⟨wLive, 0, by decide +kernel⟩
theorem witness_EventsAndMessagesGoOut_11 : ∃ (b : Block), (b.alive .opal = true) ∧ (b.ch.berylOpal = []) :=
  ⟨wLive, by decide +kernel⟩
theorem witness_RingStartsAreCheckedInOrder_0 : ∃ (b : Block) (w : Word), (b.alive .opal = true) ∧ (b.bar0 = true) ∧
    (asksStart w = true) ∧ (b.committed .opal = false) :=
  ⟨wLive, 0xA501, by decide +kernel⟩
theorem witness_RingStartsAreCheckedInOrder_1 : ∃ (b : Block) (w : Word), (b.alive .opal = true) ∧ (b.bar0 = true) ∧
    (asksStart w = true) ∧ (b.committed .opal = true) ∧ (b.opal.ctrl.state = .running) :=
  ⟨wPolls wCommitted, 0xA501, by decide +kernel⟩
theorem witness_RingStartsAreCheckedInOrder_2 : ∃ (b : Block) (w : Word), (b.alive .opal = true) ∧ (b.bar0 = true) ∧
    (asksStart w = true) ∧ (b.committed .opal = true) ∧ (b.opal.ctrl.state ≠ .running) ∧ (badLog2 (b.field 0x5020 4 0) =
    true) :=
  ⟨wBadLog, 0xA501, by decide +kernel⟩
theorem witness_RingStartsAreCheckedInOrder_3 : ∃ (b : Block) (w : Word), (b.alive .opal = true) ∧ (b.bar0 = true) ∧
    (asksStart w = true) ∧ (b.committed .opal = false) :=
  ⟨wLive, 0xA501, by decide +kernel⟩
theorem witness_RingStartsAreCheckedInOrder_4 : ∃ (b : Block) (w : Word), (b.alive .opal = true) ∧ (b.bar0 = true) ∧
    (asksStart w = true) ∧ (b.committed .opal = true) ∧ (b.opal.ldg.state = .running) :=
  ⟨{ wCommitted with opal := { wCommitted.opal with ldg := { coldOpal.ldg with state := .running } } }, 0xA501, by
      decide +kernel⟩
theorem witness_RingStartsAreCheckedInOrder_5 : ∃ (b : Block) (w : Word), (b.alive .opal = true) ∧ (b.bar0 = true) ∧
    (asksStart w = true) ∧ (b.committed .opal = true) ∧ (b.opal.ldg.state ≠ .running) ∧ (badLog2 (b.field 0x5038 4 0) =
    true) :=
  ⟨wBadLog, 0xA501, by decide +kernel⟩
theorem witness_RingStartsAreCheckedInOrder_6 : ∃ (b : Block) (w : Word), (b.alive .opal = true) ∧ (b.bar0 = true) ∧
    (asksStart w = true) ∧ (b.committed .opal = true) ∧ (b.opal.ctrl.state ≠ .running) ∧ (badLog2 (b.field 0x5020 4 0) =
    false) ∧ (badLog2 (b.field 0x5020 12 8) = false) ∧ (b.opal.events = []) :=
  ⟨wStart wCommitted, 0xA501, by decide +kernel⟩
theorem witness_RingStartsAreCheckedInOrder_7 : ∃ (b : Block) (w : Word), (b.alive .opal = true) ∧ (b.bar0 = true) ∧
    (asksStart w = true) ∧ (b.committed .opal = true) ∧ (b.opal.ldg.state ≠ .running) ∧ (badLog2 (b.field 0x5038 4 0) =
    false) ∧ (b.opal.window = []) ∧ (b.opal.takeEnds = []) :=
  ⟨wStart wCommitted, 0xA501, by decide +kernel⟩
theorem witness_RingStartsAreCheckedInOrder_8 : ∃ (b : Block) (w : Word), (b.alive .opal = true) ∧ ((b.bar0 = false ∨
    asksStart w = false)) :=
  ⟨wLive, 0, by decide +kernel⟩
theorem witness_RingStartsAreCheckedInOrder_9 : ∃ (b : Block) (w : Word), (b.alive .opal = true) ∧ ((b.bar0 = false ∨
    asksStart w = false)) :=
  ⟨wLive, 0, by decide +kernel⟩
theorem witness_HostLinkComesAndGoes_0 : ∃ (b : Block), (b.inPower .opal = true) ∧ (b.opal.link = true) :=
  ⟨wLive, by decide +kernel⟩
theorem witness_HostLinkComesAndGoes_1 : ∃ (b : Block), (b.opal.link = false) :=
  ⟨{ wLive with opal := { wLive.opal with link := false } }, by decide +kernel⟩
theorem witness_HostLinkComesAndGoes_2 : ∃ (b : Block) (rate width : Nat), (b.inPower .opal = true) ∧ (b.opal.link = false)
    ∧ (b.opal.perst = false) :=
  ⟨{ wLive with opal := { wLive.opal with link := false } }, 6, 8, by decide +kernel⟩
theorem witness_HostLinkComesAndGoes_3 : ∃ (b : Block) (rate width : Nat), ((b.opal.link = true ∨ b.opal.perst = true)) :=
  ⟨wLive, 6, 8, by decide +kernel⟩
theorem witness_HostLinkComesAndGoes_4 : ∃ (b : Block), (b.inPower .opal = true) ∧ (b.opal.link = true) :=
  ⟨wLive, by decide +kernel⟩
theorem witness_HostLinkComesAndGoes_5 : ∃ (b : Block), (b.opal.link = false) :=
  ⟨{ wLive with opal := { wLive.opal with link := false } }, by decide +kernel⟩
theorem witness_HostLinkComesAndGoes_6 : ∃ (b : Block), b = b :=
  ⟨wLive, by decide +kernel⟩
theorem witness_HostLinkComesAndGoes_7 : ∃ (b : Block), b = b :=
  ⟨wLive, by decide +kernel⟩
theorem witness_HostLinkComesAndGoes_8 : ∃ (b : Block) (x : Bool) (l : List Bool), (b.ch.onyxReport = x :: l) ∧
    (b.opal.flush ≠ .running) ∧ (b.ch.topazOpal = []) :=
  ⟨{ wLive with ch := { coldChannels with onyxReport := [true] } }, true, [], by decide +kernel⟩
theorem witness_HostLinkComesAndGoes_9 : ∃ (b : Block) (x : Bool) (l : List Bool), (b.ch.onyxReport = x :: l) ∧
    (b.opal.flush = .running) ∧ (b.hostUp = true) ∧ (b.ch.topazOpal = []) :=
  ⟨{ wLive with opal := { wLive.opal with flush := .running }, ch := { coldChannels with onyxReport := [true] } }, true,
      [], by decide +kernel⟩
theorem witness_HostLinkComesAndGoes_10 : ∃ (b : Block), (b.opal.flush = .reading) :=
  ⟨{ wLive with opal := { wLive.opal with flush := .reading } }, by decide +kernel⟩
theorem witness_HostLinkComesAndGoes_11 : ∃ (b : Block), (b.topaz.pwr.onyxReport.isSome = true) ∧ (b.opal.flush = .reading
    ∨ b.opal.flush = .running) :=
  ⟨{ wLive with opal := { wLive.opal with flush := .reading }, topaz := { wLive.topaz with pwr := { wLive.topaz.pwr with onyxReport := some true } } }, by decide +kernel⟩
theorem witness_HostLinkComesAndGoes_12 : ∃ (b : Block), (b.ch.onyxReport = []) :=
  ⟨wLive, by decide +kernel⟩
theorem witness_HostLinkComesAndGoes_13 : ∃ (b : Block), (b.opal.flush ≠ .reading) :=
  ⟨wLive, by decide +kernel⟩
theorem witness_HostLinkComesAndGoes_14 : ∃ (b : Block), (b.opal.flush ≠ .reading) ∧ (b.opal.flush ≠ .running) :=
  ⟨wLive, by decide +kernel⟩
theorem witness_MagazineSetsAreCheckedAndStaged_0 : ∃ (b : Block) (i off : Nat) (d : List Byte), (b.alive .onyx = true) ∧
    (b.dispatched ctrlRing i 0x0A = some d) ∧ (b.onyx.staged = []) ∧ (setFault d = some off) :=
  ⟨wDesc (wSetDesc 0), 0, 16, wSetDesc 0, by decide +kernel⟩
theorem witness_MagazineSetsAreCheckedAndStaged_1 : ∃ (b : Block) (i c : Nat) (d : List Byte) (s : MagSet), (b.alive .onyx
    = true) ∧ (b.dispatched ctrlRing i 0x0A = some d) ∧ (b.onyx.staged = []) ∧ (setFault d = none) ∧ (parseSet d = some s)
    ∧ (setRefusal b s b.takeAccepted = some c) :=
  ⟨wDesc (wSetDesc 1), 0, 7, wSetDesc 1, wMagSet, by decide +kernel⟩
theorem witness_MagazineSetsAreCheckedAndStaged_2 : ∃ (b : Block) (i : Nat) (d : List Byte) (s : MagSet), (b.alive .onyx =
    true) ∧ (b.dispatched ctrlRing i 0x0A = some d) ∧ (b.onyx.staged.any (fun x => x.desc == i) = false) ∧ (setFault d =
    none) ∧ (parseSet d = some s) ∧ (setRefusal b s b.takeAccepted = none) :=
  ⟨wRate (wPort 0 wReadyPort (wDesc (wSetDesc 1))), 0, wSetDesc 1, wMagSet, by decide +kernel⟩
theorem witness_MagazineSetsAreCheckedAndStaged_3 : ∃ (b : Block) (i : Nat) (d : List Byte), (b.alive .onyx = true) ∧
    (b.dispatched ctrlRing i 0x0B = some d) ∧ (3 < leAt d 16 1) :=
  ⟨wDesc (wQueryDesc 4 0 4096), 0, wQueryDesc 4 0 4096, by decide +kernel⟩
theorem witness_MagazineSetsAreCheckedAndStaged_4 : ∃ (b : Block) (i : Nat) (d : List Byte), (b.alive .onyx = true) ∧
    (b.dispatched ctrlRing i 0x0B = some d) ∧ (leAt d 16 1 ≤ 3) ∧ (3 < leAt d 17 1) :=
  ⟨wDesc (wQueryDesc 0 4 4096), 0, wQueryDesc 0 4 4096, by decide +kernel⟩
theorem witness_MagazineSetsAreCheckedAndStaged_5 : ∃ (b : Block) (i : Nat) (d : List Byte), (b.alive .onyx = true) ∧
    (b.dispatched ctrlRing i 0x0B = some d) ∧ (leAt d 16 1 ≤ 3) ∧ (leAt d 17 1 ≤ 3) ∧ (badLength (leAt d 20 4) = false) ∧
    (misaligned (leAt d 24 8) 64 = false) ∧ (leAt d 20 4 < 4096) :=
  ⟨wDesc (wQueryDesc 0 0 64), 0, wQueryDesc 0 0 64, by decide +kernel⟩
theorem witness_MagazineSetsAreCheckedAndStaged_6 : ∃ (b : Block) (i : Nat) (d : List Byte), (b.alive .onyx = true) ∧
    (b.dispatched ctrlRing i 0x0B = some d) ∧ (leAt d 16 1 ≤ 3) ∧ (leAt d 17 1 ≤ 3) ∧ (badLength (leAt d 20 4) = false) ∧
    (misaligned (leAt d 24 8) 64 = false) ∧ (4096 ≤ leAt d 20 4) ∧ ((b.port (leAt d 16 1)).state = .empty) :=
  ⟨wDesc (wQueryDesc 0 0 4096), 0, wQueryDesc 0 0 4096, by decide +kernel⟩
theorem witness_MagazineSetsAreCheckedAndStaged_7 : ∃ (b : Block) (i : Nat) (d : List Byte), (b.alive .onyx = true) ∧
    (b.dispatched ctrlRing i 0x0B = some d) ∧ (leAt d 16 1 ≤ 3) ∧ (leAt d 17 1 ≤ 3) ∧ (badLength (leAt d 20 4) = false) ∧
    (misaligned (leAt d 24 8) 64 = false) ∧ (4096 ≤ leAt d 20 4) ∧ ((b.port (leAt d 16 1)).state = .ready) ∧ (leAt d 17 1 =
    2) ∧ ((b.port (leAt d 16 1)).cmds = []) :=
  ⟨wPort 0 wReadyPort (wDesc (wQueryDesc 0 2 4096)), 0, wQueryDesc 0 2 4096, by decide +kernel⟩
theorem witness_MagazineSetsAreCheckedAndStaged_8 : ∃ (b : Block) (i : Nat) (d : List Byte), (b.alive .onyx = true) ∧
    (b.dispatched ctrlRing i 0x0B = some d) ∧ (leAt d 16 1 ≤ 3) ∧ (leAt d 17 1 ≤ 3) ∧ (badLength (leAt d 20 4) = false) ∧
    (misaligned (leAt d 24 8) 64 = false) ∧ (4096 ≤ leAt d 20 4) ∧ ((b.port (leAt d 16 1)).state = .ready) ∧ (leAt d 17 1 =
    0) ∧ (b.hostUp = true) :=
  ⟨wPort 0 wReadyPort (wDesc (wQueryDesc 0 0 4096)), 0, wQueryDesc 0 0 4096, by decide +kernel⟩
theorem witness_MagazineSetsAreCheckedAndStaged_9 : ∃ (b : Block) (i : Nat) (d : List Byte), (b.alive .onyx = true) ∧
    (b.dispatched ctrlRing i 0x0B = some d) ∧ (leAt d 16 1 ≤ 3) ∧ (leAt d 17 1 ≤ 3) ∧ (badLength (leAt d 20 4) = false) ∧
    (misaligned (leAt d 24 8) 64 = false) ∧ (4096 ≤ leAt d 20 4) ∧ ((b.port (leAt d 16 1)).state ≠ .empty) ∧ ((b.port (leAt
    d 16 1)).state ≠ .training) ∧ ((b.port (leAt d 16 1)).state ≠ .lost) ∧ (leAt d 17 1 = 1) :=
  ⟨wPort 0 wReadyPort (wDesc (wQueryDesc 0 1 4096)), 0, wQueryDesc 0 1 4096, by decide +kernel⟩
theorem witness_MagazineSetsAreCheckedAndStaged_10 : ∃ (b : Block) (i : Nat) (d : List Byte), (b.alive .onyx = true) ∧
    (b.dispatched ctrlRing i 0x0B = some d) ∧ (leAt d 16 1 ≤ 3) ∧ (leAt d 17 1 ≤ 3) ∧ (badLength (leAt d 20 4) = false) ∧
    (misaligned (leAt d 24 8) 64 = false) ∧ (4096 ≤ leAt d 20 4) ∧ ((b.port (leAt d 16 1)).state ≠ .empty) ∧ ((b.port (leAt
    d 16 1)).state ≠ .training) ∧ ((b.port (leAt d 16 1)).state ≠ .lost) ∧ (leAt d 17 1 = 3) :=
  ⟨wPort 0 wReadyPort (wDesc (wQueryDesc 0 3 4096)), 0, wQueryDesc 0 3 4096, by decide +kernel⟩
theorem witness_MagazineSetsAreCheckedAndStaged_11 : ∃ (b : Block) (i : Nat) (d : List Byte), (b.alive .onyx = true) ∧
    (b.dispatched ctrlRing i 0x0B = some d) ∧ (leAt d 16 1 ≤ 3) ∧ (leAt d 17 1 ≤ 3) ∧ (badLength (leAt d 20 4) = true) :=
  ⟨wDesc (wQueryDesc 0 0 0), 0, wQueryDesc 0 0 0, by decide +kernel⟩
theorem witness_MagazineSetsAreCheckedAndStaged_12 : ∃ (b : Block) (i : Nat), (b.alive .onyx = true) ∧ (b.dispatched
    ctrlRing i 0x0B = none) :=
  ⟨wLive, 0, by decide +kernel⟩
theorem witness_MagazineSetsAreCheckedAndStaged_13 : ∃ (b : Block) (i : Nat), (b.alive .onyx = true) ∧ (b.dispatched
    ctrlRing i 0x0A = none) :=
  ⟨wLive, 0, by decide +kernel⟩
theorem witness_MagazineSetsAreCheckedAndStaged_14 : ∃ (b : Block) (i : Nat) (d : List Byte), (b.alive .onyx = true) ∧
    (b.dispatched ctrlRing i 0x0A = some d) ∧ (b.onyx.staged.any (fun x => x.desc == i) = true) :=
  ⟨wOnyx (fun o => { o with staged := [⟨wMagSet, 0, 0⟩] }) (wDesc (wSetDesc 1)), 0, wSetDesc 1, by decide +kernel⟩
theorem witness_LatchNoticesBindRetention_0 : ∃ (b : Block) (n : LatchNotice) (l : List LatchNotice) (s : Snapshot),
    (b.alive .onyx = true) ∧ (islandEmpty b .onyx = false) ∧ (b.ch.noticeOnyx = n :: l) ∧ (n.snap = some s) ∧
    (b.ch.onyxDests = []) :=
  ⟨{ wLive with ch := { coldChannels with noticeOnyx := [⟨0, some wSnap, none, none⟩] } }, ⟨0, some wSnap, none, none⟩, [],
      wSnap, by decide +kernel⟩
theorem witness_LatchNoticesBindRetention_1 : ∃ (b : Block) (n : LatchNotice) (l : List LatchNotice), (b.alive .onyx =
    true) ∧ (islandEmpty b .onyx = false) ∧ (b.ch.noticeOnyx = n :: l) ∧ (n.takeStart = none) ∧ (n.takeStop = none) ∧
    (b.onyxAtRest = true) ∧ (n.snap = none) ∧ (b.onyx.staged = []) :=
  ⟨wOnyxNotice none wLive, ⟨0, none, none, none⟩, [], by decide +kernel⟩
theorem witness_LatchNoticesBindRetention_2 : ∃ (b : Block) (n : LatchNotice) (l : List LatchNotice) (x : StagedSet),
    (b.alive .onyx = true) ∧ (islandEmpty b .onyx = false) ∧ (b.ch.noticeOnyx = n :: l) ∧ (n.takeStart = none) ∧
    (n.takeStop = none) ∧ (b.onyxAtRest = true) ∧ (n.snap = none) ∧ (b.onyx.staged = [x]) ∧ (x.skip = 0) ∧ (setRefusal b
    x.set false = none) ∧ (b.onyx.set = none) ∧ (b.opal.held = none) ∧ (b.garnet.start = none) :=
  ⟨wOnyxNotice none (wOnyx (fun o => { o with staged := [⟨wMagSet, 0, 0⟩] }) (wRate (wPort 0 wReadyPort wLive))), ⟨0, none,
      none, none⟩, [], ⟨wMagSet, 0, 0⟩, by decide +kernel⟩
theorem witness_LatchNoticesBindRetention_3 : ∃ (b : Block) (n : LatchNotice) (l : List LatchNotice) (s : Snapshot) (d :
    Dest), (b.alive .onyx = true) ∧ (islandEmpty b .onyx = false) ∧ (b.ch.noticeOnyx = n :: l) ∧ (n.takeStart = none) ∧
    (n.takeStop = none) ∧ (b.onyxAtRest = true) ∧ (n.snap = some s) ∧ (b.ch.onyxDests = [(s.frame, [d])]) ∧ (d.magazine =
    true) ∧ (b.onyx.staged = []) ∧ (b.onyx.failed = []) ∧ (armed b = false) :=
  ⟨wOnyxNotice (some wSnap) (wWindow [wDest true false]), ⟨0, some wSnap, none, none⟩, [], wSnap, wDest true false, by
      decide +kernel⟩
theorem witness_LatchNoticesBindRetention_4 : ∃ (b : Block) (n : LatchNotice) (l : List LatchNotice) (s : Snapshot) (d :
    Dest) (x : MagSet) (a : Nat), (b.alive .onyx = true) ∧ (islandEmpty b .onyx = false) ∧ (b.ch.noticeOnyx = n :: l) ∧
    (n.takeStart = none) ∧ (n.takeStop = none) ∧ (b.onyxAtRest = true) ∧ (n.snap = some s) ∧ (b.ch.onyxDests = [(s.frame,
    [d])]) ∧ (d.magazine = true) ∧ (b.onyx.staged = []) ∧ (b.onyx.failed = []) ∧ (armed b = true) ∧ (b.onyx.set = some x) ∧
    (reserve b d.segLen = some a) :=
  ⟨wOnyxNotice (some wSnap) (wOnyx (fun o => { o with set := some wMagSet }) (wRate (wPort 0
      { wReadyPort with state := .member } (wWindow [wDest true false])))), ⟨0, some wSnap, none, none⟩, [], wSnap, wDest
      true false, wMagSet, 0, by decide +kernel⟩
theorem witness_LatchNoticesBindRetention_5 : ∃ (b : Block) (lost : Nat), (b.alive .onyx = true) ∧ (islandEmpty b .onyx =
    false) ∧ (b.ch.noticeOnyx.length ≤ lost) :=
  ⟨wLive, 0, by decide +kernel⟩
theorem witness_LatchNoticesBindRetention_6 : ∃ (b : Block) (lost : Nat), (b.alive .onyx = true) ∧ (islandEmpty b .onyx =
    false) ∧ (lost < b.ch.noticeOnyx.length) :=
  ⟨wOnyxNotice none wLive, 0, by decide +kernel⟩
theorem witness_MagazinePortsComeAndGo_0 : ∃ (b : Block) (m gen width vs cap : Nat), (b.alive .onyx = true) ∧
    (b.beryl.evr.mode ≠ 2) ∧ (mayTrain b m = true) ∧ (width = 4) ∧ (4 ≤ min gen (maxGen b m)) ∧ (controllerOk vs cap =
    true) :=
  ⟨wPort 0 { emptyPort with settled := true }
      { wCommitted with beryl := { wCommitted.beryl with otc := { wCommitted.beryl.otc with magPorts := 15 } } }, 0, 6, 4,
      0x00010400, 137438953535, by decide +kernel⟩
theorem witness_MagazinePortsComeAndGo_1 : ∃ (b : Block) (m gen width vs cap : Nat), (b.alive .onyx = true) ∧
    (b.beryl.evr.mode ≠ 2) ∧ (mayTrain b m = true) ∧ (width ≠ 4 ∨ min gen (maxGen b m) < 4) :=
  ⟨wPort 0 { emptyPort with settled := true }
      { wCommitted with beryl := { wCommitted.beryl with otc := { wCommitted.beryl.otc with magPorts := 15 } } }, 0, 6, 2,
      0x00010400, 137438953535, by decide +kernel⟩
theorem witness_MagazinePortsComeAndGo_2 : ∃ (b : Block) (m gen width vs cap : Nat), (b.alive .onyx = true) ∧ (mayTrain b m
    = false) :=
  ⟨wLive, 0, 6, 2, 0x00010400, 137438953535, by decide +kernel⟩
theorem witness_MagazinePortsComeAndGo_3 : ∃ (b : Block) (m : Nat) (also : List Nat), (b.alive .onyx = true) ∧
    (b.beryl.evr.mode ≠ 2) ∧ (∀ k < 4, k ∈ m :: also → isLive (b.port k).state = true) ∧ (b.onyxAtRest = true) ∧
    (b.onyx.set = none) :=
  ⟨wPort 0 wReadyPort wLive, 0, [], by decide +kernel⟩
theorem witness_MagazinePortsComeAndGo_4 : ∃ (b : Block) (m : Nat) (also : List Nat), (b.alive .onyx = true) ∧
    (b.beryl.evr.mode = 2) :=
  ⟨{ wLive with beryl := { wLive.beryl with evr := { wLive.beryl.evr with mode := 2 } } }, 0, [], by decide +kernel⟩
theorem witness_MagazinePortsComeAndGo_5 : ∃ (b : Block) (m : Nat), (b.alive .onyx = true) ∧ (b.beryl.evr.mode = 2) :=
  ⟨{ wLive with beryl := { wLive.beryl with evr := { wLive.beryl.evr with mode := 2 } } }, 0, by decide +kernel⟩
theorem witness_MagazinePortsComeAndGo_6 : ∃ (b : Block) (m gen width vs cap : Nat), (b.alive .onyx = true) ∧
    (b.beryl.evr.mode = 2) :=
  ⟨{ wLive with beryl := { wLive.beryl with evr := { wLive.beryl.evr with mode := 2 } } }, 0, 6, 4, 0, 0, by decide +kernel⟩
theorem witness_MagazinePortsComeAndGo_7 : ∃ (b : Block) (m : Nat), (b.alive .onyx = true) ∧ (b.beryl.evr.mode ≠ 2) ∧ (m <
    4) ∧ ((b.port m).state = .refused) :=
  ⟨wPort 0 { emptyPort with state := .refused } wLive, 0, by decide +kernel⟩
theorem witness_MagazinePortsComeAndGo_8 : ∃ (b : Block) (m : Nat), (b.alive .onyx = true) ∧ (b.beryl.evr.mode ≠ 2) ∧ (m <
    4) ∧ (isLive (b.port m).state = true) ∧ (b.onyxAtRest = true) ∧ (b.onyx.set = none) :=
  ⟨wPort 0 wReadyPort wLive, 0, by decide +kernel⟩
theorem witness_MagazinePortsComeAndGo_9 : ∃ (b : Block) (m cid : Nat) (c : NvmeCmd), (b.alive .onyx = true) ∧ (m < 4) ∧
    (isLive (b.port m).state = true) ∧ (b.onyxAtRest = true) ∧ (b.onyx.set = none) ∧ ((b.port m).cmds.find? (fun c => c.cid
    == cid) = some c) ∧ (c.use ≠ .event) :=
  ⟨wPort 0 { wReadyPort with cmds := [wCmd .health] } wLive, 0, 5, wCmd .health, by decide +kernel⟩
theorem witness_MagazinePortsComeAndGo_10 : ∃ (b : Block) (m cid : Nat) (c : NvmeCmd), (b.alive .onyx = true) ∧ (m < 4) ∧
    ((b.port m).cmds.find? (fun c => c.cid == cid) = some c) ∧ (c.use = .event) :=
  ⟨wPort 0 { wReadyPort with cmds := [wCmd .event] } wLive, 0, 5, wCmd .event, by decide +kernel⟩
theorem witness_MagazinePortsComeAndGo_11 : ∃ (b : Block) (m csts : Nat), (b.alive .onyx = true) ∧ (m < 4) ∧ (isLive
    (b.port m).state = true) ∧ (b.onyxAtRest = true) ∧ (b.onyx.set = none) ∧ (bitOf csts 1 = true) :=
  ⟨wPort 0 wReadyPort wLive, 0, 3, by decide +kernel⟩
theorem witness_MagazinePortsComeAndGo_12 : ∃ (b : Block) (m csts : Nat), (b.alive .onyx = true) ∧ (m < 4) ∧ (b.onyxAtRest
    = true) ∧ ((b.port m).state = .mounting) ∧ ((b.port m).mount = .reset) ∧ ((b.port m).cmds = []) ∧ (csts = 1) :=
  ⟨wPort 0 { emptyPort with state := .mounting } wLive, 0, 1, by decide +kernel⟩
theorem witness_MagazinePortsComeAndGo_13 : ∃ (b : Block) (w : Word), (magConfirmed b w = true) ∧ (bitOf w.toNat 16 = true)
    :=
  ⟨wLive, 0x1A500, by decide +kernel⟩
theorem witness_MagazinePortsComeAndGo_14 : ∃ (b : Block) (w : Word), (magConfirmed b w = false) :=
  ⟨wLive, 0x1A400, by decide +kernel⟩
theorem witness_MagazinePortsComeAndGo_15 : ∃ (b : Block) (w : Word), (magConfirmed b w = true) ∧ (bitOf w.toNat 17 = true)
    ∧ (b.onyx.set = none) ∧ (b.onyxAtRest = true) ∧ ((b.port (bitsOf w.toNat 1 0)).state ≠ .empty) :=
  ⟨wPort 0 wReadyPort wLive, 0x2A500, by decide +kernel⟩
theorem witness_MagazinePortsComeAndGo_16 : ∃ (b : Block) (w : Word) (s : MagSet), (b.onyx.set = some s) ∧ (bitsOf w.toNat
    1 0 ∈ s.members) :=
  ⟨wOnyx (fun o => { o with set := some wMagSet }) wLive, 0x2A500, wMagSet, by decide +kernel⟩
theorem witness_MagazinePortsComeAndGo_17 : ∃ (b : Block) (m : Nat), (b.inPower .onyx = true) ∧ (m < 4) ∧ (vget
    b.topaz.pwr.magpwr m false = true) :=
  ⟨{ wLive with topaz := { wLive.topaz with pwr := { wLive.topaz.pwr with magpwr := .replicate 4 true } } }, 0, by
      decide +kernel⟩
theorem witness_MagazinePortsComeAndGo_18 : ∃ (b : Block) (m : Nat), ((4 ≤ m ∨ vget b.topaz.pwr.magpwr m false = false)) :=
  ⟨wLive, 4, by decide +kernel⟩
theorem witness_MagazinePortsComeAndGo_19 : ∃ (b : Block) (w : Word), ((magConfirmed b w = false ∨ bitOf w.toNat 17 = false
    ∨ (b.port (bitsOf w.toNat 1 0)).state = .empty)) :=
  ⟨wLive, 0, by decide +kernel⟩
theorem witness_MagazinePortsComeAndGo_20 : ∃ (b : Block) (m csts : Nat), (b.alive .onyx = true) ∧ ((4 ≤ m ∨ isLive (b.port
    m).state = false)) :=
  ⟨wLive, 4, 0, by decide +kernel⟩
theorem witness_MagazinePortsComeAndGo_21 : ∃ (b : Block) (m : Nat), (b.alive .onyx = true) ∧ ((4 ≤ m ∨ isLive (b.port
    m).state = false)) :=
  ⟨wLive, 4, by decide +kernel⟩
theorem witness_MagazinePortsComeAndGo_22 : ∃ (b : Block) (m cid : Nat), (b.alive .onyx = true) ∧ ((4 ≤ m ∨ (b.port
    m).cmds.find? (fun c => c.cid == cid) = none)) :=
  ⟨wLive, 4, 0, by decide +kernel⟩
theorem witness_NvmeCommandsEnd_0 : ∃ (b : Block) (m cid status sqhd : Nat) (data : List Byte), (b.alive .onyx = true) ∧ (m
    < 4) ∧ ((b.port m).cmds.find? (fun c => c.cid == cid) = none) :=
  ⟨wLive, 0, 0, 0, 0, [], by decide +kernel⟩
theorem witness_NvmeCommandsEnd_1 : ∃ (b : Block) (m cid status sqhd : Nat) (data : List Byte), (b.alive .onyx = true) ∧
    (b.beryl.evr.mode = 2) :=
  ⟨{ wLive with beryl := { wLive.beryl with evr := { wLive.beryl.evr with mode := 2 } } }, 0, 0, 0, 0, [], by
      decide +kernel⟩
theorem witness_NvmeCommandsEnd_2 : ∃ (b : Block) (m cid status sqhd : Nat) (data : List Byte) (c : NvmeCmd), (b.alive
    .onyx = true) ∧ (b.beryl.evr.mode ≠ 2) ∧ (m < 4) ∧ ((b.port m).cmds.find? (fun c => c.cid == cid) = some c) ∧ (status %
    2048 ≠ 0) ∧ (bitOf status 14 = false) ∧ (c.retried = false) ∧ (c.use ≠ .errorLog) ∧ ((b.port m).cmds.length < 31) :=
  ⟨wPort 0 { wReadyPort with cmds := [wCmd .health] } wLive, 0, 5, 1, 0, [], wCmd .health, by decide +kernel⟩
theorem witness_NvmeCommandsEnd_3 : ∃ (b : Block) (m cid status sqhd : Nat) (data : List Byte) (c : NvmeCmd), (b.alive
    .onyx = true) ∧ (b.beryl.evr.mode ≠ 2) ∧ (m < 4) ∧ ((b.port m).cmds.find? (fun c => c.cid == cid) = some c) ∧ (status %
    2048 = 0) ∧ (c.use = .errorLog) ∧ ((b.port m).logWait = []) ∧ (b.onyxAtRest = true) :=
  ⟨wPort 0 { wReadyPort with cmds := [wCmd .errorLog] } wLive, 0, 5, 0, 0, [], wCmd .errorLog, by decide +kernel⟩
theorem witness_NvmeCommandsEnd_4 : ∃ (b : Block) (m cid status sqhd : Nat) (data : List Byte) (c : NvmeCmd), (b.alive
    .onyx = true) ∧ (b.beryl.evr.mode ≠ 2) ∧ (m < 4) ∧ (b.onyxAtRest = true) ∧ ((b.port m).cmds = [c]) ∧ (c.cid = cid) ∧
    (c.use = .serial) ∧ (c.op = .identifyController) ∧ ((b.port m).state = .mounting) ∧ ((b.port m).mount = .controller) ∧
    (status % 2048 = 0) ∧ (leAt data 77 1 = 0) ∧ ((b.port m).logWait = []) :=
  ⟨wPort 0 { emptyPort with state := .mounting, mount := .controller, cmds := [{ wCmd .serial with op := .identifyController }] } wLive, 0, 5, 0, 0, [], { wCmd .serial with op := .identifyController }, by decide +kernel⟩
theorem witness_NvmeCommandsEnd_5 : ∃ (b : Block), (b.alive .onyx = true) ∧ (∀ m < 4, (b.port m).cmds.length < 31) :=
  ⟨wPort 0 wReadyPort wLive, by decide +kernel⟩
theorem witness_NvmeCommandsEnd_6 : ∃ (b : Block) (r : EncRequest) (l : List EncRequest) (v : List Byte), (b.alive .spinel
    = true) ∧ (islandEmpty b .spinel = false) ∧ (b.ch.onyxSpinel = r :: l) ∧ (b.accepts .spinel r.sent = true) ∧ (r.port <
    4) ∧ (encryptPart b r = some v) ∧ (b.onyxAtRest = true) :=
  ⟨{ wLive with
    spinel := { coldSpinel with binds := [⟨0, 0, wKey, false⟩] }, ch :=
        { coldChannels with onyxSpinel := [⟨0, 0, 0, 0, 0, 0, 0, 9, 64, 1⟩] }
        }, ⟨0, 0, 0, 0, 0, 0, 0, 9, 64, 1⟩, [], [], by decide +kernel⟩
theorem witness_NvmeCommandsEnd_7 : ∃ (b : Block) (r : EncRequest) (l : List EncRequest), (b.alive .spinel = true) ∧
    (islandEmpty b .spinel = false) ∧ (b.ch.onyxSpinel = r :: l) ∧ ((b.accepts .spinel r.sent = false ∨ encryptPart b r =
    none)) :=
  ⟨{ wLive with ch := { coldChannels with onyxSpinel := [⟨0, 0, 0, 0, 0, 0, 0, 9, 64, 1⟩] } }, ⟨0, 0, 0, 0, 0, 0, 0, 9, 64,
      1⟩, [], by decide +kernel⟩
theorem witness_NvmeCommandsEnd_8 : ∃ (b : Block), (b.alive .spinel = true) ∧ (islandEmpty b .spinel = false) ∧
    (b.ch.onyxSpinel = []) :=
  ⟨wLive, by decide +kernel⟩
theorem witness_NvmeCommandsEnd_9 : ∃ (b : Block) (m cid status sqhd : Nat) (data : List Byte) (c : NvmeCmd), (b.alive
    .onyx = true) ∧ (b.beryl.evr.mode ≠ 2) ∧ (m < 4) ∧ ((b.port m).cmds.find? (fun c => c.cid == cid) = some c) ∧ (status %
    2048 ≠ 0) ∧ ((bitOf status 14 = true ∨ c.retried = true)) ∧ (isLive (b.port m).state = true) ∧ (b.onyxAtRest = true) ∧
    (b.onyx.set = none) :=
  ⟨wPort 0 { wReadyPort with cmds := [wCmd .health] } wLive, 0, 5, 16385, 0, [], wCmd .health, by decide +kernel⟩
theorem witness_SegmentsAndFlushesEndInOnyx_0 : ∃ (b : Block) (ecc : Ecc) (k : SegToken) (l : List SegToken), (b.alive
    .onyx = true) ∧ (islandEmpty b .onyx = false) ∧ (b.ch.spinelOnyx = k :: l) ∧ (b.accepts .onyx k.sent = true) ∧
    (k.isFailed = false) ∧ (b.onyx.segs = []) :=
  ⟨{ wLive with ch := { coldChannels with spinelOnyx := [wSegTok] } }, .ok, wSegTok, [], by decide +kernel⟩
theorem witness_SegmentsAndFlushesEndInOnyx_1 : ∃ (b : Block) (k : SegToken) (l : List SegToken) (g : OnyxSeg), (b.alive
    .onyx = true) ∧ (islandEmpty b .onyx = false) ∧ (b.ch.spinelOnyx = k :: l) ∧ (b.accepts .onyx k.sent = true) ∧
    (k.isFailed = false) ∧ (b.onyx.segs = [g]) ∧ (g.frame = k.frame) ∧ (g.dest.index = k.index) ∧ (g.takeNo = none) ∧
    (g.outcome = .pending) ∧ (b.onyx.takes = []) ∧ (b.onyx.flush = none) ∧ (b.onyx.rolls = []) ∧ (b.ch.opalOnyx = []) ∧
    (b.portsIdle = true) :=
  ⟨wOnyx (fun o => { o with segs := [wHeldSeg] })
      { wWindow [wDest true false] with ch := { coldChannels with spinelOnyx := [{ wSegTok with header := true }] } },
      { wSegTok with header := true }, [], wHeldSeg, by decide +kernel⟩
theorem witness_SegmentsAndFlushesEndInOnyx_2 : ∃ (b : Block) (f i : Nat) (l : List (Nat × Nat)), (b.alive .onyx = true) ∧
    (islandEmpty b .onyx = false) ∧ (b.ch.expiry = (f, i) :: l) ∧ (b.onyx.segs = []) ∧ (b.ch.onyxOpal = []) :=
  ⟨{ wLive with ch := { coldChannels with expiry := [(4, 0)] } }, 4, 0, [], by decide +kernel⟩
theorem witness_SegmentsAndFlushesEndInOnyx_3 : ∃ (b : Block) (f i : Nat) (l : List (Nat × Nat)) (g : OnyxSeg), (b.alive
    .onyx = true) ∧ (islandEmpty b .onyx = false) ∧ (b.ch.expiry = (f, i) :: l) ∧ (osegGet b f i = some g) ∧ (g.outcome ≠
    .pending) :=
  ⟨wOnyx (fun o => { o with segs := [{ wHeldSeg with outcome := .done }] })
      { wLive with ch := { coldChannels with expiry := [(0, 0)] } }, 0, 0, [], { wHeldSeg with outcome := .done }, by
      decide +kernel⟩
theorem witness_SegmentsAndFlushesEndInOnyx_4 : ∃ (b : Block) (ms : Nat) (l : List TopazEvent), (b.alive .onyx = true) ∧
    (b.ch.topazOnyx = .loss ms :: l) ∧ (b.onyxAtRest = true) ∧ (b.onyx.set = none) :=
  ⟨{ wLive with ch := { coldChannels with topazOnyx := [.loss 5000] } }, 5000, [], by decide +kernel⟩
theorem witness_SegmentsAndFlushesEndInOnyx_5 : ∃ (b : Block) (l : List TopazEvent), (b.alive .onyx = true) ∧
    (b.ch.topazOnyx = .shutdown :: l) ∧ (b.onyxAtRest = true) ∧ (b.onyx.set = none) :=
  ⟨{ wLive with ch := { coldChannels with topazOnyx := [.shutdown] } }, [], by decide +kernel⟩
theorem witness_SegmentsAndFlushesEndInOnyx_6 : ∃ (b : Block) (ms : Nat) (l : List TopazEvent) (s : MagSet) (m : Nat),
    (b.alive .onyx = true) ∧ (b.ch.topazOnyx = .loss ms :: l) ∧ (b.onyxAtRest = true) ∧ (b.onyx.set = some s) ∧ (s.members
    = [m]) ∧ (m < 4) ∧ (isMounted (b.port m).state = true) ∧ ((b.port m).cmds = []) ∧ ((b.port m).shn = false) ∧ ((b.port
    m).shutDone = false) :=
  ⟨wOnyx (fun o => { o with set := some wMagSet }) (wPort 0 { wReadyPort with state := .member }
      { wLive with ch := { coldChannels with topazOnyx := [.loss 5000] } }), 5000, [], wMagSet, 0, by decide +kernel⟩
theorem witness_SegmentsAndFlushesEndInOnyx_7 : ∃ (b : Block), (b.alive .onyx = true) ∧ (b.onyx.flush = none) :=
  ⟨wLive, by decide +kernel⟩
theorem witness_SegmentsAndFlushesEndInOnyx_8 : ∃ (b : Block) (f : OnyxFlush), (b.alive .onyx = true) ∧ (b.onyx.flush =
    some f) ∧ (f.cut = false) ∧ (f.reported = true) ∧ (b.onyx.segs = []) ∧ (b.onyx.takes = []) ∧ (b.onyx.rolls = []) ∧
    (b.ch.opalOnyx = []) ∧ (b.portsIdle = true) ∧ (b.onyx.set = none) :=
  ⟨wOnyx (fun o => { o with flush := some ⟨.powerLoss, 0, 5000, false, false, true⟩ }) wLive, ⟨.powerLoss, 0, 5000, false,
      false, true⟩, by decide +kernel⟩
theorem witness_SegmentsAndFlushesEndInOnyx_9 : ∃ (b : Block) (f : OnyxFlush) (s : MagSet), (b.alive .onyx = true) ∧
    (b.onyx.flush = some f) ∧ (f.reported = false) ∧ (b.onyx.set = some s) ∧ (∀ m ∈ s.members, (b.port m).shn = true) :=
  ⟨wOnyx (fun o => { o with set := some wMagSet, flush := some ⟨.powerLoss, 0, 5000, false, false, false⟩ }) (wPort 0
      { wReadyPort with shn := true } wLive), ⟨.powerLoss, 0, 5000, false, false, false⟩, wMagSet, by decide +kernel⟩
theorem witness_SegmentsAndFlushesEndInOnyx_10 : ∃ (b : Block), (b.alive .onyx = true) ∧ (b.onyx.flush = none) :=
  ⟨wLive, by decide +kernel⟩
theorem witness_SegmentsAndFlushesEndInOnyx_11 : ∃ (b : Block) (f : OnyxFlush), (b.alive .onyx = true) ∧ (b.onyx.flush =
    some f) ∧ (f.reported = true) :=
  ⟨wOnyx (fun o => { o with flush := some ⟨.powerLoss, 0, 5000, false, false, true⟩ }) wLive, ⟨.powerLoss, 0, 5000, false,
      false, true⟩, by decide +kernel⟩
theorem witness_SegmentsAndFlushesEndInOnyx_12 : ∃ (b : Block) (f : OnyxFlush), (b.alive .onyx = true) ∧ (b.onyx.flush =
    some f) ∧ (f.cut = true) :=
  ⟨wOnyx (fun o => { o with flush := some ⟨.powerLoss, 0, 5000, true, false, true⟩ }) wLive, ⟨.powerLoss, 0, 5000, true,
      false, true⟩, by decide +kernel⟩
theorem witness_SegmentsAndFlushesEndInOnyx_13 : ∃ (b : Block), (b.alive .onyx = true) ∧ (b.ch.topazOnyx = []) :=
  ⟨wLive, by decide +kernel⟩
theorem witness_SegmentsAndFlushesEndInOnyx_14 : ∃ (b : Block), (b.alive .onyx = true) ∧ (b.ch.topazOnyx = []) :=
  ⟨wLive, by decide +kernel⟩
theorem witness_SegmentsAndFlushesEndInOnyx_15 : ∃ (b : Block) (ms : Nat) (l : List TopazEvent) (f : OnyxFlush), (b.alive
    .onyx = true) ∧ (b.ch.topazOnyx = .loss ms :: l) ∧ (b.onyx.flush = some f) ∧ (b.onyx.set = none) :=
  ⟨wOnyx (fun o => { o with flush := some ⟨.shutdown, 0, 3000, false, false, true⟩ })
      { wLive with ch := { coldChannels with topazOnyx := [.loss 5000] } }, 5000, [], ⟨.shutdown, 0, 3000, false, false,
      true⟩, by decide +kernel⟩
theorem witness_SegmentsAndFlushesEndInOnyx_16 : ∃ (b : Block), (b.alive .onyx = true) ∧ (islandEmpty b .onyx = false) ∧
    (b.ch.expiry = []) :=
  ⟨wLive, by decide +kernel⟩
theorem witness_SegmentsAndFlushesEndInOnyx_17 : ∃ (b : Block) (f i : Nat) (l : List (Nat × Nat)) (g : OnyxSeg), (b.alive
    .onyx = true) ∧ (islandEmpty b .onyx = false) ∧ (b.ch.expiry = (f, i) :: l) ∧ (osegGet b f i = some g) ∧ (g.outcome =
    .pending) ∧ (durable g = false) ∧ (g.parts.any (·.committing) = true) :=
  ⟨wOnyx (fun o => { o with segs := [{ wHeldSeg with parts := [⟨0, 0, 0, 64, false, none, 1, 1, true, false⟩] }] })
      { wLive with ch := { coldChannels with expiry := [(0, 0)] } }, 0, 0, [],
      { wHeldSeg with parts := [⟨0, 0, 0, 64, false, none, 1, 1, true, false⟩] }, by decide +kernel⟩
theorem witness_SegmentsAndFlushesEndInOnyx_18 : ∃ (b : Block) (f i : Nat) (l : List (Nat × Nat)) (g : OnyxSeg), (b.alive
    .onyx = true) ∧ (islandEmpty b .onyx = false) ∧ (b.ch.expiry = (f, i) :: l) ∧ (osegGet b f i = some g) ∧ (g.outcome =
    .pending) ∧ (durable g = false) ∧ (g.parts.any (·.committing) = false) :=
  ⟨wOnyx (fun o => { o with segs := [wHeldSeg] }) { wLive with ch := { coldChannels with expiry := [(0, 0)] } }, 0, 0, [],
      wHeldSeg, by decide +kernel⟩
theorem witness_SegmentsAndFlushesEndInOnyx_19 : ∃ (b : Block) (f i : Nat) (l : List (Nat × Nat)) (g : OnyxSeg), (b.alive
    .onyx = true) ∧ (islandEmpty b .onyx = false) ∧ (b.ch.expiry = (f, i) :: l) ∧ (osegGet b f i = some g) ∧ (g.outcome =
    .pending) ∧ (durable g = true) :=
  ⟨wOnyx (fun o => { o with segs := [{ wHeldSeg with parts := [⟨0, 0, 0, 64, false, none, 1, 1, false, true⟩] }] })
      { wLive with ch := { coldChannels with expiry := [(0, 0)] } }, 0, 0, [],
      { wHeldSeg with parts := [⟨0, 0, 0, 64, false, none, 1, 1, false, true⟩] }, by decide +kernel⟩
theorem witness_SegmentsAndFlushesEndInOnyx_20 : ∃ (b : Block) (ecc : Ecc), (b.alive .onyx = true) ∧ (islandEmpty b .onyx =
    false) ∧ (b.ch.spinelOnyx = []) :=
  ⟨wLive, .ok, by decide +kernel⟩
theorem witness_SegmentsAndFlushesEndInOnyx_21 : ∃ (b : Block) (ecc : Ecc) (k : SegToken) (l : List SegToken), (b.alive
    .onyx = true) ∧ (islandEmpty b .onyx = false) ∧ (b.ch.spinelOnyx = k :: l) ∧ (b.accepts .onyx k.sent = false) :=
  ⟨{ wLive with ch := { coldChannels with spinelOnyx := [{ wSegTok with sent := 9 }] } }, .ok, { wSegTok with sent := 9 },
      [], by decide +kernel⟩
theorem witness_SegmentsAndFlushesEndInOnyx_22 : ∃ (b : Block) (ecc : Ecc) (k : SegToken) (l : List SegToken) (g :
    OnyxSeg), (b.alive .onyx = true) ∧ (islandEmpty b .onyx = false) ∧ (b.ch.spinelOnyx = k :: l) ∧ (b.accepts .onyx k.sent
    = true) ∧ (k.isFailed = false) ∧ (osegGet b k.frame k.index = some g) :=
  ⟨wOnyx (fun o => { o with segs := [wHeldSeg] })
      { wWindow [wDest true false] with ch := { coldChannels with spinelOnyx := [wSegTok] } }, .ue, wSegTok, [], wHeldSeg,
      by decide +kernel⟩
theorem witness_SegmentsAndFlushesEndInOnyx_23 : ∃ (b : Block) (ecc : Ecc) (k : SegToken) (l : List SegToken), (b.alive
    .onyx = true) ∧ (islandEmpty b .onyx = false) ∧ (b.ch.spinelOnyx = k :: l) ∧ (b.accepts .onyx k.sent = true) ∧
    (k.isFailed = true) ∧ (b.ch.noticeOnyx = []) :=
  ⟨{ wWindow [wDest true false] with ch := { coldChannels with spinelOnyx := [wFailTok] } }, .ok, wFailTok, [], by
      decide +kernel⟩
theorem witness_EngineInstructionsMoveData_0 : ∃ (b : Block) (n : Nat) (joins : Bool) (w : Half) (s : Block), (b.alive
    .agate = true) ∧ (runs b n = true) ∧ (fetchWord b n = w) ∧ (isOp 2 w = true) ∧ (s = cycleAt n joins b) ∧ (stallOf s n w
    = .none_) ∧ ((jumpTo s n w).any (fun a => 48 ≤ a) = false) :=
  ⟨wInstr 0x2008, 0, false, 0x2008, cycleAt 0 false (wInstr 0x2008), by decide +kernel⟩
theorem witness_EngineInstructionsMoveData_1 : ∃ (b : Block) (n : Nat) (joins : Bool) (w : Half) (s : Block), (b.alive
    .agate = true) ∧ (runs b n = true) ∧ (fetchWord b n = w) ∧ (isOp 3 w = true) ∧ (s = cycleAt n joins b) ∧ (stallOf s n w
    = .none_) ∧ ((jumpTo s n w).any (fun a => 48 ≤ a) = false) :=
  ⟨wInstr 0x3008, 0, false, 0x3008, cycleAt 0 false (wInstr 0x3008), by decide +kernel⟩
theorem witness_EngineInstructionsMoveData_2 : ∃ (b : Block) (n : Nat) (joins : Bool) (w : Half) (s : Block), (b.alive
    .agate = true) ∧ (runs b n = true) ∧ (fetchWord b n = w) ∧ (isOp 6 w = true) ∧ (s = cycleAt n joins b) ∧ (stallOf s n w
    = .none_) ∧ ((jumpTo s n w).any (fun a => 48 ≤ a) = false) :=
  ⟨wInstr 0x6210, 0, false, 0x6210, cycleAt 0 false (wInstr 0x6210), by decide +kernel⟩
theorem witness_EngineInstructionsMoveData_3 : ∃ (b : Block) (n : Nat) (joins : Bool) (w : Half) (s : Block), (b.alive
    .agate = true) ∧ (runs b n = true) ∧ (fetchWord b n = w) ∧ (isOp 7 w = true) ∧ (s = cycleAt n joins b) ∧ (stallOf s n w
    = .none_) ∧ ((jumpTo s n w).any (fun a => 48 ≤ a) = false) :=
  ⟨wInstr 0x7101, 0, false, 0x7101, cycleAt 0 false (wInstr 0x7101), by decide +kernel⟩
theorem witness_EngineInstructionsMoveData_4 : ∃ (b : Block) (n : Nat) (w : Half), (b.alive .agate = true) ∧ (runs b n =
    true) ∧ (fetchWord b n = w) ∧ (isOp 7 w = true) ∧ (sel w = 2) ∧ (ganged b n = false) ∧ (sideCount b n = 0) ∧ (∀ p < 16,
    muxFunc b p = 0) :=
  ⟨{ wInstr 0x740B with regs := [(0x8108, 0x10)] }, 0, 0x740B, by decide +kernel⟩
theorem witness_EngineInstructionsMoveData_5 : ∃ (b : Block) (n : Nat) (joins : Bool) (w : Half) (s : Block), (b.alive
    .agate = true) ∧ (runs b n = true) ∧ (fetchWord b n = w) ∧ (isOp 4 w = true) ∧ (s = cycleAt n joins b) ∧ (stallOf s n w
    = .none_) ∧ ((jumpTo s n w).any (fun a => 48 ≤ a) = false) ∧ (ganged b n = false) :=
  ⟨wInstr 0x4000, 0, false, 0x4000, cycleAt 0 false (wInstr 0x4000), by decide +kernel⟩
theorem witness_EngineInstructionsMoveData_6 : ∃ (b : Block) (n : Nat) (joins : Bool) (w : Half) (s : Block), (b.alive
    .agate = true) ∧ (runs b n = true) ∧ (fetchWord b n = w) ∧ (isOp 4 w = true) ∧ (s = cycleAt n joins b) ∧ (stallOf s n w
    = .none_) ∧ ((jumpTo s n w).any (fun a => 48 ≤ a) = false) ∧ (ganged b n = true) :=
  ⟨wGang 0x4000 wGangRegs, 0, false, 0x4000, cycleAt 0 false (wGang 0x4000 wGangRegs), by decide +kernel⟩
theorem witness_EngineInstructionsMoveData_7 : ∃ (b : Block) (n : Nat) (joins : Bool) (w : Half) (s : Block), (b.alive
    .agate = true) ∧ (runs b n = true) ∧ (fetchWord b n = w) ∧ (isOp 5 w = true) ∧ (s = cycleAt n joins b) ∧ (stallOf s n w
    = .none_) ∧ ((jumpTo s n w).any (fun a => 48 ≤ a) = false) ∧ (ganged b n = false) :=
  ⟨wInstrE 0x5003 { wEngine with tx := [5] }, 0, false, 0x5003, cycleAt 0 false (wInstrE 0x5003
      { wEngine with tx := [5] }), by decide +kernel⟩
theorem witness_EngineInstructionsMoveData_8 : ∃ (b : Block) (n : Nat) (joins : Bool) (w : Half) (s : Block), (b.alive
    .agate = true) ∧ (runs b n = true) ∧ (fetchWord b n = w) ∧ (isOp 5 w = true) ∧ (s = cycleAt n joins b) ∧ (stallOf s n w
    = .none_) ∧ ((jumpTo s n w).any (fun a => 48 ≤ a) = false) ∧ (ganged b n = true) :=
  ⟨wGang 0x5000 wGangRegs, 0, false, 0x5000, cycleAt 0 false (wGang 0x5000 wGangRegs), by decide +kernel⟩
theorem witness_EngineInstructionsMoveData_9 : ∃ (b : Block) (n : Nat) (joins : Bool), (b.alive .agate = true) ∧ ((runs b n
    = false ∨ isOp 2 (fetchWord b n) = false)) :=
  ⟨wAgate id, 0, false, by decide +kernel⟩
theorem witness_EngineInstructionsMoveData_10 : ∃ (b : Block) (n : Nat) (joins : Bool), (b.alive .agate = true) ∧ ((runs b
    n = false ∨ isOp 3 (fetchWord b n) = false)) :=
  ⟨wAgate id, 0, false, by decide +kernel⟩
theorem witness_EngineInstructionsMoveData_11 : ∃ (b : Block) (n : Nat) (joins : Bool), (b.alive .agate = true) ∧ ((runs b
    n = false ∨ isOp 6 (fetchWord b n) = false)) :=
  ⟨wAgate id, 0, false, by decide +kernel⟩
theorem witness_EngineInstructionsMoveData_12 : ∃ (b : Block) (n : Nat) (joins : Bool), (b.alive .agate = true) ∧ ((runs b
    n = false ∨ isOp 7 (fetchWord b n) = false)) :=
  ⟨wAgate id, 0, false, by decide +kernel⟩
theorem witness_EngineInstructionsMoveData_13 : ∃ (b : Block) (n : Nat) (joins : Bool), (b.alive .agate = true) ∧ ((runs b
    n = false ∨ isOp 4 (fetchWord b n) = false)) :=
  ⟨wAgate id, 0, false, by decide +kernel⟩
theorem witness_EngineInstructionsMoveData_14 : ∃ (b : Block) (n : Nat) (joins : Bool), (b.alive .agate = true) ∧ ((runs b
    n = false ∨ isOp 5 (fetchWord b n) = false)) :=
  ⟨wAgate id, 0, false, by decide +kernel⟩
theorem witness_EngineInstructionsSteer_0 : ∃ (b : Block) (n : Nat) (joins : Bool) (w : Half) (s : Block), (b.alive .agate
    = true) ∧ (runs b n = true) ∧ (fetchWord b n = w) ∧ (isOp 0 w = true) ∧ (s = cycleAt n joins b) ∧ (stallOf s n w =
    .none_) ∧ ((jumpTo s n w).any (fun a => 48 ≤ a) = false) :=
  ⟨wInstr 0x0421, 0, false, 0x0421, cycleAt 0 false (wInstr 0x0421), by decide +kernel⟩
theorem witness_EngineInstructionsSteer_1 : ∃ (b : Block) (n : Nat) (joins : Bool) (w : Half) (s : Block), (b.alive .agate
    = true) ∧ (runs b n = true) ∧ (fetchWord b n = w) ∧ (isOp 1 w = true) ∧ (s = cycleAt n joins b) ∧ (stallOf s n w =
    .none_) ∧ ((jumpTo s n w).any (fun a => 48 ≤ a) = false) :=
  ⟨wInstr 0x1028, 0, false, 0x1028, cycleAt 0 false (wInstr 0x1028), by decide +kernel⟩
theorem witness_EngineInstructionsSteer_2 : ∃ (b : Block) (n : Nat) (joins : Bool) (w : Half) (s : Block), (b.alive .agate
    = true) ∧ (runs b n = true) ∧ (fetchWord b n = w) ∧ (isOp 1 w = true) ∧ (s = cycleAt n joins b) ∧ (stallOf s n w =
    .wait) :=
  ⟨wInstr 0x1828, 0, false, 0x1828, cycleAt 0 false (wInstr 0x1828), by decide +kernel⟩
theorem witness_EngineInstructionsSteer_3 : ∃ (b : Block) (n : Nat) (joins : Bool) (w : Half) (s : Block), (b.alive .agate
    = true) ∧ (runs b n = true) ∧ (fetchWord b n = w) ∧ (isOp 5 w = true) ∧ (s = cycleAt n joins b) ∧ (stallOf s n w =
    .pull) :=
  ⟨wInstr 0x5000, 0, false, 0x5000, cycleAt 0 false (wInstr 0x5000), by decide +kernel⟩
theorem witness_EngineInstructionsSteer_4 : ∃ (b : Block) (n : Nat) (joins : Bool) (w : Half) (s : Block), (b.alive .agate
    = true) ∧ (runs b n = true) ∧ (fetchWord b n = w) ∧ (isOp 4 w = true) ∧ (s = cycleAt n joins b) ∧ (stallOf s n w =
    .push) :=
  ⟨wInstrE 0x4000 { wEngine with rx := [0, 0, 0, 0] }, 0, false, 0x4000, cycleAt 0 false (wInstrE 0x4000
      { wEngine with rx := [0, 0, 0, 0] }), by decide +kernel⟩
theorem witness_EngineInstructionsSteer_5 : ∃ (b : Block) (n : Nat) (joins : Bool) (w : Half) (s : Block), (b.alive .agate
    = true) ∧ (runs b n = true) ∧ (fetchWord b n = w) ∧ (isFlag 2 w = true) ∧ (s = cycleAt n joins b) ∧ (stallOf s n w =
    .flag) :=
  ⟨wInstr 0x8800, 0, false, 0x8800, cycleAt 0 false (wInstr 0x8800), by decide +kernel⟩
theorem witness_EngineInstructionsSteer_6 : ∃ (b : Block) (n : Nat) (joins : Bool) (w : Half) (s : Block), (b.alive .agate
    = true) ∧ (runs b n = true) ∧ (fetchWord b n = w) ∧ (isFlag 0 w = true) ∧ (s = cycleAt n joins b) ∧ (stallOf s n w =
    .none_) ∧ ((jumpTo s n w).any (fun a => 48 ≤ a) = false) :=
  ⟨wInstr 0x8008, 0, false, 0x8008, cycleAt 0 false (wInstr 0x8008), by decide +kernel⟩
theorem witness_EngineInstructionsSteer_7 : ∃ (b : Block) (n : Nat) (joins : Bool) (w : Half) (s : Block), (b.alive .agate
    = true) ∧ (runs b n = true) ∧ (fetchWord b n = w) ∧ (isFlag 1 w = true) ∧ (s = cycleAt n joins b) ∧ (stallOf s n w =
    .none_) ∧ ((jumpTo s n w).any (fun a => 48 ≤ a) = false) ∧ (vget s.agate.cycRaised (bitsOf w.toNat 5 3) false = false)
    :=
  ⟨wInstr 0x8408, 0, false, 0x8408, cycleAt 0 false (wInstr 0x8408), by decide +kernel⟩
theorem witness_EngineInstructionsSteer_8 : ∃ (b : Block) (n : Nat) (joins : Bool) (w : Half) (s : Block), (b.alive .agate
    = true) ∧ (runs b n = true) ∧ (fetchWord b n = w) ∧ (isFlag 2 w = true) ∧ (s = cycleAt n joins b) ∧ (stallOf s n w =
    .none_) ∧ ((jumpTo s n w).any (fun a => 48 ≤ a) = false) ∧ (vget s.agate.cycRaised (bitsOf w.toNat 5 3) false = false)
    :=
  ⟨{ wInstr 0x8808 with agate := { (wInstr 0x8808).agate with flags := .replicate 8 true } }, 0, false, 0x8808, cycleAt 0
      false ({ wInstr 0x8808 with agate := { (wInstr 0x8808).agate with flags := .replicate 8 true } }), by decide +kernel⟩
theorem witness_EngineInstructionsSteer_9 : ∃ (b : Block) (n : Nat) (joins : Bool) (w : Half) (s : Block), (b.alive .agate
    = true) ∧ (runs b n = true) ∧ (fetchWord b n = w) ∧ (isFlag 3 w = true) ∧ (s = cycleAt n joins b) ∧ (stallOf s n w =
    .none_) ∧ ((jumpTo s n w).any (fun a => 48 ≤ a) = false) :=
  ⟨wInstr 0x8C00, 0, false, 0x8C00, cycleAt 0 false (wInstr 0x8C00), by decide +kernel⟩
theorem witness_EngineInstructionsSteer_10 : ∃ (b : Block) (n : Nat) (joins : Bool) (w : Half) (s : Block), (b.alive .agate
    = true) ∧ (runs b n = true) ∧ (fetchWord b n = w) ∧ (isOp 9 w = true) ∧ (s = cycleAt n joins b) ∧ (stallOf s n w =
    .none_) ∧ ((jumpTo s n w).any (fun a => 48 ≤ a) = false) :=
  ⟨wInstrE 0x9010 { wEngine with latches := .replicate 32 true }, 0, false, 0x9010, cycleAt 0 false (wInstrE 0x9010
      { wEngine with latches := .replicate 32 true }), by decide +kernel⟩
theorem witness_EngineInstructionsSteer_11 : ∃ (b : Block) (n : Nat) (joins : Bool) (w : Half) (s : Block), (b.alive .agate
    = true) ∧ (runs b n = true) ∧ (fetchWord b n = w) ∧ (isOp 9 w = true) ∧ (s = cycleAt n joins b) ∧ (bitOf w.toNat 11 =
    true) ∧ (vget b.agate.due n false = true) ∧ ((b.engine n).stall = .none_) ∧ (ganged b n = false) :=
  ⟨wInstr 0x9811, 0, false, 0x9811, cycleAt 0 false (wInstr 0x9811), by decide +kernel⟩
theorem witness_EngineInstructionsSteer_12 : ∃ (b : Block) (n : Nat) (joins : Bool) (s : Block), (b.alive .agate = true) ∧
    (runs b n = true) ∧ (badOp (fetchWord b n) = true) ∧ (s = cycleAt n joins b) :=
  ⟨wInstr 0xA000, 0, false, cycleAt 0 false (wInstr 0xA000), by decide +kernel⟩
theorem witness_EngineInstructionsSteer_13 : ∃ (b : Block) (n : Nat) (joins : Bool) (s : Block), (b.alive .agate = true) ∧
    (runs b n = true) ∧ (badOp (fetchWord b n) = false) ∧ (s = cycleAt n joins b) ∧ (stallOf s n (fetchWord b n) = .none_)
    ∧ ((jumpTo s n (fetchWord b n)).any (fun a => 48 ≤ a) = true) :=
  ⟨wInstr 0x0180, 0, false, cycleAt 0 false (wInstr 0x0180), by decide +kernel⟩
theorem witness_EngineInstructionsSteer_14 : ∃ (b : Block) (n : Nat) (joins : Bool), (b.alive .agate = true) ∧ (runs b n =
    false) :=
  ⟨wAgate id, 0, false, by decide +kernel⟩
theorem witness_EngineInstructionsSteer_15 : ∃ (b : Block) (n : Nat) (joins : Bool), (b.alive .agate = true) ∧ ((runs b n =
    false ∨ isOp 0 (fetchWord b n) = false)) :=
  ⟨wAgate id, 0, false, by decide +kernel⟩
theorem witness_EngineInstructionsSteer_16 : ∃ (b : Block) (n : Nat) (joins : Bool), (b.alive .agate = true) ∧ ((runs b n =
    false ∨ isOp 1 (fetchWord b n) = false)) :=
  ⟨wAgate id, 0, false, by decide +kernel⟩
theorem witness_EngineInstructionsSteer_17 : ∃ (b : Block) (n : Nat) (joins : Bool), (b.alive .agate = true) ∧ ((runs b n =
    false ∨ isFlag 0 (fetchWord b n) = false)) :=
  ⟨wAgate id, 0, false, by decide +kernel⟩
theorem witness_EngineInstructionsSteer_18 : ∃ (b : Block) (n : Nat) (joins : Bool), (b.alive .agate = true) ∧ ((runs b n =
    false ∨ isFlag 1 (fetchWord b n) = false)) :=
  ⟨wAgate id, 0, false, by decide +kernel⟩
theorem witness_EngineInstructionsSteer_19 : ∃ (b : Block) (n : Nat) (joins : Bool), (b.alive .agate = true) ∧ ((runs b n =
    false ∨ isFlag 2 (fetchWord b n) = false)) :=
  ⟨wAgate id, 0, false, by decide +kernel⟩
theorem witness_EngineInstructionsSteer_20 : ∃ (b : Block) (n : Nat) (joins : Bool), (b.alive .agate = true) ∧ ((runs b n =
    false ∨ isFlag 3 (fetchWord b n) = false)) :=
  ⟨wAgate id, 0, false, by decide +kernel⟩
theorem witness_EngineInstructionsSteer_21 : ∃ (b : Block) (n : Nat) (joins : Bool), (b.alive .agate = true) ∧ ((runs b n =
    false ∨ isOp 9 (fetchWord b n) = false)) :=
  ⟨wAgate id, 0, false, by decide +kernel⟩
theorem witness_EnginesAndGangsAreControlled_0 : ∃ (b : Block) (w : Word) (s : Block), (b.alive .agate = true) ∧ (b.bar0 =
    true) ∧ (b.committed .agate = true) ∧ (b.agate.gangLo = false) ∧ (b.agate.gangHi = false) ∧ (w.getLsbD 8 = false) ∧
    (w.getLsbD 9 = false) ∧ (s = startDue b) :=
  ⟨wAgate id, 1, startDue (wAgate id), by decide +kernel⟩
theorem witness_EnginesAndGangsAreControlled_1 : ∃ (b : Block) (w : Word) (s : Block), (b.alive .agate = true) ∧ (b.bar0 =
    true) ∧ (b.committed .agate = true) ∧ (b.agate.gangLo = false) ∧ (b.agate.gangHi = false) ∧ (w.getLsbD 8 = false) ∧
    (w.getLsbD 9 = false) ∧ (s = startDue b) :=
  ⟨wInstr 0x7101, 0, startDue (wInstr 0x7101), by decide +kernel⟩
theorem witness_EnginesAndGangsAreControlled_2 : ∃ (b : Block) (w : Word), (b.alive .agate = true) ∧ (b.bar0 = true) ∧
    (b.committed .agate = true) ∧ (b.agate.gangLo = true) ∧ (w.getLsbD 8 = true) ∧ (w.getLsbD 0 = true) ∧ (∀ m < 4,
    (b.engine m).en = false) ∧ (flowStart b 0 < 48) :=
  ⟨wAgate (fun a => { a with gangLo := true }), 0x101, by decide +kernel⟩
theorem witness_EnginesAndGangsAreControlled_3 : ∃ (b : Block) (w : Word) (s : Block), (b.alive .agate = true) ∧ (b.bar0 =
    true) ∧ (b.committed .agate = true) ∧ (b.agate.gangLo = true) ∧ (w.getLsbD 8 = true) ∧ (w.getLsbD 0 = false) ∧
    ((b.engine 0).en = true) ∧ (s = startDue b) :=
  ⟨wGang 0 blankGang, 0x100, startDue (wGang 0 blankGang), by decide +kernel⟩
theorem witness_EnginesAndGangsAreControlled_4 : ∃ (b : Block) (w : Word), ((b.bar0 = false ∨ b.alive .agate = false)) :=
  ⟨{ wLive with opal := { wLive.opal with link := false } }, 1, by decide +kernel⟩
theorem witness_EnginesAndGangsAreControlled_5 : ∃ (b : Block) (w : Word), ((b.bar0 = false ∨ b.alive .agate = false)) :=
  ⟨{ wLive with opal := { wLive.opal with link := false } }, 1, by decide +kernel⟩
theorem witness_EnginesAndGangsAreControlled_6 : ∃ (b : Block) (w : Word), ((b.bar0 = false ∨ b.alive .agate = false)) :=
  ⟨{ wLive with opal := { wLive.opal with link := false } }, 1, by decide +kernel⟩
theorem witness_EnginesAndGangsAreControlled_7 : ∃ (b : Block) (w : Word), (b.alive .agate = true) ∧ (b.bar0 = true) ∧
    (b.committed .agate = false) ∧ (b.agate.gangLo = w.getLsbD 8) ∧ (b.agate.gangHi = w.getLsbD 9) :=
  ⟨wLive, 1, by decide +kernel⟩
theorem witness_EnginesAndGangsAreControlled_8 : ∃ (b : Block) (w : Word), (b.alive .agate = true) ∧ (b.bar0 = true) ∧
    (b.committed .agate = false) ∧ (b.agate.gangLo = w.getLsbD 8) ∧ (b.agate.gangHi = w.getLsbD 9) :=
  ⟨wLive, 1, by decide +kernel⟩
theorem witness_EnginesAndGangsAreControlled_9 : ∃ (b : Block) (g : Nat) (data : List (Nat × Word)) (w : Word), (b.alive
    .agate = true) ∧ (firmware b = true) ∧ (2 ≤ g) :=
  ⟨wAgate id, 2, [], 0, by decide +kernel⟩
theorem witness_EnginesAndGangsAreControlled_10 : ∃ (b : Block) (w : Word), (b.alive .agate = true) ∧ (b.bar0 = true) ∧ (∀
    m < 4, (b.engine m).en = false) :=
  ⟨wAgate id, 0x100, by decide +kernel⟩
theorem witness_EnginesAndGangsAreControlled_11 : ∃ (b : Block) (w : Word) (m : Nat), (b.alive .agate = true) ∧ (b.bar0 =
    true) ∧ (m < 4) ∧ ((b.engine m).en = true) :=
  ⟨wInstr 0x7101, 0x100, 0, by decide +kernel⟩
theorem witness_EnginesAndGangsAreControlled_12 : ∃ (b : Block) (g m : Nat) (v w : Word), (b.alive .agate = true) ∧
    (firmware b = true) ∧ (g < 2) ∧ (m < 4) ∧ ((vget b.agate.gang g blankGang).outValid = false) :=
  ⟨wAgate id, 0, 1, 9, 1, by decide +kernel⟩
theorem witness_EnginesAndGangsAreControlled_13 : ∃ (b : Block) (g : Nat) (data : List (Nat × Word)) (w : Word), (b.alive
    .agate = true) ∧ (firmware b = true) ∧ (g < 2) ∧ ((vget b.agate.gang g blankGang).outValid = true) :=
  ⟨wGang 0x5000 wGangRegs, 0, [], 2, by decide +kernel⟩
theorem witness_PinsEventsAndTransfersReachEngines_0 : ∃ (b : Block) (p : Nat) (level : Bool) (s : Block), (b.alive .agate
    = true) ∧ (p < 16) ∧ ((padDriven b p).any (· != level) = false) ∧ (s = startDue b) :=
  ⟨wAgate id, 3, true, startDue (wAgate id), by decide +kernel⟩
theorem witness_PinsEventsAndTransfersReachEngines_1 : ∃ (b : Block) (p : Nat) (level : Bool), (b.alive .agate = true) ∧
    ((16 ≤ p ∨ (padDriven b p).any (· != level) = true)) :=
  ⟨wAgate id, 16, true, by decide +kernel⟩
theorem witness_PinsEventsAndTransfersReachEngines_2 : ∃ (b : Block) (joins : Bool) (s : Block), (b.alive .agate = true) ∧
    (b.beryl.evr.mode ≠ 2) ∧ (s = startDue b) ∧ (s.agate.trigArmed = true) ∧ (s.agate.trigLevel = false) :=
  ⟨wAgate (fun a => { a with trigArmed := true }), false, startDue (wAgate (fun a => { a with trigArmed := true })), by
      decide +kernel⟩
theorem witness_PinsEventsAndTransfersReachEngines_3 : ∃ (b : Block) (joins : Bool) (s : Block), (b.alive .agate = true) ∧
    (b.beryl.evr.mode ≠ 2) ∧ (s = startDue b) ∧ ((s.agate.trigArmed = false ∨ s.agate.trigLevel = true)) :=
  ⟨wAgate id, false, startDue (wAgate id), by decide +kernel⟩
theorem witness_PinsEventsAndTransfersReachEngines_4 : ∃ (b : Block) (s : Block), (b.alive .agate = true) ∧
    (b.beryl.evr.mode ≠ 2) ∧ (s = startDue b) :=
  ⟨wAgate id, startDue (wAgate id), by decide +kernel⟩
theorem witness_PinsEventsAndTransfersReachEngines_5 : ∃ (b : Block) (joins : Bool), (b.alive .agate = true) ∧
    (b.beryl.evr.mode = 2) :=
  ⟨{ wLive with beryl := { wLive.beryl with evr := { wLive.beryl.evr with mode := 2 } } }, false, by decide +kernel⟩
theorem witness_PinsEventsAndTransfersReachEngines_6 : ∃ (b : Block), (b.alive .agate = true) ∧ (b.beryl.evr.mode = 2) :=
  ⟨{ wLive with beryl := { wLive.beryl with evr := { wLive.beryl.evr with mode := 2 } } }, by decide +kernel⟩
theorem witness_PinsEventsAndTransfersReachEngines_7 : ∃ (b : Block) (k : Nat) (l : List Nat) (s : Block), (b.alive .agate
    = true) ∧ (islandEmpty b .agate = false) ∧ (b.ch.quartzAgate = k :: l) ∧ (s = startDue b) :=
  ⟨{ wInstr 0x9810 with ch := { coldChannels with quartzAgate := [2] } }, 2, [], startDue
      { wInstr 0x9810 with ch := { coldChannels with quartzAgate := [2] } }, by decide +kernel⟩
theorem witness_PinsEventsAndTransfersReachEngines_8 : ∃ (b : Block) (lost : Nat), (b.alive .agate = true) ∧ (islandEmpty b
    .agate = false) ∧ (b.ch.quartzAgate = []) :=
  ⟨wAgate id, 0, by decide +kernel⟩
theorem witness_PinsEventsAndTransfersReachEngines_9 : ∃ (b : Block) (w : Word), (b.bar0 = true) ∧ (b.field 0x8440 0 0 =
    w.toNat % 2) :=
  ⟨wAgate id, 0x50000, by decide +kernel⟩
theorem witness_PinsEventsAndTransfersReachEngines_10 : ∃ (b : Block) (w : Word), (b.bar0 = true) ∧ (b.field 0x8440 0 0 ≠
    w.toNat % 2) :=
  ⟨wAgate id, 0x50001, by decide +kernel⟩
theorem witness_PinsEventsAndTransfersReachEngines_11 : ∃ (b : Block) (w : Word), (b.bar0 = false) :=
  ⟨{ wLive with opal := { wLive.opal with link := false } }, 0, by decide +kernel⟩
theorem witness_PinsEventsAndTransfersReachEngines_12 : ∃ (b : Block) (i off : Nat) (v : Option (List Byte)) (d : List
    Byte), (b.alive .agate = true) ∧ (b.dispatched ctrlRing i 0x0C = some d) ∧ (b.agate.transfers = []) ∧ (leAt d 17 1 = 0)
    ∧ (transferFault b d = some off) :=
  ⟨wDesc (wSeq 0 0), 0, 32, none, wSeq 0 0, by decide +kernel⟩
theorem witness_PinsEventsAndTransfersReachEngines_13 : ∃ (b : Block) (i : Nat) (d : List Byte), (b.alive .agate = true) ∧
    (b.dispatched ctrlRing i 0x0C = some d) ∧ (b.agate.transfers = []) ∧ (leAt d 17 1 = 0) ∧ (transferFault b d = none) :=
  ⟨wDesc (wSeq 0 2), 0, wSeq 0 2, by decide +kernel⟩
theorem witness_PinsEventsAndTransfersReachEngines_14 : ∃ (b : Block) (i : Nat) (d v : List Byte), (b.alive .agate = true)
    ∧ (b.dispatched ctrlRing i 0x0C = some d) ∧ (b.agate.transfers = []) ∧ (leAt d 17 1 = 0) ∧ (transferFault b d = none) ∧
    (4 * leAt d 32 2 ≤ v.length) ∧ ((b.engine (leAt d 16 1)).tx.length + leAt d 32 2 ≤ txDepth b (leAt d 16 1)) :=
  ⟨wDesc (wSeq 0 2), 0, wSeq 0 2, leBytes 8 5, by decide +kernel⟩
theorem witness_PinsEventsAndTransfersReachEngines_15 : ∃ (b : Block) (i : Nat) (d : List Byte), (b.alive .agate = true) ∧
    (b.dispatched ctrlRing i 0x0C = some d) ∧ (b.agate.transfers = []) ∧ (leAt d 17 1 = 1) ∧ (transferFault b d = none) ∧
    (leAt d 32 2 ≤ (b.engine (leAt d 16 1)).rx.length) ∧ (b.hostUp = true) :=
  ⟨{ wDesc (wSeq 1 1) with agate := { coldAgate with eng := coldAgate.eng.setIfInBounds 0 { wEngine with rx := [5] } } },
      0, wSeq 1 1, by decide +kernel⟩
theorem witness_PinsEventsAndTransfersReachEngines_16 : ∃ (b : Block) (i cycles : Nat) (d v : List Byte), (b.alive .agate =
    true) ∧ (b.dispatched ctrlRing i 0x0C = some d) ∧ (b.agate.transfers = []) ∧ (leAt d 17 1 = 2) ∧ (transferFault b d =
    none) ∧ (2 * leAt d 32 2 ≤ v.length) ∧ (leAt d 32 2 ≤ cycles) :=
  ⟨wDesc (wSeq 2 2), 0, 9, wSeq 2 2, leBytes 4 7, by decide +kernel⟩
theorem witness_PinsEventsAndTransfersReachEngines_17 : ∃ (b : Block) (i : Nat) (d : List Byte) (x : Transfer), (b.alive
    .agate = true) ∧ (b.dispatched ctrlRing i 0x0C = some d) ∧ (b.agate.transfers = [x]) ∧ (x.desc = i) ∧ (x.op = .tx) :=
  ⟨{ wDesc (wSeq 0 2) with agate := { coldAgate with transfers := [wTransfer .tx] } }, 0, wSeq 0 2, wTransfer .tx, by
      decide +kernel⟩
theorem witness_PinsEventsAndTransfersReachEngines_18 : ∃ (b : Block) (i : Nat) (d : List Byte) (x : Transfer), (b.alive
    .agate = true) ∧ (b.dispatched ctrlRing i 0x0C = some d) ∧ (b.agate.transfers = [x]) ∧ (x.desc = i) ∧ (leAt d 34 2 ≠ 0)
    :=
  ⟨{ wDesc (wSeq 0 2) with agate := { coldAgate with transfers := [wTransfer .tx] } }, 0, wSeq 0 2, wTransfer .tx, by
      decide +kernel⟩
theorem witness_PinsEventsAndTransfersReachEngines_19 : ∃ (b : Block) (i : Nat) (d : List Byte), (b.alive .agate = true) ∧
    (b.dispatched ctrlRing i 0x0C = some d) ∧ (b.agate.transfers = []) ∧ (leAt d 17 1 = 1) ∧ (transferFault b d = none) ∧
    (b.hostUp = false) :=
  ⟨{ wDesc (wSeq 1 1) with opal := { (wDesc (wSeq 1 1)).opal with link := false } }, 0, wSeq 1 1, by decide +kernel⟩
theorem witness_PinsEventsAndTransfersReachEngines_20 : ∃ (b : Block) (i : Nat) (v : Option (List Byte)), (b.alive .agate =
    true) ∧ (b.dispatched ctrlRing i 0x0C = none) :=
  ⟨wLive, 0, none, by decide +kernel⟩
theorem witness_PinsEventsAndTransfersReachEngines_21 : ∃ (b : Block) (i : Nat), (b.alive .agate = true) ∧ (b.dispatched
    ctrlRing i 0x0C = none) :=
  ⟨wLive, 0, by decide +kernel⟩
theorem witness_PinsEventsAndTransfersReachEngines_22 : ∃ (b : Block) (i cycles : Nat) (v : Option (List Byte)), (b.alive
    .agate = true) ∧ (b.dispatched ctrlRing i 0x0C = none) :=
  ⟨wLive, 0, 0, none, by decide +kernel⟩
theorem witness_PinsEventsAndTransfersReachEngines_23 : ∃ (b : Block) (i : Nat), (b.alive .agate = true) ∧ (b.dispatched
    ctrlRing i 0x0C = none) :=
  ⟨wLive, 0, by decide +kernel⟩
theorem witness_PinsEventsAndTransfersReachEngines_24 : ∃ (b : Block) (i : Nat) (d : List Byte), (b.alive .agate = true) ∧
    (b.dispatched ctrlRing i 0x0C = some d) ∧ (leAt d 34 2 = 0) :=
  ⟨wDesc (wBytes [(0, 1, 12)]), 0, wBytes [(0, 1, 12)], by decide +kernel⟩
theorem witness_ThermalStatesFollowReadings_0 : ∃ (b : Block) (l : List Int), (b.topaz.berylOut = true) ∧ (l.length = 56) :=
  ⟨wLive, .replicate 56 250, by decide +kernel⟩
theorem witness_ThermalStatesFollowReadings_1 : ∃ (b : Block) (ra rb : Int), (b.topaz.berylOut = true) :=
  ⟨wLive, 250, 250, by decide +kernel⟩
theorem witness_ThermalStatesFollowReadings_2 : ∃ (b : Block) (ra rb : Int), (b.topaz.berylOut = true) ∧ (firmware b =
    true) :=
  ⟨wLive, 250, 250, by decide +kernel⟩
theorem witness_ThermalStatesFollowReadings_3 : ∃ (b : Block) (ra rb : Int), (b.topaz.berylOut = true) ∧ (firmware b =
    true) ∧ (remoteOn b 0 = true) ∧ (-400 ≤ ra) ∧ (ra ≤ 1500) ∧ (vget b.beryl.thm.fault 0 false = false) :=
  ⟨{ wLive with regs := [(0x9010, 1)] }, 250, 250, by decide +kernel⟩
theorem witness_ThermalStatesFollowReadings_4 : ∃ (b : Block) (ra rb : Int), (b.topaz.berylOut = true) ∧ (firmware b =
    true) ∧ (remoteOn b 0 = true) ∧ ((ra < -400 ∨ 1500 < ra)) ∧ (vget b.beryl.thm.fault 0 false = false) ∧ (vget
    b.beryl.thm.badRun 0 0 = 2) :=
  ⟨(modThm (fun t => { t with badRun := #v[2, 0] }) { wLive with regs := [(0x9010, 1)] }), 1600, 250, by decide +kernel⟩
theorem witness_ThermalStatesFollowReadings_5 : ∃ (b : Block) (ra rb : Int), (b.topaz.berylOut = true) ∧
    (b.beryl.thm.signalled = false) ∧ (vget b.beryl.thm.begun 0 false = true) ∧ (vget b.beryl.thm.hold 0 false = false) ∧
    (thermalLevel b 0 2 ≤ maxSample b.beryl.thm 0 48) :=
  ⟨(modThm (fun t => { t with samples := .replicate 56 1200, begun := .replicate 4 true }) wLive), 250, 250, by
      decide +kernel⟩
theorem witness_ThermalStatesFollowReadings_6 : ∃ (b : Block) (frame : Nat) (l : List (Nat × Nat)), (firmware b = true) ∧
    (b.ch.garnetBeryl = (frame, b.beryl.thm.t) :: l) ∧ (b.beryl.thm.askClock = true) ∧ (b.beryl.thm.count < 63) :=
  ⟨{ modThm (fun t => { t with t := 1, askClock := true }) wLive with ch := { coldChannels with garnetBeryl := [(5, 1)] } }, 5, [], by decide +kernel⟩
theorem witness_ThermalStatesFollowReadings_7 : ∃ (b : Block) (frame k : Nat) (l : List (Nat × Nat)), (firmware b = true) ∧
    (b.ch.garnetBeryl = (frame, k) :: l) ∧ (b.beryl.thm.askClock = false) ∧ (b.beryl.thm.device < 2) ∧ (0 < b.beryl.thm.t)
    ∧ (b.beryl.thm.count < 63) :=
  ⟨{ modThm (fun t => { t with t := 1 }) wLive with ch := { coldChannels with garnetBeryl := [(5, 1)] } }, 5, 1, [], by
      decide +kernel⟩
theorem witness_ThermalStatesFollowReadings_8 : ∃ (b : Block) (frame k : Nat) (l : List (Nat × Nat)), (firmware b = true) ∧
    (b.ch.garnetBeryl = (frame, k) :: l) ∧ (b.beryl.thm.askClock = false) ∧ (b.beryl.thm.device < 2) ∧ (0 < b.beryl.thm.t)
    ∧ (63 ≤ b.beryl.thm.count) :=
  ⟨{ modThm (fun t => { t with t := 1, count := 63 }) wLive with ch := { coldChannels with garnetBeryl := [(5, 1)] } }, 5,
      1, [], by decide +kernel⟩
theorem witness_ThermalStatesFollowReadings_9 : ∃ (b : Block) (frame : Nat) (p : FrameProgram) (l : List (Nat × Nat)),
    (firmware b = true) ∧ (b.ch.garnetBeryl = (frame, b.beryl.thm.t) :: l) ∧ (b.beryl.thm.askClock = false) ∧ (2 ≤
    b.beryl.thm.device) ∧ (b.garnet.applied = some p) ∧ (p.nMin < p.n / 2 ^ b.beryl.thm.t) ∧ (63 ≤ b.beryl.thm.count) ∧
    (b.beryl.thm.t < 12) :=
  ⟨{ modThm (fun t => { t with t := 1, count := 63, device := 2 }) wLive with garnet := { coldGarnet with applied := some { wProgram with n := 8, nMin := 2 } }, ch := { coldChannels with garnetBeryl := [(5, 1)] } }, 5, { wProgram with n := 8, nMin := 2 }, [], by decide +kernel⟩
theorem witness_FusesAreLoadedReadAndProgrammed_0 : ∃ (b : Block) (w : Word), (berylRegs b = true) ∧ (mapWf regReset b.regs
    = true) :=
  ⟨wLive, 0x2310, by decide +kernel⟩
theorem witness_FusesAreLoadedReadAndProgrammed_1 : ∃ (b : Block) (mv : Nat), (b.topaz.pwrPin = true) ∧ (b.beryl.otc.loaded
    = true) :=
  ⟨wLive, 1800, by decide +kernel⟩
theorem witness_FusesAreLoadedReadAndProgrammed_2 : ∃ (b : Block) (w : Word) (mv : Nat) (more : List Nat), (berylRegs b =
    true) ∧ (w.getLsbD 0 = true) ∧ (bitsOf w.toNat 15 8 = 0xA5) ∧ ((mv < 1710 ∨ 1890 < mv)) :=
  ⟨wLive, 0xA501, 1700, [], by decide +kernel⟩
theorem witness_FusesAreLoadedReadAndProgrammed_3 : ∃ (b : Block) (w : Word) (mv : Nat) (more : List Nat), (berylRegs b =
    true) ∧ (w.getLsbD 0 = true) ∧ (bitsOf w.toNat 15 8 = 0xA5) ∧ (1710 ≤ mv) ∧ (mv ≤ 1890) ∧ (¬ (∀ x ∈ (runData b).zipIdx,
    mayProgram b.beryl.otc (b.field 0x9120 10 0 + x.2) x.1 = true)) :=
  ⟨wLive, 0xA501, 1800, [], by decide +kernel⟩
theorem witness_FusesAreLoadedReadAndProgrammed_4 : ∃ (b : Block) (w : Word) (mv : Nat) (more : List Nat), (berylRegs b =
    true) ∧ (w.getLsbD 0 = true) ∧ (bitsOf w.toNat 15 8 = 0xA5) ∧ (1710 ≤ mv) ∧ (mv ≤ 1890) ∧ ((∀ x ∈ (runData b).zipIdx,
    mayProgram b.beryl.otc (b.field 0x9120 10 0 + x.2) x.1 = true)) ∧ (otcBusy b.beryl.otc = true) :=
  ⟨{ modOtc (fun o => { o with burn := some ⟨0, 0, 1, false⟩ }) wLive with regs := [(0x9120, 1024)] }, 0xA501, 1800, [], by
      decide +kernel⟩
theorem witness_FusesAreLoadedReadAndProgrammed_5 : ∃ (b : Block) (w : Word) (mv : Nat) (more : List Nat), (berylRegs b =
    true) ∧ (w.getLsbD 0 = true) ∧ (bitsOf w.toNat 15 8 = 0xA5) ∧ (1710 ≤ mv) ∧ (mv ≤ 1890) ∧ ((∀ x ∈ (runData b).zipIdx,
    mayProgram b.beryl.otc (b.field 0x9120 10 0 + x.2) x.1 = true)) ∧ (otcBusy b.beryl.otc = false) ∧ ((∀ x ∈ more.head?,
    1710 ≤ x ∧ x ≤ 1890)) ∧ (b.beryl.otc.pulse = none) ∧ (b.ch.telBurn = []) ∧ ((b.beryl.otc.word (b.field 0x9120 10 0) |||
    (runData b).getD 0 0) &&& ~~~(b.beryl.otc.firm (b.field 0x9120 10 0)) ≠ 0) :=
  ⟨{ wLive with regs := [(0x9120, 1024), (0x9128, 5)] }, 0xA501, 1800, [], by decide +kernel⟩
theorem witness_FusesAreLoadedReadAndProgrammed_6 : ∃ (b : Block) (w : Word) (mv : Nat) (more : List Nat), ((w.getLsbD 0 =
    false ∨ bitsOf w.toNat 15 8 ≠ 0xA5)) :=
  ⟨wLive, 0x5A01, 1800, [], by decide +kernel⟩
theorem witness_FusesAreLoadedReadAndProgrammed_7 : ∃ (b : Block) (fired firm soft bits : Half) (mv a : Nat) (more : List
    Nat), (mapWf (fun _ => (0 : Half)) b.beryl.otc.fuses = true) ∧ (mapWf (fun _ => (0 : Half)) b.beryl.otc.weak = true) ∧
    (b.beryl.otc.pulse = some (a, bits)) :=
  ⟨modOtc (fun o => { o with pulse := some (1024, 1) }) wLive, 1, 1, 0, 1, 1800, 1024, [], by decide +kernel⟩
theorem witness_FusesAreLoadedReadAndProgrammed_8 : ∃ (b : Block) (mv a : Nat) (bits want : Half) (r : OtpRun) (more : List
    Nat), (mapWf (fun _ => (0 : Half)) b.beryl.otc.fuses = true) ∧ (mapWf (fun _ => (0 : Half)) b.beryl.otc.weak = true) ∧
    (mapWf (fun _ => (0 : Half)) b.beryl.otc.soft = true) ∧ (b.beryl.otc.pulse = some (a, bits)) ∧ (b.beryl.otc.burn =
    none) ∧ (b.beryl.otc.run = some r) ∧ (r.addr + r.done = a) ∧ (r.want = some want) ∧ (0 < r.pulses) ∧ (r.data.length =
    r.done + 1) ∧ (b.beryl.otc.word a ||| bits = want) ∧ (mapGet 0 b.beryl.otc.weak a = 0) ∧ (mapGet 0 b.beryl.otc.soft a =
    0) :=
  ⟨modOtc (fun o => { o with pulse := some (1024, 1), run := some ⟨1024, [1], 0, 1, some 1⟩ }) wLive, 1800, 1024, 1, 1,
      ⟨1024, [1], 0, 1, some 1⟩, [], by decide +kernel⟩
theorem witness_FusesAreLoadedReadAndProgrammed_9 : ∃ (b : Block) (fired firm soft bits want : Half) (mv a : Nat) (r :
    OtpRun) (more : List Nat), (mapWf (fun _ => (0 : Half)) b.beryl.otc.fuses = true) ∧ (mapWf (fun _ => (0 : Half))
    b.beryl.otc.weak = true) ∧ (b.beryl.otc.pulse = some (a, bits)) ∧ (b.beryl.otc.burn = none) ∧ (b.beryl.otc.run = some
    r) ∧ (r.addr + r.done = a) ∧ (r.want = some want) ∧ (8 ≤ r.pulses) ∧ (b.beryl.otc.word a ||| (bits &&& fired) ≠ want) :=
  ⟨modOtc (fun o => { o with pulse := some (1024, 1), run := some ⟨1024, [1], 0, 8, some 1⟩ }) wLive, 0, 0, 0, 1, 1, 1800,
      1024, ⟨1024, [1], 0, 8, some 1⟩, [], by decide +kernel⟩
theorem witness_FusesAreLoadedReadAndProgrammed_10 : ∃ (b : Block) (mv : Nat) (more : List Nat) (m : TelMsg) (l : List
    TelMsg), (b.ch.telBurn = m :: l) ∧ ((b.topaz.pwrPin = false ∨ b.beryl.otc.loaded = false)) :=
  ⟨{ coldBlock with ch := { coldChannels with telBurn := [⟨1, false, false⟩] } }, 1800, [], ⟨1, false, false⟩, [], by
      decide +kernel⟩
theorem witness_FusesAreLoadedReadAndProgrammed_11 : ∃ (b : Block) (mv : Nat) (more : List Nat) (m : TelMsg) (l : List
    TelMsg), (b.ch.telBurn = m :: l) ∧ (b.topaz.pwrPin = true) ∧ (b.beryl.otc.loaded = true) ∧ (b.beryl.otc.burn = none) ∧
    (b.beryl.otc.pulse = none) ∧ (b.beryl.otc.run = none) ∧ (telSlot b.beryl.otc = none) :=
  ⟨{ modOtc (fun o => { o with fuses := (List.range 128).map (fun i => (896 + i, 1)) }) wLive with ch := { coldChannels with telBurn := [⟨1, false, false⟩] } }, 1800, [], ⟨1, false, false⟩, [], by decide +kernel⟩
theorem witness_FusesAreLoadedReadAndProgrammed_12 : ∃ (b : Block) (mv s : Nat) (more : List Nat) (m : TelMsg) (l : List
    TelMsg), (b.ch.telBurn = m :: l) ∧ (b.topaz.pwrPin = true) ∧ (b.beryl.otc.loaded = true) ∧ (b.beryl.otc.burn = none) ∧
    (b.beryl.otc.pulse = none) ∧ (telSlot b.beryl.otc = some s) ∧ (1710 ≤ mv) ∧ (mv ≤ 1890) :=
  ⟨{ wLive with ch := { coldChannels with telBurn := [⟨1, false, false⟩] } }, 1800, 0, [], ⟨1, false, false⟩, [], by
      decide +kernel⟩
theorem witness_FusesAreLoadedReadAndProgrammed_13 : ∃ (b : Block), (b.topaz.pwrPin = true) ∧ (b.beryl.otc.loaded = false)
    ∧ (b.topaz.faultCode = 0) :=
  ⟨{ modOtc (fun o => { o with loaded := false }) wLive with topaz := { wLive.topaz with berylOut := false, stage := 0 } },
      by decide +kernel⟩
theorem witness_FusesAreLoadedReadAndProgrammed_14 : ∃ (b : Block), (b.topaz.pwrPin = true) ∧ (b.beryl.otc.loaded = false)
    ∧ (b.topaz.faultCode = 0) ∧ (b.beryl.otc.word 0 ≠ 0xC3A5) :=
  ⟨{ modOtc (fun o => { o with loaded := false, fuses := [] }) wLive with topaz := { wLive.topaz with berylOut := false, stage := 0 } }, by decide +kernel⟩
theorem witness_FusesAreLoadedReadAndProgrammed_15 : ∃ (b : Block), (b.topaz.pwrPin = true) ∧ (b.beryl.otc.loaded = false)
    ∧ (b.topaz.faultCode = 0) ∧ (b.beryl.otc.word 0 = 0xC3A5) ∧ (fuseCrcOk b.beryl.otc 0 766 766 = false) :=
  ⟨{ modOtc (fun o => { o with loaded := false, fuses := [(0, 0xC3A5)] }) wLive with topaz := { wLive.topaz with berylOut := false, stage := 0 } }, by decide +kernel⟩
theorem witness_FusesAreLoadedReadAndProgrammed_16 : ∃ (b : Block), (b.topaz.pwrPin = true) ∧ (b.beryl.otc.loaded = false)
    ∧ (b.topaz.faultCode = 0) ∧ (b.beryl.otc.word 0 = 0xC3A5) ∧ (fuseCrcOk b.beryl.otc 0 766 766 = true) :=
  ⟨{ modOtc (fun o => { o with loaded := false }) wLive with topaz := { wLive.topaz with berylOut := false, stage := 0 } },
      by decide +kernel⟩
theorem witness_FusesAreLoadedReadAndProgrammed_17 : ∃ (b : Block) (ref : Bool), ((b.topaz.pwrPin = false ∨
    b.beryl.otc.loaded = true ∨ b.topaz.faultCode ≠ 0)) :=
  ⟨wLive, true, by decide +kernel⟩
theorem witness_TheRecorderKeepsATrace_0 : ∃ (b : Block) (e : TraceEntry) (l : List TraceEntry), (b.topaz.berylOut = true)
    ∧ (b.beryl.evr.mode = 1) ∧ (b.ch.evr = e :: l) ∧ (e.type ≠ 0x24) ∧ (b.beryl.evr.block.length + (1 + e.cont.length) ≤
    126) :=
  ⟨{ modEvr (fun y => { y with mode := 1 }) wLive with ch := { coldChannels with evr := [⟨7, 1, 2, [3], []⟩] } }, ⟨7, 1, 2,
      [3], []⟩, [], by decide +kernel⟩
theorem witness_TheRecorderKeepsATrace_1 : ∃ (b : Block) (e : TraceEntry) (l : List TraceEntry), (b.topaz.berylOut = true)
    ∧ (b.beryl.evr.mode = 1) ∧ (b.ch.evr = e :: l) ∧ (e.type ≠ 0x24) ∧ (126 < b.beryl.evr.block.length + (1 +
    e.cont.length)) :=
  ⟨{ modEvr (fun y => { y with mode := 1, block := .replicate 126 [] }) wLive with ch := { coldChannels with evr := [⟨7, 1, 2, [3], []⟩] } }, ⟨7, 1, 2, [3], []⟩, [], by decide +kernel⟩
theorem witness_TheRecorderKeepsATrace_2 : ∃ (b : Block), (b.topaz.berylOut = true) ∧ (b.beryl.evr.block.length = 126) :=
  ⟨{ modEvr (fun y => { y with mode := 1, block := .replicate 126 [] }) wLive with ch := { coldChannels with evr := [] } },
      by decide +kernel⟩
theorem witness_TheRecorderKeepsATrace_3 : ∃ (b : Block), (b.topaz.berylOut = true) ∧ (b.beryl.evr.block.length = 126) :=
  ⟨{ modEvr (fun y => { y with mode := 1, block := .replicate 126 [] }) wLive with ch := { coldChannels with evr := [] } },
      by decide +kernel⟩
theorem witness_TheRecorderKeepsATrace_4 : ∃ (b : Block) (w : Word), (evrRegs b = true) ∧ (mapWf regReset b.regs = true) ∧
    (w.toNat % 4 = 1) ∧ (b.beryl.evr.mode = 0) :=
  ⟨wLive, 1, by decide +kernel⟩
theorem witness_TheRecorderKeepsATrace_5 : ∃ (b : Block) (w : Word), (evrRegs b = true) ∧ (mapWf regReset b.regs = true) ∧
    ((w.toNat % 4 = 0 ∨ w.toNat % 4 = 3)) ∧ (b.beryl.evr.mode = 1) :=
  ⟨{ modEvr (fun y => { y with mode := 1 }) wLive with ch := { coldChannels with evr := [⟨7, 1, 2, [3], []⟩] } }, 0, by
      decide +kernel⟩
theorem witness_TheRecorderKeepsATrace_6 : ∃ (b : Block) (w : Word), (evrRegs b = true) ∧ (w.toNat % 4 = 2) ∧
    (b.beryl.evr.mode = 0) ∧ (b.beryl.otc.replayOk = true) ∧ (b.quartz.capState = 0) ∧ (b.garnet.applied = none) :=
  ⟨wLive, 2, by decide +kernel⟩
theorem witness_TheRecorderKeepsATrace_7 : ∃ (b : Block) (w : Word), (evrRegs b = true) ∧ (w.toNat % 4 = 2) ∧
    (b.beryl.evr.mode ≠ 2) ∧ ((b.beryl.otc.replayOk = false ∨ b.quartz.capState ≠ 0 ∨ b.garnet.applied ≠ none)) :=
  ⟨{ wLive with quartz := { wLive.quartz with capState := 2 } }, 2, by decide +kernel⟩
theorem witness_TheRecorderKeepsATrace_8 : ∃ (b : Block) (w : Word), (evrRegs b = true) ∧ (w.toNat % 4 = 1) ∧
    (b.beryl.evr.mode = 2) :=
  ⟨modEvr (fun y => { y with mode := 2 }) wLive, 1, by decide +kernel⟩
theorem witness_TheRecorderKeepsATrace_9 : ∃ (b : Block) (w : Word), (evrRegs b = true) ∧ (w.toNat % 4 = 2) ∧
    (b.beryl.evr.mode = 2) :=
  ⟨modEvr (fun y => { y with mode := 2 }) wLive, 2, by decide +kernel⟩
theorem witness_TheRecorderKeepsATrace_10 : ∃ (b : Block) (w : Word), (evrRegs b = true) ∧ (w.toNat % 4 = 0) ∧
    (b.beryl.evr.mode = 2) :=
  ⟨modEvr (fun y => { y with mode := 2 }) wLive, 0, by decide +kernel⟩
theorem witness_TheRecorderKeepsATrace_11 : ∃ (b : Block) (w : Word), (evrRegs b = true) ∧ (w.toNat % 4 = 3) ∧
    (b.beryl.evr.mode = 2) :=
  ⟨modEvr (fun y => { y with mode := 2 }) wLive, 3, by decide +kernel⟩
theorem witness_ReplayFollowsTheTrace_0 : ∃ (b : Block) (l : List Byte), (b.beryl.evr.mode = 2) ∧ (b.beryl.evr.state =
    .replaying) ∧ (b.topaz.berylOut = true) ∧ (b.hostUp = true) ∧ (b.beryl.evr.feed = []) ∧ (checkSlot b.beryl.evr.blockSeq
    l = .wait) :=
  ⟨{ modEvr (fun y => { y with mode := 2, state := .replaying }) wLive with topaz := wLive.topaz }, [], by decide +kernel⟩
theorem witness_ReplayFollowsTheTrace_1 : ∃ (b : Block) (l : List Byte), (b.beryl.evr.mode = 2) ∧ (b.beryl.evr.state =
    .replaying) ∧ (b.topaz.berylOut = true) ∧ (b.hostUp = true) ∧ (checkSlot b.beryl.evr.blockSeq l = .missing) :=
  ⟨{ modEvr (fun y => { y with mode := 2, state := .replaying }) wLive with topaz := wLive.topaz }, wTraceSlot 1 0, rfl,
      rfl, rfl, rfl, wMissing⟩
theorem witness_ReplayFollowsTheTrace_2 : ∃ (b : Block) (l : List Byte), (b.beryl.evr.mode = 2) ∧ (b.beryl.evr.state =
    .replaying) ∧ (b.topaz.berylOut = true) ∧ (b.hostUp = true) ∧ (checkSlot b.beryl.evr.blockSeq l = .ready) ∧ (leAt l 16
    8 ≠ (b.beryl.evr.seq + feedLength b.beryl.evr.feed)) :=
  ⟨{ modEvr (fun y => { y with mode := 2, state := .replaying }) wLive with topaz := wLive.topaz }, wTraceSlot 0 9, rfl,
      rfl, rfl, rfl, wReady09, wFirst9⟩
theorem witness_ReplayFollowsTheTrace_3 : ∃ (b : Block) (l : List Byte) (es : List TraceEntry), (b.beryl.evr.mode = 2) ∧
    (b.beryl.evr.state = .replaying) ∧ (b.topaz.berylOut = true) ∧ (b.hostUp = true) ∧ (checkSlot b.beryl.evr.blockSeq l =
    .ready) ∧ (leAt l 16 8 = (b.beryl.evr.seq + feedLength b.beryl.evr.feed)) ∧ (parseEntries (leAt l 6 1) (b.beryl.evr.seq
    + feedLength b.beryl.evr.feed) ((l.drop 64).take (32 * leAt l 6 1)) = some es) :=
  ⟨{ modEvr (fun y => { y with mode := 2, state := .replaying }) wLive with topaz := wLive.topaz }, wTraceSlot 0 0, [],
      rfl, rfl, rfl, rfl, wReady00, wFirst0, wEntries⟩
theorem witness_ReplayFollowsTheTrace_4 : ∃ (b : Block) (e x : TraceEntry), (b.beryl.evr.mode = 2) ∧ (b.beryl.evr.state =
    .replaying) ∧ (b.topaz.berylOut = true) ∧ (b.hostUp = true) ∧ (b.beryl.evr.feed = [e]) ∧ (checkedEntry e.type = true) ∧
    (factOf e b = some x) ∧ ((x.payload ++ leBytes 16 0).take 16 = e.payload) ∧ (x.cont.map (fun c => (c ++ leBytes 32
    0).take 32) = e.cont) :=
  ⟨{ modEvr (fun y => { y with mode := 2, state := .replaying, feed := [⟨0, 6, 4, (List.replicate 16 0), []⟩] }) wLive with topaz := wLive.topaz, ch := { coldChannels with evr := [⟨5, 6, 4, [], []⟩] } }, ⟨0, 6, 4, (List.replicate 16 0), []⟩, ⟨5, 6, 4, [], []⟩, by decide +kernel⟩
theorem witness_ReplayFollowsTheTrace_5 : ∃ (b : Block) (e x : TraceEntry) (l : List TraceEntry), (b.beryl.evr.mode = 2) ∧
    (b.beryl.evr.state = .replaying) ∧ (b.topaz.berylOut = true) ∧ (b.hostUp = true) ∧ (b.beryl.evr.feed = e :: l) ∧
    (checkedEntry e.type = true) ∧ (factOf e b = some x) ∧ (((x.payload ++ leBytes 16 0).take 16 ≠ e.payload ∨ x.cont.map
    (fun c => (c ++ leBytes 32 0).take 32) ≠ e.cont)) :=
  ⟨{ modEvr (fun y => { y with mode := 2, state := .replaying, feed := [⟨0, 6, 4, (List.replicate 16 0), []⟩] }) wLive with topaz := wLive.topaz, ch := { coldChannels with evr := [⟨5, 6, 4, [1], []⟩] } }, ⟨0, 6, 4, (List.replicate 16 0), []⟩, ⟨5, 6, 4, [1], []⟩, [], by decide +kernel⟩
theorem witness_ReplayFollowsTheTrace_6 : ∃ (b : Block) (e : TraceEntry) (l : List TraceEntry), (b.beryl.evr.mode = 2) ∧
    (b.beryl.evr.state = .replaying) ∧ (b.topaz.berylOut = true) ∧ (b.hostUp = true) ∧ (b.beryl.evr.feed = e :: l) ∧
    (e.type = 0x21) :=
  ⟨{ modEvr (fun y => { y with mode := 2, state := .replaying, feed := [⟨0, 33, 4, (List.replicate 16 0), []⟩] }) wLive with topaz := wLive.topaz }, ⟨0, 33, 4, (List.replicate 16 0), []⟩, [], by decide +kernel⟩
theorem witness_ReplayFollowsTheTrace_7 : ∃ (b : Block) (e : TraceEntry), (b.beryl.evr.mode = 2) ∧ (b.beryl.evr.state =
    .replaying) ∧ (b.topaz.berylOut = true) ∧ (b.hostUp = true) ∧ (b.beryl.evr.feed = [e]) ∧ (e.type = 0x24) :=
  ⟨{ modEvr (fun y => { y with mode := 2, state := .replaying, feed := [⟨0, 36, 4, (List.replicate 16 0), []⟩] }) wLive with topaz := wLive.topaz }, ⟨0, 36, 4, (List.replicate 16 0), []⟩, by decide +kernel⟩
theorem witness_ReplayFollowsTheTrace_8 : ∃ (b : Block) (e : TraceEntry), (b.beryl.evr.mode = 2) ∧ (b.beryl.evr.state =
    .replaying) ∧ (b.topaz.berylOut = true) ∧ (b.hostUp = true) ∧ (b.beryl.evr.feed = [e]) ∧ (e.type = 0x03) ∧ (leAt
    e.payload 1 1 = 1) :=
  ⟨{ modEvr (fun y => { y with mode := 2, state := .replaying, feed := [⟨0, 3, 4, (leBytes 16 256), []⟩] }) wLive with topaz := wLive.topaz }, ⟨0, 3, 4, (leBytes 16 256), []⟩, by decide +kernel⟩
theorem witness_ReplayFollowsTheTrace_9 : ∃ (b : Block) (h d : List Byte), (b.beryl.evr.mode = 2) ∧ (b.beryl.evr.state =
    .replaying) ∧ (b.topaz.berylOut = true) ∧ (b.hostUp = true) ∧ (b.beryl.evr.feed = []) ∧ ((h.length ≠ 64 ∨ leAt h 0 4 ≠
    0x50415443 ∨ leAt h 60 4 ≠ (crc32c (h.take 60)).toNat)) :=
  ⟨{ modEvr (fun y => { y with mode := 2, state := .replaying }) wLive with topaz := wLive.topaz }, [], [], by
      decide +kernel⟩
theorem witness_ReplayFollowsTheTrace_10 : ∃ (b : Block) (h d : List Byte), (b.beryl.evr.mode = 2) ∧ (b.beryl.evr.state =
    .replaying) ∧ (b.topaz.berylOut = true) ∧ (b.hostUp = true) ∧ (b.beryl.evr.feed = []) ∧ (h.length = 64) ∧ (leAt h 0 4 =
    0x50415443) ∧ (leAt h 60 4 = (crc32c (h.take 60)).toNat) ∧ (leAt h 4 4 ≠ 0) ∧ (leAt h 8 8 = b.beryl.evr.feedSeq) ∧
    (headerOf b (leAt h 16 8) = none) ∧ (nextStart b ≤ leAt h 16 8) :=
  ⟨{ modEvr (fun y => { y with mode := 2, state := .replaying }) wLive with topaz := wLive.topaz }, tapHeader 4 0 wTok,
      leBytes 4 0, by decide +kernel⟩
theorem witness_ReplayFollowsTheTrace_11 : ∃ (b : Block) (h d : List Byte), (b.beryl.evr.mode = 2) ∧ (b.beryl.evr.state =
    .replaying) ∧ (b.topaz.berylOut = true) ∧ (b.hostUp = true) ∧ (b.beryl.evr.feed = []) ∧ (h.length = 64) ∧ (leAt h 0 4 =
    0x50415443) ∧ (leAt h 60 4 = (crc32c (h.take 60)).toNat) ∧ (leAt h 4 4 ≠ 0) ∧ (b.beryl.evr.feedSeq < leAt h 8 8) :=
  ⟨{ modEvr (fun y => { y with mode := 2, state := .replaying }) wLive with topaz := wLive.topaz }, tapHeader 4 2 wTok,
      leBytes 4 0, by decide +kernel⟩
theorem witness_ReplayFollowsTheTrace_12 : ∃ (b : Block) (h d : List Byte) (s : Snapshot) (a : Nat), (b.beryl.evr.mode = 2)
    ∧ (b.beryl.evr.state = .replaying) ∧ (b.topaz.berylOut = true) ∧ (b.hostUp = true) ∧ (b.beryl.evr.feed = []) ∧
    (h.length = 64) ∧ (leAt h 0 4 = 0x50415443) ∧ (leAt h 60 4 = (crc32c (h.take 60)).toNat) ∧ (leAt h 4 4 ≠ 0) ∧ (leAt h 8
    8 = b.beryl.evr.feedSeq) ∧ (headerOf b (leAt h 16 8) = some s) ∧ ((crc32c d).toNat = leAt h 32 4) ∧ (d.length = leAt h
    4 4) ∧ (injectRoom b d.length = some a) :=
  ⟨{ modEvr (fun y => { y with mode := 2, state := .replaying }) wLive with topaz := wLive.topaz, ch := { coldChannels with garnetJade := [.header wSnap] } }, tapHeader 4 0 wTok, leBytes 4 0, wSnap, drainBase, by decide +kernel⟩
theorem witness_RegistersAreWrittenAndLocked_0 : ∃ (b : Block) (off : Nat) (w : Word) (r : RegRow), (b.bar0 = true) ∧
    (mapWf regReset b.regs = true) ∧ (regRow off = some r) ∧ (ownRow off = false) ∧ (takesWrite b off = true) ∧ (off ≠
    0x0010) ∧ (b.committed r.island = false) :=
  ⟨wLive, 0x1100, 5, (regRow 0x1100).getD ⟨0, 0, 0, 0, 0, 0, .quartz⟩, by decide +kernel⟩
theorem witness_RegistersAreWrittenAndLocked_1 : ∃ (b : Block) (off : Nat) (w : Word) (r : RegRow), (b.bar0 = true) ∧
    (mapWf regReset b.regs = true) ∧ (regRow off = some r) ∧ (ownRow off = false) ∧ (takesWrite b off = true) ∧ (off ≠
    0x0010) ∧ (b.committed r.island = true) :=
  ⟨wCommitted, 0x1100, 5, (regRow 0x1100).getD ⟨0, 0, 0, 0, 0, 0, .quartz⟩, by decide +kernel⟩
theorem witness_RegistersAreWrittenAndLocked_2 : ∃ (b : Block) (w : Word), (b.bar0 = true) ∧ (mapWf regReset b.regs = true)
    :=
  ⟨wCommitted, 0x1FC, by decide +kernel⟩
theorem witness_RegistersAreWrittenAndLocked_3 : ∃ (b : Block) (w : Word), (b.bar0 = true) :=
  ⟨wCommitted, 0x1FC, by decide +kernel⟩
theorem witness_RegistersAreWrittenAndLocked_4 : ∃ (b : Block) (off : Nat) (w : Word) (be : BitVec 4), ((b.bar0 = false ∨
    be ≠ 0xF ∨ regRow off = none)) :=
  ⟨wLive, 0x1100, 5, 3, by decide +kernel⟩
theorem witness_RegistersAreWrittenAndLocked_5 : ∃ (b : Block) (w : Word), (b.bar0 = true) :=
  ⟨wLive, 0x7F, by decide +kernel⟩
theorem witness_RegistersAreWrittenAndLocked_6 : ∃ (b : Block) (w : Word), (b.bar0 = true) ∧ (bitsOf w.toNat 15 8 = 0xA5) :=
  ⟨wCommitted, 0xA57F, by decide +kernel⟩
theorem witness_RegistersAreWrittenAndLocked_7 : ∃ (b : Block) (w : Word), (b.bar0 = true) ∧ (bitsOf w.toNat 15 8 ≠ 0xA5) :=
  ⟨wCommitted, 0x7F, by decide +kernel⟩
theorem witness_IslandsFreezeRecoverAndFailStop_0 : ∃ (b : Block) (i : Island), (i ∈ [Island.garnet, .jade, .spinel, .opal,
    .onyx, .agate]) ∧ (b.alive i = true) ∧ (recentFaults b i < 3) ∧ (b.topaz.absent = false) :=
  ⟨wLive, .jade, by decide +kernel⟩
theorem witness_IslandsFreezeRecoverAndFailStop_1 : ∃ (b : Block) (i : Island) (since : Nat), (i ∈ [Island.garnet, .jade,
    .spinel, .opal, .onyx, .agate]) ∧ (b.alive i = true) ∧ (recentFaults (b.advance (since + ownTicks b i since (1024000 *
    stallMs b))) i < 3) ∧ (b.topaz.absent = false) ∧ (holdsWork b i = true) ∧ (heldBack b i = false) ∧ (since ≤
    b.quartz.tb) :=
  ⟨{ wLive with jade := { coldJade with frames := [wJFrame] } }, .jade, 0, by decide +kernel⟩
theorem witness_IslandsFreezeRecoverAndFailStop_2 : ∃ (b : Block), (b.alive .beryl = true) :=
  ⟨wLive, by decide +kernel⟩
theorem witness_IslandsFreezeRecoverAndFailStop_3 : ∃ (b : Block) (i : Island), (i ∈ [Island.garnet, .jade, .spinel, .opal,
    .onyx, .agate]) ∧ (b.alive i = true) ∧ (3 ≤ recentFaults b i) :=
  ⟨(wLive.modIsl .jade (fun s => { s with faultTimes := [2000, 2001, 2002] })), .jade, by decide, by decide, wFaults _ rfl
      rfl⟩
theorem witness_IslandsFreezeRecoverAndFailStop_4 : ∃ (b : Block) (i : Island), ((i = .quartz ∨ i = .topaz)) ∧ (b.alive i =
    true) ∧ (b.topaz.fatal = false) :=
  ⟨wLive, .quartz, by decide +kernel⟩
theorem witness_IslandsFreezeRecoverAndFailStop_5 : ∃ (b : Block) (i : Island), (firmware b = true) ∧ (i ∈ [Island.garnet,
    .jade, .spinel, .opal, .onyx, .agate]) ∧ ((b.isl i).frozen ≠ none) ∧ ((b.isl i).dead = false) :=
  ⟨(wLive.modIsl .jade (fun s => { s with frozen := some (.parity, 5) })), .jade, by decide +kernel⟩
theorem witness_IslandsFreezeRecoverAndFailStop_6 : ∃ (b : Block) (i : Island), (firmware b = true) ∧ (i ∈ [Island.garnet,
    .jade, .spinel, .opal, .onyx, .agate]) ∧ ((b.isl i).frozen ≠ none) ∧ ((b.isl i).dead = false) :=
  ⟨(wCommitted.modIsl .jade (fun s => { s with frozen := some (.parity, 5) })), .jade, by decide +kernel⟩
theorem witness_IslandsFreezeRecoverAndFailStop_7 : ∃ (b : Block) (i : Island) (c : Bool), (firmware b = true) ∧ (i ∈
    [Island.garnet, .jade, .spinel, .opal, .onyx, .agate]) ∧ ((b.isl i).frozen ≠ none) ∧ ((b.isl i).dead = false) ∧ ((b.isl
    i).failStop = false) :=
  ⟨(wLive.modIsl .jade (fun s => { s with frozen := some (.parity, 5) })), .jade, true, by decide +kernel⟩
theorem witness_IslandsFreezeRecoverAndFailStop_8 : ∃ (b : Block) (i : Island) (ok c : Bool), (((b.isl i).frozen = none ∨
    (b.isl i).dead = true)) :=
  ⟨wLive, .jade, true, true, by decide +kernel⟩
theorem witness_IslandsFreezeRecoverAndFailStop_9 : ∃ (b : Block), (b.topaz.pwr.flush = true) ∧ (b.garnet.stopped = false)
    ∧ (TopazEvent.loss (flushMs b.topaz.pwr) ∉ b.ch.topazGarnet) :=
  ⟨{ wLive with topaz := { wLive.topaz with pwr := { wLive.topaz.pwr with flush := true } } }, by decide +kernel⟩
theorem witness_IslandsFreezeRecoverAndFailStop_10 : ∃ (b : Block), (b.topaz.pwr.flush = false) ∧ (b.topaz.shutSent = true)
    ∧ (b.garnet.stopped = false) ∧ (b.garnet.shutdown = false) ∧ (TopazEvent.shutdown ∉ b.ch.topazGarnet) :=
  ⟨{ wLive with topaz := { wLive.topaz with shutSent := true } }, by decide +kernel⟩
theorem witness_IslandsFreezeRecoverAndFailStop_11 : ∃ (b : Block), (b.topaz.pwr.flush = true) ∧ (b.onyx.flush = none) ∧
    (TopazEvent.loss (flushMs b.topaz.pwr) ∉ b.ch.topazOnyx) :=
  ⟨{ wLive with topaz := { wLive.topaz with pwr := { wLive.topaz.pwr with flush := true } } }, by decide +kernel⟩
theorem witness_IslandsFreezeRecoverAndFailStop_12 : ∃ (b : Block) (n : Nat), ((b.topaz.pwr.flush = true ∨ b.topaz.shutSent
    = true)) ∧ (b.takes .opal = true) ∧ (b.ch.topazOpal = []) ∧ (b.opal.flush = .none_) :=
  ⟨{ wLive with topaz := { wLive.topaz with pwr := { wLive.topaz.pwr with flush := true } } }, 0, by decide +kernel⟩
theorem witness_IslandsFreezeRecoverAndFailStop_13 : ∃ (b : Block) (lost : Nat), (firmware b = true) ∧ (gapSeen lost =
    true) :=
  ⟨wLive, 1, by decide +kernel⟩
theorem witness_IslandsFreezeRecoverAndFailStop_14 : ∃ (b : Block), (firmware b = true) :=
  ⟨wLive, by decide +kernel⟩
theorem witness_IslandsFreezeRecoverAndFailStop_15 : ∃ (b : Block), (b.topaz.pwr.on = true) ∧ (b.topaz.berylOut = true) ∧
    (b.topaz.berylDead = false) ∧ ((b.beryl.romBad = true ∨ (2 ≤ b.topaz.stage ∧ b.topaz.absent = false))) :=
  ⟨wLive, by decide +kernel⟩
theorem witness_IslandsFreezeRecoverAndFailStop_16 : ∃ (b : Block) (ok : Bool) (mv : Nat) (bad : List Island) (more : List
    Nat), (b.topaz.pwr.on = true) ∧ (b.topaz.absent = true) ∧ (b.topaz.patchLoading = false) ∧ (b.topaz.berylDead = false)
    ∧ (b.beryl.romBad = false) ∧ (b.topaz.dramReady = true) :=
  ⟨{ wLive with topaz := { wLive.topaz with absent := true } }, true, 1800, [], [], by decide +kernel⟩
theorem witness_IslandsFreezeRecoverAndFailStop_17 : ∃ (b : Block) (w : Word), (b.bar0 = true) ∧ (w.getLsbD 0 = true) ∧
    (bitsOf w.toNat 15 8 = 0xA5) ∧ (2 ≤ b.topaz.stage) ∧ (b.topaz.absent = false) ∧ (b.topaz.patchLoading = false) :=
  ⟨wLive, 0xA501, by decide +kernel⟩
theorem witness_IslandsFreezeRecoverAndFailStop_18 : ∃ (b : Block) (w : Word), (b.bar0 = true) ∧ (w.getLsbD 0 = true) ∧
    (bitsOf w.toNat 15 8 = 0xA5) ∧ ((b.topaz.stage < 2 ∨ b.topaz.absent = true ∨ b.topaz.patchLoading = true)) :=
  ⟨{ wLive with topaz := { wLive.topaz with stage := 1 } }, 0xA501, by decide +kernel⟩
theorem witness_IslandsFreezeRecoverAndFailStop_19 : ∃ (b : Block) (d : Option (List Byte)) (mv : Nat) (bad : List Island)
    (more : List Nat), (b.topaz.patchLoading = true) :=
  ⟨{ wLive with topaz := { wLive.topaz with patchLoading := true, absent := true } }, none, 1800, [], [], by decide +kernel⟩
theorem witness_RailsRiseFallAndReleaseReset_0 : ∃ (b : Block) (ohms : Nat) (temp : Int), (b.topaz.pwr.on = false) :=
  ⟨coldBlock, 10000, 250, by decide +kernel⟩
theorem witness_RailsRiseFallAndReleaseReset_1 : ∃ (b : Block), (b.topaz.pwr.upWait ≠ none) ∧ (b.topaz.psq = .off) ∧
    (b.topaz.pwr.mainOk = true) :=
  ⟨{ wLive with topaz := { wLive.topaz with pwr := { wLive.topaz.pwr with upWait := some 1 }, psq := .off, enables := .replicate 6 false } }, by decide +kernel⟩
theorem witness_RailsRiseFallAndReleaseReset_2 : ∃ (b : Block), (b.topaz.pwr.upWait ≠ none) ∧ (b.topaz.psq = .off) ∧
    (b.topaz.pwr.mainOk = false) :=
  ⟨{ wLive with topaz := { wLive.topaz with pwr := { wLive.topaz.pwr with upWait := some 1, mainOk := false }, psq := .off } }, by decide +kernel⟩
theorem witness_RailsRiseFallAndReleaseReset_3 : ∃ (b : Block) (k : Nat), (b.topaz.psq = .raising k) :=
  ⟨{ wLive with topaz := { wLive.topaz with psq := .raising 2 } }, 2, by decide +kernel⟩
theorem witness_RailsRiseFallAndReleaseReset_4 : ∃ (b : Block) (k : Nat), (b.topaz.psq = .risen k) ∧ (k < 5) :=
  ⟨{ wLive with topaz := { wLive.topaz with psq := .risen 2 } }, 2, by decide +kernel⟩
theorem witness_RailsRiseFallAndReleaseReset_5 : ∃ (b : Block), (b.topaz.psq = .risen 5) :=
  ⟨{ wLive with topaz := { wLive.topaz with psq := .risen 5 } }, by decide +kernel⟩
theorem witness_RailsRiseFallAndReleaseReset_6 : ∃ (b : Block) (k j : Nat), (b.topaz.psq = .raising k) ∧ (b.topaz.drop =
    none) ∧ (topRail b.topaz = some j) :=
  ⟨{ wLive with topaz := { wLive.topaz with psq := .raising 2 } }, 2, 5, by decide +kernel⟩
theorem witness_RailsRiseFallAndReleaseReset_7 : ∃ (b : Block) (k j : Nat), (b.topaz.psq = .up) ∧ (k < 6) ∧ (b.topaz.drop =
    none) ∧ (topRail b.topaz = some j) :=
  ⟨{ wLive with topaz := { wLive.topaz with psq := .up } }, 2, 5, by decide +kernel⟩
theorem witness_RailsRiseFallAndReleaseReset_8 : ∃ (b : Block) (k : Nat), (b.topaz.psq = .lowering (k + 1)) :=
  ⟨{ wLive with topaz := { wLive.topaz with psq := .lowering 3 } }, 2, by decide +kernel⟩
theorem witness_RailsRiseFallAndReleaseReset_9 : ∃ (b : Block) (ok : Bool), (b.topaz.psq = .lowering 0) ∧ (b.topaz.drop =
    some (.flush ok)) ∧ (b.topaz.pwr.keyDeferred = none) :=
  ⟨{ wLive with topaz := { wLive.topaz with psq := .lowering 0, drop := some (.flush true) } }, true, by decide +kernel⟩
theorem witness_RailsRiseFallAndReleaseReset_10 : ∃ (b : Block), (b.topaz.psq = .lowering 0) ∧ (b.topaz.drop = some
    .shutdown) ∧ (b.topaz.pwr.keyDeferred = none) :=
  ⟨{ wLive with topaz := { wLive.topaz with psq := .lowering 0, drop := some .shutdown } }, by decide +kernel⟩
theorem witness_RailsRiseFallAndReleaseReset_11 : ∃ (b : Block), (b.topaz.psq = .lowering 0) ∧ (b.topaz.drop = some
    .shutdownCut) ∧ (b.topaz.pwr.keyDeferred = none) :=
  ⟨{ wLive with topaz := { wLive.topaz with psq := .lowering 0, drop := some .shutdownCut } }, by decide +kernel⟩
theorem witness_RailsRiseFallAndReleaseReset_12 : ∃ (b : Block) (ok : Bool), (b.topaz.psq = .lowering 0) ∧ (b.topaz.drop =
    some (.flush ok)) ∧ (b.topaz.pwr.keyDeferred = some .restart) :=
  ⟨{ wLive with topaz := { wLive.topaz with pwr := { wLive.topaz.pwr with keyDeferred := some .restart }, psq := .lowering 0, drop := some (.flush false) } }, false, by decide +kernel⟩
theorem witness_RailsRiseFallAndReleaseReset_13 : ∃ (b : Block), (b.topaz.psq = .lowering 0) ∧ (b.topaz.drop = some
    .keyRestart) ∧ (b.topaz.pwr.keyDeferred = none) :=
  ⟨{ wLive with topaz := { wLive.topaz with psq := .lowering 0, drop := some .keyRestart } }, by decide +kernel⟩
theorem witness_RailsRiseFallAndReleaseReset_14 : ∃ (b : Block), (b.topaz.psq = .lowering 0) ∧ (b.topaz.drop = some .ship)
    ∧ (b.topaz.pwr.keyDeferred = none) :=
  ⟨{ wLive with topaz := { wLive.topaz with psq := .lowering 0, drop := some .ship } }, by decide +kernel⟩
theorem witness_RailsRiseFallAndReleaseReset_15 : ∃ (b : Block), (b.topaz.psq = .lowering 0) ∧ (b.topaz.drop = some
    .railFail) ∧ (b.topaz.pwr.keyDeferred = none) ∧ (b.topaz.railFails < 2) :=
  ⟨{ wLive with topaz := { wLive.topaz with psq := .lowering 0, drop := some .railFail } }, by decide +kernel⟩
theorem witness_RailsRiseFallAndReleaseReset_16 : ∃ (b : Block), (b.topaz.psq = .lowering 0) ∧ (b.topaz.drop = some
    .railFail) ∧ (b.topaz.pwr.keyDeferred = none) ∧ (2 ≤ b.topaz.railFails) :=
  ⟨{ wLive with topaz := { wLive.topaz with psq := .lowering 0, drop := some .railFail, railFails := 2 } }, by
      decide +kernel⟩
theorem witness_RailsRiseFallAndReleaseReset_17 : ∃ (b : Block), (b.topaz.pwr.on = true) :=
  ⟨wLive, by decide +kernel⟩
theorem witness_RailsRiseFallAndReleaseReset_18 : ∃ (b : Block) (c : Bool), (b.topaz.pwrGood = true) ∧ (b.topaz.pwrPin =
    false) :=
  ⟨{ wLive with topaz := { wLive.topaz with pwrPin := false } }, true, by decide +kernel⟩
theorem witness_RailsRiseFallAndReleaseReset_19 : ∃ (b : Block), (b.topaz.pwrGood = true) ∧ (b.topaz.pwrPin = true) ∧
    (b.topaz.pwr.flush = false) ∧ (b.topaz.shutSent = false) :=
  ⟨wLive, by decide +kernel⟩
theorem witness_RailsRiseFallAndReleaseReset_20 : ∃ (b : Block) (j : Nat), (b.topaz.pwrGood = true) ∧ (b.topaz.pwrPin =
    true) ∧ (b.topaz.pwr.flush = false) ∧ (b.topaz.shutSent = true) ∧ (b.topaz.drop = none) ∧ (topRail b.topaz = some j) :=
  ⟨{ wLive with topaz := { wLive.topaz with shutSent := true } }, 5, by decide +kernel⟩
theorem witness_RailsRiseFallAndReleaseReset_21 : ∃ (b : Block) (j : Nat), (b.topaz.pwrGood = true) ∧ (b.topaz.pwrPin =
    true) ∧ (b.topaz.pwr.flush = true) ∧ (b.topaz.drop = none) ∧ (topRail b.topaz = some j) :=
  ⟨{ wLive with topaz := { wLive.topaz with pwr := { wLive.topaz.pwr with flush := true } } }, 5, by decide +kernel⟩
theorem witness_RailsRiseFallAndReleaseReset_22 : ∃ (b : Block), (b.topaz.pwrPin = true) ∧ (b.topaz.released = false) ∧
    (b.beryl.otc.loaded = true) ∧ (b.topaz.faultCode = 0) :=
  ⟨{ wLive with topaz := { wLive.topaz with released := false } }, by decide +kernel⟩
theorem witness_RailsRiseFallAndReleaseReset_23 : ∃ (b : Block), (b.topaz.released = true) ∧ (b.topaz.dramReady = false) :=
  ⟨{ wLive with topaz := { wLive.topaz with dramReady := false } }, by decide +kernel⟩
theorem witness_RailsRiseFallAndReleaseReset_24 : ∃ (b : Block), (b.topaz.released = true) ∧ (b.topaz.dramReady = false) :=
  ⟨{ wLive with topaz := { wLive.topaz with dramReady := false } }, by decide +kernel⟩
theorem witness_RailsRiseFallAndReleaseReset_25 : ∃ (b : Block), (b.topaz.berylOut = true) ∧ (b.topaz.stage = 1) ∧
    (b.topaz.absent = false) ∧ (b.topaz.dramReady = true) ∧ (b.topaz.berylDead = false) :=
  ⟨{ wLive with topaz := { wLive.topaz with stage := 1 } }, by decide +kernel⟩
theorem witness_RailsRiseFallAndReleaseReset_26 : ∃ (b : Block) (ok : Bool), (b.topaz.berylOut = true) ∧ (b.topaz.stage =
    1) ∧ (b.topaz.absent = true) ∧ (b.topaz.berylDead = false) :=
  ⟨{ wLive with topaz := { wLive.topaz with stage := 1, absent := true } }, true, by decide +kernel⟩
theorem witness_RailsRiseFallAndReleaseReset_27 : ∃ (b : Block), (b.topaz.berylOut = true) ∧ (b.topaz.stage = 1) ∧
    (b.topaz.absent = false) ∧ (b.topaz.berylDead = false) :=
  ⟨{ wLive with topaz := { wLive.topaz with stage := 1 } }, by decide +kernel⟩
theorem witness_PackChargerKeyAndMagazinePower_0 : ∃ (b : Block) (ohms : Nat) (temp : Int), (b.topaz.pwr.on = true) ∧
    (500000 < ohms) ∧ (2 ≤ b.topaz.pwr.pack.openReads) :=
  ⟨{ wLive with topaz := { wLive.topaz with pwr := { wLive.topaz.pwr with pack := { coldPack with kind := .liIon, zoned := true, czone := .normal, allowed := true, mv := 7500, temp := 250, ntcGood := 10, openReads := 2 } } } }, 600000, 250, by decide +kernel⟩
theorem witness_PackChargerKeyAndMagazinePower_1 : ∃ (b : Block) (ohms : Nat) (temp : Int), (b.topaz.pwr.on = true) ∧ (ohms
    ≤ 500000) ∧ (b.topaz.pwr.pack.kind = .absent) ∧ (kindOf ohms ≠ .unknown) :=
  ⟨wLive, 10000, 250, by decide +kernel⟩
theorem witness_PackChargerKeyAndMagazinePower_2 : ∃ (b : Block) (ohms : Nat) (temp : Int), (b.topaz.pwr.on = true) ∧ (ohms
    ≤ 500000) ∧ (b.topaz.pwr.pack.kind = .absent) ∧ (kindOf ohms = .unknown) :=
  ⟨wLive, 100, 250, by decide +kernel⟩
theorem witness_PackChargerKeyAndMagazinePower_3 : ∃ (b : Block) (ohms : Nat) (temp : Int), (b.topaz.pwr.on = true) ∧ (ohms
    ≤ 500000) ∧ (b.topaz.pwr.pack.kind ≠ .absent) ∧ ((temp < -400 ∨ 1250 < temp)) :=
  ⟨{ wLive with topaz := { wLive.topaz with pwr := { wLive.topaz.pwr with pack := { coldPack with kind := .liIon, zoned := true, czone := .normal, allowed := true, mv := 7500, temp := 250, ntcGood := 10 } } } }, 10000, 1300, by decide +kernel⟩
theorem witness_PackChargerKeyAndMagazinePower_4 : ∃ (b : Block) (ohms : Nat) (temp : Int), (b.topaz.pwr.on = true) ∧ (ohms
    ≤ 500000) ∧ (b.topaz.pwr.pack.kind ≠ .absent) ∧ (-400 ≤ temp) ∧ (temp ≤ 1250) :=
  ⟨{ wLive with topaz := { wLive.topaz with pwr := { wLive.topaz.pwr with pack := { coldPack with kind := .liIon, zoned := true, czone := .normal, allowed := true, mv := 7500, temp := 250, ntcGood := 10 } } } }, 10000, 450, by decide +kernel⟩
theorem witness_PackChargerKeyAndMagazinePower_5 : ∃ (b : Block) (ohms : Nat) (temp : Int), (b.topaz.pwr.on = true) ∧ (ohms
    ≤ 500000) ∧ (b.topaz.pwr.pack.kind ≠ .absent) ∧ (b.topaz.pwr.pack.zoned = false) :=
  ⟨{ wLive with topaz := { wLive.topaz with pwr := { wLive.topaz.pwr with pack := { coldPack with kind := .liIon, zoned := false, czone := .normal, allowed := true, mv := 7500, temp := 250, ntcGood := 10 } } } }, 10000, 450, by decide +kernel⟩
theorem witness_PackChargerKeyAndMagazinePower_6 : ∃ (b : Block) (ohms : Nat) (temp : Int), (b.topaz.pwr.on = true) ∧ (ohms
    ≤ 500000) ∧ (b.topaz.pwr.pack.kind ≠ .absent) ∧ (b.topaz.pwr.pack.zoned = true) :=
  ⟨{ wLive with topaz := { wLive.topaz with pwr := { wLive.topaz.pwr with pack := { coldPack with kind := .liIon, zoned := true, czone := .normal, allowed := true, mv := 7500, temp := 250, ntcGood := 10 } } } }, 10000, 450, by decide +kernel⟩
theorem witness_PackChargerKeyAndMagazinePower_7 : ∃ (b : Block), (b.topaz.pwr.pack.phase = .precharge) ∧
    (b.topaz.pwr.pack.mv < 2000) :=
  ⟨{ wLive with topaz := { wLive.topaz with pwr := { wLive.topaz.pwr with pack := { coldPack with phase := .precharge } } } }, by decide +kernel⟩
theorem witness_PackChargerKeyAndMagazinePower_8 : ∃ (b : Block), (b.topaz.pwr.pack.phase = .precharge) :=
  ⟨{ wLive with topaz := { wLive.topaz with pwr := { wLive.topaz.pwr with pack := { coldPack with phase := .precharge } } } }, by decide +kernel⟩
theorem witness_PackChargerKeyAndMagazinePower_9 : ∃ (b : Block), (b.topaz.pwr.pack.phase = .constantVoltage) :=
  ⟨{ wLive with topaz := { wLive.topaz with pwr := { wLive.topaz.pwr with pack := { coldPack with phase := .constantVoltage } } } }, by decide +kernel⟩
theorem witness_PackChargerKeyAndMagazinePower_10 : ∃ (b : Block), (timerRuns b.topaz.pwr.pack = false) :=
  ⟨wLive, by decide +kernel⟩
theorem witness_PackChargerKeyAndMagazinePower_11 : ∃ (b : Block), (timerRuns b.topaz.pwr.pack = true) :=
  ⟨{ wLive with topaz := { wLive.topaz with pwr := { wLive.topaz.pwr with pack := { coldPack with phase := .constantVoltage, czone := .normal } } } }, by decide +kernel⟩
theorem witness_PackChargerKeyAndMagazinePower_12 : ∃ (b : Block) (w : Word), (b.bar0 = true) ∧ (w.getLsbD 0 = true) ∧
    (bitsOf w.toNat 15 8 = 0xA5) :=
  ⟨{ wLive with topaz := { wLive.topaz with pwr := { wLive.topaz.pwr with pack := { coldPack with faultTimer := true } } } }, 0xA501, by decide +kernel⟩
theorem witness_PackChargerKeyAndMagazinePower_13 : ∃ (b : Block) (w : Word), ((w.getLsbD 0 = false ∨ bitsOf w.toNat 15 8 ≠
    0xA5)) :=
  ⟨{ wLive with topaz := { wLive.topaz with pwr := { wLive.topaz.pwr with pack := { coldPack with faultTimer := true } } } }, 1, by decide +kernel⟩
theorem witness_PackChargerKeyAndMagazinePower_14 : ∃ (b : Block) (mv vbus : Nat) (ma : Int), (b.topaz.pwr.on = true) ∧
    (b.topaz.pwr.flush = false) ∧ (mv ≤ cvMv b.topaz.pwr.pack.kind + 300) ∧ (1000 ≤ mv) :=
  ⟨{ wLive with topaz := { wLive.topaz with pwr := { wLive.topaz.pwr with pack := { coldPack with kind := .liIon, zoned := true, czone := .normal, allowed := true, mv := 7500, temp := 250, ntcGood := 10 } } } }, 7500, 0, 0, by decide +kernel⟩
theorem witness_PackChargerKeyAndMagazinePower_15 : ∃ (b : Block) (mv vbus : Nat) (ma : Int), (b.topaz.pwr.on = true) ∧
    (b.topaz.pwr.flush = false) ∧ (identified b.topaz.pwr.pack = true) ∧ (cvMv b.topaz.pwr.pack.kind + 300 < mv) :=
  ⟨{ wLive with topaz := { wLive.topaz with pwr := { wLive.topaz.pwr with pack := { coldPack with kind := .liIon, zoned := true, czone := .normal, allowed := true, mv := 7500, temp := 250, ntcGood := 10 } } } }, 8800, 0, 0, by decide +kernel⟩
theorem witness_PackChargerKeyAndMagazinePower_16 : ∃ (b : Block) (mv vbus : Nat) (ma : Int), (b.topaz.pwr.on = true) ∧
    (b.topaz.pwr.flush = false) ∧ (identified b.topaz.pwr.pack = true) ∧ (mv < 1000) :=
  ⟨{ wLive with topaz := { wLive.topaz with pwr := { wLive.topaz.pwr with pack := { coldPack with kind := .liIon, zoned := true, czone := .normal, allowed := true, mv := 7500, temp := 250, ntcGood := 10 } } } }, 900, 0, 0, by decide +kernel⟩
theorem witness_PackChargerKeyAndMagazinePower_17 : ∃ (b : Block) (mv vbus j : Nat) (ma : Int), (b.topaz.pwr.on = true) ∧
    (b.topaz.pwr.flush = true) ∧ (mv ≤ cvMv b.topaz.pwr.pack.kind + 300) ∧ (mv < max (bitsOf (b.reg 0x204) 31 16)
    (packFigures b.topaz.pwr.pack.kind).2.2.2.2) ∧ (b.topaz.shut = none) ∧ (b.topaz.drop = none) ∧ (topRail b.topaz = some
    j) :=
  ⟨{ wLive with topaz := { wLive.topaz with pwr := { wLive.topaz.pwr with pack := { coldPack with kind := .liIon, zoned := true, czone := .normal, allowed := true, mv := 7500, temp := 250, ntcGood := 10 }, flush := true } } }, 900, 0, 5, 0, by decide +kernel⟩
theorem witness_PackChargerKeyAndMagazinePower_18 : ∃ (b : Block), (b.topaz.pwr.show_ ≠ none) :=
  ⟨{ wLive with topaz := { wLive.topaz with pwr := { wLive.topaz.pwr with show_ := some true } } }, by decide +kernel⟩
theorem witness_PackChargerKeyAndMagazinePower_19 : ∃ (b : Block), (b.beryl.evr.mode ≠ 2) ∧ (b.topaz.pwr.on = true) ∧
    (b.topaz.pwr.ship = false) ∧ (b.topaz.pwr.keyDown = false) :=
  ⟨wLive, by decide +kernel⟩
theorem witness_PackChargerKeyAndMagazinePower_20 : ∃ (b : Block), (b.beryl.evr.mode ≠ 2) ∧ (b.topaz.pwr.keyDown = true) :=
  ⟨{ wLive with topaz := { wLive.topaz with pwr := { wLive.topaz.pwr with keyDown := true } } }, by decide +kernel⟩
theorem witness_PackChargerKeyAndMagazinePower_21 : ∃ (b : Block), (b.beryl.evr.mode ≠ 2) ∧ (b.topaz.pwr.keyDown = true) :=
  ⟨{ wLive with topaz := { wLive.topaz with pwr := { wLive.topaz.pwr with keyDown := true } } }, by decide +kernel⟩
theorem witness_PackChargerKeyAndMagazinePower_22 : ∃ (b : Block) (held : Nat), (b.beryl.evr.mode ≠ 2) ∧
    (b.topaz.pwr.keyDown = true) ∧ (b.topaz.pwr.keyShown ≠ some .restart) :=
  ⟨{ wLive with topaz := { wLive.topaz with pwr := { wLive.topaz.pwr with keyDown := true } } }, 100, by decide +kernel⟩
theorem witness_PackChargerKeyAndMagazinePower_23 : ∃ (b : Block) (held j : Nat), (b.beryl.evr.mode ≠ 2) ∧
    (b.topaz.pwr.keyDown = true) ∧ (b.topaz.pwr.keyShown = some .restart) ∧ (b.topaz.pwr.flush = false) ∧ (b.topaz.shut =
    none) ∧ (b.topaz.drop = none) ∧ (topRail b.topaz = some j) :=
  ⟨{ wLive with topaz := { wLive.topaz with pwr := { wLive.topaz.pwr with keyDown := true, keyShown := some .restart } } },
      9000, 5, by decide +kernel⟩
theorem witness_PackChargerKeyAndMagazinePower_24 : ∃ (b : Block) (held : Nat), (b.beryl.evr.mode ≠ 2) ∧
    (b.topaz.pwr.keyDown = true) ∧ (b.topaz.pwr.keyShown = some .restart) ∧ ((b.topaz.pwr.flush = true ∨ b.topaz.drop ≠
    none)) :=
  ⟨{ wLive with topaz := { wLive.topaz with pwr := { wLive.topaz.pwr with keyDown := true, keyShown := some .restart, flush := true } } }, 9000, by decide +kernel⟩
theorem witness_PackChargerKeyAndMagazinePower_25 : ∃ (b : Block) (j : Nat), (b.topaz.pwr.keyShown = some .ship) ∧
    (b.topaz.pwr.flush = false) ∧ (b.topaz.shut = none) ∧ (b.topaz.drop = none) ∧ (topRail b.topaz = some j) :=
  ⟨{ wLive with topaz := { wLive.topaz with pwr := { wLive.topaz.pwr with keyShown := some .ship } } }, 5, by
      decide +kernel⟩
theorem witness_PackChargerKeyAndMagazinePower_26 : ∃ (b : Block), (b.topaz.pwr.keyShown = some .ship) ∧
    ((b.topaz.pwr.flush = true ∨ b.topaz.drop ≠ none)) :=
  ⟨{ wLive with topaz := { wLive.topaz with pwr := { wLive.topaz.pwr with keyShown := some .ship, flush := true } } }, by
      decide +kernel⟩
theorem witness_PackChargerKeyAndMagazinePower_27 : ∃ (b : Block) (w : Word), (b.bar0 = true) ∧ (mapWf regReset b.regs =
    true) ∧ ((b.topaz.pwr.flush = true ∨ b.topaz.shutSent = true ∨ b.topaz.fatal = true)) :=
  ⟨{ wLive with topaz := { wLive.topaz with pwr := { wLive.topaz.pwr with flush := true } } }, 5, by decide +kernel⟩
theorem witness_PackChargerKeyAndMagazinePower_28 : ∃ (b : Block) (w : Word), (b.bar0 = true) ∧ (b.topaz.pwr.flush = false)
    ∧ (b.topaz.shutSent = false) ∧ (b.topaz.fatal = false) :=
  ⟨wLive, 5, by decide +kernel⟩
theorem witness_PackChargerKeyAndMagazinePower_29 : ∃ (b : Block) (l : List Nat) (r : List (List Nat)), (b.ch.keepPowered =
    l :: r) :=
  ⟨{ wLive with ch := { coldChannels with keepPowered := [[0]] } }, [0], [], by decide +kernel⟩
theorem witness_FlushAndShutdownSequences_0 : ∃ (b : Block) (mv : Nat), (b.topaz.pwr.on = true) ∧ (mv < mainUvMv
    b.topaz.pwr) ∧ (b.topaz.psq ≠ .off) ∧ (b.topaz.pwr.flush = false) ∧ (b.topaz.drop = none) ∧ (b.topaz.shutSent = false)
    ∧ (b.topaz.fatal = false) :=
  ⟨wLive, 0, by decide +kernel⟩
theorem witness_FlushAndShutdownSequences_1 : ∃ (b : Block) (mv : Nat), (b.topaz.pwr.on = true) ∧ (mv < mainUvMv
    b.topaz.pwr) ∧ (b.topaz.psq ≠ .off) ∧ (b.topaz.pwr.flush = false) ∧ (b.topaz.drop = none) ∧ ((b.topaz.shutSent = true ∨
    b.topaz.fatal = true)) :=
  ⟨{ wLive with topaz := { wLive.topaz with shutSent := true } }, 0, by decide +kernel⟩
theorem witness_FlushAndShutdownSequences_2 : ∃ (b : Block) (mv : Nat), (b.topaz.pwr.on = true) ∧ (mv < mainUvMv
    b.topaz.pwr) ∧ ((b.topaz.psq = .off ∨ b.topaz.pwr.flush = true ∨ b.topaz.drop ≠ none)) :=
  ⟨{ wLive with topaz := { wLive.topaz with psq := .off } }, 0, by decide +kernel⟩
theorem witness_FlushAndShutdownSequences_3 : ∃ (b : Block) (mv : Nat), ((b.topaz.pwr.on = false ∨ mainUvMv b.topaz.pwr ≤
    mv)) :=
  ⟨wLive, 40000, by decide +kernel⟩
theorem witness_FlushAndShutdownSequences_4 : ∃ (b : Block) (mv : Nat), (b.topaz.pwr.on = true) ∧ (b.topaz.pwr.mainOk =
    false) ∧ (mainOkMv b.topaz.pwr ≤ mv) ∧ (b.topaz.psq = .off) ∧ (b.topaz.pwr.upWait = none) ∧ (b.topaz.pwr.mainSeenLow =
    true) :=
  ⟨{ wLive with topaz := { wLive.topaz with pwr := { wLive.topaz.pwr with mainOk := false, mainSeenLow := true }, psq := .off, faultCode := 0 } }, 40000, by decide +kernel⟩
theorem witness_FlushAndShutdownSequences_5 : ∃ (b : Block) (mv : Nat), (b.topaz.pwr.on = true) ∧ (b.topaz.pwr.mainOk =
    false) ∧ (mainOkMv b.topaz.pwr ≤ mv) ∧ ((b.topaz.psq ≠ .off ∨ b.topaz.pwr.upWait ≠ none ∨ b.topaz.pwr.mainSeenLow =
    false)) :=
  ⟨{ wLive with topaz := { wLive.topaz with pwr := { wLive.topaz.pwr with mainOk := false, flush := true } } }, 40000, by
      decide +kernel⟩
theorem witness_FlushAndShutdownSequences_6 : ∃ (b : Block) (mv : Nat), ((b.topaz.pwr.on = false ∨ b.topaz.pwr.mainOk =
    true ∨ mv < mainOkMv b.topaz.pwr)) :=
  ⟨wLive, 0, by decide +kernel⟩
theorem witness_FlushAndShutdownSequences_7 : ∃ (b : Block) (j : Nat), (b.topaz.pwr.flush = true) ∧ (b.ch.opalReport ≠ [])
    ∧ (b.topaz.drop = none) ∧ (topRail b.topaz = some j) :=
  ⟨{ wLive with topaz := { wLive.topaz with pwr := { wLive.topaz.pwr with flush := true, onyxReport := some true } }, ch := { coldChannels with opalReport := [true] } }, 5, by decide +kernel⟩
theorem witness_FlushAndShutdownSequences_8 : ∃ (b : Block), ((b.topaz.pwr.flush = false ∨ b.ch.opalReport = [] ∨
    b.topaz.drop ≠ none)) :=
  ⟨wLive, by decide +kernel⟩
theorem witness_FlushAndShutdownSequences_9 : ∃ (b : Block) (j : Nat), (b.topaz.pwr.flush = true) ∧ (b.topaz.drop = none) ∧
    (topRail b.topaz = some j) :=
  ⟨{ wLive with topaz := { wLive.topaz with pwr := { wLive.topaz.pwr with flush := true } } }, 5, by decide +kernel⟩
theorem witness_FlushAndShutdownSequences_10 : ∃ (b : Block), ((b.topaz.pwr.flush = false ∨ b.topaz.drop ≠ none)) :=
  ⟨wLive, by decide +kernel⟩
theorem witness_FlushAndShutdownSequences_11 : ∃ (b : Block) (g : Nat) (r : Int) (l : List (Nat × Int)), (b.ch.shutSignal =
    (g, r) :: l) ∧ (b.topaz.shutSent = false) ∧ (b.topaz.fatal = false) ∧ (b.topaz.pwr.flush = false) :=
  ⟨{ wLive with ch := { coldChannels with shutSignal := [(0, 1150)] } }, 0, 1150, [], by decide +kernel⟩
theorem witness_FlushAndShutdownSequences_12 : ∃ (b : Block) (g : Nat) (r : Int) (l : List (Nat × Int)), (b.ch.shutSignal =
    (g, r) :: l) ∧ (b.topaz.shutSent = false) ∧ (b.topaz.fatal = false) ∧ (b.topaz.pwr.flush = true) :=
  ⟨{ wLive with topaz := { wLive.topaz with pwr := { wLive.topaz.pwr with flush := true } }, ch := { coldChannels with shutSignal := [(0, 1150)] } }, 0, 1150, [], by decide +kernel⟩
theorem witness_FlushAndShutdownSequences_13 : ∃ (b : Block) (s : Nat × Int) (l : List (Nat × Int)), (b.ch.shutSignal = s
    :: l) ∧ ((b.topaz.shutSent = true ∨ b.topaz.fatal = true)) :=
  ⟨{ wLive with topaz := { wLive.topaz with shutSent := true }, ch := { coldChannels with shutSignal := [(0, 1150)] } },
      (0, 1150), [], by decide +kernel⟩
theorem witness_FlushAndShutdownSequences_14 : ∃ (b : Block) (lost : Nat), (b.ch.shutSignal.length ≤ lost) :=
  ⟨wLive, 0, by decide +kernel⟩
theorem witness_FlushAndShutdownSequences_15 : ∃ (b : Block) (lost : Nat), (lost < b.ch.shutSignal.length) ∧ (gapSeen lost
    = true) :=
  ⟨{ wLive with ch := { coldChannels with shutSignal := [(0, 1150), (1, 900)] } }, 1, by decide +kernel⟩
theorem witness_FlushAndShutdownSequences_16 : ∃ (b : Block) (s : ShutRun), (b.topaz.pwr.flush = false) ∧ (b.topaz.drop =
    none) ∧ (b.topaz.shutSent = true) ∧ (b.topaz.shut = some s) ∧ (s.entry = none) ∧ (s.group < 4) ∧ (0 ≤ s.peak) ∧ (s.peak
    < 2560) :=
  ⟨{ wLive with topaz := { wLive.topaz with shutSent := true, shut := some ⟨1, 900, true, none⟩ } }, ⟨1, 900, true, none⟩,
      by decide +kernel⟩
theorem witness_FlushAndShutdownSequences_17 : ∃ (b : Block) (j : Nat), (b.topaz.pwr.flush = false) ∧ (b.topaz.fatal =
    true) ∧ (b.topaz.shut = none) ∧ (b.topaz.drop = none) ∧ (topRail b.topaz = some j) :=
  ⟨{ wLive with topaz := { wLive.topaz with fatal := true } }, 5, by decide +kernel⟩
theorem witness_FlushAndShutdownSequences_18 : ∃ (b : Block), ((b.topaz.pwr.flush = true ∨ b.topaz.drop ≠ none ∨
    (b.topaz.shutSent = false ∧ b.topaz.fatal = false) ∨
        (∃ s, b.topaz.shut = some s ∧ s.entry ≠ none))) :=
  ⟨wLive, by decide +kernel⟩
theorem witness_FlushAndShutdownSequences_19 : ∃ (b : Block) (m : TelMsg) (l : List TelMsg) (j : Nat), (b.ch.telResult = m
    :: l) ∧ (m.latched = false) ∧ (m.ok = true) ∧ (b.topaz.pwr.flush = false) ∧ (b.topaz.drop = none) ∧ (topRail b.topaz =
    some j) :=
  ⟨{ wLive with ch := { coldChannels with telResult := [⟨1, false, true⟩] } }, ⟨1, false, true⟩, [], 5, by decide +kernel⟩
theorem witness_FlushAndShutdownSequences_20 : ∃ (b : Block) (m : TelMsg) (l : List TelMsg) (j : Nat), (b.ch.telResult = m
    :: l) ∧ (m.latched = false) ∧ (m.ok = true) ∧ (b.topaz.pwr.flush = true) ∧ (b.topaz.drop = none) ∧ (topRail b.topaz =
    some j) :=
  ⟨{ wLive with topaz := { wLive.topaz with pwr := { wLive.topaz.pwr with flush := true } }, ch := { coldChannels with telResult := [⟨1, false, true⟩] } }, ⟨1, false, true⟩, [], 5, by decide +kernel⟩
theorem witness_FlushAndShutdownSequences_21 : ∃ (b : Block) (m : TelMsg) (l : List TelMsg) (j : Nat), (b.ch.telResult = m
    :: l) ∧ (m.latched = false) ∧ (m.ok = false) ∧ (b.topaz.latch.length < 4) ∧ (b.topaz.pwr.flush = false) ∧ (b.topaz.drop
    = none) ∧ (topRail b.topaz = some j) :=
  ⟨{ wLive with ch := { coldChannels with telResult := [⟨1, false, false⟩] } }, ⟨1, false, false⟩, [], 5, by decide +kernel⟩
theorem witness_FlushAndShutdownSequences_22 : ∃ (b : Block) (m : TelMsg) (l : List TelMsg) (j : Nat), (b.ch.telResult = m
    :: l) ∧ (m.latched = false) ∧ (m.ok = false) ∧ (4 ≤ b.topaz.latch.length) ∧ (b.topaz.pwr.flush = false) ∧ (b.topaz.drop
    = none) ∧ (topRail b.topaz = some j) :=
  ⟨{ wLive with topaz := { wLive.topaz with latch := [1, 2, 3, 4] }, ch := { coldChannels with telResult := [⟨1, false, false⟩] } }, ⟨1, false, false⟩, [], 5, by decide +kernel⟩
theorem witness_FlushAndShutdownSequences_23 : ∃ (b : Block) (m : TelMsg) (l : List TelMsg), (b.ch.telResult = m :: l) ∧
    (m.latched = true) ∧ (m.ok = true) :=
  ⟨{ wLive with topaz := { wLive.topaz with latch := [1] }, ch := { coldChannels with telResult := [⟨1, true, true⟩] } },
      ⟨1, true, true⟩, [], by decide +kernel⟩
theorem witness_FlushAndShutdownSequences_24 : ∃ (b : Block) (m : TelMsg) (l : List TelMsg), (b.ch.telResult = m :: l) ∧
    (m.latched = true) ∧ (m.ok = false) :=
  ⟨{ wLive with topaz := { wLive.topaz with latch := [1] }, ch := { coldChannels with telResult := [⟨1, true, false⟩] } },
      ⟨1, true, false⟩, [], by decide +kernel⟩
theorem witness_FlushAndShutdownSequences_25 : ∃ (b : Block) (lost : Nat), (b.ch.telResult.length ≤ lost) :=
  ⟨wLive, 0, by decide +kernel⟩
theorem witness_FlushAndShutdownSequences_26 : ∃ (b : Block) (lost : Nat) (m : TelMsg) (l : List TelMsg),
    (b.ch.telResult.drop lost = m :: l) ∧ (m.latched = true) ∧ (m.ok = true) ∧ (gapSeen lost = true) :=
  ⟨{ wLive with topaz := { wLive.topaz with latch := [2] }, ch := { coldChannels with telResult := [⟨1, true, true⟩, ⟨2, true, true⟩] } }, 1, ⟨2, true, true⟩, [], by decide +kernel⟩
theorem witness_FlushAndShutdownSequences_27 : ∃ (b : Block) (s : ShutRun) (e : Half) (j : Nat), (b.topaz.shut = some s) ∧
    (s.entry = some e) ∧ (b.topaz.latch.length < 4) ∧ (b.topaz.pwr.flush = false) ∧ (b.topaz.drop = none) ∧ (topRail
    b.topaz = some j) :=
  ⟨{ wLive with topaz := { wLive.topaz with shut := some ⟨1, 900, true, some 9⟩ } }, ⟨1, 900, true, some 9⟩, 9, 5, by
      decide +kernel⟩
theorem witness_FlushAndShutdownSequences_28 : ∃ (b : Block) (s : ShutRun) (e : Half) (j : Nat), (b.topaz.shut = some s) ∧
    (s.entry = some e) ∧ (b.topaz.latch.length < 4) ∧ (b.topaz.pwr.flush = true) ∧ (b.topaz.drop = none) ∧ (topRail b.topaz
    = some j) :=
  ⟨{ wLive with topaz := { wLive.topaz with pwr := { wLive.topaz.pwr with flush := true }, shut := some ⟨1, 900, true, some 9⟩ } }, ⟨1, 900, true, some 9⟩, 9, 5, by decide +kernel⟩
theorem witness_FlushAndShutdownSequences_29 : ∃ (b : Block), ((∀ s, b.topaz.shut = some s → s.entry = none)) :=
  ⟨wLive, by decide +kernel⟩

/-! ### What the clauses of completion suppose -/

/-- A state in which every Island takes its commands: the hypotheses of the clauses that say that a command completes. -/
theorem witness_completion :
    (∀ i ∈ [Island.quartz, .garnet, .jade, .spinel, .opal, .onyx, .agate],
      wLive.alive i = true ∧ islandEmpty wLive i = false ∧ wLive.inPower i = true) ∧
    wLive.beryl.evr.mode ≠ 2 ∧ firmware wLive = true := by decide +kernel

/-! ### Well-formedness: one command refused for each check -/

theorem test_wf_cadence_channel : (Instr.cadenceChannelEvent 1).wf = false ∧ (Instr.cadenceChannelEvent 2).wf = true := by decide
theorem test_wf_strobe : (Instr.strobeOn 4).wf = false ∧ (Instr.strbCfgWrite 4 0).wf = false := by decide
theorem test_wf_stamp : (Instr.refInEdge (2 ^ 64) true 0).wf = false ∧ (Instr.ppsInEdge (2 ^ 64) true 0).wf = false := by decide
theorem test_wf_scene_order :
    (Instr.subFrameStart { wScene with listed := [(5, wClusterIn), (5, wClusterIn)] } 0).wf = false := by decide
theorem test_wf_scene_range : (Instr.subFrameStart { wScene with listed := [(10170880, wClusterIn)] } 0).wf = false := by decide
theorem test_wf_page : (Instr.poll (some [])).wf = false ∧ (Instr.poll none).wf = true := by decide
theorem test_wf_fetch : (Instr.descriptorFetched 257 none).wf = false ∧ (Instr.descriptorFetched 0 (some [])).wf = false := by decide
theorem test_wf_fetch_length : (Instr.descriptorFetched 0 (some [[0]])).wf = false := by decide
theorem test_wf_close : (Instr.contextCloseFinish 256 0 none).wf = false ∧ (Instr.contextCloseFinish 0 (2 ^ 32) (some [])).wf = false := by decide
theorem test_wf_close_desc : (Instr.contextCloseFinish 0 0 (some [[]])).wf = false := by decide
theorem test_wf_ring : (Instr.nop 257 0).wf = false ∧ (Instr.bufferPost 256 0).wf = false := by decide
theorem test_wf_vector : (Instr.msixHoldoffExpiry 64).wf = false ∧ (Instr.msixMaskWrite (.mask 64 true)).wf = false := by decide
theorem test_wf_register : (Instr.registerWrite 65536 0 15).wf = false ∧ (Instr.registerWrite 2 0 15).wf = false := by decide
theorem test_wf_port : (Instr.magazineLinkDown 4).wf = false ∧ (Instr.cmdTimeout 0 65536).wf = false := by decide
theorem test_wf_engine : (Instr.seqJmp 8 false).wf = false ∧ (Instr.seqIoEdge 16 true).wf = false := by decide
theorem test_wf_gang : (Instr.gangCtrlWrite 2 [] 0).wf = false ∧ (Instr.gangCtrlWrite 0 [(4, 0)] 0).wf = false := by decide
theorem test_wf_samples : (Instr.sensorSample []).wf = false := by decide
theorem test_wf_replay : (Instr.replayFeed (.block [])).wf = false ∧ (Instr.replayFeed (.tap [] [])).wf = false := by decide
theorem test_wf_rail : (Instr.railPgRise 6).wf = false ∧ (Instr.railPgFall 6).wf = false := by decide

/-! ### Values from outside the model -/

/-- The table gives no row any bits: no word spells a command. -/
theorem test_no_word : decodeTableWord 32 0x12345678 = none := by decide

/-- The published check value of CRC-32C over the digits 1 to 9. -/
theorem test_crc32c : crc32c [0x31, 0x32, 0x33, 0x34, 0x35, 0x36, 0x37, 0x38, 0x39] = 0xE3069283 := by decide +kernel

/-- An AES-256 key wrap of the bytes 0 to 63 under a key of zeros, made with another implementation, unwraps to them. -/
theorem test_key_unwrap : unwrapKey (.replicate 32 0) wWrapped = some wKey := wUnwrapped

/-- The factory fuses pass their load: Beryl leaves reset with the highest grade (16 R428). -/
theorem test_fuse_load : (fuseLoad true { wLive with
    beryl := { wLive.beryl with otc := coldOtc factoryFuses [] [] }
    topaz := { wLive.topaz with berylOut := false, stage := 0 } }).beryl.otc.grade = 2 := by decide +kernel

/-- Little-endian fields (00 R4). -/
theorem test_little_endian : leBytes 4 0x12345678 = [0x78, 0x56, 0x34, 0x12] ∧ leAt [1, 2, 3, 4] 1 2 = 0x302 := by decide

/-- A frozen Island takes no input (12 R320): the header waits. -/
theorem test_frozen_waits : exec .frameHeaderToken ⟨[], ((wHeader wSnap).modIsl .jade (fun s => { s with
    frozen := some (.parity, 0) }))⟩ = .next ⟨[], ((wHeader wSnap).modIsl .jade (fun s => { s with
    frozen := some (.parity, 0) }))⟩ := by rfl

/-- A step takes the front command and leaves the rest waiting. -/
theorem test_step_queue : (match step ⟨[.tbLoRead, .vddAoLoss], wLive⟩ with
    | .next t => t.pending == [.vddAoLoss] && t.blk.out.readData == 1000
    | _ => false) = true := by decide

/-- An empty queue: one tick of the Time Base (log entry 3). -/
theorem test_idle_tick : (match step ⟨[], wLive⟩ with | .next t => t.blk.quartz.tb | _ => 0) = 1001 := by decide

end Sys2Proof.Machine
end

section
/-! The invariant of O2 and O3: each operation that writes DRAM, a stored register or a fuse keeps it; every other one has a
frame that leaves them alone. -/

-- The proofs are elaborated one after another: each waiting in a thread of its own takes more memory than the check allows.
set_option Elab.async false

namespace Sys2Proof.Machine

/-! ### What the invariant needs -/

/-- The parts of the block that the invariant does not speak of. -/
abbrev offStore : List Piece :=
  [.quartz, .disc, .tod, .garnet, .jade, .spinel, .opal, .posts, .onyx, .agate, .thm, .evr, .beryl, .topaz, .ch, .trace,
    .out, .fresh]

theorem Block.Inv.of_eq {a b : Block} (h : a.Inv) (hd : b.dram = a.dram) (hr : b.regs = a.regs)
    (hf : b.beryl.otc.fuses = a.beryl.otc.fuses) (hw : b.beryl.otc.weak = a.beryl.otc.weak)
    (hs : b.beryl.otc.soft = a.beryl.otc.soft) : b.Inv := by
  obtain ⟨dram, regs, reserved, fuses, weak, soft⟩ := h
  exact ⟨hd ▸ dram, hr ▸ regs, hr ▸ reserved, hf ▸ fuses, hw ▸ weak, hs ▸ soft⟩

/-- A change that leaves DRAM, the registers and the fuses alone keeps the invariant. -/
theorem Block.Inv.of_frame {ps : List Piece} {a b : Block} (h : a.Inv) (k : onlyChanges ps a b)
    (hp : .dram ∉ ps ∧ .regs ∉ ps ∧ .otc ∉ ps := by decide) : b.Inv := by
  obtain ⟨hd, hr, ho⟩ := hp
  have otc : b.beryl.otc = a.beryl.otc := k.at_ .otc ho
  exact h.of_eq (k.at_ .dram hd) (k.at_ .regs hr) (by rw [otc]) (by rw [otc]) (by rw [otc])

/-- The invariant goes along an operation whose frame lemma `k` stays within `offStore`. -/
theorem Block.Inv.via {b c : Block} (h : b.Inv) (k : onlyChanges offStore b b → onlyChanges offStore b c) : c.Inv :=
  h.of_frame (k (onlyChanges_refl _ _))

theorem Block.Inv.ite {p : Prop} [Decidable p] {a b : Block} (ha : a.Inv) (hb : b.Inv) : (if p then a else b).Inv := by
  split <;> assumption

theorem Block.Inv.foldl {α : Type} {f : Block → α → Block} {l : List α} {b : Block} (h : b.Inv)
    (hf : ∀ x y, x.Inv → (f x y).Inv) : (l.foldl f b).Inv := by
  induction l generalizing b with
  | nil => exact h
  | cons y l ih => exact ih (hf b y h)

/-! ### DRAM -/

theorem Block.Inv.dramWrite {b : Block} (h : b.Inv) (a : Nat) (vs : List Byte) : (b.dramWrite a vs).Inv :=
  { h with dram := Block.dramWrite_wf a vs h.dram }

theorem Block.Inv.clearDram {b : Block} (h : b.Inv) : { b with dram := [] }.Inv := { h with dram := rfl }

/-! ### Stored registers -/

theorem all_mapSet {α : Type} [DecidableEq α] {p : Nat × α → Bool} {d v : α} {k : Nat} (hv : p (k, v) = true) :
    ∀ {l : List (Nat × α)}, l.all p = true → (mapSet d l k v).all p = true
  | [], _ => by unfold mapSet; split <;> simp [hv]
  | (j, w) :: l, h => by
    simp only [List.all_cons, Bool.and_eq_true] at h
    obtain ⟨hw, hl⟩ := h
    unfold mapSet
    split
    · split <;> simp [hv, hw, hl]
    · split
      · split <;> simp [hv, hl]
      · simp [hw, all_mapSet hv hl]

theorem mapGet_eq_or_mem {α : Type} (d : α) (k : Nat) : ∀ l : List (Nat × α), mapGet d l k = d ∨ (k, mapGet d l k) ∈ l
  | [] => .inl rfl
  | (j, v) :: l => by
    unfold mapGet
    split
    · next e => subst e; exact .inr (List.mem_cons_self ..)
    · exact (mapGet_eq_or_mem d k l).imp_right (List.mem_cons_of_mem _)

/-- No register resets to a 1 in a bit that no write may change. -/
theorem resets_writable : ∀ r ∈ regRows, r.reset &&& ~~~r.writable = 0 := by decide +kernel

theorem regEntryOk_iff {off : Nat} {v : Word} {r : RegRow} (hr : regRow off = some r) :
    regEntryOk (off, v) = true ↔ v &&& ~~~r.writable = 0 := by
  simp [regEntryOk, hr]

/-- A register reads 0 in every bit that no write may change. -/
theorem Block.Inv.reg_reserved {b : Block} (h : b.Inv) {off : Nat} {r : RegRow} (hr : regRow off = some r) :
    BitVec.ofNat 32 (b.reg off) &&& ~~~r.writable = 0 := by
  rw [show BitVec.ofNat 32 (b.reg off) = mapGet (regReset off) b.regs off by simp [Block.reg]]
  rcases mapGet_eq_or_mem (regReset off) off b.regs with e | e
  · rw [e, regReset, hr]
    exact resets_writable r (List.mem_of_find?_eq_some hr)
  · exact (regEntryOk_iff hr).mp (List.all_eq_true.mp h.reserved _ e)

theorem Block.Inv.setReg {b : Block} (h : b.Inv) {off v : Nat} (hv : regEntryOk (off, BitVec.ofNat 32 v) = true) :
    (b.setReg off v).Inv :=
  { h with regs := Block.setReg_wf off v h.regs, reserved := all_mapSet hv h.reserved }

/-- Dropping stored registers, which then read their reset values. -/
theorem Block.Inv.filterRegs {b : Block} (h : b.Inv) (p : Nat × Word → Bool) : { b with regs := b.regs.filter p }.Inv :=
  { h with
    regs := filter_wf h.regs
    reserved := List.all_eq_true.mpr fun e he => List.all_eq_true.mp h.reserved e (List.mem_filter.mp he).1 }

/-! ### Fuses -/

/-- A change of the fuse controller that leaves the fuses and their margins alone. -/
theorem Block.Inv.modOtc {b : Block} (h : b.Inv) {f : Otc → Otc} (hf : (f b.beryl.otc).fuses = b.beryl.otc.fuses := by rfl)
    (hw : (f b.beryl.otc).weak = b.beryl.otc.weak := by rfl) (hs : (f b.beryl.otc).soft = b.beryl.otc.soft := by rfl) :
    (modOtc f b).Inv := h.of_eq rfl rfl hf hw hs

theorem Block.Inv.modBeryl {b : Block} (h : b.Inv) {f : Beryl → Beryl} (hf : (f b.beryl).otc = b.beryl.otc := by rfl) :
    (b.modBeryl f).Inv :=
  h.of_eq rfl rfl (congrArg Otc.fuses hf) (congrArg Otc.weak hf) (congrArg Otc.soft hf)

/-! ### Gates before an operation -/

theorem gated_inv {i : Island} {f : Block → Block} {b : Block} (h : b.Inv) (hf : (f b).Inv) : (gated i f b).Inv :=
  .ite hf h

theorem live_inv {f : Block → Block} {b : Block} (h : b.Inv) (hf : (f b).Inv) : (live f b).Inv := .ite h hf

theorem served_inv {i : Island} {fail f : Block → Block} {b : Block} (h : b.Inv) (hg : (fail b).Inv) (hf : (f b).Inv) :
    (served i fail f b).Inv := .ite hg (.ite hf h)

/-- A fail-stopped Jade fails the Frame of a token, then takes the token as `f` does. -/
theorem jadeFails_inv {f : Block → Block} {b : Block} (h : b.Inv) (hf : ∀ x, x.Inv → (f x).Inv) : (jadeFails f b).Inv := by
  unfold jadeFails
  split
  · exact hf _ ((h.via (failInJade_frame (by decide))).via (sendFailedItem_frame (by decide)))
  · exact hf _ (h.via (failInJade_frame (by decide)))
  · exact h

theorem reset_inv : State.reset.blk.Inv where
  dram := reset_dram_wf
  regs := rfl
  reserved := rfl
  fuses := by decide
  weak := rfl
  soft := rfl

/-! ### Register writes keep the invariant -/

/-- A word is 0 outside `m` when each of its ones is one of `m`. -/
theorem and_not_eq_zero_iff {v m : Word} : v &&& ~~~m = 0 ↔ ∀ i < 32, v.getLsbD i = true → m.getLsbD i = true := by
  constructor
  · intro h i hi hv
    have := congrArg (·.getLsbD i) h
    simpa [hi, hv] using this
  · intro h
    refine BitVec.eq_of_getLsbD_eq fun i hi => ?_
    have := h i hi
    cases hv : v.getLsbD i <;> simp_all

theorem store_masked {old w m k : Word} (ho : old &&& ~~~k = 0) (hm : m &&& ~~~k = 0) :
    ((old &&& ~~~m) ||| (w &&& m)) &&& ~~~k = 0 := by
  rw [and_not_eq_zero_iff] at *
  intro i hi hv
  simp only [BitVec.getLsbD_or, BitVec.getLsbD_and, Bool.or_eq_true, Bool.and_eq_true] at hv
  exact hv.elim (fun h => ho i hi h.1) (fun h => hm i hi h.2)

/-- A write takes no bit beside those that its register lets a write change. -/
theorem writeMask_writable (b : Block) (off : Nat) (r : RegRow) : writeMask b off r &&& ~~~r.writable = 0 := by
  rw [and_not_eq_zero_iff]
  intro i hi
  have rw_ok (h : r.rw.getLsbD i = true) : r.writable.getLsbD i = true := by simp [RegRow.writable, h]
  have rwl_ok (h : r.rwl.getLsbD i = true) : r.writable.getLsbD i = true := by simp [RegRow.writable, h]
  unfold writeMask
  split
  · refine List.foldlRecOn (motive := fun (m : Word) => m.getLsbD i = true → r.writable.getLsbD i = true)
      commitIslands _ rw_ok ?_
    intro m hm j _
    split
    · exact hm
    · intro h
      simp only [BitVec.getLsbD_or, BitVec.getLsbD_and, Bool.or_eq_true, Bool.and_eq_true] at h
      exact h.elim hm fun h => rwl_ok h.1
  · split
    · exact rw_ok
    · exact id

theorem storeReg_inv {off : Nat} {w : Word} {b : Block} (h : b.Inv) : (storeReg off w b).Inv := by
  unfold storeReg
  split
  · exact h
  · next r hr =>
    refine h.setReg ((regEntryOk_iff hr).mpr ?_)
    rw [BitVec.ofNat_toNat, BitVec.setWidth_eq]
    exact store_masked (h.reg_reserved hr) (writeMask_writable b off r)

theorem registerWrite_inv {off : Nat} {w : Word} {be : BitVec 4} {b : Block} (h : b.Inv) : (registerWrite off w be b).Inv :=
  .ite h ((storeReg_inv h).via (afterWrite_frame (by decide)))

theorem strbCfgWrite_inv {n : Nat} {w : Word} {b : Block} (h : b.Inv) : (strbCfgWrite n w b).Inv :=
  .ite h ((storeReg_inv h).via (strobePol_frame (by decide)))

/-- A vector's mask bit is the one bit of its register that takes a write. -/
theorem maskEntry_ok : ∀ v < 64, ∀ on : Bool, regEntryOk (0x600C + 16 * v, BitVec.ofNat 32 (bit on)) = true := by
  decide +kernel

theorem msixMaskWrite_inv {w : MsixWrite} {b : Block} (h : b.Inv) : (msixMaskWrite w b).Inv := by
  refine .ite h (.foldl ?_ fun x v hx => hx.via (releaseMsg_frame (by decide)))
  cases w with
  | mask v on =>
    dsimp only
    split
    · next hv => exact h.setReg (maskEntry_ok v hv on)
    · exact h
  | function on => exact h.via (Block.modOpal_frame (by decide))
  | enable on => exact h.via (Block.modOpal_frame (by decide))

theorem gioTrigWrite_inv {w : Word} {b : Block} (h : b.Inv) : (gioTrigWrite w b).Inv := by
  have ok : regEntryOk (0x8440, BitVec.ofNat 32 (w.toNat &&& 0xFFFF0001)) = true := by
    rw [regEntryOk_iff (r := ⟨0x8440, 4, 1, 0, 0xFFFF0001, 0, .agate⟩) (by decide), BitVec.ofNat_and, BitVec.and_assoc]
    simp [RegRow.writable]
  exact .ite h (.ite (h.setReg ok) ((h.setReg ok).via (Block.modAgate_frame (by decide))))

theorem setEvrCtrl_inv {mode : Nat} {tap : Bool} {b : Block} (h : b.Inv) (hm : mode < 4) : (setEvrCtrl mode tap b).Inv := by
  have ok : ∀ m < 4, ∀ t : Bool, regEntryOk (0x9200, BitVec.ofNat 32 (m + 4 * bit t)) = true := by decide +kernel
  exact h.setReg (ok mode hm tap)

theorem flagBits_lt (l : List Bool) : flagBits l < 2 ^ l.length := by
  induction l with
  | nil => decide
  | cons c l ih =>
    have : bit c ≤ 1 := by cases c <;> decide
    simp only [flagBits, List.length_cons, Nat.pow_succ]
    omega

theorem hupMagpwrWrite_inv {w : Nat} {b : Block} (h : b.Inv) : (hupMagpwrWrite w b).Inv := by
  have ok : ∀ k < 16, regEntryOk (0x214, BitVec.ofNat 32 k) = true := by decide +kernel
  have hset {p : Nat → Bool} : (b.setReg 0x214 (bitsWhere 4 p)).Inv := h.setReg (ok _ (flagBits_lt _))
  exact .ite h (.ite hset (hset.foldl fun x m hx => hx.via (setMagpwr_frame (by decide))))

theorem Block.resetRegs_inv {lo hi : Nat} {b : Block} (h : b.Inv) : (b.resetRegs lo hi).Inv := h.filterRegs _

theorem fundamentalReset_inv {b : Block} (h : b.Inv) : (fundamentalReset b).Inv := by
  have woken : (wakeUnit .opal 0 (b.resetRegs 0x6000 0x6900)).Inv := (Block.resetRegs_inv h).via (wakeUnit_frame (by decide))
  unfold fundamentalReset
  exact woken.via (Block.modOpal_frame (by decide))

/-! ### The fuse controller keeps the fuses and their margins in canonical form -/

theorem sawVpp_inv {mv : Nat} {b : Block} (h : b.Inv) : (sawVpp mv b).Inv := h.modOtc

theorem vppMeasure_inv {mv : Nat} {b : Block} (h : b.Inv) : (vppMeasure mv b).Inv := .ite (sawVpp_inv h) h

theorem endRun_inv {res : Nat} {b : Block} (h : b.Inv) : (endRun res b).Inv := h.modOtc

theorem bitsOf_lt (v hi lo : Nat) : bitsOf v hi lo < 2 ^ (hi + 1 - lo) := Nat.mod_lt _ (Nat.two_pow_pos _)

/-- OTP_RADDR as OTP_READ stores it: a way of two bits at bit 12 and a word of 11 bits. -/
theorem otpReadEntry_masked {x y : Nat} (hx : x < 2 ^ 2) (hy : y < 2 ^ 11) :
    BitVec.ofNat 32 (2 ^ 12 * x + y) &&& ~~~(0x37FF : Word) = 0 := by
  rw [and_not_eq_zero_iff]
  intro i hi h
  rw [BitVec.getLsbD_ofNat, Nat.testBit_two_pow_mul_add x (by omega)] at h
  have hlow (hi : 11 ≤ i) : y.testBit i = false :=
    Nat.testBit_lt_two_pow (Nat.lt_of_lt_of_le hy (Nat.pow_le_pow_right (by decide) hi))
  have hhigh (hi : 14 ≤ i) : x.testBit (i - 12) = false :=
    Nat.testBit_lt_two_pow (Nat.lt_of_lt_of_le hx (Nat.pow_le_pow_right (by decide) (by omega)))
  have hset : i < 11 ∨ i = 12 ∨ i = 13 := by grind
  rcases hset with h | rfl | rfl
  · have low_bits : ∀ j < 11, (0x37FF : Word).getLsbD j = true := by decide
    exact low_bits i h
  · decide
  · decide

theorem otpRead_inv {w : Nat} {b : Block} (h : b.Inv) : (otpRead w b).Inv := by
  have ok : regEntryOk (0x9118, BitVec.ofNat 32 (bitsOf w 13 12 * 4096 + bitsOf w 10 0)) = true := by
    rw [regEntryOk_iff (r := ⟨0x9118, 4, 1, 0, 0x37FF, 0, .beryl⟩) (by decide), Nat.mul_comm]
    exact otpReadEntry_masked (bitsOf_lt ..) (bitsOf_lt ..)
  exact .ite h (h.setReg ok).modOtc

theorem runGo_inv {k : Nat} {mvs : List Nat} {b : Block} (h : b.Inv) : (runGo k mvs b).Inv := by
  induction k generalizing mvs b with
  | zero => exact h
  | succ k ih =>
    have pulsed {r : OtpRun} : (modOtc (fun o => { o with run := some { r with pulses := r.pulses + 1 } })
      (sawVpp (mvs.headD 0) b)).Inv := (sawVpp_inv h).modOtc
    unfold runGo
    dsimp only
    split
    · exact h
    · split
      · exact .ite (endRun_inv h) (.ite h (ih h.modOtc))
      · exact .ite (ih h.modOtc) (.ite (endRun_inv h) (.ite (endRun_inv (sawVpp_inv h))
          (.ite (ih pulsed) pulsed.modOtc)))

theorem resumeRun_inv {mvs : List Nat} {b : Block} (h : b.Inv) : (resumeRun mvs b).Inv := .ite h (runGo_inv h)

theorem otpProgram_inv {w mv : Nat} {more : List Nat} {b : Block} (h : b.Inv) : (otpProgram w mv more b).Inv := by
  have refused {res : Nat} := (sawVpp_inv (mv := mv) h).modOtc (f := fun o => { o with
    result := res, wordsDone := if b.beryl.otc.run.isSome then b.beryl.otc.wordsDone else 0 })
  exact .ite h (.ite refused (.ite refused (.ite refused (resumeRun_inv (sawVpp_inv h).modOtc))))

theorem telBurnRequest_inv {mv : Nat} {more : List Nat} {b : Block} (h : b.Inv) : (telBurnRequest mv more b).Inv := by
  unfold telBurnRequest
  dsimp only
  split
  · exact h
  · next m rest _ =>
    have popped : (b.modCh (fun c => { c with telBurn := rest })).Inv := h.via (Block.modCh_frame (by decide))
    refine .ite (popped.via (telAnswer_frame (by decide))) (.ite h ?_)
    split
    · have full := popped.modBeryl (f := fun y => { y with telFull := true })
      exact resumeRun_inv (full.via (telAnswer_frame (by decide)))
    · have seen : (sawVpp mv b).Inv := sawVpp_inv h
      have popped : ((sawVpp mv b).modCh (fun c => { c with telBurn := rest })).Inv := seen.via (Block.modCh_frame (by decide))
      have answered := popped.via (telAnswer_frame (m := m) (ok := false) (by decide))
      exact .ite popped.modOtc (resumeRun_inv (.ite (answered.via (Block.modCh_frame (by decide))) answered))

theorem burnPulsed_inv {t : TelBurn} {mvs : List Nat} {b : Block} (h : b.Inv) : (burnPulsed t mvs b).Inv := by
  have done {m : TelMsg} {ok : Bool} {vs : List Nat} {x : Block} (hx : x.Inv) :
      (resumeRun vs (telAnswer m ok (modOtc (fun o => { o with burn := none }) x))).Inv :=
    resumeRun_inv (hx.modOtc.via (telAnswer_frame (by decide)))
  exact .ite (done h) (.ite (done h) (.ite (done (sawVpp_inv h)) (sawVpp_inv h).modOtc))

theorem otpPulseDone_inv {fired firm soft : Half} {mv : Nat} {more : List Nat} {b : Block} (h : b.Inv) :
    (otpPulseDone fired firm mv soft more b).Inv := by
  unfold otpPulseDone
  split
  · exact h
  · next a bits _ =>
    extract_lets b'
    have fired : b'.Inv := { h with fuses := mapSet_wf h.fuses, weak := mapSet_wf h.weak, soft := mapSet_wf h.soft }
    split
    · exact burnPulsed_inv fired
    · exact runGo_inv fired

theorem fuseLoad_inv {refOk : Bool} {b : Block} (h : b.Inv) : (fuseLoad refOk b).Inv := by
  have failed {code : Nat} : (settleFaultPin (b.modTopaz (fun t => { t with faultCode := code }))).Inv :=
    (h.via (Block.modTopaz_frame (by decide))).via (settleFaultPin_frame (by decide))
  have loaded : (modOtc (fun _ => loadPolicy b.beryl.otc) b).Inv := h.modOtc
  exact .ite h (.ite failed (.ite failed (.ite failed (loaded.via (Block.modSpinel_frame (by decide))))))

/-! ### Garnet's drain and Jade's data path -/

theorem drainOne_inv {j : DrainJob} {k n : Nat} {b : Block} (h : b.Inv) : (drainOne j k n b).Inv := by
  unfold drainOne
  exact ((h.dramWrite _ _).via (sendTokens_frame (by decide))).via (Block.modGarnet_frame (by decide))

theorem drainStripeDone_inv {b : Block} (h : b.Inv) : (drainStripeDone b).Inv := by
  refine .ite h ?_
  split
  · exact h
  · split
    · exact drainOne_inv h
    · dsimp only
      split
      · exact .ite h (((h.dramWrite _ _).via (sendTokens_frame (by decide))).via (Block.modGarnet_frame (by decide)))
      · exact h

theorem tapCopy_inv {t : StripeToken} {bytes : List Byte} {b : Block} (h : b.Inv) : (tapCopy t bytes b).Inv := by
  unfold tapCopy
  refine .ite h (.ite (.modBeryl (h.via (upd_fresh_frame (by decide)))) ?_)
  extract_lets base len seq wrap wrapped off wrote counted
  have hwrapped : wrapped.Inv := .ite (h.via (Block.hostWrite_frame (by decide))) h
  have hwrote : wrote.Inv := hwrapped.via (Block.hostWrite_frame (by decide))
  have hcounted : counted.Inv := (hwrote.via (upd_fresh_frame (by decide))).via (Block.modJade_frame (by decide))
  exact hcounted.modBeryl

theorem stripeToken_inv {bad1 bad2 : Bool} {ecc : Ecc} {b : Block} (h : b.Inv) : (stripeToken_ bad1 bad2 ecc b).Inv := by
  unfold stripeToken_
  split
  · next t _ _ =>
    refine .ite h ?_
    extract_lets again acked kept gone checked ue bytes fail1 fail2 missing counted data past m stored marked told
    have hacked : acked.Inv := .ite (h.via (Block.modCh_frame (by decide))) h
    have hkept : kept.Inv := hacked.via (keepToken_frame (by decide))
    have hchecked : checked.Inv := .ite hkept (hkept.via (eccCount_frame (by decide)))
    have hcounted : counted.Inv := .ite (hchecked.via (Block.modJade_frame (by decide)))
      (.ite (hchecked.via (Block.modJade_frame (by decide))) hchecked)
    have hstored : stored.Inv := hcounted.via (modFrame_frame (by decide))
    have hmarked : marked.Inv := hstored.via (tellOpal_frame (by decide))
    have htold : told.Inv := .ite (.ite hmarked (hmarked.via (mergeFail_frame (by decide))))
      (hmarked.via (tellOpal_frame (by decide)))
    exact .ite (hacked.via (takeToken_frame (by decide))) (.ite htold (tapCopy_inv htold))
  · exact h

theorem writeSegStripe_inv {frame s : Nat} {d : Dest} {pic : Option (Array Int)} {m : BitVec 16} {b : Block} (h : b.Inv) :
    (writeSegStripe frame s d pic m b).Inv := by
  unfold writeSegStripe
  split
  · next f a _ _ =>
    have put {g : JSeg} {v : List Byte} {x : Nat} : (modFrame frame (putSeg g) (b.dramWrite x v)).Inv :=
      (h.dramWrite _ _).via (modFrame_frame (by decide))
    exact .ite h (.via (.ite ((put.dramWrite _ _).dramWrite _ _) put) (sendSegToken_frame (by decide)))
  · exact h

theorem writeStats_inv {frame : Nat} {rec_ : List Byte} {d : Dest} {b : Block} (h : b.Inv) :
    (writeStats frame rec_ d b).Inv := by
  unfold writeStats
  split
  · have put {g : JSeg} : (modFrame frame (putSeg g) b).Inv := h.via (modFrame_frame (by decide))
    exact (((put.dramWrite _ _).dramWrite _ _).dramWrite _ _).via (sendSegToken_frame (by decide))
  · exact h

theorem finishFrame_inv {frame : Nat} {b : Block} (h : b.Inv) : (finishFrame frame b).Inv := by
  unfold finishFrame
  split
  · exact h
  · split
    · refine .ite h (.via (.via (.via (.ite h (h.foldl fun x d hx => writeStats_inv hx)) (mergeDigest_frame (by decide)))
        (closeFrame_frame (by decide))) (Block.modJade_frame (by decide)))
    · exact h

theorem stripeProcess_inv {ecc : Ecc} {kind : RefKind} {b : Block} (h : b.Inv) : (stripeProcess ecc kind b).Inv := by
  unfold stripeProcess
  split
  · exact h
  · split
    · exact h
    · split
      · exact h
      · next f _ l _ _ ks s _ =>
        extract_lets frame checked poisoned missed done get stripe marks m stats replaced stored told mine wrote
        have hchecked : checked.Inv := (h.via (announce_frame (by decide))).via (eccCount_frame (by decide))
        have hpoisoned : poisoned.Inv := .ite (hchecked.via (poisonRef_frame (by decide))) hchecked
        have hmissed : missed.Inv := hpoisoned.via (tellOpal_frame (by decide))
        have hstored : stored.Inv := hmissed.via (modFrame_frame (by decide))
        have htold : told.Inv := hstored.via (tellOpal_frame (by decide))
        exact finishFrame_inv (htold.foldl fun x d hx => writeSegStripe_inv hx)

theorem profileToken_inv {bad1 bad2 : Bool} {ecc : Ecc} {b : Block} (h : b.Inv) : (profileToken bad1 bad2 ecc b).Inv := by
  unfold profileToken
  split
  · next t _ _ =>
    refine .ite h ?_
    extract_lets again acked bytes checked wrong bad stored
    have hacked : acked.Inv := .ite h (h.via (Block.modCh_frame (by decide)))
    have hchecked : checked.Inv := (hacked.via (keepToken_frame (by decide))).via (eccCount_frame (by decide))
    have hstored : stored.Inv := hchecked.via (modFrame_frame (by decide))
    exact .ite (hacked.via (takeToken_frame (by decide))) (finishFrame_inv (.ite hstored (tapCopy_inv hstored)))
  · exact h

theorem destinationSet_inv {b : Block} (h : b.Inv) : (destinationSet b).Inv := by
  unfold destinationSet
  split
  · exact h
  · extract_lets taken kept
    have htaken : taken.Inv := (h.via (Block.modCh_frame (by decide))).via (Block.modJade_frame (by decide))
    have hkept : kept.Inv := htaken.via (Block.modCh_frame (by decide))
    have hdests {f : JFrame → JFrame} {n : Nat} : (modFrame n f kept).Inv := hkept.via (modFrame_frame (by decide))
    exact .ite htaken (.ite (finishFrame_inv hdests) (hkept.via (Block.modJade_frame (by decide))))

theorem takeReservation_inv {r : Nat × Nat × Option Nat} {b : Block} (h : b.Inv) : (takeReservation r b).Inv :=
  finishFrame_inv (h.via (Block.modJade_frame (by decide)))

theorem retentionReservation_inv {b : Block} (h : b.Inv) : (retentionReservation b).Inv := by
  unfold retentionReservation
  split
  · exact h
  · extract_lets taken
    have htaken : taken.Inv := h.via (Block.modCh_frame (by decide))
    exact .ite htaken (takeReservation_inv (htaken.via (Block.modCh_frame (by decide))))

theorem stagingReservation_inv {b : Block} (h : b.Inv) : (stagingReservation b).Inv := by
  unfold stagingReservation
  split
  · exact h
  · extract_lets taken
    have htaken : taken.Inv := h.via (Block.modCh_frame (by decide))
    exact .ite htaken (takeReservation_inv (htaken.via (Block.modCh_frame (by decide))))

theorem holdRef_inv {k : RefKind} {id : Nat} {payload : List Byte} {b : Block} (h : b.Inv) : (holdRef k id payload b).Inv := by
  unfold holdRef
  exact (h.dramWrite _ _).via (Block.modJade_frame (by decide))

theorem finishCtrl_inv {idx st fr val det : Nat} {b : Block} (h : b.Inv) : (finishCtrl idx st fr val det b).Inv :=
  h.via (finishCtrl_frame (by decide))

theorem refLoad_inv {desc : Nat} {buf : Option (List Byte)} {b : Block} (h : b.Inv) : (refLoad desc buf b).Inv := by
  unfold refLoad
  split
  · exact h
  · dsimp only
    refine .ite h ?_
    split
    · exact finishCtrl_inv h
    · refine .ite (finishCtrl_inv h) (.ite (finishCtrl_inv h) (.ite (finishCtrl_inv h) (.ite (finishCtrl_inv h) ?_)))
      split
      · exact finishCtrl_inv h
      · exact .ite (finishCtrl_inv h) (.ite (finishCtrl_inv h)
          (.ite (finishCtrl_inv (holdRef_inv h)) (h.via (Block.modJade_frame (by decide)))))

theorem refSlotFreed_inv {b : Block} (h : b.Inv) : (refSlotFreed b).Inv := by
  unfold refSlotFreed
  extract_lets b0 freed
  have hfreed : freed.Inv := h.via (Block.modJade_frame (by decide))
  split
  · exact hfreed
  · exact finishCtrl_inv (holdRef_inv (hfreed.via (Block.modJade_frame (by decide))))

theorem shareEncryptionRequest_inv {b : Block} (h : b.Inv) : (shareEncryptionRequest b).Inv := by
  unfold shareEncryptionRequest
  split
  · exact h
  · next r rest _ =>
    dsimp only
    split
    · exact h
    · next v _ =>
      have taken : (b.modCh (fun c => { c with onyxSpinel := rest })).Inv := h.via (Block.modCh_frame (by decide))
      exact ((taken.dramWrite r.dst v).via (issueCmd_frame (by decide))).via (serveOnyx_frame (by decide))

/-! ### The Event Recorder -/

theorem modEvr_inv {f : Evr → Evr} {b : Block} (h : b.Inv) : (modEvr f b).Inv := h.modBeryl

theorem logEvr_inv {src : Island} {type : Nat} {p : List Byte} {k : List (List Byte)} {st : Option Nat} {b : Block}
    (h : b.Inv) : (b.logEvr src type p k st).Inv := h.via (Block.logEvr_frame (by decide))

theorem writeBlock_inv {toHost : Bool} {b : Block} (h : b.Inv) : (writeBlock toHost b).Inv := by
  unfold writeBlock
  extract_lets y bytes stored sent
  have hstored : stored.Inv := h.dramWrite _ _
  exact modEvr_inv (.ite (hstored.via (Block.hostWrite_frame (by decide))) hstored)

theorem placeEntry_inv {e : TraceEntry} {b : Block} (h : b.Inv) : (placeEntry e b).Inv := by
  unfold placeEntry
  exact modEvr_inv (.ite (writeBlock_inv h) h)

theorem traceEntry_inv {b : Block} (h : b.Inv) : (traceEntry b).Inv := by
  refine .ite h ?_
  split
  · exact h
  · exact placeEntry_inv (h.via (Block.modCh_frame (by decide)))

theorem traceBlockClose_inv {ecc : Ecc} {b : Block} (h : b.Inv) : (traceBlockClose ecc b).Inv := by
  unfold traceBlockClose
  extract_lets y due checked n lost
  have hdue : due.Inv := .ite (h.via (Block.advance_frame (by decide))) h
  have hchecked : checked.Inv := hdue.via (eccCount_frame (by decide))
  exact .ite h (.ite (logEvr_inv (modEvr_inv (writeBlock_inv hchecked))) (writeBlock_inv hchecked))

theorem endTrace_inv {b : Block} (h : b.Inv) : (endTrace b).Inv := by
  unfold endTrace
  refine .ite h ?_
  extract_lets logged es placed
  have hlogged : logged.Inv := logEvr_inv h
  have hplaced : placed.Inv := .foldl (hlogged.via (Block.modCh_frame (by decide))) fun x e hx => placeEntry_inv hx
  exact modEvr_inv (.ite hplaced (writeBlock_inv hplaced))

theorem openTrace_inv {mode : Nat} {state : EvrState} {b : Block} (h : b.Inv) : (openTrace mode state b).Inv :=
  h.via (openTrace_frame (by decide))

theorem evrRecord_inv {w : Nat} {b : Block} (h : b.Inv) : (evrRecord w b).Inv := by
  have set1 : (setEvrCtrl 1 (bitOf w 2) b).Inv := setEvrCtrl_inv h (by decide)
  exact .ite h (.ite (setEvrCtrl_inv h (by decide)) (.ite (modEvr_inv set1) (logEvr_inv (openTrace_inv set1))))

theorem evrOff_inv {w : Nat} {b : Block} (h : b.Inv) : (evrOff w b).Inv :=
  .ite h (.ite (setEvrCtrl_inv h (by decide)) (modEvr_inv (endTrace_inv (setEvrCtrl_inv h (bitsOf_lt ..)))))

theorem evrReplay_inv {w : Nat} {b : Block} (h : b.Inv) : (evrReplay w b).Inv :=
  .ite h (.ite (setEvrCtrl_inv h (by decide))
    (.ite (openTrace_inv (endTrace_inv (setEvrCtrl_inv h (by decide)))) (modEvr_inv h)))

theorem inject_inv {s : Snapshot} {ord : Nat} {marks : BitVec 16} {data : List Byte} {a : Nat} {b : Block} (h : b.Inv) :
    (inject s ord marks data a b).Inv := by
  unfold inject
  exact (Block.Inv.dramWrite (h.via (Block.modJade_frame (by decide))) _ _).via (sendTokens_frame (by decide))

theorem diverge_inv {seq : Nat} {b : Block} (h : b.Inv) : (diverge seq b).Inv := modEvr_inv h

theorem takeTap_inv {h data : List Byte} {b : Block} (hb : b.Inv) : (takeTap h data b).Inv := by
  unfold takeTap
  dsimp only
  refine .ite hb (.ite (diverge_inv hb) ?_)
  split
  · exact .ite (modEvr_inv hb) hb
  · refine .ite (diverge_inv hb) ?_
    split
    · exact modEvr_inv (inject_inv hb)
    · exact hb

theorem replayFeed_inv {r : ReplayRead} {b : Block} (h : b.Inv) : (replayFeed r b).Inv := by
  refine .ite h (.via ?_ (runFeed_frame (by decide)))
  cases r with
  | block l => exact h.via (takeBlock_frame (by decide))
  | tap t d => exact takeTap_inv h
  | nothing => exact h

/-! ### Resets and power -/

theorem modTopaz_inv {f : Topaz → Topaz} {b : Block} (h : b.Inv) : (b.modTopaz f).Inv :=
  h.via (Block.modTopaz_frame (by decide))

theorem modPwr_inv {f : Power → Power} {b : Block} (h : b.Inv) : (modPwr f b).Inv := h.via (modPwr_frame (by decide))

theorem modPack_inv {f : Pack → Pack} {b : Block} (h : b.Inv) : (modPack f b).Inv := h.via (modPack_frame (by decide))

theorem tellHold_inv {b : Block} (h : b.Inv) : (tellHold b).Inv := h.via (tellHold_frame (by decide))

theorem settleHold_inv {b : Block} (h : b.Inv) : (settleHold b).Inv := h.via (settleHold_frame (by decide))

theorem portsOff_inv {l : List Nat} {b : Block} (h : b.Inv) : (l.foldl (fun b m => setMagpwr m false b) b).Inv :=
  h.foldl fun _ _ hx => hx.via (setMagpwr_frame (by decide))

/-- The fuses and their margins outlast every reset; DRAM does not, and of the registers Topaz's alone. -/
theorem resetIslands_inv {b : Block} (h : b.Inv) : (resetIslands b).Inv where
  dram := rfl
  regs := (h.filterRegs _).regs
  reserved := (h.filterRegs _).reserved
  fuses := h.fuses
  weak := h.weak
  soft := h.soft

theorem resetAll_inv {b : Block} (h : b.Inv) : (resetAll b).Inv :=
  { resetIslands_inv h with regs := rfl, reserved := rfl }

theorem startDrop_inv {r : DropReason} {b : Block} (h : b.Inv) : (startDrop r b).Inv := by
  unfold startDrop
  refine .ite h ?_
  extract_lets cut latched off waits reset
  have hlatched : latched.Inv := by
    dsimp only [latched]
    split
    · exact (modTopaz_inv h).via (latchEntry_frame (by decide))
    · exact h
  have hreset : reset.Inv := resetIslands_inv (modTopaz_inv (modPwr_inv (portsOff_inv hlatched)))
  split
  · exact modTopaz_inv hreset
  · exact (modTopaz_inv hreset).via (railsDown_frame (by decide))

theorem keyAct_inv {a : KeyAction} {b : Block} (h : b.Inv) : (keyAct a b).Inv := .ite (modPwr_inv h) (startDrop_inv h)

theorem shipModeEnter_inv {b : Block} (h : b.Inv) : (shipModeEnter b).Inv := .ite (keyAct_inv (modPwr_inv h)) h

theorem keyNRelease_inv {held : Nat} {b : Block} (h : b.Inv) : (keyNRelease held b).Inv := by
  unfold keyNRelease
  extract_lets p restart logged
  have hlogged : logged.Inv := (modPwr_inv h).via (logKey_frame (by decide))
  exact .ite h (.ite (keyAct_inv (tellHold_inv hlogged)) hlogged)

theorem controlStep_inv {mv : Nat} {ma : Int} {vbus : Nat} {b : Block} (h : b.Inv) : (controlStep mv ma vbus b).Inv := by
  unfold controlStep
  refine .ite h ?_
  extract_lets w configured measured checked phased settled
  have hsettled : settled.Inv := settleHold_inv (modPack_inv (modPack_inv (modPack_inv (modPack_inv (modPwr_inv h)))))
  exact .ite (startDrop_inv hsettled) hsettled

theorem beginPowerUp_inv {b : Block} (h : b.Inv) : (beginPowerUp b).Inv := by
  unfold beginPowerUp
  exact tellHold_inv ((modTopaz_inv (modPwr_inv (resetAll_inv h))).via (settleFaultPin_frame (by decide)))

theorem topazStart_inv {ohms : Nat} {temp : Int} {b : Block} (h : b.Inv) : (topazStart ohms temp b).Inv :=
  .ite h (((resetAll_inv h).via (upd_topaz_frame (by decide))).via (packRead_frame (by decide)))

theorem vddAoLoss_inv {b : Block} (h : b.Inv) : (vddAoLoss b).Inv := .ite h ((resetAll_inv h).via (upd_topaz_frame (by decide)))

theorem railFailed_inv {k code : Nat} {b : Block} (h : b.Inv) : (railFailed k code b).Inv := startDrop_inv (modTopaz_inv h)

theorem railTimeout_inv {b : Block} (h : b.Inv) : (railTimeout b).Inv := by
  unfold railTimeout
  split
  · exact railFailed_inv h
  · exact h

theorem railPgFall_inv {k : Nat} {b : Block} (h : b.Inv) : (railPgFall k b).Inv :=
  .ite (railFailed_inv (modPwr_inv (modTopaz_inv h))) h

theorem powerUpDelay_inv {b : Block} (h : b.Inv) : (powerUpDelay b).Inv := .ite h (.ite (beginPowerUp_inv h) (modPwr_inv h))

theorem pwrGoodFall_inv {b : Block} (h : b.Inv) : (pwrGoodFall b).Inv :=
  .ite h (.ite (startDrop_inv (modPwr_inv h)) (portsOff_inv (resetAll_inv (modTopaz_inv h))))

theorem dramInitDone_inv {ok : Bool} {b : Block} (h : b.Inv) : (dramInitDone ok b).Inv :=
  .ite h (.ite (modTopaz_inv h).clearDram (resetIslands_inv (modTopaz_inv h)))

theorem mainInputReturn_inv {mv : Nat} {b : Block} (h : b.Inv) : (mainInputReturn mv b).Inv := by
  unfold mainInputReturn
  extract_lets t logged
  have hlogged : logged.Inv := (modPwr_inv (modTopaz_inv h)).via (logPower_frame (by decide))
  exact .ite h (.ite (beginPowerUp_inv hlogged) (settleHold_inv hlogged))

theorem flushReport_inv {b : Block} (h : b.Inv) : (flushReport b).Inv := .ite (startDrop_inv h) h

theorem flushDeadline_inv {b : Block} (h : b.Inv) : (flushDeadline b).Inv := .ite (startDrop_inv h) h

theorem shutDrop_inv {b : Block} (h : b.Inv) : (shutDrop b).Inv := startDrop_inv h

theorem shutdownDeadline_inv {b : Block} (h : b.Inv) : (shutdownDeadline b).Inv := by
  refine .ite h ?_
  split
  · exact .ite h ((modTopaz_inv h).via (Block.modCh_frame (by decide)))
  · exact startDrop_inv h

theorem serveTelResult_inv {b : Block} (h : b.Inv) : (serveTelResult b).Inv := by
  unfold serveTelResult
  split
  · exact h
  · extract_lets taken burned more latched
    have htaken : taken.Inv := h.via (Block.modCh_frame (by decide))
    exact .ite (modTopaz_inv (.ite (modTopaz_inv htaken) htaken))
      (shutDrop_inv (modTopaz_inv (.ite htaken (htaken.via (latchEntry_frame (by decide))))))

theorem telBurnResult_inv {lost : Nat} {b : Block} (h : b.Inv) : (telBurnResult lost b).Inv :=
  .ite h (serveTelResult_inv ((h.via (Block.modCh_frame (by decide))).via (berylGap_frame (by decide))))

theorem railDropTimeout_inv {b : Block} (h : b.Inv) : (railDropTimeout b).Inv := by
  unfold railDropTimeout
  split
  · exact .ite (shutDrop_inv h) h
  · exact h

/-! ### Recovery and start of firmware -/

theorem loseConfig_inv {i : Island} {b : Block} (h : b.Inv) : (loseConfig i b).Inv := by
  unfold loseConfig
  extract_lets failed cleared unset
  have hfailed : failed.Inv := h.via (failDescs_frame (by decide))
  have hunset : unset.Inv := modTopaz_inv (hfailed.filterRegs _)
  split
  · exact hunset.via (Block.modGarnet_frame (by decide))
  · exact hunset.via (Block.modJade_frame (by decide))
  · exact hunset.via (Block.modSpinel_frame (by decide))
  · exact hunset.via (Block.modOpal_frame (by decide))
  · exact hunset.via (Block.modOnyx_frame (by decide))
  · exact hunset.via (Block.modAgate_frame (by decide))
  · exact hunset

theorem recoverIsland_inv {i : Island} {configOk : Bool} {b : Block} (h : b.Inv) : (recoverIsland i configOk b).Inv := by
  unfold recoverIsland
  extract_lets s was lost action
  split
  extract_lets c logged woken cleared configured running restamped settled first
  have hwoken : woken.Inv := (h.via (logFault_frame (by decide))).via (Block.modIsl_frame (by decide))
  have hcleared : cleared.Inv := .via (.ite hwoken (hwoken.via (failHeld_frame (by decide)))) (clearWork_frame (by decide))
  have hconfigured : configured.Inv := .ite hcleared (loseConfig_inv hcleared)
  have hrestamped : restamped.Inv := (hconfigured.via (Block.modIsl_frame (by decide))).via (restamp_frame (by decide))
  have hsettled : settled.Inv := (modTopaz_inv hrestamped).via (settleFaultPin_frame (by decide))
  exact (hsettled.via (resumeIsland_frame (by decide))).via (postIslandFault_frame (by decide))

theorem islandRecovery_inv {i : Island} {ok configOk : Bool} {b : Block} (h : b.Inv) : (islandRecovery i ok configOk b).Inv :=
  .ite h (.ite (recoverIsland_inv h) (.ite h (h.via (failStopIsland_frame (by decide)))))

theorem modThm_inv {f : Thermal → Thermal} {b : Block} (h : b.Inv) : (modThm f b).Inv := h.via (modThm_frame (by decide))

theorem berylBack_inv {mvs : List Nat} {lost : List Island} {b : Block} (h : b.Inv) : (berylBack mvs lost b).Inv := by
  unfold berylBack
  extract_lets t read unbegun formed new device stepped recovered present logged
  have hread : read.Inv := (modThm_inv h).via (Block.modCh_frame (by decide))
  have hformed : formed.Inv := (modThm_inv hread).via (formStates_frame (by decide))
  have hdevice : device.Inv := modThm_inv hformed
  have hstepped : stepped.Inv := .ite (hdevice.via (stepUp_frame (by decide))) hdevice
  have hrecovered : recovered.Inv := hstepped.foldl fun _ _ hx => .ite (recoverIsland_inv hx) hx
  have hlogged : logged.Inv := (modTopaz_inv hrecovered).via (logBeryl_frame (by decide))
  exact resumeRun_inv (hlogged.via (postEvent_frame (by decide)))

theorem berylRestartDone_inv {patchOk : Bool} {mv : Nat} {bad : List Island} {more : List Nat} {b : Block} (h : b.Inv) :
    (berylRestartDone patchOk mv bad more b).Inv := .ite h (berylBack_inv (modTopaz_inv h).modBeryl)

theorem patchImageRead_inv {data : Option (List Byte)} {mv : Nat} {bad : List Island} {more : List Nat} {b : Block} (h : b.Inv) :
    (patchImageRead data mv bad more b).Inv := .ite h (berylBack_inv (modTopaz_inv h.modBeryl))

theorem romStart_inv {romOk : Bool} {b : Block} (h : b.Inv) : (romStart romOk b).Inv := by
  unfold romStart
  refine .ite h (.ite h.modBeryl (.ite h.modBeryl (.ite h ?_)))
  extract_lets staged
  have hstaged : staged.Inv := modTopaz_inv h
  exact (hstaged.modBeryl.via (formStates_frame (by decide))).via (settleDevice_frame (by decide))

/-! ### Every command keeps the invariant -/

/-- A command whose frame leaves DRAM, the registers and the fuses alone keeps the invariant. -/
theorem Completes.keeps {c : Instr} {s : State} {ps : List Piece} (k : Completes c s (fun t => onlyChanges ps s.blk t))
    (h : s.blk.Inv) (hp : .dram ∉ ps ∧ .regs ∉ ps ∧ .otc ∉ ps := by decide) : Completes c s Block.Inv := by
  obtain ⟨t, ht, hq, frame⟩ := k
  exact ⟨t, ht, hq, h.of_frame frame hp⟩

theorem exec_keeps_inv (c : Instr) {s : State} (h : s.blk.Inv) : Completes c s Block.Inv := by
  cases c with
  | cad0Event => exact (frame_cad0Event s).keeps h
  | cad1Event => exact (frame_cad1Event s).keeps h
  | cadenceChannelEvent ch => exact (frame_cadenceChannelEvent ch s).keeps h
  | strobeOn k => exact (frame_strobeOn k s).keeps h
  | strobeOff k => exact (frame_strobeOff k s).keeps h
  | strbCfgWrite _ _ => exact ⟨_, rfl, rfl, strbCfgWrite_inv h⟩
  | tbLoRead => exact (frame_tbLoRead s).keeps h
  | cadLastLoRead => exact (frame_cadLastLoRead s).keeps h
  | capApply => exact (frame_capApply s).keeps h
  | refInEdge stamp level held => exact (frame_refInEdge stamp level held s).keeps h
  | compareEvent => exact (frame_compareEvent s).keeps h
  | refLoss => exact (frame_refLoss s).keeps h
  | qualificationEnd => exact (frame_qualificationEnd s).keeps h
  | acquireTimeout => exact (frame_acquireTimeout s).keeps h
  | alignmentStage => exact (frame_alignmentStage s).keeps h
  | alignmentCheckEnd => exact (frame_alignmentCheckEnd s).keeps h
  | ppsInEdge stamp level held => exact (frame_ppsInEdge stamp level held s).keeps h
  | timeOfDay desc => exact (frame_timeOfDay desc s).keeps h
  | relock desc => exact (frame_relock desc s).keeps h
  | cadence desc => exact (frame_cadence desc s).keeps h
  | subFrameStart scene lost => exact (frame_subFrameStart scene lost s).keeps h
  | triggerEvent lost => exact (frame_triggerEvent lost s).keeps h
  | frameProgram desc => exact (frame_frameProgram desc s).keeps h
  | takeStart desc => exact (frame_takeStart desc s).keeps h
  | takeStop desc => exact (frame_takeStop desc s).keeps h
  | trigger desc => exact (frame_trigger desc s).keeps h
  | thermalStep => exact (frame_thermalStep s).keeps h
  | stopRequest => exact (frame_stopRequest s).keeps h
  | drainStripeDone => exact ⟨_, rfl, rfl, gated_inv h (drainStripeDone_inv h)⟩
  | stripeTokenAck => exact (frame_stripeTokenAck s).keeps h
  | powerLossStop => exact (frame_powerLossStop s).keeps h
  | garnetShutdown => exact (frame_garnetShutdown s).keeps h
  | frameBoundRecord => exact (frame_frameBoundRecord s).keeps h
  | frameHeaderToken => exact (frame_frameHeaderToken s).keeps h
  | stripeToken _ _ _ => exact ⟨_, rfl, rfl, served_inv h (jadeFails_inv h fun _ => stripeToken_inv) (stripeToken_inv h)⟩
  | stripeProcess _ _ => exact ⟨_, rfl, rfl, gated_inv h (stripeProcess_inv h)⟩
  | profileToken _ _ _ => exact ⟨_, rfl, rfl, served_inv h (jadeFails_inv h fun _ => profileToken_inv) (profileToken_inv h)⟩
  | destinationSet => exact ⟨_, rfl, rfl, served_inv h (h.via (jadeDropsSet_frame (by decide))) (destinationSet_inv h)⟩
  | retentionReservation =>
    exact ⟨_, rfl, rfl, served_inv h (h.via (jadeDropsRetention_frame (by decide))) (retentionReservation_inv h)⟩
  | stagingReservation =>
    exact ⟨_, rfl, rfl, served_inv h (h.via (jadeDropsStaging_frame (by decide))) (stagingReservation_inv h)⟩
  | procSettings desc => exact (frame_procSettings desc s).keeps h
  | procSettingsResume => exact (frame_procSettingsResume s).keeps h
  | refLoad _ _ => exact ⟨_, rfl, rfl, gated_inv h (refLoad_inv h)⟩
  | refUnload desc => exact (frame_refUnload desc s).keeps h
  | refSlotFreed => exact ⟨_, rfl, rfl, gated_inv h (refSlotFreed_inv h)⟩
  | clrCounts => exact (frame_clrCounts s).keeps h
  | clockDivisionRequest => exact (frame_clockDivisionRequest s).keeps h
  | jadeClockDivide => exact (frame_jadeClockDivide s).keeps h
  | segmentStripeToken ecc => exact (frame_segmentStripeToken ecc s).keeps h
  | keyLoad desc buf => exact (frame_keyLoad desc buf s).keeps h
  | keyRelease => exact (frame_keyRelease s).keeps h
  | zeroise w => exact (frame_zeroise w s).keeps h
  | shareEncryptionRequest =>
    exact ⟨_, rfl, rfl, served_inv h (h.via (spinelFailsShare_frame (by decide))) (shareEncryptionRequest_inv h)⟩
  | hostStripeMoved => exact (frame_hostStripeMoved s).keeps h
  | poll page => exact (frame_poll page s).keeps h
  | descriptorFetched r data => exact (frame_descriptorFetched r data s).keeps h
  | nop r desc => exact (frame_nop r desc s).keeps h
  | contextOpen desc => exact (frame_contextOpen desc s).keeps h
  | contextCloseDrain desc => exact (frame_contextCloseDrain desc s).keeps h
  | contextCloseAbort desc => exact (frame_contextCloseAbort desc s).keeps h
  | contextCloseFinish c word posted => exact (frame_contextCloseFinish c word posted s).keeps h
  | magSet desc => exact (frame_magSet desc s).keeps h
  | magQuery desc => exact (frame_magQuery desc s).keeps h
  | seqTransferTx desc buf => exact (frame_seqTransferTx desc buf s).keeps h
  | seqTransferRx desc => exact (frame_seqTransferRx desc s).keeps h
  | seqTransferProgram desc buf cycles => exact (frame_seqTransferProgram desc buf cycles s).keeps h
  | seqTransferTimeout desc => exact (frame_seqTransferTimeout desc s).keeps h
  | outcomeQuery desc => exact (frame_outcomeQuery desc s).keeps h
  | bufferPost c desc => exact (frame_bufferPost c desc s).keeps h
  | bufWaitExpiry => exact (frame_bufWaitExpiry s).keeps h
  | timeRecord => exact (frame_timeRecord s).keeps h
  | latchNoticeOpal lost => exact (frame_latchNoticeOpal lost s).keeps h
  | latchNoticeSpinel lost => exact (frame_latchNoticeSpinel lost s).keeps h
  | latchNoticeOnyx lost => exact (frame_latchNoticeOnyx lost s).keeps h
  | garnetOutcome => exact (frame_garnetOutcome s).keeps h
  | destinationOutcome => exact (frame_destinationOutcome s).keeps h
  | ledgerPublish => exact (frame_ledgerPublish s).keeps h
  | berylEventRecord => exact (frame_berylEventRecord s).keeps h
  | msixHoldoffExpiry v => exact (frame_msixHoldoffExpiry v s).keeps h
  | msixMaskWrite _ => exact ⟨_, rfl, rfl, msixMaskWrite_inv h⟩
  | ctrlRingStart w => exact (frame_ctrlRingStart w s).keeps h
  | ledgerRingStart w => exact (frame_ledgerRingStart w s).keeps h
  | hostLinkDown => exact (frame_hostLinkDown s).keeps h
  | hostLinkUp rate width => exact (frame_hostLinkUp rate width s).keeps h
  | hostPerst => exact (frame_hostPerst s).keeps h
  | fundamentalReset => exact ⟨_, rfl, rfl, fundamentalReset_inv h⟩
  | grnFrameLoRead => exact (frame_grnFrameLoRead s).keeps h
  | islCommit w => exact (frame_islCommit w s).keeps h
  | islUncommit w => exact (frame_islUncommit w s).keeps h
  | registerWrite _ _ _ => exact ⟨_, rfl, rfl, registerWrite_inv h⟩
  | onyxFlushReport => exact (frame_onyxFlushReport s).keeps h
  | flushReadComplete => exact (frame_flushReadComplete s).keeps h
  | opalFlushTimeout => exact (frame_opalFlushTimeout s).keeps h
  | magazineLinkUp m gen width vs cap => exact (frame_magazineLinkUp m gen width vs cap s).keeps h
  | magazineLinkDown m also => exact (frame_magazineLinkDown m also s).keeps h
  | nvmeCompletion m cid status sqhd data => exact (frame_nvmeCompletion m cid status sqhd data s).keeps h
  | cmdTimeout m cid => exact (frame_cmdTimeout m cid s).keeps h
  | smartPoll => exact (frame_smartPoll s).keeps h
  | magazineDmaViolation m => exact (frame_magazineDmaViolation m s).keeps h
  | magazineStripeToken ecc => exact (frame_magazineStripeToken ecc s).keeps h
  | expiryRequest => exact (frame_expiryRequest s).keeps h
  | reinit w => exact (frame_reinit w s).keeps h
  | retrain w => exact (frame_retrain w s).keeps h
  | onyxPowerLoss => exact (frame_onyxPowerLoss s).keeps h
  | flushWriteDeadline => exact (frame_flushWriteDeadline s).keeps h
  | shutdownWaitTimeout => exact (frame_shutdownWaitTimeout s).keeps h
  | onyxShutdown => exact (frame_onyxShutdown s).keeps h
  | magazinePowerSettled m => exact (frame_magazinePowerSettled m s).keeps h
  | seqJmp n joins => exact (frame_seqJmp n joins s).keeps h
  | seqWait n joins => exact (frame_seqWait n joins s).keeps h
  | seqIn n joins => exact (frame_seqIn n joins s).keeps h
  | seqOut n joins => exact (frame_seqOut n joins s).keeps h
  | seqPush n joins => exact (frame_seqPush n joins s).keeps h
  | seqPull n joins => exact (frame_seqPull n joins s).keeps h
  | seqMov n joins => exact (frame_seqMov n joins s).keeps h
  | seqSet n joins => exact (frame_seqSet n joins s).keeps h
  | flagRaise n joins => exact (frame_flagRaise n joins s).keeps h
  | flagDrop n joins => exact (frame_flagDrop n joins s).keeps h
  | flagTake n joins => exact (frame_flagTake n joins s).keeps h
  | flagTrig n joins => exact (frame_flagTrig n joins s).keeps h
  | seqCad n joins => exact (frame_seqCad n joins s).keeps h
  | illegalOpcode n joins => exact (frame_illegalOpcode n joins s).keeps h
  | engineEnable w => exact (frame_engineEnable w s).keeps h
  | engineHalt w => exact (frame_engineHalt w s).keeps h
  | gangChange w => exact (frame_gangChange w s).keeps h
  | seqIoEdge p level => exact (frame_seqIoEdge p level s).keeps h
  | trigInEdge joins => exact (frame_trigInEdge joins s).keeps h
  | cadenceEventAgate lost => exact (frame_cadenceEventAgate lost s).keeps h
  | gangCtrlWrite g data w => exact (frame_gangCtrlWrite g data w s).keeps h
  | gioTrigWrite _ => exact ⟨_, rfl, rfl, gioTrigWrite_inv h⟩
  | watchdogReport lost => exact (frame_watchdogReport lost s).keeps h
  | watchdogExpiry => exact (frame_watchdogExpiry s).keeps h
  | berylRestartDone _ _ _ _ => exact ⟨_, rfl, rfl, berylRestartDone_inv h⟩
  | islandFault k c => exact (frame_islandFault k c s).keeps h
  | islandRecovery _ _ _ => exact ⟨_, rfl, rfl, islandRecovery_inv h⟩
  | stall k since => exact (frame_stall k since s).keeps h
  | sensorSample l => exact (frame_sensorSample l s).keeps h
  | thermalReading ra rb => exact (frame_thermalReading ra rb s).keeps h
  | shutdownSignal lost => exact (frame_shutdownSignal lost s).keeps h
  | shutdownDeadline => exact ⟨_, rfl, rfl, shutdownDeadline_inv h⟩
  | telBurnRequest _ _ => exact ⟨_, rfl, rfl, telBurnRequest_inv h⟩
  | telBurnResult _ => exact ⟨_, rfl, rfl, telBurnResult_inv h⟩
  | railDropTimeout => exact ⟨_, rfl, rfl, railDropTimeout_inv h⟩
  | otpProgram _ _ _ => exact ⟨_, rfl, rfl, otpProgram_inv h⟩
  | otpPulseDone _ _ _ _ _ => exact ⟨_, rfl, rfl, otpPulseDone_inv h⟩
  | vppMeasure _ => exact ⟨_, rfl, rfl, vppMeasure_inv h⟩
  | otpRead _ => exact ⟨_, rfl, rfl, otpRead_inv h⟩
  | fuseLoad _ => exact ⟨_, rfl, rfl, fuseLoad_inv h⟩
  | patchLoad w => exact (frame_patchLoad w s).keeps h
  | patchImageRead _ _ _ _ => exact ⟨_, rfl, rfl, patchImageRead_inv h⟩
  | evrRecord _ => exact ⟨_, rfl, rfl, evrRecord_inv h⟩
  | evrReplay _ => exact ⟨_, rfl, rfl, evrReplay_inv h⟩
  | evrOff _ => exact ⟨_, rfl, rfl, evrOff_inv h⟩
  | traceEntry => exact ⟨_, rfl, rfl, traceEntry_inv h⟩
  | traceBlockClose _ => exact ⟨_, rfl, rfl, traceBlockClose_inv h⟩
  | replayFeed _ => exact ⟨_, rfl, rfl, replayFeed_inv h⟩
  | dramInitDone _ => exact ⟨_, rfl, rfl, dramInitDone_inv h⟩
  | romStart _ => exact ⟨_, rfl, rfl, romStart_inv h⟩
  | mainInputLoss mv => exact (frame_mainInputLoss mv s).keeps h
  | mainInputReturn _ => exact ⟨_, rfl, rfl, mainInputReturn_inv h⟩
  | keepPoweredRecord => exact (frame_keepPoweredRecord s).keeps h
  | flushReport => exact ⟨_, rfl, rfl, flushReport_inv h⟩
  | flushDeadline => exact ⟨_, rfl, rfl, flushDeadline_inv h⟩
  | eventRepeat k lost => exact (frame_eventRepeat k lost s).keeps h
  | packRead ohms temp => exact (frame_packRead ohms temp s).keeps h
  | shortCheck => exact (frame_shortCheck s).keeps h
  | prechargeTimeout => exact (frame_prechargeTimeout s).keeps h
  | chargeDone => exact (frame_chargeDone s).keeps h
  | safetyTimerExpiry => exact (frame_safetyTimerExpiry s).keeps h
  | controlStep _ _ _ => exact ⟨_, rfl, rfl, controlStep_inv h⟩
  | showEnd => exact (frame_showEnd s).keeps h
  | powerUpDelay => exact ⟨_, rfl, rfl, powerUpDelay_inv h⟩
  | keyPress => exact (frame_keyPress s).keeps h
  | keyRestartHold => exact (frame_keyRestartHold s).keeps h
  | keyShipHold => exact (frame_keyShipHold s).keeps h
  | shipModeEnter => exact ⟨_, rfl, rfl, shipModeEnter_inv h⟩
  | hupMagpwrWrite _ => exact ⟨_, rfl, rfl, hupMagpwrWrite_inv h⟩
  | clrTimer w => exact (frame_clrTimer w s).keeps h
  | topazStart _ _ => exact ⟨_, rfl, rfl, topazStart_inv h⟩
  | railPgRise k => exact (frame_railPgRise k s).keeps h
  | railEnableDelay => exact (frame_railEnableDelay s).keeps h
  | railTimeout => exact ⟨_, rfl, rfl, railTimeout_inv h⟩
  | railPgFall _ => exact ⟨_, rfl, rfl, railPgFall_inv h⟩
  | railDownStep => exact (frame_railDownStep s).keeps h
  | pwrGoodRise tcxo => exact (frame_pwrGoodRise tcxo s).keeps h
  | pwrGoodFall => exact ⟨_, rfl, rfl, pwrGoodFall_inv h⟩
  | keyNRelease _ => exact ⟨_, rfl, rfl, live_inv h (keyNRelease_inv h)⟩
  | trigInInactive => exact (frame_trigInInactive s).keeps h
  | controllerStatusChange m csts => exact (frame_controllerStatusChange m csts s).keeps h
  | pollReadTimeout => exact (frame_pollReadTimeout s).keeps h
  | islandResetRelease => exact (frame_islandResetRelease s).keeps h
  | hostLinkError => exact (frame_hostLinkError s).keeps h
  | vddAoLoss => exact ⟨_, rfl, rfl, vddAoLoss_inv h⟩

theorem idle_inv {s : State} (h : s.blk.Inv) : (idle s).blk.Inv := h.via (Block.modQuartz_frame (by decide))

end Sys2Proof.Machine

section
open Sys2Proof Sys2Proof.Machine

/-- Settles O3: every command, and the tick of an empty queue, keeps the invariant. -/
theorem everyStepKeepsTheInvariant : Obligations.EveryStepKeepsTheInvariant := by
  rintro ⟨q, b⟩ t h hstep
  cases q with
  | nil =>
    obtain rfl : idle ⟨[], b⟩ = t := Host.Outcome.next.inj hstep
    exact idle_inv h
  | cons c q =>
    obtain ⟨u, hu, -, inv⟩ := exec_keeps_inv c (s := ⟨q, b⟩) h
    obtain rfl : u = t := Host.Outcome.next.inj (hu.symm.trans hstep)
    exact inv

/-- Settles O2, by evaluating the unpowered state. -/
theorem resetHoldsTheStatedValues : Obligations.ResetHoldsTheStatedValues := by
  refine ⟨rfl, reset_inv, ⟨rfl, rfl, by decide, fun i => by cases i <;> rfl⟩, fun _ => rfl, ?_⟩
  decide +kernel

end
end

section
/-! O55: what a register write stores, and what commit and uncommit of Islands do. -/

-- The proofs are elaborated one after another: each waiting in a thread of its own takes more memory than the check allows.
set_option Elab.async false

namespace Sys2Proof.Machine

/-- A command whose function answers `c` answers the next state with `c`. -/
theorem act_of_eq {f : Block → Block} {q : List Instr} {b c : Block} (h : f b = c) : act f ⟨q, b⟩ = .next ⟨q, c⟩ := by
  rw [act, h]

/-! ### What a register write does (18 R460 to R462) -/

theorem Block.reg_congr {a b : Block} (h : a.regs = b.regs) (off : Nat) : a.reg off = b.reg off := by
  unfold Block.reg
  rw [h]

theorem storeReg_reg {b : Block} {off : Nat} {r : RegRow} (w : Word) (h : mapWf regReset b.regs = true)
    (hr : regRow off = some r) :
    (storeReg off w b).reg off =
      ((BitVec.ofNat 32 (b.reg off) &&& ~~~writeMask b off r) ||| (w &&& writeMask b off r)).toNat := by
  unfold storeReg
  rw [hr]
  dsimp only
  rw [Block.setReg_reg h, Nat.mod_eq_of_lt (BitVec.isLt _)]

theorem storeReg_other {b : Block} {off o : Nat} (w : Word) (h : o ≠ off) : (storeReg off w b).reg o = b.reg o := by
  unfold storeReg
  split
  · rfl
  · exact Block.setReg_other h

theorem afterWrite_reg (off : Nat) (w : Word) (old b : Block) (o : Nat) : (afterWrite off w old b).reg o = b.reg o :=
  Block.reg_congr ((afterWrite_frame (ps := offStore) (by decide) (onlyChanges_refl _ b)).at_ .regs (by decide)) o

theorem registerWrite_taken {b : Block} {off : Nat} {w : Word} {r : RegRow} (hb : b.bar0 = true) (hr : regRow off = some r)
    (ho : ownRow off = false) (ht : takesWrite b off = true) :
    registerWrite off w 0xF b = afterWrite off w b (storeReg off w b) := by
  simp [registerWrite, hb, hr, ho, ht]

theorem registerWrite_discarded {b : Block} {off : Nat} {w : Word} {be : BitVec 4}
    (h : b.bar0 = false ∨ be ≠ 0xF ∨ regRow off = none) : registerWrite off w be b = b := by
  rcases h with h | h | h
  · simp [registerWrite, h]
  · have wrongBytes : (be != 0xF) = true := bne_iff_ne.mpr h
    simp only [registerWrite, wrongBytes, Bool.or_true, Bool.true_or, if_true]
  · simp [registerWrite, h]

theorem registerWrite_kept (off : Nat) (w : Word) (be : BitVec 4) (b : Block) :
    onlyChanges [.disc, .tod, .agate, .thm, .topaz, .regs] b (registerWrite off w be b) :=
  registerWrite_frame (by decide) (onlyChanges_refl _ _)

/-- A write that is taken changes the bits of its register that `writeMask` names, and nothing in another register. -/
theorem registerWrite_stores {b : Block} {off : Nat} {w : Word} {r : RegRow} (hb : b.bar0 = true)
    (h : mapWf regReset b.regs = true) (hr : regRow off = some r) (ho : ownRow off = false) (ht : takesWrite b off = true) :
    (registerWrite off w 0xF b).reg off =
        ((BitVec.ofNat 32 (b.reg off) &&& ~~~writeMask b off r) ||| (w &&& writeMask b off r)).toNat ∧
      ∀ o, o ≠ off → (registerWrite off w 0xF b).reg o = b.reg o := by
  rw [registerWrite_taken hb hr ho ht]
  exact ⟨(afterWrite_reg ..).trans (storeReg_reg w h hr), fun o hne => (afterWrite_reg ..).trans (storeReg_other w hne)⟩

/-- The locked bits of an Island that is uncommitted, each bit locked by the Island of its number (18 R466). -/
theorem lockBits_getLsbD (c : Island → Bool) (x : Word) (l : List Island) {k : Nat} (hk : k < 32) (m : Word) :
    (l.foldl (fun m i => if c i then m else m ||| (x &&& BitVec.ofNat 32 (2 ^ i.num.val))) m).getLsbD k =
      (m.getLsbD k || l.any (fun i => i.num.val == k && (!c i && x.getLsbD k))) := by
  induction l generalizing m with
  | nil => simp
  | cons i l ih =>
    have hbit : (BitVec.ofNat 32 (2 ^ i.num.val)).getLsbD k = (i.num.val == k) := by
      rw [BitVec.getLsbD_ofNat, Nat.testBit_two_pow, decide_eq_true hk, Bool.true_and]
      rfl
    rw [List.foldl_cons, ih, List.any_cons]
    cases c i
    · simp only [Bool.false_eq_true, if_false, BitVec.getLsbD_or, BitVec.getLsbD_and, hbit, Bool.or_assoc, Bool.not_false,
        Bool.true_and, Bool.and_comm]
    · simp

theorem Island.num_inj {i j : Island} : i.num = j.num ↔ i = j := by
  cases i <;> cases j <;> decide

theorem Island.num_val_inj {i j : Island} : i.num.val = j.num.val ↔ i = j := by rw [Fin.val_inj, Island.num_inj]

/-- Of the Islands that a commit names, one has a given number. -/
theorem commitIslands_any_num {p : Island → Bool} {i : Island} (hi : i ∈ commitIslands) :
    commitIslands.any (fun j => j.num.val == i.num.val && p j) = p i := by
  rw [Bool.eq_iff_iff, List.any_eq_true]
  simp only [Bool.and_eq_true, beq_iff_eq, Island.num_val_inj]
  exact ⟨fun ⟨_, _, e, h⟩ => e ▸ h, fun h => ⟨i, hi, rfl, h⟩⟩

/-- The row of CLK_SPREAD. -/
def spreadRow : RegRow := ⟨0x0010, 4, 1, 0x1FC, 0x180, 0x7C, .topaz⟩

theorem regRow_spread : regRow 0x0010 = some spreadRow := by decide

/-- Bits 2 to 6 of CLK_SPREAD take a write while the Island of the bit's number is uncommitted. -/
theorem writeMask_spread {b : Block} {i : Island} (hi : i ∈ commitIslands) (h2 : 2 ≤ i.num.val) :
    (writeMask b 0x0010 spreadRow).getLsbD i.num.val = !b.committed i := by
  rw [writeMask, if_pos rfl, lockBits_getLsbD b.committed _ _ (by omega)]
  have hrwl : spreadRow.rwl.getLsbD i.num.val = true ∧ spreadRow.rw.getLsbD i.num.val = false := by
    revert hi h2; cases i <;> decide
  rw [hrwl.1, hrwl.2, commitIslands_any_num hi, Bool.false_or, Bool.and_true]

theorem takesWrite_spread (b : Block) : takesWrite b 0x0010 = true := rfl

/-- Bits 2 to 6 of CLK_SPREAD after a write. -/
theorem registerWrite_spread_reg {b : Block} {w : Word} {i : Island} (hb : b.bar0 = true) (h : mapWf regReset b.regs = true)
    (hi : i ∈ commitIslands) (h2 : 2 ≤ i.num.val) :
    ((registerWrite 0x0010 w 0xF b).reg 0x0010).testBit i.num.val =
      if b.committed i = true then (b.reg 0x0010).testBit i.num.val else w.getLsbD i.num.val := by
  have hlt : i.num.val < 32 := by omega
  obtain ⟨stored, -⟩ := registerWrite_stores (w := w) hb h regRow_spread rfl (takesWrite_spread b)
  rw [stored, BitVec.testBit_toNat]
  simp only [BitVec.getLsbD_or, BitVec.getLsbD_and, BitVec.getLsbD_not, writeMask_spread hi h2, BitVec.getLsbD_ofNat,
    decide_eq_true hlt]
  cases b.committed i <;> simp

/-- Bits 7 and 8 of CLK_SPREAD, those of Beryl and Topaz, act at once. -/
theorem registerWrite_spread_topaz {b : Block} {w : Word} {k : Nat} (hb : b.bar0 = true) (hk : (0x180 : Word).getLsbD k = true) :
    (registerWrite 0x0010 w 0xF b).topaz.spread.getLsbD k = w.getLsbD k := by
  rw [registerWrite_taken hb regRow_spread rfl (takesWrite_spread b)]
  show (((storeReg 0x0010 w b).topaz.spread &&& ~~~(0x180 : Word)) ||| (w &&& 0x180)).getLsbD k = w.getLsbD k
  simp only [BitVec.getLsbD_or, BitVec.getLsbD_and, BitVec.getLsbD_not, hk, Bool.not_true, Bool.and_false, Bool.false_or,
    Bool.and_true]

/-- A write of TC_PRESET waits for the timecode generator. -/
theorem registerWrite_tcPreset {b : Block} {w : Word} (hb : b.bar0 = true) :
    (registerWrite 0x121C w 0xF b).tod.presetWait = some w := by
  have row : regRow 0x121C = some ⟨0x121C, 4, 1, 0, 0xFFFFFFFF, 0, .quartz⟩ := by decide
  rw [registerWrite_taken hb row rfl rfl]
  rfl

/-! ### Commit and uncommit (18 R463, R464) -/

theorem commitOne_commit (i : Island) (b : Block) : (commitOne i b).topaz.commit = b.topaz.commit.set i.num true := by
  unfold commitOne
  extract_lets k awaits marked spread spreads
  have hspreads : spreads.topaz.commit = b.topaz.commit.set i.num true := rfl
  split
  · have kept (x : Block) : (restamp i x).topaz = x.topaz :=
      (restamp_frame (ps := [.posts, .ch, .trace]) (by decide) (onlyChanges_refl _ x)).at_ .topaz (by decide)
    rw [kept]
    exact hspreads
  · exact hspreads

theorem uncommitOne_commit (i : Island) (b : Block) : (uncommitOne i b).topaz.commit = b.topaz.commit.set i.num false := by
  unfold uncommitOne
  dsimp only
  split <;> rfl

theorem get_set (v : Vector Bool 9) (i j : Island) (x : Bool) : (v.set i.num x).get j.num = if j = i then x else v.get j.num := by
  show (v.set i.num x)[j.num.val] = if j = i then x else v[j.num.val]
  simp only [Vector.getElem_set, Island.num_val_inj, eq_comm (a := i)]

theorem commitOne_committed (i : Island) (b : Block) (j : Island) :
    (commitOne i b).committed j = (b.committed j || j == i) := by
  unfold Block.committed
  rw [commitOne_commit, get_set]
  by_cases hj : j = i <;> simp [hj]

theorem uncommitOne_committed (i : Island) (b : Block) (j : Island) :
    (uncommitOne i b).committed j = (b.committed j && !(j == i)) := by
  unfold Block.committed
  rw [uncommitOne_commit, get_set]
  by_cases hj : j = i <;> simp [hj]

theorem uncommitOne_refused (i : Island) (b : Block) : (uncommitOne i b).topaz.refused = b.topaz.refused := by
  unfold uncommitOne
  dsimp only
  split <;> rfl

theorem commitAll_committed (l : List Island) (b : Block) (j : Island) :
    (l.foldl (fun b i => commitOne i b) b).committed j = (b.committed j || l.contains j) := by
  induction l generalizing b with
  | nil => simp
  | cons i l ih => rw [List.foldl_cons, ih, commitOne_committed, List.contains_cons, Bool.or_assoc]

theorem uncommitAll_committed (l : List Island) (b : Block) (j : Island) :
    (l.foldl (fun b i => uncommitOne i b) b).committed j = (b.committed j && !l.contains j) := by
  induction l generalizing b with
  | nil => simp
  | cons i l ih => rw [List.foldl_cons, ih, uncommitOne_committed, List.contains_cons, Bool.not_or, Bool.and_assoc]

theorem uncommitAll_refused (l : List Island) (b : Block) :
    (l.foldl (fun b i => uncommitOne i b) b).topaz.refused = b.topaz.refused := by
  induction l generalizing b with
  | nil => rfl
  | cons i l ih => rw [List.foldl_cons, ih, uncommitOne_refused]

theorem contains_filter {p : Island → Bool} {l : List Island} {i : Island} (hi : i ∈ l) : (l.filter p).contains i = p i := by
  rw [Bool.eq_iff_iff, List.contains_iff_mem, List.mem_filter]
  exact and_iff_right hi

theorem islCommit_committed {b : Block} {w : Word} {i : Island} (hb : b.bar0 = true) (hi : i ∈ commitIslands) :
    (islCommit w b).committed i = (b.committed i || w.getLsbD i.num.val) := by
  unfold islCommit
  rw [hb]
  have served (x : Block) : (serveRing ctrlRing x).topaz = x.topaz :=
    (serveRing_frame (ps := [.posts, .evr, .trace, .out]) (by decide) (onlyChanges_refl _ x)).at_ .topaz (by decide)
  have served_committed (x : Block) : (serveRing ctrlRing x).committed i = x.committed i :=
    congrArg (fun t : Topaz => t.commit.get i.num) (served x)
  simp only [Bool.not_true, Bool.false_eq_true, if_false, served_committed, commitAll_committed, contains_filter hi]
  cases b.committed i <;> simp

/-- The Islands that an uncommit names: its CONFIRM is right, and they are committed. -/
def uncommitNames (w : Word) (b : Block) (i : Island) : Bool :=
  bitsOf w.toNat 15 8 == 0xA5 && w.getLsbD i.num.val && b.committed i

theorem islUncommit_committed {b : Block} {w : Word} {i : Island} (hb : b.bar0 = true) (hi : i ∈ commitIslands) :
    (islUncommit w b).committed i = (b.committed i && !(uncommitNames w b i && islandIdle b i)) := by
  unfold islUncommit
  simp only [hb, Bool.not_true, Bool.false_eq_true, if_false, uncommitAll_committed, contains_filter hi]
  rfl

theorem vget_ofFn {α : Type} {n k : Nat} (f : Fin n → α) {d : α} (hk : k < n) : vget (Vector.ofFn f) k d = f ⟨k, hk⟩ := by
  simp [vget, Vector.getD, hk]

theorem islUncommit_refused {b : Block} {w : Word} {i : Island} (hb : b.bar0 = true) (hi : i ∈ commitIslands) :
    vget (islUncommit w b).topaz.refused i.num.val false = (uncommitNames w b i && !islandIdle b i) := by
  have hi7 : i.num.val < 7 := by revert hi; cases i <;> decide
  unfold islUncommit
  simp only [hb, Bool.not_true, Bool.false_eq_true, if_false, uncommitAll_refused]
  rw [Block.modTopaz_topaz, vget_ofFn _ hi7]
  simp only [Bool.and_assoc, commitIslands_any_num hi, uncommitNames]

/-- Without CONFIRM 0xA5 an uncommit changes REFUSED alone, to 0. -/
theorem islUncommit_unconfirmed {b : Block} {w : Word} (hb : b.bar0 = true) (hw : bitsOf w.toNat 15 8 ≠ 0xA5) :
    islUncommit w b = { b with topaz := { b.topaz with refused := .replicate 7 false } } := by
  have act : (bitsOf w.toNat 15 8 == 0xA5) = false := beq_eq_false_iff_ne.mpr hw
  have none_refused : Vector.ofFn (fun _ : Fin 7 => commitIslands.any fun _ => false) = .replicate 7 false := by decide
  have none_named : commitIslands.filter (fun _ => false) = [] := rfl
  unfold islUncommit
  simp only [hb, act, Bool.not_true, Bool.false_eq_true, if_false, Bool.false_and, Bool.and_false, none_named, List.foldl_nil,
    none_refused]
  rfl

end Sys2Proof.Machine

section
open Sys2Proof Sys2Proof.Machine

/-- Settles O55: a write stores the bits of `writeMask`; commits and uncommits fold over the Islands named. -/
theorem registersAreWrittenAndLocked : Obligations.RegistersAreWrittenAndLocked := by
  refine ⟨?unlocked, ?locked, ?spread, ?preset, ?discarded, ?commit, ?uncommit, ?unconfirmed, ?write, ?commits, ?uncommits⟩
  case unlocked =>
    intro q b off w r hb h hr ho ht hne hc
    have mask : writeMask b off r = r.writable := by simp [writeMask, hne, hc, RegRow.writable]
    obtain ⟨stored, others⟩ := registerWrite_stores (w := w) hb h hr ho ht
    exact ⟨_, rfl, rfl, mask ▸ stored, others, registerWrite_kept ..⟩
  case locked =>
    intro q b off w r hb h hr ho ht hne hc
    have mask : writeMask b off r = r.rw := by simp [writeMask, hne, hc]
    obtain ⟨stored, others⟩ := registerWrite_stores (w := w) hb h hr ho ht
    exact ⟨_, rfl, rfl, mask ▸ stored, others, registerWrite_kept ..⟩
  case spread =>
    intro q b w hb h
    exact ⟨_, rfl, rfl, fun i hi h2 => registerWrite_spread_reg hb h hi h2, registerWrite_spread_topaz hb (by decide),
      registerWrite_spread_topaz hb (by decide), registerWrite_kept ..⟩
  case preset =>
    intro q b w hb
    exact ⟨_, rfl, rfl, registerWrite_tcPreset hb, registerWrite_kept ..⟩
  case discarded =>
    intro q b off w be h
    exact act_of_eq (registerWrite_discarded h)
  case commit =>
    intro q b w hb
    exact ⟨_, rfl, rfl, fun i hi => islCommit_committed hb hi, islCommit_frame (by decide) (onlyChanges_refl _ _)⟩
  case uncommit =>
    intro q b w hb hw
    have names (i : Island) : uncommitNames w b i = (w.getLsbD i.num.val && b.committed i) := by simp [uncommitNames, hw]
    refine ⟨_, rfl, rfl, fun i hi => ?_, fun i hi => ?_, islUncommit_frame (by decide) (onlyChanges_refl _ _)⟩
    · refine (islUncommit_committed hb hi).trans ?_
      rw [names]
      cases b.committed i <;> simp
    · refine (islUncommit_refused hb hi).trans ?_
      rw [names]
  case unconfirmed =>
    intro q b w hb hw
    exact act_of_eq (islUncommit_unconfirmed hb hw)
  case write => exact fun q b off w be => ⟨rfl, registerWrite_kept ..⟩
  case commits => exact fun q b w => ⟨rfl, islCommit_frame (by decide) (onlyChanges_refl _ _)⟩
  case uncommits => exact fun q b w => ⟨rfl, islUncommit_frame (by decide) (onlyChanges_refl _ _)⟩

end
end

section
/-! O19: what the drain of Garnet writes, and what holds it back (01 R17 and R19, 02 R56). -/

-- The proofs are elaborated one after another: each waiting in a thread of its own takes more memory than the check allows.
set_option Elab.async false

namespace Sys2Proof.Machine

/-- A gated command of an Island that acts is its own function. -/
theorem act_gated {i : Island} {f : Block → Block} {q : List Instr} {b c : Block} (ha : b.alive i = true) (h : f b = c) :
    act (gated i f) ⟨q, b⟩ = .next ⟨q, c⟩ :=
  act_of_eq ((gated_of_alive ha).trans h)

/-- Where the drain writes Stripe `n` of Plane `k` of a job: in the reservation of its Frame (01 R19), in
steps of the size of a drained Stripe (02 R56). -/
def drainAddr (j : DrainJob) (k n : Nat) : Nat :=
  j.addr + (k * j.snap.prog.stripes + (n - j.snap.prog.drainFirst)) * stripeLen

/-- The bytes of Stripe `n` of Plane `k` of a job, as they stand in the Slot of the Plane. -/
def drainBytes (a : PixelArray) (j : DrainJob) (k n : Nat) : List Byte := stripeBytes a (j.planes.getD k (0, false, 0)).1 n

theorem sendTokens_garnetJade (toks : List StripeToken) (b : Block) :
    (sendTokens toks b).ch.garnetJade = b.ch.garnetJade ++ toks.map (fun t => .stripe { t with sent := b.stamp .jade }) := rfl

theorem drainOne_drn (j : DrainJob) (k n : Nat) (b : Block) : (drainOne j k n b).garnet.drn = .holding := rfl

theorem drainOne_dram (j : DrainJob) (k n : Nat) (b : Block) :
    (drainOne j k n b).dram = memWrite b.dram (drainAddr j k n) (drainBytes b.garnet.array j k n) := rfl

/-- The drain sends what it sends after its write to DRAM, which changes neither the channel nor the generation of Jade. -/
theorem drainOne_garnetJade (j : DrainJob) (k n : Nat) (b : Block) :
    (drainOne j k n b).ch.garnetJade = b.ch.garnetJade ++ [.stripe { stripeToken j.snap k n (drainAddr j k n) stripeLen
      (crc32c (drainBytes b.garnet.array j k n)) 0 with sent := b.stamp .jade }] :=
  sendTokens_garnetJade _ (b.dramWrite (drainAddr j k n) (drainBytes b.garnet.array j k n))

theorem drainOne_dramByte_other {j : DrainJob} {k n : Nat} {b : Block} {a : Nat}
    (h : a < drainAddr j k n ∨ drainAddr j k n + (drainBytes b.garnet.array j k n).length ≤ a) :
    (drainOne j k n b).dramByte a = b.dramByte a := memWrite_other h

theorem drainStripeDone_of_next {b : Block} {j : DrainJob} {l : List DrainJob} {k n : Nat} (hd : b.garnet.drn = .idle)
    (hj : b.garnet.jobs = j :: l) (hn : nextStripe j = some (k, n)) : drainStripeDone b = drainOne j k n b := by
  have idle : (b.garnet.drn == .holding) = false := by rw [hd]; rfl
  simp [drainStripeDone, idle, hj, hn]

theorem drainStripeDone_of_holding {b : Block} (hd : b.garnet.drn = .holding) : drainStripeDone b = b := by
  simp [drainStripeDone, hd]

theorem stripeTokenAck_of_ack {b : Block} (hack : b.ch.drnAck = true) (hd : b.garnet.drn = .holding) :
    stripeTokenAck b = (b.modCh (fun c => { c with drnAck := false })).modGarnet (fun g => { g with drn := .idle }) := by
  simp [stripeTokenAck, hack, hd]

end Sys2Proof.Machine

section
open Sys2Proof Sys2Proof.Machine

/-- Settles O19: with a next Stripe the command is `drainOne`, a held token stops it, and the acknowledgement frees it. -/
theorem drainWritesStripesAndTellsJade : Obligations.DrainWritesStripesAndTellsJade := by
  refine ⟨?drained, ?held, ?acknowledged, ?drains, ?acknowledges⟩
  case drained =>
    intro q b j l k n ha hd hj hn
    refine ⟨_, act_gated ha (drainStripeDone_of_next hd hj hn), rfl, drainOne_drn .., drainOne_garnetJade .., drainOne_dram ..,
      fun a h => drainOne_dramByte_other h, drainOne_frame (by decide) (onlyChanges_refl _ _)⟩
  case held =>
    intro q b ha hd
    exact act_gated ha (drainStripeDone_of_holding hd)
  case acknowledged =>
    intro q b ha hack hd
    exact act_gated ha (stripeTokenAck_of_ack hack hd)
  case drains =>
    exact fun q b ha => ⟨act_gated ha rfl, drainStripeDone_frame (by decide) (onlyChanges_refl _ _)⟩
  case acknowledges =>
    exact fun q b ha => ⟨act_gated ha rfl, stripeTokenAck_frame (by decide) (onlyChanges_refl _ _)⟩

end
end

section
/-! O15: the checks that Garnet makes of a Frame Program at its arrival, in the order of 03 R67. -/

-- The proofs are elaborated one after another: each waiting in a thread of its own takes more memory than the check allows.
set_option Elab.async false

namespace Sys2Proof.Machine

/-- Rows 1 to 6 of 03 R67. -/
theorem frameProgram_malformed {b : Block} {i off : Nat} {d : List Byte} (hd : b.dispatched ctrlRing i 0x01 = some d)
    (hf : programFault (parseProgram d) = some off) :
    frameProgram i b = finishCtrl i stMalformed frameNone 0 off b := by
  simp only [frameProgram, hd, hf]

/-- Row 7 of 03 R67. -/
theorem frameProgram_genStale {b : Block} {i : Nat} {d : List Byte} (hd : b.dispatched ctrlRing i 0x01 = some d)
    (hf : programFault (parseProgram d) = none) (hg : (parseProgram d).gen ≤ b.garnet.maxGen) :
    frameProgram i b = finishCtrl i stGenStale frameNone 0 0 b := by
  simp only [frameProgram, hd, hf, if_pos hg]

/-- Rows 8 and 9 of 03 R67. -/
theorem frameProgram_unfit {b : Block} {i st : Nat} {d : List Byte} (hd : b.dispatched ctrlRing i 0x01 = some d)
    (hf : programFault (parseProgram d) = none) (hg : b.garnet.maxGen < (parseProgram d).gen)
    (hfit : programFit b.quartz.cap (parseProgram d) = some st) :
    frameProgram i b = finishCtrl i st frameNone 0 0 b := by
  simp only [frameProgram, hd, hf, if_neg (Nat.not_le.mpr hg), hfit]

/-- A program that passes every row of 03 R67 is staged, and counts as accepted for row 7. -/
theorem frameProgram_staged {b : Block} {i : Nat} {d : List Byte} (hd : b.dispatched ctrlRing i 0x01 = some d)
    (hf : programFault (parseProgram d) = none) (hg : b.garnet.maxGen < (parseProgram d).gen)
    (hfit : programFit b.quartz.cap (parseProgram d) = none) :
    frameProgram i b = b.modGarnet (fun g => { g with
      maxGen := (parseProgram d).gen, staged := g.staged ++ [{ prog := parseProgram d, desc := i }] }) := by
  simp only [frameProgram, hd, hf, if_neg (Nat.not_le.mpr hg), hfit]

end Sys2Proof.Machine

section
open Sys2Proof Sys2Proof.Machine

/-- Settles O15: one lemma for each outcome of the checks of R67, then the parts that the step may change. -/
theorem frameProgramsAreCheckedAtArrival : Obligations.FrameProgramsAreCheckedAtArrival := by
  refine ⟨?malformed, ?stale, ?unfit, ?staged, ?changes⟩
  case malformed =>
    intro q b i off d ha hd hf
    exact act_gated ha (frameProgram_malformed hd hf)
  case stale =>
    intro q b i d ha hd hf hg
    exact act_gated ha (frameProgram_genStale hd hf hg)
  case unfit =>
    intro q b i st d ha hd hf hg hfit
    exact act_gated ha (frameProgram_unfit hd hf hg hfit)
  case staged =>
    intro q b i d ha hd hf hg hfit
    exact act_gated ha (frameProgram_staged hd hf hg hfit)
  case changes =>
    exact fun q b desc ha => ⟨act_gated ha rfl, frameProgram_frame (by decide) (onlyChanges_refl _ _)⟩

end
end

section
/-! O5: the read of the Time Base that latches its high half (04 R82). -/

-- The proofs are elaborated one after another: each waiting in a thread of its own takes more memory than the check allows.
set_option Elab.async false

namespace Sys2Proof.Machine

/-- The read and its latch, while BAR0 answers (04 R82). -/
theorem tbLoRead_latches {b : Block} (hb : b.bar0 = true) :
    tbLoRead b = { b with
      quartz := { b.quartz with tbHi := b.quartz.tb / 2 ^ 32 % 2 ^ 32 }
      out := { b.out with readData := BitVec.ofNat 32 b.quartz.tb } } := by
  simp only [tbLoRead, hb, Bool.not_true, Bool.false_eq_true, if_false]
  rfl

theorem regRead_tbHi (b : Block) : regRead b 0x1004 = BitVec.ofNat 32 b.quartz.tbHi := rfl

theorem busRead_of_bar0 {b : Block} (hb : b.bar0 = true) (off : Nat) : busRead b off = some (regRead b off) := if_pos hb

end Sys2Proof.Machine

section
open Sys2Proof Sys2Proof.Machine

/-- Settles O5: the latching read writes the high half where the map reads it at TB_HI. -/
theorem timeBaseReadLatchesItsHighHalf : Obligations.TimeBaseReadLatchesItsHighHalf := by
  refine ⟨?latch, ?high, ?changes⟩
  case latch => exact fun q b hb => act_of_eq (tbLoRead_latches hb)
  case high => exact fun b hb => (busRead_of_bar0 hb _).trans (congrArg some (regRead_tbHi b))
  case changes => exact fun q b => ⟨rfl, tbLoRead_frame (by decide) (onlyChanges_refl _ _)⟩

end
end

section
/-! O7: what the three commands of a strobe output do to its pulse (04 R108, R109, 18 R469). -/

-- The proofs are elaborated one after another: each waiting in a thread of its own takes more memory than the check allows.
set_option Elab.async false

namespace Sys2Proof.Machine

theorem strobeOn_of_pending {b : Block} {k t w : Nat} (hp : (b.strobe k).pulse = .pending t w) :
    strobeOn k b = (b.advance t).modQuartz (fun y => { y with
      strobes := vset y.strobes k { b.strobe k with pulse := .active (t + w) } }) := by
  simp only [strobeOn, hp]

/-- Time going on leaves the registers as they were. -/
theorem Block.advance_field (b : Block) (t off hi lo : Nat) : (b.advance t).field off hi lo = b.field off hi lo :=
  congrArg (bitsOf · hi lo) (Block.reg_congr (Block.advance_regs b t) off)

theorem strobeOff_of_active {b : Block} {k t : Nat} (hp : (b.strobe k).pulse = .active t) :
    strobeOff k b = (b.advance t).modQuartz (fun y => { y with
      strobes := vset y.strobes k { b.strobe k with
        pulse := .idle, src := b.field (0x1300 + 16 * k) 4 0, pol := b.field (0x1300 + 16 * k) 5 5 == 1 } }) := by
  simp only [strobeOff, hp, strobeSettings, Block.advance_field]

/-- A register write leaves the strobe outputs as they were. -/
theorem storeReg_strobe (off : Nat) (w : Word) (b : Block) (k : Nat) : (storeReg off w b).strobe k = b.strobe k := by
  have quartz : (storeReg off w b).quartz = b.quartz :=
    (storeReg_frame (ps := [.regs]) (by decide) (onlyChanges_refl _ b)).at_ .quartz (by decide)
  rw [Block.strobe, quartz, Block.strobe]

theorem strbCfgWrite_taken {b : Block} {k : Nat} (w : Word) (hb : b.bar0 = true) (hk : k < 4) :
    strbCfgWrite k w b = strobePol k (storeReg (0x1300 + 16 * k) w b) := by
  have taken : (!b.bar0 || decide (4 ≤ k)) = false := by rw [hb, decide_eq_false (Nat.not_le.mpr hk)]; rfl
  simp only [strbCfgWrite, taken, Bool.false_eq_true, if_false]

theorem strobePol_of_idle {b : Block} {k : Nat} (hp : (b.strobe k).pulse = .idle) :
    strobePol k b = strobeSettings k (b.strobe k) b := by
  simp only [strobePol, hp]

theorem strobePol_of_pulse {b : Block} {k : Nat} (hp : (b.strobe k).pulse ≠ .idle) : strobePol k b = b := by
  cases h : (b.strobe k).pulse with
  | idle => exact absurd h hp
  | pending t w => simp only [strobePol, h]
  | active t => simp only [strobePol, h]

end Sys2Proof.Machine

section
open Sys2Proof Sys2Proof.Machine

/-- Settles O7: one lemma for each moment of a pulse; a configuration write stores first and then acts or waits. -/
theorem strobePulsesRunTheirWidth : Obligations.StrobePulsesRunTheirWidth := by
  refine ⟨?on, ?off, ?idle, ?pulse, ?turnsOn, ?turnsOff, ?writes⟩
  case on =>
    rintro q b k t w x ha - rfl hp
    exact act_gated ha (strobeOn_of_pending hp)
  case off =>
    rintro q b k t x ha - rfl hp
    exact act_gated ha (strobeOff_of_active hp)
  case idle =>
    rintro q b k w x hb hk rfl hp
    rw [← storeReg_strobe (0x1300 + 16 * k) w] at hp ⊢
    exact act_of_eq ((strbCfgWrite_taken w hb hk).trans (strobePol_of_idle hp))
  case pulse =>
    rintro q b k w x hb hk rfl hp
    rw [← storeReg_strobe (0x1300 + 16 * k) w] at hp
    exact act_of_eq ((strbCfgWrite_taken w hb hk).trans (strobePol_of_pulse hp))
  case turnsOn => exact fun q b k ha => ⟨act_gated ha rfl, strobeOn_frame (by decide) (onlyChanges_refl _ _)⟩
  case turnsOff => exact fun q b k ha => ⟨act_gated ha rfl, strobeOff_frame (by decide) (onlyChanges_refl _ _)⟩
  case writes => exact fun q b n w => ⟨rfl, strbCfgWrite_frame (by decide) (onlyChanges_refl _ _)⟩

end
end

section
/-! O8: an APPLY of the capture cadence registers and the rows of its check (04 R88, 18 R463). -/

-- The proofs are elaborated one after another: each waiting in a thread of its own takes more memory than the check allows.
set_option Elab.async false

namespace Sys2Proof.Machine

theorem capApply_staged {b : Block} (hb : b.bar0 = true) (hc : b.committed .quartz = true)
    (hr : applyResult b.quartz b.takeAccepted b.quartz.tb (capFields b).1 (capFields b).2 = 0) :
    capApply b = b.modQuartz (fun y => { y with
      capResult := 0, capState := 2
      staged := some { cad := (capFields b).1, align := (capFields b).2, arrival := b.quartz.tb, own := false } }) := by
  simp only [capApply, hb, hc, hr, Bool.not_true, Bool.or_false, Bool.false_eq_true, if_false, if_true]

theorem capApply_refused {b : Block} (hb : b.bar0 = true) (hc : b.committed .quartz = true)
    (hr : applyResult b.quartz b.takeAccepted b.quartz.tb (capFields b).1 (capFields b).2 ≠ 0) :
    capApply b = b.modQuartz (fun y => { y with
      capResult := applyResult b.quartz b.takeAccepted b.quartz.tb (capFields b).1 (capFields b).2 }) := by
  simp only [capApply, hb, hc, hr, Bool.not_true, Bool.or_false, Bool.false_eq_true, if_false]

theorem capApply_uncommitted {b : Block} (hc : b.committed .quartz = false) : capApply b = b := by
  simp only [capApply, hc, Bool.not_false, Bool.or_true, if_true]

/-- Row 1 of the check of 04 R88. -/
theorem applyResult_inTake (y : Quartz) (t : Nat) (c : Cadence) (a : Nat) : applyResult y true t c a = 1 := rfl

/-- Row 2 of the check of 04 R88. -/
theorem applyResult_pending {y : Quartz} (t : Nat) (c : Cadence) (a : Nat) (hs : y.capState = 2) :
    applyResult y false t c a = 2 := by
  simp only [applyResult, hs, Bool.false_eq_true, if_false, if_true]

/-- Row 3 of the check of 04 R88. -/
theorem applyResult_short {y : Quartz} {c : Cadence} (t a : Nat) (hs : y.capState ≠ 2) (hl : c.reload + 1 < 1066666) :
    applyResult y false t c a = 3 := by
  simp only [applyResult, hs, hl, Bool.false_eq_true, if_false, if_true]

end Sys2Proof.Machine

section
open Sys2Proof Sys2Proof.Machine

/-- Settles O8: the result of the check decides between staging and recording; its first rows are read off in order. -/
theorem captureCadenceApplyStagesOrRefuses : Obligations.CaptureCadenceApplyStagesOrRefuses := by
  refine ⟨?staged, ?refused, ?uncommitted, ?rows, ?changes⟩
  case staged => exact fun q b hb hc hr => act_of_eq (capApply_staged hb hc hr)
  case refused =>
    rintro q b r hb hc rfl hne
    exact act_of_eq (capApply_refused hb hc hne)
  case uncommitted => exact fun q b hc => act_of_eq (capApply_uncommitted hc)
  case rows =>
    exact fun y t c a => ⟨applyResult_inTake y t c a, applyResult_pending t c a, applyResult_short t a⟩
  case changes => exact fun q b => ⟨rfl, capApply_frame (by decide) (onlyChanges_refl _ _)⟩

end
end

section
/-! O10: what becomes of the setting of a CADENCE descriptor, and the events of a FREE channel (04 R93, R94). -/

-- The proofs are elaborated one after another: each waiting in a thread of its own takes more memory than the check allows.
set_option Elab.async false

namespace Sys2Proof.Machine

/-- The setting that a CADENCE descriptor carries, for a mode (04 R93). -/
def cadenceSetting (d : List Byte) (m : ChanMode) : ChanSetting :=
  ⟨m, leAt d 20 4, bitsOf (leAt d 24 4) 23 0, bitsOf (leAt d 28 4) 23 0, leAt d 32 4⟩

/-- The setting of descriptor `i` joins those that wait on its channel (04 R94). -/
def cadenceWaits (i : Nat) (d : List Byte) (m : ChanMode) (start : Nat) (b : Block) : Block :=
  b.setChan (leAt d 16 1) { b.chan (leAt d 16 1) with
    waits := (b.chan (leAt d 16 1)).waits ++ [⟨cadenceSetting d m, start, i⟩] }

section
variable {b : Block} {i : Nat} {d : List Byte} (hd : b.dispatched ctrlRing i 0x04 = some d)
include hd

theorem cadence_malformed {off : Nat} (hf : cadenceFault d (b.quartz.cap.map (·.reload)) = some off) :
    cadence i b = finishCtrl i stMalformed frameNone 0 off b := by
  simp only [cadence, hd, hf]

variable (hf : cadenceFault d (b.quartz.cap.map (·.reload)) = none)
include hf

theorem cadence_off (hm : leAt d 17 1 = 0) :
    cadence i b = finishCtrl i stOk frameNone 0 0 (b.setChan (leAt d 16 1) { b.chan (leAt d 16 1) with
      setting := cadenceSetting d .off, acc := 0, due := none, late := none }) := by
  simp only [cadence, hd, hf, hm, cadenceSetting]

/-- MODE FREE without ALIGN waits for the tick 1,024 after arrival. -/
theorem cadence_free_soon (hm : leAt d 17 1 = 1) (hz : leAt d 40 8 = 0) :
    cadence i b = cadenceWaits i d .free (b.quartz.tb + 1024) b := by
  simp only [cadence, hd, hf, hm, hz, bne_self_eq_false, Bool.false_and, Bool.false_eq_true, if_false, if_true, cadenceWaits,
    cadenceSetting]

/-- MODE FREE with an ALIGN nearer than 1,024 ticks is refused. -/
theorem cadence_free_past (hm : leAt d 17 1 = 1) (hz : leAt d 40 8 ≠ 0) (hl : leAt d 40 8 < b.quartz.tb + 1024) :
    cadence i b = finishCtrl i stTimePast frameNone 0 0 b := by
  have near : (leAt d 40 8 != 0 && decide (leAt d 40 8 < b.quartz.tb + 1024)) = true := by
    rw [bne_iff_ne.mpr hz, decide_eq_true hl]; rfl
  simp only [cadence, hd, hf, hm, near, if_true]

theorem cadence_lock1 (hm : leAt d 17 1 = 2) : cadence i b = cadenceWaits i d .lock1 0 b := by
  simp only [cadence, hd, hf, hm, cadenceWaits, cadenceSetting]

end

/-- A FREE channel on which no setting waits emits the event due and dates the next one period later (04 R83, R84). -/
theorem cadenceChannelEvent_free {b : Block} {k t : Nat} (h2 : 2 ≤ k) (h32 : k < 32) (hm : (b.chan k).setting.mode = .free)
    (hw : (b.chan k).waits = []) (hl : (b.chan k).late = none) (hdue : (b.chan k).due = some t) :
    cadenceChannelEvent k b = channelEmit k t ((b.advance t).setChan k { b.chan k with
      acc := (nextPeriod (b.chan k).acc (b.chan k).setting.reload (b.chan k).setting.dnum (b.chan k).setting.dden).1
      due := some (t +
        (nextPeriod (b.chan k).acc (b.chan k).setting.reload (b.chan k).setting.dnum (b.chan k).setting.dden).2) }) := by
  have inRange : (decide (k < 2) || decide (31 < k)) = false := by
    simp only [Bool.or_eq_false_iff, decide_eq_false_iff_not]
    omega
  have noStart : firstFree (b.chan k).waits = none := by rw [hw]; rfl
  have next : (b.chan k).late.or (b.chan k).due = some t := by rw [hl, hdue]; rfl
  have free : ((b.chan k).setting.mode == .free) = true := by rw [hm]; rfl
  simp only [cadenceChannelEvent, inRange, noStart, next, free, Bool.false_eq_true, if_false, if_true]

end Sys2Proof.Machine

section
open Sys2Proof Sys2Proof.Machine

/-- Settles O10: one lemma for each MODE and refusal of CADENCE, and one for the event of a FREE channel. -/
theorem cadenceChannelsTakeTheirSettings : Obligations.CadenceChannelsTakeTheirSettings := by
  refine ⟨?malformed, ?off, ?soon, ?past, ?lock1, ?event, ?sets, ?emits⟩
  case malformed => exact fun q b i off d ha hd hf => act_gated ha (cadence_malformed hd hf)
  case off => exact fun q b i d ha hd hf hm => act_gated ha (cadence_off hd hf hm)
  case soon => exact fun q b i d ha hd hf hm hz => act_gated ha (cadence_free_soon hd hf hm hz)
  case past => exact fun q b i d ha hd hf hm hz hl => act_gated ha (cadence_free_past hd hf hm hz hl)
  case lock1 => exact fun q b i d ha hd hf hm => act_gated ha (cadence_lock1 hd hf hm)
  case event =>
    rintro q b k t c ha h2 h32 rfl hm hw hl hdue
    exact act_gated ha (cadenceChannelEvent_free h2 h32 hm hw hl hdue)
  case sets => exact fun q b desc ha => ⟨act_gated ha rfl, cadence_frame (by decide) (onlyChanges_refl _ _)⟩
  case emits => exact fun q b ch ha => ⟨act_gated ha rfl, cadenceChannelEvent_frame (by decide) (onlyChanges_refl _ _)⟩

end
end

section
/-! O16: what becomes of a START and of a STOP at their arrival (04 R92, R96, R97). -/

-- The proofs are elaborated one after another: each waiting in a thread of its own takes more memory than the check allows.
set_option Elab.async false

namespace Sys2Proof.Machine

section
variable {b : Block} {i : Nat} {d : List Byte} (hd : b.dispatched ctrlRing i 0x02 = some d)
include hd

section
variable (ha : leAt d 16 1 = 0) (hc : leAt d 20 4 ≠ 0xFFFFFFFF) (hh : b.opal.held = none)
include ha hc hh

/-- A START with a COUNT in range, while Opal holds none, meets an accepted Take, a staged cadence, or neither. -/
theorem takeStart_of_start :
    takeStart i b =
      if b.garnet.take.isSome || b.garnet.start.isSome then finishCtrl i stTakeOpen frameNone 0 0 b
      else if b.quartz.capState = 2 then b.modOpal (fun o => { o with held := some i })
      else startTake i d b := by
  have notHeld : (none == some i) = false := rfl
  simp only [takeStart, hd, ha, hc, hh, notHeld, Nat.zero_ne_one, bne_self_eq_false, Bool.false_eq_true, if_false,
    Option.isSome_none, Bool.or_false]

theorem takeStart_takeOpen (ht : b.garnet.take.isSome = true) :
    takeStart i b = finishCtrl i stTakeOpen frameNone 0 0 b := by
  rw [takeStart_of_start hd ha hc hh, if_pos (by rw [ht, Bool.true_or])]

variable (ht : b.garnet.take = none) (hs : b.garnet.start = none)
include ht hs

/-- While a cadence is staged Opal holds the START (04 R92). -/
theorem takeStart_held (hcad : b.quartz.capState = 2) :
    takeStart i b = b.modOpal (fun o => { o with held := some i }) := by
  rw [takeStart_of_start hd ha hc hh, if_neg (by rw [ht, hs]; exact Bool.false_ne_true), if_pos hcad]

theorem takeStart_reaches_garnet (hcad : b.quartz.capState ≠ 2) : takeStart i b = startTake i d b := by
  rw [takeStart_of_start hd ha hc hh, if_neg (by rw [ht, hs]; exact Bool.false_ne_true), if_neg hcad]

end

section
variable (ha : leAt d 16 1 = 1) (hh : b.opal.held = none)
include ha hh

/-- A STOP cancels the START that waits at Garnet, and both complete (04 R97). -/
theorem takeStop_cancels {w : WaitingStart} (hs : b.garnet.start = some w) :
    takeStop i b = finishCtrl i stOk frameNone 0 0 (finishCtrl w.desc stCancelled frameNone 0 0
      (b.modGarnet (fun g => { g with start := none }))) := by
  simp only [takeStop, hd, ha, hh, hs, bne_self_eq_false, Bool.false_eq_true, if_false]

variable (hs : b.garnet.start = none)
include hs

theorem takeStop_noTake (ht : b.garnet.take = none) : takeStop i b = finishCtrl i stNoTake frameNone 0 0 b := by
  simp only [takeStop, hd, ha, hh, hs, ht, bne_self_eq_false, Bool.false_eq_true, if_false, Option.isNone_none, if_true]

/-- On an open Take a STOP joins those that wait, once, unless a shutdown has begun. -/
theorem takeStop_waits (ht : b.garnet.take.isSome = true) (hnew : b.garnet.stops.any (fun s => s.desc == i) = false)
    (hsd : b.garnet.shutdown = false) :
    takeStop i b =
      b.modGarnet (fun g => { g with stops := g.stops ++ [{ atTb := leAt d 24 8, desc := i, seen := false }] }) := by
  have taking : b.garnet.take.isNone = false := Option.isNone_eq_false_iff.mpr ht
  simp only [takeStop, hd, ha, hh, hs, taking, hnew, hsd, bne_self_eq_false, Bool.false_eq_true, if_false]

end

end

theorem startTake_waits {b : Block} (i : Nat) (d : List Byte) (hs : b.garnet.stopped = false) (hd : b.garnet.shutdown = false) :
    startTake i d b = b.modGarnet (fun g => { g with
      start := some { takeId := leAt d 32 4, count := leAt d 20 4, atTb := leAt d 24 8, desc := i, seen := false } }) := by
  simp only [startTake, hs, hd, Bool.or_false, Bool.false_eq_true, if_false]

/-- The first STOP that waits. -/
theorem modGarnet_first_stop {b : Block} (p : WaitingStop) (h : b.garnet.stops = []) :
    b.modGarnet (fun g => { g with stops := g.stops ++ [p] }) = { b with garnet := { b.garnet with stops := [p] } } := by
  show { b with garnet := { b.garnet with stops := b.garnet.stops ++ [p] } } = _
  rw [h, List.nil_append]

end Sys2Proof.Machine

section
open Sys2Proof Sys2Proof.Machine

/-- Settles O16: one lemma for each outcome of a START and of a STOP once the checks before it have passed. -/
theorem takesStartAndStop : Obligations.TakesStartAndStop := by
  refine ⟨?waits, ?held, ?takeOpen, ?stops, ?cancels, ?noTake, ?starts, ?stopsTakes⟩
  case waits =>
    intro q b i d ha hd hact hcount hheld htake hstart hcad hstopped hshut
    exact act_gated ha ((takeStart_reaches_garnet hd hact hcount hheld htake hstart hcad).trans
      (startTake_waits i d hstopped hshut))
  case held =>
    intro q b i d ha hd hact hcount hheld htake hstart hcad
    exact act_gated ha (takeStart_held hd hact hcount hheld htake hstart hcad)
  case takeOpen =>
    intro q b i d ha hd hact hcount hheld htake
    exact act_gated ha (takeStart_takeOpen hd hact hcount hheld htake)
  case stops =>
    intro q b i d ha hd hact hheld hstart htake hstops hshut
    have new : b.garnet.stops.any (fun s => s.desc == i) = false := by rw [hstops]; rfl
    exact act_gated ha ((takeStop_waits hd hact hheld hstart htake new hshut).trans (modGarnet_first_stop _ hstops))
  case cancels =>
    intro q b i d w ha hd hact hheld hstart
    exact act_gated ha (takeStop_cancels hd hact hheld hstart)
  case noTake =>
    intro q b i d ha hd hact hheld hstart htake
    exact act_gated ha (takeStop_noTake hd hact hheld hstart htake)
  case starts => exact fun q b desc ha => ⟨act_gated ha rfl, takeStart_frame (by decide) (onlyChanges_refl _ _)⟩
  case stopsTakes => exact fun q b desc ha => ⟨act_gated ha rfl, takeStop_frame (by decide) (onlyChanges_refl _ _)⟩

end
end

section
/-! O11: edges of REF_IN, the compare events that they make, and loss (05 R112, R114, R118, R119, R121). -/

-- The proofs are elaborated one after another: each waiting in a thread of its own takes more memory than the check allows.
set_option Elab.async false

namespace Sys2Proof.Machine

/-- Outside Replay a live command of an Island that acts is its own function. -/
theorem act_live_gated {i : Island} {f : Block → Block} {q : List Instr} {b c : Block} (hm : b.beryl.evr.mode ≠ 2)
    (ha : b.alive i = true) (h : f b = c) : act (live (gated i f)) ⟨q, b⟩ = .next ⟨q, c⟩ :=
  act_of_eq ((live_of_mode hm).trans ((gated_of_alive ha).trans h))

/-! ### Edges and compare events (05 R112, R114) -/

theorem edgeCounts_of_held {edge level : Bool} {filt held : Nat} (hl : level ≠ edge) (hh : filt ≤ held) :
    edgeCounts edge level filt held = true := by
  rw [edgeCounts, bne_iff_ne.mpr hl, decide_eq_true hh, Bool.and_true]

theorem edgeCounts_eq_false {edge level : Bool} {filt held : Nat} (h : level = edge ∨ held < filt) :
    edgeCounts edge level filt held = false := by
  rcases h with rfl | h
  · rw [edgeCounts, bne_self_eq_false, Bool.false_and]
  · rw [edgeCounts, decide_eq_false (Nat.not_le.mpr h), Bool.and_false]

section
variable {b : Block} (hk : b.disc.cfg.kind ≠ 0)
include hk

theorem refInEdge_counted {n held : Nat} {level : Bool} (hf : b.disc.frozen = false) (hl : level ≠ b.disc.cfg.edge)
    (hh : refFilter b.disc.cfg ≤ held) :
    refInEdge n level held b = (b.advance (n + refFilter b.disc.cfg)).modDisc (fun d => { d with
      edges := d.edges + 1, lastEdge := n, lost := false }) := by
  simp only [refInEdge, decide_eq_false hk, hf, edgeCounts_of_held hl hh, Bool.not_true, Bool.or_false, Bool.false_eq_true,
    if_false]

theorem compareEvent_due (hf : b.disc.frozen = false) (he : edgesPerCompare b.disc.cfg.kind ≤ b.disc.edges) :
    compareEvent b = compareAt b.disc.lastEdge ((b.advance b.disc.lastEdge).modDisc (fun d =>
      { d with edges := d.edges - edgesPerCompare b.disc.cfg.kind })) := by
  simp only [compareEvent, decide_eq_false hk, hf, decide_eq_false (Nat.not_lt.mpr he), Bool.or_false, Bool.false_eq_true,
    if_false]

theorem refLoss_declared (hl : b.disc.lost = false) :
    refLoss b = discLoss (b.advance (b.disc.lastEdge + refLossLimit b)) := by
  simp only [refLoss, decide_eq_false hk, hl, Bool.or_false, Bool.false_eq_true, if_false]

end

theorem refInEdge_ignored {b : Block} (n : Nat) {held : Nat} {level : Bool}
    (h : level = b.disc.cfg.edge ∨ held < refFilter b.disc.cfg) : refInEdge n level held b = b := by
  simp only [refInEdge, edgeCounts_eq_false h, Bool.not_false, Bool.or_true, if_true]

/-- DISC changes alone once the Time Base has gone on. -/
theorem advance_modDisc_kept (b : Block) (t : Nat) (f : Disc → Disc) :
    onlyChanges [.quartz, .disc] b ((b.advance t).modDisc f) :=
  Block.modDisc_frame (by decide) (Block.advance_frame (by decide) (onlyChanges_refl _ _))

/-! ### Changes of state that wait (05 R118, R119, R121) -/

/-- With no change pending, the one to `goal` is. -/
theorem discPend_of_none {b : Block} (goal : DiscState) (cause : HoldCause) (hp : b.disc.pending = none) :
    discPend goal cause b = b.modDisc (fun d => { d with pending := some { goal, cause, since := b.quartz.tb } }) := by
  simp only [discPend, Block.modDisc, hp, Option.any_none, Bool.false_eq_true, if_false]

theorem lossCount_state (t : Nat) (d : Disc) : (lossCount t d).state = d.state := rfl

theorem lossCount_pending (t : Nat) (d : Disc) : (lossCount t d).pending = d.pending := rfl

/-- DISC after a loss detected on tick `t` in LOCKED: counted, frozen, and on its way to HOLDOVER. -/
def lossInLocked (t : Nat) (d : Disc) : Disc :=
  { discFreeze t { lossCount t d with lost := true } with pending := some { goal := .holdover, cause := .loss, since := t } }

theorem discLoss_of_locked {b : Block} (hs : b.disc.state = .locked) (hp : b.disc.pending = none) :
    discLoss b = b.modDisc (lossInLocked b.quartz.tb) := by
  simp only [discLoss, Block.modDisc, discUnlock, lossCount_pending, lossCount_state, hp, hs]
  refine (discPend_of_none .holdover .loss rfl).trans ?_
  simp only [Block.modDisc, lossInLocked, discFreeze, lossCount_state, hs]

end Sys2Proof.Machine

section
open Sys2Proof Sys2Proof.Machine

/-- Settles O11: one lemma for the edge that counts, the edge that does not, the compare event and the loss. -/
theorem referenceEdgesAndLoss : Obligations.ReferenceEdgesAndLoss := by
  refine ⟨?counted, ?ignored, ?compares, ?loses, ?edges, ?events, ?losses⟩
  case counted =>
    intro q b n held level ha hm hk hf hl hh
    refine act_live_gated hm ha ((refInEdge_counted hk hf hl hh).trans ?_)
    rw [Block.modDisc, Block.advance_disc]
  case ignored => exact fun q b n held level ha hm h => act_live_gated hm ha (refInEdge_ignored n h)
  case compares => exact fun q b ha hk hf he => act_gated ha (compareEvent_due hk hf he)
  case loses =>
    intro q b ha hk hl hs hp
    have declared : refLoss b = (b.advance (b.disc.lastEdge + refLossLimit b)).modDisc (lossInLocked _) :=
      (refLoss_declared hk hl).trans (discLoss_of_locked (by rw [Block.advance_disc, hs]) (by rw [Block.advance_disc, hp]))
    refine ⟨_, act_gated ha declared, rfl, ?disc, rfl, ?kept⟩
    case disc =>
      rw [Block.modDisc_disc, Block.advance_disc]
      rfl
    case kept => exact advance_modDisc_kept b _ _
  case edges =>
    exact fun q b stamp level held hm ha => ⟨act_live_gated hm ha rfl, refInEdge_frame (by decide) (onlyChanges_refl _ _)⟩
  case events => exact fun q b ha => ⟨act_gated ha rfl, compareEvent_frame (by decide) (onlyChanges_refl _ _)⟩
  case losses => exact fun q b ha => ⟨act_gated ha rfl, refLoss_frame (by decide) (onlyChanges_refl _ _)⟩

end
end

section
/-! O12: the steps of an acquisition and of a relock (05 R118, R123, R124, R126). -/

-- The proofs are elaborated one after another: each waiting in a thread of its own takes more memory than the check allows.
set_option Elab.async false

namespace Sys2Proof.Machine

/-! ### What time going on and a change of DISC leave as they were -/

theorem Block.advance_cap (b : Block) (t : Nat) : (b.advance t).quartz.cap = b.quartz.cap := by
  rw [Block.advance_tb]; split <;> rfl

theorem Block.advance_staged (b : Block) (t : Nat) : (b.advance t).quartz.staged = b.quartz.staged := by
  rw [Block.advance_tb]; split <;> rfl

theorem advance_modQuartz_modDisc_kept (b : Block) (t : Nat) (f : Quartz → Quartz) (g : Disc → Disc) :
    onlyChanges [.quartz, .disc] b (((b.advance t).modQuartz f).modDisc g) :=
  Block.modDisc_frame (by decide) (Block.modQuartz_frame (by decide) (Block.advance_frame (by decide) (onlyChanges_refl _ _)))

theorem windowOffset_advance (b : Block) (t : Nat) (m : MeasureWindow) : windowOffset (b.advance t) m = windowOffset b m := by
  have nominal : refNominal (b.advance t) = refNominal b := by
    simp only [refNominal, Block.advance_disc, Block.advance_cap]
  simp only [windowOffset, nominal]

theorem fsyncOffset_advance (b : Block) (t : Nat) : fsyncOffset (b.advance t) = fsyncOffset b := by
  simp only [fsyncOffset, capReload, Block.advance_cap, Block.reg_congr (Block.advance_regs b t)]

/-! ### Qualification (05 R124) -/

theorem clampInt_of_natAbs_le {x : Int} {n : Nat} (h : x.natAbs ≤ n) : clampInt x (-n) n = x := by
  rw [clampInt, Int.max_eq_right (by omega), Int.min_eq_right (by omega)]

/-- DISC when a qualification in ACQUIRE has passed on tick `t` with the measured offset `off`: pulling begins with it. -/
def pullStart (off : Int) (t : Nat) (d : Disc) : Disc :=
  { d with
    refQual := true, measured := off, step := .pulling, stepAt := t, qualAt := t, corr := off, acc := -5 * off
    expect := none, lockRun := 0, measure := windowOpen t none }

section
variable {b : Block} (hk : b.disc.cfg.kind ≠ 0) (hq : b.disc.step = .qualifying) (hs : b.disc.state = .acquire)
include hk hq hs

theorem qualificationEnd_passed (hb : b.disc.qualBad = false) (hp : b.disc.measure.periods ≠ 0)
    (ho : (windowOffset b b.disc.measure).natAbs ≤ 50000000) :
    qualificationEnd b = (b.advance (b.disc.stepAt + 1024000000)).modDisc
      (pullStart (windowOffset b b.disc.measure) (b.advance (b.disc.stepAt + 1024000000)).quartz.tb) := by
  have clamp : clampInt (windowOffset b b.disc.measure) (-50000000) 50000000 = windowOffset b b.disc.measure :=
    clampInt_of_natAbs_le ho
  simp only [qualificationEnd, bne_iff_ne.mpr hk, hq, hs, Block.advance_disc, windowOffset_advance, hb, decide_eq_false hp,
    decide_eq_false (Nat.not_lt.mpr ho), clamp, Block.modDisc, pullStart]
  rfl

theorem qualificationEnd_failed (hb : b.disc.qualBad = true) :
    qualificationEnd b = discQualify (b.advance (b.disc.stepAt + 1024000000)) := by
  simp only [qualificationEnd, bne_iff_ne.mpr hk, hq, hs, Block.advance_disc, hb]
  rfl

end

theorem discQualify_refQual (b : Block) : (discQualify b).disc.refQual = b.disc.refQual := rfl

theorem discQualify_qualBad (b : Block) : (discQualify b).disc.qualBad = b.disc.lost := rfl

/-! ### Alignment (05 R124) -/

/-- The ALIGN of an alignment staged now with the fields `c` in force. -/
def alignmentTick (c : Cadence) (b : Block) : Nat :=
  let p := max 1 (b.disc.cfg.ratio * b.quartz.capL)
  let base := b.disc.lastEdge + fsyncOffset b
  base + ceilDiv (b.quartz.tb + 3 * (c.reload + 2) - base) p * p

theorem stageAlignment_stages {b : Block} {c : Cadence} (hc : b.quartz.cap = some c) (hs : b.quartz.staged = none) :
    stageAlignment b = (b.modQuartz (fun q => { q with
      staged := some { cad := c, align := alignmentTick c b, arrival := b.quartz.tb, own := true }, capState := 2 })).modDisc
        (fun d => { d with alignOffset := (fsyncOffset b : Int) }) := by
  simp only [stageAlignment, hc, hs, alignmentTick]

/-- After the pull an own cadence is staged with FSYNC_OFFSET as its offset. -/
theorem alignmentStage_stages {b : Block} {c : Cadence} (hs : b.disc.state = .acquire) (hp : b.disc.step = .pulling)
    (hk : b.disc.cfg.kind = 4) (hc : b.quartz.cap = some c) (hn : b.quartz.staged = none) :
    alignmentStage b = ((b.advance (b.disc.stepAt + 2048000000)).modQuartz (fun q => { q with
      staged := some ⟨c, alignmentTick c (b.advance (b.disc.stepAt + 2048000000)),
        (b.advance (b.disc.stepAt + 2048000000)).quartz.tb, true⟩
      capState := 2 })).modDisc (fun d => { d with step := .aligning, alignOffset := (fsyncOffset b : Int) }) := by
  have due : alignmentStage b = (stageAlignment (b.advance (b.disc.stepAt + 2048000000))).modDisc
      (fun d => { d with step := .aligning }) := by
    simp only [alignmentStage, hs, hp, hk, hc, hn]
    rfl
  rw [due, stageAlignment_stages ((Block.advance_cap b _).trans hc) ((Block.advance_staged b _).trans hn),
    fsyncOffset_advance]
  rfl

theorem alignmentCheckEnd_checked {b : Block} (hs : b.disc.state = .acquire) (hc : b.disc.step = .checking) :
    alignmentCheckEnd b =
      if b.disc.checkBad then discQualify (b.advance (b.disc.stepAt + 2048000000))
      else discPend .locked .loss (b.advance (b.disc.stepAt + 2048000000)) := by
  simp only [alignmentCheckEnd, hc, bne_self_eq_false, Bool.false_eq_true, if_false, Block.advance_disc, hs]

theorem alignmentCheckEnd_locks {b : Block} (hs : b.disc.state = .acquire) (hc : b.disc.step = .checking)
    (hb : b.disc.checkBad = false) (hp : b.disc.pending = none) :
    alignmentCheckEnd b = (b.advance (b.disc.stepAt + 2048000000)).modDisc (fun d => { d with
      pending := some ⟨.locked, .loss, (b.advance (b.disc.stepAt + 2048000000)).quartz.tb⟩ }) := by
  rw [alignmentCheckEnd_checked hs hc, if_neg (by rw [hb]; exact Bool.false_ne_true)]
  exact discPend_of_none .locked .loss (by rw [Block.advance_disc, hp])

/-! ### Timeout and relock (05 R118, R126) -/

theorem acquireTimeout_restarts {b : Block} (hs : b.disc.state = .acquire) (hq : b.disc.step ≠ .qualifying)
    (hp : b.disc.pending = none) :
    acquireTimeout b = discRestart (b.advance (b.disc.qualAt + 20480000000)) := by
  simp only [acquireTimeout, hs, bne_iff_ne.mpr hq, hp]
  rfl

section
variable {b : Block} {i : Nat} {d : List Byte} (hd : b.dispatched ctrlRing i 0x0F = some d) (hw : leAt d 16 2 ≤ 100)
include hd hw

theorem relock_notHoldover (hs : b.disc.state ≠ .holdover) :
    relock i b = finishCtrl i stNotHoldover frameNone 0 0 b := by
  simp only [relock, hd, if_neg (Nat.not_lt.mpr hw), bne_iff_ne.mpr hs, if_true]

theorem relock_pends (hz : leAt d 16 2 ≠ 0) (hs : b.disc.state = .holdover) (hq : b.disc.refQual = true)
    (hp : b.disc.pending = none) :
    relock i b = finishCtrl i stOk frameNone 0 0 { b with disc := { b.disc with
      slew := (10000 * leAt d 16 2 : Nat), pending := some ⟨.relocking, .loss, b.quartz.tb⟩ } } := by
  have inHoldover : (b.disc.state != .holdover) = false := by rw [hs]; rfl
  have qualified : (!b.disc.refQual) = false := by rw [hq]; rfl
  simp only [relock, hd, if_neg (Nat.not_lt.mpr hw), inHoldover, qualified, Bool.false_eq_true, if_false, if_neg hz]
  exact congrArg (finishCtrl i stOk frameNone 0 0) (discPend_of_none (b := b.modDisc _) .relocking .loss hp)

end

end Sys2Proof.Machine

section
open Sys2Proof Sys2Proof.Machine

/-- Settles O12: one lemma for each step of an acquisition and each outcome of RELOCK, read off part by part. -/
theorem acquisitionRunsItsSteps : Obligations.AcquisitionRunsItsSteps := by
  refine ⟨?passed, ?failed, ?stages, ?locks, ?misses, ?timesOut, ?relocks, ?notHoldover, ?qualification, ?alignment, ?check,
    ?timeout, ?relock⟩
  case passed =>
    intro q b ha hk hq hs hb hp ho
    refine ⟨_, act_gated ha (qualificationEnd_passed hk hq hs hb hp ho), rfl, rfl, rfl, rfl, rfl, ?state, rfl, ?kept⟩
    case state => exact (congrArg Disc.state (Block.advance_disc b _)).trans hs
    case kept => exact advance_modDisc_kept b _ _
  case failed =>
    intro q b ha hk hq hs hb
    refine ⟨_, act_gated ha (qualificationEnd_failed hk hq hs hb), rfl, ?refQual, rfl, rfl, ?qualBad, ?kept⟩
    case refQual => exact (discQualify_refQual _).trans (congrArg Disc.refQual (Block.advance_disc b _))
    case qualBad => exact (discQualify_qualBad _).trans (congrArg Disc.lost (Block.advance_disc b _))
    case kept => exact discQualify_frame (by decide) (Block.advance_frame (by decide) (onlyChanges_refl _ _))
  case stages =>
    intro q b c ha hs hp hk hc hn
    refine ⟨_, act_gated ha (alignmentStage_stages hs hp hk hc hn), rfl, ?disc, rfl, ⟨_, rfl⟩, ?kept⟩
    case disc => rw [Block.modDisc_disc, Block.modQuartz_disc, Block.advance_disc]
    case kept =>
      dsimp only
      exact advance_modQuartz_modDisc_kept b _ _ _
  case locks =>
    intro q b ha hs hc hb hp
    refine ⟨_, act_gated ha (alignmentCheckEnd_locks hs hc hb hp), rfl, ?disc, ?kept⟩
    case disc =>
      rw [Block.modDisc_disc, Block.advance_disc]
      rfl
    case kept =>
      dsimp only
      exact advance_modDisc_kept b _ _
  case misses => exact fun q b ha hs hc hb => act_gated ha ((alignmentCheckEnd_checked hs hc).trans (if_pos hb))
  case timesOut =>
    intro q b ha hs hq hp
    refine act_gated ha ((acquireTimeout_restarts hs hq hp).trans ?_)
    rw [discRestart, Block.advance_disc]
  case relocks => exact fun q b i d ha hd hw hz hs hq hp => act_gated ha (relock_pends hd hw hz hs hq hp)
  case notHoldover => exact fun q b i d ha hd hw hs => act_gated ha (relock_notHoldover hd hw hs)
  case qualification => exact fun q b ha => ⟨act_gated ha rfl, qualificationEnd_frame (by decide) (onlyChanges_refl _ _)⟩
  case alignment => exact fun q b ha => ⟨act_gated ha rfl, alignmentStage_frame (by decide) (onlyChanges_refl _ _)⟩
  case check => exact fun q b ha => ⟨act_gated ha rfl, alignmentCheckEnd_frame (by decide) (onlyChanges_refl _ _)⟩
  case timeout => exact fun q b ha => ⟨act_gated ha rfl, acquireTimeout_frame (by decide) (onlyChanges_refl _ _)⟩
  case relock => exact fun q b desc ha => ⟨act_gated ha rfl, relock_frame (by decide) (onlyChanges_refl _ _)⟩

end
end

section
/-! O13: what becomes of an edge of PPS_IN (05 R112, R128). -/

-- The proofs are elaborated one after another: each waiting in a thread of its own takes more memory than the check allows.
set_option Elab.async false

namespace Sys2Proof.Machine

/-- The filter length of PPS_IN, ticks (05 R112). -/
def ppsFilter (b : Block) : Nat := bitsOf b.tod.ppsCfg.toNat 31 16

/-- The edge on tick `n` lies too close behind the accepted edge before it (05 R128). -/
def ppsEarly (n : Nat) (b : Block) : Bool := b.tod.pps.head?.any (fun e => n < e.2 + 1023000000)

/-- The block once an edge that counts has been logged, as accepted or not, and has taken its number. -/
def ppsTaken (n : Nat) (accepted : Bool) (b : Block) : Block :=
  ((b.advance (n + ppsFilter b)).logEvr .quartz 0x02 (leBytes 4 b.tod.ppsSeq ++ leBytes 1 (bit accepted)) [] (some n)).modTod
    (fun y => { y with ppsSeq := (b.tod.ppsSeq + 1) % 2 ^ 32 })

/-- The block with a rejected edge counted. -/
def ppsRejected (b : Block) : Block := b.modDisc (fun y => { y with ppsReject := min 255 (y.ppsReject + 1) })

/-- The block with the accepted edge of number `s` on tick `n` kept and posted. -/
def ppsKept (s n : Nat) (b : Block) : Block :=
  postEventAt n evPps frameNone (leBytes 4 s) (b.modTod (fun y => { y with pps := ((s, n) :: y.pps).take 8 }))

theorem ppsEarly_cons {b : Block} {k m n : Nat} {l : List (Nat × Nat)} (hp : b.tod.pps = (k, m) :: l) :
    ppsEarly n b = decide (n < m + 1023000000) := by
  rw [ppsEarly, hp, List.head?_cons, Option.any_some]

theorem ppsEarly_eq_false {b : Block} {n : Nat} (hp : ∀ e ∈ b.tod.pps.head?, e.2 + 1023000000 ≤ n) :
    ppsEarly n b = false := by
  rw [ppsEarly, Option.any_eq_false]
  exact fun e he => decide_eq_false (Nat.not_lt.mpr (hp e he))

section
variable {b : Block} {n held : Nat} {level : Bool}

/-- An edge of the other polarity, or too short, changes nothing. -/
theorem ppsInEdge_of_not_counts (hc : edgeCounts (b.tod.ppsCfg.getLsbD 0) level (ppsFilter b) held = false) :
    ppsInEdge n level held b = b := if_pos (by rw [← ppsFilter, hc]; rfl)

/-- An edge that counts takes its number; the accepted edge before it, if any, decides what becomes of it. -/
theorem ppsInEdge_of_counts (hc : edgeCounts (b.tod.ppsCfg.getLsbD 0) level (ppsFilter b) held = true) :
    ppsInEdge n level held b =
      if ppsEarly n b then ppsRejected (ppsTaken n false b) else ppsKept b.tod.ppsSeq n (ppsTaken n true b) := by
  have counts : (!edgeCounts (b.tod.ppsCfg.getLsbD 0) level (bitsOf b.tod.ppsCfg.toNat 31 16) held) = false := by
    rw [← ppsFilter, hc]; rfl
  rcases hp : b.tod.pps with _ | ⟨⟨k, m⟩, l⟩
  · have late : ppsEarly n b = false := by rw [ppsEarly, hp]; rfl
    simp only [ppsInEdge, counts, Block.advance_tod, hp, late, Bool.false_eq_true, if_false]
    rfl
  · rw [ppsEarly_cons hp]
    simp only [ppsInEdge, counts, Block.advance_tod, hp, Bool.false_eq_true, if_false]
    cases decide (n < m + 1023000000) <;> rfl

end

theorem ppsTaken_disc (n : Nat) (a : Bool) (b : Block) : (ppsTaken n a b).disc = b.disc := by
  rw [ppsTaken, Block.modTod_disc, Block.logEvr_disc, Block.advance_disc]

theorem ppsTaken_tod (n : Nat) (a : Bool) (b : Block) :
    (ppsTaken n a b).tod = { b.tod with ppsSeq := (b.tod.ppsSeq + 1) % 2 ^ 32 } := by
  rw [ppsTaken, Block.modTod_tod, Block.logEvr_tod, Block.advance_tod]

theorem ppsTaken_opal (n : Nat) (a : Bool) (b : Block) : (ppsTaken n a b).opal = b.opal := by
  rw [ppsTaken, Block.modTod_opal, Block.logEvr_opal, Block.advance_opal]

theorem ppsTaken_kept (n : Nat) (a : Bool) (b : Block) : onlyChanges [.quartz, .tod, .evr, .trace] b (ppsTaken n a b) :=
  Block.modTod_frame (by decide) (Block.logEvr_frame (by decide) (Block.advance_frame (by decide) (onlyChanges_refl _ _)))

theorem ppsRejected_kept (n : Nat) (b : Block) :
    onlyChanges [.quartz, .disc, .tod, .evr, .trace] b (ppsRejected (ppsTaken n false b)) :=
  Block.modDisc_frame (by decide) (onlyChanges_mono (by decide) (ppsTaken_kept n false b))

end Sys2Proof.Machine

section
open Sys2Proof Sys2Proof.Machine

/-- Settles O13: one lemma each for the edge that is accepted, that is rejected and that does not count; the rejected one
is then read off part by part. -/
theorem ppsEdgesAreNumberedAndRejected : Obligations.PpsEdgesAreNumberedAndRejected := by
  refine ⟨?accepted, ?rejected, ?ignored, rfl, ?changes⟩
  case accepted =>
    intro q b n held level ha hm hc hp
    have late : ¬ppsEarly n b = true := by rw [ppsEarly_eq_false hp]; exact Bool.false_ne_true
    exact act_live_gated hm ha ((ppsInEdge_of_counts hc).trans (if_neg late))
  case rejected =>
    intro q b n held m k level l ha hm hc hp hn
    have early : ppsEarly n b = true := (ppsEarly_cons hp).trans (decide_eq_true hn)
    refine ⟨_, act_live_gated hm ha ((ppsInEdge_of_counts hc).trans (if_pos early)), rfl, ?disc, ?tod,
      ppsTaken_opal n false b, ?kept⟩
    case disc => rw [ppsRejected, Block.modDisc_disc, ppsTaken_disc]
    case tod => rw [ppsRejected, Block.modDisc_tod, ppsTaken_tod]
    case kept => exact ppsRejected_kept n b
  case ignored => exact fun q b n held level ha hm hc => act_live_gated hm ha (ppsInEdge_of_not_counts hc)
  case changes =>
    exact fun q b stamp level held hm ha => ⟨act_live_gated hm ha rfl, ppsInEdge_frame (by decide) (onlyChanges_refl _ _)⟩

end
end

section
/-! O56: faults, recovery and fail-stop of the Islands; the watchdog, restart and patch load of Beryl (12 R312 to R337, 17
R451). -/

-- The proofs are elaborated one after another: each waiting in a thread of its own takes more memory than the check allows.
set_option Elab.async false

namespace Sys2Proof.Machine

/-! ### What Topaz holds of the Islands -/

/-- The Islands that Beryl recovers (12 R321). -/
abbrev recoverable : List Island := [.garnet, .jade, .spinel, .opal, .onyx, .agate]

/-- What the fault logic holds of an Island, beside the first Frame it failed. -/
def IslandState.sansFirst (s : IslandState) : IslandState := { s with firstFailed := none }

/-- Topaz beside the first Frame that each Island failed. -/
def Topaz.sansFirst (t : Topaz) : Topaz := { t with isl := t.isl.map IslandState.sansFirst }

/-- Topaz beside the first Frame that each Island failed and the level of FAULT_N. -/
def Topaz.faults (t : Topaz) : Topaz := { t.sansFirst with faultPin := .high }

/-- Topaz beside what the recovery and the fail-stop of an Island may change. -/
def Topaz.besideIslands (t : Topaz) : Topaz :=
  { t with
    isl := coldTopaz.isl, faultPin := .high, recovered := 0, commit := coldTopaz.commit, rearm := coldTopaz.rearm }

theorem Block.modIsl_isl (b : Block) (i : Island) (f : IslandState → IslandState) (j : Island) :
    (b.modIsl i f).isl j = if j = i then f (b.isl i) else b.isl j := by
  show (b.topaz.isl.set i.num (f (b.isl i)))[j.num.val] = if j = i then f (b.isl i) else b.topaz.isl[j.num.val]
  simp only [Vector.getElem_set, Island.num_val_inj, eq_comm (a := i)]

theorem Block.modIsl_isl_self (b : Block) (i : Island) (f : IslandState → IslandState) : (b.modIsl i f).isl i = f (b.isl i) := by
  rw [Block.modIsl_isl, if_pos rfl]

theorem Block.modIsl_isl_of_ne {i j : Island} (h : j ≠ i) (b : Block) (f : IslandState → IslandState) :
    (b.modIsl i f).isl j = b.isl j := by
  rw [Block.modIsl_isl, if_neg h]

section
variable {s t : IslandState} (h : s.sansFirst = t.sansFirst)
include h

theorem frozen_of_sansFirst : s.frozen = t.frozen := (congrArg IslandState.frozen h :)
theorem failStop_of_sansFirst : s.failStop = t.failStop := (congrArg IslandState.failStop h :)
theorem dead_of_sansFirst : s.dead = t.dead := (congrArg IslandState.dead h :)
theorem gens_of_sansFirst : s.gens = t.gens := (congrArg IslandState.gens h :)
theorem units_of_sansFirst : s.units = t.units := (congrArg IslandState.units h :)

end

theorem besideIslands_of_faults {s t : Topaz} (h : s.faults = t.faults) : s.besideIslands = t.besideIslands :=
  (congrArg Topaz.besideIslands h :)

/-- Two blocks whose Islands' fault states agree beside the first Frames they failed agree so on each Island. -/
theorem isl_sansFirst_of_faults {a b : Block} (h : b.topaz.faults = a.topaz.faults) (i : Island) :
    (b.isl i).sansFirst = (a.isl i).sansFirst := by
  have get (t : Topaz) : t.faults.isl[i.num.val] = (t.isl.get i.num).sansFirst := Vector.getElem_map ..
  exact (get b.topaz).symm.trans ((congrArg (fun t : Topaz => t.isl[i.num.val]) h).trans (get a.topaz))

/-- Two changes of one Island's fault state that differ in the first Frame it failed alone. -/
theorem modIsl_faults {b : Block} {i : Island} {f g : IslandState → IslandState}
    (h : (f (b.isl i)).sansFirst = (g (b.isl i)).sansFirst) : (b.modIsl i f).topaz.faults = (b.modIsl i g).topaz.faults := by
  have mapped : (b.topaz.isl.set i.num (f (b.isl i))).map IslandState.sansFirst =
      (b.topaz.isl.set i.num (g (b.isl i))).map IslandState.sansFirst := by
    rw [Vector.map_set, Vector.map_set, h]
  exact congrArg (fun v => { b.topaz.faults with isl := v }) mapped

/-- The two blocks agree on Topaz beside the first Frame that each Island failed: all that failing items changes there (12
R321). -/
def keepsFaults (a b : Block) : Prop := b.topaz.sansFirst = a.topaz.sansFirst

theorem keepsFaults.refl (a : Block) : keepsFaults a a := rfl

theorem keepsFaults.trans {a b c : Block} (h : keepsFaults a b) (k : keepsFaults b c) : keepsFaults a c := Eq.trans k h

theorem keepsFaults.of_frame {ps : List Piece} {a b : Block} (k : onlyChanges ps a b) (hp : .topaz ∉ ps := by decide) :
    keepsFaults a b := congrArg Topaz.sansFirst (k.at_ .topaz hp)

theorem keepsFaults.foldl {α : Type} {f : Block → α → Block} (hf : ∀ x y, keepsFaults x (f x y)) (l : List α)
    (b : Block) : keepsFaults b (l.foldl f b) := by
  induction l generalizing b with
  | nil => exact .refl b
  | cons y l ih => exact (hf b y).trans (ih (f b y))

theorem keepsFaults.faults {a b : Block} (h : keepsFaults a b) : b.topaz.faults = a.topaz.faults :=
  congrArg (fun t : Topaz => { t with faultPin := .high }) h

/-! ### What failing items changes in Topaz -/

theorem noteFailed_keepsFaults (i : Island) (frame : Nat) (b : Block) : keepsFaults b (noteFailed i frame b) := by
  have first (s : IslandState) (x : Option Nat) : IslandState.sansFirst { s with firstFailed := x } = s.sansFirst := rfl
  have kept : (b.topaz.isl.set i.num
      (if (b.isl i).frozen.isSome then { b.isl i with firstFailed := some (min frame ((b.isl i).firstFailed.getD frame)) }
        else b.isl i)).map IslandState.sansFirst = b.topaz.isl.map IslandState.sansFirst := by
    rw [Vector.map_set, apply_ite IslandState.sansFirst, first, ite_self]
    exact (congrArg (Vector.set _ _ · _) (Vector.getElem_map ..).symm).trans (Vector.set_getElem_self ..)
  exact congrArg (fun v => { b.topaz with isl := v }) kept

theorem failInOpal_keepsFaults (frame : Nat) (b : Block) : keepsFaults b (failInOpal frame b) := by
  refine .trans (noteFailed_keepsFaults .opal frame (b.modOpal fun o => { o with failed := withFrame frame o.failed })) ?_
  refine .of_frame (ps := [.spinel, .opal, .posts, .evr, .ch, .trace, .out]) ?_
  unfold failInOpal
  extract_lets noted ds marked
  split
  · exact onlyChanges_refl _ _
  · exact onlyChanges_foldl (fun _ _ h => dropHost_frame (by decide) h)
      (markFrame_frame (by decide) (mergeDests_frame (by decide) (onlyChanges_refl _ _)))

theorem failInSpinel_keepsFaults (frame : Nat) (m : BitVec 16) (b : Block) : keepsFaults b (failInSpinel frame m b) := by
  unfold failInSpinel
  split
  · exact .of_frame (failHostSegs_frame (ps := [.spinel, .ch, .trace]) (by decide) (onlyChanges_refl _ _))
  · refine .trans (noteFailed_keepsFaults .spinel frame (b.modSpinel fun s => { s with failed := withFrame frame s.failed })) ?_
    exact .of_frame (failOnward_frame (ps := [.spinel, .evr, .ch, .trace]) (by decide) (failHostSegs_frame (by decide)
      (mergeFail_frame (by decide) (onlyChanges_refl _ _))))

theorem failInOnyx_keepsFaults (frame : Nat) (m : BitVec 16) (b : Block) : keepsFaults b (failInOnyx frame m b) := by
  refine .trans (noteFailed_keepsFaults .onyx frame (b.modOnyx fun o => { o with failed := withFrame frame o.failed })) ?_
  exact .of_frame (onlyChanges_foldl (ps := [.jade, .onyx, .evr, .ch, .trace]) (fun _ _ h => failShare_frame (by decide) h)
    (onlyChanges_refl _ _))

theorem failInJade_keepsFaults (frame : Nat) (b : Block) : keepsFaults b (failInJade frame b) := by
  unfold failInJade
  split
  · exact .of_frame (closeFrame_frame (ps := [.jade, .ch, .trace]) (by decide) (onlyChanges_refl _ _))
  · refine .trans (noteFailed_keepsFaults .jade frame (b.modJade fun j => { j with failed := withFrame frame j.failed })) ?_
    exact .of_frame (onlyChanges_foldl (ps := [.jade, .ch, .trace]) (fun _ _ h => sendFailedItem_frame (by decide) h)
      (closeFrame_frame (by decide) (onlyChanges_refl _ _)))

theorem failGarnet_keepsFaults (mark : BitVec 16) (b : Block) : keepsFaults b (failGarnet mark b) := by
  have failed (x : Block) (s : Snapshot) : keepsFaults x (noteFailed .garnet s.frame (failFrame s mark (sendHeader s x))) :=
    .trans (.of_frame (failFrame_frame (ps := [.garnet, .ch, .trace]) (by decide)
      (sendHeader_frame (by decide) (onlyChanges_refl _ _)))) (noteFailed_keepsFaults ..)
  unfold failGarnet
  extract_lets frames
  have every : keepsFaults b frames := .foldl (fun x s => failed x _) _ b
  clear_value frames
  exact every.trans (.of_frame (endTakeFault_frame (ps := [.disc, .garnet, .opal, .posts, .evr, .ch, .trace, .out]) (by decide)
    (Block.modGarnet_frame (by decide) (onlyChanges_refl _ _))))

theorem failFrameIn_keepsFaults (i : Island) (frame : Nat) (b : Block) : keepsFaults b (failFrameIn i frame b) := by
  cases i with
  | jade => exact failInJade_keepsFaults frame b
  | spinel => exact failInSpinel_keepsFaults frame markFailStop b
  | opal => exact failInOpal_keepsFaults frame b
  | onyx => exact failInOnyx_keepsFaults frame markFailStop b
  | _ => exact .refl b

theorem failHeld_keepsFaults (i : Island) (all : Bool) (b : Block) : keepsFaults b (failHeld i all b) :=
  .foldl (fun x f => failFrameIn_keepsFaults i f x) ..

theorem failTransfers_keepsFaults (b : Block) : keepsFaults b (failTransfers b) :=
  .of_frame (failTransfers_frame (ps := [.posts, .agate, .evr, .trace, .out]) (by decide) (onlyChanges_refl _ _))

theorem failDescs_keepsFaults (i : Island) (st : Nat) (b : Block) : keepsFaults b (failDescs i st b) :=
  .of_frame (failDescs_frame (ps := [.posts, .evr, .trace, .out]) (by decide) (onlyChanges_refl _ _))

theorem failItems_keepsFaults (i : Island) (b : Block) : keepsFaults b (failItems i b) := by
  have transfers : keepsFaults b (if i = .agate then failTransfers b else b) := by
    split
    · exact failTransfers_keepsFaults b
    · exact .refl b
  have held := transfers.trans ((failDescs_keepsFaults i stFailed _).trans (failHeld_keepsFaults i false _))
  refine held.trans ?_
  cases i with
  | garnet => exact failGarnet_keepsFaults markFailStop _
  | _ => exact .refl _

/-! ### Fail-stop (12 R325, R326) -/

theorem logFault_kept (i : Island) (c : FaultClass) (stamp action : Nat) (b : Block) :
    onlyChanges [.evr, .trace] b (logFault i c stamp action b) := Block.logEvr_frame (by decide) (onlyChanges_refl _ _)

theorem postIslandFault_kept (i : Island) (c : FaultClass) (stamp action frame : Nat) (b : Block) :
    onlyChanges [.posts, .out] b (postIslandFault i c stamp action frame b) :=
  postEventAt_frame (by decide) (onlyChanges_refl _ _)

theorem endTakeFault_keepsFaults (b : Block) : keepsFaults b (endTakeFault b) :=
  .of_frame (endTakeFault_frame (ps := [.disc, .garnet, .opal, .posts, .evr, .ch, .trace, .out]) (by decide)
    (onlyChanges_refl _ _))

/-- The Island is marked as fail-stopped, and as DEAD if `dead`. -/
def markStopped (i : Island) (dead : Bool) (b : Block) : Block :=
  b.modIsl i (fun s => { s with
    failStop := true, frozen := some ((b.isl i).frozen.getD (.parity, b.quartz.tb)), dead := s.dead || dead, firstFailed := none })

theorem failStopIsland_faults (i : Island) (dead : Bool) (b : Block) :
    (failStopIsland i dead b).topaz.faults = (markStopped i dead b).topaz.faults := by
  unfold failStopIsland markStopped
  rcases (b.isl i).frozen.getD (.parity, b.quartz.tb) with ⟨c, stamp⟩
  dsimp -zeta only
  extract_lets stopped failed logged ended
  have fails : failed.topaz.faults = stopped.topaz.faults := (failItems_keepsFaults i stopped).faults
  split
  · have logs : keepsFaults failed logged := .of_frame (logFault_kept ..)
    have ends : keepsFaults logged ended := by
      unfold ended
      split
      · exact endTakeFault_keepsFaults _
      · exact .refl _
    exact ((logs.trans ends).trans (.of_frame (postIslandFault_kept ..))).faults.trans fails
  · exact fails

theorem failStopIsland_sansFirst (i : Island) (dead : Bool) (b : Block) (j : Island) :
    ((failStopIsland i dead b).isl j).sansFirst = ((markStopped i dead b).isl j).sansFirst :=
  isl_sansFirst_of_faults (failStopIsland_faults i dead b) j

theorem failStopIsland_besideIslands (i : Island) (dead : Bool) (b : Block) :
    (failStopIsland i dead b).topaz.besideIslands = b.topaz.besideIslands :=
  (besideIslands_of_faults (failStopIsland_faults i dead b)).trans rfl

section
variable (i : Island) (dead : Bool) (b : Block)

theorem failStopIsland_failStop (j : Island) :
    ((failStopIsland i dead b).isl j).failStop = if j = i then true else (b.isl j).failStop := by
  rw [failStop_of_sansFirst (failStopIsland_sansFirst i dead b j), markStopped, Block.modIsl_isl]
  split <;> rfl

theorem failStopIsland_frozen_self :
    ((failStopIsland i dead b).isl i).frozen = some ((b.isl i).frozen.getD (.parity, b.quartz.tb)) := by
  rw [frozen_of_sansFirst (failStopIsland_sansFirst i dead b i), markStopped, Block.modIsl_isl_self]

theorem failStopIsland_dead_self : ((failStopIsland i dead b).isl i).dead = ((b.isl i).dead || dead) := by
  rw [dead_of_sansFirst (failStopIsland_sansFirst i dead b i), markStopped, Block.modIsl_isl_self]

theorem failStopIsland_frozen_of_ne {j : Island} (h : j ≠ i) : ((failStopIsland i dead b).isl j).frozen = (b.isl j).frozen := by
  rw [frozen_of_sansFirst (failStopIsland_sansFirst i dead b j), markStopped, Block.modIsl_isl_of_ne h]

end

/-! ### A fault is detected (12 R312, R320, R325, R329, R337) -/

/-- A fault of class `c` freezes the Island, its Units with it; the faults of the last 60 s are kept. -/
def freeze (i : Island) (c : FaultClass) (b : Block) : Block :=
  b.modIsl i (fun s => { s with
    frozen := some (c, b.quartz.tb), firstFailed := none
    faultTimes := b.quartz.tb :: s.faultTimes.filter (fun t => b.quartz.tb < t + ownTicks b .topaz t 61440000000)
    units := s.units.map (fun _ => .frozen) })

theorem freeze_faultTimes (i : Island) (c : FaultClass) (b : Block) : ((freeze i c b).isl i).faultTimes =
    b.quartz.tb :: (b.isl i).faultTimes.filter (fun t => b.quartz.tb < t + ownTicks b .topaz t 61440000000) := by
  rw [freeze, Block.modIsl_isl_self]

theorem freeze_frozen (i : Island) (c : FaultClass) (b : Block) : ((freeze i c b).isl i).frozen = some (c, b.quartz.tb) := by
  rw [freeze, Block.modIsl_isl_self]

/-- Topaz takes 60 s to pass on its own clock (00 R504). -/
theorem lt_add_ownTicks_topaz (b : Block) (t : Nat) : t < t + ownTicks b .topaz t 61440000000 := by
  have spread : ¬(1020000 : Nat) = 985000 := by decide
  have passes : 0 < ownTicks b .topaz t 61440000000 := by
    simp only [ownTicks, clockBounds, bne_self_eq_false, Bool.false_and, Bool.false_eq_true, if_false, if_neg spread, ceilDiv]
    omega
  omega

/-- How Topaz counts does not depend on the block. -/
theorem ownTicks_topaz_congr (a b : Block) (t d : Nat) : ownTicks a .topaz t d = ownTicks b .topaz t d := by
  simp only [ownTicks, bne_self_eq_false, Bool.false_and]

/-- The fault that freezes an Island counts among its faults of the last 60 s. -/
theorem recentFaults_freeze (i : Island) (c : FaultClass) (b : Block) : recentFaults (freeze i c b) i = recentFaults b i + 1 := by
  have now : decide (b.quartz.tb < b.quartz.tb + ownTicks b .topaz b.quartz.tb 61440000000) = true :=
    decide_eq_true (lt_add_ownTicks_topaz b _)
  unfold recentFaults
  rw [freeze_faultTimes]
  show (List.filter (fun t => decide (b.quartz.tb < t + ownTicks b .topaz t 61440000000)) _).length = _
  rw [List.filter_cons_of_pos (p := fun t => decide (b.quartz.tb < t + ownTicks b .topaz t 61440000000)) now,
    List.filter_filter, List.length_cons]
  simp only [Bool.and_self]

theorem islandDetects_beryl {c : FaultClass} {b : Block} (ha : b.alive .beryl = true) :
    islandDetects .beryl c b = freeze .beryl c b :=
  (if_neg (by rw [ha]; decide)).trans (if_pos rfl)

section
variable {i : Island} {c : FaultClass} {b : Block} (hi : i ∈ recoverable) (ha : b.alive i = true)
include hi ha

/-- A fault of an Island that Beryl recovers: the fourth in 60 s leaves it DEAD, and while Beryl is absent it fail-stops. -/
theorem islandDetects_recoverable : islandDetects i c b =
    if 4 ≤ recentFaults (freeze i c b) i then failStopIsland i true (freeze i c b)
    else if b.topaz.absent then failStopIsland i false (freeze i c b)
    else freeze i c b := by
  have runs : ¬(!b.alive i) = true := by rw [ha]; decide
  refine (if_neg runs).trans ?_
  cases i with
  | quartz => exact absurd hi (by decide)
  | topaz => exact absurd hi (by decide)
  | beryl => exact absurd hi (by decide)
  | garnet => rfl
  | jade => rfl
  | spinel => rfl
  | opal => rfl
  | onyx => rfl
  | agate => rfl

theorem islandDetects_freezes (hf : recentFaults b i < 3) (hb : b.topaz.absent = false) :
    islandDetects i c b = freeze i c b := by
  rw [islandDetects_recoverable hi ha, recentFaults_freeze, if_neg (by omega), hb, if_neg Bool.false_ne_true]

theorem islandDetects_dies (hf : 3 ≤ recentFaults b i) :
    islandDetects i c b = failStopIsland i true (freeze i c b) := by
  rw [islandDetects_recoverable hi ha, recentFaults_freeze, if_pos (by omega)]

end

theorem Block.advance_alive (b : Block) (t : Nat) (i : Island) : (b.advance t).alive i = b.alive i := by
  have power : (b.advance t).inPower i = b.inPower i := by
    cases i <;> simp only [Block.inPower, Block.advance_topaz]
  rw [Block.alive, Block.alive, power, Block.isl, Block.advance_topaz]
  rfl

/-- The tick at which an Island that last made progress at `since` has stalled (12 R337). -/
abbrev stallTick (i : Island) (since : Nat) (b : Block) : Nat := since + ownTicks b i since (1024000 * stallMs b)

theorem stall_detects {i : Island} {since : Nat} {b : Block} (ha : b.alive i = true) (hw : holdsWork b i = true)
    (hh : heldBack b i = false) (hs : since ≤ b.quartz.tb) :
    stall i since b = islandDetects i .stall (b.advance (stallTick i since b)) := by
  rw [stall, ha, hw, hh, decide_eq_true hs]
  rfl

/-- What a fault of Quartz or Topaz marks at once: it is FATAL, FAULT_N goes low, Quartz freezes, the fault is counted (12
R329). -/
def strikeFatal (i : Island) (b : Block) : Block :=
  let low := settleFaultPin (b.modTopaz (fun t => { t with fatal := true }))
  let stuck := if i = .quartz then low.modIsl .quartz (fun s => { s with frozen := some (.fatal, low.quartz.tb) }) else low
  stuck.modIsl i (fun s => { s with faultTimes := stuck.quartz.tb :: s.faultTimes })

/-- Garnet stops for good. -/
def stopGarnet (b : Block) : Block := b.modGarnet (fun g => { g with stopped := true, started := false })

theorem strikeFatal_topaz (i : Island) (b : Block) :
    (strikeFatal i b).topaz.fatal = true ∧ (strikeFatal i b).topaz.faultPin = .low := by
  have low : faultSignal (b.modTopaz (fun t => { t with fatal := true })) = .low := by simp [faultSignal]
  unfold strikeFatal
  extract_lets low' stuck
  have kept : stuck.topaz.fatal = true ∧ stuck.topaz.faultPin = .low := by
    unfold stuck
    split <;> exact ⟨rfl, low⟩
  exact kept

theorem strikeFatal_quartz_frozen (b : Block) :
    ((strikeFatal .quartz b).isl .quartz).frozen = some (.fatal, b.quartz.tb) := by
  unfold strikeFatal
  extract_lets low stuck
  have freezes : stuck = low.modIsl .quartz (fun s => { s with frozen := some (.fatal, low.quartz.tb) }) := if_pos rfl
  rw [Block.modIsl_isl_self, freezes, Block.modIsl_isl_self]
  rfl

/-- FATAL in steps: the strike, Garnet's Frames, its stop, the shutdown event, and the posting. -/
theorem fatalFault_steps {b : Block} (i : Island) (hf : b.topaz.fatal = false) : ∃ tb tb' frame,
    fatalFault i b = postIslandFault i .fatal tb' 3 frame
      (sendShutdown (stopGarnet (logFault i .fatal tb 3 (failGarnet markTiming (strikeFatal i b))))) := by
  have fresh : ¬b.topaz.fatal = true := by rw [hf]; exact Bool.false_ne_true
  unfold fatalFault
  rw [if_neg fresh]
  exact ⟨_, _, _, rfl⟩

/-! ### The Time Base stands still while Onyx works -/

theorem startClip_kept (m : Nat) (c : PortClip) (cs : List PortClip) (g : OnyxSeg) (b : Block) :
    onlyChanges [.onyx] b (startClip m c cs g b) := by
  unfold startClip
  extract_lets p
  split
  · exact onlyChanges_refl _ _
  · exact portMod_frame (by decide) (onlyChanges_refl _ _)

theorem endClip_kept (m : Nat) (c : PortClip) (cs : List PortClip) (b : Block) : onlyChanges [.onyx] b (endClip m c cs b) := by
  unfold endClip
  extract_lets p
  split
  · exact onlyChanges_refl _ _
  · exact portMod_frame (by decide) (onlyChanges_refl _ _)

/-- A port with no serial work starts some, in Onyx alone. -/
theorem nextWork_kept (m : Nat) (b : Block) : onlyChanges [.onyx] b (nextWork m b) := by
  have idle : onlyChanges [.onyx] b b := onlyChanges_refl _ _
  have mods (f : Port → Port) : onlyChanges [.onyx] b (portMod m f b) := portMod_frame (by decide) idle
  unfold nextWork
  extract_lets p run
  split
  · exact idle
  split
  · exact startCommit_frame (by decide) idle
  split
  · split
    · split
      · split
        · exact startClip_kept ..
        · exact idle
      · split
        · exact mods _
        · exact idle
    · split
      · exact endClip_kept ..
      · exact idle
  · split
    · exact mods _
    · exact idle

theorem pumpPort_quartz (m k : Nat) (b : Block) : (pumpPort m k b).quartz = b.quartz := by
  induction k generalizing b with
  | zero => rfl
  | succ k ih =>
    have popped (rest : List PortStep) : (portMod m (fun p => { p with steps := rest }) b).quartz = b.quartz :=
      (portMod_frame (ps := [.onyx]) (by decide) (onlyChanges_refl _ b)).at_ .quartz (by decide)
    have done (s : PortStep) (rest : List PortStep) :
        (doStep m s (portMod m (fun p => { p with steps := rest }) b)).quartz = b.quartz :=
      ((doStep_frame (ps := [.jade, .opal, .posts, .onyx, .evr, .ch, .trace, .out]) (by decide)
        (onlyChanges_refl _ _)).at_ .quartz (by decide)).trans (popped rest)
    have issued (op : NvmeOp) (rest : List PortStep) :
        (issueCmd m op .serial false (portMod m (fun p => { p with steps := rest }) b)).quartz = b.quartz :=
      ((issueCmd_frame (ps := [.onyx, .out]) (by decide) (onlyChanges_refl _ _)).at_ .quartz (by decide)).trans (popped rest)
    have started : (nextWork m b).quartz = b.quartz := (nextWork_kept m b).at_ .quartz (by decide)
    unfold pumpPort
    extract_lets p b'
    split
    · rfl
    split
    · split
      · rfl
      · exact (ih _).trans (done ..)
    · refine (apply_ite Block.quartz _ _ _).trans ?_
      rw [issued, ite_self]
    · exact (ih _).trans (done ..)
    · split
      · exact started
      · exact (ih _).trans started

theorem foldl_keeps {α β : Type} {g : Block → β} {f : Block → α → Block} (hf : ∀ x y, g (f x y) = g x) (l : List α)
    (b : Block) : g (l.foldl f b) = g b := by
  induction l generalizing b with
  | nil => rfl
  | cons y l ih => exact (ih (f b y)).trans (hf b y)

/-- Port `m` after its serial work. -/
def pumped (m : Nat) (b : Block) : Block := pumpPort m ((b.port m).steps.length + 24) b

/-- A port's turn: its serial work, then its Writes. -/
def servePort (b : Block) (m : Nat) : Block :=
  postRehomed m (checkSlow m (issueShares m (((pumped m b).port m).mqes + 257) (pumped m b)))

theorem servePort_quartz (b : Block) (m : Nat) : (servePort b m).quartz = b.quartz :=
  ((postRehomed_frame (ps := [.jade, .opal, .posts, .onyx, .evr, .ch, .trace, .out]) (by decide) (checkSlow_frame (by decide)
    (issueShares_frame (by decide) (onlyChanges_refl _ _)))).at_ .quartz (by decide)).trans (pumpPort_quartz ..)

theorem serveOnyx_eq (b : Block) : serveOnyx b = if !(settleSegs (takeDecided b)).alive .onyx then settleSegs (takeDecided b)
    else tryReport false (closeTakes (postRolled ([0, 1, 2, 3, 0, 1, 2, 3].foldl servePort (settleSegs (takeDecided b))))) := rfl

theorem serveOnyx_quartz (b : Block) : (serveOnyx b).quartz = b.quartz := by
  have settled : (settleSegs (takeDecided b)).quartz = b.quartz :=
    (settleSegs_frame (ps := [.jade, .onyx, .evr, .ch, .trace]) (by decide)
      (takeDecided_frame (by decide) (onlyChanges_refl _ b))).at_ .quartz (by decide)
  have ends (x : Block) : (tryReport false (closeTakes (postRolled x))).quartz = x.quartz :=
    (tryReport_frame (ps := [.opal, .posts, .onyx, .ch, .trace, .out]) (by decide) (closeTakes_frame (by decide)
      (postRolled_frame (by decide) (onlyChanges_refl _ x)))).at_ .quartz (by decide)
  rw [serveOnyx_eq]
  split
  · exact settled
  · exact (ends _).trans ((foldl_keeps (g := Block.quartz) servePort_quartz _ _).trans settled)

theorem resumeIsland_quartz (i : Island) (b : Block) : (resumeIsland i b).quartz = b.quartz := by
  have control : (serveRing ctrlRing b).quartz = b.quartz :=
    (serveRing_frame (ps := [.posts, .evr, .trace, .out]) (by decide) (onlyChanges_refl _ b)).at_ .quartz (by decide)
  cases i with
  | opal => exact (resumeOpal_frame (ps := [.spinel, .opal, .posts, .evr, .ch, .trace, .out, .fresh]) (by decide)
      (onlyChanges_refl _ b)).at_ .quartz (by decide)
  | spinel => exact (serveAllHosts_frame (ps := [.spinel, .opal, .posts, .evr, .ch, .trace, .out]) (by decide)
      (repostBuffers_frame (by decide) (onlyChanges_refl _ b))).at_ .quartz (by decide)
  | onyx => exact serveOnyx_quartz b
  | _ => exact control

/-! ### Recovery (12 R315, R316, R321) -/

theorem failDescs_topaz (i : Island) (st : Nat) (b : Block) : (failDescs i st b).topaz = b.topaz :=
  (failDescs_frame (ps := [.posts, .evr, .trace, .out]) (by decide) (onlyChanges_refl _ b)).at_ .topaz (by decide)

theorem failDescs_regs (i : Island) (st : Nat) (b : Block) : (failDescs i st b).regs = b.regs :=
  (failDescs_frame (ps := [.posts, .evr, .trace, .out]) (by decide) (onlyChanges_refl _ b)).at_ .regs (by decide)

/-- The Island is uncommitted, and its commit will be a re-arm (12 R312). -/
def forgetCommit (i : Island) (b : Block) : Block :=
  b.modTopaz (fun t => { t with commit := t.commit.set i.num false, rearm := vset t.rearm i.num.val true })

/-- A stored register is none of Island `i`'s. -/
def notOf (i : Island) (e : Nat × Word) : Bool := match regRow e.1 with | some r => r.island != i | none => true

theorem notOf_eq (i : Island) (e : Nat × Word) : notOf i e = !(regRow e.1).any (fun r => r.island == i) := by
  unfold notOf
  split
  · next r h => rw [h]; rfl
  · next h => rw [h]; rfl

/-- The Island's registers and its commit are lost. -/
def unconfigure (i : Island) (b : Block) : Block := forgetCommit i { b with regs := b.regs.filter (notOf i) }

theorem unconfigure_topaz (i : Island) (b : Block) : (unconfigure i b).topaz =
    { b.topaz with commit := b.topaz.commit.set i.num false, rearm := vset b.topaz.rearm i.num.val true } := rfl

theorem unconfigure_regs (i : Island) (b : Block) : (unconfigure i b).regs = b.regs.filter (notOf i) := rfl

/-- Losing the configuration: descriptors end, registers and commit are lost, and the Island's own state is reset. -/
theorem loseConfig_kept (i : Island) (b : Block) :
    onlyChanges [.garnet, .jade, .spinel, .opal, .posts, .onyx, .agate] (unconfigure i (failDescs i stStale b))
      (loseConfig i b) := by
  unfold loseConfig
  extract_lets ended dropped forgot
  have same : onlyChanges [.garnet, .jade, .spinel, .opal, .posts, .onyx, .agate] (unconfigure i ended) forgot :=
    onlyChanges_refl _ _
  clear_value forgot
  cases i with
  | garnet => exact Block.modGarnet_frame (by decide) same
  | jade => exact Block.modJade_frame (by decide) same
  | spinel => exact Block.modSpinel_frame (by decide) same
  | opal => exact Block.modOpal_frame (by decide) same
  | onyx => exact Block.modOnyx_frame (by decide) same
  | agate => exact Block.modAgate_frame (by decide) same
  | _ => exact same

theorem loseConfig_topaz (i : Island) (b : Block) : (loseConfig i b).topaz =
    { b.topaz with commit := b.topaz.commit.set i.num false, rearm := vset b.topaz.rearm i.num.val true } := by
  have kept := (loseConfig_kept i b).at_ .topaz (by decide)
  exact kept.trans ((unconfigure_topaz i _).trans (by rw [failDescs_topaz]))

theorem loseConfig_regs (i : Island) (b : Block) : (loseConfig i b).regs = b.regs.filter (notOf i) := by
  have kept := (loseConfig_kept i b).at_ .regs (by decide)
  exact kept.trans ((unconfigure_regs i _).trans (by rw [failDescs_regs]))

theorem passAll_keepsFaults (b : Block) : keepsFaults b (passAll b) :=
  .of_frame (passAll_frame (ps := [.garnet, .ch, .trace]) (by decide) (onlyChanges_refl _ _))

theorem clearWork_keepsFaults (i : Island) (b : Block) : keepsFaults b (clearWork i b) := by
  have cleared (x : Block) (f : Agate → Agate) (g : Channels → Channels) : keepsFaults x ((x.modAgate f).modCh g) := rfl
  cases i with
  | garnet => exact (failGarnet_keepsFaults markFailStop b).trans (passAll_keepsFaults _)
  | agate =>
    unfold clearWork
    exact (failTransfers_keepsFaults b).trans (cleared ..)
  | _ => exact .refl b

/-- Every Unit of the Island takes its next generation. -/
def bumpGens (i : Island) (b : Block) : Block := b.modIsl i (fun s => { s with gens := s.gens.map nextGen })

/-- What recovery clears: generations, the work in hand, and the configuration unless it is kept. -/
def emptyIsland (i : Island) (configOk was : Bool) (b : Block) : Block :=
  let b := b.modIsl i (fun s => { s with
    gens := s.gens.map nextGen
    firstFailed := if was then s.firstFailed else none })
  let b := clearWork i (if configOk then b else failHeld i true b)
  if configOk then b else loseConfig i b

/-- The Island acts again: its Units READY, or EMPTY without their configuration; the recovery is counted. -/
def readyIsland (i : Island) (configOk : Bool) (b : Block) : Block :=
  let b := b.modIsl i (fun s => { s with
    frozen := none, failStop := false, held := if configOk then s.gens else s.held
    units := s.units.map (fun _ => if configOk then .ready else .empty) })
  let b := restamp i b
  settleFaultPin (b.modTopaz (fun t => { t with recovered := satAdd 65535 t.recovered 1 }))

/-- Recovery in steps: it is logged, the Island is emptied and made ready, work goes on, and the fault is posted. -/
theorem recoverIsland_steps (i : Island) (configOk : Bool) (b : Block) : ∃ c stamp action was frame,
    recoverIsland i configOk b = postIslandFault i c stamp action frame
      (resumeIsland i (readyIsland i configOk (emptyIsland i configOk was (logFault i c stamp action b)))) := by
  unfold recoverIsland
  rcases (b.isl i).frozen.getD (.parity, b.quartz.tb) with ⟨c, stamp⟩
  exact ⟨_, _, _, _, _, rfl⟩

theorem emptyIsland_faults (i : Island) (configOk was : Bool) (b : Block) : (emptyIsland i configOk was b).topaz.faults =
    (if configOk then bumpGens i b else forgetCommit i (bumpGens i b)).topaz.faults := by
  unfold emptyIsland
  extract_lets bumped cleared
  have bumps : bumped.topaz.faults = (bumpGens i b).topaz.faults := modIsl_faults rfl
  clear_value bumped
  cases configOk with
  | true => exact (clearWork_keepsFaults i bumped).faults.trans bumps
  | false =>
    have clears : cleared.topaz.faults = (bumpGens i b).topaz.faults :=
      ((failHeld_keepsFaults i true bumped).trans (clearWork_keepsFaults i _)).faults.trans bumps
    clear_value cleared
    show (loseConfig i cleared).topaz.faults = (forgetCommit i (bumpGens i b)).topaz.faults
    rw [loseConfig_topaz]
    exact congrArg (fun t : Topaz => { t with commit := t.commit.set i.num false, rearm := vset t.rearm i.num.val true }) clears

theorem emptyIsland_kept (i : Island) (configOk was : Bool) (b : Block) : onlyChanges [.disc, .garnet, .jade, .spinel, .opal,
    .posts, .onyx, .agate, .evr, .topaz, .dram, .ch, .trace, .regs, .out] b (emptyIsland i configOk was b) := by
  unfold emptyIsland
  extract_lets bumped cleared
  have bumps : onlyChanges [.disc, .garnet, .jade, .spinel, .opal, .posts, .onyx, .agate, .evr, .topaz, .dram, .ch, .trace, .regs,
      .out] b bumped := Block.modIsl_frame (by decide) (onlyChanges_refl _ _)
  clear_value bumped
  cases configOk with
  | true => exact clearWork_frame (by decide) bumps
  | false => exact loseConfig_frame (by decide) (clearWork_frame (by decide) (failHeld_frame (by decide) bumps))

theorem emptyIsland_lost_regs (i : Island) (was : Bool) (b : Block) :
    (emptyIsland i false was b).regs = b.regs.filter (notOf i) := by
  unfold emptyIsland
  extract_lets bumped cleared
  have clears : cleared.regs = b.regs := (clearWork_frame (ps := [.disc, .garnet, .jade, .spinel, .opal, .posts, .onyx, .agate,
      .evr, .topaz, .ch, .trace, .out]) (by decide) (failHeld_frame (by decide) (Block.modIsl_frame (by decide)
      (onlyChanges_refl _ b)))).at_ .regs (by decide)
  clear_value cleared
  exact (loseConfig_regs i cleared).trans (congrArg _ clears)


/-! ### What a recovered Island holds -/

/-- The fault state of an Island that acts again. -/
def IslandState.unfrozen (configOk : Bool) (s : IslandState) : IslandState :=
  { s with
    frozen := none, failStop := false, held := if configOk then s.gens else s.held
    units := s.units.map (fun _ => if configOk then .ready else .empty) }

/-- The Island acts again, and the recovery is counted. -/
def countRecovery (i : Island) (configOk : Bool) (b : Block) : Block :=
  (b.modIsl i (IslandState.unfrozen configOk)).modTopaz (fun t => { t with recovered := satAdd 65535 t.recovered 1 })

theorem countRecovery_faults_congr (i : Island) (configOk : Bool) {a b : Block} (h : a.topaz.faults = b.topaz.faults) :
    (countRecovery i configOk a).topaz.faults = (countRecovery i configOk b).topaz.faults := by
  have same : (a.isl i).sansFirst = (b.isl i).sansFirst := isl_sansFirst_of_faults h i
  have acts : ((a.isl i).unfrozen configOk).sansFirst = ((b.isl i).unfrozen configOk).sansFirst :=
    congrArg (IslandState.unfrozen configOk) same
  have isl : (a.topaz.isl.set i.num ((a.isl i).unfrozen configOk)).map IslandState.sansFirst =
      (b.topaz.isl.set i.num ((b.isl i).unfrozen configOk)).map IslandState.sansFirst := by
    rw [Vector.map_set, Vector.map_set, acts, show a.topaz.isl.map _ = b.topaz.isl.map _ from congrArg Topaz.isl h]
  have counted := congrArg (fun t : Topaz => { t with recovered := satAdd 65535 t.recovered 1 }) h
  exact (congrArg (fun v => { (countRecovery i configOk a).topaz.faults with isl := v }) isl).trans
    (congrArg (fun t : Topaz => { t with
      isl := (b.topaz.isl.set i.num ((b.isl i).unfrozen configOk)).map IslandState.sansFirst }) counted)

theorem readyIsland_faults (i : Island) (configOk : Bool) (b : Block) :
    (readyIsland i configOk b).topaz.faults = (countRecovery i configOk b).topaz.faults := by
  have stamped (x : Block) : (restamp i x).topaz = x.topaz :=
    (restamp_frame (ps := [.posts, .ch, .trace]) (by decide) (onlyChanges_refl _ x)).at_ .topaz (by decide)
  exact congrArg (fun t : Topaz => ({ t with recovered := satAdd 65535 t.recovered 1 } : Topaz).faults)
    (stamped (b.modIsl i (IslandState.unfrozen configOk)))

theorem resumeIsland_topaz (i : Island) (b : Block) : (resumeIsland i b).topaz = b.topaz :=
  (resumeIsland_frame (ps := [.quartz, .jade, .spinel, .opal, .posts, .onyx, .evr, .ch, .trace, .out, .fresh]) (by decide)
    (onlyChanges_refl _ b)).at_ .topaz (by decide)

theorem resumeIsland_regs (i : Island) (b : Block) : (resumeIsland i b).regs = b.regs :=
  (resumeIsland_frame (ps := [.quartz, .jade, .spinel, .opal, .posts, .onyx, .evr, .ch, .trace, .out, .fresh]) (by decide)
    (onlyChanges_refl _ b)).at_ .regs (by decide)

/-- What recovery makes of Topaz, beside the first Frames that failed and FAULT_N. -/
def recovered (i : Island) (configOk : Bool) (b : Block) : Block :=
  countRecovery i configOk (if configOk then bumpGens i b else forgetCommit i (bumpGens i b))

theorem recovered_topaz_congr (i : Island) (configOk : Bool) {a b : Block} (h : a.topaz = b.topaz) :
    (recovered i configOk a).topaz = (recovered i configOk b).topaz := by
  have alone (x : Block) : (recovered i configOk x).topaz = (recovered i configOk { b with topaz := x.topaz }).topaz := by
    cases configOk <;> rfl
  rw [alone a, h]

theorem recoverIsland_faults (i : Island) (configOk : Bool) (b : Block) :
    (recoverIsland i configOk b).topaz.faults = (recovered i configOk b).topaz.faults := by
  obtain ⟨c, stamp, action, was, frame, steps⟩ := recoverIsland_steps i configOk b
  have logged : (logFault i c stamp action b).topaz = b.topaz := (logFault_kept ..).at_ .topaz (by decide)
  rw [steps]
  generalize logFault i c stamp action b = b0 at logged
  rw [keepsFaults.faults (.of_frame (postIslandFault_kept ..)), resumeIsland_topaz, readyIsland_faults,
    countRecovery_faults_congr i configOk (emptyIsland_faults i configOk was b0)]
  exact congrArg Topaz.faults (recovered_topaz_congr i configOk logged)

section
variable (i : Island) (configOk : Bool) (b : Block)

theorem recovered_isl_self : (recovered i configOk b).isl i =
    IslandState.unfrozen configOk { b.isl i with gens := (b.isl i).gens.map nextGen } := by
  have bumped : (bumpGens i b).isl i = { b.isl i with gens := (b.isl i).gens.map nextGen } := Block.modIsl_isl_self ..
  have counted (x : Block) : (countRecovery i configOk x).isl i = (x.isl i).unfrozen configOk := Block.modIsl_isl_self ..
  rw [recovered, counted, ← bumped]
  cases configOk with
  | true => rfl
  | false =>
    have forgot : (forgetCommit i (bumpGens i b)).isl i = (bumpGens i b).isl i := rfl
    exact congrArg (IslandState.unfrozen false) forgot

theorem recovered_besideIslands : (recovered i configOk b).topaz.besideIslands = b.topaz.besideIslands := by
  have counted (x : Block) : (countRecovery i configOk x).topaz.besideIslands = x.topaz.besideIslands := rfl
  have forgot (x : Block) : (forgetCommit i x).topaz.besideIslands = x.topaz.besideIslands := rfl
  have bumped : (bumpGens i b).topaz.besideIslands = b.topaz.besideIslands := rfl
  cases configOk with
  | true => exact (counted _).trans bumped
  | false => exact (counted _).trans ((forgot _).trans bumped)

theorem recoverIsland_sansFirst : ((recoverIsland i configOk b).isl i).sansFirst =
    (IslandState.unfrozen configOk { b.isl i with gens := (b.isl i).gens.map nextGen }).sansFirst := by
  rw [isl_sansFirst_of_faults (recoverIsland_faults i configOk b) i, recovered_isl_self]

theorem recoverIsland_frozen : ((recoverIsland i configOk b).isl i).frozen = none :=
  frozen_of_sansFirst (recoverIsland_sansFirst ..)

theorem recoverIsland_failStop : ((recoverIsland i configOk b).isl i).failStop = false :=
  failStop_of_sansFirst (recoverIsland_sansFirst ..)

theorem recoverIsland_gens : ((recoverIsland i configOk b).isl i).gens = (b.isl i).gens.map nextGen :=
  gens_of_sansFirst (recoverIsland_sansFirst ..)

theorem recoverIsland_units : ((recoverIsland i configOk b).isl i).units =
    (b.isl i).units.map (fun _ => if configOk then .ready else .empty) :=
  units_of_sansFirst (recoverIsland_sansFirst ..)

theorem recoverIsland_recovered : (recoverIsland i configOk b).topaz.recovered = min 65535 (b.topaz.recovered + 1) := by
  have counted : (recovered i configOk b).topaz.recovered = min 65535 (b.topaz.recovered + 1) := by cases configOk <;> rfl
  exact (congrArg Topaz.recovered (recoverIsland_faults i configOk b) :).trans counted

theorem recoverIsland_committed : (recoverIsland i configOk b).committed i = (configOk && b.committed i) := by
  refine (congrArg (fun t : Topaz => t.commit.get i.num) (recoverIsland_faults i configOk b) :).trans ?_
  cases configOk with
  | true => rfl
  | false => exact Vector.getElem_set_self ..

theorem recoverIsland_besideIslands : (recoverIsland i configOk b).topaz.besideIslands = b.topaz.besideIslands :=
  (besideIslands_of_faults (recoverIsland_faults i configOk b)).trans (recovered_besideIslands ..)

/-- Of an Island that lost its configuration the commit will be a re-arm (12 R312). -/
theorem recoverIsland_rearm (hi : i.num.val < 7) : vget (recoverIsland i false b).topaz.rearm i.num.val false = true := by
  refine (congrArg (fun t : Topaz => vget t.rearm i.num.val false) (recoverIsland_faults i false b) :).trans ?_
  show (b.topaz.rearm.setIfInBounds i.num.val true).getD i.num.val false = true
  simp [Vector.getD, hi]

theorem readyIsland_kept : onlyChanges [.posts, .topaz, .ch, .trace] b (readyIsland i configOk b) := by
  unfold readyIsland
  extract_lets acting stamped
  have acts : onlyChanges [.posts, .topaz, .ch, .trace] b acting := Block.modIsl_frame (by decide) (onlyChanges_refl _ _)
  clear_value acting
  exact settleFaultPin_frame (by decide) (Block.modTopaz_frame (by decide) (restamp_frame (by decide) acts))

theorem recoverIsland_quartz : (recoverIsland i configOk b).quartz = b.quartz := by
  obtain ⟨c, stamp, action, was, frame, steps⟩ := recoverIsland_steps i configOk b
  rw [steps]
  have posted := (postIslandFault_kept i c stamp action frame (resumeIsland i (readyIsland i configOk (emptyIsland i configOk
    was (logFault i c stamp action b))))).at_ .quartz (by decide)
  have readied := (readyIsland_kept i configOk (emptyIsland i configOk was (logFault i c stamp action b))).at_ .quartz (by decide)
  have emptied := (emptyIsland_kept i configOk was (logFault i c stamp action b)).at_ .quartz (by decide)
  have logged := (logFault_kept i c stamp action b).at_ .quartz (by decide)
  exact posted.trans ((resumeIsland_quartz ..).trans (readied.trans (emptied.trans logged)))

theorem recoverIsland_lost_regs : (recoverIsland i false b).regs = b.regs.filter (notOf i) := by
  obtain ⟨c, stamp, action, was, frame, steps⟩ := recoverIsland_steps i false b
  rw [steps]
  have posted := (postIslandFault_kept i c stamp action frame (resumeIsland i (readyIsland i false (emptyIsland i false
    was (logFault i c stamp action b))))).at_ .regs (by decide)
  have readied := (readyIsland_kept i false (emptyIsland i false was (logFault i c stamp action b))).at_ .regs (by decide)
  have logged := (logFault_kept i c stamp action b).at_ .regs (by decide)
  exact posted.trans ((resumeIsland_regs ..).trans (readied.trans ((emptyIsland_lost_regs ..).trans (congrArg _ logged))))

/-- No stored register of an Island that lost its configuration is left (12 R321). -/
theorem recoverIsland_lost_none : ∀ e ∈ (recoverIsland i false b).regs, (regRow e.1).any (fun r => r.island == i) = false := by
  intro e he
  rw [recoverIsland_lost_regs, List.mem_filter, notOf_eq] at he
  simpa using he.2

end

/-- ISLAND_RECOVERY of a frozen Island that is not DEAD (12 R320, R321). -/
theorem islandRecovery_acts {i : Island} {b : Block} (hf : firmware b = true) (hi : i ∈ recoverable)
    (hz : (b.isl i).frozen ≠ none) (hd : (b.isl i).dead = false) (ok configOk : Bool) : islandRecovery i ok configOk b =
      if ok then recoverIsland i configOk b else if (b.isl i).failStop then b else failStopIsland i false b := by
  have frozen : (b.isl i).frozen.isNone = false := Option.isNone_eq_false_iff.mpr (Option.isSome_iff_ne_none.mpr hz)
  have named : i ≠ .quartz ∧ i ≠ .beryl ∧ i ≠ .topaz := by
    refine ⟨?_, ?_, ?_⟩ <;> rintro rfl <;> exact absurd hi (by decide)
  refine if_neg ?_
  simp [hf, frozen, hd, named]

theorem islandRecovery_idle {i : Island} {b : Block} (h : (b.isl i).frozen = none ∨ (b.isl i).dead = true) (ok configOk : Bool) :
    islandRecovery i ok configOk b = b := by
  refine if_pos ?_
  rcases h with h | h <;> simp [h]

/-! ### BERYL_ABSENT rises (12 R333, R334) -/

/-- A frozen Island fail-stops. -/
def stopFrozen (b : Block) (i : Island) : Block :=
  if (b.isl i).frozen.isSome && !(b.isl i).failStop then failStopIsland i false b else b

theorem raiseAbsent_eq (b : Block) :
    raiseAbsent b = recoverable.foldl stopFrozen (b.modTopaz (fun t => { t with absent := true })) := rfl

theorem stopFrozen_besideIslands (b : Block) (i : Island) : (stopFrozen b i).topaz.besideIslands = b.topaz.besideIslands := by
  unfold stopFrozen
  split
  · exact failStopIsland_besideIslands ..
  · rfl

theorem stopFrozen_frozen (b : Block) (i j : Island) :
    ((stopFrozen b i).isl j).frozen.isSome = (b.isl j).frozen.isSome := by
  unfold stopFrozen
  split
  next h =>
    by_cases same : j = i
    · subst same
      rw [failStopIsland_frozen_self, Option.isSome_some, (Bool.and_eq_true_iff.mp h).1]
    · rw [failStopIsland_frozen_of_ne _ _ _ same]
  next => rfl

theorem stopFrozen_failStop (b : Block) (i j : Island) :
    ((stopFrozen b i).isl j).failStop = ((b.isl j).failStop || (decide (j = i) && (b.isl j).frozen.isSome)) := by
  unfold stopFrozen
  split
  next h =>
    rw [failStopIsland_failStop]
    by_cases same : j = i
    · subst same
      simp [(Bool.and_eq_true_iff.mp h).1]
    · simp [same]
  next h =>
    by_cases same : j = i
    · subst same
      revert h
      cases (b.isl j).frozen.isSome <;> simp
    · simp [same]

theorem foldl_stopFrozen_failStop (l : List Island) (b : Block) {j : Island} (hj : j ∈ l) (hf : (b.isl j).frozen.isSome = true) :
    ((l.foldl stopFrozen b).isl j).failStop = true := by
  have stays (l : List Island) (b : Block) (h : (b.isl j).failStop = true) : ((l.foldl stopFrozen b).isl j).failStop = true := by
    induction l generalizing b with
    | nil => exact h
    | cons i l ih => exact ih _ (by rw [stopFrozen_failStop, h, Bool.true_or])
  induction l generalizing b with
  | nil => exact absurd hj List.not_mem_nil
  | cons i l ih =>
    by_cases same : j = i
    · exact stays l _ (by rw [stopFrozen_failStop, hf, Bool.and_true, decide_eq_true same, Bool.or_true])
    · exact ih _ ((List.mem_cons.mp hj).resolve_left same) ((stopFrozen_frozen ..).trans hf)

theorem raiseAbsent_besideIslands (b : Block) :
    (raiseAbsent b).topaz.besideIslands = { b.topaz.besideIslands with absent := true } := by
  rw [raiseAbsent_eq, foldl_keeps (g := fun x => x.topaz.besideIslands) stopFrozen_besideIslands]
  rfl

theorem raiseAbsent_failStop (b : Block) {i : Island} (hi : i ∈ recoverable) (hf : (b.isl i).frozen ≠ none) :
    ((raiseAbsent b).isl i).failStop = true :=
  foldl_stopFrozen_failStop _ _ hi (Option.isSome_iff_ne_none.mpr hf)

theorem raiseAbsent_quartz (b : Block) : (raiseAbsent b).quartz = b.quartz :=
  (raiseAbsent_frame (ps := [.disc, .garnet, .jade, .spinel, .opal, .posts, .onyx, .agate, .evr, .topaz, .ch, .trace, .out])
    (by decide) (onlyChanges_refl _ b)).at_ .quartz (by decide)

theorem raiseAbsent_regs (b : Block) : (raiseAbsent b).regs = b.regs :=
  (raiseAbsent_frame (ps := [.disc, .garnet, .jade, .spinel, .opal, .posts, .onyx, .agate, .evr, .topaz, .ch, .trace, .out])
    (by decide) (onlyChanges_refl _ b)).at_ .regs (by decide)

/-! ### The watchdog resets Beryl (12 R333, R336) -/

/-- The tick at which the watchdog's period has passed. -/
abbrev expiryTick (b : Block) : Nat := b.topaz.wdgLast + ownTicks b .topaz b.topaz.wdgLast (1024000 * wdgPeriod b)

/-- The reset is counted; the fourth within 60 s leaves Beryl DEAD. -/
def countReset (b : Block) : Block :=
  let tb := b.quartz.tb
  let times := tb :: b.topaz.resetTimes.filter (fun x => tb < x + ownTicks b .topaz x 61440000000)
  b.modTopaz (fun t => { t with
    restarts := satAdd 255 t.restarts 1, resetTimes := times, wdgLast := tb, berylDead := t.berylDead || 4 ≤ times.length })

/-- The MCU and THM's state machine are reset, and two of Beryl's Units take their next generation. -/
def resetBeryl (b : Block) : Block :=
  let b := b.modIsl .beryl (fun s => { s with frozen := none, units := s.units.map (fun _ => .ready) })
  settleFaultPin (modThm resetThermal (wakeUnit .beryl 2 (wakeUnit .beryl 0 b)))

/-- WATCHDOG_EXPIRY when its occasion holds. -/
theorem watchdogExpiry_steps {b : Block} (hp : b.topaz.pwr.on = true) (ho : b.topaz.berylOut = true)
    (hd : b.topaz.berylDead = false) (hw : b.beryl.romBad = true ∨ (2 ≤ b.topaz.stage ∧ b.topaz.absent = false)) :
    watchdogExpiry b = logBeryl 0 (raiseAbsent (resetBeryl (countReset (b.advance (expiryTick b))))) := by
  have due : (b.beryl.romBad || (decide (2 ≤ b.topaz.stage) && !b.topaz.absent)) = true := by
    rcases hw with hw | ⟨hs, ha⟩
    · rw [hw, Bool.true_or]
    · rw [decide_eq_true hs, ha, Bool.not_false, Bool.and_self, Bool.or_true]
  have advanced : (b.advance (expiryTick b)).topaz = b.topaz := Block.advance_topaz ..
  unfold watchdogExpiry
  rw [if_neg (by rw [hp, ho, hd, due]; decide)]
  unfold countReset
  rw [advanced]
  rfl

theorem resetBeryl_kept (b : Block) : onlyChanges [.thm, .topaz] b (resetBeryl b) :=
  settleFaultPin_frame (by decide) (modThm_frame (by decide) (wakeUnit_frame (by decide) (wakeUnit_frame (by decide)
    (Block.modIsl_frame (by decide) (onlyChanges_refl _ _)))))

theorem resetBeryl_besideIslands (b : Block) : (resetBeryl b).topaz.besideIslands = b.topaz.besideIslands := by
  have pinned (x : Block) : (settleFaultPin (modThm resetThermal x)).topaz.besideIslands = x.topaz.besideIslands := rfl
  have changed (x : Block) (f : IslandState → IslandState) :
      (x.modIsl .beryl f).topaz.besideIslands = x.topaz.besideIslands := rfl
  rw [resetBeryl, pinned, wakeUnit, changed, wakeUnit, changed, changed]

theorem resetBeryl_isl_of_ne {i : Island} (h : i ≠ .beryl) (b : Block) : (resetBeryl b).isl i = b.isl i := by
  have pinned (x : Block) : (settleFaultPin (modThm resetThermal x)).isl i = x.isl i := rfl
  rw [resetBeryl, pinned, wakeUnit, Block.modIsl_isl_of_ne h, wakeUnit, Block.modIsl_isl_of_ne h, Block.modIsl_isl_of_ne h]

theorem logBeryl_kept (event : Nat) (b : Block) : onlyChanges [.evr, .trace] b (logBeryl event b) :=
  logBeryl_frame (by decide) (onlyChanges_refl _ _)

section
variable {b : Block} (hp : b.topaz.pwr.on = true) (ho : b.topaz.berylOut = true) (hd : b.topaz.berylDead = false)
  (hw : b.beryl.romBad = true ∨ (2 ≤ b.topaz.stage ∧ b.topaz.absent = false))
include hp ho hd hw

theorem watchdogExpiry_quartz : (watchdogExpiry b).quartz = (b.advance (expiryTick b)).quartz := by
  rw [watchdogExpiry_steps hp ho hd hw]
  have logged (x : Block) : (logBeryl 0 x).quartz = x.quartz := (logBeryl_kept 0 x).at_ .quartz (by decide)
  have reset (x : Block) : (resetBeryl x).quartz = x.quartz := (resetBeryl_kept x).at_ .quartz (by decide)
  rw [logged, raiseAbsent_quartz, reset]
  rfl

theorem watchdogExpiry_besideIslands : (watchdogExpiry b).topaz.besideIslands =
    { (countReset (b.advance (expiryTick b))).topaz.besideIslands with absent := true } := by
  rw [watchdogExpiry_steps hp ho hd hw]
  have logged (x : Block) : (logBeryl 0 x).topaz = x.topaz := (logBeryl_kept 0 x).at_ .topaz (by decide)
  rw [logged, raiseAbsent_besideIslands, resetBeryl_besideIslands]

theorem watchdogExpiry_absent : (watchdogExpiry b).topaz.absent = true :=
  congrArg Topaz.absent (watchdogExpiry_besideIslands hp ho hd hw)

theorem watchdogExpiry_restarts : (watchdogExpiry b).topaz.restarts = min 255 (b.topaz.restarts + 1) := by
  have counted (x : Block) : (countReset x).topaz.restarts = min 255 (x.topaz.restarts + 1) := rfl
  have restarts := congrArg Topaz.restarts (watchdogExpiry_besideIslands hp ho hd hw)
  exact restarts.trans ((counted _).trans (by rw [Block.advance_topaz]))

/-- The fourth reset within 60 s leaves Beryl DEAD (12 R336). -/
theorem watchdogExpiry_berylDead : (watchdogExpiry b).topaz.berylDead = decide (3 ≤ (b.topaz.resetTimes.filter (fun x =>
    (watchdogExpiry b).quartz.tb < x + ownTicks b .topaz x 61440000000)).length) := by
  have counted (x : Block) : (countReset x).topaz.berylDead = (x.topaz.berylDead || decide (4 ≤ (x.topaz.resetTimes.filter
    (fun t => x.quartz.tb < t + ownTicks x .topaz t 61440000000)).length + 1)) := rfl
  have dead := congrArg Topaz.berylDead (watchdogExpiry_besideIslands hp ho hd hw)
  refine dead.trans ((counted _).trans ?_)
  rw [watchdogExpiry_quartz hp ho hd hw, Block.advance_topaz, hd, Bool.false_or]
  simp only [ownTicks_topaz_congr (b.advance (expiryTick b)) b, Nat.reduceLeDiff]

theorem watchdogExpiry_failStop {i : Island} (hi : i ∈ recoverable) (hf : (b.isl i).frozen ≠ none) :
    ((watchdogExpiry b).isl i).failStop = true := by
  have other : i ≠ .beryl := by rintro rfl; exact absurd hi (by decide)
  have logged (x : Block) : (logBeryl 0 x).topaz = x.topaz := (logBeryl_kept 0 x).at_ .topaz (by decide)
  have counted (x : Block) : (countReset x).isl i = x.isl i := rfl
  have advanced : (b.advance (expiryTick b)).isl i = b.isl i := by rw [Block.isl, Block.isl, Block.advance_topaz]
  rw [watchdogExpiry_steps hp ho hd hw, Block.isl, logged]
  refine raiseAbsent_failStop _ hi ?_
  rwa [resetBeryl_isl_of_ne other, counted, advanced]

end

/-! ### Beryl comes back (12 R335) -/

/-- A fail-stopped Island that is not DEAD is recovered. -/
def recoverStopped (lost : List Island) (b : Block) (i : Island) : Block :=
  if (b.isl i).failStop && !(b.isl i).dead then recoverIsland i (!lost.contains i) b else b

/-- BERYL_ABSENT is cleared and the watchdog starts. -/
def clearAbsent (b : Block) : Block := b.modTopaz (fun t => { t with absent := false, wdgLast := b.quartz.tb })

theorem recoverStopped_besideIslands (lost : List Island) (b : Block) (i : Island) :
    (recoverStopped lost b i).topaz.besideIslands = b.topaz.besideIslands := by
  unfold recoverStopped
  split
  · exact recoverIsland_besideIslands ..
  · rfl

theorem recoverStopped_quartz (lost : List Island) (b : Block) (i : Island) : (recoverStopped lost b i).quartz = b.quartz := by
  unfold recoverStopped
  split
  · exact recoverIsland_quartz ..
  · rfl

theorem clearAbsent_besideIslands (b : Block) : (clearAbsent b).topaz.besideIslands =
    { b.topaz.besideIslands with absent := false, wdgLast := b.quartz.tb } := rfl

theorem berylBack_besideIslands (mvs : List Nat) (lost : List Island) (b : Block) : (berylBack mvs lost b).topaz.besideIslands =
    { b.topaz.besideIslands with absent := false, wdgLast := b.quartz.tb } := by
  unfold berylBack
  extract_lets t asked begun formed new device stepped recovered cleared logged
  have begins : onlyChanges [.thm, .evr, .ch, .trace] b begun :=
    modThm_frame (by decide) (Block.modCh_frame (by decide) (modThm_frame (by decide) (onlyChanges_refl _ _)))
  clear_value begun
  have devices : onlyChanges [.thm, .evr, .ch, .trace] b device := modThm_frame (by decide) (formStates_frame (by decide) begins)
  clear_value device
  have steps : onlyChanges [.thm, .evr, .ch, .trace] b stepped := by
    unfold stepped
    split
    · exact stepUp_frame (by decide) devices
    · exact devices
  clear_value stepped
  have beside : recovered.topaz.besideIslands = b.topaz.besideIslands :=
    (foldl_keeps (g := fun x => x.topaz.besideIslands) (recoverStopped_besideIslands lost) recoverable stepped).trans
      (congrArg Topaz.besideIslands (steps.at_ .topaz (by decide)))
  have tb : recovered.quartz = b.quartz :=
    (foldl_keeps (g := Block.quartz) (recoverStopped_quartz lost) recoverable stepped).trans (steps.at_ .quartz (by decide))
  clear_value recovered
  have clears : cleared.topaz.besideIslands = { b.topaz.besideIslands with absent := false, wdgLast := b.quartz.tb } := by
    rw [← beside, ← tb]
    exact clearAbsent_besideIslands recovered
  clear_value cleared
  have ends : onlyChanges [.posts, .otc, .evr, .trace, .out] cleared (resumeRun mvs (postEvent evBerylRestart
      logged.garnet.frameNo (leBytes 2 logged.topaz.restarts) logged)) :=
    resumeRun_frame (by decide) (postEvent_frame (by decide) (logBeryl_frame (by decide) (onlyChanges_refl _ _)))
  exact (congrArg Topaz.besideIslands (ends.at_ .topaz (by decide))).trans clears

theorem berylBack_patched (mvs : List Nat) (lost : List Island) (b : Block) :
    (berylBack mvs lost b).beryl.patched = b.beryl.patched := by
  obtain ⟨_, _, patched, _⟩ := (berylBack_frame (mvs := mvs) (lost := lost) (ps := [.quartz, .disc, .garnet, .jade, .spinel,
    .opal, .posts, .onyx, .agate, .thm, .otc, .evr, .topaz, .dram, .ch, .trace, .regs, .out, .fresh]) (by decide)
    (onlyChanges_refl _ b)).at_ .beryl (by decide)
  exact patched

/-- What the restart has found out: the stage, and whether the patch is kept. -/
def noteRestart (patchOk : Bool) (b : Block) : Block :=
  let lost := b.beryl.patched && !patchOk
  (b.modTopaz (fun t => { t with patchLost := t.patchLost || lost, stage := 2 })).modBeryl (fun y => { y with
    patched := y.patched && patchOk })

theorem noteRestart_besideIslands (patchOk : Bool) (b : Block) : (noteRestart patchOk b).topaz.besideIslands =
    { b.topaz.besideIslands with patchLost := b.topaz.patchLost || (b.beryl.patched && !patchOk), stage := 2 } := rfl

section
variable {b : Block} (hp : b.topaz.pwr.on = true) (ha : b.topaz.absent = true) (hl : b.topaz.patchLoading = false)
  (hd : b.topaz.berylDead = false) (hr : b.beryl.romBad = false) (hm : b.topaz.dramReady = true)
  (patchOk : Bool) (mv : Nat) (bad : List Island) (more : List Nat)
include hp ha hl hd hr hm

theorem berylRestartDone_acts :
    berylRestartDone patchOk mv bad more b = berylBack (mv :: more) bad (noteRestart patchOk b) :=
  if_neg (by rw [hp, ha, hl, hd, hr, hm]; decide)

theorem berylRestartDone_besideIslands : (berylRestartDone patchOk mv bad more b).topaz.besideIslands =
    { b.topaz.besideIslands with
      patchLost := b.topaz.patchLost || (b.beryl.patched && !patchOk), stage := 2, absent := false, wdgLast := b.quartz.tb } := by
  rw [berylRestartDone_acts hp ha hl hd hr hm, berylBack_besideIslands, noteRestart_besideIslands]
  rfl

theorem berylRestartDone_patched : (berylRestartDone patchOk mv bad more b).beryl.patched = (b.beryl.patched && patchOk) := by
  rw [berylRestartDone_acts hp ha hl hd hr hm, berylBack_patched]
  rfl

end

/-- The image has been checked with result `r`. -/
def notePatch (r : Nat) (data : Option (List Byte)) (b : Block) : Block :=
  (b.modBeryl (fun y => { y with patched := r == 1, patch := if r = 1 then data.getD [] else [] })).modTopaz (fun t =>
    { t with patchResult := r, patchLoading := false, patchLost := false })

theorem notePatch_besideIslands (r : Nat) (data : Option (List Byte)) (b : Block) : (notePatch r data b).topaz.besideIslands =
    { b.topaz.besideIslands with patchResult := r, patchLoading := false, patchLost := false } := rfl

section
variable {b : Block} (hl : b.topaz.patchLoading = true) (data : Option (List Byte)) (mv : Nat) (bad : List Island)
  (more : List Nat)
include hl

theorem patchImageRead_acts : patchImageRead data mv bad more b =
    berylBack (mv :: more) bad (notePatch (patchCheck (b.reg 0x114) data) data b) :=
  if_neg (by rw [hl]; decide)

theorem patchImageRead_besideIslands : (patchImageRead data mv bad more b).topaz.besideIslands =
    { b.topaz.besideIslands with
      patchResult := patchCheck (b.reg 0x114) data, patchLoading := false, patchLost := false, absent := false
      wdgLast := b.quartz.tb } := by
  rw [patchImageRead_acts hl, berylBack_besideIslands, notePatch_besideIslands]
  rfl

theorem patchImageRead_patched :
    (patchImageRead data mv bad more b).beryl.patched = decide (patchCheck (b.reg 0x114) data = 1) := by
  rw [patchImageRead_acts hl, berylBack_patched]
  exact Bool.beq_eq_decide_eq _ _

end

/-! ### A patch is asked for (17 R451) -/

/-- The image is asked for, and Beryl is held meanwhile. -/
def holdForPatch (b : Block) : Block := raiseAbsent (b.modTopaz (fun t => { t with patchLoading := true }))

section
variable {b : Block} {w : Nat} (hb : b.bar0 = true) (hw : bitOf w 0 = true) (hk : bitsOf w 15 8 = 0xA5)
include hb hw hk

/-- A write of PATCH_CTRL with its key. -/
theorem patchLoad_keyed : patchLoad w b =
    if b.topaz.stage < 2 || b.topaz.absent || b.topaz.patchLoading then b.modTopaz (fun t => { t with patchResult := 2 })
    else (holdForPatch b).modOut (fun o => { o with
      reads := ((holdForPatch b).reg 0x10C + 2 ^ 32 * (holdForPatch b).reg 0x110, (holdForPatch b).reg 0x114) :: o.reads }) :=
  if_neg (by rw [hb, hw, hk]; decide)

theorem patchLoad_refused (h : b.topaz.stage < 2 ∨ b.topaz.absent = true ∨ b.topaz.patchLoading = true) :
    patchLoad w b = { b with topaz := { b.topaz with patchResult := 2 } } := by
  have refuses : (decide (b.topaz.stage < 2) || b.topaz.absent || b.topaz.patchLoading) = true := by
    rw [Bool.or_assoc, Bool.or_eq_true, Bool.or_eq_true, decide_eq_true_eq]
    exact h
  rw [patchLoad_keyed hb hw hk, if_pos refuses]
  rfl

section
variable (hs : 2 ≤ b.topaz.stage) (ha : b.topaz.absent = false) (hl : b.topaz.patchLoading = false)
include hs ha hl

theorem patchLoad_held : patchLoad w b = (holdForPatch b).modOut (fun o => { o with
    reads := ((holdForPatch b).reg 0x10C + 2 ^ 32 * (holdForPatch b).reg 0x110, (holdForPatch b).reg 0x114) :: o.reads }) := by
  rw [patchLoad_keyed hb hw hk, if_neg (by rw [decide_eq_false (Nat.not_lt.mpr hs), ha, hl]; decide)]

theorem patchLoad_besideIslands : (patchLoad w b).topaz.besideIslands =
    { b.topaz.besideIslands with patchLoading := true, absent := true } := by
  have asked (x : Block) (f : Outputs → Outputs) : (x.modOut f).topaz = x.topaz := rfl
  rw [patchLoad_held hb hw hk hs ha hl, asked, holdForPatch, raiseAbsent_besideIslands]
  rfl

theorem patchLoad_reads : (patchLoad w b).out.reads.head? = some (b.reg 0x10C + 2 ^ 32 * b.reg 0x110, b.reg 0x114) := by
  have regs : (holdForPatch b).regs = b.regs := raiseAbsent_regs _
  have reg (off : Nat) : (holdForPatch b).reg off = b.reg off := by rw [Block.reg, Block.reg, regs]
  rw [patchLoad_held hb hw hk hs ha hl]
  simp only [Block.modOut, reg, List.head?_cons]

end

end

/-! ### Reports and repeated events (12 R330, R333) -/

theorem watchdogReport_acts {b : Block} (hf : firmware b = true) (lost : Nat) : watchdogReport lost b =
    (if gapSeen lost then eventGap .topaz b else b).modTopaz (fun t => { t with wdgLast := b.quartz.tb }) :=
  if_pos hf

theorem eventGap_gaps (sink : Island) (b : Block) : (eventGap sink b).topaz.gaps = min 65535 (b.topaz.gaps + 1) := by
  have posted (x : Block) : (postFault sink 3 0 frameNone x).topaz = x.topaz :=
    (postFault_frame (ps := [.posts, .evr, .trace, .out]) (by decide) (onlyChanges_refl _ x)).at_ .topaz (by decide)
  exact congrArg Topaz.gaps (posted (b.modTopaz (fun t => { t with gaps := satAdd 65535 t.gaps 1 })))

/-- The event of the condition that holds (12 R330). -/
abbrev heldEvent (b : Block) : Option TopazEvent :=
  if b.topaz.pwr.flush then some (.loss (flushMs b.topaz.pwr))
  else if b.topaz.shutSent || b.topaz.fatal then some .shutdown else none

theorem heldEvent_loss {b : Block} (hf : b.topaz.pwr.flush = true) : heldEvent b = some (.loss (flushMs b.topaz.pwr)) := if_pos hf

theorem heldEvent_shutdown {b : Block} (hf : b.topaz.pwr.flush = false) (hs : b.topaz.shutSent = true) :
    heldEvent b = some .shutdown := by
  rw [heldEvent, hf, hs]
  rfl

theorem heldEvent_of {b : Block} (h : b.topaz.pwr.flush = true ∨ b.topaz.shutSent = true) : ∃ e, heldEvent b = some e := by
  cases hf : b.topaz.pwr.flush with
  | true => exact ⟨_, heldEvent_loss hf⟩
  | false => exact ⟨_, heldEvent_shutdown hf (h.resolve_left (by rw [hf]; decide))⟩

theorem eventRepeat_garnet {b : Block} {e : TopazEvent} (he : heldEvent b = some e)
    (hg : (b.garnet.stopped || (e == .shutdown && b.garnet.shutdown)) = false) (hc : e ∉ b.ch.topazGarnet) :
    eventRepeat .garnet 0 b = { b with ch := { b.ch with topazGarnet := b.ch.topazGarnet ++ [e] } } := by
  unfold eventRepeat
  rw [show (if b.topaz.pwr.flush then _ else _ : Option TopazEvent) = some e from he]
  simp only [Nat.zero_min, gapSeen_zero, Bool.false_eq_true, if_false, Block.modCh, List.drop_zero, hg, List.contains_eq_mem, hc,
    decide_false, Bool.or_self]

theorem eventRepeat_onyx {b : Block} {e : TopazEvent} (he : heldEvent b = some e)
    (hn : b.onyx.flush = none) (hc : e ∉ b.ch.topazOnyx) :
    eventRepeat .onyx 0 b = { b with ch := { b.ch with topazOnyx := b.ch.topazOnyx ++ [e] } } := by
  unfold eventRepeat
  rw [show (if b.topaz.pwr.flush then _ else _ : Option TopazEvent) = some e from he]
  simp only [Nat.zero_min, gapSeen_zero, Bool.false_eq_true, if_false, Block.modCh, List.drop_zero, hn, List.contains_eq_mem, hc,
    decide_false, Bool.or_self]

/-- Opal takes the one event that has reached it, and its sequence starts. -/
theorem takeTopazOpal_one {b : Block} {e : TopazEvent} (ht : b.takes .opal = true) (hc : b.ch.topazOpal = [e])
    (hf : b.opal.flush = .none_) : takeTopazOpal b =
      { b with opal := { b.opal with flush := .running }, ch := { b.ch with topazOpal := [] } } := by
  simp [takeTopazOpal, ht, hc, Block.modCh, Block.modOpal, hf]

theorem withTopazOpal_nil {b : Block} (hc : b.ch.topazOpal = []) : b.modCh (fun c => { c with topazOpal := [] }) = b := by
  rw [← hc]
  rfl

theorem takeTopazOpal_none {b : Block} (hc : b.ch.topazOpal = []) : takeTopazOpal b = b := by
  unfold takeTopazOpal
  rw [hc, withTopazOpal_nil hc, List.foldl_nil, ite_self]

theorem eventRepeat_opal {b : Block} {e : TopazEvent} (he : heldEvent b = some e) (ht : b.takes .opal = true)
    (hc : b.ch.topazOpal = []) (hf : b.opal.flush = .none_) (n : Nat) :
    eventRepeat .opal n b = { b with opal := { b.opal with flush := .running } } := by
  have sent : takeTopazOpal (b.modCh (fun c => { c with topazOpal := c.topazOpal ++ [e] })) =
      { b with opal := { b.opal with flush := .running } } := by
    rw [takeTopazOpal_one (b := b.modCh (fun c => { c with topazOpal := c.topazOpal ++ [e] })) ht (congrArg (· ++ [e]) hc) hf,
      ← hc]
    rfl
  have kept : b.modCh (fun c => { c with topazOpal := c.topazOpal.drop (min n b.ch.topazOpal.length) }) = b := by
    rw [hc, List.length_nil, Nat.min_zero]
    rfl
  unfold eventRepeat
  rw [show (if b.topaz.pwr.flush then _ else _ : Option TopazEvent) = some e from he]
  dsimp only
  rw [kept]
  simp only [hc, List.length_nil, Nat.min_zero, gapSeen_zero, Bool.false_eq_true, if_false, takeTopazOpal_none hc, hf,
    bne_self_eq_false, List.contains_eq_mem, List.not_mem_nil, decide_false, Bool.or_self, sent]

/-! ### What the clauses state of a fault -/

theorem stall_freezes {i : Island} {since : Nat} {b : Block} (hi : i ∈ recoverable) (ha : b.alive i = true)
    (hf : recentFaults (b.advance (stallTick i since b)) i < 3) (hb : b.topaz.absent = false) (hw : holdsWork b i = true)
    (hh : heldBack b i = false) (hs : since ≤ b.quartz.tb) :
    stall i since b = freeze i .stall (b.advance (stallTick i since b)) :=
  (stall_detects ha hw hh hs).trans
    (islandDetects_freezes hi ((Block.advance_alive ..).trans ha) hf (by rw [Block.advance_topaz, hb]))

theorem islandDetects_fatal {i : Island} {b : Block} (hi : i = .quartz ∨ i = .topaz) (ha : b.alive i = true) (c : FaultClass) :
    islandDetects i c b = fatalFault i b := by
  refine (if_neg (by rw [ha]; decide)).trans ?_
  rcases hi with rfl | rfl <;> rfl

theorem fatalFault_sansFirst {b : Block} (i : Island) (hf : b.topaz.fatal = false) :
    (fatalFault i b).topaz.sansFirst = { (strikeFatal i b).topaz.sansFirst with shutSent := true } := by
  obtain ⟨tb, tb', frame, steps⟩ := fatalFault_steps i hf
  have fails : keepsFaults (strikeFatal i b) (logFault i .fatal tb 3 (failGarnet markTiming (strikeFatal i b))) :=
    (failGarnet_keepsFaults ..).trans (.of_frame (logFault_kept ..))
  have sent (x : Block) : (sendShutdown x).topaz.sansFirst = { x.topaz.sansFirst with shutSent := true } := rfl
  have stopped (x : Block) : (stopGarnet x).topaz = x.topaz := rfl
  rw [steps, (postIslandFault_kept ..).at_ .topaz (by decide), sent, stopped, fails]

theorem fatalFault_stopped {b : Block} (i : Island) (hf : b.topaz.fatal = false) : (fatalFault i b).garnet.stopped = true := by
  obtain ⟨tb, tb', frame, steps⟩ := fatalFault_steps i hf
  have sent (x : Block) : (sendShutdown x).garnet = x.garnet :=
    (sendShutdown_frame (ps := [.topaz, .ch, .trace]) (by decide) (onlyChanges_refl _ x)).at_ .garnet (by decide)
  rw [steps, (postIslandFault_kept ..).at_ .garnet (by decide), sent]
  rfl

theorem fatalFault_quartz_frozen {b : Block} (hf : b.topaz.fatal = false) :
    ((fatalFault .quartz b).isl .quartz).frozen = some (.fatal, b.quartz.tb) := by
  have struck : (fatalFault .quartz b).topaz.faults =
      ((strikeFatal .quartz b).modTopaz (fun t => { t with shutSent := true })).topaz.faults :=
    congrArg (fun t : Topaz => { t with faultPin := .high }) (fatalFault_sansFirst .quartz hf)
  exact (frozen_of_sansFirst (isl_sansFirst_of_faults struck .quartz)).trans (strikeFatal_quartz_frozen b)

/-- The fourth fault of an Island within 60 s (12 R325). -/
theorem islandFault_dies {i : Island} {b : Block} (hi : i ∈ recoverable) (ha : b.alive i = true) (hf : 3 ≤ recentFaults b i) :
    ((islandFault i .parity b).isl i).failStop = true ∧ ((islandFault i .parity b).isl i).dead = true ∧
      ((islandFault i .parity b).isl i).frozen = some (.parity, b.quartz.tb) := by
  have dies : islandFault i .parity b = failStopIsland i true (freeze i .parity b) := islandDetects_dies hi ha hf
  rw [dies, failStopIsland_failStop, if_pos rfl, failStopIsland_dead_self, Bool.or_true, failStopIsland_frozen_self, freeze_frozen,
    Option.getD_some]
  exact ⟨rfl, rfl, rfl⟩

/-- A fault of Quartz or Topaz (12 R329). -/
theorem islandFault_fatal {i : Island} {b : Block} (hi : i = .quartz ∨ i = .topaz) (ha : b.alive i = true)
    (hf : b.topaz.fatal = false) :
    (islandFault i .parity b).topaz.fatal = true ∧ (islandFault i .parity b).topaz.shutSent = true ∧
      (islandFault i .parity b).topaz.faultPin = .low ∧ (islandFault i .parity b).garnet.stopped = true ∧
      (i = .quartz → ((islandFault i .parity b).isl .quartz).frozen = some (.fatal, b.quartz.tb)) := by
  have strikes : islandFault i .parity b = fatalFault i b := islandDetects_fatal hi ha .parity
  have topaz := fatalFault_sansFirst i hf
  obtain ⟨fatal, pin⟩ := strikeFatal_topaz i b
  rw [strikes]
  refine ⟨(congrArg Topaz.fatal topaz).trans fatal, congrArg Topaz.shutSent topaz, (congrArg Topaz.faultPin topaz).trans pin,
    fatalFault_stopped i hf, ?_⟩
  rintro rfl
  exact fatalFault_quartz_frozen hf

/-- A recovery that fails (12 R321). -/
theorem islandRecovery_fails {i : Island} {b : Block} (hf : firmware b = true) (hi : i ∈ recoverable)
    (hz : (b.isl i).frozen ≠ none) (hd : (b.isl i).dead = false) (hs : (b.isl i).failStop = false) (configOk : Bool) :
    ((islandRecovery i false configOk b).isl i).failStop = true ∧ ((islandRecovery i false configOk b).isl i).dead = false := by
  rw [islandRecovery_acts hf hi hz hd, hs, if_neg Bool.false_ne_true, if_neg Bool.false_ne_true, failStopIsland_failStop,
    if_pos rfl, failStopIsland_dead_self, hd]
  exact ⟨rfl, rfl⟩

end Sys2Proof.Machine

section
open Sys2Proof Sys2Proof.Machine

/-- Settles O56: what detects a fault acts by class and by the faults of the last 60 s; failing items changes only the first
failed Frames that Topaz notes, so fail-stop and recovery act on the one Island, over every Island in turn for the watchdog and
the restart; each instruction is the act of its own effect under its frame lemma. -/
theorem islandsFreezeRecoverAndFailStop : Obligations.IslandsFreezeRecoverAndFailStop := by
  refine ⟨?parity, ?stall, ?berylFault, ?fourth, ?fatal, ?recovered, ?configLost, ?recoveryFails, ?notRecoverable, ?lossToGarnet,
    ?shutdownToGarnet, ?lossToOnyx, ?toOpal, ?reportGap, ?report, ?expiry, ?restart, ?patchTaken, ?patchRefused, ?imageRead,
    ?islandFaultTotal, ?stallTotal, ?recoveryTotal, ?repeatTotal, ?reportTotal, ?expiryTotal, ?restartTotal, ?patchTotal,
    ?imageTotal⟩
  case parity =>
    intro q b i hi ha hf hb
    exact act_of_eq (islandDetects_freezes hi ha hf hb)
  case stall =>
    intro q b i since hi ha hf hb hw hh hs
    refine act_of_eq ((stall_freezes hi ha hf hb hw hh hs).trans ?_)
    simp only [freeze, ownTicks_topaz_congr (b.advance _) b]
  case berylFault =>
    intro q b ha
    exact act_of_eq (islandDetects_beryl ha)
  case fourth =>
    intro q b i hi ha hf
    obtain ⟨stopped, dead, frozen⟩ := islandFault_dies hi ha hf
    exact ⟨_, rfl, rfl, stopped, dead, frozen, islandFault_frame (c := .parity) (by decide) (onlyChanges_refl _ _)⟩
  case fatal =>
    intro q b i hi ha hf
    obtain ⟨fatal, shut, pin, stopped, frozen⟩ := islandFault_fatal hi ha hf
    exact ⟨_, rfl, rfl, fatal, shut, pin, stopped, frozen, islandFault_frame (c := .parity) (by decide) (onlyChanges_refl _ _)⟩
  case recovered =>
    intro q b i hf hi hz hd
    have acts : islandRecovery i true true b = recoverIsland i true b := islandRecovery_acts hf hi hz hd true true
    exact ⟨_, act_of_eq acts, rfl, recoverIsland_frozen .., recoverIsland_failStop .., fun _ => recoverIsland_gens ..,
      recoverIsland_units .., recoverIsland_recovered .., recoverIsland_committed ..,
      recoverIsland_frame (by decide) (onlyChanges_refl _ _)⟩
  case configLost =>
    intro q b i hf hi hz hd
    have acts : islandRecovery i true false b = recoverIsland i false b := islandRecovery_acts hf hi hz hd true false
    have small : i.num.val < 7 := by revert hi; cases i <;> decide
    exact ⟨_, act_of_eq acts, rfl, recoverIsland_frozen .., recoverIsland_units .., recoverIsland_committed ..,
      recoverIsland_rearm _ _ small, recoverIsland_lost_none _ _, recoverIsland_frame (by decide) (onlyChanges_refl _ _)⟩
  case recoveryFails =>
    intro q b i c hf hi hz hd hs
    obtain ⟨stopped, alive⟩ := islandRecovery_fails hf hi hz hd hs c
    exact ⟨_, rfl, rfl, stopped, alive, islandRecovery_frame (by decide) (onlyChanges_refl _ _)⟩
  case notRecoverable =>
    intro q b i ok c h
    exact act_of_eq (islandRecovery_idle h ok c)
  case lossToGarnet =>
    intro q b hf hg hc
    exact act_of_eq (eventRepeat_garnet (heldEvent_loss hf) (by rw [hg]; rfl) hc)
  case shutdownToGarnet =>
    intro q b hf hs hg hh hc
    exact act_of_eq (eventRepeat_garnet (heldEvent_shutdown hf hs) (by rw [hg, hh]; rfl) hc)
  case lossToOnyx =>
    intro q b hf hn hc
    exact act_of_eq (eventRepeat_onyx (heldEvent_loss hf) hn hc)
  case toOpal =>
    intro q b n h ht hc hf
    obtain ⟨e, he⟩ := heldEvent_of h
    exact act_of_eq (eventRepeat_opal he ht hc hf n)
  case reportGap =>
    intro q b lost hf hg
    have gap : watchdogReport lost b = (eventGap .topaz b).modTopaz (fun t => { t with wdgLast := b.quartz.tb }) := by
      rw [watchdogReport_acts hf, if_pos hg]
    exact ⟨_, act_of_eq gap, rfl, rfl, eventGap_gaps .topaz b, gap ▸ watchdogReport_frame (by decide) (onlyChanges_refl _ _)⟩
  case report =>
    intro q b hf
    exact act_of_eq (watchdogReport_acts hf 0)
  case expiry =>
    intro q b hp ho hd hw
    exact ⟨_, rfl, rfl, watchdogExpiry_absent hp ho hd hw, watchdogExpiry_restarts hp ho hd hw,
      watchdogExpiry_berylDead hp ho hd hw,
      fun i hi hf => watchdogExpiry_failStop hp ho hd hw hi hf, watchdogExpiry_frame (by decide) (onlyChanges_refl _ _)⟩
  case restart =>
    intro q b ok mv bad more hp ha hl hd hr hm
    have topaz := berylRestartDone_besideIslands hp ha hl hd hr hm ok mv bad more
    exact ⟨_, rfl, rfl, congrArg Topaz.absent topaz, congrArg Topaz.stage topaz, congrArg Topaz.wdgLast topaz,
      berylRestartDone_patched hp ha hl hd hr hm .., congrArg Topaz.patchLost topaz,
      berylRestartDone_frame (by decide) (onlyChanges_refl _ _)⟩
  case patchTaken =>
    intro q b w hb hw hk hs ha hl
    have topaz := patchLoad_besideIslands hb hw hk hs ha hl
    exact ⟨_, rfl, rfl, congrArg Topaz.patchLoading topaz, congrArg Topaz.absent topaz, patchLoad_reads hb hw hk hs ha hl,
      patchLoad_frame (by decide) (onlyChanges_refl _ _)⟩
  case patchRefused =>
    intro q b w hb hw hk h
    exact act_of_eq (patchLoad_refused hb hw hk h)
  case imageRead =>
    intro q b d mv bad more hl
    have topaz := patchImageRead_besideIslands hl d mv bad more
    exact ⟨_, rfl, rfl, congrArg Topaz.patchResult topaz, congrArg Topaz.patchLoading topaz, congrArg Topaz.absent topaz,
      congrArg Topaz.patchLost topaz, patchImageRead_patched hl .., patchImageRead_frame (by decide) (onlyChanges_refl _ _)⟩
  case islandFaultTotal => exact fun q b i c => ⟨rfl, islandFault_frame (by decide) (onlyChanges_refl _ _)⟩
  case stallTotal => exact fun q b i since => ⟨rfl, stall_frame (by decide) (onlyChanges_refl _ _)⟩
  case recoveryTotal => exact fun q b i ok c => ⟨rfl, islandRecovery_frame (by decide) (onlyChanges_refl _ _)⟩
  case repeatTotal => exact fun q b i lost => ⟨rfl, eventRepeat_frame (by decide) (onlyChanges_refl _ _)⟩
  case reportTotal => exact fun q b lost => ⟨rfl, watchdogReport_frame (by decide) (onlyChanges_refl _ _)⟩
  case expiryTotal => exact fun q b => ⟨rfl, watchdogExpiry_frame (by decide) (onlyChanges_refl _ _)⟩
  case restartTotal => exact fun q b ok mv bad more => ⟨rfl, berylRestartDone_frame (by decide) (onlyChanges_refl _ _)⟩
  case patchTotal => exact fun q b w => ⟨rfl, patchLoad_frame (by decide) (onlyChanges_refl _ _)⟩
  case imageTotal => exact fun q b d mv bad more => ⟨rfl, patchImageRead_frame (by decide) (onlyChanges_refl _ _)⟩

end
end

section
/-! What the commands of Topaz's power path share (14, 17 R440 to R445): reports of the hold-up state, supplies of the
magazine ports, the drop of the rails. -/

-- The proofs are elaborated one after another: each waiting in a thread of its own takes more memory than the check allows.
set_option Elab.async false

namespace Sys2Proof.Machine

theorem vget_vset {α : Type} {n : Nat} (v : Vector α n) (i : Nat) (x : α) (j : Nat) (d : α) :
    vget (vset v i x) j d = if i = j ∧ j < n then x else vget v j d := by
  unfold vget vset
  by_cases hj : j < n
  · have at_ (u : Vector α n) : u.getD j d = u[j] := by simp [Vector.getD, hj]
    rw [at_, at_, Vector.getElem_setIfInBounds hj]
    simp only [hj, and_true]
  · simp [Vector.getD, hj]

theorem vget_vset_self {α : Type} {n i : Nat} (hi : i < n) (v : Vector α n) (x d : α) : vget (vset v i x) i d = x := by
  rw [vget_vset, if_pos ⟨rfl, hi⟩]

/-- A command that is the act of `f` completes with what `f` makes of the block. -/
theorem completes_of_eq {c : Instr} {f : Block → Block} {q : List Instr} {b x : Block} {P : Block → Prop}
    (he : exec c ⟨q, b⟩ = act f ⟨q, b⟩) (hx : f b = x) (h : P x) : Completes c ⟨q, b⟩ P :=
  ⟨_, he.trans (act_of_eq hx), rfl, h⟩

/-! ### Events that Opal raises (08 R229, R230) -/

theorem writeRecord_evSeq (r : Nat) (l : List Byte) (b : Block) : (writeRecord r l b).opal.evSeq = b.opal.evSeq := by
  have ring (x : Block) (y : Ring) : (x.setRing r y).opal.evSeq = x.opal.evSeq := by
    unfold Block.setRing
    split <;> rfl
  have head (x : Block) : (readHead r x).opal.evSeq = x.opal.evSeq := by
    unfold readHead
    split <;> rfl
  rw [writeRecord, head, ring, Block.hostWrite_opal]

theorem requestMsg_evSeq (v : Nat) (b : Block) : (requestMsg v b).opal.evSeq = b.opal.evSeq := by
  unfold requestMsg
  extract_lets x
  split
  · rfl
  · split <;> rfl

theorem flushEvents_evSeq (k : Nat) (b : Block) : (flushEvents k b).opal.evSeq = b.opal.evSeq := by
  induction k generalizing b with
  | zero => rfl
  | succ k ih =>
    unfold flushEvents
    split
    · rfl
    · split
      · rw [ih, requestMsg_evSeq]
        exact writeRecord_evSeq ..
      · rfl

/-- An event raised while Opal is out of reset is counted (08 R229). -/
theorem postEvent_evSeq {b : Block} (h : b.inPower .opal = true) (code frame : Nat) (data : List Byte) :
    (postEvent code frame data b).opal.evSeq = (b.opal.evSeq + 1) % 2 ^ 32 := by
  unfold postEvent postEventAt
  rw [if_neg (by rw [h]; decide)]
  extract_lets o e raised
  split
  · exact flushEvents_evSeq ..
  · rfl

/-! ### Gates, lamps and reports of the hold-up state (14 R379, R386, R398, R402) -/

/-- The gates and the lamps driven by the power path's state, and that state noted as reported. -/
abbrev driven (p : Power) : Power := noteHold (driveLamps (driveGates p))

/-- What a HOLDUP event last reported: hold-up state, charge state, pattern. -/
def Power.reported (p : Power) : Nat × Nat × Nat := (p.holdState, p.chargeState, p.pattern)

/-- Driving what is driven already changes nothing. -/
theorem driven_driven (p : Power) : driven (driven p) = driven p := by
  have lamps (v : Vector (LampShow × Bool) 2) (x y : LampShow × Bool) :
      vset (vset (vset (vset v 0 x) 1 y) 0 x) 1 y = vset (vset v 0 x) 1 y := by
    ext i hi <;> simp only [vset, Vector.getElem_setIfInBounds] <;> split <;> simp_all
  exact congrArg (fun v => { driven p with lamps := v }) (lamps ..)

/-- What is reported already is noted already. -/
theorem noteHold_of_reported {p : Power} (h : p.reported = (holdCode p, chargeCode p, patternCode p)) : noteHold p = p := by
  unfold noteHold
  rw [← (Prod.mk.inj h).1, ← (Prod.mk.inj (Prod.mk.inj h).2).1, ← (Prod.mk.inj (Prod.mk.inj h).2).2]

theorem modPwr_topaz (f : Power → Power) (b : Block) : (modPwr f b).topaz = { b.topaz with pwr := f b.topaz.pwr } := rfl

/-- The gates and lamps driven. -/
def driveAll (b : Block) : Block := modPwr (fun p => driveLamps (driveGates p)) b

/-- A change is reported once; with no change nothing is (14 R402). -/
theorem tellHold_eq (b : Block) : tellHold b =
    if (driveAll b).topaz.pwr.reported = (driven b.topaz.pwr).reported then driveAll b
    else postEvent evHoldup frameNone (holdData (driveAll b).topaz.pwr) (modPwr noteHold (driveAll b)) := by
  unfold tellHold
  extract_lets c p
  have same : (p.holdState = holdCode p ∧ p.chargeState = chargeCode p ∧ p.pattern = patternCode p) ↔
      (driveAll b).topaz.pwr.reported = (driven b.topaz.pwr).reported := by
    simp only [Power.reported, Prod.mk.injEq]
    rfl
  simp only [Bool.and_eq_true, decide_eq_true_eq, and_assoc, same]
  rfl

theorem tellHold_topaz (b : Block) : (tellHold b).topaz = { b.topaz with pwr := driven b.topaz.pwr } := by
  rw [tellHold_eq]
  split
  · next h => exact congrArg (fun p => { b.topaz with pwr := p }) (noteHold_of_reported h).symm
  · exact postEvent_topaz ..

theorem tellHold_pwr (b : Block) : (tellHold b).topaz.pwr = driven b.topaz.pwr := by
  rw [tellHold_topaz]

theorem tellHold_evSeq {b : Block} (h : b.inPower .opal = true) : (tellHold b).opal.evSeq =
    if (driven b.topaz.pwr).reported = b.topaz.pwr.reported then b.opal.evSeq else (b.opal.evSeq + 1) % 2 ^ 32 := by
  have same : (driveAll b).topaz.pwr.reported = b.topaz.pwr.reported := rfl
  rw [tellHold_eq, same]
  split
  · next hs => rw [if_pos hs.symm]; rfl
  · next hs =>
    rw [if_neg (Ne.symm hs)]
    exact postEvent_evSeq (b := modPwr noteHold (driveAll b)) h ..

/-- `t`, reached from `b`, drives gates and lamps by its state; one event has been raised if that state differs from the one
reported in `b`, and none otherwise; only `ps` changed. -/
def reports (ps : List Piece) (b t : Block) : Prop :=
  t.topaz.pwr = noteHold (driveLamps (driveGates t.topaz.pwr)) ∧
  (b.inPower .opal = true →
    t.opal.evSeq = if t.topaz.pwr.holdState = b.topaz.pwr.holdState ∧ t.topaz.pwr.chargeState = b.topaz.pwr.chargeState ∧
        t.topaz.pwr.pattern = b.topaz.pwr.pattern then b.opal.evSeq else (b.opal.evSeq + 1) % 2 ^ 32) ∧
  onlyChanges ps b t

/-- A change of Topaz that is then reported: `b` is the block before it, `x` after it. -/
theorem tellHold_reports {ps : List Piece} {b x : Block} (frame : onlyChanges ps b (tellHold x))
    (ho : x.opal = b.opal := by rfl) (hr : x.topaz.released = b.topaz.released := by rfl)
    (hp : x.topaz.pwr.reported = b.topaz.pwr.reported := by rfl) : reports ps b (tellHold x) := by
  refine ⟨?_, fun power => ?_, frame⟩
  · rw [tellHold_pwr]
    exact (driven_driven x.topaz.pwr).symm
  · have counted := tellHold_evSeq (b := x) (hr.trans power)
    rw [hp, ho] at counted
    rw [counted, tellHold_topaz]
    simp only [Power.reported, Prod.mk.injEq]

theorem tellHold_kept (b : Block) : onlyChanges [.posts, .topaz, .out] b (tellHold b) :=
  tellHold_frame (by decide) (onlyChanges_refl _ _)

/-! ### The pack (14 R382, R383, R391) -/

/-- The pack becomes `k`, READY is settled, and the change reported. -/
def settlePack (k : Pack) (b : Block) : Block := settleHold (modPack (fun _ => k) b)

section
variable (k : Pack) (b : Block)

theorem settlePack_topaz : (settlePack k b).topaz = { b.topaz with pwr := driven { b.topaz.pwr with
    pack := { k with ready := readyNow { b.topaz.pwr with pack := k } } } } := tellHold_topaz _

theorem settlePack_pack : (settlePack k b).topaz.pwr.pack = { k with ready := readyNow { b.topaz.pwr with pack := k } } := by
  rw [settlePack_topaz]
  rfl

theorem settlePack_kept : onlyChanges [.posts, .topaz, .out] b (settlePack k b) :=
  settleHold_frame (by decide) (modPack_frame (by decide) (onlyChanges_refl _ _))

end

/-- The pack after a reading, but for READY. -/
def readPack (ohms : Nat) (temp : Int) (p : Power) : Pack :=
  if (readId ohms p.pack).kind = .absent then readId ohms p.pack else readNtc temp { p with pack := readId ohms p.pack }

theorem packRead_acts {b : Block} (h : b.topaz.pwr.on = true) (ohms : Nat) (temp : Int) :
    packRead ohms temp b = settlePack (readPack ohms temp b.topaz.pwr) b := by
  have sensor (p : Power) : (if p.pack.kind = .absent then p else { p with pack := readNtc temp p }) =
      { p with pack := if p.pack.kind = .absent then p.pack else readNtc temp p } := by
    split <;> rfl
  unfold packRead
  rw [if_neg (by rw [h]; decide)]
  simp only [sensor]
  rfl

theorem readPack_present {ohms : Nat} {p : Power} (h : (readId ohms p.pack).kind ≠ .absent) (temp : Int) :
    readPack ohms temp p = readNtc temp { p with pack := readId ohms p.pack } := if_neg h

theorem readNtc_kind (t : Int) (p : Power) : (readNtc t p).kind = p.pack.kind := by
  have zones : (updateZones p t).kind = p.pack.kind := by
    unfold updateZones
    extract_lets k h cw dw allowed
    split <;> rfl
  unfold readNtc
  extract_lets k
  split <;> exact zones

theorem readPack_kind (ohms : Nat) (temp : Int) (p : Power) : (readPack ohms temp p).kind = (readId ohms p.pack).kind := by
  unfold readPack
  split
  · rfl
  · exact readNtc_kind ..

theorem kindOf_ne_absent (ohms : Nat) : kindOf ohms ≠ .absent := by
  unfold kindOf
  split
  · decide
  · split <;> decide

/-- The pack switch opens unless the latch holds an entry (14 R396). -/
theorem openSwitch_topaz (b : Block) : (openSwitch b).topaz =
    { b.topaz with pwr := { b.topaz.pwr with packSwitch := b.topaz.pwr.packSwitch && !b.topaz.latch.isEmpty } } := by
  unfold openSwitch
  split
  · next h => rw [h, Bool.not_true, Bool.and_false]; rfl
  · next h => rw [Bool.eq_false_iff.mpr h, Bool.not_false, Bool.and_true]

/-! ### Supplies of the magazine ports (14 R392, R393) -/

theorem setMagpwr_topaz (m : Nat) (on : Bool) (b : Block) : (setMagpwr m on b).topaz =
    { b.topaz with pwr := { b.topaz.pwr with magpwr := vset b.topaz.pwr.magpwr m on } } := by
  unfold setMagpwr
  split <;> rfl

/-- Port by port, each supply becomes what `on` makes of it. -/
theorem foldl_ports_magpwr {f : Block → Nat → Block} {on : Nat → Bool → Bool}
    (hf : ∀ x m, (f x m).topaz.pwr.magpwr = vset x.topaz.pwr.magpwr m (on m (vget x.topaz.pwr.magpwr m false))) (b : Block)
    {m : Nat} (hm : m < 4) :
    vget (([0, 1, 2, 3] : List Nat).foldl f b).topaz.pwr.magpwr m false = on m (vget b.topaz.pwr.magpwr m false) := by
  obtain rfl | rfl | rfl | rfl : m = 0 ∨ m = 1 ∨ m = 2 ∨ m = 3 := by omega
  all_goals simp [hf, vget_vset]

/-- Every port of the magazines loses its supply. -/
def portsOff (b : Block) : Block := [0, 1, 2, 3].foldl (fun b m => setMagpwr m false b) b

theorem portsOff_topaz (b : Block) : (portsOff b).topaz =
    { b.topaz with pwr := { b.topaz.pwr with magpwr := .replicate 4 false } } := by
  have off (v : Vector Bool 4) : vset (vset (vset (vset v 0 false) 1 false) 2 false) 3 false = .replicate 4 false := by
    ext i hi
    simp only [vset, Vector.getElem_setIfInBounds, Vector.getElem_replicate]
    grind
  simp only [portsOff, List.foldl_cons, List.foldl_nil, setMagpwr_topaz, off]

theorem portsOff_kept (b : Block) : onlyChanges [.onyx, .topaz] b (portsOff b) :=
  onlyChanges_foldl (fun _ _ h => setMagpwr_frame (by decide) h) (onlyChanges_refl _ _)

theorem vget_replicate_false {n : Nat} (m : Nat) : vget (Vector.replicate n false) m false = false := by
  by_cases h : m < n <;> simp [vget, Vector.getD, h]

/-! ### The drop of the rails (17 R441) -/

/-- The entry of a shutdown that is not yet burned goes into the latch (15 R416). -/
def latchShut (b : Block) : Block :=
  match b.topaz.shut with
  | some s => latchEntry (s.entry.getD (telEntry s true (b.topaz.pwr.onyxReport != some true)))
      (b.modTopaz (fun t => { t with shut := none }))
  | none => b

theorem latchShut_topaz (b : Block) : ∃ l n, (latchShut b).topaz = { b.topaz with shut := none, latch := l, latchLost := n } := by
  unfold latchShut
  split
  · unfold latchEntry
    split <;> exact ⟨_, _, rfl⟩
  · next h => exact ⟨b.topaz.latch, b.topaz.latchLost, congrArg (fun x => { b.topaz with shut := x }) h⟩

theorem latchShut_kept (b : Block) : onlyChanges [.topaz] b (latchShut b) := by
  unfold latchShut
  split
  · exact latchEntry_frame (by decide) (Block.modTopaz_frame (by decide) (onlyChanges_refl _ _))
  · exact onlyChanges_refl _ _

/-- A drop for reason `r` begins: PWR_GOOD low, no supply, no wait, every Island in reset. -/
def dropBegins (r : DropReason) (b : Block) : Block :=
  resetIslands ((modPwr (fun p => { p with upWait := none }) (portsOff (latchShut b))).modTopaz (fun t =>
    { t with drop := some r, pwrGood := false, pwrPin := false }))

theorem dropBegins_pwr (r : DropReason) (b : Block) : (dropBegins r b).topaz.pwr =
    { b.topaz.pwr with magpwr := .replicate 4 false, upWait := none } := by
  obtain ⟨l, n, shut⟩ := latchShut_topaz b
  show { (portsOff (latchShut b)).topaz.pwr with upWait := none } = _
  rw [portsOff_topaz, shut]

/-- What a drop leaves as it was in Topaz: the enables, and what PSQ noted of a failed rail. -/
def Topaz.railNotes (t : Topaz) : Vector Bool 6 × Nat × Nat × Nat := (t.enables, t.rail, t.railFails, t.faultCode)

theorem dropBegins_railNotes (r : DropReason) (b : Block) : (dropBegins r b).topaz.railNotes = b.topaz.railNotes := by
  obtain ⟨l, n, shut⟩ := latchShut_topaz b
  show (portsOff (latchShut b)).topaz.railNotes = _
  rw [portsOff_topaz, shut]
  rfl

theorem startDrop_lowers {b : Block} {j : Nat} (r : DropReason) (hd : b.topaz.drop = none) (ht : topRail b.topaz = some j) :
    startDrop r b = (dropBegins r b).modTopaz (fun t => { t with psq := .lowering j }) := by
  have top : topRail (dropBegins r b).topaz = some j :=
    (congrArg (fun v => ([5, 4, 3, 2, 1, 0] : List Nat).find? (fun k => vget v k false))
      (congrArg Prod.fst (dropBegins_railNotes r b))).trans ht
  have step : startDrop r b = match topRail (dropBegins r b).topaz with
      | some k => (dropBegins r b).modTopaz (fun t => { t with psq := .lowering k })
      | none => railsDown ((dropBegins r b).modTopaz (fun t => { t with psq := .off })) :=
    if_neg (by rw [hd]; decide)
  rw [step, top]

/-- Every part but the fresh names: what a drop of the rails may change. -/
abbrev resetParts : List Piece :=
  [.quartz, .disc, .tod, .garnet, .jade, .spinel, .opal, .posts, .onyx, .agate, .thm, .otc, .evr, .beryl, .topaz, .dram, .ch,
    .trace, .regs, .out]

/-- `t`, reached from `b`, lowers the rails from `j` on for reason `r`, every Island in reset, the fuses kept. -/
def drops (r : DropReason) (j : Nat) (b t : Block) : Prop :=
  t.topaz.drop = some r ∧
  t.topaz.psq = .lowering j ∧
  t.topaz.pwrGood = false ∧
  t.topaz.pwrPin = false ∧
  t.topaz.released = false ∧
  (∀ m < 4, vget t.topaz.pwr.magpwr m false = false) ∧
  t.quartz = coldQuartz ∧
  t.dram = [] ∧
  t.beryl.otc.fuses = b.beryl.otc.fuses ∧
  onlyChanges resetParts b t

section
variable {b : Block} {j : Nat} (r : DropReason) (hd : b.topaz.drop = none) (ht : topRail b.topaz = some j)
include hd ht

theorem startDrop_pwr : (startDrop r b).topaz.pwr = { b.topaz.pwr with magpwr := .replicate 4 false, upWait := none } := by
  rw [startDrop_lowers r hd ht, ← dropBegins_pwr r b]
  rfl

theorem startDrop_railNotes : (startDrop r b).topaz.railNotes = b.topaz.railNotes := by
  rw [startDrop_lowers r hd ht, ← dropBegins_railNotes r b]
  rfl

/-- `a` is the block before the command that drops the rails, `b` the one in which they drop. -/
theorem startDrop_drops {a : Block} (before : onlyChanges resetParts a b)
    (hf : b.beryl.otc.fuses = a.beryl.otc.fuses := by rfl) : drops r j a (startDrop r b) := by
  have off : ∀ m < 4, vget (startDrop r b).topaz.pwr.magpwr m false = false := fun m _ => by
    rw [startDrop_pwr r hd ht]
    exact vget_replicate_false m
  have fuses : (dropBegins r b).beryl.otc.fuses = a.beryl.otc.fuses := by
    have kept : (portsOff (latchShut b)).beryl.otc = b.beryl.otc :=
      ((portsOff_kept _).at_ .otc (by decide)).trans ((latchShut_kept b).at_ .otc (by decide))
    exact (congrArg Otc.fuses kept).trans hf
  have frame := startDrop_frame (r := r) (by decide) before
  rw [startDrop_lowers r hd ht] at off frame ⊢
  exact ⟨rfl, rfl, rfl, rfl, rfl, off, rfl, rfl, fuses, frame⟩

end

end Sys2Proof.Machine
end

section
/-! O57: power-up and power-down of the rails, and the release of reset (17 R439 to R448, R454; 14 R396). -/

-- The proofs are elaborated one after another: each waiting in a thread of its own takes more memory than the check allows.
set_option Elab.async false

namespace Sys2Proof.Machine

/-! ### Power-up (17 R439, R440) -/

/-- Topaz as VDD_AO brings it up, before it has read the pack. -/
def freshStart (b : Block) : Block :=
  { resetAll b with topaz := { coldTopaz with pwr := { coldPower with on := true, packSwitch := true } } }

theorem readId_fresh (ohms : Nat) : (readId ohms coldPack).kind = if 500000 < ohms then .absent else kindOf ohms := by
  unfold readId
  split
  · rfl
  · split
    · split
      · next h => exact h.symm
      · rfl
    · next h => exact absurd rfl h

theorem topazStart_acts {b : Block} (h : b.topaz.pwr.on = false) (ohms : Nat) (temp : Int) :
    topazStart ohms temp b = settlePack (readPack ohms temp (freshStart b).topaz.pwr) (freshStart b) :=
  (if_neg (by rw [h]; decide)).trans (packRead_acts (b := freshStart b) rfl ohms temp)

/-- PSQ begins power-up, not yet reported. -/
def poweringUp (b : Block) : Block :=
  settleFaultPin ((modPwr (fun p => { p with
    show_ := none, upWait := none, ship := false, packSwitch := true, gdMain := true, mainSeenLow := !p.mainOk, hup := coldHup
    pack := { p.pack with faultTimer := false, zoned := false } }) (resetAll b)).modTopaz (fun t => { t with
      psq := .raising 0, enables := vset t.enables 0 true, faultCode := 0, fatal := false, drop := none }))

section
variable {b : Block} (hw : b.topaz.pwr.upWait ≠ none) (hq : b.topaz.psq = .off)
include hw hq

theorem powerUpDelay_waited : powerUpDelay b = if b.topaz.pwr.mainOk then beginPowerUp b else
    modPwr (fun p => { p with
      upWait := none, packSwitch := p.packSwitch || p.upWait == some 2, mainSeenLow := true }) b := by
  refine if_neg ?_
  rw [Bool.or_eq_true, Option.isNone_iff_eq_none, hq]
  rintro (h | h)
  · exact hw h
  · revert h
    decide

theorem powerUpDelay_begins (hm : b.topaz.pwr.mainOk = true) : powerUpDelay b = tellHold (poweringUp b) :=
  (powerUpDelay_waited hw hq).trans (if_pos hm)

theorem powerUpDelay_ends (hm : b.topaz.pwr.mainOk = false) : powerUpDelay b = modPwr (fun p => { p with
    upWait := none, packSwitch := p.packSwitch || p.upWait == some 2, mainSeenLow := true }) b :=
  (powerUpDelay_waited hw hq).trans (if_neg (by rw [hm]; decide))

end

theorem railEnableDelay_risen {b : Block} {k : Nat} (h : b.topaz.psq = .risen k) : railEnableDelay b =
    if k < 5 then b.modTopaz (fun t => { t with enables := vset t.enables (k + 1) true, psq := .raising (k + 1) })
    else b.modTopaz (fun t => { t with psq := .up, pwrGood := true }) := by
  unfold railEnableDelay
  rw [h]

/-! ### A rail fails (17 R440, R442) -/

/-- What Topaz notes of rail `k`, that has failed: the second failure in one presence of the main input signals `code`. -/
def noteRail (k code : Nat) (b : Block) : Block :=
  b.modTopaz (fun t => { t with
    railFails := b.topaz.railFails + bit b.topaz.pwr.mainOk, rail := k
    faultCode := if 2 ≤ b.topaz.railFails + bit b.topaz.pwr.mainOk then code else t.faultCode })

theorem railFailed_eq (k code : Nat) (b : Block) : railFailed k code b = startDrop .railFail (noteRail k code b) := rfl

section
variable {b : Block} {j : Nat} (hd : b.topaz.drop = none) (ht : topRail b.topaz = some j) (k code : Nat)
include hd ht

theorem railFailed_notes : (railFailed k code b).topaz.rail = k ∧
    (railFailed k code b).topaz.railFails = b.topaz.railFails + bit b.topaz.pwr.mainOk ∧
    (railFailed k code b).topaz.faultCode =
      if 2 ≤ b.topaz.railFails + bit b.topaz.pwr.mainOk then code else b.topaz.faultCode := by
  obtain ⟨-, notes⟩ := Prod.mk.inj (startDrop_railNotes (b := noteRail k code b) .railFail hd ht)
  obtain ⟨rail, notes⟩ := Prod.mk.inj notes
  obtain ⟨fails, signalled⟩ := Prod.mk.inj notes
  exact ⟨rail, fails, signalled⟩

theorem railFailed_drops {a : Block} (before : onlyChanges resetParts a b)
    (hf : b.beryl.otc.fuses = a.beryl.otc.fuses := by rfl) : drops .railFail j a (railFailed k code b) :=
  startDrop_drops (b := noteRail k code b) .railFail hd ht (Block.modTopaz_frame (by decide) before) hf

end

theorem railTimeout_fails {b : Block} {k : Nat} (h : b.topaz.psq = .raising k) : railTimeout b = railFailed k 4 b := by
  unfold railTimeout
  rw [h]

/-- A rail is lost: no flush runs any more. -/
def railLost (k : Nat) (b : Block) : Block :=
  modPwr (fun p => { p with flush := false, onyxReport := none }) (b.modTopaz (fun t => { t with pg := vset t.pg k false }))

theorem railPgFall_fails {b : Block} {k : Nat} (h : b.topaz.psq = .up) (hk : k < 6) :
    railPgFall k b = railFailed k 5 (railLost k b) := if_pos (by rw [h, decide_eq_true hk]; decide)

/-! ### What follows a power-down (17 R441; 14 R396, R400) -/

/-- The last enable goes low. -/
def lastDown (b : Block) : Block :=
  b.modTopaz (fun t => { t with enables := vset t.enables 0 false, pg := vset t.pg 0 false, psq := .off })

theorem railDownStep_next {b : Block} {k : Nat} (h : b.topaz.psq = .lowering (k + 1)) : railDownStep b =
    b.modTopaz (fun t => { t with
      enables := vset t.enables (k + 1) false, pg := vset t.pg (k + 1) false, psq := .lowering k }) := by
  unfold railDownStep
  rw [h]
  rfl

theorem railDownStep_last {b : Block} (h : b.topaz.psq = .lowering 0) : railDownStep b = railsDown (lastDown b) := by
  unfold railDownStep
  rw [h]
  rfl

/-- The last step down, whose Topaz is `u` once what follows it is decided: PSQ rests, and `P` is read off `u`. -/
theorem railDownStep_completes {q : List Instr} {b : Block} {u : Topaz} {P : Block → Prop} (hq : b.topaz.psq = .lowering 0)
    (down : (railsDown (lastDown b)).topaz = u) (off : u.psq = .off) (ended : u.drop = none)
    (low : u.enables = vset b.topaz.enables 0 false)
    (rest : ∀ t, t.topaz = u → onlyChanges [.posts, .topaz, .out] b t → P t) :
    Completes .railDownStep ⟨q, b⟩ (fun t =>
      t.topaz.psq = .off ∧ t.topaz.drop = none ∧ vget t.topaz.enables 0 true = false ∧ P t) := by
  have topaz : (railDownStep b).topaz = u := (congrArg Block.topaz (railDownStep_last hq)).trans down
  refine ⟨_, rfl, rfl, ?_, ?_, ?_, rest _ topaz (railDownStep_frame (by decide) (onlyChanges_refl _ _))⟩
  · exact (congrArg Topaz.psq topaz).trans off
  · exact (congrArg Topaz.drop topaz).trans ended
  · exact (congrArg (fun t : Topaz => vget t.enables 0 true) topaz).trans (low ▸ vget_vset_self (by decide) ..)

/-- The drop is over: what stood of a flush and of a deferred key action is gone. -/
def Power.dropOver (p : Power) : Power := { p with flush := false, onyxReport := none, keyDeferred := none }

/-- The outcome `ok` is shown, or with a SHOW of 0 s the pack switch opens, unless the latch holds an entry. -/
def Power.showing (p : Power) (ok latched : Bool) : Power :=
  { p with
    show_ := if showS p = 0 then p.show_ else some ok
    packSwitch := if showS p = 0 then p.packSwitch && latched else p.packSwitch }

theorem showStarts_topaz (ok : Bool) (b : Block) :
    (showStarts (some ok) b).topaz = { b.topaz with pwr := b.topaz.pwr.showing ok (!b.topaz.latch.isEmpty) } := by
  unfold showStarts Power.showing
  rw [Option.isNone_some, if_neg Bool.false_ne_true]
  split
  · exact openSwitch_topaz b
  · rfl

section
variable {b : Block} (hk : b.topaz.pwr.keyDeferred = none)
include hk

theorem railsDown_flush {ok : Bool} (hd : b.topaz.drop = some (.flush ok)) : (railsDown b).topaz = { b.topaz with
    drop := none, cause := 1, lastFlush := if ok = true then 1 else 2
    pwr := driven (Power.showing { b.topaz.pwr.dropOver with upWait := some 1 } ok (!b.topaz.latch.isEmpty)) } := by
  simp only [railsDown, hd, hk]
  cases ok <;> exact (tellHold_topaz _).trans (by rw [showStarts_topaz]; rfl)

theorem railsDown_shutdown (hd : b.topaz.drop = some .shutdown) : (railsDown b).topaz = { b.topaz with
    drop := none, cause := if b.topaz.fatal then 6 else 3, lastFlush := 0
    pwr := driven { b.topaz.pwr.dropOver with
      mainSeenLow := !b.topaz.pwr.mainOk, packSwitch := b.topaz.pwr.packSwitch && !b.topaz.latch.isEmpty } } := by
  simp only [railsDown, hd, hk]
  exact (tellHold_topaz _).trans (by rw [openSwitch_topaz]; rfl)

theorem railsDown_shutdownCut (hd : b.topaz.drop = some .shutdownCut) : ∃ switch, (railsDown b).topaz = { b.topaz with
    drop := none, cause := if b.topaz.fatal then 6 else 3, lastFlush := 2
    pwr := driven { Power.showing { b.topaz.pwr.dropOver with mainSeenLow := !b.topaz.pwr.mainOk } false
      (!b.topaz.latch.isEmpty) with packSwitch := switch } } := by
  simp only [railsDown, hd, hk]
  exact ⟨_, (tellHold_topaz _).trans (by rw [openSwitch_topaz, showStarts_topaz]; rfl)⟩

theorem railsDown_ship (hd : b.topaz.drop = some .ship) : (railsDown b).topaz = { b.topaz with
    drop := none, cause := 0, lastFlush := 0
    pwr := driven { b.topaz.pwr.dropOver with
      ship := true, mainSeenLow := !b.topaz.pwr.mainOk, keyShown := none, upWait := none
      packSwitch := b.topaz.pwr.packSwitch && !b.topaz.latch.isEmpty } } := by
  simp only [railsDown, hd, hk]
  exact (tellHold_topaz _).trans (by rw [openSwitch_topaz]; rfl)

theorem railsDown_keyRestart (hd : b.topaz.drop = some .keyRestart) : ∃ pin, (railsDown b).topaz = { b.topaz with
    drop := none, cause := 2, lastFlush := 0, faultCode := 0, railFails := 0, faultPin := pin
    pwr := driven { b.topaz.pwr.dropOver with packSwitch := false, upWait := some 2 } } := by
  simp only [railsDown, hd, hk]
  exact ⟨_, tellHold_topaz _⟩

theorem railsDown_retry (hd : b.topaz.drop = some .railFail) (hn : b.topaz.railFails < 2) : (railsDown b).topaz = { b.topaz with
    drop := none, cause := 4, lastFlush := 0, pwr := driven { b.topaz.pwr.dropOver with upWait := some 4 } } := by
  simp only [railsDown, hd, hk]
  rw [if_pos hn]
  exact tellHold_topaz _

theorem railsDown_failed (hd : b.topaz.drop = some .railFail) (hn : 2 ≤ b.topaz.railFails) : (railsDown b).topaz = { b.topaz with
    drop := none, lastFlush := 0, pwr := driven { b.topaz.pwr.dropOver with mainSeenLow := !b.topaz.pwr.mainOk } } := by
  simp only [railsDown, hd, hk]
  rw [if_neg (Nat.not_lt.mpr hn)]
  exact tellHold_topaz _

end

/-- A restart by KEY_N that a flush has deferred follows it, beside the SHOW of its outcome. -/
theorem railsDown_deferred {b : Block} {ok : Bool} (hd : b.topaz.drop = some (.flush ok))
    (hk : b.topaz.pwr.keyDeferred = some .restart) : ∃ pin, (railsDown b).topaz = { b.topaz with
      drop := none, cause := 2, lastFlush := if ok = true then 1 else 2, faultCode := 0, railFails := 0, faultPin := pin
      pwr := driven { Power.showing b.topaz.pwr.dropOver ok (!b.topaz.latch.isEmpty) with
        packSwitch := false, upWait := some 2 } } := by
  simp only [railsDown, hd, hk]
  cases ok <;> exact ⟨_, (tellHold_topaz _).trans (by
    rw [settleFaultPin, Block.modTopaz_topaz, Block.modTopaz_topaz, modPwr_topaz, showStarts_topaz]; rfl)⟩

/-! ### PWR_GOOD and reset (17 R444 to R447, R454) -/

theorem vddAoLoss_acts {b : Block} (h : b.topaz.pwr.on = true) : vddAoLoss b = { resetAll b with topaz := coldTopaz } :=
  if_neg (by rw [h]; decide)

theorem pwrGoodRise_acts {b : Block} (hg : b.topaz.pwrGood = true) (hp : b.topaz.pwrPin = false) (c : Bool) :
    pwrGoodRise c b = settleFaultPin (b.modTopaz (fun t => { t with
      pwrPin := true, faultCode := if c then t.faultCode else 6 })) := if_neg (by rw [hg, hp]; decide)

/-- The board resets the device. -/
def pinReset (b : Block) : Block := portsOff (resetAll (b.modTopaz (fun t => { t with pwrPin := false, cause := 5 })))

section
variable {b : Block} (hg : b.topaz.pwrGood = true) (hp : b.topaz.pwrPin = true)
include hg hp

theorem pwrGoodFall_resets (hf : b.topaz.pwr.flush = false) (hs : b.topaz.shutSent = false) : pwrGoodFall b = pinReset b :=
  (if_neg (by rw [hg, hp]; decide)).trans (if_neg (by rw [hf, hs]; decide))

theorem pwrGoodFall_cuts (h : (b.topaz.pwr.flush || b.topaz.shutSent) = true) : pwrGoodFall b =
    startDrop (if b.topaz.pwr.flush then .flush false else .shutdownCut) (modPwr (fun p => { p with onyxReport := none }) b) :=
  (if_neg (by rw [hg, hp]; decide)).trans (if_pos h)

end

theorem pinReset_topaz (b : Block) : (pinReset b).topaz =
    { (resetAll (b.modTopaz (fun t => { t with pwrPin := false, cause := 5 }))).topaz with
      pwr := { b.topaz.pwr with magpwr := .replicate 4 false } } := portsOff_topaz _

theorem islandResetRelease_acts {b : Block} (hp : b.topaz.pwrPin = true) (hr : b.topaz.released = false)
    (hl : b.beryl.otc.loaded = true) (hc : b.topaz.faultCode = 0) : islandResetRelease b =
      releaseBeryl ((b.modTopaz (fun t => { t with released := true })).modQuartz (fun q => { q with running := true, tb := 0 })) :=
  if_neg (by rw [hp, hr, hl, hc]; decide)

section
variable {b : Block} (hr : b.topaz.released = true) (hd : b.topaz.dramReady = false)
include hr hd

theorem dramInitDone_acts (ok : Bool) : dramInitDone ok b =
    if ok then { b.modTopaz (fun t => { t with dramReady := true }) with dram := [] }
    else resetIslands (b.modTopaz (fun t => { t with faultCode := 7 })) := if_neg (by rw [hr, hd]; decide)

end

/-! ### The ROM (17 R448; 15 R406, R414) -/

theorem tellThermal_thm (g z : Nat) (r : Int) (b : Block) : (tellThermal g z r b).beryl.thm = b.beryl.thm :=
  (Block.logEvr_kept ..).at_ .thm (by decide)

theorem setGroup_begun (g z : Nat) (r : Int) (force : Bool) (b : Block) :
    (setGroup g z r force b).beryl.thm.begun = vset b.beryl.thm.begun g true := by
  unfold setGroup
  extract_lets old set
  split
  · rfl
  · rw [tellThermal_thm]
    rfl

/-- The state of one group, as Beryl forms it at its start. -/
def formGroup (powerUp : Bool) (b : Block) (g : Nat) : Block :=
  let r := vget b.beryl.thm.readings g 0
  if !groupOn b g then b
  else
    let z := if 2 ≤ g && vget b.beryl.thm.fault (g - 2) false then 1 else thermalRaw b g r (thermalHyst b g)
    let b := modThm (fun t => { t with begun := vset t.begun g true }) b
    let b := if powerUp && z = 3 then modThm (fun t => { t with hold := vset t.hold g true }) b else b
    setGroup g z r false b

theorem formStates_eq (powerUp : Bool) (b : Block) : formStates powerUp b = [0, 1, 2, 3].foldl (formGroup powerUp) b := rfl

theorem formGroup_begun (powerUp : Bool) (b : Block) (g : Nat) : (formGroup powerUp b g).beryl.thm.begun =
    if groupOn b g then vset (vset b.beryl.thm.begun g true) g true else b.beryl.thm.begun := by
  unfold formGroup
  extract_lets r z begun held
  have kept : held.beryl.thm.begun = vset b.beryl.thm.begun g true := by
    unfold held
    split <;> rfl
  cases hg : groupOn b g with
  | false => rfl
  | true =>
    rw [if_neg (by decide), setGroup_begun, kept]
    rfl

/-- A group that has begun stays so. -/
theorem formGroup_keeps_begun {b : Block} {k : Nat} (h : vget b.beryl.thm.begun k false = true) (powerUp : Bool) (g : Nat) :
    vget (formGroup powerUp b g).beryl.thm.begun k false = true := by
  rw [formGroup_begun]
  split
  · rw [vget_vset, vget_vset, h, ite_self, ite_self]
  · exact h

/-- The groups of the die always take part (15 R405). -/
theorem formGroup_begins {g : Nat} (hg : g < 2) (powerUp : Bool) (b : Block) :
    vget (formGroup powerUp b g).beryl.thm.begun g false = true := by
  have on : groupOn b g = true := by rw [groupOn, decide_eq_true hg, Bool.true_or]
  rw [formGroup_begun, if_pos on, vget_vset_self (by omega)]

theorem formStates_begins (powerUp : Bool) (b : Block) : vget (formStates powerUp b).beryl.thm.begun 0 false = true ∧
    vget (formStates powerUp b).beryl.thm.begun 1 false = true := by
  rw [formStates_eq]
  constructor
  · exact formGroup_keeps_begun (formGroup_keeps_begun (formGroup_keeps_begun (formGroup_begins (by decide) ..) ..) ..) ..
  · exact formGroup_keeps_begun (formGroup_keeps_begun (formGroup_begins (by decide) ..) ..) ..

theorem sendStep_begun (t : Nat) (b : Block) : (sendStep t b).beryl.thm.begun = b.beryl.thm.begun := by
  unfold sendStep
  split <;> rfl

theorem stepUp_begun (b : Block) : (stepUp b).beryl.thm.begun = b.beryl.thm.begun := by
  unfold stepUp
  extract_lets c
  split
  · exact sendStep_begun ..
  · rfl

theorem stepDown_begun (b : Block) : (stepDown b).beryl.thm.begun = b.beryl.thm.begun := by
  unfold stepDown
  extract_lets c
  split
  · exact sendStep_begun ..
  · rfl

theorem settleDevice_begun (b : Block) : (settleDevice b).beryl.thm.begun = b.beryl.thm.begun := by
  unfold settleDevice
  extract_lets old new c
  split
  · exact stepUp_begun _
  · split
    · exact stepDown_begun _
    · rfl

/-- The ROM has checked itself: STAGE READY, the watchdog counts from now. -/
def romReady (b : Block) : Block :=
  (b.modTopaz (fun t => { t with stage := 2, wdgLast := b.quartz.tb })).modBeryl (fun y => { y with romBad := false })

/-- The firmware forms the thermal states. -/
def romRuns (b : Block) : Block := settleDevice (formStates true (romReady b))

theorem romRuns_kept (b : Block) : onlyChanges [.thm, .evr, .ch, .trace] (romReady b) (romRuns b) :=
  settleDevice_frame (by decide) (formStates_frame (by decide) (onlyChanges_refl _ _))

section
variable {b : Block} (ho : b.topaz.berylOut = true) (hs : b.topaz.stage = 1) (hd : b.topaz.berylDead = false)
include ho hs hd

theorem romStart_acts (ok : Bool) : romStart ok b =
    if b.topaz.absent then b.modBeryl (fun y => { y with romBad := !ok })
    else if !ok then b.modBeryl (fun y => { y with romBad := true })
    else if !b.topaz.dramReady then b
    else romRuns b := if_neg (by rw [ho, hs, hd]; decide)

theorem romStart_ready (ha : b.topaz.absent = false) (hr : b.topaz.dramReady = true) : romStart true b = romRuns b := by
  rw [romStart_acts ho hs hd, ha, hr]
  rfl

end

end Sys2Proof.Machine

section
open Sys2Proof Sys2Proof.Machine

/-- Settles O57: power-up and the last step down are one change of Topaz each, reported; what fails a rail or cuts a flush is a
drop of the rails; the resets are read off field by field. -/
theorem railsRiseFallAndReleaseReset : Obligations.RailsRiseFallAndReleaseReset := by
  refine ⟨?start, ?up, ?noMain, ?rise, ?enable, ?good, ?timeout, ?fall, ?next, ?flush, ?shutdown, ?shutdownCut, ?deferred,
    ?keyRestart, ?ship, ?retry, ?failed, ?loss, ?pinRise, ?pinReset, ?cutShutdown, ?cutFlush, ?release, ?dram, ?dramFails, ?rom,
    ?romAgain, ?romBad, ?startTotal, ?upTotal, ?riseTotal, ?enableTotal, ?timeoutTotal, ?fallTotal, ?downTotal, ?lossTotal,
    ?pinRiseTotal, ?pinFallTotal, ?releaseTotal, ?dramTotal, ?romTotal⟩
  case start =>
    intro q b ohms temp ho
    refine completes_of_eq rfl (topazStart_acts ho ohms temp) ⟨?_, ?_, ?_, ?_, ?_, ?_, ?_⟩
    iterate 5 rw [settlePack_topaz]; rfl
    · rw [settlePack_pack]
      exact (readPack_kind ..).trans (readId_fresh ohms)
    · exact settleHold_frame (by decide) (modPack_frame (by decide) (upd_topaz_frame (by decide) (resetAll_frame (by decide)
        (onlyChanges_refl _ _))))
  case up =>
    intro q b hw hq hm
    have begins := powerUpDelay_begins hw hq hm
    refine completes_of_eq rfl begins ⟨?_, ?_, ?_, ?_, ?_, ?_, ?_⟩
    iterate 4 rw [tellHold_topaz]; rfl
    · exact (tellHold_kept _).at_ .regs (by decide)
    · exact (tellHold_kept _).at_ .quartz (by decide)
    · rw [← begins]
      exact powerUpDelay_frame (by decide) (onlyChanges_refl _ _)
  case noMain =>
    intro q b hw hq hm
    exact completes_of_eq rfl (powerUpDelay_ends hw hq hm) ⟨hq, rfl, rfl, rfl, modPwr_frame (by decide) (onlyChanges_refl _ _)⟩
  case rise =>
    intro q b k hq
    exact act_of_eq (if_pos hq)
  case enable =>
    intro q b k hq hk
    exact act_of_eq ((railEnableDelay_risen hq).trans (if_pos hk))
  case good =>
    intro q b hq
    exact act_of_eq ((railEnableDelay_risen hq).trans (if_neg (by decide)))
  case timeout =>
    intro q b k j hq hd ht
    obtain ⟨rail, fails, code⟩ := railFailed_notes hd ht k 4
    exact completes_of_eq rfl (railTimeout_fails hq) ⟨rail, fails, code, railFailed_drops hd ht k 4 (onlyChanges_refl _ _)⟩
  case fall =>
    intro q b k j hq hk hd ht
    obtain ⟨rail, fails, code⟩ := railFailed_notes (b := railLost k b) hd ht k 5
    have lost : onlyChanges resetParts b (railLost k b) :=
      modPwr_frame (by decide) (Block.modTopaz_frame (by decide) (onlyChanges_refl _ _))
    refine completes_of_eq rfl (railPgFall_fails hq hk) ⟨rail, fails, code, ?_, railFailed_drops (b := railLost k b) hd ht k 5 lost⟩
    rw [railFailed_eq, startDrop_pwr (b := noteRail k 5 (railLost k b)) .railFail hd ht]
    rfl
  case next =>
    intro q b k hq
    exact act_of_eq (railDownStep_next hq)
  case flush =>
    intro q b ok hq hd hk
    exact railDownStep_completes hq (railsDown_flush (b := lastDown b) hk hd) rfl rfl rfl
      (fun t topaz frame => by rw [topaz]; exact ⟨rfl, rfl, rfl, rfl, rfl, frame⟩)
  case shutdown =>
    intro q b hq hd hk
    exact railDownStep_completes hq (railsDown_shutdown (b := lastDown b) hk hd) rfl rfl rfl
      (fun t topaz frame => by rw [topaz]; exact ⟨rfl, rfl, rfl, frame⟩)
  case shutdownCut =>
    intro q b hq hd hk
    obtain ⟨_, down⟩ := railsDown_shutdownCut (b := lastDown b) hk hd
    exact railDownStep_completes hq down rfl rfl rfl (fun t topaz frame => by rw [topaz]; exact ⟨rfl, rfl, rfl, rfl, frame⟩)
  case deferred =>
    intro q b ok hq hd hk
    obtain ⟨_, down⟩ := railsDown_deferred (b := lastDown b) hd hk
    exact railDownStep_completes hq down rfl rfl rfl
      (fun t topaz frame => by rw [topaz]; exact ⟨rfl, rfl, rfl, rfl, rfl, rfl, frame⟩)
  case keyRestart =>
    intro q b hq hd hk
    obtain ⟨_, down⟩ := railsDown_keyRestart (b := lastDown b) hk hd
    exact railDownStep_completes hq down rfl rfl rfl
      (fun t topaz frame => by rw [topaz]; exact ⟨rfl, rfl, rfl, rfl, rfl, frame⟩)
  case ship =>
    intro q b hq hd hk
    exact railDownStep_completes hq (railsDown_ship (b := lastDown b) hk hd) rfl rfl rfl
      (fun t topaz frame => by rw [topaz]; exact ⟨rfl, rfl, rfl, rfl, frame⟩)
  case retry =>
    intro q b hq hd hk hn
    exact railDownStep_completes hq (railsDown_retry (b := lastDown b) hk hd hn) rfl rfl rfl
      (fun t topaz frame => by rw [topaz]; exact ⟨rfl, rfl, frame⟩)
  case failed =>
    intro q b hq hd hk hn
    exact railDownStep_completes hq (railsDown_failed (b := lastDown b) hk hd hn) rfl rfl rfl
      (fun t topaz frame => by rw [topaz]; exact ⟨rfl, rfl, frame⟩)
  case loss =>
    intro q b ho
    exact completes_of_eq rfl (vddAoLoss_acts ho) ⟨rfl, rfl, rfl, rfl, rfl, upd_topaz_frame (by decide)
      (resetAll_frame (by decide) (onlyChanges_refl _ _))⟩
  case pinRise =>
    intro q b c hg hp
    exact act_of_eq (pwrGoodRise_acts hg hp c)
  case pinReset =>
    intro q b hg hp hf hs
    have topaz := pinReset_topaz b
    have kept := portsOff_kept (resetAll (b.modTopaz (fun t => { t with pwrPin := false, cause := 5 })))
    have off : ∀ m < 4, vget (pinReset b).topaz.pwr.magpwr m false = false := fun m _ => by
      rw [topaz]
      exact vget_replicate_false m
    exact completes_of_eq rfl (pwrGoodFall_resets hg hp hf hs) ⟨(congrArg Topaz.pwrPin topaz :),
      (congrArg Topaz.pwrGood topaz).trans hg, (congrArg Topaz.cause topaz :), (congrArg Topaz.released topaz :),
      kept.at_ .quartz (by decide), (congrArg Topaz.psq topaz :), kept.at_ .regs (by decide), off,
      onlyChanges_step kept (by decide) (resetAll_frame (by decide) (Block.modTopaz_frame (by decide) (onlyChanges_refl _ _)))⟩
  case cutShutdown =>
    intro q b j hg hp hf hs hd ht
    have cuts := pwrGoodFall_cuts hg hp (by rw [hs, Bool.or_true])
    rw [if_neg (by rw [hf]; decide)] at cuts
    exact completes_of_eq rfl cuts (startDrop_drops (b := modPwr _ b) _ hd ht (modPwr_frame (by decide) (onlyChanges_refl _ _)))
  case cutFlush =>
    intro q b j hg hp hf hd ht
    have cuts := pwrGoodFall_cuts hg hp (by rw [hf, Bool.true_or])
    rw [if_pos hf] at cuts
    exact completes_of_eq rfl cuts (startDrop_drops (b := modPwr _ b) _ hd ht (modPwr_frame (by decide) (onlyChanges_refl _ _)))
  case release =>
    intro q b hp hr hl hc
    exact act_of_eq (islandResetRelease_acts hp hr hl hc)
  case dram =>
    intro q b hr hd
    exact act_of_eq (dramInitDone_acts hr hd true)
  case dramFails =>
    intro q b hr hd
    exact completes_of_eq rfl (dramInitDone_acts hr hd false) ⟨rfl, rfl, rfl, resetIslands_frame (by decide)
      (Block.modTopaz_frame (by decide) (onlyChanges_refl _ _))⟩
  case rom =>
    intro q b ho hs ha hr hd
    have kept := romRuns_kept b
    have topaz : (romRuns b).topaz = (romReady b).topaz := kept.at_ .topaz (by decide)
    obtain ⟨begun0, begun1⟩ := formStates_begins true (romReady b)
    obtain ⟨-, -, -, good⟩ := kept.at_ .beryl (by decide)
    refine completes_of_eq rfl (romStart_ready ho hs hd ha hr) ⟨(congrArg Topaz.stage topaz :),
      (congrArg Topaz.wdgLast topaz :), ?_, ?_, good, ?_⟩
    · rw [romRuns, settleDevice_begun]
      exact begun0
    · rw [romRuns, settleDevice_begun]
      exact begun1
    · exact onlyChanges_step kept (by decide) (Block.modBeryl_frame (by decide) (Block.modTopaz_frame (by decide)
        (onlyChanges_refl _ _)))
  case romAgain =>
    intro q b ok ho hs ha hd
    exact act_of_eq ((romStart_acts ho hs hd ok).trans (if_pos ha))
  case romBad =>
    intro q b ho hs ha hd
    exact act_of_eq ((romStart_acts ho hs hd false).trans (if_neg (by rw [ha]; decide)))
  case startTotal => exact fun q b ohms temp => ⟨rfl, topazStart_frame (by decide) (onlyChanges_refl _ _)⟩
  case upTotal => exact fun q b => ⟨rfl, powerUpDelay_frame (by decide) (onlyChanges_refl _ _)⟩
  case riseTotal => exact fun q b k => ⟨rfl, railPgRise_frame (by decide) (onlyChanges_refl _ _)⟩
  case enableTotal => exact fun q b => ⟨rfl, railEnableDelay_frame (by decide) (onlyChanges_refl _ _)⟩
  case timeoutTotal => exact fun q b => ⟨rfl, railTimeout_frame (by decide) (onlyChanges_refl _ _)⟩
  case fallTotal => exact fun q b k => ⟨rfl, railPgFall_frame (by decide) (onlyChanges_refl _ _)⟩
  case downTotal => exact fun q b => ⟨rfl, railDownStep_frame (by decide) (onlyChanges_refl _ _)⟩
  case lossTotal => exact fun q b => ⟨rfl, vddAoLoss_frame (by decide) (onlyChanges_refl _ _)⟩
  case pinRiseTotal => exact fun q b c => ⟨rfl, pwrGoodRise_frame (by decide) (onlyChanges_refl _ _)⟩
  case pinFallTotal => exact fun q b => ⟨rfl, pwrGoodFall_frame (by decide) (onlyChanges_refl _ _)⟩
  case releaseTotal => exact fun q b => ⟨rfl, islandResetRelease_frame (by decide) (onlyChanges_refl _ _)⟩
  case dramTotal => exact fun q b ok => ⟨rfl, dramInitDone_frame (by decide) (onlyChanges_refl _ _)⟩
  case romTotal => exact fun q b ok => ⟨rfl, romStart_frame (by decide) (onlyChanges_refl _ _)⟩

end
end

section
/-! O58: the pack, its charger and its timers; the control step; KEY_N; the supplies of the magazine ports (14 R382 to R403). -/

-- The proofs are elaborated one after another: each waiting in a thread of its own takes more memory than the check allows.
set_option Elab.async false

namespace Sys2Proof.Machine

/-! ### READY (14 R391) -/

theorem readyNow_of_fault {p : Power} (h : packFault p.pack = true) : readyNow p = false := by
  simp [readyNow, h]

theorem readyNow_of_not_identified {p : Power} (h : identified p.pack = false) : readyNow p = false := by
  simp [readyNow, h]

theorem settlePack_of_fault {k : Pack} (h : packFault k = true) (b : Block) :
    (settlePack k b).topaz.pwr.pack = { k with ready := false } := by
  rw [settlePack_pack, readyNow_of_fault h]

theorem settlePack_reports (k : Pack) (b : Block) : reports [.posts, .topaz, .out] b (settlePack k b) :=
  tellHold_reports (settlePack_kept k b)

/-! ### Readings of the pack (14 R382 to R390) -/

/-- The pack beside its temperature, its zones and the state of its sensor. -/
def Pack.besideNtc (k : Pack) : Pack :=
  { k with temp := 0, faultNtc := false, ntcGood := 0, zoned := false, czone := .cold, allowed := false }

theorem updateZones_besideNtc (p : Power) (t : Int) : (updateZones p t).besideNtc = p.pack.besideNtc := by
  unfold updateZones
  extract_lets k h cw dw allowed
  split <;> rfl

theorem updateZones_sensor (p : Power) (t : Int) :
    (updateZones p t).ntcGood = p.pack.ntcGood ∧ (updateZones p t).faultNtc = p.pack.faultNtc := by
  unfold updateZones
  extract_lets k h cw dw allowed
  split <;> exact ⟨rfl, rfl⟩

theorem readNtc_in {t : Int} (lo : -400 ≤ t) (hi : t ≤ 1250) (p : Power) : readNtc t p = { updateZones p t with
    ntcGood := min 11 (p.pack.ntcGood + 1), faultNtc := p.pack.faultNtc && decide (p.pack.ntcGood < 10) } := by
  obtain ⟨good, fault⟩ := updateZones_sensor p t
  have tenth : decide (min 11 (p.pack.ntcGood + 1) < 11) = decide (p.pack.ntcGood < 10) := by
    rw [decide_eq_decide]
    omega
  rw [← tenth, ← good, ← fault]
  exact if_pos (by rw [decide_eq_true lo, decide_eq_true hi]; rfl)

theorem readNtc_out {t : Int} (h : t < -400 ∨ 1250 < t) (p : Power) :
    readNtc t p = { updateZones p t with ntcGood := 0, faultNtc := true } :=
  if_neg (by rw [Bool.and_eq_true, decide_eq_true_eq, decide_eq_true_eq]; omega)

theorem readNtc_besideNtc (t : Int) (p : Power) : (readNtc t p).besideNtc = p.pack.besideNtc := by
  rw [← updateZones_besideNtc p t]
  unfold readNtc
  extract_lets k
  split <;> rfl

theorem readNtc_zones (t : Int) (p : Power) : (readNtc t p).zoned = (updateZones p t).zoned ∧
    (readNtc t p).temp = (updateZones p t).temp ∧ (readNtc t p).czone = (updateZones p t).czone ∧
    (readNtc t p).allowed = (updateZones p t).allowed := by
  unfold readNtc
  extract_lets k
  split <;> exact ⟨rfl, rfl, rfl, rfl⟩

theorem updateZones_first {p : Power} (h : p.pack.zoned = false) (t : Int) : updateZones p t = { p.pack with
    zoned := true, temp := t, czone := chargeRaw p.hup.ctemp t (zoneHyst p), allowed := dischargeRaw p.hup.dtemp t (zoneHyst p) } :=
  if_pos (by rw [h]; rfl)

theorem updateZones_next {p : Power} (h : p.pack.zoned = true) (t : Int) : updateZones p t = { p.pack with
    temp := t
    czone := nextZone (chargeRaw p.hup.ctemp t 0) (chargeRaw p.hup.ctemp t (zoneHyst p)) p.pack.czone
    allowed := dischargeRaw p.hup.dtemp t (if p.pack.allowed = true then 0 else zoneHyst p) } := by
  rw [apply_ite (dischargeRaw p.hup.dtemp t)]
  exact if_neg (by rw [h]; decide)

section
variable {ohms : Nat} {p : Power}

/-- The third open reading in a row (14 R383). -/
theorem readPack_gone (ho : 500000 < ohms) (hn : 2 ≤ p.pack.openReads) (temp : Int) :
    readPack ohms temp p = packGone p.pack := by
  have gone : readId ohms p.pack = packGone p.pack := (if_pos ho).trans (if_pos (by omega))
  exact (if_pos (by rw [gone]; rfl)).trans gone

/-- A pack appears whose resistance names its kind (14 R382, R383). -/
theorem readPack_appears (ho : ohms ≤ 500000) (ha : p.pack.kind = .absent) (hk : kindOf ohms ≠ .unknown) (temp : Int) :
    (readPack ohms temp p).besideNtc =
      { coldPack.besideNtc with kind := kindOf ohms, mv := p.pack.mv, ma := p.pack.ma } := by
  have new : readId ohms p.pack =
      { coldPack with kind := kindOf ohms, mv := p.pack.mv, ma := p.pack.ma, temp := p.pack.temp } :=
    (if_neg (by omega)).trans ((if_pos ha).trans (if_neg hk))
  have present : (readId ohms p.pack).kind ≠ .absent := by
    rw [new]
    exact kindOf_ne_absent ohms
  rw [readPack_present present, readNtc_besideNtc, new]
  rfl

/-- A pack appears whose resistance names no kind (14 R382). -/
theorem readPack_unknown (ho : ohms ≤ 500000) (ha : p.pack.kind = .absent) (hk : kindOf ohms = .unknown) (temp : Int) :
    (readPack ohms temp p).besideNtc =
      { (packGone p.pack).besideNtc with kind := .unknown, openReads := 0, faultId := true } := by
  have new : readId ohms p.pack = { packGone p.pack with kind := .unknown, openReads := 0, faultId := true } :=
    (if_neg (by omega)).trans ((if_pos ha).trans (if_pos hk))
  have present : (readId ohms p.pack).kind ≠ .absent := by
    rw [new]
    exact PackKind.noConfusion
  rw [readPack_present present, readNtc_besideNtc, new]
  rfl

/-- A pack that is there is read again. -/
theorem readPack_again (ho : ohms ≤ 500000) (hp : p.pack.kind ≠ .absent) (temp : Int) :
    readPack ohms temp p = readNtc temp { p with pack := { p.pack with openReads := 0 } } := by
  have same : readId ohms p.pack = { p.pack with openReads := 0 } := (if_neg (by omega)).trans (if_neg hp)
  have present : (readId ohms p.pack).kind ≠ .absent := by
    rw [same]
    exact hp
  rw [readPack_present present, same]

end

/-! ### The charger's timers (14 R384, R386, R389) -/

section
variable {b : Block}

theorem shortCheck_faults (hp : b.topaz.pwr.pack.phase = .precharge) (hv : b.topaz.pwr.pack.mv < 2000) :
    shortCheck b = settlePack { b.topaz.pwr.pack with faultShort := true, phase := .off } b :=
  if_pos (by rw [decide_eq_true hp, decide_eq_true hv]; rfl)

theorem prechargeTimeout_faults (hp : b.topaz.pwr.pack.phase = .precharge) :
    prechargeTimeout b = settlePack { b.topaz.pwr.pack with faultTimer := true, phase := .off } b := if_pos hp

theorem chargeDone_ends (hp : b.topaz.pwr.pack.phase = .constantVoltage) :
    chargeDone b = settlePack { b.topaz.pwr.pack with phase := .done, timer := 0 } b := if_pos hp

theorem safetyTimerExpiry_counts_not (ht : timerRuns b.topaz.pwr.pack = false) :
    safetyTimerExpiry b = settlePack b.topaz.pwr.pack b := by
  have same : (if timerRuns b.topaz.pwr.pack then timerOut { b.topaz.pwr.pack with timer := safetyLimit }
      else b.topaz.pwr.pack) = b.topaz.pwr.pack := if_neg (by rw [ht]; decide)
  exact congrArg (settlePack · b) same

theorem timerOut_out {k : Pack} (ht : timerRuns k = true) (hl : safetyLimit ≤ k.timer) :
    timerOut k = { k with timer := safetyLimit, faultTimer := true, phase := .off } :=
  if_pos (by rw [ht, decide_eq_true hl]; rfl)

theorem safetyTimerExpiry_faults (ht : timerRuns b.topaz.pwr.pack = true) : safetyTimerExpiry b =
    settlePack { b.topaz.pwr.pack with timer := safetyLimit, faultTimer := true, phase := .off } b := by
  have out : (if timerRuns b.topaz.pwr.pack then timerOut { b.topaz.pwr.pack with timer := safetyLimit }
      else b.topaz.pwr.pack) = { b.topaz.pwr.pack with timer := safetyLimit, faultTimer := true, phase := .off } :=
    (if_pos ht).trans (timerOut_out ht (Nat.le_refl _))
  exact congrArg (settlePack · b) out

theorem clrTimer_clears {w : Nat} (hb : b.bar0 = true) (h0 : bitOf w 0 = true) (hk : bitsOf w 15 8 = 0xA5) :
    clrTimer w b = settlePack { b.topaz.pwr.pack with timer := 0, faultTimer := false } b :=
  if_pos (by rw [hb, h0, hk]; rfl)

theorem clrTimer_unkeyed {w : Nat} (h : bitOf w 0 = false ∨ bitsOf w 15 8 ≠ 0xA5) : clrTimer w b = b := by
  refine if_neg ?_
  rw [Bool.and_eq_true, Bool.and_eq_true, beq_iff_eq]
  rintro ⟨⟨-, h0⟩, hk⟩
  rcases h with h | h
  · exact Bool.false_ne_true (h.symm.trans h0)
  · exact h hk

end

/-! ### The control step (14 R383, R384, R386, R389, R395, R403) -/

/-- The registers, the voltages and the current as the control step takes them. -/
def sensed (mv : Nat) (ma : Int) (vbus : Nat) (b : Block) : Power :=
  { b.topaz.pwr with
    hup := ⟨BitVec.ofNat 32 (b.reg 0x200), BitVec.ofNat 32 (b.reg 0x204), BitVec.ofNat 32 (b.reg 0x208),
      BitVec.ofNat 32 (b.reg 0x20C), BitVec.ofNat 32 (b.reg 0x210), BitVec.ofNat 32 (b.reg 0x218), BitVec.ofNat 32 (b.reg 0x21C)⟩
    vbus, pack := { b.topaz.pwr.pack with mv, ma } }

/-- A pack above its limit is ABSENT, one below 1 V faulty. -/
def limited (k : Pack) : Pack :=
  if identified k && cvMv k.kind + 300 < k.mv then packGone k
  else { k with faultShort := k.faultShort || (identified k && k.mv < 1000) }

/-- The safety timer over 1 ms, up to its limit. -/
def timed (k : Pack) : Pack := timerOut { k with timer := min safetyLimit (tickTimer k) }

/-- The pack after a control step, but for READY. -/
def stepped (p : Power) : Pack :=
  timed { limited p.pack with phase := chargePhase { p with pack := limited p.pack } }

/-- A control step before a flush may end. -/
def controlled (mv : Nat) (ma : Int) (vbus : Nat) (b : Block) : Block :=
  settlePack (stepped (sensed mv ma vbus b)) (modPwr (fun _ => sensed mv ma vbus b) b)

theorem controlled_topaz (mv : Nat) (ma : Int) (vbus : Nat) (b : Block) : (controlled mv ma vbus b).topaz =
    { b.topaz with pwr := driven { sensed mv ma vbus b with pack := { stepped (sensed mv ma vbus b) with
        ready := readyNow { sensed mv ma vbus b with pack := stepped (sensed mv ma vbus b) } } } } :=
  settlePack_topaz ..

theorem controlled_kept (mv : Nat) (ma : Int) (vbus : Nat) (b : Block) :
    onlyChanges [.posts, .topaz, .out] b (controlled mv ma vbus b) :=
  settleHold_frame (by decide) (modPack_frame (by decide) (modPwr_frame (by decide) (onlyChanges_refl _ _)))

theorem controlled_reports (mv : Nat) (ma : Int) (vbus : Nat) (b : Block) :
    reports resetParts b (controlled mv ma vbus b) :=
  tellHold_reports (onlyChanges_mono (by decide) (controlled_kept mv ma vbus b))

section
variable {b : Block} (hon : b.topaz.pwr.on = true) (mv : Nat) (ma : Int) (vbus : Nat)
include hon

theorem controlStep_acts : controlStep mv ma vbus b =
    if (controlled mv ma vbus b).topaz.pwr.flush && mv < cutoffMv (controlled mv ma vbus b).topaz.pwr then
      startDrop (.flush (flushOk (controlled mv ma vbus b))) (controlled mv ma vbus b)
    else controlled mv ma vbus b :=
  if_neg (by rw [hon]; decide)

theorem controlStep_of_no_flush (hf : b.topaz.pwr.flush = false) : controlStep mv ma vbus b = controlled mv ma vbus b := by
  have still : (controlled mv ma vbus b).topaz.pwr.flush = false := by
    rw [controlled_topaz]
    exact hf
  rw [controlStep_acts hon, still]
  rfl

end

theorem limited_over {k : Pack} (hi : identified k = true) (hv : cvMv k.kind + 300 < k.mv) : limited k = packGone k :=
  if_pos (by rw [hi, decide_eq_true hv]; rfl)

theorem limited_within {k : Pack} (hv : k.mv ≤ cvMv k.kind + 300) :
    limited k = { k with faultShort := k.faultShort || (identified k && decide (k.mv < 1000)) } :=
  if_neg (by rw [Bool.and_eq_true, decide_eq_true_eq]; omega)

/-- The charger does not charge a pack that is not identified, nor a faulty one. -/
theorem chargePhase_off {p : Power} (h : identified p.pack = false ∨ packFault p.pack = true) : chargePhase p = .off := by
  have not : mayCharge p = false := by
    rcases h with h | h <;> simp [mayCharge, h]
  exact if_pos (by rw [not]; rfl)

theorem timed_off {k : Pack} (h : k.phase = .off) : timed k = { k with timer := min safetyLimit k.timer } := by
  have rests : timerRuns k = false := by simp [timerRuns, h]
  have tick : tickTimer k = k.timer := if_neg (by rw [rests]; decide)
  rw [timed, tick]
  refine if_neg ?_
  rw [show timerRuns { k with timer := min safetyLimit k.timer } = timerRuns k from rfl, rests]
  exact Bool.false_ne_true

/-- The safety timer stops the charger with its fault once it has reached its limit, and changes nothing else of the pack. -/
theorem timed_cases (k : Pack) :
    timed k = { k with timer := min safetyLimit (tickTimer k) } ∨
    timed k = { k with timer := safetyLimit, faultTimer := true, phase := .off } := by
  unfold timed timerOut
  split
  · exact .inr rfl
  · exact .inl rfl

/-- A fault of the safety timer stops the charger at its limit. -/
theorem timed_faults {k : Pack} (h : k.faultTimer = false) (ht : (timed k).faultTimer = true) :
    (timed k).timer = safetyLimit ∧ (timed k).phase = .off := by
  rcases timed_cases k with e | e
  · exact absurd (h.symm.trans ((congrArg Pack.faultTimer e).symm.trans ht)) Bool.false_ne_true
  · rw [e]
    exact ⟨rfl, rfl⟩

/-- What the safety timer counts in 1 ms, in half milliseconds (14 R389). -/
def zoneTicks : ChargeZone → Nat
  | .normal => 2
  | .cool => 1
  | .warm => 1
  | _ => 0

/-- While the charger holds current or voltage the timer counts by its zone, up to its limit (14 R389). -/
theorem timed_counts {k : Pack} (h : (timed k).phase = .constantCurrent ∨ (timed k).phase = .constantVoltage) :
    (timed k).timer = min safetyLimit (k.timer + zoneTicks k.czone) := by
  rcases timed_cases k with e | e <;> rw [e] at h ⊢
  · have phase : k.phase = .constantCurrent ∨ k.phase = .constantVoltage := h
    have runs : timerRuns k = !suspended k := by rcases phase with h | h <;> simp [timerRuns, h]
    have tick : tickTimer k = k.timer + zoneTicks k.czone := by
      unfold tickTimer
      rw [runs, suspended]
      cases k.czone <;> rfl
    exact congrArg (min safetyLimit) tick
  · rcases h with h | h <;> cases h

/-- A step of a pack within its limits. -/
theorem stepped_within {p : Power} (hv : p.pack.mv ≤ cvMv p.pack.kind + 300) (h1 : 1000 ≤ p.pack.mv) :
    stepped p = timed { p.pack with phase := chargePhase p } := by
  have same : limited p.pack = p.pack := by
    rw [limited_within hv, decide_eq_false (Nat.not_lt.mpr h1), Bool.and_false, Bool.or_false]
  rw [stepped, same]

theorem stepped_over {p : Power} (hi : identified p.pack = true) (hv : cvMv p.pack.kind + 300 < p.pack.mv) :
    (stepped p).kind = .absent ∧ (stepped p).phase = .off := by
  have off : chargePhase { p with pack := packGone p.pack } = .off := chargePhase_off (.inl rfl)
  rw [stepped, limited_over hi hv, off, timed_off rfl]
  exact ⟨rfl, rfl⟩

theorem stepped_low {p : Power} (hi : identified p.pack = true) (hv : p.pack.mv < 1000) :
    (stepped p).faultShort = true ∧ (stepped p).phase = .off := by
  have short : limited p.pack = { p.pack with faultShort := true } := by
    have within : p.pack.mv ≤ cvMv p.pack.kind + 300 := by
      have figure : 7000 ≤ cvMv p.pack.kind := by
        revert hi
        unfold identified
        cases p.pack.kind <;> decide
      omega
    rw [limited_within within, hi, decide_eq_true hv, Bool.and_true, Bool.or_true]
  have off : chargePhase { p with pack := { p.pack with faultShort := true } } = .off := chargePhase_off (.inr rfl)
  rw [stepped, short, off, timed_off rfl]
  exact ⟨rfl, rfl⟩

/-- The pack beside what the charger and its safety timer change. -/
def Pack.besideCharger (k : Pack) : Pack := { k with faultShort := false, faultTimer := false, phase := .off, timer := 0 }

theorem stepped_besideCharger {p : Power} (hv : p.pack.mv ≤ cvMv p.pack.kind + 300) :
    (stepped p).besideCharger = p.pack.besideCharger := by
  have kept (k : Pack) : (timed k).besideCharger = k.besideCharger := by
    rcases timed_cases k with h | h <;> rw [h] <;> rfl
  rw [stepped, kept, limited_within hv]
  rfl

section
variable {p : Power} (hv : p.pack.mv ≤ cvMv p.pack.kind + 300) (h1 : 1000 ≤ p.pack.mv)
include hv h1

theorem stepped_faults (h : p.pack.faultTimer = false) (ht : (stepped p).faultTimer = true) :
    (stepped p).timer = safetyLimit ∧ (stepped p).phase = .off := by
  rw [stepped_within hv h1] at ht ⊢
  exact timed_faults h ht

theorem stepped_counts (h : (stepped p).phase = .constantCurrent ∨ (stepped p).phase = .constantVoltage) :
    (stepped p).timer = min safetyLimit (p.pack.timer + zoneTicks p.pack.czone) := by
  rw [stepped_within hv h1] at h ⊢
  exact timed_counts h

end

theorem showEnd_acts {b : Block} (h : b.topaz.pwr.show_ ≠ none) :
    showEnd b = tellHold (openSwitch (modPwr (fun p => { p with show_ := none }) b)) :=
  if_neg (by rwa [Option.isNone_iff_eq_none])

theorem Block.reg_word (b : Block) (off : Nat) : (BitVec.ofNat 32 (b.reg off)).toNat = b.reg off := by
  rw [Block.reg, BitVec.ofNat_toNat, BitVec.setWidth_eq]

/-- During a flush a pack below the cutoff drops the rails (14 R395). -/
theorem controlStep_cuts {b : Block} {mv : Nat} (hon : b.topaz.pwr.on = true) (hf : b.topaz.pwr.flush = true)
    (hv : mv ≤ cvMv b.topaz.pwr.pack.kind + 300)
    (hc : mv < max (bitsOf (b.reg 0x204) 31 16) (packFigures b.topaz.pwr.pack.kind).2.2.2.2) (ma : Int) (vbus : Nat) :
    controlStep mv ma vbus b = startDrop (.flush (flushOk b)) (controlled mv ma vbus b) := by
  have flush : (controlled mv ma vbus b).topaz.pwr.flush = true := by
    rw [controlled_topaz]
    exact hf
  have outcome : flushOk (controlled mv ma vbus b) = flushOk b := by
    rw [flushOk, controlled_topaz]
    rfl
  have cutoff : cutoffMv (controlled mv ma vbus b).topaz.pwr =
      max (bitsOf (b.reg 0x204) 31 16) (packFigures b.topaz.pwr.pack.kind).2.2.2.2 := by
    have kind : (stepped (sensed mv ma vbus b)).kind = b.topaz.pwr.pack.kind :=
      (congrArg Pack.kind (stepped_besideCharger (p := sensed mv ma vbus b) hv) :)
    rw [controlled_topaz, ← kind, ← Block.reg_word]
    rfl
  rw [controlStep_acts hon, flush, cutoff, decide_eq_true hc, outcome]
  rfl

/-! ### KEY_N (14 R399 to R401) -/

theorem logKey_topaz (edge held : Nat) (b : Block) : (logKey edge held b).topaz = b.topaz := Block.logEvr_topaz ..

theorem keyPress_acts {b : Block} (ho : b.topaz.pwr.on = true) (hs : b.topaz.pwr.ship = false)
    (hd : b.topaz.pwr.keyDown = false) : keyPress b = logKey 1 0 (modPwr (fun p => { p with keyDown := true }) b) :=
  if_neg (by rw [ho, hs, hd]; decide)

theorem keyRestartHold_acts {b : Block} (hd : b.topaz.pwr.keyDown = true) :
    keyRestartHold b = tellHold (modPwr (fun p => { p with keyShown := some .restart }) b) := if_pos hd

theorem keyShipHold_acts {b : Block} (hd : b.topaz.pwr.keyDown = true) :
    keyShipHold b = tellHold (modPwr (fun p => { p with keyShown := some .ship }) b) := if_pos hd

theorem keyAct_waits {b : Block} (a : KeyAction) (h : b.topaz.pwr.flush = true ∨ b.topaz.drop ≠ none) :
    keyAct a b = modPwr (fun p => { p with keyDeferred := some a }) b :=
  if_pos (by rwa [Bool.or_eq_true, Option.isSome_iff_ne_none])

theorem keyAct_drops {b : Block} (a : KeyAction) (hf : b.topaz.pwr.flush = false) (hd : b.topaz.drop = none) :
    keyAct a b = startDrop (match a with | .restart => .keyRestart | .ship => .ship) b :=
  if_neg (by rw [hf, hd]; decide)

theorem shipModeEnter_acts {b : Block} (h : b.topaz.pwr.keyShown = some .ship) :
    shipModeEnter b = keyAct .ship (modPwr (fun p => { p with keyShown := none }) b) := if_pos h

/-- KEY_N goes up after a hold of 8 s: the restart is no longer shown. -/
def keyUp (held : Nat) (b : Block) : Block :=
  tellHold (logKey 0 held (modPwr (fun p => { p with keyDown := false, keyShown := none }) b))

theorem keyUp_topaz (held : Nat) (b : Block) : (keyUp held b).topaz =
    { b.topaz with pwr := driven { b.topaz.pwr with keyDown := false, keyShown := none } } := by
  rw [keyUp, tellHold_topaz, logKey_topaz]
  rfl

theorem keyUp_kept (held : Nat) (b : Block) : onlyChanges [.posts, .evr, .topaz, .trace, .out] b (keyUp held b) :=
  tellHold_frame (by decide) (logKey_frame (by decide) (modPwr_frame (by decide) (onlyChanges_refl _ _)))

section
variable {b : Block} (hk : b.topaz.pwr.keyDown = true) (held : Nat)
include hk

theorem keyNRelease_plain (hs : b.topaz.pwr.keyShown ≠ some .restart) :
    keyNRelease held b = logKey 0 held (modPwr (fun p => { p with keyDown := false }) b) := by
  unfold keyNRelease
  extract_lets p restart up
  have shown : up = logKey 0 held (modPwr (fun p => { p with keyDown := false }) b) :=
    congrArg (fun x => logKey 0 held (modPwr (fun q => { q with keyDown := false, keyShown := x }) b)) (if_neg hs)
  rw [if_neg (by rw [hk]; decide), if_neg hs, shown]

theorem keyNRelease_restart (hs : b.topaz.pwr.keyShown = some .restart) :
    keyNRelease held b = keyAct .restart (keyUp held b) := by
  unfold keyNRelease
  extract_lets p restart up
  have shown : up = logKey 0 held (modPwr (fun p => { p with keyDown := false, keyShown := none }) b) :=
    congrArg (fun x => logKey 0 held (modPwr (fun q => { q with keyDown := false, keyShown := x }) b)) (if_pos hs)
  rw [if_neg (by rw [hk]; decide), if_pos hs, shown]
  rfl

end

/-! ### Magazine power (14 R392, R393) -/

theorem flagBits_testBit (l : List Bool) (m : Nat) : (flagBits l).testBit m = l.getD m false := by
  induction l generalizing m with
  | nil => exact Nat.zero_testBit m
  | cons c l ih =>
    cases m with
    | zero =>
      rw [flagBits, Nat.testBit_zero, Nat.add_mul_mod_self_left]
      cases c <;> rfl
    | succ m =>
      have half : (bit c + 2 * flagBits l) / 2 = flagBits l := by
        have small : bit c ≤ 1 := by cases c <;> decide
        omega
      rw [flagBits, Nat.testBit_succ, half, ih, List.getD_cons_succ]

theorem bitsWhere_testBit (p : Nat → Bool) {n m : Nat} (h : m < n) : (bitsWhere n p).testBit m = p m := by
  rw [bitsWhere, flagBits_testBit, List.getD_eq_getElem?_getD, List.getElem?_map, List.getElem?_range h]
  rfl

/-- The ports that a write `w` of HUP_MAGPWR names, with those of the set in force that it named before (14 R392). -/
def portsWanted (w : Nat) (b : Block) (m : Nat) : Bool := bitOf w m || (bitOf (b.field 0x214 3 0) m && (setPorts b).contains m)

section
variable {b : Block} {w : Nat} (hb : b.bar0 = true)
include hb

theorem hupMagpwrWrite_acts : hupMagpwrWrite w b =
    if b.topaz.pwr.flush || b.topaz.shutSent || b.topaz.fatal then b.setReg 0x214 (bitsWhere 4 (portsWanted w b))
    else [0, 1, 2, 3].foldl (fun x m => setMagpwr m (portsWanted w b m && bitOf x.beryl.otc.magPorts m) x)
      (b.setReg 0x214 (bitsWhere 4 (portsWanted w b))) :=
  if_neg (by rw [hb]; decide)

theorem hupMagpwrWrite_stores (h : b.topaz.pwr.flush = true ∨ b.topaz.shutSent = true ∨ b.topaz.fatal = true) :
    hupMagpwrWrite w b = b.setReg 0x214 (bitsWhere 4 (portsWanted w b)) := by
  rw [hupMagpwrWrite_acts hb]
  exact if_pos (by rwa [Bool.or_assoc, Bool.or_eq_true, Bool.or_eq_true])

theorem hupMagpwrWrite_powers (hf : b.topaz.pwr.flush = false) (hs : b.topaz.shutSent = false) (ht : b.topaz.fatal = false)
    {m : Nat} (hm : m < 4) : vget (hupMagpwrWrite w b).topaz.pwr.magpwr m false =
      (portsWanted w b m && bitOf b.beryl.otc.magPorts m) := by
  have beryl (m : Nat) (on : Bool) (x : Block) : (setMagpwr m on x).beryl = x.beryl := by
    unfold setMagpwr
    split <;> rfl
  rw [hupMagpwrWrite_acts hb, hf, hs, ht, if_neg (by decide)]
  simp only [List.foldl_cons, List.foldl_nil, beryl, Block.setReg_beryl]
  exact foldl_ports_magpwr (f := fun x m => setMagpwr m (portsWanted w b m && bitOf b.beryl.otc.magPorts m) x)
    (on := fun m _ => portsWanted w b m && bitOf b.beryl.otc.magPorts m)
    (fun x m => congrArg (fun t : Topaz => t.pwr.magpwr) (setMagpwr_topaz ..)) (b.setReg 0x214 (bitsWhere 4 (portsWanted w b))) hm

end

theorem magpwrStored {b : Block} (hr : mapWf regReset b.regs = true) (p : Nat → Bool) {m : Nat} (hm : m < 4) :
    ((b.setReg 0x214 (bitsWhere 4 p)).reg 0x214).testBit m = p m := by
  have low : decide (m < 32) = true := decide_eq_true (by omega)
  rw [Block.setReg_reg hr, Nat.testBit_mod_two_pow, low, Bool.true_and, bitsWhere_testBit p hm]

/-- The record's members keep their supply. -/
def keepMembers (l : List Nat) (b : Block) (m : Nat) : Block := if l.contains m then b else setMagpwr m false b

theorem keepMembers_magpwr (l : List Nat) (b : Block) (m : Nat) : (keepMembers l b m).topaz.pwr.magpwr =
    vset b.topaz.pwr.magpwr m (l.contains m && vget b.topaz.pwr.magpwr m false) := by
  unfold keepMembers
  split
  · next h => rw [h, Bool.true_and, vset_vget]
  · next h => rw [Bool.eq_false_iff.mpr h, Bool.false_and, setMagpwr_topaz]

theorem keepMembers_ch (l : List Nat) (b : Block) (m : Nat) : (keepMembers l b m).ch = b.ch := by
  unfold keepMembers setMagpwr
  split <;> rfl

theorem keepPoweredRecord_acts {b : Block} {l : List Nat} {r : List (List Nat)} (h : b.ch.keepPowered = l :: r) :
    keepPoweredRecord b = [0, 1, 2, 3].foldl (keepMembers l) (b.modCh (fun c => { c with keepPowered := r })) := by
  unfold keepPoweredRecord
  rw [h]
  rfl

end Sys2Proof.Machine

section
open Sys2Proof Sys2Proof.Machine

/-- Settles O58: every change of the pack is one settling of READY with its report; the control step is one such change of the
pack, read with its limits; what drops the rails meets the facts of a drop; supplies change port by port. -/
theorem packChargerKeyAndMagazinePower : Obligations.PackChargerKeyAndMagazinePower := by
  refine ⟨?absent, ?appears, ?unknown, ?ntcOut, ?ntcIn, ?firstZone, ?nextZone, ?short, ?precharge, ?done, ?timerStands, ?timerOut,
    ?cleared, ?unkeyed, ?control, ?above, ?low, ?cut, ?shown, ?press, ?restartHold, ?shipHold, ?plainRelease, ?restart,
    ?restartWaits, ?ship, ?shipWaits, ?magpwrStored, ?magpwr, ?keep, ?packReadTotal, ?shortTotal, ?prechargeTotal, ?doneTotal,
    ?timerTotal, ?clrTotal, ?controlTotal, ?showTotal, ?pressTotal, ?restartHoldTotal, ?shipHoldTotal, ?releaseTotal, ?shipTotal,
    ?magpwrTotal, ?keepTotal⟩
  case absent =>
    intro q b ohms temp ho hr hn
    refine completes_of_eq rfl ((packRead_acts ho _ _).trans (by rw [readPack_gone hr hn])) ⟨?_, ?_, settlePack_reports _ b⟩
    · rw [settlePack_pack]
      rfl
    · rw [settlePack_pack]
      exact readyNow_of_not_identified (p := { b.topaz.pwr with pack := packGone b.topaz.pwr.pack }) rfl
  case appears =>
    intro q b ohms temp ho hr ha hk
    have read := readPack_appears (p := b.topaz.pwr) hr ha hk temp
    refine completes_of_eq rfl (packRead_acts ho _ _) ⟨?_, ?_, ?_, ?_, ?_, settlePack_reports _ b⟩ <;> rw [settlePack_pack]
    · exact (congrArg Pack.kind read :)
    · exact (congrArg Pack.timer read :)
    · exact (congrArg Pack.faultShort read :)
    · exact (congrArg Pack.faultTimer read :)
    · exact (congrArg Pack.faultId read :)
  case unknown =>
    intro q b ohms temp ho hr ha hk
    have read := readPack_unknown (p := b.topaz.pwr) hr ha hk temp
    have kind : (readPack ohms temp b.topaz.pwr).kind = .unknown := (congrArg Pack.kind read :)
    refine completes_of_eq rfl (packRead_acts ho _ _) ⟨?_, ?_, ?_, ?_, ?_, ?_, settlePack_reports _ b⟩ <;> rw [settlePack_pack]
    · exact kind
    · exact (congrArg Pack.faultId read :)
    · exact readyNow_of_not_identified (by rw [identified, kind]; rfl)
    · exact (congrArg Pack.timer read :)
    · exact (congrArg Pack.faultShort read :)
    · exact (congrArg Pack.faultTimer read :)
  case ntcOut =>
    intro q b ohms temp ho hr hp ht
    have read := (readPack_again (p := b.topaz.pwr) hr hp temp).trans (readNtc_out ht _)
    have fault : packFault (readPack ohms temp b.topaz.pwr) = true := by rw [read]; simp [packFault]
    refine completes_of_eq rfl (packRead_acts ho _ _) ⟨?_, ?_, ?_, settlePack_reports _ b⟩ <;> rw [settlePack_of_fault fault, read]
  case ntcIn =>
    intro q b ohms temp ho hr hp lo hi
    have read := (readPack_again (p := b.topaz.pwr) hr hp temp).trans (readNtc_in lo hi _)
    refine completes_of_eq rfl (packRead_acts ho _ _) ⟨?_, ?_, settlePack_reports _ b⟩ <;> rw [settlePack_pack, read]
  case firstZone =>
    intro q b ohms temp ho hr hp hz
    have zones := readNtc_zones temp { b.topaz.pwr with pack := { b.topaz.pwr.pack with openReads := 0 } }
    rw [updateZones_first (by exact hz), ← readPack_again hr hp] at zones
    obtain ⟨zoned, at_, czone, allowed⟩ := zones
    refine completes_of_eq rfl (packRead_acts ho _ _) ⟨?_, ?_, ?_, ?_, settlePack_reports _ b⟩ <;> rw [settlePack_pack]
    · exact zoned
    · exact at_
    · exact czone
    · exact allowed
  case nextZone =>
    intro q b ohms temp ho hr hp hz
    have zones := readNtc_zones temp { b.topaz.pwr with pack := { b.topaz.pwr.pack with openReads := 0 } }
    rw [updateZones_next (by exact hz), ← readPack_again hr hp] at zones
    obtain ⟨-, at_, czone, allowed⟩ := zones
    refine completes_of_eq rfl (packRead_acts ho _ _) ⟨?_, ?_, ?_, settlePack_reports _ b⟩ <;> rw [settlePack_pack]
    · exact at_
    · exact czone
    · exact allowed
  case short =>
    intro q b hp hv
    have fault : packFault { b.topaz.pwr.pack with faultShort := true, phase := .off } = true := rfl
    exact completes_of_eq rfl (shortCheck_faults hp hv) ⟨settlePack_of_fault fault b, settlePack_reports _ b⟩
  case precharge =>
    intro q b hp
    have fault : packFault { b.topaz.pwr.pack with faultTimer := true, phase := .off } = true := Bool.or_true _
    exact completes_of_eq rfl (prechargeTimeout_faults hp) ⟨settlePack_of_fault fault b, settlePack_reports _ b⟩
  case done =>
    intro q b hp
    exact completes_of_eq rfl (chargeDone_ends hp) ⟨settlePack_pack _ b, settlePack_reports _ b⟩
  case timerStands =>
    intro q b ht
    exact completes_of_eq rfl (safetyTimerExpiry_counts_not ht) ⟨settlePack_pack _ b, settlePack_reports _ b⟩
  case timerOut =>
    intro q b ht
    have fault : packFault { b.topaz.pwr.pack with timer := safetyLimit, faultTimer := true, phase := .off } = true :=
      Bool.or_true _
    exact completes_of_eq rfl (safetyTimerExpiry_faults ht) ⟨settlePack_of_fault fault b, settlePack_reports _ b⟩
  case cleared =>
    intro q b w hb h0 hk
    refine completes_of_eq rfl (clrTimer_clears hb h0 hk) ⟨?_, ?_, ?_, settlePack_reports _ b⟩ <;> rw [settlePack_pack]
  case unkeyed =>
    intro q b w h
    exact act_of_eq (clrTimer_unkeyed h)
  case control =>
    intro q b mv vbus ma ho hf hv h1
    have kept := stepped_besideCharger (p := sensed mv ma vbus b) hv
    refine completes_of_eq rfl (controlStep_of_no_flush ho mv ma vbus hf) ⟨?_, ?_, ?_, ?_, ?_, ?_, ?_, controlled_reports ..⟩ <;>
      rw [controlled_topaz]
    · rfl
    · rfl
    · exact (congrArg Pack.mv kept :)
    · exact (congrArg Pack.ma kept :)
    · exact stepped_faults (p := sensed mv ma vbus b) hv h1
    · exact (congrArg Pack.kind kept :)
    · intro h
      refine (stepped_counts (p := sensed mv ma vbus b) hv h1 h).trans ?_
      show min safetyLimit (b.topaz.pwr.pack.timer + zoneTicks b.topaz.pwr.pack.czone) = _
      cases b.topaz.pwr.pack.czone <;> rfl
  case above =>
    intro q b mv vbus ma ho hf hi hv
    obtain ⟨kind, phase⟩ := stepped_over (p := sensed mv ma vbus b) hi hv
    refine completes_of_eq rfl (controlStep_of_no_flush ho mv ma vbus hf) ⟨?_, ?_, controlled_reports ..⟩ <;> rw [controlled_topaz]
    · exact kind
    · exact phase
  case low =>
    intro q b mv vbus ma ho hf hi hv
    obtain ⟨short, phase⟩ := stepped_low (p := sensed mv ma vbus b) hi hv
    refine completes_of_eq rfl (controlStep_of_no_flush ho mv ma vbus hf) ⟨?_, ?_, ?_, controlled_reports ..⟩ <;>
      rw [controlled_topaz]
    · exact short
    · exact phase
    · exact readyNow_of_fault (by simp [packFault, short])
  case cut =>
    intro q b mv vbus j ma ho hf hv hc _ hd ht
    have topaz := controlled_topaz mv ma vbus b
    have fuses := congrArg Otc.fuses ((controlled_kept mv ma vbus b).at_ .otc (by decide))
    exact completes_of_eq rfl (controlStep_cuts ho hf hv hc ma vbus) (startDrop_drops _ (by rw [topaz]; exact hd)
      (by rw [topaz]; exact ht) (onlyChanges_mono (by decide) (controlled_kept ..)) fuses)
  case shown =>
    intro q b hs
    refine completes_of_eq rfl (showEnd_acts hs) ⟨?_, ?_, tellHold_reports ?_ ?_ ?_ ?_⟩
    · rw [tellHold_topaz, openSwitch_topaz]
      rfl
    · rw [tellHold_topaz, openSwitch_topaz]
      rfl
    · exact tellHold_frame (by decide) (openSwitch_frame (by decide) (modPwr_frame (by decide) (onlyChanges_refl _ _)))
    · unfold openSwitch
      split <;> rfl
    · rw [openSwitch_topaz]
      rfl
    · rw [openSwitch_topaz]
      rfl
  case press =>
    intro q b hm ho hs hd
    refine completes_of_eq rfl ((live_of_mode hm).trans (keyPress_acts ho hs hd)) ⟨logKey_topaz .., ?_⟩
    exact logKey_frame (by decide) (modPwr_frame (by decide) (onlyChanges_refl _ _))
  case restartHold =>
    intro q b hm hd
    refine completes_of_eq rfl ((live_of_mode hm).trans (keyRestartHold_acts hd)) ⟨?_, ?_, tellHold_reports ?_⟩
    · rw [tellHold_topaz]
      rfl
    · rw [tellHold_topaz]
      exact hd
    · exact tellHold_frame (by decide) (modPwr_frame (by decide) (onlyChanges_refl _ _))
  case shipHold =>
    intro q b hm hd
    refine completes_of_eq rfl ((live_of_mode hm).trans (keyShipHold_acts hd)) ⟨?_, ?_, tellHold_reports ?_⟩
    · rw [tellHold_topaz]
      rfl
    · rw [tellHold_topaz]
      exact hd
    · exact tellHold_frame (by decide) (modPwr_frame (by decide) (onlyChanges_refl _ _))
  case plainRelease =>
    intro q b held hm hk hs
    refine completes_of_eq rfl ((live_of_mode hm).trans (keyNRelease_plain hk held hs)) ⟨logKey_topaz .., ?_⟩
    exact logKey_frame (by decide) (modPwr_frame (by decide) (onlyChanges_refl _ _))
  case restart =>
    intro q b held j hm hk hs hf _ hd ht
    have topaz := keyUp_topaz held b
    have flush : (keyUp held b).topaz.pwr.flush = false := by rw [topaz]; exact hf
    have drop : (keyUp held b).topaz.drop = none := by rw [topaz]; exact hd
    have top : topRail (keyUp held b).topaz = some j := by rw [topaz]; exact ht
    have fuses := congrArg Otc.fuses ((keyUp_kept held b).at_ .otc (by decide))
    refine completes_of_eq rfl (((live_of_mode hm).trans (keyNRelease_restart hk held hs)).trans (keyAct_drops .restart flush drop))
      ⟨?_, ?_, startDrop_drops _ drop top (onlyChanges_mono (by decide) (keyUp_kept ..)) fuses⟩ <;>
      rw [startDrop_pwr _ drop top, topaz]
    all_goals rfl
  case restartWaits =>
    intro q b held hm hk hs hw
    have topaz := keyUp_topaz held b
    have waits : (keyUp held b).topaz.pwr.flush = true ∨ (keyUp held b).topaz.drop ≠ none := by rw [topaz]; exact hw
    refine completes_of_eq rfl (((live_of_mode hm).trans (keyNRelease_restart hk held hs)).trans (keyAct_waits .restart waits))
      ⟨?_, ?_, ?_, ?_, modPwr_frame (by decide) (onlyChanges_mono (by decide) (keyUp_kept ..))⟩ <;> rw [modPwr_topaz, topaz]
    all_goals rfl
  case ship =>
    intro q b j hs hf _ hd ht
    have drop := startDrop_drops (b := modPwr (fun p => { p with keyShown := none }) b) .ship hd ht
      (modPwr_frame (by decide) (onlyChanges_refl _ _))
    have pwr := startDrop_pwr (b := modPwr (fun p => { p with keyShown := none }) b) .ship hd ht
    exact completes_of_eq rfl ((shipModeEnter_acts hs).trans (keyAct_drops .ship hf hd)) ⟨(congrArg Power.keyShown pwr :), drop⟩
  case shipWaits =>
    intro q b hs hw
    exact completes_of_eq rfl ((shipModeEnter_acts hs).trans (keyAct_waits .ship hw))
      ⟨rfl, modPwr_frame (by decide) (modPwr_frame (by decide) (onlyChanges_refl _ _))⟩
  case magpwrStored =>
    intro q b w hb hr h
    exact completes_of_eq rfl (hupMagpwrWrite_stores hb h) ⟨rfl, fun m hm => magpwrStored hr _ hm,
      upd_regs_frame (by decide) (onlyChanges_refl _ _)⟩
  case magpwr =>
    intro q b w hb hf hs ht
    exact ⟨_, rfl, rfl, fun m hm => hupMagpwrWrite_powers hb hf hs ht hm, hupMagpwrWrite_frame (by decide) (onlyChanges_refl _ _)⟩
  case keep =>
    intro q b l r h
    refine completes_of_eq rfl (keepPoweredRecord_acts h) ⟨?_, fun m hm => foldl_ports_magpwr (keepMembers_magpwr l) _ hm, ?_⟩
    · exact (congrArg Channels.keepPowered (foldl_keeps (g := Block.ch) (keepMembers_ch l) _ _) :)
    · rw [← keepPoweredRecord_acts h]
      exact keepPoweredRecord_frame (by decide) (onlyChanges_refl _ _)
  case packReadTotal => exact fun q b ohms temp => ⟨rfl, packRead_frame (by decide) (onlyChanges_refl _ _)⟩
  case shortTotal => exact fun q b => ⟨rfl, shortCheck_frame (by decide) (onlyChanges_refl _ _)⟩
  case prechargeTotal => exact fun q b => ⟨rfl, prechargeTimeout_frame (by decide) (onlyChanges_refl _ _)⟩
  case doneTotal => exact fun q b => ⟨rfl, chargeDone_frame (by decide) (onlyChanges_refl _ _)⟩
  case timerTotal => exact fun q b => ⟨rfl, safetyTimerExpiry_frame (by decide) (onlyChanges_refl _ _)⟩
  case clrTotal => exact fun q b w => ⟨rfl, clrTimer_frame (by decide) (onlyChanges_refl _ _)⟩
  case controlTotal => exact fun q b mv ma vbus => ⟨rfl, controlStep_frame (by decide) (onlyChanges_refl _ _)⟩
  case showTotal => exact fun q b => ⟨rfl, showEnd_frame (by decide) (onlyChanges_refl _ _)⟩
  case pressTotal =>
    exact fun q b hm => ⟨act_of_eq (live_of_mode hm), keyPress_frame (by decide) (onlyChanges_refl _ _)⟩
  case restartHoldTotal =>
    exact fun q b hm => ⟨act_of_eq (live_of_mode hm), keyRestartHold_frame (by decide) (onlyChanges_refl _ _)⟩
  case shipHoldTotal =>
    exact fun q b hm => ⟨act_of_eq (live_of_mode hm), keyShipHold_frame (by decide) (onlyChanges_refl _ _)⟩
  case releaseTotal =>
    exact fun q b held hm => ⟨act_of_eq (live_of_mode hm), keyNRelease_frame (by decide) (onlyChanges_refl _ _)⟩
  case shipTotal => exact fun q b => ⟨rfl, shipModeEnter_frame (by decide) (onlyChanges_refl _ _)⟩
  case magpwrTotal => exact fun q b w => ⟨rfl, hupMagpwrWrite_frame (by decide) (onlyChanges_refl _ _)⟩
  case keepTotal => exact fun q b => ⟨rfl, keepPoweredRecord_frame (by decide) (onlyChanges_refl _ _)⟩

end
end

section
/-! O51: thermal samples, readings, group states, the device state and its throttle steps, the Shutdown signal (15 R404 to
R411). -/

-- The proofs are elaborated one after another: each waiting in a thread of its own takes more memory than the check allows.
set_option Elab.async false

namespace Sys2Proof.Machine

/-! ### Samples and readings (15 R404, R405) -/

theorem vget_foldl_vset {α : Type} {n : Nat} (d : α) {k : Nat} (hk : k < n) : ∀ (l : List α) (i : Nat) (v : Vector α n),
    vget ((l.zipIdx i).foldl (fun v x => vset v x.2 x.1) v) k d =
      if i ≤ k ∧ k < i + l.length then l.getD (k - i) d else vget v k d
  | [], i, v => by rw [if_neg (by rw [List.length_nil]; omega)]; rfl
  | x :: l, i, v => by
    rw [List.zipIdx_cons, List.foldl_cons, vget_foldl_vset d hk l, vget_vset, List.length_cons]
    by_cases hi : i = k
    · subst hi
      rw [if_neg (by omega), if_pos ⟨rfl, hk⟩, if_pos (by omega), Nat.sub_self]
      rfl
    · rw [if_neg (c := i = k ∧ k < n) (by omega)]
      by_cases h : i + 1 ≤ k ∧ k < i + 1 + l.length
      · rw [if_pos h, if_pos (by omega), show k - i = (k - (i + 1)) + 1 by omega]
        rfl
      · rw [if_neg h, if_neg (by omega)]

theorem sensorSample_samples {b : Block} {l : List Int} (ho : b.topaz.berylOut = true) (hl : l.length = 56) {k : Nat}
    (hk : k < 56) : vget (sensorSample l b).beryl.thm.samples k 0 = l.getD k 0 := by
  have stored : (sensorSample l b).beryl.thm.samples = l.zipIdx.foldl (fun v x => vset v x.2 x.1) b.beryl.thm.samples :=
    congrArg (fun x : Block => x.beryl.thm.samples) (if_pos (by rw [thmRuns, ho, hl]; rfl))
  rw [stored, vget_foldl_vset 0 hk, if_pos (by omega), Nat.sub_zero]

/-- The readings of the four groups. -/
def groupReadings (ra rb : Int) (b : Block) : Vector Int 4 :=
  #v[maxSample b.beryl.thm 0 48, maxSample b.beryl.thm 48 56, if remoteOn b 0 = true then ra else 0,
    if remoteOn b 1 = true then rb else 0]

theorem vset_four {α : Type} (v : Vector α 4) (w x y z : α) : vset (vset (vset (vset v 0 w) 1 x) 2 y) 3 z = #v[w, x, y, z] := by
  ext i hi
  match i, hi with
  | 0, _ => simp [vset]
  | 1, _ => simp [vset]
  | 2, _ => simp [vset]
  | 3, _ => simp [vset]

theorem formReadings_readings (ra rb : Int) (b : Block) : (formReadings ra rb b).beryl.thm.readings = groupReadings ra rb b :=
  vset_four ..

/-! ### What THM holds of a group and of a remote input -/

/-- A group's state, and that it has had a reading. -/
def Thermal.group (t : Thermal) (g : Nat) : Nat × Bool := (vget t.groups g 0, vget t.begun g false)

/-- REMOTE_FAULT of a remote input, and its run of readings out of range. -/
def Thermal.input (t : Thermal) (k : Nat) : Bool × Nat := (vget t.fault k false, vget t.badRun k 0)

/-- What is neither a group's nor a remote input's. -/
def Thermal.besideInputs (t : Thermal) : Thermal :=
  { t with groups := .replicate 4 0, begun := .replicate 4 false, badRun := .replicate 2 0, goodRun := .replicate 2 0
           fault := .replicate 2 false }

@[simp] theorem Thermal.besideInputs_hold (t : Thermal) : t.besideInputs.hold = t.hold := rfl

/-- The channels are those that they were where none of them may change. -/
theorem ch_of_kept {ps : List Piece} {a b : Block} (h : onlyChanges ps a b) (hc : .ch ∉ ps) (ht : .trace ∉ ps) :
    b.ch = a.ch := by
  have trace : b.ch.evr = a.ch.evr := h.at_ .trace ht
  have beside := kept_ch h hc
  rw [← trace] at beside
  exact beside

theorem firmware_congr {a b : Block} (h : a.topaz = b.topaz) : firmware a = firmware b := by
  simp only [firmware, Block.alive, Block.inPower, Block.isl, h]

theorem remoteOn_congr {a b : Block} (h : a.regs = b.regs) (k : Nat) : remoteOn a k = remoteOn b k := by
  rw [remoteOn, remoteOn, Block.reg_congr h]

theorem groupOn_congr {a b : Block} (h : a.regs = b.regs) (g : Nat) : groupOn a g = groupOn b g := by
  rw [groupOn, groupOn, remoteOn_congr h]

theorem thermalLevel_congr {a b : Block} (h : a.regs = b.regs) (g k : Nat) : thermalLevel a g k = thermalLevel b g k := by
  rw [thermalLevel, thermalLevel, Block.reg_congr h]

theorem thermalRaw_congr {a b : Block} (h : a.regs = b.regs) (g : Nat) (r x : Int) : thermalRaw a g r x = thermalRaw b g r x := by
  simp only [thermalRaw, thermalLevel_congr h]

/-- The state after a reading is a matter of the levels and of the group. -/
theorem stateAfter_congr {a b : Block} {g : Nat} (h : a.regs = b.regs) (hg : a.beryl.thm.group g = b.beryl.thm.group g)
    (r : Int) : stateAfter a g r = stateAfter b g r := by
  obtain ⟨state, begun⟩ := Prod.mk.inj hg
  simp only [stateAfter, thermalRaw_congr h, thermalHyst, Block.reg_congr h, state, begun]

theorem forgetRemote_group {k g : Nat} (h : g ≠ 2 + k) (b : Block) :
    (forgetRemote k b).beryl.thm.group g = b.beryl.thm.group g := by
  have other {α : Type} (v : Vector α 4) (x d : α) : vget (vset v (2 + k) x) g d = vget v g d := by
    rw [vget_vset, if_neg (by omega)]
  exact Prod.ext (other ..) (other ..)

theorem forgetRemote_input {j k : Nat} (h : j ≠ k) (b : Block) :
    (forgetRemote k b).beryl.thm.input j = b.beryl.thm.input j := by
  have other {α : Type} (v : Vector α 2) (x d : α) : vget (vset v k x) j d = vget v j d := by
    rw [vget_vset, if_neg (by omega)]
  exact Prod.ext (other ..) (other ..)

theorem trackRemote_off {k : Nat} {b : Block} (h : remoteOn b k = false) : trackRemote k b = forgetRemote k b :=
  if_pos (by rw [h]; rfl)

/-- The run of readings out of range of an input after its reading. -/
def badRunAfter (t : Thermal) (k : Nat) : Nat :=
  if remoteInRange (vget t.readings (2 + k) 0) then 0 else min 3 (vget t.badRun k 0 + 1)

/-- The run of readings within range of an input after its reading. -/
def goodRunAfter (t : Thermal) (k : Nat) : Nat :=
  if remoteInRange (vget t.readings (2 + k) 0) then min 3 (vget t.goodRun k 0 + 1) else 0

theorem trackRemote_on {k : Nat} {b : Block} (h : remoteOn b k = true) : trackRemote k b = modThm (fun t => { t with
    goodRun := vset t.goodRun k (goodRunAfter t k), badRun := vset t.badRun k (badRunAfter t k)
    fault := vset t.fault k (if vget t.fault k false then goodRunAfter t k < 3 else 3 ≤ badRunAfter t k) }) b :=
  if_neg (by rw [h]; decide)

theorem trackRemote_besideInputs (k : Nat) (b : Block) :
    (trackRemote k b).beryl.thm.besideInputs = b.beryl.thm.besideInputs := by
  cases h : remoteOn b k with
  | false => rw [trackRemote_off h]; rfl
  | true => rw [trackRemote_on h]; rfl

theorem trackRemote_group {k g : Nat} {b : Block} (h : g ≠ 2 + k ∨ remoteOn b k = true) :
    (trackRemote k b).beryl.thm.group g = b.beryl.thm.group g := by
  cases hon : remoteOn b k with
  | false =>
    rw [hon, or_iff_left (by decide)] at h
    rw [trackRemote_off hon, forgetRemote_group h]
  | true => rw [trackRemote_on hon]; rfl

theorem trackRemote_input_ne {j k : Nat} (h : j ≠ k) (b : Block) :
    (trackRemote k b).beryl.thm.input j = b.beryl.thm.input j := by
  cases hon : remoteOn b k with
  | false => rw [trackRemote_off hon, forgetRemote_input h]
  | true =>
    have other {α : Type} (v : Vector α 2) (x d : α) : vget (vset v k x) j d = vget v j d := by
      rw [vget_vset, if_neg (by omega)]
    rw [trackRemote_on hon]
    exact Prod.ext (other ..) (other ..)

/-- The fault of an input that is not faulted follows its run of readings out of range. -/
theorem trackRemote_input {k : Nat} {b : Block} (hk : k < 2) (hon : remoteOn b k = true)
    (hf : vget b.beryl.thm.fault k false = false) : (trackRemote k b).beryl.thm.input k =
      (decide (3 ≤ badRunAfter b.beryl.thm k), badRunAfter b.beryl.thm k) := by
  rw [trackRemote_on hon]
  refine Prod.ext ((vget_vset_self hk ..).trans ?_) (vget_vset_self hk ..)
  rw [hf]
  rfl

/-- THM but for the groups that hold the first Hand back. -/
def Thermal.besideHold (t : Thermal) : Thermal := { t with hold := .replicate 4 false }

@[simp] theorem Thermal.besideHold_group (t : Thermal) (g : Nat) : t.besideHold.group g = t.group g := rfl

@[simp] theorem Thermal.besideHold_input (t : Thermal) (k : Nat) : t.besideHold.input k = t.input k := rfl

/-- What the tracking of remote inputs and of the first Hand leaves of THM. -/
def Thermal.besideTracking (t : Thermal) : Thermal := t.besideHold.besideInputs

@[simp] theorem Thermal.besideTracking_readings (t : Thermal) : t.besideTracking.readings = t.readings := rfl

@[simp] theorem Thermal.besideTracking_device (t : Thermal) : t.besideTracking.device = t.device := rfl

@[simp] theorem Thermal.besideTracking_t (t : Thermal) : t.besideTracking.t = t.t := rfl

@[simp] theorem Thermal.besideTracking_signalled (t : Thermal) : t.besideTracking.signalled = t.signalled := rfl

theorem trackHold_besideHold (b : Block) (g : Nat) : (trackHold g b).beryl.thm.besideHold = b.beryl.thm.besideHold := rfl

theorem badRunAfter_in {t : Thermal} {k : Nat} (h : remoteInRange (vget t.readings (2 + k) 0) = true) :
    badRunAfter t k = 0 := if_pos h

theorem badRunAfter_out {t : Thermal} {k : Nat} (h : remoteInRange (vget t.readings (2 + k) 0) = false)
    (h2 : vget t.badRun k 0 = 2) : badRunAfter t k = 3 := by
  rw [badRunAfter, h, h2]
  rfl

theorem remoteInRange_in {r : Int} (lo : -400 ≤ r) (hi : r ≤ 1500) : remoteInRange r = true := by
  rw [remoteInRange, decide_eq_true lo, decide_eq_true hi]
  rfl

theorem remoteInRange_out {r : Int} (h : r < -400 ∨ 1500 < r) : remoteInRange r = false := by
  rw [remoteInRange, Bool.and_eq_false_iff, decide_eq_false_iff_not, decide_eq_false_iff_not]
  omega

/-- No group comes to hold the first Hand back. -/
theorem trackHold_hold {g j : Nat} {b : Block} (h : vget b.beryl.thm.hold j false = false) :
    vget (trackHold g b).beryl.thm.hold j false = false := by
  refine (vget_vset ..).trans ?_
  split
  · next hj => rw [hj.1, h, Bool.false_and]
  · exact h

theorem foldl_trackHold_hold {j : Nat} (l : List Nat) {b : Block} (h : vget b.beryl.thm.hold j false = false) :
    vget (l.foldl (fun b g => trackHold g b) b).beryl.thm.hold j false = false := by
  induction l generalizing b with
  | nil => exact h
  | cons g l ih => exact ih (trackHold_hold h)

/-! ### THM hardware after a reading, before the states (15 R404, R405, R414) -/

/-- The block with its readings formed and its remote inputs tracked. -/
def inputsTracked (ra rb : Int) (b : Block) : Block := trackRemote 1 (trackRemote 0 (trackPeak (formReadings ra rb b)))

/-- The block once THM hardware has taken the readings. -/
def tracked (ra rb : Int) (b : Block) : Block := [0, 1, 2, 3].foldl (fun b g => trackHold g b) (inputsTracked ra rb b)

section
variable (ra rb : Int) (b : Block)

theorem inputsTracked_kept : onlyChanges [.thm, .topaz] b (inputsTracked ra rb b) :=
  trackRemote_frame (by decide) (trackRemote_frame (by decide) (trackPeak_frame (by decide)
    (formReadings_frame (by decide) (onlyChanges_refl _ _))))

theorem tracked_kept : onlyChanges [.thm, .topaz] b (tracked ra rb b) :=
  onlyChanges_foldl (fun _ _ h => trackHold_frame (by decide) h) (inputsTracked_kept ra rb b)

theorem tracked_regs : (tracked ra rb b).regs = b.regs := (tracked_kept ra rb b).at_ .regs (by decide)

theorem tracked_ch : (tracked ra rb b).ch = b.ch := ch_of_kept (tracked_kept ra rb b) (by decide) (by decide)

theorem tracked_firmware : firmware (tracked ra rb b) = firmware b := by
  have topaz : (tracked ra rb b).topaz = (trackPeak (formReadings ra rb b)).topaz :=
    (onlyChanges_foldl (fun _ _ h => trackHold_frame (by decide) h) (trackRemote_frame (by decide)
      (trackRemote_frame (ps := [.thm]) (by decide) (onlyChanges_refl _ _)))).at_ .topaz (by decide)
  exact (firmware_congr topaz).trans rfl

theorem inputsTracked_besideInputs :
    (inputsTracked ra rb b).beryl.thm.besideInputs = (formReadings ra rb b).beryl.thm.besideInputs :=
  (trackRemote_besideInputs ..).trans (trackRemote_besideInputs ..)

theorem tracked_besideHold : (tracked ra rb b).beryl.thm.besideHold = (inputsTracked ra rb b).beryl.thm.besideHold :=
  foldl_keeps (g := fun x => x.beryl.thm.besideHold) trackHold_besideHold _ _

theorem tracked_besideTracking :
    (tracked ra rb b).beryl.thm.besideTracking = (formReadings ra rb b).beryl.thm.besideTracking :=
  (congrArg Thermal.besideInputs (tracked_besideHold ra rb b)).trans
    (congrArg Thermal.besideHold (inputsTracked_besideInputs ra rb b))

theorem tracked_readings : (tracked ra rb b).beryl.thm.readings = groupReadings ra rb b := by
  rw [← Thermal.besideTracking_readings, tracked_besideTracking, Thermal.besideTracking_readings, formReadings_readings]

theorem tracked_device : (tracked ra rb b).beryl.thm.device = b.beryl.thm.device := by
  rw [← Thermal.besideTracking_device, tracked_besideTracking, Thermal.besideTracking_device]
  rfl

theorem tracked_t : (tracked ra rb b).beryl.thm.t = b.beryl.thm.t := by
  rw [← Thermal.besideTracking_t, tracked_besideTracking, Thermal.besideTracking_t]
  rfl

theorem tracked_signalled : (tracked ra rb b).beryl.thm.signalled = b.beryl.thm.signalled := by
  rw [← Thermal.besideTracking_signalled, tracked_besideTracking, Thermal.besideTracking_signalled]
  rfl

end

theorem tracked_hold {b : Block} {j : Nat} (h : vget b.beryl.thm.hold j false = false) (ra rb : Int) :
    vget (tracked ra rb b).beryl.thm.hold j false = false := by
  have before : vget (inputsTracked ra rb b).beryl.thm.hold j false = false := by
    rw [← Thermal.besideInputs_hold, inputsTracked_besideInputs]
    exact h
  exact foldl_trackHold_hold _ before

theorem tracked_group {g : Nat} {b : Block} (h0 : g ≠ 2 ∨ remoteOn b 0 = true) (h1 : g ≠ 3) (ra rb : Int) :
    (tracked ra rb b).beryl.thm.group g = b.beryl.thm.group g := by
  rw [← Thermal.besideHold_group, tracked_besideHold, Thermal.besideHold_group, inputsTracked, trackRemote_group (.inl h1),
    trackRemote_group h0]
  rfl

theorem tracked_group_die {g : Nat} (hg : g < 2) (ra rb : Int) (b : Block) :
    (tracked ra rb b).beryl.thm.group g = b.beryl.thm.group g :=
  tracked_group (.inl (by omega)) (by omega) ra rb

section
variable {b : Block} {ra : Int} (hon : remoteOn b 0 = true) (hf : vget b.beryl.thm.fault 0 false = false) (rb : Int)
include hon

theorem formReadings_reading : vget (formReadings ra rb b).beryl.thm.readings 2 0 = ra := by
  rw [formReadings_readings]
  exact if_pos hon

include hf

/-- Remote input 0 after its reading, when it was not faulted before it. -/
theorem tracked_input : (tracked ra rb b).beryl.thm.input 0 =
    (decide (3 ≤ badRunAfter (formReadings ra rb b).beryl.thm 0), badRunAfter (formReadings ra rb b).beryl.thm 0) := by
  rw [← Thermal.besideHold_input, tracked_besideHold, Thermal.besideHold_input, inputsTracked, trackRemote_input_ne (by decide),
    trackRemote_input (by decide) (b := trackPeak (formReadings ra rb b)) hon hf]
  rfl

theorem tracked_input_in (lo : -400 ≤ ra) (hi : ra ≤ 1500) : (tracked ra rb b).beryl.thm.input 0 = (false, 0) := by
  rw [tracked_input hon hf, badRunAfter_in (by rw [formReadings_reading hon, remoteInRange_in lo hi])]
  rfl

theorem tracked_input_out (hr : ra < -400 ∨ 1500 < ra) (h2 : vget b.beryl.thm.badRun 0 0 = 2) :
    (tracked ra rb b).beryl.thm.input 0 = (true, 3) := by
  rw [tracked_input hon hf, badRunAfter_out (t := (formReadings ra rb b).beryl.thm)
    (by rw [formReadings_reading hon, remoteInRange_out hr]) h2]
  rfl

end

/-! ### The firmware sets the groups' states (15 R405 to R407) -/

/-- What a change of a group's state leaves of THM, the steps sent to Garnet and the signals sent to Topaz. -/
def Block.besideGroups (b : Block) : Thermal × List Nat × List (Nat × Int) :=
  ({ b.beryl.thm with groups := .replicate 4 0, begun := .replicate 4 false }, b.ch.berylGarnet, b.ch.shutSignal)

@[simp] theorem Block.besideGroups_readings (b : Block) : b.besideGroups.1.readings = b.beryl.thm.readings := rfl

@[simp] theorem Block.besideGroups_fault (b : Block) : b.besideGroups.1.fault = b.beryl.thm.fault := rfl

@[simp] theorem Block.besideGroups_device (b : Block) : b.besideGroups.1.device = b.beryl.thm.device := rfl

@[simp] theorem Block.besideGroups_t (b : Block) : b.besideGroups.1.t = b.beryl.thm.t := rfl

@[simp] theorem Block.besideGroups_berylGarnet (b : Block) : b.besideGroups.2.1 = b.ch.berylGarnet := rfl

theorem tellThermal_besideGroups (g z : Nat) (r : Int) (b : Block) :
    (tellThermal g z r b).besideGroups = b.besideGroups := by
  unfold Block.besideGroups
  rw [tellThermal_thm]
  unfold tellThermal
  rw [Block.logEvr_berylGarnet, Block.logEvr_shutSignal]
  rfl

theorem setGroup_besideGroups (g z : Nat) (r : Int) (force : Bool) (b : Block) :
    (setGroup g z r force b).besideGroups = b.besideGroups := by
  unfold setGroup
  extract_lets old set
  split
  · rfl
  · exact (tellThermal_besideGroups ..).trans rfl

theorem setGroup_groups (g z : Nat) (r : Int) (force : Bool) (b : Block) :
    (setGroup g z r force b).beryl.thm.groups = vset b.beryl.thm.groups g z := by
  unfold setGroup
  extract_lets old set
  split
  · rfl
  · rw [tellThermal_thm]
    rfl

theorem setGroup_group_self {g : Nat} (hg : g < 4) (z : Nat) (r : Int) (force : Bool) (b : Block) :
    (setGroup g z r force b).beryl.thm.group g = (z, true) := by
  rw [Thermal.group, setGroup_groups, setGroup_begun, vget_vset_self hg, vget_vset_self hg]

theorem setGroup_group_ne {g j : Nat} (h : j ≠ g) (z : Nat) (r : Int) (force : Bool) (b : Block) :
    (setGroup g z r force b).beryl.thm.group j = b.beryl.thm.group j := by
  rw [Thermal.group, setGroup_groups, setGroup_begun, vget_vset, vget_vset, if_neg (by omega), if_neg (by omega)]
  rfl

theorem updateDie_besideGroups (g : Nat) (b : Block) : (updateDie g b).besideGroups = b.besideGroups :=
  setGroup_besideGroups ..

theorem updateDie_regs (g : Nat) (b : Block) : (updateDie g b).regs = b.regs :=
  (updateDie_frame (ps := [.thm, .evr, .ch, .trace]) (by decide) (onlyChanges_refl _ b)).at_ .regs (by decide)

theorem updateRemote_regs (k : Nat) (was : Bool) (b : Block) : (updateRemote k was b).regs = b.regs :=
  (updateRemote_frame (ps := [.thm, .evr, .ch, .trace]) (by decide) (onlyChanges_refl _ b)).at_ .regs (by decide)

theorem updateDie_group_self {g : Nat} (hg : g < 4) (b : Block) :
    (updateDie g b).beryl.thm.group g = (stateAfter b g (vget b.beryl.thm.readings g 0), true) :=
  setGroup_group_self hg ..

theorem updateDie_group_ne {g j : Nat} (h : j ≠ g) (b : Block) :
    (updateDie g b).beryl.thm.group j = b.beryl.thm.group j := setGroup_group_ne h ..

/-- A remote group keeps its state, takes one of its own, or is placed in WARNING. -/
theorem updateRemote_cases (k : Nat) (was : Bool) (b : Block) :
    updateRemote k was b = b ∨ ∃ z r force, updateRemote k was b = setGroup (2 + k) z r force b := by
  unfold updateRemote
  extract_lets g r
  split
  · exact .inl rfl
  · split
    · split
      · exact .inl rfl
      · exact .inr ⟨_, _, _, rfl⟩
    · split
      · exact .inr ⟨_, _, _, rfl⟩
      · exact .inl rfl

theorem updateRemote_besideGroups (k : Nat) (was : Bool) (b : Block) :
    (updateRemote k was b).besideGroups = b.besideGroups := by
  rcases updateRemote_cases k was b with h | ⟨z, r, force, h⟩ <;> rw [h]
  exact setGroup_besideGroups ..

theorem updateRemote_group_ne {k j : Nat} (h : j ≠ 2 + k) (was : Bool) (b : Block) :
    (updateRemote k was b).beryl.thm.group j = b.beryl.thm.group j := by
  rcases updateRemote_cases k was b with e | ⟨z, r, force, e⟩ <;> rw [e]
  exact setGroup_group_ne h ..

section
variable {k : Nat} {b : Block} (hk : k < 2) (hon : remoteOn b k = true)
include hk hon

theorem updateRemote_group_in (hf : vget b.beryl.thm.fault k false = false)
    (hr : remoteInRange (vget b.beryl.thm.readings (2 + k) 0) = true) (was : Bool) :
    (updateRemote k was b).beryl.thm.group (2 + k) =
      (stateAfter b (2 + k) (vget b.beryl.thm.readings (2 + k) 0), true) := by
  have acts : updateRemote k was b =
      setGroup (2 + k) (stateAfter b (2 + k) (vget b.beryl.thm.readings (2 + k) 0)) (vget b.beryl.thm.readings (2 + k) 0) false b :=
    (if_neg (by rw [hon]; decide)).trans ((if_neg (by rw [hf]; decide)).trans (if_pos hr))
  rw [acts, setGroup_group_self (by omega)]

/-- A new fault places the group in WARNING. -/
theorem updateRemote_group_fault (hf : vget b.beryl.thm.fault k false = true) :
    (updateRemote k false b).beryl.thm.group (2 + k) = (1, true) := by
  have acts : updateRemote k false b = setGroup (2 + k) 1 (vget b.beryl.thm.readings (2 + k) 0) true b :=
    (if_neg (by rw [hon]; decide)).trans ((if_pos hf).trans (if_neg (by decide)))
  rw [acts, setGroup_group_self (by omega)]

end

/-- The block with the states of its groups set. -/
def groupsSet (was : Vector Bool 2) (b : Block) : Block :=
  updateRemote 1 (vget was 1 false) (updateRemote 0 (vget was 0 false) (updateDie 1 (updateDie 0 b)))

theorem updateStates_eq (was : Vector Bool 2) (b : Block) : updateStates was b = settleDevice (groupsSet was b) := rfl

section
variable (was : Vector Bool 2) (b : Block)

theorem groupsSet_besideGroups : (groupsSet was b).besideGroups = b.besideGroups :=
  (updateRemote_besideGroups ..).trans ((updateRemote_besideGroups ..).trans
    ((updateDie_besideGroups ..).trans (updateDie_besideGroups ..)))

theorem groupsSet_regs : (groupsSet was b).regs = b.regs :=
  (updateRemote_regs ..).trans ((updateRemote_regs ..).trans ((updateDie_regs ..).trans (updateDie_regs ..)))

theorem groupsSet_group_0 :
    (groupsSet was b).beryl.thm.group 0 = (stateAfter b 0 (vget b.beryl.thm.readings 0 0), true) := by
  rw [groupsSet, updateRemote_group_ne (by decide), updateRemote_group_ne (by decide), updateDie_group_ne (by decide),
    updateDie_group_self (by decide)]

theorem groupsSet_group_1 :
    (groupsSet was b).beryl.thm.group 1 = (stateAfter b 1 (vget b.beryl.thm.readings 1 0), true) := by
  have reading : (updateDie 0 b).beryl.thm.readings = b.beryl.thm.readings := by
    rw [← Block.besideGroups_readings, updateDie_besideGroups, Block.besideGroups_readings]
  rw [groupsSet, updateRemote_group_ne (by decide), updateRemote_group_ne (by decide), updateDie_group_self (by decide), reading,
    stateAfter_congr (updateDie_regs 0 b) (updateDie_group_ne (by decide) b)]

/-- The updates of the die leave remote input 0 and group 2 as they are. -/
theorem diesUpdated_keep : (updateDie 1 (updateDie 0 b)).beryl.thm.readings = b.beryl.thm.readings ∧
    (updateDie 1 (updateDie 0 b)).beryl.thm.fault = b.beryl.thm.fault ∧
    (updateDie 1 (updateDie 0 b)).beryl.thm.group 2 = b.beryl.thm.group 2 ∧ (updateDie 1 (updateDie 0 b)).regs = b.regs := by
  refine ⟨?_, ?_, ?_, (updateDie_regs ..).trans (updateDie_regs ..)⟩
  · rw [← Block.besideGroups_readings, updateDie_besideGroups, updateDie_besideGroups, Block.besideGroups_readings]
  · rw [← Block.besideGroups_fault, updateDie_besideGroups, updateDie_besideGroups, Block.besideGroups_fault]
  · rw [updateDie_group_ne (by decide), updateDie_group_ne (by decide)]

end

section
variable {b : Block} (hon : remoteOn b 0 = true)
include hon

theorem groupsSet_group_2_in (hf : vget b.beryl.thm.fault 0 false = false)
    (hr : remoteInRange (vget b.beryl.thm.readings 2 0) = true) (was : Vector Bool 2) :
    (groupsSet was b).beryl.thm.group 2 = (stateAfter b 2 (vget b.beryl.thm.readings 2 0), true) := by
  obtain ⟨readings, fault, group, regs⟩ := diesUpdated_keep b
  rw [groupsSet, updateRemote_group_ne (by decide), updateRemote_group_in (by decide) (by rw [remoteOn_congr regs, hon])
    (by rw [fault, hf]) (by rw [readings, hr]), readings, stateAfter_congr regs group]

theorem groupsSet_group_2_fault (hf : vget b.beryl.thm.fault 0 false = true) {was : Vector Bool 2}
    (hw : vget was 0 false = false) : (groupsSet was b).beryl.thm.group 2 = (1, true) := by
  obtain ⟨-, fault, -, regs⟩ := diesUpdated_keep b
  rw [groupsSet, updateRemote_group_ne (by decide), hw, updateRemote_group_fault (by decide) (by rw [remoteOn_congr regs, hon])
    (by rw [fault, hf])]

end

/-! ### Throttle steps and the device state (15 R407 to R409) -/

theorem sendStep_thm (t : Nat) (b : Block) : (sendStep t b).beryl.thm = { b.beryl.thm with t, count := 0, askClock := t != 0 } := by
  unfold sendStep
  split <;> rfl

theorem sendStep_berylGarnet (t : Nat) (b : Block) : (sendStep t b).ch.berylGarnet = b.ch.berylGarnet ++ [t] := by
  unfold sendStep
  split <;> rfl

theorem sendStep_shutSignal (t : Nat) (b : Block) : (sendStep t b).ch.shutSignal = b.ch.shutSignal := by
  unfold sendStep
  split <;> rfl

theorem stepUp_sends {b : Block} (h : b.beryl.thm.t < 12) :
    (stepUp b).beryl.thm =
        { b.beryl.thm with t := b.beryl.thm.t + 1, count := 0, rising := true, askClock := b.beryl.thm.t + 1 != 0 } ∧
      (stepUp b).ch.berylGarnet = b.ch.berylGarnet ++ [b.beryl.thm.t + 1] := by
  have sends : stepUp b = sendStep (b.beryl.thm.t + 1) (modThm (fun x => { x with rising := true, count := 0 }) b) := if_pos h
  rw [sends, sendStep_thm, sendStep_berylGarnet]
  exact ⟨rfl, rfl⟩

theorem stepDown_sends {b : Block} (h : 0 < b.beryl.thm.t) :
    (stepDown b).beryl.thm =
        { b.beryl.thm with t := b.beryl.thm.t - 1, count := 0, rising := false, askClock := b.beryl.thm.t - 1 != 0 } ∧
      (stepDown b).ch.berylGarnet = b.ch.berylGarnet ++ [b.beryl.thm.t - 1] := by
  have sends : stepDown b = sendStep (b.beryl.thm.t - 1) (modThm (fun x => { x with rising := false, count := 0 }) b) := if_pos h
  rw [sends, sendStep_thm, sendStep_berylGarnet]
  exact ⟨rfl, rfl⟩

/-- What a throttle step and the device state leave of THM, and the signals sent to Topaz. -/
def Block.besideSteps (b : Block) : Thermal × List (Nat × Int) :=
  ({ b.beryl.thm with device := 0, t := 0, count := 0, rising := false, askClock := false }, b.ch.shutSignal)

@[simp] theorem Block.besideSteps_group (b : Block) (g : Nat) : b.besideSteps.1.group g = b.beryl.thm.group g := rfl

/-- What the firmware's states leave of THM, and the signals sent to Topaz. -/
def Block.besideStates (b : Block) : Thermal × List (Nat × Int) :=
  ({ b.beryl.thm with
      device := 0, t := 0, count := 0, rising := false, askClock := false, groups := .replicate 4 0, begun := .replicate 4 false },
    b.ch.shutSignal)

@[simp] theorem Block.besideStates_readings (b : Block) : b.besideStates.1.readings = b.beryl.thm.readings := rfl

@[simp] theorem Block.besideStates_signalled (b : Block) : b.besideStates.1.signalled = b.beryl.thm.signalled := rfl

@[simp] theorem Block.besideStates_hold (b : Block) : b.besideStates.1.hold = b.beryl.thm.hold := rfl

@[simp] theorem Block.besideStates_input (b : Block) (k : Nat) : b.besideStates.1.input k = b.beryl.thm.input k := rfl

@[simp] theorem Block.besideStates_shutSignal (b : Block) : b.besideStates.2 = b.ch.shutSignal := rfl

theorem Block.besideStates_of_steps (b : Block) : ({ b.besideSteps.1 with
    groups := .replicate 4 0, begun := .replicate 4 false }, b.besideSteps.2) = b.besideStates := rfl

theorem Block.besideStates_of_groups (b : Block) : ({ b.besideGroups.1 with
    device := 0, t := 0, count := 0, rising := false, askClock := false }, b.besideGroups.2.2) = b.besideStates := rfl

theorem sendStep_besideSteps (t : Nat) (b : Block) : (sendStep t b).besideSteps = b.besideSteps := by
  rw [Block.besideSteps, sendStep_thm, sendStep_shutSignal]
  rfl

theorem stepUp_besideSteps (b : Block) : (stepUp b).besideSteps = b.besideSteps := by
  unfold stepUp
  extract_lets c
  split
  · exact (sendStep_besideSteps ..).trans rfl
  · rfl

theorem stepDown_besideSteps (b : Block) : (stepDown b).besideSteps = b.besideSteps := by
  unfold stepDown
  extract_lets c
  split
  · exact (sendStep_besideSteps ..).trans rfl
  · rfl

theorem stepUp_device (b : Block) : (stepUp b).beryl.thm.device = b.beryl.thm.device := by
  unfold stepUp
  extract_lets c
  split
  · rw [sendStep_thm]
    rfl
  · rfl

theorem stepDown_device (b : Block) : (stepDown b).beryl.thm.device = b.beryl.thm.device := by
  unfold stepDown
  extract_lets c
  split
  · rw [sendStep_thm]
    rfl
  · rfl

/-- The block with its device state formed anew. -/
def deviceFormed (b : Block) : Block := modThm (fun t => { t with device := deviceState b }) b

theorem settleDevice_cases (b : Block) : settleDevice b = stepUp (deviceFormed b) ∨ settleDevice b = stepDown (deviceFormed b) ∨
    settleDevice b = deviceFormed b := by
  unfold settleDevice
  extract_lets old new formed
  split
  · exact .inl rfl
  · split
    · exact .inr (.inl rfl)
    · exact .inr (.inr rfl)

theorem settleDevice_device (b : Block) : (settleDevice b).beryl.thm.device = deviceState b := by
  rcases settleDevice_cases b with h | h | h <;> rw [h]
  · exact stepUp_device _
  · exact stepDown_device _
  · rfl

theorem settleDevice_besideSteps (b : Block) : (settleDevice b).besideSteps = b.besideSteps := by
  rcases settleDevice_cases b with h | h | h <;> rw [h]
  · exact (stepUp_besideSteps _).trans rfl
  · exact (stepDown_besideSteps _).trans rfl
  · rfl

section
variable {b : Block}

/-- The device state enters THROTTLE or SHUTDOWN from a lower state. -/
theorem settleDevice_enters (h : b.beryl.thm.device < deviceState b) (h2 : 2 ≤ deviceState b) :
    settleDevice b = stepUp (deviceFormed b) := if_pos (by rw [decide_eq_true h, decide_eq_true h2]; rfl)

theorem settleDevice_leaves (h : 2 ≤ b.beryl.thm.device) (h2 : deviceState b < 2) :
    settleDevice b = stepDown (deviceFormed b) :=
  (if_neg (by rw [Bool.and_eq_true, decide_eq_true_iff, decide_eq_true_iff]; omega)).trans
    (if_pos (by rw [decide_eq_true h, decide_eq_true h2]; rfl))

theorem settleDevice_stays (h : deviceState b ≤ b.beryl.thm.device ∨ deviceState b < 2)
    (h2 : b.beryl.thm.device < 2 ∨ 2 ≤ deviceState b) : settleDevice b = deviceFormed b :=
  (if_neg (by rw [Bool.and_eq_true, decide_eq_true_iff, decide_eq_true_iff]; omega)).trans
    (if_neg (by rw [Bool.and_eq_true, decide_eq_true_iff, decide_eq_true_iff]; omega))

/-- The step that a device state above the old one sends. -/
theorem settleDevice_steps_up (h : b.beryl.thm.device < deviceState b) (h2 : 2 ≤ deviceState b) (ht : b.beryl.thm.t < 12) :
    (settleDevice b).beryl.thm.t = b.beryl.thm.t + 1 ∧
      (settleDevice b).ch.berylGarnet = b.ch.berylGarnet ++ [b.beryl.thm.t + 1] := by
  obtain ⟨thm, sent⟩ := stepUp_sends (b := deviceFormed b) ht
  rw [settleDevice_enters h h2, thm, sent]
  exact ⟨rfl, rfl⟩

theorem settleDevice_steps_down (h : 2 ≤ b.beryl.thm.device) (h2 : deviceState b < 2) (ht : 0 < b.beryl.thm.t) :
    (settleDevice b).beryl.thm.t = b.beryl.thm.t - 1 ∧
      (settleDevice b).ch.berylGarnet = b.ch.berylGarnet ++ [b.beryl.thm.t - 1] := by
  obtain ⟨thm, sent⟩ := stepDown_sends (b := deviceFormed b) ht
  rw [settleDevice_leaves h h2, thm, sent]
  exact ⟨rfl, rfl⟩

end

/-! ### The Shutdown comparison (15 R411) -/

/-- The group takes part in the comparison, and its reading stands at its Shutdown level. -/
def isHot (b : Block) (g : Nat) : Bool :=
  groupOn b g && (vget b.beryl.thm.begun g false || b.topaz.absent) && !vget b.beryl.thm.hold g false &&
    (g < 2 || !vget b.beryl.thm.fault (g - 2) false) && (g < 2 || remoteInRange (vget b.beryl.thm.readings g 0)) &&
      thermalLevel b g 2 ≤ vget b.beryl.thm.readings g 0

/-- The signal for a group, with its reading. -/
def sendSignal (g : Nat) (b : Block) : Block :=
  (modThm (fun t => { t with signalled := true }) b).modCh (fun c => { c with
    shutSignal := c.shutSignal ++ [(g, vget b.beryl.thm.readings g 0)] })

theorem compareShutdown_eq (b : Block) : compareShutdown b =
    ((List.range 4).find? (isHot b)).elim b (fun g => if b.beryl.thm.signalled then b else sendSignal g b) := by
  have cases_ (o : Option Nat) : (match o with
      | some g => if b.beryl.thm.signalled then b else sendSignal g b
      | none => b) = o.elim b (fun g => if b.beryl.thm.signalled then b else sendSignal g b) := by cases o <;> rfl
  exact cases_ ((List.range 4).find? (isHot b))

/-- The Shutdown comparison changes nothing of THM but that it has signalled, and sends Garnet nothing. -/
theorem compareShutdown_keeps (b : Block) :
    (compareShutdown b).beryl.thm = { b.beryl.thm with signalled := (compareShutdown b).beryl.thm.signalled } ∧
      (compareShutdown b).ch.berylGarnet = b.ch.berylGarnet := by
  rw [compareShutdown_eq]
  cases (List.range 4).find? (isHot b) with
  | none => exact ⟨rfl, rfl⟩
  | some g =>
    rw [Option.elim_some]
    split <;> exact ⟨rfl, rfl⟩

/-- Group 0 at its level is the first of the groups that the comparison looks at. -/
theorem compareShutdown_group_0 {b : Block} (hs : b.beryl.thm.signalled = false) (hb : vget b.beryl.thm.begun 0 false = true)
    (hh : vget b.beryl.thm.hold 0 false = false) (hl : thermalLevel b 0 2 ≤ vget b.beryl.thm.readings 0 0) :
    compareShutdown b = sendSignal 0 b := by
  have hot : isHot b 0 = true := by
    rw [isHot, hb, hh, decide_eq_true hl]
    rfl
  rw [compareShutdown_eq, show (List.range 4).find? (isHot b) = some 0 from List.find?_cons_of_pos hot, Option.elim_some, hs]
  rfl

/-! ### A reading (15 R404 to R411) -/

/-- The block after a reading, before the Shutdown comparison. -/
def readingActs (ra rb : Int) (b : Block) : Block :=
  if firmware b then updateStates b.beryl.thm.fault (tracked ra rb b) else tracked ra rb b

theorem thermalReading_acts {b : Block} (ho : b.topaz.berylOut = true) (ra rb : Int) :
    thermalReading ra rb b = compareShutdown (readingActs ra rb b) := by
  rw [readingActs, ← tracked_firmware ra rb b]
  exact if_neg (by rw [thmRuns, ho]; decide)

section
variable (was : Vector Bool 2) (b : Block)

theorem updateStates_besideSteps : (updateStates was b).besideSteps = (groupsSet was b).besideSteps := by
  rw [updateStates_eq, settleDevice_besideSteps]

theorem updateStates_group (g : Nat) : (updateStates was b).beryl.thm.group g = (groupsSet was b).beryl.thm.group g := by
  rw [← Block.besideSteps_group, updateStates_besideSteps, Block.besideSteps_group]

/-- What the firmware leaves of THM, and the signals sent to Topaz. -/
theorem updateStates_besideStates : (updateStates was b).besideStates = b.besideStates := by
  rw [← Block.besideStates_of_steps, updateStates_besideSteps, Block.besideStates_of_steps, ← Block.besideStates_of_groups,
    groupsSet_besideGroups, Block.besideStates_of_groups]

theorem updateStates_device : (updateStates was b).beryl.thm.device = ((List.range 4).map (fun g =>
    if groupOn b g = true then vget (updateStates was b).beryl.thm.groups g 0 else 0)).foldl max 0 := by
  have groups (g : Nat) : vget (updateStates was b).beryl.thm.groups g 0 = vget (groupsSet was b).beryl.thm.groups g 0 :=
    (Prod.mk.inj (updateStates_group was b g)).1
  simp only [groups, ← groupOn_congr (groupsSet_regs was b)]
  rw [updateStates_eq, settleDevice_device, deviceState]

end

section
variable (ra rb : Int) (b : Block)

theorem readingActs_besideStates : (readingActs ra rb b).besideStates = (tracked ra rb b).besideStates := by
  unfold readingActs
  split
  · exact updateStates_besideStates ..
  · rfl

theorem readingActs_readings : (readingActs ra rb b).beryl.thm.readings = groupReadings ra rb b := by
  rw [← Block.besideStates_readings, readingActs_besideStates, Block.besideStates_readings, tracked_readings]

theorem readingActs_signalled : (readingActs ra rb b).beryl.thm.signalled = b.beryl.thm.signalled := by
  rw [← Block.besideStates_signalled, readingActs_besideStates, Block.besideStates_signalled, tracked_signalled]

theorem readingActs_shutSignal : (readingActs ra rb b).ch.shutSignal = b.ch.shutSignal := by
  rw [← Block.besideStates_shutSignal, readingActs_besideStates, Block.besideStates_shutSignal, tracked_ch]

theorem readingActs_hold : (readingActs ra rb b).beryl.thm.hold = (tracked ra rb b).beryl.thm.hold := by
  rw [← Block.besideStates_hold, readingActs_besideStates, Block.besideStates_hold]

theorem readingActs_input (k : Nat) : (readingActs ra rb b).beryl.thm.input k = (tracked ra rb b).beryl.thm.input k := by
  rw [← Block.besideStates_input, readingActs_besideStates, Block.besideStates_input]

theorem readingActs_regs : (readingActs ra rb b).regs = b.regs := by
  unfold readingActs
  split
  · exact ((updateStates_frame (ps := [.thm, .evr, .ch, .trace]) (by decide) (onlyChanges_refl _ _)).at_ .regs (by decide)).trans
      (tracked_regs ..)
  · exact tracked_regs ..

end

theorem readingActs_begun {b : Block} (h : vget b.beryl.thm.begun 0 false = true) (ra rb : Int) :
    vget (readingActs ra rb b).beryl.thm.begun 0 false = true := by
  unfold readingActs
  split
  · exact (Prod.mk.inj ((updateStates_group ..).trans (groupsSet_group_0 ..))).2
  · exact (Prod.mk.inj (tracked_group_die (by decide) ra rb b)).2.trans h

/-- The block of a reading with the states of its groups set, before the device state. -/
def groupsFormed (ra rb : Int) (b : Block) : Block := groupsSet b.beryl.thm.fault (tracked ra rb b)

section
variable {b : Block} (hf : firmware b = true) (ra rb : Int)
include hf

theorem readingActs_settles : readingActs ra rb b = settleDevice (groupsFormed ra rb b) := if_pos hf

theorem readingActs_group (g : Nat) :
    (readingActs ra rb b).beryl.thm.group g = (groupsFormed ra rb b).beryl.thm.group g := by
  rw [readingActs, if_pos hf, updateStates_group]
  rfl

theorem readingActs_device : (readingActs ra rb b).beryl.thm.device = ((List.range 4).map (fun g =>
    if groupOn b g = true then vget (readingActs ra rb b).beryl.thm.groups g 0 else 0)).foldl max 0 := by
  rw [readingActs, if_pos hf]
  simp only [← groupOn_congr (tracked_regs ra rb b)]
  exact updateStates_device ..

end

section
variable (ra rb : Int) (b : Block)

theorem groupsFormed_device : (groupsFormed ra rb b).beryl.thm.device = b.beryl.thm.device := by
  rw [groupsFormed, ← Block.besideGroups_device, groupsSet_besideGroups, Block.besideGroups_device, tracked_device]

theorem groupsFormed_t : (groupsFormed ra rb b).beryl.thm.t = b.beryl.thm.t := by
  rw [groupsFormed, ← Block.besideGroups_t, groupsSet_besideGroups, Block.besideGroups_t, tracked_t]

theorem groupsFormed_berylGarnet : (groupsFormed ra rb b).ch.berylGarnet = b.ch.berylGarnet := by
  rw [groupsFormed, ← Block.besideGroups_berylGarnet, groupsSet_besideGroups, Block.besideGroups_berylGarnet, tracked_ch]

theorem groupsFormed_group_0 :
    (groupsFormed ra rb b).beryl.thm.group 0 = (stateAfter b 0 (maxSample b.beryl.thm 0 48), true) := by
  rw [groupsFormed, groupsSet_group_0, tracked_readings,
    stateAfter_congr (tracked_regs ra rb b) (tracked_group_die (by decide) ..)]
  rfl

theorem groupsFormed_group_1 :
    (groupsFormed ra rb b).beryl.thm.group 1 = (stateAfter b 1 (maxSample b.beryl.thm 48 56), true) := by
  rw [groupsFormed, groupsSet_group_1, tracked_readings,
    stateAfter_congr (tracked_regs ra rb b) (tracked_group_die (by decide) ..)]
  rfl

end

section
variable {b : Block} {ra : Int} (hon : remoteOn b 0 = true) (hf : vget b.beryl.thm.fault 0 false = false) (rb : Int)
include hon hf

theorem groupsFormed_group_2_in (lo : -400 ≤ ra) (hi : ra ≤ 1500) :
    (groupsFormed ra rb b).beryl.thm.group 2 = (stateAfter b 2 ra, true) := by
  have fault := (Prod.mk.inj (tracked_input_in hon hf rb lo hi)).1
  have reading : vget (tracked ra rb b).beryl.thm.readings 2 0 = ra := by
    rw [tracked_readings]
    exact if_pos hon
  rw [groupsFormed, groupsSet_group_2_in (by rw [remoteOn_congr (tracked_regs ..), hon]) fault
    (by rw [reading, remoteInRange_in lo hi]), reading,
    stateAfter_congr (tracked_regs ..) (tracked_group (.inr hon) (by decide) ra rb)]

theorem groupsFormed_group_2_out (hr : ra < -400 ∨ 1500 < ra) (h2 : vget b.beryl.thm.badRun 0 0 = 2) :
    (groupsFormed ra rb b).beryl.thm.group 2 = (1, true) :=
  groupsSet_group_2_fault (by rw [remoteOn_congr (tracked_regs ..), hon]) (Prod.mk.inj (tracked_input_out hon hf rb hr h2)).1 hf

end

section
variable {b : Block} {ra rb : Int} (hf : firmware b = true)
include hf

theorem readingActs_steps_up (h : b.beryl.thm.device < (readingActs ra rb b).beryl.thm.device)
    (h2 : 2 ≤ (readingActs ra rb b).beryl.thm.device) (ht : b.beryl.thm.t < 12) :
    (readingActs ra rb b).beryl.thm.t = b.beryl.thm.t + 1 ∧
      (readingActs ra rb b).ch.berylGarnet = b.ch.berylGarnet ++ [b.beryl.thm.t + 1] := by
  rw [readingActs_settles hf, settleDevice_device] at h h2
  rw [readingActs_settles hf, ← groupsFormed_t ra rb b, ← groupsFormed_berylGarnet ra rb b]
  exact settleDevice_steps_up (by rw [groupsFormed_device]; exact h) h2 (by rw [groupsFormed_t]; exact ht)

theorem readingActs_steps_down (h : 2 ≤ b.beryl.thm.device) (h2 : (readingActs ra rb b).beryl.thm.device < 2)
    (ht : 0 < b.beryl.thm.t) : (readingActs ra rb b).beryl.thm.t = b.beryl.thm.t - 1 ∧
      (readingActs ra rb b).ch.berylGarnet = b.ch.berylGarnet ++ [b.beryl.thm.t - 1] := by
  rw [readingActs_settles hf, settleDevice_device] at h2
  rw [readingActs_settles hf, ← groupsFormed_t ra rb b, ← groupsFormed_berylGarnet ra rb b]
  exact settleDevice_steps_down (by rw [groupsFormed_device]; exact h) h2 (by rw [groupsFormed_t]; exact ht)

theorem readingActs_steps_not
    (h : (readingActs ra rb b).beryl.thm.device ≤ b.beryl.thm.device ∨ (readingActs ra rb b).beryl.thm.device < 2)
    (h2 : b.beryl.thm.device < 2 ∨ 2 ≤ (readingActs ra rb b).beryl.thm.device) :
    (readingActs ra rb b).beryl.thm.t = b.beryl.thm.t ∧ (readingActs ra rb b).ch.berylGarnet = b.ch.berylGarnet := by
  rw [readingActs_settles hf, settleDevice_device, ← groupsFormed_device ra rb b] at h h2
  rw [readingActs_settles hf, settleDevice_stays h h2, ← groupsFormed_t ra rb b, ← groupsFormed_berylGarnet ra rb b]
  exact ⟨rfl, rfl⟩

end

section
variable {b : Block} (ho : b.topaz.berylOut = true) (ra rb : Int)
include ho

theorem thermalReading_thm : (thermalReading ra rb b).beryl.thm =
    { (readingActs ra rb b).beryl.thm with signalled := (thermalReading ra rb b).beryl.thm.signalled } := by
  rw [thermalReading_acts ho]
  exact (compareShutdown_keeps _).1

theorem thermalReading_berylGarnet : (thermalReading ra rb b).ch.berylGarnet = (readingActs ra rb b).ch.berylGarnet := by
  rw [thermalReading_acts ho]
  exact (compareShutdown_keeps _).2

theorem thermalReading_group (g : Nat) :
    (thermalReading ra rb b).beryl.thm.group g = (readingActs ra rb b).beryl.thm.group g := by
  rw [thermalReading_thm ho]
  rfl

theorem thermalReading_input (k : Nat) :
    (thermalReading ra rb b).beryl.thm.input k = (tracked ra rb b).beryl.thm.input k := by
  rw [thermalReading_thm ho, ← readingActs_input]
  rfl

end

/-- Group 0 at its Shutdown level signals Topaz. -/
theorem thermalReading_signals {b : Block} (ho : b.topaz.berylOut = true) (hs : b.beryl.thm.signalled = false)
    (hb : vget b.beryl.thm.begun 0 false = true) (hh : vget b.beryl.thm.hold 0 false = false)
    (hl : thermalLevel b 0 2 ≤ maxSample b.beryl.thm 0 48) (ra rb : Int) :
    thermalReading ra rb b = sendSignal 0 (readingActs ra rb b) := by
  have reading : vget (readingActs ra rb b).beryl.thm.readings 0 0 = maxSample b.beryl.thm 0 48 := by
    rw [readingActs_readings]
    rfl
  rw [thermalReading_acts ho, compareShutdown_group_0]
  · rw [readingActs_signalled, hs]
  · exact readingActs_begun hb ra rb
  · rw [readingActs_hold, tracked_hold hh]
  · rw [reading, thermalLevel_congr (readingActs_regs ra rb b)]
    exact hl

theorem thermalReading_kept (ra rb : Int) (b : Block) :
    onlyChanges [.thm, .evr, .topaz, .ch, .trace] b (thermalReading ra rb b) :=
  thermalReading_frame (by decide) (onlyChanges_refl _ _)

/-! ### Frames that Garnet has bound (15 R408, R410) -/

/-- Jade's clock is asked for with the first Frame bound at a new t. -/
def askForClock (frame t : Nat) (b : Block) : Block :=
  if b.beryl.thm.askClock && t == b.beryl.thm.t then
    (modThm (fun x => { x with askClock := false }) b).modCh (fun c => { c with
      berylJade := c.berylJade ++ [if meetsR31 frame b then frame + 1 else 0] })
  else b

/-- A Frame more at the current t. -/
def countOne (b : Block) : Block := modThm (fun x => { x with count := x.count + 1 }) b

/-- A Frame bound at `t` counts toward the next step. -/
def countFrame (t : Nat) (b : Block) : Block :=
  if 2 ≤ b.beryl.thm.device then
    match b.garnet.applied with
    | some p =>
      if t == b.beryl.thm.t && p.nMin < p.n / 2 ^ t then (if 63 ≤ b.beryl.thm.count then stepUp b else countOne b) else b
    | none => b
  else if 0 < b.beryl.thm.t then (if 63 ≤ b.beryl.thm.count then stepDown b else countOne b)
  else b

/-- The record of the Frame is taken from its channel. -/
def takeRecord (l : List (Nat × Nat)) (b : Block) : Block := b.modCh (fun c => { c with garnetBeryl := l })

theorem frameBoundRecord_acts {b : Block} {frame t : Nat} {l : List (Nat × Nat)} (h : b.ch.garnetBeryl = (frame, t) :: l) :
    frameBoundRecord b = countFrame t (askForClock frame t (takeRecord l b)) := by
  unfold frameBoundRecord
  rw [h]
  rfl

theorem meetsR31_takeRecord (frame : Nat) (l : List (Nat × Nat)) (b : Block) :
    meetsR31 frame (takeRecord l b) = meetsR31 frame b := rfl

theorem askForClock_asks {frame t : Nat} {b : Block} (ha : b.beryl.thm.askClock = true) (ht : t = b.beryl.thm.t) :
    askForClock frame t b = (modThm (fun x => { x with askClock := false }) b).modCh (fun c => { c with
      berylJade := c.berylJade ++ [if meetsR31 frame b then frame + 1 else 0] }) :=
  if_pos (by rw [ha, ht, beq_self_eq_true]; rfl)

theorem askForClock_asks_not {frame t : Nat} {b : Block} (ha : b.beryl.thm.askClock = false) : askForClock frame t b = b :=
  if_neg (by rw [ha, Bool.false_and]; decide)

section
variable {t : Nat} {b : Block}

/-- Before the 64th Frame at the current t nothing but the count may change. -/
theorem countFrame_early (hn : b.beryl.thm.count < 63) : countFrame t b = b ∨ countFrame t b = countOne b := by
  have early : ¬63 ≤ b.beryl.thm.count := by omega
  unfold countFrame
  rw [if_neg early, if_neg early]
  split
  · split
    · split
      · exact .inr rfl
      · exact .inl rfl
    · exact .inl rfl
  · split
    · exact .inr rfl
    · exact .inl rfl

theorem countFrame_below (hd : b.beryl.thm.device < 2) (ht : 0 < b.beryl.thm.t) :
    countFrame t b = if 63 ≤ b.beryl.thm.count then stepDown b else countOne b := (if_neg (by omega)).trans (if_pos ht)

theorem countFrame_throttled {p : FrameProgram} (hd : 2 ≤ b.beryl.thm.device) (hp : b.garnet.applied = some p)
    (ht : t = b.beryl.thm.t) (hn : p.nMin < p.n / 2 ^ t) :
    countFrame t b = if 63 ≤ b.beryl.thm.count then stepUp b else countOne b := by
  have counts : (t == b.beryl.thm.t && decide (p.nMin < p.n / 2 ^ t)) = true := by
    rw [decide_eq_true hn, ht, beq_self_eq_true]
    rfl
  rw [countFrame, if_pos hd, hp]
  exact if_pos counts

end

section
variable {b : Block} {frame k : Nat} {l : List (Nat × Nat)}

/-- The first Frame at a new t asks for Jade's clock, whatever it counts toward. -/
theorem frameBoundRecord_asks (hl : b.ch.garnetBeryl = (frame, b.beryl.thm.t) :: l) (ha : b.beryl.thm.askClock = true)
    (hn : b.beryl.thm.count < 63) : (frameBoundRecord b).ch.garnetBeryl = l ∧
      (frameBoundRecord b).ch.berylJade = b.ch.berylJade ++ [if meetsR31 frame b = true then frame + 1 else 0] ∧
      (frameBoundRecord b).beryl.thm.askClock = false := by
  have asks := askForClock_asks (frame := frame) (b := takeRecord l b) ha rfl
  rw [meetsR31_takeRecord] at asks
  rw [frameBoundRecord_acts hl, show askForClock frame b.beryl.thm.t (takeRecord l b) = _ from asks]
  rcases countFrame_early (t := b.beryl.thm.t) (b := (modThm (fun x => { x with askClock := false }) (takeRecord l b)).modCh
    (fun c => { c with berylJade := c.berylJade ++ [if meetsR31 frame b = true then frame + 1 else 0] })) hn with h | h <;>
    rw [h] <;> exact ⟨rfl, rfl, rfl⟩

variable (hl : b.ch.garnetBeryl = (frame, k) :: l) (ha : b.beryl.thm.askClock = false)
include hl ha

theorem frameBoundRecord_unasked : frameBoundRecord b = countFrame k (takeRecord l b) := by
  rw [frameBoundRecord_acts hl, askForClock_asks_not (b := takeRecord l b) ha]

theorem frameBoundRecord_below (hd : b.beryl.thm.device < 2) (ht : 0 < b.beryl.thm.t) : frameBoundRecord b =
    if 63 ≤ b.beryl.thm.count then stepDown (takeRecord l b) else countOne (takeRecord l b) :=
  (frameBoundRecord_unasked hl ha).trans (countFrame_below (b := takeRecord l b) hd ht)

theorem frameBoundRecord_throttled {p : FrameProgram} (hd : 2 ≤ b.beryl.thm.device) (hp : b.garnet.applied = some p)
    (ht : k = b.beryl.thm.t) (hn : p.nMin < p.n / 2 ^ k) : frameBoundRecord b =
      if 63 ≤ b.beryl.thm.count then stepUp (takeRecord l b) else countOne (takeRecord l b) :=
  (frameBoundRecord_unasked hl ha).trans (countFrame_throttled (b := takeRecord l b) hd hp ht hn)

end

theorem frameBoundRecord_kept (b : Block) : onlyChanges [.jade, .thm, .ch, .trace] b (frameBoundRecord b) :=
  frameBoundRecord_frame (by decide) (onlyChanges_refl _ _)

theorem whileFirmware_of_not {f : Block → Block} {b : Block} (h : firmware b = false) : whileFirmware f b = b := by
  rw [whileFirmware, h, if_neg (by decide)]

end Sys2Proof.Machine

section
open Sys2Proof Sys2Proof.Machine

/-- Settles O51: a reading is tracked by hardware, then set the groups' states and the device state by the firmware, then
compared; a Frame bound at t asks for the clock and counts. -/
theorem thermalStatesFollowReadings : Obligations.ThermalStatesFollowReadings := by
  refine ⟨?samples, ?readings, ?states, ?remoteIn, ?remoteOut, ?shutdown, ?asks, ?counts, ?down, ?up, ?sampleTotal, ?readingTotal,
    ?frameTotal, ?frameIdle⟩
  case samples =>
    exact fun q b l ho hl => ⟨_, rfl, rfl, fun k hk => sensorSample_samples ho hl hk,
      sensorSample_frame (by decide) (onlyChanges_refl _ _)⟩
  case readings =>
    intro q b ra rb ho
    refine ⟨_, rfl, rfl, ?_, thermalReading_kept ..⟩
    dsimp only
    rw [thermalReading_thm ho]
    exact readingActs_readings ra rb b
  case states =>
    intro q b ra rb ho hf
    have group (g : Nat) := (thermalReading_group ho ra rb g).trans (readingActs_group hf ra rb g)
    refine ⟨_, rfl, rfl, (Prod.mk.inj ((group 0).trans (groupsFormed_group_0 ..))).1,
      (Prod.mk.inj ((group 1).trans (groupsFormed_group_1 ..))).1, ?_, ?_, ?_, ?_, thermalReading_kept ..⟩ <;>
      dsimp only <;> rw [thermalReading_thm ho]
    · exact readingActs_device hf ra rb
    all_goals rw [thermalReading_berylGarnet ho]
    · exact readingActs_steps_up hf
    · exact readingActs_steps_down hf
    · exact readingActs_steps_not hf
  case remoteIn =>
    intro q b ra rb ho hf hon lo hi hr
    have group := (thermalReading_group ho ra rb 2).trans (readingActs_group hf ra rb 2)
    have input := (thermalReading_input ho ra rb 0).trans (tracked_input_in hon hr rb lo hi)
    exact ⟨_, rfl, rfl, (Prod.mk.inj (group.trans (groupsFormed_group_2_in hon hr rb lo hi))).1, (Prod.mk.inj input).2,
      thermalReading_kept ..⟩
  case remoteOut =>
    intro q b ra rb ho hf hon hout hr h2
    have group := (thermalReading_group ho ra rb 2).trans (readingActs_group hf ra rb 2)
    have input := (thermalReading_input ho ra rb 0).trans (tracked_input_out hon hr rb hout h2)
    exact ⟨_, rfl, rfl, (Prod.mk.inj input).1, (Prod.mk.inj (group.trans (groupsFormed_group_2_out hon hr rb hout h2))).1,
      thermalReading_kept ..⟩
  case shutdown =>
    intro q b ra rb ho hs hb hh hl
    have signals := thermalReading_signals ho hs hb hh hl ra rb
    refine completes_of_eq rfl signals ⟨?_, rfl, signals ▸ thermalReading_kept ra rb b⟩
    show (readingActs ra rb b).ch.shutSignal ++ [(0, vget (readingActs ra rb b).beryl.thm.readings 0 0)] = _
    rw [readingActs_shutSignal, readingActs_readings]
    rfl
  case asks =>
    intro q b frame l hf hl ha hn
    obtain ⟨taken, asked, answered⟩ := frameBoundRecord_asks hl ha hn
    exact ⟨_, act_of_eq (whileFirmware_of hf), rfl, taken, asked, answered, frameBoundRecord_kept b⟩
  case counts =>
    intro q b frame k l hf hl ha hd ht hn
    have counts := (frameBoundRecord_below hl ha hd ht).trans (if_neg (by omega))
    exact completes_of_eq rfl ((whileFirmware_of hf).trans counts) ⟨rfl, rfl, counts ▸ frameBoundRecord_kept b⟩
  case down =>
    intro q b frame k l hf hl ha hd ht hn
    have falls := (frameBoundRecord_below hl ha hd ht).trans (if_pos hn)
    obtain ⟨thm, sent⟩ := stepDown_sends (b := takeRecord l b) ht
    exact completes_of_eq rfl ((whileFirmware_of hf).trans falls) ⟨congrArg Thermal.t thm, congrArg Thermal.count thm,
      congrArg Thermal.rising thm, sent, falls ▸ frameBoundRecord_kept b⟩
  case up =>
    intro q b frame p l hf hl ha hd hp hn hc ht
    have rises := (frameBoundRecord_throttled hl ha hd hp rfl hn).trans (if_pos hc)
    obtain ⟨thm, sent⟩ := stepUp_sends (b := takeRecord l b) ht
    exact completes_of_eq rfl ((whileFirmware_of hf).trans rises) ⟨congrArg Thermal.t thm, congrArg Thermal.count thm, sent,
      rises ▸ frameBoundRecord_kept b⟩
  case sampleTotal => exact fun q b l => ⟨rfl, sensorSample_frame (by decide) (onlyChanges_refl _ _)⟩
  case readingTotal => exact fun q b ra rb => ⟨rfl, thermalReading_kept ..⟩
  case frameTotal => exact fun q b hf => ⟨act_of_eq (whileFirmware_of hf), frameBoundRecord_kept b⟩
  case frameIdle => exact fun q b hf => act_of_eq (whileFirmware_of_not hf)

end
end

section
/-! O52: fuse reads, programming runs and their pulses, burns of the Thermal Event Log, fuse load (15 R416 to R418; 16 R421 to
R437). -/

-- The proofs are elaborated one after another: each waiting in a thread of its own takes more memory than the check allows.
set_option Elab.async false

namespace Sys2Proof.Machine

/-! ### Reads (16 R426, R427, R437) -/

/-- What OTP_READ senses for a write `w` of OTP_RADDR: 0 for the key, else the word at the margin chosen. -/
def fuseSensed (w : Nat) (o : Otc) : Half :=
  if 840 ≤ bitsOf w 10 0 && bitsOf w 10 0 ≤ 857 then 0
  else
    match bitsOf w 13 12 with
    | 1 => o.low (bitsOf w 10 0)
    | 2 => o.firm (bitsOf w 10 0)
    | _ => o.word (bitsOf w 10 0)

theorem fuseSensed_eq (w : Nat) (o : Otc) : fuseSensed w o =
    if 840 ≤ bitsOf w 10 0 ∧ bitsOf w 10 0 ≤ 857 then 0
    else if bitsOf w 13 12 = 1 then o.low (bitsOf w 10 0)
    else if bitsOf w 13 12 = 2 then o.firm (bitsOf w 10 0)
    else o.word (bitsOf w 10 0) := by
  unfold fuseSensed
  simp only [Bool.and_eq_true, decide_eq_true_eq]
  congr 1
  split
  · next h => rw [if_pos h]
  · next h => rw [if_neg (by omega), if_pos h]
  · next h1 h2 => rw [if_neg h1, if_neg h2]

theorem otpRead_acts {b : Block} (hb : berylRegs b = true) (w : Nat) : otpRead w b =
    modOtc (fun o => { o with rdata := fuseSensed w b.beryl.otc, ready := true })
      (b.setReg 0x9118 (bitsOf w 13 12 * 4096 + bitsOf w 10 0)) := if_neg (by rw [hb]; decide)

theorem otpRead_reg {b : Block} (hb : berylRegs b = true) (h : mapWf regReset b.regs = true) (w : Nat) :
    (otpRead w b).reg 0x9118 = bitsOf w 13 12 * 4096 + bitsOf w 10 0 := by
  have margin : bitsOf w 13 12 < 4 := bitsOf_lt w 13 12
  have addr : bitsOf w 10 0 < 2048 := bitsOf_lt w 10 0
  rw [otpRead_acts hb]
  exact (Block.setReg_reg h).trans (Nat.mod_eq_of_lt (by omega))

theorem otcUp_of {b : Block} (hp : b.topaz.pwrPin = true) (hl : b.beryl.otc.loaded = true) : otcUp b = true := by
  rw [otcUp, hp, hl]
  rfl

theorem vppMeasure_acts {b : Block} (hp : b.topaz.pwrPin = true) (hl : b.beryl.otc.loaded = true) (mv : Nat) :
    vppMeasure mv b = sawVpp mv b := if_pos (otcUp_of hp hl)

theorem vppOk_in {mv : Nat} (lo : 1710 ≤ mv) (hi : mv ≤ 1890) : vppOk mv = true := by
  rw [vppOk, decide_eq_true lo, decide_eq_true hi]
  rfl

theorem vppOk_out {mv : Nat} (h : mv < 1710 ∨ 1890 < mv) : vppOk mv = false := by
  rw [vppOk, Bool.and_eq_false_iff, decide_eq_false_iff_not, decide_eq_false_iff_not]
  omega

/-! ### A run goes on (16 R433 to R435) -/

section
variable {b : Block} (k : Nat) (mvs : List Nat)

theorem runGo_idle (h : b.beryl.otc.run = none) : runGo k mvs b = b := by
  cases k with
  | zero => rfl
  | succ k => simp only [runGo, h]

/-- The run takes up its next word, which is to keep the bits that it has. -/
def wordTaken (r : OtpRun) (b : Block) : Block :=
  modOtc (fun o => { o with run := some { r with
    want := some (b.beryl.otc.word (r.addr + r.done) ||| r.data.getD r.done 0), pulses := 0 } }) b

/-- A word of the run reads as wanted. -/
def wordDone (r : OtpRun) (b : Block) : Block :=
  modOtc (fun o => { o with wordsDone := r.done + 1, run := some { r with done := r.done + 1, want := none } }) b

/-- A pulse of the bits that are wanted and not yet firm. -/
def pulseGiven (r : OtpRun) (want : Half) (mv : Nat) (b : Block) : Block :=
  modOtc (fun o => { o with pulse := some (r.addr + r.done, want &&& ~~~(b.beryl.otc.firm (r.addr + r.done))) })
    (modOtc (fun o => { o with run := some { r with pulses := r.pulses + 1 } }) (sawVpp mv b))

variable {r : OtpRun} (hr : b.beryl.otc.run = some r)
include hr

theorem runGo_ends (hw : r.want = none) (hd : r.data.length ≤ r.done) : runGo (k + 1) mvs b = endRun 0 b := by
  simp only [runGo, hr, hw, if_pos hd]

theorem runGo_takes (hw : r.want = none) (hd : r.done < r.data.length) (ha : b.berylAbsent = false)
    (hb : b.beryl.otc.burn = none) (ht : b.ch.telBurn = []) : runGo (k + 1) mvs b = runGo k mvs (wordTaken r b) := by
  simp only [runGo, hr, hw, if_neg (Nat.not_le_of_lt hd), ha, hb, ht]
  rfl

variable {want : Half} (hw : r.want = some want)
include hw

theorem runGo_verified (hp : 0 < r.pulses) (hv : wordVerified b.beryl.otc (r.addr + r.done) want = true) :
    runGo (k + 1) mvs b = runGo k mvs (wordDone r b) := by
  simp only [runGo, hr, hw, hv, decide_eq_true hp]
  rfl

theorem runGo_fails (hp : 8 ≤ r.pulses) (hv : wordVerified b.beryl.otc (r.addr + r.done) want = false) :
    runGo (k + 1) mvs b = endRun 4 b := by
  simp only [runGo, hr, hw, hv, if_pos hp, Bool.and_false]
  rfl

/-- The first pulse of a word. -/
theorem runGo_pulses (hp : r.pulses = 0) (hv : vppOk (mvs.headD 0) = true)
    (hb : want &&& ~~~(b.beryl.otc.firm (r.addr + r.done)) ≠ 0) :
    runGo (k + 1) mvs b = pulseGiven r want (mvs.headD 0) b := by
  simp only [runGo, hr, hw, hp, hv, if_neg hb, pulseGiven]
  rfl

end

/-! ### The words and their margins -/

/-- The fuses, and which of them read 1 at one margin alone. -/
def Otc.cells (o : Otc) : List (Nat × Half) × List (Nat × Half) × List (Nat × Half) := (o.fuses, o.weak, o.soft)

/-- A run burns nothing by itself: its pulses end with OTP_PULSE_DONE. -/
theorem runGo_cells (k : Nat) (mvs : List Nat) (b : Block) : (runGo k mvs b).beryl.otc.cells = b.beryl.otc.cells := by
  induction k generalizing mvs b with
  | zero => rfl
  | succ k ih =>
    unfold runGo
    extract_lets o
    split
    · rfl
    · extract_lets a
      split
      · split
        · rfl
        · split
          · rfl
          · exact (ih ..).trans rfl
      · split
        · exact (ih ..).trans rfl
        · split
          · rfl
          · split
            · rfl
            · extract_lets bits
              split
              · exact (ih ..).trans rfl
              · rfl

theorem resumeRun_cells (mvs : List Nat) (b : Block) : (resumeRun mvs b).beryl.otc.cells = b.beryl.otc.cells := by
  unfold resumeRun
  split
  · rfl
  · exact runGo_cells ..

theorem burnPulsed_cells (t : TelBurn) (mvs : List Nat) (b : Block) :
    (burnPulsed t mvs b).beryl.otc.cells = b.beryl.otc.cells := by
  unfold burnPulsed
  extract_lets mv m done a
  split
  · exact (resumeRun_cells ..).trans rfl
  · split
    · exact (resumeRun_cells ..).trans rfl
    · split
      · exact (resumeRun_cells ..).trans rfl
      · rfl

/-- The cells once a pulse of `bits` of word `a` has ended. -/
def pulseEnded (fired firm soft bits : Half) (a : Nat) (b : Block) : Block :=
  modOtc (fun o =>
    let on := o.word a ||| (bits &&& fired)
    let weak := (mapGet 0 o.weak a ||| (bits &&& fired)) &&& ~~~(bits &&& firm)
    { o with pulse := none, fuses := mapSet 0 o.fuses a on, weak := mapSet 0 o.weak a (weak &&& on)
             soft := mapSet 0 o.soft a (mapGet 0 o.soft a ||| soft) }) b

section
variable {b : Block} {a : Nat} {bits : Half} (hp : b.beryl.otc.pulse = some (a, bits)) (fired firm soft : Half) (mv : Nat)
  (more : List Nat)
include hp

theorem otpPulseDone_run (hb : b.beryl.otc.burn = none) :
    otpPulseDone fired firm mv soft more b = runGo 96 (mv :: more) (pulseEnded fired firm soft bits a b) := by
  have still : (pulseEnded fired firm soft bits a b).beryl.otc.burn = none := hb
  simp only [otpPulseDone, hp]
  exact still ▸ rfl

theorem otpPulseDone_cells : (otpPulseDone fired firm mv soft more b).beryl.otc.cells =
    (pulseEnded fired firm soft bits a b).beryl.otc.cells := by
  simp only [otpPulseDone, hp]
  split
  · exact burnPulsed_cells ..
  · exact runGo_cells ..

end

theorem Otc.word_congr {o p : Otc} (h : o.cells = p.cells) (a : Nat) : o.word a = p.word a := by
  rw [Otc.word, Otc.word, (Prod.mk.inj h).1]

theorem Otc.firm_congr {o p : Otc} (h : o.cells = p.cells) (a : Nat) : o.firm a = p.firm a := by
  rw [Otc.firm, Otc.firm, Otc.word_congr h, (Prod.mk.inj (Prod.mk.inj h).2).1]

section
variable {b : Block} (hf : mapWf (fun _ => (0 : Half)) b.beryl.otc.fuses = true) (fired firm soft bits : Half) (a : Nat)

theorem pulseEnded_word_ne {x : Nat} (h : x ≠ a) :
    (pulseEnded fired firm soft bits a b).beryl.otc.word x = b.beryl.otc.word x := mapGet_mapSet_ne h

include hf

theorem pulseEnded_word :
    (pulseEnded fired firm soft bits a b).beryl.otc.word a = b.beryl.otc.word a ||| (bits &&& fired) :=
  mapGet_mapSet (f := fun _ => (0 : Half)) hf

variable (hw : mapWf (fun _ => (0 : Half)) b.beryl.otc.weak = true)
include hw

/-- Of the bits pulsed, those that fired and are firm read 1 at the high margin. -/
theorem pulseEnded_firm : (pulseEnded fired firm soft bits a b).beryl.otc.firm a =
    (b.beryl.otc.word a ||| (bits &&& fired)) &&&
      ~~~(((mapGet 0 b.beryl.otc.weak a ||| (bits &&& fired)) &&& ~~~(bits &&& firm)) &&&
        (b.beryl.otc.word a ||| (bits &&& fired))) := by
  rw [Otc.firm, pulseEnded_word hf]
  exact congrArg (fun x => _ &&& ~~~x) (mapGet_mapSet (f := fun _ => (0 : Half)) hw)

end

theorem reads_of_fired_firm (word weak bits fired firm : Half) :
    bits &&& fired &&& firm &&& ((word ||| (bits &&& fired)) &&&
      ~~~(((weak ||| (bits &&& fired)) &&& ~~~(bits &&& firm)) &&& (word ||| (bits &&& fired)))) = bits &&& fired &&& firm := by
  have bit : ∀ v k p f m : Bool,
      (p && f && m && ((v || p && f) && !((k || p && f) && !(p && m) && (v || p && f)))) = (p && f && m) := by decide
  ext i hi
  simp only [BitVec.getElem_and, BitVec.getElem_or, BitVec.getElem_not]
  exact bit ..

theorem pulseEnded_firm_fired {b : Block} (hf : mapWf (fun _ => (0 : Half)) b.beryl.otc.fuses = true)
    (hw : mapWf (fun _ => (0 : Half)) b.beryl.otc.weak = true) (fired firm soft bits : Half) (a : Nat) :
    bits &&& fired &&& firm &&& (pulseEnded fired firm soft bits a b).beryl.otc.firm a = bits &&& fired &&& firm := by
  rw [pulseEnded_firm hf _ _ _ _ _ hw]
  exact reads_of_fired_firm ..

/-- A pulse of which every bit fires firm, on a word whose other bits are firm, leaves the word verified. -/
theorem pulseEnded_verified {b : Block} {a : Nat} {bits want : Half} (hf : mapWf (fun _ => (0 : Half)) b.beryl.otc.fuses = true)
    (hw : mapWf (fun _ => (0 : Half)) b.beryl.otc.weak = true) (hs : mapWf (fun _ => (0 : Half)) b.beryl.otc.soft = true)
    (word : b.beryl.otc.word a ||| bits = want) (weak : mapGet 0 b.beryl.otc.weak a = 0)
    (soft : mapGet 0 b.beryl.otc.soft a = 0) :
    wordVerified (pulseEnded 0xFFFF 0xFFFF 0 bits a b).beryl.otc a want = true := by
  have all : bits &&& 0xFFFF = bits := BitVec.and_allOnes
  have nominal : (pulseEnded 0xFFFF 0xFFFF 0 bits a b).beryl.otc.word a = want := by
    rw [pulseEnded_word hf, all, word]
  have leaks : mapGet 0 (pulseEnded 0xFFFF 0xFFFF 0 bits a b).beryl.otc.soft a = 0 :=
    (mapGet_mapSet (f := fun _ => (0 : Half)) hs).trans (by rw [soft]; rfl)
  have firm : (pulseEnded 0xFFFF 0xFFFF 0 bits a b).beryl.otc.firm a = want := by
    have clear : (0 ||| bits) &&& ~~~bits &&& want = 0 := by simp
    rw [pulseEnded_firm hf _ _ _ _ _ hw, all, weak, word, clear]
    exact BitVec.and_allOnes
  rw [wordVerified, Otc.low, leaks, nominal, firm]
  simp

theorem wordVerified_of_word_ne {o : Otc} {a : Nat} {want : Half} (h : o.word a ≠ want) : wordVerified o a want = false := by
  rw [wordVerified, beq_eq_false_iff_ne.mpr h, Bool.and_false, Bool.false_and]

section
variable {b : Block} {a : Nat} {bits want : Half} {r : OtpRun} (hp : b.beryl.otc.pulse = some (a, bits))
  (hb : b.beryl.otc.burn = none) (hr : b.beryl.otc.run = some r) (ha : r.addr + r.done = a) (hw : r.want = some want)
include hp hb hr ha hw

/-- The last word of a run verifies. -/
theorem otpPulseDone_completes {fired firm soft : Half} (hpulses : 0 < r.pulses) (hd : r.data.length = r.done + 1)
    (hv : wordVerified (pulseEnded fired firm soft bits a b).beryl.otc a want = true) (mv : Nat) (more : List Nat) :
    otpPulseDone fired firm mv soft more b = endRun 0 (wordDone r (pulseEnded fired firm soft bits a b)) := by
  subst ha
  rw [otpPulseDone_run hp _ _ _ _ _ hb, runGo_verified (b := pulseEnded ..) 95 _ hr hw hpulses hv]
  exact runGo_ends 94 _ rfl rfl (Nat.le_of_eq hd)

/-- Eight pulses have not verified the word. -/
theorem otpPulseDone_gives_up {fired firm soft : Half} (hpulses : 8 ≤ r.pulses)
    (hv : wordVerified (pulseEnded fired firm soft bits a b).beryl.otc a want = false) (mv : Nat) (more : List Nat) :
    otpPulseDone fired firm mv soft more b = endRun 4 (pulseEnded fired firm soft bits a b) := by
  subst ha
  rw [otpPulseDone_run hp _ _ _ _ _ hb]
  exact runGo_fails 95 _ hr hw hpulses hv

end

/-! ### OTP_PROGRAM (16 R432, R433) -/

/-- The measurements of VPP_OTP that a run takes up: `more`, or the first again where there is no other. -/
def runMvs (mv : Nat) (more : List Nat) : List Nat := if more.isEmpty then [mv] else more

/-- A run that is refused, with its RESULT. -/
def runRefused (res mv : Nat) (b : Block) : Block :=
  modOtc (fun o => { o with result := res, wordsDone := if o.run.isSome then o.wordsDone else 0 }) (sawVpp mv b)

theorem runRefused_kept (res mv : Nat) (b : Block) : onlyChanges [.posts, .onyx, .otc, .out] b (runRefused res mv b) :=
  modOtc_frame (by decide) (sawVpp_frame (by decide) (onlyChanges_refl _ _))

/-- A run that is accepted, before its first word. -/
def runStarts (mv : Nat) (b : Block) : Block :=
  modOtc (fun o => { o with
    result := 0, wordsDone := 0
    run := some { addr := b.field 0x9120 10 0, data := runData b, done := 0, pulses := 0, want := none } }) (sawVpp mv b)

/-- Every word of the run may be programmed. -/
def mayRun (b : Block) : Bool := (runData b).zipIdx.all (fun (v, i) => mayProgram b.beryl.otc (b.field 0x9120 10 0 + i) v)

theorem mayRun_iff (b : Block) : mayRun b = true ↔
    ∀ x ∈ (runData b).zipIdx, mayProgram b.beryl.otc (b.field 0x9120 10 0 + x.2) x.1 = true := List.all_eq_true

theorem otpProgram_unkeyed {w : Word} (h : w.getLsbD 0 = false ∨ bitsOf w.toNat 15 8 ≠ 0xA5) (mv : Nat) (more : List Nat)
    (b : Block) : otpProgram w.toNat mv more b = b := by
  refine if_pos ?_
  rcases h with h | h
  · rw [show bitOf w.toNat 0 = false from h]
    simp
  · rw [bne_iff_ne.mpr h, Bool.or_true]

section
variable {b : Block} {w : Word} (hb : berylRegs b = true) (h0 : w.getLsbD 0 = true) (hk : bitsOf w.toNat 15 8 = 0xA5)
include hb h0 hk

/-- The first row of R433 that fails gives RESULT. -/
theorem otpProgram_acts (mv : Nat) (more : List Nat) : otpProgram w.toNat mv more b =
    if !vppOk mv then runRefused 1 mv b
    else if !mayRun b then runRefused 2 mv b
    else if otcBusy b.beryl.otc then runRefused 3 mv b
    else resumeRun (runMvs mv more) (runStarts mv b) :=
  if_neg (by rw [hb, show bitOf w.toNat 0 = true from h0, hk]; decide)

theorem otpProgram_vpp {mv : Nat} (hv : vppOk mv = false) (more : List Nat) :
    otpProgram w.toNat mv more b = runRefused 1 mv b := by
  rw [otpProgram_acts hb h0 hk, hv]
  rfl

variable {mv : Nat} (hv : vppOk mv = true) (more : List Nat)
include hv

theorem otpProgram_barred (hm : mayRun b = false) : otpProgram w.toNat mv more b = runRefused 2 mv b := by
  rw [otpProgram_acts hb h0 hk, hv, hm]
  rfl

variable (hm : mayRun b = true)
include hm

theorem otpProgram_busy (hy : otcBusy b.beryl.otc = true) : otpProgram w.toNat mv more b = runRefused 3 mv b := by
  rw [otpProgram_acts hb h0 hk, hv, hm, hy]
  rfl

theorem otpProgram_starts (hy : otcBusy b.beryl.otc = false) :
    otpProgram w.toNat mv more b = resumeRun (runMvs mv more) (runStarts mv b) := by
  rw [otpProgram_acts hb h0 hk, hv, hm, hy]
  rfl

end

/-- OTP_PROGRAM itself burns nothing. -/
theorem otpProgram_cells (w mv : Nat) (more : List Nat) (b : Block) :
    (otpProgram w mv more b).beryl.otc.cells = b.beryl.otc.cells := by
  unfold otpProgram
  extract_lets o addr data seen refuse
  split
  · rfl
  · split
    · rfl
    · split
      · rfl
      · split
        · rfl
        · exact (resumeRun_cells ..).trans rfl

theorem runData_length_pos (b : Block) : 0 < (runData b).length := by
  unfold runData
  extract_lets c
  rw [List.length_map, List.length_range]
  split <;> omega

theorem berylRegs_not_absent {b : Block} (h : berylRegs b = true) : b.berylAbsent = false := by
  simp only [berylRegs, firmware, Block.alive, Block.inPower, Bool.and_eq_true, Bool.not_eq_true'] at h
  obtain ⟨-, ⟨⟨⟨-, absent⟩, -⟩, -⟩, -⟩ := h
  exact absent

theorem runMvs_head {mv : Nat} {more : List Nat} (hv : vppOk mv = true) (hm : ∀ x ∈ more.head?, 1710 ≤ x ∧ x ≤ 1890) :
    vppOk ((runMvs mv more).headD 0) = true := by
  cases more with
  | nil => exact hv
  | cons x l =>
    obtain ⟨lo, hi⟩ := hm x rfl
    exact vppOk_in lo hi

theorem resumeRun_of_no_pulse {b : Block} (h : b.beryl.otc.pulse = none) (mvs : List Nat) : resumeRun mvs b = runGo 96 mvs b :=
  if_neg (by rw [h]; decide)

/-- What the first word of a run is to read. -/
abbrev firstWant (b : Block) : Half := b.beryl.otc.word (b.field 0x9120 10 0) ||| (runData b).getD 0 0

/-- The run of `runStarts`, once it has taken up its first word. -/
def firstWord (b : Block) : OtpRun := ⟨b.field 0x9120 10 0, runData b, 0, 0, some (firstWant b)⟩

/-- An accepted run takes up its first word and pulses the bits that do not read 1 yet. -/
theorem runStarts_pulses {b : Block} {mv : Nat} {mvs : List Nat} (hp : b.beryl.otc.pulse = none)
    (hy : otcBusy b.beryl.otc = false) (ha : b.berylAbsent = false) (ht : b.ch.telBurn = [])
    (hv : vppOk (mvs.headD 0) = true) (hb : firstWant b &&& ~~~(b.beryl.otc.firm (b.field 0x9120 10 0)) ≠ 0) :
    resumeRun mvs (runStarts mv b) = pulseGiven (firstWord b) (firstWant b) (mvs.headD 0)
      (wordTaken ⟨b.field 0x9120 10 0, runData b, 0, 0, none⟩ (runStarts mv b)) := by
  have burn : b.beryl.otc.burn = none := by
    rw [otcBusy, Bool.or_eq_false_iff, Bool.or_eq_false_iff] at hy
    obtain ⟨⟨-, burn⟩, -⟩ := hy
    exact Option.isNone_iff_eq_none.mp (Option.isSome_eq_false_iff.mp burn)
  rw [resumeRun_of_no_pulse (b := runStarts mv b) hp,
    runGo_takes (b := runStarts mv b) 95 mvs rfl rfl (runData_length_pos b) ha burn ht]
  exact runGo_pulses (b := wordTaken _ (runStarts mv b)) (r := firstWord b) 94 mvs rfl rfl rfl hv hb

/-! ### Burns of the Thermal Event Log (15 R416 to R418) -/

/-- The entry is taken from the channel of burns. -/
def takeEntry (l : List TelMsg) (b : Block) : Block := b.modCh (fun c => { c with telBurn := l })

/-- The entry is pulsed into slot `s`. -/
def burnStarts (m : TelMsg) (s mv : Nat) (l : List TelMsg) (b : Block) : Block :=
  modOtc (fun o => { o with
    burn := some { entry := m.entry, slot := s, pulses := 1, latched := m.latched }
    pulse := some (896 + s, m.entry) }) (takeEntry l (sawVpp mv b))

/-- Every slot is used: TEL_FULL, and the entry is not kept; one that came from the latch stays there. -/
def telFullSet (m : TelMsg) (l : List TelMsg) (b : Block) : Block :=
  telAnswer m (!m.latched) ((takeEntry l b).modBeryl (fun y => { y with telFull := true }))

section
variable {b : Block} {m : TelMsg} {l : List TelMsg} (ht : b.ch.telBurn = m :: l) (mv : Nat) (more : List Nat)
include ht

theorem telBurnRequest_unpowered (h : b.topaz.pwrPin = false ∨ b.beryl.otc.loaded = false) :
    telBurnRequest mv more b = telAnswer m false (takeEntry l b) := by
  have down : otcUp b = false := by
    rw [otcUp, Bool.and_eq_false_iff]
    exact h
  simp only [telBurnRequest, ht, down]
  rfl

variable (hp : b.topaz.pwrPin = true) (hl : b.beryl.otc.loaded = true) (hb : b.beryl.otc.burn = none)
  (hpulse : b.beryl.otc.pulse = none)
include hp hl hb hpulse

theorem telBurnRequest_full (hr : b.beryl.otc.run = none) (hs : telSlot b.beryl.otc = none) :
    telBurnRequest mv more b = telFullSet m l b := by
  have idle : resumeRun (runMvs mv more) (telFullSet m l b) = telFullSet m l b :=
    (resumeRun_of_no_pulse (b := telFullSet m l b) hpulse _).trans (runGo_idle (b := telFullSet m l b) _ _ hr)
  simp only [telBurnRequest, ht, otcUp_of hp hl, hb, hpulse, hs]
  exact idle

theorem telBurnRequest_burns {s : Nat} (hs : telSlot b.beryl.otc = some s) (hv : vppOk mv = true) :
    telBurnRequest mv more b = burnStarts m s mv l b := by
  simp only [telBurnRequest, ht, otcUp_of hp hl, hb, hpulse, hs, hv]
  rfl

end

/-! ### Fuse load (16 R421 to R423, R428 to R430) -/

/-- What drives FAULT_N low whatever fault code Topaz has. -/
def pinLow (b : Block) : Bool := b.topaz.fatal || b.topaz.berylDead || b.topaz.isl.toList.any (·.dead) || b.failing .opal

theorem faultSignal_eq (b : Block) : faultSignal b =
    if pinLow b then .low else if b.topaz.faultCode != 0 then .code b.topaz.faultCode else .high := rfl

/-- Topaz signals a fault code. -/
def signalCode (code : Nat) (b : Block) : Block := settleFaultPin (b.modTopaz (fun t => { t with faultCode := code }))

theorem signalCode_eq {code : Nat} {b : Block} (hc : code ≠ 0) (h0 : b.topaz.faultCode = 0) : signalCode code b =
    { b with topaz := { b.topaz with faultCode := code, faultPin := if faultSignal b = .low then .low else .code code } } := by
  have pin : faultSignal (b.modTopaz (fun t => { t with faultCode := code })) =
      if faultSignal b = .low then .low else .code code := by
    have low : pinLow (b.modTopaz (fun t => { t with faultCode := code })) = pinLow b := rfl
    rw [faultSignal_eq, faultSignal_eq, low, h0, Block.modTopaz_topaz]
    cases pinLow b
    · exact if_pos (bne_iff_ne.mpr hc)
    · rfl
  rw [signalCode, settleFaultPin, pin]
  rfl

/-- The policy and the identity are delivered, and Spinel has the key. -/
def fusesDelivered (b : Block) : Block :=
  (modOtc (fun _ => loadPolicy b.beryl.otc) b).modSpinel (fun s => { s with
    kek := fuseKek (loadPolicy b.beryl.otc), import_ := (loadPolicy b.beryl.otc).keyImport })

theorem fuseLoad_idle {b : Block} (h : b.topaz.pwrPin = false ∨ b.beryl.otc.loaded = true ∨ b.topaz.faultCode ≠ 0)
    (ref : Bool) : fuseLoad ref b = b := by
  refine if_pos ?_
  rcases h with h | h | h
  · rw [h]; rfl
  · rw [h, Bool.or_true]; rfl
  · rw [bne_iff_ne.mpr h, Bool.or_true]

theorem fuseLoad_acts {b : Block} (hp : b.topaz.pwrPin = true) (hl : b.beryl.otc.loaded = false) (hc : b.topaz.faultCode = 0)
    (ref : Bool) : fuseLoad ref b =
    if !ref then signalCode 3 b
    else if b.beryl.otc.word 0 != 0xC3A5 then signalCode 1 b
    else if !fuseCrcOk b.beryl.otc 0 766 766 then signalCode 2 b
    else fusesDelivered b := if_neg (by rw [hp, hl, hc]; decide)

theorem otpProgram_kept (w mv : Nat) (more : List Nat) (b : Block) :
    onlyChanges [.posts, .onyx, .otc, .out] b (otpProgram w mv more b) := otpProgram_frame (by decide) (onlyChanges_refl _ _)

theorem otpPulseDone_kept (fired firm : Half) (mv : Nat) (soft : Half) (more : List Nat) (b : Block) :
    onlyChanges [.otc, .ch, .trace] b (otpPulseDone fired firm mv soft more b) :=
  otpPulseDone_frame (by decide) (onlyChanges_refl _ _)

theorem telBurnRequest_kept (mv : Nat) (more : List Nat) (b : Block) :
    onlyChanges [.thm, .otc, .evr, .beryl, .ch, .trace] b (telBurnRequest mv more b) :=
  telBurnRequest_frame (by decide) (onlyChanges_refl _ _)

end Sys2Proof.Machine

section
open Sys2Proof Sys2Proof.Machine

/-- Settles O52: reads, refusals and starts are one equation each; a pulse is its change of the cells, then the run goes on. -/
theorem fusesAreLoadedReadAndProgrammed : Obligations.FusesAreLoadedReadAndProgrammed := by
  refine ⟨?read, ?vpp, ?window, ?barred, ?busy, ?starts, ?unkeyed, ?pulse, ?ends, ?givesUp, ?unpowered, ?full, ?burns, ?badRow,
    ?badSignature, ?badCrc, ?loads, ?loadIdle, ?readTotal, ?vppTotal, ?programTotal, ?pulseTotal, ?burnTotal, ?loadTotal⟩
  case read =>
    intro q b w hb h
    have read := otpRead_acts hb w.toNat
    refine ⟨_, rfl, rfl, ?_, otpRead_reg hb h w.toNat, otpRead_frame (by decide) (onlyChanges_refl _ _)⟩
    dsimp only
    rw [read, ← fuseSensed_eq]
    rfl
  case vpp =>
    intro q b mv hp hl
    exact completes_of_eq rfl (vppMeasure_acts hp hl mv) ⟨rfl, sawVpp_frame (by decide) (onlyChanges_refl _ _)⟩
  case window =>
    intro q b w mv more hb h0 hk hv
    exact completes_of_eq rfl (otpProgram_vpp hb h0 hk (vppOk_out hv) more) ⟨rfl, rfl, rfl, rfl, runRefused_kept ..⟩
  case barred =>
    intro q b w mv more hb h0 hk lo hi hm
    have barred : mayRun b = false := by rwa [← mayRun_iff, Bool.not_eq_true] at hm
    exact completes_of_eq rfl (otpProgram_barred hb h0 hk (vppOk_in lo hi) more barred) ⟨rfl, rfl, rfl, runRefused_kept ..⟩
  case busy =>
    intro q b w mv more hb h0 hk lo hi hm hy
    exact completes_of_eq rfl (otpProgram_busy hb h0 hk (vppOk_in lo hi) more ((mayRun_iff b).mpr hm) hy)
      ⟨rfl, rfl, rfl, runRefused_kept ..⟩
  case starts =>
    intro q b w mv more hb h0 hk lo hi hm hy hmore hp ht hbits
    have starts := (otpProgram_starts hb h0 hk (vppOk_in lo hi) more ((mayRun_iff b).mpr hm) hy).trans
      (runStarts_pulses hp hy (berylRegs_not_absent hb) ht (runMvs_head (vppOk_in lo hi) hmore) hbits)
    have fuses := (Prod.mk.inj (otpProgram_cells w.toNat mv more b)).1
    refine ⟨_, rfl, rfl, ?_, ?_, ?_, fuses, otpProgram_kept ..⟩ <;> dsimp only <;> rw [starts] <;> rfl
  case unkeyed => exact fun q b w mv more h => act_of_eq (otpProgram_unkeyed h mv more b)
  case pulse =>
    intro q b fired firm soft bits mv a more hf hw hp
    have cells := otpPulseDone_cells hp fired firm soft mv more
    refine ⟨_, rfl, rfl, ?_, fun x hx => ?_, ?_, otpPulseDone_kept ..⟩
    · exact (Otc.word_congr cells a).trans (pulseEnded_word hf ..)
    · exact (Otc.word_congr cells x).trans (pulseEnded_word_ne _ _ _ _ _ hx)
    · dsimp only
      rw [Otc.firm_congr cells, pulseEnded_firm_fired hf hw]
  case ends =>
    intro q b mv a bits want r more hf hw hs hp hb hr ha hwant hpulses hd word weak soft
    have ends := otpPulseDone_completes hp hb hr ha hwant hpulses hd (pulseEnded_verified hf hw hs word weak soft) mv more
    exact completes_of_eq rfl ends ⟨rfl, rfl, rfl, ends ▸ otpPulseDone_kept ..⟩
  case givesUp =>
    intro q b fired firm soft bits want mv a r more hf _ hp hb hr ha hwant hpulses hne
    have word : (pulseEnded fired firm soft bits a b).beryl.otc.word a ≠ want := by
      rw [pulseEnded_word hf]
      exact hne
    have ends := otpPulseDone_gives_up hp hb hr ha hwant hpulses (wordVerified_of_word_ne word) mv more
    exact completes_of_eq rfl ends ⟨rfl, rfl, rfl, ends ▸ otpPulseDone_kept ..⟩
  case unpowered =>
    intro q b mv more m l ht h
    have acts := telBurnRequest_unpowered ht mv more h
    exact completes_of_eq rfl acts ⟨rfl, rfl, acts ▸ telBurnRequest_kept mv more b⟩
  case full =>
    intro q b mv more m l ht hp hl hb hpulse hr hs
    have acts := telBurnRequest_full ht mv more hp hl hb hpulse hr hs
    exact completes_of_eq rfl acts ⟨rfl, rfl, rfl, rfl, acts ▸ telBurnRequest_kept mv more b⟩
  case burns =>
    intro q b mv s more m l ht hp hl hb hpulse hs lo hi
    have acts := telBurnRequest_burns ht mv more hp hl hb hpulse hs (vppOk_in lo hi)
    exact completes_of_eq rfl acts ⟨rfl, rfl, rfl, acts ▸ telBurnRequest_kept mv more b⟩
  case badRow =>
    exact fun q b hp hl hc => act_of_eq ((fuseLoad_acts hp hl hc false).trans (signalCode_eq (by decide) hc))
  case badSignature =>
    intro q b hp hl hc hw
    have wrong : (b.beryl.otc.word 0 != 0xC3A5) = true := bne_iff_ne.mpr hw
    refine act_of_eq ((fuseLoad_acts hp hl hc true).trans (.trans ?_ (signalCode_eq (by decide) hc)))
    rw [wrong]
    rfl
  case badCrc =>
    intro q b hp hl hc hw hcrc
    refine act_of_eq ((fuseLoad_acts hp hl hc true).trans (.trans ?_ (signalCode_eq (by decide) hc)))
    rw [hw, hcrc]
    rfl
  case loads =>
    intro q b hp hl hc hw hcrc
    refine act_of_eq ((fuseLoad_acts hp hl hc true).trans ?_)
    rw [hw, hcrc]
    rfl
  case loadIdle => exact fun q b ref h => act_of_eq (fuseLoad_idle h ref)
  case readTotal => exact fun q b w => ⟨rfl, otpRead_frame (by decide) (onlyChanges_refl _ _)⟩
  case vppTotal => exact fun q b mv => ⟨rfl, vppMeasure_frame (by decide) (onlyChanges_refl _ _)⟩
  case programTotal => exact fun q b w mv more => ⟨rfl, otpProgram_kept ..⟩
  case pulseTotal => exact fun q b fired firm mv soft more => ⟨rfl, otpPulseDone_kept ..⟩
  case burnTotal => exact fun q b mv more => ⟨rfl, telBurnRequest_kept ..⟩
  case loadTotal => exact fun q b ref => ⟨rfl, fuseLoad_frame (by decide) (onlyChanges_refl _ _)⟩

end
end

section
/-! O4: a fuse changes with OTP_PULSE_DONE alone, and there only from 0 to 1; every other command, resets and power losses
included, leaves the fuses and their margins alone (16 R434, R436). -/

-- The proofs are elaborated one after another: each waiting in a thread of its own takes more memory than the check allows.
set_option Elab.async false

namespace Sys2Proof.Machine

/-! ### Operations that leave the fuses alone -/

/-- The fuses, and which of them read 1 at one margin alone, are in `b` as they are in `a`. -/
def fusesKept (a b : Block) : Prop := b.beryl.otc.cells = a.beryl.otc.cells

/-- The parts of the block beside the fuse controller. -/
abbrev offOtc : List Piece :=
  [.quartz, .disc, .tod, .garnet, .jade, .spinel, .opal, .posts, .onyx, .agate, .thm, .evr, .beryl, .topaz, .dram, .ch,
    .trace, .regs, .out, .fresh]

theorem fusesKept.of_frame {ps : List Piece} {a b : Block} (k : onlyChanges ps a b) (hp : .otc ∉ ps := by decide) :
    fusesKept a b := congrArg Otc.cells (k.at_ .otc hp)

theorem fusesKept.refl (b : Block) : fusesKept b b := rfl

theorem fusesKept.trans {a b c : Block} (h : fusesKept a b) (k : fusesKept b c) : fusesKept a c := Eq.trans k h

section
variable {a b : Block} (h : fusesKept a b)
include h

/-- A change of fields beside the fuses and their margins. -/
theorem fusesKept.beside {c : Block} (hc : c.beryl.otc.cells = b.beryl.otc.cells := by rfl) : fusesKept a c := hc.trans h

/-- The fuses go along an operation whose frame lemma `k` stays within `offOtc`. -/
theorem fusesKept.via {c : Block} (k : onlyChanges offOtc b b → onlyChanges offOtc b c) : fusesKept a c :=
  h.trans (.of_frame (k (onlyChanges_refl _ _)))

theorem fusesKept.ite {p : Prop} [Decidable p] {c : Block} (hc : fusesKept a c) : fusesKept a (if p then b else c) := by
  split <;> assumption

theorem fusesKept.foldl {α : Type} {f : Block → α → Block} {l : List α}
    (hf : ∀ x y, fusesKept a x → fusesKept a (f x y)) : fusesKept a (l.foldl f b) := by
  induction l generalizing b with
  | nil => exact h
  | cons y l ih => exact ih (hf b y h)

theorem live_fuses {f : Block → Block} (hf : fusesKept a (f b)) : fusesKept a (live f b) := h.ite hf

theorem served_fuses {i : Island} {fail f : Block → Block} (hg : fusesKept a (fail b)) (hf : fusesKept a (f b)) :
    fusesKept a (served i fail f b) := hg.ite (hf.ite h)

theorem jadeFails_fuses {f : Block → Block} (hf : ∀ {x}, fusesKept a x → fusesKept a (f x)) :
    fusesKept a (jadeFails f b) := by
  unfold jadeFails
  split
  · exact hf ((h.via (failInJade_frame (by decide))).via (sendFailedItem_frame (by decide)))
  · exact hf (h.via (failInJade_frame (by decide)))
  · exact h

/-! ### The fuse controller -/

theorem resumeRun_fuses {mvs : List Nat} : fusesKept a (resumeRun mvs b) := h.beside (resumeRun_cells mvs b)

theorem vppMeasure_fuses {mv : Nat} : fusesKept a (vppMeasure mv b) := .ite h.beside h

theorem otpRead_fuses {w : Nat} : fusesKept a (otpRead w b) := h.ite h.beside

theorem otpProgram_fuses {w mv : Nat} {more : List Nat} : fusesKept a (otpProgram w mv more b) :=
  h.beside (otpProgram_cells w mv more b)

/-- A request starts a burn at most: its pulses end with OTP_PULSE_DONE. -/
theorem telBurnRequest_fuses {mv : Nat} {more : List Nat} : fusesKept a (telBurnRequest mv more b) := by
  unfold telBurnRequest
  dsimp only
  split
  · exact h
  · refine .ite h.beside (h.ite ?_)
    split
    · exact resumeRun_fuses h.beside
    · exact .ite h.beside (resumeRun_fuses (.ite h.beside h.beside))

/-- Fuse load reads the fuses and delivers what they say. -/
theorem fuseLoad_fuses {refOk : Bool} : fusesKept a (fuseLoad refOk b) := by
  have failed {code : Nat} : fusesKept a (settleFaultPin (b.modTopaz (fun t => { t with faultCode := code }))) :=
    h.via fun k => settleFaultPin_frame (by decide) (Block.modTopaz_frame (by decide) k)
  exact h.ite (failed.ite (failed.ite (failed.ite h.beside)))

/-! ### Jade's tap -/

/-- The tap counts in the recorder, which Beryl holds beside the fuses. -/
theorem tapCopy_fuses {t : StripeToken} {bytes : List Byte} : fusesKept a (tapCopy t bytes b) := by
  unfold tapCopy
  refine h.ite (.ite h.beside ?_)
  extract_lets base len seq wrap wrapped off wrote counted
  have hwrapped : fusesKept a wrapped := .ite (h.via (Block.hostWrite_frame (by decide))) h
  have hwrote : fusesKept a wrote := hwrapped.via (Block.hostWrite_frame (by decide))
  exact hwrote.beside

theorem stripeToken_fuses {bad1 bad2 : Bool} {ecc : Ecc} : fusesKept a (stripeToken_ bad1 bad2 ecc b) := by
  unfold stripeToken_
  split
  · refine h.ite ?_
    extract_lets again acked kept gone checked ue bytes fail1 fail2 missing counted data past m stored marked told
    have hacked : fusesKept a acked := .ite h.beside h
    have hkept : fusesKept a kept := hacked.via (keepToken_frame (by decide))
    have hchecked : fusesKept a checked := hkept.ite (hkept.via (eccCount_frame (by decide)))
    have hcounted : fusesKept a counted := .ite hchecked.beside (.ite hchecked.beside hchecked)
    have hmarked : fusesKept a marked := (hcounted.via (modFrame_frame (by decide))).via (tellOpal_frame (by decide))
    have htold : fusesKept a told :=
      .ite (hmarked.ite (hmarked.via (mergeFail_frame (by decide)))) (hmarked.via (tellOpal_frame (by decide)))
    exact .ite (hacked.via (takeToken_frame (by decide))) (htold.ite (tapCopy_fuses htold))
  · exact h

theorem profileToken_fuses {bad1 bad2 : Bool} {ecc : Ecc} : fusesKept a (profileToken bad1 bad2 ecc b) := by
  unfold profileToken
  split
  · refine h.ite ?_
    extract_lets again acked bytes checked wrong bad stored
    have hacked : fusesKept a acked := h.ite h.beside
    have hchecked : fusesKept a checked := (hacked.via (keepToken_frame (by decide))).via (eccCount_frame (by decide))
    have hstored : fusesKept a stored := hchecked.via (modFrame_frame (by decide))
    exact .ite (hacked.via (takeToken_frame (by decide)))
      ((hstored.ite (tapCopy_fuses hstored)).via (finishFrame_frame (by decide)))
  · exact h

/-! ### The fuses outlast every reset and power-down of the rails (16 R436; 17 R458) -/

theorem resetIslands_fuses : fusesKept a (resetIslands b) := h.beside

theorem resetAll_fuses : fusesKept a (resetAll b) := h.beside

theorem portsOff_fuses : fusesKept a (portsOff b) := h.trans (.of_frame (portsOff_kept b))

theorem dropBegins_fuses {r : DropReason} : fusesKept a (dropBegins r b) :=
  resetIslands_fuses (portsOff_fuses (h.trans (.of_frame (latchShut_kept b)))).beside

theorem startDrop_fuses {r : DropReason} : fusesKept a (startDrop r b) := by
  unfold startDrop
  refine h.ite ?_
  extract_lets cut latched off waits reset
  have begun : fusesKept a reset := dropBegins_fuses h
  split
  · exact begun.beside
  · exact begun.via fun k => railsDown_frame (by decide) (Block.modTopaz_frame (by decide) k)

theorem keyAct_fuses {k : KeyAction} : fusesKept a (keyAct k b) := .ite h.beside (startDrop_fuses h)

theorem shipModeEnter_fuses : fusesKept a (shipModeEnter b) := .ite (keyAct_fuses h.beside) h

theorem keyNRelease_fuses {held : Nat} : fusesKept a (keyNRelease held b) := by
  unfold keyNRelease
  extract_lets p restart logged
  have hlogged : fusesKept a logged := h.via fun k => logKey_frame (by decide) (modPwr_frame (by decide) k)
  exact h.ite (.ite (keyAct_fuses (hlogged.via (tellHold_frame (by decide)))) hlogged)

theorem controlStep_fuses {mv : Nat} {ma : Int} {vbus : Nat} : fusesKept a (controlStep mv ma vbus b) := by
  have settled : fusesKept a (controlled mv ma vbus b) := h.trans (.of_frame (controlled_kept ..))
  cases hon : b.topaz.pwr.on with
  | false =>
    rw [show controlStep mv ma vbus b = b from if_pos (by rw [hon]; decide)]
    exact h
  | true =>
    rw [controlStep_acts hon]
    exact .ite (startDrop_fuses settled) settled

theorem beginPowerUp_fuses : fusesKept a (beginPowerUp b) := by
  unfold beginPowerUp
  exact (resetAll_fuses h).via fun k => tellHold_frame (by decide) (settleFaultPin_frame (by decide)
    (Block.modTopaz_frame (by decide) (modPwr_frame (by decide) k)))

theorem topazStart_fuses {ohms : Nat} {temp : Int} : fusesKept a (topazStart ohms temp b) :=
  h.ite ((resetAll_fuses h).via fun k => packRead_frame (by decide) (upd_topaz_frame (by decide) k))

theorem vddAoLoss_fuses : fusesKept a (vddAoLoss b) := h.ite (resetAll_fuses h).beside

theorem railFailed_fuses {k code : Nat} : fusesKept a (railFailed k code b) := startDrop_fuses h.beside

theorem railTimeout_fuses : fusesKept a (railTimeout b) := by
  unfold railTimeout
  split
  · exact railFailed_fuses h
  · exact h

theorem railPgFall_fuses {k : Nat} : fusesKept a (railPgFall k b) := .ite (railFailed_fuses h.beside) h

theorem powerUpDelay_fuses : fusesKept a (powerUpDelay b) := h.ite ((beginPowerUp_fuses h).ite h.beside)

theorem pwrGoodFall_fuses : fusesKept a (pwrGoodFall b) :=
  h.ite (.ite (startDrop_fuses h.beside) (portsOff_fuses (resetAll_fuses h.beside)))

theorem dramInitDone_fuses {ok : Bool} : fusesKept a (dramInitDone ok b) :=
  h.ite (.ite h.beside (resetIslands_fuses h.beside))

theorem mainInputReturn_fuses {mv : Nat} : fusesKept a (mainInputReturn mv b) := by
  unfold mainInputReturn
  extract_lets t logged
  have hlogged : fusesKept a logged :=
    h.via fun k => logPower_frame (by decide) (modPwr_frame (by decide) (Block.modTopaz_frame (by decide) k))
  exact h.ite ((beginPowerUp_fuses hlogged).ite (hlogged.via (settleHold_frame (by decide))))

theorem flushReport_fuses : fusesKept a (flushReport b) := .ite (startDrop_fuses h) h

theorem flushDeadline_fuses : fusesKept a (flushDeadline b) := .ite (startDrop_fuses h) h

theorem shutDrop_fuses : fusesKept a (shutDrop b) := startDrop_fuses h

theorem shutdownDeadline_fuses : fusesKept a (shutdownDeadline b) := by
  refine h.ite ?_
  split
  · exact h.ite h.beside
  · exact startDrop_fuses h

theorem serveTelResult_fuses : fusesKept a (serveTelResult b) := by
  unfold serveTelResult
  split
  · exact h
  · extract_lets taken burned more unlatched
    have htaken : fusesKept a taken := h.beside
    have hburned : fusesKept a burned := .ite htaken.beside htaken
    have hunlatched : fusesKept a unlatched := htaken.ite (htaken.via (latchEntry_frame (by decide)))
    exact .ite hburned.beside (shutDrop_fuses hunlatched.beside)

theorem telBurnResult_fuses {lost : Nat} : fusesKept a (telBurnResult lost b) :=
  h.ite (serveTelResult_fuses (h.via fun k => berylGap_frame (by decide) (Block.modCh_frame (by decide) k)))

theorem railDropTimeout_fuses : fusesKept a (railDropTimeout b) := by
  unfold railDropTimeout
  split
  · exact .ite (shutDrop_fuses h) h
  · exact h

/-! ### Beryl starts, and comes back -/

theorem berylBack_fuses {mvs : List Nat} {lost : List Island} : fusesKept a (berylBack mvs lost b) := by
  unfold berylBack
  extract_lets t asked begun formed new device stepped recovered cleared logged
  have hformed : fusesKept a formed := (h.beside : fusesKept a begun).via (formStates_frame (by decide))
  have hdevice : fusesKept a device := hformed.beside
  have hstepped : fusesKept a stepped := .ite (hdevice.via (stepUp_frame (by decide))) hdevice
  have hrecovered : fusesKept a recovered :=
    hstepped.foldl fun _ _ hx => .ite (hx.via (recoverIsland_frame (by decide))) hx
  have hlogged : fusesKept a logged := hrecovered.via fun k => logBeryl_frame (by decide) (Block.modTopaz_frame (by decide) k)
  exact resumeRun_fuses (hlogged.via (postEvent_frame (by decide)))

theorem berylRestartDone_fuses {patchOk : Bool} {mv : Nat} {bad : List Island} {more : List Nat} :
    fusesKept a (berylRestartDone patchOk mv bad more b) := h.ite (berylBack_fuses h.beside)

theorem patchImageRead_fuses {data : Option (List Byte)} {mv : Nat} {bad : List Island} {more : List Nat} :
    fusesKept a (patchImageRead data mv bad more b) := h.ite (berylBack_fuses h.beside)

theorem romStart_fuses {romOk : Bool} : fusesKept a (romStart romOk b) := by
  have ready : fusesKept a (romReady b) := h.beside
  exact h.ite (.ite h.beside (.ite h.beside (h.ite (ready.trans (.of_frame (romRuns_kept b))))))

end

/-! ### Every command but the end of a pulse -/

theorem Completes.keepsFuses {c : Instr} {s : State} {ps : List Piece} (k : Completes c s (fun t => onlyChanges ps s.blk t))
    (hp : .otc ∉ ps := by decide) : Completes c s (fusesKept s.blk) := by
  obtain ⟨t, ht, hq, frame⟩ := k
  exact ⟨t, ht, hq, .of_frame frame hp⟩

theorem exec_keepsFuses (c : Instr) (s : State)
    (hc : ∀ fired firm mv soft more, c ≠ .otpPulseDone fired firm mv soft more) : Completes c s (fusesKept s.blk) := by
  have h := fusesKept.refl s.blk
  cases c with
  | cad0Event => exact (frame_cad0Event s).keepsFuses
  | cad1Event => exact (frame_cad1Event s).keepsFuses
  | cadenceChannelEvent ch => exact (frame_cadenceChannelEvent ch s).keepsFuses
  | strobeOn k => exact (frame_strobeOn k s).keepsFuses
  | strobeOff k => exact (frame_strobeOff k s).keepsFuses
  | strbCfgWrite n w => exact (frame_strbCfgWrite n w s).keepsFuses
  | tbLoRead => exact (frame_tbLoRead s).keepsFuses
  | cadLastLoRead => exact (frame_cadLastLoRead s).keepsFuses
  | capApply => exact (frame_capApply s).keepsFuses
  | refInEdge stamp level held => exact (frame_refInEdge stamp level held s).keepsFuses
  | compareEvent => exact (frame_compareEvent s).keepsFuses
  | refLoss => exact (frame_refLoss s).keepsFuses
  | qualificationEnd => exact (frame_qualificationEnd s).keepsFuses
  | acquireTimeout => exact (frame_acquireTimeout s).keepsFuses
  | alignmentStage => exact (frame_alignmentStage s).keepsFuses
  | alignmentCheckEnd => exact (frame_alignmentCheckEnd s).keepsFuses
  | ppsInEdge stamp level held => exact (frame_ppsInEdge stamp level held s).keepsFuses
  | timeOfDay desc => exact (frame_timeOfDay desc s).keepsFuses
  | relock desc => exact (frame_relock desc s).keepsFuses
  | cadence desc => exact (frame_cadence desc s).keepsFuses
  | subFrameStart scene lost => exact (frame_subFrameStart scene lost s).keepsFuses
  | triggerEvent lost => exact (frame_triggerEvent lost s).keepsFuses
  | frameProgram desc => exact (frame_frameProgram desc s).keepsFuses
  | takeStart desc => exact (frame_takeStart desc s).keepsFuses
  | takeStop desc => exact (frame_takeStop desc s).keepsFuses
  | trigger desc => exact (frame_trigger desc s).keepsFuses
  | thermalStep => exact (frame_thermalStep s).keepsFuses
  | stopRequest => exact (frame_stopRequest s).keepsFuses
  | drainStripeDone => exact (frame_drainStripeDone s).keepsFuses
  | stripeTokenAck => exact (frame_stripeTokenAck s).keepsFuses
  | powerLossStop => exact (frame_powerLossStop s).keepsFuses
  | garnetShutdown => exact (frame_garnetShutdown s).keepsFuses
  | frameBoundRecord => exact (frame_frameBoundRecord s).keepsFuses
  | frameHeaderToken => exact (frame_frameHeaderToken s).keepsFuses
  | stripeToken _ _ _ =>
    exact ⟨_, rfl, rfl, served_fuses h (jadeFails_fuses h fun hx => stripeToken_fuses hx) (stripeToken_fuses h)⟩
  | stripeProcess ecc kind => exact (frame_stripeProcess ecc kind s).keepsFuses
  | profileToken _ _ _ =>
    exact ⟨_, rfl, rfl, served_fuses h (jadeFails_fuses h fun hx => profileToken_fuses hx) (profileToken_fuses h)⟩
  | destinationSet => exact (frame_destinationSet s).keepsFuses
  | retentionReservation => exact (frame_retentionReservation s).keepsFuses
  | stagingReservation => exact (frame_stagingReservation s).keepsFuses
  | procSettings desc => exact (frame_procSettings desc s).keepsFuses
  | procSettingsResume => exact (frame_procSettingsResume s).keepsFuses
  | refLoad desc buf => exact (frame_refLoad desc buf s).keepsFuses
  | refUnload desc => exact (frame_refUnload desc s).keepsFuses
  | refSlotFreed => exact (frame_refSlotFreed s).keepsFuses
  | clrCounts => exact (frame_clrCounts s).keepsFuses
  | clockDivisionRequest => exact (frame_clockDivisionRequest s).keepsFuses
  | jadeClockDivide => exact (frame_jadeClockDivide s).keepsFuses
  | segmentStripeToken ecc => exact (frame_segmentStripeToken ecc s).keepsFuses
  | keyLoad desc buf => exact (frame_keyLoad desc buf s).keepsFuses
  | keyRelease => exact (frame_keyRelease s).keepsFuses
  | zeroise w => exact (frame_zeroise w s).keepsFuses
  | shareEncryptionRequest => exact (frame_shareEncryptionRequest s).keepsFuses
  | hostStripeMoved => exact (frame_hostStripeMoved s).keepsFuses
  | poll page => exact (frame_poll page s).keepsFuses
  | descriptorFetched r data => exact (frame_descriptorFetched r data s).keepsFuses
  | nop r desc => exact (frame_nop r desc s).keepsFuses
  | contextOpen desc => exact (frame_contextOpen desc s).keepsFuses
  | contextCloseDrain desc => exact (frame_contextCloseDrain desc s).keepsFuses
  | contextCloseAbort desc => exact (frame_contextCloseAbort desc s).keepsFuses
  | contextCloseFinish c word posted => exact (frame_contextCloseFinish c word posted s).keepsFuses
  | magSet desc => exact (frame_magSet desc s).keepsFuses
  | magQuery desc => exact (frame_magQuery desc s).keepsFuses
  | seqTransferTx desc buf => exact (frame_seqTransferTx desc buf s).keepsFuses
  | seqTransferRx desc => exact (frame_seqTransferRx desc s).keepsFuses
  | seqTransferProgram desc buf cycles => exact (frame_seqTransferProgram desc buf cycles s).keepsFuses
  | seqTransferTimeout desc => exact (frame_seqTransferTimeout desc s).keepsFuses
  | outcomeQuery desc => exact (frame_outcomeQuery desc s).keepsFuses
  | bufferPost c desc => exact (frame_bufferPost c desc s).keepsFuses
  | bufWaitExpiry => exact (frame_bufWaitExpiry s).keepsFuses
  | timeRecord => exact (frame_timeRecord s).keepsFuses
  | latchNoticeOpal lost => exact (frame_latchNoticeOpal lost s).keepsFuses
  | latchNoticeSpinel lost => exact (frame_latchNoticeSpinel lost s).keepsFuses
  | latchNoticeOnyx lost => exact (frame_latchNoticeOnyx lost s).keepsFuses
  | garnetOutcome => exact (frame_garnetOutcome s).keepsFuses
  | destinationOutcome => exact (frame_destinationOutcome s).keepsFuses
  | ledgerPublish => exact (frame_ledgerPublish s).keepsFuses
  | berylEventRecord => exact (frame_berylEventRecord s).keepsFuses
  | msixHoldoffExpiry v => exact (frame_msixHoldoffExpiry v s).keepsFuses
  | msixMaskWrite w => exact (frame_msixMaskWrite w s).keepsFuses
  | ctrlRingStart w => exact (frame_ctrlRingStart w s).keepsFuses
  | ledgerRingStart w => exact (frame_ledgerRingStart w s).keepsFuses
  | hostLinkDown => exact (frame_hostLinkDown s).keepsFuses
  | hostLinkUp rate width => exact (frame_hostLinkUp rate width s).keepsFuses
  | hostPerst => exact (frame_hostPerst s).keepsFuses
  | fundamentalReset => exact (frame_fundamentalReset s).keepsFuses
  | grnFrameLoRead => exact (frame_grnFrameLoRead s).keepsFuses
  | islCommit w => exact (frame_islCommit w s).keepsFuses
  | islUncommit w => exact (frame_islUncommit w s).keepsFuses
  | registerWrite off w be => exact (frame_registerWrite off w be s).keepsFuses
  | onyxFlushReport => exact (frame_onyxFlushReport s).keepsFuses
  | flushReadComplete => exact (frame_flushReadComplete s).keepsFuses
  | opalFlushTimeout => exact (frame_opalFlushTimeout s).keepsFuses
  | magazineLinkUp m gen width vs cap => exact (frame_magazineLinkUp m gen width vs cap s).keepsFuses
  | magazineLinkDown m also => exact (frame_magazineLinkDown m also s).keepsFuses
  | nvmeCompletion m cid status sqhd data => exact (frame_nvmeCompletion m cid status sqhd data s).keepsFuses
  | cmdTimeout m cid => exact (frame_cmdTimeout m cid s).keepsFuses
  | smartPoll => exact (frame_smartPoll s).keepsFuses
  | magazineDmaViolation m => exact (frame_magazineDmaViolation m s).keepsFuses
  | magazineStripeToken ecc => exact (frame_magazineStripeToken ecc s).keepsFuses
  | expiryRequest => exact (frame_expiryRequest s).keepsFuses
  | reinit w => exact (frame_reinit w s).keepsFuses
  | retrain w => exact (frame_retrain w s).keepsFuses
  | onyxPowerLoss => exact (frame_onyxPowerLoss s).keepsFuses
  | flushWriteDeadline => exact (frame_flushWriteDeadline s).keepsFuses
  | shutdownWaitTimeout => exact (frame_shutdownWaitTimeout s).keepsFuses
  | onyxShutdown => exact (frame_onyxShutdown s).keepsFuses
  | magazinePowerSettled m => exact (frame_magazinePowerSettled m s).keepsFuses
  | seqJmp n joins => exact (frame_seqJmp n joins s).keepsFuses
  | seqWait n joins => exact (frame_seqWait n joins s).keepsFuses
  | seqIn n joins => exact (frame_seqIn n joins s).keepsFuses
  | seqOut n joins => exact (frame_seqOut n joins s).keepsFuses
  | seqPush n joins => exact (frame_seqPush n joins s).keepsFuses
  | seqPull n joins => exact (frame_seqPull n joins s).keepsFuses
  | seqMov n joins => exact (frame_seqMov n joins s).keepsFuses
  | seqSet n joins => exact (frame_seqSet n joins s).keepsFuses
  | flagRaise n joins => exact (frame_flagRaise n joins s).keepsFuses
  | flagDrop n joins => exact (frame_flagDrop n joins s).keepsFuses
  | flagTake n joins => exact (frame_flagTake n joins s).keepsFuses
  | flagTrig n joins => exact (frame_flagTrig n joins s).keepsFuses
  | seqCad n joins => exact (frame_seqCad n joins s).keepsFuses
  | illegalOpcode n joins => exact (frame_illegalOpcode n joins s).keepsFuses
  | engineEnable w => exact (frame_engineEnable w s).keepsFuses
  | engineHalt w => exact (frame_engineHalt w s).keepsFuses
  | gangChange w => exact (frame_gangChange w s).keepsFuses
  | seqIoEdge p level => exact (frame_seqIoEdge p level s).keepsFuses
  | trigInEdge joins => exact (frame_trigInEdge joins s).keepsFuses
  | cadenceEventAgate lost => exact (frame_cadenceEventAgate lost s).keepsFuses
  | gangCtrlWrite g data w => exact (frame_gangCtrlWrite g data w s).keepsFuses
  | gioTrigWrite w => exact (frame_gioTrigWrite w s).keepsFuses
  | watchdogReport lost => exact (frame_watchdogReport lost s).keepsFuses
  | watchdogExpiry => exact (frame_watchdogExpiry s).keepsFuses
  | berylRestartDone _ _ _ _ => exact ⟨_, rfl, rfl, berylRestartDone_fuses h⟩
  | islandFault i c => exact (frame_islandFault i c s).keepsFuses
  | islandRecovery i ok configOk => exact (frame_islandRecovery i ok configOk s).keepsFuses
  | stall i since => exact (frame_stall i since s).keepsFuses
  | sensorSample l => exact (frame_sensorSample l s).keepsFuses
  | thermalReading ra rb => exact (frame_thermalReading ra rb s).keepsFuses
  | shutdownSignal lost => exact (frame_shutdownSignal lost s).keepsFuses
  | shutdownDeadline => exact ⟨_, rfl, rfl, shutdownDeadline_fuses h⟩
  | telBurnRequest _ _ => exact ⟨_, rfl, rfl, telBurnRequest_fuses h⟩
  | telBurnResult _ => exact ⟨_, rfl, rfl, telBurnResult_fuses h⟩
  | railDropTimeout => exact ⟨_, rfl, rfl, railDropTimeout_fuses h⟩
  | otpProgram _ _ _ => exact ⟨_, rfl, rfl, otpProgram_fuses h⟩
  | otpPulseDone fired firm mv soft more => exact absurd rfl (hc fired firm mv soft more)
  | vppMeasure _ => exact ⟨_, rfl, rfl, vppMeasure_fuses h⟩
  | otpRead _ => exact ⟨_, rfl, rfl, otpRead_fuses h⟩
  | fuseLoad _ => exact ⟨_, rfl, rfl, fuseLoad_fuses h⟩
  | patchLoad w => exact (frame_patchLoad w s).keepsFuses
  | patchImageRead _ _ _ _ => exact ⟨_, rfl, rfl, patchImageRead_fuses h⟩
  | evrRecord w => exact (frame_evrRecord w s).keepsFuses
  | evrReplay w => exact (frame_evrReplay w s).keepsFuses
  | evrOff w => exact (frame_evrOff w s).keepsFuses
  | traceEntry => exact (frame_traceEntry s).keepsFuses
  | traceBlockClose ecc => exact (frame_traceBlockClose ecc s).keepsFuses
  | replayFeed r => exact (frame_replayFeed r s).keepsFuses
  | dramInitDone _ => exact ⟨_, rfl, rfl, dramInitDone_fuses h⟩
  | romStart _ => exact ⟨_, rfl, rfl, romStart_fuses h⟩
  | mainInputLoss mv => exact (frame_mainInputLoss mv s).keepsFuses
  | mainInputReturn _ => exact ⟨_, rfl, rfl, mainInputReturn_fuses h⟩
  | keepPoweredRecord => exact (frame_keepPoweredRecord s).keepsFuses
  | flushReport => exact ⟨_, rfl, rfl, flushReport_fuses h⟩
  | flushDeadline => exact ⟨_, rfl, rfl, flushDeadline_fuses h⟩
  | eventRepeat i lost => exact (frame_eventRepeat i lost s).keepsFuses
  | packRead ohms temp => exact (frame_packRead ohms temp s).keepsFuses
  | shortCheck => exact (frame_shortCheck s).keepsFuses
  | prechargeTimeout => exact (frame_prechargeTimeout s).keepsFuses
  | chargeDone => exact (frame_chargeDone s).keepsFuses
  | safetyTimerExpiry => exact (frame_safetyTimerExpiry s).keepsFuses
  | controlStep _ _ _ => exact ⟨_, rfl, rfl, controlStep_fuses h⟩
  | showEnd => exact (frame_showEnd s).keepsFuses
  | powerUpDelay => exact ⟨_, rfl, rfl, powerUpDelay_fuses h⟩
  | keyPress => exact (frame_keyPress s).keepsFuses
  | keyRestartHold => exact (frame_keyRestartHold s).keepsFuses
  | keyShipHold => exact (frame_keyShipHold s).keepsFuses
  | shipModeEnter => exact ⟨_, rfl, rfl, shipModeEnter_fuses h⟩
  | hupMagpwrWrite w => exact (frame_hupMagpwrWrite w s).keepsFuses
  | clrTimer w => exact (frame_clrTimer w s).keepsFuses
  | topazStart _ _ => exact ⟨_, rfl, rfl, topazStart_fuses h⟩
  | railPgRise k => exact (frame_railPgRise k s).keepsFuses
  | railEnableDelay => exact (frame_railEnableDelay s).keepsFuses
  | railTimeout => exact ⟨_, rfl, rfl, railTimeout_fuses h⟩
  | railPgFall _ => exact ⟨_, rfl, rfl, railPgFall_fuses h⟩
  | railDownStep => exact (frame_railDownStep s).keepsFuses
  | pwrGoodRise tcxo => exact (frame_pwrGoodRise tcxo s).keepsFuses
  | pwrGoodFall => exact ⟨_, rfl, rfl, pwrGoodFall_fuses h⟩
  | keyNRelease _ => exact ⟨_, rfl, rfl, live_fuses h (keyNRelease_fuses h)⟩
  | trigInInactive => exact (frame_trigInInactive s).keepsFuses
  | controllerStatusChange m csts => exact (frame_controllerStatusChange m csts s).keepsFuses
  | pollReadTimeout => exact (frame_pollReadTimeout s).keepsFuses
  | islandResetRelease => exact (frame_islandResetRelease s).keepsFuses
  | hostLinkError => exact (frame_hostLinkError s).keepsFuses
  | vddAoLoss => exact ⟨_, rfl, rfl, vddAoLoss_fuses h⟩

theorem idle_keepsFuses (s : State) : fusesKept s.blk (idle s).blk :=
  .of_frame (Block.modQuartz_frame (ps := [.quartz]) (by decide) (onlyChanges_refl _ _))

theorem step_keepsFuses {s t : State} (hs : ∀ fired firm mv soft more, s.pending.head? ≠ some
    (.otpPulseDone fired firm mv soft more)) (hstep : step s = .next t) : fusesKept s.blk t.blk := by
  obtain ⟨q, b⟩ := s
  cases q with
  | nil =>
    obtain rfl : idle ⟨[], b⟩ = t := Host.Outcome.next.inj hstep
    exact idle_keepsFuses _
  | cons c q =>
    obtain ⟨u, hu, -, kept⟩ := exec_keepsFuses c ⟨q, b⟩ fun fired firm mv soft more e =>
      hs fired firm mv soft more (congrArg some e)
    obtain rfl : u = t := Host.Outcome.next.inj (hu.symm.trans hstep)
    exact kept

/-! ### The end of a pulse -/

/-- A word keeps its ones under an OR. -/
theorem and_or_absorb (v w : Half) : v &&& (v ||| w) = v := by
  have bit : ∀ x y : Bool, (x && (x || y)) = x := by decide
  ext i hi
  rw [BitVec.getElem_and, BitVec.getElem_or]
  exact bit ..

/-- A pulse adds the bits that fired to its word and leaves the other words alone. -/
theorem pulseEnded_keeps_ones {b : Block} (hf : mapWf (fun _ => (0 : Half)) b.beryl.otc.fuses = true)
    (fired firm soft bits : Half) (a x : Nat) :
    b.beryl.otc.word x &&& (pulseEnded fired firm soft bits a b).beryl.otc.word x = b.beryl.otc.word x := by
  by_cases h : x = a
  · subst h
    rw [pulseEnded_word hf]
    exact and_or_absorb _ _
  · rw [pulseEnded_word_ne _ _ _ _ _ h, BitVec.and_self]

theorem otpPulseDone_keeps_ones {b : Block} (hf : mapWf (fun _ => (0 : Half)) b.beryl.otc.fuses = true)
    (fired firm : Half) (mv : Nat) (soft : Half) (more : List Nat) (x : Nat) :
    b.beryl.otc.word x &&& (otpPulseDone fired firm mv soft more b).beryl.otc.word x = b.beryl.otc.word x := by
  cases hp : b.beryl.otc.pulse with
  | none =>
    have idle : otpPulseDone fired firm mv soft more b = b := by simp only [otpPulseDone, hp]
    rw [idle, BitVec.and_self]
  | some p =>
    rw [Otc.word_congr (otpPulseDone_cells hp fired firm soft mv more)]
    exact pulseEnded_keeps_ones hf ..

end Sys2Proof.Machine

section
open Sys2Proof Sys2Proof.Machine

/-- Settles O4: every command but the end of a pulse, and the tick of an empty queue, keeps the fuses, and the end of a pulse
only adds bits. -/
theorem nothingTurnsAFuseBackToZero : Obligations.NothingTurnsAFuseBackToZero := by
  refine ⟨fun s t inv hstep a => ?_, fun s t hs hstep => (Prod.mk.inj (step_keepsFuses hs hstep)).1⟩
  by_cases hs : ∃ fired firm mv soft more, s.pending.head? = some (.otpPulseDone fired firm mv soft more)
  · obtain ⟨fired, firm, mv, soft, more, front⟩ := hs
    obtain ⟨_ | ⟨c, q⟩, b⟩ := s
    · cases front
    · obtain rfl := Option.some.inj front
      obtain rfl : ⟨q, otpPulseDone fired firm mv soft more b⟩ = t := Host.Outcome.next.inj hstep
      exact otpPulseDone_keeps_ones inv.fuses ..
  · have kept := step_keepsFuses (fun fired firm mv soft more front => hs ⟨fired, firm, mv, soft, more, front⟩) hstep
    rw [Otc.word_congr kept, BitVec.and_self]

end
end

section
/-! O6: the reads of the Cadence readout and of Garnet's status that latch a high half (18 R468, R470). -/

-- The proofs are elaborated one after another: each waiting in a thread of its own takes more memory than the check allows.
set_option Elab.async false

namespace Sys2Proof.Machine

/-- The stamp read is that of the channel which CAD_SEL names (18 R468). -/
theorem cadLastLoRead_latches {b : Block} (hb : b.bar0 = true) :
    cadLastLoRead b = { b with
      quartz := { b.quartz with cadLastHi := vget b.quartz.evLast (b.field 0x1400 4 0) 0 / 2 ^ 32 % 2 ^ 32 }
      out := { b.out with readData := BitVec.ofNat 32 (vget b.quartz.evLast (b.field 0x1400 4 0) 0) } } := by
  simp only [cadLastLoRead, hb, Bool.not_true, Bool.false_eq_true, if_false]
  rfl

/-- The frame number read is the one taken at the last latch point (18 R470). -/
theorem grnFrameLoRead_latches {b : Block} (hb : b.bar0 = true) :
    grnFrameLoRead b = { b with
      garnet := { b.garnet with frameHi := b.garnet.view.frame / 2 ^ 32 % 2 ^ 32 }
      out := { b.out with readData := BitVec.ofNat 32 b.garnet.view.frame } } := by
  simp only [grnFrameLoRead, hb, Bool.not_true, Bool.false_eq_true, if_false]
  rfl

end Sys2Proof.Machine

section
open Sys2Proof Sys2Proof.Machine

/-- Settles O6: each read is one equation while BAR0 answers, and changes only its Island and the value read. -/
theorem latchingReadsOfCadenceAndFrame : Obligations.LatchingReadsOfCadenceAndFrame := by
  refine ⟨?cadence, ?frame, ?cadenceChanges, ?frameChanges⟩
  case cadence =>
    rintro q b _ hb rfl
    exact act_of_eq (cadLastLoRead_latches hb)
  case frame => exact fun q b hb => act_of_eq (grnFrameLoRead_latches hb)
  case cadenceChanges => exact fun q b => ⟨rfl, cadLastLoRead_frame (by decide) (onlyChanges_refl _ _)⟩
  case frameChanges => exact fun q b => ⟨rfl, grnFrameLoRead_frame (by decide) (onlyChanges_refl _ _)⟩

end
end

section
/-! Gates: the answer of a command behind each gate, open or shut (12 R320, R326 to R328, R346; 17 R446, R448). -/

set_option Elab.async false

namespace Sys2Proof.Machine

section
variable {i : Island} {f g : Block → Block} {q : List Instr} {b c : Block}

/-- An Island that acts and holds its configuration serves its channels. -/
theorem act_served (ha : b.alive i = true) (he : islandEmpty b i = false) (h : f b = c) :
    act (served i g f) ⟨q, b⟩ = .next ⟨q, c⟩ :=
  act_of_eq ((served_of_alive ha he).trans h)

theorem act_served_failing (hf : b.failing i = true) (h : g b = c) : act (served i g f) ⟨q, b⟩ = .next ⟨q, c⟩ :=
  act_of_eq ((served_of_failing hf).trans h)

/-- Frozen, unpowered or EMPTY, an Island leaves its channels as they are (12 R328). -/
theorem served_of_idle (hf : b.failing i = false) (h : b.alive i = false ∨ islandEmpty b i = true) : served i g f b = b := by
  rcases h with h | h <;> simp [served, hf, h]

theorem act_served_idle (hf : b.failing i = false) (h : b.alive i = false ∨ islandEmpty b i = true) :
    act (served i g f) ⟨q, b⟩ = .next ⟨q, b⟩ :=
  act_of_eq (served_of_idle hf h)

theorem act_heeded (ha : b.alive i = true) (h : f b = c) : act (heeded i f) ⟨q, b⟩ = .next ⟨q, c⟩ :=
  act_of_eq ((heeded_of_alive ha).trans h)

theorem act_heeded_failing (hf : b.failing i = true) (h : f b = c) : act (heeded i f) ⟨q, b⟩ = .next ⟨q, c⟩ :=
  act_of_eq ((if_pos (by rw [hf, Bool.or_true])).trans h)

theorem act_heeded_idle (ha : b.alive i = false) (hf : b.failing i = false) : act (heeded i f) ⟨q, b⟩ = .next ⟨q, b⟩ :=
  act_of_eq (if_neg (by rw [ha, hf]; exact Bool.false_ne_true))

theorem act_powered (hp : b.inPower i = true) (h : f b = c) : act (powered i f) ⟨q, b⟩ = .next ⟨q, c⟩ :=
  act_of_eq ((powered_of_inPower hp).trans h)

theorem act_powered_idle (hp : b.inPower i = false) : act (powered i f) ⟨q, b⟩ = .next ⟨q, b⟩ :=
  act_of_eq (if_neg (by rw [hp]; exact Bool.false_ne_true))

theorem act_live (hm : b.beryl.evr.mode ≠ 2) (h : f b = c) : act (live f) ⟨q, b⟩ = .next ⟨q, c⟩ :=
  act_of_eq ((live_of_mode hm).trans h)

/-- In Replay a live input is ignored (12 R346). -/
theorem act_live_replay (hm : b.beryl.evr.mode = 2) : act (live f) ⟨q, b⟩ = .next ⟨q, b⟩ := act_of_eq (if_pos hm)

theorem act_whileFirmware (hf : firmware b = true) (h : f b = c) : act (whileFirmware f) ⟨q, b⟩ = .next ⟨q, c⟩ :=
  act_of_eq ((whileFirmware_of hf).trans h)

/-- Outside Replay a live message goes through the gate behind. -/
theorem act_liveOr (hm : b.beryl.evr.mode ≠ 2) (h : act f ⟨q, b⟩ = .next ⟨q, c⟩) :
    act (liveOr g f) ⟨q, b⟩ = .next ⟨q, c⟩ := by
  rw [← h, act, liveOr_of_mode hm, act]

theorem act_liveOr_replay (hm : b.beryl.evr.mode = 2) (h : g b = c) : act (liveOr g f) ⟨q, b⟩ = .next ⟨q, c⟩ :=
  act_of_eq ((if_pos hm).trans h)

end

/-- A command that answers `c` completes with what holds of `c`. -/
theorem Completes.of_next {i : Instr} {q : List Instr} {b c : Block} {P : Block → Prop} (h : exec i ⟨q, b⟩ = .next ⟨q, c⟩)
    (hP : P c) : Completes i ⟨q, b⟩ P :=
  ⟨_, h, rfl, hP⟩

/-- Outside Replay a well-formed or malformed time of day is served alike (12 R346). -/
theorem todGate_of_mode {b : Block} (hm : b.beryl.evr.mode ≠ 2) (desc : Nat) : todGate desc b = timeOfDay desc b := by
  unfold todGate
  split
  · simp only [decide_eq_false hm, Bool.false_and, Bool.false_eq_true, if_false]
  · next h => simp only [timeOfDay, h]

end Sys2Proof.Machine
end

section
/-! O1: what a step does with the queue (95). -/

section
open Sys2Proof Sys2Proof.Machine

/-- Settles O1: the step's own case split on the queue; the idle tick is that of the Time Base. -/
theorem stepRunsTheFrontCommand : Obligations.StepRunsTheFrontCommand := by
  refine ⟨fun _ _ _ => rfl, fun b => ?_⟩
  show Host.Outcome.next (idle ⟨[], b⟩) = _
  by_cases hr : b.quartz.running = true
  · simp only [idle, Block.modQuartz, hr, if_true, next64]
  · simp only [idle, Block.modQuartz, hr]
    rfl

end
end

section
/-! O60: whatever its operands, a command that its Island takes answers a next state (12 R320, R326; 17 R446, R448). -/

section
open Sys2Proof Sys2Proof.Machine

/-- Settles O60: each command is the act of its own function behind one gate, and where its Island takes it that gate is open;
one entry for each command, in the order of the statement. -/
theorem everyCommandCompletesWhereItIsTaken : Obligations.EveryCommandCompletesWhereItIsTaken := by
  refine ⟨
    fun _ _ ha => act_gated ha rfl, fun _ _ ha => act_gated ha rfl, fun _ _ _ ha => act_gated ha rfl,
    fun _ _ _ ha => act_gated ha rfl, fun _ _ _ ha => act_gated ha rfl, fun _ _ _ _ => rfl, fun _ _ => rfl, fun _ _ => rfl,
    fun _ _ => rfl, fun _ _ _ _ _ hm ha => act_live_gated hm ha rfl, fun _ _ ha => act_gated ha rfl,
    fun _ _ ha => act_gated ha rfl, fun _ _ ha => act_gated ha rfl, fun _ _ ha => act_gated ha rfl,
    fun _ _ ha => act_gated ha rfl, fun _ _ ha => act_gated ha rfl, fun _ _ _ _ _ hm ha => act_live_gated hm ha rfl,
    fun _ _ desc ha hm => act_gated ha (todGate_of_mode hm desc), fun _ _ _ ha => act_gated ha rfl,
    fun _ _ _ ha => act_gated ha rfl, fun _ _ _ _ hm ha he => act_liveOr hm (act_served ha he rfl),
    fun _ _ _ hm ha he => act_liveOr hm (act_served ha he rfl), fun _ _ _ ha => act_gated ha rfl,
    fun _ _ _ ha => act_gated ha rfl, fun _ _ _ ha => act_gated ha rfl, fun _ _ _ ha => act_gated ha rfl,
    fun _ _ ha he => act_served ha he rfl, fun _ _ ha => act_heeded ha rfl, fun _ _ ha => act_gated ha rfl,
    fun _ _ ha => act_gated ha rfl, fun _ _ ha => act_heeded ha rfl, fun _ _ ha => act_heeded ha rfl,
    fun _ _ hf => act_whileFirmware hf rfl, fun _ _ ha he => act_served ha he rfl,
    fun _ _ _ _ _ ha he => act_served ha he rfl, fun _ _ _ _ ha => act_gated ha rfl,
    fun _ _ _ _ _ ha he => act_served ha he rfl, fun _ _ ha he => act_served ha he rfl,
    fun _ _ ha he => act_served ha he rfl, fun _ _ ha he => act_served ha he rfl, fun _ _ _ ha => act_gated ha rfl,
    fun _ _ ha => act_gated ha rfl, fun _ _ _ _ ha => act_gated ha rfl, fun _ _ _ ha => act_gated ha rfl,
    fun _ _ ha => act_gated ha rfl, fun _ _ => rfl, fun _ _ ha => act_heeded ha rfl, fun _ _ ha => act_gated ha rfl,
    fun _ _ _ ha he => act_served ha he rfl, fun _ _ _ _ ha => act_gated ha rfl, fun _ _ ha => act_gated ha rfl,
    fun _ _ _ ha => act_heeded ha rfl, fun _ _ ha he => act_served ha he rfl, fun _ _ ha he => act_served ha he rfl,
    fun _ _ _ ha => act_gated ha rfl, fun _ _ _ _ ha => act_gated ha rfl, fun _ _ _ _ ha => act_gated ha rfl,
    fun _ _ _ ha => act_gated ha rfl, fun _ _ _ ha => act_gated ha rfl, fun _ _ _ ha => act_gated ha rfl,
    fun _ _ _ _ _ ha => act_gated ha rfl, fun _ _ _ ha => act_gated ha rfl, fun _ _ _ ha => act_gated ha rfl,
    fun _ _ _ _ ha => act_gated ha rfl, fun _ _ _ ha => act_gated ha rfl, fun _ _ _ _ _ ha => act_gated ha rfl,
    fun _ _ _ ha => act_gated ha rfl, fun _ _ _ ha => act_gated ha rfl, fun _ _ _ _ ha => act_gated ha rfl,
    fun _ _ ha => act_heeded ha rfl, fun _ _ hm ha => act_liveOr hm (act_heeded ha rfl), fun _ _ _ ha => act_heeded ha rfl,
    fun _ _ _ ha he => act_served ha he rfl, fun _ _ _ ha he => act_served ha he rfl, fun _ _ ha => act_heeded ha rfl,
    fun _ _ ha => act_heeded ha rfl, fun _ _ ha => act_heeded ha rfl, fun _ _ ha => act_heeded ha rfl,
    fun _ _ _ ha => act_gated ha rfl, fun _ _ _ => rfl, fun _ _ _ ha => act_gated ha rfl, fun _ _ _ ha => act_gated ha rfl,
    fun _ _ hp => act_powered hp rfl, fun _ _ _ _ hp => act_powered hp rfl, fun _ _ => rfl, fun _ _ => rfl, fun _ _ => rfl,
    fun _ _ _ => rfl, fun _ _ _ => rfl, fun _ _ _ _ _ => rfl, fun _ _ => rfl, fun _ _ => rfl, fun _ _ => rfl,
    fun _ _ _ _ _ _ _ ha => act_gated ha rfl, fun _ _ _ _ ha => act_gated ha rfl, fun _ _ _ _ _ _ _ ha => act_gated ha rfl,
    fun _ _ _ _ ha => act_gated ha rfl, fun _ _ ha => act_gated ha rfl, fun _ _ _ ha => act_gated ha rfl,
    fun _ _ _ ha he => act_served ha he rfl, fun _ _ ha he => act_served ha he rfl, fun _ _ _ => rfl, fun _ _ _ => rfl,
    fun _ _ ha => act_gated ha rfl, fun _ _ ha => act_gated ha rfl, fun _ _ ha => act_gated ha rfl,
    fun _ _ ha => act_gated ha rfl, fun _ _ _ hp => act_powered hp rfl, fun _ _ _ _ ha => act_gated ha rfl,
    fun _ _ _ _ ha => act_gated ha rfl, fun _ _ _ _ ha => act_gated ha rfl, fun _ _ _ _ ha => act_gated ha rfl,
    fun _ _ _ _ ha => act_gated ha rfl, fun _ _ _ _ ha => act_gated ha rfl, fun _ _ _ _ ha => act_gated ha rfl,
    fun _ _ _ _ ha => act_gated ha rfl, fun _ _ _ _ ha => act_gated ha rfl, fun _ _ _ _ ha => act_gated ha rfl,
    fun _ _ _ _ ha => act_gated ha rfl, fun _ _ _ _ ha => act_gated ha rfl, fun _ _ _ _ ha => act_gated ha rfl,
    fun _ _ _ _ ha => act_gated ha rfl, fun _ _ _ => rfl, fun _ _ _ => rfl, fun _ _ _ => rfl,
    fun _ _ _ _ ha => act_gated ha rfl, fun _ _ _ hm ha => act_live_gated hm ha rfl,
    fun _ _ _ ha he => act_served ha he rfl, fun _ _ _ _ _ hf => act_whileFirmware hf rfl, fun _ _ _ => rfl,
    fun _ _ _ => rfl, fun _ _ => rfl, fun _ _ _ _ _ _ => rfl, fun _ _ _ _ => rfl, fun _ _ _ _ _ => rfl, fun _ _ _ _ => rfl,
    fun _ _ _ => rfl, fun _ _ _ _ => rfl, fun _ _ _ => rfl, fun _ _ => rfl, fun _ _ _ _ => rfl, fun _ _ _ => rfl,
    fun _ _ => rfl, fun _ _ _ _ _ => rfl, fun _ _ _ _ _ _ _ => rfl, fun _ _ _ => rfl, fun _ _ _ => rfl, fun _ _ _ => rfl,
    fun _ _ _ => rfl, fun _ _ _ _ _ _ => rfl, fun _ _ _ => rfl, fun _ _ _ => rfl, fun _ _ _ => rfl, fun _ _ => rfl,
    fun _ _ _ => rfl, fun _ _ _ => rfl, fun _ _ _ => rfl, fun _ _ _ => rfl, fun _ _ _ => rfl, fun _ _ _ => rfl,
    fun _ _ => rfl, fun _ _ => rfl, fun _ _ => rfl, fun _ _ _ _ => rfl, fun _ _ _ _ => rfl, fun _ _ => rfl, fun _ _ => rfl,
    fun _ _ => rfl, fun _ _ => rfl, fun _ _ _ _ _ => rfl, fun _ _ => rfl, fun _ _ => rfl, fun _ _ hm => act_live hm rfl,
    fun _ _ hm => act_live hm rfl, fun _ _ hm => act_live hm rfl, fun _ _ => rfl, fun _ _ _ => rfl, fun _ _ _ => rfl,
    fun _ _ _ _ => rfl, fun _ _ _ => rfl, fun _ _ => rfl, fun _ _ => rfl, fun _ _ _ => rfl, fun _ _ => rfl,
    fun _ _ _ => rfl, fun _ _ => rfl, fun _ _ _ hm => act_live hm rfl, fun _ _ hm ha => act_live_gated hm ha rfl,
    fun _ _ _ _ ha => act_gated ha rfl, fun _ _ ha => act_gated ha rfl, fun _ _ => rfl, fun _ _ hp => act_powered hp rfl,
    fun _ _ => rfl⟩

end
end

section
/-! O17: what becomes of TRIGGER, of a trigger event, of a thermal step and of a stop request at Garnet, and how power loss
and shutdown stop its capture (04 R98 to R106, 10 R281, 12 R330, 14 R394, 15 R409, R412). -/

-- The proofs are elaborated one after another: each waiting in a thread of its own takes more memory than the check allows.
set_option Elab.async false

namespace Sys2Proof.Machine

/-! ### TRIGGER (04 R98) -/

section
variable {b : Block} {i : Nat} {d : List Byte} (hd : b.dispatched ctrlRing i 0x03 = some d)
include hd

theorem trigger_badMode (h : 1 < leAt d 16 1) : trigger i b = finishCtrl i stMalformed frameNone 0 16 b := by
  simp only [trigger, hd, h, if_true]

variable (hmode : leAt d 16 1 ≤ 1)
include hmode

theorem trigger_badPolicy (h : 1 < leAt d 17 1) : trigger i b = finishCtrl i stMalformed frameNone 0 17 b := by
  simp only [trigger, hd, Nat.not_lt.mpr hmode, h, if_true, if_false]

variable (hpolicy : leAt d 17 1 ≤ 1)
include hpolicy

theorem trigger_badSource (h : 2 < leAt d 18 1) : trigger i b = finishCtrl i stMalformed frameNone 0 18 b := by
  simp only [trigger, hd, Nat.not_lt.mpr hmode, Nat.not_lt.mpr hpolicy, h, if_true, if_false]

variable (hsource : leAt d 18 1 ≤ 2)
include hsource

theorem trigger_again (h : b.garnet.stagedTrigger.any (fun x => x.desc == i) = true) : trigger i b = b := by
  simp only [trigger, hd, Nat.not_lt.mpr hmode, Nat.not_lt.mpr hpolicy, Nat.not_lt.mpr hsource, h, if_true, if_false]

theorem trigger_stages (h : b.garnet.stagedTrigger.any (fun x => x.desc == i) = false) :
    trigger i b = b.modGarnet (fun g => { g with stagedTrigger := g.stagedTrigger ++
      [⟨if leAt d 16 1 = 0 then .continuous else .triggered, if leAt d 17 1 = 0 then .queueOne else .ignore,
        if leAt d 18 1 = 0 then .trigIn else if leAt d 18 1 = 1 then .seq else .both, i⟩] }) := by
  simp only [trigger, hd, Nat.not_lt.mpr hmode, Nat.not_lt.mpr hpolicy, Nat.not_lt.mpr hsource, h, if_false,
    Bool.false_eq_true]

end

/-! ### Trigger events (04 R99 to R106) -/

/-- Garnet has taken the next trigger event and counted it (01 R16). -/
def triggerTaken (l : List TrigKind) (b : Block) : Block :=
  { b with
    garnet := { b.garnet with trigExpect := (b.garnet.trigExpect + 1) % 65536 }
    ch := { b.ch with agateGarnet := l } }

theorem triggerEvent_next {b : Block} {k : TrigKind} {l : List TrigKind} (h : b.ch.agateGarnet = k :: l) :
    triggerEvent 0 b = acceptTrigger k (triggerTaken l b) := by
  have count : ((b.garnet.trigExpect + 0) % 65536 + 1) % 65536 = (b.garnet.trigExpect + 1) % 65536 := by omega
  simp only [triggerEvent, Block.modCh, Block.modGarnet, h, Nat.zero_min, List.drop_zero, gapSeen_zero, Bool.false_eq_true,
    if_false, count, triggerTaken]

/-- With only lost triggers in the channel, as many as its 16-bit count shows, each counts in TRIG_OVERRUN (12 R330). -/
theorem triggerEvent_gap {b : Block} {n : Nat} (hl : b.ch.agateGarnet.length = n) (hn : n % 65536 ≠ 0) :
    triggerEvent n b = eventGap .garnet (missTriggers (n % 65536) { b with
      garnet := { b.garnet with trigExpect := (b.garnet.trigExpect + n) % 65536 }
      ch := { b.ch with agateGarnet := [] } }) := by
  have emptied : b.ch.agateGarnet.drop n = [] := by rw [← hl, List.drop_length]
  have seen : gapSeen n = true := bne_iff_ne.mpr hn
  have kept (x : Block) : onlyChanges [.garnet, .posts, .evr, .topaz, .trace, .out] x (eventGap .garnet (missTriggers (n % 65536) x)) :=
    eventGap_frame (by decide) (missTriggers_frame (by decide) (onlyChanges_refl _ x))
  have channel (x : Block) : (eventGap .garnet (missTriggers (n % 65536) x)).ch.agateGarnet = x.ch.agateGarnet :=
    (congrArg Channels.agateGarnet (kept_ch (kept x) (by decide)) :)
  simp only [triggerEvent, hl, Nat.min_self, emptied, seen, if_true, channel, Block.modCh_ch, Block.modGarnet_ch]
  rfl

theorem triggerEvent_none {b : Block} (h : b.ch.agateGarnet = []) :
    triggerEvent 0 b = b.modGarnet (fun g => { g with trigExpect := g.trigExpect % 65536 }) := by
  have same : { b.ch with agateGarnet := [] } = b.ch := by rw [← h]
  simp only [triggerEvent, Block.modCh, Block.modGarnet, h, same, Nat.zero_min, List.drop_nil, gapSeen_zero, Bool.false_eq_true,
    if_false, Nat.add_zero]

/-- The TRIG entry of the trace: accepted or not, now (12 R342). -/
def logTrigger (k : TrigKind) (ok : Bool) (b : Block) : Block :=
  b.logEvr .garnet 0x03 (leBytes 1 (if k = .pin then 0 else 1) ++ leBytes 1 (bit ok) ++ leBytes 8 b.quartz.tb)

/-- A trigger is latched with the stamp of now (04 R101). -/
def latchTrigger (k : TrigKind) (b : Block) : Block :=
  logTrigger k true (b.modGarnet (fun g => { g with latch := some b.quartz.tb }))

/-- A trigger is refused and counted (04 R105). -/
def refuseTrigger (k : TrigKind) (b : Block) : Block := logTrigger k false (addOverrun 1 b)

theorem latchTrigger_garnet (k : TrigKind) (b : Block) :
    (latchTrigger k b).garnet = { b.garnet with latch := some b.quartz.tb } := Block.logEvr_garnet ..

theorem latchTrigger_agateGarnet (k : TrigKind) (b : Block) : (latchTrigger k b).ch.agateGarnet = b.ch.agateGarnet :=
  Block.logEvr_agateGarnet ..

theorem refuseTrigger_garnet (k : TrigKind) (b : Block) :
    (refuseTrigger k b).garnet = { b.garnet with overrun := min 65535 (b.garnet.overrun + 1) } := Block.logEvr_garnet ..

theorem refuseTrigger_agateGarnet (k : TrigKind) (b : Block) : (refuseTrigger k b).ch.agateGarnet = b.ch.agateGarnet :=
  Block.logEvr_agateGarnet ..

section
variable {b : Block} {k : TrigKind}

theorem acceptTrigger_ignores (h : b.garnet.mode = .continuous ∨ sourceTakes b.garnet.source k = false) :
    acceptTrigger k b = b := by
  rcases h with h | h <;> simp [acceptTrigger, h]

variable (hm : b.garnet.mode = .triggered) (hs : sourceTakes b.garnet.source k = true)
include hm hs

theorem acceptTrigger_refuses_second {x : Nat} (hl : b.garnet.latch = some x) : acceptTrigger k b = refuseTrigger k b := by
  simp [acceptTrigger, hm, hs, hl, refuseTrigger, logTrigger, addOverrun]

variable (hl : b.garnet.latch = none)
include hl

theorem acceptTrigger_latches_noStart (hn : noStart b = true) : acceptTrigger k b = latchTrigger k b := by
  simp [acceptTrigger, hm, hs, hl, hn, latchTrigger, logTrigger]

variable (hn : noStart b = false)
include hn

theorem acceptTrigger_queues (hf : (b.garnet.bound.isSome || b.garnet.hand.isSome) = true) (hp : b.garnet.policy = .queueOne) :
    acceptTrigger k b = latchTrigger k b := by
  simp [acceptTrigger, hm, hs, hl, hn, hf, hp, latchTrigger, logTrigger]

theorem acceptTrigger_refuses_ignore (hf : (b.garnet.bound.isSome || b.garnet.hand.isSome) = true)
    (hp : b.garnet.policy = .ignore) : acceptTrigger k b = refuseTrigger k b := by
  simp [acceptTrigger, hm, hs, hl, hn, hf, hp, refuseTrigger, logTrigger, addOverrun]

variable (hb : b.garnet.bound = none) (hh : b.garnet.hand = none)
include hb hh

theorem acceptTrigger_latches_unmet
    (hc : (!canStart b (triggerBoundary b) || meetsT0 b.garnet || !burstReady b.garnet) = true) :
    acceptTrigger k b = latchTrigger k b := by
  simp only [acceptTrigger, hm, hs, hl, hn, hb, hh, hc, latchTrigger, logTrigger]
  rfl

theorem acceptTrigger_binds
    (hc : (!canStart b (triggerBoundary b) || meetsT0 b.garnet || !burstReady b.garnet) = false) :
    acceptTrigger k b = latchPoint (triggerBoundary b) (some b.quartz.tb) (logTrigger k true b) := by
  simp only [acceptTrigger, hm, hs, hl, hn, hb, hh, hc, logTrigger]
  rfl

end

/-- What a trigger event leaves that Garnet latches or refuses. -/
theorem logTrigger_kept {a b : Block} (k : TrigKind) (ok : Bool) (h : onlyChanges [.garnet, .evr, .ch, .trace] a b) :
    onlyChanges [.garnet, .evr, .ch, .trace] a (logTrigger k ok b) :=
  Block.logEvr_frame (by decide) h

theorem triggerTaken_kept (l : List TrigKind) (b : Block) : onlyChanges [.garnet, .evr, .ch, .trace] b (triggerTaken l b) :=
  upd_ch_frame (ps := [.garnet, .evr, .ch, .trace]) (by decide)
    (upd_garnet_frame (x := { b.garnet with trigExpect := (b.garnet.trigExpect + 1) % 65536 }) (by decide) (onlyChanges_refl _ b))

section
variable {q : List Instr} {b : Block} {lost : Nat} {P : Block → Prop} (ha : b.alive .garnet = true)
  (he : islandEmpty b .garnet = false) (hm : b.beryl.evr.mode ≠ 2)
include ha he hm

theorem exec_triggerEvent {c : Block} (h : triggerEvent lost b = c) : exec (.triggerEvent lost) ⟨q, b⟩ = .next ⟨q, c⟩ :=
  act_liveOr hm (act_served ha he h)

variable {k : TrigKind} {l : List TrigKind} (hk : b.ch.agateGarnet = k :: l)
include hk

theorem completes_triggerEvent {c : Block} (h : acceptTrigger k (triggerTaken l b) = c) (hP : P c) :
    Completes (.triggerEvent 0) ⟨q, b⟩ P :=
  .of_next (exec_triggerEvent ha he hm ((triggerEvent_next hk).trans h)) hP

/-- The next trigger event is latched. -/
theorem completes_triggerEvent_latched (h : acceptTrigger k (triggerTaken l b) = latchTrigger k (triggerTaken l b)) :
    Completes (.triggerEvent 0) ⟨q, b⟩ (fun t =>
      t.garnet = { b.garnet with trigExpect := (b.garnet.trigExpect + 1) % 65536, latch := some b.quartz.tb } ∧
      t.ch.agateGarnet = l ∧ onlyChanges [.garnet, .evr, .ch, .trace] b t) :=
  completes_triggerEvent ha he hm hk h ⟨latchTrigger_garnet .., latchTrigger_agateGarnet ..,
    logTrigger_kept _ _ (Block.modGarnet_frame (by decide) (triggerTaken_kept l b))⟩

/-- The next trigger event is refused and counted. -/
theorem completes_triggerEvent_refused (h : acceptTrigger k (triggerTaken l b) = refuseTrigger k (triggerTaken l b)) :
    Completes (.triggerEvent 0) ⟨q, b⟩ (fun t =>
      t.garnet = { b.garnet with
        trigExpect := (b.garnet.trigExpect + 1) % 65536, overrun := min 65535 (b.garnet.overrun + 1) } ∧
      t.ch.agateGarnet = l ∧ onlyChanges [.garnet, .evr, .ch, .trace] b t) :=
  completes_triggerEvent ha he hm hk h ⟨refuseTrigger_garnet .., refuseTrigger_agateGarnet ..,
    logTrigger_kept _ _ (Block.modGarnet_frame (by decide) (triggerTaken_kept l b))⟩

end

/-! ### Thermal steps and stop requests (15 R409, 10 R281) -/

theorem thermalStep_next {b : Block} {x : Nat} {l : List Nat} (h : b.ch.berylGarnet = x :: l) :
    thermalStep b = { b with
      garnet := { b.garnet with thermal := some x }
      ch := { b.ch with berylGarnet := l } } := by
  rw [thermalStep, h]
  rfl

theorem thermalStep_none {b : Block} (h : b.ch.berylGarnet = []) : thermalStep b = b := by rw [thermalStep, h]

section
variable {b : Block} {r : EndReason} {l : List EndReason} (h : b.ch.stopRequests = r :: l)
include h

theorem stopRequest_first (ht : b.garnet.take.isSome = true) (hr : b.garnet.stopReq = none) :
    stopRequest b = { b with
      garnet := { b.garnet with stopReq := some r }
      ch := { b.ch with stopRequests := l } } := by
  simp only [stopRequest, h, Block.modCh_garnet, ht, hr, Option.isNone_none, Bool.and_true, if_true]
  rfl

theorem stopRequest_taken (hr : b.garnet.take.isNone = true ∨ b.garnet.stopReq.isSome = true) :
    stopRequest b = { b with ch := { b.ch with stopRequests := l } } := by
  have closed : (b.garnet.take.isSome && b.garnet.stopReq.isNone) = false := by
    cases ht : b.garnet.take <;> cases hs : b.garnet.stopReq <;> simp_all
  simp only [stopRequest, h, Block.modCh_garnet, closed, Bool.false_eq_true, if_false]
  rfl

end

theorem stopRequest_none {b : Block} (h : b.ch.stopRequests = []) : stopRequest b = b := by rw [stopRequest, h]

/-! ### The end of capture (14 R394, 15 R412) -/

/-- Opal hears of Frame `frame` that it was cut. -/
def toldTruncated (frame : Nat) (b : Block) : Prop := ∃ o ∈ b.ch.garnetOpal, o.frame = frame ∧ o.outcome = some .truncated

theorem toldTruncated_of_append {frame : Nat} {a b : Block} {l : List GarnetOutcome}
    (h : b.ch.garnetOpal = a.ch.garnetOpal ++ l) (ht : toldTruncated frame a) : toldTruncated frame b := by
  obtain ⟨o, ho, said⟩ := ht
  exact ⟨o, h ▸ List.mem_append_left _ ho, said⟩

theorem truncate_tells (s : Snapshot) (last : Bool) (b : Block) : toldTruncated s.frame (truncate s last b) :=
  ⟨_, List.mem_append_right _ (List.mem_singleton_self _), rfl, rfl⟩

theorem truncate_keeps_told {frame : Nat} (s : Snapshot) (last : Bool) {b : Block} (h : toldTruncated frame b) :
    toldTruncated frame (truncate s last b) :=
  toldTruncated_of_append rfl h

theorem truncate_topazGarnet (s : Snapshot) (last : Bool) (b : Block) :
    (truncate s last b).ch.topazGarnet = b.ch.topazGarnet := rfl

theorem truncate_garnet (s : Snapshot) (last : Bool) (b : Block) : (truncate s last b).garnet = dropDrain s.frame b.garnet := rfl

theorem discSettle_garnet (b : Block) : (discSettle b).garnet = b.garnet :=
  (discSettle_frame (ps := [.disc]) (by decide) (onlyChanges_refl _ b)).at_ .garnet (by decide)

theorem foldl_finishCtrl_garnet {α : Type} (l : List α) (i st f v e : α → Nat) (b : Block) :
    (l.foldl (fun x s => finishCtrl (i s) (st s) (f s) (v s) (e s) x) b).garnet = b.garnet :=
  foldl_keeps (g := Block.garnet) (fun _ _ => finishCtrl_garnet ..) l b

theorem foldl_finishCtrl_kept {α : Type} (l : List α) (i st f v e : α → Nat) (b : Block) :
    onlyChanges [.posts, .evr, .trace, .out] b (l.foldl (fun x s => finishCtrl (i s) (st s) (f s) (v s) (e s) x) b) :=
  onlyChanges_foldl (fun _ _ h => finishCtrl_frame (by decide) h) (onlyChanges_refl _ b)

theorem endTake_garnet (n : Nat) (t : GarnetTake) (b : Block) :
    (endTake n t b).garnet = { b.garnet with take := none, stops := [], stopReq := none } := by
  unfold endTake
  rw [discSettle_garnet, foldl_finishCtrl_garnet]
  cases t.startDesc
  · rfl
  · exact finishCtrl_garnet ..

theorem endTake_ch (n : Nat) (t : GarnetTake) (b : Block) :
    { (endTake n t b).ch with evr := b.ch.evr } = b.ch :=
  kept_ch (endTake_frame (ps := [.disc, .garnet, .posts, .evr, .trace, .out]) (by decide) (onlyChanges_refl _ b)) (by decide)

/-- The START that waits, cancelled. -/
def startCancelled (b : Block) : Block :=
  match b.garnet.start with
  | some w => finishCtrl w.desc stCancelled frameNone 0 0 (b.modGarnet (fun g => { g with start := none }))
  | none => b

theorem startCancelled_garnet (b : Block) : (startCancelled b).garnet = { b.garnet with start := none } := by
  unfold startCancelled
  split
  · exact finishCtrl_garnet ..
  · next h => rw [← h]

theorem startCancelled_ch (b : Block) : { (startCancelled b).ch with evr := b.ch.evr } = b.ch := by
  unfold startCancelled
  split
  · exact kept_ch (finishCtrl_frame (ps := [.garnet, .posts, .evr, .trace, .out]) (by decide)
      (Block.modGarnet_frame (by decide) (onlyChanges_refl _ b))) (by decide)
  · rfl

/-- The open Take ends with `r`, and Opal and Onyx hear its last Frame. -/
def openTakeClosed (r : EndReason) (g : Garnet) (b : Block) : Block :=
  match g.take with
  | some t =>
    sendNotice { frame := g.frameNo, snap := none, takeStart := none
                 takeStop := some (t.takeId, r, if t.captured = 0 then none else some (g.frameNo - 1)) } (endTake b.quartz.tb t b)
  | none => b

theorem openTakeClosed_take {r : EndReason} {g : Garnet} {b : Block} (h : b.garnet.take = g.take) :
    (openTakeClosed r g b).garnet.take = none := by
  unfold openTakeClosed
  split
  · exact (congrArg Garnet.take (endTake_garnet ..) :)
  · next hn => exact h.trans hn

theorem openTakeClosed_start (r : EndReason) (g : Garnet) (b : Block) : (openTakeClosed r g b).garnet.start = b.garnet.start := by
  unfold openTakeClosed
  split
  · exact (congrArg Garnet.start (endTake_garnet ..) :)
  · rfl

theorem openTakeClosed_garnetOpal (r : EndReason) (g : Garnet) (b : Block) :
    (openTakeClosed r g b).ch.garnetOpal = b.ch.garnetOpal := by
  unfold openTakeClosed
  split
  · exact (congrArg Channels.garnetOpal (endTake_ch ..) :)
  · rfl

theorem openTakeClosed_topazGarnet (r : EndReason) (g : Garnet) (b : Block) :
    (openTakeClosed r g b).ch.topazGarnet = b.ch.topazGarnet := by
  unfold openTakeClosed
  split
  · exact (congrArg Channels.topazGarnet (endTake_ch ..) :)
  · rfl

theorem stopCapture_eq (r : EndReason) (b : Block) : stopCapture r b =
    (openTakeClosed r b.garnet (startCancelled b)).modGarnet (fun g => { g with
      hand := none, bound := none, boundReady := false, bc := none, stopped := true, started := false }) := rfl

theorem stopCapture_take (r : EndReason) (b : Block) : (stopCapture r b).garnet.take = none :=
  openTakeClosed_take (congrArg Garnet.take (startCancelled_garnet b) :)

theorem stopCapture_start (r : EndReason) (b : Block) : (stopCapture r b).garnet.start = none :=
  (openTakeClosed_start ..).trans (congrArg Garnet.start (startCancelled_garnet b) :)

theorem stopCapture_garnetOpal (r : EndReason) (b : Block) : (stopCapture r b).ch.garnetOpal = b.ch.garnetOpal :=
  (openTakeClosed_garnetOpal ..).trans (congrArg Channels.garnetOpal (startCancelled_ch b) :)

theorem stopCapture_topazGarnet (r : EndReason) (b : Block) : (stopCapture r b).ch.topazGarnet = b.ch.topazGarnet :=
  (openTakeClosed_topazGarnet ..).trans (congrArg Channels.topazGarnet (startCancelled_ch b) :)

theorem stopCapture_keeps_told {r : EndReason} {frame : Nat} {b : Block} (h : toldTruncated frame b) :
    toldTruncated frame (stopCapture r b) :=
  toldTruncated_of_append ((stopCapture_garnetOpal r b).trans (List.append_nil _).symm) h

/-- The Frame of a Hand in progress is cut. -/
def handCut (last : Hand → Bool) (h : Option Hand) (b : Block) : Block :=
  match h with
  | some h => truncate h.snap (last h) b
  | none => b

/-- A bound Frame is cut. -/
def boundCut (last : Snapshot → Bool) (s : Option Snapshot) (b : Block) : Block :=
  match s with
  | some s => truncate s (last s) b
  | none => b

theorem handCut_topazGarnet (last : Hand → Bool) (h : Option Hand) (b : Block) :
    (handCut last h b).ch.topazGarnet = b.ch.topazGarnet := by
  cases h <;> rfl

theorem boundCut_topazGarnet (last : Snapshot → Bool) (s : Option Snapshot) (b : Block) :
    (boundCut last s b).ch.topazGarnet = b.ch.topazGarnet := by
  cases s <;> rfl

theorem handCut_tells {last : Hand → Bool} {h : Hand} {o : Option Hand} (ho : o = some h) (b : Block) :
    toldTruncated h.snap.frame (handCut last o b) :=
  ho ▸ truncate_tells ..

theorem boundCut_tells {last : Snapshot → Bool} {s : Snapshot} {o : Option Snapshot} (ho : o = some s) (b : Block) :
    toldTruncated s.frame (boundCut last o b) :=
  ho ▸ truncate_tells ..

theorem boundCut_keeps_told {frame : Nat} (last : Snapshot → Bool) (s : Option Snapshot) {b : Block}
    (h : toldTruncated frame b) : toldTruncated frame (boundCut last s b) := by
  cases s
  · exact h
  · exact truncate_keeps_told _ _ h

/-- What is left of capture at a power loss: the Frames in progress and bound cut, then everything stopped. -/
def lossStop (b : Block) : Block :=
  stopCapture .powerLoss (boundCut (fun s => b.garnet.take.isSome && s.take.isSome) b.garnet.bound
    (handCut (fun h => b.garnet.bound.isNone && b.garnet.take.isSome && h.snap.take.isSome) b.garnet.hand b))

section
variable {b : Block} {ms : Nat} {l : List TopazEvent} (h : b.ch.topazGarnet = .loss ms :: l)
include h

theorem powerLossStop_stops (hs : b.garnet.stopped = false) :
    powerLossStop b = lossStop (b.modCh (fun c => { c with topazGarnet := l })) := by
  unfold powerLossStop
  rw [h]
  exact if_neg (by rw [Block.modCh_garnet, hs]; exact Bool.false_ne_true)

theorem powerLossStop_again (hs : b.garnet.stopped = true) :
    powerLossStop b = { b with ch := { b.ch with topazGarnet := l } } := by
  unfold powerLossStop
  rw [h]
  exact if_pos hs

end

theorem powerLossStop_none {b : Block} (h : ∀ ms, b.ch.topazGarnet.head? ≠ some (.loss ms)) : powerLossStop b = b := by
  unfold powerLossStop
  split
  · next ms rest hc => exact absurd (by rw [hc]; rfl) (h ms)
  · rfl

/-- The mark of a shutdown is set; STARTs and STOPs that wait are Garnet's no more (15 R412). -/
def shutdownMarked (l : List TopazEvent) (b : Block) : Block :=
  { b with
    garnet := { b.garnet with shutdown := true, start := none, stops := [] }
    ch := { b.ch with topazGarnet := l } }

/-- Of the START and the STOPs that waited, each completes CANCELLED. -/
def waitersCancelled (start : Option WaitingStart) (stops : List WaitingStop) (b : Block) : Block :=
  stops.foldl (fun b s => finishCtrl s.desc stCancelled frameNone 0 0 b)
    (match start with | some w => finishCtrl w.desc stCancelled frameNone 0 0 b | none => b)

theorem waitersCancelled_kept (start : Option WaitingStart) (stops : List WaitingStop) (b : Block) :
    onlyChanges [.posts, .evr, .trace, .out] b (waitersCancelled start stops b) := by
  refine onlyChanges_trans ?_ (foldl_finishCtrl_kept ..)
  cases start
  · exact onlyChanges_refl _ b
  · exact finishCtrl_kept ..

theorem waitersCancelled_garnet (start : Option WaitingStart) (stops : List WaitingStop) (b : Block) :
    (waitersCancelled start stops b).garnet = b.garnet :=
  (waitersCancelled_kept start stops b).at_ .garnet (by decide)

section
variable {b : Block} {l : List TopazEvent} (h : b.ch.topazGarnet = .shutdown :: l)
include h

theorem garnetShutdown_stops (hs : b.garnet.shutdown = false) :
    garnetShutdown b = dropBound (waitersCancelled b.garnet.start b.garnet.stops (shutdownMarked l b)) := by
  unfold garnetShutdown
  rw [h]
  exact if_neg (by rw [Block.modCh_garnet, hs]; exact Bool.false_ne_true)

theorem garnetShutdown_again (hs : b.garnet.shutdown = true) :
    garnetShutdown b = { b with ch := { b.ch with topazGarnet := l } } := by
  unfold garnetShutdown
  rw [h]
  exact if_pos hs

end

theorem garnetShutdown_none {b : Block} (h : b.ch.topazGarnet.head? ≠ some .shutdown) : garnetShutdown b = b := by
  unfold garnetShutdown
  split
  · next rest hc => exact absurd (by rw [hc]; rfl) h
  · rfl

theorem dropBound_of_none {b : Block} (h : b.garnet.bound = none) : dropBound b = b := by
  unfold dropBound
  rw [h]

/-- With no Frame bound a shutdown cancels what waits and no more. -/
theorem garnetShutdown_unbound {b : Block} {l : List TopazEvent} (h : b.ch.topazGarnet = .shutdown :: l)
    (hs : b.garnet.shutdown = false) (hb : b.garnet.bound = none) :
    garnetShutdown b = waitersCancelled b.garnet.start b.garnet.stops (shutdownMarked l b) := by
  rw [garnetShutdown_stops h hs]
  exact dropBound_of_none ((congrArg Garnet.bound (waitersCancelled_garnet ..)).trans hb)

/-- The bound Frame is cut before it starts. -/
def boundDropped (s : Snapshot) (b : Block) : Block :=
  (truncate s false b).modGarnet (fun g => { g with bound := none, boundReady := false })

theorem boundDropped_garnet (s : Snapshot) (b : Block) :
    (boundDropped s b).garnet = { dropDrain s.frame b.garnet with bound := none, boundReady := false } := rfl

/-- The open Take ends with the Frame before the one that is dropped. -/
def takeDropped (s : Snapshot) (b : Block) : Block :=
  match b.garnet.take with
  | some t =>
    sendNotice { frame := b.garnet.frameNo, snap := none, takeStart := none
                 takeStop := some (t.takeId, .shutdown, if t.captured ≤ 1 then none else some (s.frame - 1)) }
      (endTake b.quartz.tb t b)
  | none => b

theorem dropBound_of_bound {b : Block} {s : Snapshot} (h : b.garnet.bound = some s) :
    dropBound b = takeDropped s (boundDropped s b) := by
  unfold dropBound
  rw [h]
  rfl

/-- Of Garnet, the end of the Take changes what waits for it alone. -/
theorem takeDropped_garnet (s : Snapshot) {b : Block} (hs : b.garnet.stops = []) :
    ∃ r, (takeDropped s b).garnet = { b.garnet with take := none, stops := [], stopReq := r } := by
  unfold takeDropped
  split
  · exact ⟨none, endTake_garnet ..⟩
  · next h => exact ⟨b.garnet.stopReq, by rw [← h, ← hs]⟩

theorem takeDropped_garnetOpal (s : Snapshot) (b : Block) : (takeDropped s b).ch.garnetOpal = b.ch.garnetOpal := by
  unfold takeDropped
  split
  · exact (congrArg Channels.garnetOpal (endTake_ch ..) :)
  · rfl

theorem takeDropped_topazGarnet (s : Snapshot) (b : Block) : (takeDropped s b).ch.topazGarnet = b.ch.topazGarnet := by
  unfold takeDropped
  split
  · exact (congrArg Channels.topazGarnet (endTake_ch ..) :)
  · rfl

end Sys2Proof.Machine

section
open Sys2Proof Sys2Proof.Machine

/-- Settles O17: one lemma for each outcome of the checks of TRIGGER and of a trigger event; power loss and shutdown cut the
Frames at Garnet, then end what is open. -/
theorem triggersStepsAndStopsReachGarnet : Obligations.TriggersStepsAndStopsReachGarnet := by
  refine ⟨?stages, ?again, ?badMode, ?badPolicy, ?badSource, ?ignored, ?second, ?noStart, ?queues, ?refuses, ?unmet, ?binds, ?gap,
    ?noEvent, ?step, ?noStep, ?stopFirst, ?stopTaken, ?noStop, ?loss, ?lossAgain, ?noLoss, ?shutStart, ?shutUnbound, ?shutBound,
    ?shutAgain, ?noShut, ?triggers, ?events, ?eventsFail, ?eventsIdle, ?eventsReplay, ?steps, ?stepsFail, ?stepsIdle, ?stops,
    ?stopsFail, ?stopsIdle, ?losses, ?lossesFail, ?lossesIdle, ?shuts, ?shutsFail, ?shutsIdle⟩
  case stages => exact fun q b i d ha hd hm hp hs hn => act_gated ha (trigger_stages hd hm hp hs hn)
  case again => exact fun q b i d ha hd hm hp hs hn => act_gated ha (trigger_again hd hm hp hs hn)
  case badMode => exact fun q b i d ha hd hm => act_gated ha (trigger_badMode hd hm)
  case badPolicy => exact fun q b i d ha hd hm hp => act_gated ha (trigger_badPolicy hd hm hp)
  case badSource => exact fun q b i d ha hd hm hp hs => act_gated ha (trigger_badSource hd hm hp hs)
  case ignored =>
    intro q b k l ha he hm hk h
    exact completes_triggerEvent ha he hm hk (acceptTrigger_ignores h) ⟨rfl, rfl, triggerTaken_kept l b⟩
  case second =>
    intro q b k l x ha he hm hk hmode hs hl
    exact completes_triggerEvent_refused ha he hm hk (acceptTrigger_refuses_second hmode hs hl)
  case noStart =>
    intro q b k l ha he hm hk hmode hs hl hn
    exact completes_triggerEvent_latched ha he hm hk (acceptTrigger_latches_noStart hmode hs hl hn)
  case queues =>
    intro q b k l ha he hm hk hmode hs hl hn hf hp
    exact completes_triggerEvent_latched ha he hm hk (acceptTrigger_queues hmode hs hl hn hf hp)
  case refuses =>
    intro q b k l ha he hm hk hmode hs hl hn hf hp
    exact completes_triggerEvent_refused ha he hm hk (acceptTrigger_refuses_ignore hmode hs hl hn hf hp)
  case unmet =>
    intro q b k l ha he hm hk hmode hs hl hn hb hh hc
    exact completes_triggerEvent_latched ha he hm hk (acceptTrigger_latches_unmet hmode hs hl hn hb hh hc)
  case binds =>
    intro q b k l ha he hm hk hmode hs hl hn hb hh hc
    exact exec_triggerEvent ha he hm ((triggerEvent_next hk).trans (acceptTrigger_binds hmode hs hl hn hb hh hc))
  case gap => exact fun q b n ha he hm hl hn => exec_triggerEvent ha he hm (triggerEvent_gap hl hn)
  case noEvent =>
    intro q b ha he hm h
    exact .of_next (exec_triggerEvent ha he hm (triggerEvent_none h)) ⟨rfl, Block.modGarnet_frame (by decide) (onlyChanges_refl _ b)⟩
  case step => exact fun q b x l ha he h => act_served ha he (thermalStep_next h)
  case noStep => exact fun q b ha he h => act_served ha he (thermalStep_none h)
  case stopFirst => exact fun q b r l ha h ht hr => act_heeded ha (stopRequest_first h ht hr)
  case stopTaken => exact fun q b r l ha h hr => act_heeded ha (stopRequest_taken h hr)
  case noStop => exact fun q b ha h => act_heeded ha (stopRequest_none h)
  case loss =>
    intro q b ms l ha h hs
    have stops := powerLossStop_stops h hs
    refine .of_next (act_heeded ha stops) ⟨rfl, rfl, rfl, rfl, stopCapture_take .., stopCapture_start .., ?_, fun x hx => ?_,
      fun s hx => ?_, stops ▸ powerLossStop_frame (by decide) (onlyChanges_refl _ b)⟩
    · exact (stopCapture_topazGarnet ..).trans ((boundCut_topazGarnet ..).trans (handCut_topazGarnet ..))
    · exact stopCapture_keeps_told (boundCut_keeps_told _ _ (handCut_tells hx _))
    · exact stopCapture_keeps_told (boundCut_tells hx _)
  case lossAgain => exact fun q b ms l ha h hs => act_heeded ha (powerLossStop_again h hs)
  case noLoss => exact fun q b ha h => act_heeded ha (powerLossStop_none h)
  case shutStart =>
    intro q b l w ha h hs hb hw
    refine act_heeded ha ((garnetShutdown_unbound h hs hb).trans ?_)
    rw [hw]
    rfl
  case shutUnbound =>
    intro q b l ha h hs hb hw
    refine act_heeded ha ((garnetShutdown_unbound h hs hb).trans ?_)
    rw [hw]
    rfl
  case shutBound =>
    intro q b l s ha h hs hb
    have bound := (congrArg Garnet.bound (waitersCancelled_garnet b.garnet.start b.garnet.stops (shutdownMarked l b))).trans hb
    have stops := (garnetShutdown_stops h hs).trans (dropBound_of_bound bound)
    have dropped : (boundDropped s (waitersCancelled b.garnet.start b.garnet.stops (shutdownMarked l b))).garnet =
        { dropDrain s.frame (shutdownMarked l b).garnet with bound := none, boundReady := false } := by
      rw [boundDropped_garnet, waitersCancelled_garnet]
    obtain ⟨r, ended⟩ := takeDropped_garnet s (congrArg Garnet.stops dropped)
    rw [dropped] at ended
    refine .of_next (act_heeded ha stops) ⟨?_, ?_, ?_, ?_, ?_, ?_, ?_, ?_,
      stops ▸ garnetShutdown_frame (by decide) (onlyChanges_refl _ b)⟩
    · rw [ended]; rfl
    · rw [ended]; rfl
    · rw [ended]
    · rw [ended]
    · rw [ended]
    · rw [ended]; rfl
    · exact (takeDropped_topazGarnet ..).trans
        (congrArg Channels.topazGarnet (kept_ch (waitersCancelled_kept b.garnet.start b.garnet.stops (shutdownMarked l b)) (by decide)) :)
    · exact toldTruncated_of_append ((takeDropped_garnetOpal ..).trans (List.append_nil _).symm) (truncate_tells s false _)
  case shutAgain => exact fun q b l ha h hs => act_heeded ha (garnetShutdown_again h hs)
  case noShut => exact fun q b ha h => act_heeded ha (garnetShutdown_none h)
  case triggers => exact fun q b desc ha => ⟨act_gated ha rfl, trigger_frame (by decide) (onlyChanges_refl _ b)⟩
  case events =>
    exact fun q b lost hm ha he => ⟨exec_triggerEvent ha he hm rfl, triggerEvent_frame (by decide) (onlyChanges_refl _ b)⟩
  case eventsFail => exact fun q b lost hm hf => act_liveOr hm (act_served_failing hf rfl)
  case eventsIdle => exact fun q b lost hm hf h => act_liveOr hm (act_served_idle hf h)
  case eventsReplay => exact fun q b lost hm => act_liveOr_replay hm rfl
  case steps => exact fun q b ha he => ⟨act_served ha he rfl, thermalStep_frame (by decide) (onlyChanges_refl _ b)⟩
  case stepsFail => exact fun q b hf => act_served_failing hf rfl
  case stepsIdle => exact fun q b hf h => act_served_idle hf h
  case stops => exact fun q b ha => ⟨act_heeded ha rfl, stopRequest_frame (by decide) (onlyChanges_refl _ b)⟩
  case stopsFail => exact fun q b hf => act_heeded_failing hf rfl
  case stopsIdle => exact fun q b ha hf => act_heeded_idle ha hf
  case losses => exact fun q b ha => ⟨act_heeded ha rfl, powerLossStop_frame (by decide) (onlyChanges_refl _ b)⟩
  case lossesFail => exact fun q b hf => act_heeded_failing hf rfl
  case lossesIdle => exact fun q b ha hf => act_heeded_idle ha hf
  case shuts => exact fun q b ha => ⟨act_heeded ha rfl, garnetShutdown_frame (by decide) (onlyChanges_refl _ b)⟩
  case shutsFail => exact fun q b hf => act_heeded_failing hf rfl
  case shutsIdle => exact fun q b ha hf => act_heeded_idle ha hf

end
end

section
/-! O18: the events from Quartz at Garnet: Sub-frames on CAD0, periods and Hands on CAD1, and what their loss leaves (02 R38,
R48, 03 R63, R74, R76, 04 R87, R90, 12 R324, R330). -/

-- The proofs are elaborated one after another: each waiting in a thread of its own takes more memory than the check allows.
set_option Elab.async false

namespace Sys2Proof.Machine

/-! ### What a latch point leaves of the count of Sub-frames and of the events to come -/

/-- Garnet's count of CAD0 events and the events that wait for it. -/
def Block.cadenceSide (b : Block) : Nat × List CadMsg := (b.garnet.j, b.ch.quartzGarnet)

theorem finishCtrl_cadenceSide (i st f v e : Nat) (b : Block) : (finishCtrl i st f v e b).cadenceSide = b.cadenceSide := by
  simp only [Block.cadenceSide, finishCtrl_garnet, finishCtrl_quartzGarnet]

theorem mergeProgram_cadenceSide (n : Nat) (b : Block) : (mergeProgram n b).cadenceSide = b.cadenceSide := by
  unfold mergeProgram
  split
  · rfl
  split
  · rfl
  have superseded (l : List StagedProgram) (x : Block) :
      (l.foldl (fun b o => finishCtrl o.desc stSuperseded frameNone 0 0 b) x).cadenceSide = x.cadenceSide :=
    foldl_keeps (fun _ _ => finishCtrl_cadenceSide ..) l x
  dsimp only
  split
  · exact (finishCtrl_cadenceSide ..).trans (superseded ..)
  · exact (finishCtrl_cadenceSide ..).trans (superseded ..)

theorem mergeThermal_cadenceSide (b : Block) : (mergeThermal b).cadenceSide = b.cadenceSide := by
  unfold mergeThermal
  split <;> rfl

theorem endTake_cadenceSide (n : Nat) (t : GarnetTake) (b : Block) : (endTake n t b).cadenceSide = b.cadenceSide := by
  have events : (endTake n t b).ch.quartzGarnet = b.ch.quartzGarnet := (congrArg Channels.quartzGarnet (endTake_ch n t b) :)
  rw [Block.cadenceSide, endTake_garnet, events]
  rfl

theorem discTakeStart_cadenceSide (b : Block) : (discTakeStart b).cadenceSide = b.cadenceSide := by
  have kept := discTakeStart_frame (ps := [.disc]) (by decide) (onlyChanges_refl _ b)
  have garnet : (discTakeStart b).garnet = b.garnet := kept.at_ .garnet (by decide)
  have channels : (discTakeStart b).ch = b.ch := ch_of_kept kept (by decide) (by decide)
  rw [Block.cadenceSide, garnet, channels]
  rfl

theorem mergeTake_cadenceSide (n : Nat) (b : Block) : (mergeTake n b).1.cadenceSide = b.cadenceSide := by
  unfold mergeTake
  dsimp only
  split
  · split
    · exact endTake_cadenceSide ..
    · rfl
  · split
    · split
      · exact discTakeStart_cadenceSide ..
      · rfl
    · rfl

theorem completeStart_cadenceSide (b : Block) : (completeStart b).cadenceSide = b.cadenceSide := by
  unfold completeStart
  split
  · split
    · exact finishCtrl_cadenceSide ..
    · rfl
  · rfl

theorem mergeTrigger_cadenceSide (b : Block) : (mergeTrigger b).cadenceSide = b.cadenceSide := by
  unfold mergeTrigger
  refine (foldl_keeps (g := Block.cadenceSide) (fun x t => ?_) b.garnet.stagedTrigger _).trans rfl
  rw [finishCtrl_cadenceSide]
  rfl

theorem bindFrame_cadenceSide (n : Nat) (p : FrameProgram) (trig : Option Nat) (b : Block) :
    (bindFrame n p trig b).1.cadenceSide = b.cadenceSide := by
  unfold bindFrame
  dsimp only
  split
  · exact finishCtrl_cadenceSide ..
  · rfl

theorem logBoundary_cadenceSide (frame : Nat) (bound : Option FrameProgram) (start stop trig : Bool) (b : Block) :
    (logBoundary frame bound start stop trig b).cadenceSide = b.cadenceSide := by
  simp only [Block.cadenceSide, logBoundary, Block.logEvr_garnet, Block.logEvr_quartzGarnet]

theorem sendNotice_cadenceSide (x : LatchNotice) (b : Block) : (sendNotice x b).cadenceSide = b.cadenceSide := rfl

/-- The work before a Frame is bound. -/
theorem merged_cadenceSide (n : Nat) (b : Block) :
    (completeStart (mergeTrigger (mergeTake n (mergeThermal (mergeProgram n (applyUnloads b)))).1)).cadenceSide =
      b.cadenceSide := by
  rw [completeStart_cadenceSide, mergeTrigger_cadenceSide, mergeTake_cadenceSide, mergeThermal_cadenceSide,
    mergeProgram_cadenceSide]
  rfl

theorem mergeAndBind_cadenceSide (n : Nat) (trig : Option Nat) (b : Block) :
    (mergeAndBind n trig b).cadenceSide = b.cadenceSide := by
  refine Eq.trans ?_ (merged_cadenceSide n b)
  unfold mergeAndBind
  dsimp only
  generalize completeStart _ = x
  split
  · split
    · refine (sendNotice_cadenceSide ..).trans ((bindFrame_cadenceSide ..).trans ((logBoundary_cadenceSide ..).trans ?_))
      split <;> rfl
    · refine (sendNotice_cadenceSide ..).trans ((logBoundary_cadenceSide ..).trans ?_)
      split <;> rfl
  · exact (sendNotice_cadenceSide ..).trans (logBoundary_cadenceSide ..)

theorem latchPoint_cadenceSide (n : Nat) (trig : Option Nat) (b : Block) :
    (latchPoint n trig b).cadenceSide = b.cadenceSide :=
  mergeAndBind_cadenceSide n trig b

/-! ### A Sub-frame (02 R38, 03 R63, R75) -/

/-- The boundary of the period in progress. -/
def comingBoundary (g : Garnet) : Nat := match g.cad with | some (s, _, l, _) => s + l | none => 0

/-- Garnet before the broadcast: at the last Sub-frame before a boundary other than t0 the latch point has gone by. -/
def subReady (last : Bool) (b : Block) : Block :=
  if last && b.garnet.t0In != 1 then
    (if b.garnet.bound.isNone then latchPoint (comingBoundary b.garnet) none b else b).modGarnet (fun g =>
      { g with boundReady := g.bound.isSome })
  else b

/-- The Slots that the Hand after this Sub-frame opens. -/
def nextSlots (latches : Bool) (g : Garnet) : List Nat :=
  if latches then (match g.bound with | some s => openBefore s | none => []) else []

/-- What Garnet broadcasts for a Sub-frame. -/
def subBroadcast (last : Bool) (next : List Nat) (g : Garnet) : Broadcast :=
  match g.hand with
  | some h => handBroadcast h.snap h.h h.i g.lastForce next
  | none => { idleBroadcast with
      force := last && (g.boundReady || g.inBridge), prevForce := g.lastForce
      barrier := match g.applied with | some p => p.barrier | none => 6144
      open_ := slotFlags next }

/-- The array at the start of a Sub-frame: a Hand that begins with it takes up its offsets (02 R48). -/
def subArray (g : Garnet) : PixelArray :=
  if g.hand.any (fun h => h.i == 0) then arrayAll clusterHandStart g.array else g.array

/-- Garnet once a Sub-frame with this broadcast has run over the scene. -/
def subRun (stamp : Nat) (bc : Broadcast) (scene : Scene) (g : Garnet) : Garnet :=
  { g with
    bc := some bc, lastSf := stamp, lastForce := bc.force
    hand := g.hand.map (fun h =>
      { h with
        snap := { h.snap with planes := measurePlanes h.snap h.h h.i (stamp - g.lastSf) }
        i := h.i + 1, lastStamp := stamp, profile := profileSum bc scene (subArray g) :: h.profile })
    array := arrayMap (fun i c => (clusterSubFrame bc i c).1) scene (subArray g) }

theorem startSub_eq (stamp : Nat) (last : Bool) (scene : Scene) {b : Block} (h : b.garnet.bc = none) :
    startSub stamp last scene b = (subReady last b).modGarnet (fun g =>
      subRun stamp (subBroadcast last (nextSlots (last && b.garnet.t0In != 1) g) g) scene g) := by
  have ended : finishSub b = b := by rw [finishSub, h]
  unfold startSub
  rw [ended]
  extract_lets sub g boundary latches merged ready g' next bar base bc begun run
  have hready : ready = subReady last b := by
    show (if latches = true then Block.modGarnet (if (latches && g.bound.isNone) = true then _ else b) _ else
      if (latches && g.bound.isNone) = true then _ else b) = if latches = true then _ else b
    cases latches <;> rfl
  clear_value ready
  subst hready
  have hbegun : begun = (subReady last b).modGarnet (fun g => { g with array := subArray g }) := by
    show (if g'.hand.any (fun h => h.i == 0) = true then Block.modGarnet (subReady last b) _ else subReady last b) = _
    by_cases hs : (subReady last b).garnet.hand.any (fun h => h.i == 0) = true
    · rw [if_pos hs]
      simp only [subArray, Block.modGarnet, hs, if_true]
    · rw [if_neg hs]
      simp only [subArray, Block.modGarnet, hs, Bool.false_eq_true, if_false]
  show (begun.modGarnet _).modGarnet _ = _
  rw [hbegun]
  rfl

theorem subReady_within (b : Block) : subReady false b = b := rfl

theorem subRun_arrays (stamp : Nat) (bc : Broadcast) (scene : Scene) {g : Garnet} (h : g.hand = none) :
    (subRun stamp bc scene g).array = arrayMap (fun i c => (clusterSubFrame bc i c).1) scene g.array := by
  simp only [subRun, subArray, h, Option.any_none, Bool.false_eq_true, if_false]

theorem subReady_cadenceSide (last : Bool) (b : Block) : (subReady last b).cadenceSide = b.cadenceSide := by
  unfold subReady
  split
  · split
    · exact latchPoint_cadenceSide ..
    · rfl
  · rfl

theorem subReady_boundReady {b : Block} (h : b.garnet.t0In ≠ 1) :
    (subReady true b).garnet.boundReady = (subReady true b).garnet.bound.isSome := by
  unfold subReady
  rw [if_pos (by rw [Bool.true_and]; exact bne_iff_ne.mpr h)]
  rfl

/-! ### CAD0 events (03 R63, R74) -/

/-- Garnet has taken one event of Quartz and counted it (01 R16). -/
def eventTaken (rest : List CadMsg) (b : Block) : Block :=
  { b with
    garnet := { b.garnet with evExpect := (b.garnet.evExpect + 1) % 65536 }
    ch := { b.ch with quartzGarnet := rest } }

theorem count_one (n : Nat) : ((n + 0) % 65536 + 1) % 65536 = (n + 1) % 65536 := by omega

theorem subFrameStart_cad0 {b : Block} {t0 t0In : Nat} {u v : Bool} {rest : List CadMsg}
    (h : b.ch.quartzGarnet = .cad0 t0 u v t0In :: rest) (x : Scene) :
    subFrameStart x 0 b = takeCad0 t0 u v t0In x (eventTaken rest b) := by
  simp only [subFrameStart, Block.modCh, Block.modGarnet, h, List.drop_zero, List.take_zero, List.length_nil, gapSeen_zero,
    Bool.false_eq_true, if_false, count_one, eventTaken]

/-- Garnet has seen a CAD0 event. -/
def cad0Seen (t0 : Nat) (u v : Bool) (t0In : Nat) (rest : List CadMsg) (b : Block) : Block :=
  (eventTaken rest b).modGarnet (seeCad0 t0 u v t0In)

section
variable {b : Block} (hstart : b.garnet.started = true)
include hstart

/-- Where D does not divide the number of the event, it is counted and no more. -/
theorem takeCad0_between (hd : b.garnet.j % max 1 b.garnet.d ≠ 0) (t0 t0In : Nat) (u v : Bool) (x : Scene) :
    takeCad0 t0 u v t0In x b = b.modGarnet (seeCad0 t0 u v t0In) := by
  have undivided : (b.garnet.j % max 1 b.garnet.d != 0) = true := bne_iff_ne.mpr hd
  unfold takeCad0
  dsimp only
  refine (ite_congr rfl (fun _ => rfl) (fun _ => ?_)).trans (ite_self _)
  simp only [hstart, if_true, undivided]

variable {s g l c : Nat} (hcad : b.garnet.cad = some (s, g, l, c)) (hstop : b.garnet.stopped = false) (hcommit : b.committed .garnet = true) (hm : b.beryl.evr.mode ≠ 2)
  (hbridge : b.garnet.inBridge = false) (hd : b.garnet.j % max 1 b.garnet.d = 0)
include hcad hstop hcommit hm hbridge hd

theorem takeCad0_starts (t0 t0In : Nat) (u v : Bool) (x : Scene) :
    takeCad0 t0 u v t0In x b =
      startSub t0 (decide (g ≤ b.garnet.j + b.garnet.d)) x (b.modGarnet (seeCad0 t0 u v t0In)) := by
  have runs : (b.garnet.cad.isNone || b.garnet.stopped || b.beryl.evr.mode == 2 || !b.committed .garnet) = false := by
    rw [hcad, hstop, hcommit, beq_eq_false_iff_ne.mpr hm]
    rfl
  have divided : (b.garnet.j % max 1 b.garnet.d != 0) = false := by rw [hd]; rfl
  unfold takeCad0
  dsimp only
  refine (if_neg (Bool.eq_false_iff.mp runs)).trans ?_
  simp only [hstart, if_true, divided, Bool.false_eq_true, if_false, hbridge, hcad]

end

/-! ### CAD1 events (04 R87, R90, 03 R76) -/

theorem subFrameStart_cad1 {b : Block} {t0 g l c : Nat} {r : TimeRecord} (h : b.ch.quartzGarnet = [.cad1 t0 g l c r]) (x : Scene) :
    subFrameStart x 0 b = takeCad1 t0 g l c r (eventTaken [] b) := by
  simp only [subFrameStart, Block.modCh, Block.modGarnet, h, List.drop_zero, List.take_zero, List.length_nil, gapSeen_zero,
    Bool.false_eq_true, if_false, count_one, eventTaken]

section
variable {b : Block} (hbc : b.garnet.bc = none) (t0 g l c : Nat) (r : TimeRecord)
include hbc

theorem takeCad1_opens (hb : b.garnet.bound = none) : takeCad1 t0 g l c r b = b.modGarnet (openPeriod t0 g l c) := by
  have ended : finishSub b = b := by rw [finishSub, hbc]
  have unbound : (openPeriod t0 g l c b.garnet).bound = none := hb
  simp only [takeCad1, ended, Block.modGarnet_garnet, unbound]

/-- A ready Frame whose program fits the cadence starts, unless a bridge begins (04 R91, R505). -/
theorem takeCad1_starts {s : Snapshot} (hb : b.garnet.bound = some s) (hr : b.garnet.boundReady = true) (ht : b.garnet.t0In ≠ 1)
    (hf : programFit b.quartz.cap s.prog = none) :
    takeCad1 t0 g l c r b = startHand s t0 g l c r (b.modGarnet (openPeriod t0 g l c)) := by
  have ended : finishSub b = b := by rw [finishSub, hbc]
  have bound : (openPeriod t0 g l c b.garnet).bound = some s := hb
  have ready : (openPeriod t0 g l c b.garnet).boundReady = true := hr
  have period : (openPeriod t0 g l c b.garnet).inBridge = false := by
    simp only [openPeriod, beq_eq_false_iff_ne.mpr ht, Bool.false_and]
  simp only [takeCad1, ended, Block.modGarnet_garnet, Block.modGarnet_quartz, bound, ready, period, hf, Bool.not_true,
    Bool.or_false, Option.isSome_none, Bool.false_eq_true, if_false]

end

theorem openPeriod_h_same {y : Garnet} {c : Nat} (hc : y.cad.map (fun z => z.2.2.2) = some c) (ht : y.t0In ≠ 1) (t0 g l : Nat) :
    (openPeriod t0 g l c y).h = y.h + 1 := by
  obtain ⟨z, hz, rfl⟩ := Option.map_eq_some_iff.mp hc
  simp [openPeriod, hz, ht]

theorem openPeriod_h_new {y : Garnet} {c : Nat} (hc : y.cad.map (fun z => z.2.2.2) ≠ some c) (t0 g l : Nat) :
    (openPeriod t0 g l c y).h = 0 := by
  cases hz : y.cad with
  | none => simp [openPeriod, hz]
  | some z =>
    have other : z.2.2.2 ≠ c := fun e => hc (by rw [hz, Option.map_some, e])
    simp [openPeriod, hz, other]

theorem sendHeader_garnet (s : Snapshot) (b : Block) : (sendHeader s b).garnet = b.garnet := rfl

theorem sendHeader_quartzGarnet (s : Snapshot) (b : Block) : (sendHeader s b).ch.quartzGarnet = b.ch.quartzGarnet := rfl

theorem tellOutcome_if_garnet (c : Bool) (s : Snapshot) (o : DestOutcome) (m : BitVec 16) (f : Bool) (b : Block) :
    (if c = true then tellOutcome s o m f b else b).garnet = b.garnet := by
  cases c <;> rfl

theorem tellOutcome_if_quartzGarnet (c : Bool) (s : Snapshot) (o : DestOutcome) (m : BitVec 16) (f : Bool) (b : Block) :
    (if c = true then tellOutcome s o m f b else b).ch.quartzGarnet = b.ch.quartzGarnet := by
  cases c <;> rfl

/-- A Hand has its Frame, the stamp, length and grid of its period, and starts at Sub-frame 0. -/
theorem startHand_garnet (s : Snapshot) (t0 g l c : Nat) (r : TimeRecord) (b : Block) :
    (startHand s t0 g l c r b).garnet.bound = none ∧ (startHand s t0 g l c r b).garnet.boundReady = false ∧
      (startHand s t0 g l c r b).garnet.j = b.garnet.j ∧
      (startHand s t0 g l c r b).garnet.hand.map (fun y => (y.snap.frame, y.snap.cad1Stamp, y.snap.l, y.snap.g, y.i)) =
        some (s.frame, t0, l, g, 0) := by
  unfold startHand
  dsimp only
  rw [sendHeader_garnet, tellOutcome_if_garnet]
  exact ⟨rfl, rfl, rfl, rfl⟩

theorem startHand_quartzGarnet (s : Snapshot) (t0 g l c : Nat) (r : TimeRecord) (b : Block) :
    (startHand s t0 g l c r b).ch.quartzGarnet = b.ch.quartzGarnet := by
  unfold startHand
  dsimp only
  rw [sendHeader_quartzGarnet, tellOutcome_if_quartzGarnet]
  rfl

/-! ### Lost events (12 R330) -/

theorem gapFails_gaps (sink : Island) (frame : Nat) (b : Block) :
    (gapFails sink frame b).topaz.gaps = min 65535 (b.topaz.gaps + 1) := by
  have posted (x : Block) (a : Nat) : (postFault sink 3 a frame x).topaz = x.topaz :=
    (postFault_frame (ps := [.posts, .evr, .trace, .out]) (by decide) (onlyChanges_refl _ x)).at_ .topaz (by decide)
  exact congrArg Topaz.gaps (posted (b.modTopaz (fun t => { t with gaps := satAdd 65535 t.gaps 1 })) _)

theorem gapFails_kept (sink : Island) (frame : Nat) (b : Block) :
    onlyChanges [.posts, .evr, .topaz, .trace, .out] b (gapFails sink frame b) :=
  gapFails_frame (by decide) (onlyChanges_refl _ b)

/-- A Frame that a gap fails is told with TIMING. -/
def timingFails (s : Snapshot) (b : Block) : Block :=
  failFrame { s with flags := { s.flags with timing := true } } markTiming
    (sendHeader { s with flags := { s.flags with timing := true } } b)

theorem timingFails_garnet (s : Snapshot) (b : Block) : (timingFails s b).garnet = dropDrain s.frame b.garnet := rfl

/-- Garnet with no Hand, and none that starts at the next CAD1 event. -/
structure Garnet.handless (g : Garnet) : Prop where
  hand : g.hand = none
  bound : g.bound = none
  bc : g.bc = none
  skips : g.skipHand = true

theorem timingFails_handless {s : Snapshot} {b : Block} (h : b.garnet.handless) : (timingFails s b).garnet.handless :=
  ⟨h.hand, h.bound, h.bc, h.skips⟩

/-- The Frames in progress and bound fail. -/
def framesTimedOut (hand : Option Hand) (bound : Option Snapshot) (b : Block) : Block :=
  let b := match hand with | some h => timingFails h.snap b | none => b
  match bound with | some s => timingFails s b | none => b

theorem framesTimedOut_handless (hand : Option Hand) (bound : Option Snapshot) {b : Block} (h : b.garnet.handless) :
    (framesTimedOut hand bound b).garnet.handless := by
  cases hand <;> cases bound
  · exact h
  · exact timingFails_handless h
  · exact timingFails_handless h
  · exact timingFails_handless (timingFails_handless h)

theorem framesTimedOut_rest (hand : Option Hand) (bound : Option Snapshot) (b : Block) :
    (framesTimedOut hand bound b).topaz = b.topaz ∧ (framesTimedOut hand bound b).ch.quartzGarnet = b.ch.quartzGarnet := by
  cases hand <;> cases bound <;> exact ⟨rfl, rfl⟩

/-- Garnet gives up the Hand and counts on without the events that are gone. -/
def handDropped (gone : List CadMsg) (b : Block) : Block :=
  (dropSub b).modGarnet (fun g => { gone.foldl missEvent g with
    skipHand := true, hand := none, bound := none, boundReady := false, bc := none })

theorem cadenceGap_eq (gone : List CadMsg) (b : Block) : cadenceGap gone b =
    gapFails .garnet (((b.garnet.hand.map (·.snap.frame)).or (b.garnet.bound.map (·.frame))).getD frameNone)
      (framesTimedOut b.garnet.hand b.garnet.bound (handDropped gone b)) := rfl

theorem closeSlot_quartzGarnet (slot : Nat) (b : Block) : (closeSlot slot b).ch.quartzGarnet = b.ch.quartzGarnet :=
  congrArg Channels.quartzGarnet
    (ch_of_kept (closeSlot_frame (ps := [.garnet]) (by decide) (onlyChanges_refl _ b)) (by decide) (by decide))

theorem openSlot_quartzGarnet (slot frame plane : Nat) (b : Block) :
    (openSlot slot frame plane b).ch.quartzGarnet = b.ch.quartzGarnet := by
  unfold openSlot
  dsimp only
  split
  · split <;> rfl
  · rfl

theorem endSub_quartzGarnet (bc : Broadcast) (b : Block) : (endSub bc b).ch.quartzGarnet = b.ch.quartzGarnet := by
  unfold endSub
  dsimp only
  refine (foldl_keeps (g := fun x : Block => x.ch.quartzGarnet) (fun x s => ?opens) _ _).trans
    (foldl_keeps (g := fun x : Block => x.ch.quartzGarnet) (fun x s => ?closes) _ _)
  case opens =>
    split
    · split
      · exact openSlot_quartzGarnet ..
      · rfl
    · rfl
  case closes =>
    split
    · exact closeSlot_quartzGarnet ..
    · rfl

theorem dropSub_quartzGarnet (b : Block) : (dropSub b).ch.quartzGarnet = b.ch.quartzGarnet := by
  unfold dropSub
  split
  · rfl
  · split
    · exact endSub_quartzGarnet ..
    · exact endSub_quartzGarnet ..

theorem dropSub_topaz (b : Block) : (dropSub b).topaz = b.topaz :=
  (dropSub_frame (ps := [.garnet, .ch, .trace]) (by decide) (onlyChanges_refl _ b)).at_ .topaz (by decide)

theorem cadenceGap_handless (gone : List CadMsg) (b : Block) : (cadenceGap gone b).garnet.handless := by
  rw [cadenceGap_eq, (gapFails_kept ..).at_ .garnet (by decide)]
  exact framesTimedOut_handless _ _ ⟨rfl, rfl, rfl, rfl⟩

theorem cadenceGap_gaps (gone : List CadMsg) (b : Block) :
    (cadenceGap gone b).topaz.gaps = min 65535 (b.topaz.gaps + 1) := by
  rw [cadenceGap_eq, gapFails_gaps, (framesTimedOut_rest ..).1, handDropped, Block.modGarnet_topaz, dropSub_topaz]

theorem cadenceGap_quartzGarnet (gone : List CadMsg) (b : Block) :
    (cadenceGap gone b).ch.quartzGarnet = b.ch.quartzGarnet := by
  rw [cadenceGap_eq]
  refine Eq.trans (congrArg Channels.quartzGarnet (kept_ch (gapFails_kept ..) (by decide)) :) ?_
  exact (framesTimedOut_rest ..).2.trans (dropSub_quartzGarnet b)

/-- With nothing after the events that are lost, the gap is all there is. -/
theorem subFrameStart_gap {b : Block} {n : Nat} (hl : b.ch.quartzGarnet.length = n) (hn : n % 65536 ≠ 0) (x : Scene) :
    subFrameStart x n b = cadenceGap b.ch.quartzGarnet { b with
      garnet := { b.garnet with evExpect := (b.garnet.evExpect + n) % 65536 }
      ch := { b.ch with quartzGarnet := [] } } := by
  have emptied : b.ch.quartzGarnet.drop n = [] := by rw [← hl, List.drop_length]
  have gone : b.ch.quartzGarnet.take n = b.ch.quartzGarnet := by rw [← hl, List.take_length]
  have seen : gapSeen n = true := bne_iff_ne.mpr hn
  simp only [subFrameStart, emptied, gone, hl, seen, if_true, cadenceGap_quartzGarnet, Block.modCh_ch, Block.modGarnet_ch]
  rfl

theorem subFrameStart_none {b : Block} (h : b.ch.quartzGarnet = []) (x : Scene) :
    subFrameStart x 0 b = b.modGarnet (fun g => { g with evExpect := g.evExpect % 65536 }) := by
  have same : { b.ch with quartzGarnet := [] } = b.ch := by rw [← h]
  simp only [subFrameStart, Block.modCh, Block.modGarnet, h, same, List.drop_zero, List.take_zero, List.length_nil,
    gapSeen_zero, Bool.false_eq_true, if_false, Nat.add_zero]

section
variable {b : Block} (hm : b.beryl.evr.mode ≠ 2) (x : Scene)
include hm

theorem exec_subFrameStart {q : List Instr} (ha : b.alive .garnet = true) (he : islandEmpty b .garnet = false) {lost : Nat} {c : Block} (h : subFrameStart x lost b = c) :
    exec (.subFrameStart x lost) ⟨q, b⟩ = .next ⟨q, c⟩ :=
  act_liveOr hm (act_served ha he h)

variable {t0 s g l c t0In : Nat} {u v : Bool} {rest : List CadMsg} (hq : b.ch.quartzGarnet = .cad0 t0 u v t0In :: rest)
  (hcad : b.garnet.cad = some (s, g, l, c)) (hstop : b.garnet.stopped = false) (hcommit : b.committed .garnet = true)
  (hstart : b.garnet.started = true) (hbc : b.garnet.bc = none) (hbridge : b.garnet.inBridge = false)
  (hd : b.garnet.j % max 1 b.garnet.d = 0)
include hq hcad hstop hcommit hstart hbc hbridge hd

/-- A CAD0 event whose number D divides runs a Sub-frame. -/
theorem subFrameStart_runs :
    subFrameStart x 0 b = (subReady (decide (g ≤ b.garnet.j + b.garnet.d)) (cad0Seen t0 u v t0In rest b)).modGarnet (fun y =>
      subRun t0 (subBroadcast (decide (g ≤ b.garnet.j + b.garnet.d))
        (nextSlots (decide (g ≤ b.garnet.j + b.garnet.d) && t0In != 1) y) y) x y) := by
  refine (subFrameStart_cad0 hq x).trans ((takeCad0_starts (b := eventTaken rest b) hstart hcad hstop hcommit hm hbridge hd
    t0 t0In u v x).trans ?_)
  exact startSub_eq t0 _ x hbc

/-- Away from the boundary nothing comes before it. -/
theorem subFrameStart_within (hin : b.garnet.j + b.garnet.d < g) :
    subFrameStart x 0 b = (cad0Seen t0 u v t0In rest b).modGarnet (fun y => subRun t0 (subBroadcast false [] y) x y) := by
  have inside : decide (g ≤ b.garnet.j + b.garnet.d) = false := decide_eq_false (Nat.not_le.mpr hin)
  refine (subFrameStart_runs hm x hq hcad hstop hcommit hstart hbc hbridge hd).trans ?_
  rw [inside]
  rfl

end

theorem cad0Seen_kept (t0 : Nat) (u v : Bool) (t0In : Nat) (rest : List CadMsg) (b : Block) (f : Garnet → Garnet) :
    onlyChanges [.garnet, .ch, .trace] b ((cad0Seen t0 u v t0In rest b).modGarnet f) :=
  Block.modGarnet_frame (by decide) (Block.modGarnet_frame (by decide) (upd_ch_frame (by decide)
    (upd_garnet_frame (x := { b.garnet with evExpect := (b.garnet.evExpect + 1) % 65536 }) (by decide) (onlyChanges_refl _ b))))

end Sys2Proof.Machine

section
open Sys2Proof Sys2Proof.Machine

/-- Settles O18: an event is taken, and what it starts follows from the count: a Sub-frame is its broadcast run over the scene,
a CAD1 event opens its period, a gap drops the Hand. -/
theorem subFramesStartOnCad0 : Obligations.SubFramesStartOnCad0 := by
  refine ⟨?idle, ?hand, ?boundary, ?between, ?opens, ?period, ?starts, ?gap, ?noEvent, ?subs, ?subsFail, ?subsIdle, ?subsReplay⟩
  case idle =>
    intro q b x t0 s g l c t0In u v rest ha he hm hq hcad hstop hcommit hstart hbc hbridge hd hhand hin
    have runs := subFrameStart_within hm x hq hcad hstop hcommit hstart hbc hbridge hd hin
    have bcast : subBroadcast false [] (cad0Seen t0 u v t0In rest b).garnet =
        { idleBroadcast with
          prevForce := b.garnet.lastForce, barrier := match b.garnet.applied with | some p => p.barrier | none => 6144 } := by
      have noHand : (cad0Seen t0 u v t0In rest b).garnet.hand = none := hhand
      simp only [subBroadcast, noHand, Bool.false_and]
      rfl
    have noHand : (subRun t0 (subBroadcast false [] (cad0Seen t0 u v t0In rest b).garnet) x
        (cad0Seen t0 u v t0In rest b).garnet).hand = none := congrArg (Option.map _) hhand
    refine .of_next (exec_subFrameStart hm x ha he runs) ⟨rfl, rfl, rfl, noHand, rfl, rfl, ⟨_, congrArg some bcast, rfl, rfl, rfl,
      rfl, rfl, ?_⟩, cad0Seen_kept ..⟩
    rw [← bcast]
    exact subRun_arrays (g := (cad0Seen t0 u v t0In rest b).garnet) t0 _ x hhand
  case hand =>
    intro q b x t0 s g l c t0In u v rest h ha he hm hq hcad hstop hcommit hstart hbc hbridge hd hhand hin
    have runs := subFrameStart_within hm x hq hcad hstop hcommit hstart hbc hbridge hd hin
    have hand : (cad0Seen t0 u v t0In rest b).garnet.hand = some h := hhand
    refine .of_next (exec_subFrameStart hm x ha he runs) ⟨rfl, rfl, rfl, rfl, rfl, ?_, ?_, cad0Seen_kept ..⟩
    · simp only [Block.modGarnet_garnet, subRun, subBroadcast, hand]
      rfl
    · simp only [Block.modGarnet_garnet, subRun, hand, Option.map_some]
  case boundary =>
    intro q b x t0 s g l c t0In u v rest ha he hm hq hcad hstop hcommit hstart hbc hbridge hd hlast ht
    have runs := subFrameStart_runs hm x hq hcad hstop hcommit hstart hbc hbridge hd
    rw [decide_eq_true hlast] at runs
    have side := subReady_cadenceSide true (cad0Seen t0 u v t0In rest b)
    refine .of_next (exec_subFrameStart hm x ha he runs) ⟨subReady_boundReady (b := cad0Seen t0 u v t0In rest b) ht, rfl,
      congrArg Prod.fst side, rfl, congrArg Prod.snd side, runs ▸ subFrameStart_frame (by decide) (onlyChanges_refl _ b)⟩
  case between =>
    intro q b x t0 s g l c t0In u v rest ha he hm hq hcad hstart hd
    have seen := (subFrameStart_cad0 hq x).trans
      (takeCad0_between (b := eventTaken rest b) hstart hd t0 t0In u v x)
    exact .of_next (exec_subFrameStart hm x ha he seen) ⟨rfl, rfl, cad0Seen_kept t0 u v t0In rest b id⟩
  case opens =>
    intro q b x t0 g l c r ha he hm hq hbc hb
    exact exec_subFrameStart hm x ha he ((subFrameStart_cad1 hq x).trans (takeCad1_opens (b := eventTaken [] b) hbc t0 g l c r hb))
  case period =>
    exact fun t0 g l c y => ⟨rfl, rfl, rfl, fun hc ht => openPeriod_h_same hc ht t0 g l, fun hc => openPeriod_h_new hc t0 g l⟩
  case starts =>
    intro q b x t0 g l c r s ha he hm hq hbc hb hr ht hf
    have starts := (subFrameStart_cad1 hq x).trans (takeCad1_starts (b := eventTaken [] b) hbc t0 g l c r hb hr ht hf)
    obtain ⟨bound, ready, j, hand⟩ := startHand_garnet s t0 g l c r ((eventTaken [] b).modGarnet (openPeriod t0 g l c))
    exact .of_next (exec_subFrameStart hm x ha he starts) ⟨bound, ready, j, hand, startHand_quartzGarnet ..,
      starts ▸ subFrameStart_frame (by decide) (onlyChanges_refl _ b)⟩
  case gap =>
    intro q b x n ha he hm hl hn
    have gap := subFrameStart_gap hl hn x
    obtain ⟨hand, bound, bc, skips⟩ := cadenceGap_handless b.ch.quartzGarnet { b with
      garnet := { b.garnet with evExpect := (b.garnet.evExpect + n) % 65536 }, ch := { b.ch with quartzGarnet := [] } }
    exact .of_next (exec_subFrameStart hm x ha he gap) ⟨hand, bound, bc, skips, cadenceGap_gaps .., cadenceGap_quartzGarnet ..,
      gap ▸ subFrameStart_frame (by decide) (onlyChanges_refl _ b)⟩
  case noEvent =>
    intro q b x ha he hm h
    exact .of_next (exec_subFrameStart hm x ha he (subFrameStart_none h x))
      ⟨rfl, Block.modGarnet_frame (by decide) (onlyChanges_refl _ b)⟩
  case subs =>
    exact fun q b x lost hm ha he => ⟨exec_subFrameStart hm x ha he rfl, subFrameStart_frame (by decide) (onlyChanges_refl _ b)⟩
  case subsFail => exact fun q b x lost hm hf => act_liveOr hm (act_served_failing hf rfl)
  case subsIdle => exact fun q b x lost hm hf h => act_liveOr hm (act_served_idle hf h)
  case subsReplay => exact fun q b x lost hm => act_liveOr_replay hm rfl

end
end

section
/-! O20: FRAME_HEADER_TOKEN at Jade: the Frame opens, or what Jade holds of it goes (01 R19, R21, 06 R172, 12 R326, R338). -/

-- The proofs are elaborated one after another: each waiting in a thread of its own takes more memory than the check allows.
set_option Elab.async false

namespace Sys2Proof.Machine

/-! ### Frames that Jade never opened -/

/-- A number that no Frame carries is filtered out of none. -/
theorem frames_filter_unheld {l : List JFrame} {n : Nat} (h : l.any (fun k => k.snap.frame == n) = false) :
    l.filter (fun k => k.snap.frame != n) = l :=
  List.filter_eq_self.mpr (fun k hk => by simpa using List.any_eq_false.mp h k hk)

/-- Closing another Frame leaves the Destination set of this one where it is. -/
theorem find_dests_filter {α : Type} {f n : Nat} (hf : f ≠ n) (l : List (Nat × α)) :
    (l.filter (fun r => r.1 != f)).find? (fun r => r.1 == n) = l.find? (fun r => r.1 == n) := by
  rw [List.find?_filter]
  congr 1
  funext r
  by_cases hr : r.1 = n
  · simp [hr, Ne.symm hf]
  · simp [hr]

/-- Numbers that Jade holds no Frame of, closed one after another, leave the Frames it holds, what it knows of Frame `n`, and the
messages of Garnet. -/
theorem closeFrames_spares {n : Nat} (fs : List Nat) (b : Block)
    (h : ∀ f ∈ fs, f ≠ n ∧ b.jade.frames.any (fun k => k.snap.frame == f) = false) :
    (fs.foldl (fun b f => closeFrame f b) b).jade.frames = b.jade.frames ∧
      ((fs.foldl (fun b f => closeFrame f b) b).jade.destSets.find? (fun r => r.1 == n) =
        b.jade.destSets.find? (fun r => r.1 == n)) ∧
      (fs.foldl (fun b f => closeFrame f b) b).ch.garnetJade = b.ch.garnetJade := by
  induction fs generalizing b with
  | nil => exact ⟨rfl, rfl, rfl⟩
  | cons f fs ih =>
    obtain ⟨other, unheld⟩ := h f List.mem_cons_self
    have frames : (closeFrame f b).jade.frames = b.jade.frames := frames_filter_unheld unheld
    obtain ⟨hframes, hdests, hch⟩ := ih (closeFrame f b) (fun k hk => frames ▸ h k (List.mem_cons_of_mem _ hk))
    exact ⟨hframes.trans frames, hdests.trans (find_dests_filter other _), hch⟩

/-- What is dropped for Frames before this one is of Frames that Jade does not hold. -/
theorem dropUnopened_spares (n : Nat) (b : Block) :
    (dropUnopened n b).jade.frames = b.jade.frames ∧
      ((dropUnopened n b).jade.destSets.find? (fun r => r.1 == n) = b.jade.destSets.find? (fun r => r.1 == n)) ∧
      (dropUnopened n b).ch.garnetJade = b.ch.garnetJade := by
  refine closeFrames_spares _ b (fun f hf => ?_)
  have past := (List.mem_filter.mp hf).2
  simp only [Bool.and_eq_true, decide_eq_true_eq, Bool.not_eq_true'] at past
  exact ⟨Nat.ne_of_lt past.1, past.2⟩

/-! ### The three ends of a header -/

section
variable {b : Block} {s : Snapshot} {l : List GarnetJade} (h : b.ch.garnetJade = .header s :: l)
include h

theorem frameHeaderToken_failed (hf : s.frame ∈ b.jade.failed) : frameHeaderToken b = closeFrame s.frame (takeToken b) := by
  unfold frameHeaderToken
  rw [h]
  exact if_pos (List.contains_iff_mem.mpr hf)

theorem frameHeaderToken_dead (hf : s.frame ∉ b.jade.failed) (hd : deadHeader s = true) :
    frameHeaderToken b = sendFailed s.frame (headerMark s.flags) (closeFrame s.frame (takeToken b)) := by
  unfold frameHeaderToken
  rw [h]
  exact (if_neg (fun c => hf (List.contains_iff_mem.mp c))).trans (if_pos hd)

theorem frameHeaderToken_opens (hf : s.frame ∉ b.jade.failed) (hd : deadHeader s = false) :
    frameHeaderToken b = (dropUnopened s.frame (keepToken b)).modJade (fun j => { j with
      frames := j.frames.filter (fun f => f.snap.frame != s.frame) ++
        [openFrame s (cfgFor b s.frame) ((j.destSets.find? (fun r => r.1 == s.frame)).map (·.2))]
      cfgs := j.cfgs.filter (fun r => r.1 != s.frame) ++ [(s.frame, cfgFor b s.frame)]
      destSets := j.destSets.filter (fun r => r.1 != s.frame) }) := by
  unfold frameHeaderToken
  rw [h]
  exact (if_neg (fun c => hf (List.contains_iff_mem.mp c))).trans (if_neg (by rw [hd]; exact Bool.false_ne_true))

theorem closeFrame_takeToken_garnetJade (n : Nat) : (closeFrame n (takeToken b)).ch.garnetJade = l :=
  congrArg (List.drop 1) h

end

theorem frameHeaderToken_none {b : Block} (h : (b.ch.garnetJade.head?.bind (·.snap?)).isNone = true) :
    frameHeaderToken b = b := by
  unfold frameHeaderToken
  split
  · next s l hc => rw [hc] at h; exact absurd h Bool.false_ne_true
  · rfl

/-- What leaves the trace as it was changes nothing there. -/
theorem onlyChanges_untraced {ps ps' : List Piece} {a b : Block} (h : onlyChanges ps' a b) (hp : ps' ⊆ .trace :: ps)
    (ht : b.ch.evr = a.ch.evr) : onlyChanges ps a b := by
  refine ⟨fun p hn => ?_⟩
  by_cases hc : p = .trace
  · rw [hc]; exact ht
  · exact h.at_ p (fun hm => (List.mem_cons.mp (hp hm)).elim hc hn)

end Sys2Proof.Machine

section
open Sys2Proof Sys2Proof.Machine

/-- Settles O20: the header opens its Frame, fails it, or finds it failed, one lemma for each; what is dropped besides is of Frames
that Jade does not hold. -/
theorem headersOpenFramesInJade : Obligations.HeadersOpenFramesInJade := by
  refine ⟨?opens, ?dead, ?failed, ?none, ?total, ?fails, ?idle⟩
  case opens =>
    intro q b s l ha he h hd hf
    have eq := frameHeaderToken_opens h hf hd
    obtain ⟨frames, dests, ch⟩ := dropUnopened_spares s.frame (keepToken b)
    refine .of_next (act_served ha he eq) ⟨?_, ?_, eq ▸ frameHeaderToken_frame (by decide) (onlyChanges_refl _ b)⟩
    · rw [Block.modJade_jade, frames, dests]
      rfl
    · exact ch.trans (congrArg (List.drop 1) h)
  case dead =>
    intro q b s l ha he h hd hf
    have eq := frameHeaderToken_dead h hf hd
    exact .of_next (act_served ha he eq) ⟨rfl, rfl, rfl, closeFrame_takeToken_garnetJade h s.frame, rfl,
      onlyChanges_untraced (eq ▸ frameHeaderToken_frame (by decide) (onlyChanges_refl _ b)) (List.Subset.refl _) rfl⟩
  case failed =>
    intro q b s l ha he h hf
    have eq := frameHeaderToken_failed h hf
    exact .of_next (act_served ha he eq) ⟨rfl, rfl, rfl, closeFrame_takeToken_garnetJade h s.frame, rfl,
      onlyChanges_untraced (eq ▸ frameHeaderToken_frame (by decide) (onlyChanges_refl _ b)) (List.Subset.refl _) rfl⟩
  case none => exact fun q b ha he h => act_served ha he (frameHeaderToken_none h)
  case total => exact fun q b ha he => ⟨act_served ha he rfl, frameHeaderToken_frame (by decide) (onlyChanges_refl _ b)⟩
  case fails => exact fun q b hf => act_served_failing hf rfl
  case idle => exact fun q b hf h => act_served_idle hf h

end
end

section
/-! O21: STRIPE_TOKEN and PROFILE_TOKEN at Jade: the check of R141, the mark of a missing Stripe, the acknowledgement, and the Frame
that has all it needs (01 R17, 06 R141, R142, R156, 07 R187, 12 R321, R327, R331, R344). -/

-- The proofs are elaborated one after another: each waiting in a thread of its own takes more memory than the check allows.
set_option Elab.async false

namespace Sys2Proof.Machine

/-! ### A Frame of Jade, changed -/

/-- The change of the Frames numbered `n` that `modFrame` makes. -/
def onFrame (n : Nat) (g : JFrame → JFrame) (f : JFrame) : JFrame := if f.snap.frame = n then g f else f

theorem modFrame_frames (n : Nat) (g : JFrame → JFrame) (b : Block) :
    (modFrame n g b).jade.frames = b.jade.frames.map (onFrame n g) := rfl

section
variable {n : Nat} {g : JFrame → JFrame} (hg : ∀ f, (g f).snap = f.snap)
include hg

theorem onFrame_snap (f : JFrame) : (onFrame n g f).snap = f.snap := by
  unfold onFrame
  split
  · exact hg f
  · rfl

/-- The Frame that is found after the change is the one that was, changed. -/
theorem find_onFrame (l : List JFrame) :
    (l.map (onFrame n g)).find? (fun f => f.snap.frame == n) = (l.find? (fun f => f.snap.frame == n)).map g := by
  rw [List.find?_map]
  simp only [Function.comp_def, onFrame_snap hg]
  cases hf : l.find? (fun f => f.snap.frame == n) with
  | none => rfl
  | some f =>
    simp only [Option.map_some, onFrame]
    rw [if_pos (beq_iff_eq.mp (List.find?_some (p := fun f : JFrame => f.snap.frame == n) hf))]

/-- The Frames of other numbers are as they were. -/
theorem filter_onFrame (l : List JFrame) :
    (l.map (onFrame n g)).filter (fun f => f.snap.frame != n) = l.filter (fun f => f.snap.frame != n) := by
  rw [List.filter_map]
  simp only [Function.comp_def, onFrame_snap hg]
  refine (List.map_congr_left (fun f hf => if_neg ?_)).trans (List.map_id _)
  simpa using (List.mem_filter.mp hf).2

end

theorem any_of_find {l : List JFrame} {n : Nat} {f : JFrame} (h : l.find? (fun g => g.snap.frame == n) = some f) :
    l.any (fun g => g.snap.frame == n) = true :=
  List.any_eq_true.mpr ⟨f, List.mem_of_find?_eq_some h, List.find?_some (p := fun g : JFrame => g.snap.frame == n) h⟩

/-! ### The end of a Frame in Jade -/

/-- A Frame that lacks its profile, a Destination or a Stripe stays. -/
theorem finishFrame_waits {n : Nat} {b : Block}
    (h : ∀ f, b.jade.frames.find? (fun g => g.snap.frame == n) = some f →
      f.profile = none ∨ destsKnown b.jade f = none ∨ allProcessed f = false) : finishFrame n b = b := by
  unfold finishFrame
  split
  · rfl
  · next f hf =>
    split
    · next pr l hp hd =>
      rcases h f hf with h | h | h
      · rw [hp] at h; exact absurd h (Option.some_ne_none pr)
      · rw [hd] at h; exact absurd h (Option.some_ne_none l)
      · rw [h]; rfl
    · rfl

/-- What Jade holds of its Frames, their addresses and its CRC counts, with the messages of Garnet and their acknowledgement. -/
def Block.jadeView (b : Block) : List GarnetJade × Bool × List JFrame × List (Nat × Nat × Option Nat) × Nat × Nat :=
  (b.ch.garnetJade, b.ch.drnAck, b.jade.frames, b.jade.resv, b.jade.crcBad, b.jade.crcRetried)

theorem jadeView_of_kept {ps : List Piece} {a b : Block} (h : onlyChanges ps a b) (hj : .jade ∉ ps) (hc : .ch ∉ ps) :
    b.jadeView = a.jadeView := by
  have jade : b.jade = a.jade := h.at_ .jade hj
  have tokens : b.ch.garnetJade = a.ch.garnetJade := (congrArg Channels.garnetJade (kept_ch h hc) :)
  have acks : b.ch.drnAck = a.ch.drnAck := (congrArg Channels.drnAck (kept_ch h hc) :)
  rw [Block.jadeView, jade, tokens, acks, Block.jadeView]

/-- What the end of Frame `n` leaves: the messages of Garnet, their acknowledgement, and the Frames of other numbers. -/
def Block.spared (n : Nat) (b : Block) : List GarnetJade × Bool × List JFrame :=
  (b.ch.garnetJade, b.ch.drnAck, b.jade.frames.filter (fun f => f.snap.frame != n))

theorem writeStats_spares (n : Nat) (r : List Byte) (d : Dest) (b : Block) :
    (writeStats n r d b).spared n = b.spared n := by
  unfold writeStats
  split
  · exact congrArg (fun x => (b.ch.garnetJade, b.ch.drnAck, x)) (filter_onFrame (g := putSeg _) (fun _ => rfl) b.jade.frames)
  · rfl

/-- The STATS Segments of a Frame that has everything. -/
def statsWritten (n : Nat) (f : JFrame) (pr : Option Profile) (l : List Dest) (b : Block) : Block :=
  (l.filter (fun d => d.set.encoding == 3)).foldl (fun b d => writeStats n (statsRecord f pr) d b) b

theorem statsWritten_spares (n : Nat) (f : JFrame) (pr : Option Profile) (l : List Dest) (b : Block) :
    (statsWritten n f pr l b).spared n = b.spared n :=
  foldl_keeps (g := Block.spared n) (fun x d => writeStats_spares n _ d x) _ b

section
variable {n : Nat} {b : Block} {f : JFrame} {pr : Option Profile} {l : List Dest}
  (hf : b.jade.frames.find? (fun g => g.snap.frame == n) = some f) (hp : f.profile = some pr)
  (hd : destsKnown b.jade f = some l) (ha : allProcessed f = true)
include hf hp hd ha

theorem finishFrame_all : finishFrame n b =
    (closeFrame n (mergeDigest .jade 1 n f.stripes.length (statsWritten n f pr l b))).modJade
      (fun j => { j with dynCount := f.dynCount }) := by
  have written : (if (l.filter (fun d => d.set.encoding == 3)).isEmpty = true then b else statsWritten n f pr l b) =
      statsWritten n f pr l b := by
    refine ite_eq_right_iff.mpr (fun none => ?_)
    rw [statsWritten, List.isEmpty_iff.mp none]
    rfl
  rw [← written]
  unfold finishFrame
  rw [hf]
  dsimp only
  rw [hp, hd]
  dsimp only
  rw [ha]
  rfl

/-- With everything there the Frame leaves Jade, and its count is the last one. -/
theorem finishFrame_leaves :
    ((finishFrame n b).ch.garnetJade, (finishFrame n b).ch.drnAck, (finishFrame n b).jade.frames) = b.spared n ∧
      (finishFrame n b).jade.dynCount = f.dynCount := by
  rw [finishFrame_all hf hp hd ha]
  refine ⟨?_, rfl⟩
  have view : (mergeDigest .jade 1 n f.stripes.length (statsWritten n f pr l b)).jadeView = (statsWritten n f pr l b).jadeView :=
    jadeView_of_kept (mergeDigest_frame (List.Subset.refl _) (onlyChanges_refl _ _)) (by decide) (by decide)
  have seen := congrArg (fun v => (v.1, v.2.1, v.2.2.1.filter (fun g : JFrame => g.snap.frame != n))) view
  exact seen.trans (statsWritten_spares ..)

end

/-! ### What a token's arrival leaves of that -/

theorem eccCount_jadeView (n : Nat) (e : Ecc) (b : Block) : (eccCount .jade n e b).jadeView = b.jadeView :=
  jadeView_of_kept (eccCount_frame (List.Subset.refl _) (onlyChanges_refl _ b)) (by decide) (by decide)

theorem mergeFail_jadeView (n k : Nat) (m : BitVec 16) (b : Block) : (mergeFail .jade 1 n k m b).jadeView = b.jadeView :=
  jadeView_of_kept (mergeFail_frame (List.Subset.refl _) (onlyChanges_refl _ b)) (by decide) (by decide)

theorem tellOpal_jadeView (n : Nat) (x : LedgerNote) (b : Block) : (tellOpal n x b).jadeView = b.jadeView := by
  unfold tellOpal takeNotes
  split
  · rfl
  · exact foldl_keeps (f := fun b (e : Nat × LedgerNote) => winMod e.1 (takeNote e.2) b) (g := Block.jadeView) (fun _ _ => rfl) _ _

theorem tapCopy_jadeView (t : StripeToken) (bytes : List Byte) (b : Block) : (tapCopy t bytes b).jadeView = b.jadeView := by
  unfold tapCopy
  split
  · rfl
  split
  · rfl
  · dsimp only
    split <;> rfl

/-- A note to Opal leaves DRAM, what ECC counts too. -/
theorem eccCount_dramRead (n : Nat) (e : Ecc) (b : Block) (a k : Nat) :
    (eccCount .jade n e b).dramRead a k = b.dramRead a k := by
  have dram : (eccCount .jade n e b).dram = b.dram :=
    (eccCount_frame (List.Subset.refl _) (onlyChanges_refl _ b)).at_ .dram (by decide)
  rw [Block.dramRead, dram, Block.dramRead]

/-! ### A Stripe's token -/

/-- The Frame with one more Stripe of this token: its data and marks. -/
def withStripe (t : StripeToken) (data : Option (Array Nat × Array Bool × Array Nat)) (m : BitVec 16) (f : JFrame) : JFrame :=
  { f with stripes := f.stripes ++ [{ plane := t.plane, stripe := t.stripe, marks := m, data }], marks := f.marks ||| m }

/-- What the reads of a Stripe give: its data, unless both fail. -/
def readData (fail1 fail2 : Bool) (bytes : List Byte) : Option (Array Nat × Array Bool × Array Nat) :=
  if fail1 && fail2 then none else some (readStripe bytes)

theorem readData_of_read {fail1 fail2 : Bool} (h : (fail1 && fail2) = false) (bytes : List Byte) :
    readData fail1 fail2 bytes = some (readStripe bytes) :=
  if_neg (by rw [h]; exact Bool.false_ne_true)

/-- The marks of a Stripe that was read (06 R142). -/
def readMarks (fail1 fail2 : Bool) (t : StripeToken) (bytes : List Byte) : BitVec 16 :=
  t.marks ||| markIf (fail1 && !fail2) markCrcRetried ||| markIf (fail1 && fail2) markCrcBad |||
    markIf (!(fail1 && fail2) && (readStripe bytes).2.1.any id) markOverflow

/-- A mark that is not given. -/
theorem or_markIf_false (m x : BitVec 16) : m ||| markIf false x = m := BitVec.or_zero

/-- The acknowledgement is given, where it is due (01 R17). -/
def acknowledged (due : Bool) (b : Block) : Block := { b with ch := { b.ch with drnAck := b.ch.drnAck || due } }

theorem acknowledged_if (due : Bool) (b : Block) :
    (if due = true then b.modCh (fun c => { c with drnAck := true }) else b) = acknowledged due b := by
  cases due
  · simp only [acknowledged, Bool.or_false]; rfl
  · simp only [acknowledged, Bool.or_true]; rfl

section
variable {b : Block} {t : StripeToken} {l : List GarnetJade} {bad1 bad2 : Bool} {ecc : Ecc}
  (h : b.ch.garnetJade = .stripe t :: l)
include h

theorem stripeToken_notTaken (ht : t.stripe = 255 ∨ b.accepts .jade t.sent = false) : stripeToken_ bad1 bad2 ecc b = b := by
  unfold stripeToken_
  rw [h]
  refine if_pos ?_
  rcases ht with ht | ht <;> simp [ht]

section
variable (ha : b.accepts .jade t.sent = true) (hs : t.stripe ≠ 255)
include ha hs

/-- A token of a Frame that Jade does not hold is taken, and acknowledged once. -/
theorem stripeToken_passedOver (hf : b.jade.frames.any (fun f => f.snap.frame == t.frame) = false) :
    stripeToken_ bad1 bad2 ecc b =
      takeToken (acknowledged (t.len != 0 && !b.ch.kept.garnetJade.contains (.stripe t)) b) := by
  unfold stripeToken_
  rw [h]
  dsimp only
  rw [if_neg (by simp [ha, hs]), acknowledged_if]
  exact if_pos (by rw [show (acknowledged _ b).jade = b.jade from rfl, hf]; rfl)

section
variable (hf : b.jade.frames.any (fun f => f.snap.frame == t.frame) = true)
include hf

/-- An item of length 0 is missing. -/
theorem stripeToken_view_gone (hl : t.len = 0) : (stripeToken_ bad1 bad2 ecc b).jadeView =
    (l, b.ch.drnAck, b.jade.frames.map (onFrame t.frame (withStripe t none t.marks)), b.jade.resv, b.jade.crcBad,
      b.jade.crcRetried) := by
  have kept : (modFrame t.frame (withStripe t none (t.marks ||| 0 ||| 0 ||| 0)) (keepToken b)).jadeView =
      (l, b.ch.drnAck, b.jade.frames.map (onFrame t.frame (withStripe t none t.marks)), b.jade.resv, b.jade.crcBad,
        b.jade.crcRetried) := by
    rw [show t.marks ||| 0 ||| 0 ||| 0 = t.marks by simp]
    exact congrArg (fun x => (List.drop 1 x, _)) h
  unfold stripeToken_
  rw [h]
  dsimp only
  rw [if_neg (by simp [ha, hs])]
  simp only [hl, hf, bne_self_eq_false, Bool.false_and, Bool.false_eq_true, if_false, if_true, Bool.not_true, decide_true, Bool.true_or,
    markIf]
  split
  · exact (tellOpal_jadeView ..).trans kept
  · exact (mergeFail_jadeView ..).trans ((tellOpal_jadeView ..).trans kept)

section
variable {x1 x2 : Bool} (hl : t.len ≠ 0) (h1 : (bad1 || ecc == .ue || crc32c (b.dramRead t.addr t.len) != t.crc) = x1)
  (h2 : (bad2 || ecc == .ue || crc32c (b.dramRead t.addr t.len) != t.crc) = x2)
include hl h1 h2

/-- The Stripe as its two reads give it: it joins the Frame, is acknowledged and counted. -/
theorem stripeToken_view_read : (stripeToken_ bad1 bad2 ecc b).jadeView =
    (l, b.ch.drnAck || !b.ch.kept.garnetJade.contains (.stripe t),
      b.jade.frames.map (onFrame t.frame (withStripe t (readData x1 x2 (b.dramRead t.addr t.len))
        (readMarks x1 x2 t (b.dramRead t.addr t.len)))), b.jade.resv,
      if x1 && x2 then satAdd 65535 b.jade.crcBad 1 else b.jade.crcBad,
      if x1 && !x2 then satAdd 65535 b.jade.crcRetried 1 else b.jade.crcRetried) := by
  unfold stripeToken_
  split
  · next t' rest hc =>
    obtain ⟨rfl, rfl⟩ : t' = t ∧ rest = l := by rw [hc] at h; simpa using h
    rw [if_neg (by simp [ha, hs])]
    extract_lets again b1 b2 gone b3 ue bytes fail1 fail2 missing b4 data past m b5 b6 b7
    have hgone : decide gone = false := decide_eq_false hl
    have acks : b1 = acknowledged (!again) b := by
      refine (acknowledged_if ..).trans ?_
      rw [show (t'.len != 0) = true by simpa using hl, Bool.true_and]
    have counted : b3 = eccCount .jade t'.frame ecc (keepToken b1) := if_neg hl
    have read : bytes = b.dramRead t'.addr t'.len := by
      refine (if_neg hl).trans ?_
      rw [counted, eccCount_dramRead, acks]
      rfl
    have f1 : fail1 = x1 := by rw [← h1, ← read]
    have f2 : fail2 = x2 := by rw [← h2, ← read]
    have miss : missing = (x1 && x2) := by simp only [missing, hgone, f1, f2, Bool.false_or]
    have dat : data = readData x1 x2 bytes := by simp only [data, miss, readData]
    have mk : m = readMarks x1 x2 t' bytes := by
      have flows : past = (!(x1 && x2) && (readStripe bytes).2.1.any id) := by
        simp only [past, dat, readData]
        generalize readStripe bytes = r
        cases x1 && x2 <;> rfl
      simp only [m, flows, miss, hgone, readMarks, f1]
      cases x1 <;> cases x2 <;> rfl
    have v3 : b3.jadeView = (rest, b.ch.drnAck || !again, b.jade.frames, b.jade.resv, b.jade.crcBad, b.jade.crcRetried) := by
      rw [counted, eccCount_jadeView, acks]
      exact congrArg (fun x => (List.drop 1 x, _)) hc
    have v4 : b4.jadeView = (rest, b.ch.drnAck || !again, b.jade.frames, b.jade.resv,
        if x1 && x2 then satAdd 65535 b.jade.crcBad 1 else b.jade.crcBad,
        if x1 && !x2 then satAdd 65535 b.jade.crcRetried 1 else b.jade.crcRetried) := by
      simp only [b4, miss, f1, f2, hgone]
      cases x1
      · exact v3
      cases x2
      · exact congrArg (fun v => (v.1, v.2.1, v.2.2.1, v.2.2.2.1, v.2.2.2.2.1, satAdd 65535 v.2.2.2.2.2 1)) v3
      · exact congrArg (fun v => (v.1, v.2.1, v.2.2.1, v.2.2.2.1, satAdd 65535 v.2.2.2.2.1 1, v.2.2.2.2.2)) v3
    have v5 := congrArg (fun v => (v.1, v.2.1, v.2.2.1.map (onFrame t'.frame (withStripe t' data m)), v.2.2.2)) v4
    have v6 : b6.jadeView = b5.jadeView := tellOpal_jadeView ..
    have v7 : b7.jadeView = b6.jadeView := by
      unfold b7
      split
      · split
        · rfl
        · exact mergeFail_jadeView ..
      · exact tellOpal_jadeView ..
    rw [if_neg (by rw [acks, show (acknowledged (!again) b).jade = b.jade from rfl, hf]; exact Bool.false_ne_true),
      ← read, ← dat, ← mk]
    refine Eq.trans ?_ (v7.trans (v6.trans v5))
    split
    · rfl
    · exact tapCopy_jadeView ..
  · next hc => exact absurd h (hc t l)

end
end
end
end

/-! ### The profile's token -/

/-- The Frame with its profile, or with the failure of it. -/
def withProfile (pr : Option Profile) (f : JFrame) : JFrame := { f with profile := some pr }

section
variable {b : Block} {t : StripeToken} {l : List GarnetJade} {bad1 bad2 : Bool} {ecc : Ecc}
  (h : b.ch.garnetJade = .stripe t :: l)
include h

theorem profileToken_notTaken (ht : t.stripe ≠ 255 ∨ b.accepts .jade t.sent = false) : profileToken bad1 bad2 ecc b = b := by
  unfold profileToken
  rw [h]
  refine if_pos ?_
  rcases ht with ht | ht <;> simp [ht]

/-- The Frame takes its profile, whose reads fail together where one of them fails for what it finds; then it may be finished. -/
theorem profileToken_view (ha : b.accepts .jade t.sent = true) (hs : t.stripe = 255)
    (hf : b.jade.frames.any (fun f => f.snap.frame == t.frame) = true) :
    ∃ x : Block, profileToken bad1 bad2 ecc b = finishFrame t.frame x ∧
      x.jadeView = (l, b.ch.drnAck || !b.ch.kept.garnetJade.contains (.stripe t),
        b.jade.frames.map (onFrame t.frame (withProfile
          (if (bad1 && bad2 || crc32c (b.dramRead t.addr t.len) != t.crc || ecc == .ue) = true then none
            else some (readProfile (b.dramRead t.addr t.len))))), b.jade.resv, b.jade.crcBad, b.jade.crcRetried) := by
  unfold profileToken
  split
  · next t' rest hc =>
    obtain ⟨rfl, rfl⟩ : t' = t ∧ rest = l := by rw [hc] at h; simpa using h
    rw [if_neg (by simp [ha, hs])]
    extract_lets again b1 bytes b2 wrong bad b3
    have acks : b1 = acknowledged (!again) b := by
      rw [← acknowledged_if]
      cases hagain : again <;> simp only [b1, hagain] <;> rfl
    have read : bytes = b.dramRead t'.addr t'.len := by
      rw [show bytes = b1.dramRead t'.addr t'.len from rfl, acks]
      rfl
    have fails : bad = (bad1 && bad2 || crc32c bytes != t'.crc || ecc == .ue) := by
      rw [Bool.or_assoc, Bool.or_and_distrib_right]
    have v2 : b2.jadeView = (rest, b.ch.drnAck || !again, b.jade.frames, b.jade.resv, b.jade.crcBad, b.jade.crcRetried) := by
      rw [show b2 = eccCount .jade t'.frame ecc (keepToken b1) from rfl, eccCount_jadeView, acks]
      exact congrArg (fun x => (List.drop 1 x, _)) hc
    have v3 := congrArg (fun v => (v.1, v.2.1, v.2.2.1.map (onFrame t'.frame (withProfile
      (if bad then none else some (readProfile bytes)))), v.2.2.2)) v2
    refine ⟨_, if_neg (by rw [acks, show (acknowledged (!again) b).jade = b.jade from rfl, hf]; exact Bool.false_ne_true), ?_⟩
    rw [← read, ← fails]
    refine Eq.trans ?_ v3
    split
    · rfl
    · exact tapCopy_jadeView ..
  · next hc => exact absurd h (hc t l)

end

/-- What is known of a Frame's Destinations rests on the addresses alone. -/
theorem destsKnown_of_resv {j k : Jade} (h : k.resv = j.resv) (f : JFrame) : destsKnown k f = destsKnown j f := by
  unfold destsKnown segAddr
  rw [h]

end Sys2Proof.Machine

section
open Sys2Proof Sys2Proof.Machine

/-- Settles O21: what Jade holds after a Stripe's token, by its two reads, and after a profile's, by whether its Frame is now
finished. -/
theorem stripesAndProfilesAreCheckedAsTheyArrive : Obligations.StripesAndProfilesAreCheckedAsTheyArrive := by
  have stripes (q : List Instr) (b : Block) (bad1 bad2 : Bool) (ecc : Ecc) (ha : b.alive .jade = true)
      (he : islandEmpty b .jade = false) :
      exec (.stripeToken bad1 bad2 ecc) ⟨q, b⟩ = .next ⟨q, stripeToken_ bad1 bad2 ecc b⟩ ∧
        onlyChanges [.jade, .opal, .posts, .thm, .otc, .evr, .beryl, .topaz, .ch, .trace, .out, .fresh] b
          (stripeToken_ bad1 bad2 ecc b) :=
    ⟨act_served ha he rfl, stripeToken__frame (by decide) (onlyChanges_refl _ b)⟩
  have profiles (q : List Instr) (b : Block) (bad1 bad2 : Bool) (ecc : Ecc) (ha : b.alive .jade = true)
      (he : islandEmpty b .jade = false) :
      exec (.profileToken bad1 bad2 ecc) ⟨q, b⟩ = .next ⟨q, profileToken bad1 bad2 ecc b⟩ ∧
        onlyChanges [.jade, .posts, .thm, .otc, .evr, .beryl, .topaz, .dram, .ch, .trace, .out, .fresh] b
          (profileToken bad1 bad2 ecc b) :=
    ⟨act_served ha he rfl, profileToken_frame (by decide) (onlyChanges_refl _ b)⟩
  refine ⟨?good, ?retried, ?bad, ?gone, ?unheld, ?notStripe, ?waits, ?leaves, ?notProfile, stripes, ?stripeFails, ?stripeIdle, profiles,
    ?profileFails, ?profileIdle⟩
  case good =>
    intro q b bad2 ecc t l ha he h hg hs hl hf hu hc
    obtain ⟨runs, kept⟩ := stripes q b false bad2 ecc ha he
    have view := stripeToken_view_read h hg hs hf hl (bad1 := false) (bad2 := bad2) (ecc := ecc) (x1 := false) (by simp [hu, hc]) rfl
    simp only [Block.jadeView, Prod.mk.injEq] at view
    obtain ⟨tokens, acks, frames, _, bads, retries⟩ := view
    refine .of_next runs ⟨tokens, acks, bads, retries, ?_, kept⟩
    rw [frames, readMarks]
    simp only [Bool.false_and, Bool.not_false, Bool.true_and, or_markIf_false, readData_of_read]
    rfl
  case retried =>
    intro q b ecc t l ha he h hg hs hl hf hu hc
    obtain ⟨runs, kept⟩ := stripes q b true false ecc ha he
    have view := stripeToken_view_read h hg hs hf hl (bad1 := true) (x1 := true) (bad2 := false) (ecc := ecc)
      (x2 := false) (by simp) (by simp [hu, hc])
    simp only [Block.jadeView, Prod.mk.injEq] at view
    obtain ⟨tokens, acks, frames, _, bads, retries⟩ := view
    refine .of_next runs ⟨tokens, acks, retries, bads, ?_, kept⟩
    rw [frames, readMarks]
    simp only [Bool.not_false, Bool.and_true, Bool.and_false, Bool.true_and, or_markIf_false, readData_of_read]
    rfl
  case bad =>
    intro q b bad1 bad2 ecc t l ha he h hg hs hl hf hb
    obtain ⟨runs, kept⟩ := stripes q b bad1 bad2 ecc ha he
    have fails : (bad1 || ecc == .ue || crc32c (b.dramRead t.addr t.len) != t.crc) = true ∧
        (bad2 || ecc == .ue || crc32c (b.dramRead t.addr t.len) != t.crc) = true := by
      rwa [Bool.or_assoc, Bool.or_and_distrib_right, Bool.and_eq_true, ← Bool.or_assoc, ← Bool.or_assoc] at hb
    have view := stripeToken_view_read h hg hs hf hl fails.1 fails.2
    simp only [Block.jadeView, Prod.mk.injEq] at view
    obtain ⟨tokens, acks, frames, _, bads, retries⟩ := view
    refine .of_next runs ⟨tokens, acks, bads, retries, ?_, kept⟩
    rw [frames, readMarks]
    simp only [Bool.not_true, Bool.and_self, Bool.and_false, Bool.false_and, or_markIf_false]
    rfl
  case gone =>
    intro q b bad1 bad2 ecc t l ha he h hg hs hl hf
    obtain ⟨runs, kept⟩ := stripes q b bad1 bad2 ecc ha he
    have view := stripeToken_view_gone (bad1 := bad1) (bad2 := bad2) (ecc := ecc) h hg hs hf hl
    simp only [Block.jadeView, Prod.mk.injEq] at view
    obtain ⟨tokens, acks, frames, _, bads, retries⟩ := view
    exact .of_next runs ⟨tokens, acks, bads, retries, frames, kept⟩
  case unheld =>
    intro q b bad1 bad2 ecc t l ha he h hg hs hf
    have eq := stripeToken_passedOver (bad1 := bad1) (bad2 := bad2) (ecc := ecc) h hg hs hf
    exact .of_next (act_served ha he eq) ⟨congrArg (List.drop 1) h, rfl, rfl,
      onlyChanges_untraced (takeToken_frame (List.Subset.refl _) (upd_ch_frame (List.Subset.refl _) (onlyChanges_refl _ b))) (by decide) rfl⟩
  case notStripe => exact fun q b bad1 bad2 ecc t l ha he h ht => act_served ha he (stripeToken_notTaken h ht)
  case waits =>
    intro q b bad1 bad2 ecc t l f ha he h hg hs hf hw
    obtain ⟨runs, kept⟩ := profiles q b bad1 bad2 ecc ha he
    obtain ⟨x, eq, view⟩ := profileToken_view (bad1 := bad1) (bad2 := bad2) (ecc := ecc) h hg hs (any_of_find hf)
    simp only [Block.jadeView, Prod.mk.injEq] at view
    obtain ⟨tokens, acks, frames, addresses, _, _⟩ := view
    have stays : finishFrame t.frame x = x := by
      refine finishFrame_waits (fun g hg => .inr ?_)
      rw [frames, find_onFrame (g := withProfile _) (fun _ => rfl), hf] at hg
      cases hg
      exact hw.imp (fun unknown => (destsKnown_of_resv addresses _).trans unknown) id
    rw [stays] at eq
    exact .of_next runs ⟨eq ▸ tokens, eq ▸ acks, eq ▸ frames, kept⟩
  case leaves =>
    intro q b bad1 bad2 ecc t l f ds ha he h hg hs hf hd hall
    obtain ⟨runs, kept⟩ := profiles q b bad1 bad2 ecc ha he
    obtain ⟨x, eq, view⟩ := profileToken_view (bad1 := bad1) (bad2 := bad2) (ecc := ecc) h hg hs (any_of_find hf)
    simp only [Block.jadeView, Prod.mk.injEq] at view
    obtain ⟨tokens, acks, frames, addresses, _, _⟩ := view
    have found := (congrArg (List.find? _) frames).trans ((find_onFrame (g := withProfile _) (fun _ => rfl) _).trans (congrArg (Option.map _) hf))
    obtain ⟨left, count⟩ := finishFrame_leaves found rfl ((destsKnown_of_resv addresses _).trans hd) hall
    simp only [Block.spared, frames, filter_onFrame (g := withProfile _) (fun _ => rfl), Prod.mk.injEq] at left
    obtain ⟨tokens', acks', frames'⟩ := left
    exact .of_next runs ⟨eq ▸ tokens'.trans tokens, eq ▸ acks'.trans acks, eq ▸ frames', eq ▸ count, kept⟩
  case notProfile => exact fun q b bad1 bad2 ecc t l ha he h ht => act_served ha he (profileToken_notTaken h ht)
  case stripeFails => exact fun q b bad1 bad2 ecc hf => act_served_failing hf rfl
  case stripeIdle => exact fun q b bad1 bad2 ecc hf h => act_served_idle hf h
  case profileFails => exact fun q b bad1 bad2 ecc hf => act_served_failing hf rfl
  case profileIdle => exact fun q b bad1 bad2 ecc hf h => act_served_idle hf h

end
end

section
/-! O23: DESTINATION_SET and the two reservations at Jade (07 R178, 08 R217, R221, 10 R275). -/

-- The proofs are elaborated one after another: each waiting in a thread of its own takes more memory than the check allows.
set_option Elab.async false

namespace Sys2Proof.Machine

/-! ### A Destination set -/

/-- The oldest Destination set is taken, and its settings have applied. -/
def setTaken (d : List Dest) (l : List (Nat × List Dest)) (b : Block) : Block :=
  { b with jade := applySettings d b.jade, ch := { b.ch with opalJade := l } }

section
variable {b : Block} {n : Nat} {d : List Dest} {l : List (Nat × List Dest)} (h : b.ch.opalJade = (n, d) :: l)
include h

theorem destinationSet_over (ho : frameOver b n = true) : destinationSet b = setTaken d l b := by
  unfold destinationSet
  rw [h]
  exact if_pos ho

section
variable (ho : frameOver b n = false)
include ho

/-- Of a Frame that is not over the set is kept until Jade is done with it, and goes to the Frame or waits for it. -/
theorem destinationSet_kept (x : Block)
    (hx : x = { b with
      jade := applySettings d b.jade
      ch := { b.ch with opalJade := l, kept := { b.ch.kept with opalJade := keepOnce (n, d) b.ch.kept.opalJade } } }) :
    destinationSet b =
      if b.jade.frames.any (fun f => f.snap.frame == n) then finishFrame n (modFrame n (fun f => { f with dests := some d }) x)
      else x.modJade (fun j => { j with destSets := j.destSets ++ [(n, d)] }) := by
  subst hx
  unfold destinationSet
  rw [h]
  exact if_neg (Bool.eq_false_iff.mp ho)

theorem destinationSet_waits (hf : b.jade.frames.any (fun f => f.snap.frame == n) = false) :
    destinationSet b = { b with
      jade := { applySettings d b.jade with destSets := b.jade.destSets ++ [(n, d)] }
      ch := { b.ch with opalJade := l, kept := { b.ch.kept with opalJade := keepOnce (n, d) b.ch.kept.opalJade } } } :=
  (destinationSet_kept h ho _ rfl).trans (if_neg (by rw [hf]; exact Bool.false_ne_true))

theorem destinationSet_gives {f : JFrame} (hf : b.jade.frames.find? (fun g => g.snap.frame == n) = some f)
    (hw : f.profile = none ∨ allProcessed f = false) :
    destinationSet b = { b with
      jade := { applySettings d b.jade with
        frames := b.jade.frames.map (fun g => if g.snap.frame = n then { g with dests := some d } else g) }
      ch := { b.ch with opalJade := l, kept := { b.ch.kept with opalJade := keepOnce (n, d) b.ch.kept.opalJade } } } := by
  refine (destinationSet_kept h ho _ rfl).trans ((if_pos (any_of_find hf)).trans (finishFrame_waits (fun g hg => ?_)))
  have found := hg.symm.trans ((find_onFrame (g := fun f => { f with dests := some d }) (fun _ => rfl) _).trans
    (congrArg (Option.map _) hf))
  cases found
  exact hw.imp id .inr

end
end

theorem destinationSet_none {b : Block} (h : b.ch.opalJade = []) : destinationSet b = b := by
  unfold destinationSet
  rw [h]

/-! ### A reservation -/

/-- An address of a Frame that lacks more than it is kept with it. -/
theorem takeReservation_waits {r : Nat × Nat × Option Nat} {b : Block}
    (h : ∀ f, b.jade.frames.find? (fun g => g.snap.frame == r.1) = some f → f.profile = none ∨ allProcessed f = false) :
    takeReservation r b = b.modJade (fun j => { j with resv := j.resv ++ [r] }) :=
  finishFrame_waits (fun f hf => (h f hf).imp id .inr)

section
variable {b : Block} {r : Nat × Nat × Option Nat} {l : List (Nat × Nat × Option Nat)}

theorem retentionReservation_over (h : b.ch.onyxJade = r :: l) (ho : frameOver b r.1 = true) :
    retentionReservation b = { b with ch := { b.ch with onyxJade := l } } := by
  unfold retentionReservation
  rw [h]
  exact if_pos ho

theorem retentionReservation_kept (h : b.ch.onyxJade = r :: l) (ho : frameOver b r.1 = false)
    (hw : ∀ f, b.jade.frames.find? (fun g => g.snap.frame == r.1) = some f → f.profile = none ∨ allProcessed f = false) :
    retentionReservation b = { b with
      jade := { b.jade with resv := b.jade.resv ++ [r] }
      ch := { b.ch with onyxJade := l, kept := { b.ch.kept with onyxJade := keepOnce r b.ch.kept.onyxJade } } } := by
  unfold retentionReservation
  rw [h]
  exact (if_neg (Bool.eq_false_iff.mp ho)).trans (takeReservation_waits hw)

theorem retentionReservation_none (h : b.ch.onyxJade = []) : retentionReservation b = b := by
  unfold retentionReservation
  rw [h]

theorem stagingReservation_over (h : b.ch.spinelJade = r :: l) (ho : frameOver b r.1 = true) :
    stagingReservation b = { b with ch := { b.ch with spinelJade := l } } := by
  unfold stagingReservation
  rw [h]
  exact if_pos ho

theorem stagingReservation_kept (h : b.ch.spinelJade = r :: l) (ho : frameOver b r.1 = false)
    (hw : ∀ f, b.jade.frames.find? (fun g => g.snap.frame == r.1) = some f → f.profile = none ∨ allProcessed f = false) :
    stagingReservation b = { b with
      jade := { b.jade with resv := b.jade.resv ++ [r] }
      ch := { b.ch with spinelJade := l, kept := { b.ch.kept with spinelJade := keepOnce r b.ch.kept.spinelJade } } } := by
  unfold stagingReservation
  rw [h]
  exact (if_neg (Bool.eq_false_iff.mp ho)).trans (takeReservation_waits hw)

theorem stagingReservation_none (h : b.ch.spinelJade = []) : stagingReservation b = b := by
  unfold stagingReservation
  rw [h]

end

end Sys2Proof.Machine

section
open Sys2Proof Sys2Proof.Machine

/-- Settles O23: a set or an address goes to its Frame, waits for it, or finds it over; a Frame that lacks more is not finished. -/
theorem destinationsAndAddressesReachJade : Obligations.DestinationsAndAddressesReachJade := by
  refine ⟨?waits, ?gives, ?past, ?none, ?retention, ?retentionPast, ?retentionNone, ?staging, ?stagingPast, ?stagingNone, ?total,
    ?fails, ?idle, ?totalRetention, ?failsRetention, ?idleRetention, ?totalStaging, ?failsStaging, ?idleStaging⟩
  case waits => exact fun q b n d l ha he h ho hf => act_served ha he (destinationSet_waits h ho hf)
  case gives => exact fun q b n d l f ha he h ho hf hw => act_served ha he (destinationSet_gives h ho hf hw)
  case past => exact fun q b n d l ha he h ho => act_served ha he (destinationSet_over h ho)
  case none => exact fun q b ha he h => act_served ha he (destinationSet_none h)
  case retention => exact fun q b r l ha he h ho hw => act_served ha he (retentionReservation_kept h ho hw)
  case retentionPast => exact fun q b r l ha he h ho => act_served ha he (retentionReservation_over h ho)
  case retentionNone => exact fun q b ha he h => act_served ha he (retentionReservation_none h)
  case staging => exact fun q b r l ha he h ho hw => act_served ha he (stagingReservation_kept h ho hw)
  case stagingPast => exact fun q b r l ha he h ho => act_served ha he (stagingReservation_over h ho)
  case stagingNone => exact fun q b ha he h => act_served ha he (stagingReservation_none h)
  case total => exact fun q b ha he => ⟨act_served ha he rfl, destinationSet_frame (by decide) (onlyChanges_refl _ b)⟩
  case fails => exact fun q b hf => act_served_failing hf rfl
  case idle => exact fun q b hf h => act_served_idle hf h
  case totalRetention =>
    exact fun q b ha he => ⟨act_served ha he rfl, retentionReservation_frame (by decide) (onlyChanges_refl _ b)⟩
  case failsRetention => exact fun q b hf => act_served_failing hf rfl
  case idleRetention => exact fun q b hf h => act_served_idle hf h
  case totalStaging =>
    exact fun q b ha he => ⟨act_served ha he rfl, stagingReservation_frame (by decide) (onlyChanges_refl _ b)⟩
  case failsStaging => exact fun q b hf => act_served_failing hf rfl
  case idleStaging => exact fun q b hf h => act_served_idle hf h

end
end

section
/-! O26: Jade's CRC counts and its clock division (06 R171, 15 R410). -/

set_option Elab.async false

namespace Sys2Proof.Machine

variable {b : Block}

theorem clrCounts_reached (h : b.bar0 = true) : clrCounts b = { b with jade := { b.jade with crcRetried := 0, crcBad := 0 } } :=
  if_pos h

theorem clrCounts_unreached (h : b.bar0 = false) : clrCounts b = b := if_neg (by rw [h]; exact Bool.false_ne_true)

theorem clockDivisionRequest_withdraws {l : List Nat} (h : b.ch.berylJade = 0 :: l) :
    clockDivisionRequest b = { b with
      jade := { b.jade with divided := false, divReq := none }
      ch := { b.ch with berylJade := l } } := by
  unfold clockDivisionRequest
  rw [h]
  rfl

theorem clockDivisionRequest_waits {n : Nat} {l : List Nat} (h : b.ch.berylJade = (n + 1) :: l) (hd : b.jade.divided = false) :
    clockDivisionRequest b = { b with jade := { b.jade with divReq := some n }, ch := { b.ch with berylJade := l } } := by
  unfold clockDivisionRequest
  rw [h]
  dsimp only
  rw [if_neg (Nat.succ_ne_zero n), Block.modJade, if_neg (by rw [Block.modCh_jade, hd]; exact Bool.false_ne_true)]
  rfl

theorem clockDivisionRequest_divided {n : Nat} {l : List Nat} (h : b.ch.berylJade = (n + 1) :: l) (hd : b.jade.divided = true) :
    clockDivisionRequest b = { b with ch := { b.ch with berylJade := l } } := by
  unfold clockDivisionRequest
  rw [h]
  dsimp only
  rw [if_neg (Nat.succ_ne_zero n), Block.modJade, if_pos (by rw [Block.modCh_jade, hd])]
  rfl

theorem clockDivisionRequest_none (h : b.ch.berylJade = []) : clockDivisionRequest b = b := by
  unfold clockDivisionRequest
  rw [h]

/-- No older Frame in Jade may need the full rate: the clock is divided. -/
theorem jadeClockDivide_divides {n : Nat} (h : b.jade.divReq = some n)
    (hf : ∀ f ∈ b.jade.frames, f.snap.frame < n → f.dests.any (fun l => fits768 f.snap.l (pathBits b.jade f.snap l)) = true) :
    jadeClockDivide b = { b with jade := { b.jade with divided := true, divReq := none } } := by
  unfold jadeClockDivide
  rw [h]
  refine if_neg (fun heavy => ?_)
  obtain ⟨f, hm, hh⟩ := List.any_eq_true.mp heavy
  simp only [Bool.and_eq_true, decide_eq_true_eq, Bool.not_eq_true'] at hh
  exact absurd (hf f hm hh.1) (by rw [hh.2]; exact Bool.false_ne_true)

theorem jadeClockDivide_waits {n : Nat} {f : JFrame} (h : b.jade.divReq = some n) (hm : f ∈ b.jade.frames) (hn : f.snap.frame < n)
    (hf : f.dests.any (fun l => fits768 f.snap.l (pathBits b.jade f.snap l)) = false) : jadeClockDivide b = b := by
  unfold jadeClockDivide
  rw [h]
  refine if_pos (List.any_eq_true.mpr ⟨f, hm, ?_⟩)
  rw [decide_eq_true hn, hf]
  rfl

theorem jadeClockDivide_none (h : b.jade.divReq = none) : jadeClockDivide b = b := by
  unfold jadeClockDivide
  rw [h]

end Sys2Proof.Machine

section
open Sys2Proof Sys2Proof.Machine

/-- Settles O26: the three commands, each by its own cases. -/
theorem jadeCountsAndClockDivision : Obligations.JadeCountsAndClockDivision := by
  refine ⟨?clears, ?unreached, ?withdraws, ?waits, ?divided, ?none, ?divides, ?heavy, ?unasked, ?clearTotal, ?total, ?fails, ?idle,
    ?divideTotal⟩
  case clears => exact fun q b h => act_of_eq (clrCounts_reached h)
  case unreached => exact fun q b h => act_of_eq (clrCounts_unreached h)
  case withdraws => exact fun q b l ha h => act_heeded ha (clockDivisionRequest_withdraws h)
  case waits => exact fun q b n l ha h hd => act_heeded ha (clockDivisionRequest_waits h hd)
  case divided => exact fun q b n l ha h hd => act_heeded ha (clockDivisionRequest_divided h hd)
  case none => exact fun q b ha h => act_heeded ha (clockDivisionRequest_none h)
  case divides => exact fun q b n ha h hf => act_gated ha (jadeClockDivide_divides h hf)
  case heavy => exact fun q b n f ha h hm hn hf => act_gated ha (jadeClockDivide_waits h hm hn hf)
  case unasked => exact fun q b ha h => act_gated ha (jadeClockDivide_none h)
  case clearTotal => exact fun q b => ⟨rfl, clrCounts_frame (by decide) (onlyChanges_refl _ b)⟩
  case total => exact fun q b ha => ⟨act_heeded ha rfl, clockDivisionRequest_frame (by decide) (onlyChanges_refl _ b)⟩
  case fails => exact fun q b hf => act_heeded_failing hf rfl
  case idle => exact fun q b ha hf => act_heeded_idle ha hf
  case divideTotal => exact fun q b ha => ⟨act_gated ha rfl, jadeClockDivide_frame (by decide) (onlyChanges_refl _ b)⟩

end
end

section
/-! O27: a token that passes the Egress Merge (01 R28, 12 R342) is traced where it is the last of its Frame. -/

-- The proofs are elaborated one after another: each waiting in a thread of its own takes more memory than the check allows.
set_option Elab.async false

namespace Sys2Proof.Machine

/-- A token of a magazine Segment. -/
def magazineToken : SegToken := { wSegTok with magazine := true }

/-- The recorder runs and has dropped an entry of Spinel's; the last token of a Frame is at the Egress Merge. -/
def lastTokenRecorded : Block := { wLive with
  ch := { coldChannels with jadeSpinel := [magazineToken], egressDue := [magazineToken.tag] }
  beryl := { wLive.beryl with evr := { wLive.beryl.evr with mode := 1, gaps := .replicate 9 1 } } }

/-- The last tag of the Frame has passed: its MERGE_DIGEST goes to the trace behind a TRACE_GAP, and no entry counts as dropped any
more. -/
theorem segmentStripeToken_clears_gap :
    (segmentStripeToken .ok lastTokenRecorded).beryl.evr ≠ lastTokenRecorded.beryl.evr := by
  have clears : (segmentStripeToken .ok lastTokenRecorded).beryl.evr.gaps ≠ lastTokenRecorded.beryl.evr.gaps := by decide +kernel
  exact fun h => clears (congrArg Evr.gaps h)

end Sys2Proof.Machine

section
open Sys2Proof Sys2Proof.Machine

/-- Refutes O27: of a token for a magazine the statement lets only the channels change; the last one of its Frame is traced, and
where the recorder has dropped entries of Spinel before, their count goes back to 0. -/
theorem not_segmentStripesAreStagedOrPassedOn : ¬ Obligations.SegmentStripesAreStagedOrPassedOn := by
  intro h
  obtain ⟨-, magazine, -⟩ := h
  obtain ⟨t, runs, -, -, -, -, kept⟩ := magazine [] lastTokenRecorded .ok magazineToken (by decide +kernel) (by decide +kernel)
    (by decide +kernel) (by decide +kernel) (by decide +kernel) (by decide +kernel) rfl
  have next : t.blk = segmentStripeToken .ok lastTokenRecorded := by
    have same := runs.symm.trans (act_served (by decide +kernel) (by decide +kernel) rfl)
    cases same
    rfl
  exact segmentStripeToken_clears_gap (next ▸ kept.at_ .evr (by decide))

end
end

section
/-! O28: the latch notice at Spinel: staging and keys (01 R16, R21, R22, 08 R221, 11 R297, R298, 12 R330). -/

-- The proofs are elaborated one after another: each waiting in a thread of its own takes more memory than the check allows.
set_option Elab.async false

namespace Sys2Proof.Machine

/-! ### Notes between Spinel and Opal -/

/-- A note of a Frame in the window, with no other waiting, is taken at once. -/
theorem tellOpal_taken {frame : Nat} {n : LedgerNote} {b : Block} (ht : b.takes .opal = true) (hn : b.ch.ledgerNotes = [])
    (hw : (winGet b frame).isSome = true) :
    tellOpal frame n b = { b with
      opal := { b.opal with window := b.opal.window.map (fun w => if w.frame = frame then takeNote n w else w) }
      ch := { b.ch with kept := { b.ch.kept with ledgerNotes := b.ch.kept.ledgerNotes ++ [(frame, n)] } } } := by
  have due (x : Bool) : ((winGet b frame).isSome || x) = true := by rw [hw, Bool.true_or]
  unfold tellOpal takeNotes
  refine (if_neg (show ¬(!b.takes .opal) = true by rw [ht]; exact Bool.false_ne_true)).trans ?_
  simp only [Block.modCh, hn, List.nil_append, List.filter_cons, List.filter_nil,
    show ∀ c, winGet { b with ch := c } frame = winGet b frame from fun _ => rfl, due, if_true, Bool.not_true,
    Bool.false_eq_true, if_false, List.foldl_cons, List.foldl_nil, winMod, Block.modOpal]

/-- With no word from Opal there is nothing to take. -/
theorem takeSpinelNotes_none {b : Block} (h : b.ch.opalSpinel = []) : takeSpinelNotes b = b := by
  unfold takeSpinelNotes
  split
  · rfl
  · simp only [Block.modCh, h, List.filter_nil, List.foldl_nil]
    rw [← h]

/-! ### The notice at the front -/

theorem latchNoticeSpinel_first {b : Block} {n : LatchNotice} {l : List LatchNotice} (h : b.ch.noticeSpinel = n :: l) :
    latchNoticeSpinel 0 b = serveNoticeSpinel b := by
  unfold latchNoticeSpinel
  rw [if_neg (by rw [h]; exact Nat.not_succ_le_zero _)]
  rfl

theorem latchNoticeSpinel_behind {b : Block} {k : Nat} (h : b.ch.noticeSpinel.length ≤ k) : latchNoticeSpinel k b = b := if_pos h

section
variable {b : Block} {n : LatchNotice} {l : List LatchNotice} (h : b.ch.noticeSpinel = n :: l)
include h

/-- A notice of no Frame is taken. -/
theorem serveNoticeSpinel_frameless (hn : n.snap = none) :
    serveNoticeSpinel b = b.modCh (fun c => { c with noticeSpinel := l }) := by
  unfold serveNoticeSpinel
  rw [h]
  dsimp only
  rw [hn]

section
variable {s : Snapshot} (hn : n.snap = some s)
include hn

/-- The set of the Frame has not come. -/
theorem serveNoticeSpinel_unbound (hd : b.ch.spinelDests.any (fun e => e.1 == s.frame) = false) :
    serveNoticeSpinel b =
      if b.ch.spinelDests.any (fun e => s.frame < e.1) then b.modCh (fun c => { c with noticeSpinel := l }) else b := by
  have none : b.ch.spinelDests.find? (fun e => e.1 == s.frame) = none :=
    List.find?_eq_none.mpr (fun e he => List.any_eq_false.mp hd e he)
  unfold serveNoticeSpinel
  rw [h]
  dsimp only
  rw [hn]
  dsimp only
  rw [none]

/-- What follows the binding of Frame `frame`: a Frame that Spinel has failed fails. -/
def boundOrFailed (frame : Nat) (b : Block) : Block :=
  if b.spinel.failed.contains frame then failInSpinel frame markFailStop b else b

/-- The Frame's set has come: its items are bound. -/
theorem serveNoticeSpinel_binds {m : Nat} {ds : List Dest} (hd : b.ch.spinelDests.find? (fun e => e.1 == s.frame) = some (m, ds)) :
    serveNoticeSpinel b = boundOrFailed s.frame (takeSpinelNotes (bindInSpinel s.frame ds
      ((missedInSpinel s.frame (b.modCh (fun c => { c with noticeSpinel := l }))).modCh (fun c => { c with
        spinelDests := c.spinelDests.filter (fun e => s.frame < e.1) })))) := by
  unfold serveNoticeSpinel
  rw [h]
  dsimp only
  rw [hn]
  dsimp only
  rw [hd]
  rfl

/-- The notice at the front is taken with its set. -/
def noticeServed (l : List LatchNotice) (b : Block) : Block :=
  b.modCh (fun c => { c with noticeSpinel := l, spinelDests := [] })

/-- Nothing else waits for Spinel: the notice is taken with its set, whose one Destination is bound; of what is bound nothing fails
the Frame. -/
theorem serveNoticeSpinel_alone {d : Dest} {c : Block} (hd : b.ch.spinelDests = [(s.frame, [d])])
    (hc : bindKey s.frame (reserveStaging s.frame (noticeServed l b) d) d = c)
    (hf : c.spinel.failed = b.spinel.failed) (hs : b.spinel.failed.contains s.frame = false)
    (ho : c.ch.opalSpinel = []) : serveNoticeSpinel b = c := by
  have found : b.ch.spinelDests.find? (fun e => e.1 == s.frame) = some (s.frame, [d]) := by
    rw [hd]
    exact List.find?_cons_of_pos (beq_self_eq_true s.frame)
  have none_before : missedInSpinel s.frame (b.modCh (fun c => { c with noticeSpinel := l })) =
      b.modCh (fun c => { c with noticeSpinel := l }) := by
    unfold missedInSpinel
    rw [show (b.modCh (fun c => { c with noticeSpinel := l })).ch.spinelDests = [(s.frame, [d])] from hd]
    simp
  have dropped : (b.modCh (fun c => { c with noticeSpinel := l })).modCh (fun c => { c with
      spinelDests := c.spinelDests.filter (fun e => s.frame < e.1) }) =
      noticeServed l b := by
    simp [Block.modCh, hd, noticeServed]
  rw [serveNoticeSpinel_binds h hn found, none_before, dropped,
    show bindInSpinel s.frame [d] _ = c from hc, takeSpinelNotes_none ho, boundOrFailed, hf, hs]
  rfl

end
end

/-! ### What is bound for one Destination -/

section
variable {frame : Nat} {d : Dest} {b : Block}

theorem reserveStaging_magazine (hm : d.magazine = true) : reserveStaging frame b d = b := if_pos hm

theorem reserveStaging_room (hm : d.magazine = false) {a : Nat}
    (ha : allocate stagingBase stagingSize d.segLen (b.spinel.staging.map (fun r => (r.2.2.1, r.2.2.2))) = some a) :
    reserveStaging frame b d = { b with
      spinel := { b.spinel with
        staging := b.spinel.staging ++ [(frame, d.index, a, d.segLen)]
        segs := b.spinel.segs ++ [⟨frame, d, a, [], false, none, [], false, false⟩] }
      ch := { b.ch with spinelJade := b.ch.spinelJade ++ [(frame, d.index, some a)] } } := by
  unfold reserveStaging
  rw [if_neg (by rw [hm]; exact Bool.false_ne_true), ha]
  rfl

theorem reserveStaging_full (hm : d.magazine = false)
    (ha : allocate stagingBase stagingSize d.segLen (b.spinel.staging.map (fun r => (r.2.2.1, r.2.2.2))) = none) :
    reserveStaging frame b d = (tellOpal frame (.outcome d.index .stagingFull) b).modCh (fun c => { c with
      spinelJade := c.spinelJade ++ [(frame, d.index, none)] }) := by
  unfold reserveStaging
  rw [if_neg (by rw [hm]; exact Bool.false_ne_true), ha]

theorem bindKey_unkeyed (hk : d.keyed = false) : bindKey frame b d = b := if_pos (by rw [hk]; rfl)

theorem bindKey_keyed (hk : d.keyed = true) (hb : b.spinel.binds.any (fun k => k.frame == frame && k.ctx == d.ctx) = false) :
    bindKey frame b d = (takeKey frame d.ctx b).modSpinel (fun s => { s with
      binds := s.binds ++ [{ frame, ctx := d.ctx, key := (slotGet (takeKey frame d.ctx b) d.ctx).current, old := false }] }) :=
  if_neg (by rw [hk, hb]; exact Bool.false_ne_true)

theorem takeKey_none {c : Nat} (h : b.spinel.keyOpen.any (fun e => e.ctx == c && e.since ≤ frame) = false) :
    takeKey frame c b = b := by
  have none : b.spinel.keyOpen.find? (fun e => e.ctx == c && e.since ≤ frame) = none :=
    List.find?_eq_none.mpr (fun e he => List.any_eq_false.mp h e he)
  unfold takeKey
  rw [none]

theorem Block.modSpinel_congr {f g : Spinel → Spinel} (h : f b.spinel = g b.spinel) : b.modSpinel f = b.modSpinel g := by
  rw [Block.modSpinel, h, Block.modSpinel]

theorem slotGet_finishCtrl (i st f v e c : Nat) : slotGet (finishCtrl i st f v e b) c = slotGet b c := by
  rw [slotGet, finishCtrl_spinel, slotGet]

theorem slotGet_slotSet {c : Nat} (hc : c < 256) (k : KeySlot) : slotGet (slotSet c k b) c = k :=
  vget_vset_self hc b.spinel.slots k emptySlot

/-- The one load that waits for its first Frame takes this one. -/
theorem takeKey_one {c : Nat} {e : KeyOpen} (hb : b.spinel.binds = []) (ho : b.spinel.keyOpen = [e]) (hc : e.ctx = c)
    (hs : e.since ≤ frame) :
    takeKey frame c b = finishCtrl e.desc stOk frame (keyCheck e.key) 0 (slotSet c
      { slotGet b c with state := .rolling, current := e.key, previous := (slotGet b c).current }
      { b with spinel := { b.spinel with keyOpen := [] } }) := by
  have found : b.spinel.keyOpen.find? (fun e => e.ctx == c && e.since ≤ frame) = some e := by
    rw [ho]
    exact List.find?_cons_of_pos (by simp [hc, hs])
  unfold takeKey
  rw [found]
  simp only [Block.modSpinel, hb, ho, List.map_nil, List.filter_cons, bne_self_eq_false, Bool.false_eq_true, if_false, List.filter_nil]

end

end Sys2Proof.Machine

section
open Sys2Proof Sys2Proof.Machine

/-- Settles O28: the notice waits or is served, and one Destination is bound by what it asks for: staging, or a key. -/
theorem latchNoticesReserveStagingAndBindKeys : Obligations.LatchNoticesReserveStagingAndBindKeys := by
  refine ⟨?frameless, ?waits, ?passed, ?binds, ?room, ?full, ?current, ?rolls, ?gap, ?behind, ?total, ?fails, ?idle⟩
  case frameless =>
    exact fun q b n l ha he h hn => act_served ha he ((latchNoticeSpinel_first h).trans (serveNoticeSpinel_frameless h hn))
  case waits =>
    intro q b n l s ha he h hn hd
    have later (e : Nat × List Dest) (hm : e ∈ b.ch.spinelDests) : e.1 < s.frame := by
      simpa using List.any_eq_false.mp hd e hm
    refine act_served ha he ((latchNoticeSpinel_first h).trans ((serveNoticeSpinel_unbound h hn ?_).trans (if_neg ?_)))
    · exact List.any_eq_false.mpr (fun e hm => by simpa using Nat.ne_of_lt (later e hm))
    · exact Bool.eq_false_iff.mp (List.any_eq_false.mpr (fun e hm => by simpa using Nat.le_of_lt (later e hm)))
  case passed =>
    exact fun q b n l s ha he h hn hd hl =>
      act_served ha he ((latchNoticeSpinel_first h).trans ((serveNoticeSpinel_unbound h hn hd).trans (if_pos hl)))
  case binds =>
    intro q b n l s m ds y ha he h hn hd hy
    exact act_served ha he ((latchNoticeSpinel_first h).trans ((serveNoticeSpinel_binds h hn hd).trans (by rw [hy]; rfl)))
  case room =>
    intro q b n l s d a ha he h hn hd hs ho hm hk hroom
    refine act_served ha he ((latchNoticeSpinel_first h).trans (serveNoticeSpinel_alone h hn hd ?_ rfl hs ho))
    rw [reserveStaging_room (b := noticeServed l b) hm hroom, bindKey_unkeyed hk]
    rfl
  case full =>
    intro q b n l s d ha he h hn hd hs ho hw ht hl hm hk hfull
    refine act_served ha he ((latchNoticeSpinel_first h).trans (serveNoticeSpinel_alone h hn hd ?_ rfl hs ho))
    rw [reserveStaging_full (b := noticeServed l b) hm hfull, bindKey_unkeyed hk, tellOpal_taken (b := noticeServed l b) ht hl hw]
    rfl
  case current =>
    intro q b n l s d ha he h hn hd hs ho hm hk hb hopen
    refine act_served ha he ((latchNoticeSpinel_first h).trans (serveNoticeSpinel_alone h hn hd ?_ rfl hs ho))
    rw [reserveStaging_magazine hm, bindKey_keyed (b := noticeServed l b) hk hb, takeKey_none (b := noticeServed l b) hopen]
    rfl
  case rolls =>
    intro q b n l s d e ha he h hn hd hs ho hm hk hb hopen hc hsince hctx
    have bound := (congrArg (bindKey s.frame · d) (reserveStaging_magazine (frame := s.frame) (b := noticeServed l b) hm)).trans
      (bindKey_keyed (b := noticeServed l b) hk (by rw [show (noticeServed l b).spinel = b.spinel from rfl, hb]; rfl))
    rw [takeKey_one (b := noticeServed l b) hb hopen hc hsince] at bound
    refine act_served ha he ((latchNoticeSpinel_first h).trans ((serveNoticeSpinel_alone h hn hd bound ?_ hs ?_).trans ?_))
    · rw [Block.modSpinel_spinel, finishCtrl_spinel]
      rfl
    · rw [Block.modSpinel_ch, finishCtrl_opalSpinel]
      exact ho
    · refine Block.modSpinel_congr ?_
      rw [slotGet_finishCtrl, slotGet_slotSet hctx, finishCtrl_spinel]
      exact congrArg (fun x : List KeyBind => { (slotSet d.ctx _ _).spinel with
        binds := x ++ [(⟨s.frame, d.ctx, e.key, false⟩ : KeyBind)] }) hb
  case gap =>
    intro q b k n l ha he hk hl hn
    refine act_served ha he ?_
    have more : ¬ b.ch.noticeSpinel.length ≤ k := fun h => List.cons_ne_nil n l (hl.symm.trans (List.drop_eq_nil_of_le h))
    have missed : missNoticesSpinel k b = eventGap .spinel { b with ch := { b.ch with noticeSpinel := n :: l } } := by
      unfold missNoticesSpinel
      rw [if_neg (fun h => hk (by rw [h])), if_pos (by simpa [gapSeen] using hk), hl.symm]
      rfl
    have front : (missNoticesSpinel k b).ch.noticeSpinel = n :: l := by
      have kept := eventGap_frame (sink := .spinel) (List.Subset.refl _)
        (onlyChanges_refl _ { b with ch := { b.ch with noticeSpinel := n :: l } })
      exact missed ▸ (congrArg Channels.noticeSpinel (kept_ch kept (by decide)) :)
    exact (if_neg more).trans ((serveNoticeSpinel_frameless front hn).trans (by rw [missed]))
  case behind => exact fun q b k ha he h => act_served ha he (latchNoticeSpinel_behind h)
  case total => exact fun q b lost ha he => ⟨act_served ha he rfl, latchNoticeSpinel_frame (by decide) (onlyChanges_refl _ b)⟩
  case fails => exact fun q b lost hf => act_served_failing hf rfl
  case idle => exact fun q b lost hf h => act_served_idle hf h

end
end

section
/-! O30: the keys that no Frame needs go, and the slots that a write empties (11 R296, R299, R308). -/

-- The proofs are elaborated one after another: each waiting in a thread of its own takes more memory than the check allows.
set_option Elab.async false

namespace Sys2Proof.Machine

variable {b : Block} {w : Word}

/-- The bindings that are still needed, and what is left in the slots. -/
def keysReleased (b : Block) : Block :=
  { b with spinel := { b.spinel with
    binds := b.spinel.binds.filter (bindLive b)
    slots := Vector.ofFn (fun j =>
      releaseSlot (b.spinel.binds.filter (bindLive b)) j.val (mayBind b (b.spinel.slots.get j)) (b.spinel.slots.get j)) } }

/-- With no load waiting nothing follows the release. -/
theorem keyRelease_alone (h : b.spinel.keyWait = []) : keyRelease b = keysReleased b := by
  unfold keyRelease
  simp only [Block.modSpinel, keysReleased, h, List.filter_nil, List.foldl_nil]

/-- A ROLLING slot to which no Frame is bound loses its previous key. -/
theorem releaseSlot_rolling {k : KeySlot} (h : k.state = .rolling) (c : Nat) (pend : Bool) :
    releaseSlot [] c pend k = { k with state := .loaded, previous := [] } := by
  unfold releaseSlot
  rw [h]
  rfl

theorem zeroiseSlot_empties {c : Nat} (hc : (b.ctx c).state = .closed) (hs : (slotGet b c).state ≠ .retiring) :
    zeroiseSlot b c = slotSet c emptySlot b :=
  if_pos (by simp [hc, hs])

theorem zeroiseSlot_refuses {c : Nat} (h : (b.ctx c).state ≠ .closed ∨ (slotGet b c).state = .retiring) :
    zeroiseSlot b c = b.modSpinel (fun s => { s with refused := true }) := by
  refine if_neg ?_
  rcases h with h | h <;> simp [h]

theorem zeroise_unreached (h : b.bar0 = false) : zeroise w b = b := if_pos (by rw [h]; rfl)

section
variable (h : b.bar0 = true)
include h

theorem zeroise_otherCode (hc : bitsOf w.toNat 23 16 ≠ 0xA5) :
    zeroise w b = { b with spinel := { b.spinel with refused := false } } := by
  unfold zeroise
  rw [if_neg (by rw [h]; exact Bool.false_ne_true)]
  exact if_pos (by simpa using hc)

section
variable (hc : bitsOf w.toNat 23 16 = 0xA5)
include hc

theorem zeroise_all (ha : bitOf w.toNat 8 = true) :
    zeroise w b = (List.range 256).foldl zeroiseSlot { b with spinel := { b.spinel with refused := false } } := by
  unfold zeroise
  rw [if_neg (by rw [h]; exact Bool.false_ne_true)]
  exact (if_neg (by rw [hc]; decide)).trans (if_pos ha)

theorem zeroise_one (ha : bitOf w.toNat 8 = false) :
    zeroise w b = zeroiseSlot { b with spinel := { b.spinel with refused := false } } (bitsOf w.toNat 7 0) := by
  unfold zeroise
  rw [if_neg (by rw [h]; exact Bool.false_ne_true)]
  exact (if_neg (by rw [hc]; decide)).trans (if_neg (Bool.eq_false_iff.mp ha))

end
end

end Sys2Proof.Machine

section
open Sys2Proof Sys2Proof.Machine

/-- Settles O30: a release is one change of bindings and slots, after which the loads that waited are checked in order; a write of
SPN_KEY_CTRL goes by its code. -/
theorem keysAreReleasedAndZeroised : Obligations.KeysAreReleasedAndZeroised := by
  refine ⟨?alone, ?loads, ?rolling, ?empties, ?refuses, ?all, ?code, ?unreached, ?total, ?totalZeroise, ?fails, ?idle⟩
  case alone => exact fun q b ha h => act_gated ha (keyRelease_alone h)
  case loads =>
    intro q b y ha hy
    subst hy
    exact act_gated ha rfl
  case rolling =>
    intro q b c ha h hs hb
    have eq := keyRelease_alone h
    refine .of_next (act_gated ha eq) ⟨?_, ?_, eq ▸ keyRelease_frame (by decide) (onlyChanges_refl _ b)⟩
    · simp only [keysReleased, hb, List.filter_nil, Vector.get_ofFn, releaseSlot_rolling hs]
    · simp only [keysReleased, hb, List.filter_nil]
  case empties =>
    exact fun q b w ha h hc hall hx hs => act_heeded ha ((zeroise_one h hc hall).trans (zeroiseSlot_empties hx hs))
  case refuses => exact fun q b w ha h hc hall hx => act_heeded ha ((zeroise_one h hc hall).trans (zeroiseSlot_refuses hx))
  case all => exact fun q b w ha h hc hall => act_heeded ha (zeroise_all h hc hall)
  case code => exact fun q b w ha h hc => act_heeded ha (zeroise_otherCode h hc)
  case unreached => exact fun q b w ha h => act_heeded ha (zeroise_unreached h)
  case total => exact fun q b ha => ⟨act_gated ha rfl, keyRelease_frame (by decide) (onlyChanges_refl _ b)⟩
  case totalZeroise => exact fun q b w ha => ⟨act_heeded ha rfl, zeroise_frame (by decide) (onlyChanges_refl _ b)⟩
  case fails => exact fun q b w hf => act_heeded_failing hf rfl
  case idle => exact fun q b w ha hf => act_heeded_idle ha hf

end
end

section
/-! O31: polls of the Doorbell Page and fetches of descriptors (08 R200, R202, R205 to R209, R227). -/

-- The proofs are elaborated one after another: each waiting in a thread of its own takes more memory than the check allows.
set_option Elab.async false

namespace Sys2Proof.Machine

/-! ### What Opal's writers leave of a poll -/

/-- The run of failed polls and the Control Ring's producer index are kept, and what was asked for and written stays so. -/
structure KeepsPoll (a b : Block) : Prop where
  run : b.opal.failRun = a.opal.failRun
  index : b.opal.ctrl.pi = a.opal.ctrl.pi
  reads : a.out.reads <:+ b.out.reads
  host : a.out.host <:+ b.out.host

namespace KeepsPoll

theorem refl (b : Block) : KeepsPoll b b := ⟨rfl, rfl, List.suffix_refl _, List.suffix_refl _⟩

theorem trans {a b c : Block} (h : KeepsPoll a b) (k : KeepsPoll b c) : KeepsPoll a c :=
  ⟨k.run.trans h.run, k.index.trans h.index, h.reads.trans k.reads, h.host.trans k.host⟩

/-- One more read asked for. -/
theorem read (x : Nat × Nat) (b : Block) : KeepsPoll b (b.modOut (fun o => { o with reads := x :: o.reads })) :=
  ⟨rfl, rfl, List.suffix_cons x _, List.suffix_refl _⟩

/-- What touches neither Opal nor the outputs. -/
theorem of_kept {ps : List Piece} {a b : Block} (h : onlyChanges ps a b) (ho : .opal ∉ ps) (hp : .posts ∉ ps) (hr : .out ∉ ps) :
    KeepsPoll a b := by
  have out : b.out = a.out := h.at_ .out hr
  obtain ⟨ctrl, -⟩ := h.at_ .posts hp
  exact ⟨(congrArg Opal.failRun (kept_opal h ho) :), congrArg Ring.pi ctrl, out ▸ List.suffix_refl _, out ▸ List.suffix_refl _⟩

theorem foldl {α : Type} {f : Block → α → Block} {l : List α} (hf : ∀ x, ∀ y ∈ l, KeepsPoll x (f x y)) (b : Block) :
    KeepsPoll b (l.foldl f b) := by
  induction l generalizing b with
  | nil => exact refl b
  | cons y l ih => exact (hf b y List.mem_cons_self).trans (ih (fun x z hz => hf x z (List.mem_cons_of_mem _ hz)) _)

end KeepsPoll

theorem logEvr_keepsPoll (i : Island) (t : Nat) (p : List Byte) (k : List (List Byte)) (st : Option Nat) (b : Block) :
    KeepsPoll b (b.logEvr i t p k st) :=
  .of_kept (Block.logEvr_kept b i t p k st) (by decide) (by decide) (by decide)

/-- A ring put back with the producer index that it had. -/
theorem setRing_keepsPoll {r : Nat} {x : Ring} {b : Block} (h : r < 256 ∨ x.pi = (b.ring r).pi) : KeepsPoll b (b.setRing r x) := by
  unfold Block.setRing
  split
  · exact ⟨rfl, rfl, List.suffix_refl _, List.suffix_refl _⟩
  · next hr => exact ⟨rfl, (h.resolve_left hr).trans (congrArg Ring.pi (if_neg hr)), List.suffix_refl _, List.suffix_refl _⟩

theorem readHead_keepsPoll (r : Nat) (b : Block) : KeepsPoll b (readHead r b) := by
  unfold readHead
  split
  · exact .refl b
  · exact .read _ b

theorem writeRecord_keepsPoll (r : Nat) (l : List Byte) (b : Block) : KeepsPoll b (writeRecord r l b) := by
  have writes (a : Nat) (v : List Byte) : KeepsPoll b (b.hostWrite a v) := ⟨rfl, rfl, List.suffix_refl _, List.suffix_cons _ _⟩
  refine KeepsPoll.trans ?_ (readHead_keepsPoll r _)
  exact (writes ..).trans (setRing_keepsPoll (.inr rfl))

theorem requestMsg_keepsPoll (v : Nat) (b : Block) : KeepsPoll b (requestMsg v b) := by
  unfold requestMsg
  extract_lets x
  split
  · exact ⟨rfl, rfl, List.suffix_refl _, List.suffix_refl _⟩
  · split <;> exact ⟨rfl, rfl, List.suffix_refl _, List.suffix_refl _⟩

theorem flushEvents_keepsPoll (k : Nat) (b : Block) : KeepsPoll b (flushEvents k b) := by
  induction k generalizing b with
  | zero => exact .refl b
  | succ k ih =>
    unfold flushEvents
    split
    · exact .refl b
    · next e es he =>
      split
      · refine KeepsPoll.trans ?_ ((requestMsg_keepsPoll ..).trans (ih _))
        exact (writeRecord_keepsPoll ctrlRing (eventRecord e b.opal.evLost) b).trans ⟨rfl, rfl, List.suffix_refl _, List.suffix_refl _⟩
      · exact .refl b

theorem postEventAt_keepsPoll (s c f : Nat) (d : List Byte) (b : Block) : KeepsPoll b (postEventAt s c f d b) := by
  unfold postEventAt
  split
  · exact .refl b
  extract_lets o e raised
  split
  · refine KeepsPoll.trans ?_ (flushEvents_keepsPoll ..)
    exact ⟨rfl, rfl, List.suffix_refl _, List.suffix_refl _⟩
  · exact ⟨rfl, rfl, List.suffix_refl _, List.suffix_refl _⟩

theorem postEvent_keepsPoll (c f : Nat) (d : List Byte) (b : Block) : KeepsPoll b (postEvent c f d b) := postEventAt_keepsPoll ..

theorem setCtx_keepsPoll (c : Nat) (x : Ctx) (b : Block) : KeepsPoll b (b.setCtx c x) := ⟨rfl, rfl, List.suffix_refl _, List.suffix_refl _⟩

theorem stopRing_keepsPoll (r : Nat) (b : Block) : KeepsPoll b (stopRing r b) := by
  have stops : KeepsPoll b (b.setRing r { b.ring r with state := .stopped }) := setRing_keepsPoll (.inr rfl)
  unfold stopRing
  extract_lets b1 c
  split
  · split
    · exact stops.trans (setCtx_keepsPoll ..)
    · exact stops
  · exact stops

theorem countRecord_keepsPoll (l : List Byte) (b : Block) : KeepsPoll b (countRecord l b) := by
  unfold countRecord
  extract_lets n crc b1
  have counts : KeepsPoll b b1 := ⟨rfl, rfl, List.suffix_refl _, List.suffix_refl _⟩
  split
  · exact counts.trans (logEvr_keepsPoll ..)
  · exact counts

theorem flushRing_keepsPoll (k r : Nat) (b : Block) : KeepsPoll b (flushRing k r b) := by
  induction k generalizing b with
  | zero => exact .refl b
  | succ k ih =>
    unfold flushRing
    extract_lets x
    split
    · split
      · split
        · refine KeepsPoll.trans ?_ (stopRing_keepsPoll ..)
          refine KeepsPoll.trans ?_ (postEvent_keepsPoll ..)
          refine KeepsPoll.trans ?_ (requestMsg_keepsPoll ..)
          exact (writeRecord_keepsPoll ..).trans (setRing_keepsPoll (.inr rfl))
        · exact .refl b
      · split
        · extract_lets w v b1 y b2 b3
          have writes : KeepsPoll b b1 := (writeRecord_keepsPoll ..).trans (countRecord_keepsPoll ..)
          have retires : KeepsPoll b1 b2 := setRing_keepsPoll (.inr rfl)
          have signals : KeepsPoll b2 b3 := by
            unfold b3
            split
            · exact requestMsg_keepsPoll ..
            · exact .refl b2
          exact (writes.trans retires).trans (signals.trans (ih _))
        · exact .refl b
    · exact .refl b

theorem dispatchRing_keepsPoll (r : Nat) (b : Block) : KeepsPoll b (dispatchRing r b) := by
  unfold dispatchRing
  split
  · extract_lets x b1
    have sets : KeepsPoll b b1 := setRing_keepsPoll (.inr rfl)
    split
    · exact sets
    · exact sets.trans ⟨rfl, rfl, List.suffix_refl _, List.suffix_refl _⟩
  · exact .refl b

theorem pumpRing_keepsPoll (k r : Nat) (b : Block) : KeepsPoll b (pumpRing k r b) := by
  induction k generalizing b with
  | zero => exact .refl b
  | succ k ih => exact (dispatchRing_keepsPoll ..).trans ((flushRing_keepsPoll ..).trans (ih _))

theorem serveRing_keepsPoll (r : Nat) (b : Block) : KeepsPoll b (serveRing r b) :=
  (pumpRing_keepsPoll ..).trans (flushEvents_keepsPoll ..)

theorem finishCtrl_keepsPoll (idx st fr val det : Nat) (b : Block) : KeepsPoll b (finishCtrl idx st fr val det b) := by
  unfold finishCtrl finish
  extract_lets x y
  have freed : y = b.modOpal (fun o => { o with ghosts := o.ghosts.filter (fun d => d.index != idx) }) := if_neg (by decide)
  have kept : KeepsPoll b y := freed ▸ ⟨rfl, rfl, List.suffix_refl _, List.suffix_refl _⟩
  have same : x.pi = (y.ring ctrlRing).pi := freed ▸ rfl
  refine (kept.trans (setRing_keepsPoll ?_)).trans (serveRing_keepsPoll ctrlRing _)
  exact .inr same

/-! ### The other indices of the page -/

theorem takePi_keepsPoll {r : Nat} (hr : r < 256) (w : Nat) (b : Block) : KeepsPoll b (takePi r w b) := by
  unfold takePi
  extract_lets x
  split
  · exact .refl b
  · split <;> exact setRing_keepsPoll (.inl hr)

theorem takeHead_keepsPoll (r w : Nat) (b : Block) : KeepsPoll b (takeHead r w b) := by
  unfold takeHead
  extract_lets x
  split
  · exact .refl b
  split
  · split
    · exact .refl b
    · exact (setRing_keepsPoll (x := { b.ring r with headFault := true }) (.inr rfl)).trans
        ((stopRing_keepsPoll ..).trans (postEvent_keepsPoll ..))
  · exact setRing_keepsPoll (.inr rfl)

theorem takeLedgerHead_keepsPoll (w : Nat) (b : Block) : KeepsPoll b (takeLedgerHead w b) := by
  unfold takeLedgerHead
  extract_lets r
  split
  · exact .refl b
  split
  · refine KeepsPoll.trans ?_ (postEvent_keepsPoll ..)
    exact ⟨rfl, rfl, List.suffix_refl _, List.suffix_refl _⟩
  · exact ⟨rfl, rfl, List.suffix_refl _, List.suffix_refl _⟩

theorem pollCtx_keepsPoll (p : List Byte) {c : Nat} (hc : c < 256) (b : Block) : KeepsPoll b (pollCtx p b c) := by
  unfold pollCtx
  extract_lets x summary piW headW readPi readHead changed b1 b2 b3
  have logs : KeepsPoll b b1 := by
    unfold b1
    split
    · exact logEvr_keepsPoll ..
    · exact .refl b
  have index : KeepsPoll b1 b2 := by
    unfold b2
    split
    · exact takePi_keepsPoll hc ..
    · exact .refl b1
  have head : KeepsPoll b2 b3 := by
    unfold b3
    split
    · exact takeHead_keepsPoll ..
    · exact .refl b2
  split
  · exact ((logs.trans index).trans head).trans (serveRing_keepsPoll ..)
  · exact (logs.trans index).trans head

/-! ### The Ledger -/

theorem writeLedger_keepsPoll (w : LedgerFrame) (b : Block) : KeepsPoll b (writeLedger w b) := by
  unfold writeLedger
  extract_lets lost body r b1 b2 b3 b4 b5 b6 b7 every
  have stamps : KeepsPoll b b1 := by
    unfold b1
    split <;> exact ⟨rfl, rfl, List.suffix_refl _, List.suffix_refl _⟩
  have logs : KeepsPoll b1 b3 := (logEvr_keepsPoll ..).trans (logEvr_keepsPoll ..)
  have writes : KeepsPoll b3 b5 := ⟨rfl, rfl, List.suffix_refl _, List.suffix_cons _ _⟩
  have heads : KeepsPoll b5 b6 := by
    unfold b6
    split
    · exact .refl b5
    · exact .read _ b5
  have marks : KeepsPoll b6 b7 := ⟨rfl, rfl, List.suffix_refl _, List.suffix_refl _⟩
  have all := ((stamps.trans logs).trans writes).trans (heads.trans marks)
  split
  · exact all.trans (requestMsg_keepsPoll ..)
  · exact all

theorem publishLoop_keepsPoll (k : Nat) (b : Block) : KeepsPoll b (publishLoop k b) := by
  induction k generalizing b with
  | zero => exact .refl b
  | succ k ih =>
    have steps (x : Block) (n : Nat) : KeepsPoll x (x.modOpal (fun o => { o with nextPub := n })) :=
      ⟨rfl, rfl, List.suffix_refl _, List.suffix_refl _⟩
    unfold publishLoop
    extract_lets n step
    split
    · split
      · exact (steps ..).trans (ih _)
      · exact .refl b
    · split
      · exact (steps ..).trans (ih _)
      · split
        · exact ((writeLedger_keepsPoll ..).trans (steps ..)).trans (ih _)
        · exact .refl b

theorem postTakeEnds_keepsPoll (k : Nat) (b : Block) : KeepsPoll b (postTakeEnds k b) := by
  induction k generalizing b with
  | zero => exact .refl b
  | succ k ih =>
    unfold postTakeEnds
    split
    · exact .refl b
    · split
      · refine KeepsPoll.trans ?_ ((postEvent_keepsPoll ..).trans (ih _))
        exact ⟨rfl, rfl, List.suffix_refl _, List.suffix_refl _⟩
      · exact .refl b

theorem serveLedger_keepsPoll (b : Block) : KeepsPoll b (serveLedger b) := by
  have trims (x : Block) : KeepsPoll x (trimWindow x) := ⟨rfl, rfl, List.suffix_refl _, List.suffix_refl _⟩
  exact (publishLoop_keepsPoll ..).trans ((trims _).trans (postTakeEnds_keepsPoll ..))

/-! ### A poll -/

section
variable {b : Block}

theorem poll_unpolled (h : polls b = false) (x : Option (List Byte)) : poll x b = b := if_pos (by rw [h]; rfl)

theorem pollReadTimeout_unpolled (h : polls b = false) : pollReadTimeout b = b := if_neg (by rw [h]; exact Bool.false_ne_true)

theorem pollFailed_counts (h : b.opal.failRun ≠ 7) : pollFailed b = b.modOpal (fun o => { o with failRun := o.failRun + 1 }) :=
  if_neg (by omega)

theorem pollFailed_faults (h : b.opal.failRun = 7) :
    pollFailed b = postEvent evDoorbellFault frameNone (evData [8, 0]) (b.modOpal (fun o => { o with failRun := 8 })) := by
  unfold pollFailed
  rw [h]
  rfl

section
variable (hp : polls b = true)
include hp

theorem poll_none : poll none b = pollFailed (b.modOut (fun o => { o with reads := (doorbellBase b, 64) :: o.reads })) :=
  if_neg (by rw [hp]; exact Bool.false_ne_true)

theorem pollReadTimeout_polled : pollReadTimeout b = pollFailed b := if_pos hp

/-- The reads of a poll that returned, which ends the run of failed ones. -/
def pollRead (p : List Byte) (b : Block) : Block :=
  { b with opal := { b.opal with failRun := 0 }, out := { b.out with reads := pollReads b p ++ b.out.reads } }

theorem poll_page (hm : b.beryl.evr.mode ≠ 2) (hr : b.opal.failRun < 8) (p : List Byte) : poll (some p) b =
    serveLedger (serveRing ctrlRing ((List.range 256).foldl (pollCtx p) (takeDoorbell p (logDoorbell p (pollRead p b))))) := by
  unfold poll
  simp only [hp, Bool.not_true, Bool.false_eq_true, if_false, Block.modOut_opal, Nat.not_le.mpr hr, Block.modOpal_beryl,
    Block.modOut_beryl, hm]
  rfl

end

/-- The trace entry of a page touches neither ring nor reads. -/
theorem logDoorbell_keepsPoll (p : List Byte) (b : Block) :
    KeepsPoll b (logDoorbell p b) ∧ (logDoorbell p b).opal.ctrl = b.opal.ctrl := by
  have logs := Block.logEvr_kept b .opal 0x04 ((p.drop 32).take 12) [p.take 32] none
  unfold logDoorbell
  split
  · exact ⟨.refl b, rfl⟩
  · obtain ⟨ctrl, -⟩ := logs.at_ .posts (by decide)
    exact ⟨(logEvr_keepsPoll ..).trans ⟨rfl, rfl, List.suffix_refl _, List.suffix_refl _⟩, ctrl⟩

theorem takePi_ctrl {w : Nat} (hf : fetching b.opal.ctrl = true) (hi : indexFaulty b.opal.ctrl.sqEntries b.opal.ctrl.done w = false) :
    takePi ctrlRing w b = b.modOpal (fun o => { o with ctrl := { o.ctrl with pi := indexLinear o.ctrl.sqEntries w } }) := by
  unfold takePi
  exact (if_neg (show ¬(!fetching b.opal.ctrl) = true by rw [hf]; exact Bool.false_ne_true)).trans
    (if_neg (Bool.eq_false_iff.mp hi))

/-- What the Control Ring's index word gives stays until the poll has been served. -/
theorem poll_index (hp : polls b = true) (hm : b.beryl.evr.mode ≠ 2) (hr : b.opal.failRun < 8) {p : List Byte}
    (hf : fetching b.opal.ctrl = true) (hi : indexFaulty b.opal.ctrl.sqEntries b.opal.ctrl.done (pageWord p 32) = false) :
    (poll (some p) b).opal.failRun = 0 ∧
      (poll (some p) b).opal.ctrl.pi = indexLinear b.opal.ctrl.sqEntries (pageWord p 32) ∧
      pollReads b p ++ b.out.reads <:+ (poll (some p) b).out.reads := by
  obtain ⟨logs, ctrl⟩ := logDoorbell_keepsPoll p (pollRead p b)
  have taken : takePi ctrlRing (pageWord p 32) (logDoorbell p (pollRead p b)) = (logDoorbell p (pollRead p b)).modOpal (fun o =>
      { o with ctrl := { o.ctrl with pi := indexLinear o.ctrl.sqEntries (pageWord p 32) } }) :=
    takePi_ctrl (by rw [ctrl]; exact hf) (by rw [ctrl]; exact hi)
  have page : KeepsPoll (takePi ctrlRing (pageWord p 32) (logDoorbell p (pollRead p b)))
      (takeDoorbell p (logDoorbell p (pollRead p b))) :=
    (takeHead_keepsPoll ctrlRing (pageWord p 36) _).trans (takeLedgerHead_keepsPoll (pageWord p 40) _)
  have contexts (x : Block) : KeepsPoll x ((List.range 256).foldl (pollCtx p) x) :=
    KeepsPoll.foldl (fun y c hc => pollCtx_keepsPoll p (List.mem_range.mp hc) y) x
  have served := (page.trans (contexts _)).trans ((serveRing_keepsPoll ctrlRing _).trans (serveLedger_keepsPoll _))
  rw [← poll_page hp hm hr p] at served
  refine ⟨served.run.trans ?_, served.index.trans ?_, List.IsSuffix.trans ?_ served.reads⟩
  · rw [taken]
    exact logs.run
  · rw [taken, Block.modOpal_opal, ctrl]
    rfl
  · rw [taken]
    exact logs.reads

/-! ### A fetch -/

/-- A ring that may be fetched from now. -/
theorem fetchAwaited_live (hm : b.beryl.evr.mode ≠ 2) (r : Nat) : fetchAwaited b r = true := by
  simp [fetchAwaited, hm]

/-- What keeps DESCRIPTOR_FETCHED from reading, for the Control Ring. -/
theorem fetchRefused_ctrl (hp : polls b = true) (hm : b.beryl.evr.mode ≠ 2) :
    (!polls b || decide (ctrlRing < 256) || !fetchAwaited b 256 || (256 != ctrlRing && nextServed b != some 256)) = false := by
  simp [hp, fetchAwaited_live hm, ctrlRing]

theorem descriptorFetched_roomless (hp : polls b = true) (hm : b.beryl.evr.mode ≠ 2) (hn : fetchRoom b 256 = 0)
    (x : Option (List (List Byte))) : descriptorFetched 256 x b = b := by
  unfold descriptorFetched
  rw [if_neg (Bool.eq_false_iff.mp (fetchRefused_ctrl hp hm))]
  exact if_pos hn

theorem descriptorFetched_unserved {r : Nat} (hr : r < 256) (hn : nextServed b ≠ some r) (x : Option (List (List Byte))) :
    descriptorFetched r x b = b := by
  refine if_pos ?_
  have other : (r != ctrlRing) = true := bne_iff_ne.mpr (Nat.ne_of_lt hr)
  rw [other, bne_iff_ne.mpr hn]
  exact Bool.or_true _

section
variable (hp : polls b = true) (hm : b.beryl.evr.mode ≠ 2) (hn : fetchRoom b 256 ≠ 0)
include hp hm hn

theorem descriptorFetched_retries (hr : b.opal.ctrl.retried = false) :
    descriptorFetched 256 none b = { b with
      opal := { b.opal with ctrl := { b.opal.ctrl with retried := true } }
      out := { b.out with reads := sqReads b.opal.ctrl (fetchRoom b 256) ++ b.out.reads } } := by
  unfold descriptorFetched
  rw [if_neg (Bool.eq_false_iff.mp (fetchRefused_ctrl hp hm))]
  exact (if_neg hn).trans (if_neg (Bool.eq_false_iff.mp hr))

theorem descriptorFetched_faults (hr : b.opal.ctrl.retried = true) :
    descriptorFetched 256 none b = serveRing 256 { b with
      opal := { b.opal with ctrl := { b.opal.ctrl with
        faultRec := some (stHostFault, indexWord b.opal.ctrl.sqEntries b.opal.ctrl.next, 2) } }
      out := { b.out with reads := sqReads b.opal.ctrl (fetchRoom b 256) ++ b.out.reads } } := by
  unfold descriptorFetched
  rw [if_neg (Bool.eq_false_iff.mp (fetchRefused_ctrl hp hm))]
  exact (if_neg hn).trans (if_pos hr)

/-- One descriptor fetched is added to the ring, which is served. -/
theorem descriptorFetched_one (d : List Byte) :
    descriptorFetched 256 (some [d]) b = serveRing 256 (addFetched 256 [d]
      (b.modOut (fun o => { o with reads := sqReads b.opal.ctrl (fetchRoom b 256) ++ o.reads }))) := by
  obtain ⟨n, hs⟩ := Nat.exists_eq_succ_of_ne_zero hn
  unfold descriptorFetched
  rw [if_neg (Bool.eq_false_iff.mp (fetchRefused_ctrl hp hm))]
  have one : [d].take (fetchRoom b 256) = [d] := by rw [hs, List.take_succ_cons, List.take_nil]
  exact (if_neg hn).trans (congrArg (fun l => serveRing 256 (addFetched 256 l _)) one)

end
end

/-! ### The Control Ring with one descriptor, and no event waiting -/

section
variable {b : Block}

/-- The Control Ring's descriptors in flight become these. -/
def flightSet (l : List Desc) (b : Block) : Block := { b with opal := { b.opal with ctrl := { b.opal.ctrl with flight := l } } }

theorem flushRing_waits {r : Nat} {d : Desc} {ds : List Desc} (hf : (b.ring r).flight = d :: ds) (hd : d.status.past = false)
    (k : Nat) : flushRing k r b = b := by
  cases k with
  | zero => rfl
  | succ k =>
    unfold flushRing
    extract_lets x
    split
    · split
      · next he => exact absurd (hf.symm.trans he) (List.cons_ne_nil d ds)
      · next e es he =>
        have same : d = e := (List.cons.inj (hf.symm.trans he)).1
        split
        · next hs => rw [same, hs] at hd; exact absurd hd.symm Bool.false_ne_true
        · rfl
    · rfl

theorem flushRing_empty {r : Nat} (hf : (b.ring r).flight = []) (hr : (b.ring r).faultRec = none) (k : Nat) :
    flushRing k r b = b := by
  cases k with
  | zero => rfl
  | succ k =>
    unfold flushRing
    dsimp only
    rw [hf, hr]
    exact ite_self b

/-- With no ghost, dispatching on the Control Ring changes its descriptors alone. -/
theorem dispatchRing_ctrl (ha : b.alive .opal = true) (hg : b.opal.ghosts = []) :
    dispatchRing 256 b = flightSet (dispatchList b 256 [] b.opal.ctrl.flight) b := by
  refine (if_pos ha).trans ((if_neg (by decide)).trans ?_)
  simp only [Block.modOpal, Block.setRing, Nat.lt_irrefl, if_false, hg, dispatchList, List.filter_nil, flightSet]
  rfl

theorem dispatchRing_done {l : List Desc} (ha : b.alive .opal = true) (hg : b.opal.ghosts = []) (hf : b.opal.ctrl.flight = l)
    (hl : dispatchList b 256 [] l = l) : dispatchRing 256 b = b := by
  rw [dispatchRing_ctrl ha hg, hf, hl, ← hf]
  rfl

theorem pumpRing_still {r : Nat} (hd : dispatchRing r b = b) (hf : ∀ k, flushRing k r b = b) (k : Nat) : pumpRing k r b = b := by
  induction k with
  | zero => rfl
  | succ k ih => rw [pumpRing, hd, hf, ih]

theorem dispatchList_past (r : Nat) {d : Desc} (h : d.status ≠ .fetched) : dispatchList b r [] [d] = [d] := by
  unfold dispatchList
  split
  · next hs => exact absurd hs h
  · rfl

theorem dispatchList_fetched {r : Nat} {d : Desc} (h : d.status = .fetched) (hm : mayDispatch b r [] d.bytes = true) :
    dispatchList b r [] [d] = [{ d with status := dispatchStatus b r d.bytes, sent := dispatchGen b r d.bytes }] := by
  unfold dispatchList
  rw [h]
  exact if_pos hm

/-- The one descriptor of the Control Ring is dispatched, and nothing else moves. -/
theorem serveRing_dispatches {d : Desc} (ha : b.alive .opal = true) (hg : b.opal.ghosts = []) (he : b.opal.events = [])
    (hf : b.opal.ctrl.flight = [d]) (hd : d.status = .fetched) (hm : mayDispatch b 256 [] d.bytes = true)
    (hs : dispatchStatus b 256 d.bytes = .dispatched) :
    serveRing 256 b = flightSet [{ d with status := .dispatched, sent := dispatchGen b 256 d.bytes }] b := by
  have first : dispatchRing 256 b = flightSet [{ d with status := .dispatched, sent := dispatchGen b 256 d.bytes }] b := by
    rw [dispatchRing_ctrl ha hg, hf, dispatchList_fetched hd hm, hs]
  have waits := flushRing_waits (r := 256) (b := dispatchRing 256 b) (congrArg (·.opal.ctrl.flight) first) rfl
  have again : dispatchRing 256 (dispatchRing 256 b) = dispatchRing 256 b := by
    rw [first]
    exact dispatchRing_done ha hg rfl (dispatchList_past 256 (by simp))
  have pumped : pumpRing 3 256 b = dispatchRing 256 b := by
    rw [pumpRing, waits]
    exact pumpRing_still again waits 2
  have served : serveRing 256 b = flushEvents (pumpRing 3 256 b).opal.events.length (pumpRing 3 256 b) := by
    rw [serveRing, show (b.ring 256).flight = [d] from hf]
    rfl
  rw [served, pumped, first]
  exact congrArg (fun l : List Event => flushEvents l.length (flightSet _ b)) he

end

/-- Fetched descriptors leave Topaz's part of the block, Opal's ghosts and events. -/
theorem addFetched_one_kept (d : List Byte) (b : Block) :
    (addFetched 256 [d] b).topaz = b.topaz ∧ (addFetched 256 [d] b).opal.ghosts = b.opal.ghosts ∧
      (addFetched 256 [d] b).opal.events = b.opal.events := by
  have logs (p : List Byte) := Block.logEvr_kept b .opal 0x06 p [] none
  refine ⟨(logs _).at_ .topaz (by decide), ?_, ?_⟩
  · obtain ⟨-, ghosts, -⟩ := (logs (leBytes 2 256 ++ leBytes 4 (indexWord (b.ring 256).sqEntries (b.ring 256).next) ++ d.take 2 ++
      leBytes 4 (crc32c d).toNat ++ (d.drop 4).take 4)).at_ .posts (by decide)
    exact ghosts
  · obtain ⟨-, -, -, -, -, -, events, -⟩ := (logs (leBytes 2 256 ++ leBytes 4 (indexWord (b.ring 256).sqEntries (b.ring 256).next) ++
      d.take 2 ++ leBytes 4 (crc32c d).toNat ++ (d.drop 4).take 4)).at_ .posts (by decide)
    exact events

/-! ### What an Island does rests on Topaz's part of the block -/

section
variable {a b : Block} (h : b.topaz = a.topaz)
include h

theorem alive_of_topaz (i : Island) : b.alive i = a.alive i := by
  cases i <;> simp only [Block.alive, Block.inPower, Block.isl, h]

theorem islandEmpty_of_topaz (i : Island) : islandEmpty b i = islandEmpty a i := by
  simp only [islandEmpty, Block.isl, h]

theorem committed_of_topaz (i : Island) : b.committed i = a.committed i := by
  simp only [Block.committed, h]

theorem dispatchGen_of_topaz (r : Nat) (d : List Byte) : dispatchGen b r d = dispatchGen a r d := by
  have stamps (i : Island) : b.stamp i = a.stamp i := by simp only [Block.stamp, Block.heldGen, Block.isl, h]
  unfold dispatchGen
  split
  · exact stamps _
  · rfl

end

/-- A descriptor that Opal owns may go at once where nothing is in flight. -/
theorem mayDispatch_opal {b : Block} {d : List Byte} (ho : descOwner 256 (descType d) = some .opal) (hc : b.committed .opal = true) :
    mayDispatch b 256 [] d = true := by
  have engine : (descType d == 0x0C) = false := by
    rw [beq_eq_false_iff_ne]
    intro h
    rw [h] at ho
    exact absurd ho (by decide)
  unfold mayDispatch
  rw [ho]
  simp [hc, engine]

theorem dispatchStatus_opal {b : Block} {d : List Byte} (ho : descOwner 256 (descType d) = some .opal)
    (he : islandEmpty b .opal = false) (ha : b.alive .opal = true) : dispatchStatus b 256 d = .dispatched := by
  unfold dispatchStatus
  rw [ho]
  simp [he, alive_not_failing ha]

end Sys2Proof.Machine

section
open Sys2Proof Sys2Proof.Machine

/-- Settles O31: what Opal does after a poll's page keeps the index taken from it and the reads asked for; one descriptor fetched on
an idle Control Ring is dispatched. -/
theorem pollsAndFetchesReadTheHost : Obligations.PollsAndFetchesReadTheHost := by
  refine ⟨?fails, ?eighth, ?timeout, ?page, ?retries, ?fetches, ?faults, ?roomless, ?unserved, ?unpolled, ?timeoutUnpolled, ?polls,
    ?timeouts, ?fetched⟩
  case fails => exact fun q b ha hp h => act_gated ha ((poll_none hp).trans (pollFailed_counts h))
  case eighth => exact fun q b ha hp h => act_gated ha ((poll_none hp).trans (pollFailed_faults h))
  case timeout => exact fun q b ha hp h => act_gated ha ((pollReadTimeout_polled hp).trans (pollFailed_counts h))
  case page =>
    intro q b p ha hp hm hr hf hi
    obtain ⟨run, index, reads⟩ := poll_index hp hm hr hf hi
    exact .of_next (act_gated ha rfl) ⟨run, index, reads, poll_frame (by decide) (onlyChanges_refl _ b)⟩
  case retries => exact fun q b ha hp hm hn hr => act_gated ha (descriptorFetched_retries hp hm hn hr)
  case fetches =>
    intro q b d ha hp hm hn hf hg he hr ho hc hempty
    obtain ⟨topaz, ghosts, events⟩ := addFetched_one_kept d
      (b.modOut (fun o => { o with reads := sqReads b.opal.ctrl (fetchRoom b 256) ++ o.reads }))
    have eq := (descriptorFetched_one hp hm hn d).trans (serveRing_dispatches
      (d := ⟨b.opal.ctrl.starts * 2 ^ 18 + b.opal.ctrl.next, d, .fetched, 1⟩) ((alive_of_topaz topaz _).trans ha) (ghosts.trans hg)
      (events.trans he) (congrArg (· ++ [_]) hf) rfl (mayDispatch_opal ho ((committed_of_topaz topaz _).trans hc))
      (dispatchStatus_opal ho ((islandEmpty_of_topaz topaz _).trans hempty) ((alive_of_topaz topaz _).trans ha)))
    rw [dispatchGen_of_topaz topaz] at eq
    exact .of_next (act_gated ha eq) ⟨rfl, rfl, eq ▸ descriptorFetched_frame (by decide) (onlyChanges_refl _ b)⟩
  case faults => exact fun q b ha hp hm hn hr => act_gated ha (descriptorFetched_faults hp hm hn hr)
  case roomless => exact fun q b x ha hp hm hn => act_gated ha (descriptorFetched_roomless hp hm hn x)
  case unserved => exact fun q b r x ha hr hn => act_gated ha (descriptorFetched_unserved hr hn x)
  case unpolled => exact fun q b x ha hp => act_gated ha (poll_unpolled hp x)
  case timeoutUnpolled => exact fun q b ha hp => act_gated ha (pollReadTimeout_unpolled hp)
  case polls => exact fun q b page ha => ⟨act_gated ha rfl, poll_frame (by decide) (onlyChanges_refl _ b)⟩
  case timeouts => exact fun q b ha => ⟨act_gated ha rfl, pollReadTimeout_frame (by decide) (onlyChanges_refl _ b)⟩
  case fetched => exact fun q b r data ha => ⟨act_gated ha rfl, descriptorFetched_frame (by decide) (onlyChanges_refl _ b)⟩

end
end

section
/-! O32: a descriptor that finishes alone on the Control Ring: its record goes out at once, or waits for the host (08 R209, R210,
R225, R226). -/

-- The proofs are elaborated one after another: each waiting in a thread of its own takes more memory than the check allows.
set_option Elab.async false

namespace Sys2Proof.Machine

variable {b : Block}

/-! ### A record of the Control Ring -/

/-- What a record needs and changes: Topaz's part, the Control Ring, ghosts and events, and the writes into host memory. -/
def Block.recordView (b : Block) : Topaz × Ring × List Desc × List Event × List (Nat × List Byte) :=
  (b.topaz, b.opal.ctrl, b.opal.ghosts, b.opal.events, b.out.host)

theorem logEvr_recordView (i : Island) (t : Nat) (p : List Byte) (b : Block) : (b.logEvr i t p).recordView = b.recordView := by
  have kept := Block.logEvr_kept b i t p [] none
  obtain ⟨ctrl, ghosts, -, -, -, -, events, -⟩ := kept.at_ .posts (by decide)
  have topaz : (b.logEvr i t p).topaz = b.topaz := kept.at_ .topaz (by decide)
  have out : (b.logEvr i t p).out = b.out := kept.at_ .out (by decide)
  rw [Block.recordView, ctrl, ghosts, events, topaz, out, Block.recordView]

theorem requestMsg_recordView (v : Nat) (b : Block) : (requestMsg v b).recordView = b.recordView := by
  unfold requestMsg
  extract_lets x
  split
  · rfl
  · split <;> rfl

theorem countRecord_recordView (l : List Byte) (b : Block) : (countRecord l b).recordView = b.recordView := by
  unfold countRecord
  extract_lets n crc b1
  split
  · exact logEvr_recordView ..
  · rfl

theorem readHead_recordView (r : Nat) (b : Block) : (readHead r b).recordView = b.recordView := by
  unfold readHead
  split <;> rfl

theorem writeRecord_recordView (l : List Byte) (b : Block) : (writeRecord 256 l b).recordView =
    (b.topaz, { b.opal.ctrl with cqTail := (b.opal.ctrl.cqTail + 1) % (2 * b.opal.ctrl.cqEntries) }, b.opal.ghosts, b.opal.events,
      (b.opal.ctrl.cqBase + 32 * (b.opal.ctrl.cqTail % b.opal.ctrl.cqEntries),
        l ++ leBytes 1 (phaseOf b.opal.ctrl.cqEntries b.opal.ctrl.cqTail)) :: b.out.host) :=
  readHead_recordView 256 _

/-! ### The one descriptor of the Control Ring finishes -/

section
variable {i g : Nat} {d : List Byte}

/-- The descriptor as it has finished. -/
def finishedDesc (i : Nat) (d : List Byte) (g st fr val det : Nat) : Desc := ⟨i, d, .finished st fr val det, g⟩

theorem finish_ctrl_one (hf : b.opal.ctrl.flight = [⟨i, d, .dispatched, g⟩]) (hg : b.opal.ghosts = []) (st fr val det : Nat) :
    finish 256 i st fr val det b = serveRing 256 (flightSet [finishedDesc i d g st fr val det] b) := by
  have marked : markFinished i st fr val det b.opal.ctrl.flight = [finishedDesc i d g st fr val det] := by
    rw [hf]
    simp [markFinished, finishedDesc]
  have noGhost : b.opal.ghosts.filter (fun d => d.index != i) = b.opal.ghosts := by rw [hg]; rfl
  unfold finish
  extract_lets x y
  have same : y = b := (if_neg (by decide)).trans (by rw [Block.modOpal, noGhost])
  rw [same, show x.flight = b.opal.ctrl.flight from rfl, marked]
  rfl

theorem dispatched_one (hf : b.opal.ctrl.flight = [⟨i, d, .dispatched, g⟩]) (hg : b.opal.ghosts = []) (ha : b.accepts .opal g = true)
    (ht : descType d = 0) : b.dispatched 256 i 0x00 = some d := by
  unfold Block.dispatched
  rw [if_neg (by decide), hg, hf]
  simp [ht, descAccepted, descOwner, ha]

theorem nop_one (hf : b.opal.ctrl.flight = [⟨i, d, .dispatched, g⟩]) (hg : b.opal.ghosts = []) (ha : b.accepts .opal g = true)
    (ht : descType d = 0) : nop 256 i b = serveRing 256 (flightSet [finishedDesc i d g stOk frameNone 0 0] b) := by
  unfold nop
  rw [dispatched_one hf hg ha ht]
  exact finish_ctrl_one hf hg ..

end

/-! ### While the host cannot be written -/

theorem flushRing_hostDown (h : b.hostUp = false) (r k : Nat) : flushRing k r b = b := by
  cases k with
  | zero => rfl
  | succ k => exact if_neg (by rw [h]; exact Bool.false_ne_true)

theorem flushEvents_hostDown (h : b.hostUp = false) (k : Nat) : flushEvents k b = b := by
  cases k with
  | zero => rfl
  | succ k =>
    unfold flushEvents
    split
    · rfl
    · rw [h]
      rfl

/-- A finished descriptor waits while the host cannot be written. -/
theorem serveRing_hostDown {d : Desc} (ha : b.alive .opal = true) (hg : b.opal.ghosts = []) (hf : b.opal.ctrl.flight = [d])
    (hd : d.status ≠ .fetched) (hh : b.hostUp = false) : serveRing 256 b = b := by
  have still (k : Nat) : pumpRing k 256 b = b :=
    pumpRing_still (dispatchRing_done ha hg hf (dispatchList_past 256 hd)) (flushRing_hostDown hh 256) k
  unfold serveRing
  rw [still]
  exact flushEvents_hostDown hh _

/-! ### With room in the completion ring -/

section
variable {i g st fr val det : Nat} {d : List Byte}

/-- The record of a finished descriptor of the Control Ring, without its PHASE. -/
def ctrlRecord (b : Block) (i : Nat) (d : List Byte) (st fr val det : Nat) : List Byte :=
  completionRecord st 256 (indexWord b.opal.ctrl.sqEntries (i % 2 ^ 18)) (descCookie d) fr val det (descType d)

/-- The record is written, and the descriptor retired. -/
def recordRetired (i : Nat) (d : List Byte) (st fr val det : Nat) (b : Block) : Block :=
  let x := countRecord (ctrlRecord b i d st fr val det) (writeRecord 256 (ctrlRecord b i d st fr val det) b)
  let y := x.setRing 256 { x.ring 256 with flight := [], done := ((x.ring 256).done + 1) % (2 * (x.ring 256).sqEntries) }
  if descNotify d || 0x10 ≤ st then requestMsg (ringVector y 256) y else y

theorem recordRetired_recordView (b : Block) : (recordRetired i d st fr val det b).recordView =
    (b.topaz, { b.opal.ctrl with
        cqTail := (b.opal.ctrl.cqTail + 1) % (2 * b.opal.ctrl.cqEntries)
        flight := [], done := (b.opal.ctrl.done + 1) % (2 * b.opal.ctrl.sqEntries) }, b.opal.ghosts, b.opal.events,
      (b.opal.ctrl.cqBase + 32 * (b.opal.ctrl.cqTail % b.opal.ctrl.cqEntries),
        ctrlRecord b i d st fr val det ++ leBytes 1 (phaseOf b.opal.ctrl.cqEntries b.opal.ctrl.cqTail)) :: b.out.host) := by
  unfold recordRetired
  extract_lets x y
  have written : x.recordView = _ := (countRecord_recordView ..).trans (writeRecord_recordView _ b)
  have retired := congrArg (fun v : Topaz × Ring × List Desc × List Event × List (Nat × List Byte) =>
    (v.1, { v.2.1 with flight := [], done := (v.2.1.done + 1) % (2 * v.2.1.sqEntries) }, v.2.2)) written
  refine Eq.trans ?_ retired
  split
  · exact requestMsg_recordView ..
  · rfl

/-- The front descriptor has finished, and its record goes out. -/
theorem flushRing_retires (hh : b.hostUp = true) (hf : b.opal.ctrl.flight = [finishedDesc i d g st fr val det])
    (hs : b.opal.ctrl.state = .running) (hr : b.opal.ctrl.room = true) (k : Nat) :
    flushRing (k + 1) 256 b = flushRing k 256 (recordRetired i d st fr val det b) := by
  have goes : (b.hostUp && (b.ring 256).state != .idle && (b.ring 256).room) = true := by
    rw [hh, show (b.ring 256) = b.opal.ctrl from rfl, hs, hr]
    rfl
  have front : (b.ring 256).flight = [⟨i, d, .finished st fr val det, g⟩] := hf
  rw [flushRing]
  dsimp only
  rw [if_pos goes, front]
  rfl

/-- With the host writable and room, the finished descriptor's record is written, and nothing is left to do. -/
theorem serveRing_retires (ha : b.alive .opal = true) (hh : b.hostUp = true) (hg : b.opal.ghosts = []) (he : b.opal.events = [])
    (hf : b.opal.ctrl.flight = [finishedDesc i d g st fr val det]) (hn : b.opal.ctrl.faultRec = none)
    (hs : b.opal.ctrl.state = .running) (hr : b.opal.ctrl.room = true) :
    serveRing 256 b = recordRetired i d st fr val det b := by
  have view := recordRetired_recordView (i := i) (d := d) (st := st) (fr := fr) (val := val) (det := det) b
  simp only [Block.recordView, Prod.mk.injEq] at view
  obtain ⟨topaz, ctrl, ghosts, events, -⟩ := view
  have done (k : Nat) : flushRing k 256 (recordRetired i d st fr val det b) = recordRetired i d st fr val det b :=
    flushRing_empty (r := 256) (congrArg Ring.flight ctrl) ((congrArg Ring.faultRec ctrl).trans hn) k
  have flushed : flushRing 3 256 b = recordRetired i d st fr val det b := (flushRing_retires hh hf hs hr 2).trans (done 2)
  have idle : dispatchRing 256 b = b := dispatchRing_done ha hg hf (dispatchList_past 256 (by simp [finishedDesc]))
  have idle' : dispatchRing 256 (recordRetired i d st fr val det b) = recordRetired i d st fr val det b :=
    dispatchRing_done ((alive_of_topaz topaz _).trans ha) (ghosts.trans hg) (congrArg Ring.flight ctrl) rfl
  have pumped : pumpRing 3 256 b = recordRetired i d st fr val det b := by
    rw [pumpRing, idle, show (b.ring 256).flight = _ from hf]
    refine (congrArg (pumpRing 2 256) flushed).trans (pumpRing_still idle' done 2)
  have served : serveRing 256 b = flushEvents (pumpRing 3 256 b).opal.events.length (pumpRing 3 256 b) := by
    rw [serveRing, show (b.ring 256).flight = _ from hf]
    rfl
  rw [served, pumped, events, he]
  rfl

end

end Sys2Proof.Machine

section
open Sys2Proof Sys2Proof.Machine

/-- Settles O32: a NOP finishes; alone on the Control Ring its record is written and the ring is empty, or it waits for the host. -/
theorem completionsAreWrittenInRingOrder : Obligations.CompletionsAreWrittenInRingOrder := by
  refine ⟨?finishes, ?written, ?waits, ?none, ?total⟩
  case finishes =>
    intro q b r i d ha hd
    refine act_gated ha ?_
    unfold nop
    rw [hd]
  case written =>
    intro q b i g d ha hh hf hacc hg he hn hs hr ht
    have eq := (nop_one hf hg hacc ht).trans (serveRing_retires (b := flightSet [finishedDesc i d g stOk frameNone 0 0] b)
      ha hh hg he rfl hn hs hr)
    have view := recordRetired_recordView (i := i) (d := d) (st := stOk) (fr := frameNone) (val := 0) (det := 0)
      (flightSet [finishedDesc i d g stOk frameNone 0 0] b)
    simp only [Block.recordView, Prod.mk.injEq] at view
    obtain ⟨-, ctrl, -, -, host⟩ := view
    refine .of_next (act_gated ha eq) ⟨?_, congrArg Ring.flight ctrl, congrArg Ring.done ctrl, congrArg Ring.cqTail ctrl,
      eq ▸ nop_frame (by decide) (onlyChanges_refl _ b)⟩
    rw [host, ctrlRecord, ht]
    rfl
  case waits =>
    intro q b i g d ha hh hf hacc hg ht
    have eq := (nop_one hf hg hacc ht).trans (serveRing_hostDown (b := flightSet [finishedDesc i d g stOk frameNone 0 0] b)
      ha hg rfl (by simp [finishedDesc]) hh)
    exact .of_next (act_gated ha eq) ⟨rfl, rfl, eq ▸ nop_frame (by decide) (onlyChanges_refl _ b)⟩
  case none =>
    intro q b r i ha hd
    refine act_gated ha ?_
    unfold nop
    rw [hd]
  case total => exact fun q b r desc ha => ⟨act_gated ha rfl, nop_frame (by decide) (onlyChanges_refl _ b)⟩

end
end

section
/-! O33: CONTEXT_OPEN (08 R215). -/

-- The proofs are elaborated one after another: each waiting in a thread of its own takes more memory than the check allows.
set_option Elab.async false

namespace Sys2Proof.Machine

section
variable {b : Block} {i : Nat} {d : List Byte}

theorem contextOpen_none (h : b.dispatched ctrlRing i 0x05 = none) : contextOpen i b = b := by
  unfold contextOpen
  rw [h]

variable (hd : b.dispatched ctrlRing i 0x05 = some d)
include hd

theorem contextOpen_heldBack (ho : ctxOrder b i = false) : contextOpen i b = b := by
  unfold contextOpen
  rw [hd]
  exact if_pos (by rw [ho]; rfl)

variable (ho : ctxOrder b i = true)
include ho

theorem contextOpen_malformed {off : Nat} (hf : openFault d = some off) :
    contextOpen i b = finishCtrl i stMalformed frameNone 0 off b := by
  simp only [contextOpen, hd, ho, hf, Bool.not_true, Bool.false_eq_true, if_false]

variable (hf : openFault d = none)
include hf

theorem contextOpen_busy (hs : (b.ctx (leAt d 16 1)).state ≠ .closed) :
    contextOpen i b = finishCtrl i stContextBusy frameNone 0 0 b := by
  simp only [contextOpen, hd, ho, hf, bne_iff_ne.mpr hs, Bool.not_true, Bool.false_eq_true, if_false, if_true]

variable (hs : (b.ctx (leAt d 16 1)).state = .closed)
include hs

theorem contextOpen_keyDisabled (hk : bitOf (leAt d 17 1) 2 = true) (hi : b.spinel.import_ = false) :
    contextOpen i b = finishCtrl i stKeyDisabled frameNone 0 0 b := by
  simp only [contextOpen, hd, ho, hf, hs, hk, hi, bne_self_eq_false, Bool.not_true, Bool.not_false, Bool.and_self,
    Bool.false_eq_true, if_false, if_true]

theorem contextOpen_noKey (hk : bitOf (leAt d 17 1) 2 = true) (hi : b.spinel.import_ = true)
    (hl : (slotGet b (leAt d 16 1)).state ≠ .loaded) (hr : (slotGet b (leAt d 16 1)).state ≠ .rolling) :
    contextOpen i b = finishCtrl i stNoKey frameNone 0 0 b := by
  simp only [contextOpen, hd, ho, hf, hs, hk, hi, bne_iff_ne.mpr hl, bne_iff_ne.mpr hr, bne_self_eq_false, Bool.not_true,
    Bool.and_false, Bool.and_self, Bool.false_eq_true, if_false, if_true]

/-- The Context as its descriptor opens it. -/
def openedCtx (d : List Byte) (b : Block) : Ctx := {
  state := .opened, hostRing := bitOf (leAt d 17 1) 0, magazine := bitOf (leAt d 17 1) 1, keyed := bitOf (leAt d 17 1) 2
  vector := leAt d 18 1, bufWait := if leAt d 19 1 = 0 then 8 else leAt d 19 1
  inflight := if leAt d 28 2 = 0 then 64 else leAt d 28 2
  ring := openRing (leAt d 32 8) (leAt d 40 8) (leAt d 20 4) (leAt d 24 4)
  highGen := 0, closeDesc := none, closeFrame := 0, cancelled := false, aborting := false, openFrame := b.garnet.frameNo }

/-- What KEYED needs holds. -/
theorem contextOpen_opens (hk : bitOf (leAt d 17 1) 2 = true → b.spinel.import_ = true ∧
      ((slotGet b (leAt d 16 1)).state = .loaded ∨ (slotGet b (leAt d 16 1)).state = .rolling)) :
    contextOpen i b = finishCtrl i stOk frameNone 0 0 (b.setCtx (leAt d 16 1) (openedCtx d b)) := by
  have enabled : (bitOf (leAt d 17 1) 2 && !b.spinel.import_) = false := by
    cases keyed : bitOf (leAt d 17 1) 2 with
    | false => rfl
    | true => rw [(hk keyed).1]; rfl
  have hasKey : (bitOf (leAt d 17 1) 2 && (slotGet b (leAt d 16 1)).state != .loaded &&
      (slotGet b (leAt d 16 1)).state != .rolling) = false := by
    cases keyed : bitOf (leAt d 17 1) 2 with
    | false => rfl
    | true => obtain h | h := (hk keyed).2 <;> rw [h] <;> rfl
  simp only [contextOpen, hd, ho, hf, hs, enabled, hasKey, bne_self_eq_false, Bool.not_true, Bool.false_eq_true, if_false]
  rfl

end

end Sys2Proof.Machine

section
open Sys2Proof Sys2Proof.Machine

/-- Settles O33: row by row of R215, each refusal and the Context as it opens. -/
theorem contextsOpenAsTheirDescriptorSays : Obligations.ContextsOpenAsTheirDescriptorSays := by
  refine ⟨?malformed, ?busy, ?keyDisabled, ?noKey, ?opens, ?none, ?heldBack, ?total⟩
  case malformed => exact fun q b i off d ha hd ho hf => act_gated ha (contextOpen_malformed hd ho hf)
  case busy => exact fun q b i d ha hd ho hf hs => act_gated ha (contextOpen_busy hd ho hf hs)
  case keyDisabled => exact fun q b i d ha hd ho hf hs hk hi => act_gated ha (contextOpen_keyDisabled hd ho hf hs hk hi)
  case noKey => exact fun q b i d ha hd ho hf hs hk hi hl hr => act_gated ha (contextOpen_noKey hd ho hf hs hk hi hl hr)
  case opens => exact fun q b i d ha hd ho hf hs hk => act_gated ha (contextOpen_opens hd ho hf hs hk)
  case none => exact fun q b i ha hd => act_gated ha (contextOpen_none hd)
  case heldBack => exact fun q b i d ha hd ho => act_gated ha (contextOpen_heldBack hd ho)
  case total => exact fun q b desc ha => ⟨act_gated ha rfl, contextOpen_frame (by decide) (onlyChanges_refl _ b)⟩

end
end

section
/-! O34: CONTEXT_CLOSE in its two steps (08 R216; 11 R301). -/

-- The proofs are elaborated one after another: each waiting in a thread of its own takes more memory than the check allows.
set_option Elab.async false

namespace Sys2Proof.Machine

/-! ### What the Control Ring's writers leave of the Contexts -/

section
variable (b : Block)

theorem ctxs_of_kept {ps : List Piece} {a b : Block} (h : onlyChanges ps a b) (hp : .posts ∉ ps) : b.opal.ctxs = a.opal.ctxs := by
  obtain ⟨-, -, ctxs, -⟩ := h.at_ .posts hp
  exact ctxs

theorem ctx_of_ctxs {a b : Block} (h : b.opal.ctxs = a.opal.ctxs) (c : Nat) : b.ctx c = a.ctx c := by
  unfold Block.ctx
  rw [h]

theorem logEvr_ctxs (i : Island) (t : Nat) (p : List Byte) : (b.logEvr i t p).opal.ctxs = b.opal.ctxs :=
  ctxs_of_kept (Block.logEvr_kept b i t p [] none) (by decide)

theorem setRing_ctrl_ctxs (x : Ring) : (b.setRing ctrlRing x).opal.ctxs = b.opal.ctxs := rfl

theorem readHead_ctxs (r : Nat) : (readHead r b).opal.ctxs = b.opal.ctxs := by
  unfold readHead
  split <;> rfl

theorem writeRecord_ctxs (l : List Byte) : (writeRecord ctrlRing l b).opal.ctxs = b.opal.ctxs :=
  (readHead_ctxs _ ctrlRing).trans rfl

theorem requestMsg_ctxs (v : Nat) : (requestMsg v b).opal.ctxs = b.opal.ctxs := by
  unfold requestMsg
  extract_lets x
  split
  · rfl
  · split <;> rfl

theorem flushEvents_ctxs (k : Nat) : (flushEvents k b).opal.ctxs = b.opal.ctxs := by
  induction k generalizing b with
  | zero => rfl
  | succ k ih =>
    unfold flushEvents
    split
    · rfl
    · split
      · exact (ih _).trans ((requestMsg_ctxs ..).trans (writeRecord_ctxs ..))
      · rfl

theorem postEventAt_ctxs (s c f : Nat) (d : List Byte) : (postEventAt s c f d b).opal.ctxs = b.opal.ctxs := by
  unfold postEventAt
  split
  · rfl
  · extract_lets o e raised
    split
    · exact flushEvents_ctxs ..
    · rfl

theorem countRecord_ctxs (l : List Byte) : (countRecord l b).opal.ctxs = b.opal.ctxs := by
  unfold countRecord
  extract_lets n crc b1
  split
  · exact (logEvr_ctxs ..).trans rfl
  · rfl

theorem flushRing_ctrl_ctxs (k : Nat) : (flushRing k ctrlRing b).opal.ctxs = b.opal.ctxs := by
  induction k generalizing b with
  | zero => rfl
  | succ k ih =>
    unfold flushRing
    extract_lets x
    split
    · split
      · split
        · exact (postEventAt_ctxs ..).trans ((requestMsg_ctxs ..).trans (writeRecord_ctxs ..))
        · rfl
      · split
        · extract_lets w v b1 y b2 b3
          have writes : b2.opal.ctxs = b.opal.ctxs := (countRecord_ctxs ..).trans (writeRecord_ctxs ..)
          have signals : b3.opal.ctxs = b2.opal.ctxs := by
            unfold b3
            split
            · exact requestMsg_ctxs ..
            · rfl
          exact (ih _).trans (signals.trans writes)
        · rfl
    · rfl

theorem dispatchRing_ctrl_ctxs : (dispatchRing ctrlRing b).opal.ctxs = b.opal.ctxs := by
  unfold dispatchRing
  split <;> rfl

theorem pumpRing_ctrl_ctxs (k : Nat) : (pumpRing k ctrlRing b).opal.ctxs = b.opal.ctxs := by
  induction k generalizing b with
  | zero => rfl
  | succ k ih => exact (ih _).trans ((flushRing_ctrl_ctxs ..).trans (dispatchRing_ctrl_ctxs b))

theorem serveRing_ctrl_ctxs : (serveRing ctrlRing b).opal.ctxs = b.opal.ctxs :=
  (flushEvents_ctxs ..).trans (pumpRing_ctrl_ctxs ..)

theorem finishCtrl_ctxs (i st fr val det : Nat) : (finishCtrl i st fr val det b).opal.ctxs = b.opal.ctxs :=
  (serveRing_ctrl_ctxs _).trans rfl

theorem foldl_finishCtrl_ctxs {α : Type} (l : List α) (i st f v e : α → Nat) :
    (l.foldl (fun x s => finishCtrl (i s) (st s) (f s) (v s) (e s) x) b).opal.ctxs = b.opal.ctxs := by
  induction l generalizing b with
  | nil => rfl
  | cons y l ih => exact (ih _).trans (finishCtrl_ctxs ..)

theorem foldl_finishCtrl_jade {α : Type} (l : List α) (i st f v e : α → Nat) :
    (l.foldl (fun x s => finishCtrl (i s) (st s) (f s) (v s) (e s) x) b).jade = b.jade :=
  foldl_keeps (g := Block.jade) (fun _ _ => finishCtrl_jade ..) l b

theorem slotSet_ctxs (c : Nat) (k : KeySlot) : (slotSet c k b).opal.ctxs = b.opal.ctxs := rfl

theorem takeKey_ctxs (f c : Nat) : (takeKey f c b).opal.ctxs = b.opal.ctxs := by
  unfold takeKey
  split
  · rfl
  · exact finishCtrl_ctxs ..

theorem retireSlot_ctxs (c : Nat) : (retireSlot c b).opal.ctxs = b.opal.ctxs := by
  unfold retireSlot
  extract_lets done b1 k
  have takes : b1.opal.ctxs = b.opal.ctxs :=
    foldl_keeps (f := fun b _ => takeKey frameNone c b) (g := fun b => b.opal.ctxs) (fun x _ => takeKey_ctxs x ..) done b
  split
  · exact takes
  · exact takes

end

/-! ### The close begins -/

section
variable {b : Block} {i : Nat} {d : List Byte}

theorem beginClose_closed {c : Nat} (h : (b.ctx c).state = .closed) :
    beginClose i c b = (finishCtrl i stContextClosed frameNone 0 0 b, false) := by
  unfold beginClose
  simp [h]

/-- The Context as a close makes it CLOSING. -/
def closingCtx (i c : Nat) (b : Block) : Ctx :=
  { b.ctx c with state := .closing, closeDesc := some i, closeFrame := b.garnet.frameNo, cancelled := false, aborting := false }

theorem beginClose_begins {c : Nat} (h : (b.ctx c).state = .opened ∨ (b.ctx c).state = .stopped) :
    beginClose i c b = (b.setCtx c (closingCtx i c b), true) := by
  unfold beginClose
  obtain h | h := h <;> simp [h, closingCtx]

section
variable (hd : b.dispatched ctrlRing i 0x06 = none)
include hd

theorem contextCloseDrain_none : contextCloseDrain i b = b := by
  unfold contextCloseDrain
  rw [hd]

theorem contextCloseAbort_none : contextCloseAbort i b = b := by
  unfold contextCloseAbort
  rw [hd]

end

variable (hd : b.dispatched ctrlRing i 0x06 = some d)
include hd

theorem contextCloseDrain_held (h : ctxOrder b i = false ∨ leAt d 17 1 = 1) : contextCloseDrain i b = b := by
  unfold contextCloseDrain
  rw [hd]
  exact if_pos (by obtain h | h := h <;> simp [h])

theorem contextCloseAbort_held (h : ctxOrder b i = false ∨ leAt d 17 1 ≠ 1) : contextCloseAbort i b = b := by
  unfold contextCloseAbort
  rw [hd]
  exact if_pos (by obtain h | h := h <;> simp [h])

variable (ho : ctxOrder b i = true)
include ho

theorem contextCloseDrain_malformed (hm : 1 < leAt d 17 1) : contextCloseDrain i b = finishCtrl i stMalformed frameNone 0 17 b := by
  unfold contextCloseDrain
  simp only [hd, ho, if_pos hm, show leAt d 17 1 ≠ 1 by omega]
  rfl

theorem contextCloseDrain_begins (hm : leAt d 17 1 = 0) : contextCloseDrain i b = (beginClose i (leAt d 16 1) b).1 := by
  unfold contextCloseDrain
  simp only [hd, ho, hm]
  rfl

/-- Every Segment with no buffer that ABORT drops. -/
def abortDrops (c : Nat) (b : Block) : Block :=
  (unassigned b c).foldl (fun b x => dropUnassigned x.1 x.2 .closed b) (b.setCtx c { b.ctx c with aborting := true })

theorem contextCloseAbort_closed (hm : leAt d 17 1 = 1) (hs : (b.ctx (leAt d 16 1)).state = .closed) :
    contextCloseAbort i b = finishCtrl i stContextClosed frameNone 0 0 b := by
  simp only [contextCloseAbort, hd, ho, hm, beginClose_closed hs]
  rfl

theorem contextCloseAbort_begins (hm : leAt d 17 1 = 1)
    (hs : (b.ctx (leAt d 16 1)).state = .opened ∨ (b.ctx (leAt d 16 1)).state = .stopped) :
    contextCloseAbort i b = abortDrops (leAt d 16 1) (b.setCtx (leAt d 16 1) (closingCtx i (leAt d 16 1) b)) := by
  simp only [contextCloseAbort, hd, ho, hm, beginClose_begins hs]
  rfl

end

/-! ### A Context set twice -/

theorem vset_vset {α : Type} {n : Nat} (v : Vector α n) (i : Nat) (x y : α) : vset (vset v i x) i y = vset v i y := by
  unfold vset
  ext j hj
  simp only [Vector.getElem_setIfInBounds]
  split <;> rfl

theorem leAt_byte_lt (l : List Byte) (off : Nat) : leAt l off 1 < 256 := by
  unfold leAt
  cases l.drop off with
  | nil => exact Nat.zero_lt_succ _
  | cons x xs => exact x.isLt

theorem setCtx_ctx {c : Nat} (hc : c < 256) (x : Ctx) (b : Block) : (b.setCtx c x).ctx c = x := vget_vset_self hc ..

theorem setCtx_setCtx (c : Nat) (x y : Ctx) (b : Block) : (b.setCtx c x).setCtx c y = b.setCtx c y :=
  congrArg (fun v => { b with opal := { b.opal with ctxs := v } }) (vset_vset ..)

/-- With nothing to drop, ABORT leaves the Context marked. -/
theorem abortDrops_none {c i : Nat} (hc : c < 256) {b : Block} (h : unassigned b c = []) :
    abortDrops c (b.setCtx c (closingCtx i c b)) = b.setCtx c { closingCtx i c b with aborting := true } := by
  have none_ : unassigned (b.setCtx c (closingCtx i c b)) c = [] := h
  rw [abortDrops, none_, List.foldl_nil, setCtx_ctx hc, setCtx_setCtx]

/-! ### One Segment is dropped -/

section
variable {b : Block} {w : LedgerFrame} {e : LedgerDest}

theorem unassigned_one {c : Nat} (hw : b.opal.window = [w]) (he : w.dests = [e]) (hc : e.dest.ctx = c) (hm : e.dest.magazine = false)
    (hp : e.outcome = .pending) (hb : e.buffer = none) : unassigned b c = [(w.frame, e.dest)] := by
  simp [unassigned, hw, he, hc, hm, hp, hb]

theorem dropUnassigned_window (hw : b.opal.window = [w]) (he : w.dests = [e]) (hm : e.dest.magazine = false)
    (hp : e.outcome = .pending) (o : DestOutcome) :
    (dropUnassigned w.frame e.dest o b).opal.window = [{ w with dests := [{ e with outcome := o }] }] := by
  have told (n : SpinelNote) (x : Block) : (tellSpinel n x).opal.window = x.opal.window :=
    (congrArg Opal.window (kept_opal (tellSpinel_frame (n := n) (List.Subset.refl _) (onlyChanges_refl _ x)) (by decide)) :)
  have logged : (logAssign e.dest.ctx w.frame 0xFFFFFFFF b).opal.window = [w] := (congrArg Opal.window (kept_opal (Block.logEvr_kept b _ _ _ [] none) (by decide))).trans hw
  rw [dropUnassigned, told]
  simp [decideDest, destMod, winMod, logged, onDest, he, decide_, hp, hm]

theorem dropUnassigned_ctxs (f : Nat) (d : Dest) (o : DestOutcome) (b : Block) :
    (dropUnassigned f d o b).opal.ctxs = b.opal.ctxs := by
  have told (n : SpinelNote) (x : Block) : (tellSpinel n x).opal.ctxs = x.opal.ctxs :=
    ctxs_of_kept (tellSpinel_frame (List.Subset.refl _) (onlyChanges_refl _ x)) (by decide)
  exact (told ..).trans ((logEvr_ctxs b ..).trans rfl)

end

/-! ### The close ends -/

section
variable {b : Block} {c : Nat}

/-- What the end of a close leaves: the Context closed, Jade without its settings. -/
theorem endClose_ctxs (b : Block) (c : Nat) : (endClose c b).opal.ctxs = vset b.opal.ctxs c { b.ctx c with
      state := .closed, closeDesc := none, cancelled := false, highGen := 0, ring := { (b.ctx c).ring with state := .idle } } := by
  unfold endClose
  extract_lets x waits b1 b2 idle b3 b4
  have cancels : b2.opal.ctxs = b.opal.ctxs := foldl_finishCtrl_ctxs b1 waits ..
  have closes : b3.opal.ctxs = vset b.opal.ctxs c { x with
      state := .closed, closeDesc := none, cancelled := false, highGen := 0, ring := { x.ring with state := .idle } } :=
    congrArg (fun v => vset v c _) cancels
  have retires : b4.opal.ctxs = b3.opal.ctxs := by
    unfold b4
    split
    · exact retireSlot_ctxs ..
    · rfl
  split
  · exact (finishCtrl_ctxs ..).trans (retires.trans closes)
  · exact retires.trans closes

theorem endClose_settings (b : Block) (c : Nat) : (endClose c b).jade.settings = b.jade.settings.filter (·.ctx != c) := by
  unfold endClose
  extract_lets x waits b1 b2 idle b3 b4
  have cancels : b2.jade = b1.jade := foldl_finishCtrl_jade b1 waits ..
  have retires : b4.jade = b1.jade := by
    unfold b4
    split
    · exact ((retireSlot_frame (List.Subset.refl _) (onlyChanges_refl _ b3)).at_ .jade (by decide)).trans cancels
    · exact cancels
  have all : b4.jade.settings = b.jade.settings.filter (·.ctx != c) := congrArg Jade.settings retires
  split
  · exact (congrArg Jade.settings (finishCtrl_jade ..)).trans all
  · exact all

theorem ring_ctx (hc : c < 256) : b.ring c = (b.ctx c).ring := if_pos hc

theorem setRing_ring (hc : c < 256) : b.setRing c (b.ring c) = b := by
  unfold Block.setRing
  rw [if_pos hc, ring_ctx hc]
  exact congrArg (fun v => { b with opal := { b.opal with ctxs := v } }) (vset_vget ..)

theorem setRing_flight (hc : c < 256) {l : List Desc} (h : l = (b.ring c).flight) :
    b.setRing c { b.ring c with flight := l } = b := by
  subst h
  exact setRing_ring hc

/-- A Context ring with nothing in flight and no fault of its own has nothing to dispatch and nothing to write. -/
theorem serveRing_ctx_idle (hc : c < 256) (hf : (b.ctx c).ring.flight = []) (hr : (b.ctx c).ring.faultRec = none) :
    serveRing c b = flushEvents b.opal.events.length b := by
  have flight : (b.ring c).flight = [] := (congrArg Ring.flight (ring_ctx hc)).trans hf
  have fault : (b.ring c).faultRec = none := (congrArg Ring.faultRec (ring_ctx hc)).trans hr
  have still : dispatchRing c b = b := by
    unfold dispatchRing
    split
    · extract_lets x b1
      refine setRing_flight (b := b) hc ?_
      rw [show x.flight = [] from flight]
      rfl
    · rfl
  unfold serveRing
  rw [pumpRing_still still (flushRing_empty flight fault)]

theorem cancelFetched_none (hc : c < 256) (hf : (b.ctx c).ring.flight = []) : cancelFetched c b = b := by
  have flight : (b.ring c).flight = [] := (congrArg Ring.flight (ring_ctx hc)).trans hf
  unfold cancelFetched
  extract_lets x
  rw [show x.flight = [] from flight, List.map_nil]
  exact setRing_flight hc flight.symm

/-- Nothing is left to cancel on the ring: all that was posted is fetched, and CTX_PI was read for the last time. -/
theorem closeRing_nothingLeft (hc : c < 256) (hk : (b.ctx c).cancelled = true) (hp : (b.ctx c).ring.pi = (b.ctx c).ring.next)
    (w : Nat) (l : Option (List (List Byte))) : closeRing c w l b = b := by
  have noRoom : closeRoom b c = 0 := by
    unfold closeRoom
    simp [ring_ctx hc, hp, indexDist]
  unfold closeRing
  simp only [noRoom, hk, Bool.not_true, Bool.and_false, Bool.false_eq_true, if_false, Nat.lt_irrefl, decide_false, Bool.false_and]
  exact ite_self b

end

section
variable {b : Block} {c : Nat} (w : Nat) (l : Option (List (List Byte))) (hc : c < 256)
include hc

theorem contextCloseFinish_waits (h : (b.ctx c).state ≠ .closing ∨ hostDone b c = false) : contextCloseFinish c w l b = b := by
  unfold contextCloseFinish
  rw [Nat.mod_eq_of_lt hc]
  exact if_pos (by obtain h | h := h <;> simp [h])

/-- The Context's ring is empty, and only held events are written before the close ends. -/
theorem contextCloseFinish_ends (hs : (b.ctx c).state = .closing) (hh : hostDone b c = true) (hk : (b.ctx c).cancelled = true)
    (hf : (b.ctx c).ring.flight = []) (hr : (b.ctx c).ring.faultRec = none) (hp : (b.ctx c).ring.pi = (b.ctx c).ring.next) :
    ∃ x, contextCloseFinish c w l b = endClose c x ∧ x.opal.ctxs = b.opal.ctxs ∧ x.jade = b.jade := by
  let b1 := flushEvents b.opal.events.length b
  have same1 : b1.ctx c = b.ctx c := ctx_of_ctxs (flushEvents_ctxs b _) c
  let b2 := flushEvents b1.opal.events.length b1
  have ctxs2 : b2.opal.ctxs = b.opal.ctxs := (flushEvents_ctxs b1 _).trans (flushEvents_ctxs b _)
  have same2 : b2.ctx c = b.ctx c := ctx_of_ctxs ctxs2 c
  have served : serveRing c (closeRing c w l (serveRing c (cancelFetched c b))) = b2 := by
    rw [cancelFetched_none hc hf, serveRing_ctx_idle hc hf hr,
      closeRing_nothingLeft (b := b1) hc (by rw [same1]; exact hk) (by rw [same1]; exact hp),
      serveRing_ctx_idle (b := b1) hc (by rw [same1]; exact hf) (by rw [same1]; exact hr)]
  refine ⟨b2, ?_, ctxs2, (flushEvents_jade ..).trans (flushEvents_jade ..)⟩
  unfold contextCloseFinish
  simp only [Nat.mod_eq_of_lt hc, hs, hh, served, same2, hk, hf, hr, hp, beq_self_eq_true]
  rfl

end

end Sys2Proof.Machine

section
open Sys2Proof Sys2Proof.Machine

/-- Settles O34: the two closes by their MODE, and the end of a close once nothing is left on the ring. -/
theorem contextsCloseInTwoSteps : Obligations.ContextsCloseInTwoSteps := by
  refine ⟨?drainClosed, ?drain, ?badMode, ?abortClosed, ?abort, ?drops, ?segments, ?ends, ?notClosing, ?drainNone, ?abortNone,
    ?drainHeld, ?abortHeld, ?drainOther, ?abortOther, ?totalDrain, ?totalAbort, ?totalFinish⟩
  case drainClosed =>
    intro q b i d ha hd ho hm hs
    exact act_gated ha ((contextCloseDrain_begins hd ho hm).trans (congrArg Prod.fst (beginClose_closed hs)))
  case drain =>
    intro q b i d ha hd ho hm hs
    exact act_gated ha ((contextCloseDrain_begins hd ho hm).trans (congrArg Prod.fst (beginClose_begins hs)))
  case badMode => exact fun q b i d ha hd ho hm => act_gated ha (contextCloseDrain_malformed hd ho hm)
  case abortClosed => exact fun q b i d ha hd ho hm hs => act_gated ha (contextCloseAbort_closed hd ho hm hs)
  case abort =>
    intro q b i d ha hd ho hm hs hn
    exact act_gated ha ((contextCloseAbort_begins hd ho hm hs).trans (abortDrops_none (leAt_byte_lt d 16) hn))
  case drops =>
    intro q b i d w e ha hd ho hm hs hw he hc hg hp hb
    have eq := contextCloseAbort_begins hd ho hm (.inl hs)
    have hx := leAt_byte_lt d 16
    have one := unassigned_one (b := b.setCtx (leAt d 16 1) (closingCtx i (leAt d 16 1) b)) hw he hc hg hp hb
    rw [abortDrops, one, List.foldl_cons, List.foldl_nil] at eq
    refine .of_next (act_gated ha eq) ⟨dropUnassigned_window (b := (b.setCtx (leAt d 16 1) (closingCtx i (leAt d 16 1) b)).setCtx (leAt d 16 1) _)
        hw he hg hp .closed, ?_,
      eq ▸ contextCloseAbort_frame (by decide) (onlyChanges_refl _ b)⟩
    rw [ctx_of_ctxs (dropUnassigned_ctxs ..), setCtx_ctx hx, setCtx_ctx hx]
    rfl
  case segments => exact fun q b c w l ha hc hs hh => act_gated ha (contextCloseFinish_waits w l hc (.inr hh))
  case ends =>
    intro q b c w l ha hc hs hh hk hf hr hp
    obtain ⟨x, eq, ctxs, jade⟩ := contextCloseFinish_ends w l hc hs hh hk hf hr hp
    have closed : (endClose c x).ctx c = _ := (congrArg (fun v => vget v c (endClose c x).opal.ctxs[0]) (endClose_ctxs x c)).trans
      (vget_vset_self hc ..)
    exact .of_next (act_gated ha eq) ⟨congrArg Ctx.state closed, congrArg Ctx.closeDesc closed,
      congrArg (fun y => y.ring.state) closed, (endClose_settings x c).trans (by rw [jade]),
      eq ▸ contextCloseFinish_frame (by decide) (onlyChanges_refl _ b)⟩
  case notClosing => exact fun q b c w l ha hc hs => act_gated ha (contextCloseFinish_waits w l hc (.inl hs))
  case drainNone => exact fun q b i ha hd => act_gated ha (contextCloseDrain_none hd)
  case abortNone => exact fun q b i ha hd => act_gated ha (contextCloseAbort_none hd)
  case drainHeld => exact fun q b i d ha hd ho => act_gated ha (contextCloseDrain_held hd (.inl ho))
  case abortHeld => exact fun q b i d ha hd ho => act_gated ha (contextCloseAbort_held hd (.inl ho))
  case drainOther => exact fun q b i d ha hd hm => act_gated ha (contextCloseDrain_held hd (.inr hm))
  case abortOther => exact fun q b i d ha hd hm => act_gated ha (contextCloseAbort_held hd (.inr hm))
  case totalDrain => exact fun q b i ha => ⟨act_gated ha rfl, contextCloseDrain_frame (by decide) (onlyChanges_refl _ b)⟩
  case totalAbort => exact fun q b i ha => ⟨act_gated ha rfl, contextCloseAbort_frame (by decide) (onlyChanges_refl _ b)⟩
  case totalFinish => exact fun q b c w l ha => ⟨act_gated ha rfl, contextCloseFinish_frame (by decide) (onlyChanges_refl _ b)⟩

end
end

section
/-! O35: buffers and the host-ring Segments that take them (08 R222 to R224, R506). -/

-- The proofs are elaborated one after another: each waiting in a thread of its own takes more memory than the check allows.
set_option Elab.async false

namespace Sys2Proof.Machine

/-! ### BUFFER_POST -/

section
variable {b : Block} {c i : Nat}

theorem bufferPost_none (h : b.dispatched (c % 256) i 0x20 = none) : bufferPost c i b = b := by
  unfold bufferPost
  simp only [h]

variable {d : List Byte} (hd : b.dispatched (c % 256) i 0x20 = some d)
include hd

theorem bufferPost_malformed {off : Nat} (hf : postFaultAt d = some off) :
    bufferPost c i b = finish (c % 256) i stMalformed frameNone 0 off b := by
  unfold bufferPost
  simp only [hd, hf]

variable (hf : postFaultAt d = none)
include hf

theorem bufferPost_cancelled (hr : (b.ctx (c % 256)).hostRing = false) :
    bufferPost c i b = finish (c % 256) i stCancelled frameNone 0 0 b := by
  unfold bufferPost
  simp only [hd, hf, hr, Bool.not_false, if_true]

theorem bufferPost_serves (hr : (b.ctx (c % 256)).hostRing = true) : bufferPost c i b = serveHost (c % 256) b := by
  unfold bufferPost
  simp only [hd, hf, hr, Bool.not_true, Bool.false_eq_true, if_false]

end

/-! ### A host ring with nothing in line -/

theorem assignBuffers_noSegment {b : Block} {c : Nat} (h : nextSegment b c = none) (k : Nat) : assignBuffers k c b = b := by
  cases k with
  | zero => rfl
  | succ k =>
    unfold assignBuffers
    split
    · rfl
    · rw [h]

/-- The Destination waits for a buffer of Context `c`. -/
def awaitsBuffer (c : Nat) (e : LedgerDest) : Bool :=
  e.dest.ctx == c && !e.dest.magazine && e.outcome == .pending && e.buffer.isNone

section
variable {b : Block} {c : Nat} {w : LedgerFrame} {e : LedgerDest}

theorem nextSegment_one (hw : b.opal.window = [w]) (he : w.dests = [e]) :
    nextSegment b c = if awaitsBuffer c e then some (w.frame, e) else none := by
  have found : [e].find? (fun d => d.dest.ctx == c && !d.dest.magazine && d.outcome == .pending && d.buffer.isNone) =
      if awaitsBuffer c e then some e else none := List.find?_singleton
  rw [nextSegment, hw, List.findSome?_singleton, he, found]
  cases awaitsBuffer c e <;> rfl

/-- With its one Segment assigned or decided, the host ring has nothing more in line. -/
theorem assignBuffers_rest (hw : b.opal.window = [{ w with dests := [e] }]) (he : awaitsBuffer c e = false) (k : Nat) :
    assignBuffers k c b = b :=
  assignBuffers_noSegment ((nextSegment_one hw rfl).trans (if_neg (Bool.eq_false_iff.mp he))) k

theorem destMod_one {f n : Nat} (g : LedgerDest → LedgerDest) (hw : b.opal.window = [w]) (hf : w.frame = f) (he : w.dests = [e])
    (hn : e.dest.index = n) : (destMod f n g b).opal.window = [{ w with dests := [g e] }] := by
  simp [destMod, winMod, onDest, hw, hf, he, hn]

end

/-! ### What Spinel does of Opal's word -/

theorem tellSpinel_kept (n : SpinelNote) (b : Block) : onlyChanges [.spinel, .ch, .trace, .out] b (tellSpinel n b) :=
  tellSpinel_frame (List.Subset.refl _) (onlyChanges_refl _ b)

theorem tellSpinel_window (n : SpinelNote) (b : Block) : (tellSpinel n b).opal.window = b.opal.window :=
  (congrArg Opal.window (kept_opal (tellSpinel_kept n b) (by decide)) :)

/-- No Stripe has come of any Segment in Spinel, and these are the outputs. -/
structure Unmoved (o : Outputs) (b : Block) : Prop where
  empty : ∀ g ∈ b.spinel.segs, g.stripes = []
  out : b.out = o

namespace Unmoved

variable {o : Outputs} {b : Block}

theorem of_view {x : Block} (h : Unmoved o b) (hs : x.spinel.segs = b.spinel.segs) (ho : x.out = b.out) : Unmoved o x :=
  ⟨hs ▸ h.empty, ho.trans h.out⟩

theorem segMod (h : Unmoved o b) (f i : Nat) {g : SpinelSeg → SpinelSeg} (hg : ∀ x, (g x).stripes = x.stripes) :
    Unmoved o (segMod f i g b) := by
  refine ⟨fun y hy => ?_, h.out⟩
  obtain ⟨x, hx, rfl⟩ := List.mem_map.mp hy
  split
  · exact (hg x).trans (h.empty x hx)
  · exact h.empty x hx

theorem segFree (h : Unmoved o b) (f i : Nat) : Unmoved o (segFree f i b) :=
  ⟨fun y hy => h.empty y (List.mem_of_mem_filter hy), h.out⟩

theorem segDrop (h : Unmoved o b) (f i : Nat) : Unmoved o (segDrop f i b) := by
  unfold Machine.segDrop
  split
  · split
    · exact h.segFree ..
    · exact h.segMod f i (fun _ => rfl)
  · exact h

/-- With no Stripe come, nothing is moved. -/
theorem moveSegment (h : Unmoved o b) (f i : Nat) : Unmoved o (moveSegment f i b) := by
  unfold Machine.moveSegment
  split
  · exact h
  · next g hg =>
    split
    · exact h
    · extract_lets key todo final x
      have nothing : todo = [] := by
        unfold todo
        rw [h.empty g (List.mem_of_find?_eq_some hg), List.filter_nil]
      have same : x = b := by
        unfold x
        rw [nothing]
        rfl
      split
      · exact h
      · rw [same]
        exact h.segMod f i (fun _ => rfl)

theorem takeSpinelNote (h : Unmoved o b) (n : SpinelNote) : Unmoved o (takeSpinelNote n b) := by
  cases n with
  | assign f i a => exact (h.segMod f i (g := fun g => { g with buffer := some a }) (fun _ => rfl)).moveSegment f i
  | drop f i => exact h.segDrop f i

theorem tellSpinel (h : Unmoved o b) (n : SpinelNote) : Unmoved o (tellSpinel n b) := by
  have given : Unmoved o (b.modCh (fun c => { c with opalSpinel := c.opalSpinel ++ [n] })) := h.of_view rfl rfl
  unfold Machine.tellSpinel takeSpinelNotes
  split
  · exact given
  · extract_lets due l x
    have taken : Unmoved o x := given.of_view rfl rfl
    exact List.foldlRecOn l _ taken (fun _ hy n _ => hy.takeSpinelNote n)

end Unmoved

/-! ### One Segment in line -/

theorem logAssign_kept (c f v : Nat) (b : Block) : onlyChanges [.evr, .trace] b (logAssign c f v b) := Block.logEvr_kept ..

theorem logAssign_window (c f v : Nat) (b : Block) : (logAssign c f v b).opal.window = b.opal.window :=
  (congrArg Opal.window (kept_opal (logAssign_kept c f v b) (by decide)) :)

section
variable {b : Block} {c i a len : Nat} {w : LedgerFrame} {e : LedgerDest}
  (hh : b.hostUp = true) (hw : b.opal.window = [w]) (he : w.dests = [e]) (hn : awaitsBuffer c e = true)
  (hr : e.ready = true) (hp : freePost b c = some (i, a, len))
include hh hw he hn hr hp

/-- The buffer is assigned. -/
theorem serveHost_assigns (hl : e.dest.segLen ≤ len) : ∃ x,
    serveHost c b = tellSpinel (.assign w.frame e.dest.index a) x ∧
      x = destMod w.frame e.dest.index (fun y => { y with buffer := some i })
        (logAssign c w.frame (indexWord (b.ring c).sqEntries i) b) := by
  refine ⟨_, ?_, rfl⟩
  have assigned := destMod_one (b := logAssign c w.frame (indexWord (b.ring c).sqEntries i) b)
    (fun y => { y with buffer := some i }) ((logAssign_window ..).trans hw) rfl he rfl
  have taken : awaitsBuffer c { e with buffer := some i } = false := by simp [awaitsBuffer]
  have next := (nextSegment_one (c := c) hw he).trans (if_pos hn)
  unfold serveHost assignBuffers
  simp only [hh, next, hp, hr, Nat.not_lt.mpr hl, Bool.not_true, Bool.false_eq_true, if_false]
  exact assignBuffers_rest ((tellSpinel_window ..).trans assigned) taken _

/-- The buffer is too small: it completes OVERSIZE, and the Segment is dropped. -/
theorem serveHost_oversize (hl : len < e.dest.segLen) :
    (serveHost c b).opal.window = [{ w with dests := [{ e with outcome := .oversize }] }] := by
  have waits := hn
  simp only [awaitsBuffer, Bool.and_eq_true, Bool.not_eq_true', beq_iff_eq] at waits
  obtain ⟨⟨⟨-, host⟩, pending⟩, -⟩ := waits
  have next := (nextSegment_one (c := c) hw he).trans (if_pos hn)
  have decided := destMod_one (b := logAssign c w.frame (indexWord (b.ring c).sqEntries i) b) (decide_ .oversize)
    ((logAssign_window ..).trans hw) rfl he rfl
  have ready : (!e.ready) = false := by rw [hr]; rfl
  have outcome : decide_ .oversize e = { e with outcome := .oversize } := by simp [decide_, pending, host]
  have finished (x : Block) (hx : x.opal.window = [{ w with dests := [decide_ .oversize e] }]) :
      (finish c i stOversize w.frame e.dest.segLen 0 (tellSpinel (.drop w.frame e.dest.index) x)).opal.window =
        [{ w with dests := [{ e with outcome := .oversize }] }] :=
    (finish_window ..).trans ((tellSpinel_window ..).trans (outcome ▸ hx))
  unfold serveHost assignBuffers
  simp only [hh, next, hp, ready, hl, Bool.not_true, Bool.false_eq_true, if_false, if_true]
  exact (congrArg (fun x => x.opal.window) (assignBuffers_rest (finished _ decided) (by simp [awaitsBuffer]) _)).trans
    (finished _ decided)

end

/-! ### BUF_WAIT_EXPIRY -/

section
variable {b : Block}

theorem bufWaitExpiry_none (h : ∀ w ∈ b.opal.window, ∀ d ∈ w.dests, waitOver b w d = false) : bufWaitExpiry b = b := by
  have nothing : b.opal.window.flatMap (fun w => (w.dests.filter (waitOver b w)).map (fun d => (w.frame, d.dest))) = [] := by
    refine List.flatMap_eq_nil_iff.mpr (fun w hw => List.map_eq_nil_iff.mpr ?_)
    exact List.filter_eq_nil_iff.mpr (fun d hd => Bool.eq_false_iff.mp (h w hw d hd))
  unfold bufWaitExpiry
  rw [nothing]
  rfl

variable {w : LedgerFrame} {e : LedgerDest}

theorem bufWaitExpiry_one (hw : b.opal.window = [w]) (he : w.dests = [e]) (ho : waitOver b w e = true) :
    (bufWaitExpiry b).opal.window = [{ w with dests := [{ e with outcome := .hostTimeout }] }] := by
  have waits := ho
  simp only [waitOver, Bool.and_eq_true, Bool.not_eq_true', beq_iff_eq] at waits
  obtain ⟨⟨⟨host, pending⟩, -⟩, -⟩ := waits
  have dropped := dropUnassigned_window hw he host pending .hostTimeout
  unfold bufWaitExpiry
  simp only [hw, List.flatMap_cons, List.flatMap_nil, List.append_nil, he, List.filter_cons, List.filter_nil, ho, if_true,
    List.map_cons, List.map_nil, List.foldl_cons, List.foldl_nil]
  unfold serveHost
  rw [assignBuffers_rest dropped (by simp [awaitsBuffer])]
  exact dropped

end

/-! ### HOST_STRIPE_MOVED -/

theorem takes_of_topaz {x b : Block} (h : x.topaz = b.topaz) (i : Island) : x.takes i = b.takes i := by
  unfold Block.takes
  rw [islandEmpty_of_topaz h]
  unfold Block.inPower Block.isl
  rw [h]

theorem hostStripeMoved_none {b : Block} (h : b.ch.spinelOpal = []) : hostStripeMoved b = b := by
  unfold hostStripeMoved
  rw [h]

/-- Spinel drops its one Segment, which is whole. -/
theorem tellSpinel_drops {b : Block} {f i : Nat} {g : SpinelSeg} (ht : b.takes .spinel = true) (hd : b.ch.spinelDests = [])
    (ho : b.ch.opalSpinel = []) (hs : b.spinel.segs = [g]) (hf : g.frame = f) (hi : g.dest.index = i) (hg : g.whole = true) :
    (tellSpinel (.drop f i) b).spinel.segs = [] ∧ (tellSpinel (.drop f i) b).ch.spinelOpal = b.ch.spinelOpal := by
  let x := b.modCh (fun c => { c with opalSpinel := [] })
  have found : segGet x f i = some g := by simp [segGet, x, hs, hf, hi]
  have dropped : segDrop f i x = segFree f i x := by simp [segDrop, found, hg]
  have told : tellSpinel (.drop f i) b = segDrop f i x := by
    unfold tellSpinel takeSpinelNotes
    refine (if_neg (show ¬(!b.takes .spinel) = true by rw [ht]; exact Bool.false_ne_true)).trans ?_
    simp [hd, ho, x, takeSpinelNote, Block.modCh]
  rw [told, dropped]
  exact ⟨by simp [segFree, x, hs, hf, hi], rfl⟩

section
variable {b : Block} {m : HostMoved} {w : LedgerFrame} {e : LedgerDest}

/-- A Destination with the STRIPE_MAP of its header, and the outcome of Segment `p`. -/
def movedWhole (m : HostMoved) (w : LedgerFrame) (p : Dest) (e : LedgerDest) : LedgerDest := { e with
  stripeMap := m.map, doneMap := m.map, outcome := if m.map == expectedMap w.snap.prog p then .done else .partial_ }

/-- The last token gives the Destination its outcome; then the Segment is dropped, and a buffer assigned to it completes. -/
theorem takeMoved_last (hm : m.failed = false) (hh : m.header = true) (hw : b.opal.window = [w]) (hf : w.frame = m.frame)
    (he : w.dests = [e]) (hi : e.dest.index = m.index) (hp : e.outcome = .pending) :
    ∃ x y, x.opal.window = [{ w with dests := [movedWhole m w e.dest e] }] ∧
      x.ch = b.ch ∧ x.spinel = b.spinel ∧ x.topaz = b.topaz ∧
      takeMoved m b = y (tellSpinel (.drop m.frame m.index) x) ∧
      (y = id ∨ ∃ r n st v d, y = finish r n st m.frame v d) := by
  let moved (d : LedgerDest) : LedgerDest := { d with
    doneMap := if m.stripe != 255 && !isMissing m.marks then d.doneMap ||| 2 ^ m.stripe else d.doneMap }
  have first := destMod_one (b := b) moved hw hf he hi
  have frame : winGet (destMod m.frame m.index moved b) m.frame = some { w with dests := [moved e] } := by
    rw [winGet, first]
    simp [hf]
  have dest : [moved e].find? (fun d => d.dest.index == m.index && d.outcome == .pending) = some (moved e) := by
    simp [moved, hi, hp]
  have last := destMod_one (b := destMod m.frame m.index moved b) (movedWhole m w e.dest) first hf rfl hi
  unfold takeMoved
  rw [if_neg (by rw [hm]; exact Bool.false_ne_true)]
  dsimp only
  rw [if_neg (by rw [hh]; exact Bool.false_ne_true), frame]
  dsimp only
  rw [dest]
  dsimp only
  split
  · next n hn => exact ⟨_, finish _ n _ m.frame _ _, last, rfl, rfl, rfl, rfl, .inr ⟨_, n, _, _, _, rfl⟩⟩
  · exact ⟨_, id, last, rfl, rfl, rfl, rfl, .inl rfl⟩

end

end Sys2Proof.Machine

section
open Sys2Proof Sys2Proof.Machine

/-- Settles O35: a buffer by its fields and by the Segment in line, the wait that ends, and the last token of a Segment. -/
theorem buffersTakeHostSegments : Obligations.BuffersTakeHostSegments := by
  refine ⟨?malformed, ?cancelled, ?waits, ?assigned, ?oversize, ?noneOver, ?expires, ?moved, ?notDispatched, ?serves, ?noToken,
    ?totalPost, ?totalExpiry, ?failingExpiry, ?idleExpiry, ?totalMoved, ?failingMoved, ?idleMoved⟩
  case malformed => exact fun q b c i off d ha hd hf => act_gated ha (bufferPost_malformed hd hf)
  case cancelled => exact fun q b c i d ha hd hf hr => act_gated ha (bufferPost_cancelled hd hf hr)
  case waits =>
    exact fun q b c i d ha hd hf hr hn => act_gated ha ((bufferPost_serves hd hf hr).trans (assignBuffers_noSegment hn _))
  case assigned =>
    intro q b c i a len d w e g ha hd hf hr hh hw he hc hm ho hb hready hp hl hs hg
    obtain ⟨x, eq, rfl⟩ := serveHost_assigns hh hw he (by simp [awaitsBuffer, hc, hm, ho, hb]) hready hp hl
    have post := (bufferPost_serves hd hf hr).trans eq
    have logged := logAssign_kept (c % 256) w.frame (indexWord (b.ring (c % 256)).sqEntries i) b
    have unmoved : Unmoved b.out b := ⟨by rw [hs]; intro y hy; rw [List.mem_singleton.mp hy]; exact hg, rfl⟩
    have still := (unmoved.of_view (congrArg Spinel.segs (logged.at_ .spinel (by decide))) (logged.at_ .out (by decide)) :)
    refine .of_next (act_gated ha post) ⟨?_, ?_, post ▸ bufferPost_frame (by decide) (onlyChanges_refl _ b)⟩
    · exact (tellSpinel_window ..).trans (destMod_one _ ((logAssign_window ..).trans hw) rfl he rfl)
    · exact ((still.of_view rfl rfl : Unmoved b.out (destMod ..)).tellSpinel _).out
  case oversize =>
    intro q b c i a len d w e ha hd hf hr hh hw he hc hm ho hb hready hp hl
    have post := bufferPost_serves hd hf hr
    refine .of_next (act_gated ha post) ⟨?_, post ▸ bufferPost_frame (by decide) (onlyChanges_refl _ b)⟩
    exact serveHost_oversize hh hw he (by simp [awaitsBuffer, hc, hm, ho, hb]) hready hp hl
  case noneOver => exact fun q b ha hn => act_heeded ha (bufWaitExpiry_none hn)
  case expires =>
    intro q b w e ha hh hw he ho
    exact .of_next (act_heeded ha rfl) ⟨bufWaitExpiry_one hw he ho, bufWaitExpiry_frame (by decide) (onlyChanges_refl _ b)⟩
  case moved =>
    intro q b m l w e g ha hem hc hm hh hw hf he hi hp ht hsd hos hs hgf hgi hg
    let taken := b.modCh (fun c => { c with spinelOpal := l, kept := { c.kept with spinelOpal := c.kept.spinelOpal ++ [m] } })
    have eq : hostStripeMoved b = takeMoved m taken := by
      unfold hostStripeMoved
      rw [hc]
    obtain ⟨x, y, window, ch, spinel, topaz, told, last⟩ := takeMoved_last (b := taken) hm hh hw hf he hi hp
    have takes : x.takes .spinel = true := (takes_of_topaz topaz .spinel).trans ht
    obtain ⟨segs, spinelOpal⟩ := tellSpinel_drops (b := x) takes ((congrArg Channels.spinelDests ch).trans hsd)
      ((congrArg Channels.opalSpinel ch).trans hos) ((congrArg Spinel.segs spinel).trans hs) hgf hgi hg
    have channel := spinelOpal.trans (congrArg Channels.spinelOpal ch)
    have decided := (tellSpinel_window (.drop m.frame m.index) x).trans window
    refine .of_next (act_served ha hem (eq.trans told)) ⟨?_, ?_, ?_,
      told ▸ eq ▸ hostStripeMoved_frame (by decide) (onlyChanges_refl _ b)⟩
    all_goals obtain rfl | ⟨r, n, st, v, d, rfl⟩ := last
    · exact channel
    · exact (finish_spinelOpal ..).trans channel
    · exact decided
    · exact (finish_window ..).trans decided
    · exact segs
    · exact (congrArg Spinel.segs (finish_spinel ..)).trans segs
  case notDispatched => exact fun q b c i ha hd => act_gated ha (bufferPost_none hd)
  case serves => exact fun q b c i d ha hd hf hr => act_gated ha (bufferPost_serves hd hf hr)
  case noToken => exact fun q b ha he hn => act_served ha he (hostStripeMoved_none hn)
  case totalPost => exact fun q b c i ha => ⟨act_gated ha rfl, bufferPost_frame (by decide) (onlyChanges_refl _ b)⟩
  case totalExpiry => exact fun q b ha => ⟨act_heeded ha rfl, bufWaitExpiry_frame (by decide) (onlyChanges_refl _ b)⟩
  case failingExpiry => exact fun q b hf => act_heeded_failing hf rfl
  case idleExpiry => exact fun q b ha hf => act_heeded_idle ha hf
  case totalMoved => exact fun q b ha he => ⟨act_served ha he rfl, hostStripeMoved_frame (by decide) (onlyChanges_refl _ b)⟩
  case failingMoved => exact fun q b hf => act_served_failing hf rfl
  case idleMoved => exact fun q b hf h => act_served_idle hf h

end
end

section
/-! O36: a latch notice of a Frame whose number the window holds already (09 R243; 08 R216). -/

-- The proofs are elaborated one after another: each waiting in a thread of its own takes more memory than the check allows.
set_option Elab.async false

namespace Sys2Proof.Machine

/-- A command has one next state. -/
theorem blk_of_next {c : Instr} {s t : State} {q : List Instr} {x : Block} (h : exec c s = .next t) (k : exec c s = .next ⟨q, x⟩) :
    t.blk = x :=
  congrArg State.blk (Host.Outcome.next.inj (h.symm.trans k))

/-- The window holds Frame 0, which waits for a buffer of Context 0, and Context 0 is being closed by ABORT; the notice at the front
is again of Frame 0. -/
def noticeOfHeldFrame : Block := { wLive with
  opal := { wLive.opal with
    window := [{ freshFrame wSnap [] false with dests := [freshDest (wDest false false)] }]
    ctxs := wLive.opal.ctxs.setIfInBounds 0 { coldCtx with state := .closing, aborting := true } }
  ch := { coldChannels with noticeOpal := [⟨0, some wSnap, none, none⟩] } }

/-- The Destination of the older Frame is dropped as CLOSED when the notice is served. -/
theorem latchNoticeOpal_drops_held :
    (latchNoticeOpal 0 noticeOfHeldFrame).opal.window.map (fun w => w.dests.map (·.outcome)) = [[.closed], []] := by
  decide +kernel

end Sys2Proof.Machine

section
open Sys2Proof Sys2Proof.Machine

/-- Refutes O36: its first clause lets a Frame of the window have the number of the Frame bound, where the text has every one older.
Such a Frame, with a Segment of a Context that ABORT closes, is the one that the late ABORT finds, so the window does not keep it as
it was. -/
theorem not_latchNoticesBindDestinations : ¬ Obligations.LatchNoticesBindDestinations := by
  intro h
  obtain ⟨binds, -⟩ := h
  obtain ⟨t, runs, -, -, window, -⟩ := binds [] noticeOfHeldFrame ⟨0, some wSnap, none, none⟩ [] wSnap [] false (by decide +kernel) rfl
    rfl rfl (by decide +kernel) (by decide +kernel) (by decide) rfl
  have next : t.blk = latchNoticeOpal 0 noticeOfHeldFrame := blk_of_next runs (act_heeded (by decide +kernel) rfl)
  have kept : t.blk.opal.window.map (fun w => w.dests.map (·.outcome)) = [[.pending], []] := by rw [window]; rfl
  rw [next, latchNoticeOpal_drops_held] at kept
  exact absurd kept (by decide)

end
end

section
/-! O37: outcomes that Garnet and Onyx send to the Ledger (09 R237, R239, R246, R252; 10 R286). -/

-- The proofs are elaborated one after another: each waiting in a thread of its own takes more memory than the check allows.
set_option Elab.async false

namespace Sys2Proof.Machine

/-! ### The outcomes in the window -/

/-- Each Frame of the window with the outcomes of its Destinations. -/
def outcomesOf (b : Block) : List (Nat × List DestOutcome) := b.opal.window.map (fun w => (w.frame, w.dests.map (·.outcome)))

theorem outcomesOf_congr {a b : Block} (h : b.opal.window = a.opal.window) : outcomesOf b = outcomesOf a :=
  congrArg (List.map _) h

theorem outcomesOf_of_kept {ps : List Piece} {a b : Block} (h : onlyChanges ps a b) (hp : .opal ∉ ps) : outcomesOf b = outcomesOf a :=
  outcomesOf_congr (congrArg Opal.window (kept_opal h hp) :)

/-- A change of Frames that keeps each number and each outcome. -/
theorem outcomesOf_winMod {f : Nat} {g : LedgerFrame → LedgerFrame} {b : Block} (hf : ∀ w, (g w).frame = w.frame)
    (ho : ∀ w, (g w).dests.map (·.outcome) = w.dests.map (·.outcome)) : outcomesOf (winMod f g b) = outcomesOf b := by
  refine (List.map_map ..).trans (List.map_congr_left (fun w _ => ?_))
  dsimp only [Function.comp_apply]
  split
  · rw [hf, ho]
  · rfl

/-- The Frames of another number, with their outcomes. -/
def otherOutcomes (f : Nat) (b : Block) : List (Nat × List DestOutcome) := (outcomesOf b).filter (fun p => p.1 != f)

theorem otherOutcomes_winMod {f : Nat} {g : LedgerFrame → LedgerFrame} {b : Block} (hf : ∀ w, (g w).frame = w.frame) :
    otherOutcomes f (winMod f g b) = otherOutcomes f b := by
  have lists (l : List LedgerFrame) : ((l.map (fun w => if w.frame = f then g w else w)).map
      (fun w => (w.frame, w.dests.map (·.outcome)))).filter (fun p => p.1 != f) =
        (l.map (fun w => (w.frame, w.dests.map (·.outcome)))).filter (fun p => p.1 != f) := by
    induction l with
    | nil => rfl
    | cons w l ih => by_cases h : w.frame = f <;> simp [-List.map_map, h, hf w, ih]
  exact lists _

/-- No Destination of Frame `f` in the window lacks an outcome. -/
def allOutcomes (f : Nat) (b : Block) : Prop := ∀ p ∈ outcomesOf b, p.1 = f → ∀ x ∈ p.2, x ≠ .pending

theorem outcome_decide {o : DestOutcome} (ho : o ≠ .pending) (d : LedgerDest) : (decide_ o d).outcome ≠ .pending := by
  unfold decide_
  split
  · next h => exact bne_iff_ne.mp h
  · split <;> exact ho

theorem allOutcomes_decideAll {f : Nat} {o : DestOutcome} (ho : o ≠ .pending) (b : Block) :
    allOutcomes f (decideAll f (fun _ => true) o b) := by
  intro p hp hf x hx
  obtain ⟨y, hy, rfl⟩ := List.mem_map.mp hp
  obtain ⟨w, -, rfl⟩ := List.mem_map.mp hy
  split at hx
  · obtain ⟨d, hd, rfl⟩ := List.mem_map.mp hx
    obtain ⟨e, -, rfl⟩ := List.mem_map.mp hd
    exact outcome_decide ho e
  · next h =>
    rw [if_neg h] at hf
    exact absurd hf h

theorem allOutcomes_absent {f : Nat} {b : Block} (h : winGet b f = none) : allOutcomes f b := by
  intro p hp hf
  obtain ⟨w, hw, rfl⟩ := List.mem_map.mp hp
  exact absurd (beq_iff_eq.mpr hf) (List.find?_eq_none.mp h w hw)

/-- What the statement says of the window, from the outcomes in it. -/
theorem window_of_outcomes {f : Nat} {t b : Block} (ha : allOutcomes f t) (ho : otherOutcomes f t = otherOutcomes f b) :
    (∀ w ∈ t.opal.window, w.frame = f → ∀ d ∈ w.dests, d.outcome ≠ .pending) ∧
      (t.opal.window.filter (fun w => w.frame != f)).map (fun w => w.dests.map (·.outcome)) =
        (b.opal.window.filter (fun w => w.frame != f)).map (fun w => w.dests.map (·.outcome)) := by
  have others (x : Block) : (x.opal.window.filter (fun w => w.frame != f)).map (fun w => w.dests.map (·.outcome)) =
      (otherOutcomes f x).map (·.2) := by
    unfold otherOutcomes outcomesOf
    rw [List.filter_map, List.map_map]
    rfl
  refine ⟨fun w hw hf d hd => ha _ (List.mem_map_of_mem hw) hf _ (List.mem_map_of_mem hd), ?_⟩
  rw [others, others, ho]

/-! ### The channels of outcomes -/

/-- The outcomes on their way to Opal from Garnet, the notes that wait for Opal, and the flush reports of Onyx. -/
def Block.noteSide (b : Block) : List GarnetOutcome × List (Nat × LedgerNote) × List Bool :=
  (b.ch.garnetOpal, b.ch.ledgerNotes, b.ch.onyxReport)

theorem noteSide_of_kept {ps : List Piece} {a b : Block} (h : onlyChanges ps a b) (hp : .ch ∉ ps) : b.noteSide = a.noteSide := by
  have garnet := (congrArg Channels.garnetOpal (kept_ch h hp) :)
  have notes := (congrArg Channels.ledgerNotes (kept_ch h hp) :)
  have reports := (congrArg Channels.onyxReport (kept_ch h hp) :)
  exact Prod.ext garnet (Prod.ext notes reports)

theorem segDrop_noteSide (f i : Nat) (b : Block) : (segDrop f i b).noteSide = b.noteSide := by
  unfold segDrop
  split
  · split <;> rfl
  · rfl

theorem moveSegment_noteSide (f i : Nat) (b : Block) : (moveSegment f i b).noteSide = b.noteSide := by
  have moved (g : SpinelSeg) (k : Option (List Byte)) (buf lo hi : Nat) (x : Block) :
      (moveBytes g k buf lo hi x).noteSide = x.noteSide :=
    noteSide_of_kept (moveBytes_frame (List.Subset.refl _) (onlyChanges_refl _ x)) (by decide)
  unfold moveSegment
  split
  · rfl
  · split
    · rfl
    · extract_lets key todo final x
      split
      · rfl
      · refine Eq.trans (b := x.noteSide) rfl ?_
        refine foldl_keeps (g := Block.noteSide) (fun y e => ?_) todo b
        dsimp only
        refine Eq.trans (b := Block.noteSide (if final e.1 then _ else _)) rfl ?_
        split
        · exact (moved ..).trans ((moved ..).trans (moved ..))
        · exact moved ..

theorem takeSpinelNote_noteSide (n : SpinelNote) (b : Block) : (takeSpinelNote n b).noteSide = b.noteSide := by
  cases n with
  | assign f i a => exact moveSegment_noteSide ..
  | drop f i => exact segDrop_noteSide ..

theorem tellSpinel_noteSide (n : SpinelNote) (b : Block) : (tellSpinel n b).noteSide = b.noteSide := by
  unfold tellSpinel takeSpinelNotes
  split
  · rfl
  · exact foldl_keeps (f := fun b n => takeSpinelNote n b) (g := Block.noteSide) (fun x y => takeSpinelNote_noteSide y x) _ _

theorem failPost_kept (f : Nat) (d : LedgerDest) (st : Nat) (b : Block) : onlyChanges [.posts, .evr, .trace, .out] b (failPost f d st b) :=
  failPost_frame (List.Subset.refl _) (onlyChanges_refl _ b)

theorem dropHost_noteSide (f i : Nat) (o : DestOutcome) (st : Nat) (b : Block) : (dropHost f i o st b).noteSide = b.noteSide := by
  unfold dropHost
  split
  · next d _ =>
    have posted : (failPost f d st b).noteSide = b.noteSide := noteSide_of_kept (failPost_kept f d st b) (by decide)
    exact (tellSpinel_noteSide ..).trans posted
  · rfl

theorem dropHost_others (f i : Nat) (o : DestOutcome) (st : Nat) (b : Block) :
    otherOutcomes f (dropHost f i o st b) = otherOutcomes f b := by
  have of_outcomes {x y : Block} (h : outcomesOf x = outcomesOf y) : otherOutcomes f x = otherOutcomes f y :=
    congrArg (List.filter _) h
  unfold dropHost
  split
  · next d _ =>
    refine (of_outcomes (outcomesOf_congr (tellSpinel_window ..))).trans ?_
    refine (otherOutcomes_winMod (g := onDest i (decide_ o)) (fun _ => rfl)).trans ?_
    exact of_outcomes (outcomesOf_of_kept (failPost_kept f d st b) (by decide))
  · rfl

/-! ### GARNET_OUTCOME -/

/-- What Garnet measured is in the record. -/
def garnetRecorded (m : GarnetOutcome) (l : List GarnetOutcome) (b : Block) : Block :=
  settleEnds (winMod m.frame (fun w => if w.measured && !m.final then w else { w with
      snap := { m.snap with take := w.snap.take, flags := { m.snap.flags with takeStart := w.snap.flags.takeStart } }
      failStop := w.failStop || m.snap.flags.failStop, marks := w.marks ||| m.marks
      measured := w.measured || m.final })
    (b.modCh (fun c => { c with garnetOpal := l, kept := { c.kept with garnetOpal := c.kept.garnetOpal ++ [m] } })))

/-- The host-ring Segments of the Frame are dropped. -/
def garnetDrops (m : GarnetOutcome) (o : DestOutcome) (w : LedgerFrame) (b : Block) : Block :=
  (w.dests.filter (fun d => !d.dest.magazine)).foldl
    (fun b d => dropHost m.frame d.dest.index o (if o = .truncated then stCancelled else stFailed) b)
    (if o = .failed then mergeDests m.frame m.marks (w.dests.map (·.dest.index)) b else b)

/-- Onyx is to learn of its Destinations. -/
def garnetTells (m : GarnetOutcome) (w : LedgerFrame) (b : Block) : Block :=
  b.modCh (fun c => { c with opalOnyx := c.opalOnyx ++
    (w.dests.filter (fun d => d.dest.magazine && d.outcome == .pending)).map (fun d => (m.frame, d.dest.index)) })

theorem settleFrame_kept (o : Opal) (w : LedgerFrame) : (settleFrame o w).frame = w.frame ∧ (settleFrame o w).dests = w.dests ∧
    (settleFrame o w).measured = w.measured ∧ (settleFrame o w).snap = w.snap ∧ (settleFrame o w).marks = w.marks := by
  unfold settleFrame
  split
  · exact ⟨rfl, rfl, rfl, rfl, rfl⟩
  · split
    · exact ⟨rfl, rfl, rfl, rfl, rfl⟩
    · split <;> exact ⟨rfl, rfl, rfl, rfl, rfl⟩
    · exact ⟨rfl, rfl, rfl, rfl, rfl⟩

theorem settleEnds_outcomes (b : Block) : outcomesOf (settleEnds b) = outcomesOf b := by
  refine (List.map_map ..).trans (List.map_congr_left (fun w _ => ?_))
  obtain ⟨frame, dests, -⟩ := settleFrame_kept b.opal w
  exact Prod.ext frame (congrArg (List.map _) dests)

theorem garnetRecorded_outcomes (m : GarnetOutcome) (l : List GarnetOutcome) (b : Block) :
    outcomesOf (garnetRecorded m l b) = outcomesOf b := by
  refine (settleEnds_outcomes _).trans (outcomesOf_winMod (fun w => ?_) (fun w => ?_)) <;> split <;> rfl

theorem garnetDrops_others (m : GarnetOutcome) (o : DestOutcome) (w : LedgerFrame) (b : Block) :
    otherOutcomes m.frame (garnetDrops m o w b) = otherOutcomes m.frame b := by
  refine (foldl_keeps (g := otherOutcomes m.frame) (fun x d => dropHost_others ..) _ _).trans ?_
  split
  · exact congrArg (List.filter _) (outcomesOf_of_kept (mergeDests_frame (List.Subset.refl _) (onlyChanges_refl _ b)) (by decide))
  · rfl

theorem garnetDrops_noteSide (m : GarnetOutcome) (o : DestOutcome) (w : LedgerFrame) (b : Block) :
    (garnetDrops m o w b).noteSide = b.noteSide := by
  refine (foldl_keeps (g := Block.noteSide) (fun x d => dropHost_noteSide ..) _ _).trans ?_
  split
  · exact noteSide_of_kept (mergeDests_frame (List.Subset.refl _) (onlyChanges_refl _ b)) (by decide)
  · rfl

section
variable {b : Block} {m : GarnetOutcome} {l : List GarnetOutcome}

theorem garnetDecides_none (h : b.ch.garnetOpal = []) : garnetDecides b = b := if_pos (by rw [h]; rfl)

variable (hc : b.ch.garnetOpal = m :: l)
include hc

theorem garnetDecides_goesOn : garnetDecides b = onyxGoesOn (garnetOutcome b) :=
  if_neg (by rw [hc]; exact Bool.false_ne_true)

/-- The message has no outcome. -/
theorem garnetOutcome_measures (ho : m.outcome = none) : garnetOutcome b = garnetRecorded m l b := by
  unfold garnetOutcome
  rw [hc]
  dsimp only
  rw [ho]
  rfl

variable {o : DestOutcome} (ho : m.outcome = some o)
include ho

theorem garnetOutcome_absent (hw : winGet (garnetRecorded m l b) m.frame = none) : garnetOutcome b = garnetRecorded m l b := by
  unfold garnetOutcome
  rw [hc]
  dsimp only
  rw [ho, show winGet (settleEnds _) m.frame = none from hw]
  rfl

theorem garnetOutcome_decides {w : LedgerFrame} (hw : winGet (garnetRecorded m l b) m.frame = some w) : garnetOutcome b =
    decideAll m.frame (fun _ => true) o (garnetTells m w (garnetDrops m o w (garnetRecorded m l b))) := by
  unfold garnetOutcome
  rw [hc]
  dsimp only
  rw [ho, show winGet (settleEnds _) m.frame = some w from hw]
  rfl

/-- The Frame is decided, the others keep their outcomes, and the message is taken. -/
theorem garnetOutcome_outcomes (hn : o ≠ .pending) : allOutcomes m.frame (garnetOutcome b) ∧
    otherOutcomes m.frame (garnetOutcome b) = otherOutcomes m.frame b ∧ (garnetOutcome b).noteSide = (l, b.ch.ledgerNotes, b.ch.onyxReport) := by
  have recorded : otherOutcomes m.frame (garnetRecorded m l b) = otherOutcomes m.frame b :=
    congrArg (List.filter _) (garnetRecorded_outcomes ..)
  cases hw : winGet (garnetRecorded m l b) m.frame with
  | none =>
    rw [garnetOutcome_absent hc ho hw]
    exact ⟨allOutcomes_absent hw, recorded, rfl⟩
  | some w =>
    rw [garnetOutcome_decides hc ho hw]
    refine ⟨allOutcomes_decideAll hn _, ?_, ?_⟩
    · refine (otherOutcomes_winMod (g := fun w => { w with dests := w.dests.map (decide_ o) }) (fun _ => rfl)).trans ?_
      exact (garnetDrops_others ..).trans recorded
    · exact (garnetDrops_noteSide ..).trans rfl

end

theorem onyxGoesOn_unflushed {b : Block} (h : b.onyx.flush = none) : onyxGoesOn b = b := if_pos (by rw [h]; rfl)

theorem garnetOutcome_onyx (b : Block) : (garnetOutcome b).onyx = b.onyx :=
  (garnetOutcome_frame (List.Subset.refl _) (onlyChanges_refl _ b)).at_ .onyx (by decide)

/-- Outside a flush Onyx does not go on. -/
theorem garnetDecides_unflushed {b : Block} (h : b.onyx.flush = none) : garnetDecides b = garnetOutcome b := by
  cases hc : b.ch.garnetOpal with
  | nil =>
    rw [garnetDecides_none hc]
    unfold garnetOutcome
    rw [hc]
  | cons m l => exact (garnetDecides_goesOn hc).trans (onyxGoesOn_unflushed ((congrArg Onyx.flush (garnetOutcome_onyx b)).trans h))

/-! ### What Onyx does in a flush decides nothing in the window -/

/-- The note gives no outcome. -/
def LedgerNote.quiet : LedgerNote → Bool
  | .outcome _ _ => false
  | _ => true

/-- The window holds these outcomes, and no note that waits gives another. -/
structure Undecided (v : List (Nat × List DestOutcome)) (b : Block) : Prop where
  outcomes : outcomesOf b = v
  quiet : ∀ e ∈ b.ch.ledgerNotes, e.2.quiet = true

theorem onDest_outcomes {i : Nat} {f : LedgerDest → LedgerDest} (h : ∀ d, (f d).outcome = d.outcome) (w : LedgerFrame) :
    (onDest i f w).dests.map (·.outcome) = w.dests.map (·.outcome) := by
  refine (List.map_map ..).trans (List.map_congr_left (fun d _ => ?_))
  dsimp only [Function.comp_apply]
  split
  · exact h d
  · rfl

theorem takeNote_frame_num (n : LedgerNote) (w : LedgerFrame) : (takeNote n w).frame = w.frame := by
  cases n <;> rfl

/-- A note that gives no outcome keeps those of its Frame. -/
theorem takeNote_outcomes {n : LedgerNote} (h : n.quiet = true) (w : LedgerFrame) :
    (takeNote n w).dests.map (·.outcome) = w.dests.map (·.outcome) := by
  cases n with
  | outcome i o => exact absurd h Bool.false_ne_true
  | marks | drained | refMissing | joined | notFirst | lastOfTake => rfl
  | segment | shareLost | durable | rehomed =>
    refine onDest_outcomes ?_ w
    exact fun _ => rfl
  | share | ante =>
    refine onDest_outcomes ?_ w
    intro d
    split <;> rfl

namespace Undecided

variable {v : List (Nat × List DestOutcome)} {b : Block}

theorem of_view {x : Block} (h : Undecided v b) (hw : x.opal.window = b.opal.window) (hn : x.ch.ledgerNotes = b.ch.ledgerNotes) :
    Undecided v x :=
  ⟨(outcomesOf_congr hw).trans h.outcomes, hn ▸ h.quiet⟩

theorem of_kept {ps : List Piece} {x : Block} (h : Undecided v b) (k : onlyChanges ps b x) (ho : .opal ∉ ps) (hc : .ch ∉ ps) :
    Undecided v x :=
  h.of_view (congrArg Opal.window (kept_opal k ho) :) (congrArg (·.2.1) (noteSide_of_kept k hc))

theorem tellOpal (h : Undecided v b) (f : Nat) {n : LedgerNote} (hn : n.quiet = true) : Undecided v (tellOpal f n b) := by
  have given : Undecided v (b.modCh (fun c => { c with ledgerNotes := c.ledgerNotes ++ [(f, n)] })) := by
    refine ⟨h.outcomes, fun e he => ?_⟩
    obtain he | he := List.mem_append.mp he
    · exact h.quiet e he
    · rw [List.mem_singleton.mp he]
      exact hn
  unfold Machine.tellOpal takeNotes
  split
  · exact given
  · extract_lets due l x
    have taken : Undecided v x := ⟨given.outcomes, fun e he => given.quiet e (List.mem_of_mem_filter he)⟩
    refine List.foldlRecOn l _ taken (fun y hy e he => ?_)
    have quiet := given.quiet e (List.mem_of_mem_filter he)
    exact ⟨(outcomesOf_winMod (takeNote_frame_num e.2) (takeNote_outcomes quiet)).trans hy.outcomes, hy.quiet⟩

theorem withdraw (h : Undecided v b) (f i : Nat) : Undecided v (withdraw f i b) := by
  unfold Machine.withdraw withdrawIf
  exact List.foldlRecOn _ _ (h.of_view rfl rfl) (fun _ hy _ _ => hy.of_view rfl rfl)

theorem dropSegment (h : Undecided v b) (g : OnyxSeg) : Undecided v (dropSegment g b) := by
  unfold Machine.dropSegment
  extract_lets x y
  have withdrawn : Undecided v x := h.withdraw ..
  have unreserved : Undecided v y := by
    unfold y
    split
    · exact withdrawn
    · exact withdrawn.of_view rfl rfl
  exact unreserved.of_view rfl rfl

theorem strikeEntries (h : Undecided v b) (g : OnyxSeg) : Undecided v (strikeEntries g b) :=
  h.of_kept (strikeEntries_frame (List.Subset.refl _) (onlyChanges_refl _ b)) (by decide) (by decide)

theorem giveOutcome (h : Undecided v b) (g : OnyxSeg) (o : DestOutcome) : Undecided v (giveOutcome g o b) := by
  unfold Machine.giveOutcome
  extract_lets good map x y
  have struck : Undecided v (if good then b else Machine.strikeEntries g b) := by
    split
    · exact h
    · exact h.strikeEntries g
  have merged : Undecided v (mergeDigest .onyx 3 g.frame 1 (if good then b else Machine.strikeEntries g b)) :=
    struck.of_kept (mergeDigest_frame (List.Subset.refl _) (onlyChanges_refl _ _)) (by decide) (by decide)
  have told : Undecided v y := (merged.dropSegment g).of_view rfl rfl
  split
  · split
    · exact told.of_view rfl rfl
    · exact told
  · exact told

theorem takeDecided (h : Undecided v b) : Undecided v (takeDecided b) := by
  unfold Machine.takeDecided
  split
  · exact h
  · extract_lets due l
    split
    · exact h
    · refine List.foldlRecOn l _ (h.of_view rfl rfl) (fun y hy k _ => ?_)
      unfold forgetSegment
      split
      · exact (hy.strikeEntries _).dropSegment _
      · exact hy

theorem settleOnce (gs : List OnyxSeg) (held : List Nat) (h : Undecided v b) : Undecided v (settleOnce gs held b) := by
  induction gs generalizing held b with
  | nil => exact h
  | cons g gs ih =>
    unfold Machine.settleOnce
    split
    · exact ih _ h
    · split
      · exact ih _ h
      · split
        · refine ih _ (List.foldlRecOn g.parts _ (h.giveOutcome g _) (fun y hy p _ => hy.of_view rfl rfl))
        · exact ih _ h

theorem settleSegs (h : Undecided v b) : Undecided v (settleSegs b) := settleOnce _ _ h

theorem tellDurable (h : Undecided v b) (k : Nat × Nat) : Undecided v (tellDurable b k) := by
  unfold Machine.tellDurable
  split
  · split
    · exact h.tellOpal _ rfl
    · exact h
  · exact h

theorem commitDone (h : Undecided v b) (m : Nat) (l : List (Nat × Nat)) : Undecided v (commitDone m l b) := by
  unfold Machine.commitDone
  extract_lets segs x y
  have marked : Undecided v x := List.foldlRecOn l _ h (fun _ hy _ _ => hy.of_view rfl rfl)
  have told : Undecided v y := List.foldlRecOn l _ marked (fun _ hy k _ => hy.tellDurable k)
  exact told.of_view rfl rfl

theorem doStep (h : Undecided v b) (m : Nat) (s : PortStep) : Undecided v (doStep m s b) := by
  cases s with
  | cmd => exact h
  | stage | opened | shn => exact h.of_view rfl rfl
  | listen => exact h.of_kept (issueCmd_frame (List.Subset.refl _) (onlyChanges_refl _ b)) (by decide) (by decide)
  | ready how => exact h.of_kept (portReady_frame (List.Subset.refl _) (onlyChanges_refl _ b)) (by decide) (by decide)
  | closed =>
    have popped : Undecided v (portMod m (fun p => { p with clips := p.clips.drop 1 }) b) := h.of_view rfl rfl
    exact popped.of_kept (magEvent_frame (List.Subset.refl _) (onlyChanges_refl _ _)) (by decide) (by decide)
  | commit l => exact h.of_kept (writeCommit_frame (List.Subset.refl _) (onlyChanges_refl _ b)) (by decide) (by decide)
  | committed l => exact (h.commitDone m l).settleSegs

theorem pumpPort (k : Nat) (h : Undecided v b) (m : Nat) : Undecided v (pumpPort m k b) := by
  induction k generalizing b with
  | zero => exact h
  | succ k ih =>
    have popped (rest : List PortStep) : Undecided v (portMod m (fun p => { p with steps := rest }) b) := h.of_view rfl rfl
    have issued (op : NvmeOp) (rest : List PortStep) :
        Undecided v (issueCmd m op .serial false (portMod m (fun p => { p with steps := rest }) b)) :=
      (popped rest).of_kept (issueCmd_frame (List.Subset.refl _) (onlyChanges_refl _ _)) (by decide) (by decide)
    have started : Undecided v (nextWork m b) := h.of_kept (nextWork_kept m b) (by decide) (by decide)
    unfold Machine.pumpPort
    extract_lets p b'
    split
    · exact h
    split
    · split
      · exact h
      · exact ih ((popped _).doStep m _)
    · next op rest _ =>
      by_cases busy : (if isIo op then ioLimit p ≤ ioOut b m else adminLimit ≤ adminOut p)
      · rw [if_pos busy]
        exact h
      · rw [if_neg busy]
        exact issued op rest
    · exact ih ((popped _).doStep m _)
    · split
      · exact started
      · exact ih started

theorem onyxGoesOn (h : Undecided v b) : Undecided v (onyxGoesOn b) := by
  unfold Machine.onyxGoesOn
  split
  · exact h
  · exact List.foldlRecOn _ _ h.takeDecided.settleSegs (fun _ hy m _ => hy.pumpPort _ m)

end Undecided

/-! ### DESTINATION_OUTCOME -/

section
variable {b : Block} {m : OutcomeMsg} {l : List OutcomeMsg} {w : LedgerFrame} {e : LedgerDest}

theorem destinationOutcome_none (h : b.ch.onyxOpal = []) : destinationOutcome b = b := by
  unfold destinationOutcome
  rw [h]

/-- The message joined to a Destination without an outcome. -/
def onyxJoins (m : OutcomeMsg) (d : LedgerDest) : LedgerDest := { d with
  ports := m.ports, rehomed := d.rehomed || m.rehomed, marks := d.marks ||| m.marks, stripeMap := d.stripeMap ||| m.stripeMap
  doneMap := if m.outcome = .done || m.outcome = .partial_ then m.stripeMap else d.doneMap }

/-- A Destination as the message decides it, once. -/
def onyxDecides (m : OutcomeMsg) (d : LedgerDest) : LedgerDest :=
  if d.outcome = .pending then decide_ m.outcome (onyxJoins m d) else d

/-- The Frame with its marks and the Destination decided. -/
def onyxRecords (m : OutcomeMsg) (w : LedgerFrame) (e : LedgerDest) : LedgerFrame := { w with
  marks := w.marks ||| m.marks, failStop := w.failStop || hasMark m.marks markFailStop
  dests := [if e.dest.index = m.index then onyxDecides m e else e] }

/-- The message is taken. -/
def onyxOutcomeTaken (m : OutcomeMsg) (l : List OutcomeMsg) (b : Block) : Block :=
  b.modCh (fun c => { c with onyxOpal := l, kept := { c.kept with onyxOpal := c.kept.onyxOpal ++ [m] } })

theorem destinationOutcome_one (hc : b.ch.onyxOpal = m :: l) (hw : b.opal.window = [w]) (hf : w.frame = m.frame) (he : w.dests = [e]) :
    ∃ x, destinationOutcome b = x.modOpal (fun o => { o with window := [onyxRecords m w e] }) ∧
      (m.outcome ≠ .failed → x = onyxOutcomeTaken m l b) ∧ x.ch.onyxOpal = l := by
  let x := if m.outcome = .failed then mergeDests m.frame m.marks [m.index] (onyxOutcomeTaken m l b) else onyxOutcomeTaken m l b
  have kept : onlyChanges [.evr, .trace] (onyxOutcomeTaken m l b) x := by
    unfold x
    split
    · exact mergeDests_frame (List.Subset.refl _) (onlyChanges_refl _ _)
    · exact onlyChanges_refl _ _
  have window : x.opal.window = [w] := (congrArg Opal.window (kept_opal kept (by decide)) :).trans hw
  have decided : destinationOutcome b = markFrame m.frame m.marks (destMod m.frame m.index (onyxDecides m) x) := by
    unfold destinationOutcome
    rw [hc]
    rfl
  refine ⟨x, ?_, fun hn => if_neg hn, (congrArg Channels.onyxOpal (kept_ch kept (by decide)) :).trans rfl⟩
  rw [decided]
  simp [markFrame, destMod, winMod, Block.modOpal, window, onDest, hf, he, onyxRecords]

/-- A magazine Destination without an outcome, as the message decides it. -/
theorem onyxDecides_pending (hm : e.dest.magazine = true) (hp : e.outcome = .pending) : onyxDecides m e = { e with
    outcome := m.outcome, ports := if m.outcome = .done ∨ m.outcome = .partial_ then m.ports else 0
    rehomed := e.rehomed || m.rehomed, marks := e.marks ||| m.marks, stripeMap := e.stripeMap ||| m.stripeMap
    doneMap := if m.outcome = .done ∨ m.outcome = .partial_ then m.stripeMap else e.doneMap
    durability := if m.outcome = .done ∨ m.outcome = .partial_ then 4 else 5, anteHeld := false } := by
  unfold onyxDecides
  rw [if_pos hp]
  unfold decide_ onyxJoins
  cases m.outcome <;> simp [hp, hm, durabilityOf]

end

end Sys2Proof.Machine

section
open Sys2Proof Sys2Proof.Machine

/-- Settles O37: the outcome that Garnet gives a whole Frame, in a flush and outside, and the one that Onyx gives a Destination. -/
theorem outcomesReachTheLedger : Obligations.OutcomesReachTheLedger := by
  refine ⟨?garnet, ?flush, ?onyx, ?failed, ?decided, ?noOnyx, ?noGarnet, ?measured, ?totalGarnet, ?failingGarnet, ?idleGarnet,
    ?totalOnyx, ?failingOnyx, ?idleOnyx⟩
  case garnet =>
    intro q b m l o ha hc ho hn hf
    obtain ⟨all, others, notes⟩ := garnetOutcome_outcomes hc ho hn
    obtain ⟨decided, kept⟩ := window_of_outcomes all others
    exact .of_next (act_heeded ha (garnetDecides_unflushed hf)) ⟨congrArg Prod.fst notes, decided, kept,
      garnetOutcome_frame (by decide) (onlyChanges_refl _ b)⟩
  case flush =>
    intro q b m l o ha hc ho hn hf hl
    obtain ⟨all, others, notes⟩ := garnetOutcome_outcomes hc ho hn
    have quiet : ∀ e ∈ (garnetOutcome b).ch.ledgerNotes, e.2.quiet = true := by
      rw [show (garnetOutcome b).ch.ledgerNotes = [] from (congrArg (·.2.1) notes).trans hl]
      exact fun _ h => absurd h List.not_mem_nil
    have kept := (Undecided.mk (b := garnetOutcome b) rfl quiet).onyxGoesOn.outcomes
    have all' : allOutcomes m.frame (onyxGoesOn (garnetOutcome b)) := by
      unfold allOutcomes
      rw [kept]
      exact all
    have others' : otherOutcomes m.frame (onyxGoesOn (garnetOutcome b)) = otherOutcomes m.frame b :=
      (congrArg (List.filter _) kept).trans others
    obtain ⟨decided, rest⟩ := window_of_outcomes all' others'
    exact .of_next (act_heeded ha (garnetDecides_goesOn hc)) ⟨decided, rest,
      garnetDecides_goesOn hc ▸ garnetDecides_frame (by decide) (onlyChanges_refl _ b)⟩
  case onyx =>
    intro q b m l w e ha hc hw hf he hi hm hp ho
    obtain ⟨x, eq, taken, -⟩ := destinationOutcome_one hc hw hf he
    refine act_heeded ha (eq.trans ?_)
    rw [taken ho, onyxRecords, if_pos hi, onyxDecides_pending hm hp]
    rfl
  case failed =>
    intro q b m l w e ha hc hw hf he hi hm hp ho
    obtain ⟨x, eq, -, channel⟩ := destinationOutcome_one hc hw hf he
    refine .of_next (act_heeded ha eq) ⟨channel, ?_, rfl, eq ▸ destinationOutcome_frame (by decide) (onlyChanges_refl _ b)⟩
    show (List.map _ [onyxRecords m w e]) = _
    rw [onyxRecords, if_pos hi, onyxDecides_pending hm hp, ho]
    rfl
  case decided =>
    intro q b m l w e ha hc hw hf he hp ho
    obtain ⟨x, eq, taken, -⟩ := destinationOutcome_one hc hw hf he
    have same : (if e.dest.index = m.index then onyxDecides m e else e) = e := by
      rw [onyxDecides, if_neg hp, ite_self]
    refine act_heeded ha (eq.trans ?_)
    rw [taken ho, onyxRecords, same, ← he]
    rfl
  case noOnyx => exact fun q b ha hc => act_heeded ha (destinationOutcome_none hc)
  case noGarnet => exact fun q b ha hc => act_heeded ha (garnetDecides_none hc)
  case measured =>
    intro q b m l w ha hc ho hm hw hf hn ht
    have eq := (garnetDecides_unflushed hn).trans (garnetOutcome_measures hc ho)
    refine .of_next (act_heeded ha eq) ⟨rfl, ?_, ?_, garnetOutcome_measures hc ho ▸ garnetOutcome_frame (by decide) (onlyChanges_refl _ b)⟩
    all_goals
      simp only [garnetRecorded, settleEnds, winMod, Block.modOpal, Block.modCh, hw, List.map_cons, List.map_nil, hf, if_true, hm,
        Bool.not_true, Bool.and_false, Bool.false_eq_true, if_false, Bool.or_true]
    · obtain ⟨-, -, measured, snap, marks⟩ := settleFrame_kept _ _
      rw [measured, snap, marks]
    · obtain ⟨-, dests, -⟩ := settleFrame_kept _ _
      rw [dests]
  case totalGarnet => exact fun q b ha => ⟨act_heeded ha rfl, garnetDecides_frame (by decide) (onlyChanges_refl _ b)⟩
  case failingGarnet => exact fun q b hf => act_heeded_failing hf rfl
  case idleGarnet => exact fun q b ha hf => act_heeded_idle ha hf
  case totalOnyx => exact fun q b ha => ⟨act_heeded ha rfl, destinationOutcome_frame (by decide) (onlyChanges_refl _ b)⟩
  case failingOnyx => exact fun q b hf => act_heeded_failing hf rfl
  case idleOnyx => exact fun q b ha hf => act_heeded_idle ha hf

end
end

section
/-! O39: events into the Control Ring and messages of vectors (08 R229 to R232, 18 R475). -/

-- The proofs are elaborated one after another: each waiting in a thread of its own takes more memory than the check allows.
set_option Elab.async false

namespace Sys2Proof.Machine

/-! ### BERYL_EVENT_RECORD -/

section
variable {b : Block}

theorem berylEventRecord_none (h : b.ch.berylOpal = []) : berylEventRecord b = b := by
  unfold berylEventRecord
  rw [h]

theorem berylEventRecord_front {e : EventMsg} {l : List EventMsg} (h : b.ch.berylOpal = e :: l) :
    berylEventRecord b = postEventAt e.stamp e.code e.frame e.data (b.modCh (fun c => { c with berylOpal := l })) := by
  unfold berylEventRecord
  rw [h]

/-- An event raised with the number that SEQ gives it. -/
def numbered (s c f : Nat) (d : List Byte) (b : Block) : Event := ⟨c, (b.opal.evSeq + 1) % 2 ^ 32, s, f, d⟩

/-- The event is held behind those that wait. -/
def eventHeld (e : Event) (b : Block) : Block := b.modOpal (fun o => { o with evSeq := e.seq, events := o.events ++ [e] })

variable {s c f : Nat} {d : List Byte} (hp : b.inPower .opal = true)
include hp

theorem postEventAt_full (h : b.opal.events.length = 16) : postEventAt s c f d b =
    b.modOpal (fun o => { o with evSeq := (o.evSeq + 1) % 2 ^ 32, evLost := satAdd 65535 o.evLost 1 }) := by
  refine (if_neg (show ¬(!b.inPower .opal) = true by rw [hp]; exact Bool.false_ne_true)).trans ?_
  exact if_neg (by omega)

theorem postEventAt_flushes (h : b.opal.events.length < 16) : postEventAt s c f d b =
    flushEvents (b.opal.events ++ [numbered s c f d b]).length (eventHeld (numbered s c f d b) b) := by
  refine (if_neg (show ¬(!b.inPower .opal) = true by rw [hp]; exact Bool.false_ne_true)).trans ?_
  exact if_pos h

end

theorem requestMsg_counts (v : Nat) (b : Block) :
    (requestMsg v b).opal.evLost = b.opal.evLost ∧ (requestMsg v b).opal.evSeq = b.opal.evSeq ∧ (requestMsg v b).ch = b.ch := by
  unfold requestMsg
  extract_lets x
  split
  · exact ⟨rfl, rfl, rfl⟩
  · split <;> exact ⟨rfl, rfl, rfl⟩

/-- The one held event goes into the Control Ring. -/
theorem flushEvents_one {b : Block} {e : Event} (he : b.opal.events = [e]) (hh : b.hostUp = true) (hs : b.opal.ctrl.state = .running)
    (hr : b.opal.ctrl.room = true) (hd : recordDue b = false) : ∃ v,
      flushEvents 1 b = requestMsg v ((writeRecord 256 (eventRecord e b.opal.evLost) b).modOpal (fun o => { o with
        events := [], evLost := 0 })) := by
  have goes : (b.hostUp && b.opal.ctrl.state != .idle && b.opal.ctrl.room && !recordDue b) = true := by
    rw [hh, hs, hr, hd]
    rfl
  rw [flushEvents, he]
  exact ⟨_, if_pos goes⟩

theorem writeRecord_evSeq_ch (l : List Byte) (b : Block) :
    (writeRecord 256 l b).opal.evSeq = b.opal.evSeq ∧ (writeRecord 256 l b).ch = b.ch := by
  unfold writeRecord readHead
  extract_lets x y
  split <;> exact ⟨rfl, rfl⟩

/-! ### Messages -/

section
variable {b : Block} {v : Nat}

theorem msixHoldoffExpiry_none (h : (b.vec v).holdoff = false) : msixHoldoffExpiry v b = b :=
  if_pos (by rw [h]; exact Bool.or_true _)

theorem setVec_vec (hv : v < 64) (x : Vec) (b : Block) : (b.setVec v x).vec v = x := vget_vset_self hv ..

variable (hv : v < 64)
include hv

/-- The holdoff ends. -/
theorem msixHoldoffExpiry_ends {w p : Bool} (h : b.vec v = ⟨w, p, true⟩) : msixHoldoffExpiry v b =
    if w then requestMsg v (b.setVec v ⟨false, p, false⟩) else releaseMsg v (b.setVec v ⟨false, p, false⟩) := by
  unfold msixHoldoffExpiry
  simp only [h, Nat.not_le.mpr hv, decide_false, Bool.not_true, Bool.or_self, Bool.false_eq_true, if_false]

omit hv in
theorem requestMsg_sends (h : b.vec v = ⟨false, false, false⟩) (ha : vecAllowed b v = true) : requestMsg v b = sendMsg v b := by
  unfold requestMsg
  simp only [ha, h, Bool.not_true, Bool.false_eq_true, if_false]

omit hv in
theorem requestMsg_masked (h : b.vec v = ⟨false, false, false⟩) (ha : vecAllowed b v = false) :
    requestMsg v b = b.setVec v ⟨false, true, false⟩ := by
  unfold requestMsg
  simp only [ha, h, Bool.not_false, if_true]

end

theorem releaseMsg_none {b : Block} {v : Nat} (h : (b.vec v).pending = false) : releaseMsg v b = b :=
  if_neg (by rw [h]; exact Bool.false_ne_true)

/-- With no message pending, none is sent. -/
theorem releaseAll_none {b : Block} (h : ∀ v < 64, (b.vec v).pending = false) :
    (List.range 64).foldl (fun b v => releaseMsg v b) b = b := by
  have still (l : List Nat) (hl : ∀ v ∈ l, v < 64) : l.foldl (fun b v => releaseMsg v b) b = b := by
    induction l with
    | nil => rfl
    | cons v l ih =>
      rw [List.foldl_cons, releaseMsg_none (h v (hl v List.mem_cons_self))]
      exact ih (fun w hw => hl w (List.mem_cons_of_mem _ hw))
  exact still _ (fun v hv => List.mem_range.mp hv)

section
variable {b : Block}

theorem msixMaskWrite_noBar (h : b.bar0 = false) (w : MsixWrite) : msixMaskWrite w b = b := if_pos (by rw [h]; rfl)

variable (h : b.bar0 = true) (hp : ∀ v < 64, (b.vec v).pending = false)
include h hp

theorem msixMaskWrite_function (on : Bool) : msixMaskWrite (.function on) b = b.modOpal (fun o => { o with funcMask := on }) := by
  unfold msixMaskWrite
  refine (if_neg (by rw [h]; exact Bool.false_ne_true)).trans ?_
  exact releaseAll_none (b := b.modOpal (fun o => { o with funcMask := on })) hp

theorem msixMaskWrite_enable (on : Bool) : msixMaskWrite (.enable on) b = b.modOpal (fun o => { o with msixEnable := on }) := by
  unfold msixMaskWrite
  refine (if_neg (by rw [h]; exact Bool.false_ne_true)).trans ?_
  exact releaseAll_none (b := b.modOpal (fun o => { o with msixEnable := on })) hp

theorem msixMaskWrite_mask {v : Nat} (hv : v < 64) (on : Bool) :
    msixMaskWrite (.mask v on) b = b.setReg (0x600C + 16 * v) (bit on) := by
  unfold msixMaskWrite
  refine (if_neg (by rw [h]; exact Bool.false_ne_true)).trans ?_
  dsimp only
  rw [if_pos hv]
  exact releaseAll_none (b := b.setReg (0x600C + 16 * v) (bit on)) hp

end

end Sys2Proof.Machine

section
open Sys2Proof Sys2Proof.Machine

/-- Settles O39: an event by the room it finds, and the message of a vector by its mask and its holdoff. -/
theorem eventsAndMessagesGoOut : Obligations.EventsAndMessagesGoOut := by
  refine ⟨?dropped, ?held, ?written, ?quiet, ?sent, ?pending, ?function, ?enable, ?mask, ?noBar, ?noHoldoff, ?noEvent, ?totalEvent,
    ?failingEvent, ?idleEvent, ?totalHoldoff, ?totalMask⟩
  case dropped =>
    exact fun q b e l ha hp hc hn => act_heeded ha ((berylEventRecord_front hc).trans
      (postEventAt_full (b := b.modCh (fun c => { c with berylOpal := l })) hp hn))
  case held =>
    intro q b e l ha hp hc hn hh
    have posts := (berylEventRecord_front hc).trans (postEventAt_flushes (b := b.modCh (fun c => { c with berylOpal := l })) hp hn)
    refine act_heeded ha (posts.trans ?_)
    exact flushEvents_hostDown (b := eventHeld _ (b.modCh (fun c => { c with berylOpal := l }))) hh _
  case written =>
    intro q b e l ha hp hc hn hh hs hr hd
    let taken := b.modCh (fun c => { c with berylOpal := l })
    have posts := (berylEventRecord_front hc).trans (postEventAt_flushes (b := taken) hp (by rw [show taken.opal.events = [] from hn]; decide))
    rw [show taken.opal.events = [] from hn] at posts
    let event := numbered e.stamp e.code e.frame e.data taken
    obtain ⟨v, goes⟩ := flushEvents_one (b := eventHeld event taken) (e := event)
      (by show taken.opal.events ++ [event] = [event]; rw [show taken.opal.events = [] from hn]; rfl) hh hs hr hd
    have eq := posts.trans goes
    have view := (requestMsg_recordView v ((writeRecord 256 (eventRecord event b.opal.evLost) (eventHeld event taken)).modOpal
      (fun o => { o with events := [], evLost := 0 }))).trans (congrArg (fun x : Topaz × Ring × List Desc × List Event × List (Nat × List Byte) => (x.1, x.2.1, x.2.2.1, [], x.2.2.2.2))
        (writeRecord_recordView (eventRecord event b.opal.evLost) (eventHeld event taken)))
    simp only [Block.recordView, Prod.mk.injEq] at view
    obtain ⟨-, ctrl, -, events, host⟩ := view
    obtain ⟨lost, seq, ch⟩ := requestMsg_counts v ((writeRecord 256 (eventRecord event b.opal.evLost) (eventHeld event taken)).modOpal
      (fun o => { o with events := [], evLost := 0 }))
    obtain ⟨seq', ch'⟩ := writeRecord_evSeq_ch (eventRecord event b.opal.evLost) (eventHeld event taken)
    exact .of_next (act_heeded ha eq) ⟨congrArg Channels.berylOpal (ch.trans ch'), seq.trans seq', events, lost,
      congrArg Ring.cqTail ctrl, host, eq ▸ berylEventRecord_frame (by decide) (onlyChanges_refl _ b)⟩
  case quiet =>
    intro q b v ha hv hx
    refine act_gated ha ((msixHoldoffExpiry_ends hv hx).trans ?_)
    exact releaseMsg_none (congrArg Vec.pending (setVec_vec hv ..))
  case sent =>
    intro q b v ha hv hx hm
    have eq := (msixHoldoffExpiry_ends hv hx).trans (requestMsg_sends (b := b.setVec v ⟨false, false, false⟩) (setVec_vec hv ..) hm)
    exact .of_next (act_gated ha eq) ⟨rfl, vget_vset_self hv .., eq ▸ msixHoldoffExpiry_frame (by decide) (onlyChanges_refl _ b)⟩
  case pending =>
    intro q b v ha hv hx hm
    have eq := (msixHoldoffExpiry_ends hv hx).trans (requestMsg_masked (b := b.setVec v ⟨false, false, false⟩) (setVec_vec hv ..) hm)
    exact .of_next (act_gated ha eq) ⟨rfl, setVec_vec hv .., eq ▸ msixHoldoffExpiry_frame (by decide) (onlyChanges_refl _ b)⟩
  case function => exact fun q b on h hp => act_of_eq (msixMaskWrite_function h hp on)
  case enable => exact fun q b on h hp => act_of_eq (msixMaskWrite_enable h hp on)
  case mask => exact fun q b v on h hv hp => act_of_eq (msixMaskWrite_mask h hp hv on)
  case noBar => exact fun q b w h => act_of_eq (msixMaskWrite_noBar h w)
  case noHoldoff => exact fun q b v ha h => act_gated ha (msixHoldoffExpiry_none h)
  case noEvent => exact fun q b ha h => act_heeded ha (berylEventRecord_none h)
  case totalEvent => exact fun q b ha => ⟨act_heeded ha rfl, berylEventRecord_frame (by decide) (onlyChanges_refl _ b)⟩
  case failingEvent => exact fun q b hf => act_heeded_failing hf rfl
  case idleEvent => exact fun q b ha hf => act_heeded_idle ha hf
  case totalHoldoff => exact fun q b v ha => ⟨act_gated ha rfl, msixHoldoffExpiry_frame (by decide) (onlyChanges_refl _ b)⟩
  case totalMask => exact fun q b w => ⟨rfl, msixMaskWrite_frame (by decide) (onlyChanges_refl _ b)⟩

end
end

section
/-! O41: the host link, its resets, and the end of a flush in Opal (12 R312, R332; 14 R394; 17 R449). -/

-- The proofs are elaborated one after another: each waiting in a thread of its own takes more memory than the check allows.
set_option Elab.async false

namespace Sys2Proof.Machine

/-! ### What Opal does leaves the link as it is -/

/-- The state of the host link. -/
def Block.linkSide (b : Block) : Bool × Nat × Nat := (b.opal.link, b.opal.linkGen, b.opal.linkWidth)

theorem linkSide_of_kept {ps : List Piece} {a b : Block} (h : onlyChanges ps a b) (hp : .opal ∉ ps) : b.linkSide = a.linkSide := by
  have link := (congrArg Opal.link (kept_opal h hp) :)
  have gen := (congrArg Opal.linkGen (kept_opal h hp) :)
  have width := (congrArg Opal.linkWidth (kept_opal h hp) :)
  exact Prod.ext link (Prod.ext gen width)

theorem takeNotes_linkSide (b : Block) : (takeNotes b).linkSide = b.linkSide := by
  unfold takeNotes
  split
  · rfl
  · exact foldl_keeps (f := fun b (e : Nat × LedgerNote) => winMod e.1 (takeNote e.2) b) (g := Block.linkSide) (fun _ _ => rfl) _ _

theorem postEvent_linkSide (c f : Nat) (d : List Byte) (b : Block) : (postEvent c f d b).linkSide = b.linkSide :=
  linkSide_of_kept (postEvent_kept c f d b) (by decide)

theorem postTakeEnds_linkSide (k : Nat) (b : Block) : (postTakeEnds k b).linkSide = b.linkSide := by
  induction k generalizing b with
  | zero => rfl
  | succ k ih =>
    unfold postTakeEnds
    split
    · rfl
    · split
      · exact (ih _).trans ((postEvent_linkSide ..).trans rfl)
      · rfl

theorem takeClosed_linkSide (b : Block) : (takeClosed b).linkSide = b.linkSide := by
  unfold takeClosed
  split
  · rfl
  · exact (postTakeEnds_linkSide ..).trans rfl

theorem tellSpinel_linkSide (n : SpinelNote) (b : Block) : (tellSpinel n b).linkSide = b.linkSide :=
  linkSide_of_kept (tellSpinel_kept n b) (by decide)

theorem assignBuffers_linkSide (k c : Nat) (b : Block) : (assignBuffers k c b).linkSide = b.linkSide := by
  induction k generalizing b with
  | zero => rfl
  | succ k ih =>
    have logged (f v : Nat) : (logAssign c f v b).linkSide = b.linkSide := linkSide_of_kept (logAssign_kept c f v b) (by decide)
    unfold assignBuffers
    split
    · rfl
    · split
      · split
        · rfl
        · extract_lets b1
          split
          · refine (ih _).trans ((linkSide_of_kept (finish_kept ..) (by decide)).trans ?_)
            exact (tellSpinel_linkSide ..).trans (logged ..)
          · exact (ih _).trans ((tellSpinel_linkSide ..).trans (logged ..))
      · rfl

theorem serveAllHosts_linkSide (b : Block) : (serveAllHosts b).linkSide = b.linkSide := by
  have moved (f i : Nat) (x : Block) : (moveSegment f i x).linkSide = x.linkSide :=
    linkSide_of_kept (moveSegment_frame (List.Subset.refl _) (onlyChanges_refl _ x)) (by decide)
  refine (foldl_keeps (f := fun b (g : SpinelSeg) => moveSegment g.frame g.dest.index b) (g := Block.linkSide) (fun _ _ => moved ..) _
    _).trans ?_
  exact foldl_keeps (f := fun b c => serveHost c b) (g := Block.linkSide) (fun _ _ => assignBuffers_linkSide ..) _ _

/-- A record written changes neither the link nor the channels of outcomes. -/
theorem writeLedger_sides (w : LedgerFrame) (b : Block) :
    (writeLedger w b).linkSide = b.linkSide ∧ (writeLedger w b).noteSide = b.noteSide := by
  unfold writeLedger
  extract_lets lost body r b1 b2 b3 b4 b5 b6 b7 every
  have stamps : b1.linkSide = b.linkSide ∧ b1.noteSide = b.noteSide := by
    unfold b1
    split <;> exact ⟨rfl, rfl⟩
  have logs : onlyChanges [.evr, .trace] b1 b3 :=
    mergeDigest_frame (by decide) (Block.logEvr_frame (by decide) (onlyChanges_refl _ b1))
  have logsLink : b3.linkSide = b1.linkSide := linkSide_of_kept logs (by decide)
  have logsNote : b3.noteSide = b1.noteSide := noteSide_of_kept logs (by decide)
  clear_value b3
  have heads : b6.linkSide = b5.linkSide ∧ b6.noteSide = b5.noteSide := by
    unfold b6
    split <;> exact ⟨rfl, rfl⟩
  have link : b7.linkSide = b.linkSide := (heads.1.trans logsLink).trans stamps.1
  have note : b7.noteSide = b.noteSide := (heads.2.trans logsNote).trans stamps.2
  split
  · have signals := requestMsg_kept (ledgerVector b7) b7
    exact ⟨(linkSide_of_kept signals (by decide)).trans link, (noteSide_of_kept signals (by decide)).trans note⟩
  · exact ⟨link, note⟩

theorem publishLoop_sides (k : Nat) (b : Block) :
    (publishLoop k b).linkSide = b.linkSide ∧ (publishLoop k b).noteSide = b.noteSide := by
  induction k generalizing b with
  | zero => exact ⟨rfl, rfl⟩
  | succ k ih =>
    unfold publishLoop
    extract_lets n step
    split
    · split
      · exact ih _
      · exact ⟨rfl, rfl⟩
    · next w _ =>
      split
      · exact ih _
      · split
        · obtain ⟨link, note⟩ := writeLedger_sides w b
          obtain ⟨link', note'⟩ := ih (step (writeLedger w b))
          exact ⟨link'.trans link, note'.trans note⟩
        · exact ⟨rfl, rfl⟩

theorem postTakeEnds_noteSide (k : Nat) (b : Block) : (postTakeEnds k b).noteSide = b.noteSide :=
  noteSide_of_kept (postTakeEnds_frame (List.Subset.refl _) (onlyChanges_refl _ b)) (by decide)

theorem serveLedger_sides (b : Block) : (serveLedger b).linkSide = b.linkSide ∧ (serveLedger b).noteSide = b.noteSide := by
  obtain ⟨link, note⟩ := publishLoop_sides (2 * b.opal.window.length + 4100) b
  exact ⟨(postTakeEnds_linkSide ..).trans link, (postTakeEnds_noteSide ..).trans note⟩

theorem resumeOpal_linkSide (b : Block) : (resumeOpal b).linkSide = b.linkSide := by
  refine (serveLedger_sides _).1.trans ((serveAllHosts_linkSide _).trans ?_)
  refine (foldl_keeps (f := fun b r => serveRing r b) (g := Block.linkSide)
    (fun x r => linkSide_of_kept (serveRing_kept r x) (by decide)) _ _).trans ?_
  exact (takeClosed_linkSide _).trans (takeNotes_linkSide b)

/-! ### The link -/

section
variable {b : Block}

theorem hostLinkDown_up (h : b.opal.link = true) : hostLinkDown b =
    hostLinkFault (logPcie 0 1 0 (b.modOpal (fun o => { o with link := false, linkGen := 0, linkWidth := 0 }))) :=
  if_neg (by rw [h]; exact Bool.false_ne_true)

theorem hostLinkDown_down (h : b.opal.link = false) : hostLinkDown b = b := if_pos (by rw [h]; rfl)

theorem hostLinkUp_none (h : b.opal.link = true ∨ b.opal.perst = true) (rate width : Nat) : hostLinkUp rate width b = b :=
  if_pos (Bool.or_eq_true_iff.mpr h)

theorem hostLinkUp_trains (h : b.opal.link = false) (hp : b.opal.perst = false) (rate width : Nat) :
    (hostLinkUp rate width b).linkSide = (true, min rate (4 + b.beryl.otc.grade), min width 8) := by
  unfold hostLinkUp
  rw [if_neg (by rw [h, hp]; exact Bool.false_ne_true)]
  exact (resumeOpal_linkSide _).trans (linkSide_of_kept (Block.logEvr_kept _ _ _ _ [] none) (by decide))

theorem hostLinkError_up (h : b.opal.link = true) : hostLinkError b = hostLinkFault (logPcie 0 2 0 b) := if_pos h

theorem hostLinkError_down (h : b.opal.link = false) : hostLinkError b = b := if_neg (by rw [h]; exact Bool.false_ne_true)

/-- What changes nothing with its Island's power on changes nothing. -/
theorem act_powered_same {i : Island} {f : Block → Block} {q : List Instr} (h : f b = b) : act (powered i f) ⟨q, b⟩ = .next ⟨q, b⟩ := by
  refine act_of_eq ?_
  unfold powered
  rw [h, ite_self]

end

/-! ### The end of a flush in Opal -/

section
variable {b : Block}

theorem flushReadComplete_reads (h : b.opal.flush = .reading) : flushReadComplete b = opalReports b := if_pos h

theorem flushReadComplete_none (h : b.opal.flush ≠ .reading) : flushReadComplete b = b := if_neg h

theorem opalFlushTimeout_reports (hr : b.topaz.pwr.onyxReport.isSome = true) (h : b.opal.flush = .reading ∨ b.opal.flush = .running) :
    opalFlushTimeout b = opalReports b :=
  if_pos (by rw [hr]; simpa using h)

theorem opalFlushTimeout_none (h : b.opal.flush ≠ .reading) (k : b.opal.flush ≠ .running) : opalFlushTimeout b = b :=
  if_neg (by simp [h, k])

theorem onyxFlushReport_none (h : b.ch.onyxReport = []) : onyxFlushReport b = b := by
  unfold onyxFlushReport
  rw [h]

/-- Topaz has the report of Onyx. -/
def onyxReported (x : Bool) (l : List Bool) (b : Block) : Block :=
  modPwr (fun p => { p with onyxReport := some x }) (b.modCh (fun c => { c with onyxReport := l }))

/-- Opal's last records and events go out. -/
def opalEnds (x : Bool) (b : Block) : Block := lastEvent x (forceTakeEnds (serveLedger (dropUnbuffered b)))

variable {x : Bool} {l : List Bool} (hc : b.ch.onyxReport = x :: l) (ht : b.ch.topazOpal = [])
include hc ht

theorem onyxFlushReport_unflushed (hf : b.opal.flush ≠ .running) : onyxFlushReport b = onyxReported x l b := by
  have heard : takeTopazOpal (onyxReported x l b) = onyxReported x l b := takeTopazOpal_none ht
  unfold onyxFlushReport
  rw [hc]
  dsimp only
  rw [show modPwr (fun p => { p with onyxReport := some x }) _ = onyxReported x l b from rfl, heard]
  exact if_pos (by rw [show (onyxReported x l b).opal.flush = b.opal.flush from rfl]; simp [hf])

theorem onyxFlushReport_reads (hf : b.opal.flush = .running) (hh : b.hostUp = true) :
    onyxFlushReport b = ((opalEnds x (onyxReported x l b)).modOut (fun o => { o with
      reads := ((opalEnds x (onyxReported x l b)).reg 0x5030 + 2 ^ 32 * (opalEnds x (onyxReported x l b)).reg 0x5034, 4) ::
        o.reads })).modOpal (fun o => { o with flush := .reading }) := by
  have heard : takeTopazOpal (onyxReported x l b) = onyxReported x l b := takeTopazOpal_none ht
  unfold onyxFlushReport
  rw [hc]
  dsimp only
  rw [show modPwr (fun p => { p with onyxReport := some x }) _ = onyxReported x l b from rfl, heard]
  refine if_neg ?_
  rw [show (onyxReported x l b).opal.flush = b.opal.flush from rfl, show (onyxReported x l b).hostUp = b.hostUp from rfl, hf, hh]
  exact Bool.false_ne_true

end

theorem lastEvent_kept (x : Bool) (b : Block) : onlyChanges [.posts, .out] b (lastEvent x b) :=
  lastEvent_frame (List.Subset.refl _) (onlyChanges_refl _ b)

theorem dropUnbuffered_noteSide (b : Block) : (dropUnbuffered b).noteSide = b.noteSide := by
  refine foldl_keeps (g := Block.noteSide) (fun y e => ?_) _ b
  have logged : (logAssign e.2.ctx e.1 0xFFFFFFFF y).noteSide = y.noteSide := noteSide_of_kept (logAssign_kept ..) (by decide)
  exact (tellSpinel_noteSide ..).trans logged

theorem opalEnds_noteSide (x : Bool) (b : Block) : (opalEnds x b).noteSide = b.noteSide := by
  have forced (y : Block) : (forceTakeEnds y).noteSide = y.noteSide := (postTakeEnds_noteSide ..).trans rfl
  refine (noteSide_of_kept (lastEvent_kept ..) (by decide)).trans ((forced _).trans ?_)
  exact (serveLedger_sides _).2.trans (dropUnbuffered_noteSide b)

theorem opalEnds_kept (x : Bool) (b : Block) :
    onlyChanges [.spinel, .opal, .posts, .evr, .ch, .trace, .out, .fresh] b (opalEnds x b) :=
  lastEvent_frame (by decide) (forceTakeEnds_frame (by decide) (serveLedger_frame (by decide)
    (dropUnbuffered_frame (by decide) (onlyChanges_refl _ b))))

end Sys2Proof.Machine

section
open Sys2Proof Sys2Proof.Machine

/-- Settles O41: the link as it goes down, comes up or fails, the resets of the link, and Opal's part of a flush. -/
theorem hostLinkComesAndGoes : Obligations.HostLinkComesAndGoes := by
  refine ⟨?down, ?notUp, ?up, ?notDown, ?error, ?noError, ?perst, ?reset, ?unflushed, ?flushed, ?read, ?timeout, ?noReport, ?noRead,
    ?noFlush, ?totalDown, ?idleDown, ?totalUp, ?idleUp, ?totalError, ?idleError, ?totalPerst, ?totalReset, ?totalReport, ?totalRead,
    ?totalTimeout⟩
  case down => exact fun q b hp h => act_powered hp (hostLinkDown_up h)
  case notUp => exact fun q b h => act_powered_same (hostLinkDown_down h)
  case up =>
    intro q b rate width hp h hpe
    have side := hostLinkUp_trains h hpe rate width
    exact .of_next (act_powered hp rfl) ⟨congrArg (·.1) side, congrArg (·.2.1) side, congrArg (·.2.2) side,
      hostLinkUp_frame (by decide) (onlyChanges_refl _ b)⟩
  case notDown => exact fun q b rate width h => act_powered_same (hostLinkUp_none h rate width)
  case error => exact fun q b hp h => act_powered hp (hostLinkError_up h)
  case noError => exact fun q b h => act_powered_same (hostLinkError_down h)
  case perst => exact fun q b => rfl
  case reset =>
    intro q b
    refine .of_next (c := fundamentalReset b) rfl ⟨rfl, rfl, rfl, rfl, rfl, rfl, ?_, fun v => ?_, rfl, rfl, rfl,
      fundamentalReset_frame (by decide) (onlyChanges_refl _ b)⟩
    · show (if (b.opal.ctrl.state = .running || b.opal.ctrl.state = .stopped) = true then _ else _) = _
      simp only [Bool.or_eq_true, decide_eq_true_eq]
      rfl
    · exact vget_or_default _ v _ (· = _) (fun x hx => by simpa [fundamentalReset, Block.modOpal] using hx) rfl
  case unflushed => exact fun q b x l hc hf ht => act_of_eq (onyxFlushReport_unflushed hc ht hf)
  case flushed =>
    intro q b x l hc hf hh ht
    have eq := onyxFlushReport_reads hc ht hf hh
    have kept := opalEnds_kept x (onyxReported x l b)
    have topaz : (opalEnds x (onyxReported x l b)).topaz = (onyxReported x l b).topaz := kept.at_ .topaz (by decide)
    have regs : (opalEnds x (onyxReported x l b)).regs = b.regs := kept.at_ .regs (by decide)
    refine .of_next (act_of_eq eq) ⟨congrArg (·.2.2) (opalEnds_noteSide x (onyxReported x l b)), rfl,
      congrArg (fun t => t.pwr.onyxReport) topaz, ?_, eq ▸ onyxFlushReport_frame (by decide) (onlyChanges_refl _ b)⟩
    refine congrArg some ?_
    simp only [Block.reg, regs]
  case read => exact fun q b h => act_of_eq (flushReadComplete_reads h)
  case timeout => exact fun q b hr h => act_of_eq (opalFlushTimeout_reports hr h)
  case noReport => exact fun q b h => act_of_eq (onyxFlushReport_none h)
  case noRead => exact fun q b h => act_of_eq (flushReadComplete_none h)
  case noFlush => exact fun q b h k => act_of_eq (opalFlushTimeout_none h k)
  case totalDown => exact fun q b hp => ⟨act_powered hp rfl, hostLinkDown_frame (by decide) (onlyChanges_refl _ b)⟩
  case idleDown => exact fun q b hp => act_powered_idle hp
  case totalUp => exact fun q b r w hp => ⟨act_powered hp rfl, hostLinkUp_frame (by decide) (onlyChanges_refl _ b)⟩
  case idleUp => exact fun q b r w hp => act_powered_idle hp
  case totalError => exact fun q b hp => ⟨act_powered hp rfl, hostLinkError_frame (by decide) (onlyChanges_refl _ b)⟩
  case idleError => exact fun q b hp => act_powered_idle hp
  case totalPerst => exact fun q b => ⟨rfl, hostPerst_frame (by decide) (onlyChanges_refl _ b)⟩
  case totalReset => exact fun q b => ⟨rfl, fundamentalReset_frame (by decide) (onlyChanges_refl _ b)⟩
  case totalReport => exact fun q b => ⟨rfl, onyxFlushReport_frame (by decide) (onlyChanges_refl _ b)⟩
  case totalRead => exact fun q b => ⟨rfl, flushReadComplete_frame (by decide) (onlyChanges_refl _ b)⟩
  case totalTimeout => exact fun q b => ⟨rfl, opalFlushTimeout_frame (by decide) (onlyChanges_refl _ b)⟩

end
end

section
/-! O43: the latch notice at Onyx (09 R245; 10 R272, R275, R277). -/

-- The proofs are elaborated one after another: each waiting in a thread of its own takes more memory than the check allows.
set_option Elab.async false

namespace Sys2Proof.Machine

/-! ### Onyx with nothing to do but hold Frames in the Ante -/

/-- No Segment is of a Take, no port has work, and no shutdown of a member is to come. -/
structure Block.OnyxIdle (b : Block) : Prop where
  ante : ∀ g ∈ b.onyx.segs, g.takeNo = none
  takes : b.onyx.takes = []
  ports : b.portsIdle = true
  rolls : b.onyx.rolls = []
  decided : b.ch.opalOnyx = []
  calm : b.onyx.flush = none ∨ b.onyx.set = none

theorem Block.onyxIdle_of_rest {b : Block} (h : b.onyxAtRest = true) : b.OnyxIdle := by
  simp only [Block.onyxAtRest, Bool.and_eq_true, List.isEmpty_iff, Option.isNone_iff_eq_none] at h
  obtain ⟨⟨⟨⟨⟨segs, takes⟩, flush⟩, ports⟩, rolls⟩, decided⟩ := h
  exact ⟨fun g hg => absurd hg (by rw [segs]; exact List.not_mem_nil), takes, ports, rolls, decided, .inl flush⟩

theorem postRolled_none {b : Block} (h : b.onyx.rolls = []) : postRolled b = b := by simp [postRolled, h]

theorem closeTakes_none {b : Block} (h : b.onyx.takes = []) : closeTakes b = b := by simp [closeTakes, h]

/-- Port `m` has no share to write, and at most serial work to do. -/
structure Block.PortQuiet (b : Block) (m : Nat) : Prop where
  queue : queueOf b m = []
  slow : (b.port m).slow = false
  rehomed : (b.port m).rehomed = 0

namespace Block.PortQuiet

variable {b : Block} {m : Nat} (h : b.PortQuiet m)
include h

theorem issueShares (k : Nat) : issueShares m k b = b := by
  cases k with
  | zero => rfl
  | succ k =>
    unfold Machine.issueShares
    simp [h.queue, nextWrite]

theorem checkSlow : checkSlow m b = b := by
  simp only [Machine.checkSlow, backlog, h.queue, List.map_nil, List.sum_nil, Nat.not_lt_zero, decide_false, Bool.false_and,
    Bool.false_eq_true, if_false]
  exact portMod_same m _ b (by rw [← h.slow])

theorem postRehomed : postRehomed m b = b := by simp [Machine.postRehomed, h.rehomed]

end Block.PortQuiet

/-- Outside a flush, or with no set in force, no shutdown of a member is to come. -/
theorem noShutdown_of_calm {b : Block} (calm : b.onyx.flush = none ∨ b.onyx.set = none) (m : Nat) :
    (b.onyx.flush.isSome && isMember b m) = false := by
  obtain flush | set := calm
  · rw [flush]
    rfl
  · simp [isMember, set]

/-- With no steps, no clip and no shutdown to come a port has no serial work. -/
theorem pumped_idle {b : Block} {m : Nat} (hq : queueOf b m = []) (hs : (b.port m).steps = []) (hc : (b.port m).clips = [])
    (noShutdown : (b.onyx.flush.isSome && isMember b m) = false) : pumped m b = b := by
  have nothing : nextWork m b = b := by
    unfold nextWork
    simp [commitRun, hq, hc, noShutdown]
  unfold pumped
  rw [hs]
  show pumpPort m (23 + 1) b = b
  unfold pumpPort
  simp only [hs, hc, nothing]
  split <;> simp

/-- A port that its serial work leaves quiet has nothing else to do. -/
theorem servePort_quiet {b : Block} {m : Nat} (h : (pumped m b).PortQuiet m) : servePort b m = pumped m b := by
  rw [servePort, h.issueShares, h.checkSlow, h.postRehomed]

namespace Block.OnyxIdle

variable {b : Block} (h : b.OnyxIdle)
include h

theorem queueOf (m : Nat) : queueOf b m = [] := by
  refine List.flatMap_eq_nil_iff.mpr (fun g hg => if_neg ?_)
  rw [h.ante g hg]
  simp

theorem quiet (m : Nat) : b.PortQuiet m := by
  obtain ⟨-, -, slow, rehomed⟩ := port_idle h.ports m
  exact ⟨h.queueOf m, slow, rehomed⟩

theorem settleSegs : settleSegs b = b := by
  have skips (l : List OnyxSeg) (hl : ∀ g ∈ l, g.takeNo = none) : settleOnce l [] b = b := by
    induction l with
    | nil => rfl
    | cons g l ih =>
      rw [settleOnce, hl g List.mem_cons_self]
      exact ih (fun x hx => hl x (List.mem_cons_of_mem _ hx))
  exact skips _ h.ante

theorem pumped (m : Nat) : pumped m b = b := by
  obtain ⟨steps, clips, -, -⟩ := port_idle h.ports m
  exact pumped_idle (h.queueOf m) steps clips (noShutdown_of_calm h.calm m)

theorem servePort (m : Nat) : servePort b m = b := by
  have quiet := h.quiet m
  rw [← h.pumped m] at quiet
  exact (servePort_quiet quiet).trans (h.pumped m)

/-- Nothing is left to do but to report a flush. -/
theorem serveOnyx : serveOnyx b = if !b.alive .onyx then b else tryReport false b := by
  have taken : takeDecided b = b := by simp [takeDecided, h.decided]
  have served (l : List Nat) : l.foldl Machine.servePort b = b := by
    induction l with
    | nil => rfl
    | cons m l ih => rw [List.foldl_cons, h.servePort, ih]
  rw [serveOnyx_eq, taken, h.settleSegs, served, postRolled_none h.rolls, closeTakes_none h.takes]

end Block.OnyxIdle

theorem tryReport_unflushed {b : Block} (h : b.onyx.flush = none) (x : Bool) : tryReport x b = b := by
  unfold tryReport
  rw [h]

/-- Outside a flush nothing is left to do at all. -/
theorem Block.OnyxIdle.serveOnyx_same {b : Block} (h : b.OnyxIdle) (hf : b.onyx.flush = none) : Machine.serveOnyx b = b := by
  rw [h.serveOnyx, tryReport_unflushed hf, ite_self]

/-! ### The latch point at rest -/

section
variable {b : Block}

theorem openTake_none (h : b.onyx.takes = []) : openTake b = none := by
  unfold openTake
  rw [h]
  rfl

theorem heldFrames_none (h : b.onyx.segs = []) : heldFrames b = [] := by
  unfold heldFrames
  rw [h]
  rfl

theorem trimAnte_none (ht : b.onyx.takes = []) (hs : b.onyx.segs = []) : trimAnte b = b := by
  unfold trimAnte
  rw [openTake_none ht, heldFrames_none hs]
  simp

theorem applySet_none (h : b.onyx.staged = []) (f : Nat) : applySet f b = b := by
  have same : b.modOnyx (fun o => { o with
      staged := (o.staged.filter (fun s => s.skip != 0)).map (fun s => { s with skip := s.skip - 1 }) }) = b := by
    simp only [Block.modOnyx, h, List.filter_nil, List.map_nil]
    rw [← h]
  unfold applySet
  rw [same, h]
  rfl

section
variable {n : LatchNotice} (hn : n.takeStart = none) (hp : n.takeStop = none)
include hn hp

theorem bindInOnyx_frameless (hs : n.snap = none) (ds : List Dest) : bindInOnyx n ds b = trimAnte (applySet n.frame b) := by
  unfold bindInOnyx
  rw [hn, hp, hs]

theorem bindInOnyx_frame_rest {s : Snapshot} (hs : n.snap = some s) (hst : b.onyx.staged = []) (ht : b.onyx.takes = [])
    (hg : b.onyx.segs = []) (ds : List Dest) : bindInOnyx n ds b = bindMagazine s ds b := by
  unfold bindInOnyx
  simp only [hn, hp, hs, applySet_none hst, trimAnte_none ht hg, openTake_none ht, Option.any_none, Bool.and_false,
    Bool.false_eq_true, if_false]

end

/-- The Destination of a Frame outside a Take. -/
theorem bindMagazine_one {s : Snapshot} {d : Dest} (ht : b.onyx.takes = []) (hf : b.onyx.failed = []) :
    bindMagazine s [d] b = if armed b && b.onyx.flush.isNone then holdFrame s [d] b else holdNone s [d] b := by
  unfold bindMagazine
  simp only [openTake_none ht, ite_self, hf, List.isEmpty_cons, Bool.false_eq_true, if_false, List.contains_nil]

theorem holdFrame_one {s : Snapshot} {d : Dest} {x : MagSet} {a : Nat} (hg : b.onyx.segs = []) (hx : b.onyx.set = some x)
    (ha : reserve b d.segLen = some a) : holdFrame s [d] b =
      (tellOpal s.frame (.ante d.index true) (tellJade s.frame d.index (some a) b)).modOnyx (fun o => { o with
        segs := o.segs ++ [freshSegment s d a x none] }) := by
  unfold holdFrame
  rw [hx]
  dsimp only
  rw [makeRoom, heldFrames_none hg]
  simp only [List.isEmpty_nil, Bool.true_or, if_true, tryHold, ha]

/-! ### The notice -/

theorem latchNoticeOnyx_first {n : LatchNotice} {l : List LatchNotice} (h : b.ch.noticeOnyx = n :: l) :
    latchNoticeOnyx 0 b = serveNoticeOnyx b := by
  unfold latchNoticeOnyx
  rw [if_neg (by rw [h]; exact Nat.not_succ_le_zero _)]
  rfl

section
variable {n : LatchNotice} {l : List LatchNotice} (h : b.ch.noticeOnyx = n :: l)
include h

/-- The notice is taken. -/
theorem serveNoticeOnyx_frameless (hs : n.snap = none) :
    serveNoticeOnyx b = serveOnyx (bindInOnyx n [] (b.modCh (fun c => { c with noticeOnyx := l }))) := by
  unfold serveNoticeOnyx
  rw [h]
  dsimp only
  rw [hs]

variable {s : Snapshot} (hs : n.snap = some s)
include hs

/-- Opal has sent no set. -/
theorem serveNoticeOnyx_waits (hd : b.ch.onyxDests = []) : serveNoticeOnyx b = b := by
  unfold serveNoticeOnyx
  rw [h]
  dsimp only
  rw [hs]
  dsimp only
  rw [hd]
  rfl

/-- The one set that has come is the Frame's. -/
theorem serveNoticeOnyx_binds {d : Dest} (hd : b.ch.onyxDests = [(s.frame, [d])]) (hm : d.magazine = true) :
    serveNoticeOnyx b = serveOnyx (bindInOnyx n [d] (b.modCh (fun c => { c with noticeOnyx := l, onyxDests := [] }))) := by
  have found : b.ch.onyxDests.find? (fun e => e.1 == s.frame) = some (s.frame, [d]) := by simp [hd]
  have missed : missedInOnyx s.frame (b.modCh (fun c => { c with noticeOnyx := l })) =
      b.modCh (fun c => { c with noticeOnyx := l }) := by
    simp [missedInOnyx, Block.modCh, hd]
  unfold serveNoticeOnyx
  rw [h]
  dsimp only
  rw [hs]
  dsimp only
  rw [found]
  dsimp only
  rw [missed]
  simp [Block.modCh, hd, hm]

end

end

/-! ### A set comes in force -/

theorem portsIdle_iff {b : Block} : b.portsIdle = true ↔
    ∀ m, (b.port m).steps = [] ∧ (b.port m).clips = [] ∧ (b.port m).slow = false ∧ (b.port m).rehomed = 0 := by
  refine ⟨port_idle, fun h => ?_⟩
  refine List.all_eq_true.mpr (fun p hp => ?_)
  obtain ⟨m, hm, rfl⟩ := List.mem_iff_getElem.mp hp
  have at_ : b.port m = b.onyx.ports.toList[m] := by
    have hm' : m < 4 := by simpa using hm
    simp [Block.port, vget, Vector.getD, hm']
  obtain ⟨steps, clips, slow, rehomed⟩ := at_ ▸ h m
  rw [steps, clips, slow, rehomed]
  rfl

theorem port_portMod (m k : Nat) (f : Port → Port) (b : Block) :
    (portMod m f b).port k = if m = k ∧ k < 4 then f (b.port m) else b.port k := vget_vset ..

theorem foldl_portMod_onyx (f : Nat → Port → Port) (l : List Nat) (c : Vector Port 4) (b : Block) :
    { (l.foldl (fun b m => portMod m (f m) b) b).onyx with ports := c } = { b.onyx with ports := c } ∧
      (l.foldl (fun b m => portMod m (f m) b) b).ch = b.ch := by
  induction l generalizing b with
  | nil => exact ⟨rfl, rfl⟩
  | cons m l ih =>
    obtain ⟨onyx, ch⟩ := ih (portMod m (f m) b)
    exact ⟨onyx.trans rfl, ch.trans rfl⟩

/-- A port's work is the same before and after. -/
def SameWork (f : Port → Port) : Prop :=
  ∀ p, (f p).steps = p.steps ∧ (f p).clips = p.clips ∧ (f p).slow = p.slow ∧ (f p).rehomed = p.rehomed

theorem portMod_portsIdle {m : Nat} {f : Port → Port} (hf : SameWork f) {b : Block} (h : b.portsIdle = true) :
    (portMod m f b).portsIdle = true := by
  refine portsIdle_iff.mpr (fun k => ?_)
  have still := portsIdle_iff.mp h
  rw [port_portMod]
  split
  · obtain ⟨steps, clips, slow, rehomed⟩ := hf (b.port m)
    rw [steps, clips, slow, rehomed]
    exact still m
  · exact still k

theorem foldl_portMod_portsIdle {f : Nat → Port → Port} (hf : ∀ m, SameWork (f m)) (l : List Nat) {b : Block}
    (h : b.portsIdle = true) : (l.foldl (fun b m => portMod m (f m) b) b).portsIdle = true := by
  induction l generalizing b with
  | nil => exact h
  | cons m l ih => exact ih (portMod_portsIdle (hf m) h)

/-- The states of the ports follow the set, and nothing else of Onyx changes. -/
theorem setStates_onyx (b : Block) : { (setStates b).onyx with ports := b.onyx.ports } = b.onyx ∧ (setStates b).ch = b.ch :=
  foldl_portMod_onyx _ _ _ b

theorem setStates_portsIdle {b : Block} (h : b.portsIdle = true) : (setStates b).portsIdle = true := by
  refine foldl_portMod_portsIdle (fun m p => ?_) _ h
  split <;> exact ⟨rfl, rfl, rfl, rfl⟩

section
variable {b : Block} {x : StagedSet} (hst : b.onyx.staged = [x]) (hk : x.skip = 0) (hr : setRefusal b x.set false = none)
  (hset : b.onyx.set = none) (ht : b.onyx.takes = []) (hg : b.onyx.segs = []) (hh : b.opal.held = none) (hs : b.garnet.start = none)
include hst hk hr hset ht hg hh hs

/-- The staged set is in force. -/
def setInForce (x : StagedSet) (b : Block) : Block := setStates (b.modOnyx (fun o => { o with staged := [], set := some x.set }))

theorem applySet_one (f : Nat) : applySet f b = finishCtrl x.desc stOk f 0 0 (setInForce x b) := by
  let y := b.modOnyx (fun o => { o with staged := [] })
  have emptied : b.modOnyx (fun o => { o with
      staged := (o.staged.filter (fun s => s.skip != 0)).map (fun s => { s with skip := s.skip - 1 }) }) = y := by
    simp [y, Block.modOnyx, hst, hk]
  have notBusy : ((openTake y).isSome || y.opal.held.isSome || y.garnet.start.isSome) = false := by
    rw [openTake_none (b := y) ht, show y.opal.held = none from hh, show y.garnet.start = none from hs]
    rfl
  have accepted : setRefusal y x.set false = none := hr
  have discarded : discardAnte y = y := by
    unfold discardAnte
    rw [heldFrames_none (b := y) hg]
    rfl
  have due : b.onyx.staged.filter (fun s => s.skip == 0) = [x] := by simp [hst, hk]
  unfold applySet
  rw [emptied, due]
  dsimp only [List.getLast?_singleton, List.dropLast, List.foldl_nil]
  rw [notBusy, accepted]
  dsimp only
  simp only [show y.onyx.set = none from hset, openTake_none (b := y) ht, Option.any_none, Bool.false_eq_true, if_false,
    Option.isNone_none, if_true, discarded]
  rfl

end

/-- Onyx and what it tells Jade and Opal. -/
def Block.onyxSide (b : Block) : Onyx × List (Nat × Nat × Option Nat) × List OutcomeMsg × List (Nat × Nat) :=
  (b.onyx, b.ch.onyxJade, b.ch.onyxOpal, b.ch.opalOnyx)

theorem tellOpal_onyxSide (f : Nat) (n : LedgerNote) (b : Block) : (tellOpal f n b).onyxSide = b.onyxSide := by
  unfold tellOpal takeNotes
  split
  · rfl
  · exact foldl_keeps (f := fun b (e : Nat × LedgerNote) => winMod e.1 (takeNote e.2) b) (g := Block.onyxSide) (fun _ _ => rfl) _ _

theorem Block.OnyxIdle.of_view {a b : Block} (h : a.OnyxIdle) (ho : b.onyx = a.onyx) (hc : b.ch.opalOnyx = a.ch.opalOnyx) :
    b.OnyxIdle := by
  obtain ⟨ante, takes, ports, rolls, decided, calm⟩ := h
  refine ⟨?_, ?_, ?_, ?_, hc.trans decided, ?_⟩
  · rw [ho]; exact ante
  · rw [ho]; exact takes
  · rw [Block.portsIdle, ho]; exact ports
  · rw [ho]; exact rolls
  · rw [ho]; exact calm

/-- What lies at rest. -/
theorem onyxAtRest_parts {b : Block} (h : b.onyxAtRest = true) : b.onyx.segs = [] ∧ b.onyx.takes = [] ∧ b.onyx.flush = none := by
  simp only [Block.onyxAtRest, Bool.and_eq_true, List.isEmpty_iff, Option.isNone_iff_eq_none] at h
  obtain ⟨⟨⟨⟨⟨segs, takes⟩, flush⟩, -⟩, -⟩, -⟩ := h
  exact ⟨segs, takes, flush⟩

section
variable {b : Block} (hr : b.onyxAtRest = true) (x : StagedSet)

theorem setInForce_onyx : { (setInForce x b).onyx with ports := b.onyx.ports } = { b.onyx with staged := [], set := some x.set } :=
  (setStates_onyx (b.modOnyx (fun o => { o with staged := [], set := some x.set }))).1

include hr

/-- The staged set is in force, and nothing is left to do. -/
theorem setInForce_idle : (setInForce x b).OnyxIdle := by
  have onyx := setInForce_onyx (b := b) x
  have rest := Block.onyxIdle_of_rest hr
  obtain ⟨-, -, flush⟩ := onyxAtRest_parts hr
  refine ⟨?_, (congrArg Onyx.takes onyx :).trans rest.takes, setStates_portsIdle rest.ports, (congrArg Onyx.rolls onyx :).trans rest.rolls,
    (congrArg Channels.opalOnyx (setStates_onyx _).2 :).trans rest.decided, .inl ((congrArg Onyx.flush onyx :).trans flush)⟩
  rw [show (setInForce x b).onyx.segs = b.onyx.segs from (congrArg Onyx.segs onyx :)]
  exact rest.ante

end

end Sys2Proof.Machine

section
open Sys2Proof Sys2Proof.Machine

/-- Settles O43: a notice that waits for Opal, one of no Frame, a set that comes in force, and a Frame outside a Take. -/
theorem latchNoticesBindRetention : Obligations.LatchNoticesBindRetention := by
  refine ⟨?waits, ?nothing, ?set, ?unarmed, ?armed, ?behind, ?serves, ?total, ?failing, ?idle⟩
  case waits =>
    intro q b n l s ha he hc hs hd
    exact act_served ha he ((latchNoticeOnyx_first hc).trans (serveNoticeOnyx_waits hc hs hd))
  case nothing =>
    intro q b n l ha he hc hn hp hr hs hst
    obtain ⟨segs, takes, -⟩ := onyxAtRest_parts hr
    refine act_served ha he ((latchNoticeOnyx_first hc).trans ((serveNoticeOnyx_frameless hc hs).trans ?_))
    let taken := b.modCh (fun c => { c with noticeOnyx := l })
    rw [bindInOnyx_frameless hn hp hs, applySet_none (b := taken) hst, trimAnte_none (b := taken) takes segs]
    exact serveOnyx_at_rest (b := taken) hr
  case set =>
    intro q b n l x ha he hc hn hp hr hs hst hk hre hset hh hgs
    obtain ⟨segs, takes, flush⟩ := onyxAtRest_parts hr
    let taken := b.modCh (fun c => { c with noticeOnyx := l })
    let y := finishCtrl x.desc stOk n.frame 0 0 (setInForce x taken)
    have applied : applySet n.frame taken = y := applySet_one (b := taken) hst hk hre hset takes segs hh hgs n.frame
    have forced := setInForce_onyx (b := taken) x
    have kept : y.onyx = (setInForce x taken).onyx := finishCtrl_onyx ..
    have idle : y.OnyxIdle := (setInForce_idle (b := taken) hr x).of_view kept (finishCtrl_opalOnyx ..)
    have field {α : Type} (f : Onyx → α) (hf : ∀ o v, f { o with ports := v } = f o) :
        f y.onyx = f { taken.onyx with staged := [], set := some x.set } :=
      (congrArg f kept).trans ((hf _ _).symm.trans (congrArg f forced))
    have trimmed : trimAnte y = y := trimAnte_none ((field (·.takes) (fun _ _ => rfl)).trans takes)
      ((field (·.segs) (fun _ _ => rfl)).trans segs)
    have same : serveOnyx y = y := idle.serveOnyx_same ((field (·.flush) (fun _ _ => rfl)).trans flush)
    have eq : latchNoticeOnyx 0 b = y := by
      rw [latchNoticeOnyx_first hc, serveNoticeOnyx_frameless hc hs, bindInOnyx_frameless hn hp hs, applied, trimmed, same]
    refine .of_next (act_served ha he eq) ⟨field (·.set) (fun _ _ => rfl), field (·.staged) (fun _ _ => rfl), ?_,
      eq ▸ latchNoticeOnyx_frame (by decide) (onlyChanges_refl _ b)⟩
    exact (finishCtrl_noticeOnyx ..).trans (congrArg Channels.noticeOnyx (setStates_onyx _).2)
  case unarmed =>
    intro q b n l s d ha he hc hn hp hr hs hd hm hst hf harm
    obtain ⟨segs, takes, -⟩ := onyxAtRest_parts hr
    let taken := b.modCh (fun c => { c with noticeOnyx := l, onyxDests := [] })
    refine act_served ha he ((latchNoticeOnyx_first hc).trans ((serveNoticeOnyx_binds hc hs hd hm).trans ?_))
    rw [bindInOnyx_frame_rest (b := taken) hn hp hs hst takes segs, bindMagazine_one (b := taken) takes hf,
      show armed taken = false from harm]
    exact serveOnyx_at_rest (b := holdNone s [d] taken) hr
  case armed =>
    intro q b n l s d x a ha he hc hn hp hr hs hd hm hst hf harm hx hres
    obtain ⟨segs, takes, flush⟩ := onyxAtRest_parts hr
    let taken := b.modCh (fun c => { c with noticeOnyx := l, onyxDests := [] })
    let told := tellOpal s.frame (.ante d.index true) (tellJade s.frame d.index (some a) taken)
    let y := told.modOnyx (fun o => { o with segs := o.segs ++ [freshSegment s d a x none] })
    have side : told.onyxSide = (b.onyx, b.ch.onyxJade ++ [(s.frame, d.index, some a)], b.ch.onyxOpal, b.ch.opalOnyx) :=
      tellOpal_onyxSide ..
    simp only [Block.onyxSide, Prod.mk.injEq] at side
    obtain ⟨onyx, jade, opal, decided⟩ := side
    have segs' : y.onyx.segs = [freshSegment s d a x none] := by
      show told.onyx.segs ++ _ = _
      rw [onyx, segs]
      rfl
    have rest := (Block.onyxIdle_of_rest hr).of_view onyx decided
    have idle : y.OnyxIdle := ⟨fun g hg => by rw [segs'] at hg; rw [List.mem_singleton.mp hg]; rfl, rest.takes, rest.ports, rest.rolls,
      rest.decided, rest.calm⟩
    have same : serveOnyx y = y := idle.serveOnyx_same ((congrArg Onyx.flush onyx).trans flush)
    have eq : latchNoticeOnyx 0 b = y := by
      rw [latchNoticeOnyx_first hc, serveNoticeOnyx_binds hc hs hd hm, bindInOnyx_frame_rest (b := taken) hn hp hs hst takes segs,
        bindMagazine_one (b := taken) takes hf, show armed taken = true from harm, show taken.onyx.flush = none from flush]
      exact (congrArg serveOnyx (holdFrame_one (b := taken) segs hx hres)).trans same
    exact .of_next (act_served ha he eq) ⟨jade, opal, segs', eq ▸ latchNoticeOnyx_frame (by decide) (onlyChanges_refl _ b)⟩
  case behind => exact fun q b lost ha he h => act_served ha he (if_pos h)
  case serves => exact fun q b lost ha he h => act_served ha he (if_neg (Nat.not_le.mpr h))
  case total => exact fun q b lost ha he => ⟨act_served ha he rfl, latchNoticeOnyx_frame (by decide) (onlyChanges_refl _ b)⟩
  case failing => exact fun q b lost hf => act_served_failing hf rfl
  case idle => exact fun q b lost hf h => act_served_idle hf h

end
end

section
/-! O44: magazine ports as their links and controllers come and go (10 R256, R258, R259, R261 to R264, R283, R289; 19 R497). -/

-- The proofs are elaborated one after another: each waiting in a thread of its own takes more memory than the check allows.
set_option Elab.async false

namespace Sys2Proof.Machine

/-! ### Onyx at rest with no set in force -/

/-- Onyx is at rest with no set in force, and these are its ports. -/
structure Block.Unset (v : Vector Port 4) (b : Block) : Prop where
  rest : b.onyxAtRest = true
  set : b.onyx.set = none
  ports : b.onyx.ports = v

/-- The port has no work. -/
structure Port.Idle (p : Port) : Prop where
  steps : p.steps = []
  clips : p.clips = []
  slow : p.slow = false
  rehomed : p.rehomed = 0

theorem clearedPort_idle (p : Port) : (clearedPort p).Idle := ⟨rfl, rfl, rfl, rfl⟩

/-- The port with another state, setting and counts. -/
theorem Port.Idle.of_work {p x : Port} (h : p.Idle) (hs : x.steps = p.steps) (hc : x.clips = p.clips) (hw : x.slow = p.slow)
    (hr : x.rehomed = p.rehomed) : x.Idle :=
  ⟨hs.trans h.steps, hc.trans h.clips, hw.trans h.slow, hr.trans h.rehomed⟩

theorem onyxAtRest_iff {b : Block} : b.onyxAtRest = true ↔ b.onyx.segs = [] ∧ b.onyx.takes = [] ∧ b.onyx.flush = none ∧
    b.portsIdle = true ∧ b.onyx.rolls = [] ∧ b.ch.opalOnyx = [] := by
  simp only [Block.onyxAtRest, Bool.and_eq_true, List.isEmpty_iff, Option.isNone_iff_eq_none, and_assoc]

/-- The port of a lost magazine. -/
def lostPort (p : Port) : Port := { clearedPort p with
  state := .lost, settled := false, losses := satAdd 65535 p.losses 1, timeouts := p.timeouts, errors := p.errors }

theorem lostPort_idle (p : Port) : (lostPort p).Idle := ⟨rfl, rfl, rfl, rfl⟩

namespace Block.Unset

variable {v : Vector Port 4} {b : Block}

theorem of_rest (hr : b.onyxAtRest = true) (hs : b.onyx.set = none) : b.Unset b.onyx.ports := ⟨hr, hs, rfl⟩

theorem port (h : b.Unset v) (k : Nat) : b.port k = vget v k emptyPort := by rw [Block.port, h.ports]

theorem idle (h : b.Unset v) (k : Nat) : (b.port k).Idle := by
  obtain ⟨-, -, -, ports, -, -⟩ := onyxAtRest_iff.mp h.rest
  obtain ⟨steps, clips, slow, rehomed⟩ := port_idle ports k
  exact ⟨steps, clips, slow, rehomed⟩

theorem of_view {x : Block} (h : b.Unset v) (ho : x.onyx = b.onyx) (hc : x.ch.opalOnyx = b.ch.opalOnyx) : x.Unset v := by
  refine ⟨?_, (congrArg Onyx.set ho).trans h.set, (congrArg Onyx.ports ho).trans h.ports⟩
  have rest := h.rest
  unfold Block.onyxAtRest Block.portsIdle at rest ⊢
  rw [ho, hc]
  exact rest

theorem of_kept {ps : List Piece} {x : Block} (h : b.Unset v) (k : onlyChanges ps b x) (ho : .onyx ∉ ps) (hc : .ch ∉ ps) : x.Unset v :=
  h.of_view (k.at_ .onyx ho) (congrArg Channels.opalOnyx (kept_ch k hc) :)

theorem cipherClear (h : b.Unset v) (m : Nat) : (cipherClear m b).Unset v := by
  have withdrawn : (withdrawIf (fun r => r.port == m) b).Unset v := by
    unfold withdrawIf
    extract_lets gone x
    exact List.foldlRecOn gone _ (h.of_view rfl rfl) (fun y hy r _ => ⟨hy.rest, hy.set, hy.ports⟩)
  exact ⟨withdrawn.rest, withdrawn.set, withdrawn.ports⟩

theorem portMod (h : b.Unset v) (m : Nat) {f : Port → Port} (hf : (f (b.port m)).Idle) :
    (portMod m f b).Unset (vset v m (f (b.port m))) := by
  obtain ⟨segs, takes, flush, ports, rolls, decided⟩ := onyxAtRest_iff.mp h.rest
  refine ⟨onyxAtRest_iff.mpr ⟨segs, takes, flush, portsIdle_iff.mpr (fun k => ?_), rolls, decided⟩, h.set, ?_⟩
  · rw [port_portMod]
    split
    · exact ⟨hf.steps, hf.clips, hf.slow, hf.rehomed⟩
    · obtain ⟨steps, clips, slow, rehomed⟩ := h.idle k
      exact ⟨steps, clips, slow, rehomed⟩
  · rw [← h.ports]
    rfl

theorem magEvent (h : b.Unset v) (m k : Nat) (d : List Nat) : (magEvent m k d b).Unset v :=
  h.of_kept (magEvent_frame (List.Subset.refl _) (onlyChanges_refl _ b)) (by decide) (by decide)

theorem dropQueries (h : b.Unset v) (l : List NvmeCmd) : (dropQueries l b).Unset v :=
  h.of_kept (dropQueries_frame (List.Subset.refl _) (onlyChanges_refl _ b)) (by decide) (by decide)

theorem logPcie (h : b.Unset v) (p e d : Nat) : (logPcie p e d b).Unset v :=
  h.of_kept (Block.logEvr_kept b ..) (by decide) (by decide)

theorem formerLost (h : b.Unset v) (m : Nat) : formerLost m b = b := by
  obtain ⟨segs, -⟩ := onyxAtRest_iff.mp h.rest
  have nothing : lostSegs b m = [] := by
    unfold lostSegs
    rw [segs]
    rfl
  unfold Machine.formerLost
  rw [h.set]
  dsimp only
  rw [nothing]
  rfl

/-- A magazine is lost: its port, and no other, changes. -/
theorem loseMagazine (h : b.Unset v) {m : Nat} (hl : isLive (b.port m).state = true) (cls kind : Nat) :
    (loseMagazine m cls kind b).Unset (vset v m (lostPort (b.port m))) := by
  unfold Machine.loseMagazine
  extract_lets p b1 b2 b3 b4 b5 b6 b7
  have cleared : b1.Unset v := h.cipherClear m
  have same : b1.port m = b.port m := (cleared.port m).trans (h.port m).symm
  have lost : b2.Unset (vset v m (lostPort (b.port m))) := same ▸ cleared.portMod m (f := lostPort) (lostPort_idle _)
  have noShare : b3 = b2 := by
    obtain ⟨segs, -⟩ := onyxAtRest_iff.mp lost.rest
    unfold b3
    rw [segs]
    rfl
  have noClip : b4 = b3 := if_neg (by rw [show p.clips = [] from (h.idle m).clips]; exact Bool.false_ne_true)
  have queried : b6.Unset (vset v m (lostPort (b.port m))) := by
    have posted : b3.Unset (vset v m (lostPort (b.port m))) := noShare ▸ lost
    exact ((noClip ▸ posted : b4.Unset _).magEvent m 4 [cls, kind]).dropQueries p.cmds
  have unlost : b7 = b6 := by
    unfold b7
    rw [queried.set]
    exact queried.formerLost m
  have tested : testLoad b7 = b6 := by
    unfold testLoad
    rw [unlost, queried.set]
  rw [if_neg (by rw [show isLive p.state = true from hl]; exact Bool.false_ne_true), tested, serveOnyx_at_rest queried.rest]
  exact queried

end Block.Unset

/-! ### Links that come up -/

section
variable {b : Block} {m gen width vs cap : Nat}

theorem lt_of_mayTrain (h : mayTrain b m = true) : m < 4 := by
  unfold mayTrain at h
  simp only [Bool.and_eq_true, decide_eq_true_eq] at h
  exact h.1.1.1.1

/-- Port `m` as its link comes up, in the settings of a block. -/
def trainedPort (y : Block) (m gen width cap : Nat) (p : Port) : Port := { clearedPort p with
  state := .mounting, linkGen := gen, linkWidth := width, mqes := bitsOf cap 15 0, adminEntries := 32
  ioEntries := min 257 (bitsOf cap 15 0 + 1), reinit := false, mountReinit := p.reinit
  mountInit := y.field (0x7000 + 4 * m) 13 12 }

/-- The link of port `m` is up, and its event is posted. -/
def linkedUp (m gen width cap : Nat) (y : Block) : Block := magEvent m 1 [gen, width] (portMod m (trainedPort y m gen width cap) y)

theorem port_of_onyx {x : Block} (h : x.onyx = b.onyx) (k : Nat) : x.port k = b.port k :=
  congrArg (fun o : Onyx => vget o.ports k emptyPort) h

theorem portMod_port_self (hm : m < 4) (f : Port → Port) : (portMod m f b).port m = f (b.port m) :=
  (port_portMod ..).trans (if_pos ⟨rfl, hm⟩)

theorem magEvent_port (k : Nat) (d : List Nat) (i : Nat) : (magEvent m k d b).port i = b.port i :=
  port_of_onyx ((magEvent_frame (List.Subset.refl _) (onlyChanges_refl _ b)).at_ .onyx (by decide)) i

theorem linkedUp_port (hm : m < 4) : (linkedUp m gen width cap b).port m = trainedPort b m gen width cap (b.port m) :=
  (magEvent_port ..).trans (portMod_port_self hm _)

/-- A port that may train has its link up, and is then refused for it or goes on. -/
theorem portUp_eq (h : mayTrain b m = true) : ∃ y, y.port m = b.port m ∧
    portUp m gen width vs cap b =
      if width != 4 || decide (min gen (maxGen b m) < 4) then refuse m 1 (linkedUp m (min gen (maxGen b m)) width cap y)
      else if !controllerOk vs cap then refuse m 2 (linkedUp m (min gen (maxGen b m)) width cap y)
      else linkedUp m (min gen (maxGen b m)) width cap y := by
  unfold portUp
  extract_lets g b1 b2 b3 b4
  refine ⟨b2, ?_, if_neg (by rw [h]; exact Bool.false_ne_true)⟩
  have woken : b1.port m = b.port m := by
    unfold b1
    split <;> rfl
  exact (port_of_onyx ((Block.logEvr_kept b1 ..).at_ .onyx (by decide)) m).trans woken

/-- The port of a refused magazine whose link did not train as it must. -/
theorem refuse_port (hm : m < 4) : ((refuse m 1 b).port m).state = .refused ∧ ((refuse m 1 b).port m).detail = 1 := by
  unfold refuse
  extract_lets y
  have same : (mountHealth m (magEvent m 3 [1] y)).port m = y.port m :=
    (port_of_onyx ((mountHealth_frame (List.Subset.refl _) (onlyChanges_refl _ _)).at_ .onyx (by decide)) m).trans (magEvent_port ..)
  rw [same, show y.port m = _ from portMod_port_self hm _]
  exact ⟨rfl, rfl⟩

theorem replaying_of_mode (h : b.beryl.evr.mode ≠ 2) : replaying b = false := beq_eq_false_iff_ne.mpr h

theorem replaying_iff_mode : replaying b = true ↔ b.beryl.evr.mode = 2 := beq_iff_eq

theorem magazineLinkUp_live (h : b.beryl.evr.mode ≠ 2) : magazineLinkUp m gen width vs cap b = portUp m gen width vs cap b :=
  if_neg (by rw [replaying_of_mode h]; exact Bool.false_ne_true)

theorem magazineLinkUp_replay (h : b.beryl.evr.mode = 2) : magazineLinkUp m gen width vs cap b = b := if_pos (replaying_iff_mode.mpr h)

theorem magazineLinkUp_untrained (h : mayTrain b m = false) : magazineLinkUp m gen width vs cap b = b := by
  have same : portUp m gen width vs cap b = b := if_pos (by rw [h]; rfl)
  unfold magazineLinkUp
  rw [same, ite_self]

end

/-! ### Links that go down, and other losses -/

section
variable {b : Block} {m : Nat}

theorem linkDown_live (h : isLive (b.port m).state = true) (hm : m < 4) :
    linkDown m b = loseMagazine m (downClass (logPcie (m + 1) 1 0 b) m) 0 (logPcie (m + 1) 1 0 b) := by
  unfold linkDown
  rw [if_neg (Nat.not_le.mpr hm)]
  exact if_pos h

theorem Block.Unset.linkDown {v : Vector Port 4} (h : b.Unset v) (hl : isLive (vget v m emptyPort).state = true) (hm : m < 4) :
    (linkDown m b).Unset (vset v m (lostPort (vget v m emptyPort))) := by
  have logged : (Machine.logPcie (m + 1) 1 0 b).Unset v := h.logPcie (m + 1) 1 0
  rw [linkDown_live (by rwa [h.port]) hm, ← logged.port]
  exact logged.loseMagazine (by rwa [logged.port]) _ 0

/-- Links of live ports that go down in the same tick: exactly those ports are lost. -/
theorem linkDowns_unset (ms : List Nat) {l : List Nat} (nodup : l.Nodup) (small : ∀ k ∈ l, k < 4) {v : Vector Port 4} (h : b.Unset v)
    (live : ∀ k ∈ l, k ∈ ms → isLive (vget v k emptyPort).state = true) :
    ∃ w, (l.foldl (fun b k => if ms.contains k then linkDown k b else b) b).Unset w ∧
      ∀ k < 4, vget w k emptyPort = if k ∈ l ∧ k ∈ ms then lostPort (vget v k emptyPort) else vget v k emptyPort := by
  induction l generalizing b v with
  | nil => exact ⟨v, h, fun k _ => by simp⟩
  | cons a l ih =>
    obtain ⟨new, nodup⟩ := List.nodup_cons.mp nodup
    have small' : ∀ k ∈ l, k < 4 := fun k hk => small k (List.mem_cons_of_mem _ hk)
    rw [List.foldl_cons]
    by_cases ha : a ∈ ms
    · have lost := h.linkDown (live a List.mem_cons_self ha) (small a List.mem_cons_self)
      have others (k : Nat) (hk : k ∈ l) : vget (vset v a (lostPort (vget v a emptyPort))) k emptyPort = vget v k emptyPort :=
        (vget_vset ..).trans (if_neg (fun (h : a = k ∧ k < 4) => new (h.1 ▸ hk)))
      obtain ⟨w, unset, at_⟩ := ih nodup small' lost (fun k hk hm => others k hk ▸ live k (List.mem_cons_of_mem _ hk) hm)
      refine ⟨w, by simpa [ha] using unset, fun k hk => (at_ k hk).trans ?_⟩
      by_cases same : a = k
      · subst same
        simp [new, ha, vget_vset, hk]
      · simp [vget_vset, same, Ne.symm same]
    · obtain ⟨w, unset, at_⟩ := ih nodup small' h (fun k hk => live k (List.mem_cons_of_mem _ hk))
      refine ⟨w, by simpa [ha] using unset, fun k hk => (at_ k hk).trans ?_⟩
      by_cases same : a = k
      · subst same
        simp [ha]
      · simp [Ne.symm same]

theorem magazineLinkDown_live (h : b.beryl.evr.mode ≠ 2) (also : List Nat) : magazineLinkDown m also b =
    [0, 1, 2, 3].foldl (fun b k => if (m :: also).contains k then linkDown k b else b) b :=
  if_neg (by rw [replaying_of_mode h]; exact Bool.false_ne_true)

/-- The link of one port alone goes down. -/
theorem magazineLinkDown_one (h : b.beryl.evr.mode ≠ 2) (hm : m < 4) : magazineLinkDown m [] b = linkDown m b := by
  rw [magazineLinkDown_live h]
  interval_cases m <;> rfl

theorem linkDown_refused (hm : m < 4) (h : (b.port m).state = .refused) : linkDown m b =
    portMod m (fun p => { clearedPort p with state := .empty }) (logPcie (m + 1) 1 0 b) := by
  unfold linkDown
  rw [if_neg (Nat.not_le.mpr hm)]
  extract_lets p
  rw [if_neg (by rw [show p.state = .refused from h]; decide)]
  exact if_pos (.inl h)

/-- Trouble noted, and counts moved, on an idle port. -/
theorem Block.Unset.troubled {v : Vector Port 4} (h : b.Unset v) : (trouble m b).Unset
    (vset v m { b.port m with troubleAt := some b.quartz.tb }) :=
  h.portMod m (f := fun p => { p with troubleAt := some b.quartz.tb }) ((h.idle m).of_work rfl rfl rfl rfl)

theorem cmdTimeout_event {cid : Nat} {c : NvmeCmd} (hm : m < 4) (hc : (b.port m).cmds.find? (fun c => c.cid == cid) = some c)
    (hu : c.use = .event) : cmdTimeout m cid b = b := by
  unfold cmdTimeout
  rw [if_neg (Nat.not_le.mpr hm), hc]
  exact if_pos hu

theorem cmdTimeout_loses {cid : Nat} {c : NvmeCmd} (hm : m < 4) (hc : (b.port m).cmds.find? (fun c => c.cid == cid) = some c)
    (hu : c.use ≠ .event) : cmdTimeout m cid b =
      loseMagazine m 1 1 (trouble m (portMod m (fun p => { p with timeouts := satAdd (2 ^ 32 - 1) p.timeouts 1 }) b)) := by
  unfold cmdTimeout
  rw [if_neg (Nat.not_le.mpr hm), hc]
  exact if_neg hu

theorem cmdTimeout_none {cid : Nat} (h : 4 ≤ m ∨ (b.port m).cmds.find? (fun c => c.cid == cid) = none) : cmdTimeout m cid b = b := by
  unfold cmdTimeout
  obtain h | h := h
  · exact if_pos h
  · rw [h, ite_self]

end

/-! ### One port with work -/

section
variable {b : Block} {m : Nat} {f g : Port → Port}

/-- A change of a port is what it makes of it. -/
theorem portMod_congr (h : f (b.port m) = g (b.port m)) : portMod m f b = portMod m g b := by
  unfold portMod
  rw [h]

theorem portMod_portMod (hm : m < 4) : portMod m f (portMod m g b) = portMod m (fun p => f (g p)) b := by
  show Block.modOnyx (portMod m g b) _ = _
  rw [portMod_port_self hm]
  simp only [portMod, Block.modOnyx, vset_vset]

end

/-- One port's turns leave nothing to do at the others. -/
theorem serveOnyx_turns {b y : Block} {m : Nat} (ha : b.alive .onyx = true) (taken : takeDecided b = b) (settled : settleSegs b = b)
    (hm : m < 4) (before : ∀ k, k ≠ m → servePort b k = b) (turn : servePort b m = y) (after : ∀ k, servePort y k = y)
    (rolls : y.onyx.rolls = []) (takes : y.onyx.takes = []) : serveOnyx b = tryReport false y := by
  have rest (l : List Nat) : l.foldl servePort y = y := by
    induction l with
    | nil => rfl
    | cons k l ih => rw [List.foldl_cons, after, ih]
  have turns (l : List Nat) : l.foldl servePort b = if m ∈ l then y else b := by
    induction l with
    | nil => rfl
    | cons k l ih =>
      rw [List.foldl_cons]
      by_cases hk : k = m
      · rw [hk, turn, rest, if_pos List.mem_cons_self]
      · rw [before k hk, ih]
        simp [Ne.symm hk]
  have served : [0, 1, 2, 3, 0, 1, 2, 3].foldl servePort b = y := (turns _).trans (if_pos (by interval_cases m <;> decide))
  rw [serveOnyx_eq, taken, settled, ha, served, postRolled_none rolls, closeTakes_none takes]
  rfl

/-- The command is outstanding on its port. -/
def issued (op : NvmeOp) (use : NvmeUse) (retried : Bool) (p : Port) : Port := { p with
  nextCid := (p.nextCid + 1) % 65536, cmds := p.cmds ++ [{ cid := p.nextCid, op, use, retried }] }

theorem issueCmd_onyx (b : Block) (m : Nat) (op : NvmeOp) (use : NvmeUse) (retried : Bool) :
    (issueCmd m op use retried b).onyx = (portMod m (issued op use retried) b).onyx ∧
      (issueCmd m op use retried b).ch = (portMod m (issued op use retried) b).ch := by
  unfold issueCmd
  extract_lets c x
  split <;> exact ⟨rfl, rfl⟩

theorem issueCmd_port {b : Block} {m : Nat} (hm : m < 4) {op : NvmeOp} {use : NvmeUse} {retried : Bool} :
    (issueCmd m op use retried b).port m = issued op use retried (b.port m) :=
  (port_of_onyx (issueCmd_onyx b m op use retried).1 m).trans (portMod_port_self hm _)

/-- Outside a flush, no Segment is held and no port but `m` has work. -/
structure Block.OneBusy (m : Nat) (b : Block) : Prop where
  segs : b.onyx.segs = []
  takes : b.onyx.takes = []
  flush : b.onyx.flush = none
  rolls : b.onyx.rolls = []
  decided : b.ch.opalOnyx = []
  others : ∀ k, k ≠ m → (b.port k).Idle
  slow : (b.port m).slow = false
  rehomed : (b.port m).rehomed = 0

namespace Block.OneBusy

variable {b : Block} {m : Nat}

theorem of_rest (h : b.onyxAtRest = true) (m : Nat) : b.OneBusy m := by
  obtain ⟨segs, takes, flush, ports, rolls, decided⟩ := onyxAtRest_iff.mp h
  have idle (k : Nat) : (b.port k).Idle := by
    obtain ⟨steps, clips, slow, rehomed⟩ := port_idle ports k
    exact ⟨steps, clips, slow, rehomed⟩
  exact ⟨segs, takes, flush, rolls, decided, fun k _ => idle k, (idle m).slow, (idle m).rehomed⟩

theorem portMod (h : b.OneBusy m) {f : Port → Port} (hs : (f (b.port m)).slow = (b.port m).slow)
    (hr : (f (b.port m)).rehomed = (b.port m).rehomed) : (portMod m f b).OneBusy m := by
  refine ⟨h.segs, h.takes, h.flush, h.rolls, h.decided, fun k hk => ?_, ?_, ?_⟩ <;> rw [port_portMod]
  · rw [if_neg (fun e => hk e.1.symm)]
    exact h.others k hk
  · split
    · exact hs.trans h.slow
    · exact h.slow
  · split
    · exact hr.trans h.rehomed
    · exact h.rehomed

theorem of_view {x : Block} (h : b.OneBusy m) (ho : x.onyx = b.onyx) (hc : x.ch.opalOnyx = b.ch.opalOnyx) : x.OneBusy m := by
  obtain ⟨segs, takes, flush, rolls, decided, others, slow, rehomed⟩ := h
  refine ⟨ho ▸ segs, ho ▸ takes, ho ▸ flush, ho ▸ rolls, hc.trans decided, fun k hk => ?_, ?_, ?_⟩ <;> rw [port_of_onyx ho]
  exacts [others k hk, slow, rehomed]

theorem issueCmd (h : b.OneBusy m) (op : NvmeOp) (use : NvmeUse) (retried : Bool) : (issueCmd m op use retried b).OneBusy m := by
  obtain ⟨onyx, ch⟩ := issueCmd_onyx b m op use retried
  exact (h.portMod rfl rfl).of_view onyx (congrArg Channels.opalOnyx ch :)

theorem queueOf (h : b.OneBusy m) (k : Nat) : queueOf b k = [] := by
  unfold Machine.queueOf
  rw [h.segs]
  rfl

theorem quiet (h : b.OneBusy m) (k : Nat) : b.PortQuiet k := by
  by_cases hk : k = m
  · exact ⟨h.queueOf k, hk ▸ h.slow, hk ▸ h.rehomed⟩
  · exact ⟨h.queueOf k, (h.others k hk).slow, (h.others k hk).rehomed⟩

theorem servePort_other (h : b.OneBusy m) {k : Nat} (hk : k ≠ m) : servePort b k = b := by
  have same : pumped k b = b := pumped_idle (h.queueOf k) (h.others k hk).steps (h.others k hk).clips
    (noShutdown_of_calm (.inl h.flush) k)
  rw [servePort_quiet (same.symm ▸ h.quiet k), same]

/-- The one port's serial work, after which it waits, is all there is to do. -/
theorem serveOnyx {y : Block} (h : b.OneBusy m) (ha : b.alive .onyx = true) (hm : m < 4) (run : pumped m b = y) (hy : y.OneBusy m)
    (still : pumped m y = y) : serveOnyx b = y := by
  have taken : takeDecided b = b := by simp [takeDecided, h.decided]
  have settled : settleSegs b = b := by
    unfold settleSegs
    rw [h.segs]
    rfl
  have turn : servePort b m = y := (servePort_quiet (run.symm ▸ hy.quiet m)).trans run
  have after (k : Nat) : servePort y k = y := by
    by_cases hk : k = m
    · rw [hk, servePort_quiet (still.symm ▸ hy.quiet m), still]
    · exact hy.servePort_other hk
  rw [serveOnyx_turns ha taken settled hm (fun k hk => h.servePort_other hk) turn after hy.rolls hy.takes]
  exact tryReport_unflushed hy.flush false

end Block.OneBusy

/-! ### Serial work, step by step -/

section
variable {b : Block} {m k : Nat}

/-- A serial command is outstanding. -/
theorem pumpPort_busy (h : serialBusy (b.port m) = true) : pumpPort m k b = b := by
  cases k with
  | zero => rfl
  | succ k => exact if_pos (by rw [h]; rfl)

theorem pumped_busy (h : serialBusy (b.port m) = true) : pumped m b = b := pumpPort_busy h

section
variable (hb : serialBusy (b.port m) = false) (hl : isLive (b.port m).state = true)
include hb hl

theorem pumpPort_stage {x : MountStep} {rest : List PortStep} (h : (b.port m).steps = .stage x :: rest) :
    pumpPort m (k + 1) b = pumpPort m k (portMod m (fun p => { p with mount := x }) (portMod m (fun p => { p with steps := rest }) b)) := by
  rw [pumpPort]
  simp only [hb, hl, h, Bool.not_true, Bool.or_false, Bool.false_eq_true, if_false]
  rfl

theorem pumpPort_admin {op : NvmeOp} {rest : List PortStep} (h : (b.port m).steps = .cmd op :: rest) (ho : isIo op = false)
    (room : adminOut (b.port m) < adminLimit) :
    pumpPort m (k + 1) b = issueCmd m op .serial false (portMod m (fun p => { p with steps := rest }) b) := by
  rw [pumpPort]
  simp only [hb, hl, h, ho, Nat.not_le.mpr room, Bool.not_true, Bool.or_false, Bool.false_eq_true, if_false]

end

end

/-! ### The controller is ready, and RETRAIN -/

section
variable {b : Block} {m csts : Nat}

theorem controllerStatusChange_dead (h : 4 ≤ m ∨ isLive (b.port m).state = false) : controllerStatusChange m csts b = b := by
  unfold controllerStatusChange
  obtain h | h := h
  · exact if_pos (by rw [decide_eq_true h]; rfl)
  · exact if_pos (by rw [h]; simp)

theorem controllerStatusChange_fatal (hm : m < 4) (hl : isLive (b.port m).state = true) (hc : bitOf csts 1 = true) :
    controllerStatusChange m csts b = loseMagazine m 1 3 (trouble m b) := by
  unfold controllerStatusChange
  rw [if_neg (by simp [hl, hm]), if_pos hc]

/-- The mount of the port is at stage `x`, and its first command is issued. -/
def mountReads (m : Nat) (x : MountStep) (op : NvmeOp) (b : Block) : Block :=
  issueCmd m op .serial false (portMod m (fun p => { p with mount := x }) b)

theorem mountReads_port (hm : m < 4) {x : MountStep} {op : NvmeOp} : (mountReads m x op b).port m = { b.port m with
    mount := x, nextCid := ((b.port m).nextCid + 1) % 65536, cmds := (b.port m).cmds ++ [⟨(b.port m).nextCid, op, .serial, false⟩] } := by
  unfold mountReads
  rw [issueCmd_port hm, portMod_port_self hm]
  rfl

/-- A live port with nothing outstanding goes on to the next stage of its mount. -/
theorem Block.OneBusy.serveOnyx_mounts (h : b.OneBusy m) (ha : b.alive .onyx = true) (hm : m < 4) (hs : (b.port m).steps = [])
    (hl : isLive (b.port m).state = true) (hc : (b.port m).cmds = []) {x : MountStep} {op : NvmeOp} (ho : isIo op = false) :
    Machine.serveOnyx (addSteps m [.stage x, .cmd op] b) = mountReads m x op b := by
  let y := addSteps m [.stage x, .cmd op] b
  let p := b.port m
  have py : y.port m = { p with steps := [.stage x, .cmd op] } := by
    rw [show y.port m = _ from portMod_port_self hm _, hs]
    rfl
  have staged : Machine.portMod m (fun p => { p with mount := x }) (Machine.portMod m (fun p => { p with steps := [.cmd op] }) y) =
      Machine.portMod m (fun p => { p with steps := [.cmd op], mount := x }) b := by
    unfold y addSteps
    rw [portMod_portMod hm, portMod_portMod hm]
  have run : pumped m y = mountReads m x op b := by
    unfold pumped
    rw [py]
    show pumpPort m (24 + 1 + 1) y = _
    rw [pumpPort_stage (x := x) (rest := [.cmd op]) (by rw [py]; simp [serialBusy, p, hc]) (by rw [py]; exact hl) (by rw [py]), staged,
      pumpPort_admin (op := op) (rest := [])]
    · rw [portMod_portMod hm]
      exact congrArg (Machine.issueCmd m op .serial false) (portMod_congr (by rw [hs]))
    · rw [portMod_port_self hm]
      simp [serialBusy, hc]
    · rw [portMod_port_self hm]
      exact hl
    · rw [portMod_port_self hm]
    · exact ho
    · rw [portMod_port_self hm]
      simp [adminOut, hc, adminLimit]
  have busy : serialBusy ((mountReads m x op b).port m) = true := by
    rw [mountReads_port hm]
    simp [serialBusy]
  exact (h.portMod rfl rfl : y.OneBusy m).serveOnyx ha hm run ((h.portMod rfl rfl).issueCmd _ _ _) (pumped_busy busy)

theorem controllerStatusChange_ready (ha : b.alive .onyx = true) (hm : m < 4) (hr : b.onyxAtRest = true)
    (hs : (b.port m).state = .mounting) (hmt : (b.port m).mount = .reset) (hc : (b.port m).cmds = []) :
    controllerStatusChange m 1 b = mountReads m .controller .identifyController b := by
  have idle : (b.port m).steps = [] := (port_idle (onyxAtRest_iff.mp hr).2.2.2.1 m).1
  have live : isLive (b.port m).state = true := by rw [hs]; rfl
  have pending : controllerStatusChange m 1 b = serveOnyx (addSteps m [.stage .controller, .cmd .identifyController] b) := by
    unfold controllerStatusChange
    rw [if_neg (by simp [live, hm]), if_neg (by decide), hs, hmt]
    rfl
  rw [pending]
  exact (Block.OneBusy.of_rest hr m).serveOnyx_mounts ha hm idle live hc rfl

/-! ### MAG_CTRL and the supply -/

theorem reinit_confirmed {w : Word} (h : magConfirmed b w = true) (hb : bitOf w.toNat 16 = true) :
    reinit w b = portMod (bitsOf w.toNat 1 0) (fun p => { p with reinit := true }) b :=
  if_pos (by rw [h, hb]; rfl)

theorem reinit_unconfirmed {w : Word} (h : magConfirmed b w = false) : reinit w b = b := if_neg (by rw [h]; exact Bool.false_ne_true)

/-- The port that trains again, or stays empty while Onyx is not committed. -/
def retrainedPort (c : Bool) (p : Port) : Port := { clearedPort p with state := if c then .training else .empty }

theorem retrain_outside {w : Word} (h : magConfirmed b w = true) (hb : bitOf w.toNat 17 = true) (hs : b.onyx.set = none)
    (hr : b.onyxAtRest = true) (hp : (b.port (bitsOf w.toNat 1 0)).state ≠ .empty) : (retrain w b).Unset
      (vset b.onyx.ports (bitsOf w.toNat 1 0) (retrainedPort (b.committed .onyx) (b.port (bitsOf w.toNat 1 0)))) := by
  unfold retrain
  extract_lets m inForce old b1 b2
  have unset := Block.Unset.of_rest hr hs
  have cleared := unset.cipherClear m
  have same : b1.port m = b.port m := (cleared.port m).trans (unset.port m).symm
  have committed : b1.committed .onyx = b.committed .onyx :=
    congrArg (fun t => t.commit.get Island.onyx.num)
      ((cipherClear_frame (m := m) (List.Subset.refl _) (onlyChanges_refl _ b)).at_ .topaz (by decide))
  have trained : b2.Unset (vset b.onyx.ports m (retrainedPort (b.committed .onyx) (b.port m))) := by
    rw [← committed, ← same]
    exact (cleared.portMod m (f := retrainedPort (b1.committed .onyx)) ⟨rfl, rfl, rfl, rfl⟩).dropQueries old
  have outside : inForce = false := by
    unfold inForce
    rw [hs]
    rfl
  rw [if_neg (by rw [h, hb, outside]; decide), if_neg hp, trained.formerLost, serveOnyx_at_rest trained.rest]
  exact trained

theorem retrain_inForce {w : Word} {s : MagSet} (hs : b.onyx.set = some s) (hm : bitsOf w.toNat 1 0 ∈ s.members) : retrain w b = b := by
  unfold retrain
  exact if_pos (by simp [hs, hm])

theorem retrain_ignored {w : Word}
    (h : magConfirmed b w = false ∨ bitOf w.toNat 17 = false ∨ (b.port (bitsOf w.toNat 1 0)).state = .empty) : retrain w b = b := by
  unfold retrain
  extract_lets m inForce old b1 b2
  obtain h | h | h := h
  · exact if_pos (by rw [h]; rfl)
  · exact if_pos (by rw [h]; simp)
  · rw [if_pos (c := _ = _) h, ite_self]

theorem magazinePowerSettled_on (hm : m < 4) (h : vget b.topaz.pwr.magpwr m false = true) :
    magazinePowerSettled m b = portMod m (fun p => { p with settled := true }) b :=
  if_pos (by rw [h, decide_eq_true hm]; rfl)

theorem magazinePowerSettled_off (h : 4 ≤ m ∨ vget b.topaz.pwr.magpwr m false = false) : magazinePowerSettled m b = b := by
  refine if_neg ?_
  obtain h | h := h
  · rw [decide_eq_false (Nat.not_lt.mpr h)]
    exact Bool.false_ne_true
  · rw [h, Bool.and_false]
    exact Bool.false_ne_true

theorem dmaViolation_dead (h : 4 ≤ m ∨ isLive (b.port m).state = false) : dmaViolation m b = b := by
  unfold dmaViolation
  obtain h | h := h
  · exact if_pos (by rw [decide_eq_true h]; rfl)
  · exact if_pos (by rw [h]; simp)

theorem dmaViolation_live (hm : m < 4) (hl : isLive (b.port m).state = true) :
    dmaViolation m b = loseMagazine m 1 5 (logPcie (m + 1) 2 0 b) :=
  if_neg (by simp [hl, hm])

theorem magazineDmaViolation_live (h : b.beryl.evr.mode ≠ 2) : magazineDmaViolation m b = dmaViolation m b :=
  if_neg (by rw [replaying_of_mode h]; exact Bool.false_ne_true)

theorem magazineDmaViolation_replay (h : b.beryl.evr.mode = 2) : magazineDmaViolation m b = b := if_pos (replaying_iff_mode.mpr h)

theorem magazineDmaViolation_dead (h : 4 ≤ m ∨ isLive (b.port m).state = false) : magazineDmaViolation m b = b := by
  unfold magazineDmaViolation
  rw [dmaViolation_dead h, ite_self]

theorem magazineLinkDown_replay (h : b.beryl.evr.mode = 2) (also : List Nat) : magazineLinkDown m also b = b :=
  if_pos (replaying_iff_mode.mpr h)

/-- The port after its magazine is lost. -/
theorem Block.Unset.lost_port {x : Block} {v : Vector Port 4} {p : Port} (hm : m < 4) (h : x.Unset (vset v m p)) : x.port m = p :=
  (h.port m).trans ((vget_vset ..).trans (if_pos ⟨rfl, hm⟩))

/-- Trouble on a live port that ends with its magazine lost. -/
theorem loseMagazine_troubled (hm : m < 4) (hl : isLive (b.port m).state = true) (hr : b.onyxAtRest = true) (hs : b.onyx.set = none)
    (cls kind : Nat) : (loseMagazine m cls kind (trouble m b)).port m = lostPort { b.port m with troubleAt := some b.quartz.tb } := by
  have troubled := (Block.Unset.of_rest hr hs).troubled (m := m)
  have port := troubled.lost_port hm
  have lost := troubled.loseMagazine (m := m) (by rw [port]; exact hl) cls kind
  rw [lost.lost_port hm, port]

end

end Sys2Proof.Machine

section
open Sys2Proof Sys2Proof.Machine

/-- Settles O44: links that come up and go down, losses of live magazines, a controller that is ready, MAG_CTRL and the supply. -/
theorem magazinePortsComeAndGo : Obligations.MagazinePortsComeAndGo := by
  refine ⟨?up, ?refused, ?untrained, ?down, ?downReplay, ?dmaReplay, ?upReplay, ?downRefused, ?dma, ?timeout, ?timeoutEvent, ?fatal,
    ?ready, ?reinit, ?reinitNot, ?retrain, ?retrainSet, ?settled, ?unsettled, ?retrainNot, ?cscDead, ?dmaDead, ?timeoutNone,
    ?upTotal, ?downTotal, ?dmaTotal, ?timeoutTotal, ?cscTotal, ?reinitTotal, ?retrainTotal, ?settledTotal, ?settledIdle⟩
  case up =>
    intro q b m gen width vs cap ha hm ht hw hg hc
    obtain ⟨y, same, eq⟩ := portUp_eq (gen := gen) (width := width) (vs := vs) (cap := cap) ht
    rw [if_neg (by simp [hw, Nat.not_lt.mpr hg]), if_neg (by rw [hc]; exact Bool.false_ne_true), ← magazineLinkUp_live hm] at eq
    refine .of_next (act_gated ha eq) ?_
    have port : (linkedUp m (min gen (maxGen b m)) width cap y).port m = _ := linkedUp_port (lt_of_mayTrain ht)
    rw [port, same]
    exact ⟨rfl, rfl, hw, rfl, rfl, rfl, rfl, eq ▸ magazineLinkUp_frame (by decide) (onlyChanges_refl _ b)⟩
  case refused =>
    intro q b m gen width vs cap ha hm ht hw
    obtain ⟨y, same, eq⟩ := portUp_eq (gen := gen) (width := width) (vs := vs) (cap := cap) ht
    rw [if_pos (by simpa using hw), ← magazineLinkUp_live hm] at eq
    obtain ⟨state, detail⟩ := refuse_port (lt_of_mayTrain ht)
    exact .of_next (act_gated ha eq) ⟨state, detail, eq ▸ magazineLinkUp_frame (by decide) (onlyChanges_refl _ b)⟩
  case untrained => exact fun q b m gen width vs cap ha h => act_gated ha (magazineLinkUp_untrained h)
  case down =>
    intro q b m also ha hm live hr hs
    have unset := Block.Unset.of_rest hr hs
    obtain ⟨w, lost, at_⟩ := linkDowns_unset (m :: also) (l := [0, 1, 2, 3]) (by decide) (by decide) unset
      (fun k hk hm => unset.port k ▸ live k (by simp at hk; omega) hm)
    rw [← magazineLinkDown_live hm] at lost
    have port (k : Nat) (hk : k < 4) : (magazineLinkDown m also b).port k = if k ∈ m :: also then lostPort (b.port k) else b.port k := by
      rw [lost.port, at_ k hk, unset.port]
      have member : k ∈ [0, 1, 2, 3] := by interval_cases k <;> decide
      simp only [member, true_and]
    refine .of_next (act_gated ha rfl) ⟨fun k hk => ?_, fun k hk => ?_, magazineLinkDown_frame (by decide) (onlyChanges_refl _ b)⟩
    all_goals
      rw [port k hk]
      split <;> rfl
  case downReplay => exact fun q b m also ha h => act_gated ha (magazineLinkDown_replay h also)
  case dmaReplay => exact fun q b m ha h => act_gated ha (magazineDmaViolation_replay h)
  case upReplay => exact fun q b m gen width vs cap ha h => act_gated ha (magazineLinkUp_replay h)
  case downRefused =>
    intro q b m ha hmode hm hs
    have eq := (magazineLinkDown_one hmode hm).trans (linkDown_refused hm hs)
    have logged : (logPcie (m + 1) 1 0 b).port m = b.port m := port_of_onyx ((Block.logEvr_kept b ..).at_ .onyx (by decide)) m
    refine .of_next (act_gated ha eq) ?_
    rw [portMod_port_self hm, logged]
    exact ⟨rfl, rfl, eq ▸ magazineLinkDown_frame (by decide) (onlyChanges_refl _ b)⟩
  case dma =>
    intro q b m ha hmode hm hl hr hs
    have eq := (magazineDmaViolation_live hmode).trans (dmaViolation_live hm hl)
    have unset := Block.Unset.of_rest hr hs
    have logged := unset.logPcie (m + 1) 2 0
    have same : (logPcie (m + 1) 2 0 b).port m = b.port m := (logged.port m).trans (unset.port m).symm
    refine .of_next (act_gated ha eq) ?_
    rw [(logged.loseMagazine (by rw [same]; exact hl) 1 5).lost_port hm, same]
    exact ⟨rfl, rfl, eq ▸ magazineDmaViolation_frame (by decide) (onlyChanges_refl _ b)⟩
  case timeout =>
    intro q b m cid c ha hm hl hr hs hc hu
    have eq := cmdTimeout_loses hm hc hu
    let f (p : Port) : Port := { p with timeouts := satAdd (2 ^ 32 - 1) p.timeouts 1 }
    have unset := Block.Unset.of_rest hr hs
    have counted := unset.portMod m (f := f) ((unset.idle m).of_work rfl rfl rfl rfl)
    have port : (portMod m f b).port m = f (b.port m) := portMod_port_self hm f
    refine .of_next (act_gated ha eq) ?_
    rw [loseMagazine_troubled hm (b := portMod m f b) (by rw [port]; exact hl) counted.rest counted.set, port]
    exact ⟨rfl, rfl, eq ▸ cmdTimeout_frame (by decide) (onlyChanges_refl _ b)⟩
  case timeoutEvent => exact fun q b m cid c ha hm hc hu => act_gated ha (cmdTimeout_event hm hc hu)
  case fatal =>
    intro q b m csts ha hm hl hr hs hc
    have eq := controllerStatusChange_fatal hm hl hc
    refine .of_next (act_gated ha eq) ?_
    rw [loseMagazine_troubled hm hl hr hs]
    exact ⟨rfl, rfl, eq ▸ controllerStatusChange_frame (by decide) (onlyChanges_refl _ b)⟩
  case ready =>
    intro q b m csts ha hm hr hs hmt hc h1
    have eq : controllerStatusChange m csts b = mountReads m .controller .identifyController b := h1 ▸ controllerStatusChange_ready ha hm hr hs hmt hc
    refine .of_next (act_gated ha eq) ?_
    rw [mountReads_port hm]
    exact ⟨rfl, by rw [hc]; rfl, eq ▸ controllerStatusChange_frame (by decide) (onlyChanges_refl _ b)⟩
  case reinit => exact fun q b w h hb => act_of_eq (reinit_confirmed h hb)
  case reinitNot => exact fun q b w h => act_of_eq (reinit_unconfirmed h)
  case retrain =>
    intro q b w h hb hs hr hp
    refine .of_next (act_of_eq rfl) ?_
    rw [(retrain_outside h hb hs hr hp).lost_port (bitsOf_lt ..)]
    exact ⟨rfl, retrain_frame (by decide) (onlyChanges_refl _ b)⟩
  case retrainSet => exact fun q b w s hs hm => act_of_eq (retrain_inForce hs hm)
  case settled => exact fun q b m hp hm h => act_powered hp (magazinePowerSettled_on hm h)
  case unsettled => exact fun q b m h => act_powered_same (magazinePowerSettled_off h)
  case retrainNot => exact fun q b w h => act_of_eq (retrain_ignored h)
  case cscDead => exact fun q b m csts ha h => act_gated ha (controllerStatusChange_dead h)
  case dmaDead => exact fun q b m ha h => act_gated ha (magazineDmaViolation_dead h)
  case timeoutNone => exact fun q b m cid ha h => act_gated ha (cmdTimeout_none h)
  case upTotal => exact fun q b m gen width vs cap ha => ⟨act_gated ha rfl, magazineLinkUp_frame (by decide) (onlyChanges_refl _ b)⟩
  case downTotal => exact fun q b m also ha => ⟨act_gated ha rfl, magazineLinkDown_frame (by decide) (onlyChanges_refl _ b)⟩
  case dmaTotal => exact fun q b m ha => ⟨act_gated ha rfl, magazineDmaViolation_frame (by decide) (onlyChanges_refl _ b)⟩
  case timeoutTotal => exact fun q b m cid ha => ⟨act_gated ha rfl, cmdTimeout_frame (by decide) (onlyChanges_refl _ b)⟩
  case cscTotal => exact fun q b m csts ha => ⟨act_gated ha rfl, controllerStatusChange_frame (by decide) (onlyChanges_refl _ b)⟩
  case reinitTotal => exact fun q b w => ⟨act_of_eq rfl, reinit_frame (by decide) (onlyChanges_refl _ b)⟩
  case retrainTotal => exact fun q b w => ⟨act_of_eq rfl, retrain_frame (by decide) (onlyChanges_refl _ b)⟩
  case settledTotal => exact fun q b m hp => ⟨act_powered hp rfl, magazinePowerSettled_frame (by decide) (onlyChanges_refl _ b)⟩
  case settledIdle => exact fun q b m hp => act_powered_idle hp

end
end

section
/-! O45: the ends of NVMe commands, health polls, and the encryption of shares (10 R258 to R261; 11 R302, R304). -/

-- The proofs are elaborated one after another: each waiting in a thread of its own takes more memory than the check allows.
set_option Elab.async false

namespace Sys2Proof.Machine

section
variable {b : Block} {m : Nat}

/-! ### Onyx at rest while commands end and are issued -/

theorem portMod_alive (f : Port → Port) (i : Island) : (portMod m f b).alive i = b.alive i := rfl

theorem portMod_onyxSet (f : Port → Port) : (portMod m f b).onyx.set = b.onyx.set := rfl

theorem portMod_quartz (f : Port → Port) : (portMod m f b).quartz = b.quartz := rfl

/-- Onyx stays at rest under a change of a port that keeps its work. -/
theorem onyxAtRest_portMod (h : b.onyxAtRest = true) {f : Port → Port} (hf : SameWork f) : (portMod m f b).onyxAtRest = true := by
  obtain ⟨segs, takes, flush, ports, rolls, decided⟩ := onyxAtRest_iff.mp h
  exact onyxAtRest_iff.mpr ⟨segs, takes, flush, portMod_portsIdle hf ports, rolls, decided⟩

theorem onyxAtRest_of_view {x : Block} (h : b.onyxAtRest = true) (ho : x.onyx = b.onyx) (hc : x.ch.opalOnyx = b.ch.opalOnyx) :
    x.onyxAtRest = true := by
  unfold Block.onyxAtRest Block.portsIdle at h ⊢
  rw [ho, hc]
  exact h

theorem onyxAtRest_issueCmd (h : b.onyxAtRest = true) (op : NvmeOp) (use : NvmeUse) (retried : Bool) :
    (issueCmd m op use retried b).onyxAtRest = true := by
  obtain ⟨onyx, ch⟩ := issueCmd_onyx b m op use retried
  exact onyxAtRest_of_view (onyxAtRest_portMod h (f := issued op use retried) (fun _ => ⟨rfl, rfl, rfl, rfl⟩)) onyx
    (congrArg Channels.opalOnyx ch :)

/-! ### The admin queue has room -/

theorem adminOut_le (p : Port) : adminOut p ≤ p.cmds.length := List.length_filter_le ..

/-- With room a log page is read at once. -/
theorem readLog_room (h : (b.port m).cmds.length < 31) (op : NvmeOp) (use : NvmeUse) : readLog m op use b = issueCmd m op use false b :=
  if_neg (Nat.not_le.mpr (Nat.lt_of_le_of_lt (adminOut_le _) h))

theorem readWaiting_none (h : (b.port m).logWait = []) : readWaiting m b = b := by
  unfold readWaiting
  rw [h]

/-! ### A completion -/

/-- Command `cid` is no longer outstanding. -/
def Port.done (cid : Nat) (p : Port) : Port := { p with cmds := p.cmds.filter (fun c => c.cid != cid) }

/-- The completion is recorded, and its command is no longer outstanding. -/
def ended (m cid status sqhd : Nat) (c : NvmeCmd) (b : Block) : Block :=
  portMod m (Port.done cid)
    (b.logEvr .onyx 0x09 (leBytes 1 m ++ leBytes 1 (bit (isIo c.op)) ++ leBytes 2 cid ++ leBytes 2 status ++ leBytes 2 sqhd))

/-- An error is counted. -/
def Port.erred (p : Port) : Port := { p with errors := satAdd (2 ^ 32 - 1) p.errors 1 }

theorem Port.erred_same : SameWork Port.erred := fun _ => ⟨rfl, rfl, rfl, rfl⟩

section
variable {cid status sqhd : Nat} {c : NvmeCmd}

theorem ended_port (hm : m < 4) : (ended m cid status sqhd c b).port m = (b.port m).done cid :=
  (portMod_port_self hm _).trans (congrArg _ (port_of_onyx (Block.logEvr_onyx ..) m))

theorem ended_rest (h : b.onyxAtRest = true) : (ended m cid status sqhd c b).onyxAtRest = true :=
  onyxAtRest_portMod (onyxAtRest_of_view h (Block.logEvr_onyx ..) (congrArg Channels.opalOnyx (kept_ch (Block.logEvr_kept b ..) (by decide)) :))
    (fun _ => ⟨rfl, rfl, rfl, rfl⟩)

theorem ended_set : (ended m cid status sqhd c b).onyx.set = b.onyx.set := (congrArg Onyx.set (Block.logEvr_onyx ..) :)

theorem ended_quartz : (ended m cid status sqhd c b).quartz = b.quartz := Block.logEvr_quartz ..

theorem ended_alive : (ended m cid status sqhd c b).alive .onyx = b.alive .onyx := alive_of_topaz (Block.logEvr_topaz ..) .onyx

theorem nvmeCompletion_none {data : List Byte} (h : (b.port m).cmds.find? (fun c => c.cid == cid) = none) :
    nvmeCompletion m cid status sqhd data b = b := by
  unfold nvmeCompletion takeCompletion
  rw [h, ite_self, ite_self]

theorem nvmeCompletion_replay {data : List Byte} (h : b.beryl.evr.mode = 2) : nvmeCompletion m cid status sqhd data b = b :=
  if_pos (replaying_iff_mode.mpr h)

section
variable (hmode : b.beryl.evr.mode ≠ 2) (hm : m < 4) (hc : (b.port m).cmds.find? (fun c => c.cid == cid) = some c) (data : List Byte)
include hmode hm hc

/-- A command without error brings what it brings; with one it is issued again or its magazine is lost. -/
theorem nvmeCompletion_some : nvmeCompletion m cid status sqhd data b =
    if status % 2048 = 0 then readWaiting m (serveOnyx (completed m c data (ended m cid status sqhd c b)))
    else if c.retried || bitOf status 14 then loseMagazine m 1 2 (trouble m (portMod m Port.erred (ended m cid status sqhd c b)))
    else if c.use = .errorLog then issueCmd m c.op c.use true (trouble m (portMod m Port.erred (ended m cid status sqhd c b)))
    else readLog m .getErrorLog .errorLog
      (issueCmd m c.op c.use true (trouble m (portMod m Port.erred (ended m cid status sqhd c b)))) := by
  unfold nvmeCompletion takeCompletion
  rw [if_neg (by rw [replaying_of_mode hmode]; exact Bool.false_ne_true), if_neg (Nat.not_le.mpr hm), hc]
  rfl

end

end

theorem trouble_erred_port (hm : m < 4) : (trouble m (portMod m Port.erred b)).port m =
    { (b.port m).erred with troubleAt := some b.quartz.tb } := by
  unfold trouble
  rw [portMod_port_self hm, portMod_port_self hm]
  rfl

/-- The command issued once more, and the error log behind it. -/
theorem retried_port (hm : m < 4) (op : NvmeOp) (use : NvmeUse) (room : (b.port m).cmds.length + 1 < 31) :
    (readLog m .getErrorLog .errorLog (issueCmd m op use true (trouble m (portMod m Port.erred b)))).port m =
      issued .getErrorLog .errorLog false (issued op use true { (b.port m).erred with troubleAt := some b.quartz.tb }) := by
  have again : (issueCmd m op use true (trouble m (portMod m Port.erred b))).port m =
      issued op use true { (b.port m).erred with troubleAt := some b.quartz.tb } := by
    rw [issueCmd_port hm, trouble_erred_port hm]
  rw [readLog_room (by rw [again]; simpa [issued, Port.erred] using room), issueCmd_port hm, again]

/-- Of a mounting port the page of its controller is kept, and its namespace is next. -/
theorem completed_controller {c : NvmeCmd} {data : List Byte} (hu : c.use = .serial) (ho : c.op = .identifyController)
    (hs : (b.port m).state = .mounting) (hmt : (b.port m).mount = .controller) (hd : leAt data 77 1 = 0) : completed m c data b =
      addSteps m [.stage .namespaceId, .cmd .identifyNamespace] (portMod m (fun p => { p with
        controllerPage := data.take 4096, mdts := 0, cache := bitOf (leAt data 525 1) 0 }) b) := by
  unfold completed
  rw [hu]
  dsimp only
  rw [if_pos hs, ho]
  unfold mountData
  simp only [hmt, hd]
  rfl

/-- The page of the controller as the port keeps it. -/
def readPage (data : List Byte) (p : Port) : Port := { p with
  controllerPage := data.take 4096, mdts := 0, cache := bitOf (leAt data 525 1) 0 }

section
variable {cid status sqhd : Nat} {c : NvmeCmd}

theorem readPage_same (data : List Byte) : SameWork (readPage data) := fun _ => ⟨rfl, rfl, rfl, rfl⟩

theorem readPage_port (hm : m < 4) {data : List Byte} : (portMod m (readPage data) (ended m cid status sqhd c b)).port m =
    readPage data ((b.port m).done cid) :=
  (portMod_port_self hm _).trans (congrArg _ (ended_port hm))

section
variable (hmode : b.beryl.evr.mode ≠ 2) (hm : m < 4) (hc : (b.port m).cmds.find? (fun c => c.cid == cid) = some c) (data : List Byte)
include hmode hm hc

/-- The Identify Controller of a mount was the one command outstanding. -/
theorem nvmeCompletion_mounts (hst : status % 2048 = 0) (ha : b.alive .onyx = true) (hr : b.onyxAtRest = true) (hu : c.use = .serial)
    (ho : c.op = .identifyController) (hs : (b.port m).state = .mounting) (hmt : (b.port m).mount = .controller)
    (hd : leAt data 77 1 = 0) (done : ((b.port m).done cid).cmds = []) (hl : (b.port m).logWait = []) :
    nvmeCompletion m cid status sqhd data b =
      mountReads m .namespaceId .identifyNamespace (portMod m (readPage data) (ended m cid status sqhd c b)) := by
  let x := ended m cid status sqhd c b
  have port : x.port m = (b.port m).done cid := ended_port hm
  have kept : (portMod m (readPage data) x).port m = readPage data ((b.port m).done cid) := readPage_port hm
  have steps : (b.port m).steps = [] := (port_idle (onyxAtRest_iff.mp hr).2.2.2.1 m).1
  have live : isLive (b.port m).state = true := by
    rw [hs]
    rfl
  have busy : (portMod m (readPage data) x).OneBusy m := by
    obtain ⟨-, -, slow, rehomed⟩ := readPage_same data (x.port m)
    exact (Block.OneBusy.of_rest (ended_rest hr) m).portMod slow rehomed
  have reads : completed m c data x = addSteps m [.stage .namespaceId, .cmd .identifyNamespace] (portMod m (readPage data) x) :=
    completed_controller hu ho (by rw [port]; exact hs) (by rw [port]; exact hmt) hd
  have mounts : serveOnyx (addSteps m [.stage .namespaceId, .cmd .identifyNamespace] (portMod m (readPage data) x)) =
      mountReads m .namespaceId .identifyNamespace (portMod m (readPage data) x) := by
    refine busy.serveOnyx_mounts ((portMod_alive ..).trans (ended_alive.trans ha)) hm ?_ ?_ ?_ rfl
    · rw [kept]; exact steps
    · rw [kept]; exact live
    · rw [kept]; exact done
  have noLog : ((mountReads m .namespaceId .identifyNamespace (portMod m (readPage data) x)).port m).logWait = [] := by
    rw [mountReads_port hm, kept]
    exact hl
  rw [nvmeCompletion_some hmode hm hc data, if_pos hst, reads, mounts, readWaiting_none noLog]

theorem nvmeCompletion_loses (hst : status % 2048 ≠ 0) (hre : bitOf status 14 = true ∨ c.retried = true) :
    nvmeCompletion m cid status sqhd data b =
      loseMagazine m 1 2 (trouble m (portMod m Port.erred (ended m cid status sqhd c b))) := by
  have last : (c.retried || bitOf status 14) = true := by
    obtain h | h := hre
    · rw [h, Bool.or_true]
    · rw [h, Bool.true_or]
  rw [nvmeCompletion_some hmode hm hc data, if_neg hst, if_pos last]

end

/-- The last error of a command on a live port: its magazine is lost, with the error counted. -/
theorem loseMagazine_erred (hm : m < 4) (hl : isLive (b.port m).state = true) (hr : b.onyxAtRest = true) (hs : b.onyx.set = none) :
    (loseMagazine m 1 2 (trouble m (portMod m Port.erred (ended m cid status sqhd c b)))).port m =
      lostPort { ((b.port m).done cid).erred with troubleAt := some b.quartz.tb } := by
  let x := portMod m Port.erred (ended m cid status sqhd c b)
  have port : x.port m = ((b.port m).done cid).erred := by
    rw [portMod_port_self hm, ended_port hm]
  have rest : x.onyxAtRest = true := onyxAtRest_portMod (ended_rest hr) Port.erred_same
  have set : x.onyx.set = none := (portMod_onyxSet _).trans (ended_set.trans hs)
  have tick : x.quartz = b.quartz := (portMod_quartz _).trans ended_quartz
  rw [loseMagazine_troubled hm (b := x) (by rw [port]; exact hl) rest set, port, tick]

end

/-! ### The health of the mounted magazines -/

/-- The port's health is to be read. -/
def healthDue (p : Port) : Bool := isMounted p.state && !p.cmds.any (fun c => c.use == .health)

/-- The poll of one port. -/
def pollHealth (b : Block) (m : Nat) : Block := if healthDue (b.port m) then readLog m .getSmart .health b else b

theorem smartPoll_eq : smartPoll b = (List.range 4).foldl pollHealth b := rfl

theorem issueCmd_port_other {k : Nat} (hk : m ≠ k) {op : NvmeOp} {use : NvmeUse} {retried : Bool} :
    (issueCmd m op use retried b).port k = b.port k :=
  (port_of_onyx (issueCmd_onyx b m op use retried).1 k).trans ((port_portMod ..).trans (if_neg (fun h => hk h.1)))

theorem pollHealth_other {k : Nat} (room : (b.port m).cmds.length < 31) (hk : m ≠ k) : (pollHealth b m).port k = b.port k := by
  unfold pollHealth
  split
  · rw [readLog_room room, issueCmd_port_other hk]
  · rfl

/-- The commands of the port after its poll. -/
def polled (p : Port) : List NvmeCmd := if healthDue p then p.cmds ++ [⟨p.nextCid, .getSmart, .health, false⟩] else p.cmds

theorem pollHealth_self (hm : m < 4) (room : (b.port m).cmds.length < 31) : ((pollHealth b m).port m).cmds = polled (b.port m) := by
  unfold pollHealth polled
  split
  · rw [readLog_room room, issueCmd_port hm]
    rfl
  · rfl

/-- Ports polled in turn, each once. -/
theorem pollHealth_all {l : List Nat} (nodup : l.Nodup) (small : ∀ k ∈ l, k < 4) (room : ∀ k ∈ l, (b.port k).cmds.length < 31) (k : Nat) :
    ((l.foldl pollHealth b).port k).cmds = if k ∈ l then polled (b.port k) else (b.port k).cmds := by
  induction l generalizing b with
  | nil => rfl
  | cons a l ih =>
    obtain ⟨new, nodup⟩ := List.nodup_cons.mp nodup
    have rooma := room a List.mem_cons_self
    have other (i : Nat) (hi : a ≠ i) : (pollHealth b a).port i = b.port i := pollHealth_other rooma hi
    have room' : ∀ i ∈ l, ((pollHealth b a).port i).cmds.length < 31 := fun i hi => by
      rw [other i (fun h => new (h ▸ hi))]
      exact room i (List.mem_cons_of_mem _ hi)
    rw [List.foldl_cons, ih nodup (fun i hi => small i (List.mem_cons_of_mem _ hi)) room']
    by_cases hk : a = k
    · subst hk
      rw [if_neg new, if_pos List.mem_cons_self, pollHealth_self (small a List.mem_cons_self) rooma]
    · rw [other k hk]
      simp [Ne.symm hk]

/-! ### The encryption of a share -/

theorem shareEncryptionRequest_none (h : b.ch.onyxSpinel = []) : shareEncryptionRequest b = b := by
  unfold shareEncryptionRequest
  rw [h]

section
variable {r : EncRequest} {l : List EncRequest} (h : b.ch.onyxSpinel = r :: l)
include h

theorem shareEncryptionRequest_waits (hw : b.accepts .spinel r.sent = false ∨ encryptPart b r = none) : shareEncryptionRequest b = b := by
  have waits : (if b.accepts .spinel r.sent then encryptPart b r else none) = none := by
    obtain hw | hw := hw
    · rw [hw]
      rfl
    · rw [hw, ite_self]
  unfold shareEncryptionRequest
  rw [h]
  dsimp only
  rw [waits]

/-- The request is taken, and the ciphertext lies in its chunk. -/
def ciphered (r : EncRequest) (l : List EncRequest) (v : List Byte) (b : Block) : Block :=
  (b.modCh (fun c => { c with onyxSpinel := l })).dramWrite r.dst v

/-- With Onyx at rest only the Write is issued. -/
theorem shareEncryptionRequest_done {v : List Byte} (ha : b.accepts .spinel r.sent = true) (hv : encryptPart b r = some v)
    (hr : b.onyxAtRest = true) : shareEncryptionRequest b =
      issueCmd r.port (.write r.lba (.dram r.dst v.length) false) (.share r.frame r.index r.member) false (ciphered r l v b) := by
  have rest : (ciphered r l v b).onyxAtRest = true := onyxAtRest_of_view hr rfl rfl
  unfold shareEncryptionRequest
  rw [h]
  dsimp only
  rw [ha, if_pos rfl, hv]
  exact serveOnyx_at_rest (onyxAtRest_issueCmd rest _ _ _)

end

theorem issueCmd_kept (op : NvmeOp) (use : NvmeUse) (retried : Bool) : onlyChanges [.onyx, .out] b (issueCmd m op use retried b) :=
  issueCmd_frame (List.Subset.refl _) (onlyChanges_refl _ b)

end

end Sys2Proof.Machine

section
open Sys2Proof Sys2Proof.Machine

/-- Settles O45: completions without and with an error, the health poll, and the Write of an encrypted share. -/
theorem nvmeCommandsEnd : Obligations.NvmeCommandsEnd := by
  refine ⟨?unknown, ?replay, ?retry, ?errorLog, ?mount, ?poll, ?share, ?shareWaits, ?shareNone, ?lost, ?total, ?pollTotal, ?shareTotal,
    ?shareFails, ?shareIdle⟩
  case unknown => exact fun q b m cid status sqhd data ha _ hc => act_gated ha (nvmeCompletion_none hc)
  case replay => exact fun q b m cid status sqhd data ha hmode => act_gated ha (nvmeCompletion_replay hmode)
  case retry =>
    intro q b m cid status sqhd data c ha hmode hm hc hst hdnr hre hu hroom
    have eq := nvmeCompletion_some (sqhd := sqhd) (status := status) hmode hm hc data
    rw [if_neg hst, if_neg (by rw [hre, hdnr]; decide), if_neg hu] at eq
    have fewer : ((b.port m).done cid).cmds.length < (b.port m).cmds.length := by
      have found := List.find?_some hc
      exact List.length_filter_lt_length_iff_exists.mpr ⟨c, List.mem_of_find?_eq_some hc, by simpa using found⟩
    refine .of_next (act_gated ha eq) ?_
    rw [retried_port hm _ _ (by rw [ended_port hm]; omega), ended_port hm]
    exact ⟨rfl, List.append_assoc .., eq ▸ nvmeCompletion_frame (by decide) (onlyChanges_refl _ b)⟩
  case errorLog =>
    intro q b m cid status sqhd data c ha hmode hm hc hst hu hl hr
    let x := ended m cid status sqhd c b
    have nothing : completed m c data x = x := by
      unfold completed
      rw [hu]
    have port : x.port m = (b.port m).done cid := ended_port hm
    have eq := nvmeCompletion_some (sqhd := sqhd) (status := status) hmode hm hc data
    rw [if_pos hst, nothing, serveOnyx_at_rest (ended_rest hr), readWaiting_none (by rw [port]; exact hl)] at eq
    refine .of_next (act_gated ha eq) ?_
    rw [port]
    exact ⟨rfl, rfl, Block.logEvr_out .., eq ▸ nvmeCompletion_frame (by decide) (onlyChanges_refl _ b)⟩
  case mount =>
    intro q b m cid status sqhd data c ha hmode hm hr hcmds hcid hu ho hs hmt hst hd hl
    have hc : (b.port m).cmds.find? (fun c => c.cid == cid) = some c := by simp [hcmds, hcid]
    have done : (b.port m).cmds.filter (fun x => x.cid != cid) = [] := by simp [hcmds, hcid]
    have eq := nvmeCompletion_mounts (sqhd := sqhd) hmode hm hc data hst ha hr hu ho hs hmt hd done hl
    refine .of_next (act_gated ha eq) ?_
    rw [mountReads_port hm, readPage_port hm]
    exact ⟨rfl, rfl, congrArg (· ++ _) done, eq ▸ nvmeCompletion_frame (by decide) (onlyChanges_refl _ b)⟩
  case poll =>
    intro q b ha room
    refine .of_next (act_gated ha rfl) ⟨fun m hm => ?_, smartPoll_frame (by decide) (onlyChanges_refl _ b)⟩
    rw [smartPoll_eq, pollHealth_all List.nodup_range (fun k hk => List.mem_range.mp hk) (fun k hk => room k (List.mem_range.mp hk)),
      if_pos (List.mem_range.mpr hm)]
    rfl
  case share =>
    intro q b r l v ha he hc hacc hp hv hr
    have eq := shareEncryptionRequest_done hc hacc hv hr
    refine .of_next (act_served ha he eq) ?_
    rw [issueCmd_port hp]
    exact ⟨(congrArg Channels.onyxSpinel (issueCmd_onyx ..).2 :), (issueCmd_kept ..).at_ .dram (by decide), rfl,
      eq ▸ shareEncryptionRequest_frame (by decide) (onlyChanges_refl _ b)⟩
  case shareWaits => exact fun q b r l ha he hc hw => act_served ha he (shareEncryptionRequest_waits hc hw)
  case shareNone => exact fun q b ha he hc => act_served ha he (shareEncryptionRequest_none hc)
  case lost =>
    intro q b m cid status sqhd data c ha hmode hm hc hst hre hl hr hs
    have eq := nvmeCompletion_loses (sqhd := sqhd) hmode hm hc data hst hre
    refine .of_next (act_gated ha eq) ?_
    rw [loseMagazine_erred hm hl hr hs]
    exact ⟨rfl, rfl, eq ▸ nvmeCompletion_frame (by decide) (onlyChanges_refl _ b)⟩
  case total =>
    exact fun q b m cid status sqhd data ha => ⟨act_gated ha rfl, nvmeCompletion_frame (by decide) (onlyChanges_refl _ b)⟩
  case pollTotal => exact fun q b ha => ⟨act_gated ha rfl, smartPoll_frame (by decide) (onlyChanges_refl _ b)⟩
  case shareTotal => exact fun q b ha he => ⟨act_served ha he rfl, shareEncryptionRequest_frame (by decide) (onlyChanges_refl _ b)⟩
  case shareFails => exact fun q b hf => act_served_failing hf rfl
  case shareIdle => exact fun q b hf h => act_served_idle hf h

end
end

section
/-! O46: Segments in retention, expiries, and the flushes of Onyx (09 R244; 10 R278, R286; 14 R393, R394; 15 R412). -/

-- The proofs are elaborated one after another: each waiting in a thread of its own takes more memory than the check allows.
set_option Elab.async false

namespace Sys2Proof.Machine

section
variable {b : Block}

theorem portsIdle_of_ports {x : Block} (h : b.portsIdle = true) (hp : x.onyx.ports = b.onyx.ports) : x.portsIdle = true := by
  unfold Block.portsIdle at h ⊢
  rw [hp]
  exact h

/-! ### A Stripe comes into retention -/

section
variable {k : SegToken} {l : List SegToken} (hc : b.ch.spinelOnyx = k :: l) (ecc : Ecc)
include hc

theorem magazineStripeToken_waits (ha : b.accepts .onyx k.sent = false) : magazineStripeToken ecc b = b := by
  unfold magazineStripeToken
  rw [hc]
  exact if_pos (by rw [ha]; rfl)

/-- The token is taken, and its copy retired. -/
def tokenTaken (k : SegToken) (l : List SegToken) (b : Block) : Block := retireToken k (b.modCh (fun c => { c with spinelOnyx := l }))

variable (ha : b.accepts .onyx k.sent = true)
include ha

theorem magazineStripeToken_gone (hf : k.isFailed = false) (hg : osegGet b k.frame k.index = none) :
    magazineStripeToken ecc b = tokenTaken k l b := by
  have gone : osegGet (tokenTaken k l b) k.frame k.index = none := hg
  unfold magazineStripeToken
  rw [hc]
  dsimp only
  rw [ha, hf]
  unfold tokenTaken at *
  simp only [gone, Bool.not_true, Bool.false_and, Bool.false_eq_true, if_false]

theorem magazineStripeToken_stripe (hf : k.isFailed = false) {g : OnyxSeg} (hg : osegGet b k.frame k.index = some g) :
    magazineStripeToken ecc b = serveOnyx (takeStripe k g ecc (tokenTaken k l b)) := by
  have found : osegGet (tokenTaken k l b) k.frame k.index = some g := hg
  unfold magazineStripeToken
  rw [hc]
  dsimp only
  rw [ha, hf]
  unfold tokenTaken at *
  simp only [found, Bool.not_true, Bool.false_and, Bool.false_eq_true, if_false]

theorem magazineStripeToken_failed (hf : k.isFailed = true) (hn : b.ch.noticeOnyx = []) : magazineStripeToken ecc b =
    serveOnyx (failedToken k (tokenTaken k l b)) := by
  unfold magazineStripeToken
  rw [hc]
  dsimp only
  rw [ha, hf, hn]
  unfold tokenTaken
  simp only [Bool.not_true, Bool.true_and, List.any_nil, Bool.false_eq_true, if_false, if_true]

end

theorem magazineStripeToken_none (hc : b.ch.spinelOnyx = []) (ecc : Ecc) : magazineStripeToken ecc b = b := by
  unfold magazineStripeToken
  rw [hc]

theorem osegGet_none (h : b.onyx.segs = []) (f i : Nat) : osegGet b f i = none := by
  unfold osegGet
  rw [h]
  rfl

theorem osegGet_one {g : OnyxSeg} {f i : Nat} (h : b.onyx.segs = [g]) (hf : g.frame = f) (hi : g.dest.index = i) :
    osegGet b f i = some g := by
  unfold osegGet
  rw [h]
  simp [hf, hi]

theorem tellOpal_spinelOnyx (f : Nat) (n : LedgerNote) (b : Block) : (tellOpal f n b).ch.spinelOnyx = b.ch.spinelOnyx := by
  unfold tellOpal takeNotes
  split
  · rfl
  · exact foldl_keeps (f := fun b (e : Nat × LedgerNote) => winMod e.1 (takeNote e.2) b) (g := fun b => b.ch.spinelOnyx)
      (fun _ _ => rfl) _ _

/-- A Stripe in retention. -/
def stripeKept (k : SegToken) (header : List Byte) (g : OnyxSeg) : OnyxSeg := { g with whole := g.whole || k.header, header }

/-- The one Segment in retention gets a Stripe that was read without error. -/
theorem takeStripe_one {k : SegToken} {g : OnyxSeg} (hs : b.onyx.segs = [g]) (hf : g.frame = k.frame) (hi : g.dest.index = k.index) :
    (takeStripe k g .ok b).onyx = { b.onyx with segs := [stripeKept k (if k.header then b.dramRead g.addr 128 else g.header) g] } ∧
      (takeStripe k g .ok b).ch.spinelOnyx = b.ch.spinelOnyx ∧ (takeStripe k g .ok b).ch.opalOnyx = b.ch.opalOnyx := by
  unfold takeStripe
  extract_lets header b1 b2 b3 map b4
  have side : b4.onyxSide = b3.onyxSide := tellOpal_onyxSide ..
  simp only [Block.onyxSide, Prod.mk.injEq] at side
  obtain ⟨onyx, -, -, decided⟩ := side
  have segs : b3.onyx = { b.onyx with segs := [stripeKept k header g] } := by
    have only : b2.onyx.segs = [g] := hs
    unfold b3 osegMod
    simp only [Block.modOnyx, only, List.map_cons, List.map_nil, if_pos (And.intro hf hi)]
    rfl
  exact ⟨onyx.trans segs, tellOpal_spinelOnyx .., decided⟩

/-! ### Expiries -/

section
variable {f i : Nat} {l : List (Nat × Nat)}

theorem expiryRequest_none (h : b.ch.expiry = []) : expiryRequest b = b := by
  unfold expiryRequest
  rw [h]

variable (hc : b.ch.expiry = (f, i) :: l)
include hc

theorem expiryRequest_unknown (hg : osegGet b f i = none) (ho : b.ch.onyxOpal = []) : expiryRequest b =
    { b with ch := { b.ch with expiry := l, onyxOpal := [⟨f, i, .expired, 0, false, 0, 0⟩] } } := by
  unfold expiryRequest
  rw [hc]
  dsimp only
  rw [hg, ho]
  simp only [List.any_nil, Bool.false_eq_true, if_false, Block.modCh, ho, List.nil_append]

theorem expiryRequest_known {g : OnyxSeg} (hg : osegGet b f i = some g) : expiryRequest b =
    if g.outcome != .pending then { b with ch := { b.ch with expiry := l } }
    else if durable g then serveOnyx (giveOutcome g (durableOutcome g) { b with ch := { b.ch with expiry := l } })
    else if g.parts.any (·.committing) then b
    else serveOnyx (giveOutcome g .expired { b with ch := { b.ch with expiry := l } }) := by
  unfold expiryRequest
  rw [hc]
  dsimp only
  rw [hg]
  rfl

end

/-! ### A flush with no set in force -/

theorem discardAnte_none (h : b.onyx.segs = []) : discardAnte b = b := by
  unfold discardAnte
  rw [heldFrames_none h]
  rfl

/-- The flush that starts. -/
def newFlush (r : EndReason) (ms : Nat) (b : Block) : OnyxFlush :=
  { reason := r, since := b.quartz.tb, ms, cut := false, lost := false, reported := false }

/-- The flush has begun, with these ports kept powered. -/
def flushBegun (r : EndReason) (ms : Nat) (members : List Nat) (b : Block) : Block :=
  (b.modCh (fun c => { c with keepPowered := c.keepPowered ++ [members] })).modOnyx (fun o => { o with flush := some (newFlush r ms b) })

/-- The mounted members of the set in force. -/
def membersOf (b : Block) : List Nat :=
  match b.onyx.set with | some s => s.members.filter (fun m => isMounted (b.port m).state) | none => []

theorem startFlush_rest (h : b.onyxAtRest = true) (r : EndReason) (ms : Nat) :
    startFlush r ms b = serveOnyx (flushBegun r ms (membersOf b) b) := by
  obtain ⟨segs, -, flush, -⟩ := onyxAtRest_iff.mp h
  unfold startFlush
  extract_lets members x
  have discarded : discardAnte x = x := discardAnte_none segs
  rw [if_neg (by rw [show x.onyx.flush = none from flush]; exact Bool.false_ne_true), discarded]
  rfl

/-- A flush with nothing to do is reported. -/
theorem tryReport_memberless {f : OnyxFlush} (hf : b.onyx.flush = some f) (hr : f.reported = false) {x : Bool}
    (hm : (membersOf b).all (fun m => (b.port m).shn && (x || (b.port m).shutDone)) = true) : tryReport x b =
      { b with onyx := { b.onyx with flush := some { f with reported := true } }, ch := { b.ch with
        onyxReport := b.ch.onyxReport ++ [!f.lost] } } := by
  unfold tryReport
  rw [hf]
  dsimp only
  rw [hr]
  refine (if_neg ?_).trans rfl
  change ¬(false || !(membersOf b).all _) = true
  rw [hm]
  decide

theorem membersOf_none (h : b.onyx.set = none) : membersOf b = [] := by
  unfold membersOf
  rw [h]

theorem onyxIdle_of_unset (hg : b.onyx.segs = []) (ht : b.onyx.takes = []) (hp : b.portsIdle = true) (hr : b.onyx.rolls = [])
    (hd : b.ch.opalOnyx = []) (hs : b.onyx.set = none) : b.OnyxIdle :=
  ⟨fun g h => absurd h (by rw [hg]; exact List.not_mem_nil), ht, hp, hr, hd, .inr hs⟩

/-- Onyx at rest with no set in force reports at once. -/
theorem startFlush_unset (h : b.onyxAtRest = true) (hs : b.onyx.set = none) (ha : b.alive .onyx = true) (r : EndReason) (ms : Nat) :
    startFlush r ms b = { b with
      onyx := { b.onyx with flush := some { newFlush r ms b with reported := true } }
      ch := { b.ch with keepPowered := b.ch.keepPowered ++ [[]], onyxReport := b.ch.onyxReport ++ [true] } } := by
  obtain ⟨segs, takes, -, ports, rolls, decided⟩ := onyxAtRest_iff.mp h
  let x := flushBegun r ms [] b
  have idle : x.OnyxIdle := onyxIdle_of_unset segs takes ports rolls decided hs
  have members : membersOf x = [] := membersOf_none hs
  rw [startFlush_rest h, membersOf_none hs, idle.serveOnyx, if_neg (by rw [show x.alive .onyx = true from ha]; exact Bool.false_ne_true),
    tryReport_memberless (f := newFlush r ms b) rfl rfl (by rw [members]; rfl)]
  rfl

theorem startFlush_again (hf : b.onyx.flush.isSome = true) (r : EndReason) (ms : Nat) :
    startFlush r ms b = b.modCh (fun c => { c with keepPowered := c.keepPowered ++ [membersOf b] }) := if_pos hf

/-! ### The events of Topaz -/

section
variable {l : List TopazEvent}

theorem onyxPowerLoss_none (h : b.ch.topazOnyx = []) : onyxPowerLoss b = b := by
  unfold onyxPowerLoss
  rw [h]

theorem onyxShutdown_none (h : b.ch.topazOnyx = []) : onyxShutdown b = b := by
  unfold onyxShutdown
  rw [h]

/-- The event is taken. -/
def topazTaken (l : List TopazEvent) (b : Block) : Block := b.modCh (fun c => { c with topazOnyx := l })

theorem onyxShutdown_event (h : b.ch.topazOnyx = .shutdown :: l) : onyxShutdown b =
    startFlush (if b.topaz.fatal then .islandFault else .shutdown) (shutMs b) (topazTaken l b) := by
  unfold onyxShutdown
  rw [h]
  rfl

theorem onyxPowerLoss_event {ms : Nat} (h : b.ch.topazOnyx = .loss ms :: l) : onyxPowerLoss b =
    startFlush .powerLoss ms ((topazTaken l b).modOnyx (fun o => { o with
      flush := o.flush.map (fun f => { f with reason := .powerLoss, since := b.quartz.tb, ms }) })) := by
  unfold onyxPowerLoss
  rw [h]
  rfl

theorem onyxPowerLoss_first {ms : Nat} (h : b.ch.topazOnyx = .loss ms :: l) (hf : b.onyx.flush = none) : onyxPowerLoss b =
    startFlush .powerLoss ms (topazTaken l b) := by
  rw [onyxPowerLoss_event h]
  refine congrArg (startFlush .powerLoss ms) ?_
  unfold topazTaken Block.modOnyx Block.modCh
  simp only [hf, Option.map_none]
  rw [← hf]

theorem onyxPowerLoss_second {ms : Nat} {f : OnyxFlush} (h : b.ch.topazOnyx = .loss ms :: l) (hf : b.onyx.flush = some f)
    (hs : b.onyx.set = none) : onyxPowerLoss b = { b with
      onyx := { b.onyx with flush := some { f with reason := .powerLoss, since := b.quartz.tb, ms } }
      ch := { b.ch with topazOnyx := l, keepPowered := b.ch.keepPowered ++ [[]] } } := by
  let x := (topazTaken l b).modOnyx (fun o => { o with
    flush := o.flush.map (fun f => { f with reason := .powerLoss, since := b.quartz.tb, ms }) })
  have running : x.onyx.flush.isSome = true := by
    show (b.onyx.flush.map _).isSome = true
    rw [hf]
    rfl
  have members : membersOf x = [] := membersOf_none hs
  rw [onyxPowerLoss_event h, startFlush_again running, members]
  simp only [x, topazTaken, Block.modOnyx, Block.modCh, hf, Option.map_some]

end

/-! ### A member told to shut down -/

section
variable {m : Nat} {s : MagSet} {f : OnyxFlush}

theorem pumpPort_shn {k : Nat} (hb : serialBusy (b.port m) = false) (hl : isLive (b.port m).state = true) {rest : List PortStep}
    (h : (b.port m).steps = .shn :: rest) :
    pumpPort m (k + 1) b = pumpPort m k (portMod m (fun p => { p with shn := true }) (portMod m (fun p => { p with steps := rest }) b)) := by
  rw [pumpPort]
  simp only [hb, hl, h, Bool.not_true, Bool.or_false, Bool.false_eq_true, if_false]
  rfl

/-- The flush runs with one mounted member, all at rest. -/
structure Block.MemberFlush (m : Nat) (s : MagSet) (f : OnyxFlush) (b : Block) : Prop where
  segs : b.onyx.segs = []
  takes : b.onyx.takes = []
  ports : b.portsIdle = true
  rolls : b.onyx.rolls = []
  decided : b.ch.opalOnyx = []
  flush : b.onyx.flush = some f
  set : b.onyx.set = some s
  members : s.members = [m]
  mounted : isMounted (b.port m).state = true
  cmds : (b.port m).cmds = []

namespace Block.MemberFlush

theorem quiet (h : b.MemberFlush m s f) (k : Nat) : b.PortQuiet k := by
  obtain ⟨-, -, slow, rehomed⟩ := port_idle h.ports k
  refine ⟨?_, slow, rehomed⟩
  unfold queueOf
  rw [h.segs]
  rfl

theorem servePort_other (h : b.MemberFlush m s f) {k : Nat} (hk : k ≠ m) : servePort b k = b := by
  obtain ⟨steps, clips, -, -⟩ := port_idle h.ports k
  have other : isMember b k = false := by
    unfold isMember
    rw [h.set]
    simp [h.members, hk]
  have same : pumped k b = b := pumped_idle (h.quiet k).queue steps clips (by rw [other, Bool.and_false])
  rw [servePort_quiet (same.symm ▸ h.quiet k), same]

/-- The member's shutdown is its next work, once. -/
theorem nextWork_shutdown (h : b.MemberFlush m s f) : nextWork m b =
    if (b.port m).shn then b else Machine.portMod m (fun p => { p with steps := [.shn] }) b := by
  obtain ⟨-, clips, -, -⟩ := port_idle h.ports m
  have member : isMember b m = true := by
    unfold isMember
    rw [h.set]
    simp [h.members]
  have noRun : commitRun b m = [] := by simp [commitRun, (h.quiet m).queue]
  unfold nextWork
  simp only [h.mounted, noRun, clips, h.flush, member, (h.quiet m).queue, openTake_none h.takes, h.segs, List.isEmpty_nil,
    Bool.not_true, Bool.false_eq_true, if_false, Option.isSome_some, Option.isNone_none, List.any_nil, Bool.not_false, Bool.and_true,
    Bool.true_and]
  cases (b.port m).shn <;> rfl

/-- CC.SHN of the port is set. -/
def toldPort (p : Port) : Port := { p with shn := true }

/-- CC.SHN of the member is set. -/
def told (m : Nat) (b : Block) : Block := portMod m toldPort b

theorem told_port (hm : m < 4) : (told m b).port m = { b.port m with shn := true } := portMod_port_self hm _

theorem told_flush (h : b.MemberFlush m s f) (hm : m < 4) : (told m b).MemberFlush m s f := by
  obtain ⟨segs, takes, ports, rolls, decided, flush, set, members, mounted, cmds⟩ := h
  refine ⟨segs, takes, portMod_portsIdle (f := toldPort) (fun _ => ⟨rfl, rfl, rfl, rfl⟩) ports, rolls, decided, flush, set, members, ?_, ?_⟩
  · rw [told_port hm]
    exact mounted
  · rw [told_port hm]
    exact cmds

theorem live (h : b.MemberFlush m s f) : isLive (b.port m).state = true := by
  unfold isLive
  rw [h.mounted]
  rfl

theorem pumped_told (h : b.MemberFlush m s f) (hs : (b.port m).shn = true) {k : Nat} : pumpPort m (k + 1) b = b := by
  obtain ⟨steps, clips, -, -⟩ := port_idle h.ports m
  have idle : serialBusy (b.port m) = false := by
    unfold serialBusy
    rw [h.cmds]
    rfl
  rw [pumpPort]
  simp only [idle, h.live, steps, clips, h.nextWork_shutdown, hs, Bool.not_true, Bool.or_false, Bool.false_eq_true, if_false, if_true,
    List.isEmpty_nil, beq_self_eq_true, Bool.and_true]

theorem pumped_untold (h : b.MemberFlush m s f) (hm : m < 4) (hs : (b.port m).shn = false) : pumped m b = told m b := by
  obtain ⟨steps, clips, -, -⟩ := port_idle h.ports m
  have idle : serialBusy (b.port m) = false := by
    unfold serialBusy
    rw [h.cmds]
    rfl
  let x := Machine.portMod m (fun p => { p with steps := [.shn] }) b
  have px : x.port m = { b.port m with steps := [.shn] } := portMod_port_self hm _
  have first : pumpPort m (22 + 1 + 1) b = pumpPort m (22 + 1) x := by
    rw [pumpPort]
    simp only [idle, h.live, steps, clips, h.nextWork_shutdown, hs, Bool.not_true, Bool.or_false, Bool.false_eq_true, if_false]
    exact if_neg (by rw [show (Machine.portMod m _ b).port m = _ from px]; exact Bool.false_ne_true)
  have second : pumpPort m (22 + 1) x = pumpPort m 22 (told m b) := by
    rw [pumpPort_shn (rest := []) (by rw [px]; exact idle) (by rw [px]; exact h.live) (by rw [px])]
    refine congrArg (pumpPort m 22) ?_
    unfold x told
    rw [portMod_portMod hm, portMod_portMod hm]
    exact portMod_congr (by rw [toldPort, ← steps])
  unfold pumped
  rw [steps]
  exact first.trans (second.trans ((h.told_flush hm).pumped_told (k := 21) (by rw [told_port hm])))

theorem still (h : b.MemberFlush m s f) (hs : (b.port m).shn = true) (k : Nat) : servePort b k = b := by
  by_cases hk : k = m
  · obtain ⟨steps, -, -, -⟩ := port_idle h.ports m
    have same : pumped m b = b := by
      unfold pumped
      rw [steps]
      exact h.pumped_told hs (k := 23)
    rw [hk, servePort_quiet (same.symm ▸ h.quiet m), same]
  · exact h.servePort_other hk

/-- The member is told, and the flush goes on until it has shut down. -/
theorem serveOnyx (h : b.MemberFlush m s f) (ha : b.alive .onyx = true) (hm : m < 4) (hs : (b.port m).shn = false)
    (hd : (b.port m).shutDone = false) : Machine.serveOnyx b = told m b := by
  have taken : takeDecided b = b := by simp [takeDecided, h.decided]
  have settled : settleSegs b = b := by
    unfold settleSegs
    rw [h.segs]
    rfl
  have run := h.pumped_untold hm hs
  have after := h.told_flush hm
  have turn : servePort b m = told m b := (servePort_quiet (run.symm ▸ after.quiet m)).trans run
  have waits : (membersOf (told m b)).all (fun k => ((told m b).port k).shn && (false || ((told m b).port k).shutDone)) = false := by
    unfold membersOf
    rw [after.set]
    simpa [after.members, told_port hm, hd] using h.mounted
  rw [serveOnyx_turns ha taken settled hm (fun k hk => h.servePort_other hk) turn (after.still (by rw [told_port hm])) after.rolls
    after.takes]
  unfold tryReport
  rw [after.flush]
  dsimp only
  refine if_pos ?_
  change (f.reported || !(membersOf (told m b)).all _) = true
  rw [waits]
  exact Bool.or_true _

end Block.MemberFlush

end

/-! ### Deadlines -/

section
variable {f : OnyxFlush}

theorem flushWriteDeadline_none (h : b.onyx.flush = none) : flushWriteDeadline b = b := by
  unfold flushWriteDeadline
  rw [h]

theorem flushWriteDeadline_cut (h : b.onyx.flush = some f) (hc : f.cut = true) : flushWriteDeadline b = b := by
  unfold flushWriteDeadline
  rw [h]
  exact if_pos hc

theorem tryReport_reported (h : b.onyx.flush = some f) (hr : f.reported = true) (x : Bool) : tryReport x b = b := by
  unfold tryReport
  rw [h]
  dsimp only
  exact if_pos (by rw [hr, Bool.true_or])

/-- A flush that has reported and has no work is cut. -/
theorem flushWriteDeadline_reported (h : b.onyx.flush = some f) (hc : f.cut = false) (hr : f.reported = true) (hi : b.OnyxIdle)
    (hg : b.onyx.segs = []) (hs : b.onyx.set = none) : flushWriteDeadline b =
      { b.advance (f.since + ownTicks b .onyx f.since (1024000 * (f.ms - 600))) with onyx := { b.onyx with flush := some { f with cut := true } } } := by
  unfold flushWriteDeadline
  rw [h]
  dsimp only
  rw [if_neg (by rw [hc]; exact Bool.false_ne_true)]
  let x := b.advance (f.since + ownTicks b .onyx f.since (1024000 * (f.ms - 600)))
  let y := x.modOnyx (fun o => { o with flush := some { f with cut := true } })
  have onyx : x.onyx = b.onyx := Block.advance_onyx ..
  have yonyx : y.onyx = { b.onyx with flush := some { f with cut := true } } :=
    congrArg (fun o : Onyx => { o with flush := some { f with cut := true } }) onyx
  have takes : y.onyx.takes = [] := (congrArg Onyx.takes yonyx :).trans hi.takes
  have segs : y.onyx.segs = [] := (congrArg Onyx.segs yonyx :).trans hg
  have ended : endOnyxTake f.reason none y = y := by
    unfold endOnyxTake
    rw [openTake_none takes]
  have ports : y.portsIdle = true := portsIdle_of_ports hi.ports (congrArg Onyx.ports yonyx :)
  have idle : y.OnyxIdle := onyxIdle_of_unset segs takes ports ((congrArg Onyx.rolls yonyx :).trans hi.rolls)
    ((congrArg Channels.opalOnyx (Block.advance_ch ..) :).trans hi.decided) ((congrArg Onyx.set yonyx :).trans hs)
  rw [show endOnyxTake f.reason none _ = y from ended, segs]
  dsimp only [List.filter_nil, List.foldl_nil]
  rw [idle.serveOnyx, tryReport_reported (b := y) rfl hr, ite_self]
  show { x with onyx := y.onyx } = _
  rw [yonyx]

end

end

end Sys2Proof.Machine

section
open Sys2Proof Sys2Proof.Machine

/-- Settles O46: Stripes that come into retention, expiries, and the flushes of a power loss and a shutdown. -/
theorem segmentsAndFlushesEndInOnyx : Obligations.SegmentsAndFlushesEndInOnyx := by
  refine ⟨?gone, ?stripe, ?unknown, ?decided, ?loss, ?shutdown, ?member, ?uncut, ?cut, ?timeout, ?unflushed, ?reported, ?cutAlready,
    ?noLoss, ?noShutdown, ?again, ?noExpiry, ?committing, ?expires, ?durable, ?noToken, ?otherGen, ?kept, ?failed, ?stripeTotal,
    ?stripeFails, ?stripeIdle, ?expiryTotal, ?expiryFails, ?expiryIdle, ?lossTotal, ?shutdownTotal, ?deadlineTotal, ?waitTotal⟩
  case gone =>
    exact fun q b ecc k l ha he hc hacc hf hg => act_served ha he (magazineStripeToken_gone hc ecc hacc hf (osegGet_none hg _ _))
  case stripe =>
    intro q b k l g ha he hc hacc hf hs hgf hgi htk hout htakes hflush hrolls hdec hports
    let x := tokenTaken k l b
    let y := takeStripe k g .ok x
    obtain ⟨onyx, rest, told⟩ := takeStripe_one (b := x) hs hgf hgi
    have segs := congrArg Onyx.segs onyx
    have ports : y.portsIdle = true := portsIdle_of_ports hports (congrArg Onyx.ports onyx :)
    have flush : y.onyx.flush = none := (congrArg Onyx.flush onyx :).trans hflush
    have idle : y.OnyxIdle := ⟨fun g' hg => by rw [segs] at hg; rw [List.mem_singleton.mp hg]; exact htk,
      (congrArg Onyx.takes onyx :).trans htakes, ports, (congrArg Onyx.rolls onyx :).trans hrolls, told.trans hdec, .inl flush⟩
    have eq : magazineStripeToken .ok b = y :=
      (magazineStripeToken_stripe hc .ok hacc hf (osegGet_one hs hgf hgi)).trans (idle.serveOnyx_same flush)
    exact .of_next (act_served ha he eq) ⟨rest, onyx, eq ▸ magazineStripeToken_frame (by decide) (onlyChanges_refl _ b)⟩
  case unknown =>
    exact fun q b f i l ha he hc hg ho => act_served ha he (expiryRequest_unknown hc (osegGet_none hg _ _) ho)
  case decided =>
    exact fun q b f i l g ha he hc hg ho => act_served ha he ((expiryRequest_known hc hg).trans (if_pos (bne_iff_ne.mpr ho)))
  case loss =>
    intro q b ms l ha hc hr hs
    exact act_gated ha ((onyxPowerLoss_first hc (onyxAtRest_parts hr).2.2).trans
      (startFlush_unset (b := topazTaken l b) hr hs ha .powerLoss ms))
  case shutdown =>
    exact fun q b l ha hc hr hs => act_gated ha ((onyxShutdown_event hc).trans (startFlush_unset (b := topazTaken l b) hr hs ha _ _))
  case member =>
    intro q b ms l s m ha hc hr hs hmem hm hmt hcmds hshn hdone
    let x := topazTaken l b
    obtain ⟨segs, takes, flush, ports, rolls, decided⟩ := onyxAtRest_iff.mp hr
    have members : membersOf x = [m] := by
      unfold membersOf
      rw [show x.onyx.set = some s from hs]
      simp only [hmem]
      exact List.filter_cons_of_pos hmt
    let y := flushBegun .powerLoss ms [m] x
    have running : y.MemberFlush m s (newFlush .powerLoss ms x) :=
      ⟨segs, takes, ports, rolls, decided, rfl, hs, hmem, hmt, hcmds⟩
    have eq : onyxPowerLoss b = Block.MemberFlush.told m y := by
      rw [onyxPowerLoss_first hc flush, startFlush_rest (b := x) hr, members]
      exact running.serveOnyx ha hm hshn hdone
    refine .of_next (act_gated ha eq) ⟨?_, rfl, rfl, rfl, rfl, eq ▸ onyxPowerLoss_frame (by decide) (onlyChanges_refl _ b)⟩
    rw [Block.MemberFlush.told_port hm]
  case uncut => exact fun q b ha hf => act_gated ha (flushWriteDeadline_none hf)
  case cut =>
    intro q b f ha hf hc hr hg ht hro hd hp hs
    exact act_gated ha (flushWriteDeadline_reported hf hc hr (onyxIdle_of_unset hg ht hp hro hd hs) hg hs)
  case timeout =>
    intro q b f s ha hf hr hs hm
    refine act_gated ha (tryReport_memberless hf hr ?_)
    unfold membersOf
    rw [hs]
    refine List.all_eq_true.mpr (fun m h => ?_)
    rw [hm m (List.mem_filter.mp h).1]
    rfl
  case unflushed => exact fun q b ha hf => act_gated ha (tryReport_unflushed hf true)
  case reported => exact fun q b f ha hf hr => act_gated ha (tryReport_reported hf hr true)
  case cutAlready => exact fun q b f ha hf hc => act_gated ha (flushWriteDeadline_cut hf hc)
  case noLoss => exact fun q b ha hc => act_gated ha (onyxPowerLoss_none hc)
  case noShutdown => exact fun q b ha hc => act_gated ha (onyxShutdown_none hc)
  case again => exact fun q b ms l f ha hc hf hs => act_gated ha (onyxPowerLoss_second hc hf hs)
  case noExpiry => exact fun q b ha he hc => act_served ha he (expiryRequest_none hc)
  case committing =>
    intro q b f i l g ha he hc hg ho hd hp
    exact act_served ha he ((expiryRequest_known hc hg).trans (by simp [ho, hd, hp]))
  case expires =>
    intro q b f i l g ha he hc hg ho hd hp
    exact act_served ha he ((expiryRequest_known hc hg).trans (by simp [ho, hd, hp]))
  case durable =>
    intro q b f i l g ha he hc hg ho hd
    exact act_served ha he ((expiryRequest_known hc hg).trans (by simp [ho, hd]))
  case noToken => exact fun q b ecc ha he hc => act_served ha he (magazineStripeToken_none hc ecc)
  case otherGen => exact fun q b ecc k l ha he hc hacc => act_served ha he (magazineStripeToken_waits hc ecc hacc)
  case kept => exact fun q b ecc k l g ha he hc hacc hf hg => act_served ha he (magazineStripeToken_stripe hc ecc hacc hf hg)
  case failed => exact fun q b ecc k l ha he hc hacc hf hn => act_served ha he (magazineStripeToken_failed hc ecc hacc hf hn)
  case stripeTotal => exact fun q b ecc ha he => ⟨act_served ha he rfl, magazineStripeToken_frame (by decide) (onlyChanges_refl _ b)⟩
  case stripeFails => exact fun q b ecc hf => act_served_failing hf rfl
  case stripeIdle => exact fun q b ecc hf h => act_served_idle hf h
  case expiryTotal => exact fun q b ha he => ⟨act_served ha he rfl, expiryRequest_frame (by decide) (onlyChanges_refl _ b)⟩
  case expiryFails => exact fun q b hf => act_served_failing hf rfl
  case expiryIdle => exact fun q b hf h => act_served_idle hf h
  case lossTotal => exact fun q b ha => ⟨act_gated ha rfl, onyxPowerLoss_frame (by decide) (onlyChanges_refl _ b)⟩
  case shutdownTotal => exact fun q b ha => ⟨act_gated ha rfl, onyxShutdown_frame (by decide) (onlyChanges_refl _ b)⟩
  case deadlineTotal => exact fun q b ha => ⟨act_gated ha rfl, flushWriteDeadline_frame (by decide) (onlyChanges_refl _ b)⟩
  case waitTotal => exact fun q b ha => ⟨act_gated ha rfl, shutdownWaitTimeout_frame (by decide) (onlyChanges_refl _ b)⟩

end
end

section
/-! The engines of Agate: what the start of a cycle leaves, and what the end of one does to each engine (13 R353 to R362). -/

-- The proofs are elaborated one after another: each waiting in a thread of its own takes more memory than the check allows.
set_option Elab.async false

namespace Sys2Proof.Machine

/-! ### Settings of the engines -/

/-- What decides over the engines' windows, queues and gangs. -/
def Block.seqSettings (b : Block) : List (Nat × Word) × Bool × Bool := (b.regs, b.agate.gangLo, b.agate.gangHi)

section
variable {b c : Block} (h : c.seqSettings = b.seqSettings)
include h

theorem regs_of_settings : c.regs = b.regs := congrArg Prod.fst h

theorem field_of_settings (off hi lo : Nat) : c.field off hi lo = b.field off hi lo := by
  unfold Block.field Block.reg
  rw [regs_of_settings h]

theorem ganged_of_settings (n : Nat) : ganged c n = ganged b n := by
  simp only [Block.seqSettings, Prod.mk.injEq] at h
  obtain ⟨-, lo, hi⟩ := h
  unfold ganged
  rw [lo, hi]

theorem leader_of_settings (n : Nat) : leader c n = leader b n := by
  unfold leader
  rw [ganged_of_settings h]

theorem crew_of_settings (n : Nat) : crew c n = crew b n := by
  unfold crew
  rw [ganged_of_settings h]

end

/-! ### Engines that change -/

section
variable {b : Block}

theorem engMod_engine (m k : Nat) (f : Engine → Engine) : (engMod m f b).engine k = if m = k ∧ k < 8 then f (b.engine m) else b.engine k :=
  vget_vset ..

theorem engMod_engine_self {m : Nat} (hm : m < 8) (f : Engine → Engine) : (engMod m f b).engine m = f (b.engine m) :=
  (engMod_engine ..).trans (if_pos ⟨rfl, hm⟩)

theorem engMod_engine_other {m k : Nat} (hk : m ≠ k) (f : Engine → Engine) : (engMod m f b).engine k = b.engine k :=
  (engMod_engine ..).trans (if_neg (fun h => hk h.1))

section
variable {op : Nat → Block → Block} {P : Block → Prop} (keeps : ∀ i x, P x → P (op i x)) {n : Nat}
  (other : ∀ i x, P x → i ≠ n → (op i x).engine n = x.engine n) {l : List Nat}
include keeps other

/-- What is done for other engines in turn leaves an engine. -/
theorem foldl_engine_outside (hl : n ∉ l) {x : Block} (hx : P x) :
    P (l.foldl (fun x i => op i x) x) ∧ (l.foldl (fun x i => op i x) x).engine n = x.engine n := by
  induction l generalizing x with
  | nil => exact ⟨hx, rfl⟩
  | cons a l ih =>
    obtain ⟨ne, nl⟩ := not_or.mp (fun h => hl (List.mem_cons.mpr h))
    obtain ⟨after, same⟩ := ih nl (keeps a x hx)
    exact ⟨after, same.trans (other a x hx (Ne.symm ne))⟩

/-- What is done for each engine in turn is done once to an engine of the list, as it was. -/
theorem foldl_engine_once (nodup : l.Nodup) (hn : n ∈ l) {x : Block} (hx : P x) :
    ∃ y, P y ∧ y.engine n = x.engine n ∧ (l.foldl (fun x i => op i x) x).engine n = (op n y).engine n := by
  obtain ⟨before, after, rfl⟩ := List.append_of_mem hn
  have apart := List.nodup_append.mp nodup
  have notBefore : n ∉ before := fun h => apart.2.2 n h n List.mem_cons_self rfl
  have notAfter : n ∉ after := (List.nodup_cons.mp apart.2.1).1
  obtain ⟨hy, same⟩ := foldl_engine_outside keeps other notBefore hx
  refine ⟨_, hy, same, ?_⟩
  rw [List.foldl_append, List.foldl_cons]
  exact (foldl_engine_outside keeps other notAfter (keeps n _ hy)).2

end

/-- What is done to the engines of a list in turn, when each deals with its own engine alone. -/
theorem foldl_engines {op : Nat → Block → Block} {F : Nat → Engine} {s : Block} (keeps : ∀ m x, (op m x).seqSettings = x.seqSettings)
    (self : ∀ m x, m < 8 → x.seqSettings = s.seqSettings → x.engine m = s.engine m → (op m x).engine m = F m)
    (other : ∀ m k x, m ≠ k → (op m x).engine k = x.engine k) {l : List Nat} (nodup : l.Nodup) (small : ∀ m ∈ l, m < 8) :
    (∀ m ∈ l, (l.foldl (fun x m => op m x) s).engine m = F m) ∧
      (∀ k, k ∉ l → (l.foldl (fun x m => op m x) s).engine k = s.engine k) := by
  have kept : ∀ i x, x.seqSettings = s.seqSettings → (op i x).seqSettings = s.seqSettings := fun i x h => (keeps i x).trans h
  refine ⟨fun m hm => ?_, fun k hk => (foldl_engine_outside kept (fun i x _ hi => other i k x hi) hk rfl).2⟩
  obtain ⟨y, settings, same, once⟩ := foldl_engine_once kept (fun i x _ hi => other i m x hi) nodup hm (x := s) rfl
  exact once.trans (self m y (small m hm) settings same)

/-- The same, of changes that look at no more than their own engine. -/
theorem foldl_engMod (f : Nat → Engine → Engine) {l : List Nat} (nodup : l.Nodup) (small : ∀ m ∈ l, m < 8) (s : Block) :
    (∀ m ∈ l, (l.foldl (fun x m => engMod m (f m) x) s).engine m = f m (s.engine m)) ∧
      (∀ k, k ∉ l → (l.foldl (fun x m => engMod m (f m) x) s).engine k = s.engine k) :=
  foldl_engines (op := fun m => engMod m (f m)) (fun _ _ => rfl)
    (fun m x hm _ same => by rw [engMod_engine_self hm, same]) (fun _ _ _ hk => engMod_engine_other hk _) nodup small

/-! ### Engines that a cycle is of -/

theorem runs_iff {n : Nat} : runs b n = true ↔ n < 8 ∧ (b.engine n).en = true ∧ leader b n = n := by
  simp only [runs, Bool.and_eq_true, decide_eq_true_eq, beq_iff_eq, and_assoc]

theorem crew_nodup (b : Block) (n : Nat) : (crew b n).Nodup := by
  unfold crew
  split
  · exact List.nodup_range.map (fun x y h => Nat.add_right_cancel h)
  · exact List.nodup_singleton n

theorem crew_lt {n m : Nat} (hn : n < 8) (hm : m ∈ crew b n) : m < 8 := by
  unfold crew at hm
  split at hm
  · obtain ⟨k, hk, rfl⟩ := List.mem_map.mp hm
    have := List.mem_range.mp hk
    omega
  · rwa [List.mem_singleton.mp hm]

/-- The engines of a crew have its leader. -/
theorem leader_of_crew {n m : Nat} (hl : leader b n = n) (hm : m ∈ crew b n) : leader b m = n := by
  unfold crew at hm
  split at hm
  case isTrue g =>
    obtain ⟨k, hk, rfl⟩ := List.mem_map.mp hm
    have small := List.mem_range.mp hk
    have whole : n / 4 * 4 = n := by
      unfold leader at hl
      rwa [if_pos g] at hl
    have group : (k + n / 4 * 4) / 4 = n / 4 := by omega
    have together : ganged b (k + n / 4 * 4) = ganged b n := by
      unfold ganged
      have : k + n / 4 * 4 < 4 ↔ n < 4 := by omega
      simp only [this]
    unfold leader
    rw [together, if_pos g, group, whole]
  case isFalse => rwa [List.mem_singleton.mp hm]

theorem self_mem_crew {n : Nat} (hl : leader b n = n) : n ∈ crew b n := by
  unfold leader at hl
  unfold crew
  split
  case isTrue g =>
    rw [if_pos g] at hl
    exact List.mem_map.mpr ⟨0, by decide, by omega⟩
  case isFalse => exact List.mem_singleton_self n

/-! ### A cycle begins -/

/-- What the start of a cycle leaves of an engine. -/
def Engine.steady (e : Engine) : Engine := { e with latches := blankEngine.latches, word := 0, sample := blankSample, first := true }

/-- Agate but for its engines and the cycles due. -/
def Block.seqRest (b : Block) : Agate := { b.agate with eng := .replicate 8 blankEngine, due := .replicate 8 false }

theorem steady_congr {x y : Engine} (h : x = y) : x.steady = y.steady := congrArg _ h

theorem engMod_steady {m : Nat} {f : Engine → Engine} (hf : ∀ e, (f e).steady = e.steady) (k : Nat) :
    ((engMod m f b).engine k).steady = (b.engine k).steady := by
  rw [engMod_engine]
  split
  case isTrue h => rw [hf, h.1]
  case isFalse => rfl

/-- An engine fetches its word, and takes what its cycle sees. -/
def fetchCycle (w : Half) (first : Bool) (m : Nat) (b : Block) : Block :=
  engMod m (fun e => { e with word := w, first, sample := takeSample b m }) b

/-- CAD NEXT clears its latch at the start of its first cycle. -/
def clearedNext (w : Half) (first : Bool) (e : Engine) : Engine :=
  if first && opOf w = 9 && bitOf w.toNat 11 then { e with latches := vset e.latches (bitsOf w.toNat 7 3) false } else e

/-- The word that a cycle about to begin fetches, and whether it is a new instruction. -/
def nextWord (b : Block) (n : Nat) : Half := vget b.agate.store (b.engine n).pc 0
def isFirst (b : Block) (n : Nat) : Bool := (b.engine n).stall == .none_ || nextWord b n != (b.engine n).word

theorem startCycle_runs {n : Nat} (hr : runs b n = true) : startCycle n b =
    (crew (engMod n (clearedNext (nextWord b n) (isFirst b n)) b) n).foldl (fun y m => fetchCycle (nextWord b n) (isFirst b n) m y)
      (engMod n (clearedNext (nextWord b n) (isFirst b n)) b) :=
  if_neg (by rw [hr]; exact Bool.false_ne_true)

theorem startCycle_stopped {n : Nat} (hr : runs b n = false) : startCycle n b = b := if_pos (by rw [hr]; rfl)

theorem clearedNext_steady (w : Half) (first : Bool) (e : Engine) : (clearedNext w first e).steady = e.steady := by
  unfold clearedNext
  split <;> rfl

theorem fetchCycle_steady (w : Half) (first : Bool) (m k : Nat) (b : Block) :
    ((fetchCycle w first m b).engine k).steady = (b.engine k).steady :=
  engMod_steady (f := fun e => { e with word := w, first, sample := takeSample b m }) (fun _ => rfl) k

/-- A cycle that begins leaves of each engine what it holds, and all else of Agate but the cycles due. -/
theorem startCycle_keeps (n : Nat) (b : Block) : (startCycle n b).seqRest = b.seqRest ∧ (startCycle n b).seqSettings = b.seqSettings ∧
    (startCycle n b).agate.due = b.agate.due ∧ ∀ k, ((startCycle n b).engine k).steady = (b.engine k).steady := by
  cases hr : runs b n with
  | false =>
    rw [startCycle_stopped hr]
    exact ⟨rfl, rfl, rfl, fun _ => rfl⟩
  | true =>
    rw [startCycle_runs hr]
    let w := nextWord b n
    let first := isFirst b n
    let x := engMod n (clearedNext w first) b
    let f (y : Block) (m : Nat) : Block := fetchCycle w first m y
    refine ⟨?_, ?_, ?_, fun k => ?_⟩
    · exact foldl_keeps (f := f) (g := Block.seqRest) (fun _ _ => rfl) _ x
    · exact foldl_keeps (f := f) (g := Block.seqSettings) (fun _ _ => rfl) _ x
    · exact foldl_keeps (f := f) (g := fun b => b.agate.due) (fun _ _ => rfl) _ x
    · have same : ((x.engine k).steady) = (b.engine k).steady := engMod_steady (clearedNext_steady w first) k
      exact (foldl_keeps (f := f) (g := fun b => (b.engine k).steady) (fun y m => fetchCycle_steady w first m k y) _ x).trans same

theorem startDue_keeps (b : Block) : (startDue b).seqRest = b.seqRest ∧ (startDue b).seqSettings = b.seqSettings ∧
    (startDue b).agate.due = .replicate 8 false ∧ ∀ k, ((startDue b).engine k).steady = (b.engine k).steady := by
  unfold startDue
  extract_lets due
  refine ⟨?_, ?_, ?_, fun k => ?_⟩
  · refine (foldl_keeps (g := Block.seqRest) (fun x n => ?_) _ _).trans rfl
    split
    · exact (startCycle_keeps n x).1
    · rfl
  · refine (foldl_keeps (g := Block.seqSettings) (fun x n => ?_) _ _).trans rfl
    split
    · exact (startCycle_keeps n x).2.1
    · rfl
  · refine (foldl_keeps (g := fun b => b.agate.due) (fun x n => ?_) _ _).trans rfl
    split
    · exact (startCycle_keeps n x).2.2.1
    · rfl
  · refine (foldl_keeps (g := fun b => (b.engine k).steady) (fun x n => ?_) _ _).trans rfl
    split
    · exact (startCycle_keeps n x).2.2.2 k
    · rfl

theorem startDue_settings (b : Block) : (startDue b).seqSettings = b.seqSettings := (startDue_keeps b).2.1

theorem startDue_due (b : Block) : (startDue b).agate.due = .replicate 8 false := (startDue_keeps b).2.2.1

theorem startDue_steady (b : Block) (k : Nat) : ((startDue b).engine k).steady = (b.engine k).steady := (startDue_keeps b).2.2.2 k

/-- A field of Agate other than its engines and the cycles due. -/
theorem startDue_field {α : Type} (b : Block) (f : Agate → α) (hf : ∀ a e d, f { a with eng := e, due := d } = f a) :
    f (startDue b).agate = f b.agate :=
  (hf _ _ _).symm.trans ((congrArg f (startDue_keeps b).1).trans (hf _ _ _))

/-- Running is decided by what the start of a cycle leaves. -/
theorem runs_of_keeps {x : Block} {n : Nat} (hs : x.seqSettings = b.seqSettings) (he : (x.engine n).steady = (b.engine n).steady) :
    runs x n = runs b n := by
  have en : (x.engine n).en = (b.engine n).en := (congrArg Engine.en he :)
  unfold runs
  rw [en, leader_of_settings hs]

theorem fetchCycle_other (w : Half) (first : Bool) {i n : Nat} (hi : i ≠ n) (x : Block) :
    (fetchCycle w first i x).engine n = x.engine n := engMod_engine_other hi _

/-- An engine that runs and leads has no cycle begun by another's. -/
theorem startCycle_other {n i : Nat} (hr : runs b n = true) (hi : i ≠ n) : (startCycle i b).engine n = b.engine n := by
  cases ri : runs b i with
  | false => rw [startCycle_stopped ri]
  | true =>
    obtain ⟨-, -, leads⟩ := runs_iff.mp ri
    obtain ⟨-, -, own⟩ := runs_iff.mp hr
    have outside : n ∉ crew b i := fun hm => hi ((leader_of_crew leads hm).symm.trans own)
    rw [startCycle_runs ri]
    refine (foldl_engine_outside (op := fetchCycle (nextWord b i) (isFirst b i)) (P := fun _ => True) (fun _ _ _ => trivial)
      (fun _ x _ hk => fetchCycle_other _ _ hk x) outside trivial).2.trans ?_
    exact engMod_engine_other hi _

/-- The engine as its cycle has begun. -/
def begun (b : Block) (n : Nat) (v : Sample) : Engine :=
  { clearedNext (nextWord b n) (isFirst b n) (b.engine n) with word := nextWord b n, first := isFirst b n, sample := v }

/-- An engine whose cycle begins. -/
theorem startCycle_self {n : Nat} (hr : runs b n = true) : ∃ v : Sample, (startCycle n b).engine n = begun b n v := by
  obtain ⟨small, -, own⟩ := runs_iff.mp hr
  let x := engMod n (clearedNext (nextWord b n) (isFirst b n)) b
  obtain ⟨y, -, same, once⟩ := foldl_engine_once (op := fetchCycle (nextWord b n) (isFirst b n)) (P := fun _ => True)
    (fun _ _ _ => trivial) (fun _ x _ hk => fetchCycle_other _ _ hk x) (crew_nodup x n) (self_mem_crew (b := x) own) (x := x) trivial
  have cleared : x.engine n = clearedNext (nextWord b n) (isFirst b n) (b.engine n) := engMod_engine_self small _
  refine ⟨takeSample y n, ?_⟩
  rw [startCycle_runs hr, once]
  unfold fetchCycle begun
  rw [engMod_engine_self small, same, cleared]

/-- What the start of the cycles due keeps while others begin. -/
def Steady (n : Nat) (b x : Block) : Prop :=
  x.seqRest = b.seqRest ∧ x.seqSettings = b.seqSettings ∧ (x.engine n).steady = (b.engine n).steady

theorem Steady.runs {n : Nat} {x : Block} (h : Steady n b x) : runs x n = Machine.runs b n := runs_of_keeps h.2.1 h.2.2

theorem Steady.startCycle {n : Nat} {x : Block} (h : Steady n b x) (i : Nat) : Steady n b (startCycle i x) := by
  obtain ⟨rest, settings, -, steady⟩ := startCycle_keeps i x
  exact ⟨rest.trans h.1, settings.trans h.2.1, (steady n).trans h.2.2⟩

/-- The one cycle that begins for an engine that runs and leads. -/
theorem startDue_self {n : Nat} (hr : runs b n = true) :
    (vget b.agate.due n false = false → (startDue b).engine n = b.engine n) ∧
    (vget b.agate.due n false = true → ∃ v : Sample, (startDue b).engine n = begun b n v) := by
  obtain ⟨small, -, -⟩ := runs_iff.mp hr
  unfold startDue
  extract_lets due
  obtain ⟨y, steady, same, once⟩ := foldl_engine_once (op := fun i x => if vget due i false then startCycle i x else x) (P := Steady n b)
    (fun i x h => by split; exacts [h.startCycle i, h])
    (fun i x h hi => by split; exacts [startCycle_other (h.runs.trans hr) hi, rfl])
    List.nodup_range (List.mem_range.mpr small) (x := b.modAgate (fun a => { a with due := .replicate 8 false })) ⟨rfl, rfl, rfl⟩
  have same : y.engine n = b.engine n := same
  have store : y.agate.store = b.agate.store := (congrArg Agate.store steady.1 :)
  refine ⟨fun h => once.trans ?_, fun h => ?_⟩
  · rw [show vget due n false = false from h]
    exact same
  · obtain ⟨v, at_⟩ := startCycle_self (steady.runs.trans hr)
    refine ⟨v, once.trans ?_⟩
    rw [show vget due n false = true from h, if_pos rfl, at_]
    unfold begun isFirst nextWord
    rw [same, store]

theorem vget_replicate {α : Type} (k n : Nat) (d : α) : vget (Vector.replicate k d) n d = d := by
  by_cases h : n < k
  · simp [vget, Vector.getD, h]
  · simp [vget, Vector.getD, h]

/-! ### The cycle in which a row ends -/

section
variable (n : Nat) (joins : Bool)

theorem cycleAt_settings : (cycleAt n joins b).seqSettings = b.seqSettings := by
  unfold cycleAt
  split
  · rfl
  · exact startDue_settings b

theorem cycleAt_steady (k : Nat) : ((cycleAt n joins b).engine k).steady = (b.engine k).steady := by
  unfold cycleAt
  split
  · rfl
  · exact startDue_steady b k

/-- A field of Agate that neither the cycles due nor a new cycle changes. -/
theorem cycleAt_field {α : Type} (f : Agate → α) (hf : ∀ a e d, f { a with eng := e, due := d } = f a)
    (hc : ∀ a l r v d k, f { a with cycLevel := l, cycRaised := r, cycLevelBy := v, cycDirBy := d, cycTrigs := k } = f a) :
    f (cycleAt n joins b).agate = f b.agate := by
  unfold cycleAt
  split
  · rfl
  · exact (hc _ _ _ _ _ _).trans (startDue_field b f hf)

theorem cycleAt_agateGarnet : (cycleAt n joins b).ch.agateGarnet = b.ch.agateGarnet :=
  (congrArg Channels.agateGarnet (kept_ch (cycleAt_frame (n := n) (joins := joins) (List.Subset.refl _) (onlyChanges_refl _ b)) (by decide)) :)

theorem cycleAt_runs (m : Nat) : runs (cycleAt n joins b) m = runs b m := runs_of_keeps (cycleAt_settings n joins) (cycleAt_steady n joins m)

variable {n}

/-- The word of the engine is what it was to be. -/
theorem cycleAt_word (hr : runs b n = true) : fetchWord (cycleAt n joins b) n = fetchWord b n := by
  unfold cycleAt
  split
  · rfl
  · have none : vget (beginCycle b).agate.due n false = false := by
      show vget (startDue b).agate.due n false = false
      rw [startDue_due]
      exact vget_replicate ..
    obtain ⟨same, begun⟩ := startDue_self hr
    unfold fetchWord
    rw [none, if_neg Bool.false_ne_true]
    show ((startDue b).engine n).word = _
    cases hd : vget b.agate.due n false with
    | false =>
      rw [same hd]
      rfl
    | true =>
      obtain ⟨v, at_⟩ := begun hd
      rw [at_]
      rfl

end

/-! ### The end of an engine cycle -/

/-- The engine's next cycle is due. -/
def dueNext (n : Nat) (b : Block) : Block := b.modAgate (fun a => { a with due := vset a.due n true })

/-- A change of every engine of a crew. -/
def crewMod (f : Engine → Engine) (n : Nat) (b : Block) : Block := (crew b n).foldl (fun b m => engMod m f b) b

/-- The engines of the crew are these, and the others are as they were. -/
def CrewIs (b s : Block) (n : Nat) (F : Nat → Engine) (t : Block) : Prop :=
  (∀ m ∈ crew b n, t.engine m = F m) ∧ ∀ m < 8, m ∉ crew b n → t.engine m = s.engine m

/-- Side-set and pin writes leave the engines, the gangs and the flags. -/
def Block.seqCore (b : Block) : Vector Engine 8 × Vector GangRegs 2 × Vector Bool 8 × List TrigKind × List (Nat × Word) × Bool × Bool :=
  (b.agate.eng, b.agate.gang, b.agate.flags, b.ch.agateGarnet, b.seqSettings)

theorem settings_of_core {x : Block} (h : x.seqCore = b.seqCore) : x.seqSettings = b.seqSettings :=
  congrArg (fun c => c.2.2.2.2) h

theorem engine_of_core {x : Block} (h : x.seqCore = b.seqCore) (k : Nat) : x.engine k = b.engine k :=
  congrArg (fun c : Vector Engine 8 × Vector GangRegs 2 × Vector Bool 8 × List TrigKind × List (Nat × Word) × Bool × Bool =>
    vget c.1 k blankEngine) h

theorem gang_of_core {x : Block} (h : x.seqCore = b.seqCore) : x.agate.gang = b.agate.gang := congrArg (fun c => c.2.1) h

theorem flags_of_core {x : Block} (h : x.seqCore = b.seqCore) : x.agate.flags = b.agate.flags := congrArg (fun c => c.2.2.1) h

theorem agateGarnet_of_core {x : Block} (h : x.seqCore = b.seqCore) : x.ch.agateGarnet = b.ch.agateGarnet := congrArg (fun c => c.2.2.2.1) h

theorem putLevel_core (n p : Nat) (v : Bool) (b : Block) : (putLevel n p v b).seqCore = b.seqCore := by
  unfold putLevel
  split <;> rfl

theorem putDir_core (n p : Nat) (v : Bool) (b : Block) : (putDir n p v b).seqCore = b.seqCore := by
  unfold putDir
  split <;> rfl

theorem putBits_core {put : Nat → Bool → Block → Block} (h : ∀ p v b, (put p v b).seqCore = b.seqCore) (base count : Nat) (v : Word)
    (b : Block) : (putBits put base count v b).seqCore = b.seqCore :=
  foldl_keeps (f := fun b i => put ((base + i) % 16) (v.getLsbD i) b) (g := Block.seqCore) (fun b _ => h _ _ b) _ b

theorem writePins_core (n count : Nat) (v : Word) (b : Block) : (writePins n count v b).seqCore = b.seqCore :=
  putBits_core (putLevel_core n) ..

theorem writeDirs_core (n count : Nat) (v : Word) (b : Block) : (writeDirs n count v b).seqCore = b.seqCore :=
  putBits_core (putDir_core n) ..

/-- The write of one pin of a side-set. -/
def sidePin (lead by_ side : Nat) (b : Block) (i : Nat) : Block :=
  let p := (sideBase b lead + i) % 16
  if !sideToggle b lead then putLevel by_ p (bitOf side i) b
  else if bitOf side i then putLevel by_ p (!(vget b.agate.cycLevel p false)) b
  else b

theorem sideSet_eq (lead by_ side : Nat) (b : Block) :
    sideSet lead by_ side b = (List.range (sideCount b lead)).foldl (sidePin lead by_ side) b := rfl

theorem sideSet_core (lead by_ side : Nat) (b : Block) : (sideSet lead by_ side b).seqCore = b.seqCore := by
  rw [sideSet_eq]
  refine foldl_keeps (g := Block.seqCore) (fun x i => ?_) _ b
  unfold sidePin
  extract_lets p
  split
  · exact putLevel_core ..
  · split
    · exact putLevel_core ..
    · rfl

theorem crewMod_engines {x : Block} {n : Nat} (hn : n < 8) (hx : x.seqSettings = b.seqSettings) (f : Engine → Engine) :
    CrewIs b x n (fun m => f (x.engine m)) (crewMod f n x) := by
  obtain ⟨inside, outside⟩ := foldl_engMod (fun _ => f) (crew_nodup x n) (fun m hm => crew_lt hn hm) x
  unfold CrewIs
  rw [← crew_of_settings hx n]
  exact ⟨inside, fun k _ hk => outside k hk⟩

theorem crewMod_keeps {α : Type} (g : Block → α) (hg : ∀ m f b, g (engMod m f b) = g b) (f : Engine → Engine) (n : Nat) (b : Block) :
    g (crewMod f n b) = g b := foldl_keeps (f := fun b m => engMod m f b) (fun x m => hg m f x) _ b

section
variable {n : Nat} (joins : Bool) (hr : runs b n = true)
include hr

/-- The parts of an engine cycle, whose word is the one that was to be. -/
theorem engineCycle_bad (hw : badOp (fetchWord b n) = true) : engineCycle n joins b = haltErr n .badOp (cycleAt n joins b) := by
  unfold engineCycle
  dsimp only
  rw [cycleAt_word joins hr, if_pos hw]

variable (hw : badOp (fetchWord b n) = false)
include hw

theorem engineCycle_stalls {st : StallCause} (hst : stallOf (cycleAt n joins b) n (fetchWord b n) = st) (hn : st ≠ .none_) :
    engineCycle n joins b = dueNext n (crewMod (fun e => { e with stall := st }) n (cycleAt n joins b)) := by
  unfold engineCycle
  dsimp only
  rw [cycleAt_word joins hr, if_neg (by rw [hw]; exact Bool.false_ne_true), hst]
  exact if_pos (bne_iff_ne.mpr hn)

variable (hst : stallOf (cycleAt n joins b) n (fetchWord b n) = .none_)
include hst

theorem engineCycle_badAddr (hj : (jumpTo (cycleAt n joins b) n (fetchWord b n)).any (fun a => 48 ≤ a) = true) :
    engineCycle n joins b = haltErr n .badAddr (cycleAt n joins b) := by
  unfold engineCycle
  dsimp only
  rw [cycleAt_word joins hr, if_neg (by rw [hw]; exact Bool.false_ne_true), hst, if_neg (by decide)]
  exact if_pos hj

/-- What the instruction does, and the side-set. -/
def instrDone (w : Half) (n : Nat) (s : Block) : Block :=
  sideSet n ((crew s n).getLast?.getD n) (bitsOf w.toNat 2 0) (execute w n s)

theorem engineCycle_completes (hj : (jumpTo (cycleAt n joins b) n (fetchWord b n)).any (fun a => 48 ≤ a) = false) :
    engineCycle n joins b = dueNext n (crewMod (fun e => { e with
      pc := nextPc (cycleAt n joins b) n ((cycleAt n joins b).engine n).pc (jumpTo (cycleAt n joins b) n (fetchWord b n)), stall := .none_ }) n
        (instrDone (fetchWord b n) n (cycleAt n joins b))) := by
  unfold engineCycle
  dsimp only
  rw [cycleAt_word joins hr, if_neg (by rw [hw]; exact Bool.false_ne_true), hst, if_neg (by decide)]
  exact if_neg (by rw [hj]; exact Bool.false_ne_true)

end

end

end Sys2Proof.Machine
end

section
/-! O47: instructions that move data (13 R357 to R359, R371, R372). -/

-- The proofs are elaborated one after another: each waiting in a thread of its own takes more memory than the check allows.
set_option Elab.async false

namespace Sys2Proof.Machine

section
variable {b s : Block} {n : Nat}

theorem siLsb_of_settings (h : s.seqSettings = b.seqSettings) (m : Nat) : siLsb s m = siLsb b m := by
  unfold siLsb
  rw [field_of_settings h]

theorem soLsb_of_settings (h : s.seqSettings = b.seqSettings) (m : Nat) : soLsb s m = soLsb b m := by
  unfold soLsb
  rw [field_of_settings h]

/-- The engine goes on. -/
def Engine.goOn (pc : Nat) (e : Engine) : Engine := { e with pc, stall := .none_ }

/-- PC after the instruction. -/
def pcAfter (s : Block) (n : Nat) (w : Half) : Nat := nextPc s n (s.engine n).pc (jumpTo s n w)

/-- What an instruction does to the engines of the crew, and what its end leaves of that. -/
theorem engineCycle_crew (joins : Bool) (hr : runs b n = true) (hw : badOp (fetchWord b n) = false)
    (hst : stallOf (cycleAt n joins b) n (fetchWord b n) = .none_)
    (hj : (jumpTo (cycleAt n joins b) n (fetchWord b n)).any (fun a => 48 ≤ a) = false) {G : Nat → Engine}
    (settings : (execute (fetchWord b n) n (cycleAt n joins b)).seqSettings = b.seqSettings)
    (does : CrewIs b (cycleAt n joins b) n G (execute (fetchWord b n) n (cycleAt n joins b))) :
    CrewIs b (cycleAt n joins b) n (fun m => (G m).goOn (pcAfter (cycleAt n joins b) n (fetchWord b n))) (engineCycle n joins b) := by
  obtain ⟨small, -, -⟩ := runs_iff.mp hr
  rw [engineCycle_completes joins hr hw hst hj]
  let s := cycleAt n joins b
  let y := instrDone (fetchWord b n) n s
  have core : y.seqCore = (execute (fetchWord b n) n s).seqCore := sideSet_core ..
  obtain ⟨inside, outside⟩ := crewMod_engines (b := b) (x := y) small ((settings_of_core core).trans settings)
    (Engine.goOn (pcAfter s n (fetchWord b n)))
  refine ⟨fun m hm => (inside m hm).trans (congrArg _ ?_), fun m hm hc => (outside m hm hc).trans ?_⟩
  · rw [engine_of_core core m, does.1 m hm]
  · rw [engine_of_core core m]
    exact does.2 m hm hc

theorem engMod_outside {m : Nat} (h : 8 ≤ m) (f : Engine → Engine) : engMod m f b = b := by
  have same : vset b.agate.eng m (f (b.engine m)) = b.agate.eng := Vector.setIfInBounds_eq_of_size_le h
  unfold engMod Block.modAgate
  dsimp only
  rw [same]

theorem engMod_engMod (m : Nat) (f g : Engine → Engine) (b : Block) : engMod m f (engMod m g b) = engMod m (fun e => f (g e)) b := by
  by_cases h : m < 8
  · show Block.modAgate (engMod m g b) _ = _
    rw [engMod_engine_self h]
    simp only [engMod, Block.modAgate, vset_vset]
  · rw [engMod_outside (Nat.not_lt.mp h), engMod_outside (Nat.not_lt.mp h), engMod_outside (Nat.not_lt.mp h)]

/-- A change of an engine is what it makes of it. -/
theorem engMod_congr {m : Nat} {f g : Engine → Engine} (h : f (b.engine m) = g (b.engine m)) : engMod m f b = engMod m g b := by
  unfold engMod
  rw [h]

theorem engMod_core {m : Nat} {f g : Engine → Engine} (h : f (b.engine m) = g (b.engine m)) :
    (engMod m f b).seqCore = (engMod m g b).seqCore := congrArg Block.seqCore (engMod_congr h)

/-- What is done to the engines of a crew in turn, each left as `D` says. -/
theorem crew_does {op : Nat → Block → Block} {D : Block → Nat → Engine} (hn : n < 8) (hs : s.seqSettings = b.seqSettings)
    (core : ∀ m x, (op m x).seqCore = (engMod m (fun _ => D x m) x).seqCore)
    (same : ∀ m x, x.seqSettings = s.seqSettings → x.engine m = s.engine m → D x m = D s m) :
    ((crew s n).foldl (fun x m => op m x) s).seqSettings = b.seqSettings ∧
      CrewIs b s n (D s) ((crew s n).foldl (fun x m => op m x) s) := by
  have keeps (m : Nat) (x : Block) : (op m x).seqSettings = x.seqSettings := (settings_of_core (core m x)).trans rfl
  obtain ⟨inside, outside⟩ := foldl_engines (op := op) (F := D s) (s := s) keeps
    (fun m x hm hx he => (engine_of_core (core m x) m).trans ((engMod_engine_self hm _).trans (same m x hx he)))
    (fun m k x hk => (engine_of_core (core m x) k).trans (engMod_engine_other hk _)) (crew_nodup s n) (fun m hm => crew_lt hn hm)
  unfold CrewIs
  rw [← crew_of_settings hs n]
  exact ⟨(foldl_keeps (f := fun x m => op m x) (g := Block.seqSettings) (fun x m => keeps m x) _ s).trans hs, inside, fun k _ hk => outside k hk⟩

/-! ### IN -/

section
variable {x : Block} {m : Nat} (hs : x.seqSettings = s.seqSettings) (he : x.engine m = s.engine m)
include hs he

theorem readPins_same : readPins x m = readPins s m := by
  unfold readPins pinSeen iwBase
  rw [field_of_settings hs, he]

theorem inSource_same (c : Nat) : inSource x m c = inSource s m c := by
  unfold inSource
  rw [readPins_same hs he, he]

theorem statusWord_same : statusWord x m = statusWord s m := by
  unfold statusWord flagSeen
  rw [ganged_of_settings hs, he]

theorem movSource_same (c : Nat) : movSource x m c = movSource s m c := by
  unfold movSource
  rw [readPins_same hs he, statusWord_same hs he, he]

end

/-- An engine after IN. -/
def inDone (w : Half) (b : Block) (m : Nat) : Engine := { b.engine m with
  si := shiftIn (siLsb b m) (countOf w) (b.engine m).si (inSource b m (sel w)), siCount := min 32 ((b.engine m).siCount + countOf w) }

theorem doIn_core (w : Half) (m : Nat) (b : Block) : (doIn w m b).seqCore = (engMod m (fun _ => inDone w b m) b).seqCore := rfl

theorem execute_in {w : Half} (h : opOf w = 2) : execute w n s = (crew s n).foldl (fun x m => doIn w m x) s := by
  unfold execute
  rw [h]
  rfl

theorem inDone_same {x : Block} {w : Half} {m : Nat} (hs : x.seqSettings = s.seqSettings) (he : x.engine m = s.engine m) :
    inDone w x m = inDone w s m := by
  unfold inDone
  rw [siLsb_of_settings hs, inSource_same hs he, he]

/-! ### OUT -/

/-- OUT's word of an engine, and what SO keeps. -/
def outWord (b : Block) (w : Half) (m : Nat) : Word × Word := shiftOut (soLsb b m) (countOf w) (b.engine m).so

/-- An engine after OUT. -/
def outDone (w : Half) (b : Block) (m : Nat) : Engine := { b.engine m with
  so := (outWord b w m).2, soLeft := (b.engine m).soLeft - countOf w
  c := if sel w = 0 then (outWord b w m).1 else (b.engine m).c
  v := if sel w = 1 then (outWord b w m).1 else (b.engine m).v
  si := if sel w = 4 then (outWord b w m).1 else (b.engine m).si
  siCount := if sel w = 4 then countOf w else (b.engine m).siCount }

theorem outDone_same {x : Block} {w : Half} {m : Nat} (hs : x.seqSettings = s.seqSettings) (he : x.engine m = s.engine m) :
    outDone w x m = outDone w s m := by
  unfold outDone outWord
  rw [soLsb_of_settings hs, he]

theorem doOut_core (w : Half) (m : Nat) (b : Block) : (doOut w m b).seqCore = (engMod m (fun _ => outDone w b m) b).seqCore := by
  unfold doOut
  extract_lets k e
  split
  case h_1 v so hv =>
    extract_lets y
    have word : outWord b w m = (v, so) := hv
    split
    case h_1 h =>
      unfold y
      rw [engMod_engMod]
      exact engMod_core (by simp [outDone, word, h, k])
    case h_2 h =>
      unfold y
      rw [engMod_engMod]
      exact engMod_core (by simp [outDone, word, h, k])
    case h_3 h => exact (writePins_core ..).trans (engMod_core (by simp [outDone, word, h, k]))
    case h_4 h => exact (writeDirs_core ..).trans (engMod_core (by simp [outDone, word, h, k]))
    case h_5 h =>
      unfold y
      rw [engMod_engMod]
      exact engMod_core (by simp [outDone, word, h, k])
    case h_6 h0 h1 _ _ h4 =>
      refine engMod_core ?_
      simp only [outDone, word, if_neg (show sel w ≠ 0 from h0), if_neg (show sel w ≠ 1 from h1), if_neg (show sel w ≠ 4 from h4)]
      rfl

/-! ### MOV -/

/-- MOV's value. -/
def movWord (w : Half) (b : Block) (m : Nat) : Word := movOp (bitsOf w.toNat 8 7) (movSource b m (bitsOf w.toNat 6 4))

/-- An engine after MOV. -/
def movDone (w : Half) (b : Block) (m : Nat) : Engine := { b.engine m with
  c := if sel w = 0 then movWord w b m else (b.engine m).c
  v := if sel w = 1 then movWord w b m else (b.engine m).v
  si := if sel w = 4 then movWord w b m else (b.engine m).si
  siCount := if sel w = 4 then 0 else (b.engine m).siCount
  so := if sel w = 5 then movWord w b m else (b.engine m).so
  soLeft := if sel w = 5 then 32 else (b.engine m).soLeft }

theorem movDone_same {x : Block} {w : Half} {m : Nat} (hs : x.seqSettings = s.seqSettings) (he : x.engine m = s.engine m) :
    movDone w x m = movDone w s m := by
  unfold movDone movWord
  rw [movSource_same hs he, he]

/-- Where pins alone are written the engine stays. -/
theorem core_of_pins {x : Block} {m : Nat} {e : Engine} (h : x.seqCore = b.seqCore) (he : e = b.engine m) :
    x.seqCore = (engMod m (fun _ => e) b).seqCore := by
  have same : engMod m (fun _ => e) b = b := by
    unfold engMod Block.modAgate
    dsimp only
    rw [he]
    unfold Block.engine
    rw [vset_vget]
  rw [h, same]

theorem doMov_core (w : Half) (m : Nat) (b : Block) : (doMov w m b).seqCore = (engMod m (fun _ => movDone w b m) b).seqCore := by
  unfold doMov
  extract_lets v
  split
  case h_1 h => exact engMod_core (by simp [movDone, movWord, v, h])
  case h_2 h => exact engMod_core (by simp [movDone, movWord, v, h])
  case h_3 h => exact core_of_pins (writePins_core ..) (by simp [movDone, h])
  case h_4 h => exact core_of_pins (writeDirs_core ..) (by simp [movDone, h])
  case h_5 h => exact engMod_core (by simp [movDone, movWord, v, h])
  case h_6 h => exact engMod_core (by simp [movDone, movWord, v, h])
  case h_7 h0 h1 _ _ h4 h5 =>
    refine core_of_pins rfl ?_
    simp only [movDone, if_neg (show sel w ≠ 0 from h0), if_neg (show sel w ≠ 1 from h1), if_neg (show sel w ≠ 4 from h4),
      if_neg (show sel w ≠ 5 from h5)]

theorem execute_out {w : Half} (h : opOf w = 3) : execute w n s = (crew s n).foldl (fun x m => doOut w m x) s := by
  unfold execute
  rw [h]
  rfl

theorem execute_mov {w : Half} (h : opOf w = 6) : execute w n s = (crew s n).foldl (fun x m => doMov w m x) s := by
  unfold execute
  rw [h]
  rfl

/-! ### SET -/

/-- An engine after SET. -/
def setDone (w : Half) (b : Block) (m : Nat) : Engine := { b.engine m with
  c := if sel w = 0 then BitVec.ofNat 32 (bitsOf w.toNat 8 3) else (b.engine m).c
  v := if sel w = 1 then BitVec.ofNat 32 (bitsOf w.toNat 8 3) else (b.engine m).v }

theorem doSet_core (w : Half) (lead m : Nat) (b : Block) :
    (doSet w lead m b).seqCore = (engMod m (fun _ => setDone w b m) b).seqCore := by
  unfold doSet
  extract_lets v
  split
  case h_1 h => exact engMod_core (by simp [setDone, v, h])
  case h_2 h => exact engMod_core (by simp [setDone, v, h])
  case h_3 h => exact core_of_pins (writePins_core ..) (by simp [setDone, h])
  case h_4 h => exact core_of_pins (writeDirs_core ..) (by simp [setDone, h])
  case h_5 h => exact core_of_pins (putBits_core (putDir_core m) ..) (by simp [setDone, h])
  case h_6 h0 h1 _ _ _ =>
    refine core_of_pins rfl ?_
    simp only [setDone, if_neg (show sel w ≠ 0 from h0), if_neg (show sel w ≠ 1 from h1)]

theorem execute_set {w : Half} (h : opOf w = 7) : execute w n s = (crew s n).foldl (fun x m => doSet w n m x) s := by
  unfold execute
  rw [h]
  rfl

/-! ### PUSH and PULL -/

theorem crew_single (h : ganged b n = false) : crew b n = [n] := if_neg (by rw [h]; exact Bool.false_ne_true)

theorem crew_gang (h : ganged b n = true) : crew b n = (List.range 4).map (· + n / 4 * 4) := if_pos h

/-- What is done to the one engine of a crew. -/
theorem single_does {op : Nat → Block → Block} {D : Block → Nat → Engine} (hn : n < 8) (hs : s.seqSettings = b.seqSettings)
    (hg : ganged b n = false) (core : ∀ m x, (op m x).seqCore = (engMod m (fun _ => D x m) x).seqCore) :
    (op n s).seqSettings = b.seqSettings ∧ CrewIs b s n (D s) (op n s) := by
  refine ⟨(settings_of_core (core n s)).trans hs, ?_⟩
  unfold CrewIs
  rw [crew_single hg]
  refine ⟨fun m hm => ?_, fun m _ hm => ?_⟩
  · rw [List.mem_singleton.mp hm]
    exact (engine_of_core (core n s) n).trans (engMod_engine_self hn _)
  · exact (engine_of_core (core n s) m).trans (engMod_engine_other (fun h => hm (List.mem_singleton.mpr h.symm)) _)

/-- An engine after PUSH. -/
def pushDone (b : Block) (m : Nat) : Engine := { b.engine m with rx := (b.engine m).rx ++ [(b.engine m).si], si := 0, siCount := 0 }

theorem doPush_core (m : Nat) (b : Block) : (doPush m b).seqCore = (engMod m (fun _ => pushDone b m) b).seqCore := rfl

theorem execute_push {w : Half} (h : opOf w = 4) : execute w n s = if ganged s n then gangPush (n / 4) s else doPush n s := by
  unfold execute
  rw [h]
  rfl

/-- An engine after PULL. -/
def pullDone (b : Block) (m : Nat) : Engine :=
  { b.engine m with so := (b.engine m).tx.headD 0, soLeft := 32, tx := (b.engine m).tx.drop 1 }

theorem doPull_core (m : Nat) (b : Block) : (doPull m b).seqCore = (engMod m (fun _ => pullDone b m) b).seqCore := rfl

theorem execute_pull {w : Half} (h : opOf w = 5) : execute w n s = if ganged s n then gangPull (n / 4) s else doPull n s := by
  unfold execute
  rw [h]
  rfl

/-! ### PUSH and PULL of a gang -/

theorem gangRegs_of_gang (h : s.agate.gang = b.agate.gang) (n : Nat) : gangRegs s n = gangRegs b n := by
  unfold gangRegs
  rw [h]

theorem gangMod_regs (hn : n < 8) (f : GangRegs → GangRegs) : gangRegs (gangMod (n / 4) f s) n = f (gangRegs s n) :=
  (vget_vset ..).trans (if_pos ⟨rfl, by omega⟩)

/-- What the gang's shift registers hold. -/
def gangWords (b : Block) (g : Nat) : Vector Word 4 :=
  #v[(b.engine (4 * g + 0)).si, (b.engine (4 * g + 1)).si, (b.engine (4 * g + 2)).si, (b.engine (4 * g + 3)).si]

/-- An engine with SI empty. -/
def Engine.emptied (e : Engine) : Engine := { e with si := 0, siCount := 0 }

theorem gangPush_eq (h : ganged s n = true) : gangPush (n / 4) s =
    crewMod Engine.emptied n (gangMod (n / 4) (fun r => { r with in_ := gangWords s (n / 4), inValid := true }) s) := by
  unfold crewMod
  rw [crew_gang (b := gangMod _ _ s) h, List.foldl_map]
  unfold gangPush
  refine List.foldl_ext _ _ _ (fun x m _ => ?_)
  rw [Nat.add_comm m, Nat.mul_comm (n / 4)]
  rfl

/-- An engine with SO full of its word of the gang. -/
def Engine.pulled (r : GangRegs) (m : Nat) (e : Engine) : Engine := { e with so := vget r.out (m % 4) 0, soLeft := 32 }

theorem gangPull_eq (h : ganged s n = true) : gangPull (n / 4) s =
    (crew s n).foldl (fun x m => engMod m (Engine.pulled (gangRegs s n) m) x)
      (gangMod (n / 4) (fun r => { r with outValid := false }) s) := by
  rw [crew_gang h, List.foldl_map]
  unfold gangPull
  refine List.foldl_ext _ _ _ (fun x m hm => ?_)
  have low : (m + n / 4 * 4) % 4 = m := by
    have := List.mem_range.mp hm
    omega
  rw [Nat.add_comm m, Nat.mul_comm (n / 4) 4] at low ⊢
  unfold Engine.pulled
  rw [low]
  rfl

/-- The engines that are changed each by its own. -/
theorem crew_engMod (hn : n < 8) (hs : s.seqSettings = b.seqSettings) (f : Nat → Engine → Engine) :
    CrewIs b s n (fun m => f m (s.engine m)) ((crew s n).foldl (fun x m => engMod m (f m) x) s) := by
  obtain ⟨inside, outside⟩ := foldl_engMod f (crew_nodup s n) (fun m hm => crew_lt hn hm) s
  unfold CrewIs
  rw [← crew_of_settings hs n]
  exact ⟨inside, fun k _ hk => outside k hk⟩

theorem gangPush_does (hn : n < 8) (hs : s.seqSettings = b.seqSettings) (hg : ganged s n = true) :
    (gangPush (n / 4) s).seqSettings = b.seqSettings ∧ CrewIs b s n (fun m => (s.engine m).emptied) (gangPush (n / 4) s) ∧
      gangRegs (gangPush (n / 4) s) n = { gangRegs s n with in_ := gangWords s (n / 4), inValid := true } := by
  rw [gangPush_eq hg]
  let y := gangMod (n / 4) (fun r => { r with in_ := gangWords s (n / 4), inValid := true }) s
  refine ⟨(crewMod_keeps Block.seqSettings (fun _ _ _ => rfl) _ n y).trans hs, crewMod_engines (x := y) hn hs _, ?_⟩
  exact (gangRegs_of_gang (crewMod_keeps (fun b => b.agate.gang) (fun _ _ _ => rfl) _ n y) n).trans (gangMod_regs hn _)

theorem gangPull_does (hn : n < 8) (hs : s.seqSettings = b.seqSettings) (hg : ganged s n = true) :
    (gangPull (n / 4) s).seqSettings = b.seqSettings ∧
      CrewIs b s n (fun m => (s.engine m).pulled (gangRegs s n) m) (gangPull (n / 4) s) ∧
      gangRegs (gangPull (n / 4) s) n = { gangRegs s n with outValid := false } := by
  rw [gangPull_eq hg]
  let y := gangMod (n / 4) (fun r => { r with outValid := false }) s
  let f (x : Block) (m : Nat) : Block := engMod m (Engine.pulled (gangRegs s n) m) x
  refine ⟨(foldl_keeps (f := f) (g := Block.seqSettings) (fun _ _ => rfl) _ y).trans hs,
    crew_engMod (b := b) (s := y) hn hs (Engine.pulled (gangRegs s n)), ?_⟩
  exact (gangRegs_of_gang (foldl_keeps (f := f) (g := fun b => b.agate.gang) (fun _ _ => rfl) _ y) n).trans (gangMod_regs hn _)

/-! ### The pins of a window -/

/-- Every pin is an engine's, and no pin was written by a higher engine in this cycle. -/
structure Writable (n : Nat) (b : Block) : Prop where
  mux : ∀ p < 16, muxFunc b p = 0
  free : ∀ p < 16, (vget b.agate.cycLevelBy p none).any (fun k => n < k) = false

theorem putLevel_writes {p : Nat} (h : Writable n b) (hp : p < 16) (v : Bool) : putLevel n p v b =
    b.modAgate (fun a => { a with level := vset a.level p v, cycLevelBy := vset a.cycLevelBy p (some n) }) :=
  if_neg (by rw [h.mux p hp, h.free p hp]; decide)

theorem putLevel_writable {p : Nat} (h : Writable n b) (hp : p < 16) (v : Bool) : Writable n (putLevel n p v b) := by
  rw [putLevel_writes h hp]
  refine ⟨h.mux, fun k hk => ?_⟩
  show (vget (vset b.agate.cycLevelBy p (some n)) k none).any _ = false
  rw [vget_vset]
  split
  · simp
  · exact h.free k hk

/-- Up to 16 pins from a base take the bits of the value. -/
theorem putBits_level {base count : Nat} (hc : count ≤ 16) (h : Writable n b) (v : Word) : Writable n (putBits (putLevel n) base count v b) ∧
    ∀ i < count, vget (putBits (putLevel n) base count v b).agate.level ((base + i) % 16) false = v.getLsbD i := by
  unfold putBits
  induction count with
  | zero => exact ⟨h, fun i hi => absurd hi (Nat.not_lt_zero i)⟩
  | succ k ih =>
    obtain ⟨writable, done⟩ := ih (Nat.le_of_succ_le hc)
    have pin : (base + k) % 16 < 16 := Nat.mod_lt _ (by decide)
    rw [List.range_succ, List.foldl_append, List.foldl_cons, List.foldl_nil]
    refine ⟨putLevel_writable writable pin _, fun i hi => ?_⟩
    rw [putLevel_writes writable pin]
    refine (vget_vset ..).trans ?_
    by_cases hk : i = k
    · rw [hk, if_pos ⟨rfl, pin⟩]
    · rw [if_neg (fun e => hk (by omega))]
      exact done i (by omega)

/-- A new cycle has had no pin written. -/
theorem beginCycle_writable (h : ∀ p < 16, muxFunc b p = 0) : Writable n (beginCycle b) := by
  refine ⟨fun p hp => ?_, fun p _ => ?_⟩
  · have same : muxFunc (beginCycle b) p = muxFunc b p := field_of_settings (startDue_settings b) ..
    rw [same, h p hp]
  · show (vget (Vector.replicate 16 none) p none).any _ = false
    rw [vget_replicate]
    rfl

theorem window_of_settings (h : s.seqSettings = b.seqSettings) (m : Nat) : owBase s m = owBase b m ∧ owWidth s m = owWidth b m ∧
    sideCount s m = sideCount b m := by
  unfold owBase owWidth sideCount
  rw [field_of_settings h, field_of_settings h, field_of_settings h]
  exact ⟨rfl, rfl, rfl⟩

theorem stallOf_set {w : Half} (h : opOf w = 7) : stallOf s n w = .none_ := by
  unfold stallOf
  rw [h]
  rfl

theorem jumpTo_set {w : Half} (h : opOf w = 7) : jumpTo s n w = none := by
  unfold jumpTo
  rw [h]
  rfl

/-- SET of the pins of the window, alone in its cycle. -/
theorem set_pins {w : Half} (hr : runs b n = true) (hf : fetchWord b n = w) (hw : badOp w = false) (ho : opOf w = 7) (hsel : sel w = 2)
    (hg : ganged b n = false) (hside : sideCount b n = 0) (hm : ∀ p < 16, muxFunc b p = 0) :
    ∀ i < min 6 (owWidth b n), vget (engineCycle n false b).agate.level ((owBase b n + i) % 16) false =
      (bitsOf w.toNat 8 3).testBit i := by
  let s := beginCycle b
  have settings : s.seqSettings = b.seqSettings := startDue_settings b
  obtain ⟨base, width, side⟩ := window_of_settings settings n
  let v : Word := BitVec.ofNat 32 (bitsOf w.toNat 8 3)
  have alone : crew s n = [n] := crew_single ((ganged_of_settings settings n).trans hg)
  have exec : execute w n s = putBits (putLevel n) (owBase b n) (min 6 (owWidth b n)) v s := by
    rw [execute_set ho, alone]
    show doSet w n n s = _
    unfold doSet
    rw [hsel, ← base, ← width]
    rfl
  have done : instrDone w n s = execute w n s := by
    unfold instrDone
    have settings' : (execute w n s).seqSettings = b.seqSettings := by
      rw [exec]
      exact (settings_of_core (putBits_core (putLevel_core n) ..)).trans settings
    rw [sideSet_eq, (window_of_settings settings' n).2.2, hside]
    rfl
  have eq := engineCycle_completes false hr (by rw [hf]; exact hw) (stallOf_set (by rw [hf]; exact ho))
    (by rw [jumpTo_set (by rw [hf]; exact ho)]; rfl)
  have level : (engineCycle n false b).agate.level = (execute w n s).agate.level := by
    rw [eq, hf, ← done]
    exact crewMod_keeps (fun b => b.agate.level) (fun _ _ _ => rfl) _ n _
  intro i hi
  rw [level, exec, (putBits_level (by omega) (beginCycle_writable hm) v).2 i hi]
  have small : i < 32 := by omega
  exact (BitVec.getLsbD_ofNat ..).trans (by rw [decide_eq_true small, Bool.true_and])

/-! ### Commands of one instruction -/

theorem isOp_iff {k : Nat} {w : Half} : isOp k w = true ↔ opOf w = k ∧ badOp w = false := by
  simp only [isOp, Bool.and_eq_true, beq_iff_eq, Bool.not_eq_true']

theorem cycleIf_runs {kind : Half → Bool} (joins : Bool) (hr : runs b n = true) (hk : kind (fetchWord b n) = true) :
    cycleIf kind n joins b = engineCycle n joins b := if_pos (by rw [hr, hk]; rfl)

theorem cycleIf_not {kind : Half → Bool} (joins : Bool) (h : runs b n = false ∨ kind (fetchWord b n) = false) :
    cycleIf kind n joins b = b := by
  refine if_neg ?_
  obtain h | h := h
  · rw [h, Bool.false_and]
    exact Bool.false_ne_true
  · rw [h, Bool.and_false]
    exact Bool.false_ne_true

/-- The gangs, flags and triggers as the instruction leaves them. -/
theorem engineCycle_core (joins : Bool) (hr : runs b n = true) (hw : badOp (fetchWord b n) = false)
    (hst : stallOf (cycleAt n joins b) n (fetchWord b n) = .none_)
    (hj : (jumpTo (cycleAt n joins b) n (fetchWord b n)).any (fun a => 48 ≤ a) = false) {α : Type} (g : Block → α)
    (hg : ∀ m f b, g (engMod m f b) = g b) (hd : ∀ b, g (dueNext n b) = g b)
    (hs : ∀ x y : Block, x.seqCore = y.seqCore → g x = g y) :
    g (engineCycle n joins b) = g (execute (fetchWord b n) n (cycleAt n joins b)) := by
  rw [engineCycle_completes joins hr hw hst hj, hd, crewMod_keeps g hg]
  exact hs _ _ (sideSet_core ..)

theorem cycleAt_gangRegs (joins : Bool) : gangRegs (cycleAt n joins b) n = gangRegs b n :=
  gangRegs_of_gang (cycleAt_field n joins (fun a => a.gang) (fun _ _ _ => rfl) (fun _ _ _ _ _ _ => rfl)) n

theorem cycleAt_si (joins : Bool) (k : Nat) : ((cycleAt n joins b).engine k).si = (b.engine k).si :=
  (congrArg Engine.si (cycleAt_steady n joins k) :)

end

end Sys2Proof.Machine

section
open Sys2Proof Sys2Proof.Machine

/-- Settles O47: what each instruction leaves of the engines of its crew, of the pins and of the gang's registers. -/
theorem engineInstructionsMoveData : Obligations.EngineInstructionsMoveData := by
  refine ⟨?in_, ?out, ?mov, ?set, ?pins, ?push, ?gangPush, ?pull, ?gangPull, ?noIn, ?noOut, ?noMov, ?noSet, ?noPush, ?noPull,
    ?inTotal, ?outTotal, ?movTotal, ?setTotal, ?pushTotal, ?pullTotal⟩
  case in_ =>
    rintro q b n joins w s ha hr rfl hw rfl hst hj
    obtain ⟨op, legal⟩ := isOp_iff.mp hw
    obtain ⟨small, -, -⟩ := runs_iff.mp hr
    have settings := cycleAt_settings (b := b) n joins
    have does := crew_does (b := b) small settings (op := fun m x => doIn (fetchWord b n) m x) (fun m x => doIn_core _ m x)
      (fun m x hs he => inDone_same hs he)
    rw [← execute_in op] at does
    obtain ⟨inside, outside⟩ := engineCycle_crew joins hr legal hst hj does.1 does.2
    refine .of_next (act_gated ha (cycleIf_runs joins hr hw)) ⟨fun m hm => (inside m hm).trans ?_, outside,
      engineCycle_frame (by decide) (onlyChanges_refl _ b)⟩
    rw [← siLsb_of_settings settings]
    rfl
  case out =>
    rintro q b n joins w s ha hr rfl hw rfl hst hj
    obtain ⟨op, legal⟩ := isOp_iff.mp hw
    obtain ⟨small, -, -⟩ := runs_iff.mp hr
    have settings := cycleAt_settings (b := b) n joins
    have does := crew_does (b := b) small settings (op := fun m x => doOut (fetchWord b n) m x) (fun m x => doOut_core _ m x)
      (fun m x hs he => outDone_same hs he)
    rw [← execute_out op] at does
    obtain ⟨inside, outside⟩ := engineCycle_crew joins hr legal hst hj does.1 does.2
    refine .of_next (act_gated ha (cycleIf_runs joins hr hw)) ⟨fun m hm => (inside m hm).trans ?_, outside,
      engineCycle_frame (by decide) (onlyChanges_refl _ b)⟩
    rw [← soLsb_of_settings settings]
    rfl
  case mov =>
    rintro q b n joins w s ha hr rfl hw rfl hst hj
    obtain ⟨op, legal⟩ := isOp_iff.mp hw
    obtain ⟨small, -, -⟩ := runs_iff.mp hr
    have does := crew_does (b := b) small (cycleAt_settings n joins) (op := fun m x => doMov (fetchWord b n) m x)
      (fun m x => doMov_core _ m x) (fun m x hs he => movDone_same hs he)
    rw [← execute_mov op] at does
    obtain ⟨inside, outside⟩ := engineCycle_crew joins hr legal hst hj does.1 does.2
    exact .of_next (act_gated ha (cycleIf_runs joins hr hw)) ⟨inside, outside, engineCycle_frame (by decide) (onlyChanges_refl _ b)⟩
  case set =>
    rintro q b n joins w s ha hr rfl hw rfl hst hj
    obtain ⟨op, legal⟩ := isOp_iff.mp hw
    obtain ⟨small, -, -⟩ := runs_iff.mp hr
    have does := crew_does (b := b) small (cycleAt_settings n joins) (op := fun m x => doSet (fetchWord b n) n m x)
      (fun m x => doSet_core _ n m x) (fun m x _ he => by unfold setDone; rw [he])
    rw [← execute_set op] at does
    obtain ⟨inside, outside⟩ := engineCycle_crew joins hr legal hst hj does.1 does.2
    exact .of_next (act_gated ha (cycleIf_runs joins hr hw)) ⟨inside, outside, engineCycle_frame (by decide) (onlyChanges_refl _ b)⟩
  case pins =>
    intro q b n w ha hr hf hw hsel hg hside hm
    obtain ⟨op, legal⟩ := isOp_iff.mp hw
    exact .of_next (act_gated ha (cycleIf_runs false hr (by rw [hf]; exact hw)))
      ⟨set_pins hr hf legal op hsel hg hside hm, engineCycle_frame (by decide) (onlyChanges_refl _ b)⟩
  case push =>
    rintro q b n joins w s ha hr rfl hw rfl hst hj hg
    obtain ⟨op, legal⟩ := isOp_iff.mp hw
    obtain ⟨small, -, -⟩ := runs_iff.mp hr
    have settings := cycleAt_settings (b := b) n joins
    have does := single_does (b := b) small settings hg (op := doPush) doPush_core
    have exec : execute (fetchWord b n) n (cycleAt n joins b) = doPush n (cycleAt n joins b) := by
      rw [execute_push op, ganged_of_settings settings, hg]
      rfl
    rw [← exec] at does
    obtain ⟨inside, outside⟩ := engineCycle_crew joins hr legal hst hj does.1 does.2
    exact .of_next (act_gated ha (cycleIf_runs joins hr hw)) ⟨inside, outside, engineCycle_frame (by decide) (onlyChanges_refl _ b)⟩
  case gangPush =>
    rintro q b n joins w s ha hr rfl hw rfl hst hj hg
    obtain ⟨op, legal⟩ := isOp_iff.mp hw
    obtain ⟨small, -, leads⟩ := runs_iff.mp hr
    have settings := cycleAt_settings (b := b) n joins
    have together := (ganged_of_settings settings n).trans hg
    obtain ⟨kept, crew, gang⟩ := gangPush_does (b := b) small settings together
    have exec : execute (fetchWord b n) n (cycleAt n joins b) = gangPush (n / 4) (cycleAt n joins b) := by
      rw [execute_push op, together]
      rfl
    have regs := engineCycle_core joins hr legal hst hj (fun b => gangRegs b n) (fun _ _ _ => rfl) (fun _ => rfl)
      (fun _ _ h => gangRegs_of_gang (gang_of_core h) n)
    have words : gangWords (cycleAt n joins b) (n / 4) =
        #v[(b.engine n).si, (b.engine (n + 1)).si, (b.engine (n + 2)).si, (b.engine (n + 3)).si] := by
      have whole : 4 * (n / 4) = n := by
        unfold leader at leads
        rw [if_pos hg] at leads
        omega
      unfold gangWords
      simp only [cycleAt_si, whole, Nat.add_zero]
    rw [← exec] at kept crew gang
    obtain ⟨inside, outside⟩ := engineCycle_crew joins hr legal hst hj kept crew
    refine .of_next (act_gated ha (cycleIf_runs joins hr hw))
      ⟨inside, outside, regs.trans (gang.trans ?_), engineCycle_frame (by decide) (onlyChanges_refl _ b)⟩
    rw [cycleAt_gangRegs, words]
  case pull =>
    rintro q b n joins w s ha hr rfl hw rfl hst hj hg
    obtain ⟨op, legal⟩ := isOp_iff.mp hw
    obtain ⟨small, -, -⟩ := runs_iff.mp hr
    have settings := cycleAt_settings (b := b) n joins
    have does := single_does (b := b) small settings hg (op := doPull) doPull_core
    have exec : execute (fetchWord b n) n (cycleAt n joins b) = doPull n (cycleAt n joins b) := by
      rw [execute_pull op, ganged_of_settings settings, hg]
      rfl
    rw [← exec] at does
    obtain ⟨inside, outside⟩ := engineCycle_crew joins hr legal hst hj does.1 does.2
    exact .of_next (act_gated ha (cycleIf_runs joins hr hw)) ⟨inside, outside, engineCycle_frame (by decide) (onlyChanges_refl _ b)⟩
  case gangPull =>
    rintro q b n joins w s ha hr rfl hw rfl hst hj hg
    obtain ⟨op, legal⟩ := isOp_iff.mp hw
    obtain ⟨small, -, -⟩ := runs_iff.mp hr
    have settings := cycleAt_settings (b := b) n joins
    have together := (ganged_of_settings settings n).trans hg
    obtain ⟨kept, crew, gang⟩ := gangPull_does (b := b) small settings together
    have exec : execute (fetchWord b n) n (cycleAt n joins b) = gangPull (n / 4) (cycleAt n joins b) := by
      rw [execute_pull op, together]
      rfl
    have regs := engineCycle_core joins hr legal hst hj (fun b => gangRegs b n) (fun _ _ _ => rfl) (fun _ => rfl)
      (fun _ _ h => gangRegs_of_gang (gang_of_core h) n)
    rw [← exec] at kept crew gang
    obtain ⟨inside, outside⟩ := engineCycle_crew joins hr legal hst hj kept crew
    refine .of_next (act_gated ha (cycleIf_runs joins hr hw))
      ⟨fun m hm => (inside m hm).trans ?_, outside, regs.trans (gang.trans ?_), engineCycle_frame (by decide) (onlyChanges_refl _ b)⟩
    · rw [cycleAt_gangRegs]
      rfl
    · rw [cycleAt_gangRegs]
  case noIn => exact fun q b n joins ha h => act_gated ha (cycleIf_not joins h)
  case noOut => exact fun q b n joins ha h => act_gated ha (cycleIf_not joins h)
  case noMov => exact fun q b n joins ha h => act_gated ha (cycleIf_not joins h)
  case noSet => exact fun q b n joins ha h => act_gated ha (cycleIf_not joins h)
  case noPush => exact fun q b n joins ha h => act_gated ha (cycleIf_not joins h)
  case noPull => exact fun q b n joins ha h => act_gated ha (cycleIf_not joins h)
  case inTotal => exact fun q b n joins ha => ⟨act_gated ha rfl, seqIn_frame (by decide) (onlyChanges_refl _ b)⟩
  case outTotal => exact fun q b n joins ha => ⟨act_gated ha rfl, seqOut_frame (by decide) (onlyChanges_refl _ b)⟩
  case movTotal => exact fun q b n joins ha => ⟨act_gated ha rfl, seqMov_frame (by decide) (onlyChanges_refl _ b)⟩
  case setTotal => exact fun q b n joins ha => ⟨act_gated ha rfl, seqSet_frame (by decide) (onlyChanges_refl _ b)⟩
  case pushTotal => exact fun q b n joins ha => ⟨act_gated ha rfl, seqPush_frame (by decide) (onlyChanges_refl _ b)⟩
  case pullTotal => exact fun q b n joins ha => ⟨act_gated ha rfl, seqPull_frame (by decide) (onlyChanges_refl _ b)⟩

end
end

section
/-! O48: instructions that steer, raise, drop, take and trigger, and those that halt (13 R356, R357, R367 to R369). -/

-- The proofs are elaborated one after another: each waiting in a thread of its own takes more memory than the check allows.
set_option Elab.async false

namespace Sys2Proof.Machine

section
variable {b s : Block} {n : Nat}

/-! ### What the instructions do -/

theorem crewIs_of_engines {x : Block} (h : ∀ k, x.engine k = s.engine k) (n : Nat) : CrewIs b s n s.engine x :=
  ⟨fun m _ => h m, fun m _ _ => h m⟩

/-- DJNZ counts C down. -/
def Engine.counted (w : Half) (e : Engine) : Engine := { e with c := if sel w = 2 then e.c - 1 else e.c }

theorem counted_djnz {w : Half} (h : sel w = 2) : Engine.counted w = fun e => { e with c := e.c - 1 } := by
  unfold Engine.counted
  simp only [if_pos h]

theorem counted_other {w : Half} (h : sel w ≠ 2) (e : Engine) : e.counted w = e := by
  unfold Engine.counted
  simp only [if_neg h]

theorem execute_jmp {w : Half} (h : opOf w = 0) :
    execute w n s = if sel w = 2 then crewMod (fun e => { e with c := e.c - 1 }) n s else s := by
  unfold execute
  rw [h]
  rfl

theorem jmp_does {w : Half} (hn : n < 8) (hs : s.seqSettings = b.seqSettings) (h : opOf w = 0) :
    (execute w n s).seqSettings = b.seqSettings ∧ CrewIs b s n (fun m => (s.engine m).counted w) (execute w n s) := by
  rw [execute_jmp h]
  split
  case isTrue hsel =>
    refine ⟨(crewMod_keeps Block.seqSettings (fun _ _ _ => rfl) _ n s).trans hs, ?_⟩
    rw [counted_djnz hsel]
    exact crewMod_engines hn hs _
  case isFalse hsel =>
    refine ⟨hs, ?_⟩
    simp only [counted_other hsel]
    exact crewIs_of_engines (fun _ => rfl) n

theorem execute_wait {w : Half} (h : opOf w = 1) : execute w n s = s := by
  unfold execute
  rw [h]
  rfl

theorem execute_cad {w : Half} (h : opOf w = 9) : execute w n s =
    engMod n (fun e => { e with latches := vset e.latches (bitsOf w.toNat 7 3) false }) s := by
  unfold execute
  rw [h]
  rfl

theorem isFlag_iff {k : Nat} {w : Half} : isFlag k w = true ↔ opOf w = 8 ∧ badOp w = false ∧ bitsOf w.toNat 11 10 = k := by
  simp only [isFlag, Bool.and_eq_true, beq_iff_eq, isOp_iff, and_assoc]

/-- The engine whose latch is taken is `n`. -/
def Engine.cadTaken (w : Half) (n m : Nat) (e : Engine) : Engine :=
  { e with latches := if m = n then vset e.latches (bitsOf w.toNat 7 3) false else e.latches }

theorem cadTaken_other {w : Half} {m : Nat} (h : m ≠ n) (e : Engine) : e.cadTaken w n m = e := by
  unfold Engine.cadTaken
  simp only [if_neg h]

theorem cadTaken_self (w : Half) (e : Engine) : e.cadTaken w n n = { e with latches := vset e.latches (bitsOf w.toNat 7 3) false } := by
  unfold Engine.cadTaken
  simp only [if_pos]

theorem cad_does {w : Half} (hr : runs b n = true) (hs : s.seqSettings = b.seqSettings) (h : opOf w = 9) :
    (execute w n s).seqSettings = b.seqSettings ∧ CrewIs b s n (fun m => (s.engine m).cadTaken w n m) (execute w n s) := by
  obtain ⟨small, -, leads⟩ := runs_iff.mp hr
  rw [execute_cad h]
  refine ⟨hs, fun m _ => ?_, fun m _ hm => engMod_engine_other (fun e => hm (by rw [← e]; exact self_mem_crew leads)) _⟩
  by_cases hk : n = m
  · subst hk
    exact (engMod_engine_self small _).trans (cadTaken_self w _).symm
  · exact (engMod_engine_other hk _).trans (cadTaken_other (Ne.symm hk) _).symm

/-- A trigger goes to Garnet. -/
def trigSent (s : Block) : Block :=
  (s.modCh (fun c => { c with agateGarnet := c.agateGarnet ++ [.flag] })).modAgate (fun a => { a with cycTrigs := a.cycTrigs + 1 })

section
variable {w : Half} (h : opOf w = 8)
include h

theorem execute_flag : execute w n s =
    match bitsOf w.toNat 11 10 with
    | 0 => raiseFlag (bitsOf w.toNat 5 3) s
    | 1 => dropFlag (bitsOf w.toNat 5 3) s
    | 2 => dropFlag (bitsOf w.toNat 5 3) s
    | _ => trigSent s := by
  unfold execute
  rw [h]
  rfl

theorem execute_raise (hk : bitsOf w.toNat 11 10 = 0) : execute w n s = raiseFlag (bitsOf w.toNat 5 3) s := by
  rw [execute_flag h, hk]
  rfl

theorem execute_drop (hk : bitsOf w.toNat 11 10 = 1 ∨ bitsOf w.toNat 11 10 = 2) : execute w n s = dropFlag (bitsOf w.toNat 5 3) s := by
  rw [execute_flag h]
  obtain hk | hk := hk <;> rw [hk] <;> rfl

theorem execute_trig (hk : bitsOf w.toNat 11 10 = 3) : execute w n s = trigSent s := by
  rw [execute_flag h, hk]
  rfl

end

theorem dropFlag_unraised {i : Nat} (h : vget s.agate.cycRaised i false = false) :
    dropFlag i s = s.modAgate (fun a => { a with flags := vset a.flags i false }) := by
  unfold dropFlag Block.modAgate
  dsimp only
  rw [h]
  rfl

section
variable (joins : Bool)

theorem cycleAt_flags : (cycleAt n joins b).agate.flags = b.agate.flags :=
  cycleAt_field n joins (fun a => a.flags) (fun _ _ _ => rfl) (fun _ _ _ _ _ _ => rfl)

variable (hr : runs b n = true) (hw : badOp (fetchWord b n) = false) (hst : stallOf (cycleAt n joins b) n (fetchWord b n) = .none_)
  (hj : (jumpTo (cycleAt n joins b) n (fetchWord b n)).any (fun a => 48 ≤ a) = false)
include hr hw hst hj

theorem engineCycle_flags : (engineCycle n joins b).agate.flags = (execute (fetchWord b n) n (cycleAt n joins b)).agate.flags :=
  engineCycle_core joins hr hw hst hj (fun b => b.agate.flags) (fun _ _ _ => rfl) (fun _ => rfl) (fun _ _ h => flags_of_core h)

/-- An instruction that leaves every engine. -/
theorem engineCycle_leaves {x : Block} (exec : execute (fetchWord b n) n (cycleAt n joins b) = x)
    (settings : x.seqSettings = (cycleAt n joins b).seqSettings) (same : ∀ k, x.engine k = (cycleAt n joins b).engine k) :
    CrewIs b (cycleAt n joins b) n (fun m => ((cycleAt n joins b).engine m).goOn (pcAfter (cycleAt n joins b) n (fetchWord b n)))
      (engineCycle n joins b) := by
  subst exec
  exact engineCycle_crew joins hr hw hst hj (settings.trans (cycleAt_settings n joins)) (crewIs_of_engines same n)

/-- DROP and TAKE of a flag that was not raised in this cycle. -/
theorem flag_dropped (op : opOf (fetchWord b n) = 8)
    (kind : bitsOf (fetchWord b n).toNat 11 10 = 1 ∨ bitsOf (fetchWord b n).toNat 11 10 = 2)
    (unraised : vget (cycleAt n joins b).agate.cycRaised (bitsOf (fetchWord b n).toNat 5 3) false = false) :
    (∀ m ∈ crew b n, (engineCycle n joins b).engine m = { (cycleAt n joins b).engine m with
      pc := nextPc (cycleAt n joins b) n ((cycleAt n joins b).engine n).pc (jumpTo (cycleAt n joins b) n (fetchWord b n)), stall := .none_ }) ∧
    (∀ m < 8, m ∉ crew b n → (engineCycle n joins b).engine m = (cycleAt n joins b).engine m) ∧
    (engineCycle n joins b).agate.flags = vset b.agate.flags (bitsOf (fetchWord b n).toNat 5 3) false ∧
    onlyChanges [.agate, .ch, .trace] b (engineCycle n joins b) := by
  have exec := (execute_drop (n := n) (s := cycleAt n joins b) op kind).trans (dropFlag_unraised unraised)
  obtain ⟨inside, outside⟩ := engineCycle_leaves joins hr hw hst hj exec rfl (fun _ => rfl)
  have flags := engineCycle_flags joins hr hw hst hj
  rw [exec] at flags
  refine ⟨inside, outside, flags.trans ?_, engineCycle_frame (by decide) (onlyChanges_refl _ b)⟩
  exact congrArg (fun v => vset v _ false) (cycleAt_flags joins)

end

/-! ### Instructions that stall or halt -/

section
variable (joins : Bool) (hr : runs b n = true)
include hr

theorem engineCycle_stalled (hw : badOp (fetchWord b n) = false) {st : StallCause}
    (hst : stallOf (cycleAt n joins b) n (fetchWord b n) = st) (hn : st ≠ .none_) :
    CrewIs b (cycleAt n joins b) n (fun m => { (cycleAt n joins b).engine m with stall := st }) (engineCycle n joins b) ∧
      (engineCycle n joins b).agate.level = b.agate.level ∧ (engineCycle n joins b).agate.flags = b.agate.flags := by
  obtain ⟨small, -, -⟩ := runs_iff.mp hr
  rw [engineCycle_stalls joins hr hw hst hn]
  refine ⟨crewMod_engines small (cycleAt_settings n joins) _, ?_, ?_⟩
  · refine (crewMod_keeps (fun b => b.agate.level) (fun _ _ _ => rfl) _ n _).trans ?_
    exact cycleAt_field n joins (fun a => a.level) (fun _ _ _ => rfl) (fun _ _ _ _ _ _ => rfl)
  · exact (crewMod_keeps (fun b => b.agate.flags) (fun _ _ _ => rfl) _ n _).trans (cycleAt_flags joins)

theorem haltErr_engines (e : EngineErr) : CrewIs b (cycleAt n joins b) n (fun m => { (cycleAt n joins b).engine m with
    en := false, err := e, stall := .none_ }) (haltErr n e (cycleAt n joins b)) := by
  obtain ⟨small, -, -⟩ := runs_iff.mp hr
  exact crewMod_engines small (cycleAt_settings n joins) _

theorem illegalOpcode_bad (hw : badOp (fetchWord b n) = true) : illegalOpcode n joins b = haltErr n .badOp (cycleAt n joins b) := by
  rw [← engineCycle_bad joins hr hw]
  exact if_pos (by rw [hr, hw]; rfl)

theorem illegalOpcode_badAddr (hw : badOp (fetchWord b n) = false) (hst : stallOf (cycleAt n joins b) n (fetchWord b n) = .none_)
    (hj : (jumpTo (cycleAt n joins b) n (fetchWord b n)).any (fun a => 48 ≤ a) = true) :
    illegalOpcode n joins b = haltErr n .badAddr (cycleAt n joins b) := by
  rw [← engineCycle_badAddr joins hr hw hst hj]
  exact if_pos (by rw [hr, hw, hst, hj]; rfl)

/-- The first cycle of a CAD NEXT. -/
theorem begun_next {w : Half} (hf : fetchWord b n = w) (ho : opOf w = 9) (hb : bitOf w.toNat 11 = true)
    (hd : vget b.agate.due n false = true) (hs : (b.engine n).stall = .none_) :
    stallOf (cycleAt n joins b) n w = .cad ∧ vget ((cycleAt n joins b).engine n).latches (bitsOf w.toNat 7 3) false = false := by
  have begins : cycleAt n joins b = beginCycle b := if_neg (by rw [hd, Bool.not_true, Bool.and_false]; exact Bool.false_ne_true)
  obtain ⟨v, at_⟩ := (startDue_self hr).2 hd
  have at' : (beginCycle b).engine n = begun b n v := at_
  have word : nextWord b n = w := by
    rw [← hf]
    unfold fetchWord
    rw [hd]
    rfl
  have first : isFirst b n = true := by
    unfold isFirst
    rw [hs]
    rfl
  rw [begins]
  constructor
  · unfold stallOf
    rw [ho, at']
    exact if_pos (by rw [hb, show (begun b n v).first = true from first]; rfl)
  · rw [at']
    unfold begun clearedNext
    rw [word, first, if_pos (by simp [ho, hb])]
    exact vget_vset_self (bitsOf_lt ..) ..

end

end

end Sys2Proof.Machine

section
open Sys2Proof Sys2Proof.Machine

/-- Settles O48: what each instruction leaves of the engines of its crew and of the flags, the stalls, and the halts. -/
theorem engineInstructionsSteer : Obligations.EngineInstructionsSteer := by
  refine ⟨?jmp, ?wait, ?waits, ?pulls, ?pushes, ?takes, ?raise, ?drop, ?take, ?trig, ?cad, ?next, ?badOp, ?badAddr, ?halted,
    ?noJmp, ?noWait, ?noRaise, ?noDrop, ?noTake, ?noTrig, ?noCad, ?jmpTotal, ?waitTotal, ?takeTotal, ?raiseTotal, ?dropTotal,
    ?trigTotal, ?cadTotal, ?illegalTotal⟩
  case jmp =>
    rintro q b n joins w s ha hr rfl hw rfl hst hj
    obtain ⟨op, legal⟩ := isOp_iff.mp hw
    obtain ⟨small, -, -⟩ := runs_iff.mp hr
    obtain ⟨settings, does⟩ := jmp_does small (cycleAt_settings n joins) op
    obtain ⟨inside, outside⟩ := engineCycle_crew joins hr legal hst hj settings does
    exact .of_next (act_gated ha (cycleIf_runs joins hr hw)) ⟨inside, outside, engineCycle_frame (by decide) (onlyChanges_refl _ b)⟩
  case wait =>
    rintro q b n joins w s ha hr rfl hw rfl hst hj
    obtain ⟨op, legal⟩ := isOp_iff.mp hw
    have exec := execute_wait (n := n) (s := cycleAt n joins b) op
    obtain ⟨inside, outside⟩ := engineCycle_leaves joins hr legal hst hj exec rfl (fun _ => rfl)
    exact .of_next (act_gated ha (cycleIf_runs joins hr hw)) ⟨inside, outside, engineCycle_frame (by decide) (onlyChanges_refl _ b)⟩
  case waits =>
    rintro q b n joins w s ha hr rfl hw rfl hst
    obtain ⟨⟨inside, outside⟩, level, flags⟩ := engineCycle_stalled joins hr (isOp_iff.mp hw).2 hst (by decide)
    exact .of_next (act_gated ha (cycleIf_runs joins hr hw))
      ⟨inside, outside, level, flags, engineCycle_frame (by decide) (onlyChanges_refl _ b)⟩
  case pulls =>
    rintro q b n joins w s ha hr rfl hw rfl hst
    obtain ⟨⟨inside, outside⟩, level, flags⟩ := engineCycle_stalled joins hr (isOp_iff.mp hw).2 hst (by decide)
    exact .of_next (act_gated ha (cycleIf_runs joins hr hw))
      ⟨inside, outside, level, flags, engineCycle_frame (by decide) (onlyChanges_refl _ b)⟩
  case pushes =>
    rintro q b n joins w s ha hr rfl hw rfl hst
    obtain ⟨⟨inside, outside⟩, level, flags⟩ := engineCycle_stalled joins hr (isOp_iff.mp hw).2 hst (by decide)
    exact .of_next (act_gated ha (cycleIf_runs joins hr hw))
      ⟨inside, outside, level, flags, engineCycle_frame (by decide) (onlyChanges_refl _ b)⟩
  case takes =>
    rintro q b n joins w s ha hr rfl hw rfl hst
    obtain ⟨⟨inside, outside⟩, level, flags⟩ := engineCycle_stalled joins hr (isFlag_iff.mp hw).2.1 hst (by decide)
    exact .of_next (act_gated ha (cycleIf_runs joins hr hw))
      ⟨inside, outside, level, flags, engineCycle_frame (by decide) (onlyChanges_refl _ b)⟩
  case raise =>
    rintro q b n joins w s ha hr rfl hw rfl hst hj
    obtain ⟨op, legal, kind⟩ := isFlag_iff.mp hw
    have exec := execute_raise (n := n) (s := cycleAt n joins b) op kind
    obtain ⟨inside, outside⟩ := engineCycle_leaves joins hr legal hst hj exec rfl (fun _ => rfl)
    have flags := engineCycle_flags joins hr legal hst hj
    rw [exec] at flags
    refine .of_next (act_gated ha (cycleIf_runs joins hr hw))
      ⟨inside, outside, flags.trans ?_, engineCycle_frame (by decide) (onlyChanges_refl _ b)⟩
    exact congrArg (fun v => vset v _ true) (cycleAt_flags joins)
  case drop =>
    rintro q b n joins w s ha hr rfl hw rfl hst hj hraised
    obtain ⟨op, legal, kind⟩ := isFlag_iff.mp hw
    exact .of_next (act_gated ha (cycleIf_runs joins hr hw)) (flag_dropped joins hr legal hst hj op (.inl kind) hraised)
  case take =>
    rintro q b n joins w s ha hr rfl hw rfl hst hj hraised
    obtain ⟨op, legal, kind⟩ := isFlag_iff.mp hw
    exact .of_next (act_gated ha (cycleIf_runs joins hr hw)) (flag_dropped joins hr legal hst hj op (.inr kind) hraised)
  case trig =>
    rintro q b n joins w s ha hr rfl hw rfl hst hj
    obtain ⟨op, legal, kind⟩ := isFlag_iff.mp hw
    have exec := execute_trig (n := n) (s := cycleAt n joins b) op kind
    obtain ⟨inside, outside⟩ := engineCycle_leaves joins hr legal hst hj exec rfl (fun _ => rfl)
    have flags := engineCycle_flags joins hr legal hst hj
    have sent := engineCycle_core joins hr legal hst hj (fun b => b.ch.agateGarnet) (fun _ _ _ => rfl) (fun _ => rfl)
      (fun _ _ h => agateGarnet_of_core h)
    rw [exec] at flags sent
    refine .of_next (act_gated ha (cycleIf_runs joins hr hw))
      ⟨inside, outside, sent.trans ?_, flags.trans (cycleAt_flags joins), engineCycle_frame (by decide) (onlyChanges_refl _ b)⟩
    exact congrArg (· ++ [.flag]) (cycleAt_agateGarnet n joins)
  case cad =>
    rintro q b n joins w s ha hr rfl hw rfl hst hj
    obtain ⟨op, legal⟩ := isOp_iff.mp hw
    obtain ⟨settings, does⟩ := cad_does hr (cycleAt_settings n joins) op
    obtain ⟨inside, outside⟩ := engineCycle_crew joins hr legal hst hj settings does
    exact .of_next (act_gated ha (cycleIf_runs joins hr hw)) ⟨inside, outside, engineCycle_frame (by decide) (onlyChanges_refl _ b)⟩
  case next =>
    rintro q b n joins w s ha hr rfl hw rfl hb hd hs hg
    obtain ⟨op, legal⟩ := isOp_iff.mp hw
    obtain ⟨hst, cleared⟩ := begun_next joins hr rfl op hb hd hs
    obtain ⟨⟨inside, -⟩, -, -⟩ := engineCycle_stalled joins hr legal hst (by decide)
    have here := inside n (self_mem_crew (runs_iff.mp hr).2.2)
    refine .of_next (act_gated ha (cycleIf_runs joins hr hw)) ⟨here, ?_, engineCycle_frame (by decide) (onlyChanges_refl _ b)⟩
    rw [here]
    exact cleared
  case badOp =>
    rintro q b n joins s ha hr hw rfl
    have eq := illegalOpcode_bad joins hr hw
    obtain ⟨inside, outside⟩ := haltErr_engines joins hr .badOp
    exact .of_next (act_gated ha eq) ⟨inside, outside, eq ▸ illegalOpcode_frame (by decide) (onlyChanges_refl _ b)⟩
  case badAddr =>
    rintro q b n joins s ha hr hw rfl hst hj
    have eq := illegalOpcode_badAddr joins hr hw hst hj
    obtain ⟨inside, outside⟩ := haltErr_engines joins hr .badAddr
    exact .of_next (act_gated ha eq) ⟨inside, outside, eq ▸ illegalOpcode_frame (by decide) (onlyChanges_refl _ b)⟩
  case halted => exact fun q b n joins ha hr => act_gated ha (if_neg (by rw [hr]; exact Bool.false_ne_true))
  case noJmp => exact fun q b n joins ha h => act_gated ha (cycleIf_not joins h)
  case noWait => exact fun q b n joins ha h => act_gated ha (cycleIf_not joins h)
  case noRaise => exact fun q b n joins ha h => act_gated ha (cycleIf_not joins h)
  case noDrop => exact fun q b n joins ha h => act_gated ha (cycleIf_not joins h)
  case noTake => exact fun q b n joins ha h => act_gated ha (cycleIf_not joins h)
  case noTrig => exact fun q b n joins ha h => act_gated ha (cycleIf_not joins h)
  case noCad => exact fun q b n joins ha h => act_gated ha (cycleIf_not joins h)
  case jmpTotal => exact fun q b n joins ha => ⟨act_gated ha rfl, seqJmp_frame (by decide) (onlyChanges_refl _ b)⟩
  case waitTotal => exact fun q b n joins ha => ⟨act_gated ha rfl, seqWait_frame (by decide) (onlyChanges_refl _ b)⟩
  case takeTotal => exact fun q b n joins ha => ⟨act_gated ha rfl, flagTake_frame (by decide) (onlyChanges_refl _ b)⟩
  case raiseTotal => exact fun q b n joins ha => ⟨act_gated ha rfl, flagRaise_frame (by decide) (onlyChanges_refl _ b)⟩
  case dropTotal => exact fun q b n joins ha => ⟨act_gated ha rfl, flagDrop_frame (by decide) (onlyChanges_refl _ b)⟩
  case trigTotal => exact fun q b n joins ha => ⟨act_gated ha rfl, flagTrig_frame (by decide) (onlyChanges_refl _ b)⟩
  case cadTotal => exact fun q b n joins ha => ⟨act_gated ha rfl, seqCad_frame (by decide) (onlyChanges_refl _ b)⟩
  case illegalTotal => exact fun q b n joins ha => ⟨act_gated ha rfl, illegalOpcode_frame (by decide) (onlyChanges_refl _ b)⟩

end
end

section
/-! O50: edges, Cadence events and transfers at the engines (04 R100; 08 R219; 13 R363, R365, R366, R369; 18 R476, R477). -/

-- The proofs are elaborated one after another: each waiting in a thread of its own takes more memory than the check allows.
set_option Elab.async false

namespace Sys2Proof.Machine

section
variable {b : Block}

/-! ### Edges -/

theorem seqIoEdge_seen {p : Nat} {level : Bool} (hp : p < 16) (h : (padDriven b p).any (· != level) = false) : seqIoEdge p level b =
    { startDue b with agate := { (startDue b).agate with seen := vset (startDue b).agate.seen p level } } :=
  if_neg (by rw [h, decide_eq_false (Nat.not_le.mpr hp)]; decide)

theorem seqIoEdge_driven {p : Nat} {level : Bool} (h : 16 ≤ p ∨ (padDriven b p).any (· != level) = true) : seqIoEdge p level b = b := by
  refine if_pos ?_
  obtain h | h := h
  · rw [decide_eq_true h]
    rfl
  · rw [h, Bool.or_true]

theorem trigInEdge_armed (joins : Bool) (ha : (startDue b).agate.trigArmed = true) (hl : (startDue b).agate.trigLevel = false) :
    trigInEdge joins b = { startDue b with
      agate := { (startDue b).agate with trigLevel := true, trigArmed := false }
      ch := { (startDue b).ch with
        agateGarnet := putPinFirst (if joins = true then (startDue b).agate.cycTrigs else 0) (startDue b).ch.agateGarnet } } := by
  unfold trigInEdge
  dsimp only
  rw [ha, hl]
  rfl

theorem trigInEdge_disarmed (joins : Bool) (h : (startDue b).agate.trigArmed = false ∨ (startDue b).agate.trigLevel = true) :
    trigInEdge joins b = { startDue b with agate := { (startDue b).agate with trigLevel := true, trigArmed := false } } := by
  unfold trigInEdge
  dsimp only
  refine if_neg ?_
  obtain h | h := h
  · rw [h, Bool.false_and]
    exact Bool.false_ne_true
  · rw [h, Bool.not_true, Bool.and_false]
    exact Bool.false_ne_true

theorem gioTrigWrite_off {w : Word} (h : b.bar0 = false) : gioTrigWrite w b = b := if_pos (by rw [h]; rfl)

theorem gioTrigWrite_on {w : Word} (h : b.bar0 = true) : gioTrigWrite w b =
    if b.field 0x8440 0 0 = w.toNat % 2 then b.setReg 0x8440 (w.toNat &&& 0xFFFF0001)
    else (b.setReg 0x8440 (w.toNat &&& 0xFFFF0001)).modAgate (fun a => { a with trigLevel := false, trigArmed := false }) :=
  if_neg (by rw [h]; decide)

/-! ### Cadence events -/

/-- The engines' part of the block, of which the start of a cycle is made. -/
def Block.seqState (b : Block) : Agate × List (Nat × Word) := (b.agate, b.regs)

theorem foldl_view {α β : Type} {f : Block → α → Block} {g : Block → β} (hf : ∀ x y a, g x = g y → g (f x a) = g (f y a)) (l : List α)
    {x y : Block} (h : g x = g y) : g (l.foldl f x) = g (l.foldl f y) := by
  induction l generalizing x y with
  | nil => exact h
  | cons a l ih => exact ih (hf x y a h)

section
variable {x y : Block} (h : x.seqState = y.seqState)
include h

theorem seqState_iff : x.agate = y.agate ∧ x.regs = y.regs := Prod.mk.inj h

theorem fetchCycle_view (w : Half) (first : Bool) (m : Nat) : (fetchCycle w first m x).seqState = (fetchCycle w first m y).seqState := by
  obtain ⟨agate, regs⟩ := seqState_iff h
  unfold fetchCycle engMod takeSample Block.seqState Block.engine gangRegs pinLevel muxFunc Block.field Block.reg Block.modAgate
  simp only [agate, regs]

theorem startCycle_view (n : Nat) : (startCycle n x).seqState = (startCycle n y).seqState := by
  obtain ⟨agate, regs⟩ := seqState_iff h
  have settings : x.seqSettings = y.seqSettings := by
    unfold Block.seqSettings
    rw [agate, regs]
  have engine (k : Nat) : x.engine k = y.engine k := congrArg (fun a : Agate => vget a.eng k blankEngine) agate
  have same : runs x n = runs y n := runs_of_keeps settings (congrArg Engine.steady (engine n))
  cases hr : runs y n with
  | false =>
    rw [startCycle_stopped hr, startCycle_stopped (same.trans hr)]
    exact h
  | true =>
    have word : nextWord x n = nextWord y n := by
      unfold nextWord
      rw [agate, engine]
    have first : isFirst x n = isFirst y n := by
      unfold isFirst
      rw [word, engine]
    rw [startCycle_runs hr, startCycle_runs (same.trans hr), word, first]
    have cleared : (engMod n (clearedNext (nextWord y n) (isFirst y n)) x).seqState =
        (engMod n (clearedNext (nextWord y n) (isFirst y n)) y).seqState := by
      unfold engMod Block.seqState Block.engine Block.modAgate
      simp only [agate, regs]
    have crew : crew (engMod n (clearedNext (nextWord y n) (isFirst y n)) x) n =
        crew (engMod n (clearedNext (nextWord y n) (isFirst y n)) y) n := crew_of_settings (b := y) (c := x) settings n
    rw [crew]
    exact foldl_view (g := Block.seqState) (f := fun z m => fetchCycle (nextWord y n) (isFirst y n) m z) (fun _ _ m h => fetchCycle_view h _ _ m) _ cleared

theorem startDue_view : (startDue x).seqState = (startDue y).seqState := by
  obtain ⟨agate, regs⟩ := seqState_iff h
  unfold startDue
  rw [agate]
  refine foldl_view (g := Block.seqState) (f := fun z n => if vget y.agate.due n false then startCycle n z else z) (fun _ _ n h => ?_) _ ?_
  · split
    · exact startCycle_view h n
    · exact h
  · unfold Block.seqState Block.modAgate
    simp only [agate, regs]

end

theorem cadenceEventAgate_none (lost : Nat) (h : b.ch.quartzAgate = []) : cadenceEventAgate lost b = b := by
  have same : b.modCh (fun c => { c with quartzAgate := c.quartzAgate.drop 0 }) = b := rfl
  unfold cadenceEventAgate
  rw [h, List.length_nil, Nat.min_zero]
  dsimp only
  rw [same, show gapSeen 0 = false from rfl, if_neg Bool.false_ne_true, h]

/-- The event is taken, and each engine that runs is told. -/
theorem cadenceEventAgate_one {k : Nat} {l : List Nat} (h : b.ch.quartzAgate = k :: l) : cadenceEventAgate 0 b =
    (List.range 8).foldl (fun x n => engMod n (latchEvent k) x) (startDue (b.modCh (fun c => { c with quartzAgate := l }))) := by
  have same : b.modCh (fun c => { c with quartzAgate := c.quartzAgate.drop 0 }) = b := rfl
  unfold cadenceEventAgate
  rw [Nat.zero_min]
  dsimp only
  rw [same, show gapSeen 0 = false from rfl, if_neg Bool.false_ne_true, h]

theorem latchEvent_eq (k : Nat) (e : Engine) : latchEvent k e = if e.en = false then e
    else if vget e.latches k false = true then { e with miss := min 65535 (e.miss + 1) }
    else { e with latches := vset e.latches k true } := by
  unfold latchEvent satAdd
  simp only [Bool.not_eq_true']

theorem startDue_ch (b : Block) : (startDue b).ch.quartzAgate = b.ch.quartzAgate :=
  (congrArg Channels.quartzAgate (kept_ch (startDue_frame (List.Subset.refl _) (onlyChanges_refl _ b)) (by decide)) :)

theorem latched_engine {k : Nat} {l : List Nat} (h : b.ch.quartzAgate = k :: l) {n : Nat} (hn : n < 8) :
    (cadenceEventAgate 0 b).engine n = latchEvent k ((startDue b).engine n) ∧ (cadenceEventAgate 0 b).ch.quartzAgate = l := by
  let x := startDue (b.modCh (fun c => { c with quartzAgate := l }))
  have engine : x.engine n = (startDue b).engine n :=
    congrArg (fun v : Agate × List (Nat × Word) => vget v.1.eng n blankEngine)
      (startDue_view (x := b.modCh (fun c => { c with quartzAgate := l })) (y := b) rfl)
  rw [cadenceEventAgate_one h]
  constructor
  · rw [(foldl_engMod (fun _ => latchEvent k) List.nodup_range (fun m hm => List.mem_range.mp hm) x).1 n (List.mem_range.mpr hn), engine]
  · exact (foldl_keeps (f := fun x n => engMod n (latchEvent k) x) (g := fun b => b.ch.quartzAgate) (fun _ _ => rfl) _ x).trans
      (startDue_ch _)

/-! ### Transfers -/

theorem not_of_ite_none {α : Type} {c : Prop} [Decidable c] {x : α} {r : Option α} (h : (if c then some x else r) = none) :
    ¬c ∧ r = none := by
  split at h
  · cases h
  · exact ⟨‹_›, h⟩

/-- A transfer without a fault. -/
theorem transferFault_none {d : List Byte} (h : transferFault b d = none) : leAt d 16 1 < 8 ∧
    (leAt d 17 1 < 2 → ganged b (leAt d 16 1) = false) ∧
    (leAt d 17 1 = 2 → leAt d 18 1 + leAt d 32 2 ≤ 48) ∧ leAt d 32 2 ≠ 0 := by
  unfold transferFault at h
  dsimp only at h
  obtain ⟨engine, h⟩ := not_of_ite_none h
  obtain ⟨-, h⟩ := not_of_ite_none h
  obtain ⟨store, h⟩ := not_of_ite_none h
  obtain ⟨-, h⟩ := not_of_ite_none h
  obtain ⟨-, h⟩ := not_of_ite_none h
  obtain ⟨count, -⟩ := not_of_ite_none h
  simp only [Bool.or_eq_true, Bool.and_eq_true, decide_eq_true_eq, not_or, not_and, Bool.not_eq_true] at engine store count
  refine ⟨Nat.lt_succ_of_le (Nat.not_lt.mp engine.1), engine.2, fun two => ?_, count.1⟩
  have := store two
  omega

section
variable {codes : List Nat} {op : TransferOp} {i : Nat} {buf : Option (List Byte)} {move : Transfer → Block → Block}

theorem seqTransfer_undispatched (h : b.dispatched ctrlRing i 0x0C = none) : seqTransfer op codes i buf move b = b := by
  unfold seqTransfer
  rw [h]
  cases b.agate.transfers.find? (fun t => t.desc == i && t.op == op) <;> rfl

/-- The one transfer in hand cannot read its buffer. -/
theorem seqTransfer_unread {d : List Byte} {x : Transfer} (h : b.dispatched ctrlRing i 0x0C = some d) (ht : b.agate.transfers = [x])
    (hi : x.desc = i) (ho : x.op = op) : seqTransfer op codes i none move b = endTransfer x stHostFault b := by
  have found : b.agate.transfers.find? (fun t => t.desc == i && t.op == op) = some x := by simp [ht, hi, ho]
  unfold seqTransfer
  rw [found, h]

section
variable {d : List Byte} (h : b.dispatched ctrlRing i 0x0C = some d) (ht : b.agate.transfers = []) (hc : codes.contains (leAt d 17 1) = true)
include h ht hc

/-- A descriptor of this type with no transfer in hand. -/
theorem seqTransfer_fault {off : Nat} (hf : transferFault b d = some off) :
    seqTransfer op codes i buf move b = finishCtrl i stMalformed frameNone 0 off b := by
  unfold seqTransfer
  simp only [h, ht, hc, hf, List.find?_nil, List.any_nil, Bool.not_true, Bool.or_false, Bool.false_eq_true, if_false]

theorem seqTransfer_unreadable (hf : transferFault b d = none) :
    seqTransfer op codes i none move b = finishCtrl i stHostFault frameNone 0 0 b := by
  unfold seqTransfer
  simp only [h, ht, hc, hf, List.find?_nil, List.any_nil, Bool.not_true, Bool.or_false, Bool.false_eq_true, if_false]

theorem seqTransfer_begins (hf : transferFault b d = none) (v : List Byte) :
    seqTransfer op codes i (some v) move b =
      move ⟨i, if op = .program then leAt d 18 1 else leAt d 16 1, op, leAt d 32 2, 0, leAt d 24 8, v⟩
        (if op = .program then b else wakeSqe (leAt d 16 1) b) := by
  unfold seqTransfer
  simp only [h, ht, hc, hf, List.find?_nil, List.any_nil, Bool.not_true, Bool.or_false, Bool.false_eq_true, if_false]

end

end

theorem endTransfer_one {x : Transfer} (ht : b.agate.transfers = [x]) {st : Nat} (hs : st ≠ stOk) : endTransfer x st b =
    finishCtrl x.desc st frameNone x.moved 0 { b with agate := { b.agate with transfers := [] } } := by
  have gone : b.agate.transfers.filter (fun y => y.desc != x.desc) = [] := by simp [ht]
  unfold endTransfer Block.modAgate
  dsimp only
  rw [gone, if_neg hs]

/-- The only transfer. -/
def withTransfers (l : List Transfer) (b : Block) : Block := b.modAgate (fun a => { a with transfers := l })

/-- A transfer is in hand where none was. -/
theorem withTransfers_first {x : Transfer} (ht : b.agate.transfers = []) : b.modAgate (fun a => { a with
    transfers := a.transfers.filter (fun y => y.desc != x.desc) ++ [x] }) = withTransfers [x] b := by
  unfold withTransfers Block.modAgate
  dsimp only
  rw [ht]
  rfl

/-- A transfer that has moved all its words ends. -/
theorem keepTransfer_done {x : Transfer} (ht : b.agate.transfers = []) (hw : x.words ≤ x.moved) :
    keepTransfer x b = finishCtrl x.desc stOk frameNone 0 0 (withTransfers [] b) := by
  have gone : (withTransfers [x] b).modAgate (fun a => { a with transfers := a.transfers.filter (fun y => y.desc != x.desc) }) =
      withTransfers [] b := by
    unfold withTransfers Block.modAgate
    dsimp only
    rw [List.filter_cons_of_neg (by simp), List.filter_nil]
  unfold keepTransfer
  dsimp only
  rw [if_pos hw, withTransfers_first ht]
  unfold endTransfer
  dsimp only
  rw [gone]
  rfl

theorem keepTransfer_open {x : Transfer} (ht : b.agate.transfers = []) (hw : x.moved < x.words) :
    keepTransfer x b = withTransfers [x] b := by
  unfold keepTransfer
  dsimp only
  rw [if_neg (Nat.not_le.mpr hw), withTransfers_first ht]

/-! ### Work that wakes an engine -/

theorem wakeSqe_kept (n : Nat) (b : Block) : onlyChanges [.posts, .topaz] b (wakeSqe n b) :=
  wakeSqe_frame (List.Subset.refl _) (onlyChanges_refl _ b)

theorem wakeSqe_agate (n : Nat) (b : Block) : (wakeSqe n b).agate = b.agate := (wakeSqe_kept n b).at_ .agate (by decide)

theorem wakeSqe_state (n : Nat) (b : Block) : (wakeSqe n b).seqState = b.seqState :=
  Prod.ext (wakeSqe_agate n b) ((wakeSqe_kept n b).at_ .regs (by decide))

theorem wakeSqe_settings (n : Nat) (b : Block) : (wakeSqe n b).seqSettings = b.seqSettings :=
  congrArg (fun v : Agate × List (Nat × Word) => (v.2, v.1.gangLo, v.1.gangHi)) (wakeSqe_state n b)

theorem wakeSqe_engine (n k : Nat) (b : Block) : (wakeSqe n b).engine k = b.engine k :=
  congrArg (fun a : Agate => vget a.eng k blankEngine) (wakeSqe_agate n b)

theorem wakeSqe_hostUp (n : Nat) (b : Block) : (wakeSqe n b).hostUp = b.hostUp := by
  unfold wakeSqe
  split
  · have isl : (wakeUnit .agate 0 b).isl .opal = b.isl .opal := Block.modIsl_isl_of_ne (by decide) b _
    show (b.inPower .opal && ((wakeUnit .agate 0 b).isl .opal).frozen.isNone && !((wakeUnit .agate 0 b).isl .opal).failStop &&
      b.opal.link) = _
    rw [isl]
    rfl
  · rfl

/-- The queues and what moves through them stay as a cycle begins. -/
theorem startDue_queues (b : Block) (k : Nat) : ((startDue b).engine k).tx = (b.engine k).tx ∧
    ((startDue b).engine k).rx = (b.engine k).rx :=
  ⟨(congrArg Engine.tx (startDue_steady b k) :), (congrArg Engine.rx (startDue_steady b k) :)⟩

theorem startDue_transfers (b : Block) : (startDue b).agate.transfers = b.agate.transfers :=
  startDue_field b (fun a => a.transfers) (fun _ _ _ => rfl)

theorem startDue_store (b : Block) : (startDue b).agate.store = b.agate.store :=
  startDue_field b (fun a => a.store) (fun _ _ _ => rfl)

/-! ### TX -/

/-- The words of a TX buffer. -/
def txWords (v : List Byte) (n : Nat) : List Word := (List.range n).map (fun k => BitVec.ofNat 32 (leAt v (4 * k) 4))

/-- TX words that were read, with room for all. -/
theorem moveTx_all {x : Transfer} (hg : ganged b x.engine = false) (h0 : x.moved = 0) (hv : 4 * x.words ≤ x.data.length)
    (room : (b.engine x.engine).tx.length + x.words ≤ txDepth b x.engine) : moveTx x b =
      keepTransfer { x with moved := x.words } (engMod x.engine (fun e => { e with tx := e.tx ++ txWords x.data x.words }) (startDue b)) := by
  have depth : txDepth (startDue b) x.engine = txDepth b x.engine := by
    unfold txDepth qJoin
    rw [field_of_settings (startDue_settings b)]
  have all : min (txDepth (startDue b) x.engine - ((startDue b).engine x.engine).tx.length) (min x.words (x.data.length / 4) - x.moved) =
      x.words := by
    rw [depth, (startDue_queues b x.engine).1, h0]
    omega
  have words : (wordsOf 4 x.data 0 x.words).map (BitVec.ofNat 32) = txWords x.data x.words := by
    simp [wordsOf, txWords, Function.comp_def]
  unfold moveTx
  rw [if_neg (by rw [hg]; exact Bool.false_ne_true)]
  dsimp only
  rw [all, h0, words, Nat.zero_add]

/-! ### RX -/

/-- The bytes of RX words. -/
def rxBytes (l : List Word) : List Byte := l.flatMap (fun w => leBytes 4 w.toNat)

/-- RX words that are all there, in a buffer that can be written. -/
theorem moveRx_all {x : Transfer} (hg : ganged b x.engine = false) (hu : b.hostUp = true) (h0 : x.moved = 0) (hw : x.words ≠ 0)
    (there : x.words ≤ (b.engine x.engine).rx.length) : moveRx x b = keepTransfer { x with moved := x.words }
      ((engMod x.engine (fun e => { e with rx := e.rx.drop x.words }) (startDue b)).hostWrite x.addr
        (rxBytes ((b.engine x.engine).rx.take x.words))) := by
  have taken : ((startDue b).engine x.engine).rx.take (x.words - x.moved) = (b.engine x.engine).rx.take x.words := by
    rw [(startDue_queues b x.engine).2, h0, Nat.sub_zero]
  have length : ((b.engine x.engine).rx.take x.words).length = x.words := by rw [List.length_take, Nat.min_eq_left there]
  have some_ : ((b.engine x.engine).rx.take x.words).isEmpty = false := by
    rw [List.isEmpty_eq_false_iff, ← List.length_pos_iff, length]
    exact Nat.pos_of_ne_zero hw
  unfold moveRx
  rw [if_neg (by rw [hg, hu]; decide)]
  dsimp only
  rw [taken, length, some_, h0, Nat.zero_add]
  rfl

theorem moveRx_down {x : Transfer} (hu : b.hostUp = false) : moveRx x b = keepTransfer x b :=
  if_pos (by rw [hu, Bool.not_false, Bool.or_true])

/-! ### PROGRAM -/

/-- A word goes into the program store. -/
def storeWord (a : Nat) (b : Block) (e : Nat × Nat) : Block :=
  startDue (b.modAgate (fun s => { s with store := vset s.store (a + e.2) (BitVec.ofNat 16 e.1) }))

theorem storeWord_store (a : Nat) (b : Block) (e : Nat × Nat) :
    (storeWord a b e).agate.store = vset b.agate.store (a + e.2) (BitVec.ofNat 16 e.1) := startDue_store _

/-- Words at consecutive addresses: each is stored, and what lies before stays. -/
theorem storeWords_store (a : Nat) (l : List Nat) (i : Nat) (hl : a + i + l.length ≤ 48) (b : Block) :
    (∀ k < l.length, vget ((l.zipIdx i).foldl (storeWord a) b).agate.store (a + i + k) 0 = BitVec.ofNat 16 (l.getD k 0)) ∧
      ∀ j < a + i, vget ((l.zipIdx i).foldl (storeWord a) b).agate.store j 0 = vget b.agate.store j 0 := by
  induction l generalizing i b with
  | nil => exact ⟨fun k hk => absurd hk (Nat.not_lt_zero k), fun _ _ => rfl⟩
  | cons w l ih =>
    rw [List.length_cons] at hl
    obtain ⟨stored, before⟩ := ih (i + 1) (by omega) (storeWord a b (w, i))
    rw [List.zipIdx_cons, List.foldl_cons]
    refine ⟨fun k hk => ?_, fun j hj => ?_⟩
    · cases k with
      | zero =>
        rw [before _ (by omega), storeWord_store]
        exact vget_vset_self (by omega) ..
      | succ k =>
        have := stored k (by simpa using hk)
        rwa [show a + (i + 1) + k = a + i + (k + 1) from by omega] at this
    · rw [before j (by omega), storeWord_store]
      exact (vget_vset ..).trans (if_neg (fun (h : a + i = j ∧ j < 48) => by omega))

theorem storeWords_transfers (a : Nat) (l : List (Nat × Nat)) (b : Block) :
    (l.foldl (storeWord a) b).agate.transfers = b.agate.transfers :=
  foldl_keeps (f := storeWord a) (g := fun b => b.agate.transfers) (fun _ _ => startDue_transfers _) l b

/-- The words of a program buffer. -/
def programWords (v : List Byte) (n : Nat) : List Nat := (List.range n).map (fun k => leAt v (2 * k) 2)

theorem moveProgram_all {x : Transfer} {cycles : Nat} (h0 : x.moved = 0) (hv : 2 * x.words ≤ x.data.length) (hc : x.words ≤ cycles) :
    moveProgram cycles x b =
      keepTransfer { x with moved := x.words } (((programWords x.data x.words).zipIdx).foldl (storeWord x.engine) b) := by
  have all : min cycles (min x.words (x.data.length / 2) - x.moved) = x.words := by
    rw [h0]
    omega
  have words : wordsOf 2 x.data 0 x.words = programWords x.data x.words := by
    simp [wordsOf, programWords]
  unfold moveProgram
  dsimp only
  rw [all, h0, words, Nat.zero_add, Nat.add_zero]
  rfl

/-! ### A descriptor with no transfer in hand -/

section
variable {i : Nat} {d : List Byte} (hd : b.dispatched ctrlRing i 0x0C = some d) (ht : b.agate.transfers = []) (hf : transferFault b d = none)
include hd ht hf

theorem seqTransferTx_all {v : List Byte} (ho : leAt d 17 1 = 0) (hv : 4 * leAt d 32 2 ≤ v.length)
    (room : (b.engine (leAt d 16 1)).tx.length + leAt d 32 2 ≤ txDepth b (leAt d 16 1)) :
    ((seqTransferTx i (some v) b).engine (leAt d 16 1)).tx = (b.engine (leAt d 16 1)).tx ++ txWords v (leAt d 32 2) ∧
      (seqTransferTx i (some v) b).agate.transfers = [] ∧
      onlyChanges [.posts, .agate, .evr, .topaz, .trace, .out] b (seqTransferTx i (some v) b) := by
  obtain ⟨small, alone, -, -⟩ := transferFault_none hf
  let n := leAt d 16 1
  let y := wakeSqe n b
  let x : Transfer := ⟨i, n, .tx, leAt d 32 2, 0, leAt d 24 8, v⟩
  let z := engMod n (fun e => { e with tx := e.tx ++ txWords v (leAt d 32 2) }) (startDue y)
  have ganged' : ganged y n = false := (ganged_of_settings (wakeSqe_settings n b) n).trans (alone (by rw [ho]; decide))
  have room' : (y.engine n).tx.length + x.words ≤ txDepth y n := by
    rw [show y.engine n = b.engine n from wakeSqe_engine n n b]
    unfold txDepth qJoin at room ⊢
    rwa [field_of_settings (wakeSqe_settings n b)]
  have none : z.agate.transfers = [] := (startDue_transfers y).trans ((congrArg Agate.transfers (wakeSqe_agate n b)).trans ht)
  have eq : seqTransferTx i (some v) b = finishCtrl i stOk frameNone 0 0 (withTransfers [] z) := by
    refine (seqTransfer_begins (op := .tx) hd ht (by rw [ho]; rfl) hf v).trans ?_
    exact (moveTx_all (b := y) (x := x) ganged' rfl hv room').trans
      (keepTransfer_done (b := z) (x := { x with moved := x.words }) none (Nat.le_refl _))
  have engine : (seqTransferTx i (some v) b).engine n = z.engine n := by
    rw [eq]
    exact (congrArg (fun a : Agate => vget a.eng n blankEngine) (finishCtrl_agate ..)).trans rfl
  refine ⟨?_, ?_, seqTransferTx_frame (by decide) (onlyChanges_refl _ b)⟩
  · rw [engine, engMod_engine_self small]
    show ((startDue y).engine n).tx ++ _ = _
    rw [(startDue_queues y n).1, show y.engine n = b.engine n from wakeSqe_engine n n b]
  · rw [eq, finishCtrl_agate]
    rfl

theorem seqTransferRx_all (ho : leAt d 17 1 = 1) (there : leAt d 32 2 ≤ (b.engine (leAt d 16 1)).rx.length) (hu : b.hostUp = true) :
    ((seqTransferRx i b).engine (leAt d 16 1)).rx = (b.engine (leAt d 16 1)).rx.drop (leAt d 32 2) ∧
      (seqTransferRx i b).agate.transfers = [] ∧
      (leAt d 24 8, rxBytes ((b.engine (leAt d 16 1)).rx.take (leAt d 32 2))) ∈ (seqTransferRx i b).out.host ∧
      onlyChanges [.posts, .agate, .evr, .topaz, .trace, .out] b (seqTransferRx i b) := by
  obtain ⟨small, alone, -, words⟩ := transferFault_none hf
  let n := leAt d 16 1
  let y := wakeSqe n b
  let x : Transfer := ⟨i, n, .rx, leAt d 32 2, 0, leAt d 24 8, []⟩
  have same : y.engine n = b.engine n := wakeSqe_engine n n b
  let z := (engMod n (fun e => { e with rx := e.rx.drop (leAt d 32 2) }) (startDue y)).hostWrite (leAt d 24 8)
    (rxBytes ((y.engine n).rx.take (leAt d 32 2)))
  have ganged' : ganged y n = false := (ganged_of_settings (wakeSqe_settings n b) n).trans (alone (by rw [ho]; decide))
  have none : z.agate.transfers = [] := (startDue_transfers y).trans ((congrArg Agate.transfers (wakeSqe_agate n b)).trans ht)
  have eq : seqTransferRx i b = finishCtrl i stOk frameNone 0 0 (withTransfers [] z) := by
    refine (seqTransfer_begins (op := .rx) hd ht (by rw [ho]; rfl) hf []).trans ?_
    exact (moveRx_all (b := y) (x := x) ganged' ((wakeSqe_hostUp n b).trans hu) rfl words (there.trans_eq (by rw [same]))).trans
      (keepTransfer_done (b := z) (x := { x with moved := x.words }) none (Nat.le_refl _))
  have engine : (seqTransferRx i b).engine n = (engMod n (fun e => { e with rx := e.rx.drop (leAt d 32 2) }) (startDue y)).engine n := by
    rw [eq]
    exact (congrArg (fun a : Agate => vget a.eng n blankEngine) (finishCtrl_agate ..)).trans rfl
  refine ⟨?_, ?_, ?_, seqTransferRx_frame (by decide) (onlyChanges_refl _ b)⟩
  · rw [engine, engMod_engine_self small]
    show ((startDue y).engine n).rx.drop _ = _
    rw [(startDue_queues y n).2, same]
  · rw [eq, finishCtrl_agate]
    rfl
  · rw [eq, ← same]
    exact (finishCtrl_keepsPoll ..).host.subset List.mem_cons_self

/-- With the host not writable RX words stay where they are, and the transfer goes on. -/
theorem seqTransferRx_waits (ho : leAt d 17 1 = 1) (hu : b.hostUp = false) :
    ((seqTransferRx i b).engine (leAt d 16 1)).rx = (b.engine (leAt d 16 1)).rx ∧
      (seqTransferRx i b).agate.transfers = [⟨i, leAt d 16 1, .rx, leAt d 32 2, 0, leAt d 24 8, []⟩] ∧
      onlyChanges [.posts, .agate, .evr, .topaz, .trace, .out] b (seqTransferRx i b) := by
  obtain ⟨-, -, -, words⟩ := transferFault_none hf
  let n := leAt d 16 1
  let x : Transfer := ⟨i, n, .rx, leAt d 32 2, 0, leAt d 24 8, []⟩
  have eq : seqTransferRx i b = withTransfers [x] (wakeSqe n b) := by
    refine (seqTransfer_begins (op := .rx) hd ht (by rw [ho]; rfl) hf []).trans ?_
    exact (moveRx_down (b := wakeSqe n b) (x := x) ((wakeSqe_hostUp n b).trans hu)).trans
      (keepTransfer_open (x := x) ((congrArg Agate.transfers (wakeSqe_agate n b)).trans ht) (Nat.pos_of_ne_zero words))
  refine ⟨?_, ?_, seqTransferRx_frame (by decide) (onlyChanges_refl _ b)⟩
  · rw [eq]
    exact congrArg Engine.rx (wakeSqe_engine n n b)
  · rw [eq]
    rfl

theorem seqTransferProgram_all {v : List Byte} {cycles : Nat} (ho : leAt d 17 1 = 2) (hv : 2 * leAt d 32 2 ≤ v.length)
    (hc : leAt d 32 2 ≤ cycles) :
    (∀ k < leAt d 32 2, vget (seqTransferProgram i (some v) cycles b).agate.store (leAt d 18 1 + k) 0 = BitVec.ofNat 16 (leAt v (2 * k) 2)) ∧
      (seqTransferProgram i (some v) cycles b).agate.transfers = [] ∧
      onlyChanges [.posts, .agate, .evr, .topaz, .trace, .out] b (seqTransferProgram i (some v) cycles b) := by
  obtain ⟨-, -, store, -⟩ := transferFault_none hf
  let x : Transfer := ⟨i, leAt d 18 1, .program, leAt d 32 2, 0, leAt d 24 8, v⟩
  let words := programWords v (leAt d 32 2)
  let z := words.zipIdx.foldl (storeWord (leAt d 18 1)) b
  have eq : seqTransferProgram i (some v) cycles b = finishCtrl i stOk frameNone 0 0 (withTransfers [] z) := by
    refine (seqTransfer_begins (op := .program) hd ht (by rw [ho]; rfl) hf v).trans ?_
    exact (moveProgram_all (x := x) rfl hv hc).trans
      (keepTransfer_done (b := z) (x := { x with moved := x.words }) ((storeWords_transfers ..).trans ht) (Nat.le_refl _))
  have length : words.length = leAt d 32 2 := by simp [words, programWords]
  refine ⟨fun k hk => ?_, ?_, seqTransferProgram_frame (by decide) (onlyChanges_refl _ b)⟩
  · have stored := (storeWords_store (leAt d 18 1) words 0 (by rw [length]; exact store ho) b).1 k (by rwa [length])
    have word : words.getD k 0 = leAt v (2 * k) 2 := by simp [words, programWords, hk]
    rw [eq, finishCtrl_agate, ← word]
    exact stored
  · rw [eq, finishCtrl_agate]
    rfl

end

/-! ### The time-out -/

section
variable {i : Nat}

theorem seqTransferTimeout_undispatched (h : b.dispatched ctrlRing i 0x0C = none) : seqTransferTimeout i b = b := by
  unfold seqTransferTimeout
  rw [h]
  cases b.agate.transfers.find? (fun t => t.desc == i) <;> rfl

variable {d : List Byte} (h : b.dispatched ctrlRing i 0x0C = some d)
include h

theorem seqTransferTimeout_without (h0 : leAt d 34 2 = 0) : seqTransferTimeout i b = b := by
  unfold seqTransferTimeout
  rw [h]
  cases b.agate.transfers.find? (fun t => t.desc == i) with
  | none => exact if_pos (by rw [decide_eq_true h0]; rfl)
  | some t => exact if_pos h0

theorem seqTransferTimeout_one {x : Transfer} (ht : b.agate.transfers = [x]) (hi : x.desc = i) (h0 : leAt d 34 2 ≠ 0) :
    seqTransferTimeout i b = endTransfer x stTimeout b := by
  have found : b.agate.transfers.find? (fun t => t.desc == i) = some x := by simp [ht, hi]
  unfold seqTransferTimeout
  rw [found, h]
  exact if_neg h0

end

end

end Sys2Proof.Machine

section
open Sys2Proof Sys2Proof.Machine

/-- Settles O50: edges and Cadence events as they reach the engines, and transfers as they begin, end and wait. -/
theorem pinsEventsAndTransfersReachEngines : Obligations.PinsEventsAndTransfersReachEngines := by
  refine ⟨?edge, ?driven, ?armed, ?disarmed, ?inactive, ?edgeReplay, ?inactiveReplay, ?cadence, ?noCadence, ?trigSame, ?trigEdge, ?trigOff,
    ?fault, ?unreadable, ?tx, ?rx, ?program, ?unread, ?timeout, ?rxDown, ?noTx, ?noRx, ?noProgram, ?noTimeout, ?untimed,
    ?edgeTotal, ?trigTotal, ?inactiveTotal, ?cadenceTotal, ?cadenceFails, ?cadenceIdle, ?gioTotal, ?txTotal, ?rxTotal, ?programTotal,
    ?timeoutTotal⟩
  case edge => rintro q b p level s ha hp h rfl; exact act_gated ha (seqIoEdge_seen hp h)
  case driven => exact fun q b p level ha h => act_gated ha (seqIoEdge_driven h)
  case armed => rintro q b joins s ha hm rfl harm hl; exact act_live_gated hm ha (trigInEdge_armed joins harm hl)
  case disarmed => rintro q b joins s ha hm rfl h; exact act_live_gated hm ha (trigInEdge_disarmed joins h)
  case inactive => rintro q b s ha hm rfl; exact act_live_gated hm ha rfl
  case edgeReplay => exact fun q b joins _ hm => act_live_replay hm
  case inactiveReplay => exact fun q b _ hm => act_live_replay hm
  case cadence =>
    rintro q b k l s ha he hc rfl
    refine .of_next (act_served ha he rfl) ⟨(latched_engine hc (by decide : 0 < 8)).2, fun n hn => ?_,
      cadenceEventAgate_frame (by decide) (onlyChanges_refl _ b)⟩
    rw [(latched_engine hc hn).1]
    exact latchEvent_eq k _
  case noCadence => exact fun q b lost ha he hc => act_served ha he (cadenceEventAgate_none lost hc)
  case trigSame => exact fun q b w hb h => act_of_eq ((gioTrigWrite_on hb).trans (if_pos h))
  case trigEdge => exact fun q b w hb h => act_of_eq ((gioTrigWrite_on hb).trans (if_neg h))
  case trigOff => exact fun q b w hb => act_of_eq (gioTrigWrite_off hb)
  case fault =>
    exact fun q b i off v d ha hd ht ho hf => act_gated ha (seqTransfer_fault hd ht (by rw [ho]; rfl) hf)
  case unreadable => exact fun q b i d ha hd ht ho hf => act_gated ha (seqTransfer_unreadable hd ht (by rw [ho]; rfl) hf)
  case tx =>
    exact fun q b i d v ha hd ht ho hf hv room => .of_next (act_gated ha rfl) (seqTransferTx_all hd ht hf ho hv room)
  case rx =>
    exact fun q b i d ha hd ht ho hf there hu => .of_next (act_gated ha rfl) (seqTransferRx_all hd ht hf ho there hu)
  case program =>
    exact fun q b i cycles d v ha hd ht ho hf hv hc => .of_next (act_gated ha rfl) (seqTransferProgram_all hd ht hf ho hv hc)
  case unread =>
    intro q b i d x ha hd ht hi ho
    subst hi
    exact act_gated ha ((seqTransfer_unread hd ht rfl ho).trans (endTransfer_one ht (by decide)))
  case timeout =>
    intro q b i d x ha hd ht hi h0
    subst hi
    exact act_gated ha ((seqTransferTimeout_one hd ht rfl h0).trans (endTransfer_one ht (by decide)))
  case rxDown =>
    exact fun q b i d ha hd ht ho hf hu => .of_next (act_gated ha rfl) (seqTransferRx_waits hd ht hf ho hu)
  case noTx => exact fun q b i v ha hd => act_gated ha (seqTransfer_undispatched hd)
  case noRx => exact fun q b i ha hd => act_gated ha (seqTransfer_undispatched hd)
  case noProgram => exact fun q b i cycles v ha hd => act_gated ha (seqTransfer_undispatched hd)
  case noTimeout => exact fun q b i ha hd => act_gated ha (seqTransferTimeout_undispatched hd)
  case untimed => exact fun q b i d ha hd h0 => act_gated ha (seqTransferTimeout_without hd h0)
  case edgeTotal => exact fun q b p level ha => ⟨act_gated ha rfl, seqIoEdge_frame (by decide) (onlyChanges_refl _ b)⟩
  case trigTotal => exact fun q b joins hm ha => ⟨act_live_gated hm ha rfl, trigInEdge_frame (by decide) (onlyChanges_refl _ b)⟩
  case inactiveTotal => exact fun q b hm ha => ⟨act_live_gated hm ha rfl, trigInInactive_frame (by decide) (onlyChanges_refl _ b)⟩
  case cadenceTotal => exact fun q b lost ha he => ⟨act_served ha he rfl, cadenceEventAgate_frame (by decide) (onlyChanges_refl _ b)⟩
  case cadenceFails => exact fun q b lost hf => act_served_failing hf rfl
  case cadenceIdle => exact fun q b lost hf h => act_served_idle hf h
  case gioTotal => exact fun q b w => ⟨act_of_eq rfl, gioTrigWrite_frame (by decide) (onlyChanges_refl _ b)⟩
  case txTotal => exact fun q b i v ha => ⟨act_gated ha rfl, seqTransferTx_frame (by decide) (onlyChanges_refl _ b)⟩
  case rxTotal => exact fun q b i ha => ⟨act_gated ha rfl, seqTransferRx_frame (by decide) (onlyChanges_refl _ b)⟩
  case programTotal => exact fun q b i v cycles ha => ⟨act_gated ha rfl, seqTransferProgram_frame (by decide) (onlyChanges_refl _ b)⟩
  case timeoutTotal => exact fun q b i ha => ⟨act_gated ha rfl, seqTransferTimeout_frame (by decide) (onlyChanges_refl _ b)⟩

end
end

section
/-! O59: the loss and the return of the main input, the flush and the thermal shutdown (14 R380, R381, R394, R395; 15 R411 to R417). -/

-- The proofs are elaborated one after another: each waiting in a thread of its own takes more memory than the check allows.
set_option Elab.async false

namespace Sys2Proof.Machine

section
variable {b : Block}

/-! ### Reports of the hold-up state -/

theorem settleHold_topaz (x : Block) : (settleHold x).topaz = { x.topaz with
    pwr := driven { x.topaz.pwr with pack := { x.topaz.pwr.pack with ready := readyNow x.topaz.pwr } } } := tellHold_topaz _

/-- The channels, but for the trace. -/
def Block.links (b : Block) : Channels := { b.ch with evr := [] }

theorem links_kept {a c : Block} {ps : List Piece} (h : onlyChanges ps a c) (hp : .ch ∉ ps) : c.links = a.links :=
  congrArg (fun c : Channels => { c with evr := [] }) (kept_ch h hp)

theorem settleHold_links (x : Block) : (settleHold x).links = x.links :=
  links_kept (settleHold_frame (List.Subset.refl _) (onlyChanges_refl _ x)) (by decide)

theorem logPower_topaz (state : Nat) (x : Block) : (logPower state x).topaz = x.topaz := Block.logEvr_topaz ..

theorem logPower_opal (state : Nat) (x : Block) : (logPower state x).opal = x.opal := Block.logEvr_opal ..

/-! ### The loss of the main input -/

/-- The power path without the main input; a flush runs or not, and Onyx has reported or not. -/
def lostPower (p : Power) (flush : Bool) (report : Option Bool) : Power := { p with
  mainOk := false, mainSeenLow := true, gdMain := false, pack := { p.pack with phase := .off }, flush, onyxReport := report }

/-- The main input is lost, before a flush starts. -/
def inputLost (b : Block) : Block :=
  settleFaultPin ((logPower 0 (modPwr (fun p => { p with
    mainOk := false, mainSeenLow := true, gdMain := false, pack := { p.pack with phase := .off } }) b)).modTopaz (fun t => { t with
      railFails := 0, faultCode := 0 }))

/-- `t` is Topaz without the main input. -/
def LostTopaz (t0 t : Topaz) (flush : Bool) (report : Option Bool) : Prop :=
  ∃ pin, t = { t0 with pwr := lostPower t0.pwr flush report, railFails := 0, faultCode := 0, faultPin := pin }

theorem inputLost_topaz (b : Block) : LostTopaz b.topaz (inputLost b).topaz b.topaz.pwr.flush b.topaz.pwr.onyxReport := by
  refine ⟨(inputLost b).topaz.faultPin, ?_⟩
  unfold inputLost settleFaultPin
  simp only [Block.modTopaz_topaz, logPower_topaz]
  rfl

theorem inputLost_opal (b : Block) : (inputLost b).opal = b.opal := logPower_opal ..

theorem inputLost_links (b : Block) : (inputLost b).links = b.links :=
  links_kept (a := modPwr _ b) (c := logPower 0 (modPwr _ b)) (Block.logEvr_kept ..) (by decide)

/-- What every loss of the main input comes to. -/
theorem settleHold_lost {x : Block} {flush : Bool} {report : Option Bool} (h : LostTopaz b.topaz x.topaz flush report) :
    ((settleHold x).topaz.pwr.mainOk = false ∧ (settleHold x).topaz.pwr.mainSeenLow = true ∧ (settleHold x).topaz.pwr.gdMain = false ∧
      (settleHold x).topaz.pwr.pack.phase = .off ∧ (settleHold x).topaz.railFails = 0 ∧ (settleHold x).topaz.faultCode = 0 ∧
      (settleHold x).topaz.psq = b.topaz.psq) ∧
    (settleHold x).topaz.pwr.flush = flush ∧ (settleHold x).topaz.pwr.onyxReport = report := by
  obtain ⟨pin, h⟩ := h
  rw [settleHold_topaz, h]
  exact ⟨⟨rfl, rfl, rfl, rfl, rfl, rfl, rfl⟩, rfl, rfl⟩

theorem settleHold_lost_reports {x : Block} {flush : Bool} {report : Option Bool} (h : LostTopaz b.topaz x.topaz flush report)
    (ho : x.opal = b.opal) {ps : List Piece} (frame : onlyChanges ps b (settleHold x)) : reports ps b (settleHold x) := by
  obtain ⟨pin, h⟩ := h
  refine tellHold_reports frame ho ?_ ?_
  · exact (congrArg Topaz.released h).trans rfl
  · exact (congrArg (fun t : Topaz => t.pwr.reported) h).trans rfl

/-- A flush starts: the loss is sent, and the reports stand. -/
def flushKept (b : Block) : Block := sendLoss (modPwr (fun p => { p with flush := true }) (inputLost b))

/-- A flush starts: the loss is sent, and the reports are forgotten. -/
def flushFresh (b : Block) : Block :=
  sendLoss ((modPwr (fun p => { p with flush := true, onyxReport := none }) (inputLost b)).modCh (fun c => { c with
    onyxReport := [], opalReport := [] }))

theorem flushKept_topaz (b : Block) : LostTopaz b.topaz (flushKept b).topaz true b.topaz.pwr.onyxReport := by
  obtain ⟨pin, h⟩ := inputLost_topaz b
  exact ⟨pin, (congrArg (fun t : Topaz => { t with pwr := { t.pwr with flush := true } }) h :)⟩

theorem flushFresh_topaz (b : Block) : LostTopaz b.topaz (flushFresh b).topaz true none := by
  obtain ⟨pin, h⟩ := inputLost_topaz b
  exact ⟨pin, (congrArg (fun t : Topaz => { t with pwr := { t.pwr with flush := true, onyxReport := none } }) h :)⟩

theorem sendLoss_opal (x : Block) : (sendLoss x).opal = x.opal := rfl

theorem flushKept_opal (b : Block) : (flushKept b).opal = b.opal := (sendLoss_opal _).trans (inputLost_opal b)

theorem flushFresh_opal (b : Block) : (flushFresh b).opal = b.opal := by
  have forgets (x : Block) : (sendLoss ((modPwr (fun p => { p with flush := true, onyxReport := none }) x).modCh (fun c => { c with
      onyxReport := [], opalReport := [] }))).opal = x.opal := rfl
  exact (forgets _).trans (inputLost_opal b)

/-- The channels with the loss sent. -/
def withLoss (b : Block) (c : Channels) : Channels := { c with
  topazGarnet := c.topazGarnet ++ [.loss (flushMs b.topaz.pwr)], topazOnyx := c.topazOnyx ++ [.loss (flushMs b.topaz.pwr)]
  topazOpal := c.topazOpal ++ [.loss (flushMs b.topaz.pwr)] }

theorem inputLost_flushMs (b : Block) : flushMs (inputLost b).topaz.pwr = flushMs b.topaz.pwr := by
  obtain ⟨pin, h⟩ := inputLost_topaz b
  rw [h]
  rfl

theorem flushKept_links (b : Block) : (flushKept b).links = withLoss b b.links := by
  rw [← inputLost_links b]
  unfold withLoss
  rw [← inputLost_flushMs]
  rfl

theorem flushFresh_links (b : Block) :
    (flushFresh b).links = withLoss b { b.links with onyxReport := [], opalReport := [] } := by
  rw [← inputLost_links b]
  unfold withLoss
  rw [← inputLost_flushMs]
  rfl

theorem mainInputLoss_none {mv : Nat} (h : b.topaz.pwr.on = false ∨ mainUvMv b.topaz.pwr ≤ mv) : mainInputLoss mv b = b := by
  refine if_pos ?_
  obtain h | h := h
  · rw [h]; rfl
  · rw [decide_eq_true h, Bool.or_true]

section
variable {mv : Nat} (hon : b.topaz.pwr.on = true) (hmv : mv < mainUvMv b.topaz.pwr)
include hon hmv

theorem mainInputLoss_acts : mainInputLoss mv b =
    if b.topaz.psq = .off || b.topaz.pwr.flush || b.topaz.drop.isSome then settleHold (inputLost b)
    else if b.topaz.shutSent || b.topaz.fatal then settleHold (flushKept b) else settleHold (flushFresh b) := by
  obtain ⟨pin, h⟩ := inputLost_topaz b
  have acts : mainInputLoss mv b =
      if (inputLost b).topaz.psq = .off || b.topaz.pwr.flush || (inputLost b).topaz.drop.isSome then settleHold (inputLost b)
      else if (inputLost b).topaz.shutSent || (inputLost b).topaz.fatal then settleHold (flushKept b)
      else settleHold (flushFresh b) :=
    if_neg (by rw [hon, decide_eq_false (Nat.not_le.mpr hmv)]; decide)
  rw [acts, h]

/-- With the rails down, in a flush or in a drop nothing is sent. -/
theorem mainInputLoss_silent (h : b.topaz.psq = .off ∨ b.topaz.pwr.flush = true ∨ b.topaz.drop ≠ none) :
    mainInputLoss mv b = settleHold (inputLost b) := by
  rw [mainInputLoss_acts hon hmv, if_pos]
  obtain h | h | h := h
  · rw [decide_eq_true h]; rfl
  · rw [h, Bool.or_true]; rfl
  · rw [Option.isSome_iff_ne_none.mpr h, Bool.or_true]

section
variable (hp : b.topaz.psq ≠ .off) (hf : b.topaz.pwr.flush = false) (hd : b.topaz.drop = none)
include hp hf hd

theorem mainInputLoss_flushes : mainInputLoss mv b =
    if b.topaz.shutSent || b.topaz.fatal then settleHold (flushKept b) else settleHold (flushFresh b) := by
  rw [mainInputLoss_acts hon hmv, if_neg]
  rw [decide_eq_false hp, hf, hd]
  decide

theorem mainInputLoss_fresh (hs : b.topaz.shutSent = false) (hx : b.topaz.fatal = false) :
    mainInputLoss mv b = settleHold (flushFresh b) := by
  rw [mainInputLoss_flushes hon hmv hp hf hd, hs, hx]
  rfl

theorem mainInputLoss_kept (h : b.topaz.shutSent = true ∨ b.topaz.fatal = true) :
    mainInputLoss mv b = settleHold (flushKept b) := by
  rw [mainInputLoss_flushes hon hmv hp hf hd, if_pos ((Bool.or_eq_true ..).mpr h)]

end

end

/-! ### The return of the main input -/

/-- The main input is back. -/
def inputBack (b : Block) : Block :=
  logPower 1 (modPwr (fun p => { p with mainOk := true, gdMain := p.gdMain || !p.flush })
    (b.modTopaz (fun t => { t with railFails := 0 })))

theorem inputBack_topaz (b : Block) : (inputBack b).topaz = { b.topaz with
    pwr := { b.topaz.pwr with mainOk := true, gdMain := b.topaz.pwr.gdMain || !b.topaz.pwr.flush }, railFails := 0 } :=
  logPower_topaz ..

theorem inputBack_opal (b : Block) : (inputBack b).opal = b.opal := logPower_opal ..

/-- Power-up as the main input comes back. -/
theorem poweringUp_back (b : Block) : (tellHold (poweringUp (inputBack b))).topaz.pwr.mainOk = true ∧
    (tellHold (poweringUp (inputBack b))).topaz.psq = .raising 0 ∧
    (tellHold (poweringUp (inputBack b))).topaz.enables = vset b.topaz.enables 0 true ∧
    (tellHold (poweringUp (inputBack b))).topaz.pwr.gdMain = true ∧ (tellHold (poweringUp (inputBack b))).topaz.railFails = 0 ∧
    (tellHold (poweringUp (inputBack b))).topaz.faultCode = 0 ∧ (tellHold (poweringUp (inputBack b))).regs = [] := by
  have regs : (tellHold (poweringUp (inputBack b))).regs = [] := (tellHold_kept _).at_ .regs (by decide)
  have begun (x : Block) : (poweringUp x).topaz.pwr.mainOk = x.topaz.pwr.mainOk ∧
      (poweringUp x).topaz.enables = vset x.topaz.enables 0 true ∧ (poweringUp x).topaz.railFails = x.topaz.railFails :=
    ⟨rfl, rfl, rfl⟩
  obtain ⟨ok, enables, fails⟩ := begun (inputBack b)
  rw [inputBack_topaz] at ok enables fails
  rw [tellHold_topaz]
  exact ⟨ok, rfl, enables, rfl, fails, rfl, regs⟩

/-- What is noted of the main input that is back. -/
theorem settleHold_back (b : Block) : (settleHold (inputBack b)).topaz.pwr.mainOk = true ∧
    (settleHold (inputBack b)).topaz.pwr.gdMain = (b.topaz.pwr.gdMain || !b.topaz.pwr.flush) ∧
    (settleHold (inputBack b)).topaz.railFails = 0 ∧ (settleHold (inputBack b)).topaz.psq = b.topaz.psq ∧
    (settleHold (inputBack b)).topaz.pwr.flush = b.topaz.pwr.flush := by
  rw [settleHold_topaz, inputBack_topaz]
  exact ⟨rfl, rfl, rfl, rfl, rfl⟩

theorem settleHold_back_reports {ps : List Piece} (frame : onlyChanges ps b (settleHold (inputBack b))) :
    reports ps b (settleHold (inputBack b)) :=
  tellHold_reports frame (inputBack_opal b) (congrArg Topaz.released (inputBack_topaz b) :)
    (congrArg (fun t : Topaz => t.pwr.reported) (inputBack_topaz b) :)

theorem mainInputReturn_none {mv : Nat} (h : b.topaz.pwr.on = false ∨ b.topaz.pwr.mainOk = true ∨ mv < mainOkMv b.topaz.pwr) :
    mainInputReturn mv b = b := by
  refine if_pos ?_
  obtain h | h | h := h
  · rw [h]; rfl
  · rw [h, Bool.or_true]; rfl
  · rw [decide_eq_true h, Bool.or_true]

section
variable {mv : Nat} (hon : b.topaz.pwr.on = true) (hok : b.topaz.pwr.mainOk = false) (hmv : mainOkMv b.topaz.pwr ≤ mv)
include hon hok hmv

theorem mainInputReturn_acts : mainInputReturn mv b =
    if b.topaz.psq = .off && b.topaz.pwr.upWait.isNone && b.topaz.pwr.mainSeenLow then beginPowerUp (inputBack b)
    else settleHold (inputBack b) :=
  if_neg (by rw [hon, hok, decide_eq_false (Nat.not_lt.mpr hmv)]; decide)

theorem mainInputReturn_begins (hp : b.topaz.psq = .off) (hw : b.topaz.pwr.upWait = none) (hl : b.topaz.pwr.mainSeenLow = true) :
    mainInputReturn mv b = tellHold (poweringUp (inputBack b)) :=
  (mainInputReturn_acts hon hok hmv).trans (if_pos (by rw [hp, hw, hl]; decide))

theorem mainInputReturn_noted (h : b.topaz.psq ≠ .off ∨ b.topaz.pwr.upWait ≠ none ∨ b.topaz.pwr.mainSeenLow = false) :
    mainInputReturn mv b = settleHold (inputBack b) := by
  rw [mainInputReturn_acts hon hok hmv, if_neg]
  rw [Bool.and_eq_true, Bool.and_eq_true, decide_eq_true_eq, Option.isNone_iff_eq_none]
  rintro ⟨⟨hp, hw⟩, hl⟩
  obtain h | h | h := h
  · exact h hp
  · exact h hw
  · exact Bool.false_ne_true (h.symm.trans hl)

end

/-! ### The end of a flush -/

theorem flushReport_drops (hf : b.topaz.pwr.flush = true) (hr : b.ch.opalReport ≠ []) :
    flushReport b = startDrop (.flush (b.topaz.pwr.onyxReport == some true)) b :=
  if_pos (by rw [hf, List.isEmpty_eq_false_iff.mpr hr]; rfl)

theorem startDrop_dropping (r : DropReason) (h : b.topaz.drop ≠ none) : startDrop r b = b :=
  if_pos (Option.isSome_iff_ne_none.mpr h)

theorem flushReport_none (h : b.topaz.pwr.flush = false ∨ b.ch.opalReport = [] ∨ b.topaz.drop ≠ none) : flushReport b = b := by
  obtain h | h | h := h
  · exact if_neg (by rw [h, Bool.false_and]; exact Bool.false_ne_true)
  · exact if_neg (by rw [h, List.isEmpty_nil, Bool.not_true, Bool.and_false]; exact Bool.false_ne_true)
  · unfold flushReport
    rw [startDrop_dropping _ h, ite_self]

theorem flushDeadline_drops (hf : b.topaz.pwr.flush = true) :
    flushDeadline b = startDrop (.flush (b.topaz.pwr.onyxReport == some true)) b := if_pos hf

theorem flushDeadline_none (h : b.topaz.pwr.flush = false ∨ b.topaz.drop ≠ none) : flushDeadline b = b := by
  obtain h | h := h
  · exact if_neg (by rw [h]; exact Bool.false_ne_true)
  · unfold flushDeadline
    rw [startDrop_dropping _ h, ite_self]

/-! ### The Shutdown signal -/

theorem eventGap_topaz (sink : Island) (b : Block) :
    (eventGap sink b).topaz = { b.topaz with gaps := min 65535 (b.topaz.gaps + 1) } :=
  (postFault_frame (ps := [.posts, .evr, .trace, .out]) (by decide) (onlyChanges_refl _ _)).at_ .topaz (by decide)

theorem eventGap_links (sink : Island) (b : Block) : (eventGap sink b).links = b.links :=
  links_kept (eventGap_frame (List.Subset.refl _) (onlyChanges_refl _ b)) (by decide)

/-- The shutdown run that a signal opens. -/
def shutRun (g : Nat) (r : Int) (b : Block) : ShutRun := ⟨g, r, b.garnet.take.isSome, none⟩

section
variable {g : Nat} {r : Int} {l : List (Nat × Int)} (h : b.ch.shutSignal = (g, r) :: l)
include h

theorem serveShutSignal_again (hs : b.topaz.shutSent = true ∨ b.topaz.fatal = true) :
    serveShutSignal b = b.modCh (fun c => { c with shutSignal := l }) := by
  unfold serveShutSignal
  rw [h]
  exact if_pos ((Bool.or_eq_true ..).mpr hs)

theorem serveShutSignal_first (hs : b.topaz.shutSent = false) (hx : b.topaz.fatal = false) : serveShutSignal b =
    if b.topaz.pwr.flush then { b with
      topaz := { b.topaz with shut := some (shutRun g r b), shutSent := true }, ch := { b.ch with shutSignal := l } }
    else { b with
      topaz := { b.topaz with shut := some (shutRun g r b), shutSent := true }
      ch := { b.ch with
        shutSignal := l, topazGarnet := b.ch.topazGarnet ++ [.shutdown], topazOnyx := b.ch.topazOnyx ++ [.shutdown]
        topazOpal := b.ch.topazOpal ++ [.shutdown] } } := by
  unfold serveShutSignal
  rw [h]
  refine (if_neg ?_).trans rfl
  show ¬(b.topaz.shutSent || b.topaz.fatal) = true
  rw [hs, hx]
  decide

/-- A signal is taken, no gap is forgotten, and the shutdown has been sent. -/
theorem serveShutSignal_taken : (serveShutSignal b).ch.shutSignal = l ∧ (serveShutSignal b).topaz.gaps = b.topaz.gaps ∧
    (b.topaz.fatal = false → (serveShutSignal b).topaz.shutSent = true) := by
  by_cases hs : b.topaz.shutSent = true ∨ b.topaz.fatal = true
  · rw [serveShutSignal_again h hs]
    exact ⟨rfl, rfl, fun hx => hs.resolve_right (by rw [hx]; exact Bool.false_ne_true)⟩
  · obtain ⟨hs, hx⟩ := not_or.mp hs
    rw [serveShutSignal_first h (Bool.eq_false_of_not_eq_true hs) (Bool.eq_false_of_not_eq_true hx)]
    split <;> exact ⟨rfl, rfl, fun _ => rfl⟩

end

theorem shutdownSignal_none {lost : Nat} (h : b.ch.shutSignal.length ≤ lost) : shutdownSignal lost b = b := if_pos h

theorem shutdownSignal_now {s : Nat × Int} {l : List (Nat × Int)} (h : b.ch.shutSignal = s :: l) :
    shutdownSignal 0 b = serveShutSignal b :=
  if_neg (by rw [h]; exact Nat.not_succ_le_zero _)

/-- Signals lost before the one taken count as a gap. -/
theorem shutdownSignal_gap {lost : Nat} (hl : lost < b.ch.shutSignal.length) (hg : gapSeen lost = true) :
    (shutdownSignal lost b).ch.shutSignal = b.ch.shutSignal.drop (lost + 1) ∧
      (shutdownSignal lost b).topaz.gaps = min 65535 (b.topaz.gaps + 1) ∧
      (b.topaz.fatal = false → (shutdownSignal lost b).topaz.shutSent = true) := by
  let x := eventGap .topaz (b.modCh (fun c => { c with shutSignal := c.shutSignal.drop lost }))
  have topaz : x.topaz = { b.topaz with gaps := min 65535 (b.topaz.gaps + 1) } := eventGap_topaz ..
  have front : x.ch.shutSignal = b.ch.shutSignal[lost] :: b.ch.shutSignal.drop (lost + 1) :=
    (congrArg Channels.shutSignal (eventGap_links ..) :).trans (List.drop_eq_getElem_cons hl)
  have eq : shutdownSignal lost b = serveShutSignal x := by
    unfold shutdownSignal berylGap
    rw [if_neg (Nat.not_le.mpr hl), if_pos hg]
  obtain ⟨taken, gaps, sent⟩ := serveShutSignal_taken (b := x) front
  rw [eq]
  refine ⟨taken, gaps.trans ?_, fun hx => sent ?_⟩
  · rw [topaz]
  · rw [topaz]
    exact hx

/-! ### The deadline of a shutdown -/

theorem telEntry_toNat {s : ShutRun} {cut : Bool} (hg : s.group < 4) (h0 : 0 ≤ s.peak) (hp : s.peak < 2560) :
    ((telEntry s false cut).toNat : Int) = s.group + 8 * bit s.inTake + 16 * (s.peak / 10) + 4096 * bit cut + 32768 := by
  have peak : (clampInt (s.peak / 10) 0 255) = s.peak / 10 := by
    unfold clampInt
    omega
  have inTake : bit s.inTake ≤ 1 := by cases s.inTake <;> decide
  have cut' : bit cut ≤ 1 := by cases cut <;> decide
  unfold telEntry
  dsimp only
  rw [peak, BitVec.toNat_ofNat, show bit false = 0 from rfl, Nat.mod_eq_of_lt (by omega)]
  omega

theorem shutdownDeadline_forms {s : ShutRun} (hf : b.topaz.pwr.flush = false) (hd : b.topaz.drop = none)
    (hs : b.topaz.shutSent = true) (h : b.topaz.shut = some s) (he : s.entry = none) : shutdownDeadline b =
      (b.modTopaz (fun t => { t with shut := some { s with entry := some (telEntry s false (!flushOk b)) } })).modCh (fun c => { c with
        opalReport := [], telBurn := c.telBurn ++ [⟨telEntry s false (!flushOk b), false, false⟩] }) := by
  unfold shutdownDeadline
  rw [if_neg (by rw [hf, hd, hs, Bool.true_or]; decide), h]
  dsimp only
  rw [if_neg (by rw [he]; decide)]

theorem shutdownDeadline_drops (hf : b.topaz.pwr.flush = false) (hx : b.topaz.fatal = true) (h : b.topaz.shut = none)
    (hd : b.topaz.drop = none) : shutdownDeadline b = startDrop .shutdown b := by
  unfold shutdownDeadline
  rw [if_neg (by rw [hf, hd, hx, Bool.or_true]; decide), h]

theorem shutdownDeadline_none (h : b.topaz.pwr.flush = true ∨ b.topaz.drop ≠ none ∨
    (b.topaz.shutSent = false ∧ b.topaz.fatal = false) ∨ ∃ s, b.topaz.shut = some s ∧ s.entry ≠ none) : shutdownDeadline b = b := by
  obtain h | h | ⟨hs, hx⟩ | ⟨s, h, he⟩ := h
  · exact if_pos (by rw [h]; rfl)
  · exact if_pos (by rw [Option.isSome_iff_ne_none.mpr h, Bool.or_true]; rfl)
  · exact if_pos (by rw [hs, hx, Bool.or_false, Bool.not_false, Bool.or_true])
  · unfold shutdownDeadline
    rw [h]
    dsimp only
    rw [if_pos (Option.isSome_iff_ne_none.mpr he), ite_self]

/-! ### The end of a shutdown -/

/-- Why the rails drop at the end of a shutdown. -/
def shutReason (b : Block) : DropReason :=
  if b.topaz.pwr.flush then .flush (b.topaz.pwr.onyxReport == some true) else .shutdown

theorem shutDrop_eq (b : Block) : shutDrop b = startDrop (shutReason b) b := rfl

theorem latchEntry_room {e : Half} (h : b.topaz.latch.length < 4) :
    latchEntry e b = b.modTopaz (fun t => { t with latch := t.latch ++ [e ||| 4] }) := if_pos h

theorem latchEntry_full {e : Half} (h : 4 ≤ b.topaz.latch.length) :
    latchEntry e b = b.modTopaz (fun t => { t with latchLost := min 255 (t.latchLost + 1) }) := if_neg (Nat.not_lt.mpr h)

/-- What Topaz keeps of shutdowns: the run, the latch, and how many entries it has lost. -/
def Topaz.shutNotes (t : Topaz) : Option ShutRun × List Half × Nat := (t.shut, t.latch, t.latchLost)

theorem latchShut_none (h : b.topaz.shut = none) : latchShut b = b := by
  unfold latchShut
  rw [h]

theorem latchShut_formed {s : ShutRun} {e : Half} (h : b.topaz.shut = some s) (he : s.entry = some e) :
    latchShut b = latchEntry e (b.modTopaz (fun t => { t with shut := none })) := by
  unfold latchShut
  rw [h]
  dsimp only
  rw [he, Option.getD_some]

theorem startDrop_shutNotes {j : Nat} (r : DropReason) (hd : b.topaz.drop = none) (ht : topRail b.topaz = some j) :
    (startDrop r b).topaz.shutNotes = (none, (latchShut b).topaz.latch, (latchShut b).topaz.latchLost) := by
  have kept : ((dropBegins r b).topaz.latch, (dropBegins r b).topaz.latchLost) =
      ((portsOff (latchShut b)).topaz.latch, (portsOff (latchShut b)).topaz.latchLost) := rfl
  rw [portsOff_topaz] at kept
  rw [startDrop_lowers r hd ht]
  exact congrArg (Prod.mk none) kept

theorem shutNotes_iff {t : Topaz} {l : List Half} {n : Nat} : t.shutNotes = (none, l, n) ↔ t.shut = none ∧ t.latch = l ∧ t.latchLost = n := by
  simp [Topaz.shutNotes]

theorem shutReason_flush (h : b.topaz.pwr.flush = true) : shutReason b = .flush (b.topaz.pwr.onyxReport == some true) := if_pos h

theorem shutReason_shutdown (h : b.topaz.pwr.flush = false) : shutReason b = .shutdown :=
  if_neg (by rw [h]; exact Bool.false_ne_true)

/-! ### The result of a burn -/

section
variable {m : TelMsg} {l : List TelMsg} (h : b.ch.telResult = m :: l)
include h

theorem telBurnResult_now : telBurnResult 0 b = serveTelResult b :=
  if_neg (by rw [h]; exact Nat.not_succ_le_zero _)

/-- The block once the result of a shutdown's entry has been taken, before the rails drop. -/
theorem serveTelResult_run (hm : m.latched = false) : serveTelResult b = shutDrop ((if m.ok then b.modCh (fun c => { c with telResult := l })
    else latchEntry m.entry (b.modCh (fun c => { c with telResult := l }))).modTopaz (fun t => { t with shut := none })) := by
  unfold serveTelResult
  rw [h]
  exact if_neg (by rw [hm]; exact Bool.false_ne_true)

/-- The result of a latched entry: whether more are to be burned is noted. -/
theorem serveTelResult_entry (hm : m.latched = true) : ∃ more, serveTelResult b =
    (if m.ok then (b.modCh (fun c => { c with telResult := l })).modTopaz (fun t => { t with
      latch := t.latch.erase m.entry, telBurned := t.telBurned + 1 })
    else b.modCh (fun c => { c with telResult := l })).modTopaz (fun t => { t with telBurning := more }) := by
  unfold serveTelResult
  rw [h]
  exact ⟨_, if_pos hm⟩

/-- A latched entry that was burned leaves the latch. -/
theorem serveTelResult_burned (hm : m.latched = true) (ho : m.ok = true) : (serveTelResult b).ch.telResult = l ∧
    (serveTelResult b).topaz.latch = b.topaz.latch.erase m.entry ∧ (serveTelResult b).topaz.telBurned = b.topaz.telBurned + 1 ∧
    (serveTelResult b).topaz.drop = b.topaz.drop ∧ (serveTelResult b).topaz.gaps = b.topaz.gaps := by
  obtain ⟨more, eq⟩ := serveTelResult_entry h hm
  rw [eq, if_pos ho]
  exact ⟨rfl, rfl, rfl, rfl, rfl⟩

theorem serveTelResult_stays (hm : m.latched = true) (ho : m.ok = false) : (serveTelResult b).ch.telResult = l ∧
    (serveTelResult b).topaz.latch = b.topaz.latch ∧ (serveTelResult b).topaz.telBurned = b.topaz.telBurned ∧
    (serveTelResult b).topaz.drop = b.topaz.drop := by
  obtain ⟨more, eq⟩ := serveTelResult_entry h hm
  rw [eq, if_neg (by rw [ho]; exact Bool.false_ne_true)]
  exact ⟨rfl, rfl, rfl, rfl⟩

section
variable {j : Nat} (hm : m.latched = false) (hd : b.topaz.drop = none) (ht : topRail b.topaz = some j)
include hm hd ht

/-- The entry of the shutdown is burned: the rails drop. -/
theorem telBurnResult_burned (ho : m.ok = true) : (telBurnResult 0 b).topaz.shutNotes = (none, b.topaz.latch, b.topaz.latchLost) ∧
    drops (shutReason b) j b (telBurnResult 0 b) := by
  let z := (b.modCh (fun c => { c with telResult := l })).modTopaz (fun t => { t with shut := none })
  have eq : telBurnResult 0 b = startDrop (shutReason b) z := by
    rw [telBurnResult_now h, serveTelResult_run h hm, if_pos ho]
    rfl
  rw [eq]
  refine ⟨?_, startDrop_drops (b := z) _ hd ht (Block.modTopaz_frame (by decide) (Block.modCh_frame (by decide) (onlyChanges_refl _ b)))⟩
  rw [startDrop_shutNotes (b := z) _ hd ht, latchShut_none (b := z) rfl]
  rfl

/-- The entry of the shutdown is not burned: it goes into the latch. -/
theorem telBurnResult_latched (ho : m.ok = false) (hl : b.topaz.latch.length < 4) :
    (telBurnResult 0 b).topaz.shutNotes = (none, b.topaz.latch ++ [m.entry ||| 4], b.topaz.latchLost) ∧
      drops (shutReason b) j b (telBurnResult 0 b) := by
  let y := (b.modCh (fun c => { c with telResult := l })).modTopaz (fun t => { t with latch := t.latch ++ [m.entry ||| 4] })
  let z := y.modTopaz (fun t => { t with shut := none })
  have eq : telBurnResult 0 b = startDrop (shutReason b) z := by
    rw [telBurnResult_now h, serveTelResult_run h hm, if_neg (by rw [ho]; exact Bool.false_ne_true),
      latchEntry_room (b := b.modCh (fun c => { c with telResult := l })) hl]
    rfl
  rw [eq]
  refine ⟨?_, startDrop_drops (b := z) _ hd ht (Block.modTopaz_frame (by decide) (Block.modTopaz_frame (by decide)
    (Block.modCh_frame (by decide) (onlyChanges_refl _ b))))⟩
  rw [startDrop_shutNotes (b := z) _ hd ht, latchShut_none (b := z) rfl]
  rfl

/-- A fifth entry is only counted. -/
theorem telBurnResult_counted (ho : m.ok = false) (hl : 4 ≤ b.topaz.latch.length) :
    (telBurnResult 0 b).topaz.shutNotes = (none, b.topaz.latch, min 255 (b.topaz.latchLost + 1)) ∧
      drops (shutReason b) j b (telBurnResult 0 b) := by
  let y := (b.modCh (fun c => { c with telResult := l })).modTopaz (fun t => { t with latchLost := min 255 (t.latchLost + 1) })
  let z := y.modTopaz (fun t => { t with shut := none })
  have eq : telBurnResult 0 b = startDrop (shutReason b) z := by
    rw [telBurnResult_now h, serveTelResult_run h hm, if_neg (by rw [ho]; exact Bool.false_ne_true),
      latchEntry_full (b := b.modCh (fun c => { c with telResult := l })) hl]
    rfl
  rw [eq]
  refine ⟨?_, startDrop_drops (b := z) _ hd ht (Block.modTopaz_frame (by decide) (Block.modTopaz_frame (by decide)
    (Block.modCh_frame (by decide) (onlyChanges_refl _ b))))⟩
  rw [startDrop_shutNotes (b := z) _ hd ht, latchShut_none (b := z) rfl]
  rfl

end

end

theorem telBurnResult_none {lost : Nat} (h : b.ch.telResult.length ≤ lost) : telBurnResult lost b = b := if_pos h

/-- Results lost before the one taken count as a gap. -/
theorem telBurnResult_gap {lost : Nat} {m : TelMsg} {l : List TelMsg} (h : b.ch.telResult.drop lost = m :: l)
    (hm : m.latched = true) (ho : m.ok = true) (hg : gapSeen lost = true) :
    (telBurnResult lost b).ch.telResult = l ∧ (telBurnResult lost b).topaz.gaps = min 65535 (b.topaz.gaps + 1) ∧
      (telBurnResult lost b).topaz.latch = b.topaz.latch.erase m.entry ∧
      (telBurnResult lost b).topaz.telBurned = b.topaz.telBurned + 1 := by
  let x := eventGap .topaz (b.modCh (fun c => { c with telResult := c.telResult.drop lost }))
  have topaz : x.topaz = { b.topaz with gaps := min 65535 (b.topaz.gaps + 1) } := eventGap_topaz ..
  have front : x.ch.telResult = m :: l := (congrArg Channels.telResult (eventGap_links ..) :).trans h
  have more : ¬b.ch.telResult.length ≤ lost := fun hl => by
    rw [List.drop_eq_nil_of_le hl] at h
    cases h
  have eq : telBurnResult lost b = serveTelResult x := by
    unfold telBurnResult berylGap
    rw [if_neg more, if_pos hg]
  obtain ⟨taken, latch, burned, -, gaps⟩ := serveTelResult_burned (b := x) front hm ho
  rw [eq]
  rw [topaz] at latch burned gaps
  exact ⟨taken, gaps, latch, burned⟩

/-! ### The burn takes too long -/

theorem railDropTimeout_none (h : ∀ s, b.topaz.shut = some s → s.entry = none) : railDropTimeout b = b := by
  unfold railDropTimeout
  split
  · next s hs => exact if_neg (by rw [h s hs]; decide)
  · rfl

/-- The entry formed goes into the latch, and the rails drop. -/
theorem railDropTimeout_drops {s : ShutRun} {e : Half} {j : Nat} (h : b.topaz.shut = some s) (he : s.entry = some e)
    (hl : b.topaz.latch.length < 4) (hd : b.topaz.drop = none) (ht : topRail b.topaz = some j) :
    (railDropTimeout b).topaz.shutNotes = (none, b.topaz.latch ++ [e ||| 4], b.topaz.latchLost) ∧
      drops (shutReason b) j b (railDropTimeout b) := by
  have eq : railDropTimeout b = startDrop (shutReason b) b := by
    unfold railDropTimeout
    rw [h]
    exact if_pos (by rw [he]; rfl)
  rw [eq]
  refine ⟨?_, startDrop_drops _ hd ht (onlyChanges_refl _ b)⟩
  rw [startDrop_shutNotes _ hd ht, latchShut_formed h he, latchEntry_room (b := b.modTopaz (fun t => { t with shut := none })) hl]
  rfl

end

end Sys2Proof.Machine

section
open Sys2Proof Sys2Proof.Machine

/-- Settles O59: the loss and the return of the main input, the ends of a flush and of a shutdown, and what is lost before them. -/
theorem flushAndShutdownSequences : Obligations.FlushAndShutdownSequences := by
  refine ⟨?loss, ?lossInShutdown, ?lossSilent, ?lossNone, ?returnBegins, ?returnNoted, ?returnNone, ?report, ?reportNone, ?deadline,
    ?deadlineNone, ?signal, ?signalInFlush, ?signalAgain, ?signalNone, ?signalGap, ?forms, ?fatal, ?shutNone, ?burned, ?burnedInFlush,
    ?latched, ?counted, ?unlatched, ?stays, ?resultNone, ?resultGap, ?timeout, ?timeoutInFlush, ?timeoutNone, ?lossTotal, ?returnTotal,
    ?reportTotal, ?deadlineTotal, ?signalTotal, ?shutTotal, ?resultTotal, ?timeoutTotal⟩
  case loss =>
    intro q b mv hon hmv hp hf hd hs hx
    have eq := mainInputLoss_fresh hon hmv hp hf hd hs hx
    have links := (settleHold_links _).trans (flushFresh_links b)
    obtain ⟨⟨ok, low, gate, phase, fails, code, psq⟩, flush, report⟩ := settleHold_lost (flushFresh_topaz b)
    exact .of_next (act_of_eq eq) ⟨ok, low, gate, phase, fails, code, psq, flush, report, (congrArg Channels.onyxReport links :),
      (congrArg Channels.opalReport links :), (congrArg Channels.topazGarnet links :), (congrArg Channels.topazOnyx links :),
      (congrArg Channels.topazOpal links :), settleHold_lost_reports (flushFresh_topaz b) (flushFresh_opal b)
        (eq ▸ mainInputLoss_frame (by decide) (onlyChanges_refl _ b))⟩
  case lossInShutdown =>
    intro q b mv hon hmv hp hf hd hs
    have eq := mainInputLoss_kept hon hmv hp hf hd hs
    have links := (settleHold_links _).trans (flushKept_links b)
    obtain ⟨⟨ok, low, gate, phase, fails, code, psq⟩, flush, report⟩ := settleHold_lost (flushKept_topaz b)
    exact .of_next (act_of_eq eq) ⟨ok, low, gate, phase, fails, code, psq, flush, report, (congrArg Channels.onyxReport links :),
      (congrArg Channels.opalReport links :), (congrArg Channels.topazGarnet links :), (congrArg Channels.topazOnyx links :),
      (congrArg Channels.topazOpal links :), settleHold_lost_reports (flushKept_topaz b) (flushKept_opal b)
        (eq ▸ mainInputLoss_frame (by decide) (onlyChanges_refl _ b))⟩
  case lossSilent =>
    intro q b mv hon hmv h
    have eq := mainInputLoss_silent hon hmv h
    have links := (settleHold_links _).trans (inputLost_links b)
    obtain ⟨⟨ok, low, gate, phase, fails, code, psq⟩, flush, report⟩ := settleHold_lost (inputLost_topaz b)
    exact .of_next (act_of_eq eq) ⟨ok, low, gate, phase, fails, code, psq, flush, report, (congrArg Channels.topazGarnet links :),
      (congrArg Channels.topazOnyx links :), (congrArg Channels.topazOpal links :),
      settleHold_lost_reports (inputLost_topaz b) (inputLost_opal b) (eq ▸ mainInputLoss_frame (by decide) (onlyChanges_refl _ b))⟩
  case lossNone => exact fun q b mv h => act_of_eq (mainInputLoss_none h)
  case returnBegins =>
    intro q b mv hon hok hmv hp hw hl
    have eq := mainInputReturn_begins hon hok hmv hp hw hl
    obtain ⟨ok, psq, enables, gate, fails, code, regs⟩ := poweringUp_back b
    exact .of_next (act_of_eq eq) ⟨ok, psq, enables, gate, fails, code, regs, eq ▸ mainInputReturn_frame (by decide) (onlyChanges_refl _ b)⟩
  case returnNoted =>
    intro q b mv hon hok hmv h
    have eq := mainInputReturn_noted hon hok hmv h
    obtain ⟨ok, gate, fails, psq, flush⟩ := settleHold_back b
    exact .of_next (act_of_eq eq) ⟨ok, gate, fails, psq, flush,
      settleHold_back_reports (eq ▸ mainInputReturn_frame (by decide) (onlyChanges_refl _ b))⟩
  case returnNone => exact fun q b mv h => act_of_eq (mainInputReturn_none h)
  case report =>
    exact fun q b j hf hr hd ht => .of_next (act_of_eq (flushReport_drops hf hr)) (startDrop_drops _ hd ht (onlyChanges_refl _ b))
  case reportNone => exact fun q b h => act_of_eq (flushReport_none h)
  case deadline =>
    exact fun q b j hf hd ht => .of_next (act_of_eq (flushDeadline_drops hf)) (startDrop_drops _ hd ht (onlyChanges_refl _ b))
  case deadlineNone => exact fun q b h => act_of_eq (flushDeadline_none h)
  case signal =>
    intro q b g r l h hs hx hf
    have eq := (shutdownSignal_now h).trans ((serveShutSignal_first h hs hx).trans (if_neg (by rw [hf]; exact Bool.false_ne_true)))
    exact .of_next (act_of_eq eq) ⟨rfl, rfl, rfl, rfl, rfl, eq ▸ shutdownSignal_frame (by decide) (onlyChanges_refl _ b)⟩
  case signalInFlush =>
    intro q b g r l h hs hx hf
    have eq := (shutdownSignal_now h).trans ((serveShutSignal_first h hs hx).trans (if_pos hf))
    exact .of_next (act_of_eq eq) ⟨rfl, rfl, rfl, rfl, rfl, eq ▸ shutdownSignal_frame (by decide) (onlyChanges_refl _ b)⟩
  case signalAgain => exact fun q b s l h hs => act_of_eq ((shutdownSignal_now h).trans (serveShutSignal_again h hs))
  case signalNone => exact fun q b lost h => act_of_eq (shutdownSignal_none h)
  case signalGap =>
    intro q b lost hl hg
    obtain ⟨taken, gaps, sent⟩ := shutdownSignal_gap hl hg
    exact .of_next (act_of_eq rfl) ⟨taken, gaps, sent, shutdownSignal_frame (by decide) (onlyChanges_refl _ b)⟩
  case forms =>
    intro q b s hf hd hs h he hg h0 hp
    have eq := shutdownDeadline_forms hf hd hs h he
    exact .of_next (act_of_eq eq) ⟨⟨_, rfl, rfl, telEntry_toNat hg h0 hp⟩, hd,
      eq ▸ shutdownDeadline_frame (by decide) (onlyChanges_refl _ b)⟩
  case fatal =>
    exact fun q b j hf hx h hd ht =>
      .of_next (act_of_eq (shutdownDeadline_drops hf hx h hd)) (startDrop_drops _ hd ht (onlyChanges_refl _ b))
  case shutNone => exact fun q b h => act_of_eq (shutdownDeadline_none h)
  case burned =>
    intro q b m l j h hm ho hf hd ht
    obtain ⟨notes, drop⟩ := telBurnResult_burned h hm hd ht ho
    obtain ⟨shut, latch, -⟩ := shutNotes_iff.mp notes
    exact .of_next (act_of_eq rfl) ⟨latch, shut, shutReason_shutdown hf ▸ drop⟩
  case burnedInFlush =>
    intro q b m l j h hm ho hf hd ht
    obtain ⟨notes, drop⟩ := telBurnResult_burned h hm hd ht ho
    obtain ⟨shut, latch, -⟩ := shutNotes_iff.mp notes
    exact .of_next (act_of_eq rfl) ⟨latch, shut, shutReason_flush hf ▸ drop⟩
  case latched =>
    intro q b m l j h hm ho hl hf hd ht
    obtain ⟨notes, drop⟩ := telBurnResult_latched h hm hd ht ho hl
    obtain ⟨shut, latch, -⟩ := shutNotes_iff.mp notes
    exact .of_next (act_of_eq rfl) ⟨latch, shut, shutReason_shutdown hf ▸ drop⟩
  case counted =>
    intro q b m l j h hm ho hl hf hd ht
    obtain ⟨notes, drop⟩ := telBurnResult_counted h hm hd ht ho hl
    obtain ⟨-, latch, count⟩ := shutNotes_iff.mp notes
    exact .of_next (act_of_eq rfl) ⟨latch, count, shutReason_shutdown hf ▸ drop⟩
  case unlatched =>
    intro q b m l h hm ho
    have eq := telBurnResult_now h
    obtain ⟨taken, latch, burned, drop, -⟩ := serveTelResult_burned h hm ho
    exact .of_next (act_of_eq eq) ⟨taken, latch, burned, drop, eq ▸ telBurnResult_frame (by decide) (onlyChanges_refl _ b)⟩
  case stays =>
    intro q b m l h hm ho
    have eq := telBurnResult_now h
    obtain ⟨taken, latch, burned, drop⟩ := serveTelResult_stays h hm ho
    exact .of_next (act_of_eq eq) ⟨taken, latch, burned, drop, eq ▸ telBurnResult_frame (by decide) (onlyChanges_refl _ b)⟩
  case resultNone => exact fun q b lost h => act_of_eq (telBurnResult_none h)
  case resultGap =>
    intro q b lost m l h hm ho hg
    obtain ⟨taken, gaps, latch, burned⟩ := telBurnResult_gap h hm ho hg
    exact .of_next (act_of_eq rfl) ⟨taken, gaps, latch, burned, telBurnResult_frame (by decide) (onlyChanges_refl _ b)⟩
  case timeout =>
    intro q b s e j h he hl hf hd ht
    obtain ⟨notes, drop⟩ := railDropTimeout_drops h he hl hd ht
    obtain ⟨shut, latch, -⟩ := shutNotes_iff.mp notes
    exact .of_next (act_of_eq rfl) ⟨latch, shut, shutReason_shutdown hf ▸ drop⟩
  case timeoutInFlush =>
    intro q b s e j h he hl hf hd ht
    obtain ⟨notes, drop⟩ := railDropTimeout_drops h he hl hd ht
    obtain ⟨shut, latch, -⟩ := shutNotes_iff.mp notes
    exact .of_next (act_of_eq rfl) ⟨latch, shut, shutReason_flush hf ▸ drop⟩
  case timeoutNone => exact fun q b h => act_of_eq (railDropTimeout_none h)
  case lossTotal => exact fun q b mv => ⟨act_of_eq rfl, mainInputLoss_frame (by decide) (onlyChanges_refl _ b)⟩
  case returnTotal => exact fun q b mv => ⟨act_of_eq rfl, mainInputReturn_frame (by decide) (onlyChanges_refl _ b)⟩
  case reportTotal => exact fun q b => ⟨act_of_eq rfl, flushReport_frame (by decide) (onlyChanges_refl _ b)⟩
  case deadlineTotal => exact fun q b => ⟨act_of_eq rfl, flushDeadline_frame (by decide) (onlyChanges_refl _ b)⟩
  case signalTotal => exact fun q b lost => ⟨act_of_eq rfl, shutdownSignal_frame (by decide) (onlyChanges_refl _ b)⟩
  case shutTotal => exact fun q b => ⟨act_of_eq rfl, shutdownDeadline_frame (by decide) (onlyChanges_refl _ b)⟩
  case resultTotal => exact fun q b lost => ⟨act_of_eq rfl, telBurnResult_frame (by decide) (onlyChanges_refl _ b)⟩
  case timeoutTotal => exact fun q b => ⟨act_of_eq rfl, railDropTimeout_frame (by decide) (onlyChanges_refl _ b)⟩

end
end
